-- ==== Sys2Proof/Word.lean ====
section
/-! DEFINITION. The word types of the KM7 (R4, R11): bytes, 32-bit register words and 64-bit values. -/

namespace Sys2Proof

/-- One byte of memory. -/
abbrev Byte := BitVec 8
/-- One halfword of a core command (R116). -/
abbrev Half := BitVec 16
/-- One register of BAR0 or BAR2 (R4). -/
abbrev Word := BitVec 32
/-- A tick, a time, a sequence number. -/
abbrev Dword := BitVec 64

end Sys2Proof
end

