-- ==== Sys2Proof/Syntax.lean ====
section
/-! DEFINITION. The commands of the KM7 block: one constructor for each row of the opcode table, with the operands that the
rule behind the row needs (an instance number, a value written, what a pin or a link delivers). -/

namespace Sys2Proof

/-- What the SECDED code of an SRAM finds on the reads of a command (R184): the number of words it corrects, and the words that an
error of two bits, or one of more bits that passes unnoticed, has changed: byte address and the 64-bit word as it stands. -/
structure Ecc where
  ce : Nat := 0
  ue : List (Nat × Nat) := []
  alt : List (Nat × Nat) := []
deriving DecidableEq, Repr

/-- A command: one row of the opcode table. DESIGN CHOICE (log entry 61). -/
inductive Instr where
  /-- R5: A write to a register field that has no row of its own sets, clears or ignores the field under its access code. -/
  | registerWrite (a : Nat) (v : Word)
  /-- R5: A read of an RC field returns its value and clears it; an event in the same cycle is kept for the next read. -/
  | registerReadClear (a : Nat)
  /-- R522: A read of a _LO register copies its _HI partner into the shared latch. -/
  | loReadLatch (a : Nat)
  /-- R16: An accepted commit point (recipe, partition, unit map, power change) takes effect at its boundary, in acceptance order. -/
  | commitPointApply
  /-- R41: Writing LANE_INJ.TX inverts the next transmitted bit of a chain lane. -/
  | laneInjTx (l : Nat)
  /-- R41: Writing LANE_INJ.RX inverts the next received bit of a lane. -/
  | laneInjRx (l : Nat)
  /-- R41: Every RATE x 1,024 bits the lane inverts one bit. -/
  | lanePeriodicInject (l : Nat)
  /-- R40: Writing LANE_CNT.CLR zeroes LANE_ERR and LANE_BIT. -/
  | laneCntClr (l : Nat)
  /-- R37: A lane under override out of CDR lock for 100 us resumes adaptation, sets EQ_CLAMP and counts it. -/
  | eqClamp (l peak : Nat)
  /-- R39: The PRBS checker enters lock after 64 consecutive error-free bits. -/
  | prbsLock (l bitsN : Nat) (wire : List Bool)
  /-- R39: The checker leaves lock after 32 bit errors within 1,024 bits and searches again. -/
  | prbsUnlock (l bitsN errs : Nat) (wire : List Bool)
  /-- R51: Writing CXP_CTRL.EN to 1 moves the link from OFF to POWER_WAIT unless its lanes are claimed. -/
  | cxpLinkEnable (n : Nat) (v : Word)
  /-- R51: Writing CXP_CTRL.EN to 0 returns the link to OFF from any state. -/
  | cxpLinkDisable (n : Nat) (v : Word)
  /-- R51: The master lane gains CDR and word lock in POWER_WAIT and the link moves to DISCOVER. -/
  | cxpMasterLock (n : Nat)
  /-- R51: DISC_TO seconds pass in POWER_WAIT and the link enters FAULT with cause 1. -/
  | cxpDiscTimeout (n : Nat)
  /-- R51: A bootstrap read of discovery completes; after all reads the link enters CONFIG, after three failures FAULT cause 2. -/
  | cxpBootstrapReadDone (n : Nat) (ok last : Bool) (conn speed : Nat) (hs : Bool)
  /-- R51: The camera acknowledges ConnectionConfig and the link enters SWITCH. -/
  | cxpConfigAck (n : Nat)
  /-- R51: All lanes lock at the new speed and the link enters UP. -/
  | cxpSwitchLocked (n : Nat)
  /-- R51: Lock is not reached within 100 ms; the link retries CONFIG at a lower speed or faults with cause 3. -/
  | cxpSwitchTimeout (n : Nat)
  /-- R51: A lane of an UP link is out of lock for 1 ms and the link returns to POWER_WAIT. -/
  | cxpLockLoss (n : Nat)
  /-- R51: CAM_PWR_FLT_N is low for 10 us; CAM_PWR_EN drops and the link enters FAULT cause 4. -/
  | cxpPowerFault (n : Nat)
  /-- R51: Writing CXP_CMD.RESTART moves a FAULT link to POWER_WAIT. -/
  | cxpRestart (n : Nat)
  /-- R53: Writing CXP_CC_CMD.GO issues a control command, or completes it at once or ignores it under the state rules. -/
  | cxpCcGo (n : Nat) (v : Word)
  /-- R64: The camera's reply to a control command arrives and the command completes with its RESULT. -/
  | cxpCcReply (n result : Nat) (data : List Byte)
  /-- R53: No acknowledge within CXP_CC_TO ms completes the command with RESULT 1. -/
  | cxpCcTimeout (n : Nat)
  /-- R56: A stream packet arrives and is mapped to its context or discarded and counted. -/
  | cxpStreamPacket (n id fmt : Nat) (crcBad gap : Bool) (data : List Byte)
  /-- R57: A camera heartbeat is received and stamped with the tick counter. -/
  | cxpHeartbeatRx (n camTime : Nat)
  /-- R57: No heartbeat for CXP_HB_TO ms in UP sets HB_LOST. -/
  | cxpHbTimeout (n : Nat)
  /-- R57: An event packet enters the link's event FIFO, or is dropped with OVF when full. -/
  | cxpEventPacket (n : Nat) (data : List Byte)
  /-- R57: Writing CXP_EVT_STATUS.POP removes the oldest event entry. -/
  | cxpEvtPop (n : Nat)
  /-- R75: Writing IFL_CTRL.EN to 1 moves a port from OFF to SEEK. -/
  | iflEnable (p : Nat) (v : Word)
  /-- R75: Writing IFL_CTRL.EN to 0 puts the port in OFF. -/
  | iflDisable (p : Nat) (v : Word)
  /-- R75: Writing IFL_CMD.RETRAIN moves the port to SEEK. -/
  | iflRetrain (p : Nat)
  /-- R75: After SerDes calibration the port starts transmitting markers. -/
  | iflTxStart (p : Nat)
  /-- R75: A marker word arrives and advances the port's lock, LOCKED or UP state, or takes the port down on PARTNER_SEEN 0. -/
  | iflMarkerRx (p i : Nat) (wire : List Bool) (skew : Nat)
  /-- R75: Three expected marker positions pass without a valid marker and the port goes down to SEEK. -/
  | iflMarkerMissing (p i : Nat)
  /-- R73: A flit is received, CRC- and sequence-checked, delivered or discarded with a NAK, and its ACK, NAK or CREDIT processed. -/
  | iflFlitRx (p : Nat) (w0 w1 : List Bool)
  /-- R73: No ACK progress for ACK_TO cycles starts a replay. -/
  | iflAckTimeout (p : Nat)
  /-- R72: A CREDIT flit is sent at least every 64 FABRIC cycles while a counter has changed. -/
  | iflCreditSend (p : Nat)
  /-- R279: The host side acts on a received tick: rebuilds its count, forwards it to camera links and pipe contexts. -/
  | lineTick (j : Nat)
  /-- R93: A line becomes complete in the ingress buffer and pairs with the oldest pending tick or is discarded. -/
  | pixLineComplete (n x : Nat)
  /-- R93: A pending tick's age reaches LINE_TO and it is retired as a missing line. -/
  | pixTickTimeout (x : Nat)
  /-- R94: The pipe begins the next turn of its order, paying 64 PIX cycles on a context switch. -/
  | pipeTurnStart (p : Nat)
  /-- R83: A line passes through the pipe stages and the formatters write its outputs. -/
  | pixLineProcessed (p : Nat) (bad : List (Nat × List Byte)) (ecc : List (Nat × Ecc))
  /-- R159: A pipe producer learns of a freed slot at the next realignment boundary and may resume writing. -/
  | pipeFreeNotice (k h : Nat)
  /-- R96: Writing CTX_CMD.COMMIT checks the shadow and sets COMMIT_PENDING. -/
  | ctxCommit (x : Nat)
  /-- R96: Writing CTX_CMD.ABORT clears a pending commit. -/
  | ctxAbort (x : Nat)
  /-- R96: Writing PIPE_CMD.COMMIT makes the pipe order commit pending. -/
  | pipeCommit (p : Nat)
  /-- R109: Writing CTX_CTRL.EN to 1 checks and copies the shadow and restarts frame, stripe and record numbers. -/
  | ctxEnable (x : Nat) (v : Word)
  /-- R109: Writing CTX_CTRL.EN to 0 ends the context, truncating the stripe and frame in progress. -/
  | ctxDisable (x : Nat) (v : Word)
  /-- R98: Writing SET_CMD.GO queues a settings request with its generation and target frame, or refuses it. -/
  | setGo (x : Nat) (v : Word)
  /-- R99: The camera acknowledges a pipe settings write; the generation in force and frame flags update, or SET_FAIL is set. -/
  | settingsAck (x : Nat) (ok : Bool)
  /-- R119: NOP occupies the sequencer one cycle. -/
  | nop (c : Nat)
  /-- R123: LOAD starts a transfer into the scratchpad. -/
  | load (c : Nat)
  /-- R123: STORE starts a transfer out of the scratchpad, optionally Riffle-encoded. -/
  | store (c : Nat) (ecc : Ecc)
  /-- R131: MMA multiplies A by B and accumulates into a bank in the fixed reduction order. -/
  | mma (c : Nat) (ecc : Ecc)
  /-- R135: DRAIN converts a bank region and writes it to the scratchpad. -/
  | drain (c : Nat) (ecc : Ecc)
  /-- R136: VOP applies an elementwise function to COUNT elements. -/
  | vop (c : Nat) (ecc : Ecc)
  /-- R137: VLUT evaluates a 256-segment piecewise-linear function. -/
  | vlut (c : Nat) (ecc : Ecc)
  /-- R138: VSORT sorts groups of 64 keys or selects the top k. -/
  | vsort (c : Nat) (ecc : Ecc)
  /-- R147: WINDOW runs a sliding-window operator named by its descriptor. -/
  | window (c : Nat) (ecc : Ecc)
  /-- R120: WAIT checks a token; free mode stalls until reached, timed mode proceeds and marks a miss. -/
  | wait (c : Nat)
  /-- R120: A stalled free-mode WAIT finds its token reached and issue resumes. -/
  | waitSatisfied (c : Nat)
  /-- R120: TSET sets or adds to a token. -/
  | tset (c : Nat)
  /-- R122: CALL enters a called list, nesting up to depth 4. -/
  | call (c : Nat) (ecc : Ecc)
  /-- R117: END ends a list and returns to the caller or ends the depth-0 list. -/
  | endList (c : Nat)
  /-- R139: YIELD stops the core in YIELDED when a pre-emption is pending, else costs one cycle. -/
  | yieldPoint (c cycles : Nat)
  /-- R340: VERDICT reads the verdict block and judges the item, starting the DIGEST_WAIT count. -/
  | verdict (c : Nat) (ecc : Ecc)
  /-- R523: The sequencer's fetch of a list tile completes, verified under R180. -/
  | listTileFetch (c : Nat) (ecc : Ecc)
  /-- R120: A command's last result is written and its SIG token is incremented. -/
  | commandComplete (c : Nat) (units : List Nat) (ecc : Ecc)
  /-- R196: A transfer's last granule lands; SIG and DSIG tokens increment, or it fails without tokens. -/
  | transferComplete (c space : Nat) (bad : List (Nat × List Byte)) (down : Bool) (data : List Byte) (ecc merge : Ecc)
  /-- R145: Writing CORE_CMD.CLEAR_ERR in ERROR clears CORE_ERR and returns to IDLE. -/
  | coreClearErr (site : Nat)
  /-- R158: A post to a stripe channel takes effect and fills the next slot. -/
  | stripePost (k h : Nat)
  /-- R159: A consumer's release takes effect, ending its hold and possibly freeing a slot. -/
  | stripeRelease (k h j : Nat)
  /-- R158: Sixteen CORE cycles after a post, RDY_TOK of every consumer is incremented. -/
  | rdyTokSignal (k h : Nat)
  /-- R159: Sixteen CORE cycles after a free, FREE_TOK of the core producer is incremented. -/
  | freeTokSignal (k h : Nat)
  /-- R163: Writing LSC_CFG.EN to 1 enables the channel and zeroes its counters, or is refused. -/
  | lscEnable (k h : Nat) (v : Word)
  /-- R163: Writing LSC_CFG.EN to 0 discards holds and frees every slot without signalling. -/
  | lscDisable (k h : Nat) (v : Word)
  /-- R192: Writing SLU_CTRL.COMMIT checks a table's shadow and makes the swap pending. -/
  | sluCommit (n cycle : Nat)
  /-- R192: Writing MEM_SLU_COMMIT commits the named tables together. -/
  | memSluCommit (tables : Word) (cycle : Nat)
  /-- R192: Writing SLU_CTRL.ABORT clears a pending swap. -/
  | sluAbort (n : Nat)
  /-- R187: A Sluice period begins; pending tables swap and refresh debt is updated. -/
  | sluicePeriodBoundary (temp0 temp1 : Nat)
  /-- R190: A slot moves the owning stream's granules, refreshes, stays idle or is passed to the arbiter. -/
  | sluiceSlot (n i ready ce : Nat) (ue : List Nat)
  /-- R198: The arbiter decides the grant for the next FABRIC cycle in round robin. -/
  | openSlotArbitrate (n requests : Nat) (withdrawn : Bool)
  /-- R200: The overdue-refresh engine or debug capture port takes open cycles and revokes a grant. -/
  | emergencyRequest (n : Nat) (stale : Bool)
  /-- R176: A remote access arrives and is served or refused against the remote windows. -/
  | remoteAccessRx (port : Nat) (write : Bool) (far len rif : Nat) (data : List Byte) (bad : List (Nat × List Byte)) (ecc : Ecc)
  /-- R201: HBM training and zeroing complete and INIT_DONE sets. -/
  | hbmInitDone
  /-- R212: A core site is fenced and stops issuing, with partition-dependent handling. -/
  | coreFence (site cause : Nat)
  /-- R211: Writing DET_FENCE.GO fences SITE with cause 4. -/
  | detFenceGo (site : Nat)
  /-- R211: A sequencer does not answer the management poll within 100 us and is fenced with cause 5. -/
  | corePollTimeout (site : Nat)
  /-- R216: Every 100 ms an idle spare runs a background self-test and is fenced on failure. -/
  | spareSelfTest (k : Nat) (pass : Bool)
  /-- R213: At the period boundary after a fence or fetch failure the INSPECT engine halts the schedule. -/
  | recipeHalt
  /-- R213: The spare is loaded and the recipe re-armed; the schedule restarts at the next stripe post. -/
  | spareRestart (k : Nat)
  /-- R214: An item is released UNDECIDED at the latest moment its bound allows while the schedule is not running. -/
  | undecidedRelease (seq : Nat)
  /-- R220: A line digest completes and is absorbed into its items' input digests. -/
  | lineDigestDone (ctx : Nat)
  /-- R222: DIGEST_WAIT cycles after VERDICT the verdict is released, producing the record and EJECT_ARM in one cycle. -/
  | verdictRelease (seq : Nat)
  /-- R227: The management processor begins a seal when time and leaf conditions hold. -/
  | sealStart (n : Nat)
  /-- R231: Signing completes; the seal body and seal record are written, or the seal is held. -/
  | sealSigned (n : Nat)
  /-- R232: A stop request from host, management or debug makes the stop pending. -/
  | gstopStop (source : Nat)
  /-- R232: At the stop cycle the data plane freezes in a consistent cut and Ifepen ports capture flits. -/
  | gstopTakeEffect
  /-- R234: A release request schedules the resume, or is held or ignored. -/
  | gstopRelease (source : Nat)
  /-- R234: The data plane resumes on a 10,240-cycle multiple; held commits and fences then apply. -/
  | gstopResume
  /-- R242: A filtered encoder line changes and the channel steps Q and P, or flags an illegal transition. -/
  | encInputChange (ch : Nat) (a b : Bool)
  /-- R240: An RS-422 pair in use stays below threshold 1 us; OPEN sets and lines hold. -/
  | encOpenDetect (ch pair : Nat)
  /-- R245: A qualified rising Z edge latches P or loads ENC_PRESET. -/
  | encZEdge (ch : Nat) (level : Bool)
  /-- R246: The Hall code changes and steps Q, or is illegal or impossible by phase. -/
  | hallCodeChange (ch code : Nat)
  /-- R250: Every 16 FIELD cycles the ADCs sample and the channel updates angle, F, Q and amplitude state. -/
  | sincosSample (ch sin cos : Nat)
  /-- R253: A serial frame period starts; a clock is sent or the frame fails NOT_READY. -/
  | serFrameStart (ch : Nat) (dataLow : Bool)
  /-- R255: START does not arrive within 64 clock periods and the frame fails START_TIMEOUT. -/
  | serStartTimeout (ch : Nat)
  /-- R254: The data line does not return high within TO us and the frame fails END_TIMEOUT. -/
  | serEndTimeout (ch : Nat)
  /-- R257: A serial frame ends and, if good, updates Q; otherwise it counts as failed. -/
  | serFrameDone (ch raw delay n : Nat)
  /-- R260: Every 1 us the observer updates x, v and a and the Weir groups recompute their lead. -/
  | observerUpdate (ch n : Nat)
  /-- R263: A write of ENC_CFG.MODE acts as CLR_CNT, clears serial and sin/cos state and sets START. -/
  | encModeChange (ch : Nat) (v : Word)
  /-- R262: ENC_CMD.LATCH copies P, x, v, a and status into the LAT registers. -/
  | encLatch (ch : Nat)
  /-- R263: ENC_CMD.CLR_CNT loads ENC_PRESET into P and Q and zeroes the observer. -/
  | encClrCnt (ch : Nat)
  /-- R252: ENC_CMD.CAL_CLR resets the calibration extremes and period count. -/
  | encCalClr (ch : Nat)
  /-- R261: ENC_CMD.BW_SET computes the observer gains from OBS_BW and brings them into use. -/
  | encBwSet (ch : Nat)
  /-- R261: ENC_CMD.K_APPLY brings the shadow gains into use from the next update. -/
  | encKApply (ch : Nat)
  /-- R264: A synthesized repeater steps R one count towards P, at most once per GAP cycles. -/
  | repStep (i : Nat)
  /-- R273: At the end of each 400 ns window a side launches one frame carrying the highest-ranked message. -/
  | barrierFrameLaunch (toHost : Bool) (wait : Nat) (waits : List Nat)
  /-- R272: A frame arrives; SYNC lock, CRC and WPAR are checked and bad frames discarded. -/
  | barrierFrameRx (toHost : Bool) (frame : Nat)
  /-- R272: Three expected SYNC positions are missed and the receiver loses lock. -/
  | barrierSyncLoss (toHost : Bool)
  /-- R293: A host-to-field HEARTBEAT is acted on; with RELEASE after 64 valid ones the field leaves safe state. -/
  | heartbeat
  /-- R294: A field-to-host HEARTBEAT updates BAR_STATUS and cancels pending entries when SAFE is 1. -/
  | fieldHeartbeat
  /-- R279: The host side acts on an ENC_SNAPSHOT, rebasing tick counts and retiring lost ticks. -/
  | encSnapshot
  /-- R289: The host side acts on a DI_CHANGE, opening or closing input-window items. -/
  | diChange
  /-- R285: The host side acts on an EJECT_REPORT and publishes the ejection report record or discards a duplicate. -/
  | ejectReport
  /-- R275: The host side acts on a FAULT message from the field side. -/
  | fault
  /-- R276: The host side acts on a CFG_READ response and completes the proxied access. -/
  | cfgReadResponse
  /-- R282: The Weir checks an arriving entry in order and queues it or reports it missed. -/
  | ejectArm
  /-- R290: The field side sets static outputs in MASK and answers with DO_VALUE. -/
  | doSet
  /-- R263: The field side applies a configuration write as a commit point and answers it. -/
  | cfgWrite
  /-- R263: The field side serves a register read and answers it. -/
  | cfgRead
  /-- R276: No response within 3 us; the host side resends, or after three tries fails with CFG_FAIL. -/
  | cfgResponseTimeout
  /-- R278: A periodic ENC_SNAPSHOT is sent every SNAP_PERIOD us or a KIND 1 snapshot every 1 ms. -/
  | snapshotTimer (periodic : Bool) (i : Nat)
  /-- R280: A strobe pulse of STB_WIDTH cycles ends. -/
  | strobePulseEnd (i : Nat)
  /-- R283: A group's FIFO head with d >= 0 fires its outputs and presents its EJECT_REPORT. -/
  | weirFire (g now : Nat)
  /-- R284: A fired output's pulse width ends in time or counts and the output switches off. -/
  | weirPulseEnd (g out now : Nat)
  /-- R287: Every 10.24 us a valve port samples its image and shifts a frame, pulsing LE for the previous one. -/
  | valveFrame (p : Nat)
  /-- R289: A debounced input changes and, with its edge enabled, a DI_CHANGE is presented. -/
  | diFilterChange (inputs : Nat)
  /-- R291: An output in current limit over 2 ms or in thermal shutdown sets FIELD_FAULT and sends FAULT. -/
  | doFault (i : Nat) (hot : Bool)
  /-- R269: L+ crosses its undervoltage threshold; LP_OK changes and FAULT is sent. -/
  | lpUndervoltage (ok : Bool)
  /-- R292: No valid HEARTBEAT for HB_TO us; the field side switches outputs off and cancels the Weir. -/
  | safeStateEntry
  /-- R293: Writing BAR_CMD.RELEASE sets RELEASE in the next four host HEARTBEATs. -/
  | barRelease
  /-- R294: No field-to-host frame for FLOSS_TO us; pending entries are reported CANCELLED. -/
  | fieldLoss
  /-- R300: A TB_RATE write re-anchors the time base and applies the new rate, or is refused. -/
  | tbRateWrite (n : Nat) (v : Word)
  /-- R300: TB_CMD.SET sets the time base to the staged value. -/
  | tbSet (n : Nat)
  /-- R300: TB_CMD.STEP steps the time base by the staged signed value. -/
  | tbStep (n : Nat)
  /-- R301: TIME_CMD.SNAP copies the tick counter and all time bases from one cycle. -/
  | timeSnap
  /-- R300: TIME_CMD.COPY copies one time base's anchor, value and rate to another. -/
  | timeCopy (v : Word)
  /-- R302: A compare unit reaches its target, fires, and advances a periodic target. -/
  | cmpFire (i : Nat)
  /-- R304: The TIME_PPS_OUT pulse ends after WIDTH us. -/
  | ppsPulseEnd
  /-- R304: An edge on TIME_EVT_IN captures tick and TB0, or sets OVR. -/
  | timeCapture (falling : Bool)
  /-- R305: A frame is received, stamped and completed into a posted buffer or dropped. -/
  | ethRxFrame (p : Nat) (good : Bool) (data : List Byte)
  /-- R335: A transmitted frame's last symbol leaves the port; its stamp is queued and the descriptor completes. -/
  | ethTxDone (p : Nat)
  /-- R309: Writing ETH_TXTS_STATUS.POP removes the oldest transmit stamp. -/
  | ethTxtsPop (p : Nat)
  /-- R310: Every PERIOD us a chain master or slave sends SYNC on its ports. -/
  | tb1SyncSend
  /-- R311: A slave accepts a SYNC, takes t1 and t2, and sends a DELAY_REQ. -/
  | tb1SyncRx (p : Nat)
  /-- R310: A DELAY_REQ is answered with a DELAY_RESP. -/
  | tb1DelayReqRx (p : Nat)
  /-- R312: A slave computes offset and delay and steps or slews TB1. -/
  | tb1DelayRespRx (p : Nat)
  /-- R313: No SYNC for three periods, or UPPORT down, puts the slave in holdover. -/
  | tb1Holdover
  /-- R324: Writing HOST_ABI negotiates DEV_ABI.ACTIVE. -/
  | hostAbiWrite (v : Word)
  /-- R327: A submission queue doorbell sets the tail, or halts the queue on overrun. -/
  | sqDoorbell (q : Nat) (v : Word)
  /-- R329: A completion queue head doorbell frees entries. -/
  | cqHeadDoorbell (q : Nat) (v : Word)
  /-- R343: A result ring head doorbell releases consumed slots. -/
  | rrHeadDoorbell (n : Nat) (v : Word)
  /-- R328: Writing SQ_CFG.EN to 1 enables a queue or refuses with CFG_INVALID. -/
  | sqEnable (q : Nat) (v : Word)
  /-- R328: SQ_CMD.RESTART resumes a halted queue, and Headwater when it holds the stop sample. -/
  | sqRestart (q : Nat)
  /-- R328: SQ_CMD.RESET, or EN written 0, moves the queue to RESETTING. -/
  | sqReset (q : Nat) (cfg : Option Word)
  /-- R328: Every started descriptor has completed and the queue becomes DISABLED. -/
  | sqResetDone (q : Nat)
  /-- R353: Writing CQ_CFG.EN enables or disables a completion queue. -/
  | cqEnable (q : Nat) (v : Word)
  /-- R354: Writing RR_CFG.EN enables or disables a result ring. -/
  | rrEnable (n : Nat) (v : Word)
  /-- R327: An engine fetches and starts the next pending descriptor of a queue. -/
  | descriptorFetch (q : Nat) (pcieError : Bool)
  /-- R329: A completion entry is written in descriptor order when room exists. -/
  | completionWrite (q : Nat)
  /-- R338: RECIPE_LOAD checks and loads a recipe image into a slot. -/
  | recipeLoad (q : Nat)
  /-- R339: RECIPE_COMMIT checks the slot and submits the commit point arming it. -/
  | recipeCommit (q : Nat)
  /-- R339: RECIPE_DISARM disarms the armed recipe at a commit point. -/
  | recipeDisarm (q : Nat)
  /-- R332: RECIPE_DROP empties a slot that is not armed. -/
  | recipeDrop (q : Nat)
  /-- R358: JOB_RUN accepts a job in a shared partition or refuses it. -/
  | jobRun (q : Nat) (ecc : Ecc)
  /-- R361: JOB_CANCEL stops and removes a job. -/
  | jobCancel (q : Nat)
  /-- R382: TEXT_SAMPLE submits a sample to Headwater after its checks. -/
  | textSample (q : Nat)
  /-- R334: COPY moves bytes between address spaces piece by piece. -/
  | copy (q outcome : Nat) (got : List Byte) (ecc merge : Ecc)
  /-- R334: FILL writes a 32-bit pattern over a range. -/
  | fill (q : Nat) (ecc : Ecc)
  /-- R335: ETH_TX sends one Ethernet frame, optionally stamped and one-step modified. -/
  | ethTx (q : Nat)
  /-- R335: ETH_RX_POST posts one receive buffer. -/
  | ethRxPost (q : Nat)
  /-- R475: IMAGE_PIECE writes one 64 KiB piece of an image into the inactive slot. -/
  | imagePiece (q : Nat) (flashFail : Bool)
  /-- R439: POWER_TOL sets the three latency tolerances. -/
  | powerTol (q : Nat)
  /-- R356: PARTITION_SET assigns clusters to a partition at a commit point. -/
  | partitionSet (q : Nat)
  /-- R474: UPDATE_BEGIN opens delivery into the inactive slot and returns its progress. -/
  | updateBegin (q : Nat) (flashFail : Bool)
  /-- R476: UPDATE_ABORT empties the inactive slot. -/
  | updateAbort (q : Nat) (flashFail : Bool)
  /-- R477: UPDATE_ACTIVATE verifies the complete image and makes it PENDING. -/
  | updateActivate (q : Nat) (flashFail : Bool)
  /-- R478: UPDATE_CONFIRM confirms a TRIAL slot, settles settings and raises the floor. -/
  | updateConfirm (q : Nat) (flashFail : Bool)
  /-- R476: UPDATE_REVERT moves ACTIVE back to the other slot. -/
  | updateRevert (q : Nat) (flashFail : Bool)
  /-- R484: RECOVERY_WRITE copies a confirmed inactive slot into the recovery region. -/
  | recoveryWrite (q : Nat) (flashFail : Bool)
  /-- R480: SETTINGS_SAVE stores a privileged settings set from the registers in force. -/
  | settingsSave (q : Nat) (flashFail : Bool)
  /-- R480: SETTINGS_READ returns a settings record. -/
  | settingsRead (q : Nat) (flashFail : Bool)
  /-- R484: SETTINGS_WRITE stores a host record. -/
  | settingsWrite (q : Nat) (flashFail : Bool)
  /-- R484: SETTINGS_ERASE erases a host record. -/
  | settingsErase (q : Nat) (flashFail : Bool)
  /-- R471: CERT_GET returns the certificate chain. -/
  | certGet (q : Nat) (flashFail : Bool)
  /-- R484: PUBKEY_GET returns the identity public key. -/
  | pubkeyGet (q : Nat)
  /-- R482: QUOTE samples the quote message and queues it for signing. -/
  | quote (q : Nat)
  /-- R483: Signing of a quote completes and its body is written. -/
  | quoteSigned
  /-- R343: A held record is published to its ring, preceded by a gap record after losses. -/
  | resultRecordPublish (n : Nat)
  /-- R344: Bus Master Enable changes; memory requests stop or resume. -/
  | busMasterEnableChange (on : Bool)
  /-- R346: The device samples status and rewrites the state page under the generation protocol. -/
  | statePageUpdate
  /-- R348: TIMER us after the first unsent signal the vector sends its message. -/
  | msixVectorTimer (v : Nat)
  /-- R348: Unmasking a vector with its pending bit set sends the message. -/
  | msixUnmask (v : Nat)
  /-- R362: A slice boundary triggers a scheduling pass of the shared partition. -/
  | sliceBoundary (p : Nat)
  /-- R364: Every core of the job is YIELDED and remote waits parked; saving begins. -/
  | preemptionComplete (job : Nat)
  /-- R365: Pre-emption has not completed after PART_PRE_LIMIT us; the job ends FAULT 0xF1. -/
  | preLimitExpired (job : Nat)
  /-- R366: A job's context save completes and the job is SAVED. -/
  | contextSaveDone (job k : Nat) (bad : List (Nat × Nat)) (ecc : List (Nat × Ecc))
  /-- R367: A restore completes and the job's cores resume after their YIELD. -/
  | contextRestoreDone (job k : Nat) (bad : List (Nat × Nat)) (ecc : List (Nat × Ecc))
  /-- R368: A granule of a parked remote wait lands in Oxbow SRAM or the saved context. -/
  | oxbowGranuleLand (job c spa status : Nat) (data : List Byte)
  /-- R368: Oxbow SRAM drains into the saved tiles after the save, releasing withheld credits. -/
  | oxbowDrainDone (job k : Nat)
  /-- R360: A job ends, releases clusters and blocks, and its JOB_RUN completes. -/
  | jobEnd (job : Nat)
  /-- R374: Every core has stored the step-end address; the controller handles leaves, requests, admission and starts the next step. -/
  | servingStepEnd (p : Nat)
  /-- R374: An idle controller reads the request ring every SRV_POLL_US us. -/
  | servingPoll (p : Nat)
  /-- R377: Writing SRV_CTRL.EN enables serving or is refused while the serving job exists. -/
  | srvEnable (p : Nat) (v : Word)
  /-- R381: A TEXT_SAMPLE is admitted into the reorder window. -/
  | hdwAdmit
  /-- R388: A free lane starts the oldest unstarted sample once its first bytes have arrived. -/
  | hdwLaneStart
  /-- R388: A lane finishes decoding a sample, or finds it odd. -/
  | hdwDecodeDone (i : Nat) (err : Bool)
  /-- R389: The oldest decoded sample emerges, writes its completion and joins a batch. -/
  | hdwEmerge
  /-- R395: Once all samples older than the stop sample have emerged, Headwater reports STOPPED. -/
  | hdwStopped
  /-- R384: HDW_CMD.DICT_COMMIT starts building and checking a dictionary bank. -/
  | hdwDictCommit (v : Word)
  /-- R384: The bank build completes and the commit passes or is refused. -/
  | hdwDictBuildDone
  /-- R391: TIMEOUT_US after its first sample a batch closes as TIMED. -/
  | hdwBatchTimeout
  /-- R392: A closed batch is written to its ring slot and the consumer token signalled. -/
  | hdwBatchWrite
  /-- R393: The consumer core's STORE frees the oldest batch. -/
  | hdwBatchFree (c : Nat)
  /-- R408: GAUGE_CTRL.SNAP requests a snapshot of the global counters. -/
  | gaugeSnap
  /-- R408: At the next realignment boundary the counters are copied into the snapshot bank. -/
  | gaugeSnapTake
  /-- R416: GAUGE_CTRL.CLEAR_ALL zeroes all global counters. -/
  | gaugeClearAll
  /-- R400: A write to a counter's configuration word zeroes the counter and sets its event. -/
  | counterConfigWrite (a : Nat) (v : Word)
  /-- R411: A trace record is made and buffered, or dropped with a later LOSS record. -/
  | traceRecord (b : Nat)
  /-- R413: Buffered trace records are written to the HBM ring when bucket and open slots allow. -/
  | traceWrite (buf : Nat)
  /-- R412: Every 100 FABRIC cycles the token bucket gains TRC_RATE granules. -/
  | traceBucketRefill
  /-- R410: Every TRC_SAMPLE.US us COUNTER records are made for the selected counters. -/
  | traceSampleTimer
  /-- R410: A write of TRC_MARK makes a MARK record. -/
  | trcMark (v : Word)
  /-- R414: Every TRC_IFL.PERIOD us each selected UP port sends an EVENT flit. -/
  | iflEventSend (p : Nat)
  /-- R422: The root PLL loses lock or CLK_REF stops; a host-side reset with cause 5 begins. -/
  | rootClockLost
  /-- R423: A host-side supply below threshold holds the host side in reset with cause 1. -/
  | resetPower (prog : List (Nat × List Byte))
  /-- R423: SYS_RST_N low for 1 us resets the host side with cause 2. -/
  | resetPin
  /-- R423: PCIE_PERST_N low resets the host side with cause 3. -/
  | resetPerst
  /-- R423: A Function Level Reset resets the host side with cause 4. -/
  | flr
  /-- R423: The management watchdog expires and resets the host side with cause 6. -/
  | wdogExpire
  /-- R423: CLK_RST_CMD with FULL and the key resets the host side with cause 7. -/
  | clkRstCmd (v : Word)
  /-- R427: After root lock the host-side dies leave reset at a realignment boundary and start-up begins. -/
  | hostResetRelease
  /-- R428: Self-test completes, fencing failed sites and forming the unit map. -/
  | selfTestDone (failSites failLs : List Nat)
  /-- R466: The boot ROM tries the candidate images and starts the first that passes. -/
  | bootCandidateSelect
  /-- R427: Management firmware verifies and installs the parts, loads field firmware and restores settings. -/
  | firmwareStarted
  /-- R427: DEV_STATUS.READY sets and CLK_READY_TICK latches. -/
  | deviceReady
  /-- R426: A field power-on, FLD_RST_N, field watchdog or FIELD loss resets the field die. -/
  | fieldReset
  /-- R429: The field controller's ROM starts the barrier link with SAFE set and waits for firmware. -/
  | fieldRomBoot
  /-- R429: FLD_LOAD_CTRL.START restarts the field controller into its ROM. -/
  | fldLoadStart
  /-- R429: A write of FLD_LOAD_DATA appends 4 bytes to the field image. -/
  | fldLoadData (v : Word)
  /-- R429: FLD_LOAD_CTRL.RUN checks the image digest and runs it on a match. -/
  | fldLoadRun (expected : List Byte)
  /-- R433: CLK_MON_CTRL.GO starts a 40 us frequency measurement. -/
  | clkMonGo (v : Word)
  /-- R433: After 1,000 SLOW cycles the measurement completes and DONE sets. -/
  | clkMonDone (n : Nat)
  /-- R430: TRST_N or Test-Logic-Reset resets the TAP to BYPASS. -/
  | tapReset
  /-- R430: Update-DR of DBG_CMD requests or releases a debug global stop. -/
  | dbgCmd (op v : Nat)
  /-- R430: Update-DR of DBG_ADDR starts a debug BAR0 access or memory read. -/
  | dbgAddr (v : Nat)
  /-- R430: Update-DR of DBG_DATA stages the value of the next BAR0 write. -/
  | dbgData (v : Nat)
  /-- R430: A debug access completes, clearing BUSY and filling DBG_DATA. -/
  | dbgAccessDone
  /-- R438: A cluster without work for an entry delay enters IDLE, DOZE or REST. -/
  | clusterSleepEntry (k state : Nat)
  /-- R437: A wake trigger starts a cluster's exit from its sleep state. -/
  | clusterWake (k : Nat)
  /-- R434: The exit latency passes and the cluster accepts work. -/
  | clusterWakeDone (k : Nat)
  /-- R444: Every 1 ms input power is averaged and F_cap adjusted. -/
  | powerCapWindow (est : Nat)
  /-- R445: Every 100 us the power controller reads die and HBM temperatures and applies throttle and critical thresholds. -/
  | thermalSample (cd0 cd1 io0 io1 hbm0 hbm1 : Nat)
  /-- R445: Every 1 ms F_therm falls or rises by the throttle rule. -/
  | thermalThrottleStep
  /-- R446: A trip switches off both compute dies and releases open items UNDECIDED. -/
  | computeDieTrip (volt : Bool)
  /-- R446: PM_CMD.RESUME restarts tripped compute dies with self-test. -/
  | pmResume
  /-- R443: Each 1 ms with negative margin counts a voltage clamp. -/
  | voltClampWindow
  /-- R502: Every 100 us the KM7 writes a new voltage request of at most 10 mV change per rail. -/
  | avsVoltageWrite (n floor : Nat) (ok : Bool)
  /-- R502: Every 100 us the KM7 reads each rail's current. -/
  | avsCurrentRead (n frame v : Nat) (ok : Bool)
  /-- R452: A watched unit meets its wedge condition and WEDGED is set and logged. -/
  | wedgeDetect (unit : Nat)
  /-- R454: Each 1 s window sums UNDECIDED counts and raises UNDEC_ALARM at the limit. -/
  | undecWindow
  /-- R455: A class 5 error sets FATAL, may request a stop, and clears HB_EN. -/
  | fatalError (code unit detail : Nat)
  /-- R43: A lane's received signal gains or loses CDR lock, changing SIG_DET and CDR_LOCK, bit counting, and Ifepen LOCKED-to-SEEK. -/
  | laneCdrLockChange (l : Nat) (sig lock : Bool) (bitsN errs peak : Nat)
  /-- R319: An Ethernet port gains or loses Clause 49 block lock or enters high BER, changing LINK_UP and setting LINK_CHG. -/
  | ethLinkChange (p : Nat) (lock hiBer : Bool)
  /-- R240: An open RS-422 pair returns above the detect threshold, OPEN clears and the held lines resume following the pins. -/
  | encOpenClear (ch pair : Nat)
  /-- R258: With BRIDGE_EN set, the bridged value Q_b crosses a count between serial frames and P steps by one. -/
  | bridgedCountStep (ch n : Nat)
  /-- R280: STB_DELAY FIELD cycles after a tick, a mode 1 strobe starts its pulse. -/
  | strobePulseStart (i : Nat)
  /-- R291: A high-side output leaves current limit, or restarts by itself after cooling from thermal shutdown. -/
  | outputFaultEnd (i : Nat)
  /-- R201: An HBM stack fails training, sets its FAIL bit, never sets INIT_DONE and logs 0x0501. -/
  | stackTrainingFail (stack : Nat)
deriving DecidableEq, Repr

end Sys2Proof
end

