-- ==== Sys2Proof/Machine/Store.lean ====
section
/-! DEFINITION. Sparse maps in one canonical form: keys strictly rising, no entry equal to what an unlisted key reads
as. Register files, memories and banks of like units are all of this one kind, and the byte-order helpers of R11. -/

namespace Sys2Proof

/-- A sparse map from addresses (or unit numbers) to values. -/
abbrev SMap (α : Type) := List (Nat × α)

/-- The value at `k`; an unlisted key reads as `d k`. -/
def SMap.get {α : Type} (d : Nat → α) : SMap α → Nat → α
  | [], k => d k
  | (k', v) :: t, k => if k = k' then v else SMap.get d t k

/-- The listed value at `k`, if any. -/
def SMap.find {α : Type} : SMap α → Nat → Option α
  | [], _ => none
  | (k', v) :: t, k => if k = k' then some v else SMap.find t k

/-- Drops the entry of `k`. -/
def SMap.erase {α : Type} : SMap α → Nat → SMap α
  | [], _ => []
  | (k', v) :: t, k => if k = k' then SMap.erase t k else (k', v) :: SMap.erase t k

/-- Lists `v` at `k`, in the rising order of the keys, whatever an unlisted key reads as. DESIGN CHOICE (log entry 6). -/
def SMap.put {α : Type} : SMap α → Nat → α → SMap α
  | [], k, v => [(k, v)]
  | (k', v') :: t, k, v =>
    if k < k' then (k, v) :: (k', v') :: t
    else if k = k' then (k, v) :: t
    else (k', v') :: SMap.put t k v

/-- A write that keeps the canonical form: the value an unlisted key reads as is not listed. -/
def SMap.set {α : Type} [DecidableEq α] (d : Nat → α) (m : SMap α) (k : Nat) (v : α) : SMap α :=
  if v = d k then m.erase k else m.put k v

/-- Keys strictly rising. -/
def SMap.sorted {α : Type} : SMap α → Bool
  | [] => true
  | [_] => true
  | (k, _) :: (k', v') :: t => decide (k < k') && SMap.sorted ((k', v') :: t)

/-- The canonical form: keys strictly rising and no entry equal to what an unlisted key reads as. -/
def SMap.wf {α : Type} [DecidableEq α] (d : Nat → α) (m : SMap α) : Bool :=
  m.sorted && m.all (fun e => e.2 != d e.1)

/-- Memory: bytes by address; an unlisted byte reads 0 (R201 for HBM; log entry 6 for the others). -/
abbrev Mem := SMap Byte

/-- What an unlisted byte of memory reads as. -/
def Mem.unlisted : Nat → Byte := fun _ => 0

def Mem.byte (m : Mem) (a : Nat) : Byte := SMap.get Mem.unlisted m a
def Mem.setByte (m : Mem) (a : Nat) (v : Byte) : Mem := SMap.set Mem.unlisted m a v
abbrev Mem.wf (m : Mem) : Bool := SMap.wf Mem.unlisted m

/-- The `n` bytes at `a`, lowest address first. -/
def Mem.bytes (m : Mem) (a : Nat) : Nat → List Byte
  | 0 => []
  | n + 1 => m.byte a :: Mem.bytes m (a + 1) n

/-- Writes a list of bytes at `a`, lowest address first. -/
def Mem.setBytes (m : Mem) (a : Nat) : List Byte → Mem
  | [] => m
  | b :: t => Mem.setBytes (m.setByte a b) (a + 1) t

/-- The number a list of bytes spells, little-endian (R11). -/
def leNat : List Byte → Nat
  | [] => 0
  | b :: t => b.toNat + 256 * leNat t

/-- The `n` little-endian bytes of `v` (R11). -/
def toLE : Nat → Nat → List Byte
  | 0, _ => []
  | n + 1, v => BitVec.ofNat 8 v :: toLE n (v / 256)

/-- The number a list of bytes spells, most significant byte first. -/
def beNat (l : List Byte) : Nat := leNat l.reverse

/-- The `n` bytes of `v`, most significant first. -/
def toBE (n v : Nat) : List Byte := (toLE n v).reverse

/-- A little-endian number of `n` bytes at `a`. -/
def Mem.le (m : Mem) (a n : Nat) : Nat := leNat (m.bytes a n)

def Mem.setLE (m : Mem) (a n v : Nat) : Mem := m.setBytes a (toLE n v)

/-- Bits `hi` to `lo` of a number. -/
def bits (v hi lo : Nat) : Nat := v / 2 ^ lo % 2 ^ (hi + 1 - lo)

/-- Bit `i` of a number. -/
def bit (v i : Nat) : Bool := v / 2 ^ i % 2 == 1

/-- Bool as a bit. -/
def b2n (b : Bool) : Nat := if b then 1 else 0

/-- The signed value of the low `w` bits (two's complement). -/
def sext (w v : Nat) : Int :=
  let u := v % 2 ^ w
  if u < 2 ^ (w - 1) then (u : Int) else (u : Int) - 2 ^ w

/-- The low `w` bits of a signed number. -/
def wrap (w : Nat) (z : Int) : Nat := (z % (2 ^ w : Int)).toNat

/-- Clamps to the signed range of `w` bits. -/
def satS (w : Nat) (z : Int) : Int :=
  if z < -(2 ^ (w - 1) : Int) then -(2 ^ (w - 1) : Int)
  else if z > (2 ^ (w - 1) : Int) - 1 then (2 ^ (w - 1) : Int) - 1 else z

/-- Clamps to the unsigned range of `w` bits. -/
def satU (w : Nat) (n : Nat) : Nat := min n (2 ^ w - 1)

/-- Replaces the `i`-th element, when there is one. -/
def updAt {α : Type} (l : List α) (i : Nat) (f : α → α) : List α := l.modify i f

/-- Cuts a list into chunks of `n`. -/
def chunksOf {α : Type} (n : Nat) : Nat → List α → List (List α)
  | 0, _ => []
  | _ + 1, [] => []
  | k + 1, l => l.take n :: chunksOf n k (l.drop n)

/-- Applies `f` for `i = 0 … n-1`, lowest first. -/
def forN {β : Type} (n : Nat) (f : Nat → β → β) (b : β) : β := (List.range n).foldl (fun acc i => f i acc) b

/-- The first number below `n` that passes. -/
def findN (n : Nat) (p : Nat → Bool) : Option Nat := (List.range n).find? p

end Sys2Proof
end

