-- ==== Sys2Proof/Machine/Digest.lean ====
section
/-! DEFINITION. SHA3-256 as FIPS 202 defines it (R218), CRC-32C (R71) and the Merkle root of a seal (R228). -/

namespace Sys2Proof

/-- Rotation counts of Keccak by lane x + 5y. -/
def keccakRot : List Nat :=
  [0, 1, 62, 28, 27, 36, 44, 6, 55, 20, 3, 10, 43, 25, 39, 41, 45, 15, 21, 8, 18, 2, 61, 56, 14]

/-- Round constants of Keccak-f[1600]. -/
def keccakRC : List Nat :=
  [0x0000000000000001, 0x0000000000008082, 0x800000000000808A, 0x8000000080008000, 0x000000000000808B, 0x0000000080000001]
  ++ [0x8000000080008081, 0x8000000000008009, 0x000000000000008A, 0x0000000000000088, 0x0000000080008009, 0x000000008000000A]
  ++ [0x000000008000808B, 0x800000000000008B, 0x8000000000008089, 0x8000000000008003, 0x8000000000008002, 0x8000000000000080]
  ++ [0x000000000000800A, 0x800000008000000A, 0x8000000080008081, 0x8000000000008080, 0x0000000080000001, 0x8000000080008008]

def lane (s : List (BitVec 64)) (x y : Nat) : BitVec 64 := s.getD (x % 5 + 5 * (y % 5)) 0

/-- One round of Keccak-f[1600]: theta, rho with pi, chi, iota. -/
def keccakRound (s : List (BitVec 64)) (rc : Nat) : List (BitVec 64) :=
  let par := (List.range 5).map fun x => lane s x 0 ^^^ lane s x 1 ^^^ lane s x 2 ^^^ lane s x 3 ^^^ lane s x 4
  let d := (List.range 5).map fun x => par.getD ((x + 4) % 5) 0 ^^^ (par.getD ((x + 1) % 5) 0).rotateLeft 1
  let t := (List.range 25).map fun i => s.getD i 0 ^^^ d.getD (i % 5) 0
  -- lane (x, y) moves to (y, 2x + 3y); so lane (u, v) comes from x = u + 3v, y = u
  let b := (List.range 25).map fun i =>
    let u := i % 5
    let v := i / 5
    let src := (u + 3 * v) % 5 + 5 * u
    (t.getD src 0).rotateLeft (keccakRot.getD src 0)
  (List.range 25).map fun i =>
    let x := i % 5
    let y := i / 5
    let c := lane b x y ^^^ (~~~ lane b (x + 1) y &&& lane b (x + 2) y)
    if i = 0 then c ^^^ BitVec.ofNat 64 rc else c

def keccakF (s : List (BitVec 64)) : List (BitVec 64) := keccakRC.foldl keccakRound s

/-- Absorbs the 136-byte blocks of a padded message. -/
def sha3Absorb : Nat → List (BitVec 64) → List Byte → List (BitVec 64)
  | 0, s, _ => s
  | n + 1, s, m =>
    let blk := m.take 136
    let s := (List.range 25).map fun i =>
      if i < 17 then s.getD i 0 ^^^ BitVec.ofNat 64 (leNat ((blk.drop (8 * i)).take 8)) else s.getD i 0
    sha3Absorb n (keccakF s) (m.drop 136)

/-- SHA3-256 of a message (R218). -/
def sha3 (m : List Byte) : List Byte :=
  let k := 136 - m.length % 136
  let pad : List Byte := if k = 1 then [0x86#8] else 0x06#8 :: (List.replicate (k - 2) 0#8 ++ [0x80#8])
  let p := m ++ pad
  let s := sha3Absorb (p.length / 136) (List.replicate 25 0#64) p
  ((s.take 4).flatMap fun w => toLE 8 w.toNat)

/-- The ASCII bytes of a tag (R218). -/
def asciiOf (s : String) : List Byte := s.toList.map fun c => BitVec.ofNat 8 c.toNat

/-- One bit of CRC-32C, reflected. -/
def crcBit (c : BitVec 32) : BitVec 32 := if c.getLsbD 0 then (c >>> 1) ^^^ 0x82F63B78#32 else c >>> 1

/-- `k` of a word: the match makes an evaluator know the word before it goes on, so a long division runs in short steps. -/
def forced {α : Type} (x : BitVec 32) (k : BitVec 32 → α) : α :=
  match x.toNat with
  | 0 => k 0#32
  | n + 1 => k (BitVec.ofNat 32 (n + 1))

/-- The register of a reflected CRC after the bytes, from its value before them. -/
def crcRun (bit : BitVec 32 → BitVec 32) : List Byte → BitVec 32 → BitVec 32
  | [], c => c
  | b :: t, c => forced (forN 8 (fun _ c => bit c) (c ^^^ b.setWidth 32)) (crcRun bit t)

/-- CRC-32C of a list of bytes (R71). -/
def crc32c (m : List Byte) : BitVec 32 := ~~~ crcRun crcBit m 0xFFFFFFFF#32

/-- One bit of the CRC-32 of IEEE 802.3, reflected. -/
def fcsBit (c : BitVec 32) : BitVec 32 := if c.getLsbD 0 then (c >>> 1) ^^^ 0xEDB88320#32 else c >>> 1

/-- The frame check sequence of an Ethernet frame, IEEE 802.3 (R305, R308). -/
def fcs32 (m : List Byte) : BitVec 32 := ~~~ crcRun fcsBit m 0xFFFFFFFF#32

/-- One level of the Merkle tree over the one below (R228). -/
def merkleUp : List (List Byte) → List (List Byte)
  | a :: b :: t => sha3 (1#8 :: (a ++ b)) :: merkleUp t
  | l => l

/-- The root over leaf hashes; `fuel` levels suffice when it is at least the number of leaves. -/
def merkleTop : Nat → List (List Byte) → List Byte
  | 0, l => l.headD []
  | n + 1, l => if l.length ≤ 1 then l.headD [] else merkleTop n (merkleUp l)

/-- The Merkle root over leaves (R228). -/
def merkleRoot (leaves : List (List Byte)) : List Byte :=
  merkleTop leaves.length (leaves.map fun d => sha3 (0#8 :: d))

end Sys2Proof
end

