-- ==== Sys2Proof/Config.lean ====
section
/-! DEFINITION. What an implementation fixes and what the manual leaves open: constants without a body, so that no proof
can see their values and every claim holds whatever they are. -/

namespace Sys2Proof

/-- A byte of an SRAM that no rule gives a value until it is written, by power-on and address (R109, R384; log entry 8). -/
opaque Config.undefByte : Nat → Nat → BitVec 8
/-- BOOT_ID, the 8 random bytes drawn at the n-th boot (R229; log entry 4). -/
opaque Config.bootId : Nat → BitVec 64
/-- Start-up values of the 4 KiB block that is the device's unclonable function, at the n-th time it is switched on (R469; log entry 9). -/
opaque Config.pufStart : Nat → BitVec 32768
/-- What reconstruction makes of start-up values and of the certificate area, which holds the helper data: the root secret, or nothing when
it fails (R469, R472; log entry 9). -/
opaque Config.pufDecode : BitVec 32768 → List (BitVec 8) → Option (BitVec 256)
/-- In place of the secret of a device that has reconstructed none; nothing that needs one runs then (R472; log entry 9). -/
opaque Config.noSecret : BitVec 256
/-- A byte of the certificate area as written at manufacture, by its flash address (R459, R469, R471; log entry 9). -/
opaque Config.certByte : Nat → BitVec 8
/-- Where in the certificate area the chain starts (R459, R471; log entry 9). -/
opaque Config.certAt : Fin 245761
/-- SHA3-256 of the image-signing public key that the boot ROM trusts (R463; log entry 3). -/
opaque Config.romKeyHash : BitVec 256
/-- The length of the device's certificate chain above 10,522 bytes, which its two ML-DSA-65 public keys and signatures take; it is at most
16 KiB (R471; log entry 9). -/
opaque Config.certLen : Fin 5863
/-- Where in the chain the public key of the device certificate starts (R471, R472; log entry 9). -/
opaque Config.certKeyAt : Fin 8571
/-- The FMT that a firmware, by its manifest digest, chooses for a settings record, by its ID (R479; log entry 54). -/
opaque Config.settingFmt : Nat → Nat → BitVec 16
/-- Can a firmware read a record, by its ID and FMT (R481; log entry 54)? -/
opaque Config.settingReads : Nat → Nat → BitVec 16 → Bool
/-- Data of a record of an FMT other than 1, by its ID, in the layout of FMT 1, and back (R480, R481; log entry 54). -/
opaque Config.settingToFmt1 : Nat → BitVec 16 → List (BitVec 8) → List (BitVec 8)
opaque Config.settingOfFmt1 : Nat → BitVec 16 → List (BitVec 8) → List (BitVec 8)
/-- A value that a rule leaves open after an event, fresh for every use: the counter of the state that the step advances,
and a tag that says which rule asks (log entry 10). -/
opaque Config.freeValue : Nat → Nat → BitVec 64

end Sys2Proof
end

