-- ==== Sys2Proof/Machine/RegMap.lean ====
section
/-! DEFINITION. The register map: one accessor for every field of every register the spec names, and the table of their
access codes and reset values (R4, R5). Addresses are byte addresses in BAR0; those of BAR2 stand at 0x1000000 and up. -/

namespace Sys2Proof

/-- A register field: the word it stands in, its lowest bit and its width. -/
structure RF where
  addr : Nat
  lo : Nat
  w : Nat
deriving DecidableEq, Repr

/-- The access codes of R5. -/
inductive Acc where
  | ro | rw | wo | w1c | w1s | rc
deriving DecidableEq, Repr

/-- One row of the register tables: the first instance's address, the counts and strides of its instances (the outermost
first), its bits, access code and reset value; `own` marks an RW field whose write has a command row of its own. -/
structure RegRow where
  base : Nat
  dims : List (Nat × Nat)
  lo : Nat
  w : Nat
  acc : Acc
  rv : Nat
  own : Bool
deriving DecidableEq, Repr

namespace Reg

/-- R350 (11), RO. -/
def DEV_ID.VENDOR : RF := ⟨0x0, 0, 16⟩
/-- R350 (11), RO. -/
def DEV_ID.DEVICE : RF := ⟨0x0, 16, 16⟩
/-- R350 (11), RO. -/
def DEV_REV.REV : RF := ⟨0x4, 0, 4⟩
/-- R350 (11), RO. -/
def DEV_REV.STACKS : RF := ⟨0x4, 4, 4⟩
/-- R350 (11), RO. -/
def DEV_REV.IODIES : RF := ⟨0x4, 8, 4⟩
/-- R350 (11), RO. -/
def DEV_STATUS.READY : RF := ⟨0x8, 0, 1⟩
/-- R350 (11), RO. -/
def DEV_STATUS.SP_ON : RF := ⟨0x8, 1, 1⟩
/-- R350 (11), RO. -/
def DEV_ABI_RANGE.MAX : RF := ⟨0x10, 0, 16⟩
/-- R350 (11), RO. -/
def DEV_ABI_RANGE.MIN : RF := ⟨0x10, 16, 16⟩
/-- R350 (11), RW. -/
def HOST_ABI.MAX : RF := ⟨0x14, 0, 16⟩
/-- R350 (11), RW. -/
def HOST_ABI.MIN : RF := ⟨0x14, 16, 16⟩
/-- R350 (11), RO. -/
def DEV_ABI.ACTIVE : RF := ⟨0x18, 0, 16⟩
/-- R350 (11), RO. -/
def DEV_ABI.FAIL : RF := ⟨0x18, 16, 1⟩
/-- R350 (11), RW. -/
def SP_BASE_LO : RF := ⟨0x30, 12, 20⟩
/-- R350 (11), RW. -/
def SP_BASE_HI : RF := ⟨0x34, 0, 32⟩
/-- R350 (11), RW. -/
def SP_CTRL.EN : RF := ⟨0x38, 0, 1⟩
/-- R350 (11), RW. -/
def SP_CTRL.MIN_US : RF := ⟨0x38, 16, 16⟩
/-- R350 (11), RO. -/
def SP_GEN : RF := ⟨0x3C, 0, 32⟩
/-- R350 (11), RW. -/
def DEV_SCRATCH : RF := ⟨0x40, 0, 32⟩
/-- R379 (12), RW. -/
def CLI_JOB_MAX (i : Nat) : RF := ⟨0x400 + i * 0x4, 0, 32⟩
/-- R379 (12), RO. -/
def CLI_JOB_COUNT (i : Nat) : RF := ⟨0x500 + i * 0x4, 0, 32⟩
/-- R238 (07), RO. -/
def DET_UNITMAP (i : Nat) : RF := ⟨0x800 + i * 0x4, 0, 32⟩
/-- R238 (07), RW. -/
def DET_CTRL.AUTO_SPARE : RF := ⟨0x810, 0, 1⟩
/-- R238 (07), RW. -/
def DET_CTRL.SPARE_TEST : RF := ⟨0x810, 1, 1⟩
/-- R238 (07), RW. -/
def DET_FENCE.SITE : RF := ⟨0x814, 0, 7⟩
/-- R238 (07), WO. -/
def DET_FENCE.GO : RF := ⟨0x814, 8, 1⟩
/-- R238 (07), RO. -/
def DET_FENCE_LAST.SITE : RF := ⟨0x818, 0, 7⟩
/-- R238 (07), RO. -/
def DET_FENCE_LAST.CAUSE : RF := ⟨0x818, 8, 4⟩
/-- R238 (07), RC. -/
def DET_FENCE_COUNT : RF := ⟨0x81C, 0, 32⟩
/-- R238 (07), RO. -/
def DET_CLU_STATE.NOSPARE : RF := ⟨0x820, 0, 8⟩
/-- R238 (07), RO. -/
def DET_CLU_STATE.HALTED : RF := ⟨0x820, 8, 8⟩
/-- R238 (07), RO. -/
def DET_CLU_STATE.DEGRADED : RF := ⟨0x820, 16, 8⟩
/-- R238 (07), W1C. -/
def DET_INT_STATUS : RF := ⟨0x824, 0, 5⟩
/-- R238 (07), RW. -/
def DET_INT_EN : RF := ⟨0x828, 0, 5⟩
/-- R238 (07), RO. -/
def DET_CSEQ : RF := ⟨0x82C, 0, 32⟩
/-- R238 (07), RO. -/
def DET_BOOT_ID_LO : RF := ⟨0x830, 0, 32⟩
/-- R238 (07), RO. -/
def DET_BOOT_ID_HI : RF := ⟨0x834, 0, 32⟩
/-- R238 (07), RC. -/
def DET_DIG_LATE : RF := ⟨0x838, 0, 32⟩
/-- R238 (07), RW. -/
def SEAL_CTRL.DIG_EN (i : Nat) : RF := ⟨0x900 + i * 0x20, 0, 1⟩
/-- R238 (07), RW. -/
def SEAL_CTRL.SEAL_EN (i : Nat) : RF := ⟨0x900 + i * 0x20, 1, 1⟩
/-- R238 (07), RW. -/
def SEAL_CTRL.ITEMS_M1 (i : Nat) : RF := ⟨0x900 + i * 0x20, 16, 16⟩
/-- R238 (07), RW. -/
def SEAL_PERIOD (i : Nat) : RF := ⟨0x904 + i * 0x20, 0, 16⟩
/-- R238 (07), RW. -/
def SEAL_BASE_LO (i : Nat) : RF := ⟨0x908 + i * 0x20, 12, 20⟩
/-- R238 (07), RW. -/
def SEAL_BASE_HI (i : Nat) : RF := ⟨0x90C + i * 0x20, 0, 32⟩
/-- R238 (07), RW. -/
def SEAL_SLOTS (i : Nat) : RF := ⟨0x910 + i * 0x20, 0, 9⟩
/-- R238 (07), RW. -/
def SEAL_CONS (i : Nat) : RF := ⟨0x914 + i * 0x20, 0, 16⟩
/-- R238 (07), RO. -/
def SEAL_COUNT (i : Nat) : RF := ⟨0x918 + i * 0x20, 0, 32⟩
/-- R238 (07), RO. -/
def SEAL_STATUS.HELD (i : Nat) : RF := ⟨0x91C + i * 0x20, 0, 1⟩
/-- R238 (07), WO. -/
def GSTOP_CTRL.STOP : RF := ⟨0xB00, 0, 1⟩
/-- R238 (07), WO. -/
def GSTOP_CTRL.RELEASE : RF := ⟨0xB00, 1, 1⟩
/-- R238 (07), RO. -/
def GSTOP_STATUS.STATE : RF := ⟨0xB04, 0, 2⟩
/-- R238 (07), RO. -/
def GSTOP_STATUS.SOURCE : RF := ⟨0xB04, 4, 2⟩
/-- R238 (07), W1C. -/
def GSTOP_STATUS.IGNORED : RF := ⟨0xB04, 8, 1⟩
/-- R238 (07), RO. -/
def GSTOP_TICK_LO : RF := ⟨0xB08, 0, 32⟩
/-- R238 (07), RO. -/
def GSTOP_TICK_HI : RF := ⟨0xB0C, 0, 32⟩
/-- R238 (07), RC. -/
def GSTOP_COUNT : RF := ⟨0xB10, 0, 32⟩
/-- R379 (12), RO. -/
def PART_STATUS.CLUSTERS (i : Nat) : RF := ⟨0xC00 + i * 0x20, 0, 8⟩
/-- R379 (12), RO. -/
def PART_STATUS.JOBS (i : Nat) : RF := ⟨0xC00 + i * 0x20, 8, 8⟩
/-- R379 (12), RO. -/
def PART_STATUS.RUNNING (i : Nat) : RF := ⟨0xC00 + i * 0x20, 16, 8⟩
/-- R379 (12), RO. -/
def PART_STATUS.SERVING (i : Nat) : RF := ⟨0xC00 + i * 0x20, 24, 1⟩
/-- R379 (12), RO. -/
def PART_SLICE_US (i : Nat) : RF := ⟨0xC04 + i * 0x20, 0, 17⟩
/-- R379 (12), RW. -/
def PART_SAVE_CFG.GROUPS (i : Nat) : RF := ⟨0xC08 + i * 0x20, 0, 16⟩
/-- R379 (12), RW. -/
def PART_SAVE_CFG.BLOCKS_M1 (i : Nat) : RF := ⟨0xC08 + i * 0x20, 16, 7⟩
/-- R379 (12), RW. -/
def PART_SAVE_OFF (i : Nat) : RF := ⟨0xC0C + i * 0x20, 11, 21⟩
/-- R379 (12), RW. -/
def PART_PRE_LIMIT (i : Nat) : RF := ⟨0xC10 + i * 0x20, 0, 16⟩
/-- R379 (12), RC. -/
def PART_PREEMPTS (i : Nat) : RF := ⟨0xC14 + i * 0x20, 0, 32⟩
/-- R379 (12), RC. -/
def PART_SAVED_KIB (i : Nat) : RF := ⟨0xC18 + i * 0x20, 0, 32⟩
/-- R379 (12), RO. -/
def PART_FREE_BLOCKS (i : Nat) : RF := ⟨0xC1C + i * 0x20, 0, 12⟩
/-- R379 (12), RW. -/
def JOB_SEL : RF := ⟨0xD80, 0, 7⟩
/-- R379 (12), RO. -/
def JOB_ID : RF := ⟨0xD84, 0, 32⟩
/-- R379 (12), RO. -/
def JOB_STATE : RF := ⟨0xD88, 0, 3⟩
/-- R379 (12), RO. -/
def JOB_PART : RF := ⟨0xD88, 8, 4⟩
/-- R379 (12), RO. -/
def JOB_CLIENT : RF := ⟨0xD88, 16, 8⟩
/-- R379 (12), RO. -/
def JOB_PARKED : RF := ⟨0xD8C, 0, 6⟩
/-- R380 (12), RW. -/
def SRV_CTRL.EN (i : Nat) : RF := ⟨0xE00 + i * 0x40, 0, 1⟩
/-- R380 (12), RW. -/
def SRV_CTRL.TOKEN (i : Nat) : RF := ⟨0xE00 + i * 0x40, 1, 4⟩
/-- R380 (12), RW. -/
def SRV_CTRL.VECTOR (i : Nat) : RF := ⟨0xE00 + i * 0x40, 8, 6⟩
/-- R380 (12), RW. -/
def SRV_CTRL.IEN (i : Nat) : RF := ⟨0xE00 + i * 0x40, 14, 1⟩
/-- R380 (12), RW. -/
def SRV_CTRL.MAX_SEQ (i : Nat) : RF := ⟨0xE00 + i * 0x40, 16, 7⟩
/-- R380 (12), RW. -/
def SRV_RING_LO (i : Nat) : RF := ⟨0xE04 + i * 0x40, 6, 26⟩
/-- R380 (12), RW. -/
def SRV_RING_HI (i : Nat) : RF := ⟨0xE08 + i * 0x40, 0, 32⟩
/-- R380 (12), RW. -/
def SRV_RING.SIZE_L (i : Nat) : RF := ⟨0xE0C + i * 0x40, 0, 4⟩
/-- R380 (12), RW. -/
def SRV_POOL.GROUP (i : Nat) : RF := ⟨0xE10 + i * 0x40, 0, 4⟩
/-- R380 (12), RW. -/
def SRV_POOL.OFF (i : Nat) : RF := ⟨0xE14 + i * 0x40, 11, 21⟩
/-- R380 (12), RW. -/
def SRV_PAGES (i : Nat) : RF := ⟨0xE18 + i * 0x40, 0, 16⟩
/-- R380 (12), RW. -/
def SRV_PAGE_TOK (i : Nat) : RF := ⟨0xE18 + i * 0x40, 16, 8⟩
/-- R380 (12), RW. -/
def SRV_PAGE_BYTES (i : Nat) : RF := ⟨0xE1C + i * 0x40, 11, 21⟩
/-- R380 (12), RW. -/
def SRV_STEP.GROUP (i : Nat) : RF := ⟨0xE20 + i * 0x40, 0, 4⟩
/-- R380 (12), RW. -/
def SRV_STEP.OFF (i : Nat) : RF := ⟨0xE24 + i * 0x40, 17, 15⟩
/-- R380 (12), RW. -/
def SRV_STEP_TOK (i : Nat) : RF := ⟨0xE28 + i * 0x40, 0, 16⟩
/-- R380 (12), RW. -/
def SRV_CHUNK (i : Nat) : RF := ⟨0xE28 + i * 0x40, 16, 16⟩
/-- R380 (12), RW. -/
def SRV_POLL_US (i : Nat) : RF := ⟨0xE2C + i * 0x40, 0, 16⟩
/-- R380 (12), RO. -/
def SRV_STEP_COUNT (i : Nat) : RF := ⟨0xE30 + i * 0x40, 0, 32⟩
/-- R380 (12), RO. -/
def SRV_FREE_PAGES (i : Nat) : RF := ⟨0xE34 + i * 0x40, 0, 16⟩
/-- R380 (12), RO. -/
def SRV_ACTIVE (i : Nat) : RF := ⟨0xE34 + i * 0x40, 16, 7⟩
/-- R380 (12), RO. -/
def SRV_WAITING (i : Nat) : RF := ⟨0xE38 + i * 0x40, 0, 16⟩
/-- R351 (11), W1C. -/
def HIF_STATUS.CFG_INVALID : RF := ⟨0x10000, 0, 1⟩
/-- R351 (11), RO. -/
def HIF_HALTED_LO : RF := ⟨0x10004, 0, 32⟩
/-- R351 (11), RO. -/
def HIF_HALTED_HI : RF := ⟨0x10008, 0, 32⟩
/-- R351 (11), RW. -/
def HIF_ETH_RXQ.QUEUE (i : Nat) : RF := ⟨0x10040 + i * 0x4, 0, 6⟩
/-- R351 (11), RW. -/
def HIF_ETH_RXQ.EN (i : Nat) : RF := ⟨0x10040 + i * 0x4, 8, 1⟩
/-- R351 (11), RW. -/
def HIF_CLI_HBM.BASE (i : Nat) : RF := ⟨0x10100 + i * 0x8, 0, 24⟩
/-- R351 (11), RW. -/
def HIF_CLI_HBM.LIMIT (i : Nat) : RF := ⟨0x10104 + i * 0x8, 0, 24⟩
/-- R352 (11), RW. -/
def SQ_BASE_LO (i : Nat) : RF := ⟨0x11000 + i * 0x20, 6, 26⟩
/-- R352 (11), RW. -/
def SQ_BASE_HI (i : Nat) : RF := ⟨0x11004 + i * 0x20, 0, 32⟩
/-- R352 (11), RW. -/
def SQ_CFG.EN (i : Nat) : RF := ⟨0x11008 + i * 0x20, 0, 1⟩
/-- R352 (11), RW. -/
def SQ_CFG.ENGINE (i : Nat) : RF := ⟨0x11008 + i * 0x20, 1, 2⟩
/-- R352 (11), RW. -/
def SQ_CFG.SIZE_L (i : Nat) : RF := ⟨0x11008 + i * 0x20, 4, 4⟩
/-- R352 (11), RW. -/
def SQ_CFG.CQ (i : Nat) : RF := ⟨0x11008 + i * 0x20, 8, 6⟩
/-- R352 (11), RW. -/
def SQ_CFG.CLIENT (i : Nat) : RF := ⟨0x11008 + i * 0x20, 16, 8⟩
/-- R352 (11), WO. -/
def SQ_CMD.RESTART (i : Nat) : RF := ⟨0x1100C + i * 0x20, 0, 1⟩
/-- R352 (11), WO. -/
def SQ_CMD.RESET (i : Nat) : RF := ⟨0x1100C + i * 0x20, 1, 1⟩
/-- R352 (11), RO. -/
def SQ_STATUS.STATE (i : Nat) : RF := ⟨0x11010 + i * 0x20, 0, 2⟩
/-- R352 (11), RO. -/
def SQ_STATUS.CAUSE (i : Nat) : RF := ⟨0x11010 + i * 0x20, 8, 8⟩
/-- R352 (11), RO. -/
def SQ_HEAD (i : Nat) : RF := ⟨0x11014 + i * 0x20, 0, 32⟩
/-- R352 (11), RO. -/
def SQ_TAIL (i : Nat) : RF := ⟨0x11018 + i * 0x20, 0, 32⟩
/-- R353 (11), RW. -/
def CQ_BASE_LO (i : Nat) : RF := ⟨0x12000 + i * 0x20, 6, 26⟩
/-- R353 (11), RW. -/
def CQ_BASE_HI (i : Nat) : RF := ⟨0x12004 + i * 0x20, 0, 32⟩
/-- R353 (11), RW. -/
def CQ_CFG.EN (i : Nat) : RF := ⟨0x12008 + i * 0x20, 0, 1⟩
/-- R353 (11), RW. -/
def CQ_CFG.SIZE_L (i : Nat) : RF := ⟨0x12008 + i * 0x20, 4, 4⟩
/-- R353 (11), RW. -/
def CQ_CFG.VECTOR (i : Nat) : RF := ⟨0x12008 + i * 0x20, 8, 6⟩
/-- R353 (11), RW. -/
def CQ_CFG.IEN (i : Nat) : RF := ⟨0x12008 + i * 0x20, 14, 1⟩
/-- R353 (11), RO. -/
def CQ_WRITTEN (i : Nat) : RF := ⟨0x1200C + i * 0x20, 0, 32⟩
/-- R353 (11), RO. -/
def CQ_HEAD (i : Nat) : RF := ⟨0x12010 + i * 0x20, 0, 32⟩
/-- R353 (11), RO. -/
def CQ_STATUS.FULL (i : Nat) : RF := ⟨0x12014 + i * 0x20, 0, 1⟩
/-- R354 (11), RW. -/
def RR_BASE_LO (i : Nat) : RF := ⟨0x13000 + i * 0x20, 7, 25⟩
/-- R354 (11), RW. -/
def RR_BASE_HI (i : Nat) : RF := ⟨0x13004 + i * 0x20, 0, 32⟩
/-- R354 (11), RW. -/
def RR_CFG.EN (i : Nat) : RF := ⟨0x13008 + i * 0x20, 0, 1⟩
/-- R354 (11), RW. -/
def RR_CFG.SIZE_L (i : Nat) : RF := ⟨0x13008 + i * 0x20, 4, 4⟩
/-- R354 (11), RW. -/
def RR_CFG.VECTOR (i : Nat) : RF := ⟨0x13008 + i * 0x20, 8, 6⟩
/-- R354 (11), RW. -/
def RR_CFG.IEN (i : Nat) : RF := ⟨0x13008 + i * 0x20, 14, 1⟩
/-- R354 (11), RO. -/
def RR_PUBLISHED (i : Nat) : RF := ⟨0x1300C + i * 0x20, 0, 32⟩
/-- R354 (11), RO. -/
def RR_HEAD (i : Nat) : RF := ⟨0x13010 + i * 0x20, 0, 32⟩
/-- R354 (11), RO. -/
def RR_HELD (i : Nat) : RF := ⟨0x13014 + i * 0x20, 0, 11⟩
/-- R354 (11), RC. -/
def RR_LOST (i : Nat) : RF := ⟨0x13018 + i * 0x20, 0, 32⟩
/-- R355 (11), RW. -/
def HIF_IRQ_MAP.VECTOR (i : Nat) : RF := ⟨0x14000 + i * 0x4, 0, 6⟩
/-- R355 (11), RW. -/
def HIF_IRQ_MAP.EN (i : Nat) : RF := ⟨0x14000 + i * 0x4, 8, 1⟩
/-- R355 (11), RO. -/
def HIF_IRQ_PENDING : RF := ⟨0x14040, 0, 13⟩
/-- R355 (11), RW. -/
def VEC_CFG.COUNT (i : Nat) : RF := ⟨0x15000 + i * 0x8, 0, 8⟩
/-- R355 (11), RW. -/
def VEC_CFG.TIMER (i : Nat) : RF := ⟨0x15000 + i * 0x8, 16, 10⟩
/-- R457 (16), RW. -/
def PM_CTRL.AUTO : RF := ⟨0x20000, 0, 1⟩
/-- R457 (16), RW. -/
def PM_CTRL.UNUSED_STATE : RF := ⟨0x20000, 1, 2⟩
/-- R457 (16), RW. -/
def PM_CTRL.FATAL_SAFE : RF := ⟨0x20000, 3, 1⟩
/-- R457 (16), RW. -/
def PM_CTRL.STOP_FATAL : RF := ⟨0x20000, 4, 1⟩
/-- R457 (16), RW. -/
def PM_CTRL.LOG_CE : RF := ⟨0x20000, 5, 1⟩
/-- R457 (16), WO. -/
def PM_CMD.RESUME : RF := ⟨0x20004, 0, 1⟩
/-- R457 (16), RO. -/
def PM_STATUS.DEVICE : RF := ⟨0x20008, 0, 2⟩
/-- R457 (16), RO. -/
def PM_STATUS.THROTTLE : RF := ⟨0x20008, 2, 1⟩
/-- R457 (16), W1C. -/
def PM_STATUS.VOLT_CLAMP : RF := ⟨0x20008, 3, 1⟩
/-- R457 (16), W1C. -/
def PM_STATUS.CAP_CLAMP : RF := ⟨0x20008, 4, 1⟩
/-- R457 (16), W1C. -/
def PM_STATUS.THERM_CRIT : RF := ⟨0x20008, 5, 1⟩
/-- R457 (16), W1C. -/
def PM_STATUS.TRIP : RF := ⟨0x20008, 6, 1⟩
/-- R457 (16), RO. -/
def PM_STATUS.WEDGED : RF := ⟨0x20008, 7, 1⟩
/-- R457 (16), RO. -/
def PM_STATUS.FATAL : RF := ⟨0x20008, 8, 1⟩
/-- R457 (16), RO. -/
def PM_TOL_DATA : RF := ⟨0x2000C, 0, 32⟩
/-- R457 (16), RO. -/
def PM_TOL_CONTROL : RF := ⟨0x20010, 0, 32⟩
/-- R457 (16), RO. -/
def PM_TOL_MGMT : RF := ⟨0x20014, 0, 32⟩
/-- R457 (16), RO. -/
def PM_CLU_STATE : RF := ⟨0x20018, 0, 16⟩
/-- R457 (16), RW. -/
def PM_DELAY_IDLE : RF := ⟨0x20020, 0, 16⟩
/-- R457 (16), RW. -/
def PM_DELAY_DOZE : RF := ⟨0x20024, 0, 32⟩
/-- R457 (16), RW. -/
def PM_DELAY_REST : RF := ⟨0x20028, 0, 16⟩
/-- R457 (16), RW. -/
def PM_CAP_W : RF := ⟨0x20030, 0, 16⟩
/-- R457 (16), RO. -/
def PM_POWER_MW : RF := ⟨0x20034, 0, 32⟩
/-- R457 (16), RO. -/
def PM_THROTTLE.F : RF := ⟨0x20038, 0, 9⟩
/-- R457 (16), RO. -/
def PM_THROTTLE.F_CAP : RF := ⟨0x20038, 16, 9⟩
/-- R457 (16), RO. -/
def PM_THROTTLE_T.F_THERM : RF := ⟨0x2003C, 0, 9⟩
/-- R457 (16), RW. -/
def PM_TJ_THROTTLE : RF := ⟨0x20040, 0, 8⟩
/-- R457 (16), RO. -/
def PM_TEMP.CD0 : RF := ⟨0x20044, 0, 8⟩
/-- R457 (16), RO. -/
def PM_TEMP.CD1 : RF := ⟨0x20044, 8, 8⟩
/-- R457 (16), RO. -/
def PM_TEMP.IO0 : RF := ⟨0x20044, 16, 8⟩
/-- R457 (16), RO. -/
def PM_TEMP.IO1 : RF := ⟨0x20044, 24, 8⟩
/-- R457 (16), RC. -/
def PM_TEMP_MAX : RF := ⟨0x20048, 0, 8⟩
/-- R457 (16), RW. -/
def PM_VOLT_MARGIN : RF := ⟨0x20050, 0, 8⟩
/-- R457 (16), RO. -/
def PM_VOLT_NOW.CD0 : RF := ⟨0x20054, 0, 12⟩
/-- R457 (16), RO. -/
def PM_VOLT_NOW.CD1 : RF := ⟨0x20054, 16, 12⟩
/-- R457 (16), RO. -/
def PM_VFLOOR.CD0 : RF := ⟨0x20058, 0, 12⟩
/-- R457 (16), RO. -/
def PM_VFLOOR.CD1 : RF := ⟨0x20058, 16, 12⟩
/-- R457 (16), RC. -/
def PM_CLAMP_VOLT : RF := ⟨0x20060, 0, 32⟩
/-- R457 (16), RC. -/
def PM_CLAMP_CAP : RF := ⟨0x20064, 0, 32⟩
/-- R457 (16), RC. -/
def PM_WAKES : RF := ⟨0x20068, 0, 32⟩
/-- R457 (16), RW. -/
def PM_WEDGE_MS : RF := ⟨0x20080, 0, 16⟩
/-- R457 (16), RO. -/
def PM_WEDGE_UNIT : RF := ⟨0x20084, 0, 4⟩
/-- R457 (16), RC. -/
def PM_UNDEC (i : Nat) : RF := ⟨0x20090 + i * 0x4, 0, 32⟩
/-- R457 (16), RW. -/
def PM_UNDEC_LIMIT : RF := ⟨0x200A4, 0, 16⟩
/-- R457 (16), RO. -/
def PM_LOG_COUNT : RF := ⟨0x200B0, 0, 32⟩
/-- R457 (16), RO. -/
def PM_LOG_LAST : RF := ⟨0x200B4, 0, 16⟩
/-- R457 (16), RW. -/
def PM_LOG_SEL : RF := ⟨0x200B8, 0, 8⟩
/-- R457 (16), RO. -/
def PM_LOG_DATA (i : Nat) : RF := ⟨0x200C0 + i * 0x4, 0, 32⟩
/-- R457 (16), W1C. -/
def PM_INT_STATUS : RF := ⟨0x200E0, 0, 7⟩
/-- R457 (16), RW. -/
def PM_INT_EN : RF := ⟨0x200E4, 0, 7⟩
/-- R433 (15), RO. -/
def CLK_STATUS.ROOT_LOCK : RF := ⟨0x30000, 0, 1⟩
/-- R433 (15), RO. -/
def CLK_STATUS.HBM0_LOCK : RF := ⟨0x30000, 1, 1⟩
/-- R433 (15), RO. -/
def CLK_STATUS.HBM1_LOCK : RF := ⟨0x30000, 2, 1⟩
/-- R433 (15), RO. -/
def CLK_STATUS.ETH_LOCK : RF := ⟨0x30000, 3, 1⟩
/-- R433 (15), RO. -/
def CLK_STATUS.REF_OK : RF := ⟨0x30000, 4, 1⟩
/-- R433 (15), RO. -/
def CLK_RST_CAUSE.LAST : RF := ⟨0x30004, 0, 4⟩
/-- R433 (15), W1C. -/
def CLK_RST_CAUSE.HIST : RF := ⟨0x30004, 9, 7⟩
/-- R433 (15), WO. -/
def CLK_RST_CMD.FULL : RF := ⟨0x30008, 0, 1⟩
/-- R433 (15), WO. -/
def CLK_RST_CMD.KEY : RF := ⟨0x30008, 16, 16⟩
/-- R433 (15), RO. -/
def CLK_BOOT_STAGE : RF := ⟨0x3000C, 0, 4⟩
/-- R433 (15), RO. -/
def CLK_READY_TICK_LO : RF := ⟨0x30010, 0, 32⟩
/-- R433 (15), RO. -/
def CLK_READY_TICK_HI : RF := ⟨0x30014, 0, 32⟩
/-- R433 (15), RO. -/
def CLK_LOL_COUNT : RF := ⟨0x30018, 0, 16⟩
/-- R433 (15), RC. -/
def CLK_FLD_RESTARTS : RF := ⟨0x3001C, 0, 16⟩
/-- R433 (15), RW. -/
def CLK_MON_CTRL.SEL : RF := ⟨0x30020, 0, 4⟩
/-- R433 (15), WO. -/
def CLK_MON_CTRL.GO : RF := ⟨0x30020, 8, 1⟩
/-- R433 (15), RO. -/
def CLK_MON_STATUS.DONE : RF := ⟨0x30024, 0, 1⟩
/-- R433 (15), RO. -/
def CLK_MON_COUNT : RF := ⟨0x30028, 0, 32⟩
/-- R433 (15), RO. -/
def CLK_WDOG.TO_MS : RF := ⟨0x30030, 0, 16⟩
/-- R433 (15), RO. -/
def CLK_WDOG.EN : RF := ⟨0x30030, 16, 1⟩
/-- R433 (15), RW. -/
def CLK_DBG_CTRL.EN : RF := ⟨0x30040, 0, 1⟩
/-- R433 (15), W1S. -/
def CLK_DBG_CTRL.LOCK : RF := ⟨0x30040, 1, 1⟩
/-- R42 (02), RW. -/
def LANE_CTRL.EN (i : Nat) : RF := ⟨0x40000 + i * 0x100, 0, 1⟩
/-- R42 (02), RW. -/
def LANE_CTRL.LOOP (i : Nat) : RF := ⟨0x40000 + i * 0x100, 1, 1⟩
/-- R42 (02), RW. -/
def LANE_CTRL.RX_INV (i : Nat) : RF := ⟨0x40000 + i * 0x100, 2, 1⟩
/-- R42 (02), RW. -/
def LANE_CTRL.TX_INV (i : Nat) : RF := ⟨0x40000 + i * 0x100, 3, 1⟩
/-- R43 (02), RO. -/
def LANE_STATUS.SIG_DET (i : Nat) : RF := ⟨0x40004 + i * 0x100, 0, 1⟩
/-- R43 (02), RO. -/
def LANE_STATUS.CDR_LOCK (i : Nat) : RF := ⟨0x40004 + i * 0x100, 1, 1⟩
/-- R43 (02), RO. -/
def LANE_STATUS.PRBS_LOCK (i : Nat) : RF := ⟨0x40004 + i * 0x100, 2, 1⟩
/-- R43 (02), W1C. -/
def LANE_STATUS.EQ_CLAMP (i : Nat) : RF := ⟨0x40004 + i * 0x100, 3, 1⟩
/-- R43 (02), RO. -/
def LANE_STATUS.PEAK_NOW (i : Nat) : RF := ⟨0x40004 + i * 0x100, 8, 4⟩
/-- R44 (02), RW. -/
def LANE_EQ.PEAK (i : Nat) : RF := ⟨0x40008 + i * 0x100, 0, 4⟩
/-- R44 (02), RW. -/
def LANE_EQ.EQ_OVR (i : Nat) : RF := ⟨0x40008 + i * 0x100, 4, 1⟩
/-- R45 (02), RW. -/
def LANE_PRBS.PAT (i : Nat) : RF := ⟨0x4000C + i * 0x100, 0, 2⟩
/-- R45 (02), RW. -/
def LANE_PRBS.GEN_EN (i : Nat) : RF := ⟨0x4000C + i * 0x100, 2, 1⟩
/-- R45 (02), RW. -/
def LANE_PRBS.CHK_EN (i : Nat) : RF := ⟨0x4000C + i * 0x100, 3, 1⟩
/-- R45 (02), RW. -/
def LANE_PRBS.INV (i : Nat) : RF := ⟨0x4000C + i * 0x100, 4, 1⟩
/-- R46 (02), WO. -/
def LANE_INJ.TX (i : Nat) : RF := ⟨0x40010 + i * 0x100, 0, 1⟩
/-- R46 (02), WO. -/
def LANE_INJ.RX (i : Nat) : RF := ⟨0x40010 + i * 0x100, 1, 1⟩
/-- R46 (02), RW. -/
def LANE_INJ.RATE (i : Nat) : RF := ⟨0x40010 + i * 0x100, 16, 16⟩
/-- R47 (02), RO. -/
def LANE_ERR_LO (i : Nat) : RF := ⟨0x40018 + i * 0x100, 0, 32⟩
/-- R47 (02), RO. -/
def LANE_ERR_HI (i : Nat) : RF := ⟨0x4001C + i * 0x100, 0, 16⟩
/-- R47 (02), RO. -/
def LANE_BIT_LO (i : Nat) : RF := ⟨0x40020 + i * 0x100, 0, 32⟩
/-- R47 (02), RO. -/
def LANE_BIT_HI (i : Nat) : RF := ⟨0x40024 + i * 0x100, 0, 16⟩
/-- R47 (02), WO. -/
def LANE_CNT.CLR (i : Nat) : RF := ⟨0x40028 + i * 0x100, 0, 1⟩
/-- R47 (02), RC. -/
def LANE_EQ_CLAMPS (i : Nat) : RF := ⟨0x4002C + i * 0x100, 0, 32⟩
/-- R58 (02), RW. -/
def CXP_CTRL.EN (i : Nat) : RF := ⟨0x50000 + i * 0x400, 0, 1⟩
/-- R58 (02), RW. -/
def CXP_CTRL.PWR (i : Nat) : RF := ⟨0x50000 + i * 0x400, 1, 1⟩
/-- R58 (02), RW. -/
def CXP_CTRL.WIDTH (i : Nat) : RF := ⟨0x50000 + i * 0x400, 2, 2⟩
/-- R58 (02), RW. -/
def CXP_CTRL.SPEED (i : Nat) : RF := ⟨0x50000 + i * 0x400, 4, 4⟩
/-- R58 (02), RW. -/
def CXP_CTRL.DISC_TO (i : Nat) : RF := ⟨0x50000 + i * 0x400, 8, 8⟩
/-- R59 (02), WO. -/
def CXP_CMD.RESTART (i : Nat) : RF := ⟨0x50004 + i * 0x400, 0, 1⟩
/-- R60 (02), RO. -/
def CXP_STATE.STATE (i : Nat) : RF := ⟨0x50008 + i * 0x400, 0, 3⟩
/-- R60 (02), RO. -/
def CXP_STATE.LANES_TAKEN (i : Nat) : RF := ⟨0x50008 + i * 0x400, 3, 1⟩
/-- R60 (02), RO. -/
def CXP_STATE.WIDTH_NOW (i : Nat) : RF := ⟨0x50008 + i * 0x400, 4, 2⟩
/-- R60 (02), RO. -/
def CXP_STATE.SPEED_NOW (i : Nat) : RF := ⟨0x50008 + i * 0x400, 8, 4⟩
/-- R60 (02), RO. -/
def CXP_STATE.HS_UPLINK (i : Nat) : RF := ⟨0x50008 + i * 0x400, 12, 1⟩
/-- R60 (02), RO. -/
def CXP_STATE.TRIG_REFUSED (i : Nat) : RF := ⟨0x50008 + i * 0x400, 13, 1⟩
/-- R60 (02), RO. -/
def CXP_STATE.CAUSE (i : Nat) : RF := ⟨0x50008 + i * 0x400, 16, 3⟩
/-- R61 (02), RW. -/
def CXP_TRIG.EN (i : Nat) : RF := ⟨0x5000C + i * 0x400, 0, 1⟩
/-- R61 (02), RW. -/
def CXP_TRIG.SRC (i : Nat) : RF := ⟨0x5000C + i * 0x400, 1, 3⟩
/-- R62 (02), RW. -/
def CXP_MAP.STREAM_ID (i j : Nat) : RF := ⟨0x50010 + i * 0x400 + j * 0x4, 0, 8⟩
/-- R62 (02), RW. -/
def CXP_MAP.CTX (i j : Nat) : RF := ⟨0x50010 + i * 0x400 + j * 0x4, 8, 7⟩
/-- R62 (02), RW. -/
def CXP_MAP.VALID (i j : Nat) : RF := ⟨0x50010 + i * 0x400 + j * 0x4, 15, 1⟩
/-- R63 (02), RW. -/
def CXP_CC_ADDR (i : Nat) : RF := ⟨0x50020 + i * 0x400, 0, 32⟩
/-- R63 (02), WO. -/
def CXP_CC_CMD.GO (i : Nat) : RF := ⟨0x50024 + i * 0x400, 0, 1⟩
/-- R63 (02), RW. -/
def CXP_CC_CMD.WRITE (i : Nat) : RF := ⟨0x50024 + i * 0x400, 1, 1⟩
/-- R63 (02), RW. -/
def CXP_CC_CMD.LEN (i : Nat) : RF := ⟨0x50024 + i * 0x400, 2, 8⟩
/-- R64 (02), RO. -/
def CXP_CC_STATUS.BUSY (i : Nat) : RF := ⟨0x50028 + i * 0x400, 0, 1⟩
/-- R64 (02), RO. -/
def CXP_CC_STATUS.RESULT (i : Nat) : RF := ⟨0x50028 + i * 0x400, 1, 3⟩
/-- R64 (02), W1C. -/
def CXP_CC_STATUS.LOST (i : Nat) : RF := ⟨0x50028 + i * 0x400, 4, 1⟩
/-- R65 (02), RW. -/
def CXP_CC_TO (i : Nat) : RF := ⟨0x5002C + i * 0x400, 0, 16⟩
/-- R65 (02), RO. -/
def CXP_HB_CAM_LO (i : Nat) : RF := ⟨0x50030 + i * 0x400, 0, 32⟩
/-- R65 (02), RO. -/
def CXP_HB_CAM_HI (i : Nat) : RF := ⟨0x50034 + i * 0x400, 0, 32⟩
/-- R65 (02), RO. -/
def CXP_HB_RX_LO (i : Nat) : RF := ⟨0x50038 + i * 0x400, 0, 32⟩
/-- R65 (02), RO. -/
def CXP_HB_RX_HI (i : Nat) : RF := ⟨0x5003C + i * 0x400, 0, 32⟩
/-- R65 (02), RW. -/
def CXP_HB_TO (i : Nat) : RF := ⟨0x50040 + i * 0x400, 0, 16⟩
/-- R65 (02), RO. -/
def CXP_EVT_STATUS.COUNT (i : Nat) : RF := ⟨0x50044 + i * 0x400, 0, 4⟩
/-- R65 (02), W1C. -/
def CXP_EVT_STATUS.OVF (i : Nat) : RF := ⟨0x50044 + i * 0x400, 8, 1⟩
/-- R65 (02), WO. -/
def CXP_EVT_STATUS.POP (i : Nat) : RF := ⟨0x50044 + i * 0x400, 9, 1⟩
/-- R65 (02), RC. -/
def CXP_CRC_ERR (i : Nat) : RF := ⟨0x50048 + i * 0x400, 0, 32⟩
/-- R65 (02), RC. -/
def CXP_DROP (i : Nat) : RF := ⟨0x5004C + i * 0x400, 0, 32⟩
/-- R65 (02), W1C. -/
def CXP_INT_STATUS (i : Nat) : RF := ⟨0x50050 + i * 0x400, 0, 6⟩
/-- R65 (02), RW. -/
def CXP_INT_EN (i : Nat) : RF := ⟨0x50054 + i * 0x400, 0, 6⟩
/-- R53 (02), RW. -/
def CXP_CC_BUF (i j : Nat) : RF := ⟨0x50100 + i * 0x400 + j * 0x4, 0, 32⟩
/-- R77 (02), RW. -/
def IFL_CTRL.EN (i : Nat) : RF := ⟨0x60000 + i * 0x2000, 0, 1⟩
/-- R77 (02), RW. -/
def IFL_CTRL.LOOP (i : Nat) : RF := ⟨0x60000 + i * 0x2000, 1, 1⟩
/-- R77 (02), RW. -/
def IFL_CTRL.REPLAY_LIMIT (i : Nat) : RF := ⟨0x60000 + i * 0x2000, 8, 8⟩
/-- R77 (02), RW. -/
def IFL_CTRL.ACK_TO (i : Nat) : RF := ⟨0x60000 + i * 0x2000, 16, 16⟩
/-- R78 (02), WO. -/
def IFL_CMD.RETRAIN (i : Nat) : RF := ⟨0x60004 + i * 0x2000, 0, 1⟩
/-- R79 (02), RO. -/
def IFL_STATE.STATE (i : Nat) : RF := ⟨0x60008 + i * 0x2000, 0, 2⟩
/-- R79 (02), RO. -/
def IFL_STATE.L0_LOCK (i : Nat) : RF := ⟨0x60008 + i * 0x2000, 2, 1⟩
/-- R79 (02), RO. -/
def IFL_STATE.L1_LOCK (i : Nat) : RF := ⟨0x60008 + i * 0x2000, 3, 1⟩
/-- R79 (02), RO. -/
def IFL_STATE.DESKEWED (i : Nat) : RF := ⟨0x60008 + i * 0x2000, 4, 1⟩
/-- R79 (02), RO. -/
def IFL_STATE.SWAPPED (i : Nat) : RF := ⟨0x60008 + i * 0x2000, 5, 1⟩
/-- R79 (02), RO. -/
def IFL_STATE.PS_RX (i : Nat) : RF := ⟨0x60008 + i * 0x2000, 6, 1⟩
/-- R79 (02), RO. -/
def IFL_STATE.SKEW (i : Nat) : RF := ⟨0x60008 + i * 0x2000, 8, 6⟩
/-- R80 (02), RC. -/
def IFL_CRC_ERR (i : Nat) : RF := ⟨0x6000C + i * 0x2000, 0, 32⟩
/-- R80 (02), RC. -/
def IFL_REPLAY (i : Nat) : RF := ⟨0x60010 + i * 0x2000, 0, 32⟩
/-- R80 (02), RC. -/
def IFL_DOWN (i : Nat) : RF := ⟨0x60014 + i * 0x2000, 0, 16⟩
/-- R80 (02), W1C. -/
def IFL_INT_STATUS (i : Nat) : RF := ⟨0x60018 + i * 0x2000, 0, 4⟩
/-- R80 (02), RW. -/
def IFL_INT_EN (i : Nat) : RF := ⟨0x6001C + i * 0x2000, 0, 4⟩
/-- R80 (02), RO. -/
def IFL_CAP_STATUS.COUNT (i : Nat) : RF := ⟨0x60020 + i * 0x2000, 0, 8⟩
/-- R80 (02), RO. -/
def IFL_CAP_STATUS.VALID (i : Nat) : RF := ⟨0x60020 + i * 0x2000, 8, 1⟩
/-- R110 (03), RW. -/
def PIPE_CTRL.MUX (i : Nat) : RF := ⟨0x80000 + i * 0x1000, 0, 1⟩
/-- R110 (03), RW. -/
def PIPE_CTRL.ORDER_LEN_M1 (i : Nat) : RF := ⟨0x80000 + i * 0x1000, 8, 5⟩
/-- R110 (03), WO. -/
def PIPE_CMD.COMMIT (i : Nat) : RF := ⟨0x80004 + i * 0x1000, 0, 1⟩
/-- R110 (03), RO. -/
def PIPE_STATUS.CUR_CTX (i : Nat) : RF := ⟨0x80008 + i * 0x1000, 0, 7⟩
/-- R110 (03), RO. -/
def PIPE_STATUS.IDLE (i : Nat) : RF := ⟨0x80008 + i * 0x1000, 8, 1⟩
/-- R110 (03), RO. -/
def PIPE_STATUS.COMMIT_PENDING (i : Nat) : RF := ⟨0x80008 + i * 0x1000, 9, 1⟩
/-- R110 (03), W1C. -/
def PIPE_STATUS.ORDER_ERR (i : Nat) : RF := ⟨0x80008 + i * 0x1000, 10, 1⟩
/-- R110 (03), W1C. -/
def PIPE_STATUS.SHADOW_REFUSED (i : Nat) : RF := ⟨0x80008 + i * 0x1000, 11, 1⟩
/-- R110 (03), RC. -/
def PIPE_SWITCHES (i : Nat) : RF := ⟨0x8000C + i * 0x1000, 0, 32⟩
/-- R110 (03), RC. -/
def PIPE_TABLE_REFUSED (i : Nat) : RF := ⟨0x80010 + i * 0x1000, 0, 32⟩
/-- R110 (03), RW. -/
def PIPE_ORDER.CTX (i j : Nat) : RF := ⟨0x80040 + i * 0x1000 + j * 0x4, 0, 7⟩
/-- R110 (03), RW. -/
def PIPE_ORDER.VALID (i j : Nat) : RF := ⟨0x80040 + i * 0x1000 + j * 0x4, 7, 1⟩
/-- R111 (03), RW. -/
def CTX_CTRL.EN (i : Nat) : RF := ⟨0x90000 + i * 0x400, 0, 1⟩
/-- R111 (03), RW. -/
def CTX_CTRL.PIPE (i : Nat) : RF := ⟨0x90000 + i * 0x400, 1, 2⟩
/-- R111 (03), RW. -/
def CTX_CTRL.TICK_PAIR (i : Nat) : RF := ⟨0x90000 + i * 0x400, 3, 1⟩
/-- R111 (03), RW. -/
def CTX_CTRL.TRIG_SRC (i : Nat) : RF := ⟨0x90000 + i * 0x400, 4, 3⟩
/-- R111 (03), WO. -/
def CTX_CMD.COMMIT (i : Nat) : RF := ⟨0x90004 + i * 0x400, 0, 1⟩
/-- R111 (03), WO. -/
def CTX_CMD.ABORT (i : Nat) : RF := ⟨0x90004 + i * 0x400, 1, 1⟩
/-- R111 (03), RO. -/
def CTX_STATUS.COMMIT_PENDING (i : Nat) : RF := ⟨0x90008 + i * 0x400, 0, 1⟩
/-- R111 (03), RO. -/
def CTX_STATUS.RUNNING (i : Nat) : RF := ⟨0x90008 + i * 0x400, 1, 1⟩
/-- R111 (03), W1C. -/
def CTX_STATUS.SHADOW_REFUSED (i : Nat) : RF := ⟨0x90008 + i * 0x400, 2, 1⟩
/-- R111 (03), W1C. -/
def CTX_STATUS.TABLE_REFUSED (i : Nat) : RF := ⟨0x90008 + i * 0x400, 3, 1⟩
/-- R111 (03), W1C. -/
def CTX_STATUS.SET_FAIL (i : Nat) : RF := ⟨0x90008 + i * 0x400, 4, 1⟩
/-- R111 (03), W1C. -/
def CTX_STATUS.STATS_OVF (i : Nat) : RF := ⟨0x90008 + i * 0x400, 5, 1⟩
/-- R111 (03), W1C. -/
def CTX_STATUS.STRIPE_DROP (i : Nat) : RF := ⟨0x90008 + i * 0x400, 6, 1⟩
/-- R111 (03), W1C. -/
def CTX_STATUS.LINE_MISS (i : Nat) : RF := ⟨0x90008 + i * 0x400, 7, 1⟩
/-- R111 (03), W1C. -/
def CTX_STATUS.FRAME_DONE (i : Nat) : RF := ⟨0x90008 + i * 0x400, 8, 1⟩
/-- R111 (03), W1C. -/
def CTX_STATUS.SET_FULL (i : Nat) : RF := ⟨0x90008 + i * 0x400, 9, 1⟩
/-- R111 (03), W1C. -/
def CTX_STATUS.CFG_INVALID (i : Nat) : RF := ⟨0x90008 + i * 0x400, 10, 1⟩
/-- R111 (03), RW. -/
def CTX_INT_EN (i : Nat) : RF := ⟨0x9000C + i * 0x400, 2, 9⟩
/-- R111 (03), RO. -/
def CTX_FRAME_LO (i : Nat) : RF := ⟨0x90010 + i * 0x400, 0, 32⟩
/-- R111 (03), RO. -/
def CTX_FRAME_HI (i : Nat) : RF := ⟨0x90014 + i * 0x400, 0, 32⟩
/-- R111 (03), RO. -/
def CTX_GEN_NOW (i : Nat) : RF := ⟨0x90018 + i * 0x400, 0, 32⟩
/-- R111 (03), RC. -/
def CTX_DROP (i : Nat) : RF := ⟨0x9001C + i * 0x400, 0, 32⟩
/-- R111 (03), RC. -/
def CTX_MISS (i : Nat) : RF := ⟨0x90020 + i * 0x400, 0, 32⟩
/-- R111 (03), RC. -/
def CTX_EXTRA (i : Nat) : RF := ⟨0x90024 + i * 0x400, 0, 32⟩
/-- R111 (03), RC. -/
def CTX_FILL (i : Nat) : RF := ⟨0x90028 + i * 0x400, 0, 32⟩
/-- R111 (03), RC. -/
def CTX_REC_DROP (i : Nat) : RF := ⟨0x9002C + i * 0x400, 0, 32⟩
/-- R111 (03), RW. -/
def STATS_CONS (i : Nat) : RF := ⟨0x90030 + i * 0x400, 0, 16⟩
/-- R111 (03), RW. -/
def DISP_CONS (i : Nat) : RF := ⟨0x90034 + i * 0x400, 0, 16⟩
/-- R111 (03), RW. -/
def CODE_CONS (i : Nat) : RF := ⟨0x90038 + i * 0x400, 0, 16⟩
/-- R111 (03), RW. -/
def RAW_CONS (i : Nat) : RF := ⟨0x9003C + i * 0x400, 0, 16⟩
/-- R111 (03), RW. -/
def WIDTH (i : Nat) : RF := ⟨0x90040 + i * 0x400, 0, 16⟩
/-- R111 (03), RW. -/
def FRAME_LINES (i : Nat) : RF := ⟨0x90044 + i * 0x400, 0, 17⟩
/-- R111 (03), RW. -/
def STRIPE_LINES (i : Nat) : RF := ⟨0x90048 + i * 0x400, 0, 11⟩
/-- R111 (03), RW. -/
def LINE_TO (i : Nat) : RF := ⟨0x90048 + i * 0x400, 16, 16⟩
/-- R111 (03), RW. -/
def UNPACK (i : Nat) : RF := ⟨0x9004C + i * 0x400, 0, 2⟩
/-- R111 (03), RW. -/
def COLOUR (i : Nat) : RF := ⟨0x9004C + i * 0x400, 2, 2⟩
/-- R111 (03), RW. -/
def BAYER_PAT (i : Nat) : RF := ⟨0x9004C + i * 0x400, 4, 2⟩
/-- R111 (03), RW. -/
def DEFECT_EN (i : Nat) : RF := ⟨0x9004C + i * 0x400, 8, 1⟩
/-- R111 (03), RW. -/
def FLAT_EN (i : Nat) : RF := ⟨0x9004C + i * 0x400, 9, 1⟩
/-- R111 (03), RW. -/
def MATRIX_EN (i : Nat) : RF := ⟨0x9004C + i * 0x400, 10, 1⟩
/-- R111 (03), RW. -/
def LUT_EN (i : Nat) : RF := ⟨0x9004C + i * 0x400, 11, 1⟩
/-- R111 (03), RW. -/
def DEF_BASE (i : Nat) : RF := ⟨0x90050 + i * 0x400, 0, 21⟩
/-- R111 (03), RW. -/
def DEF_COUNT (i : Nat) : RF := ⟨0x90054 + i * 0x400, 0, 11⟩
/-- R111 (03), RW. -/
def FLAT_BASE0 (i : Nat) : RF := ⟨0x90058 + i * 0x400, 0, 21⟩
/-- R111 (03), RW. -/
def FLAT_BASE1 (i : Nat) : RF := ⟨0x9005C + i * 0x400, 0, 21⟩
/-- R111 (03), RW. -/
def FLAT_BANK (i : Nat) : RF := ⟨0x90060 + i * 0x400, 0, 1⟩
/-- R111 (03), RW. -/
def DELAY_R (i : Nat) : RF := ⟨0x90064 + i * 0x400, 0, 8⟩
/-- R111 (03), RW. -/
def DELAY_G (i : Nat) : RF := ⟨0x90064 + i * 0x400, 8, 8⟩
/-- R111 (03), RW. -/
def DELAY_B (i : Nat) : RF := ⟨0x90064 + i * 0x400, 16, 8⟩
/-- R111 (03), RW. -/
def DELAY_BASE (i : Nat) : RF := ⟨0x90068 + i * 0x400, 0, 21⟩
/-- R111 (03), RW. -/
def LUT_BASE (i : Nat) : RF := ⟨0x9006C + i * 0x400, 0, 21⟩
/-- R111 (03), RW. -/
def M00 (i : Nat) : RF := ⟨0x90070 + i * 0x400, 0, 16⟩
/-- R111 (03), RW. -/
def M01 (i : Nat) : RF := ⟨0x90070 + i * 0x400, 16, 16⟩
/-- R111 (03), RW. -/
def M02 (i : Nat) : RF := ⟨0x90074 + i * 0x400, 0, 16⟩
/-- R111 (03), RW. -/
def M10 (i : Nat) : RF := ⟨0x90074 + i * 0x400, 16, 16⟩
/-- R111 (03), RW. -/
def M11 (i : Nat) : RF := ⟨0x90078 + i * 0x400, 0, 16⟩
/-- R111 (03), RW. -/
def M12 (i : Nat) : RF := ⟨0x90078 + i * 0x400, 16, 16⟩
/-- R111 (03), RW. -/
def M20 (i : Nat) : RF := ⟨0x9007C + i * 0x400, 0, 16⟩
/-- R111 (03), RW. -/
def M21 (i : Nat) : RF := ⟨0x9007C + i * 0x400, 16, 16⟩
/-- R111 (03), RW. -/
def M22 (i : Nat) : RF := ⟨0x90080 + i * 0x400, 0, 16⟩
/-- R111 (03), RW. -/
def OFF0 (i : Nat) : RF := ⟨0x90084 + i * 0x400, 0, 16⟩
/-- R111 (03), RW. -/
def OFF1 (i : Nat) : RF := ⟨0x90084 + i * 0x400, 16, 16⟩
/-- R111 (03), RW. -/
def OFF2 (i : Nat) : RF := ⟨0x90088 + i * 0x400, 0, 16⟩
/-- R111 (03), RW. -/
def BX (i : Nat) : RF := ⟨0x90090 + i * 0x400, 0, 2⟩
/-- R111 (03), RW. -/
def BY (i : Nat) : RF := ⟨0x90090 + i * 0x400, 2, 2⟩
/-- R111 (03), RW. -/
def BIN_AVG (i : Nat) : RF := ⟨0x90090 + i * 0x400, 4, 1⟩
/-- R111 (03), RW. -/
def RS_EN (i : Nat) : RF := ⟨0x90090 + i * 0x400, 8, 1⟩
/-- R111 (03), RW. -/
def RS_STEP (i : Nat) : RF := ⟨0x90094 + i * 0x400, 0, 20⟩
/-- R111 (03), RW. -/
def RS_X0 (i : Nat) : RF := ⟨0x90098 + i * 0x400, 0, 32⟩
/-- R111 (03), RW. -/
def RS_OUT (i : Nat) : RF := ⟨0x9009C + i * 0x400, 0, 16⟩
/-- R111 (03), RW. -/
def STATS_CFG.EN (i : Nat) : RF := ⟨0x900A0 + i * 0x400, 0, 1⟩
/-- R111 (03), RW. -/
def STATS_CFG.TAP (i : Nat) : RF := ⟨0x900A0 + i * 0x400, 1, 1⟩
/-- R111 (03), RW. -/
def STATS_CFG.ZX_M1 (i : Nat) : RF := ⟨0x900A0 + i * 0x400, 8, 5⟩
/-- R111 (03), RW. -/
def STATS_CFG.ZY_M1 (i : Nat) : RF := ⟨0x900A0 + i * 0x400, 16, 4⟩
/-- R111 (03), RW. -/
def STATS_BASE_LO (i : Nat) : RF := ⟨0x900A4 + i * 0x400, 6, 26⟩
/-- R111 (03), RW. -/
def STATS_BASE_HI (i : Nat) : RF := ⟨0x900A8 + i * 0x400, 0, 32⟩
/-- R111 (03), RW. -/
def STATS_SLOTS (i : Nat) : RF := ⟨0x900AC + i * 0x400, 0, 9⟩
/-- R111 (03), RW. -/
def OUT_EN (i : Nat) : RF := ⟨0x900C0 + i * 0x400, 0, 4⟩
/-- R111 (03), RW. -/
def DISP_CFG.FMT (i : Nat) : RF := ⟨0x900C4 + i * 0x400, 0, 1⟩
/-- R111 (03), RW. -/
def DISP_CFG.DX (i : Nat) : RF := ⟨0x900C4 + i * 0x400, 1, 3⟩
/-- R111 (03), RW. -/
def DISP_CFG.DY (i : Nat) : RF := ⟨0x900C4 + i * 0x400, 4, 3⟩
/-- R111 (03), RW. -/
def DISP_BASE_LO (i : Nat) : RF := ⟨0x900C8 + i * 0x400, 6, 26⟩
/-- R111 (03), RW. -/
def DISP_BASE_HI (i : Nat) : RF := ⟨0x900CC + i * 0x400, 0, 32⟩
/-- R111 (03), RW. -/
def DISP_SLOTS (i : Nat) : RF := ⟨0x900D0 + i * 0x400, 0, 9⟩
/-- R111 (03), RW. -/
def DISP_PITCH (i : Nat) : RF := ⟨0x900D4 + i * 0x400, 0, 20⟩
/-- R111 (03), RW. -/
def CODE_BASE_LO (i : Nat) : RF := ⟨0x900E0 + i * 0x400, 6, 26⟩
/-- R111 (03), RW. -/
def CODE_BASE_HI (i : Nat) : RF := ⟨0x900E4 + i * 0x400, 0, 32⟩
/-- R111 (03), RW. -/
def CODE_SLOTS (i : Nat) : RF := ⟨0x900E8 + i * 0x400, 0, 9⟩
/-- R111 (03), RW. -/
def CODE_PITCH (i : Nat) : RF := ⟨0x900EC + i * 0x400, 0, 20⟩
/-- R111 (03), RW. -/
def RAW_CFG.TAP (i : Nat) : RF := ⟨0x900F0 + i * 0x400, 0, 2⟩
/-- R111 (03), RW. -/
def RAW_CFG.RAW8 (i : Nat) : RF := ⟨0x900F0 + i * 0x400, 2, 1⟩
/-- R111 (03), RW. -/
def RAW_BASE_LO (i : Nat) : RF := ⟨0x900F4 + i * 0x400, 6, 26⟩
/-- R111 (03), RW. -/
def RAW_BASE_HI (i : Nat) : RF := ⟨0x900F8 + i * 0x400, 0, 32⟩
/-- R111 (03), RW. -/
def RAW_SLOTS (i : Nat) : RF := ⟨0x900FC + i * 0x400, 0, 9⟩
/-- R111 (03), RW. -/
def RAW_PITCH (i : Nat) : RF := ⟨0x90100 + i * 0x400, 0, 20⟩
/-- R111 (03), RW. -/
def MV_CFG.TFMT (i : Nat) : RF := ⟨0x90110 + i * 0x400, 0, 2⟩
/-- R111 (03), RW. -/
def MV_CFG.NDEST_M1 (i : Nat) : RF := ⟨0x90110 + i * 0x400, 8, 3⟩
/-- R111 (03), RW. -/
def SCALE (i j : Nat) : RF := ⟨0x90114 + i * 0x400 + j * 0x4, 0, 32⟩
/-- R111 (03), RW. -/
def BIAS (i j : Nat) : RF := ⟨0x90120 + i * 0x400 + j * 0x4, 0, 32⟩
/-- R111 (03), RW. -/
def DEST_CLU (i j : Nat) : RF := ⟨0x90140 + i * 0x400 + j * 0x10, 0, 3⟩
/-- R111 (03), RW. -/
def DEST_BASE (i j : Nat) : RF := ⟨0x90144 + i * 0x400 + j * 0x10, 6, 17⟩
/-- R111 (03), RW. -/
def COL_START (i j : Nat) : RF := ⟨0x90148 + i * 0x400 + j * 0x10, 0, 16⟩
/-- R111 (03), RW. -/
def COL_COUNT (i j : Nat) : RF := ⟨0x90148 + i * 0x400 + j * 0x10, 16, 16⟩
/-- R111 (03), RW. -/
def DEST_SLOTS (i j : Nat) : RF := ⟨0x9014C + i * 0x400 + j * 0x10, 0, 8⟩
/-- R111 (03), RW. -/
def SET_ADDR (i j : Nat) : RF := ⟨0x90200 + i * 0x400 + j * 0x4, 0, 32⟩
/-- R111 (03), RW. -/
def SET_VAL (i j : Nat) : RF := ⟨0x90210 + i * 0x400 + j * 0x4, 0, 32⟩
/-- R111 (03), WO. -/
def SET_CMD.GO (i : Nat) : RF := ⟨0x90220 + i * 0x400, 0, 1⟩
/-- R111 (03), RW. -/
def SET_CMD.NWR_M1 (i : Nat) : RF := ⟨0x90220 + i * 0x400, 1, 2⟩
/-- R111 (03), RW. -/
def SET_CMD.LEAD (i : Nat) : RF := ⟨0x90220 + i * 0x400, 4, 4⟩
/-- R111 (03), RO. -/
def SET_STATUS.QUEUED (i : Nat) : RF := ⟨0x90224 + i * 0x400, 0, 3⟩
/-- R111 (03), RO. -/
def SET_GEN_LAST (i : Nat) : RF := ⟨0x90228 + i * 0x400, 0, 32⟩
/-- R315 (10), RO. -/
def TIME_TICK_LO : RF := ⟨0xC0000, 0, 32⟩
/-- R315 (10), RO. -/
def TIME_TICK_HI : RF := ⟨0xC0004, 0, 32⟩
/-- R315 (10), WO. -/
def TIME_CMD.SNAP : RF := ⟨0xC0008, 0, 1⟩
/-- R315 (10), WO. -/
def TIME_CMD.COPY : RF := ⟨0xC0008, 1, 1⟩
/-- R315 (10), RW. -/
def TIME_CMD.COPY_SRC : RF := ⟨0xC0008, 2, 2⟩
/-- R315 (10), RW. -/
def TIME_CMD.COPY_DST : RF := ⟨0xC0008, 4, 2⟩
/-- R315 (10), RO. -/
def TIME_SNAP_TICK_LO : RF := ⟨0xC0010, 0, 32⟩
/-- R315 (10), RO. -/
def TIME_SNAP_TICK_HI : RF := ⟨0xC0014, 0, 32⟩
/-- R315 (10), RW. -/
def TIME_PPS.WIDTH : RF := ⟨0xC0020, 0, 16⟩
/-- R315 (10), RW. -/
def TIME_CAP_CTRL.EN : RF := ⟨0xC0030, 0, 1⟩
/-- R315 (10), RW. -/
def TIME_CAP_CTRL.EDGE : RF := ⟨0xC0030, 1, 1⟩
/-- R315 (10), RO. -/
def TIME_CAP_TICK_LO : RF := ⟨0xC0034, 0, 32⟩
/-- R315 (10), RO. -/
def TIME_CAP_TICK_HI : RF := ⟨0xC0038, 0, 32⟩
/-- R315 (10), RO. -/
def TIME_CAP_TB0_LO : RF := ⟨0xC003C, 0, 32⟩
/-- R315 (10), RO. -/
def TIME_CAP_TB0_HI : RF := ⟨0xC0040, 0, 32⟩
/-- R315 (10), W1C. -/
def TIME_CAP_STATUS.VALID : RF := ⟨0xC0044, 0, 1⟩
/-- R315 (10), W1C. -/
def TIME_CAP_STATUS.OVR : RF := ⟨0xC0044, 1, 1⟩
/-- R315 (10), W1C. -/
def TIME_INT_STATUS : RF := ⟨0xC0048, 0, 12⟩
/-- R315 (10), RW. -/
def TIME_INT_EN : RF := ⟨0xC004C, 0, 12⟩
/-- R316 (10), RO. -/
def TB_NS_LO (i : Nat) : RF := ⟨0xC0100 + i * 0x40, 0, 32⟩
/-- R316 (10), RO. -/
def TB_NS_HI (i : Nat) : RF := ⟨0xC0104 + i * 0x40, 0, 32⟩
/-- R316 (10), RO. -/
def TB_FRAC (i : Nat) : RF := ⟨0xC0108 + i * 0x40, 0, 32⟩
/-- R316 (10), RW. -/
def TB_RATE (i : Nat) : RF := ⟨0xC010C + i * 0x40, 0, 32⟩
/-- R316 (10), RW. -/
def TB_SET_NS_LO (i : Nat) : RF := ⟨0xC0110 + i * 0x40, 0, 32⟩
/-- R316 (10), RW. -/
def TB_SET_NS_HI (i : Nat) : RF := ⟨0xC0114 + i * 0x40, 0, 32⟩
/-- R316 (10), RW. -/
def TB_SET_FRAC (i : Nat) : RF := ⟨0xC0118 + i * 0x40, 0, 32⟩
/-- R316 (10), RW. -/
def TB_STEP_NS (i : Nat) : RF := ⟨0xC011C + i * 0x40, 0, 32⟩
/-- R316 (10), RW. -/
def TB_STEP_FRAC (i : Nat) : RF := ⟨0xC0120 + i * 0x40, 0, 32⟩
/-- R316 (10), WO. -/
def TB_CMD.SET (i : Nat) : RF := ⟨0xC0124 + i * 0x40, 0, 1⟩
/-- R316 (10), WO. -/
def TB_CMD.STEP (i : Nat) : RF := ⟨0xC0124 + i * 0x40, 1, 1⟩
/-- R316 (10), RO. -/
def TB_STATUS.SERVO_OWNED (i : Nat) : RF := ⟨0xC0128 + i * 0x40, 0, 1⟩
/-- R316 (10), W1C. -/
def TB_STATUS.REFUSED (i : Nat) : RF := ⟨0xC0128 + i * 0x40, 1, 1⟩
/-- R316 (10), RO. -/
def TB_SNAP_NS_LO (i : Nat) : RF := ⟨0xC012C + i * 0x40, 0, 32⟩
/-- R316 (10), RO. -/
def TB_SNAP_NS_HI (i : Nat) : RF := ⟨0xC0130 + i * 0x40, 0, 32⟩
/-- R316 (10), RO. -/
def TB_SNAP_FRAC (i : Nat) : RF := ⟨0xC0134 + i * 0x40, 0, 32⟩
/-- R317 (10), RW. -/
def CMP_CTRL.EN (i : Nat) : RF := ⟨0xC0400 + i * 0x20, 0, 1⟩
/-- R317 (10), RW. -/
def CMP_CTRL.TB (i : Nat) : RF := ⟨0xC0400 + i * 0x20, 1, 2⟩
/-- R317 (10), RW. -/
def CMP_CTRL.PERIODIC (i : Nat) : RF := ⟨0xC0400 + i * 0x20, 3, 1⟩
/-- R317 (10), RW. -/
def CMP_CTRL.PIN (i : Nat) : RF := ⟨0xC0400 + i * 0x20, 4, 1⟩
/-- R317 (10), RW. -/
def CMP_TARGET_LO (i : Nat) : RF := ⟨0xC0404 + i * 0x20, 0, 32⟩
/-- R317 (10), RW. -/
def CMP_TARGET_HI (i : Nat) : RF := ⟨0xC0408 + i * 0x20, 0, 8⟩
/-- R317 (10), RW. -/
def CMP_PERIOD_LO (i : Nat) : RF := ⟨0xC040C + i * 0x20, 0, 32⟩
/-- R317 (10), RW. -/
def CMP_PERIOD_HI (i : Nat) : RF := ⟨0xC0410 + i * 0x20, 0, 8⟩
/-- R317 (10), W1C. -/
def CMP_STATUS.FIRED (i : Nat) : RF := ⟨0xC0414 + i * 0x20, 0, 1⟩
/-- R317 (10), W1C. -/
def CMP_STATUS.LATE (i : Nat) : RF := ⟨0xC0414 + i * 0x20, 1, 1⟩
/-- R317 (10), RC. -/
def CMP_SKIP (i : Nat) : RF := ⟨0xC0418 + i * 0x20, 0, 32⟩
/-- R318 (10), RW. -/
def TB1_CTRL.ROLE : RF := ⟨0xC0600, 0, 2⟩
/-- R318 (10), RW. -/
def TB1_CTRL.UPPORT : RF := ⟨0xC0600, 2, 3⟩
/-- R318 (10), RW. -/
def TB1_CTRL.PORTS : RF := ⟨0xC0600, 8, 8⟩
/-- R318 (10), RW. -/
def TB1_CTRL.PERIOD : RF := ⟨0xC0600, 16, 16⟩
/-- R318 (10), RW. -/
def TB1_STEP_NS : RF := ⟨0xC0604, 0, 16⟩
/-- R318 (10), RW. -/
def TB1_KP : RF := ⟨0xC0608, 0, 32⟩
/-- R318 (10), RW. -/
def TB1_KI : RF := ⟨0xC060C, 0, 32⟩
/-- R318 (10), RO. -/
def TB1_STATUS.LOCKED : RF := ⟨0xC0610, 0, 1⟩
/-- R318 (10), RO. -/
def TB1_STATUS.HOLDOVER : RF := ⟨0xC0610, 1, 1⟩
/-- R318 (10), W1C. -/
def TB1_STATUS.STEPPED : RF := ⟨0xC0610, 2, 1⟩
/-- R318 (10), RO. -/
def TB1_STATUS.HOP : RF := ⟨0xC0610, 4, 4⟩
/-- R318 (10), RO. -/
def TB1_OFFSET : RF := ⟨0xC0614, 0, 32⟩
/-- R318 (10), RO. -/
def TB1_DELAY : RF := ⟨0xC0618, 0, 32⟩
/-- R318 (10), RW. -/
def TB1_ASYM (i : Nat) : RF := ⟨0xC0620 + i * 0x4, 0, 32⟩
/-- R319 (10), RW. -/
def ETH_CTRL.EN (i : Nat) : RF := ⟨0xD0000 + i * 0x1000, 0, 1⟩
/-- R319 (10), RW. -/
def ETH_CTRL.LOOP (i : Nat) : RF := ⟨0xD0000 + i * 0x1000, 1, 1⟩
/-- R319 (10), RO. -/
def ETH_STATUS.BLOCK_LOCK (i : Nat) : RF := ⟨0xD0004 + i * 0x1000, 0, 1⟩
/-- R319 (10), RO. -/
def ETH_STATUS.LINK_UP (i : Nat) : RF := ⟨0xD0004 + i * 0x1000, 1, 1⟩
/-- R319 (10), RO. -/
def ETH_STATUS.HI_BER (i : Nat) : RF := ⟨0xD0004 + i * 0x1000, 2, 1⟩
/-- R319 (10), RW. -/
def ETH_MAC_LO (i : Nat) : RF := ⟨0xD0008 + i * 0x1000, 0, 32⟩
/-- R319 (10), RW. -/
def ETH_MAC_HI (i : Nat) : RF := ⟨0xD000C + i * 0x1000, 0, 16⟩
/-- R319 (10), RW. -/
def ETH_MAXLEN (i : Nat) : RF := ⟨0xD0010 + i * 0x1000, 0, 14⟩
/-- R319 (10), RW. -/
def ETH_TS_TX_ADJ (i : Nat) : RF := ⟨0xD0014 + i * 0x1000, 0, 16⟩
/-- R319 (10), RW. -/
def ETH_TS_RX_ADJ (i : Nat) : RF := ⟨0xD0018 + i * 0x1000, 0, 16⟩
/-- R319 (10), RW. -/
def ETH_TS_CFG.ONE_STEP_EN (i : Nat) : RF := ⟨0xD001C + i * 0x1000, 0, 1⟩
/-- R319 (10), RO. -/
def ETH_TXTS_STATUS.COUNT (i : Nat) : RF := ⟨0xD0020 + i * 0x1000, 0, 5⟩
/-- R319 (10), W1C. -/
def ETH_TXTS_STATUS.OVF (i : Nat) : RF := ⟨0xD0020 + i * 0x1000, 8, 1⟩
/-- R319 (10), WO. -/
def ETH_TXTS_STATUS.POP (i : Nat) : RF := ⟨0xD0020 + i * 0x1000, 9, 1⟩
/-- R319 (10), RO. -/
def ETH_TXTS_ID (i : Nat) : RF := ⟨0xD0024 + i * 0x1000, 0, 16⟩
/-- R319 (10), RO. -/
def ETH_TXTS_NS_LO (i : Nat) : RF := ⟨0xD0028 + i * 0x1000, 0, 32⟩
/-- R319 (10), RO. -/
def ETH_TXTS_NS_HI (i : Nat) : RF := ⟨0xD002C + i * 0x1000, 0, 32⟩
/-- R319 (10), RO. -/
def ETH_TXTS_FRAC (i : Nat) : RF := ⟨0xD0030 + i * 0x1000, 0, 16⟩
/-- R319 (10), RC. -/
def ETH_TX_FRAMES (i : Nat) : RF := ⟨0xD0040 + i * 0x1000, 0, 32⟩
/-- R319 (10), RC. -/
def ETH_RX_FRAMES (i : Nat) : RF := ⟨0xD0044 + i * 0x1000, 0, 32⟩
/-- R319 (10), RC. -/
def ETH_RX_FCS_ERR (i : Nat) : RF := ⟨0xD0048 + i * 0x1000, 0, 32⟩
/-- R319 (10), RC. -/
def ETH_RX_DROP (i : Nat) : RF := ⟨0xD004C + i * 0x1000, 0, 32⟩
/-- R319 (10), RC. -/
def ETH_TXTS_LOST (i : Nat) : RF := ⟨0xD0050 + i * 0x1000, 0, 32⟩
/-- R319 (10), W1C. -/
def ETH_INT_STATUS (i : Nat) : RF := ⟨0xD0054 + i * 0x1000, 0, 3⟩
/-- R319 (10), RW. -/
def ETH_INT_EN (i : Nat) : RF := ⟨0xD0058 + i * 0x1000, 0, 3⟩
/-- R296 (09), RW. -/
def BAR_CTRL.HB_EN : RF := ⟨0xE0000, 0, 1⟩
/-- R296 (09), RW. -/
def BAR_CTRL.FLOSS_TO : RF := ⟨0xE0000, 16, 16⟩
/-- R296 (09), WO. -/
def BAR_CMD.RELEASE : RF := ⟨0xE0004, 0, 1⟩
/-- R296 (09), RO. -/
def BAR_STATUS.RX_LOCK : RF := ⟨0xE0008, 0, 1⟩
/-- R296 (09), RO. -/
def BAR_STATUS.SAFE : RF := ⟨0xE0008, 1, 1⟩
/-- R296 (09), RO. -/
def BAR_STATUS.FIELD_FAULT : RF := ⟨0xE0008, 2, 1⟩
/-- R296 (09), RO. -/
def BAR_STATUS.LP_OK : RF := ⟨0xE0008, 3, 1⟩
/-- R296 (09), RO. -/
def BAR_STATUS.ALIVE : RF := ⟨0xE0008, 4, 1⟩
/-- R296 (09), W1C. -/
def BAR_STATUS.FIELD_LOST : RF := ⟨0xE0008, 5, 1⟩
/-- R296 (09), W1C. -/
def BAR_STATUS.TICK_LOST : RF := ⟨0xE0008, 6, 1⟩
/-- R296 (09), W1C. -/
def BAR_STATUS.CRC : RF := ⟨0xE0008, 7, 1⟩
/-- R296 (09), W1C. -/
def BAR_STATUS.CFG_FAIL : RF := ⟨0xE0008, 8, 1⟩
/-- R296 (09), RO. -/
def BAR_STATUS.WEIR_USED : RF := ⟨0xE0008, 16, 13⟩
/-- R296 (09), RW. -/
def BAR_INT_EN : RF := ⟨0xE000C, 5, 4⟩
/-- R296 (09), RC. -/
def BAR_CRC_ERR : RF := ⟨0xE0010, 0, 32⟩
/-- R296 (09), RC. -/
def BAR_LATE : RF := ⟨0xE0014, 0, 32⟩
/-- R296 (09), RC. -/
def BAR_TICK_LOST : RF := ⟨0xE0018, 0, 32⟩
/-- R296 (09), RO. -/
def BAR_DI_NOW : RF := ⟨0xE001C, 0, 16⟩
/-- R296 (09), RC. -/
def BAR_DUP_RPT : RF := ⟨0xE0020, 0, 32⟩
/-- R297 (09), RW. -/
def FLD_CTRL.HB_TO : RF := ⟨0xE1000, 0, 16⟩
/-- R297 (09), RW. -/
def FLD_CTRL.SNAP_PERIOD : RF := ⟨0xE1000, 16, 16⟩
/-- R297 (09), RO. -/
def FLD_STATUS.SAFE : RF := ⟨0xE1004, 0, 1⟩
/-- R297 (09), W1C. -/
def FLD_STATUS.FIELD_FAULT : RF := ⟨0xE1004, 1, 1⟩
/-- R297 (09), RO. -/
def FLD_STATUS.LP_OK : RF := ⟨0xE1004, 2, 1⟩
/-- R297 (09), W1C. -/
def FLD_STATUS.HB_LOST : RF := ⟨0xE1004, 3, 1⟩
/-- R297 (09), RO. -/
def FLD_STATUS.WEIR_USED : RF := ⟨0xE1004, 8, 13⟩
/-- R297 (09), RC. -/
def FLD_CANCELLED : RF := ⟨0xE1008, 0, 32⟩
/-- R297 (09), RC. -/
def FLD_LATE : RF := ⟨0xE100C, 0, 32⟩
/-- R297 (09), RW. -/
def TRIG_CFG.EN (i : Nat) : RF := ⟨0xE1100 + i * 0x10, 0, 1⟩
/-- R297 (09), RW. -/
def TRIG_CFG.CH (i : Nat) : RF := ⟨0xE1100 + i * 0x10, 1, 2⟩
/-- R297 (09), RW. -/
def TRIG_CFG.N (i : Nat) : RF := ⟨0xE1100 + i * 0x10, 8, 24⟩
/-- R297 (09), RW. -/
def TRIG_START (i : Nat) : RF := ⟨0xE1104 + i * 0x10, 0, 32⟩
/-- R297 (09), RO. -/
def TRIG_NEXT (i : Nat) : RF := ⟨0xE1108 + i * 0x10, 0, 32⟩
/-- R297 (09), RO. -/
def TRIG_TICKS (i : Nat) : RF := ⟨0xE110C + i * 0x10, 0, 32⟩
/-- R297 (09), RC. -/
def TRIG_SKIPPED (i : Nat) : RF := ⟨0xE1180 + i * 0x4, 0, 32⟩
/-- R297 (09), RW. -/
def DI_CFG.REF_CH : RF := ⟨0xE1200, 0, 2⟩
/-- R297 (09), RW. -/
def DI_RISE_EN : RF := ⟨0xE1204, 0, 16⟩
/-- R297 (09), RW. -/
def DI_FALL_EN : RF := ⟨0xE1208, 0, 16⟩
/-- R297 (09), RO. -/
def DI_STATE : RF := ⟨0xE120C, 0, 16⟩
/-- R297 (09), RW. -/
def DI_FILT (i : Nat) : RF := ⟨0xE1210 + i * 0x4, 0, 32⟩
/-- R297 (09), RW. -/
def DO_VALUE : RF := ⟨0xE1300, 0, 16⟩
/-- R297 (09), RW. -/
def DO_MODE : RF := ⟨0xE1304, 0, 32⟩
/-- R297 (09), RW. -/
def DO_GRP : RF := ⟨0xE1308, 0, 32⟩
/-- R297 (09), RW. -/
def STB_GRP : RF := ⟨0xE130C, 0, 8⟩
/-- R297 (09), RW. -/
def STB_CFG.MODE (i : Nat) : RF := ⟨0xE1310 + i * 0x8, 0, 2⟩
/-- R297 (09), RW. -/
def STB_CFG.SRC (i : Nat) : RF := ⟨0xE1310 + i * 0x8, 2, 3⟩
/-- R297 (09), RW. -/
def STB_CFG.POL (i : Nat) : RF := ⟨0xE1310 + i * 0x8, 5, 1⟩
/-- R297 (09), RW. -/
def STB_DELAY (i : Nat) : RF := ⟨0xE1310 + i * 0x8, 16, 16⟩
/-- R297 (09), RW. -/
def STB_WIDTH (i : Nat) : RF := ⟨0xE1314 + i * 0x8, 0, 16⟩
/-- R297 (09), RW. -/
def WG_CFG.EN (i : Nat) : RF := ⟨0xE1400 + i * 0x20, 0, 1⟩
/-- R297 (09), RW. -/
def WG_CFG.CH (i : Nat) : RF := ⟨0xE1400 + i * 0x20, 1, 2⟩
/-- R297 (09), RW. -/
def WG_CFG.W_UNIT (i : Nat) : RF := ⟨0xE1400 + i * 0x20, 3, 1⟩
/-- R297 (09), RW. -/
def WG_LEAD (i : Nat) : RF := ⟨0xE1404 + i * 0x20, 0, 24⟩
/-- R297 (09), RW. -/
def WG_LATE (i : Nat) : RF := ⟨0xE1408 + i * 0x20, 0, 31⟩
/-- R297 (09), RO. -/
def WG_PENDING (i : Nat) : RF := ⟨0xE140C + i * 0x20, 0, 13⟩
/-- R297 (09), RO. -/
def WG_LAST_C (i : Nat) : RF := ⟨0xE1410 + i * 0x20, 0, 32⟩
/-- R297 (09), RO. -/
def WG_FIRE_AT (i : Nat) : RF := ⟨0xE1414 + i * 0x20, 0, 32⟩
/-- R297 (09), RC. -/
def WG_FIRED (i : Nat) : RF := ⟨0xE1418 + i * 0x20, 0, 32⟩
/-- R297 (09), RC. -/
def WG_MISSED (i : Nat) : RF := ⟨0xE141C + i * 0x20, 0, 32⟩
/-- R297 (09), RC. -/
def WG_OVERSHOOT (i : Nat) : RF := ⟨0xE1600 + i * 0x4, 0, 32⟩
/-- R297 (09), RW. -/
def W_TAB (i j : Nat) : RF := ⟨0xE1700 + i * 0x20 + j * 0x4, 0, 24⟩
/-- R297 (09), RW. -/
def VB_CFG.EN (i : Nat) : RF := ⟨0xE1800 + i * 0x10, 0, 1⟩
/-- R297 (09), RO. -/
def VB_STATUS.ACTIVE (i : Nat) : RF := ⟨0xE1804 + i * 0x10, 0, 1⟩
/-- R297 (09), RO. -/
def VB_FRAMES (i : Nat) : RF := ⟨0xE1808 + i * 0x10, 0, 32⟩
/-- R266 (08), RW. -/
def ENC_CFG.MODE (i : Nat) : RF := ⟨0xE4000 + i * 0x200, 0, 3⟩
/-- R266 (08), RW. -/
def ENC_CFG.IN_TYPE (i : Nat) : RF := ⟨0xE4000 + i * 0x200, 3, 1⟩
/-- R266 (08), RW. -/
def ENC_CFG.DECODE (i : Nat) : RF := ⟨0xE4000 + i * 0x200, 4, 2⟩
/-- R266 (08), RW. -/
def ENC_CFG.DIR_INV (i : Nat) : RF := ⟨0xE4000 + i * 0x200, 6, 1⟩
/-- R266 (08), RW. -/
def ENC_CFG.HYST_EN (i : Nat) : RF := ⟨0xE4000 + i * 0x200, 7, 1⟩
/-- R266 (08), RW. -/
def ENC_CFG.ZMODE (i : Nat) : RF := ⟨0xE4000 + i * 0x200, 8, 2⟩
/-- R266 (08), RW. -/
def ENC_CFG.ZQ_EN (i : Nat) : RF := ⟨0xE4000 + i * 0x200, 10, 1⟩
/-- R266 (08), RW. -/
def ENC_CFG.ZQ_A (i : Nat) : RF := ⟨0xE4000 + i * 0x200, 11, 1⟩
/-- R266 (08), RW. -/
def ENC_CFG.ZQ_B (i : Nat) : RF := ⟨0xE4000 + i * 0x200, 12, 1⟩
/-- R266 (08), RW. -/
def ENC_CFG.INTERP_LOG2 (i : Nat) : RF := ⟨0xE4000 + i * 0x200, 16, 4⟩
/-- R266 (08), WO. -/
def ENC_CMD.LATCH (i : Nat) : RF := ⟨0xE4004 + i * 0x200, 0, 1⟩
/-- R266 (08), WO. -/
def ENC_CMD.CLR_CNT (i : Nat) : RF := ⟨0xE4004 + i * 0x200, 1, 1⟩
/-- R266 (08), WO. -/
def ENC_CMD.BW_SET (i : Nat) : RF := ⟨0xE4004 + i * 0x200, 2, 1⟩
/-- R266 (08), WO. -/
def ENC_CMD.K_APPLY (i : Nat) : RF := ⟨0xE4004 + i * 0x200, 3, 1⟩
/-- R266 (08), WO. -/
def ENC_CMD.CAL_CLR (i : Nat) : RF := ⟨0xE4004 + i * 0x200, 4, 1⟩
/-- R266 (08), RW. -/
def ENC_PHASE (i : Nat) : RF := ⟨0xE4008 + i * 0x200, 0, 2⟩
/-- R266 (08), W1C. -/
def ENC_STATUS.ILLEGAL (i : Nat) : RF := ⟨0xE400C + i * 0x200, 0, 1⟩
/-- R266 (08), W1C. -/
def ENC_STATUS.HALL_IMPOSS (i : Nat) : RF := ⟨0xE400C + i * 0x200, 1, 1⟩
/-- R266 (08), W1C. -/
def ENC_STATUS.AMP_FAULT (i : Nat) : RF := ⟨0xE400C + i * 0x200, 2, 1⟩
/-- R266 (08), W1C. -/
def ENC_STATUS.SER_ERR (i : Nat) : RF := ⟨0xE400C + i * 0x200, 3, 1⟩
/-- R266 (08), W1C. -/
def ENC_STATUS.OPEN_SEEN (i : Nat) : RF := ⟨0xE400C + i * 0x200, 4, 1⟩
/-- R266 (08), W1C. -/
def ENC_STATUS.ZSEEN (i : Nat) : RF := ⟨0xE400C + i * 0x200, 5, 1⟩
/-- R266 (08), W1C. -/
def ENC_STATUS.BRIDGE_BACK (i : Nat) : RF := ⟨0xE400C + i * 0x200, 6, 1⟩
/-- R266 (08), W1C. -/
def ENC_STATUS.OBS_SAT (i : Nat) : RF := ⟨0xE400C + i * 0x200, 7, 1⟩
/-- R266 (08), RO. -/
def ENC_STATUS.LOST (i : Nat) : RF := ⟨0xE400C + i * 0x200, 8, 1⟩
/-- R266 (08), RO. -/
def ENC_STATUS.OPEN (i : Nat) : RF := ⟨0xE400C + i * 0x200, 9, 1⟩
/-- R266 (08), RO. -/
def ENC_STATUS.DIR (i : Nat) : RF := ⟨0xE400C + i * 0x200, 10, 1⟩
/-- R266 (08), W1C. -/
def ENC_STATUS.SER_WARN (i : Nat) : RF := ⟨0xE400C + i * 0x200, 11, 1⟩
/-- R266 (08), RO. -/
def ENC_STATUS.HALL_NOW (i : Nat) : RF := ⟨0xE400C + i * 0x200, 12, 3⟩
/-- R266 (08), RO. -/
def ENC_STATUS.HALL_BAD (i : Nat) : RF := ⟨0xE400C + i * 0x200, 15, 3⟩
/-- R266 (08), RO. -/
def ENC_STATUS.SER_CAUSE (i : Nat) : RF := ⟨0xE400C + i * 0x200, 18, 3⟩
/-- R266 (08), W1C. -/
def ENC_STATUS.CFG_INVALID (i : Nat) : RF := ⟨0xE400C + i * 0x200, 21, 1⟩
/-- R266 (08), RC. -/
def ENC_ILLEGAL (i : Nat) : RF := ⟨0xE4010 + i * 0x200, 0, 32⟩
/-- R266 (08), RC. -/
def ENC_HALL_IMPOSS (i : Nat) : RF := ⟨0xE4014 + i * 0x200, 0, 32⟩
/-- R266 (08), RC. -/
def ENC_AMP_EVENTS (i : Nat) : RF := ⟨0xE4018 + i * 0x200, 0, 32⟩
/-- R266 (08), RC. -/
def ENC_SER_ERRS (i : Nat) : RF := ⟨0xE401C + i * 0x200, 0, 32⟩
/-- R266 (08), RW. -/
def ENC_PRESET (i : Nat) : RF := ⟨0xE4020 + i * 0x200, 0, 32⟩
/-- R266 (08), RO. -/
def ENC_POS (i : Nat) : RF := ⟨0xE4024 + i * 0x200, 0, 32⟩
/-- R266 (08), RO. -/
def ENC_RAW (i : Nat) : RF := ⟨0xE4028 + i * 0x200, 0, 32⟩
/-- R266 (08), RO. -/
def ENC_ZLATCH (i : Nat) : RF := ⟨0xE402C + i * 0x200, 0, 32⟩
/-- R266 (08), RW. -/
def ENC_FAULT_EN (i : Nat) : RF := ⟨0xE4030 + i * 0x200, 0, 9⟩
/-- R266 (08), RW. -/
def SC_OFS.OFS_S (i : Nat) : RF := ⟨0xE4040 + i * 0x200, 0, 14⟩
/-- R266 (08), RW. -/
def SC_OFS.OFS_C (i : Nat) : RF := ⟨0xE4040 + i * 0x200, 16, 14⟩
/-- R266 (08), RW. -/
def SC_GAIN.GAIN_S (i : Nat) : RF := ⟨0xE4044 + i * 0x200, 0, 16⟩
/-- R266 (08), RW. -/
def SC_GAIN.GAIN_C (i : Nat) : RF := ⟨0xE4044 + i * 0x200, 16, 16⟩
/-- R266 (08), RW. -/
def SC_PHASE (i : Nat) : RF := ⟨0xE4048 + i * 0x200, 0, 16⟩
/-- R266 (08), RW. -/
def SC_AMP.AMP_MIN (i : Nat) : RF := ⟨0xE404C + i * 0x200, 0, 14⟩
/-- R266 (08), RW. -/
def SC_AMP.AMP_MAX (i : Nat) : RF := ⟨0xE404C + i * 0x200, 16, 14⟩
/-- R266 (08), RW. -/
def SC_AMP_N (i : Nat) : RF := ⟨0xE4050 + i * 0x200, 0, 8⟩
/-- R266 (08), RW. -/
def SC_CAL_CTRL.EN (i : Nat) : RF := ⟨0xE4054 + i * 0x200, 0, 1⟩
/-- R266 (08), RO. -/
def SC_CAL_S.MIN (i : Nat) : RF := ⟨0xE4058 + i * 0x200, 0, 14⟩
/-- R266 (08), RO. -/
def SC_CAL_S.MAX (i : Nat) : RF := ⟨0xE4058 + i * 0x200, 16, 14⟩
/-- R266 (08), RO. -/
def SC_CAL_C.MIN (i : Nat) : RF := ⟨0xE405C + i * 0x200, 0, 14⟩
/-- R266 (08), RO. -/
def SC_CAL_C.MAX (i : Nat) : RF := ⟨0xE405C + i * 0x200, 16, 14⟩
/-- R266 (08), RO. -/
def SC_CAL_PERIODS (i : Nat) : RF := ⟨0xE4060 + i * 0x200, 0, 32⟩
/-- R266 (08), RO. -/
def SC_STAT.ANGLE (i : Nat) : RF := ⟨0xE4064 + i * 0x200, 0, 16⟩
/-- R266 (08), RO. -/
def SC_STAT.AMPL (i : Nat) : RF := ⟨0xE4064 + i * 0x200, 16, 15⟩
/-- R266 (08), RW. -/
def SER_CFG.BITS_M1 (i : Nat) : RF := ⟨0xE4080 + i * 0x200, 0, 6⟩
/-- R266 (08), RW. -/
def SER_CFG.GRAY (i : Nat) : RF := ⟨0xE4080 + i * 0x200, 6, 1⟩
/-- R266 (08), RW. -/
def SER_CFG.PARITY (i : Nat) : RF := ⟨0xE4080 + i * 0x200, 7, 2⟩
/-- R266 (08), RW. -/
def SER_CFG.BRIDGE_EN (i : Nat) : RF := ⟨0xE4080 + i * 0x200, 9, 1⟩
/-- R266 (08), RW. -/
def SER_CFG.DIV (i : Nat) : RF := ⟨0xE4080 + i * 0x200, 16, 8⟩
/-- R266 (08), RW. -/
def SER_CFG.DLY (i : Nat) : RF := ⟨0xE4080 + i * 0x200, 24, 8⟩
/-- R266 (08), RW. -/
def SER_TIMING.PERIOD_M1 (i : Nat) : RF := ⟨0xE4084 + i * 0x200, 0, 10⟩
/-- R266 (08), RW. -/
def SER_TIMING.TO (i : Nat) : RF := ⟨0xE4084 + i * 0x200, 16, 8⟩
/-- R266 (08), RW. -/
def SER_TIMING.FAIL_N (i : Nat) : RF := ⟨0xE4084 + i * 0x200, 24, 8⟩
/-- R266 (08), RW. -/
def SER_MAXSTEP (i : Nat) : RF := ⟨0xE4088 + i * 0x200, 0, 32⟩
/-- R266 (08), RO. -/
def SER_WORD_LO (i : Nat) : RF := ⟨0xE408C + i * 0x200, 0, 32⟩
/-- R266 (08), RO. -/
def SER_WORD_HI (i : Nat) : RF := ⟨0xE4090 + i * 0x200, 0, 16⟩
/-- R266 (08), RO. -/
def SER_DELAY (i : Nat) : RF := ⟨0xE4094 + i * 0x200, 0, 8⟩
/-- R266 (08), RW. -/
def OBS_BW (i : Nat) : RF := ⟨0xE40C0 + i * 0x200, 0, 15⟩
/-- R266 (08), RW. -/
def OBS_K1.M (i : Nat) : RF := ⟨0xE40C4 + i * 0x200, 0, 16⟩
/-- R266 (08), RW. -/
def OBS_K1.S (i : Nat) : RF := ⟨0xE40C4 + i * 0x200, 16, 6⟩
/-- R266 (08), RW. -/
def OBS_K2.M (i : Nat) : RF := ⟨0xE40C8 + i * 0x200, 0, 16⟩
/-- R266 (08), RW. -/
def OBS_K2.S (i : Nat) : RF := ⟨0xE40C8 + i * 0x200, 16, 6⟩
/-- R266 (08), RW. -/
def OBS_K3.M (i : Nat) : RF := ⟨0xE40CC + i * 0x200, 0, 16⟩
/-- R266 (08), RW. -/
def OBS_K3.S (i : Nat) : RF := ⟨0xE40CC + i * 0x200, 16, 6⟩
/-- R266 (08), RO. -/
def LAT_POS (i : Nat) : RF := ⟨0xE40E0 + i * 0x200, 0, 32⟩
/-- R266 (08), RO. -/
def LAT_X_LO (i : Nat) : RF := ⟨0xE40E4 + i * 0x200, 0, 32⟩
/-- R266 (08), RO. -/
def LAT_X_HI (i : Nat) : RF := ⟨0xE40E8 + i * 0x200, 0, 32⟩
/-- R266 (08), RO. -/
def LAT_V_LO (i : Nat) : RF := ⟨0xE40EC + i * 0x200, 0, 32⟩
/-- R266 (08), RO. -/
def LAT_V_HI (i : Nat) : RF := ⟨0xE40F0 + i * 0x200, 0, 32⟩
/-- R266 (08), RO. -/
def LAT_A_LO (i : Nat) : RF := ⟨0xE40F4 + i * 0x200, 0, 32⟩
/-- R266 (08), RO. -/
def LAT_A_HI (i : Nat) : RF := ⟨0xE40F8 + i * 0x200, 0, 32⟩
/-- R266 (08), RO. -/
def LAT_STATUS (i : Nat) : RF := ⟨0xE40FC + i * 0x200, 0, 22⟩
/-- R267 (08), RW. -/
def REP_CTRL.MODE (i : Nat) : RF := ⟨0xE4800 + i * 0x20, 0, 2⟩
/-- R267 (08), RW. -/
def REP_CTRL.Z_EN (i : Nat) : RF := ⟨0xE4800 + i * 0x20, 2, 1⟩
/-- R267 (08), RW. -/
def REP_CTRL.GAP (i : Nat) : RF := ⟨0xE4800 + i * 0x20, 8, 8⟩
/-- R267 (08), RW. -/
def REP_ZPER (i : Nat) : RF := ⟨0xE4804 + i * 0x20, 0, 32⟩
/-- R267 (08), W1C. -/
def REP_STATUS.OVF (i : Nat) : RF := ⟨0xE4808 + i * 0x20, 0, 1⟩
/-- R267 (08), RO. -/
def REP_STATUS.SRC_INVALID (i : Nat) : RF := ⟨0xE4808 + i * 0x20, 1, 1⟩
/-- R267 (08), RO. -/
def REP_STATUS.ACTIVE (i : Nat) : RF := ⟨0xE4808 + i * 0x20, 2, 1⟩
/-- R267 (08), RO. -/
def REP_BACKLOG (i : Nat) : RF := ⟨0xE480C + i * 0x20, 0, 16⟩
/-- R429 (15), WO. -/
def FLD_LOAD_CTRL.START : RF := ⟨0xE8000, 0, 1⟩
/-- R429 (15), WO. -/
def FLD_LOAD_CTRL.RUN : RF := ⟨0xE8000, 1, 1⟩
/-- R429 (15), WO. -/
def FLD_LOAD_DATA : RF := ⟨0xE8004, 0, 32⟩
/-- R429 (15), RO. -/
def FLD_LOAD_LEN : RF := ⟨0xE8008, 0, 32⟩
/-- R429 (15), WO. -/
def FLD_LOAD_EXP (i : Nat) : RF := ⟨0xE8020 + i * 0x4, 0, 32⟩
/-- R429 (15), RO. -/
def FLD_LOAD_DIGEST (i : Nat) : RF := ⟨0xE8040 + i * 0x4, 0, 32⟩
/-- R202 (06), RO. -/
def MEM_ID.STACKS : RF := ⟨0x100000, 0, 2⟩
/-- R202 (06), RO. -/
def MEM_ID.IODIES : RF := ⟨0x100000, 2, 2⟩
/-- R202 (06), RO. -/
def MEM_ID.TABLES : RF := ⟨0x100000, 8, 5⟩
/-- R202 (06), RO. -/
def MEM_STATUS.INIT_DONE : RF := ⟨0x100004, 0, 1⟩
/-- R202 (06), RO. -/
def MEM_STATUS.HOT0 : RF := ⟨0x100004, 1, 1⟩
/-- R202 (06), RO. -/
def MEM_STATUS.HOT1 : RF := ⟨0x100004, 2, 1⟩
/-- R202 (06), RO. -/
def MEM_STATUS.FAIL0 : RF := ⟨0x100004, 3, 1⟩
/-- R202 (06), RO. -/
def MEM_STATUS.FAIL1 : RF := ⟨0x100004, 4, 1⟩
/-- R202 (06), WO. -/
def MEM_SLU_COMMIT : RF := ⟨0x100008, 0, 26⟩
/-- R202 (06), RO. -/
def MEM_PERIOD_LO : RF := ⟨0x100010, 0, 32⟩
/-- R202 (06), RO. -/
def MEM_PERIOD_HI : RF := ⟨0x100014, 0, 32⟩
/-- R202 (06), W1C. -/
def MEM_CSUM_STATUS.SPAD : RF := ⟨0x100020, 0, 1⟩
/-- R202 (06), W1C. -/
def MEM_CSUM_STATUS.LSTORE : RF := ⟨0x100020, 1, 1⟩
/-- R202 (06), W1C. -/
def MEM_CSUM_STATUS.HBM : RF := ⟨0x100020, 2, 1⟩
/-- R202 (06), W1C. -/
def MEM_CSUM_STATUS.XFER : RF := ⟨0x100020, 3, 1⟩
/-- R202 (06), W1C. -/
def MEM_CSUM_STATUS.OVERFLOW : RF := ⟨0x100020, 4, 1⟩
/-- R202 (06), RC. -/
def MEM_CSUM_COUNT : RF := ⟨0x100024, 0, 32⟩
/-- R202 (06), RO. -/
def MEM_CSUM_LOC.KIND : RF := ⟨0x100028, 0, 3⟩
/-- R202 (06), RO. -/
def MEM_CSUM_LOC.UNIT : RF := ⟨0x100028, 4, 7⟩
/-- R202 (06), RO. -/
def MEM_CSUM_ADDR : RF := ⟨0x10002C, 0, 32⟩
/-- R202 (06), RC. -/
def MEM_HBM_CE (i : Nat) : RF := ⟨0x100040 + i * 0x10, 0, 32⟩
/-- R202 (06), RC. -/
def MEM_HBM_UE (i : Nat) : RF := ⟨0x100044 + i * 0x10, 0, 32⟩
/-- R202 (06), RO. -/
def MEM_HBM_TEMP (i : Nat) : RF := ⟨0x100048 + i * 0x10, 0, 8⟩
/-- R202 (06), RO. -/
def MEM_HBM_STATUS.HOT (i : Nat) : RF := ⟨0x100048 + i * 0x10, 8, 1⟩
/-- R202 (06), W1C. -/
def MEM_HBM_STATUS.UE (i : Nat) : RF := ⟨0x100048 + i * 0x10, 9, 1⟩
/-- R202 (06), RC. -/
def MEM_SRAM_CE : RF := ⟨0x100060, 0, 32⟩
/-- R202 (06), RC. -/
def MEM_SRAM_UE : RF := ⟨0x100064, 0, 32⟩
/-- R202 (06), RW. -/
def MEM_RWIN_CTRL.EN (i : Nat) : RF := ⟨0x100080 + i * 0x10, 0, 1⟩
/-- R202 (06), RW. -/
def MEM_RWIN_CTRL.TARGET (i : Nat) : RF := ⟨0x100080 + i * 0x10, 1, 1⟩
/-- R202 (06), RW. -/
def MEM_RWIN_CTRL.CLUSTER (i : Nat) : RF := ⟨0x100080 + i * 0x10, 2, 3⟩
/-- R202 (06), RW. -/
def MEM_RWIN_CTRL.PORTS (i : Nat) : RF := ⟨0x100080 + i * 0x10, 8, 8⟩
/-- R202 (06), RW. -/
def MEM_RWIN_BASE (i : Nat) : RF := ⟨0x100084 + i * 0x10, 0, 24⟩
/-- R202 (06), RW. -/
def MEM_RWIN_LIMIT (i : Nat) : RF := ⟨0x100088 + i * 0x10, 0, 24⟩
/-- R202 (06), RC. -/
def MEM_RWIN_REFUSED : RF := ⟨0x1000C0, 0, 32⟩
/-- R203 (06), WO. -/
def SLU_CTRL.COMMIT (i : Nat) : RF := ⟨0x101000 + i * 0x40, 0, 1⟩
/-- R203 (06), WO. -/
def SLU_CTRL.ABORT (i : Nat) : RF := ⟨0x101000 + i * 0x40, 1, 1⟩
/-- R203 (06), RW. -/
def SLU_CTRL.BURST_M1 (i : Nat) : RF := ⟨0x101000 + i * 0x40, 8, 6⟩
/-- R203 (06), RO. -/
def SLU_STATUS.PENDING (i : Nat) : RF := ⟨0x101004 + i * 0x40, 0, 1⟩
/-- R203 (06), RO. -/
def SLU_STATUS.COPY (i : Nat) : RF := ⟨0x101004 + i * 0x40, 1, 1⟩
/-- R203 (06), RO. -/
def SLU_STATUS.LOADER (i : Nat) : RF := ⟨0x101004 + i * 0x40, 2, 1⟩
/-- R203 (06), W1C. -/
def SLU_STATUS.INVALID (i : Nat) : RF := ⟨0x101004 + i * 0x40, 8, 1⟩
/-- R203 (06), W1C. -/
def SLU_STATUS.SHADOW_REFUSED (i : Nat) : RF := ⟨0x101004 + i * 0x40, 9, 1⟩
/-- R203 (06), W1C. -/
def SLU_STATUS.ACTIVE_WR (i : Nat) : RF := ⟨0x101004 + i * 0x40, 10, 1⟩
/-- R203 (06), W1C. -/
def SLU_STATUS.LOADER_REFUSED (i : Nat) : RF := ⟨0x101004 + i * 0x40, 11, 1⟩
/-- R203 (06), RO. -/
def SLU_STATUS.CAUSE (i : Nat) : RF := ⟨0x101004 + i * 0x40, 16, 3⟩
/-- R203 (06), RC. -/
def SLU_STALE (i : Nat) : RF := ⟨0x101008 + i * 0x40, 0, 32⟩
/-- R203 (06), RC. -/
def SLU_REVOKE (i : Nat) : RF := ⟨0x10100C + i * 0x40, 0, 32⟩
/-- R203 (06), RC. -/
def SLU_GRANTS (i : Nat) : RF := ⟨0x101010 + i * 0x40, 0, 32⟩
/-- R203 (06), RC. -/
def SLU_IDLE_OWNED (i : Nat) : RF := ⟨0x101014 + i * 0x40, 0, 32⟩
/-- R203 (06), RO. -/
def SLU_REF_DEBT (i : Nat) : RF := ⟨0x101018 + i * 0x40, 0, 8⟩
/-- R203 (06), RC. -/
def SLU_EMERG (i : Nat) : RF := ⟨0x10101C + i * 0x40, 0, 32⟩
/-- R204 (06), RW. -/
def SLU_ENTRY.KIND (i j : Nat) : RF := ⟨0x108000 + i * 0x800 + j * 0x4, 0, 2⟩
/-- R204 (06), RW. -/
def SLU_ENTRY.DIR (i j : Nat) : RF := ⟨0x108000 + i * 0x800 + j * 0x4, 2, 1⟩
/-- R204 (06), RW. -/
def SLU_ENTRY.STREAM (i j : Nat) : RF := ⟨0x108000 + i * 0x800 + j * 0x4, 8, 8⟩
/-- R204 (06), RO. -/
def SLU_ENTRY_ACTIVE.KIND (i j : Nat) : RF := ⟨0x108400 + i * 0x800 + j * 0x4, 0, 2⟩
/-- R204 (06), RO. -/
def SLU_ENTRY_ACTIVE.DIR (i j : Nat) : RF := ⟨0x108400 + i * 0x800 + j * 0x4, 2, 1⟩
/-- R204 (06), RO. -/
def SLU_ENTRY_ACTIVE.STREAM (i j : Nat) : RF := ⟨0x108400 + i * 0x800 + j * 0x4, 8, 8⟩
/-- R163 (05), RW. -/
def LSC_CFG.EN (i j : Nat) : RF := ⟨0x210000 + i * 0x20000 + j * 0x20, 0, 1⟩
/-- R163 (05), RW. -/
def LSC_CFG.PROD (i j : Nat) : RF := ⟨0x210000 + i * 0x20000 + j * 0x20, 1, 1⟩
/-- R163 (05), RW. -/
def LSC_CFG.PCTX (i j : Nat) : RF := ⟨0x210000 + i * 0x20000 + j * 0x20, 2, 7⟩
/-- R163 (05), RW. -/
def LSC_CFG.PDEST (i j : Nat) : RF := ⟨0x210000 + i * 0x20000 + j * 0x20, 9, 3⟩
/-- R163 (05), RW. -/
def LSC_CFG.PCORE (i j : Nat) : RF := ⟨0x210000 + i * 0x20000 + j * 0x20, 12, 3⟩
/-- R163 (05), RW. -/
def LSC_CFG.FREE_TOK (i j : Nat) : RF := ⟨0x210000 + i * 0x20000 + j * 0x20, 16, 4⟩
/-- R163 (05), RW. -/
def LSC_CFG.SLOTS (i j : Nat) : RF := ⟨0x210000 + i * 0x20000 + j * 0x20, 20, 8⟩
/-- R163 (05), RW. -/
def LSC_CONS.MASK (i j : Nat) : RF := ⟨0x210004 + i * 0x20000 + j * 0x20, 0, 8⟩
/-- R163 (05), RW. -/
def LSC_CONS.RDY_TOK (i j : Nat) : RF := ⟨0x210004 + i * 0x20000 + j * 0x20, 8, 4⟩
/-- R163 (05), RO. -/
def LSC_POSTED (i j : Nat) : RF := ⟨0x210008 + i * 0x20000 + j * 0x20, 0, 32⟩
/-- R163 (05), RO. -/
def LSC_FREED (i j : Nat) : RF := ⟨0x21000C + i * 0x20000 + j * 0x20, 0, 32⟩
/-- R163 (05), RO. -/
def LSC_HELD (i j : Nat) : RF := ⟨0x210010 + i * 0x20000 + j * 0x20, 0, 8⟩
/-- R163 (05), W1C. -/
def LSC_ERR.BAD_REL (i j : Nat) : RF := ⟨0x210014 + i * 0x20000 + j * 0x20, 0, 1⟩
/-- R163 (05), W1C. -/
def LSC_ERR.OVER_POST (i j : Nat) : RF := ⟨0x210014 + i * 0x20000 + j * 0x20, 1, 1⟩
/-- R163 (05), W1C. -/
def LSC_ERR.CFG_REFUSED (i j : Nat) : RF := ⟨0x210014 + i * 0x20000 + j * 0x20, 2, 1⟩
/-- R163 (05), W1C. -/
def LSC_ERR.OFF_ACCESS (i j : Nat) : RF := ⟨0x210014 + i * 0x20000 + j * 0x20, 3, 1⟩
/-- R170 (05), RW. -/
def RIFW_CTRL.EN (i j : Nat) : RF := ⟨0x211000 + i * 0x20000 + j * 0x20, 0, 1⟩
/-- R170 (05), RW. -/
def RIFW_CTRL.SPACE (i j : Nat) : RF := ⟨0x211000 + i * 0x20000 + j * 0x20, 1, 4⟩
/-- R170 (05), RW. -/
def RIFW_BASE_LO (i j : Nat) : RF := ⟨0x211008 + i * 0x20000 + j * 0x20, 6, 26⟩
/-- R170 (05), RW. -/
def RIFW_BASE_HI (i j : Nat) : RF := ⟨0x21100C + i * 0x20000 + j * 0x20, 0, 16⟩
/-- R170 (05), RW. -/
def RIFW_LIMIT_LO (i j : Nat) : RF := ⟨0x211010 + i * 0x20000 + j * 0x20, 6, 26⟩
/-- R170 (05), RW. -/
def RIFW_LIMIT_HI (i j : Nat) : RF := ⟨0x211014 + i * 0x20000 + j * 0x20, 0, 16⟩
/-- R141 (04), RO. -/
def CORE_ID.SITE (i : Nat) : RF := ⟨0x400000 + i * 0x2000, 0, 7⟩
/-- R141 (04), RO. -/
def CORE_ID.LCORE (i : Nat) : RF := ⟨0x400000 + i * 0x2000, 8, 6⟩
/-- R141 (04), RO. -/
def CORE_ID.LVALID (i : Nat) : RF := ⟨0x400000 + i * 0x2000, 14, 1⟩
/-- R141 (04), RO. -/
def CORE_ID.SPARE (i : Nat) : RF := ⟨0x400000 + i * 0x2000, 15, 1⟩
/-- R141 (04), RO. -/
def CORE_ID.FENCED (i : Nat) : RF := ⟨0x400000 + i * 0x2000, 16, 1⟩
/-- R141 (04), RO. -/
def CORE_ID.CLUSTER (i : Nat) : RF := ⟨0x400000 + i * 0x2000, 17, 3⟩
/-- R141 (04), RO. -/
def CORE_ID.DIE (i : Nat) : RF := ⟨0x400000 + i * 0x2000, 20, 1⟩
/-- R142 (04), RO. -/
def CORE_STATUS.STATE (i : Nat) : RF := ⟨0x400004 + i * 0x2000, 0, 3⟩
/-- R142 (04), W1C. -/
def CORE_STATUS.TIMED_MISS (i : Nat) : RF := ⟨0x400004 + i * 0x2000, 3, 1⟩
/-- R142 (04), W1C. -/
def CORE_STATUS.YIELD_LATE (i : Nat) : RF := ⟨0x400004 + i * 0x2000, 4, 1⟩
/-- R142 (04), RO. -/
def CORE_STATUS.DEPTH (i : Nat) : RF := ⟨0x400004 + i * 0x2000, 8, 3⟩
/-- R143 (04), W1C. -/
def CORE_FLAGS.SAT (i : Nat) : RF := ⟨0x400008 + i * 0x2000, 0, 1⟩
/-- R143 (04), W1C. -/
def CORE_FLAGS.NAN_CONV (i : Nat) : RF := ⟨0x400008 + i * 0x2000, 1, 1⟩
/-- R143 (04), W1C. -/
def CORE_FLAGS.ACC_SAT (i : Nat) : RF := ⟨0x400008 + i * 0x2000, 2, 1⟩
/-- R143 (04), W1C. -/
def CORE_FLAGS.INT_SAT (i : Nat) : RF := ⟨0x400008 + i * 0x2000, 3, 1⟩
/-- R143 (04), W1C. -/
def CORE_FLAGS.NAN_OUT (i : Nat) : RF := ⟨0x400008 + i * 0x2000, 4, 1⟩
/-- R144 (04), RO. -/
def CORE_ERR.CAUSE (i : Nat) : RF := ⟨0x40000C + i * 0x2000, 0, 8⟩
/-- R144 (04), RO. -/
def CORE_ERR.OP (i : Nat) : RF := ⟨0x40000C + i * 0x2000, 8, 8⟩
/-- R145 (04), RO. -/
def CORE_PC_LO (i : Nat) : RF := ⟨0x400010 + i * 0x2000, 0, 32⟩
/-- R145 (04), RO. -/
def CORE_PC_HI.HI (i : Nat) : RF := ⟨0x400014 + i * 0x2000, 0, 16⟩
/-- R145 (04), RO. -/
def CORE_PC_HI.SPACE (i : Nat) : RF := ⟨0x400014 + i * 0x2000, 16, 4⟩
/-- R145 (04), RO. -/
def CORE_LIST_ID (i : Nat) : RF := ⟨0x400018 + i * 0x2000, 0, 32⟩
/-- R145 (04), RW. -/
def CORE_TOKEN_EVEN (i j : Nat) : RF := ⟨0x400020 + i * 0x2000 + j * 0x4, 0, 16⟩
/-- R145 (04), RW. -/
def CORE_TOKEN_ODD (i j : Nat) : RF := ⟨0x400020 + i * 0x2000 + j * 0x4, 16, 16⟩
/-- R145 (04), RC. -/
def CORE_YIELD_MAX (i : Nat) : RF := ⟨0x400040 + i * 0x2000, 0, 32⟩
/-- R145 (04), WO. -/
def CORE_CMD.CLEAR_ERR (i : Nat) : RF := ⟨0x400044 + i * 0x2000, 0, 1⟩
/-- R145 (04), RC. -/
def CORE_TIMED_MISS (i : Nat) : RF := ⟨0x400048 + i * 0x2000, 0, 32⟩
/-- R416 (14), WO. -/
def GAUGE_CTRL.SNAP : RF := ⟨0x600000, 0, 1⟩
/-- R416 (14), WO. -/
def GAUGE_CTRL.CLEAR_ALL : RF := ⟨0x600000, 1, 1⟩
/-- R416 (14), RO. -/
def GAUGE_STATUS.SNAP_VALID : RF := ⟨0x600004, 0, 1⟩
/-- R416 (14), RO. -/
def GAUGE_SNAP_TICK_LO : RF := ⟨0x600008, 0, 32⟩
/-- R416 (14), RO. -/
def GAUGE_SNAP_TICK_HI : RF := ⟨0x60000C, 0, 32⟩
/-- R416 (14), RW. -/
def TRC_CTRL.EN : RF := ⟨0x600100, 0, 1⟩
/-- R416 (14), RW. -/
def TRC_CTRL.WRAP : RF := ⟨0x600100, 1, 1⟩
/-- R416 (14), RW. -/
def TRC_KINDS : RF := ⟨0x600104, 0, 16⟩
/-- R416 (14), RW. -/
def TRC_CORES_LO : RF := ⟨0x600108, 0, 32⟩
/-- R416 (14), RW. -/
def TRC_CORES_HI : RF := ⟨0x60010C, 0, 32⟩
/-- R416 (14), RW. -/
def TRC_RATE : RF := ⟨0x600110, 0, 2⟩
/-- R416 (14), RW. -/
def TRC_GROUP : RF := ⟨0x600114, 0, 4⟩
/-- R416 (14), RW. -/
def TRC_BASE : RF := ⟨0x600118, 11, 21⟩
/-- R416 (14), RW. -/
def TRC_SIZE_L : RF := ⟨0x60011C, 0, 4⟩
/-- R416 (14), RO. -/
def TRC_WR : RF := ⟨0x600120, 0, 32⟩
/-- R416 (14), RW. -/
def TRC_RD : RF := ⟨0x600124, 0, 32⟩
/-- R416 (14), RC. -/
def TRC_DROPPED : RF := ⟨0x600128, 0, 32⟩
/-- R416 (14), WO. -/
def TRC_MARK : RF := ⟨0x60012C, 0, 32⟩
/-- R416 (14), RW. -/
def TRC_IFL.PERIOD : RF := ⟨0x600130, 0, 16⟩
/-- R416 (14), RW. -/
def TRC_IFL.PORTS : RF := ⟨0x600130, 16, 8⟩
/-- R416 (14), RW. -/
def TRC_SAMPLE.US : RF := ⟨0x600134, 0, 16⟩
/-- R416 (14), RW. -/
def TRC_SAMPLE.FIRST : RF := ⟨0x600134, 16, 8⟩
/-- R416 (14), RW. -/
def TRC_SAMPLE.NUM_M1 : RF := ⟨0x600134, 24, 5⟩
/-- R416 (14), W1C. -/
def GAUGE_INT_STATUS : RF := ⟨0x600138, 0, 3⟩
/-- R416 (14), RW. -/
def GAUGE_INT_EN : RF := ⟨0x60013C, 0, 3⟩
/-- R417 (14), RW. -/
def GCNT_CFG.EVENT (i : Nat) : RF := ⟨0x601000 + i * 0x10, 0, 8⟩
/-- R417 (14), RW. -/
def GCNT_CFG.UNIT (i : Nat) : RF := ⟨0x601000 + i * 0x10, 8, 5⟩
/-- R417 (14), RW. -/
def GCNT_CFG.OPEN (i : Nat) : RF := ⟨0x601000 + i * 0x10, 16, 8⟩
/-- R417 (14), W1C. -/
def GCNT_CFG.OVF (i : Nat) : RF := ⟨0x601000 + i * 0x10, 31, 1⟩
/-- R417 (14), RO. -/
def GCNT_VALUE_LO (i : Nat) : RF := ⟨0x601004 + i * 0x10, 0, 32⟩
/-- R417 (14), RO. -/
def GCNT_VALUE_HI (i : Nat) : RF := ⟨0x601008 + i * 0x10, 0, 16⟩
/-- R417 (14), RO. -/
def GSNAP_LO (i : Nat) : RF := ⟨0x602000 + i * 0x8, 0, 32⟩
/-- R417 (14), RO. -/
def GSNAP_HI (i : Nat) : RF := ⟨0x602004 + i * 0x8, 0, 16⟩
/-- R417 (14), RW. -/
def CLCNT_CFG.EVENT (i j : Nat) : RF := ⟨0x604000 + i * 0x200 + j * 0x10, 0, 8⟩
/-- R417 (14), W1C. -/
def CLCNT_CFG.OVF (i j : Nat) : RF := ⟨0x604000 + i * 0x200 + j * 0x10, 31, 1⟩
/-- R417 (14), RO. -/
def CLCNT_VALUE_LO (i j : Nat) : RF := ⟨0x604004 + i * 0x200 + j * 0x10, 0, 32⟩
/-- R417 (14), RO. -/
def CLCNT_VALUE_HI (i j : Nat) : RF := ⟨0x604008 + i * 0x200 + j * 0x10, 0, 16⟩
/-- R417 (14), RW. -/
def CNT_CFG.EVENT (i j : Nat) : RF := ⟨0x608000 + i * 0x100 + j * 0x10, 0, 8⟩
/-- R417 (14), RW. -/
def CNT_CFG.SCOPE (i j : Nat) : RF := ⟨0x608000 + i * 0x100 + j * 0x10, 8, 2⟩
/-- R417 (14), RW. -/
def CNT_CFG.OP (i j : Nat) : RF := ⟨0x608000 + i * 0x100 + j * 0x10, 16, 8⟩
/-- R417 (14), W1C. -/
def CNT_CFG.OVF (i j : Nat) : RF := ⟨0x608000 + i * 0x100 + j * 0x10, 31, 1⟩
/-- R417 (14), RO. -/
def CNT_VALUE_LO (i j : Nat) : RF := ⟨0x608004 + i * 0x100 + j * 0x10, 0, 32⟩
/-- R417 (14), RO. -/
def CNT_VALUE_HI (i j : Nat) : RF := ⟨0x608008 + i * 0x100 + j * 0x10, 0, 16⟩
/-- R487 (17), RO. -/
def MGMT_STATUS.BOOT_SRC : RF := ⟨0x700000, 0, 2⟩
/-- R487 (17), RO. -/
def MGMT_STATUS.TRIAL : RF := ⟨0x700000, 2, 1⟩
/-- R487 (17), RO. -/
def MGMT_STATUS.IDENT_OK : RF := ⟨0x700000, 3, 1⟩
/-- R487 (17), RO. -/
def MGMT_STATUS.FLOOR_LOST : RF := ⟨0x700000, 4, 1⟩
/-- R487 (17), RO. -/
def MGMT_STATUS.REVERTED : RF := ⟨0x700000, 5, 1⟩
/-- R487 (17), RO. -/
def MGMT_STATUS.NO_CTRL_BLOCK : RF := ⟨0x700000, 6, 1⟩
/-- R487 (17), RO. -/
def MGMT_STATUS.SET_DEFAULTED : RF := ⟨0x700000, 8, 3⟩
/-- R487 (17), RO. -/
def MGMT_SLOT.STATE_A : RF := ⟨0x700004, 0, 3⟩
/-- R487 (17), RO. -/
def MGMT_SLOT.STATE_B : RF := ⟨0x700004, 4, 3⟩
/-- R487 (17), RO. -/
def MGMT_SLOT.ACTIVE : RF := ⟨0x700004, 8, 1⟩
/-- R487 (17), RO. -/
def MGMT_SLOT.TRIAL_BOOTS : RF := ⟨0x700004, 9, 3⟩
/-- R487 (17), RO. -/
def MGMT_PIECES.TOTAL : RF := ⟨0x700008, 0, 10⟩
/-- R487 (17), RO. -/
def MGMT_PIECES.HELD : RF := ⟨0x700008, 16, 10⟩
/-- R487 (17), RO. -/
def MGMT_FLOOR : RF := ⟨0x70000C, 0, 32⟩
/-- R487 (17), RO. -/
def MGMT_BOOT_FAIL.A : RF := ⟨0x700010, 0, 4⟩
/-- R487 (17), RO. -/
def MGMT_BOOT_FAIL.B : RF := ⟨0x700010, 4, 4⟩
/-- R487 (17), RO. -/
def MGMT_BOOT_FAIL.REC : RF := ⟨0x700010, 8, 4⟩
/-- R487 (17), RO. -/
def MGMT_VERSION (i : Nat) : RF := ⟨0x700020 + i * 0x4, 0, 32⟩
/-- R487 (17), RO. -/
def MGMT_MANIFEST_DIGEST (i : Nat) : RF := ⟨0x700040 + i * 0x4, 0, 32⟩
/-- R487 (17), RO. -/
def MGMT_DEVICE_ID (i : Nat) : RF := ⟨0x700060 + i * 0x4, 0, 32⟩
/-- R487 (17), RO. -/
def MGMT_ROM_KEY_HASH (i : Nat) : RF := ⟨0x700080 + i * 0x4, 0, 32⟩
/-- R487 (17), W1C. -/
def MGMT_INT_STATUS : RF := ⟨0x7000A0, 0, 4⟩
/-- R487 (17), RW. -/
def MGMT_INT_EN : RF := ⟨0x7000A4, 0, 4⟩
/-- R399 (13), RW. -/
def HDW_CTRL.EN : RF := ⟨0x780000, 0, 1⟩
/-- R399 (13), RW. -/
def HDW_CTRL.UTF8_CHECK : RF := ⟨0x780000, 1, 1⟩
/-- R399 (13), RW. -/
def HDW_CTRL.PRE_EN : RF := ⟨0x780000, 2, 1⟩
/-- R399 (13), RW. -/
def HDW_CTRL.APP_EN : RF := ⟨0x780000, 3, 1⟩
/-- R399 (13), RW. -/
def HDW_TOK.PRE : RF := ⟨0x780004, 0, 16⟩
/-- R399 (13), RW. -/
def HDW_TOK.APP : RF := ⟨0x780004, 16, 16⟩
/-- R399 (13), RW. -/
def HDW_MAX_BYTES : RF := ⟨0x780008, 0, 25⟩
/-- R399 (13), WO. -/
def HDW_CMD.DICT_COMMIT : RF := ⟨0x78000C, 0, 1⟩
/-- R399 (13), RW. -/
def HDW_CMD.BANK : RF := ⟨0x78000C, 1, 1⟩
/-- R399 (13), RO. -/
def HDW_DICT_STATUS.ACTIVE : RF := ⟨0x780010, 0, 1⟩
/-- R399 (13), RO. -/
def HDW_DICT_STATUS.BUILDING : RF := ⟨0x780010, 1, 1⟩
/-- R399 (13), W1C. -/
def HDW_DICT_STATUS.INVALID : RF := ⟨0x780010, 2, 1⟩
/-- R399 (13), RO. -/
def HDW_DICT_STATUS.OLD_HELD : RF := ⟨0x780010, 3, 1⟩
/-- R399 (13), RO. -/
def HDW_DICT_STATUS.CAUSE : RF := ⟨0x780010, 4, 3⟩
/-- R399 (13), RO. -/
def HDW_DICT_STATUS.BAD_ENTRY : RF := ⟨0x780010, 16, 16⟩
/-- R399 (13), RO. -/
def HDW_DICT_GEN : RF := ⟨0x780014, 0, 32⟩
/-- R399 (13), RW. -/
def HDW_POOL_LEN (i : Nat) : RF := ⟨0x780018 + i * 0x4, 0, 22⟩
/-- R399 (13), RO. -/
def HDW_STATUS.STOPPED : RF := ⟨0x780020, 0, 1⟩
/-- R399 (13), RO. -/
def HDW_STATUS.WINDOW : RF := ⟨0x780020, 8, 7⟩
/-- R399 (13), RO. -/
def HDW_STATUS.LANES_BUSY : RF := ⟨0x780020, 16, 4⟩
/-- R399 (13), RO. -/
def HDW_STOP.QUEUE : RF := ⟨0x780024, 0, 6⟩
/-- R399 (13), RO. -/
def HDW_STOP.CAUSE : RF := ⟨0x780024, 8, 2⟩
/-- R399 (13), RW. -/
def HDW_STOP.ACTION : RF := ⟨0x780024, 16, 1⟩
/-- R399 (13), RO. -/
def HDW_STOP_INDEX : RF := ⟨0x780028, 0, 32⟩
/-- R399 (13), RO. -/
def HDW_STOP_OFFSET : RF := ⟨0x78002C, 0, 32⟩
/-- R399 (13), RO. -/
def HDW_STOP_TAG : RF := ⟨0x780030, 0, 32⟩
/-- R399 (13), RO. -/
def HDW_DICT_DIGEST (i : Nat) : RF := ⟨0x780040 + i * 0x4, 0, 32⟩
/-- R399 (13), RW. -/
def HDW_BATCH_CFG.EN : RF := ⟨0x780060, 0, 1⟩
/-- R399 (13), RW. -/
def HDW_BATCH_CFG.N_M1 : RF := ⟨0x780060, 1, 6⟩
/-- R399 (13), RW. -/
def HDW_BATCH_CFG.CORE : RF := ⟨0x780060, 8, 6⟩
/-- R399 (13), RW. -/
def HDW_BATCH_CFG.TOKEN : RF := ⟨0x780060, 16, 4⟩
/-- R399 (13), RW. -/
def HDW_BATCH_CFG.TIMEOUT_US : RF := ⟨0x780060, 20, 12⟩
/-- R399 (13), RW. -/
def HDW_BATCH_QMASK_LO : RF := ⟨0x780064, 0, 32⟩
/-- R399 (13), RW. -/
def HDW_BATCH_QMASK_HI : RF := ⟨0x780068, 0, 32⟩
/-- R399 (13), RW. -/
def HDW_BATCH_BASE : RF := ⟨0x78006C, 11, 21⟩
/-- R399 (13), RW. -/
def HDW_BATCH_GROUP : RF := ⟨0x780070, 0, 4⟩
/-- R399 (13), RW. -/
def HDW_BATCH_SLOTS : RF := ⟨0x780074, 0, 9⟩
/-- R399 (13), RO. -/
def HDW_BATCH_COUNT : RF := ⟨0x780078, 0, 32⟩
/-- R399 (13), RO. -/
def HDW_BATCH_FREED : RF := ⟨0x78007C, 0, 32⟩
/-- R399 (13), RC. -/
def HDW_SAMPLES : RF := ⟨0x780080, 0, 32⟩
/-- R399 (13), RC. -/
def HDW_STOPS : RF := ⟨0x780084, 0, 32⟩
/-- R399 (13), W1C. -/
def HDW_INT_STATUS : RF := ⟨0x780088, 0, 4⟩
/-- R399 (13), RW. -/
def HDW_INT_EN : RF := ⟨0x78008C, 0, 4⟩
/-- R323 (11), RW. -/
def DB_SQ (i : Nat) : RF := ⟨0x1000000 + i * 0x40, 0, 32⟩
/-- R323 (11), RW. -/
def DB_CQ (i : Nat) : RF := ⟨0x1001000 + i * 0x40, 0, 32⟩
/-- R323 (11), RW. -/
def DB_RR (i : Nat) : RF := ⟨0x1002000 + i * 0x40, 0, 32⟩
/-- R321 (11), RW. PRESUMED (log entry 5). -/
def MSIX_ADDR_LO (i : Nat) : RF := ⟨0x1008000 + i * 0x10, 0, 32⟩
/-- R321 (11), RW. PRESUMED (log entry 5). -/
def MSIX_ADDR_HI (i : Nat) : RF := ⟨0x1008004 + i * 0x10, 0, 32⟩
/-- R321 (11), RW. PRESUMED (log entry 5). -/
def MSIX_DATA (i : Nat) : RF := ⟨0x1008008 + i * 0x10, 0, 32⟩
/-- R321 (11), RW. PRESUMED (log entry 5). -/
def MSIX_MASK (i : Nat) : RF := ⟨0x100800C + i * 0x10, 0, 1⟩

end Reg

namespace RegTab

def dev0 : List RegRow :=
  [ ⟨0x0, [], 0, 16, .ro, 0x1d7a, false⟩,
    ⟨0x0, [], 16, 16, .ro, 0x0, false⟩,
    ⟨0x4, [], 0, 4, .ro, 0x0, false⟩,
    ⟨0x4, [], 4, 4, .ro, 0x0, false⟩,
    ⟨0x4, [], 8, 4, .ro, 0x0, false⟩,
    ⟨0x8, [], 0, 1, .ro, 0x0, false⟩,
    ⟨0x8, [], 1, 1, .ro, 0x0, false⟩,
    ⟨0x10, [], 0, 16, .ro, 0x1, false⟩,
    ⟨0x10, [], 16, 16, .ro, 0x1, false⟩,
    ⟨0x14, [], 0, 16, .rw, 0x0, true⟩,
    ⟨0x14, [], 16, 16, .rw, 0x0, true⟩,
    ⟨0x18, [], 0, 16, .ro, 0x0, false⟩,
    ⟨0x18, [], 16, 1, .ro, 0x0, false⟩,
    ⟨0x30, [], 12, 20, .rw, 0x0, false⟩,
    ⟨0x34, [], 0, 32, .rw, 0x0, false⟩,
    ⟨0x38, [], 0, 1, .rw, 0x0, false⟩,
    ⟨0x38, [], 16, 16, .rw, 0x64, false⟩,
    ⟨0x3C, [], 0, 32, .ro, 0x0, false⟩,
    ⟨0x40, [], 0, 32, .rw, 0x0, false⟩,
    ⟨0x400, [(64, 0x4)], 0, 32, .rw, 0x0, false⟩,
    ⟨0x500, [(64, 0x4)], 0, 32, .ro, 0x0, false⟩,
    ⟨0x800, [(4, 0x4)], 0, 32, .ro, 0x0, false⟩,
    ⟨0x810, [], 0, 1, .rw, 0x1, false⟩,
    ⟨0x810, [], 1, 1, .rw, 0x1, false⟩,
    ⟨0x814, [], 0, 7, .rw, 0x0, false⟩,
    ⟨0x814, [], 8, 1, .wo, 0x0, false⟩,
    ⟨0x818, [], 0, 7, .ro, 0x0, false⟩,
    ⟨0x818, [], 8, 4, .ro, 0x0, false⟩,
    ⟨0x81C, [], 0, 32, .rc, 0x0, false⟩,
    ⟨0x820, [], 0, 8, .ro, 0x0, false⟩ ]
def dev1 : List RegRow :=
  [ ⟨0x820, [], 8, 8, .ro, 0x0, false⟩,
    ⟨0x820, [], 16, 8, .ro, 0x0, false⟩,
    ⟨0x824, [], 0, 5, .w1c, 0x0, false⟩,
    ⟨0x828, [], 0, 5, .rw, 0x0, false⟩,
    ⟨0x82C, [], 0, 32, .ro, 0x0, false⟩,
    ⟨0x830, [], 0, 32, .ro, 0x0, false⟩,
    ⟨0x834, [], 0, 32, .ro, 0x0, false⟩,
    ⟨0x838, [], 0, 32, .rc, 0x0, false⟩,
    ⟨0x900, [(16, 0x20)], 0, 1, .rw, 0x0, false⟩,
    ⟨0x900, [(16, 0x20)], 1, 1, .rw, 0x0, false⟩,
    ⟨0x900, [(16, 0x20)], 16, 16, .rw, 0x3ff, false⟩,
    ⟨0x904, [(16, 0x20)], 0, 16, .rw, 0x3e8, false⟩,
    ⟨0x908, [(16, 0x20)], 12, 20, .rw, 0x0, false⟩,
    ⟨0x90C, [(16, 0x20)], 0, 32, .rw, 0x0, false⟩,
    ⟨0x910, [(16, 0x20)], 0, 9, .rw, 0x10, false⟩,
    ⟨0x914, [(16, 0x20)], 0, 16, .rw, 0x0, false⟩,
    ⟨0x918, [(16, 0x20)], 0, 32, .ro, 0x0, false⟩,
    ⟨0x91C, [(16, 0x20)], 0, 1, .ro, 0x0, false⟩,
    ⟨0xB00, [], 0, 1, .wo, 0x0, false⟩,
    ⟨0xB00, [], 1, 1, .wo, 0x0, false⟩,
    ⟨0xB04, [], 0, 2, .ro, 0x0, false⟩,
    ⟨0xB04, [], 4, 2, .ro, 0x0, false⟩,
    ⟨0xB04, [], 8, 1, .w1c, 0x0, false⟩,
    ⟨0xB08, [], 0, 32, .ro, 0x0, false⟩,
    ⟨0xB0C, [], 0, 32, .ro, 0x0, false⟩,
    ⟨0xB10, [], 0, 32, .rc, 0x0, false⟩,
    ⟨0xC00, [(8, 0x20)], 0, 8, .ro, 0x0, false⟩,
    ⟨0xC00, [(8, 0x20)], 8, 8, .ro, 0x0, false⟩,
    ⟨0xC00, [(8, 0x20)], 16, 8, .ro, 0x0, false⟩,
    ⟨0xC00, [(8, 0x20)], 24, 1, .ro, 0x0, false⟩ ]
def dev2 : List RegRow :=
  [ ⟨0xC04, [(8, 0x20)], 0, 17, .ro, 0x0, false⟩,
    ⟨0xC08, [(8, 0x20)], 0, 16, .rw, 0x0, false⟩,
    ⟨0xC08, [(8, 0x20)], 16, 7, .rw, 0x0, false⟩,
    ⟨0xC0C, [(8, 0x20)], 11, 21, .rw, 0x0, false⟩,
    ⟨0xC10, [(8, 0x20)], 0, 16, .rw, 0x3e8, false⟩,
    ⟨0xC14, [(8, 0x20)], 0, 32, .rc, 0x0, false⟩,
    ⟨0xC18, [(8, 0x20)], 0, 32, .rc, 0x0, false⟩,
    ⟨0xC1C, [(8, 0x20)], 0, 12, .ro, 0x0, false⟩,
    ⟨0xD80, [], 0, 7, .rw, 0x0, false⟩,
    ⟨0xD84, [], 0, 32, .ro, 0x0, false⟩,
    ⟨0xD88, [], 0, 3, .ro, 0x0, false⟩,
    ⟨0xD88, [], 8, 4, .ro, 0x0, false⟩,
    ⟨0xD88, [], 16, 8, .ro, 0x0, false⟩,
    ⟨0xD8C, [], 0, 6, .ro, 0x0, false⟩,
    ⟨0xE00, [(8, 0x40)], 0, 1, .rw, 0x0, true⟩,
    ⟨0xE00, [(8, 0x40)], 1, 4, .rw, 0x0, false⟩,
    ⟨0xE00, [(8, 0x40)], 8, 6, .rw, 0x0, false⟩,
    ⟨0xE00, [(8, 0x40)], 14, 1, .rw, 0x0, false⟩,
    ⟨0xE00, [(8, 0x40)], 16, 7, .rw, 0x40, false⟩,
    ⟨0xE04, [(8, 0x40)], 6, 26, .rw, 0x0, false⟩,
    ⟨0xE08, [(8, 0x40)], 0, 32, .rw, 0x0, false⟩,
    ⟨0xE0C, [(8, 0x40)], 0, 4, .rw, 0x0, false⟩,
    ⟨0xE10, [(8, 0x40)], 0, 4, .rw, 0x0, false⟩,
    ⟨0xE14, [(8, 0x40)], 11, 21, .rw, 0x0, false⟩,
    ⟨0xE18, [(8, 0x40)], 0, 16, .rw, 0x0, false⟩,
    ⟨0xE18, [(8, 0x40)], 16, 8, .rw, 0x10, false⟩,
    ⟨0xE1C, [(8, 0x40)], 11, 21, .rw, 0x0, false⟩,
    ⟨0xE20, [(8, 0x40)], 0, 4, .rw, 0x0, false⟩,
    ⟨0xE24, [(8, 0x40)], 17, 15, .rw, 0x0, false⟩,
    ⟨0xE28, [(8, 0x40)], 0, 16, .rw, 0x200, false⟩ ]
def dev3 : List RegRow :=
  [ ⟨0xE28, [(8, 0x40)], 16, 16, .rw, 0x100, false⟩,
    ⟨0xE2C, [(8, 0x40)], 0, 16, .rw, 0x64, false⟩,
    ⟨0xE30, [(8, 0x40)], 0, 32, .ro, 0x0, false⟩,
    ⟨0xE34, [(8, 0x40)], 0, 16, .ro, 0x0, false⟩,
    ⟨0xE34, [(8, 0x40)], 16, 7, .ro, 0x0, false⟩,
    ⟨0xE38, [(8, 0x40)], 0, 16, .ro, 0x0, false⟩ ]
def dev : List RegRow := dev0 ++ dev1 ++ dev2 ++ dev3
def hif0 : List RegRow :=
  [ ⟨0x10000, [], 0, 1, .w1c, 0x0, false⟩,
    ⟨0x10004, [], 0, 32, .ro, 0x0, false⟩,
    ⟨0x10008, [], 0, 32, .ro, 0x0, false⟩,
    ⟨0x10040, [(2, 0x4)], 0, 6, .rw, 0x0, false⟩,
    ⟨0x10040, [(2, 0x4)], 8, 1, .rw, 0x0, false⟩,
    ⟨0x10108, [(31, 0x8)], 0, 24, .rw, 0x0, false⟩,
    ⟨0x1010C, [(31, 0x8)], 0, 24, .rw, 0x0, false⟩,
    ⟨0x11000, [(64, 0x20)], 6, 26, .rw, 0x0, false⟩,
    ⟨0x11004, [(64, 0x20)], 0, 32, .rw, 0x0, false⟩,
    ⟨0x11008, [(64, 0x20)], 0, 1, .rw, 0x0, true⟩,
    ⟨0x11008, [(64, 0x20)], 1, 2, .rw, 0x0, false⟩,
    ⟨0x11008, [(64, 0x20)], 4, 4, .rw, 0x0, false⟩,
    ⟨0x11008, [(64, 0x20)], 8, 6, .rw, 0x0, false⟩,
    ⟨0x11008, [(64, 0x20)], 16, 8, .rw, 0x0, false⟩,
    ⟨0x1100C, [(64, 0x20)], 0, 1, .wo, 0x0, false⟩,
    ⟨0x1100C, [(64, 0x20)], 1, 1, .wo, 0x0, false⟩,
    ⟨0x11010, [(64, 0x20)], 0, 2, .ro, 0x0, false⟩,
    ⟨0x11010, [(64, 0x20)], 8, 8, .ro, 0x0, false⟩,
    ⟨0x11014, [(64, 0x20)], 0, 32, .ro, 0x0, false⟩,
    ⟨0x11018, [(64, 0x20)], 0, 32, .ro, 0x0, false⟩,
    ⟨0x12000, [(64, 0x20)], 6, 26, .rw, 0x0, false⟩,
    ⟨0x12004, [(64, 0x20)], 0, 32, .rw, 0x0, false⟩,
    ⟨0x12008, [(64, 0x20)], 0, 1, .rw, 0x0, true⟩,
    ⟨0x12008, [(64, 0x20)], 4, 4, .rw, 0x0, false⟩,
    ⟨0x12008, [(64, 0x20)], 8, 6, .rw, 0x0, false⟩,
    ⟨0x12008, [(64, 0x20)], 14, 1, .rw, 0x0, false⟩,
    ⟨0x1200C, [(64, 0x20)], 0, 32, .ro, 0x0, false⟩,
    ⟨0x12010, [(64, 0x20)], 0, 32, .ro, 0x0, false⟩,
    ⟨0x12014, [(64, 0x20)], 0, 1, .ro, 0x0, false⟩,
    ⟨0x13000, [(16, 0x20)], 7, 25, .rw, 0x0, false⟩ ]
def hif1 : List RegRow :=
  [ ⟨0x13004, [(16, 0x20)], 0, 32, .rw, 0x0, false⟩,
    ⟨0x13008, [(16, 0x20)], 0, 1, .rw, 0x0, true⟩,
    ⟨0x13008, [(16, 0x20)], 4, 4, .rw, 0x0, false⟩,
    ⟨0x13008, [(16, 0x20)], 8, 6, .rw, 0x0, false⟩,
    ⟨0x13008, [(16, 0x20)], 14, 1, .rw, 0x0, false⟩,
    ⟨0x1300C, [(16, 0x20)], 0, 32, .ro, 0x0, false⟩,
    ⟨0x13010, [(16, 0x20)], 0, 32, .ro, 0x0, false⟩,
    ⟨0x13014, [(16, 0x20)], 0, 11, .ro, 0x0, false⟩,
    ⟨0x13018, [(16, 0x20)], 0, 32, .rc, 0x0, false⟩,
    ⟨0x14000, [(16, 0x4)], 0, 6, .rw, 0x0, false⟩,
    ⟨0x14000, [(16, 0x4)], 8, 1, .rw, 0x0, false⟩,
    ⟨0x14040, [], 0, 13, .ro, 0x0, false⟩,
    ⟨0x15000, [(64, 0x8)], 0, 8, .rw, 0x1, false⟩,
    ⟨0x15000, [(64, 0x8)], 16, 10, .rw, 0x0, false⟩ ]
def hif : List RegRow := hif0 ++ hif1
def pm0 : List RegRow :=
  [ ⟨0x20000, [], 0, 1, .rw, 0x1, false⟩,
    ⟨0x20000, [], 1, 2, .rw, 0x2, false⟩,
    ⟨0x20000, [], 3, 1, .rw, 0x1, false⟩,
    ⟨0x20000, [], 4, 1, .rw, 0x0, false⟩,
    ⟨0x20000, [], 5, 1, .rw, 0x0, false⟩,
    ⟨0x20004, [], 0, 1, .wo, 0x0, false⟩,
    ⟨0x20008, [], 0, 2, .ro, 0x0, false⟩,
    ⟨0x20008, [], 2, 1, .ro, 0x0, false⟩,
    ⟨0x20008, [], 3, 1, .w1c, 0x0, false⟩,
    ⟨0x20008, [], 4, 1, .w1c, 0x0, false⟩,
    ⟨0x20008, [], 5, 1, .w1c, 0x0, false⟩,
    ⟨0x20008, [], 6, 1, .w1c, 0x0, false⟩,
    ⟨0x20008, [], 7, 1, .ro, 0x0, false⟩,
    ⟨0x20008, [], 8, 1, .ro, 0x0, false⟩,
    ⟨0x2000C, [], 0, 32, .ro, 0x0, false⟩,
    ⟨0x20010, [], 0, 32, .ro, 0x0, false⟩,
    ⟨0x20014, [], 0, 32, .ro, 0x0, false⟩,
    ⟨0x20018, [], 0, 16, .ro, 0x0, false⟩,
    ⟨0x20020, [], 0, 16, .rw, 0xa, false⟩,
    ⟨0x20024, [], 0, 32, .rw, 0x3e8, false⟩,
    ⟨0x20028, [], 0, 16, .rw, 0x3e8, false⟩,
    ⟨0x20030, [], 0, 16, .rw, 0x0, false⟩,
    ⟨0x20034, [], 0, 32, .ro, 0x0, false⟩,
    ⟨0x20038, [], 0, 9, .ro, 0x100, false⟩,
    ⟨0x20038, [], 16, 9, .ro, 0x100, false⟩,
    ⟨0x2003C, [], 0, 9, .ro, 0x100, false⟩,
    ⟨0x20040, [], 0, 8, .rw, 0x64, false⟩,
    ⟨0x20044, [], 0, 8, .ro, 0x0, false⟩,
    ⟨0x20044, [], 8, 8, .ro, 0x0, false⟩,
    ⟨0x20044, [], 16, 8, .ro, 0x0, false⟩ ]
def pm1 : List RegRow :=
  [ ⟨0x20044, [], 24, 8, .ro, 0x0, false⟩,
    ⟨0x20048, [], 0, 8, .rc, 0x0, false⟩,
    ⟨0x20050, [], 0, 8, .rw, 0x14, false⟩,
    ⟨0x20054, [], 0, 12, .ro, 0x0, false⟩,
    ⟨0x20054, [], 16, 12, .ro, 0x0, false⟩,
    ⟨0x20058, [], 0, 12, .ro, 0x0, false⟩,
    ⟨0x20058, [], 16, 12, .ro, 0x0, false⟩,
    ⟨0x20060, [], 0, 32, .rc, 0x0, false⟩,
    ⟨0x20064, [], 0, 32, .rc, 0x0, false⟩,
    ⟨0x20068, [], 0, 32, .rc, 0x0, false⟩,
    ⟨0x20080, [], 0, 16, .rw, 0x64, false⟩,
    ⟨0x20084, [], 0, 4, .ro, 0x0, false⟩,
    ⟨0x20090, [(5, 0x4)], 0, 32, .rc, 0x0, false⟩,
    ⟨0x200A4, [], 0, 16, .rw, 0x0, false⟩,
    ⟨0x200B0, [], 0, 32, .ro, 0x0, false⟩,
    ⟨0x200B4, [], 0, 16, .ro, 0x0, false⟩,
    ⟨0x200B8, [], 0, 8, .rw, 0x0, false⟩,
    ⟨0x200C0, [(8, 0x4)], 0, 32, .ro, 0x0, false⟩,
    ⟨0x200E0, [], 0, 7, .w1c, 0x0, false⟩,
    ⟨0x200E4, [], 0, 7, .rw, 0x0, false⟩ ]
def pm : List RegRow := pm0 ++ pm1
def clk0 : List RegRow :=
  [ ⟨0x30000, [], 0, 1, .ro, 0x1, false⟩,
    ⟨0x30000, [], 1, 1, .ro, 0x0, false⟩,
    ⟨0x30000, [], 2, 1, .ro, 0x0, false⟩,
    ⟨0x30000, [], 3, 1, .ro, 0x0, false⟩,
    ⟨0x30000, [], 4, 1, .ro, 0x1, false⟩,
    ⟨0x30004, [], 0, 4, .ro, 0x1, false⟩,
    ⟨0x30004, [], 9, 7, .w1c, 0x1, false⟩,
    ⟨0x30008, [], 0, 1, .wo, 0x0, false⟩,
    ⟨0x30008, [], 16, 16, .wo, 0x0, false⟩,
    ⟨0x3000C, [], 0, 4, .ro, 0x1, false⟩,
    ⟨0x30010, [], 0, 32, .ro, 0x0, false⟩,
    ⟨0x30014, [], 0, 32, .ro, 0x0, false⟩,
    ⟨0x30018, [], 0, 16, .ro, 0x0, false⟩,
    ⟨0x3001C, [], 0, 16, .rc, 0x0, false⟩,
    ⟨0x30020, [], 0, 4, .rw, 0x0, false⟩,
    ⟨0x30020, [], 8, 1, .wo, 0x0, false⟩,
    ⟨0x30024, [], 0, 1, .ro, 0x0, false⟩,
    ⟨0x30028, [], 0, 32, .ro, 0x0, false⟩,
    ⟨0x30030, [], 0, 16, .ro, 0x0, false⟩,
    ⟨0x30030, [], 16, 1, .ro, 0x0, false⟩,
    ⟨0x30040, [], 0, 1, .rw, 0x0, false⟩,
    ⟨0x30040, [], 1, 1, .w1s, 0x0, false⟩ ]
def clk : List RegRow := clk0
def lane0 : List RegRow :=
  [ ⟨0x40000, [(48, 0x100)], 0, 1, .rw, 0x0, false⟩,
    ⟨0x40000, [(48, 0x100)], 1, 1, .rw, 0x0, false⟩,
    ⟨0x40000, [(48, 0x100)], 2, 1, .rw, 0x0, false⟩,
    ⟨0x40000, [(48, 0x100)], 3, 1, .rw, 0x0, false⟩,
    ⟨0x40004, [(48, 0x100)], 0, 1, .ro, 0x0, false⟩,
    ⟨0x40004, [(48, 0x100)], 1, 1, .ro, 0x0, false⟩,
    ⟨0x40004, [(48, 0x100)], 2, 1, .ro, 0x0, false⟩,
    ⟨0x40004, [(48, 0x100)], 3, 1, .w1c, 0x0, false⟩,
    ⟨0x40004, [(48, 0x100)], 8, 4, .ro, 0x8, false⟩,
    ⟨0x40008, [(48, 0x100)], 0, 4, .rw, 0x8, false⟩,
    ⟨0x40008, [(48, 0x100)], 4, 1, .rw, 0x0, false⟩,
    ⟨0x4000C, [(48, 0x100)], 0, 2, .rw, 0x0, false⟩,
    ⟨0x4000C, [(48, 0x100)], 2, 1, .rw, 0x0, false⟩,
    ⟨0x4000C, [(48, 0x100)], 3, 1, .rw, 0x0, false⟩,
    ⟨0x4000C, [(48, 0x100)], 4, 1, .rw, 0x0, false⟩,
    ⟨0x40010, [(48, 0x100)], 0, 1, .wo, 0x0, false⟩,
    ⟨0x40010, [(48, 0x100)], 1, 1, .wo, 0x0, false⟩,
    ⟨0x40010, [(48, 0x100)], 16, 16, .rw, 0x0, false⟩,
    ⟨0x40018, [(48, 0x100)], 0, 32, .ro, 0x0, false⟩,
    ⟨0x4001C, [(48, 0x100)], 0, 16, .ro, 0x0, false⟩,
    ⟨0x40020, [(48, 0x100)], 0, 32, .ro, 0x0, false⟩,
    ⟨0x40024, [(48, 0x100)], 0, 16, .ro, 0x0, false⟩,
    ⟨0x40028, [(48, 0x100)], 0, 1, .wo, 0x0, false⟩,
    ⟨0x4002C, [(48, 0x100)], 0, 32, .rc, 0x0, false⟩ ]
def lane : List RegRow := lane0
def cxp0 : List RegRow :=
  [ ⟨0x50000, [(16, 0x400)], 0, 1, .rw, 0x0, true⟩,
    ⟨0x50000, [(16, 0x400)], 1, 1, .rw, 0x0, false⟩,
    ⟨0x50000, [(16, 0x400)], 2, 2, .rw, 0x2, false⟩,
    ⟨0x50000, [(16, 0x400)], 4, 4, .rw, 0x7, false⟩,
    ⟨0x50000, [(16, 0x400)], 8, 8, .rw, 0xa, false⟩,
    ⟨0x50004, [(16, 0x400)], 0, 1, .wo, 0x0, false⟩,
    ⟨0x50008, [(16, 0x400)], 0, 3, .ro, 0x0, false⟩,
    ⟨0x50008, [(16, 0x400)], 3, 1, .ro, 0x0, false⟩,
    ⟨0x50008, [(16, 0x400)], 4, 2, .ro, 0x0, false⟩,
    ⟨0x50008, [(16, 0x400)], 8, 4, .ro, 0x0, false⟩,
    ⟨0x50008, [(16, 0x400)], 12, 1, .ro, 0x0, false⟩,
    ⟨0x50008, [(16, 0x400)], 13, 1, .ro, 0x0, false⟩,
    ⟨0x50008, [(16, 0x400)], 16, 3, .ro, 0x0, false⟩,
    ⟨0x5000C, [(16, 0x400)], 0, 1, .rw, 0x0, false⟩,
    ⟨0x5000C, [(16, 0x400)], 1, 3, .rw, 0x0, false⟩,
    ⟨0x50010, [(16, 0x400), (4, 0x4)], 0, 8, .rw, 0x0, false⟩,
    ⟨0x50010, [(16, 0x400), (4, 0x4)], 8, 7, .rw, 0x0, false⟩,
    ⟨0x50010, [(16, 0x400), (4, 0x4)], 15, 1, .rw, 0x0, false⟩,
    ⟨0x50020, [(16, 0x400)], 0, 32, .rw, 0x0, false⟩,
    ⟨0x50024, [(16, 0x400)], 0, 1, .wo, 0x0, false⟩,
    ⟨0x50024, [(16, 0x400)], 1, 1, .rw, 0x0, false⟩,
    ⟨0x50024, [(16, 0x400)], 2, 8, .rw, 0x0, false⟩,
    ⟨0x50028, [(16, 0x400)], 0, 1, .ro, 0x0, false⟩,
    ⟨0x50028, [(16, 0x400)], 1, 3, .ro, 0x0, false⟩,
    ⟨0x50028, [(16, 0x400)], 4, 1, .w1c, 0x0, false⟩,
    ⟨0x5002C, [(16, 0x400)], 0, 16, .rw, 0xc8, false⟩,
    ⟨0x50030, [(16, 0x400)], 0, 32, .ro, 0x0, false⟩,
    ⟨0x50034, [(16, 0x400)], 0, 32, .ro, 0x0, false⟩,
    ⟨0x50038, [(16, 0x400)], 0, 32, .ro, 0x0, false⟩,
    ⟨0x5003C, [(16, 0x400)], 0, 32, .ro, 0x0, false⟩ ]
def cxp1 : List RegRow :=
  [ ⟨0x50040, [(16, 0x400)], 0, 16, .rw, 0x1f4, false⟩,
    ⟨0x50044, [(16, 0x400)], 0, 4, .ro, 0x0, false⟩,
    ⟨0x50044, [(16, 0x400)], 8, 1, .w1c, 0x0, false⟩,
    ⟨0x50044, [(16, 0x400)], 9, 1, .wo, 0x0, false⟩,
    ⟨0x50048, [(16, 0x400)], 0, 32, .rc, 0x0, false⟩,
    ⟨0x5004C, [(16, 0x400)], 0, 32, .rc, 0x0, false⟩,
    ⟨0x50050, [(16, 0x400)], 0, 6, .w1c, 0x0, false⟩,
    ⟨0x50054, [(16, 0x400)], 0, 6, .rw, 0x0, false⟩,
    ⟨0x50100, [(16, 0x400), (64, 0x4)], 0, 32, .rw, 0x0, false⟩ ]
def cxp : List RegRow := cxp0 ++ cxp1
def ifl0 : List RegRow :=
  [ ⟨0x60000, [(8, 0x2000)], 0, 1, .rw, 0x1, true⟩,
    ⟨0x60000, [(8, 0x2000)], 1, 1, .rw, 0x0, false⟩,
    ⟨0x60000, [(8, 0x2000)], 8, 8, .rw, 0x8, false⟩,
    ⟨0x60000, [(8, 0x2000)], 16, 16, .rw, 0x1000, false⟩,
    ⟨0x60004, [(8, 0x2000)], 0, 1, .wo, 0x0, false⟩,
    ⟨0x60008, [(8, 0x2000)], 0, 2, .ro, 0x0, false⟩,
    ⟨0x60008, [(8, 0x2000)], 2, 1, .ro, 0x0, false⟩,
    ⟨0x60008, [(8, 0x2000)], 3, 1, .ro, 0x0, false⟩,
    ⟨0x60008, [(8, 0x2000)], 4, 1, .ro, 0x0, false⟩,
    ⟨0x60008, [(8, 0x2000)], 5, 1, .ro, 0x0, false⟩,
    ⟨0x60008, [(8, 0x2000)], 6, 1, .ro, 0x0, false⟩,
    ⟨0x60008, [(8, 0x2000)], 8, 6, .ro, 0x0, false⟩,
    ⟨0x6000C, [(8, 0x2000)], 0, 32, .rc, 0x0, false⟩,
    ⟨0x60010, [(8, 0x2000)], 0, 32, .rc, 0x0, false⟩,
    ⟨0x60014, [(8, 0x2000)], 0, 16, .rc, 0x0, false⟩,
    ⟨0x60018, [(8, 0x2000)], 0, 4, .w1c, 0x0, false⟩,
    ⟨0x6001C, [(8, 0x2000)], 0, 4, .rw, 0x0, false⟩,
    ⟨0x60020, [(8, 0x2000)], 0, 8, .ro, 0x0, false⟩,
    ⟨0x60020, [(8, 0x2000)], 8, 1, .ro, 0x0, false⟩ ]
def ifl : List RegRow := ifl0
def pipe0 : List RegRow :=
  [ ⟨0x80000, [(8, 0x1000)], 0, 1, .rw, 0x0, false⟩,
    ⟨0x80000, [(8, 0x1000)], 8, 5, .rw, 0x0, false⟩,
    ⟨0x80004, [(8, 0x1000)], 0, 1, .wo, 0x0, false⟩,
    ⟨0x80008, [(8, 0x1000)], 0, 7, .ro, 0x0, false⟩,
    ⟨0x80008, [(8, 0x1000)], 8, 1, .ro, 0x1, false⟩,
    ⟨0x80008, [(8, 0x1000)], 9, 1, .ro, 0x0, false⟩,
    ⟨0x80008, [(8, 0x1000)], 10, 1, .w1c, 0x0, false⟩,
    ⟨0x80008, [(8, 0x1000)], 11, 1, .w1c, 0x0, false⟩,
    ⟨0x8000C, [(8, 0x1000)], 0, 32, .rc, 0x0, false⟩,
    ⟨0x80010, [(8, 0x1000)], 0, 32, .rc, 0x0, false⟩,
    ⟨0x80040, [(8, 0x1000), (32, 0x4)], 0, 7, .rw, 0x0, false⟩,
    ⟨0x80040, [(8, 0x1000), (32, 0x4)], 7, 1, .rw, 0x0, false⟩ ]
def pipe : List RegRow := pipe0
def ctx0 : List RegRow :=
  [ ⟨0x90000, [(128, 0x400)], 0, 1, .rw, 0x0, true⟩,
    ⟨0x90000, [(128, 0x400)], 1, 2, .rw, 0x0, false⟩,
    ⟨0x90000, [(128, 0x400)], 3, 1, .rw, 0x1, false⟩,
    ⟨0x90000, [(128, 0x400)], 4, 3, .rw, 0x0, false⟩,
    ⟨0x90004, [(128, 0x400)], 0, 1, .wo, 0x0, false⟩,
    ⟨0x90004, [(128, 0x400)], 1, 1, .wo, 0x0, false⟩,
    ⟨0x90008, [(128, 0x400)], 0, 1, .ro, 0x0, false⟩,
    ⟨0x90008, [(128, 0x400)], 1, 1, .ro, 0x0, false⟩,
    ⟨0x90008, [(128, 0x400)], 2, 1, .w1c, 0x0, false⟩,
    ⟨0x90008, [(128, 0x400)], 3, 1, .w1c, 0x0, false⟩,
    ⟨0x90008, [(128, 0x400)], 4, 1, .w1c, 0x0, false⟩,
    ⟨0x90008, [(128, 0x400)], 5, 1, .w1c, 0x0, false⟩,
    ⟨0x90008, [(128, 0x400)], 6, 1, .w1c, 0x0, false⟩,
    ⟨0x90008, [(128, 0x400)], 7, 1, .w1c, 0x0, false⟩,
    ⟨0x90008, [(128, 0x400)], 8, 1, .w1c, 0x0, false⟩,
    ⟨0x90008, [(128, 0x400)], 9, 1, .w1c, 0x0, false⟩,
    ⟨0x90008, [(128, 0x400)], 10, 1, .w1c, 0x0, false⟩,
    ⟨0x9000C, [(128, 0x400)], 2, 9, .rw, 0x0, false⟩,
    ⟨0x90010, [(128, 0x400)], 0, 32, .ro, 0x0, false⟩,
    ⟨0x90014, [(128, 0x400)], 0, 32, .ro, 0x0, false⟩,
    ⟨0x90018, [(128, 0x400)], 0, 32, .ro, 0x0, false⟩,
    ⟨0x9001C, [(128, 0x400)], 0, 32, .rc, 0x0, false⟩,
    ⟨0x90020, [(128, 0x400)], 0, 32, .rc, 0x0, false⟩,
    ⟨0x90024, [(128, 0x400)], 0, 32, .rc, 0x0, false⟩,
    ⟨0x90028, [(128, 0x400)], 0, 32, .rc, 0x0, false⟩,
    ⟨0x9002C, [(128, 0x400)], 0, 32, .rc, 0x0, false⟩,
    ⟨0x90030, [(128, 0x400)], 0, 16, .rw, 0x0, false⟩,
    ⟨0x90034, [(128, 0x400)], 0, 16, .rw, 0x0, false⟩,
    ⟨0x90038, [(128, 0x400)], 0, 16, .rw, 0x0, false⟩,
    ⟨0x9003C, [(128, 0x400)], 0, 16, .rw, 0x0, false⟩ ]
def ctx1 : List RegRow :=
  [ ⟨0x90040, [(128, 0x400)], 0, 16, .rw, 0x4000, false⟩,
    ⟨0x90044, [(128, 0x400)], 0, 17, .rw, 0x800, false⟩,
    ⟨0x90048, [(128, 0x400)], 0, 11, .rw, 0x40, false⟩,
    ⟨0x90048, [(128, 0x400)], 16, 16, .rw, 0x64, false⟩,
    ⟨0x9004C, [(128, 0x400)], 0, 2, .rw, 0x0, false⟩,
    ⟨0x9004C, [(128, 0x400)], 2, 2, .rw, 0x0, false⟩,
    ⟨0x9004C, [(128, 0x400)], 4, 2, .rw, 0x0, false⟩,
    ⟨0x9004C, [(128, 0x400)], 8, 1, .rw, 0x0, false⟩,
    ⟨0x9004C, [(128, 0x400)], 9, 1, .rw, 0x0, false⟩,
    ⟨0x9004C, [(128, 0x400)], 10, 1, .rw, 0x0, false⟩,
    ⟨0x9004C, [(128, 0x400)], 11, 1, .rw, 0x0, false⟩,
    ⟨0x90050, [(128, 0x400)], 0, 21, .rw, 0x0, false⟩,
    ⟨0x90054, [(128, 0x400)], 0, 11, .rw, 0x0, false⟩,
    ⟨0x90058, [(128, 0x400)], 0, 21, .rw, 0x0, false⟩,
    ⟨0x9005C, [(128, 0x400)], 0, 21, .rw, 0x0, false⟩,
    ⟨0x90060, [(128, 0x400)], 0, 1, .rw, 0x0, false⟩,
    ⟨0x90064, [(128, 0x400)], 0, 8, .rw, 0x0, false⟩,
    ⟨0x90064, [(128, 0x400)], 8, 8, .rw, 0x0, false⟩,
    ⟨0x90064, [(128, 0x400)], 16, 8, .rw, 0x0, false⟩,
    ⟨0x90068, [(128, 0x400)], 0, 21, .rw, 0x0, false⟩,
    ⟨0x9006C, [(128, 0x400)], 0, 21, .rw, 0x0, false⟩,
    ⟨0x90070, [(128, 0x400)], 0, 16, .rw, 0x1000, false⟩,
    ⟨0x90070, [(128, 0x400)], 16, 16, .rw, 0x0, false⟩,
    ⟨0x90074, [(128, 0x400)], 0, 16, .rw, 0x0, false⟩,
    ⟨0x90074, [(128, 0x400)], 16, 16, .rw, 0x0, false⟩,
    ⟨0x90078, [(128, 0x400)], 0, 16, .rw, 0x1000, false⟩,
    ⟨0x90078, [(128, 0x400)], 16, 16, .rw, 0x0, false⟩,
    ⟨0x9007C, [(128, 0x400)], 0, 16, .rw, 0x0, false⟩,
    ⟨0x9007C, [(128, 0x400)], 16, 16, .rw, 0x0, false⟩,
    ⟨0x90080, [(128, 0x400)], 0, 16, .rw, 0x1000, false⟩ ]
def ctx2 : List RegRow :=
  [ ⟨0x90084, [(128, 0x400)], 0, 16, .rw, 0x0, false⟩,
    ⟨0x90084, [(128, 0x400)], 16, 16, .rw, 0x0, false⟩,
    ⟨0x90088, [(128, 0x400)], 0, 16, .rw, 0x0, false⟩,
    ⟨0x90090, [(128, 0x400)], 0, 2, .rw, 0x0, false⟩,
    ⟨0x90090, [(128, 0x400)], 2, 2, .rw, 0x0, false⟩,
    ⟨0x90090, [(128, 0x400)], 4, 1, .rw, 0x1, false⟩,
    ⟨0x90090, [(128, 0x400)], 8, 1, .rw, 0x0, false⟩,
    ⟨0x90094, [(128, 0x400)], 0, 20, .rw, 0x10000, false⟩,
    ⟨0x90098, [(128, 0x400)], 0, 32, .rw, 0x0, false⟩,
    ⟨0x9009C, [(128, 0x400)], 0, 16, .rw, 0x4000, false⟩,
    ⟨0x900A0, [(128, 0x400)], 0, 1, .rw, 0x0, false⟩,
    ⟨0x900A0, [(128, 0x400)], 1, 1, .rw, 0x0, false⟩,
    ⟨0x900A0, [(128, 0x400)], 8, 5, .rw, 0x1f, false⟩,
    ⟨0x900A0, [(128, 0x400)], 16, 4, .rw, 0xf, false⟩,
    ⟨0x900A4, [(128, 0x400)], 6, 26, .rw, 0x0, false⟩,
    ⟨0x900A8, [(128, 0x400)], 0, 32, .rw, 0x0, false⟩,
    ⟨0x900AC, [(128, 0x400)], 0, 9, .rw, 0x10, false⟩,
    ⟨0x900C0, [(128, 0x400)], 0, 4, .rw, 0x0, false⟩,
    ⟨0x900C4, [(128, 0x400)], 0, 1, .rw, 0x0, false⟩,
    ⟨0x900C4, [(128, 0x400)], 1, 3, .rw, 0x0, false⟩,
    ⟨0x900C4, [(128, 0x400)], 4, 3, .rw, 0x0, false⟩,
    ⟨0x900C8, [(128, 0x400)], 6, 26, .rw, 0x0, false⟩,
    ⟨0x900CC, [(128, 0x400)], 0, 32, .rw, 0x0, false⟩,
    ⟨0x900D0, [(128, 0x400)], 0, 9, .rw, 0x4, false⟩,
    ⟨0x900D4, [(128, 0x400)], 0, 20, .rw, 0x0, false⟩,
    ⟨0x900E0, [(128, 0x400)], 6, 26, .rw, 0x0, false⟩,
    ⟨0x900E4, [(128, 0x400)], 0, 32, .rw, 0x0, false⟩,
    ⟨0x900E8, [(128, 0x400)], 0, 9, .rw, 0x4, false⟩,
    ⟨0x900EC, [(128, 0x400)], 0, 20, .rw, 0x0, false⟩,
    ⟨0x900F0, [(128, 0x400)], 0, 2, .rw, 0x0, false⟩ ]
def ctx3 : List RegRow :=
  [ ⟨0x900F0, [(128, 0x400)], 2, 1, .rw, 0x0, false⟩,
    ⟨0x900F4, [(128, 0x400)], 6, 26, .rw, 0x0, false⟩,
    ⟨0x900F8, [(128, 0x400)], 0, 32, .rw, 0x0, false⟩,
    ⟨0x900FC, [(128, 0x400)], 0, 9, .rw, 0x4, false⟩,
    ⟨0x90100, [(128, 0x400)], 0, 20, .rw, 0x0, false⟩,
    ⟨0x90110, [(128, 0x400)], 0, 2, .rw, 0x0, false⟩,
    ⟨0x90110, [(128, 0x400)], 8, 3, .rw, 0x0, false⟩,
    ⟨0x90114, [(128, 0x400), (3, 0x4)], 0, 32, .rw, 0x3b7f00ff, false⟩,
    ⟨0x90120, [(128, 0x400), (3, 0x4)], 0, 32, .rw, 0x0, false⟩,
    ⟨0x90140, [(128, 0x400), (8, 0x10)], 0, 3, .rw, 0x0, false⟩,
    ⟨0x90144, [(128, 0x400), (8, 0x10)], 6, 17, .rw, 0x0, false⟩,
    ⟨0x90148, [(128, 0x400), (8, 0x10)], 0, 16, .rw, 0x0, false⟩,
    ⟨0x90148, [(128, 0x400), (8, 0x10)], 16, 16, .rw, 0x0, false⟩,
    ⟨0x9014C, [(128, 0x400), (8, 0x10)], 0, 8, .rw, 0x2, false⟩,
    ⟨0x90200, [(128, 0x400), (4, 0x4)], 0, 32, .rw, 0x0, false⟩,
    ⟨0x90210, [(128, 0x400), (4, 0x4)], 0, 32, .rw, 0x0, false⟩,
    ⟨0x90220, [(128, 0x400)], 0, 1, .wo, 0x0, false⟩,
    ⟨0x90220, [(128, 0x400)], 1, 2, .rw, 0x0, false⟩,
    ⟨0x90220, [(128, 0x400)], 4, 4, .rw, 0x2, false⟩,
    ⟨0x90224, [(128, 0x400)], 0, 3, .ro, 0x0, false⟩,
    ⟨0x90228, [(128, 0x400)], 0, 32, .ro, 0x0, false⟩ ]
def ctx : List RegRow := ctx0 ++ ctx1 ++ ctx2 ++ ctx3
def time0 : List RegRow :=
  [ ⟨0xC0000, [], 0, 32, .ro, 0x0, false⟩,
    ⟨0xC0004, [], 0, 32, .ro, 0x0, false⟩,
    ⟨0xC0008, [], 0, 1, .wo, 0x0, false⟩,
    ⟨0xC0008, [], 1, 1, .wo, 0x0, false⟩,
    ⟨0xC0008, [], 2, 2, .rw, 0x0, false⟩,
    ⟨0xC0008, [], 4, 2, .rw, 0x0, false⟩,
    ⟨0xC0010, [], 0, 32, .ro, 0x0, false⟩,
    ⟨0xC0014, [], 0, 32, .ro, 0x0, false⟩,
    ⟨0xC0020, [], 0, 16, .rw, 0x2710, false⟩,
    ⟨0xC0030, [], 0, 1, .rw, 0x0, false⟩,
    ⟨0xC0030, [], 1, 1, .rw, 0x0, false⟩,
    ⟨0xC0034, [], 0, 32, .ro, 0x0, false⟩,
    ⟨0xC0038, [], 0, 32, .ro, 0x0, false⟩,
    ⟨0xC003C, [], 0, 32, .ro, 0x0, false⟩,
    ⟨0xC0040, [], 0, 32, .ro, 0x0, false⟩,
    ⟨0xC0044, [], 0, 1, .w1c, 0x0, false⟩,
    ⟨0xC0044, [], 1, 1, .w1c, 0x0, false⟩,
    ⟨0xC0048, [], 0, 12, .w1c, 0x0, false⟩,
    ⟨0xC004C, [], 0, 12, .rw, 0x0, false⟩,
    ⟨0xC0100, [(4, 0x40)], 0, 32, .ro, 0x0, false⟩,
    ⟨0xC0104, [(4, 0x40)], 0, 32, .ro, 0x0, false⟩,
    ⟨0xC0108, [(4, 0x40)], 0, 32, .ro, 0x0, false⟩,
    ⟨0xC010C, [(4, 0x40)], 0, 32, .rw, 0x0, true⟩,
    ⟨0xC0110, [(4, 0x40)], 0, 32, .rw, 0x0, false⟩,
    ⟨0xC0114, [(4, 0x40)], 0, 32, .rw, 0x0, false⟩,
    ⟨0xC0118, [(4, 0x40)], 0, 32, .rw, 0x0, false⟩,
    ⟨0xC011C, [(4, 0x40)], 0, 32, .rw, 0x0, false⟩,
    ⟨0xC0120, [(4, 0x40)], 0, 32, .rw, 0x0, false⟩,
    ⟨0xC0124, [(4, 0x40)], 0, 1, .wo, 0x0, false⟩,
    ⟨0xC0124, [(4, 0x40)], 1, 1, .wo, 0x0, false⟩ ]
def time1 : List RegRow :=
  [ ⟨0xC0128, [(4, 0x40)], 0, 1, .ro, 0x0, false⟩,
    ⟨0xC0128, [(4, 0x40)], 1, 1, .w1c, 0x0, false⟩,
    ⟨0xC012C, [(4, 0x40)], 0, 32, .ro, 0x0, false⟩,
    ⟨0xC0130, [(4, 0x40)], 0, 32, .ro, 0x0, false⟩,
    ⟨0xC0134, [(4, 0x40)], 0, 32, .ro, 0x0, false⟩,
    ⟨0xC0400, [(8, 0x20)], 0, 1, .rw, 0x0, false⟩,
    ⟨0xC0400, [(8, 0x20)], 1, 2, .rw, 0x0, false⟩,
    ⟨0xC0400, [(8, 0x20)], 3, 1, .rw, 0x0, false⟩,
    ⟨0xC0400, [(8, 0x20)], 4, 1, .rw, 0x0, false⟩,
    ⟨0xC0404, [(8, 0x20)], 0, 32, .rw, 0x0, false⟩,
    ⟨0xC0408, [(8, 0x20)], 0, 8, .rw, 0x0, false⟩,
    ⟨0xC040C, [(8, 0x20)], 0, 32, .rw, 0x3b9aca00, false⟩,
    ⟨0xC0410, [(8, 0x20)], 0, 8, .rw, 0x0, false⟩,
    ⟨0xC0414, [(8, 0x20)], 0, 1, .w1c, 0x0, false⟩,
    ⟨0xC0414, [(8, 0x20)], 1, 1, .w1c, 0x0, false⟩,
    ⟨0xC0418, [(8, 0x20)], 0, 32, .rc, 0x0, false⟩,
    ⟨0xC0600, [], 0, 2, .rw, 0x0, false⟩,
    ⟨0xC0600, [], 2, 3, .rw, 0x0, false⟩,
    ⟨0xC0600, [], 8, 8, .rw, 0x0, false⟩,
    ⟨0xC0600, [], 16, 16, .rw, 0x64, false⟩,
    ⟨0xC0604, [], 0, 16, .rw, 0x3e8, false⟩,
    ⟨0xC0608, [], 0, 32, .rw, 0x14f8b5, false⟩,
    ⟨0xC060C, [], 0, 32, .rw, 0xa7c6, false⟩,
    ⟨0xC0610, [], 0, 1, .ro, 0x0, false⟩,
    ⟨0xC0610, [], 1, 1, .ro, 0x0, false⟩,
    ⟨0xC0610, [], 2, 1, .w1c, 0x0, false⟩,
    ⟨0xC0610, [], 4, 4, .ro, 0x0, false⟩,
    ⟨0xC0614, [], 0, 32, .ro, 0x0, false⟩,
    ⟨0xC0618, [], 0, 32, .ro, 0x0, false⟩,
    ⟨0xC0620, [(8, 0x4)], 0, 32, .rw, 0x0, false⟩ ]
def time : List RegRow := time0 ++ time1
def eth0 : List RegRow :=
  [ ⟨0xD0000, [(2, 0x1000)], 0, 1, .rw, 0x0, false⟩,
    ⟨0xD0000, [(2, 0x1000)], 1, 1, .rw, 0x0, false⟩,
    ⟨0xD0004, [(2, 0x1000)], 0, 1, .ro, 0x0, false⟩,
    ⟨0xD0004, [(2, 0x1000)], 1, 1, .ro, 0x0, false⟩,
    ⟨0xD0004, [(2, 0x1000)], 2, 1, .ro, 0x0, false⟩,
    ⟨0xD0008, [(2, 0x1000)], 0, 32, .rw, 0x0, false⟩,
    ⟨0xD000C, [(2, 0x1000)], 0, 16, .rw, 0x0, false⟩,
    ⟨0xD0010, [(2, 0x1000)], 0, 14, .rw, 0x2400, false⟩,
    ⟨0xD0014, [(2, 0x1000)], 0, 16, .rw, 0x0, false⟩,
    ⟨0xD0018, [(2, 0x1000)], 0, 16, .rw, 0x0, false⟩,
    ⟨0xD001C, [(2, 0x1000)], 0, 1, .rw, 0x1, false⟩,
    ⟨0xD0020, [(2, 0x1000)], 0, 5, .ro, 0x0, false⟩,
    ⟨0xD0020, [(2, 0x1000)], 8, 1, .w1c, 0x0, false⟩,
    ⟨0xD0020, [(2, 0x1000)], 9, 1, .wo, 0x0, false⟩,
    ⟨0xD0024, [(2, 0x1000)], 0, 16, .ro, 0x0, false⟩,
    ⟨0xD0028, [(2, 0x1000)], 0, 32, .ro, 0x0, false⟩,
    ⟨0xD002C, [(2, 0x1000)], 0, 32, .ro, 0x0, false⟩,
    ⟨0xD0030, [(2, 0x1000)], 0, 16, .ro, 0x0, false⟩,
    ⟨0xD0040, [(2, 0x1000)], 0, 32, .rc, 0x0, false⟩,
    ⟨0xD0044, [(2, 0x1000)], 0, 32, .rc, 0x0, false⟩,
    ⟨0xD0048, [(2, 0x1000)], 0, 32, .rc, 0x0, false⟩,
    ⟨0xD004C, [(2, 0x1000)], 0, 32, .rc, 0x0, false⟩,
    ⟨0xD0050, [(2, 0x1000)], 0, 32, .rc, 0x0, false⟩,
    ⟨0xD0054, [(2, 0x1000)], 0, 3, .w1c, 0x0, false⟩,
    ⟨0xD0058, [(2, 0x1000)], 0, 3, .rw, 0x0, false⟩ ]
def eth : List RegRow := eth0
def fldh0 : List RegRow :=
  [ ⟨0xE0000, [], 0, 1, .rw, 0x1, false⟩,
    ⟨0xE0000, [], 16, 16, .rw, 0xc8, false⟩,
    ⟨0xE0004, [], 0, 1, .wo, 0x0, false⟩,
    ⟨0xE0008, [], 0, 1, .ro, 0x0, false⟩,
    ⟨0xE0008, [], 1, 1, .ro, 0x1, false⟩,
    ⟨0xE0008, [], 2, 1, .ro, 0x0, false⟩,
    ⟨0xE0008, [], 3, 1, .ro, 0x0, false⟩,
    ⟨0xE0008, [], 4, 1, .ro, 0x0, false⟩,
    ⟨0xE0008, [], 5, 1, .w1c, 0x0, false⟩,
    ⟨0xE0008, [], 6, 1, .w1c, 0x0, false⟩,
    ⟨0xE0008, [], 7, 1, .w1c, 0x0, false⟩,
    ⟨0xE0008, [], 8, 1, .w1c, 0x0, false⟩,
    ⟨0xE0008, [], 16, 13, .ro, 0x0, false⟩,
    ⟨0xE000C, [], 5, 4, .rw, 0x0, false⟩,
    ⟨0xE0010, [], 0, 32, .rc, 0x0, false⟩,
    ⟨0xE0014, [], 0, 32, .rc, 0x0, false⟩,
    ⟨0xE0018, [], 0, 32, .rc, 0x0, false⟩,
    ⟨0xE001C, [], 0, 16, .ro, 0x0, false⟩,
    ⟨0xE0020, [], 0, 32, .rc, 0x0, false⟩ ]
def fldh : List RegRow := fldh0
def fld0 : List RegRow :=
  [ ⟨0xE1000, [], 0, 16, .rw, 0xc8, false⟩,
    ⟨0xE1000, [], 16, 16, .rw, 0x64, false⟩,
    ⟨0xE1004, [], 0, 1, .ro, 0x1, false⟩,
    ⟨0xE1004, [], 1, 1, .w1c, 0x0, false⟩,
    ⟨0xE1004, [], 2, 1, .ro, 0x0, false⟩,
    ⟨0xE1004, [], 3, 1, .w1c, 0x0, false⟩,
    ⟨0xE1004, [], 8, 13, .ro, 0x0, false⟩,
    ⟨0xE1008, [], 0, 32, .rc, 0x0, false⟩,
    ⟨0xE100C, [], 0, 32, .rc, 0x0, false⟩,
    ⟨0xE1100, [(8, 0x10)], 0, 1, .rw, 0x0, false⟩,
    ⟨0xE1100, [(8, 0x10)], 1, 2, .rw, 0x0, false⟩,
    ⟨0xE1100, [(8, 0x10)], 8, 24, .rw, 0x4, false⟩,
    ⟨0xE1104, [(8, 0x10)], 0, 32, .rw, 0x0, false⟩,
    ⟨0xE1108, [(8, 0x10)], 0, 32, .ro, 0x0, false⟩,
    ⟨0xE110C, [(8, 0x10)], 0, 32, .ro, 0x0, false⟩,
    ⟨0xE1180, [(8, 0x4)], 0, 32, .rc, 0x0, false⟩,
    ⟨0xE1200, [], 0, 2, .rw, 0x0, false⟩,
    ⟨0xE1204, [], 0, 16, .rw, 0x0, false⟩,
    ⟨0xE1208, [], 0, 16, .rw, 0x0, false⟩,
    ⟨0xE120C, [], 0, 16, .ro, 0x0, false⟩,
    ⟨0xE1210, [(4, 0x4)], 0, 32, .rw, 0x0, false⟩,
    ⟨0xE1300, [], 0, 16, .rw, 0x0, false⟩,
    ⟨0xE1304, [], 0, 32, .rw, 0x0, false⟩,
    ⟨0xE1308, [], 0, 32, .rw, 0x0, false⟩,
    ⟨0xE130C, [], 0, 8, .rw, 0x0, false⟩,
    ⟨0xE1310, [(4, 0x8)], 0, 2, .rw, 0x0, false⟩,
    ⟨0xE1310, [(4, 0x8)], 2, 3, .rw, 0x0, false⟩,
    ⟨0xE1310, [(4, 0x8)], 5, 1, .rw, 0x0, false⟩,
    ⟨0xE1310, [(4, 0x8)], 16, 16, .rw, 0x0, false⟩,
    ⟨0xE1314, [(4, 0x8)], 0, 16, .rw, 0x10, false⟩ ]
def fld1 : List RegRow :=
  [ ⟨0xE1400, [(8, 0x20)], 0, 1, .rw, 0x0, false⟩,
    ⟨0xE1400, [(8, 0x20)], 1, 2, .rw, 0x0, false⟩,
    ⟨0xE1400, [(8, 0x20)], 3, 1, .rw, 0x0, false⟩,
    ⟨0xE1404, [(8, 0x20)], 0, 24, .rw, 0x0, false⟩,
    ⟨0xE1408, [(8, 0x20)], 0, 31, .rw, 0x0, false⟩,
    ⟨0xE140C, [(8, 0x20)], 0, 13, .ro, 0x0, false⟩,
    ⟨0xE1410, [(8, 0x20)], 0, 32, .ro, 0x0, false⟩,
    ⟨0xE1414, [(8, 0x20)], 0, 32, .ro, 0x0, false⟩,
    ⟨0xE1418, [(8, 0x20)], 0, 32, .rc, 0x0, false⟩,
    ⟨0xE141C, [(8, 0x20)], 0, 32, .rc, 0x0, false⟩,
    ⟨0xE1600, [(8, 0x4)], 0, 32, .rc, 0x0, false⟩,
    ⟨0xE1700, [(8, 0x20), (8, 0x4)], 0, 24, .rw, 0x3e8, false⟩,
    ⟨0xE1800, [(4, 0x10)], 0, 1, .rw, 0x0, false⟩,
    ⟨0xE1804, [(4, 0x10)], 0, 1, .ro, 0x0, false⟩,
    ⟨0xE1808, [(4, 0x10)], 0, 32, .ro, 0x0, false⟩,
    ⟨0xE4000, [(4, 0x200)], 0, 3, .rw, 0x0, false⟩,
    ⟨0xE4000, [(4, 0x200)], 3, 1, .rw, 0x0, false⟩,
    ⟨0xE4000, [(4, 0x200)], 4, 2, .rw, 0x0, false⟩,
    ⟨0xE4000, [(4, 0x200)], 6, 1, .rw, 0x0, false⟩,
    ⟨0xE4000, [(4, 0x200)], 7, 1, .rw, 0x1, false⟩,
    ⟨0xE4000, [(4, 0x200)], 8, 2, .rw, 0x0, false⟩,
    ⟨0xE4000, [(4, 0x200)], 10, 1, .rw, 0x0, false⟩,
    ⟨0xE4000, [(4, 0x200)], 11, 1, .rw, 0x0, false⟩,
    ⟨0xE4000, [(4, 0x200)], 12, 1, .rw, 0x0, false⟩,
    ⟨0xE4000, [(4, 0x200)], 16, 4, .rw, 0xc, false⟩,
    ⟨0xE4004, [(4, 0x200)], 0, 1, .wo, 0x0, false⟩,
    ⟨0xE4004, [(4, 0x200)], 1, 1, .wo, 0x0, false⟩,
    ⟨0xE4004, [(4, 0x200)], 2, 1, .wo, 0x0, false⟩,
    ⟨0xE4004, [(4, 0x200)], 3, 1, .wo, 0x0, false⟩,
    ⟨0xE4004, [(4, 0x200)], 4, 1, .wo, 0x0, false⟩ ]
def fld2 : List RegRow :=
  [ ⟨0xE4008, [(4, 0x200)], 0, 2, .rw, 0x0, false⟩,
    ⟨0xE400C, [(4, 0x200)], 0, 1, .w1c, 0x0, false⟩,
    ⟨0xE400C, [(4, 0x200)], 1, 1, .w1c, 0x0, false⟩,
    ⟨0xE400C, [(4, 0x200)], 2, 1, .w1c, 0x0, false⟩,
    ⟨0xE400C, [(4, 0x200)], 3, 1, .w1c, 0x0, false⟩,
    ⟨0xE400C, [(4, 0x200)], 4, 1, .w1c, 0x0, false⟩,
    ⟨0xE400C, [(4, 0x200)], 5, 1, .w1c, 0x0, false⟩,
    ⟨0xE400C, [(4, 0x200)], 6, 1, .w1c, 0x0, false⟩,
    ⟨0xE400C, [(4, 0x200)], 7, 1, .w1c, 0x0, false⟩,
    ⟨0xE400C, [(4, 0x200)], 8, 1, .ro, 0x0, false⟩,
    ⟨0xE400C, [(4, 0x200)], 9, 1, .ro, 0x0, false⟩,
    ⟨0xE400C, [(4, 0x200)], 10, 1, .ro, 0x1, false⟩,
    ⟨0xE400C, [(4, 0x200)], 11, 1, .w1c, 0x0, false⟩,
    ⟨0xE400C, [(4, 0x200)], 12, 3, .ro, 0x0, false⟩,
    ⟨0xE400C, [(4, 0x200)], 15, 3, .ro, 0x0, false⟩,
    ⟨0xE400C, [(4, 0x200)], 18, 3, .ro, 0x0, false⟩,
    ⟨0xE400C, [(4, 0x200)], 21, 1, .w1c, 0x0, false⟩,
    ⟨0xE4010, [(4, 0x200)], 0, 32, .rc, 0x0, false⟩,
    ⟨0xE4014, [(4, 0x200)], 0, 32, .rc, 0x0, false⟩,
    ⟨0xE4018, [(4, 0x200)], 0, 32, .rc, 0x0, false⟩,
    ⟨0xE401C, [(4, 0x200)], 0, 32, .rc, 0x0, false⟩,
    ⟨0xE4020, [(4, 0x200)], 0, 32, .rw, 0x0, false⟩,
    ⟨0xE4024, [(4, 0x200)], 0, 32, .ro, 0x0, false⟩,
    ⟨0xE4028, [(4, 0x200)], 0, 32, .ro, 0x0, false⟩,
    ⟨0xE402C, [(4, 0x200)], 0, 32, .ro, 0x0, false⟩,
    ⟨0xE4030, [(4, 0x200)], 0, 9, .rw, 0x0, false⟩,
    ⟨0xE4040, [(4, 0x200)], 0, 14, .rw, 0x0, false⟩,
    ⟨0xE4040, [(4, 0x200)], 16, 14, .rw, 0x0, false⟩,
    ⟨0xE4044, [(4, 0x200)], 0, 16, .rw, 0x4000, false⟩,
    ⟨0xE4044, [(4, 0x200)], 16, 16, .rw, 0x4000, false⟩ ]
def fld3 : List RegRow :=
  [ ⟨0xE4048, [(4, 0x200)], 0, 16, .rw, 0x0, false⟩,
    ⟨0xE404C, [(4, 0x200)], 0, 14, .rw, 0x800, false⟩,
    ⟨0xE404C, [(4, 0x200)], 16, 14, .rw, 0x1c00, false⟩,
    ⟨0xE4050, [(4, 0x200)], 0, 8, .rw, 0x4, false⟩,
    ⟨0xE4054, [(4, 0x200)], 0, 1, .rw, 0x0, false⟩,
    ⟨0xE4058, [(4, 0x200)], 0, 14, .ro, 0x1fff, false⟩,
    ⟨0xE4058, [(4, 0x200)], 16, 14, .ro, 0x2000, false⟩,
    ⟨0xE405C, [(4, 0x200)], 0, 14, .ro, 0x1fff, false⟩,
    ⟨0xE405C, [(4, 0x200)], 16, 14, .ro, 0x2000, false⟩,
    ⟨0xE4060, [(4, 0x200)], 0, 32, .ro, 0x0, false⟩,
    ⟨0xE4064, [(4, 0x200)], 0, 16, .ro, 0x0, false⟩,
    ⟨0xE4064, [(4, 0x200)], 16, 15, .ro, 0x0, false⟩,
    ⟨0xE4080, [(4, 0x200)], 0, 6, .rw, 0x19, false⟩,
    ⟨0xE4080, [(4, 0x200)], 6, 1, .rw, 0x0, false⟩,
    ⟨0xE4080, [(4, 0x200)], 7, 2, .rw, 0x0, false⟩,
    ⟨0xE4080, [(4, 0x200)], 9, 1, .rw, 0x1, false⟩,
    ⟨0xE4080, [(4, 0x200)], 16, 8, .rw, 0xf, false⟩,
    ⟨0xE4080, [(4, 0x200)], 24, 8, .rw, 0x0, false⟩,
    ⟨0xE4084, [(4, 0x200)], 0, 10, .rw, 0x31, false⟩,
    ⟨0xE4084, [(4, 0x200)], 16, 8, .rw, 0x14, false⟩,
    ⟨0xE4084, [(4, 0x200)], 24, 8, .rw, 0x3, false⟩,
    ⟨0xE4088, [(4, 0x200)], 0, 32, .rw, 0x10000, false⟩,
    ⟨0xE408C, [(4, 0x200)], 0, 32, .ro, 0x0, false⟩,
    ⟨0xE4090, [(4, 0x200)], 0, 16, .ro, 0x0, false⟩,
    ⟨0xE4094, [(4, 0x200)], 0, 8, .ro, 0x0, false⟩,
    ⟨0xE40C0, [(4, 0x200)], 0, 15, .rw, 0x3e8, false⟩,
    ⟨0xE40C4, [(4, 0x200)], 0, 16, .rw, 0x9a6a, false⟩,
    ⟨0xE40C4, [(4, 0x200)], 16, 6, .rw, 0x15, false⟩,
    ⟨0xE40C8, [(4, 0x200)], 0, 16, .rw, 0xf860, false⟩,
    ⟨0xE40C8, [(4, 0x200)], 16, 6, .rw, 0x1d, false⟩ ]
def fld4 : List RegRow :=
  [ ⟨0xE40CC, [(4, 0x200)], 0, 16, .rw, 0x852c, false⟩,
    ⟨0xE40CC, [(4, 0x200)], 16, 6, .rw, 0x25, false⟩,
    ⟨0xE40E0, [(4, 0x200)], 0, 32, .ro, 0x0, false⟩,
    ⟨0xE40E4, [(4, 0x200)], 0, 32, .ro, 0x0, false⟩,
    ⟨0xE40E8, [(4, 0x200)], 0, 32, .ro, 0x0, false⟩,
    ⟨0xE40EC, [(4, 0x200)], 0, 32, .ro, 0x0, false⟩,
    ⟨0xE40F0, [(4, 0x200)], 0, 32, .ro, 0x0, false⟩,
    ⟨0xE40F4, [(4, 0x200)], 0, 32, .ro, 0x0, false⟩,
    ⟨0xE40F8, [(4, 0x200)], 0, 32, .ro, 0x0, false⟩,
    ⟨0xE40FC, [(4, 0x200)], 0, 22, .ro, 0x0, false⟩,
    ⟨0xE4800, [(2, 0x20)], 0, 2, .rw, 0x0, false⟩,
    ⟨0xE4800, [(2, 0x20)], 2, 1, .rw, 0x0, false⟩,
    ⟨0xE4800, [(2, 0x20)], 8, 8, .rw, 0x4, false⟩,
    ⟨0xE4804, [(2, 0x20)], 0, 32, .rw, 0x0, false⟩,
    ⟨0xE4808, [(2, 0x20)], 0, 1, .w1c, 0x0, false⟩,
    ⟨0xE4808, [(2, 0x20)], 1, 1, .ro, 0x0, false⟩,
    ⟨0xE4808, [(2, 0x20)], 2, 1, .ro, 0x0, false⟩,
    ⟨0xE480C, [(2, 0x20)], 0, 16, .ro, 0x0, false⟩,
    ⟨0xE8000, [], 0, 1, .wo, 0x0, false⟩,
    ⟨0xE8000, [], 1, 1, .wo, 0x0, false⟩,
    ⟨0xE8004, [], 0, 32, .wo, 0x0, false⟩,
    ⟨0xE8008, [], 0, 32, .ro, 0x0, false⟩,
    ⟨0xE8020, [(8, 0x4)], 0, 32, .wo, 0x0, false⟩,
    ⟨0xE8040, [(8, 0x4)], 0, 32, .ro, 0x0, false⟩ ]
def fld : List RegRow := fld0 ++ fld1 ++ fld2 ++ fld3 ++ fld4
def mem0 : List RegRow :=
  [ ⟨0x100000, [], 0, 2, .ro, 0x0, false⟩,
    ⟨0x100000, [], 2, 2, .ro, 0x0, false⟩,
    ⟨0x100000, [], 8, 5, .ro, 0x0, false⟩,
    ⟨0x100004, [], 0, 1, .ro, 0x0, false⟩,
    ⟨0x100004, [], 1, 1, .ro, 0x0, false⟩,
    ⟨0x100004, [], 2, 1, .ro, 0x0, false⟩,
    ⟨0x100004, [], 3, 1, .ro, 0x0, false⟩,
    ⟨0x100004, [], 4, 1, .ro, 0x0, false⟩,
    ⟨0x100008, [], 0, 26, .wo, 0x0, false⟩,
    ⟨0x100010, [], 0, 32, .ro, 0x0, false⟩,
    ⟨0x100014, [], 0, 32, .ro, 0x0, false⟩,
    ⟨0x100020, [], 0, 1, .w1c, 0x0, false⟩,
    ⟨0x100020, [], 1, 1, .w1c, 0x0, false⟩,
    ⟨0x100020, [], 2, 1, .w1c, 0x0, false⟩,
    ⟨0x100020, [], 3, 1, .w1c, 0x0, false⟩,
    ⟨0x100020, [], 4, 1, .w1c, 0x0, false⟩,
    ⟨0x100024, [], 0, 32, .rc, 0x0, false⟩,
    ⟨0x100028, [], 0, 3, .ro, 0x0, false⟩,
    ⟨0x100028, [], 4, 7, .ro, 0x0, false⟩,
    ⟨0x10002C, [], 0, 32, .ro, 0x0, false⟩,
    ⟨0x100040, [(2, 0x10)], 0, 32, .rc, 0x0, false⟩,
    ⟨0x100044, [(2, 0x10)], 0, 32, .rc, 0x0, false⟩,
    ⟨0x100048, [(2, 0x10)], 0, 8, .ro, 0x0, false⟩,
    ⟨0x100048, [(2, 0x10)], 8, 1, .ro, 0x0, false⟩,
    ⟨0x100048, [(2, 0x10)], 9, 1, .w1c, 0x0, false⟩,
    ⟨0x100060, [], 0, 32, .rc, 0x0, false⟩,
    ⟨0x100064, [], 0, 32, .rc, 0x0, false⟩,
    ⟨0x100080, [(4, 0x10)], 0, 1, .rw, 0x0, false⟩,
    ⟨0x100080, [(4, 0x10)], 1, 1, .rw, 0x0, false⟩,
    ⟨0x100080, [(4, 0x10)], 2, 3, .rw, 0x0, false⟩ ]
def mem1 : List RegRow :=
  [ ⟨0x100080, [(4, 0x10)], 8, 8, .rw, 0x0, false⟩,
    ⟨0x100084, [(4, 0x10)], 0, 24, .rw, 0x0, false⟩,
    ⟨0x100088, [(4, 0x10)], 0, 24, .rw, 0x0, false⟩,
    ⟨0x1000C0, [], 0, 32, .rc, 0x0, false⟩,
    ⟨0x101000, [(26, 0x40)], 0, 1, .wo, 0x0, false⟩,
    ⟨0x101000, [(26, 0x40)], 1, 1, .wo, 0x0, false⟩,
    ⟨0x101000, [(26, 0x40)], 8, 6, .rw, 0xf, false⟩,
    ⟨0x101004, [(26, 0x40)], 0, 1, .ro, 0x0, false⟩,
    ⟨0x101004, [(26, 0x40)], 1, 1, .ro, 0x0, false⟩,
    ⟨0x101004, [(26, 0x40)], 2, 1, .ro, 0x0, false⟩,
    ⟨0x101004, [(26, 0x40)], 8, 1, .w1c, 0x0, false⟩,
    ⟨0x101004, [(26, 0x40)], 9, 1, .w1c, 0x0, false⟩,
    ⟨0x101004, [(26, 0x40)], 10, 1, .w1c, 0x0, false⟩,
    ⟨0x101004, [(26, 0x40)], 11, 1, .w1c, 0x0, false⟩,
    ⟨0x101004, [(26, 0x40)], 16, 3, .ro, 0x0, false⟩,
    ⟨0x101008, [(26, 0x40)], 0, 32, .rc, 0x0, false⟩,
    ⟨0x10100C, [(26, 0x40)], 0, 32, .rc, 0x0, false⟩,
    ⟨0x101010, [(26, 0x40)], 0, 32, .rc, 0x0, false⟩,
    ⟨0x101014, [(26, 0x40)], 0, 32, .rc, 0x0, false⟩,
    ⟨0x101018, [(26, 0x40)], 0, 8, .ro, 0x0, false⟩,
    ⟨0x10101C, [(26, 0x40)], 0, 32, .rc, 0x0, false⟩,
    ⟨0x108000, [(26, 0x800), (256, 0x4)], 0, 2, .rw, 0x0, false⟩,
    ⟨0x108000, [(26, 0x800), (256, 0x4)], 2, 1, .rw, 0x0, false⟩,
    ⟨0x108000, [(26, 0x800), (256, 0x4)], 8, 8, .rw, 0x0, false⟩,
    ⟨0x108400, [(26, 0x800), (256, 0x4)], 0, 2, .ro, 0x0, false⟩,
    ⟨0x108400, [(26, 0x800), (256, 0x4)], 2, 1, .ro, 0x0, false⟩,
    ⟨0x108400, [(26, 0x800), (256, 0x4)], 8, 8, .ro, 0x0, false⟩ ]
def mem : List RegRow := mem0 ++ mem1
def lsc0 : List RegRow :=
  [ ⟨0x210000, [(8, 0x20000), (16, 0x20)], 0, 1, .rw, 0x0, true⟩,
    ⟨0x210000, [(8, 0x20000), (16, 0x20)], 1, 1, .rw, 0x0, false⟩,
    ⟨0x210000, [(8, 0x20000), (16, 0x20)], 2, 7, .rw, 0x0, false⟩,
    ⟨0x210000, [(8, 0x20000), (16, 0x20)], 9, 3, .rw, 0x0, false⟩,
    ⟨0x210000, [(8, 0x20000), (16, 0x20)], 12, 3, .rw, 0x0, false⟩,
    ⟨0x210000, [(8, 0x20000), (16, 0x20)], 16, 4, .rw, 0x0, false⟩,
    ⟨0x210000, [(8, 0x20000), (16, 0x20)], 20, 8, .rw, 0x2, false⟩,
    ⟨0x210004, [(8, 0x20000), (16, 0x20)], 0, 8, .rw, 0x0, false⟩,
    ⟨0x210004, [(8, 0x20000), (16, 0x20)], 8, 4, .rw, 0x0, false⟩,
    ⟨0x210008, [(8, 0x20000), (16, 0x20)], 0, 32, .ro, 0x0, false⟩,
    ⟨0x21000C, [(8, 0x20000), (16, 0x20)], 0, 32, .ro, 0x0, false⟩,
    ⟨0x210010, [(8, 0x20000), (16, 0x20)], 0, 8, .ro, 0x0, false⟩,
    ⟨0x210014, [(8, 0x20000), (16, 0x20)], 0, 1, .w1c, 0x0, false⟩,
    ⟨0x210014, [(8, 0x20000), (16, 0x20)], 1, 1, .w1c, 0x0, false⟩,
    ⟨0x210014, [(8, 0x20000), (16, 0x20)], 2, 1, .w1c, 0x0, false⟩,
    ⟨0x210014, [(8, 0x20000), (16, 0x20)], 3, 1, .w1c, 0x0, false⟩,
    ⟨0x211000, [(8, 0x20000), (4, 0x20)], 0, 1, .rw, 0x0, false⟩,
    ⟨0x211000, [(8, 0x20000), (4, 0x20)], 1, 4, .rw, 0x0, false⟩,
    ⟨0x211008, [(8, 0x20000), (4, 0x20)], 6, 26, .rw, 0x0, false⟩,
    ⟨0x21100C, [(8, 0x20000), (4, 0x20)], 0, 16, .rw, 0x0, false⟩,
    ⟨0x211010, [(8, 0x20000), (4, 0x20)], 6, 26, .rw, 0x0, false⟩,
    ⟨0x211014, [(8, 0x20000), (4, 0x20)], 0, 16, .rw, 0x0, false⟩ ]
def lsc : List RegRow := lsc0
def core0 : List RegRow :=
  [ ⟨0x400000, [(72, 0x2000)], 0, 7, .ro, 0x0, false⟩,
    ⟨0x400000, [(72, 0x2000)], 8, 6, .ro, 0x0, false⟩,
    ⟨0x400000, [(72, 0x2000)], 14, 1, .ro, 0x0, false⟩,
    ⟨0x400000, [(72, 0x2000)], 15, 1, .ro, 0x0, false⟩,
    ⟨0x400000, [(72, 0x2000)], 16, 1, .ro, 0x0, false⟩,
    ⟨0x400000, [(72, 0x2000)], 17, 3, .ro, 0x0, false⟩,
    ⟨0x400000, [(72, 0x2000)], 20, 1, .ro, 0x0, false⟩,
    ⟨0x400004, [(72, 0x2000)], 0, 3, .ro, 0x0, false⟩,
    ⟨0x400004, [(72, 0x2000)], 3, 1, .w1c, 0x0, false⟩,
    ⟨0x400004, [(72, 0x2000)], 4, 1, .w1c, 0x0, false⟩,
    ⟨0x400004, [(72, 0x2000)], 8, 3, .ro, 0x0, false⟩,
    ⟨0x400008, [(72, 0x2000)], 0, 1, .w1c, 0x0, false⟩,
    ⟨0x400008, [(72, 0x2000)], 1, 1, .w1c, 0x0, false⟩,
    ⟨0x400008, [(72, 0x2000)], 2, 1, .w1c, 0x0, false⟩,
    ⟨0x400008, [(72, 0x2000)], 3, 1, .w1c, 0x0, false⟩,
    ⟨0x400008, [(72, 0x2000)], 4, 1, .w1c, 0x0, false⟩,
    ⟨0x40000C, [(72, 0x2000)], 0, 8, .ro, 0x0, false⟩,
    ⟨0x40000C, [(72, 0x2000)], 8, 8, .ro, 0x0, false⟩,
    ⟨0x400010, [(72, 0x2000)], 0, 32, .ro, 0x0, false⟩,
    ⟨0x400014, [(72, 0x2000)], 0, 16, .ro, 0x0, false⟩,
    ⟨0x400014, [(72, 0x2000)], 16, 4, .ro, 0x0, false⟩,
    ⟨0x400018, [(72, 0x2000)], 0, 32, .ro, 0x0, false⟩,
    ⟨0x400020, [(72, 0x2000), (8, 0x4)], 0, 16, .rw, 0x0, false⟩,
    ⟨0x400020, [(72, 0x2000), (8, 0x4)], 16, 16, .rw, 0x0, false⟩,
    ⟨0x400040, [(72, 0x2000)], 0, 32, .rc, 0x0, false⟩,
    ⟨0x400044, [(72, 0x2000)], 0, 1, .wo, 0x0, false⟩,
    ⟨0x400048, [(72, 0x2000)], 0, 32, .rc, 0x0, false⟩ ]
def core : List RegRow := core0
def gauge0 : List RegRow :=
  [ ⟨0x600000, [], 0, 1, .wo, 0x0, false⟩,
    ⟨0x600000, [], 1, 1, .wo, 0x0, false⟩,
    ⟨0x600004, [], 0, 1, .ro, 0x0, false⟩,
    ⟨0x600008, [], 0, 32, .ro, 0x0, false⟩,
    ⟨0x60000C, [], 0, 32, .ro, 0x0, false⟩,
    ⟨0x600100, [], 0, 1, .rw, 0x0, false⟩,
    ⟨0x600100, [], 1, 1, .rw, 0x1, false⟩,
    ⟨0x600104, [], 0, 16, .rw, 0x0, false⟩,
    ⟨0x600108, [], 0, 32, .rw, 0x0, false⟩,
    ⟨0x60010C, [], 0, 32, .rw, 0x0, false⟩,
    ⟨0x600110, [], 0, 2, .rw, 0x3, false⟩,
    ⟨0x600114, [], 0, 4, .rw, 0x0, false⟩,
    ⟨0x600118, [], 11, 21, .rw, 0x0, false⟩,
    ⟨0x60011C, [], 0, 4, .rw, 0x0, false⟩,
    ⟨0x600120, [], 0, 32, .ro, 0x0, false⟩,
    ⟨0x600124, [], 0, 32, .rw, 0x0, false⟩,
    ⟨0x600128, [], 0, 32, .rc, 0x0, false⟩,
    ⟨0x60012C, [], 0, 32, .wo, 0x0, false⟩,
    ⟨0x600130, [], 0, 16, .rw, 0x0, false⟩,
    ⟨0x600130, [], 16, 8, .rw, 0x0, false⟩,
    ⟨0x600134, [], 0, 16, .rw, 0x0, false⟩,
    ⟨0x600134, [], 16, 8, .rw, 0x0, false⟩,
    ⟨0x600134, [], 24, 5, .rw, 0x0, false⟩,
    ⟨0x600138, [], 0, 3, .w1c, 0x0, false⟩,
    ⟨0x60013C, [], 0, 3, .rw, 0x0, false⟩,
    ⟨0x601000, [(256, 0x10)], 0, 8, .rw, 0x0, true⟩,
    ⟨0x601000, [(256, 0x10)], 8, 5, .rw, 0x0, true⟩,
    ⟨0x601000, [(256, 0x10)], 16, 8, .rw, 0x0, true⟩,
    ⟨0x601000, [(256, 0x10)], 31, 1, .w1c, 0x0, true⟩,
    ⟨0x601004, [(256, 0x10)], 0, 32, .ro, 0x0, false⟩ ]
def gauge1 : List RegRow :=
  [ ⟨0x601008, [(256, 0x10)], 0, 16, .ro, 0x0, false⟩,
    ⟨0x602000, [(256, 0x8)], 0, 32, .ro, 0x0, false⟩,
    ⟨0x602004, [(256, 0x8)], 0, 16, .ro, 0x0, false⟩,
    ⟨0x604000, [(8, 0x200), (32, 0x10)], 0, 8, .rw, 0x0, true⟩,
    ⟨0x604000, [(8, 0x200), (32, 0x10)], 31, 1, .w1c, 0x0, true⟩,
    ⟨0x604004, [(8, 0x200), (32, 0x10)], 0, 32, .ro, 0x0, false⟩,
    ⟨0x604008, [(8, 0x200), (32, 0x10)], 0, 16, .ro, 0x0, false⟩,
    ⟨0x608000, [(64, 0x100), (16, 0x10)], 0, 8, .rw, 0x0, true⟩,
    ⟨0x608000, [(64, 0x100), (16, 0x10)], 8, 2, .rw, 0x0, true⟩,
    ⟨0x608000, [(64, 0x100), (16, 0x10)], 16, 8, .rw, 0x0, true⟩,
    ⟨0x608000, [(64, 0x100), (16, 0x10)], 31, 1, .w1c, 0x0, true⟩,
    ⟨0x608004, [(64, 0x100), (16, 0x10)], 0, 32, .ro, 0x0, false⟩,
    ⟨0x608008, [(64, 0x100), (16, 0x10)], 0, 16, .ro, 0x0, false⟩ ]
def gauge : List RegRow := gauge0 ++ gauge1
def mgmt0 : List RegRow :=
  [ ⟨0x700000, [], 0, 2, .ro, 0x0, false⟩,
    ⟨0x700000, [], 2, 1, .ro, 0x0, false⟩,
    ⟨0x700000, [], 3, 1, .ro, 0x0, false⟩,
    ⟨0x700000, [], 4, 1, .ro, 0x0, false⟩,
    ⟨0x700000, [], 5, 1, .ro, 0x0, false⟩,
    ⟨0x700000, [], 6, 1, .ro, 0x0, false⟩,
    ⟨0x700000, [], 8, 3, .ro, 0x0, false⟩,
    ⟨0x700004, [], 0, 3, .ro, 0x0, false⟩,
    ⟨0x700004, [], 4, 3, .ro, 0x0, false⟩,
    ⟨0x700004, [], 8, 1, .ro, 0x0, false⟩,
    ⟨0x700004, [], 9, 3, .ro, 0x0, false⟩,
    ⟨0x700008, [], 0, 10, .ro, 0x0, false⟩,
    ⟨0x700008, [], 16, 10, .ro, 0x0, false⟩,
    ⟨0x70000C, [], 0, 32, .ro, 0x0, false⟩,
    ⟨0x700010, [], 0, 4, .ro, 0x0, false⟩,
    ⟨0x700010, [], 4, 4, .ro, 0x0, false⟩,
    ⟨0x700010, [], 8, 4, .ro, 0x0, false⟩,
    ⟨0x700020, [(8, 0x4)], 0, 32, .ro, 0x0, false⟩,
    ⟨0x700040, [(8, 0x4)], 0, 32, .ro, 0x0, false⟩,
    ⟨0x700060, [(8, 0x4)], 0, 32, .ro, 0x0, false⟩,
    ⟨0x700080, [(8, 0x4)], 0, 32, .ro, 0x0, false⟩,
    ⟨0x7000A0, [], 0, 4, .w1c, 0x0, false⟩,
    ⟨0x7000A4, [], 0, 4, .rw, 0x0, false⟩ ]
def mgmt : List RegRow := mgmt0
def hdw0 : List RegRow :=
  [ ⟨0x780000, [], 0, 1, .rw, 0x0, false⟩,
    ⟨0x780000, [], 1, 1, .rw, 0x1, false⟩,
    ⟨0x780000, [], 2, 1, .rw, 0x0, false⟩,
    ⟨0x780000, [], 3, 1, .rw, 0x0, false⟩,
    ⟨0x780004, [], 0, 16, .rw, 0x0, false⟩,
    ⟨0x780004, [], 16, 16, .rw, 0x0, false⟩,
    ⟨0x780008, [], 0, 25, .rw, 0x10000, false⟩,
    ⟨0x78000C, [], 0, 1, .wo, 0x0, false⟩,
    ⟨0x78000C, [], 1, 1, .rw, 0x0, false⟩,
    ⟨0x780010, [], 0, 1, .ro, 0x0, false⟩,
    ⟨0x780010, [], 1, 1, .ro, 0x0, false⟩,
    ⟨0x780010, [], 2, 1, .w1c, 0x0, false⟩,
    ⟨0x780010, [], 3, 1, .ro, 0x0, false⟩,
    ⟨0x780010, [], 4, 3, .ro, 0x0, false⟩,
    ⟨0x780010, [], 16, 16, .ro, 0x0, false⟩,
    ⟨0x780014, [], 0, 32, .ro, 0x0, false⟩,
    ⟨0x780018, [(2, 0x4)], 0, 22, .rw, 0x0, false⟩,
    ⟨0x780020, [], 0, 1, .ro, 0x0, false⟩,
    ⟨0x780020, [], 8, 7, .ro, 0x0, false⟩,
    ⟨0x780020, [], 16, 4, .ro, 0x0, false⟩,
    ⟨0x780024, [], 0, 6, .ro, 0x0, false⟩,
    ⟨0x780024, [], 8, 2, .ro, 0x0, false⟩,
    ⟨0x780024, [], 16, 1, .rw, 0x0, false⟩,
    ⟨0x780028, [], 0, 32, .ro, 0x0, false⟩,
    ⟨0x78002C, [], 0, 32, .ro, 0x0, false⟩,
    ⟨0x780030, [], 0, 32, .ro, 0x0, false⟩,
    ⟨0x780040, [(8, 0x4)], 0, 32, .ro, 0x0, false⟩,
    ⟨0x780060, [], 0, 1, .rw, 0x0, false⟩,
    ⟨0x780060, [], 1, 6, .rw, 0x1f, false⟩,
    ⟨0x780060, [], 8, 6, .rw, 0x0, false⟩ ]
def hdw1 : List RegRow :=
  [ ⟨0x780060, [], 16, 4, .rw, 0x0, false⟩,
    ⟨0x780060, [], 20, 12, .rw, 0x0, false⟩,
    ⟨0x780064, [], 0, 32, .rw, 0x0, false⟩,
    ⟨0x780068, [], 0, 32, .rw, 0x0, false⟩,
    ⟨0x78006C, [], 11, 21, .rw, 0x0, false⟩,
    ⟨0x780070, [], 0, 4, .rw, 0x0, false⟩,
    ⟨0x780074, [], 0, 9, .rw, 0x10, false⟩,
    ⟨0x780078, [], 0, 32, .ro, 0x0, false⟩,
    ⟨0x78007C, [], 0, 32, .ro, 0x0, false⟩,
    ⟨0x780080, [], 0, 32, .rc, 0x0, false⟩,
    ⟨0x780084, [], 0, 32, .rc, 0x0, false⟩,
    ⟨0x780088, [], 0, 4, .w1c, 0x0, false⟩,
    ⟨0x78008C, [], 0, 4, .rw, 0x0, false⟩ ]
def hdw : List RegRow := hdw0 ++ hdw1
def bar20 : List RegRow :=
  [ ⟨0x1000000, [(64, 0x40)], 0, 32, .rw, 0x0, true⟩,
    ⟨0x1001000, [(64, 0x40)], 0, 32, .rw, 0x0, true⟩,
    ⟨0x1002000, [(16, 0x40)], 0, 32, .rw, 0x0, true⟩,
    ⟨0x1008000, [(64, 0x10)], 0, 32, .rw, 0x0, false⟩,
    ⟨0x1008004, [(64, 0x10)], 0, 32, .rw, 0x0, false⟩,
    ⟨0x1008008, [(64, 0x10)], 0, 32, .rw, 0x0, false⟩,
    ⟨0x100800C, [(64, 0x10)], 0, 1, .rw, 0x1, true⟩ ]
def bar2 : List RegRow := bar20

end RegTab

/-- The rows of the register tables that may stand at an address. -/
def regRowsNear (a : Nat) : List RegRow :=
  if a < 0x10000 then RegTab.dev
  else if a < 0x20000 then RegTab.hif
  else if a < 0x30000 then RegTab.pm
  else if a < 0x40000 then RegTab.clk
  else if a < 0x50000 then RegTab.lane
  else if a < 0x60000 then RegTab.cxp
  else if a < 0x80000 then RegTab.ifl
  else if a < 0x90000 then RegTab.pipe
  else if a < 0xC0000 then RegTab.ctx
  else if a < 0xD0000 then RegTab.time
  else if a < 0xE0000 then RegTab.eth
  else if a < 0xE1000 then RegTab.fldh
  else if a < 0x100000 then RegTab.fld
  else if a < 0x200000 then RegTab.mem
  else if a < 0x400000 then RegTab.lsc
  else if a < 0x600000 then RegTab.core
  else if a < 0x700000 then RegTab.gauge
  else if a < 0x780000 then RegTab.mgmt
  else if a < 0x1000000 then RegTab.hdw
  else if a < 0x2000000 then RegTab.bar2
  else []

/-- Is the offset `o` one of the instances that the counts and strides lay out? -/
def dimsHit : List (Nat × Nat) → Nat → Bool
  | [], o => o == 0
  | (n, s) :: t, o => o / s < n && dimsHit t (o % s)

/-- Does an instance of the row stand at the word `a`? -/
def RegRow.hit (r : RegRow) (a : Nat) : Bool := r.base ≤ a && dimsHit r.dims (a - r.base)

/-- The rows (fields) of the register at `a`: none where no chapter assigns the address (R8). -/
def regRows (a : Nat) : List RegRow := (regRowsNear a).filter (fun r => r.hit a)

end Sys2Proof
end

