-- ==== Sys2Proof/Machine/Regs.lean ====
section
/-! DEFINITION. The register file: words by address, an unlisted word reading as its reset value (R4), and the fields of a
word. -/

namespace Sys2Proof

/-- A register file. -/
abbrev RegFile := SMap Word

/-- Reset values the register tables give by position: the equalizer enable of a chain lane (R46), the REFRESH slots of an
HBM table (R204). -/
def specialReset (a : Nat) : Nat :=
  if 0x40000 ≤ a && a < 0x43000 then
    (if (a - 0x40000) % 0x100 == 0 && 16 ≤ (a - 0x40000) / 0x100 % 24 then 1 else 0)
  else if 0x108000 ≤ a && a < 0x110000 then
    (let o := (a - 0x108000) % 0x400 / 4
     if o == 0 || o == 52 || o == 104 || o == 156 || o == 208 then 2 else 0)
  else 0

/-- The reset value of the word at `a`: the reset values of its fields (R4), 0 where no chapter assigns it (R8). DEDUCED
(log entry 56). -/
def resetWord (a : Nat) : Word :=
  BitVec.ofNat 32 ((regRowsNear a).foldl
    (fun acc r => if r.rv != 0 && r.hit a then acc + r.rv * 2 ^ r.lo else acc) (specialReset a))

def RegFile.word (rs : RegFile) (a : Nat) : Word := SMap.get resetWord rs a
def RegFile.setWord (rs : RegFile) (a : Nat) (v : Word) : RegFile := SMap.set resetWord rs a v
abbrev RegFile.wf (rs : RegFile) : Bool := SMap.wf resetWord rs

/-- The bits of a field in a word. -/
def RF.mask (f : RF) : Word := BitVec.ofNat 32 ((2 ^ f.w - 1) * 2 ^ f.lo)

/-- Reads a field of a word. -/
def RF.ofWord (f : RF) (x : Word) : Nat := x.toNat / 2 ^ f.lo % 2 ^ f.w

/-- Replaces a field of a word. -/
def RF.inWord (f : RF) (x : Word) (v : Nat) : Word :=
  (x &&& ~~~ f.mask) ||| BitVec.ofNat 32 (v % 2 ^ f.w * 2 ^ f.lo)

def RegFile.get (rs : RegFile) (f : RF) : Nat := f.ofWord (rs.word f.addr)
def RegFile.set (rs : RegFile) (f : RF) (v : Nat) : RegFile := rs.setWord f.addr (f.inWord (rs.word f.addr) v)

/-- A write of a whole word under the access codes of its fields (R5): RW takes the value, W1C clears and W1S sets where a 1 is
written, RO, WO and RC keep theirs. Fields whose write has a command row of their own (`own`) are kept when `keepOwn`. -/
def RegFile.accWrite (rs : RegFile) (a : Nat) (v : Word) (keepOwn : Bool) : RegFile :=
  let old := rs.word a
  let new := (regRows a).foldl (fun w r =>
    if keepOwn && r.own then w
    else
      let m : Word := BitVec.ofNat 32 ((2 ^ r.w - 1) * 2 ^ r.lo)
      match r.acc with
      | .rw => (w &&& ~~~ m) ||| (v &&& m)
      | .w1c => w &&& ~~~ (v &&& m)
      | .w1s => w ||| (v &&& m)
      | _ => w) old
  rs.setWord a new

/-- What a read of a word returns: WO fields read 0 (R5). -/
def RegFile.readVal (rs : RegFile) (a : Nat) : Word :=
  (regRows a).foldl (fun w r => match r.acc with
    | .wo => w
    | _ => w ||| (rs.word a &&& BitVec.ofNat 32 ((2 ^ r.w - 1) * 2 ^ r.lo))) 0

/-- A read clears the RC fields of the word (R5). -/
def RegFile.clearRC (rs : RegFile) (a : Nat) : RegFile :=
  let new := (regRows a).foldl (fun w r => match r.acc with
    | .rc => w &&& ~~~ (BitVec.ofNat 32 ((2 ^ r.w - 1) * 2 ^ r.lo))
    | _ => w) (rs.word a)
  rs.setWord a new

/-- A register word whose reset value is 0, without the table lookup. -/
def RegFile.raw (rs : RegFile) (a : Nat) : Nat := (SMap.get (fun _ => (0 : Word)) rs a).toNat

/-- The words from `lo` up to `hi` go back to their reset values. -/
def RegFile.dropRange (rs : RegFile) (lo hi : Nat) : RegFile := rs.filter fun e => !(lo ≤ e.1 && e.1 < hi)

/-- Register words from `lo` up to `hi`, by offset. -/
def RegFile.grab (rs : RegFile) (lo hi : Nat) : SMap Word :=
  rs.filterMap fun x => if lo ≤ x.1 && x.1 < hi then some (x.1 - lo, x.2) else none
/-- Puts words taken by `grab` at `lo`, the others up to `hi` at their reset values. -/
def RegFile.restore (rs : RegFile) (lo hi : Nat) (m : SMap Word) : RegFile :=
  m.foldl (fun rs x => rs.setWord (lo + x.1) x.2) (rs.dropRange lo hi)

/-- Is an enabled bit set in one of `n` status words at `a` with enables at `b`, both repeating every `stride`? -/
def RegFile.anyInt (rs : RegFile) (n a b stride : Nat) : Bool :=
  (List.range n).any (fun i => rs.raw (a + i * stride) &&& rs.raw (b + i * stride) != 0)

/-- The asserted summaries of R347, one bit each. MEM has no enables: its sticky error bits count as enabled (log entry 12). -/
def RegFile.summaries (rs : RegFile) : Nat :=
  let pair (n a b stride : Nat) := b2n (rs.anyInt n a b stride)
  pair 16 0x50050 0x50054 0x400
  + 2 * b2n ((List.range 128).any fun x => rs.raw (0x90008 + x * 0x400) &&& rs.raw (0x9000C + x * 0x400) &&& 0x7FC != 0)
  + 4 * pair 8 0x60018 0x6001C 0x2000
  + 8 * pair 1 0xC0048 0xC004C 0
  + 16 * pair 2 0xD0054 0xD0058 0x1000
  + 32 * pair 1 0x824 0x828 0
  + 64 * b2n (rs.raw 0x100020 % 32 != 0 || rs.raw 0x100048 / 512 % 2 != 0 || rs.raw 0x100058 / 512 % 2 != 0)
  + 128 * b2n (rs.raw 0xE0008 &&& rs.raw 0xE000C &&& 0x1E0 != 0)
  + 256 * pair 1 0x200E0 0x200E4 0
  + 512 * pair 1 0x7000A0 0x7000A4 0
  + 1024 * pair 1 0x780088 0x78008C 0
  + 2048 * pair 1 0x600138 0x60013C 0
  + 4096 * b2n (rs.raw 0x10000 % 2 != 0 || rs.raw 0x10004 != 0 || rs.raw 0x10008 != 0)

/-- Counters of a window of configuration words that count event `ev` (and unit `unit`, where the word has one). -/
def RegFile.counting (rs : RegFile) (lo hi ev : Nat) (unit : Option Nat) : List Nat :=
  rs.filterMap fun (a, w) =>
    if lo ≤ a && a < hi && a % 16 == 0 && w.toNat % 256 == ev
        && (match unit with | some u => w.toNat / 256 % 32 == u | none => true)
    then some ((a - lo) / 16) else none

end Sys2Proof
end

