-- ==== Sys2Proof/Machine/Wire.lean ====
section
/-! DEFINITION. What a serial lane carries, bit by bit: the pseudo-random patterns of the generators and checkers (R38, R39),
the scrambler of Ifepen data words (R68) and run-length stuffing (R69). -/

namespace Sys2Proof

/-- The low `n` bits of a word in wire order, least significant first (R66). -/
def wordBits : Nat → Nat → List Bool
  | 0, _ => []
  | n + 1, w => (w % 2 == 1) :: wordBits n (w / 2)

/-- The word that bits in wire order spell (R66). -/
def bitsNat : List Bool → Nat
  | [] => 0
  | b :: t => b2n b + 2 * bitsNat t

/-! ### Run-length stuffing (R69) -/

/-- A run of equal bits on a wire: the bit, and how many of it so far. -/
structure Run where
  last : Bool := false
  len : Nat := 0
deriving DecidableEq, Repr

/-- One more bit on the wire. -/
def Run.push (r : Run) (b : Bool) : Run :=
  if r.len != 0 && r.last == b then { r with len := r.len + 1 } else { last := b, len := 1 }

/-- What goes out for a stream of bits: after 40 equal bits a bit of the other value, which starts a new run (R69). -/
def stuff : Run → List Bool → List Bool × Run
  | r, [] => ([], r)
  | r, b :: t =>
    if (r.push b).len = 40 then (b :: (!b) :: (stuff { last := !b, len := 1 } t).1, (stuff { last := !b, len := 1 } t).2)
    else (b :: (stuff (r.push b) t).1, (stuff (r.push b) t).2)

/-- What a stream from the wire holds: the bit after 40 equal bits is deleted; one that equals them is a violation and is counted
(R69). It starts a new run either way. DEDUCED (log entry 28). -/
def unstuff : Run → List Bool → List Bool × Nat × Run
  | r, [] => ([], 0, r)
  | r, b :: t =>
    if r.len = 40 then
      ((unstuff { last := b, len := 1 } t).1, (unstuff { last := b, len := 1 } t).2.1 + b2n (b == r.last),
        (unstuff { last := b, len := 1 } t).2.2)
    else (b :: (unstuff (r.push b) t).1, (unstuff (r.push b) t).2)

/-! ### The scrambler (R68) -/

/-- The scrambler's next bit: st[57] xor st[38]. -/
def scrBit (st : Nat) : Bool := bit st 57 != bit st 38
/-- The scrambler after one bit. -/
def scrNext (st : Nat) : Nat := (2 * st + b2n (scrBit st)) % 2 ^ 58

/-- A stream of data bits scrambled from state `st`, and the state after it; the receiver descrambles with the same sequence, so
the same function serves both ends (R68). -/
def scrambleBits : Nat → List Bool → List Bool × Nat
  | st, [] => ([], st)
  | st, d :: t => ((d != scrBit st) :: (scrambleBits (scrNext st) t).1, (scrambleBits (scrNext st) t).2)

/-- Seed of the scrambler on port lane `i` (R68). -/
def scrSeed (i : Nat) : Nat := if i = 0 then 0x3FFFFFFFFFFFFFF else 0x155555555555555

/-! ### Pseudo-random patterns (R38) -/

/-- Exponents of the polynomial x^n + x^m + 1 of a pattern (R38). -/
def prbsTaps : Nat → Nat × Nat
  | 0 => (7, 6)
  | 1 => (15, 14)
  | 2 => (23, 18)
  | _ => (31, 28)

/-- The next bit of a pattern whose last bits are `st`, the newest in bit 0. -/
def prbsBit (pat st : Nat) : Bool := bit st ((prbsTaps pat).1 - 1) != bit st ((prbsTaps pat).2 - 1)
/-- The last bits after one more bit. -/
def prbsPush (pat st : Nat) (b : Bool) : Nat := (2 * st + b2n b) % 2 ^ (prbsTaps pat).1
def prbsNext (pat st : Nat) : Nat := prbsPush pat st (prbsBit pat st)

/-- The next `n` bits of a pattern, and its last bits after them. -/
def prbsBits (pat : Nat) : Nat → Nat → List Bool × Nat
  | 0, st => ([], st)
  | n + 1, st => (prbsBit pat st :: (prbsBits pat n (prbsNext pat st)).1, (prbsBits pat n (prbsNext pat st)).2)

/-- A pattern's last bits after `n` more. -/
def prbsSkip (pat : Nat) : Nat → Nat → Nat
  | 0, st => st
  | n + 1, st => prbsSkip pat n (prbsNext pat st)

/-- The last bits a stream leaves. -/
def prbsLast (pat : Nat) (l : List Bool) : Nat := l.foldl (prbsPush pat) 0

/-- Is a stream a piece of the pattern: every bit after its first n follows from those before it, which are not all zero (R38)? -/
def prbsPiece (pat : Nat) (l : List Bool) : Bool :=
  let n := (prbsTaps pat).1
  prbsLast pat (l.take n) != 0 && (prbsBits pat (l.length - n) (prbsLast pat (l.take n))).1 == l.drop n

/-- Bits of a stream that differ from the pattern continued from `st` (R39). -/
def prbsErrors (pat : Nat) : Nat → List Bool → Nat
  | _, [] => 0
  | st, b :: t => b2n (b != prbsBit pat st) + prbsErrors pat (prbsNext pat st) t

end Sys2Proof
end

