-- ==== Sys2Proof/Machine/Types.lean ====
section
/-! DEFINITION. The pieces of state that the rules imply beside the registers: queues, buffers, counters and modes of each
unit, as plain data. Registers themselves are words of the register file (RegMap). -/

namespace Sys2Proof.Machine
open Sys2Proof

/-- The three products of R2. DESIGN CHOICE (log entry 2). -/
inductive Variant where
  | km7_110 | km7_120 | km7_220
deriving DecidableEq, Repr

/-- One entry of the error log (R449). -/
structure LogEntry where
  /-- Tick counter at detection. -/
  tick : Nat := 0
  /-- Log code of R448. -/
  code : Nat := 0
  /-- The unit the source rule names. -/
  unit : Nat := 0
  /-- The source's own cause or status. -/
  detail : Nat := 0
  /-- Failing address, or 0. -/
  addr : Nat := 0
  /-- Commit sequence in force. -/
  cseq : Nat := 0
  /-- Low 32 bits of the affected item's sequence number, or 0. -/
  seq : Nat := 0
deriving DecidableEq, Repr

/-- The power controller and the error log beside their registers (16). DEDUCED (log entry 52). -/
structure Pm where
  /-- Error log ring: slot to entry (R449). -/
  log : SMap LogEntry := []
  /-- Tick of the last class 1 entry per code × 256 + unit (R448). -/
  ceSeen : SMap Nat := []
  /-- Clusters whose exit from a sleep state is in progress (R437). -/
  waking : List Nat := []
  /-- Both compute dies are off (R446). -/
  dieOff : Bool := false
  /-- A trip condition is present (R446). -/
  tripNow : Bool := false
  /-- A core voltage lies below VFLOOR − 30 mV (R443, R446). -/
  underVolt : Bool := false
  /-- UNDECIDED verdicts in the 1 s window so far (R454). -/
  undecWin : Nat := 0
  /-- Highest compute or I/O die reading of the last 100 µs sample, °C (R445). -/
  hotDie : Nat := 0
  /-- Highest HBM stack reading of the last sample, °C (R445). -/
  hotHbm : Nat := 0
  /-- Voltage request of each compute die's rail, mV (R443, R502). -/
  avsReq : SMap Nat := []
  /-- Current of each rail as last read, in units of 10 mA (R501, R502). -/
  avsCur : SMap Nat := []
  /-- Voltage, in mV, and status of each rail as last read (R501). -/
  avsVolt : SMap Nat := []
  avsStatus : SMap Nat := []
  /-- Register writes that wait for a sleeping cluster: cluster, address, value, in order (R440). -/
  writes : List (Nat × Nat × Word) := []
  /-- RESUME has been taken: the compute dies run their self-test (R446). -/
  resuming : Bool := false
  /-- Tick at which the host-side reset in force last met a cause (R425), and whether READY and the management watchdog stood before
  it. -/
  resetAt : Option Nat := none
  resetReady : Bool := false
  resetWdog : Bool := false
deriving DecidableEq, Repr

/-- How a descriptor ended: STATUS, DETAIL and RESULT of R330. -/
structure Fin where
  status : Nat := 0
  detail : Nat := 0
  result : Nat := 0
deriving DecidableEq, Repr

/-- The KIND 1 completion of a received Ethernet frame (R329). -/
structure EthFin where
  /-- Stamp fraction, 2^-16 ns. -/
  frac : Nat := 0
  /-- Frame bytes without FCS. -/
  length : Nat := 0
  /-- TB0 stamp in nanoseconds. -/
  ns : Nat := 0
deriving DecidableEq, Repr

/-- A descriptor that an engine has fetched and started and whose completion is not yet written (R327). -/
structure Started where
  /-- Position in the queue, counted from enable. -/
  idx : Nat := 0
  /-- Its 64 bytes as fetched (R331). -/
  desc : List Byte := []
  /-- How it ended, once it has. -/
  fin : Option Fin := none
  /-- Ethernet receive completion (KIND 1). -/
  eth : Option EthFin := none
  /-- Bytes done so far by a COPY or FILL, or the piece in progress. -/
  prog : Nat := 0
  /-- Told to stop after its current piece (R328). -/
  abort : Bool := false
  /-- Taken over by management, a job table, the port or Headwater: it ends when they say so. -/
  accepted : Bool := false
  /-- Identity given on acceptance (job, commit, sample). -/
  handle : Nat := 0
  /-- Its place in the order in which engines started descriptors (R327, R381, R473). -/
  ord : Nat := 0
deriving DecidableEq, Repr

/-- One record of 128 bytes waiting for its ring (R342, R344). -/
structure HeldRec where
  /-- The 128 bytes, PHASE still 0. -/
  bytes : List Byte := []
  /-- Its ring position (R229). -/
  pos : Nat := 0
  /-- A gap record to publish before it: lost records, position of the first, SEQ of the first lost verdict (R344). -/
  gap : Option (Nat × Nat × Nat) := none
deriving DecidableEq, Repr

/-- A result ring beside its registers (R342 to R344, R226, R227). -/
structure Ring where
  /-- Holding buffer, oldest first, at most 1,024. -/
  held : List HeldRec := []
  /-- Ring positions given so far, published or lost (R229). -/
  produced : Nat := 0
  /-- Records lost so far, modulo 2^32 (R346). -/
  lostAll : Nat := 0
  /-- Records lost since the last publication. -/
  lossRun : Nat := 0
  /-- Ring position of the first of them. -/
  lossPos : Nat := 0
  /-- SEQ of the first lost verdict record among them, or 0. -/
  lossSeq : Nat := 0
  /-- Ring positions and record digests gathered for the next seal, oldest first (R227). -/
  leaves : List (Nat × List Byte) := []
  /-- Tick at which the previous seal of the ring began, or SEAL_EN was set (R227). -/
  sealTick : Nat := 0
  /-- Seals written so far. -/
  sealNum : Nat := 0
  /-- Digest of the previous seal's message (R229); 32 zero bytes before the first. -/
  prevSeal : List Byte := []
  /-- The message of the seal that is being signed, over the oldest leaves (R229, R230). -/
  sealBody : Option (List Byte) := none
deriving DecidableEq, Repr

/-- One MSI-X vector (R348). -/
structure Vec where
  /-- Signals gathered and not yet sent. -/
  gathered : Nat := 0
  /-- Messages sent since reset. -/
  sent : Nat := 0
  /-- Pending bit. -/
  pend : Bool := false
deriving DecidableEq, Repr

/-- A trace record waiting in a trace buffer (R410, R411): its 32 bytes. -/
structure TraceBuf where
  /-- Records, oldest first, at most 256. -/
  recs : List (List Byte) := []
  /-- Records dropped since the buffer last had room. -/
  dropped : Nat := 0
  /-- TICK of the first of them. -/
  dropTick : Nat := 0
deriving DecidableEq, Repr

/-- Gauge beside its registers (14). -/
structure Gauge where
  /-- Trace buffers: clusters 0-7, then I/O dies as 8 and 9 (R411). -/
  bufs : SMap TraceBuf := []
  /-- Granules in the token bucket, 0 to 64 (R412). -/
  bucket : Nat := 64
  /-- A snapshot is requested and waits for the realignment boundary (R408). -/
  snapReq : Bool := false
  /-- Tick of that request, and the counters as they stood before a CLEAR_ALL of the same cycle (R408). -/
  snapTick : Nat := 0
  snapVals : Option (List Nat) := none
  /-- Records of events that are still to enter their buffer: buffer, TICK and bytes, oldest first (R410, R411). -/
  due : List (Nat × Nat × List Byte) := []
  /-- EV_SEQ per Ifepen port (R414). -/
  evSeq : SMap Nat := []
deriving DecidableEq, Repr

/-- A memory with tile checksums (R178): its bytes, the stored checksum of each tile and the tiles whose poison bit is set. A tile
that `sums` does not list has the CRC-32C of its bytes as its stored checksum (Store.sum). DESIGN CHOICE (log entry 6). -/
structure Store where
  /-- Bytes by offset. -/
  mem : Mem := []
  /-- Stored checksums that differ from the CRC-32C of their tile's bytes, by tile (offset / 2,048). -/
  sums : SMap Nat := []
  /-- Poisoned tiles, ascending. -/
  poison : List Nat := []
deriving DecidableEq, Repr

/-- Accumulator type of a bank (R116). -/
inductive AccTy where
  | untyped | i32 | fp32
deriving DecidableEq, Repr

/-- One accumulator bank: 32 × 64 entries of 32 bits, entry (r, n) at key 64 r + n; unlisted entries are zero (R116). -/
structure AccBank where
  ty : AccTy := .untyped
  acc : SMap Nat := []
deriving DecidableEq, Repr

/-- A fetched tile of a command list (R523): the bytes as the fetch found them. -/
structure TileCopy where
  /-- Space coded as for CALL (R122). -/
  space : Nat := 0
  /-- Byte address of the tile. -/
  addr : Nat := 0
  /-- Its bytes by address. -/
  data : Mem := []
  /-- The fetch failed its check (R180). -/
  bad : Bool := false
deriving DecidableEq, Repr

/-- A command that has issued to a unit and whose last result is not yet written (R113, R119, R120). -/
structure Flight where
  /-- 0 the sequencer, 1 the matrix unit, 2 the drain path, 3 the vector unit (R113). -/
  unit : Nat := 0
  /-- Bank it accumulates into (R116). -/
  bank : Option Nat := none
  /-- Token it increments (R120). -/
  sig : Option Nat := none
  /-- What it writes into the scratchpad, byte address and bytes in order. -/
  writes : List (Nat × List Byte) := []
  /-- Conditions of R130 that it met, as bits of CORE_FLAGS. -/
  flags : Nat := 0
deriving DecidableEq, Repr

/-- A list in progress on a core (R117, R122). -/
structure Frame where
  space : Nat := 0
  /-- Address of the header. -/
  hdr : Nat := 0
  /-- Commands issued from this list so far. -/
  pos : Nat := 0
  /-- COUNT of the header. -/
  count : Nat := 0
  /-- MODE of the header: timed. -/
  timed : Bool := false
deriving DecidableEq, Repr

/-- A transfer of a core's transfer port that has issued and not yet completed (R123, R196). -/
structure Xfer where
  /-- true for LOAD. -/
  load : Bool := true
  space : Nat := 0
  rif : Nat := 0
  peer : Nat := 0
  /-- Scratchpad byte address. -/
  spa : Nat := 0
  far : Nat := 0
  /-- Granules of uncompressed data. -/
  len : Nat := 0
  sig : Option Nat := none
  dsig : Option Nat := none
  /-- Issued by a timed list. -/
  timed : Bool := false
  /-- Granules moved so far through each Sluice table of the path (R190). -/
  moved : SMap Nat := []
  /-- It will complete as a failed transfer: a crossing buffer dropped granules of it (R190), or the tile a counter STORE reads had
  failed (R405). -/
  dropped : Bool := false
  /-- Granules of it that the crossing buffer before each table dropped (R190). -/
  drops : SMap Nat := []
  /-- Opcode, for CORE_ERR.OP. -/
  op : Nat := 1
  /-- A control-address STORE whose effect has been taken (R158, R159). -/
  took : Bool := false
  /-- The 16 counter values sampled when a counter LOAD issued, or the bytes of a counter STORE (R405). -/
  bytes : List Byte := []
  /-- Parked in an Oxbow entry (R368). -/
  parked : Bool := false
  /-- What the U8 windows said of its start address when it was parked (R170, R369). -/
  u8 : Option Bool := none
  /-- Its first piece, part of which arrived while it was parked, has failed its check (R181). -/
  bad0 : Bool := false
  /-- Its Ifepen port has gone down under it (R76). -/
  down : Bool := false
deriving DecidableEq, Repr

/-- A core site beside its registers (04). Registers of a site are in the register file. -/
structure CoreSt where
  /-- Scratchpad (R114). -/
  spad : Store := {}
  bank0 : AccBank := {}
  bank1 : AccBank := {}
  /-- Lists in progress, the innermost first; empty in IDLE (R122). -/
  frames : List Frame := []
  /-- Tile the sequencer issues from. -/
  cur : Option TileCopy := none
  /-- Tile fetched one ahead (R523). -/
  ahead : Option TileCopy := none
  /-- What the Sluice tables have moved of the tile that a timed list's fetcher waits for (R189, R190). -/
  fetch : Xfer := {}
  /-- Transfers outstanding, in issue order. -/
  xfers : List Xfer := []
  /-- Commands issued whose last result is still to be written, in issue order (R113). -/
  flights : List Flight := []
  /-- Token and value a free-mode WAIT waits for, and the token it then increments itself (R120). -/
  waiting : Option (Nat × Nat × Option Nat) := none
  /-- Missing-input marks since the last VERDICT: cause 1 (R121). -/
  miss1 : Bool := false
  /-- Missing-input marks since the last VERDICT: cause 3 (R121). -/
  miss3 : Bool := false
  /-- Tokens whose awaited transfer failed under R182 (R121). -/
  failTok : List Nat := []
  /-- CORE cycles since the last YIELD, as the core measures them (R139). -/
  sinceYield : Nat := 0
  /-- A pre-emption of its job is pending (R364). -/
  preempt : Bool := false
  /-- Job that owns the core, if any: JOB_ID (R404). -/
  job : Option Nat := none
  /-- Identity of the recipe whose list it runs (R24); 0 none. -/
  recipe : Nat := 0
  /-- Tiles of the scratchpad written since the last save or restore (R366). -/
  dirty : List Nat := []
  /-- CORE cycles for which the commands issued still occupy the M, the D and the V unit (R119, R402). -/
  busyM : Nat := 0
  busyD : Nat := 0
  busyV : Nat := 0
  /-- CORE cycles that the present free-mode WAIT has waited (R402, R410). -/
  waited : Nat := 0
deriving DecidableEq, Repr

/-- A stripe channel beside its registers (R157 to R162). -/
structure Lsc where
  /-- Posts since enable. -/
  posts : Nat := 0
  /-- Slots freed since enable. -/
  frees : Nat := 0
  /-- Releases made so far by each consumer j. -/
  rel : SMap Nat := []
  /-- Posts of a pipe producer whose effect is still to come (R158): the count of each stripe's first line. -/
  pipePosts : List Nat := []
  /-- RDY_TOK increments still to be signalled (16 CORE cycles after a post). -/
  rdyDue : Nat := 0
  /-- FREE_TOK increments still to be signalled. -/
  freeDue : Nat := 0
  /-- Frees a pipe producer has not yet learned of (R159). -/
  pipeDue : Nat := 0
  /-- Frees a pipe producer has learned of since enable (R159). -/
  pipeKnown : Nat := 0
deriving DecidableEq, Repr

/-- A Sluice table's arbiter and refresh engine beside its registers (R190 to R200). -/
structure SluArb where
  /-- Requester that is first in the round robin (R197); the Sluice port of cluster 0 after reset (R201). -/
  first : Nat := 0
  /-- Holder of the grant in use. -/
  holder : Option Nat := none
  /-- Granules the grant has moved (R199). -/
  moved : Nat := 0
  /-- Holder of a revoked grant, granted again first (R200). -/
  revoked : Option Nat := none
  /-- Refreshes served in this period (R191). -/
  served : Nat := 0
  /-- The emergency requester asks for the next open slot or cycle (R200). -/
  emerg : Bool := false
  /-- The pending swap was committed too late for the next boundary (R192). -/
  late : Bool := false
  /-- The pending swap was made by the schedule loader (R193 cause 5, R195). -/
  byLoader : Bool := false
  /-- Granules that Gauge trace has moved through the table in its grants and not yet written (R411, R412). -/
  traced : Nat := 0
deriving DecidableEq, Repr

/-- An item that is open or closed and not yet released, or released and still an open window (R22 to R24, R214). -/
structure Item where
  /-- Sequence number (R23). -/
  seq : Nat := 0
  /-- 0 line window, 1 input window, 2 region (R22). -/
  kind : Nat := 0
  /-- Opening count, 32 bits. -/
  openCount : Nat := 0
  /-- Closing count, once closed. -/
  close : Option Nat := none
  /-- Ticks of the trigger source left until a window closes. -/
  left : Nat := 0
  /-- Commit sequence in force at opening. -/
  cseqOpen : Nat := 0
  /-- Identity of the recipe bound to the item (R24). -/
  recipe : Nat := 0
  /-- Cause with which the item is to be released UNDECIDED (R214); 0 none. -/
  forced : Nat := 0
  /-- A VERDICT has judged it: the block's bytes when its read passed, and the cause its core gathered (R121, R340). -/
  judged : Option (Option (List Byte) × Nat) := none
  /-- First and last line index where the item names lines: a region, or a gap window of a region recipe (R221, R340). -/
  lines : Option (Nat × Nat) := none
  /-- Gap window of a region recipe (R340). -/
  gap : Bool := false
  /-- Tick counter at which its closing line arrived, once it has (R26). -/
  closeTick : Option Nat := none
  /-- Its verdict has been released; the window is still open (R22). -/
  released : Bool := false
deriving DecidableEq, Repr

/-- One line digest kept by a context's line-digest store (R220, R222). -/
structure LineDig where
  /-- Line index since enable. -/
  idx : Nat := 0
  /-- The line's count. -/
  count : Nat := 0
  /-- Tick counter at its arrival. -/
  tick : Nat := 0
  /-- Missing line (R93). -/
  missing : Bool := false
  /-- Missing or fill line, or a line of a dropped stripe: cause 2 of an item that contains it (R28, R93, R95). -/
  bad : Bool := false
  /-- Its 32 bytes; none until LINE_DIGEST_DONE. -/
  dig : Option (List Byte) := none
  /-- The raw bytes hashed, until the digest completes. -/
  raw : List Byte := []
deriving DecidableEq, Repr

/-- A recipe slot's content (R337, R338). -/
structure Recipe where
  /-- Identity of this load, counted from 1. -/
  id : Nat := 0
  /-- The 1,024-byte header. -/
  hdr : List Byte := []
  /-- Segments of kinds 1 to 5 kept by the loader: kind, unit, destination, bytes. -/
  segs : List (Nat × Nat × Nat × List Byte) := []
  /-- HBM ranges its kind 0 segments fill: far address, length. -/
  hbm : List (Nat × Nat) := []
deriving DecidableEq, Repr

/-- A commit point accepted and not yet in force (R16), with the descriptor that asked for it (queue, index). -/
inductive Commit where
  /-- Arm the recipe of a slot (R339). -/
  | recipe (slot : Nat) (image : Recipe) (by_ : Option (Nat × Nat))
  /-- Disarm the armed recipe (R339, R445). -/
  | disarm (by_ : Option (Nat × Nat))
  /-- Assign clusters to a partition (R356). -/
  | partition (part clusters sliceUs : Nat) (by_ : Option (Nat × Nat))
  /-- Change the unit map of a cluster: its logical ID at `pos` moves to the spare, or with `pos` 15 none moves (R213, R217). -/
  | moveId (cluster pos : Nat)
  /-- Re-arm after a spare has been loaded (R213). -/
  | rearm
deriving DecidableEq, Repr

/-- An ejection entry the host side has sent and has no report of yet (R277, R285, R294, R341). -/
structure OutEntry where
  seq : Nat := 0
  group : Nat := 0
  tag : Nat := 0
  target : Nat := 0
  verdict : Nat := 0
  ring : Nat := 0
deriving DecidableEq, Repr

/-- The INSPECT engine (07, 11). -/
structure Inspect where
  /-- Recipe slots 0-3 (R333). -/
  slots : SMap Recipe := []
  /-- Loads made so far; gives Recipe.id. -/
  loads : Nat := 0
  /-- Armed recipe and its slot, if any. -/
  armed : Option Recipe := none
  armedSlot : Nat := 255
  /-- Recipes no longer armed whose items are open (R24), newest first. -/
  olds : List Recipe := []
  /-- Identity of the recipe whose constants and channels a cluster holds (R24). -/
  heldBy : SMap Nat := []
  /-- Items opened and not yet released, in order of opening. -/
  items : List Item := []
  /-- Next sequence number (R23). -/
  nextSeq : Nat := 1
  /-- Sequence number of the last verdict released (R346). -/
  lastSeq : Nat := 0
  /-- VERDICTs issued before their window opened, oldest first: the recipe, the block's bytes and the cause (R340). -/
  kept : List (Nat × Option (List Byte) × Nat) := []
  /-- The armed recipe's first line window has opened (R337 WIN_START). -/
  winGo : Bool := false
  /-- The schedule is halted (R213). -/
  halted : Bool := false
  /-- A re-armed schedule waits for its first stripe post (R213). -/
  await : Bool := false
  /-- A schedule iteration is anchored at the next period boundary (R207). -/
  iterDue : Bool := false
  /-- Iterations that wait for the END of the one before, per logical core (R207). -/
  iterPend : SMap Nat := []
  /-- A fence or fetch failure asks for a halt at the next period boundary: cause of open items (R213, R450). -/
  haltReq : Option Nat := none
  /-- Count of the first line of the stripe whose post restarted the schedule (R213, R214). -/
  restart : Option Nat := none
  /-- Clusters whose spare the management processor is loading (R213): cluster, position. -/
  respare : List (Nat × Nat) := []
  /-- Lines of a region recipe up to the last one named by a verdict block (R340): the next line's index. -/
  named : Nat := 0
  /-- Lines of a region recipe's first context that no verdict block has named yet: index, count and tick of arrival (R340). -/
  unnamed : List (Nat × Nat × Nat) := []
  /-- Commit points accepted and not yet in force, oldest first (R16). -/
  commits : List Commit := []
  /-- Line-digest stores per context, newest last, at most 4,096 lines (R222). -/
  lineDigs : SMap (List LineDig) := []
  /-- Entries sent and not yet reported (R341). -/
  out : List OutEntry := []
  /-- Next TAG per output group (R277). -/
  nextTag : SMap Nat := []
  /-- Fences asked for during a global stop: site (R235). -/
  heldFences : List Nat := []
  /-- MOVED_FROM of each cluster (R217). -/
  movedFrom : SMap Nat := []
  /-- Fenced sites, ascending. -/
  fenced : List Nat := []
  /-- Physical site of each logical core (R19); a core without an entry has no site. -/
  siteOf : SMap Nat := []
  /-- A release of the pending or present global stop is held (R235). -/
  stopRelease : Bool := false
  /-- Tick counter at the last stop cycle since reset (R232). -/
  stopTick : Option Nat := none
deriving DecidableEq, Repr

/-- A job of a shared partition (R358 to R363). -/
structure Job where
  id : Nat := 0
  part : Nat := 0
  client : Nat := 0
  /-- Logical cores. -/
  cores : List Nat := []
  /-- Entry list of each core: space (coded as for CALL) and address. -/
  lists : List (Nat × Nat × Nat) := []
  /-- State code of R363; 0 ended, waiting for its completion. -/
  state : Nat := 1
  /-- Its entry in the job table (R379). -/
  entry : Nat := 0
  /-- Its place in the order of acceptance (R362). -/
  acc : Nat := 0
  /-- Tick counter at which it last began to run (R362). -/
  runTick : Nat := 0
  /-- STATUS and DETAIL with which it is to end, once decided (R360). -/
  ending : Option (Nat × Nat) := none
  /-- Cores that have ended their depth-0 list. -/
  ended : List Nat := []
  /-- A context has been saved for it. -/
  saved : Bool := false
  /-- Clusters still to restore or save. -/
  todo : List Nat := []
  /-- Descriptor that started it: queue and index. -/
  q : Nat := 0
  idx : Nat := 0
  /-- Context blocks it holds: cluster and block. -/
  blocks : List (Nat × Nat) := []
  /-- Tiles those blocks hold: cluster, memory (0 to 7 scratchpad, 8 line store) and tile (R366). -/
  tiles : List (Nat × Nat × Nat) := []
deriving DecidableEq, Repr

/-- A saved core context (R366): the core's state, its register words and its counters (R404), by offset. -/
structure SavedCore where
  lcore : Nat := 0
  st : CoreSt := {}
  regs : SMap Word := []
  cnt : SMap Word := []
deriving DecidableEq, Repr

/-- A saved cluster context of a job (R366). DESIGN CHOICE (log entry 35). -/
structure SavedClu where
  job : Nat := 0
  cluster : Nat := 0
  cores : List SavedCore := []
  lstore : Store := {}
  /-- Stripe channel and U8 window register words, by offset in the cluster's window. -/
  regs : SMap Word := []
  lsc : SMap Lsc := []
deriving DecidableEq, Repr

/-- An Oxbow entry: a parked remote wait (R368). -/
structure Oxbow where
  job : Nat := 0
  lcore : Nat := 0
  /-- The parked transfer. -/
  x : Xfer := {}
  /-- Stored bytes received so far, in order. -/
  got : List Byte := []
  /-- How many of them lie in Oxbow SRAM. -/
  sram : Nat := 0
  /-- How many of them have been merged into the saved tiles, in whole pieces (R181, R368). -/
  put : Nat := 0
  /-- Pieces that failed their checksum in transit (R181). -/
  badPs : List Nat := []
  /-- A piece of it failed, or merged into a failed tile: it signals no token (R182). -/
  failed : Bool := false
deriving DecidableEq, Repr

/-- A sequence of narrative serving (R372 to R376). -/
structure Seq where
  /-- The 64 bytes of its request. -/
  req : List Byte := []
  /-- Request number in the ring. -/
  n : Nat := 0
  slot : Nat := 0
  pages : List Nat := []
  /-- Positions prefilled so far. -/
  pos : Nat := 0
  /-- Tokens generated so far. -/
  newToks : Nat := 0
  /-- Produced its end token or reached MAX_NEW (code), or is cancelled. -/
  leave : Option Nat := none
  /-- Joined the step table before. -/
  stepped : Bool := false
  /-- Positions this step takes for it. -/
  ntok : Nat := 0
deriving DecidableEq, Repr

/-- A serving partition's step controller (R372 to R377). -/
structure Serving where
  /-- Admitted sequences, in admission order. -/
  active : List Seq := []
  /-- Waiting joins, in arrival order. -/
  waiting : List Seq := []
  /-- Requests read so far (HEAD). -/
  head : Nat := 0
  /-- Cores of the job that have made their step-end STORE. -/
  stepEnd : List Nat := []
  /-- Steps started so far. -/
  steps : Nat := 0
  /-- A step is running. -/
  running : Bool := false
  /-- Sequences in the order of the running step's entries (slot numbers). -/
  entries : List Nat := []
deriving DecidableEq, Repr

/-- The COMPUTE engine: partitions, jobs, Oxbow, serving (12). -/
structure Compute where
  /-- Partition of each cluster: 0 verdict, 1-8 shared; no entry: none (R20). -/
  part : SMap Nat := []
  /-- Jobs in order of acceptance. -/
  jobs : List Job := []
  /-- Jobs accepted so far. -/
  accepts : Nat := 0
  /-- Grant pointer of each partition: place in the order of acceptance of the job last granted (R362). -/
  grant : SMap Nat := []
  /-- Saved contexts. -/
  saved : List SavedClu := []
  oxbow : List Oxbow := []
  serving : SMap Serving := []
  /-- Context blocks in use: partition × 65,536 + block. -/
  blocks : List Nat := []
  /-- Partitions whose scheduling pass a global stop holds (R362). -/
  heldPass : List Nat := []
deriving DecidableEq, Repr

/-! ### Lanes and links (02) -/

/-- A lane beside its registers (R37 to R41). -/
structure Lane where
  /-- A lane under override has lost CDR lock for 100 µs and adapts until lock returns (R37). -/
  adapting : Bool := false
  /-- It holds the adapted peaking, until LANE_EQ is written (R37). -/
  clamped : Bool := false
  /-- Transmitted and received bits inverted so far (R41). -/
  txInv : Nat := 0
  rxInv : Nat := 0
  /-- The next transmitted, the next received bit is to be inverted (R41). -/
  txFlip : Bool := false
  rxFlip : Bool := false
  /-- Last bits of the pattern generator, the newest in bit 0 (R38). -/
  gen : Nat := 0
  /-- Last bits of the pattern the checker expects (R39). -/
  chk : Nat := 0
deriving DecidableEq, Repr

/-- A camera link beside its registers (R49 to R57). -/
structure CxpLink where
  /-- The other link of the pair was in OFF when this one left OFF (R49). -/
  oddOff : Bool := false
  /-- Consecutive failures of the bootstrap read in progress. -/
  fails : Nat := 0
  /-- Connections the camera reports (R51). -/
  conn : Nat := 0
  /-- Target of CONFIG: width and speed as CXP_STATE codes them. -/
  width : Nat := 0
  speed : Nat := 0
  /-- The camera takes a high-speed uplink. -/
  hsCap : Bool := false
  /-- Level of CAM_PWR_EN. -/
  pwr : Bool := false
  /-- Event FIFO, oldest first, at most 8: event bytes and TRUNC (R57). -/
  events : List (List Byte × Bool) := []
  /-- Uplink triggers sent (R55). -/
  trigs : Nat := 0
  /-- Line in arrival per context: its bytes so far, and whether a packet of it was lost (R56, R93). -/
  parts : SMap (List Byte × Bool) := []
  /-- Contexts whose settings request is issued and not complete, oldest first (R98). -/
  setWr : List Nat := []
deriving DecidableEq, Repr

/-- An Ifepen port beside its registers (R66 to R76). Flits are 256-bit numbers (R70). -/
structure IflPort where
  /-- The SerDes has calibrated (R75). -/
  txOn : Bool := false
  /-- Valid markers at consecutive expected positions per port lane, up to 3. -/
  mk0 : Nat := 0
  mk1 : Nat := 0
  /-- PARTNER_SEEN of the last marker per port lane (R79). -/
  ps0 : Bool := false
  ps1 : Bool := false
  /-- A marker with PARTNER_SEEN has come on the port lane since the port entered LOCKED (R75). -/
  seen0 : Bool := false
  seen1 : Bool := false
  /-- Run of equal bits on each port lane's receiver (R69), and the state of its descrambler (R68). -/
  run : SMap Run := []
  scr : SMap Nat := []
  /-- SEQ of the next sequenced flit. -/
  seq : Nat := 0
  /-- Replay buffer, oldest first, at most 512. -/
  replay : List Nat := []
  /-- Consecutive replays without ACK progress. -/
  replays : Nat := 0
  /-- SEQ expected next. -/
  rxSeq : Nat := 0
  /-- SEQ of the last flit received in order; 0x3FF before the first. -/
  ack : Nat := 0x3FF
  /-- A NAK has been sent since the last good flit. -/
  nak : Bool := false
  /-- Credit counters of the last CREDIT flit, VC0 lowest; none before the first since UP (R72). -/
  credit : Option (List Nat) := none
  /-- Flits sent per VC since UP. -/
  sent : SMap Nat := []
  /-- Credit counters this side sends. -/
  own : SMap Nat := []
  changed : Bool := false
  /-- Sequenced flits that wait for credit: TYPE, VC, payload. -/
  txq : List (Nat × Nat × Nat) := []
  /-- Flits received in order and not yet delivered, oldest first. -/
  rx : List Nat := []
  /-- Tick counter at the receipt of each EVENT flit among them, in order (R414). -/
  evAt : List Nat := []
  /-- Capture buffer of the last stop, at most 128 (R233). -/
  cap : List Nat := []
  /-- The port was UP at the last stop cycle, so that flits arriving during the stop are captured (R233). -/
  capturing : Bool := false
  /-- The last flit sent. -/
  lastTx : Nat := 0
  /-- The last replay: the tick counter at its start, and whether a NAK caused it (R73). -/
  replayed : Option (Nat × Bool) := none
  /-- Flits sent in loopback and not yet received again, oldest first (R38, R77). -/
  loop : List Nat := []
  /-- VC3 buffers freed whose credits the port withholds while an Oxbow buffer is full (R368). -/
  owed : Nat := 0
  /-- In loopback: run of equal bits on each port lane's transmitter (R69), and the state of its scrambler (R68). -/
  txRun : SMap Run := []
  txScr : SMap Nat := []
deriving DecidableEq, Repr

/-! ### Pixel pipes (03) -/

/-- A settings request of a context (R98). -/
structure SetReq where
  gen : Nat := 0
  /-- Target frame T. -/
  target : Nat := 0
  /-- Camera register writes: address, value. -/
  writes : List (Nat × Nat) := []
  /-- Writes acknowledged. -/
  done : Nat := 0
  issued : Bool := false
deriving DecidableEq, Repr

/-- A line assigned to a frame and stripe that waits in the ingress buffer (R93, R95, R96). A dropped stripe stands in the buffer
as one entry with `drop`. -/
structure PixLine where
  /-- Line index since enable. -/
  idx : Nat := 0
  frame : Nat := 0
  stripe : Nat := 0
  /-- Line number in its frame and in its stripe. -/
  inFrame : Nat := 0
  row : Nat := 0
  count : Nat := 0
  missing : Bool := false
  drop : Bool := false
  /-- Last line of its stripe, of its frame. -/
  endStripe : Bool := false
  endFrame : Bool := false
  /-- Tick counter at its arrival. -/
  tick : Nat := 0
  /-- Packed bytes as received. -/
  data : List Byte := []
  /-- Counts of the lines of a dropped stripe, as their ticks were consumed. -/
  counts : List Nat := []
deriving DecidableEq, Repr

/-- Statistics of the lines of one stripe (R100). -/
structure Stat where
  /-- Histogram counts by channel × 256 + bin. -/
  hist : SMap Nat := []
  /-- Zone sums and pixel counts by (zy × 32 + zx) × 4 + channel. -/
  zsum : SMap Nat := []
  zcnt : SMap Nat := []
deriving DecidableEq, Repr

/-- A frame of a context from its boundary until its record is written (R96, R99 to R102). -/
structure PixFrame where
  num : Nat := 0
  /-- The active copy at its boundary. -/
  cfg : SMap Word := []
  gen : Nat := 0
  /-- Tick counter at the acknowledge of that generation. -/
  tAck : Nat := 0
  uncertain : Bool := false
  tail : Bool := false
  firstCount : Nat := 0
  tFirst : Nat := 0
  tLast : Nat := 0
  lines : Nat := 0
  missing : Nat := 0
  dropped : Nat := 0
  fill : Bool := false
  /-- Its first line has been processed and its rings were examined. -/
  begun : Bool := false
  /-- RSEQ, when a record is written. -/
  rseq : Option Nat := none
  /-- Image number in each ring, when the image is written. -/
  disp : Option Nat := none
  code : Option Nat := none
  raw : Option Nat := none
  /-- Images written in each ring when the record's numbers were given (R101): display, coding, raw. -/
  dispSeq : Nat := 0
  codeSeq : Nat := 0
  rawSeq : Nat := 0
  /-- Statistics by stripe number; a dropped stripe's go (R95). -/
  stats : SMap Stat := []
deriving DecidableEq, Repr

/-- A stream context beside its registers (03). The words of the register file are the shadow copy (R96). -/
structure Ctx where
  /-- Active copy: words of offsets 0x040 to 0x1FF by address; unlisted: their reset values (R96). -/
  active : SMap Word := []
  /-- Counts of the pending ticks, oldest first (R93). -/
  ticks : List Nat := []
  /-- Frames begun at the ingress; the frame in progress is this minus 1. -/
  frames : Nat := 0
  /-- Place of the next line: in its frame, its stripe number, its row, its index since enable. -/
  inFrame : Nat := 0
  stripe : Nat := 0
  row : Nat := 0
  idx : Nat := 0
  /-- Counts of the lines of the stripe at the ingress so far. -/
  counts : List Nat := []
  /-- The stripe at the ingress is dropped (R95). -/
  dropping : Bool := false
  /-- Lines that wait in the ingress buffer, oldest first. -/
  buf : List PixLine := []
  /-- Frames without a record yet, oldest first. -/
  open_ : List PixFrame := []
  /-- Planes of the latest input lines after flat-field correction, newest first (R87). -/
  delay : List (List (List Nat)) := []
  /-- Bayer reconstruction: the line that waits for its successor, and the line before it (R88). -/
  bayCur : Option (PixLine × List Nat) := none
  bayPrev : Option (List Nat) := none
  /-- Lines of the vertical bin so far, with missing or fill of any of them (R91). -/
  bin : List (List (List Nat)) := []
  binBad : Bool × Bool := (false, false)
  binCount : Nat := 0
  /-- Final lines gathered for the display boxes, each with its number in the frame (R103). -/
  dispRows : List (Nat × List (List Nat)) := []
  /-- The even final line that the next one pairs with for the coding chroma: its number, U and V (R104). -/
  codeRow : Option (Nat × List Nat × List Nat) := none
  /-- Line table of the output stripe so far: count, missing, fill (R107). -/
  table : List (Nat × Bool × Bool) := []
  /-- Records written and images written since enable. -/
  recs : Nat := 0
  dispSeq : Nat := 0
  codeSeq : Nat := 0
  rawSeq : Nat := 0
  /-- Settings requests, oldest first, at most 4 (R98). -/
  sets : List SetReq := []
  /-- Highest generation acknowledged, and when (R99). -/
  gen : Nat := 0
  tAck : Nat := 0
  /-- Failed requests that no later one has replaced: generation and target frame (R99). -/
  fails : List (Nat × Nat) := []
  /-- First lines of last stripes that have entered unpack: frames up to here minus 1 (R98). -/
  lastBegun : Nat := 0
deriving DecidableEq, Repr

/-- A pixel pipe beside its registers (R92, R94). -/
structure Pipe where
  /-- Active copy of PIPE_CTRL and PIPE_ORDER by address. -/
  order : SMap Word := []
  /-- Place in the order of the next turn. -/
  pos : Nat := 0
  /-- Context in turn. -/
  turn : Option Nat := none
  /-- The turn lasts a frame (MUX = 1). -/
  whole : Bool := false
  /-- Context of the turn before. -/
  last : Option Nat := none
  /-- Table memory by word address; what power-on leaves is undefined (R109). -/
  tbl : SMap Word := []
deriving DecidableEq, Repr

/-! ### The isolation barrier (09) -/

/-- A message of the barrier: its TYPE and 64-bit payload (R275), and whether it missed the frame of its own window (R273). -/
structure Msg where
  type : Nat := 0
  payload : Nat := 0
  late : Bool := false
deriving DecidableEq, Repr

/-- What a pin or a pair does (R81, R239, R295). -/
inductive PinLevel where
  | highZ | idle | low | high | ignored | terminated | active
  /-- The PCIe lanes: looking for a receiver, and training (R431). -/
  | detect | training
  /-- The level that the boundary-scan cells give (R430). -/
  | scanned
deriving DecidableEq, Repr

/-- The PCIe link: dropped, with the receiver termination off, as causes 1 to 3 leave it; in Detect; training; up (R423, R427, R431). -/
inductive PcieLink where
  | off | detect | training | up
deriving DecidableEq, Repr

/-- One end of the barrier link (R270 to R274). -/
structure BarEnd where
  /-- The receiver is locked (R272). -/
  locked : Bool := false
  /-- Consecutive SYNC patterns received, up to 3. -/
  syncRun : Nat := 0
  /-- Consecutive expected positions without SYNC, while locked. -/
  missRun : Nat := 0
  /-- HB_SEQ of the next HEARTBEAT this end sends (R272). -/
  hbSeq : Nat := 0
  /-- Windows since this end last sent a HEARTBEAT (R272). -/
  hbWin : Nat := 0
  /-- Messages presented and not yet launched, oldest first. -/
  tx : List Msg := []
  /-- Messages received and not yet acted on, oldest first. -/
  rx : List Msg := []
  /-- The 100 bits of the last frame launched (R270); 0 when none. -/
  lastTx : Nat := 0
  /-- HB_SEQ of the last HEARTBEAT received. -/
  hbSeen : Option Nat := none
deriving DecidableEq, Repr

/-- A configuration access across the barrier that waits for its response (R276). -/
structure CfgReq where
  rtag : Nat := 0
  /-- The request as sent. -/
  msg : Msg := {}
  /-- Times it was resent. -/
  tries : Nat := 0
  /-- A read by host software, whose value is returned. -/
  read : Bool := false
deriving DecidableEq, Repr

/-- The host side's copy of a trigger source (R279). -/
structure TrigCopy where
  /-- EN, TRIG_START and N from the CFG_WRITEs sent. -/
  en : Bool := false
  start : Nat := 0
  n : Nat := 4
  /-- Rebuilt count of the source's next tick. -/
  next : Nat := 0
  /-- A snapshot has given a base. -/
  based : Bool := false
  /-- The source has been enabled anew: its next snapshot gives a new base. -/
  renew : Bool := false
  /-- Bit 0 of the index of the source's next tick. -/
  idx : Nat := 0
  /-- Received ticks not yet acted on, oldest first: their IDX0. -/
  ticks : List Nat := []
deriving DecidableEq, Repr

/-- The host side of the barrier beside its registers and the ejection entries. -/
structure Barrier where
  port : BarEnd := {}
  /-- HEARTBEATs that still carry RELEASE (R293). -/
  release : Nat := 0
  /-- Requests outstanding, oldest first (R276). -/
  reqs : List CfgReq := []
  /-- RTAG of the next request. -/
  rtag : Nat := 1
  trig : SMap TrigCopy := []
  /-- The field side is lost (R294). -/
  lost : Bool := false
deriving DecidableEq, Repr

/-! ### Time bases and Ethernet (10) -/

/-- A time base beside its rate register (R299). -/
structure TimeBase where
  /-- Anchor tick A. -/
  a : Nat := 0
  /-- Anchor value V, 96 bits, 2^-32 ns. -/
  v : Nat := 0
deriving DecidableEq, Repr

/-- Chain time on TB1 (R310 to R313). Times are in units of 2^-16 ns. DEDUCED (log entry 31). -/
structure Chain where
  /-- TSEQ of the next flit by port × 4 + KIND. -/
  seqs : SMap Nat := []
  /-- A SYNC has been accepted since the role was set. -/
  synced : Bool := false
  t1 : Nat := 0
  t2 : Nat := 0
  t3 : Nat := 0
  /-- TSEQ of the last DELAY_REQ, while its answer is awaited. -/
  req : Option Nat := none
  /-- The next exchange starts the filtered delay afresh. -/
  fresh : Bool := true
  dly : Int := 0
  integ : Int := 0
  /-- TB1 has stepped since the role was set. -/
  stepped : Bool := false
  /-- Consecutive exchanges with an offset of at most 8 ns. -/
  good : Nat := 0
deriving DecidableEq, Repr

/-- An Ethernet frame handed to a port and not yet out of it (R306, R308, R309, R335). -/
structure EthTx where
  q : Nat := 0
  idx : Nat := 0
  /-- The frame as sent, without FCS. -/
  frame : List Byte := []
  /-- TS_ID, when its stamp is to be queued. -/
  ts : Option Nat := none
  /-- Its stamp, 2^-16 ns. -/
  stamp : Nat := 0
deriving DecidableEq, Repr

/-- An Ethernet port beside its registers (R305 to R309, R335). -/
structure EthPort where
  /-- Frames on their way out, oldest first. -/
  tx : List EthTx := []
  /-- Posted receive buffers, oldest first: queue and index. -/
  posts : List (Nat × Nat) := []
  /-- Transmit stamps queued, oldest first, at most 16: TS_ID and stamp in 2^-16 ns. -/
  stamps : List (Nat × Nat) := []
  /-- The last frame whose last symbol left the port, with its FCS. -/
  sent : List Byte := []
deriving DecidableEq, Repr

/-! ### Headwater (13) -/

/-- A sample of the reorder window (R381, R388, R394 to R396). -/
structure Sample where
  q : Nat := 0
  idx : Nat := 0
  tag : Nat := 0
  src : Nat := 0
  len : Nat := 0
  dst : Nat := 0
  maxTok : Nat := 0
  /-- Dictionary bank of its admission; none: no bank was active. -/
  bank : Option Nat := none
  /-- HDW_CTRL and HDW_TOK at its admission. -/
  ctrl : Word := 0
  tok : Word := 0
  /-- 0 waits for a lane, 1 decoding, 2 decoded, 3 the stop sample, 4 held. -/
  state : Nat := 0
  /-- Tokens decoded. -/
  toks : List Nat := []
  /-- A host read of its bytes failed (R390). -/
  pcie : Bool := false
  /-- Cause of a stop sample dropped during a global stop, which holds its emergence (R396, R397). -/
  dropped : Option Nat := none
  /-- Was LEN above HDW_MAX_BYTES at its admission (R394 cause 2)? -/
  big : Bool := false
deriving DecidableEq, Repr

/-- A batch (R391, R392): DST, NTOK, queue and bank of its samples, and how it closed. -/
structure Batch where
  samples : List (Nat × Nat × Nat × Nat) := []
  timed : Bool := false
  stopped : Bool := false
deriving DecidableEq, Repr

/-- Headwater beside its registers (13). -/
structure Hdw where
  /-- TEXT_SAMPLEs checked and not yet admitted, in fetch order: queue and index. -/
  ready : List (Nat × Nat) := []
  /-- The reorder window, oldest first, at most 64. -/
  win : List Sample := []
  /-- Dictionary memory, both banks; what power-on leaves is undefined (R383, R398). -/
  dict : SMap Byte := []
  /-- Active bank (R385). -/
  active : Option Nat := none
  /-- Bank whose search structure is being built (R384). -/
  building : Option Nat := none
  /-- HDW_POOL_LEN of each bank when it was committed. -/
  pool : SMap Nat := []
  /-- Cause and offset of the recorded stop sample (R394, R395). -/
  stop : Option (Nat × Nat) := none
  /-- The batch in formation (R391). -/
  batch : List (Nat × Nat × Nat × Nat) := []
  /-- Closed batches not yet written, oldest first. -/
  closed : List Batch := []
  /-- Batches written since HDW_BATCH_CFG.EN was set. -/
  batchNo : Nat := 0
deriving DecidableEq, Repr

/-! ### Debug port (R430) -/

/-- The test access port and the debug port. -/
structure Debug where
  /-- Instruction register. -/
  ir : Nat := 0xFF
  busy : Bool := false
  err : Bool := false
  /-- DBG_ADDR. -/
  addr : Nat := 0
  /-- Value staged for the next BAR0 write. -/
  stage : Word := 0
  /-- What the last update put into the boundary-scan cells (R430). -/
  scan : Nat := 0
  /-- DBG_DATA: the data of the last completed read. -/
  data : List Byte := []
  /-- A clock measurement runs (R433). -/
  mon : Bool := false
deriving DecidableEq, Repr

/-! ### Management (17) -/

/-- A settings record (R479 to R481). DESIGN CHOICE (log entry 54). -/
structure Setting where
  id : Nat := 0
  ctx : Nat := 0
  fmt : BitVec 16 := 1
  trial : Bool := false
  data : List Byte := []
deriving DecidableEq, Repr

/-- The flash, the unclonable function, and the management processor's own state. -/
structure Mgmt where
  /-- Flash bytes by address (R459 to R462): the certificate area as manufactured, the rest erased, until it is programmed. -/
  flash : SMap Byte := []
  /-- Start-up values of the block that is the unclonable function, as last read (R469). -/
  puf : BitVec 32768 := 0
  /-- The root secret R reconstructed at this boot, if it was (R469, R486). -/
  root : Option (BitVec 256) := none
  /-- The slot whose other part failed at the last boot (R466), and whether it was TRIAL, until the next boot shows it. -/
  partFail : Option (Nat × Bool) := none
  /-- Delivery is open since the last reset (R474). -/
  delivery : Bool := false
  /-- Region of the running image: 0 slot A, 1 slot B, 2 recovery; none before one runs. -/
  running : Option Nat := none
  /-- The quote that waits for the signer or is being signed: queue, index, message (R482, R483). -/
  quote : Option (Nat × Nat × List Byte) := none
  /-- The quote has taken the signer (R483). -/
  quoteSigns : Bool := false
  /-- The image of the inactive slot is being copied into the recovery region: queue and index of its command (R484). -/
  copying : Option (Nat × Nat) := none
deriving DecidableEq, Repr

/-! ### The field die (08, 09) -/

/-- An encoder channel beside its registers (08). P and Q are ENC_POS and ENC_RAW. -/
structure EncCh where
  /-- Filtered lines (R241); an undriven RS-422 pair reads 1 (R265). -/
  a : Bool := true
  b : Bool := true
  z : Bool := true
  /-- Last Hall code taken; none: the next valid code becomes the reference (R247). -/
  hall : Option Nat := none
  /-- Lines that have been driven since reset: A, B, Z as bits 0 to 2; another reads as its receiver's fail-safe bias says (R265). -/
  driven : Nat := 0
  /-- RS-422 pairs in use that are open: A, B, Z as bits 0 to 2 (R240). -/
  openPairs : Nat := 0
  /-- Fine position F, signed 48-bit (R250). -/
  f : Int := 0
  /-- θ_prev, clear after an enable or a change of MODE (R250). -/
  thPrev : Option Nat := none
  /-- s1 and c2 of the latest sample (R245, R248). -/
  s1 : Int := 0
  c2 : Int := 0
  /-- Consecutive samples outside the amplitude window (R251). -/
  ampRun : Nat := 0
  /-- W_prev: the word of the last good frame (R257). -/
  wPrev : Option Nat := none
  /-- Consecutive failed frames (R256). -/
  failRun : Nat := 0
  /-- A frame has started and not ended (R253). -/
  busy : Bool := false
  /-- FIELD cycles from the latch time of the last good frame, as last seen (R258). -/
  n : Nat := 0
  /-- A good frame has arrived since the last observer update (R259). -/
  fresh : Bool := false
  /-- Observer position, 32.32; speed, 40 fraction bits; acceleration, 56 fraction bits (R260). -/
  x : Int := 0
  v : Int := 0
  acc : Int := 0
  /-- Gains in use: M and S of K1 to K3 (R260, R261). -/
  m1 : Nat := 0x9A6A
  s1g : Nat := 0x15
  m2 : Nat := 0xF860
  s2g : Nat := 0x1D
  m3 : Nat := 0x852C
  s3g : Nat := 0x25
deriving DecidableEq, Repr

/-- A repeater beside its registers (R264). -/
structure Repeater where
  /-- Position R, 32 bits. -/
  r : Nat := 0
  /-- Output lines in the synthesized mode. -/
  a : Bool := false
  b : Bool := false
deriving DecidableEq, Repr

/-- A trigger source beside its registers (R278). -/
structure TrigSrc where
  /-- Snapshots of the source that must launch before its next tick. -/
  hold : Nat := 0
  /-- Bit 0 of the index of the next tick. -/
  idx : Nat := 0
  /-- A tick waits for a frame: its index bit, and whether it is late. -/
  tick : Option (Nat × Bool) := none
deriving DecidableEq, Repr

/-- An entry of the Weir (R282). -/
structure WeirEntry where
  tag : Nat := 0
  c : Nat := 0
  first : Nat := 0
  numM1 : Nat := 0
  wsel : Nat := 0
deriving DecidableEq, Repr

/-- An output group beside its registers (R281 to R286). -/
structure WeirGroup where
  /-- Entries in arrival order. -/
  fifo : List WeirEntry := []
  /-- TAG expected next; none: any (R277, R293). -/
  expect : Option Nat := none
  /-- Target of the last entry that passed the order check; none: any (R282). -/
  lastC : Option Nat := none
  /-- Lead in counts (R281). -/
  lc : Nat := 0
deriving DecidableEq, Repr

/-- A running output pulse (R284): it ends when every end it has has passed. -/
structure Pulse where
  /-- FIELD cycle at which it ends, from firings with W_UNIT 0. -/
  cyc : Option Nat := none
  /-- Count at which it ends, from firings with W_UNIT 1. -/
  cnt : Option Nat := none
deriving DecidableEq, Repr

/-- A valve-bank port beside its registers (R287, R288). -/
structure ValvePort where
  /-- Image sampled for the frame being shifted. -/
  shift : Nat := 0
  /-- Image latched by the last LE. -/
  latched : Nat := 0
  /-- Frames of zeros still to send before the port stops. -/
  drain : Nat := 0
  /-- The present frame, or the stop, began with LE: a frame came before it. -/
  le : Bool := false
deriving DecidableEq, Repr

/-- A strobe output beside its registers (R280). -/
structure Strobe where
  /-- Ticks whose STB_DELAY has not yet passed. -/
  due : Nat := 0
  /-- A mode 1 pulse is running. -/
  on : Bool := false
deriving DecidableEq, Repr

end Sys2Proof.Machine
end

