-- ==== Sys2Proof/Machine/State.lean ====
section
/-! DEFINITION. The state of the KM7 as plain data, what stops it, and its value at reset. -/

namespace Sys2Proof.Machine
open Sys2Proof

/-- The host side: both stacks' compute and I/O dies, with the host memory they reach. -/
structure HostSide where
  /-- Registers of BAR0 and BAR2 on the host side (R4, R322). -/
  regs : RegFile := []
  /-- HI latches by address of the HI register; unlisted: the partner's reset value (R522). -/
  latch : SMap Word := []
  /-- Value the last register read returned. -/
  readData : Word := 0
  /-- Host memory by PCIe address (R334). -/
  mem : Mem := []
  /-- Ranges of host addresses, base and length, whose reads return an error (R330). -/
  noRead : List (Nat × Nat) := []
  /-- Bus Master Enable of the PCIe function (R344, R349). -/
  bme : Bool := false
  /-- Power controller and error log (16). -/
  pm : Pm := {}
  /-- Started descriptors of each submission queue, oldest first (R327). -/
  sq : SMap (List Started) := []
  /-- Queue last served by each engine (R327). -/
  lastQ : SMap Nat := []
  /-- Result rings (R342). -/
  rings : SMap Ring := []
  /-- MSI-X vectors (R348). -/
  vecs : SMap Vec := []
  /-- Gauge (14). -/
  gauge : Gauge := {}
  /-- HBM groups (R172). -/
  hbm : SMap Store := []
  /-- Cluster line stores (R178). -/
  lstore : SMap Store := []
  /-- Tiles of the line stores written since the last save or restore: cluster × 65,536 + tile (R366). -/
  lsDirty : List Nat := []
  /-- Sluice arbiters (R197). -/
  slu : SMap SluArb := []
  /-- Core sites (R18). -/
  cores : SMap CoreSt := []
  /-- Stripe channels: cluster × 16 + channel (R157). -/
  lsc : SMap Lsc := []
  /-- The barrier link's host end (09). -/
  bar : Barrier := {}
  /-- Counter of the free values used so far (log entry 10): the model's own. -/
  fresh : Nat := 0
  /-- Stream contexts by global index (R88). -/
  ctxs : SMap Ctx := []
  /-- Lanes by global index (R36). -/
  lanes : SMap Lane := []
  /-- Camera links (R49). -/
  links : SMap CxpLink := []
  /-- Ifepen ports (R66). -/
  ports : SMap IflPort := []
  /-- Commits of disabled contexts, enables and disables that wait for the end of a global stop, oldest first: context, and the word
  written to CTX_CTRL (R235). -/
  heldCtx : List (Nat × Option Word) := []
  /-- Pixel pipes by global index (R82). -/
  pipes : SMap Pipe := []
  /-- Power-on resets so far; gives what undefined memory holds (R109, R424). -/
  powerOns : Nat := 0
  /-- The INSPECT engine (07). -/
  insp : Inspect := {}
  /-- The COMPUTE engine (12). -/
  comp : Compute := {}
  /-- Bytes returned to the last remote read served (R176). -/
  remoteReply : List Byte := []
  /-- Stored bytes that the last STORE to a remote device sent (R164, R174). -/
  remoteSent : List Byte := []
  /-- Descriptors started so far by all engines (R327). -/
  starts : Nat := 0
  /-- Time bases (R299). -/
  tbs : SMap TimeBase := []
  /-- Compare units whose first evaluation found the target passed (R302). -/
  cmpLate : List Nat := []
  /-- Level of TIME_PPS_OUT (R304). -/
  pps : Bool := false
  /-- Chain time (R310). -/
  chain : Chain := {}
  /-- Ethernet ports (R305). -/
  eth : SMap EthPort := []
  /-- Headwater (13). -/
  hdw : Hdw := {}
  /-- The debug port (R430). -/
  dbg : Debug := {}
  /-- Management and the flash (17). -/
  mgmt : Mgmt := {}
  /-- The PCIe link (R423, R427). -/
  pcieLink : PcieLink := .detect
  /-- A host-side supply is below its threshold (R423 cause 1). -/
  noPower : Bool := false
  /-- The host side is held in reset (R423). -/
  down : Bool := false
  /-- GENERATION last written to the state page (R346). -/
  spGen : Nat := 0
  /-- Host-side boots before this one; gives BOOT_ID (R229). -/
  boots : Nat := 0
deriving DecidableEq, Repr

/-- The field die. DESIGN CHOICE (log entry 7). -/
structure FieldDie where
  /-- Registers of the field section (R266, R267, R297, R429). -/
  regs : RegFile := []
  /-- State of the controller: 0 in reset or booting, 1 in its ROM, 2 running its firmware (R429). -/
  ctl : Nat := 0
  /-- Bytes of the image being loaded (R429). -/
  image : List Byte := []
  /-- Field images that failed their check since the field die was last powered or reset by another cause (R429). -/
  loadFails : Nat := 0
  /-- HI latches by address of the HI register (R522). -/
  latch : SMap Word := []
  /-- The barrier link's field end (R270 to R274). -/
  port : BarEnd := {}
  /-- Entries cancelled by the last safe-state entry (R275). -/
  cancelled : Nat := 0
  /-- Frames discarded since reset, H2F_CRC (R271). -/
  crcErr : Nat := 0
  /-- Consecutive valid HEARTBEATs received (R293). -/
  hbRun : Nat := 0
  /-- RTAG of the last request applied (R276). -/
  lastTag : Option Nat := none
  /-- Payload of the answer it was given, for a repeated request (R276). -/
  lastAns : Nat := 0
  /-- Encoder channels 0 to 3. -/
  enc : SMap EncCh := []
  /-- Repeaters 0 and 1. -/
  rep : SMap Repeater := []
  /-- Trigger sources 0 to 7. -/
  trig : SMap TrigSrc := []
  /-- Weir output groups 0 to 7. -/
  weir : SMap WeirGroup := []
  /-- Running pulses: valve v of port p at p × 256 + v, high-side output i at 1,024 + i, strobe s at 1,040 + s. -/
  pulses : SMap Pulse := []
  /-- Valve-bank ports 0 to 3. -/
  valves : SMap ValvePort := []
  /-- Strobe outputs 0 to 3. -/
  strobes : SMap Strobe := []
  /-- High-side outputs in current limit or thermal shutdown, one bit each (R291). -/
  limited : Nat := 0
  /-- Those of them in thermal shutdown, which are off until they restart (R291). -/
  shutdown : Nat := 0
  /-- A safe-state entry whose FAULT waits for the field-to-host link to lock, with its HB_LOST (R292). -/
  due : Option Bool := some false
deriving DecidableEq, Repr

/-- The whole machine. -/
structure State where
  /-- Commands that wait, first in, first out. -/
  pending : List Instr
  /-- The tick counter (R298). -/
  tick : BitVec 64
  /-- Which product of R2 this is. -/
  variant : Variant
  host : HostSide
  field : FieldDie
deriving DecidableEq, Repr

/-- Reasons to stop with a fault. No command of this block ends in one: what the spec calls a fault is a value of a status
register, and the machine goes on. DEDUCED (log entry 62). -/
inductive Fault where
  /-- Raised by no meaning; a step that cannot be taken would say so here (safe). -/
  | stuck
deriving DecidableEq, Repr

/-- Reasons to refuse a command. DEDUCED (log entry 62). -/
inductive Refusal where
  /-- Raised by the arms of exec whose command has no meaning yet (safe). -/
  | notModelled (mnemonic : String)
deriving DecidableEq, Repr

/-- What every unit may read besides its own side: the tick counter (R13) and the product. -/
structure Env where
  tick : Nat
  variant : Variant
  /-- The host side's barrier receiver is locked (R272). -/
  linked : Bool := false
deriving DecidableEq, Repr

/-- The machine when the host-side dies leave reset (R427 step 2) and the field die has just been reset (R426):
every register at its reset value. The product is a KM7-120 (log entry 2). DESIGN CHOICE (log entry 7). -/
def State.reset : State :=
  { pending := [], tick := 0, variant := .km7_120, host := {}, field := {} }

end Sys2Proof.Machine
end

