-- ==== Sys2Proof/Machine/Ops.lean ====
section
/-! DEFINITION. The named operations that meanings share: registers, counters, interrupts, the error log, memories with tile
checksums, descriptors and completions, records, tokens. The block has no exception entry: raising an interrupt or an error
flag is an operation on the state. -/

namespace Sys2Proof.Machine
open Sys2Proof

/-! ### Products (R2, R172, R186) -/

def Variant.ioDies : Variant → Nat
  | .km7_220 => 2
  | _ => 1
def Variant.stacks : Variant → Nat
  | .km7_110 => 1
  | _ => 2
/-- Camera links (R2). -/
def Variant.links (v : Variant) : Nat := 8 * v.ioDies
/-- Ifepen ports (R2). -/
def Variant.ports (v : Variant) : Nat := 4 * v.ioDies
/-- Pixel pipes (R2). -/
def Variant.pipes (v : Variant) : Nat := 4 * v.ioDies
/-- Stream contexts (R2). -/
def Variant.ctxs (v : Variant) : Nat := 64 * v.ioDies
/-- Lanes (R36). -/
def Variant.lanes (v : Variant) : Nat := 24 * v.ioDies
/-- HBM groups (R172). -/
def Variant.groups (v : Variant) : Nat := 8 * v.stacks
/-- Is Sluice table n present (R186)? -/
def Variant.hasTable (v : Variant) (n : Nat) : Bool :=
  if n < 16 then n < v.groups else if n < 22 then true else n < 26 && v.ioDies == 2
/-- Device ID of R320. -/
def Variant.deviceId : Variant → Nat
  | .km7_110 => 0x0711
  | .km7_120 => 0x0712
  | .km7_220 => 0x0722

/-! ### Sides -/

def State.env (s : State) : Env := { tick := s.tick.toNat, variant := s.variant, linked := s.host.bar.port.locked }

/-! ### Registers of the host side -/

def HostSide.get (h : HostSide) (f : RF) : Nat := h.regs.get f
def HostSide.set (h : HostSide) (f : RF) (v : Nat) : HostSide := { h with regs := h.regs.set f v }
def HostSide.word (h : HostSide) (a : Nat) : Word := h.regs.word a
def HostSide.setWord (h : HostSide) (a : Nat) (v : Word) : HostSide := { h with regs := h.regs.setWord a v }
/-- Is a one-bit field 1? -/
def HostSide.on (h : HostSide) (f : RF) : Bool := h.get f != 0
/-- Sets bits of a field, leaving its others (a sticky bit that an event sets, R6). -/
def HostSide.setBits (h : HostSide) (f : RF) (m : Nat) : HostSide := h.set f (h.get f ||| m)
/-- Adds to a field, wrapping at its width. -/
def HostSide.add (h : HostSide) (f : RF) (n : Nat) : HostSide := h.set f (h.get f + n)
/-- Adds to a saturating counter field. -/
def HostSide.inc (h : HostSide) (f : RF) (n : Nat) : HostSide := h.set f (min (h.get f + n) (2 ^ f.w - 1))
/-- A value held in a _LO and a _HI field. -/
def HostSide.get2 (h : HostSide) (lo hi : RF) : Nat := h.get lo + h.get hi * 2 ^ lo.w
def HostSide.set2 (h : HostSide) (lo hi : RF) (v : Nat) : HostSide := (h.set lo v).set hi (v / 2 ^ lo.w)

/-- Up and running for BAR accesses (R349). -/
def HostSide.ready (h : HostSide) : Bool := h.on Reg.DEV_STATUS.READY
/-- The data plane is stopped by a global stop (R232). -/
def HostSide.stopped (h : HostSide) : Bool := 2 ≤ h.get Reg.GSTOP_STATUS.STATE

/-! ### Registers of the field die -/

def FieldDie.get (d : FieldDie) (f : RF) : Nat := d.regs.get f
def FieldDie.set (d : FieldDie) (f : RF) (v : Nat) : FieldDie := { d with regs := d.regs.set f v }
def FieldDie.on (d : FieldDie) (f : RF) : Bool := d.get f != 0
def FieldDie.setBits (d : FieldDie) (f : RF) (m : Nat) : FieldDie := d.set f (d.get f ||| m)
def FieldDie.inc (d : FieldDie) (f : RF) (n : Nat) : FieldDie := d.set f (min (d.get f + n) (2 ^ f.w - 1))
/-- A signed 32-bit register. -/
def FieldDie.int (d : FieldDie) (f : RF) : Int := sext f.w (d.get f)

/-! ### Interrupts (R347, R348) -/

def HostSide.vec (h : HostSide) (v : Nat) : Vec := SMap.get (fun _ => {}) h.vecs v
def HostSide.setVec (h : HostSide) (v : Nat) (x : Vec) : HostSide := { h with vecs := h.vecs.put v x }

/-- The vector sends its message, or sets its pending bit while it is masked or the function may not master the bus (R344, R348). -/
def HostSide.sendVec (h : HostSide) (v : Nat) : HostSide :=
  let x := h.vec v
  if h.on (Reg.MSIX_MASK v) || !h.bme then h.setVec v { x with gathered := 0, pend := true }
  else h.setVec v { x with gathered := 0, sent := x.sent + 1 }

/-- One signal to a vector: it sends when COUNT signals have gathered; a COUNT of 0 counts as 1 (R348). -/
def HostSide.signal (h : HostSide) (v : Nat) : HostSide :=
  let x := h.vec v
  if max 1 (h.get (Reg.VEC_CFG.COUNT v)) ≤ x.gathered + 1 then h.sendVec v
  else h.setVec v { x with gathered := x.gathered + 1 }

/-- Brings HIF_IRQ_PENDING up to date and signals the vectors of summaries that became asserted (R347). -/
def HostSide.settle (h : HostSide) : HostSide :=
  let now := h.regs.summaries
  let was := h.get Reg.HIF_IRQ_PENDING
  if now = was then h
  else
    forN 13 (fun i g =>
      if bit now i && !bit was i && g.on (Reg.HIF_IRQ_MAP.EN i) then g.signal (g.get (Reg.HIF_IRQ_MAP.VECTOR i)) else g)
      (h.set Reg.HIF_IRQ_PENDING now)

/-- A command that acts on the host side: it goes on, and the interrupt summaries settle. A host side held in reset does nothing (R423).
DESIGN CHOICE (log entry 11). -/
def State.onHost (s : State) (f : Env → HostSide → HostSide) : Host.Outcome State Fault Refusal :=
  .next (if s.host.down then s else { s with host := (f s.env s.host).settle })

/-- A command of the data plane: held, with no effect, while a global stop is in force (R232). DESIGN CHOICE (log entry 11). -/
def State.onData (s : State) (f : Env → HostSide → HostSide) : Host.Outcome State Fault Refusal :=
  s.onHost fun e h => if h.stopped then h else f e h

/-- A BAR write: ignored before DEV_STATUS.READY sets (R349). DESIGN CHOICE (log entry 11). -/
def State.onBar (s : State) (f : Env → HostSide → HostSide) : Host.Outcome State Fault Refusal :=
  s.onHost fun e h => if h.ready then f e h else h

/-- A command that acts on the field die. DESIGN CHOICE (log entry 11). -/
def State.onField (s : State) (f : Env → FieldDie → FieldDie) : Host.Outcome State Fault Refusal :=
  .next { s with field := f s.env s.field }

/-! ### Sleeping clusters (R434, R437, R440) -/

/-- Cluster whose sleep holds a register: CORE and CLU windows and the clusters' Gauge counters (R440). -/
def sleepCluster (a : Nat) : Option Nat :=
  if 0x200000 ≤ a && a < 0x300000 then some ((a - 0x200000) / 0x20000)
  else if 0x400000 ≤ a && a < 0x490000 then some ((a - 0x400000) / 0x2000 / 9)
  else if 0x604000 ≤ a && a < 0x605000 then some ((a - 0x604000) / 0x200)
  else if 0x608000 ≤ a && a < 0x60C000 then some ((a - 0x608000) / 0x100 / 8)
  else none

/-- State of a cluster: 0 ACTIVE, 1 IDLE, 2 DOZE, 3 REST (R434). -/
def HostSide.cluPower (h : HostSide) (k : Nat) : Nat := h.get Reg.PM_CLU_STATE / 4 ^ k % 4
/-- Is a cluster in DOZE or REST, or its die off (R434, R446)? -/
def HostSide.asleep (h : HostSide) (k : Nat) : Bool := h.pm.dieOff || 2 ≤ h.cluPower k
/-- Does HBM serve requesters: initialized, and not in self-refresh (R201, R436, R446)? DEDUCED (log entry 63). -/
def HostSide.hbmUp (h : HostSide) : Bool :=
  h.on Reg.MEM_STATUS.INIT_DONE && !h.pm.dieOff && decide (h.get Reg.PM_STATUS.DEVICE < 2)

/-- A cluster's exit from DOZE or REST begins (R437). -/
def HostSide.wake (h : HostSide) (k : Nat) : HostSide :=
  if k ∈ h.pm.waking then h else { h with pm := { h.pm with waking := h.pm.waking ++ [k] } }

/-- A write to a register of a cluster in DOZE or REST: it wakes the cluster and takes effect after the exit (R440); none: the
register does not sleep. -/
def HostSide.sleepWrite (h : HostSide) (a : Nat) (v : Word) : Option HostSide :=
  match sleepCluster a with
  | some k =>
    if h.asleep k
    then some ({ h with pm := { h.pm with writes := h.pm.writes ++ [(k, a, v)] } }.wake k) else none
  | none => none

/-! ### Gauge counters (R400 to R407) -/

/-- Adds to a 48-bit counter; a wrap sets its OVF bit and the OVF interrupt (R400). -/
def HostSide.addCounter (h : HostSide) (lo hi ovf : RF) (n : Nat) : HostSide :=
  let v := h.get2 lo hi + n
  let h := h.set2 lo hi (v % 2 ^ 48)
  if v < 2 ^ 48 then h else (h.set ovf 1).setBits Reg.GAUGE_INT_STATUS 4

/-- Counts `n` of global event `ev` of `unit`; R407 gives the events of PCIe, verdicts, the barrier, trace, Headwater and cycles no unit,
and UNIT does not select among them. DESIGN CHOICE (log entry 14). -/
def HostSide.countG (h : HostSide) (ev unit n : Nat) : HostSide :=
  (h.regs.counting 0x601000 0x602000 ev (if ev < 0x30 || ev = 0x32 then some unit else none)).foldl
    (fun g i => g.addCounter (Reg.GCNT_VALUE_LO i) (Reg.GCNT_VALUE_HI i) (Reg.GCNT_CFG.OVF i) n) h

/-- Counts `n` of event `ev` of cluster `k` (R406). DESIGN CHOICE (log entry 14). -/
def HostSide.countK (h : HostSide) (k ev n : Nat) : HostSide :=
  (h.regs.counting (0x604000 + k * 0x200) (0x604000 + k * 0x200 + 0x200) ev none).foldl
    (fun g j => g.addCounter (Reg.CLCNT_VALUE_LO k j) (Reg.CLCNT_VALUE_HI k j) (Reg.CLCNT_CFG.OVF k j) n) h

/-- Counts `n` of event `ev` of logical core `c` (R402). DESIGN CHOICE (log entry 14). -/
def HostSide.countC (h : HostSide) (c ev n : Nat) : HostSide :=
  (h.regs.counting (0x608000 + c * 0x100) (0x608000 + c * 0x100 + 0x100) ev none).foldl
    (fun g j => g.addCounter (Reg.CNT_VALUE_LO c j) (Reg.CNT_VALUE_HI c j) (Reg.CNT_CFG.OVF c j) n) h

/-- Rotation cycles of a cluster's router in which its Sluice port moves `n` bytes, 8 granules in each (R177, R406). -/
def HostSide.countPort (h : HostSide) (k n : Nat) : HostSide := h.countK k 0x02 (((n + 63) / 64 + 7) / 8)

/-- Rotation cycles of a cluster's router in which a core's own cycles move `n` bytes, 4 granules in each (R177, R406). -/
def HostSide.countRotation (h : HostSide) (k n : Nat) : HostSide := h.countK k 0x01 (((n + 63) / 64 + 3) / 4)

/-- `n` bytes of a memory are read or written: the granules of a line store (R406), and of HBM, in whole tiles (R174, R407). -/
def HostSide.countMem (h : HostSide) (load : Bool) (kind unit n : Nat) : HostSide :=
  match kind with
  | 1 => h.countK unit (if load then 0x03 else 0x04) ((n + 63) / 64)
  | 2 => h.countG (if load then 0x01 else 0x02) unit ((n + 2047) / 2048 * 32)
  | _ => h

/-- An access from outside the cluster of a scratchpad or line store, through its Sluice port, or to HBM. -/
def HostSide.countAccess (h : HostSide) (load : Bool) (kind unit n : Nat) : HostSide :=
  let h := h.countMem load kind unit n
  match kind with
  | 0 => h.countPort (unit / 9) n
  | 1 => h.countPort unit n
  | _ => h

/-- A write of a counter's configuration word: the counter is zeroed, OVF clears when written 1 (R400, R417). A SCOPE of 2 or
3 is refused and the configuration stays as it is (R403). `core`: a per-core counter. -/
def HostSide.writeCfg (h : HostSide) (a : Nat) (core : Bool) (w : Word) : HostSide :=
  if core && 2 ≤ w.toNat / 256 % 4 then h
  else
    let old := h.word a
    let keep := if w.msb then 0#32 else old &&& 0x80000000#32
    ((h.setWord a ((w &&& 0x7FFFFFFF#32) ||| keep)).setWord (a + 4) 0).setWord (a + 8) 0

/-! ### Error log (R447 to R449) -/

/-- Ticks in one second (R10). -/
def ticksPerSecond : Nat := 500000000

/-- Puts entry number `n` into the ring, before the entries of the same TICK and a higher code (R449); at most `k` make way. DEDUCED (log
entry 52). -/
def placeEntry (m : SMap LogEntry) (x : LogEntry) : Nat → Nat → SMap LogEntry
  | k + 1, n + 1 =>
    match m.find (n % 256) with
    | some y => if y.tick == x.tick && x.code < y.code then placeEntry (m.put ((n + 1) % 256) y) x k n else m.put ((n + 1) % 256) x
    | none => m.put ((n + 1) % 256) x
  | _, n => m.put (n % 256) x

/-- Enters an error in the log (R449). Class 1 only while LOG_CE is 1, and once a second for each code and unit (R448). -/
def HostSide.log (h : HostSide) (e : Env) (code unit detail addr seq : Nat) : HostSide :=
  let key := code * 256 + unit
  let ce := code / 256 == 1
  let recent := match h.pm.ceSeen.find key with
    | some t => e.tick < t + ticksPerSecond
    | none => false
  if ce && (!h.on Reg.PM_CTRL.LOG_CE || recent) then h
  else
    let n := h.get Reg.PM_LOG_COUNT
    let x : LogEntry := { tick := e.tick, code, unit, detail, addr, cseq := h.get Reg.DET_CSEQ, seq := seq % 2 ^ 32 }
    let log := placeEntry h.pm.log x 255 n
    let pm := { h.pm with log := log, ceSeen := if ce then h.pm.ceSeen.put key e.tick else h.pm.ceSeen }
    let h := { h with pm := pm }
    let last := (SMap.get (fun _ => x) log (n % 256)).code
    let h := (h.set Reg.PM_LOG_COUNT (n + 1)).set Reg.PM_LOG_LAST last
    if 3 ≤ code / 256 then h.setBits Reg.PM_INT_STATUS 64 else h

/-- A global stop is requested (R232): PENDING, from `source` 0 host, 1 management, 2 debug. One that finds a stop pending or in
force is ignored (R235). -/
def HostSide.requestStop (h : HostSide) (source : Nat) : HostSide :=
  if h.get Reg.GSTOP_STATUS.STATE = 0 then
    { (h.set Reg.GSTOP_STATUS.STATE 1).set Reg.GSTOP_STATUS.SOURCE source with insp := { h.insp with stopRelease := false } }
  else h.set Reg.GSTOP_STATUS.IGNORED 1

/-- A class 5 error (R455): logged; the first one sets FATAL and its interrupt, requests a stop when STOP_FATAL is 1, and with
FATAL_SAFE clears BAR_CTRL.HB_EN. -/
def HostSide.fatal (h : HostSide) (e : Env) (code unit detail : Nat) : HostSide :=
  let h := h.log e code unit detail 0 0
  if h.on Reg.PM_STATUS.FATAL then h
  else
    let h := (h.set Reg.PM_STATUS.FATAL 1).setBits Reg.PM_INT_STATUS 8
    let h := if h.on Reg.PM_CTRL.STOP_FATAL && h.get Reg.GSTOP_STATUS.STATE = 0 then h.requestStop 1 else h
    if h.on Reg.PM_CTRL.FATAL_SAFE then h.set Reg.BAR_CTRL.HB_EN 0 else h

/-- The 32 bytes of a log entry (R449). -/
def LogEntry.bytes (x : LogEntry) : List Byte :=
  toLE 8 x.tick ++ toLE 2 x.code ++ toLE 1 (1 + x.code / 256 % 8 * 16) ++ toLE 1 x.unit ++ toLE 4 x.detail
    ++ toLE 8 x.addr ++ toLE 4 x.cseq ++ toLE 4 x.seq

/-- Drops the first element of a list that passes. -/
def dropFirst {α : Type} (p : α → Bool) : List α → List α
  | [] => []
  | x :: t => if p x then t else x :: dropFirst p t

/-- Replaces the first element that passes. -/
def modFirst {α : Type} (p : α → Bool) (f : α → α) : List α → List α
  | [] => []
  | x :: t => if p x then f x :: t else x :: modFirst p f t

/-! ### Memories with tile checksums (R178 to R183) -/

/-- Tiles that `n` bytes at `off` touch, for `n > 0`. -/
def tilesOf (off n : Nat) : List Nat :=
  if n = 0 then [] else (List.range ((off + n - 1) / 2048 + 1 - off / 2048)).map (· + off / 2048)

/-- Sets a tile's poison bit. -/
def Store.poisonTile (st : Store) (t : Nat) : Store :=
  if t ∈ st.poison then st else { st with poison := (st.poison.filter (· < t)) ++ t :: st.poison.filter (t < ·) }

/-- The CRC-32C of a tile's bytes as they lie in memory (R178). -/
def Store.crc (st : Store) (t : Nat) : Nat := (crc32c (st.mem.bytes (t * 2048) 2048)).toNat

/-- The stored checksum of a tile (R178). -/
def Store.sum (st : Store) (t : Nat) : Nat := SMap.get st.crc st.sums t

/-- Does a use of the tile fail: a set poison bit, or a recomputed checksum that differs from the stored one (R180)? -/
def Store.failed (st : Store) (t : Nat) : Bool :=
  decide (t ∈ st.poison) || (match st.sums.find t with | some s => s != st.crc t | none => false)

/-- Failed tiles among those that a use of `n` bytes at `off` verifies (R180). -/
def Store.useBad (st : Store) (off n : Nat) : List Nat := (tilesOf off n).filter st.failed
/-- The first of them. -/
def Store.useFails (st : Store) (off n : Nat) : Option Nat := (tilesOf off n).find? st.failed

/-- Tiles that a write of `n` bytes at `off` covers only in part (R179). -/
def partTiles (off n : Nat) : List Nat :=
  (tilesOf off n).filter fun t => !(off ≤ t * 2048 && (t + 1) * 2048 ≤ off + n)

/-- Failed tiles that a write merges into (R180). -/
def Store.mergeBad (st : Store) (off n : Nat) : List Nat := (partTiles off n).filter st.failed

/-- Recomputes the checksums of the tiles that `n` bytes at `off` touch (R179). -/
def Store.recompute (st : Store) (off n : Nat) : Store :=
  { st with sums := (tilesOf off n).foldl SMap.erase st.sums }

/-- A write (R179): the bytes land and the checksum of each tile they touch is that of its new content. A tile written whole has a
clear poison bit; one that was merged into while it had failed stays failed (R182). -/
def Store.write (st : Store) (off : Nat) (bs : List Byte) : Store :=
  let part := partTiles off bs.length
  let st' := { st with mem := st.mem.setBytes off bs,
                       poison := st.poison.filter fun t => !(t ∈ tilesOf off bs.length) || t ∈ part }
  (st.mergeBad off bs.length).foldl Store.poisonTile (st'.recompute off bs.length)

/-- A 64-bit word changes under an error of its SRAM: its tile keeps the checksum it had (R184). -/
def Store.alter (st : Store) (a w : Nat) : Store :=
  let t := a / 2048
  let st' := { st with mem := st.mem.setBytes (a / 8 * 8) (toLE 8 w) }
  { st' with sums := SMap.set st'.crc st.sums t (st.sum t) }

def Store.read (st : Store) (off n : Nat) : List Byte := st.mem.bytes off n

/-- Poisons every tile that `n` bytes at `off` touch (R181). -/
def Store.poisonRange (st : Store) (off n : Nat) : Store := (tilesOf off n).foldl Store.poisonTile st

def HostSide.hbmOf (h : HostSide) (g : Nat) : Store := SMap.get (fun _ => {}) h.hbm g
def HostSide.setHbm (h : HostSide) (g : Nat) (st : Store) : HostSide := { h with hbm := h.hbm.put g st }
def HostSide.ls (h : HostSide) (k : Nat) : Store := SMap.get (fun _ => {}) h.lstore k
def HostSide.setLs (h : HostSide) (k : Nat) (st : Store) : HostSide := { h with lstore := h.lstore.put k st }

/-- Marks line-store tiles dirty (R366). -/
def HostSide.dirtyLs (h : HostSide) (k off n : Nat) : HostSide :=
  { h with lsDirty := (tilesOf off n).foldl (fun l t => if (k * 65536 + t) ∈ l then l else (k * 65536 + t) :: l) h.lsDirty }

/-- A failure under R180 or R181: counted, its status bit set, the first one located, entered in the log (R182, R183).
`kind`: 0 scratchpad, 1 line store, 2 HBM, 3 transfer piece, 4 crossing buffer. -/
def HostSide.csumFail (h : HostSide) (e : Env) (kind unit addr : Nat) : HostSide :=
  let clear := h.word 0x100020 &&& 31#32 == 0#32
  let h := if clear then ((h.set Reg.MEM_CSUM_LOC.KIND kind).set Reg.MEM_CSUM_LOC.UNIT unit).set Reg.MEM_CSUM_ADDR addr else h
  let h := h.inc Reg.MEM_CSUM_COUNT 1
  let h := h.set ⟨0x100020, kind, 1⟩ 1
  let h := if kind = 0 then h.countK (unit / 9) 0x0C 1 else if kind = 1 then h.countK unit 0x0C 1 else h
  h.log e 0x0201 unit kind addr 0

/-! ### Core sites and logical cores (R18, R19) -/

def HostSide.core (h : HostSide) (site : Nat) : CoreSt := SMap.get (fun _ => {}) h.cores site
def HostSide.setCore (h : HostSide) (site : Nat) (x : CoreSt) : HostSide := { h with cores := h.cores.put site x }
/-- Physical site that carries a logical core. -/
def HostSide.siteOf (h : HostSide) (c : Nat) : Option Nat := h.insp.siteOf.find c
/-- Logical core that a site carries. -/
def HostSide.lcoreOf (h : HostSide) (site : Nat) : Option Nat :=
  (h.insp.siteOf.find? (fun x => x.2 == site)).map (·.1)
/-- State of a site: CORE_STATUS.STATE (R142). -/
def HostSide.coreState (h : HostSide) (site : Nat) : Nat := h.get (Reg.CORE_STATUS.STATE site)

/-- The site of a logical core when it is not fenced (R212). -/
def HostSide.liveSite (h : HostSide) (c : Nat) : Option Nat :=
  match h.siteOf c with
  | some s => if h.coreState s == 6 then none else some s
  | none => none

/-- Register field of token `t` of a site (R145). -/
def tokenRF (site t : Nat) : RF :=
  if t % 2 = 0 then Reg.CORE_TOKEN_EVEN site (t / 2) else Reg.CORE_TOKEN_ODD site (t / 2)
def HostSide.token (h : HostSide) (site t : Nat) : Nat := h.get (tokenRF site t)

/-- Adds to a token of a logical core, modulo 65,536 (R120). A core without a site, or fenced, is not signalled (R212). -/
def HostSide.addToken (h : HostSide) (c t n : Nat) : HostSide :=
  match h.siteOf c with
  | none => h
  | some site =>
    if h.coreState site == 6 then h
    else (h.set (tokenRF site t) (h.token site t + n)).countC c 0x0D n

/-! ### Memories by kind: 0 scratchpad of a site, 1 line store of a cluster, 2 HBM group -/

def HostSide.storeOf (h : HostSide) (kind unit : Nat) : Store :=
  match kind with
  | 0 => (h.core unit).spad
  | 1 => h.ls unit
  | _ => h.hbmOf unit

/-- Replaces a memory, leaving what counts as written (R366). -/
def HostSide.putStore (h : HostSide) (kind unit : Nat) (st : Store) : HostSide :=
  match kind with
  | 0 => h.setCore unit { h.core unit with spad := st }
  | 1 => h.setLs unit st
  | _ => h.setHbm unit st

/-- Replaces a memory after a write of `n` bytes at `off`, marking its tiles dirty (R366). -/
def HostSide.setStore (h : HostSide) (kind unit off n : Nat) (st : Store) : HostSide :=
  match kind with
  | 0 =>
    let x := h.core unit
    h.setCore unit { x with spad := st, dirty := (tilesOf off n).foldl (fun l t => if t ∈ l then l else t :: l) x.dirty }
  | 1 => (h.setLs unit st).dirtyLs unit off n
  | _ => h.setHbm unit st

/-- What reads of an SRAM met (R184): corrected words are counted; words that a double-bit error, or an error of more bits that passes
unnoticed, changed are as they stand in the memory. -/
def HostSide.eccReads (h : HostSide) (e : Env) (kind unit : Nat) (x : Ecc) : HostSide :=
  if x == {} then h
  else
    let h := h.putStore kind unit ((x.ue ++ x.alt).foldl (fun st w => st.alter w.1 w.2) (h.storeOf kind unit))
    if x.ce = 0 then h
    else
      let h := (h.inc Reg.MEM_SRAM_CE x.ce).log e 0x0101 unit 0 0 0
      match kind, h.lcoreOf unit with
      | 0, some c => h.countC c 0x10 x.ce
      | _, _ => h

/-- The same for reads that a tile use makes: a double-bit error is a checksum failure of its tile (R184), which the use finds. -/
def HostSide.eccUse (h : HostSide) (e : Env) (kind unit : Nat) (x : Ecc) : HostSide :=
  if 2 ≤ kind || x == {} then h
  else
    let h := h.eccReads e kind unit x
    h.putStore kind unit (x.ue.foldl (fun st w => st.poisonTile (w.1 / 2048)) (h.storeOf kind unit))

/-- The same for reads at several units of one kind (R184). -/
def HostSide.eccUses (h : HostSide) (e : Env) (kind : Nat) (l : List (Nat × Ecc)) : HostSide :=
  l.foldl (fun h x => h.eccUse e kind x.1 x.2) h

/-- Is the token reached for `v`: the signed 16-bit difference is zero or positive (R120). -/
def reached (token v : Nat) : Bool := 0 ≤ sext 16 (token + 65536 - v % 65536)

/-! ### Stream contexts (R96) -/

def HostSide.ctx (h : HostSide) (x : Nat) : Ctx := SMap.get (fun _ => {}) h.ctxs x
def HostSide.setCtx (h : HostSide) (x : Nat) (c : Ctx) : HostSide := { h with ctxs := h.ctxs.put x c }
/-- A field of a context's active copy (R96). -/
def HostSide.act (h : HostSide) (x : Nat) (f : RF) : Nat := f.ofWord (RegFile.word (h.ctx x).active f.addr)

/-! ### Recipe headers (R337) -/

/-- A little-endian field of a recipe header. -/
def Recipe.u (r : Recipe) (off n : Nat) : Nat := leNat ((r.hdr.drop off).take n)
def Recipe.cluMask (r : Recipe) : Nat := r.u 96 1
def Recipe.cores (r : Recipe) : Nat := r.u 97 1
def Recipe.kind (r : Recipe) : Nat := r.u 98 1 % 4
/-- Action for UNDECIDED items: eject (R30). -/
def Recipe.default (r : Recipe) : Bool := bit (r.u 98 1) 2
def Recipe.ring (r : Recipe) : Nat := r.u 99 1 % 16
def Recipe.trigSrc (r : Recipe) : Nat := r.u 111 1 % 8
/-- Lines of a window; a WIN_LINES of 0, to which the rules give no meaning, acts as 1. DESIGN CHOICE (log entry 19). -/
def Recipe.winLines (r : Recipe) : Nat := max 1 (r.u 112 4)
def Recipe.di (r : Recipe) : Nat := r.u 116 1 % 16
/-- Level of the input that opens an input window: 1 for a rising edge (R337). -/
def Recipe.openLevel (r : Recipe) : Bool := !bit (r.u 116 1) 4
/-- The contexts the header lists, in its order (R337). -/
def Recipe.ctxs (r : Recipe) : List Nat :=
  ((List.range 8).map fun i => r.u (256 + 64 * i) 2).filter (· != 0xFFFF)
/-- Logical cores the recipe uses (R209). -/
def Recipe.lcores (r : Recipe) : List Nat :=
  (List.range 64).filter fun c => bit r.cluMask (c / 8) && c % 8 < r.cores
/-- Its entry lists: logical core and far address (R337, kind 5). -/
def Recipe.entries (r : Recipe) : List (Nat × Nat) :=
  (r.segs.filter fun s => s.1 == 5).map fun s => (s.2.1, s.2.2.1)
/-- Entry of slot `i` of Sluice table `n` in the image, if the image has the table (R337, kind 2). -/
def Recipe.slot (r : Recipe) (n i : Nat) : Option Nat :=
  (r.segs.find? fun s => s.1 == 2 && s.2.1 == n).map fun s => leNat ((s.2.2.2.drop (4 * i)).take 4)
/-- Does the recipe own slot `i` of table `n`? -/
def Recipe.owns (r : Recipe) (n i : Nat) : Bool := match r.slot n i with | some x => x % 4 == 1 | none => false
/-- Tables in which the recipe owns a slot. -/
def Recipe.tables (r : Recipe) : List Nat := (List.range 26).filter fun n => (List.range 256).any (r.owns n)

/-- Is the replaced recipe still to judge items of its own (R24)? -/
def HostSide.runs (h : HostSide) (r : Recipe) : Bool :=
  h.insp.items.any fun i => i.recipe == r.id && i.forced == 0 && !i.released

/-- Recipes whose owned slots stay in force: the armed one and older ones with items to judge (R195). -/
def HostSide.keepers (h : HostSide) : List Recipe := h.insp.armed.toList ++ h.insp.olds.filter h.runs

/-- The recipe whose schedule has cluster `k`: the oldest of those with items to judge that run there, else the armed one (R24).
DEDUCED (log entry 19). -/
def HostSide.holder (h : HostSide) (k : Nat) : Option Recipe :=
  match (h.insp.olds.filter fun r => h.runs r && bit r.cluMask k).getLast? with
  | some r => some r
  | none => h.insp.armed.filter fun r => bit r.cluMask k

/-- Entry lists of the schedules in progress, each with its core, its address and its recipe: on each cluster those of the recipe that
has it (R24, R207). -/
def HostSide.entries (h : HostSide) : List (Nat × Nat × Nat) :=
  h.keepers.flatMap fun r => (r.entries.filter fun p => (h.holder (p.1 / 8)).map (·.id) == some r.id).map fun p => (p.1, p.2, r.id)

/-! ### Free values -/

/-- A value the rules leave open, fresh for each use (log entry 10); `tag` says which rule asks. -/
def HostSide.free (h : HostSide) (tag : Nat) : HostSide × Nat :=
  ({ h with fresh := h.fresh + 1 }, (Config.freeValue h.fresh tag).toNat)

/-! ### Descriptors and completions (R326 to R331) -/

def HostSide.started (h : HostSide) (q : Nat) : List Started := SMap.get (fun _ => []) h.sq q
def HostSide.setStarted (h : HostSide) (q : Nat) (l : List Started) : HostSide := { h with sq := h.sq.put q l }

/-- A little-endian field of a descriptor. -/
def Started.fld (d : Started) (off n : Nat) : Nat := leNat ((d.desc.drop off).take n)
def Started.opcode (d : Started) : Nat := d.fld 1 1

/-- Updates the started descriptor at position `idx`. -/
def HostSide.modStarted (h : HostSide) (q idx : Nat) (f : Started → Started) : HostSide :=
  h.setStarted q ((h.started q).map fun d => if d.idx == idx then f d else d)

/-- A started descriptor ends with a status (R330); the first ending stands. DEDUCED (log entry 44). -/
def HostSide.finish (h : HostSide) (q idx status detail result : Nat) : HostSide :=
  h.modStarted q idx fun d => if d.fin.isSome then d else { d with fin := some { status, detail, result } }

/-- The oldest started descriptor of a queue with the given opcode that nobody has taken over and that has not ended. -/
def HostSide.current (h : HostSide) (q op : Nat) : Option Started :=
  (h.started q).find? fun d => d.opcode == op && d.fin.isNone && !d.accepted

/-- Client of a queue (R326). -/
def HostSide.client (h : HostSide) (q : Nat) : Nat := h.get (Reg.SQ_CFG.CLIENT q)

/-- Runs a descriptor's action on the oldest waiting one of its opcode. -/
def HostSide.withCurrent (h : HostSide) (q op : Nat) (f : Started → HostSide) : HostSide :=
  match h.current q op with
  | some d => f d
  | none => h

/-- Size of a ring from its log2(SIZE) − 6 field. -/
def sizeOf (l : Nat) : Nat := 2 ^ (l + 6)

/-! ### Host memory -/

def HostSide.hostRead (h : HostSide) (a n : Nat) : List Byte := h.mem.bytes a n
/-- Does a read of `n` bytes at `a` return an error (R330)? DESIGN CHOICE (log entry 42). -/
def HostSide.readErr (h : HostSide) (a n : Nat) : Bool :=
  n != 0 && h.noRead.any fun x => decide (x.1 < a + n) && decide (a < x.1 + x.2)
def HostSide.hostWrite (h : HostSide) (a : Nat) (bs : List Byte) : HostSide :=
  ({ h with mem := h.mem.setBytes a bs }).countG 0x31 0 bs.length

/-! ### Commit points (R16, R225) -/

/-- A commit point applied takes the next commit sequence (R225). DEDUCED (log entry 18). -/
def HostSide.nextCseq (h : HostSide) : HostSide := h.add Reg.DET_CSEQ 1

end Sys2Proof.Machine
end

