-- ==== Sys2Proof/Machine/BarFrame.lean ====
section
/-! DEFINITION. Frames of the isolation barrier (R270 to R275). -/

namespace Sys2Proof.Machine
open Sys2Proof

/-- One byte into CRC-8 with the polynomial 0x07 (R271). -/
def crc8Byte (c b : Nat) : Nat :=
  forN 8 (fun _ c => if 128 ≤ c then (2 * c % 256) ^^^ 7 else 2 * c) (c ^^^ b)

/-- The message CRC over TYPE and payload bytes 0 to 7 (R271). -/
def msgCrc (type payload : Nat) : Nat :=
  (List.range 8).foldl (fun c i => crc8Byte c (payload / 256 ^ i % 256)) (crc8Byte 0 (type % 256))

/-- Scrambler bits for `n` data bits, first bit lowest: x^7 + x^6 + 1, reloaded with 0x7F (R270). -/
def scramble (n : Nat) : Nat :=
  ((List.range n).foldl (fun (x : Nat × Nat) i =>
    let b := x.1 / 64 % 2 ^^^ x.1 / 32 % 2
    ((x.1 * 2 + b) % 128, x.2 + b * 2 ^ i)) (0x7F, 0)).2

/-- SYNC (R270). -/
def barSync : Nat := 0xA0F
/-- Odd parity bit over a 7-bit WAIT (R270). -/
def waitParity (w : Nat) : Nat := (1 + ((List.range 7).map fun i => w / 2 ^ i % 2).sum) % 2

/-- The 100 bits of a frame, bit 0 first sent (R270). -/
def frameOf (type payload wait : Nat) : Nat :=
  let data := type % 256 + payload % 2 ^ 64 * 2 ^ 8 + msgCrc type payload * 2 ^ 72
  barSync + (data ^^^ scramble 80) * 2 ^ 12 + wait % 128 * 2 ^ 92 + waitParity (wait % 128) * 2 ^ 99

/-- What a receiver finds in 100 bits: SYNC in place, CRC and WPAR correct, TYPE, payload, WAIT. -/
structure FrameRx where
  sync : Bool
  good : Bool
  type : Nat
  payload : Nat
  wait : Nat
deriving DecidableEq, Repr

def frameRead (f : Nat) : FrameRx :=
  let data := f / 2 ^ 12 % 2 ^ 80 ^^^ scramble 80
  let type := data % 256
  let payload := data / 2 ^ 8 % 2 ^ 64
  let wait := f / 2 ^ 92 % 128
  { sync := f % 2 ^ 12 == barSync, good := data / 2 ^ 72 == msgCrc type payload && f / 2 ^ 99 % 2 == waitParity wait,
    type, payload, wait }

/-- Types a side may receive (R275). -/
def typeOk (toHost : Bool) (t : Nat) : Bool :=
  if toHost then t == 0x01 || t == 0x10 || t == 0x11 || t == 0x12 || t == 0x13 || t == 0x14 || t == 0x23
  else t == 0x01 || t == 0x20 || t == 0x21 || t == 0x22 || t == 0x23

/-- Rank of a message for a frame, lowest sent first (R274); the forced HEARTBEAT and the ticks are the launch's own. -/
def rankOf (toHost : Bool) (t : Nat) : Nat :=
  if toHost then (match t with | 0x14 => 1 | 0x13 => 2 | 0x12 => 3 | 0x23 => 4 | 0x11 => 5 | _ => 6)
  else (match t with | 0x20 => 1 | 0x21 => 2 | 0x22 => 3 | 0x23 => 4 | _ => 5)

/-- The highest-ranked message waiting, the oldest of its rank. -/
def pickMsg (toHost : Bool) (l : List Msg) : Option Msg :=
  (List.range 7).findSome? fun r => l.find? fun m => rankOf toHost m.type == r

/-- Removes the first message equal to `m`. -/
def dropMsg (m : Msg) : List Msg → List Msg
  | [] => []
  | x :: t => if x = m then t else x :: dropMsg m t

/-- HB_SEQ after `n`: 0xFFFF wraps to 1 (R272). -/
def nextHbSeq (n : Nat) : Nat := if n = 0xFFFF then 1 else n + 1

/-- A frame position at a receiver (R272): the lock is gained after three SYNC patterns and lost after three positions without
one. Answers the end and whether it was locked, so that the frame counts. -/
def BarEnd.position (b : BarEnd) (sync : Bool) : BarEnd × Bool :=
  if b.locked then
    let miss := if sync then 0 else b.missRun + 1
    if 3 ≤ miss then ({ b with locked := false, syncRun := 0, missRun := 0 }, false)
    else ({ b with missRun := miss }, true)
  else
    let run := if sync then b.syncRun + 1 else 0
    if 3 ≤ run then ({ b with locked := true, syncRun := 0, missRun := 0 }, true)
    else ({ b with syncRun := run }, false)

/-- The oldest received message of a type. -/
def BarEnd.take (b : BarEnd) (t : Nat) : Option (Msg × BarEnd) :=
  (b.rx.find? fun m => m.type == t).map fun m => (m, { b with rx := dropMsg m b.rx })

/-- After a launch, the messages that wait miss their own window's frame (R273). -/
def BarEnd.settleTx (b : BarEnd) : BarEnd := { b with tx := b.tx.map fun m => { m with late := true } }

end Sys2Proof.Machine
end

