-- ==== Sys2Proof/Machine/Numbers.lean ====
section
/-! DEFINITION. The number formats of the cores (R124 to R129): exact values, the one rounding (RNE), and binary32
arithmetic made of exact arithmetic and that rounding. -/

namespace Sys2Proof

/-- A value of the FP32 domain: NaN, a signed infinity, or ± m × 2^e. Zero keeps its sign. -/
inductive Num where
  | nan
  | inf (neg : Bool)
  | fin (neg : Bool) (m : Nat) (e : Int)
deriving DecidableEq, Repr

/-- Bits needed for `m`. -/
def bitLen (m : Nat) : Nat := if m = 0 then 0 else Nat.log2 m + 1

/-- `m / 2^s` rounded to nearest, a tie to even. -/
def rneShr (m s : Nat) : Nat :=
  let q := m / 2 ^ s
  let r := m % 2 ^ s
  if 2 ^ s < 2 * r || (2 * r == 2 ^ s && q % 2 == 1) then q + 1 else q

/-- `z / 2^s` rounded to nearest, a tie to even (VOP SHR, R136). -/
def rneShrI (z : Int) (s : Nat) : Int :=
  let q := z / (2 ^ s : Int)
  let r := z % (2 ^ s : Int)
  if (2 ^ s : Int) < 2 * r || (2 * r == (2 ^ s : Int) && q % 2 == 1) then q + 1 else q

/-- The exact quotient `z / n` rounded to nearest, a tie to even (R153). -/
def rneDiv (z : Int) (n : Nat) : Int :=
  let q := z / (n : Int)
  let r := z % (n : Int)
  if (n : Int) < 2 * r || (2 * r == (n : Int) && q % 2 == 1) then q + 1 else q

/-- A binary floating format: exponent and mantissa bits, bias, and whether the exponent of all ones holds infinity and
NaNs (it does not in FP8-E4M3, R125). -/
structure FltFmt where
  eb : Nat
  mb : Nat
  bias : Nat
  hasInf : Bool
deriving DecidableEq, Repr

def fltE4M3 : FltFmt := ⟨4, 3, 7, false⟩
def fltE5M2 : FltFmt := ⟨5, 2, 15, true⟩
def fltFP16 : FltFmt := ⟨5, 10, 15, true⟩
def fltBF16 : FltFmt := ⟨8, 7, 127, true⟩
def fltFP32 : FltFmt := ⟨8, 23, 127, true⟩

/-- Exponent of the last place of a subnormal. -/
def FltFmt.emin (f : FltFmt) : Int := 1 - (f.bias : Int) - (f.mb : Int)

/-- Decodes a word of the format exactly, subnormals included (R125, R127). -/
def FltFmt.decode (f : FltFmt) (w : Nat) : Num :=
  let neg := bit w (f.eb + f.mb)
  let ex := w / 2 ^ f.mb % 2 ^ f.eb
  let m := w % 2 ^ f.mb
  if ex = 2 ^ f.eb - 1 && (if f.hasInf then true else m == 2 ^ f.mb - 1) then
    (if f.hasInf && m = 0 then .inf neg else .nan)
  else if ex = 0 then .fin neg m f.emin
  else .fin neg (m + 2 ^ f.mb) (f.emin + (ex : Int) - 1)

/-- The canonical NaN (R125). -/
def FltFmt.canonNaN (f : FltFmt) : Nat :=
  if f.hasInf then (2 ^ f.eb - 1) * 2 ^ f.mb + 2 ^ (f.mb - 1) else 2 ^ (f.eb + f.mb) - 1

/-- The infinity of a sign, as a word. -/
def FltFmt.infWord (f : FltFmt) (neg : Bool) : Nat := (b2n neg * 2 ^ f.eb + (2 ^ f.eb - 1)) * 2 ^ f.mb

/-- The largest finite magnitude, as a word without sign. -/
def FltFmt.maxWord (f : FltFmt) : Nat :=
  if f.hasInf then (2 ^ f.eb - 1) * 2 ^ f.mb - 1 else 2 ^ (f.eb + f.mb) - 2

/-- RNE of `m × 2^e` to the format's precision, with an exponent unbounded above (R128). -/
def FltFmt.round (f : FltFmt) (m : Nat) (e : Int) : Nat × Int :=
  let s := max ((bitLen m : Int) - (f.mb + 1 : Nat)) (f.emin - e)
  if s ≤ 0 then (m, e) else (rneShr m s.toNat, e + s)

/-- Magnitude word of a value of the format's precision; it may exceed the largest finite one. -/
def FltFmt.magWord (f : FltFmt) (m : Nat) (e : Int) : Nat :=
  if m = 0 then 0
  else
    let top : Int := e + (bitLen m : Int) - 1
    if top < 1 - (f.bias : Int) then m * 2 ^ (e - f.emin).toNat
    else
      let sh : Int := (f.mb + 1 : Nat) - (bitLen m : Int)
      let mant := if 0 ≤ sh then m * 2 ^ sh.toNat else m / 2 ^ (-sh).toNat
      (top + (f.bias : Int)).toNat * 2 ^ f.mb + mant - 2 ^ f.mb

/-- A binary32 result of arithmetic: RNE, overflow to infinity (R136). -/
def Num.toFP32 (x : Num) : Num :=
  match x with
  | .fin neg m e =>
    let (m', e') := fltFP32.round m e
    if fltFP32.maxWord < fltFP32.magWord m' e' then .inf neg else .fin neg m' e'
  | y => y

/-- The FP32 word of a value of the FP32 domain. -/
def Num.word32 (x : Num) : Nat :=
  match x with
  | .nan => fltFP32.canonNaN
  | .inf neg => fltFP32.infWord neg
  | .fin neg m e =>
    let (m', e') := fltFP32.round m e
    let w := fltFP32.magWord m' e'
    b2n neg * 2 ^ 31 + (if fltFP32.maxWord < w then fltFP32.infWord false else w)

def num32 (w : Nat) : Num := fltFP32.decode w

/-- An integer as a value. -/
def Num.ofInt (z : Int) : Num := .fin (decide (z < 0)) z.natAbs 0

/-- Signed mantissa. -/
def sgnI (neg : Bool) (m : Nat) : Int := if neg then -(m : Int) else (m : Int)

/-- a × b + c, rounded once (IEEE 754 binary32, RNE). -/
def Num.fma (a b c : Num) : Num :=
  match a, b with
  | .nan, _ => .nan
  | _, .nan => .nan
  | .inf s, .inf t => (match c with
      | .nan => .nan
      | .inf u => if u == (s != t) then .inf u else .nan
      | .fin .. => .inf (s != t))
  | .inf s, .fin t m _ => if m = 0 then .nan else (match c with
      | .nan => .nan
      | .inf u => if u == (s != t) then .inf u else .nan
      | .fin .. => .inf (s != t))
  | .fin s m _, .inf t => if m = 0 then .nan else (match c with
      | .nan => .nan
      | .inf u => if u == (s != t) then .inf u else .nan
      | .fin .. => .inf (s != t))
  | .fin s ma ea, .fin t mb eb =>
    match c with
    | .nan => .nan
    | .inf u => .inf u
    | .fin u mc ec =>
      let p := s != t
      let lo := min (ea + eb) ec
      let z := sgnI p (ma * mb * 2 ^ (ea + eb - lo).toNat) + sgnI u (mc * 2 ^ (ec - lo).toNat)
      if z = 0 then .fin (p && u) 0 0
      else Num.toFP32 (.fin (decide (z < 0)) z.natAbs lo)

def Num.one : Num := .fin false 1 0
def Num.zero : Num := .fin false 0 0
def Num.add (a b : Num) : Num := Num.fma a Num.one b
def Num.mul (a b : Num) : Num := Num.fma a b (.fin true 0 0)
def Num.neg : Num → Num
  | .nan => .nan
  | .inf s => .inf (!s)
  | .fin s m e => .fin (!s) m e
def Num.sub (a b : Num) : Num := Num.add a b.neg
def Num.abs : Num → Num
  | .nan => .nan
  | .inf _ => .inf false
  | .fin _ m e => .fin false m e
def Num.isNaN : Num → Bool
  | .nan => true
  | _ => false

/-- IEEE division of a finite or infinite value by a positive integer below 2^16, RNE (R153). -/
def Num.divNat (a : Num) (n : Nat) : Num :=
  match a with
  | .fin s m e =>
    if m = 0 then .fin s 0 0
    else
      let q := m * 2 ^ 64 / n
      Num.toFP32 (.fin s (2 * q + b2n (m * 2 ^ 64 % n != 0)) (e - 65))
  | y => y

/-- Compares two finite values: sign of a − b; zeros are equal. -/
def Num.cmpFin (s : Bool) (ma : Nat) (ea : Int) (t : Bool) (mb : Nat) (eb : Int) : Int :=
  let lo := min ea eb
  sgnI s (ma * 2 ^ (ea - lo).toNat) - sgnI t (mb * 2 ^ (eb - lo).toNat)

/-- a < b for values that are no NaN; −0 and +0 are equal. -/
def Num.lt (a b : Num) : Bool :=
  match a, b with
  | .inf s, .inf t => s && !t
  | .inf s, .fin .. => s
  | .fin .., .inf t => !t
  | .fin s ma ea, .fin t mb eb => decide (Num.cmpFin s ma ea t mb eb < 0)
  | _, _ => false

/-- Equality of values that are no NaN; −0 equals +0. -/
def Num.eqv (a b : Num) : Bool := !a.isNaN && !b.isNaN && !a.lt b && !b.lt a

/-- Is the sign negative (−0 included)? -/
def Num.isNeg : Num → Bool
  | .nan => false
  | .inf s => s
  | .fin s _ _ => s

/-- MAX of R136: a NaN operand gives NaN, −0 counts as less than +0. -/
def Num.max (a b : Num) : Num :=
  if a.isNaN || b.isNaN then .nan
  else if a.lt b then b else if b.lt a then a else if a.isNeg then b else a

/-- MIN of R136. -/
def Num.min (a b : Num) : Num :=
  if a.isNaN || b.isNaN then .nan
  else if a.lt b then a else if b.lt a then b else if a.isNeg then a else b

/-- RNE of a finite value to an integer. -/
def rneInt (neg : Bool) (m : Nat) (e : Int) : Int :=
  if 0 ≤ e then sgnI neg (m * 2 ^ e.toNat) else sgnI neg (rneShr m (-e).toNat)

/-- floor of a finite non-negative value. -/
def floorNat (m : Nat) (e : Int) : Nat := if 0 ≤ e then m * 2 ^ e.toNat else m / 2 ^ (-e).toNat

end Sys2Proof
end

