-- ==== Sys2Proof/Machine/FieldBase.lean ====
section
/-! DEFINITION. The field die's shared operations: positions, messages to the host side, trigger sources (R278), the Weir's
leads, checks and reports (R281 to R286), the safe state (R292). -/

namespace Sys2Proof.Machine
open Sys2Proof

/-- The signed difference a − b of two 32-bit counts (R11). -/
def sdiff (a b : Nat) : Int := sext 32 (a % 2 ^ 32 + 2 ^ 32 - b % 2 ^ 32)

def FieldDie.chan (d : FieldDie) (ch : Nat) : EncCh := SMap.get (fun _ => {}) d.enc ch
def FieldDie.setChan (d : FieldDie) (ch : Nat) (x : EncCh) : FieldDie := { d with enc := d.enc.put ch x }
def FieldDie.src (d : FieldDie) (j : Nat) : TrigSrc := SMap.get (fun _ => {}) d.trig j
def FieldDie.setSrc (d : FieldDie) (j : Nat) (x : TrigSrc) : FieldDie := { d with trig := d.trig.put j x }
def FieldDie.grp (d : FieldDie) (g : Nat) : WeirGroup := SMap.get (fun _ => {}) d.weir g
def FieldDie.strobe (d : FieldDie) (s : Nat) : Strobe := SMap.get (fun _ => {}) d.strobes s
def FieldDie.setStrobe (d : FieldDie) (s : Nat) (x : Strobe) : FieldDie := { d with strobes := d.strobes.put s x }
def FieldDie.valve (d : FieldDie) (p : Nat) : ValvePort := SMap.get (fun _ => {}) d.valves p
def FieldDie.setValve (d : FieldDie) (p : Nat) (x : ValvePort) : FieldDie := { d with valves := d.valves.put p x }
def FieldDie.safe (d : FieldDie) : Bool := d.on Reg.FLD_STATUS.SAFE

/-- P of a channel as 32 bits (R244). -/
def FieldDie.pos (d : FieldDie) (ch : Nat) : Nat := d.get (Reg.ENC_POS ch)
/-- Mode of a channel (R239). -/
def FieldDie.mode (d : FieldDie) (ch : Nat) : Nat := d.get (Reg.ENC_CFG.MODE ch)

/-! ### Messages (R272, R275) -/

/-- Presents a message; before the controller runs the link it finds no frame and is discarded (R272). -/
def FieldDie.present (d : FieldDie) (type payload : Nat) : FieldDie :=
  if d.ctl = 0 then d else { d with port := { d.port with tx := d.port.tx ++ [{ type, payload }] } }

/-- Presents a FAULT message (R275): `hb` heartbeat lost, `enc` the channel whose status bit set, `cancel` WEIR_CANCEL. -/
def FieldDie.fault (d : FieldDie) (hb cancel : Bool) (enc : Option Nat) : FieldDie :=
  let st := match enc with | some ch => (1 + 2 * ch) * 2 ^ 3 + d.get ⟨(Reg.ENC_STATUS.ILLEGAL ch).addr, 0, 9⟩ * 2 ^ 16 | none => 0
  d.present 0x14 (d.get Reg.FLD_STATUS.FIELD_FAULT + 2 * b2n (!d.on Reg.FLD_STATUS.LP_OK) + 4 * b2n hb + 64 * b2n cancel + st
    + satU 16 d.cancelled * 2 ^ 32 + satU 16 d.crcErr * 2 ^ 48)

/-- Sets bits of ENC_STATUS; one enabled in ENC_FAULT_EN that was clear sends FAULT (R262). -/
def FieldDie.encStatus (d : FieldDie) (ch m : Nat) : FieldDie :=
  let f : RF := ⟨(Reg.ENC_STATUS.ILLEGAL ch).addr, 0, 9⟩
  let old := d.get f
  let d := d.set f (old ||| m)
  if (m ^^^ (m &&& old)) &&& d.get (Reg.ENC_FAULT_EN ch) != 0 then d.fault false false (some ch) else d

/-- The FAULT of a safe-state entry is presented as soon as the field-to-host link is locked (R292). -/
def FieldDie.notice (d : FieldDie) (linked : Bool) : FieldDie :=
  match d.due with
  | some hb => if linked && d.ctl != 0 then { d with due := none }.fault hb true none else d
  | none => d

/-- SPEED of an ENC_SNAPSHOT: v >> 24, saturating at 24 bits (R275). -/
def FieldDie.speed24 (d : FieldDie) (ch : Nat) : Nat := wrap 24 (satS 24 ((d.chan ch).v / 2 ^ 24))

/-- Payload of an ENC_SNAPSHOT (R275). -/
def FieldDie.snapPayload (d : FieldDie) (ch kind src pos : Nat) : Nat :=
  ch + kind * 4 + src * 16 + d.get (Reg.ENC_STATUS.LOST ch) * 2 ^ 7 + pos * 2 ^ 8 + d.speed24 ch * 2 ^ 40

/-! ### Trigger sources (R278) -/

/-- Is it a snapshot that gives the base of source `j`: KIND 1 or 2 (R275)? -/
def Msg.basesSrc (m : Msg) (j : Nat) : Bool :=
  m.type == 0x11 && (m.payload / 4 % 4 == 1 || m.payload / 4 % 4 == 2) && m.payload / 16 % 8 == j

/-- Counts of a tick. -/
def FieldDie.trigN (d : FieldDie) (j : Nat) : Nat := max 1 (d.get (Reg.TRIG_CFG.N j))

/-- The index k of the next tick at enable: the smallest whose count TRIG_START + k × N lies more than N counts ahead of P (R278). -/
def FieldDie.trigFirst (d : FieldDie) (j : Nat) : Nat :=
  let gap := sdiff (d.pos (d.get (Reg.TRIG_CFG.CH j)) + d.trigN j) (d.get (Reg.TRIG_START j))
  if gap < 0 then 0 else gap.toNat / d.trigN j + 1

/-- The count of that tick. -/
def FieldDie.trigBase (d : FieldDie) (j : Nat) : Nat :=
  (d.get (Reg.TRIG_START j) + d.trigFirst j * d.trigN j) % 2 ^ 32

/-- Recomputes NEXT as at enable and presents a snapshot of it; no tick before that has launched (R278). -/
def FieldDie.trigRestart (d : FieldDie) (j kind : Nat) : FieldDie :=
  let k := d.trigFirst j
  let d := d.set (Reg.TRIG_NEXT j) (d.trigBase j)
  let d := d.present 0x11 (d.snapPayload (d.get (Reg.TRIG_CFG.CH j)) kind j (d.get (Reg.TRIG_NEXT j)))
  d.setSrc j { d.src j with hold := d.port.tx.countP (·.basesSrc j), idx := k % 2 }

/-- The source makes its next tick: it waits for a frame with bit 0 of its index, NEXT moves on, and mode 1 strobes of the source are
due (R275, R278, R280). The index goes on by one with each tick, beyond 2^32 counts too. DEDUCED (log entry 24). -/
def FieldDie.makeTick (d : FieldDie) (j : Nat) (late : Bool) : FieldDie :=
  let x := d.src j
  let d := d.setSrc j { x with tick := some (x.idx, late), idx := (x.idx + 1) % 2 }
  let d := d.set (Reg.TRIG_NEXT j) (d.get (Reg.TRIG_NEXT j) + d.trigN j)
  let d := d.set (Reg.TRIG_TICKS j) (d.get (Reg.TRIG_TICKS j) + 1)
  let d := if late then d.inc Reg.FLD_LATE 1 else d
  forN 4 (fun s d =>
    if d.get (Reg.STB_CFG.MODE s) = 1 && d.get (Reg.STB_CFG.SRC s) = j then
      d.setStrobe s { d.strobe s with due := (d.strobe s).due + 1 } else d) d

/-- Ticks a source owes: those whose count P has reached (R278). -/
def FieldDie.owed (d : FieldDie) (j : Nat) : Nat :=
  let x := sdiff (d.pos (d.get (Reg.TRIG_CFG.CH j))) (d.get (Reg.TRIG_NEXT j))
  if x < 0 then 0 else x.toNat / d.trigN j + 1

/-- P has moved: the source ticks when NEXT is reached and no tick of it waits for a frame; at 64 owed ticks it drops them all
and restarts with a KIND 2 snapshot (R278). -/
def FieldDie.trigCheck (d : FieldDie) (j : Nat) : FieldDie :=
  if !d.on (Reg.TRIG_CFG.EN j) || (d.src j).hold != 0 then d
  else
    let n := d.owed j
    if 64 ≤ n then (d.inc (Reg.TRIG_SKIPPED j) n).trigRestart j 2
    else if n = 0 || (d.src j).tick.isSome then d
    else d.makeTick j false

/-- P of a channel has changed. -/
def FieldDie.moved (d : FieldDie) (ch : Nat) : FieldDie :=
  forN 8 (fun j d => if d.get (Reg.TRIG_CFG.CH j) = ch then d.trigCheck j else d) d

/-! ### The Weir (R281 to R286) -/

/-- Entries of all groups (R292: WEIR_USED). -/
def FieldDie.weirUsed (d : FieldDie) : Nat := ((List.range 8).map fun g => (d.grp g).fifo.length).sum

/-- The fire position of a target (R281). -/
def FieldDie.fireAt (d : FieldDie) (g c : Nat) : Nat := (c + 2 ^ 32 - (d.grp g).lc % 2 ^ 32) % 2 ^ 32

/-- d = P − FIRE_AT of an entry (R281). -/
def FieldDie.lateness (d : FieldDie) (g c : Nat) : Int := sdiff (d.pos (d.get (Reg.WG_CFG.CH g))) (d.fireAt g c)

/-- Shows a group's FIFO in its registers (R297). -/
def FieldDie.showGrp (d : FieldDie) (g : Nat) : FieldDie :=
  let x := d.grp g
  let d := d.set (Reg.WG_PENDING g) x.fifo.length
  let d := d.set (Reg.WG_FIRE_AT g) (match x.fifo with | e :: _ => d.fireAt g e.c | [] => 0)
  d.set Reg.FLD_STATUS.WEIR_USED d.weirUsed

def FieldDie.setGrp (d : FieldDie) (g : Nat) (x : WeirGroup) : FieldDie := { d with weir := d.weir.put g x }.showGrp g

/-- The lead in counts from the observer speed (R281). -/
def FieldDie.leadOf (d : FieldDie) (g : Nat) : Nat :=
  let l := d.get (Reg.WG_LEAD g) + (if g < 4 then 15360 else 0)
  (((d.chan (d.get (Reg.WG_CFG.CH g))).v * l + 500 * 2 ^ 40) / (1000 * 2 ^ 40)).toNat

/-- Presents the EJECT_REPORT of an entry (R285); results 1 to 6 are counted (R297). -/
def FieldDie.report (d : FieldDie) (g tag result : Nat) (overshoot outFault : Bool) : FieldDie :=
  let d := if 1 ≤ result then d.inc (Reg.WG_MISSED g) 1 else d
  d.present 0x13 (g + tag % 1024 * 2 ^ 3 + result * 2 ^ 13 + d.pos (d.get (Reg.WG_CFG.CH g)) * 2 ^ 16 + b2n overshoot * 2 ^ 48
    + b2n outFault * 2 ^ 63)

/-- After a position discontinuity a group checks every entry against WG_LATE once (R283). -/
def FieldDie.jumpCheck (d : FieldDie) (g : Nat) : FieldDie :=
  let x := d.grp g
  let gone (e : WeirEntry) : Bool := d.lateness g e.c > (d.get (Reg.WG_LATE g) : Int)
  let out := x.fifo.filter gone
  let d := d.setGrp g { x with fifo := x.fifo.filter fun e => !gone e }
  out.foldl (fun d e => d.report g e.tag 4 false false) d

/-- A position discontinuity of a channel (R263, R278, R283): sources recompute NEXT, groups check their entries. -/
def FieldDie.discontinuity (d : FieldDie) (ch : Nat) : FieldDie :=
  let d := forN 8 (fun j d =>
    if d.on (Reg.TRIG_CFG.EN j) && d.get (Reg.TRIG_CFG.CH j) = ch then d.trigRestart j 1 else d) d
  forN 8 (fun g d => if d.get (Reg.WG_CFG.CH g) = ch then d.jumpCheck g else d) d

/-- Disabling a group cancels its FIFO, every entry reported LOST (R286). -/
def FieldDie.closeGroup (d : FieldDie) (g : Nat) : FieldDie :=
  let x := d.grp g
  x.fifo.foldl (fun d e => d.report g e.tag 5 false false) (d.setGrp g { x with fifo := [] })

/-! ### Outputs (R284, R287, R290) -/

/-- Key of output `out` of group `g` in the table of pulses, when the output belongs to the group (R284, R290). -/
def FieldDie.outKey (d : FieldDie) (g out : Nat) : Option Nat :=
  if g < 4 then (if out < 256 then some (g * 256 + out) else none)
  else if out < 16 then
    (if d.get ⟨(Reg.DO_MODE).addr, 2 * out, 2⟩ = 2 && d.get ⟨(Reg.DO_GRP).addr, 2 * out, 2⟩ = g - 4 then some (1024 + out) else none)
  else if out < 20 then
    (if d.get (Reg.STB_CFG.MODE (out - 16)) = 2 && d.get ⟨(Reg.STB_GRP).addr, 2 * (out - 16), 2⟩ = g - 4 then some (1040 + (out - 16))
     else none)
  else none

/-- Is an output's pulse running? -/
def FieldDie.pulsing (d : FieldDie) (key : Nat) : Bool := (d.pulses.find key).isSome

/-- The 256-bit image of a valve port: bit v set while valve v's pulse runs (R287). -/
def FieldDie.image_ (d : FieldDie) (p : Nat) : Nat :=
  (d.pulses.filter fun e => e.1 / 256 = p).foldl (fun n e => n + 2 ^ (e.1 % 256)) 0

/-- Level of high-side output i: static in mode 1, its pulse in mode 2; off in the safe state, in thermal shutdown and while L+ is
below its threshold (R269, R290 to R292). -/
def FieldDie.doLevel (d : FieldDie) (i : Nat) : Bool :=
  !d.safe && d.on Reg.FLD_STATUS.LP_OK && !bit d.shutdown i && (match d.get ⟨(Reg.DO_MODE).addr, 2 * i, 2⟩ with
    | 1 => bit (d.get Reg.DO_VALUE) i
    | 2 => d.pulsing (1024 + i)
    | _ => false)

/-- Level of strobe pin s (R280): POL inverts it in modes 1 and 2; low in mode 0 and in the safe state (R295). -/
def FieldDie.stbLevel (d : FieldDie) (s : Nat) : Bool :=
  if d.safe then false
  else match d.get (Reg.STB_CFG.MODE s) with
    | 1 => (d.strobe s).on != d.on (Reg.STB_CFG.POL s)
    | 2 => d.pulsing (1040 + s) != d.on (Reg.STB_CFG.POL s)
    | _ => false

/-- FLD_ALIVE: on exactly while the field side is out of its safe state (R291). -/
def FieldDie.alive (d : FieldDie) : Bool := !d.safe

/-! ### Pins (R269, R295); `viso`: VISO_IN feeds the field die -/

/-- FLD_DO and FLD_ALIVE source current from L+ (R269). -/
def FieldDie.doPin (d : FieldDie) (viso : Bool) (i : Nat) : Bool := viso && d.doLevel i
def FieldDie.alivePin (d : FieldDie) (viso : Bool) : Bool := viso && d.alive && d.on Reg.FLD_STATUS.LP_OK

/-- FLD_STB; none: high impedance. -/
def FieldDie.stbPin (d : FieldDie) (viso : Bool) (s : Nat) : Option Bool := if viso then some (d.stbLevel s) else none

/-- Clock, data and LE of a valve port, `t` cycles of the field link clock after its last frame began or would have begun: in each
bit time of 10 cycles the clock is low for 5, the data are valve 0 first, and LE is high for 20 cycles when a frame came before. A
disabled port holds clock and data high and LE low (R287, R288). -/
def FieldDie.valveLines (d : FieldDie) (p t : Nat) : Bool × Bool × Bool :=
  let x := d.valve p
  let le := x.le && decide (t < 20)
  if d.on (Reg.VB_STATUS.ACTIVE p) then (decide (5 ≤ t % 10), bit x.shift (t / 10), le) else (true, true, le)

/-- The lines at the pins of a valve port; none: high impedance. -/
def FieldDie.valvePin (d : FieldDie) (viso : Bool) (p t : Nat) : Option (Bool × Bool × Bool) :=
  if viso then some (d.valveLines p t) else none

/-- The entries and pulses of the safe state (R292): outputs off, valve ports send two frames of zeros, Weir entries cancelled
without reports and counted. -/
def FieldDie.enterSafe (d : FieldDie) (hbLost : Bool) : FieldDie :=
  let n := d.weirUsed
  let d := forN 8 (fun g d => d.setGrp g { d.grp g with fifo := [] }) { d with pulses := [], cancelled := n }
  let d := forN 4 (fun s d => d.setStrobe s {}) d
  let d := forN 4 (fun p d => if d.on (Reg.VB_STATUS.ACTIVE p) then d.setValve p { d.valve p with drain := 3 } else d) d
  let d := (d.inc Reg.FLD_CANCELLED n).set Reg.FLD_STATUS.SAFE 1
  let d := if hbLost then d.set Reg.FLD_STATUS.HB_LOST 1 else d
  { d with hbRun := 0, due := some hbLost }

end Sys2Proof.Machine
end

