-- ==== Sys2Proof/Machine/Encoder.lean ====
section
/-! DEFINITION. Position feedback (R239 to R265): the four encoder channels of the field die, their tracking observers and the
two repeaters. -/

namespace Sys2Proof.Machine
open Sys2Proof

/-! ### Position, hysteresis, repeaters -/

/-- |P − R| of a repeater (R264). -/
def FieldDie.backlog (d : FieldDie) (i : Nat) : Nat := (sdiff (d.pos i) (SMap.get (fun _ => {}) d.rep i : Repeater).r).natAbs

/-- The repeater's status after its channel or its control has changed (R264): a synthesized repeater that lags more than 65,535
counts jumps to P. -/
def FieldDie.repSettle (d : FieldDie) (i : Nat) : FieldDie :=
  let m := d.get (Reg.REP_CTRL.MODE i)
  let pass := d.mode i = 1 || d.mode i = 2
  let d := d.set (Reg.REP_STATUS.SRC_INVALID i) (b2n (m = 1 && !pass))
  let d := d.set (Reg.REP_STATUS.ACTIVE i) (b2n (m = 2 || (m = 1 && pass)))
  let d := if m = 2 && 65535 < d.backlog i then
      { d with rep := d.rep.put i { (SMap.get (fun _ => {}) d.rep i : Repeater) with r := d.pos i } }.set (Reg.REP_STATUS.OVF i) 1
    else d
  d.set (Reg.REP_BACKLOG i) (satU 16 (d.backlog i))

/-- P takes a new value: DIR shows the direction of the change, the repeater follows (R244, R264). -/
def FieldDie.putPos (d : FieldDie) (ch p : Nat) : FieldDie :=
  let old := d.pos ch
  if p % 2 ^ 32 = old then d
  else
    let d := (d.set (Reg.ENC_POS ch) p).set (Reg.ENC_STATUS.DIR ch) (b2n (0 < sdiff p old))
    if ch < 2 then d.repSettle ch else d

/-- P moves to a new value, and trigger sources follow it (R278). -/
def FieldDie.setPos (d : FieldDie) (ch p : Nat) : FieldDie :=
  if p % 2 ^ 32 = d.pos ch then d else (d.putPos ch p).moved ch

def FieldDie.isOpen (d : FieldDie) (ch : Nat) : Bool := (d.chan ch).openPairs != 0

/-- P stands still: a pair in use is open, or a bridged count has lost its frames (R240, R258). -/
def FieldDie.held (d : FieldDie) (ch : Nat) : Bool :=
  d.isOpen ch || (4 ≤ d.mode ch && d.on (Reg.SER_CFG.BRIDGE_EN ch) && d.on (Reg.ENC_STATUS.LOST ch))

/-- P follows a count with the hysteresis of R244. -/
def FieldDie.follow (d : FieldDie) (ch q : Nat) : FieldDie :=
  let x := sdiff q (d.pos ch)
  if d.held ch then d
  else if !d.on (Reg.ENC_CFG.HYST_EN ch) || 0 < x then d.setPos ch q
  else if x < -1 then d.setPos ch (q + 1) else d

/-- The bridged value Q_b in counts (R258); Q itself outside modes 4 and 5 and with BRIDGE_EN 0. -/
def FieldDie.bridged (d : FieldDie) (ch : Nat) : Nat :=
  let q := d.get (Reg.ENC_RAW ch)
  let x := d.chan ch
  if 4 ≤ d.mode ch && d.on (Reg.SER_CFG.BRIDGE_EN ch) then wrap 32 ((q : Int) + x.v * (x.n : Int) / (40960 * 2 ^ 32)) else q

/-- Q steps by a signed number of counts, DIR_INV applied before (R242), and P follows. -/
def FieldDie.stepQ (d : FieldDie) (ch : Nat) (n : Int) : FieldDie :=
  let q := wrap 32 ((d.get (Reg.ENC_RAW ch) : Int) + n)
  (d.set (Reg.ENC_RAW ch) q).follow ch q

/-- A step of ±1 under DIR_INV (R242). -/
def FieldDie.oneStep (d : FieldDie) (ch : Nat) (fwd : Bool) : FieldDie :=
  d.stepQ ch (if fwd != d.on (Reg.ENC_CFG.DIR_INV ch) then 1 else -1)

/-- An illegal transition (R243). -/
def FieldDie.illegal (d : FieldDie) (ch : Nat) : FieldDie := (d.inc (Reg.ENC_ILLEGAL ch) 1).encStatus ch 1

/-! ### RS-422 pairs (R240) -/

/-- Pairs in use: A, B, Z as bits 0 to 2 (R239, R240). -/
def FieldDie.inUse (d : FieldDie) (ch : Nat) : Nat :=
  if d.on (Reg.ENC_CFG.IN_TYPE ch) then 0
  else
    let z := if d.get (Reg.ENC_CFG.ZMODE ch) = 0 then 0 else 4
    match d.mode ch with
    | 1 => 3 + z
    | 2 => 7
    | 3 => z
    | 4 => 1
    | 5 => 1
    | _ => 0

/-- Keeps only open pairs that are in use, and shows OPEN. -/
def FieldDie.openSettle (d : FieldDie) (ch openBits : Nat) : FieldDie :=
  let o := openBits &&& d.inUse ch
  (d.setChan ch { d.chan ch with openPairs := o }).set (Reg.ENC_STATUS.OPEN ch) (b2n (o != 0))

/-- What an undriven receiver reads: an RS-422 pair 1, an HTL input 0 (R265). -/
def failSafe (htl : Bool) : Bool := !htl

/-! ### Quadrature and Hall (R241 to R247) -/

/-- Place of (A, B) in the sequence 00, 10, 11, 01 (R242). -/
def quadPlace (a b : Bool) : Nat := match a, b with
  | false, false => 0
  | true, false => 1
  | true, true => 2
  | false, true => 3

/-- Does a step from `i` to `j` count under DECODE (R242)? -/
def quadCounts (decode i j : Nat) : Bool :=
  match decode with
  | 0 => true
  | 1 => (i == 1 || i == 2) != (j == 1 || j == 2)
  | _ => (i == 0 && j == 1) || (i == 1 && j == 0)

/-- Place of a Hall code in its forward sequence; none for an impossible code (R246, R247). -/
def hallPlace (h : Nat) : Option Nat :=
  match h with
  | 1 => some 0
  | 3 => some 1
  | 2 => some 2
  | 6 => some 3
  | 4 => some 4
  | 5 => some 5
  | _ => none

/-- The code of the channel's filtered lines (R246). -/
def EncCh.code (x : EncCh) : Nat := b2n x.z * 4 + b2n x.b * 2 + b2n x.a

/-- An entry into START: the first valid code, the present one if valid, becomes the reference (R247). -/
def FieldDie.hallStart (d : FieldDie) (ch : Nat) : FieldDie :=
  let x := d.chan ch
  let d := if d.mode ch = 2 then d.set (Reg.ENC_STATUS.HALL_NOW ch) x.code else d
  d.setChan ch { x with hall := (hallPlace x.code).map fun _ => x.code }

/-- ENC_INPUT_CHANGE: the filtered A and B take new levels. In mode 1 the channel steps as DECODE selects or flags an illegal
transition (R242, R243); while a pair is open the lines are held (R240). -/
def FieldDie.inputChange (d : FieldDie) (ch : Nat) (a b : Bool) : FieldDie :=
  if 4 ≤ ch || d.isOpen ch || d.mode ch = 2 then d
  else
    let x := d.chan ch
    let i := quadPlace x.a x.b
    let j := quadPlace a b
    let d := d.setChan ch { x with a, b, driven := x.driven ||| 3 }
    if d.mode ch != 1 then d
    else match (j + 4 - i) % 4 with
      | 0 => d
      | 2 => d.illegal ch
      | k => if quadCounts (d.get (Reg.ENC_CFG.DECODE ch)) i j then d.oneStep ch (k == 1) else d

def execEncInputChange (ch : Nat) (a b : Bool) (s : State) : Host.Outcome State Fault Refusal :=
  s.onField fun _ d => d.inputChange ch a b

/-- HALL_CODE_CHANGE: the filtered lines form a new code in mode 2 (R246, R247). -/
def FieldDie.hallChange (d : FieldDie) (ch code : Nat) : FieldDie :=
  if 4 ≤ ch || 8 ≤ code || d.mode ch != 2 || d.isOpen ch then d
  else
    let x := d.chan ch
    let y := { x with a := bit code 0, b := bit code 1, z := bit code 2, driven := 7 }
    let d := d.set (Reg.ENC_STATUS.HALL_NOW ch) code
    match hallPlace code with
    | none =>
      let d := d.setChan ch { y with hall := none }
      if d.get (Reg.ENC_PHASE ch) = 1 then d.illegal ch
      else ((d.set (Reg.ENC_STATUS.HALL_BAD ch) code).inc (Reg.ENC_HALL_IMPOSS ch) 1).encStatus ch 2
    | some j =>
      let d := d.setChan ch { y with hall := some code }
      match x.hall with
      | none => d
      | some old =>
        match (j + 6 - (hallPlace old).getD j) % 6 with
        | 0 => d
        | 1 => d.oneStep ch true
        | 5 => d.oneStep ch false
        | _ => d.illegal ch

def execHallCodeChange (ch code : Nat) (s : State) : Host.Outcome State Fault Refusal :=
  s.onField fun _ d => d.hallChange ch code

/-! ### Discontinuities, CLR_CNT, mode changes (R245, R263) -/

/-- F of a count (R245). -/
def fineOf (count interp : Nat) : Int := sext 48 (wrap 48 (sext 32 count * 2 ^ (16 - interp)))

/-- Loads ENC_PRESET into P and Q, and F in mode 3 (R245, R263); the discontinuity that follows recomputes the sources' NEXT (R278). -/
def FieldDie.loadPreset (d : FieldDie) (ch : Nat) : FieldDie :=
  let p := d.get (Reg.ENC_PRESET ch)
  let d := (d.set (Reg.ENC_RAW ch) p).putPos ch p
  if d.mode ch = 3 then d.setChan ch { d.chan ch with f := fineOf p (d.get (Reg.ENC_CFG.INTERP_LOG2 ch)) } else d

/-- CLR_CNT (R263): the preset, a cleared observer, and the next good frame counts as the first (R257). -/
def FieldDie.clrCnt (d : FieldDie) (ch : Nat) : FieldDie :=
  let d := d.loadPreset ch
  (d.setChan ch { d.chan ch with x := 0, v := 0, acc := 0, wPrev := none }).discontinuity ch

def execEncClrCnt (ch : Nat) (s : State) : Host.Outcome State Fault Refusal :=
  s.onField fun _ d => if ch < 4 then d.clrCnt ch else d

/-- ENC_Z_EDGE: the filtered Z takes a level; a qualified rising edge in modes 1 and 3 acts as ZMODE selects (R245). -/
def FieldDie.zEdge (d : FieldDie) (ch : Nat) (level : Bool) : FieldDie :=
  if 4 ≤ ch || d.isOpen ch || d.mode ch = 2 then d
  else
    let x := d.chan ch
    let d := d.setChan ch { x with z := level, driven := x.driven ||| 4 }
    let (a, b) := if d.mode ch = 3 then (decide (0 ≤ x.s1), decide (0 ≤ x.c2)) else (x.a, x.b)
    let qual := !d.on (Reg.ENC_CFG.ZQ_EN ch) || (a == d.on (Reg.ENC_CFG.ZQ_A ch) && b == d.on (Reg.ENC_CFG.ZQ_B ch))
    let seen := d.on (Reg.ENC_STATUS.ZSEEN ch)
    if x.z || !level || !qual || (d.mode ch != 1 && d.mode ch != 3) then d
    else match d.get (Reg.ENC_CFG.ZMODE ch) with
      | 0 => d
      | 1 => (d.set (Reg.ENC_ZLATCH ch) (d.pos ch)).encStatus ch 32
      | 2 => if seen then d else (d.set (Reg.ENC_ZLATCH ch) (d.pos ch)).encStatus ch 32
      | _ =>
        if seen then d
        else
          let old := d.pos ch
          let d := d.loadPreset ch
          let y := d.chan ch
          let d := d.setChan ch { y with x := sext 64 (wrap 64 (y.x + sdiff (d.pos ch) old * 2 ^ 32)) }
          ((d.set (Reg.ENC_ZLATCH ch) (d.pos ch)).encStatus ch 32).discontinuity ch

def execEncZEdge (ch : Nat) (level : Bool) (s : State) : Host.Outcome State Fault Refusal :=
  s.onField fun _ d => d.zEdge ch level

/-- ENC_OPEN_DETECT: a pair in use (0 A, 1 B, 2 Z) has been below the threshold for 1 µs (R240). -/
def execEncOpenDetect (ch pair : Nat) (s : State) : Host.Outcome State Fault Refusal :=
  s.onField fun _ d =>
    if 4 ≤ ch || 3 ≤ pair || !bit (d.inUse ch) pair then d
    else (d.openSettle ch ((d.chan ch).openPairs ||| 2 ^ pair)).encStatus ch 16

/-- ENC_OPEN_CLEAR: an open pair is back above the threshold (R240); its line then changes by its own command. P, which stood still
while a pair was open, follows Q again (R244). -/
def execEncOpenClear (ch pair : Nat) (s : State) : Host.Outcome State Fault Refusal :=
  s.onField fun _ d =>
    let o := (d.chan ch).openPairs
    if 4 ≤ ch || 3 ≤ pair || !bit o pair then d
    else
      let d := d.openSettle ch (o - 2 ^ pair)
      d.follow ch (d.bridged ch)

/-! ### Sin/cos (R248 to R252) -/

def clampS (lo hi z : Int) : Int := if z < lo then lo else if hi < z then hi else z

/-- Entries of atan_tab (R249). -/
def atanTab (i : Nat) : Int :=
  match i with
  | 0 => 8192
  | 1 => 4836
  | 2 => 2555
  | 3 => 1297
  | 4 => 651
  | 5 => 326
  | 6 => 163
  | 7 => 81
  | 8 => 41
  | 9 => 20
  | 10 => 10
  | 11 => 5
  | 12 => 3
  | 13 => 1
  | 14 => 1
  | _ => 0

/-- θ of (x, y), 65,536 to a period (R249). -/
def angleOf (x y : Int) : Nat :=
  let (q, x, y) : Int × Int × Int := if x < 0 then (32768, -x, -y) else (0, x, y)
  let r : Int × Int × Int := forN 16 (fun i (x, y, z) =>
    if 0 ≤ y then (x + y / 2 ^ i, y - x / 2 ^ i, z + atanTab i) else (x - y / 2 ^ i, y + x / 2 ^ i, z - atanTab i))
    (x * 256, y * 256, 0)
  wrap 16 (q + r.2.2)

/-- Whole square root, up to 2^16 − 1. -/
def isqrt (n : Nat) : Nat :=
  (List.range 16).foldl (fun r i => let t := r + 2 ^ (15 - i); if t * t ≤ n then t else r) 0

/-- Takes the raw extremes of every sample while SC_CAL_CTRL.EN is 1 (R252); DEDUCED (log entry 64). -/
def FieldDie.calRecord (d : FieldDie) (ch : Nat) (sa ca : Int) : FieldDie :=
  if !d.on (Reg.SC_CAL_CTRL.EN ch) then d
  else
    let low (f : RF) (z : Int) (d : FieldDie) := if z < sext 14 (d.get f) then d.set f (wrap 14 z) else d
    let high (f : RF) (z : Int) (d : FieldDie) := if sext 14 (d.get f) < z then d.set f (wrap 14 z) else d
    let d := high (Reg.SC_CAL_S.MAX ch) sa (low (Reg.SC_CAL_S.MIN ch) sa d)
    high (Reg.SC_CAL_C.MAX ch) ca (low (Reg.SC_CAL_C.MIN ch) ca d)

/-- A used sample completes a period when θ passes from the fourth quadrant into the first (R252);
DEDUCED (log entry 64): a sample outside the window is ignored here too (R251). -/
def FieldDie.calPeriod (d : FieldDie) (ch th : Nat) : FieldDie :=
  match d.on (Reg.SC_CAL_CTRL.EN ch), (d.chan ch).thPrev with
  | true, some p =>
    if 49152 ≤ p && th < 16384 then d.set (Reg.SC_CAL_PERIODS ch) (d.get (Reg.SC_CAL_PERIODS ch) + 1) else d
  | _, _ => d

/-- A sample inside the amplitude window moves F and Q (R250). -/
def FieldDie.useAngle (d : FieldDie) (ch th : Nat) : FieldDie :=
  let x := d.chan ch
  match x.thPrev with
  | none => d.setChan ch { x with thPrev := some th }
  | some p =>
    let z := sext 16 (th + 65536 - p)
    let z := if d.on (Reg.ENC_CFG.DIR_INV ch) then -z else z
    let bad := decide (16384 < z.natAbs)
    let f := if bad then x.f else sext 48 (wrap 48 (x.f + z))
    let d := d.setChan ch { x with thPrev := some th, f := f }
    let d := if bad then d.illegal ch else d
    let q := wrap 32 (f / 2 ^ (16 - d.get (Reg.ENC_CFG.INTERP_LOG2 ch)))
    (d.set (Reg.ENC_RAW ch) q).follow ch q

/-- SINCOS_SAMPLE: both ADCs sample, as 14-bit codes (R248 to R252). While the Z pair in use is open the channel holds every line
(R240). DEDUCED (log entry 26). -/
def FieldDie.sincos (d : FieldDie) (ch sn cs : Nat) : FieldDie :=
  if 2 ≤ ch || d.mode ch != 3 || d.isOpen ch then d
  else
    let sa := sext 14 sn
    let ca := sext 14 cs
    let cal (a : Int) (ofs gain : RF) : Int := clampS (-16384) 16383 (((a - sext 14 (d.get ofs)) * (d.get gain : Int) + 8192) / 2 ^ 14)
    let s1 := cal sa (Reg.SC_OFS.OFS_S ch) (Reg.SC_GAIN.GAIN_S ch)
    let c1 := cal ca (Reg.SC_OFS.OFS_C ch) (Reg.SC_GAIN.GAIN_C ch)
    let c2 := clampS (-16384) 16383 (c1 + (s1 * sext 16 (d.get (Reg.SC_PHASE ch)) + 16384) / 2 ^ 15)
    let th := angleOf c2 s1
    let amp := (s1 * s1 + c2 * c2).toNat
    let x := d.chan ch
    let inside := d.get (Reg.SC_AMP.AMP_MIN ch) ^ 2 ≤ amp && amp ≤ d.get (Reg.SC_AMP.AMP_MAX ch) ^ 2
    let run := if inside then 0 else x.ampRun + 1
    let d := d.calRecord ch sa ca
    let d := d.setChan ch { x with s1, c2, ampRun := run }
    let d := (d.set (Reg.SC_STAT.ANGLE ch) th).set (Reg.SC_STAT.AMPL ch) (isqrt amp)
    if inside then ((d.set (Reg.ENC_STATUS.LOST ch) 0).calPeriod ch th).useAngle ch th
    else
      let d := d.inc (Reg.ENC_AMP_EVENTS ch) 1
      if max 1 (d.get (Reg.SC_AMP_N ch)) ≤ run then d.encStatus ch (4 + 256) else d

def execSincosSample (ch sin cos : Nat) (s : State) : Host.Outcome State Fault Refusal :=
  s.onField fun _ d => d.sincos ch sin cos

/-- CAL_CLR (R252). -/
def FieldDie.calClr (d : FieldDie) (ch : Nat) : FieldDie :=
  let d := (d.set (Reg.SC_CAL_S.MIN ch) 0x1FFF).set (Reg.SC_CAL_S.MAX ch) 0x2000
  ((d.set (Reg.SC_CAL_C.MIN ch) 0x1FFF).set (Reg.SC_CAL_C.MAX ch) 0x2000).set (Reg.SC_CAL_PERIODS ch) 0

/-- Registers of sin/cos exist on channels 0 and 1 alone (R266). -/
def execEncCalClr (ch : Nat) (s : State) : Host.Outcome State Fault Refusal :=
  s.onField fun _ d => if ch < 2 then d.calClr ch else d

/-! ### Serial frames (R253 to R258) -/

def FieldDie.serBits (d : FieldDie) (ch : Nat) : Nat := d.get (Reg.SER_CFG.BITS_M1 ch) + 1

/-- A failed frame (R256). -/
def FieldDie.serFail (d : FieldDie) (ch cause : Nat) : FieldDie :=
  let run := (d.chan ch).failRun + 1
  let d := d.setChan ch { d.chan ch with busy := false, failRun := run }
  let d := (d.set (Reg.ENC_STATUS.SER_CAUSE ch) cause).inc (Reg.ENC_SER_ERRS ch) 1
  d.encStatus ch (if max 1 (d.get (Reg.SER_TIMING.FAIL_N ch)) ≤ run then 8 + 256 else 8)

def FieldDie.serial (d : FieldDie) (ch : Nat) : Bool := ch < 4 && (d.mode ch = 4 || d.mode ch = 5)

/-- SER_FRAME_START: a frame period starts; with the data line low no clock is sent (R253). -/
def execSerFrameStart (ch : Nat) (dataLow : Bool) (s : State) : Host.Outcome State Fault Refusal :=
  s.onField fun _ d =>
    if !d.serial ch || (d.chan ch).busy then d
    else if dataLow then d.serFail ch 1 else d.setChan ch { d.chan ch with busy := true }

/-- SER_START_TIMEOUT: START has not arrived within 64 clock periods (R255). -/
def execSerStartTimeout (ch : Nat) (s : State) : Host.Outcome State Fault Refusal :=
  s.onField fun _ d => if ch < 4 && d.mode ch = 5 && (d.chan ch).busy then d.serFail ch 2 else d

/-- SER_END_TIMEOUT: the end check of R254 or the return to high of R255 has failed. -/
def execSerEndTimeout (ch : Nat) (s : State) : Host.Outcome State Fault Refusal :=
  s.onField fun _ d => if d.serial ch && (d.chan ch).busy then d.serFail ch 3 else d

/-- Gray code of `n` bits to binary (R254). -/
def grayBin (n g : Nat) : Nat :=
  ((List.range n).foldl (fun (x : Nat × Nat) i =>
    let b := (x.1 + g / 2 ^ (n - 1 - i) % 2) % 2
    (b, x.2 * 2 + b)) (0, 0)).2

/-- Number of ones among the low `n` bits. -/
def ones (n v : Nat) : Nat := ((List.range n).map fun i => v / 2 ^ i % 2).sum

/-- The CRC of R255 over `n` bits, most significant first. -/
def crc6 (n v : Nat) : Nat :=
  (List.range n).foldl (fun c i =>
    let f := (c / 32 % 2 + v / 2 ^ (n - 1 - i) % 2) % 2
    let c := c * 2 % 64
    if f = 1 then c ^^^ 3 else c) 0

/-- What a received frame says: the failure cause, the word, nWARN = 0. `raw` holds the data bits and, in SSI, the parity bit, in
BiSS-C nERR, nWARN and six CRC bits, the first on the wire highest (R254, R255). -/
def FieldDie.frameWord (d : FieldDie) (ch raw : Nat) : Option Nat × Nat × Bool :=
  let n := d.serBits ch
  if d.mode ch = 4 then
    let par := d.get (Reg.SER_CFG.PARITY ch)
    let w := (if par = 0 then raw else raw / 2) % 2 ^ n
    let bad := par != 0 && (ones n w + raw) % 2 != par - 1
    (if bad then some 4 else none, if d.on (Reg.SER_CFG.GRAY ch) then grayBin n w else w, false)
  else
    let w := raw / 2 ^ 8 % 2 ^ n
    let bad := raw % 64 != crc6 (n + 2) (raw / 64 % 2 ^ (n + 2)) ^^^ 0x3F
    (if bad then some 4 else if bit raw 7 then none else some 5, w, !bit raw 6)

/-- A good frame updates Q (R257) and P follows the bridged value (R258). DEDUCED (log entry 26). -/
def FieldDie.goodFrame (d : FieldDie) (ch w n : Nat) : FieldDie :=
  let x := d.chan ch
  let bits := d.serBits ch
  let was := d.bridged ch
  let z := match x.wPrev with | some p => sext bits (w + 2 ^ bits - p % 2 ^ bits) | none => 0
  let z := if d.on (Reg.ENC_CFG.DIR_INV ch) then -z else z
  let bad := x.wPrev.isSome && decide (d.get (Reg.SER_MAXSTEP ch) < z.natAbs)
  let q := match x.wPrev with
    | none => (w + d.get (Reg.ENC_PRESET ch)) % 2 ^ 32
    | some _ => if bad then d.get (Reg.ENC_RAW ch) else wrap 32 ((d.get (Reg.ENC_RAW ch) : Int) + z)
  let d := d.setChan ch { x with wPrev := some w, failRun := 0, busy := false, n := n, fresh := true }
  let d := ((d.set (Reg.SER_WORD_LO ch) w).set (Reg.SER_WORD_HI ch) (w / 2 ^ 32)).set (Reg.ENC_STATUS.LOST ch) 0
  let d := if bad then d.illegal ch else d
  let d := d.set (Reg.ENC_RAW ch) q
  let now := d.bridged ch
  let d := if d.on (Reg.SER_CFG.BRIDGE_EN ch) && sdiff now was < -1 then d.encStatus ch 64 else d
  d.follow ch now

/-- SER_FRAME_DONE: a frame has ended `n` FIELD cycles after its latch time, with START measured at `delay` (R254 to R258). On an open
pair the held line cannot show the end of a frame (R240). DEDUCED (log entry 26). -/
def FieldDie.frameDone (d : FieldDie) (ch raw delay n : Nat) : FieldDie :=
  if !d.serial ch || !(d.chan ch).busy then d
  else if d.isOpen ch then d.serFail ch 3
  else
    let d := if d.mode ch = 5 then d.set (Reg.SER_DELAY ch) delay else d
    match d.frameWord ch raw with
    | (some cause, _, _) => d.serFail ch cause
    | (none, w, warn) => (if warn then d.set (Reg.ENC_STATUS.SER_WARN ch) 1 else d).goodFrame ch w n

def execSerFrameDone (ch raw delay n : Nat) (s : State) : Host.Outcome State Fault Refusal :=
  s.onField fun _ d => d.frameDone ch raw delay n

/-- FIELD cycles since the last good frame's latch time advance, unless LOST holds them (R258). -/
def FieldDie.setN (d : FieldDie) (ch n : Nat) : FieldDie :=
  if d.on (Reg.ENC_STATUS.LOST ch) || !d.serial ch then d else d.setChan ch { d.chan ch with n := n }

/-- BRIDGED_COUNT_STEP: Q_b has crossed a count `n` FIELD cycles after the last latch time (R258). -/
def execBridgedCountStep (ch n : Nat) (s : State) : Host.Outcome State Fault Refusal :=
  s.onField fun _ d =>
    if !d.serial ch || !d.on (Reg.SER_CFG.BRIDGE_EN ch) || d.on (Reg.ENC_STATUS.LOST ch) then d
    else let d := d.setN ch n; d.follow ch (d.bridged ch)

/-! ### The observer (R259 to R262) -/

/-- rsh of R260. -/
def rsh (p : Int) (n : Int) : Int :=
  if 0 < n then (p + 2 ^ (n - 1).toNat) / 2 ^ n.toNat else p * 2 ^ (-n).toNat

/-- The measurement in 32.32 form, if there is one (R259). -/
def FieldDie.measure (d : FieldDie) (ch : Nat) : Option Int :=
  let x := d.chan ch
  if d.mode ch ≤ 3 then some ((d.pos ch : Int) * 2 ^ 32)
  else if x.fresh then some ((d.get (Reg.ENC_RAW ch) : Int) * 2 ^ 32 + x.v * (x.n : Int) / 40960) else none

/-- One update of the observer (R260), and the leads of the groups that follow the channel (R281). -/
def FieldDie.observe (d : FieldDie) (ch n : Nat) : FieldDie :=
  if 4 ≤ ch || d.mode ch = 0 || 6 ≤ d.mode ch then d
  else
    let d := d.setN ch n
    let x := d.chan ch
    let e : Int := match d.measure ch with | some y => sext 64 (wrap 64 (y - x.x)) | none => 0
    let xn := x.x + x.v / 2 ^ 8 + rsh (e * x.m1) x.s1g
    let vn := x.v + x.acc / 2 ^ 16 + rsh (e * x.m2) ((x.s2g : Int) - 8)
    let an := x.acc + rsh (e * x.m3) ((x.s3g : Int) - 24)
    let d := d.setChan ch { x with x := sext 64 (wrap 64 xn), v := satS 64 vn, acc := satS 64 an, fresh := false }
    let d := if satS 64 vn = vn && satS 64 an = an then d else d.encStatus ch 128
    let d := if d.serial ch && d.on (Reg.SER_CFG.BRIDGE_EN ch) then d.follow ch (d.bridged ch) else d
    forN 8 (fun g d => if d.get (Reg.WG_CFG.CH g) = ch then d.setGrp g { d.grp g with lc := d.leadOf g } else d) d

def execObserverUpdate (ch n : Nat) (s : State) : Host.Outcome State Fault Refusal :=
  s.onField fun _ d => d.observe ch n

/-- m × 2^e rounded to the 53 bits of binary64, to nearest, a tie to even. -/
def round53 (m : Nat) (e : Int) : Nat × Int :=
  let s := bitLen m - 53
  (rneShr m s, e + s)

def mul53 (a b : Nat × Int) : Nat × Int := round53 (a.1 * b.1) (a.2 + b.2)

/-- M and S of a gain: M the nearest integer to k × 2^S, S chosen so that M lies in 32,768 to 65,535 (R261). -/
def gainOf (k : Nat × Int) : Nat × Nat :=
  let s := bitLen k.1 - 16
  let m := rneShr k.1 s
  let e := k.2 + s
  if m = 65536 then (32768, (-e - 1).toNat) else (m, (-e).toNat)

/-- The gains of bandwidth B: ωT = 2π × B × 10^−6 and k1 = 3ωT, k2 = 3(ωT)², k3 = (ωT)³ in binary64 (R261). -/
def gainsOf (b : Nat) : (Nat × Nat) × (Nat × Nat) × (Nat × Nat) :=
  let twoPi : Nat × Int := (0x1921FB54442D18, -50)
  let micro : Nat × Int := (0x10C6F7A0B5ED8D, -72)
  let w := mul53 (mul53 twoPi (b, 0)) micro
  let w2 := mul53 w w
  (gainOf (mul53 (3, 0) w), gainOf (mul53 (3, 0) w2), gainOf (mul53 w2 w))

/-- The shadow gains come into use (R261). -/
def FieldDie.kApply (d : FieldDie) (ch : Nat) : FieldDie :=
  d.setChan ch { d.chan ch with
    m1 := d.get (Reg.OBS_K1.M ch), s1g := d.get (Reg.OBS_K1.S ch), m2 := d.get (Reg.OBS_K2.M ch), s2g := d.get (Reg.OBS_K2.S ch),
    m3 := d.get (Reg.OBS_K3.M ch), s3g := d.get (Reg.OBS_K3.S ch) }

def execEncKApply (ch : Nat) (s : State) : Host.Outcome State Fault Refusal :=
  s.onField fun _ d => if ch < 4 then d.kApply ch else d

/-- BW_SET (R261); a bandwidth outside 10 to 20,000 Hz is refused (R263). -/
def FieldDie.bwSet (d : FieldDie) (ch : Nat) : FieldDie :=
  let b := d.get (Reg.OBS_BW ch)
  if b < 10 || 20000 < b then d.set (Reg.ENC_STATUS.CFG_INVALID ch) 1
  else
    let (k1, k2, k3) := gainsOf b
    let d := (d.set (Reg.OBS_K1.M ch) k1.1).set (Reg.OBS_K1.S ch) k1.2
    let d := (d.set (Reg.OBS_K2.M ch) k2.1).set (Reg.OBS_K2.S ch) k2.2
    ((d.set (Reg.OBS_K3.M ch) k3.1).set (Reg.OBS_K3.S ch) k3.2).kApply ch

def execEncBwSet (ch : Nat) (s : State) : Host.Outcome State Fault Refusal :=
  s.onField fun _ d => if ch < 4 then d.bwSet ch else d

/-- LATCH (R262). -/
def FieldDie.latchCh (d : FieldDie) (ch : Nat) : FieldDie :=
  let x := d.chan ch
  let two (lo hi : RF) (z : Int) (d : FieldDie) := (d.set lo (wrap 64 z)).set hi (wrap 64 z / 2 ^ 32)
  let d := d.set (Reg.LAT_POS ch) (d.pos ch)
  let d := two (Reg.LAT_X_LO ch) (Reg.LAT_X_HI ch) x.x d
  let d := two (Reg.LAT_V_LO ch) (Reg.LAT_V_HI ch) x.v d
  let d := two (Reg.LAT_A_LO ch) (Reg.LAT_A_HI ch) x.acc d
  d.set (Reg.LAT_STATUS ch) (d.get ⟨(Reg.ENC_STATUS.ILLEGAL ch).addr, 0, 22⟩)

def execEncLatch (ch : Nat) (s : State) : Host.Outcome State Fault Refusal :=
  s.onField fun _ d => if ch < 4 then d.latchCh ch else d

/-- A write of ENC_CMD: each bit acts on its own, in the order of R263. -/
def FieldDie.encCmd (d : FieldDie) (ch v : Nat) : FieldDie :=
  let d := if bit v 0 then d.latchCh ch else d
  let d := if bit v 1 then d.clrCnt ch else d
  let d := if bit v 4 && ch < 2 then d.calClr ch else d
  let d := if bit v 2 then d.bwSet ch else d
  if bit v 3 then d.kApply ch else d

/-! ### Configuration (R263) -/

/-- Do a frame's clock periods and TO exceed its period (R253)? `cfg` and `tim` are SER_CFG and SER_TIMING after the write. -/
def serTooLong (mode cfg tim : Nat) : Bool :=
  let bits := cfg % 64 + 1
  let pb := if cfg / 128 % 4 = 0 then 0 else 1
  let periods := if mode = 4 then bits + pb + 1 else 64 + bits + 9
  (tim % 1024 + 1) * 160 < periods * 2 * (cfg / 65536 % 256 + 1) + tim / 65536 % 256 * 160

/-- Is a write of a channel register refused (R263)? -/
def FieldDie.encRefused (d : FieldDie) (ch off v : Nat) : Bool :=
  let cfg := (d.regs.word (Reg.SER_CFG.DIV ch).addr).toNat
  let tim := (d.regs.word (Reg.SER_TIMING.TO ch).addr).toNat
  let ser := d.serial ch
  match off with
  | 0x000 =>
    let m := v % 8
    6 ≤ m || (m = 3 && 2 ≤ ch) || (bit v 3 && 3 ≤ m && m ≤ 5) || v / 16 % 4 = 3 || 13 ≤ v / 65536 % 16
      || ((m = 4 || m = 5) && serTooLong m cfg tim)
  | 0x080 => v / 128 % 4 = 3 || v / 65536 % 256 < 7 || v % 64 + 1 < 8 || 48 < v % 64 + 1 || (ser && serTooLong (d.mode ch) v tim)
  | 0x084 => ser && serTooLong (d.mode ch) cfg v
  | _ => false

/-- IN_TYPE has changed: a line that nothing has driven reads as the fail-safe bias of its new receiver (R265). In an unchanged mode its
new level is a change of the line like any other. DEDUCED (log entry 26). -/
def FieldDie.restLines (d : FieldDie) (ch : Nat) (same : Bool) : FieldDie :=
  let x := d.chan ch
  let f := failSafe (d.on (Reg.ENC_CFG.IN_TYPE ch))
  let lvl (i : Nat) (v : Bool) : Bool := if bit x.driven i then v else f
  let (a, b, z) := (lvl 0 x.a, lvl 1 x.b, lvl 2 x.z)
  let d := if !same then d.setChan ch { x with a, b, z }
    else if d.mode ch = 2 then d.hallChange ch ({ x with a, b, z } : EncCh).code
    else (d.inputChange ch a b).zEdge ch z
  d.setChan ch { d.chan ch with driven := x.driven }

/-- A write of ENC_CFG: a change of MODE acts as CLR_CNT, clears the sin/cos and serial state and sets START (R263). -/
def FieldDie.encCfg (d : FieldDie) (ch : Nat) (v : Word) : FieldDie :=
  if d.encRefused ch 0 v.toNat then d.set (Reg.ENC_STATUS.CFG_INVALID ch) 1
  else
    let was := d.mode ch
    let htl := d.on (Reg.ENC_CFG.IN_TYPE ch)
    let a := (Reg.ENC_CFG.MODE ch).addr
    let d := { d with regs := d.regs.accWrite a v false }
    let d := d.openSettle ch (d.chan ch).openPairs
    let d := if htl = d.on (Reg.ENC_CFG.IN_TYPE ch) then d else d.restLines ch (was == d.mode ch)
    let d := if was = d.mode ch then d.follow ch (d.bridged ch)
      else
        let d := d.setChan ch { d.chan ch with thPrev := none, wPrev := none, ampRun := 0, failRun := 0, busy := false,
                                               fresh := false, n := 0 }
        let d := ((d.set (Reg.ENC_STATUS.LOST ch) 0).set (Reg.ENC_PHASE ch) 0).clrCnt ch
        d.hallStart ch
    if ch < 2 then d.repSettle ch else d

def execEncModeChange (ch : Nat) (v : Word) (s : State) : Host.Outcome State Fault Refusal :=
  s.onField fun _ d => if ch < 4 then d.encCfg ch v else d

/-- A configuration write to a channel register (R263, R266). -/
def FieldDie.encWrite (d : FieldDie) (ch off : Nat) (v : Word) : FieldDie :=
  let a := 0xE4000 + ch * 0x200 + off
  if off = 0 then d.encCfg ch v
  else if off = 4 then d.encCmd ch v.toNat
  else if d.encRefused ch off v.toNat then d.set (Reg.ENC_STATUS.CFG_INVALID ch) 1
  else if 0x40 ≤ off && off < 0x68 && 2 ≤ ch then d
  else
    let d := { d with regs := d.regs.accWrite a v false }
    if off = 0xC then (if d.isOpen ch then d.set (Reg.ENC_STATUS.OPEN_SEEN ch) 1 else d)  -- set while any pair is open (R240)
    else if off = 8 && v.toNat % 4 = 0 then d.hallStart ch
    else if off = 0x080 then d.follow ch (d.bridged ch) else d

/-- FLD_ENC_CKP/CKN of a channel: clock or MA in modes 4 and 5, idle high, else high impedance (R239, R253, R265). -/
def FieldDie.ckPin (d : FieldDie) (viso : Bool) (ch : Nat) : PinLevel :=
  if !viso || !d.serial ch then .highZ else if (d.chan ch).busy then .active else .high

/-! ### Repeaters (R264) -/

/-- A configuration write to a repeater register (R264, R267). -/
def FieldDie.repWrite (d : FieldDie) (i off : Nat) (v : Word) : FieldDie :=
  { d with regs := d.regs.accWrite (0xE4800 + i * 0x20 + off) v false }.repSettle i

/-- REP_STEP: a synthesized repeater steps one count towards P and puts out the quadrature step (R264). -/
def execRepStep (i : Nat) (s : State) : Host.Outcome State Fault Refusal :=
  s.onField fun _ d =>
    let x : Repeater := SMap.get (fun _ => {}) d.rep i
    let z := sdiff (d.pos i) x.r
    if 2 ≤ i || d.get (Reg.REP_CTRL.MODE i) != 2 || z = 0 then d
    else
      let fwd := decide (0 < z)
      let place := (quadPlace x.a x.b + if fwd then 1 else 3) % 4
      let y : Repeater := { r := wrap 32 ((x.r : Int) + if fwd then 1 else -1), a := place == 1 || place == 2, b := place == 2 || place == 3 }
      { d with rep := d.rep.put i y }.repSettle i

/-- Levels of a repeater's A, B and Z outputs; none: high impedance (R264). DEDUCED (log entry 26). -/
def FieldDie.repOut (d : FieldDie) (i : Nat) : Option (Bool × Bool × Bool) :=
  let x : Repeater := SMap.get (fun _ => {}) d.rep i
  let zper := d.get (Reg.REP_ZPER i)
  match d.get (Reg.REP_CTRL.MODE i) with
  | 1 => if d.mode i = 1 || d.mode i = 2 then some ((d.chan i).a, (d.chan i).b, (d.chan i).z) else none
  | 2 => some (x.a, x.b, d.on (Reg.REP_CTRL.Z_EN i) && zper != 0 && x.r % zper == 0)
  | _ => none

/-- The same at the pins, which are high impedance while the field die is unpowered (R265). -/
def FieldDie.repPin (d : FieldDie) (viso : Bool) (i : Nat) : Option (Bool × Bool × Bool) := if viso then d.repOut i else none

end Sys2Proof.Machine
end

