-- ==== Sys2Proof/Machine/FieldIo.lean ====
section
/-! DEFINITION. The field side of the barrier, the Weir's commands, outputs, inputs, the safe state and the field die's reset
and boot (R268 to R297, R426, R429). -/

namespace Sys2Proof.Machine
open Sys2Proof

/-! ### Frames (R272 to R275) -/

/-- Payload of the field HEARTBEAT (R275). -/
def FieldDie.hbPayload (d : FieldDie) : Nat :=
  d.port.hbSeq + b2n d.safe * 2 ^ 16 + d.get Reg.FLD_STATUS.FIELD_FAULT * 2 ^ 17 + d.get Reg.FLD_STATUS.LP_OK * 2 ^ 18
    + b2n d.alive * 2 ^ 19 + d.weirUsed * 2 ^ 20 + d.get Reg.DI_STATE * 2 ^ 33

/-- Payload of the LINE_TICK that carries every waiting tick (R274, R275). -/
def FieldDie.tickPayload (d : FieldDie) (waits : List Nat) : Nat :=
  ((List.range 8).map fun j => match (d.src j).tick with
    | none => 0
    | some (idx, late) => (if late then 2 else 1 + waits.getD j 0 % 64 * 2) * 2 ^ (8 * j) + idx * 2 ^ (8 * j + 7)).sum

/-- The frame goes out: its bits are kept, windows without a HEARTBEAT counted, the messages left behind are late (R273). -/
def BarEnd.sent (b : BarEnd) (type payload wait : Nat) : BarEnd :=
  { b with lastTx := frameOf type payload wait, hbWin := if type = 1 then 0 else b.hbWin + 1,
           hbSeq := if type = 1 then nextHbSeq b.hbSeq else b.hbSeq }.settleTx

/-- After a frame, each source that owes a tick makes one late tick for the next frame (R278). -/
def FieldDie.lateTicks (d : FieldDie) : FieldDie :=
  forN 8 (fun j d =>
    if d.on (Reg.TRIG_CFG.EN j) && (d.src j).hold == 0 && (d.src j).tick.isNone && d.owed j != 0 then d.makeTick j true else d) d

/-- A base snapshot of source `j` has launched: the last one the source waited for lets it tick (R278). -/
def FieldDie.baseSent (d : FieldDie) (j : Nat) : FieldDie :=
  let x := d.src j
  if x.hold = 0 then d else (d.setSrc j { x with hold := x.hold - 1 }).trigCheck j

/-- The field side launches one frame (R272 to R274, R278). -/
def FieldDie.launch (d : FieldDie) (wait : Nat) (waits : List Nat) : FieldDie :=
  if d.ctl = 0 then d
  else
    let tickers := (List.range 8).filter fun j => (d.src j).tick.isSome
    let hb := fun (d : FieldDie) => { d with port := d.port.sent 1 d.hbPayload 0 }
    if 63 ≤ d.port.hbWin then
      let d := tickers.foldl (fun d j => match (d.src j).tick with
        | some (i, false) => (d.setSrc j { d.src j with tick := some (i, true) }).inc Reg.FLD_LATE 1
        | _ => d) d
      hb d
    else if tickers != [] then
      let pay := d.tickPayload waits
      let d := tickers.foldl (fun d j => d.setSrc j { d.src j with tick := none }) d
      { d with port := d.port.sent 0x10 pay wait }.lateTicks
    else
      match pickMsg true d.port.tx with
      | none => hb d
      | some m =>
        let d := if m.late then d.inc Reg.FLD_LATE 1 else d
        let d := { d with port := { d.port with tx := dropMsg m d.port.tx }.sent m.type m.payload (if m.late then 127 else wait) }
        forN 8 (fun j d => if m.basesSrc j then d.baseSent j else d) d

/-- A host-to-field frame arrives at the field side (R271, R272). -/
def FieldDie.receive (d : FieldDie) (frame : Nat) : FieldDie :=
  if d.ctl = 0 then d
  else
    let f := frameRead frame
    let (p, on) := d.port.position f.sync
    let d := { d with port := p }
    if !on then d
    else if f.good && typeOk false f.type then
      { d with port := { d.port with rx := d.port.rx ++ [{ type := f.type, payload := f.payload, late := f.wait == 127 }] } }
    else { d with crcErr := d.crcErr + 1 }

/-! ### Configuration access (R263, R276, R297) -/

/-- Is a write of a field-side register outside the encoder windows refused (R290, R297, R429)? -/
def FieldDie.cfgRefused (d : FieldDie) (off v : Nat) : Bool :=
  if off = 0x1000 then v % 65536 < 10
  else if 0x1100 ≤ off && off < 0x1180 && off % 16 = 0 then v / 256 = 0
  else if off = 0x1300 then d.safe
  else if off = 0x1304 then (List.range 16).any fun i => v / 4 ^ i % 4 == 3
  else if 0x1310 ≤ off && off < 0x1330 && off % 8 = 0 then v % 4 = 3
  else 0x8000 ≤ off && off < 0x8060

/-- A group is switched on or off (R282, R286). -/
def FieldDie.groupCtl (d : FieldDie) (g : Nat) (was : Bool) : FieldDie :=
  let now := d.on (Reg.WG_CFG.EN g)
  if was && !now then d.closeGroup g
  else if !was && now then d.setGrp g { d.grp g with lastC := none } else d.showGrp g

/-- A trigger source is switched on or off, or follows another channel or N from now on (R278). -/
def FieldDie.trigCtl (d : FieldDie) (j : Nat) (was : Bool) : FieldDie :=
  let now := d.on (Reg.TRIG_CFG.EN j)
  if was && !now then d.setSrc j { d.src j with hold := 0 }
  else if !was && now then (d.set (Reg.TRIG_TICKS j) 0).trigRestart j 1 else d.trigCheck j

/-- The field side applies a configuration write: the state after it and whether it was refused (R263, R276). -/
def FieldDie.cfgWrite (d : FieldDie) (off : Nat) (v : Word) : FieldDie × Bool :=
  if 0x4000 ≤ off && off < 0x4800 then
    let ch := (off - 0x4000) / 0x200
    (d.encWrite ch (off % 0x200) v, d.encRefused ch (off % 0x200) v.toNat)
  else if 0x4800 ≤ off && off < 0x4840 then (d.repWrite ((off - 0x4800) / 0x20) (off % 0x20) v, false)
  else if off < 0x100 then (d, false)
  else if d.cfgRefused off v.toNat then (d, true)
  else
    let wr := { d with regs := d.regs.accWrite (0xE0000 + off) v false }
    if 0x1100 ≤ off && off < 0x1180 && off % 16 = 0 then
      let j := (off - 0x1100) / 16
      (wr.trigCtl j (d.on (Reg.TRIG_CFG.EN j)), false)
    else if 0x1310 ≤ off && off < 0x1330 && off % 8 = 0 then
      let s := (off - 0x1310) / 8
      (if wr.get (Reg.STB_CFG.MODE s) = 1 then wr else wr.setStrobe s {}, false)
    else if 0x1400 ≤ off && off < 0x1500 && off % 32 = 0 then
      let g := (off - 0x1400) / 32
      (wr.groupCtl g (d.on (Reg.WG_CFG.EN g)), false)
    else if 0x1800 ≤ off && off < 0x1840 && off % 16 = 0 then
      let p := (off - 0x1800) / 16
      (if !wr.on (Reg.VB_CFG.EN p) && d.on (Reg.VB_STATUS.ACTIVE p) && (d.valve p).drain = 0 then
          wr.setValve p { d.valve p with drain := 1 } else wr, false)
    else (wr, false)

/-- Value a field-side register shows, HI partners of LO reads from their latch (R276, R522); loader registers read 0 to the
host (R429). -/
def FieldDie.cfgShow (d : FieldDie) (off : Nat) : Word :=
  if off < 0x100 || (0x8000 ≤ off && off < 0x8060) then 0
  else if 0x4400 ≤ off && off < 0x4800 && 0x40 ≤ off % 0x200 && off % 0x200 < 0x68 then 0
  else if 0x4000 ≤ off && off < 0x4800 && off % 0x200 = 0x90 then SMap.get (fun _ => 0) d.latch (0xE0000 + off)
  else d.regs.readVal (0xE0000 + off)

/-- The field side serves a register read: RC fields clear, a SER_WORD_LO read latches its partner (R5, R266). -/
def FieldDie.cfgRead (d : FieldDie) (off : Nat) : FieldDie :=
  let a := 0xE0000 + off
  let d := if 0x4000 ≤ off && off < 0x4800 && off % 0x200 = 0x8C then { d with latch := d.latch.put (a + 4) (d.regs.word (a + 4)) } else d
  if off < 0x100 || 0x8000 ≤ off then d else { d with regs := d.regs.clearRC a }

/-- DATA of the answer to a DO_SET: static outputs as set, Weir outputs as they are (R284). DEDUCED (log entry 24). -/
def FieldDie.doData (d : FieldDie) : Nat :=
  ((List.range 16).map fun i =>
    if d.get ⟨(Reg.DO_MODE).addr, 2 * i, 2⟩ = 2 then b2n (d.doLevel i) * 2 ^ i else b2n (bit (d.get Reg.DO_VALUE) i) * 2 ^ i).sum

/-- Answers a request and remembers it (R276). -/
def FieldDie.answer (d : FieldDie) (rtag off : Nat) (refused : Bool) (data : Nat) : FieldDie :=
  let pay := off + rtag * 2 ^ 16 + b2n refused * 2 ^ 24 + data * 2 ^ 32
  { d with lastTag := some rtag, lastAns := pay }.present 0x23 pay

/-- Takes the oldest request of a type: a repeated RTAG is answered again and not applied (R276). -/
def FieldDie.request (d : FieldDie) (type tagLo : Nat) (f : FieldDie → Nat → Nat → FieldDie) : FieldDie :=
  match d.port.take type with
  | none => d
  | some (m, p) =>
    let d := { d with port := p }
    let rtag := m.payload / 2 ^ tagLo % 256
    if d.lastTag = some rtag then d.present 0x23 d.lastAns else f d m.payload rtag

/-- CFG_WRITE (R263, R276). -/
def execCfgWrite (s : State) : Host.Outcome State Fault Refusal :=
  s.onField fun _ d => d.request 0x22 16 fun d p rtag =>
    let off := p % 65536
    let (d, refused) := d.cfgWrite off (BitVec.ofNat 32 (p / 2 ^ 32))
    d.answer rtag off refused (d.cfgShow off).toNat

/-- CFG_READ (R263, R276). -/
def execCfgRead (s : State) : Host.Outcome State Fault Refusal :=
  s.onField fun _ d => d.request 0x23 16 fun d p rtag =>
    let off := p % 65536
    let v := (d.cfgShow off).toNat
    (d.cfgRead off).answer rtag off false v

/-- DO_SET: outputs in MASK that are static take their bit of VALUE; another output in MASK sets REFUSED (R290). Nothing is set in
the safe state (R292). -/
def execDoSet (s : State) : Host.Outcome State Fault Refusal :=
  s.onField fun _ d => d.request 0x21 32 fun d p rtag =>
    let mask := p % 65536
    let static (i : Nat) : Bool := d.get ⟨(Reg.DO_MODE).addr, 2 * i, 2⟩ == 1
    let val := ((List.range 16).map fun i =>
      (if bit mask i && static i then b2n (bit p (16 + i)) else b2n (bit (d.get Reg.DO_VALUE) i)) * 2 ^ i).sum
    let refused := d.safe || (List.range 16).any fun i => bit mask i && !static i
    let d := if d.safe then d else d.set Reg.DO_VALUE val
    d.answer rtag 0x1300 refused d.doData

/-! ### HEARTBEAT and the safe state (R292, R293) -/

/-- Leaving the safe state (R293): channels in mode 2 enter RECOVERY, DO_VALUE clears, groups start empty and take any TAG. -/
def FieldDie.leaveSafe (d : FieldDie) : FieldDie :=
  let d := (d.set Reg.FLD_STATUS.SAFE 0).set Reg.DO_VALUE 0
  let d := forN 4 (fun ch d => if d.mode ch = 2 then d.set (Reg.ENC_PHASE ch) 3 else d) d
  forN 8 (fun g d => d.setGrp g { d.grp g with fifo := [], expect := none }) d

/-- HEARTBEAT (R293): consecutive by HB_SEQ; RELEASE after 64 consecutive ones leaves the safe state, once the firmware runs. -/
def execHeartbeat (s : State) : Host.Outcome State Fault Refusal :=
  s.onField fun _ d => match d.port.take 1 with
    | none => d
    | some (m, p) =>
      let seq := m.payload % 65536
      let run := if p.hbSeen.map nextHbSeq = some seq then d.hbRun else 0
      let d := { d with port := { p with hbSeen := some seq }, hbRun := run + 1 }
      if d.safe && bit m.payload 16 && 64 ≤ run && d.ctl = 2 then d.leaveSafe else d

/-- SAFE_STATE_ENTRY: no valid HEARTBEAT for HB_TO (R292). -/
def execSafeStateEntry (s : State) : Host.Outcome State Fault Refusal :=
  s.onField fun e d => if d.safe then { d with hbRun := 0 } else (d.enterSafe true).notice e.linked

/-! ### The Weir (R277, R282 to R286) -/

/-- TAGs skipped by `tag`: at most 511 ahead of the expected one (R277). DEDUCED (log entry 24). -/
def skipped (expect tag : Nat) : List Nat :=
  let n := (tag + 1024 - expect % 1024) % 1024
  if n < 512 then (List.range n).map fun i => (expect + i) % 1024 else []

/-- An entry arrives at the Weir (R277, R282). DEDUCED (log entry 24). -/
def FieldDie.arrive (d : FieldDie) (p : Nat) : FieldDie :=
  let c := p % 2 ^ 32
  let g := p / 2 ^ 32 % 8
  let e : WeirEntry := { tag := p / 2 ^ 54 % 1024, c := c, first := p / 2 ^ 35 % 256, numM1 := p / 2 ^ 43 % 256, wsel := p / 2 ^ 51 % 8 }
  if d.safe then d.report g e.tag 1 false false
  else
    let lost := match (d.grp g).expect with | some x => skipped x e.tag | none => []
    let d := lost.foldl (fun d t => d.report g t 5 false false) d
    let d := d.setGrp g { d.grp g with expect := some ((e.tag + 1) % 1024) }
    if !d.on (Reg.WG_CFG.EN g) || (if g < 4 then 255 else 19) < e.first + e.numM1 then d.report g e.tag 6 false false
    else if (match (d.grp g).lastC with | some l => decide (sdiff c l < 0) | none => false) then d.report g e.tag 2 false false
    else
      let d := (d.setGrp g { d.grp g with lastC := some c }).set (Reg.WG_LAST_C g) c
      if 4096 ≤ d.weirUsed then d.report g e.tag 3 false false
      else if (d.get (Reg.WG_LATE g) : Int) < d.lateness g c then d.report g e.tag 1 false false
      else d.setGrp g { d.grp g with fifo := (d.grp g).fifo ++ [e] }

/-- EJECT_ARM (R282). -/
def execEjectArm (s : State) : Host.Outcome State Fault Refusal :=
  s.onField fun _ d => match d.port.take 0x20 with
    | some (m, p) => { d with port := p }.arrive m.payload
    | none => d

/-- The later of two ends, `c` counts ahead compared as a signed difference (R284). -/
def laterCount (old : Option Nat) (c : Nat) : Option Nat :=
  match old with
  | some o => some (if 0 < sdiff c o then c else o)
  | none => some c

/-- Switches on one output of a firing (R284). -/
def FieldDie.pulse (d : FieldDie) (key now w : Nat) (counts : Bool) (p : Nat) : FieldDie :=
  let x : Pulse := SMap.get (fun _ => {}) d.pulses key
  let y : Pulse := if counts then { x with cnt := laterCount x.cnt ((p + w) % 2 ^ 32) }
    else { x with cyc := some (max (x.cyc.getD 0) (now + w * 16)) }
  { d with pulses := d.pulses.put key y }

/-- WEIR_FIRE: the head of a group with d ≥ 0 fires in FIELD cycle `now` (R283, R284). -/
def FieldDie.fire (d : FieldDie) (g now : Nat) : FieldDie :=
  match (d.grp g).fifo with
  | [] => d
  | e :: rest =>
    let late := d.lateness g e.c
    if 8 ≤ g || late < 0 then d
    else
      let jumped := decide ((d.get (Reg.WG_LATE g) : Int) < late)
      let keys := (List.range (e.numM1 + 1)).filterMap fun i => d.outKey g (e.first + i)
      let w := max 1 (d.get (Reg.W_TAB g e.wsel))
      let p := d.pos (d.get (Reg.WG_CFG.CH g))
      let hit := keys.any fun k => 1024 ≤ k && k < 1040 && bit d.limited (k - 1024)
      let d := keys.foldl (fun d k => d.pulse k now w (d.on (Reg.WG_CFG.W_UNIT g)) p) (d.setGrp g { d.grp g with fifo := rest })
      let d := d.inc (Reg.WG_FIRED g) 1
      let d := if jumped then d.inc (Reg.WG_OVERSHOOT g) 1 else d
      d.report g e.tag 0 jumped hit

def execWeirFire (g now : Nat) (s : State) : Host.Outcome State Fault Refusal :=
  s.onField fun _ d => d.fire g now

/-- WEIR_PULSE_END: output `out` of group `g` switches off once its ends have passed in FIELD cycle `now` (R284). -/
def execWeirPulseEnd (g out now : Nat) (s : State) : Host.Outcome State Fault Refusal :=
  s.onField fun _ d =>
    let key := if g < 4 then g * 256 + out else 1024 + out
    match d.pulses.find key with
    | none => d
    | some x =>
      let p := d.pos (d.get (Reg.WG_CFG.CH g))
      let cyc := x.cyc.filter fun t => now < t
      let cnt := x.cnt.filter fun c => decide (sdiff p c < 0)
      if cyc.isNone && cnt.isNone then { d with pulses := d.pulses.erase key }
      else { d with pulses := d.pulses.put key { cyc := cyc, cnt := cnt } }

/-! ### Timers and outputs -/

/-- SNAPSHOT_TIMER: a periodic snapshot of enabled channel `i`, or the 1 ms KIND 1 snapshot of source `i` (R278, R297). -/
def execSnapshotTimer (periodic : Bool) (i : Nat) (s : State) : Host.Outcome State Fault Refusal :=
  s.onField fun _ d =>
    if periodic then
      (if i < 4 && d.mode i != 0 && d.get Reg.FLD_CTRL.SNAP_PERIOD != 0 then d.present 0x11 (d.snapPayload i 0 0 (d.pos i)) else d)
    else if i < 8 && d.on (Reg.TRIG_CFG.EN i) then
      d.present 0x11 (d.snapPayload (d.get (Reg.TRIG_CFG.CH i)) 1 i (d.get (Reg.TRIG_NEXT i)))
    else d

/-- STROBE_PULSE_START: STB_DELAY after a tick, a mode 1 strobe starts or restarts its pulse (R280); not in the safe state. -/
def execStrobePulseStart (i : Nat) (s : State) : Host.Outcome State Fault Refusal :=
  s.onField fun _ d =>
    let x := d.strobe i
    if 4 ≤ i || x.due = 0 || d.get (Reg.STB_CFG.MODE i) != 1 then d
    else d.setStrobe i { due := x.due - 1, on := !d.safe }

/-- STROBE_PULSE_END: STB_WIDTH cycles have passed (R280). -/
def execStrobePulseEnd (i : Nat) (s : State) : Host.Outcome State Fault Refusal :=
  s.onField fun _ d => if 4 ≤ i then d else d.setStrobe i { d.strobe i with on := false }

/-- VALVE_FRAME: LE applies the frame before, and the port samples its image and sends the next one; a port that stops sends
its frames of zeros and a last LE (R287, R288). -/
def FieldDie.valveFrame (d : FieldDie) (p : Nat) : FieldDie :=
  let x := d.valve p
  let active := d.on (Reg.VB_STATUS.ACTIVE p)
  let latched := if active then x.shift else x.latched
  let frame (img drain : Nat) : FieldDie :=
    ((d.setValve p { shift := img, latched := latched, drain := drain, le := active }).set (Reg.VB_FRAMES p) (d.get (Reg.VB_FRAMES p) + 1)).set
      (Reg.VB_STATUS.ACTIVE p) 1
  if 4 ≤ p then d
  else match x.drain with
    | 0 => if d.on (Reg.VB_CFG.EN p) && !d.safe then frame (d.image_ p) 0 else d
    | 1 => (d.setValve p { shift := 0, latched := latched, drain := 0, le := active }).set (Reg.VB_STATUS.ACTIVE p) 0
    | n + 1 => frame 0 n

def execValveFrame (p : Nat) (s : State) : Host.Outcome State Fault Refusal :=
  s.onField fun _ d => d.valveFrame p

/-- DI_FILTER_CHANGE: the filtered inputs take a new state; enabled edges share one DI_CHANGE (R289). -/
def execDiFilterChange (inputs : Nat) (s : State) : Host.Outcome State Fault Refusal :=
  s.onField fun _ d =>
    let now := inputs % 65536
    let old := d.get Reg.DI_STATE
    let rise := now &&& (old ^^^ 0xFFFF) &&& d.get Reg.DI_RISE_EN
    let fall := old &&& (now ^^^ 0xFFFF) &&& d.get Reg.DI_FALL_EN
    let d := d.set Reg.DI_STATE now
    if rise ||| fall = 0 then d
    else d.present 0x12 (now + (rise ||| fall) * 2 ^ 16 + d.pos (d.get Reg.DI_CFG.REF_CH) * 2 ^ 32)

/-- DO_FAULT: an output has been in current limit for 2 ms, or enters thermal shutdown (`hot`) and switches off (R291). -/
def execDoFault (i : Nat) (hot : Bool) (s : State) : Host.Outcome State Fault Refusal :=
  s.onField fun _ d =>
    if 16 ≤ i then d
    else
      let d := { d with limited := d.limited ||| 2 ^ i, shutdown := if hot then d.shutdown ||| 2 ^ i else d.shutdown }
      (d.set Reg.FLD_STATUS.FIELD_FAULT 1).fault false false none

/-- OUTPUT_FAULT_END: the output leaves current limit or restarts after cooling (R291); FIELD_FAULT stays. -/
def execOutputFaultEnd (i : Nat) (s : State) : Host.Outcome State Fault Refusal :=
  s.onField fun _ d =>
    if i < 16 && bit d.limited i then
      { d with limited := d.limited - 2 ^ i, shutdown := if bit d.shutdown i then d.shutdown - 2 ^ i else d.shutdown }
    else d

/-- LP_UNDERVOLTAGE: L+ crosses its threshold; FAULT is sent when it falls below (R269). -/
def execLpUndervoltage (ok : Bool) (s : State) : Host.Outcome State Fault Refusal :=
  s.onField fun _ d =>
    let e := d.set Reg.FLD_STATUS.LP_OK (b2n ok)
    if d.on Reg.FLD_STATUS.LP_OK == ok then d else if ok then e else e.fault false false none

/-! ### Reset and boot (R426, R429) -/

/-- FIELD_RESET: every field register, channel, group and the barrier end return to their reset state (R265, R295, R297, R426); the
FAULT of this safe-state entry waits for the link (R292). -/
def execFieldReset (s : State) : Host.Outcome State Fault Refusal :=
  s.onField fun _ _ => {}

/-- FIELD_ROM_BOOT: the ROM starts the barrier link with SAFE = 1 and waits for its firmware (R429). -/
def execFieldRomBoot (s : State) : Host.Outcome State Fault Refusal :=
  s.onField fun _ d => if d.ctl = 0 then { d with ctl := 1 } else d

/-- FLD_LOAD_START: the management processor restarts the controller into its ROM, with the effect of a field-die reset; after
three failed loads the die stays in its ROM (R429). -/
def execFldLoadStart (s : State) : Host.Outcome State Fault Refusal :=
  s.onField fun _ d =>
    if d.ctl = 0 || 3 ≤ d.loadFails then d
    else { ({} : FieldDie) with loadFails := d.loadFails }

/-- FLD_LOAD_DATA: 4 more bytes of the image, at most 256 KiB (R429). -/
def execFldLoadData (v : Word) (s : State) : Host.Outcome State Fault Refusal :=
  s.onField fun _ d =>
    if d.ctl != 1 || 262144 < d.image.length + 4 then d
    else { d with image := d.image ++ toLE 4 v.toNat }.set Reg.FLD_LOAD_LEN (d.image.length + 4)

/-- FLD_LOAD_RUN: the ROM compares the digest of the image with the expected one and runs it on a match (R429). DEDUCED
(log entry 25). -/
def execFldLoadRun (expected : List Byte) (s : State) : Host.Outcome State Fault Refusal :=
  s.onField fun _ d =>
    if d.ctl != 1 || 3 ≤ d.loadFails then d
    else
      let dig := sha3 d.image
      if dig = expected then
        forN 8 (fun k d => d.set (Reg.FLD_LOAD_DIGEST k) (leNat ((dig.drop (4 * k)).take 4))) { d with ctl := 2 }
      else { d with loadFails := d.loadFails + 1 }

end Sys2Proof.Machine
end

