-- ==== Sys2Proof/Machine/Flags.lean ====
section
/-! DEFINITION. The sticky conditions of CORE_FLAGS (R130) and the conversions of R128 and R129 that raise them. -/

namespace Sys2Proof

/-- Conditions of R130 that a command met. -/
structure Flags where
  sat : Bool := false
  nanConv : Bool := false
  accSat : Bool := false
  intSat : Bool := false
  nanOut : Bool := false
deriving DecidableEq, Repr

def Flags.or (a b : Flags) : Flags :=
  { sat := a.sat || b.sat, nanConv := a.nanConv || b.nanConv, accSat := a.accSat || b.accSat,
    intSat := a.intSat || b.intSat, nanOut := a.nanOut || b.nanOut }

/-- The bits of CORE_FLAGS (R143). -/
def Flags.bits (f : Flags) : Nat :=
  b2n f.sat + 2 * b2n f.nanConv + 4 * b2n f.accSat + 8 * b2n f.intSat + 16 * b2n f.nanOut

/-- A value of a domain (R127). -/
inductive DV where
  | i (z : Int)
  | f (x : Num)
deriving DecidableEq, Repr

/-- The integer of the I32 domain. -/
def DV.int : DV → Int
  | .i z => z
  | .f _ => 0

/-- The value of either domain, exactly. -/
def DV.num : DV → Num
  | .i z => Num.ofInt z
  | .f x => x

/-- Floating format of a code of R124. -/
def fltOf : Nat → Option FltFmt
  | 6 => some fltE4M3
  | 7 => some fltE5M2
  | 8 => some fltFP16
  | 9 => some fltBF16
  | 10 => some fltFP32
  | _ => none

/-- Range of an integer format of R124. -/
def intRange : Nat → Int × Int
  | 1 => (0, 255)
  | 2 => (-128, 127)
  | 3 => (-8, 7)
  | 4 => (-32768, 32767)
  | 5 => (0, 4095)
  | _ => (0, 0)

/-- Bits of one element of a format; BFP4 holds 4 bits of each value beside the shared exponents. -/
def fmtBits : Nat → Nat
  | 1 => 8
  | 2 => 8
  | 3 => 4
  | 4 => 16
  | 5 => 12
  | 6 => 8
  | 7 => 8
  | 8 => 16
  | 9 => 16
  | 10 => 32
  | _ => 0

/-- Does the format's domain is the FP32 domain (R127)? -/
def fmtIsFloat (f : Nat) : Bool := 6 ≤ f && f ≤ 11

/-- Bytes that `n` elements take, stored from a granule on. -/
def fmtBytes (f n : Nat) : Nat := if f = 11 then n / 32 * 17 else (n * fmtBits f + 7) / 8

/-- Clamps into the range of an integer format, reporting a clamp. -/
def clampInt (f : Nat) (z : Int) : Int × Bool :=
  let (lo, hi) := intRange f
  if z < lo then (lo, true) else if hi < z then (hi, true) else (z, false)

/-- Writes a value into an integer or floating format (R128): the element's word and the conditions met. -/
def convert (f : Nat) (v : DV) : Nat × Flags :=
  match fltOf f with
  | some ff =>
    (match v with
    | .i z =>
      let (m, e) := ff.round z.natAbs 0
      let w := ff.magWord m e
      let s := b2n (decide (z < 0)) * 2 ^ (ff.eb + ff.mb)
      if ff.maxWord < w then (s + ff.maxWord, { sat := true }) else (s + w, {})
    | .f .nan => (ff.canonNaN, {})
    | .f (.inf neg) =>
      if ff.hasInf then (ff.infWord neg, {})
      else (b2n neg * 2 ^ (ff.eb + ff.mb) + ff.maxWord, { sat := true })
    | .f (.fin neg m e) =>
      let (m', e') := ff.round m e
      let w := ff.magWord m' e'
      let s := b2n neg * 2 ^ (ff.eb + ff.mb)
      if ff.maxWord < w then (s + ff.maxWord, { sat := true }) else (s + w, {}))
  | none =>
    (match v with
    | .i z => let (y, c) := clampInt f z; (wrap (fmtBits f) y, { sat := c })
    | .f .nan => (0, { nanConv := true })
    | .f (.inf neg) =>
      let (lo, hi) := intRange f
      (wrap (fmtBits f) (if neg then lo else hi), { sat := true })
    | .f (.fin neg m e) => let (y, c) := clampInt f (rneInt neg m e); (wrap (fmtBits f) y, { sat := c }))

/-- A domain value as FP32, an integer by RNE (R128, R135). -/
def DV.toNum : DV → Num
  | .i z => Num.toFP32 (Num.ofInt z)
  | .f x => x

/-- x × 2^k for a finite value, RNE to an integer; none for an infinity or NaN. -/
def scaledInt (x : Num) (k : Int) : Option Int :=
  match x with
  | .fin neg m e => some (rneInt neg m (e + k))
  | _ => none

/-- Do all values fit [−8, 7] at exponent E (R129)? -/
def bfpFits (xs : List Num) (ex : Nat) : Bool :=
  xs.all fun x => match scaledInt x (130 - (ex : Int)) with
    | some z => decide (-8 ≤ z) && decide (z ≤ 7)
    | none => false

/-- A block of 32 values as BFP4 (R129): exponent, mantissas, conditions. -/
def bfpBlock (xs : List Num) : Nat × List Int × Flags :=
  if xs.any Num.isNaN then (255, xs.map fun _ => 0, {})
  else match findN 255 (bfpFits xs) with
    | some ex => (ex, xs.map fun x => (scaledInt x (130 - (ex : Int))).getD 0, {})
    | none =>
      let one (x : Num) : Int × Bool := match x with
        | .inf true => (-8, false)
        | .inf false => (7, false)
        | y => (let z := (scaledInt y (-124)).getD 0
                if z < -8 then (-8, true) else if 7 < z then (7, true) else (z, false))
      (254, xs.map (fun x => (one x).1), { sat := xs.any (fun x => (one x).2) })

/-- Packs nibbles two to a byte, the lower first (R126). -/
def packNibbles : List Nat → List Byte
  | a :: b :: t => BitVec.ofNat 8 (a % 16 + 16 * (b % 16)) :: packNibbles t
  | [a] => [BitVec.ofNat 8 (a % 16)]
  | [] => []

/-- The bytes of a run of values written in a format from an element boundary (R126, R128, R129), and the conditions met. -/
def encodeRun (f : Nat) (vs : List DV) : List Byte × Flags :=
  if f = 11 then
    (chunksOf 32 vs.length vs).foldl (fun (acc : List Byte × Flags) blk =>
      let (ex, ms, fl) := bfpBlock (blk.map DV.toNum)
      (acc.1 ++ BitVec.ofNat 8 ex :: packNibbles (ms.map (wrap 4)), acc.2.or fl)) ([], {})
  else
    let ws := vs.map (convert f)
    let fl := ws.foldl (fun (a : Flags) w => a.or w.2) {}
    if f = 3 then (packNibbles (ws.map (·.1)), fl)
    else (ws.flatMap (fun w => toLE (fmtBits f / 8) w.1), fl)

/-- Saturates an exact I32-domain result (R136). -/
def satI32 (z : Int) : Int × Flags :=
  let y := satS 32 z
  (y, { intSat := y != z })

end Sys2Proof
end

