-- ==== Sys2Proof/Machine/Operands.lean ====
section
/-! DEFINITION. Operand forms: the halfwords of a core command (R116 to R123), far addresses (R173, R174), elements of the
eleven formats in memory (R126), fields of descriptors. -/

namespace Sys2Proof.Machine
open Sys2Proof

/-- Halfword i of a 16-byte command. -/
def hw (w i : Nat) : Nat := w / 2 ^ (16 * i) % 2 ^ 16
/-- Bits [hi:lo] of halfword i. -/
def hb (w i hi lo : Nat) : Nat := bits (hw w i) hi lo

/-- Bytes of a scratchpad (R114). -/
def spadBytes : Nat := 0x200000
/-- Do `n` bytes at `off` stay in the scratchpad? -/
def inSpad (off n : Nat) : Bool := off + n ≤ spadBytes

/-- Element `i` of an operand of format `f` that starts at byte `base` (R124, R126, R127). -/
def readElem (m : Mem) (f base i : Nat) : DV :=
  match f with
  | 1 => .i (m.byte (base + i)).toNat
  | 2 => .i (sext 8 (m.byte (base + i)).toNat)
  | 3 => .i (sext 4 ((m.byte (base + i / 2)).toNat / (if i % 2 = 0 then 1 else 16)))
  | 4 => .i (sext 16 (m.le (base + 2 * i) 2))
  | 5 => .i (m.le (base + i / 2 * 3) 3 / (if i % 2 = 0 then 1 else 4096) % 4096)
  | 6 => .f (fltE4M3.decode (m.byte (base + i)).toNat)
  | 7 => .f (fltE5M2.decode (m.byte (base + i)).toNat)
  | 8 => .f (fltFP16.decode (m.le (base + 2 * i) 2))
  | 9 => .f (fltBF16.decode (m.le (base + 2 * i) 2))
  | 10 => .f (fltFP32.decode (m.le (base + 4 * i) 4))
  | 11 =>
    let blk := base + i / 32 * 17
    let ex := (m.byte blk).toNat
    let z := sext 4 ((m.byte (blk + 1 + i % 32 / 2)).toNat / (if i % 2 = 0 then 1 else 16))
    if ex = 255 then .f .nan else .f (.fin (decide (z < 0)) z.natAbs ((ex : Int) - 130))
  | _ => .i 0

/-- An FP32 word at a byte address. -/
def readF32 (m : Mem) (a : Nat) : Num := num32 (m.le a 4)

/-- Is the format code one of R124? -/
def fmtOk (f : Nat) : Bool := 1 ≤ f && f ≤ 11
/-- Does an operand of the format hold a whole number of bytes and blocks (R126)? -/
def countOk (f n : Nat) : Bool :=
  if f = 3 || f = 5 then n % 2 == 0 else if f = 11 then n % 32 == 0 else true

/-! ### LOAD and STORE (R123, R173, R174) -/

/-- Bytes a transfer of `len` granules stores on the far side (R167, R174 before padding). -/
def storedBytes (rif len : Nat) : Nat :=
  if rif = 1 then len / 32 * 1088 else if rif = 2 then len / 32 * 576 else len * 64

/-- Control addresses of SPACE 1 (R158, R159, R374, R393, R405). -/
inductive Control where
  | release (h : Nat)
  | post (h : Nat)
  | stepEnd
  | batchFree
  | counters
  | globals (m : Nat)
deriving DecidableEq, Repr

/-- The control address a far address of SPACE 1 names. -/
def controlOf (far : Nat) : Option Control :=
  if 0x1000000 ≤ far && far < 0x1000400 && far % 64 == 0 then some (.release ((far - 0x1000000) / 64))
  else if 0x1001000 ≤ far && far < 0x1001400 && far % 64 == 0 then some (.post ((far - 0x1001000) / 64))
  else if far == 0x1002000 then some .stepEnd
  else if far == 0x1003000 then some .batchFree
  else if far == 0x1004000 then some .counters
  else if 0x1008000 ≤ far && far < 0x1008800 && far % 256 == 0 then some (.globals ((far - 0x1008000) / 256))
  else none

/-- Is a transfer to a control address of the form its rule allows (R173, R405)? -/
def controlOk (x : Control) (load : Bool) (rif len : Nat) : Bool :=
  rif == 0 && (match x with
    | .counters => if load then len == 2 else len == 1
    | .globals _ => load && len == 4
    | _ => !load && len == 1)

/-- Fields of a LOAD or STORE. -/
def xferOf (w : Nat) (load timed : Bool) : Xfer :=
  let space := hb w 1 3 0
  { load, timed, space, rif := hb w 1 6 4, peer := hb w 1 13 8, spa := hb w 2 14 0 * 64,
    far := hw w 3 + hw w 4 * 2 ^ 16 + hw w 5 * 2 ^ 32, len := hw w 6 + 1,
    sig := if hb w 0 12 12 = 1 then some (hb w 0 11 8) else none,
    dsig := if space == 0 && hb w 1 14 14 = 1 then some (hb w 7 3 0) else none,
    op := if load then 1 else 2 }

/-- HBM offset range check (R173): a 2,048-byte aligned start below 0xC000_0000, staying inside the group. -/
def hbmOk (groups far stored : Nat) : Bool :=
  far / 2 ^ 32 < groups && far % 2048 == 0 && far % 2 ^ 32 + stored ≤ 0xC0000000

/-- The cause that makes a LOAD or STORE invalid (R118, R173), for a product with `groups` HBM groups and `ports` ports. -/
def xferInvalid (v : Variant) (x : Xfer) : Option Nat :=
  let stored := storedBytes x.rif x.len
  if x.rif != 0 && x.space == 0 then some 3
  else if !inSpad x.spa (x.len * 64) then some 2
  else if x.space == 0 && x.far < 2 ^ 21 && !inSpad x.far (x.len * 64) then some 2
  else if 5 ≤ x.space || 3 ≤ x.rif then some 4
  else if x.rif != 0 && x.len % 32 != 0 then some 4
  else
    let ok := match x.space with
      | 0 => x.peer < 8 && x.far < 2 ^ 21 && x.far % 64 == 0
      | 1 => (match controlOf x.far with
          | some c => controlOk c x.load x.rif x.len
          | none => x.far % 64 == 0 && x.far + stored ≤ 0x800000)
      | 2 => hbmOk v.groups x.far stored
      | 3 => x.peer < 8 && x.far % 64 == 0 && x.far + stored ≤ 0x800000
      | _ => x.far / 2 ^ 45 < v.ports &&
          (if bit x.far 44 then x.far % 2 ^ 24 % 64 == 0 && x.far % 2 ^ 24 + stored ≤ 0x800000 && x.far / 2 ^ 24 % 2 ^ 17 == 0
           else x.far / 2 ^ 36 % 2 ^ 8 == 0 && hbmOk 16 (x.far % 2 ^ 36) stored)
    if ok then none else some 4

end Sys2Proof.Machine
end

