-- ==== Sys2Proof/Machine/Riffle.lean ====
section
/-! DEFINITION. Riffle compression of 8-bit feature maps (R164 to R170). -/

namespace Sys2Proof.Machine
open Sys2Proof

/-- Code range of a mode: 1 half rate, 2 quarter rate (R165). -/
def rifLo (rif : Nat) : Int := if rif = 1 then -8 else -2
def rifHi (rif : Nat) : Int := if rif = 1 then 7 else 1

/-- Shift of a block: the first of 0 to 8 at which every value fits, else 8 (R165). -/
def rifShift (rif : Nat) (vs : List Int) : Nat :=
  (findN 9 fun t => vs.all fun v => decide (rifLo rif ≤ rneShrI v t) && decide (rneShrI v t ≤ rifHi rif)).getD 8

def rifCode (rif s : Nat) (v : Int) : Int := min (max (rneShrI v s) (rifLo rif)) (rifHi rif)

/-- Packs four 2-bit codes to a byte (R167). -/
def packCrumbs : List Nat → List Byte
  | a :: b :: c :: d :: t => BitVec.ofNat 8 (a % 4 + 4 * (b % 4) + 16 * (c % 4) + 64 * (d % 4)) :: packCrumbs t
  | _ => []

/-- A block of 32 values: its header byte and its payload (R165, R167). -/
def rifBlock (rif : Nat) (vs : List Int) : Byte × List Byte :=
  let s := rifShift rif vs
  let codes := vs.map (rifCode rif s)
  (BitVec.ofNat 8 s, if rif = 1 then packNibbles (codes.map (wrap 4)) else packCrumbs (codes.map (wrap 2)))

/-- Stores a 2 KiB tile: 64 headers, then the payloads (R167). `u8`: bytes are U8, offset by 128 (R164). -/
def rifEncodeTile (rif : Nat) (u8 : Bool) (bs : List Byte) : List Byte :=
  let vals := bs.map fun b => if u8 then (b.toNat : Int) - 128 else sext 8 b.toNat
  let blks := (chunksOf 32 64 vals).map (rifBlock rif)
  blks.map (·.1) ++ blks.flatMap (·.2)

/-- Decodes one value (R166): a header of 9 to 15 acts as 8, the upper header bits are ignored. -/
def rifValue (hdr : Nat) (code : Int) (u8 : Bool) : Byte :=
  let s := min (hdr % 16) 8
  let v := min (max (code * (2 ^ s : Int)) (-128)) 127
  BitVec.ofNat 8 (wrap 8 (if u8 then v + 128 else v))

/-- Decodes a stored tile into its 2,048 bytes (R166, R167). -/
def rifDecodeTile (rif : Nat) (u8 : Bool) (st : List Byte) : List Byte :=
  let per := if rif = 1 then 16 else 8
  (List.range 64).flatMap fun j =>
    let hdr := (st.getD j 0).toNat
    let pay := (st.drop (64 + j * per)).take per
    (List.range 32).map fun i =>
      let code := if rif = 1 then sext 4 ((pay.getD (i / 2) 0).toNat / 2 ^ (4 * (i % 2)))
        else sext 2 ((pay.getD (i / 4) 0).toNat / 2 ^ (2 * (i % 4)))
      rifValue hdr code u8

/-- Stored bytes of one tile. -/
def rifTileBytes (rif : Nat) : Nat := if rif = 1 then 1088 else 576

/-- Does a transfer of cluster `k` match an enabled U8 window: equal SPACE, start in [BASE, LIMIT) (R170)? -/
def HostSide.u8Window (h : HostSide) (k space far : Nat) : Bool :=
  (List.range 4).any fun i =>
    let a (lo hi : RF) := h.get lo * 64 + h.get hi * 2 ^ 32
    h.on (Reg.RIFW_CTRL.EN k i) && h.get (Reg.RIFW_CTRL.SPACE k i) == space && 1 ≤ space && space ≤ 4
      && a (Reg.RIFW_BASE_LO k i) (Reg.RIFW_BASE_HI k i) ≤ far && far < a (Reg.RIFW_LIMIT_LO k i) (Reg.RIFW_LIMIT_HI k i)

end Sys2Proof.Machine
end

