-- ==== Sys2Proof/Machine/Trace.lean ====
section
/-! DEFINITION. Trace records and their buffers (R410, R411). -/

namespace Sys2Proof.Machine
open Sys2Proof

def HostSide.traceBuf (h : HostSide) (b : Nat) : TraceBuf := SMap.get (fun _ => {}) h.gauge.bufs b
def HostSide.setTraceBuf (h : HostSide) (b : Nat) (x : TraceBuf) : HostSide :=
  { h with gauge := { h.gauge with bufs := h.gauge.bufs.put b x } }

/-- The 32 bytes of a trace record (R410). -/
def traceBytes (tick kind source sport : Nat) (payload : List Byte) : List Byte :=
  toLE 8 tick ++ toLE 1 (1 + 16 * kind) ++ toLE 1 source ++ toLE 1 sport ++ toLE 1 0 ++ (payload ++ List.replicate 20 0).take 20

/-- A buffer that lost records and has room takes a LOSS record first (R411). DEDUCED (log entry 50). -/
def HostSide.traceLoss (h : HostSide) (e : Env) (b : Nat) : HostSide :=
  let x := h.traceBuf b
  if x.dropped = 0 || 256 ≤ x.recs.length then h
  else
    let r := traceBytes e.tick 15 b 0 (toLE 4 x.dropped ++ toLE 8 x.dropTick)
    (h.setTraceBuf b { recs := x.recs ++ [r], dropped := 0, dropTick := 0 }).setBits Reg.GAUGE_INT_STATUS 1

/-- Is a kind of record made: trace on and the kind enabled (R410)? -/
def HostSide.traceOn (h : HostSide) (kind : Nat) : Bool := h.on Reg.TRC_CTRL.EN && bit (h.get Reg.TRC_KINDS) kind

/-- A record of the event at `tick` enters buffer `b` (clusters 0 to 7, then 8 + I/O die), or is dropped and counted when the buffer
is full (R411). DEDUCED (log entry 50). -/
def HostSide.traceIn (h : HostSide) (e : Env) (b tick : Nat) (r : List Byte) : HostSide :=
  let h := h.traceLoss e b
  let x := h.traceBuf b
  if 256 ≤ x.recs.length then
    let x := { x with dropped := x.dropped + 1, dropTick := if x.dropped = 0 then tick else x.dropTick }
    ((h.setTraceBuf b x).inc Reg.TRC_DROPPED 1).countG 0x51 0 1
  else h.setTraceBuf b { x with recs := x.recs ++ [r] }

/-- A record of an enabled kind is made and enters its buffer (R410, R411). -/
def HostSide.trace (h : HostSide) (e : Env) (b tick kind source sport : Nat) (payload : List Byte) : HostSide :=
  if !h.traceOn kind then h else h.traceIn e b tick (traceBytes tick kind source sport payload)

/-- An event of an enabled kind happens now: its record is to enter buffer `b` (R410). -/
def HostSide.traceDue (h : HostSide) (e : Env) (b kind source : Nat) (payload : List Byte) : HostSide :=
  if !h.traceOn kind then h
  else { h with gauge := { h.gauge with due := h.gauge.due ++ [(b, e.tick, traceBytes e.tick kind source 0 payload)] } }

/-- An event of a logical core that TRC_CORES selects: a command issues (kind 1), or a free-mode WAIT ends (kind 2) (R410). -/
def HostSide.traceCore (h : HostSide) (e : Env) (c kind : Nat) (payload : List Byte) : HostSide :=
  if bit (h.get2 Reg.TRC_CORES_LO Reg.TRC_CORES_HI) c then h.traceDue e (c / 8) kind c payload else h

end Sys2Proof.Machine
end

