-- ==== Sys2Proof/Machine/Units.lean ====
section
/-! DEFINITION. What the matrix, drain and vector units compute: pure functions of a command's fields, the scratchpad and the
accumulator banks (R131 to R138, R146 to R154). Each answers what it writes and the conditions of R130 it met. -/

namespace Sys2Proof.Machine
open Sys2Proof

/-- What a unit's command writes. -/
structure UnitOut where
  /-- Scratchpad writes: byte address and bytes, in order. -/
  writes : List (Nat × List Byte) := []
  /-- New contents of the bank the command writes. -/
  bank : Option AccBank := none
  flags : Flags := {}
deriving DecidableEq, Repr

/-! ### Matrix multiply (R131 to R133) -/

/-- A, B and accumulator kind of a format pair (R131): formats and true for FP32. -/
def pairOf : Nat → Option (Nat × Nat × Bool)
  | 0 => some (2, 2, false)
  | 1 => some (2, 1, false)
  | 2 => some (2, 3, false)
  | 3 => some (3, 3, false)
  | 4 => some (6, 6, true)
  | 5 => some (6, 7, true)
  | 6 => some (7, 6, true)
  | 7 => some (7, 7, true)
  | 8 => some (8, 8, true)
  | 9 => some (9, 9, true)
  | 10 => some (11, 11, true)
  | _ => none

/-- Bytes of a block of 64 elements (R131). -/
def blockBytes (f : Nat) : Nat := if f = 11 then 34 else fmtBits f * 8

/-- Granules from one row or column to the next (R131). -/
def pitchOf (f kb : Nat) : Nat := (kb * blockBytes f + 63) / 64

/-- Bits of a bank entry. -/
def AccBank.entry (b : AccBank) (r n : Nat) : Nat := SMap.get (fun _ => 0) b.acc (64 * r + n)

/-- Sums the pairs of a level of the tree (R132). -/
def treeStep : List Num → List Num
  | a :: b :: t => Num.add a b :: treeStep t
  | l => l

/-- Adds a list of 2^k values in the tree of R132. -/
def treeSum : Nat → List Num → Num
  | 0, l => l.headD Num.zero
  | k + 1, l => treeSum k (treeStep l)

/-- The product of one BFP4 half block: the exact integer sum scaled once (R133). -/
def bfpHalf (a b : List DV) (ea eb : Nat) : Num :=
  if ea = 255 || eb = 255 then .nan
  else
    let mant (d : DV) : Int := match d with
      | .f (.fin s m _) => sgnI s m
      | _ => 0
    let z := (List.zipWith (fun x y => mant x * mant y) a b).foldl (· + ·) 0
    Num.toFP32 (.fin (decide (z < 0)) z.natAbs ((ea : Int) + (eb : Int) - 260))

/-- One reduction (R132): block `blk` gives element lists of 64 of A and B; `ebs` the BFP4 exponents of its two halves. -/
def reduceI32 (acc : Int) (blocks : List (List DV × List DV)) : Int × Bool :=
  blocks.foldl (fun (s : Int × Bool) ab =>
    let z := s.1 + (List.zipWith (fun x y => DV.int x * DV.int y) ab.1 ab.2).foldl (· + ·) 0
    (satS 32 z, s.2 || satS 32 z != z)) (acc, false)

def reduceF (acc : Num) (blocks : List (List DV × List DV)) : Num :=
  blocks.foldl (fun s ab => Num.add s (treeSum 6 (List.zipWith (fun x y => Num.mul x.num y.num) ab.1 ab.2))) acc

/-- The FP32 or I32 reduction of one entry over KB blocks; `a k` and `b k` give element k of A's row and B's column. -/
def reduceEntry (flt : Bool) (kb : Nat) (a b : Nat → DV) (start : Nat) : Nat × Flags :=
  let blocks := (List.range kb).map fun blk =>
    ((List.range 64).map (fun i => a (64 * blk + i)), (List.range 64).map (fun i => b (64 * blk + i)))
  if flt then
    let x := reduceF (num32 start) blocks
    (x.word32, { nanOut := x.isNaN })
  else
    let (z, s) := reduceI32 (sext 32 start) blocks
    (wrap 32 z, { accSat := s })

/-- The reduction of one entry of a BFP4 pair: exponents by half block. -/
def reduceBfp (kb : Nat) (a b : Nat → DV) (ea eb : Nat → Nat) (start : Nat) : Nat × Flags :=
  let half (h : Nat) : Num :=
    bfpHalf ((List.range 32).map fun i => a (32 * h + i)) ((List.range 32).map fun i => b (32 * h + i)) (ea h) (eb h)
  let x := (List.range kb).foldl (fun s blk => Num.add s (Num.add (half (2 * blk)) (half (2 * blk + 1)))) (num32 start)
  (x.word32, { nanOut := x.isNaN })

/-- Accumulator type a format pair gives its bank (R116, R131). -/
def pairTy (flt : Bool) : AccTy := if flt then .fp32 else .i32

/-- The result of a matrix command into a bank: `val r n start` gives the entry's new bits and conditions. -/
def accumulate (b : AccBank) (zero flt : Bool) (m n : Nat) (val : Nat → Nat → Nat → Nat × Flags) : AccBank × Flags :=
  (List.range m).foldl (fun (s : AccBank × Flags) r =>
    (List.range n).foldl (fun (s : AccBank × Flags) c =>
      let start := if zero then 0 else b.entry r c
      let (v, f) := val r c start
      ({ s.1 with acc := SMap.set (fun _ => 0) s.1.acc (64 * r + c) v }, s.2.or f)) s)
    ({ b with ty := pairTy flt }, {})

/-- Why an MMA is invalid (R118, R131). -/
def mmaInvalid (w : Nat) (ty : AccTy) : Option Nat :=
  match pairOf (hb w 1 3 0) with
  | none => some 3
  | some (fa, fb, flt) =>
    let kb := hw w 5
    let m := hb w 1 10 6 + 1
    let n := hb w 4 5 0 + 1
    if hb w 1 5 5 = 0 && ty != .untyped && ty != pairTy flt then some 3
    else if !inSpad (hb w 2 14 0 * 64 + (m - 1) * pitchOf fa kb * 64) (kb * blockBytes fa)
        || !inSpad (hb w 3 14 0 * 64 + (n - 1) * pitchOf fb kb * 64) (kb * blockBytes fb) then some 2
    else if kb = 0 then some 4
    else none

/-- MMA (R131 to R133). -/
def mmaRun (w : Nat) (sp : Mem) (b : AccBank) : UnitOut :=
  match pairOf (hb w 1 3 0) with
  | none => {}
  | some (fa, fb, flt) =>
    let kb := hw w 5
    let rowA (r : Nat) := (hb w 2 14 0 + r * pitchOf fa kb) * 64
    let colB (n : Nat) := (hb w 3 14 0 + n * pitchOf fb kb) * 64
    let val (r n start : Nat) : Nat × Flags :=
      let a := readElem sp fa (rowA r)
      let c := readElem sp fb (colB n)
      if fa = 11 then
        reduceBfp kb a c (fun h => (sp.byte (rowA r + 17 * h)).toNat) (fun h => (sp.byte (colB n + 17 * h)).toNat) start
      else reduceEntry flt kb a c start
    let (nb, f) := accumulate b (hb w 1 5 5 == 1) flt (hb w 1 10 6 + 1) (hb w 4 5 0 + 1) val
    { bank := some nb, flags := f }

/-- Multiply-accumulates that an MMA makes (R402 event 0x0B). -/
def mmaMacs (w : Nat) : Nat := (hb w 1 10 6 + 1) * (hb w 4 5 0 + 1) * 64 * hw w 5

/-! ### Drain (R135) -/

/-- Bytes per element for address rules; I4 and BFP4 count as 1. -/
def elemSize (f : Nat) : Nat := max 1 (fmtBits f / 8)

def drainInvalid (w : Nat) : Option Nat :=
  let f := hb w 1 3 0
  let m := hb w 1 11 7 + 1
  let n := hb w 4 5 0 + 1
  let (outer, inner) := if hb w 1 5 5 = 0 then (m, n) else (n, m)
  let off := hb w 6 5 0
  if !fmtOk f || f = 5 then some 3
  else if !inSpad ((hb w 2 14 0 + (outer - 1) * hw w 5) * 64 + off) (fmtBytes f inner)
      || (hb w 1 6 6 = 1 && !inSpad (hb w 3 14 0 * 64) 256) then some 2
  else if hw w 5 = 0 || !countOk f inner || (f == 11 && off != 0) || off % elemSize f != 0 then some 4
  else none

/-- DRAIN (R135). -/
def drainRun (w : Nat) (sp : Mem) (b : AccBank) : UnitOut :=
  let f := hb w 1 3 0
  let m := hb w 1 11 7 + 1
  let n := hb w 4 5 0 + 1
  let sb := hb w 3 14 0 * 64
  let entry (r c : Nat) : DV :=
    let raw := b.entry r c
    let v : DV := match b.ty with
      | .fp32 => .f (num32 raw)
      | .i32 => .i (sext 32 raw)
      | .untyped => .i 0
    if hb w 1 6 6 = 1 then .f (Num.fma v.toNum (readF32 sp (sb + 4 * r)) (readF32 sp (sb + 128 + 4 * r))) else v
  let base (i : Nat) := (hb w 2 14 0 + i * hw w 5) * 64 + hb w 6 5 0
  let runs := if hb w 1 5 5 = 0
    then (List.range m).map fun r => (base r, (List.range n).map (entry r))
    else (List.range n).map fun c => (base c, (List.range m).map fun r => entry r c)
  let out := runs.map fun (a, vs) => (a, encodeRun f vs)
  { writes := out.map (fun x => (x.1, x.2.1)), flags := out.foldl (fun acc x => acc.or x.2.2) {} }

/-! ### Vector unit (R136 to R138) -/

/-- Functions of one operand. -/
def unaryFn (fn : Nat) : Bool := fn == 0 || fn == 7 || fn == 8 || fn == 9

def vopInvalid (w : Nat) : Option Nat :=
  let sf := hb w 1 3 0
  let df := hb w 1 7 4
  let fn := hb w 1 13 8
  let n := hw w 5 + 1
  if !fmtOk sf || !fmtOk df || df = 5 || (12 ≤ fn && fn ≤ 16 && fmtIsFloat sf) then some 3
  else if !inSpad (hb w 2 14 0 * 64) (fmtBytes sf n)
      || (hb w 1 14 14 = 0 && !unaryFn fn && !inSpad (hb w 3 14 0 * 64) (fmtBytes sf n))
      || !inSpad (hb w 4 14 0 * 64) (fmtBytes df n) then some 2
  else if 17 ≤ fn || !countOk sf n || !countOk df n then some 4
  else none

/-- Operand d of FMA in the I32 domain (R136): a floating d is rounded and clamped. -/
def dvToI32 : DV → Int × Flags
  | .i z => (z, {})
  | .f .nan => (0, { nanConv := true })
  | .f (.inf neg) => (if neg then -2147483648 else 2147483647, { sat := true })
  | .f (.fin neg m e) =>
    let z := rneInt neg m e
    (satS 32 z, { sat := satS 32 z != z })

/-- Elementwise functions in the I32 domain (R136). -/
def vopI (fn : Nat) (a b : Int) (d : DV) : Int × Flags :=
  match fn with
  | 0 => (a, {})
  | 1 => satI32 (a + b)
  | 2 => satI32 (a - b)
  | 3 => satI32 (a * b)
  | 4 => let (z, f) := dvToI32 d; let (y, g) := satI32 (a * b + z); (y, f.or g)
  | 5 => (max a b, {})
  | 6 => (min a b, {})
  | 7 => satI32 a.natAbs
  | 8 => satI32 (-a)
  | 9 => (max a 0, {})
  | 10 => (if b < a then 1 else 0, {})
  | 11 => (if a = b then 1 else 0, {})
  | 12 => (if b ≤ 0 then a else if 31 < b then 0 else rneShrI a b.toNat, {})
  | 13 => if b ≤ 0 then (a, {})
      else if 31 < b then (if a = 0 then (0, {}) else (if a < 0 then -2147483648 else 2147483647, { intSat := true }))
      else satI32 (a * 2 ^ b.toNat)
  | 14 => (sext 32 (wrap 32 a &&& wrap 32 b), {})
  | 15 => (sext 32 (wrap 32 a ||| wrap 32 b), {})
  | 16 => (sext 32 (wrap 32 a ^^^ wrap 32 b), {})
  | _ => (0, {})

/-- Elementwise functions in the FP32 domain (R136). -/
def vopF (fn : Nat) (a b : Num) (d : DV) : Num :=
  match fn with
  | 0 => a
  | 1 => Num.add a b
  | 2 => Num.sub a b
  | 3 => Num.mul a b
  | 4 => Num.fma a b d.num
  | 5 => Num.max a b
  | 6 => Num.min a b
  | 7 => a.abs
  | 8 => a.neg
  | 9 => Num.max a Num.zero
  | 10 => if !a.isNaN && !b.isNaN && b.lt a then Num.one else Num.zero
  | 11 => if a.eqv b then Num.one else Num.zero
  | _ => .nan

/-- VOP (R136). -/
def vopRun (w : Nat) (sp : Mem) : UnitOut :=
  let sf := hb w 1 3 0
  let df := hb w 1 7 4
  let fn := hb w 1 13 8
  let n := hw w 5 + 1
  let imm := hw w 6 + hw w 7 * 65536
  let one (i : Nat) : DV × Flags :=
    let a := readElem sp sf (hb w 2 14 0 * 64) i
    let b := if hb w 1 14 14 = 1 then (if fmtIsFloat sf then DV.f (num32 imm) else DV.i (sext 32 imm))
             else if unaryFn fn then DV.i 0 else readElem sp sf (hb w 3 14 0 * 64) i
    let d := if fn = 4 then readElem sp df (hb w 4 14 0 * 64) i else DV.i 0
    if fmtIsFloat sf then
      let r := vopF fn a.num b.num d
      (.f r, { nanOut := r.isNaN })
    else let (z, f) := vopI fn a.int b.int d; (.i z, f)
  let rs := (List.range n).map one
  let (bs, f) := encodeRun df (rs.map (·.1))
  { writes := [(hb w 4 14 0 * 64, bs)], flags := rs.foldl (fun acc r => acc.or r.2) f }

def vlutInvalid (w : Nat) : Option Nat :=
  let sf := hb w 1 3 0
  let df := hb w 1 7 4
  let n := hw w 5 + 1
  if !fmtOk sf || !fmtOk df || df = 5 then some 3
  else if !inSpad (hb w 2 14 0 * 64) (fmtBytes sf n) || !inSpad (hb w 3 14 0 * 64) 2056
      || !inSpad (hb w 4 14 0 * 64) (fmtBytes df n) then some 2
  else if !countOk sf n || !countOk df n then some 4
  else none

/-- One element of VLUT (R137). -/
def vlutElem (sp : Mem) (tbl : Nat) (x : Num) : Num :=
  match Num.fma x (readF32 sp (tbl + 2048)) (readF32 sp (tbl + 2052)) with
  | .nan => .nan
  | u =>
    let u := Num.min (Num.max u Num.zero) (Num.ofInt 256)
    match u with
    | .fin _ m e =>
      let i := min (floorNat m e) 255
      let f := Num.sub u (Num.ofInt i)
      Num.fma f (readF32 sp (tbl + 1024 + 4 * i)) (readF32 sp (tbl + 4 * i))
    | y => y

/-- VLUT (R137). -/
def vlutRun (w : Nat) (sp : Mem) : UnitOut :=
  let n := hw w 5 + 1
  let rs := (List.range n).map fun i =>
    vlutElem sp (hb w 3 14 0 * 64) (readElem sp (hb w 1 3 0) (hb w 2 14 0 * 64) i).toNum
  let (bs, f) := encodeRun (hb w 1 7 4) (rs.map DV.f)
  { writes := [(hb w 4 14 0 * 64, bs)], flags := { f with nanOut := rs.any Num.isNaN } }

/-- a before b in ascending order (R138): NaN below everything, zeros equal. -/
def keyLt (a b : DV) : Bool :=
  match a, b with
  | .i x, .i y => decide (x < y)
  | .f x, .f y => if x.isNaN then !y.isNaN else if y.isNaN then false else x.lt y
  | _, _ => false

/-- Inserts an element behind every element that does not come after it: a stable order (R138). -/
def insertKey (desc : Bool) (x : DV × Nat) : List (DV × Nat) → List (DV × Nat)
  | [] => [x]
  | y :: t => if (if desc then keyLt y.1 x.1 else keyLt x.1 y.1) then x :: y :: t else y :: insertKey desc x t

def sortKeys (desc : Bool) (l : List (DV × Nat)) : List (DV × Nat) :=
  l.foldl (fun acc x => insertKey desc x acc) []

def vsortInvalid (w : Nat) : Option Nat :=
  let f := hb w 1 3 0
  let n := hw w 5 + 1
  let out := if hb w 1 5 5 = 0 then n else hb w 1 11 6 + 1
  if !fmtOk f || f = 3 || f = 5 || f = 11 then some 3
  else if !inSpad (hb w 2 14 0 * 64) (fmtBytes f n) || !inSpad (hb w 3 14 0 * 64) (fmtBytes f out)
      || !inSpad (hb w 4 14 0 * 64) (2 * out) then some 2
  else none

/-- Is a value a NaN? -/
def keyNaN : DV → Bool
  | .f x => x.isNaN
  | .i _ => false

/-- VSORT (R138); a NaN among the keys it writes sets NAN_OUT (R130). -/
def vsortRun (w : Nat) (sp : Mem) : UnitOut :=
  let f := hb w 1 3 0
  let n := hw w 5 + 1
  let desc := hb w 1 4 4 == 1
  let keys := (List.range n).map fun i => (readElem sp f (hb w 2 14 0 * 64) i, i)
  let sorted := if hb w 1 5 5 = 0 then (chunksOf 64 n keys).flatMap (sortKeys desc)
    else
      let k := hb w 1 11 6 + 1
      let top := (sortKeys desc keys).take k
      top ++ List.replicate (k - top.length) (if fmtIsFloat f then DV.f .nan else DV.i 0, 65535)
  { writes := [(hb w 3 14 0 * 64, sorted.flatMap fun x => toLE (fmtBits f / 8) (convert f x.1).1),
               (hb w 4 14 0 * 64, sorted.flatMap fun x => toLE 2 x.2)],
    flags := { nanOut := sorted.any fun x => keyNaN x.1 } }

/-! ### WINDOW (R147 to R154) -/

/-- A window descriptor's halfword bits. -/
structure WinDesc where
  /-- Its 64 bytes as a number. -/
  v : Nat
deriving DecidableEq, Repr

def WinDesc.b (d : WinDesc) (i hi lo : Nat) : Nat := hb d.v i hi lo
def WinDesc.mode (d : WinDesc) := d.b 0 6 4
def WinDesc.fp (d : WinDesc) := d.b 0 11 8
def WinDesc.df (d : WinDesc) := d.b 0 15 12
def WinDesc.kw (d : WinDesc) := d.b 1 7 4 + 1
def WinDesc.kh (d : WinDesc) := d.b 1 11 8 + 1
def WinDesc.sx (d : WinDesc) := d.b 1 14 12 + 1
def WinDesc.sy (d : WinDesc) := d.b 2 2 0 + 1
def WinDesc.dx (d : WinDesc) := d.b 2 8 3 + 1
def WinDesc.dy (d : WinDesc) := d.b 2 14 9 + 1
def WinDesc.pl (d : WinDesc) := d.b 3 5 0
def WinDesc.pr (d : WinDesc) := d.b 3 11 6
def WinDesc.pt (d : WinDesc) := d.b 4 5 0
def WinDesc.pb (d : WinDesc) := d.b 4 11 6
def WinDesc.imgW (d : WinDesc) := d.b 5 14 0 + 1
def WinDesc.imgH (d : WinDesc) := d.b 6 15 0 + 1
def WinDesc.inX0 (d : WinDesc) := d.b 7 14 0
def WinDesc.inY0 (d : WinDesc) := d.b 8 15 0
def WinDesc.inCols (d : WinDesc) := d.b 9 14 0 + 1
def WinDesc.inRows (d : WinDesc) := d.b 10 9 0 + 1
def WinDesc.inp (d : WinDesc) := d.b 11 14 0 * 64
def WinDesc.rowPitch (d : WinDesc) := d.b 12 15 0 * 64
def WinDesc.planePitch (d : WinDesc) := d.b 13 15 0 * 64
def WinDesc.c0 (d : WinDesc) := d.b 14 11 0
/-- Input channels per group (CONV) or channels (other modes). -/
def WinDesc.nc (d : WinDesc) := if d.mode = 0 then d.b 15 11 0 + 1 else d.b 15 5 0 + 1
def WinDesc.outY (d : WinDesc) := d.b 16 15 0
def WinDesc.outX0 (d : WinDesc) := d.b 17 14 0
def WinDesc.n (d : WinDesc) := d.b 18 11 0 + 1
def WinDesc.m (d : WinDesc) := d.b 19 4 0 + 1
def WinDesc.wt (d : WinDesc) := d.b 20 14 0 * 64
def WinDesc.wpitch (d : WinDesc) := d.b 21 15 0 * 64
def WinDesc.dst (d : WinDesc) := d.b 22 14 0 * 64
def WinDesc.dstPP (d : WinDesc) := d.b 23 15 0 * 64
def WinDesc.sb (d : WinDesc) := d.b 24 14 0 * 64
def WinDesc.padTbl (d : WinDesc) := d.b 25 14 0 * 64
/-- Format of the input buffer (R148). -/
def WinDesc.sf (d : WinDesc) : Nat := if d.mode = 0 then (match pairOf d.fp with | some (_, b, _) => b | none => 0) else d.fp
def WinDesc.up (d : WinDesc) : Bool := d.mode == 5 || d.mode == 6
/-- Output size (R149, R154). -/
def WinDesc.outH (d : WinDesc) : Int :=
  if d.up then (d.imgH * 2 ^ (d.sy - 1) : Nat)
  else ((d.imgH + d.pt + d.pb : Nat) - (d.dy * (d.kh - 1) : Nat) - 1 : Int) / (d.sy : Int) + 1
def WinDesc.outW (d : WinDesc) : Int :=
  if d.up then (d.imgW * 2 ^ (d.sx - 1) : Nat)
  else ((d.imgW + d.pl + d.pr : Nat) - (d.dx * (d.kw - 1) : Nat) - 1 : Int) / (d.sx : Int) + 1
/-- Input row and column of a tap (R149). -/
def WinDesc.iy (d : WinDesc) (y ty : Nat) : Int := (y * d.sy + ty * d.dy : Nat) - (d.pt : Int)
def WinDesc.ix (d : WinDesc) (x tx : Nat) : Int := (x * d.sx + tx * d.dx : Nat) - (d.pl : Int)
def WinDesc.inImg (d : WinDesc) (iy ix : Int) : Bool := 0 ≤ iy && iy < d.imgH && 0 ≤ ix && ix < d.imgW
/-- Address of an element of the buffer (R146). -/
def WinDesc.addr (d : WinDesc) (c : Nat) (iy ix : Int) : Nat :=
  d.inp + c * d.planePitch + (iy - d.inY0).toNat * d.rowPitch + (ix - d.inX0).toNat * elemSize d.sf
def WinDesc.inBuf (d : WinDesc) (iy ix : Int) : Bool :=
  (d.inY0 : Int) ≤ iy && iy < d.inY0 + d.inRows && (d.inX0 : Int) ≤ ix && ix < d.inX0 + d.inCols

/-- The value of a tap: an element of the image, or the padding value (R149, R150). -/
def WinDesc.tap (d : WinDesc) (sp : Mem) (c : Nat) (iy ix : Int) : DV :=
  if d.inImg iy ix then readElem sp d.sf (d.addr c iy ix) 0
  else if d.b 0 7 7 = 1 then readElem sp d.sf (d.padTbl + c * elemSize d.sf) 0
  else if fmtIsFloat d.sf then .f Num.zero else .i 0

/-- Samples that UP_BILINEAR takes on one axis: index and f (R154). -/
def bilin (z fac len : Nat) : Nat × Nat :=
  let num : Int := 2 * z + 1 - fac
  let i := num / (2 * fac : Int)
  let f := num - i * (2 * fac : Int)
  if i < 0 then (0, 0) else if (len : Int) - 1 ≤ i then (len - 1, 0) else (i.toNat, f.toNat)

/-- Every input position a descriptor reads inside the image. -/
def WinDesc.reads (d : WinDesc) : List (Int × Int) :=
  let xs := (List.range d.n).map (· + d.outX0)
  match d.mode with
  | 5 => xs.map fun x => (((d.outY / 2 ^ (d.sy - 1) : Nat) : Int), ((x / 2 ^ (d.sx - 1) : Nat) : Int))
  | 6 =>
    let (iy, fy) := bilin d.outY (2 ^ (d.sy - 1)) d.imgH
    xs.flatMap fun x =>
      let (ix, fx) := bilin x (2 ^ (d.sx - 1)) d.imgW
      (([(iy, ix)] ++ (if fx = 0 then [] else [(iy, ix + 1)])
        ++ (if fy = 0 then [] else [(iy + 1, ix)])
        ++ (if fx = 0 || fy = 0 then [] else [(iy + 1, ix + 1)])).map fun (p : Nat × Nat) => ((p.1 : Int), (p.2 : Int)))
  | _ =>
    (List.range d.kh).flatMap fun ty => (List.range d.kw).flatMap fun tx =>
      (xs.map fun x => (d.iy d.outY ty, d.ix x tx)).filter fun p => d.inImg p.1 p.2

/-- Why a window descriptor is invalid (R149 and the rules of its mode): cause 3 for a format fault, 4 otherwise. -/
def winInvalid (d : WinDesc) (ty : AccTy) : Option Nat :=
  let conv := d.mode == 0
  let okPair := match pairOf d.fp with
    | some _ => d.fp == 0 || d.fp == 1 || (4 ≤ d.fp && d.fp ≤ 9)
    | none => false
  let k := d.nc * d.kh * d.kw
  let kb := (k + 63) / 64
  let fmtBad :=
    if conv then !okPair || (d.b 1 1 1 = 0 && ty != .untyped && ty != (if 4 ≤ d.fp then AccTy.fp32 else AccTy.i32))
    else !(d.fp ∈ [1, 2, 4, 6, 7, 8, 9, 10]) || !fmtOk d.df || d.df == 5
  if d.b 0 3 0 == 1 && d.mode != 7 && fmtBad then some 3
  else
    let aFmt := match pairOf d.fp with | some (a, _, _) => a | none => 0
    let e := elemSize d.sf
    let bad :=
      d.b 0 3 0 != 1 || d.mode == 7 || d.kw == 16 || d.kh == 16 || d.rowPitch == 0 || d.planePitch == 0
      || (conv && (64 < d.n || 65535 < kb))
      || d.outH < 1 || d.outW < 1 || d.outH ≤ d.outY || d.outW < d.outX0 + d.n
      || (d.up && (4 < d.sx || 4 < d.sy || d.kw != 1 || d.kh != 1 || d.dx != 1 || d.dy != 1
          || d.pl != 0 || d.pr != 0 || d.pt != 0 || d.pb != 0))
      || (!conv && !countOk d.df d.n)
      || d.reads.any (fun p => !d.inBuf p.1 p.2)
      || !inSpad (d.inp + (d.c0 + d.nc - 1) * d.planePitch + (d.inRows - 1) * d.rowPitch) (d.inCols * e)
      || (d.b 0 7 7 == 1 && !d.up && !inSpad d.padTbl ((d.c0 + d.nc) * e))
      || (conv && (d.wpitch < (kb * blockBytes aFmt + 63) / 64 * 64
          || !inSpad (d.wt + (d.m - 1) * d.wpitch) (kb * blockBytes aFmt)))
      || (d.mode == 1 && (!inSpad (d.wt + (d.nc - 1) * d.wpitch) (d.kh * d.kw * (if fmtIsFloat d.fp then 4 else 1))
          || (d.b 1 2 2 == 1 && !inSpad d.sb 512)))
      || (!conv && !inSpad (d.dst + (d.nc - 1) * d.dstPP) (fmtBytes d.df d.n))
    if bad then some 4 else none

/-- CONV (R151). -/
def convRun (d : WinDesc) (sp : Mem) (b : AccBank) : UnitOut :=
  match pairOf d.fp with
  | none => {}
  | some (fa, _, flt) =>
    let k := d.nc * d.kh * d.kw
    let kb := (k + 63) / 64
    let z : DV := if flt then .f Num.zero else .i 0
    let aElem (o i : Nat) : DV := if i < k then readElem sp fa (d.wt + o * d.wpitch) i else z
    let bElem (n i : Nat) : DV :=
      if i < k then
        let c := i / (d.kh * d.kw)
        let t := i % (d.kh * d.kw)
        d.tap sp (d.c0 + c) (d.iy d.outY (t / d.kw)) (d.ix (d.outX0 + n) (t % d.kw))
      else z
    let (nb, f) := accumulate b (d.b 1 1 1 == 1) flt d.m d.n (fun r n start => reduceEntry flt kb (aElem r) (bElem n) start)
    { bank := some nb, flags := f }

/-- Taps of an output pixel in the order ty, then tx: whether inside the image, and value. -/
def WinDesc.taps (d : WinDesc) (sp : Mem) (c x : Nat) : List (Bool × DV) :=
  (List.range d.kh).flatMap fun ty => (List.range d.kw).map fun tx =>
    (d.inImg (d.iy d.outY ty) (d.ix x tx), d.tap sp c (d.iy d.outY ty) (d.ix x tx))

/-- Depthwise convolution of one pixel (R152). -/
def dwPixel (d : WinDesc) (sp : Mem) (ch x : Nat) : DV × Flags :=
  let ts := (d.taps sp (d.c0 + ch) x).map (·.2)
  let wb := d.wt + ch * d.wpitch
  let sc := readF32 sp (d.sb + 4 * ch)
  let bi := readF32 sp (d.sb + 256 + 4 * ch)
  if fmtIsFloat d.fp then
    let acc := (ts.zip (List.range ts.length)).foldl (fun s ti => Num.fma (readF32 sp (wb + 4 * ti.2)) ti.1.num s) Num.zero
    let r := if d.b 1 2 2 = 1 then Num.fma acc sc bi else acc
    (.f r, { nanOut := r.isNaN })
  else
    let acc := (ts.zip (List.range ts.length)).foldl (fun (s : Int × Flags) ti =>
      let (y, g) := satI32 (s.1 + sext 8 (sp.byte (wb + ti.2)).toNat * ti.1.int)
      (y, s.2.or g)) (0, {})
    if d.b 1 2 2 = 1 then
      let r := Num.fma (DV.i acc.1).toNum sc bi
      (.f r, { acc.2 with nanOut := r.isNaN })
    else (.i acc.1, acc.2)

/-- Pooling of one pixel (R153). -/
def poolPixel (d : WinDesc) (sp : Mem) (ch x : Nat) : DV × Flags :=
  let all := d.taps sp (d.c0 + ch) x
  let flt := fmtIsFloat d.fp
  match d.mode with
  | 3 =>
    let ts := (if d.b 1 3 3 = 1 then all.filter (·.1) else all).map (·.2)
    let n := if d.b 1 3 3 = 1 then ts.length else d.kh * d.kw
    (match ts with
    | [] => (if flt then .f Num.zero else .i 0, {})
    | t :: rest =>
      if flt then
        let r := Num.divNat (rest.foldl (fun s y => Num.add s y.num) t.num) n
        (.f r, { nanOut := r.isNaN })
      else (.i (rneDiv (rest.foldl (fun s y => s + y.int) t.int) n), {}))
  | md =>
    (match all.map (·.2) with
    | [] => (.i 0, {})
    | t :: rest =>
      if flt then
        let r := rest.foldl (fun s y => if md = 2 then Num.max s y.num else Num.min s y.num) t.num
        (.f r, { nanOut := r.isNaN })
      else (.i (rest.foldl (fun s y => if md = 2 then max s y.int else min s y.int) t.int), {}))

/-- Upsampling of one pixel (R154). -/
def upPixel (d : WinDesc) (sp : Mem) (ch x : Nat) : DV × Flags :=
  let at_ (iy ix : Nat) : DV := readElem sp d.sf (d.addr (d.c0 + ch) iy ix) 0
  let fx := 2 ^ (d.sx - 1)
  let fy := 2 ^ (d.sy - 1)
  if d.mode = 5 then
    let v := at_ (d.outY / fy) (x / fx)
    (v, { nanOut := match v with | .f r => r.isNaN | .i _ => false })
  else
    let (iy, gy) := bilin d.outY fy d.imgH
    let (ix, gx) := bilin x fx d.imgW
    let zero : DV := if fmtIsFloat d.fp then .f Num.zero else .i 0
    let a00 := at_ iy ix
    let a01 := if gx = 0 then zero else at_ iy (ix + 1)
    let a10 := if gy = 0 then zero else at_ (iy + 1) ix
    let a11 := if gx = 0 || gy = 0 then zero else at_ (iy + 1) (ix + 1)
    if fmtIsFloat d.fp then
      let wt (f fac k : Nat) : Num := Num.divNat (Num.ofInt (if k = 0 then (2 * fac - f : Nat) else f)) (2 * fac)
      let h0 := if gx = 0 then Num.mul (wt gx fx 0) a00.num else Num.fma (wt gx fx 1) a01.num (Num.mul (wt gx fx 0) a00.num)
      let h1 := if gx = 0 then Num.mul (wt gx fx 0) a10.num else Num.fma (wt gx fx 1) a11.num (Num.mul (wt gx fx 0) a10.num)
      let r := if gy = 0 then Num.mul (wt gy fy 0) h0 else Num.fma (wt gy fy 1) h1 (Num.mul (wt gy fy 0) h0)
      (.f r, { nanOut := r.isNaN })
    else
      let s : Int := ((2 * fy - gy : Nat) : Int) * (((2 * fx - gx : Nat) : Int) * a00.int + (gx : Int) * a01.int)
        + (gy : Int) * (((2 * fx - gx : Nat) : Int) * a10.int + (gx : Int) * a11.int)
      (.i (rneShrI s (2 + (d.sx - 1) + (d.sy - 1))), {})

/-- The vector modes of WINDOW (R152 to R154). -/
def winVecRun (d : WinDesc) (sp : Mem) : UnitOut :=
  let pix (ch x : Nat) : DV × Flags :=
    if d.mode = 1 then dwPixel d sp ch x else if d.up then upPixel d sp ch x else poolPixel d sp ch x
  let out : List ((Nat × List Byte) × Flags) := (List.range d.nc).map fun ch =>
    let rs := (List.range d.n).map fun i => pix ch (d.outX0 + i)
    let (bs, f) := encodeRun d.df (rs.map (·.1))
    ((d.dst + ch * d.dstPP, bs), rs.foldl (fun acc r => acc.or r.2) f)
  { writes := out.map (·.1), flags := out.foldl (fun acc x => acc.or x.2) {} }

/-- Multiply-accumulates of a CONV (R402 event 0x0B). -/
def convMacs (d : WinDesc) : Nat := d.m * d.n * ((d.nc * d.kh * d.kw + 63) / 64) * 64

/-! ### Costs (R119, R131, R155) -/

/-- ⌈KB × c⌉ for a format pair (R131). -/
def blockSteps (fp kb : Nat) : Nat := if fp = 3 || fp = 10 then (kb + 1) / 2 else if fp = 8 || fp = 9 then 2 * kb else kb

/-- CORE cycles for which a WINDOW occupies the M and V units (R155). -/
def winCost (d : WinDesc) : Nat :=
  let g := (d.sx + 1) / 2
  let g64 := d.nc * ((d.n + 63) / 64)
  match d.mode with
  | 0 => blockSteps d.fp ((d.nc * d.kh * d.kw + 63) / 64) * max d.n 16 * g
  | 1 => g64 * d.kh * d.kw * g + (if d.b 1 2 2 = 1 then g64 else 0)
  | 2 | 4 => g64 * d.kh * d.kw * g
  | 3 => g64 * (d.kh * d.kw * g + 1)
  | 5 => g64
  | _ => 4 * g64

/-- CORE cycles for which a command occupies the M, the D and the V unit (R119). -/
def cmdCost (w : Nat) (d : WinDesc) : Nat × Nat × Nat :=
  let count := (hw w 5 + 1 + 63) / 64
  match hb w 0 7 0 with
  | 3 => (blockSteps (hb w 1 3 0) (hw w 5) * max (hb w 4 5 0 + 1) 16, 0, 0)
  | 4 => (0, max 4 (((hb w 1 11 7 + 1) * (hb w 4 5 0 + 1) + 63) / 64), 0)
  | 5 | 6 => (0, 0, count)
  | 7 => (0, 0, if hb w 1 5 5 = 0 then 21 * count else 8 * count + 21)
  | 8 => (winCost d, 0, winCost d)
  | _ => (0, 0, 0)

end Sys2Proof.Machine
end

