-- ==== Sys2Proof/Machine/Cores.lean ====
section
/-! DEFINITION. The core sequencer (04, 05): fetching and issuing the commands of a list, waits and calls, transfers. A command
row acts on the next command of logical core `c` when that command has the row's opcode; otherwise nothing issues. -/

namespace Sys2Proof.Machine
open Sys2Proof

/-! ### Paths of transfers (R190, R196) -/

/-- Compute die of a cluster, of an HBM group (R18, R172). -/
def dieOfCluster (k : Nat) : Nat := k / 4
def dieOfGroup (g : Nat) : Nat := g / 8

/-- Tables that a transfer of logical core `c` crosses, in the order its granules pass them (R190, R196). -/
def pathOf (c : Nat) (t : Xfer) : List Nat :=
  let d := dieOfCluster (c / 8)
  let link (from_ into : Nat) : List Nat := if from_ = into then [] else if from_ = 0 then [16] else [17]
  match t.space with
  | 2 => let g := t.far / 2 ^ 32
    if t.load then g :: link (dieOfGroup g) d else link d (dieOfGroup g) ++ [g]
  | 3 => if t.load then link (dieOfCluster t.peer) d else link d (dieOfCluster t.peer)
  | 4 => let io := t.far / 2 ^ 45 / 4
    if t.load then [18 + 4 * io + 2 * d] else [19 + 4 * io + 2 * d]
  | _ => []

/-- Granules a transfer moves through its tables: the stored form, padded to whole tiles for HBM (R174). -/
def Xfer.granules (t : Xfer) : Nat :=
  let stored := storedBytes t.rif t.len
  if t.space = 2 then (stored + 2047) / 2048 * 32 else (stored + 63) / 64

def Xfer.movedIn (t : Xfer) (n : Nat) : Nat := SMap.get (fun _ => 0) t.moved n
def Xfer.dropsAt (t : Xfer) (n : Nat) : Nat := SMap.get (fun _ => 0) t.drops n

/-- Granules of a transfer that reach table `n` in all, and how many of them are there yet: those that passed the table before it on
the path, without those its crossing buffer dropped (R190). -/
def Xfer.comeTo (t : Xfer) (n : Nat) : Nat → Nat → List Nat → Nat × Nat
  | _, _, [] => (0, 0)
  | all, now, m :: rest =>
    let all := all - t.dropsAt m
    let now := now - t.dropsAt m
    if m = n then (all, now) else t.comeTo n all (t.movedIn m) rest

/-- Granules of a transfer ready to pass table `n`, and those still to pass it. -/
def Xfer.readyIn (t : Xfer) (c n : Nat) : Nat := (t.comeTo n t.granules t.granules (pathOf c t)).2 - t.movedIn n
def Xfer.leftIn (t : Xfer) (c n : Nat) : Nat := (t.comeTo n t.granules t.granules (pathOf c t)).1 - t.movedIn n

/-- Have all granules of a timed transfer moved through the tables of its path (R190)? Others move as open slots are granted. -/
def Xfer.moved_ (t : Xfer) (c : Nat) : Bool := !t.timed || (pathOf c t).all fun n => t.leftIn c n == 0

/-! ### List memories and fetching (R122, R523) -/

/-- Bytes of a list memory, coded as for CALL (R122), for the core at `site` of cluster `k`, and the first failed tile of a
use of them; none where the space does not exist. -/
def HostSide.listMem (h : HostSide) (site k space addr n : Nat) : Option (List Byte × Option (Nat × Nat × Nat)) :=
  match space with
  | 0 => let st := (h.core site).spad
    some (st.read addr n, (st.useFails addr n).map fun t => (0, site, t * 2048))
  | 1 => let st := h.ls k
    some (st.read addr n, (st.useFails addr n).map fun t => (1, k, t * 2048))
  | 2 => let st := h.hbmOf (addr / 2 ^ 32)
    some (st.read (addr % 2 ^ 32) n, (st.useFails (addr % 2 ^ 32) n).map fun t => (2, addr / 2 ^ 32, t * 2048))
  | _ => none

/-- A whole tile of a list memory. -/
def HostSide.fetchTile (h : HostSide) (site k space addr : Nat) : TileCopy :=
  let base := addr / 2048 * 2048
  match h.listMem site k space base 2048 with
  | some (bs, fail) => { space, addr := base, data := (bs.zip (List.range 2048)).foldl (fun m x =>
      if x.1 == 0 then m else m.setByte (base + x.2) x.1) [], bad := fail.isSome }
  | none => { space, addr := base, bad := true }

/-- Address of the next command of a frame. -/
def Frame.pc (f : Frame) : Nat := f.hdr + 16 + 16 * f.pos

/-- Does a tile copy hold the 16 bytes at `addr` of `space`? -/
def TileCopy.holds (t : TileCopy) (space addr : Nat) : Bool := t.space == space && t.addr == addr / 2048 * 2048

/-- The tile the next command issues from, when it has been fetched. -/
def CoreSt.pcTile (x : CoreSt) : Option TileCopy :=
  match x.frames with
  | [] => none
  | f :: _ =>
    let ok (t : Option TileCopy) : Option TileCopy := match t with
      | some t => if t.holds f.space f.pc then some t else none
      | none => none
    match ok x.cur with
    | some t => some t
    | none => ok x.ahead

/-- The list tile that the fetcher is to bring next: that of the next command, or the one after it when the list continues into it
(R523). -/
def CoreSt.wants (x : CoreSt) : Option (Nat × Nat) :=
  match x.frames with
  | [] => none
  | f :: _ =>
    let need := f.pc / 2048 * 2048
    if x.pcTile.isNone then (if f.pos < f.count then some (f.space, need) else none)
    else if x.ahead.isSome || f.hdr + 16 + 16 * f.count ≤ need + 2048 then none
    else some (f.space, need + 2048)

/-- The fetch of a timed list from HBM as a transfer of 32 granules through the tables of its path (R189, R190). -/
def CoreSt.fetchNow (x : CoreSt) : Option Xfer :=
  match x.frames, x.wants with
  | f :: _, some (2, a) =>
    if f.timed then some { (if x.fetch.far = a then x.fetch else {}) with space := 2, far := a, len := 32, timed := true } else none
  | _, _ => none

/-- The next command of the innermost list, when its tile has been fetched (R113, R523). -/
def CoreSt.nextCmd (x : CoreSt) : Option Nat :=
  match x.frames, x.pcTile with
  | f :: _, some t => if t.bad || f.count ≤ f.pos then none else some (t.data.le f.pc 16)
  | _, _ => none

/-- Shows the next command's address in CORE_PC (R145). -/
def HostSide.showPc (h : HostSide) (site : Nat) : HostSide :=
  match (h.core site).frames with
  | [] => h.set (Reg.CORE_STATUS.DEPTH site) 0
  | f :: t =>
    (((h.set (Reg.CORE_PC_LO site) f.pc).set (Reg.CORE_PC_HI.HI site) (f.pc / 2 ^ 32)).set
      (Reg.CORE_PC_HI.SPACE site) f.space).set (Reg.CORE_STATUS.DEPTH site) t.length

/-- A core enters ERROR (R118, R144). One that is in ERROR keeps its cause, and one that is fenced its state (R212). -/
def HostSide.coreError (h : HostSide) (site cause op : Nat) : HostSide :=
  if 5 ≤ h.coreState site then h else ((h.set (Reg.CORE_STATUS.STATE site) 5).set (Reg.CORE_ERR.CAUSE site) cause).set (Reg.CORE_ERR.OP site) op

/-- A failed tile of a list memory is counted, `space` coded as for CALL (R122, R182). -/
def HostSide.listFail (h : HostSide) (e : Env) (site k space addr : Nat) : HostSide :=
  match space with
  | 0 => h.csumFail e 0 site (addr / 2048 * 2048)
  | 1 => h.csumFail e 1 k (addr / 2048 * 2048)
  | _ => h.csumFail e 2 (addr / 2 ^ 32) (addr % 2 ^ 32 / 2048 * 2048)

/-- A timed core finds a token unreached, or an invalid command (R118, R121): marked, counted, and the data is missing for the
items up to the next VERDICT. `failed`: the awaited transfer failed under R182 (cause 1), otherwise cause 3. -/
def HostSide.timedMiss (h : HostSide) (e : Env) (site c : Nat) (failed : Bool) : HostSide :=
  let x := h.core site
  let h := h.setCore site { x with miss1 := x.miss1 || failed, miss3 := x.miss3 || !failed }
  let h := (h.set (Reg.CORE_STATUS.TIMED_MISS site) 1).inc (Reg.CORE_TIMED_MISS site) 1
  (h.countC c 0x0F 1).log e 0x0205 c 0 0 0

/-- Zeroes the SCOPE 1 counters of a core whose OP matches an issued command (R403), then counts the issue. -/
def HostSide.scopeReset (h : HostSide) (c op : Nat) : HostSide :=
  let h := forN 16 (fun j (g : HostSide) =>
    let w := (SMap.get (fun _ => (0 : Word)) g.regs (0x608000 + c * 0x100 + j * 0x10)).toNat
    if w / 256 % 4 == 1 && (w / 2 ^ 16 % 256 == op || w / 2 ^ 16 % 256 == 255) then
      (g.set (Reg.CNT_VALUE_LO c j) 0).set (Reg.CNT_VALUE_HI c j) 0 else g) h
  h.countC c 2 1

/-- The window descriptor a WINDOW names, read at issue (R147). -/
def winDescOf (h : HostSide) (site w : Nat) : WinDesc := ⟨(h.core site).spad.mem.le (hb w 1 14 0 * 64) 64⟩

/-- CORE cycles of a core's units have passed: `m`, `d` and `v` of those for which the M, D and V unit were still occupied (R402). -/
def HostSide.spend (h : HostSide) (c site m d v : Nat) : HostSide :=
  if m + d + v = 0 then h
  else
    let x := h.core site
    (((h.setCore site { x with busyM := x.busyM - m, busyD := x.busyD - d, busyV := x.busyV - v }).countC c 0x03 m).countC c 0x05 d).countC
      c 0x04 v

/-- A command that issues finds its units free, so that what they were still occupied for has passed (R113, R402). DESIGN CHOICE (log
entry 14). -/
def HostSide.freeUnits (h : HostSide) (c site w : Nat) : HostSide :=
  let x := h.core site
  let (m, d, v) := cmdCost w (winDescOf h site w)
  h.spend c site (if m = 0 then 0 else x.busyM) (if d = 0 then 0 else x.busyD) (if v = 0 then 0 else x.busyV)

/-- A command occupies its units from its issue on, a transfer the T unit for one cycle (R119, R402). -/
def HostSide.occupy (h : HostSide) (c site w : Nat) : HostSide :=
  if hb w 0 7 0 = 1 || hb w 0 7 0 = 2 then h.countC c 0x06 1
  else
    let (m, d, v) := cmdCost w (winDescOf h site w)
    if m + d + v = 0 then h
    else
      let x := h.core site
      h.setCore site { x with busyM := x.busyM + m, busyD := x.busyD + d, busyV := x.busyV + v }

/-- What the reads of a list memory met (R184), `space` coded as for CALL. -/
def HostSide.listEcc (h : HostSide) (e : Env) (site k space : Nat) (ecc : Ecc) : HostSide :=
  match space with
  | 0 => h.eccUse e 0 site ecc
  | 1 => h.eccUse e 1 k ecc
  | _ => h

/-- `n` tiles of a list memory are fetched for a core of cluster `k` (R406, R407, R523), `space` coded as for CALL. -/
def HostSide.countFetch (h : HostSide) (k space addr n : Nat) : HostSide :=
  match space with
  | 0 => h
  | 1 => (h.countMem true 1 k (2048 * n)).countRotation k (2048 * n)
  | _ => ((h.countMem true 2 (addr / 2 ^ 32) (2048 * n)).countPort k (2048 * n)).countRotation k (2048 * n)

/-- Enters a list on a core: the header and the tile of the first command are fetched before that command issues (R523). The
answer says why it cannot start: 6 for a failed fetch, 4 for a header that is none or whose MODE differs. -/
def HostSide.enterList (h : HostSide) (site k space addr : Nat) (timed : Bool) : HostSide × Option Nat :=
  match h.listMem site k space addr 16 with
  | none => (h, some 4)
  | some (bs, fail) =>
    let hdr := leNat bs
    let count := hw hdr 1 + hw hdr 2 * 65536
    let h := h.countFetch k space addr (if addr / 2048 = (addr + 16) / 2048 then 1 else 2)
    if fail.isSome then (h, some 6)
    else if hb hdr 0 3 0 != 1 || (hb hdr 0 4 4 == 1) != timed || count = 0 then (h, some 4)
    else
      let x := h.core site
      let f : Frame := { space, hdr := addr, pos := 0, count, timed }
      let t := h.fetchTile site k space f.pc
      let h := if x.frames.isEmpty then h.set (Reg.CORE_LIST_ID site) (hw hdr 3 + hw hdr 4 * 65536) else h
      (h.setCore site { x with frames := f :: x.frames, cur := some t, ahead := none, fetch := {} }, none)

/-- A fetch of a timed list fails: the core stops with cause 6, the entry 0x0302 is made, and the schedule is to halt at the next
period boundary with cause 1 for the open items (R144, R450). -/
def HostSide.fetchFailed (h : HostSide) (e : Env) (site c addr : Nat) (timed : Bool) (op : Nat) : HostSide :=
  let h := h.coreError site 6 op
  if timed then
    let h := h.log e 0x0302 c 6 addr 0
    { h with insp := { h.insp with haltReq := some 1 } }
  else h

/-- Issue reaches a tile that was fetched ahead and failed its check (R180, R523): the fetch fails now (R144). -/
def HostSide.reachTile (h : HostSide) (e : Env) (site c : Nat) : HostSide :=
  let x := h.core site
  match x.frames, x.pcTile with
  | f :: _, some t =>
    if t.bad && decide (f.pos < f.count) && (h.coreState site == 1 || h.coreState site == 2)
    then h.fetchFailed e site c t.addr f.timed 0 else h
  | _, _ => h

/-- The tile of a list's first command is fetched as the list is entered (R523): one that fails its check is counted and stops the
core (R144, R182). -/
def HostSide.reachFirst (h : HostSide) (e : Env) (site c : Nat) : HostSide :=
  let x := h.core site
  match x.frames, x.cur with
  | f :: _, some t => if t.bad then (h.listFail e site (c / 8) f.space t.addr).reachTile e site c else h
  | _, _ => h

/-- Starts a depth-0 list on a core (R117): TIMED or FREE, or ERROR when its header cannot be used. `rid`: the recipe whose list it
is (R24), 0 for a job's; `ecc`: what the reads of its header and first tile met (R184). -/
def HostSide.startList (h : HostSide) (e : Env) (c space addr : Nat) (timed : Bool) (rid : Nat) (ecc : Ecc := {}) : HostSide :=
  match h.siteOf c with
  | none => h
  | some site =>
    if h.coreState site == 6 then h
    else
      let h := h.setCore site { h.core site with frames := [], cur := none, ahead := none, waiting := none, recipe := rid }
      match (h.listEcc e site (c / 8) space ecc).enterList site (c / 8) space addr timed with
      | (g, none) => ((g.set (Reg.CORE_STATUS.STATE site) (if timed then 2 else 1)).showPc site).reachFirst e site c
      | (g, some 6) => (g.listFail e site (c / 8) space addr).fetchFailed e site c addr timed 0
      | (g, some cause) => g.coreError site cause 0

/-- Ends the innermost list (R117): its caller goes on in a new pass, or the core returns to IDLE and, when it runs a job,
has ended its depth-0 list (R360). An iteration of the schedule that waited for this END starts at once (R207). -/
def HostSide.endList (h : HostSide) (e : Env) (site c : Nat) : HostSide :=
  let x := h.core site
  let rest := x.frames.tail
  let h := h.setCore site { x with frames := rest, cur := none, ahead := none, fetch := {} }
  let h := if rest.isEmpty then
      let jobs := match x.job with
        | some j => h.comp.jobs.map fun jb => if jb.id == j && !(c ∈ jb.ended) then { jb with ended := jb.ended ++ [c] } else jb
        | none => h.comp.jobs
      let timed := (x.frames.head?.map (·.timed)).getD false
      let h := ({ h with comp := { h.comp with jobs := jobs } }).set (Reg.CORE_STATUS.STATE site) 0
      let n := SMap.get (fun _ => 0) h.insp.iterPend c
      match timed && 0 < n && !h.insp.halted, h.entries.find? (fun p => p.1 == c) with
      | true, some p =>
        ({ h with insp := { h.insp with iterPend := h.insp.iterPend.put c (n - 1) } }).startList e c 2 p.2.1 true p.2.2
      | _, _ => h
    else h
  h.showPc site

/-- The opcode of a command row, as one of R119. -/
def opListed (op : Nat) : Bool := op ≤ 0x0E

/-- Issues the next command of logical core `c` when `sel` accepts its opcode (R113): the sequencer steps past it, an invalid
command stops a free-mode core or is not executed in timed mode (R118), and a valid one has its effect `eff`. DEDUCED (log entry 15). -/
def HostSide.issue (h : HostSide) (e : Env) (c : Nat) (sel : Nat → Bool)
    (invalid : HostSide → Nat → Nat → Option Nat) (ready : HostSide → Nat → Nat → Bool)
    (eff : HostSide → Nat → Nat → Bool → HostSide) : HostSide :=
  match h.siteOf c with
  | none => h
  | some site =>
    let x := h.core site
    let st := h.coreState site
    match x.nextCmd, x.frames with
    | some w, f :: rest =>
      let op := hb w 0 7 0
      if !(st == 1 || st == 2) || !sel op || !ready h site w then h
      else
        let h := ((h.freeUnits c site w).scopeReset c op).occupy c site w
        let h := h.traceCore e c 1 (toLE 4 op ++ toLE 4 (h.get (Reg.CORE_LIST_ID site)) ++ toLE 4 f.pc)
        let h := h.setCore site { h.core site with frames := { f with pos := f.pos + 1 } :: rest, cur := x.pcTile,
                                                   ahead := if x.cur == x.pcTile then x.ahead else none }
        let bad := if opListed op then invalid h site w else some 1
        match bad with
        | some cause =>
          if f.timed then ((h.timedMiss e site c false).showPc site).reachTile e site c
          else (h.coreError site cause op).showPc site
        | none =>
          ((eff h site w f.timed).showPc site).reachTile e site c
    | _, _ => h

/-- Token that a command increments when its last result is written (R118). -/
def sigOf (w : Nat) : Option Nat := if hb w 0 12 12 == 1 then some (hb w 0 11 8) else none

/-- A command stays in its unit until its last result is written (R113, R119). One of the sequencer has only its token to write. -/
def HostSide.fly (h : HostSide) (site : Nat) (f : Flight) : HostSide :=
  if f.unit = 0 && f.sig.isNone then h
  else h.setCore site { h.core site with flights := (h.core site).flights ++ [f] }

/-- Every earlier command of the core has completed, its transfers among them (R117, R145). -/
def CoreSt.quiet (x : CoreSt) : Bool := x.flights.isEmpty && x.xfers.isEmpty

/-- No command is invalid beyond its opcode. -/
def neverInvalid (_h : HostSide) (_site _w : Nat) : Option Nat := none
/-- A command can always issue. -/
def alwaysReady (_h : HostSide) (_site _w : Nat) : Bool := true
/-- A DRAIN issues once every earlier MMA into its bank has written its last entry (R116). -/
def drainReady (h : HostSide) (site w : Nat) : Bool := !(h.core site).flights.any fun f => f.bank == some (hb w 1 4 4)
/-- A LOAD of SPACE 4 issues while fewer than four are outstanding (R123). -/
def loadReady (h : HostSide) (site w : Nat) : Bool :=
  !(hb w 1 3 0 == 4 && 4 ≤ ((h.core site).xfers.filter fun t => t.space == 4).length)
/-- The END of a depth-0 list issues once every earlier command has completed (R117, R145). -/
def endReady (h : HostSide) (site _w : Nat) : Bool := (h.core site).quiet || 1 < (h.core site).frames.length
/-- A YIELD that stops a free-mode core issues once every earlier command has completed, a remote wait excepted (R139). -/
def yieldReady (h : HostSide) (site _w : Nat) : Bool :=
  let x := h.core site
  !x.preempt || h.coreState site != 1 || (x.flights.isEmpty && x.xfers.all fun t => t.load && t.space == 4)

/-- Is a core that runs a list held back: its next command has not been fetched, its unit is occupied, or the command waits for earlier
ones (R113, R402)? -/
def HostSide.heldBack (h : HostSide) (site : Nat) : Bool :=
  let x := h.core site
  (h.coreState site == 1 || h.coreState site == 2) && match x.nextCmd with
    | none => !x.frames.isEmpty
    | some w =>
      let (m, d, v) := cmdCost w (winDescOf h site w)
      (m != 0 && x.busyM != 0) || (d != 0 && x.busyD != 0) || (v != 0 && x.busyV != 0) || match hb w 0 7 0 with
        | 1 => !loadReady h site w
        | 4 => !drainReady h site w
        | 12 => !endReady h site w
        | 13 => !yieldReady h site w
        | _ => false

/-- NOP (R119); a command with an opcode not listed issues here too and is invalid (R118). -/
def execNop (c : Nat) (s : State) : Host.Outcome State Fault Refusal :=
  s.onData fun e h => h.issue e c (fun op => op == 0 || !opListed op) neverInvalid alwaysReady
    (fun h site w _ => h.fly site { sig := sigOf w })

/-- Writes what a unit computed into a site's scratchpad, merging under R179; a merge into a failed tile is a failure of that
tile (R180), which stays failed. -/
def HostSide.spadWrite (h : HostSide) (e : Env) (site off : Nat) (bs : List Byte) : HostSide :=
  let st := h.storeOf 0 site
  (st.mergeBad off bs.length).foldl (fun g t => g.csumFail e 0 site (t * 2048)) (h.setStore 0 site off bs.length (st.write off bs))

/-- A command's last result is written: its writes, its flags and its token (R119, R120, R130). -/
def HostSide.land (h : HostSide) (e : Env) (c site : Nat) (f : Flight) : HostSide :=
  let h := f.writes.foldl (fun g x => g.spadWrite e site x.1 x.2) h
  let h := if f.flags = 0 then h else (h.setBits ⟨(Reg.CORE_FLAGS.SAT site).addr, 0, 5⟩ f.flags).countC c 0x0E 1
  match f.sig with
  | some t => h.addToken c t 1
  | none => h

/-- Words with a double-bit error among a unit's operands (R184): counted, their tiles poisoned, and the core treats the read as a
transfer that failed its checksum (R182). `sig`: the token the command does not increment. DEDUCED (log entry 15). -/
def HostSide.unitUe (h : HostSide) (e : Env) (site op : Nat) (timed : Bool) (sig : Option Nat) (ue : List (Nat × Nat)) : HostSide :=
  if ue.isEmpty then h
  else
    let h := h.putStore 0 site (ue.foldl (fun st x => st.poisonTile (x.1 / 2048)) (h.storeOf 0 site))
    let h := ue.foldl (fun g x => ((g.inc Reg.MEM_SRAM_UE 1).log e 0x0202 site 0 x.1 0).csumFail e 0 site (x.1 / 2048 * 2048)) h
    if !timed then h.coreError site 7 op
    else
      let x := h.core site
      match sig with
      | some t => if t ∈ x.failTok then h else h.setCore site { x with failTok := x.failTok ++ [t] }
      | none => h.setCore site { x with miss1 := true }

def CoreSt.bank (x : CoreSt) (b : Nat) : AccBank := if b = 0 then x.bank0 else x.bank1

/-- A command starts in a unit: its operands have been read and its bank holds what it accumulates; the rest is written when it
completes (R113, R115, R119). A command that met a double-bit error increments no token. DEDUCED (log entry 15). -/
def HostSide.startUnit (h : HostSide) (e : Env) (site w unit bank : Nat) (timed : Bool) (o : UnitOut) (ue : List (Nat × Nat)) :
    HostSide :=
  let x := h.core site
  let h := match o.bank with
    | some b => h.setCore site (if bank = 0 then { x with bank0 := b } else { x with bank1 := b })
    | none => h
  let f : Flight := { unit, bank := o.bank.map fun _ => bank, sig := if ue.isEmpty then sigOf w else none, writes := o.writes,
                      flags := o.flags.bits }
  (h.fly site f).unitUe e site (hb w 0 7 0) timed (sigOf w) ue

/-- Site and command of logical core `c`, when its next command has opcode `op` and the core issues. -/
def HostSide.nextOf (h : HostSide) (c op : Nat) : Option (Nat × Nat) :=
  match h.siteOf c with
  | none => none
  | some site => match (h.core site).nextCmd with
    | some w => if hb w 0 7 0 == op && (h.coreState site == 1 || h.coreState site == 2) then some (site, w) else none
    | none => none

/-- Issues a command of the matrix, drain or vector unit: its operand reads meet `x` (R184), and it starts. -/
def HostSide.issueUnit (h : HostSide) (e : Env) (c op unit : Nat) (x : Ecc) (invalid : HostSide → Nat → Nat → Option Nat)
    (ready : HostSide → Nat → Nat → Bool) (run : CoreSt → Nat → Nat × UnitOut) : HostSide :=
  h.issue e c (· == op) invalid ready fun h site w timed =>
    let h := h.eccReads e 0 site x
    let (bank, o) := run (h.core site) w
    h.startUnit e site w unit bank timed o x.ue

/-- MMA (R131 to R133). Of its bank a DRAIN has read every entry when the DRAIN has issued (R116). DEDUCED (log entry 15). -/
def execMma (c : Nat) (ecc : Ecc) (s : State) : Host.Outcome State Fault Refusal :=
  s.onData fun e h => h.issue e c (· == 3)
    (fun h site w => mmaInvalid w ((h.core site).bank (hb w 1 4 4)).ty) alwaysReady
    (fun h site w timed =>
      let h := h.eccReads e 0 site ecc
      let o := mmaRun w (h.core site).spad.mem ((h.core site).bank (hb w 1 4 4))
      (h.startUnit e site w 1 (hb w 1 4 4) timed o ecc.ue).countC c 0x0B (mmaMacs w))

/-- DRAIN (R135): it issues once every earlier MMA into its bank has written its last entry (R116). -/
def execDrain (c : Nat) (ecc : Ecc) (s : State) : Host.Outcome State Fault Refusal :=
  s.onData fun e h => h.issueUnit e c 4 2 ecc (fun _ _ w => drainInvalid w)
    drainReady
    (fun x w => (0, drainRun w x.spad.mem (x.bank (hb w 1 4 4))))

/-- VOP (R136). -/
def execVop (c : Nat) (ecc : Ecc) (s : State) : Host.Outcome State Fault Refusal :=
  s.onData fun e h => h.issueUnit e c 5 3 ecc (fun _ _ w => vopInvalid w) alwaysReady (fun x w => (0, vopRun w x.spad.mem))

/-- VLUT (R137). -/
def execVlut (c : Nat) (ecc : Ecc) (s : State) : Host.Outcome State Fault Refusal :=
  s.onData fun e h => h.issueUnit e c 6 3 ecc (fun _ _ w => vlutInvalid w) alwaysReady (fun x w => (0, vlutRun w x.spad.mem))

/-- VSORT (R138). -/
def execVsort (c : Nat) (ecc : Ecc) (s : State) : Host.Outcome State Fault Refusal :=
  s.onData fun e h => h.issueUnit e c 7 3 ecc (fun _ _ w => vsortInvalid w) alwaysReady (fun x w => (0, vsortRun w x.spad.mem))

/-- WINDOW (R147 to R156). Its descriptor is read at issue, a use of its tile (R180): a failed tile stops a free-mode core
with cause 6, and a timed core proceeds as for an unreached token (R156, R182). Double-bit errors within the descriptor are met by
that use, the others by the unit (R184). -/
def execWindow (c : Nat) (ecc : Ecc) (s : State) : Host.Outcome State Fault Refusal :=
  s.onData fun e h =>
    match h.nextOf c 8 with
    | none => h
    | some (site, w) =>
      let at_ := hb w 1 14 0 * 64
      let mine (x : Nat × Nat) : Bool := at_ ≤ x.1 && x.1 < at_ + 64
      let h := h.eccUse e 0 site { ce := ecc.ce, ue := ecc.ue.filter mine, alt := ecc.alt ++ ecc.ue.filter fun x => !mine x }
      h.issue e c (· == 8)
        (fun h site w =>
          if ((h.core site).spad.useFails at_ 64).isSome then none
          else
            let d := winDescOf h site w
            winInvalid d ((h.core site).bank (d.b 1 0 0)).ty) alwaysReady
        (fun h site w timed =>
          match (h.core site).spad.useFails at_ 64 with
          | some t =>
            let h := h.csumFail e 0 site (t * 2048)
            if timed then h.timedMiss e site c true else h.coreError site 6 8
          | none =>
            let d := winDescOf h site w
            let x := h.core site
            let ue := ecc.ue.filter fun x => !mine x
            if d.mode = 0 then
              (h.startUnit e site w 1 (d.b 1 0 0) timed (convRun d x.spad.mem (x.bank (d.b 1 0 0))) ue).countC c 0x0B (convMacs d)
            else h.startUnit e site w 3 0 timed (winVecRun d x.spad.mem) ue)

/-! ### Tokens, waits and calls (R120 to R122) -/

/-- WAIT: a free-mode core stalls in WAITING until its token is reached; a timed core goes on and marks the miss. -/
def execWait (c : Nat) (s : State) : Host.Outcome State Fault Refusal :=
  s.onData fun e h => h.issue e c (· == 9) neverInvalid alwaysReady fun h site w timed =>
    let t := hb w 1 3 0
    let v := hw w 2
    if reached (h.token site t) v then h.fly site { sig := sigOf w }
    else if timed then (h.timedMiss e site c (t ∈ (h.core site).failTok)).fly site { sig := sigOf w }
    else (h.setCore site { h.core site with waiting := some (t, v, sigOf w), waited := 0 }).set (Reg.CORE_STATUS.STATE site) 3

/-- A stalled free-mode WAIT finds its token reached, and issue resumes (R120). -/
def execWaitSatisfied (c : Nat) (s : State) : Host.Outcome State Fault Refusal :=
  s.onData fun e h =>
    match h.siteOf c with
    | none => h
    | some site =>
      match h.coreState site == 3, (h.core site).waiting with
      | true, some (t, v, sig) =>
        if reached (h.token site t) v then
          let h := h.traceCore e c 2 (toLE 4 t ++ toLE 4 (h.core site).waited)
          (((h.setCore site { h.core site with waiting := none }).set (Reg.CORE_STATUS.STATE site) 1).fly site { sig := sig }).reachTile e
            site c
        else h
      | _, _ => h

/-- TSET sets or adds to a token (R120, R121). -/
def execTset (c : Nat) (s : State) : Host.Outcome State Fault Refusal :=
  s.onData fun e h => h.issue e c (· == 10) neverInvalid alwaysReady fun h site w _ =>
    let t := hb w 1 3 0
    let h := h.fly site { sig := sigOf w }
    if hb w 1 4 4 = 1 then h.set (tokenRF site t) (h.token site t + hw w 2)
    else
      let x := h.core site
      (h.setCore site { x with failTok := x.failTok.filter (· != t) }).set (tokenRF site t) (hw w 2)

/-- CALL's target address form (R122, R173). -/
def callAddrOk (v : Variant) (space addr : Nat) : Bool :=
  addr % 64 == 0 && (match space with
    | 0 => addr + 16 ≤ spadBytes
    | 1 => addr + 16 ≤ 0x800000
    | 2 => addr / 2 ^ 32 < v.groups && addr % 2 ^ 32 + 16 ≤ 0xC0000000
    | _ => false)

/-- CALL (R122): depth 4 at most, its SPACE codes its own. `ecc`: what the reads of the called list's header and first tile met
(R184). -/
def execCall (c : Nat) (ecc : Ecc) (s : State) : Host.Outcome State Fault Refusal :=
  s.onData fun e h => h.issue e c (· == 11)
    (fun h site w =>
      let addr := hw w 2 + hw w 3 * 2 ^ 16 + hw w 4 * 2 ^ 32
      if 5 ≤ (h.core site).frames.length then some 5
      else if !callAddrOk e.variant (hb w 1 3 0) addr then some 4 else none)
    alwaysReady
    (fun h site w timed =>
      let addr := hw w 2 + hw w 3 * 2 ^ 16 + hw w 4 * 2 ^ 32
      match (h.listEcc e site (c / 8) (hb w 1 3 0) ecc).enterList site (c / 8) (hb w 1 3 0) addr timed with
      | (g, none) => (g.fly site { sig := sigOf w }).reachFirst e site c
      | (g, some 6) => (g.listFail e site (c / 8) (hb w 1 3 0) addr).fetchFailed e site c addr timed 11
      | (g, some cause) => if timed then g.timedMiss e site c false else g.coreError site cause 11)

/-- END: ends a list (R117). A list without END ends after COUNT commands. In IDLE no command of the core's own increments a token
(R145), so the list at depth 0 ends once every earlier command has completed, and the END's own token counts at once. DEDUCED (log
entry 15). -/
def execEndList (c : Nat) (s : State) : Host.Outcome State Fault Refusal :=
  s.onData fun e h =>
    match h.siteOf c with
    | none => h
    | some site =>
      let x := h.core site
      let may := endReady h site 0
      match x.frames with
      | f :: _ =>
        if f.count ≤ f.pos && (h.coreState site == 1 || h.coreState site == 2) then (if may then h.endList e site c else h)
        else h.issue e c (· == 12) neverInvalid endReady (fun h site w _ =>
          let h := match sigOf w with | some t => h.addToken c t 1 | none => h
          h.endList e site c)
      | [] => h

/-- YIELD (R139): in free mode with a pre-emption pending the sequencer stops in YIELDED once every earlier command has
completed, a remote wait excepted; `cycles` is the interval since the last YIELD as the core measured it. -/
def execYieldPoint (c cycles : Nat) (s : State) : Host.Outcome State Fault Refusal :=
  s.onData fun e h => h.issue e c (· == 13) neverInvalid
    yieldReady
    (fun h site w timed =>
      let h := h.countC c 0x0C 1
      if timed then h.fly site { sig := sigOf w }
      else
        let h := if h.get (Reg.CORE_YIELD_MAX site) < cycles then h.set (Reg.CORE_YIELD_MAX site) (min cycles (2 ^ 32 - 1)) else h
        let h := if 30000 < cycles then h.set (Reg.CORE_STATUS.YIELD_LATE site) 1 else h
        let h := h.setCore site { h.core site with sinceYield := 0 }
        if (h.core site).preempt then
          (match sigOf w with | some t => h.addToken c t 1 | none => h).set (Reg.CORE_STATUS.STATE site) 4
        else h.fly site { sig := sigOf w })

/-- The sequencer's fetch of a list tile completes (R523), a use under R180 whose reads meet `ecc` (R184): the tile of the next
command when issue needs it, otherwise the tile after it when the list continues into it. That of a timed list in HBM has moved in the
owned slots of its stream (R190). A failed fetch is counted, and stops the core with cause 6 when issue needs the tile (R144, R182). -/
def execListTileFetch (c : Nat) (ecc : Ecc) (s : State) : Host.Outcome State Fault Refusal :=
  s.onData fun e h =>
    match h.siteOf c with
    | none => h
    | some site =>
      match (h.core site).frames with
      | [] => h
      | f :: _ =>
        let x := h.core site
        let st := h.coreState site
        match x.wants with
        | none => h
        | some (space, addr) =>
          if !(1 ≤ st && st ≤ 3) || (space == 2 && !h.hbmUp) || (x.fetchNow.any fun t => !t.moved_ c) then h
          else
            let h := h.listEcc e site (c / 8) f.space ecc
            let t := h.fetchTile site (c / 8) space addr
            let t' := { t with bad := t.bad || x.fetchNow.any fun t => t.dropped }
            let y := h.core site
            let h := h.setCore site (if x.pcTile.isNone then { y with cur := some t', ahead := none, fetch := {} }
                                     else { y with ahead := some t', fetch := {} })
            let h := (if t.bad then h.listFail e site (c / 8) space addr else h).countFetch (c / 8) space addr 1
            h.reachTile e site c

/-- Takes the oldest command of each unit named: those taken in issue order, and the rest. -/
def takeHeads : List Nat → List Flight → List Flight × List Flight
  | _, [] => ([], [])
  | us, f :: t =>
    if f.unit ∈ us then (let r := takeHeads (us.filter (· != f.unit)) t; (f :: r.1, r.2))
    else (let r := takeHeads us t; (r.1, f :: r.2))

/-- In one CORE cycle the oldest command of each unit of `units` writes its last result and increments its SIG token (R113, R119,
R120). Of two that write one byte in that cycle, the later in list order takes effect (R115). `ecc`: what the reads of the tiles they merge into met (R184). DEDUCED (log entry 15). -/
def execCommandComplete (c : Nat) (units : List Nat) (ecc : Ecc) (s : State) : Host.Outcome State Fault Refusal :=
  s.onData fun e h =>
    match h.siteOf c with
    | none => h
    | some site =>
      let r := takeHeads units (h.core site).flights
      let x := h.core site
      let gone (u n : Nat) : Nat := if u ∈ units && !(r.2.any fun f => f.unit == u) then n else 0
      let h := h.spend c site (gone 1 x.busyM) (gone 2 x.busyD) (gone 3 x.busyV)
      r.1.foldl (fun g f => g.land e c site f) ((h.setCore site { h.core site with flights := r.2 }).eccUse e 0 site ecc)

/-- CORE_CMD.CLEAR_ERR acts in ERROR: CORE_ERR clears and the core is IDLE, where no command of the stopped list increments a token
any more (R145). -/
def HostSide.clearErr (h : HostSide) (site : Nat) : HostSide :=
  if site < 72 && h.coreState site == 5 then
    let x := h.core site
    let h := h.setCore site { x with frames := [], cur := none, ahead := none, waiting := none,
                                     flights := x.flights.map fun f => { f with sig := none },
                                     xfers := x.xfers.map fun t => { t with sig := none } }
    (((h.set (Reg.CORE_ERR.CAUSE site) 0).set (Reg.CORE_ERR.OP site) 0).set (Reg.CORE_STATUS.STATE site) 0).showPc site
  else h

/-- Writing CORE_CMD.CLEAR_ERR (R145, R440). -/
def execCoreClearErr (site : Nat) (s : State) : Host.Outcome State Fault Refusal :=
  s.onBar fun _ h =>
    if 72 ≤ site then h
    else match h.sleepWrite (Reg.CORE_CMD.CLEAR_ERR site).addr ((Reg.CORE_CMD.CLEAR_ERR site).inWord 0 1) with
      | some g => g
      | none => h.clearErr site

/-! ### Transfers (R123, R164, R173, R405) -/

/-- The 16 counters of a logical core as 8-byte values (R405). -/
def HostSide.counterBytes (h : HostSide) (c : Nat) : List Byte :=
  (List.range 16).flatMap fun j => toLE 8 (h.get2 (Reg.CNT_VALUE_LO c j) (Reg.CNT_VALUE_HI c j))

/-- Client of the job that owns a core; an armed recipe's core counts as the admin context's. -/
def HostSide.clientOfCore (h : HostSide) (site : Nat) : Nat :=
  match (h.core site).job with
  | some j => ((h.comp.jobs.find? fun x => x.id == j).map (·.client)).getD 0
  | none => 0

/-- Global counters 32m to 32m + 31 as a job of `client` may read them (R405). -/
def HostSide.globalBytes (h : HostSide) (m client : Nat) : List Byte :=
  (List.range 32).flatMap fun i =>
    let g := 32 * m + i
    let open_ := client == 0 || h.get (Reg.GCNT_CFG.OPEN g) == client
    toLE 8 (if open_ then h.get2 (Reg.GCNT_VALUE_LO g) (Reg.GCNT_VALUE_HI g) else 0)

/-- Issues a LOAD or STORE: the transfer joins the port's queue. A counter transfer samples at issue, before the command's own reset
and count (R403, R405); a STORE to a control address uses the tile it reads (R180), whose reads meet `ecc` (R184). -/
def HostSide.issueXfer (h : HostSide) (e : Env) (c : Nat) (load : Bool) (ecc : Ecc) : HostSide :=
  let sample := h.counterBytes c
  h.issue e c (· == (if load then 1 else 2))
    (fun _ _ w => xferInvalid e.variant (xferOf w load false))
    (fun h site w => !load || loadReady h site w)
    (fun h site w timed =>
      let x := xferOf w load timed
      let (h, x) : HostSide × Xfer := match x.space == 1, load, controlOf x.far with
        | true, true, some .counters => (h, { x with bytes := sample })
        | true, true, some (.globals m) => (h, { x with bytes := h.globalBytes m (h.clientOfCore site) })
        | true, false, some _ =>
          let h := h.eccUse e 0 site ecc
          let bad := (h.core site).spad.useBad x.spa 64
          (bad.foldl (fun g t => g.csumFail e 0 site (t * 2048)) h,
            { x with bytes := (h.core site).spad.read x.spa 64, dropped := !bad.isEmpty })
        | _, _, _ => (h, x)
      h.setCore site { h.core site with xfers := (h.core site).xfers ++ [x] })

/-- LOAD starts a transfer into the scratchpad (R123). DEDUCED (log entry 15). -/
def execLoad (c : Nat) (s : State) : Host.Outcome State Fault Refusal := s.onData fun e h => h.issueXfer e c true {}
/-- STORE starts a transfer out of the scratchpad (R123). `ecc`: what the read of a granule for a control address met (R184). DEDUCED
(log entry 15). -/
def execStore (c : Nat) (ecc : Ecc) (s : State) : Host.Outcome State Fault Refusal := s.onData fun e h => h.issueXfer e c false ecc

end Sys2Proof.Machine
end

