-- ==== Sys2Proof/Machine/Records.lean ====
section
/-! DEFINITION. Result rings and their records (R223, R225, R226, R342 to R345). -/

namespace Sys2Proof.Machine
open Sys2Proof

def HostSide.ring (h : HostSide) (n : Nat) : Ring := SMap.get (fun _ => {}) h.rings n
/-- Replaces a ring and shows how many records it holds (R354). -/
def HostSide.setRing (h : HostSide) (n : Nat) (r : Ring) : HostSide :=
  ({ h with rings := h.rings.put n r }).set (Reg.RR_HELD n) r.held.length

/-- TYPE of a record: 0 verdict, 1 ejection report, 2 commit, 3 seal, 4 gap (R223, R344). -/
def recType (rcd : List Byte) : Nat := (rcd.getD 8 0).toNat / 32
/-- Bytes 0 to 63 of a record with PHASE 0. -/
def recCore (rcd : List Byte) : List Byte := (rcd.set 8 (rcd.getD 8 0 &&& 0xEF#8)).take 64
/-- Puts `n` little-endian bytes into a record. -/
def putLE (rcd : List Byte) (off n v : Nat) : List Byte := rcd.take off ++ toLE n v ++ rcd.drop (off + n)
/-- Puts bytes into a record. -/
def putBytes (rcd : List Byte) (off : Nat) (bs : List Byte) : List Byte := rcd.take off ++ bs ++ rcd.drop (off + bs.length)
/-- A record of zeros with FORMAT 1 and a TYPE. -/
def recNew (type : Nat) : List Byte := putLE (List.replicate 128 0) 8 1 (1 + 32 * type)

/-- The record digest (R226, R344). -/
def recDigest (rcd : List Byte) : List Byte :=
  match recType rcd with
  | 0 => if bit (rcd.getD 11 0).toNat 4 then (rcd.drop 96).take 32 else sha3 (asciiOf "KM7ITEM0" ++ recCore rcd)
  | 1 => sha3 (asciiOf "KM7EREP1" ++ recCore rcd)
  | 2 => sha3 (asciiOf "KM7CMIT1" ++ recCore rcd)
  | _ => sha3 (asciiOf "KM7GAPR1" ++ recCore rcd)

/-- Gathers a record's digest as a leaf of the next seal (R227). DEDUCED (log entry 47). -/
def HostSide.addLeaf (h : HostSide) (n pos : Nat) (rcd : List Byte) : HostSide :=
  if !h.on (Reg.SEAL_CTRL.DIG_EN n) || recType rcd == 3 then h
  else
    h.setRing n { h.ring n with leaves := (h.ring n).leaves ++ [(pos, recDigest rcd)] }

/-- An ejection report carries the commit sequence at publication (R345). DEDUCED (log entry 18). -/
def HostSide.stampCseq (h : HostSide) (rcd : List Byte) : List Byte :=
  if recType rcd == 1 then putLE rcd 32 4 (h.get Reg.DET_CSEQ) else rcd

/-- A record is produced for ring `n`: it takes the next ring position and waits in the holding buffer, behind a gap record when
records before it were lost; at a full buffer it is lost, counted, and its digest still becomes a leaf (R229, R344). -/
def HostSide.produce (h : HostSide) (n : Nat) (rcd : List Byte) : HostSide :=
  let r := h.ring n
  if 1024 ≤ r.held.length then
    let first := r.lossRun = 0
    let seq := if r.lossSeq = 0 && recType rcd == 0 then leNat (rcd.take 8) else r.lossSeq
    let h := h.setRing n { r with produced := r.produced + 1, lostAll := (r.lostAll + 1) % 2 ^ 32, lossRun := r.lossRun + 1,
                                  lossPos := if first then r.produced else r.lossPos, lossSeq := seq }
    (h.inc (Reg.RR_LOST n) 1).addLeaf n r.produced (h.stampCseq rcd)
  else
    let lost := 0 < r.lossRun
    let x : HeldRec := { bytes := rcd, pos := if lost then r.produced + 1 else r.produced,
                         gap := if lost then some (r.lossRun, r.lossPos, r.lossSeq) else none }
    h.setRing n { r with held := r.held ++ [x], produced := x.pos + 1, lossRun := 0, lossSeq := 0 }

/-- Writes a record to its slot of host memory with its PHASE, counts it, and signals the ring's vector (R342, R343, R347). -/
def HostSide.writeRec (h : HostSide) (n pos : Nat) (rcd : List Byte) : HostSide :=
  let size := sizeOf (h.get (Reg.RR_CFG.SIZE_L n))
  let p := h.get (Reg.RR_PUBLISHED n)
  let rcd := h.stampCseq rcd
  let phase := b2n (decide (p / size % 2 = 0))
  let b8 := (rcd.getD 8 0).toNat % 16 + 16 * phase + (rcd.getD 8 0).toNat / 32 * 32
  let base := h.get (Reg.RR_BASE_LO n) * 128 + h.get (Reg.RR_BASE_HI n) * 2 ^ 32
  let h := h.hostWrite (base + p % size * 128) (rcd.set 8 (BitVec.ofNat 8 b8))
  let h := (h.set (Reg.RR_PUBLISHED n) (p + 1)).addLeaf n pos rcd
  let h := h.countG 0x32 n 1
  if h.on (Reg.RR_CFG.IEN n) then h.signal (h.get (Reg.RR_CFG.VECTOR n)) else h

/-- May the ring publish: enabled, Bus Master Enable set, no global stop, a slot free (R344)? -/
def HostSide.ringReady (h : HostSide) (n : Nat) : Bool :=
  h.on (Reg.RR_CFG.EN n) && h.bme && !h.stopped &&
    (h.get (Reg.RR_PUBLISHED n) + 2 ^ 32 - h.get (Reg.RR_HEAD n)) % 2 ^ 32 < sizeOf (h.get (Reg.RR_CFG.SIZE_L n))

/-- A held record is published to ring `n`; a gap record goes before the first record after losses (R343, R344). -/
def execResultRecordPublish (n : Nat) (s : State) : Host.Outcome State Fault Refusal :=
  s.onHost fun _ h =>
    if 16 ≤ n || !h.ringReady n then h
    else
      let r := h.ring n
      match r.held with
      | [] => h
      | x :: rest =>
        match x.gap with
        | some (cnt, pos, seq) =>
          (h.setRing n { r with held := { x with gap := none } :: rest }).writeRec n (x.pos - 1)
            (putLE (putLE (putLE (recNew 4) 0 8 seq) 16 4 cnt) 24 8 pos)
        | none => (h.setRing n { r with held := rest }).writeRec n x.pos x.bytes

/-! ### Unit map and commit records (R217, R225) -/

/-- The 16 bytes of the unit map in force (R217). -/
def HostSide.unitMap (h : HostSide) : List Byte :=
  (List.range 4).flatMap fun i => toLE 4 (h.get (Reg.DET_UNITMAP i))

/-- A commit record goes to every ring whose DIG_EN is 1 (R225): KIND 1 recipe, 2 context, 3 unit map. DEDUCED (log entry 18). -/
def HostSide.commitRecord (h : HostSide) (kind ctx : Nat) (content : List Byte) : HostSide :=
  let rcd := putBytes (putLE (putLE (putLE (recNew 2) 0 8 (h.get Reg.DET_CSEQ)) 9 1 kind) 10 2 ctx) 16
    ((content ++ List.replicate 32 0).take 32)
  forN 16 (fun n g => if g.on (Reg.SEAL_CTRL.DIG_EN n) then g.produce n rcd else g) h

/-- CONTENT of a recipe commit (R225). -/
def Recipe.content (r : Recipe) : List Byte :=
  sha3 (asciiOf "KM7RCMT1" ++ (r.hdr.drop 16).take 32 ++ (r.hdr.drop 48).take 32)

/-- The firmware manifest version of the running image, 16 bytes (R463, R487). -/
def HostSide.fwVersion (h : HostSide) : List Byte :=
  (List.range 4).flatMap fun k => toLE 4 (h.get (Reg.MGMT_VERSION k))

end Sys2Proof.Machine
end

