-- ==== Sys2Proof/Machine/Items.lean ====
section
/-! DEFINITION. Items from opening to closing (R22 to R24, R26, R214, R340): windows and gap windows, their lines and counts. -/

namespace Sys2Proof.Machine
open Sys2Proof

/-- Signed difference a − b of two 32-bit counts. -/
def cdiff (a b : Nat) : Int := sext 32 (a + 2 ^ 32 - b % 2 ^ 32)

/-- The recipe with an identity: the armed one, or one whose items are open (R24). -/
def HostSide.recipeOf (h : HostSide) (id : Nat) : Option Recipe :=
  (h.insp.armed.toList ++ h.insp.olds).find? fun r => r.id == id

/-- Line digests kept of a context (R222). -/
def HostSide.lineDigs (h : HostSide) (x : Nat) : List LineDig := SMap.get (fun _ => []) h.insp.lineDigs x

/-- Is `x` the first context the armed recipe lists? -/
def HostSide.firstCtxOf (h : HostSide) (x : Nat) : Bool :=
  match h.insp.armed with | some r => r.ctxs.head? == some x | none => false

/-- Updates the item with a sequence number. -/
def HostSide.modItem (h : HostSide) (seq : Nat) (f : Item → Item) : HostSide :=
  { h with insp := { h.insp with items := h.insp.items.map fun i => if i.seq == seq then f i else i } }

/-- An item opens: it takes the next sequence number and the commit sequence in force (R23, R223). While the schedule is halted it
is to be released UNDECIDED with cause `hc`: 5, or that of the halt where its lines came before the halt (R214). Otherwise a VERDICT
of its recipe that issued before its window opened judges it (R340). -/
def HostSide.openItem (h : HostSide) (it : Item) (hc : Nat := 5) : HostSide :=
  let it := { it with seq := h.insp.nextSeq, cseqOpen := h.get Reg.DET_CSEQ }
  let (it, kept) :=
    if h.insp.halted then ({ it with forced := hc }, h.insp.kept)
    else if it.kind < 2 then (match h.insp.kept.find? (fun k => k.1 == it.recipe) with
      | some k => ({ it with judged := some k.2 }, dropFirst (fun k => k.1 == it.recipe) h.insp.kept)
      | none => (it, h.insp.kept))
    else (it, h.insp.kept)
  { h with insp := { h.insp with items := h.insp.items ++ [it], nextSeq := h.insp.nextSeq + 1, kept := kept } }

/-- Tick at which the closing line of an item with closing count `c` arrived, if it has: the first line of the recipe's first
context at or past the count; at once where the recipe lists no context (R26). -/
def HostSide.closedAt (h : HostSide) (r : Recipe) (c now : Nat) : Option Nat :=
  match r.ctxs.head? with
  | none => some now
  | some x => ((h.lineDigs x).find? fun d => decide (0 ≤ cdiff d.count c)).map (·.tick)

/-- An item closes with a count (R22). An item released before it closed leaves with its window. -/
def HostSide.closeItem (h : HostSide) (e : Env) (it : Item) (count : Nat) : HostSide :=
  if it.released then { h with insp := { h.insp with items := h.insp.items.filter fun i => i.seq != it.seq } }
  else
    let t := match h.recipeOf it.recipe with | some r => h.closedAt r count e.tick | none => some e.tick
    h.modItem it.seq fun i => { i with close := some count, left := 0, closeTick := t }

/-- A line of context `x` arrives: it may be the closing line of items that have closed (R26). -/
def HostSide.lineSeen (h : HostSide) (e : Env) (x count : Nat) : HostSide :=
  let f (i : Item) : Item := match i.close, h.recipeOf i.recipe with
    | some k, some r =>
      if i.closeTick.isNone && r.ctxs.head? == some x && decide (0 ≤ cdiff count k) then { i with closeTick := some e.tick } else i
    | _, _ => i
  { h with insp := { h.insp with items := h.insp.items.map f } }

/-- Lines of a gap window of a region recipe (R340). DEDUCED (log entry 19). -/
def Recipe.defLines (r : Recipe) : Nat := max 1 (r.u 124 4)

/-- While a region recipe's schedule is halted, its items are line windows of DEF_LINES lines that cover every line after the
last one a verdict block named (R214, R340). A window that is open at the restart ends with its DEF_LINES lines. DEDUCED
(log entry 19). `hc`: the cause of a window that opens with this line. -/
def HostSide.gapLine (h : HostSide) (x idx count tick hc : Nat) : HostSide :=
  match h.insp.armed with
  | none => h
  | some r =>
    if r.kind != 2 || r.ctxs.head? != some x || idx < h.insp.named then h
    else
      let h := { h with insp := { h.insp with unnamed := h.insp.unnamed.filter (fun (u : Nat × Nat × Nat) => u.1 != idx) ++ [(idx, count, tick)] } }
      let next (h : HostSide) : HostSide := { h with insp := { h.insp with named := idx + 1, unnamed := h.insp.unnamed.filter fun (u : Nat × Nat × Nat) => idx < u.1 } }
      let full (first : Nat) : Bool := r.defLines ≤ idx + 1 - first
      match h.insp.items.find? (fun i => i.gap && i.recipe == r.id && i.close.isNone) with
      | some i =>
        let first := match i.lines with | some (f, _) => f | none => idx
        next (h.modItem i.seq fun i => { i with lines := some (first, idx), close := if full first then some count else none,
                                                closeTick := if full first then some tick else none })
      | none =>
        if !h.insp.halted then h
        else next (h.openItem { kind := 0, openCount := count, recipe := r.id, gap := true, lines := some (idx, idx),
                                close := if full idx then some count else none, closeTick := if full idx then some tick else none } hc)

/-- An item not yet judged is to be released UNDECIDED (R214). -/
def Item.force (i : Item) (cause : Nat) : Item :=
  if i.judged.isSome || i.forced != 0 || i.released then i else { i with forced := cause }

/-! ### Windows (R22, R340) -/

/-- A tick of source `j` with its count: open windows of recipes with that source count it, and the armed line-window recipe
opens its next window when none is open (R22, R337). The first one opens at the first tick whose count is WIN_START or past it: where
WIN_START has passed already when the recipe takes effect, or lies between two ticks, that is the next tick. DESIGN CHOICE
(log entry 19). -/
def HostSide.inspectTick (h : HostSide) (e : Env) (j count : Nat) : HostSide :=
  let mine (i : Item) : Bool := i.kind != 2 && !i.gap && i.close.isNone && 0 < i.left &&
    (match h.recipeOf i.recipe with | some r => r.trigSrc == j | none => false)
  let lineOpen := match h.insp.armed with
    | some r => h.insp.items.any fun i => i.kind == 0 && !i.gap && i.close.isNone && i.recipe == r.id
    | none => false
  let h := (h.insp.items.filter mine).foldl (fun h i =>
    if i.left ≤ 1 then h.closeItem e i count else h.modItem i.seq fun k => { k with left := k.left - 1 }) h
  match h.insp.armed with
  | none => h
  | some r =>
    if r.kind != 0 || r.trigSrc != j || lineOpen || (!h.insp.winGo && decide (cdiff count (r.u 128 4) < 0)) then h
    else
      let seq := h.insp.nextSeq
      let h := { h with insp := { h.insp with winGo := true } }
      let h := h.openItem { kind := 0, openCount := count, recipe := r.id, left := r.winLines - 1 }
      if r.winLines ≤ 1 then
        match h.insp.items.find? (fun i => i.seq == seq) with
        | some i => h.closeItem e i count
        | none => h
      else h

/-- A DI_CHANGE: the opposite edge closes an open input window, and the programmed edge opens one when none is open, on the count
of the message (R22, R289, R337). -/
def HostSide.inspectInput (h : HostSide) (e : Env) (state edge count : Nat) : HostSide :=
  let closes (i : Item) : Bool := i.kind == 1 && i.close.isNone &&
    (match h.recipeOf i.recipe with | some r => bit edge r.di && bit state r.di != r.openLevel | none => false)
  let h := (h.insp.items.filter closes).foldl (fun h i => h.closeItem e i count) h
  match h.insp.armed with
  | none => h
  | some r =>
    if r.kind != 1 || (h.insp.items.any fun i => i.kind == 1 && i.close.isNone && i.recipe == r.id) then h
    else if bit edge r.di && bit state r.di == r.openLevel then
      h.openItem { kind := 1, openCount := count, recipe := r.id, left := r.winLines }
    else h

end Sys2Proof.Machine
end

