-- ==== Sys2Proof/Machine/Eject.lean ====
section
/-! DEFINITION. Ejection entries on the host side of the barrier and their report records (R277, R294, R341, R345). -/

namespace Sys2Proof.Machine
open Sys2Proof

/-- Presents a message to the barrier's host end (R273). -/
def HostSide.barSend (h : HostSide) (type payload : Nat) : HostSide :=
  { h with bar := { h.bar with port := { h.bar.port with tx := h.bar.port.tx ++ [{ type, payload }] } } }

/-- Publishes the ejection report record of an entry (R345). `code`: verdict code; `flags`: byte 11. DEDUCED (log entry 20). -/
def HostSide.report (h : HostSide) (e : Env) (o : OutEntry) (code result flags tag count : Nat) : HostSide :=
  let r := putLE (putLE (putLE (recNew 1) 0 8 o.seq) 9 1 code) 10 1 result
  let r := putLE (putLE (putLE r 11 1 flags) 12 1 o.group) 14 2 tag
  let r := putLE (putLE (putLE r 16 4 count) 20 4 o.target) 24 8 e.tick
  h.produce o.ring r

/-- TAG offered to the next entry of a group. DEDUCED (log entry 20). -/
def HostSide.nextTagOf (h : HostSide) (g : Nat) : Nat := SMap.get (fun _ => 0) h.insp.nextTag g

/-- Payload of EJECT_ARM (R275). -/
def armPayload (c group first numM1 wsel tag : Nat) : Nat :=
  c % 2 ^ 32 + group % 8 * 2 ^ 32 + first % 256 * 2 ^ 35 + numM1 % 256 * 2 ^ 43 + wsel % 8 * 2 ^ 51 + tag % 1024 * 2 ^ 54

/-- An ejection entry is handed to the barrier in the cycle of its verdict (R29). While the field side is lost it is reported
CANCELLED and not sent (R294). When its TAG is that of an entry of the group without a report it is held back, with one report of
RESULT 3 and HOST = 1, and consumes no TAG (R341). Otherwise it takes the TAG and is sent (R277). DEDUCED (log entry 20). -/
def HostSide.eject (h : HostSide) (e : Env) (o : OutEntry) (first numM1 wsel : Nat) : HostSide :=
  let tag := h.nextTagOf o.group
  if h.bar.lost then h.report e o 4 7 2 tag 0
  else if h.insp.out.any fun x => x.group == o.group && x.tag == tag then
    (h.report e o 4 3 2 tag 0).log e 0x0207 o.group 3 0 o.seq
  else
    let h := { h with insp := { h.insp with out := h.insp.out ++ [{ o with tag := tag }],
                                            nextTag := h.insp.nextTag.put o.group ((tag + 1) % 1024) } }
    (h.barSend 0x20 (armPayload o.target o.group first numM1 wsel tag)).countG 0x41 0 1

/-- Every entry sent and not reported is reported CANCELLED (R294). DEDUCED (log entry 20). -/
def HostSide.cancelOut (h : HostSide) (e : Env) : HostSide :=
  h.insp.out.foldl (fun h o => h.report e o 4 7 2 o.tag 0) { h with insp := { h.insp with out := [] } }

end Sys2Proof.Machine
end

