-- ==== Sys2Proof/Machine/Transfers.lean ====
section
/-! DEFINITION. Transfers that land (R123, R164 to R182), stripe channels (R157 to R163) and remote accesses (R176). -/

namespace Sys2Proof.Machine
open Sys2Proof

/-! ### Uses and arrivals (R179 to R182) -/

/-- A use of `n` bytes (R180): every failed tile among them is counted and logged (R182). Answers whether the use failed. -/
def HostSide.useStore (h : HostSide) (e : Env) (kind unit off n : Nat) : HostSide × Bool :=
  let bad := (h.storeOf kind unit).useBad off n
  (bad.foldl (fun g t => g.csumFail e kind unit (t * 2048)) h, !bad.isEmpty)

/-- A piece arrives and merges into its tiles (R179, R181). A merge into a failed tile fails; a failed piece is still written
and poisons every tile it touched. Answers whether anything failed. DEDUCED (log entry 15). -/
def HostSide.landPiece (h : HostSide) (e : Env) (kind unit off : Nat) (bs : List Byte) (failed : Bool) : HostSide × Bool :=
  let st := h.storeOf kind unit
  let bad := st.mergeBad off bs.length
  let st := st.write off bs
  let st := if failed then st.poisonRange off bs.length else st
  let h := h.setStore kind unit off bs.length st
  (bad.foldl (fun g t => g.csumFail e kind unit (t * 2048)) h, failed || !bad.isEmpty)

/-- Offsets and lengths of the pieces of `n` bytes cut every `per` (R181). -/
def piecesOf (n per : Nat) : List (Nat × Nat) :=
  (List.range ((n + per - 1) / per)).map fun i => (i * per, min per (n - i * per))

/-- Zero bytes that fill the last aligned tile of an HBM write (R174). -/
def padOf (kind n : Nat) : Nat := if kind = 2 then (2048 - n % 2048) % 2048 else 0

/-- The far memory of a transfer of logical core `c`: kind, unit, byte offset; none for a remote device and for a peer
without a site. -/
def HostSide.farOf (h : HostSide) (c : Nat) (t : Xfer) : Option (Nat × Nat × Nat) :=
  match t.space with
  | 0 => (h.siteOf (c / 8 * 8 + t.peer)).map fun s => (0, s, t.far)
  | 1 => some (1, c / 8, t.far)
  | 2 => some (2, t.far / 2 ^ 32, t.far % 2 ^ 32)
  | 3 => some (1, t.peer, t.far)
  | _ => none

/-- The bytes of a piece as they arrived: those a corruption in transit left, else those sent. It fails its check when the CRC-32C of
what arrived is not that of what was sent (R181). -/
def arrived (bad : List (Nat × List Byte)) (i : Nat) (sent : List Byte) : List Byte × Bool :=
  match bad.find? (fun x => x.1 == i) with
  | some x =>
    let got := (x.2 ++ List.replicate sent.length 0).take sent.length
    (got, crc32c got != crc32c sent)
  | none => (sent, false)

/-- Lands plain bytes in pieces of `per` bytes (R181), the last one with `pad` zero bytes behind it (R174). Each piece that fails its
check is counted against its destination tile and poisons what it touches (R182). Answers whether anything failed. -/
def HostSide.landPieces (h : HostSide) (e : Env) (kind unit off per : Nat) (bs : List Byte) (bad : List (Nat × List Byte)) :
    HostSide × Bool :=
  let ps := piecesOf bs.length per
  (List.range ps.length).zip ps |>.foldl (fun acc x =>
    let (got, corrupt) := arrived bad x.1 ((bs.drop x.2.1).take x.2.2)
    let h := if corrupt then acc.1.csumFail e 3 unit ((off + x.2.1) / 2048 * 2048) else acc.1
    let got := if x.1 + 1 = ps.length then got ++ List.replicate (padOf kind bs.length) 0 else got
    let (h, f) := h.landPiece e kind unit (off + x.2.1) got corrupt
    (h, acc.2 || f)) (h, false)

/-- Moves the data of a LOAD into the scratchpad of `site`, or of a STORE out of it, with what the source's SRAM reads met (R184).
Answers whether any piece failed. -/
def HostSide.moveData (h : HostSide) (e : Env) (c site : Nat) (t : Xfer) (bad : List (Nat × List Byte)) (data : List Byte) (ecc : Ecc) :
    HostSide × Bool :=
  let stored := storedBytes t.rif t.len
  let per := if t.rif = 0 then 2048 else rifTileBytes t.rif
  let u8 := t.rif != 0 && t.u8.getD (h.u8Window (c / 8) t.space t.far)
  let far := h.farOf c t
  -- source tiles are used (R180), whole
  let src : Nat × Nat × Nat := if t.load then far.getD (3, 0, 0) else (0, site, t.spa)
  let srcLen := if t.load then stored else t.len * 64
  let h := h.eccUse e src.1 src.2.1 ecc
  let srcSt := if src.1 == 3 then ({} : Store) else h.storeOf src.1 src.2.1
  let (h, _) := if src.1 == 3 then (h, false) else h.useStore e src.1 src.2.1 src.2.2 srcLen
  let rowBytes (off n : Nat) : List Byte :=
    if src.1 == 3 then (((t.bytes ++ data).drop off).take n ++ List.replicate n 0).take n else srcSt.read (src.2.2 + off) n
  let srcBad (off n : Nat) : Bool := src.1 != 3 && (srcSt.useFails (src.2.2 + off) n).isSome
  let dst : Nat × Nat × Nat := if t.load then (0, site, t.spa) else far.getD (3, 0, 0)
  let ps := piecesOf stored per
  let pad := if t.load then 0 else padOf dst.1 stored
  let one (acc : HostSide × Bool) (i : Nat) (p : Nat × Nat) : HostSide × Bool :=
    let (h, fails) := acc
    let (sent, sb) :=
      if t.rif != 0 && !t.load then (rifEncodeTile t.rif u8 (rowBytes (i * 2048) 2048), srcBad (i * 2048) 2048)
      else (rowBytes p.1 p.2, srcBad p.1 p.2)
    let (got, fails0) := arrived bad i sent
    let corrupt := fails0 || (t.bad0 && i == 0)
    let dOff := if t.rif != 0 && t.load then i * 2048 else p.1
    let bs := if t.rif != 0 && t.load then rifDecodeTile t.rif u8 got else got
    let h := if fails0 then
        (h.csumFail e 3 dst.2.1 ((dst.2.2 + dOff) / 2048 * 2048)).countK (c / 8) 0x0C 1 else h
    if dst.1 == 3 then ({ h with remoteSent := h.remoteSent ++ got }, fails || sb || corrupt)
    else
      -- the last piece of an HBM write brings the zero bytes that fill its tile (R174)
      let bs := if i + 1 = ps.length then bs ++ List.replicate pad 0 else bs
      let (h, f) := h.landPiece e dst.1 dst.2.1 (dst.2.2 + dOff) bs (sb || corrupt)
      (h, fails || f)
  let h := if t.space == 4 && !t.load then { h with remoteSent := [] } else h
  let (h, fails) := (List.range ps.length).zip ps |>.foldl (fun acc x => one acc x.1 x.2) (h, false)
  let h := if t.rif = 0 then h else h.countK (c / 8) (if t.load then 0x08 else 0x07) (t.len / 32)
  let h := (match far with
    | some (1, k, _) => if t.space = 3 then h.countAccess t.load 1 k stored else h.countMem t.load 1 k stored
    | some (kind, g, _) => h.countMem t.load kind g stored
    | none => h).countRotation (c / 8) stored
  let h := if 2 ≤ t.space then h.countPort (c / 8) stored else h
  (h.countC c (if t.load then 0x09 else 0x0A) t.len, fails)

/-- A transfer that ends without tokens (R123, R182): a free-mode core stops with cause 7; the tokens of a timed transfer that failed
under R182 are remembered, so that the WAIT that misses them knows the cause (R121). One that a link or a remote window turned away
leaves no such mark. -/
def HostSide.failXfer (h : HostSide) (c site : Nat) (t : Xfer) : HostSide :=
  let mark (g : HostSide) (s : Nat) (tok : Option Nat) : HostSide := match tok with
    | some k => let x := g.core s; if k ∈ x.failTok then g else g.setCore s { x with failTok := x.failTok ++ [k] }
    | none => g
  if !t.timed then h.coreError site 7 t.op
  else if t.down then h
  else
    let h := mark h site t.sig
    match t.dsig, h.siteOf (c / 8 * 8 + t.peer) with
    | some k, some ps => mark h ps (some k)
    | _, _ => h

/-- The tokens of a transfer whose last granule has landed (R120). DEDUCED (log entry 15). -/
def HostSide.signalXfer (h : HostSide) (c : Nat) (t : Xfer) : HostSide :=
  let h := match t.sig with | some k => h.addToken c k 1 | none => h
  match t.dsig with | some k => h.addToken (c / 8 * 8 + t.peer) k 1 | none => h

/-- The serving job of a partition: with EN its oldest job. DEDUCED (log entry 37). -/
def HostSide.servingJob (h : HostSide) (p : Nat) : Option Job :=
  if h.on (Reg.SRV_CTRL.EN (p - 1)) then h.comp.jobs.find? fun j => j.part == p && j.state != 0 else none

/-- A core of a serving job has stored the step-end address (R374); that of another job has no effect. -/
def HostSide.stepEndStore (h : HostSide) (c site : Nat) : HostSide :=
  match (h.core site).job with
  | none => h
  | some j =>
    match h.comp.jobs.find? (fun x => x.id == j && (h.servingJob x.part).map (·.id) == some j) with
    | none => h
    | some jb =>
      let sv := SMap.get (fun _ => ({} : Serving)) h.comp.serving jb.part
      if c ∈ sv.stepEnd then h
      else { h with comp := { h.comp with serving := h.comp.serving.put jb.part { sv with stepEnd := sv.stepEnd ++ [c] } } }

/-- A transfer to or from a control address lands, with whether it failed. `none`: it has not had its effect yet (a post, a release
or a batch-free of the consumer core, whose own row comes first; one of another core is ignored, R393). `bad`: what corruption in
transit left of its granules (R181). One that fails has its effect all the same, since a failed piece is still written, but for a
counter STORE, which writes no configuration (R182). DEDUCED (log entry 15). -/
def HostSide.landControl (h : HostSide) (e : Env) (c site : Nat) (t : Xfer) (x : Control) (bad : List (Nat × List Byte)) :
    Option (HostSide × Bool) :=
  let (got, corrupt) := arrived bad 0 t.bytes
  let h := if corrupt then
      (if t.load then h.csumFail e 3 site (t.spa / 2048 * 2048) else h.csumFail e 3 (c / 8) 0).countK (c / 8) 0x0C 1 else h
  let h := h.countC c (if t.load then 0x09 else 0x0A) t.len
  let read := h.landPiece e 0 site t.spa got corrupt
  let fails := t.dropped || corrupt
  match x with
  | .post _ => if t.took then some (h, fails) else none
  | .release _ => if t.took then some (h, fails) else none
  | .batchFree => if t.took || h.get Reg.HDW_BATCH_CFG.CORE != c then some (h, fails) else none
  | .stepEnd => some (h.stepEndStore c site, fails)
  | .counters =>
    if t.load then some read
    else if fails then some (h, true)
    else some (forN 16 (fun j g =>
      g.writeCfg (0x608000 + c * 0x100 + j * 0x10) true (BitVec.ofNat 32 (leNat ((got.drop (4 * j)).take 4) % 2 ^ 24))) h, false)
  | .globals _ => some read

/-- A transfer's last granule lands (R196): the oldest transfer of logical core `c` to `space` (R175) moves its data and
signals its tokens, or fails without tokens (R182). `bad`: pieces a corruption in transit reached, with the bytes that
arrived; `down`: an Ifepen link went down under it (R76), or the remote device refused it (R176); `data`: what a remote device
returned to a LOAD; `ecc`, `merge`: what the SRAM reads of the source, and of the tiles it merges into at the destination, met (R184). A timed transfer has moved through every table of its path
(R190). It waits until HBM serves (R201) and for a sleeping cluster (R437). DEDUCED (log entry 15). -/
def execTransferComplete (c space : Nat) (bad : List (Nat × List Byte)) (down : Bool) (data : List Byte) (ecc merge : Ecc)
    (s : State) : Host.Outcome State Fault Refusal :=
  s.onData fun e h =>
    match h.siteOf c with
    | none => h
    | some site =>
      let sel (t : Xfer) : Bool := t.space == space && !t.parked
      match (h.core site).xfers.find? sel with
      | none => h
      | some t =>
        let lost := t.space == 4 && (down || t.down)
        if (t.space == 2 && !h.hbmUp) || (t.space == 3 && h.asleep t.peer) || (!lost && !t.moved_ c) then h
        else
          let out (g : HostSide) : HostSide := g.setCore site { g.core site with xfers := dropFirst sel (g.core site).xfers }
          match t.space == 1, controlOf t.far with
          | true, some x =>
            (match (if t.load then h.eccUse e 0 site merge else h).landControl e c site t x bad with
              | some (g, fails) => if fails then (out g).failXfer c site t else (out g).signalXfer c t
              | none => h)
          | _, _ =>
            if t.space == 0 && (h.liveSite (c / 8 * 8 + t.peer)).isNone then out h
            else if lost then (out h).failXfer c site { t with down := true }
            else
              let sink : Nat × Nat := if t.load then (0, site) else match h.farOf c t with | some (k, u, _) => (k, u) | none => (2, 0)
              let (g, fails) := (h.eccUse e sink.1 sink.2 merge).moveData e c site t bad data ecc
              if fails || t.dropped then (out g).failXfer c site t else (out g).signalXfer c t

/-! ### Stripe channels (R157 to R163) -/

def HostSide.chan (h : HostSide) (k i : Nat) : Lsc := SMap.get (fun _ => {}) h.lsc (k * 16 + i)
def HostSide.setChan (h : HostSide) (k i : Nat) (x : Lsc) : HostSide := { h with lsc := h.lsc.put (k * 16 + i) x }

/-- Consumers of a channel. -/
def HostSide.consumers (h : HostSide) (k i : Nat) : List Nat :=
  (List.range 8).filter (bit (h.get (Reg.LSC_CONS.MASK k i)))
/-- Slots of a channel's ring; 0 acts as 1 (R163). -/
def HostSide.chanSlots (h : HostSide) (k i : Nat) : Nat := max 1 (h.get (Reg.LSC_CFG.SLOTS k i))

/-- Releases of consumer j. -/
def Lsc.relOf (x : Lsc) (j : Nat) : Nat := SMap.get (fun _ => 0) x.rel j

/-- Shows a channel's counts in its registers (R163). -/
def HostSide.showChan (h : HostSide) (k i : Nat) : HostSide :=
  let x := h.chan k i
  let held := if h.on (Reg.LSC_CFG.EN k i) && x.frees < x.posts then
      ((h.consumers k i).filter fun j => x.relOf j ≤ x.frees).foldl (fun n j => n + 2 ^ j) 0 else 0
  ((h.set (Reg.LSC_POSTED k i) x.posts).set (Reg.LSC_FREED k i) x.frees).set (Reg.LSC_HELD k i) held

/-- Frees the slots whose posts every consumer has released, in post order (R159): a core producer is owed its FREE_TOK, a pipe
producer its notice. -/
def HostSide.freeSlots (h : HostSide) (k i : Nat) : HostSide :=
  let x := h.chan k i
  let f := (h.consumers k i).foldl (fun m j => min m (x.relOf j)) x.posts
  let n := f - x.frees
  let core := h.on (Reg.LSC_CFG.PROD k i)
  (h.setChan k i { x with frees := x.frees + n, freeDue := if core then x.freeDue + n else x.freeDue,
                          pipeDue := if core then x.pipeDue else x.pipeDue + n }).showChan k i

/-- A post takes effect: it fills the next slot, even one not freed (OVER_POST, R162), and RDY_TOK is owed. Consumers that are
none free it at once (R157). Post n, counted from 0 after the enable, makes a trace record (R158, R410). -/
def HostSide.postChan (h : HostSide) (e : Env) (k i : Nat) : HostSide :=
  let x := h.chan k i
  let n := h.chanSlots k i
  let h := if n ≤ x.posts && x.frees ≤ x.posts - n then h.set (Reg.LSC_ERR.OVER_POST k i) 1 else h
  let h := h.traceDue e k 4 k (toLE 4 i ++ toLE 4 x.posts)
  ((h.setChan k i { x with posts := x.posts + 1, rdyDue := x.rdyDue + 1 }).countK k 0x05 1).freeSlots k i

/-- A pipe's stripe post on a channel bound to the first context of the armed recipe, or of an older one whose items are still
open (R24), begins a schedule iteration, anchored at the next period boundary (R207). The first one of the armed recipe after a
re-arm restarts its schedule (R213); `first` is the count of the stripe's first line. DEDUCED (log entry 16). -/
def HostSide.anchor (h : HostSide) (k i first : Nat) : HostSide :=
  let x := h.get (Reg.LSC_CFG.PCTX k i)
  let mine := match h.insp.armed with | some r => r.ctxs.head? == some x | none => false
  if h.insp.await && mine && h.insp.respare.isEmpty && h.insp.haltReq.isNone then
    { h.setBits Reg.DET_INT_STATUS 4 with
      insp := { h.insp with iterDue := true, await := false, halted := false, restart := some first } }
  else if !h.insp.halted && (mine || h.insp.olds.any fun r => h.runs r && r.ctxs.head? == some x) then
    { h with insp := { h.insp with iterDue := true } }
  else h

/-- The site of logical core 8k + j when its next control transfer is `want` and every earlier transfer it must follow has
completed (R158, R159): it is the oldest of its core's SPACE 1 transfers still without effect, and no older LOAD (for a
release) or STORE (for a post) of SPACE 3 names the same line store. -/
def HostSide.ctlReady (h : HostSide) (k j : Nat) (want : Control) : Option Nat :=
  match h.siteOf (k * 8 + j) with
  | none => none
  | some site =>
    match (h.core site).xfers.find? (fun t => t.space == 1 && !t.took) with
    | some t =>
      let before := (h.core site).xfers.takeWhile fun t => !(t.space == 1 && !t.took)
      let rel := match want with | .release _ => true | _ => false
      if controlOf t.far == some want && !t.load && !(before.any fun u => u.space == 3 && u.peer == k && u.load == rel)
      then some site else none
    | none => none

/-- Marks a core's oldest line-store transfer without effect as taken. -/
def HostSide.takeCtl (h : HostSide) (site : Nat) : HostSide :=
  h.setCore site { h.core site with
    xfers := modFirst (fun t => t.space == 1 && !t.took) (fun t => { t with took := true }) (h.core site).xfers }

/-- A post to channel `h` of cluster `k` takes effect (R158): one of its pipe producer first, else one of a core of the
cluster, lowest core first. A core's post to a channel that is off is ignored and sets OFF_ACCESS (R162). -/
def execStripePost (k h : Nat) (s : State) : Host.Outcome State Fault Refusal :=
  s.onData fun e g =>
    if 8 ≤ k || 16 ≤ h then g
    else
      let x := g.chan k h
      match x.pipePosts with
      | first :: rest =>
        let g := g.setChan k h { x with pipePosts := rest }
        if g.on (Reg.LSC_CFG.EN k h) then (g.postChan e k h).anchor k h first else g
      | [] =>
        match (List.range 8).find? (fun j => (g.ctlReady k j (.post h)).isSome) with
        | none => g
        | some j =>
          (match g.ctlReady k j (.post h) with
            | none => g
            | some site =>
              let g := g.takeCtl site
              if g.on (Reg.LSC_CFG.EN k h) then g.postChan e k h else g.set (Reg.LSC_ERR.OFF_ACCESS k h) 1)

/-- A release of consumer `j` takes effect (R159): it ends the consumer's hold on its next post and may free slots. From a core
outside MASK, or one that has released every post, it is ignored and sets BAD_REL; on a channel that is off OFF_ACCESS (R162). -/
def execStripeRelease (k h j : Nat) (s : State) : Host.Outcome State Fault Refusal :=
  s.onData fun _ g =>
    if 8 ≤ k || 16 ≤ h || 8 ≤ j then g
    else
      match g.ctlReady k j (.release h) with
      | none => g
      | some site =>
        let g := g.takeCtl site
        let x := g.chan k h
        if !g.on (Reg.LSC_CFG.EN k h) then g.set (Reg.LSC_ERR.OFF_ACCESS k h) 1
        else if !(j ∈ g.consumers k h) || x.posts ≤ x.relOf j then g.set (Reg.LSC_ERR.BAD_REL k h) 1
        else ((g.setChan k h { x with rel := x.rel.put j (x.relOf j + 1) }).countK k 0x06 1).freeSlots k h

/-- Sixteen CORE cycles after a post, RDY_TOK of every consumer is incremented, in one cycle (R158). -/
def execRdyTokSignal (k h : Nat) (s : State) : Host.Outcome State Fault Refusal :=
  s.onData fun _ g =>
    if 8 ≤ k || 16 ≤ h || (g.chan k h).rdyDue = 0 then g
    else
      let x := g.chan k h
      (g.consumers k h).foldl (fun g j => g.addToken (8 * k + j) (g.get (Reg.LSC_CONS.RDY_TOK k h)) 1)
        (g.setChan k h { x with rdyDue := x.rdyDue - 1 })

/-- Sixteen CORE cycles after a free, FREE_TOK of the core producer is incremented (R159). -/
def execFreeTokSignal (k h : Nat) (s : State) : Host.Outcome State Fault Refusal :=
  s.onData fun _ g =>
    if 8 ≤ k || 16 ≤ h || (g.chan k h).freeDue = 0 then g
    else
      let x := g.chan k h
      (g.setChan k h { x with freeDue := x.freeDue - 1 }).addToken (8 * k + g.get (Reg.LSC_CFG.PCORE k h))
        (g.get (Reg.LSC_CFG.FREE_TOK k h)) 1

/-- Partition of a cluster (R20): 0 verdict, 1 to 8 shared. -/
def HostSide.partOf (h : HostSide) (k : Nat) : Option Nat := h.comp.part.find k

/-- The schedule loader owns the channel and window registers of a cluster of the verdict partition while a recipe is armed
(R163, R170). -/
def HostSide.loaderOwns (h : HostSide) (k : Nat) : Bool := h.insp.armed.isSome && h.partOf k == some 0

/-- Would enabling channel `i` of cluster `k` with configuration `v` break R157? -/
def HostSide.chanRefused (h : HostSide) (k i : Nat) (v : Word) : Bool :=
  let f (r : RF) : Nat := r.ofWord v
  let ctx := f (Reg.LSC_CFG.PCTX 0 0)
  let dst := f (Reg.LSC_CFG.PDEST 0 0)
  f (Reg.LSC_CFG.PROD 0 0) == 0 &&
    (max 1 (f (Reg.LSC_CFG.SLOTS 0 0)) != h.act ctx (Reg.DEST_SLOTS ctx dst) ||
      (List.range 128).any fun n =>
        n != k * 16 + i && h.on (Reg.LSC_CFG.EN (n / 16) (n % 16)) && !h.on (Reg.LSC_CFG.PROD (n / 16) (n % 16))
          && h.get (Reg.LSC_CFG.PCTX (n / 16) (n % 16)) == ctx && h.get (Reg.LSC_CFG.PDEST (n / 16) (n % 16)) == dst)

/-- Bits of LSC_CFG. -/
def lscCfgMask : Word := 0x0FFFFFFF#32

/-- A write of LSC_CFG (R163): ignored where the loader owns the channel. With EN = 1: ignored while the channel is on; refused
under R157 (the channel stays off); else the channel is on and its counters are zero. With EN = 0 it is off, its holds are discarded
and its slots freed. -/
def HostSide.lscWrite (g : HostSide) (k h : Nat) (v : Word) : HostSide :=
  let w := v &&& lscCfgMask
  let a := (Reg.LSC_CFG.EN k h).addr
  if g.loaderOwns k then g
  else if v.getLsbD 0 then
    if g.on (Reg.LSC_CFG.EN k h) then g
    else if g.chanRefused k h w then (g.setWord a (w &&& ~~~ 1#32)).set (Reg.LSC_ERR.CFG_REFUSED k h) 1
    else ((g.setWord a w).setChan k h {}).showChan k h
  else
    let x := g.chan k h
    let was := g.on (Reg.LSC_CFG.EN k h)
    let g := g.setWord a w
    if was then (g.setChan k h { posts := x.posts, frees := x.posts }).showChan k h else g

/-- Writing LSC_CFG with EN = 1 (R163). -/
def execLscEnable (k h : Nat) (v : Word) (s : State) : Host.Outcome State Fault Refusal :=
  s.onBar fun _ g =>
    if 8 ≤ k || 16 ≤ h then g
    else match g.sleepWrite (Reg.LSC_CFG.EN k h).addr (v ||| 1#32) with
      | some g => g
      | none => g.lscWrite k h (v ||| 1#32)

/-- Writing LSC_CFG with EN = 0 (R163): holds are discarded and every slot is freed, without a signal. -/
def execLscDisable (k h : Nat) (v : Word) (s : State) : Host.Outcome State Fault Refusal :=
  s.onBar fun _ g =>
    if 8 ≤ k || 16 ≤ h then g
    else match g.sleepWrite (Reg.LSC_CFG.EN k h).addr (v &&& ~~~ 1#32) with
      | some g => g
      | none => g.lscWrite k h (v &&& ~~~ 1#32)

/-! ### Remote accesses (R176) -/

/-- Does an enabled remote window admit the access (R176)? `far` is coded as in R173: bit 44 the target kind, bits 43 to 41 the
cluster, the rest the address. -/
def HostSide.rwinOk (h : HostSide) (port far n : Nat) : Bool :=
  let ls := bit far 44
  let a := if ls then far % 2 ^ 24 else far % 2 ^ 36
  (List.range 4).any fun i =>
    h.on (Reg.MEM_RWIN_CTRL.EN i) && bit (h.get (Reg.MEM_RWIN_CTRL.PORTS i)) port
      && (h.get (Reg.MEM_RWIN_CTRL.TARGET i) == b2n ls) && (!ls || h.get (Reg.MEM_RWIN_CTRL.CLUSTER i) == far / 2 ^ 41 % 8)
      && h.get (Reg.MEM_RWIN_BASE i) * 4096 ≤ a && a + n ≤ h.get (Reg.MEM_RWIN_LIMIT i) * 4096

/-- A remote access arrives (R176): served inside an enabled window that names the port, the target kind and the cluster;
otherwise it writes and returns nothing and is counted. A write of `data` comes in pieces of its Riffle coding `rif`, of which `bad`
were changed in transit (R181). A read answers with `len` bytes in `remoteReply`; `ecc`: what its SRAM reads met, those of
the tiles that a write merges into among them (R184). -/
def execRemoteAccessRx (port : Nat) (write : Bool) (far len rif : Nat) (data : List Byte) (bad : List (Nat × List Byte)) (ecc : Ecc)
    (s : State) : Host.Outcome State Fault Refusal :=
  s.onData fun e h =>
    if e.variant.ports ≤ port then h
    else
      let n := if write then data.length else len
      let ls := bit far 44
      let kind := if ls then 1 else 2
      let unit := if ls then far / 2 ^ 41 % 8 else far / 2 ^ 32 % 16
      let off := if ls then far % 2 ^ 24 else far % 2 ^ 32
      let fits := if ls then off + n ≤ 0x800000 else unit < e.variant.groups && off % 2048 == 0 && off + n ≤ 0xC0000000
      if !h.rwinOk port far n || !fits then
        { h.inc Reg.MEM_RWIN_REFUSED 1 with remoteReply := [] }
      else if (if kind == 2 then !h.hbmUp else h.asleep unit) then h
      else if write then
        ((({ h with remoteReply := [] }.eccUse e kind unit ecc).landPieces e kind unit off (if rif = 0 then 2048 else rifTileBytes rif)
          data bad).1).countAccess false kind unit n
      else
        let (g, _) := ((h.eccUse e kind unit ecc).countAccess true kind unit n).useStore e kind unit off n
        { g with remoteReply := (g.storeOf kind unit).read off n }

end Sys2Proof.Machine
end

