-- ==== Sys2Proof/Machine/Sluice.lean ====
section
/-! DEFINITION. Sluice tables: commits, swaps, slots and refresh (R186 to R196), the open-slot arbiters (R197 to R200), HBM
start-up (R201). -/

namespace Sys2Proof.Machine
open Sys2Proof

/-! ### Table copies -/

def shadowAddr (n i : Nat) : Nat := 0x108000 + n * 0x800 + 4 * i
def activeAddr (n i : Nat) : Nat := 0x108400 + n * 0x800 + 4 * i
/-- Entry of slot `i` in the shadow and in the active copy (R188, R204). -/
def HostSide.shadow (h : HostSide) (n i : Nat) : Nat := (h.word (shadowAddr n i)).toNat
def HostSide.active (h : HostSide) (n i : Nat) : Nat := (h.word (activeAddr n i)).toNat
/-- KIND, DIR and STREAM of an entry (R188). -/
def slotKind (x : Nat) : Nat := x % 4
def slotDir (x : Nat) : Nat := x / 4 % 2
def slotStream (x : Nat) : Nat := x / 256 % 256

def HostSide.arb (h : HostSide) (n : Nat) : SluArb := SMap.get (fun _ => {}) h.slu n
def HostSide.setArb (h : HostSide) (n : Nat) (x : SluArb) : HostSide := { h with slu := h.slu.put n x }

/-- Is an ID one of a requester the product has (R189)? -/
def streamOk (v : Variant) (id : Nat) : Bool := id < 128 || (id < 192 && (id - 128) / 8 < v.pipes) || id == 192

/-- The condition of R193 that a table's entries break first, given as a function of the slot; 0 for none. Cause 5 is the
caller's. -/
def slotsCause (v : Variant) (n : Nat) (ent : Nat → Nat) : Nat :=
  let count (p : Nat → Bool) : Nat := ((List.range 256).filter fun i => p (ent i)).length
  let ref := count fun x => slotKind x == 2
  let open_ := count fun x => slotKind x == 0
  if n < 16 && ref < 5 then 1
  else if n < 16 && ref + open_ < 10 then 2
  else if 16 ≤ n && 0 < ref then 3
  else if 0 < count fun x => slotKind x == 1 && !streamOk v (slotStream x) then 4
  else 0

/-- The check of R192 and R193 on a table's shadow. -/
def HostSide.sluCheck (h : HostSide) (v : Variant) (n : Nat) (byLoader : Bool) : Nat :=
  let c := slotsCause v n (h.shadow n)
  if c != 0 then c
  else
    let differs := (List.range 256).any fun i =>
      slotKind (h.shadow n i) != slotKind (h.active n i) || slotDir (h.shadow n i) != slotDir (h.active n i)
        || slotStream (h.shadow n i) != slotStream (h.active n i)
    let armedOwns := match h.insp.armed with | some r => n ∈ r.tables | none => false
    if armedOwns && !byLoader && differs then 5 else 0

/-- A commit of one table (R192, R193, R195): ignored while a swap is pending; LOADER_REFUSED while the loader owns the shadow;
a failed check sets INVALID and CAUSE; otherwise the swap is pending. `late`: written after FABRIC cycle 2,016 of the period. -/
def HostSide.commitTable (h : HostSide) (v : Variant) (n : Nat) (late : Bool) : HostSide :=
  if !v.hasTable n || h.on (Reg.SLU_STATUS.PENDING n) then h
  else if h.on (Reg.SLU_STATUS.LOADER n) then h.set (Reg.SLU_STATUS.LOADER_REFUSED n) 1
  else
    let c := h.sluCheck v n false
    if c != 0 then (h.set (Reg.SLU_STATUS.INVALID n) 1).set (Reg.SLU_STATUS.CAUSE n) c
    else (h.set (Reg.SLU_STATUS.PENDING n) 1).setArb n { h.arb n with late := late, byLoader := false }

/-- SLU_CTRL.COMMIT of table `n`, written in FABRIC cycle `cycle` of the period (R192). -/
def execSluCommit (n cycle : Nat) (s : State) : Host.Outcome State Fault Refusal :=
  s.onBar fun e h => h.commitTable e.variant n (2016 < cycle)

/-- MEM_SLU_COMMIT: bit n commits table n; all swap at one boundary (R192). -/
def execMemSluCommit (tables : Word) (cycle : Nat) (s : State) : Host.Outcome State Fault Refusal :=
  s.onBar fun e h => forN 26 (fun n g => if bit tables.toNat n then g.commitTable e.variant n (2016 < cycle) else g) h

/-- SLU_CTRL.ABORT clears a pending swap and leaves the shadow as written (R192); the loader's own tables refuse it (R195). -/
def execSluAbort (n : Nat) (s : State) : Host.Outcome State Fault Refusal :=
  s.onBar fun e h =>
    if !e.variant.hasTable n then h
    else if h.on (Reg.SLU_STATUS.LOADER n) then h.set (Reg.SLU_STATUS.LOADER_REFUSED n) 1
    else h.set (Reg.SLU_STATUS.PENDING n) 0

/-- Swaps the copies of a table (R192). -/
def HostSide.swapTable (h : HostSide) (n : Nat) : HostSide :=
  let h := forN 256 (fun i g =>
    let a := g.word (activeAddr n i)
    (g.setWord (activeAddr n i) (g.word (shadowAddr n i))).setWord (shadowAddr n i) a) h
  (h.set (Reg.SLU_STATUS.PENDING n) 0).set (Reg.SLU_STATUS.COPY n) (h.get (Reg.SLU_STATUS.COPY n) + 1)

/-- Temperature of a stack, read every period; above 85 °C the stack is HOT (R185). -/
def HostSide.stackTemp (h : HostSide) (st t : Nat) : HostSide :=
  let hot := b2n (decide (85 < t))
  ((h.set (Reg.MEM_HBM_TEMP st) t).set (Reg.MEM_HBM_STATUS.HOT st) hot).set
    (if st = 0 then Reg.MEM_STATUS.HOT0 else Reg.MEM_STATUS.HOT1) hot

/-- Refreshes a group needs in a period (R191). -/
def HostSide.refNeed (h : HostSide) (g : Nat) : Nat := if h.on (Reg.MEM_HBM_STATUS.HOT (g / 8)) then 10 else 5

/-- Settles the refreshes of the period that ended: what was not served becomes debt (R191). -/
def HostSide.settleRefresh (h : HostSide) (g : Nat) : HostSide :=
  let x := h.arb g
  (h.inc (Reg.SLU_REF_DEBT g) (h.refNeed g - x.served)).setArb g { x with served := 0 }

/-- Starts one iteration of the schedule: every core with an entry list starts it, or counts it while it still runs one
(R207). DEDUCED (log entry 16). -/
def HostSide.iterate (h : HostSide) (e : Env) : HostSide :=
  h.entries.foldl (fun g p =>
    match g.liveSite p.1 with
    | none => g
    | some site =>
      if g.coreState site == 2 then
        { g with insp := { g.insp with iterPend := g.insp.iterPend.put p.1 (SMap.get (fun _ => 0) g.insp.iterPend p.1 + 1) } }
      else g.startList e p.1 2 p.2.1 true p.2.2) { h with insp := { h.insp with iterDue := false } }

/-! ### Slots of replaced recipes (R195) -/

/-- Writes the loader's own image into a table's shadow copy and commits it for the next period boundary (R195). -/
def HostSide.loaderCommit (h : HostSide) (n : Nat) (ent : Nat → Nat) : HostSide :=
  let h := forN 256 (fun i g => g.setWord (shadowAddr n i) (BitVec.ofNat 32 (ent i))) h
  let h := (h.set (Reg.SLU_STATUS.PENDING n) 1).set (Reg.SLU_STATUS.LOADER n) 1
  h.setArb n { h.arb n with late := false, byLoader := true }

/-- Has a stream a transfer or a list fetch unfinished in table `n`, or its core still a list of a replaced recipe to run, which may
start one (R194)? -/
def HostSide.streamBusy (h : HostSide) (n id : Nat) : Bool :=
  match h.siteOf (id % 64) with
  | none => false
  | some site =>
    let x := h.core site
    let old := h.coreState site == 2 && h.insp.armed.map (·.id) != some x.recipe
    if id < 64 then old || x.xfers.any fun t => t.timed && 0 < t.leftIn id n
    else if id < 128 then old || x.fetchNow.any fun t => 0 < t.leftIn (id - 64) n
    else false

/-- Before the loader's copy of a table comes into force, its slots of streams that have become busy again stay (R194). -/
def HostSide.keepBusy (h : HostSide) (n : Nat) : HostSide :=
  forN 256 (fun i g =>
    let a := h.active n i
    if slotKind a == 1 && slotKind (h.shadow n i) != 1 && h.streamBusy n (slotStream a) then g.setWord (shadowAddr n i) (BitVec.ofNat 32 a)
    else g) h

/-- Does a slot of the active copy belong to a recipe alone: one that owns it and none of `keep` does? -/
def HostSide.onlyOf (h : HostSide) (r : Recipe) (keep : List Recipe) (n i : Nat) : Bool :=
  slotKind (h.active n i) == 1 && r.owns n i && !keep.any fun k => k.owns n i

/-- The slots that only replaced or disarmed recipes without items to judge own become OPEN, once their streams have nothing
unfinished; a table with a host swap pending waits for it (R24, R194, R195). A recipe without items and without slots is forgotten. -/
def HostSide.retireOlds (h : HostSide) : HostSide :=
  let done := h.insp.olds.filter fun r => !h.runs r
  if done.isEmpty then h
  else
    let keep := h.keepers
    let gone (n i : Nat) : Bool := done.any (fun r => h.onlyOf r keep n i) && !h.streamBusy n (slotStream (h.active n i))
    let g := forN 26 (fun n g =>
      if (List.range 256).any (gone n) && (!g.on (Reg.SLU_STATUS.PENDING n) || (g.arb n).byLoader) then
        g.loaderCommit n fun i => if gone n i then 0 else h.active n i
      else g) h
    let stays (r : Recipe) : Bool := h.runs r || h.insp.items.any (fun i => i.recipe == r.id)
      || (List.range 26).any (fun n => (List.range 256).any (h.onlyOf r keep n))
    { g with insp := { g.insp with olds := g.insp.olds.filter stays } }

/-! ### Slots (R190, R191) -/

/-- Granules a slot of a table moves (R186). -/
def slotCap (n : Nat) : Nat := if n < 16 then 12 else if n < 18 then 16 else 8

/-- Granules of a core's stream that wait in the crossing buffer before table `k`, having passed table `n` (R190). -/
def waitsAt (c n k : Nat) (l : List Xfer) : Nat :=
  (l.filter fun t => t.timed && ((pathOf c t).dropWhile (· != n)).tail.head? == some k).foldl (fun m t => m + t.readyIn c k) 0

/-- Granules that a transfer moves through table `n` in a slot. -/
def Xfer.slotGrans (t : Xfer) (c n : Nat) : Nat := min (slotCap n) (t.readyIn c n)

/-- A transfer after its move through table `n` in a slot, and the granules of it that overfill the crossing buffer of 48 before the
next table of its path, in which `waits` granules of its stream wait already (R190). -/
def Xfer.slotMove (t : Xfer) (c n : Nat) (waits : Nat → Nat) : Xfer × Nat :=
  let m := t.slotGrans c n
  let (spill, next) := match ((pathOf c t).dropWhile (· != n)).tail.head? with
    | some k => (waits k + m - 48, k)
    | none => (0, n)
  ({ t with moved := t.moved.put n (t.movedIn n + m), dropped := t.dropped || 0 < spill,
            drops := if spill = 0 then t.drops else t.drops.put next (t.dropsAt next + spill) }, spill)

/-- An owned slot of a core's transfer port: its oldest unfinished timed transfer moves what it has ready, up to the slot's capacity.
Granules that overfill the stream's crossing buffer of 48 are dropped, and the transfer will fail (R190). Answers the granules moved. -/
def HostSide.coreSlot (h : HostSide) (e : Env) (n c dir : Nat) : HostSide × Nat :=
  match h.siteOf c with
  | none => (h, 0)
  | some site =>
    let x := h.core site
    let sel (t : Xfer) : Bool := t.timed && (16 ≤ n || t.load == (dir == 0)) && 0 < t.leftIn c n
    match x.xfers.find? sel with
    | none => (h, 0)
    | some t =>
      let (t', spill) := t.slotMove c n (waitsAt c n · x.xfers)
      let h := h.setCore site { x with xfers := modFirst sel (fun _ => t') x.xfers }
      (if 0 < spill && !t.dropped then h.csumFail e 4 n 0 else h, t.slotGrans c n)

/-- An owned slot of a core's fetcher: the list tile it waits for moves the granules it has ready; those that overfill its crossing
buffer of 48 are dropped, and the fetch will fail (R189, R190). Answers the granules moved. -/
def HostSide.fetchSlot (h : HostSide) (e : Env) (n c dir : Nat) : HostSide × Nat :=
  match h.siteOf c with
  | none => (h, 0)
  | some site =>
    let x := h.core site
    match x.fetchNow with
    | none => (h, 0)
    | some t =>
      if (n < 16 && dir != 0) || t.leftIn c n = 0 then (h, 0)
      else
        let (t', spill) := t.slotMove c n (waitsAt c n · [t])
        let h := h.setCore site { x with fetch := t' }
        (if 0 < spill && !t.dropped then h.csumFail e 4 n 0 else h, t.slotGrans c n)

/-- The engine serves one overdue refresh in an open slot (R200). -/
def HostSide.overdueRefresh (h : HostSide) (g : Nat) : HostSide :=
  let x := h.arb g
  let h := match x.holder with
    | some r => (h.inc (Reg.SLU_REVOKE g) 1).setArb g { x with holder := none, revoked := some r, emerg := false }
    | none => h.setArb g { x with emerg := false }
  ((h.inc (Reg.SLU_EMERG g) 1).set (Reg.SLU_REF_DEBT g) (h.get (Reg.SLU_REF_DEBT g) - 1)).countG 0x07 g 1

/-- On-die ECC events of a group's reads (R185): corrected ones counted, uncorrectable ones counted and flagged, and the tiles at the
offsets `ue` that such reads touched poisoned. -/
def HostSide.hbmEcc (h : HostSide) (e : Env) (g ce : Nat) (ue : List Nat) : HostSide :=
  let h := if ce = 0 then h else (h.inc (Reg.MEM_HBM_CE (g / 8)) ce).log e 0x0102 g 0 0 0
  ue.foldl (fun h off =>
    (((h.inc (Reg.MEM_HBM_UE (g / 8)) 1).set (Reg.MEM_HBM_STATUS.UE (g / 8)) 1).log e 0x0203 g 0 off 0).setHbm g
      ((h.hbmOf g).poisonTile (off / 2048))) h

/-- Gauge trace's place among the requesters of an arbiter (R197). -/
def traceReq : Nat := 10

/-- Slot `i` of table `n` (R187 to R191, R199, R200). OWNED: the owning stream moves its granules, or the slot stays empty and is
counted. REFRESH: one refresh. OPEN: an overdue refresh takes it whole, otherwise the holder of the grant moves granules up to its
limit. `ready` is what the holder, or an owner other than a core's transfer port, has ready. `ce`, `ue`: on-die ECC events of the
slot's reads and of the scrub in a refresh (R185). Transfers are held in a global stop, refreshes are not. -/
def execSluiceSlot (n i ready ce : Nat) (ue : List Nat) (s : State) : Host.Outcome State Fault Refusal :=
  s.onHost fun e h =>
    if !e.variant.hasTable n || 256 ≤ i || 2 ≤ h.get Reg.PM_STATUS.DEVICE then h
    else
      let x := h.active n i
      let ecc (h : HostSide) : HostSide := if n < 16 then h.hbmEcc e n ce ue else h
      match slotKind x with
      | 2 =>
        if 16 ≤ n then h
        else
          let a := h.arb n
          ecc ((h.setArb n { a with served := a.served + 1 }).countG 0x07 n 1)
      | 1 =>
        if h.stopped then h
        else
          let id := slotStream x
          let (h, m) :=
            if id < 64 then h.coreSlot e n id (slotDir x)
            else if id < 128 then h.fetchSlot e n (id - 64) (slotDir x)
            else (h, min ready (slotCap n))
          if m = 0 then (h.inc (Reg.SLU_IDLE_OWNED n) 1).countG 0x04 n 1 else ecc (h.countG 0x03 n 1)
      | 0 =>
        if n < 16 && 0 < h.get (Reg.SLU_REF_DEBT n) then ecc (h.overdueRefresh n)
        else if h.stopped then h
        else
          let a := h.arb n
          match a.holder with
          | none => h
          | some _ =>
            let lim := h.get (Reg.SLU_CTRL.BURST_M1 n) + 1
            let m := min ready (min (slotCap n) (lim - a.moved))
            let a := { a with moved := a.moved + m, holder := if lim ≤ a.moved + m then none else a.holder,
                              traced := if a.holder == some traceReq then a.traced + m else a.traced }
            ecc ((h.setArb n a).countG 0x05 n m)
      | _ => h

/-! ### Open-slot arbiters (R197 to R200) -/

/-- Requesters of a table's arbiter (R197): 8 Sluice ports, MOVE, management, Gauge trace, and on fabric arbiters the Ifepen
ports. -/
def requesters (v : Variant) (n : Nat) : Nat := if n < 16 then 11 else 11 + v.ports

/-- The arbiter of table `n` decides the grant for the next FABRIC cycle (R198, R199) from `requests`, one bit per requester as
sampled; `withdrawn`: the requester it grants withdraws in that very cycle, which moves nothing and is counted stale. A grant in
use goes on while its holder requests; a revoked holder is granted again first (R200). Gauge trace requests only within its token
bucket (R197). -/
def execOpenSlotArbitrate (n requests : Nat) (withdrawn : Bool) (s : State) : Host.Outcome State Fault Refusal :=
  s.onData fun e h =>
    if !e.variant.hasTable n || 2 ≤ h.get Reg.PM_STATUS.DEVICE then h
    else
      let a := h.arb n
      let r := requesters e.variant n
      let asks (x : Nat) : Bool := bit requests x && (x != traceReq || 0 < h.gauge.bucket)
      let goes := match a.holder with | some x => asks x | none => false
      if goes || a.emerg then h
      else
        let order := (List.range r).map fun i => (a.first + i) % r
        let again := match a.revoked with | some x => if asks x then some x else none | none => none
        let pick := match again with | some x => some x | none => order.find? asks
        match pick with
        | none => h.setArb n { a with holder := none }
        | some x =>
          if withdrawn then ((h.setArb n { a with holder := none }).inc (Reg.SLU_STALE n) 1).countG 0x06 n 1
          else (h.setArb n { a with holder := some x, moved := 0, first := (x + 1) % r, revoked := none }).inc (Reg.SLU_GRANTS n) 1

/-- The emergency requester of table `n` (R200): on an HBM arbiter the overdue-refresh engine, while the debt is above zero; on a
fabric arbiter the debug capture port, which moves its one granule in open cycles at once. A grant in use is revoked. `stale`: the
request falls on the cycle of a stale grant, which then counts as a revocation. No table runs in DOZE or REST (R201). -/
def execEmergencyRequest (n : Nat) (stale : Bool) (s : State) : Host.Outcome State Fault Refusal :=
  s.onHost fun e h =>
    if !e.variant.hasTable n || 2 ≤ h.get Reg.PM_STATUS.DEVICE then h
    else
      let a := h.arb n
      let revoke (h : HostSide) (em : Bool) : HostSide := match a.holder with
        | some x => (h.setArb n { a with holder := none, revoked := some x, emerg := em }).inc (Reg.SLU_REVOKE n) 1
        | none => (h.setArb n { a with emerg := em }).inc (Reg.SLU_REVOKE n) (b2n stale)
      if n < 16 then (if 0 < h.get (Reg.SLU_REF_DEBT n) then revoke h true else h)
      else (revoke h false).inc (Reg.SLU_EMERG n) 1

/-! ### HBM start-up (R201) -/

/-- Training and zeroing complete: INIT_DONE sets, every tile is zero with a valid checksum; never once a stack has failed. -/
def execHbmInitDone (s : State) : Host.Outcome State Fault Refusal :=
  s.onHost fun _ h =>
    if h.on Reg.MEM_STATUS.FAIL0 || h.on Reg.MEM_STATUS.FAIL1 || h.on Reg.MEM_STATUS.INIT_DONE then h
    else { h.set Reg.MEM_STATUS.INIT_DONE 1 with hbm := [] }

/-- A stack fails training (R201, R451): its FAIL bit sets, INIT_DONE never sets; the class 5 error
0x0501 is entered (R455). -/
def execStackTrainingFail (stack : Nat) (s : State) : Host.Outcome State Fault Refusal :=
  s.onHost fun e h =>
    if e.variant.stacks ≤ stack || h.on Reg.MEM_STATUS.INIT_DONE then h
    else (h.set (if stack = 0 then Reg.MEM_STATUS.FAIL0 else Reg.MEM_STATUS.FAIL1) 1).fatal e 0x0501 stack 0

end Sys2Proof.Machine
end

