-- ==== Sys2Proof/Machine/Inspect.lean ====
section
/-! DEFINITION. VERDICT, line and input digests, and the release of verdicts (R28 to R30, R214, R220 to R224, R340). -/

namespace Sys2Proof.Machine
open Sys2Proof

/-! ### Digests (R220 to R222) -/

/-- The line digest of context `x` (R220). -/
def lineDigest (x : Nat) (d : LineDig) : List Byte :=
  sha3 (asciiOf "KM7LINE1" ++ toLE 2 x ++ toLE 2 (b2n d.missing) ++ toLE 4 d.count ++ toLE 8 d.idx ++ d.raw)

/-- Does an open window need a line of context `x` beyond the store's 4,096 (R222)? -/
def HostSide.needsLine (h : HostSide) (x : Nat) (d : LineDig) : Bool :=
  h.insp.items.any fun i => i.kind < 2 && !i.released && decide (0 ≤ cdiff d.count i.openCount) &&
    (match h.recipeOf i.recipe with | some r => x ∈ r.ctxs | none => false)

/-- LINE_DIGEST_DONE: the oldest line digest of a context that is not complete completes (R220, R222); the store keeps the
context's most recent 4,096 lines, and those of windows not yet judged. -/
def execLineDigestDone (ctx : Nat) (s : State) : Host.Outcome State Fault Refusal :=
  s.onHost fun _ h =>
    let l := modFirst (fun (d : LineDig) => d.dig.isNone) (fun d => { d with dig := some (lineDigest ctx d), raw := [] }) (h.lineDigs ctx)
    let n := (l.getLast?.map (·.idx)).getD 0
    let l := l.filter fun d => n < d.idx + 4096 || h.needsLine ctx d
    if (h.lineDigs ctx).isEmpty then h else { h with insp := { h.insp with lineDigs := h.insp.lineDigs.put ctx l } }

/-- Lines of an item in each input context, in ascending global index (R221). -/
def HostSide.itemLines (h : HostSide) (r : Recipe) (it : Item) : List (Nat × List LineDig) :=
  let range (d : LineDig) : Bool := decide (0 ≤ cdiff d.count it.openCount) &&
    (match it.close with | some k => decide (0 ≤ cdiff k d.count) | none => true)
  ((List.range 128).filter (· ∈ r.ctxs)).map fun x => (x, (h.lineDigs x).filter fun d =>
    match it.lines with
    | some (f, l) => if r.ctxs.head? == some x then decide (f ≤ d.idx) && decide (d.idx ≤ l) else range d
    | none => range d)

/-- Does a line that the item names lack in the store? -/
def HostSide.linesLack (h : HostSide) (r : Recipe) (it : Item) : Bool :=
  match it.lines, r.ctxs.head? with
  | some (f, l), some x => ((h.lineDigs x).filter fun d => decide (f ≤ d.idx) && decide (d.idx ≤ l)).length != l + 1 - f
  | _, _ => false

/-- The input digest over an item's lines (R221). -/
def inputDigest (ls : List (Nat × List LineDig)) : List Byte :=
  sha3 (asciiOf "KM7INPT1" ++ ls.flatMap fun (x, l) => toLE 2 x ++ toLE 4 l.length ++ l.flatMap fun d => d.dig.getD [])

/-- The item digest (R224). DEDUCED (log entry 19). -/
def HostSide.itemDigest (h : HostSide) (r : Recipe) (input core : List Byte) : List Byte :=
  sha3 (asciiOf "KM7ITEM1" ++ (r.hdr.drop 16).take 32 ++ (r.hdr.drop 48).take 32 ++ input ++ h.fwVersion ++ h.unitMap ++ core)

/-! ### Release (R28 to R30, R222, R223, R340) -/

/-- A little-endian field of a verdict block. -/
def blkU (b : List Byte) (off n : Nat) : Nat := leNat ((b.drop off).take n)

/-- The ejection fields: GROUP, WSEL, REF, NUM_M1, FIRST, TARGET_OFF of the verdict block, or the header's defaults when no block
exists (R340). -/
structure EjectFields where
  group : Nat
  wsel : Nat
  ref : Bool
  numM1 : Nat
  first : Nat
  off : Nat
deriving DecidableEq, Repr

def ejectFields (r : Recipe) (b : Option (List Byte)) : EjectFields :=
  match b with
  | some b => { group := blkU b 2 1 % 8, wsel := blkU b 2 1 / 8 % 8, ref := bit (blkU b 2 1) 6, numM1 := blkU b 3 1, first := blkU b 4 1,
                off := blkU b 8 4 }
  | none => { group := r.u 117 1 % 8, wsel := r.u 117 1 / 8 % 8, ref := bit (r.u 117 1) 6, numM1 := r.u 119 1, first := r.u 118 1,
              off := r.u 120 4 }

/-- Counts an UNDECIDED verdict of a cause (R454). -/
def HostSide.undecided (h : HostSide) (cause : Nat) : HostSide :=
  { h.inc (Reg.PM_UNDEC (cause - 1)) 1 with pm := { h.pm with undecWin := h.pm.undecWin + 1 } }

/-- Releases the verdict of an item: record and EJECT_ARM come from the same verdict in the same cycle (R29). `blk`: the verdict
block, when one was read; `cause`: what its core or the halt found, 0 none. A missing or fill line of the item is cause 2, and the
lowest cause is recorded (R223). The closing count of a window that has not closed is a free value. DEDUCED (log entry 19). -/
def HostSide.release (h : HostSide) (e : Env) (it : Item) (blk : Option (List Byte)) (cause : Nat) : HostSide :=
  match h.recipeOf it.recipe with
  | none => h
  | some r =>
    let lines := h.itemLines r it
    let lack := h.linesLack r it
    let bad := lack || lines.any fun x => x.2.any fun d => d.bad
    let cause := if bad && (cause = 0 || 2 < cause) then 2 else cause
    let verdict := if cause != 0 then 3 else match blk with | some b => if bit (blkU b 1 1) 0 then 2 else 1 | none => 3
    let arm := if verdict = 3 then r.default else match blk with | some b => bit (blkU b 1 1) 1 | none => false
    let f := ejectFields r blk
    let (h, close) := match it.close with | some k => (h, k) | none => (let (h, v) := h.free 0x223; (h, v % 2 ^ 32))
    let target := ((if f.ref then close else it.openCount) + f.off) % 2 ^ 32
    let digEn := h.on (Reg.SEAL_CTRL.DIG_EN r.ring)
    let named := it.kind != 2 || it.lines.isSome
    -- every line up to the closing count has come, and its digest is complete (R222)
    let come (x : Nat) : Bool := match it.close with
      | some k => (it.lines.isSome && r.ctxs.head? == some x) || !h.on (Reg.CTX_CTRL.TICK_PAIR x)
          || (h.lineDigs x).any fun d => decide (0 ≤ cdiff d.count k)
      | none => false
    let dig := digEn && it.close.isSome && named && !lack && r.ctxs.all come && lines.all fun x => x.2.all fun d => d.dig.isSome
    let spanned := match it.closeTick, h.insp.stopTick with | some t, some u => decide (t ≤ u) | _, _ => false
    let x := recNew 0
    let x := putLE (putLE (putLE x 0 8 it.seq) 9 1 verdict) 10 1 cause
    let x := putLE x 11 1 (it.kind + 4 * b2n arm + 8 * b2n spanned + 16 * b2n dig)
    let x := match blk with
      | some b =>
        let x := putLE (putLE x 12 2 (blkU b 12 2)) 28 4 (blkU b 16 4)
        let x := putBytes x 40 ((b.drop 40).take 24)
        if it.kind = 2 then putLE x 14 2 (blkU b 14 2) else x
      | none => x
    let x := putLE (putLE (putLE x 16 4 it.openCount) 20 4 close) 24 4 (if arm then target else 0)
    let x := putLE (putLE x 32 4 it.cseqOpen) 36 4 (h.get Reg.DET_CSEQ)
    let x := if dig then (let inp := inputDigest lines; putBytes (putBytes x 64 inp) 96 (h.itemDigest r inp (recCore x))) else x
    let h := if digEn && !dig then (h.inc Reg.DET_DIG_LATE 1).log e 0x0206 r.ring 0 0 it.seq else h
    let h := if verdict = 3 then h.undecided (if cause = 0 then 5 else cause) else h
    let stays := it.kind < 2 && it.close.isNone
    let items := if stays then h.insp.items.map fun i => if i.seq == it.seq then { i with released := true } else i
      else h.insp.items.filter fun i => i.seq != it.seq
    let h := { h with insp := { h.insp with items := items, lastSeq := it.seq } }
    let h := ((h.produce r.ring x).countG 0x40 0 1).traceDue e 8 5 0 (toLE 8 it.seq ++ toLE 1 verdict)
    let o : OutEntry := { seq := it.seq, group := f.group, target := target, verdict := verdict, ring := r.ring }
    let h := if arm then h.eject e o f.first f.numM1 f.wsel else h
    h.retireOlds

/-- Is the verdict of an earlier item of the same recipe still to be released (R35)? -/
def HostSide.waitsTurn (h : HostSide) (it : Item) : Bool :=
  h.insp.items.any fun i => i.recipe == it.recipe && i.seq < it.seq && !i.released

/-- VERDICT_RELEASE: DIGEST_WAIT cycles after its VERDICT the verdict of item `seq` is released (R222). Items of one recipe leave in
item sequence order (R35). -/
def execVerdictRelease (seq : Nat) (s : State) : Host.Outcome State Fault Refusal :=
  s.onData fun e h =>
    match h.insp.items.find? (fun i => i.seq == seq && !i.released) with
    | none => h
    | some it =>
      match it.judged with
      | none => h
      | some (blk, cause) =>
        if h.waitsTurn it then h else h.release e it blk cause

/-- UNDECIDED_RELEASE: item `seq`, which no VERDICT is to judge, is released at the latest moment its bound allows after its
closing line, in item sequence order (R35, R214, R339, R446). -/
def execUndecidedRelease (seq : Nat) (s : State) : Host.Outcome State Fault Refusal :=
  s.onData fun e h =>
    match h.insp.items.find? (fun i => i.seq == seq && !i.released) with
    | none => h
    | some it => if it.forced = 0 || it.closeTick.isNone || h.waitsTurn it then h else h.release e it none it.forced

/-! ### VERDICT (R121, R340) -/

/-- A region item opens when its VERDICT issues (R340): its counts are those of the first context's lines it names. A count that
no line kept gives, or of a block that could not be read, is a free value. A region with a line before the stripe that restarted
the schedule and closing after it is UNDECIDED with cause 5 (R214). -/
def HostSide.openRegion (h : HostSide) (r : Recipe) (blk : Option (List Byte)) (cause : Nat) : HostSide :=
  let line (n : Nat) : Option LineDig := match r.ctxs.head? with
    | some x => (h.lineDigs x).find? fun d => d.idx == n
    | none => none
  let first := match blk with | some b => line (blkU b 24 8) | none => none
  let last := match blk with | some b => line (blkU b 32 8) | none => none
  let (h, oc) := match first with | some d => (h, d.count) | none => (let (h, v) := h.free 0x340; (h, v % 2 ^ 32))
  let (h, cc) := match last with | some d => (h, d.count) | none => (let (h, v) := h.free 0x341; (h, v % 2 ^ 32))
  let straddles := match h.insp.restart, first, last with
    | some c, some a, some z => decide (cdiff a.count c < 0) && decide (0 ≤ cdiff z.count c)
    | _, _, _ => false
  let cause := if straddles && cause = 0 then 5 else cause
  let named := match blk with | some b => max h.insp.named (blkU b 32 8 + 1) | none => h.insp.named
  let h := { h with insp := { h.insp with named := named, unnamed := h.insp.unnamed.filter fun (u : Nat × Nat × Nat) => named ≤ u.1 } }
  h.openItem { kind := 2, openCount := oc, recipe := r.id, close := some cc, closeTick := last.map (·.tick), judged := some (blk, cause),
               lines := blk.map fun b => (blkU b 24 8, blkU b 32 8) }

/-- A VERDICT of the recipe with identity `rid` judges the oldest window item of that recipe not yet judged; for a region recipe it
opens its item; a VERDICT whose window has not opened is kept for it (R24, R340). A replaced recipe opens no further item. DEDUCED
(log entry 19). -/
def HostSide.judge (h : HostSide) (rid : Nat) (blk : Option (List Byte)) (cause : Nat) : HostSide :=
  match h.insp.items.find? (fun i => i.recipe == rid && i.kind < 2 && !i.gap && i.judged.isNone && i.forced == 0 && !i.released) with
  | some i => h.modItem i.seq fun i => { i with judged := some (blk, cause) }
  | none => match h.insp.armed with
    | none => h
    | some r =>
      if r.id != rid then h
      else if r.kind = 2 then h.openRegion r blk cause
      else { h with insp := { h.insp with kept := h.insp.kept ++ [(rid, blk, cause)] } }

/-- VERDICT (R121, R340): the block is read at issue, a use of its tile (R180) whose reads meet `ecc` (R184); a read that fails makes
the item UNDECIDED with cause 1, as data whose transfer failed does, and an unreached token cause 3 (R121, R182). The marks of the
core end here. Only the list of a recipe judges. -/
def execVerdict (c : Nat) (ecc : Ecc) (s : State) : Host.Outcome State Fault Refusal :=
  s.onData fun e h => h.issue e c (· == 14) neverInvalid alwaysReady fun h site w _ =>
    let h := (h.eccUse e 0 site ecc).fly site { sig := sigOf w }
    let x := h.core site
    let off := hb w 1 14 0 * 64
    let fail := x.spad.useFails off 64
    let h := match fail with | some t => h.csumFail e 0 site (t * 2048) | none => h
    let cause := if fail.isSome || x.miss1 then 1 else if x.miss3 then 3 else 0
    let h := h.setCore site { x with miss1 := false, miss3 := false }
    if h.keepers.any fun r => r.id == x.recipe then h.judge x.recipe (if fail.isSome then none else some (x.spad.read off 64)) cause
    else h

end Sys2Proof.Machine
end

