-- ==== Sys2Proof/Machine/Fences.lean ====
section
/-! DEFINITION. Fences, spares, halts and the unit map (R19, R211 to R217, R235, R450). -/

namespace Sys2Proof.Machine
open Sys2Proof

/-! ### Unit map (R217) -/

/-- Fenced positions of a cluster, one bit each. -/
def HostSide.fencedBits (h : HostSide) (k : Nat) : Nat :=
  ((List.range 9).filter fun i => (9 * k + i) ∈ h.insp.fenced).foldl (fun n i => n + 2 ^ i) 0

def HostSide.cluHalted (h : HostSide) (k : Nat) : Bool := bit (h.get Reg.DET_CLU_STATE.HALTED) k
/-- Position whose logical ID moved to the spare; 15 none. -/
def HostSide.movedFromOf (h : HostSide) (k : Nat) : Nat := SMap.get (fun _ => 15) h.insp.movedFrom k

/-- The unit map word of a cluster as its fences now stand (R217). -/
def HostSide.mapWord (h : HostSide) (k : Nat) : Nat :=
  h.fencedBits k + h.movedFromOf k * 2 ^ 9 + b2n (h.cluHalted k) * 2 ^ 13

/-- Sites of a cluster's logical cores by the mapping of R217 for FENCED and MOVED_FROM. -/
def mapSites (k fenced moved : Nat) : List (Nat × Nat) :=
  let rf := if moved < 9 then fenced - fenced / 2 ^ moved % 2 * 2 ^ moved else fenced
  let p := (List.range 9).filter fun i => !bit rf i
  let base := (p.take 8).mapIdx fun j i => (8 * k + j, 9 * k + i)
  if moved < 9 then
    match p[8]? with
    | some spare => base.map fun x => if x.2 == 9 * k + moved then (x.1, 9 * k + spare) else x
    | none => base
  else base

/-- Gives the logical IDs of a cluster their sites; a HALTED word gives no mapping, so the IDs stay (R217). -/
def HostSide.remap (h : HostSide) (k : Nat) : HostSide :=
  if h.cluHalted k then h
  else
    let rest := h.insp.siteOf.filter fun x => x.1 / 8 != k
    { h with insp := { h.insp with
        siteOf := (mapSites k (h.fencedBits k) (h.movedFromOf k)).foldl (fun m x => m.put x.1 x.2) rest } }

/-- Shows the identities of a cluster's sites in CORE_ID (R141). The spare is the healthy site without a logical ID (R19). -/
def HostSide.showIds (h : HostSide) (k : Nat) : HostSide :=
  forN 9 (fun i h =>
    let s := 9 * k + i
    let f := decide (s ∈ h.insp.fenced)
    let lc := h.lcoreOf s
    let h := (h.set (Reg.CORE_ID.LCORE s) (lc.getD 0)).set (Reg.CORE_ID.LVALID s) (b2n lc.isSome)
    (h.set (Reg.CORE_ID.SPARE s) (b2n (!f && lc.isNone))).set (Reg.CORE_ID.FENCED s) (b2n f)) h

/-- Shows a cluster's word in DET_UNITMAP and its sites in CORE_ID. -/
def HostSide.showMap (h : HostSide) (k : Nat) : HostSide :=
  (h.set ⟨0x800 + k / 2 * 4, k % 2 * 16, 16⟩ (h.mapWord k)).showIds k

/-- Logical cores of a cluster on a site that is not fenced. -/
def HostSide.healthy (h : HostSide) (k : Nat) : Nat := ((List.range 8).filter fun j => (h.liveSite (8 * k + j)).isSome).length

/-- The unit map of a cluster changes: a commit point with its record (R217, R225). -/
def HostSide.applyMap (h : HostSide) (k pos : Nat) : HostSide :=
  let h := if pos < 9 then { h with insp := { h.insp with movedFrom := h.insp.movedFrom.put k pos } } else h
  let h := (h.remap k).showMap k
  let h := h.nextCseq
  h.commitRecord 3 0 h.unitMap

/-- A commit point accepted by management waits its turn (R16). -/
def HostSide.addCommit (h : HostSide) (c : Commit) : HostSide :=
  { h with insp := { h.insp with commits := h.insp.commits ++ [c] } }

/-- The hardware's own change of a unit map takes effect at once (R212), or waits for the end of a global stop (R235) or of the
cluster's sleep (R441). DEDUCED (log entry 49). -/
def HostSide.mapChange (h : HostSide) (k pos : Nat) : HostSide :=
  if h.stopped || h.asleep k then h.addCommit (.moveId k pos) else h.applyMap k pos

/-- Is a logical ID of the cluster on its way to the spare (R213)? -/
def HostSide.moving (h : HostSide) (k : Nat) : Bool :=
  h.insp.respare.any (fun x => x.1 == k) || h.insp.commits.any fun c => match c with
    | .moveId clu pos => clu == k && pos < 9
    | _ => false

/-- Drops an accepted re-arm: the recipe is to halt again, and its restart begins anew (R213). -/
def HostSide.dropRearm (h : HostSide) : HostSide :=
  { h with insp := { h.insp with commits := h.insp.commits.filter (· != .rearm) } }

/-- A HALTED cluster that is assigned to a partition: its healthy sites are renumbered by R19 and HALTED clears; with 7 healthy
sites it is degraded (R215). -/
def HostSide.renumber (h : HostSide) (k : Nat) : HostSide :=
  if !h.cluHalted k then h
  else
    let h := h.set Reg.DET_CLU_STATE.HALTED (h.get Reg.DET_CLU_STATE.HALTED - 2 ^ k)
    let h := { h with insp := { h.insp with movedFrom := h.insp.movedFrom.erase k } }
    let h := h.applyMap k 15
    let deg := h.get Reg.DET_CLU_STATE.DEGRADED
    let deg := deg - (if bit deg k then 2 ^ k else 0) + (if h.healthy k = 7 then 2 ^ k else 0)
    (h.set Reg.DET_CLU_STATE.DEGRADED deg).setBits Reg.DET_INT_STATUS 2

/-! ### Stopping cores -/

/-- Sites of a cluster. -/
def cluSites (k : Nat) : List Nat := (List.range 9).map (9 * k + ·)

/-- A site abandons its lists and transfers. -/
def HostSide.clearSite (h : HostSide) (site : Nat) : HostSide :=
  (h.setCore site { h.core site with frames := [], cur := none, ahead := none, xfers := [], flights := [], waiting := none,
                                     miss1 := false, miss3 := false, failTok := [], preempt := false }).showPc site

/-- The cores of a recipe stop and return to IDLE (R213); one in ERROR stays there until a disarm, which keeps CORE_ERR (R450). -/
def HostSide.stopCores (h : HostSide) (r : Recipe) (disarm : Bool) : HostSide :=
  r.lcores.foldl (fun h c => match h.liveSite c with
    | none => h
    | some site =>
      let h' := h.clearSite site
      if h.coreState site == 5 && !disarm then h' else h'.set (Reg.CORE_STATUS.STATE site) 0) h

/-! ### Fences (R211 to R216) -/

/-- A cluster without a spare loses a core: HALTED, which changes its unit map word (R215, R217). A move of a logical ID that was
pending in it, and a re-arm, are dropped. -/
def HostSide.haltCluster (h : HostSide) (e : Env) (k : Nat) : HostSide :=
  let h := if h.cluHalted k then h
    else ((h.set Reg.DET_CLU_STATE.HALTED (h.get Reg.DET_CLU_STATE.HALTED + 2 ^ k)).setBits Reg.DET_INT_STATUS 2).log e 0x0303 k 0 0 0
  let still (c : Commit) : Bool := match c with
    | .moveId clu pos => !(clu == k && pos < 9)
    | _ => true
  ({ h with insp := { h.insp with respare := h.insp.respare.filter fun x => x.1 != k,
                                  commits := h.insp.commits.filter still } }).dropRearm.mapChange k 15

/-- A job's core is fenced while it holds the core: the job fails (R212, R360). -/
def HostSide.failJobOn (h : HostSide) (site : Nat) : HostSide :=
  match (h.core site).job with
  | none => h
  | some j => { h with comp := { h.comp with jobs := h.comp.jobs.map fun x =>
      if x.id == j && x.ending.isNone then { x with ending := some (6, 0xF0) } else x } }

/-- Transfers of the cluster's cores that name a fenced logical ID are discarded (R212). -/
def HostSide.dropNaming (h : HostSide) (k j : Nat) : HostSide :=
  (cluSites k).foldl (fun h s =>
    let x := h.core s
    h.setCore s { x with xfers := x.xfers.filter fun t => !(t.space == 0 && t.peer == j) }) h

/-- The schedule is to halt at the next period boundary; the lowest cause stands (R213, R223). -/
def HostSide.askHalt (h : HostSide) (cause : Nat) : HostSide :=
  { h with insp := { h.insp with haltReq := some (match h.insp.haltReq with | some c => min c cause | none => cause) } }

/-- A core site is fenced (R211, R212). A spare is fenced with no further effect but the map, unless a logical ID was on its way to
it: then the cluster has lost a core without a spare. Otherwise, in a cluster of the armed recipe, the schedule is to halt, and with
AUTO_SPARE the spare is to be loaded (R213). Elsewhere, and with AUTO_SPARE 0, the logical ID moves to the spare at once (R19). A
cluster without a spare is HALTED (R215). -/
def HostSide.fence (h : HostSide) (e : Env) (site cause : Nat) : HostSide :=
  if 72 ≤ site || site ∈ h.insp.fenced then h
  else
    let k := site / 9
    let lc := h.lcoreOf site
    let spare := !(h.insp.fenced.any fun s => s / 9 == k) && !h.cluHalted k
    let h := (h.failJobOn site).clearSite site
    let h := match lc with | some c => h.dropNaming k (c % 8) | none => h
    let h := (h.setCore site { h.core site with job := none }).set (Reg.CORE_STATUS.STATE site) 6
    let h := { h with insp := { h.insp with fenced := (h.insp.fenced.filter (· < site)) ++ site :: h.insp.fenced.filter (site < ·) } }
    let h := ((h.set Reg.DET_FENCE_LAST.SITE site).set Reg.DET_FENCE_LAST.CAUSE cause).inc Reg.DET_FENCE_COUNT 1
    let h := (h.setBits Reg.DET_INT_STATUS 1).log e 0x0301 site cause 0 0
    let h := h.set Reg.DET_CLU_STATE.NOSPARE (h.get Reg.DET_CLU_STATE.NOSPARE ||| 2 ^ k)
    let armed := h.partOf k == some 0 && (match h.insp.armed with | some r => bit r.cluMask k | none => false)
    let lost (h : HostSide) : HostSide := let h := h.haltCluster e k; if armed then h.askHalt 5 else h
    match lc with
    | none => if h.moving k then lost h else h.mapChange k 15
    | some _ =>
      if !spare then lost h
      else if armed && h.on Reg.DET_CTRL.AUTO_SPARE then
        ({ h.dropRearm with insp := { h.dropRearm.insp with respare := h.insp.respare ++ [(k, site % 9)] } }).askHalt 4
      else
        let h := h.mapChange k (site % 9)
        if armed then h.dropRearm.askHalt 4 else h

/-- CORE_FENCE: a site is fenced for a cause of R211 that the hardware finds: 1 to 3 and 6. -/
def execCoreFence (site cause : Nat) (s : State) : Host.Outcome State Fault Refusal :=
  s.onHost fun e h => if cause ∈ [1, 2, 3, 6] then h.fence e site cause else h

/-- DET_FENCE.GO fences SITE with cause 4; during a global stop it waits for the resume (R211, R235). -/
def execDetFenceGo (site : Nat) (s : State) : Host.Outcome State Fault Refusal :=
  s.onBar fun e h =>
    let site := site % 128
    let h := h.set Reg.DET_FENCE.SITE site
    if 72 ≤ site then h
    else if h.stopped then { h with insp := { h.insp with heldFences := h.insp.heldFences ++ [site] } }
    else h.fence e site 4

/-- A sequencer does not answer the management processor's poll: fenced with cause 5 (R211). -/
def execCorePollTimeout (site : Nat) (s : State) : Host.Outcome State Fault Refusal :=
  s.onHost fun e h => h.fence e site 5

/-- The spare of cluster `k`: its healthy site that carries no logical core. -/
def HostSide.spareOf (h : HostSide) (k : Nat) : Option Nat :=
  ((List.range 9).map (9 * k + ·)).find? fun s => !(s ∈ h.insp.fenced) && (h.lcoreOf s).isNone

/-- The background self-test of an idle spare ends (R216); a spare that fails is fenced with cause 6. -/
def execSpareSelfTest (k : Nat) (pass : Bool) (s : State) : Host.Outcome State Fault Refusal :=
  s.onHost fun e h =>
    if 8 ≤ k || !h.on Reg.DET_CTRL.SPARE_TEST then h
    else match h.spareOf k with
      | some site => if pass then h else h.fence e site 6
      | none => h

/-! ### Halt and restart (R213 to R215, R450) -/

/-- RECIPE_HALT: at the period boundary after a fence or a failed fetch the schedule halts. Every open item not judged is to be
released UNDECIDED with the cause of the halt, and a region recipe's lines go to gap windows (R213, R214, R340, R450). -/
def execRecipeHalt (s : State) : Host.Outcome State Fault Refusal :=
  s.onData fun _ h =>
    match h.insp.haltReq, h.insp.armed with
    | some cause, some r =>
      let h := (r :: h.insp.olds.filter h.runs).foldl (fun h r => h.stopCores r false) h
      let h := { h with insp := { h.insp with
        halted := true, await := false, haltReq := none, kept := [], iterDue := false, iterPend := [], restart := none,
        items := h.insp.items.map fun i => i.force cause } }
      match r.ctxs.head? with
      | some x => h.insp.unnamed.foldl (fun h u => h.gapLine x u.1 u.2.1 u.2.2 cause) h
      | none => h
    | _, _ => { h with insp := { h.insp with haltReq := none } }

/-- SPARE_RESTART: the management processor has loaded the spare of cluster `k`; the move of the logical ID and, after the last such
cluster, the re-arm are accepted as commit points (R213). A recipe with a HALTED cluster is not re-armed (R215). DEDUCED
(log entry 63). -/
def execSpareRestart (k : Nat) (s : State) : Host.Outcome State Fault Refusal :=
  s.onData fun _ h =>
    match h.insp.respare.find? (fun x => x.1 == k), h.insp.armed with
    | some (_, pos), some r =>
      if !h.insp.halted || h.insp.haltReq.isSome then h
      else
        let rest := h.insp.respare.filter fun x => x.1 != k
        let h := ({ h with insp := { h.insp with respare := rest } }).addCommit (.moveId k pos)
        let bad := (List.range 8).any fun k => bit r.cluMask k && h.cluHalted k
        if rest.isEmpty && !bad then h.addCommit .rearm else h
    | _, _ => h

end Sys2Proof.Machine
end

