-- ==== Sys2Proof/Machine/Links.lean ====
section
/-! DEFINITION. The lane layer and the CoaXPress camera links (R36 to R65). -/

namespace Sys2Proof.Machine
open Sys2Proof

/-! ### Lanes (R36 to R47) -/

def HostSide.lane (h : HostSide) (l : Nat) : Lane := SMap.get (fun _ => {}) h.lanes l
def HostSide.setLane (h : HostSide) (l : Nat) (x : Lane) : HostSide := { h with lanes := h.lanes.put l x }

/-- Is lane `l` a chain lane (R36)? -/
def chainLane (l : Nat) : Bool := decide (16 ≤ l % 24)

/-- Adds to a 48-bit lane counter, saturating (R40). -/
def HostSide.addLane (h : HostSide) (lo hi : RF) (n : Nat) : HostSide :=
  h.set2 lo hi (min (h.get2 lo hi + n) (2 ^ 48 - 1))

/-- The port and the port lane of a chain lane (R36). -/
def lanePort (l : Nat) : Nat := l / 24 * 4 + (l % 24 - 16) / 2

/-- The chain lane whose generator a lane in near-end loopback hears: 16 + (l mod 8) of its die (R38). -/
def loopLane (l : Nat) : Nat := l / 24 * 24 + 16 + l % 24 % 8

/-- Does a lane hear a transmitter of its own die: near-end loopback, or its port's IFL_CTRL.LOOP (R38, R42, R77)? -/
def HostSide.selfHeard (h : HostSide) (l : Nat) : Bool :=
  h.on (Reg.LANE_CTRL.LOOP l) || (chainLane l && h.on (Reg.IFL_CTRL.LOOP (lanePort l)))

/-- Does a lane hear a running generator (R38, R42, R77)? -/
def HostSide.hearsGen (h : HostSide) (l : Nat) : Bool :=
  h.selfHeard l && h.on (Reg.LANE_PRBS.GEN_EN (loopLane l)) && h.on (Reg.LANE_CTRL.EN (loopLane l))

/-- A generator that a lane has heard for `n` bits has gone on by as many; the first of them took an injected inversion (R38, R41). -/
def HostSide.genOn (h : HostSide) (l n : Nat) : HostSide :=
  if h.hearsGen l && n != 0 then
    let g := loopLane l
    h.setLane g { h.lane g with gen := prbsSkip (h.get (Reg.LANE_PRBS.PAT g)) n (h.lane g).gen, txFlip := false }
  else h

/-- Bits and errors a lane has received since its last command: LANE_BIT counts while it is enabled and in CDR lock, LANE_ERR the
errors of the checker in lock, or of the line code while the checker is off (R39). Bits that have passed take an injected
inversion with them (R41), and the generator they come from and the pattern of a checker in lock go on with them (R38, R39). -/
def HostSide.laneCount (h : HostSide) (l bitsN errs : Nat) : HostSide :=
  let h := h.genOn l bitsN
  let h := if bitsN != 0 && (h.lane l).rxFlip then h.setLane l { h.lane l with rxFlip := false } else h
  let h := if h.on (Reg.LANE_STATUS.PRBS_LOCK l) then
      h.setLane l { h.lane l with chk := prbsSkip (h.get (Reg.LANE_PRBS.PAT l)) bitsN (h.lane l).chk } else h
  let h := if h.on (Reg.LANE_CTRL.EN l) && h.on (Reg.LANE_STATUS.CDR_LOCK l) then
      h.addLane (Reg.LANE_BIT_LO l) (Reg.LANE_BIT_HI l) bitsN else h
  if !h.on (Reg.LANE_PRBS.CHK_EN l) || h.on (Reg.LANE_STATUS.PRBS_LOCK l) then
    h.addLane (Reg.LANE_ERR_LO l) (Reg.LANE_ERR_HI l) errs else h

/-- The next received bit of a lane is to be inverted (R41). -/
def HostSide.flipRx (h : HostSide) (l : Nat) : HostSide :=
  h.setLane l { h.lane l with rxInv := (h.lane l).rxInv + 1, rxFlip := true }

/-- The next transmitted bit of a chain lane is to be inverted (R41). -/
def HostSide.flipTx (h : HostSide) (l : Nat) : HostSide :=
  h.setLane l { h.lane l with txInv := (h.lane l).txInv + 1, txFlip := true }

/-- LANE_INJ.TX: the next transmitted bit of a chain lane is inverted, unless periodic injection replaces it (R41). DESIGN CHOICE
(log entry 21). -/
def execLaneInjTx (l : Nat) (s : State) : Host.Outcome State Fault Refusal :=
  s.onBar fun e h =>
    if e.variant.lanes ≤ l || !chainLane l || h.get (Reg.LANE_INJ.RATE l) != 0 then h
    else h.flipTx l

/-- LANE_INJ.RX: the next received bit is inverted (R41). DESIGN CHOICE (log entry 21). -/
def execLaneInjRx (l : Nat) (s : State) : Host.Outcome State Fault Refusal :=
  s.onBar fun e h => if e.variant.lanes ≤ l || h.get (Reg.LANE_INJ.RATE l) != 0 then h else h.flipRx l

/-- LANE_PERIODIC_INJECT: RATE × 1,024 bits have passed; a chain lane inverts a transmitted bit, a camera lane a received one
(R41). DESIGN CHOICE (log entry 21). -/
def execLanePeriodicInject (l : Nat) (s : State) : Host.Outcome State Fault Refusal :=
  s.onHost fun e h =>
    if e.variant.lanes ≤ l || h.get (Reg.LANE_INJ.RATE l) = 0 || !h.on (Reg.LANE_CTRL.EN l) then h
    else if chainLane l then h.flipTx l else h.flipRx l

/-- LANE_CNT.CLR zeroes LANE_ERR and LANE_BIT (R40). -/
def execLaneCntClr (l : Nat) (s : State) : Host.Outcome State Fault Refusal :=
  s.onBar fun e h =>
    if e.variant.lanes ≤ l then h
    else (h.set2 (Reg.LANE_ERR_LO l) (Reg.LANE_ERR_HI l) 0).set2 (Reg.LANE_BIT_LO l) (Reg.LANE_BIT_HI l) 0

/-- EQ_CLAMP: a lane under override has been out of CDR lock for 100 µs; adaptation resumes, from the peaking in force, and has
reached `peak`. What it comes to is held, shown and counted when lock returns (R37; `cdrChange`). DEDUCED (log entry 21). -/
def execEqClamp (l peak : Nat) (s : State) : Host.Outcome State Fault Refusal :=
  s.onHost fun e h =>
    if e.variant.lanes ≤ l || !h.on (Reg.LANE_EQ.EQ_OVR l) || h.on (Reg.LANE_STATUS.CDR_LOCK l) || (h.lane l).adapting then h
    else (h.setLane l { h.lane l with adapting := true, clamped := false }).set (Reg.LANE_STATUS.PEAK_NOW l) peak

/-- The first of some bits, inverted. -/
def flipFirst : List Bool → List Bool
  | b :: t => (!b) :: t
  | [] => []

/-- What a chain lane puts on the wire for bits it sends: the first one inverted by an injection that waits, all of them by TX_INV
(R41, R42). -/
def HostSide.laneOut (h : HostSide) (l : Nat) (bs : List Bool) : List Bool :=
  (if (h.lane l).txFlip then flipFirst bs else bs).map fun b => b != h.on (Reg.LANE_CTRL.TX_INV l)

/-- The next `n` bits a chain lane's generator puts on the wire: its pattern, inverted by INV (R38, R45). -/
def HostSide.genBits (h : HostSide) (l n : Nat) : List Bool :=
  h.laneOut l ((prbsBits (h.get (Reg.LANE_PRBS.PAT l)) n (h.lane l).gen).1.map fun b => b != h.on (Reg.LANE_PRBS.INV l))

/-- The bits a lane has received, from the wire or from the generator it hears, after the injected inversion and RX_INV (R38, R41,
R42). -/
def HostSide.heard (h : HostSide) (l : Nat) (wire : List Bool) : List Bool :=
  let bs := if h.hearsGen l then h.genBits (loopLane l) wire.length else wire
  (if (h.lane l).rxFlip then flipFirst bs else bs).map fun b => b != h.on (Reg.LANE_CTRL.RX_INV l)

/-- PRBS_LOCK: `bitsN` bits have passed since the lane's last command and then those of `wire`; the checker locks when the last 64
of them are error-free bits of its pattern (R38, R39). -/
def execPrbsLock (l bitsN : Nat) (wire : List Bool) (s : State) : Host.Outcome State Fault Refusal :=
  s.onHost fun e h =>
    if e.variant.lanes ≤ l || !h.on (Reg.LANE_PRBS.CHK_EN l) || !h.on (Reg.LANE_CTRL.EN l) then h
    else
      let pat := h.get (Reg.LANE_PRBS.PAT l)
      let h := h.laneCount l bitsN 0
      let got := ((h.heard l wire).map fun b => b != h.on (Reg.LANE_PRBS.INV l)).drop (wire.length - 64)
      let h := h.laneCount l wire.length 0
      if h.on (Reg.LANE_STATUS.PRBS_LOCK l) || got.length < 64 || !prbsPiece pat got then h
      else (h.setLane l { h.lane l with chk := prbsLast pat got }).set (Reg.LANE_STATUS.PRBS_LOCK l) 1

/-- PRBS_UNLOCK: `bitsN` bits with `errs` errors in lock have passed since the lane's last command, and then those of `wire`; the
checker leaves lock when 32 of its last 1,024 bits are wrong (R39). -/
def execPrbsUnlock (l bitsN errs : Nat) (wire : List Bool) (s : State) : Host.Outcome State Fault Refusal :=
  s.onHost fun e h =>
    if e.variant.lanes ≤ l || !h.on (Reg.LANE_STATUS.PRBS_LOCK l) then h
    else
      let pat := h.get (Reg.LANE_PRBS.PAT l)
      let h := h.laneCount l bitsN errs
      let got := (h.heard l wire).map fun b => b != h.on (Reg.LANE_PRBS.INV l)
      let st := (h.lane l).chk
      let early := prbsErrors pat st (got.take (got.length - 1024))
      let late := prbsErrors pat (prbsSkip pat (got.length - 1024) st) (got.drop (got.length - 1024))
      let h := h.laneCount l wire.length (early + late)
      if 32 ≤ late then h.set (Reg.LANE_STATUS.PRBS_LOCK l) 0 else h

/-- A write of LANE_EQ ends a clamp; an override holds PEAK, and adaptation that starts with the write starts from it (R37, R44).
`was`: the override before the write. -/
def HostSide.laneEqWritten (h : HostSide) (l : Nat) (was : Bool) : HostSide :=
  let h := h.setLane l { h.lane l with adapting := false, clamped := false }
  if was || h.on (Reg.LANE_EQ.EQ_OVR l) then h.set (Reg.LANE_STATUS.PEAK_NOW l) (h.get (Reg.LANE_EQ.PEAK l)) else h

/-- A checker that is off is not in lock (R39). A generator that starts, or takes another pattern, starts it at a place the rules
leave open (R38). GEN_EN is not kept on a camera lane, which has no generator: R45 has the write ignored and leaves open what it reads
back as; it reads 0. DESIGN CHOICE (log entry 21). `old`: the word before the write. -/
def HostSide.lanePrbsWritten (h : HostSide) (l : Nat) (old : Word) : HostSide :=
  let h := if chainLane l then h else h.set (Reg.LANE_PRBS.GEN_EN l) 0
  let h := if h.on (Reg.LANE_PRBS.GEN_EN l) && h.word (Reg.LANE_PRBS.PAT l).addr &&& 7#32 != old &&& 7#32 then
      (let (h, x) := h.free 0x038
       h.setLane l { h.lane l with gen := 1 + x % (2 ^ (prbsTaps (h.get (Reg.LANE_PRBS.PAT l))).1 - 1) })
    else h
  if h.on (Reg.LANE_PRBS.CHK_EN l) then h else h.set (Reg.LANE_STATUS.PRBS_LOCK l) 0

/-- A lane that is not enabled has no power: it detects no signal and is in no lock (R42). DEDUCED (log entry 21). -/
def HostSide.laneDark (h : HostSide) (l : Nat) : HostSide :=
  ((h.set (Reg.LANE_STATUS.SIG_DET l) 0).set (Reg.LANE_STATUS.CDR_LOCK l) 0).set (Reg.LANE_STATUS.PRBS_LOCK l) 0

/-- LANE_CTRL.EN takes a value: a lane that goes off is dark, one that comes on starts its adaptation from PEAK or holds PEAK, unless a
clamp of R37 is in force or under way, which only a write of LANE_EQ ends (R37, R42, R44). -/
def HostSide.lanePower (h : HostSide) (l : Nat) (on : Bool) : HostSide :=
  let was := h.on (Reg.LANE_CTRL.EN l)
  let h := h.set (Reg.LANE_CTRL.EN l) (b2n on)
  if !on then h.laneDark l
  else if was || (h.lane l).adapting || (h.lane l).clamped then h
  else h.set (Reg.LANE_STATUS.PEAK_NOW l) (h.get (Reg.LANE_EQ.PEAK l))

/-! ### Camera links: lanes and states (R49 to R51) -/

def HostSide.link (h : HostSide) (n : Nat) : CxpLink := SMap.get (fun _ => {}) h.links n
def HostSide.setLink (h : HostSide) (n : Nat) (x : CxpLink) : HostSide := { h with links := h.links.put n x }
def HostSide.linkState (h : HostSide) (n : Nat) : Nat := h.get (Reg.CXP_STATE.STATE n)

/-- Does link `n` claim the lanes of link n + 1 (R49)? -/
def HostSide.claims (h : HostSide) (n : Nat) : Bool :=
  n % 2 == 0 && h.linkState n != 0 && h.get (Reg.CXP_CTRL.WIDTH n) == 2 && (h.link n).oddOff && h.linkState (n + 1) == 0

/-- Lanes a link may use: its own two, and the next link's while it claims them (R49). -/
def HostSide.linkLanes (h : HostSide) (n : Nat) : List Nat :=
  let l := n / 8 * 24 + n % 8 * 2
  if h.claims n then [l, l + 1, l + 2, l + 3] else if h.get (Reg.CXP_CTRL.WIDTH n) = 0 then [l] else [l, l + 1]

/-- The link state machine sets and clears LANE_CTRL.EN of its own two lanes, and of those it claims (R42, R49, R51). -/
def HostSide.laneEn (h : HostSide) (n : Nat) (on : Bool) : HostSide :=
  let l := n / 8 * 24 + n % 8 * 2
  ([l, l + 1] ++ if h.claims n then [l + 2, l + 3] else []).foldl (fun g l => g.lanePower l (on && l ∈ h.linkLanes n)) h

/-- A claim of link `n` on the next link's lanes ends: its link state machine lets them go (R42, R49). -/
def HostSide.unclaim (h : HostSide) (n : Nat) : HostSide :=
  let l := n / 8 * 24 + n % 8 * 2
  (h.lanePower (l + 2) false).lanePower (l + 3) false

/-- Triggers enabled on a standard-speed uplink are refused (R55). -/
def HostSide.trigSettle (h : HostSide) (n : Nat) : HostSide :=
  h.set (Reg.CXP_STATE.TRIG_REFUSED n)
    (b2n (h.on (Reg.CXP_TRIG.EN n) && h.linkState n == 5 && !h.on (Reg.CXP_STATE.HS_UPLINK n)))

/-- A link enters a state: the state, its cause and the width and speed in force show, a change sets STATE_CHG, the lanes follow
(R51, R60). R60 gives SPEED_NOW 0 in OFF; that WIDTH_NOW reads 0 there too, that both are x1 and CXP-1 in POWER_WAIT and DISCOVER, and
that both keep their values in CONFIG and in FAULT, is the model's reading, and so is that HS_UPLINK and TRIG_REFUSED read 1 in UP
only. DEDUCED (log entry 27). -/
def HostSide.enterLink (h : HostSide) (e : Env) (n st cause : Nat) : HostSide :=
  let x := h.link n
  let was := h.linkState n
  let h := (h.set (Reg.CXP_STATE.STATE n) st).set (Reg.CXP_STATE.CAUSE n) cause
  let h := if was = st then h else h.setBits (Reg.CXP_INT_STATUS n) 1
  let (w, sp) := match st with
    | 0 => (0, 0)
    | 1 => (0, 1)
    | 2 => (0, 1)
    | 4 => (x.width, x.speed)
    | _ => (h.get (Reg.CXP_STATE.WIDTH_NOW n), h.get (Reg.CXP_STATE.SPEED_NOW n))
  let h := (h.set (Reg.CXP_STATE.WIDTH_NOW n) w).set (Reg.CXP_STATE.SPEED_NOW n) sp
  let h := h.set (Reg.CXP_STATE.HS_UPLINK n) (b2n (st == 5 && x.hsCap))
  let h := (h.laneEn n (st != 0 && st != 6)).trigSettle n
  if st = 6 then h.log e 0x0304 n cause 0 0 else h

/-- The link leaves OFF or FAULT for POWER_WAIT, CAM_PWR_EN as CXP_CTRL.PWR says (R51). -/
def HostSide.powerWait (h : HostSide) (e : Env) (n : Nat) : HostSide :=
  let x := h.link n
  (h.setLink n { x with pwr := h.on (Reg.CXP_CTRL.PWR n), fails := 0,
                        oddOff := if h.linkState n = 0 then h.linkState (n + 1) == 0 else x.oddOff }).enterLink e n 1 0

/-- An even link whose claim has ended keeps its own two lanes at most (R49). -/
def HostSide.narrow (h : HostSide) (a : Nat) : HostSide :=
  if h.linkState a = 0 then h
  else
    let x := h.link a
    let h := h.setLink a { x with width := min x.width 1 }
    (h.set (Reg.CXP_STATE.WIDTH_NOW a) (min (h.get (Reg.CXP_STATE.WIDTH_NOW a)) 1)).laneEn a (h.linkState a != 6)

/-- LANES_TAKEN of the odd link of a pair; when a claim ends, the even link runs at most x2 from then on, and with its EN still 1 the
odd link leaves OFF (R49, R51). -/
def HostSide.settlePair (h : HostSide) (e : Env) (n : Nat) : HostSide :=
  let a := n / 2 * 2
  let was := h.on (Reg.CXP_STATE.LANES_TAKEN (a + 1))
  let now := h.claims a
  let h := h.set (Reg.CXP_STATE.LANES_TAKEN (a + 1)) (b2n now)
  let h := if was && !now then (h.unclaim a).narrow a else h
  if was && !now && h.on (Reg.CXP_CTRL.EN (a + 1)) && h.linkState (a + 1) = 0 then h.powerWait e (a + 1) else h

/-- A link goes to OFF from any state (R51). -/
def HostSide.linkOff (h : HostSide) (e : Env) (n : Nat) : HostSide :=
  if h.linkState n = 0 then h else ((h.setLink n { h.link n with pwr := false, parts := [] }).enterLink e n 0 0).settlePair e n

/-- A write of CXP_CTRL with EN given: a WIDTH of 3 leaves WIDTH, PWR acts in POWER_WAIT (R51, R58). -/
def HostSide.cxpCtrl (h : HostSide) (e : Env) (n : Nat) (v : Word) (en : Bool) : HostSide :=
  let keep := h.get (Reg.CXP_CTRL.WIDTH n)
  let h := { h with regs := h.regs.accWrite (Reg.CXP_CTRL.EN n).addr v true }
  let h := if v.toNat / 4 % 4 = 3 then h.set (Reg.CXP_CTRL.WIDTH n) keep else h
  let h := h.set (Reg.CXP_CTRL.EN n) (b2n en)
  let h := if h.linkState n = 1 then h.setLink n { h.link n with pwr := h.on (Reg.CXP_CTRL.PWR n) } else h
  let h := if !en then h.linkOff e n
    else if h.linkState n = 0 && !h.on (Reg.CXP_STATE.LANES_TAKEN n) then h.powerWait e n else h
  h.settlePair e n

/-- CXP_LINK_ENABLE (R51). -/
def execCxpLinkEnable (n : Nat) (v : Word) (s : State) : Host.Outcome State Fault Refusal :=
  s.onBar fun e h => if e.variant.links ≤ n || !v.getLsbD 0 then h else h.cxpCtrl e n v true

/-- CXP_LINK_DISABLE (R51). -/
def execCxpLinkDisable (n : Nat) (v : Word) (s : State) : Host.Outcome State Fault Refusal :=
  s.onBar fun e h => if e.variant.links ≤ n || v.getLsbD 0 then h else h.cxpCtrl e n v false

/-- A link event that acts in one state only. -/
def HostSide.inLink (h : HostSide) (e : Env) (n st : Nat) (f : HostSide → HostSide) : HostSide :=
  if e.variant.links ≤ n || h.linkState n != st then h else (f h).settlePair e n

/-- CXP_MASTER_LOCK (R51). -/
def execCxpMasterLock (n : Nat) (s : State) : Host.Outcome State Fault Refusal :=
  s.onHost fun e h => h.inLink e n 1 fun h => (h.setLink n { h.link n with fails := 0 }).enterLink e n 2 0

/-- CXP_DISC_TIMEOUT (R51). -/
def execCxpDiscTimeout (n : Nat) (s : State) : Host.Outcome State Fault Refusal :=
  s.onHost fun e h => h.inLink e n 1 fun h => h.enterLink e n 6 1

/-- Width of CONFIG: the largest of x1, x2, x4 within the camera's connections, CXP_CTRL.WIDTH and the slot limit (R49, R51). -/
def HostSide.cfgWidth (h : HostSide) (n conn : Nat) : Nat :=
  let lim := min (h.get (Reg.CXP_CTRL.WIDTH n)) (if h.claims n then 2 else 1)
  min lim (if 4 ≤ conn then 2 else if 2 ≤ conn then 1 else 0)

/-- CXP_BOOTSTRAP_READ_DONE: a read of discovery succeeds or fails; after the last one the camera's connections, highest speed and
uplink are known (R51). CXP_CTRL.SPEED values that R58 does not code (0 and 8 to 15) enter the minimum as numbers. DESIGN CHOICE (log
entry 27). -/
def execCxpBootstrapReadDone (n : Nat) (ok last : Bool) (conn speed : Nat) (hs : Bool) (s : State) :
    Host.Outcome State Fault Refusal :=
  s.onHost fun e h => h.inLink e n 2 fun h =>
    let x := h.link n
    if !ok then
      (if 2 ≤ x.fails then h.enterLink e n 6 2 else h.setLink n { x with fails := x.fails + 1 })
    else if !last then h.setLink n { x with fails := 0 }
    else
      (h.setLink n { x with fails := 0, hsCap := hs, conn, width := h.cfgWidth n conn,
                            speed := min speed (h.get (Reg.CXP_CTRL.SPEED n)) }).enterLink e n 3 0

/-- CXP_CONFIG_ACK (R51). -/
def execCxpConfigAck (n : Nat) (s : State) : Host.Outcome State Fault Refusal :=
  s.onHost fun e h => h.inLink e n 3 fun h => h.enterLink e n 4 0

/-- CXP_SWITCH_LOCKED (R51). -/
def execCxpSwitchLocked (n : Nat) (s : State) : Host.Outcome State Fault Refusal :=
  s.onHost fun e h => h.inLink e n 4 fun h => h.enterLink e n 5 0

/-- CXP_SWITCH_TIMEOUT: CONFIG at the next lower speed, its width taken anew; below CXP-1 FAULT, cause 3 (R51). -/
def execCxpSwitchTimeout (n : Nat) (s : State) : Host.Outcome State Fault Refusal :=
  s.onHost fun e h => h.inLink e n 4 fun h =>
    let x := h.link n
    if x.speed ≤ 1 then h.enterLink e n 6 3 else (h.setLink n { x with width := h.cfgWidth n x.conn, speed := min (x.speed - 1) (h.get (Reg.CXP_CTRL.SPEED n)) }).enterLink e n 3 0

/-- CXP_LOCK_LOSS: the camera stays powered (R51). -/
def execCxpLockLoss (n : Nat) (s : State) : Host.Outcome State Fault Refusal :=
  s.onHost fun e h => h.inLink e n 5 fun h => (h.setLink n { h.link n with parts := [] }).enterLink e n 1 0

/-- CXP_POWER_FAULT (R51). -/
def execCxpPowerFault (n : Nat) (s : State) : Host.Outcome State Fault Refusal :=
  s.onHost fun e h =>
    if e.variant.links ≤ n || h.linkState n = 0 then h
    else
      let h := (h.setLink n { h.link n with pwr := false, parts := [] }).setBits (Reg.CXP_INT_STATUS n) 16
      (h.enterLink e n 6 4).settlePair e n

/-- CXP_RESTART (R51). -/
def execCxpRestart (n : Nat) (s : State) : Host.Outcome State Fault Refusal :=
  s.onBar fun e h => h.inLink e n 6 fun h => h.powerWait e n

/-! ### Control channel (R53, R63, R64) -/

/-- A control command completes (R64). DEDUCED (log entry 27). -/
def HostSide.ccDone (h : HostSide) (n result : Nat) : HostSide :=
  ((h.set (Reg.CXP_CC_STATUS.BUSY n) 0).set (Reg.CXP_CC_STATUS.RESULT n) result).setBits (Reg.CXP_INT_STATUS n) 2

/-- CXP_CC_GO: WRITE and LEN are taken with GO; while a command or a pipe's settings write is outstanding it is ignored (R53,
R98). BUSY shows host commands only: R64 leaves open whether it shows a pipe's settings write too. DEDUCED (log entry 27). -/
def execCxpCcGo (n : Nat) (v : Word) (s : State) : Host.Outcome State Fault Refusal :=
  s.onBar fun e h =>
    if e.variant.links ≤ n || !v.getLsbD 0 then h
    else if h.on (Reg.CXP_CC_STATUS.BUSY n) || !(h.link n).setWr.isEmpty then h.set (Reg.CXP_CC_STATUS.LOST n) 1
    else
      let h := { h with regs := h.regs.accWrite (Reg.CXP_CC_CMD.GO n).addr v false }
      if h.linkState n = 5 then h.set (Reg.CXP_CC_STATUS.BUSY n) 1 else h.ccDone n 5

/-- CXP_CC_REPLY: the camera's reply with RESULT 0, 2 or 3; a read's data enter the buffer (R53, R64). A LEN above 63 names more than
the buffer holds; the model accepts it and keeps the first 64 words. DESIGN CHOICE (log entry 27). -/
def execCxpCcReply (n result : Nat) (data : List Byte) (s : State) : Host.Outcome State Fault Refusal :=
  s.onHost fun e h =>
    if e.variant.links ≤ n || !h.on (Reg.CXP_CC_STATUS.BUSY n) then h
    else
      let words := h.get (Reg.CXP_CC_CMD.LEN n) + 1
      let h := if result = 0 && !h.on (Reg.CXP_CC_CMD.WRITE n) then
          forN (min words 64) (fun i h => h.set (Reg.CXP_CC_BUF n i) (leNat ((data.drop (4 * i)).take 4))) h else h
      h.ccDone n result

/-- CXP_CC_TIMEOUT: no acknowledge within CXP_CC_TO (R53). -/
def execCxpCcTimeout (n : Nat) (s : State) : Host.Outcome State Fault Refusal :=
  s.onHost fun e h => if e.variant.links ≤ n || !h.on (Reg.CXP_CC_STATUS.BUSY n) then h else h.ccDone n 1

/-! ### Streams, heartbeats, events (R55 to R57) -/

/-- Does entry `i` of link `n` map a context: it is valid and names one of its own I/O die (R56, R62)? A refused CTX reads 0, which
is no context of die 1. -/
def HostSide.mapped (h : HostSide) (n i : Nat) : Bool := h.on (Reg.CXP_MAP.VALID n i) && h.get (Reg.CXP_MAP.CTX n i) / 64 == n / 8

/-- The context a valid map entry of link `n` names for a stream ID (R56): of two entries with that STREAM_ID the lower-numbered one.
DESIGN CHOICE (log entry 27). -/
def HostSide.mapOf (h : HostSide) (n id : Nat) : Option Nat :=
  ((List.range 4).find? fun i => h.mapped n i && h.get (Reg.CXP_MAP.STREAM_ID n i) == id).map fun i => h.get (Reg.CXP_MAP.CTX n i)

/-- The link a context takes its lines from: the lowest-numbered one with a valid entry that names it (R82). -/
def HostSide.linkOf (h : HostSide) (x : Nat) : Option Nat :=
  findN 16 fun n => (List.range 4).any fun i => h.mapped n i && h.get (Reg.CXP_MAP.CTX n i) == x

/-- CXP_STREAM_PACKET: a packet of a line of stream `id` arrives, its pixels stored as UNPACK class `fmt` (4: none). A failed CRC
counts in CXP_CRC_ERR, an unmapped stream or a wrong format in CXP_DROP; else its bytes join the line in arrival. A CRC failure or
a tag gap spoils that line (R56, R93). -/
def execCxpStreamPacket (n id fmt : Nat) (crcBad gap : Bool) (data : List Byte) (s : State) : Host.Outcome State Fault Refusal :=
  s.onHost fun e h =>
    if e.variant.links ≤ n || h.linkState n != 5 then h
    else
      let spoil (x : Nat) (bs : List Byte) (bad : Bool) (h : HostSide) : HostSide :=
        let l := h.link n
        let p := SMap.get (fun _ => (([] : List Byte), false)) l.parts x
        h.setLink n { l with parts := l.parts.put x (p.1 ++ bs, p.2 || bad) }
      let h := h.countG 0x20 n data.length
      if crcBad then
        let h := (h.inc (Reg.CXP_CRC_ERR n) 1).setBits (Reg.CXP_INT_STATUS n) 32
        match h.mapOf n id with
        | some x => spoil x [] true h
        | none => h
      else match h.mapOf n id with
        | none => h.inc (Reg.CXP_DROP n) 1
        | some x => if fmt != h.act x (Reg.UNPACK x) then h.inc (Reg.CXP_DROP n) 1 else spoil x data gap h

/-- CXP_HEARTBEAT_RX: stamped with the tick counter (R57). -/
def execCxpHeartbeatRx (n camTime : Nat) (s : State) : Host.Outcome State Fault Refusal :=
  s.onHost fun e h => h.inLink e n 5 fun h =>
    (h.set2 (Reg.CXP_HB_CAM_LO n) (Reg.CXP_HB_CAM_HI n) camTime).set2 (Reg.CXP_HB_RX_LO n) (Reg.CXP_HB_RX_HI n) e.tick

/-- CXP_HB_TIMEOUT (R57). -/
def execCxpHbTimeout (n : Nat) (s : State) : Host.Outcome State Fault Refusal :=
  s.onHost fun e h => h.inLink e n 5 fun h => h.setBits (Reg.CXP_INT_STATUS n) 8

/-- CXP_EVENT_PACKET: into the 8-entry FIFO, cut to 252 bytes; dropped with OVF when it is full (R57). -/
def execCxpEventPacket (n : Nat) (data : List Byte) (s : State) : Host.Outcome State Fault Refusal :=
  s.onHost fun e h => h.inLink e n 5 fun h =>
    let x := h.link n
    if 8 ≤ x.events.length then h.set (Reg.CXP_EVT_STATUS.OVF n) 1
    else
      ((h.setLink n { x with events := x.events ++ [(data.take 252, decide (252 < data.length))] }).set
        (Reg.CXP_EVT_STATUS.COUNT n) (x.events.length + 1)).setBits (Reg.CXP_INT_STATUS n) 4

/-- CXP_EVT_POP removes the oldest entry (R57). -/
def execCxpEvtPop (n : Nat) (s : State) : Host.Outcome State Fault Refusal :=
  s.onBar fun e h =>
    if e.variant.links ≤ n then h
    else
      let x := h.link n
      (h.setLink n { x with events := x.events.drop 1 }).set (Reg.CXP_EVT_STATUS.COUNT n) (x.events.length - 1)

/-- A word of the window of the oldest event entry: length and TRUNC, then the event bytes (R57). The length of a truncated event is
that of what the entry holds, 252. DESIGN CHOICE (log entry 27). -/
def HostSide.evtWord (h : HostSide) (n i : Nat) : Word :=
  match (h.link n).events with
  | [] => 0
  | (bs, trunc) :: _ =>
    if i = 0 then BitVec.ofNat 32 (bs.length + 256 * b2n trunc) else BitVec.ofNat 32 (leNat ((bs.drop (4 * (i - 1))).take 4))

/-- A LINE_TICK of source `j` goes to the links whose CXP_TRIG selects it (R55). -/
def HostSide.uplinkTriggers (h : HostSide) (e : Env) (j : Nat) : HostSide :=
  forN e.variant.links (fun n h =>
    if h.linkState n = 5 && h.on (Reg.CXP_TRIG.EN n) && h.get (Reg.CXP_TRIG.SRC n) = j && h.on (Reg.CXP_STATE.HS_UPLINK n) then
      h.setLink n { h.link n with trigs := (h.link n).trigs + 1 } else h) h

/-- LANE_CDR_LOCK_CHANGE's lane part: signal and lock levels, the bits counted up to it, the adapted peaking. A lane that adapted
under override holds what it reached, sets EQ_CLAMP and counts the clamp when lock returns (R37, R39, R43, R47). A lane without power
takes no level (R42). -/
def HostSide.cdrChange (h : HostSide) (l : Nat) (sig lock : Bool) (bitsN errs peak : Nat) : HostSide :=
  let h := h.laneCount l bitsN errs
  if !h.on (Reg.LANE_CTRL.EN l) then h.laneDark l
  else
    let h := (h.set (Reg.LANE_STATUS.SIG_DET l) (b2n sig)).set (Reg.LANE_STATUS.CDR_LOCK l) (b2n lock)
    let h := if lock then h else h.set (Reg.LANE_STATUS.PRBS_LOCK l) 0
    let h := if !h.on (Reg.LANE_EQ.EQ_OVR l) || (h.lane l).adapting then h.set (Reg.LANE_STATUS.PEAK_NOW l) peak else h
    if (h.lane l).adapting && lock then
      ((h.setLane l { h.lane l with adapting := false, clamped := true }).set (Reg.LANE_STATUS.EQ_CLAMP l) 1).inc (Reg.LANE_EQ_CLAMPS l) 1
    else h

/-! ### What a neighbour sees (R81) -/

/-- The KM7 has no power: a host-side supply is below its threshold (R81, R423). DEDUCED (log entry 65). -/
def HostSide.unpowered (h : HostSide) : Bool := h.noPower

/-- The receive pair of lane `l`, CAM_RX or IFL_RX (R81). `highZ` is without termination, `ignored` terminated and not listened to: in
reset, and on a lane that is not enabled, as the link states OFF and FAULT leave a camera lane (R42, R51). An enabled lane of a running
port listens. DEDUCED (log entry 28). -/
def HostSide.rxPin (h : HostSide) (l : Nat) : PinLevel :=
  if h.unpowered then .highZ
  else if h.down || !h.on (Reg.LANE_CTRL.EN l) then .ignored else .terminated

/-- The uplink pair of link `n`: idle in reset, in OFF and in FAULT (R51, R81). -/
def HostSide.camUpPin (h : HostSide) (n : Nat) : PinLevel :=
  if h.unpowered then .highZ
  else if h.down || h.linkState n = 0 || h.linkState n = 6 then .idle else .active

/-- CAM_PWR_EN of link `n` (R50, R51, R81). -/
def HostSide.camPwrPin (h : HostSide) (n : Nat) : PinLevel :=
  if h.unpowered then .highZ else if !h.down && (h.link n).pwr then .high else .low

end Sys2Proof.Machine
end

