-- ==== Sys2Proof/Machine/Time.lean ====
section
/-! DEFINITION. Time bases, compare units and captures (R298 to R304, R314 to R317). -/

namespace Sys2Proof.Machine
open Sys2Proof

def HostSide.tb (h : HostSide) (n : Nat) : TimeBase := SMap.get (fun _ => {}) h.tbs n
def HostSide.setTb (h : HostSide) (n : Nat) (x : TimeBase) : HostSide := { h with tbs := h.tbs.put n x }

/-- RATE of a time base, signed (R299). -/
def HostSide.tbRate (h : HostSide) (n : Nat) : Int := sext 32 (h.get (Reg.TB_RATE n))

/-- What time base `n` reads at tick `t`, in units of 2^-32 ns (R299). -/
def HostSide.tbAt (h : HostSide) (n : Nat) (t : Int) : Nat :=
  let x := h.tb n
  wrap 96 ((x.v : Int) + (t - x.a) * (2 ^ 33 + 2 * h.tbRate n))

/-- Nanoseconds, 64 bits, and fraction of a reading. -/
def tbNs (v : Nat) : Nat := v / 2 ^ 32
def tbFrac (v : Nat) : Nat := v % 2 ^ 32

/-- The chain servo owns TB1 while the device is a chain slave (R300). -/
def HostSide.servoOwned (h : HostSide) : Bool := h.get Reg.TB1_CTRL.ROLE == 2

/-- A new rate takes effect at the present tick; the reading stays continuous (R300). -/
def HostSide.rateTo (h : HostSide) (e : Env) (n : Nat) (rate : Nat) : HostSide :=
  (h.setTb n { a := e.tick, v := h.tbAt n e.tick }).set (Reg.TB_RATE n) rate

/-- The time base reads `v` at the present tick (R300). -/
def HostSide.tbTo (h : HostSide) (e : Env) (n v : Nat) : HostSide := h.setTb n { a := e.tick, v := v % 2 ^ 96 }

/-! ### Compare units (R302, R303) -/

/-- Target of a compare unit, 40 bits. -/
def HostSide.cmpTarget (h : HostSide) (i : Nat) : Nat := h.get (Reg.CMP_TARGET_LO i) + h.get (Reg.CMP_TARGET_HI i) * 2 ^ 32
def HostSide.cmpPeriod (h : HostSide) (i : Nat) : Nat := h.get (Reg.CMP_PERIOD_LO i) + h.get (Reg.CMP_PERIOD_HI i) * 2 ^ 32

/-- d of R302: the signed 40-bit distance past the target. -/
def HostSide.cmpDist (h : HostSide) (e : Env) (i : Nat) : Int :=
  let now := tbNs (h.tbAt (h.get (Reg.CMP_CTRL.TB i)) e.tick) % 2 ^ 40
  sext 40 (now + 2 ^ 40 - h.cmpTarget i)

/-- TIME_PPS_OUT goes high on a firing with PIN = 1 (R304). -/
def HostSide.cmpPin (h : HostSide) (i : Nat) : HostSide := if h.on (Reg.CMP_CTRL.PIN i) then { h with pps := true } else h

/-- A compare unit fires (R302 to R304): a periodic target moves on past the present, counting each further addition; a one-shot
unit clears its EN. DEDUCED (log entry 38). -/
def HostSide.fireCmp (h : HostSide) (e : Env) (i : Nat) : HostSide :=
  let d := (h.cmpDist e i).toNat
  let late := decide (i ∈ h.cmpLate)
  let h := { h with cmpLate := h.cmpLate.filter (· != i) }
  let h := ((h.setBits Reg.TIME_INT_STATUS (2 ^ i)).set (Reg.CMP_STATUS.FIRED i) 1).cmpPin i
  let h := if late then h.set (Reg.CMP_STATUS.LATE i) 1 else h
  if h.on (Reg.CMP_CTRL.PERIODIC i) then
    let p := max 1 (h.cmpPeriod i)
    let t := (h.cmpTarget i + (d / p + 1) * p) % 2 ^ 40
    ((h.set (Reg.CMP_TARGET_LO i) t).set (Reg.CMP_TARGET_HI i) (t / 2 ^ 32)).inc (Reg.CMP_SKIP i) (d / p)
  else h.set (Reg.CMP_CTRL.EN i) 0

/-- The first evaluation after an enable, or after a target write while enabled (R302): a target already passed makes the firing
late. DEDUCED (log entry 38). -/
def HostSide.cmpArm (h : HostSide) (e : Env) (i : Nat) : HostSide :=
  let l := h.cmpLate.filter (· != i)
  { h with cmpLate := if h.on (Reg.CMP_CTRL.EN i) && 0 ≤ h.cmpDist e i then l ++ [i] else l }

/-- CMP_FIRE: an enabled unit that has reached its target fires (R302). -/
def execCmpFire (i : Nat) (s : State) : Host.Outcome State Fault Refusal :=
  s.onHost fun e h => if 8 ≤ i || !h.on (Reg.CMP_CTRL.EN i) || h.cmpDist e i < 0 then h else h.fireCmp e i

/-- A SET or STEP that carries time base `n` over the target of an enabled unit fires it in that cycle, without LATE (R303).
DEDUCED (log entry 38). -/
def HostSide.crossed (h g : HostSide) (e : Env) (n : Nat) : HostSide :=
  forN 8 (fun i g =>
    if g.on (Reg.CMP_CTRL.EN i) && g.get (Reg.CMP_CTRL.TB i) == n && h.cmpDist e i < 0 && 0 ≤ g.cmpDist e i then g.fireCmp e i else g) g

/-! ### Changes of a time base (R300) -/

/-- TB_RATE_WRITE: a rate beyond 0x0040_0000, or one for a TB1 that the servo owns, is refused (R299, R300). -/
def execTbRateWrite (n : Nat) (v : Word) (s : State) : Host.Outcome State Fault Refusal :=
  s.onBar fun e h =>
    if 4 ≤ n then h
    else if 0x400000 < v.toInt.natAbs || (n = 1 && h.servoOwned) then h.set (Reg.TB_STATUS.REFUSED n) 1
    else h.rateTo e n v.toNat

/-- TB_CMD.SET: the staged value (R300). -/
def execTbSet (n : Nat) (s : State) : Host.Outcome State Fault Refusal :=
  s.onBar fun e h =>
    if 4 ≤ n then h
    else if n = 1 && h.servoOwned then h.set (Reg.TB_STATUS.REFUSED n) 1
    else h.crossed (h.tbTo e n (h.get (Reg.TB_SET_FRAC n) + h.get (Reg.TB_SET_NS_LO n) * 2 ^ 32 + h.get (Reg.TB_SET_NS_HI n) * 2 ^ 64)) e n

/-- TB_CMD.STEP: the staged signed step (R300). -/
def execTbStep (n : Nat) (s : State) : Host.Outcome State Fault Refusal :=
  s.onBar fun e h =>
    if 4 ≤ n then h
    else if n = 1 && h.servoOwned then h.set (Reg.TB_STATUS.REFUSED n) 1
    else
      let d := sext 64 (h.get (Reg.TB_STEP_FRAC n) + h.get (Reg.TB_STEP_NS n) * 2 ^ 32)
      h.crossed (h.tbTo e n (wrap 96 ((h.tbAt n e.tick : Int) + d))) e n

/-- TIME_CMD.COPY: anchor, value and rate of COPY_SRC to COPY_DST, the fields of the same write (R300). -/
def execTimeCopy (v : Word) (s : State) : Host.Outcome State Fault Refusal :=
  s.onBar fun _ h =>
    let src := v.toNat / 4 % 4
    let dst := v.toNat / 16 % 4
    let h := (h.set Reg.TIME_CMD.COPY_SRC src).set Reg.TIME_CMD.COPY_DST dst
    if dst = 1 && h.servoOwned then h.set (Reg.TB_STATUS.REFUSED 1) 1
    else (h.setTb dst (h.tb src)).set (Reg.TB_RATE dst) (h.get (Reg.TB_RATE src))

/-- TIME_CMD.SNAP: the tick counter and all four time bases of one cycle (R301). -/
def execTimeSnap (s : State) : Host.Outcome State Fault Refusal :=
  s.onBar fun e h =>
    forN 4 (fun n h =>
      let v := h.tbAt n e.tick
      ((h.set (Reg.TB_SNAP_NS_LO n) (tbNs v)).set (Reg.TB_SNAP_NS_HI n) (tbNs v / 2 ^ 32)).set (Reg.TB_SNAP_FRAC n) (tbFrac v))
      (h.set2 Reg.TIME_SNAP_TICK_LO Reg.TIME_SNAP_TICK_HI e.tick)

/-- The PPS pulse ends after WIDTH µs, at the latest end of overlapping pulses (R304). -/
def execPpsPulseEnd (s : State) : Host.Outcome State Fault Refusal := s.onHost fun _ h => { h with pps := false }

/-- An edge of TIME_EVT_IN: the selected one captures the tick and TB0 of three ticks before, or sets OVR (R304). DEDUCED
(log entry 38). -/
def execTimeCapture (falling : Bool) (s : State) : Host.Outcome State Fault Refusal :=
  s.onHost fun e h =>
    if !h.on Reg.TIME_CAP_CTRL.EN || h.on Reg.TIME_CAP_CTRL.EDGE != falling then h
    else if h.on Reg.TIME_CAP_STATUS.VALID then h.set Reg.TIME_CAP_STATUS.OVR 1
    else
      let t : Int := (e.tick : Int) - 3
      let h := h.set2 Reg.TIME_CAP_TICK_LO Reg.TIME_CAP_TICK_HI (wrap 64 t)
      let h := h.set2 Reg.TIME_CAP_TB0_LO Reg.TIME_CAP_TB0_HI (tbNs (h.tbAt 0 t))
      (h.set Reg.TIME_CAP_STATUS.VALID 1).setBits Reg.TIME_INT_STATUS 256

end Sys2Proof.Machine
end

