-- ==== Sys2Proof/Machine/Ifepen.lean ====
section
/-! DEFINITION. Ifepen links (R66 to R81): the coding of the lanes, markers, the port's states, flits with CRC, credits and replay. -/

namespace Sys2Proof.Machine
open Sys2Proof

def HostSide.port (h : HostSide) (p : Nat) : IflPort := SMap.get (fun _ => {}) h.ports p
def HostSide.setPort (h : HostSide) (p : Nat) (x : IflPort) : HostSide := { h with ports := h.ports.put p x }
def HostSide.portState (h : HostSide) (p : Nat) : Nat := h.get (Reg.IFL_STATE.STATE p)

/-- Global lane index of port lane `i` of port `p` (R36). -/
def portLane (p i : Nat) : Nat := p / 4 * 24 + 16 + p % 4 * 2 + i

/-! ### The coding of a lane (R66 to R70) -/

/-- The marker word of port lane `i` (R67). -/
def markerOf (i : Nat) (seen : Bool) (skips : Nat) : Nat :=
  let low := b2n seen + i % 2 * 2 + skips % 4 * 4
  low + (15 - low) * 16 + 0x9C3A61F50E4DB2 * 2 ^ 8

/-- The SKIP word (R67). -/
def skipWord : Nat := 0x3CC33CC33CC33CC3

/-- The two words of a flit that travel on port lane `i`, the earlier one low: 0 and 2, or 1 and 3 (R70). -/
def flitLane (f i : Nat) : Nat := f / 2 ^ (64 * i) % 2 ^ 64 + f / 2 ^ (128 + 64 * i) % 2 ^ 64 * 2 ^ 64

/-- The flit whose words came on the port lanes (R70). -/
def flitOfLanes (a b : Nat) : Nat :=
  a % 2 ^ 64 + b % 2 ^ 64 * 2 ^ 64 + a / 2 ^ 64 % 2 ^ 64 * 2 ^ 128 + b / 2 ^ 64 % 2 ^ 64 * 2 ^ 192

/-- What a lane carries for one marker period, with the run it leaves: the marker, one SKIP word and the scrambled words of the
period's flits, all stuffed (R66 to R70). -/
def lanePeriod (i : Nat) (seen : Bool) (r : Run) (flits : List Nat) : List Bool × Run :=
  stuff r (wordBits 64 (markerOf i seen 1) ++ wordBits 64 skipWord
    ++ (scrambleBits (scrSeed i) (flits.flatMap fun f => wordBits 128 (flitLane f i))).1)

/-! ### Flits (R70 to R72) -/

/-- A flit: FORMAT 1, TYPE, SEQ, ACK, VC, payload, CRC-32C over bits 223 to 0 (R70, R71). -/
def flitOf (type seq ack vc payload : Nat) : Nat :=
  let b := 1 + type % 16 * 2 ^ 4 + seq % 1024 * 2 ^ 8 + ack % 1024 * 2 ^ 18 + vc % 4 * 2 ^ 28 + payload % 2 ^ 192 * 2 ^ 32
  b + (crc32c (toLE 28 b)).toNat * 2 ^ 224

def flitType (f : Nat) : Nat := f / 2 ^ 4 % 16
def flitSeq (f : Nat) : Nat := f / 2 ^ 8 % 1024
def flitAck (f : Nat) : Nat := f / 2 ^ 18 % 1024
def flitVc (f : Nat) : Nat := f / 2 ^ 28 % 4
def flitPayload (f : Nat) : Nat := f / 2 ^ 32 % 2 ^ 192
def flitGood (f : Nat) : Bool := f / 2 ^ 224 % 2 ^ 32 == (crc32c (toLE 28 (f % 2 ^ 224))).toNat
/-- DATA, DATA_END, EVENT and TIME carry a SEQ and use a credit (R70, R72). -/
def flitSeqd (t : Nat) : Bool := t == 1 || t == 2 || t == 5 || t == 6

/-- Flit buffers of a VC (R72). -/
def vcBuffers (vc : Nat) : Nat := match vc with
  | 0 => 160
  | 1 => 48
  | 2 => 32
  | _ => 16

/-- Credit counter this side sends for a VC: its buffers at UP, one more for each buffer freed (R72). -/
def IflPort.ownCredit (x : IflPort) (vc : Nat) : Nat := SMap.get vcBuffers x.own vc
def IflPort.sentOn (x : IflPort) (vc : Nat) : Nat := SMap.get (fun _ => 0) x.sent vc

/-- May a sequenced flit go out on a VC (R72, R73)? -/
def IflPort.maySend (x : IflPort) (vc : Nat) : Bool :=
  match x.credit with
  | none => false
  | some c => decide (x.replay.length < 512) && decide (0 < (c.getD vc 0 + 65536 - x.sentOn vc % 65536) % 65536)

/-- KIND of a TIME flit's payload (R310). -/
def timeKind (payload : Nat) : Nat := payload % 4
/-- A flit's payload as it leaves: a SYNC and a DELAY_REQ carry TB1 at launch (R310), an EVENT flit the tick (R414), the others what
they were given. Flit bit n is payload bit n − 32. -/
def HostSide.timeStamp (h : HostSide) (e : Env) (type payload : Nat) : Nat :=
  if type = 6 && timeKind payload < 2 then
    let v := h.tbAt 1 e.tick
    payload % 2 ^ 32 + tbNs v * 2 ^ 32 + tbFrac v * 2 ^ 96 + payload / 2 ^ 128 * 2 ^ 128
  else if type = 5 then payload % 2 ^ 32 + e.tick % 2 ^ 64 * 2 ^ 32 + payload / 2 ^ 96 * 2 ^ 96
  else payload

/-- A DELAY_REQ has left: its launch is t3 (R311). -/
def HostSide.noteLaunch (h : HostSide) (e : Env) (type payload : Nat) : HostSide :=
  if type = 6 && timeKind payload = 1 then { h with chain := { h.chain with t3 := h.tbAt 1 e.tick / 2 ^ 16 } } else h

/-- Does port lane `i` receive what the port itself sends there: IFL_CTRL.LOOP, or near-end loopback of the lane (R42, R77)? -/
def HostSide.looped (h : HostSide) (p i : Nat) : Bool :=
  h.on (Reg.IFL_CTRL.LOOP p) || h.on (Reg.LANE_CTRL.LOOP (portLane p i))

/-- Port lane `i` of port `p` has power (R42). -/
def HostSide.lanePowered (h : HostSide) (p i : Nat) : Bool := h.on (Reg.LANE_CTRL.EN (portLane p i))

/-- A transmitted bit passes on a port lane that is not looped back: an injected inversion goes with it (R41). -/
def HostSide.txPassed (h : HostSide) (p i : Nat) : HostSide :=
  let l := portLane p i
  if h.looped p i || !(h.lane l).txFlip then h else h.setLane l { h.lane l with txFlip := false }

/-- What goes out for a flit: on a port lane with an injected inversion its first bit is inverted (R41, R70). -/
def HostSide.flitOut (h : HostSide) (p f : Nat) : Nat :=
  f ^^^ (b2n (h.lane (portLane p 0)).txFlip + b2n (h.lane (portLane p 1)).txFlip * 2 ^ 64)

/-- A flit goes out on the port's lanes. In loopback it waits for the slot in which the port receives it, where the lanes' wires
carry it (`ownWire`). -/
def HostSide.sendOut (h : HostSide) (p f : Nat) : HostSide :=
  let x := h.port p
  ((h.setPort p { x with lastTx := h.flitOut p f, loop := if h.looped p 0 || h.looped p 1 then x.loop ++ [f] else x.loop }).txPassed
    p 0).txPassed p 1

/-- Sends a sequenced flit. -/
def HostSide.sendFlit (h : HostSide) (e : Env) (p type vc payload : Nat) : HostSide :=
  let x := h.port p
  let f := flitOf type x.seq x.ack vc (h.timeStamp e type payload)
  (((h.setPort p { x with seq := (x.seq + 1) % 1024, replay := x.replay ++ [f],
                          sent := x.sent.put vc ((x.sentOn vc + 1) % 65536) }).sendOut p f).countG 0x10 p 1).noteLaunch e type payload

/-- Sends the waiting flits that have credit, each VC in its order (R72). -/
def HostSide.flush (h : HostSide) (e : Env) (p : Nat) : HostSide :=
  (h.port p).txq.foldl (fun h t =>
    if (h.port p).maySend t.2.1 && (h.port p).txq.find? (fun u => u.2.1 == t.2.1) == some t then
      (h.setPort p { h.port p with txq := (h.port p).txq.erase t }).sendFlit e p t.1 t.2.1 t.2.2
    else h) h

/-- Presents a sequenced flit to an UP port; it waits while its VC has no credit (R72). -/
def HostSide.presentFlit (h : HostSide) (e : Env) (p type vc payload : Nat) : HostSide :=
  if h.portState p != 3 then h
  else (h.setPort p { h.port p with txq := (h.port p).txq ++ [(type, vc, payload)] }).flush e p

/-- Sends a CREDIT flit with this side's counters (R70, R72). -/
def HostSide.sendCredit (h : HostSide) (p : Nat) : HostSide :=
  let x := h.port p
  let pay := ((List.range 4).map fun vc => x.ownCredit vc % 65536 * 2 ^ (16 * vc)).sum
  ((h.setPort p { x with changed := false }).sendOut p (flitOf 3 0 x.ack 0 pay)).countG 0x10 p 1

/-- A receive buffer of a VC is freed (R72). -/
def HostSide.freeBuffer (h : HostSide) (p vc : Nat) : HostSide :=
  let x := h.port p
  h.setPort p { x with own := x.own.put vc ((x.ownCredit vc + 1) % 65536), changed := true }

/-- A transfer of a core over port `p`. -/
def Xfer.over (t : Xfer) (p : Nat) : Bool := t.space == 4 && t.far / 2 ^ 45 % 8 == p

/-- Bytes of Oxbow SRAM in use in a cluster (R368). -/
def HostSide.sramUsed (h : HostSide) (k : Nat) : Nat :=
  ((h.comp.oxbow.filter fun o => o.lcore / 8 == k).map (·.sram)).foldl (· + ·) 0

/-- Does port `p` withhold VC3 credits: the Oxbow SRAM of a cluster with a wait over it is full (R368)? -/
def HostSide.withholds (h : HostSide) (p : Nat) : Bool :=
  h.comp.oxbow.any fun o => o.x.over p && decide (0x40000 ≤ h.sramUsed (o.lcore / 8))

/-- The buffer of a flit delivered is freed; on VC3 its credit may have to wait (R72, R368). -/
def HostSide.freeFlit (h : HostSide) (p vc : Nat) : HostSide :=
  if vc = 3 && h.withholds p then h.setPort p { h.port p with owed := (h.port p).owed + 1 } else h.freeBuffer p vc

/-- Ports whose Oxbow buffers have drained return the credits they withheld (R368). -/
def HostSide.creditsBack (h : HostSide) : HostSide :=
  forN 8 (fun p h =>
    let n := (h.port p).owed
    if n = 0 || h.withholds p then h
    else forN n (fun _ h => h.freeBuffer p 3) (h.setPort p { h.port p with owed := 0 })) h

/-! ### States (R75, R76) -/

/-- On entry to UP, SEQ restarts and a CREDIT flit goes out (R72, R76). -/
def HostSide.portUp (h : HostSide) (p : Nat) : HostSide :=
  let x := h.port p
  let h := h.setPort p { x with seq := 0, replay := [], replays := 0, replayed := none, rxSeq := 0, ack := 0x3FF, nak := false,
                                credit := none, sent := [], own := [], owed := 0, txq := [], rx := [], evAt := [] }
  ((h.set (Reg.IFL_STATE.STATE p) 3).setBits (Reg.IFL_INT_STATUS p) 1).sendCredit p

/-- The lock registers of a port's lanes; lanes that are not both in marker lock have no skew to keep (R79). -/
def HostSide.showLocks (h : HostSide) (p : Nat) : HostSide :=
  let x := h.port p
  let h := ((h.set (Reg.IFL_STATE.L0_LOCK p) (b2n (3 ≤ x.mk0))).set (Reg.IFL_STATE.L1_LOCK p) (b2n (3 ≤ x.mk1))).set
    (Reg.IFL_STATE.PS_RX p) (b2n (x.ps0 && x.ps1))
  if x.mk0 = 0 || x.mk1 = 0 then h.set (Reg.IFL_STATE.DESKEWED p) 0 else h

/-- Every transfer over a port that has gone down fails with a link-down status to its engine: a core's transfer port, or the Oxbow
entry that a remote wait is parked in (R76, R123, R368). -/
def HostSide.failOver (h : HostSide) (p : Nat) : HostSide :=
  let ox := h.comp.oxbow.map fun o => if o.x.over p then { o with x := { o.x with down := true } } else o
  let short (o : Oxbow) : Bool := o.x.over p && o.got.length < storedBytes o.x.rif o.x.len
  let lost (j : Job) : Bool := j.state != 0 && h.comp.oxbow.any fun o => o.job == j.id && short o
  let js := h.comp.jobs.map fun j => if lost j then { j with ending := some (j.ending.getD (5, p)) } else j
  let h := { h with comp := { h.comp with oxbow := ox, jobs := js } }
  (List.range 64).foldl (fun h c =>
    match h.siteOf c with
    | none => h
    | some site =>
      let gone := (h.core site).xfers.filter fun t => t.over p && !t.parked
      let y := h.core site
      let h := h.setCore site { y with xfers := (y.xfers.filter fun t => !t.over p || t.parked).map fun t =>
                                                  if t.over p then { t with down := true } else t }
      gone.foldl (fun h t => h.failXfer c site { t with down := true }) h) h

/-- A port goes to OFF or SEEK: the replay and receive buffers are discarded (R76), and the search for markers starts afresh (R75).
DEDUCED (log entry 28). -/
def HostSide.portTo (h : HostSide) (p st : Nat) : HostSide :=
  let x := h.port p
  let h := h.setPort p { x with replay := [], rx := [], evAt := [], txq := [], credit := none, mk0 := 0, mk1 := 0, seen0 := false,
                                seen1 := false, loop := [] }
  (h.set (Reg.IFL_STATE.STATE p) st).showLocks p

/-- A port that was UP leaves it: its unfinished transfers fail (R76). -/
def HostSide.portLeave (h : HostSide) (p st : Nat) : HostSide :=
  if h.portState p = 3 then (h.portTo p st).failOver p else h.portTo p st

/-- A down event (R75, R76). -/
def HostSide.portDown (h : HostSide) (e : Env) (p : Nat) : HostSide :=
  (((h.portTo p 1).failOver p).inc (Reg.IFL_DOWN p) 1).setBits (Reg.IFL_INT_STATUS p) 2 |>.log e 0x0305 p 0 0 0

/-- A port in SEEK locks: CDR lock and marker lock on both lanes, markers within 16 words (R75). -/
def HostSide.seekCheck (h : HostSide) (p : Nat) : HostSide :=
  if h.portState p = 1 && h.on (Reg.IFL_STATE.L0_LOCK p) && h.on (Reg.IFL_STATE.L1_LOCK p) && h.on (Reg.IFL_STATE.DESKEWED p)
      && h.on (Reg.LANE_STATUS.CDR_LOCK (portLane p 0)) && h.on (Reg.LANE_STATUS.CDR_LOCK (portLane p 1)) then
    (h.setPort p { h.port p with seen0 := false, seen1 := false }).set (Reg.IFL_STATE.STATE p) 2
  else h

/-- A port lane loses its marker lock or its CDR lock, and with it its place in the stream: LOCKED and UP fall to SEEK, UP with a
down event when `down` (R75, R79). -/
def HostSide.laneLost (h : HostSide) (e : Env) (p i : Nat) (down : Bool) : HostSide :=
  let x := h.port p
  let x := if i = 0 then { x with mk0 := 0 } else { x with mk1 := 0 }
  let h := (h.setPort p { x with run := x.run.erase i, scr := x.scr.erase i }).showLocks p
  match h.portState p with
  | 2 => h.portTo p 1
  | 3 => if down then h.portDown e p else h
  | _ => h

/-- A chain lane has lost CDR lock or power (R42, R75). -/
def HostSide.chainLost (h : HostSide) (e : Env) (l : Nat) : HostSide := h.laneLost e (l / 24 * 4 + (l % 24 - 16) / 2) (l % 24 % 2) false

/-- IFL_CTRL is written with EN given (R75, R77). DEDUCED (log entry 28). -/
def HostSide.iflCtrl (h : HostSide) (p : Nat) (v : Word) (en : Bool) : HostSide :=
  let h := { h with regs := h.regs.accWrite (Reg.IFL_CTRL.EN p).addr v true }
  let h := h.set (Reg.IFL_CTRL.EN p) (b2n en)
  if !en then (if h.portState p = 0 then h else h.portLeave p 0)
  else if h.portState p = 0 && (h.port p).txOn then h.set (Reg.IFL_STATE.STATE p) 1 else h

def execIflEnable (p : Nat) (v : Word) (s : State) : Host.Outcome State Fault Refusal :=
  s.onBar fun e h => if e.variant.ports ≤ p || !v.getLsbD 0 then h else h.iflCtrl p v true

def execIflDisable (p : Nat) (v : Word) (s : State) : Host.Outcome State Fault Refusal :=
  s.onBar fun e h => if e.variant.ports ≤ p || v.getLsbD 0 then h else h.iflCtrl p v false

/-- IFL_RETRAIN: to SEEK from any state but OFF (R75). DEDUCED (log entry 28). -/
def execIflRetrain (p : Nat) (s : State) : Host.Outcome State Fault Refusal :=
  s.onBar fun e h => if e.variant.ports ≤ p || h.portState p = 0 then h else h.portLeave p 1

/-- IFL_TX_START: the SerDes has calibrated; an enabled port starts transmitting markers in SEEK (R75). -/
def execIflTxStart (p : Nat) (s : State) : Host.Outcome State Fault Refusal :=
  s.onHost fun e h =>
    if e.variant.ports ≤ p || (h.port p).txOn then h
    else
      let h := h.setPort p { h.port p with txOn := true }
      if h.on (Reg.IFL_CTRL.EN p) then h.set (Reg.IFL_STATE.STATE p) 1 else h

/-! ### What a lane receives (R39, R66 to R70) -/

/-- What port lane `i` puts on its own wire in loopback for the words of a slot: stuffed, with an injected inversion and TX_INV; a
running generator replaces it (R38, R41, R42, R69, R77). -/
def HostSide.ownWire (h : HostSide) (p i : Nat) (bs : List Bool) : HostSide × List Bool :=
  let x := h.port p
  let l := portLane p i
  let r := stuff (SMap.get (fun _ => {}) x.txRun i) bs
  let out := h.laneOut l r.1
  ((h.setLane l { h.lane l with txFlip := (h.lane l).txFlip && h.hearsGen l }).setPort p { x with txRun := x.txRun.put i r.2 }, out)

/-- The words of a flit slot as port lane `i` puts them on its own wire in loopback: scrambled (R68, R77). -/
def HostSide.ownFlit (h : HostSide) (p i f : Nat) : HostSide × List Bool :=
  let x := h.port p
  let d := scrambleBits (SMap.get (fun _ => scrSeed i) x.txScr i) (wordBits 128 (flitLane f i))
  (h.setPort p { x with txScr := x.txScr.put i d.2 }).ownWire p i d.1

/-- The marker and the SKIP word that port lane `i` puts on its own wire in loopback; the scrambler starts from its seed after them
(R67, R68, R77). -/
def HostSide.ownMarker (h : HostSide) (p i : Nat) : HostSide × List Bool :=
  let x := h.port p
  (h.setPort p { x with txScr := x.txScr.put i (scrSeed i) }).ownWire p i
    (wordBits 64 (markerOf i (decide (2 ≤ h.portState p)) 1) ++ wordBits 64 skipWord)

/-- The bits of port lane `i` without the stuffing: their number is counted, and each violation as a line-code error (R39, R69). -/
def HostSide.recvLane (h : HostSide) (p i : Nat) (wire : List Bool) : HostSide × List Bool :=
  let l := portLane p i
  let x := h.port p
  let r := unstuff (SMap.get (fun _ => {}) x.run i) (h.heard l wire)
  let h := h.setPort p { x with run := x.run.put i r.2.2 }
  (h.laneCount l wire.length (if h.on (Reg.LANE_PRBS.CHK_EN l) then 0 else r.2.1), r.1)

/-- The port lane of the sender that arrives on this side's lane `i`: the other one when the lanes are swapped (R75). -/
def HostSide.senderLane (h : HostSide) (p i : Nat) : Nat := if h.on (Reg.IFL_STATE.SWAPPED p) then 1 - i else i

/-- The data bits of port lane `i`, descrambled (R68). -/
def HostSide.recvData (h : HostSide) (p i : Nat) (wire : List Bool) : HostSide × Nat :=
  let (h, bs) := h.recvLane p i wire
  let x := h.port p
  let d := scrambleBits (SMap.get (fun _ => scrSeed (h.senderLane p i)) x.scr i) bs
  (h.setPort p { x with scr := x.scr.put i d.2 }, bitsNat d.1)

/-- The flit slot that the two port lanes carry in loopback: the oldest flit this port has sent and not yet received, or an IDLE flit
(R70, R77). -/
def HostSide.loopSlot (h : HostSide) (p : Nat) : HostSide × Nat :=
  let x := h.port p
  (h.setPort p { x with loop := x.loop.drop 1 }, x.loop.headD (flitOf 0 0 x.ack 0 0))

/-- The bits that reach port lane `i` in a flit slot: those of the wire, or its own transmitter's in loopback (R42, R77). -/
def HostSide.slotWire (h : HostSide) (p i own : Nat) (wire : List Bool) : HostSide × List Bool :=
  if h.looped p i then h.ownFlit p i own else (h, wire)

/-- The flit that the bits of the two port lanes spell (R68 to R70). -/
def HostSide.recvFlit (h : HostSide) (p : Nat) (w0 w1 : List Bool) : HostSide × Nat :=
  let (h, own) := if h.looped p 0 || h.looped p 1 then h.loopSlot p else (h, 0)
  let (h, w0) := h.slotWire p 0 own w0
  let (h, w1) := h.slotWire p 1 own w1
  let (h, a) := h.recvData p 0 w0
  let (h, b) := h.recvData p 1 w1
  (h, if h.on (Reg.IFL_STATE.SWAPPED p) then flitOfLanes b a else flitOfLanes a b)

/-! ### Markers (R66, R67, R75) -/

/-- Is the status byte of a marker word valid (R67)? -/
def markerStatus (w : Nat) : Bool := w / 16 % 16 == 15 - w % 16 && w / 4 % 4 != 3

/-- Is a 64-bit word a valid marker (R67)? -/
def markerValid (w : Nat) : Bool := w / 2 ^ 8 % 2 ^ 56 == 0x9C3A61F50E4DB2 && markerStatus w

/-- A line-code error on a chain lane (R39, R67). -/
def HostSide.codeError (h : HostSide) (l : Nat) : HostSide :=
  if h.on (Reg.LANE_PRBS.CHK_EN l) then h else h.addLane (Reg.LANE_ERR_LO l) (Reg.LANE_ERR_HI l) 1

/-- A word at an expected marker position of port lane `i`; `skew` is the marker distance of the lanes as SKEW codes it. The lane's
descrambler starts from the seed of the sender's lane, whether the marker is valid or not: the receiver keeps the sender's sequence.
A word without the fixed pattern is no marker; a line-code error is its status byte alone (R39, R67, R68, R75, R79). DEDUCED (log entry
28). -/
def HostSide.markerRx (h : HostSide) (e : Env) (p i marker skew : Nat) : HostSide :=
  let x := h.port p
  if !markerValid marker then
    let x := { x with scr := x.scr.put i (scrSeed (h.senderLane p i)) }
    (if markerStatus marker then h else h.codeError (portLane p i)).setPort p (if i = 0 then { x with mk0 := if x.mk0 < 3 then 0 else 3 }
      else { x with mk1 := if x.mk1 < 3 then 0 else 3 })
  else
    let ps := bit marker 0
    let x := { x with scr := x.scr.put i (scrSeed (marker / 2 % 2)) }
    let seen := ps && h.portState p == 2
    let x := if i = 0 then { x with mk0 := min 3 (x.mk0 + 1), ps0 := ps, seen0 := seen }
      else { x with mk1 := min 3 (x.mk1 + 1), ps1 := ps, seen1 := seen }
    let h := (h.set (Reg.IFL_STATE.SKEW p) skew).set (Reg.IFL_STATE.DESKEWED p) (b2n (decide ((sext 6 skew).natAbs ≤ 16)))
    let h := ((h.set (Reg.IFL_STATE.SWAPPED p) (b2n (bit marker 1 != (i == 1)))).setPort p x).showLocks p
    match h.portState p with
    | 1 => h.seekCheck p
    | 2 => if x.seen0 && x.seen1 then h.portUp p else h
    | 3 => if ps then h else h.portDown e p
    | _ => h

/-- IFL_MARKER_RX: the bits of a marker word and of the SKIP words it announces arrive at an expected marker position of port lane
`i`. The elastic buffer passes on as many SKIP words as the clocks need; they carry nothing, and go no further (R66, R67, R75). A lane
without power receives none, and in loopback the port's own marker comes back (R42, R77). -/
def execIflMarkerRx (p i : Nat) (wire : List Bool) (skew : Nat) (s : State) : Host.Outcome State Fault Refusal :=
  s.onHost fun e h =>
    if e.variant.ports ≤ p || 2 ≤ i || h.portState p = 0 || !h.lanePowered p i then h
    else
      let own := h.looped p i
      let (h, wire) := if own then h.ownMarker p i else (h, wire)
      let (h, bs) := h.recvLane p i wire
      h.markerRx e p i (bitsNat (bs.take 64)) (if own then 0 else skew)

/-- IFL_MARKER_MISSING: three expected positions have passed on port lane `i` without a valid marker (R75). -/
def execIflMarkerMissing (p i : Nat) (s : State) : Host.Outcome State Fault Refusal :=
  s.onHost fun e h => if e.variant.ports ≤ p || 2 ≤ i || h.portState p = 0 then h else h.laneLost e p i true

/-- LANE_CDR_LOCK_CHANGE: a lane's lock levels; an Ifepen port in LOCKED falls to SEEK when a lane loses lock, one in SEEK may lock
(R43, R75). -/
def execLaneCdrLockChange (l : Nat) (sig lock : Bool) (bitsN errs peak : Nat) (s : State) : Host.Outcome State Fault Refusal :=
  s.onHost fun e h =>
    if e.variant.lanes ≤ l then h
    else
      let h := h.cdrChange l sig lock bitsN errs peak
      if !chainLane l then h
      else if h.on (Reg.LANE_STATUS.CDR_LOCK l) then h.seekCheck (lanePort l)
      else h.chainLost e l

/-! ### Flits received (R72, R73, R233) -/

/-- A replay starts, after a NAK (`nak`) or a timeout; after REPLAY_LIMIT of them without ACK progress the port goes down. A NAK and
a timeout of the same cycle cause one (R73). -/
def HostSide.replayNow (h : HostSide) (e : Env) (p : Nat) (nak : Bool) : HostSide :=
  let x := h.port p
  if x.replayed == some (e.tick, !nak) then h
  else if max 1 (h.get (Reg.IFL_CTRL.REPLAY_LIMIT p)) ≤ x.replays then
    (h.setBits (Reg.IFL_INT_STATUS p) 4).portDown e p
  else
    let again (f : Nat) : Nat := flitOf (flitType f) (flitSeq f) x.ack (flitVc f) (h.timeStamp e (flitType f) (flitPayload f))
    let out := x.replay.map again
    let h := x.replay.foldl (fun h f => h.noteLaunch e (flitType f) (flitPayload f)) h
    let h := h.setPort p { x with replays := x.replays + 1, replayed := some (e.tick, nak), replay := out }
    ((((out.foldl (fun h f => h.sendOut p f) h).countG 0x10 p out.length).inc (Reg.IFL_REPLAY p) 1).countG 0x12 p 1).log e 0x0103 p 0 0 0

/-- An EVENT flit that an ACK covers makes its IFL_SEND record, with the tick of its last transmission (R414). -/
def HostSide.eventSent (h : HostSide) (e : Env) (p f : Nat) : HostSide :=
  if flitType f = 5 then h.trace e (8 + p / 4) (flitPayload f / 2 ^ 32 % 2 ^ 64) 7 p 0 (toLE 4 (flitPayload f)) else h

/-- A good EVENT flit makes its IFL_RECV record, with the tick of its receipt (R414). -/
def HostSide.eventGot (h : HostSide) (e : Env) (p f tick : Nat) : HostSide :=
  let x := flitPayload f
  h.trace e (8 + p / 4) tick 8 p (x / 2 ^ 160 % 8) (toLE 8 (x / 2 ^ 96) ++ toLE 4 x ++ toLE 8 (x / 2 ^ 32))

/-- The ACK of a good flit frees the replay entries it covers (R73). -/
def HostSide.takeAck (h : HostSide) (e : Env) (p ack : Nat) : HostSide :=
  let x := h.port p
  match x.replay.findIdx? (fun f => flitSeq f == ack) with
  | some i =>
    let h := (x.replay.take (i + 1)).foldl (fun h f => h.eventSent e p f) h
    (h.setPort p { x with replay := x.replay.drop (i + 1), replays := 0 }).flush e p
  | none => h

/-- A discarded flit: one NAK for the first discard after a good flit (R73). -/
def HostSide.discardFlit (h : HostSide) (p : Nat) : HostSide :=
  let x := h.port p
  if x.nak then h else ((h.setPort p { x with nak := true }).sendOut p (flitOf 4 0 x.ack 0 0)).countG 0x10 p 1

/-- A sequenced flit in order is delivered (R72, R73): EVENT to Gauge, TIME to the commands of chain time, DATA to the transfer it
belongs to. During a stop a port that was UP at the stop cycle copies it into its capture buffer, and EVENT and DATA stay held until the resume (R233). DEDUCED (log
entry 28). -/
def HostSide.deliver (h : HostSide) (e : Env) (p f : Nat) : HostSide :=
  let x := h.port p
  let h := h.setPort p { x with rxSeq := (x.rxSeq + 1) % 1024, ack := flitSeq f, nak := false }
  let h := if h.stopped && x.capturing then
      (let y := h.port p
       let cap := if y.cap.length < 128 then y.cap ++ [f] else y.cap
       (h.setPort p { y with cap := cap }).set (Reg.IFL_CAP_STATUS.COUNT p) cap.length)
    else h
  let y := h.port p
  if flitType f = 6 then h.setPort p { y with rx := y.rx ++ [f] }
  else if h.stopped then
    h.setPort p { y with rx := y.rx ++ [f], evAt := if flitType f = 5 then y.evAt ++ [e.tick] else y.evAt }
  else if flitType f = 5 then (h.eventGot e p f e.tick).freeBuffer p (flitVc f)
  else h.freeFlit p (flitVc f)

/-- A flit of the revision this part speaks (R70). -/
def flitFormat (f : Nat) : Nat := f % 16

/-- A flit has arrived (R70 to R73). One of another FORMAT with a good CRC is discarded like one out of order: R70 gives only FORMAT 1,
and no rule says what a receiver does with others. DESIGN CHOICE (log entry 28). -/
def HostSide.flitRx (h : HostSide) (e : Env) (p f : Nat) : HostSide :=
  let t := flitType f
  if !flitGood f then (h.inc (Reg.IFL_CRC_ERR p) 1).discardFlit p
  else if flitFormat f != 1 then h.discardFlit p
  else
    let h := (h.countG 0x11 p 1).takeAck e p (flitAck f)
    if flitSeqd t then
      (if flitSeq f = (h.port p).rxSeq then h.deliver e p f else h.discardFlit p)
    else
      let h := h.setPort p { h.port p with nak := false }
      match t with
      | 3 =>
        let c := (List.range 4).map fun vc => flitPayload f / 2 ^ (16 * vc) % 65536
        (h.setPort p { h.port p with credit := some c }).flush e p
      | 4 => if (h.port p).replay.isEmpty then h else h.replayNow e p true
      | _ => h

/-- IFL_FLIT_RX: the bits of one flit slot arrive on the two port lanes (R68 to R73). A flit outside UP is neither checked nor counted:
R75 has the partner send IDLE flits there, and R73 and R80 name no state for the check. DESIGN CHOICE (log entry 28). While a port lane
has no power no flit arrives (R42). -/
def execIflFlitRx (p : Nat) (w0 w1 : List Bool) (s : State) : Host.Outcome State Fault Refusal :=
  s.onHost fun e h =>
    if e.variant.ports ≤ p || h.portState p = 0 || !h.lanePowered p 0 || !h.lanePowered p 1 then h
    else
      let (h, f) := h.recvFlit p w0 w1
      if h.portState p = 3 then h.flitRx e p f else h

/-- IFL_ACK_TIMEOUT: no ACK progress for ACK_TO (R73). -/
def execIflAckTimeout (p : Nat) (s : State) : Host.Outcome State Fault Refusal :=
  s.onHost fun e h =>
    if e.variant.ports ≤ p || h.portState p != 3 || (h.port p).replay.isEmpty then h else h.replayNow e p false

/-- IFL_CREDIT_SEND: while a counter has changed, a CREDIT flit goes out (R72). -/
def execIflCreditSend (p : Nat) (s : State) : Host.Outcome State Fault Refusal :=
  s.onHost fun e h => if e.variant.ports ≤ p || h.portState p != 3 || !(h.port p).changed then h else h.sendCredit p

/-- At the stop cycle each UP port captures the flits it holds undelivered (R233). -/
def HostSide.captureFlits (h : HostSide) (e : Env) : HostSide :=
  forN e.variant.ports (fun p h =>
    if h.portState p != 3 then h.setPort p { h.port p with capturing := false }
    else
      let x := h.port p
      let cap := x.rx.take 128
      (((h.setPort p { x with cap := cap, capturing := true }).set (Reg.IFL_CAP_STATUS.COUNT p) cap.length).set (Reg.IFL_CAP_STATUS.VALID p) 1).setBits
        (Reg.IFL_INT_STATUS p) 8) h

/-- Delivers the flits a port has held, in order, and frees their buffers; `ats` are the receipt ticks of the EVENT flits among them. -/
def HostSide.handOver (h : HostSide) (e : Env) (p : Nat) : List Nat → List Nat → HostSide
  | [], _ => h
  | f :: t, ats =>
    if flitType f = 5 then ((h.eventGot e p f (ats.headD e.tick)).freeBuffer p (flitVc f)).handOver e p t ats.tail
    else (h.freeFlit p (flitVc f)).handOver e p t ats

/-- At resume the DATA and EVENT flits that arrived during the stop are delivered in order (R233). -/
def HostSide.deliverHeld (h : HostSide) (e : Env) : HostSide :=
  forN e.variant.ports (fun p h =>
    let x := h.port p
    (h.setPort p { x with rx := x.rx.filter fun f => flitType f == 6, evAt := [] }).handOver e p
      (x.rx.filter fun f => flitType f != 6) x.evAt) h

/-- Takes the oldest undelivered flit of a TYPE that passes; its buffer is freed. -/
def HostSide.takeFlit (h : HostSide) (p : Nat) (q : Nat → Bool) : Option (Nat × HostSide) :=
  let x := h.port p
  match x.rx.find? q with
  | some f => some (f, (h.setPort p { x with rx := x.rx.erase f }).freeBuffer p (flitVc f))
  | none => none

/-- A word of the capture buffer (R77): flit i/8, word i mod 8. -/
def HostSide.capWord (h : HostSide) (p i : Nat) : Word :=
  BitVec.ofNat 32 ((h.port p).cap.getD (i / 8) 0 / 2 ^ (32 * (i % 8)))

/-! ### What a neighbour sees (R81) -/

/-- The IFL_TX pair of port lane `i`: electrical idle in reset, before transmit start, in OFF and without power (R42, R75, R81). -/
def HostSide.iflTxPin (h : HostSide) (p i : Nat) : PinLevel :=
  if h.unpowered then .highZ
  else if h.down || !(h.port p).txOn || h.portState p = 0 || !h.lanePowered p i then .idle else .active

/-- The bits that port lane `i` of an active port carries in a marker period whose first flits are `flits`: in UP flits of any type, else
IDLE flits, and IDLE flits in every slot not used (R66 to R70, R75). A running generator replaces them (R38); an injected inversion and
TX_INV act on what is sent (R41, R42), and a pair that is not active carries none. `r`: the run before the period. -/
def HostSide.iflTxBits (h : HostSide) (p i : Nat) (r : Run) (flits : List Nat) : List Bool :=
  let l := portLane p i
  if h.iflTxPin p i != .active then []
  else if h.on (Reg.LANE_PRBS.GEN_EN l) then h.genBits l (64 * 2050)
  else
    let used := if h.portState p = 3 then flits.take 1024 else []
    let idle := flitOf 0 0 (h.port p).ack 0 0
    h.laneOut l (lanePeriod i (decide (2 ≤ h.portState p)) r (used ++ List.replicate (1024 - used.length) idle)).1

end Sys2Proof.Machine
end

