-- ==== Sys2Proof/Machine/Jobs.lean ====
section
/-! DEFINITION. Shared partitions, jobs, time slices, pre-emption, saved contexts and parked remote waits (R356 to R369, R378,
R379). -/

namespace Sys2Proof.Machine
open Sys2Proof

/-! ### Partitions and jobs as data -/

/-- Clusters that hold a job's cores (R358). -/
def Job.clusters (j : Job) : List Nat := (List.range 8).filter fun k => j.cores.any fun c => c / 8 == k
/-- Is a cluster held by the job (R362)? -/
def Job.holds (j : Job) (k : Nat) : Bool := 2 ≤ j.state && j.state ≤ 5 && k ∈ j.clusters
/-- Does the job wait to be granted (R362)? -/
def Job.waits (j : Job) : Bool := (j.state == 1 || j.state == 6) && j.ending.isNone
/-- Is the job not ended (R363)? -/
def Job.live (j : Job) : Bool := j.state != 0

def HostSide.job (h : HostSide) (id : Nat) : Option Job := h.comp.jobs.find? fun j => j.id == id && j.live
def HostSide.modJob (h : HostSide) (id : Nat) (f : Job → Job) : HostSide :=
  { h with comp := { h.comp with jobs := h.comp.jobs.map fun j => if j.id == id && j.live then f j else j } }
/-- Clusters of a partition (R20). -/
def HostSide.partClusters (h : HostSide) (p : Nat) : List Nat := (List.range 8).filter fun k => h.partOf k == some p

/-- Context blocks of a partition's save region; 0 while it is not configured (R379). -/
def HostSide.blockCount (h : HostSide) (p : Nat) : Nat :=
  let g := h.get (Reg.PART_SAVE_CFG.GROUPS (p - 1))
  ((List.range 16).filter (bit g)).length * (h.get (Reg.PART_SAVE_CFG.BLOCKS_M1 (p - 1)) + 1)
/-- HBM group and offset of context block `b` of partition `p`: BLOCKS_M1 + 1 of them in each group of GROUPS, in order (R379). -/
def HostSide.blockAt (h : HostSide) (p b : Nat) : Nat × Nat :=
  let gs := (List.range 16).filter (bit (h.get (Reg.PART_SAVE_CFG.GROUPS (p - 1))))
  let n := h.get (Reg.PART_SAVE_CFG.BLOCKS_M1 (p - 1)) + 1
  (gs.getD (b / n) 0, h.get (Reg.PART_SAVE_OFF (p - 1)) * 2048 + b % n * 0x1808000)

/-- A save has written context block `b` of partition `p`. The layout of a block is internal to the device: what its 0x180_8000 bytes
read as from then on is a free value (R366). -/
def HostSide.writeBlock (h : HostSide) (p b : Nat) : HostSide :=
  let (g, off) := h.blockAt p b
  let bs := (List.range 0x1808000).map fun i => (Config.freeValue h.fresh (0x366 + 4096 * i)).setWidth 8
  ({ h with fresh := h.fresh + 1 }).setStore 2 g off 0x1808000 ((h.hbmOf g).write off bs)

/-- Free context blocks of a partition, lowest first. -/
def HostSide.freeBlocks (h : HostSide) (p : Nat) : List Nat :=
  (List.range (h.blockCount p)).filter fun b => !((p * 65536 + b) ∈ h.comp.blocks)

/-! ### What the registers show (R379) -/

/-- Jobs of a client, from acceptance until they end (R359). -/
def HostSide.clientJobs (h : HostSide) (client : Nat) : Nat :=
  (h.comp.jobs.filter fun j => j.live && j.client == client).length

/-- Shows the chosen job-table entry. -/
def HostSide.showEntry (h : HostSide) : HostSide :=
  let j := (h.comp.jobs.find? fun j => j.entry == h.get Reg.JOB_SEL).getD { id := 0, state := 0 }
  let h := (((h.set Reg.JOB_ID j.id).set Reg.JOB_STATE j.state).set Reg.JOB_PART j.part).set Reg.JOB_CLIENT j.client
  h.set Reg.JOB_PARKED (h.comp.oxbow.filter fun o => o.job == j.id && j.live).length

/-- Shows partition `p`. -/
def HostSide.showPart (h : HostSide) (p : Nat) : HostSide :=
  let js := h.comp.jobs.filter fun j => j.part == p
  let h := h.set (Reg.PART_STATUS.CLUSTERS (p - 1)) ((h.partClusters p).foldl (fun n k => n + 2 ^ k) 0)
  let h := h.set (Reg.PART_STATUS.JOBS (p - 1)) js.length
  let h := h.set (Reg.PART_STATUS.RUNNING (p - 1)) (js.filter fun j => 2 ≤ j.state && j.state ≤ 5).length
  let h := h.set (Reg.PART_STATUS.SERVING (p - 1)) (h.get (Reg.SRV_CTRL.EN (p - 1)))
  h.set (Reg.PART_FREE_BLOCKS (p - 1)) (h.freeBlocks p).length

/-- Shows how many jobs a client has. -/
def HostSide.showClient (h : HostSide) (c : Nat) : HostSide := h.set ⟨0x500 + c / 4 * 4, c % 4 * 8, 8⟩ (h.clientJobs c)

/-- Shows a job's partition, its client and the chosen entry. -/
def HostSide.showJob (h : HostSide) (j : Job) : HostSide := ((h.showPart j.part).showClient j.client).showEntry

/-! ### Scheduling (R362 to R364) -/

/-- A job enters a state: one trace record for each of its clusters (R363, R410). DEDUCED (log entry 50). -/
def HostSide.traceJob (h : HostSide) (e : Env) (j : Job) (st : Nat) : HostSide :=
  j.clusters.foldl (fun h k => h.traceDue e k 3 k (toLE 4 j.id ++ toLE 1 st)) h

/-- Pre-emption of a job is requested: it reaches every core of the job at once (R364). -/
def HostSide.preemptJob (h : HostSide) (e : Env) (j : Job) : HostSide :=
  let h := j.cores.foldl (fun h c => match h.siteOf c with
    | some s => h.setCore s { h.core s with preempt := true }
    | none => h) h
  (h.traceJob e j 4).modJob j.id fun x => { x with state := 4 }

/-- A job is granted: it holds its clusters and begins to restore (R362). -/
def HostSide.grantJob (h : HostSide) (e : Env) (j : Job) : HostSide :=
  let h := j.cores.foldl (fun h c => match h.liveSite c with
    | some s => h.setCore s { h.core s with job := some j.id, preempt := false }
    | none => h) h
  let h := (h.traceJob e j 2).modJob j.id fun x => { x with state := 2, todo := x.clusters }
  { h with comp := { h.comp with grant := h.comp.grant.put j.part j.acc } }

/-- Ticks in a microsecond (R10). DESIGN CHOICE (log entry 13). -/
def ticksPerUs : Nat := 500

/-- One scheduling pass of partition `p` (R362): running jobs past their slice that another job waits for are asked to give way;
then the waiting jobs are walked once from the grant pointer, and one that is not granted claims its clusters. DESIGN CHOICE
(log entry 13). -/
def HostSide.pass (h : HostSide) (e : Env) (p : Nat) : HostSide :=
  let js := h.comp.jobs.filter fun j => j.part == p
  let waiting := js.filter Job.waits
  let slice := h.get (Reg.PART_SLICE_US (p - 1)) * ticksPerUs
  let h := (js.filter fun j => j.state == 3 && j.ending.isNone && j.runTick + slice ≤ e.tick
      && waiting.any fun w => w.clusters.any fun k => k ∈ j.clusters).foldl (fun h j => h.preemptJob e j) h
  let ptr := SMap.get (fun _ => 0) h.comp.grant p
  let walk := (waiting.filter fun j => ptr < j.acc) ++ waiting.filter fun j => j.acc ≤ ptr
  (walk.foldl (fun (a : HostSide × List Nat) j =>
    let free := j.clusters.all fun k => !(k ∈ a.2) && !(a.1.comp.jobs.any fun x => x.holds k)
    if free then (a.1.grantJob e j, a.2) else (a.1, a.2 ++ j.clusters)) (h, [])).1.showPart p |>.showEntry

/-- SLICE_BOUNDARY of partition `p` (R362). -/
def execSliceBoundary (p : Nat) (s : State) : Host.Outcome State Fault Refusal :=
  s.onData fun e h => if p = 0 || 8 < p then h else h.pass e p

/-! ### Serving partitions (R372, R377): what a job's end does to them -/

def HostSide.serving (h : HostSide) (p : Nat) : Serving := SMap.get (fun _ => {}) h.comp.serving p
def HostSide.setServing (h : HostSide) (p : Nat) (v : Serving) : HostSide :=
  { h with comp := { h.comp with serving := h.comp.serving.put p v } }

/-- Host address of request `n` of partition `p` (R372). -/
def HostSide.reqAddr (h : HostSide) (p n : Nat) : Nat :=
  let base := h.get (Reg.SRV_RING_LO (p - 1)) * 64 + h.get (Reg.SRV_RING_HI (p - 1)) * 2 ^ 32
  base + 64 + n % sizeOf (h.get (Reg.SRV_RING.SIZE_L (p - 1))) * 64

/-- The response to a request: NEW_TOKENS, then DONE with its code, then the interrupt (R372). -/
def HostSide.respond (h : HostSide) (p n code toks : Nat) : HostSide :=
  let a := h.reqAddr p n
  let h := (h.hostWrite (a + 56) (toLE 4 toks)).hostWrite (a + 52) (toLE 4 (1 + 16 * code))
  if h.on (Reg.SRV_CTRL.IEN (p - 1)) then h.signal (h.get (Reg.SRV_CTRL.VECTOR (p - 1))) else h

/-- Shows the step controller's counts (R380). -/
def HostSide.showServing (h : HostSide) (p : Nat) : HostSide :=
  let v := h.serving p
  let used := (v.active.map fun q => q.pages.length).foldl (· + ·) 0
  let h := (h.set (Reg.SRV_FREE_PAGES (p - 1)) (h.get (Reg.SRV_PAGES (p - 1)) - used)).set (Reg.SRV_ACTIVE (p - 1)) v.active.length
  (h.set (Reg.SRV_WAITING (p - 1)) v.waiting.length).set (Reg.SRV_STEP_COUNT (p - 1)) v.steps

/-- The serving job of a partition is gone: every admitted and waiting join completes with CODE 4 and the pool is released (R377). -/
def HostSide.endServing (h : HostSide) (p : Nat) : HostSide :=
  let v := h.serving p
  let h := (v.active ++ v.waiting).foldl (fun h q => h.respond p q.n 4 q.newToks) h
  (h.setServing p { v with active := [], waiting := [], stepEnd := [], running := false, entries := [] }).showServing p

/-! ### The end of a job (R360, R361, R365) -/

/-- The cores of a job stop: commands in progress and outstanding transfers are abandoned (R361). A core in ERROR or fenced stays
so. -/
def HostSide.stopJob (h : HostSide) (j : Job) : HostSide :=
  j.cores.foldl (fun h c => match h.siteOf c with
    | some s =>
      if (h.core s).job != some j.id then h
      else
        let h := h.clearSite s
        if 5 ≤ h.coreState s then h else h.set (Reg.CORE_STATUS.STATE s) 0
    | none => h) h

/-- A job ends (R360): its cores stop, its clusters, blocks, saved contexts and parked receives are released, its JOB_RUN
completes, and it leaves the client's count. Its table entry frees when the completion is written (R363). DEDUCED (log entry 34). -/
def HostSide.endJob (h : HostSide) (e : Env) (j : Job) (status detail : Nat) : HostSide :=
  let serve := (h.servingJob j.part).map (·.id) == some j.id
  let h := h.stopJob j
  let h := j.cores.foldl (fun h c => match h.siteOf c with
    | some s => if (h.core s).job == some j.id then h.setCore s { h.core s with job := none } else h
    | none => h) h
  let h := (h.traceJob e j 0).modJob j.id fun x => { x with state := 0, ending := some (status, detail) }
  let h := { h with comp := { h.comp with
    oxbow := h.comp.oxbow.filter fun (o : Oxbow) => o.job != j.id, saved := h.comp.saved.filter fun (o : SavedClu) => o.job != j.id,
    blocks := h.comp.blocks.filter fun b => !(j.blocks.any fun (x : Nat × Nat) => x.2 == b) } }
  let h := (if serve then h.endServing j.part else h).creditsBack
  let h := (h.finish j.q j.idx status detail j.id).showJob j
  if h.stopped then { h with comp := { h.comp with heldPass := h.comp.heldPass ++ [j.part] } } else h.pass e j.part

/-- The scheduling passes that a global stop held are made; the ticks of the stop are no run time (R362). -/
def HostSide.replayPasses (h : HostSide) (e : Env) : HostSide :=
  let held := e.tick - h.insp.stopTick.getD e.tick
  let later (j : Job) : Job := { j with runTick := j.runTick + held }
  let h := { h with comp := { h.comp with jobs := h.comp.jobs.map later } }
  h.comp.heldPass.foldl (fun h p => h.pass e p) { h with comp := { h.comp with heldPass := [] } }

/-- How a job that runs is to end, if its cores say so (R360). DEDUCED (log entry 34). -/
def HostSide.jobOutcome (h : HostSide) (j : Job) : Option (Nat × Nat) :=
  match j.ending with
  | some x => some x
  | none =>
    if !(2 ≤ j.state && j.state ≤ 5) then none
    else
      match (j.cores.filterMap h.siteOf).find? (fun s => (h.core s).job == some j.id && h.coreState s == 5) with
      | some s => some (6, h.get (Reg.CORE_ERR.CAUSE s))
      | none => if (j.state == 3 || j.state == 4) && j.cores.all (fun c => c ∈ j.ended) then some (0, 0) else none

/-- JOB_END: a job all of whose lists have ended, or that has failed or been cancelled, ends (R360). DEDUCED (log entry 34). -/
def execJobEnd (job : Nat) (s : State) : Host.Outcome State Fault Refusal :=
  s.onData fun e h =>
    match h.job job with
    | none => h
    | some j => match h.jobOutcome j with
      | some (st, det) => h.endJob e j st det
      | none => h

/-- Pre-emption has not completed PART_PRE_LIMIT µs after its request: FAULT 0xF1, without a save (R365). -/
def execPreLimitExpired (job : Nat) (s : State) : Host.Outcome State Fault Refusal :=
  s.onData fun e h =>
    match h.job job with
    | some j => if j.state == 4 then h.endJob e j 6 0xF1 else h
    | none => h

/-! ### JOB_RUN and JOB_CANCEL (R358, R359, R361) -/

/-- The list address at position `i` of a job's TABLE, and the table's own: space in bits [3:0], address in bits [63:16]. DEDUCED
(log entry 33). -/
def listRef (v : Nat) : Nat × Nat := (v % 16, v / 2 ^ 16)

/-- Is an address within the memory its space names, and aligned (R173)? -/
def jobRefFits (v : Variant) (r : Nat × Nat) (n align : Nat) : Bool :=
  r.2 % align == 0 && match r.1 with
  | 0 => decide (r.2 + n ≤ 0x200000)
  | 1 => decide (r.2 + n ≤ 0x800000)
  | 2 => decide (r.2 / 2 ^ 32 < v.groups) && decide (r.2 % 2 ^ 32 + n ≤ 0xC0000000)
  | 3 => decide (r.2 + n ≤ 0x800000)
  | _ => decide (r.2 / 2 ^ 45 < v.ports) &&
    (if bit r.2 44 then decide (r.2 % 2 ^ 24 + n ≤ 0x800000) else decide (r.2 % 2 ^ 32 + n ≤ 0xC0000000))

/-- The DETAIL with which an address of a job is invalid (R330): 3 for a space code above `top`, the last one, 4 for its address or
alignment. A TABLE takes the codes of LOAD, 0 to 4 (R123, R333), a list address those of CALL, 0 to 2 (R122). DEDUCED (log entry 33). -/
def jobRefBad (v : Variant) (top : Nat) (r : Nat × Nat) (n align : Nat) : Option Nat :=
  if top < r.1 then some 3 else if jobRefFits v r n align then none else some 4

/-- The memory a job's address names: kind, unit, offset. `k`: the cluster; `c`: the core whose scratchpad space 0 is. A TABLE has no
PEER field, so that its space 0 is the scratchpad of logical core 0 of the cluster, and its space 3 the line store of cluster 0.
DEDUCED (log entry 33). -/
def HostSide.jobRefMem (h : HostSide) (r : Nat × Nat) (k c : Nat) : Nat × Nat × Nat :=
  match r.1 with
  | 0 => (0, (h.siteOf c).getD 0, r.2)
  | 1 => (1, k, r.2)
  | 3 => (1, 0, r.2)
  | _ => (2, r.2 / 2 ^ 32, r.2 % 2 ^ 32)

/-- A job's TABLE of `n` addresses is read (R333): its bytes, and whether the read failed. One in a remote device (space 4) is read
there; what comes back is that device's, and free. `ecc`: what the reads met (R184). -/
def HostSide.readTable (h : HostSide) (e : Env) (tab : Nat × Nat) (k n : Nat) (ecc : Ecc) : HostSide × List Nat × Bool :=
  if tab.1 = 4 then
    ({ h with fresh := h.fresh + n }, (List.range n).map fun i => (Config.freeValue (h.fresh + i) 0x333).toNat, false)
  else
    let (kind, unit, off) := h.jobRefMem tab k (8 * k)
    let (h, bad) := ((h.eccUse e kind unit ecc).countAccess true kind unit (8 * n)).useStore e kind unit off (8 * n)
    let tb := (h.storeOf kind unit).read off (8 * n)
    (h, (List.range n).map fun i => leNat ((tb.drop (8 * i)).take 8), bad)

/-- Limit of a client's jobs; 0 none (R359). -/
def HostSide.jobMax (h : HostSide) (client : Nat) : Nat := h.get ⟨0x400 + client / 4 * 4, client % 4 * 8, 8⟩

/-- JOB_RUN: the oldest such descriptor of queue `q` (R358). It waits while the table of 128 jobs is full (R359). `ecc`: what the reads of
its TABLE met (R184). DEDUCED (log entry 33). -/
def execJobRun (q : Nat) (ecc : Ecc) (s : State) : Host.Outcome State Fault Refusal :=
  s.onData fun e h => h.withCurrent q 0x20 fun d =>
    let p := d.fld 8 1
    let cores := (List.range 64).filter (bit (d.fld 12 8))
    let tab := listRef (d.fld 20 8)
    let id := q * 65536 + d.idx % 65536
    let client := h.client q
    if p = 0 || 8 < p || (h.partClusters p).isEmpty then h.finish q d.idx 2 1 0
    else if cores.isEmpty || cores.any (fun c => h.partOf (c / 8) != some p || (h.liveSite c).isNone) then h.finish q d.idx 2 2 0
    else if h.jobMax client != 0 && h.jobMax client ≤ h.clientJobs client then h.finish q d.idx 2 3 0
    else
      let clu := (List.range 8).filter fun k => cores.any fun c => c / 8 == k
      if (h.freeBlocks p).length < clu.length then h.finish q d.idx 2 4 0
      else if let some det := jobRefBad e.variant 4 tab (8 * cores.length) 8 then h.finish q d.idx 1 det 0
      else if tab.1 = 4 && h.portState (tab.2 / 2 ^ 45) != 3 then h.finish q d.idx 5 (tab.2 / 2 ^ 45) 0
      else if !h.hbmUp || 128 ≤ h.comp.jobs.length || (tab.1 < 2 && h.asleep (clu.headD 0)) || (tab.1 == 3 && h.asleep 0) then h
      else
        let (h, words, bad) := h.readTable e tab (clu.headD 0) cores.length ecc
        let refs := (cores.zip words).map fun x => (x.1, listRef x.2)
        if bad then h.finish q d.idx 4 (h.jobRefMem tab 0 0).1 0
        else if let some det := refs.findSome? fun x => jobRefBad e.variant 2 x.2 16 64 then h.finish q d.idx 1 det 0
        else if refs.any (fun x =>
            let (k, u, o) := h.jobRefMem x.2 (x.1 / 8) x.1
            x.2.1 != 0 && bit (leNat ((h.storeOf k u).read o 1)) 4) then h.finish q d.idx 2 5 0
        else
          let blocks := (h.freeBlocks p).take clu.length
          let used := h.comp.jobs.map (·.entry)
          let j : Job := { id, part := p, client, cores, lists := refs.map fun x => (x.1, x.2.1, x.2.2), state := 1,
                           entry := (findN 128 fun i => !(i ∈ used)).getD 0, acc := h.comp.accepts + 1, q, idx := d.idx,
                           blocks := clu.zip (blocks.map (p * 65536 + ·)) }
          let h := { h with comp := { h.comp with
            jobs := h.comp.jobs ++ [j], accepts := h.comp.accepts + 1, blocks := h.comp.blocks ++ blocks.map (p * 65536 + ·) } }
          ((h.modStarted q d.idx fun d => { d with accepted := true, handle := id }).traceJob e j 1).showJob j

/-- Cancels a job (R361): the cores of one that holds clusters stop, and it is to end CANCELLED; a queued or saved one is removed
at once. -/
def HostSide.cancelJob (h : HostSide) (e : Env) (j : Job) : HostSide :=
  if j.state == 1 || j.state == 6 then h.endJob e j 3 0
  else
    let h := h.stopJob j
    let h := { h with comp := { h.comp with oxbow := h.comp.oxbow.filter fun (o : Oxbow) => o.job != j.id } }
    ((h.modJob j.id fun x => { x with ending := some (x.ending.getD (3, 0)) }).creditsBack).showEntry

/-- JOB_CANCEL (R361). DEDUCED (log entry 34). -/
def execJobCancel (q : Nat) (s : State) : Host.Outcome State Fault Refusal :=
  s.onData fun e h => h.withCurrent q 0x21 fun d =>
    match h.job (d.fld 8 4) with
    | none => h.finish q d.idx 2 6 0
    | some j => (h.finish q d.idx 0 0 0).cancelJob e j

/-! ### Save and restore (R364, R366, R367, R404) -/

/-- First words of a site's context registers: CORE_FLAGS, and from the list address to the tokens (R366). -/
def siteFlags (site : Nat) : Nat := 0x400008 + site * 0x2000
def siteCtx (site : Nat) : Nat := 0x400010 + site * 0x2000
/-- Counters of a logical core (R401). -/
def coreCnt (c : Nat) : Nat := 0x608000 + c * 0x100
/-- Stripe channels and U8 windows of a cluster (R163, R170). -/
def cluRegs (k : Nat) : Nat := 0x210000 + k * 0x20000

/-- Logical cores of a cluster that have a healthy site. -/
def HostSide.cluCores (h : HostSide) (k : Nat) : List (Nat × Nat) :=
  (List.range 8).filterMap fun i => (h.liveSite (8 * k + i)).map fun s => (8 * k + i, s)

/-- Bank contents are not saved, only their types (R366). -/
def AccBank.typeOnly (b : AccBank) : AccBank := { ty := b.ty }

/-- The saved context of one core. DESIGN CHOICE (log entry 35). -/
def HostSide.saveCore (h : HostSide) (c s : Nat) : SavedCore :=
  let x := h.core s
  { lcore := c, cnt := h.regs.grab (coreCnt c) (coreCnt c + 0x100),
    regs := (h.regs.grab (siteFlags s) (siteFlags s + 4)).foldl (fun m y => m.put y.1 y.2)
      ((h.regs.grab (siteCtx s) (siteCtx s + 0x30)).map fun y => (y.1 + 8, y.2)),
    st := { x with bank0 := x.bank0.typeOnly, bank1 := x.bank1.typeOnly, job := none, preempt := false, dirty := [],
                   xfers := [], flights := [], cur := none, ahead := none } }

/-- Puts a core's saved context on its site; `st` is the state it resumes in. -/
def HostSide.restoreCore (h : HostSide) (job c s st : Nat) (v : SavedCore) : HostSide :=
  let rs := (h.regs.restore (siteFlags s) (siteFlags s + 4) (v.regs.filter fun x => x.1 < 4)).restore (siteCtx s) (siteCtx s + 0x30)
    ((v.regs.filter fun x => 8 ≤ x.1).map fun x => (x.1 - 8, x.2))
  let h := { h with regs := rs.restore (coreCnt c) (coreCnt c + 0x100) v.cnt }
  let own := (h.core s).job
  let h := h.setCore s { v.st with job := own }
  (h.set (Reg.CORE_STATUS.STATE s) (if own == some job then st else 0)).showPc s

/-- A store's tile failed its checksum on the way to or from the context block: poisoned, counted (R181, R367). -/
def HostSide.badTile (h : HostSide) (e : Env) (k mem tile : Nat) : HostSide :=
  if mem < 8 then
    match h.siteOf (8 * k + mem) with
    | some s => (h.setCore s { h.core s with spad := (h.core s).spad.poisonTile (tile % 1024) }).csumFail e 0 s (tile % 1024 * 2048)
    | none => h
  else (h.setLs k ((h.ls k).poisonTile (tile % 4096))).csumFail e 1 k (tile % 4096 * 2048)

/-- PREEMPTION_COMPLETE: every core of the job is YIELDED or has ended its list; its remote waits are parked and the save begins
(R364, R368). -/
def execPreemptionComplete (job : Nat) (s : State) : Host.Outcome State Fault Refusal :=
  s.onData fun e h =>
    match h.job job with
    | none => h
    | some j =>
      let stopped (c : Nat) : Bool := (c ∈ j.ended) || (match h.siteOf c with | some s => h.coreState s == 4 | none => false)
      if j.state != 4 || j.ending.isSome || !j.cores.all stopped || j.cores.all (fun c => c ∈ j.ended) then h
      else
        let park (h : HostSide) (c : Nat) : HostSide := match h.siteOf c with
          | none => h
          | some s =>
            let x := h.core s
            let waits := x.xfers.filter fun t => t.space == 4
            let h := h.setCore s { x with xfers := x.xfers.filter fun t => t.space != 4 }
            let os := waits.map fun t =>
              let u8 := t.u8.getD (h.u8Window (c / 8) t.space t.far)
              ({ job := j.id, lcore := c, x := { t with parked := true, bytes := [], dropped := false, bad0 := false, u8 := some u8 },
                 got := t.bytes, badPs := if t.bad0 then [0] else [], failed := t.dropped } : Oxbow)
            { h with comp := { h.comp with oxbow := h.comp.oxbow ++ os } }
        let h := j.cores.foldl park h
        (((h.traceJob e j 5).modJob j.id fun x => { x with state := 5, todo := x.clusters }).inc (Reg.PART_PREEMPTS (j.part - 1)) 1).showJob j

/-- What the SRAM reads of a save met, by memory of cluster `k`: 0 to 7 scratchpads, 8 the line store (R184). -/
def HostSide.eccSave (h : HostSide) (e : Env) (k : Nat) (ecc : List (Nat × Ecc)) : HostSide :=
  ecc.foldl (fun h x =>
    if x.1 = 8 then h.eccUse e 1 k x.2
    else match h.siteOf (8 * k + x.1 % 8) with
      | some s => h.eccUse e 0 s x.2
      | none => h) h

/-- The granules of `n` tiles and of 32 KiB of other state move between a cluster and its context block in HBM group `g`: event `ck` of
the cluster, `ge` of the group (R366, R367, R406, R407). -/
def HostSide.countContext (h : HostSide) (k ck ge g n : Nat) : HostSide :=
  ((h.countK k ck (32 * n + 512)).countG ge g (32 * n + 512)).countPort k (2048 * n + 32768)

/-- CONTEXT_SAVE_DONE: the context of a job on cluster `k` is saved, which waits until HBM serves (R201); after its last cluster the
job is SAVED, its clusters are free, and a scheduling pass is made (R362, R366). `bad`: tiles that failed their checksum on the way, as
memory (0 to 7 scratchpad, 8 line store) and tile; `ecc`: what the reads met. DESIGN CHOICE (log entry 35). -/
def execContextSaveDone (job k : Nat) (bad : List (Nat × Nat)) (ecc : List (Nat × Ecc)) (s : State) : Host.Outcome State Fault Refusal :=
  s.onData fun e h =>
    match h.job job with
    | none => h
    | some j =>
      if j.state != 5 || j.ending.isSome || !(k ∈ j.todo) || !h.hbmUp then h
      else
        let h := h.eccSave e k ecc
        let h := bad.foldl (fun h x => h.badTile e k x.1 x.2) h
        let cs := h.cluCores k
        let dirty := (cs.flatMap fun x => (h.core x.2).dirty.map fun t => (k, x.1 % 8, t))
          ++ (h.lsDirty.filter fun t => t / 65536 == k).map fun t => (k, 8, t % 65536)
        let sv : SavedClu := { job := j.id, cluster := k, cores := cs.map (fun x => h.saveCore x.1 x.2), lstore := h.ls k,
                               regs := h.regs.grab (cluRegs k) (cluRegs k + 0x1080), lsc := h.lsc.filter fun x => x.1 / 16 == k }
        let h := cs.foldl (fun h x => h.setCore x.2 { h.core x.2 with dirty := [] }) h
        let h := { h with lsDirty := h.lsDirty.filter fun t => t / 65536 != k }
        let h := h.inc (Reg.PART_SAVED_KIB (j.part - 1)) (2 * dirty.length + 32)
        let blk := ((j.blocks.find? fun b => b.1 == k).map (·.2)).getD 0 % 65536
        let h := (h.writeBlock j.part blk).countContext k 0x0A 0x02 (h.blockAt j.part blk).1 dirty.length
        let h := { h with comp := { h.comp with saved := (h.comp.saved.filter fun (o : SavedClu) => !(o.job == j.id && o.cluster == k)) ++ [sv] } }
        let rest := j.todo.filter (· != k)
        let h := h.modJob j.id fun x => { x with todo := rest, tiles := x.tiles ++ dirty.filter fun t => !(t ∈ x.tiles) }
        if !rest.isEmpty then h
        else
          let h := j.cores.foldl (fun h c => match h.siteOf c with
            | some s =>
              let h := (h.setCore s { h.core s with job := none, preempt := false, frames := [], cur := none, ahead := none }).showPc s
              { h.set (Reg.CORE_STATUS.STATE s) 0 with regs := (h.set (Reg.CORE_STATUS.STATE s) 0).regs.dropRange (coreCnt c) (coreCnt c + 0x100) }
            | none => h) h
          (((h.traceJob e j 6).modJob j.id fun x => { x with state := 6, saved := true }).showJob j).pass e j.part

/-! ### Parked remote waits (R368) -/

/-- Length in stored bytes of a parked transfer. -/
def Oxbow.total (o : Oxbow) : Nat := storedBytes o.x.rif o.x.len

/-- A saved token of a job is incremented (R368). -/
def HostSide.addSavedToken (h : HostSide) (job c t : Nat) : HostSide :=
  let off := 8 + 0x10 + t / 2 * 4
  let upd (v : SavedCore) : SavedCore :=
    if v.lcore != c then v
    else
      let w := SMap.get (fun _ => (0 : Word)) v.regs off
      let f : RF := ⟨0, t % 2 * 16, 16⟩
      { v with regs := SMap.set (fun _ => (0 : Word)) v.regs off (f.inWord w (f.ofWord w + 1)) }
  { h with comp := { h.comp with saved := h.comp.saved.map fun (o : SavedClu) =>
      if o.job == job && o.cluster == c / 8 then { o with cores := o.cores.map upd } else o } }

/-- Token `t` of every core of a job is incremented, in its saved context where that is not on a site (R366, R374). -/
def HostSide.jobToken (h : HostSide) (j : Job) (t : Nat) : HostSide :=
  j.cores.foldl (fun h c =>
    if h.comp.saved.any fun o => o.job == j.id && o.cluster == c / 8 then h.addSavedToken j.id c t else h.addToken c t 1) h

/-- Bytes of a piece of a parked transfer (R181). -/
def Oxbow.per (o : Oxbow) : Nat := if o.x.rif = 0 then 2048 else rifTileBytes o.x.rif
/-- Stored bytes of it that have arrived in whole pieces. -/
def Oxbow.ready (o : Oxbow) : Nat := if o.total ≤ o.got.length then o.total else o.got.length / o.per * o.per
/-- The pieces that have arrived and are not yet merged. -/
def Oxbow.fresh (o : Oxbow) : List Nat := (List.range ((o.ready - o.put + o.per - 1) / o.per)).map (· + o.put / o.per)
/-- What piece `i` writes: 2,048 bytes, or fewer at the end. -/
def Oxbow.piece (o : Oxbow) (i : Nat) : List Byte :=
  let p := ((o.got.take o.ready).drop (i * o.per)).take o.per
  if o.x.rif = 0 then p else rifDecodeTile o.x.rif (o.x.u8.getD false) p

/-- The whole pieces that have come for a parked wait merge into the saved tiles of its core (R179, R368): a failed piece poisons what
it touches, and a merge into a failed tile is a failure of its own (R181, R182). -/
def HostSide.drainOne (h : HostSide) (e : Env) (o : Oxbow) : HostSide × Oxbow :=
  match (h.comp.saved.find? fun v => v.job == o.job && v.cluster == o.lcore / 8).bind
      fun v => v.cores.find? fun c => c.lcore == o.lcore with
  | none => (h, o)
  | some v =>
    let site := (h.siteOf o.lcore).getD 0
    let (st, bad) := o.fresh.foldl (fun (a : Store × List Nat) i =>
      let off := o.x.spa + i * 2048
      let bs := o.piece i
      let st := a.1.write off bs
      (if i ∈ o.badPs then st.poisonRange off bs.length else st, a.2 ++ a.1.mergeBad off bs.length)) (v.st.spad, [])
    let upd (w : SavedCore) : SavedCore := if w.lcore == o.lcore then { w with st := { w.st with spad := st } } else w
    let h := { h with comp := { h.comp with saved := h.comp.saved.map fun (w : SavedClu) =>
      if w.job == o.job && w.cluster == o.lcore / 8 then { w with cores := w.cores.map upd } else w } }
    (bad.foldl (fun g t => g.csumFail e 0 site (t * 2048)) h, { o with put := o.ready, failed := o.failed || !bad.isEmpty })

/-- Every entry of a job on a cluster whose SRAM has drained merges what has come (R368). -/
def HostSide.drainAll (h : HostSide) (e : Env) (job k : Nat) : HostSide :=
  if !(h.comp.saved.any fun o => o.job == job && o.cluster == k) then h
  else
    let (h, os) := h.comp.oxbow.foldl (fun (a : HostSide × List Oxbow) o =>
      if o.job == job && o.lcore / 8 == k && o.sram == 0 then
        (let r := a.1.drainOne e o; (r.1, a.2 ++ [r.2])) else (a.1, a.2 ++ [o])) (h, [])
    { h with comp := { h.comp with oxbow := os } }

/-- Entries whose data has all arrived and drained into a saved context signal their saved tokens (R368). -/
def HostSide.settleOxbow (h : HostSide) (job k : Nat) : HostSide :=
  if !(h.comp.saved.any fun o => o.job == job && o.cluster == k) then h
  else
    let mine (o : Oxbow) : Bool := o.job == job && o.lcore / 8 == k && o.sram == 0 && o.total ≤ o.got.length && !o.x.took
    let h := (h.comp.oxbow.filter mine).foldl (fun h o => match o.x.sig with
      | some t => if o.failed then h else h.addSavedToken job o.lcore t
      | none => h) h
    { h with comp := { h.comp with oxbow := h.comp.oxbow.map fun (o : Oxbow) => if mine o then { o with x := { o.x with took := true } } else o } }

/-- Is the context of a job on a cluster saved, or being restored from its block? -/
def HostSide.isSaved (h : HostSide) (job k : Nat) : Bool := h.comp.saved.any fun o => o.job == job && o.cluster == k

/-- The pieces that `n` stored bytes from byte `at_` on belong to. -/
def Oxbow.touched (o : Oxbow) (at_ n : Nat) : List Nat :=
  if n = 0 then [] else (List.range ((at_ + n - 1) / o.per + 1 - at_ / o.per)).map (· + at_ / o.per)

/-- OXBOW_GRANULE_LAND: the next granules of a parked remote wait of logical core `c` into scratchpad address `spa` arrive. They
land in Oxbow SRAM until the cluster's save is complete, then in the saved context. `status`: 0 data, 1 the piece they belong to failed
its checksum, which is counted once (R181, R182), 2 the link went down or the access was refused, which ends the job (R360). -/
def execOxbowGranuleLand (job c spa status : Nat) (data : List Byte) (s : State) : Host.Outcome State Fault Refusal :=
  s.onData fun e h =>
    let sel (o : Oxbow) : Bool := o.job == job && o.lcore == c && o.x.spa == spa && o.got.length < o.total
    match h.comp.oxbow.find? sel, h.job job with
    | some o, some j =>
      if status = 2 then h.modJob j.id fun x => { x with ending := some (x.ending.getD (5, o.x.far / 2 ^ 45)) }
      else
        let k := c / 8
        let n := min (data.length / 64 * 64) (o.total - o.got.length)
        let sram := !h.isSaved job k || 0 < h.sramUsed k
        if sram && 0x40000 < h.sramUsed k + n then h
        else
          let bad := if status = 1 then (o.touched o.got.length n).filter fun i => !(i ∈ o.badPs) else []
          let o' := { o with got := o.got ++ data.take n, sram := if sram then o.sram + n else 0, badPs := o.badPs ++ bad,
                             failed := o.failed || status == 1 }
          let h := bad.foldl (fun h i => (h.csumFail e 3 ((h.siteOf c).getD 0) ((o.x.spa + i * 2048) / 2048 * 2048)).countK k 0x0C 1) h
          let h := if sram then h.countK k 0x09 (n / 64) else h
          (({ h with comp := { h.comp with oxbow := modFirst sel (fun _ => o') h.comp.oxbow } }).drainAll e job k).settleOxbow job k
    | _, _ => h

/-- OXBOW_DRAIN_DONE: after the save, the SRAM of a job's entries on a cluster has drained into its saved tiles, and withheld credits
are released (R368). -/
def execOxbowDrainDone (job k : Nat) (s : State) : Host.Outcome State Fault Refusal :=
  s.onData fun e h =>
    if !h.isSaved job k then h
    else
      let h := { h with comp := { h.comp with oxbow := h.comp.oxbow.map fun (o : Oxbow) =>
        if o.job == job && o.lcore / 8 == k then { o with sram := 0 } else o } }
      (((h.drainAll e job k).settleOxbow job k).creditsBack)

/-- A parked wait at a restore: the whole pieces that have come lie in the restored tiles; what is still to come is a transfer again,
which decodes as its start address says (R368, R369). -/
def HostSide.unpark (h : HostSide) (s : Nat) (o : Oxbow) : HostSide :=
  if o.total ≤ o.got.length then (if o.failed then h.coreError s 7 o.x.op else h)
  else
    let n := o.put / o.per
    let t := { o.x with parked := false, took := false, spa := o.x.spa + 2048 * n, far := o.x.far + o.put, len := o.x.len - 32 * n,
                        bytes := o.got.drop o.put, dropped := o.failed, bad0 := decide (n ∈ o.badPs) }
    h.setCore s { h.core s with xfers := (h.core s).xfers ++ [t] }

/-! ### Restore -/

/-- The empty context of a fresh job's core: every tile zero, tokens zero, counters without an event (R367, R404). -/
def HostSide.freshCore (h : HostSide) (c s : Nat) : HostSide := h.restoreCore 0 c s 0 { lcore := c }

/-- A cluster's context is restored: the saved one, or the empty one of a fresh job (R367). DESIGN CHOICE (log entry 35). -/
def HostSide.restoreClu (h : HostSide) (j : Job) (k : Nat) : HostSide :=
  match h.comp.saved.find? (fun o => o.job == j.id && o.cluster == k) with
  | none =>
    let h := (h.cluCores k).foldl (fun h x => h.freshCore x.1 x.2) h
    { (h.setLs k {}) with regs := h.regs.dropRange (cluRegs k) (cluRegs k + 0x1080), lsc := h.lsc.filter fun x => x.1 / 16 != k,
                          lsDirty := h.lsDirty.filter fun t => t / 65536 != k }
  | some sv =>
    let h := (h.cluCores k).foldl (fun h x =>
      h.restoreCore j.id x.1 x.2 (if x.1 ∈ j.ended then 0 else 4) ((sv.cores.find? fun v => v.lcore == x.1).getD { lcore := x.1 })) h
    let chans : SMap Lsc := sv.lsc.foldl (fun m x => m.put x.1 x.2) (h.lsc.filter fun x => x.1 / 16 != k)
    let h : HostSide := { (h.setLs k sv.lstore) with
      regs := h.regs.restore (cluRegs k) (cluRegs k + 0x1080) sv.regs, lsc := chans,
      lsDirty := h.lsDirty.filter fun t => t / 65536 != k }
    let mine := h.comp.oxbow.filter fun o => o.job == j.id && o.lcore / 8 == k
    let h := mine.foldl (fun h o => match h.siteOf o.lcore with | some s => h.unpark s o | none => h) h
    { h with comp := { h.comp with
        oxbow := h.comp.oxbow.filter fun (o : Oxbow) => !(o.job == j.id && o.lcore / 8 == k),
        saved := h.comp.saved.filter fun (o : SavedClu) => !(o.job == j.id && o.cluster == k) } }

/-- CONTEXT_RESTORE_DONE: cluster `k` holds the job's context; after its last cluster the job runs: a fresh one starts its lists, a
saved one issues the command after its YIELD (R358, R367). It waits until HBM serves (R201), the parked receives have drained (R368)
and the cluster is awake (R437). `ecc`: what the fetches of a fresh job's lists met, by core (R184). DESIGN CHOICE (log entry 35). -/
def execContextRestoreDone (job k : Nat) (bad : List (Nat × Nat)) (ecc : List (Nat × Ecc)) (s : State) : Host.Outcome State Fault Refusal :=
  s.onData fun e h =>
    match h.job job with
    | none => h
    | some j =>
      let awake := !h.asleep k
      let drained := !(h.comp.oxbow.any fun o => o.job == job && o.lcore / 8 == k && o.sram != 0)
      if j.state != 2 || j.ending.isSome || !(k ∈ j.todo) || !awake || !drained || !h.hbmUp then h
      else
        let blk := ((j.blocks.find? fun b => b.1 == k).map (·.2)).getD 0 % 65536
        let h := h.restoreClu j k
        let h := if j.saved then h.countContext k 0x0B 0x01 (h.blockAt j.part blk).1 (j.tiles.filter fun t => t.1 == k).length else h
        let h := bad.foldl (fun h x => h.badTile e k x.1 x.2) h
        let rest := j.todo.filter (· != k)
        let h := h.modJob j.id fun x => { x with todo := rest }
        if !rest.isEmpty then h.showEntry
        else
          let h := (h.traceJob e j 3).modJob j.id fun x => { x with state := 3, runTick := e.tick, saved := false }
          let h := if j.saved then
              j.cores.foldl (fun h c => match h.siteOf c with
                | some s => if h.coreState s == 4 then h.set (Reg.CORE_STATUS.STATE s) 1 else h
                | none => h) h
            else j.lists.foldl (fun h x => h.startList e x.1 x.2.1 x.2.2 false 0 (((ecc.find? fun y => y.1 == x.1).map (·.2)).getD {})) h
          h.showJob j

/-! ### PARTITION_SET (R356, R357) -/

/-- Clusters that would leave their partition. -/
def HostSide.leavers (h : HostSide) (part clusters : Nat) : List Nat :=
  (List.range 8).filter fun k => match h.partOf k with
    | some p => if p = part then !bit clusters k else bit clusters k
    | none => false

/-- The cause that refuses a partition change (R357). DEDUCED (log entry 36). -/
def HostSide.partRefused (h : HostSide) (part clusters : Nat) : Option Nat :=
  let l := h.leavers part clusters
  if l.any (fun k => h.partOf k == some 0 && (match h.insp.armed with | some r => bit r.cluMask k | none => false)) then some 1
  else if l.any (fun k => h.comp.jobs.any fun j => j.live && h.partOf k == some j.part && k ∈ j.clusters) then some 2
  else if part != 0 && clusters = 0 && h.on (Reg.SRV_CTRL.EN (part - 1)) then some 3
  else none

/-- PARTITION_SET: checked, then a commit point (R356). DEDUCED (log entry 36). -/
def execPartitionSet (q : Nat) (s : State) : Host.Outcome State Fault Refusal :=
  s.onHost fun _ h => h.withCurrent q 0x43 fun d =>
    let part := d.fld 8 1
    let clusters := d.fld 9 1
    let us := d.fld 12 4
    if 8 < part || (if part = 0 then us != 0 else us < 100 || 100000 < us) then h.finish q d.idx 1 3 0
    else match h.partRefused part clusters with
      | some det => h.finish q d.idx 2 det 0
      | none => (h.modStarted q d.idx fun d => { d with accepted := true }).addCommit (.partition part clusters us (some (q, d.idx)))

/-- The assignment takes effect (R356): HALTED clusters that join are renumbered (R215). DEDUCED (log entry 36). -/
def HostSide.assign (h : HostSide) (part clusters us : Nat) : HostSide :=
  let leave := (List.range 8).filter fun k => h.partOf k == some part && !bit clusters k
  let kept : SMap Nat := leave.foldl (fun m k => m.erase k) h.comp.part
  let new : SMap Nat := (List.range 8).foldl (fun m k => if bit clusters k then m.put k part else m) kept
  let h := { h with comp := { h.comp with part := new } }
  let h := if part = 0 then h else h.set (Reg.PART_SLICE_US (part - 1)) (if clusters = 0 then 0 else us)
  let h := h.nextCseq
  let h := ((List.range 8).filter (bit clusters)).foldl HostSide.renumber h
  (List.range 8).foldl (fun h p => h.showPart (p + 1)) h

end Sys2Proof.Machine
end

