-- ==== Sys2Proof/Machine/MlDsa.lean ====
section
/-! DEFINITION. ML-DSA-65 of FIPS 204 in the pure mode with an empty context string: key generation from a seed, deterministic signing
and verification (R230, R465, R470). Polynomials are lists of 256 residues. The loops of rejection sampling read no more than FIPS 204
lets them be limited to. -/

namespace Sys2Proof.MlDsa
open Sys2Proof

abbrev Poly := List Nat

/-! ### The parameters of ML-DSA-65 -/

def q : Nat := 8380417
def gamma1 : Nat := 524288
def gamma2 : Nat := 261888
/-- Rows and columns of the matrix. -/
def rows : Nat := 6
def cols : Nat := 5
/-- Coefficients of the challenge that are not zero, and their bound times the bound of the secret. -/
def tau : Nat := 49
def beta : Nat := 196
/-- Ones that a hint may hold. -/
def omega : Nat := 55

/-! ### SHAKE (FIPS 202) -/

/-- Absorbs padded blocks of `rate` bytes. -/
def absorb (rate : Nat) : Nat → List (BitVec 64) → List Byte → List (BitVec 64)
  | 0, s, _ => s
  | n + 1, s, m =>
    let x := (List.range 25).map fun i =>
      if 8 * i < rate then s.getD i 0 ^^^ BitVec.ofNat 64 (leNat ((m.drop (8 * i)).take 8)) else s.getD i 0
    absorb rate n (keccakF x) (m.drop rate)

/-- Squeezes blocks of `rate` bytes. -/
def squeeze (rate : Nat) : Nat → List (BitVec 64) → List Byte
  | 0, _ => []
  | n + 1, s => ((s.take (rate / 8)).flatMap fun w => toLE 8 w.toNat) ++ squeeze rate n (keccakF s)

/-- The first `n` bytes of a SHAKE with the given rate. -/
def shake (rate : Nat) (m : List Byte) (n : Nat) : List Byte :=
  let k := rate - m.length % rate
  let p := m ++ (if k = 1 then [0x9F#8] else 0x1F#8 :: (List.replicate (k - 2) 0#8 ++ [0x80#8]))
  (squeeze rate ((n + rate - 1) / rate) (absorb rate (p.length / rate) (List.replicate 25 0#64) p)).take n

/-- H, which is SHAKE256, and G, which is SHAKE128. -/
def hashH (m : List Byte) (n : Nat) : List Byte := shake 136 m n
def hashG (m : List Byte) (n : Nat) : List Byte := shake 168 m n

/-! ### Residues and polynomials -/

def addQ (a b : Nat) : Nat := (a + b) % q
def subQ (a b : Nat) : Nat := (a + (q - b % q)) % q
def mulQ (a b : Nat) : Nat := a * b % q
def Poly.add (a b : Poly) : Poly := List.zipWith addQ a b
def Poly.sub (a b : Poly) : Poly := List.zipWith subQ a b
/-- The product in the transformed domain. -/
def Poly.pointwise (a b : Poly) : Poly := List.zipWith mulQ a b

/-- The representative of a residue from -(q - 1)/2 to (q - 1)/2. -/
def centered (a : Nat) : Int := if a ≤ (q - 1) / 2 then (a : Int) else (a : Int) - q
/-- The residue of an integer. -/
def residue (z : Int) : Nat := (z % (q : Int)).toNat
/-- Is every coefficient below a bound in absolute value? -/
def Poly.below (a : Poly) (b : Nat) : Bool := a.all fun c => decide ((centered c).natAbs < b)

/-- 1753, a primitive 512th root of unity, to a power. -/
def zetaPow (n : Nat) : Nat := forN n (fun _ x => mulQ x 1753) 1
/-- The bits of a byte in reverse order. -/
def bitRev8 (n : Nat) : Nat := (List.range 8).foldl (fun a i => 2 * a + n / 2 ^ i % 2) 0
/-- The points of the transform, and their inverses. -/
def points : List Nat := (List.range 256).map fun i => zetaPow (2 * bitRev8 i + 1)
def pointsInv : List Nat := (List.range 256).map fun i => zetaPow (511 - 2 * bitRev8 i)

/-- The number-theoretic transform: the polynomial's values at the points. -/
def ntt (a : Poly) : Poly := points.map fun x => a.foldr (fun c r => (c + x * r) % q) 0

/-- Coefficients from the values, each times the power of its point that the next coefficient takes. -/
def unfoldCoeffs (inv : List Nat) : Nat → List Nat → Poly
  | 0, _ => []
  | n + 1, v => mulQ (v.foldl (· + ·) 0) 8347681 :: unfoldCoeffs inv n (List.zipWith mulQ v inv)

/-- The inverse transform; 8347681 is the inverse of 256. -/
def nttInv (v : Poly) : Poly := unfoldCoeffs pointsInv 256 v

/-- A matrix of transformed polynomials times a vector of them, transformed back. -/
def matVec (a : List (List Poly)) (v : List Poly) : List Poly :=
  a.map fun row => nttInv ((List.zipWith Poly.pointwise row v).foldl Poly.add (List.replicate 256 0))
/-- A transformed polynomial times each of a vector of polynomials. -/
def scale (c : Poly) (v : List Poly) : List Poly := v.map fun p => nttInv (Poly.pointwise c (ntt p))
def addVec (a b : List Poly) : List Poly := List.zipWith Poly.add a b
def subVec (a b : List Poly) : List Poly := List.zipWith Poly.sub a b

/-! ### Bytes -/

/-- Values of `w` bits each as bytes, the least significant bit first. -/
def packBits (w : Nat) (vs : List Nat) : List Byte :=
  toLE (vs.length * w / 8) (vs.foldr (fun v n => v % 2 ^ w + 2 ^ w * n) 0)
/-- `n` values of `w` bits each. -/
def unpackBits (w n : Nat) (bs : List Byte) : List Nat :=
  let x := leNat bs
  (List.range n).map fun i => x / 2 ^ (w * i) % 2 ^ w

/-- The entries of z, from -(γ1 - 1) to γ1, in 20 bits each. -/
def packZ (p : Poly) : List Byte := packBits 20 (p.map fun c => ((gamma1 : Int) - centered c).toNat)
def unpackZ (bs : List Byte) : Poly := (unpackBits 20 256 bs).map fun v => subQ gamma1 v

/-! ### Sampling -/

/-- The residues below q among 3-byte groups of which the top bit is dropped. -/
def residuesOf : Nat → List Byte → List Nat
  | n + 1, a :: b :: c :: t =>
    let z := a.toNat + 256 * b.toNat + 65536 * (c.toNat % 128)
    if z < q then z :: residuesOf n t else residuesOf n t
  | _, _ => []

/-- The small coefficients 4 - b of the half bytes b below 9. -/
def smallOf (bs : List Byte) : Poly :=
  bs.flatMap fun b => [b.toNat % 16, b.toNat / 16].filterMap fun h => if h < 9 then some (subQ 4 h) else none

/-- The matrix, in the transformed domain. -/
def expandA (rho : List Byte) : List (List Poly) :=
  (List.range rows).map fun r => (List.range cols).map fun s =>
    (residuesOf 336 (hashG (rho ++ toLE 1 s ++ toLE 1 r) 1008)).take 256

/-- A secret polynomial. -/
def expandSmall (rho : List Byte) (i : Nat) : Poly := (smallOf (hashH (rho ++ toLE 2 i) 544)).take 256

/-- The mask of a signing attempt. -/
def expandMask (rho : List Byte) (k : Nat) : List Poly :=
  (List.range cols).map fun r => unpackZ (hashH (rho ++ toLE 2 (k + r)) 640)

/-- Places the challenge's coefficients from position `i` on: each swaps with a position drawn at or below it. -/
def placeBall : Nat → Nat → List Byte → Nat → Poly → Poly
  | 0, _, _, _, c => c
  | _ + 1, _, [], _, c => c
  | f + 1, i, j :: t, signs, c =>
    if 255 < i then c
    else if i < j.toNat then placeBall f i t signs c
    else
      let c := c.set i (c.getD j.toNat 0)
      placeBall f (i + 1) t (signs / 2) (c.set j.toNat (if signs % 2 = 1 then q - 1 else 1))

/-- The challenge polynomial of a seed. -/
def sampleInBall (seed : List Byte) : Poly :=
  let bs := hashH seed 272
  placeBall 264 (256 - tau) (bs.drop 8) (leNat (bs.take 8)) (List.replicate 256 0)

/-! ### High and low parts -/

/-- A residue as a multiple of 2^13 and a rest from -4095 to 4096. -/
def power2Round (r : Nat) : Nat × Nat :=
  let r0 := r % 8192
  if r0 ≤ 4096 then (r / 8192, r0) else (r / 8192 + 1, subQ r0 8192)

/-- A residue as a multiple of 2·γ2, 0 to 15, and a rest. -/
def decompose (r : Nat) : Nat × Int :=
  let m := r % (2 * gamma2)
  let r0 : Int := if m ≤ gamma2 then (m : Int) else (m : Int) - (2 * gamma2 : Nat)
  if (r : Int) - r0 = (q - 1 : Nat) then (0, r0 - 1) else (((r : Int) - r0).toNat / (2 * gamma2), r0)

def highBits (r : Nat) : Nat := (decompose r).1
def lowBits (r : Nat) : Nat := residue (decompose r).2
/-- The high part that a hint corrects. -/
def useHint (h : Bool) (r : Nat) : Nat :=
  let (r1, r0) := decompose r
  if !h then r1 else if 0 < r0 then (r1 + 1) % 16 else (r1 + 15) % 16

/-- Encodes the high parts of a vector. -/
def encodeW1 (w : List Poly) : List Byte := w.flatMap (packBits 4)

/-- The hint as positions, polynomial by polynomial, then where each one ends. -/
def packHint (h : List (List Bool)) : List Byte :=
  let pos := h.map fun p => (p.zipIdx.filter (·.1)).map (·.2)
  let ends := (List.range rows).map fun i => ((pos.take (i + 1)).map (·.length)).foldl (· + ·) 0
  ((pos.flatten ++ List.replicate omega 0).take omega ++ ends).flatMap (toLE 1)

/-- Is a list strictly rising? -/
def rising (l : List Nat) : Bool := (l.zip (l.drop 1)).all fun x => decide (x.1 < x.2)

/-- Reads a hint back; none where it is malformed. -/
def unpackHint (bs : List Byte) : Option (List (List Bool)) :=
  let y := bs.map (·.toNat)
  let ends := (y.drop omega).take rows
  let starts := 0 :: ends.take (rows - 1)
  let pos := List.zipWith (fun a b => (y.take b).drop a) starts ends
  let ok := (starts.zip ends).all (fun x => decide (x.1 ≤ x.2) && decide (x.2 ≤ omega)) && pos.all rising
    && ((y.take omega).drop (ends.getLastD 0)).all (· == 0)
  if ok then some (pos.map fun p => (List.range 256).map fun i => decide (i ∈ p)) else none

/-! ### Keys, signatures, verification -/

/-- A signing key: the matrix seed, K, tr, the secrets transformed, and the low part of t transformed. -/
structure Secret where
  rho : List Byte
  key : List Byte
  tr : List Byte
  s1 : List Poly
  s2 : List Poly
  t0 : List Poly

/-- Key generation from a 32-byte seed: the public key, 1,952 bytes, and the signing key. -/
def keyGen (seed : List Byte) : List Byte × Secret :=
  let x := hashH (seed ++ toLE 1 rows ++ toLE 1 cols) 128
  let rho := x.take 32
  let small := (x.drop 32).take 64
  let s1 := (List.range cols).map fun i => expandSmall small i
  let s2 := (List.range rows).map fun i => expandSmall small (cols + i)
  let t := addVec (matVec (expandA rho) (s1.map ntt)) s2
  let pk := rho ++ t.flatMap fun p => packBits 10 (p.map fun c => (power2Round c).1)
  (pk, { rho, key := x.drop 96, tr := hashH pk 64, s1, s2, t0 := t.map fun p => p.map fun c => (power2Round c).2 })

/-- What is signed, for a message in the pure mode with an empty context string. -/
def framed (m : List Byte) : List Byte := 0#8 :: 0#8 :: m

/-- One signing attempt; none: it is rejected. -/
def attempt (sk : Secret) (a : List (List Poly)) (mu mask : List Byte) (k : Nat) : Option (List Byte) :=
  let y := expandMask mask k
  let w := matVec a (y.map ntt)
  let tilde := hashH (mu ++ encodeW1 (w.map fun p => p.map highBits)) 48
  let c := ntt (sampleInBall tilde)
  let z := addVec y (scale c sk.s1)
  let low := subVec w (scale c sk.s2)
  let ct0 := scale c sk.t0
  let hint := List.zipWith (fun p t => List.zipWith (fun r z => decide (highBits r ≠ highBits (addQ r z))) p t) low ct0
  let ones := (hint.map fun p => (p.filter id).length).foldl (· + ·) 0
  if z.all (·.below (gamma1 - beta)) && low.all (fun p => Poly.below (p.map lowBits) (gamma2 - beta)) && ct0.all (·.below gamma2)
      && decide (ones ≤ omega)
  then some (tilde ++ z.flatMap packZ ++ packHint hint) else none

/-- Attempts until one is accepted. -/
def attempts (sk : Secret) (a : List (List Poly)) (mu mask : List Byte) : Nat → Nat → List Byte
  | 0, _ => []
  | n + 1, k => match attempt sk a mu mask k with
    | some s => s
    | none => attempts sk a mu mask n (k + cols)

/-- The deterministic signature of a message, 3,309 bytes. -/
def sign (sk : Secret) (m : List Byte) : List Byte :=
  let mu := hashH (sk.tr ++ framed m) 64
  attempts sk (expandA sk.rho) mu (hashH (sk.key ++ List.replicate 32 0#8 ++ mu) 64) 814 0

/-- Does a public key verify a signature of a message? -/
def verify (pk m sig : List Byte) : Bool :=
  let t1 := (List.range rows).map fun i => unpackBits 10 256 ((pk.drop (32 + 320 * i)).take 320)
  let tilde := sig.take 48
  let z := (List.range cols).map fun i => unpackZ ((sig.drop (48 + 640 * i)).take 640)
  match unpackHint (sig.drop 3248) with
  | none => false
  | some h =>
    let mu := hashH (hashH pk 64 ++ framed m) 64
    let c := ntt (sampleInBall tilde)
    let w := subVec (matVec (expandA (pk.take 32)) (z.map ntt)) (scale c (t1.map fun p => p.map fun v => v * 8192 % q))
    let w1 := List.zipWith (fun hp p => List.zipWith useHint hp p) h w
    decide (pk.length = 1952) && decide (sig.length = 3309) && z.all (·.below (gamma1 - beta)) && hashH (mu ++ encodeW1 w1) 48 == tilde

end Sys2Proof.MlDsa

namespace Sys2Proof

/-! ### The device's own keys (R470) -/

/-- A key derived from the root secret `r` under a label. -/
def derivedKey (r : BitVec 256) (label : String) : List Byte := sha3 (asciiOf "KM7KDF01" ++ toLE 32 r.toNat ++ asciiOf label)
/-- K_floor, which authenticates the floor records (R461, R470). -/
def floorKey (r : BitVec 256) : List Byte := derivedKey r "FLOOR"
/-- The identity public key, generated from its seed (R470). -/
def identityKey (r : BitVec 256) : List Byte := (MlDsa.keyGen (derivedKey r "IDENTITY")).1
/-- The identity key's deterministic signature of a message (R230, R482). -/
def identitySign (r : BitVec 256) (m : List Byte) : List Byte := MlDsa.sign (MlDsa.keyGen (derivedKey r "IDENTITY")).2 m
/-- SHA3-256 of the device's public key: the device ID (R470). -/
def deviceId (r : BitVec 256) : List Byte := sha3 (identityKey r)

end Sys2Proof
end

