-- ==== Sys2Proof/Machine/Stages.lean ====
section
/-! DEFINITION. The arithmetic of the pixel pipe's stages (R84 to R91, R103, R106): pure functions of a line, an active copy and
table memory. -/

namespace Sys2Proof.Machine
open Sys2Proof

/-- A field of an active copy (R96). -/
def cfgGet (cfg : SMap Word) (f : RF) : Nat := f.ofWord (RegFile.word cfg f.addr)

/-- Clamps to 0 … 65,535. -/
def clamp16 (z : Int) : Nat := if z < 0 then 0 else min z.toNat 65535

/-- Input planes: 3 for three-line streams, else 1 (R83). -/
def planesIn (cfg : SMap Word) (x : Nat) : Nat := if cfgGet cfg (Reg.COLOUR x) = 2 then 3 else 1

/-- Bits of a packed pixel (R84). -/
def unpackBits (u : Nat) : Nat := match u with
  | 0 => 8
  | 1 => 10
  | 2 => 12
  | _ => 16

/-- Packed bytes of a line (R83, R84). -/
def lineBytes (cfg : SMap Word) (x : Nat) : Nat :=
  planesIn cfg x * cfgGet cfg (Reg.WIDTH x) * unpackBits (cfgGet cfg (Reg.UNPACK x)) / 8

/-- Pixels of one packed group, left-justified (R84). -/
def unpackGroup (bitsN n g : Nat) : List Nat := (List.range n).map fun k => g / 2 ^ (bitsN * k) % 2 ^ bitsN * 2 ^ (16 - bitsN)

/-- Unpack (R84). -/
def unpackLine (u : Nat) (bs : List Byte) : List Nat :=
  match u with
  | 0 => bs.map fun b => b.toNat * 256
  | 1 => (chunksOf 5 bs.length bs).flatMap fun g => unpackGroup 10 4 (leNat g)
  | 2 => (chunksOf 3 bs.length bs).flatMap fun g => unpackGroup 12 2 (leNat g)
  | _ => (chunksOf 2 bs.length bs).flatMap fun g => unpackGroup 16 1 (leNat g)

/-- Cuts a line into its planes (R84). -/
def toPlanes (w : Nat) (l : List Nat) (n : Nat) : List (List Nat) := (List.range n).map fun p => (l.drop (p * w)).take w

/-- The defect entries kept (R85): MODE, COL and PLANE valid, keys strictly rising. -/
def keptDefects (w planes : Nat) : List Nat → Option Nat → List Nat
  | [], _ => []
  | e :: t, last =>
    let key := e / 65536 % 4 * 32768 + e % 32768
    let ok := e / 2 ^ 18 % 4 != 3 && e % 32768 < w && e / 65536 % 4 < planes
      && (match last with | some k => decide (k < key) | none => true)
    if ok then e :: keptDefects w planes t (some key) else keptDefects w planes t last

/-- Replaces defective pixels from the unpacked values of their neighbours at distance `d` (R85). -/
def fixDefects (d : Nat) (kept : List Nat) (ls : List (List Nat)) : List (List Nat) :=
  ls.mapIdx fun p l =>
    let a := l.toArray
    let b := (kept.filter fun e => e / 65536 % 4 == p).foldl (fun (b : Array Nat) e =>
      let c := e % 32768
      let left := if d ≤ c then some (a.getD (c - d) 0) else none
      let right := if c + d < a.size then some (a.getD (c + d) 0) else none
      let lv := left.getD (right.getD 0)
      let rv := right.getD (left.getD 0)
      b.setIfInBounds c (match e / 2 ^ 18 % 4 with | 0 => lv | 1 => rv | _ => (lv + rv + 1) / 2)) a
    b.toList

/-- Flat-field correction of one value with its table word (R86). -/
def flatOne (x e : Nat) : Nat := clamp16 ((((x : Int) - (e % 65536 : Nat)) * (e / 65536 : Nat) + 2048) / 4096)

/-- Stages 1 to 3 of a line: unpack, defects, flat field; a missing line is all zero (R84 to R86, R93). Answers the planes after
unpack and after flat field. -/
def frontStages (cfg : SMap Word) (x : Nat) (tbl : Nat → Nat) (missing : Bool) (data : List Byte) :
    List (List Nat) × List (List Nat) :=
  let w := cfgGet cfg (Reg.WIDTH x)
  let n := planesIn cfg x
  let raw := if missing then List.replicate (n * w) 0 else unpackLine (cfgGet cfg (Reg.UNPACK x)) data
  let u := toPlanes w raw n
  let d := if cfgGet cfg (Reg.DEFECT_EN x) = 1 then
      let es := (List.range (cfgGet cfg (Reg.DEF_COUNT x))).map fun i => tbl (cfgGet cfg (Reg.DEF_BASE x) + i)
      fixDefects (if cfgGet cfg (Reg.COLOUR x) = 1 then 2 else 1) (keptDefects w n es none) u
    else u
  let f := if cfgGet cfg (Reg.FLAT_EN x) = 1 then
      let base := if cfgGet cfg (Reg.FLAT_BANK x) = 1 then cfgGet cfg (Reg.FLAT_BASE1 x) else cfgGet cfg (Reg.FLAT_BASE0 x)
      d.mapIdx fun p l => l.mapIdx fun c v => flatOne v (tbl (base + p * w + c))
    else d
  (u, f)

/-- Bayer reconstruction of a line from it and its neighbours (R88): R, G, B. `par` is the line's parity. -/
def bayerLine (pat par : Nat) (north cur south : List Nat) : List (List Nat) :=
  let w := cur.length
  let col (a : Array Nat) (c : Int) : Nat := a.getD (if c < 0 then 1 else if (w : Int) ≤ c then w - 2 else c.toNat) 0
  let n := north.toArray
  let m := cur.toArray
  let s := south.toArray
  -- colour at (row, column): 0 R, 1 G of an R line, 2 G of a B line, 3 B
  let site (c : Nat) : Nat :=
    let r := (par + if pat = 2 || pat = 3 then 1 else 0) % 2
    let k := (c + if pat = 1 || pat = 3 then 1 else 0) % 2
    2 * r + k
  let px := (List.range w).map fun (c : Nat) =>
    let i : Int := c
    let v := m.getD c 0
    let ns := (col n i + col s i + 1) / 2
    let ew := (col m (i - 1) + col m (i + 1) + 1) / 2
    let plus := (col n i + col s i + col m (i - 1) + col m (i + 1) + 2) / 4
    let diag := (col n (i - 1) + col n (i + 1) + col s (i - 1) + col s (i + 1) + 2) / 4
    match site c with
    | 0 => (v, plus, diag)
    | 1 => (ew, v, ns)
    | 2 => (ns, v, ew)
    | _ => (diag, plus, v)
  [px.map (·.1), px.map (·.2.1), px.map (·.2.2)]

/-- Places of M_ij in the registers (R89, R111). -/
def matrixRF (x i j : Nat) : RF := ⟨(Reg.M00 x).addr + (3 * i + j) / 2 * 4, (3 * i + j) % 2 * 16, 16⟩
def offRF (x i : Nat) : RF := ⟨(Reg.OFF0 x).addr + i / 2 * 4, i % 2 * 16, 16⟩

/-- Colour matrix (R89). -/
def matrixLine (cfg : SMap Word) (x : Nat) (l : List (List Nat)) : List (List Nat) :=
  match l with
  | [r, g, b] =>
    if cfgGet cfg (Reg.MATRIX_EN x) != 1 then l
    else (List.range 3).map fun i =>
      let m (j : Nat) : Int := sext 16 (cfgGet cfg (matrixRF x i j))
      let off : Int := sext 16 (cfgGet cfg (offRF x i))
      (r.zip (g.zip b)).map fun (p, q, t) =>
        clamp16 ((m 0 * (p : Int) + m 1 * (q : Int) + m 2 * (t : Int) + off * 4096 + 2048) / 4096)
  | _ => l

/-- Entry `i` of a channel's LUT (R90). -/
def lutEntry (tbl : Nat → Nat) (base i : Nat) : Nat :=
  let i := min i 4095
  tbl (base + i / 2) / 2 ^ (i % 2 * 16) % 65536

/-- LUT (R90). -/
def lutLine (cfg : SMap Word) (x : Nat) (tbl : Nat → Nat) (l : List (List Nat)) : List (List Nat) :=
  if cfgGet cfg (Reg.LUT_EN x) != 1 then l
  else l.mapIdx fun c ch => ch.map fun v =>
    let base := cfgGet cfg (Reg.LUT_BASE x) + c * 2048
    (lutEntry tbl base (v / 16) * (16 - v % 16) + lutEntry tbl base (v / 16 + 1) * (v % 16) + 8) / 16

/-- A binning factor (R111). -/
def binFactor (c : Nat) : Nat := match c with
  | 1 => 2
  | 2 => 4
  | _ => 1

/-- One channel of a bin of lines (R91). -/
def binChannel (bx : Nat) (avg : Bool) (rows : List (List Nat)) : List Nat :=
  let n := bx * rows.length
  let arr := rows.map List.toArray
  (List.range ((rows.headD []).length / bx)).map fun k =>
    let sum := (arr.map fun a => ((List.range bx).map fun i => a.getD (k * bx + i) 0).sum).sum
    if avg then (sum + n / 2) / n else min sum 65535

/-- Resampling of a binned line (R91). -/
def resample (step x0 out : Nat) (l : List Nat) : List Nat :=
  let a := l.toArray
  let at_ (i : Nat) : Nat := a.getD (min i (a.size - 1)) 0
  (List.range out).map fun k =>
    let p := x0 + k * step
    let f := p / 256 % 256
    (at_ (p / 65536) * (256 - f) + at_ (p / 65536 + 1) * f + 128) / 256

/-- Binning and resampling of the channels of a bin (R91). -/
def binLines (cfg : SMap Word) (x : Nat) (rows : List (List (List Nat))) : List (List Nat) :=
  let nch := (rows.headD []).length
  let avg := cfgGet cfg (Reg.BIN_AVG x) = 1
  (List.range nch).map fun c =>
    let b := binChannel (binFactor (cfgGet cfg (Reg.BX x))) avg (rows.map fun r => r.getD c [])
    if cfgGet cfg (Reg.RS_EN x) = 1 then resample (cfgGet cfg (Reg.RS_STEP x)) (cfgGet cfg (Reg.RS_X0 x)) (cfgGet cfg (Reg.RS_OUT x)) b
    else b

/-- Final width W_f (R91). -/
def finalWidth (cfg : SMap Word) (x : Nat) : Nat :=
  if cfgGet cfg (Reg.RS_EN x) = 1 then cfgGet cfg (Reg.RS_OUT x)
  else cfgGet cfg (Reg.WIDTH x) / binFactor (cfgGet cfg (Reg.BX x))

/-! ### Formatters -/

/-- A value as 8 bits (R103). -/
def to8 (v : Nat) : Nat := min 255 ((v + 128) / 256)

def clampI (lo hi : Int) (z : Int) : Nat := (if z < lo then lo else if hi < z then hi else z).toNat
/-- Y, U, V of 8-bit R, G, B (R103). -/
def lumaOf (r g b : Nat) : Nat := clampI 16 235 (16 + (47 * (r : Int) + 157 * g + 16 * b + 128) / 256)
def chromaU (r g b : Nat) : Nat := clampI 16 240 (128 + (-26 * (r : Int) - 87 * g + 113 * b + 128) / 256)
def chromaV (r g b : Nat) : Nat := clampI 16 240 (128 + (112 * (r : Int) - 102 * g - 10 * b + 128) / 256)

/-- Pixels of a final line as R, G, B; a mono line gives R = G = B (R103). -/
def rgbOf (l : List (List Nat)) : List (Nat × Nat × Nat) :=
  match l with
  | [r, g, b] => r.zip (g.zip b)
  | m :: _ => m.map fun v => (v, v, v)
  | [] => []

/-- Averages boxes of DX columns over the gathered lines (R103). -/
def boxLine (dx : Nat) (rows : List (List (List Nat))) : List (List Nat) :=
  let nch := (rows.headD []).length
  (List.range nch).map fun c => binChannel dx true (rows.map fun r => r.getD c [])

/-- Bytes of one display line (R103). In YUV 4:2:2 the last pixel of an odd width has no pair, for which R103 gives no bytes; it is not
written. DESIGN CHOICE (log entry 29). -/
def dispBytes (fmt : Nat) (l : List (List Nat)) : List Byte :=
  let px := (rgbOf l).map fun (r, g, b) => (to8 r, to8 g, to8 b)
  let by_ (n : Nat) : Byte := BitVec.ofNat 8 n
  if fmt = 0 then px.flatMap fun (r, g, b) => [by_ r, by_ g, by_ b]
  else (chunksOf 2 px.length px).flatMap fun pr => match pr with
    | [(r, g, b), (r', g', b')] =>
      [by_ (lumaOf r g b), by_ ((chromaU r g b + chromaU r' g' b' + 1) / 2), by_ (lumaOf r' g' b'),
       by_ ((chromaV r g b + chromaV r' g' b' + 1) / 2)]
    | _ => []

/-- The Y bytes of a final line, and its U and V per pixel (R104). -/
def codeYuv (l : List (List Nat)) : List Nat × List Nat × List Nat :=
  let px := (rgbOf l).map fun (r, g, b) => (to8 r, to8 g, to8 b)
  (px.map fun (r, g, b) => lumaOf r g b, px.map fun (r, g, b) => chromaU r g b, px.map fun (r, g, b) => chromaV r g b)

/-- Chroma over 2 × 2 blocks of two lines (R104). -/
def codeChroma (a b : List Nat) : List Byte :=
  ((chunksOf 2 a.length a).zip (chunksOf 2 b.length b)).map fun (p, q) => BitVec.ofNat 8 ((p.sum + q.sum + 2) / 4)

/-- Bytes of a raw line (R105). -/
def rawBytes (raw8 : Bool) (l : List Nat) : List Byte :=
  if raw8 then l.map fun v => BitVec.ofNat 8 (to8 v) else l.flatMap fun v => toLE 2 v

/-- A value in the machine-vision format: 0 U8, 1 I8, 2 FP16 (R106). R106 says that only a NaN SCALE or BIAS gives a NaN; where x is 0
and SCALE infinite, or SCALE and BIAS are opposite infinities, the sum has no other value, and the model's fma gives NaN too. DESIGN
CHOICE (log entry 29). -/
def mvValue (tfmt scale bias v : Nat) : List Byte :=
  let y := Num.fma (.fin false v 0) (num32 scale) (num32 bias)
  let int (lo hi : Int) : Byte := match y with
    | .nan => 0
    | .inf neg => BitVec.ofInt 8 (if neg then lo else hi)
    | .fin neg m e =>
      let z := rneInt neg m e
      BitVec.ofInt 8 (if z < lo then lo else if hi < z then hi else z)
  match tfmt with
  | 0 => [int 0 255]
  | 1 => [int (-128) 127]
  | _ => toLE 2 (match y with
    | .nan => fltFP16.canonNaN
    | .inf neg => b2n neg * 32768 + fltFP16.maxWord
    | .fin neg m e =>
      let (m', e') := fltFP16.round m e
      b2n neg * 32768 + min (fltFP16.magWord m' e') fltFP16.maxWord)

/-- Bytes of columns `c0` to `c0 + n − 1` of one channel (R106). -/
def mvRow (tfmt scale bias c0 n : Nat) (l : List Nat) : List Byte :=
  ((l.drop c0).take n).flatMap (mvValue tfmt scale bias)

end Sys2Proof.Machine
end

