-- ==== Sys2Proof/Machine/Ingress.lean ====
section
/-! DEFINITION. Stream contexts at the ingress (R82, R92, R93, R95 to R99, R109): ticks, lines, frame boundaries, shadow commits,
settings requests and table memory. -/

namespace Sys2Proof.Machine
open Sys2Proof

def HostSide.pipe (h : HostSide) (p : Nat) : Pipe := SMap.get (fun _ => {}) h.pipes p
def HostSide.setPipe (h : HostSide) (p : Nat) (x : Pipe) : HostSide := { h with pipes := h.pipes.put p x }
def HostSide.modCtx (h : HostSide) (x : Nat) (f : Ctx → Ctx) : HostSide := h.setCtx x (f (h.ctx x))
def HostSide.ctxOn (h : HostSide) (x : Nat) : Bool := h.on (Reg.CTX_CTRL.EN x)
/-- Pipe a context is bound to (R82). -/
def HostSide.pipeOf (h : HostSide) (x : Nat) : Nat := x / 64 * 4 + h.get (Reg.CTX_CTRL.PIPE x)
/-- Replaces a frame of a context. -/
def HostSide.modFrame (h : HostSide) (x num : Nat) (f : PixFrame → PixFrame) : HostSide :=
  h.modCtx x fun c => { c with open_ := c.open_.map fun g => if g.num == num then f g else g }

/-! ### Table memory (R92, R97) -/

/-- A word of a pipe's table memory; one never written since power-on is undefined (R109). DESIGN CHOICE (log entry 8). -/
def HostSide.tblWord (h : HostSide) (p a : Nat) : Nat :=
  (SMap.get (fun a => BitVec.ofNat 32 (leNat ((List.range 4).map fun i =>
    Config.undefByte h.powerOns (2 ^ 40 + (p * 2 ^ 21 + a) * 4 + i)))) (h.pipe p).tbl a).toNat

/-- Regions of table memory that a copy makes active: first word, words (R92). -/
def activeRegions (cfg : SMap Word) (x : Nat) : List (Nat × Nat) :=
  let g (f : RF) : Nat := cfgGet cfg f
  let w := g (Reg.WIDTH x)
  let colour := g (Reg.COLOUR x)
  (if g (Reg.DEFECT_EN x) = 1 then [(g (Reg.DEF_BASE x), g (Reg.DEF_COUNT x))] else [])
    ++ (if g (Reg.FLAT_EN x) = 1 then
        [(if g (Reg.FLAT_BANK x) = 1 then g (Reg.FLAT_BASE1 x) else g (Reg.FLAT_BASE0 x), planesIn cfg x * w)] else [])
    ++ (if g (Reg.LUT_EN x) = 1 then [(g (Reg.LUT_BASE x), if colour = 0 then 2048 else 6144)] else [])
    ++ (if colour = 1 then [(g (Reg.DELAY_BASE x), w)]
        else if colour = 2 then [(g (Reg.DELAY_BASE x), (g (Reg.DELAY_R x) + g (Reg.DELAY_G x) + g (Reg.DELAY_B x) + 3) * w / 2)] else [])

/-- Enabled contexts of pipe `p` with an active region that holds word `a` (R92). -/
def HostSide.tblOwners (h : HostSide) (p a : Nat) : List Nat :=
  (List.range 64).map (· + p / 4 * 64) |>.filter fun x =>
    h.ctxOn x && h.pipeOf x == p && (activeRegions (h.ctx x).active x).any fun r => decide (r.1 ≤ a) && decide (a < r.1 + r.2)

/-- Writes a word of table memory; in an active region it is refused and counted (R92). Answers whether it was refused. -/
def HostSide.tblWrite (h : HostSide) (p a : Nat) (v : Word) : HostSide × Bool :=
  match h.tblOwners p a with
  | [] => (h.setPipe p { h.pipe p with tbl := (h.pipe p).tbl.put a v }, false)
  | l => ((l.foldl (fun h x => h.set (Reg.CTX_STATUS.TABLE_REFUSED x) 1) h).inc (Reg.PIPE_TABLE_REFUSED p) 1, true)

/-- The pipe keeps values in its table memory, one word each from `base` on (R87, R88). -/
def HostSide.tblKeep (h : HostSide) (p base : Nat) (ws : List Nat) : HostSide :=
  let x := h.pipe p
  h.setPipe p { x with tbl := (ws.mapIdx fun i w => (base + i, w)).foldl (fun m w => m.put (w.1 % 2 ^ 21) (BitVec.ofNat 32 w.2)) x.tbl }

/-! ### Shadow and active copies (R96, R97, R225) -/

/-- The shadow registers of a context as a copy: offsets 0x040 to 0x1FF. -/
def HostSide.ctxShadow (h : HostSide) (x : Nat) : SMap Word :=
  h.regs.filter fun r => decide (0x90040 + x * 0x400 ≤ r.1) && decide (r.1 < 0x90200 + x * 0x400)

/-- Columns of destination `k`; 0 stands for 32,768 (R111). -/
def destCols (cfg : SMap Word) (x k : Nat) : Nat :=
  let n := cfgGet cfg (Reg.COL_COUNT x k)
  if n = 0 then 32768 else n

/-- Bytes of a machine-vision value (R106). -/
def mvBytes (cfg : SMap Word) (x : Nat) : Nat := if cfgGet cfg (Reg.MV_CFG.TFMT x) = 2 then 2 else 1
/-- Plane pitch Q of destination `k` (R107). -/
def destPitch (cfg : SMap Word) (x k : Nat) : Nat := (destCols cfg x k * mvBytes cfg x + 63) / 64 * 64
/-- Lines of an output stripe (R107). -/
def outLines (cfg : SMap Word) (x : Nat) : Nat := cfgGet cfg (Reg.STRIPE_LINES x) / binFactor (cfgGet cfg (Reg.BY x))
/-- Bytes of the line table, padded (R107). -/
def tableBytes (cfg : SMap Word) (x : Nat) : Nat := (outLines cfg x * 8 + 63) / 64 * 64
/-- Output planes (R106). -/
def outPlanes (cfg : SMap Word) (x : Nat) : Nat := if cfgGet cfg (Reg.COLOUR x) = 0 then 1 else 3
/-- Bytes of a stripe slot of destination `k` (R107). DEDUCED (log entry 29). -/
def slotBytes (cfg : SMap Word) (x k : Nat) : Nat := 64 + tableBytes cfg x + outPlanes cfg x * outLines cfg x * destPitch cfg x k

/-- The check of R97 on a copy, the number of enabled contexts apart. -/
def cfgValid (cfg : SMap Word) (x : Nat) : Bool :=
  let g (f : RF) : Nat := cfgGet cfg f
  let w := g (Reg.WIDTH x)
  let fl := g (Reg.FRAME_LINES x)
  let sl := g (Reg.STRIPE_LINES x)
  let wf := finalWidth cfg x
  let byv := binFactor (g (Reg.BY x))
  let pow (n : Nat) : Bool := (List.range 8).any fun i => n == 2 ^ (i + 1)
  let mv := bit (g (Reg.OUT_EN x)) 0
  let dests := List.range (g (Reg.MV_CFG.NDEST_M1 x) + 1)
  w % 4 == 0 && decide (4 ≤ w) && decide (w ≤ 32768)
    && decide (16 ≤ fl) && decide (fl ≤ 65536) && sl != 0 && fl % sl == 0
    && decide (sl ≤ 1024) && sl % byv == 0
    && g (Reg.RS_OUT x) % 4 == 0 && decide (4 ≤ g (Reg.RS_OUT x)) && decide (g (Reg.RS_OUT x) ≤ 32768)
    && (!bit (g (Reg.OUT_EN x)) 2 || (wf % 2 == 0 && fl / byv % 2 == 0))
    && (!mv || dests.all fun k =>
        decide (g (Reg.COL_START x k) + destCols cfg x k ≤ wf) && 1 ≤ g (Reg.DEST_SLOTS x k)
          && decide (g (Reg.DEST_BASE x k) * 64 + g (Reg.DEST_SLOTS x k) * slotBytes cfg x k ≤ 2 ^ 23))
    && pow (g (Reg.STATS_SLOTS x)) && pow (g (Reg.DISP_SLOTS x)) && pow (g (Reg.CODE_SLOTS x)) && pow (g (Reg.RAW_SLOTS x))
    && g (Reg.BX x) != 3 && g (Reg.BY x) != 3 && g (Reg.COLOUR x) != 3 && g (Reg.MV_CFG.TFMT x) != 3
    && decide (g (Reg.DISP_CFG.DX x) ≤ 4) && decide (g (Reg.DISP_CFG.DY x) ≤ 4)
    && decide (g (Reg.DEF_COUNT x) ≤ 1024)
    && (activeRegions cfg x).all fun r => decide (r.1 + r.2 ≤ 2 ^ 21)

/-- CONTENT of a context's commit record (R225). -/
def HostSide.ctxContent (h : HostSide) (x : Nat) : List Byte :=
  let cfg := (h.ctx x).active
  let g (f : RF) : Nat := cfgGet cfg f
  let words (base n : Nat) : List Byte := (List.range n).flatMap fun i => toLE 4 (h.tblWord (h.pipeOf x) (base + i))
  let regs := (List.range 112).flatMap fun i => toLE 4 (RegFile.word cfg (0x90040 + x * 0x400 + 4 * i)).toNat
  let flat := if g (Reg.FLAT_BANK x) = 1 then g (Reg.FLAT_BASE1 x) else g (Reg.FLAT_BASE0 x)
  sha3 (asciiOf "KM7COND1" ++ toLE 2 x ++ regs
    ++ (if g (Reg.DEFECT_EN x) = 1 then words (g (Reg.DEF_BASE x)) (g (Reg.DEF_COUNT x)) else [])
    ++ (if g (Reg.FLAT_EN x) = 1 then words flat (planesIn cfg x * g (Reg.WIDTH x)) else [])
    ++ (if g (Reg.LUT_EN x) = 1 then words (g (Reg.LUT_BASE x)) (if g (Reg.COLOUR x) = 0 then 2048 else 6144) else []))

/-- The shadow becomes the active copy: a commit point with its record (R96, R225). -/
def HostSide.applyCtx (h : HostSide) (x : Nat) : HostSide :=
  let h := (h.modCtx x fun c => { c with active := h.ctxShadow x }).set (Reg.CTX_STATUS.COMMIT_PENDING x) 0
  let h := h.nextCseq
  h.commitRecord 2 x (h.ctxContent x)

/-! ### Lines and ticks (R93, R95, R96) -/

/-- Does a later request leave the settings of frame `f` uncertain (R99)? -/
def Ctx.unsure (c : Ctx) (f : Nat) : Bool :=
  c.sets.any (fun s => decide (s.target ≤ f)) || c.fails.any fun t => decide (t.2 ≤ f)

/-- A frame boundary: a pending commit takes effect, unless a global stop holds it (R96, R235), and the frame takes its copy and its
generation (R99). -/
def HostSide.newFrame (h : HostSide) (e : Env) (x count : Nat) : HostSide :=
  let h := if h.on (Reg.CTX_STATUS.COMMIT_PENDING x) && !h.stopped then h.applyCtx x else h
  let c := h.ctx x
  let f : PixFrame := { num := c.frames, cfg := c.active, gen := c.gen, tAck := c.tAck, uncertain := c.unsure c.frames,
                        firstCount := count, tFirst := e.tick }
  ((h.setCtx x { c with frames := c.frames + 1, open_ := c.open_ ++ [f] }).set2 (Reg.CTX_FRAME_LO x) (Reg.CTX_FRAME_HI x) c.frames).set
    (Reg.CTX_GEN_NOW x) c.gen

/-- Bytes of ingress buffer taken by the lines of link `n` (R95). -/
def HostSide.ingressUsed (h : HostSide) (n : Nat) : Nat :=
  ((List.range 128).map fun x => if h.ctxOn x && h.linkOf x == some n then ((h.ctx x).buf.map fun l => l.data.length).sum else 0).sum

/-- Size of a link's ingress buffer (R95). -/
def HostSide.ingressSize (h : HostSide) (n : Nat) : Nat := if h.get (Reg.CXP_STATE.WIDTH_NOW n) = 2 then 524288 else 262144

/-- A stripe is dropped (R95): its lines leave the buffer and one entry takes their place; its lines lack for every item. Statistics
of those that have been processed go, and a Bayer line of it that waits is not produced. -/
def HostSide.dropStripe (h : HostSide) (e : Env) (x : Nat) (l : PixLine) : HostSide :=
  let c := h.ctx x
  let keep := c.buf.filter fun b => b.stripe != l.stripe
  let h := h.setCtx x { c with dropping := true, bayCur := c.bayCur.filter (fun b => b.1.stripe != l.stripe), buf := keep ++ [{ l with drop := true, missing := false, data := [], counts := c.counts }] }
  let first := l.idx - l.row
  let digs := (SMap.get (fun _ => []) h.insp.lineDigs x).map fun (d : LineDig) => if first ≤ d.idx then { d with bad := true } else d
  let h := { h with insp := { h.insp with lineDigs := h.insp.lineDigs.put x digs } }
  let h := (h.inc (Reg.CTX_DROP x) 1).set (Reg.CTX_STATUS.STRIPE_DROP x) 1
  let h := h.modFrame x l.frame fun f => { f with dropped := f.dropped + 1, stats := f.stats.erase l.stripe }
  (h.countG 0x23 (h.pipeOf x) 1).log e 0x0204 x 2 0 0

/-- The ingress assigns a line, or a missing one, to its stripe and frame (R93, R95, R96), and its digest begins (R220). The frame
counts its lines whether or not their stripe is dropped (R101). DEDUCED (log entry 29). -/
def HostSide.ingest (h : HostSide) (e : Env) (x count : Nat) (missing : Bool) (data : List Byte) : HostSide :=
  let h := if (h.ctx x).inFrame = 0 then h.newFrame e x count else h
  let c := h.ctx x
  let g (f : RF) : Nat := cfgGet c.active f
  let endStripe := g (Reg.STRIPE_LINES x) ≤ c.row + 1
  let endFrame := g (Reg.FRAME_LINES x) ≤ c.inFrame + 1
  let l : PixLine := { idx := c.idx, frame := c.frames - 1, stripe := c.stripe, inFrame := c.inFrame, row := c.row, count := count,
                       missing := missing, endStripe := endStripe, endFrame := endFrame, tick := e.tick, data := data }
  let fill := g (Reg.COLOUR x) = 2 && decide (c.idx < max (g (Reg.DELAY_R x)) (max (g (Reg.DELAY_G x)) (g (Reg.DELAY_B x))))
  let dig : LineDig := { idx := c.idx, count := count, tick := e.tick, missing := missing, bad := missing || fill || c.dropping, raw := data }
  let digs := SMap.get (fun _ => []) h.insp.lineDigs x ++ [dig]
  let h := { h with insp := { h.insp with lineDigs := h.insp.lineDigs.put x digs } }
  let h := h.setCtx x { c with counts := c.counts ++ [count] }
  let full := match h.linkOf x with
    | some n => !missing && decide (h.ingressSize n < h.ingressUsed n + data.length)
    | none => false
  let h := if c.dropping then
      h.modCtx x fun c => { c with buf := c.buf.map fun b =>
        if b.drop && b.stripe == l.stripe then { b with counts := c.counts, endStripe := endStripe, endFrame := endFrame } else b }
    else if full then h.dropStripe e x l
    else h.modCtx x fun c => { c with buf := c.buf ++ [l] }
  let h := h.modFrame x l.frame fun f => { f with lines := f.lines + 1, missing := f.missing + b2n missing, tLast := e.tick }
  let h := if missing then ((h.inc (Reg.CTX_MISS x) 1).set (Reg.CTX_STATUS.LINE_MISS x) 1).log e 0x0204 x 1 0 0 else h
  let h := h.modCtx x fun c => { c with
    idx := c.idx + 1, inFrame := if endFrame then 0 else c.inFrame + 1, row := if endStripe then 0 else c.row + 1,
    stripe := if endStripe then c.stripe + 1 else c.stripe, dropping := c.dropping && !endStripe,
    counts := if endStripe then [] else c.counts }
  (h.lineSeen e x count).gapLine x l.idx count e.tick 5

/-- The oldest pending tick is retired as a missing line (R93). -/
def HostSide.retireTick (h : HostSide) (e : Env) (x : Nat) : HostSide :=
  match (h.ctx x).ticks with
  | [] => h
  | t :: rest => (h.modCtx x fun c => { c with ticks := rest }).ingest e x t true []

/-- A tick of source `j` reaches the contexts that pair with it (R93, R279); `lost`: already retired as missing. The missing line of a
lost tick is assigned at once, before the lines of older ticks that are still pending: the rules give it no place among them. DESIGN
CHOICE (log entry 30). -/
def HostSide.pixTick (h : HostSide) (e : Env) (j count : Nat) (lost : Bool) : HostSide :=
  forN e.variant.ctxs (fun x h =>
    if !h.ctxOn x || !h.on (Reg.CTX_CTRL.TICK_PAIR x) || h.get (Reg.CTX_CTRL.TRIG_SRC x) != j then h
    else if lost then h.ingest e x count true []
    else
      let h := if 64 ≤ (h.ctx x).ticks.length then h.retireTick e x else h
      h.modCtx x fun c => { c with ticks := c.ticks ++ [count] }) h

/-- PIX_LINE_COMPLETE: the line in arrival from link `n` for context `x` is complete (R82, R84, R93). -/
def execPixLineComplete (n x : Nat) (s : State) : Host.Outcome State Fault Refusal :=
  s.onHost fun e h =>
    if e.variant.links ≤ n || e.variant.ctxs ≤ x then h
    else
      let l := h.link n
      let (data, bad) := SMap.get (fun _ => ([], false)) l.parts x
      let h := h.setLink n { l with parts := l.parts.erase x }
      let c := h.ctx x
      let cfg := if c.inFrame = 0 && h.on (Reg.CTX_STATUS.COMMIT_PENDING x) && !h.stopped then h.ctxShadow x else c.active
      let bad := bad || data.length != lineBytes cfg x
      if !h.ctxOn x then h
      else if h.linkOf x != some n then h.inc (Reg.CTX_EXTRA x) 1
      else if !h.on (Reg.CTX_CTRL.TICK_PAIR x) then (if bad then h else h.ingest e x 0 false data)
      else match c.ticks with
        | [] => h.inc (Reg.CTX_EXTRA x) 1
        | t :: rest => (h.modCtx x fun c => { c with ticks := rest }).ingest e x t bad (if bad then [] else data)

/-- PIX_TICK_TIMEOUT: the oldest pending tick's age reaches LINE_TO (R93). -/
def execPixTickTimeout (x : Nat) (s : State) : Host.Outcome State Fault Refusal :=
  s.onHost fun e h => if e.variant.ctxs ≤ x || !h.ctxOn x then h else h.retireTick e x

/-! ### Commits (R96) -/

/-- Does a global stop hold a write to context `x` (R235)? Later writes wait behind it. -/
def HostSide.ctxHeld (h : HostSide) (x : Nat) : Bool := h.heldCtx.any fun w => w.1 == x

/-- CTX_COMMIT: the shadow is checked; in a disabled context the commit takes effect at once (R96, R97), in a global stop after the
resume (R235). -/
def execCtxCommit (x : Nat) (s : State) : Host.Outcome State Fault Refusal :=
  s.onBar fun e h =>
    if e.variant.ctxs ≤ x || h.on (Reg.CTX_STATUS.COMMIT_PENDING x) then h
    else if !cfgValid (h.ctxShadow x) x then h.set (Reg.CTX_STATUS.CFG_INVALID x) 1
    else if h.ctxOn x && !h.ctxHeld x then h.set (Reg.CTX_STATUS.COMMIT_PENDING x) 1
    else if h.stopped then { h.set (Reg.CTX_STATUS.COMMIT_PENDING x) 1 with heldCtx := h.heldCtx ++ [(x, none)] }
    else h.applyCtx x

/-- CTX_ABORT: a commit that a global stop holds goes too (R96, R235). -/
def execCtxAbort (x : Nat) (s : State) : Host.Outcome State Fault Refusal :=
  s.onBar fun e h =>
    if e.variant.ctxs ≤ x then h
    else { h with heldCtx := h.heldCtx.filter fun w => w != (x, none) }.set (Reg.CTX_STATUS.COMMIT_PENDING x) 0

/-- PIPE_COMMIT: the order waits for its wrap (R96). -/
def execPipeCommit (p : Nat) (s : State) : Host.Outcome State Fault Refusal :=
  s.onBar fun e h => if e.variant.pipes ≤ p then h else h.set (Reg.PIPE_STATUS.COMMIT_PENDING p) 1

/-- An enable (R97, R109): the shadow is checked and copied, numbers restart. Settings requests that failed, or that the camera has
still to acknowledge, leave every frame from the first on uncertain (R99). DEDUCED (log entry 30). -/
def HostSide.enableCtx (h : HostSide) (x : Nat) (v : Word) : HostSide :=
  let h := { h with regs := h.regs.accWrite (Reg.CTX_CTRL.EN x).addr v true }
  let n := ((List.range 64).filter fun i => h.ctxOn (x / 64 * 64 + i) && h.pipeOf (x / 64 * 64 + i) == h.pipeOf x).length
  if !cfgValid (h.ctxShadow x) x || 32 ≤ n then h.set (Reg.CTX_STATUS.CFG_INVALID x) 1
  else
    let c := h.ctx x
    let h := h.setCtx x { sets := c.sets.map fun r => { r with target := 0 }, gen := c.gen, tAck := c.tAck,
                          fails := c.fails.map fun t => (t.1, 0) }
    let h := (if h.firstCtxOf x then { h with insp := { h.insp with named := 0, unnamed := [] } } else h)
    let h := { h with insp := { h.insp with lineDigs := h.insp.lineDigs.erase x } }
    let h := ((h.set (Reg.CTX_CTRL.EN x) 1).set (Reg.CTX_STATUS.RUNNING x) 1).set2 (Reg.CTX_FRAME_LO x) (Reg.CTX_FRAME_HI x) 0
    h.applyCtx x

/-- CTX_CTRL is written with EN = 1: in a running context PIPE holds (R97, R109, R111). -/
def HostSide.writeCtxOn (h : HostSide) (x : Nat) (v : Word) : HostSide :=
  if h.ctxOn x then
    let pipe := h.get (Reg.CTX_CTRL.PIPE x)
    { h with regs := h.regs.accWrite (Reg.CTX_CTRL.EN x).addr v true }.set (Reg.CTX_CTRL.PIPE x) pipe
  else h.enableCtx x v

/-- CTX_ENABLE: CTX_CTRL is written with EN = 1 (R97, R109); in a global stop the enable, a commit of the shadow, waits for the
resume, and so does any behind a write that waits (R235). -/
def execCtxEnable (x : Nat) (v : Word) (s : State) : Host.Outcome State Fault Refusal :=
  s.onBar fun e h =>
    if e.variant.ctxs ≤ x || !v.getLsbD 0 then h
    else if h.stopped && (!h.ctxOn x || h.ctxHeld x) then { h with heldCtx := h.heldCtx ++ [(x, some v)] }
    else h.writeCtxOn x v

/-! ### Camera settings (R98, R99) -/

def HostSide.showSets (h : HostSide) (x : Nat) : HostSide := h.set (Reg.SET_STATUS.QUEUED x) (h.ctx x).sets.length

/-- A request fails: the rest is not issued, frames from its target on stay uncertain (R99). -/
def HostSide.setFails (h : HostSide) (x gen : Nat) : HostSide :=
  let c := h.ctx x
  let t := ((c.sets.find? fun r => r.gen == gen).map (·.target)).getD 0
  ((h.setCtx x { c with sets := c.sets.filter fun r => r.gen != gen, fails := c.fails ++ [(gen, t)] }).set (Reg.CTX_STATUS.SET_FAIL x) 1).showSets x

/-- Issues the requests whose moment has come: the first line of the last stripe of frame T − 1 has entered unpack (R98). On a link
that is not UP a request fails at once (R53, R99). -/
def HostSide.issueSets (h : HostSide) (x : Nat) : HostSide :=
  (h.ctx x).sets.foldl (fun h r =>
    if r.issued || (h.ctx x).lastBegun < r.target then h
    else match h.linkOf x with
      | none => h.setFails x r.gen
      | some n =>
        if h.linkState n != 5 then h.setFails x r.gen
        else
          let h := h.modCtx x fun c => { c with sets := c.sets.map fun q => if q.gen == r.gen then { q with issued := true } else q }
          h.setLink n { h.link n with setWr := (h.link n).setWr ++ [x] }) h

/-- SET_GO: a request enters the 4-entry queue (R98), where it counts, in QUEUED and for SET_FULL, until its last acknowledge or its
failure: R98 does not say when it leaves. DESIGN CHOICE (log entry 30). -/
def execSetGo (x : Nat) (v : Word) (s : State) : Host.Outcome State Fault Refusal :=
  s.onBar fun e h =>
    if e.variant.ctxs ≤ x || !v.getLsbD 0 then h
    else
      let h := { h with regs := h.regs.accWrite (Reg.SET_CMD.GO x).addr v false }
      let c := h.ctx x
      if 4 ≤ c.sets.length then h.set (Reg.CTX_STATUS.SET_FULL x) 1
      else
        let gen := h.get (Reg.SET_GEN_LAST x) + 1
        let w := (List.range (h.get (Reg.SET_CMD.NWR_M1 x) + 1)).map fun i => (h.get (Reg.SET_ADDR x i), h.get (Reg.SET_VAL x i))
        let r : SetReq := { gen := gen, target := c.frames - 1 + max 1 (h.get (Reg.SET_CMD.LEAD x)), writes := w }
        (((h.setCtx x { c with sets := c.sets ++ [r] }).set (Reg.SET_GEN_LAST x) gen).showSets x).issueSets x

/-- SETTINGS_ACK: the camera acknowledges the oldest issued write on the context's link, or it fails under R53 (R99). It waits for a
host control command in progress (R98). The line-scan streams that R99 gives TAIL_CHANGED are taken to be those with TICK_PAIR = 1.
DEDUCED (log entry 30). -/
def execSettingsAck (x : Nat) (ok : Bool) (s : State) : Host.Outcome State Fault Refusal :=
  s.onHost fun e h =>
    match findN 16 (fun n => (h.link n).setWr.head? == some x && !h.on (Reg.CXP_CC_STATUS.BUSY n)),
        (h.ctx x).sets.find? (fun r => r.issued) with
    | some n, some r =>
      let l := h.link n
      if !ok then (h.setLink n { l with setWr := l.setWr.drop 1 }).setFails x r.gen
      else if r.done + 1 < r.writes.length then
        h.modCtx x fun c => { c with sets := c.sets.map fun q => if q.gen == r.gen then { q with done := q.done + 1 } else q }
      else
        let h := h.setLink n { l with setWr := l.setWr.drop 1 }
        let h := h.modCtx x fun c => { c with
          sets := c.sets.filter (fun q => q.gen != r.gen), gen := max c.gen r.gen, tAck := if c.gen < r.gen then e.tick else c.tAck,
          fails := c.fails.filter fun t => decide (r.gen ≤ t.1) }
        let h := h.showSets x
        let c := h.ctx x
        if h.on (Reg.CTX_CTRL.TICK_PAIR x) && c.inFrame != 0 then h.modFrame x (c.frames - 1) fun f => { f with tail := true } else h
    | _, _ => h

end Sys2Proof.Machine
end

