-- ==== Sys2Proof/Machine/Pixel.lean ====
section
/-! DEFINITION. A pixel pipe at work (R83, R87 to R109): turns, the passage of a line through the stages, statistics, frame records,
images, stripes and posts. -/

namespace Sys2Proof.Machine
open Sys2Proof

/-- The frame of a line, if its record is still to come. -/
def HostSide.frameOf (h : HostSide) (x num : Nat) : PixFrame := ((h.ctx x).open_.find? fun f => f.num == num).getD {}

/-! ### Rings of records and images (R102) -/

/-- Does a host ring of `slots` take image or record number `n` when `cons` are consumed (R102)? -/
def ringTakes (n slots cons : Nat) : Bool := (n + 65536 - 1 - cons % 65536) % 65536 != slots

/-- A 64-bit host address held in a _LO and a _HI register. -/
def baseOf (cfg : SMap Word) (lo hi : RF) : Nat := cfgGet cfg lo * 2 ^ lo.lo + cfgGet cfg hi * 2 ^ 32

/-- The first line of a frame is processed: its record number and image numbers are given, or the full rings skip them (R101,
R102). DEDUCED (log entry 29). -/
def HostSide.beginFrame (h : HostSide) (x num : Nat) : HostSide :=
  let f := h.frameOf x num
  if f.begun then h
  else
    let g (r : RF) : Nat := cfgGet f.cfg r
    let out := g (Reg.OUT_EN x)
    let want := g (Reg.STATS_CFG.EN x) = 1 || bit out 1 || bit out 2 || bit out 3
    let c := h.ctx x
    if !want then h.modFrame x num fun f => { f with begun := true }
    else if !ringTakes (c.recs + 1) (g (Reg.STATS_SLOTS x)) (h.get (Reg.STATS_CONS x)) then
      ((h.modFrame x num fun f => { f with begun := true }).inc (Reg.CTX_REC_DROP x) 1).set (Reg.CTX_STATUS.STATS_OVF x) 1
    else
      let img (b : Nat) (seq : Nat) (slots cons : RF) : Option Nat :=
        if bit out b && ringTakes (seq + 1) (g slots) (h.get cons) then some (seq + 1) else none
      let d := img 1 c.dispSeq (Reg.DISP_SLOTS x) (Reg.DISP_CONS x)
      let k := img 2 c.codeSeq (Reg.CODE_SLOTS x) (Reg.CODE_CONS x)
      let r := img 3 c.rawSeq (Reg.RAW_SLOTS x) (Reg.RAW_CONS x)
      let (ds, ks, rs) := (d.getD c.dispSeq, k.getD c.codeSeq, r.getD c.rawSeq)
      let h := h.setCtx x { c with recs := c.recs + 1, dispSeq := ds, codeSeq := ks, rawSeq := rs }
      h.modFrame x num fun f => { f with begun := true, rseq := some (c.recs + 1), disp := d, code := k, raw := r,
                                         dispSeq := ds, codeSeq := ks, rawSeq := rs }

/-! ### Statistics (R100) -/

/-- Adds a line's channel to the histogram and the zones of its stripe (R100). -/
def addStats (cfg : SMap Word) (s : Stat) (x ch inFrame : Nat) (vals : List Nat) : Stat :=
  let g (r : RF) : Nat := cfgGet cfg r
  let zx := g (Reg.STATS_CFG.ZX_M1 x) + 1
  let zy := g (Reg.STATS_CFG.ZY_M1 x) + 1
  let w := g (Reg.WIDTH x)
  let row := inFrame * zy / g (Reg.FRAME_LINES x)
  let up (m : SMap Nat) (k n : Nat) : SMap Nat := m.put k (SMap.get (fun _ => 0) m k + n)
  (vals.mapIdx fun i v => (i, v)).foldl (fun s (i, v) =>
    let z := (row * 32 + i * zx / w) * 4 + ch
    { hist := up s.hist (ch * 256 + v / 256) 1, zsum := up s.zsum z v, zcnt := up s.zcnt z 1 }) s

/-- A count over all stripes of a frame. -/
def PixFrame.total (f : PixFrame) (m : Stat → SMap Nat) (k : Nat) : Nat := (f.stats.map fun s => SMap.get (fun _ => 0) (m s.2) k).sum

/-- Statistics at tap `tap`: missing and fill lines are excluded (R100). DEDUCED (log entry 29). -/
def HostSide.stats (h : HostSide) (x tap : Nat) (l : PixLine) (bad : Bool) (chans : List (List Nat)) : HostSide :=
  let f := h.frameOf x l.frame
  if bad || cfgGet f.cfg (Reg.STATS_CFG.EN x) != 1 || cfgGet f.cfg (Reg.STATS_CFG.TAP x) != tap then h
  else
    let all : List (Nat × List Nat) := match tap, chans with
      | 0, _ => chans.map fun c => (0, c)
      | _, [r, g, b] => [(0, r), (1, g), (2, b), (3, (r.zip (g.zip b)).map fun (p, q, t) => (77 * p + 150 * q + 29 * t + 128) / 256)]
      | _, _ => chans.map fun c => (0, c)
    h.modFrame x l.frame fun f =>
      let s := all.foldl (fun s (ch, vals) => addStats f.cfg s x ch l.inFrame vals) (SMap.get (fun _ => {}) f.stats l.stripe)
      { f with stats := f.stats.put l.stripe s }

/-! ### Images in host memory (R103 to R105) -/

/-- Address of slot (n − 1) mod SLOTS of a ring of images. -/
def slotAt (base slots size n : Nat) : Nat := base + (n - 1) % slots * size

/-- The raw formatter at its tap (R105). A TAP of 3, which R105 does not define, acts as 2. DESIGN CHOICE (log entry 29). -/
def HostSide.rawOut (h : HostSide) (x tap : Nat) (l : PixLine) (chans : List (List Nat)) : HostSide :=
  let f := h.frameOf x l.frame
  let g (r : RF) : Nat := cfgGet f.cfg r
  match f.raw with
  | none => h
  | some n =>
    if g (Reg.RAW_CFG.TAP x) != tap && !(tap = 2 && g (Reg.RAW_CFG.TAP x) = 3) then h
    else
      let lines := g (Reg.FRAME_LINES x)
      let pitch := g (Reg.RAW_PITCH x)
      let base := slotAt (baseOf f.cfg (Reg.RAW_BASE_LO x) (Reg.RAW_BASE_HI x)) (g (Reg.RAW_SLOTS x)) (pitch * lines * chans.length) n
      (chans.mapIdx fun p c => (p, c)).foldl (fun h (p, c) =>
        h.hostWrite (base + (p * lines + l.inFrame) * pitch) (rawBytes (g (Reg.RAW_CFG.RAW8 x) = 1) c)) h

/-- The display formatter (R103). `y` is the final line's number in its frame. A box that lacks a line of a dropped stripe is not
written. DESIGN CHOICE (log entry 29). -/
def HostSide.dispOut (h : HostSide) (x num y : Nat) (chans : List (List Nat)) : HostSide :=
  let f := h.frameOf x num
  let g (r : RF) : Nat := cfgGet f.cfg r
  match f.disp with
  | none => h
  | some n =>
    let dx := 2 ^ g (Reg.DISP_CFG.DX x)
    let dy := 2 ^ g (Reg.DISP_CFG.DY x)
    let rows := (h.ctx x).dispRows.filter (fun r => r.1 / dy == y / dy) ++ [(y, chans)]
    if (y + 1) % dy != 0 then h.modCtx x fun c => { c with dispRows := rows }
    else
      let pitch := g (Reg.DISP_PITCH x)
      let lines := g (Reg.FRAME_LINES x) / (binFactor (g (Reg.BY x)) * dy)
      let base := slotAt (baseOf f.cfg (Reg.DISP_BASE_LO x) (Reg.DISP_BASE_HI x)) (g (Reg.DISP_SLOTS x)) (pitch * lines) n
      let h := h.modCtx x fun c => { c with dispRows := [] }
      if rows.length < dy then h
      else h.hostWrite (base + y / dy * pitch) (dispBytes (g (Reg.DISP_CFG.FMT x)) (boxLine dx (rows.map (·.2))))

/-- The coding formatter (R104): lines pair from line 0 of the frame; the chroma of a pair that lacks a line of a dropped stripe is
not written. DESIGN CHOICE (log entry 29). -/
def HostSide.codeOut (h : HostSide) (x num y : Nat) (chans : List (List Nat)) : HostSide :=
  let f := h.frameOf x num
  let g (r : RF) : Nat := cfgGet f.cfg r
  match f.code with
  | none => h
  | some n =>
    let pitch := g (Reg.CODE_PITCH x)
    let hgt := g (Reg.FRAME_LINES x) / binFactor (g (Reg.BY x))
    let base := slotAt (baseOf f.cfg (Reg.CODE_BASE_LO x) (Reg.CODE_BASE_HI x)) (g (Reg.CODE_SLOTS x)) (pitch * hgt * 3 / 2) n
    let (yv, u, v) := codeYuv chans
    let h := h.hostWrite (base + y * pitch) (yv.map (BitVec.ofNat 8))
    if y % 2 = 0 then h.modCtx x fun c => { c with codeRow := some (y, u, v) }
    else match (h.ctx x).codeRow with
      | some (y0, u0, v0) =>
        let h := h.modCtx x fun c => { c with codeRow := none }
        if y0 + 1 != y then h
        else
          let h := h.hostWrite (base + pitch * hgt + y / 2 * (pitch / 2)) (codeChroma u0 u)
          h.hostWrite (base + pitch * hgt + pitch / 2 * (hgt / 2) + y / 2 * (pitch / 2)) (codeChroma v0 v)
      | none => h

/-! ### Frame records (R101, R102) -/

/-- The 8,320 bytes of a frame record, PHASE included (R101). NCH4 is 1 for a colour stream also at TAP = 0, where channel 0 alone holds
values, and a SKIPPED flag is 0 where its formatter is not enabled. DESIGN CHOICE (log entry 29). -/
def frameRecord (x r : Nat) (f : PixFrame) (trunc : Bool) : List Byte :=
  let g (q : RF) : Nat := cfgGet f.cfg q
  let slots := g (Reg.STATS_SLOTS x)
  let st := g (Reg.STATS_CFG.EN x) = 1
  let out := g (Reg.OUT_EN x)
  let phase := b2n ((r - 1) / slots % 2 == 0)
  let skip (b : Nat) (o : Option Nat) : Nat := b2n (bit out b && o.isNone)
  let flags := b2n f.uncertain + 2 * b2n f.tail + 4 * b2n (f.dropped != 0) + 8 * b2n (f.missing != 0) + 16 * b2n f.fill + 32 * b2n st
    + 64 * skip 1 f.disp + 128 * skip 2 f.code + 256 * skip 3 f.raw + 512 * b2n trunc
  let colour := g (Reg.COLOUR x) != 0
  let geo := g (Reg.WIDTH x) % 32768 + g (Reg.STATS_CFG.ZX_M1 x) * 2 ^ 16 + g (Reg.STATS_CFG.ZY_M1 x) * 2 ^ 24
    + b2n colour * 2 ^ 28 + g (Reg.STATS_CFG.TAP x) * 2 ^ 29
  let head := toLE 8 (1 + 16 * phase + r % 2 ^ 56 * 256) ++ toLE 8 f.num ++ toLE 4 f.gen ++ toLE 4 flags ++ toLE 4 f.firstCount
    ++ toLE 4 f.lines ++ toLE 2 (satU 16 f.missing) ++ toLE 2 f.dropped ++ toLE 4 geo ++ toLE 8 f.tFirst ++ toLE 8 f.tLast
    ++ toLE 2 f.dispSeq ++ toLE 2 f.codeSeq ++ toLE 2 f.rawSeq ++ toLE 2 0 ++ toLE 8 f.tAck ++ List.replicate 56 0
  let hist := if st then (List.range 1024).flatMap fun i => toLE 4 (f.total Stat.hist i) else List.replicate 4096 0
  let zone (i : Nat) : Nat :=
    let n := f.total Stat.zcnt i
    if n = 0 then 0 else (f.total Stat.zsum i + n / 2) / n
  let zones := if st then (List.range 2048).flatMap fun i => toLE 2 (zone i) else List.replicate 4096 0
  head ++ hist ++ zones

/-- A frame ends: its record is written, bytes 0 to 7 last, and FRAME_DONE sets (R101, R102). -/
def HostSide.endFrame (h : HostSide) (x num : Nat) (trunc : Bool) : HostSide :=
  let f := h.frameOf x num
  let h := match f.rseq with
    | none => h
    | some r =>
      let base := baseOf f.cfg (Reg.STATS_BASE_LO x) (Reg.STATS_BASE_HI x)
      let a := slotAt base (cfgGet f.cfg (Reg.STATS_SLOTS x)) 8320 r
      (h.hostWrite a (frameRecord x r f trunc)).set (Reg.CTX_STATUS.FRAME_DONE x) 1
  h.modCtx x fun c => { c with open_ := c.open_.filter (fun g => g.num != num), dispRows := [], codeRow := none }

/-! ### Stripes (R106 to R108, R157 to R159) -/

/-- The enabled channel that binds destination `k` of context `x`: cluster and channel (R157). -/
def HostSide.boundChan (h : HostSide) (x k : Nat) : Option (Nat × Nat) :=
  (findN 128 fun n =>
    h.on (Reg.LSC_CFG.EN (n / 16) (n % 16)) && !h.on (Reg.LSC_CFG.PROD (n / 16) (n % 16))
      && h.get (Reg.LSC_CFG.PCTX (n / 16) (n % 16)) == x && h.get (Reg.LSC_CFG.PDEST (n / 16) (n % 16)) == k).map
    fun n => (n / 16, n % 16)

/-- Destinations of a copy with the machine-vision output on (R106). -/
def dests (cfg : SMap Word) (x : Nat) : List Nat :=
  if bit (cfgGet cfg (Reg.OUT_EN x)) 0 then List.range (cfgGet cfg (Reg.MV_CFG.NDEST_M1 x) + 1) else []

/-- May the pipe write the stripe that is `ahead` of the next one to be posted: in every bound destination the slot it fills is known
to be free, and no destination's cluster sleeps (R108, R159, R437)? -/
def HostSide.slotsFree (h : HostSide) (cfg : SMap Word) (x ahead : Nat) : Bool :=
  (dests cfg x).all fun k => !h.asleep (cfgGet cfg (Reg.DEST_CLU x k)) && match h.boundChan x k with
    | none => true
    | some (c, i) =>
      let n := (h.chan c i).posts + (h.chan c i).pipePosts.length + ahead
      let sl := h.chanSlots c i
      decide (n < sl) || decide (n - sl < (h.chan c i).pipeKnown)

/-- Byte offset of destination `k`'s slot for stripe `s` (R107, R108). -/
def destSlot (cfg : SMap Word) (x k s : Nat) : Nat :=
  cfgGet cfg (Reg.DEST_BASE x k) * 64 + s % max 1 (cfgGet cfg (Reg.DEST_SLOTS x k)) * slotBytes cfg x k

/-- Writes bytes into a line store, piece by piece (R181). Of the pieces of this write, numbered from 64 × `w` on, `bad` gives those
that were changed in transit: their tiles are poisoned (R182). -/
def HostSide.lsPut (h : HostSide) (e : Env) (clu off w : Nat) (bs : List Byte) (bad : List (Nat × List Byte)) : HostSide :=
  ((h.landPieces e 1 clu off 2048 bs ((bad.filter fun b => b.1 / 64 == w).map fun b => (b.1 % 64, b.2))).1).countAccess false 1 clu
    bs.length

/-- The machine-vision formatter writes one final line into every destination (R106, R107). `j` is its row in the output stripe.
Channel c of destination k is write 4k + c of the line. -/
def HostSide.mvOut (h : HostSide) (e : Env) (x num stripe j : Nat) (chans : List (List Nat)) (bad : List (Nat × List Byte)) : HostSide :=
  let cfg := (h.frameOf x num).cfg
  let g (r : RF) : Nat := cfgGet cfg r
  (dests cfg x).foldl (fun h k =>
    (chans.mapIdx fun c v => (c, v)).foldl (fun h (c, v) =>
      let off := destSlot cfg x k stripe + 64 + tableBytes cfg x + (c * outLines cfg x + j) * destPitch cfg x k
      h.lsPut e (g (Reg.DEST_CLU x k)) off (4 * k + c)
        (mvRow (g (Reg.MV_CFG.TFMT x)) (g (Reg.SCALE x c)) (g (Reg.BIAS x c)) (g (Reg.COL_START x k)) (destCols cfg x k) v) bad) h) h

/-- The header of a stripe slot (R107). -/
def stripeHeader (x : Nat) (f : PixFrame) (stripe : Nat) (drop trunc : Bool) (tbl : List (Nat × Bool × Bool)) (first c0 cols : Nat) :
    List Byte :=
  let w := 1 + x * 16 + b2n drop * 2 ^ 11 + b2n (tbl.any fun t => t.2.1) * 2 ^ 12 + b2n (tbl.any fun t => t.2.2) * 2 ^ 13
    + b2n trunc * 2 ^ 14 + b2n f.uncertain * 2 ^ 15 + tbl.length * 2 ^ 16 + f.gen % 2 ^ 32 * 2 ^ 32
  toLE 8 w ++ toLE 8 stripe ++ toLE 8 f.num ++ toLE 4 first ++ toLE 2 c0 ++ toLE 2 cols
    ++ List.replicate 32 0

/-- The stripe ends: line table and header are written once, and the stripe is posted (R107, R108, R158). The table of destination k is
write 32 + k, its header 40 + k. -/
def HostSide.endStripe (h : HostSide) (e : Env) (x : Nat) (f : PixFrame) (stripe : Nat) (drop trunc : Bool) (tbl : List (Nat × Bool × Bool))
    (first : Nat) (bad : List (Nat × List Byte)) : HostSide :=
  let g (r : RF) : Nat := cfgGet f.cfg r
  let rows := tbl.flatMap fun (n, m, fl) => toLE 8 (n % 2 ^ 32 + b2n m * 2 ^ 32 + b2n fl * 2 ^ 33)
  let rows := rows ++ List.replicate (tableBytes f.cfg x - rows.length) 0
  let h := (dests f.cfg x).foldl (fun h k =>
    let off := destSlot f.cfg x k stripe
    let h := h.lsPut e (g (Reg.DEST_CLU x k)) (off + 64) (32 + k) rows bad
    let h := h.lsPut e (g (Reg.DEST_CLU x k)) off (40 + k)
      (stripeHeader x f stripe drop trunc tbl first (g (Reg.COL_START x k)) (g (Reg.COL_COUNT x k))) bad
    match h.boundChan x k with
    | some (c, i) => h.setChan c i { h.chan c i with pipePosts := (h.chan c i).pipePosts ++ [first] }
    | none => h) h
  h.modCtx x fun c => { c with table := [], bin := [], binBad := (false, false) }

/-- Count of the first line of a line table. -/
def firstCount (tbl : List (Nat × Bool × Bool)) : Nat := (tbl.headD (0, false, false)).1

/-! ### The stages of a line (R83, R87 to R91) -/

/-- A final line leaves the formatters (R91, R103 to R108). -/
def HostSide.finalLine (h : HostSide) (e : Env) (x : Nat) (l : PixLine) (chans : List (List Nat)) (count : Nat) (miss fill : Bool)
    (bad : List (Nat × List Byte)) : HostSide :=
  let cfg := (h.frameOf x l.frame).cfg
  let y := l.inFrame / binFactor (cfgGet cfg (Reg.BY x))
  let j := (h.ctx x).table.length
  let h := h.mvOut e x l.frame l.stripe j chans bad
  let h := (h.dispOut x l.frame y chans).codeOut x l.frame y chans
  h.modCtx x fun c => { c with table := c.table ++ [(count, miss, fill)] }

/-- A line after colour: matrix, LUT, statistics, binning, formatters, and the ends of its stripe and frame (R89 to R91). A fill line
is counted and logged (R87, R448). -/
def HostSide.colourLine (h : HostSide) (e : Env) (x : Nat) (l : PixLine) (chans : List (List Nat)) (fill : Bool)
    (bad : List (Nat × List Byte)) : HostSide :=
  let cfg := (h.frameOf x l.frame).cfg
  let tbl := h.tblWord (h.pipeOf x)
  let m := matrixLine cfg x chans
  let h := h.rawOut x 2 l m
  let t := lutLine cfg x tbl m
  let h := h.stats x 1 l (l.missing || fill) t
  let h := if fill then ((h.inc (Reg.CTX_FILL x) 1).modFrame x l.frame fun f => { f with fill := true }).log e 0x0204 x 3 0 0 else h
  let h := h.modCtx x fun c => { c with
    bin := c.bin ++ [t], binBad := (c.binBad.1 || l.missing, c.binBad.2 || fill), binCount := if c.bin.isEmpty then l.count else c.binCount }
  let c := h.ctx x
  let h := if c.bin.length < binFactor (cfgGet cfg (Reg.BY x)) then h
    else
      let h := h.modCtx x fun c => { c with bin := [], binBad := (false, false) }
      h.finalLine e x l (binLines cfg x c.bin) c.binCount c.binBad.1 c.binBad.2 bad
  let h := if l.endStripe then
      (let t := (h.ctx x).table; h.endStripe e x (h.frameOf x l.frame) l.stripe false false t (firstCount t) bad) else h
  if l.endFrame then h.endFrame x l.frame false else h

/-- The line that waits in Bayer reconstruction is produced, with `south` below it (R88), and becomes the previous line, kept in table
memory: value c in bits [15:0] of word DELAY_BASE + c. A single line, with neither line n − 1 nor line n + 1, reads itself above and
below. The first Bayer line after a commit took COLOUR to 1 from another mode has the last Bayer line kept above it, or where there is
none the mirrored line n + 1. DESIGN CHOICE (log entry 29). -/
def HostSide.bayerOut (h : HostSide) (e : Env) (x : Nat) (south : Option (List Nat)) (bad : List (Nat × List Byte)) : HostSide :=
  let c := h.ctx x
  match c.bayCur with
  | none => h
  | some (l, cur) =>
    let below := south.getD (c.bayPrev.getD cur)
    let above := c.bayPrev.getD below
    let cfg := (h.frameOf x l.frame).cfg
    let pat := cfgGet cfg (Reg.BAYER_PAT x)
    let h := h.setCtx x { c with bayCur := none, bayPrev := some cur }
    let h := h.tblKeep (h.pipeOf x) (cfgGet cfg (Reg.DELAY_BASE x)) cur
    h.colourLine e x l (bayerLine pat l.idx above cur below) false bad

/-- Two 16-bit values to a word, the first in bits [15:0]. -/
def packWords : List Nat → List Nat
  | a :: b :: t => (a + b * 65536) :: packWords t
  | [a] => [a]
  | [] => []

/-- The planes of an input line go into the delay region (R87): DELAY_R + 1 lines of the R plane, then DELAY_G + 1 of the G plane and
DELAY_B + 1 of the B plane, each a ring in which line n has place n mod its length, two values to a word. DESIGN CHOICE
(log entry 29). -/
def HostSide.keepDelay (h : HostSide) (x : Nat) (cfg : SMap Word) (n : Nat) (planes : List (List Nat)) : HostSide :=
  let w := cfgGet cfg (Reg.WIDTH x)
  let len (r : RF) : Nat := cfgGet cfg r + 1
  let put (h : HostSide) (at_ lines : Nat) (vals : List Nat) : HostSide :=
    h.tblKeep (h.pipeOf x) (cfgGet cfg (Reg.DELAY_BASE x) + (at_ + n % lines) * (w / 2)) (packWords vals)
  let lr := len (Reg.DELAY_R x)
  let lg := len (Reg.DELAY_G x)
  let h := put h 0 lr (planes.getD 0 [])
  let h := put h lr lg (planes.getD 1 [])
  put h (lr + lg) (len (Reg.DELAY_B x)) (planes.getD 2 [])

/-- A line passes through the stages (R83 to R91). A Bayer line that waits is produced as this line reaches that stage, also where the
frame of this line is no longer a Bayer one (R88). Alignment has only the three-line lines that it kept: a delayed plane that lies on a
line of another mode, before a commit took COLOUR to 2, reads zeros without a fill flag. DESIGN CHOICE (log entry 29). -/
def HostSide.throughStages (h : HostSide) (e : Env) (x : Nat) (l : PixLine) (bad : List (Nat × List Byte)) : HostSide :=
  let cfg := (h.frameOf x l.frame).cfg
  let (u, f) := frontStages cfg x (h.tblWord (h.pipeOf x)) l.missing l.data
  let h := (h.rawOut x 0 l u).rawOut x 1 l f
  let d (r : RF) : Nat := cfgGet cfg r
  let colour := d (Reg.COLOUR x)
  let fill := colour = 2 && decide (l.idx < max (d (Reg.DELAY_R x)) (max (d (Reg.DELAY_G x)) (d (Reg.DELAY_B x))))
  let h := h.stats x 0 l (l.missing || fill) f
  let h := h.bayerOut e x (some (f.headD [])) bad
  match colour with
  | 1 => h.modCtx x fun c => { c with bayCur := some (l, f.headD []) }
  | 2 =>
    let hist := (f :: (h.ctx x).delay).take 256
    let plane (p dly : Nat) : List Nat := match (hist.getD dly []).drop p with
      | v :: _ => v
      | [] => List.replicate (d (Reg.WIDTH x)) 0
    let h := (h.modCtx x fun c => { c with delay := hist }).keepDelay x cfg l.idx f
    h.colourLine e x l [plane 0 (d (Reg.DELAY_R x)), plane 1 (d (Reg.DELAY_G x)), plane 2 (d (Reg.DELAY_B x))] fill bad
  | _ => h.colourLine e x l f false bad

/-- The line table of a dropped stripe: every line flagged missing (R95). -/
def droppedTable (cfg : SMap Word) (x : Nat) (counts : List Nat) : List (Nat × Bool × Bool) :=
  let byv := binFactor (cfgGet cfg (Reg.BY x))
  (List.range (counts.length / byv)).map fun j => (counts.getD (j * byv) 0, true, false)

/-- A dropped stripe takes its turn (R95): no pixels, its table and header with every line flagged missing. A Bayer line of an earlier
stripe that waits is produced with its mirrored neighbour; the line behind the stripe finds no line before it; and alignment reads zero planes, without a fill flag, for the lines
that were dropped: the rules do not say what these stages read across a dropped stripe. DESIGN CHOICE (log entry 29). -/
def HostSide.droppedTurn (h : HostSide) (e : Env) (x : Nat) (l : PixLine) (bad : List (Nat × List Byte)) : HostSide :=
  let h := h.bayerOut e x none bad
  let tbl := droppedTable (h.frameOf x l.frame).cfg x l.counts
  let h := h.modCtx x fun c => { c with bayPrev := none, delay := (List.replicate l.counts.length [] ++ c.delay).take 256 }
  let h := h.endStripe e x (h.frameOf x l.frame) l.stripe true false tbl (firstCount tbl) bad
  if l.endFrame then h.endFrame x l.frame false else h

/-! ### Turns (R94) -/

/-- A field of the pipe's active order (R96). -/
def Pipe.ord (x : Pipe) (f : RF) : Nat := cfgGet x.order f

/-- The order wraps: a pending commit takes effect, unless a global stop holds it (R96, R235). -/
def HostSide.wrapOrder (h : HostSide) (p : Nat) : HostSide :=
  if !h.on (Reg.PIPE_STATUS.COMMIT_PENDING p) || h.stopped then h
  else
    let a := (Reg.PIPE_CTRL.MUX p).addr
    let copy := h.regs.filter fun r => r.1 == a || (decide (a + 0x40 ≤ r.1) && decide (r.1 < a + 0xC0))
    ((h.setPipe p { h.pipe p with order := copy }).set (Reg.PIPE_STATUS.COMMIT_PENDING p) 0).nextCseq

/-- Looks for the next turn, at most `n` places on (R94). -/
def HostSide.nextTurn (h : HostSide) (p : Nat) : Nat → HostSide
  | 0 => h
  | n + 1 =>
    let h := if (h.pipe p).pos = 0 then h.wrapOrder p else h
    let x := h.pipe p
    let i := x.pos
    let next := if x.ord (Reg.PIPE_CTRL.ORDER_LEN_M1 p) ≤ i then 0 else i + 1
    let c := x.ord (Reg.PIPE_ORDER.CTX p i)
    let h := h.setPipe p { x with pos := next }
    if x.ord (Reg.PIPE_ORDER.VALID p i) = 0 then h.nextTurn p n
    else if !h.ctxOn c || h.pipeOf c != p then (h.set (Reg.PIPE_STATUS.ORDER_ERR p) 1).nextTurn p n
    else
      let h := if x.last != some c && x.last.isSome then h.inc (Reg.PIPE_SWITCHES p) 1 else h
      let h := h.setPipe p { h.pipe p with turn := some c, whole := h.on (Reg.PIPE_CTRL.MUX p), last := some c }
      (h.set (Reg.PIPE_STATUS.CUR_CTX p) c).set (Reg.PIPE_STATUS.IDLE p) 0

/-- PIPE_TURN_START (R94). -/
def execPipeTurnStart (p : Nat) (s : State) : Host.Outcome State Fault Refusal :=
  s.onData fun e h => if e.variant.pipes ≤ p || (h.pipe p).turn.isSome then h else h.nextTurn p 33

/-- The turn in progress ends (R94). -/
def HostSide.endTurn (h : HostSide) (p : Nat) : HostSide :=
  (h.setPipe p { h.pipe p with turn := none }).set (Reg.PIPE_STATUS.IDLE p) 1

/-- Are the slots free that the passage of line `l` begins to write (R108)? A Bayer line that waits is written with it, and the line
itself only with its successor. -/
def HostSide.mayPass (h : HostSide) (x : Nat) (l : PixLine) : Bool :=
  let cfgOf (b : PixLine) : SMap Word := (h.frameOf x b.frame).cfg
  let first (b : PixLine) : Bool := b.row = 0 || b.drop
  let own := l.drop || cfgGet (cfgOf l) (Reg.COLOUR x) != 1
  match (h.ctx x).bayCur with
  | some (b, _) =>
    (!first b || h.slotsFree (cfgOf b) x 0)
      && (!(own && first l) || h.slotsFree (cfgOf l) x (b2n (b.stripe != l.stripe)))
  | none => !(own && first l) || h.slotsFree (cfgOf l) x 0

/-- PIX_LINE_PROCESSED: the oldest line of the context in turn passes through the pipe; the turn waits for its lines and for a free
slot (R83, R94, R95, R108). `bad`: pieces of the machine-vision writes that were changed on their way to a line store, with the bytes
that arrived (R181, R182); `ecc`: what the reads of the tiles they merge into met, by cluster (R184). -/
def execPixLineProcessed (p : Nat) (bad : List (Nat × List Byte)) (ecc : List (Nat × Ecc)) (s : State) : Host.Outcome State Fault Refusal :=
  s.onData fun e h =>
    match (h.pipe p).turn with
    | none => h
    | some x =>
      match (h.ctx x).buf with
      | [] => h
      | l :: rest =>
        let cfg := (h.frameOf x l.frame).cfg
        let whole := !l.drop || l.counts.length = cfgGet cfg (Reg.STRIPE_LINES x)
        if e.variant.pipes ≤ p || !whole || !h.mayPass x l then h
        else
          let h := ((h.eccUses e 1 ecc).modCtx x fun c => { c with buf := rest }).beginFrame x l.frame
          let last := l.inFrame / cfgGet cfg (Reg.STRIPE_LINES x) + 1 == cfgGet cfg (Reg.FRAME_LINES x) / cfgGet cfg (Reg.STRIPE_LINES x)
          let h := if last && (l.row = 0 || l.drop) then
              (h.modCtx x fun c => { c with lastBegun := max c.lastBegun (l.frame + 1) }).issueSets x else h
          let busy := max ((planesIn cfg x * cfgGet cfg (Reg.WIDTH x) + 3) / 4) ((finalWidth cfg x + 3) / 4)
          let h := if l.drop then h.droppedTurn e x l bad else ((h.countG 0x21 p 1).countG 0x22 p busy).throughStages e x l bad
          if (h.pipe p).whole then (if l.endFrame then h.endTurn p else h)
          else if l.endStripe || l.drop then h.endTurn p else h

/-- PIPE_FREE_NOTICE: the pipe producer of a channel learns of the slots freed (R159). -/
def execPipeFreeNotice (k h : Nat) (s : State) : Host.Outcome State Fault Refusal :=
  s.onData fun _ g =>
    if 8 ≤ k || 16 ≤ h then g
    else
      let x := g.chan k h
      g.setChan k h { x with pipeKnown := x.pipeKnown + x.pipeDue, pipeDue := 0 }

/-- At a disable the Bayer line that waits is completed (R88), unless it is the first of a stripe whose slot is not yet released
(R108). DEDUCED (log entry 30). -/
def HostSide.lastBayer (h : HostSide) (e : Env) (x : Nat) : HostSide :=
  match (h.ctx x).bayCur with
  | some (b, _) =>
    if b.row != 0 || h.slotsFree (h.frameOf x b.frame).cfg x 0 then h.bayerOut e x none []
    else h.modCtx x fun c => { c with bayCur := none }
  | none => h

/-- At a disable in turn the stripe in turn is written with TRUNCATED: the lines processed so far, or where it is dropped every line
missing, with DROPPED (R95, R109). A stripe whose slot is not yet released is not written (R108); one of no line has no first line,
and its count is a free value. DEDUCED (log entry 30). -/
def HostSide.lastStripe (h : HostSide) (e : Env) (x : Nat) : HostSide :=
  let c := h.ctx x
  let (stripe, num) := match c.buf with
    | l :: _ => (l.stripe, l.frame)
    | [] => (c.stripe, if c.inFrame = 0 then c.frames else c.frames - 1)
  let f := (c.open_.find? fun f => f.num == num).getD { num := num, cfg := c.active, gen := c.gen, uncertain := c.unsure num }
  let drop := (c.buf.head?.map (·.drop)).getD false
  let tbl := match c.buf with
    | l :: _ => if l.drop then droppedTable f.cfg x l.counts else c.table
    | [] => c.table
  if !h.slotsFree f.cfg x 0 then h
  else
    let (h, first) := if tbl.isEmpty then (let r := h.free 0x109; (r.1, r.2 % 2 ^ 32)) else (h, firstCount tbl)
    h.endStripe e x f stripe drop true tbl first []

/-- A disable (R109). In turn, the Bayer line that waits is completed and the stripe in turn is written. Out of turn no stripe is
written. The record of every frame begun, and of the frame in progress at the ingress, is written. DEDUCED (log entry 30). -/
def HostSide.disableCtx (h : HostSide) (e : Env) (x : Nat) : HostSide :=
  let p := h.pipeOf x
  let inTurn := (h.pipe p).turn == some x
  let h := if inTurn then h
    else h.modCtx x fun c => { c with bayCur := c.bayCur.map fun b => ({ b.1 with endStripe := false }, b.2) }
  let h := h.lastBayer e x
  let c := h.ctx x
  let h := if inTurn then h.lastStripe e x else h
  let cur := c.frames - 1
  let h := (c.open_.filter fun f => f.begun || f.num == cur).foldl (fun h f =>
    let h := if f.begun then h
      else (h.beginFrame x f.num).modFrame x f.num fun g =>
        { g with disp := none, code := none, raw := none, dispSeq := c.dispSeq, codeSeq := c.codeSeq, rawSeq := c.rawSeq }
    h.endFrame x f.num true) h
  let h := if inTurn then h.endTurn p else h
  let h := h.modCtx x fun c => { c with buf := [], ticks := [], open_ := [], table := [], bin := [], bayCur := none, bayPrev := none,
                                        delay := [], dispRows := [], codeRow := none, sets := c.sets.filter fun r => r.issued }
  (((h.set (Reg.CTX_CTRL.EN x) 0).set (Reg.CTX_STATUS.RUNNING x) 0).set (Reg.CTX_STATUS.COMMIT_PENDING x) 0).showSets x

/-- CTX_CTRL is written with EN = 0: PIPE holds while the context is on (R111). -/
def HostSide.writeCtxOff (h : HostSide) (e : Env) (x : Nat) (v : Word) : HostSide :=
  let was := h.ctxOn x
  let pipe := h.get (Reg.CTX_CTRL.PIPE x)
  let h := if was then h.disableCtx e x else h
  let h := { h with regs := h.regs.accWrite (Reg.CTX_CTRL.EN x).addr v true }
  if was then h.set (Reg.CTX_CTRL.PIPE x) pipe else h

/-- CTX_DISABLE: CTX_CTRL is written with EN = 0 (R109); the pipes hold in a global stop, and the disable waits for the resume
(R232). -/
def execCtxDisable (x : Nat) (v : Word) (s : State) : Host.Outcome State Fault Refusal :=
  s.onBar fun e h =>
    if e.variant.ctxs ≤ x || v.getLsbD 0 then h
    else if h.stopped && (h.ctxOn x || h.ctxHeld x) then { h with heldCtx := h.heldCtx ++ [(x, some v)] }
    else h.writeCtxOff e x v

/-- After a global stop the writes that waited for it take effect, in their order (R235). -/
def HostSide.replayCtx (h : HostSide) (e : Env) : HostSide :=
  h.heldCtx.foldl (fun h w => match w.2 with
    | none => if h.ctxOn w.1 then h.set (Reg.CTX_STATUS.COMMIT_PENDING w.1) 1 else h.applyCtx w.1
    | some v => if v.getLsbD 0 then h.writeCtxOn w.1 v else h.writeCtxOff e w.1 v)
    { h with heldCtx := [] }

end Sys2Proof.Machine
end

