-- ==== Sys2Proof/Machine/Recipes.lean ====
section
/-! DEFINITION. Recipe images, their loading, commit and disarm (R195, R207, R209, R210, R219, R333, R337 to R339). -/

namespace Sys2Proof.Machine
open Sys2Proof

/-! ### Images (R337) -/

/-- A segment of an image: kind, unit, destination, bytes. -/
abbrev Seg := Nat × Nat × Nat × List Byte

/-- The segments of the section at `off` of length `n`; none where the section's own counts leave it. -/
def sectionSegs (img : List Byte) (off n : Nat) : Option (List Seg) :=
  let sec := (img.drop off).take n
  let u (a k : Nat) : Nat := leNat ((sec.drop a).take k)
  if n < 8 || img.length < off + n || n < 8 + 24 * u 0 4 then none
  else
    let l := (List.range (u 0 4)).map fun i =>
      let b := 8 + 24 * i
      (u b 1, u (b + 1) 1, u (b + 16) 8, u (b + 4) 4, u (b + 8) 4)
    if l.any fun x => n < x.2.2.2.1 + x.2.2.2.2 then none
    else some (l.map fun x => (x.1, x.2.1, x.2.2.1, (sec.drop x.2.2.2.2).take x.2.2.2.1))

/-- Checks a header (R338 detail 1). DEDUCED (log entry 20). -/
def headerOk (img : List Byte) (len : Nat) : Bool :=
  let r : Recipe := { hdr := img.take 1024 }
  1024 ≤ img.length && img.length == len && img.take 8 == asciiOf "KM7RCPE1" && r.u 8 1 % 16 == 1 && r.u 12 4 == len
    && (r.cores == 7 || r.cores == 8) && r.kind != 3

/-- Does every byte of `bs` at a position `i mod 32` in `[a, b)` equal zero? -/
def zeroIn (bs : List Byte) (a b : Nat) : Bool :=
  (bs.mapIdx fun i x => (i, x)).all fun p => p.1 % 32 < a || b ≤ p.1 % 32 || p.2 == 0

/-- Does a segment lie in its space and have the form its kind requires (R337, R338 detail 3)? DEDUCED (log entry 17). -/
def segOk (v : Variant) (s : Seg) : Bool :=
  let (kind, unit, dest, bs) := s
  let n := bs.length
  match kind with
  | 0 => dest / 2 ^ 32 < v.groups && dest % 2048 == 0 && dest % 2 ^ 32 + n ≤ 0xC0000000
  | 1 => unit < 64 && dest + n ≤ spadBytes
  | 2 => v.hasTable unit && n == 1024 && dest == 0
  | 3 => unit < 8 && n == 512 && dest == 0 && zeroIn bs 8 32
  | 4 => unit < 8 && n == 128 && dest == 0 && zeroIn bs 4 8 && zeroIn bs 24 32
  | 5 => unit < 64 && callAddrOk v 2 dest && dest % 2 ^ 32 + n ≤ 0xC0000000
  | _ => false

/-- HBM ranges of a segment list, padded to whole tiles (R174). -/
def segRanges (l : List Seg) : List (Nat × Nat) :=
  (l.filter fun s => s.1 == 0 || s.1 == 5).map fun s => (s.2.2.1, (s.2.2.2.length + 2047) / 2048 * 2048)

/-- Do two HBM ranges share a byte? -/
def rangesMeet (a b : Nat × Nat) : Bool := a.1 < b.1 + b.2 && b.1 < a.1 + a.2

/-! ### The check of every command (R118, R131, R156, R405, R338 detail 5) -/

/-- Do spans, given by start and length, together cover the bytes from `a` to before `z`? One step per span. -/
def covers (l : List (Nat × Nat)) : Nat → Nat → Nat → Bool
  | 0, a, z => decide (z ≤ a)
  | n + 1, a, z => decide (z ≤ a) || (match l.find? fun s => s.1 ≤ a && a < s.1 + s.2 with
    | some s => covers l n (s.1 + s.2) z
    | none => false)

/-- What the loader follows along a core's lists: the accumulator types of the two banks (R116), and whether an END has been passed. -/
structure ScanSt where
  ty0 : AccTy := .untyped
  ty1 : AccTy := .untyped
  ended : Bool := false
deriving DecidableEq, Repr

def ScanSt.ty (s : ScanSt) (b : Nat) : AccTy := if s.ended then .untyped else if b = 0 then s.ty0 else s.ty1
def ScanSt.give (s : ScanSt) (b : Nat) (t : AccTy) : ScanSt :=
  if s.ended then s else if b = 0 then { s with ty0 := t } else { s with ty1 := t }

/-- Is a transfer of a recipe's list invalid? It may not touch counters (R405). -/
def xferBad (v : Variant) (w : Nat) (load : Bool) : Bool :=
  let x := xferOf w load true
  (xferInvalid v x).isSome
    || (x.space == 1 && (match controlOf x.far with | some .counters => true | some (.globals _) => true | _ => false))

/-- Checks a command of a recipe's list as far as the image shows; none: it is invalid. `spad`: the constants of its core and the
bytes they cover. `call` checks the list that a CALL names. A descriptor that the image does not give may set either bank's type. -/
def cmdScan (v : Variant) (spad : Mem) (covered : Nat → Nat → Bool) (call : Nat → Nat → ScanSt → Option ScanSt) (w : Nat) (s : ScanSt) :
    Option ScanSt :=
  let ok (bad : Bool) (s : ScanSt) : Option ScanSt := if bad then none else some s
  match hb w 0 7 0 with
  | 1 => ok (xferBad v w true) s
  | 2 => ok (xferBad v w false) s
  | 3 => ok (mmaInvalid w (s.ty (hb w 1 4 4))).isSome (match pairOf (hb w 1 3 0) with
    | some (_, _, flt) => s.give (hb w 1 4 4) (pairTy flt)
    | none => s)
  | 4 => ok (drainInvalid w).isSome s
  | 5 => ok (vopInvalid w).isSome s
  | 6 => ok (vlutInvalid w).isSome s
  | 7 => ok (vsortInvalid w).isSome s
  | 8 =>
    let a := hb w 1 14 0 * 64
    if !covered a 64 then some ((s.give 0 .untyped).give 1 .untyped)
    else
      let d : WinDesc := ⟨spad.le a 64⟩
      let b := d.b 1 0 0
      ok (winInvalid d (s.ty b)).isSome (match decide (d.mode = 0), pairOf d.fp with
        | true, some (_, _, flt) => s.give b (pairTy flt)
        | _, _ => s)
  | 11 =>
    let a := hw w 2 + hw w 3 * 2 ^ 16 + hw w 4 * 2 ^ 32
    if callAddrOk v (hb w 1 3 0) a then call (hb w 1 3 0) a s else none
  | 12 => some { s with ended := true }
  | op => ok (!opListed op) s

/-- Checks a timed list at an address (R117, R118). Of a list in a line store, or of list bytes of a scratchpad that the image does
not give, nothing is known at load. `depth`: CALLs that may still nest (R122). -/
def listScan (v : Variant) (h : HostSide) (spad : Mem) (covered : Nat → Nat → Bool) : Nat → Nat → Nat → ScanSt → Option ScanSt
  | depth, space, addr, s =>
    let st (n : Nat) : Nat := match space with
      | 0 => spad.le n 16
      | _ => (h.hbmOf (n / 2 ^ 32)).mem.le (n % 2 ^ 32) 16
    let unknown : ScanSt := (s.give 0 .untyped).give 1 .untyped
    if !(space == 2 || (space == 0 && covered addr 16)) then some unknown
    else
      let hdr := st addr
      let count := hw hdr 1 + hw hdr 2 * 65536
      if hb hdr 0 3 0 != 1 || hb hdr 0 4 4 != 1 || count = 0 then none
      else if space == 0 && !covered addr (16 + 16 * count) then some unknown
      else
        let call : Nat → Nat → ScanSt → Option ScanSt := match depth with
          | 0 => fun _ _ _ => none
          | d + 1 => listScan v h spad covered d
        ((List.range count).foldl (fun acc i => acc.bind (cmdScan v spad covered call (st (addr + 16 + 16 * i)))) (some s)).map
          fun r => { r with ended := s.ended }

/-- Does the check fail for some entry list of the image? HBM holds the image's segments. A list runs once for every stripe, so its
second run meets the banks as the first one left them. DEDUCED (log entry 20). -/
def entriesBad (v : Variant) (h : HostSide) (segs : List Seg) : Bool :=
  (segs.filter fun s => s.1 == 5).any fun s =>
    let mine := segs.filter fun t => t.1 == 1 && t.2.1 == s.2.1
    let spad := mine.foldl (fun m t => Mem.setBytes m t.2.2.1 t.2.2.2) []
    let spans := mine.map fun t => (t.2.2.1, t.2.2.2.length)
    let covered (a n : Nat) : Bool := covers spans spans.length a (a + n)
    ((listScan v h spad covered 4 2 s.2.2.1 {}).bind (listScan v h spad covered 4 2 s.2.2.1)).isNone

/-! ### RECIPE_LOAD (R338) -/

/-- Writes bytes into HBM in pieces (R181), the last tile filled with zeros (R174). DEDUCED (log entry 17). -/
def HostSide.putHbm (h : HostSide) (e : Env) (far : Nat) (bs : List Byte) : HostSide :=
  ((h.landPieces e 2 (far / 2 ^ 32) (far % 2 ^ 32) 2048 bs []).1).countMem false 2 (far / 2 ^ 32) bs.length

/-- RECIPE_LOAD: the oldest such descriptor of queue `q` (R333, R338). A load with HBM segments waits for INIT_DONE (R201). -/
def execRecipeLoad (q : Nat) (s : State) : Host.Outcome State Fault Refusal :=
  s.onData fun e h => h.withCurrent q 0x10 fun d =>
    let slot := d.fld 20 1
    let len := d.fld 16 4
    let src := d.fld 8 8
    if 4 ≤ slot then h.finish q d.idx 1 3 0
    else if h.insp.armed.isSome && h.insp.armedSlot == slot then h.finish q d.idx 2 6 0
    else if src % 64 != 0 then h.finish q d.idx 1 4 0
    else if !h.bme then h
    else
      let img := h.hostRead src len
      let r : Recipe := { hdr := img.take 1024 }
      let clear := { h with insp := { h.insp with slots := h.insp.slots.erase slot } }
      if h.readErr src len then clear.finish q d.idx 10 1 0
      else
      let refuse (h : HostSide) (det : Nat) : HostSide := h.finish q d.idx 2 det 0
      match headerOk img len, sectionSegs img (r.u 80 4) (r.u 84 4), sectionSegs img (r.u 88 4) (r.u 92 4) with
      | true, some prog, some wght =>
        let segs := prog ++ wght
        let armedHbm := match h.insp.armed with | some a => a.hbm | none => []
        if wght.any (fun s => 2 ≤ s.1) || prog.any (fun s => 6 ≤ s.1) then refuse clear 1
        else if !segs.all (segOk e.variant) then refuse clear 3
        else if (segRanges segs).any fun x => armedHbm.any (rangesMeet x) then refuse clear 4
        else if (segRanges segs) != [] && !h.hbmUp then h
        else
          let put (k : Nat) (h : HostSide) : HostSide :=
            (segs.filter fun s => s.1 == k).foldl (fun h s => h.putHbm e s.2.2.1 s.2.2.2) h
          let clear := put 0 (clear.countG 0x30 0 len)
          if entriesBad e.variant (put 5 clear) segs then refuse clear 5
          else if sha3 (asciiOf "KM7PROG1" ++ (img.drop (r.u 80 4)).take (r.u 84 4)) != (r.hdr.drop 16).take 32
              || sha3 (asciiOf "KM7WGHT1" ++ (img.drop (r.u 88 4)).take (r.u 92 4)) != (r.hdr.drop 48).take 32 then refuse clear 2
          else
            let id := clear.insp.loads + 1
            let r := { r with id := id, segs := segs.filter fun s => s.1 != 0, hbm := segRanges segs }
            { clear with insp := { clear.insp with slots := clear.insp.slots.put slot r, loads := id } }.finish q d.idx 0 0 0
      | _, _, _ => refuse clear 1

/-- RECIPE_DROP empties a slot that is not armed (R332). -/
def execRecipeDrop (q : Nat) (s : State) : Host.Outcome State Fault Refusal :=
  s.onData fun _ h => h.withCurrent q 0x13 fun d =>
    let slot := d.fld 20 1
    if 4 ≤ slot then h.finish q d.idx 1 3 0
    else if h.insp.armed.isSome && h.insp.armedSlot == slot then h.finish q d.idx 2 6 0
    else { h with insp := { h.insp with slots := h.insp.slots.erase slot } }.finish q d.idx 0 0 0

/-! ### RECIPE_COMMIT (R195, R210, R339) -/

/-- R210 and R201: may the recipe run on its clusters? -/
def HostSide.r210 (h : HostSide) (r : Recipe) : Bool :=
  h.on Reg.MEM_STATUS.INIT_DONE && (List.range 8).all fun k =>
    !bit r.cluMask k || (h.partOf k == some 0 && r.cores ≤ h.healthy k && !h.cluHalted k)

/-- Does an entry of the image stand for context `x` in its pipe's active order (R339)? -/
def HostSide.orderOk (h : HostSide) (v : Variant) (r : Recipe) (i : Nat) : Bool :=
  let o := 256 + 64 * i
  let x := r.u o 2
  if x = 0xFFFF then true
  else if v.ctxs ≤ x then false
  else
    let p := h.pipeOf x
    let g (f : RF) : Nat := f.ofWord (RegFile.word (h.pipe p).order f.addr)
    let m1 := r.u (o + 8) 1 % 32
    g (Reg.PIPE_CTRL.ORDER_LEN_M1 p) == m1 && g (Reg.PIPE_CTRL.MUX p) == r.u (o + 9) 1 % 2
      && (List.range (m1 + 1)).all fun j =>
        g (Reg.PIPE_ORDER.CTX p j) + g (Reg.PIPE_ORDER.VALID p j) * 128 == r.u (o + 16 + j) 1

/-- The recipes whose slots a new one must leave alone: those with open items (R195). -/
def HostSide.busy (h : HostSide) : List Recipe := h.keepers.filter h.runs

/-- Tables the image gives. -/
def Recipe.images (r : Recipe) : List Nat := (List.range 26).filter fun n => (r.slot n 0).isSome

/-- An entry of the table the loader installs: the image's own slots, then those of recipes with open items (R195), then those of
streams that have something unfinished (R194). -/
def HostSide.merged (h : HostSide) (r : Recipe) (n i : Nat) : Nat :=
  let own := (r.slot n i).getD 0
  if slotKind own = 1 then own
  else match (h.busy.find? fun b => b.owns n i).bind fun b => b.slot n i with
    | some x => x
    | none => let a := h.active n i; if slotKind a == 1 && h.streamBusy n (slotStream a) then a else own

/-- Do the recipe's tables break R193, or its owned slots collide with those of a recipe that has open items (R195)? -/
def HostSide.slotsBad (h : HostSide) (v : Variant) (r : Recipe) : Bool :=
  r.images.any fun n => slotsCause v n (h.merged r n) != 0 ||
    (List.range 256).any fun i => r.owns n i && h.busy.any fun b => b.owns n i

/-- RECIPE_COMMIT: the slot is checked and the commit point accepted; the loader then owns the shadow copies it needs (R195,
R339). DEDUCED (log entry 20). -/
def execRecipeCommit (q : Nat) (s : State) : Host.Outcome State Fault Refusal :=
  s.onData fun e h => h.withCurrent q 0x11 fun d =>
    let slot := d.fld 20 1
    if 4 ≤ slot then h.finish q d.idx 1 3 0
    else match h.insp.slots.find slot with
      | none => h.finish q d.idx 2 10 0
      | some r =>
        if !h.r210 r then h.finish q d.idx 2 7 0
        else if h.slotsBad e.variant r then h.finish q d.idx 2 8 0
        else if !(List.range 8).all (h.orderOk e.variant r) then h.finish q d.idx 2 9 0
        else
          let h := r.images.foldl (fun h n => h.set (Reg.SLU_STATUS.LOADER n) 1) h
          (h.modStarted q d.idx fun d => { d with accepted := true }).addCommit (.recipe slot r (some (q, d.idx)))

/-- RECIPE_DISARM is accepted; with nothing armed and no commit before it, it completes at once (R339). DEDUCED (log entry 44). -/
def execRecipeDisarm (q : Nat) (s : State) : Host.Outcome State Fault Refusal :=
  s.onData fun _ h => h.withCurrent q 0x12 fun d =>
    if h.insp.armed.isNone && h.insp.commits.isEmpty then h.finish q d.idx 0 0 0
    else (h.modStarted q d.idx fun d => { d with accepted := true }).addCommit (.disarm (some (q, d.idx)))

/-! ### The commit points of recipes -/

/-- Completes the descriptor that asked for a commit point. -/
def HostSide.finishBy (h : HostSide) (b : Option (Nat × Nat)) (status detail result : Nat) : HostSide :=
  match b with
  | some (q, i) => h.finish q i status detail result
  | none => h

/-- A 32-bit word of a segment. -/
def segWord (bs : List Byte) (o : Nat) : Word := BitVec.ofNat 32 (leNat ((bs.drop o).take 4))

/-- The loader writes the stripe channels of a cluster (R163, R337); a channel that R157 refuses stays off. -/
def HostSide.loadChannels (h : HostSide) (k : Nat) (bs : List Byte) : HostSide :=
  forN 16 (fun i h =>
    let w := segWord bs (32 * i) &&& lscCfgMask
    let a := (Reg.LSC_CFG.EN k i).addr
    let h := h.setWord a (w &&& ~~~ 1#32)
    let h := { h with regs := h.regs.accWrite (a + 4) (segWord bs (32 * i + 4)) false }
    let h := h.setChan k i {}
    let h := if !w.getLsbD 0 then h
      else if h.chanRefused k i w then h.set (Reg.LSC_ERR.CFG_REFUSED k i) 1 else h.setWord a w
    h.showChan k i) h

/-- The loader applies the kept segments of kinds 1, 3 and 4 that name cluster `k` or its cores (R338). DEDUCED (log entry 17). -/
def HostSide.applySegs (h : HostSide) (e : Env) (r : Recipe) (k : Nat) : HostSide :=
  r.segs.foldl (fun h (kind, unit, dest, bs) =>
    match kind with
    | 1 => (match unit / 8 == k, h.siteOf unit with
      | true, some site => ((h.landPieces e 0 site dest 2048 bs []).1).countAccess false 0 site bs.length
      | _, _ => h)
    | 3 => if unit = k then h.loadChannels unit bs else h
    | 4 => if unit = k then
        forN 32 (fun i h => { h with regs := h.regs.accWrite (0x211000 + unit * 0x20000 + 4 * i) (segWord bs (4 * i)) false }) h else h
    | _ => h) h

/-- The cores of cluster `k` leave the lists of another recipe than `r` and return to IDLE (R24). -/
def HostSide.leaveLists (h : HostSide) (r : Recipe) (k : Nat) : HostSide :=
  (cluSites k).foldl (fun h site =>
    if (h.core site).frames.isEmpty || (h.core site).recipe == r.id then h
    else (h.clearSite site).set (Reg.CORE_STATUS.STATE site) 0) h

/-- Each cluster whose recipe has changed is taken over by the one that now has it: the cores stop, and its kept segments are applied
(R24, R207, R338). DEDUCED (log entry 19). -/
def HostSide.takeOver (h : HostSide) (e : Env) : HostSide :=
  forN 8 (fun k h => match h.holder k with
    | none => h
    | some r =>
      if h.insp.heldBy.find k == some r.id then h
      else
        let h := (h.leaveLists r k).applySegs e r k
        { h with insp := { h.insp with heldBy := h.insp.heldBy.put k r.id, iterPend := h.insp.iterPend.filter fun p => p.1 / 8 != k } }) h

/-- The schedule of the armed recipe starts from its initial state: the kept segments are applied, on a cluster that an older recipe
still has when it leaves it; a recipe that lists no context is anchored at the next period boundary (R24, R207, R213, R338). DEDUCED
(log entries 16, 19). -/
def HostSide.initSchedule (h : HostSide) (e : Env) (r : Recipe) : HostSide :=
  let h := (r.segs.filter fun s => s.1 == 5).foldl (fun h s => h.putHbm e s.2.2.1 s.2.2.2) h
  let h := { h with insp := { h.insp with heldBy := h.insp.heldBy.filter fun x => x.2 != r.id,
                                          iterDue := r.ctxs.isEmpty || (h.insp.iterDue && h.insp.olds.any h.runs) } }
  h.takeOver e

/-- The loader gives back the shadow copies it owned for a recipe, where no recipe owns a slot and nothing else needs them (R195). -/
def HostSide.disown (h : HostSide) (r : Recipe) : HostSide :=
  let other (n : Nat) : Bool := h.keepers.any (fun k => n ∈ k.tables) || (h.arb n).byLoader || h.insp.commits.any fun c => match c with
    | .recipe _ k _ => decide (n ∈ k.images)
    | _ => false
  (r.images.filter fun n => !other n).foldl (fun h n => h.set (Reg.SLU_STATUS.LOADER n) 0) h

/-- A recipe takes effect (R24, R195, R225, R339): its tables are installed with the slots of recipes that have open items, the
old recipe steps back, and the schedule waits for its first stripe. -/
def HostSide.arm (h : HostSide) (e : Env) (slot : Nat) (r : Recipe) (b : Option (Nat × Nat)) : HostSide :=
  let h := match h.insp.armed with
    | some o => if h.runs o then h else h.stopCores o true
    | none => h
  let ents := r.images.map fun n => (n, (List.range 256).map (h.merged r n))
  let h := ents.foldl (fun g x =>
    let g := (g.loaderCommit x.1 fun i => x.2.getD i 0).swapTable x.1
    g.setArb x.1 { g.arb x.1 with byLoader := false }) h
  -- a recipe committed again while items are bound to it is another one (R24)
  let (h, r) := if h.keepers.any (fun k => k.id == r.id && h.runs k) then
      ({ h with insp := { h.insp with loads := h.insp.loads + 1 } }, { r with id := h.insp.loads + 1 }) else (h, r)
  let moves := h.insp.respare
  let named := match r.ctxs.head? with | some x => (h.ctx x).idx | none => 0
  let h := { h with insp := { h.insp with
    olds := h.insp.armed.toList ++ h.insp.olds, armed := some r, armedSlot := slot, winGo := false, kept := [], halted := false,
    await := false, haltReq := none, restart := none, named := named, unnamed := [], respare := [] } }
  let h := moves.foldl (fun h x => h.addCommit (.moveId x.1 x.2)) h
  let h := (h.initSchedule e r).nextCseq
  let h := h.commitRecord 1 0 r.content
  ((h.finishBy b 0 0 (h.get Reg.DET_CSEQ)).retireOlds).disown r

/-- The armed recipe is disarmed (R339): every open item not judged is to be released UNDECIDED with cause 5, its cores stop, and
the slots of all recipes are released (R195, R450). -/
def HostSide.disarm (h : HostSide) : HostSide :=
  match h.insp.armed with
  | none => h
  | some r =>
    let h := (r :: h.insp.olds.filter h.runs).foldl (fun h r => h.stopCores r true) h
    let moves := h.insp.respare
    let h := { h with insp := { h.insp with
      olds := r :: h.insp.olds, armed := none, armedSlot := 255, winGo := false, kept := [], halted := false, await := false,
      haltReq := none, restart := none, iterDue := false, iterPend := [], respare := [], items := h.insp.items.map fun (i : Item) => i.force 5 } }
    (moves.foldl (fun h x => h.addCommit (.moveId x.1 x.2)) h).retireOlds

/-- The re-arm of R213: a recipe commit of the armed recipe. Its schedule waits for the first stripe post; without a context it
restarts at once. -/
def HostSide.rearm (h : HostSide) (e : Env) : HostSide :=
  match h.insp.armed with
  | none => h
  | some r =>
    let h := (h.initSchedule e r).nextCseq
    let h := h.commitRecord 1 0 r.content
    if r.ctxs.isEmpty then { h.setBits Reg.DET_INT_STATUS 4 with insp := { h.insp with halted := false, await := false } }
    else { h with insp := { h.insp with await := true } }

/-! ### Period boundaries (R187, R192, R195, R207) -/

/-- A Sluice period begins (R187): the period counter, refresh debts, pending swaps that were committed in time, each a commit
point (held in a global stop, R235, after which the first boundary is eligible for all of them), the clusters and slots of replaced recipes (R24, R195),
the stack temperatures `temp0` and `temp1` as read, and the anchored iteration of the
schedule (R207). No table runs in DOZE or REST (R201). DEDUCED (log entry 16). -/
def execSluicePeriodBoundary (temp0 temp1 : Nat) (s : State) : Host.Outcome State Fault Refusal :=
  s.onHost fun e h =>
    if 2 ≤ h.get Reg.PM_STATUS.DEVICE then h
    else
      let h := h.set2 Reg.MEM_PERIOD_LO Reg.MEM_PERIOD_HI ((h.get2 Reg.MEM_PERIOD_LO Reg.MEM_PERIOD_HI + 1) % 2 ^ 64)
      let h := forN e.variant.groups (fun g h => h.settleRefresh g) h
      let h := h.stackTemp 0 temp0
      let h := if e.variant.stacks = 2 then h.stackTemp 1 temp1 else h
      if h.stopped then forN 26 (fun n h => h.setArb n { h.arb n with late := false }) h
      else
        let h := h.takeOver e
        let h := forN 26 (fun n h =>
          if h.on (Reg.SLU_STATUS.PENDING n) then
            let x := h.arb n
            if x.late then h.setArb n { x with late := false }
            else
              let h := if x.byLoader then h.keepBusy n else h
              let h := ((h.swapTable n).nextCseq).setArb n { x with byLoader := false }
              if x.byLoader && !(h.keepers.any fun r => n ∈ r.tables) then
                h.set (Reg.SLU_STATUS.LOADER n) 0 else h
          else h) h
        let h := h.retireOlds
        if h.insp.iterDue && !h.insp.halted then h.iterate e else h

end Sys2Proof.Machine
end

