-- ==== Sys2Proof/Machine/Commits.lean ====
section
/-! DEFINITION. Commit points taking effect, the global stop, and seals (R16, R227 to R235, R441). -/

namespace Sys2Proof.Machine
open Sys2Proof

/-! ### Commit points (R16, R225, R441) -/

/-- Clusters that a commit point involves. DEDUCED (log entry 49). -/
def Commit.clusters (h : HostSide) (c : Commit) : List Nat :=
  (List.range 8).filter fun k => match c with
    | .recipe _ r _ => bit r.cluMask k
    | .partition part clusters _ _ => bit clusters k || h.partOf k == some part
    | .moveId clu _ => clu == k
    | .rearm => match h.insp.armed with | some r => bit r.cluMask k | none => false
    | .disarm _ => false

/-- Does the commit point find its boundary: no cluster it involves sleeps (R441), and no host swap is pending in a table that
the recipe brings (R195)? DEDUCED (log entry 49). -/
def HostSide.commitDue (h : HostSide) (c : Commit) : Bool :=
  !(c.clusters h).any h.asleep && (match c with
    | .recipe _ r _ => !r.images.any fun n => h.on (Reg.SLU_STATUS.PENDING n) && !(h.arb n).byLoader
    | _ => true)

/-- A commit point takes effect. What a recipe needs of its clusters and slots is checked again, since fences and other commit points
may have come since its acceptance (R27, R210). DEDUCED (log entry 49). -/
def HostSide.applyCommit (h : HostSide) (e : Env) (c : Commit) : HostSide :=
  match c with
  | .recipe slot r b =>
    if !h.r210 r then (h.disown r).finishBy b 2 7 0
    else if h.slotsBad e.variant r then (h.disown r).finishBy b 2 8 0
    else h.arm e slot r b
  | .disarm b =>
    if h.insp.armed.isNone then h.finishBy b 0 0 (h.get Reg.DET_CSEQ)
    else (let h := h.disarm.nextCseq; h.finishBy b 0 0 (h.get Reg.DET_CSEQ))
  | .partition part clusters us b =>
    (match h.partRefused part clusters with
      | some det => h.finishBy b 2 det 0
      | none => (let h := h.assign part clusters us; h.finishBy b 0 0 (h.get Reg.DET_CSEQ)))
  | .moveId k pos => h.applyMap k pos
  | .rearm =>
    let may := match h.insp.armed with | some r => h.r210 r | none => false
    if h.insp.halted && may && h.insp.respare.isEmpty && h.insp.haltReq.isNone then h.rearm e else h

/-- COMMIT_POINT_APPLY: the oldest accepted commit point takes effect at its boundary, one at a time in the order of acceptance; held
during a global stop (R16, R235). -/
def execCommitPointApply (s : State) : Host.Outcome State Fault Refusal :=
  s.onData fun e h =>
    match h.insp.commits with
    | [] => h
    | c :: rest => if h.commitDue c then ({ h with insp := { h.insp with commits := rest } }).applyCommit e c else h

/-! ### The global stop (R232 to R235) -/

/-- A stop request: through GSTOP_CTRL.STOP (0), from management (1) or the debug port while it is enabled (2) (R232, R430). -/
def execGstopStop (source : Nat) (s : State) : Host.Outcome State Fault Refusal :=
  s.onHost fun _ h =>
    if 3 ≤ source || (source = 0 && !h.ready) || (source = 2 && !h.on Reg.CLK_DBG_CTRL.EN) then h else h.requestStop source

/-- At the stop cycle the data plane freezes: a commit point that takes the next commit sequence; the Ifepen ports capture what they
hold (R225, R232, R233). A release that came before resumes it next (R235). DEDUCED (log entry 48). -/
def execGstopTakeEffect (s : State) : Host.Outcome State Fault Refusal :=
  s.onHost fun e h =>
    if h.get Reg.GSTOP_STATUS.STATE != 1 then h
    else
      let h := h.captureFlits e
      let h := (h.set Reg.GSTOP_STATUS.STATE (if h.insp.stopRelease then 3 else 2)).set2 Reg.GSTOP_TICK_LO Reg.GSTOP_TICK_HI e.tick
      let h := ((h.inc Reg.GSTOP_COUNT 1).setBits Reg.DET_INT_STATUS 8).nextCseq
      { h with insp := { h.insp with stopTick := some e.tick } }

/-- A release by the host, or by the source that asked for the stop: ignored while running, held before the stop cycle (R234,
R235). DEDUCED (log entry 48). -/
def HostSide.releaseStop (h : HostSide) (source : Nat) : HostSide :=
  let st := h.get Reg.GSTOP_STATUS.STATE
  if st = 0 then h.set Reg.GSTOP_STATUS.IGNORED 1
  else if source != 0 && h.get Reg.GSTOP_STATUS.SOURCE != source then h
  else if st = 1 then { h with insp := { h.insp with stopRelease := true } }
  else if st = 2 then h.set Reg.GSTOP_STATUS.STATE 3
  else h

/-- GSTOP_RELEASE: through GSTOP_CTRL.RELEASE (0), from management (1) or the debug port (2) (R234). DEDUCED (log entry 48). -/
def execGstopRelease (source : Nat) (s : State) : Host.Outcome State Fault Refusal :=
  s.onHost fun _ h =>
    if 3 ≤ source || (source = 0 && !h.ready) || (source = 2 && !h.on Reg.CLK_DBG_CTRL.EN) then h else h.releaseStop source

/-- The data plane resumes: flits held are delivered, fences asked for during the stop take effect, and the scheduling passes it held
are made (R233 to R235, R362). -/
def execGstopResume (s : State) : Host.Outcome State Fault Refusal :=
  s.onHost fun e h =>
    if h.get Reg.GSTOP_STATUS.STATE != 3 then h
    else
      let h := ((h.set Reg.GSTOP_STATUS.STATE 0).deliverHeld e).replayCtx e
      let sites := h.insp.heldFences
      (sites.foldl (fun (h : HostSide) site => h.fence e site 4) { h with insp := { h.insp with heldFences := [], stopRelease := false } }).replayPasses e

/-! ### Seals (R227 to R231) -/

/-- The root secret, if this boot has reconstructed one (R469). -/
def HostSide.root (h : HostSide) : BitVec 256 := h.mgmt.root.getD Config.noSecret

/-- The 256-byte message of ring `n`'s next seal, over the leaves gathered (R229). -/
def HostSide.sealMessage (h : HostSide) (e : Env) (n : Nat) : List Byte :=
  let r := h.ring n
  asciiOf "KM7SEAL1" ++ toLE 8 (r.sealNum + 1) ++ toLE 2 n ++ toLE 2 0 ++ toLE 4 r.leaves.length
    ++ toLE 8 ((r.leaves.map (·.1)).headD 0) ++ merkleRoot (r.leaves.map (·.2))
    ++ (if r.sealNum = 0 then List.replicate 32 0 else r.prevSeal) ++ h.fwVersion ++ h.unitMap
    ++ toLE 4 (h.get Reg.DET_BOOT_ID_LO) ++ toLE 4 (h.get Reg.DET_BOOT_ID_HI) ++ toLE 8 (h.tbAt 0 e.tick / 2 ^ 32)
    ++ deviceId h.root ++ List.replicate 80 0

/-- Is the seal buffer full (R102, R231)? -/
def HostSide.sealFull (h : HostSide) (n : Nat) : Bool :=
  (h.get (Reg.SEAL_COUNT n) + 65536 - h.get (Reg.SEAL_CONS n)) % 65536 == h.get (Reg.SEAL_SLOTS n)

/-- The seal of a ring waits for room; its leaves keep accumulating (R231). DEDUCED (log entry 47). -/
def HostSide.holdSeal (h : HostSide) (n : Nat) : HostSide :=
  let h := h.setRing n { h.ring n with sealBody := none }
  if h.on (Reg.SEAL_STATUS.HELD n) then h else (h.set (Reg.SEAL_STATUS.HELD n) 1).setBits Reg.DET_INT_STATUS 16

/-- Is management signing a seal? -/
def HostSide.signing (h : HostSide) : Bool := (List.range 16).any fun n => (h.ring n).sealBody.isSome

/-- Is a seal of ring `n` due: its leaves or its time, and 1 ms since the last one began (R227)? -/
def HostSide.sealDue (h : HostSide) (e : Env) (n : Nat) : Bool :=
  let r := h.ring n
  let since := e.tick - r.sealTick
  let per := h.get (Reg.SEAL_PERIOD n)
  h.on (Reg.SEAL_CTRL.SEAL_EN n) && h.on (Reg.SEAL_CTRL.DIG_EN n) && 500000 ≤ since
    && ((h.get (Reg.SEAL_CTRL.ITEMS_M1 n) + 1 ≤ r.leaves.length) || (per != 0 && !r.leaves.isEmpty && per * 500000 ≤ since))

/-- A waiting quote takes the signer when no seal is signing or due (R483). DEDUCED (log entry 55). -/
def HostSide.takeSigner (h : HostSide) (e : Env) : HostSide :=
  let due := (List.range 16).any fun n => h.sealDue e n && !h.sealFull n
  if h.mgmt.quote.isSome && !h.signing && !due then { h with mgmt := { h.mgmt with quoteSigns := true } } else h

/-- SEAL_START: the management processor begins a seal of ring `n` when its time and its leaves allow and it signs no other, and no quote;
with a full seal buffer the seal is held (R227, R231, R483). DEDUCED (log entry 47). -/
def execSealStart (n : Nat) (s : State) : Host.Outcome State Fault Refusal :=
  s.onHost fun e h =>
    if 16 ≤ n || h.signing || h.mgmt.quoteSigns || !h.sealDue e n then h
    else if h.sealFull n then h.holdSeal n
    else h.setRing n { h.ring n with sealBody := some (h.sealMessage e n), sealTick := e.tick }

/-- SEAL_SIGNED: signing of ring `n`'s seal completes; its body and its record are written, or the seal is held (R230, R231); the signer
is free for a quote that waits (R483). DEDUCED (log entry 47). -/
def execSealSigned (n : Nat) (s : State) : Host.Outcome State Fault Refusal :=
  s.onHost fun e h =>
    let r := h.ring n
    match r.sealBody with
    | none => h
    | some m =>
      if h.sealFull n then (h.holdSeal n).takeSigner e
      else if !h.bme then h
      else
        let cnt := leNat ((m.drop 20).take 4)
        let slot := r.sealNum % max 1 (h.get (Reg.SEAL_SLOTS n))
        let body := (m ++ identitySign h.root m ++ List.replicate 4096 0).take 4096
        let base := h.get (Reg.SEAL_BASE_LO n) * 4096 + h.get (Reg.SEAL_BASE_HI n) * 2 ^ 32
        let h := h.hostWrite (base + slot * 4096) body
        let h := (h.add (Reg.SEAL_COUNT n) 1).set (Reg.SEAL_STATUS.HELD n) 0
        let h := h.setRing n { r with sealBody := none, sealNum := r.sealNum + 1, prevSeal := sha3 m, leaves := r.leaves.drop cnt }
        (h.produce n (putLE (putLE (putBytes (putLE (recNew 3) 0 8 (r.sealNum + 1)) 16 ((m.drop 32).take 32)) 48 4 cnt) 52 4 slot)).takeSigner e

end Sys2Proof.Machine
end

