-- ==== Sys2Proof/Machine/Headwater.lean ====
section
/-! DEFINITION. Headwater: samples, the dictionary, matching, ordered emergence, batches and the stop on odd input (13). -/

namespace Sys2Proof.Machine
open Sys2Proof

/-! ### The dictionary (R383 to R385) -/

/-- A byte of dictionary memory; what power-on leaves is undefined (R398). DESIGN CHOICE (log entry 8). -/
def HostSide.dictByte (h : HostSide) (a : Nat) : Byte :=
  SMap.get (fun a => Config.undefByte h.powerOns (2 ^ 41 + a)) h.hdw.dict a
def HostSide.dictBytes (h : HostSide) (a n : Nat) : List Byte := (List.range n).map fun i => h.dictByte (a + i)

/-- Entry word of entry `i` of bank `b` (R383). -/
def HostSide.entryWord (h : HostSide) (b i : Nat) : Nat := leNat (h.dictBytes (b * 0x400000 + 4 * i) 4)
/-- LEN and OFF of an entry word. -/
def entryLen (w : Nat) : Nat := w % 64
def entryOff (w : Nat) : Nat := w / 256 % 2 ^ 22
/-- The string of an entry word. -/
def HostSide.entryStr (h : HostSide) (b w : Nat) : List Byte := h.dictBytes (b * 0x400000 + 0x40000 + entryOff w) (entryLen w)

/-- Is a bank held: active, or the bank of a sample that has not emerged (R385)? -/
def HostSide.bankHeld (h : HostSide) (b : Nat) : Bool :=
  h.hdw.active == some b || h.hdw.win.any fun s => s.bank == some b

/-- Shows Headwater's state in its registers (R399). -/
def HostSide.showHdw (h : HostSide) : HostSide :=
  let old := match h.hdw.active with | some b => b2n (h.bankHeld (1 - b)) | none => 0
  let h := (h.set Reg.HDW_STATUS.WINDOW h.hdw.win.length).set Reg.HDW_STATUS.LANES_BUSY
    (h.hdw.win.filter fun s => s.state == 1).length
  ((h.set Reg.HDW_DICT_STATUS.OLD_HELD old).set Reg.HDW_DICT_STATUS.ACTIVE (h.hdw.active.getD 0)).set
    Reg.HDW_DICT_STATUS.BUILDING (b2n h.hdw.building.isSome)

def HostSide.modHdw (h : HostSide) (f : Hdw → Hdw) : HostSide := ({ h with hdw := f h.hdw }).showHdw

/-- A commit is refused with a cause (R384); `bad`: the first failing entry, where there is one. -/
def HostSide.dictRefuse (h : HostSide) (cause : Nat) (bad : Option Nat) : HostSide :=
  let h := ((h.set Reg.HDW_DICT_STATUS.INVALID 1).set Reg.HDW_DICT_STATUS.CAUSE cause).setBits Reg.HDW_INT_STATUS 4
  match bad with
  | some i => h.set Reg.HDW_DICT_STATUS.BAD_ENTRY i
  | none => h

/-- A commit of bank `b` begins its build, or is refused at once for cause 4 (R384, R385). -/
def HostSide.dictCommit (h : HostSide) (b : Nat) : HostSide :=
  if h.hdw.building.isSome || h.bankHeld b then h.dictRefuse 4 none
  else h.modHdw fun x => { x with building := some b, pool := x.pool.put b (h.get (Reg.HDW_POOL_LEN b)) }

/-- Writing HDW_CMD with DICT_COMMIT = 1 (R384). -/
def execHdwDictCommit (v : Word) (s : State) : Host.Outcome State Fault Refusal :=
  s.onBar fun _ h =>
    let b := v.toNat / 2 % 2
    (h.set Reg.HDW_CMD.BANK b).dictCommit b

/-- The first entry of bank `b` that breaks check 1, 2 or 3 of R384, with the cause; checks in the order of their causes. DEDUCED
(log entry 46). -/
def HostSide.dictBad (h : HostSide) (b : Nat) : Option (Nat × Option Nat) :=
  let pool := SMap.get (fun _ => 0) h.hdw.pool b
  let ws := (List.range 65280).map fun i => (i + 256, h.entryWord b (i + 256))
  let used := ws.filter fun x => entryLen x.2 != 0
  match used.find? fun x => entryLen x.2 == 1 || 48 < entryLen x.2 with
  | some x => some (1, some x.1)
  | none =>
    match used.find? fun x => pool < entryOff x.2 + entryLen x.2 with
    | some x => some (2, some x.1)
    | none =>
      if 0x3C0000 < pool then some (2, none)
      else
        match used.find? fun x => used.any fun y => x.1 != y.1 && h.entryStr b x.2 == h.entryStr b y.2 with
        | some x => some (3, some x.1)
        | none => none

/-- The build of a bank ends: its commit passes, taking effect for the samples admitted from now on, or is refused (R384, R385).
Where the pool length alone breaks check 2, no entry fails and BAD_ENTRY is a free value. -/
def execHdwDictBuildDone (s : State) : Host.Outcome State Fault Refusal :=
  s.onHost fun _ h =>
    match h.hdw.building with
    | none => h
    | some b =>
      match h.dictBad b with
      | some (cause, some i) => (h.modHdw fun x => { x with building := none }).dictRefuse cause (some i)
      | some (cause, none) =>
        let (h, v) := h.free 0x384
        (h.modHdw fun x => { x with building := none }).dictRefuse cause (some (v % 65536))
      | none =>
        let d := sha3 (asciiOf "KM7DICT1" ++ h.dictBytes (b * 0x400000) (0x40000 + SMap.get (fun _ => 0) h.hdw.pool b))
        let h := forN 8 (fun k h => h.set (Reg.HDW_DICT_DIGEST k) (leNat ((d.drop (4 * k)).take 4))) h
        ((h.add Reg.HDW_DICT_GEN 1).setBits Reg.HDW_INT_STATUS 2).modHdw fun x => { x with building := none, active := some b }

/-! ### Matching (R386, R387) -/

/-- The longest entry that matches at the front of `rest`, with its length; a single byte when none does (R386). DESIGN CHOICE
(log entry 45). -/
def HostSide.longest (h : HostSide) (bank : Option Nat) (rest : List Byte) : Nat × Nat :=
  let one : Nat × Nat := ((rest.headD 0).toNat, 1)
  match bank with
  | none => one
  | some b => (List.range 65280).foldl (fun best j =>
      let w := h.entryWord b (j + 256)
      let n := entryLen w
      if n ≤ 48 && n ≤ rest.length && best.2 < n && h.entryStr b w == rest.take n then (j + 256, n) else best) one

/-- Tokens of a byte string with the offsets at which they start. -/
def HostSide.matchAll (h : HostSide) (bank : Option Nat) : Nat → Nat → List Byte → List (Nat × Nat)
  | 0, _, _ => []
  | _ + 1, _, [] => []
  | f + 1, i, b :: t =>
    let (tok, n) := h.longest bank (b :: t)
    (tok, i) :: h.matchAll bank f (i + n) ((b :: t).drop n)

/-- Tokens of a sample with their offsets, the prepended and appended ones included (R386). -/
def HostSide.tokenize (h : HostSide) (s : Sample) (x : List Byte) : List (Nat × Nat) :=
  (if bit s.ctrl.toNat 2 then [(s.tok.toNat % 65536, 0)] else []) ++ h.matchAll s.bank x.length 0 x
    ++ (if bit s.ctrl.toNat 3 then [(s.tok.toNat / 65536, s.len)] else [])

/-- Byte `i` of a list lies from `lo` to `hi`; false where there is none. -/
def byteIn (x : List Byte) (i lo hi : Nat) : Bool :=
  match x[i]? with
  | some v => decide (lo ≤ v.toNat) && decide (v.toNat ≤ hi)
  | none => false

/-- Bytes of the valid UTF-8 sequence at the front, if there is one (RFC 3629, R387). -/
def utf8Head (x : List Byte) : Option Nat :=
  let c (i : Nat) : Bool := byteIn x i 0x80 0xBF
  if byteIn x 0 0 0x7F then some 1
  else if byteIn x 0 0xC2 0xDF && c 1 then some 2
  else if ((byteIn x 0 0xE0 0xE0 && byteIn x 1 0xA0 0xBF) || (byteIn x 0 0xE1 0xEC && c 1)
      || (byteIn x 0 0xED 0xED && byteIn x 1 0x80 0x9F) || (byteIn x 0 0xEE 0xEF && c 1)) && c 2 then some 3
  else if ((byteIn x 0 0xF0 0xF0 && byteIn x 1 0x90 0xBF) || (byteIn x 0 0xF1 0xF3 && c 1)
      || (byteIn x 0 0xF4 0xF4 && byteIn x 1 0x80 0x8F)) && c 2 && c 3 then some 4
  else none

/-- Offset of the first invalid UTF-8 sequence, if any. -/
def utf8Bad : Nat → Nat → List Byte → Option Nat
  | 0, _, _ => none
  | _ + 1, _, [] => none
  | f + 1, i, b :: t => match utf8Head (b :: t) with
    | some n => utf8Bad f (i + n) ((b :: t).drop n)
    | none => some i

/-- Why decoding finds a sample odd: cause 1 or 3 with HDW_STOP_OFFSET, the earlier offset first (R394). DEDUCED (log entry 46). -/
def Sample.odd (s : Sample) (x : List Byte) (toks : List (Nat × Nat)) : Option (Nat × Nat) :=
  let bad := if bit s.ctrl.toNat 1 then utf8Bad x.length 0 x else none
  let over_ := if s.maxTok < toks.length then (toks[s.maxTok]?).map (·.2) else none
  match bad, over_ with
  | some i, some j => if i ≤ j then some (1, i) else some (3, j)
  | some i, none => some (1, i)
  | none, some j => some (3, j)
  | none, none => none

/-- Writes tokens at DST, the last tile padded with zeros (R174, R387); nothing lies beyond the group's end. DESIGN CHOICE
(log entry 45). -/
def HostSide.writeTokens (h : HostSide) (e : Env) (dst : Nat) (bs : List Byte) : HostSide :=
  let bs := (bs ++ List.replicate (padOf 2 bs.length) 0).take (0xC0000000 - dst % 2 ^ 32)
  (piecesOf bs.length 2048).foldl
    (fun g p => (g.landPiece e 2 (dst / 2 ^ 32) (dst % 2 ^ 32 + p.1) ((bs.drop p.1).take p.2) false).1) h

/-- The bytes at DST are undefined until the completion is written (R387): free bytes in the tiles that the sample's tokens, `ntok`
of them and at most MAX_TOKENS, fill. While HBM does not serve its requesters nothing is written (R437, R451). DESIGN CHOICE
(log entries 10, 45). -/
def HostSide.blurTokens (h : HostSide) (e : Env) (smp : Sample) (ntok : Nat) : HostSide :=
  if !h.hbmUp then h
  else
    let f := h.fresh
    let n := 4 * min smp.maxTok ntok
    ({ h with fresh := f + 1 }).writeTokens e smp.dst ((List.range (n + padOf 2 n)).map fun i =>
      BitVec.truncate 8 (Config.freeValue f (0x387 + 65536 * i)))

/-! ### Samples (R381, R382) -/

/-- May a client's MOVE or sample touch `n` bytes of HBM at `a` (R326, R351)? Client 0 may; 32 to 255 have no window. -/
def HostSide.clientHbm (h : HostSide) (c a n : Nat) : Bool :=
  c == 0 || (c < 32 && h.get (Reg.HIF_CLI_HBM.BASE c) * 4096 ≤ a && a + n ≤ h.get (Reg.HIF_CLI_HBM.LIMIT c) * 4096)

/-- Was a TEXT_SAMPLE fetched before every other one that has not been handed on (R381)? -/
def HostSide.sampleFirst (h : HostSide) (d : Started) : Bool :=
  (List.range 64).all fun q => (h.started q).all fun x =>
    x.opcode != 0x22 || x.fin.isSome || x.accepted || decide (d.ord ≤ x.ord)

/-- TEXT_SAMPLE: in the engine's fetch order over all its queues, checked, then handed on for admission (R381, R382). -/
def execTextSample (q : Nat) (s : State) : Host.Outcome State Fault Refusal :=
  s.onData fun e h => h.withCurrent q 0x22 fun d => if !h.sampleFirst d then h else
    let dst := d.fld 24 8
    let mx := d.fld 32 4
    if mx = 0 || 4194304 < mx then h.finish q d.idx 1 3 0
    else if !hbmOk e.variant.groups dst 0 || 0xC0000000 ≤ dst % 2 ^ 32 then h.finish q d.idx 1 4 0
    else if !h.clientHbm (h.client q) dst (4 * mx) then h.finish q d.idx 8 0 0
    else if !h.on Reg.HDW_CTRL.EN then h.finish q d.idx 2 4 0
    else (h.modStarted q d.idx fun d => { d with accepted := true }).modHdw fun x => { x with ready := x.ready ++ [(q, d.idx)] }

/-- A queue halts with a cause (R328). -/
def HostSide.haltQueue (h : HostSide) (q cause : Nat) : HostSide :=
  if h.get (Reg.SQ_STATUS.STATE q) != 1 then h
  else
    let h := (h.set (Reg.SQ_STATUS.STATE q) 2).set (Reg.SQ_STATUS.CAUSE q) cause
    h.setBits (if q < 32 then Reg.HIF_HALTED_LO else Reg.HIF_HALTED_HI) (2 ^ (q % 32))

/-- The sample at place `i` of the window proves odd: it is the stop sample, its queue halts, and the samples younger than it are
held (R395). -/
def HostSide.markOdd (h : HostSide) (i cause off : Nat) : HostSide :=
  match h.hdw.win[i]? with
  | none => h
  | some smp =>
    (h.haltQueue smp.q 3).modHdw fun x => { x with
      stop := some (cause, off),
      win := x.win.mapIdx fun j (y : Sample) => if j = i then { y with state := 3 } else if i < j then { y with state := 4 } else y }

/-- HDW_ADMIT: the next sample enters the reorder window while it holds fewer than 64 and no odd sample is recorded (R381,
R395); one longer than HDW_MAX_BYTES is odd (R394 cause 2). -/
def execHdwAdmit (s : State) : Host.Outcome State Fault Refusal :=
  s.onData fun e h =>
    match h.hdw.ready with
    | [] => h
    | (q, i) :: rest =>
      if 64 ≤ h.hdw.win.length || h.hdw.stop.isSome then h
      else match (h.started q).find? (fun d => d.idx == i) with
        | none => h.modHdw fun x => { x with ready := rest }
        | some d =>
          let odd := h.get Reg.HDW_MAX_BYTES < d.fld 16 4
          let smp : Sample := { q, idx := i, big := odd, tag := d.fld 4 4, src := d.fld 8 8, len := d.fld 16 4, dst := d.fld 24 8,
                                maxTok := d.fld 32 4, bank := h.hdw.active, ctrl := h.word 0x780000, tok := h.word 0x780004 }
          let n := if odd then 0 else (h.tokenize smp (h.hostRead smp.src smp.len)).length
          let h := (h.blurTokens e smp n).modHdw fun x => { x with ready := rest, win := x.win ++ [smp] }
          if odd then h.markOdd (h.hdw.win.length - 1) 2 smp.len else h

/-- A free lane starts the oldest sample that no lane has started (R388). -/
def execHdwLaneStart (s : State) : Host.Outcome State Fault Refusal :=
  s.onData fun _ h =>
    if 8 ≤ (h.hdw.win.filter fun s => s.state == 1).length || !h.bme then h
    else h.modHdw fun x => { x with win := modFirst (fun (y : Sample) => y.state == 0) (fun y => { y with state := 1 }) x.win }

/-- The lane of the sample at place `i` of the window finishes: decoded, odd, or (`err`) without its bytes after a host read
error (R388, R390, R394). A lane writes its tokens as it produces them, so it waits while HBM does not serve it (R437, R451). -/
def execHdwDecodeDone (i : Nat) (err : Bool) (s : State) : Host.Outcome State Fault Refusal :=
  s.onData fun e h =>
    match h.hdw.win[i]? with
    | none => h
    | some smp =>
      if smp.state != 1 then h
      else if err || h.readErr smp.src smp.len then h.modHdw fun x => { x with win := x.win.modify i fun (y : Sample) => { y with state := 2, pcie := true } }
      else if !h.hbmUp then h
      else
        let b := h.hostRead smp.src smp.len
        let toks := h.tokenize smp b
        let h := (h.blurTokens e smp toks.length).countG 0x30 0 smp.len
        match smp.odd b toks with
        | some (cause, off) => h.markOdd i cause off
        | none => h.modHdw fun x => { x with win := x.win.modify i fun (y : Sample) => { y with state := 2, toks := toks.map (·.1) } }

/-! ### Emergence and batches (R389 to R393) -/

/-- The batch in formation closes (R391). -/
def HostSide.closeBatch (h : HostSide) (timed stopped : Bool) : HostSide :=
  if h.hdw.batch.isEmpty then h
  else h.modHdw fun x => { x with closed := x.closed ++ [{ samples := x.batch, timed, stopped }], batch := [] }

/-- Is queue `q` in HDW_BATCH_QMASK? -/
def HostSide.batchQueue (h : HostSide) (q : Nat) : Bool := bit (h.get2 Reg.HDW_BATCH_QMASK_LO Reg.HDW_BATCH_QMASK_HI) q

/-- The oldest sample leaves the window: counted and, where its queue is batched, placed in a batch (R389, R391). -/
def HostSide.emerge (h : HostSide) (smp : Sample) (ntok : Nat) : HostSide :=
  let h := (h.inc Reg.HDW_SAMPLES 1).countG 0x52 0 1
  let h := h.modHdw fun x => { x with win := x.win.drop 1 }
  if h.on Reg.HDW_BATCH_CFG.EN && h.batchQueue smp.q then
    let h := h.modHdw fun x => { x with batch := x.batch ++ [(smp.dst, ntok, smp.q, smp.bank.getD 0)] }
    if h.get Reg.HDW_BATCH_CFG.N_M1 + 1 ≤ h.hdw.batch.length then h.closeBatch false false else h
  else h

/-- It leaves without a result: no rule says how many tokens it wrote. DESIGN CHOICE (log entries 10, 45). -/
def HostSide.emergeFailed (h : HostSide) (smp : Sample) (status detail : Nat) : HostSide :=
  let (h, v) := h.free 0x390
  (h.finish smp.q smp.idx status detail 0).emerge smp (v % (smp.maxTok + 1))

/-- Is the batch ring full (R393)? DEDUCED (log entry 46). -/
def HostSide.batchFull (h : HostSide) : Bool :=
  (h.get Reg.HDW_BATCH_COUNT + 2 ^ 32 - h.get Reg.HDW_BATCH_FREED) % 2 ^ 32 == h.get Reg.HDW_BATCH_SLOTS

/-- The oldest sample of the window emerges once it is decoded or dropped, unless a closed batch waits on a full ring (R389, R390, R393,
R396); its tokens wait for HBM (R437, R451). DEDUCED (log entry 46). -/
def execHdwEmerge (s : State) : Host.Outcome State Fault Refusal :=
  s.onData fun e h =>
    match h.hdw.win with
    | [] => h
    | smp :: _ =>
      if smp.state != 2 || (!h.hdw.closed.isEmpty && h.batchFull) then h
      else if smp.pcie then h.emergeFailed smp 10 1
      else if let some cause := smp.dropped then h.emergeFailed smp 2 cause
      else if !h.hbmUp then h
      else
        (((h.writeTokens e smp.dst (smp.toks.flatMap (toLE 4))).countMem false 2 (smp.dst / 2 ^ 32) (4 * smp.toks.length)).finish smp.q smp.idx 0 0 smp.toks.length).emerge smp smp.toks.length

/-- TIMEOUT_US after its first sample emerged, a batch closes as TIMED (R391). -/
def execHdwBatchTimeout (s : State) : Host.Outcome State Fault Refusal :=
  s.onData fun _ h => if h.on Reg.HDW_BATCH_CFG.EN && h.on Reg.HDW_BATCH_CFG.TIMEOUT_US then h.closeBatch true false else h

/-- The 2,048 bytes of a batch record (R392). -/
def Batch.bytes (b : Batch) (n : Nat) : List Byte :=
  let hd := toLE 4 (1 + 16 * b2n b.timed + 32 * b2n b.stopped) ++ toLE 4 b.samples.length ++ toLE 8 n ++ List.replicate 48 0
  let body := hd ++ b.samples.flatMap fun (dst, ntok, q, bank) => toLE 8 dst ++ toLE 4 ntok ++ toLE 1 q ++ toLE 3 (bank % 2)
  (body ++ List.replicate 2048 0).take 2048

/-- The oldest closed batch is written to its ring slot and its consumer signalled, while the ring has a free slot (R392, R393). -/
def execHdwBatchWrite (s : State) : Host.Outcome State Fault Refusal :=
  s.onData fun e h =>
    match h.hdw.closed with
    | [] => h
    | b :: rest =>
      if h.batchFull || !h.hbmUp then h
      else
        let n := h.hdw.batchNo + 1
        let off := h.get Reg.HDW_BATCH_BASE * 2048 + (n - 1) % max 1 (h.get Reg.HDW_BATCH_SLOTS) * 2048
        let g := h.get Reg.HDW_BATCH_GROUP
        let h := if hbmOk e.variant.groups (g * 2 ^ 32 + off) 2048 && off < 2 ^ 32 then ((h.landPiece e 2 g off (b.bytes n) false).1).countMem false 2 g 2048 else h
        let h := h.modHdw fun x => { x with closed := rest, batchNo := n }
        ((h.add Reg.HDW_BATCH_COUNT 1).setBits Reg.HDW_INT_STATUS 8).addToken (h.get Reg.HDW_BATCH_CFG.CORE)
          (h.get Reg.HDW_BATCH_CFG.TOKEN) 1

/-- The consumer core `c` frees the oldest written batch; a STORE of another core is ignored (R393). -/
def execHdwBatchFree (c : Nat) (s : State) : Host.Outcome State Fault Refusal :=
  s.onData fun _ h =>
    if h.get Reg.HDW_BATCH_CFG.CORE != c then h
    else match h.ctlReady (c / 8) (c % 8) .batchFree with
      | none => h
      | some site =>
        let h := h.takeCtl site
        if h.get Reg.HDW_BATCH_FREED = h.get Reg.HDW_BATCH_COUNT then h else h.add Reg.HDW_BATCH_FREED 1

/-- A write of HDW_BATCH_CFG (R399): setting EN restarts batch numbers; while it is set only a write that clears it is taken, and
that closes the batch in formation as TIMED. -/
def HostSide.writeBatchCfg (h : HostSide) (v : Word) : HostSide :=
  let en := v.getLsbD 0
  if h.on Reg.HDW_BATCH_CFG.EN then
    if en then h else (h.setWord 0x780060 (v &&& 0xFFFF3F7F#32)).closeBatch true false
  else
    let h := h.setWord 0x780060 (v &&& 0xFFFF3F7F#32)
    if en then ((h.set Reg.HDW_BATCH_COUNT 0).set Reg.HDW_BATCH_FREED 0).modHdw fun x => { x with batchNo := 0, batch := [] } else h

/-! ### The stop (R395 to R397) -/

/-- A sample that was longer than HDW_MAX_BYTES at its admission and still is proves odd again (R394 cause 2, R396). -/
def HostSide.recheckBig (h : HostSide) : HostSide :=
  match h.hdw.win.findIdx? fun (y : Sample) => y.big && y.dropped.isNone && decide (h.get Reg.HDW_MAX_BYTES < y.len) with
  | some i => h.markOdd i 2 (((h.hdw.win[i]?).map (·.len)).getD 0)
  | none => h

/-- Headwater resumes (R396): the stop sample is dropped with its cause or read again, and the held samples are decoded afresh. A
global stop holds the emergence (R397). -/
def HostSide.hdwResume (h : HostSide) (drop : Bool) : HostSide :=
  match h.hdw.stop, h.hdw.win with
  | some (cause, _), smp :: _ =>
    let h := (h.set Reg.HDW_STATUS.STOPPED 0).set Reg.HDW_STOP.ACTION 0
    let h := h.modHdw fun x => { x with stop := none, win := x.win.map fun (y : Sample) => { y with state := 0, toks := [], pcie := false } }
    (if !drop then h
     else if h.stopped then h.modHdw fun x => { x with win := x.win.modify 0 fun (y : Sample) => { y with state := 2, dropped := some cause } }
     else h.emergeFailed smp 2 cause).recheckBig
  | _, _ => h

/-- Once every sample older than the stop sample has emerged, Headwater is STOPPED (R395). When the stop sample's queue has been
reset in the meantime, it resumes at once (R397). DEDUCED (log entry 46). -/
def execHdwStopped (s : State) : Host.Outcome State Fault Refusal :=
  s.onData fun _ h =>
    match h.hdw.stop, h.hdw.win with
    | some (cause, off), smp :: _ =>
      if smp.state != 3 || h.on Reg.HDW_STATUS.STOPPED then h
      else
        let h := h.closeBatch false true
        let h := ((h.set Reg.HDW_STATUS.STOPPED 1).setBits Reg.HDW_INT_STATUS 1).inc Reg.HDW_STOPS 1
        let h := (((h.set Reg.HDW_STOP.QUEUE smp.q).set Reg.HDW_STOP.CAUSE cause).set Reg.HDW_STOP_INDEX smp.idx).set
          Reg.HDW_STOP_OFFSET off
        let h := h.set Reg.HDW_STOP_TAG smp.tag
        if h.get (Reg.SQ_STATUS.STATE smp.q) = 3 then h.hdwResume true else h
    | _, _ => h

/-- RESTART of a queue: of the stop sample's queue, while Headwater is stopped, it resumes as HDW_STOP.ACTION says (R396).
DEDUCED (log entry 42). -/
def HostSide.hdwRestart (h : HostSide) (q : Nat) : HostSide :=
  if h.on Reg.HDW_STATUS.STOPPED && h.get Reg.HDW_STOP.QUEUE = q then h.hdwResume (h.on Reg.HDW_STOP.ACTION) else h

/-- RESET of a queue: its samples not yet admitted complete ABORTED; the stop sample, while Headwater is stopped, completes
REFUSED and Headwater resumes (R397). -/
def HostSide.hdwReset (h : HostSide) (q : Nat) : HostSide :=
  let gone := h.hdw.ready.filter fun x => x.1 == q
  let h := gone.foldl (fun h x => h.finish q x.2 9 0 0) h
  let h := h.modHdw fun x => { x with ready := x.ready.filter fun y => y.1 != q }
  if h.on Reg.HDW_STATUS.STOPPED && h.get Reg.HDW_STOP.QUEUE = q then h.hdwResume true else h

end Sys2Proof.Machine
end

