-- ==== Sys2Proof/Machine/Manage.lean ====
section
/-! DEFINITION. The flash, images and their checks, firmware delivery and activation, settings, attestation: the MANAGE engine's mailbox
(R458 to R487). -/

namespace Sys2Proof.Machine
open Sys2Proof

/-! ### The flash (R458 to R461) -/

/-- A flash byte that nothing has programmed: the certificate area is written at manufacture, the rest is erased (R459, R469).
DESIGN CHOICE (log entry 9). -/
def flashMade (a : Nat) : Byte := if 0x10000 ≤ a && a < 0x50000 then Config.certByte a else 0xFF#8

abbrev Flash := SMap Byte
def fByte (f : Flash) (a : Nat) : Byte := SMap.get flashMade f a
def fRead (f : Flash) (a n : Nat) : List Byte := (List.range n).map fun i => fByte f (a + i)
def fNum (f : Flash) (a n : Nat) : Nat := leNat (fRead f a n)
/-- Erases `n` bytes at `a`, outside the certificate area, which nothing erases (R469). -/
def fErase (f : Flash) (a n : Nat) : Flash := f.filter fun x => !(a ≤ x.1 && x.1 < a + n)
/-- Erases and programs `bs` at `a`. -/
def fWrite (f : Flash) (a : Nat) (bs : List Byte) : Flash :=
  (List.range bs.length).foldl (fun f i => SMap.set flashMade f (a + i) (bs.getD i 0)) f

/-- Base of an image: slot A, slot B, the recovery region (R459). -/
def slotBase (n : Nat) : Nat := match n with
  | 0 => 0x100000
  | 1 => 0x2900000
  | _ => 0x5100000
/-- Sector of a slot's piece bitmap (R459). -/
def bitmapBase (n : Nat) : Nat := if n = 0 then 0x2000 else 0x3000

/-- The slot control block (R460). -/
structure SlotCtl where
  seq : Nat := 0
  active : Nat := 0
  stateA : Nat := 0
  stateB : Nat := 0
  boots : Nat := 0
  digA : List Byte := List.replicate 32 0
  digB : List Byte := List.replicate 32 0
  pcsA : Nat := 0
  pcsB : Nat := 0
deriving DecidableEq, Repr

/-- Bytes 0 to 91 of a control block, then its CRC (R460). -/
def SlotCtl.bytes (c : SlotCtl) : List Byte :=
  let b := asciiOf "KM7SLOT1" ++ toLE 4 1 ++ toLE 4 c.seq ++ toLE 1 c.active ++ toLE 1 c.stateA ++ toLE 1 c.stateB ++ toLE 1 c.boots
    ++ c.digA ++ c.digB ++ toLE 4 c.pcsA ++ toLE 4 c.pcsB
  b ++ toLE 4 (crc32c b).toNat

/-- The control block copy at `a`, when it is valid (R460). -/
def ctlCopy (f : Flash) (a : Nat) : Option SlotCtl :=
  let b := fRead f a 96
  let u (o n : Nat) : Nat := leNat ((b.drop o).take n)
  if b.take 8 == asciiOf "KM7SLOT1" && u 8 1 % 16 == 1 && u 92 4 == (crc32c (b.take 92)).toNat then
    some { seq := u 12 4, active := u 16 1 % 2, stateA := u 17 1, stateB := u 18 1, boots := u 19 1, digA := (b.drop 20).take 32,
           digB := (b.drop 52).take 32, pcsA := u 84 4, pcsB := u 88 4 }
  else none

/-- Of two copies, the one with the larger SEQ by signed difference, and which it is (R460). -/
def newerOf {α : Type} (seq : α → Nat) (x y : Option α) : Option (Nat × α) :=
  match x, y with
  | some a, some b => if 0 ≤ sext 32 (seq a + 2 ^ 32 - seq b % 2 ^ 32) then some (0, a) else some (1, b)
  | some a, none => some (0, a)
  | none, some b => some (1, b)
  | none, none => none

/-- The control block in force and its copy, if one is valid. DEDUCED (log entry 40). -/
def ctlFind (f : Flash) : Option (Nat × SlotCtl) := newerOf SlotCtl.seq (ctlCopy f 0) (ctlCopy f 0x1000)
/-- The control block in force; without a valid one, two empty slots (log entry 40). -/
def ctlOf (f : Flash) : SlotCtl := match ctlFind f with | some (_, c) => c | none => {}
/-- A change writes the other sector with SEQ one higher (R460). DEDUCED (log entry 40). -/
def ctlPut (f : Flash) (c : SlotCtl) : Flash :=
  match ctlFind f with
  | some (i, o) => fWrite f (if i = 0 then 0x1000 else 0) { c with seq := (o.seq + 1) % 2 ^ 32 }.bytes
  | none => fWrite f 0 { c with seq := 1 }.bytes

def SlotCtl.state (c : SlotCtl) (n : Nat) : Nat := if n = 0 then c.stateA else c.stateB
def SlotCtl.digest (c : SlotCtl) (n : Nat) : List Byte := if n = 0 then c.digA else c.digB
def SlotCtl.pieces (c : SlotCtl) (n : Nat) : Nat := if n = 0 then c.pcsA else c.pcsB
def SlotCtl.setState (c : SlotCtl) (n st : Nat) : SlotCtl := if n = 0 then { c with stateA := st } else { c with stateB := st }
/-- The slot's image: its digest and its pieces. -/
def SlotCtl.setImage (c : SlotCtl) (n : Nat) (dig : List Byte) (pcs : Nat) : SlotCtl :=
  if n = 0 then { c with digA := dig, pcsA := pcs } else { c with digB := dig, pcsB := pcs }
/-- The slot that is not ACTIVE. -/
def SlotCtl.idle (c : SlotCtl) : Nat := 1 - c.active
/-- A slot is marked BAD and ACTIVE moves to the other (R466, R467, R476). -/
def SlotCtl.fail (c : SlotCtl) (n : Nat) : SlotCtl := { c.setState n 6 with active := 1 - n }

/-- Is piece `i` of a slot held (R459)? -/
def pieceHeld (f : Flash) (slot i : Nat) : Bool := !bit (fByte f (bitmapBase slot + i / 8)).toNat (i % 8)
/-- Marks a piece held, or not held. -/
def setPiece (f : Flash) (slot i : Nat) (held : Bool) : Flash :=
  let a := bitmapBase slot + i / 8
  let b := (fByte f a).toNat
  let b := b - (if bit b (i % 8) then 2 ^ (i % 8) else 0) + (if held then 0 else 2 ^ (i % 8))
  SMap.set flashMade f a (BitVec.ofNat 8 b)
/-- Pieces of a slot's image that it holds. -/
def heldCount (f : Flash) (slot pieces : Nat) : Nat := ((List.range pieces).filter (pieceHeld f slot)).length

/-- A floor record: its bytes, under the root secret `r` (R461). -/
def floorBytes (r : BitVec 256) (floor seq : Nat) : List Byte :=
  let b := asciiOf "KM7FLOR1" ++ toLE 4 floor ++ toLE 4 seq
  b ++ sha3 (floorKey r ++ b)
/-- The floor copy at `a`, when it verifies: FLOOR and SEQ (R461). Without a root secret there is no K_floor, and none verifies.
DEDUCED (log entry 9). -/
def floorCopy (root : Option (BitVec 256)) (f : Flash) (a : Nat) : Option (Nat × Nat) :=
  let v := fNum f (a + 8) 4
  let q := fNum f (a + 12) 4
  match root with
  | none => none
  | some r => if fRead f a 48 == floorBytes r v q then some (v, q) else none
/-- The floor record in force and its copy. -/
def floorFind (root : Option (BitVec 256)) (f : Flash) : Option (Nat × Nat × Nat) :=
  newerOf Prod.snd (floorCopy root f 0x4000) (floorCopy root f 0x5000)
/-- Writes a floor record into the other copy (R461); without a root secret none is written. DEDUCED (log entry 9). -/
def floorPut (root : Option (BitVec 256)) (f : Flash) (v : Nat) : Flash :=
  match root, floorFind root f with
  | none, _ => f
  | some r, some (i, _, q) => fWrite f (if i = 0 then 0x5000 else 0x4000) (floorBytes r v ((q + 1) % 2 ^ 32))
  | some r, none => fWrite f 0x4000 (floorBytes r v 1)

/-! ### Images (R462 to R466) -/

/-- A field of a manifest header. -/
def manU (m : List Byte) (o n : Nat) : Nat := leNat ((m.drop o).take n)
def manLen (m : List Byte) : Nat := manU m 16 4
def manPieces (m : List Byte) : Nat := manU m 20 4
/-- ROLLBACK, bytes 12 to 15 of VERSION (R463). -/
def manRollback (m : List Byte) : Nat := manU m 36 4
/-- The manifest digest (R465). -/
def manDigest (m : List Byte) : List Byte := sha3 (asciiOf "KM7MDIG1" ++ m.take 832)
/-- The part entries in use: TYPE, OFFSET, LENGTH, digest (R464). -/
def manParts (m : List Byte) : List (Nat × Nat × Nat × List Byte) :=
  (List.range (manU m 40 2)).map fun i =>
    let o := 64 + 48 * i
    (manU m o 1, manU m (o + 4) 4, manU m (o + 8) 4, (m.drop (o + 16)).take 32)

/-- LENGTH bounds of a part TYPE (R464). -/
def partLen (ty n : Nat) : Bool :=
  match ty with
  | 1 => n ≤ 0x800000
  | 2 | 4 => n ≤ 0x100000
  | 3 => n ≤ 0x40000
  | 5 => 0x40000 ≤ n && n ≤ 0x400000
  | 6 => n ≤ 0x200000
  | _ => false

/-- The part table (R464). -/
def partsOk (m : List Byte) : Bool :=
  let ps := manParts m
  let tys := ps.map (·.1)
  (ps.length == 5 || ps.length == 6)
    && ps.all (fun p => partLen p.1 p.2.2.1 && p.2.1 % 4096 == 0 && 8192 ≤ p.2.1 && p.2.1 + p.2.2.1 ≤ manLen m)
    && [1, 2, 3, 4, 6].all (fun t => t ∈ tys) && (List.range 7).all (fun t => decide (tys.count t ≤ 1))
    && (ps.zipIdx.all fun p => ps.zipIdx.all fun r =>
      p.2 == r.2 || decide (p.1.2.1 + p.1.2.2.1 ≤ r.1.2.1) || decide (r.1.2.1 + r.1.2.2.1 ≤ p.1.2.1))
    && ((m.drop (64 + 48 * ps.length)).take (48 * (16 - ps.length))).all (· == 0)

/-- The header's own fields (R462, R466). -/
def manFieldsOk (m : List Byte) : Bool :=
  m.take 8 == asciiOf "KM7MANF1" && manU m 8 1 % 16 == 1 && manU m 12 4 == 8192 && 8192 ≤ manLen m && manLen m ≤ 41943040
    && manPieces m == (manLen m + 65535) / 65536 && partsOk m

/-- SHA3-256 of PUBKEY is the ROM's key hash and the signature verifies (R465, R466). -/
def manKeyOk (m : List Byte) : Bool :=
  let key := (m.drop 832).take 1952
  sha3 key == toLE 32 Config.romKeyHash.toNat
    && MlDsa.verify key (m.take 832) ((m.drop 2784).take 3309)

/-- VARIANTS and REVS name this device (R462). -/
def manDeviceOk (v : Variant) (rev : Nat) (m : List Byte) : Bool :=
  bit (manU m 42 1) (match v with | .km7_110 => 0 | .km7_120 => 1 | .km7_220 => 2) && bit (manU m 43 1) rev

/-- Why a header fails: 1 header, 2 key or signature, 3 variant, 4 rollback; 0 it passes (R466, MGMT_BOOT_FAIL). DEDUCED
(log entry 53). -/
def manFail (v : Variant) (rev floor : Nat) (m : List Byte) : Nat :=
  if !manFieldsOk m then 1 else if !manKeyOk m then 2 else if !manDeviceOk v rev m then 3 else if manRollback m < floor then 4 else 0

/-- The header of the image in a region of the flash. -/
def imageHeader (f : Flash) (n : Nat) : List Byte := fRead f (slotBase n) 8192
/-- Does a part of the image in region `n` match its digest (R464)? -/
def partMatches (f : Flash) (n : Nat) (p : Nat × Nat × Nat × List Byte) : Bool := sha3 (fRead f (slotBase n + p.2.1) p.2.2.1) == p.2.2.2
/-- The first part that does not. -/
def partFailing (f : Flash) (n : Nat) : Option (Nat × Nat × Nat × List Byte) :=
  (manParts (imageHeader f n)).find? fun p => !partMatches f n p

/-- The floor in force: the record's, else the highest ROLLBACK of the images in slots A and B whose headers pass (R461). -/
def floorInForce (root : Option (BitVec 256)) (v : Variant) (rev : Nat) (f : Flash) : Nat :=
  match floorFind root f with
  | some (_, x, _) => x
  | none => [0, 1].foldl (fun n i => if manFail v rev 0 (imageHeader f i) = 0 then max n (manRollback (imageHeader f i)) else n) 0

/-! ### What the registers show (R487) -/

/-- Replaces the flash. -/
def HostSide.setFlash (h : HostSide) (f : Flash) : HostSide := { h with mgmt := { h.mgmt with flash := f } }
def HostSide.ctl (h : HostSide) : SlotCtl := ctlOf h.mgmt.flash
/-- The region that the running image lies in, if one runs: 0, 1, or 2 for recovery. -/
def HostSide.runningSlot (h : HostSide) : Option Nat := h.mgmt.running
/-- State code of the running slot; 0 for the recovery image. -/
def HostSide.runningState (h : HostSide) : Nat := match h.runningSlot with
  | some n => if n < 2 then h.ctl.state n else 0
  | none => 0
/-- Is the running slot TRIAL? -/
def HostSide.inTrial (h : HostSide) : Bool := h.runningState == 4

/-- Shows slots and pieces. -/
def HostSide.showSlots (h : HostSide) : HostSide :=
  let c := h.ctl
  let h := ((h.set Reg.MGMT_SLOT.STATE_A c.stateA).set Reg.MGMT_SLOT.STATE_B c.stateB).set Reg.MGMT_SLOT.ACTIVE c.active
  let h := (h.set Reg.MGMT_SLOT.TRIAL_BOOTS c.boots).set Reg.MGMT_PIECES.TOTAL (c.pieces c.idle)
  (h.set Reg.MGMT_PIECES.HELD (heldCount h.mgmt.flash c.idle (c.pieces c.idle))).set Reg.MGMT_STATUS.TRIAL (b2n h.inTrial)

/-- One control-block write (R460). -/
def HostSide.putCtl (h : HostSide) (c : SlotCtl) : HostSide := (h.setFlash (ctlPut h.mgmt.flash c)).showSlots

/-! ### Commands in order (R473) -/

/-- The oldest unfinished MBOX or IMAGE_PIECE of the engine, over all queues: queue and descriptor (R473). -/
def HostSide.oldestMbox (h : HostSide) : Option (Nat × Started) :=
  let all := (List.range 64).flatMap fun q => ((h.started q).filter fun d => (d.opcode == 0x40 || d.opcode == 0x41) && d.fin.isNone).map fun d => (q, d)
  all.foldl (fun best x => match best with
    | some b => if x.2.ord < b.2.ord then some x else best
    | none => some x) none

/-- Is the input of a mailbox command unreadable (R330)? -/
def HostSide.mboxErr (h : HostSide) (d : Started) : Bool := h.bme && h.readErr (d.fld 16 8) (d.fld 12 4)

/-- Runs a mailbox command of queue `q` when it is its turn. -/
def HostSide.withMbox (h : HostSide) (q cmd : Nat) (f : Started → HostSide) : HostSide :=
  match h.oldestMbox with
  | some (i, d) =>
    if i == q && d.opcode == 0x40 && d.fld 8 2 == cmd && !d.accepted then (if h.mboxErr d then h.finish q d.idx 10 1 0 else f d) else h
  | none => h

/-- Refuses a mailbox command (R485). -/
def HostSide.mboxNo (h : HostSide) (q : Nat) (d : Started) (detail : Nat) : HostSide := h.finish q d.idx 2 detail 0
/-- A mailbox command without output completes. -/
def HostSide.mboxOk (h : HostSide) (q : Nat) (d : Started) : HostSide := h.finish q d.idx 0 0 0
/-- OUT_LEN is smaller than `n`. -/
def Started.outShort (d : Started) (n : Nat) : Bool := d.fld 24 4 < n
/-- Writes OUT and completes (R484). -/
def HostSide.mboxOut (h : HostSide) (q : Nat) (d : Started) (bs : List Byte) : HostSide :=
  (h.hostWrite (d.fld 32 8) bs).finish q d.idx 0 0 bs.length
/-- IN as read from host memory. -/
def HostSide.mboxIn (h : HostSide) (d : Started) : List Byte := h.hostRead (d.fld 16 8) (d.fld 12 4)

/-! ### Delivery and activation (R474 to R478, R484) -/

/-- May the inactive slot not be written: it is the fallback of a TRIAL slot, or the running image lies in it (R474)? -/
def HostSide.idleKept (h : HostSide) : Bool :=
  let c := h.ctl
  (c.state c.active == 4 && c.state c.idle == 5) || h.runningSlot == some c.idle

/-- UPDATE_BEGIN opens delivery and returns the inactive slot's progress (R474, R484). `flashFail`: the flash cannot be read (R485).
DEDUCED (log entry 53). -/
def execUpdateBegin (q : Nat) (flashFail : Bool) (s : State) : Host.Outcome State Fault Refusal :=
  s.onHost fun _ h => h.withMbox q 0x10 fun d =>
    let c := h.ctl
    let n := c.idle
    let pcs := c.pieces n
    if d.outShort 128 then h.mboxNo q d 1
    else if h.idleKept then h.mboxNo q d 2
    else if flashFail then h.mboxNo q d 4
    else if !h.bme then h
    else
      let held := heldCount h.mgmt.flash n pcs
      let map := (List.range 80).map fun i =>
        BitVec.ofNat 8 ((List.range 8).foldl (fun b j => if 8 * i + j < pcs && pieceHeld h.mgmt.flash n (8 * i + j) then b + 2 ^ j else b) 0)
      { h with mgmt := { h.mgmt with delivery := true } }.mboxOut q d
        (toLE 4 (c.state n) ++ toLE 4 pcs ++ toLE 4 (pcs - held) ++ toLE 4 0 ++ c.digest n ++ map)

/-- The piece is written: its block erased, programmed and read back, then its bitmap bit; the last missing piece completes the image
(R475, R476). -/
def HostSide.writePiece (h : HostSide) (q : Nat) (d : Started) (piece : Nat) (bs : List Byte) (flashFail : Bool) : HostSide :=
  let c := h.ctl
  let n := c.idle
  let a := slotBase n + piece * 0x10000
  let f := fErase h.mgmt.flash a 0x10000
  if flashFail then (h.setFlash f).showSlots.finish q d.idx 2 9 0
  else
    let f := setPiece (fWrite f a bs) n piece true
    let h := (h.setFlash f).showSlots
    let h := if heldCount f n (c.pieces n) = c.pieces n && c.state n = 1
      then (h.putCtl (c.setState n 2)).setBits Reg.MGMT_INT_STATUS 8 else h
    h.finish q d.idx 0 0 0

/-- Piece 0: its header is checked before anything is erased; the first of an image starts reception (R475, R476). DEDUCED
(log entry 53). -/
def HostSide.pieceZero (h : HostSide) (v : Variant) (q : Nat) (d : Started) (bs : List Byte) (flashFail : Bool) : HostSide :=
  let c := h.ctl
  let n := c.idle
  let m := bs.take 8192
  let has := c.state n = 1 || c.state n = 2
  let bad := manFail v (h.get Reg.DEV_REV.REV) (h.get Reg.MGMT_FLOOR) m
  if bs.length < 8192 then h.finish q d.idx 1 3 0
  else if has && manDigest m == c.digest n && bs.length = min 65536 (manLen m) && pieceHeld h.mgmt.flash n 0 then h.finish q d.idx 0 0 0
  else if bad = 1 then h.finish q d.idx 2 3 0
  else if bs.length != min 65536 (manLen m) then h.finish q d.idx 1 3 0
  else if bad != 0 then h.finish q d.idx 2 (bad + 2) 0
  else if has && manDigest m != c.digest n then h.finish q d.idx 2 8 0
  else
    let h := if has then h
      else (h.putCtl ((c.setState n 1).setImage n (manDigest m) (manPieces m))).setFlash
        (fErase (ctlPut h.mgmt.flash ((c.setState n 1).setImage n (manDigest m) (manPieces m))) (bitmapBase n) 4096)
    h.writePiece q d 0 bs flashFail

/-- IMAGE_PIECE: the oldest descriptor in the engine's order (R473, R475). `flashFail`: erase, program or read-back fails.
DEDUCED (log entry 53). -/
def execImagePiece (q : Nat) (flashFail : Bool) (s : State) : Host.Outcome State Fault Refusal :=
  s.onHost fun e h =>
    match h.oldestMbox with
    | none => h
    | some (i, d) =>
      let len := d.fld 16 4
      let piece := d.fld 20 4
      let c := h.ctl
      let n := c.idle
      if i != q || d.opcode != 0x41 then h
      else if 65536 < len then h.finish q d.idx 1 3 0
      else if !h.mgmt.delivery then h.finish q d.idx 2 1 0
      else if h.idleKept then h.finish q d.idx 2 2 0
      else if !h.bme then h
      else if h.readErr (d.fld 8 8) len then h.finish q d.idx 10 1 0
      else
        let bs := h.hostRead (d.fld 8 8) len
        let h := h.countG 0x30 0 len
        if piece = 0 then h.pieceZero e.variant q d bs flashFail
        else
          let m := imageHeader h.mgmt.flash n
          if !(c.state n == 1 || c.state n == 2) || m.take 8 != asciiOf "KM7MANF1" then h.finish q d.idx 2 7 0
          else if c.pieces n ≤ piece || len != min 65536 (manLen m - piece * 65536) then h.finish q d.idx 1 3 0
          else if pieceHeld h.mgmt.flash n piece then h.finish q d.idx 0 0 0
          else h.writePiece q d piece bs flashFail

/-- UPDATE_ABORT empties the inactive slot and clears its bitmap (R476). -/
def execUpdateAbort (q : Nat) (flashFail : Bool) (s : State) : Host.Outcome State Fault Refusal :=
  s.onHost fun _ h => h.withMbox q 0x11 fun d =>
    let c := h.ctl
    let n := c.idle
    if !(c.state n ∈ [1, 2, 6]) then h.mboxNo q d 2
    else if flashFail then h.mboxNo q d 4
    else
      let h := h.putCtl ((c.setState n 0).setImage n (List.replicate 32 0) 0)
      (h.setFlash (fErase h.mgmt.flash (bitmapBase n) 4096)).showSlots.mboxOk q d

/-- UPDATE_ACTIVATE checks every part of the complete image: PENDING and ACTIVE, or RECEIVING with the pieces of the failing part
missing (R476, R477). -/
def execUpdateActivate (q : Nat) (flashFail : Bool) (s : State) : Host.Outcome State Fault Refusal :=
  s.onHost fun _ h => h.withMbox q 0x12 fun d =>
    let c := h.ctl
    let n := c.idle
    if d.outShort 4 then h.mboxNo q d 1
    else if c.state n = 1 then h.mboxNo q d 7
    else if c.state n != 2 then h.mboxNo q d 2
    else if flashFail then h.mboxNo q d 4
    else if !h.bme then h
    else match partFailing h.mgmt.flash n with
      | none => (h.putCtl { c.setState n 3 with active := n, boots := 0 }).mboxOut q d (toLE 4 0)
      | some p =>
        let first := p.2.1 / 65536
        let last := (p.2.1 + max 1 p.2.2.1 - 1) / 65536
        let f := (List.range (last + 1 - first)).foldl (fun f i => setPiece f n (first + i) false) h.mgmt.flash
        ((h.setFlash f).putCtl (c.setState n 1)).mboxOut q d (toLE 4 p.1)

/-! ### The settings area (R459, R479 to R481) -/

/-- The settings area (R459). -/
def settingsBase : Nat := 0x6100000
def settingsEnd : Nat := 0x7100000

/-- A record in flash: the header of R480, its data, and the CRC-32C of both (R479). DESIGN CHOICE (log entry 54). -/
def Setting.bytes (x : Setting) : List Byte :=
  let b := toLE 2 x.id ++ toLE 2 x.fmt.toNat ++ toLE 4 x.data.length ++ toLE 4 x.ctx ++ toLE 4 (b2n x.trial) ++ x.data
  b ++ toLE 4 (crc32c b).toNat

/-- At most `n` records from address `a` on: they stand one behind the other, an erased ID ends them, and one that fails its CRC is
ignored (R479). DESIGN CHOICE (log entry 54). -/
def settingsAt (f : Flash) : Nat → Nat → List Setting
  | 0, _ => []
  | n + 1, a =>
    let id := fNum f a 2
    let len := fNum f (a + 4) 4
    if id = 0xFFFF || settingsEnd < a + 20 + len then []
    else
      let rest := settingsAt f n (a + 20 + len)
      if fNum f (a + 16 + len) 4 = (crc32c (fRead f a (16 + len))).toNat then
        { id, ctx := fNum f (a + 8) 4, fmt := BitVec.ofNat 16 (fNum f (a + 2) 2), trial := bit (fNum f (a + 12) 1) 0,
          data := fRead f (a + 16) len } :: rest
      else rest

/-- The records of the settings area, oldest first. -/
def settingsOf (f : Flash) : List Setting := settingsAt f f.length settingsBase
/-- Writes the settings area afresh. -/
def settingsPut (f : Flash) (l : List Setting) : Flash :=
  fWrite (fErase f settingsBase 0x1000000) settingsBase (l.flatMap Setting.bytes)
/-- Do records not fit the settings area (R459, R485)? -/
def settingsFull (l : List Setting) : Bool := decide (0x1000000 < (l.map fun x => 20 + x.data.length).sum)

def HostSide.settings (h : HostSide) : List Setting := settingsOf h.mgmt.flash
def HostSide.setSettings (h : HostSide) (l : List Setting) : HostSide := h.setFlash (settingsPut h.mgmt.flash l)
/-- The manifest digest of the running image, as its registers show it. -/
def HostSide.manifestDigest (h : HostSide) : List Byte := (List.range 8).flatMap fun k => toLE 4 (h.get (Reg.MGMT_MANIFEST_DIGEST k))

/-- Settings at a confirm: TRIAL records lose their flag and replace the others of their ID and CTX (R481). -/
def confirmSettings (l : List Setting) : List Setting :=
  let trial := l.filter (·.trial)
  (l.filter fun x => x.trial || !(trial.any fun t => t.id == x.id && t.ctx == x.ctx)).map fun x => { x with trial := false }

/-- UPDATE_CONFIRM: only while the running slot is TRIAL: settings, floor, CONFIRMED (R478, R481). DEDUCED (log entry 53). -/
def execUpdateConfirm (q : Nat) (flashFail : Bool) (s : State) : Host.Outcome State Fault Refusal :=
  s.onHost fun _ h => h.withMbox q 0x13 fun d =>
    match h.runningSlot with
    | none => h
    | some n =>
      if !h.inTrial then h.mboxNo q d 2
      else if flashFail then h.mboxNo q d 4
      else
        let h := h.setSettings (confirmSettings h.settings)
        let floor := h.get Reg.MGMT_FLOOR
        let rb := max floor (h.get (Reg.MGMT_VERSION 3))
        let h := if floor < rb || h.on Reg.MGMT_STATUS.FLOOR_LOST
          then (h.setFlash (floorPut h.mgmt.root h.mgmt.flash rb)).set Reg.MGMT_FLOOR rb else h
        (h.putCtl (h.ctl.setState n 5)).mboxOk q d

/-- UPDATE_REVERT moves ACTIVE back (R476). -/
def execUpdateRevert (q : Nat) (flashFail : Bool) (s : State) : Host.Outcome State Fault Refusal :=
  s.onHost fun _ h => h.withMbox q 0x14 fun d =>
    let c := h.ctl
    let n := c.active
    if !(c.state n == 3 || c.state n == 4) then h.mboxNo q d 2
    else if flashFail then h.mboxNo q d 4
    else (h.putCtl { c.setState n (if c.state n = 3 then 2 else 6) with active := 1 - n }).mboxOk q d

/-- RECOVERY_WRITE copies a CONFIRMED inactive slot into the recovery region and verifies it (R484). The first event begins the copy: the
region is erased, so that the recovery image is no candidate, and stays none if a reset comes before the copy ends. The next one ends
it. DEDUCED (log entry 53). -/
def execRecoveryWrite (q : Nat) (flashFail : Bool) (s : State) : Host.Outcome State Fault Refusal :=
  s.onHost fun _ h => h.withMbox q 0x15 fun d =>
    let n := h.ctl.idle
    let len := manLen (imageHeader h.mgmt.flash n)
    if h.mgmt.copying != some (q, d.idx) then
      if h.ctl.state n != 5 then h.mboxNo q d 2
      else if 16777216 < len then h.mboxNo q d 8
      else
        let h := h.setFlash (fErase h.mgmt.flash (slotBase 2) 0x1000000)
        if flashFail then h.mboxNo q d 4 else { h with mgmt := { h.mgmt with copying := some (q, d.idx) } }
    else
      let h := { h with mgmt := { h.mgmt with copying := none } }
      if flashFail then h.mboxNo q d 4
      else
        let f := fWrite h.mgmt.flash (slotBase 2) (fRead h.mgmt.flash (slotBase n) len)
        if (partFailing f 2).isSome then (h.setFlash f).mboxNo q d 4 else (h.setFlash f).mboxOk q d

/-! ### Settings (R479 to R481, R484) -/

/-- The data of a privileged set from the registers in force (R480). -/
def settingData (h : HostSide) (d : FieldDie) (id ctx : Nat) : List Byte :=
  let word (a : Nat) : List Byte := toLE 4 (d.regs.word a).toNat
  match id with
  | 1 => (List.range 2).flatMap fun ch => (List.range 5).flatMap fun i => word ((Reg.SC_OFS.OFS_S ch).addr + 4 * i)
  | 2 => (List.range 8).flatMap fun g => word (Reg.WG_LEAD g).addr
  | _ =>
    let cfg := (h.ctx ctx).active
    let w := cfgGet cfg (Reg.WIDTH ctx)
    let p := planesIn cfg ctx
    let base := if cfgGet cfg (Reg.FLAT_BANK ctx) = 1 then cfgGet cfg (Reg.FLAT_BASE1 ctx) else cfgGet cfg (Reg.FLAT_BASE0 ctx)
    toLE 4 w ++ toLE 2 p ++ (List.range (p * w)).flatMap fun i => toLE 4 (h.tblWord (h.pipeOf ctx) (base + i))

/-- Replaces the record of the same identity, format and flag. DESIGN CHOICE (log entry 54). -/
def putSetting (l : List Setting) (x : Setting) : List Setting :=
  (l.filter fun y => !(y.id == x.id && y.ctx == x.ctx && y.fmt == x.fmt && y.trial == x.trial)) ++ [x]

/-- The FMT that the running firmware chooses for an ID (R479). -/
def HostSide.ownFmt (h : HostSide) (id : Nat) : BitVec 16 := Config.settingFmt (leNat h.manifestDigest) id
/-- Data of an ID, given in the layout of FMT 1, in an FMT (R480); a firmware lays out no record that is larger than the area.
DESIGN CHOICE (log entry 54). -/
def ofFmt1 (id : Nat) (fmt : BitVec 16) (bs : List Byte) : List Byte :=
  if fmt = 1 then bs else (Config.settingOfFmt1 id fmt bs).take (0x1000000 - 20)
/-- A record's data in the layout of FMT 1 (R480). -/
def Setting.asFmt1 (x : Setting) : List Byte := if x.fmt = 1 then x.data else Config.settingToFmt1 x.id x.fmt x.data

/-- ID and CTX of a settings command; only flat-field records have a CTX (R479). -/
def settingKey (bs : List Byte) : Nat × Nat :=
  let id := leNat (bs.take 2)
  (id, if id = 3 then leNat ((bs.drop 4).take 4) else 0)

/-- Is an ID that of a host record (R479)? -/
def hostId (id : Nat) : Bool := 0x100 ≤ id && id ≤ 0x1FF

/-- SETTINGS_SAVE stores a privileged set, as a TRIAL record while the running slot is TRIAL (R480, R481). DESIGN CHOICE
(log entry 54). -/
def execSettingsSave (q : Nat) (flashFail : Bool) (s : State) : Host.Outcome State Fault Refusal :=
  s.onHost fun e h => h.withMbox q 0x20 fun d =>
    if !h.bme then h
    else
      let (id, ctx) := settingKey (h.mboxIn d)
      let flats := (h.settings.filter fun x => x.id == 3 && x.ctx != ctx).map (·.ctx)
      if id = 0 || 3 < id || (id = 3 && e.variant.ctxs ≤ ctx) then h.finish q d.idx 1 3 0
      else if flashFail then h.mboxNo q d 4
      else if id = 3 && 16 ≤ flats.dedup.length then h.mboxNo q d 6
      else
        let fmt := h.ownFmt id
        let l := putSetting h.settings { id, ctx, fmt, trial := h.inTrial, data := ofFmt1 id fmt (settingData h s.field id ctx) }
        if settingsFull l then h.mboxNo q d 6 else (h.setSettings l).mboxOk q d

/-- The record that a set uses: while the running slot is TRIAL the TRIAL one of its own format first (R481). DESIGN CHOICE
(log entry 54). -/
def HostSide.settingOf (h : HostSide) (id ctx : Nat) : Option Setting :=
  let own := h.settings.filter fun x => x.id == id && x.ctx == ctx && (hostId id || x.fmt == h.ownFmt id)
  match (if h.inTrial then own.find? (·.trial) else none) with
  | some x => some x
  | none => own.find? fun x => !x.trial

/-- SETTINGS_READ returns a record (R480). `flashFail`: the flash cannot be read (R485). -/
def execSettingsRead (q : Nat) (flashFail : Bool) (s : State) : Host.Outcome State Fault Refusal :=
  s.onHost fun _ h => h.withMbox q 0x21 fun d =>
    if !h.bme then h
    else
      let (id, ctx) := settingKey (h.mboxIn d)
      match (if flashFail then none else h.settingOf id ctx) with
      | none => h.mboxNo q d (if flashFail then 4 else 5)
      | some x =>
        if d.outShort (16 + x.data.length) then h.mboxNo q d 1
        else h.mboxOut q d (x.bytes.take (16 + x.data.length))

/-- SETTINGS_WRITE stores a host record (R484). -/
def execSettingsWrite (q : Nat) (flashFail : Bool) (s : State) : Host.Outcome State Fault Refusal :=
  s.onHost fun _ h => h.withMbox q 0x22 fun d =>
    if !h.bme then h
    else
      let bs := h.mboxIn d
      let id := leNat (bs.take 2)
      if 1 ≤ id && id ≤ 3 then h.mboxNo q d 2
      else if !hostId id then h.finish q d.idx 1 3 0
      else if flashFail then h.mboxNo q d 4
      else
        let l := putSetting h.settings { id, fmt := h.ownFmt id, data := bs.drop 2 }
        if settingsFull l then h.mboxNo q d 6 else (h.setSettings l).mboxOk q d

/-- SETTINGS_ERASE erases a host record (R484). -/
def execSettingsErase (q : Nat) (flashFail : Bool) (s : State) : Host.Outcome State Fault Refusal :=
  s.onHost fun _ h => h.withMbox q 0x23 fun d =>
    if !h.bme then h
    else
      let (id, _) := settingKey (h.mboxIn d)
      if 1 ≤ id && id ≤ 3 then h.mboxNo q d 2
      else if flashFail then h.mboxNo q d 4
      else if !(h.settings.any fun x => x.id == id) then h.mboxNo q d 5
      else (h.setSettings (h.settings.filter fun x => x.id != id)).mboxOk q d

/-! ### Identity (R469 to R472, R482, R483) -/

/-- The certificate chain in the certificate area (R471). DESIGN CHOICE (log entry 9). -/
def certChain (f : Flash) : List Byte := fRead f (0x10000 + Config.certAt.val) (10522 + Config.certLen.val)
/-- The public key of `n` bytes in the device certificate (R471, R472). PRESUMED (log entry 9). -/
def certKey (f : Flash) (n : Nat) : List Byte := fRead f (0x10000 + Config.certAt.val + Config.certKeyAt.val) n

/-- CERT_GET returns the chain unchanged (R471). `flashFail`: the flash cannot be read (R485). -/
def execCertGet (q : Nat) (flashFail : Bool) (s : State) : Host.Outcome State Fault Refusal :=
  s.onHost fun _ h => h.withMbox q 0x30 fun d =>
    let chain := certChain h.mgmt.flash
    if d.outShort chain.length then h.mboxNo q d 1 else if flashFail then h.mboxNo q d 4 else if !h.bme then h else h.mboxOut q d chain

/-- The 256-bit root secret is reconstructed from the start-up values of its block and from the certificate area, in up to three attempts,
each with the block switched off and on (R469, R472). DESIGN CHOICE (log entry 9). -/
def HostSide.readPuf (h : HostSide) : HostSide :=
  let area := fRead h.mgmt.flash 0x10000 0x40000
  let start (i : Nat) : BitVec 32768 := Config.pufStart (h.fresh + i)
  let root (i : Nat) : Option (BitVec 256) := Config.pufDecode (start i) area
  { h with fresh := h.fresh + 3, mgmt := { h.mgmt with
      puf := if (root 0).isSome then start 0 else if (root 1).isSome then start 1 else start 2
      root := (root 0).or ((root 1).or (root 2)) } }

/-- Is identity available: R was reconstructed, and the regenerated public key is the one in the device certificate (R472)? -/
def HostSide.identified (h : HostSide) : Bool := match h.mgmt.root with
  | some r => identityKey r == certKey h.mgmt.flash (identityKey r).length
  | none => false

/-- PUBKEY_GET returns the identity public key (R484). -/
def execPubkeyGet (q : Nat) (s : State) : Host.Outcome State Fault Refusal :=
  s.onHost fun _ h => h.withMbox q 0x31 fun d =>
    if d.outShort 1952 then h.mboxNo q d 1
    else if !h.on Reg.MGMT_STATUS.IDENT_OK then h.mboxNo q d 3
    else if !h.bme then h
    else h.mboxOut q d (identityKey h.root)

/-- The 512-byte message of a quote (R482). DEDUCED (log entry 55). -/
def quoteMessage (h : HostSide) (d : FieldDie) (e : Env) (nonce : List Byte) : List Byte :=
  let words (f : Nat → RF) (n : Nat) : List Byte := (List.range n).flatMap fun k => toLE 4 (h.get (f k))
  let digs : List Byte := match h.insp.armed with
    | some r => (r.hdr.drop 16).take 32 ++ (r.hdr.drop 48).take 32
    | none => List.replicate 64 0
  let dict : List Byte := if h.hdw.active.isSome then words Reg.HDW_DICT_DIGEST 8 else List.replicate 32 0
  asciiOf "KM7QUOT1" ++ toLE 4 (h.get Reg.DET_BOOT_ID_LO) ++ toLE 4 (h.get Reg.DET_BOOT_ID_HI) ++ nonce ++ h.fwVersion
    ++ h.manifestDigest ++ deviceId h.root ++ h.unitMap ++ toLE 8 e.tick ++ toLE 8 (h.tbAt 0 e.tick / 2 ^ 32)
    ++ toLE 4 (h.get Reg.DET_CSEQ) ++ toLE 1 (h.get Reg.MGMT_STATUS.BOOT_SRC) ++ toLE 1 h.runningState ++ toLE 2 0
    ++ toLE 4 (h.get Reg.MGMT_FLOOR) ++ toLE 4 0 ++ digs ++ dict
    ++ ((List.range 8).flatMap fun k => toLE 4 (d.get (Reg.FLD_LOAD_DIGEST k))) ++ List.replicate 208 0

/-- QUOTE samples its message and queues it for signing (R482). DEDUCED (log entry 55). -/
def execQuote (q : Nat) (s : State) : Host.Outcome State Fault Refusal :=
  s.onHost fun e h => h.withMbox q 0x32 fun d =>
    if d.outShort 4096 then h.mboxNo q d 1
    else if !h.on Reg.MGMT_STATUS.IDENT_OK then h.mboxNo q d 3
    else if !h.bme then h
    else
      let m := quoteMessage h s.field e (h.mboxIn d)
      { h.modStarted q d.idx fun d => { d with accepted := true } with mgmt := { h.mgmt with quote := some (q, d.idx, m), quoteSigns := false } }.takeSigner e

/-- QUOTE_SIGNED: signing of a quote completes, once it has taken the signer; its body is written (R482, R483). DEDUCED (log
entry 55). -/
def execQuoteSigned (s : State) : Host.Outcome State Fault Refusal :=
  s.onHost fun e h =>
    match h.mgmt.quote with
    | none => h
    | some (q, idx, m) =>
      let h := h.takeSigner e
      if !h.mgmt.quoteSigns || !h.bme then h
      else match (h.started q).find? (fun d => d.idx == idx) with
        | none => h
        | some d =>
          let body := (m ++ identitySign h.root m ++ List.replicate 4096 0).take 4096
          { h with mgmt := { h.mgmt with quote := none, quoteSigns := false } }.mboxOut q d body

end Sys2Proof.Machine
end

