-- ==== Sys2Proof/Machine/Ethernet.lean ====
section
/-! DEFINITION. Ethernet ports and their time stamps (R305 to R309, R319, R335). -/

namespace Sys2Proof.Machine
open Sys2Proof

def HostSide.ethPort (h : HostSide) (p : Nat) : EthPort := SMap.get (fun _ => {}) h.eth p
def HostSide.setEth (h : HostSide) (p : Nat) (x : EthPort) : HostSide := { h with eth := h.eth.put p x }

/-- The TB0 stamp of the present tick with an adjustment in picoseconds, in units of 2^-16 ns (R306). -/
def HostSide.ethStamp (h : HostSide) (e : Env) (ps : Int) : Nat :=
  wrap 96 ((h.tbAt 0 e.tick : Int) + ps * 2 ^ 32 / 1000) / 2 ^ 16

/-- Shows the oldest queued transmit stamp (R309). -/
def HostSide.showStamp (h : HostSide) (p : Nat) : HostSide :=
  let l := (h.ethPort p).stamps
  let (id, st) := l.headD (0, 0)
  ((((h.set (Reg.ETH_TXTS_STATUS.COUNT p) l.length).set (Reg.ETH_TXTS_ID p) id).set (Reg.ETH_TXTS_FRAC p) st).set
    (Reg.ETH_TXTS_NS_LO p) (st / 2 ^ 16)).set (Reg.ETH_TXTS_NS_HI p) (st / 2 ^ 48)

/-- Replaces bytes of a frame. PRESUMED (log entry 39). -/
def patch (f : List Byte) (off : Nat) (bs : List Byte) : List Byte := f.take off ++ bs ++ f.drop (off + bs.length)

/-- One's complement sum of 16-bit words, with `s` as the sum so far. -/
def onesAdd (s w : Nat) : Nat := let t := s + w; t % 65536 + t / 65536

/-- RFC 1624: the checksum updated for the words of `old` that became `new` (R308). PRESUMED (log entry 39). -/
def rfc1624 (hc : Nat) (old new : List Byte) : Nat :=
  let ws (l : List Byte) : List Nat := (List.range (l.length / 2)).map fun i => beNat ((l.drop (2 * i)).take 2)
  65535 - ((ws old).zip (ws new)).foldl (fun s x => onesAdd (onesAdd s (65535 - x.1)) x.2) (65535 - hc)

/-- One-step insertion (R308): the frame as sent, and whether it was a message that R308 modifies. PRESUMED (log entry 39). -/
def oneStep (f : List Byte) (encap off refNs refFrac stamp : Nat) : List Byte × Bool :=
  let u (o n : Nat) : Nat := beNat ((f.drop (off + o)).take n)
  let type := u 0 1 % 16
  let ns := stamp / 2 ^ 16
  let fr := stamp % 2 ^ 16
  let out (g : List Byte) : List Byte :=
    match encap with
    | 1 => patch g (off - 2) [0, 0]
    | 2 => patch g (off - 2) (toBE 2 (rfc1624 (beNat ((f.drop (off - 2)).take 2)) ((f.drop off).take 44) ((g.drop off).take 44)))
    | _ => g
  let corr (z : Int) (g : List Byte) : List Byte := patch g (off + 8) (toBE 8 (wrap 64 ((u 8 8 : Int) + z)))
  if f.length < off + 44 then (f, false)
  else if type = 0 then
    (out (corr fr (patch f (off + 34) (toBE 6 (ns / 1000000000) ++ toBE 4 (ns % 1000000000)))), true)
  else if type = 3 then
    (out (corr (sext 32 (ns + 2 ^ 32 - refNs % 2 ^ 32) * 2 ^ 16 + ((fr : Int) - refFrac)) f), true)
  else (f, false)

/-- Has a frame more than one 802.1Q tag (R305)? The tags stand from byte 12 on, four bytes each. -/
def twoTags (f : List Byte) : Bool := beNat ((f.drop 12).take 2) == 0x8100 && beNat ((f.drop 16).take 2) == 0x8100

/-- ETH_TX: the oldest such descriptor of queue `q` is sent, stamped as its first symbol leaves and modified if it asks for it
(R308, R335). PRESUMED (log entry 39). -/
def execEthTx (q : Nat) (s : State) : Host.Outcome State Fault Refusal :=
  s.onData fun e h => h.withCurrent q 0x32 fun d =>
    let p := d.fld 18 1 % 2
    let len := d.fld 16 2 % 2 ^ 14
    let fl := d.fld 19 1
    let encap := fl / 4 % 4
    if encap = 3 || len < 60 || h.get (Reg.ETH_MAXLEN p) < len + 4 then h.finish q d.idx 1 3 0
    else if !h.bme || !h.on (Reg.ETH_CTRL.EN p) then h
    else
      let f := h.hostRead (d.fld 8 8) len
      if h.readErr (d.fld 8 8) len then h.finish q d.idx 10 1 0
      else if twoTags f then h.finish q d.idx 1 3 0
      else
      let stamp := h.ethStamp e (sext 16 (h.get (Reg.ETH_TS_TX_ADJ p)))
      let one := bit fl 1 && h.on (Reg.ETH_TS_CFG.ONE_STEP_EN p)
      let (g, done) := if one then oneStep f encap (d.fld 22 2) (d.fld 24 4) (d.fld 28 2) stamp else (f, false)
      let ts := if bit fl 0 || (one && !done) then some (d.fld 20 2) else none
      let x := h.ethPort p
      let h := h.setEth p { x with tx := x.tx ++ [{ q, idx := d.idx, frame := g, ts, stamp }] }
      (h.modStarted q d.idx fun d => { d with accepted := true }).countG 0x30 0 len

/-- ETH_RX_POST: posts one receive buffer of the port's receive queue (R335). PRESUMED (log entry 39). -/
def execEthRxPost (q : Nat) (s : State) : Host.Outcome State Fault Refusal :=
  s.onData fun _ h => h.withCurrent q 0x33 fun d =>
    let p := d.fld 18 1 % 2
    if !h.on (Reg.HIF_ETH_RXQ.EN p) || h.get (Reg.HIF_ETH_RXQ.QUEUE p) != q then h.finish q d.idx 1 3 0
    else
      let x := h.ethPort p
      (h.setEth p { x with posts := x.posts ++ [(q, d.idx)] }).modStarted q d.idx fun d => { d with accepted := true }

/-- Is it a pause frame (IEEE 802.3 Annex 31B)? -/
def isPause (f : List Byte) : Bool := beNat ((f.drop 12).take 2) == 0x8808 && beNat ((f.drop 14).take 2) == 1

/-- A frame has arrived on port `p` (R305, R306, R335). PRESUMED (log entry 39). -/
def HostSide.ethRx (h : HostSide) (e : Env) (p : Nat) (f : List Byte) (good : Bool) : HostSide :=
  if !good then h.inc (Reg.ETH_RX_FCS_ERR p) 1
  else
    let drop := h.inc (Reg.ETH_RX_DROP p) 1
    if isPause f || twoTags f || h.get (Reg.ETH_MAXLEN p) < f.length + 4 || !h.bme then drop
    else match (h.ethPort p).posts with
      | [] => drop
      | (q, i) :: rest =>
        match (h.started q).find? (fun d => d.idx == i) with
        | none => drop
        | some d =>
          if d.fld 16 2 % 2 ^ 14 < f.length then drop
          else
            let st := h.ethStamp e (sext 16 (h.get (Reg.ETH_TS_RX_ADJ p)))
            let h := (h.setEth p { h.ethPort p with posts := rest }).hostWrite (d.fld 8 8) f
            let h := h.modStarted q i fun d =>
              { d with fin := some {}, eth := some { frac := st % 2 ^ 16, length := f.length, ns := st / 2 ^ 16 % 2 ^ 64 } }
            h.inc (Reg.ETH_RX_FRAMES p) 1

/-- ETH_RX_FRAME: a frame without its FCS arrives on the pins of an enabled port that is not looped back (R305). -/
def execEthRxFrame (p : Nat) (good : Bool) (data : List Byte) (s : State) : Host.Outcome State Fault Refusal :=
  s.onHost fun e h =>
    if 2 ≤ p || !h.on (Reg.ETH_CTRL.EN p) || h.on (Reg.ETH_CTRL.LOOP p) then h else h.ethRx e p data good

/-- A stamp is queued, or lost at a full queue (R309). -/
def HostSide.queueStamp (h : HostSide) (p id stamp : Nat) : HostSide :=
  let x := h.ethPort p
  if 16 ≤ x.stamps.length then
    ((h.set (Reg.ETH_TXTS_STATUS.OVF p) 1).inc (Reg.ETH_TXTS_LOST p) 1).setBits (Reg.ETH_INT_STATUS p) 4
  else ((h.setEth p { x with stamps := x.stamps ++ [(id, stamp)] }).setBits (Reg.ETH_INT_STATUS p) 2).showStamp p

/-- ETH_TX_DONE: the last symbol of the oldest frame has left the port: its stamp is queued and its descriptor completes (R309,
R335). With LOOP the port receives it (R319). -/
def execEthTxDone (p : Nat) (s : State) : Host.Outcome State Fault Refusal :=
  s.onHost fun e h =>
    if 2 ≤ p || !h.on (Reg.ETH_CTRL.EN p) then h
    else match (h.ethPort p).tx with
      | [] => h
      | t :: rest =>
        let h := h.setEth p { h.ethPort p with tx := rest, sent := t.frame ++ toLE 4 (fcs32 t.frame).toNat }
        let h := match t.ts with | some id => h.queueStamp p id t.stamp | none => h
        let h := (h.inc (Reg.ETH_TX_FRAMES p) 1).finish t.q t.idx 0 0 0
        if h.on (Reg.ETH_CTRL.LOOP p) then h.ethRx e p t.frame true else h

/-- ETH_TXTS_STATUS.POP removes the oldest stamp (R309). -/
def execEthTxtsPop (p : Nat) (s : State) : Host.Outcome State Fault Refusal :=
  s.onBar fun _ h =>
    if 2 ≤ p then h
    else
      let x := h.ethPort p
      (h.setEth p { x with stamps := x.stamps.tail }).showStamp p

/-- The link levels of a port; a change of LINK_UP sets LINK_CHG (R319). -/
def HostSide.ethLink (h : HostSide) (p : Nat) (lock hiBer : Bool) : HostSide :=
  let up := b2n (lock && !hiBer)
  let h := if h.get (Reg.ETH_STATUS.LINK_UP p) = up then h else h.setBits (Reg.ETH_INT_STATUS p) 1
  ((h.set (Reg.ETH_STATUS.BLOCK_LOCK p) (b2n lock)).set (Reg.ETH_STATUS.HI_BER p) (b2n hiBer)).set (Reg.ETH_STATUS.LINK_UP p) up

/-- ETH_LINK_CHANGE: Clause 49 block lock and high bit-error rate of an enabled port (R319). -/
def execEthLinkChange (p : Nat) (lock hiBer : Bool) (s : State) : Host.Outcome State Fault Refusal :=
  s.onHost fun _ h => if 2 ≤ p || !h.on (Reg.ETH_CTRL.EN p) then h else h.ethLink p lock hiBer

end Sys2Proof.Machine
end

