-- ==== Sys2Proof/Machine/Queues.lean ====
section
/-! DEFINITION. The host interface: the ABI, doorbells, submission and completion queues, result-ring set-up, the MOVE engine, the
state page and the MSI-X vectors (11). -/

namespace Sys2Proof.Machine
open Sys2Proof

/-! ### Opening the device (R324) -/

/-- Is every queue and every ring disabled? DEDUCED (log entry 41). -/
def HostSide.allOff (h : HostSide) : Bool :=
  (List.range 64).all (fun q => h.get (Reg.SQ_STATUS.STATE q) == 0 && !h.on (Reg.CQ_CFG.EN q))
    && (List.range 16).all fun n => !h.on (Reg.RR_CFG.EN n)

/-- Writing HOST_ABI negotiates the version, 1 being the only one of the KM7 (R324). The register responds before READY (R349).
DEDUCED (log entry 41). -/
def execHostAbiWrite (v : Word) (s : State) : Host.Outcome State Fault Refusal :=
  s.onHost fun _ h =>
    if !h.allOff then h
    else
      let ok := decide (v.toNat / 65536 ≤ 1) && decide (1 ≤ v.toNat % 65536)
      ((h.setWord 0x14 v).set Reg.DEV_ABI.ACTIVE (b2n ok)).set Reg.DEV_ABI.FAIL (b2n !ok)

/-- A configuration is refused (R351). -/
def HostSide.cfgInvalid (h : HostSide) : HostSide := h.set Reg.HIF_STATUS.CFG_INVALID 1

/-! ### Doorbells (R323, R327, R329, R343) -/

/-- Distance between two free-running counts. -/
def countDiff (a b : Nat) : Nat := (a + 2 ^ 32 - b % 2 ^ 32) % 2 ^ 32

def HostSide.sqSize (h : HostSide) (q : Nat) : Nat := sizeOf (h.get (Reg.SQ_CFG.SIZE_L q))

/-- A submission queue doorbell sets the tail; an overrun is ignored and halts the queue with cause 1 (R327). At a disabled queue it only
holds what was written (R323). DEDUCED (log entry 41). -/
def execSqDoorbell (q : Nat) (v : Word) (s : State) : Host.Outcome State Fault Refusal :=
  s.onBar fun _ h =>
    if 64 ≤ q then h
    else if h.get (Reg.SQ_STATUS.STATE q) = 0 then h.set (Reg.DB_SQ q) v.toNat
    else if h.sqSize q < countDiff v.toNat (h.get (Reg.SQ_HEAD q)) then h.haltQueue q 1
    else (h.set (Reg.SQ_TAIL q) v.toNat).set (Reg.DB_SQ q) v.toNat

/-- Shows whether a completion queue is full (R329). -/
def HostSide.showCq (h : HostSide) (c : Nat) : HostSide :=
  h.set (Reg.CQ_STATUS.FULL c) (b2n (h.on (Reg.CQ_CFG.EN c)
    && countDiff (h.get (Reg.CQ_WRITTEN c)) (h.get (Reg.CQ_HEAD c)) == sizeOf (h.get (Reg.CQ_CFG.SIZE_L c))))

/-- A completion queue's head doorbell frees entries (R329). -/
def execCqHeadDoorbell (q : Nat) (v : Word) (s : State) : Host.Outcome State Fault Refusal :=
  s.onBar fun _ h =>
    if 64 ≤ q then h
    else if !h.on (Reg.CQ_CFG.EN q) then h.set (Reg.DB_CQ q) v.toNat
    else ((h.set (Reg.CQ_HEAD q) v.toNat).set (Reg.DB_CQ q) v.toNat).showCq q

/-- A result ring's head doorbell releases consumed slots (R343). -/
def execRrHeadDoorbell (n : Nat) (v : Word) (s : State) : Host.Outcome State Fault Refusal :=
  s.onBar fun _ h =>
    if 16 ≤ n then h
    else if !h.on (Reg.RR_CFG.EN n) then h.set (Reg.DB_RR n) v.toNat
    else (h.set (Reg.RR_HEAD n) v.toNat).set (Reg.DB_RR n) v.toNat

/-! ### Enabling, restarting and resetting queues (R328, R352 to R354) -/

/-- Is a queue configuration refused (R326, R352)? -/
def HostSide.sqRefused (h : HostSide) (v : Word) : Bool :=
  let f (r : RF) : Nat := r.ofWord v
  let eng := f (Reg.SQ_CFG.ENGINE 0)
  h.get Reg.DEV_ABI.ACTIVE == 0 || !h.on (Reg.CQ_CFG.EN (f (Reg.SQ_CFG.CQ 0))) || 10 < f (Reg.SQ_CFG.SIZE_L 0)
    || ((eng == 0 || eng == 3) && f (Reg.SQ_CFG.CLIENT 0) != 0)

/-- Writing SQ_CFG with EN = 1: the queue runs with H = T = 0, or the write is refused (R328, R352). DEDUCED (log entry 41). -/
def execSqEnable (q : Nat) (v : Word) (s : State) : Host.Outcome State Fault Refusal :=
  s.onBar fun _ h =>
    if 64 ≤ q || h.on (Reg.SQ_CFG.EN q) || h.get (Reg.SQ_STATUS.STATE q) != 0 then h
    else if h.sqRefused v then h.cfgInvalid
    else
      let h := h.setWord (Reg.SQ_CFG.EN q).addr ((v &&& 0x00FF3FF7#32) ||| 1#32)
      let h := ((h.set (Reg.SQ_STATUS.STATE q) 1).set (Reg.SQ_STATUS.CAUSE q) 0).set (Reg.SQ_HEAD q) 0
      ((h.set (Reg.SQ_TAIL q) 0).set (Reg.DB_SQ q) 0).setStarted q []

/-- The HIF_HALTED bit of a queue clears. -/
def HostSide.unhalt (h : HostSide) (q : Nat) : HostSide :=
  let f := if q < 32 then Reg.HIF_HALTED_LO else Reg.HIF_HALTED_HI
  if bit (h.get f) (q % 32) then h.set f (h.get f - 2 ^ (q % 32)) else h

/-- SQ_CMD.RESTART: a halted queue runs on from H; of the stop sample's queue, Headwater resumes (R328, R396). DEDUCED (log entry 41). -/
def execSqRestart (q : Nat) (s : State) : Host.Outcome State Fault Refusal :=
  s.onBar fun _ h =>
    if 64 ≤ q then h
    else
      let h := if h.get (Reg.SQ_STATUS.STATE q) = 2
        then ((h.set (Reg.SQ_STATUS.STATE q) 1).set (Reg.SQ_STATUS.CAUSE q) 0).unhalt q else h
      h.hdwRestart q

/-- What a reset of its queue does to a started descriptor (R328): a COPY or FILL stops after its piece, a JOB_RUN is cancelled, a
posted receive buffer completes ABORTED, as does a sample not yet admitted (R397); the others complete normally. DEDUCED (log
entry 42). -/
def HostSide.resetStarted (h : HostSide) (e : Env) (q : Nat) (d : Started) : HostSide :=
  if d.fin.isSome then h
  else if d.opcode = 0x30 || d.opcode = 0x31 then h.modStarted q d.idx fun x => { x with abort := true }
  else if d.opcode = 0x20 then
    match h.comp.jobs.find? (fun j => j.q == q && j.idx == d.idx && j.live) with
    | some j => h.cancelJob e j
    | none => h.finish q d.idx 3 0 0
  else if d.opcode = 0x22 && !d.accepted then h.finish q d.idx 9 0 0
  else if d.opcode = 0x33 then
    let h := forN 2 (fun p h => h.setEth p { h.ethPort p with posts := (h.ethPort p).posts.filter fun x => x != (q, d.idx) }) h
    h.finish q d.idx 9 0 0
  else h

/-- SQ_CMD.RESET (`cfg` none), or SQ_CFG written with EN = 0 (`cfg`: the value): the queue is RESETTING (R328, R397). DEDUCED
(log entry 41). -/
def execSqReset (q : Nat) (cfg : Option Word) (s : State) : Host.Outcome State Fault Refusal :=
  s.onBar fun e h =>
    if 64 ≤ q then h
    else
      let on_ := h.get (Reg.SQ_STATUS.STATE q) != 0
      let h := match cfg with
        | some v => h.setWord (Reg.SQ_CFG.EN q).addr (v &&& 0x00FF3FF6#32)
        | none => if on_ then h.set (Reg.SQ_CFG.EN q) 0 else h
      if !on_ || h.get (Reg.SQ_STATUS.STATE q) = 3 then h
      else
        let h := ((h.set (Reg.SQ_STATUS.STATE q) 3).set (Reg.SQ_STATUS.CAUSE q) 0).unhalt q
        ((h.started q).foldl (fun h d => h.resetStarted e q d) h).hdwReset q

/-- Every started descriptor of a resetting queue has completed, and none is pending: DISABLED (R328). -/
def execSqResetDone (q : Nat) (s : State) : Host.Outcome State Fault Refusal :=
  s.onHost fun _ h =>
    if h.get (Reg.SQ_STATUS.STATE q) = 3 && q < 64 && (h.started q).isEmpty && h.get (Reg.SQ_HEAD q) = h.get (Reg.SQ_TAIL q)
    then h.set (Reg.SQ_STATUS.STATE q) 0 else h

/-- Writing CQ_CFG: an enable starts the counts at 0; a disable is refused while a bound submission queue is not DISABLED (R324,
R353). -/
def execCqEnable (q : Nat) (v : Word) (s : State) : Host.Outcome State Fault Refusal :=
  s.onBar fun _ h =>
    if 64 ≤ q then h
    else
      let was := h.on (Reg.CQ_CFG.EN q)
      let en := v.getLsbD 0
      let w := v &&& 0x00007FF1#32
      let a := (Reg.CQ_CFG.EN q).addr
      if en then
        if 10 < (Reg.CQ_CFG.SIZE_L 0).ofWord v || h.get Reg.DEV_ABI.ACTIVE = 0 then h.cfgInvalid
        else if was then (h.setWord a w).showCq q
        else ((((h.setWord a w).set (Reg.CQ_WRITTEN q) 0).set (Reg.CQ_HEAD q) 0).set (Reg.DB_CQ q) 0).showCq q
      else if was && (List.range 64).any fun i => h.get (Reg.SQ_STATUS.STATE i) != 0 && h.get (Reg.SQ_CFG.CQ i) == q
      then h.cfgInvalid
      else (h.setWord a w).showCq q

/-- Ring positions restart at 0, in the order of the records held (R354). -/
def Ring.restart (r : Ring) : Ring :=
  let base := match r.held with
    | [] => r.produced - r.lossRun
    | x :: _ => match x.gap with | some (_, pos, _) => pos | none => x.pos
  { r with
    held := r.held.map fun x => { x with pos := x.pos - base, gap := x.gap.map fun g => (g.1, g.2.1 - base, g.2.2) },
    produced := r.produced - base, lossPos := r.lossPos - base, leaves := r.leaves.map fun x => (x.1 - base, x.2) }

/-- Writing RR_CFG enables or disables a result ring (R324, R354). DEDUCED (log entry 41). -/
def execRrEnable (n : Nat) (v : Word) (s : State) : Host.Outcome State Fault Refusal :=
  s.onBar fun _ h =>
    if 16 ≤ n then h
    else
      let was := h.on (Reg.RR_CFG.EN n)
      let w := v &&& 0x00007FF1#32
      let a := (Reg.RR_CFG.EN n).addr
      if v.getLsbD 0 then
        if 10 < (Reg.RR_CFG.SIZE_L 0).ofWord v || h.get Reg.DEV_ABI.ACTIVE = 0 then h.cfgInvalid
        else if was then h.setWord a w
        else ((((h.setWord a w).set (Reg.RR_PUBLISHED n) 0).set (Reg.RR_HEAD n) 0).set (Reg.DB_RR n) 0).setRing n (h.ring n).restart
      else h.setWord a w

/-! ### Fetching descriptors (R325, R327, R332) -/

/-- Engine of an opcode (R332). -/
def opEngine (op : Nat) : Option Nat :=
  if 0x10 ≤ op && op ≤ 0x13 then some 0
  else if 0x20 ≤ op && op ≤ 0x22 then some 1
  else if 0x30 ≤ op && op ≤ 0x33 then some 2
  else if 0x40 ≤ op && op ≤ 0x43 then some 3
  else none

/-- Does a mailbox command take this IN_LEN (R484)? An unlisted command takes none. -/
def mboxOk (cmd inLen : Nat) : Bool :=
  if (0x10 ≤ cmd && cmd ≤ 0x15) || cmd == 0x30 || cmd == 0x31 then inLen == 0
  else if cmd == 0x20 || cmd == 0x21 || cmd == 0x23 then inLen == 8
  else if cmd == 0x22 then 2 ≤ inLen && inLen ≤ 4098
  else cmd == 0x32 && inLen == 32

/-- A completion queue that is full while an entry waits for it stops the queues bound to it (R329). DEDUCED (log entry 42). -/
def HostSide.cqBlocked (h : HostSide) (c : Nat) : Bool :=
  h.on (Reg.CQ_STATUS.FULL c) && (List.range 64).any fun q =>
    h.get (Reg.SQ_STATUS.STATE q) != 0 && h.get (Reg.SQ_CFG.CQ q) == c &&
      (match (h.started q).head? with
        | some d => (match d.fin with | some f => !(f.status == 0 && bit (d.fld 2 1) 2) | none => false)
        | none => false)

/-- The 64 bytes of the descriptor at a queue's head (R327). -/
def HostSide.nextDesc (h : HostSide) (q : Nat) : List Byte :=
  let base := h.get (Reg.SQ_BASE_LO q) * 64 + h.get (Reg.SQ_BASE_HI q) * 2 ^ 32
  h.hostRead (base + h.get (Reg.SQ_HEAD q) % h.sqSize q * 64) 64

/-- Is it unreadable (R328)? -/
def HostSide.descErr (h : HostSide) (q : Nat) : Bool :=
  h.readErr (h.get (Reg.SQ_BASE_LO q) * 64 + h.get (Reg.SQ_BASE_HI q) * 2 ^ 32 + h.get (Reg.SQ_HEAD q) % h.sqSize q * 64) 64

/-- TEXT_SAMPLEs fetched that have not entered the reorder window (R381). -/
def HostSide.textWaiting (h : HostSide) : Nat :=
  ((List.range 64).flatMap h.started).countP (fun d => d.opcode == 0x22 && d.fin.isNone && !d.accepted) + h.hdw.ready.length

/-- May the next descriptor of a running queue start: it is pending, its completion queue does not block it, its FENCE holds
nothing before it, and its unit has room (R327, R329, R359, R381, R395)? DEDUCED (log entry 42). -/
def HostSide.startable (h : HostSide) (q : Nat) : Bool :=
  let d : Started := { desc := h.nextDesc q }
  h.get (Reg.SQ_STATUS.STATE q) == 1 && h.get (Reg.SQ_HEAD q) != h.get (Reg.SQ_TAIL q)
    && !h.cqBlocked (h.get (Reg.SQ_CFG.CQ q))
    && !(bit (d.fld 2 1) 1 && !(h.started q).isEmpty)
    && !(d.opcode == 0x20 && 128 ≤ h.comp.jobs.length)
    && !(d.opcode == 0x22 && (64 ≤ h.textWaiting + h.hdw.win.length || h.hdw.stop.isSome))

/-- The queue that an engine serves next, round robin (R327). -/
def HostSide.turnOf (h : HostSide) (eng : Nat) : Option Nat :=
  let last := SMap.get (fun _ => 63) h.lastQ eng
  ((List.range 64).map fun i => (last + 1 + i) % 64).find? fun q => h.get (Reg.SQ_CFG.ENGINE q) == eng && h.startable q

/-- How a fetched descriptor ends at once, if it does (R325, R332, R484). -/
def Started.refused (d : Started) (eng : Nat) : Option Fin :=
  if d.fld 0 1 % 16 != 1 then some { status := 1, detail := 2 }
  else if opEngine d.opcode != some eng then some { status := 1, detail := 1 }
  else if d.opcode == 0x40 && !mboxOk (d.fld 8 2) (d.fld 12 4) then some { status := 1, detail := 3 }
  else none

/-- An engine fetches the next descriptor of queue `q` and starts it, when it is the queue's turn; in RESETTING it completes
ABORTED. A PCIe error on the fetch halts the queue with cause 2 (R325, R327, R328). DEDUCED (log entries 42, 63). -/
def execDescriptorFetch (q : Nat) (pcieError : Bool) (s : State) : Host.Outcome State Fault Refusal :=
  s.onHost fun _ h =>
    let eng := h.get (Reg.SQ_CFG.ENGINE q)
    let st := h.get (Reg.SQ_STATUS.STATE q)
    let go := if st = 3 then h.get (Reg.SQ_HEAD q) != h.get (Reg.SQ_TAIL q) else h.turnOf eng == some q
    if 64 ≤ q || !h.bme || (h.stopped && eng != 3) || !go then h
    else if pcieError || h.descErr q then h.haltQueue q 2
    else
      let i := h.get (Reg.SQ_HEAD q)
      let d : Started := { idx := i, desc := h.nextDesc q, ord := h.starts }
      let d := { d with fin := if st = 3 then some { status := 9 } else d.refused eng }
      let h := (h.set (Reg.SQ_HEAD q) (i + 1)).countG 0x30 0 64
      { h.setStarted q (h.started q ++ [d]) with starts := h.starts + 1, lastQ := h.lastQ.put eng q }

/-! ### Completions (R329, R330) -/

/-- The 16 bytes of a completion entry, PHASE as given (R329). -/
def Started.entry (d : Started) (q phase : Nat) (f : Fin) : List Byte :=
  match d.eth with
  | some x => toLE 2 (d.fld 4 2) ++ toLE 2 x.frac ++ toLE 2 x.length ++ toLE 1 q ++ toLE 1 (1 + 16 * phase + 32) ++ toLE 8 x.ns
  | none => d.desc.drop 4 |>.take 4 |> fun tag => tag ++ toLE 2 (d.idx + 1) ++ toLE 1 q ++ toLE 1 (1 + 16 * phase)
      ++ toLE 1 f.status ++ toLE 1 f.detail ++ toLE 2 0 ++ toLE 4 f.result

/-- The completion is written: its descriptor leaves the queue, and the table entry of an ended job is free (R363). -/
def HostSide.retire (h : HostSide) (q : Nat) (d : Started) : HostSide :=
  let h := h.setStarted q ((h.started q).drop 1)
  match h.comp.jobs.find? (fun j => !j.live && j.q == q && j.idx == d.idx) with
  | some j => ({ h with comp := { h.comp with jobs := h.comp.jobs.filter fun x => x.acc != j.acc } }).showJob j
  | none => h

/-- The oldest descriptor of queue `q`, once ended, writes its completion when its completion queue has room; QUIET and OK write
none (R327, R329, R330). -/
def execCompletionWrite (q : Nat) (s : State) : Host.Outcome State Fault Refusal :=
  s.onHost fun _ h =>
    if 64 ≤ q || (h.stopped && h.get (Reg.SQ_CFG.ENGINE q) != 3) then h
    else match h.started q with
      | [] => h
      | d :: _ => match d.fin with
        | none => h
        | some f =>
          if f.status == 0 && bit (d.fld 2 1) 2 then h.retire q d
          else
            let c := h.get (Reg.SQ_CFG.CQ q)
            if !h.bme || h.on (Reg.CQ_STATUS.FULL c) then h
            else
              let size := sizeOf (h.get (Reg.CQ_CFG.SIZE_L c))
              let j := h.get (Reg.CQ_WRITTEN c)
              let base := h.get (Reg.CQ_BASE_LO c) * 64 + h.get (Reg.CQ_BASE_HI c) * 2 ^ 32
              let h := h.hostWrite (base + j % size * 16) (d.entry q (b2n (decide (j / size % 2 = 0))) f)
              let h := ((h.set (Reg.CQ_WRITTEN c) (j + 1)).showCq c).retire q d
              if (f.status != 0 || bit (d.fld 2 1) 0) && h.on (Reg.CQ_CFG.IEN c) then h.signal (h.get (Reg.CQ_CFG.VECTOR c)) else h

/-! ### The MOVE engine (R326, R334) -/

/-- An end of a MOVE: SPACE, UNIT and ADDR. -/
structure MoveEnd where
  space : Nat
  unit : Nat
  addr : Nat
deriving DecidableEq, Repr

/-- Is SPACE and UNIT one that exists? -/
def MoveEnd.exists_ (v : Variant) (x : MoveEnd) : Bool :=
  match x.space with
  | 0 | 1 | 5 => x.unit == 0
  | 2 => x.unit < 8
  | 3 => x.unit < 64
  | 4 => x.unit < v.pipes
  | _ => false

/-- Do `n` bytes lie in the space, aligned as it asks (R92, R174, R334, R383)? -/
def MoveEnd.fits (v : Variant) (x : MoveEnd) (n : Nat) : Bool :=
  match x.space with
  | 0 => x.addr % 4 == 0 && x.addr + n ≤ 2 ^ 64
  | 1 => hbmOk v.groups x.addr (n + padOf 2 n)
  | 2 => x.addr % 64 == 0 && x.addr + n ≤ 0x800000
  | 3 => x.addr % 64 == 0 && inSpad x.addr n
  | _ => x.addr % 4 == 0 && x.addr + n ≤ 0x800000

/-- May a client name it (R326)? -/
def HostSide.moveAccess (h : HostSide) (client : Nat) (x : MoveEnd) (n : Nat) : Bool :=
  client == 0 || x.space == 0 || (x.space == 1 && h.clientHbm client x.addr (n + padOf 2 n))

/-- Kind, unit and offset of a memory with tiles; none for the other spaces, or a logical core without a live site. -/
def HostSide.moveMem (h : HostSide) (x : MoveEnd) : Option (Nat × Nat × Nat) :=
  match x.space with
  | 1 => some (2, x.addr / 2 ^ 32, x.addr % 2 ^ 32)
  | 2 => some (1, x.unit, x.addr)
  | 3 => (h.liveSite x.unit).map fun s => (0, s, x.addr)
  | _ => none

/-- Can the engine act on it now: HBM while it serves, a cluster that does not sleep, host memory while Bus Master Enable is set
(R201, R349, R437)? -/
def HostSide.moveReady (h : HostSide) (x : MoveEnd) : Bool :=
  (x.space != 1 || h.hbmUp) && (x.space != 0 || h.bme) && !(x.space == 2 && h.asleep x.unit)
    && !(x.space == 3 && h.asleep (x.unit / 8))

/-- `n` bytes at offset `off` of a source, with the kind of a checksum failure, if one occurs (R180). -/
def HostSide.moveRead (h : HostSide) (e : Env) (x : MoveEnd) (off n : Nat) : HostSide × List Byte × Option Nat :=
  match h.moveMem x with
  | some (k, u, a) =>
    let (g, bad) := h.useStore e k u (a + off) n
    (g.countAccess true k u n, (h.storeOf k u).read (a + off) n, if bad then some k else none)
  | none =>
    match x.space with
    | 0 => (h.countG 0x30 0 n, h.hostRead (x.addr + off) n, none)
    | 4 => (h, (List.range (n / 4)).flatMap fun i => toLE 4 (h.tblWord x.unit (x.addr / 4 + off / 4 + i)), none)
    | _ => (h, h.dictBytes (x.addr + off) n, none)

/-- What a write of a piece met: nothing, a refused word of a pipe table, a failed tile of a kind. -/
inductive MoveGot where
  | ok
  | table
  | failed (kind : Nat)
deriving DecidableEq, Repr

/-- Writes a piece at offset `off`; `bad`: it failed its check (R174, R179, R181, R92). -/
def HostSide.moveWrite (h : HostSide) (e : Env) (x : MoveEnd) (off : Nat) (bs : List Byte) (bad : Bool) : HostSide × MoveGot :=
  match h.moveMem x with
  | some (k, u, a) =>
    let bs := bs ++ List.replicate (padOf k bs.length) 0
    let (g, f) := h.landPiece e k u (a + off) bs bad
    (g.countAccess false k u bs.length, if f && !bad then .failed k else .ok)
  | none =>
    match x.space with
    | 0 => (h.hostWrite (x.addr + off) bs, .ok)
    | 4 => (List.range (bs.length / 4)).foldl (fun (acc : HostSide × MoveGot) i =>
        let (g, r) := acc.1.tblWrite x.unit (x.addr / 4 + off / 4 + i) (BitVec.ofNat 32 (leNat ((bs.drop (4 * i)).take 4)))
        (g, if r then .table else acc.2)) (h, .ok)
    | _ => ({ h with hdw := { h.hdw with
        dict := (List.range bs.length).foldl (fun m i => m.put (x.addr + off + i) (bs.getD i 0)) h.hdw.dict } }, .ok)

/-- A write of a piece into a held dictionary bank (R385)? DEDUCED (log entry 43). -/
def HostSide.dictHeld (h : HostSide) (x : MoveEnd) (off n : Nat) : Bool :=
  x.space == 5 && (h.bankHeld ((x.addr + off) / 0x400000) || h.bankHeld ((x.addr + off + n - 1) / 0x400000))

/-- Ends of a COPY: destination of COPY and FILL, source of COPY. -/
def Started.moveDst (d : Started) : MoveEnd := { space := d.fld 28 1, unit := d.fld 29 1, addr := d.fld 20 8 }
def Started.moveSrc (d : Started) : MoveEnd := { space := d.fld 16 1, unit := d.fld 17 1, addr := d.fld 8 8 }

/-- How a MOVE descriptor is refused before its first piece: STATUS and DETAIL. DEDUCED (log entry 32). -/
def HostSide.moveRefused (h : HostSide) (e : Env) (q : Nat) (ends : List MoveEnd) (n : Nat) : Option (Nat × Nat) :=
  let over_ := match ends with
    | [a, b] => a.space == b.space && a.unit == b.unit && a.addr < b.addr + n && b.addr < a.addr + n
    | _ => false
  if n = 0 || ends.any (fun x => !x.exists_ e.variant) then some (1, 3)
  else if ends.any fun x => !h.moveAccess (h.client q) x n then some (8, 0)
  else if n % 4 != 0 || over_ || ends.any (fun x => !x.fits e.variant n) then some (1, 4)
  else if ends.any fun x => x.space == 3 && (h.liveSite x.unit).isNone then some (6, 0xF0)
  else none

/-- After a piece: the descriptor ends when all of it is done, or when its queue is being reset (R328, R334). DEDUCED (log entry 43). -/
def HostSide.moveNext (h : HostSide) (q : Nat) (d : Started) (n len : Nat) (got : MoveGot) : HostSide :=
  let refused := got == .table || d.handle == 1
  match got with
  | .failed k => h.finish q d.idx 4 k d.prog
  | _ =>
    if d.abort then h.finish q d.idx 9 0 0
    else if d.prog + n = len then
      if refused then h.finish q d.idx 7 d.moveDst.unit 0 else h.finish q d.idx 0 0 0
    else h.modStarted q d.idx fun x => { x with prog := d.prog + n, handle := b2n refused }

/-- What the reads of an SRAM that a MOVE reads, or merges into, met (R184). -/
def HostSide.moveEcc (h : HostSide) (e : Env) (x : MoveEnd) (ecc : Ecc) : HostSide :=
  match h.moveMem x with
  | some (k, u, _) => h.eccUse e k u ecc
  | none => h

/-- One piece of the oldest COPY of queue `q`, its checks before the first (R334). `outcome` 1: the piece was corrupted in transit and
arrived as `got`; 2: the host read failed. `ecc`, `merge`: what the reads of a source SRAM, and of the tiles it merges into in a
destination SRAM, met (R184). DEDUCED (log entries 32, 43). -/
def execCopy (q outcome : Nat) (got : List Byte) (ecc merge : Ecc) (s : State) : Host.Outcome State Fault Refusal :=
  s.onData fun e h => h.withCurrent q 0x30 fun d =>
    let src := d.moveSrc
    let dst := d.moveDst
    let len := d.fld 32 4
    match (if d.prog = 0 then h.moveRefused e q [src, dst] len else none) with
    | some (st, det) => h.finish q d.idx st det 0
    | none =>
      if !h.moveReady src || !h.moveReady dst then h
      else
        let n := min 2048 (len - d.prog)
        if src.space = 0 && (outcome = 2 || h.readErr (src.addr + d.prog) n) then h.finish q d.idx 10 1 0
        else if h.dictHeld dst d.prog n then h.finish q d.idx 8 0 0
        else
          let (_, unit, at_) := (h.moveMem dst).getD (3, dst.unit, dst.addr)
          let (h, bs, bad) := (h.moveEcc e src ecc).moveRead e src d.prog n
          let (bs, lost) := arrived (if outcome = 1 then [(0, got)] else []) 0 bs
          let h := if lost then h.csumFail e 3 unit ((at_ + d.prog) / 2048 * 2048) else h
          let (h, r) := (h.moveEcc e dst merge).moveWrite e dst d.prog bs (bad.isSome || lost)
          h.moveNext q d n len (match bad with | some k => .failed k | none => if lost then .failed 3 else r)

/-- One piece of the oldest FILL of queue `q` (R334). `ecc`: what the reads of the tiles it merges into met (R184). DEDUCED (log entries
32, 43). -/
def execFill (q : Nat) (ecc : Ecc) (s : State) : Host.Outcome State Fault Refusal :=
  s.onData fun e h => h.withCurrent q 0x31 fun d =>
    let dst := d.moveDst
    let len := d.fld 32 4
    match (if d.prog = 0 then h.moveRefused e q [dst] len else none) with
    | some (st, det) => h.finish q d.idx st det 0
    | none =>
      if !h.moveReady dst then h
      else
        let n := min 2048 (len - d.prog)
        if h.dictHeld dst d.prog n then h.finish q d.idx 8 0 0
        else
          let (h, r) := (h.moveEcc e dst ecc).moveWrite e dst d.prog ((List.range (n / 4)).flatMap fun _ => (d.desc.drop 36).take 4) false
          h.moveNext q d n len r

/-! ### Bus Master Enable, interrupts, the state page (R344, R346, R348, R349) -/

/-- Does a begun MOVE descriptor use host memory? DEDUCED (log entry 32). -/
def Started.usesHost (d : Started) : Bool :=
  d.fin.isNone && d.prog != 0 && ((d.opcode == 0x30 && d.moveSrc.space == 0) || ((d.opcode == 0x30 || d.opcode == 0x31) && d.moveDst.space == 0))

/-- A pending bit sends its message once the vector is unmasked and the function may master the bus (R348). -/
def HostSide.sendPending (h : HostSide) (v : Nat) : HostSide :=
  let x := h.vec v
  if x.pend && h.bme && !h.on (Reg.MSIX_MASK v) then h.setVec v { x with pend := false, sent := x.sent + 1 } else h

/-- Bus Master Enable changes (R344, R349): cleared, begun MOVE descriptors on host memory end PCIE 2 (R330); set, pending messages
go out. DEDUCED (log entry 32). -/
def execBusMasterEnableChange (on : Bool) (s : State) : Host.Outcome State Fault Refusal :=
  s.onHost fun _ h =>
    let was := h.bme
    let h : HostSide := { h with bme := on, pcieLink := .up }
    if on then forN 64 (fun v h => h.sendPending v) h
    else if was then
      forN 64 (fun q h => ((h.started q).filter Started.usesHost).foldl (fun h d => h.finish q d.idx 10 2 0) h) h
    else h

/-- TIMER µs after the first signal not yet sent (R348). -/
def execMsixVectorTimer (v : Nat) (s : State) : Host.Outcome State Fault Refusal :=
  s.onHost fun _ h => if 64 ≤ v || !h.on (Reg.VEC_CFG.TIMER v) || (h.vec v).gathered = 0 then h else h.sendVec v

/-- Unmasking sends the message at once when the pending bit is set (R348). -/
def execMsixUnmask (v : Nat) (s : State) : Host.Outcome State Fault Refusal :=
  s.onBar fun _ h => if 64 ≤ v then h else (h.set (Reg.MSIX_MASK v) 0).sendPending v

/-- FLAGS of the state page (R346). -/
def HostSide.pageFlags (h : HostSide) : Nat :=
  h.get Reg.MEM_STATUS.INIT_DONE + 2 * h.get Reg.BAR_STATUS.SAFE + 4 * h.get Reg.BAR_STATUS.FIELD_LOST
    + 8 * h.get Reg.BAR_STATUS.FIELD_FAULT + 16 * h.get Reg.GSTOP_STATUS.STATE + 256 * h.get Reg.PM_STATUS.DEVICE
    + 1024 * b2n h.insp.armed.isSome

/-- The 4 KiB state page (R346). DEDUCED (log entry 60). -/
def HostSide.pageBytes (h : HostSide) (e : Env) : List Byte :=
  let clu (k : Nat) : Nat :=
    b2n (bit (h.get Reg.DET_CLU_STATE.HALTED) k) + 2 * b2n (bit (h.get Reg.DET_CLU_STATE.DEGRADED) k)
      + 4 * b2n (bit (h.get Reg.DET_CLU_STATE.NOSPARE) k) + 16 * (h.get Reg.PM_CLU_STATE / 4 ^ k % 4)
  let part (k : Nat) : Nat := (h.partOf k).getD 0xFF
  let digest : List Byte := match h.insp.armed with | some r => (r.hdr.drop 16).take 32 | none => List.replicate 32 0
  let gap (n : Nat) : List Byte := List.replicate n 0
  toLE 8 h.spGen ++ toLE 1 1 ++ gap 7 ++ toLE 8 e.tick ++ toLE 4 (h.get Reg.DET_CSEQ) ++ toLE 4 h.pageFlags
    ++ h.unitMap ++ (List.range 8).flatMap (fun k => toLE 1 (part k)) ++ (List.range 8).flatMap (fun k => toLE 1 (clu k))
    ++ toLE 1 h.insp.armedSlot ++ gap 31 ++ digest ++ toLE 8 h.insp.lastSeq
    ++ toLE 4 (h.insp.items.filter fun i => !i.released).length ++ gap 116
    ++ (List.range 16).flatMap (fun n => toLE 4 (h.get (Reg.RR_PUBLISHED n)) ++ toLE 4 (h.ring n).lostAll) ++ gap 128
    ++ (List.range 64).flatMap (fun q => toLE 4 (h.get (Reg.SQ_HEAD q)))
    ++ (List.range 64).flatMap (fun q => toLE 4 (h.get (Reg.CQ_WRITTEN q)))
    ++ (List.range 16).flatMap (fun n => toLE 1 (h.get (Reg.CXP_STATE.STATE n)))
    ++ (List.range 8).flatMap (fun p => toLE 1 (h.get (Reg.IFL_STATE.STATE p)))
    ++ toLE 4 (h.get Reg.PM_LOG_COUNT) ++ toLE 4 (h.get Reg.PM_LOG_LAST) ++ gap 3040

/-- The device samples its status and rewrites the state page, its generation even again at the end (R33, R346). DEDUCED
(log entry 60). -/
def execStatePageUpdate (s : State) : Host.Outcome State Fault Refusal :=
  s.onHost fun e h =>
    if !h.on Reg.SP_CTRL.EN || !h.bme then h
    else
      let h : HostSide := { h with spGen := (h.spGen + 2) % 2 ^ 64 }
      let base := h.get Reg.SP_BASE_LO * 4096 + h.get Reg.SP_BASE_HI * 2 ^ 32
      (h.hostWrite base (h.pageBytes e)).set Reg.SP_GEN h.spGen

end Sys2Proof.Machine
end

