-- ==== Sys2Proof/Machine/Pm.lean ====
section
/-! DEFINITION. Power states, throttling, temperatures, the compute-die trip, wedged functions and the voltage interface (R434 to
R457, R502). -/

namespace Sys2Proof.Machine
open Sys2Proof

/-! ### Sleep and wake (R434 to R441) -/

/-- Puts a cluster in a power state and shows the device state, the shallowest of the eight (R434, R436). -/
def HostSide.setCluPower (h : HostSide) (k st : Nat) : HostSide :=
  let h := h.set ⟨0x20018, 2 * k, 2⟩ st
  h.set Reg.PM_STATUS.DEVICE ((List.range 8).foldl (fun m i => min m (h.cluPower i)) 3)

/-- Does a begun MOVE descriptor name the line store or a scratchpad of cluster `k`? -/
def Started.moves (d : Started) (k : Nat) : Bool :=
  let hits (space unit : Nat) : Bool := (space == 2 && unit == k) || (space == 3 && unit / 8 == k)
  d.fin.isNone && d.prog != 0 && ((d.opcode == 0x30 && hits (d.fld 16 1) (d.fld 17 1))
    || ((d.opcode == 0x30 || d.opcode == 0x31) && hits (d.fld 28 1) (d.fld 29 1)))

/-- Does a pipe whose turn is in progress write cluster `k` (R437)? -/
def HostSide.pipeFeeds (h : HostSide) (k : Nat) : Bool :=
  h.pipes.any fun p => match p.2.turn with
    | some x => (dests (h.ctx x).active x).any fun j => h.act x (Reg.DEST_CLU x j) == k
    | none => false

/-- Has a cluster work: in the verdict partition with an armed recipe, held by a job, or with a transfer in progress; boot work counts
(R437, R456)? DEDUCED (log entry 51). -/
def HostSide.hasWork (h : HostSide) (k : Nat) : Bool :=
  !h.ready || h.pm.resuming || (h.partOf k == some 0 && h.insp.armed.isSome) || h.comp.jobs.any (fun j => j.holds k)
    || h.cores.any (fun c => c.2.xfers.any fun t => c.1 / 9 == k || (t.space == 3 && t.peer == k)) || h.pipeFeeds k
    || (List.range 64).any fun q => (h.started q).any fun d => d.moves k

/-- May a cluster be in REST (R436)? -/
def HostSide.restOk (h : HostSide) (k : Nat) : Bool :=
  match h.partOf k with
  | some _ => 4000 ≤ h.get Reg.PM_TOL_DATA
  | none => h.get Reg.PM_CTRL.UNUSED_STATE == 3

/-- May a cluster be in IDLE or DOZE: not below its lowest state, the exit latency within its tolerance (R435, R438)? -/
def HostSide.dozeOk (h : HostSide) (k st : Nat) : Bool :=
  match h.partOf k with
  | some _ => (if st = 1 then 2 else 150) ≤ h.get Reg.PM_TOL_DATA
  | none => st ≤ h.get Reg.PM_CTRL.UNUSED_STATE

/-- A cluster enters a sleep state; from ACTIVE or IDLE into DOZE or REST that is a commit point without a record (R438). DEDUCED
(log entry 18). -/
def HostSide.sleepTo (h : HostSide) (k st : Nat) : HostSide :=
  let cross := h.cluPower k < 2 && 2 ≤ st
  let h := h.setCluPower k st
  if cross then h.nextCseq else h

/-- CLUSTER_SLEEP_ENTRY: cluster `k` has been without work for the entry delay of `state` (1 IDLE, 2 DOZE, 3 REST). The device enters
REST as a whole (R436, R438); a global stop holds entry delays (R441). -/
def execClusterSleepEntry (k state : Nat) (s : State) : Host.Outcome State Fault Refusal :=
  s.onData fun _ h =>
    let free (i : Nat) : Bool := !h.hasWork i && !(i ∈ h.pm.waking)
    if 8 ≤ k || state = 0 || 3 < state || !h.on Reg.PM_CTRL.AUTO || h.pm.dieOff || state ≤ h.cluPower k || !free k then h
    else if state = 3 then
      if (List.range 8).all (fun i => h.restOk i && free i) then (List.range 8).foldl (fun h i => h.sleepTo i 3) h else h
    else if h.dozeOk k state then h.sleepTo k state
    else h

/-- CLUSTER_WAKE: a wake trigger has arisen for a sleeping cluster (R437); units asleep stay asleep in a global stop (R441).
DEDUCED (log entry 51). -/
def execClusterWake (k : Nat) (s : State) : Host.Outcome State Fault Refusal :=
  s.onData fun _ h => if 8 ≤ k || h.pm.dieOff || h.cluPower k = 0 then h else h.wake k

/-- Every scratchpad and line store is zero with valid checksums, as after self-test (R140, R434). DEDUCED (log entry 51). -/
def HostSide.zeroSram (h : HostSide) : HostSide :=
  let h := forN 72 (fun s h => h.setCore s { h.core s with spad := {}, dirty := [] }) h
  { h with lstore := [], lsDirty := [] }

/-- The exit of cluster `k` completes: it is ACTIVE. Leaving DOZE or REST is a commit point and counts a wake; leaving REST, the
SRAMs read zero and the other clusters are in DOZE (R434, R436, R438). -/
def HostSide.awake (h : HostSide) (k : Nat) : HostSide :=
  let was := h.cluPower k
  let h := { h with pm := { h.pm with waking := h.pm.waking.filter (· != k) } }
  let h := if was = 3 then forN 8 (fun i h => if h.cluPower i = 3 then h.setCluPower i 2 else h) h.zeroSram else h
  let h := h.setCluPower k 0
  if was < 2 then h else h.nextCseq.inc Reg.PM_WAKES 1

/-- Exit latency of a state in µs (R434). -/
def exitLatency (st : Nat) : Nat := if st = 0 then 0 else if st = 1 then 2 else if st = 2 then 150 else 4000

/-- POWER_TOL sets the three tolerances; a cluster whose exit latency is above its new tolerance wakes, and the wake is counted
(R439). -/
def execPowerTol (q : Nat) (s : State) : Host.Outcome State Fault Refusal :=
  s.onHost fun _ h => h.withCurrent q 0x42 fun d =>
    let h := ((h.set Reg.PM_TOL_DATA (d.fld 8 4)).set Reg.PM_TOL_CONTROL (d.fld 12 4)).set Reg.PM_TOL_MGMT (d.fld 16 4)
    let h := if h.pm.dieOff then h else forN 8 (fun k h =>
      if (h.partOf k).isSome && h.get Reg.PM_TOL_DATA < exitLatency (h.cluPower k) && !(k ∈ h.pm.waking) then
        (if h.cluPower k = 1 then h.inc Reg.PM_WAKES 1 else h).wake k
      else h) h
    h.finish q d.idx 0 0 0

/-- What the PCIe port's LTR messages report, in µs: the smallest of the three tolerances (R435). -/
def HostSide.ltrUs (h : HostSide) : Nat := min (h.get Reg.PM_TOL_DATA) (min (h.get Reg.PM_TOL_CONTROL) (h.get Reg.PM_TOL_MGMT))

/-! ### Throttling (R442 to R445) -/

/-- F = min(F_cap, F_therm) and the THROTTLE bit (R444). -/
def HostSide.showF (h : HostSide) : HostSide :=
  let f := min (h.get Reg.PM_THROTTLE.F_CAP) (h.get Reg.PM_THROTTLE_T.F_THERM)
  (h.set Reg.PM_THROTTLE.F f).set Reg.PM_STATUS.THROTTLE (b2n (decide (f < 256)))

/-- Is a core running free-mode commands (R444)? -/
def HostSide.freeRunning (h : HostSide) : Bool :=
  h.cores.any fun c => h.coreState c.1 < 4 && (match c.2.frames with | f :: _ => !f.timed | [] => false)

/-- A hardware clamp: the interrupt, and log code 0x0105 (R442, R448). -/
def HostSide.clamp (h : HostSide) (e : Env) : HostSide := (h.setBits Reg.PM_INT_STATUS 32).log e 0x0105 0 0 0 0

/-- Voltage of a compute die's rail, mV: what was last committed; it starts at 800 mV (R503). -/
def HostSide.railVolt (h : HostSide) (n : Nat) : Nat := SMap.get (fun _ => 800) h.pm.avsReq n

/-- Power of the two compute-die rails in mW: each rail's current as last read at its voltage (R502). -/
def HostSide.railPower (h : HostSide) : Nat :=
  ([0, 1].map fun n => SMap.get (fun _ => 0) h.pm.avsCur n * h.railVolt n / 100).sum

/-- POWER_CAP_WINDOW: 1 ms of host-side input power has been measured: the compute-die rails by their currents and `est` mW
for the other rails, on average (R502). F_cap follows the cap, and a window above the
cap that F_cap can do no more about is a clamp (R444). DEDUCED (log entry 51). -/
def execPowerCapWindow (est : Nat) (s : State) : Host.Outcome State Fault Refusal :=
  s.onHost fun e h =>
    let mw := est + h.railPower
    let h := h.set Reg.PM_POWER_MW mw
    let cap := h.get Reg.PM_CAP_W * 1000
    let f := h.get Reg.PM_THROTTLE.F_CAP
    if cap = 0 then h
    else if cap < mw then
      let h := if f = 16 || !h.freeRunning then ((h.set Reg.PM_STATUS.CAP_CLAMP 1).inc Reg.PM_CLAMP_CAP 1).clamp e else h
      (h.set Reg.PM_THROTTLE.F_CAP (max 16 (f - 16))).showF
    else if mw + 2000 < cap then (h.set Reg.PM_THROTTLE.F_CAP (min 256 (f + 16))).showF
    else h

/-- VOLT_CLAMP_WINDOW: 1 ms with a negative margin counts once (R443). -/
def execVoltClampWindow (s : State) : Host.Outcome State Fault Refusal :=
  s.onHost fun e h =>
    if 128 ≤ h.get Reg.PM_VOLT_MARGIN then ((h.set Reg.PM_STATUS.VOLT_CLAMP 1).inc Reg.PM_CLAMP_VOLT 1).clamp e else h

/-- A critical temperature (R445): flagged, logged, the armed recipe disarmed at the next commit point, F_therm 16. DEDUCED
(log entry 51). -/
def HostSide.critical (h : HostSide) (e : Env) (temp : Nat) : HostSide :=
  let h := ((h.set Reg.PM_STATUS.THERM_CRIT 1).setBits Reg.PM_INT_STATUS 1).log e 0x0307 0 temp 0 0
  let h := if h.insp.armed.isNone && h.insp.commits.isEmpty then h else h.addCommit (.disarm none)
  (h.set Reg.PM_THROTTLE_T.F_THERM 16).showF

/-- THERMAL_SAMPLE: every 100 µs the hottest sensor of each die and each stack's temperature, in °C, are read; a reading that reaches a
critical threshold acts once (R445). -/
def execThermalSample (cd0 cd1 io0 io1 hbm0 hbm1 : Nat) (s : State) : Host.Outcome State Fault Refusal :=
  s.onHost fun e h =>
    let io1 := if e.variant.ioDies = 2 then io1 else 0
    let die := max (max (cd0 % 256) (cd1 % 256)) (max (io0 % 256) (io1 % 256))
    let hbm := max (hbm0 % 256) (if e.variant.stacks = 2 then hbm1 % 256 else 0)
    let h := (((h.set Reg.PM_TEMP.CD0 cd0).set Reg.PM_TEMP.CD1 cd1).set Reg.PM_TEMP.IO0 io0).set Reg.PM_TEMP.IO1 io1
    let h := h.set Reg.PM_TEMP_MAX (max die (h.get Reg.PM_TEMP_MAX))
    let was := 110 ≤ h.pm.hotDie || 95 ≤ h.pm.hotHbm
    let now := 110 ≤ die || 95 ≤ hbm
    let h := { h with pm := { h.pm with hotDie := die, hotHbm := hbm, tripNow := decide (120 ≤ die) || decide (105 ≤ hbm) } }
    if now && !was then h.critical e (max die hbm) else h

/-- THERMAL_THROTTLE_STEP: every 1 ms F_therm falls by 32 while a reading is at or above its throttle threshold and rises by 16 while
every reading is at least 3 °C below (R445). DEDUCED (log entry 51). -/
def execThermalThrottleStep (s : State) : Host.Outcome State Fault Refusal :=
  s.onHost fun _ h =>
    let tj := h.get Reg.PM_TJ_THROTTLE
    let f := h.get Reg.PM_THROTTLE_T.F_THERM
    if tj ≤ h.pm.hotDie || 85 ≤ h.pm.hotHbm then (h.set Reg.PM_THROTTLE_T.F_THERM (max 16 (f - 32))).showF
    else if h.pm.hotDie + 3 ≤ tj && h.pm.hotHbm + 3 ≤ 85 then (h.set Reg.PM_THROTTLE_T.F_THERM (min 256 (f + 16))).showF
    else h

/-! ### The compute-die trip (R446) -/

/-- Accepted commit points that involve the compute dies complete CANCELLED, a RECIPE_DISARM among them; of management's own, which have
no descriptor, those that rearm or disarm what the trip disarms are gone, and the others wait (R446). DEDUCED (log entry 52). -/
def HostSide.cancelCommits (h : HostSide) : HostSide :=
  h.insp.commits.foldl (fun h c => match c with
    | .recipe _ r b =>
      let h := r.images.foldl (fun h n => h.set (Reg.SLU_STATUS.LOADER n) 0) h
      h.finishBy b 3 0 0
    | .partition part clusters us b =>
      if (c.clusters h).isEmpty then h.addCommit (.partition part clusters us b) else h.finishBy b 3 0 0
    | .disarm b => h.finishBy b 3 0 0
    | .rearm => h
    | c => h.addCommit c) { h with insp := { h.insp with commits := [] } }

/-- COMPUTE_DIE_TRIP: a trip temperature was sampled, or (`volt`) a core voltage lay below VFLOOR − 30 mV for 1 µs (R443, R445,
R446). DEDUCED (log entry 52). -/
def execComputeDieTrip (volt : Bool) (s : State) : Host.Outcome State Fault Refusal :=
  s.onHost fun e h =>
    if (h.pm.dieOff && !h.pm.resuming) || !(volt || h.pm.tripNow) then h
    else
      let h := { h with pm := { h.pm with dieOff := true, resuming := false, waking := [], underVolt := volt || h.pm.underVolt } }
      let h := ((h.set Reg.PM_STATUS.TRIP 1).setBits Reg.PM_INT_STATUS 2).log e 0x0308 0 0 0 0
      let h := h.cancelCommits
      let h := if h.insp.armed.isSome then h.disarm.nextCseq else h
      -- items of older recipes lose their cores as well
      let h := (h.insp.olds.foldl (fun h r => h.stopCores r true) h)
      let h := { h with insp := { h.insp with items := h.insp.items.map fun (i : Item) => i.force 5 } }
      (h.comp.jobs.filter Job.live).foldl (fun h j => match h.job j.id with | some j => h.endJob e j 6 0xF2 | none => h) h

/-- PM_CMD.RESUME: with no trip condition present the dies run their self-test; otherwise it is ignored (R446). DEDUCED
(log entry 52). -/
def execPmResume (s : State) : Host.Outcome State Fault Refusal :=
  s.onBar fun _ h =>
    if !h.pm.dieOff || h.pm.tripNow || h.pm.underVolt then h else { h with pm := { h.pm with resuming := true } }

/-- PM_TRIP_N: low from a trip until PM_CMD.RESUME takes effect, which it does when it is not ignored (R495). DEDUCED (log entry 52). -/
def HostSide.tripPin (h : HostSide) : PinLevel := if !h.down && h.pm.dieOff && !h.pm.resuming then .low else .highZ

/-! ### Wedged functions, alarms, fatal errors (R452 to R455) -/

/-- Does a started descriptor that has not ended wait for HBM: a MOVE with an end there, a JOB_RUN, or a RECIPE_LOAD (R201, R451)? -/
def Started.namesHbm (d : Started) : Bool :=
  d.fin.isNone && !d.accepted && (d.opcode == 0x10 || d.opcode == 0x20
    || (d.opcode == 0x30 && (d.moveSrc.space == 1 || d.moveDst.space == 1)) || (d.opcode == 0x31 && d.moveDst.space == 1))

/-- Is a transfer that names HBM waiting: one of a core or of a list's fetch, of a descriptor, of a job's context, of Headwater or of the
trace (R451, R452)? -/
def HostSide.waitsHbm (h : HostSide) : Bool :=
  h.cores.any (fun c => c.2.xfers.any (fun t => t.space == 2) || (1 ≤ h.coreState c.1 && h.coreState c.1 ≤ 3 && c.2.wants.any fun w => w.1 == 2))
    || (List.range 64).any (fun q => (h.started q).any Started.namesHbm)
    || h.comp.jobs.any (fun j => j.state == 2 || j.state == 5)
    || !h.hdw.closed.isEmpty || h.hdw.win.any (fun x => x.state == 1 || x.state == 2)
    || (h.on Reg.TRC_CTRL.EN && h.gauge.bufs.any fun b => !b.2.recs.isEmpty)

/-- Could a unit of R452 be waiting? -/
def HostSide.wedgeable (h : HostSide) (unit : Nat) : Bool :=
  match unit with
  | 1 => h.insp.items.any fun i => !i.released
  | 2 => h.comp.jobs.any fun j => j.state == 2 || j.state == 5
  | 3 => (List.range 64).any fun q => (h.started q).any fun d =>
      d.fin.isNone && h.get (Reg.SQ_CFG.ENGINE q) == 2 && (d.opcode == 0x30 || d.opcode == 0x31 || d.opcode == 0x32)
  | 4 => h.hdw.win.any fun x => x.state == 1
  | 5 => !h.insp.commits.isEmpty
  | 6 => (List.range 16).any fun n => h.ringReady n && !(h.ring n).held.isEmpty
  | 7 => !h.on Reg.MEM_STATUS.INIT_DONE && h.waitsHbm
  | _ => false

/-- WEDGE_DETECT: a watched unit has met its condition for its time, global stops not counted (R452). DEDUCED (log entry 52). -/
def execWedgeDetect (unit : Nat) (s : State) : Host.Outcome State Fault Refusal :=
  s.onData fun e h =>
    if !h.wedgeable unit then h
    else
      let h := ((h.set Reg.PM_STATUS.WEDGED 1).set Reg.PM_WEDGE_UNIT unit).setBits Reg.PM_INT_STATUS 4
      if unit = 1 then h.fatal e 0x0504 1 0 else h.log e 0x0401 unit 0 0 0

/-- UNDEC_WINDOW: a 1 s window of UNDECIDED verdicts ends (R454). -/
def execUndecWindow (s : State) : Host.Outcome State Fault Refusal :=
  s.onHost fun _ h =>
    let lim := h.get Reg.PM_UNDEC_LIMIT
    let h' := { h with pm := { h.pm with undecWin := 0 } }
    if lim != 0 && lim ≤ h.pm.undecWin then h'.setBits Reg.PM_INT_STATUS 16 else h'

/-- FATAL_ERROR: a class 5 error that the hardware reports: table parity, an uncorrectable link error, or a PCIe uncorrectable error
(R448, R455). DEDUCED (log entry 52). -/
def execFatalError (code unit detail : Nat) (s : State) : Host.Outcome State Fault Refusal :=
  s.onHost fun e h => if code ∈ [0x0502, 0x0503, 0x0505] then h.fatal e code (unit % 256) (detail % 2 ^ 32) else h

/-! ### Voltage interface (R443, R501, R502) -/

/-- Target of a compute die's rail for a floor: VFLOOR with the margin, or VFLOOR when the margin is negative; 650 to 900 mV. -/
def HostSide.avsTarget (h : HostSide) (floor : Nat) : Nat :=
  let m := h.get Reg.PM_VOLT_MARGIN
  max 650 (min 900 (if 128 ≤ m then floor else floor + m))

/-- Does a rail's voltage lie below its die's VFLOOR − 30 mV (R443)? -/
def HostSide.railLow (h : HostSide) : Bool :=
  decide (h.railVolt 0 + 30 < h.get Reg.PM_VFLOOR.CD0) || decide (h.railVolt 1 + 30 < h.get Reg.PM_VFLOOR.CD1)

/-- AVS_VOLTAGE_WRITE: in this 100 µs period die `n` needs VFLOOR `floor` mV; after self-test a new voltage at most 10 mV away is written
to its rail. With `ok` false the frame failed, and the last committed voltage stays (R502). An under-voltage ends once no rail is low.
DEDUCED (log entry 52). -/
def execAvsVoltageWrite (n floor : Nat) (ok : Bool) (s : State) : Host.Outcome State Fault Refusal :=
  s.onHost fun _ h =>
    if 2 ≤ n || h.get (Reg.DET_UNITMAP 0) = 0 then h
    else
      let h := h.set (if n = 0 then Reg.PM_VFLOOR.CD0 else Reg.PM_VFLOOR.CD1) floor
      let cur := h.railVolt n
      let tgt := h.avsTarget (floor % 4096)
      let new := if cur < tgt then min tgt (cur + 10) else max tgt (cur - 10)
      if !ok then h
      else
        let h := { h.set (if n = 0 then Reg.PM_VOLT_NOW.CD0 else Reg.PM_VOLT_NOW.CD1) new with
          pm := { h.pm with avsReq := h.pm.avsReq.put n new } }
        { h with pm := { h.pm with underVolt := h.pm.underVolt && h.railLow } }

/-- AVS_CURRENT_READ: a read frame for rail `n` is answered with `v` (R501): `frame` 0 Current read, in units of 10 mA; 1 Voltage read, in
mV; 2 Status read. A failed frame leaves the last reading (R502). DEDUCED (log entry 52). -/
def execAvsCurrentRead (n frame v : Nat) (ok : Bool) (s : State) : Host.Outcome State Fault Refusal :=
  s.onHost fun _ h =>
    if 2 ≤ n || !ok then h
    else match frame with
      | 0 => { h with pm := { h.pm with avsCur := h.pm.avsCur.put n v } }
      | 1 => { h with pm := { h.pm with avsVolt := h.pm.avsVolt.put n v } }
      | 2 => { h with pm := { h.pm with avsStatus := h.pm.avsStatus.put n v } }
      | _ => h

end Sys2Proof.Machine
end

