-- ==== Sys2Proof/Machine/Boot.lean ====
section
/-! DEFINITION. Host-side resets, start-up, the boot ROM's choice of an image, the clock monitor (R422 to R429, R433, R466 to R472). -/

namespace Sys2Proof.Machine
open Sys2Proof

/-! ### Host-side resets (R422 to R425) -/

/-- The host side enters reset with a cause of R423. What R424 leaves standing: HIST and the count of lost clocks, table and dictionary
memory (undefined after cause 1), the flash, and the PCIe link under causes 4 to 7; the TAP keeps its instruction, which only causes 1
to 3 reset (R430); host memory is the host's own.
DESIGN CHOICE (log entry 7); DEDUCED (log entry 57). -/
def HostSide.hostReset (h : HostSide) (cause : Nat) : HostSide :=
  let cold := cause == 1
  let mem : Mgmt := { flash := h.mgmt.flash, partFail := h.mgmt.partFail }
  let dbg : Debug := if cause ≤ 3 then {} else { ir := h.dbg.ir, scan := h.dbg.scan }
  let n : HostSide :=
    { mem := h.mem, noRead := h.noRead, fresh := h.fresh, powerOns := if cold then h.powerOns + 1 else h.powerOns, boots := h.boots + 1, down := true,
      pcieLink := if cause ≤ 3 then .off else h.pcieLink, noPower := cold || h.noPower,
      pipes := if cold then [] else h.pipes.map fun p => (p.1, ({ tbl := p.2.tbl } : Pipe)),
      hdw := { dict := if cold then [] else h.hdw.dict }, mgmt := mem, dbg := dbg,
      -- a rail holds its last voltage (R503)
      pm := { avsReq := if cold then [] else h.pm.avsReq } }
  let lol := if cold then 0 else h.get Reg.CLK_LOL_COUNT
  let hist := if cold then 0 else h.get Reg.CLK_RST_CAUSE.HIST
  let n := (n.set Reg.CLK_RST_CAUSE.LAST cause).set Reg.CLK_RST_CAUSE.HIST (hist ||| 2 ^ (cause - 1))
  (n.set Reg.CLK_LOL_COUNT lol).inc Reg.CLK_LOL_COUNT (if cause = 5 then 1 else 0)

/-- Did the reset in force meet another cause in this cycle (R425)? DEDUCED (log entry 57). -/
def State.sameReset (s : State) : Bool := s.host.down && s.host.pm.resetAt == some s.tick.toNat

/-- A reset cause arises: it acts whatever the host side is doing, in reset too. Of several in one cycle LAST records the lowest and
HIST all (R425). DEDUCED (log entry 57). -/
def State.resetBy (s : State) (cause : Nat) : Host.Outcome State Fault Refusal :=
  let old := s.host.get Reg.CLK_RST_CAUSE.LAST
  let h := s.host.hostReset cause
  let h := if s.sameReset then
      (h.set Reg.CLK_RST_CAUSE.LAST (min cause old)).set Reg.CLK_RST_CAUSE.HIST (h.get Reg.CLK_RST_CAUSE.HIST ||| 2 ^ (old - 1))
    else h
  let pm := { h.pm with resetAt := some s.tick.toNat, resetReady := if s.sameReset then s.host.pm.resetReady else s.host.ready,
                        resetWdog := if s.sameReset then s.host.pm.resetWdog else s.host.on Reg.CLK_WDOG.EN }
  .next { s with host := { h with pm := pm } }

/-- Was the function up when this cycle began, so that an FLR or a register write can be one of its causes (R425)? -/
def State.wasReady (s : State) : Bool := if s.host.down then s.sameReset && s.host.pm.resetReady else s.host.ready
/-- Did the management watchdog run when this cycle began? -/
def State.wasWatched (s : State) : Bool := if s.host.down then s.sameReset && s.host.pm.resetWdog else s.host.on Reg.CLK_WDOG.EN

/-- Size of the flash (R458). -/
def flashSize : Nat := 0x8000000

/-- RESET_POWER: a host-side supply lies below its threshold (R423). While the board is off its flash may be programmed from outside
(R468): `prog` lists what is programmed, by address. -/
def execResetPower (prog : List (Nat × List Byte)) (s : State) : Host.Outcome State Fault Refusal :=
  let f := prog.foldl (fun f x => if x.1 + x.2.length ≤ flashSize then fWrite f x.1 x.2 else f) s.host.mgmt.flash
  ({ s with host := s.host.setFlash f }).resetBy 1

/-- RESET_PIN: SYS_RST_N low (R423). -/
def execResetPin (s : State) : Host.Outcome State Fault Refusal := s.resetBy 2

/-- RESET_PERST: PCIE_PERST_N low (R423). -/
def execResetPerst (s : State) : Host.Outcome State Fault Refusal := s.resetBy 3

/-- FLR: a Function Level Reset, which the function answers only when it is up (R320, R425). It may fall in the cycle of another cause.
-/
def execFlr (s : State) : Host.Outcome State Fault Refusal :=
  if s.wasReady then s.resetBy 4 else .next s

/-- ROOT_CLOCK_LOST (R422): counted in CLK_LOL_COUNT. -/
def execRootClockLost (s : State) : Host.Outcome State Fault Refusal := s.resetBy 5

/-- WDOG_EXPIRE: the management watchdog, while it runs (R423). -/
def execWdogExpire (s : State) : Host.Outcome State Fault Refusal :=
  if s.wasWatched then s.resetBy 6 else .next s

/-- CLK_RST_CMD: FULL with the key, once READY (R423, R433). -/
def execClkRstCmd (v : Word) (s : State) : Host.Outcome State Fault Refusal :=
  if s.wasReady && v.getLsbD 0 && v.toNat / 65536 == 0x4B37 then s.resetBy 7 else .next s

/-! ### Start-up (R427, R428) -/

/-- The PLLs have locked (R427 step 1). -/
def HostSide.lockPlls (h : HostSide) (v : Variant) : HostSide :=
  ((h.set Reg.CLK_STATUS.HBM0_LOCK 1).set Reg.CLK_STATUS.HBM1_LOCK (b2n (v.stacks == 2))).set Reg.CLK_STATUS.ETH_LOCK 1

/-- HOST_RESET_RELEASE: the last cause has ended; at a realignment boundary the dies leave reset and the tick counter becomes 0 (R427
step 2, R298); a PCIe link that dropped is in Detect (R431), and the boot ROM reconstructs the root secret (R469). DESIGN CHOICE (log
entry 7). -/
def execHostResetRelease (s : State) : Host.Outcome State Fault Refusal :=
  .next (if !s.host.down then s else
    { s with tick := 0, host := { (s.host.lockPlls s.variant).readPuf with
        down := false, noPower := false, pcieLink := if s.host.pcieLink = .off then .detect else s.host.pcieLink } })

/-- A site that fails self-test after a reset is fenced with cause 1 before any mapping exists (R211, R428). -/
def HostSide.bootFence (h : HostSide) (e : Env) (site : Nat) : HostSide :=
  if 72 ≤ site || site ∈ h.insp.fenced then h
  else
    let h := { h with insp := { h.insp with fenced := (h.insp.fenced.filter (· < site)) ++ site :: h.insp.fenced.filter (site < ·) } }
    let h := ((h.set (Reg.CORE_STATUS.STATE site) 6).set Reg.DET_FENCE_LAST.SITE site).set Reg.DET_FENCE_LAST.CAUSE 1
    let h := (h.setBits Reg.DET_INT_STATUS 1).log e 0x0301 site 1 0 0
    h.set Reg.DET_CLU_STATE.NOSPARE (h.get Reg.DET_CLU_STATE.NOSPARE ||| 2 ^ (site / 9))

/-- Sites that self-test finds bad: those that fail, and all nine of a cluster whose line store fails (R428). -/
def badSites (failSites failLs : List Nat) : List Nat :=
  (List.range 72).filter fun s => s ∈ failSites || s / 9 ∈ failLs

/-- The unit map after a reset: MOVED_FROM 15 and HALTED 0 in every cluster, healthy sites numbered by R19; a cluster with 7 healthy
sites is degraded, and one with 7 or fewer sets DEGRADED of DET_INT_STATUS (R215, R428). DESIGN CHOICE (log entry 3). -/
def HostSide.formMap (h : HostSide) : HostSide :=
  forN 8 (fun k h =>
    let h := (h.remap k).showMap k
    let h := if h.healthy k = 7 then h.set Reg.DET_CLU_STATE.DEGRADED (h.get Reg.DET_CLU_STATE.DEGRADED ||| 2 ^ k) else h
    if h.healthy k < 8 then h.setBits Reg.DET_INT_STATUS 2 else h) h

/-- Is self-test done and the unit map formed? -/
def HostSide.tested (h : HostSide) : Bool := h.get (Reg.DET_UNITMAP 0) != 0

/-- What self-test leaves in a site that passes: IDLE, tokens 0, banks untyped and 0, an empty call stack, CORE_FLAGS clear (R140). -/
def HostSide.testedCore (h : HostSide) (site : Nat) : HostSide :=
  if h.coreState site = 6 then h
  else
    let h := h.clearSite site
    let h := h.setCore site { h.core site with bank0 := {}, bank1 := {} }
    let tok := 0x400020 + site * 0x2000
    let h := { h with regs := (h.regs.dropRange (siteFlags site) (siteFlags site + 4)).dropRange tok (tok + 0x20) }
    h.set (Reg.CORE_STATUS.STATE site) 0

/-- SELF_TEST_DONE: `failSites` and the clusters' line stores `failLs` failed. After a reset it forms the unit map (R427 step 4, R428);
after PM_CMD.RESUME the dies are on again, every cluster ACTIVE, SRAMs zero, and sites that fail are fenced as in service (R446). -/
def execSelfTestDone (failSites failLs : List Nat) (s : State) : Host.Outcome State Fault Refusal :=
  s.onHost fun e h =>
    if h.pm.resuming then
      let due := (List.range 8).filter fun k => h.pm.writes.any fun x => x.1 == k
      let h := { h with pm := { h.pm with dieOff := false, resuming := false, waking := due } }
      let h := forN 8 (fun k h => h.setCluPower k 0) (forN 72 (fun x h => h.testedCore x) h.zeroSram)
      (badSites failSites failLs).foldl (fun h x => h.fence e x 1) h
    else if h.tested then h
    else
      let h := ((badSites failSites failLs).foldl (fun h x => h.bootFence e x) (h.lockPlls e.variant)).formMap
      if h.get Reg.CLK_BOOT_STAGE = 1 then h.set Reg.CLK_BOOT_STAGE 2 else h

/-! ### The boot ROM (R466 to R472) -/

/-- Why the image of region `n` fails R466: a code of MGMT_BOOT_FAIL, 0 when it passes. -/
def HostSide.romCheck (h : HostSide) (v : Variant) (n : Nat) : Nat :=
  let m := imageHeader h.mgmt.flash n
  let c := manFail v (h.get Reg.DEV_REV.REV) (h.get Reg.MGMT_FLOOR) m
  if c != 0 then c
  else match (manParts m).find? (fun p => p.1 == 1) with
    | some p => if partMatches h.mgmt.flash n p then 0 else 5
    | none => 1

/-- Shows why a region failed at this boot. -/
def HostSide.showFail (h : HostSide) (n code : Nat) : HostSide :=
  h.set (if n = 0 then Reg.MGMT_BOOT_FAIL.A else if n = 1 then Reg.MGMT_BOOT_FAIL.B else Reg.MGMT_BOOT_FAIL.REC) code

/-- The boot after a revert shows it (R467). -/
def HostSide.showReverted (h : HostSide) : HostSide :=
  (h.set Reg.MGMT_STATUS.REVERTED 1).setBits Reg.MGMT_INT_STATUS 1

/-- Tries region `n` as the next candidate, with the slot state `st` that R466 and R467 judge it by; 0: none. Answers whether it
passes; the control block moves as R467 and R476 say. DEDUCED (log entry 58). -/
def HostSide.romTry (h : HostSide) (v : Variant) (n st : Nat) : HostSide × Bool :=
  let c := h.ctl
  let trial := st = 3 || st = 4
  let code :=
    if trial && 3 ≤ c.boots then 6
    else if st = 4 && h.get Reg.CLK_RST_CAUSE.LAST = 6 then 7
    else h.romCheck v n
  if code = 0 then (if trial then h.putCtl { c.setState n 4 with boots := c.boots + 1 } else h, true)
  else
    let h := h.showFail n code
    (if trial then (h.putCtl (c.fail n)).showReverted
     else if st = 5 && c.active = n then h.putCtl (c.setState n 6) else h, false)

/-- The ROM tries the candidates in the order of R466; answers the region that passes. DESIGN CHOICE (log entry 4). -/
def HostSide.romSelect (h : HostSide) (v : Variant) : HostSide × Option Nat :=
  let next (x : HostSide × Option Nat) (n st : Nat) : HostSide × Option Nat :=
    match x with
    | (h, some r) => (h, some r)
    | (h, none) => match h.romTry v n st with | (g, ok) => (g, if ok then some n else none)
  match ctlFind h.mgmt.flash with
  | none => next (next (next (h.set Reg.MGMT_STATUS.NO_CTRL_BLOCK 1, none) 0 0) 1 0) 2 0
  | some (_, c) =>
    let a := c.active
    let st := c.state a
    let x := if st ∈ [3, 4, 5] then next (h, none) a st else (h, none)
    let x := if c.state c.idle = 5 then next x c.idle 5 else x
    next x 2 0

/-- The device ID is shown; when the root secret could not be reconstructed, or with a key that the certificate does not name, identity is
unavailable (R470, R472). -/
def HostSide.identity (h : HostSide) : HostSide :=
  if h.identified then
    forN 8 (fun k h => h.set (Reg.MGMT_DEVICE_ID k) (leNat (((deviceId h.root).drop (4 * k)).take 4))) (h.set Reg.MGMT_STATUS.IDENT_OK 1)
  else h.setBits Reg.MGMT_INT_STATUS 2

/-- Shows the floor in force; a lost one is flagged (R461). -/
def HostSide.bootFloor (h : HostSide) (v : Variant) : HostSide :=
  let h := if (floorFind h.mgmt.root h.mgmt.flash).isSome then h else (h.set Reg.MGMT_STATUS.FLOOR_LOST 1).setBits Reg.MGMT_INT_STATUS 4
  h.set Reg.MGMT_FLOOR (floorInForce h.mgmt.root v (h.get Reg.DEV_REV.REV) h.mgmt.flash)

/-- Shows a slot that the last boot's firmware gave up for another part (R466, R467). DEDUCED (log entry 40). -/
def HostSide.showPartFail (h : HostSide) : HostSide :=
  match h.mgmt.partFail with
  | none => h
  | some (n, trial) =>
    let h := { h.showFail n 8 with mgmt := { h.mgmt with partFail := none } }
    if trial then h.showReverted else h

/-- The image of region `n` runs: its source, version and manifest digest (R487). -/
def HostSide.runImage (h : HostSide) (n : Nat) : HostSide :=
  let m := imageHeader h.mgmt.flash n
  let dig := manDigest m
  let h := { h.set Reg.MGMT_STATUS.BOOT_SRC n with mgmt := { h.mgmt with running := some n } }
  let h := forN 4 (fun k h => h.set (Reg.MGMT_VERSION k) (manU m (24 + 4 * k) 4)) h
  let h := forN 8 (fun k h => h.set (Reg.MGMT_MANIFEST_DIGEST k) (leNat ((dig.drop (4 * k)).take 4))) h
  h.set Reg.CLK_BOOT_STAGE 3

/-- BOOT_CANDIDATE_SELECT: the boot ROM draws BOOT_ID (R229), derives the identity, takes the floor, and starts the first candidate
that passes; with none, STAGE is 15 (R466 to R472). DESIGN CHOICE (log entry 4); DEDUCED (log entry 58). -/
def execBootCandidateSelect (s : State) : Host.Outcome State Fault Refusal :=
  s.onHost fun e h =>
    if h.mgmt.running.isSome || !(h.get Reg.CLK_BOOT_STAGE ∈ [1, 2]) then h
    else
      let h := h.set2 Reg.DET_BOOT_ID_LO Reg.DET_BOOT_ID_HI (Config.bootId h.boots).toNat
      let h := ((h.identity.bootFloor e.variant).showPartFail).showSlots
      -- the PCIe link has left Detect (R427 step 6)
      let h := if h.pcieLink = .detect then { h with pcieLink := .training } else h
      match h.romSelect e.variant with
      | (h, some n) => (h.runImage n).showSlots
      | (h, none) => h.showSlots.set Reg.CLK_BOOT_STAGE 15

/-! ### The management firmware (R427 steps 7 to 9) -/

/-- The words a privileged set writes to the field side: offset and value (R479, R480). -/
def settingWords (id : Nat) (data : Option (List Byte)) : List (Nat × Word) :=
  let addrs : List Nat := if id = 1
    then (List.range 2).flatMap fun ch => (List.range 5).map fun i => (Reg.SC_OFS.OFS_S ch).addr + 4 * i
    else (List.range 8).map fun g => (Reg.WG_LEAD g).addr
  addrs.zipIdx.map fun x =>
    (x.1 - 0xE0000, match data with
      | some b => BitVec.ofNat 32 (leNat ((b.drop (4 * x.2)).take 4))
      | none => resetWord x.1)

/-- Restores sets 1 and 2 on the field side; a set without a record takes its reset values (R479, R481). -/
def FieldDie.applySettings (d : FieldDie) (h : HostSide) : FieldDie :=
  [1, 2].foldl (fun d id => (settingWords id ((h.settingOf id 0).map Setting.asFmt1)).foldl (fun d w => (d.cfgWrite w.1 w.2).1) d) d

/-- At a TRIAL boot a set without a record of the firmware's own FMT is converted from the first record of another FMT that it can read:
a TRIAL record beside the original, if the area has room (R481). DESIGN CHOICE (log entry 54). -/
def HostSide.convert (h : HostSide) (id ctx : Nat) : HostSide :=
  match h.settingOf id ctx, h.settings.find? (fun x => x.id == id && x.ctx == ctx && Config.settingReads (leNat h.manifestDigest) id x.fmt) with
  | none, some x =>
    let fmt := h.ownFmt id
    let l := h.settings ++ [{ id, ctx, fmt, trial := true, data := ofFmt1 id fmt x.asFmt1 }]
    if settingsFull l then h else h.setSettings l
  | _, _ => h

/-- The settings rules of a boot: a CONFIRMED slot erases TRIAL records; the first boot of a TRIAL slot erases host records; a TRIAL boot
converts; sets without a record are shown (R479, R481). DEDUCED (log entry 58). -/
def HostSide.bootSettings (h : HostSide) : HostSide :=
  let l := h.settings
  let h := if h.runningState = 5 then h.setSettings (l.filter fun x => !x.trial)
    else if h.inTrial && h.ctl.boots = 1 then h.setSettings (l.filter fun x => !hostId x.id) else h
  let flats := (h.settings.filter fun x => x.id == 3).map (·.ctx)
  let h := if h.inTrial then flats.foldl (fun h x => h.convert 3 x) ((h.convert 1 0).convert 2 0) else h
  let lost (id : Nat) : Nat := b2n (!(if id = 3 then flats.any fun x => (h.settingOf 3 x).isSome else (h.settingOf id 0).isSome))
  h.set Reg.MGMT_STATUS.SET_DEFAULTED (lost 1 + 2 * lost 2 + 4 * lost 3)

/-- Loads the Headwater tables part into bank 0, commits it and enables Headwater (R398, R464). -/
def HostSide.installTables (h : HostSide) (bs : List Byte) : HostSide :=
  let d := bs.zipIdx.foldl (fun (m : SMap Byte) x => m.put x.2 x.1) h.hdw.dict
  let h := { h with hdw := { h.hdw with dict := d } }
  let h := (h.set (Reg.HDW_POOL_LEN 0) (bs.length - 0x40000)).dictCommit 0
  h.set Reg.HDW_CTRL.EN 1

/-- The field die after the management processor has seen to its firmware: kept when it runs the manifest's image, else restarted with
it; none: it stays in its ROM (R429). -/
def FieldDie.withFirmware (d : FieldDie) (image dig : List Byte) : Option FieldDie :=
  let runs := d.ctl == 2 && ((List.range 8).flatMap fun k => toLE 4 (d.get (Reg.FLD_LOAD_DIGEST k))) == dig
  if runs then some d
  else if 3 ≤ d.loadFails then none
  else
    let n : FieldDie := { ctl := 2, image, loadFails := d.loadFails }
    some (forN 8 (fun k d => d.set (Reg.FLD_LOAD_DIGEST k) (leNat ((dig.drop (4 * k)).take 4))) (n.set Reg.FLD_LOAD_LEN image.length))

/-- A part other than the management firmware does not match: its candidate fails. A slot is BAD, ACTIVE moves, and the host side resets
with cause 7; of the recovery image, boot fails (R466, R468). -/
def HostSide.partBad (h : HostSide) (n : Nat) : HostSide :=
  if n < 2 then
    let trial := h.ctl.state n == 4
    let h := h.putCtl (h.ctl.fail n)
    ({ h with mgmt := { h.mgmt with partFail := some (n, trial) } }).hostReset 7
  else (h.showFail 2 8).set Reg.CLK_BOOT_STAGE 15

/-- The firmware's own work on the host side: the first log entry (R449), settings, Headwater's tables, the watchdog, whose timeout the
rules leave to the firmware (R433). DEDUCED (log entry 25). -/
def HostSide.firmwareUp (h : HostSide) (e : Env) (n : Nat) : HostSide :=
  let last := h.get Reg.CLK_RST_CAUSE.LAST
  let h := (h.log e (if last = 6 then 0x0402 else 0) 0 last 0 0).bootSettings
  let h := match (manParts (imageHeader h.mgmt.flash n)).find? (fun p => p.1 == 5) with
    | some p => h.installTables (fRead h.mgmt.flash (slotBase n + p.2.1) p.2.2.1)
    | none => h
  let (h, t) := h.free 0x433
  ((h.set Reg.CLK_WDOG.TO_MS t).set Reg.CLK_WDOG.EN 1).set Reg.CLK_BOOT_STAGE 6

/-- The management firmware verifies every other part and installs them: STAGE 4 (R427 step 7, R466). -/
def HostSide.installParts (h : HostSide) (n : Nat) : HostSide :=
  match partFailing h.mgmt.flash n with
  | some _ => h.partBad n
  | none => h.set Reg.CLK_BOOT_STAGE 4

/-- The field firmware is loaded when it is needed and the settings are restored: STAGE 5 while a field die in reset is awaited, 6 once it
is done; a field die that stays in its ROM ends the boot (R427 steps 8 and 9, R429). -/
def State.loadField (s : State) (n : Nat) : State :=
  let h := s.host
  match (manParts (imageHeader h.mgmt.flash n)).find? (fun p => p.1 == 3) with
  | none => s
  | some p =>
    if s.field.ctl = 0 then { s with host := h.set Reg.CLK_BOOT_STAGE 5 }
    else match s.field.withFirmware (fRead h.mgmt.flash (slotBase n + p.2.1) p.2.2.1) p.2.2.2 with
      | none => { s with host := h.set Reg.CLK_BOOT_STAGE 15 }
      | some d =>
        let h := h.firmwareUp s.env n
        { s with host := h.settle, field := d.applySettings h }

/-- FIRMWARE_STARTED: the management firmware verifies every other part and installs them, and then, at the next such event, loads the
field firmware when it is needed and restores the settings (R427 steps 7 to 9, R466). DESIGN CHOICE (log entry 10); DEDUCED (log
entry 58). -/
def execFirmwareStarted (s : State) : Host.Outcome State Fault Refusal :=
  .next (match s.host.mgmt.running with
    | none => s
    | some n =>
      if s.host.down then s
      else match s.host.get Reg.CLK_BOOT_STAGE with
        | 3 => { s with host := s.host.installParts n }
        | 4 | 5 => s.loadField n
        | _ => s)

/-- DEVICE_READY: with the firmware up, the Ifepen ports transmitting, self-test done, HBM trained or failed and no commit of bank 0
running, READY sets, CLK_READY_TICK latches, and the PCIe link is up (R427 step 10). DEDUCED (log entry 58). -/
def execDeviceReady (s : State) : Host.Outcome State Fault Refusal :=
  s.onHost fun e h =>
    let hbm := h.on Reg.MEM_STATUS.INIT_DONE || h.on Reg.MEM_STATUS.FAIL0 || h.on Reg.MEM_STATUS.FAIL1
    let ports := (List.range e.variant.ports).all fun p => (h.port p).txOn
    if h.get Reg.CLK_BOOT_STAGE != 6 || !h.tested || !hbm || !ports || h.hdw.building.isSome then h
    else
      ((({ h with pcieLink := .up }).set Reg.DEV_STATUS.READY 1).set2 Reg.CLK_READY_TICK_LO Reg.CLK_READY_TICK_HI e.tick).set Reg.CLK_BOOT_STAGE 7

/-! ### Host-side pins (R431) -/

/-- The host-side pins of R431; `tdo`: while the TAP is in a shift state. -/
inductive HostPin where
  | pcieLanes | ethTx (port : Nat) | timePps | flashClk | flashBus | flashRst | tdo (shift : Bool)
deriving DecidableEq, Repr

/-- What a host-side pin does: unpowered, in a host-side reset, released before READY, and running (R431). FLASH_RST_N is high
10 µs after the release, which the model does not show. Under EXTEST they show the boundary-scan cells (R430). DEDUCED (log entry
65). -/
def HostSide.hostPin (h : HostSide) (p : HostPin) : PinLevel :=
  if h.unpowered then .highZ
  else if h.dbg.ir = 0 then .scanned
  else match p with
    | .pcieLanes => match h.pcieLink with
      | .off => .idle
      | .detect => .detect
      | .training => .training
      | .up => .active
    | .ethTx n => if h.down || !h.ready || !h.on (Reg.ETH_CTRL.EN n) then .idle else .active
    | .timePps => if h.down || !h.ready || !h.pps then .low else .high
    | .flashClk => if h.down then .low else .active
    | .flashBus => if h.down then .highZ else .active
    | .flashRst => if h.down then .low else .high
    | .tdo shift => if h.down || !shift then .highZ else .active

/-! ### The clock monitor (R420, R433) -/

/-- CLK_MON_CTRL.GO: a measurement of domain SEL starts, or starts afresh (R433). -/
def execClkMonGo (v : Word) (s : State) : Host.Outcome State Fault Refusal :=
  s.onBar fun _ h =>
    { (h.set Reg.CLK_MON_CTRL.SEL v.toNat).set Reg.CLK_MON_STATUS.DONE 0 with dbg := { h.dbg with mon := true } }

/-- Cycles of a domain in 1,000 SLOW cycles, 40 µs (R419, R420). Domains with a clock of their own count `n`. DEDUCED (log entry 58). -/
def monCount (v : Variant) (sel n : Nat) : Nat :=
  match sel with
  | 0 => 60000
  | 1 => 48000
  | 2 => 40000
  | 3 => 20000
  | 4 => 10000
  | 5 => 1000
  | 6 => 32000
  | 7 => if v.stacks = 2 then 32000 else 0
  | 8 | 9 => n
  | _ => 0

/-- CLK_MON_DONE: 1,000 SLOW cycles have passed (R433); `n` cycles of an external domain were counted. -/
def execClkMonDone (n : Nat) (s : State) : Host.Outcome State Fault Refusal :=
  s.onHost fun e h =>
    if !h.dbg.mon then h
    else { (h.set Reg.CLK_MON_COUNT (monCount e.variant (h.get Reg.CLK_MON_CTRL.SEL) n)).set Reg.CLK_MON_STATUS.DONE 1 with
      dbg := { h.dbg with mon := false } }

end Sys2Proof.Machine
end

