-- ==== Sys2Proof/Machine/Chain.lean ====
section
/-! DEFINITION. Chain time over Ifepen links (R310 to R313, R318). -/

namespace Sys2Proof.Machine
open Sys2Proof

/-! ### TIME flits (R310): payload bits, flit bit n being payload bit n − 32 -/

def timeHop (f : Nat) : Nat := flitPayload f / 2 ^ 4 % 16
def timeTseq (f : Nat) : Nat := flitPayload f / 2 ^ 8 % 2 ^ 16
/-- T_NS and T_FRAC of a flit, truncated to 2^-16 ns (R311). -/
def timeT (f : Nat) : Nat := flitPayload f / 2 ^ 32 % 2 ^ 64 * 2 ^ 16 + flitPayload f / 2 ^ 96 % 2 ^ 32 / 2 ^ 16

/-- TB1 at the present tick, truncated to 2^-16 ns (R311). -/
def HostSide.tb1Now (h : HostSide) (e : Env) : Nat := h.tbAt 1 e.tick / 2 ^ 16

/-- Hops of this device from the master: one more than the last SYNC it accepted (R310). -/
def HostSide.ownHop (h : HostSide) : Nat := if h.get Reg.TB1_CTRL.ROLE = 2 then h.get Reg.TB1_STATUS.HOP else 0

/-- Sends a TIME flit on a port with the next TSEQ of its KIND, or with the given one, and the time `t` in units of 2^-32 ns. T_NS and
T_FRAC of a SYNC and a DELAY_REQ are written as it leaves. -/
def HostSide.sendTime (h : HostSide) (e : Env) (p kind : Nat) (tseq : Option Nat) (t : Nat) : HostSide :=
  let key := p * 4 + kind
  let n := SMap.get (fun _ => 0) h.chain.seqs key
  let ts := tseq.getD n
  let h := if tseq.isSome then h else { h with chain := { h.chain with seqs := h.chain.seqs.put key ((n + 1) % 65536) } }
  let per := if kind = 0 then h.get Reg.TB1_CTRL.PERIOD else 0
  h.presentFlit e p 6 2 (kind + h.ownHop * 2 ^ 4 + ts * 2 ^ 8 + t / 2 ^ 32 % 2 ^ 64 * 2 ^ 32 + t % 2 ^ 32 * 2 ^ 96 + per * 2 ^ 128)

/-- Ports on which this device sends SYNC and answers DELAY_REQ. -/
def HostSide.chainPort (h : HostSide) (p : Nat) : Bool := bit (h.get Reg.TB1_CTRL.PORTS) p

/-- TB1_SYNC_SEND: a master, or a slave that has accepted a SYNC, sends SYNC on its UP ports (R310). DEDUCED (log entry 31). -/
def execTb1SyncSend (s : State) : Host.Outcome State Fault Refusal :=
  s.onHost fun e h =>
    let role := h.get Reg.TB1_CTRL.ROLE
    if role = 0 || (role = 2 && !h.chain.synced) then h
    else
      forN e.variant.ports (fun p h => if h.chainPort p && h.portState p == 3 then h.sendTime e p 0 none 0 else h) h

/-- TB1_SYNC_RX: the oldest SYNC of a port. A slave accepts it on UPPORT, unless its HOP is 15, and sends a DELAY_REQ (R310, R311). -/
def execTb1SyncRx (p : Nat) (s : State) : Host.Outcome State Fault Refusal :=
  s.onHost fun e h =>
    match h.takeFlit p (fun f => flitType f == 6 && (timeKind (flitPayload f) == 0 || timeKind (flitPayload f) == 3)) with
    | none => h
    | some (f, h) =>
      if h.get Reg.TB1_CTRL.ROLE != 2 || h.get Reg.TB1_CTRL.UPPORT != p || timeHop f = 15 || timeKind (flitPayload f) != 0 then h
      else
        let hold := h.on Reg.TB1_STATUS.HOLDOVER
        let h := (h.set Reg.TB1_STATUS.HOLDOVER 0).set Reg.TB1_STATUS.HOP (timeHop f + 1)
        let n := SMap.get (fun _ => 0) h.chain.seqs (p * 4 + 1)
        let h := { h with chain := { h.chain with synced := true, t1 := timeT f, t2 := h.tb1Now e, req := some n,
                                                  fresh := h.chain.fresh || hold } }
        h.sendTime e p 1 none 0

/-- TB1_DELAY_REQ_RX: a master answers every DELAY_REQ, a slave those on PORTS (R310). -/
def execTb1DelayReqRx (p : Nat) (s : State) : Host.Outcome State Fault Refusal :=
  s.onHost fun e h =>
    match h.takeFlit p (fun f => flitType f == 6 && timeKind (flitPayload f) == 1) with
    | none => h
    | some (f, h) =>
      let role := h.get Reg.TB1_CTRL.ROLE
      if role = 1 || (role = 2 && h.chainPort p) then h.sendTime e p 2 (some (timeTseq f)) (h.tbAt 1 e.tick) else h

/-- A difference of two times, signed 64-bit (R311). -/
def timeDiff (a b : Nat) : Int := sext 64 (wrap 64 ((a : Int) - b))

/-- The servo acts on an offset (R312). DEDUCED (log entry 31). -/
def HostSide.servo (h : HostSide) (e : Env) (off : Int) : HostSide :=
  let c := h.chain
  if (h.get Reg.TB1_STEP_NS : Int) * 2 ^ 16 < off.natAbs || !c.stepped then
    -- a STEP of R300, which fires the units it carries TB1 past (R303)
    let h := h.crossed (h.tbTo e 1 (wrap 96 ((h.tbAt 1 e.tick : Int) - off * 2 ^ 16))) e 1
    let h := { h with chain := { c with integ := 0, stepped := true, fresh := true, good := 0 } }
    ((h.set Reg.TB1_STATUS.STEPPED 1).set Reg.TB1_STATUS.LOCKED 0).setBits Reg.TIME_INT_STATUS 512
  else
    let integ := c.integ + off * (h.get Reg.TB1_KI : Int) / 2 ^ 24
    let rate := -(off * (h.get Reg.TB1_KP : Int) / 2 ^ 24 + integ)
    let rate := max (-0x400000) (min 0x400000 rate)
    let h := h.rateTo e 1 (wrap 32 rate)
    let good := if off.natAbs ≤ 8 * 65536 then min 16 (c.good + 1) else 0
    let h := { h with chain := { c with integ := integ, good := good } }
    if good = 16 && !h.on Reg.TB1_STATUS.LOCKED then (h.set Reg.TB1_STATUS.LOCKED 1).setBits Reg.TIME_INT_STATUS 2048 else h

/-- TB1_DELAY_RESP_RX: a slave forms delay and offset and disciplines TB1 (R311, R312). ASYM is in units of 2^-8 ns. -/
def execTb1DelayRespRx (p : Nat) (s : State) : Host.Outcome State Fault Refusal :=
  s.onHost fun e h =>
    match h.takeFlit p (fun f => flitType f == 6 && timeKind (flitPayload f) == 2) with
    | none => h
    | some (f, h) =>
      let c := h.chain
      if h.get Reg.TB1_CTRL.ROLE != 2 || h.get Reg.TB1_CTRL.UPPORT != p || c.req != some (timeTseq f) then h
      else
        let raw := sext 64 (wrap 64 (timeDiff c.t2 c.t1 + timeDiff (timeT f) c.t3)) / 2
        let dly := if c.fresh then raw else c.dly + (raw - c.dly) / 16
        let off := sext 64 (wrap 64 (timeDiff c.t2 c.t1 - dly - sext 32 (h.get (Reg.TB1_ASYM p)) * 2 ^ 8))
        let h := { h with chain := { c with dly := dly, fresh := false, req := none } }
        let h := (h.set Reg.TB1_OFFSET (wrap 32 (off / 2 ^ 8))).set Reg.TB1_DELAY (wrap 32 (dly / 2 ^ 8))
        h.servo e off

/-- TB1_HOLDOVER: no SYNC for three periods, or UPPORT has left UP. The rate and integ stay until SYNC returns, so the exchange in
progress is given up (R313). -/
def execTb1Holdover (s : State) : Host.Outcome State Fault Refusal :=
  s.onHost fun _ h =>
    if h.get Reg.TB1_CTRL.ROLE != 2 || h.on Reg.TB1_STATUS.HOLDOVER then h
    else ({ h with chain := { h.chain with req := none } }.set Reg.TB1_STATUS.HOLDOVER 1).setBits Reg.TIME_INT_STATUS 1024

/-- A write of TB1_CTRL (R318): ROLE 3 and a PERIOD below 10 are refused; a new role starts chain time afresh. DEDUCED (log entry 31). -/
def HostSide.tb1Ctrl (h : HostSide) (v : Word) : HostSide :=
  let role := v.toNat % 4
  if role = 3 || v.toNat / 2 ^ 16 < 10 then h.set (Reg.TB_STATUS.REFUSED 1) 1
  else
    let old := h.get Reg.TB1_CTRL.ROLE
    let h := h.setWord (Reg.TB1_CTRL.ROLE).addr (v &&& 0xFFFFFF1F#32)
    if role = old then h
    else
      let h := { h with chain := {} }
      ((((h.set Reg.TB1_STATUS.LOCKED 0).set Reg.TB1_STATUS.HOLDOVER 0).set Reg.TB1_STATUS.HOP 0).set
        (Reg.TB_STATUS.SERVO_OWNED 1) (b2n (role == 2)))

end Sys2Proof.Machine
end

