-- ==== Sys2Proof/Machine/Gauge.lean ====
section
/-! DEFINITION. Gauge: counter configuration, snapshots and trace (14). -/

namespace Sys2Proof.Machine
open Sys2Proof

/-! ### Counters (R400, R408, R416, R440) -/

/-- Writable bits of the configuration word at `a`, and whether it is a core's (R416, R417); none: no counter lies there. -/
def cfgWordOf (a : Nat) : Option (Word × Bool) :=
  if a % 16 != 0 then none
  else if 0x601000 ≤ a && a < 0x602000 then some (0x80FF1FFF#32, false)
  else if 0x604000 ≤ a && a < 0x605000 then some (0x800000FF#32, false)
  else if 0x608000 ≤ a && a < 0x60C000 then some (0x80FF03FF#32, true)
  else none

/-- A write of a configuration word zeroes its counter (R400). -/
def HostSide.cfgCounter (h : HostSide) (a : Nat) (v : Word) : HostSide :=
  match cfgWordOf a with
  | some (m, core) => h.writeCfg a core (v &&& m)
  | none => h

/-- COUNTER_CONFIG_WRITE (R400, R403, R404). -/
def execCounterConfigWrite (a : Nat) (v : Word) (s : State) : Host.Outcome State Fault Refusal :=
  s.onBar fun _ h => match h.sleepWrite a v with
    | some g => if (cfgWordOf a).isSome then g else h
    | none => h.cfgCounter a v

/-- Values of the 256 global counters. -/
def HostSide.globals (h : HostSide) : List Nat := (List.range 256).map fun i => h.get2 (Reg.GCNT_VALUE_LO i) (Reg.GCNT_VALUE_HI i)

/-- GAUGE_CTRL.SNAP asks for a snapshot (R408). -/
def HostSide.askSnap (h : HostSide) (e : Env) : HostSide :=
  { h with gauge := { h.gauge with snapReq := true, snapTick := e.tick, snapVals := none } }

/-- GAUGE_CTRL.CLEAR_ALL zeroes the global counters (R416). A snapshot asked for in the same cycle takes the values before the clear
(R408). DEDUCED (log entry 14). -/
def HostSide.clearGlobals (h : HostSide) (e : Env) : HostSide :=
  let same := h.gauge.snapReq && h.gauge.snapTick == e.tick && h.gauge.snapVals.isNone
  let h := if same then { h with gauge := { h.gauge with snapVals := some h.globals } } else h
  forN 256 (fun i h => h.set2 (Reg.GCNT_VALUE_LO i) (Reg.GCNT_VALUE_HI i) 0) h

/-- Writing GAUGE_CTRL.SNAP (R408). -/
def execGaugeSnap (s : State) : Host.Outcome State Fault Refusal := s.onBar fun e h => h.askSnap e

/-- At the realignment boundary the 256 global counters are copied (R408). -/
def execGaugeSnapTake (s : State) : Host.Outcome State Fault Refusal :=
  s.onHost fun e h =>
    if !h.gauge.snapReq then h
    else
      let vs := h.gauge.snapVals.getD h.globals
      let h := forN 256 (fun i h => h.set2 (Reg.GSNAP_LO i) (Reg.GSNAP_HI i) (vs.getD i 0)) h
      let h := (h.set Reg.GAUGE_STATUS.SNAP_VALID 1).set2 Reg.GAUGE_SNAP_TICK_LO Reg.GAUGE_SNAP_TICK_HI e.tick
      { h with gauge := { h.gauge with snapReq := false, snapVals := none } }

/-- Writing GAUGE_CTRL.CLEAR_ALL (R416). -/
def execGaugeClearAll (s : State) : Host.Outcome State Fault Refusal := s.onBar fun e h => h.clearGlobals e

/-! ### Trace (R410 to R414) -/

/-- TRACE_RECORD: the record of the oldest event that is due in buffer `b` enters it, or is dropped with a LOSS record to follow (R410,
R411). The events themselves, an issue, the end of a WAIT, a change of a job's state, a post or a release of a verdict, give it its
bytes. DEDUCED (log entry 50). -/
def execTraceRecord (b : Nat) (s : State) : Host.Outcome State Fault Refusal :=
  s.onHost fun e h =>
    match h.gauge.due.find? fun x => x.1 == b with
    | none => h
    | some (_, tick, r) =>
      ({ h with gauge := { h.gauge with due := h.gauge.due.eraseP fun x => x.1 == b } }).traceIn e b tick r

/-- Tables that a trace write from a buffer crosses: from its cluster's compute die or its I/O die to that of the ring's group (R411). -/
def traceTables (buf g : Nat) : List Nat :=
  let d := dieOfGroup g
  (if 8 ≤ buf then [18 + 4 * (buf - 8) + 2 * d]
   else if dieOfCluster buf = d then [] else if d = 1 then [16] else [17]) ++ [g]

/-- Slots of the trace ring (R410). -/
def HostSide.traceSlots (h : HostSide) : Nat := 2 ^ (min 14 (h.get Reg.TRC_SIZE_L) + 6)
/-- Free slots; with WRAP older records are overwritten (R413). -/
def HostSide.traceFree (h : HostSide) : Nat :=
  if h.on Reg.TRC_CTRL.WRAP then h.traceSlots
  else h.traceSlots - (h.get Reg.TRC_WR + 2 ^ 32 - h.get Reg.TRC_RD) % 2 ^ 32

/-- Writes one record to the ring. -/
def HostSide.traceOut (h : HostSide) (e : Env) (r : List Byte) : HostSide :=
  let n := h.get Reg.TRC_WR
  let off := h.get Reg.TRC_BASE * 2048 + n % h.traceSlots * 32
  let g := h.get Reg.TRC_GROUP
  let h := if g < e.variant.groups && off + 32 ≤ 0xC0000000 then (h.landPiece e 2 g off r false).1 else h
  (h.set Reg.TRC_WR (n + 1)).countG 0x50 0 1

/-- TRACE_WRITE: up to two records of a buffer, one granule, go to the ring, once Gauge trace has moved a granule in open slots of every
table they cross; it spends one granule of the bucket. A full ring without WRAP keeps them and sets FULL (R197, R411 to R413). DEDUCED
(log entry 50). -/
def execTraceWrite (buf : Nat) (s : State) : Host.Outcome State Fault Refusal :=
  s.onData fun e h =>
    let x := h.traceBuf buf
    if !h.on Reg.TRC_CTRL.EN || x.recs.isEmpty || h.gauge.bucket = 0 || !h.hbmUp then h
    else if h.traceFree = 0 then h.setBits Reg.GAUGE_INT_STATUS 2
    else if (traceTables buf (h.get Reg.TRC_GROUP)).any fun n => (h.arb n).traced = 0 then h
    else
      let h := (traceTables buf (h.get Reg.TRC_GROUP)).foldl (fun h n =>
        h.setArb n { h.arb n with traced := (h.arb n).traced - 1 }) (h.countG 0x02 (h.get Reg.TRC_GROUP) 1)
      let k := min 2 h.traceFree
      let h := (x.recs.take k).foldl (fun h r => h.traceOut e r) h
      let h := h.setTraceBuf buf { x with recs := x.recs.drop k }
      let h : HostSide := { h with gauge := { h.gauge with bucket := h.gauge.bucket - 1 } }
      let h := h.traceLoss e buf
      if h.traceFree = 0 then h.setBits Reg.GAUGE_INT_STATUS 2 else h

/-- Every 100 FABRIC cycles the bucket gains TRC_RATE granules (R412). -/
def execTraceBucketRefill (s : State) : Host.Outcome State Fault Refusal :=
  s.onHost fun _ h => { h with gauge := { h.gauge with bucket := min 64 (h.gauge.bucket + max 1 (h.get Reg.TRC_RATE)) } }

/-- Every TRC_SAMPLE.US a COUNTER record is made for each counter FIRST to FIRST + NUM_M1 (R410). -/
def execTraceSampleTimer (s : State) : Host.Outcome State Fault Refusal :=
  s.onHost fun e h =>
    if !h.on Reg.TRC_SAMPLE.US then h
    else
      let first := h.get Reg.TRC_SAMPLE.FIRST
      forN (h.get Reg.TRC_SAMPLE.NUM_M1 + 1) (fun j h =>
        let i := first + j
        if 256 ≤ i then h
        else h.trace e 8 e.tick 6 0 0 (toLE 4 i ++ toLE 6 (h.get2 (Reg.GCNT_VALUE_LO i) (Reg.GCNT_VALUE_HI i)))) h

/-- A write of TRC_MARK makes a MARK record (R410). -/
def execTrcMark (v : Word) (s : State) : Host.Outcome State Fault Refusal :=
  s.onBar fun e h => h.trace e 8 e.tick 9 0 0 (toLE 4 v.toNat)

/-- A selected UP port sends an EVENT flit with the next EV_SEQ (R414). -/
def execIflEventSend (p : Nat) (s : State) : Host.Outcome State Fault Refusal :=
  s.onHost fun e h =>
    if e.variant.ports ≤ p || !h.on Reg.TRC_IFL.PERIOD || !h.on Reg.TRC_CTRL.EN || !bit (h.get Reg.TRC_IFL.PORTS) p
        || h.portState p != 3 then h
    else
      let n := SMap.get (fun _ => 0) h.gauge.evSeq p
      let h : HostSide := { h with gauge := { h.gauge with evSeq := h.gauge.evSeq.put p ((n + 1) % 2 ^ 32) } }
      h.presentFlit e p 5 2 (n + h.get2 Reg.DET_BOOT_ID_LO Reg.DET_BOOT_ID_HI * 2 ^ 96 + p * 2 ^ 160)

/-! ### Cycles that pass (R402, R404, R407, R409) -/

/-- Does the owner of a site's counters run there: no job, or one that is RUNNING or PREEMPTING (R404)? -/
def HostSide.ownerRuns (h : HostSide) (site : Nat) : Bool :=
  match (h.core site).job with
  | none => true
  | some j => h.comp.jobs.any fun x => x.id == j && (x.state == 3 || x.state == 4)

/-- Three CORE cycles, one TIME cycle, pass on logical core `c` with no command issuing (R10): its cycle events count, and a WAIT has
waited. A fenced core, and one of a sleeping cluster, has no cycles. DESIGN CHOICE (log entry 14). -/
def HostSide.idleCore (h : HostSide) (c : Nat) : HostSide :=
  match h.siteOf c with
  | none => h
  | some site =>
    if h.asleep (c / 8) || h.coreState site == 6 || !h.ownerRuns site then h
    else
      let x := h.core site
      let waits := h.coreState site == 3
      let stall := if h.heldBack site then 3 else 0
      let h := if waits then h.setCore site { x with waited := x.waited + 3 } else h
      let h := h.spend c site (min 3 x.busyM) (min 3 x.busyD) (min 3 x.busyV)
      ((h.countC c 0x01 3).countC c 0x07 (if waits then 3 else 0)).countC c 0x08 stall

/-- One TIME cycle passes in which no command comes: two FABRIC cycles, and three CORE cycles of every core that a global stop does not
hold (R10, R402, R407, R409). -/
def HostSide.idle (h : HostSide) : HostSide :=
  let h := h.countG 0x60 0 2
  if h.stopped then h else forN 64 (fun c h => h.idleCore c) h

/-- The block with no command waiting: one TIME cycle passes. DESIGN CHOICE (log entries 1, 14). -/
def State.idle (s : State) : State :=
  { s with tick := s.tick + 1, host := if s.host.down then s.host else s.host.idle.settle }

end Sys2Proof.Machine
end

