-- ==== Sys2Proof/Machine/HostBarrier.lean ====
section
/-! DEFINITION. The host end of the isolation barrier: frames, ticks, snapshots, inputs, ejection reports, configuration accesses
(R272 to R279, R285, R289, R293, R294). -/

namespace Sys2Proof.Machine
open Sys2Proof

/-! ### Frames (R270 to R274) -/

/-- The host side launches one frame (R272 to R274). With HB_EN at 0 it sends no HEARTBEAT, so a window with nothing else to send
carries no frame. DEDUCED (log entry 22). -/
def HostSide.launch (h : HostSide) (wait : Nat) : HostSide :=
  let p := h.bar.port
  let hb (h : HostSide) : HostSide :=
    if !h.on Reg.BAR_CTRL.HB_EN then { h with bar := { h.bar with port := { p with lastTx := 0, hbWin := p.hbWin + 1 }.settleTx } }
    else { h with bar := { h.bar with port := p.sent 1 (p.hbSeq + b2n (decide (0 < h.bar.release)) * 2 ^ 16) 0,
                                      release := h.bar.release - 1 } }
  if 63 ≤ p.hbWin && h.on Reg.BAR_CTRL.HB_EN then hb h
  else match pickMsg false p.tx with
    | none => hb h
    | some m =>
      let h := if m.late then h.inc Reg.BAR_LATE 1 else h
      { h with bar := { h.bar with port := { p with tx := dropMsg m p.tx }.sent m.type m.payload (if m.late then 127 else wait) } }

/-- BARRIER_FRAME_LAUNCH: at the end of a window a side launches one frame (R273). `wait`: cycles the message sent has waited;
`waits`: the same for the ticks of the eight sources. -/
def execBarrierFrameLaunch (toHost : Bool) (wait : Nat) (waits : List Nat) (s : State) : Host.Outcome State Fault Refusal :=
  if toHost then s.onField fun e d => (d.notice e.linked).launch wait waits else s.onHost fun _ h => h.launch wait

/-- A trigger source as the host side knows it (R279). -/
def HostSide.trig (h : HostSide) (j : Nat) : TrigCopy := SMap.get (fun _ => {}) h.bar.trig j
def HostSide.setTrig (h : HostSide) (j : Nat) (x : TrigCopy) : HostSide := { h with bar := { h.bar with trig := h.bar.trig.put j x } }

/-- The ticks of a LINE_TICK message wait to be acted on, each in the order of its source (R273, R275); late ones are counted (R26). -/
def HostSide.takeTicks (h : HostSide) (payload : Nat) : HostSide :=
  forN 8 (fun j h =>
    let b := payload / 2 ^ (8 * j) % 256
    let h := if b % 2 = 0 && b / 2 % 64 = 1 then h.inc Reg.BAR_LATE 1 else h
    if b % 2 = 1 || b / 2 % 64 = 1 then h.setTrig j { h.trig j with ticks := (h.trig j).ticks ++ [b / 128] } else h) h

/-- A field-to-host frame arrives at the host side (R271, R272, R294). -/
def HostSide.barReceive (h : HostSide) (e : Env) (frame : Nat) : HostSide :=
  let f := frameRead frame
  let (p, on) := h.bar.port.position f.sync
  let h := { h with bar := { h.bar with port := p } }.set Reg.BAR_STATUS.RX_LOCK (b2n p.locked)
  if !on then h
  else if !(f.good && typeOk true f.type) then
    (((h.inc Reg.BAR_CRC_ERR 1).set Reg.BAR_STATUS.CRC 1).log e 0x0104 0 0 0 0).countG 0x43 0 1
  else
    let h := { h with bar := { h.bar with lost := false } }
    if f.type = 0x10 then h.takeTicks f.payload
    else { h with bar := { h.bar with port := { p with rx := p.rx ++ [{ type := f.type, payload := f.payload, late := f.wait == 127 }] } } }

/-- BARRIER_FRAME_RX: 100 bits arrive at a receiver (R271, R272). -/
def execBarrierFrameRx (toHost : Bool) (frame : Nat) (s : State) : Host.Outcome State Fault Refusal :=
  if toHost then s.onHost fun e h => h.barReceive e frame else s.onField fun _ d => d.receive frame

/-- BARRIER_SYNC_LOSS: three expected SYNC positions are missed and the receiver loses lock (R272). -/
def execBarrierSyncLoss (toHost : Bool) (s : State) : Host.Outcome State Fault Refusal :=
  if toHost then s.onHost fun _ h =>
    { h with bar := { h.bar with port := { h.bar.port with locked := false, syncRun := 0, missRun := 0 } } }.set Reg.BAR_STATUS.RX_LOCK 0
  else s.onField fun _ d => { d with port := { d.port with locked := false, syncRun := 0, missRun := 0 } }

/-- Acts on the oldest message of a type that has arrived at the host side. -/
def HostSide.onMsg (h : HostSide) (t : Nat) (f : HostSide → Nat → HostSide) : HostSide :=
  match h.bar.port.take t with
  | some (m, p) => f { h with bar := { h.bar with port := p } } m.payload
  | none => h

/-! ### Ticks and snapshots (R279) -/

/-- A snapshot gives the base: the count of the next tick, and so bit 0 of its index k. POS − TRIG_START is k × N modulo 2^32, so that
bit stands where N has its lowest 1, however often the counts have passed 2^32 (R278, R279). -/
def TrigCopy.rebase (x : TrigCopy) (pos : Nat) : TrigCopy :=
  { x with next := pos, based := true, renew := false,
           idx := (pos + 2 ^ 32 - x.start % 2 ^ 32) % 2 ^ 32 / Nat.gcd (max 1 x.n) (2 ^ 32) % 2 }

/-- One tick on. -/
def TrigCopy.advance (x : TrigCopy) : TrigCopy := { x with next := (x.next + x.n) % 2 ^ 32, idx := (x.idx + 1) % 2 }

/-- A tick lost on the barrier is passed on as one already retired as missing, without an uplink trigger (R279). -/
def HostSide.lostTick (h : HostSide) (e : Env) (j : Nat) : HostSide :=
  let x := h.trig j
  let h := (h.setTrig j x.advance).inc Reg.BAR_TICK_LOST 1
  (h.pixTick e j x.next true).inspectTick e j x.next

/-- LINE_TICK: the host side acts on the oldest received tick of source `j` (R279): a tick lost before it shows in IDX0; then the
tick goes to the camera links, the pipe contexts and the INSPECT engine. Before the first snapshot there is no base, and so no count
for the contexts: the tick goes to the camera links alone (R55). DEDUCED (log entry 22). -/
def execLineTick (j : Nat) (s : State) : Host.Outcome State Fault Refusal :=
  s.onHost fun e h =>
    match (h.trig j).ticks with
    | [] => h
    | i :: rest =>
      let h := h.setTrig j { h.trig j with ticks := rest }
      if !(h.trig j).based then h.uplinkTriggers e j
      else
        let h := if (h.trig j).idx = i then h else h.lostTick e j
        let x := h.trig j
        let h := (h.setTrig j x.advance).uplinkTriggers e j
        (h.pixTick e j x.next false).inspectTick e j x.next

/-- ENC_SNAPSHOT (R279): KIND 1 gives or corrects the base, KIND 2 retires the dropped ticks up to its POS. A periodic snapshot
carries a position and no base. -/
def execEncSnapshot (s : State) : Host.Outcome State Fault Refusal :=
  s.onHost fun e h => h.onMsg 0x11 fun h p =>
    let kind := p / 4 % 4
    let j := p / 16 % 8
    let pos := p / 2 ^ 8 % 2 ^ 32
    let x := h.trig j
    let d := cdiff pos x.next
    let n := max 1 x.n
    if kind != 1 && kind != 2 then h
    else if !x.based || x.renew then h.setTrig j (x.rebase pos)
    else if d = 0 then h
    else if kind = 1 then
      ((h.setTrig j (x.rebase pos)).inc Reg.BAR_TICK_LOST ((d.natAbs + n - 1) / n)).set Reg.BAR_STATUS.TICK_LOST 1
    else
      let h := forN ((d.toNat + n - 1) / n) (fun _ h => h.lostTick e j) h
      (h.setTrig j ((h.trig j).rebase pos)).set Reg.BAR_STATUS.TICK_LOST 1

/-! ### Heartbeat, inputs, faults (R275, R289, R293, R294, R426) -/

/-- FIELD_HEARTBEAT: status bits and inputs are taken; a HB_SEQ of 0 after another shows a restart of the field die (R426); SAFE
cancels every entry sent (R294). DEDUCED (log entry 22). -/
def execFieldHeartbeat (s : State) : Host.Outcome State Fault Refusal :=
  s.onHost fun e h => h.onMsg 0x01 fun h p =>
    let b := h.bar.port
    let seq := p % 65536
    let again := seq = 0 && (match b.hbSeen with | some x => x != 0 | none => false)
    let h := { h with bar := { h.bar with port := { b with hbSeen := some seq } } }
    let h := if again then h.inc Reg.CLK_FLD_RESTARTS 1 else h
    let safe := p / 2 ^ 16 % 2
    let was := h.get Reg.BAR_STATUS.SAFE
    let h := ((h.set Reg.BAR_STATUS.SAFE safe).set Reg.BAR_STATUS.FIELD_FAULT (p / 2 ^ 17)).set Reg.BAR_STATUS.LP_OK (p / 2 ^ 18)
    let h := ((h.set Reg.BAR_STATUS.ALIVE (p / 2 ^ 19)).set Reg.BAR_STATUS.WEIR_USED (p / 2 ^ 20)).set Reg.BAR_DI_NOW (p / 2 ^ 33)
    let h := if safe = 1 && was = 0 then h.log e 0x0306 0 1 0 0 else h
    if safe = 1 then h.cancelOut e else h

/-- DI_CHANGE opens and closes input windows on the count it carries (R22, R289). -/
def execDiChange (s : State) : Host.Outcome State Fault Refusal :=
  s.onHost fun e h => h.onMsg 0x12 fun h p =>
    (h.set Reg.BAR_DI_NOW p).inspectInput e (p % 65536) (p / 65536 % 65536) (p / 2 ^ 32 % 2 ^ 32)

/-- FAULT is taken; its conditions reach the host registers through the HEARTBEAT (R275, R296). -/
def execFault (s : State) : Host.Outcome State Fault Refusal :=
  s.onHost fun _ h => h.onMsg 0x14 fun h _ => h

/-- FIELD_LOSS: no valid field-to-host frame for FLOSS_TO; every entry without a report is reported CANCELLED (R294). DEDUCED
(log entry 22). -/
def execFieldLoss (s : State) : Host.Outcome State Fault Refusal :=
  s.onHost fun e h =>
    let h := ({ h with bar := { h.bar with lost := true } }.set Reg.BAR_STATUS.FIELD_LOST 1).log e 0x0306 0 0 0 0
    h.cancelOut e

/-- BAR_CMD.RELEASE: the next four HEARTBEATs carry RELEASE (R293). -/
def execBarRelease (s : State) : Host.Outcome State Fault Refusal :=
  s.onBar fun _ h => { h with bar := { h.bar with release := 4 } }

/-- EJECT_REPORT (R285, R294): the ejection report record of its entry is published; a report of an entry already reported is
discarded and counted. -/
def execEjectReport (s : State) : Host.Outcome State Fault Refusal :=
  s.onHost fun e h => h.onMsg 0x13 fun h p =>
    let g := p % 8
    let tag := p / 8 % 1024
    let result := p / 2 ^ 13 % 8
    let h := h.countG 0x42 0 1
    match h.insp.out.find? fun o => o.group == g && o.tag == tag with
    | none => h.inc Reg.BAR_DUP_RPT 1
    | some o =>
      let h := { h with insp := { h.insp with out := h.insp.out.filter fun x => !(x.group == g && x.tag == tag) } }
      let code := if result = 0 then o.verdict else if result = 2 then 5 else 4
      let h := h.report e o code result (p / 2 ^ 63 % 2 + 4 * (p / 2 ^ 48 % 2)) tag (p / 2 ^ 16 % 2 ^ 32)
      if result = 0 then h else h.log e 0x0207 g result 0 o.seq

/-! ### Configuration accesses (R276, R279) -/

/-- The host side keeps its copy of a source's settings from the CFG_WRITEs it sends (R279). A write that disables a source drops no tick
that it has made; after one that enables it again, its first snapshot gives a new base and differs from none. DEDUCED (log entry 22). -/
def HostSide.noteTrig (h : HostSide) (off : Nat) (v : Word) : HostSide :=
  if 0x1100 ≤ off && off < 0x1180 && off % 16 < 8 then
    let j := (off - 0x1100) / 16
    let x := h.trig j
    if off % 16 = 0 then
      let en := v.getLsbD 0
      if v.toNat / 256 = 0 then h
      else h.setTrig j { x with en := en, n := v.toNat / 256, renew := x.renew || (en && !x.en) }
    else h.setTrig j { x with start := v.toNat }
  else h

/-- A request crosses the barrier with the next RTAG and waits for its response (R276). DEDUCED (log entry 23). -/
def HostSide.cfgSend (h : HostSide) (type payload : Nat) (read : Bool) : HostSide :=
  let t := h.bar.rtag
  let m : Msg := { type := type, payload := payload + t * 2 ^ 16 }
  let h := { h with bar := { h.bar with rtag := (t + 1) % 256, reqs := h.bar.reqs ++ [({ rtag := t, msg := m, read := read } : CfgReq)] } }
  h.barSend m.type m.payload

/-- A write of a proxied field register (R276). -/
def HostSide.cfgWriteTo (h : HostSide) (off : Nat) (v : Word) : HostSide :=
  (h.noteTrig off v).cfgSend 0x22 (off % 65536 + v.toNat * 2 ^ 32) false
/-- A read of a proxied field register (R276). -/
def HostSide.cfgReadFrom (h : HostSide) (off : Nat) : HostSide := h.cfgSend 0x23 (off % 65536) true

/-- CFG_READ_RESPONSE completes the access whose RTAG it carries (R276). A write or DO_SET that the field side has applied was a commit
point of its own and takes the next commit sequence (R13, R225). DEDUCED (log entry 18). -/
def execCfgReadResponse (s : State) : Host.Outcome State Fault Refusal :=
  s.onHost fun _ h => h.onMsg 0x23 fun h p =>
    let t := p / 2 ^ 16 % 256
    match h.bar.reqs.find? (fun r => r.rtag == t) with
    | none => h
    | some r =>
      let h := { h with bar := { h.bar with reqs := h.bar.reqs.filter fun x => x.rtag != t } }
      if r.read then { h with readData := BitVec.ofNat 32 (p / 2 ^ 32) } else if bit p 24 then h else h.nextCseq

/-- CFG_RESPONSE_TIMEOUT: the oldest request is sent again with its RTAG, up to three times; then the access fails (R276). What a
failed read returns is a free value. DEDUCED (log entry 23). -/
def execCfgResponseTimeout (s : State) : Host.Outcome State Fault Refusal :=
  s.onHost fun _ h =>
    match h.bar.reqs with
    | [] => h
    | r :: rest =>
      if r.tries < 3 then
        ({ h with bar := { h.bar with reqs := { r with tries := r.tries + 1 } :: rest } }).barSend r.msg.type r.msg.payload
      else
        let h := ({ h with bar := { h.bar with reqs := rest } } : HostSide).set Reg.BAR_STATUS.CFG_FAIL 1
        if r.read then (let (h, v) := h.free 0x276; { h with readData := BitVec.ofNat 32 v }) else h

end Sys2Proof.Machine
end

