-- ==== Sys2Proof/Machine/Serve.lean ====
section
/-! DEFINITION. The step controller of narrative serving (R372 to R377). -/

namespace Sys2Proof.Machine
open Sys2Proof

/-! ### Requests (R372, R373) -/

/-- A little-endian field of a sequence's request. -/
def Seq.u (q : Seq) (off n : Nat) : Nat := leNat ((q.req.drop off).take n)
def Seq.id (q : Seq) : Nat := q.u 4 4
/-- Prompt length P. -/
def Seq.prompt (q : Seq) : Nat := q.u 48 2 + q.u 16 4
def Seq.maxNew (q : Seq) : Nat := q.u 20 4

/-- Pages that a join needs (R373); a page of 0 positions acts as 1. -/
def HostSide.pagesOf (h : HostSide) (p : Nat) (q : Seq) : Nat :=
  let t := max 1 (h.get (Reg.SRV_PAGE_TOK (p - 1)))
  (q.prompt + q.maxNew + t - 1) / t

/-- HBM far address of the table of step `n` (R375). -/
def HostSide.stepTable (h : HostSide) (p n : Nat) : Nat :=
  h.get (Reg.SRV_STEP.GROUP (p - 1)) * 2 ^ 32 + h.get (Reg.SRV_STEP.OFF (p - 1)) * 2 ^ 17 + n % 2 * 0x20000

/-! ### A step boundary (R374) -/

/-- The tokens of the step that ended are appended to the OUT buffers (R375); END, then MAX_NEW, make a sequence leave. DEDUCED
(log entry 37). -/
def HostSide.harvest (h : HostSide) (p : Nat) : HostSide :=
  let v := h.serving p
  let tab := h.stepTable p (v.steps + 2 ^ 32 - 1)
  let one (h : HostSide) (x : Nat × Nat) : HostSide :=
    let (j, slot) := x
    let a := tab + 64 + 64 * j
    let m := (h.hbmOf (a / 2 ^ 32)).mem
    let tok := m.le (a % 2 ^ 32 + 48) 4
    let fl := m.le (a % 2 ^ 32 + 52) 1
    let v := h.serving p
    match v.active.find? (fun q => q.slot == slot) with
    | none => h
    | some q =>
      let h := if bit fl 0 then h.hostWrite (q.u 24 8 + 4 * q.newToks) (toLE 4 tok) else h
      let new := q.newToks + (if bit fl 0 then 1 else 0)
      let q' := { q with newToks := new, pos := q.pos + q.ntok, ntok := 0, stepped := true,
                         leave := if bit fl 1 then some 0 else if q.maxNew ≤ new && bit fl 0 then some 1 else q.leave }
      h.setServing p { v with active := v.active.map fun x => if x.slot == slot then q' else x }
  (v.entries.mapIdx fun j s => (j, s)).foldl one h

/-- Leaves (R374 step 1): each releases its pages and slot, and its request is answered. -/
def HostSide.serveLeave (h : HostSide) (p : Nat) : HostSide :=
  let v := h.serving p
  let h := h.setServing p { v with active := v.active.filter fun q => q.leave.isNone }
  (v.active.filter fun q => q.leave.isSome).foldl (fun h q => h.respond p q.n (q.leave.getD 0) q.newToks) h

/-- Reads one request (R374 step 2). Another FORMAT or KIND than those of R372 gets no response. -/
def HostSide.serveOne (h : HostSide) (p n : Nat) : HostSide :=
  let req := h.hostRead (h.reqAddr p n) 64
  let q : Seq := { req, n }
  let b0 := q.u 0 1
  let v := h.serving p
  if b0 % 16 != 1 then h
  else match b0 / 16 % 4 with
    | 0 =>
      let r := h.pagesOf p q
      if h.get (Reg.SRV_PAGES (p - 1)) < r || 256 < r then h.respond p n 3 0
      else h.setServing p { v with waiting := v.waiting ++ [q] }
    | 1 =>
      (match v.waiting.find? (fun x => x.id == q.id), v.active.find? (fun x => x.id == q.id) with
      | some x, _ =>
        ((h.setServing p { v with waiting := v.waiting.filter fun y => y.n != x.n }).respond p x.n 2 0).respond p n 2 0
      | none, some x =>
        (h.setServing p { v with active := v.active.map fun y => if y.n == x.n then { y with leave := some (y.leave.getD 2) } else y }).respond
          p n 2 0
      | none, none => h.respond p n 5 0)
    | _ => h

/-- Reads the ring from HEAD to TAIL − 1, at most one ring's worth, and writes HEAD (R374 step 2). -/
def HostSide.serveRead (h : HostSide) (p : Nat) : HostSide :=
  let base := h.get (Reg.SRV_RING_LO (p - 1)) * 64 + h.get (Reg.SRV_RING_HI (p - 1)) * 2 ^ 32
  let head := (h.serving p).head
  let tail := leNat (h.hostRead base 4)
  let n := min ((tail + 2 ^ 32 - head % 2 ^ 32) % 2 ^ 32) (sizeOf (h.get (Reg.SRV_RING.SIZE_L (p - 1))))
  let h := forN n (fun i h => h.serveOne p ((head + i) % 2 ^ 32)) h
  let new := (head + n) % 2 ^ 32
  (h.setServing p { h.serving p with head := new }).hostWrite (base + 4) (toLE 4 new)

/-- Admission (R374 step 3): from the head of the queue while pages and a slot are free; the first that does not fit stops it.
DEDUCED (log entry 37). -/
def HostSide.serveAdmit (h : HostSide) (p : Nat) : Nat → HostSide
  | 0 => h
  | fuel + 1 =>
    let v := h.serving p
    match v.waiting with
    | [] => h
    | q :: rest =>
      let used := v.active.flatMap (·.pages)
      let free := (List.range (h.get (Reg.SRV_PAGES (p - 1)))).filter fun i => !(i ∈ used)
      let slot := findN (min 64 (h.get (Reg.SRV_CTRL.MAX_SEQ (p - 1)))) fun i => !(v.active.any fun x => x.slot == i)
      let r := h.pagesOf p q
      match slot with
      | some sl =>
        if free.length < r then h
        else HostSide.serveAdmit (h.setServing p { v with waiting := rest, active := v.active ++ [{ q with slot := sl, pages := free.take r }] }) p fuel
      | none => h

/-- Composition (R374 step 4): a decode token of every sequence past its prefill, then prefill chunks in admission order. Answers
the entries' sequences with the positions each takes. -/
def HostSide.compose (h : HostSide) (p : Nat) : List Seq :=
  let v := h.serving p
  let dec := (v.active.filter fun q => q.prompt ≤ q.pos).map fun (q : Seq) => { q with ntok := 1 }
  let budget := h.get (Reg.SRV_STEP_TOK (p - 1)) - dec.length
  let pre := (v.active.filter fun q => q.pos < q.prompt).foldl (fun (a : List Seq × Nat) (q : Seq) =>
    let n := min (min (q.prompt - q.pos) (h.get (Reg.SRV_CHUNK (p - 1)))) a.2
    if n = 0 then a else (a.1 ++ [{ q with ntok := n }], a.2 - n)) (([] : List Seq), budget)
  dec ++ pre.1

/-- The 64 bytes of a step-table entry (R375). -/
def Seq.entry (q : Seq) : List Byte :=
  let pre := decide (q.pos < q.prompt)
  let flags := b2n pre + 2 * b2n (pre && q.prompt ≤ q.pos + q.ntok) + 4 * b2n (!q.stepped)
  toLE 4 q.id ++ toLE 4 q.slot ++ toLE 4 q.pos ++ toLE 4 q.ntok ++ toLE 4 flags ++ toLE 4 q.prompt
    ++ (q.req.drop 8).take 8 ++ (q.req.drop 40).take 8 ++ (q.req.drop 32).take 8 ++ List.replicate 16 0

/-- Start (R374 step 5): the step table is written, and the step token of every core of the job is incremented. -/
def HostSide.serveStart (h : HostSide) (e : Env) (p : Nat) (j : Job) : HostSide :=
  let es := h.compose p
  let v := h.serving p
  let tab := h.stepTable p v.steps
  let total := (es.map (·.ntok)).foldl (· + ·) 0
  let hdr := toLE 4 1 ++ toLE 4 v.steps ++ toLE 4 es.length ++ toLE 4 total ++ List.replicate 48 0
  let put (h : HostSide) (off : Nat) (bs : List Byte) : HostSide :=
    ((piecesOf bs.length 2048).foldl (fun h x =>
      (h.landPiece e 2 ((tab + off) / 2 ^ 32) ((tab + off) % 2 ^ 32 + x.1) ((bs.drop x.1).take x.2) false).1) h).countMem false 2
        ((tab + off) / 2 ^ 32) bs.length
  let h := put h 0 (hdr ++ es.flatMap Seq.entry)
  let h := es.foldl (fun h q => put h (0x2000 + q.slot * 0x400) (q.pages.flatMap (toLE 4))) h
  let act := v.active.map fun q => (es.find? fun x => x.slot == q.slot).getD q
  let h := h.setServing p { v with active := act, entries := es.map (·.slot), steps := (v.steps + 1) % 2 ^ 32, running := true, stepEnd := [] }
  (h.jobToken j (h.get (Reg.SRV_CTRL.TOKEN (p - 1)))).showServing p

/-- A step boundary of partition `p` (R374). With no sequence admitted and none waiting no step starts. -/
def HostSide.boundary (h : HostSide) (e : Env) (p : Nat) (j : Job) : HostSide :=
  let v := h.serving p
  let h := if v.running then (h.harvest p).serveLeave p else h.serveLeave p
  let h := h.setServing p { h.serving p with running := false, stepEnd := [], entries := [] }
  let h := h.serveRead p
  let h := h.serveAdmit p (h.serving p).waiting.length
  let v := h.serving p
  if v.active.isEmpty && v.waiting.isEmpty then h.showServing p else h.serveStart e p j

/-- SERVING_STEP_END: every core of the serving job has stored the step-end address (R374). DEDUCED (log entry 37). -/
def execServingStepEnd (p : Nat) (s : State) : Host.Outcome State Fault Refusal :=
  s.onData fun e h =>
    match h.servingJob p with
    | some j =>
      let v := h.serving p
      if h.bme && v.running && j.cores.all (fun c => c ∈ v.stepEnd) then h.boundary e p j else h
    | none => h

/-- Does a job's context exist yet: it has been restored once, so that its tokens can be added to (R366, R367)? -/
def Job.begun (j : Job) : Bool := j.state != 1 && (j.state != 2 || j.saved)

/-- SERVING_POLL: an idle controller reads the ring (R374). DEDUCED (log entry 37). -/
def execServingPoll (p : Nat) (s : State) : Host.Outcome State Fault Refusal :=
  s.onData fun e h =>
    match h.servingJob p with
    | some j => if h.bme && !(h.serving p).running && j.begun then h.boundary e p j else h
    | none => h

/-- SRV_CTRL with its EN (R377): while EN is 1 nothing changes but EN, and EN clears only when no serving job exists; otherwise
HIF_STATUS.CFG_INVALID sets. -/
def execSrvEnable (p : Nat) (v : Word) (s : State) : Host.Outcome State Fault Refusal :=
  s.onBar fun _ h =>
    if p = 0 || 8 < p then h
    else
      let a := (Reg.SRV_CTRL.EN (p - 1)).addr
      if h.on (Reg.SRV_CTRL.EN (p - 1)) then
        if v.getLsbD 0 then h
        else if (h.servingJob p).isSome then h.set Reg.HIF_STATUS.CFG_INVALID 1
        else (h.set (Reg.SRV_CTRL.EN (p - 1)) 0).showPart p
      else
        let h := h.setWord a (v &&& 0x007F7F1F#32)
        let h := if v.getLsbD 0 then (h.setServing p {}).showServing p else h
        h.showPart p

end Sys2Proof.Machine
end

