-- ==== Sys2Proof/Machine/Registers.lean ====
section
/-! DEFINITION. Register accesses that have no command of their own: access codes, refused values, shadows, latches (R4 to R8, R176, R192,
R195, R276, R303, R349, R377, R380, R412, R440, R455, R472, R522). -/

namespace Sys2Proof.Machine
open Sys2Proof

/-! ### Units a product lacks (R2, R8, R186) -/

/-- Does the address belong to a unit that the product lacks? DESIGN CHOICE (log entry 2); DEDUCED (log entry 56). -/
def unitAbsent (v : Variant) (a : Nat) : Bool :=
  if 0x40000 ≤ a && a < 0x50000 then v.lanes ≤ (a - 0x40000) / 0x100
  else if 0x50000 ≤ a && a < 0x60000 then v.links ≤ (a - 0x50000) / 0x400
  else if 0x60000 ≤ a && a < 0x80000 then v.ports ≤ (a - 0x60000) / 0x2000
  else if 0x80000 ≤ a && a < 0x90000 then v.pipes ≤ (a - 0x80000) / 0x1000
  else if 0x90000 ≤ a && a < 0xC0000 then v.ctxs ≤ (a - 0x90000) / 0x400
  else if 0x100050 ≤ a && a < 0x100060 then v.stacks = 1
  else if 0x101000 ≤ a && a < 0x102000 then !v.hasTable ((a - 0x101000) / 0x40)
  else if 0x108000 ≤ a && a < 0x118000 then !v.hasTable ((a - 0x108000) / 0x800)
  else false

/-- Does some chapter assign the word at `a` (R8)? -/
def assigned (a : Nat) : Bool := !(regRows a).isEmpty

/-! ### Writes -/

/-- A write under the access codes, fields with a command of their own kept (R5). -/
def HostSide.accW (h : HostSide) (a : Nat) (v : Word) : HostSide := { h with regs := h.regs.accWrite a v true }

/-- A context register: the shadow copy holds while a commit is pending (R96); PIPE holds while the context is enabled. -/
def HostSide.ctxW (h : HostSide) (a : Nat) (v : Word) : HostSide :=
  let x := (a - 0x90000) / 0x400
  let o := (a - 0x90000) % 0x400
  if o = 0 then
    let pipe := h.get (Reg.CTX_CTRL.PIPE x)
    let g := h.accW a v
    if h.on (Reg.CTX_CTRL.EN x) then g.set (Reg.CTX_CTRL.PIPE x) pipe else g
  else if 0x40 ≤ o && o < 0x200 && assigned a && h.on (Reg.CTX_STATUS.COMMIT_PENDING x) then h.set (Reg.CTX_STATUS.SHADOW_REFUSED x) 1
  else h.accW a v

/-- A pipe register: the order holds while its commit is pending, MUX, which is not shadowed, does not (R96, R110). -/
def HostSide.pipeW (h : HostSide) (a : Nat) (v : Word) : HostSide :=
  let p := (a - 0x80000) / 0x1000
  let o := (a - 0x80000) % 0x1000
  if (o = 0 || (0x40 ≤ o && o < 0xC0 && assigned a)) && h.on (Reg.PIPE_STATUS.COMMIT_PENDING p) then
    let h := h.set (Reg.PIPE_STATUS.SHADOW_REFUSED p) 1
    if o = 0 then h.set (Reg.PIPE_CTRL.MUX p) (v.toNat % 2) else h
  else h.accW a v

/-- A camera link register (R49, R55, R56). -/
def HostSide.cxpW (h : HostSide) (e : Env) (a : Nat) (v : Word) : HostSide :=
  let n := (a - 0x50000) / 0x400
  let o := (a - 0x50000) % 0x400
  if o = 0 then h.cxpCtrl e n v (h.on (Reg.CXP_CTRL.EN n))
  else if o = 0xC then (h.accW a v).trigSettle n
  else if 0x10 ≤ o && o < 0x20 then
    let i := (o - 0x10) / 4
    let h := h.accW a v
    if h.get (Reg.CXP_MAP.CTX n i) / 64 = n / 8 then h else h.set (Reg.CXP_MAP.CTX n i) 0
  else h.accW a v

/-- A lane register. A write of LANE_CTRL powers the lane on or off: a chain lane that goes off is lost to its port (R42, R75). -/
def HostSide.laneW (h : HostSide) (e : Env) (a : Nat) (v : Word) : HostSide :=
  let l := (a - 0x40000) / 0x100
  match (a - 0x40000) % 0x100 with
  | 0x00 =>
    let was := h.get (Reg.LANE_CTRL.EN l)
    let g := ((h.accW a v).set (Reg.LANE_CTRL.EN l) was).lanePower l (v.getLsbD 0)
    if chainLane l && !v.getLsbD 0 then g.chainLost e l else g
  | 0x08 => (h.accW a v).laneEqWritten l (h.on (Reg.LANE_EQ.EQ_OVR l))
  | 0x0C => (h.accW a v).lanePrbsWritten l (h.word a)
  | _ => h.accW a v

/-- A Sluice slot entry (R192, R195). -/
def HostSide.slotW (h : HostSide) (a : Nat) (v : Word) : HostSide :=
  let n := (a - 0x108000) / 0x800
  if 0x400 ≤ (a - 0x108000) % 0x800 then h.set (Reg.SLU_STATUS.ACTIVE_WR n) 1
  else
    let own := h.on (Reg.SLU_STATUS.LOADER n)
    let pend := h.on (Reg.SLU_STATUS.PENDING n)
    let h := if own then h.set (Reg.SLU_STATUS.LOADER_REFUSED n) 1 else h
    if pend then h.set (Reg.SLU_STATUS.SHADOW_REFUSED n) 1 else if own then h else h.accW a v

/-- A stripe channel or U8 window register: the schedule loader's while it owns the cluster (R163, R170). -/
def HostSide.cluW (h : HostSide) (a : Nat) (v : Word) : HostSide :=
  let k := (a - 0x200000) / 0x20000
  let o := (a - 0x200000) % 0x20000
  if h.loaderOwns k then h
  else if 0x10000 ≤ o && o < 0x10200 && o % 0x20 = 0 then
    let i := (o - 0x10000) / 0x20
    if h.on (Reg.LSC_CFG.EN k i) then h else h.lscWrite k i (v &&& ~~~ 1#32)
  else if 0x10000 ≤ o && o < 0x10200 && o % 0x20 = 4 && h.on (Reg.LSC_CFG.EN k ((o - 0x10000) / 0x20)) then h
  else h.accW a v

/-- Would a partition's save region have a block that ends beyond 0xC000_0000 (R380)? -/
def HostSide.saveBad (h : HostSide) (i : Nat) : Bool :=
  0xC0000000 < h.get (Reg.PART_SAVE_OFF i) * 2048 + (h.get (Reg.PART_SAVE_CFG.BLOCKS_M1 i) + 1) * 0x1808000

/-- A register of the DEV block. A write that sets SEAL_EN while identity is unavailable is ignored whole (R472). -/
def HostSide.devW (h : HostSide) (e : Env) (a : Nat) (v : Word) : HostSide :=
  if a = 0x38 then
    let h := h.accW a v
    h.set Reg.DEV_STATUS.SP_ON (h.get Reg.SP_CTRL.EN)
  else if 0x900 ≤ a && a < 0xB00 && a % 0x20 = 0 then
    let n := (a - 0x900) / 0x20
    let was := h.on (Reg.SEAL_CTRL.SEAL_EN n)
    let g := h.accW a v
    if !was && v.getLsbD 1 then
      if h.on Reg.MGMT_STATUS.IDENT_OK then g.setRing n { g.ring n with sealTick := e.tick }
      else h.set Reg.HIF_STATUS.CFG_INVALID 1
    else g
  else if 0xC00 ≤ a && a < 0xD00 && (a % 0x20 = 8 || a % 0x20 = 0xC) then
    let i := (a - 0xC00) / 0x20
    let g := h.accW a v
    if h.comp.jobs.any fun j => j.live && j.part == i + 1 then h
    else if g.saveBad i then h.set Reg.HIF_STATUS.CFG_INVALID 1
    else g.showPart (i + 1)
  else if a = 0xD80 then (h.accW a v).showEntry
  else if 0xE00 ≤ a && a < 0x1000 then
    let i := (a - 0xE00) / 0x40
    if h.on (Reg.SRV_CTRL.EN i) then h else (h.accW a v).showServing (i + 1)
  else h.accW a v

/-- A register of the HIF block: the base and configuration of an enabled submission queue hold (R352). -/
def HostSide.hifW (h : HostSide) (a : Nat) (v : Word) : HostSide :=
  if 0x11000 ≤ a && a < 0x11800 && a % 0x20 < 0xC && h.on (Reg.SQ_CFG.EN ((a - 0x11000) / 0x20)) then h else h.accW a v

/-- A register of the PM block: values out of range are refused (R457). DEDUCED (log entry 22). With AUTO cleared every unit stays
ACTIVE, so those asleep wake (R438). DEDUCED (log entry 51). -/
def HostSide.pmW (h : HostSide) (a : Nat) (v : Word) : HostSide :=
  let b := v.toNat % 256
  if a = 0x20000 then
    let g := h.accW a v
    if g.on Reg.PM_CTRL.AUTO || g.pm.dieOff then g else forN 8 (fun k g => if g.cluPower k = 0 then g else g.wake k) g
  else if a = 0x20040 && (b < 70 || 105 < b) then h
  else if a = 0x20050 && 50 < b && b < 156 then h
  else h.accW a v

/-- A register of the CLK block: LOCK holds EN (R430). -/
def HostSide.clkW (h : HostSide) (a : Nat) (v : Word) : HostSide :=
  if a = 0x30040 && h.on Reg.CLK_DBG_CTRL.LOCK then h else h.accW a v

/-- A register of the TIME block (R302, R303, R318). DEDUCED (log entry 38). -/
def HostSide.timeW (h : HostSide) (e : Env) (a : Nat) (v : Word) : HostSide :=
  if 0xC0400 ≤ a && a < 0xC0500 then
    let i := (a - 0xC0400) / 0x20
    let g := h.accW a v
    match (a - 0xC0400) % 0x20 with
    | 0x00 => if h.on (Reg.CMP_CTRL.EN i) == g.on (Reg.CMP_CTRL.EN i) then g else g.cmpArm e i
    | 0x04 | 0x08 => g.cmpArm e i
    | 0x0C | 0x10 => if 1000 ≤ g.cmpPeriod i && g.cmpPeriod i ≤ 2 ^ 39 - 1 then g else h
    | _ => g
  else if a = 0xC0600 then h.tb1Ctrl v
  else h.accW a v

/-- A register of the ETH block: a disabled port has no link. -/
def HostSide.ethW (h : HostSide) (a : Nat) (v : Word) : HostSide :=
  let p := (a - 0xD0000) / 0x1000
  let h := h.accW a v
  if (a - 0xD0000) % 0x1000 = 0 && p < 2 && !h.on (Reg.ETH_CTRL.EN p) then h.ethLink p false false else h

/-- A register of the FLD window: the barrier's own host registers, and the proxied ones, which cross it (R276). HB_EN stays 0 while a
fatal error holds it there (R455). -/
def HostSide.fldW (h : HostSide) (a : Nat) (v : Word) : HostSide :=
  if 0xE0100 ≤ a then (if a < 0xF0000 && assigned a then h.cfgWriteTo (a - 0xE0000) v else h)
  else if a = Reg.BAR_CTRL.HB_EN.addr && h.on Reg.PM_STATUS.FATAL && h.on Reg.PM_CTRL.FATAL_SAFE then
    let hb := min (h.get Reg.BAR_CTRL.HB_EN) (Reg.BAR_CTRL.HB_EN.ofWord v)
    (h.accW a v).set Reg.BAR_CTRL.HB_EN hb
  else h.accW a v

/-- A register of the CORE block: tokens are written in IDLE and ERROR only (R145). -/
def HostSide.coreW (h : HostSide) (a : Nat) (v : Word) : HostSide :=
  let site := (a - 0x400000) / 0x2000
  let o := (a - 0x400000) % 0x2000
  if 0x20 ≤ o && o < 0x40 && !(h.coreState site == 0 || h.coreState site == 5) then h else h.accW a v

/-- A register of the GAUGE block; enabling trace restarts the event numbers (R414). DEDUCED (log entry 50). -/
def HostSide.gaugeW (h : HostSide) (a : Nat) (v : Word) : HostSide :=
  let was := h.on Reg.TRC_CTRL.EN
  let h := h.accW a v
  if a = 0x600100 && !was && h.on Reg.TRC_CTRL.EN then { h with gauge := { h.gauge with evSeq := [] } } else h

/-- A register of the HDW block (R381, R399). -/
def HostSide.hdwW (h : HostSide) (a : Nat) (v : Word) : HostSide :=
  if a = 0x780008 then (if v.toNat % 2 ^ 25 = 0 || 0x1000000 < v.toNat % 2 ^ 25 then h else h.accW a v)
  else if a = 0x780060 then h.writeBatchCfg v
  else if 0x78006C ≤ a && a < 0x780078 && h.on Reg.HDW_BATCH_CFG.EN then h
  else h.accW a v

/-- The effect of a register write on the fields without a command of their own. -/
def HostSide.regWrite (h : HostSide) (e : Env) (a : Nat) (v : Word) : HostSide :=
  if unitAbsent e.variant a then h
  else match h.sleepWrite a v with
  | some g => g
  | none =>
    if a < 0x10000 then h.devW e a v
    else if a < 0x20000 then h.hifW a v
    else if a < 0x30000 then h.pmW a v
    else if a < 0x40000 then h.clkW a v
    else if a < 0x50000 then h.laneW e a v
    else if a < 0x60000 then h.cxpW e a v
    else if a < 0x80000 then
      (if (a - 0x60000) % 0x2000 = 0 then h.iflCtrl ((a - 0x60000) / 0x2000) v (h.on (Reg.IFL_CTRL.EN ((a - 0x60000) / 0x2000))) else h.accW a v)
    else if a < 0x90000 then h.pipeW a v
    else if a < 0xC0000 then h.ctxW a v
    else if a < 0xD0000 then h.timeW e a v
    else if a < 0xE0000 then h.ethW a v
    else if a < 0x100000 then h.fldW a v
    else if 0x108000 ≤ a && a < 0x115000 then h.slotW a v
    else if 0x200000 ≤ a && a < 0x300000 then h.cluW a v
    else if 0x400000 ≤ a && a < 0x490000 then h.coreW a v
    else if 0x600000 ≤ a && a < 0x601000 then h.gaugeW a v
    else if 0x780000 ≤ a && a < 0x790000 then h.hdwW a v
    else if 0x1008000 ≤ a && a < 0x1008400 && a % 16 = 0xC then
      (if v.getLsbD 0 then h.set (Reg.MSIX_MASK ((a - 0x1008000) / 16)) 1 else h)
    else h.accW a v

/-- REGISTER_WRITE: a write of the word at `a` (BAR2 from 0x100_0000) acts on the fields that have no command of their own (R4, R5). -/
def execRegisterWrite (a : Nat) (v : Word) (s : State) : Host.Outcome State Fault Refusal :=
  s.onBar fun e h => if a % 4 != 0 then h else h.regWrite e a v

/-! ### Reads -/

/-- Registers that the latch of a _LO register holds (R40, R301, R522): none where the register latches nothing. -/
def latchOf (a : Nat) : List Nat :=
  let hi := [a + 4]
  if a = 0xB08 || a = 0x30010 || a = 0xC0000 || a = 0x100010 || a = 0x600008 then hi
  else if 0x40000 ≤ a && a < 0x43000 && (a % 0x100 = 0x18 || a % 0x100 = 0x20) then hi
  else if 0x50000 ≤ a && a < 0x54000 && a % 0x400 = 0x38 then hi
  else if 0x90000 ≤ a && a < 0xB0000 && a % 0x400 = 0x10 then hi
  else if 0xC0100 ≤ a && a < 0xC0200 && a % 0x40 = 0 then [a + 4, a + 8]
  else if 0x400000 ≤ a && a < 0x490000 && a % 0x2000 = 0x10 then hi
  else if 0x601000 ≤ a && a < 0x602000 && a % 16 = 4 then hi
  else if 0x602000 ≤ a && a < 0x602800 && a % 8 = 0 then hi
  else if 0x604000 ≤ a && a < 0x605000 && a % 16 = 4 then hi
  else if 0x608000 ≤ a && a < 0x60C000 && a % 16 = 4 then hi
  else []

/-- Is the register one that a latch holds? -/
def latched (a : Nat) : Bool := decide (a ∈ latchOf (a - 4)) || decide (a ∈ latchOf (a - 8))

/-- Word `j` of the MSI-X pending-bit array (R321, R348). -/
def HostSide.pbaWord (h : HostSide) (j : Nat) : Nat := ((List.range 32).map fun i => b2n (h.vec (32 * j + i)).pend * 2 ^ i).sum

/-- What the PCIe function is (R320). -/
structure PcieFunction where
  vendor : Nat := 0x1D7A
  device : Nat
  revision : Nat
  classCode : Nat := 0x120000
  /-- MSI-X: vectors, and the BAR and offsets of its table and pending-bit array (R321). -/
  vectors : Nat := 64
  msixBar : Nat := 2
  msixTable : Nat := 0x8000
  msixPba : Nat := 0x9000
  physical : Nat := 1
  virtual : Nat := 0
  aer : Bool := true
  ltr : Bool := true
  /-- ASPM L1 with its substates L1.1 and L1.2; no L0s. -/
  l1 : Bool := true
  l1p1 : Bool := true
  l1p2 : Bool := true
  l0s : Bool := false
  sriov : Bool := false
  ats : Bool := false
  pasid : Bool := false
deriving DecidableEq, Repr

/-- The values of its configuration header and its capabilities (R320). -/
def HostSide.pcie (h : HostSide) (v : Variant) : PcieFunction := { device := v.deviceId, revision := h.get Reg.DEV_REV.REV }

/-- What a register shows, before any latch: most are words of the register file; some are computed from the state (R2, R57, R77, R141,
R298, R301, R449, R465). DESIGN CHOICE (log entry 3); DEDUCED (log entry 56). -/
def HostSide.showWord (h : HostSide) (e : Env) (a : Nat) : Word :=
  let base := h.regs.readVal a
  let n (x : Nat) : Word := BitVec.ofNat 32 x
  if unitAbsent e.variant a then 0
  else if a = 0 then n (0x1D7A + e.variant.deviceId * 65536)
  else if a = 4 then base ||| n (e.variant.stacks * 16 + e.variant.ioDies * 256)
  else if a = 0x100000 then n (e.variant.stacks + e.variant.ioDies * 4 + (e.variant.groups + 6 + 4 * (e.variant.ioDies - 1)) * 256)
  else if a = 0xC0000 then n e.tick
  else if a = 0xC0004 then n (e.tick / 2 ^ 32)
  else if 0xC0100 ≤ a && a < 0xC0200 && a % 0x40 < 0xC then
    let v := h.tbAt ((a - 0xC0100) / 0x40) e.tick
    n (match a % 0x40 with | 0 => tbNs v | 4 => tbNs v / 2 ^ 32 | _ => tbFrac v)
  else if 0x200C0 ≤ a && a < 0x200E0 then
    let x : LogEntry := SMap.get (fun _ => {}) h.pm.log (h.get Reg.PM_LOG_SEL)
    if (h.pm.log.find (h.get Reg.PM_LOG_SEL)).isNone then 0 else n (leNat ((x.bytes.drop (a - 0x200C0)).take 4))
  else if 0x50000 ≤ a && a < 0x60000 && 0x200 ≤ a % 0x400 && a % 0x400 < 0x300 then h.evtWord ((a - 0x50000) / 0x400) (a % 0x400 / 4 - 0x80)
  else if 0x60000 ≤ a && a < 0x80000 && 0x1000 ≤ a % 0x2000 then h.capWord ((a - 0x60000) / 0x2000) (a % 0x1000 / 4)
  else if a = 0x600104 then base ||| 0x8000#32
  else if 0x400000 ≤ a && a < 0x490000 && a % 0x2000 = 0 then
    let site := (a - 0x400000) / 0x2000
    base ||| n (site + site / 9 * 2 ^ 17 + site / 36 * 2 ^ 20)
  else if a = 0x1009000 || a = 0x1009004 then n (h.pbaWord ((a - 0x1009000) / 4))
  else if 0x700080 ≤ a && a < 0x7000A0 then n (Config.romKeyHash.toNat / 2 ^ (8 * (a - 0x700080)))
  else base

/-- A host read of the word at `a`: before READY only the identity registers answer (R349); a proxied register's value comes with its
answer (R276); a _HI register reads its latch, a _LO register fills it, and RC fields clear (R5, R522). DEDUCED (log entry 56). -/
def HostSide.busRead (h : HostSide) (e : Env) (a : Nat) : HostSide :=
  if a % 4 != 0 || (!h.ready && 0x20 ≤ a) then { h with readData := 0 }
  else if 0xE0100 ≤ a && a < 0xF0000 && assigned a then h.cfgReadFrom (a - 0xE0000)
  else
    let v := if latched a then SMap.get resetWord h.latch a else h.showWord e a
    { h with readData := v, regs := h.regs.clearRC a,
             latch := (latchOf a).foldl (fun m x => m.put x (h.showWord e x)) h.latch }

/-- REGISTER_READ_CLEAR: a read of the word at `a` returns its value and clears its RC fields (R5). -/
def execRegisterReadClear (a : Nat) (s : State) : Host.Outcome State Fault Refusal := s.onHost fun e h => h.busRead e a

/-- LO_READ_LATCH: a read of a _LO register copies its partner into the latch (R522). -/
def execLoReadLatch (a : Nat) (s : State) : Host.Outcome State Fault Refusal :=
  s.onHost fun e h => if latchOf a = [] then h else h.busRead e a

end Sys2Proof.Machine
end

