-- ==== Sys2Proof/Machine/Bus.lean ====
section
/-! DEFINITION. One write of a BAR0 word with everything it does: the fields under their access codes and the commands that stand in the
word. It serves the debug port (R430) and the writes that a sleeping cluster held back (R440). -/

namespace Sys2Proof.Machine
open Sys2Proof

/-- The state after a command's meaning. -/
def State.after (s : State) (f : State → Host.Outcome State Fault Refusal) : State :=
  match f s with
  | .next t => t
  | _ => s

/-- A meaning that applies under a condition. -/
def State.afterIf (s : State) (c : Bool) (f : State → Host.Outcome State Fault Refusal) : State := if c then s.after f else s

/-- Index and offset of `a` in windows of `stride` bytes from `base`. -/
def winOf (base stride a : Nat) : Nat × Nat := ((a - base) / stride, (a - base) % stride)

/-- A write in the DEV and HIF blocks. -/
def State.busDev (s : State) (a : Nat) (v : Word) : State :=
  let reg := s.after (execRegisterWrite a v)
  let b (i : Nat) : Bool := v.getLsbD i
  if a = 0x14 then s.after (execHostAbiWrite v)
  else if a = 0x814 then (if b 8 then s.after (execDetFenceGo (v.toNat % 128)) else reg)
  else if a = 0xB00 then (s.afterIf (b 0) (execGstopStop 0)).afterIf (b 1) (execGstopRelease 0)
  else if 0xE00 ≤ a && a < 0x1000 && a % 0x40 = 0 then
    (let i := (a - 0xE00) / 0x40
     if b 0 || s.host.on (Reg.SRV_CTRL.EN i) then s.after (execSrvEnable (i + 1) v) else reg)
  else if 0x11000 ≤ a && a < 0x11800 && a % 0x20 = 8 then
    (let q := (a - 0x11000) / 0x20
     if b 0 then s.after (execSqEnable q v) else s.after (execSqReset q (some v)))
  else if 0x11000 ≤ a && a < 0x11800 && a % 0x20 = 0xC then
    (let q := (a - 0x11000) / 0x20
     (s.afterIf (b 0) (execSqRestart q)).afterIf (b 1) (execSqReset q none))
  else if 0x12000 ≤ a && a < 0x12800 && a % 0x20 = 8 then s.after (execCqEnable ((a - 0x12000) / 0x20) v)
  else if 0x13000 ≤ a && a < 0x13200 && a % 0x20 = 8 then s.after (execRrEnable ((a - 0x13000) / 0x20) v)
  else reg

/-- A write in the PM and CLK blocks. -/
def State.busPm (s : State) (a : Nat) (v : Word) : State :=
  let reg := s.after (execRegisterWrite a v)
  if a = 0x20004 then s.afterIf (v.getLsbD 0) execPmResume
  else if a = 0x30008 then s.after (execClkRstCmd v)
  else if a = 0x30020 then (if v.getLsbD 8 then s.after (execClkMonGo v) else reg)
  else reg

/-- A write in the LANE, CXP and IFL blocks. -/
def State.busLink (s : State) (a : Nat) (v : Word) : State :=
  let reg := s.after (execRegisterWrite a v)
  let b (i : Nat) : Bool := v.getLsbD i
  if a < 0x50000 then
    match winOf 0x40000 0x100 a with
    | (l, 0x10) => (reg.afterIf (b 0) (execLaneInjTx l)).afterIf (b 1) (execLaneInjRx l)
    | (l, 0x28) => s.afterIf (b 0) (execLaneCntClr l)
    | _ => reg
  else if a < 0x60000 then
    match winOf 0x50000 0x400 a with
    | (n, 0) => if b 0 then s.after (execCxpLinkEnable n v) else s.after (execCxpLinkDisable n v)
    | (n, 4) => s.afterIf (b 0) (execCxpRestart n)
    | (n, 0x24) => if b 0 then s.after (execCxpCcGo n v) else reg
    | (n, 0x44) => reg.afterIf (b 9) (execCxpEvtPop n)
    | _ => reg
  else
    match winOf 0x60000 0x2000 a with
    | (p, 0) => if b 0 then s.after (execIflEnable p v) else s.after (execIflDisable p v)
    | (p, 4) => s.afterIf (b 0) (execIflRetrain p)
    | _ => reg

/-- A write in the PIX block. -/
def State.busPix (s : State) (a : Nat) (v : Word) : State :=
  let reg := s.after (execRegisterWrite a v)
  let b (i : Nat) : Bool := v.getLsbD i
  if a < 0x90000 then
    match winOf 0x80000 0x1000 a with
    | (p, 4) => s.afterIf (b 0) (execPipeCommit p)
    | _ => reg
  else
    match winOf 0x90000 0x400 a with
    | (x, 0) =>
      if b 0 then s.after (execCtxEnable x v) else if s.host.on (Reg.CTX_CTRL.EN x) then s.after (execCtxDisable x v) else reg
    | (x, 4) => (s.afterIf (b 0) (execCtxCommit x)).afterIf (b 1) (execCtxAbort x)
    | (x, 0x220) => if b 0 then s.after (execSetGo x v) else reg
    | _ => reg

/-- A write in the TIME, ETH, FLD and MEM blocks. FABRIC runs two cycles a tick (R10, R192). -/
def State.busTime (s : State) (a : Nat) (v : Word) : State :=
  let reg := s.after (execRegisterWrite a v)
  let b (i : Nat) : Bool := v.getLsbD i
  let cycle := 2 * s.tick.toNat % 2048
  if a = 0xC0008 then
    (let t := if b 1 then s.after (execTimeCopy v) else reg
     t.afterIf (b 0) execTimeSnap)
  else if 0xC0100 ≤ a && a < 0xC0200 && a % 0x40 = 0x0C then s.after (execTbRateWrite ((a - 0xC0100) / 0x40) v)
  else if 0xC0100 ≤ a && a < 0xC0200 && a % 0x40 = 0x24 then
    (let n := (a - 0xC0100) / 0x40
     (s.afterIf (b 0) (execTbSet n)).afterIf (b 1) (execTbStep n))
  else if a = 0xD0020 || a = 0xD1020 then reg.afterIf (b 9) (execEthTxtsPop ((a - 0xD0000) / 0x1000))
  else if a = 0xE0004 then s.afterIf (b 0) execBarRelease
  else if a = 0x100008 then s.after (execMemSluCommit v cycle)
  else if 0x101000 ≤ a && a < 0x101680 && a % 0x40 = 0 then
    (let n := (a - 0x101000) / 0x40
     (reg.afterIf (b 0) (execSluCommit n cycle)).afterIf (b 1) (execSluAbort n))
  else reg

/-- A write in the CLU, CORE, GAUGE and HDW blocks. -/
def State.busCore (s : State) (a : Nat) (v : Word) : State :=
  let reg := s.after (execRegisterWrite a v)
  let b (i : Nat) : Bool := v.getLsbD i
  if a < 0x300000 then
    (let k := (a - 0x200000) / 0x20000
     let o := (a - 0x200000) % 0x20000
     if 0x10000 ≤ o && o < 0x10200 && o % 0x20 = 0 then
       (let i := (o - 0x10000) / 0x20
        if b 0 then s.after (execLscEnable k i v) else s.after (execLscDisable k i v))
     else reg)
  else if 0x400000 ≤ a && a < 0x490000 && a % 0x2000 = 0x44 then s.afterIf (b 0) (execCoreClearErr ((a - 0x400000) / 0x2000))
  else if a = 0x600000 then (s.afterIf (b 0) execGaugeSnap).afterIf (b 1) execGaugeClearAll
  else if a = 0x60012C then s.after (execTrcMark v)
  else if (cfgWordOf a).isSome then s.after (execCounterConfigWrite a v)
  else if a = 0x78000C then (if b 0 then s.after (execHdwDictCommit v) else reg)
  else reg

/-- The write of a word of BAR0 (R4, R5). DEDUCED (log entry 59). -/
def State.busWrite (s : State) (a : Nat) (v : Word) : State :=
  if a < 0x20000 then s.busDev a v
  else if a < 0x40000 then s.busPm a v
  else if a < 0x80000 then s.busLink a v
  else if a < 0xC0000 then s.busPix a v
  else if a < 0x200000 then s.busTime a v
  else s.busCore a v

/-- CLUSTER_WAKE_DONE: the exit latency of cluster `k` has passed and it accepts work (R434); register writes that waited for it take
effect in their order (R440). Units asleep stay asleep in a global stop (R441). -/
def execClusterWakeDone (k : Nat) (s : State) : Host.Outcome State Fault Refusal :=
  .next (if s.host.down || s.host.stopped || s.host.pm.dieOff || !(k ∈ s.host.pm.waking) then s
    else
      let h := s.host.awake k
      let mine := h.pm.writes.filter fun x => x.1 == k
      let h := { h with pm := { h.pm with writes := h.pm.writes.filter fun x => x.1 != k } }
      mine.foldl (fun s x => s.busWrite x.2.1 x.2.2) { s with host := h.settle })

end Sys2Proof.Machine
end

