-- ==== Sys2Proof/Machine/DebugPort.lean ====
section
/-! DEFINITION. The debug port on the test access port (R430). -/

namespace Sys2Proof.Machine
open Sys2Proof

def HostSide.setDbg (h : HostSide) (d : Debug) : HostSide := { h with dbg := d }
/-- The instruction register holds a debug instruction; the port acts only while CLK_DBG_CTRL.EN is 1 (R430). -/
def HostSide.onDebug (h : HostSide) (ir : Nat) (f : HostSide → HostSide) : HostSide :=
  let h := h.setDbg { h.dbg with ir := ir }
  if h.on Reg.CLK_DBG_CTRL.EN then f h else h

/-- TAP_RESET: TRST_N, or a Test-Logic-Reset, selects BYPASS; it resets only the TAP controller, in a host-side reset too (R423, R430). -/
def execTapReset (s : State) : Host.Outcome State Fault Refusal :=
  .next { s with host := s.host.setDbg { s.host.dbg with ir := 0xFF } }

/-- The instruction that an opcode of the instruction register selects: one of the table, or BYPASS for any other (R430). -/
def tapSelect (op : Nat) : Nat := if op ∈ [0x00, 0x01, 0x20, 0x21, 0x22, 0x23] then op else 0xFF

/-- DBG_CMD: opcode `op` is loaded into the instruction register and its data register is updated with `v` (R430). 0x20, DBG_CMD itself:
bits [1:0] = 1 requests a global stop with source 2, 2 releases one that the debug port requested. EXTEST and SAMPLE/PRELOAD put `v` into
the boundary-scan cells; an update of DBG_STATUS or of BYPASS does nothing, and one of DBG_ADDR or DBG_DATA is its own row. An opcode
not in the table selects BYPASS. DEDUCED (log entry 59). -/
def execDbgCmd (op v : Nat) (s : State) : Host.Outcome State Fault Refusal :=
  s.onHost fun _ h =>
    let ir := tapSelect (op % 256)
    let h := h.setDbg { h.dbg with ir := ir, scan := if ir < 2 then v else h.dbg.scan }
    if ir != 0x20 || !h.on Reg.CLK_DBG_CTRL.EN then h
    else if v % 4 = 1 then h.requestStop 2 else if v % 4 = 2 then h.releaseStop 2 else h

/-- TARGET, WRITE, UNIT and address of DBG_ADDR (R430). -/
def dbgTarget (v : Nat) : Nat := v % 8
def dbgWrite (v : Nat) : Bool := bit v 3
def dbgUnit (v : Nat) : Nat := v / 16 % 256
def dbgAddress (v : Nat) : Nat := v / 65536 % 2 ^ 48

/-- Is an access that DBG_ADDR asks for not made: its address outside its memory or misaligned, its unit absent, or a write to a
memory (R430)? -/
def dbgBad (e : Env) (v : Nat) : Bool :=
  let a := dbgAddress v
  match dbgTarget v with
  | 0 => a % 4 != 0 || 0x1000000 ≤ a
  | 1 => dbgWrite v || a % 64 != 0 || e.variant.groups ≤ a / 2 ^ 32 || 0xC0000000 ≤ a % 2 ^ 32
  | 2 => dbgWrite v || a % 64 != 0 || 8 ≤ dbgUnit v || 0x800000 ≤ a
  | 3 => dbgWrite v || a % 64 != 0 || 72 ≤ dbgUnit v || 0x200000 ≤ a
  | _ => true

/-- Does a debug access read a proxied FLD register (R276)? -/
def dbgProxied (v : Nat) : Bool := dbgTarget v == 0 && !dbgWrite v && 0xE0100 ≤ dbgAddress v && dbgAddress v < 0xF0000 && assigned (dbgAddress v)

/-- DBG_ADDR: an update starts the access and sets BUSY; one that may not be made sets ERR until the next update (R430). A read of a
proxied register sends its request at once. DEDUCED (log entry 59). -/
def execDbgAddr (v : Nat) (s : State) : Host.Outcome State Fault Refusal :=
  s.onHost fun e h => h.onDebug 0x22 fun h =>
    if h.dbg.busy || dbgBad e v then h.setDbg { h.dbg with err := true }
    else
      let h := h.setDbg { h.dbg with err := false, busy := true, addr := v }
      if dbgProxied v then h.busRead e (dbgAddress v) else h

/-- DBG_DATA: an update stages the value of the next BAR0 write (R430). DEDUCED (log entry 59). -/
def execDbgData (v : Nat) (s : State) : Host.Outcome State Fault Refusal :=
  s.onHost fun _ h => h.onDebug 0x23 fun h => h.setDbg { h.dbg with stage := BitVec.ofNat 32 v }

/-- What DBG_STATUS captures; zero while EN is 0 (R430). -/
def HostSide.dbgStatus (h : HostSide) : Nat :=
  if h.on Reg.CLK_DBG_CTRL.EN then h.get Reg.GSTOP_STATUS.STATE + 4 + 8 * b2n h.dbg.busy + 16 * b2n h.dbg.err + 32 * h.get Reg.CLK_DBG_CTRL.LOCK
  else 0

/-- What DBG_DATA captures: the data of the last completed read; zero while EN is 0 (R430). -/
def HostSide.dbgCapture (h : HostSide) : List Byte :=
  if h.on Reg.CLK_DBG_CTRL.EN then (h.dbg.data ++ List.replicate 64 0).take 64 else List.replicate 64 0

/-- The access is over: BUSY clears, and a read's data stand in DBG_DATA. -/
def HostSide.dbgDone (h : HostSide) (data : Option (List Byte)) : HostSide :=
  h.setDbg { h.dbg with busy := false, data := data.getD h.dbg.data }

/-- May a debug memory read be served: its memory neither asleep nor untrained (R201, R434)? DEDUCED (log entry 59). -/
def HostSide.dbgServed (h : HostSide) (v : Nat) : Bool :=
  match dbgTarget v with
  | 1 => h.hbmUp
  | 2 => !h.asleep (dbgUnit v)
  | _ => !h.asleep (dbgUnit v / 9)

/-- The granule that a debug memory read moves, without a look at its tile checksum (R430). -/
def HostSide.dbgGranule (h : HostSide) (v : Nat) : List Byte :=
  let a := dbgAddress v
  match dbgTarget v with
  | 1 => (h.hbmOf (a / 2 ^ 32)).read (a % 2 ^ 32) 64
  | 2 => (h.ls (dbgUnit v)).read a 64
  | _ => (h.core (dbgUnit v)).spad.read a 64

/-- DBG_ACCESS_DONE: the access in progress completes, in a global stop too (R430). A BAR0 access acts as a host access to the same
address; a read of a proxied register completes with its answer (R276). -/
def execDbgAccessDone (s : State) : Host.Outcome State Fault Refusal :=
  let d := s.host.dbg
  let a := dbgAddress d.addr
  let value (h : HostSide) : List Byte := toLE 4 h.readData.toNat ++ List.replicate 60 0
  .next (if s.host.down || !d.busy then s
    else if dbgTarget d.addr != 0 then
      (if s.host.dbgServed d.addr then { s with host := s.host.dbgDone (some (s.host.dbgGranule d.addr)) } else s)
    else if dbgWrite d.addr then
      (let t := s.busWrite a d.stage
       { t with host := t.host.dbgDone none })
    else if dbgProxied d.addr then
      (if s.host.bar.reqs.any (fun r => r.read) then s else { s with host := s.host.dbgDone (some (value s.host)) })
    else
      (let h := (s.host.busRead s.env a).settle
       { s with host := h.dbgDone (some (value h)) }))

end Sys2Proof.Machine
end

