-- ==== Sys2Proof/Machine/Dispatch.lean ====
section
/-! DEFINITION. Which meaning each command has: one arm per constructor of Instr. -/

namespace Sys2Proof.Machine
open Sys2Proof

def exec (i : Instr) (s : State) : Host.Outcome State Fault Refusal :=
  match i with
  | .registerWrite a v => Sys2Proof.Machine.execRegisterWrite a v s
  | .registerReadClear a => Sys2Proof.Machine.execRegisterReadClear a s
  | .loReadLatch a => Sys2Proof.Machine.execLoReadLatch a s
  | .commitPointApply => Sys2Proof.Machine.execCommitPointApply s
  | .laneInjTx l => Sys2Proof.Machine.execLaneInjTx l s
  | .laneInjRx l => Sys2Proof.Machine.execLaneInjRx l s
  | .lanePeriodicInject l => Sys2Proof.Machine.execLanePeriodicInject l s
  | .laneCntClr l => Sys2Proof.Machine.execLaneCntClr l s
  | .eqClamp l peak => Sys2Proof.Machine.execEqClamp l peak s
  | .prbsLock l bitsN wire => Sys2Proof.Machine.execPrbsLock l bitsN wire s
  | .prbsUnlock l bitsN errs wire => Sys2Proof.Machine.execPrbsUnlock l bitsN errs wire s
  | .cxpLinkEnable n v => Sys2Proof.Machine.execCxpLinkEnable n v s
  | .cxpLinkDisable n v => Sys2Proof.Machine.execCxpLinkDisable n v s
  | .cxpMasterLock n => Sys2Proof.Machine.execCxpMasterLock n s
  | .cxpDiscTimeout n => Sys2Proof.Machine.execCxpDiscTimeout n s
  | .cxpBootstrapReadDone n ok last conn speed hs => Sys2Proof.Machine.execCxpBootstrapReadDone n ok last conn speed hs s
  | .cxpConfigAck n => Sys2Proof.Machine.execCxpConfigAck n s
  | .cxpSwitchLocked n => Sys2Proof.Machine.execCxpSwitchLocked n s
  | .cxpSwitchTimeout n => Sys2Proof.Machine.execCxpSwitchTimeout n s
  | .cxpLockLoss n => Sys2Proof.Machine.execCxpLockLoss n s
  | .cxpPowerFault n => Sys2Proof.Machine.execCxpPowerFault n s
  | .cxpRestart n => Sys2Proof.Machine.execCxpRestart n s
  | .cxpCcGo n v => Sys2Proof.Machine.execCxpCcGo n v s
  | .cxpCcReply n result data => Sys2Proof.Machine.execCxpCcReply n result data s
  | .cxpCcTimeout n => Sys2Proof.Machine.execCxpCcTimeout n s
  | .cxpStreamPacket n id fmt crcBad gap data => Sys2Proof.Machine.execCxpStreamPacket n id fmt crcBad gap data s
  | .cxpHeartbeatRx n camTime => Sys2Proof.Machine.execCxpHeartbeatRx n camTime s
  | .cxpHbTimeout n => Sys2Proof.Machine.execCxpHbTimeout n s
  | .cxpEventPacket n data => Sys2Proof.Machine.execCxpEventPacket n data s
  | .cxpEvtPop n => Sys2Proof.Machine.execCxpEvtPop n s
  | .iflEnable p v => Sys2Proof.Machine.execIflEnable p v s
  | .iflDisable p v => Sys2Proof.Machine.execIflDisable p v s
  | .iflRetrain p => Sys2Proof.Machine.execIflRetrain p s
  | .iflTxStart p => Sys2Proof.Machine.execIflTxStart p s
  | .iflMarkerRx p k wire skew => Sys2Proof.Machine.execIflMarkerRx p k wire skew s
  | .iflMarkerMissing p k => Sys2Proof.Machine.execIflMarkerMissing p k s
  | .iflFlitRx p w0 w1 => Sys2Proof.Machine.execIflFlitRx p w0 w1 s
  | .iflAckTimeout p => Sys2Proof.Machine.execIflAckTimeout p s
  | .iflCreditSend p => Sys2Proof.Machine.execIflCreditSend p s
  | .lineTick j => Sys2Proof.Machine.execLineTick j s
  | .pixLineComplete n x => Sys2Proof.Machine.execPixLineComplete n x s
  | .pixTickTimeout x => Sys2Proof.Machine.execPixTickTimeout x s
  | .pipeTurnStart p => Sys2Proof.Machine.execPipeTurnStart p s
  | .pixLineProcessed p bad ecc => Sys2Proof.Machine.execPixLineProcessed p bad ecc s
  | .pipeFreeNotice k h => Sys2Proof.Machine.execPipeFreeNotice k h s
  | .ctxCommit x => Sys2Proof.Machine.execCtxCommit x s
  | .ctxAbort x => Sys2Proof.Machine.execCtxAbort x s
  | .pipeCommit p => Sys2Proof.Machine.execPipeCommit p s
  | .ctxEnable x v => Sys2Proof.Machine.execCtxEnable x v s
  | .ctxDisable x v => Sys2Proof.Machine.execCtxDisable x v s
  | .setGo x v => Sys2Proof.Machine.execSetGo x v s
  | .settingsAck x ok => Sys2Proof.Machine.execSettingsAck x ok s
  | .nop c => Sys2Proof.Machine.execNop c s
  | .load c => Sys2Proof.Machine.execLoad c s
  | .store c ecc => Sys2Proof.Machine.execStore c ecc s
  | .mma c ecc => Sys2Proof.Machine.execMma c ecc s
  | .drain c ecc => Sys2Proof.Machine.execDrain c ecc s
  | .vop c ecc => Sys2Proof.Machine.execVop c ecc s
  | .vlut c ecc => Sys2Proof.Machine.execVlut c ecc s
  | .vsort c ecc => Sys2Proof.Machine.execVsort c ecc s
  | .window c ecc => Sys2Proof.Machine.execWindow c ecc s
  | .wait c => Sys2Proof.Machine.execWait c s
  | .waitSatisfied c => Sys2Proof.Machine.execWaitSatisfied c s
  | .tset c => Sys2Proof.Machine.execTset c s
  | .call c ecc => Sys2Proof.Machine.execCall c ecc s
  | .endList c => Sys2Proof.Machine.execEndList c s
  | .yieldPoint c cycles => Sys2Proof.Machine.execYieldPoint c cycles s
  | .verdict c ecc => Sys2Proof.Machine.execVerdict c ecc s
  | .listTileFetch c ecc => Sys2Proof.Machine.execListTileFetch c ecc s
  | .commandComplete c units ecc => Sys2Proof.Machine.execCommandComplete c units ecc s
  | .transferComplete c space bad down data ecc merge => Sys2Proof.Machine.execTransferComplete c space bad down data ecc merge s
  | .coreClearErr site => Sys2Proof.Machine.execCoreClearErr site s
  | .stripePost k h => Sys2Proof.Machine.execStripePost k h s
  | .stripeRelease k h j => Sys2Proof.Machine.execStripeRelease k h j s
  | .rdyTokSignal k h => Sys2Proof.Machine.execRdyTokSignal k h s
  | .freeTokSignal k h => Sys2Proof.Machine.execFreeTokSignal k h s
  | .lscEnable k h v => Sys2Proof.Machine.execLscEnable k h v s
  | .lscDisable k h v => Sys2Proof.Machine.execLscDisable k h v s
  | .sluCommit n cycle => Sys2Proof.Machine.execSluCommit n cycle s
  | .memSluCommit tables cycle => Sys2Proof.Machine.execMemSluCommit tables cycle s
  | .sluAbort n => Sys2Proof.Machine.execSluAbort n s
  | .sluicePeriodBoundary temp0 temp1 => Sys2Proof.Machine.execSluicePeriodBoundary temp0 temp1 s
  | .sluiceSlot n k ready ce ue => Sys2Proof.Machine.execSluiceSlot n k ready ce ue s
  | .openSlotArbitrate n requests withdrawn => Sys2Proof.Machine.execOpenSlotArbitrate n requests withdrawn s
  | .emergencyRequest n stale => Sys2Proof.Machine.execEmergencyRequest n stale s
  | .remoteAccessRx port write far len rif data bad ecc => Sys2Proof.Machine.execRemoteAccessRx port write far len rif data bad ecc s
  | .hbmInitDone => Sys2Proof.Machine.execHbmInitDone s
  | .coreFence site cause => Sys2Proof.Machine.execCoreFence site cause s
  | .detFenceGo site => Sys2Proof.Machine.execDetFenceGo site s
  | .corePollTimeout site => Sys2Proof.Machine.execCorePollTimeout site s
  | .spareSelfTest k pass => Sys2Proof.Machine.execSpareSelfTest k pass s
  | .recipeHalt => Sys2Proof.Machine.execRecipeHalt s
  | .spareRestart k => Sys2Proof.Machine.execSpareRestart k s
  | .undecidedRelease seq => Sys2Proof.Machine.execUndecidedRelease seq s
  | .lineDigestDone ctx => Sys2Proof.Machine.execLineDigestDone ctx s
  | .verdictRelease seq => Sys2Proof.Machine.execVerdictRelease seq s
  | .sealStart n => Sys2Proof.Machine.execSealStart n s
  | .sealSigned n => Sys2Proof.Machine.execSealSigned n s
  | .gstopStop source => Sys2Proof.Machine.execGstopStop source s
  | .gstopTakeEffect => Sys2Proof.Machine.execGstopTakeEffect s
  | .gstopRelease source => Sys2Proof.Machine.execGstopRelease source s
  | .gstopResume => Sys2Proof.Machine.execGstopResume s
  | .encInputChange ch a b => Sys2Proof.Machine.execEncInputChange ch a b s
  | .encOpenDetect ch pair => Sys2Proof.Machine.execEncOpenDetect ch pair s
  | .encZEdge ch level => Sys2Proof.Machine.execEncZEdge ch level s
  | .hallCodeChange ch code => Sys2Proof.Machine.execHallCodeChange ch code s
  | .sincosSample ch sin cos => Sys2Proof.Machine.execSincosSample ch sin cos s
  | .serFrameStart ch dataLow => Sys2Proof.Machine.execSerFrameStart ch dataLow s
  | .serStartTimeout ch => Sys2Proof.Machine.execSerStartTimeout ch s
  | .serEndTimeout ch => Sys2Proof.Machine.execSerEndTimeout ch s
  | .serFrameDone ch raw delay n => Sys2Proof.Machine.execSerFrameDone ch raw delay n s
  | .observerUpdate ch n => Sys2Proof.Machine.execObserverUpdate ch n s
  | .encModeChange ch v => Sys2Proof.Machine.execEncModeChange ch v s
  | .encLatch ch => Sys2Proof.Machine.execEncLatch ch s
  | .encClrCnt ch => Sys2Proof.Machine.execEncClrCnt ch s
  | .encCalClr ch => Sys2Proof.Machine.execEncCalClr ch s
  | .encBwSet ch => Sys2Proof.Machine.execEncBwSet ch s
  | .encKApply ch => Sys2Proof.Machine.execEncKApply ch s
  | .repStep k => Sys2Proof.Machine.execRepStep k s
  | .barrierFrameLaunch toHost wait waits => Sys2Proof.Machine.execBarrierFrameLaunch toHost wait waits s
  | .barrierFrameRx toHost frame => Sys2Proof.Machine.execBarrierFrameRx toHost frame s
  | .barrierSyncLoss toHost => Sys2Proof.Machine.execBarrierSyncLoss toHost s
  | .heartbeat => Sys2Proof.Machine.execHeartbeat s
  | .fieldHeartbeat => Sys2Proof.Machine.execFieldHeartbeat s
  | .encSnapshot => Sys2Proof.Machine.execEncSnapshot s
  | .diChange => Sys2Proof.Machine.execDiChange s
  | .ejectReport => Sys2Proof.Machine.execEjectReport s
  | .fault => Sys2Proof.Machine.execFault s
  | .cfgReadResponse => Sys2Proof.Machine.execCfgReadResponse s
  | .ejectArm => Sys2Proof.Machine.execEjectArm s
  | .doSet => Sys2Proof.Machine.execDoSet s
  | .cfgWrite => Sys2Proof.Machine.execCfgWrite s
  | .cfgRead => Sys2Proof.Machine.execCfgRead s
  | .cfgResponseTimeout => Sys2Proof.Machine.execCfgResponseTimeout s
  | .snapshotTimer periodic k => Sys2Proof.Machine.execSnapshotTimer periodic k s
  | .strobePulseEnd k => Sys2Proof.Machine.execStrobePulseEnd k s
  | .weirFire g now => Sys2Proof.Machine.execWeirFire g now s
  | .weirPulseEnd g out now => Sys2Proof.Machine.execWeirPulseEnd g out now s
  | .valveFrame p => Sys2Proof.Machine.execValveFrame p s
  | .diFilterChange inputs => Sys2Proof.Machine.execDiFilterChange inputs s
  | .doFault k hot => Sys2Proof.Machine.execDoFault k hot s
  | .lpUndervoltage ok => Sys2Proof.Machine.execLpUndervoltage ok s
  | .safeStateEntry => Sys2Proof.Machine.execSafeStateEntry s
  | .barRelease => Sys2Proof.Machine.execBarRelease s
  | .fieldLoss => Sys2Proof.Machine.execFieldLoss s
  | .tbRateWrite n v => Sys2Proof.Machine.execTbRateWrite n v s
  | .tbSet n => Sys2Proof.Machine.execTbSet n s
  | .tbStep n => Sys2Proof.Machine.execTbStep n s
  | .timeSnap => Sys2Proof.Machine.execTimeSnap s
  | .timeCopy v => Sys2Proof.Machine.execTimeCopy v s
  | .cmpFire k => Sys2Proof.Machine.execCmpFire k s
  | .ppsPulseEnd => Sys2Proof.Machine.execPpsPulseEnd s
  | .timeCapture falling => Sys2Proof.Machine.execTimeCapture falling s
  | .ethRxFrame p good data => Sys2Proof.Machine.execEthRxFrame p good data s
  | .ethTxDone p => Sys2Proof.Machine.execEthTxDone p s
  | .ethTxtsPop p => Sys2Proof.Machine.execEthTxtsPop p s
  | .tb1SyncSend => Sys2Proof.Machine.execTb1SyncSend s
  | .tb1SyncRx p => Sys2Proof.Machine.execTb1SyncRx p s
  | .tb1DelayReqRx p => Sys2Proof.Machine.execTb1DelayReqRx p s
  | .tb1DelayRespRx p => Sys2Proof.Machine.execTb1DelayRespRx p s
  | .tb1Holdover => Sys2Proof.Machine.execTb1Holdover s
  | .hostAbiWrite v => Sys2Proof.Machine.execHostAbiWrite v s
  | .sqDoorbell q v => Sys2Proof.Machine.execSqDoorbell q v s
  | .cqHeadDoorbell q v => Sys2Proof.Machine.execCqHeadDoorbell q v s
  | .rrHeadDoorbell n v => Sys2Proof.Machine.execRrHeadDoorbell n v s
  | .sqEnable q v => Sys2Proof.Machine.execSqEnable q v s
  | .sqRestart q => Sys2Proof.Machine.execSqRestart q s
  | .sqReset q cfg => Sys2Proof.Machine.execSqReset q cfg s
  | .sqResetDone q => Sys2Proof.Machine.execSqResetDone q s
  | .cqEnable q v => Sys2Proof.Machine.execCqEnable q v s
  | .rrEnable n v => Sys2Proof.Machine.execRrEnable n v s
  | .descriptorFetch q pcieError => Sys2Proof.Machine.execDescriptorFetch q pcieError s
  | .completionWrite q => Sys2Proof.Machine.execCompletionWrite q s
  | .recipeLoad q => Sys2Proof.Machine.execRecipeLoad q s
  | .recipeCommit q => Sys2Proof.Machine.execRecipeCommit q s
  | .recipeDisarm q => Sys2Proof.Machine.execRecipeDisarm q s
  | .recipeDrop q => Sys2Proof.Machine.execRecipeDrop q s
  | .jobRun q ecc => Sys2Proof.Machine.execJobRun q ecc s
  | .jobCancel q => Sys2Proof.Machine.execJobCancel q s
  | .textSample q => Sys2Proof.Machine.execTextSample q s
  | .copy q outcome got ecc merge => Sys2Proof.Machine.execCopy q outcome got ecc merge s
  | .fill q ecc => Sys2Proof.Machine.execFill q ecc s
  | .ethTx q => Sys2Proof.Machine.execEthTx q s
  | .ethRxPost q => Sys2Proof.Machine.execEthRxPost q s
  | .imagePiece q flashFail => Sys2Proof.Machine.execImagePiece q flashFail s
  | .powerTol q => Sys2Proof.Machine.execPowerTol q s
  | .partitionSet q => Sys2Proof.Machine.execPartitionSet q s
  | .updateBegin q flashFail => Sys2Proof.Machine.execUpdateBegin q flashFail s
  | .updateAbort q flashFail => Sys2Proof.Machine.execUpdateAbort q flashFail s
  | .updateActivate q flashFail => Sys2Proof.Machine.execUpdateActivate q flashFail s
  | .updateConfirm q flashFail => Sys2Proof.Machine.execUpdateConfirm q flashFail s
  | .updateRevert q flashFail => Sys2Proof.Machine.execUpdateRevert q flashFail s
  | .recoveryWrite q flashFail => Sys2Proof.Machine.execRecoveryWrite q flashFail s
  | .settingsSave q flashFail => Sys2Proof.Machine.execSettingsSave q flashFail s
  | .settingsRead q flashFail => Sys2Proof.Machine.execSettingsRead q flashFail s
  | .settingsWrite q flashFail => Sys2Proof.Machine.execSettingsWrite q flashFail s
  | .settingsErase q flashFail => Sys2Proof.Machine.execSettingsErase q flashFail s
  | .certGet q flashFail => Sys2Proof.Machine.execCertGet q flashFail s
  | .pubkeyGet q => Sys2Proof.Machine.execPubkeyGet q s
  | .quote q => Sys2Proof.Machine.execQuote q s
  | .quoteSigned => Sys2Proof.Machine.execQuoteSigned s
  | .resultRecordPublish n => Sys2Proof.Machine.execResultRecordPublish n s
  | .busMasterEnableChange on => Sys2Proof.Machine.execBusMasterEnableChange on s
  | .statePageUpdate => Sys2Proof.Machine.execStatePageUpdate s
  | .msixVectorTimer v => Sys2Proof.Machine.execMsixVectorTimer v s
  | .msixUnmask v => Sys2Proof.Machine.execMsixUnmask v s
  | .sliceBoundary p => Sys2Proof.Machine.execSliceBoundary p s
  | .preemptionComplete job => Sys2Proof.Machine.execPreemptionComplete job s
  | .preLimitExpired job => Sys2Proof.Machine.execPreLimitExpired job s
  | .contextSaveDone job k bad ecc => Sys2Proof.Machine.execContextSaveDone job k bad ecc s
  | .contextRestoreDone job k bad ecc => Sys2Proof.Machine.execContextRestoreDone job k bad ecc s
  | .oxbowGranuleLand job c spa status data => Sys2Proof.Machine.execOxbowGranuleLand job c spa status data s
  | .oxbowDrainDone job k => Sys2Proof.Machine.execOxbowDrainDone job k s
  | .jobEnd job => Sys2Proof.Machine.execJobEnd job s
  | .servingStepEnd p => Sys2Proof.Machine.execServingStepEnd p s
  | .servingPoll p => Sys2Proof.Machine.execServingPoll p s
  | .srvEnable p v => Sys2Proof.Machine.execSrvEnable p v s
  | .hdwAdmit => Sys2Proof.Machine.execHdwAdmit s
  | .hdwLaneStart => Sys2Proof.Machine.execHdwLaneStart s
  | .hdwDecodeDone k err => Sys2Proof.Machine.execHdwDecodeDone k err s
  | .hdwEmerge => Sys2Proof.Machine.execHdwEmerge s
  | .hdwStopped => Sys2Proof.Machine.execHdwStopped s
  | .hdwDictCommit v => Sys2Proof.Machine.execHdwDictCommit v s
  | .hdwDictBuildDone => Sys2Proof.Machine.execHdwDictBuildDone s
  | .hdwBatchTimeout => Sys2Proof.Machine.execHdwBatchTimeout s
  | .hdwBatchWrite => Sys2Proof.Machine.execHdwBatchWrite s
  | .hdwBatchFree c => Sys2Proof.Machine.execHdwBatchFree c s
  | .gaugeSnap => Sys2Proof.Machine.execGaugeSnap s
  | .gaugeSnapTake => Sys2Proof.Machine.execGaugeSnapTake s
  | .gaugeClearAll => Sys2Proof.Machine.execGaugeClearAll s
  | .counterConfigWrite a v => Sys2Proof.Machine.execCounterConfigWrite a v s
  | .traceRecord b => Sys2Proof.Machine.execTraceRecord b s
  | .traceWrite buf => Sys2Proof.Machine.execTraceWrite buf s
  | .traceBucketRefill => Sys2Proof.Machine.execTraceBucketRefill s
  | .traceSampleTimer => Sys2Proof.Machine.execTraceSampleTimer s
  | .trcMark v => Sys2Proof.Machine.execTrcMark v s
  | .iflEventSend p => Sys2Proof.Machine.execIflEventSend p s
  | .rootClockLost => Sys2Proof.Machine.execRootClockLost s
  | .resetPower prog => Sys2Proof.Machine.execResetPower prog s
  | .resetPin => Sys2Proof.Machine.execResetPin s
  | .resetPerst => Sys2Proof.Machine.execResetPerst s
  | .flr => Sys2Proof.Machine.execFlr s
  | .wdogExpire => Sys2Proof.Machine.execWdogExpire s
  | .clkRstCmd v => Sys2Proof.Machine.execClkRstCmd v s
  | .hostResetRelease => Sys2Proof.Machine.execHostResetRelease s
  | .selfTestDone failSites failLs => Sys2Proof.Machine.execSelfTestDone failSites failLs s
  | .bootCandidateSelect => Sys2Proof.Machine.execBootCandidateSelect s
  | .firmwareStarted => Sys2Proof.Machine.execFirmwareStarted s
  | .deviceReady => Sys2Proof.Machine.execDeviceReady s
  | .fieldReset => Sys2Proof.Machine.execFieldReset s
  | .fieldRomBoot => Sys2Proof.Machine.execFieldRomBoot s
  | .fldLoadStart => Sys2Proof.Machine.execFldLoadStart s
  | .fldLoadData v => Sys2Proof.Machine.execFldLoadData v s
  | .fldLoadRun expected => Sys2Proof.Machine.execFldLoadRun expected s
  | .clkMonGo v => Sys2Proof.Machine.execClkMonGo v s
  | .clkMonDone n => Sys2Proof.Machine.execClkMonDone n s
  | .tapReset => Sys2Proof.Machine.execTapReset s
  | .dbgCmd op v => Sys2Proof.Machine.execDbgCmd op v s
  | .dbgAddr v => Sys2Proof.Machine.execDbgAddr v s
  | .dbgData v => Sys2Proof.Machine.execDbgData v s
  | .dbgAccessDone => Sys2Proof.Machine.execDbgAccessDone s
  | .clusterSleepEntry k state => Sys2Proof.Machine.execClusterSleepEntry k state s
  | .clusterWake k => Sys2Proof.Machine.execClusterWake k s
  | .clusterWakeDone k => Sys2Proof.Machine.execClusterWakeDone k s
  | .powerCapWindow est => Sys2Proof.Machine.execPowerCapWindow est s
  | .thermalSample cd0 cd1 io0 io1 hbm0 hbm1 => Sys2Proof.Machine.execThermalSample cd0 cd1 io0 io1 hbm0 hbm1 s
  | .thermalThrottleStep => Sys2Proof.Machine.execThermalThrottleStep s
  | .computeDieTrip volt => Sys2Proof.Machine.execComputeDieTrip volt s
  | .pmResume => Sys2Proof.Machine.execPmResume s
  | .voltClampWindow => Sys2Proof.Machine.execVoltClampWindow s
  | .avsVoltageWrite n floor ok => Sys2Proof.Machine.execAvsVoltageWrite n floor ok s
  | .avsCurrentRead n frame v ok => Sys2Proof.Machine.execAvsCurrentRead n frame v ok s
  | .wedgeDetect unit => Sys2Proof.Machine.execWedgeDetect unit s
  | .undecWindow => Sys2Proof.Machine.execUndecWindow s
  | .fatalError code unit detail => Sys2Proof.Machine.execFatalError code unit detail s
  | .laneCdrLockChange l sig lock bitsN errs peak => Sys2Proof.Machine.execLaneCdrLockChange l sig lock bitsN errs peak s
  | .ethLinkChange p lock hiBer => Sys2Proof.Machine.execEthLinkChange p lock hiBer s
  | .encOpenClear ch pair => Sys2Proof.Machine.execEncOpenClear ch pair s
  | .bridgedCountStep ch n => Sys2Proof.Machine.execBridgedCountStep ch n s
  | .strobePulseStart k => Sys2Proof.Machine.execStrobePulseStart k s
  | .outputFaultEnd k => Sys2Proof.Machine.execOutputFaultEnd k s
  | .stackTrainingFail stack => Sys2Proof.Machine.execStackTrainingFail stack s

end Sys2Proof.Machine
end

