-- ==== Sys2Proof/Safety.lean ====
section
/-! DEFINITION. The terms in which statements speak of the machine: whether the host side answers, what a command may change, and the
invariant that every step keeps. -/

namespace Sys2Proof.Machine
open Sys2Proof

/-- A run of `n` steps that meets neither a fault nor a refusal. -/
def SafeRun (s : State) : Nat → Prop
  | 0 => True
  | n + 1 => ∃ t, step s = .next t ∧ SafeRun t n

/-! ### Where a command acts -/

/-- Where a command acts and what holds it back: the data plane, which a global stop holds (R232); a BAR write, which the device ignores
before READY (R349); the rest of the host side; the field die; or a command of reset, boot, power or debug that has rules of its own. -/
inductive Plane where
  | data | bar | host | field | boot
deriving DecidableEq, Repr

/-- The plane of a command; a barrier frame is launched at one end and received at the other. DESIGN CHOICE (log entry 11). -/
def planeOf : Instr → Plane
  | .registerWrite _ _ => .bar
  | .registerReadClear _ => .host
  | .loReadLatch _ => .host
  | .commitPointApply => .data
  | .laneInjTx _ => .bar
  | .laneInjRx _ => .bar
  | .lanePeriodicInject _ => .host
  | .laneCntClr _ => .bar
  | .eqClamp _ _ => .host
  | .prbsLock _ _ _ => .host
  | .prbsUnlock _ _ _ _ => .host
  | .cxpLinkEnable _ _ => .bar
  | .cxpLinkDisable _ _ => .bar
  | .cxpMasterLock _ => .host
  | .cxpDiscTimeout _ => .host
  | .cxpBootstrapReadDone _ _ _ _ _ _ => .host
  | .cxpConfigAck _ => .host
  | .cxpSwitchLocked _ => .host
  | .cxpSwitchTimeout _ => .host
  | .cxpLockLoss _ => .host
  | .cxpPowerFault _ => .host
  | .cxpRestart _ => .bar
  | .cxpCcGo _ _ => .bar
  | .cxpCcReply _ _ _ => .host
  | .cxpCcTimeout _ => .host
  | .cxpStreamPacket _ _ _ _ _ _ => .host
  | .cxpHeartbeatRx _ _ => .host
  | .cxpHbTimeout _ => .host
  | .cxpEventPacket _ _ => .host
  | .cxpEvtPop _ => .bar
  | .iflEnable _ _ => .bar
  | .iflDisable _ _ => .bar
  | .iflRetrain _ => .bar
  | .iflTxStart _ => .host
  | .iflMarkerRx _ _ _ _ => .host
  | .iflMarkerMissing _ _ => .host
  | .iflFlitRx _ _ _ => .host
  | .iflAckTimeout _ => .host
  | .iflCreditSend _ => .host
  | .lineTick _ => .host
  | .pixLineComplete _ _ => .host
  | .pixTickTimeout _ => .host
  | .pipeTurnStart _ => .data
  | .pixLineProcessed _ _ _ => .data
  | .pipeFreeNotice _ _ => .data
  | .ctxCommit _ => .bar
  | .ctxAbort _ => .bar
  | .pipeCommit _ => .bar
  | .ctxEnable _ _ => .bar
  | .ctxDisable _ _ => .bar
  | .setGo _ _ => .bar
  | .settingsAck _ _ => .host
  | .nop _ => .data
  | .load _ => .data
  | .store _ _ => .data
  | .mma _ _ => .data
  | .drain _ _ => .data
  | .vop _ _ => .data
  | .vlut _ _ => .data
  | .vsort _ _ => .data
  | .window _ _ => .data
  | .wait _ => .data
  | .waitSatisfied _ => .data
  | .tset _ => .data
  | .call _ _ => .data
  | .endList _ => .data
  | .yieldPoint _ _ => .data
  | .verdict _ _ => .data
  | .listTileFetch _ _ => .data
  | .commandComplete _ _ _ => .data
  | .transferComplete _ _ _ _ _ _ _ => .data
  | .coreClearErr _ => .bar
  | .stripePost _ _ => .data
  | .stripeRelease _ _ _ => .data
  | .rdyTokSignal _ _ => .data
  | .freeTokSignal _ _ => .data
  | .lscEnable _ _ _ => .bar
  | .lscDisable _ _ _ => .bar
  | .sluCommit _ _ => .bar
  | .memSluCommit _ _ => .bar
  | .sluAbort _ => .bar
  | .sluicePeriodBoundary _ _ => .host
  | .sluiceSlot _ _ _ _ _ => .host
  | .openSlotArbitrate _ _ _ => .data
  | .emergencyRequest _ _ => .host
  | .remoteAccessRx _ _ _ _ _ _ _ _ => .data
  | .hbmInitDone => .host
  | .coreFence _ _ => .host
  | .detFenceGo _ => .bar
  | .corePollTimeout _ => .host
  | .spareSelfTest _ _ => .host
  | .recipeHalt => .data
  | .spareRestart _ => .data
  | .undecidedRelease _ => .data
  | .lineDigestDone _ => .host
  | .verdictRelease _ => .data
  | .sealStart _ => .host
  | .sealSigned _ => .host
  | .gstopStop _ => .host
  | .gstopTakeEffect => .host
  | .gstopRelease _ => .host
  | .gstopResume => .host
  | .encInputChange _ _ _ => .field
  | .encOpenDetect _ _ => .field
  | .encZEdge _ _ => .field
  | .hallCodeChange _ _ => .field
  | .sincosSample _ _ _ => .field
  | .serFrameStart _ _ => .field
  | .serStartTimeout _ => .field
  | .serEndTimeout _ => .field
  | .serFrameDone _ _ _ _ => .field
  | .observerUpdate _ _ => .field
  | .encModeChange _ _ => .field
  | .encLatch _ => .field
  | .encClrCnt _ => .field
  | .encCalClr _ => .field
  | .encBwSet _ => .field
  | .encKApply _ => .field
  | .repStep _ => .field
  | .barrierFrameLaunch toHost _ _ => if toHost then .field else .host
  | .barrierFrameRx toHost _ => if toHost then .host else .field
  | .barrierSyncLoss toHost => if toHost then .host else .field
  | .heartbeat => .field
  | .fieldHeartbeat => .host
  | .encSnapshot => .host
  | .diChange => .host
  | .ejectReport => .host
  | .fault => .host
  | .cfgReadResponse => .host
  | .ejectArm => .field
  | .doSet => .field
  | .cfgWrite => .field
  | .cfgRead => .field
  | .cfgResponseTimeout => .host
  | .snapshotTimer _ _ => .field
  | .strobePulseEnd _ => .field
  | .weirFire _ _ => .field
  | .weirPulseEnd _ _ _ => .field
  | .valveFrame _ => .field
  | .diFilterChange _ => .field
  | .doFault _ _ => .field
  | .lpUndervoltage _ => .field
  | .safeStateEntry => .field
  | .barRelease => .bar
  | .fieldLoss => .host
  | .tbRateWrite _ _ => .bar
  | .tbSet _ => .bar
  | .tbStep _ => .bar
  | .timeSnap => .bar
  | .timeCopy _ => .bar
  | .cmpFire _ => .host
  | .ppsPulseEnd => .host
  | .timeCapture _ => .host
  | .ethRxFrame _ _ _ => .host
  | .ethTxDone _ => .host
  | .ethTxtsPop _ => .bar
  | .tb1SyncSend => .host
  | .tb1SyncRx _ => .host
  | .tb1DelayReqRx _ => .host
  | .tb1DelayRespRx _ => .host
  | .tb1Holdover => .host
  | .hostAbiWrite _ => .host
  | .sqDoorbell _ _ => .bar
  | .cqHeadDoorbell _ _ => .bar
  | .rrHeadDoorbell _ _ => .bar
  | .sqEnable _ _ => .bar
  | .sqRestart _ => .bar
  | .sqReset _ _ => .bar
  | .sqResetDone _ => .host
  | .cqEnable _ _ => .bar
  | .rrEnable _ _ => .bar
  | .descriptorFetch _ _ => .host
  | .completionWrite _ => .host
  | .recipeLoad _ => .data
  | .recipeCommit _ => .data
  | .recipeDisarm _ => .data
  | .recipeDrop _ => .data
  | .jobRun _ _ => .data
  | .jobCancel _ => .data
  | .textSample _ => .data
  | .copy _ _ _ _ _ => .data
  | .fill _ _ => .data
  | .ethTx _ => .data
  | .ethRxPost _ => .data
  | .imagePiece _ _ => .host
  | .powerTol _ => .host
  | .partitionSet _ => .host
  | .updateBegin _ _ => .host
  | .updateAbort _ _ => .host
  | .updateActivate _ _ => .host
  | .updateConfirm _ _ => .host
  | .updateRevert _ _ => .host
  | .recoveryWrite _ _ => .host
  | .settingsSave _ _ => .host
  | .settingsRead _ _ => .host
  | .settingsWrite _ _ => .host
  | .settingsErase _ _ => .host
  | .certGet _ _ => .host
  | .pubkeyGet _ => .host
  | .quote _ => .host
  | .quoteSigned => .host
  | .resultRecordPublish _ => .host
  | .busMasterEnableChange _ => .host
  | .statePageUpdate => .host
  | .msixVectorTimer _ => .host
  | .msixUnmask _ => .bar
  | .sliceBoundary _ => .data
  | .preemptionComplete _ => .data
  | .preLimitExpired _ => .data
  | .contextSaveDone _ _ _ _ => .data
  | .contextRestoreDone _ _ _ _ => .data
  | .oxbowGranuleLand _ _ _ _ _ => .data
  | .oxbowDrainDone _ _ => .data
  | .jobEnd _ => .data
  | .servingStepEnd _ => .data
  | .servingPoll _ => .data
  | .srvEnable _ _ => .bar
  | .hdwAdmit => .data
  | .hdwLaneStart => .data
  | .hdwDecodeDone _ _ => .data
  | .hdwEmerge => .data
  | .hdwStopped => .data
  | .hdwDictCommit _ => .bar
  | .hdwDictBuildDone => .host
  | .hdwBatchTimeout => .data
  | .hdwBatchWrite => .data
  | .hdwBatchFree _ => .data
  | .gaugeSnap => .bar
  | .gaugeSnapTake => .host
  | .gaugeClearAll => .bar
  | .counterConfigWrite _ _ => .bar
  | .traceRecord _ => .host
  | .traceWrite _ => .data
  | .traceBucketRefill => .host
  | .traceSampleTimer => .host
  | .trcMark _ => .bar
  | .iflEventSend _ => .host
  | .rootClockLost => .boot
  | .resetPower _ => .boot
  | .resetPin => .boot
  | .resetPerst => .boot
  | .flr => .boot
  | .wdogExpire => .boot
  | .clkRstCmd _ => .boot
  | .hostResetRelease => .boot
  | .selfTestDone _ _ => .host
  | .bootCandidateSelect => .host
  | .firmwareStarted => .boot
  | .deviceReady => .host
  | .fieldReset => .field
  | .fieldRomBoot => .field
  | .fldLoadStart => .field
  | .fldLoadData _ => .field
  | .fldLoadRun _ => .field
  | .clkMonGo _ => .bar
  | .clkMonDone _ => .host
  | .tapReset => .boot
  | .dbgCmd _ _ => .host
  | .dbgAddr _ => .host
  | .dbgData _ => .host
  | .dbgAccessDone => .boot
  | .clusterSleepEntry _ _ => .data
  | .clusterWake _ => .data
  | .clusterWakeDone _ => .boot
  | .powerCapWindow _ => .host
  | .thermalSample _ _ _ _ _ _ => .host
  | .thermalThrottleStep => .host
  | .computeDieTrip _ => .host
  | .pmResume => .bar
  | .voltClampWindow => .host
  | .avsVoltageWrite _ _ _ => .host
  | .avsCurrentRead _ _ _ _ => .host
  | .wedgeDetect _ => .data
  | .undecWindow => .host
  | .fatalError _ _ _ => .host
  | .laneCdrLockChange _ _ _ _ _ _ => .host
  | .ethLinkChange _ _ _ => .host
  | .encOpenClear _ _ => .field
  | .bridgedCountStep _ _ => .field
  | .strobePulseStart _ => .field
  | .outputFaultEnd _ => .field
  | .stackTrainingFail _ => .host

end Sys2Proof.Machine

namespace Sys2Proof
open Sys2Proof.Machine

/-- The plane of a command. -/
abbrev Instr.plane (c : Instr) : Plane := planeOf c

/-- A memory as the errors that its reads met leave it (R184). -/
def Ecc.left (x : Ecc) (st : Store) : Store := (x.ue ++ x.alt).foldl (fun st w => st.alter w.1 w.2) st

end Sys2Proof

namespace Sys2Proof.Machine
open Sys2Proof

/-! ### Where the machine stands -/

/-- The host side is out of reset. -/
abbrev State.up (s : State) : Prop := s.host.down = false
/-- The host side is out of reset and answers BAR accesses: DEV_STATUS.READY (R349). -/
abbrev State.open_ (s : State) : Prop := s.up ∧ s.host.ready = true
/-- The data plane runs: no global stop is in force (R232). -/
abbrev State.running (s : State) : Prop := s.up ∧ s.host.stopped = false

/-! ### What a command leaves -/

/-- Every register word of the host side reads as before, but those whose address is in `ws` and HIF_IRQ_PENDING. -/
def HostSide.wordsBut (g h : HostSide) (ws : List Nat) : Prop :=
  ∀ a, a ∉ ws → a ≠ Reg.HIF_IRQ_PENDING.addr → g.word a = h.word a

/-- Nothing outside the host side has changed. -/
abbrev State.hostOnly (s t : State) : Prop :=
  t.pending = s.pending ∧ t.tick = s.tick ∧ t.variant = s.variant ∧ t.field = s.field

/-- Nothing outside the field die has changed. -/
abbrev State.fieldOnly (s t : State) : Prop :=
  t.pending = s.pending ∧ t.tick = s.tick ∧ t.variant = s.variant ∧ t.host = s.host

/-- Only registers of the host side have changed, and among them only words at an address in `ws` and HIF_IRQ_PENDING; MSI-X vectors
may have been signalled for it (R347). -/
def State.regsOnly (s t : State) (ws : List Nat) : Prop :=
  s.hostOnly t ∧ { t.host with regs := s.host.regs, vecs := s.host.vecs } = s.host ∧ t.host.wordsBut s.host ws

/-- On the host side only registers, MSI-X vectors and the parts that `back` puts back have changed, and among the registers only words at
an address in `ws` and HIF_IRQ_PENDING (R347). -/
def State.changes (s t : State) (back : HostSide → HostSide) (ws : List Nat) : Prop :=
  s.hostOnly t ∧ back { t.host with regs := s.host.regs, vecs := s.host.vecs } = s.host ∧ t.host.wordsBut s.host ws

/-- The same, where Gauge's counters of cores, clusters and the device may have counted as well. -/
def State.changesAndCounts (s t : State) (back : HostSide → HostSide) (ws : List Nat) : Prop :=
  s.hostOnly t ∧ back { t.host with regs := s.host.regs, vecs := s.host.vecs } = s.host
    ∧ ∀ a, (a < 0x600000 ∨ 0x610000 ≤ a) → a ∉ ws → a ≠ Reg.HIF_IRQ_PENDING.addr → t.host.word a = s.host.word a

/-- In the field die only registers and the parts that `back` puts back have changed, and among the registers only words at an address
in `ws`. -/
def State.fieldChanges (s t : State) (back : FieldDie → FieldDie) (ws : List Nat) : Prop :=
  s.fieldOnly t ∧ back { t.field with regs := s.field.regs } = s.field ∧ ∀ a, a ∉ ws → t.field.regs.word a = s.field.regs.word a

/-- Channel `ch` has met an illegal transition: ILLEGAL is set, ENC_ILLEGAL has one more, and Q is unchanged (R243). -/
def State.illegalStep (s t : State) (ch : Nat) : Prop :=
  s.fieldOnly t ∧ t.field.get (Reg.ENC_STATUS.ILLEGAL ch) = 1
    ∧ t.field.get (Reg.ENC_ILLEGAL ch) = min (s.field.get (Reg.ENC_ILLEGAL ch) + 1) (2 ^ (Reg.ENC_ILLEGAL ch).w - 1)
    ∧ t.field.get (Reg.ENC_RAW ch) = s.field.get (Reg.ENC_RAW ch)

/-- Only field-side registers have changed, and among them only words at an address in `ws`. -/
def State.fieldRegsOnly (s t : State) (ws : List Nat) : Prop :=
  s.fieldOnly t ∧ { t.field with regs := s.field.regs } = s.field ∧ ∀ a, a ∉ ws → t.field.regs.word a = s.field.regs.word a

/-! ### Where units stand -/

/-- Camera link `n` is in state `st` for `cause`, and STATE_CHG is set (R51, R60). -/
def State.linkIn (t : State) (n st cause : Nat) : Prop :=
  t.host.linkState n = st ∧ t.host.get (Reg.CXP_STATE.CAUSE n) = cause ∧ bit (t.host.get (Reg.CXP_INT_STATUS n)) 0 = true

/-- Does a step of channel `ch` to (A, B) count under DECODE 0, 1 or 2 (R242)? -/
def decodes (s : State) (ch : Nat) (a b : Bool) : Bool :=
  s.field.get (Reg.ENC_CFG.DECODE ch) = 0 || (s.field.get (Reg.ENC_CFG.DECODE ch) = 1 && a != (s.field.chan ch).a)
    || (s.field.get (Reg.ENC_CFG.DECODE ch) = 2 && !b && !(s.field.chan ch).b)

/-- What a LINE_TICK frame says of source `j` (R275). -/
def tickBits (frame j : Nat) : Nat := (frameRead frame).payload / 2 ^ (8 * j) % 256

/-- The marker word at an expected position of port lane `i`: what the bits on its wire hold without the stuffing; in loopback the wire
carries what the port's own transmitter puts on it (R67, R69, R77). -/
def State.markerIn (s : State) (p i : Nat) (wire : List Bool) : Nat :=
  let bits := if s.host.looped p i then (s.host.ownMarker p i).2 else wire
  bitsNat ((unstuff (SMap.get (fun _ => {}) (s.host.port p).run i) (s.host.heard (portLane p i) bits)).1.take 64)

/-- Port `p` has had a down event: SEEK, counted and shown, its replay and receive buffers empty, and no core has a transfer over it
left but one that is parked (R75, R76). -/
def State.portFell (s t : State) (p : Nat) : Prop :=
  t.host.portState p = 1 ∧ t.host.get (Reg.IFL_DOWN p) = min (s.host.get (Reg.IFL_DOWN p) + 1) 0xFFFF
    ∧ (t.host.port p).replay = [] ∧ (t.host.port p).rx = [] ∧ bit (t.host.get (Reg.IFL_INT_STATUS p)) 1 = true
    ∧ ∀ c site, c < 64 → s.host.siteOf c = some site → ∀ x ∈ (t.host.core site).xfers, x.over p = true → x.parked = true

/-- The saturating counter `f` has counted one more than in `h` (R6). -/
def HostSide.counted (g h : HostSide) (f : RF) : Prop := g.get f = min (h.get f + 1) (2 ^ f.w - 1)

/-- A site is fenced for `cause`: its state, DET_FENCE_LAST and the list of fenced sites show it (R211, R212). -/
def State.fencedFor (t : State) (site cause : Nat) : Prop :=
  t.host.coreState site = 6 ∧ site ∈ t.host.insp.fenced ∧ t.host.get Reg.DET_FENCE_LAST.SITE = site
    ∧ t.host.get Reg.DET_FENCE_LAST.CAUSE = cause

/-- Logical core `c` stands on `site`, runs a list (timed or free), and its next command is `w` (R113, R117, R142); a tile it has
fetched ahead has met its check (R523). -/
abbrev State.issues (s : State) (c site w : Nat) (timed : Bool) : Prop :=
  site < 72 ∧ s.host.siteOf c = some site ∧ s.host.coreState site = (if timed then 2 else 1) ∧ (s.host.core site).nextCmd = some w
    ∧ (s.host.core site).frames.head?.map (·.timed) = some timed
    ∧ ((s.host.core site).ahead.all fun t => !t.bad) = true

/-- The core at `site` has started a command in a unit: the command stands in it as `f`, behind those already there (R113, R119). -/
def State.started (s t : State) (site : Nat) (f : Flight) : Prop :=
  (t.host.core site).flights = (s.host.core site).flights ++ [f]

/-- The canonical form of a memory with tile checksums: its bytes, its stored checksums that differ from those of the bytes, its poisoned
tiles ascending (R178, R180; log entry 6). -/
def Store.wf (st : Store) : Bool :=
  st.mem.wf && SMap.wf st.crc st.sums && decide (st.poison.Pairwise (· < ·))

/-- The writes of a command of a unit, applied to a scratchpad (R115, R119). -/
def Flight.onto (f : Flight) (st : Store) : Store := f.writes.foldl (fun st x => st.write x.1 x.2) st

/-- The core at `site` has stepped past one command and stays in its state (R113). -/
def State.passed (s t : State) (site : Nat) : Prop :=
  t.host.coreState site = s.host.coreState site
    ∧ (t.host.core site).frames.map (·.hdr) = (s.host.core site).frames.map (·.hdr)
    ∧ (t.host.core site).frames.head?.map (·.pos) = (s.host.core site).frames.head?.map (·.pos + 1)

/-- A started descriptor of queue `q` stands ended with a status, a detail and a result (R330). -/
def State.ended (t : State) (q : Nat) (d : Started) (status detail result : Nat) : Prop :=
  { d with fin := some { status, detail, result } } ∈ t.host.started q

/-- The host side has gone into reset for a cause (R423): every register word reads as after reset, but the cause, the causes so far and
the count of lost clocks (R424); the field die, the pending commands and the host's memory are as they were. That a cause arriving during
another sets LAST to the new one, that causes at one tick are of one cycle, with the lowest in LAST, and that every cause clears Bus Master
Enable is log entry 57 (DEDUCED). -/
def State.resetFor (s t : State) (cause : Nat) : Prop :=
  s.hostOnly t ∧ t.host.down = true
    ∧ t.host.get Reg.CLK_RST_CAUSE.LAST = (if s.sameReset then min cause (s.host.get Reg.CLK_RST_CAUSE.LAST) else cause)
    ∧ t.host.get Reg.CLK_RST_CAUSE.HIST =
      ((if cause = 1 then 1 else s.host.get Reg.CLK_RST_CAUSE.HIST ||| 2 ^ (cause - 1))
        ||| (if s.sameReset then 2 ^ (s.host.get Reg.CLK_RST_CAUSE.LAST - 1) else 0)) % 128
    ∧ (∀ a, a ≠ Reg.CLK_RST_CAUSE.LAST.addr → a ≠ Reg.CLK_LOL_COUNT.addr → t.host.word a = resetWord a)
    ∧ t.host.mem = s.host.mem ∧ t.host.bme = false

/-- What a reset other than a power-on leaves standing (R424). -/
def State.warm (s t : State) : Prop :=
  t.host.hdw.dict = s.host.hdw.dict ∧ (∀ p, (t.host.pipe p).tbl = (s.host.pipe p).tbl) ∧ t.host.mgmt.flash = s.host.mgmt.flash

/-- The mailbox command that is next of all queues is `cmd`, in descriptor `d` of queue `q`, and its input can be read (R330, R473,
R484). -/
abbrev State.mbox (s : State) (q : Nat) (d : Started) (cmd : Nat) : Prop :=
  s.up ∧ s.host.oldestMbox = some (q, d) ∧ d.opcode = 0x40 ∧ d.fld 8 2 = cmd ∧ d.accepted = false
    ∧ s.host.mboxErr d = false

/-- A mailbox command has written its output and completed with the bytes written as its result (R484); every other byte of host memory
is as it was. -/
def State.answered (s t : State) (q : Nat) (d : Started) (bs : List Byte) : Prop :=
  t.ended q d 0 0 bs.length ∧ t.host.hostRead (d.fld 32 8) bs.length = bs
    ∧ ∀ a, (a < d.fld 32 8 ∨ d.fld 32 8 + bs.length ≤ a) → t.host.mem.byte a = s.host.mem.byte a

/-- A mailbox command or piece was refused and changed nothing else. -/
def State.refused (s t : State) (q : Nat) (d : Started) (status detail : Nat) : Prop :=
  t.ended q d status detail 0 ∧ s.changes t (fun g => { g with sq := s.host.sq }) []

/-- Gauge as after reset (R415). -/
def State.gaugeReset (t : State) : Prop :=
  (∀ i, i < 256 → t.host.get2 (Reg.GCNT_VALUE_LO i) (Reg.GCNT_VALUE_HI i) = 0 ∧ t.host.get (Reg.GCNT_CFG.EVENT i) = 0
      ∧ t.host.get (Reg.GCNT_CFG.OPEN i) = 0 ∧ t.host.get (Reg.GCNT_CFG.OVF i) = 0
      ∧ t.host.get2 (Reg.GSNAP_LO i) (Reg.GSNAP_HI i) = 0)
    ∧ (∀ k j, k < 8 → j < 32 → t.host.get2 (Reg.CLCNT_VALUE_LO k j) (Reg.CLCNT_VALUE_HI k j) = 0
      ∧ t.host.get (Reg.CLCNT_CFG.EVENT k j) = 0 ∧ t.host.get (Reg.CLCNT_CFG.OVF k j) = 0)
    ∧ (∀ c j, c < 64 → j < 16 → t.host.get2 (Reg.CNT_VALUE_LO c j) (Reg.CNT_VALUE_HI c j) = 0
      ∧ t.host.get (Reg.CNT_CFG.EVENT c j) = 0 ∧ t.host.get (Reg.CNT_CFG.OVF c j) = 0)
    ∧ t.host.get Reg.TRC_CTRL.EN = 0 ∧ t.host.get Reg.TRC_WR = 0 ∧ t.host.get Reg.TRC_RD = 0
    ∧ (∀ b, t.host.traceBuf b = ({} : TraceBuf)) ∧ ∀ p, t.host.gauge.evSeq.get (fun _ => 0) p = 0

/-- Shared partitions, jobs and serving as after reset (R378). -/
def State.computeReset (t : State) : Prop :=
  (∀ k, t.host.partOf k = none) ∧ t.host.comp.jobs = [] ∧ t.host.comp.oxbow = [] ∧ t.host.comp.saved = [] ∧ t.host.comp.serving = []
    ∧ (∀ a, ((0xC00 ≤ a ∧ a < 0xD00) ∨ (0xE00 ≤ a ∧ a < 0x1000)) → t.host.word a = resetWord a)
    ∧ (∀ m, m < 64 → t.host.get (Reg.CLI_JOB_COUNT m) = 0) ∧ ∀ q, t.host.started q = []

/-- Register words of a compare unit that its firing writes (R302, R303). -/
def cmpWords : List Nat :=
  Reg.TIME_INT_STATUS.addr :: (List.range 8).flatMap fun i =>
    [(Reg.CMP_CTRL.EN i).addr, (Reg.CMP_TARGET_LO i).addr, (Reg.CMP_TARGET_HI i).addr, (Reg.CMP_STATUS.FIRED i).addr, (Reg.CMP_SKIP i).addr]

/-! ### The invariants -/

/-- HIF_IRQ_PENDING shows the asserted summaries (R347). -/
abbrev HostSide.settled (h : HostSide) : Prop := h.get Reg.HIF_IRQ_PENDING = h.regs.summaries

/-- The host side's pending summaries are up to date. -/
abbrev State.settled (s : State) : Prop := s.host.settled

/-- Every job in the job table belongs to a shared partition, a client and cores that exist (R20, R326, R358). -/
abbrev State.jobsOk (s : State) : Prop :=
  ∀ j ∈ s.host.comp.jobs, 1 ≤ j.part ∧ j.part ≤ 8 ∧ j.client < 256 ∧ ∀ c ∈ j.cores, c < 64

/-- The Weir holds at most 4,096 entries (R282). -/
abbrev State.weirBounded (s : State) : Prop := s.field.weirUsed ≤ 4096

end Sys2Proof.Machine
end

