-- ==== Sys2Proof/Certificates/Slice0/Obligations.lean ====
section
/-! DEFINITION. The statements for the provers, family by family of the command table. Each says what a command does when it completes,
and what it leaves; the docstrings name the rules of spec/ they rest on. -/

open Sys2Proof Sys2Proof.Machine

/-- How a command comes to run. That a step on an empty queue is one TIME cycle, and what counts in it, is the model's choice (log
entries 1, 14). -/
def Obligations.StepTakesTheFront : Prop :=
  (∀ (c : Instr) (rest : List Instr) (s : State), step { s with pending := c :: rest } = exec c { s with pending := rest })
  ∧ (∀ s : State, s.pending = [] → s.host.down = true → step s = .next { s with tick := s.tick + 1 })
  ∧ (∀ s : State, s.pending = [] → ∃ t, step s = .next t ∧ t.tick = s.tick + 1 ∧ t.pending = [] ∧ t.variant = s.variant ∧ t.field = s.field
      ∧ { t.host with regs := s.host.regs, vecs := s.host.vecs, cores := s.host.cores } = s.host
      ∧ (∀ site, { (t.host.core site) with busyM := (s.host.core site).busyM, busyD := (s.host.core site).busyD, busyV := (s.host.core site).busyV, waited := (s.host.core site).waited } = s.host.core site)
      ∧ ∀ a, (a < 0x600000 ∨ 0x610000 ≤ a) → a ≠ Reg.HIF_IRQ_PENDING.addr → t.host.word a = s.host.word a)
  ∧ (∀ (s : State) (i : Nat), s.pending = [] → s.up → s.host.stopped = true → i < 256 → s.host.regs.counting 0x601000 0x602000 0x60 none = [i] →
    s.host.get2 (Reg.GCNT_VALUE_LO i) (Reg.GCNT_VALUE_HI i) + 2 < 2 ^ 48 →
    ∃ t, step s = .next t ∧ t.host.get2 (Reg.GCNT_VALUE_LO i) (Reg.GCNT_VALUE_HI i)
      = s.host.get2 (Reg.GCNT_VALUE_LO i) (Reg.GCNT_VALUE_HI i) + 2)

/-- R232, R298, R349, R398, R427, R434, R445: the state after reset. The product is the model's choice (log entry 2). -/
def Obligations.ResetState : Prop :=
  State.reset.pending = [] ∧ State.reset.tick = 0#64 ∧ State.reset.variant = .km7_120 ∧ State.reset.up
  ∧ State.reset.host.get Reg.CLK_BOOT_STAGE = 1 ∧ State.reset.host.ready = false ∧ State.reset.host.get Reg.GSTOP_STATUS.STATE = 0
  ∧ State.reset.host.get Reg.DEV_ABI.ACTIVE = 0 ∧ State.reset.host.allOff = true ∧ State.reset.host.bme = false
  ∧ State.reset.host.insp.armed = none ∧ State.reset.host.get Reg.HDW_CTRL.EN = 0
  ∧ (∀ k, k < 8 → State.reset.host.cluPower k = 0) ∧ State.reset.host.get Reg.PM_THROTTLE.F = 256
  ∧ State.reset.host.get Reg.PM_TJ_THROTTLE = 100 ∧ State.reset.field.ctl = 0
  ∧ State.reset.settled ∧ State.reset.weirBounded ∧ State.reset.jobsOk

/-- R378, R415: Gauge and the shared partitions after every reset. -/
def Obligations.ResetLeavesGaugeAndPartitions : Prop :=
  State.reset.gaugeReset ∧ State.reset.computeReset
  ∧ (∀ (s : State) (c : Instr), (c = .resetPin ∨ c = .resetPerst ∨ c = .rootClockLost ∨ ∃ prog, c = .resetPower prog) →
    ∃ t, exec c s = .next t ∧ t.gaugeReset ∧ t.computeReset ∧ t.host.mem = s.host.mem)
  ∧ (∀ s : State, s.open_ → ∃ t, exec .flr s = .next t ∧ t.gaugeReset ∧ t.computeReset ∧ t.host.mem = s.host.mem)
  ∧ (∀ s : State, s.up → s.host.on Reg.CLK_WDOG.EN = true →
    ∃ t, exec .wdogExpire s = .next t ∧ t.gaugeReset ∧ t.computeReset ∧ t.host.mem = s.host.mem)
  ∧ (∀ (s : State) (v : Word), s.open_ → v.getLsbD 0 = true → v.toNat / 2 ^ 16 = 0x4B37 →
    ∃ t, exec (.clkRstCmd v) s = .next t ∧ t.gaugeReset ∧ t.computeReset ∧ t.host.mem = s.host.mem)

/-- R282, R347: two invariants of every step, and that no step stops. -/
def Obligations.StepInvariants : Prop :=
  (∀ s : State, ∃ t, step s = .next t)
  ∧ (∀ s t : State, step s = .next t → s.settled → t.settled)
  ∧ (∀ s t : State, step s = .next t → s.weirBounded → t.weirBounded)

/-- R20, R326, R358: an invariant of every step; other statements have it as a premise. -/
def Obligations.StepKeepsJobsLegal : Prop :=
  ∀ s t : State, step s = .next t → s.jobsOk → t.jobsOk

/-- R13, R232, R349, R423, R424: the sides of the machine and what holds a command back. -/
def Obligations.WhatEachCommandMayTouch : Prop :=
  (∀ (c : Instr) (s t : State), exec c s = .next t → t.pending = s.pending ∧ t.variant = s.variant)
  ∧ (∀ (c : Instr) (s : State), c.plane = .data → s.settled → s.host.stopped = true → exec c s = .next s)
  ∧ (∀ (c : Instr) (s : State), c.plane = .bar → s.settled → s.host.ready = false → exec c s = .next s)
  ∧ (∀ (c : Instr) (s : State), (c.plane = .data ∨ c.plane = .bar ∨ c.plane = .host) → s.host.down = true → exec c s = .next s)
  ∧ (∀ (c : Instr) (s t : State), (c.plane = .data ∨ c.plane = .bar ∨ c.plane = .host) → exec c s = .next t → s.hostOnly t)
  ∧ (∀ (c : Instr) (s t : State) (d : FieldDie), (c.plane = .data ∨ c.plane = .bar ∨ c.plane = .host) →
    (∀ q ff, c ≠ .settingsSave q ff) → (∀ q, c ≠ .quote q) → exec c s = .next t →
    exec c { s with field := d } = .next { t with field := d })
  ∧ (∀ (c : Instr) (s t : State), c.plane = .field → exec c s = .next t → s.fieldOnly t)
  ∧ (∀ (c : Instr) (s t : State) (h : HostSide), c.plane = .field → h.bar.port.locked = s.host.bar.port.locked → exec c s = .next t →
    exec c { s with host := h } = .next { t with host := h })

/-- R4, R5, R298, R349, R522: register accesses. -/
def Obligations.RegisterAccesses : Prop :=
  (∀ (rs : RegFile) (a : Nat) (v : Word) (r : RegRow) (f : RF), r ∈ regRows a → f = ⟨a, r.lo, r.w⟩ → r.lo + r.w ≤ 32 →
    (∀ r' ∈ regRows a, r' = r ∨ r'.lo + r'.w ≤ r.lo ∨ r.lo + r.w ≤ r'.lo) →
    (r.acc = .rw → (rs.accWrite a v false).get f = f.ofWord v)
    ∧ (r.acc = .w1c → (rs.accWrite a v false).get f = f.ofWord (rs.word a &&& ~~~ v))
    ∧ (r.acc = .w1s → (rs.accWrite a v false).get f = f.ofWord (rs.word a ||| v))
    ∧ ((r.acc = .ro ∨ r.acc = .wo ∨ r.acc = .rc) → (rs.accWrite a v false).get f = rs.get f)
    ∧ f.ofWord (rs.readVal a) = (if r.acc = .wo then 0 else rs.get f)
    ∧ (rs.clearRC a).get f = (if r.acc = .rc then 0 else rs.get f))
  ∧ (∀ (s : State) (v : Word), s.open_ → ∃ t, exec (.registerWrite 0x40 v) s = .next t ∧ t.host.word 0x40 = v ∧ s.regsOnly t [0x40])
  ∧ (∀ s : State, s.open_ → ∃ t, exec (.registerReadClear 0x81C) s = .next t ∧ t.host.readData = s.host.word 0x81C
      ∧ t.host.get Reg.DET_FENCE_COUNT = 0 ∧ s.changes t (fun g => { g with readData := s.host.readData }) [0x81C])
  ∧ (∀ s : State, s.open_ → ∃ t, exec (.loReadLatch 0xC0000) s = .next t ∧ t.host.readData.toNat = s.tick.toNat % 2 ^ 32
      ∧ (t.host.latch.get resetWord 0xC0004).toNat = s.tick.toNat / 2 ^ 32
      ∧ (∀ a, a ≠ 0xC0004 → t.host.latch.get resetWord a = s.host.latch.get resetWord a)
      ∧ s.changes t (fun g => { g with readData := s.host.readData, latch := s.host.latch }) [])
  ∧ (∀ s : State, s.open_ → ∃ t, exec (.registerReadClear 0xC0004) s = .next t
      ∧ t.host.readData = s.host.latch.get resetWord 0xC0004 ∧ s.changes t (fun g => { g with readData := s.host.readData }) [])
  ∧ (∀ (s : State) (a : Nat), s.up → s.host.ready = false → 0x20 ≤ a → ∃ t, exec (.registerReadClear a) s = .next t
      ∧ t.host.readData = 0#32 ∧ s.changes t (fun g => { g with readData := s.host.readData }) [])

/-- R37 to R42, R47: injection on a lane, its counters, its PRBS checker, its clamp and its CDR lock. That TX and RX are ignored
while RATE is not 0 is the model's reading, and so is that a lane without power shows no level (log entry 21). -/
def Obligations.LaneInjectionAndChecker : Prop :=
  (∀ (s : State) (l : Nat), s.open_ → l < s.variant.lanes → chainLane l = true → s.host.get (Reg.LANE_INJ.RATE l) = 0 →
    ∃ t, exec (.laneInjTx l) s = .next t ∧ s.changes t (fun g => { g with lanes := s.host.lanes }) []
      ∧ t.host.lane l = { s.host.lane l with txInv := (s.host.lane l).txInv + 1, txFlip := true } ∧ ∀ m, m ≠ l → t.host.lane m = s.host.lane m)
  ∧ (∀ (s : State) (l : Nat), s.open_ → l < s.variant.lanes → s.host.get (Reg.LANE_INJ.RATE l) = 0 →
    ∃ t, exec (.laneInjRx l) s = .next t ∧ s.changes t (fun g => { g with lanes := s.host.lanes }) []
      ∧ t.host.lane l = { s.host.lane l with rxInv := (s.host.lane l).rxInv + 1, rxFlip := true }
      ∧ ∀ m, m ≠ l → t.host.lane m = s.host.lane m)
  ∧ (∀ (s : State) (l : Nat), s.open_ → s.settled → s.host.get (Reg.LANE_INJ.RATE l) ≠ 0 →
    exec (.laneInjTx l) s = .next s ∧ exec (.laneInjRx l) s = .next s)
  ∧ (∀ (s : State) (l : Nat), s.up → l < s.variant.lanes → s.host.get (Reg.LANE_INJ.RATE l) ≠ 0 → s.host.on (Reg.LANE_CTRL.EN l) = true →
    ∃ t, exec (.lanePeriodicInject l) s = .next t ∧ s.changes t (fun g => { g with lanes := s.host.lanes }) []
      ∧ t.host.lane l = (if chainLane l then { s.host.lane l with txInv := (s.host.lane l).txInv + 1, txFlip := true }
          else { s.host.lane l with rxInv := (s.host.lane l).rxInv + 1, rxFlip := true })
      ∧ ∀ m, m ≠ l → t.host.lane m = s.host.lane m)
  ∧ (∀ (s : State) (l : Nat), s.open_ → l < s.variant.lanes →
    ∃ t, exec (.laneCntClr l) s = .next t
      ∧ s.regsOnly t [(Reg.LANE_ERR_LO l).addr, (Reg.LANE_ERR_HI l).addr, (Reg.LANE_BIT_LO l).addr, (Reg.LANE_BIT_HI l).addr]
      ∧ t.host.get2 (Reg.LANE_ERR_LO l) (Reg.LANE_ERR_HI l) = 0 ∧ t.host.get2 (Reg.LANE_BIT_LO l) (Reg.LANE_BIT_HI l) = 0)
  ∧ (∀ (s : State) (l bits : Nat) (wire : List Bool), s.up → l < s.variant.lanes → s.host.on (Reg.LANE_PRBS.CHK_EN l) = true →
    s.host.on (Reg.LANE_CTRL.EN l) = true → 64 ≤ wire.length →
    prbsPiece (s.host.get (Reg.LANE_PRBS.PAT l))
      ((((s.host.laneCount l bits 0).heard l wire).drop (wire.length - 64)).map fun b => b != s.host.on (Reg.LANE_PRBS.INV l)) = true →
    ∃ t, exec (.prbsLock l bits wire) s = .next t ∧ t.host.get (Reg.LANE_STATUS.PRBS_LOCK l) = 1
      ∧ s.changes t (fun g => { g with lanes := s.host.lanes }) [(Reg.LANE_STATUS.PRBS_LOCK l).addr, (Reg.LANE_ERR_LO l).addr,
          (Reg.LANE_ERR_HI l).addr, (Reg.LANE_BIT_LO l).addr, (Reg.LANE_BIT_HI l).addr]
      ∧ ∀ m, m ≠ l → m ≠ loopLane l → t.host.lane m = s.host.lane m)
  ∧ (∀ pat st n : Nat, 0 < st → st < 2 ^ (prbsTaps pat).1 → 64 ≤ n → prbsPiece pat ((prbsBits pat n st).1.drop (n - 64)) = true)
  ∧ (∀ (s : State) (l bits errs : Nat) (wire got : List Bool) (st : Nat), s.up → l < s.variant.lanes →
    s.host.get (Reg.LANE_STATUS.PRBS_LOCK l) = 1 →
    got = ((s.host.laneCount l bits errs).heard l wire).map (fun b => b != s.host.on (Reg.LANE_PRBS.INV l)) →
    st = prbsSkip (s.host.get (Reg.LANE_PRBS.PAT l)) bits (s.host.lane l).chk →
    32 ≤ prbsErrors (s.host.get (Reg.LANE_PRBS.PAT l)) (prbsSkip (s.host.get (Reg.LANE_PRBS.PAT l)) (wire.length - 1024) st)
      (got.drop (wire.length - 1024)) →
    ∃ t, exec (.prbsUnlock l bits errs wire) s = .next t ∧ t.host.get (Reg.LANE_STATUS.PRBS_LOCK l) = 0
      ∧ t.host.get2 (Reg.LANE_ERR_LO l) (Reg.LANE_ERR_HI l) = min (2 ^ 48 - 1) (s.host.get2 (Reg.LANE_ERR_LO l) (Reg.LANE_ERR_HI l)
          + errs + prbsErrors (s.host.get (Reg.LANE_PRBS.PAT l)) st got)
      ∧ s.changes t (fun g => { g with lanes := s.host.lanes }) [(Reg.LANE_STATUS.PRBS_LOCK l).addr, (Reg.LANE_ERR_LO l).addr,
          (Reg.LANE_ERR_HI l).addr, (Reg.LANE_BIT_LO l).addr, (Reg.LANE_BIT_HI l).addr]
      ∧ ∀ m, m ≠ l → m ≠ loopLane l → t.host.lane m = s.host.lane m)
  ∧ (∀ (s : State) (l peak : Nat), s.up → l < s.variant.lanes → s.host.on (Reg.LANE_EQ.EQ_OVR l) = true →
    s.host.on (Reg.LANE_STATUS.CDR_LOCK l) = false → (s.host.lane l).adapting = false → peak < 16 →
    ∃ t, exec (.eqClamp l peak) s = .next t ∧ s.changes t (fun g => { g with lanes := s.host.lanes }) [(Reg.LANE_STATUS.PEAK_NOW l).addr]
      ∧ t.host.lane l = { s.host.lane l with adapting := true, clamped := false } ∧ t.host.get (Reg.LANE_STATUS.PEAK_NOW l) = peak
      ∧ t.host.get (Reg.LANE_STATUS.EQ_CLAMP l) = s.host.get (Reg.LANE_STATUS.EQ_CLAMP l))
  ∧ (∀ (s : State) (l : Nat) (sig lock : Bool) (bits errs peak : Nat), s.up → l < s.variant.lanes → s.host.on (Reg.LANE_CTRL.EN l) = true →
    peak < 16 →
    ∃ t, exec (.laneCdrLockChange l sig lock bits errs peak) s = .next t ∧ t.host.get (Reg.LANE_STATUS.CDR_LOCK l) = b2n lock
      ∧ t.host.get (Reg.LANE_STATUS.SIG_DET l) = b2n sig ∧ (lock = false → t.host.get (Reg.LANE_STATUS.PRBS_LOCK l) = 0)
      ∧ (s.host.on (Reg.LANE_EQ.EQ_OVR l) = false → t.host.get (Reg.LANE_STATUS.PEAK_NOW l) = peak)
      ∧ (s.host.on (Reg.LANE_EQ.EQ_OVR l) = true → (s.host.lane l).adapting = false →
        t.host.get (Reg.LANE_STATUS.PEAK_NOW l) = s.host.get (Reg.LANE_STATUS.PEAK_NOW l)
          ∧ t.host.get (Reg.LANE_EQ_CLAMPS l) = s.host.get (Reg.LANE_EQ_CLAMPS l))
      ∧ ((s.host.lane l).adapting = true → lock = true → t.host.get (Reg.LANE_STATUS.PEAK_NOW l) = peak
        ∧ t.host.get (Reg.LANE_STATUS.EQ_CLAMP l) = 1
        ∧ t.host.get (Reg.LANE_EQ_CLAMPS l) = min (s.host.get (Reg.LANE_EQ_CLAMPS l) + 1) 0xFFFFFFFF))
  ∧ (∀ (s : State) (l : Nat) (sig lock : Bool) (bits errs peak : Nat), s.up → l < s.variant.lanes → s.host.on (Reg.LANE_CTRL.EN l) = false →
    ∃ t, exec (.laneCdrLockChange l sig lock bits errs peak) s = .next t ∧ t.host.get (Reg.LANE_STATUS.CDR_LOCK l) = 0
      ∧ t.host.get (Reg.LANE_STATUS.SIG_DET l) = 0 ∧ t.host.get (Reg.LANE_STATUS.PRBS_LOCK l) = 0)

/-- R49, R51: each row of the table of states. That SPEED values which R58 does not code (0 and 8 to 15) enter the minimum as numbers is
the model's choice (log entry 27). -/
def Obligations.CameraLinkStates : Prop :=
  (∀ (s : State) (n : Nat) (v : Word), s.open_ → n < s.variant.links → v.getLsbD 0 = true → s.host.linkState n = 0 →
    s.host.on (Reg.CXP_STATE.LANES_TAKEN n) = false →
    ∃ t, exec (.cxpLinkEnable n v) s = .next t ∧ t.linkIn n 1 0 ∧ t.host.get (Reg.CXP_CTRL.EN n) = 1)
  ∧ (∀ (s : State) (n : Nat) (v : Word), s.open_ → n < s.variant.links → v.getLsbD 0 = false → s.host.linkState n ≠ 0 →
    ∃ t, exec (.cxpLinkDisable n v) s = .next t ∧ t.linkIn n 0 0 ∧ t.host.get (Reg.CXP_CTRL.EN n) = 0 ∧ (t.host.link n).pwr = false)
  ∧ (∀ (s : State) (n : Nat), s.up → n < s.variant.links → s.host.linkState n = 1 →
    (∃ t, exec (.cxpMasterLock n) s = .next t ∧ t.linkIn n 2 0) ∧ ∃ t, exec (.cxpDiscTimeout n) s = .next t ∧ t.linkIn n 6 1)
  ∧ (∀ (s : State) (n conn speed : Nat) (hs : Bool), s.up → n < s.variant.links → s.host.linkState n = 2 →
    (∃ t, exec (.cxpBootstrapReadDone n true true conn speed hs) s = .next t ∧ t.linkIn n 3 0
      ∧ (t.host.link n).conn = conn ∧ (t.host.link n).width = s.host.cfgWidth n conn ∧ (t.host.link n).speed = min speed (s.host.get (Reg.CXP_CTRL.SPEED n)))
    ∧ (∀ last, 2 ≤ (s.host.link n).fails →
      ∃ t, exec (.cxpBootstrapReadDone n false last conn speed hs) s = .next t ∧ t.linkIn n 6 2)
    ∧ ∀ last, (s.host.link n).fails < 2 →
      ∃ t, exec (.cxpBootstrapReadDone n false last conn speed hs) s = .next t ∧ t.host.linkState n = 2
        ∧ (t.host.link n).fails = (s.host.link n).fails + 1)
  ∧ (∀ (s : State) (n : Nat), s.up → n < s.variant.links → s.host.linkState n = 3 →
    ∃ t, exec (.cxpConfigAck n) s = .next t ∧ t.linkIn n 4 0)
  ∧ (∀ (s : State) (n : Nat), s.up → n < s.variant.links → s.host.linkState n = 4 →
    (∃ t, exec (.cxpSwitchLocked n) s = .next t ∧ t.linkIn n 5 0)
    ∧ ((s.host.link n).speed ≤ 1 → ∃ t, exec (.cxpSwitchTimeout n) s = .next t ∧ t.linkIn n 6 3)
    ∧ (1 < (s.host.link n).speed →
      ∃ t, exec (.cxpSwitchTimeout n) s = .next t ∧ t.linkIn n 3 0
        ∧ (t.host.link n).speed = min ((s.host.link n).speed - 1) (s.host.get (Reg.CXP_CTRL.SPEED n))
        ∧ (t.host.link n).width = s.host.cfgWidth n (s.host.link n).conn))
  ∧ (∀ (s : State) (n : Nat), s.up → n < s.variant.links → s.host.linkState n = 5 →
    ∃ t, exec (.cxpLockLoss n) s = .next t ∧ t.linkIn n 1 0 ∧ (t.host.link n).pwr = (s.host.link n).pwr)
  ∧ (∀ (s : State) (n : Nat), s.up → n < s.variant.links → s.host.linkState n ≠ 0 →
    ∃ t, exec (.cxpPowerFault n) s = .next t ∧ t.host.linkState n = 6 ∧ t.host.get (Reg.CXP_STATE.CAUSE n) = 4
      ∧ (t.host.link n).pwr = false ∧ bit (t.host.get (Reg.CXP_INT_STATUS n)) 4 = true
      ∧ bit (t.host.get (Reg.CXP_INT_STATUS n)) 0 = (bit (s.host.get (Reg.CXP_INT_STATUS n)) 0 || s.host.linkState n != 6))
  ∧ (∀ (s : State) (n : Nat), s.open_ → n < s.variant.links → s.host.linkState n = 6 →
    ∃ t, exec (.cxpRestart n) s = .next t ∧ t.linkIn n 1 0)
  ∧ (∀ (s : State) (n : Nat) (v : Word), s.open_ → n + 1 < s.variant.links → n % 2 = 0 → s.host.linkState n ≠ 0 →
    s.host.linkState (n + 1) = 0 → s.host.on (Reg.CXP_CTRL.EN (n + 1)) = true → s.host.get (Reg.CXP_STATE.LANES_TAKEN (n + 1)) = 1 →
    (v.getLsbD 0 = false → ∃ t, exec (.cxpLinkDisable n v) s = .next t ∧ t.linkIn n 0 0 ∧ t.linkIn (n + 1) 1 0
      ∧ t.host.get (Reg.CXP_STATE.LANES_TAKEN (n + 1)) = 0)
    ∧ (v.getLsbD 0 = true → v.toNat / 4 % 4 < 2 → ∃ t, exec (.cxpLinkEnable n v) s = .next t ∧ t.linkIn (n + 1) 1 0
      ∧ t.host.get (Reg.CXP_STATE.LANES_TAKEN (n + 1)) = 0 ∧ t.host.linkState n = s.host.linkState n
      ∧ (t.host.link n).width ≤ 1 ∧ t.host.get (Reg.CXP_STATE.WIDTH_NOW n) ≤ 1))

/-- R53, R64: the control channel. -/
def Obligations.CameraControlChannel : Prop :=
  (∀ (s : State) (n : Nat) (v : Word), s.open_ → n < s.variant.links → v.getLsbD 0 = true →
    s.host.on (Reg.CXP_CC_STATUS.BUSY n) = false → (s.host.link n).setWr = [] →
    (s.host.linkState n = 5 → ∃ t, exec (.cxpCcGo n v) s = .next t ∧ t.host.get (Reg.CXP_CC_STATUS.BUSY n) = 1
      ∧ s.regsOnly t [(Reg.CXP_CC_CMD.GO n).addr, (Reg.CXP_CC_STATUS.BUSY n).addr])
    ∧ (s.host.linkState n ≠ 5 → ∃ t, exec (.cxpCcGo n v) s = .next t ∧ t.host.get (Reg.CXP_CC_STATUS.BUSY n) = 0
      ∧ t.host.get (Reg.CXP_CC_STATUS.RESULT n) = 5 ∧ bit (t.host.get (Reg.CXP_INT_STATUS n)) 1 = true
      ∧ s.regsOnly t [(Reg.CXP_CC_CMD.GO n).addr, (Reg.CXP_CC_STATUS.BUSY n).addr, (Reg.CXP_INT_STATUS n).addr]))
  ∧ (∀ (s : State) (n : Nat) (v : Word), s.open_ → n < s.variant.links → v.getLsbD 0 = true → s.host.on (Reg.CXP_CC_STATUS.BUSY n) = true →
    ∃ t, exec (.cxpCcGo n v) s = .next t ∧ t.host.get (Reg.CXP_CC_STATUS.LOST n) = 1
      ∧ t.host.get (Reg.CXP_CC_STATUS.BUSY n) = s.host.get (Reg.CXP_CC_STATUS.BUSY n)
      ∧ s.regsOnly t [(Reg.CXP_CC_STATUS.LOST n).addr])
  ∧ (∀ (s : State) (n result : Nat) (data : List Byte), s.up → n < s.variant.links → result < 8 →
    s.host.on (Reg.CXP_CC_STATUS.BUSY n) = true →
    ∃ t, exec (.cxpCcReply n result data) s = .next t ∧ t.host.get (Reg.CXP_CC_STATUS.BUSY n) = 0
      ∧ t.host.get (Reg.CXP_CC_STATUS.RESULT n) = result ∧ bit (t.host.get (Reg.CXP_INT_STATUS n)) 1 = true
      ∧ s.regsOnly t ([(Reg.CXP_CC_STATUS.BUSY n).addr, (Reg.CXP_INT_STATUS n).addr]
          ++ (List.range 64).map fun i => (Reg.CXP_CC_BUF n i).addr)
      ∧ (result = 0 → s.host.on (Reg.CXP_CC_CMD.WRITE n) = false → ∀ i, i < 64 → i ≤ s.host.get (Reg.CXP_CC_CMD.LEN n) →
          t.host.get (Reg.CXP_CC_BUF n i) = leNat ((data.drop (4 * i)).take 4) % 2 ^ 32))
  ∧ (∀ (s : State) (n : Nat), s.up → n < s.variant.links → s.host.on (Reg.CXP_CC_STATUS.BUSY n) = true →
    ∃ t, exec (.cxpCcTimeout n) s = .next t ∧ t.host.get (Reg.CXP_CC_STATUS.BUSY n) = 0
      ∧ t.host.get (Reg.CXP_CC_STATUS.RESULT n) = 1
      ∧ s.regsOnly t [(Reg.CXP_CC_STATUS.BUSY n).addr, (Reg.CXP_INT_STATUS n).addr])

/-- R56, R57: what arrives on a camera link. -/
def Obligations.CameraStreamsAndEvents : Prop :=
  (∀ (s : State) (n id fmt x : Nat) (gap : Bool) (data : List Byte), s.up → n < s.variant.links → s.host.linkState n = 5 →
    s.host.mapOf n id = some x → fmt = s.host.act x (Reg.UNPACK x) →
    ∃ t, exec (.cxpStreamPacket n id fmt false gap data) s = .next t
      ∧ SMap.get (fun _ => ([], false)) (t.host.link n).parts x
        = ((SMap.get (fun _ => ([], false)) (s.host.link n).parts x).1 ++ data,
           (SMap.get (fun _ => ([], false)) (s.host.link n).parts x).2 || gap))
  ∧ (∀ (s : State) (n id fmt : Nat) (gap : Bool) (data : List Byte), s.up → n < s.variant.links → s.host.linkState n = 5 →
    (∀ x, s.host.mapOf n id = some x → fmt ≠ s.host.act x (Reg.UNPACK x)) →
    ∃ t, exec (.cxpStreamPacket n id fmt false gap data) s = .next t ∧ t.host.link n = s.host.link n
      ∧ t.host.get (Reg.CXP_DROP n) = min (s.host.get (Reg.CXP_DROP n) + 1) 0xFFFFFFFF
      ∧ t.host.get (Reg.CXP_CRC_ERR n) = s.host.get (Reg.CXP_CRC_ERR n))
  ∧ (∀ (s : State) (n id fmt : Nat) (gap : Bool) (data : List Byte), s.up → n < s.variant.links → s.host.linkState n = 5 →
    ∃ t, exec (.cxpStreamPacket n id fmt true gap data) s = .next t
      ∧ t.host.get (Reg.CXP_CRC_ERR n) = min (s.host.get (Reg.CXP_CRC_ERR n) + 1) 0xFFFFFFFF
      ∧ t.host.get (Reg.CXP_DROP n) = s.host.get (Reg.CXP_DROP n))
  ∧ (∀ (s : State) (n cam : Nat), s.up → n < s.variant.links → s.host.linkState n = 5 → cam < 2 ^ 64 →
    ∃ t, exec (.cxpHeartbeatRx n cam) s = .next t ∧ t.host.get2 (Reg.CXP_HB_CAM_LO n) (Reg.CXP_HB_CAM_HI n) = cam
      ∧ t.host.get2 (Reg.CXP_HB_RX_LO n) (Reg.CXP_HB_RX_HI n) = s.tick.toNat)
  ∧ (∀ (s : State) (n : Nat), s.up → n < s.variant.links → s.host.linkState n = 5 →
    ∃ t, exec (.cxpHbTimeout n) s = .next t ∧ bit (t.host.get (Reg.CXP_INT_STATUS n)) 3 = true ∧ t.host.linkState n = 5)
  ∧ (∀ (s : State) (n : Nat) (data : List Byte), s.up → n < s.variant.links → s.host.linkState n = 5 →
    ((s.host.link n).events.length < 8 → ∃ t, exec (.cxpEventPacket n data) s = .next t
      ∧ (t.host.link n).events = (s.host.link n).events ++ [(data.take 252, decide (252 < data.length))]
      ∧ t.host.get (Reg.CXP_EVT_STATUS.COUNT n) = (s.host.link n).events.length + 1
      ∧ bit (t.host.get (Reg.CXP_INT_STATUS n)) 2 = true)
    ∧ (8 ≤ (s.host.link n).events.length → ∃ t, exec (.cxpEventPacket n data) s = .next t
      ∧ (t.host.link n).events = (s.host.link n).events ∧ t.host.get (Reg.CXP_EVT_STATUS.OVF n) = 1))
  ∧ (∀ (s : State) (n : Nat), s.open_ → n < s.variant.links → (s.host.link n).events.length ≤ 8 →
    ∃ t, exec (.cxpEvtPop n) s = .next t ∧ t.host.link n = { s.host.link n with events := (s.host.link n).events.drop 1 }
      ∧ t.host.get (Reg.CXP_EVT_STATUS.COUNT n) = (s.host.link n).events.length - 1
      ∧ s.changes t (fun g => { g with links := s.host.links }) [(Reg.CXP_EVT_STATUS.COUNT n).addr])

/-- R75, R76: the table of states of an Ifepen port. -/
def Obligations.IfepenPortStates : Prop :=
  (∀ (s : State) (p : Nat) (v : Word), s.open_ → p < s.variant.ports → v.getLsbD 0 = true → s.host.portState p = 0 →
    (s.host.port p).txOn = true → ∃ t, exec (.iflEnable p v) s = .next t ∧ t.host.portState p = 1 ∧ t.host.get (Reg.IFL_CTRL.EN p) = 1)
  ∧ (∀ (s : State) (p : Nat) (v : Word), s.open_ → p < s.variant.ports → v.getLsbD 0 = false →
    ∃ t, exec (.iflDisable p v) s = .next t ∧ t.host.portState p = 0 ∧ t.host.get (Reg.IFL_CTRL.EN p) = 0)
  ∧ (∀ (s : State) (p : Nat), s.open_ → p < s.variant.ports → s.host.portState p ≠ 0 →
    ∃ t, exec (.iflRetrain p) s = .next t ∧ t.host.portState p = 1 ∧ (t.host.port p).replay = [] ∧ (t.host.port p).rx = []
      ∧ (s.host.portState p ≠ 3 → s.changes t (fun g => { g with ports := s.host.ports }) [(Reg.IFL_STATE.STATE p).addr]))
  ∧ (∀ (s : State) (p : Nat), s.up → p < s.variant.ports → (s.host.port p).txOn = false → s.host.on (Reg.IFL_CTRL.EN p) = true →
    ∃ t, exec (.iflTxStart p) s = .next t ∧ t.host.portState p = 1 ∧ (t.host.port p).txOn = true
      ∧ s.changes t (fun g => { g with ports := s.host.ports }) [(Reg.IFL_STATE.STATE p).addr])
  ∧ (∀ (s : State) (p skew : Nat) (wire : List Bool), s.up → p < s.variant.ports → s.host.portState p = 1 →
    s.host.on (Reg.LANE_STATUS.CDR_LOCK (portLane p 0)) = true → s.host.on (Reg.LANE_STATUS.CDR_LOCK (portLane p 1)) = true →
    (2 ≤ (s.host.port p).mk0 → 3 ≤ (s.host.port p).mk1 → s.host.lanePowered p 0 = true →
      (s.host.looped p 0 = true ∨ (sext 6 skew).natAbs ≤ 16) → markerValid (s.markerIn p 0 wire) = true → ∃ t, exec (.iflMarkerRx p 0 wire skew) s = .next t ∧ t.host.portState p = 2)
    ∧ (3 ≤ (s.host.port p).mk0 → 2 ≤ (s.host.port p).mk1 → s.host.lanePowered p 1 = true →
      (s.host.looped p 1 = true ∨ (sext 6 skew).natAbs ≤ 16) → markerValid (s.markerIn p 1 wire) = true → ∃ t, exec (.iflMarkerRx p 1 wire skew) s = .next t ∧ t.host.portState p = 2))
  ∧ (∀ (s : State) (p i skew : Nat) (wire : List Bool), s.up → p < s.variant.ports → i < 2 → s.host.portState p = 2 →
    s.host.lanePowered p i = true →
    markerValid (s.markerIn p i wire) = true → bit (s.markerIn p i wire) 0 = true →
    (if i = 0 then (s.host.port p).seen1 else (s.host.port p).seen0) = true →
    ∃ t, exec (.iflMarkerRx p i wire skew) s = .next t ∧ t.host.portState p = 3 ∧ (t.host.port p).seq = 0
      ∧ (t.host.port p).replay = [] ∧ bit (t.host.get (Reg.IFL_INT_STATUS p)) 0 = true)
  ∧ (∀ (s : State) (p i skew : Nat) (wire : List Bool), s.up → p < s.variant.ports → i < 2 → s.host.portState p = 3 →
    s.host.lanePowered p i = true →
    markerValid (s.markerIn p i wire) = true → bit (s.markerIn p i wire) 0 = false →
    ∃ t, exec (.iflMarkerRx p i wire skew) s = .next t ∧ s.portFell t p)
  ∧ (∀ (s : State) (p i : Nat) (wire : List Bool), i < 2 → s.host.looped p i = true → s.host.hearsGen (portLane p i) = false →
    (s.host.lane (portLane p i)).rxFlip = false → (s.host.lane (portLane p i)).txFlip = false →
    s.host.on (Reg.LANE_CTRL.TX_INV (portLane p i)) = s.host.on (Reg.LANE_CTRL.RX_INV (portLane p i)) →
    SMap.get (fun _ => {}) (s.host.port p).run i = SMap.get (fun _ => {}) (s.host.port p).txRun i →
    (SMap.get (fun _ => {}) (s.host.port p).txRun i).len < 40 → s.markerIn p i wire = markerOf i (decide (2 ≤ s.host.portState p)) 1)
  ∧ (∀ (s : State) (p i : Nat), s.up → p < s.variant.ports → i < 2 → s.host.portState p = 3 →
    ∃ t, exec (.iflMarkerMissing p i) s = .next t ∧ s.portFell t p)

/-- R70 to R73: the link layer. That a flit of another FORMAT is discarded is the model's choice (log entry 28). -/
def Obligations.IfepenFlits : Prop :=
  (∀ (s : State) (p f : Nat) (w0 w1 : List Bool), s.up → p < s.variant.ports → s.host.portState p = 3 →
    s.host.lanePowered p 0 = true → s.host.lanePowered p 1 = true → (s.host.recvFlit p w0 w1).2 = f → flitGood f = false →
    ∃ t, exec (.iflFlitRx p w0 w1) s = .next t
      ∧ t.host.get (Reg.IFL_CRC_ERR p) = min (s.host.get (Reg.IFL_CRC_ERR p) + 1) 0xFFFFFFFF
      ∧ (t.host.port p).rxSeq = (s.host.port p).rxSeq ∧ (t.host.port p).ack = (s.host.port p).ack
      ∧ (t.host.port p).replay = (s.host.port p).replay ∧ (t.host.port p).nak = true)
  ∧ (∀ (s : State) (p f : Nat) (w0 w1 : List Bool), s.up → p < s.variant.ports → s.host.portState p = 3 →
    s.host.lanePowered p 0 = true → s.host.lanePowered p 1 = true → (s.host.recvFlit p w0 w1).2 = f → flitGood f = true → flitFormat f = 1 → flitSeqd (flitType f) = true →
    (flitSeq f = (s.host.port p).rxSeq → ∃ t, exec (.iflFlitRx p w0 w1) s = .next t
      ∧ (t.host.port p).rxSeq = ((s.host.port p).rxSeq + 1) % 1024 ∧ (t.host.port p).ack = flitSeq f)
    ∧ (flitSeq f ≠ (s.host.port p).rxSeq → ∃ t, exec (.iflFlitRx p w0 w1) s = .next t
      ∧ (t.host.port p).rxSeq = (s.host.port p).rxSeq ∧ (t.host.port p).ack = (s.host.port p).ack ∧ (t.host.port p).nak = true))
  ∧ (∀ (s : State) (p f : Nat) (w0 w1 : List Bool), s.up → p < s.variant.ports → s.host.portState p = 3 →
    s.host.lanePowered p 0 = true → s.host.lanePowered p 1 = true → (s.host.recvFlit p w0 w1).2 = f → flitGood f = true → flitFormat f ≠ 1 → ∃ t, exec (.iflFlitRx p w0 w1) s = .next t
      ∧ (t.host.port p).rxSeq = (s.host.port p).rxSeq ∧ (t.host.port p).ack = (s.host.port p).ack
      ∧ (t.host.port p).replay = (s.host.port p).replay ∧ (t.host.port p).nak = true)
  ∧ (∀ (s : State) (p f : Nat) (w0 w1 : List Bool), s.up → p < s.variant.ports → s.host.portState p = 3 →
    s.host.lanePowered p 0 = true → s.host.lanePowered p 1 = true → (s.host.recvFlit p w0 w1).2 = f → flitGood f = true → flitFormat f = 1 → flitType f = 3 →
    ∃ t, exec (.iflFlitRx p w0 w1) s = .next t
      ∧ (t.host.port p).credit = some ((List.range 4).map fun vc => flitPayload f / 2 ^ (16 * vc) % 65536))
  ∧ (∀ (s : State) (p : Nat), s.up → p < s.variant.ports → s.host.portState p = 3 → (s.host.port p).replay ≠ [] →
    (s.host.port p).replayed ≠ some (s.tick.toNat, true) →
    ((s.host.port p).replays < s.host.get (Reg.IFL_CTRL.REPLAY_LIMIT p) → ∃ t, exec (.iflAckTimeout p) s = .next t
      ∧ (t.host.port p).replays = (s.host.port p).replays + 1 ∧ (t.host.port p).replay.length = (s.host.port p).replay.length
      ∧ t.host.portState p = 3)
    ∧ (max 1 (s.host.get (Reg.IFL_CTRL.REPLAY_LIMIT p)) ≤ (s.host.port p).replays → ∃ t, exec (.iflAckTimeout p) s = .next t
      ∧ t.host.portState p = 1 ∧ (t.host.port p).replay = []))
  ∧ (∀ (s : State) (p : Nat), s.up → s.settled → (s.host.port p).replayed = some (s.tick.toNat, true) → exec (.iflAckTimeout p) s = .next s)
  ∧ (∀ (s : State) (p : Nat), s.up → p < s.variant.ports → s.host.portState p = 3 → (s.host.port p).changed = true → s.host.flitOut p 0 = 0 →
    ∃ t, exec (.iflCreditSend p) s = .next t ∧ (t.host.port p).changed = false
      ∧ (t.host.port p).lastTx = flitOf 3 0 (s.host.port p).ack 0
          ((List.range 4).map fun vc => (s.host.port p).ownCredit vc % 65536 * 2 ^ (16 * vc)).sum)

/-- R67 to R71: the flit layout, its CRC, the marker and the coding of the lanes agree at both ends. -/
def Obligations.FlitRoundTrip : Prop :=
  (∀ type seq ack vc payload : Nat, type < 16 → seq < 1024 → ack < 1024 → vc < 4 → payload < 2 ^ 192 →
    flitGood (flitOf type seq ack vc payload) = true ∧ flitType (flitOf type seq ack vc payload) = type
      ∧ flitSeq (flitOf type seq ack vc payload) = seq ∧ flitAck (flitOf type seq ack vc payload) = ack
      ∧ flitVc (flitOf type seq ack vc payload) = vc ∧ flitPayload (flitOf type seq ack vc payload) = payload
      ∧ flitFormat (flitOf type seq ack vc payload) = 1 ∧ flitOf type seq ack vc payload < 2 ^ 256)
  ∧ (∀ (r : Run) (l : List Bool), r.len < 40 → unstuff r (stuff r l).1 = (l, 0, (stuff r l).2) ∧ (stuff r l).2.len < 40)
  ∧ (∀ (st : Nat) (l : List Bool), scrambleBits st (scrambleBits st l).1 = (l, (scrambleBits st l).2))
  ∧ (∀ (f sc0 sc1 : Nat) (r0 r1 : Run), f < 2 ^ 256 → r0.len < 40 → r1.len < 40 →
    flitOfLanes
      (bitsNat (scrambleBits sc0 (unstuff r0 (stuff r0 (scrambleBits sc0 (wordBits 128 (flitLane f 0))).1).1).1).1)
      (bitsNat (scrambleBits sc1 (unstuff r1 (stuff r1 (scrambleBits sc1 (wordBits 128 (flitLane f 1))).1).1).1).1) = f)
  ∧ (∀ (i skips : Nat) (seen : Bool), i < 2 → skips < 3 → markerValid (markerOf i seen skips) = true
    ∧ bit (markerOf i seen skips) 0 = seen ∧ markerOf i seen skips / 2 % 2 = i ∧ markerOf i seen skips / 4 % 4 = skips)

/-- R84, R93 to R95, R100, R101, R105 to R108, R159: the ingress, the turns, the passage of a line and what it writes. -/
def Obligations.PixelIngressLines : Prop :=
  (∀ (s : State) (n x : Nat), s.up → n < s.variant.links → x < s.variant.ctxs → s.host.ctxOn x = true → s.host.linkOf x = some n →
    s.host.on (Reg.CTX_CTRL.TICK_PAIR x) = true →
    (∀ c rest, (s.host.ctx x).ticks = c :: rest → ∃ t, exec (.pixLineComplete n x) s = .next t ∧ (t.host.ctx x).ticks = rest
      ∧ (t.host.ctx x).idx = (s.host.ctx x).idx + 1)
    ∧ ((s.host.ctx x).ticks = [] → ∃ t, exec (.pixLineComplete n x) s = .next t ∧ t.host.ctx x = s.host.ctx x
      ∧ t.host.counted s.host (Reg.CTX_EXTRA x)))
  ∧ (∀ (s : State) (x c : Nat) (rest : List Nat), s.up → x < s.variant.ctxs → s.host.ctxOn x = true → (s.host.ctx x).ticks = c :: rest →
    ∃ t, exec (.pixTickTimeout x) s = .next t ∧ (t.host.ctx x).ticks = rest ∧ (t.host.ctx x).idx = (s.host.ctx x).idx + 1
      ∧ t.host.counted s.host (Reg.CTX_MISS x) ∧ t.host.get (Reg.CTX_STATUS.LINE_MISS x) = 1)
  ∧ (∀ (s : State) (p x : Nat), s.running → p < s.variant.pipes → (s.host.pipe p).turn = none → (s.host.pipe p).pos ≠ 0 →
    (s.host.pipe p).ord (Reg.PIPE_ORDER.VALID p (s.host.pipe p).pos) = 1 →
    (s.host.pipe p).ord (Reg.PIPE_ORDER.CTX p (s.host.pipe p).pos) = x → s.host.ctxOn x = true → s.host.pipeOf x = p →
    ∃ t, exec (.pipeTurnStart p) s = .next t ∧ (t.host.pipe p).turn = some x ∧ t.host.get (Reg.PIPE_STATUS.CUR_CTX p) = x
      ∧ t.host.get (Reg.PIPE_STATUS.IDLE p) = 0
      ∧ s.changes t (fun g => { g with pipes := s.host.pipes }) [(Reg.PIPE_SWITCHES p).addr, (Reg.PIPE_STATUS.CUR_CTX p).addr])
  ∧ (∀ (s : State) (p x : Nat) (l : PixLine) (rest : List PixLine), s.running → p < s.variant.pipes → (s.host.pipe p).turn = some x →
    (s.host.ctx x).buf = l :: rest → s.host.mayPass x l = true →
    (l.drop = true → l.counts.length = cfgGet (s.host.frameOf x l.frame).cfg (Reg.STRIPE_LINES x)) →
    ∀ bad ecc, ∃ t, exec (.pixLineProcessed p bad ecc) s = .next t ∧ (t.host.ctx x).buf = rest)
  ∧ (∀ (s : State) (p x off : Nat) (l : PixLine) (rest : List PixLine) (fr : PixFrame) (cfg : SMap Word) (u f final : List (List Nat))
      (row : List Byte), s.running → p < s.variant.pipes → (s.host.pipe p).turn = some x → (s.host.ctx x).buf = l :: rest →
    s.host.mayPass x l = true → l.drop = false → l.endStripe = false → l.endFrame = false → s.host.frameOf x l.frame = fr →
    fr.begun = true → fr.cfg = cfg → fr.disp = none → fr.code = none → cfgGet cfg (Reg.COLOUR x) = 0 → cfgGet cfg (Reg.BY x) = 0 →
    (s.host.ctx x).bayCur = none → (s.host.ctx x).bin = [] → (s.host.ctx x).binBad = (false, false) → dests cfg x = [0] →
    (u, f) = frontStages cfg x (s.host.tblWord (s.host.pipeOf x)) l.missing l.data →
    final = binLines cfg x [lutLine cfg x (s.host.tblWord (s.host.pipeOf x)) f] →
    off = destSlot cfg x 0 l.stripe + 64 + tableBytes cfg x + (s.host.ctx x).table.length * destPitch cfg x 0 →
    row = mvRow (cfgGet cfg (Reg.MV_CFG.TFMT x)) (cfgGet cfg (Reg.SCALE x 0)) (cfgGet cfg (Reg.BIAS x 0)) (cfgGet cfg (Reg.COL_START x 0))
      (destCols cfg x 0) (final.headD []) →
    ∃ t, exec (.pixLineProcessed p [] []) s = .next t
      ∧ (t.host.ls (cfgGet cfg (Reg.DEST_CLU x 0))).read off row.length = row
      ∧ (∀ a, (a < off ∨ off + row.length ≤ a) → (t.host.ls (cfgGet cfg (Reg.DEST_CLU x 0))).mem.byte a
          = (s.host.ls (cfgGet cfg (Reg.DEST_CLU x 0))).mem.byte a)
      ∧ (t.host.ctx x).table = (s.host.ctx x).table ++ [(l.count, l.missing, false)]
      ∧ (fr.raw = none → t.host.mem = s.host.mem)
      ∧ (∀ n, fr.raw = some n → cfgGet cfg (Reg.RAW_CFG.TAP x) = 0 → ∀ a bs,
          a = slotAt (baseOf cfg (Reg.RAW_BASE_LO x) (Reg.RAW_BASE_HI x)) (cfgGet cfg (Reg.RAW_SLOTS x))
              (cfgGet cfg (Reg.RAW_PITCH x) * cfgGet cfg (Reg.FRAME_LINES x) * 1) n + l.inFrame * cfgGet cfg (Reg.RAW_PITCH x) →
          bs = rawBytes (cfgGet cfg (Reg.RAW_CFG.RAW8 x) == 1) (u.headD []) → t.host.hostRead a bs.length = bs)
      ∧ (cfgGet cfg (Reg.STATS_CFG.EN x) = 1 → cfgGet cfg (Reg.STATS_CFG.TAP x) = 0 → l.missing = false →
          (t.host.frameOf x l.frame).stats = fr.stats.put l.stripe
            (addStats cfg (SMap.get (fun _ => {}) fr.stats l.stripe) x 0 l.inFrame (f.headD []))))
  ∧ (∀ (s : State) (p x c i off : Nat) (l : PixLine) (rest : List PixLine) (fr : PixFrame) (cfg : SMap Word)
      (tbl : List (Nat × Bool × Bool)), s.running → p < s.variant.pipes → (s.host.pipe p).turn = some x →
    (s.host.ctx x).buf = l :: rest → s.host.mayPass x l = true → l.drop = true → l.counts.length = cfgGet cfg (Reg.STRIPE_LINES x) →
    s.host.frameOf x l.frame = fr → fr.begun = true → fr.cfg = cfg → (s.host.ctx x).bayCur = none → dests cfg x = [0] →
    s.host.boundChan x 0 = some (c, i) → tbl = droppedTable cfg x l.counts → off = destSlot cfg x 0 l.stripe →
    ∃ t, exec (.pixLineProcessed p [] []) s = .next t
      ∧ (t.host.ls (cfgGet cfg (Reg.DEST_CLU x 0))).read off 64 = stripeHeader x fr l.stripe true false tbl (firstCount tbl)
          (cfgGet cfg (Reg.COL_START x 0)) (cfgGet cfg (Reg.COL_COUNT x 0))
      ∧ (t.host.ls (cfgGet cfg (Reg.DEST_CLU x 0))).read (off + 64) (8 * tbl.length)
          = tbl.flatMap (fun r => toLE 8 (r.1 % 2 ^ 32 + b2n r.2.1 * 2 ^ 32 + b2n r.2.2 * 2 ^ 33))
      ∧ (∀ a, (a < off ∨ off + 64 + tableBytes cfg x ≤ a) → (t.host.ls (cfgGet cfg (Reg.DEST_CLU x 0))).mem.byte a
          = (s.host.ls (cfgGet cfg (Reg.DEST_CLU x 0))).mem.byte a)
      ∧ (t.host.chan c i).pipePosts = (s.host.chan c i).pipePosts ++ [firstCount tbl]
      ∧ (l.endFrame = true → ∀ r, fr.rseq = some r →
          t.host.hostRead (slotAt (baseOf cfg (Reg.STATS_BASE_LO x) (Reg.STATS_BASE_HI x)) (cfgGet cfg (Reg.STATS_SLOTS x)) 8320 r) 8320
            = frameRecord x r fr false ∧ t.host.get (Reg.CTX_STATUS.FRAME_DONE x) = 1))
  ∧ (∀ (s : State) (k i : Nat), s.running → k < 8 → i < 16 →
    ∃ t, exec (.pipeFreeNotice k i) s = .next t ∧ s.changes t (fun g => { g with lsc := s.host.lsc }) []
      ∧ t.host.chan k i = { s.host.chan k i with pipeKnown := (s.host.chan k i).pipeKnown + (s.host.chan k i).pipeDue, pipeDue := 0 }
      ∧ ∀ k' i', k' * 16 + i' ≠ k * 16 + i → t.host.chan k' i' = s.host.chan k' i')

/-- R96, R97, R109, R232: shadow and active copies. R235 does not list contexts: that an enable, a disable and a commit of a context are
held in a global stop, and in their order, is the model's reading (log entry 30). -/
def Obligations.ContextCommits : Prop :=
  (∀ (s : State) (x : Nat), s.open_ → x < s.variant.ctxs → s.host.on (Reg.CTX_STATUS.COMMIT_PENDING x) = false →
    (cfgValid (s.host.ctxShadow x) x = false → ∃ t, exec (.ctxCommit x) s = .next t ∧ t.host.get (Reg.CTX_STATUS.CFG_INVALID x) = 1
      ∧ s.regsOnly t [(Reg.CTX_STATUS.CFG_INVALID x).addr])
    ∧ (cfgValid (s.host.ctxShadow x) x = true → s.host.ctxOn x = true → s.host.ctxHeld x = false → ∃ t, exec (.ctxCommit x) s = .next t
      ∧ t.host.get (Reg.CTX_STATUS.COMMIT_PENDING x) = 1 ∧ s.regsOnly t [(Reg.CTX_STATUS.COMMIT_PENDING x).addr])
    ∧ (cfgValid (s.host.ctxShadow x) x = true → (s.host.ctxOn x = false ∨ s.host.ctxHeld x = true) → s.host.stopped = true → ∃ t, exec (.ctxCommit x) s = .next t
      ∧ t.host.get (Reg.CTX_STATUS.COMMIT_PENDING x) = 1 ∧ t.host.heldCtx = s.host.heldCtx ++ [(x, none)]
      ∧ s.changes t (fun g => { g with heldCtx := s.host.heldCtx }) [(Reg.CTX_STATUS.COMMIT_PENDING x).addr])
    ∧ (cfgValid (s.host.ctxShadow x) x = true → s.host.ctxOn x = false → s.host.stopped = false → ∃ t, exec (.ctxCommit x) s = .next t
      ∧ (t.host.ctx x).active = s.host.ctxShadow x ∧ t.host.get (Reg.CTX_STATUS.COMMIT_PENDING x) = 0
      ∧ t.host.get Reg.DET_CSEQ = (s.host.get Reg.DET_CSEQ + 1) % 2 ^ 32))
  ∧ (∀ (s : State) (x : Nat), s.open_ → x < s.variant.ctxs → ∃ t, exec (.ctxAbort x) s = .next t
    ∧ t.host.get (Reg.CTX_STATUS.COMMIT_PENDING x) = 0 ∧ t.host.heldCtx = s.host.heldCtx.filter (fun w => w != (x, none))
    ∧ s.changes t (fun g => { g with heldCtx := s.host.heldCtx }) [(Reg.CTX_STATUS.COMMIT_PENDING x).addr])
  ∧ (∀ (s : State) (p : Nat), s.open_ → p < s.variant.pipes → ∃ t, exec (.pipeCommit p) s = .next t
    ∧ t.host.get (Reg.PIPE_STATUS.COMMIT_PENDING p) = 1 ∧ s.regsOnly t [(Reg.PIPE_STATUS.COMMIT_PENDING p).addr])
  ∧ (∀ (s : State) (x : Nat) (v : Word), s.open_ → x < s.variant.ctxs → v.getLsbD 0 = true → s.host.ctxOn x = false →
    s.host.stopped = false → cfgValid (s.host.ctxShadow x) x = true →
    ((List.range 64).filter fun i => s.host.ctxOn (x / 64 * 64 + i)
      && s.host.pipeOf (x / 64 * 64 + i) == x / 64 * 4 + (Reg.CTX_CTRL.PIPE x).ofWord v).length < 32 →
    ∃ t, exec (.ctxEnable x v) s = .next t ∧ t.host.ctxOn x = true ∧ t.host.get (Reg.CTX_STATUS.RUNNING x) = 1
      ∧ (t.host.ctx x).idx = 0 ∧ (t.host.ctx x).frames = 0 ∧ (t.host.ctx x).buf = []
      ∧ (∀ a, 0x90040 + x * 0x400 ≤ a → a < 0x90200 + x * 0x400 → RegFile.word (t.host.ctx x).active a = s.host.word a)
      ∧ t.host.get Reg.DET_CSEQ = (s.host.get Reg.DET_CSEQ + 1) % 2 ^ 32)
  ∧ (∀ (s : State) (x : Nat) (v : Word), s.open_ → x < s.variant.ctxs → v.getLsbD 0 = false → s.host.ctxOn x = true →
    s.host.stopped = false → ∃ t, exec (.ctxDisable x v) s = .next t ∧ t.host.ctxOn x = false ∧ t.host.get (Reg.CTX_STATUS.RUNNING x) = 0
      ∧ (t.host.ctx x).buf = [] ∧ (t.host.ctx x).ticks = [] ∧ (t.host.ctx x).open_ = [])
  ∧ (∀ (s : State) (x : Nat) (v : Word), s.open_ → x < s.variant.ctxs → s.host.stopped = true →
    (v.getLsbD 0 = true → (s.host.ctxOn x = false ∨ s.host.ctxHeld x = true) → ∃ t, exec (.ctxEnable x v) s = .next t
      ∧ t.host.heldCtx = s.host.heldCtx ++ [(x, some v)] ∧ s.changes t (fun g => { g with heldCtx := s.host.heldCtx }) [])
    ∧ (v.getLsbD 0 = false → (s.host.ctxOn x = true ∨ s.host.ctxHeld x = true) → ∃ t, exec (.ctxDisable x v) s = .next t
      ∧ t.host.heldCtx = s.host.heldCtx ++ [(x, some v)] ∧ s.changes t (fun g => { g with heldCtx := s.host.heldCtx }) []))

/-- R98, R99: settings requests of a context. -/
def Obligations.CameraSettingsQueue : Prop :=
  (∀ (s : State) (x : Nat) (v : Word), s.open_ → x < s.variant.ctxs → v.getLsbD 0 = true →
    ((s.host.ctx x).sets.length < 4 →
      (∀ r ∈ (s.host.ctx x).sets, r.issued = true ∨ (s.host.ctx x).lastBegun < r.target) →
      (s.host.ctx x).lastBegun < (s.host.ctx x).frames - 1 + max 1 ((Reg.SET_CMD.LEAD x).ofWord v) →
      ∃ t r, exec (.setGo x v) s = .next t ∧ (t.host.ctx x).sets = (s.host.ctx x).sets ++ [r]
        ∧ r.gen = s.host.get (Reg.SET_GEN_LAST x) + 1 ∧ r.target = (s.host.ctx x).frames - 1 + max 1 ((Reg.SET_CMD.LEAD x).ofWord v)
        ∧ r.issued = false ∧ t.host.get (Reg.SET_STATUS.QUEUED x) = (s.host.ctx x).sets.length + 1
        ∧ s.changes t (fun g => { g with ctxs := s.host.ctxs })
            [(Reg.SET_CMD.GO x).addr, (Reg.SET_STATUS.QUEUED x).addr, (Reg.SET_GEN_LAST x).addr])
    ∧ (4 ≤ (s.host.ctx x).sets.length → ∃ t, exec (.setGo x v) s = .next t ∧ t.host.get (Reg.CTX_STATUS.SET_FULL x) = 1
      ∧ s.regsOnly t [(Reg.SET_CMD.GO x).addr, (Reg.CTX_STATUS.SET_FULL x).addr]))
  ∧ (∀ (s : State) (x n : Nat) (r : SetReq), s.up →
    findN 16 (fun n => (s.host.link n).setWr.head? == some x && !s.host.on (Reg.CXP_CC_STATUS.BUSY n)) = some n →
    (s.host.ctx x).sets.find? (fun r => r.issued) = some r →
    (r.writes.length ≤ r.done + 1 → ∃ t, exec (.settingsAck x true) s = .next t
      ∧ (t.host.ctx x).gen = max (s.host.ctx x).gen r.gen
      ∧ (t.host.ctx x).tAck = (if (s.host.ctx x).gen < r.gen then s.tick.toNat else (s.host.ctx x).tAck)
      ∧ (t.host.ctx x).fails = (s.host.ctx x).fails.filter fun q => decide (r.gen ≤ q.1))
    ∧ (∃ t, exec (.settingsAck x false) s = .next t ∧ t.host.get (Reg.CTX_STATUS.SET_FAIL x) = 1
      ∧ (t.host.ctx x).gen = (s.host.ctx x).gen ∧ ∃ f, (t.host.ctx x).fails = (s.host.ctx x).fails ++ [(r.gen, f)]
      ∧ ((∀ q ∈ (s.host.ctx x).sets, q.gen = r.gen → q.target = r.target) → f = r.target)))

/-- R187, R192, R193, R195: commits and swaps; a copy of the loader keeps the slots of busy streams (R194). -/
def Obligations.SluiceCommits : Prop :=
  (∀ (s : State) (n cycle : Nat), s.open_ → s.variant.hasTable n = true → s.host.on (Reg.SLU_STATUS.PENDING n) = false →
    s.host.on (Reg.SLU_STATUS.LOADER n) = false →
    (s.host.sluCheck s.variant n false = 0 → ∃ t, exec (.sluCommit n cycle) s = .next t
      ∧ t.host.get (Reg.SLU_STATUS.PENDING n) = 1 ∧ (t.host.arb n).late = decide (2016 < cycle)
      ∧ s.changes t (fun g => { g with slu := s.host.slu }) [(Reg.SLU_STATUS.PENDING n).addr])
    ∧ (s.host.sluCheck s.variant n false ≠ 0 → ∃ t, exec (.sluCommit n cycle) s = .next t
      ∧ t.host.get (Reg.SLU_STATUS.INVALID n) = 1 ∧ t.host.get (Reg.SLU_STATUS.CAUSE n) = s.host.sluCheck s.variant n false
      ∧ t.host.get (Reg.SLU_STATUS.PENDING n) = 0 ∧ s.regsOnly t [(Reg.SLU_STATUS.PENDING n).addr]))
  ∧ (∀ (s : State) (n cycle : Nat), s.open_ → s.variant.hasTable n = true → s.host.on (Reg.SLU_STATUS.PENDING n) = false →
    s.host.on (Reg.SLU_STATUS.LOADER n) = true → ∃ t, exec (.sluCommit n cycle) s = .next t
      ∧ t.host.get (Reg.SLU_STATUS.LOADER_REFUSED n) = 1 ∧ s.regsOnly t [(Reg.SLU_STATUS.LOADER_REFUSED n).addr])
  ∧ (∀ (s : State) (n cycle : Nat) (w : Word), s.open_ → s.variant.hasTable n = true → bit w.toNat n = true →
    s.host.on (Reg.SLU_STATUS.PENDING n) = false → s.host.on (Reg.SLU_STATUS.LOADER n) = false →
    s.host.sluCheck s.variant n false = 0 →
    ∃ t, exec (.memSluCommit w cycle) s = .next t ∧ t.host.get (Reg.SLU_STATUS.PENDING n) = 1
      ∧ s.changes t (fun g => { g with slu := s.host.slu }) ((List.range 26).map fun m => (Reg.SLU_STATUS.PENDING m).addr))
  ∧ (∀ (s : State) (n : Nat), s.open_ → s.variant.hasTable n = true → s.host.on (Reg.SLU_STATUS.LOADER n) = false →
    ∃ t, exec (.sluAbort n) s = .next t ∧ t.host.get (Reg.SLU_STATUS.PENDING n) = 0
      ∧ s.regsOnly t [(Reg.SLU_STATUS.PENDING n).addr])
  ∧ (∀ (s : State) (temp0 temp1 : Nat), s.up → s.host.get Reg.PM_STATUS.DEVICE < 2 →
    ∃ t, exec (.sluicePeriodBoundary temp0 temp1) s = .next t
      ∧ t.host.get2 Reg.MEM_PERIOD_LO Reg.MEM_PERIOD_HI = (s.host.get2 Reg.MEM_PERIOD_LO Reg.MEM_PERIOD_HI + 1) % 2 ^ 64
      ∧ ∀ n, n < 26 → s.host.stopped = false → s.host.on (Reg.SLU_STATUS.PENDING n) = true → (s.host.arb n).late = false →
          (s.host.insp.olds = [] → t.host.get (Reg.SLU_STATUS.PENDING n) = 0)
          ∧ t.host.get (Reg.SLU_STATUS.COPY n) ≠ s.host.get (Reg.SLU_STATUS.COPY n)
          ∧ ((s.host.arb n).byLoader = false → ∀ i, i < 256 → t.host.active n i = s.host.shadow n i))
  ∧ (∀ (s : State) (temp0 temp1 : Nat), s.up → s.host.get Reg.PM_STATUS.DEVICE < 2 → s.host.stopped = true →
    ∃ t, exec (.sluicePeriodBoundary temp0 temp1) s = .next t ∧ ∀ n, n < 26 → (t.host.arb n).late = false
      ∧ t.host.get (Reg.SLU_STATUS.PENDING n) = s.host.get (Reg.SLU_STATUS.PENDING n)
      ∧ ∀ i, i < 256 → t.host.active n i = s.host.active n i)

/-- R190, R191, R197 to R200: what a slot and an arbiter do. -/
def Obligations.SluiceSlotsAndArbiters : Prop :=
  (∀ (s : State) (n i ready ce : Nat) (ue : List Nat), s.up → s.variant.hasTable n = true → i < 256 → s.host.get Reg.PM_STATUS.DEVICE < 2 →
    (n < 16 → slotKind (s.host.active n i) = 2 → ∃ t, exec (.sluiceSlot n i ready ce ue) s = .next t
      ∧ (t.host.arb n).served = (s.host.arb n).served + 1
      ∧ t.host.get (Reg.SLU_IDLE_OWNED n) = s.host.get (Reg.SLU_IDLE_OWNED n))
    ∧ (16 ≤ n → slotKind (s.host.active n i) = 1 → 128 ≤ slotStream (s.host.active n i) → s.host.stopped = false →
      (ready = 0 → ∃ t, exec (.sluiceSlot n i ready ce ue) s = .next t ∧ t.host.counted s.host (Reg.SLU_IDLE_OWNED n))
      ∧ (ready ≠ 0 → ∃ t, exec (.sluiceSlot n i ready ce ue) s = .next t
        ∧ t.host.get (Reg.SLU_IDLE_OWNED n) = s.host.get (Reg.SLU_IDLE_OWNED n)))
    ∧ (n < 16 → slotKind (s.host.active n i) = 0 → 0 < s.host.get (Reg.SLU_REF_DEBT n) →
      ∃ t, exec (.sluiceSlot n i ready ce ue) s = .next t
        ∧ t.host.get (Reg.SLU_REF_DEBT n) = s.host.get (Reg.SLU_REF_DEBT n) - 1 ∧ t.host.counted s.host (Reg.SLU_EMERG n)
        ∧ (t.host.arb n).holder = none)
    ∧ (∀ x, slotKind (s.host.active n i) = 0 → (16 ≤ n ∨ s.host.get (Reg.SLU_REF_DEBT n) = 0) → s.host.stopped = false →
      (s.host.arb n).holder = some x → (s.host.arb n).moved ≤ s.host.get (Reg.SLU_CTRL.BURST_M1 n) →
      ∃ t, exec (.sluiceSlot n i ready ce ue) s = .next t
        ∧ (t.host.arb n).moved = (s.host.arb n).moved
            + min ready (min (slotCap n) (s.host.get (Reg.SLU_CTRL.BURST_M1 n) + 1 - (s.host.arb n).moved))
        ∧ ((t.host.arb n).holder = none ↔ s.host.get (Reg.SLU_CTRL.BURST_M1 n) + 1 ≤ (t.host.arb n).moved)))
  ∧ (∀ (s : State) (n req j : Nat), s.running → s.variant.hasTable n = true → s.host.get Reg.PM_STATUS.DEVICE < 2 → (s.host.arb n).holder = none → (s.host.arb n).emerg = false →
    (s.host.arb n).revoked = none → j < requesters s.variant n →
    bit req (((s.host.arb n).first + j) % requesters s.variant n) = true →
    (((s.host.arb n).first + j) % requesters s.variant n = traceReq → 0 < s.host.gauge.bucket) →
    (∀ i, i < j → bit req (((s.host.arb n).first + i) % requesters s.variant n) = false) →
    (∃ t, exec (.openSlotArbitrate n req false) s = .next t
      ∧ (t.host.arb n).holder = some (((s.host.arb n).first + j) % requesters s.variant n)
      ∧ (t.host.arb n).first = (((s.host.arb n).first + j) % requesters s.variant n + 1) % requesters s.variant n
      ∧ t.host.counted s.host (Reg.SLU_GRANTS n)
      ∧ s.changes t (fun g => { g with slu := s.host.slu }) [(Reg.SLU_GRANTS n).addr])
    ∧ (∃ t, exec (.openSlotArbitrate n req true) s = .next t ∧ (t.host.arb n).holder = none ∧ (t.host.arb n).first = (s.host.arb n).first
      ∧ t.host.counted s.host (Reg.SLU_STALE n)))
  ∧ (∀ (s : State) (n x : Nat) (stale : Bool), s.up → s.variant.hasTable n = true → s.host.get Reg.PM_STATUS.DEVICE < 2 →
    (s.host.arb n).holder = some x →
    (n < 16 → 0 < s.host.get (Reg.SLU_REF_DEBT n) → ∃ t, exec (.emergencyRequest n stale) s = .next t
      ∧ (t.host.arb n).holder = none ∧ (t.host.arb n).revoked = some x ∧ (t.host.arb n).emerg = true
      ∧ t.host.counted s.host (Reg.SLU_REVOKE n)
      ∧ s.changes t (fun g => { g with slu := s.host.slu }) [(Reg.SLU_REVOKE n).addr])
    ∧ (16 ≤ n → ∃ t, exec (.emergencyRequest n stale) s = .next t
      ∧ (t.host.arb n).holder = none ∧ (t.host.arb n).revoked = some x ∧ t.host.counted s.host (Reg.SLU_EMERG n)
      ∧ s.changes t (fun g => { g with slu := s.host.slu }) [(Reg.SLU_REVOKE n).addr, (Reg.SLU_EMERG n).addr]))
  ∧ (∀ (s : State) (n : Nat), s.up → s.variant.hasTable n = true → s.host.get Reg.PM_STATUS.DEVICE < 2 → (s.host.arb n).holder = none →
    (16 ≤ n ∨ 0 < s.host.get (Reg.SLU_REF_DEBT n)) →
    ∃ t, exec (.emergencyRequest n true) s = .next t ∧ t.host.counted s.host (Reg.SLU_REVOKE n))

/-- R201: initialization completes once, unless a stack has failed. -/
def Obligations.HbmStartUp : Prop :=
  (∀ s : State, s.up → s.host.on Reg.MEM_STATUS.FAIL0 = false → s.host.on Reg.MEM_STATUS.FAIL1 = false →
    s.host.on Reg.MEM_STATUS.INIT_DONE = false →
    ∃ t, exec .hbmInitDone s = .next t ∧ t.host.get Reg.MEM_STATUS.INIT_DONE = 1
      ∧ (∀ g a, ((t.host.hbmOf g).read a 1) = [0]) ∧ (∀ g, (t.host.hbmOf g).poison = [] ∧ (t.host.hbmOf g).sums = [])
      ∧ s.changes t (fun g => { g with hbm := s.host.hbm }) [Reg.MEM_STATUS.INIT_DONE.addr])
  ∧ (∀ (s : State) (k : Nat), s.up → k < s.variant.stacks → s.host.on Reg.MEM_STATUS.INIT_DONE = false →
    ∃ t, exec (.stackTrainingFail k) s = .next t ∧ t.host.get (if k = 0 then Reg.MEM_STATUS.FAIL0 else Reg.MEM_STATUS.FAIL1) = 1
      ∧ t.host.get Reg.PM_STATUS.FATAL = 1 ∧ exec .hbmInitDone t = .next t)

/-- R211, R212, R216, R235: fences and their causes. -/
def Obligations.FencesOfCores : Prop :=
  (∀ (s : State) (site cause : Nat), s.up → site < 72 → site ∉ s.host.insp.fenced → cause ∈ [1, 2, 3, 6] →
    ∃ t, exec (.coreFence site cause) s = .next t ∧ t.fencedFor site cause ∧ t.host.counted s.host Reg.DET_FENCE_COUNT)
  ∧ (∀ (s : State) (site : Nat), s.open_ → site < 72 → site ∉ s.host.insp.fenced → s.host.stopped = false →
    ∃ t, exec (.detFenceGo site) s = .next t ∧ t.fencedFor site 4 ∧ t.host.counted s.host Reg.DET_FENCE_COUNT)
  ∧ (∀ (s : State) (site : Nat), s.open_ → site < 72 → s.host.stopped = true →
    ∃ t, exec (.detFenceGo site) s = .next t ∧ t.host.insp.heldFences = s.host.insp.heldFences ++ [site]
      ∧ t.host.insp.fenced = s.host.insp.fenced
      ∧ s.changes t (fun g => { g with insp := s.host.insp }) [Reg.DET_FENCE.SITE.addr])
  ∧ (∀ (s : State) (site : Nat), s.up → site < 72 → site ∉ s.host.insp.fenced →
    ∃ t, exec (.corePollTimeout site) s = .next t ∧ t.fencedFor site 5 ∧ t.host.counted s.host Reg.DET_FENCE_COUNT)
  ∧ (∀ (s : State) (k site : Nat), s.up → k < 8 → s.host.on Reg.DET_CTRL.SPARE_TEST = true → s.host.spareOf k = some site →
    (∃ t, exec (.spareSelfTest k false) s = .next t ∧ t.fencedFor site 6 ∧ t.host.counted s.host Reg.DET_FENCE_COUNT)
    ∧ (s.settled → exec (.spareSelfTest k true) s = .next s))

/-- R213, R214, R220, R222: halts, spares, digests and releases. -/
def Obligations.HaltRestartAndRelease : Prop :=
  (∀ (s : State) (cause : Nat) (r : Recipe), s.running → s.host.insp.haltReq = some cause → s.host.insp.armed = some r →
    ∃ t, exec .recipeHalt s = .next t ∧ t.host.insp.halted = true ∧ t.host.insp.haltReq = none)
  ∧ (∀ (s : State) (k pos : Nat) (r : Recipe), s.running → s.host.insp.halted = true → s.host.insp.armed = some r →
    s.host.insp.haltReq = none → s.host.insp.respare.find? (fun x => x.1 == k) = some (k, pos) →
    ∃ t, exec (.spareRestart k) s = .next t ∧ Commit.moveId k pos ∈ t.host.insp.commits
      ∧ (∀ x ∈ t.host.insp.respare, x.1 ≠ k) ∧ s.changes t (fun g => { g with insp := s.host.insp }) [])
  ∧ (∀ (s : State) (seq : Nat) (it : Item) (r : Recipe), s.running →
    s.host.insp.items.find? (fun i => i.seq == seq && !i.released) = some it → s.host.recipeOf it.recipe = some r →
    (∀ i ∈ s.host.insp.items, i.recipe = it.recipe → i.seq < it.seq → i.released = true) →
    (it.forced ≠ 0 → it.closeTick.isSome = true → ∃ t, exec (.undecidedRelease seq) s = .next t
      ∧ t.host.insp.lastSeq = seq ∧ ∀ i ∈ t.host.insp.items, i.seq = seq → i.released = true)
    ∧ (it.judged.isSome = true → ∃ t, exec (.verdictRelease seq) s = .next t
      ∧ t.host.insp.lastSeq = seq ∧ ∀ i ∈ t.host.insp.items, i.seq = seq → i.released = true))
  ∧ (∀ (s : State) (seq : Nat) (it i : Item), s.running → s.settled →
    s.host.insp.items.find? (fun i => i.seq == seq && !i.released) = some it → i ∈ s.host.insp.items → i.recipe = it.recipe →
    i.seq < it.seq → i.released = false → exec (.undecidedRelease seq) s = .next s ∧ exec (.verdictRelease seq) s = .next s)
  ∧ (∀ (s : State) (x : Nat) (pre rest : List LineDig) (d : LineDig), s.up → s.host.lineDigs x = pre ++ d :: rest →
    (∀ e ∈ pre, e.dig.isSome = true) → d.dig = none → ((rest.getLast?).map (·.idx)).getD d.idx < d.idx + 4096 →
    ∃ t, exec (.lineDigestDone x) s = .next t ∧ { d with dig := some (lineDigest x d), raw := [] } ∈ t.host.lineDigs x
      ∧ s.changes t (fun g => { g with insp := s.host.insp }) [])

/-- R232 to R235: the states of the global stop. -/
def Obligations.GlobalStopCommands : Prop :=
  (∀ (s : State) (src : Nat), s.up → src < 3 → (src = 0 → s.host.ready = true) → (src = 2 → s.host.on Reg.CLK_DBG_CTRL.EN = true) →
    (s.host.get Reg.GSTOP_STATUS.STATE = 0 → ∃ t, exec (.gstopStop src) s = .next t ∧ t.host.get Reg.GSTOP_STATUS.STATE = 1
      ∧ t.host.get Reg.GSTOP_STATUS.SOURCE = src ∧ t.host.insp.stopRelease = false
      ∧ s.changes t (fun g => { g with insp := s.host.insp }) [Reg.GSTOP_STATUS.STATE.addr])
    ∧ (s.host.get Reg.GSTOP_STATUS.STATE ≠ 0 → ∃ t, exec (.gstopStop src) s = .next t ∧ t.host.get Reg.GSTOP_STATUS.IGNORED = 1
      ∧ t.host.get Reg.GSTOP_STATUS.STATE = s.host.get Reg.GSTOP_STATUS.STATE ∧ s.regsOnly t [Reg.GSTOP_STATUS.IGNORED.addr]))
  ∧ (∀ s : State, s.up → s.host.get Reg.GSTOP_STATUS.STATE = 1 →
    ∃ t, exec .gstopTakeEffect s = .next t ∧ t.host.stopped = true
      ∧ t.host.get Reg.GSTOP_STATUS.STATE = (if s.host.insp.stopRelease then 3 else 2)
      ∧ t.host.get2 Reg.GSTOP_TICK_LO Reg.GSTOP_TICK_HI = s.tick.toNat ∧ t.host.counted s.host Reg.GSTOP_COUNT
      ∧ t.host.get Reg.DET_CSEQ = (s.host.get Reg.DET_CSEQ + 1) % 2 ^ 32 ∧ bit (t.host.get Reg.DET_INT_STATUS) 3 = true)
  ∧ (∀ s : State, s.open_ →
    (s.host.get Reg.GSTOP_STATUS.STATE = 2 → ∃ t, exec (.gstopRelease 0) s = .next t ∧ t.host.get Reg.GSTOP_STATUS.STATE = 3
      ∧ s.regsOnly t [Reg.GSTOP_STATUS.STATE.addr])
    ∧ (s.host.get Reg.GSTOP_STATUS.STATE = 1 → ∃ t, exec (.gstopRelease 0) s = .next t ∧ t.host.insp.stopRelease = true
      ∧ s.changes t (fun g => { g with insp := s.host.insp }) [])
    ∧ (s.host.get Reg.GSTOP_STATUS.STATE = 0 → ∃ t, exec (.gstopRelease 0) s = .next t ∧ t.host.get Reg.GSTOP_STATUS.IGNORED = 1
      ∧ s.regsOnly t [Reg.GSTOP_STATUS.IGNORED.addr]))
  ∧ (∀ s : State, s.up → s.host.get Reg.GSTOP_STATUS.STATE = 3 →
    ∃ t, exec .gstopResume s = .next t ∧ t.host.get Reg.GSTOP_STATUS.STATE = 0 ∧ t.host.insp.heldFences = [] ∧ t.host.heldCtx = [])

/-- R227 to R231: seals; R16, R20, R195, R217, R225, R339: commit points. That a recipe which no longer meets R210 at its commit point is not
armed is the model's choice: log entry 49. -/
def Obligations.SealsAndCommitPoints : Prop :=
  (∀ (s : State) (n : Nat), s.up → n < 16 → s.host.signing = false → s.host.mgmt.quoteSigns = false →
    s.host.sealDue s.env n = true → (s.host.sealFull n = false → ∃ t, exec (.sealStart n) s = .next t
      ∧ (t.host.ring n).sealBody = some (s.host.sealMessage s.env n)
      ∧ (s.host.sealMessage s.env n).take 8 = asciiOf "KM7SEAL1"
      ∧ leNat (((s.host.sealMessage s.env n).drop 8).take 8) = ((s.host.ring n).sealNum + 1) % 2 ^ 64
      ∧ leNat (((s.host.sealMessage s.env n).drop 16).take 2) = n
      ∧ leNat (((s.host.sealMessage s.env n).drop 20).take 4) = (s.host.ring n).leaves.length % 2 ^ 32 ∧ (t.host.ring n).sealTick = s.tick.toNat
      ∧ s.changes t (fun g => { g with rings := s.host.rings }) [(Reg.RR_HELD n).addr])
    ∧ (s.host.sealFull n = true → ∃ t, exec (.sealStart n) s = .next t ∧ t.host.get (Reg.SEAL_STATUS.HELD n) = 1
      ∧ (t.host.ring n).sealBody = none
      ∧ s.changes t (fun g => { g with rings := s.host.rings })
          [(Reg.RR_HELD n).addr, (Reg.SEAL_STATUS.HELD n).addr, Reg.DET_INT_STATUS.addr]))
  ∧ (∀ (s : State) (n : Nat) (m : List Byte), s.up → n < 16 → (s.host.ring n).sealBody = some m →
    (s.host.sealFull n = false → s.host.bme = true → ∃ t, exec (.sealSigned n) s = .next t
      ∧ (∀ a, t.host.mem.byte a =
          (let base := s.host.get (Reg.SEAL_BASE_LO n) * 4096 + s.host.get (Reg.SEAL_BASE_HI n) * 2 ^ 32
              + (s.host.ring n).sealNum % max 1 (s.host.get (Reg.SEAL_SLOTS n)) * 4096
            if base ≤ a ∧ a < base + 4096 then (m ++ identitySign s.host.root m).getD (a - base) 0 else s.host.mem.byte a))
      ∧ t.host.get (Reg.SEAL_COUNT n) = (s.host.get (Reg.SEAL_COUNT n) + 1) % 2 ^ 32 ∧ t.host.get (Reg.SEAL_STATUS.HELD n) = 0
      ∧ (t.host.ring n).sealNum = (s.host.ring n).sealNum + 1 ∧ (t.host.ring n).prevSeal = sha3 m ∧ (t.host.ring n).sealBody = none)
    ∧ (s.host.sealFull n = true → ∃ t, exec (.sealSigned n) s = .next t ∧ t.host.get (Reg.SEAL_STATUS.HELD n) = 1
      ∧ (t.host.ring n).sealBody = none ∧ (t.host.ring n).leaves = (s.host.ring n).leaves))
  ∧ (∀ (s : State) (b : Option (Nat × Nat)) (r : Recipe) (rest : List Commit), s.running → s.host.insp.commits = .disarm b :: rest →
    s.host.insp.armed = some r →
    ∃ t, exec .commitPointApply s = .next t ∧ t.host.insp.commits = rest ++ (s.host.insp.respare.map fun x => .moveId x.1 x.2) ∧ t.host.insp.armed = none
      ∧ t.host.get Reg.DET_CSEQ = (s.host.get Reg.DET_CSEQ + 1) % 2 ^ 32)
  ∧ (∀ (s : State) (slot : Nat) (r : Recipe) (b : Option (Nat × Nat)) (rest : List Commit), s.running →
    s.host.insp.commits = .recipe slot r b :: rest → s.host.commitDue (.recipe slot r b) = true → s.host.r210 r = true →
    s.host.slotsBad s.variant r = false → ∃ t, exec .commitPointApply s = .next t
      ∧ t.host.insp.commits = rest ++ (s.host.insp.respare.map fun x => .moveId x.1 x.2) ∧ t.host.insp.armedSlot = slot
      ∧ (∃ id, t.host.insp.armed = some { r with id := id }) ∧ t.host.insp.halted = false
      ∧ t.host.get Reg.DET_CSEQ = (s.host.get Reg.DET_CSEQ + 1) % 2 ^ 32
      ∧ ∀ n i x, n < 26 → i < 256 → r.slot n i = some x → slotKind x = 1 → t.host.active n i = x % 2 ^ 32)
  ∧ (∀ (s : State) (part clusters us : Nat) (b : Option (Nat × Nat)) (rest : List Commit), s.running →
    s.host.insp.commits = .partition part clusters us b :: rest → s.host.commitDue (.partition part clusters us b) = true →
    s.host.partRefused part clusters = none → (∀ k, k < 8 → bit clusters k = true → s.host.cluHalted k = false) →
    ∃ t, exec .commitPointApply s = .next t ∧ t.host.insp.commits = rest
      ∧ t.host.get Reg.DET_CSEQ = (s.host.get Reg.DET_CSEQ + 1) % 2 ^ 32
      ∧ ∀ k, k < 8 → t.host.partOf k = (if bit clusters k then some part else if s.host.partOf k = some part then none else s.host.partOf k))
  ∧ (∀ (s : State) (k pos : Nat) (rest : List Commit), s.running → s.host.insp.commits = .moveId k pos :: rest → k < 8 → pos < 9 →
    s.host.asleep k = false → ∃ t, exec .commitPointApply s = .next t ∧ t.host.insp.commits = rest
      ∧ t.host.get Reg.DET_CSEQ = (s.host.get Reg.DET_CSEQ + 1) % 2 ^ 32
      ∧ t.host.get ⟨0x800 + k / 2 * 4, k % 2 * 16, 16⟩
          = s.host.fencedBits k + pos * 2 ^ 9 + (if s.host.cluHalted k then 2 ^ 13 else 0)
      ∧ ∀ c, c / 8 = k → t.host.siteOf c =
          (if s.host.cluHalted k then s.host.siteOf c else SMap.find (mapSites k (s.host.fencedBits k) pos) c))
  ∧ (∀ (s : State) (slot : Nat) (r : Recipe) (b : Option (Nat × Nat)) (rest : List Commit), s.running →
    s.host.insp.commits = .recipe slot r b :: rest → s.host.commitDue (.recipe slot r b) = true → s.host.r210 r = false →
    ∃ t, exec .commitPointApply s = .next t ∧ t.host.insp.commits = rest ∧ t.host.insp.armed = s.host.insp.armed
      ∧ t.host.get Reg.DET_CSEQ = s.host.get Reg.DET_CSEQ)

/-- R240, R242 to R244, R246, R247. -/
def Obligations.QuadratureAndHallSteps : Prop :=
  (∀ (s : State) (ch : Nat) (a b : Bool), ch < 4 → s.field.mode ch = 1 → s.field.isOpen ch = false →
    s.field.get (Reg.ENC_CFG.DECODE ch) < 3 →
    ∃ t, exec (.encInputChange ch a b) s = .next t ∧ s.fieldOnly t
      ∧ (t.field.chan ch).a = a ∧ (t.field.chan ch).b = b
      ∧ ((quadPlace a b + 4 - quadPlace (s.field.chan ch).a (s.field.chan ch).b) % 4 = 1 →
          t.field.get (Reg.ENC_RAW ch)
            = (if decodes s ch a b
              then wrap 32 ((s.field.get (Reg.ENC_RAW ch) : Int) + if s.field.on (Reg.ENC_CFG.DIR_INV ch) then -1 else 1)
              else s.field.get (Reg.ENC_RAW ch)))
      ∧ ((quadPlace a b + 4 - quadPlace (s.field.chan ch).a (s.field.chan ch).b) % 4 = 3 →
          t.field.get (Reg.ENC_RAW ch)
            = (if decodes s ch a b
              then wrap 32 ((s.field.get (Reg.ENC_RAW ch) : Int) + if s.field.on (Reg.ENC_CFG.DIR_INV ch) then 1 else -1)
              else s.field.get (Reg.ENC_RAW ch)))
      ∧ ((quadPlace a b + 4 - quadPlace (s.field.chan ch).a (s.field.chan ch).b) % 4 = 2 →
          t.field.get (Reg.ENC_RAW ch) = s.field.get (Reg.ENC_RAW ch)
          ∧ t.field.get (Reg.ENC_ILLEGAL ch) = min (s.field.get (Reg.ENC_ILLEGAL ch) + 1) (2 ^ (Reg.ENC_ILLEGAL ch).w - 1)))
  ∧ (∀ (s : State) (ch a b : Nat) (old code : Nat), ch < 4 → s.field.mode ch = 2 → s.field.isOpen ch = false →
    (s.field.chan ch).hall = some old → hallPlace old = some a → hallPlace code = some b →
    ∃ t, exec (.hallCodeChange ch code) s = .next t ∧ s.fieldOnly t ∧ (t.field.chan ch).hall = some code
      ∧ t.field.get (Reg.ENC_STATUS.HALL_NOW ch) = code
      ∧ (b = (a + 1) % 6 → t.field.get (Reg.ENC_RAW ch)
            = wrap 32 ((s.field.get (Reg.ENC_RAW ch) : Int) + if s.field.on (Reg.ENC_CFG.DIR_INV ch) then -1 else 1))
      ∧ (a = (b + 1) % 6 → t.field.get (Reg.ENC_RAW ch)
            = wrap 32 ((s.field.get (Reg.ENC_RAW ch) : Int) + if s.field.on (Reg.ENC_CFG.DIR_INV ch) then 1 else -1)))
  ∧ (∀ (s : State) (ch code : Nat), ch < 4 → s.field.mode ch = 2 → s.field.isOpen ch = false → code = 0 ∨ code = 7 →
    s.field.get (Reg.ENC_PHASE ch) ≠ 1 →
    ∃ t, exec (.hallCodeChange ch code) s = .next t ∧ t.field.get (Reg.ENC_STATUS.HALL_BAD ch) = code
      ∧ t.field.get (Reg.ENC_HALL_IMPOSS ch) = min (s.field.get (Reg.ENC_HALL_IMPOSS ch) + 1) (2 ^ (Reg.ENC_HALL_IMPOSS ch).w - 1)
      ∧ t.field.get (Reg.ENC_RAW ch) = s.field.get (Reg.ENC_RAW ch) ∧ (t.field.chan ch).hall = none)
  ∧ (∀ (s : State) (ch code : Nat), ch < 4 → s.field.mode ch = 2 → s.field.isOpen ch = false → code = 0 ∨ code = 7 →
    s.field.get (Reg.ENC_PHASE ch) = 1 →
    ∃ t, exec (.hallCodeChange ch code) s = .next t ∧ s.illegalStep t ch ∧ (t.field.chan ch).hall = none
      ∧ t.field.get (Reg.ENC_STATUS.HALL_BAD ch) = s.field.get (Reg.ENC_STATUS.HALL_BAD ch)
      ∧ t.field.get (Reg.ENC_STATUS.HALL_IMPOSS ch) = s.field.get (Reg.ENC_STATUS.HALL_IMPOSS ch))
  ∧ (∀ (s : State) (ch pair : Nat), ch < 4 → pair < 3 → bit (s.field.inUse ch) pair = true →
    ∃ t, exec (.encOpenDetect ch pair) s = .next t ∧ bit (t.field.chan ch).openPairs pair = true
      ∧ t.field.get (Reg.ENC_STATUS.OPEN ch) = 1 ∧ t.field.get (Reg.ENC_STATUS.OPEN_SEEN ch) = 1)
  ∧ (∀ (s : State) (ch pair : Nat), ch < 4 → pair < 3 → bit (s.field.chan ch).openPairs pair = true →
    ∃ t, exec (.encOpenClear ch pair) s = .next t ∧ bit (t.field.chan ch).openPairs pair = false
      ∧ s.fieldOnly t ∧ t.field.get (Reg.ENC_RAW ch) = s.field.get (Reg.ENC_RAW ch)
      ∧ (t.field.pos ch = s.field.pos ch → s.fieldChanges t (fun d => { d with enc := s.field.enc }) [(Reg.ENC_STATUS.OPEN ch).addr])
      ∧ (t.field.isOpen ch = true → t.field.pos ch = s.field.pos ch)
      ∧ (t.field.isOpen ch = false → s.field.on (Reg.ENC_CFG.HYST_EN ch) = false → s.field.mode ch ≤ 3 →
          t.field.pos ch = s.field.get (Reg.ENC_RAW ch)))
  ∧ (∀ (s : State) (ch code : Nat) (a b : Bool), s.field.isOpen ch = true →
    exec (.encInputChange ch a b) s = .next s ∧ exec (.hallCodeChange ch code) s = .next s)

/-- R243: illegal transitions, of Hall codes as R246 says and of sin/cos samples as R250 says. Q of mode 3 is what R250 makes of F. -/
def Obligations.IllegalTransitions : Prop :=
  ∀ (s : State) (ch : Nat), ch < 4 → s.field.isOpen ch = false →
    (∀ a b : Bool, s.field.mode ch = 1 → a ≠ (s.field.chan ch).a → b ≠ (s.field.chan ch).b →
      ∃ t, exec (.encInputChange ch a b) s = .next t ∧ s.illegalStep t ch ∧ (t.field.chan ch).a = a ∧ (t.field.chan ch).b = b)
    ∧ (∀ old code i j : Nat, s.field.mode ch = 2 → (s.field.chan ch).hall = some old → hallPlace old = some i → hallPlace code = some j →
      j ≠ i → j ≠ (i + 1) % 6 → i ≠ (j + 1) % 6 →
      ∃ t, exec (.hallCodeChange ch code) s = .next t ∧ s.illegalStep t ch ∧ (t.field.chan ch).hall = some code)
    ∧ (∀ sn cs p : Nat, ch < 2 → s.field.mode ch = 3 → (s.field.chan ch).thPrev = some p → p < 65536 →
      s.field.get (Reg.ENC_RAW ch) = wrap 32 ((s.field.chan ch).f / 2 ^ (16 - s.field.get (Reg.ENC_CFG.INTERP_LOG2 ch))) →
      ∃ t, exec (.sincosSample ch sn cs) s = .next t
        ∧ ((s.field.get (Reg.SC_AMP.AMP_MIN ch) : Int) ^ 2 ≤ (t.field.chan ch).s1 ^ 2 + (t.field.chan ch).c2 ^ 2 →
          (t.field.chan ch).s1 ^ 2 + (t.field.chan ch).c2 ^ 2 ≤ (s.field.get (Reg.SC_AMP.AMP_MAX ch) : Int) ^ 2 →
          16384 < (sext 16 (t.field.get (Reg.SC_STAT.ANGLE ch) + 65536 - p)).natAbs →
          s.illegalStep t ch ∧ (t.field.chan ch).f = (s.field.chan ch).f
            ∧ (t.field.chan ch).thPrev = some (t.field.get (Reg.SC_STAT.ANGLE ch))))

/-- R245, R252, R261 to R263. -/
def Obligations.EncoderCommandsAndModes : Prop :=
  (∀ (s : State) (ch : Nat), ch < 4 →
    ∃ t, exec (.encLatch ch) s = .next t ∧ t.field.get (Reg.LAT_POS ch) = s.field.pos ch
      ∧ t.field.get (Reg.LAT_X_LO ch) + t.field.get (Reg.LAT_X_HI ch) * 2 ^ 32 = wrap 64 (s.field.chan ch).x
      ∧ t.field.get (Reg.LAT_V_LO ch) + t.field.get (Reg.LAT_V_HI ch) * 2 ^ 32 = wrap 64 (s.field.chan ch).v
      ∧ t.field.get (Reg.LAT_A_LO ch) + t.field.get (Reg.LAT_A_HI ch) * 2 ^ 32 = wrap 64 (s.field.chan ch).acc
      ∧ s.fieldRegsOnly t ([Reg.LAT_POS, Reg.LAT_X_LO, Reg.LAT_X_HI, Reg.LAT_V_LO, Reg.LAT_V_HI, Reg.LAT_A_LO, Reg.LAT_A_HI,
          Reg.LAT_STATUS].map fun f => (f ch).addr))
  ∧ (∀ (s : State) (ch : Nat), ch < 4 →
    ∃ t, exec (.encClrCnt ch) s = .next t ∧ s.fieldOnly t ∧ t.field.pos ch = s.field.get (Reg.ENC_PRESET ch)
      ∧ t.field.get (Reg.ENC_RAW ch) = s.field.get (Reg.ENC_PRESET ch)
      ∧ (t.field.chan ch).x = 0 ∧ (t.field.chan ch).v = 0 ∧ (t.field.chan ch).acc = 0)
  ∧ (∀ (s : State) (ch : Nat), ch < 2 →
    ∃ t, exec (.encCalClr ch) s = .next t ∧ t.field.get (Reg.SC_CAL_S.MIN ch) = 0x1FFF ∧ t.field.get (Reg.SC_CAL_S.MAX ch) = 0x2000
      ∧ t.field.get (Reg.SC_CAL_C.MIN ch) = 0x1FFF ∧ t.field.get (Reg.SC_CAL_C.MAX ch) = 0x2000
      ∧ t.field.get (Reg.SC_CAL_PERIODS ch) = 0
      ∧ s.fieldRegsOnly t [(Reg.SC_CAL_S.MIN ch).addr, (Reg.SC_CAL_C.MIN ch).addr, (Reg.SC_CAL_PERIODS ch).addr])
  ∧ (∀ (s : State) (ch : Nat), ch < 4 →
    (10 ≤ s.field.get (Reg.OBS_BW ch) → s.field.get (Reg.OBS_BW ch) ≤ 20000 →
      ∃ t, exec (.encBwSet ch) s = .next t ∧ t.field.get (Reg.OBS_K1.M ch) = (gainsOf (s.field.get (Reg.OBS_BW ch))).1.1 % 2 ^ 16
        ∧ t.field.get (Reg.OBS_K2.M ch) = (gainsOf (s.field.get (Reg.OBS_BW ch))).2.1.1 % 2 ^ 16
        ∧ t.field.get (Reg.OBS_K3.M ch) = (gainsOf (s.field.get (Reg.OBS_BW ch))).2.2.1 % 2 ^ 16
        ∧ (t.field.chan ch).m1 = t.field.get (Reg.OBS_K1.M ch) ∧ (t.field.chan ch).m3 = t.field.get (Reg.OBS_K3.M ch)
        ∧ s.fieldChanges t (fun d => { d with enc := s.field.enc })
            [(Reg.OBS_K1.M ch).addr, (Reg.OBS_K2.M ch).addr, (Reg.OBS_K3.M ch).addr])
    ∧ (s.field.get (Reg.OBS_BW ch) < 10 ∨ 20000 < s.field.get (Reg.OBS_BW ch) →
      ∃ t, exec (.encBwSet ch) s = .next t ∧ t.field.get (Reg.ENC_STATUS.CFG_INVALID ch) = 1
        ∧ s.fieldRegsOnly t [(Reg.ENC_STATUS.CFG_INVALID ch).addr]))
  ∧ (∀ (s : State) (ch : Nat), ch < 4 →
    ∃ t, exec (.encKApply ch) s = .next t ∧ s.fieldChanges t (fun d => { d with enc := s.field.enc }) []
      ∧ (t.field.chan ch).m1 = s.field.get (Reg.OBS_K1.M ch) ∧ (t.field.chan ch).s1g = s.field.get (Reg.OBS_K1.S ch)
      ∧ (t.field.chan ch).m2 = s.field.get (Reg.OBS_K2.M ch) ∧ (t.field.chan ch).m3 = s.field.get (Reg.OBS_K3.M ch)
      ∧ (t.field.chan ch).x = (s.field.chan ch).x)
  ∧ (∀ (s : State) (ch : Nat), ch < 4 → s.field.mode ch = 1 → s.field.isOpen ch = false → (s.field.chan ch).z = false →
    s.field.on (Reg.ENC_CFG.ZQ_EN ch) = false → s.field.get (Reg.ENC_CFG.ZMODE ch) = 1 →
    ∃ t, exec (.encZEdge ch true) s = .next t ∧ s.fieldOnly t ∧ t.field.get (Reg.ENC_ZLATCH ch) = s.field.pos ch
      ∧ t.field.get (Reg.ENC_STATUS.ZSEEN ch) = 1 ∧ t.field.pos ch = s.field.pos ch)
  ∧ (∀ (s : State) (ch : Nat) (v : Word), ch < 4 →
    (s.field.encRefused ch 0 v.toNat = false → v.toNat % 8 ≠ s.field.mode ch →
      ∃ t, exec (.encModeChange ch v) s = .next t ∧ t.field.mode ch = v.toNat % 8 ∧ t.field.get (Reg.ENC_PHASE ch) = 0
        ∧ t.field.pos ch = s.field.get (Reg.ENC_PRESET ch) ∧ (t.field.chan ch).x = 0 ∧ (t.field.chan ch).v = 0
        ∧ t.field.get (Reg.ENC_STATUS.LOST ch) = 0)
    ∧ (s.field.encRefused ch 0 v.toNat = true → ∃ t, exec (.encModeChange ch v) s = .next t
        ∧ t.field.get (Reg.ENC_STATUS.CFG_INVALID ch) = 1 ∧ t.field.mode ch = s.field.mode ch
        ∧ s.fieldRegsOnly t [(Reg.ENC_STATUS.CFG_INVALID ch).addr]))

/-- R240, R253 to R258. That an open pair fails the end check is the model's reading (log entry 26). -/
def Obligations.SerialFramesAndBridging : Prop :=
  (∀ (s : State) (ch : Nat), s.field.serial ch = true → (s.field.chan ch).busy = false →
    (∃ t, exec (.serFrameStart ch false) s = .next t ∧ (t.field.chan ch).busy = true
      ∧ s.fieldChanges t (fun d => { d with enc := s.field.enc }) [])
    ∧ ∃ t, exec (.serFrameStart ch true) s = .next t ∧ (t.field.chan ch).busy = false ∧ t.field.get (Reg.ENC_STATUS.SER_CAUSE ch) = 1
      ∧ t.field.get (Reg.ENC_SER_ERRS ch) = min (s.field.get (Reg.ENC_SER_ERRS ch) + 1) (2 ^ (Reg.ENC_SER_ERRS ch).w - 1))
  ∧ (∀ (s : State) (ch : Nat), s.field.serial ch = true → (s.field.chan ch).busy = true →
    (s.field.mode ch = 5 → ∃ t, exec (.serStartTimeout ch) s = .next t ∧ (t.field.chan ch).busy = false
      ∧ t.field.get (Reg.ENC_STATUS.SER_CAUSE ch) = 2)
    ∧ (∃ t, exec (.serEndTimeout ch) s = .next t ∧ (t.field.chan ch).busy = false ∧ t.field.get (Reg.ENC_STATUS.SER_CAUSE ch) = 3
      ∧ t.field.get (Reg.ENC_SER_ERRS ch) = min (s.field.get (Reg.ENC_SER_ERRS ch) + 1) (2 ^ (Reg.ENC_SER_ERRS ch).w - 1))
    ∧ (∀ raw delay n, s.field.isOpen ch = true → ∃ t, exec (.serFrameDone ch raw delay n) s = .next t ∧ (t.field.chan ch).busy = false
      ∧ t.field.get (Reg.ENC_STATUS.SER_CAUSE ch) = 3 ∧ t.field.pos ch = s.field.pos ch)
    ∧ (∀ raw delay n cause w warn, s.field.isOpen ch = false → s.field.frameWord ch raw = (some cause, w, warn) →
      ∃ t, exec (.serFrameDone ch raw delay n) s = .next t ∧ (t.field.chan ch).busy = false
        ∧ t.field.get (Reg.ENC_STATUS.SER_CAUSE ch) = cause ∧ t.field.get (Reg.ENC_RAW ch) = s.field.get (Reg.ENC_RAW ch))
    ∧ (∀ raw delay n w warn, s.field.isOpen ch = false → s.field.frameWord ch raw = (none, w, warn) → (s.field.chan ch).wPrev = none →
      ∃ t, exec (.serFrameDone ch raw delay n) s = .next t ∧ (t.field.chan ch).busy = false ∧ (t.field.chan ch).wPrev = some w
        ∧ t.field.get (Reg.ENC_RAW ch) = (w + s.field.get (Reg.ENC_PRESET ch)) % 2 ^ 32
        ∧ t.field.get (Reg.ENC_STATUS.LOST ch) = 0 ∧ (t.field.chan ch).failRun = 0))
  ∧ (∀ (s : State) (ch n : Nat), s.field.serial ch = true → s.field.on (Reg.SER_CFG.BRIDGE_EN ch) = true →
    s.field.on (Reg.ENC_STATUS.LOST ch) = false → s.field.on (Reg.ENC_CFG.HYST_EN ch) = false → s.field.isOpen ch = false →
    ∃ t, exec (.bridgedCountStep ch n) s = .next t ∧ (t.field.chan ch).n = n
      ∧ t.field.pos ch = wrap 32 ((s.field.get (Reg.ENC_RAW ch) : Int) + (s.field.chan ch).v * (n : Int) / (40960 * 2 ^ 32))
      ∧ t.field.get (Reg.ENC_RAW ch) = s.field.get (Reg.ENC_RAW ch))
  ∧ (∀ (s : State) (ch n : Nat), ch < 4 → s.field.held ch = true →
    (∃ t, exec (.bridgedCountStep ch n) s = .next t ∧ t.field.pos ch = s.field.pos ch)
    ∧ ∃ t, exec (.observerUpdate ch n) s = .next t ∧ t.field.pos ch = s.field.pos ch)

/-- R248 to R251, R258 to R260, R264. -/
def Obligations.ObserverSinCosRepeater : Prop :=
  (∀ (s : State) (ch n : Nat) (e : Int), ch < 4 → 1 ≤ s.field.mode ch → s.field.mode ch ≤ 5 →
    (4 ≤ s.field.mode ch → s.field.on (Reg.ENC_STATUS.LOST ch) = false) →
    e = (if s.field.mode ch ≤ 3 then sext 64 (wrap 64 ((s.field.pos ch : Int) * 2 ^ 32 - (s.field.chan ch).x))
      else if (s.field.chan ch).fresh then
        sext 64 (wrap 64 ((s.field.get (Reg.ENC_RAW ch) : Int) * 2 ^ 32 + (s.field.chan ch).v * (n : Int) / 40960 - (s.field.chan ch).x))
      else 0) →
    ∃ t, exec (.observerUpdate ch n) s = .next t ∧ s.fieldOnly t
      ∧ (t.field.chan ch).x = sext 64 (wrap 64 ((s.field.chan ch).x + (s.field.chan ch).v / 2 ^ 8
          + rsh (e * (s.field.chan ch).m1) (s.field.chan ch).s1g))
      ∧ (t.field.chan ch).v = satS 64 ((s.field.chan ch).v + (s.field.chan ch).acc / 2 ^ 16
          + rsh (e * (s.field.chan ch).m2) (((s.field.chan ch).s2g : Int) - 8))
      ∧ (t.field.chan ch).acc = satS 64 ((s.field.chan ch).acc + rsh (e * (s.field.chan ch).m3) (((s.field.chan ch).s3g : Int) - 24))
      ∧ (t.field.chan ch).fresh = false ∧ t.field.get (Reg.ENC_RAW ch) = s.field.get (Reg.ENC_RAW ch)
      ∧ (s.field.mode ch ≤ 3 → t.field.pos ch = s.field.pos ch))
  ∧ (∀ (s : State) (ch sn cs : Nat) (s1 c1 c2 : Int), ch < 2 → s.field.mode ch = 3 → s.field.isOpen ch = false →
    s1 = clampS (-16384) 16383
      (((sext 14 sn - sext 14 (s.field.get (Reg.SC_OFS.OFS_S ch))) * (s.field.get (Reg.SC_GAIN.GAIN_S ch) : Int) + 8192) / 2 ^ 14) →
    c1 = clampS (-16384) 16383
      (((sext 14 cs - sext 14 (s.field.get (Reg.SC_OFS.OFS_C ch))) * (s.field.get (Reg.SC_GAIN.GAIN_C ch) : Int) + 8192) / 2 ^ 14) →
    c2 = clampS (-16384) 16383 (c1 + (s1 * sext 16 (s.field.get (Reg.SC_PHASE ch)) + 16384) / 2 ^ 15) →
    ∃ t, exec (.sincosSample ch sn cs) s = .next t ∧ s.fieldOnly t ∧ (t.field.chan ch).s1 = s1 ∧ (t.field.chan ch).c2 = c2
      ∧ t.field.get (Reg.SC_STAT.ANGLE ch) = angleOf c2 s1
      ∧ ((t.field.get (Reg.SC_STAT.AMPL ch) : Int) ^ 2 ≤ s1 ^ 2 + c2 ^ 2
        ∧ s1 ^ 2 + c2 ^ 2 < ((t.field.get (Reg.SC_STAT.AMPL ch) : Int) + 1) ^ 2)
      ∧ (if (s.field.get (Reg.SC_AMP.AMP_MIN ch) : Int) ^ 2 ≤ s1 ^ 2 + c2 ^ 2 ∧ s1 ^ 2 + c2 ^ 2 ≤ (s.field.get (Reg.SC_AMP.AMP_MAX ch) : Int) ^ 2
        then t.field.get (Reg.ENC_STATUS.LOST ch) = 0 ∧ (t.field.chan ch).ampRun = 0
          ∧ (t.field.chan ch).thPrev = some (angleOf c2 s1)
          ∧ t.field.get (Reg.ENC_AMP_EVENTS ch) = s.field.get (Reg.ENC_AMP_EVENTS ch)
          ∧ ((s.field.chan ch).thPrev = none → (t.field.chan ch).f = (s.field.chan ch).f ∧ t.field.pos ch = s.field.pos ch
              ∧ t.field.get (Reg.ENC_RAW ch) = s.field.get (Reg.ENC_RAW ch))
          ∧ (∀ p z, (s.field.chan ch).thPrev = some p → p < 65536 →
              z = (if s.field.on (Reg.ENC_CFG.DIR_INV ch) then - sext 16 (angleOf c2 s1 + 65536 - p) else sext 16 (angleOf c2 s1 + 65536 - p)) →
              z.natAbs ≤ 16384 → (t.field.chan ch).f = sext 48 (wrap 48 ((s.field.chan ch).f + z))
                ∧ t.field.get (Reg.ENC_RAW ch) = wrap 32 ((t.field.chan ch).f / 2 ^ (16 - s.field.get (Reg.ENC_CFG.INTERP_LOG2 ch))))
        else t.field.get (Reg.ENC_AMP_EVENTS ch) = min (s.field.get (Reg.ENC_AMP_EVENTS ch) + 1) (2 ^ 32 - 1)
          ∧ (t.field.chan ch).f = (s.field.chan ch).f ∧ (t.field.chan ch).thPrev = (s.field.chan ch).thPrev
          ∧ t.field.get (Reg.ENC_RAW ch) = s.field.get (Reg.ENC_RAW ch) ∧ t.field.pos ch = s.field.pos ch))
  ∧ (∀ (s : State) (i : Nat), i < 2 → s.field.get (Reg.REP_CTRL.MODE i) = 2 →
    sdiff (s.field.pos i) (SMap.get (fun _ => {}) s.field.rep i : Repeater).r ≠ 0 →
    (sdiff (s.field.pos i) (SMap.get (fun _ => {}) s.field.rep i : Repeater).r).natAbs ≤ 65535 →
    ∃ t, exec (.repStep i) s = .next t ∧ s.fieldOnly t
      ∧ (SMap.get (fun _ => {}) t.field.rep i : Repeater).r
        = wrap 32 (((SMap.get (fun _ => {}) s.field.rep i : Repeater).r : Int)
            + if 0 < sdiff (s.field.pos i) (SMap.get (fun _ => {}) s.field.rep i : Repeater).r then 1 else -1)
      ∧ quadPlace (SMap.get (fun _ => {}) t.field.rep i : Repeater).a (SMap.get (fun _ => {}) t.field.rep i : Repeater).b
        = (quadPlace (SMap.get (fun _ => {}) s.field.rep i : Repeater).a (SMap.get (fun _ => {}) s.field.rep i : Repeater).b
            + if 0 < sdiff (s.field.pos i) (SMap.get (fun _ => {}) s.field.rep i : Repeater).r then 1 else 3) % 4
      ∧ t.field.pos i = s.field.pos i)

/-- R270, R271: no bit of a frame is lost between its two ends. -/
def Obligations.BarrierFrameRoundTrip : Prop :=
  ∀ type payload wait : Nat, type < 256 → payload < 2 ^ 64 → wait < 128 →
    frameRead (frameOf type payload wait) = { sync := true, good := true, type := type, payload := payload, wait := wait }
      ∧ frameOf type payload wait < 2 ^ 100

/-- R271 to R274. -/
def Obligations.BarrierFrames : Prop :=
  (∀ (s : State) (wait : Nat) (waits : List Nat) (m : Msg), s.up → s.host.bar.port.hbWin < 63 → pickMsg false s.host.bar.port.tx = some m →
    ∃ t, exec (.barrierFrameLaunch false wait waits) s = .next t
      ∧ t.host.bar.port.lastTx = frameOf m.type m.payload (if m.late then 127 else wait)
      ∧ t.host.bar.port.tx = (dropMsg m s.host.bar.port.tx).map (fun x => { x with late := true })
      ∧ s.changes t (fun g => { g with bar := s.host.bar }) [Reg.BAR_LATE.addr])
  ∧ (∀ (s : State) (wait j : Nat) (waits : List Nat), s.field.ctl ≠ 0 → s.field.port.hbWin < 63 → j < 8 → (s.field.src j).tick.isSome = true →
    ∃ t, exec (.barrierFrameLaunch true wait waits) s = .next t ∧ s.fieldOnly t
      ∧ t.field.port.lastTx = frameOf 0x10 (s.field.tickPayload waits) wait)
  ∧ (∀ (s : State) (frame : Nat), s.up → s.host.bar.port.locked = true → (frameRead frame).sync = true →
    ((frameRead frame).good = true → typeOk true (frameRead frame).type = true → (frameRead frame).type ≠ 0x10 →
      ∃ t, exec (.barrierFrameRx true frame) s = .next t
        ∧ t.host.bar.port.rx = s.host.bar.port.rx ++ [{ type := (frameRead frame).type, payload := (frameRead frame).payload,
                                                        late := (frameRead frame).wait == 127 }]
        ∧ t.host.bar.lost = false ∧ t.host.get Reg.BAR_STATUS.RX_LOCK = 1
        ∧ s.changes t (fun g => { g with bar := s.host.bar }) [Reg.BAR_STATUS.RX_LOCK.addr])
    ∧ ((frameRead frame).good = true → (frameRead frame).type = 0x10 → ∃ t, exec (.barrierFrameRx true frame) s = .next t
        ∧ (∀ j, j < 8 → (t.host.trig j).ticks = (s.host.trig j).ticks
            ++ (if tickBits frame j % 2 = 1 ∨ tickBits frame j / 2 % 64 = 1 then [tickBits frame j / 128] else []))
        ∧ t.host.get Reg.BAR_LATE = min (2 ^ Reg.BAR_LATE.w - 1) (s.host.get Reg.BAR_LATE
            + ((List.range 8).filter fun j => tickBits frame j % 2 == 0 && tickBits frame j / 2 % 64 == 1).length))
    ∧ ((frameRead frame).good = false ∨ typeOk true (frameRead frame).type = false → ∃ t, exec (.barrierFrameRx true frame) s = .next t
        ∧ t.host.bar.port.rx = s.host.bar.port.rx ∧ (∀ j, t.host.trig j = s.host.trig j) ∧ t.host.counted s.host Reg.BAR_CRC_ERR ∧ t.host.get Reg.BAR_STATUS.CRC = 1))
  ∧ (∀ (s : State) (frame : Nat), s.field.ctl ≠ 0 → s.field.port.locked = true → (frameRead frame).sync = true →
    ((frameRead frame).good = true → typeOk false (frameRead frame).type = true →
      ∃ t, exec (.barrierFrameRx false frame) s = .next t ∧ s.fieldChanges t (fun d => { d with port := s.field.port }) []
        ∧ t.field.port.rx = s.field.port.rx ++ [{ type := (frameRead frame).type, payload := (frameRead frame).payload,
                                                  late := (frameRead frame).wait == 127 }])
    ∧ ((frameRead frame).good = false ∨ typeOk false (frameRead frame).type = false → ∃ t, exec (.barrierFrameRx false frame) s = .next t
        ∧ t.field.port.rx = s.field.port.rx ∧ t.field.crcErr = s.field.crcErr + 1))
  ∧ (∀ s : State, s.up → ∃ t, exec (.barrierSyncLoss true) s = .next t ∧ t.host.bar.port.locked = false
    ∧ t.host.get Reg.BAR_STATUS.RX_LOCK = 0 ∧ s.changes t (fun g => { g with bar := s.host.bar }) [Reg.BAR_STATUS.RX_LOCK.addr])
  ∧ (∀ s : State, ∃ t, exec (.barrierSyncLoss false) s = .next t ∧ t.field.port.locked = false
    ∧ s.fieldChanges t (fun d => { d with port := s.field.port }) [])

/-- R55, R93, R275, R276, R279, R285, R289, R293, R294, R296. What a tick before the first snapshot does, and that HS_UPLINK reads 1 in state UP
only, are the model's choices (log entries 22, 27). -/
def Obligations.HostEndMessages : Prop :=
  (∀ (p q : BarEnd) (ty : Nat) (m : Msg), p.take ty = some (m, q) → m.type = ty
      ∧ ∃ a b, p.rx = a ++ m :: b ∧ (∀ x ∈ a, x.type ≠ ty) ∧ q = { p with rx := a ++ b })
  ∧ (∀ (s : State) (j i : Nat) (rest : List Nat), s.up → (s.host.trig j).ticks = i :: rest →
    ∃ t, exec (.lineTick j) s = .next t ∧ (t.host.trig j).ticks = rest
      ∧ (∀ n, n < s.variant.links → (t.host.link n).trigs = (s.host.link n).trigs
          + if s.host.linkState n = 5 ∧ s.host.on (Reg.CXP_TRIG.EN n) = true ∧ s.host.get (Reg.CXP_TRIG.SRC n) = j
              ∧ s.host.on (Reg.CXP_STATE.HS_UPLINK n) = true then 1 else 0)
      ∧ ((s.host.trig j).based = false → t.host.trig j = { s.host.trig j with ticks := rest } ∧ t.host.ctxs = s.host.ctxs
          ∧ t.host.insp = s.host.insp)
      ∧ ((s.host.trig j).based = true → (s.host.trig j).idx = i →
          (t.host.trig j).next = ((s.host.trig j).next + (s.host.trig j).n) % 2 ^ 32
          ∧ t.host.get Reg.BAR_TICK_LOST = s.host.get Reg.BAR_TICK_LOST
          ∧ ∀ x, x < s.variant.ctxs → (s.host.ctx x).ticks.length < 64 → (t.host.ctx x).ticks = (s.host.ctx x).ticks
              ++ if s.host.ctxOn x = true ∧ s.host.on (Reg.CTX_CTRL.TICK_PAIR x) = true ∧ s.host.get (Reg.CTX_CTRL.TRIG_SRC x) = j
                then [(s.host.trig j).next] else [])
      ∧ ((s.host.trig j).based = true → (s.host.trig j).idx ≠ i →
          (t.host.trig j).next = ((s.host.trig j).next + 2 * (s.host.trig j).n) % 2 ^ 32 ∧ t.host.counted s.host Reg.BAR_TICK_LOST))
  ∧ (∀ (s : State) (m : Msg) (p : BarEnd), s.up → s.host.bar.port.take 0x11 = some (m, p) → m.payload / 4 % 4 = 1 →
    (s.host.trig (m.payload / 16 % 8)).based = false →
    ∃ t, exec .encSnapshot s = .next t ∧ (t.host.trig (m.payload / 16 % 8)).based = true
      ∧ (t.host.trig (m.payload / 16 % 8)).next = m.payload / 2 ^ 8 % 2 ^ 32
      ∧ s.changes t (fun g => { g with bar := s.host.bar }) [])
  ∧ (∀ (s : State) (m : Msg) (p : BarEnd), s.up → s.host.bar.port.take 0x01 = some (m, p) →
    ∃ t, exec .fieldHeartbeat s = .next t ∧ t.host.get Reg.BAR_STATUS.SAFE = m.payload / 2 ^ 16 % 2
      ∧ t.host.get Reg.BAR_DI_NOW = m.payload / 2 ^ 33 % 2 ^ 16 ∧ t.host.bar.port.hbSeen = some (m.payload % 65536)
      ∧ (m.payload / 2 ^ 16 % 2 = 1 → t.host.insp.out = []))
  ∧ (∀ (s : State) (m : Msg) (p : BarEnd), s.up → s.host.bar.port.take 0x12 = some (m, p) →
    ∃ t, exec .diChange s = .next t ∧ t.host.get Reg.BAR_DI_NOW = m.payload % 65536 ∧ t.host.bar.port = p)
  ∧ (∀ (s : State) (m : Msg) (p : BarEnd), s.up → s.host.bar.port.take 0x13 = some (m, p) →
    ((∃ o ∈ s.host.insp.out, o.group = m.payload % 8 ∧ o.tag = m.payload / 8 % 1024) →
      ∃ t, exec .ejectReport s = .next t ∧ t.host.bar.port = p
        ∧ t.host.insp.out = s.host.insp.out.filter fun x => !(x.group == m.payload % 8 && x.tag == m.payload / 8 % 1024))
    ∧ ((∀ o ∈ s.host.insp.out, ¬ (o.group = m.payload % 8 ∧ o.tag = m.payload / 8 % 1024)) →
      ∃ t, exec .ejectReport s = .next t ∧ t.host.bar.port = p ∧ t.host.insp.out = s.host.insp.out
        ∧ t.host.counted s.host Reg.BAR_DUP_RPT))
  ∧ (∀ (s : State) (m : Msg) (p : BarEnd), s.up → s.host.bar.port.take 0x14 = some (m, p) →
    ∃ t, exec .fault s = .next t ∧ t.host.bar = { s.host.bar with port := p } ∧ s.changes t (fun g => { g with bar := s.host.bar }) [])
  ∧ (∀ s : State, s.up → ∃ t, exec .fieldLoss s = .next t ∧ t.host.get Reg.BAR_STATUS.FIELD_LOST = 1 ∧ t.host.bar.lost = true
    ∧ t.host.insp.out = [])
  ∧ (∀ (s : State) (m : Msg) (p : BarEnd), s.up → s.host.bar.port.take 0x23 = some (m, p) →
    ∃ t, exec .cfgReadResponse s = .next t ∧ t.host.bar
      = { s.host.bar with port := p, reqs := s.host.bar.reqs.filter fun x => x.rtag != m.payload / 2 ^ 16 % 256 })
  ∧ (∀ s : State, s.up → s.host.bar.reqs ≠ [] →
    ∃ t, exec .cfgResponseTimeout s = .next t ∧ (t.host.bar.reqs.length = s.host.bar.reqs.length
      ∨ t.host.bar.reqs = s.host.bar.reqs.tail ∧ t.host.get Reg.BAR_STATUS.CFG_FAIL = 1))
  ∧ (∀ s : State, s.open_ → ∃ t, exec .barRelease s = .next t ∧ t.host.bar = { s.host.bar with release := 4 }
    ∧ s.changes t (fun g => { g with bar := s.host.bar }) [])

/-- R276, R290. That an applied write takes its commit sequence when its response arrives is the model's reading (log entry 18). -/
def Obligations.ConfigurationAccesses : Prop :=
  (∀ (s : State) (c : Instr) (m : Msg) (p : BarEnd) (tag : Nat),
    (c = .cfgWrite ∧ s.field.port.take 0x22 = some (m, p) ∧ tag = m.payload / 2 ^ 16 % 256
      ∨ c = .cfgRead ∧ s.field.port.take 0x23 = some (m, p) ∧ tag = m.payload / 2 ^ 16 % 256
      ∨ c = .doSet ∧ s.field.port.take 0x21 = some (m, p) ∧ tag = m.payload / 2 ^ 32 % 256) →
    s.field.lastTag = some tag →
    ∃ t, exec c s = .next t ∧ s.fieldOnly t
      ∧ t.field = { s.field with port := { p with tx := p.tx ++
                      if s.field.ctl = 0 then [] else [{ type := 0x23, payload := s.field.lastAns }] } })
  ∧ (∀ (s : State) (m : Msg) (p : BarEnd) (off tag : Nat) (v : Word) (w : FieldDie × Bool), s.field.port.take 0x22 = some (m, p) →
    off = m.payload % 65536 → tag = m.payload / 2 ^ 16 % 256 → v = BitVec.ofNat 32 (m.payload / 2 ^ 32) → s.field.lastTag ≠ some tag →
    w = ({ s.field with port := p } : FieldDie).cfgWrite off v →
    ∃ t, exec .cfgWrite s = .next t ∧ s.fieldOnly t ∧ t.field.regs = w.1.regs ∧ t.field.lastTag = some tag
      ∧ t.field.lastAns = off + tag * 2 ^ 16 + b2n w.2 * 2 ^ 24 + (w.1.cfgShow off).toNat * 2 ^ 32
      ∧ (w.1.ctl ≠ 0 → t.field.port.tx = w.1.port.tx ++ [{ type := 0x23, payload := t.field.lastAns }])
      ∧ (w.2 = true → 0x100 ≤ off → off < 0x4000 → t.field.regs = s.field.regs)
      ∧ (∀ g, g < 8 → off = (Reg.WG_LATE g).addr - 0xE0000 → w.2 = false ∧ t.field.get (Reg.WG_LATE g) = (Reg.WG_LATE g).ofWord v
        ∧ ∀ a, a ≠ (Reg.WG_LATE g).addr → t.field.regs.word a = s.field.regs.word a))
  ∧ (∀ (s : State) (m : Msg) (p : BarEnd) (off tag : Nat), s.field.port.take 0x23 = some (m, p) →
    off = m.payload % 65536 → tag = m.payload / 2 ^ 16 % 256 → s.field.lastTag ≠ some tag →
    ∃ t, exec .cfgRead s = .next t ∧ s.fieldOnly t ∧ t.field.lastTag = some tag
      ∧ t.field.lastAns = off + tag * 2 ^ 16 + (s.field.cfgShow off).toNat * 2 ^ 32
      ∧ (s.field.ctl ≠ 0 → t.field.port.tx = p.tx ++ [{ type := 0x23, payload := t.field.lastAns }])
      ∧ (∀ a, a ≠ 0xE0000 + off → t.field.regs.word a = s.field.regs.word a))
  ∧ (∀ (s : State) (m : Msg) (p : BarEnd) (tag : Nat), s.field.port.take 0x21 = some (m, p) → tag = m.payload / 2 ^ 32 % 256 →
    s.field.lastTag ≠ some tag →
    ∃ t, exec .doSet s = .next t ∧ s.fieldOnly t ∧ t.field.lastTag = some tag
      ∧ (s.field.safe = false → ∀ i, i < 16 → bit (t.field.get Reg.DO_VALUE) i
        = if bit (m.payload % 65536) i && s.field.get ⟨Reg.DO_MODE.addr, 2 * i, 2⟩ == 1 then bit m.payload (16 + i)
          else bit (s.field.get Reg.DO_VALUE) i)
      ∧ (s.field.safe = true → t.field.regs = s.field.regs)
      ∧ (∀ a, a ≠ Reg.DO_VALUE.addr → t.field.regs.word a = s.field.regs.word a)
      ∧ (bit t.field.lastAns 24 = true
        ↔ s.field.safe = true ∨ ∃ i, i < 16 ∧ bit (m.payload % 65536) i = true ∧ s.field.get ⟨Reg.DO_MODE.addr, 2 * i, 2⟩ ≠ 1)
      ∧ (s.field.ctl ≠ 0 → t.field.port.tx = p.tx ++ [{ type := 0x23, payload := t.field.lastAns }]))
  ∧ (∀ (s : State) (m : Msg) (p : BarEnd), s.up → s.host.bar.port.take 0x23 = some (m, p) →
    ∃ t, exec .cfgReadResponse s = .next t ∧ t.host.bar.port = p ∧ (∀ x ∈ t.host.bar.reqs, x.rtag ≠ m.payload / 2 ^ 16 % 256)
      ∧ (∀ x ∈ s.host.bar.reqs, x.rtag ≠ m.payload / 2 ^ 16 % 256 → x ∈ t.host.bar.reqs)
      ∧ s.changes t (fun g => { g with bar := s.host.bar, readData := s.host.readData }) [Reg.DET_CSEQ.addr]
      ∧ (s.host.bar.reqs.find? (fun r => r.rtag == m.payload / 2 ^ 16 % 256) = none →
        t.host.readData = s.host.readData ∧ t.host.get Reg.DET_CSEQ = s.host.get Reg.DET_CSEQ)
      ∧ ∀ r, s.host.bar.reqs.find? (fun r => r.rtag == m.payload / 2 ^ 16 % 256) = some r →
        t.host.readData = (if r.read then BitVec.ofNat 32 (m.payload / 2 ^ 32) else s.host.readData)
        ∧ t.host.get Reg.DET_CSEQ = (if r.read = true ∨ bit m.payload 24 = true then s.host.get Reg.DET_CSEQ
            else (s.host.get Reg.DET_CSEQ + 1) % 2 ^ 32))
  ∧ (∀ (s : State) (r : CfgReq) (rest : List CfgReq), s.up → s.host.bar.reqs = r :: rest →
    (r.tries < 3 → ∃ t, exec .cfgResponseTimeout s = .next t ∧ t.host.bar.reqs = { r with tries := r.tries + 1 } :: rest
      ∧ t.host.bar.port.tx = s.host.bar.port.tx ++ [{ type := r.msg.type, payload := r.msg.payload }]
      ∧ s.changes t (fun g => { g with bar := s.host.bar }) [])
    ∧ (3 ≤ r.tries → ∃ t, exec .cfgResponseTimeout s = .next t ∧ t.host.bar.reqs = rest ∧ t.host.get Reg.BAR_STATUS.CFG_FAIL = 1
      ∧ (r.read = false → t.host.readData = s.host.readData)
      ∧ s.changes t (fun g => { g with bar := s.host.bar, readData := s.host.readData, fresh := s.host.fresh })
          [Reg.BAR_STATUS.CFG_FAIL.addr]))

/-- R277, R282 to R285. -/
def Obligations.WeirEntriesAndFiring : Prop :=
  (∀ (s : State) (m : Msg) (p : BarEnd) (g c tag first num : Nat), s.field.port.take 0x20 = some (m, p) → s.field.safe = false →
    g = m.payload / 2 ^ 32 % 8 → c = m.payload % 2 ^ 32 → tag = m.payload / 2 ^ 54 % 1024 → first = m.payload / 2 ^ 35 % 256 →
    num = m.payload / 2 ^ 43 % 256 → (s.field.grp g).expect = none ∨ (s.field.grp g).expect = some tag →
    s.field.on (Reg.WG_CFG.EN g) = true → first + num ≤ (if g < 4 then 255 else 19) →
    (∀ l, (s.field.grp g).lastC = some l → 0 ≤ sdiff c l) → s.field.weirUsed < 4096 →
    s.field.lateness g c ≤ (s.field.get (Reg.WG_LATE g) : Int) →
    ∃ t, exec .ejectArm s = .next t ∧ s.fieldOnly t
      ∧ (t.field.grp g).fifo = (s.field.grp g).fifo ++ [{ tag := tag, c := c, first := first, numM1 := num, wsel := m.payload / 2 ^ 51 % 8 }]
      ∧ (t.field.grp g).expect = some ((tag + 1) % 1024) ∧ (t.field.grp g).lastC = some c
      ∧ ∀ k, k < 8 → k ≠ g → t.field.grp k = s.field.grp k)
  ∧ (∀ (s : State) (m : Msg) (p : BarEnd), s.field.port.take 0x20 = some (m, p) → s.field.safe = true →
    ∃ t, exec .ejectArm s = .next t ∧ s.fieldOnly t ∧ t.field.weir = s.field.weir
      ∧ t.field.get (Reg.WG_MISSED (m.payload / 2 ^ 32 % 8))
        = min (s.field.get (Reg.WG_MISSED (m.payload / 2 ^ 32 % 8)) + 1) (2 ^ (Reg.WG_MISSED (m.payload / 2 ^ 32 % 8)).w - 1))
  ∧ (∀ (s : State) (g now : Nat) (e : WeirEntry) (rest : List WeirEntry), g < 8 → (s.field.grp g).fifo = e :: rest →
    (0 ≤ s.field.lateness g e.c → ∃ t, exec (.weirFire g now) s = .next t ∧ s.fieldOnly t ∧ (t.field.grp g).fifo = rest
      ∧ t.field.get (Reg.WG_FIRED g) = min (s.field.get (Reg.WG_FIRED g) + 1) (2 ^ (Reg.WG_FIRED g).w - 1)
      ∧ ∀ i k, i ≤ e.numM1 → s.field.outKey g (e.first + i) = some k → t.field.pulsing k = true)
    ∧ (s.field.lateness g e.c < 0 → exec (.weirFire g now) s = .next s))
  ∧ (∀ (s : State) (g out now : Nat) (x : Pulse), s.field.pulses.find (if g < 4 then g * 256 + out else 1024 + out) = some x →
    (∀ u, x.cyc = some u → u ≤ now) → (∀ c, x.cnt = some c → 0 ≤ sdiff (s.field.pos (s.field.get (Reg.WG_CFG.CH g))) c) →
    ∃ t, exec (.weirPulseEnd g out now) s = .next t ∧ t.field.pulsing (if g < 4 then g * 256 + out else 1024 + out) = false
      ∧ s.fieldChanges t (fun d => { d with pulses := s.field.pulses }) [])

/-- R269, R276, R278, R280, R287, R289 to R291, R297. -/
def Obligations.FieldOutputsAndInputs : Prop :=
  (∀ (s : State) (i : Nat), i < 4 → 0 < (s.field.strobe i).due → s.field.get (Reg.STB_CFG.MODE i) = 1 →
    ∃ t, exec (.strobePulseStart i) s = .next t ∧ t.field.strobe i = { due := (s.field.strobe i).due - 1, on := !s.field.safe }
      ∧ s.fieldChanges t (fun d => { d with strobes := s.field.strobes }) [])
  ∧ (∀ (s : State) (i : Nat), i < 4 → ∃ t, exec (.strobePulseEnd i) s = .next t ∧ (t.field.strobe i).on = false
      ∧ (t.field.strobe i).due = (s.field.strobe i).due ∧ s.fieldChanges t (fun d => { d with strobes := s.field.strobes }) [])
  ∧ (∀ (s : State) (p : Nat), p < 4 → (s.field.valve p).drain = 0 → s.field.on (Reg.VB_CFG.EN p) = true → s.field.safe = false →
    ∃ t, exec (.valveFrame p) s = .next t ∧ (t.field.valve p).shift = s.field.image_ p
      ∧ t.field.get (Reg.VB_FRAMES p) = (s.field.get (Reg.VB_FRAMES p) + 1) % 2 ^ 32 ∧ t.field.get (Reg.VB_STATUS.ACTIVE p) = 1
      ∧ s.fieldChanges t (fun d => { d with valves := s.field.valves }) [(Reg.VB_FRAMES p).addr, (Reg.VB_STATUS.ACTIVE p).addr])
  ∧ (∀ (s : State) (inputs : Nat), ∃ t, exec (.diFilterChange inputs) s = .next t
      ∧ s.fieldChanges t (fun d => { d with port := s.field.port }) [Reg.DI_STATE.addr] ∧ t.field.get Reg.DI_STATE = inputs % 65536
      ∧ ∀ i, i < 16 → s.field.ctl ≠ 0 → bit inputs i = true → bit (s.field.get Reg.DI_STATE) i = false →
          bit (s.field.get Reg.DI_RISE_EN) i = true → ∃ x, t.field.port.tx = s.field.port.tx ++ [x] ∧ x.type = 0x12
            ∧ x.payload % 65536 = inputs % 65536)
  ∧ (∀ (s : State) (i : Nat) (hot : Bool), i < 16 → ∃ t, exec (.doFault i hot) s = .next t ∧ t.field.get Reg.FLD_STATUS.FIELD_FAULT = 1
      ∧ bit t.field.limited i = true ∧ bit t.field.shutdown i = (hot || bit s.field.shutdown i)
      ∧ (hot = true → t.field.doLevel i = false)
      ∧ s.fieldChanges t (fun d => { d with port := s.field.port, limited := s.field.limited, shutdown := s.field.shutdown })
          [Reg.FLD_STATUS.FIELD_FAULT.addr])
  ∧ (∀ (s : State) (i : Nat), i < 16 → bit s.field.limited i = true → ∃ t, exec (.outputFaultEnd i) s = .next t
      ∧ bit t.field.limited i = false ∧ bit t.field.shutdown i = false
      ∧ s.fieldChanges t (fun d => { d with limited := s.field.limited, shutdown := s.field.shutdown }) [])
  ∧ (∀ (s : State) (ok : Bool), s.field.get Reg.FLD_STATUS.LP_OK ≠ b2n ok → ∃ t, exec (.lpUndervoltage ok) s = .next t
      ∧ t.field.get Reg.FLD_STATUS.LP_OK = b2n ok
      ∧ (ok = true → t.field.port = s.field.port)
      ∧ (ok = false → (∀ i, t.field.doLevel i = false)
        ∧ (s.field.ctl ≠ 0 → ∃ x, t.field.port.tx = s.field.port.tx ++ [x] ∧ x.type = 0x14 ∧ bit x.payload 1 = true))
      ∧ s.fieldChanges t (fun d => { d with port := s.field.port }) [Reg.FLD_STATUS.LP_OK.addr])
  ∧ (∀ (s : State) (i : Nat),
    (i < 4 → s.field.mode i ≠ 0 → s.field.get Reg.FLD_CTRL.SNAP_PERIOD ≠ 0 → s.field.ctl ≠ 0 →
      ∃ t, exec (.snapshotTimer true i) s = .next t ∧ s.fieldChanges t (fun d => { d with port := s.field.port }) []
        ∧ t.field.port.tx = s.field.port.tx ++ [{ type := 0x11, payload := s.field.snapPayload i 0 0 (s.field.pos i) }])
    ∧ (i < 8 → s.field.on (Reg.TRIG_CFG.EN i) = true → s.field.ctl ≠ 0 →
      ∃ t, exec (.snapshotTimer false i) s = .next t ∧ s.fieldChanges t (fun d => { d with port := s.field.port }) []
        ∧ t.field.port.tx = s.field.port.tx
            ++ [{ type := 0x11, payload := s.field.snapPayload (s.field.get (Reg.TRIG_CFG.CH i)) 1 i (s.field.get (Reg.TRIG_NEXT i)) }]))
  ∧ (∀ (s : State) (m : Msg) (p : BarEnd),
    (s.field.port.take 0x21 = some (m, p) → ∃ t, exec .doSet s = .next t ∧ s.fieldOnly t ∧ t.field.lastTag = some (m.payload / 2 ^ 32 % 256)
      ∧ t.field.get Reg.DO_MODE = s.field.get Reg.DO_MODE)
    ∧ (s.field.port.take 0x22 = some (m, p) → ∃ t, exec .cfgWrite s = .next t ∧ s.fieldOnly t
      ∧ t.field.lastTag = some (m.payload / 2 ^ 16 % 256))
    ∧ (s.field.port.take 0x23 = some (m, p) → ∃ t, exec .cfgRead s = .next t ∧ s.fieldOnly t
      ∧ t.field.lastTag = some (m.payload / 2 ^ 16 % 256)))

/-- R292, R293, R295, R426, R429. That the FAULT of a reset has its heartbeat bit 0 is the model's reading (log entry 24). -/
def Obligations.SafeStateAndFieldBoot : Prop :=
  (∀ s : State, s.field.safe = false → ∃ t, exec .safeStateEntry s = .next t ∧ s.fieldOnly t ∧ t.field.safe = true
    ∧ t.field.get Reg.FLD_STATUS.HB_LOST = 1 ∧ t.field.pulses = [] ∧ (∀ g, g < 8 → (t.field.grp g).fifo = [])
    ∧ (∀ i, t.field.doLevel i = false) ∧ (∀ i, t.field.stbLevel i = false) ∧ t.field.alive = false
    ∧ t.field.get Reg.FLD_CANCELLED = min (s.field.get Reg.FLD_CANCELLED + s.field.weirUsed) (2 ^ 32 - 1)
    ∧ (s.host.bar.port.locked = false → t.field.due = some true ∧ t.field.port.tx = s.field.port.tx)
    ∧ (s.host.bar.port.locked = true → s.field.ctl ≠ 0 → t.field.due = none
      ∧ ∃ x, t.field.port.tx = s.field.port.tx ++ [x] ∧ x.type = 0x14 ∧ bit x.payload 2 = true ∧ bit x.payload 6 = true))
  ∧ (∀ (s : State) (m : Msg) (p : BarEnd), s.field.port.take 1 = some (m, p) →
    (s.field.safe = true → s.field.ctl = 2 → bit m.payload 16 = true → p.hbSeen.map nextHbSeq = some (m.payload % 65536) → 64 ≤ s.field.hbRun →
      ∃ t, exec .heartbeat s = .next t ∧ s.fieldOnly t ∧ t.field.safe = false ∧ t.field.get Reg.DO_VALUE = 0
        ∧ (∀ g, g < 8 → (t.field.grp g).fifo = [] ∧ (t.field.grp g).expect = none))
    ∧ (s.field.safe = true → s.field.hbRun < 64 → ∃ t, exec .heartbeat s = .next t ∧ t.field.safe = true
        ∧ t.field.port.hbSeen = some (m.payload % 65536)))
  ∧ (∀ s : State, ∃ t, exec .fieldReset s = .next t ∧ s.fieldOnly t ∧ t.field.ctl = 0 ∧ t.field.weirUsed = 0 ∧ t.field.safe = true
    ∧ t.field.pulses = [] ∧ t.field.due = some false ∧ ∀ a, t.field.regs.word a = resetWord a)
  ∧ (∀ s : State, s.field.ctl = 0 → ∃ t, exec .fieldRomBoot s = .next t ∧ t.field = { s.field with ctl := 1 } ∧ s.fieldOnly t)
  ∧ (∀ s : State, s.field.ctl ≠ 0 → s.field.loadFails < 3 → ∃ t, exec .fldLoadStart s = .next t ∧ s.fieldOnly t ∧ t.field.ctl = 0
    ∧ t.field.image = [] ∧ t.field.loadFails = s.field.loadFails ∧ t.field.safe = true)
  ∧ (∀ (s : State) (v : Word), s.field.ctl = 1 → s.field.image.length + 4 ≤ 262144 → ∃ t, exec (.fldLoadData v) s = .next t
    ∧ t.field.image = s.field.image ++ toLE 4 v.toNat ∧ t.field.get Reg.FLD_LOAD_LEN = s.field.image.length + 4
    ∧ s.fieldChanges t (fun d => { d with image := s.field.image }) [Reg.FLD_LOAD_LEN.addr])
  ∧ (∀ (s : State) (want : List Byte), s.field.ctl = 1 → s.field.loadFails < 3 →
    (sha3 s.field.image = want → ∃ t, exec (.fldLoadRun want) s = .next t ∧ s.fieldOnly t ∧ t.field.ctl = 2
      ∧ t.field.loadFails = s.field.loadFails)
    ∧ (sha3 s.field.image ≠ want → ∃ t, exec (.fldLoadRun want) s = .next t ∧ s.fieldOnly t ∧ t.field.ctl = 1
      ∧ t.field.loadFails = s.field.loadFails + 1))

/-- R113, R115, R118, R119, R131 to R138, R147, R184: what a compute command leaves as it issues; its writes land as it completes. -/
def Obligations.ComputeCommands : Prop :=
  (∀ (s : State) (c site w : Nat) (timed : Bool), s.running → s.issues c site w timed →
    (hb w 0 7 0 = 0 → ∃ t, exec (.nop c) s = .next t ∧ s.passed t site ∧ (t.host.core site).spad = (s.host.core site).spad
      ∧ (t.host.core site).bank0 = (s.host.core site).bank0 ∧ (t.host.core site).bank1 = (s.host.core site).bank1
      ∧ (t.host.core site).flights = (s.host.core site).flights ++ (if (sigOf w).isSome then [{ sig := sigOf w }] else []))
    ∧ (14 < hb w 0 7 0 → ∃ t, exec (.nop c) s = .next t ∧ (t.host.core site).spad = (s.host.core site).spad
      ∧ (timed = false → t.host.coreState site = 5 ∧ t.host.get (Reg.CORE_ERR.CAUSE site) = 1
          ∧ t.host.get (Reg.CORE_ERR.OP site) = hb w 0 7 0)
      ∧ (timed = true → s.passed t site ∧ t.host.get (Reg.CORE_STATUS.TIMED_MISS site) = 1))
    ∧ (∀ (x : Ecc) (sp : Store) (o : UnitOut) (b : Nat), hb w 0 7 0 = 3 → x.ue = [] → sp = x.left (s.host.core site).spad →
      b = hb w 1 4 4 → mmaInvalid w ((s.host.core site).bank b).ty = none → o = mmaRun w sp.mem ((s.host.core site).bank b) →
      ∃ t, exec (.mma c x) s = .next t ∧ s.passed t site ∧ (t.host.core site).spad = sp
        ∧ o.bank = some ((t.host.core site).bank b) ∧ (t.host.core site).bank (1 - b) = (s.host.core site).bank (1 - b)
        ∧ s.started t site { unit := 1, bank := some b, sig := sigOf w, flags := o.flags.bits })
    ∧ (∀ (x : Ecc) (sp : Store) (o : UnitOut), hb w 0 7 0 = 4 → x.ue = [] → sp = x.left (s.host.core site).spad →
      drainInvalid w = none → (∀ f ∈ (s.host.core site).flights, f.bank ≠ some (hb w 1 4 4)) →
      o = drainRun w sp.mem ((s.host.core site).bank (hb w 1 4 4)) →
      ∃ t, exec (.drain c x) s = .next t ∧ s.passed t site ∧ (t.host.core site).spad = sp
        ∧ s.started t site { unit := 2, sig := sigOf w, writes := o.writes, flags := o.flags.bits })
    ∧ (∀ (x : Ecc) (sp : Store) (o : UnitOut), hb w 0 7 0 = 5 → vopInvalid w = none → sp = x.left (s.host.core site).spad →
      o = vopRun w sp.mem →
      (x.ue = [] → ∃ t, exec (.vop c x) s = .next t ∧ s.passed t site ∧ (t.host.core site).spad = sp
        ∧ s.started t site { unit := 3, sig := sigOf w, writes := o.writes, flags := o.flags.bits })
      ∧ (x.ue ≠ [] → ∃ t, exec (.vop c x) s = .next t ∧ (t.host.core site).spad.mem = sp.mem
        ∧ s.started t site { unit := 3, writes := o.writes, flags := o.flags.bits }
        ∧ (∀ a ∈ x.ue, a.1 / 2048 ∈ (t.host.core site).spad.poison)
        ∧ (timed = false → t.host.coreState site = 5 ∧ t.host.get (Reg.CORE_ERR.CAUSE site) = 7)
        ∧ (timed = true → s.passed t site ∧ ∀ tok, sigOf w = some tok → tok ∈ (t.host.core site).failTok)))
    ∧ (∀ (x : Ecc) (sp : Store) (o : UnitOut), hb w 0 7 0 = 6 → x.ue = [] → sp = x.left (s.host.core site).spad →
      vlutInvalid w = none → o = vlutRun w sp.mem →
      ∃ t, exec (.vlut c x) s = .next t ∧ s.passed t site ∧ (t.host.core site).spad = sp
        ∧ s.started t site { unit := 3, sig := sigOf w, writes := o.writes, flags := o.flags.bits })
    ∧ (∀ (x : Ecc) (sp : Store) (o : UnitOut), hb w 0 7 0 = 7 → x.ue = [] → sp = x.left (s.host.core site).spad →
      vsortInvalid w = none → o = vsortRun w sp.mem →
      ∃ t, exec (.vsort c x) s = .next t ∧ s.passed t site ∧ (t.host.core site).spad = sp
        ∧ s.started t site { unit := 3, sig := sigOf w, writes := o.writes, flags := o.flags.bits })
    ∧ (∀ (x : Ecc) (sp : Store) (d : WinDesc), hb w 0 7 0 = 8 → x.ue = [] → sp = x.left (s.host.core site).spad →
      d = ⟨sp.mem.le (hb w 1 14 0 * 64) 64⟩ →
      sp.useFails (hb w 1 14 0 * 64) 64 = none → winInvalid d ((s.host.core site).bank (d.b 1 0 0)).ty = none →
      (∀ o : UnitOut, d.mode = 0 → o = convRun d sp.mem ((s.host.core site).bank (d.b 1 0 0)) →
        ∃ t, exec (.window c x) s = .next t ∧ s.passed t site ∧ (t.host.core site).spad = sp
          ∧ o.bank = some ((t.host.core site).bank (d.b 1 0 0))
          ∧ s.started t site { unit := 1, bank := some (d.b 1 0 0), sig := sigOf w, flags := o.flags.bits })
      ∧ (∀ o : UnitOut, d.mode ≠ 0 → o = winVecRun d sp.mem →
        ∃ t, exec (.window c x) s = .next t ∧ s.passed t site ∧ (t.host.core site).spad = sp
          ∧ s.started t site { unit := 3, sig := sigOf w, writes := o.writes, flags := o.flags.bits })))

/-- R117 to R122, R139, R145, R523. -/
def Obligations.CoreControlFlow : Prop :=
  (∀ (s : State) (c site w : Nat) (timed : Bool), s.running → s.issues c site w timed →
    (hb w 0 7 0 = 9 → reached (s.host.token site (hb w 1 3 0)) (hw w 2) = true → ∃ t, exec (.wait c) s = .next t ∧ s.passed t site
      ∧ (t.host.core site).waiting = (s.host.core site).waiting)
    ∧ (hb w 0 7 0 = 9 → reached (s.host.token site (hb w 1 3 0)) (hw w 2) = false →
      ∃ t, exec (.wait c) s = .next t
        ∧ (timed = false → t.host.coreState site = 3 ∧ (t.host.core site).waiting = some (hb w 1 3 0, hw w 2, sigOf w)
            ∧ (t.host.core site).flights = (s.host.core site).flights)
        ∧ (timed = true → s.passed t site ∧ t.host.get (Reg.CORE_STATUS.TIMED_MISS site) = 1
            ∧ t.host.counted s.host (Reg.CORE_TIMED_MISS site)))
    ∧ (hb w 0 7 0 = 10 → ∃ t, exec (.tset c) s = .next t ∧ s.passed t site
      ∧ t.host.token site (hb w 1 3 0) = (if hb w 1 4 4 = 1 then (s.host.token site (hb w 1 3 0) + hw w 2) % 65536 else hw w 2))
    ∧ (∀ (addr count : Nat) (bs : List Byte) (ecc : Ecc), hb w 0 7 0 = 11 → ecc.ue = [] → ecc.alt = [] → addr = hw w 2 + hw w 3 * 2 ^ 16 + hw w 4 * 2 ^ 32 →
      (s.host.core site).frames.length ≤ 4 → callAddrOk s.variant (hb w 1 3 0) addr = true →
      s.host.listMem site (c / 8) (hb w 1 3 0) addr 16 = some (bs, none) → hb (leNat bs) 0 3 0 = 1 →
      (hb (leNat bs) 0 4 4 = 1 ↔ timed = true) → count = hw (leNat bs) 1 + hw (leNat bs) 2 * 65536 → count ≠ 0 →
      (s.host.fetchTile site (c / 8) (hb w 1 3 0) (addr + 16)).bad = false →
      ∃ t, exec (.call c ecc) s = .next t ∧ t.host.coreState site = s.host.coreState site
        ∧ (t.host.core site).frames.head? = some { space := hb w 1 3 0, hdr := addr, pos := 0, count := count, timed := timed }
        ∧ (t.host.core site).frames.length = (s.host.core site).frames.length + 1)
    ∧ (∀ ecc, hb w 0 7 0 = 11 → 5 ≤ (s.host.core site).frames.length → timed = false →
      ∃ t, exec (.call c ecc) s = .next t ∧ t.host.coreState site = 5 ∧ t.host.get (Reg.CORE_ERR.CAUSE site) = 5)
    ∧ (∀ f rest, hb w 0 7 0 = 12 → (s.host.core site).frames = f :: rest →
      (rest ≠ [] → ∃ t, exec (.endList c) s = .next t ∧ (t.host.core site).frames = rest ∧ t.host.coreState site = s.host.coreState site)
      ∧ (rest = [] → (s.host.core site).flights = [] → (s.host.core site).xfers = [] → SMap.get (fun _ => 0) s.host.insp.iterPend c = 0 →
        ∃ t, exec (.endList c) s = .next t ∧ (t.host.core site).frames = [] ∧ t.host.coreState site = 0
          ∧ ∀ tok, sigOf w = some tok → t.host.token site tok = (s.host.token site tok + 1) % 65536))
    ∧ (∀ cycles, hb w 0 7 0 = 13 →
      (timed = false → (s.host.core site).preempt = true → (s.host.core site).flights = [] →
        (∀ x ∈ (s.host.core site).xfers, x.load = true ∧ x.space = 4) →
        ∃ t, exec (.yieldPoint c cycles) s = .next t ∧ t.host.coreState site = 4)
      ∧ (timed = true ∨ (s.host.core site).preempt = false → ∃ t, exec (.yieldPoint c cycles) s = .next t ∧ s.passed t site)))
  ∧ (∀ (s : State) (c site tok v : Nat) (sig : Option Nat), s.running → site < 72 → s.host.siteOf c = some site →
    s.host.coreState site = 3 → (s.host.core site).waiting = some (tok, v, sig) → reached (s.host.token site tok) v = true →
    (∀ x, (s.host.core site).pcTile = some x → x.bad = false) →
    ∃ t, exec (.waitSatisfied c) s = .next t ∧ t.host.coreState site = 1 ∧ (t.host.core site).waiting = none
      ∧ (t.host.core site).flights = (s.host.core site).flights ++ (if sig.isSome then [{ sig := sig }] else [])
      ∧ s.changes t (fun g => { g with cores := s.host.cores, gauge := s.host.gauge }) [(Reg.CORE_STATUS.STATE site).addr])
  ∧ (∀ (s : State) (c site : Nat) (f : Frame) (rest : List Frame), s.running → site < 72 → s.host.siteOf c = some site →
    s.host.coreState site = 1 ∨ s.host.coreState site = 2 → (s.host.core site).frames = f :: rest → f.pos < f.count →
    (s.host.core site).pcTile = none → f.space ≠ 2 ∨ s.host.hbmUp = true →
    (∀ x, (s.host.core site).fetchNow = some x → x.moved_ c = true ∧ x.dropped = false) →
    ((s.host.fetchTile site (c / 8) f.space (f.pc / 2048 * 2048)).bad = false →
      ∃ t, exec (.listTileFetch c {}) s = .next t ∧ (t.host.core site).pcTile.isSome = true ∧ s.hostOnly t
        ∧ { (t.host.core site) with cur := (s.host.core site).cur, ahead := (s.host.core site).ahead, fetch := (s.host.core site).fetch }
          = s.host.core site
        ∧ (∀ u, u ≠ site → t.host.core u = s.host.core u) ∧ t.host.mem = s.host.mem ∧ t.host.insp = s.host.insp
        ∧ ∀ a, (a < 0x600000 ∨ 0x610000 ≤ a) → a ≠ Reg.HIF_IRQ_PENDING.addr → t.host.word a = s.host.word a)
    ∧ ((s.host.fetchTile site (c / 8) f.space (f.pc / 2048 * 2048)).bad = true →
      ∃ t, exec (.listTileFetch c {}) s = .next t ∧ t.host.coreState site = 5 ∧ t.host.get (Reg.CORE_ERR.CAUSE site) = 6
        ∧ (f.timed = true → t.host.insp.haltReq = some 1)))
  ∧ (∀ (s : State) (c site : Nat) (units : List Nat) (r : List Flight × List Flight) (ecc : Ecc), s.running → site < 72 → ecc.ue = [] → ecc.alt = [] →
    s.host.siteOf c = some site → s.host.coreState site ≠ 6 → r = takeHeads units (s.host.core site).flights →
    ∃ t, exec (.commandComplete c units ecc) s = .next t ∧ (t.host.core site).flights = r.2
      ∧ (t.host.core site).spad = r.1.foldl (fun st f => f.onto st) (s.host.core site).spad
      ∧ ∀ tok, tok < 16 → t.host.token site tok = (s.host.token site tok + (r.1.filter fun f => f.sig == some tok).length) % 65536)
  ∧ (∀ (s : State) (site : Nat), s.open_ → site < 72 → s.host.coreState site = 5 → s.host.asleep (site / 9) = false →
    ∃ t, exec (.coreClearErr site) s = .next t ∧ t.host.coreState site = 0 ∧ t.host.get (Reg.CORE_ERR.CAUSE site) = 0
      ∧ (t.host.core site).frames = [] ∧ (∀ f ∈ (t.host.core site).flights, f.sig = none) ∧ (∀ x ∈ (t.host.core site).xfers, x.sig = none)
      ∧ s.changes t (fun g => { g with cores := s.host.cores }) [(Reg.CORE_STATUS.STATE site).addr, (Reg.CORE_ERR.CAUSE site).addr])

/-- R121, R123, R144, R173, R174, R176, R181, R182, R340, R405. -/
def Obligations.TransfersAndVerdict : Prop :=
  (∀ (s : State) (c site w : Nat) (timed : Bool), s.running → s.issues c site w timed →
    (hb w 0 7 0 = 1 → xferInvalid s.variant (xferOf w true false) = none →
      (hb w 1 3 0 = 4 → ((s.host.core site).xfers.filter fun t => t.space == 4).length < 4) →
      ∃ t x, exec (.load c) s = .next t ∧ s.passed t site ∧ (t.host.core site).xfers = (s.host.core site).xfers ++ [x]
        ∧ { x with bytes := [] } = xferOf w true timed ∧ (hb w 1 3 0 ≠ 1 → x = xferOf w true timed)
        ∧ (controlOf x.far = some .counters → hb w 1 3 0 = 1 → x.bytes = s.host.counterBytes c))
    ∧ (∀ ecc, hb w 0 7 0 = 2 → xferInvalid s.variant (xferOf w false false) = none →
      ∃ t x, exec (.store c ecc) s = .next t ∧ s.passed t site ∧ (t.host.core site).xfers = (s.host.core site).xfers ++ [x]
        ∧ { x with bytes := [], dropped := false } = xferOf w false timed ∧ (hb w 1 3 0 ≠ 1 → x = xferOf w false timed))
    ∧ (∀ (x : Ecc) (sp : Store) (r : Recipe) (it : Item), hb w 0 7 0 = 14 → x.ue = [] → sp = x.left (s.host.core site).spad →
      r ∈ s.host.keepers → r.id = (s.host.core site).recipe →
      s.host.insp.items.find? (fun i => i.recipe == r.id && i.kind < 2 && !i.gap && i.judged.isNone && i.forced == 0 && !i.released)
        = some it →
      (sp.useFails (hb w 1 14 0 * 64) 64 = none → ∃ t, exec (.verdict c x) s = .next t ∧ s.passed t site
        ∧ (t.host.core site).miss1 = false ∧ (t.host.core site).miss3 = false ∧ ∃ i ∈ t.host.insp.items, i.seq = it.seq
          ∧ i.judged = some (some (sp.read (hb w 1 14 0 * 64) 64),
              if (s.host.core site).miss1 then 1 else if (s.host.core site).miss3 then 3 else 0))
      ∧ (sp.useFails (hb w 1 14 0 * 64) 64 ≠ none → ∃ t, exec (.verdict c x) s = .next t ∧ s.passed t site
        ∧ ∃ i ∈ t.host.insp.items, i.seq = it.seq ∧ i.judged = some (none, 1))))
  ∧ (∀ (s : State) (c site : Nat) (x : Xfer) (rest : List Xfer) (ecc merge : Ecc), s.running → site < 72 → s.host.siteOf c = some site →
    s.host.hbmUp = true → (s.host.core site).xfers = x :: rest → x.space = 2 → x.rif = 0 → x.parked = false → x.dropped = false →
    x.moved_ c = true → ecc.ue = [] → ecc.alt = [] → merge.ue = [] → merge.alt = [] →
    (s.host.core site).spad.poison = [] → (s.host.core site).spad.sums = [] →
    (s.host.hbmOf (x.far / 2 ^ 32)).poison = [] → (s.host.hbmOf (x.far / 2 ^ 32)).sums = [] →
    ∃ t, exec (.transferComplete c 2 [] false [] ecc merge) s = .next t ∧ (t.host.core site).xfers = rest
      ∧ (x.load = true → (t.host.core site).spad.read x.spa (x.len * 64)
          = (s.host.hbmOf (x.far / 2 ^ 32)).read (x.far % 2 ^ 32) (x.len * 64))
      ∧ (x.load = false → (t.host.hbmOf (x.far / 2 ^ 32)).read (x.far % 2 ^ 32) (x.len * 64)
          = (s.host.core site).spad.read x.spa (x.len * 64)))
  ∧ (∀ (s : State) (c site : Nat) (x : Xfer) (rest : List Xfer) (bad : List (Nat × List Byte)) (data : List Byte) (ecc merge : Ecc), s.running →
    site < 72 → s.host.siteOf c = some site → (s.host.core site).xfers = x :: rest → x.space = 4 → x.parked = false →
    ∃ t, exec (.transferComplete c 4 bad true data ecc merge) s = .next t ∧ (t.host.core site).xfers = rest
      ∧ (t.host.core site).spad = (s.host.core site).spad
      ∧ (x.timed = false → s.host.coreState site < 5 → t.host.coreState site = 5 ∧ t.host.get (Reg.CORE_ERR.CAUSE site) = 7)
      ∧ (x.timed = false → 5 ≤ s.host.coreState site → t.host.coreState site = s.host.coreState site)
      ∧ (x.timed = true → t.host.coreState site = s.host.coreState site ∧ (t.host.core site).failTok = (s.host.core site).failTok))
  ∧ (∀ (s : State) (port far len rif : Nat) (write : Bool) (data : List Byte) (ecc : Ecc), s.running → port < s.variant.ports →
    (∀ bad, s.host.rwinOk port far (if write then data.length else len) = false →
      ∃ t, exec (.remoteAccessRx port write far len rif data bad ecc) s = .next t ∧ t.host.counted s.host Reg.MEM_RWIN_REFUSED
        ∧ t.host.remoteReply = []
        ∧ s.changes t (fun g => { g with remoteReply := s.host.remoteReply }) [Reg.MEM_RWIN_REFUSED.addr])
    ∧ (bit far 44 = true → s.host.rwinOk port far len = true → far % 2 ^ 24 + len ≤ 0x800000 →
      s.host.asleep (far / 2 ^ 41 % 8) = false → ecc.ue = [] →
      ∃ t, exec (.remoteAccessRx port false far len rif data [] ecc) s = .next t
        ∧ t.host.remoteReply = (ecc.left (s.host.ls (far / 2 ^ 41 % 8))).read (far % 2 ^ 24) len
        ∧ t.host.ls (far / 2 ^ 41 % 8) = ecc.left (s.host.ls (far / 2 ^ 41 % 8)))
    ∧ (bit far 44 = true → s.host.rwinOk port far data.length = true → far % 2 ^ 24 + data.length ≤ 0x800000 →
      s.host.asleep (far / 2 ^ 41 % 8) = false →
      (∃ t, exec (.remoteAccessRx port true far len rif data [] ecc) s = .next t
        ∧ (t.host.ls (far / 2 ^ 41 % 8)).read (far % 2 ^ 24) data.length = data)
      ∧ (∀ got : List Byte, rif = 0 → data.length ≤ 2048 → got.length = data.length → crc32c got ≠ crc32c data →
        ∃ t, exec (.remoteAccessRx port true far len rif data [(0, got)] ecc) s = .next t
          ∧ (t.host.ls (far / 2 ^ 41 % 8)).read (far % 2 ^ 24) data.length = got
          ∧ ∀ x ∈ tilesOf (far % 2 ^ 24) data.length, x ∈ (t.host.ls (far / 2 ^ 41 % 8)).poison)))

/-- R157 to R159, R162, R163. -/
def Obligations.StripeChannels : Prop :=
  (∀ (s : State) (k h first : Nat) (rest : List Nat), s.running → k < 8 → h < 16 → (s.host.chan k h).pipePosts = first :: rest →
    s.host.on (Reg.LSC_CFG.EN k h) = true →
    ∃ t, exec (.stripePost k h) s = .next t ∧ (t.host.chan k h).pipePosts = rest
      ∧ (t.host.chan k h).posts = (s.host.chan k h).posts + 1 ∧ (t.host.chan k h).rdyDue = (s.host.chan k h).rdyDue + 1)
  ∧ (∀ (s : State) (k h j site : Nat), s.running → k < 8 → h < 16 → j < 8 → s.host.ctlReady k j (.release h) = some site → site < 72 →
    s.host.on (Reg.LSC_CFG.EN k h) = true → j ∈ s.host.consumers k h → (s.host.chan k h).relOf j < (s.host.chan k h).posts →
    ∃ t, exec (.stripeRelease k h j) s = .next t ∧ (t.host.chan k h).relOf j = (s.host.chan k h).relOf j + 1
      ∧ (t.host.chan k h).posts = (s.host.chan k h).posts ∧ (s.host.chan k h).frees ≤ (t.host.chan k h).frees)
  ∧ (∀ (s : State) (k h : Nat), s.running → k < 8 → h < 16 → (s.host.chan k h).rdyDue ≠ 0 →
    ∃ t, exec (.rdyTokSignal k h) s = .next t ∧ (t.host.chan k h).rdyDue = (s.host.chan k h).rdyDue - 1
      ∧ ∀ j site, j ∈ s.host.consumers k h → s.host.siteOf (8 * k + j) = some site → site < 72 → s.host.coreState site ≠ 6 →
          (∀ i ∈ s.host.consumers k h, i ≠ j → ∀ u, s.host.siteOf (8 * k + i) = some u → u ≠ site ∧ u < 72) →
          t.host.token site (s.host.get (Reg.LSC_CONS.RDY_TOK k h)) = (s.host.token site (s.host.get (Reg.LSC_CONS.RDY_TOK k h)) + 1) % 65536)
  ∧ (∀ (s : State) (k h site : Nat), s.running → k < 8 → h < 16 → (s.host.chan k h).freeDue ≠ 0 →
    s.host.siteOf (8 * k + s.host.get (Reg.LSC_CFG.PCORE k h)) = some site → site < 72 → s.host.coreState site ≠ 6 →
    ∃ t, exec (.freeTokSignal k h) s = .next t ∧ (t.host.chan k h).freeDue = (s.host.chan k h).freeDue - 1
      ∧ t.host.token site (s.host.get (Reg.LSC_CFG.FREE_TOK k h)) = (s.host.token site (s.host.get (Reg.LSC_CFG.FREE_TOK k h)) + 1) % 65536)
  ∧ (∀ (s : State) (k h : Nat) (v : Word), s.open_ → k < 8 → h < 16 → s.host.asleep k = false → s.host.loaderOwns k = false →
    s.host.on (Reg.LSC_CFG.EN k h) = false →
    (s.host.chanRefused k h ((v ||| 1#32) &&& lscCfgMask) = false → ∃ t, exec (.lscEnable k h v) s = .next t
      ∧ t.host.on (Reg.LSC_CFG.EN k h) = true ∧ t.host.chan k h = {}
      ∧ s.changes t (fun g => { g with lsc := s.host.lsc })
          [(Reg.LSC_CFG.EN k h).addr, (Reg.LSC_POSTED k h).addr, (Reg.LSC_FREED k h).addr, (Reg.LSC_HELD k h).addr])
    ∧ (s.host.chanRefused k h ((v ||| 1#32) &&& lscCfgMask) = true → ∃ t, exec (.lscEnable k h v) s = .next t
      ∧ t.host.on (Reg.LSC_CFG.EN k h) = false ∧ t.host.get (Reg.LSC_ERR.CFG_REFUSED k h) = 1
      ∧ s.regsOnly t [(Reg.LSC_CFG.EN k h).addr, (Reg.LSC_ERR.CFG_REFUSED k h).addr]))
  ∧ (∀ (s : State) (k h : Nat) (v : Word), s.open_ → k < 8 → h < 16 → s.host.asleep k = false → s.host.loaderOwns k = false →
    s.host.on (Reg.LSC_CFG.EN k h) = true →
    ∃ t, exec (.lscDisable k h v) s = .next t ∧ t.host.on (Reg.LSC_CFG.EN k h) = false
      ∧ (t.host.chan k h).frees = (t.host.chan k h).posts
      ∧ s.changes t (fun g => { g with lsc := s.host.lsc })
          [(Reg.LSC_CFG.EN k h).addr, (Reg.LSC_POSTED k h).addr, (Reg.LSC_FREED k h).addr, (Reg.LSC_HELD k h).addr])

/-- R299 to R301: changes of a time base. A forward SET or STEP may fire compare units (R303), so their words may change with it. -/
def Obligations.TimeBases : Prop :=
  (∀ (s : State) (n : Nat) (v : Word), s.open_ → n < 4 → v.toInt.natAbs ≤ 0x400000 → (n = 1 → s.host.servoOwned = false) →
    ∃ t, exec (.tbRateWrite n v) s = .next t ∧ t.host.get (Reg.TB_RATE n) = v.toNat
      ∧ (∀ T : Int, t.host.tbAt n T = wrap 96 ((s.host.tbAt n s.tick.toNat : Int) + (T - s.tick.toNat) * (2 ^ 33 + 2 * v.toInt)))
      ∧ (∀ m, m ≠ n → t.host.tb m = s.host.tb m)
      ∧ s.changes t (fun g => { g with tbs := s.host.tbs }) [(Reg.TB_RATE n).addr])
  ∧ (∀ (s : State) (n : Nat), s.open_ → n < 4 → (n = 1 → s.host.servoOwned = false) →
    (∃ t, exec (.tbSet n) s = .next t
      ∧ t.host.tbAt n s.tick.toNat
          = s.host.get (Reg.TB_SET_FRAC n) + s.host.get (Reg.TB_SET_NS_LO n) * 2 ^ 32 + s.host.get (Reg.TB_SET_NS_HI n) * 2 ^ 64
      ∧ (t.host.tb n).a = s.tick.toNat ∧ (∀ m, m ≠ n → t.host.tb m = s.host.tb m)
      ∧ s.changes t (fun g => { g with tbs := s.host.tbs, cmpLate := s.host.cmpLate, pps := s.host.pps }) cmpWords)
    ∧ (∃ t, exec (.tbStep n) s = .next t
      ∧ t.host.tbAt n s.tick.toNat = wrap 96 ((s.host.tbAt n s.tick.toNat : Int)
          + sext 64 (s.host.get (Reg.TB_STEP_FRAC n) + s.host.get (Reg.TB_STEP_NS n) * 2 ^ 32))
      ∧ (t.host.tb n).a = s.tick.toNat ∧ (∀ m, m ≠ n → t.host.tb m = s.host.tb m)
      ∧ s.changes t (fun g => { g with tbs := s.host.tbs, cmpLate := s.host.cmpLate, pps := s.host.pps }) cmpWords))
  ∧ (∀ (s : State) (v : Word), s.open_ → (v.toNat / 16 % 4 = 1 → s.host.servoOwned = false) →
    ∃ t, exec (.timeCopy v) s = .next t ∧ t.host.tb (v.toNat / 16 % 4) = s.host.tb (v.toNat / 4 % 4)
      ∧ t.host.get (Reg.TB_RATE (v.toNat / 16 % 4)) = s.host.get (Reg.TB_RATE (v.toNat / 4 % 4))
      ∧ (∀ T : Int, t.host.tbAt (v.toNat / 16 % 4) T = s.host.tbAt (v.toNat / 4 % 4) T)
      ∧ s.changes t (fun g => { g with tbs := s.host.tbs }) [(Reg.TB_RATE (v.toNat / 16 % 4)).addr, Reg.TIME_CMD.COPY.addr])
  ∧ (∀ s : State, s.open_ → s.host.servoOwned = true →
    (∀ v : Word, ∃ t, exec (.tbRateWrite 1 v) s = .next t ∧ t.host.get (Reg.TB_STATUS.REFUSED 1) = 1
      ∧ s.regsOnly t [(Reg.TB_STATUS.REFUSED 1).addr])
    ∧ (∃ t, exec (.tbSet 1) s = .next t ∧ t.host.get (Reg.TB_STATUS.REFUSED 1) = 1 ∧ s.regsOnly t [(Reg.TB_STATUS.REFUSED 1).addr])
    ∧ (∃ t, exec (.tbStep 1) s = .next t ∧ t.host.get (Reg.TB_STATUS.REFUSED 1) = 1 ∧ s.regsOnly t [(Reg.TB_STATUS.REFUSED 1).addr])
    ∧ (∀ v : Word, v.toNat / 16 % 4 = 1 → ∃ t, exec (.timeCopy v) s = .next t ∧ t.host.get (Reg.TB_STATUS.REFUSED 1) = 1
      ∧ t.host.tb 1 = s.host.tb 1 ∧ s.regsOnly t [(Reg.TB_STATUS.REFUSED 1).addr, Reg.TIME_CMD.COPY.addr]))
  ∧ (∀ (s : State) (n : Nat) (v : Word), s.open_ → n < 4 → 0x400000 < v.toInt.natAbs →
    ∃ t, exec (.tbRateWrite n v) s = .next t ∧ t.host.get (Reg.TB_STATUS.REFUSED n) = 1
      ∧ t.host.get (Reg.TB_RATE n) = s.host.get (Reg.TB_RATE n) ∧ s.regsOnly t [(Reg.TB_STATUS.REFUSED n).addr])
  ∧ (∀ s : State, s.open_ → ∃ t, exec .timeSnap s = .next t
      ∧ t.host.get2 Reg.TIME_SNAP_TICK_LO Reg.TIME_SNAP_TICK_HI = s.tick.toNat
      ∧ (∀ n, n < 4 → t.host.get2 (Reg.TB_SNAP_NS_LO n) (Reg.TB_SNAP_NS_HI n) = tbNs (s.host.tbAt n s.tick.toNat)
        ∧ t.host.get (Reg.TB_SNAP_FRAC n) = tbFrac (s.host.tbAt n s.tick.toNat))
      ∧ s.regsOnly t (Reg.TIME_SNAP_TICK_LO.addr :: Reg.TIME_SNAP_TICK_HI.addr :: (List.range 4).flatMap fun n =>
          [(Reg.TB_SNAP_NS_LO n).addr, (Reg.TB_SNAP_NS_HI n).addr, (Reg.TB_SNAP_FRAC n).addr]))

/-- R302 to R304: compares and captures. -/
def Obligations.ComparesAndCaptures : Prop :=
  (∀ (s : State) (i : Nat), s.up → i < 8 → s.host.on (Reg.CMP_CTRL.EN i) = true → 0 ≤ s.host.cmpDist s.env i →
    ∃ t, exec (.cmpFire i) s = .next t ∧ t.host.get (Reg.CMP_STATUS.FIRED i) = 1 ∧ bit (t.host.get Reg.TIME_INT_STATUS) i = true
      ∧ t.host.get (Reg.CMP_STATUS.LATE i) = (if i ∈ s.host.cmpLate then 1 else s.host.get (Reg.CMP_STATUS.LATE i))
      ∧ t.host.pps = (s.host.on (Reg.CMP_CTRL.PIN i) || s.host.pps) ∧ i ∉ t.host.cmpLate
      ∧ (s.host.on (Reg.CMP_CTRL.PERIODIC i) = false → t.host.get (Reg.CMP_CTRL.EN i) = 0
        ∧ t.host.cmpTarget i = s.host.cmpTarget i ∧ t.host.get (Reg.CMP_SKIP i) = s.host.get (Reg.CMP_SKIP i))
      ∧ (s.host.on (Reg.CMP_CTRL.PERIODIC i) = true → ∀ k : Nat, 1000 ≤ s.host.cmpPeriod i →
        k = (s.host.cmpDist s.env i).toNat / s.host.cmpPeriod i → t.host.get (Reg.CMP_CTRL.EN i) = 1
        ∧ t.host.cmpTarget i = (s.host.cmpTarget i + (k + 1) * s.host.cmpPeriod i) % 2 ^ 40
        ∧ t.host.get (Reg.CMP_SKIP i) = min (s.host.get (Reg.CMP_SKIP i) + k) 0xFFFFFFFF)
      ∧ s.changes t (fun g => { g with cmpLate := s.host.cmpLate, pps := s.host.pps })
          [Reg.TIME_INT_STATUS.addr, (Reg.CMP_CTRL.EN i).addr, (Reg.CMP_TARGET_LO i).addr, (Reg.CMP_TARGET_HI i).addr,
            (Reg.CMP_STATUS.FIRED i).addr, (Reg.CMP_SKIP i).addr])
  ∧ (∀ (s : State) (i : Nat), s.up → s.settled → i < 8 → s.host.cmpDist s.env i < 0 → exec (.cmpFire i) s = .next s)
  ∧ (∀ s : State, s.up → ∃ t, exec .ppsPulseEnd s = .next t ∧ t.host.pps = false
      ∧ s.changes t (fun g => { g with pps := s.host.pps }) [])
  ∧ (∀ s : State, s.up → s.host.on Reg.TIME_CAP_CTRL.EN = true →
    (s.host.get Reg.TIME_CAP_STATUS.VALID = 0 → ∃ t, exec (.timeCapture (s.host.on Reg.TIME_CAP_CTRL.EDGE)) s = .next t
      ∧ t.host.get Reg.TIME_CAP_STATUS.VALID = 1
      ∧ t.host.get2 Reg.TIME_CAP_TICK_LO Reg.TIME_CAP_TICK_HI = wrap 64 ((s.tick.toNat : Int) - 3)
      ∧ t.host.get2 Reg.TIME_CAP_TB0_LO Reg.TIME_CAP_TB0_HI = tbNs (s.host.tbAt 0 ((s.tick.toNat : Int) - 3))
      ∧ bit (t.host.get Reg.TIME_INT_STATUS) 8 = true
      ∧ s.regsOnly t [Reg.TIME_CAP_STATUS.VALID.addr, Reg.TIME_CAP_TICK_LO.addr, Reg.TIME_CAP_TICK_HI.addr, Reg.TIME_CAP_TB0_LO.addr,
          Reg.TIME_CAP_TB0_HI.addr, Reg.TIME_INT_STATUS.addr])
    ∧ (s.host.get Reg.TIME_CAP_STATUS.VALID = 1 → ∃ t, exec (.timeCapture (s.host.on Reg.TIME_CAP_CTRL.EDGE)) s = .next t
      ∧ t.host.get Reg.TIME_CAP_STATUS.OVR = 1 ∧ s.regsOnly t [Reg.TIME_CAP_STATUS.OVR.addr]))

/-- R310 to R313: chain time. That a slave sends SYNC only once it has accepted one is log entry 31. -/
def Obligations.ChainTime : Prop :=
  (∀ (s : State) (p : Nat), s.up → p < s.variant.ports → s.host.chainPort p = true → s.host.portState p = 3 →
    (s.host.get Reg.TB1_CTRL.ROLE = 1 ∨ (s.host.get Reg.TB1_CTRL.ROLE = 2 ∧ s.host.chain.synced = true)) →
    (s.host.port p).maySend 2 = true → (s.host.port p).txq = [] → s.host.flitOut p 0 = 0 →
    ∃ t, exec .tb1SyncSend s = .next t ∧ ∀ f, f = (t.host.port p).lastTx →
      flitType f = 6 ∧ flitVc f = 2 ∧ timeKind (flitPayload f) = 0 ∧ timeT f = s.host.tb1Now s.env
      ∧ timeHop f = (if s.host.get Reg.TB1_CTRL.ROLE = 1 then 0 else s.host.get Reg.TB1_STATUS.HOP)
      ∧ flitPayload f / 2 ^ 128 % 2 ^ 32 = s.host.get Reg.TB1_CTRL.PERIOD)
  ∧ (∀ (s : State) (p f : Nat), s.up → p < 8 → s.host.get Reg.TB1_CTRL.ROLE = 2 → s.host.get Reg.TB1_CTRL.UPPORT = p →
    (s.host.port p).rx.find? (fun f => flitType f == 6 && (timeKind (flitPayload f) == 0 || timeKind (flitPayload f) == 3)) = some f →
    timeKind (flitPayload f) = 0 → timeHop f < 15 →
    ∃ t, exec (.tb1SyncRx p) s = .next t ∧ t.host.chain.synced = true ∧ t.host.chain.t1 = timeT f
      ∧ t.host.chain.t2 = s.host.tb1Now s.env ∧ t.host.get Reg.TB1_STATUS.HOP = timeHop f + 1
      ∧ t.host.get Reg.TB1_STATUS.HOLDOVER = 0 ∧ (t.host.port p).rx = (s.host.port p).rx.erase f ∧ t.host.tbs = s.host.tbs)
  ∧ (∀ (s : State) (p f : Nat), s.up → p < 8 →
    (s.host.get Reg.TB1_CTRL.ROLE = 1 ∨ (s.host.get Reg.TB1_CTRL.ROLE = 2 ∧ s.host.chainPort p = true)) → s.host.portState p = 3 →
    (s.host.port p).rx.find? (fun f => flitType f == 6 && timeKind (flitPayload f) == 1) = some f →
    (s.host.port p).maySend 2 = true → (s.host.port p).txq = [] → s.host.flitOut p 0 = 0 →
    ∃ t, exec (.tb1DelayReqRx p) s = .next t ∧ (t.host.port p).rx = (s.host.port p).rx.erase f ∧ ∀ g, g = (t.host.port p).lastTx →
      flitType g = 6 ∧ flitVc g = 2 ∧ timeKind (flitPayload g) = 2 ∧ timeTseq g = timeTseq f ∧ timeHop g = s.host.ownHop
      ∧ flitPayload g / 2 ^ 32 % 2 ^ 64 = tbNs (s.host.tbAt 1 s.tick.toNat) ∧ flitPayload g / 2 ^ 96 % 2 ^ 32 = tbFrac (s.host.tbAt 1 s.tick.toNat))
  ∧ (∀ (s : State) (p f : Nat) (raw dly off integ : Int), s.up → p < 8 → s.host.get Reg.TB1_CTRL.ROLE = 2 →
    s.host.get Reg.TB1_CTRL.UPPORT = p →
    (s.host.port p).rx.find? (fun f => flitType f == 6 && timeKind (flitPayload f) == 2) = some f →
    s.host.chain.req = some (timeTseq f) →
    raw = sext 64 (wrap 64 (timeDiff s.host.chain.t2 s.host.chain.t1 + timeDiff (timeT f) s.host.chain.t3)) / 2 →
    dly = (if s.host.chain.fresh then raw else s.host.chain.dly + (raw - s.host.chain.dly) / 16) →
    off = sext 64 (wrap 64 (timeDiff s.host.chain.t2 s.host.chain.t1 - dly - sext 32 (s.host.get (Reg.TB1_ASYM p)) * 2 ^ 8)) →
    integ = s.host.chain.integ + off * (s.host.get Reg.TB1_KI : Int) / 2 ^ 24 →
    ∃ t, exec (.tb1DelayRespRx p) s = .next t ∧ t.host.chain.dly = dly ∧ t.host.chain.req = none
      ∧ t.host.get Reg.TB1_OFFSET = wrap 32 (off / 2 ^ 8) ∧ t.host.get Reg.TB1_DELAY = wrap 32 (dly / 2 ^ 8)
      ∧ ((s.host.get Reg.TB1_STEP_NS * 2 ^ 16 < off.natAbs ∨ s.host.chain.stepped = false) →
        t.host.tbAt 1 s.tick.toNat = wrap 96 ((s.host.tbAt 1 s.tick.toNat : Int) - off * 2 ^ 16) ∧ t.host.chain.integ = 0
        ∧ t.host.get Reg.TB1_STATUS.STEPPED = 1 ∧ t.host.get Reg.TB1_STATUS.LOCKED = 0
        ∧ t.host.get (Reg.TB_RATE 1) = s.host.get (Reg.TB_RATE 1))
      ∧ (off.natAbs ≤ s.host.get Reg.TB1_STEP_NS * 2 ^ 16 → s.host.chain.stepped = true →
        t.host.get (Reg.TB_RATE 1)
          = wrap 32 (max (-0x400000) (min 0x400000 (-(off * (s.host.get Reg.TB1_KP : Int) / 2 ^ 24 + integ))))
        ∧ t.host.tbAt 1 s.tick.toNat = s.host.tbAt 1 s.tick.toNat ∧ t.host.chain.integ = integ))
  ∧ (∀ s : State, s.up → s.host.get Reg.TB1_CTRL.ROLE = 2 → s.host.get Reg.TB1_STATUS.HOLDOVER = 0 →
    ∃ t, exec .tb1Holdover s = .next t ∧ t.host.get Reg.TB1_STATUS.HOLDOVER = 1 ∧ bit (t.host.get Reg.TIME_INT_STATUS) 10 = true
      ∧ t.host.chain = { s.host.chain with req := none }
      ∧ s.changes t (fun g => { g with chain := s.host.chain }) [Reg.TB1_STATUS.HOLDOVER.addr, Reg.TIME_INT_STATUS.addr])

/-- R305 to R309, R319, R335: the Ethernet ports. That a frame with two tags is dropped and counted, or ends INVALID 3 as one to send, and that
nothing is received while Bus Master Enable is 0, are the model's choices (log entry 39). -/
def Obligations.EthernetPorts : Prop :=
  (∀ (s : State) (p : Nat) (f : List Byte), s.up → p < 2 → s.host.on (Reg.ETH_CTRL.EN p) = true → s.host.on (Reg.ETH_CTRL.LOOP p) = false →
    (∃ t, exec (.ethRxFrame p false f) s = .next t ∧ t.host.counted s.host (Reg.ETH_RX_FCS_ERR p)
      ∧ s.regsOnly t [(Reg.ETH_RX_FCS_ERR p).addr])
    ∧ ((isPause f = true ∨ twoTags f = true ∨ s.host.get (Reg.ETH_MAXLEN p) < f.length + 4 ∨ s.host.bme = false ∨ (s.host.ethPort p).posts = []) →
      ∃ t, exec (.ethRxFrame p true f) s = .next t ∧ t.host.counted s.host (Reg.ETH_RX_DROP p)
        ∧ s.regsOnly t [(Reg.ETH_RX_DROP p).addr])
    ∧ ∀ (q i : Nat) (rest : List (Nat × Nat)) (d : Started) (st : Nat), isPause f = false → twoTags f = false →
      f.length + 4 ≤ s.host.get (Reg.ETH_MAXLEN p) → s.host.bme = true → (s.host.ethPort p).posts = (q, i) :: rest →
      (s.host.started q).find? (fun d => d.idx == i) = some d → f.length ≤ d.fld 16 2 % 2 ^ 14 →
      st = s.host.ethStamp s.env (sext 16 (s.host.get (Reg.ETH_TS_RX_ADJ p))) →
      ∃ t, exec (.ethRxFrame p true f) s = .next t ∧ (t.host.ethPort p).posts = rest
        ∧ t.host.hostRead (d.fld 8 8) f.length = f ∧ t.host.counted s.host (Reg.ETH_RX_FRAMES p)
        ∧ { d with fin := some {}, eth := some { frac := st % 2 ^ 16, length := f.length, ns := st / 2 ^ 16 % 2 ^ 64 } } ∈ t.host.started q)
  ∧ (∀ (s : State) (p : Nat) (x : EthTx) (rest : List EthTx), s.up → p < 2 → s.host.on (Reg.ETH_CTRL.EN p) = true →
    (s.host.ethPort p).tx = x :: rest →
    ∃ t, exec (.ethTxDone p) s = .next t ∧ (t.host.ethPort p).tx = rest
      ∧ (t.host.ethPort p).sent = x.frame ++ toLE 4 (fcs32 x.frame).toNat ∧ t.host.counted s.host (Reg.ETH_TX_FRAMES p)
      ∧ (x.ts = none → (t.host.ethPort p).stamps = (s.host.ethPort p).stamps)
      ∧ ∀ id, x.ts = some id →
        ((s.host.ethPort p).stamps.length < 16 → (t.host.ethPort p).stamps = (s.host.ethPort p).stamps ++ [(id, x.stamp)])
        ∧ (16 ≤ (s.host.ethPort p).stamps.length → (t.host.ethPort p).stamps = (s.host.ethPort p).stamps
          ∧ t.host.get (Reg.ETH_TXTS_STATUS.OVF p) = 1 ∧ t.host.counted s.host (Reg.ETH_TXTS_LOST p)))
  ∧ (∀ (s : State) (p : Nat) (x : Nat × Nat), s.open_ → p < 2 → (s.host.ethPort p).stamps.length ≤ 16 →
    x = (s.host.ethPort p).stamps.tail.headD (0, 0) →
    ∃ t, exec (.ethTxtsPop p) s = .next t ∧ (t.host.ethPort p).stamps = (s.host.ethPort p).stamps.tail
      ∧ t.host.get (Reg.ETH_TXTS_STATUS.COUNT p) = (s.host.ethPort p).stamps.tail.length
      ∧ t.host.get (Reg.ETH_TXTS_ID p) = x.1 % 2 ^ 16 ∧ t.host.get (Reg.ETH_TXTS_FRAC p) = x.2 % 2 ^ 16
      ∧ t.host.get2 (Reg.ETH_TXTS_NS_LO p) (Reg.ETH_TXTS_NS_HI p) = x.2 / 2 ^ 16 % 2 ^ 64
      ∧ s.changes t (fun g => { g with eth := s.host.eth })
          [(Reg.ETH_TXTS_STATUS.COUNT p).addr, (Reg.ETH_TXTS_ID p).addr, (Reg.ETH_TXTS_FRAC p).addr, (Reg.ETH_TXTS_NS_LO p).addr,
            (Reg.ETH_TXTS_NS_HI p).addr])
  ∧ (∀ (s : State) (p : Nat) (lock hi : Bool), s.up → p < 2 → s.host.on (Reg.ETH_CTRL.EN p) = true →
    ∃ t, exec (.ethLinkChange p lock hi) s = .next t ∧ t.host.get (Reg.ETH_STATUS.LINK_UP p) = b2n (lock && !hi)
      ∧ t.host.get (Reg.ETH_STATUS.BLOCK_LOCK p) = b2n lock ∧ t.host.get (Reg.ETH_STATUS.HI_BER p) = b2n hi
      ∧ (s.host.get (Reg.ETH_STATUS.LINK_UP p) ≠ b2n (lock && !hi) → bit (t.host.get (Reg.ETH_INT_STATUS p)) 0 = true)
      ∧ s.regsOnly t [(Reg.ETH_STATUS.LINK_UP p).addr, (Reg.ETH_INT_STATUS p).addr])
  ∧ (∀ (s : State) (q p len fl : Nat) (d : Started), s.running → s.host.current q 0x32 = some d →
    p = d.fld 18 1 % 2 → len = d.fld 16 2 % 2 ^ 14 → fl = d.fld 19 1 →
    ((fl / 4 % 4 = 3 ∨ len < 60 ∨ s.host.get (Reg.ETH_MAXLEN p) < len + 4) → ∃ t, exec (.ethTx q) s = .next t ∧ t.ended q d 1 3 0
      ∧ s.changes t (fun g => { g with sq := s.host.sq }) [])
    ∧ (fl / 4 % 4 ≠ 3 → 60 ≤ len → len + 4 ≤ s.host.get (Reg.ETH_MAXLEN p) → s.host.bme = true →
      s.host.on (Reg.ETH_CTRL.EN p) = true →
      (s.host.readErr (d.fld 8 8) len = true → ∃ t, exec (.ethTx q) s = .next t ∧ t.ended q d 10 1 0
        ∧ s.changes t (fun g => { g with sq := s.host.sq }) [])
      ∧ (s.host.readErr (d.fld 8 8) len = false → twoTags (s.host.hostRead (d.fld 8 8) len) = true →
        ∃ t, exec (.ethTx q) s = .next t ∧ t.ended q d 1 3 0 ∧ s.changes t (fun g => { g with sq := s.host.sq }) [])
      ∧ (s.host.readErr (d.fld 8 8) len = false → twoTags (s.host.hostRead (d.fld 8 8) len) = false →
      ∃ t x, exec (.ethTx q) s = .next t ∧ (t.host.ethPort p).tx = (s.host.ethPort p).tx ++ [x] ∧ x.q = q ∧ x.idx = d.idx
        ∧ x.stamp = s.host.ethStamp s.env (sext 16 (s.host.get (Reg.ETH_TS_TX_ADJ p)))
        ∧ (bit fl 1 = false ∨ s.host.on (Reg.ETH_TS_CFG.ONE_STEP_EN p) = false →
          x.frame = s.host.hostRead (d.fld 8 8) len ∧ x.ts = if bit fl 0 then some (d.fld 20 2) else none)
        ∧ (bit fl 1 = true → s.host.on (Reg.ETH_TS_CFG.ONE_STEP_EN p) = true → x.frame
          = (oneStep (s.host.hostRead (d.fld 8 8) len) (fl / 4 % 4) (d.fld 22 2) (d.fld 24 4) (d.fld 28 2) x.stamp).1))))
  ∧ (∀ (s : State) (q p : Nat) (d : Started), s.running → s.host.current q 0x33 = some d → p = d.fld 18 1 % 2 →
    (s.host.on (Reg.HIF_ETH_RXQ.EN p) = true → s.host.get (Reg.HIF_ETH_RXQ.QUEUE p) = q →
      ∃ t, exec (.ethRxPost q) s = .next t ∧ (t.host.ethPort p).posts = (s.host.ethPort p).posts ++ [(q, d.idx)]
        ∧ s.changes t (fun g => { g with eth := s.host.eth, sq := s.host.sq }) [])
    ∧ ((s.host.on (Reg.HIF_ETH_RXQ.EN p) = false ∨ s.host.get (Reg.HIF_ETH_RXQ.QUEUE p) ≠ q) →
      ∃ t, exec (.ethRxPost q) s = .next t ∧ t.ended q d 1 3 0 ∧ s.changes t (fun g => { g with sq := s.host.sq }) []))

/-- R323, R324, R326 to R329, R343, R352 to R354: set-up of the host interface, and doorbells. SQ_CFG.EN 0 after a RESET, CAUSE 0 after a
RESTART and a disabled ring's doorbell that holds its value are log entry 41 (DEDUCED). -/
def Obligations.QueueSetUpAndDoorbells : Prop :=
  (∀ (s : State) (v : Word), s.up → s.host.allOff = true →
    ∃ t, exec (.hostAbiWrite v) s = .next t
      ∧ t.host.get Reg.DEV_ABI.ACTIVE = b2n (decide (v.toNat / 65536 ≤ 1) && decide (1 ≤ v.toNat % 65536))
      ∧ t.host.get Reg.DEV_ABI.FAIL = 1 - t.host.get Reg.DEV_ABI.ACTIVE ∧ t.host.word 0x14 = v
      ∧ s.regsOnly t [0x14, Reg.DEV_ABI.ACTIVE.addr])
  ∧ (∀ (s : State) (v : Word), s.up → s.settled → s.host.allOff = false → exec (.hostAbiWrite v) s = .next s)
  ∧ (∀ (s : State) (q eng client size cq : Nat) (v : Word), s.open_ → q < 64 → s.host.on (Reg.SQ_CFG.EN q) = false →
    s.host.get (Reg.SQ_STATUS.STATE q) = 0 → eng = (Reg.SQ_CFG.ENGINE q).ofWord v → client = (Reg.SQ_CFG.CLIENT q).ofWord v →
    size = (Reg.SQ_CFG.SIZE_L q).ofWord v → cq = (Reg.SQ_CFG.CQ q).ofWord v →
    ((s.host.get Reg.DEV_ABI.ACTIVE = 0 ∨ s.host.on (Reg.CQ_CFG.EN cq) = false ∨ 10 < size ∨ ((eng = 0 ∨ eng = 3) ∧ client ≠ 0)) →
      ∃ t, exec (.sqEnable q v) s = .next t ∧ t.host.get Reg.HIF_STATUS.CFG_INVALID = 1
        ∧ s.regsOnly t [Reg.HIF_STATUS.CFG_INVALID.addr])
    ∧ (s.host.get Reg.DEV_ABI.ACTIVE ≠ 0 → s.host.on (Reg.CQ_CFG.EN cq) = true → size ≤ 10 → (eng = 0 ∨ eng = 3 → client = 0) →
      ∃ t, exec (.sqEnable q v) s = .next t ∧ t.host.get (Reg.SQ_CFG.EN q) = 1 ∧ t.host.get (Reg.SQ_CFG.ENGINE q) = eng
        ∧ t.host.get (Reg.SQ_CFG.CLIENT q) = client ∧ t.host.get (Reg.SQ_CFG.SIZE_L q) = size ∧ t.host.get (Reg.SQ_CFG.CQ q) = cq
        ∧ t.host.get (Reg.SQ_STATUS.STATE q) = 1 ∧ t.host.get (Reg.SQ_HEAD q) = 0 ∧ t.host.get (Reg.SQ_TAIL q) = 0
        ∧ t.host.started q = []
        ∧ s.changes t (fun g => { g with sq := s.host.sq }) [(Reg.SQ_CFG.EN q).addr, (Reg.SQ_STATUS.STATE q).addr,
            (Reg.SQ_HEAD q).addr, (Reg.SQ_TAIL q).addr, (Reg.DB_SQ q).addr]))
  ∧ (∀ (s : State) (q : Nat) (v : Word), s.open_ → q < 64 →
    (v.getLsbD 0 = true → (10 < (Reg.CQ_CFG.SIZE_L q).ofWord v ∨ s.host.get Reg.DEV_ABI.ACTIVE = 0) →
      ∃ t, exec (.cqEnable q v) s = .next t ∧ t.host.get Reg.HIF_STATUS.CFG_INVALID = 1 ∧ s.regsOnly t [Reg.HIF_STATUS.CFG_INVALID.addr])
    ∧ (v.getLsbD 0 = true → (Reg.CQ_CFG.SIZE_L q).ofWord v ≤ 10 → s.host.get Reg.DEV_ABI.ACTIVE ≠ 0 → s.host.on (Reg.CQ_CFG.EN q) = false →
      ∃ t, exec (.cqEnable q v) s = .next t ∧ t.host.get (Reg.CQ_CFG.EN q) = 1
        ∧ t.host.get (Reg.CQ_CFG.SIZE_L q) = (Reg.CQ_CFG.SIZE_L q).ofWord v ∧ t.host.get (Reg.CQ_WRITTEN q) = 0
        ∧ t.host.get (Reg.CQ_HEAD q) = 0 ∧ t.host.get (Reg.CQ_STATUS.FULL q) = 0
        ∧ s.regsOnly t [(Reg.CQ_CFG.EN q).addr, (Reg.CQ_WRITTEN q).addr, (Reg.CQ_HEAD q).addr, (Reg.DB_CQ q).addr, (Reg.CQ_STATUS.FULL q).addr])
    ∧ (v.getLsbD 0 = false → s.host.on (Reg.CQ_CFG.EN q) = true →
      ((∃ i, i < 64 ∧ s.host.get (Reg.SQ_STATUS.STATE i) ≠ 0 ∧ s.host.get (Reg.SQ_CFG.CQ i) = q) →
        ∃ t, exec (.cqEnable q v) s = .next t ∧ t.host.get Reg.HIF_STATUS.CFG_INVALID = 1 ∧ s.regsOnly t [Reg.HIF_STATUS.CFG_INVALID.addr])
      ∧ ((∀ i, i < 64 → s.host.get (Reg.SQ_STATUS.STATE i) ≠ 0 → s.host.get (Reg.SQ_CFG.CQ i) ≠ q) →
        ∃ t, exec (.cqEnable q v) s = .next t ∧ t.host.get (Reg.CQ_CFG.EN q) = 0
          ∧ s.regsOnly t [(Reg.CQ_CFG.EN q).addr, (Reg.CQ_STATUS.FULL q).addr])))
  ∧ (∀ (s : State) (n : Nat) (v : Word), s.open_ → n < 16 →
    (v.getLsbD 0 = true → (Reg.RR_CFG.SIZE_L n).ofWord v ≤ 10 → s.host.get Reg.DEV_ABI.ACTIVE ≠ 0 → s.host.on (Reg.RR_CFG.EN n) = false →
      ∃ t, exec (.rrEnable n v) s = .next t ∧ t.host.get (Reg.RR_CFG.EN n) = 1 ∧ t.host.get (Reg.RR_PUBLISHED n) = 0
        ∧ t.host.get (Reg.RR_HEAD n) = 0 ∧ (t.host.ring n).held.map (·.bytes) = (s.host.ring n).held.map (·.bytes)
        ∧ s.changes t (fun g => { g with rings := s.host.rings })
            [(Reg.RR_CFG.EN n).addr, (Reg.RR_PUBLISHED n).addr, (Reg.RR_HEAD n).addr, (Reg.DB_RR n).addr, (Reg.RR_HELD n).addr])
    ∧ (v.getLsbD 0 = true → (10 < (Reg.RR_CFG.SIZE_L n).ofWord v ∨ s.host.get Reg.DEV_ABI.ACTIVE = 0) →
      ∃ t, exec (.rrEnable n v) s = .next t ∧ t.host.get Reg.HIF_STATUS.CFG_INVALID = 1 ∧ s.regsOnly t [Reg.HIF_STATUS.CFG_INVALID.addr])
    ∧ (v.getLsbD 0 = false → ∃ t, exec (.rrEnable n v) s = .next t ∧ t.host.get (Reg.RR_CFG.EN n) = 0
        ∧ s.regsOnly t [(Reg.RR_CFG.EN n).addr]))
  ∧ (∀ (s : State) (q : Nat), s.open_ → q < 64 → s.host.get (Reg.SQ_STATUS.STATE q) = 2 → s.host.get Reg.HDW_STATUS.STOPPED = 0 →
    ∃ t, exec (.sqRestart q) s = .next t ∧ t.host.get (Reg.SQ_STATUS.STATE q) = 1 ∧ t.host.get (Reg.SQ_STATUS.CAUSE q) = 0
      ∧ bit (t.host.get (if q < 32 then Reg.HIF_HALTED_LO else Reg.HIF_HALTED_HI)) (q % 32) = false
      ∧ s.regsOnly t [(Reg.SQ_STATUS.STATE q).addr, Reg.HIF_HALTED_LO.addr, Reg.HIF_HALTED_HI.addr])
  ∧ (∀ (s : State) (q : Nat), s.open_ → s.jobsOk → q < 64 → (s.host.get (Reg.SQ_STATUS.STATE q) = 1 ∨ s.host.get (Reg.SQ_STATUS.STATE q) = 2) →
    ∀ cfg : Option Word, ∃ t, exec (.sqReset q cfg) s = .next t ∧ t.host.get (Reg.SQ_STATUS.STATE q) = 3
      ∧ t.host.get (Reg.SQ_CFG.EN q) = 0
      ∧ ∀ d ∈ s.host.started q, d.fin = none → (d.opcode = 0x30 ∨ d.opcode = 0x31) → ∃ x ∈ t.host.started q, x.idx = d.idx ∧ x.abort = true)
  ∧ (∀ (s : State) (q : Nat), s.up → q < 64 → s.host.get (Reg.SQ_STATUS.STATE q) = 3 → s.host.started q = [] →
    s.host.get (Reg.SQ_HEAD q) = s.host.get (Reg.SQ_TAIL q) →
    ∃ t, exec (.sqResetDone q) s = .next t ∧ t.host.get (Reg.SQ_STATUS.STATE q) = 0 ∧ s.regsOnly t [(Reg.SQ_STATUS.STATE q).addr])
  ∧ (∀ (s : State) (q : Nat) (v : Word), s.open_ → q < 64 →
    (s.host.get (Reg.SQ_STATUS.STATE q) ≠ 0 → countDiff v.toNat (s.host.get (Reg.SQ_HEAD q)) ≤ s.host.sqSize q →
      ∃ t, exec (.sqDoorbell q v) s = .next t ∧ t.host.get (Reg.SQ_TAIL q) = v.toNat ∧ t.host.get (Reg.DB_SQ q) = v.toNat
        ∧ s.regsOnly t [(Reg.SQ_TAIL q).addr, (Reg.DB_SQ q).addr])
    ∧ (s.host.get (Reg.SQ_STATUS.STATE q) = 1 → s.host.sqSize q < countDiff v.toNat (s.host.get (Reg.SQ_HEAD q)) →
      ∃ t, exec (.sqDoorbell q v) s = .next t ∧ t.host.get (Reg.SQ_STATUS.STATE q) = 2 ∧ t.host.get (Reg.SQ_STATUS.CAUSE q) = 1
        ∧ bit (t.host.get (if q < 32 then Reg.HIF_HALTED_LO else Reg.HIF_HALTED_HI)) (q % 32) = true
        ∧ s.regsOnly t [(Reg.SQ_STATUS.STATE q).addr, Reg.HIF_HALTED_LO.addr, Reg.HIF_HALTED_HI.addr])
    ∧ (s.host.get (Reg.SQ_STATUS.STATE q) = 0 → ∃ t, exec (.sqDoorbell q v) s = .next t ∧ t.host.get (Reg.DB_SQ q) = v.toNat
      ∧ s.regsOnly t [(Reg.DB_SQ q).addr])
    ∧ (s.host.on (Reg.CQ_CFG.EN q) = false → ∃ t, exec (.cqHeadDoorbell q v) s = .next t ∧ t.host.get (Reg.DB_CQ q) = v.toNat
      ∧ s.regsOnly t [(Reg.DB_CQ q).addr])
    ∧ (q < 16 → s.host.on (Reg.RR_CFG.EN q) = false → ∃ t, exec (.rrHeadDoorbell q v) s = .next t ∧ t.host.get (Reg.DB_RR q) = v.toNat
      ∧ s.regsOnly t [(Reg.DB_RR q).addr]))
  ∧ (∀ (s : State) (q : Nat) (v : Word), s.open_ → q < 64 → s.host.on (Reg.CQ_CFG.EN q) = true →
    ∃ t, exec (.cqHeadDoorbell q v) s = .next t ∧ t.host.get (Reg.CQ_HEAD q) = v.toNat
      ∧ t.host.get (Reg.CQ_STATUS.FULL q)
          = b2n (countDiff (s.host.get (Reg.CQ_WRITTEN q)) v.toNat == Machine.sizeOf (s.host.get (Reg.CQ_CFG.SIZE_L q)))
      ∧ s.regsOnly t [(Reg.CQ_HEAD q).addr, (Reg.DB_CQ q).addr, (Reg.CQ_STATUS.FULL q).addr])
  ∧ (∀ (s : State) (n : Nat) (v : Word), s.open_ → n < 16 → s.host.on (Reg.RR_CFG.EN n) = true →
    ∃ t, exec (.rrHeadDoorbell n v) s = .next t ∧ t.host.get (Reg.RR_HEAD n) = v.toNat
      ∧ s.regsOnly t [(Reg.RR_HEAD n).addr, (Reg.DB_RR n).addr])

/-- R325, R327 to R330, R342 to R345: the rings in host memory; R344, R346, R348, R349: message vectors, Bus Master Enable and the state
page. What a change of Bus Master Enable does to vectors and to begun MOVE descriptors is log entry 32, and GENERATION + 2 is log entry 60
(both DEDUCED). -/
def Obligations.FetchesCompletionsAndRecords : Prop :=
  (∀ (s : State) (q eng : Nat) (d : Started), s.up → q < 64 → s.host.bme = true → eng = s.host.get (Reg.SQ_CFG.ENGINE q) →
    (s.host.stopped = true → eng = 3) →
    d = { idx := s.host.get (Reg.SQ_HEAD q), desc := s.host.nextDesc q, ord := s.host.starts } →
    (s.host.get (Reg.SQ_STATUS.STATE q) ≠ 3 → s.host.turnOf eng = some q →
      (s.host.descErr q = false →
        ∃ t, exec (.descriptorFetch q false) s = .next t ∧ t.host.started q = s.host.started q ++ [{ d with fin := d.refused eng }]
        ∧ t.host.get (Reg.SQ_HEAD q) = (s.host.get (Reg.SQ_HEAD q) + 1) % 2 ^ 32 ∧ t.host.mem = s.host.mem)
      ∧ (∀ err : Bool, (err || s.host.descErr q) = true → ∃ t, exec (.descriptorFetch q err) s = .next t ∧ t.host.get (Reg.SQ_STATUS.STATE q) = 2
        ∧ t.host.get (Reg.SQ_STATUS.CAUSE q) = 2
        ∧ s.regsOnly t [(Reg.SQ_STATUS.STATE q).addr, Reg.HIF_HALTED_LO.addr, Reg.HIF_HALTED_HI.addr]))
    ∧ (s.host.get (Reg.SQ_STATUS.STATE q) = 3 → s.host.get (Reg.SQ_HEAD q) ≠ s.host.get (Reg.SQ_TAIL q) →
      s.host.descErr q = false → ∃ t, exec (.descriptorFetch q false) s = .next t
        ∧ t.host.started q = s.host.started q ++ [{ d with fin := some { status := 9 } }]
        ∧ t.host.get (Reg.SQ_HEAD q) = (s.host.get (Reg.SQ_HEAD q) + 1) % 2 ^ 32 ∧ t.host.mem = s.host.mem))
  ∧ (∀ (s : State) (q : Nat) (d : Started) (rest : List Started) (f : Fin), s.up → s.jobsOk → q < 64 →
    (s.host.stopped = true → s.host.get (Reg.SQ_CFG.ENGINE q) = 3) → s.host.started q = d :: rest → d.fin = some f →
    (f.status = 0 → bit (d.fld 2 1) 2 = true →
      ∃ t, exec (.completionWrite q) s = .next t ∧ t.host.started q = rest ∧ t.host.mem = s.host.mem
        ∧ t.host.get (Reg.CQ_WRITTEN (s.host.get (Reg.SQ_CFG.CQ q))) = s.host.get (Reg.CQ_WRITTEN (s.host.get (Reg.SQ_CFG.CQ q))))
    ∧ ((f.status ≠ 0 ∨ bit (d.fld 2 1) 2 = false) → s.host.bme = true → ∀ (c j size base : Nat) (bs : List Byte),
      c = s.host.get (Reg.SQ_CFG.CQ q) → s.host.on (Reg.CQ_STATUS.FULL c) = false → j = s.host.get (Reg.CQ_WRITTEN c) →
      size = Machine.sizeOf (s.host.get (Reg.CQ_CFG.SIZE_L c)) →
      base = s.host.get (Reg.CQ_BASE_LO c) * 64 + s.host.get (Reg.CQ_BASE_HI c) * 2 ^ 32 →
      bs = d.entry q (b2n (decide (j / size % 2 = 0))) f →
      ∃ t, exec (.completionWrite q) s = .next t ∧ t.host.started q = rest ∧ t.host.get (Reg.CQ_WRITTEN c) = (j + 1) % 2 ^ 32
        ∧ t.host.hostRead (base + j % size * 16) bs.length = bs
        ∧ ∀ a, (a < base + j % size * 16 ∨ base + j % size * 16 + bs.length ≤ a) → t.host.mem.byte a = s.host.mem.byte a))
  ∧ (∀ (s : State) (n p size slot : Nat) (x : HeldRec) (rest : List HeldRec), s.up → n < 16 → s.host.ringReady n = true →
    (s.host.ring n).held = x :: rest → p = s.host.get (Reg.RR_PUBLISHED n) → size = Machine.sizeOf (s.host.get (Reg.RR_CFG.SIZE_L n)) →
    slot = s.host.get (Reg.RR_BASE_LO n) * 128 + s.host.get (Reg.RR_BASE_HI n) * 2 ^ 32 + p % size * 128 → x.bytes.length = 128 →
    (x.gap = none → ∃ t, exec (.resultRecordPublish n) s = .next t ∧ (t.host.ring n).held = rest
      ∧ t.host.get (Reg.RR_PUBLISHED n) = (p + 1) % 2 ^ 32
      ∧ (∀ i, i < 128 → i ≠ 8 → ¬ (recType x.bytes = 1 ∧ 32 ≤ i ∧ i < 36) → t.host.mem.byte (slot + i) = x.bytes.getD i 0)
      ∧ (recType x.bytes = 1 → t.host.hostRead (slot + 32) 4 = toLE 4 (s.host.get Reg.DET_CSEQ))
      ∧ (t.host.mem.byte (slot + 8)).toNat / 32 = recType x.bytes
      ∧ (t.host.mem.byte (slot + 8)).toNat % 16 = (x.bytes.getD 8 0).toNat % 16
      ∧ bit (t.host.mem.byte (slot + 8)).toNat 4 = decide (p / size % 2 = 0)
      ∧ ∀ a, (a < slot ∨ slot + 128 ≤ a) → t.host.mem.byte a = s.host.mem.byte a)
    ∧ (∀ g, x.gap = some g → ∃ t, exec (.resultRecordPublish n) s = .next t ∧ (t.host.ring n).held = { x with gap := none } :: rest
      ∧ t.host.get (Reg.RR_PUBLISHED n) = (p + 1) % 2 ^ 32 ∧ (t.host.mem.byte (slot + 8)).toNat / 32 = 4
      ∧ (t.host.mem.byte (slot + 8)).toNat % 16 = 1 ∧ bit (t.host.mem.byte (slot + 8)).toNat 4 = decide (p / size % 2 = 0)
      ∧ t.host.hostRead slot 8 = toLE 8 g.2.2
      ∧ t.host.hostRead (slot + 16) 4 = toLE 4 g.1 ∧ t.host.hostRead (slot + 24) 8 = toLE 8 g.2.1
      ∧ (∀ i, 9 ≤ i → i < 128 → ¬ (16 ≤ i ∧ i < 20) → ¬ (24 ≤ i ∧ i < 32) → t.host.mem.byte (slot + i) = 0)
      ∧ ∀ a, (a < slot ∨ slot + 128 ≤ a) → t.host.mem.byte a = s.host.mem.byte a))
  ∧ (∀ (s : State) (v : Nat), s.up → s.settled → v < 64 → s.host.on (Reg.VEC_CFG.TIMER v) = true → (s.host.vec v).gathered ≠ 0 →
    (s.host.on (Reg.MSIX_MASK v) = false → s.host.bme = true → ∃ t, exec (.msixVectorTimer v) s = .next t
      ∧ t.host.vec v = { s.host.vec v with gathered := 0, sent := (s.host.vec v).sent + 1 } ∧ s.regsOnly t [])
    ∧ ((s.host.on (Reg.MSIX_MASK v) = true ∨ s.host.bme = false) → ∃ t, exec (.msixVectorTimer v) s = .next t
      ∧ t.host.vec v = { s.host.vec v with gathered := 0, pend := true } ∧ s.regsOnly t []))
  ∧ (∀ (s : State) (v : Nat), s.open_ → s.settled → v < 64 →
    ∃ t, exec (.msixUnmask v) s = .next t ∧ t.host.get (Reg.MSIX_MASK v) = 0 ∧ s.regsOnly t [(Reg.MSIX_MASK v).addr]
      ∧ ((s.host.vec v).pend = true → s.host.bme = true →
        t.host.vec v = { s.host.vec v with pend := false, sent := (s.host.vec v).sent + 1 })
      ∧ ((s.host.vec v).pend = false → t.host.vec v = s.host.vec v))
  ∧ (∀ (h : HostSide) (v : Nat), v < 64 → max 1 (h.get (Reg.VEC_CFG.COUNT v)) ≤ (h.vec v).gathered + 1 →
    (h.on (Reg.MSIX_MASK v) = true → (h.signal v).vec v = { h.vec v with gathered := 0, pend := true })
    ∧ (h.on (Reg.MSIX_MASK v) = false → h.bme = true →
      (h.signal v).vec v = { h.vec v with gathered := 0, sent := (h.vec v).sent + 1 }))
  ∧ (∀ (h : HostSide) (v : Nat), v < 64 → (h.vec v).gathered + 1 < h.get (Reg.VEC_CFG.COUNT v) →
    (h.signal v).vec v = { h.vec v with gathered := (h.vec v).gathered + 1 })
  ∧ (∀ s : State, s.up → s.settled →
    (∃ t, exec (.busMasterEnableChange true) s = .next t ∧ t.host.bme = true
      ∧ (∀ v, v < 64 → (s.host.vec v).pend = true → s.host.on (Reg.MSIX_MASK v) = false →
        t.host.vec v = { s.host.vec v with pend := false, sent := (s.host.vec v).sent + 1 })
      ∧ t.host.pcieLink = .up
      ∧ s.changes t (fun g => { g with bme := s.host.bme, pcieLink := s.host.pcieLink }) [])
    ∧ (∃ t, exec (.busMasterEnableChange false) s = .next t ∧ t.host.bme = false
      ∧ (s.host.bme = true → ∀ q, q < 64 → ∀ d ∈ s.host.started q, d.usesHost = true →
        ∃ x ∈ t.host.started q, x.idx = d.idx ∧ x.fin = some { status := 10, detail := 2 })
      ∧ s.changes t (fun g => { g with bme := s.host.bme, sq := s.host.sq, pcieLink := s.host.pcieLink }) []))
  ∧ (∀ (s : State) (base gen : Nat) (bs : List Byte), s.up → s.host.on Reg.SP_CTRL.EN = true → s.host.bme = true →
    base = s.host.get Reg.SP_BASE_LO * 4096 + s.host.get Reg.SP_BASE_HI * 2 ^ 32 → gen = (s.host.spGen + 2) % 2 ^ 64 →
    bs = { s.host with spGen := gen }.pageBytes s.env →
    ∃ t, exec .statePageUpdate s = .next t ∧ t.host.hostRead base bs.length = bs ∧ t.host.spGen = gen
      ∧ t.host.get Reg.SP_GEN = gen % 2 ^ 32 ∧ bs.take 8 = toLE 8 gen
      ∧ ∀ a, (a < base ∨ base + bs.length ≤ a) → t.host.mem.byte a = s.host.mem.byte a)

/-- R326, R334: the MOVE engine. The window must hold every whole tile that is written (log entry 32, DEDUCED). -/
def Obligations.MoveEngine : Prop :=
  (∀ (s : State) (q : Nat) (d : Started), s.running → d.prog = 0 → d.fld 32 4 = 0 →
    (s.host.current q 0x30 = some d → ∀ (o : Nat) (g : List Byte) (ecc merge : Ecc), ∃ t, exec (.copy q o g ecc merge) s = .next t ∧ t.ended q d 1 3 0
      ∧ s.changes t (fun g => { g with sq := s.host.sq }) [])
    ∧ (s.host.current q 0x31 = some d → ∀ ecc : Ecc, ∃ t, exec (.fill q ecc) s = .next t ∧ t.ended q d 1 3 0
      ∧ s.changes t (fun g => { g with sq := s.host.sq }) []))
  ∧ (∀ (s : State) (q len : Nat) (d : Started) (forbids : MoveEnd → Bool), s.running → d.prog = 0 → len = d.fld 32 4 → 0 < len →
    s.host.client q ≠ 0 → d.moveDst.exists_ s.variant = true →
    (∀ x : MoveEnd, forbids x = true ↔ (2 ≤ x.space ∨ (x.space = 1 ∧
      ¬ (s.host.client q < 32 ∧ s.host.get (Reg.HIF_CLI_HBM.BASE (s.host.client q)) * 4096 ≤ x.addr
        ∧ x.addr + (len + 2047) / 2048 * 2048 ≤ s.host.get (Reg.HIF_CLI_HBM.LIMIT (s.host.client q)) * 4096)))) →
    (s.host.current q 0x31 = some d → forbids d.moveDst = true → ∀ ecc : Ecc,
      ∃ t, exec (.fill q ecc) s = .next t ∧ t.ended q d 8 0 0 ∧ s.changes t (fun g => { g with sq := s.host.sq }) [])
    ∧ (s.host.current q 0x30 = some d → d.moveSrc.exists_ s.variant = true → (forbids d.moveDst = true ∨ forbids d.moveSrc = true) →
      ∀ (o : Nat) (g : List Byte) (ecc merge : Ecc), ∃ t, exec (.copy q o g ecc merge) s = .next t ∧ t.ended q d 8 0 0
        ∧ s.changes t (fun g => { g with sq := s.host.sq }) []))
  ∧ (∀ (s : State) (q a b len : Nat) (d : Started) (ecc merge : Ecc), s.running → s.host.bme = true → s.host.current q 0x30 = some d → d.prog = 0 →
    d.abort = false → d.handle = 0 → len = d.fld 32 4 → 0 < len → len ≤ 2048 → len % 4 = 0 →
    d.moveSrc = { space := 0, unit := 0, addr := a } → a % 4 = 0 → a + len ≤ 2 ^ 64 →
    (d.moveDst = { space := 0, unit := 0, addr := b } → b % 4 = 0 → b + len ≤ 2 ^ 64 → (a + len ≤ b ∨ b + len ≤ a) →
      (s.host.readErr a len = false → ∃ t, exec (.copy q 0 [] ecc merge) s = .next t ∧ t.ended q d 0 0 0
        ∧ t.host.hostRead b len = s.host.hostRead a len
        ∧ ∀ x, (x < b ∨ b + len ≤ x) → t.host.mem.byte x = s.host.mem.byte x)
      ∧ (∀ g got : List Byte, s.host.readErr a len = false → got = (g ++ List.replicate len 0).take len →
        crc32c got ≠ crc32c (s.host.hostRead a len) →
        ∃ t, exec (.copy q 1 g ecc merge) s = .next t ∧ t.ended q d 4 3 0 ∧ t.host.counted s.host Reg.MEM_CSUM_COUNT
          ∧ t.host.hostRead b len = got)
      ∧ (∀ (o : Nat) (g : List Byte), (o = 2 ∨ s.host.readErr a len = true) → ∃ t, exec (.copy q o g ecc merge) s = .next t ∧ t.ended q d 10 1 0 ∧ t.host.mem = s.host.mem))
    ∧ (d.moveDst = { space := 1, unit := 0, addr := b } → s.host.hbmUp = true → s.host.client q = 0 → b / 2 ^ 32 < s.variant.groups →
      b % 2048 = 0 → b % 2 ^ 32 + 2048 ≤ 0xC0000000 → s.host.readErr a len = false →
      ∃ t, exec (.copy q 0 [] ecc merge) s = .next t ∧ t.ended q d 0 0 0
        ∧ (t.host.hbmOf (b / 2 ^ 32)).read (b % 2 ^ 32) len = s.host.hostRead a len
        ∧ (b % 2 ^ 32 / 2048) ∉ (t.host.hbmOf (b / 2 ^ 32)).poison ∧ t.host.mem = s.host.mem))
  ∧ (∀ (s : State) (q b len : Nat) (d : Started) (ecc : Ecc), s.running → s.host.bme = true → s.host.current q 0x31 = some d → d.prog = 0 →
    d.abort = false → d.handle = 0 → len = d.fld 32 4 → 0 < len → len ≤ 2048 → len % 4 = 0 → 40 ≤ d.desc.length →
    d.moveDst = { space := 0, unit := 0, addr := b } → b % 4 = 0 → b + len ≤ 2 ^ 64 →
    ∃ t, exec (.fill q ecc) s = .next t ∧ t.ended q d 0 0 0
      ∧ (∀ i, i < len → t.host.mem.byte (b + i) = d.desc.getD (36 + i % 4) 0)
      ∧ ∀ x, (x < b ∨ b + len ≤ x) → t.host.mem.byte x = s.host.mem.byte x)

/-- R333, R337 to R339: recipes. That a disarm with nothing armed completes at once is log entry 44, and the order of details 10, 7, 8, 9
is log entry 20 (both DEDUCED). -/
def Obligations.RecipeCommands : Prop :=
  (∀ (s : State) (q : Nat) (d : Started), s.running → 4 ≤ d.fld 20 1 →
    (s.host.current q 0x10 = some d → ∃ t, exec (.recipeLoad q) s = .next t ∧ t.ended q d 1 3 0 ∧ s.changes t (fun g => { g with sq := s.host.sq }) [])
    ∧ (s.host.current q 0x11 = some d → ∃ t, exec (.recipeCommit q) s = .next t ∧ t.ended q d 1 3 0 ∧ s.changes t (fun g => { g with sq := s.host.sq }) [])
    ∧ (s.host.current q 0x13 = some d → ∃ t, exec (.recipeDrop q) s = .next t ∧ t.ended q d 1 3 0 ∧ s.changes t (fun g => { g with sq := s.host.sq }) []))
  ∧ (∀ (s : State) (q : Nat) (d : Started), s.running → d.fld 20 1 < 4 → s.host.insp.armed.isSome = true → s.host.insp.armedSlot = d.fld 20 1 →
    (s.host.current q 0x10 = some d → ∃ t, exec (.recipeLoad q) s = .next t ∧ t.ended q d 2 6 0 ∧ s.changes t (fun g => { g with sq := s.host.sq }) [])
    ∧ (s.host.current q 0x13 = some d → ∃ t, exec (.recipeDrop q) s = .next t ∧ t.ended q d 2 6 0 ∧ s.changes t (fun g => { g with sq := s.host.sq }) []))
  ∧ (∀ (s : State) (q slot : Nat) (d : Started), s.running → slot = d.fld 20 1 → slot < 4 →
    (s.host.insp.armed = none ∨ s.host.insp.armedSlot ≠ slot) →
    (s.host.current q 0x13 = some d → ∃ t, exec (.recipeDrop q) s = .next t ∧ t.ended q d 0 0 0 ∧ t.host.insp.slots.find slot = none
      ∧ (∀ x, x ≠ slot → t.host.insp.slots.find x = s.host.insp.slots.find x)
      ∧ s.changes t (fun g => { g with sq := s.host.sq, insp := s.host.insp }) [])
    ∧ (s.host.current q 0x10 = some d → d.fld 8 8 % 64 = 0 → s.host.bme = true →
      ∀ (len : Nat) (img : List Byte) (r : Recipe), len = d.fld 16 4 → img = s.host.hostRead (d.fld 8 8) len → r = { hdr := img.take 1024 } →
      (s.host.readErr (d.fld 8 8) len = true → ∃ t, exec (.recipeLoad q) s = .next t ∧ t.ended q d 10 1 0
        ∧ t.host.insp.slots.find slot = none ∧ s.changes t (fun g => { g with sq := s.host.sq, insp := s.host.insp }) [])
      ∧ (s.host.readErr (d.fld 8 8) len = false → headerOk img len = false → ∃ t, exec (.recipeLoad q) s = .next t ∧ t.ended q d 2 1 0 ∧ t.host.insp.slots.find slot = none
        ∧ s.changes t (fun g => { g with sq := s.host.sq, insp := s.host.insp }) [])
      ∧ (∀ prog wght : List Seg, s.host.readErr (d.fld 8 8) len = false → headerOk img len = true → sectionSegs img (r.u 80 4) (r.u 84 4) = some prog →
        sectionSegs img (r.u 88 4) (r.u 92 4) = some wght → (∀ x ∈ wght, x.1 < 2) → (∀ x ∈ prog, x.1 < 6) →
        (∀ x ∈ prog ++ wght, segOk s.variant x = true ∧ x.1 ≠ 0 ∧ x.1 ≠ 5) →
        sha3 (asciiOf "KM7PROG1" ++ (img.drop (r.u 80 4)).take (r.u 84 4)) = (r.hdr.drop 16).take 32 →
        sha3 (asciiOf "KM7WGHT1" ++ (img.drop (r.u 88 4)).take (r.u 92 4)) = (r.hdr.drop 48).take 32 →
        ∃ t r', exec (.recipeLoad q) s = .next t ∧ t.ended q d 0 0 0 ∧ t.host.insp.slots.find slot = some r'
          ∧ r'.hdr = img.take 1024 ∧ r'.segs = prog ++ wght ∧ r'.id = s.host.insp.loads + 1 ∧ r'.hbm = [])))
  ∧ (∀ (s : State) (q slot : Nat) (d : Started), s.running → slot = d.fld 20 1 → slot < 4 → s.host.current q 0x11 = some d →
    (s.host.insp.slots.find slot = none → ∃ t, exec (.recipeCommit q) s = .next t ∧ t.ended q d 2 10 0
      ∧ s.changes t (fun g => { g with sq := s.host.sq }) [])
    ∧ (∀ r, s.host.insp.slots.find slot = some r →
      (s.host.r210 r = false → ∃ t, exec (.recipeCommit q) s = .next t ∧ t.ended q d 2 7 0
        ∧ s.changes t (fun g => { g with sq := s.host.sq }) [])
      ∧ (s.host.r210 r = true → s.host.slotsBad s.variant r = true → ∃ t, exec (.recipeCommit q) s = .next t ∧ t.ended q d 2 8 0
        ∧ s.changes t (fun g => { g with sq := s.host.sq }) [])
      ∧ (s.host.r210 r = true → s.host.slotsBad s.variant r = false → (∃ i, i < 8 ∧ s.host.orderOk s.variant r i = false) →
        ∃ t, exec (.recipeCommit q) s = .next t ∧ t.ended q d 2 9 0 ∧ s.changes t (fun g => { g with sq := s.host.sq }) [])
      ∧ (s.host.r210 r = true → s.host.slotsBad s.variant r = false → (∀ i, i < 8 → s.host.orderOk s.variant r i = true) →
        ∃ t, exec (.recipeCommit q) s = .next t ∧ t.host.insp.commits = s.host.insp.commits ++ [.recipe slot r (some (q, d.idx))]
          ∧ (∀ n ∈ r.images, t.host.get (Reg.SLU_STATUS.LOADER n) = 1)
          ∧ s.changes t (fun g => { g with sq := s.host.sq, insp := s.host.insp }) (r.images.map fun n => (Reg.SLU_STATUS.LOADER n).addr))))
  ∧ (∀ (s : State) (q : Nat) (d : Started), s.running → s.host.current q 0x12 = some d →
    (s.host.insp.armed = none → s.host.insp.commits = [] → ∃ t, exec (.recipeDisarm q) s = .next t ∧ t.ended q d 0 0 0
      ∧ s.changes t (fun g => { g with sq := s.host.sq }) [])
    ∧ ((s.host.insp.armed.isSome = true ∨ s.host.insp.commits ≠ []) → ∃ t, exec (.recipeDisarm q) s = .next t
      ∧ t.host.insp.commits = s.host.insp.commits ++ [.disarm (some (q, d.idx))]
      ∧ s.changes t (fun g => { g with sq := s.host.sq, insp := s.host.insp }) []))

/-- R356 to R361, R365: partitions and jobs from acceptance to their end. Which cluster a TABLE in space 0, 1 or 3 lies in, the codes of
list addresses and the order of the checks are log entry 33, and how a cancelled job ends is log entry 34 (both DEDUCED). -/
def Obligations.JobsAcceptedAndEnded : Prop :=
  (∀ (s : State) (q p client : Nat) (cores clu : List Nat) (d : Started) (ecc : Ecc), s.running → s.host.current q 0x20 = some d →
    p = d.fld 8 1 → cores = (List.range 64).filter (bit (d.fld 12 8)) → client = s.host.client q →
    clu = ((List.range 8).filter fun k => cores.any fun c => c / 8 == k) →
    ((p = 0 ∨ 8 < p ∨ s.host.partClusters p = []) → ∃ t, exec (.jobRun q ecc) s = .next t ∧ t.ended q d 2 1 0
      ∧ s.changes t (fun g => { g with sq := s.host.sq }) [])
    ∧ (1 ≤ p → p ≤ 8 → s.host.partClusters p ≠ [] →
      ((cores = [] ∨ ∃ c ∈ cores, s.host.partOf (c / 8) ≠ some p ∨ s.host.liveSite c = none) →
        ∃ t, exec (.jobRun q ecc) s = .next t ∧ t.ended q d 2 2 0 ∧ s.changes t (fun g => { g with sq := s.host.sq }) [])
      ∧ (cores ≠ [] → (∀ c ∈ cores, s.host.partOf (c / 8) = some p ∧ (s.host.liveSite c).isSome = true) →
        (s.host.jobMax client ≠ 0 → s.host.jobMax client ≤ s.host.clientJobs client → ∃ t, exec (.jobRun q ecc) s = .next t ∧ t.ended q d 2 3 0
          ∧ s.changes t (fun g => { g with sq := s.host.sq }) [])
        ∧ ((s.host.jobMax client = 0 ∨ s.host.clientJobs client < s.host.jobMax client) →
          ((s.host.freeBlocks p).length < clu.length → ∃ t, exec (.jobRun q ecc) s = .next t ∧ t.ended q d 2 4 0
            ∧ s.changes t (fun g => { g with sq := s.host.sq }) [])
          ∧ (clu.length ≤ (s.host.freeBlocks p).length →
            ∀ (tab : Nat × Nat) (mem : Nat × Nat × Nat) (n : Nat), tab = listRef (d.fld 20 8) → n = 8 * cores.length →
            mem = s.host.jobRefMem tab (clu.headD 0) (8 * clu.headD 0) →
            (∀ det, jobRefBad s.variant 4 tab n 8 = some det → ∃ t, exec (.jobRun q ecc) s = .next t ∧ t.ended q d 1 det 0
              ∧ s.changes t (fun g => { g with sq := s.host.sq }) [])
            ∧ (4 < tab.1 → jobRefBad s.variant 4 tab n 8 = some 3) ∧ (tab.1 ≤ 4 → tab.2 % 8 ≠ 0 → jobRefBad s.variant 4 tab n 8 = some 4)
            ∧ (jobRefBad s.variant 4 tab n 8 = none → tab.1 = 4 → s.host.portState (tab.2 / 2 ^ 45) ≠ 3 →
              ∃ t, exec (.jobRun q ecc) s = .next t ∧ t.ended q d 5 (tab.2 / 2 ^ 45) 0
                ∧ s.changes t (fun g => { g with sq := s.host.sq }) [])
            ∧ (jobRefBad s.variant 4 tab n 8 = none → tab.1 ≤ 3 → s.host.hbmUp = true → s.host.comp.jobs.length < 128 →
              (tab.1 < 2 → s.host.asleep (clu.headD 0) = false) → (tab.1 = 3 → s.host.asleep 0 = false) → ecc = {} →
              ((s.host.storeOf mem.1 mem.2.1).useFails mem.2.2 n ≠ none → ∃ t, exec (.jobRun q ecc) s = .next t ∧ t.ended q d 4 mem.1 0
                ∧ t.host.comp.jobs = s.host.comp.jobs)
              ∧ ((s.host.storeOf mem.1 mem.2.1).useFails mem.2.2 n = none →
            ∀ refs : List (Nat × Nat × Nat), refs = cores.mapIdx (fun i c =>
              (c, listRef (leNat ((((s.host.storeOf mem.1 mem.2.1).read mem.2.2 n).drop (8 * i)).take 8)))) →
            (∀ x ∈ refs, jobRefBad s.variant 2 x.2 16 64 = none) →
            (∀ x ∈ refs, x.2.1 ≠ 0 → bit (leNat ((s.host.storeOf (s.host.jobRefMem x.2 (x.1 / 8) x.1).1
              (s.host.jobRefMem x.2 (x.1 / 8) x.1).2.1).read (s.host.jobRefMem x.2 (x.1 / 8) x.1).2.2 1)) 4 = false) →
            ∃ t j, exec (.jobRun q ecc) s = .next t ∧ t.host.comp.jobs = s.host.comp.jobs ++ [j] ∧ j.id = q * 65536 + d.idx % 65536
              ∧ j.part = p ∧ j.client = client ∧ j.cores = cores ∧ j.lists = refs ∧ j.state = 1 ∧ j.q = q ∧ j.idx = d.idx
              ∧ j.blocks.length = clu.length)))))))
  ∧ (∀ (s : State) (q : Nat) (d : Started), s.running → s.host.current q 0x21 = some d →
    (s.host.job (d.fld 8 4) = none → ∃ t, exec (.jobCancel q) s = .next t ∧ t.ended q d 2 6 0
      ∧ s.changes t (fun g => { g with sq := s.host.sq }) [])
    ∧ (∀ j, s.host.job (d.fld 8 4) = some j →
      ((j.state = 1 ∨ j.state = 6) → ∃ t, exec (.jobCancel q) s = .next t ∧ t.ended q d 0 0 0 ∧ t.host.job j.id = none)
      ∧ (2 ≤ j.state → j.state ≤ 5 → ∃ t x, exec (.jobCancel q) s = .next t ∧ t.ended q d 0 0 0 ∧ t.host.job j.id = some x
        ∧ x.state = j.state ∧ x.ending = some (j.ending.getD (3, 0)))))
  ∧ (∀ (s : State) (j : Job) (d : Started), s.running → s.host.job j.id = some j → d ∈ s.host.started j.q → d.idx = j.idx → d.fin = none →
    (∀ st det, j.ending = some (st, det) → ∃ t, exec (.jobEnd j.id) s = .next t ∧ t.host.job j.id = none ∧ t.ended j.q d st det j.id)
    ∧ (j.ending = none → (j.state = 3 ∨ j.state = 4) → (∀ c ∈ j.cores, c ∈ j.ended) →
      (∀ c ∈ j.cores, ∀ site, s.host.siteOf c = some site → s.host.coreState site ≠ 5) →
      ∃ t, exec (.jobEnd j.id) s = .next t ∧ t.host.job j.id = none ∧ t.ended j.q d 0 0 j.id)
    ∧ (∀ c site, j.ending = none → 2 ≤ j.state → j.state ≤ 5 → j.cores = [c] → s.host.siteOf c = some site →
      (s.host.core site).job = some j.id → s.host.coreState site = 5 →
      ∃ t, exec (.jobEnd j.id) s = .next t ∧ t.host.job j.id = none ∧ t.ended j.q d 6 (s.host.get (Reg.CORE_ERR.CAUSE site)) j.id)
    ∧ (j.state = 4 → ∃ t, exec (.preLimitExpired j.id) s = .next t ∧ t.host.job j.id = none ∧ t.ended j.q d 6 0xF1 j.id))
  ∧ (∀ (s : State) (q part clusters us : Nat) (d : Started), s.up → s.host.current q 0x43 = some d → part = d.fld 8 1 →
    clusters = d.fld 9 1 → us = d.fld 12 4 →
    ((8 < part ∨ (part = 0 ∧ us ≠ 0) ∨ (part ≠ 0 ∧ (us < 100 ∨ 100000 < us))) →
      ∃ t, exec (.partitionSet q) s = .next t ∧ t.ended q d 1 3 0 ∧ s.changes t (fun g => { g with sq := s.host.sq }) [])
    ∧ (part ≤ 8 → (part = 0 → us = 0) → (part ≠ 0 → 100 ≤ us ∧ us ≤ 100000) →
      (∀ det, s.host.partRefused part clusters = some det → ∃ t, exec (.partitionSet q) s = .next t ∧ t.ended q d 2 det 0
        ∧ s.changes t (fun g => { g with sq := s.host.sq }) [])
      ∧ (s.host.partRefused part clusters = none → ∃ t, exec (.partitionSet q) s = .next t
        ∧ t.host.insp.commits = s.host.insp.commits ++ [.partition part clusters us (some (q, d.idx))]
        ∧ t.host.comp.part = s.host.comp.part
        ∧ s.changes t (fun g => { g with sq := s.host.sq, insp := s.host.insp }) [])))

/-- R362 to R364, R366 to R368: time slices and contexts. A saved job that waits may be granted again by the pass of the same step. -/
def Obligations.JobScheduling : Prop :=
  (∀ (s : State) (p : Nat) (j w : Job) (k : Nat), s.running → 1 ≤ p → p ≤ 8 → j ∈ s.host.comp.jobs → j.part = p → j.state = 3 →
    j.ending = none → (∀ x ∈ s.host.comp.jobs, x.live = true → x.id = j.id → x = j) →
    j.runTick + s.host.get (Reg.PART_SLICE_US (p - 1)) * 500 ≤ s.tick.toNat → w ∈ s.host.comp.jobs → w.part = p → w.waits = true →
    k ∈ w.clusters → k ∈ j.clusters →
    ∃ t x, exec (.sliceBoundary p) s = .next t ∧ t.host.job j.id = some x ∧ x.state = 4)
  ∧ (∀ (s : State) (p : Nat) (w : Job), s.running → 1 ≤ p → p ≤ 8 → w ∈ s.host.comp.jobs → w.part = p → w.waits = true →
    (∀ x ∈ s.host.comp.jobs, x.live = true → x.id = w.id → x = w) →
    (∀ x ∈ s.host.comp.jobs, x.part = p → x.waits = true → x = w) →
    (∀ x ∈ s.host.comp.jobs, ∀ k ∈ w.clusters, x.holds k = false) →
    ∃ t x, exec (.sliceBoundary p) s = .next t ∧ t.host.job w.id = some x ∧ x.state = 2 ∧ x.todo = w.clusters)
  ∧ (∀ (s : State) (j : Job), s.running → s.jobsOk → s.host.job j.id = some j → j.state = 4 → j.ending = none →
    (∃ c ∈ j.cores, c ∉ j.ended) →
    (∀ c ∈ j.cores, c ∈ j.ended ∨ ∃ site, s.host.siteOf c = some site ∧ s.host.coreState site = 4) →
    ∃ t x, exec (.preemptionComplete j.id) s = .next t ∧ t.host.job j.id = some x ∧ x.state = 5 ∧ x.todo = j.clusters
      ∧ t.host.counted s.host (Reg.PART_PREEMPTS (j.part - 1)))
  ∧ (∀ (s : State) (j : Job) (k : Nat) (bad : List (Nat × Nat)) (ecc : List (Nat × Ecc)), s.running → s.host.hbmUp = true →
    s.host.job j.id = some j → j.state = 5 → j.ending = none → k ∈ j.todo →
    (∀ x ∈ s.host.comp.jobs, x.live = true → x.id = j.id → x = j) →
    ∃ t x, exec (.contextSaveDone j.id k bad ecc) s = .next t ∧ t.host.isSaved j.id k = true ∧ t.host.job j.id = some x
      ∧ ((∃ i ∈ j.todo, i ≠ k) → x.state = 5 ∧ x.todo = j.todo.filter (· ≠ k))
      ∧ ((∀ i ∈ j.todo, i = k) → x.saved = true ∧ (x.state = 6 ∨ x.state = 2)))
  ∧ (∀ (s : State) (j : Job) (k : Nat) (bad : List (Nat × Nat)) (ecc : List (Nat × Ecc)), s.running → s.host.hbmUp = true →
    s.host.job j.id = some j → j.state = 2 → j.ending = none → k ∈ j.todo →
    s.host.asleep k = false → (∀ o ∈ s.host.comp.oxbow, o.job = j.id → o.lcore / 8 = k → o.sram = 0) →
    ∃ t x, exec (.contextRestoreDone j.id k bad ecc) s = .next t ∧ t.host.job j.id = some x ∧ x.todo = j.todo.filter (· ≠ k)
      ∧ ((∃ i ∈ j.todo, i ≠ k) → x.state = 2) ∧ ((∀ i ∈ j.todo, i = k) → x.state = 3 ∧ x.runTick = s.tick.toNat))
  ∧ (∀ (s : State) (j : Job) (c spa n : Nat) (o : Oxbow) (data : List Byte), s.running → s.host.job j.id = some j →
    s.host.comp.oxbow.find? (fun o => o.job == j.id && o.lcore == c && o.x.spa == spa && o.got.length < o.total) = some o →
    (n = min (data.length / 64 * 64) (o.total - o.got.length) → s.host.isSaved j.id (c / 8) = false → s.host.sramUsed (c / 8) + n ≤ 0x40000 →
      (∃ t, exec (.oxbowGranuleLand j.id c spa 0 data) s = .next t
        ∧ { o with got := o.got ++ data.take n, sram := o.sram + n } ∈ t.host.comp.oxbow
        ∧ s.changesAndCounts t (fun g => { g with comp := s.host.comp }) [])
      ∧ ∀ i, (o.touched o.got.length n).filter (fun i => !(i ∈ o.badPs)) = [i] →
        ∃ t, exec (.oxbowGranuleLand j.id c spa 1 data) s = .next t ∧ t.host.counted s.host Reg.MEM_CSUM_COUNT
          ∧ { o with got := o.got ++ data.take n, sram := o.sram + n, badPs := o.badPs ++ [i], failed := true } ∈ t.host.comp.oxbow)
    ∧ (∃ t x, exec (.oxbowGranuleLand j.id c spa 2 data) s = .next t ∧ t.host.job j.id = some x
      ∧ x.ending = some (j.ending.getD (5, o.x.far / 2 ^ 45))))
  ∧ (∀ (s : State) (job k : Nat), s.running → s.host.isSaved job k = true →
    ∃ t, exec (.oxbowDrainDone job k) s = .next t ∧ (∀ o ∈ t.host.comp.oxbow, o.job = job → o.lcore / 8 = k → o.sram = 0)
      ∧ s.hostOnly t ∧ t.host.cores = s.host.cores ∧ t.host.mem = s.host.mem ∧ t.host.comp.jobs = s.host.comp.jobs)

/-- R372 to R374, R377: serving. That a poll reads at most SIZE requests, that the first poll waits for the serving job to have begun and
that the oldest live job of the partition is its serving job are log entry 37 (DEDUCED). -/
def Obligations.ServingSteps : Prop :=
  (∀ (s : State) (p : Nat) (v : Word), s.open_ → 1 ≤ p → p ≤ 8 →
    (s.host.on (Reg.SRV_CTRL.EN (p - 1)) = false → v.getLsbD 0 = true →
      ∃ t, exec (.srvEnable p v) s = .next t ∧ t.host.get (Reg.SRV_CTRL.EN (p - 1)) = 1
        ∧ t.host.get (Reg.SRV_CTRL.MAX_SEQ (p - 1)) = (Reg.SRV_CTRL.MAX_SEQ (p - 1)).ofWord v
        ∧ t.host.get (Reg.SRV_CTRL.TOKEN (p - 1)) = (Reg.SRV_CTRL.TOKEN (p - 1)).ofWord v ∧ t.host.serving p = {}
        ∧ t.host.get (Reg.SRV_FREE_PAGES (p - 1)) = s.host.get (Reg.SRV_PAGES (p - 1))
        ∧ s.changes t (fun g => { g with comp := s.host.comp }) [(Reg.SRV_CTRL.EN (p - 1)).addr, (Reg.SRV_FREE_PAGES (p - 1)).addr,
            (Reg.SRV_WAITING (p - 1)).addr, (Reg.SRV_STEP_COUNT (p - 1)).addr, (Reg.PART_STATUS.JOBS (p - 1)).addr,
            (Reg.PART_FREE_BLOCKS (p - 1)).addr])
    ∧ (s.host.on (Reg.SRV_CTRL.EN (p - 1)) = true → v.getLsbD 0 = false →
      ((s.host.servingJob p).isSome = true → ∃ t, exec (.srvEnable p v) s = .next t ∧ t.host.get Reg.HIF_STATUS.CFG_INVALID = 1
        ∧ s.regsOnly t [Reg.HIF_STATUS.CFG_INVALID.addr])
      ∧ (s.host.servingJob p = none → ∃ t, exec (.srvEnable p v) s = .next t ∧ t.host.get (Reg.SRV_CTRL.EN (p - 1)) = 0
        ∧ s.regsOnly t [(Reg.SRV_CTRL.EN (p - 1)).addr, (Reg.PART_STATUS.JOBS (p - 1)).addr, (Reg.PART_FREE_BLOCKS (p - 1)).addr])))
  ∧ (∀ (s : State) (p : Nat) (j : Job), s.running → s.host.servingJob p = some j → s.host.bme = true →
    ((s.host.serving p).running = false → j.begun = true →
      ∃ t, exec (.servingPoll p) s = .next t ∧ (t.host.serving p).stepEnd = []
        ∧ ((t.host.serving p).running = false → (t.host.serving p).active = [] ∧ (t.host.serving p).waiting = []
          ∧ (t.host.serving p).steps = (s.host.serving p).steps)
        ∧ ((t.host.serving p).running = true → (t.host.serving p).steps = ((s.host.serving p).steps + 1) % 2 ^ 32))
    ∧ ((s.host.serving p).running = true → (∀ c ∈ j.cores, c ∈ (s.host.serving p).stepEnd) →
      ∃ t, exec (.servingStepEnd p) s = .next t ∧ (t.host.serving p).stepEnd = []
        ∧ ((t.host.serving p).running = false → (t.host.serving p).active = [] ∧ (t.host.serving p).waiting = []
          ∧ (t.host.serving p).steps = (s.host.serving p).steps)
        ∧ ((t.host.serving p).running = true → (t.host.serving p).steps = ((s.host.serving p).steps + 1) % 2 ^ 32))
    ∧ (s.settled → (s.host.serving p).running = true → (∃ c ∈ j.cores, c ∉ (s.host.serving p).stepEnd) →
      exec (.servingStepEnd p) s = .next s))
  ∧ (∀ (s : State) (p base head tail n : Nat) (j : Job), s.running → 1 ≤ p → p ≤ 8 → s.host.servingJob p = some j → s.host.bme = true →
    (s.host.serving p).running = false → j.begun = true → (s.host.serving p).active = [] →
    base = s.host.get (Reg.SRV_RING_LO (p - 1)) * 64 + s.host.get (Reg.SRV_RING_HI (p - 1)) * 2 ^ 32 → head = (s.host.serving p).head →
    tail = leNat (s.host.hostRead base 4) →
    n = min ((tail + 2 ^ 32 - head % 2 ^ 32) % 2 ^ 32) (Machine.sizeOf (s.host.get (Reg.SRV_RING.SIZE_L (p - 1)))) →
    ∃ t, exec (.servingPoll p) s = .next t ∧ (t.host.serving p).head = (head + n) % 2 ^ 32
      ∧ t.host.hostRead (base + 4) 4 = toLE 4 ((head + n) % 2 ^ 32)
      ∧ ∀ x, tail = head → head < 2 ^ 32 → (s.host.serving p).waiting = [x] → 1 ≤ s.host.get (Reg.SRV_CTRL.MAX_SEQ (p - 1)) →
        s.host.pagesOf p x ≤ s.host.get (Reg.SRV_PAGES (p - 1)) →
        (t.host.serving p).waiting = [] ∧ (t.host.serving p).running = true
        ∧ (t.host.serving p).active.map (fun y => (y.n, y.slot, y.pages)) = [(x.n, 0, List.range (s.host.pagesOf p x))])

/-- R381 to R396: samples in order. -/
def Obligations.TextSamples : Prop :=
  (∀ (s : State) (q dst mx : Nat) (d : Started), s.running → s.host.current q 0x22 = some d → s.host.sampleFirst d = true → dst = d.fld 24 8 → mx = d.fld 32 4 →
    ((mx = 0 ∨ 4194304 < mx) → ∃ t, exec (.textSample q) s = .next t ∧ t.ended q d 1 3 0 ∧ s.changes t (fun g => { g with sq := s.host.sq }) [])
    ∧ (0 < mx → mx ≤ 4194304 → dst / 2 ^ 32 < s.variant.groups → dst % 2048 = 0 → dst % 2 ^ 32 < 0xC0000000 → s.host.client q = 0 →
      (s.host.get Reg.HDW_CTRL.EN = 0 → ∃ t, exec (.textSample q) s = .next t ∧ t.ended q d 2 4 0
        ∧ s.changes t (fun g => { g with sq := s.host.sq }) [])
      ∧ (s.host.get Reg.HDW_CTRL.EN = 1 → ∃ t, exec (.textSample q) s = .next t ∧ t.host.hdw.ready = s.host.hdw.ready ++ [(q, d.idx)]
        ∧ t.host.hdw.win = s.host.hdw.win ∧ { d with accepted := true } ∈ t.host.started q)))
  ∧ (∀ (s : State) (q : Nat) (d : Started), s.running → s.settled → s.host.current q 0x22 = some d → s.host.sampleFirst d = false →
    exec (.textSample q) s = .next s)
  ∧ (∀ (s : State) (q i len : Nat) (rest : List (Nat × Nat)) (d : Started), s.running → s.host.hdw.ready = (q, i) :: rest → q < 64 →
    s.host.hdw.win.length < 64 → s.host.hdw.stop = none → (s.host.started q).find? (fun d => d.idx == i) = some d → len = d.fld 16 4 →
    (len ≤ s.host.get Reg.HDW_MAX_BYTES → ∃ t, exec .hdwAdmit s = .next t ∧ t.host.hdw.ready = rest
      ∧ t.host.hdw.win = s.host.hdw.win ++
          [{ q := q, idx := i, tag := d.fld 4 4, src := d.fld 8 8, len := len, dst := d.fld 24 8, maxTok := d.fld 32 4,
             bank := s.host.hdw.active, ctrl := s.host.word 0x780000, tok := s.host.word 0x780004 }]
      ∧ t.host.hdw.stop = none)
    ∧ (s.host.get Reg.HDW_MAX_BYTES < len → s.host.get (Reg.SQ_STATUS.STATE q) = 1 → ∃ t, exec .hdwAdmit s = .next t
      ∧ t.host.hdw.ready = rest ∧ t.host.hdw.win.length = s.host.hdw.win.length + 1 ∧ t.host.hdw.stop = some (2, len)
      ∧ t.host.get (Reg.SQ_STATUS.STATE q) = 2 ∧ t.host.get (Reg.SQ_STATUS.CAUSE q) = 3))
  ∧ (∀ (s : State) (pre post : List Sample) (y : Sample), s.running → s.host.bme = true → s.host.hdw.win = pre ++ y :: post →
    (∀ x ∈ pre, x.state ≠ 0) → y.state = 0 → (s.host.hdw.win.filter fun x => x.state == 1).length < 8 →
    ∃ t, exec .hdwLaneStart s = .next t ∧ t.host.hdw.win = pre ++ { y with state := 1 } :: post
      ∧ s.changes t (fun g => { g with hdw := s.host.hdw }) [Reg.HDW_STATUS.WINDOW.addr, Reg.HDW_DICT_STATUS.ACTIVE.addr])
  ∧ (∀ (s : State) (i : Nat) (smp : Sample) (toks : List (Nat × Nat)), s.running → s.host.hdw.win[i]? = some smp → smp.state = 1 →
    toks = s.host.tokenize smp (s.host.hostRead smp.src smp.len) →
    (s.host.hbmUp = true → s.host.readErr smp.src smp.len = false → smp.odd (s.host.hostRead smp.src smp.len) toks = none → ∃ t, exec (.hdwDecodeDone i false) s = .next t
      ∧ t.host.hdw.win[i]? = some { smp with state := 2, toks := toks.map (·.1) })
    ∧ (∀ cause off, s.host.hbmUp = true → s.host.readErr smp.src smp.len = false → smp.odd (s.host.hostRead smp.src smp.len) toks = some (cause, off) → smp.q < 64 →
      s.host.get (Reg.SQ_STATUS.STATE smp.q) = 1 → ∃ t, exec (.hdwDecodeDone i false) s = .next t ∧ t.host.hdw.stop = some (cause, off)
      ∧ t.host.hdw.win[i]? = some { smp with state := 3 }
      ∧ (∀ k, i < k → (t.host.hdw.win[k]?).map (·.state) = (s.host.hdw.win[k]?).map fun _ => 4)
      ∧ t.host.get (Reg.SQ_STATUS.STATE smp.q) = 2 ∧ t.host.get (Reg.SQ_STATUS.CAUSE smp.q) = 3)
    ∧ (∀ err : Bool, (err || s.host.readErr smp.src smp.len) = true → ∃ t, exec (.hdwDecodeDone i err) s = .next t ∧ t.host.hdw.win[i]? = some { smp with state := 2, pcie := true }))
  ∧ (∀ (s : State) (smp : Sample) (rest : List Sample) (d : Started), s.running → s.host.hdw.win = smp :: rest → smp.state = 2 →
    (s.host.hdw.closed = [] ∨ s.host.batchFull = false) → d ∈ s.host.started smp.q → d.idx = smp.idx → d.fin = none →
    (smp.pcie = false → smp.dropped = none → s.host.hbmUp = true → ∃ t, exec .hdwEmerge s = .next t ∧ t.host.hdw.win = rest ∧ t.host.counted s.host Reg.HDW_SAMPLES
      ∧ t.ended smp.q d 0 0 smp.toks.length
      ∧ (smp.dst % 2048 = 0 → smp.dst % 2 ^ 32 + 4 * smp.toks.length ≤ 0xC0000000 →
        (t.host.hbmOf (smp.dst / 2 ^ 32)).read (smp.dst % 2 ^ 32) (4 * smp.toks.length) = smp.toks.flatMap (toLE 4)))
    ∧ (∀ cause, smp.pcie = false → smp.dropped = some cause → ∃ t, exec .hdwEmerge s = .next t ∧ t.host.hdw.win = rest
      ∧ t.host.counted s.host Reg.HDW_SAMPLES ∧ t.ended smp.q d 2 cause 0)
    ∧ (smp.pcie = true → ∃ t, exec .hdwEmerge s = .next t ∧ t.host.hdw.win = rest ∧ t.host.counted s.host Reg.HDW_SAMPLES
      ∧ t.ended smp.q d 10 1 0))
  ∧ (∀ (s : State) (smp : Sample) (rest : List Sample) (cause off : Nat), s.running → s.host.hdw.stop = some (cause, off) →
    s.host.hdw.win = smp :: rest → smp.state = 3 → s.host.get Reg.HDW_STATUS.STOPPED = 0 → s.host.get (Reg.SQ_STATUS.STATE smp.q) ≠ 3 →
    ∃ t, exec .hdwStopped s = .next t ∧ t.host.get Reg.HDW_STATUS.STOPPED = 1 ∧ t.host.get Reg.HDW_STOP.QUEUE = smp.q % 64
      ∧ t.host.get Reg.HDW_STOP.CAUSE = cause % 4 ∧ t.host.get Reg.HDW_STOP_INDEX = smp.idx % 2 ^ 32
      ∧ t.host.get Reg.HDW_STOP_OFFSET = off % 2 ^ 32 ∧ t.host.get Reg.HDW_STOP_TAG = smp.tag % 2 ^ 32
      ∧ bit (t.host.get Reg.HDW_INT_STATUS) 0 = true ∧ t.host.counted s.host Reg.HDW_STOPS ∧ t.host.hdw.batch = []
      ∧ t.host.hdw.win = s.host.hdw.win)
  ∧ (∀ (s : State) (q cause off : Nat) (smp : Sample) (rest : List Sample) (d : Started), s.open_ → q < 64 →
    s.host.get Reg.HDW_STATUS.STOPPED = 1 → s.host.get Reg.HDW_STOP.QUEUE = q → s.host.hdw.stop = some (cause, off) →
    s.host.hdw.win = smp :: rest → d ∈ s.host.started smp.q → d.idx = smp.idx → d.fin = none →
    (s.host.get Reg.HDW_STOP.ACTION = 1 → s.host.stopped = false →
      (∀ y ∈ rest, y.big = false ∨ y.dropped.isSome = true ∨ y.len ≤ s.host.get Reg.HDW_MAX_BYTES) → ∃ t, exec (.sqRestart q) s = .next t ∧ t.ended smp.q d 2 cause 0
      ∧ t.host.get Reg.HDW_STATUS.STOPPED = 0 ∧ t.host.hdw.stop = none
      ∧ t.host.hdw.win = rest.map fun y => { y with state := 0, toks := [], pcie := false })
    ∧ (s.host.get Reg.HDW_STOP.ACTION = 0 → smp.big = true → smp.dropped = none → s.host.get Reg.HDW_MAX_BYTES < smp.len →
      ∃ t, exec (.sqRestart q) s = .next t ∧ t.host.get Reg.HDW_STATUS.STOPPED = 0 ∧ t.host.hdw.stop = some (2, smp.len)
        ∧ t.host.hdw.win = { smp with state := 3, toks := [], pcie := false }
            :: rest.map fun y => { y with state := 4, toks := [], pcie := false })
    ∧ (s.host.get Reg.HDW_STOP.ACTION = 0 →
      (∀ y ∈ smp :: rest, y.big = false ∨ y.dropped.isSome = true ∨ y.len ≤ s.host.get Reg.HDW_MAX_BYTES) → ∃ t, exec (.sqRestart q) s = .next t
      ∧ t.host.get Reg.HDW_STATUS.STOPPED = 0 ∧ t.host.hdw.stop = none
      ∧ t.host.hdw.win = (smp :: rest).map fun y => { y with state := 0, toks := [], pcie := false }))
  ∧ (∀ (h : HostSide) (b tok n : Nat) (x : Byte) (rest : List Byte), h.longest (some b) (x :: rest) = (tok, n) →
    ((tok = x.toNat ∧ n = 1) ∨ (256 ≤ tok ∧ tok < 65536 ∧ n = entryLen (h.entryWord b tok) ∧ 2 ≤ n ∧ n ≤ 48
      ∧ h.entryStr b (h.entryWord b tok) = (x :: rest).take n))
    ∧ ∀ i, 256 ≤ i → i < 65536 → entryLen (h.entryWord b i) ≤ 48 → entryLen (h.entryWord b i) ≤ rest.length + 1 →
      h.entryStr b (h.entryWord b i) = (x :: rest).take (entryLen (h.entryWord b i)) → entryLen (h.entryWord b i) ≤ max 1 n)

/-- R384, R385, R391 to R393: dictionary and batches. SLOTS 0 that acts as 1 and the lowest cause that wins, with the lowest entry that
has it, are log entry 46 (DEDUCED). -/
def Obligations.DictionaryAndBatches : Prop :=
  (∀ (s : State) (b : Nat) (v : Word), s.open_ → b = v.toNat / 2 % 2 →
    (s.host.hdw.building = none → s.host.bankHeld b = false → ∃ t, exec (.hdwDictCommit v) s = .next t ∧ t.host.hdw.building = some b
      ∧ t.host.get Reg.HDW_DICT_STATUS.BUILDING = 1 ∧ SMap.get (fun _ => 0) t.host.hdw.pool b = s.host.get (Reg.HDW_POOL_LEN b)
      ∧ t.host.hdw.active = s.host.hdw.active)
    ∧ ((s.host.hdw.building.isSome = true ∨ s.host.bankHeld b = true) → ∃ t, exec (.hdwDictCommit v) s = .next t
      ∧ t.host.get Reg.HDW_DICT_STATUS.INVALID = 1 ∧ t.host.get Reg.HDW_DICT_STATUS.CAUSE = 4
      ∧ bit (t.host.get Reg.HDW_INT_STATUS) 2 = true
      ∧ s.regsOnly t [Reg.HDW_CMD.BANK.addr, Reg.HDW_DICT_STATUS.INVALID.addr, Reg.HDW_INT_STATUS.addr]))
  ∧ (∀ (s : State) (b : Nat), s.up → s.host.hdw.building = some b →
    (s.host.dictBad b = none → ∃ t, exec .hdwDictBuildDone s = .next t ∧ t.host.hdw.active = some b ∧ t.host.hdw.building = none
      ∧ t.host.get Reg.HDW_DICT_GEN = (s.host.get Reg.HDW_DICT_GEN + 1) % 2 ^ 32 ∧ bit (t.host.get Reg.HDW_INT_STATUS) 1 = true
      ∧ (∀ k, k < 8 → t.host.get (Reg.HDW_DICT_DIGEST k) = leNat (((sha3 (asciiOf "KM7DICT1" ++ s.host.dictBytes (b * 0x400000)
          (0x40000 + SMap.get (fun _ => 0) s.host.hdw.pool b))).drop (4 * k)).take 4)))
    ∧ (∀ cause i, s.host.dictBad b = some (cause, some i) → ∃ t, exec .hdwDictBuildDone s = .next t
      ∧ t.host.hdw.active = s.host.hdw.active ∧ t.host.hdw.building = none ∧ t.host.get Reg.HDW_DICT_STATUS.INVALID = 1
      ∧ t.host.get Reg.HDW_DICT_STATUS.CAUSE = cause % 8 ∧ t.host.get Reg.HDW_DICT_STATUS.BAD_ENTRY = i % 65536
      ∧ bit (t.host.get Reg.HDW_INT_STATUS) 2 = true))
  ∧ (∀ (h : HostSide) (b i : Nat), 256 ≤ i → i < 65536 → entryLen (h.entryWord b i) = 1 →
    (∀ k, 256 ≤ k → k < i → entryLen (h.entryWord b k) = 0) → h.dictBad b = some (1, some i))
  ∧ (∀ s : State, s.running → s.host.on Reg.HDW_BATCH_CFG.EN = true → s.host.on Reg.HDW_BATCH_CFG.TIMEOUT_US = true → s.host.hdw.batch ≠ [] →
    ∃ t, exec .hdwBatchTimeout s = .next t ∧ t.host.hdw.batch = []
      ∧ t.host.hdw.closed = s.host.hdw.closed ++ [{ samples := s.host.hdw.batch, timed := true }]
      ∧ s.changes t (fun g => { g with hdw := s.host.hdw }) [Reg.HDW_STATUS.WINDOW.addr, Reg.HDW_DICT_STATUS.ACTIVE.addr])
  ∧ (∀ (s : State) (b : Batch) (rest : List Batch) (g off : Nat), s.running → s.host.hdw.closed = b :: rest → s.host.batchFull = false →
    s.host.hbmUp = true → g = s.host.get Reg.HDW_BATCH_GROUP →
    off = s.host.get Reg.HDW_BATCH_BASE * 2048 + s.host.hdw.batchNo % max 1 (s.host.get Reg.HDW_BATCH_SLOTS) * 2048 →
    ∃ t, exec .hdwBatchWrite s = .next t ∧ t.host.hdw.closed = rest ∧ t.host.hdw.batchNo = s.host.hdw.batchNo + 1
      ∧ t.host.get Reg.HDW_BATCH_COUNT = (s.host.get Reg.HDW_BATCH_COUNT + 1) % 2 ^ 32 ∧ bit (t.host.get Reg.HDW_INT_STATUS) 3 = true
      ∧ (g < s.variant.groups → off + 2048 ≤ 0xC0000000 → (t.host.hbmOf g).read off 2048 = b.bytes (s.host.hdw.batchNo + 1)))
  ∧ (∀ (s : State) (c site : Nat), s.running → c = s.host.get Reg.HDW_BATCH_CFG.CORE → s.host.ctlReady (c / 8) (c % 8) .batchFree = some site →
    s.host.get Reg.HDW_BATCH_FREED ≠ s.host.get Reg.HDW_BATCH_COUNT →
    ∃ t, exec (.hdwBatchFree c) s = .next t ∧ t.host.get Reg.HDW_BATCH_FREED = (s.host.get Reg.HDW_BATCH_FREED + 1) % 2 ^ 32
      ∧ s.changes t (fun g => { g with cores := s.host.cores }) [Reg.HDW_BATCH_FREED.addr])

/-- R400, R403, R408, R410 to R414, R416, R440: Gauge. That MARK and COUNTER records go to buffer 8, that a LOSS record comes with the
write that makes room, and how a trace write takes open slots are log entry 50; that CLEAR_ALL in the cycle of a SNAP leaves the values
before it to the snapshot is log entry 14 (both DEDUCED). -/
def Obligations.CountersAndTrace : Prop :=
  (∀ (s : State) (i a : Nat) (v : Word), s.open_ → i < 256 → a = 0x601000 + 16 * i →
    ∃ t, exec (.counterConfigWrite a v) s = .next t
      ∧ t.host.word a = (v &&& 0x00FF1FFF#32) ||| (if v.msb then 0#32 else s.host.word a &&& 0x80000000#32)
      ∧ t.host.get2 (Reg.GCNT_VALUE_LO i) (Reg.GCNT_VALUE_HI i) = 0 ∧ s.regsOnly t [a, a + 4, a + 8])
  ∧ (∀ (s : State) (c j a : Nat) (v : Word), s.open_ → c < 64 → j < 16 → a = 0x608000 + 256 * c + 16 * j → s.host.asleep (c / 8) = false →
    (v.toNat / 256 % 4 < 2 → ∃ t, exec (.counterConfigWrite a v) s = .next t
      ∧ t.host.word a = (v &&& 0x00FF03FF#32) ||| (if v.msb then 0#32 else s.host.word a &&& 0x80000000#32)
      ∧ t.host.get2 (Reg.CNT_VALUE_LO c j) (Reg.CNT_VALUE_HI c j) = 0 ∧ s.regsOnly t [a, a + 4, a + 8])
    ∧ (s.settled → 2 ≤ v.toNat / 256 % 4 → exec (.counterConfigWrite a v) s = .next s))
  ∧ (∀ (s : State) (k j a : Nat) (v : Word), s.open_ → k < 8 → j < 32 → a = 0x604000 + 512 * k + 16 * j → s.host.asleep k = true →
    ∃ t, exec (.counterConfigWrite a v) s = .next t ∧ t.host.pm.writes = s.host.pm.writes ++ [(k, a, v)] ∧ k ∈ t.host.pm.waking
      ∧ s.changes t (fun g => { g with pm := s.host.pm }) [])
  ∧ (∀ s : State, s.open_ → ∃ t, exec .gaugeSnap s = .next t ∧ t.host.gauge = { s.host.gauge with snapReq := true, snapTick := s.env.tick, snapVals := none }
      ∧ s.changes t (fun g => { g with gauge := s.host.gauge }) [])
  ∧ (∀ s : State, s.up → s.host.gauge.snapReq = true → ∃ t, exec .gaugeSnapTake s = .next t
      ∧ (s.host.gauge.snapVals = none → ∀ i, i < 256 →
          t.host.get2 (Reg.GSNAP_LO i) (Reg.GSNAP_HI i) = s.host.get2 (Reg.GCNT_VALUE_LO i) (Reg.GCNT_VALUE_HI i))
      ∧ (∀ vs, s.host.gauge.snapVals = some vs → ∀ i, i < 256 → vs.getD i 0 < 2 ^ 48 →
          t.host.get2 (Reg.GSNAP_LO i) (Reg.GSNAP_HI i) = vs.getD i 0)
      ∧ t.host.get Reg.GAUGE_STATUS.SNAP_VALID = 1 ∧ t.host.get2 Reg.GAUGE_SNAP_TICK_LO Reg.GAUGE_SNAP_TICK_HI = s.tick.toNat
      ∧ t.host.gauge = { s.host.gauge with snapReq := false, snapVals := none }
      ∧ s.changes t (fun g => { g with gauge := s.host.gauge })
          (Reg.GAUGE_STATUS.SNAP_VALID.addr :: Reg.GAUGE_SNAP_TICK_LO.addr :: Reg.GAUGE_SNAP_TICK_HI.addr ::
            (List.range 256).flatMap fun i => [(Reg.GSNAP_LO i).addr, (Reg.GSNAP_HI i).addr]))
  ∧ (∀ s : State, s.open_ → ∃ t, exec .gaugeClearAll s = .next t
      ∧ (∀ i, i < 256 → t.host.get2 (Reg.GCNT_VALUE_LO i) (Reg.GCNT_VALUE_HI i) = 0)
      ∧ (s.host.gauge.snapReq = true → s.host.gauge.snapTick = s.env.tick → s.host.gauge.snapVals = none →
          t.host.gauge = { s.host.gauge with snapVals := some s.host.globals })
      ∧ (s.host.gauge.snapReq = false ∨ s.host.gauge.snapTick ≠ s.env.tick ∨ s.host.gauge.snapVals ≠ none → t.host.gauge = s.host.gauge)
      ∧ s.changes t (fun g => { g with gauge := s.host.gauge })
          ((List.range 256).flatMap fun i => [(Reg.GCNT_VALUE_LO i).addr, (Reg.GCNT_VALUE_HI i).addr]))
  ∧ (∀ (s : State) (b tick : Nat) (r : List Byte) (pre post : List (Nat × Nat × List Byte)), s.up →
    s.host.gauge.due = pre ++ (b, tick, r) :: post → (∀ x ∈ pre, x.1 ≠ b) →
    ((s.host.traceBuf b).dropped = 0 → (s.host.traceBuf b).recs.length < 256 →
      ∃ t, exec (.traceRecord b) s = .next t ∧ t.host.gauge.due = pre ++ post
        ∧ t.host.traceBuf b = { s.host.traceBuf b with recs := (s.host.traceBuf b).recs ++ [r] }
        ∧ s.changes t (fun g => { g with gauge := s.host.gauge }) [])
    ∧ (256 ≤ (s.host.traceBuf b).recs.length → ∃ t, exec (.traceRecord b) s = .next t ∧ t.host.gauge.due = pre ++ post
        ∧ (t.host.traceBuf b).recs = (s.host.traceBuf b).recs
        ∧ (t.host.traceBuf b).dropped = (s.host.traceBuf b).dropped + 1
        ∧ ((s.host.traceBuf b).dropped = 0 → (t.host.traceBuf b).dropTick = tick) ∧ t.host.counted s.host Reg.TRC_DROPPED))
  ∧ (∀ (h : HostSide) (e : Env) (c kind : Nat) (pay : List Byte), h.traceOn kind = true →
    (bit (h.get2 Reg.TRC_CORES_LO Reg.TRC_CORES_HI) c = true → (h.traceCore e c kind pay).gauge.due = h.gauge.due ++
      [(c / 8, e.tick, toLE 8 e.tick ++ toLE 1 (1 + 16 * kind) ++ toLE 1 c ++ toLE 1 0 ++ toLE 1 0 ++ (pay ++ List.replicate 20 0).take 20)])
    ∧ (bit (h.get2 Reg.TRC_CORES_LO Reg.TRC_CORES_HI) c = false → h.traceCore e c kind pay = h))
  ∧ (∀ (s : State) (b g off : Nat) (x : TraceBuf) (r : List Byte) (rest : List (List Byte)), s.running → b < 10 →
    s.host.on Reg.TRC_CTRL.EN = true → x = s.host.traceBuf b → x.recs = r :: rest → s.host.gauge.bucket ≠ 0 → s.host.hbmUp = true →
    g = s.host.get Reg.TRC_GROUP → off = s.host.get Reg.TRC_BASE * 2048 + s.host.get Reg.TRC_WR % s.host.traceSlots * 32 →
    (s.host.traceFree = 0 → ∃ t, exec (.traceWrite b) s = .next t ∧ bit (t.host.get Reg.GAUGE_INT_STATUS) 1 = true
      ∧ s.regsOnly t [Reg.GAUGE_INT_STATUS.addr])
    ∧ (s.settled → s.host.traceFree ≠ 0 → (∃ n ∈ traceTables b g, (s.host.arb n).traced = 0) → exec (.traceWrite b) s = .next s)
    ∧ (2 ≤ s.host.traceFree → (∀ n ∈ traceTables b g, (s.host.arb n).traced ≠ 0) → ∃ t, exec (.traceWrite b) s = .next t
      ∧ t.host.get Reg.TRC_WR = (s.host.get Reg.TRC_WR + min 2 x.recs.length) % 2 ^ 32
      ∧ t.host.gauge.bucket = s.host.gauge.bucket - 1
      ∧ (x.dropped = 0 → t.host.traceBuf b = { x with recs := x.recs.drop 2 })
      ∧ (x.dropped ≠ 0 → x.recs.length ≤ 256 → (t.host.traceBuf b).dropped = 0
        ∧ (t.host.traceBuf b).recs = x.recs.drop 2 ++ [traceBytes s.tick.toNat 15 b 0 (toLE 4 x.dropped ++ toLE 8 x.dropTick)]
        ∧ bit (t.host.get Reg.GAUGE_INT_STATUS) 0 = true)
      ∧ (g < s.variant.groups → off + 32 ≤ 0xC0000000 → r.length = 32 → (t.host.hbmOf g).read off 32 = r)
      ∧ t.host.mem = s.host.mem ∧ ∀ g', g' ≠ g → t.host.hbmOf g' = s.host.hbmOf g'))
  ∧ (∀ s : State, s.up → ∃ t, exec .traceBucketRefill s = .next t
      ∧ t.host.gauge = { s.host.gauge with bucket := min 64 (s.host.gauge.bucket + max 1 (s.host.get Reg.TRC_RATE)) }
      ∧ s.changes t (fun g => { g with gauge := s.host.gauge }) [])
  ∧ (∀ (s : State) (first n : Nat), s.up → s.host.on Reg.TRC_SAMPLE.US = true → s.host.traceOn 6 = true →
    first = s.host.get Reg.TRC_SAMPLE.FIRST → n = s.host.get Reg.TRC_SAMPLE.NUM_M1 + 1 → first + n ≤ 256 →
    (s.host.traceBuf 8).dropped = 0 → (s.host.traceBuf 8).recs.length + n ≤ 256 →
    ∃ t, exec .traceSampleTimer s = .next t
      ∧ (t.host.traceBuf 8).recs = (s.host.traceBuf 8).recs ++ (List.range n).map (fun j => traceBytes s.tick.toNat 6 0 0
          (toLE 4 (first + j) ++ toLE 6 (s.host.get2 (Reg.GCNT_VALUE_LO (first + j)) (Reg.GCNT_VALUE_HI (first + j)))))
      ∧ s.changes t (fun g => { g with gauge := s.host.gauge }) [])
  ∧ (∀ (s : State) (v : Word), s.open_ → s.host.traceOn 9 = true → (s.host.traceBuf 8).dropped = 0 →
    (s.host.traceBuf 8).recs.length < 256 →
    ∃ t, exec (.trcMark v) s = .next t
      ∧ (t.host.traceBuf 8).recs = (s.host.traceBuf 8).recs ++ [traceBytes s.tick.toNat 9 0 0 (toLE 4 v.toNat)]
      ∧ s.changes t (fun g => { g with gauge := s.host.gauge }) [])
  ∧ (∀ (s : State) (p n : Nat), s.up → p < s.variant.ports → s.host.on Reg.TRC_IFL.PERIOD = true → s.host.on Reg.TRC_CTRL.EN = true →
    bit (s.host.get Reg.TRC_IFL.PORTS) p = true → s.host.portState p = 3 → (s.host.port p).maySend 2 = true →
    (s.host.port p).txq = [] → s.host.flitOut p 0 = 0 → n = s.host.gauge.evSeq.get (fun _ => 0) p → n < 2 ^ 32 →
    ∃ t, exec (.iflEventSend p) s = .next t ∧ t.host.gauge.evSeq.get (fun _ => 0) p = (n + 1) % 2 ^ 32
      ∧ ∀ f, f = (t.host.port p).lastTx → flitType f = 5 ∧ flitVc f = 2 ∧ flitPayload f % 2 ^ 32 = n
        ∧ flitPayload f / 2 ^ 32 % 2 ^ 64 = s.tick.toNat
        ∧ flitPayload f / 2 ^ 96 % 2 ^ 64 = s.host.get2 Reg.DET_BOOT_ID_LO Reg.DET_BOOT_ID_HI
        ∧ flitPayload f / 2 ^ 160 % 8 = p)

/-- R298, R422 to R425, R427, R433: host-side resets. What causes that meet do, and Bus Master Enable after any of them, is log entry 57
(DEDUCED). -/
def Obligations.HostResets : Prop :=
  (∀ (s : State) (a : Nat) (bs : List Byte), a + bs.length ≤ flashSize →
    ∃ t, exec (.resetPower [(a, bs)]) s = .next t ∧ s.resetFor t 1 ∧ t.host.get Reg.CLK_LOL_COUNT = 0
      ∧ t.host.mgmt.flash = fWrite s.host.mgmt.flash a bs)
  ∧ (∀ s : State, ∃ t, exec (.resetPower []) s = .next t ∧ s.resetFor t 1 ∧ t.host.mgmt.flash = s.host.mgmt.flash)
  ∧ (∀ s : State, (∃ t, exec .resetPin s = .next t ∧ s.resetFor t 2 ∧ s.warm t ∧ t.host.get Reg.CLK_LOL_COUNT = s.host.get Reg.CLK_LOL_COUNT)
    ∧ (∃ t, exec .resetPerst s = .next t ∧ s.resetFor t 3 ∧ s.warm t ∧ t.host.get Reg.CLK_LOL_COUNT = s.host.get Reg.CLK_LOL_COUNT)
    ∧ (∃ t, exec .rootClockLost s = .next t ∧ s.resetFor t 5 ∧ s.warm t ∧ t.host.counted s.host Reg.CLK_LOL_COUNT))
  ∧ (∀ s : State, (s.open_ → ∃ t, exec .flr s = .next t ∧ s.resetFor t 4 ∧ s.warm t
        ∧ t.host.get Reg.CLK_LOL_COUNT = s.host.get Reg.CLK_LOL_COUNT)
    ∧ (s.host.down = true → s.sameReset = true → s.host.pm.resetReady = true → ∃ t, exec .flr s = .next t ∧ s.resetFor t 4 ∧ s.warm t)
    ∧ (¬ s.open_ → (s.host.down = false ∨ s.sameReset = false ∨ s.host.pm.resetReady = false) → exec .flr s = .next s))
  ∧ (∀ s : State, (s.up → s.host.on Reg.CLK_WDOG.EN = true → ∃ t, exec .wdogExpire s = .next t ∧ s.resetFor t 6 ∧ s.warm t
        ∧ t.host.get Reg.CLK_LOL_COUNT = s.host.get Reg.CLK_LOL_COUNT)
    ∧ (s.host.down = true → s.sameReset = true → s.host.pm.resetWdog = true → ∃ t, exec .wdogExpire s = .next t ∧ s.resetFor t 6 ∧ s.warm t)
    ∧ (s.host.on Reg.CLK_WDOG.EN = false → (s.host.down = false ∨ s.sameReset = false ∨ s.host.pm.resetWdog = false) →
        exec .wdogExpire s = .next s))
  ∧ (∀ (s : State) (v : Word), (s.open_ → v.getLsbD 0 = true → v.toNat / 2 ^ 16 = 0x4B37 →
        ∃ t, exec (.clkRstCmd v) s = .next t ∧ s.resetFor t 7 ∧ s.warm t ∧ t.host.get Reg.CLK_LOL_COUNT = s.host.get Reg.CLK_LOL_COUNT)
    ∧ (s.host.down = true → s.sameReset = true → s.host.pm.resetReady = true → v.getLsbD 0 = true → v.toNat / 2 ^ 16 = 0x4B37 →
        ∃ t, exec (.clkRstCmd v) s = .next t ∧ s.resetFor t 7 ∧ s.warm t)
    ∧ ((v.getLsbD 0 = false ∨ v.toNat / 2 ^ 16 ≠ 0x4B37) → exec (.clkRstCmd v) s = .next s))
  ∧ (∀ s : State, (∃ t, exec .resetPerst s = .next t ∧ t.host.pcieLink = .off ∧ t.host.dbg = {})
    ∧ (∃ t, exec .rootClockLost s = .next t ∧ t.host.pcieLink = s.host.pcieLink
      ∧ t.host.dbg = { ir := s.host.dbg.ir, scan := s.host.dbg.scan }))
  ∧ (∀ s : State, (s.host.down = true → ∃ t, exec .hostResetRelease s = .next t ∧ t.tick = 0#64 ∧ t.host.down = false
        ∧ t.pending = s.pending ∧ t.field = s.field ∧ t.host.noPower = false
        ∧ t.host.pcieLink = (if s.host.pcieLink = .off then .detect else s.host.pcieLink) ∧ t.host.get Reg.CLK_STATUS.HBM0_LOCK = 1
        ∧ t.host.get Reg.CLK_STATUS.HBM1_LOCK = b2n (s.variant.stacks == 2) ∧ t.host.get Reg.CLK_STATUS.ETH_LOCK = 1
        ∧ ∀ a, a ≠ Reg.CLK_STATUS.HBM0_LOCK.addr → t.host.word a = s.host.word a)
    ∧ (s.up → exec .hostResetRelease s = .next s))

/-- R19, R211, R427, R428, R430, R433, R466, R468: start-up, the clock monitor and the debug port; R446, R140: self-test after RESUME. What
the cores hold after it, frames, banks and tokens empty and SRAM zero, is log entry 52 (DEDUCED). -/
def Obligations.StartUpAndDebug : Prop :=
  (∀ s : State, s.up → s.host.pm.resuming = false → s.host.tested = false → s.host.insp = ({} : Inspect) →
    s.host.get Reg.DET_CLU_STATE.HALTED = 0 →
    (∃ t, exec (.selfTestDone [] []) s = .next t ∧ t.host.tested = true ∧ t.host.insp.fenced = []
      ∧ (∀ c, c < 64 → t.host.siteOf c = some (9 * (c / 8) + c % 8))
      ∧ (s.host.get Reg.CLK_BOOT_STAGE = 1 → t.host.get Reg.CLK_BOOT_STAGE = 2))
    ∧ ∀ x, x < 72 → ∃ t, exec (.selfTestDone [x] []) s = .next t ∧ t.host.tested = true ∧ t.fencedFor x 1
      ∧ t.host.get Reg.DET_FENCE_COUNT = s.host.get Reg.DET_FENCE_COUNT
      ∧ ∀ c, c < 64 → t.host.siteOf c ≠ some x)
  ∧ (∀ s : State, s.up → s.host.pm.resuming = true → ∃ t, exec (.selfTestDone [] []) s = .next t ∧ t.host.pm.resuming = false
      ∧ t.host.pm.dieOff = false ∧ (∀ k, k < 8 → t.host.asleep k = false)
      ∧ ∀ site, site < 72 → s.host.coreState site ≠ 6 → t.host.coreState site = 0 ∧ (t.host.core site).spad = ({} : Store)
        ∧ (t.host.core site).frames = [] ∧ (t.host.core site).bank0 = ({} : AccBank) ∧ (t.host.core site).bank1 = ({} : AccBank)
        ∧ ∀ tok, tok < 16 → t.host.token site tok = 0)
  ∧ (∀ s : State, s.up → s.host.mgmt.running = none →
    (s.host.get Reg.CLK_BOOT_STAGE = 1 ∨ s.host.get Reg.CLK_BOOT_STAGE = 2) →
    ∃ t, exec .bootCandidateSelect s = .next t
      ∧ t.host.get2 Reg.DET_BOOT_ID_LO Reg.DET_BOOT_ID_HI = (Config.bootId s.host.boots).toNat
      ∧ (t.host.mgmt.running = none → t.host.get Reg.CLK_BOOT_STAGE = 15)
      ∧ ∀ n, t.host.mgmt.running = some n → t.host.get Reg.CLK_BOOT_STAGE = 3 ∧ (n < 3 → t.host.get Reg.MGMT_STATUS.BOOT_SRC = n))
  ∧ (∀ (s : State) (n : Nat), s.up → s.host.mgmt.running = some n →
    (∀ p, s.host.get Reg.CLK_BOOT_STAGE = 3 → partFailing s.host.mgmt.flash n = some p →
      (n < 2 → ∃ t, exec .firmwareStarted s = .next t ∧ s.resetFor t 7 ∧ t.host.mgmt.partFail.isSome = true)
      ∧ (2 ≤ n → ∃ t, exec .firmwareStarted s = .next t ∧ t.host.get Reg.CLK_BOOT_STAGE = 15 ∧ t.host.get Reg.MGMT_BOOT_FAIL.REC = 8
        ∧ s.regsOnly t [Reg.CLK_BOOT_STAGE.addr, Reg.MGMT_BOOT_FAIL.REC.addr]))
    ∧ (s.host.get Reg.CLK_BOOT_STAGE = 3 → partFailing s.host.mgmt.flash n = none →
      ∃ t, exec .firmwareStarted s = .next t ∧ t.host.get Reg.CLK_BOOT_STAGE = 4
        ∧ { t with host := { t.host with regs := s.host.regs } } = s ∧ ∀ a, a ≠ Reg.CLK_BOOT_STAGE.addr → t.host.word a = s.host.word a)
    ∧ (∀ p : Nat × Nat × Nat × List Byte, (s.host.get Reg.CLK_BOOT_STAGE = 4 ∨ s.host.get Reg.CLK_BOOT_STAGE = 5) →
      (manParts (imageHeader s.host.mgmt.flash n)).find? (fun p => p.1 == 3) = some p →
      (s.field.ctl = 0 → ∃ t, exec .firmwareStarted s = .next t ∧ t.host.get Reg.CLK_BOOT_STAGE = 5
        ∧ { t with host := { t.host with regs := s.host.regs } } = s ∧ ∀ a, a ≠ Reg.CLK_BOOT_STAGE.addr → t.host.word a = s.host.word a)
      ∧ (s.field.ctl ≠ 0 → s.field.withFirmware (fRead s.host.mgmt.flash (slotBase n + p.2.1) p.2.2.1) p.2.2.2 = none →
        ∃ t, exec .firmwareStarted s = .next t ∧ t.host.get Reg.CLK_BOOT_STAGE = 15
          ∧ { t with host := { t.host with regs := s.host.regs } } = s ∧ ∀ a, a ≠ Reg.CLK_BOOT_STAGE.addr → t.host.word a = s.host.word a)
      ∧ (∀ d : FieldDie, s.field.ctl ≠ 0 → s.field.withFirmware (fRead s.host.mgmt.flash (slotBase n + p.2.1) p.2.2.1) p.2.2.2 = some d →
        ∃ t, exec .firmwareStarted s = .next t ∧ t.host.get Reg.CLK_BOOT_STAGE = 6 ∧ t.host.get Reg.CLK_WDOG.EN = 1
          ∧ t.field = d.applySettings t.host ∧ t.pending = s.pending ∧ t.tick = s.tick)))
  ∧ (∀ s : State, s.up → s.host.get Reg.CLK_BOOT_STAGE = 6 → s.host.tested = true → s.host.on Reg.MEM_STATUS.INIT_DONE = true →
    (∀ p, p < s.variant.ports → (s.host.port p).txOn = true) → s.host.hdw.building = none →
    ∃ t, exec .deviceReady s = .next t ∧ t.host.ready = true ∧ t.host.get Reg.CLK_BOOT_STAGE = 7 ∧ t.host.pcieLink = .up
      ∧ t.host.get2 Reg.CLK_READY_TICK_LO Reg.CLK_READY_TICK_HI = s.tick.toNat
      ∧ s.changes t (fun g => { g with pcieLink := s.host.pcieLink })
          [Reg.DEV_STATUS.READY.addr, Reg.CLK_READY_TICK_LO.addr, Reg.CLK_READY_TICK_HI.addr, Reg.CLK_BOOT_STAGE.addr])
  ∧ (∀ (s : State) (v : Word), s.open_ → ∃ t, exec (.clkMonGo v) s = .next t ∧ t.host.get Reg.CLK_MON_CTRL.SEL = v.toNat % 16
      ∧ t.host.get Reg.CLK_MON_STATUS.DONE = 0 ∧ t.host.dbg = { s.host.dbg with mon := true }
      ∧ s.changes t (fun g => { g with dbg := s.host.dbg }) [Reg.CLK_MON_CTRL.SEL.addr, Reg.CLK_MON_STATUS.DONE.addr])
  ∧ (∀ (s : State) (n : Nat), s.up → s.host.dbg.mon = true → n < 2 ^ 32 → ∃ t, exec (.clkMonDone n) s = .next t
      ∧ t.host.get Reg.CLK_MON_STATUS.DONE = 1
      ∧ t.host.get Reg.CLK_MON_COUNT = monCount s.variant (s.host.get Reg.CLK_MON_CTRL.SEL) n
      ∧ t.host.dbg = { s.host.dbg with mon := false }
      ∧ s.changes t (fun g => { g with dbg := s.host.dbg }) [Reg.CLK_MON_COUNT.addr, Reg.CLK_MON_STATUS.DONE.addr])
  ∧ (∀ s : State, ∃ t, exec .tapReset s = .next t ∧ t.host.dbg = { s.host.dbg with ir := 0xFF }
      ∧ { t with host := { t.host with dbg := s.host.dbg } } = s)
  ∧ (∀ (s : State) (op v ir : Nat), s.up → op < 256 → (op ∈ [0x00, 0x01, 0x20, 0x21, 0x22, 0x23] → ir = op) →
    (op ∉ [0x00, 0x01, 0x20, 0x21, 0x22, 0x23] → ir = 0xFF) → (ir ≠ 0x20 ∨ s.host.on Reg.CLK_DBG_CTRL.EN = false ∨ v % 4 = 0 ∨ v % 4 = 3) →
    ∃ t, exec (.dbgCmd op v) s = .next t ∧ t.host.dbg = { s.host.dbg with ir := ir, scan := if op < 2 then v else s.host.dbg.scan }
      ∧ s.changes t (fun g => { g with dbg := s.host.dbg }) [])
  ∧ (∀ (s : State) (v : Nat), s.up → s.host.on Reg.CLK_DBG_CTRL.EN = false →
    ∃ t, exec (.dbgAddr v) s = .next t ∧ t.host.dbg = { s.host.dbg with ir := 0x22 }
      ∧ s.changes t (fun g => { g with dbg := s.host.dbg }) [])
  ∧ (∀ (s : State) (v : Nat), s.up → s.host.on Reg.CLK_DBG_CTRL.EN = true →
    (v % 4 = 1 → s.host.get Reg.GSTOP_STATUS.STATE = 0 → ∃ t, exec (.dbgCmd 0x20 v) s = .next t ∧ t.host.get Reg.GSTOP_STATUS.STATE = 1
      ∧ t.host.get Reg.GSTOP_STATUS.SOURCE = 2)
    ∧ (v % 4 = 2 → s.host.get Reg.GSTOP_STATUS.STATE = 2 → s.host.get Reg.GSTOP_STATUS.SOURCE = 2 →
      ∃ t, exec (.dbgCmd 0x20 v) s = .next t ∧ t.host.get Reg.GSTOP_STATUS.STATE = 3)
    ∧ ((s.host.dbg.busy = true ∨ dbgBad s.env v = true) → ∃ t, exec (.dbgAddr v) s = .next t
      ∧ t.host.dbg = { s.host.dbg with ir := 0x22, err := true } ∧ s.changes t (fun g => { g with dbg := s.host.dbg }) [])
    ∧ (s.host.dbg.busy = false → dbgBad s.env v = false → dbgProxied v = false → ∃ t, exec (.dbgAddr v) s = .next t
      ∧ t.host.dbg = { s.host.dbg with ir := 0x22, err := false, busy := true, addr := v }
      ∧ s.changes t (fun g => { g with dbg := s.host.dbg }) [])
    ∧ (∃ t, exec (.dbgData v) s = .next t ∧ t.host.dbg = { s.host.dbg with ir := 0x23, stage := BitVec.ofNat 32 v }
      ∧ s.changes t (fun g => { g with dbg := s.host.dbg }) []))
  ∧ (∀ (s : State) (v a : Nat), s.up → s.host.dbg.busy = true → v = s.host.dbg.addr → a = dbgAddress v →
    (dbgTarget v = 1 → s.host.hbmUp = true → ∃ t, exec .dbgAccessDone s = .next t
      ∧ t.host.dbg = { s.host.dbg with busy := false, data := (s.host.hbmOf (a / 2 ^ 32)).read (a % 2 ^ 32) 64 }
      ∧ { t with host := { t.host with dbg := s.host.dbg } } = s)
    ∧ (dbgTarget v = 3 → s.host.asleep (dbgUnit v / 9) = false → ∃ t, exec .dbgAccessDone s = .next t
      ∧ t.host.dbg = { s.host.dbg with busy := false, data := (s.host.core (dbgUnit v)).spad.read a 64 }
      ∧ { t with host := { t.host with dbg := s.host.dbg } } = s)
    ∧ (dbgTarget v = 0 → dbgWrite v = true → ∃ t, exec .dbgAccessDone s = .next t ∧ t.host.dbg.busy = false
      ∧ ∀ u : State, u = s.busWrite a s.host.dbg.stage → { t with host := { t.host with dbg := u.host.dbg } } = u)
    ∧ (dbgTarget v = 0 → dbgWrite v = false → a % 4 = 0 → 0x40 ≤ a → a < 0x44 → s.host.ready = true → ∃ t, exec .dbgAccessDone s = .next t
      ∧ t.host.dbg.busy = false ∧ t.host.readData = s.host.word 0x40 ∧ t.host.dbg.data.take 4 = toLE 4 (s.host.word 0x40).toNat))

/-- R434 to R440: the power states of the clusters. That leaving REST puts the other clusters in DOZE, and that AUTO written 0 wakes them, is
log entry 51 (DEDUCED). -/
def Obligations.PowerStates : Prop :=
  (∀ (s : State) (k st : Nat), s.running → k < 8 → s.host.on Reg.PM_CTRL.AUTO = true → s.host.pm.dieOff = false →
    s.host.cluPower k < st → s.host.hasWork k = false → k ∉ s.host.pm.waking →
    ((st = 1 ∨ st = 2) → s.host.dozeOk k st = true → ∃ t, exec (.clusterSleepEntry k st) s = .next t ∧ t.host.cluPower k = st
      ∧ (∀ i, i < 8 → i ≠ k → t.host.cluPower i = s.host.cluPower i)
      ∧ t.host.get Reg.DET_CSEQ = (s.host.get Reg.DET_CSEQ + b2n (st == 2)) % 2 ^ 32
      ∧ s.regsOnly t [0x20018, Reg.PM_STATUS.DEVICE.addr, Reg.DET_CSEQ.addr])
    ∧ (st = 3 → (∀ i, i < 8 → s.host.restOk i = true ∧ s.host.hasWork i = false ∧ i ∉ s.host.pm.waking) →
      ∃ t, exec (.clusterSleepEntry k 3) s = .next t ∧ (∀ i, i < 8 → t.host.cluPower i = 3) ∧ t.host.get Reg.PM_STATUS.DEVICE = 3
        ∧ s.regsOnly t [0x20018, Reg.PM_STATUS.DEVICE.addr, Reg.DET_CSEQ.addr]))
  ∧ (∀ (s : State) (k st : Nat), s.up → s.settled → s.host.hasWork k = true → exec (.clusterSleepEntry k st) s = .next s)
  ∧ (∀ (s : State) (k : Nat), s.running → k < 8 → s.host.pm.dieOff = false → s.host.cluPower k ≠ 0 →
    ∃ t, exec (.clusterWake k) s = .next t ∧ k ∈ t.host.pm.waking ∧ s.changes t (fun g => { g with pm := s.host.pm }) [])
  ∧ (∀ (s : State) (k : Nat), s.running → k < 8 → s.host.pm.dieOff = false → k ∈ s.host.pm.waking →
    ∃ t u : State, exec (.clusterWakeDone k) s = .next t
      ∧ t = (s.host.pm.writes.filter fun x => x.1 == k).foldl (fun s x => s.busWrite x.2.1 x.2.2) u
      ∧ u.host.pm.writes = (s.host.pm.writes.filter fun x => x.1 != k) ∧ s.hostOnly u ∧ u.host.cluPower k = 0
      ∧ k ∉ u.host.pm.waking
      ∧ (∀ i, i < 8 → i ≠ k → u.host.cluPower i
          = if s.host.cluPower k = 3 ∧ s.host.cluPower i = 3 then 2 else s.host.cluPower i)
      ∧ (s.host.cluPower k < 2 → u.host.get Reg.DET_CSEQ = s.host.get Reg.DET_CSEQ ∧ u.host.get Reg.PM_WAKES = s.host.get Reg.PM_WAKES)
      ∧ (2 ≤ s.host.cluPower k → u.host.get Reg.DET_CSEQ = (s.host.get Reg.DET_CSEQ + 1) % 2 ^ 32
        ∧ u.host.counted s.host Reg.PM_WAKES)
      ∧ (s.host.cluPower k ≠ 3 → u.host.lstore = s.host.lstore ∧ u.host.cores = s.host.cores)
      ∧ (s.host.cluPower k = 3 → u.host.lstore = [] ∧ ∀ site, site < 72 → (u.host.core site).spad = ({} : Store)))
  ∧ (∀ (s : State) (v : Word) (k : Nat), s.open_ → s.host.pm.dieOff = false → (Reg.PM_CTRL.AUTO).ofWord v = 0 → k < 8 →
    s.host.cluPower k ≠ 0 → ∃ t, exec (.registerWrite 0x20000 v) s = .next t ∧ t.host.on Reg.PM_CTRL.AUTO = false ∧ k ∈ t.host.pm.waking)
  ∧ (∀ (s : State) (q : Nat) (d : Started), s.up → s.host.current q 0x42 = some d →
    ∃ t, exec (.powerTol q) s = .next t ∧ t.ended q d 0 0 0 ∧ t.host.get Reg.PM_TOL_DATA = d.fld 8 4 ∧ t.host.get Reg.PM_TOL_CONTROL = d.fld 12 4
      ∧ t.host.get Reg.PM_TOL_MGMT = d.fld 16 4
      ∧ (∀ k, k < 8 → s.host.pm.dieOff = false → (s.host.partOf k).isSome = true → d.fld 8 4 < exitLatency (s.host.cluPower k) →
        k ∈ t.host.pm.waking)
      ∧ s.changes t (fun g => { g with pm := s.host.pm, sq := s.host.sq })
          [Reg.PM_TOL_DATA.addr, Reg.PM_TOL_CONTROL.addr, Reg.PM_TOL_MGMT.addr, Reg.PM_WAKES.addr])

/-- R443 to R446, R448, R449, R452, R454, R455, R495, R501, R502: throttling and faults. The model's readings, DEDUCED: a trip during a
resume is a trip again, RESUME releases PM_TRIP_N at once, a rail starts at 800 mV and an under-voltage ends with the write that lifts the
rail (log entry 52); the cap is judged before its adjustment and a temperature turns critical once for each crossing (log entry 51). -/
def Obligations.PowerFaults : Prop :=
  (∀ (s : State) (est mw cap f : Nat), s.up → mw = est + (s.host.pm.avsCur.get (fun _ => 0) 0 * s.host.pm.avsReq.get (fun _ => 800) 0 / 100
      + s.host.pm.avsCur.get (fun _ => 0) 1 * s.host.pm.avsReq.get (fun _ => 800) 1 / 100) → mw < 2 ^ 32 → cap = s.host.get Reg.PM_CAP_W * 1000 → f = s.host.get Reg.PM_THROTTLE.F_CAP →
    (cap ≠ 0 → cap < mw → ∃ t, exec (.powerCapWindow est) s = .next t ∧ t.host.get Reg.PM_POWER_MW = mw
      ∧ t.host.get Reg.PM_THROTTLE.F_CAP = max 16 (f - 16)
      ∧ t.host.get Reg.PM_THROTTLE.F = min (max 16 (f - 16)) (s.host.get Reg.PM_THROTTLE_T.F_THERM)
      ∧ ((f = 16 ∨ s.host.freeRunning = false) → t.host.get Reg.PM_STATUS.CAP_CLAMP = 1 ∧ t.host.counted s.host Reg.PM_CLAMP_CAP
        ∧ bit (t.host.get Reg.PM_INT_STATUS) 5 = true))
    ∧ (cap ≠ 0 → mw + 2000 < cap → ∃ t, exec (.powerCapWindow est) s = .next t ∧ t.host.get Reg.PM_POWER_MW = mw
      ∧ t.host.get Reg.PM_THROTTLE.F_CAP = min 256 (f + 16)
      ∧ t.host.get Reg.PM_THROTTLE.F = min (min 256 (f + 16)) (s.host.get Reg.PM_THROTTLE_T.F_THERM)
      ∧ t.host.get Reg.PM_STATUS.THROTTLE = b2n (decide (t.host.get Reg.PM_THROTTLE.F < 256))
      ∧ s.regsOnly t [Reg.PM_POWER_MW.addr, Reg.PM_THROTTLE.F.addr, Reg.PM_STATUS.THROTTLE.addr])
    ∧ ((cap = 0 ∨ (mw ≤ cap ∧ cap ≤ mw + 2000)) → ∃ t, exec (.powerCapWindow est) s = .next t ∧ t.host.get Reg.PM_POWER_MW = mw
      ∧ s.regsOnly t [Reg.PM_POWER_MW.addr]))
  ∧ (∀ s : State, s.up → (128 ≤ s.host.get Reg.PM_VOLT_MARGIN → ∃ t, exec .voltClampWindow s = .next t
        ∧ t.host.get Reg.PM_STATUS.VOLT_CLAMP = 1 ∧ t.host.counted s.host Reg.PM_CLAMP_VOLT ∧ bit (t.host.get Reg.PM_INT_STATUS) 5 = true)
    ∧ (s.settled → s.host.get Reg.PM_VOLT_MARGIN < 128 → exec .voltClampWindow s = .next s))
  ∧ (∀ (s : State) (c0 c1 i0 i1 m0 m1 die hbm : Nat), s.up → s.variant.ioDies = 2 → s.variant.stacks = 2 → c0 < 256 → c1 < 256 →
    i0 < 256 → i1 < 256 → m0 < 256 → m1 < 256 → die = max (max c0 c1) (max i0 i1) → hbm = max m0 m1 →
    ∃ t, exec (.thermalSample c0 c1 i0 i1 m0 m1) s = .next t ∧ t.host.get Reg.PM_TEMP.CD0 = c0 ∧ t.host.get Reg.PM_TEMP.CD1 = c1
      ∧ t.host.get Reg.PM_TEMP.IO0 = i0 ∧ t.host.get Reg.PM_TEMP.IO1 = i1
      ∧ t.host.get Reg.PM_TEMP_MAX = max die (s.host.get Reg.PM_TEMP_MAX) ∧ t.host.pm.hotDie = die ∧ t.host.pm.hotHbm = hbm
      ∧ t.host.pm.tripNow = (decide (120 ≤ die) || decide (105 ≤ hbm))
      ∧ (s.host.pm.hotDie < 110 → s.host.pm.hotHbm < 95 → (110 ≤ die ∨ 95 ≤ hbm) → t.host.get Reg.PM_STATUS.THERM_CRIT = 1
        ∧ t.host.get Reg.PM_THROTTLE_T.F_THERM = 16 ∧ bit (t.host.get Reg.PM_INT_STATUS) 0 = true
        ∧ (s.host.insp.armed.isSome = true → t.host.insp.commits = s.host.insp.commits ++ [.disarm none]))
      ∧ ((die < 110 ∧ hbm < 95) → s.changes t (fun g => { g with pm := s.host.pm }) [Reg.PM_TEMP.CD0.addr, Reg.PM_TEMP_MAX.addr]))
  ∧ (∀ (s : State) (tj f : Nat), s.up → tj = s.host.get Reg.PM_TJ_THROTTLE → f = s.host.get Reg.PM_THROTTLE_T.F_THERM →
    ((tj ≤ s.host.pm.hotDie ∨ 85 ≤ s.host.pm.hotHbm) → ∃ t, exec .thermalThrottleStep s = .next t
      ∧ t.host.get Reg.PM_THROTTLE_T.F_THERM = max 16 (f - 32)
      ∧ t.host.get Reg.PM_THROTTLE.F = min (s.host.get Reg.PM_THROTTLE.F_CAP) (max 16 (f - 32))
      ∧ s.regsOnly t [Reg.PM_THROTTLE_T.F_THERM.addr, Reg.PM_THROTTLE.F.addr, Reg.PM_STATUS.THROTTLE.addr])
    ∧ (s.host.pm.hotDie + 3 ≤ tj → s.host.pm.hotHbm + 3 ≤ 85 → ∃ t, exec .thermalThrottleStep s = .next t
      ∧ t.host.get Reg.PM_THROTTLE_T.F_THERM = min 256 (f + 16)
      ∧ t.host.get Reg.PM_THROTTLE.F = min (s.host.get Reg.PM_THROTTLE.F_CAP) (min 256 (f + 16))
      ∧ s.regsOnly t [Reg.PM_THROTTLE_T.F_THERM.addr, Reg.PM_THROTTLE.F.addr, Reg.PM_STATUS.THROTTLE.addr]))
  ∧ (∀ (s : State) (volt : Bool), s.up → s.jobsOk → (s.host.pm.dieOff = false ∨ s.host.pm.resuming = true) → (volt = true ∨ s.host.pm.tripNow = true) →
    ∃ t, exec (.computeDieTrip volt) s = .next t ∧ t.host.pm.dieOff = true ∧ t.host.get Reg.PM_STATUS.TRIP = 1
      ∧ bit (t.host.get Reg.PM_INT_STATUS) 1 = true ∧ t.host.insp.armed = none ∧ t.host.tripPin = .low
      ∧ t.host.pm.underVolt = (volt || s.host.pm.underVolt)
      ∧ (∀ slot r b, .recipe slot r b ∉ t.host.insp.commits ∧ .disarm b ∉ t.host.insp.commits ∧ .rearm ∉ t.host.insp.commits)
      ∧ (∀ q d, (.disarm (some (q, d.idx)) ∈ s.host.insp.commits ∨ ∃ slot r, .recipe slot r (some (q, d.idx)) ∈ s.host.insp.commits) →
          d ∈ s.host.started q → d.fin = none → t.ended q d 3 0 0)
      ∧ (∀ i ∈ t.host.insp.items, i.judged = none → i.released = false → i.forced ≠ 0) ∧ ∀ j ∈ t.host.comp.jobs, j.live = false)
  ∧ (∀ s : State, s.up → s.settled → s.host.pm.tripNow = false → exec (.computeDieTrip false) s = .next s)
  ∧ (∀ s : State, s.open_ → s.host.pm.dieOff = true →
    (s.host.pm.tripNow = false → s.host.pm.underVolt = false → ∃ t, exec .pmResume s = .next t ∧ t.host.pm = { s.host.pm with resuming := true } ∧ t.host.tripPin = .highZ
      ∧ s.changes t (fun g => { g with pm := s.host.pm }) [])
    ∧ (s.settled → (s.host.pm.tripNow = true ∨ s.host.pm.underVolt = true) → exec .pmResume s = .next s))
  ∧ (∀ (s : State) (n floor cur tgt new : Nat), s.up → n < 2 → s.host.get (Reg.DET_UNITMAP 0) ≠ 0 →
    floor < 4096 → cur = s.host.pm.avsReq.get (fun _ => 800) n → cur < 4000 → tgt = s.host.avsTarget floor →
    new = (if cur < tgt then min tgt (cur + 10) else max tgt (cur - 10)) →
    (∃ t, exec (.avsVoltageWrite n floor true) s = .next t ∧ t.host.pm.avsReq.get (fun _ => 800) n = new
      ∧ t.host.get (if n = 0 then Reg.PM_VFLOOR.CD0 else Reg.PM_VFLOOR.CD1) = floor
      ∧ t.host.get (if n = 0 then Reg.PM_VOLT_NOW.CD0 else Reg.PM_VOLT_NOW.CD1) = new
      ∧ t.host.pm.underVolt = (s.host.pm.underVolt && (decide (t.host.pm.avsReq.get (fun _ => 800) 0 + 30 < t.host.get Reg.PM_VFLOOR.CD0)
          || decide (t.host.pm.avsReq.get (fun _ => 800) 1 + 30 < t.host.get Reg.PM_VFLOOR.CD1)))
      ∧ s.changes t (fun g => { g with pm := s.host.pm }) [Reg.PM_VFLOOR.CD0.addr, Reg.PM_VOLT_NOW.CD0.addr])
    ∧ (∃ t, exec (.avsVoltageWrite n floor false) s = .next t
      ∧ t.host.get (if n = 0 then Reg.PM_VFLOOR.CD0 else Reg.PM_VFLOOR.CD1) = floor ∧ s.regsOnly t [Reg.PM_VFLOOR.CD0.addr]))
  ∧ (∀ (s : State) (n v : Nat), s.up → n < 2 →
    (∃ t, exec (.avsCurrentRead n 0 v true) s = .next t ∧ t.host.pm = { s.host.pm with avsCur := s.host.pm.avsCur.put n v }
      ∧ s.changes t (fun g => { g with pm := s.host.pm }) [])
    ∧ (∃ t, exec (.avsCurrentRead n 1 v true) s = .next t ∧ t.host.pm = { s.host.pm with avsVolt := s.host.pm.avsVolt.put n v }
      ∧ s.changes t (fun g => { g with pm := s.host.pm }) [])
    ∧ (∃ t, exec (.avsCurrentRead n 2 v true) s = .next t ∧ t.host.pm = { s.host.pm with avsStatus := s.host.pm.avsStatus.put n v }
      ∧ s.changes t (fun g => { g with pm := s.host.pm }) [])
    ∧ (s.settled → ∀ frame, exec (.avsCurrentRead n frame v false) s = .next s))
  ∧ (∀ (s : State) (unit : Nat), s.running → (s.host.wedgeable unit = true → ∃ t, exec (.wedgeDetect unit) s = .next t
        ∧ t.host.get Reg.PM_STATUS.WEDGED = 1 ∧ t.host.get Reg.PM_WEDGE_UNIT = unit ∧ bit (t.host.get Reg.PM_INT_STATUS) 2 = true)
    ∧ (s.settled → s.host.wedgeable unit = false → exec (.wedgeDetect unit) s = .next s))
  ∧ (∀ (s : State) (lim : Nat), s.up → lim = s.host.get Reg.PM_UNDEC_LIMIT → ∃ t, exec .undecWindow s = .next t
      ∧ t.host.pm = { s.host.pm with undecWin := 0 } ∧ s.changes t (fun g => { g with pm := s.host.pm }) [Reg.PM_INT_STATUS.addr]
      ∧ t.host.get Reg.PM_INT_STATUS = (s.host.get Reg.PM_INT_STATUS ||| if lim ≠ 0 ∧ lim ≤ s.host.pm.undecWin then 16 else 0))
  ∧ (∀ (s : State) (code unit det : Nat), s.up → (code = 0x0502 ∨ code = 0x0503 ∨ code = 0x0505) →
    s.host.get Reg.PM_STATUS.FATAL = 0 → ∃ t, exec (.fatalError code unit det) s = .next t ∧ t.host.get Reg.PM_STATUS.FATAL = 1
      ∧ bit (t.host.get Reg.PM_INT_STATUS) 3 = true ∧ bit (t.host.get Reg.PM_INT_STATUS) 6 = true
      ∧ ((∀ n y, s.host.get Reg.PM_LOG_COUNT = n + 1 → s.host.pm.log.find (n % 256) = some y → y.tick = s.env.tick → y.code ≤ code) →
        t.host.get Reg.PM_LOG_LAST = code)
      ∧ (s.host.on Reg.PM_CTRL.FATAL_SAFE = true → t.host.get Reg.BAR_CTRL.HB_EN = 0)
      ∧ (s.host.on Reg.PM_CTRL.STOP_FATAL = true → s.host.get Reg.GSTOP_STATUS.STATE = 0 → t.host.get Reg.GSTOP_STATUS.STATE = 1
        ∧ t.host.get Reg.GSTOP_STATUS.SOURCE = 1))

/-- R459, R460, R474 to R478, R484, R485: firmware delivery. The order of refusals, INVALID 3 for LEN before all and else the lowest detail
first, detail 2 for a kept slot that is the running one, detail 7 for a header that cannot be read and the two events of RECOVERY_WRITE are
log entry 53 (DEDUCED). -/
def Obligations.FirmwareDelivery : Prop :=
  (∀ (f : Flash) (c : SlotCtl), c.active < 2 → c.stateA < 256 → c.stateB < 256 → c.boots < 256 → c.digA.length = 32 →
    c.digB.length = 32 → c.pcsA < 2 ^ 32 → c.pcsB < 2 ^ 32 → ∃ n, ctlOf (ctlPut f c) = { c with seq := n })
  ∧ (∀ (s : State) (q : Nat) (d : Started) (c : SlotCtl), s.mbox q d 0x10 → c = s.host.ctl →
    (d.fld 24 4 < 128 → ∀ ff, ∃ t, exec (.updateBegin q ff) s = .next t ∧ s.refused t q d 2 1)
    ∧ (128 ≤ d.fld 24 4 → s.host.idleKept = true → ∀ ff, ∃ t, exec (.updateBegin q ff) s = .next t ∧ s.refused t q d 2 2)
    ∧ (128 ≤ d.fld 24 4 → s.host.idleKept = false → ∃ t, exec (.updateBegin q true) s = .next t ∧ s.refused t q d 2 4)
    ∧ (128 ≤ d.fld 24 4 → s.host.idleKept = false → s.host.bme = true →
      ∃ t map, exec (.updateBegin q false) s = .next t ∧ t.host.mgmt = { s.host.mgmt with delivery := true }
        ∧ s.answered t q d (toLE 4 (c.state c.idle) ++ toLE 4 (c.pieces c.idle)
            ++ toLE 4 (c.pieces c.idle - heldCount s.host.mgmt.flash c.idle (c.pieces c.idle)) ++ toLE 4 0 ++ c.digest c.idle ++ map)
        ∧ map.length = 80 ∧ ∀ i, i < 640 →
          bit (map.getD (i / 8) 0#8).toNat (i % 8) = (decide (i < c.pieces c.idle) && pieceHeld s.host.mgmt.flash c.idle i)))
  ∧ (∀ (s : State) (q : Nat) (d : Started) (ff : Bool), s.up → s.host.oldestMbox = some (q, d) → d.opcode = 0x41 →
    (65536 < d.fld 16 4 → ∃ t, exec (.imagePiece q ff) s = .next t ∧ s.refused t q d 1 3)
    ∧ (d.fld 16 4 ≤ 65536 → s.host.mgmt.delivery = false → ∃ t, exec (.imagePiece q ff) s = .next t ∧ s.refused t q d 2 1)
    ∧ (d.fld 16 4 ≤ 65536 → s.host.mgmt.delivery = true → s.host.idleKept = true →
      ∃ t, exec (.imagePiece q ff) s = .next t ∧ s.refused t q d 2 2)
    ∧ (d.fld 16 4 ≤ 65536 → s.host.mgmt.delivery = true → s.host.idleKept = false → s.host.bme = true →
      s.host.readErr (d.fld 8 8) (d.fld 16 4) = true → ∃ t, exec (.imagePiece q ff) s = .next t ∧ s.refused t q d 10 1)
    ∧ (d.fld 16 4 ≤ 65536 → s.host.mgmt.delivery = true → s.host.idleKept = false → s.host.bme = true →
      s.host.readErr (d.fld 8 8) (d.fld 16 4) = false →
      (d.fld 20 4 = 0 → d.fld 16 4 < 8192 → ∃ t, exec (.imagePiece q ff) s = .next t ∧ t.ended q d 1 3 0 ∧ t.host.mgmt = s.host.mgmt)
      ∧ ∀ (c : SlotCtl) (n p : Nat) (m : List Byte), c = s.host.ctl → n = c.idle → p = d.fld 20 4 → p ≠ 0 → p < 640 →
        m = imageHeader s.host.mgmt.flash n →
        (c.state n ≠ 1 → c.state n ≠ 2 → ∃ t, exec (.imagePiece q ff) s = .next t ∧ t.ended q d 2 7 0 ∧ t.host.mgmt = s.host.mgmt)
        ∧ ((c.state n = 1 ∨ c.state n = 2) → m.take 8 = asciiOf "KM7MANF1" →
          ((c.pieces n ≤ p ∨ d.fld 16 4 ≠ min 65536 (manLen m - p * 65536)) →
            ∃ t, exec (.imagePiece q ff) s = .next t ∧ t.ended q d 1 3 0 ∧ t.host.mgmt = s.host.mgmt)
          ∧ (p < c.pieces n → d.fld 16 4 = min 65536 (manLen m - p * 65536) → pieceHeld s.host.mgmt.flash n p = true →
            ∃ t, exec (.imagePiece q ff) s = .next t ∧ t.ended q d 0 0 0 ∧ t.host.mgmt = s.host.mgmt)
          ∧ (p < c.pieces n → d.fld 16 4 = min 65536 (manLen m - p * 65536) → pieceHeld s.host.mgmt.flash n p = false →
            (∃ t, exec (.imagePiece q true) s = .next t ∧ t.ended q d 2 9 0 ∧ pieceHeld t.host.mgmt.flash n p = false)
            ∧ ∃ t, exec (.imagePiece q false) s = .next t ∧ t.ended q d 0 0 0 ∧ pieceHeld t.host.mgmt.flash n p = true
              ∧ fRead t.host.mgmt.flash (slotBase n + p * 0x10000) (d.fld 16 4) = s.host.hostRead (d.fld 8 8) (d.fld 16 4)
              ∧ t.host.mem = s.host.mem))))
  ∧ (∀ (s : State) (q : Nat) (d : Started) (c : SlotCtl) (n : Nat), s.mbox q d 0x11 → c = s.host.ctl → n = c.idle →
    ((c.state n = 1 ∨ c.state n = 2 ∨ c.state n = 6) →
      (∃ t, exec (.updateAbort q true) s = .next t ∧ s.refused t q d 2 4)
      ∧ ∃ t, exec (.updateAbort q false) s = .next t ∧ t.ended q d 0 0 0 ∧ t.host.mgmt.flash
        = fErase (ctlPut s.host.mgmt.flash ((c.setState n 0).setImage n (List.replicate 32 0#8) 0)) (bitmapBase n) 4096)
    ∧ (c.state n ≠ 1 → c.state n ≠ 2 → c.state n ≠ 6 → ∀ ff, ∃ t, exec (.updateAbort q ff) s = .next t ∧ s.refused t q d 2 2))
  ∧ (∀ (s : State) (q : Nat) (d : Started) (c : SlotCtl) (n : Nat), s.mbox q d 0x12 → c = s.host.ctl → n = c.idle → 4 ≤ d.fld 24 4 →
    (c.state n = 1 → ∀ ff, ∃ t, exec (.updateActivate q ff) s = .next t ∧ s.refused t q d 2 7)
    ∧ (c.state n ≠ 1 → c.state n ≠ 2 → ∀ ff, ∃ t, exec (.updateActivate q ff) s = .next t ∧ s.refused t q d 2 2)
    ∧ (c.state n = 2 → (∃ t, exec (.updateActivate q true) s = .next t ∧ s.refused t q d 2 4)
      ∧ (s.host.bme = true → partFailing s.host.mgmt.flash n = none →
        ∃ t, exec (.updateActivate q false) s = .next t ∧ s.answered t q d (toLE 4 0)
          ∧ t.host.mgmt.flash = ctlPut s.host.mgmt.flash { c.setState n 3 with active := n, boots := 0 })
      ∧ ∀ p, s.host.bme = true → partFailing s.host.mgmt.flash n = some p →
        ∃ t f, exec (.updateActivate q false) s = .next t ∧ s.answered t q d (toLE 4 p.1) ∧ t.host.mgmt.flash = ctlPut f (c.setState n 1)
          ∧ (p.2.1 + p.2.2.1 ≤ 41943040 → ∀ i, p.2.1 / 65536 ≤ i → i * 65536 < p.2.1 + p.2.2.1 → pieceHeld f n i = false)))
  ∧ (∀ (s : State) (q : Nat) (d : Started) (n rb : Nat), s.mbox q d 0x13 → s.host.mgmt.running = some n →
    (s.host.inTrial = false → ∀ ff, ∃ t, exec (.updateConfirm q ff) s = .next t ∧ s.refused t q d 2 2)
    ∧ (s.host.inTrial = true → rb = max (s.host.get Reg.MGMT_FLOOR) (s.host.get (Reg.MGMT_VERSION 3)) →
      (∃ t, exec (.updateConfirm q true) s = .next t ∧ s.refused t q d 2 4)
      ∧ ∃ t g f, exec (.updateConfirm q false) s = .next t ∧ t.ended q d 0 0 0 ∧ t.host.get Reg.MGMT_FLOOR = rb
        ∧ t.host.settings = confirmSettings s.host.settings ∧ g = settingsPut s.host.mgmt.flash (confirmSettings s.host.settings)
        ∧ t.host.mgmt.flash = ctlPut f ((ctlOf f).setState n 5)
        ∧ f = (if s.host.get Reg.MGMT_FLOOR < rb ∨ s.host.on Reg.MGMT_STATUS.FLOOR_LOST = true then floorPut s.host.mgmt.root g rb else g)))
  ∧ (∀ (s : State) (q : Nat) (d : Started) (c : SlotCtl) (n : Nat), s.mbox q d 0x14 → c = s.host.ctl → n = c.active →
    (c.state n ≠ 3 → c.state n ≠ 4 → ∀ ff, ∃ t, exec (.updateRevert q ff) s = .next t ∧ s.refused t q d 2 2)
    ∧ ((c.state n = 3 ∨ c.state n = 4) → (∃ t, exec (.updateRevert q true) s = .next t ∧ s.refused t q d 2 4)
      ∧ ∃ t, exec (.updateRevert q false) s = .next t ∧ t.ended q d 0 0 0 ∧ t.host.mgmt.flash
        = ctlPut s.host.mgmt.flash { c.setState n (if c.state n = 3 then 2 else 6) with active := 1 - n }))
  ∧ (∀ (s : State) (q : Nat) (d : Started) (n len : Nat), s.mbox q d 0x15 → n = s.host.ctl.idle →
    len = manLen (imageHeader s.host.mgmt.flash n) →
    (s.host.mgmt.copying ≠ some (q, d.idx) →
      (s.host.ctl.state n ≠ 5 → ∀ ff, ∃ t, exec (.recoveryWrite q ff) s = .next t ∧ s.refused t q d 2 2)
      ∧ (s.host.ctl.state n = 5 → 16777216 < len → ∀ ff, ∃ t, exec (.recoveryWrite q ff) s = .next t ∧ s.refused t q d 2 8)
      ∧ (s.host.ctl.state n = 5 → len ≤ 16777216 →
        (∃ t, exec (.recoveryWrite q true) s = .next t ∧ t.ended q d 2 4 0 ∧ (imageHeader t.host.mgmt.flash 2).take 8 ≠ asciiOf "KM7MANF1")
        ∧ ∃ t, exec (.recoveryWrite q false) s = .next t ∧ (imageHeader t.host.mgmt.flash 2).take 8 ≠ asciiOf "KM7MANF1"
          ∧ t.host.mgmt = { s.host.mgmt with flash := fErase s.host.mgmt.flash (slotBase 2) 0x1000000, copying := some (q, d.idx) }
          ∧ s.changes t (fun g => { g with mgmt := s.host.mgmt }) []))
    ∧ (∀ f : Flash, s.host.mgmt.copying = some (q, d.idx) → len ≤ 16777216 →
      f = fWrite s.host.mgmt.flash (slotBase 2) (fRead s.host.mgmt.flash (slotBase n) len) →
      (∃ t, exec (.recoveryWrite q true) s = .next t ∧ t.ended q d 2 4 0 ∧ t.host.mgmt = { s.host.mgmt with copying := none })
      ∧ ∃ t, exec (.recoveryWrite q false) s = .next t ∧ t.host.mgmt = { s.host.mgmt with flash := f, copying := none }
        ∧ (if partFailing f 2 = none then t.ended q d 0 0 0 else t.ended q d 2 4 0)
        ∧ fRead f (slotBase 2) len = fRead s.host.mgmt.flash (slotBase n) len))

/-- R230, R469 to R472, R479 to R485: settings, identity and quotes. The layout of the settings area is log entry 54 (DESIGN CHOICE), a
device's identity under a root secret that was not reconstructed log entry 9, and when a quote takes the signer log entry 55 (DEDUCED). -/
def Obligations.SettingsAndIdentity : Prop :=
  (∀ (s : State) (q id ctx : Nat) (d : Started) (ff : Bool), s.mbox q d 0x20 → s.host.bme = true → settingKey (s.host.mboxIn d) = (id, ctx) →
    ((id = 0 ∨ 3 < id ∨ (id = 3 ∧ s.variant.ctxs ≤ ctx)) → ∃ t, exec (.settingsSave q ff) s = .next t ∧ s.refused t q d 1 3)
    ∧ (1 ≤ id → id ≤ 3 → (id = 3 → ctx < s.variant.ctxs) → (∃ t, exec (.settingsSave q true) s = .next t ∧ s.refused t q d 2 4)
      ∧ ∀ (x : Setting) (flats : List Nat),
        x = ⟨id, ctx, s.host.ownFmt id, s.host.inTrial, ofFmt1 id (s.host.ownFmt id) (settingData s.host s.field id ctx)⟩ →
        flats = ((s.host.settings.filter fun y => y.id == 3 && y.ctx != ctx).map (·.ctx)).dedup →
        ((settingsFull (putSetting s.host.settings x) = true ∨ (id = 3 ∧ 16 ≤ flats.length)) →
          ∃ t, exec (.settingsSave q false) s = .next t ∧ s.refused t q d 2 6)
        ∧ (settingsFull (putSetting s.host.settings x) = false → (id = 3 → flats.length < 16) →
          ∃ t, exec (.settingsSave q false) s = .next t ∧ t.ended q d 0 0 0 ∧ t.host.settings = putSetting s.host.settings x
          ∧ (∀ y, y ∈ t.host.settings ↔ y = x ∨ (y ∈ s.host.settings ∧ (y.id ≠ id ∨ y.ctx ≠ ctx ∨ y.fmt ≠ x.fmt ∨ y.trial ≠ s.host.inTrial)))
          ∧ ∀ a, (a < 0x6100000 ∨ 0x7100000 ≤ a) → fByte t.host.mgmt.flash a = fByte s.host.mgmt.flash a)))
  ∧ (∀ (s : State) (q id ctx : Nat) (d : Started), s.mbox q d 0x21 → s.host.bme = true → settingKey (s.host.mboxIn d) = (id, ctx) →
    (s.host.settingOf id ctx = none → ∃ t, exec (.settingsRead q false) s = .next t ∧ s.refused t q d 2 5)
    ∧ (∃ t, exec (.settingsRead q true) s = .next t ∧ s.refused t q d 2 4)
    ∧ ∀ x, s.host.settingOf id ctx = some x →
      (d.fld 24 4 < 16 + x.data.length → ∃ t, exec (.settingsRead q false) s = .next t ∧ s.refused t q d 2 1)
      ∧ (16 + x.data.length ≤ d.fld 24 4 → ∃ t, exec (.settingsRead q false) s = .next t ∧ s.answered t q d
        (toLE 2 x.id ++ toLE 2 x.fmt.toNat ++ toLE 4 x.data.length ++ toLE 4 x.ctx ++ toLE 4 (b2n x.trial) ++ x.data)))
  ∧ (∀ (s : State) (q id : Nat) (d : Started), s.mbox q d 0x22 → s.host.bme = true → id = leNat ((s.host.mboxIn d).take 2) →
    ((1 ≤ id ∧ id ≤ 3) → ∀ ff, ∃ t, exec (.settingsWrite q ff) s = .next t ∧ s.refused t q d 2 2)
    ∧ ((id = 0 ∨ (3 < id ∧ id < 0x100) ∨ 0x1FF < id) → ∀ ff, ∃ t, exec (.settingsWrite q ff) s = .next t ∧ s.refused t q d 1 3)
    ∧ (0x100 ≤ id → id ≤ 0x1FF → (∃ t, exec (.settingsWrite q true) s = .next t ∧ s.refused t q d 2 4)
      ∧ ∀ x : Setting, x = { id := id, fmt := s.host.ownFmt id, data := (s.host.mboxIn d).drop 2 } →
        (settingsFull (putSetting s.host.settings x) = true → ∃ t, exec (.settingsWrite q false) s = .next t ∧ s.refused t q d 2 6)
        ∧ (settingsFull (putSetting s.host.settings x) = false → ∃ t, exec (.settingsWrite q false) s = .next t ∧ t.ended q d 0 0 0
          ∧ x ∈ t.host.settings ∧ ∀ y ∈ s.host.settings, y.id ≠ id → y ∈ t.host.settings)))
  ∧ (∀ (s : State) (q id ctx : Nat) (d : Started), s.mbox q d 0x23 → s.host.bme = true → settingKey (s.host.mboxIn d) = (id, ctx) →
    ((1 ≤ id ∧ id ≤ 3) → ∀ ff, ∃ t, exec (.settingsErase q ff) s = .next t ∧ s.refused t q d 2 2)
    ∧ ((id = 0 ∨ 3 < id) → (∀ y ∈ s.host.settings, y.id ≠ id) → ∃ t, exec (.settingsErase q false) s = .next t ∧ s.refused t q d 2 5)
    ∧ ((id = 0 ∨ 3 < id) → (∃ y ∈ s.host.settings, y.id = id) → ∃ t, exec (.settingsErase q false) s = .next t ∧ t.ended q d 0 0 0
      ∧ ∀ y, y ∈ t.host.settings ↔ y ∈ s.host.settings ∧ y.id ≠ id))
  ∧ (∀ (s : State) (q : Nat) (d : Started), s.mbox q d 0x30 →
    (d.fld 24 4 < (certChain s.host.mgmt.flash).length → ∀ ff, ∃ t, exec (.certGet q ff) s = .next t ∧ s.refused t q d 2 1)
    ∧ ((certChain s.host.mgmt.flash).length ≤ d.fld 24 4 →
      (∃ t, exec (.certGet q true) s = .next t ∧ s.refused t q d 2 4)
      ∧ (s.host.bme = true → ∃ t, exec (.certGet q false) s = .next t ∧ s.answered t q d (certChain s.host.mgmt.flash))))
  ∧ (∀ (s : State) (q : Nat) (d : Started), s.mbox q d 0x31 →
    (d.fld 24 4 < 1952 → ∃ t, exec (.pubkeyGet q) s = .next t ∧ s.refused t q d 2 1)
    ∧ (1952 ≤ d.fld 24 4 → s.host.on Reg.MGMT_STATUS.IDENT_OK = false → ∃ t, exec (.pubkeyGet q) s = .next t ∧ s.refused t q d 2 3)
    ∧ (1952 ≤ d.fld 24 4 → s.host.on Reg.MGMT_STATUS.IDENT_OK = true → s.host.bme = true →
      ∃ t, exec (.pubkeyGet q) s = .next t ∧ s.answered t q d (identityKey s.host.root)))
  ∧ (∀ (s : State) (q : Nat) (d : Started), s.mbox q d 0x32 →
    (d.fld 24 4 < 4096 → ∃ t, exec (.quote q) s = .next t ∧ s.refused t q d 2 1)
    ∧ (4096 ≤ d.fld 24 4 → s.host.on Reg.MGMT_STATUS.IDENT_OK = false → ∃ t, exec (.quote q) s = .next t ∧ s.refused t q d 2 3)
    ∧ (4096 ≤ d.fld 24 4 → s.host.on Reg.MGMT_STATUS.IDENT_OK = true → s.host.bme = true → d.fld 12 4 = 32 →
      ∃ t m, exec (.quote q) s = .next t ∧ t.host.mgmt.quote = some (q, d.idx, m)
        ∧ t.host.mgmt.quoteSigns = (!s.host.signing && !(List.range 16).any fun n => s.host.sealDue s.env n && !s.host.sealFull n)
        ∧ { d with accepted := true } ∈ t.host.started q ∧ m.take 8 = asciiOf "KM7QUOT1"
        ∧ leNat ((m.drop 8).take 8) = s.host.get2 Reg.DET_BOOT_ID_LO Reg.DET_BOOT_ID_HI
        ∧ (m.drop 16).take 32 = s.host.hostRead (d.fld 16 8) 32 ∧ (m.drop 144).take 8 = toLE 8 s.tick.toNat
        ∧ leNat ((m.drop 160).take 4) = s.host.get Reg.DET_CSEQ
        ∧ (s.host.insp.armed = none → m.length = 512 ∧ (m.drop 176).take 64 = List.replicate 64 0#8)))
  ∧ (∀ (s : State) (q idx : Nat) (m : List Byte) (d : Started), s.up → s.host.mgmt.quote = some (q, idx, m) →
    ((s.settled → s.host.mgmt.quoteSigns = false → (s.host.signing = true ∨ ∃ n, n < 16 ∧ s.host.sealDue s.env n = true ∧ s.host.sealFull n = false) →
      exec .quoteSigned s = .next s)
    ∧ ((s.host.mgmt.quoteSigns = true ∨ (s.host.signing = false ∧ ∀ n, n < 16 → s.host.sealDue s.env n = false ∨ s.host.sealFull n = true)) →
    s.host.bme = true →
    (s.host.started q).find? (fun d => d.idx == idx) = some d → d.fin = none → m.length = 512 →
    ∃ t, exec .quoteSigned s = .next t ∧ t.host.mgmt = { s.host.mgmt with quote := none, quoteSigns := false }
      ∧ s.answered t q d ((m ++ identitySign s.host.root m ++ List.replicate 4096 0#8).take 4096))))
  ∧ (∀ (s : State) (area : List Byte) (start : Nat → Option (BitVec 256)), s.host.down = true → area = fRead s.host.mgmt.flash 0x10000 0x40000 →
    start = (fun i => Config.pufDecode (Config.pufStart (s.host.fresh + i)) area) →
    ∃ t, exec .hostResetRelease s = .next t ∧ t.host.mgmt.root = (start 0).or ((start 1).or (start 2)) ∧ t.host.mgmt.flash = s.host.mgmt.flash)
  ∧ (∀ s : State, s.up → s.host.mgmt.running = none → (s.host.get Reg.CLK_BOOT_STAGE = 1 ∨ s.host.get Reg.CLK_BOOT_STAGE = 2) →
    (∀ r, s.host.mgmt.root = some r → identityKey r = certKey s.host.mgmt.flash (identityKey r).length →
      ∃ t, exec .bootCandidateSelect s = .next t ∧ t.host.get Reg.MGMT_STATUS.IDENT_OK = 1
        ∧ ∀ k, k < 8 → t.host.get (Reg.MGMT_DEVICE_ID k) = leNat (((deviceId r).drop (4 * k)).take 4))
    ∧ ((∀ r, s.host.mgmt.root = some r → identityKey r ≠ certKey s.host.mgmt.flash (identityKey r).length) →
      ∃ t, exec .bootCandidateSelect s = .next t ∧ t.host.get Reg.MGMT_STATUS.IDENT_OK = s.host.get Reg.MGMT_STATUS.IDENT_OK
        ∧ bit (t.host.get Reg.MGMT_INT_STATUS) 1 = true))
  ∧ (∀ (s : State) (q : Nat) (d : Started), s.up → s.host.oldestMbox = some (q, d) → d.opcode = 0x40 → d.accepted = false →
    s.host.mboxErr d = true →
    (d.fld 8 2 = 0x20 → ∀ ff, ∃ t, exec (.settingsSave q ff) s = .next t ∧ s.refused t q d 10 1)
    ∧ (d.fld 8 2 = 0x21 → ∀ ff, ∃ t, exec (.settingsRead q ff) s = .next t ∧ s.refused t q d 10 1)
    ∧ (d.fld 8 2 = 0x22 → ∀ ff, ∃ t, exec (.settingsWrite q ff) s = .next t ∧ s.refused t q d 10 1)
    ∧ (d.fld 8 2 = 0x23 → ∀ ff, ∃ t, exec (.settingsErase q ff) s = .next t ∧ s.refused t q d 10 1)
    ∧ (d.fld 8 2 = 0x32 → ∃ t, exec (.quote q) s = .next t ∧ s.refused t q d 10 1))
end

