-- ==== Sys2Proof/Laws/Memory.lean ====
section
/-! SUPPORT. What the sparse maps do: reading after writing, and the canonical form that every write keeps; and the small laws of
numbers as bytes and of the CRC's register. -/

namespace Sys2Proof

section
variable {α : Type}

theorem SMap.get_put (d : Nat → α) (m : SMap α) (k j : Nat) (v : α) :
    SMap.get d (SMap.put m k v) j = if j = k then v else SMap.get d m j := by
  induction m with
  | nil => simp only [SMap.put, SMap.get]
  | cons e t ih =>
    obtain ⟨k', v'⟩ := e
    simp only [SMap.put]
    split
    · simp only [SMap.get]
    · split
      · subst_vars; simp only [SMap.get]; split <;> simp_all
      · simp only [SMap.get, ih]; split
        · have : j ≠ k := by omega
          simp [this]
        · rfl

theorem SMap.find_put (m : SMap α) (k j : Nat) (v : α) :
    SMap.find (SMap.put m k v) j = if j = k then some v else SMap.find m j := by
  induction m with
  | nil => simp only [SMap.put, SMap.find]
  | cons e t ih =>
    obtain ⟨k', v'⟩ := e
    simp only [SMap.put]
    split
    · simp only [SMap.find]
    · split
      · subst_vars; simp only [SMap.find]; split <;> simp_all
      · simp only [SMap.find, ih]; split
        · have : j ≠ k := by omega
          simp [this]
        · rfl

theorem SMap.get_erase (d : Nat → α) (m : SMap α) (k j : Nat) :
    SMap.get d (SMap.erase m k) j = if j = k then d k else SMap.get d m j := by
  induction m with
  | nil => by_cases h : j = k <;> simp [SMap.erase, SMap.get, h]
  | cons e t ih =>
    obtain ⟨k', v'⟩ := e
    simp only [SMap.erase]
    split
    · rw [ih]; simp only [SMap.get]; split
      · rfl
      · have : j ≠ k' := by omega
        simp [this]
    · simp only [SMap.get, ih]; split
      · have : j ≠ k := by omega
        simp [this]
      · rfl

theorem SMap.find_erase (m : SMap α) (k j : Nat) :
    SMap.find (SMap.erase m k) j = if j = k then none else SMap.find m j := by
  induction m with
  | nil => by_cases h : j = k <;> simp [SMap.erase, SMap.find, h]
  | cons e t ih =>
    obtain ⟨k', v'⟩ := e
    simp only [SMap.erase]
    split
    · rw [ih]; simp only [SMap.find]; split
      · rfl
      · have : j ≠ k' := by omega
        simp [this]
    · simp only [SMap.find, ih]; split
      · have : j ≠ k := by omega
        simp [this]
      · rfl

/-- Reading after a write: the value written at its key, every other key as before. -/
theorem SMap.get_set [DecidableEq α] (d : Nat → α) (m : SMap α) (k j : Nat) (v : α) :
    SMap.get d (SMap.set d m k v) j = if j = k then v else SMap.get d m j := by
  unfold SMap.set
  split
  · rw [SMap.get_erase]; subst_vars; rfl
  · exact SMap.get_put d m k j v

theorem SMap.sorted_iff (m : SMap α) : m.sorted = true ↔ m.Pairwise fun a b => a.1 < b.1 := by
  induction m with
  | nil => simp [SMap.sorted]
  | cons e t ih =>
    cases t with
    | nil => simp [SMap.sorted]
    | cons e' t' =>
      obtain ⟨k, v⟩ := e
      obtain ⟨k', v'⟩ := e'
      simp only [SMap.sorted, Bool.and_eq_true, decide_eq_true_eq, ih, List.pairwise_cons, List.mem_cons]
      constructor
      · rintro ⟨h, h1, h2⟩
        refine ⟨?_, h1, h2⟩
        rintro a (rfl | ha)
        · exact h
        · exact lt_trans h (h1 a ha)
      · rintro ⟨h, h1, h2⟩
        exact ⟨h _ (Or.inl rfl), h1, h2⟩

theorem SMap.erase_eq_filter (m : SMap α) (k : Nat) : m.erase k = m.filter fun e => decide (e.1 ≠ k) := by
  induction m with
  | nil => rfl
  | cons e t ih =>
    obtain ⟨k', v'⟩ := e
    simp only [SMap.erase, List.filter_cons]
    by_cases h : k = k'
    · subst h; simp [ih]
    · have : k' ≠ k := fun x => h x.symm
      simp [h, this, ih]

theorem SMap.mem_put (m : SMap α) (k : Nat) (v : α) (e : Nat × α) (h : e ∈ m.put k v) : e = (k, v) ∨ e ∈ m := by
  induction m with
  | nil => simp [SMap.put] at h; exact Or.inl h
  | cons x t ih =>
    obtain ⟨k', v'⟩ := x
    simp only [SMap.put] at h
    split at h
    · simp at h ⊢; tauto
    · split at h
      · simp at h ⊢; tauto
      · simp only [List.mem_cons] at h ⊢
        rcases h with h | h
        · exact Or.inr (Or.inl h)
        · rcases ih h with h | h <;> tauto

theorem SMap.pairwise_put (m : SMap α) (k : Nat) (v : α) (h : m.Pairwise fun a b => a.1 < b.1) :
    (m.put k v).Pairwise fun a b => a.1 < b.1 := by
  induction m with
  | nil => simp [SMap.put]
  | cons x t ih =>
    obtain ⟨k', v'⟩ := x
    simp only [List.pairwise_cons] at h
    simp only [SMap.put]
    split
    · rename_i hk
      simp only [List.pairwise_cons, List.mem_cons]
      refine ⟨?_, h.1, h.2⟩
      rintro a (rfl | ha)
      · exact hk
      · exact lt_trans hk (h.1 a ha)
    · split
      · subst_vars
        simp only [List.pairwise_cons]
        exact ⟨h.1, h.2⟩
      · simp only [List.pairwise_cons]
        refine ⟨?_, ih h.2⟩
        intro a ha
        rcases SMap.mem_put t k v a ha with rfl | ha
        · show k' < k; omega
        · exact h.1 a ha

/-- A write keeps the canonical form. -/
theorem SMap.wf_set [DecidableEq α] (d : Nat → α) (m : SMap α) (k : Nat) (v : α) (h : SMap.wf d m = true) :
    SMap.wf d (SMap.set d m k v) = true := by
  simp only [SMap.wf, Bool.and_eq_true, SMap.sorted_iff, List.all_eq_true] at h ⊢
  unfold SMap.set
  split
  · rw [SMap.erase_eq_filter]
    exact ⟨h.1.filter _, fun x hx => h.2 x (List.mem_filter.1 hx).1⟩
  · rename_i hv
    refine ⟨SMap.pairwise_put m k v h.1, fun x hx => ?_⟩
    rcases SMap.mem_put m k v x hx with rfl | hx
    · simpa using hv
    · exact h.2 x hx

/-- Dropping keys keeps the canonical form. -/
theorem SMap.wf_filter [DecidableEq α] (d : Nat → α) (m : SMap α) (p : Nat × α → Bool) (h : SMap.wf d m = true) :
    SMap.wf d (m.filter p) = true := by
  simp only [SMap.wf, Bool.and_eq_true, SMap.sorted_iff, List.all_eq_true] at h ⊢
  exact ⟨h.1.filter _, fun x hx => h.2 x (List.mem_filter.1 hx).1⟩

end

theorem Mem.byte_setByte (m : Mem) (a b : Nat) (v : Byte) : (m.setByte a v).byte b = if b = a then v else m.byte b :=
  SMap.get_set _ _ _ _ _

theorem Mem.wf_setByte (m : Mem) (a : Nat) (v : Byte) (h : m.wf = true) : (m.setByte a v).wf = true := SMap.wf_set _ _ _ _ h

/-- Writing a list of bytes keeps the canonical form. -/
theorem Mem.wf_setBytes (m : Mem) (a : Nat) (bs : List Byte) (h : m.wf = true) : (m.setBytes a bs).wf = true := by
  induction bs generalizing m a with
  | nil => exact h
  | cons b t ih => exact ih _ _ (Mem.wf_setByte m a b h)

/-- What a byte reads as after a list of bytes is written. -/
theorem Mem.byte_setBytes (m : Mem) (a : Nat) (bs : List Byte) (x : Nat) :
    (m.setBytes a bs).byte x = if a ≤ x ∧ x < a + bs.length then bs.getD (x - a) 0 else m.byte x := by
  induction bs generalizing m a with
  | nil =>
    have h : ¬ (a ≤ x ∧ x < a + ([] : List Byte).length) := by simp
    rw [if_neg h]; rfl
  | cons b t ih =>
    simp only [Mem.setBytes, List.length_cons]
    rw [ih, Mem.byte_setByte]
    by_cases h1 : x = a
    · subst h1
      have h1 : ¬ (x + 1 ≤ x ∧ x < x + 1 + t.length) := by omega
      rw [if_neg h1]; simp
    · by_cases h2 : a + 1 ≤ x ∧ x < a + 1 + t.length
      · have h3 : a ≤ x ∧ x < a + (t.length + 1) := by omega
        have h4 : x - a = (x - (a + 1)) + 1 := by omega
        simp [h2, h3, h4]
      · have h3 : ¬ (a ≤ x ∧ x < a + (t.length + 1)) := by omega
        rw [if_neg h2, if_neg h3, if_neg h1]

theorem Mem.length_bytes (m : Mem) (a n : Nat) : (m.bytes a n).length = n := by
  induction n generalizing a with
  | zero => rfl
  | succ n ih => simp [Mem.bytes, ih]

/-- Reading back what was just written. -/
theorem Mem.bytes_setBytes_self (m : Mem) (a : Nat) (bs : List Byte) : (m.setBytes a bs).bytes a bs.length = bs := by
  have key : ∀ (n o : Nat), o + n = bs.length → (m.setBytes a bs).bytes (a + o) n = bs.drop o := by
    intro n
    induction n with
    | zero => intro o h; simp only [Mem.bytes]; rw [List.drop_eq_nil_of_le (by omega)]
    | succ n ih =>
      intro o h
      have ho : o < bs.length := by omega
      simp only [Mem.bytes]
      rw [show a + o + 1 = a + (o + 1) by omega, ih (o + 1) (by omega), Mem.byte_setBytes,
        if_pos ⟨by omega, by omega⟩, List.drop_eq_getElem_cons ho]
      simp [List.getD_eq_getElem?_getD, ho]
  simpa using key bs.length 0 (by omega)

@[simp] theorem toLE_length (n v : Nat) : (toLE n v).length = n := by
  induction n generalizing v with
  | zero => rfl
  | succ n ih => simp [toLE, ih]

@[simp] theorem forced_eq {α : Type} (x : BitVec 32) (k : BitVec 32 → α) : forced x k = k x := by
  have h : BitVec.ofNat 32 x.toNat = x := by simp
  unfold forced
  split <;> rename_i he
  · rw [he] at h; rw [← h]
  · rw [he] at h; exact congrArg k h

theorem crcRun_cons (bit : BitVec 32 → BitVec 32) (b : Byte) (t : List Byte) (c : BitVec 32) :
    crcRun bit (b :: t) c = crcRun bit t (forN 8 (fun _ c => bit c) (c ^^^ b.setWidth 32)) := by
  simp [crcRun]

end Sys2Proof
end

