-- ==== Sys2Proof/Laws/Regs.lean ====
section
/-! SUPPORT. Register files and fields: reading a field after a field has been written, and the canonical form of the file. -/

namespace Sys2Proof

/-- A field fits its word. -/
def RF.fits (f : RF) : Prop := f.lo + f.w ≤ 32
/-- Two fields share no bit. -/
def RF.apart (f g : RF) : Prop := f.addr ≠ g.addr ∨ f.lo + f.w ≤ g.lo ∨ g.lo + g.w ≤ f.lo

theorem RF.testBit_inWord (f : RF) (h : f.fits) (x : Word) (v i : Nat) :
    (f.inWord x v).toNat.testBit i = if f.lo ≤ i ∧ i < f.lo + f.w then v.testBit (i - f.lo) else x.toNat.testBit i := by
  unfold RF.fits at h
  by_cases hi : i < 32
  · have e1 : (f.inWord x v).toNat.testBit i = (f.inWord x v).getLsbD i := rfl
    have e2 : x.toNat.testBit i = x.getLsbD i := rfl
    rw [e1, e2]
    simp only [RF.inWord, RF.mask, BitVec.getLsbD_or, BitVec.getLsbD_and, BitVec.getLsbD_not, BitVec.getLsbD_ofNat, hi, decide_true,
      Bool.true_and, Nat.testBit_mul_two_pow, Nat.testBit_mod_two_pow, Nat.testBit_two_pow_sub_one]
    by_cases h1 : f.lo ≤ i
    · by_cases h2 : i < f.lo + f.w
      · have h3 : i - f.lo < f.w := by omega
        simp [h1, h2, h3]
      · have h3 : ¬ (i - f.lo < f.w) := by omega
        simp [h1, h2, h3]
    · simp [h1]
  · have e1 : (f.inWord x v).toNat.testBit i = false :=
      Nat.testBit_lt_two_pow (lt_of_lt_of_le (f.inWord x v).isLt (Nat.pow_le_pow_right (by omega) (by omega)))
    have e2 : x.toNat.testBit i = false :=
      Nat.testBit_lt_two_pow (lt_of_lt_of_le x.isLt (Nat.pow_le_pow_right (by omega) (by omega)))
    have h2 : ¬ (f.lo ≤ i ∧ i < f.lo + f.w) := by omega
    rw [e1, e2, if_neg h2]

theorem RF.testBit_ofWord (f : RF) (x : Word) (i : Nat) :
    (f.ofWord x).testBit i = (decide (i < f.w) && x.toNat.testBit (f.lo + i)) := by
  simp only [RF.ofWord, Nat.testBit_mod_two_pow, Nat.testBit_div_two_pow]
  rw [Nat.add_comm]

/-- A field just written reads as the value, cut to its width. -/
theorem RF.ofWord_inWord (f : RF) (h : f.fits) (x : Word) (v : Nat) : f.ofWord (f.inWord x v) = v % 2 ^ f.w := by
  apply Nat.eq_of_testBit_eq
  intro i
  rw [RF.testBit_ofWord, RF.testBit_inWord f h, Nat.testBit_mod_two_pow]
  by_cases hi : i < f.w
  · rw [if_pos (by omega)]; simp [hi]
  · simp [hi]

/-- A field that shares no bit with the one written stays. -/
theorem RF.ofWord_inWord_apart (f g : RF) (h : f.fits) (hd : f.lo + f.w ≤ g.lo ∨ g.lo + g.w ≤ f.lo) (x : Word) (v : Nat) :
    g.ofWord (f.inWord x v) = g.ofWord x := by
  apply Nat.eq_of_testBit_eq
  intro i
  rw [RF.testBit_ofWord, RF.testBit_inWord f h, RF.testBit_ofWord]
  by_cases hi : i < g.w
  · rw [if_neg (by omega)]
  · simp [hi]

theorem RF.ofWord_lt (f : RF) (x : Word) : f.ofWord x < 2 ^ f.w := Nat.mod_lt _ (by positivity)

theorem RegFile.word_setWord (rs : RegFile) (a b : Nat) (v : Word) :
    (rs.setWord a v).word b = if b = a then v else rs.word b := SMap.get_set _ _ _ _ _

theorem RegFile.wf_setWord (rs : RegFile) (a : Nat) (v : Word) (h : rs.wf = true) : (rs.setWord a v).wf = true :=
  SMap.wf_set _ _ _ _ h

theorem RegFile.wf_set (rs : RegFile) (f : RF) (v : Nat) (h : rs.wf = true) : (rs.set f v).wf = true :=
  RegFile.wf_setWord _ _ _ h

/-- A word at another address than the field written stays. -/
theorem RegFile.word_set_ne (rs : RegFile) (f : RF) (v a : Nat) (h : a ≠ f.addr) : (rs.set f v).word a = rs.word a := by
  simp [RegFile.set, RegFile.word_setWord, h]

theorem RegFile.get_set_self (rs : RegFile) (f : RF) (v : Nat) (h : f.fits) : (rs.set f v).get f = v % 2 ^ f.w := by
  simp [RegFile.get, RegFile.set, RegFile.word_setWord, RF.ofWord_inWord f h]

theorem RegFile.get_set_apart (rs : RegFile) (f g : RF) (v : Nat) (h : f.fits) (hd : f.apart g) :
    (rs.set f v).get g = rs.get g := by
  simp only [RegFile.get, RegFile.set, RegFile.word_setWord]
  split
  · rename_i e
    rcases hd with hd | hd
    · exact absurd e.symm hd
    · rw [RF.ofWord_inWord_apart f g h hd, e]
  · rfl

theorem RegFile.get_lt (rs : RegFile) (f : RF) : rs.get f < 2 ^ f.w := RF.ofWord_lt _ _

/-- Any word after a field is written: bit by bit. -/
theorem RegFile.testBit_set (rs : RegFile) (f : RF) (v a i : Nat) (h : f.fits) :
    ((rs.set f v).word a).toNat.testBit i =
      if a = f.addr ∧ f.lo ≤ i ∧ i < f.lo + f.w then v.testBit (i - f.lo) else (rs.word a).toNat.testBit i := by
  simp only [RegFile.set, RegFile.word_setWord]
  split
  · rename_i e
    subst e
    rw [RF.testBit_inWord f h]
    simp
  · rename_i e
    simp [e]

end Sys2Proof
end

