-- ==== Sys2Proof/Laws/State.lean ====
section
/-! SUPPORT. One lemma per field per update of the state: what an update leaves unchanged, and the one field it changes. -/

namespace Sys2Proof.Machine
open Sys2Proof

@[simp] theorem HostSide.set_latch (h : HostSide) (f : RF) (v : Nat) : (h.set f v).latch = h.latch := rfl
@[simp] theorem HostSide.set_readData (h : HostSide) (f : RF) (v : Nat) : (h.set f v).readData = h.readData := rfl
@[simp] theorem HostSide.set_mem (h : HostSide) (f : RF) (v : Nat) : (h.set f v).mem = h.mem := rfl
@[simp] theorem HostSide.set_noRead (h : HostSide) (f : RF) (v : Nat) : (h.set f v).noRead = h.noRead := rfl
@[simp] theorem HostSide.set_bme (h : HostSide) (f : RF) (v : Nat) : (h.set f v).bme = h.bme := rfl
@[simp] theorem HostSide.set_pm (h : HostSide) (f : RF) (v : Nat) : (h.set f v).pm = h.pm := rfl
@[simp] theorem HostSide.set_sq (h : HostSide) (f : RF) (v : Nat) : (h.set f v).sq = h.sq := rfl
@[simp] theorem HostSide.set_lastQ (h : HostSide) (f : RF) (v : Nat) : (h.set f v).lastQ = h.lastQ := rfl
@[simp] theorem HostSide.set_rings (h : HostSide) (f : RF) (v : Nat) : (h.set f v).rings = h.rings := rfl
@[simp] theorem HostSide.set_vecs (h : HostSide) (f : RF) (v : Nat) : (h.set f v).vecs = h.vecs := rfl
@[simp] theorem HostSide.set_gauge (h : HostSide) (f : RF) (v : Nat) : (h.set f v).gauge = h.gauge := rfl
@[simp] theorem HostSide.set_hbm (h : HostSide) (f : RF) (v : Nat) : (h.set f v).hbm = h.hbm := rfl
@[simp] theorem HostSide.set_lstore (h : HostSide) (f : RF) (v : Nat) : (h.set f v).lstore = h.lstore := rfl
@[simp] theorem HostSide.set_lsDirty (h : HostSide) (f : RF) (v : Nat) : (h.set f v).lsDirty = h.lsDirty := rfl
@[simp] theorem HostSide.set_slu (h : HostSide) (f : RF) (v : Nat) : (h.set f v).slu = h.slu := rfl
@[simp] theorem HostSide.set_cores (h : HostSide) (f : RF) (v : Nat) : (h.set f v).cores = h.cores := rfl
@[simp] theorem HostSide.set_lsc (h : HostSide) (f : RF) (v : Nat) : (h.set f v).lsc = h.lsc := rfl
@[simp] theorem HostSide.set_bar (h : HostSide) (f : RF) (v : Nat) : (h.set f v).bar = h.bar := rfl
@[simp] theorem HostSide.set_fresh (h : HostSide) (f : RF) (v : Nat) : (h.set f v).fresh = h.fresh := rfl
@[simp] theorem HostSide.set_ctxs (h : HostSide) (f : RF) (v : Nat) : (h.set f v).ctxs = h.ctxs := rfl
@[simp] theorem HostSide.set_lanes (h : HostSide) (f : RF) (v : Nat) : (h.set f v).lanes = h.lanes := rfl
@[simp] theorem HostSide.set_links (h : HostSide) (f : RF) (v : Nat) : (h.set f v).links = h.links := rfl
@[simp] theorem HostSide.set_ports (h : HostSide) (f : RF) (v : Nat) : (h.set f v).ports = h.ports := rfl
@[simp] theorem HostSide.set_heldCtx (h : HostSide) (f : RF) (v : Nat) : (h.set f v).heldCtx = h.heldCtx := rfl
@[simp] theorem HostSide.set_pipes (h : HostSide) (f : RF) (v : Nat) : (h.set f v).pipes = h.pipes := rfl
@[simp] theorem HostSide.set_powerOns (h : HostSide) (f : RF) (v : Nat) : (h.set f v).powerOns = h.powerOns := rfl
@[simp] theorem HostSide.set_insp (h : HostSide) (f : RF) (v : Nat) : (h.set f v).insp = h.insp := rfl
@[simp] theorem HostSide.set_comp (h : HostSide) (f : RF) (v : Nat) : (h.set f v).comp = h.comp := rfl
@[simp] theorem HostSide.set_remoteReply (h : HostSide) (f : RF) (v : Nat) : (h.set f v).remoteReply = h.remoteReply := rfl
@[simp] theorem HostSide.set_remoteSent (h : HostSide) (f : RF) (v : Nat) : (h.set f v).remoteSent = h.remoteSent := rfl
@[simp] theorem HostSide.set_starts (h : HostSide) (f : RF) (v : Nat) : (h.set f v).starts = h.starts := rfl
@[simp] theorem HostSide.set_tbs (h : HostSide) (f : RF) (v : Nat) : (h.set f v).tbs = h.tbs := rfl
@[simp] theorem HostSide.set_cmpLate (h : HostSide) (f : RF) (v : Nat) : (h.set f v).cmpLate = h.cmpLate := rfl
@[simp] theorem HostSide.set_pps (h : HostSide) (f : RF) (v : Nat) : (h.set f v).pps = h.pps := rfl
@[simp] theorem HostSide.set_chain (h : HostSide) (f : RF) (v : Nat) : (h.set f v).chain = h.chain := rfl
@[simp] theorem HostSide.set_eth (h : HostSide) (f : RF) (v : Nat) : (h.set f v).eth = h.eth := rfl
@[simp] theorem HostSide.set_hdw (h : HostSide) (f : RF) (v : Nat) : (h.set f v).hdw = h.hdw := rfl
@[simp] theorem HostSide.set_dbg (h : HostSide) (f : RF) (v : Nat) : (h.set f v).dbg = h.dbg := rfl
@[simp] theorem HostSide.set_mgmt (h : HostSide) (f : RF) (v : Nat) : (h.set f v).mgmt = h.mgmt := rfl
@[simp] theorem HostSide.set_pcieLink (h : HostSide) (f : RF) (v : Nat) : (h.set f v).pcieLink = h.pcieLink := rfl
@[simp] theorem HostSide.set_noPower (h : HostSide) (f : RF) (v : Nat) : (h.set f v).noPower = h.noPower := rfl
@[simp] theorem HostSide.set_down (h : HostSide) (f : RF) (v : Nat) : (h.set f v).down = h.down := rfl
@[simp] theorem HostSide.set_spGen (h : HostSide) (f : RF) (v : Nat) : (h.set f v).spGen = h.spGen := rfl
@[simp] theorem HostSide.set_boots (h : HostSide) (f : RF) (v : Nat) : (h.set f v).boots = h.boots := rfl

@[simp] theorem HostSide.setWord_latch (h : HostSide) (a : Nat) (v : Word) : (h.setWord a v).latch = h.latch := rfl
@[simp] theorem HostSide.setWord_readData (h : HostSide) (a : Nat) (v : Word) : (h.setWord a v).readData = h.readData := rfl
@[simp] theorem HostSide.setWord_mem (h : HostSide) (a : Nat) (v : Word) : (h.setWord a v).mem = h.mem := rfl
@[simp] theorem HostSide.setWord_noRead (h : HostSide) (a : Nat) (v : Word) : (h.setWord a v).noRead = h.noRead := rfl
@[simp] theorem HostSide.setWord_bme (h : HostSide) (a : Nat) (v : Word) : (h.setWord a v).bme = h.bme := rfl
@[simp] theorem HostSide.setWord_pm (h : HostSide) (a : Nat) (v : Word) : (h.setWord a v).pm = h.pm := rfl
@[simp] theorem HostSide.setWord_sq (h : HostSide) (a : Nat) (v : Word) : (h.setWord a v).sq = h.sq := rfl
@[simp] theorem HostSide.setWord_lastQ (h : HostSide) (a : Nat) (v : Word) : (h.setWord a v).lastQ = h.lastQ := rfl
@[simp] theorem HostSide.setWord_rings (h : HostSide) (a : Nat) (v : Word) : (h.setWord a v).rings = h.rings := rfl
@[simp] theorem HostSide.setWord_vecs (h : HostSide) (a : Nat) (v : Word) : (h.setWord a v).vecs = h.vecs := rfl
@[simp] theorem HostSide.setWord_gauge (h : HostSide) (a : Nat) (v : Word) : (h.setWord a v).gauge = h.gauge := rfl
@[simp] theorem HostSide.setWord_hbm (h : HostSide) (a : Nat) (v : Word) : (h.setWord a v).hbm = h.hbm := rfl
@[simp] theorem HostSide.setWord_lstore (h : HostSide) (a : Nat) (v : Word) : (h.setWord a v).lstore = h.lstore := rfl
@[simp] theorem HostSide.setWord_lsDirty (h : HostSide) (a : Nat) (v : Word) : (h.setWord a v).lsDirty = h.lsDirty := rfl
@[simp] theorem HostSide.setWord_slu (h : HostSide) (a : Nat) (v : Word) : (h.setWord a v).slu = h.slu := rfl
@[simp] theorem HostSide.setWord_cores (h : HostSide) (a : Nat) (v : Word) : (h.setWord a v).cores = h.cores := rfl
@[simp] theorem HostSide.setWord_lsc (h : HostSide) (a : Nat) (v : Word) : (h.setWord a v).lsc = h.lsc := rfl
@[simp] theorem HostSide.setWord_bar (h : HostSide) (a : Nat) (v : Word) : (h.setWord a v).bar = h.bar := rfl
@[simp] theorem HostSide.setWord_fresh (h : HostSide) (a : Nat) (v : Word) : (h.setWord a v).fresh = h.fresh := rfl
@[simp] theorem HostSide.setWord_ctxs (h : HostSide) (a : Nat) (v : Word) : (h.setWord a v).ctxs = h.ctxs := rfl
@[simp] theorem HostSide.setWord_lanes (h : HostSide) (a : Nat) (v : Word) : (h.setWord a v).lanes = h.lanes := rfl
@[simp] theorem HostSide.setWord_links (h : HostSide) (a : Nat) (v : Word) : (h.setWord a v).links = h.links := rfl
@[simp] theorem HostSide.setWord_ports (h : HostSide) (a : Nat) (v : Word) : (h.setWord a v).ports = h.ports := rfl
@[simp] theorem HostSide.setWord_heldCtx (h : HostSide) (a : Nat) (v : Word) : (h.setWord a v).heldCtx = h.heldCtx := rfl
@[simp] theorem HostSide.setWord_pipes (h : HostSide) (a : Nat) (v : Word) : (h.setWord a v).pipes = h.pipes := rfl
@[simp] theorem HostSide.setWord_powerOns (h : HostSide) (a : Nat) (v : Word) : (h.setWord a v).powerOns = h.powerOns := rfl
@[simp] theorem HostSide.setWord_insp (h : HostSide) (a : Nat) (v : Word) : (h.setWord a v).insp = h.insp := rfl
@[simp] theorem HostSide.setWord_comp (h : HostSide) (a : Nat) (v : Word) : (h.setWord a v).comp = h.comp := rfl
@[simp] theorem HostSide.setWord_remoteReply (h : HostSide) (a : Nat) (v : Word) : (h.setWord a v).remoteReply = h.remoteReply := rfl
@[simp] theorem HostSide.setWord_remoteSent (h : HostSide) (a : Nat) (v : Word) : (h.setWord a v).remoteSent = h.remoteSent := rfl
@[simp] theorem HostSide.setWord_starts (h : HostSide) (a : Nat) (v : Word) : (h.setWord a v).starts = h.starts := rfl
@[simp] theorem HostSide.setWord_tbs (h : HostSide) (a : Nat) (v : Word) : (h.setWord a v).tbs = h.tbs := rfl
@[simp] theorem HostSide.setWord_cmpLate (h : HostSide) (a : Nat) (v : Word) : (h.setWord a v).cmpLate = h.cmpLate := rfl
@[simp] theorem HostSide.setWord_pps (h : HostSide) (a : Nat) (v : Word) : (h.setWord a v).pps = h.pps := rfl
@[simp] theorem HostSide.setWord_chain (h : HostSide) (a : Nat) (v : Word) : (h.setWord a v).chain = h.chain := rfl
@[simp] theorem HostSide.setWord_eth (h : HostSide) (a : Nat) (v : Word) : (h.setWord a v).eth = h.eth := rfl
@[simp] theorem HostSide.setWord_hdw (h : HostSide) (a : Nat) (v : Word) : (h.setWord a v).hdw = h.hdw := rfl
@[simp] theorem HostSide.setWord_dbg (h : HostSide) (a : Nat) (v : Word) : (h.setWord a v).dbg = h.dbg := rfl
@[simp] theorem HostSide.setWord_mgmt (h : HostSide) (a : Nat) (v : Word) : (h.setWord a v).mgmt = h.mgmt := rfl
@[simp] theorem HostSide.setWord_pcieLink (h : HostSide) (a : Nat) (v : Word) : (h.setWord a v).pcieLink = h.pcieLink := rfl
@[simp] theorem HostSide.setWord_noPower (h : HostSide) (a : Nat) (v : Word) : (h.setWord a v).noPower = h.noPower := rfl
@[simp] theorem HostSide.setWord_down (h : HostSide) (a : Nat) (v : Word) : (h.setWord a v).down = h.down := rfl
@[simp] theorem HostSide.setWord_spGen (h : HostSide) (a : Nat) (v : Word) : (h.setWord a v).spGen = h.spGen := rfl
@[simp] theorem HostSide.setWord_boots (h : HostSide) (a : Nat) (v : Word) : (h.setWord a v).boots = h.boots := rfl

@[simp] theorem HostSide.setBits_latch (h : HostSide) (f : RF) (m : Nat) : (h.setBits f m).latch = h.latch := rfl
@[simp] theorem HostSide.setBits_readData (h : HostSide) (f : RF) (m : Nat) : (h.setBits f m).readData = h.readData := rfl
@[simp] theorem HostSide.setBits_mem (h : HostSide) (f : RF) (m : Nat) : (h.setBits f m).mem = h.mem := rfl
@[simp] theorem HostSide.setBits_noRead (h : HostSide) (f : RF) (m : Nat) : (h.setBits f m).noRead = h.noRead := rfl
@[simp] theorem HostSide.setBits_bme (h : HostSide) (f : RF) (m : Nat) : (h.setBits f m).bme = h.bme := rfl
@[simp] theorem HostSide.setBits_pm (h : HostSide) (f : RF) (m : Nat) : (h.setBits f m).pm = h.pm := rfl
@[simp] theorem HostSide.setBits_sq (h : HostSide) (f : RF) (m : Nat) : (h.setBits f m).sq = h.sq := rfl
@[simp] theorem HostSide.setBits_lastQ (h : HostSide) (f : RF) (m : Nat) : (h.setBits f m).lastQ = h.lastQ := rfl
@[simp] theorem HostSide.setBits_rings (h : HostSide) (f : RF) (m : Nat) : (h.setBits f m).rings = h.rings := rfl
@[simp] theorem HostSide.setBits_vecs (h : HostSide) (f : RF) (m : Nat) : (h.setBits f m).vecs = h.vecs := rfl
@[simp] theorem HostSide.setBits_gauge (h : HostSide) (f : RF) (m : Nat) : (h.setBits f m).gauge = h.gauge := rfl
@[simp] theorem HostSide.setBits_hbm (h : HostSide) (f : RF) (m : Nat) : (h.setBits f m).hbm = h.hbm := rfl
@[simp] theorem HostSide.setBits_lstore (h : HostSide) (f : RF) (m : Nat) : (h.setBits f m).lstore = h.lstore := rfl
@[simp] theorem HostSide.setBits_lsDirty (h : HostSide) (f : RF) (m : Nat) : (h.setBits f m).lsDirty = h.lsDirty := rfl
@[simp] theorem HostSide.setBits_slu (h : HostSide) (f : RF) (m : Nat) : (h.setBits f m).slu = h.slu := rfl
@[simp] theorem HostSide.setBits_cores (h : HostSide) (f : RF) (m : Nat) : (h.setBits f m).cores = h.cores := rfl
@[simp] theorem HostSide.setBits_lsc (h : HostSide) (f : RF) (m : Nat) : (h.setBits f m).lsc = h.lsc := rfl
@[simp] theorem HostSide.setBits_bar (h : HostSide) (f : RF) (m : Nat) : (h.setBits f m).bar = h.bar := rfl
@[simp] theorem HostSide.setBits_fresh (h : HostSide) (f : RF) (m : Nat) : (h.setBits f m).fresh = h.fresh := rfl
@[simp] theorem HostSide.setBits_ctxs (h : HostSide) (f : RF) (m : Nat) : (h.setBits f m).ctxs = h.ctxs := rfl
@[simp] theorem HostSide.setBits_lanes (h : HostSide) (f : RF) (m : Nat) : (h.setBits f m).lanes = h.lanes := rfl
@[simp] theorem HostSide.setBits_links (h : HostSide) (f : RF) (m : Nat) : (h.setBits f m).links = h.links := rfl
@[simp] theorem HostSide.setBits_ports (h : HostSide) (f : RF) (m : Nat) : (h.setBits f m).ports = h.ports := rfl
@[simp] theorem HostSide.setBits_heldCtx (h : HostSide) (f : RF) (m : Nat) : (h.setBits f m).heldCtx = h.heldCtx := rfl
@[simp] theorem HostSide.setBits_pipes (h : HostSide) (f : RF) (m : Nat) : (h.setBits f m).pipes = h.pipes := rfl
@[simp] theorem HostSide.setBits_powerOns (h : HostSide) (f : RF) (m : Nat) : (h.setBits f m).powerOns = h.powerOns := rfl
@[simp] theorem HostSide.setBits_insp (h : HostSide) (f : RF) (m : Nat) : (h.setBits f m).insp = h.insp := rfl
@[simp] theorem HostSide.setBits_comp (h : HostSide) (f : RF) (m : Nat) : (h.setBits f m).comp = h.comp := rfl
@[simp] theorem HostSide.setBits_remoteReply (h : HostSide) (f : RF) (m : Nat) : (h.setBits f m).remoteReply = h.remoteReply := rfl
@[simp] theorem HostSide.setBits_remoteSent (h : HostSide) (f : RF) (m : Nat) : (h.setBits f m).remoteSent = h.remoteSent := rfl
@[simp] theorem HostSide.setBits_starts (h : HostSide) (f : RF) (m : Nat) : (h.setBits f m).starts = h.starts := rfl
@[simp] theorem HostSide.setBits_tbs (h : HostSide) (f : RF) (m : Nat) : (h.setBits f m).tbs = h.tbs := rfl
@[simp] theorem HostSide.setBits_cmpLate (h : HostSide) (f : RF) (m : Nat) : (h.setBits f m).cmpLate = h.cmpLate := rfl
@[simp] theorem HostSide.setBits_pps (h : HostSide) (f : RF) (m : Nat) : (h.setBits f m).pps = h.pps := rfl
@[simp] theorem HostSide.setBits_chain (h : HostSide) (f : RF) (m : Nat) : (h.setBits f m).chain = h.chain := rfl
@[simp] theorem HostSide.setBits_eth (h : HostSide) (f : RF) (m : Nat) : (h.setBits f m).eth = h.eth := rfl
@[simp] theorem HostSide.setBits_hdw (h : HostSide) (f : RF) (m : Nat) : (h.setBits f m).hdw = h.hdw := rfl
@[simp] theorem HostSide.setBits_dbg (h : HostSide) (f : RF) (m : Nat) : (h.setBits f m).dbg = h.dbg := rfl
@[simp] theorem HostSide.setBits_mgmt (h : HostSide) (f : RF) (m : Nat) : (h.setBits f m).mgmt = h.mgmt := rfl
@[simp] theorem HostSide.setBits_pcieLink (h : HostSide) (f : RF) (m : Nat) : (h.setBits f m).pcieLink = h.pcieLink := rfl
@[simp] theorem HostSide.setBits_noPower (h : HostSide) (f : RF) (m : Nat) : (h.setBits f m).noPower = h.noPower := rfl
@[simp] theorem HostSide.setBits_down (h : HostSide) (f : RF) (m : Nat) : (h.setBits f m).down = h.down := rfl
@[simp] theorem HostSide.setBits_spGen (h : HostSide) (f : RF) (m : Nat) : (h.setBits f m).spGen = h.spGen := rfl
@[simp] theorem HostSide.setBits_boots (h : HostSide) (f : RF) (m : Nat) : (h.setBits f m).boots = h.boots := rfl

@[simp] theorem HostSide.add_latch (h : HostSide) (f : RF) (n : Nat) : (h.add f n).latch = h.latch := rfl
@[simp] theorem HostSide.add_readData (h : HostSide) (f : RF) (n : Nat) : (h.add f n).readData = h.readData := rfl
@[simp] theorem HostSide.add_mem (h : HostSide) (f : RF) (n : Nat) : (h.add f n).mem = h.mem := rfl
@[simp] theorem HostSide.add_noRead (h : HostSide) (f : RF) (n : Nat) : (h.add f n).noRead = h.noRead := rfl
@[simp] theorem HostSide.add_bme (h : HostSide) (f : RF) (n : Nat) : (h.add f n).bme = h.bme := rfl
@[simp] theorem HostSide.add_pm (h : HostSide) (f : RF) (n : Nat) : (h.add f n).pm = h.pm := rfl
@[simp] theorem HostSide.add_sq (h : HostSide) (f : RF) (n : Nat) : (h.add f n).sq = h.sq := rfl
@[simp] theorem HostSide.add_lastQ (h : HostSide) (f : RF) (n : Nat) : (h.add f n).lastQ = h.lastQ := rfl
@[simp] theorem HostSide.add_rings (h : HostSide) (f : RF) (n : Nat) : (h.add f n).rings = h.rings := rfl
@[simp] theorem HostSide.add_vecs (h : HostSide) (f : RF) (n : Nat) : (h.add f n).vecs = h.vecs := rfl
@[simp] theorem HostSide.add_gauge (h : HostSide) (f : RF) (n : Nat) : (h.add f n).gauge = h.gauge := rfl
@[simp] theorem HostSide.add_hbm (h : HostSide) (f : RF) (n : Nat) : (h.add f n).hbm = h.hbm := rfl
@[simp] theorem HostSide.add_lstore (h : HostSide) (f : RF) (n : Nat) : (h.add f n).lstore = h.lstore := rfl
@[simp] theorem HostSide.add_lsDirty (h : HostSide) (f : RF) (n : Nat) : (h.add f n).lsDirty = h.lsDirty := rfl
@[simp] theorem HostSide.add_slu (h : HostSide) (f : RF) (n : Nat) : (h.add f n).slu = h.slu := rfl
@[simp] theorem HostSide.add_cores (h : HostSide) (f : RF) (n : Nat) : (h.add f n).cores = h.cores := rfl
@[simp] theorem HostSide.add_lsc (h : HostSide) (f : RF) (n : Nat) : (h.add f n).lsc = h.lsc := rfl
@[simp] theorem HostSide.add_bar (h : HostSide) (f : RF) (n : Nat) : (h.add f n).bar = h.bar := rfl
@[simp] theorem HostSide.add_fresh (h : HostSide) (f : RF) (n : Nat) : (h.add f n).fresh = h.fresh := rfl
@[simp] theorem HostSide.add_ctxs (h : HostSide) (f : RF) (n : Nat) : (h.add f n).ctxs = h.ctxs := rfl
@[simp] theorem HostSide.add_lanes (h : HostSide) (f : RF) (n : Nat) : (h.add f n).lanes = h.lanes := rfl
@[simp] theorem HostSide.add_links (h : HostSide) (f : RF) (n : Nat) : (h.add f n).links = h.links := rfl
@[simp] theorem HostSide.add_ports (h : HostSide) (f : RF) (n : Nat) : (h.add f n).ports = h.ports := rfl
@[simp] theorem HostSide.add_heldCtx (h : HostSide) (f : RF) (n : Nat) : (h.add f n).heldCtx = h.heldCtx := rfl
@[simp] theorem HostSide.add_pipes (h : HostSide) (f : RF) (n : Nat) : (h.add f n).pipes = h.pipes := rfl
@[simp] theorem HostSide.add_powerOns (h : HostSide) (f : RF) (n : Nat) : (h.add f n).powerOns = h.powerOns := rfl
@[simp] theorem HostSide.add_insp (h : HostSide) (f : RF) (n : Nat) : (h.add f n).insp = h.insp := rfl
@[simp] theorem HostSide.add_comp (h : HostSide) (f : RF) (n : Nat) : (h.add f n).comp = h.comp := rfl
@[simp] theorem HostSide.add_remoteReply (h : HostSide) (f : RF) (n : Nat) : (h.add f n).remoteReply = h.remoteReply := rfl
@[simp] theorem HostSide.add_remoteSent (h : HostSide) (f : RF) (n : Nat) : (h.add f n).remoteSent = h.remoteSent := rfl
@[simp] theorem HostSide.add_starts (h : HostSide) (f : RF) (n : Nat) : (h.add f n).starts = h.starts := rfl
@[simp] theorem HostSide.add_tbs (h : HostSide) (f : RF) (n : Nat) : (h.add f n).tbs = h.tbs := rfl
@[simp] theorem HostSide.add_cmpLate (h : HostSide) (f : RF) (n : Nat) : (h.add f n).cmpLate = h.cmpLate := rfl
@[simp] theorem HostSide.add_pps (h : HostSide) (f : RF) (n : Nat) : (h.add f n).pps = h.pps := rfl
@[simp] theorem HostSide.add_chain (h : HostSide) (f : RF) (n : Nat) : (h.add f n).chain = h.chain := rfl
@[simp] theorem HostSide.add_eth (h : HostSide) (f : RF) (n : Nat) : (h.add f n).eth = h.eth := rfl
@[simp] theorem HostSide.add_hdw (h : HostSide) (f : RF) (n : Nat) : (h.add f n).hdw = h.hdw := rfl
@[simp] theorem HostSide.add_dbg (h : HostSide) (f : RF) (n : Nat) : (h.add f n).dbg = h.dbg := rfl
@[simp] theorem HostSide.add_mgmt (h : HostSide) (f : RF) (n : Nat) : (h.add f n).mgmt = h.mgmt := rfl
@[simp] theorem HostSide.add_pcieLink (h : HostSide) (f : RF) (n : Nat) : (h.add f n).pcieLink = h.pcieLink := rfl
@[simp] theorem HostSide.add_noPower (h : HostSide) (f : RF) (n : Nat) : (h.add f n).noPower = h.noPower := rfl
@[simp] theorem HostSide.add_down (h : HostSide) (f : RF) (n : Nat) : (h.add f n).down = h.down := rfl
@[simp] theorem HostSide.add_spGen (h : HostSide) (f : RF) (n : Nat) : (h.add f n).spGen = h.spGen := rfl
@[simp] theorem HostSide.add_boots (h : HostSide) (f : RF) (n : Nat) : (h.add f n).boots = h.boots := rfl

@[simp] theorem HostSide.inc_latch (h : HostSide) (f : RF) (n : Nat) : (h.inc f n).latch = h.latch := rfl
@[simp] theorem HostSide.inc_readData (h : HostSide) (f : RF) (n : Nat) : (h.inc f n).readData = h.readData := rfl
@[simp] theorem HostSide.inc_mem (h : HostSide) (f : RF) (n : Nat) : (h.inc f n).mem = h.mem := rfl
@[simp] theorem HostSide.inc_noRead (h : HostSide) (f : RF) (n : Nat) : (h.inc f n).noRead = h.noRead := rfl
@[simp] theorem HostSide.inc_bme (h : HostSide) (f : RF) (n : Nat) : (h.inc f n).bme = h.bme := rfl
@[simp] theorem HostSide.inc_pm (h : HostSide) (f : RF) (n : Nat) : (h.inc f n).pm = h.pm := rfl
@[simp] theorem HostSide.inc_sq (h : HostSide) (f : RF) (n : Nat) : (h.inc f n).sq = h.sq := rfl
@[simp] theorem HostSide.inc_lastQ (h : HostSide) (f : RF) (n : Nat) : (h.inc f n).lastQ = h.lastQ := rfl
@[simp] theorem HostSide.inc_rings (h : HostSide) (f : RF) (n : Nat) : (h.inc f n).rings = h.rings := rfl
@[simp] theorem HostSide.inc_vecs (h : HostSide) (f : RF) (n : Nat) : (h.inc f n).vecs = h.vecs := rfl
@[simp] theorem HostSide.inc_gauge (h : HostSide) (f : RF) (n : Nat) : (h.inc f n).gauge = h.gauge := rfl
@[simp] theorem HostSide.inc_hbm (h : HostSide) (f : RF) (n : Nat) : (h.inc f n).hbm = h.hbm := rfl
@[simp] theorem HostSide.inc_lstore (h : HostSide) (f : RF) (n : Nat) : (h.inc f n).lstore = h.lstore := rfl
@[simp] theorem HostSide.inc_lsDirty (h : HostSide) (f : RF) (n : Nat) : (h.inc f n).lsDirty = h.lsDirty := rfl
@[simp] theorem HostSide.inc_slu (h : HostSide) (f : RF) (n : Nat) : (h.inc f n).slu = h.slu := rfl
@[simp] theorem HostSide.inc_cores (h : HostSide) (f : RF) (n : Nat) : (h.inc f n).cores = h.cores := rfl
@[simp] theorem HostSide.inc_lsc (h : HostSide) (f : RF) (n : Nat) : (h.inc f n).lsc = h.lsc := rfl
@[simp] theorem HostSide.inc_bar (h : HostSide) (f : RF) (n : Nat) : (h.inc f n).bar = h.bar := rfl
@[simp] theorem HostSide.inc_fresh (h : HostSide) (f : RF) (n : Nat) : (h.inc f n).fresh = h.fresh := rfl
@[simp] theorem HostSide.inc_ctxs (h : HostSide) (f : RF) (n : Nat) : (h.inc f n).ctxs = h.ctxs := rfl
@[simp] theorem HostSide.inc_lanes (h : HostSide) (f : RF) (n : Nat) : (h.inc f n).lanes = h.lanes := rfl
@[simp] theorem HostSide.inc_links (h : HostSide) (f : RF) (n : Nat) : (h.inc f n).links = h.links := rfl
@[simp] theorem HostSide.inc_ports (h : HostSide) (f : RF) (n : Nat) : (h.inc f n).ports = h.ports := rfl
@[simp] theorem HostSide.inc_heldCtx (h : HostSide) (f : RF) (n : Nat) : (h.inc f n).heldCtx = h.heldCtx := rfl
@[simp] theorem HostSide.inc_pipes (h : HostSide) (f : RF) (n : Nat) : (h.inc f n).pipes = h.pipes := rfl
@[simp] theorem HostSide.inc_powerOns (h : HostSide) (f : RF) (n : Nat) : (h.inc f n).powerOns = h.powerOns := rfl
@[simp] theorem HostSide.inc_insp (h : HostSide) (f : RF) (n : Nat) : (h.inc f n).insp = h.insp := rfl
@[simp] theorem HostSide.inc_comp (h : HostSide) (f : RF) (n : Nat) : (h.inc f n).comp = h.comp := rfl
@[simp] theorem HostSide.inc_remoteReply (h : HostSide) (f : RF) (n : Nat) : (h.inc f n).remoteReply = h.remoteReply := rfl
@[simp] theorem HostSide.inc_remoteSent (h : HostSide) (f : RF) (n : Nat) : (h.inc f n).remoteSent = h.remoteSent := rfl
@[simp] theorem HostSide.inc_starts (h : HostSide) (f : RF) (n : Nat) : (h.inc f n).starts = h.starts := rfl
@[simp] theorem HostSide.inc_tbs (h : HostSide) (f : RF) (n : Nat) : (h.inc f n).tbs = h.tbs := rfl
@[simp] theorem HostSide.inc_cmpLate (h : HostSide) (f : RF) (n : Nat) : (h.inc f n).cmpLate = h.cmpLate := rfl
@[simp] theorem HostSide.inc_pps (h : HostSide) (f : RF) (n : Nat) : (h.inc f n).pps = h.pps := rfl
@[simp] theorem HostSide.inc_chain (h : HostSide) (f : RF) (n : Nat) : (h.inc f n).chain = h.chain := rfl
@[simp] theorem HostSide.inc_eth (h : HostSide) (f : RF) (n : Nat) : (h.inc f n).eth = h.eth := rfl
@[simp] theorem HostSide.inc_hdw (h : HostSide) (f : RF) (n : Nat) : (h.inc f n).hdw = h.hdw := rfl
@[simp] theorem HostSide.inc_dbg (h : HostSide) (f : RF) (n : Nat) : (h.inc f n).dbg = h.dbg := rfl
@[simp] theorem HostSide.inc_mgmt (h : HostSide) (f : RF) (n : Nat) : (h.inc f n).mgmt = h.mgmt := rfl
@[simp] theorem HostSide.inc_pcieLink (h : HostSide) (f : RF) (n : Nat) : (h.inc f n).pcieLink = h.pcieLink := rfl
@[simp] theorem HostSide.inc_noPower (h : HostSide) (f : RF) (n : Nat) : (h.inc f n).noPower = h.noPower := rfl
@[simp] theorem HostSide.inc_down (h : HostSide) (f : RF) (n : Nat) : (h.inc f n).down = h.down := rfl
@[simp] theorem HostSide.inc_spGen (h : HostSide) (f : RF) (n : Nat) : (h.inc f n).spGen = h.spGen := rfl
@[simp] theorem HostSide.inc_boots (h : HostSide) (f : RF) (n : Nat) : (h.inc f n).boots = h.boots := rfl

@[simp] theorem HostSide.set2_latch (h : HostSide) (lo hi : RF) (v : Nat) : (h.set2 lo hi v).latch = h.latch := rfl
@[simp] theorem HostSide.set2_readData (h : HostSide) (lo hi : RF) (v : Nat) : (h.set2 lo hi v).readData = h.readData := rfl
@[simp] theorem HostSide.set2_mem (h : HostSide) (lo hi : RF) (v : Nat) : (h.set2 lo hi v).mem = h.mem := rfl
@[simp] theorem HostSide.set2_noRead (h : HostSide) (lo hi : RF) (v : Nat) : (h.set2 lo hi v).noRead = h.noRead := rfl
@[simp] theorem HostSide.set2_bme (h : HostSide) (lo hi : RF) (v : Nat) : (h.set2 lo hi v).bme = h.bme := rfl
@[simp] theorem HostSide.set2_pm (h : HostSide) (lo hi : RF) (v : Nat) : (h.set2 lo hi v).pm = h.pm := rfl
@[simp] theorem HostSide.set2_sq (h : HostSide) (lo hi : RF) (v : Nat) : (h.set2 lo hi v).sq = h.sq := rfl
@[simp] theorem HostSide.set2_lastQ (h : HostSide) (lo hi : RF) (v : Nat) : (h.set2 lo hi v).lastQ = h.lastQ := rfl
@[simp] theorem HostSide.set2_rings (h : HostSide) (lo hi : RF) (v : Nat) : (h.set2 lo hi v).rings = h.rings := rfl
@[simp] theorem HostSide.set2_vecs (h : HostSide) (lo hi : RF) (v : Nat) : (h.set2 lo hi v).vecs = h.vecs := rfl
@[simp] theorem HostSide.set2_gauge (h : HostSide) (lo hi : RF) (v : Nat) : (h.set2 lo hi v).gauge = h.gauge := rfl
@[simp] theorem HostSide.set2_hbm (h : HostSide) (lo hi : RF) (v : Nat) : (h.set2 lo hi v).hbm = h.hbm := rfl
@[simp] theorem HostSide.set2_lstore (h : HostSide) (lo hi : RF) (v : Nat) : (h.set2 lo hi v).lstore = h.lstore := rfl
@[simp] theorem HostSide.set2_lsDirty (h : HostSide) (lo hi : RF) (v : Nat) : (h.set2 lo hi v).lsDirty = h.lsDirty := rfl
@[simp] theorem HostSide.set2_slu (h : HostSide) (lo hi : RF) (v : Nat) : (h.set2 lo hi v).slu = h.slu := rfl
@[simp] theorem HostSide.set2_cores (h : HostSide) (lo hi : RF) (v : Nat) : (h.set2 lo hi v).cores = h.cores := rfl
@[simp] theorem HostSide.set2_lsc (h : HostSide) (lo hi : RF) (v : Nat) : (h.set2 lo hi v).lsc = h.lsc := rfl
@[simp] theorem HostSide.set2_bar (h : HostSide) (lo hi : RF) (v : Nat) : (h.set2 lo hi v).bar = h.bar := rfl
@[simp] theorem HostSide.set2_fresh (h : HostSide) (lo hi : RF) (v : Nat) : (h.set2 lo hi v).fresh = h.fresh := rfl
@[simp] theorem HostSide.set2_ctxs (h : HostSide) (lo hi : RF) (v : Nat) : (h.set2 lo hi v).ctxs = h.ctxs := rfl
@[simp] theorem HostSide.set2_lanes (h : HostSide) (lo hi : RF) (v : Nat) : (h.set2 lo hi v).lanes = h.lanes := rfl
@[simp] theorem HostSide.set2_links (h : HostSide) (lo hi : RF) (v : Nat) : (h.set2 lo hi v).links = h.links := rfl
@[simp] theorem HostSide.set2_ports (h : HostSide) (lo hi : RF) (v : Nat) : (h.set2 lo hi v).ports = h.ports := rfl
@[simp] theorem HostSide.set2_heldCtx (h : HostSide) (lo hi : RF) (v : Nat) : (h.set2 lo hi v).heldCtx = h.heldCtx := rfl
@[simp] theorem HostSide.set2_pipes (h : HostSide) (lo hi : RF) (v : Nat) : (h.set2 lo hi v).pipes = h.pipes := rfl
@[simp] theorem HostSide.set2_powerOns (h : HostSide) (lo hi : RF) (v : Nat) : (h.set2 lo hi v).powerOns = h.powerOns := rfl
@[simp] theorem HostSide.set2_insp (h : HostSide) (lo hi : RF) (v : Nat) : (h.set2 lo hi v).insp = h.insp := rfl
@[simp] theorem HostSide.set2_comp (h : HostSide) (lo hi : RF) (v : Nat) : (h.set2 lo hi v).comp = h.comp := rfl
@[simp] theorem HostSide.set2_remoteReply (h : HostSide) (lo hi : RF) (v : Nat) : (h.set2 lo hi v).remoteReply = h.remoteReply := rfl
@[simp] theorem HostSide.set2_remoteSent (h : HostSide) (lo hi : RF) (v : Nat) : (h.set2 lo hi v).remoteSent = h.remoteSent := rfl
@[simp] theorem HostSide.set2_starts (h : HostSide) (lo hi : RF) (v : Nat) : (h.set2 lo hi v).starts = h.starts := rfl
@[simp] theorem HostSide.set2_tbs (h : HostSide) (lo hi : RF) (v : Nat) : (h.set2 lo hi v).tbs = h.tbs := rfl
@[simp] theorem HostSide.set2_cmpLate (h : HostSide) (lo hi : RF) (v : Nat) : (h.set2 lo hi v).cmpLate = h.cmpLate := rfl
@[simp] theorem HostSide.set2_pps (h : HostSide) (lo hi : RF) (v : Nat) : (h.set2 lo hi v).pps = h.pps := rfl
@[simp] theorem HostSide.set2_chain (h : HostSide) (lo hi : RF) (v : Nat) : (h.set2 lo hi v).chain = h.chain := rfl
@[simp] theorem HostSide.set2_eth (h : HostSide) (lo hi : RF) (v : Nat) : (h.set2 lo hi v).eth = h.eth := rfl
@[simp] theorem HostSide.set2_hdw (h : HostSide) (lo hi : RF) (v : Nat) : (h.set2 lo hi v).hdw = h.hdw := rfl
@[simp] theorem HostSide.set2_dbg (h : HostSide) (lo hi : RF) (v : Nat) : (h.set2 lo hi v).dbg = h.dbg := rfl
@[simp] theorem HostSide.set2_mgmt (h : HostSide) (lo hi : RF) (v : Nat) : (h.set2 lo hi v).mgmt = h.mgmt := rfl
@[simp] theorem HostSide.set2_pcieLink (h : HostSide) (lo hi : RF) (v : Nat) : (h.set2 lo hi v).pcieLink = h.pcieLink := rfl
@[simp] theorem HostSide.set2_noPower (h : HostSide) (lo hi : RF) (v : Nat) : (h.set2 lo hi v).noPower = h.noPower := rfl
@[simp] theorem HostSide.set2_down (h : HostSide) (lo hi : RF) (v : Nat) : (h.set2 lo hi v).down = h.down := rfl
@[simp] theorem HostSide.set2_spGen (h : HostSide) (lo hi : RF) (v : Nat) : (h.set2 lo hi v).spGen = h.spGen := rfl
@[simp] theorem HostSide.set2_boots (h : HostSide) (lo hi : RF) (v : Nat) : (h.set2 lo hi v).boots = h.boots := rfl

@[simp] theorem HostSide.nextCseq_latch (h : HostSide) : (h.nextCseq).latch = h.latch := rfl
@[simp] theorem HostSide.nextCseq_readData (h : HostSide) : (h.nextCseq).readData = h.readData := rfl
@[simp] theorem HostSide.nextCseq_mem (h : HostSide) : (h.nextCseq).mem = h.mem := rfl
@[simp] theorem HostSide.nextCseq_noRead (h : HostSide) : (h.nextCseq).noRead = h.noRead := rfl
@[simp] theorem HostSide.nextCseq_bme (h : HostSide) : (h.nextCseq).bme = h.bme := rfl
@[simp] theorem HostSide.nextCseq_pm (h : HostSide) : (h.nextCseq).pm = h.pm := rfl
@[simp] theorem HostSide.nextCseq_sq (h : HostSide) : (h.nextCseq).sq = h.sq := rfl
@[simp] theorem HostSide.nextCseq_lastQ (h : HostSide) : (h.nextCseq).lastQ = h.lastQ := rfl
@[simp] theorem HostSide.nextCseq_rings (h : HostSide) : (h.nextCseq).rings = h.rings := rfl
@[simp] theorem HostSide.nextCseq_vecs (h : HostSide) : (h.nextCseq).vecs = h.vecs := rfl
@[simp] theorem HostSide.nextCseq_gauge (h : HostSide) : (h.nextCseq).gauge = h.gauge := rfl
@[simp] theorem HostSide.nextCseq_hbm (h : HostSide) : (h.nextCseq).hbm = h.hbm := rfl
@[simp] theorem HostSide.nextCseq_lstore (h : HostSide) : (h.nextCseq).lstore = h.lstore := rfl
@[simp] theorem HostSide.nextCseq_lsDirty (h : HostSide) : (h.nextCseq).lsDirty = h.lsDirty := rfl
@[simp] theorem HostSide.nextCseq_slu (h : HostSide) : (h.nextCseq).slu = h.slu := rfl
@[simp] theorem HostSide.nextCseq_cores (h : HostSide) : (h.nextCseq).cores = h.cores := rfl
@[simp] theorem HostSide.nextCseq_lsc (h : HostSide) : (h.nextCseq).lsc = h.lsc := rfl
@[simp] theorem HostSide.nextCseq_bar (h : HostSide) : (h.nextCseq).bar = h.bar := rfl
@[simp] theorem HostSide.nextCseq_fresh (h : HostSide) : (h.nextCseq).fresh = h.fresh := rfl
@[simp] theorem HostSide.nextCseq_ctxs (h : HostSide) : (h.nextCseq).ctxs = h.ctxs := rfl
@[simp] theorem HostSide.nextCseq_lanes (h : HostSide) : (h.nextCseq).lanes = h.lanes := rfl
@[simp] theorem HostSide.nextCseq_links (h : HostSide) : (h.nextCseq).links = h.links := rfl
@[simp] theorem HostSide.nextCseq_ports (h : HostSide) : (h.nextCseq).ports = h.ports := rfl
@[simp] theorem HostSide.nextCseq_heldCtx (h : HostSide) : (h.nextCseq).heldCtx = h.heldCtx := rfl
@[simp] theorem HostSide.nextCseq_pipes (h : HostSide) : (h.nextCseq).pipes = h.pipes := rfl
@[simp] theorem HostSide.nextCseq_powerOns (h : HostSide) : (h.nextCseq).powerOns = h.powerOns := rfl
@[simp] theorem HostSide.nextCseq_insp (h : HostSide) : (h.nextCseq).insp = h.insp := rfl
@[simp] theorem HostSide.nextCseq_comp (h : HostSide) : (h.nextCseq).comp = h.comp := rfl
@[simp] theorem HostSide.nextCseq_remoteReply (h : HostSide) : (h.nextCseq).remoteReply = h.remoteReply := rfl
@[simp] theorem HostSide.nextCseq_remoteSent (h : HostSide) : (h.nextCseq).remoteSent = h.remoteSent := rfl
@[simp] theorem HostSide.nextCseq_starts (h : HostSide) : (h.nextCseq).starts = h.starts := rfl
@[simp] theorem HostSide.nextCseq_tbs (h : HostSide) : (h.nextCseq).tbs = h.tbs := rfl
@[simp] theorem HostSide.nextCseq_cmpLate (h : HostSide) : (h.nextCseq).cmpLate = h.cmpLate := rfl
@[simp] theorem HostSide.nextCseq_pps (h : HostSide) : (h.nextCseq).pps = h.pps := rfl
@[simp] theorem HostSide.nextCseq_chain (h : HostSide) : (h.nextCseq).chain = h.chain := rfl
@[simp] theorem HostSide.nextCseq_eth (h : HostSide) : (h.nextCseq).eth = h.eth := rfl
@[simp] theorem HostSide.nextCseq_hdw (h : HostSide) : (h.nextCseq).hdw = h.hdw := rfl
@[simp] theorem HostSide.nextCseq_dbg (h : HostSide) : (h.nextCseq).dbg = h.dbg := rfl
@[simp] theorem HostSide.nextCseq_mgmt (h : HostSide) : (h.nextCseq).mgmt = h.mgmt := rfl
@[simp] theorem HostSide.nextCseq_pcieLink (h : HostSide) : (h.nextCseq).pcieLink = h.pcieLink := rfl
@[simp] theorem HostSide.nextCseq_noPower (h : HostSide) : (h.nextCseq).noPower = h.noPower := rfl
@[simp] theorem HostSide.nextCseq_down (h : HostSide) : (h.nextCseq).down = h.down := rfl
@[simp] theorem HostSide.nextCseq_spGen (h : HostSide) : (h.nextCseq).spGen = h.spGen := rfl
@[simp] theorem HostSide.nextCseq_boots (h : HostSide) : (h.nextCseq).boots = h.boots := rfl

@[simp] theorem HostSide.setVec_regs (h : HostSide) (v : Nat) (x : Vec) : (h.setVec v x).regs = h.regs := rfl
@[simp] theorem HostSide.setVec_latch (h : HostSide) (v : Nat) (x : Vec) : (h.setVec v x).latch = h.latch := rfl
@[simp] theorem HostSide.setVec_readData (h : HostSide) (v : Nat) (x : Vec) : (h.setVec v x).readData = h.readData := rfl
@[simp] theorem HostSide.setVec_mem (h : HostSide) (v : Nat) (x : Vec) : (h.setVec v x).mem = h.mem := rfl
@[simp] theorem HostSide.setVec_noRead (h : HostSide) (v : Nat) (x : Vec) : (h.setVec v x).noRead = h.noRead := rfl
@[simp] theorem HostSide.setVec_bme (h : HostSide) (v : Nat) (x : Vec) : (h.setVec v x).bme = h.bme := rfl
@[simp] theorem HostSide.setVec_pm (h : HostSide) (v : Nat) (x : Vec) : (h.setVec v x).pm = h.pm := rfl
@[simp] theorem HostSide.setVec_sq (h : HostSide) (v : Nat) (x : Vec) : (h.setVec v x).sq = h.sq := rfl
@[simp] theorem HostSide.setVec_lastQ (h : HostSide) (v : Nat) (x : Vec) : (h.setVec v x).lastQ = h.lastQ := rfl
@[simp] theorem HostSide.setVec_rings (h : HostSide) (v : Nat) (x : Vec) : (h.setVec v x).rings = h.rings := rfl
@[simp] theorem HostSide.setVec_gauge (h : HostSide) (v : Nat) (x : Vec) : (h.setVec v x).gauge = h.gauge := rfl
@[simp] theorem HostSide.setVec_hbm (h : HostSide) (v : Nat) (x : Vec) : (h.setVec v x).hbm = h.hbm := rfl
@[simp] theorem HostSide.setVec_lstore (h : HostSide) (v : Nat) (x : Vec) : (h.setVec v x).lstore = h.lstore := rfl
@[simp] theorem HostSide.setVec_lsDirty (h : HostSide) (v : Nat) (x : Vec) : (h.setVec v x).lsDirty = h.lsDirty := rfl
@[simp] theorem HostSide.setVec_slu (h : HostSide) (v : Nat) (x : Vec) : (h.setVec v x).slu = h.slu := rfl
@[simp] theorem HostSide.setVec_cores (h : HostSide) (v : Nat) (x : Vec) : (h.setVec v x).cores = h.cores := rfl
@[simp] theorem HostSide.setVec_lsc (h : HostSide) (v : Nat) (x : Vec) : (h.setVec v x).lsc = h.lsc := rfl
@[simp] theorem HostSide.setVec_bar (h : HostSide) (v : Nat) (x : Vec) : (h.setVec v x).bar = h.bar := rfl
@[simp] theorem HostSide.setVec_fresh (h : HostSide) (v : Nat) (x : Vec) : (h.setVec v x).fresh = h.fresh := rfl
@[simp] theorem HostSide.setVec_ctxs (h : HostSide) (v : Nat) (x : Vec) : (h.setVec v x).ctxs = h.ctxs := rfl
@[simp] theorem HostSide.setVec_lanes (h : HostSide) (v : Nat) (x : Vec) : (h.setVec v x).lanes = h.lanes := rfl
@[simp] theorem HostSide.setVec_links (h : HostSide) (v : Nat) (x : Vec) : (h.setVec v x).links = h.links := rfl
@[simp] theorem HostSide.setVec_ports (h : HostSide) (v : Nat) (x : Vec) : (h.setVec v x).ports = h.ports := rfl
@[simp] theorem HostSide.setVec_heldCtx (h : HostSide) (v : Nat) (x : Vec) : (h.setVec v x).heldCtx = h.heldCtx := rfl
@[simp] theorem HostSide.setVec_pipes (h : HostSide) (v : Nat) (x : Vec) : (h.setVec v x).pipes = h.pipes := rfl
@[simp] theorem HostSide.setVec_powerOns (h : HostSide) (v : Nat) (x : Vec) : (h.setVec v x).powerOns = h.powerOns := rfl
@[simp] theorem HostSide.setVec_insp (h : HostSide) (v : Nat) (x : Vec) : (h.setVec v x).insp = h.insp := rfl
@[simp] theorem HostSide.setVec_comp (h : HostSide) (v : Nat) (x : Vec) : (h.setVec v x).comp = h.comp := rfl
@[simp] theorem HostSide.setVec_remoteReply (h : HostSide) (v : Nat) (x : Vec) : (h.setVec v x).remoteReply = h.remoteReply := rfl
@[simp] theorem HostSide.setVec_remoteSent (h : HostSide) (v : Nat) (x : Vec) : (h.setVec v x).remoteSent = h.remoteSent := rfl
@[simp] theorem HostSide.setVec_starts (h : HostSide) (v : Nat) (x : Vec) : (h.setVec v x).starts = h.starts := rfl
@[simp] theorem HostSide.setVec_tbs (h : HostSide) (v : Nat) (x : Vec) : (h.setVec v x).tbs = h.tbs := rfl
@[simp] theorem HostSide.setVec_cmpLate (h : HostSide) (v : Nat) (x : Vec) : (h.setVec v x).cmpLate = h.cmpLate := rfl
@[simp] theorem HostSide.setVec_pps (h : HostSide) (v : Nat) (x : Vec) : (h.setVec v x).pps = h.pps := rfl
@[simp] theorem HostSide.setVec_chain (h : HostSide) (v : Nat) (x : Vec) : (h.setVec v x).chain = h.chain := rfl
@[simp] theorem HostSide.setVec_eth (h : HostSide) (v : Nat) (x : Vec) : (h.setVec v x).eth = h.eth := rfl
@[simp] theorem HostSide.setVec_hdw (h : HostSide) (v : Nat) (x : Vec) : (h.setVec v x).hdw = h.hdw := rfl
@[simp] theorem HostSide.setVec_dbg (h : HostSide) (v : Nat) (x : Vec) : (h.setVec v x).dbg = h.dbg := rfl
@[simp] theorem HostSide.setVec_mgmt (h : HostSide) (v : Nat) (x : Vec) : (h.setVec v x).mgmt = h.mgmt := rfl
@[simp] theorem HostSide.setVec_pcieLink (h : HostSide) (v : Nat) (x : Vec) : (h.setVec v x).pcieLink = h.pcieLink := rfl
@[simp] theorem HostSide.setVec_noPower (h : HostSide) (v : Nat) (x : Vec) : (h.setVec v x).noPower = h.noPower := rfl
@[simp] theorem HostSide.setVec_down (h : HostSide) (v : Nat) (x : Vec) : (h.setVec v x).down = h.down := rfl
@[simp] theorem HostSide.setVec_spGen (h : HostSide) (v : Nat) (x : Vec) : (h.setVec v x).spGen = h.spGen := rfl
@[simp] theorem HostSide.setVec_boots (h : HostSide) (v : Nat) (x : Vec) : (h.setVec v x).boots = h.boots := rfl

@[simp] theorem HostSide.setHbm_regs (h : HostSide) (g : Nat) (x : Store) : (h.setHbm g x).regs = h.regs := rfl
@[simp] theorem HostSide.setHbm_latch (h : HostSide) (g : Nat) (x : Store) : (h.setHbm g x).latch = h.latch := rfl
@[simp] theorem HostSide.setHbm_readData (h : HostSide) (g : Nat) (x : Store) : (h.setHbm g x).readData = h.readData := rfl
@[simp] theorem HostSide.setHbm_mem (h : HostSide) (g : Nat) (x : Store) : (h.setHbm g x).mem = h.mem := rfl
@[simp] theorem HostSide.setHbm_noRead (h : HostSide) (g : Nat) (x : Store) : (h.setHbm g x).noRead = h.noRead := rfl
@[simp] theorem HostSide.setHbm_bme (h : HostSide) (g : Nat) (x : Store) : (h.setHbm g x).bme = h.bme := rfl
@[simp] theorem HostSide.setHbm_pm (h : HostSide) (g : Nat) (x : Store) : (h.setHbm g x).pm = h.pm := rfl
@[simp] theorem HostSide.setHbm_sq (h : HostSide) (g : Nat) (x : Store) : (h.setHbm g x).sq = h.sq := rfl
@[simp] theorem HostSide.setHbm_lastQ (h : HostSide) (g : Nat) (x : Store) : (h.setHbm g x).lastQ = h.lastQ := rfl
@[simp] theorem HostSide.setHbm_rings (h : HostSide) (g : Nat) (x : Store) : (h.setHbm g x).rings = h.rings := rfl
@[simp] theorem HostSide.setHbm_vecs (h : HostSide) (g : Nat) (x : Store) : (h.setHbm g x).vecs = h.vecs := rfl
@[simp] theorem HostSide.setHbm_gauge (h : HostSide) (g : Nat) (x : Store) : (h.setHbm g x).gauge = h.gauge := rfl
@[simp] theorem HostSide.setHbm_lstore (h : HostSide) (g : Nat) (x : Store) : (h.setHbm g x).lstore = h.lstore := rfl
@[simp] theorem HostSide.setHbm_lsDirty (h : HostSide) (g : Nat) (x : Store) : (h.setHbm g x).lsDirty = h.lsDirty := rfl
@[simp] theorem HostSide.setHbm_slu (h : HostSide) (g : Nat) (x : Store) : (h.setHbm g x).slu = h.slu := rfl
@[simp] theorem HostSide.setHbm_cores (h : HostSide) (g : Nat) (x : Store) : (h.setHbm g x).cores = h.cores := rfl
@[simp] theorem HostSide.setHbm_lsc (h : HostSide) (g : Nat) (x : Store) : (h.setHbm g x).lsc = h.lsc := rfl
@[simp] theorem HostSide.setHbm_bar (h : HostSide) (g : Nat) (x : Store) : (h.setHbm g x).bar = h.bar := rfl
@[simp] theorem HostSide.setHbm_fresh (h : HostSide) (g : Nat) (x : Store) : (h.setHbm g x).fresh = h.fresh := rfl
@[simp] theorem HostSide.setHbm_ctxs (h : HostSide) (g : Nat) (x : Store) : (h.setHbm g x).ctxs = h.ctxs := rfl
@[simp] theorem HostSide.setHbm_lanes (h : HostSide) (g : Nat) (x : Store) : (h.setHbm g x).lanes = h.lanes := rfl
@[simp] theorem HostSide.setHbm_links (h : HostSide) (g : Nat) (x : Store) : (h.setHbm g x).links = h.links := rfl
@[simp] theorem HostSide.setHbm_ports (h : HostSide) (g : Nat) (x : Store) : (h.setHbm g x).ports = h.ports := rfl
@[simp] theorem HostSide.setHbm_heldCtx (h : HostSide) (g : Nat) (x : Store) : (h.setHbm g x).heldCtx = h.heldCtx := rfl
@[simp] theorem HostSide.setHbm_pipes (h : HostSide) (g : Nat) (x : Store) : (h.setHbm g x).pipes = h.pipes := rfl
@[simp] theorem HostSide.setHbm_powerOns (h : HostSide) (g : Nat) (x : Store) : (h.setHbm g x).powerOns = h.powerOns := rfl
@[simp] theorem HostSide.setHbm_insp (h : HostSide) (g : Nat) (x : Store) : (h.setHbm g x).insp = h.insp := rfl
@[simp] theorem HostSide.setHbm_comp (h : HostSide) (g : Nat) (x : Store) : (h.setHbm g x).comp = h.comp := rfl
@[simp] theorem HostSide.setHbm_remoteReply (h : HostSide) (g : Nat) (x : Store) : (h.setHbm g x).remoteReply = h.remoteReply := rfl
@[simp] theorem HostSide.setHbm_remoteSent (h : HostSide) (g : Nat) (x : Store) : (h.setHbm g x).remoteSent = h.remoteSent := rfl
@[simp] theorem HostSide.setHbm_starts (h : HostSide) (g : Nat) (x : Store) : (h.setHbm g x).starts = h.starts := rfl
@[simp] theorem HostSide.setHbm_tbs (h : HostSide) (g : Nat) (x : Store) : (h.setHbm g x).tbs = h.tbs := rfl
@[simp] theorem HostSide.setHbm_cmpLate (h : HostSide) (g : Nat) (x : Store) : (h.setHbm g x).cmpLate = h.cmpLate := rfl
@[simp] theorem HostSide.setHbm_pps (h : HostSide) (g : Nat) (x : Store) : (h.setHbm g x).pps = h.pps := rfl
@[simp] theorem HostSide.setHbm_chain (h : HostSide) (g : Nat) (x : Store) : (h.setHbm g x).chain = h.chain := rfl
@[simp] theorem HostSide.setHbm_eth (h : HostSide) (g : Nat) (x : Store) : (h.setHbm g x).eth = h.eth := rfl
@[simp] theorem HostSide.setHbm_hdw (h : HostSide) (g : Nat) (x : Store) : (h.setHbm g x).hdw = h.hdw := rfl
@[simp] theorem HostSide.setHbm_dbg (h : HostSide) (g : Nat) (x : Store) : (h.setHbm g x).dbg = h.dbg := rfl
@[simp] theorem HostSide.setHbm_mgmt (h : HostSide) (g : Nat) (x : Store) : (h.setHbm g x).mgmt = h.mgmt := rfl
@[simp] theorem HostSide.setHbm_pcieLink (h : HostSide) (g : Nat) (x : Store) : (h.setHbm g x).pcieLink = h.pcieLink := rfl
@[simp] theorem HostSide.setHbm_noPower (h : HostSide) (g : Nat) (x : Store) : (h.setHbm g x).noPower = h.noPower := rfl
@[simp] theorem HostSide.setHbm_down (h : HostSide) (g : Nat) (x : Store) : (h.setHbm g x).down = h.down := rfl
@[simp] theorem HostSide.setHbm_spGen (h : HostSide) (g : Nat) (x : Store) : (h.setHbm g x).spGen = h.spGen := rfl
@[simp] theorem HostSide.setHbm_boots (h : HostSide) (g : Nat) (x : Store) : (h.setHbm g x).boots = h.boots := rfl

@[simp] theorem HostSide.setLs_regs (h : HostSide) (k : Nat) (x : Store) : (h.setLs k x).regs = h.regs := rfl
@[simp] theorem HostSide.setLs_latch (h : HostSide) (k : Nat) (x : Store) : (h.setLs k x).latch = h.latch := rfl
@[simp] theorem HostSide.setLs_readData (h : HostSide) (k : Nat) (x : Store) : (h.setLs k x).readData = h.readData := rfl
@[simp] theorem HostSide.setLs_mem (h : HostSide) (k : Nat) (x : Store) : (h.setLs k x).mem = h.mem := rfl
@[simp] theorem HostSide.setLs_noRead (h : HostSide) (k : Nat) (x : Store) : (h.setLs k x).noRead = h.noRead := rfl
@[simp] theorem HostSide.setLs_bme (h : HostSide) (k : Nat) (x : Store) : (h.setLs k x).bme = h.bme := rfl
@[simp] theorem HostSide.setLs_pm (h : HostSide) (k : Nat) (x : Store) : (h.setLs k x).pm = h.pm := rfl
@[simp] theorem HostSide.setLs_sq (h : HostSide) (k : Nat) (x : Store) : (h.setLs k x).sq = h.sq := rfl
@[simp] theorem HostSide.setLs_lastQ (h : HostSide) (k : Nat) (x : Store) : (h.setLs k x).lastQ = h.lastQ := rfl
@[simp] theorem HostSide.setLs_rings (h : HostSide) (k : Nat) (x : Store) : (h.setLs k x).rings = h.rings := rfl
@[simp] theorem HostSide.setLs_vecs (h : HostSide) (k : Nat) (x : Store) : (h.setLs k x).vecs = h.vecs := rfl
@[simp] theorem HostSide.setLs_gauge (h : HostSide) (k : Nat) (x : Store) : (h.setLs k x).gauge = h.gauge := rfl
@[simp] theorem HostSide.setLs_hbm (h : HostSide) (k : Nat) (x : Store) : (h.setLs k x).hbm = h.hbm := rfl
@[simp] theorem HostSide.setLs_lsDirty (h : HostSide) (k : Nat) (x : Store) : (h.setLs k x).lsDirty = h.lsDirty := rfl
@[simp] theorem HostSide.setLs_slu (h : HostSide) (k : Nat) (x : Store) : (h.setLs k x).slu = h.slu := rfl
@[simp] theorem HostSide.setLs_cores (h : HostSide) (k : Nat) (x : Store) : (h.setLs k x).cores = h.cores := rfl
@[simp] theorem HostSide.setLs_lsc (h : HostSide) (k : Nat) (x : Store) : (h.setLs k x).lsc = h.lsc := rfl
@[simp] theorem HostSide.setLs_bar (h : HostSide) (k : Nat) (x : Store) : (h.setLs k x).bar = h.bar := rfl
@[simp] theorem HostSide.setLs_fresh (h : HostSide) (k : Nat) (x : Store) : (h.setLs k x).fresh = h.fresh := rfl
@[simp] theorem HostSide.setLs_ctxs (h : HostSide) (k : Nat) (x : Store) : (h.setLs k x).ctxs = h.ctxs := rfl
@[simp] theorem HostSide.setLs_lanes (h : HostSide) (k : Nat) (x : Store) : (h.setLs k x).lanes = h.lanes := rfl
@[simp] theorem HostSide.setLs_links (h : HostSide) (k : Nat) (x : Store) : (h.setLs k x).links = h.links := rfl
@[simp] theorem HostSide.setLs_ports (h : HostSide) (k : Nat) (x : Store) : (h.setLs k x).ports = h.ports := rfl
@[simp] theorem HostSide.setLs_heldCtx (h : HostSide) (k : Nat) (x : Store) : (h.setLs k x).heldCtx = h.heldCtx := rfl
@[simp] theorem HostSide.setLs_pipes (h : HostSide) (k : Nat) (x : Store) : (h.setLs k x).pipes = h.pipes := rfl
@[simp] theorem HostSide.setLs_powerOns (h : HostSide) (k : Nat) (x : Store) : (h.setLs k x).powerOns = h.powerOns := rfl
@[simp] theorem HostSide.setLs_insp (h : HostSide) (k : Nat) (x : Store) : (h.setLs k x).insp = h.insp := rfl
@[simp] theorem HostSide.setLs_comp (h : HostSide) (k : Nat) (x : Store) : (h.setLs k x).comp = h.comp := rfl
@[simp] theorem HostSide.setLs_remoteReply (h : HostSide) (k : Nat) (x : Store) : (h.setLs k x).remoteReply = h.remoteReply := rfl
@[simp] theorem HostSide.setLs_remoteSent (h : HostSide) (k : Nat) (x : Store) : (h.setLs k x).remoteSent = h.remoteSent := rfl
@[simp] theorem HostSide.setLs_starts (h : HostSide) (k : Nat) (x : Store) : (h.setLs k x).starts = h.starts := rfl
@[simp] theorem HostSide.setLs_tbs (h : HostSide) (k : Nat) (x : Store) : (h.setLs k x).tbs = h.tbs := rfl
@[simp] theorem HostSide.setLs_cmpLate (h : HostSide) (k : Nat) (x : Store) : (h.setLs k x).cmpLate = h.cmpLate := rfl
@[simp] theorem HostSide.setLs_pps (h : HostSide) (k : Nat) (x : Store) : (h.setLs k x).pps = h.pps := rfl
@[simp] theorem HostSide.setLs_chain (h : HostSide) (k : Nat) (x : Store) : (h.setLs k x).chain = h.chain := rfl
@[simp] theorem HostSide.setLs_eth (h : HostSide) (k : Nat) (x : Store) : (h.setLs k x).eth = h.eth := rfl
@[simp] theorem HostSide.setLs_hdw (h : HostSide) (k : Nat) (x : Store) : (h.setLs k x).hdw = h.hdw := rfl
@[simp] theorem HostSide.setLs_dbg (h : HostSide) (k : Nat) (x : Store) : (h.setLs k x).dbg = h.dbg := rfl
@[simp] theorem HostSide.setLs_mgmt (h : HostSide) (k : Nat) (x : Store) : (h.setLs k x).mgmt = h.mgmt := rfl
@[simp] theorem HostSide.setLs_pcieLink (h : HostSide) (k : Nat) (x : Store) : (h.setLs k x).pcieLink = h.pcieLink := rfl
@[simp] theorem HostSide.setLs_noPower (h : HostSide) (k : Nat) (x : Store) : (h.setLs k x).noPower = h.noPower := rfl
@[simp] theorem HostSide.setLs_down (h : HostSide) (k : Nat) (x : Store) : (h.setLs k x).down = h.down := rfl
@[simp] theorem HostSide.setLs_spGen (h : HostSide) (k : Nat) (x : Store) : (h.setLs k x).spGen = h.spGen := rfl
@[simp] theorem HostSide.setLs_boots (h : HostSide) (k : Nat) (x : Store) : (h.setLs k x).boots = h.boots := rfl

@[simp] theorem HostSide.dirtyLs_regs (h : HostSide) (k off n : Nat) : (h.dirtyLs k off n).regs = h.regs := rfl
@[simp] theorem HostSide.dirtyLs_latch (h : HostSide) (k off n : Nat) : (h.dirtyLs k off n).latch = h.latch := rfl
@[simp] theorem HostSide.dirtyLs_readData (h : HostSide) (k off n : Nat) : (h.dirtyLs k off n).readData = h.readData := rfl
@[simp] theorem HostSide.dirtyLs_mem (h : HostSide) (k off n : Nat) : (h.dirtyLs k off n).mem = h.mem := rfl
@[simp] theorem HostSide.dirtyLs_noRead (h : HostSide) (k off n : Nat) : (h.dirtyLs k off n).noRead = h.noRead := rfl
@[simp] theorem HostSide.dirtyLs_bme (h : HostSide) (k off n : Nat) : (h.dirtyLs k off n).bme = h.bme := rfl
@[simp] theorem HostSide.dirtyLs_pm (h : HostSide) (k off n : Nat) : (h.dirtyLs k off n).pm = h.pm := rfl
@[simp] theorem HostSide.dirtyLs_sq (h : HostSide) (k off n : Nat) : (h.dirtyLs k off n).sq = h.sq := rfl
@[simp] theorem HostSide.dirtyLs_lastQ (h : HostSide) (k off n : Nat) : (h.dirtyLs k off n).lastQ = h.lastQ := rfl
@[simp] theorem HostSide.dirtyLs_rings (h : HostSide) (k off n : Nat) : (h.dirtyLs k off n).rings = h.rings := rfl
@[simp] theorem HostSide.dirtyLs_vecs (h : HostSide) (k off n : Nat) : (h.dirtyLs k off n).vecs = h.vecs := rfl
@[simp] theorem HostSide.dirtyLs_gauge (h : HostSide) (k off n : Nat) : (h.dirtyLs k off n).gauge = h.gauge := rfl
@[simp] theorem HostSide.dirtyLs_hbm (h : HostSide) (k off n : Nat) : (h.dirtyLs k off n).hbm = h.hbm := rfl
@[simp] theorem HostSide.dirtyLs_lstore (h : HostSide) (k off n : Nat) : (h.dirtyLs k off n).lstore = h.lstore := rfl
@[simp] theorem HostSide.dirtyLs_slu (h : HostSide) (k off n : Nat) : (h.dirtyLs k off n).slu = h.slu := rfl
@[simp] theorem HostSide.dirtyLs_cores (h : HostSide) (k off n : Nat) : (h.dirtyLs k off n).cores = h.cores := rfl
@[simp] theorem HostSide.dirtyLs_lsc (h : HostSide) (k off n : Nat) : (h.dirtyLs k off n).lsc = h.lsc := rfl
@[simp] theorem HostSide.dirtyLs_bar (h : HostSide) (k off n : Nat) : (h.dirtyLs k off n).bar = h.bar := rfl
@[simp] theorem HostSide.dirtyLs_fresh (h : HostSide) (k off n : Nat) : (h.dirtyLs k off n).fresh = h.fresh := rfl
@[simp] theorem HostSide.dirtyLs_ctxs (h : HostSide) (k off n : Nat) : (h.dirtyLs k off n).ctxs = h.ctxs := rfl
@[simp] theorem HostSide.dirtyLs_lanes (h : HostSide) (k off n : Nat) : (h.dirtyLs k off n).lanes = h.lanes := rfl
@[simp] theorem HostSide.dirtyLs_links (h : HostSide) (k off n : Nat) : (h.dirtyLs k off n).links = h.links := rfl
@[simp] theorem HostSide.dirtyLs_ports (h : HostSide) (k off n : Nat) : (h.dirtyLs k off n).ports = h.ports := rfl
@[simp] theorem HostSide.dirtyLs_heldCtx (h : HostSide) (k off n : Nat) : (h.dirtyLs k off n).heldCtx = h.heldCtx := rfl
@[simp] theorem HostSide.dirtyLs_pipes (h : HostSide) (k off n : Nat) : (h.dirtyLs k off n).pipes = h.pipes := rfl
@[simp] theorem HostSide.dirtyLs_powerOns (h : HostSide) (k off n : Nat) : (h.dirtyLs k off n).powerOns = h.powerOns := rfl
@[simp] theorem HostSide.dirtyLs_insp (h : HostSide) (k off n : Nat) : (h.dirtyLs k off n).insp = h.insp := rfl
@[simp] theorem HostSide.dirtyLs_comp (h : HostSide) (k off n : Nat) : (h.dirtyLs k off n).comp = h.comp := rfl
@[simp] theorem HostSide.dirtyLs_remoteReply (h : HostSide) (k off n : Nat) : (h.dirtyLs k off n).remoteReply = h.remoteReply := rfl
@[simp] theorem HostSide.dirtyLs_remoteSent (h : HostSide) (k off n : Nat) : (h.dirtyLs k off n).remoteSent = h.remoteSent := rfl
@[simp] theorem HostSide.dirtyLs_starts (h : HostSide) (k off n : Nat) : (h.dirtyLs k off n).starts = h.starts := rfl
@[simp] theorem HostSide.dirtyLs_tbs (h : HostSide) (k off n : Nat) : (h.dirtyLs k off n).tbs = h.tbs := rfl
@[simp] theorem HostSide.dirtyLs_cmpLate (h : HostSide) (k off n : Nat) : (h.dirtyLs k off n).cmpLate = h.cmpLate := rfl
@[simp] theorem HostSide.dirtyLs_pps (h : HostSide) (k off n : Nat) : (h.dirtyLs k off n).pps = h.pps := rfl
@[simp] theorem HostSide.dirtyLs_chain (h : HostSide) (k off n : Nat) : (h.dirtyLs k off n).chain = h.chain := rfl
@[simp] theorem HostSide.dirtyLs_eth (h : HostSide) (k off n : Nat) : (h.dirtyLs k off n).eth = h.eth := rfl
@[simp] theorem HostSide.dirtyLs_hdw (h : HostSide) (k off n : Nat) : (h.dirtyLs k off n).hdw = h.hdw := rfl
@[simp] theorem HostSide.dirtyLs_dbg (h : HostSide) (k off n : Nat) : (h.dirtyLs k off n).dbg = h.dbg := rfl
@[simp] theorem HostSide.dirtyLs_mgmt (h : HostSide) (k off n : Nat) : (h.dirtyLs k off n).mgmt = h.mgmt := rfl
@[simp] theorem HostSide.dirtyLs_pcieLink (h : HostSide) (k off n : Nat) : (h.dirtyLs k off n).pcieLink = h.pcieLink := rfl
@[simp] theorem HostSide.dirtyLs_noPower (h : HostSide) (k off n : Nat) : (h.dirtyLs k off n).noPower = h.noPower := rfl
@[simp] theorem HostSide.dirtyLs_down (h : HostSide) (k off n : Nat) : (h.dirtyLs k off n).down = h.down := rfl
@[simp] theorem HostSide.dirtyLs_spGen (h : HostSide) (k off n : Nat) : (h.dirtyLs k off n).spGen = h.spGen := rfl
@[simp] theorem HostSide.dirtyLs_boots (h : HostSide) (k off n : Nat) : (h.dirtyLs k off n).boots = h.boots := rfl

@[simp] theorem HostSide.setCore_regs (h : HostSide) (i : Nat) (x : CoreSt) : (h.setCore i x).regs = h.regs := rfl
@[simp] theorem HostSide.setCore_latch (h : HostSide) (i : Nat) (x : CoreSt) : (h.setCore i x).latch = h.latch := rfl
@[simp] theorem HostSide.setCore_readData (h : HostSide) (i : Nat) (x : CoreSt) : (h.setCore i x).readData = h.readData := rfl
@[simp] theorem HostSide.setCore_mem (h : HostSide) (i : Nat) (x : CoreSt) : (h.setCore i x).mem = h.mem := rfl
@[simp] theorem HostSide.setCore_noRead (h : HostSide) (i : Nat) (x : CoreSt) : (h.setCore i x).noRead = h.noRead := rfl
@[simp] theorem HostSide.setCore_bme (h : HostSide) (i : Nat) (x : CoreSt) : (h.setCore i x).bme = h.bme := rfl
@[simp] theorem HostSide.setCore_pm (h : HostSide) (i : Nat) (x : CoreSt) : (h.setCore i x).pm = h.pm := rfl
@[simp] theorem HostSide.setCore_sq (h : HostSide) (i : Nat) (x : CoreSt) : (h.setCore i x).sq = h.sq := rfl
@[simp] theorem HostSide.setCore_lastQ (h : HostSide) (i : Nat) (x : CoreSt) : (h.setCore i x).lastQ = h.lastQ := rfl
@[simp] theorem HostSide.setCore_rings (h : HostSide) (i : Nat) (x : CoreSt) : (h.setCore i x).rings = h.rings := rfl
@[simp] theorem HostSide.setCore_vecs (h : HostSide) (i : Nat) (x : CoreSt) : (h.setCore i x).vecs = h.vecs := rfl
@[simp] theorem HostSide.setCore_gauge (h : HostSide) (i : Nat) (x : CoreSt) : (h.setCore i x).gauge = h.gauge := rfl
@[simp] theorem HostSide.setCore_hbm (h : HostSide) (i : Nat) (x : CoreSt) : (h.setCore i x).hbm = h.hbm := rfl
@[simp] theorem HostSide.setCore_lstore (h : HostSide) (i : Nat) (x : CoreSt) : (h.setCore i x).lstore = h.lstore := rfl
@[simp] theorem HostSide.setCore_lsDirty (h : HostSide) (i : Nat) (x : CoreSt) : (h.setCore i x).lsDirty = h.lsDirty := rfl
@[simp] theorem HostSide.setCore_slu (h : HostSide) (i : Nat) (x : CoreSt) : (h.setCore i x).slu = h.slu := rfl
@[simp] theorem HostSide.setCore_lsc (h : HostSide) (i : Nat) (x : CoreSt) : (h.setCore i x).lsc = h.lsc := rfl
@[simp] theorem HostSide.setCore_bar (h : HostSide) (i : Nat) (x : CoreSt) : (h.setCore i x).bar = h.bar := rfl
@[simp] theorem HostSide.setCore_fresh (h : HostSide) (i : Nat) (x : CoreSt) : (h.setCore i x).fresh = h.fresh := rfl
@[simp] theorem HostSide.setCore_ctxs (h : HostSide) (i : Nat) (x : CoreSt) : (h.setCore i x).ctxs = h.ctxs := rfl
@[simp] theorem HostSide.setCore_lanes (h : HostSide) (i : Nat) (x : CoreSt) : (h.setCore i x).lanes = h.lanes := rfl
@[simp] theorem HostSide.setCore_links (h : HostSide) (i : Nat) (x : CoreSt) : (h.setCore i x).links = h.links := rfl
@[simp] theorem HostSide.setCore_ports (h : HostSide) (i : Nat) (x : CoreSt) : (h.setCore i x).ports = h.ports := rfl
@[simp] theorem HostSide.setCore_heldCtx (h : HostSide) (i : Nat) (x : CoreSt) : (h.setCore i x).heldCtx = h.heldCtx := rfl
@[simp] theorem HostSide.setCore_pipes (h : HostSide) (i : Nat) (x : CoreSt) : (h.setCore i x).pipes = h.pipes := rfl
@[simp] theorem HostSide.setCore_powerOns (h : HostSide) (i : Nat) (x : CoreSt) : (h.setCore i x).powerOns = h.powerOns := rfl
@[simp] theorem HostSide.setCore_insp (h : HostSide) (i : Nat) (x : CoreSt) : (h.setCore i x).insp = h.insp := rfl
@[simp] theorem HostSide.setCore_comp (h : HostSide) (i : Nat) (x : CoreSt) : (h.setCore i x).comp = h.comp := rfl
@[simp] theorem HostSide.setCore_remoteReply (h : HostSide) (i : Nat) (x : CoreSt) : (h.setCore i x).remoteReply = h.remoteReply := rfl
@[simp] theorem HostSide.setCore_remoteSent (h : HostSide) (i : Nat) (x : CoreSt) : (h.setCore i x).remoteSent = h.remoteSent := rfl
@[simp] theorem HostSide.setCore_starts (h : HostSide) (i : Nat) (x : CoreSt) : (h.setCore i x).starts = h.starts := rfl
@[simp] theorem HostSide.setCore_tbs (h : HostSide) (i : Nat) (x : CoreSt) : (h.setCore i x).tbs = h.tbs := rfl
@[simp] theorem HostSide.setCore_cmpLate (h : HostSide) (i : Nat) (x : CoreSt) : (h.setCore i x).cmpLate = h.cmpLate := rfl
@[simp] theorem HostSide.setCore_pps (h : HostSide) (i : Nat) (x : CoreSt) : (h.setCore i x).pps = h.pps := rfl
@[simp] theorem HostSide.setCore_chain (h : HostSide) (i : Nat) (x : CoreSt) : (h.setCore i x).chain = h.chain := rfl
@[simp] theorem HostSide.setCore_eth (h : HostSide) (i : Nat) (x : CoreSt) : (h.setCore i x).eth = h.eth := rfl
@[simp] theorem HostSide.setCore_hdw (h : HostSide) (i : Nat) (x : CoreSt) : (h.setCore i x).hdw = h.hdw := rfl
@[simp] theorem HostSide.setCore_dbg (h : HostSide) (i : Nat) (x : CoreSt) : (h.setCore i x).dbg = h.dbg := rfl
@[simp] theorem HostSide.setCore_mgmt (h : HostSide) (i : Nat) (x : CoreSt) : (h.setCore i x).mgmt = h.mgmt := rfl
@[simp] theorem HostSide.setCore_pcieLink (h : HostSide) (i : Nat) (x : CoreSt) : (h.setCore i x).pcieLink = h.pcieLink := rfl
@[simp] theorem HostSide.setCore_noPower (h : HostSide) (i : Nat) (x : CoreSt) : (h.setCore i x).noPower = h.noPower := rfl
@[simp] theorem HostSide.setCore_down (h : HostSide) (i : Nat) (x : CoreSt) : (h.setCore i x).down = h.down := rfl
@[simp] theorem HostSide.setCore_spGen (h : HostSide) (i : Nat) (x : CoreSt) : (h.setCore i x).spGen = h.spGen := rfl
@[simp] theorem HostSide.setCore_boots (h : HostSide) (i : Nat) (x : CoreSt) : (h.setCore i x).boots = h.boots := rfl

@[simp] theorem HostSide.setCtx_regs (h : HostSide) (i : Nat) (x : Ctx) : (h.setCtx i x).regs = h.regs := rfl
@[simp] theorem HostSide.setCtx_latch (h : HostSide) (i : Nat) (x : Ctx) : (h.setCtx i x).latch = h.latch := rfl
@[simp] theorem HostSide.setCtx_readData (h : HostSide) (i : Nat) (x : Ctx) : (h.setCtx i x).readData = h.readData := rfl
@[simp] theorem HostSide.setCtx_mem (h : HostSide) (i : Nat) (x : Ctx) : (h.setCtx i x).mem = h.mem := rfl
@[simp] theorem HostSide.setCtx_noRead (h : HostSide) (i : Nat) (x : Ctx) : (h.setCtx i x).noRead = h.noRead := rfl
@[simp] theorem HostSide.setCtx_bme (h : HostSide) (i : Nat) (x : Ctx) : (h.setCtx i x).bme = h.bme := rfl
@[simp] theorem HostSide.setCtx_pm (h : HostSide) (i : Nat) (x : Ctx) : (h.setCtx i x).pm = h.pm := rfl
@[simp] theorem HostSide.setCtx_sq (h : HostSide) (i : Nat) (x : Ctx) : (h.setCtx i x).sq = h.sq := rfl
@[simp] theorem HostSide.setCtx_lastQ (h : HostSide) (i : Nat) (x : Ctx) : (h.setCtx i x).lastQ = h.lastQ := rfl
@[simp] theorem HostSide.setCtx_rings (h : HostSide) (i : Nat) (x : Ctx) : (h.setCtx i x).rings = h.rings := rfl
@[simp] theorem HostSide.setCtx_vecs (h : HostSide) (i : Nat) (x : Ctx) : (h.setCtx i x).vecs = h.vecs := rfl
@[simp] theorem HostSide.setCtx_gauge (h : HostSide) (i : Nat) (x : Ctx) : (h.setCtx i x).gauge = h.gauge := rfl
@[simp] theorem HostSide.setCtx_hbm (h : HostSide) (i : Nat) (x : Ctx) : (h.setCtx i x).hbm = h.hbm := rfl
@[simp] theorem HostSide.setCtx_lstore (h : HostSide) (i : Nat) (x : Ctx) : (h.setCtx i x).lstore = h.lstore := rfl
@[simp] theorem HostSide.setCtx_lsDirty (h : HostSide) (i : Nat) (x : Ctx) : (h.setCtx i x).lsDirty = h.lsDirty := rfl
@[simp] theorem HostSide.setCtx_slu (h : HostSide) (i : Nat) (x : Ctx) : (h.setCtx i x).slu = h.slu := rfl
@[simp] theorem HostSide.setCtx_cores (h : HostSide) (i : Nat) (x : Ctx) : (h.setCtx i x).cores = h.cores := rfl
@[simp] theorem HostSide.setCtx_lsc (h : HostSide) (i : Nat) (x : Ctx) : (h.setCtx i x).lsc = h.lsc := rfl
@[simp] theorem HostSide.setCtx_bar (h : HostSide) (i : Nat) (x : Ctx) : (h.setCtx i x).bar = h.bar := rfl
@[simp] theorem HostSide.setCtx_fresh (h : HostSide) (i : Nat) (x : Ctx) : (h.setCtx i x).fresh = h.fresh := rfl
@[simp] theorem HostSide.setCtx_lanes (h : HostSide) (i : Nat) (x : Ctx) : (h.setCtx i x).lanes = h.lanes := rfl
@[simp] theorem HostSide.setCtx_links (h : HostSide) (i : Nat) (x : Ctx) : (h.setCtx i x).links = h.links := rfl
@[simp] theorem HostSide.setCtx_ports (h : HostSide) (i : Nat) (x : Ctx) : (h.setCtx i x).ports = h.ports := rfl
@[simp] theorem HostSide.setCtx_heldCtx (h : HostSide) (i : Nat) (x : Ctx) : (h.setCtx i x).heldCtx = h.heldCtx := rfl
@[simp] theorem HostSide.setCtx_pipes (h : HostSide) (i : Nat) (x : Ctx) : (h.setCtx i x).pipes = h.pipes := rfl
@[simp] theorem HostSide.setCtx_powerOns (h : HostSide) (i : Nat) (x : Ctx) : (h.setCtx i x).powerOns = h.powerOns := rfl
@[simp] theorem HostSide.setCtx_insp (h : HostSide) (i : Nat) (x : Ctx) : (h.setCtx i x).insp = h.insp := rfl
@[simp] theorem HostSide.setCtx_comp (h : HostSide) (i : Nat) (x : Ctx) : (h.setCtx i x).comp = h.comp := rfl
@[simp] theorem HostSide.setCtx_remoteReply (h : HostSide) (i : Nat) (x : Ctx) : (h.setCtx i x).remoteReply = h.remoteReply := rfl
@[simp] theorem HostSide.setCtx_remoteSent (h : HostSide) (i : Nat) (x : Ctx) : (h.setCtx i x).remoteSent = h.remoteSent := rfl
@[simp] theorem HostSide.setCtx_starts (h : HostSide) (i : Nat) (x : Ctx) : (h.setCtx i x).starts = h.starts := rfl
@[simp] theorem HostSide.setCtx_tbs (h : HostSide) (i : Nat) (x : Ctx) : (h.setCtx i x).tbs = h.tbs := rfl
@[simp] theorem HostSide.setCtx_cmpLate (h : HostSide) (i : Nat) (x : Ctx) : (h.setCtx i x).cmpLate = h.cmpLate := rfl
@[simp] theorem HostSide.setCtx_pps (h : HostSide) (i : Nat) (x : Ctx) : (h.setCtx i x).pps = h.pps := rfl
@[simp] theorem HostSide.setCtx_chain (h : HostSide) (i : Nat) (x : Ctx) : (h.setCtx i x).chain = h.chain := rfl
@[simp] theorem HostSide.setCtx_eth (h : HostSide) (i : Nat) (x : Ctx) : (h.setCtx i x).eth = h.eth := rfl
@[simp] theorem HostSide.setCtx_hdw (h : HostSide) (i : Nat) (x : Ctx) : (h.setCtx i x).hdw = h.hdw := rfl
@[simp] theorem HostSide.setCtx_dbg (h : HostSide) (i : Nat) (x : Ctx) : (h.setCtx i x).dbg = h.dbg := rfl
@[simp] theorem HostSide.setCtx_mgmt (h : HostSide) (i : Nat) (x : Ctx) : (h.setCtx i x).mgmt = h.mgmt := rfl
@[simp] theorem HostSide.setCtx_pcieLink (h : HostSide) (i : Nat) (x : Ctx) : (h.setCtx i x).pcieLink = h.pcieLink := rfl
@[simp] theorem HostSide.setCtx_noPower (h : HostSide) (i : Nat) (x : Ctx) : (h.setCtx i x).noPower = h.noPower := rfl
@[simp] theorem HostSide.setCtx_down (h : HostSide) (i : Nat) (x : Ctx) : (h.setCtx i x).down = h.down := rfl
@[simp] theorem HostSide.setCtx_spGen (h : HostSide) (i : Nat) (x : Ctx) : (h.setCtx i x).spGen = h.spGen := rfl
@[simp] theorem HostSide.setCtx_boots (h : HostSide) (i : Nat) (x : Ctx) : (h.setCtx i x).boots = h.boots := rfl

@[simp] theorem HostSide.setStarted_regs (h : HostSide) (q : Nat) (l : List Started) : (h.setStarted q l).regs = h.regs := rfl
@[simp] theorem HostSide.setStarted_latch (h : HostSide) (q : Nat) (l : List Started) : (h.setStarted q l).latch = h.latch := rfl
@[simp] theorem HostSide.setStarted_readData (h : HostSide) (q : Nat) (l : List Started) : (h.setStarted q l).readData = h.readData := rfl
@[simp] theorem HostSide.setStarted_mem (h : HostSide) (q : Nat) (l : List Started) : (h.setStarted q l).mem = h.mem := rfl
@[simp] theorem HostSide.setStarted_noRead (h : HostSide) (q : Nat) (l : List Started) : (h.setStarted q l).noRead = h.noRead := rfl
@[simp] theorem HostSide.setStarted_bme (h : HostSide) (q : Nat) (l : List Started) : (h.setStarted q l).bme = h.bme := rfl
@[simp] theorem HostSide.setStarted_pm (h : HostSide) (q : Nat) (l : List Started) : (h.setStarted q l).pm = h.pm := rfl
@[simp] theorem HostSide.setStarted_lastQ (h : HostSide) (q : Nat) (l : List Started) : (h.setStarted q l).lastQ = h.lastQ := rfl
@[simp] theorem HostSide.setStarted_rings (h : HostSide) (q : Nat) (l : List Started) : (h.setStarted q l).rings = h.rings := rfl
@[simp] theorem HostSide.setStarted_vecs (h : HostSide) (q : Nat) (l : List Started) : (h.setStarted q l).vecs = h.vecs := rfl
@[simp] theorem HostSide.setStarted_gauge (h : HostSide) (q : Nat) (l : List Started) : (h.setStarted q l).gauge = h.gauge := rfl
@[simp] theorem HostSide.setStarted_hbm (h : HostSide) (q : Nat) (l : List Started) : (h.setStarted q l).hbm = h.hbm := rfl
@[simp] theorem HostSide.setStarted_lstore (h : HostSide) (q : Nat) (l : List Started) : (h.setStarted q l).lstore = h.lstore := rfl
@[simp] theorem HostSide.setStarted_lsDirty (h : HostSide) (q : Nat) (l : List Started) : (h.setStarted q l).lsDirty = h.lsDirty := rfl
@[simp] theorem HostSide.setStarted_slu (h : HostSide) (q : Nat) (l : List Started) : (h.setStarted q l).slu = h.slu := rfl
@[simp] theorem HostSide.setStarted_cores (h : HostSide) (q : Nat) (l : List Started) : (h.setStarted q l).cores = h.cores := rfl
@[simp] theorem HostSide.setStarted_lsc (h : HostSide) (q : Nat) (l : List Started) : (h.setStarted q l).lsc = h.lsc := rfl
@[simp] theorem HostSide.setStarted_bar (h : HostSide) (q : Nat) (l : List Started) : (h.setStarted q l).bar = h.bar := rfl
@[simp] theorem HostSide.setStarted_fresh (h : HostSide) (q : Nat) (l : List Started) : (h.setStarted q l).fresh = h.fresh := rfl
@[simp] theorem HostSide.setStarted_ctxs (h : HostSide) (q : Nat) (l : List Started) : (h.setStarted q l).ctxs = h.ctxs := rfl
@[simp] theorem HostSide.setStarted_lanes (h : HostSide) (q : Nat) (l : List Started) : (h.setStarted q l).lanes = h.lanes := rfl
@[simp] theorem HostSide.setStarted_links (h : HostSide) (q : Nat) (l : List Started) : (h.setStarted q l).links = h.links := rfl
@[simp] theorem HostSide.setStarted_ports (h : HostSide) (q : Nat) (l : List Started) : (h.setStarted q l).ports = h.ports := rfl
@[simp] theorem HostSide.setStarted_heldCtx (h : HostSide) (q : Nat) (l : List Started) : (h.setStarted q l).heldCtx = h.heldCtx := rfl
@[simp] theorem HostSide.setStarted_pipes (h : HostSide) (q : Nat) (l : List Started) : (h.setStarted q l).pipes = h.pipes := rfl
@[simp] theorem HostSide.setStarted_powerOns (h : HostSide) (q : Nat) (l : List Started) : (h.setStarted q l).powerOns = h.powerOns := rfl
@[simp] theorem HostSide.setStarted_insp (h : HostSide) (q : Nat) (l : List Started) : (h.setStarted q l).insp = h.insp := rfl
@[simp] theorem HostSide.setStarted_comp (h : HostSide) (q : Nat) (l : List Started) : (h.setStarted q l).comp = h.comp := rfl
@[simp] theorem HostSide.setStarted_remoteReply (h : HostSide) (q : Nat) (l : List Started) : (h.setStarted q l).remoteReply = h.remoteReply := rfl
@[simp] theorem HostSide.setStarted_remoteSent (h : HostSide) (q : Nat) (l : List Started) : (h.setStarted q l).remoteSent = h.remoteSent := rfl
@[simp] theorem HostSide.setStarted_starts (h : HostSide) (q : Nat) (l : List Started) : (h.setStarted q l).starts = h.starts := rfl
@[simp] theorem HostSide.setStarted_tbs (h : HostSide) (q : Nat) (l : List Started) : (h.setStarted q l).tbs = h.tbs := rfl
@[simp] theorem HostSide.setStarted_cmpLate (h : HostSide) (q : Nat) (l : List Started) : (h.setStarted q l).cmpLate = h.cmpLate := rfl
@[simp] theorem HostSide.setStarted_pps (h : HostSide) (q : Nat) (l : List Started) : (h.setStarted q l).pps = h.pps := rfl
@[simp] theorem HostSide.setStarted_chain (h : HostSide) (q : Nat) (l : List Started) : (h.setStarted q l).chain = h.chain := rfl
@[simp] theorem HostSide.setStarted_eth (h : HostSide) (q : Nat) (l : List Started) : (h.setStarted q l).eth = h.eth := rfl
@[simp] theorem HostSide.setStarted_hdw (h : HostSide) (q : Nat) (l : List Started) : (h.setStarted q l).hdw = h.hdw := rfl
@[simp] theorem HostSide.setStarted_dbg (h : HostSide) (q : Nat) (l : List Started) : (h.setStarted q l).dbg = h.dbg := rfl
@[simp] theorem HostSide.setStarted_mgmt (h : HostSide) (q : Nat) (l : List Started) : (h.setStarted q l).mgmt = h.mgmt := rfl
@[simp] theorem HostSide.setStarted_pcieLink (h : HostSide) (q : Nat) (l : List Started) : (h.setStarted q l).pcieLink = h.pcieLink := rfl
@[simp] theorem HostSide.setStarted_noPower (h : HostSide) (q : Nat) (l : List Started) : (h.setStarted q l).noPower = h.noPower := rfl
@[simp] theorem HostSide.setStarted_down (h : HostSide) (q : Nat) (l : List Started) : (h.setStarted q l).down = h.down := rfl
@[simp] theorem HostSide.setStarted_spGen (h : HostSide) (q : Nat) (l : List Started) : (h.setStarted q l).spGen = h.spGen := rfl
@[simp] theorem HostSide.setStarted_boots (h : HostSide) (q : Nat) (l : List Started) : (h.setStarted q l).boots = h.boots := rfl

@[simp] theorem HostSide.modStarted_regs (h : HostSide) (q i : Nat) (g : Started → Started) : (h.modStarted q i g).regs = h.regs := rfl
@[simp] theorem HostSide.modStarted_latch (h : HostSide) (q i : Nat) (g : Started → Started) : (h.modStarted q i g).latch = h.latch := rfl
@[simp] theorem HostSide.modStarted_readData (h : HostSide) (q i : Nat) (g : Started → Started) : (h.modStarted q i g).readData = h.readData := rfl
@[simp] theorem HostSide.modStarted_mem (h : HostSide) (q i : Nat) (g : Started → Started) : (h.modStarted q i g).mem = h.mem := rfl
@[simp] theorem HostSide.modStarted_noRead (h : HostSide) (q i : Nat) (g : Started → Started) : (h.modStarted q i g).noRead = h.noRead := rfl
@[simp] theorem HostSide.modStarted_bme (h : HostSide) (q i : Nat) (g : Started → Started) : (h.modStarted q i g).bme = h.bme := rfl
@[simp] theorem HostSide.modStarted_pm (h : HostSide) (q i : Nat) (g : Started → Started) : (h.modStarted q i g).pm = h.pm := rfl
@[simp] theorem HostSide.modStarted_lastQ (h : HostSide) (q i : Nat) (g : Started → Started) : (h.modStarted q i g).lastQ = h.lastQ := rfl
@[simp] theorem HostSide.modStarted_rings (h : HostSide) (q i : Nat) (g : Started → Started) : (h.modStarted q i g).rings = h.rings := rfl
@[simp] theorem HostSide.modStarted_vecs (h : HostSide) (q i : Nat) (g : Started → Started) : (h.modStarted q i g).vecs = h.vecs := rfl
@[simp] theorem HostSide.modStarted_gauge (h : HostSide) (q i : Nat) (g : Started → Started) : (h.modStarted q i g).gauge = h.gauge := rfl
@[simp] theorem HostSide.modStarted_hbm (h : HostSide) (q i : Nat) (g : Started → Started) : (h.modStarted q i g).hbm = h.hbm := rfl
@[simp] theorem HostSide.modStarted_lstore (h : HostSide) (q i : Nat) (g : Started → Started) : (h.modStarted q i g).lstore = h.lstore := rfl
@[simp] theorem HostSide.modStarted_lsDirty (h : HostSide) (q i : Nat) (g : Started → Started) : (h.modStarted q i g).lsDirty = h.lsDirty := rfl
@[simp] theorem HostSide.modStarted_slu (h : HostSide) (q i : Nat) (g : Started → Started) : (h.modStarted q i g).slu = h.slu := rfl
@[simp] theorem HostSide.modStarted_cores (h : HostSide) (q i : Nat) (g : Started → Started) : (h.modStarted q i g).cores = h.cores := rfl
@[simp] theorem HostSide.modStarted_lsc (h : HostSide) (q i : Nat) (g : Started → Started) : (h.modStarted q i g).lsc = h.lsc := rfl
@[simp] theorem HostSide.modStarted_bar (h : HostSide) (q i : Nat) (g : Started → Started) : (h.modStarted q i g).bar = h.bar := rfl
@[simp] theorem HostSide.modStarted_fresh (h : HostSide) (q i : Nat) (g : Started → Started) : (h.modStarted q i g).fresh = h.fresh := rfl
@[simp] theorem HostSide.modStarted_ctxs (h : HostSide) (q i : Nat) (g : Started → Started) : (h.modStarted q i g).ctxs = h.ctxs := rfl
@[simp] theorem HostSide.modStarted_lanes (h : HostSide) (q i : Nat) (g : Started → Started) : (h.modStarted q i g).lanes = h.lanes := rfl
@[simp] theorem HostSide.modStarted_links (h : HostSide) (q i : Nat) (g : Started → Started) : (h.modStarted q i g).links = h.links := rfl
@[simp] theorem HostSide.modStarted_ports (h : HostSide) (q i : Nat) (g : Started → Started) : (h.modStarted q i g).ports = h.ports := rfl
@[simp] theorem HostSide.modStarted_heldCtx (h : HostSide) (q i : Nat) (g : Started → Started) : (h.modStarted q i g).heldCtx = h.heldCtx := rfl
@[simp] theorem HostSide.modStarted_pipes (h : HostSide) (q i : Nat) (g : Started → Started) : (h.modStarted q i g).pipes = h.pipes := rfl
@[simp] theorem HostSide.modStarted_powerOns (h : HostSide) (q i : Nat) (g : Started → Started) : (h.modStarted q i g).powerOns = h.powerOns := rfl
@[simp] theorem HostSide.modStarted_insp (h : HostSide) (q i : Nat) (g : Started → Started) : (h.modStarted q i g).insp = h.insp := rfl
@[simp] theorem HostSide.modStarted_comp (h : HostSide) (q i : Nat) (g : Started → Started) : (h.modStarted q i g).comp = h.comp := rfl
@[simp] theorem HostSide.modStarted_remoteReply (h : HostSide) (q i : Nat) (g : Started → Started) : (h.modStarted q i g).remoteReply = h.remoteReply := rfl
@[simp] theorem HostSide.modStarted_remoteSent (h : HostSide) (q i : Nat) (g : Started → Started) : (h.modStarted q i g).remoteSent = h.remoteSent := rfl
@[simp] theorem HostSide.modStarted_starts (h : HostSide) (q i : Nat) (g : Started → Started) : (h.modStarted q i g).starts = h.starts := rfl
@[simp] theorem HostSide.modStarted_tbs (h : HostSide) (q i : Nat) (g : Started → Started) : (h.modStarted q i g).tbs = h.tbs := rfl
@[simp] theorem HostSide.modStarted_cmpLate (h : HostSide) (q i : Nat) (g : Started → Started) : (h.modStarted q i g).cmpLate = h.cmpLate := rfl
@[simp] theorem HostSide.modStarted_pps (h : HostSide) (q i : Nat) (g : Started → Started) : (h.modStarted q i g).pps = h.pps := rfl
@[simp] theorem HostSide.modStarted_chain (h : HostSide) (q i : Nat) (g : Started → Started) : (h.modStarted q i g).chain = h.chain := rfl
@[simp] theorem HostSide.modStarted_eth (h : HostSide) (q i : Nat) (g : Started → Started) : (h.modStarted q i g).eth = h.eth := rfl
@[simp] theorem HostSide.modStarted_hdw (h : HostSide) (q i : Nat) (g : Started → Started) : (h.modStarted q i g).hdw = h.hdw := rfl
@[simp] theorem HostSide.modStarted_dbg (h : HostSide) (q i : Nat) (g : Started → Started) : (h.modStarted q i g).dbg = h.dbg := rfl
@[simp] theorem HostSide.modStarted_mgmt (h : HostSide) (q i : Nat) (g : Started → Started) : (h.modStarted q i g).mgmt = h.mgmt := rfl
@[simp] theorem HostSide.modStarted_pcieLink (h : HostSide) (q i : Nat) (g : Started → Started) : (h.modStarted q i g).pcieLink = h.pcieLink := rfl
@[simp] theorem HostSide.modStarted_noPower (h : HostSide) (q i : Nat) (g : Started → Started) : (h.modStarted q i g).noPower = h.noPower := rfl
@[simp] theorem HostSide.modStarted_down (h : HostSide) (q i : Nat) (g : Started → Started) : (h.modStarted q i g).down = h.down := rfl
@[simp] theorem HostSide.modStarted_spGen (h : HostSide) (q i : Nat) (g : Started → Started) : (h.modStarted q i g).spGen = h.spGen := rfl
@[simp] theorem HostSide.modStarted_boots (h : HostSide) (q i : Nat) (g : Started → Started) : (h.modStarted q i g).boots = h.boots := rfl

@[simp] theorem HostSide.finish_regs (h : HostSide) (q i a b c : Nat) : (h.finish q i a b c).regs = h.regs := rfl
@[simp] theorem HostSide.finish_latch (h : HostSide) (q i a b c : Nat) : (h.finish q i a b c).latch = h.latch := rfl
@[simp] theorem HostSide.finish_readData (h : HostSide) (q i a b c : Nat) : (h.finish q i a b c).readData = h.readData := rfl
@[simp] theorem HostSide.finish_mem (h : HostSide) (q i a b c : Nat) : (h.finish q i a b c).mem = h.mem := rfl
@[simp] theorem HostSide.finish_noRead (h : HostSide) (q i a b c : Nat) : (h.finish q i a b c).noRead = h.noRead := rfl
@[simp] theorem HostSide.finish_bme (h : HostSide) (q i a b c : Nat) : (h.finish q i a b c).bme = h.bme := rfl
@[simp] theorem HostSide.finish_pm (h : HostSide) (q i a b c : Nat) : (h.finish q i a b c).pm = h.pm := rfl
@[simp] theorem HostSide.finish_lastQ (h : HostSide) (q i a b c : Nat) : (h.finish q i a b c).lastQ = h.lastQ := rfl
@[simp] theorem HostSide.finish_rings (h : HostSide) (q i a b c : Nat) : (h.finish q i a b c).rings = h.rings := rfl
@[simp] theorem HostSide.finish_vecs (h : HostSide) (q i a b c : Nat) : (h.finish q i a b c).vecs = h.vecs := rfl
@[simp] theorem HostSide.finish_gauge (h : HostSide) (q i a b c : Nat) : (h.finish q i a b c).gauge = h.gauge := rfl
@[simp] theorem HostSide.finish_hbm (h : HostSide) (q i a b c : Nat) : (h.finish q i a b c).hbm = h.hbm := rfl
@[simp] theorem HostSide.finish_lstore (h : HostSide) (q i a b c : Nat) : (h.finish q i a b c).lstore = h.lstore := rfl
@[simp] theorem HostSide.finish_lsDirty (h : HostSide) (q i a b c : Nat) : (h.finish q i a b c).lsDirty = h.lsDirty := rfl
@[simp] theorem HostSide.finish_slu (h : HostSide) (q i a b c : Nat) : (h.finish q i a b c).slu = h.slu := rfl
@[simp] theorem HostSide.finish_cores (h : HostSide) (q i a b c : Nat) : (h.finish q i a b c).cores = h.cores := rfl
@[simp] theorem HostSide.finish_lsc (h : HostSide) (q i a b c : Nat) : (h.finish q i a b c).lsc = h.lsc := rfl
@[simp] theorem HostSide.finish_bar (h : HostSide) (q i a b c : Nat) : (h.finish q i a b c).bar = h.bar := rfl
@[simp] theorem HostSide.finish_fresh (h : HostSide) (q i a b c : Nat) : (h.finish q i a b c).fresh = h.fresh := rfl
@[simp] theorem HostSide.finish_ctxs (h : HostSide) (q i a b c : Nat) : (h.finish q i a b c).ctxs = h.ctxs := rfl
@[simp] theorem HostSide.finish_lanes (h : HostSide) (q i a b c : Nat) : (h.finish q i a b c).lanes = h.lanes := rfl
@[simp] theorem HostSide.finish_links (h : HostSide) (q i a b c : Nat) : (h.finish q i a b c).links = h.links := rfl
@[simp] theorem HostSide.finish_ports (h : HostSide) (q i a b c : Nat) : (h.finish q i a b c).ports = h.ports := rfl
@[simp] theorem HostSide.finish_heldCtx (h : HostSide) (q i a b c : Nat) : (h.finish q i a b c).heldCtx = h.heldCtx := rfl
@[simp] theorem HostSide.finish_pipes (h : HostSide) (q i a b c : Nat) : (h.finish q i a b c).pipes = h.pipes := rfl
@[simp] theorem HostSide.finish_powerOns (h : HostSide) (q i a b c : Nat) : (h.finish q i a b c).powerOns = h.powerOns := rfl
@[simp] theorem HostSide.finish_insp (h : HostSide) (q i a b c : Nat) : (h.finish q i a b c).insp = h.insp := rfl
@[simp] theorem HostSide.finish_comp (h : HostSide) (q i a b c : Nat) : (h.finish q i a b c).comp = h.comp := rfl
@[simp] theorem HostSide.finish_remoteReply (h : HostSide) (q i a b c : Nat) : (h.finish q i a b c).remoteReply = h.remoteReply := rfl
@[simp] theorem HostSide.finish_remoteSent (h : HostSide) (q i a b c : Nat) : (h.finish q i a b c).remoteSent = h.remoteSent := rfl
@[simp] theorem HostSide.finish_starts (h : HostSide) (q i a b c : Nat) : (h.finish q i a b c).starts = h.starts := rfl
@[simp] theorem HostSide.finish_tbs (h : HostSide) (q i a b c : Nat) : (h.finish q i a b c).tbs = h.tbs := rfl
@[simp] theorem HostSide.finish_cmpLate (h : HostSide) (q i a b c : Nat) : (h.finish q i a b c).cmpLate = h.cmpLate := rfl
@[simp] theorem HostSide.finish_pps (h : HostSide) (q i a b c : Nat) : (h.finish q i a b c).pps = h.pps := rfl
@[simp] theorem HostSide.finish_chain (h : HostSide) (q i a b c : Nat) : (h.finish q i a b c).chain = h.chain := rfl
@[simp] theorem HostSide.finish_eth (h : HostSide) (q i a b c : Nat) : (h.finish q i a b c).eth = h.eth := rfl
@[simp] theorem HostSide.finish_hdw (h : HostSide) (q i a b c : Nat) : (h.finish q i a b c).hdw = h.hdw := rfl
@[simp] theorem HostSide.finish_dbg (h : HostSide) (q i a b c : Nat) : (h.finish q i a b c).dbg = h.dbg := rfl
@[simp] theorem HostSide.finish_mgmt (h : HostSide) (q i a b c : Nat) : (h.finish q i a b c).mgmt = h.mgmt := rfl
@[simp] theorem HostSide.finish_pcieLink (h : HostSide) (q i a b c : Nat) : (h.finish q i a b c).pcieLink = h.pcieLink := rfl
@[simp] theorem HostSide.finish_noPower (h : HostSide) (q i a b c : Nat) : (h.finish q i a b c).noPower = h.noPower := rfl
@[simp] theorem HostSide.finish_down (h : HostSide) (q i a b c : Nat) : (h.finish q i a b c).down = h.down := rfl
@[simp] theorem HostSide.finish_spGen (h : HostSide) (q i a b c : Nat) : (h.finish q i a b c).spGen = h.spGen := rfl
@[simp] theorem HostSide.finish_boots (h : HostSide) (q i a b c : Nat) : (h.finish q i a b c).boots = h.boots := rfl

@[simp] theorem FieldDie.set_ctl (d : FieldDie) (f : RF) (v : Nat) : (d.set f v).ctl = d.ctl := rfl
@[simp] theorem FieldDie.set_image (d : FieldDie) (f : RF) (v : Nat) : (d.set f v).image = d.image := rfl
@[simp] theorem FieldDie.set_loadFails (d : FieldDie) (f : RF) (v : Nat) : (d.set f v).loadFails = d.loadFails := rfl
@[simp] theorem FieldDie.set_latch (d : FieldDie) (f : RF) (v : Nat) : (d.set f v).latch = d.latch := rfl
@[simp] theorem FieldDie.set_port (d : FieldDie) (f : RF) (v : Nat) : (d.set f v).port = d.port := rfl
@[simp] theorem FieldDie.set_cancelled (d : FieldDie) (f : RF) (v : Nat) : (d.set f v).cancelled = d.cancelled := rfl
@[simp] theorem FieldDie.set_crcErr (d : FieldDie) (f : RF) (v : Nat) : (d.set f v).crcErr = d.crcErr := rfl
@[simp] theorem FieldDie.set_hbRun (d : FieldDie) (f : RF) (v : Nat) : (d.set f v).hbRun = d.hbRun := rfl
@[simp] theorem FieldDie.set_lastTag (d : FieldDie) (f : RF) (v : Nat) : (d.set f v).lastTag = d.lastTag := rfl
@[simp] theorem FieldDie.set_lastAns (d : FieldDie) (f : RF) (v : Nat) : (d.set f v).lastAns = d.lastAns := rfl
@[simp] theorem FieldDie.set_enc (d : FieldDie) (f : RF) (v : Nat) : (d.set f v).enc = d.enc := rfl
@[simp] theorem FieldDie.set_rep (d : FieldDie) (f : RF) (v : Nat) : (d.set f v).rep = d.rep := rfl
@[simp] theorem FieldDie.set_trig (d : FieldDie) (f : RF) (v : Nat) : (d.set f v).trig = d.trig := rfl
@[simp] theorem FieldDie.set_weir (d : FieldDie) (f : RF) (v : Nat) : (d.set f v).weir = d.weir := rfl
@[simp] theorem FieldDie.set_pulses (d : FieldDie) (f : RF) (v : Nat) : (d.set f v).pulses = d.pulses := rfl
@[simp] theorem FieldDie.set_valves (d : FieldDie) (f : RF) (v : Nat) : (d.set f v).valves = d.valves := rfl
@[simp] theorem FieldDie.set_strobes (d : FieldDie) (f : RF) (v : Nat) : (d.set f v).strobes = d.strobes := rfl
@[simp] theorem FieldDie.set_limited (d : FieldDie) (f : RF) (v : Nat) : (d.set f v).limited = d.limited := rfl
@[simp] theorem FieldDie.set_shutdown (d : FieldDie) (f : RF) (v : Nat) : (d.set f v).shutdown = d.shutdown := rfl
@[simp] theorem FieldDie.set_due (d : FieldDie) (f : RF) (v : Nat) : (d.set f v).due = d.due := rfl

@[simp] theorem FieldDie.setBits_ctl (d : FieldDie) (f : RF) (m : Nat) : (d.setBits f m).ctl = d.ctl := rfl
@[simp] theorem FieldDie.setBits_image (d : FieldDie) (f : RF) (m : Nat) : (d.setBits f m).image = d.image := rfl
@[simp] theorem FieldDie.setBits_loadFails (d : FieldDie) (f : RF) (m : Nat) : (d.setBits f m).loadFails = d.loadFails := rfl
@[simp] theorem FieldDie.setBits_latch (d : FieldDie) (f : RF) (m : Nat) : (d.setBits f m).latch = d.latch := rfl
@[simp] theorem FieldDie.setBits_port (d : FieldDie) (f : RF) (m : Nat) : (d.setBits f m).port = d.port := rfl
@[simp] theorem FieldDie.setBits_cancelled (d : FieldDie) (f : RF) (m : Nat) : (d.setBits f m).cancelled = d.cancelled := rfl
@[simp] theorem FieldDie.setBits_crcErr (d : FieldDie) (f : RF) (m : Nat) : (d.setBits f m).crcErr = d.crcErr := rfl
@[simp] theorem FieldDie.setBits_hbRun (d : FieldDie) (f : RF) (m : Nat) : (d.setBits f m).hbRun = d.hbRun := rfl
@[simp] theorem FieldDie.setBits_lastTag (d : FieldDie) (f : RF) (m : Nat) : (d.setBits f m).lastTag = d.lastTag := rfl
@[simp] theorem FieldDie.setBits_lastAns (d : FieldDie) (f : RF) (m : Nat) : (d.setBits f m).lastAns = d.lastAns := rfl
@[simp] theorem FieldDie.setBits_enc (d : FieldDie) (f : RF) (m : Nat) : (d.setBits f m).enc = d.enc := rfl
@[simp] theorem FieldDie.setBits_rep (d : FieldDie) (f : RF) (m : Nat) : (d.setBits f m).rep = d.rep := rfl
@[simp] theorem FieldDie.setBits_trig (d : FieldDie) (f : RF) (m : Nat) : (d.setBits f m).trig = d.trig := rfl
@[simp] theorem FieldDie.setBits_weir (d : FieldDie) (f : RF) (m : Nat) : (d.setBits f m).weir = d.weir := rfl
@[simp] theorem FieldDie.setBits_pulses (d : FieldDie) (f : RF) (m : Nat) : (d.setBits f m).pulses = d.pulses := rfl
@[simp] theorem FieldDie.setBits_valves (d : FieldDie) (f : RF) (m : Nat) : (d.setBits f m).valves = d.valves := rfl
@[simp] theorem FieldDie.setBits_strobes (d : FieldDie) (f : RF) (m : Nat) : (d.setBits f m).strobes = d.strobes := rfl
@[simp] theorem FieldDie.setBits_limited (d : FieldDie) (f : RF) (m : Nat) : (d.setBits f m).limited = d.limited := rfl
@[simp] theorem FieldDie.setBits_shutdown (d : FieldDie) (f : RF) (m : Nat) : (d.setBits f m).shutdown = d.shutdown := rfl
@[simp] theorem FieldDie.setBits_due (d : FieldDie) (f : RF) (m : Nat) : (d.setBits f m).due = d.due := rfl

@[simp] theorem FieldDie.inc_ctl (d : FieldDie) (f : RF) (n : Nat) : (d.inc f n).ctl = d.ctl := rfl
@[simp] theorem FieldDie.inc_image (d : FieldDie) (f : RF) (n : Nat) : (d.inc f n).image = d.image := rfl
@[simp] theorem FieldDie.inc_loadFails (d : FieldDie) (f : RF) (n : Nat) : (d.inc f n).loadFails = d.loadFails := rfl
@[simp] theorem FieldDie.inc_latch (d : FieldDie) (f : RF) (n : Nat) : (d.inc f n).latch = d.latch := rfl
@[simp] theorem FieldDie.inc_port (d : FieldDie) (f : RF) (n : Nat) : (d.inc f n).port = d.port := rfl
@[simp] theorem FieldDie.inc_cancelled (d : FieldDie) (f : RF) (n : Nat) : (d.inc f n).cancelled = d.cancelled := rfl
@[simp] theorem FieldDie.inc_crcErr (d : FieldDie) (f : RF) (n : Nat) : (d.inc f n).crcErr = d.crcErr := rfl
@[simp] theorem FieldDie.inc_hbRun (d : FieldDie) (f : RF) (n : Nat) : (d.inc f n).hbRun = d.hbRun := rfl
@[simp] theorem FieldDie.inc_lastTag (d : FieldDie) (f : RF) (n : Nat) : (d.inc f n).lastTag = d.lastTag := rfl
@[simp] theorem FieldDie.inc_lastAns (d : FieldDie) (f : RF) (n : Nat) : (d.inc f n).lastAns = d.lastAns := rfl
@[simp] theorem FieldDie.inc_enc (d : FieldDie) (f : RF) (n : Nat) : (d.inc f n).enc = d.enc := rfl
@[simp] theorem FieldDie.inc_rep (d : FieldDie) (f : RF) (n : Nat) : (d.inc f n).rep = d.rep := rfl
@[simp] theorem FieldDie.inc_trig (d : FieldDie) (f : RF) (n : Nat) : (d.inc f n).trig = d.trig := rfl
@[simp] theorem FieldDie.inc_weir (d : FieldDie) (f : RF) (n : Nat) : (d.inc f n).weir = d.weir := rfl
@[simp] theorem FieldDie.inc_pulses (d : FieldDie) (f : RF) (n : Nat) : (d.inc f n).pulses = d.pulses := rfl
@[simp] theorem FieldDie.inc_valves (d : FieldDie) (f : RF) (n : Nat) : (d.inc f n).valves = d.valves := rfl
@[simp] theorem FieldDie.inc_strobes (d : FieldDie) (f : RF) (n : Nat) : (d.inc f n).strobes = d.strobes := rfl
@[simp] theorem FieldDie.inc_limited (d : FieldDie) (f : RF) (n : Nat) : (d.inc f n).limited = d.limited := rfl
@[simp] theorem FieldDie.inc_shutdown (d : FieldDie) (f : RF) (n : Nat) : (d.inc f n).shutdown = d.shutdown := rfl
@[simp] theorem FieldDie.inc_due (d : FieldDie) (f : RF) (n : Nat) : (d.inc f n).due = d.due := rfl

@[simp] theorem FieldDie.setChan_regs (d : FieldDie) (i : Nat) (x : EncCh) : (d.setChan i x).regs = d.regs := rfl
@[simp] theorem FieldDie.setChan_ctl (d : FieldDie) (i : Nat) (x : EncCh) : (d.setChan i x).ctl = d.ctl := rfl
@[simp] theorem FieldDie.setChan_image (d : FieldDie) (i : Nat) (x : EncCh) : (d.setChan i x).image = d.image := rfl
@[simp] theorem FieldDie.setChan_loadFails (d : FieldDie) (i : Nat) (x : EncCh) : (d.setChan i x).loadFails = d.loadFails := rfl
@[simp] theorem FieldDie.setChan_latch (d : FieldDie) (i : Nat) (x : EncCh) : (d.setChan i x).latch = d.latch := rfl
@[simp] theorem FieldDie.setChan_port (d : FieldDie) (i : Nat) (x : EncCh) : (d.setChan i x).port = d.port := rfl
@[simp] theorem FieldDie.setChan_cancelled (d : FieldDie) (i : Nat) (x : EncCh) : (d.setChan i x).cancelled = d.cancelled := rfl
@[simp] theorem FieldDie.setChan_crcErr (d : FieldDie) (i : Nat) (x : EncCh) : (d.setChan i x).crcErr = d.crcErr := rfl
@[simp] theorem FieldDie.setChan_hbRun (d : FieldDie) (i : Nat) (x : EncCh) : (d.setChan i x).hbRun = d.hbRun := rfl
@[simp] theorem FieldDie.setChan_lastTag (d : FieldDie) (i : Nat) (x : EncCh) : (d.setChan i x).lastTag = d.lastTag := rfl
@[simp] theorem FieldDie.setChan_lastAns (d : FieldDie) (i : Nat) (x : EncCh) : (d.setChan i x).lastAns = d.lastAns := rfl
@[simp] theorem FieldDie.setChan_rep (d : FieldDie) (i : Nat) (x : EncCh) : (d.setChan i x).rep = d.rep := rfl
@[simp] theorem FieldDie.setChan_trig (d : FieldDie) (i : Nat) (x : EncCh) : (d.setChan i x).trig = d.trig := rfl
@[simp] theorem FieldDie.setChan_weir (d : FieldDie) (i : Nat) (x : EncCh) : (d.setChan i x).weir = d.weir := rfl
@[simp] theorem FieldDie.setChan_pulses (d : FieldDie) (i : Nat) (x : EncCh) : (d.setChan i x).pulses = d.pulses := rfl
@[simp] theorem FieldDie.setChan_valves (d : FieldDie) (i : Nat) (x : EncCh) : (d.setChan i x).valves = d.valves := rfl
@[simp] theorem FieldDie.setChan_strobes (d : FieldDie) (i : Nat) (x : EncCh) : (d.setChan i x).strobes = d.strobes := rfl
@[simp] theorem FieldDie.setChan_limited (d : FieldDie) (i : Nat) (x : EncCh) : (d.setChan i x).limited = d.limited := rfl
@[simp] theorem FieldDie.setChan_shutdown (d : FieldDie) (i : Nat) (x : EncCh) : (d.setChan i x).shutdown = d.shutdown := rfl
@[simp] theorem FieldDie.setChan_due (d : FieldDie) (i : Nat) (x : EncCh) : (d.setChan i x).due = d.due := rfl

@[simp] theorem FieldDie.setSrc_regs (d : FieldDie) (i : Nat) (x : TrigSrc) : (d.setSrc i x).regs = d.regs := rfl
@[simp] theorem FieldDie.setSrc_ctl (d : FieldDie) (i : Nat) (x : TrigSrc) : (d.setSrc i x).ctl = d.ctl := rfl
@[simp] theorem FieldDie.setSrc_image (d : FieldDie) (i : Nat) (x : TrigSrc) : (d.setSrc i x).image = d.image := rfl
@[simp] theorem FieldDie.setSrc_loadFails (d : FieldDie) (i : Nat) (x : TrigSrc) : (d.setSrc i x).loadFails = d.loadFails := rfl
@[simp] theorem FieldDie.setSrc_latch (d : FieldDie) (i : Nat) (x : TrigSrc) : (d.setSrc i x).latch = d.latch := rfl
@[simp] theorem FieldDie.setSrc_port (d : FieldDie) (i : Nat) (x : TrigSrc) : (d.setSrc i x).port = d.port := rfl
@[simp] theorem FieldDie.setSrc_cancelled (d : FieldDie) (i : Nat) (x : TrigSrc) : (d.setSrc i x).cancelled = d.cancelled := rfl
@[simp] theorem FieldDie.setSrc_crcErr (d : FieldDie) (i : Nat) (x : TrigSrc) : (d.setSrc i x).crcErr = d.crcErr := rfl
@[simp] theorem FieldDie.setSrc_hbRun (d : FieldDie) (i : Nat) (x : TrigSrc) : (d.setSrc i x).hbRun = d.hbRun := rfl
@[simp] theorem FieldDie.setSrc_lastTag (d : FieldDie) (i : Nat) (x : TrigSrc) : (d.setSrc i x).lastTag = d.lastTag := rfl
@[simp] theorem FieldDie.setSrc_lastAns (d : FieldDie) (i : Nat) (x : TrigSrc) : (d.setSrc i x).lastAns = d.lastAns := rfl
@[simp] theorem FieldDie.setSrc_enc (d : FieldDie) (i : Nat) (x : TrigSrc) : (d.setSrc i x).enc = d.enc := rfl
@[simp] theorem FieldDie.setSrc_rep (d : FieldDie) (i : Nat) (x : TrigSrc) : (d.setSrc i x).rep = d.rep := rfl
@[simp] theorem FieldDie.setSrc_weir (d : FieldDie) (i : Nat) (x : TrigSrc) : (d.setSrc i x).weir = d.weir := rfl
@[simp] theorem FieldDie.setSrc_pulses (d : FieldDie) (i : Nat) (x : TrigSrc) : (d.setSrc i x).pulses = d.pulses := rfl
@[simp] theorem FieldDie.setSrc_valves (d : FieldDie) (i : Nat) (x : TrigSrc) : (d.setSrc i x).valves = d.valves := rfl
@[simp] theorem FieldDie.setSrc_strobes (d : FieldDie) (i : Nat) (x : TrigSrc) : (d.setSrc i x).strobes = d.strobes := rfl
@[simp] theorem FieldDie.setSrc_limited (d : FieldDie) (i : Nat) (x : TrigSrc) : (d.setSrc i x).limited = d.limited := rfl
@[simp] theorem FieldDie.setSrc_shutdown (d : FieldDie) (i : Nat) (x : TrigSrc) : (d.setSrc i x).shutdown = d.shutdown := rfl
@[simp] theorem FieldDie.setSrc_due (d : FieldDie) (i : Nat) (x : TrigSrc) : (d.setSrc i x).due = d.due := rfl

@[simp] theorem FieldDie.setStrobe_regs (d : FieldDie) (i : Nat) (x : Strobe) : (d.setStrobe i x).regs = d.regs := rfl
@[simp] theorem FieldDie.setStrobe_ctl (d : FieldDie) (i : Nat) (x : Strobe) : (d.setStrobe i x).ctl = d.ctl := rfl
@[simp] theorem FieldDie.setStrobe_image (d : FieldDie) (i : Nat) (x : Strobe) : (d.setStrobe i x).image = d.image := rfl
@[simp] theorem FieldDie.setStrobe_loadFails (d : FieldDie) (i : Nat) (x : Strobe) : (d.setStrobe i x).loadFails = d.loadFails := rfl
@[simp] theorem FieldDie.setStrobe_latch (d : FieldDie) (i : Nat) (x : Strobe) : (d.setStrobe i x).latch = d.latch := rfl
@[simp] theorem FieldDie.setStrobe_port (d : FieldDie) (i : Nat) (x : Strobe) : (d.setStrobe i x).port = d.port := rfl
@[simp] theorem FieldDie.setStrobe_cancelled (d : FieldDie) (i : Nat) (x : Strobe) : (d.setStrobe i x).cancelled = d.cancelled := rfl
@[simp] theorem FieldDie.setStrobe_crcErr (d : FieldDie) (i : Nat) (x : Strobe) : (d.setStrobe i x).crcErr = d.crcErr := rfl
@[simp] theorem FieldDie.setStrobe_hbRun (d : FieldDie) (i : Nat) (x : Strobe) : (d.setStrobe i x).hbRun = d.hbRun := rfl
@[simp] theorem FieldDie.setStrobe_lastTag (d : FieldDie) (i : Nat) (x : Strobe) : (d.setStrobe i x).lastTag = d.lastTag := rfl
@[simp] theorem FieldDie.setStrobe_lastAns (d : FieldDie) (i : Nat) (x : Strobe) : (d.setStrobe i x).lastAns = d.lastAns := rfl
@[simp] theorem FieldDie.setStrobe_enc (d : FieldDie) (i : Nat) (x : Strobe) : (d.setStrobe i x).enc = d.enc := rfl
@[simp] theorem FieldDie.setStrobe_rep (d : FieldDie) (i : Nat) (x : Strobe) : (d.setStrobe i x).rep = d.rep := rfl
@[simp] theorem FieldDie.setStrobe_trig (d : FieldDie) (i : Nat) (x : Strobe) : (d.setStrobe i x).trig = d.trig := rfl
@[simp] theorem FieldDie.setStrobe_weir (d : FieldDie) (i : Nat) (x : Strobe) : (d.setStrobe i x).weir = d.weir := rfl
@[simp] theorem FieldDie.setStrobe_pulses (d : FieldDie) (i : Nat) (x : Strobe) : (d.setStrobe i x).pulses = d.pulses := rfl
@[simp] theorem FieldDie.setStrobe_valves (d : FieldDie) (i : Nat) (x : Strobe) : (d.setStrobe i x).valves = d.valves := rfl
@[simp] theorem FieldDie.setStrobe_limited (d : FieldDie) (i : Nat) (x : Strobe) : (d.setStrobe i x).limited = d.limited := rfl
@[simp] theorem FieldDie.setStrobe_shutdown (d : FieldDie) (i : Nat) (x : Strobe) : (d.setStrobe i x).shutdown = d.shutdown := rfl
@[simp] theorem FieldDie.setStrobe_due (d : FieldDie) (i : Nat) (x : Strobe) : (d.setStrobe i x).due = d.due := rfl

@[simp] theorem FieldDie.setValve_regs (d : FieldDie) (i : Nat) (x : ValvePort) : (d.setValve i x).regs = d.regs := rfl
@[simp] theorem FieldDie.setValve_ctl (d : FieldDie) (i : Nat) (x : ValvePort) : (d.setValve i x).ctl = d.ctl := rfl
@[simp] theorem FieldDie.setValve_image (d : FieldDie) (i : Nat) (x : ValvePort) : (d.setValve i x).image = d.image := rfl
@[simp] theorem FieldDie.setValve_loadFails (d : FieldDie) (i : Nat) (x : ValvePort) : (d.setValve i x).loadFails = d.loadFails := rfl
@[simp] theorem FieldDie.setValve_latch (d : FieldDie) (i : Nat) (x : ValvePort) : (d.setValve i x).latch = d.latch := rfl
@[simp] theorem FieldDie.setValve_port (d : FieldDie) (i : Nat) (x : ValvePort) : (d.setValve i x).port = d.port := rfl
@[simp] theorem FieldDie.setValve_cancelled (d : FieldDie) (i : Nat) (x : ValvePort) : (d.setValve i x).cancelled = d.cancelled := rfl
@[simp] theorem FieldDie.setValve_crcErr (d : FieldDie) (i : Nat) (x : ValvePort) : (d.setValve i x).crcErr = d.crcErr := rfl
@[simp] theorem FieldDie.setValve_hbRun (d : FieldDie) (i : Nat) (x : ValvePort) : (d.setValve i x).hbRun = d.hbRun := rfl
@[simp] theorem FieldDie.setValve_lastTag (d : FieldDie) (i : Nat) (x : ValvePort) : (d.setValve i x).lastTag = d.lastTag := rfl
@[simp] theorem FieldDie.setValve_lastAns (d : FieldDie) (i : Nat) (x : ValvePort) : (d.setValve i x).lastAns = d.lastAns := rfl
@[simp] theorem FieldDie.setValve_enc (d : FieldDie) (i : Nat) (x : ValvePort) : (d.setValve i x).enc = d.enc := rfl
@[simp] theorem FieldDie.setValve_rep (d : FieldDie) (i : Nat) (x : ValvePort) : (d.setValve i x).rep = d.rep := rfl
@[simp] theorem FieldDie.setValve_trig (d : FieldDie) (i : Nat) (x : ValvePort) : (d.setValve i x).trig = d.trig := rfl
@[simp] theorem FieldDie.setValve_weir (d : FieldDie) (i : Nat) (x : ValvePort) : (d.setValve i x).weir = d.weir := rfl
@[simp] theorem FieldDie.setValve_pulses (d : FieldDie) (i : Nat) (x : ValvePort) : (d.setValve i x).pulses = d.pulses := rfl
@[simp] theorem FieldDie.setValve_strobes (d : FieldDie) (i : Nat) (x : ValvePort) : (d.setValve i x).strobes = d.strobes := rfl
@[simp] theorem FieldDie.setValve_limited (d : FieldDie) (i : Nat) (x : ValvePort) : (d.setValve i x).limited = d.limited := rfl
@[simp] theorem FieldDie.setValve_shutdown (d : FieldDie) (i : Nat) (x : ValvePort) : (d.setValve i x).shutdown = d.shutdown := rfl
@[simp] theorem FieldDie.setValve_due (d : FieldDie) (i : Nat) (x : ValvePort) : (d.setValve i x).due = d.due := rfl

@[simp] theorem HostSide.set_regs (h : HostSide) (f : RF) (v : Nat) : (h.set f v).regs = h.regs.set f v := rfl
@[simp] theorem HostSide.setWord_regs (h : HostSide) (a : Nat) (v : Word) : (h.setWord a v).regs = h.regs.setWord a v := rfl
@[simp] theorem HostSide.setVec_vecs (h : HostSide) (v : Nat) (x : Vec) : (h.setVec v x).vecs = h.vecs.put v x := rfl
@[simp] theorem HostSide.setHbm_hbm (h : HostSide) (g : Nat) (x : Store) : (h.setHbm g x).hbm = h.hbm.put g x := rfl
@[simp] theorem HostSide.setLs_lstore (h : HostSide) (k : Nat) (x : Store) : (h.setLs k x).lstore = h.lstore.put k x := rfl
@[simp] theorem HostSide.setCore_cores (h : HostSide) (i : Nat) (x : CoreSt) : (h.setCore i x).cores = h.cores.put i x := rfl
@[simp] theorem HostSide.setCtx_ctxs (h : HostSide) (i : Nat) (x : Ctx) : (h.setCtx i x).ctxs = h.ctxs.put i x := rfl
@[simp] theorem HostSide.setStarted_sq (h : HostSide) (q : Nat) (l : List Started) : (h.setStarted q l).sq = h.sq.put q l := rfl
@[simp] theorem FieldDie.set_regs (d : FieldDie) (f : RF) (v : Nat) : (d.set f v).regs = d.regs.set f v := rfl
@[simp] theorem FieldDie.setChan_enc (d : FieldDie) (i : Nat) (x : EncCh) : (d.setChan i x).enc = d.enc.put i x := rfl
@[simp] theorem FieldDie.setSrc_trig (d : FieldDie) (i : Nat) (x : TrigSrc) : (d.setSrc i x).trig = d.trig.put i x := rfl
@[simp] theorem FieldDie.setStrobe_strobes (d : FieldDie) (i : Nat) (x : Strobe) : (d.setStrobe i x).strobes = d.strobes.put i x := rfl
@[simp] theorem FieldDie.setValve_valves (d : FieldDie) (i : Nat) (x : ValvePort) : (d.setValve i x).valves = d.valves.put i x := rfl

end Sys2Proof.Machine
end

