-- ==== Sys2Proof/Laws/Frames.lean ====
section
/-! SUPPORT. What the shared operations of a command do: fields of registers read after writes, the settling of the interrupt summaries,
and the frames of commands (R232, R347, R349, R423). -/

namespace Sys2Proof.Machine
open Sys2Proof

/-! ### Registers -/

theorem HostSide.get_set_self (h : HostSide) (f : RF) (v : Nat) (hf : f.fits) : (h.set f v).get f = v % 2 ^ f.w :=
  RegFile.get_set_self _ _ _ hf
theorem HostSide.get_set_apart (h : HostSide) (f g : RF) (v : Nat) (hf : f.fits) (hd : f.apart g) : (h.set f v).get g = h.get g :=
  RegFile.get_set_apart _ _ _ _ hf hd
theorem HostSide.word_set_ne (h : HostSide) (f : RF) (v a : Nat) (ha : a ≠ f.addr) : (h.set f v).word a = h.word a :=
  RegFile.word_set_ne _ _ _ _ ha
theorem HostSide.word_setWord (h : HostSide) (a b : Nat) (v : Word) : (h.setWord a v).word b = if b = a then v else h.word b :=
  RegFile.word_setWord _ _ _ _
theorem HostSide.get_lt (h : HostSide) (f : RF) : h.get f < 2 ^ f.w := RegFile.get_lt _ _
/-- A field of a word that stays, stays. -/
theorem HostSide.get_of_word (g h : HostSide) (f : RF) (e : g.word f.addr = h.word f.addr) : g.get f = h.get f := by
  unfold HostSide.get RegFile.get
  unfold HostSide.word at e
  rw [e]

theorem FieldDie.get_set_self (d : FieldDie) (f : RF) (v : Nat) (hf : f.fits) : (d.set f v).get f = v % 2 ^ f.w :=
  RegFile.get_set_self _ _ _ hf
theorem FieldDie.get_set_apart (d : FieldDie) (f g : RF) (v : Nat) (hf : f.fits) (hd : f.apart g) : (d.set f v).get g = d.get g :=
  RegFile.get_set_apart _ _ _ _ hf hd
theorem FieldDie.word_set_ne (d : FieldDie) (f : RF) (v a : Nat) (ha : a ≠ f.addr) : (d.set f v).regs.word a = d.regs.word a :=
  RegFile.word_set_ne _ _ _ _ ha
theorem FieldDie.get_lt (d : FieldDie) (f : RF) : d.get f < 2 ^ f.w := RegFile.get_lt _ _

/-! ### Loops -/

theorem forN_zero {β : Type} (f : Nat → β → β) (b : β) : forN 0 f b = b := rfl
theorem forN_succ {β : Type} (n : Nat) (f : Nat → β → β) (b : β) : forN (n + 1) f b = f n (forN n f b) := by
  simp [forN, List.range_succ]
/-- What every round keeps, the loop keeps. -/
theorem forN_keeps {β : Type} (P : β → Prop) (n : Nat) (f : Nat → β → β) (b : β) (h : P b) (step : ∀ i b, P b → P (f i b)) :
    P (forN n f b) := by
  induction n with
  | zero => exact h
  | succ n ih => rw [forN_succ]; exact step n _ ih
/-- What every round keeps, a fold keeps. -/
theorem foldl_keeps {α β : Type} (P : β → Prop) (l : List α) (f : β → α → β) (b : β) (h : P b) (step : ∀ b a, P b → P (f b a)) :
    P (l.foldl f b) := by
  induction l generalizing b with
  | nil => exact h
  | cons a t ih => exact ih _ (step b a h)

/-! ### Settling the interrupt summaries (R347, R348) -/

/-- A signal changes vectors only. -/
theorem HostSide.signal_eq (h : HostSide) (v : Nat) : h.signal v = { h with vecs := (h.signal v).vecs } := by
  unfold HostSide.signal
  dsimp only
  split
  · unfold HostSide.sendVec
    dsimp only
    split <;> rfl
  · rfl

/-- Settling changes HIF_IRQ_PENDING and vectors only. -/
theorem HostSide.settle_eq (h : HostSide) :
    h.settle = { h with regs := if h.regs.summaries = h.get Reg.HIF_IRQ_PENDING then h.regs
                                else h.regs.set Reg.HIF_IRQ_PENDING h.regs.summaries,
                        vecs := h.settle.vecs } := by
  unfold HostSide.settle
  simp only
  split
  · rfl
  · have key : ∃ vs, forN 13 (fun i g =>
        if bit h.regs.summaries i && !bit (h.get Reg.HIF_IRQ_PENDING) i && g.on (Reg.HIF_IRQ_MAP.EN i)
        then g.signal (g.get (Reg.HIF_IRQ_MAP.VECTOR i)) else g) (h.set Reg.HIF_IRQ_PENDING h.regs.summaries)
        = { h with regs := h.regs.set Reg.HIF_IRQ_PENDING h.regs.summaries, vecs := vs } := by
      refine forN_keeps (fun g : HostSide => ∃ vs, g = { h with regs := h.regs.set Reg.HIF_IRQ_PENDING h.regs.summaries, vecs := vs })
        13 _ _ ⟨h.vecs, rfl⟩ ?_
      rintro i g ⟨vs, rfl⟩
      split
      · exact ⟨_, HostSide.signal_eq _ _⟩
      · exact ⟨vs, rfl⟩
    obtain ⟨vs, e⟩ := key
    rw [e]

@[simp] theorem HostSide.settle_latch (h : HostSide) : h.settle.latch = h.latch := by rw [HostSide.settle_eq]
@[simp] theorem HostSide.settle_readData (h : HostSide) : h.settle.readData = h.readData := by rw [HostSide.settle_eq]
@[simp] theorem HostSide.settle_mem (h : HostSide) : h.settle.mem = h.mem := by rw [HostSide.settle_eq]
@[simp] theorem HostSide.settle_bme (h : HostSide) : h.settle.bme = h.bme := by rw [HostSide.settle_eq]
@[simp] theorem HostSide.settle_pm (h : HostSide) : h.settle.pm = h.pm := by rw [HostSide.settle_eq]
@[simp] theorem HostSide.settle_sq (h : HostSide) : h.settle.sq = h.sq := by rw [HostSide.settle_eq]
@[simp] theorem HostSide.settle_lastQ (h : HostSide) : h.settle.lastQ = h.lastQ := by rw [HostSide.settle_eq]
@[simp] theorem HostSide.settle_rings (h : HostSide) : h.settle.rings = h.rings := by rw [HostSide.settle_eq]
@[simp] theorem HostSide.settle_gauge (h : HostSide) : h.settle.gauge = h.gauge := by rw [HostSide.settle_eq]
@[simp] theorem HostSide.settle_hbm (h : HostSide) : h.settle.hbm = h.hbm := by rw [HostSide.settle_eq]
@[simp] theorem HostSide.settle_lstore (h : HostSide) : h.settle.lstore = h.lstore := by rw [HostSide.settle_eq]
@[simp] theorem HostSide.settle_lsDirty (h : HostSide) : h.settle.lsDirty = h.lsDirty := by rw [HostSide.settle_eq]
@[simp] theorem HostSide.settle_slu (h : HostSide) : h.settle.slu = h.slu := by rw [HostSide.settle_eq]
@[simp] theorem HostSide.settle_cores (h : HostSide) : h.settle.cores = h.cores := by rw [HostSide.settle_eq]
@[simp] theorem HostSide.settle_lsc (h : HostSide) : h.settle.lsc = h.lsc := by rw [HostSide.settle_eq]
@[simp] theorem HostSide.settle_bar (h : HostSide) : h.settle.bar = h.bar := by rw [HostSide.settle_eq]
@[simp] theorem HostSide.settle_fresh (h : HostSide) : h.settle.fresh = h.fresh := by rw [HostSide.settle_eq]
@[simp] theorem HostSide.settle_ctxs (h : HostSide) : h.settle.ctxs = h.ctxs := by rw [HostSide.settle_eq]
@[simp] theorem HostSide.settle_lanes (h : HostSide) : h.settle.lanes = h.lanes := by rw [HostSide.settle_eq]
@[simp] theorem HostSide.settle_links (h : HostSide) : h.settle.links = h.links := by rw [HostSide.settle_eq]
@[simp] theorem HostSide.settle_ports (h : HostSide) : h.settle.ports = h.ports := by rw [HostSide.settle_eq]
@[simp] theorem HostSide.settle_pipes (h : HostSide) : h.settle.pipes = h.pipes := by rw [HostSide.settle_eq]
@[simp] theorem HostSide.settle_powerOns (h : HostSide) : h.settle.powerOns = h.powerOns := by rw [HostSide.settle_eq]
@[simp] theorem HostSide.settle_insp (h : HostSide) : h.settle.insp = h.insp := by rw [HostSide.settle_eq]
@[simp] theorem HostSide.settle_comp (h : HostSide) : h.settle.comp = h.comp := by rw [HostSide.settle_eq]
@[simp] theorem HostSide.settle_remoteReply (h : HostSide) : h.settle.remoteReply = h.remoteReply := by rw [HostSide.settle_eq]
@[simp] theorem HostSide.settle_starts (h : HostSide) : h.settle.starts = h.starts := by rw [HostSide.settle_eq]
@[simp] theorem HostSide.settle_tbs (h : HostSide) : h.settle.tbs = h.tbs := by rw [HostSide.settle_eq]
@[simp] theorem HostSide.settle_cmpLate (h : HostSide) : h.settle.cmpLate = h.cmpLate := by rw [HostSide.settle_eq]
@[simp] theorem HostSide.settle_pps (h : HostSide) : h.settle.pps = h.pps := by rw [HostSide.settle_eq]
@[simp] theorem HostSide.settle_chain (h : HostSide) : h.settle.chain = h.chain := by rw [HostSide.settle_eq]
@[simp] theorem HostSide.settle_eth (h : HostSide) : h.settle.eth = h.eth := by rw [HostSide.settle_eq]
@[simp] theorem HostSide.settle_hdw (h : HostSide) : h.settle.hdw = h.hdw := by rw [HostSide.settle_eq]
@[simp] theorem HostSide.settle_dbg (h : HostSide) : h.settle.dbg = h.dbg := by rw [HostSide.settle_eq]
@[simp] theorem HostSide.settle_mgmt (h : HostSide) : h.settle.mgmt = h.mgmt := by rw [HostSide.settle_eq]
@[simp] theorem HostSide.settle_down (h : HostSide) : h.settle.down = h.down := by rw [HostSide.settle_eq]
@[simp] theorem HostSide.settle_spGen (h : HostSide) : h.settle.spGen = h.spGen := by rw [HostSide.settle_eq]
@[simp] theorem HostSide.settle_boots (h : HostSide) : h.settle.boots = h.boots := by rw [HostSide.settle_eq]
@[simp] theorem HostSide.settle_noRead (h : HostSide) : h.settle.noRead = h.noRead := by rw [HostSide.settle_eq]
@[simp] theorem HostSide.settle_remoteSent (h : HostSide) : h.settle.remoteSent = h.remoteSent := by rw [HostSide.settle_eq]
@[simp] theorem HostSide.settle_heldCtx (h : HostSide) : h.settle.heldCtx = h.heldCtx := by rw [HostSide.settle_eq]

theorem HostSide.settle_regs (h : HostSide) :
    h.settle.regs = if h.regs.summaries = h.get Reg.HIF_IRQ_PENDING then h.regs else h.regs.set Reg.HIF_IRQ_PENDING h.regs.summaries := by
  rw [HostSide.settle_eq]

theorem HostSide.settle_word (h : HostSide) (a : Nat) (ha : a ≠ Reg.HIF_IRQ_PENDING.addr) : h.settle.word a = h.word a := by
  unfold HostSide.word
  rw [HostSide.settle_regs]
  split
  · rfl
  · exact RegFile.word_set_ne _ _ _ _ ha

/-- A field of another word than HIF_IRQ_PENDING is not touched by settling. -/
theorem HostSide.settle_get (h : HostSide) (f : RF) (ha : f.addr ≠ Reg.HIF_IRQ_PENDING.addr) : h.settle.get f = h.get f :=
  HostSide.get_of_word _ _ _ (HostSide.settle_word h _ ha)

theorem HostSide.settle_wordsBut (h : HostSide) (ws : List Nat) : h.settle.wordsBut h ws := fun a _ ha => HostSide.settle_word h a ha

theorem RegFile.raw_set_pending (rs : RegFile) (v a : Nat) (ha : a ≠ Reg.HIF_IRQ_PENDING.addr) :
    (rs.set Reg.HIF_IRQ_PENDING v).raw a = rs.raw a := by
  unfold RegFile.raw RegFile.set RegFile.setWord SMap.set
  split
  · rw [SMap.get_erase, if_neg ha]
  · rw [SMap.get_put, if_neg ha]

theorem RegFile.anyInt_set_pending (rs : RegFile) (v n a b st : Nat)
    (ha : ∀ i, i < n → a + i * st ≠ Reg.HIF_IRQ_PENDING.addr ∧ b + i * st ≠ Reg.HIF_IRQ_PENDING.addr) :
    (rs.set Reg.HIF_IRQ_PENDING v).anyInt n a b st = rs.anyInt n a b st := by
  unfold RegFile.anyInt
  rw [Bool.eq_iff_iff]
  simp only [List.any_eq_true, List.mem_range]
  constructor <;> rintro ⟨i, hi, h⟩ <;> refine ⟨i, hi, ?_⟩ <;>
    simpa only [RegFile.raw_set_pending _ _ _ (ha i hi).1, RegFile.raw_set_pending _ _ _ (ha i hi).2] using h

/-- The summaries do not depend on HIF_IRQ_PENDING. -/
theorem RegFile.summaries_set_pending (rs : RegFile) (v : Nat) : (rs.set Reg.HIF_IRQ_PENDING v).summaries = rs.summaries := by
  have e (a : Nat) (h : a ≠ 0x14040) : (rs.set Reg.HIF_IRQ_PENDING v).raw a = rs.raw a := RegFile.raw_set_pending rs v a h
  have p (n a b st : Nat) (h : ∀ i, i < n → a + i * st ≠ 0x14040 ∧ b + i * st ≠ 0x14040) := RegFile.anyInt_set_pending rs v n a b st h
  have c : ((List.range 128).any fun x => (rs.set Reg.HIF_IRQ_PENDING v).raw (0x90008 + x * 0x400) &&&
        (rs.set Reg.HIF_IRQ_PENDING v).raw (0x9000C + x * 0x400) &&& 0x7FC != 0)
      = (List.range 128).any fun x => rs.raw (0x90008 + x * 0x400) &&& rs.raw (0x9000C + x * 0x400) &&& 0x7FC != 0 := by
    congr 1
    funext x
    rw [e _ (by omega), e _ (by omega)]
  unfold RegFile.summaries
  simp only
  rw [c, p 16 _ _ _ (by omega), p 8 _ _ _ (by omega), p 1 0xC0048 _ _ (by omega), p 2 _ _ _ (by omega), p 1 0x824 _ _ (by omega),
    p 1 0x200E0 _ _ (by omega), p 1 0x7000A0 _ _ (by omega), p 1 0x780088 _ _ (by omega), p 1 0x600138 _ _ (by omega),
    e 0x100020 (by omega), e 0x100048 (by omega), e 0x100058 (by omega), e 0xE0008 (by omega), e 0xE000C (by omega),
    e 0x10000 (by omega), e 0x10004 (by omega), e 0x10008 (by omega)]

theorem b2n_le (b : Bool) : b2n b ≤ 1 := by cases b <;> decide

theorem RegFile.summaries_lt (rs : RegFile) : rs.summaries < 2 ^ 13 := by
  unfold RegFile.summaries
  simp only
  generalize rs.anyInt 16 0x50050 0x50054 0x400 = b0
  generalize rs.anyInt 8 0x60018 0x6001C 0x2000 = b2
  generalize rs.anyInt 1 0xC0048 0xC004C 0 = b3
  generalize rs.anyInt 2 0xD0054 0xD0058 0x1000 = b4
  generalize rs.anyInt 1 0x824 0x828 0 = b5
  generalize rs.anyInt 1 0x200E0 0x200E4 0 = b8
  generalize rs.anyInt 1 0x7000A0 0x7000A4 0 = b9
  generalize rs.anyInt 1 0x780088 0x78008C 0 = b10
  generalize rs.anyInt 1 0x600138 0x60013C 0 = b11
  generalize ((List.range 128).any fun x => rs.raw (0x90008 + x * 0x400) &&& rs.raw (0x9000C + x * 0x400) &&& 0x7FC != 0) = b1
  generalize (rs.raw 0x100020 % 32 != 0 || rs.raw 0x100048 / 512 % 2 != 0 || rs.raw 0x100058 / 512 % 2 != 0) = b6
  generalize (rs.raw 0xE0008 &&& rs.raw 0xE000C &&& 0x1E0 != 0) = b7
  generalize (rs.raw 0x10000 % 2 != 0 || rs.raw 0x10004 != 0 || rs.raw 0x10008 != 0) = b12
  have := b2n_le b0; have := b2n_le b1; have := b2n_le b2; have := b2n_le b3; have := b2n_le b4; have := b2n_le b5
  have := b2n_le b6; have := b2n_le b7; have := b2n_le b8; have := b2n_le b9; have := b2n_le b10; have := b2n_le b11
  have := b2n_le b12
  omega

/-- After settling, HIF_IRQ_PENDING shows the summaries. -/
theorem HostSide.settle_settled (h : HostSide) : h.settle.settled := by
  unfold HostSide.settled HostSide.get
  rw [HostSide.settle_regs]
  split
  · rename_i e; exact e.symm
  · rw [RegFile.summaries_set_pending, RegFile.get_set_self _ _ _ (by show 0 + 13 ≤ 32; omega)]
    exact Nat.mod_eq_of_lt (RegFile.summaries_lt _)

/-- A settled host side is left as it is. -/
theorem HostSide.settle_of_settled (h : HostSide) (hs : h.settled) : h.settle = h := by
  unfold HostSide.settle
  unfold HostSide.settled at hs
  simp only
  rw [if_pos hs.symm]

/-! ### Outcomes of the command frames -/

theorem State.onHost_up (s : State) (f : Env → HostSide → HostSide) (h : s.up) :
    s.onHost f = .next { s with host := (f s.env s.host).settle } := by
  unfold State.onHost
  unfold State.up at h
  simp [h]

theorem State.onHost_down (s : State) (f : Env → HostSide → HostSide) (h : ¬ s.up) : s.onHost f = .next s := by
  unfold State.onHost
  unfold State.up at h
  simp at h
  simp [h]

theorem State.onBar_open (s : State) (f : Env → HostSide → HostSide) (h : s.open_) :
    s.onBar f = .next { s with host := (f s.env s.host).settle } := by
  unfold State.onBar
  rw [State.onHost_up _ _ h.1]
  simp [h.2]

theorem State.onBar_closed (s : State) (f : Env → HostSide → HostSide) (hr : s.host.ready = false) (hs : s.settled) :
    s.onBar f = .next s := by
  unfold State.onBar
  by_cases h : s.up
  · rw [State.onHost_up _ _ h]; simp [hr, HostSide.settle_of_settled _ hs]
  · exact State.onHost_down _ _ h

theorem State.onData_running (s : State) (f : Env → HostSide → HostSide) (h : s.running) :
    s.onData f = .next { s with host := (f s.env s.host).settle } := by
  unfold State.onData
  rw [State.onHost_up _ _ h.1]
  simp [h.2]

theorem State.onData_stopped (s : State) (f : Env → HostSide → HostSide) (hr : s.host.stopped = true) (hs : s.settled) :
    s.onData f = .next s := by
  unfold State.onData
  by_cases h : s.up
  · rw [State.onHost_up _ _ h]; simp [hr, HostSide.settle_of_settled _ hs]
  · exact State.onHost_down _ _ h

/-- Whatever a host command does, the summaries are up to date after it. -/
theorem State.onHost_settled (s t : State) (f : Env → HostSide → HostSide) (hs : s.settled) (h : s.onHost f = .next t) : t.settled := by
  by_cases hu : s.up
  · rw [State.onHost_up _ _ hu] at h
    cases h
    exact HostSide.settle_settled _
  · rw [State.onHost_down _ _ hu] at h
    cases h
    exact hs

/-- A command of the field die leaves the host side's summaries as they were. -/
theorem State.onField_settled (s t : State) (f : Env → FieldDie → FieldDie) (hs : s.settled) (h : s.onField f = .next t) : t.settled := by
  cases h
  exact hs

/-- A host command that only writes registers at addresses of `ws`. -/
theorem State.regsOnly_of (s : State) (g : HostSide) (ws : List Nat)
    (hg : { g with regs := s.host.regs, vecs := s.host.vecs } = s.host) (hw : g.wordsBut s.host ws) :
    s.regsOnly { s with host := g.settle } ws := by
  refine ⟨⟨rfl, rfl, rfl, rfl⟩, ?_, ?_⟩
  · rw [HostSide.settle_eq]; exact hg
  · intro a h1 h2
    show g.settle.word a = s.host.word a
    rw [HostSide.settle_word _ _ h2]; exact hw a h1 h2

end Sys2Proof.Machine
end

