-- ==== Sys2Proof/Laws/Kinds.lean ====
section
/-! SUPPORT. The frame of every command, one lemma each: a command of the host side (R423), of the data plane (R232), a BAR write
(R349), or a command of the field die, with what it does there left as a function of the side it acts on. -/

namespace Sys2Proof.Machine
open Sys2Proof

theorem kind_registerWrite (a : Nat) (v : Word) : ∃ f : Env → HostSide → HostSide, ∀ s, exec (.registerWrite a v) s = s.onBar f :=
  ⟨_, fun s => by show execRegisterWrite a v s = _; delta execRegisterWrite; with_reducible rfl⟩
theorem kind_registerReadClear (a : Nat) : ∃ f : Env → HostSide → HostSide, ∀ s, exec (.registerReadClear a) s = s.onHost f :=
  ⟨_, fun s => by show execRegisterReadClear a s = _; delta execRegisterReadClear; with_reducible rfl⟩
theorem kind_loReadLatch (a : Nat) : ∃ f : Env → HostSide → HostSide, ∀ s, exec (.loReadLatch a) s = s.onHost f :=
  ⟨_, fun s => by show execLoReadLatch a s = _; delta execLoReadLatch; with_reducible rfl⟩
theorem kind_commitPointApply : ∃ f : Env → HostSide → HostSide, ∀ s, exec (.commitPointApply) s = s.onData f :=
  ⟨_, fun s => by show execCommitPointApply s = _; delta execCommitPointApply; with_reducible rfl⟩
theorem kind_laneInjTx (l : Nat) : ∃ f : Env → HostSide → HostSide, ∀ s, exec (.laneInjTx l) s = s.onBar f :=
  ⟨_, fun s => by show execLaneInjTx l s = _; delta execLaneInjTx; with_reducible rfl⟩
theorem kind_laneInjRx (l : Nat) : ∃ f : Env → HostSide → HostSide, ∀ s, exec (.laneInjRx l) s = s.onBar f :=
  ⟨_, fun s => by show execLaneInjRx l s = _; delta execLaneInjRx; with_reducible rfl⟩
theorem kind_lanePeriodicInject (l : Nat) : ∃ f : Env → HostSide → HostSide, ∀ s, exec (.lanePeriodicInject l) s = s.onHost f :=
  ⟨_, fun s => by show execLanePeriodicInject l s = _; delta execLanePeriodicInject; with_reducible rfl⟩
theorem kind_laneCntClr (l : Nat) : ∃ f : Env → HostSide → HostSide, ∀ s, exec (.laneCntClr l) s = s.onBar f :=
  ⟨_, fun s => by show execLaneCntClr l s = _; delta execLaneCntClr; with_reducible rfl⟩
theorem kind_eqClamp (l peak : Nat) : ∃ f : Env → HostSide → HostSide, ∀ s, exec (.eqClamp l peak) s = s.onHost f :=
  ⟨_, fun s => by show execEqClamp l peak s = _; delta execEqClamp; with_reducible rfl⟩
theorem kind_prbsLock (l bitsN : Nat) (wire : List Bool) : ∃ f : Env → HostSide → HostSide, ∀ s, exec (.prbsLock l bitsN wire) s = s.onHost f :=
  ⟨_, fun s => by show execPrbsLock l bitsN wire s = _; delta execPrbsLock; with_reducible rfl⟩
theorem kind_prbsUnlock (l bitsN errs : Nat) (wire : List Bool) : ∃ f : Env → HostSide → HostSide, ∀ s, exec (.prbsUnlock l bitsN errs wire) s = s.onHost f :=
  ⟨_, fun s => by show execPrbsUnlock l bitsN errs wire s = _; delta execPrbsUnlock; with_reducible rfl⟩
theorem kind_cxpLinkEnable (n : Nat) (v : Word) : ∃ f : Env → HostSide → HostSide, ∀ s, exec (.cxpLinkEnable n v) s = s.onBar f :=
  ⟨_, fun s => by show execCxpLinkEnable n v s = _; delta execCxpLinkEnable; with_reducible rfl⟩
theorem kind_cxpLinkDisable (n : Nat) (v : Word) : ∃ f : Env → HostSide → HostSide, ∀ s, exec (.cxpLinkDisable n v) s = s.onBar f :=
  ⟨_, fun s => by show execCxpLinkDisable n v s = _; delta execCxpLinkDisable; with_reducible rfl⟩
theorem kind_cxpMasterLock (n : Nat) : ∃ f : Env → HostSide → HostSide, ∀ s, exec (.cxpMasterLock n) s = s.onHost f :=
  ⟨_, fun s => by show execCxpMasterLock n s = _; delta execCxpMasterLock; with_reducible rfl⟩
theorem kind_cxpDiscTimeout (n : Nat) : ∃ f : Env → HostSide → HostSide, ∀ s, exec (.cxpDiscTimeout n) s = s.onHost f :=
  ⟨_, fun s => by show execCxpDiscTimeout n s = _; delta execCxpDiscTimeout; with_reducible rfl⟩
theorem kind_cxpBootstrapReadDone (n : Nat) (ok last : Bool) (conn speed : Nat) (hs : Bool) : ∃ f : Env → HostSide → HostSide, ∀ s, exec (.cxpBootstrapReadDone n ok last conn speed hs) s = s.onHost f :=
  ⟨_, fun s => by show execCxpBootstrapReadDone n ok last conn speed hs s = _; delta execCxpBootstrapReadDone; with_reducible rfl⟩
theorem kind_cxpConfigAck (n : Nat) : ∃ f : Env → HostSide → HostSide, ∀ s, exec (.cxpConfigAck n) s = s.onHost f :=
  ⟨_, fun s => by show execCxpConfigAck n s = _; delta execCxpConfigAck; with_reducible rfl⟩
theorem kind_cxpSwitchLocked (n : Nat) : ∃ f : Env → HostSide → HostSide, ∀ s, exec (.cxpSwitchLocked n) s = s.onHost f :=
  ⟨_, fun s => by show execCxpSwitchLocked n s = _; delta execCxpSwitchLocked; with_reducible rfl⟩
theorem kind_cxpSwitchTimeout (n : Nat) : ∃ f : Env → HostSide → HostSide, ∀ s, exec (.cxpSwitchTimeout n) s = s.onHost f :=
  ⟨_, fun s => by show execCxpSwitchTimeout n s = _; delta execCxpSwitchTimeout; with_reducible rfl⟩
theorem kind_cxpLockLoss (n : Nat) : ∃ f : Env → HostSide → HostSide, ∀ s, exec (.cxpLockLoss n) s = s.onHost f :=
  ⟨_, fun s => by show execCxpLockLoss n s = _; delta execCxpLockLoss; with_reducible rfl⟩
theorem kind_cxpPowerFault (n : Nat) : ∃ f : Env → HostSide → HostSide, ∀ s, exec (.cxpPowerFault n) s = s.onHost f :=
  ⟨_, fun s => by show execCxpPowerFault n s = _; delta execCxpPowerFault; with_reducible rfl⟩
theorem kind_cxpRestart (n : Nat) : ∃ f : Env → HostSide → HostSide, ∀ s, exec (.cxpRestart n) s = s.onBar f :=
  ⟨_, fun s => by show execCxpRestart n s = _; delta execCxpRestart; with_reducible rfl⟩
theorem kind_cxpCcGo (n : Nat) (v : Word) : ∃ f : Env → HostSide → HostSide, ∀ s, exec (.cxpCcGo n v) s = s.onBar f :=
  ⟨_, fun s => by show execCxpCcGo n v s = _; delta execCxpCcGo; with_reducible rfl⟩
theorem kind_cxpCcReply (n result : Nat) (data : List Byte) : ∃ f : Env → HostSide → HostSide, ∀ s, exec (.cxpCcReply n result data) s = s.onHost f :=
  ⟨_, fun s => by show execCxpCcReply n result data s = _; delta execCxpCcReply; with_reducible rfl⟩
theorem kind_cxpCcTimeout (n : Nat) : ∃ f : Env → HostSide → HostSide, ∀ s, exec (.cxpCcTimeout n) s = s.onHost f :=
  ⟨_, fun s => by show execCxpCcTimeout n s = _; delta execCxpCcTimeout; with_reducible rfl⟩
theorem kind_cxpStreamPacket (n id fmt : Nat) (crcBad gap : Bool) (data : List Byte) : ∃ f : Env → HostSide → HostSide, ∀ s, exec (.cxpStreamPacket n id fmt crcBad gap data) s = s.onHost f :=
  ⟨_, fun s => by show execCxpStreamPacket n id fmt crcBad gap data s = _; delta execCxpStreamPacket; with_reducible rfl⟩
theorem kind_cxpHeartbeatRx (n camTime : Nat) : ∃ f : Env → HostSide → HostSide, ∀ s, exec (.cxpHeartbeatRx n camTime) s = s.onHost f :=
  ⟨_, fun s => by show execCxpHeartbeatRx n camTime s = _; delta execCxpHeartbeatRx; with_reducible rfl⟩
theorem kind_cxpHbTimeout (n : Nat) : ∃ f : Env → HostSide → HostSide, ∀ s, exec (.cxpHbTimeout n) s = s.onHost f :=
  ⟨_, fun s => by show execCxpHbTimeout n s = _; delta execCxpHbTimeout; with_reducible rfl⟩
theorem kind_cxpEventPacket (n : Nat) (data : List Byte) : ∃ f : Env → HostSide → HostSide, ∀ s, exec (.cxpEventPacket n data) s = s.onHost f :=
  ⟨_, fun s => by show execCxpEventPacket n data s = _; delta execCxpEventPacket; with_reducible rfl⟩
theorem kind_cxpEvtPop (n : Nat) : ∃ f : Env → HostSide → HostSide, ∀ s, exec (.cxpEvtPop n) s = s.onBar f :=
  ⟨_, fun s => by show execCxpEvtPop n s = _; delta execCxpEvtPop; with_reducible rfl⟩
theorem kind_iflEnable (p : Nat) (v : Word) : ∃ f : Env → HostSide → HostSide, ∀ s, exec (.iflEnable p v) s = s.onBar f :=
  ⟨_, fun s => by show execIflEnable p v s = _; delta execIflEnable; with_reducible rfl⟩
theorem kind_iflDisable (p : Nat) (v : Word) : ∃ f : Env → HostSide → HostSide, ∀ s, exec (.iflDisable p v) s = s.onBar f :=
  ⟨_, fun s => by show execIflDisable p v s = _; delta execIflDisable; with_reducible rfl⟩
theorem kind_iflRetrain (p : Nat) : ∃ f : Env → HostSide → HostSide, ∀ s, exec (.iflRetrain p) s = s.onBar f :=
  ⟨_, fun s => by show execIflRetrain p s = _; delta execIflRetrain; with_reducible rfl⟩
theorem kind_iflTxStart (p : Nat) : ∃ f : Env → HostSide → HostSide, ∀ s, exec (.iflTxStart p) s = s.onHost f :=
  ⟨_, fun s => by show execIflTxStart p s = _; delta execIflTxStart; with_reducible rfl⟩
theorem kind_iflMarkerRx (p i : Nat) (wire : List Bool) (skew : Nat) : ∃ f : Env → HostSide → HostSide, ∀ s, exec (.iflMarkerRx p i wire skew) s = s.onHost f :=
  ⟨_, fun s => by show execIflMarkerRx p i wire skew s = _; delta execIflMarkerRx; with_reducible rfl⟩
theorem kind_iflMarkerMissing (p i : Nat) : ∃ f : Env → HostSide → HostSide, ∀ s, exec (.iflMarkerMissing p i) s = s.onHost f :=
  ⟨_, fun s => by show execIflMarkerMissing p i s = _; delta execIflMarkerMissing; with_reducible rfl⟩
theorem kind_iflFlitRx (p : Nat) (w0 w1 : List Bool) : ∃ f : Env → HostSide → HostSide, ∀ s, exec (.iflFlitRx p w0 w1) s = s.onHost f :=
  ⟨_, fun s => by show execIflFlitRx p w0 w1 s = _; delta execIflFlitRx; with_reducible rfl⟩
theorem kind_iflAckTimeout (p : Nat) : ∃ f : Env → HostSide → HostSide, ∀ s, exec (.iflAckTimeout p) s = s.onHost f :=
  ⟨_, fun s => by show execIflAckTimeout p s = _; delta execIflAckTimeout; with_reducible rfl⟩
theorem kind_iflCreditSend (p : Nat) : ∃ f : Env → HostSide → HostSide, ∀ s, exec (.iflCreditSend p) s = s.onHost f :=
  ⟨_, fun s => by show execIflCreditSend p s = _; delta execIflCreditSend; with_reducible rfl⟩
theorem kind_lineTick (j : Nat) : ∃ f : Env → HostSide → HostSide, ∀ s, exec (.lineTick j) s = s.onHost f :=
  ⟨_, fun s => by show execLineTick j s = _; delta execLineTick; with_reducible rfl⟩
theorem kind_pixLineComplete (n x : Nat) : ∃ f : Env → HostSide → HostSide, ∀ s, exec (.pixLineComplete n x) s = s.onHost f :=
  ⟨_, fun s => by show execPixLineComplete n x s = _; delta execPixLineComplete; with_reducible rfl⟩
theorem kind_pixTickTimeout (x : Nat) : ∃ f : Env → HostSide → HostSide, ∀ s, exec (.pixTickTimeout x) s = s.onHost f :=
  ⟨_, fun s => by show execPixTickTimeout x s = _; delta execPixTickTimeout; with_reducible rfl⟩
theorem kind_pipeTurnStart (p : Nat) : ∃ f : Env → HostSide → HostSide, ∀ s, exec (.pipeTurnStart p) s = s.onData f :=
  ⟨_, fun s => by show execPipeTurnStart p s = _; delta execPipeTurnStart; with_reducible rfl⟩
theorem kind_pixLineProcessed (p : Nat) (bad : List (Nat × List Byte)) (ecc : List (Nat × Ecc)) : ∃ f : Env → HostSide → HostSide, ∀ s, exec (.pixLineProcessed p bad ecc) s = s.onData f :=
  ⟨_, fun s => by show execPixLineProcessed p bad ecc s = _; delta execPixLineProcessed; with_reducible rfl⟩
theorem kind_pipeFreeNotice (k h : Nat) : ∃ f : Env → HostSide → HostSide, ∀ s, exec (.pipeFreeNotice k h) s = s.onData f :=
  ⟨_, fun s => by show execPipeFreeNotice k h s = _; delta execPipeFreeNotice; with_reducible rfl⟩
theorem kind_ctxCommit (x : Nat) : ∃ f : Env → HostSide → HostSide, ∀ s, exec (.ctxCommit x) s = s.onBar f :=
  ⟨_, fun s => by show execCtxCommit x s = _; delta execCtxCommit; with_reducible rfl⟩
theorem kind_ctxAbort (x : Nat) : ∃ f : Env → HostSide → HostSide, ∀ s, exec (.ctxAbort x) s = s.onBar f :=
  ⟨_, fun s => by show execCtxAbort x s = _; delta execCtxAbort; with_reducible rfl⟩
theorem kind_pipeCommit (p : Nat) : ∃ f : Env → HostSide → HostSide, ∀ s, exec (.pipeCommit p) s = s.onBar f :=
  ⟨_, fun s => by show execPipeCommit p s = _; delta execPipeCommit; with_reducible rfl⟩
theorem kind_ctxEnable (x : Nat) (v : Word) : ∃ f : Env → HostSide → HostSide, ∀ s, exec (.ctxEnable x v) s = s.onBar f :=
  ⟨_, fun s => by show execCtxEnable x v s = _; delta execCtxEnable; with_reducible rfl⟩
theorem kind_ctxDisable (x : Nat) (v : Word) : ∃ f : Env → HostSide → HostSide, ∀ s, exec (.ctxDisable x v) s = s.onBar f :=
  ⟨_, fun s => by show execCtxDisable x v s = _; delta execCtxDisable; with_reducible rfl⟩
theorem kind_setGo (x : Nat) (v : Word) : ∃ f : Env → HostSide → HostSide, ∀ s, exec (.setGo x v) s = s.onBar f :=
  ⟨_, fun s => by show execSetGo x v s = _; delta execSetGo; with_reducible rfl⟩
theorem kind_settingsAck (x : Nat) (ok : Bool) : ∃ f : Env → HostSide → HostSide, ∀ s, exec (.settingsAck x ok) s = s.onHost f :=
  ⟨_, fun s => by show execSettingsAck x ok s = _; delta execSettingsAck; with_reducible rfl⟩
theorem kind_nop (c : Nat) : ∃ f : Env → HostSide → HostSide, ∀ s, exec (.nop c) s = s.onData f :=
  ⟨_, fun s => by show execNop c s = _; delta execNop; with_reducible rfl⟩
theorem kind_load (c : Nat) : ∃ f : Env → HostSide → HostSide, ∀ s, exec (.load c) s = s.onData f :=
  ⟨_, fun s => by show execLoad c s = _; delta execLoad; with_reducible rfl⟩
theorem kind_store (c : Nat) (ecc : Ecc) : ∃ f : Env → HostSide → HostSide, ∀ s, exec (.store c ecc) s = s.onData f :=
  ⟨_, fun s => by show execStore c ecc s = _; delta execStore; with_reducible rfl⟩
theorem kind_mma (c : Nat) (ecc : Ecc) : ∃ f : Env → HostSide → HostSide, ∀ s, exec (.mma c ecc) s = s.onData f :=
  ⟨_, fun s => by show execMma c ecc s = _; delta execMma; with_reducible rfl⟩
theorem kind_drain (c : Nat) (ecc : Ecc) : ∃ f : Env → HostSide → HostSide, ∀ s, exec (.drain c ecc) s = s.onData f :=
  ⟨_, fun s => by show execDrain c ecc s = _; delta execDrain; with_reducible rfl⟩
theorem kind_vop (c : Nat) (ecc : Ecc) : ∃ f : Env → HostSide → HostSide, ∀ s, exec (.vop c ecc) s = s.onData f :=
  ⟨_, fun s => by show execVop c ecc s = _; delta execVop; with_reducible rfl⟩
theorem kind_vlut (c : Nat) (ecc : Ecc) : ∃ f : Env → HostSide → HostSide, ∀ s, exec (.vlut c ecc) s = s.onData f :=
  ⟨_, fun s => by show execVlut c ecc s = _; delta execVlut; with_reducible rfl⟩
theorem kind_vsort (c : Nat) (ecc : Ecc) : ∃ f : Env → HostSide → HostSide, ∀ s, exec (.vsort c ecc) s = s.onData f :=
  ⟨_, fun s => by show execVsort c ecc s = _; delta execVsort; with_reducible rfl⟩
theorem kind_window (c : Nat) (ecc : Ecc) : ∃ f : Env → HostSide → HostSide, ∀ s, exec (.window c ecc) s = s.onData f :=
  ⟨_, fun s => by show execWindow c ecc s = _; delta execWindow; with_reducible rfl⟩
theorem kind_wait (c : Nat) : ∃ f : Env → HostSide → HostSide, ∀ s, exec (.wait c) s = s.onData f :=
  ⟨_, fun s => by show execWait c s = _; delta execWait; with_reducible rfl⟩
theorem kind_waitSatisfied (c : Nat) : ∃ f : Env → HostSide → HostSide, ∀ s, exec (.waitSatisfied c) s = s.onData f :=
  ⟨_, fun s => by show execWaitSatisfied c s = _; delta execWaitSatisfied; with_reducible rfl⟩
theorem kind_tset (c : Nat) : ∃ f : Env → HostSide → HostSide, ∀ s, exec (.tset c) s = s.onData f :=
  ⟨_, fun s => by show execTset c s = _; delta execTset; with_reducible rfl⟩
theorem kind_call (c : Nat) (ecc : Ecc) : ∃ f : Env → HostSide → HostSide, ∀ s, exec (.call c ecc) s = s.onData f :=
  ⟨_, fun s => by show execCall c ecc s = _; delta execCall; with_reducible rfl⟩
theorem kind_endList (c : Nat) : ∃ f : Env → HostSide → HostSide, ∀ s, exec (.endList c) s = s.onData f :=
  ⟨_, fun s => by show execEndList c s = _; delta execEndList; with_reducible rfl⟩
theorem kind_yieldPoint (c cycles : Nat) : ∃ f : Env → HostSide → HostSide, ∀ s, exec (.yieldPoint c cycles) s = s.onData f :=
  ⟨_, fun s => by show execYieldPoint c cycles s = _; delta execYieldPoint; with_reducible rfl⟩
theorem kind_verdict (c : Nat) (ecc : Ecc) : ∃ f : Env → HostSide → HostSide, ∀ s, exec (.verdict c ecc) s = s.onData f :=
  ⟨_, fun s => by show execVerdict c ecc s = _; delta execVerdict; with_reducible rfl⟩
theorem kind_listTileFetch (c : Nat) (ecc : Ecc) : ∃ f : Env → HostSide → HostSide, ∀ s, exec (.listTileFetch c ecc) s = s.onData f :=
  ⟨_, fun s => by show execListTileFetch c ecc s = _; delta execListTileFetch; with_reducible rfl⟩
theorem kind_commandComplete (c : Nat) (units : List Nat) (ecc : Ecc) : ∃ f : Env → HostSide → HostSide, ∀ s, exec (.commandComplete c units ecc) s = s.onData f :=
  ⟨_, fun s => by show execCommandComplete c units ecc s = _; delta execCommandComplete; with_reducible rfl⟩
theorem kind_transferComplete (c space : Nat) (bad : List (Nat × List Byte)) (down : Bool) (data : List Byte) (ecc merge : Ecc) : ∃ f : Env → HostSide → HostSide, ∀ s, exec (.transferComplete c space bad down data ecc merge) s = s.onData f :=
  ⟨_, fun s => by show execTransferComplete c space bad down data ecc merge s = _; delta execTransferComplete; with_reducible rfl⟩
theorem kind_coreClearErr (site : Nat) : ∃ f : Env → HostSide → HostSide, ∀ s, exec (.coreClearErr site) s = s.onBar f :=
  ⟨_, fun s => by show execCoreClearErr site s = _; delta execCoreClearErr; with_reducible rfl⟩
theorem kind_stripePost (k h : Nat) : ∃ f : Env → HostSide → HostSide, ∀ s, exec (.stripePost k h) s = s.onData f :=
  ⟨_, fun s => by show execStripePost k h s = _; delta execStripePost; with_reducible rfl⟩
theorem kind_stripeRelease (k h j : Nat) : ∃ f : Env → HostSide → HostSide, ∀ s, exec (.stripeRelease k h j) s = s.onData f :=
  ⟨_, fun s => by show execStripeRelease k h j s = _; delta execStripeRelease; with_reducible rfl⟩
theorem kind_rdyTokSignal (k h : Nat) : ∃ f : Env → HostSide → HostSide, ∀ s, exec (.rdyTokSignal k h) s = s.onData f :=
  ⟨_, fun s => by show execRdyTokSignal k h s = _; delta execRdyTokSignal; with_reducible rfl⟩
theorem kind_freeTokSignal (k h : Nat) : ∃ f : Env → HostSide → HostSide, ∀ s, exec (.freeTokSignal k h) s = s.onData f :=
  ⟨_, fun s => by show execFreeTokSignal k h s = _; delta execFreeTokSignal; with_reducible rfl⟩
theorem kind_lscEnable (k h : Nat) (v : Word) : ∃ f : Env → HostSide → HostSide, ∀ s, exec (.lscEnable k h v) s = s.onBar f :=
  ⟨_, fun s => by show execLscEnable k h v s = _; delta execLscEnable; with_reducible rfl⟩
theorem kind_lscDisable (k h : Nat) (v : Word) : ∃ f : Env → HostSide → HostSide, ∀ s, exec (.lscDisable k h v) s = s.onBar f :=
  ⟨_, fun s => by show execLscDisable k h v s = _; delta execLscDisable; with_reducible rfl⟩
theorem kind_sluCommit (n cycle : Nat) : ∃ f : Env → HostSide → HostSide, ∀ s, exec (.sluCommit n cycle) s = s.onBar f :=
  ⟨_, fun s => by show execSluCommit n cycle s = _; delta execSluCommit; with_reducible rfl⟩
theorem kind_memSluCommit (tables : Word) (cycle : Nat) : ∃ f : Env → HostSide → HostSide, ∀ s, exec (.memSluCommit tables cycle) s = s.onBar f :=
  ⟨_, fun s => by show execMemSluCommit tables cycle s = _; delta execMemSluCommit; with_reducible rfl⟩
theorem kind_sluAbort (n : Nat) : ∃ f : Env → HostSide → HostSide, ∀ s, exec (.sluAbort n) s = s.onBar f :=
  ⟨_, fun s => by show execSluAbort n s = _; delta execSluAbort; with_reducible rfl⟩
theorem kind_sluicePeriodBoundary (temp0 temp1 : Nat) : ∃ f : Env → HostSide → HostSide, ∀ s, exec (.sluicePeriodBoundary temp0 temp1) s = s.onHost f :=
  ⟨_, fun s => by show execSluicePeriodBoundary temp0 temp1 s = _; delta execSluicePeriodBoundary; with_reducible rfl⟩
theorem kind_sluiceSlot (n i ready ce : Nat) (ue : List Nat) : ∃ f : Env → HostSide → HostSide, ∀ s, exec (.sluiceSlot n i ready ce ue) s = s.onHost f :=
  ⟨_, fun s => by show execSluiceSlot n i ready ce ue s = _; delta execSluiceSlot; with_reducible rfl⟩
theorem kind_openSlotArbitrate (n requests : Nat) (withdrawn : Bool) : ∃ f : Env → HostSide → HostSide, ∀ s, exec (.openSlotArbitrate n requests withdrawn) s = s.onData f :=
  ⟨_, fun s => by show execOpenSlotArbitrate n requests withdrawn s = _; delta execOpenSlotArbitrate; with_reducible rfl⟩
theorem kind_emergencyRequest (n : Nat) (stale : Bool) : ∃ f : Env → HostSide → HostSide, ∀ s, exec (.emergencyRequest n stale) s = s.onHost f :=
  ⟨_, fun s => by show execEmergencyRequest n stale s = _; delta execEmergencyRequest; with_reducible rfl⟩
theorem kind_remoteAccessRx (port : Nat) (write : Bool) (far len rif : Nat) (data : List Byte) (bad : List (Nat × List Byte)) (ecc : Ecc) : ∃ f : Env → HostSide → HostSide, ∀ s, exec (.remoteAccessRx port write far len rif data bad ecc) s = s.onData f :=
  ⟨_, fun s => by show execRemoteAccessRx port write far len rif data bad ecc s = _; delta execRemoteAccessRx; with_reducible rfl⟩
theorem kind_hbmInitDone : ∃ f : Env → HostSide → HostSide, ∀ s, exec (.hbmInitDone) s = s.onHost f :=
  ⟨_, fun s => by show execHbmInitDone s = _; delta execHbmInitDone; with_reducible rfl⟩
theorem kind_coreFence (site cause : Nat) : ∃ f : Env → HostSide → HostSide, ∀ s, exec (.coreFence site cause) s = s.onHost f :=
  ⟨_, fun s => by show execCoreFence site cause s = _; delta execCoreFence; with_reducible rfl⟩
theorem kind_detFenceGo (site : Nat) : ∃ f : Env → HostSide → HostSide, ∀ s, exec (.detFenceGo site) s = s.onBar f :=
  ⟨_, fun s => by show execDetFenceGo site s = _; delta execDetFenceGo; with_reducible rfl⟩
theorem kind_corePollTimeout (site : Nat) : ∃ f : Env → HostSide → HostSide, ∀ s, exec (.corePollTimeout site) s = s.onHost f :=
  ⟨_, fun s => by show execCorePollTimeout site s = _; delta execCorePollTimeout; with_reducible rfl⟩
theorem kind_spareSelfTest (k : Nat) (pass : Bool) : ∃ f : Env → HostSide → HostSide, ∀ s, exec (.spareSelfTest k pass) s = s.onHost f :=
  ⟨_, fun s => by show execSpareSelfTest k pass s = _; delta execSpareSelfTest; with_reducible rfl⟩
theorem kind_recipeHalt : ∃ f : Env → HostSide → HostSide, ∀ s, exec (.recipeHalt) s = s.onData f :=
  ⟨_, fun s => by show execRecipeHalt s = _; delta execRecipeHalt; with_reducible rfl⟩
theorem kind_spareRestart (k : Nat) : ∃ f : Env → HostSide → HostSide, ∀ s, exec (.spareRestart k) s = s.onData f :=
  ⟨_, fun s => by show execSpareRestart k s = _; delta execSpareRestart; with_reducible rfl⟩
theorem kind_undecidedRelease (seq : Nat) : ∃ f : Env → HostSide → HostSide, ∀ s, exec (.undecidedRelease seq) s = s.onData f :=
  ⟨_, fun s => by show execUndecidedRelease seq s = _; delta execUndecidedRelease; with_reducible rfl⟩
theorem kind_lineDigestDone (ctx : Nat) : ∃ f : Env → HostSide → HostSide, ∀ s, exec (.lineDigestDone ctx) s = s.onHost f :=
  ⟨_, fun s => by show execLineDigestDone ctx s = _; delta execLineDigestDone; with_reducible rfl⟩
theorem kind_verdictRelease (seq : Nat) : ∃ f : Env → HostSide → HostSide, ∀ s, exec (.verdictRelease seq) s = s.onData f :=
  ⟨_, fun s => by show execVerdictRelease seq s = _; delta execVerdictRelease; with_reducible rfl⟩
theorem kind_sealStart (n : Nat) : ∃ f : Env → HostSide → HostSide, ∀ s, exec (.sealStart n) s = s.onHost f :=
  ⟨_, fun s => by show execSealStart n s = _; delta execSealStart; with_reducible rfl⟩
theorem kind_sealSigned (n : Nat) : ∃ f : Env → HostSide → HostSide, ∀ s, exec (.sealSigned n) s = s.onHost f :=
  ⟨_, fun s => by show execSealSigned n s = _; delta execSealSigned; with_reducible rfl⟩
theorem kind_gstopStop (source : Nat) : ∃ f : Env → HostSide → HostSide, ∀ s, exec (.gstopStop source) s = s.onHost f :=
  ⟨_, fun s => by show execGstopStop source s = _; delta execGstopStop; with_reducible rfl⟩
theorem kind_gstopTakeEffect : ∃ f : Env → HostSide → HostSide, ∀ s, exec (.gstopTakeEffect) s = s.onHost f :=
  ⟨_, fun s => by show execGstopTakeEffect s = _; delta execGstopTakeEffect; with_reducible rfl⟩
theorem kind_gstopRelease (source : Nat) : ∃ f : Env → HostSide → HostSide, ∀ s, exec (.gstopRelease source) s = s.onHost f :=
  ⟨_, fun s => by show execGstopRelease source s = _; delta execGstopRelease; with_reducible rfl⟩
theorem kind_gstopResume : ∃ f : Env → HostSide → HostSide, ∀ s, exec (.gstopResume) s = s.onHost f :=
  ⟨_, fun s => by show execGstopResume s = _; delta execGstopResume; with_reducible rfl⟩
theorem kind_encInputChange (ch : Nat) (a b : Bool) : ∃ f : Env → FieldDie → FieldDie, ∀ s, exec (.encInputChange ch a b) s = s.onField f :=
  ⟨_, fun s => by show execEncInputChange ch a b s = _; delta execEncInputChange; with_reducible rfl⟩
theorem kind_encOpenDetect (ch pair : Nat) : ∃ f : Env → FieldDie → FieldDie, ∀ s, exec (.encOpenDetect ch pair) s = s.onField f :=
  ⟨_, fun s => by show execEncOpenDetect ch pair s = _; delta execEncOpenDetect; with_reducible rfl⟩
theorem kind_encZEdge (ch : Nat) (level : Bool) : ∃ f : Env → FieldDie → FieldDie, ∀ s, exec (.encZEdge ch level) s = s.onField f :=
  ⟨_, fun s => by show execEncZEdge ch level s = _; delta execEncZEdge; with_reducible rfl⟩
theorem kind_hallCodeChange (ch code : Nat) : ∃ f : Env → FieldDie → FieldDie, ∀ s, exec (.hallCodeChange ch code) s = s.onField f :=
  ⟨_, fun s => by show execHallCodeChange ch code s = _; delta execHallCodeChange; with_reducible rfl⟩
theorem kind_sincosSample (ch sin cos : Nat) : ∃ f : Env → FieldDie → FieldDie, ∀ s, exec (.sincosSample ch sin cos) s = s.onField f :=
  ⟨_, fun s => by show execSincosSample ch sin cos s = _; delta execSincosSample; with_reducible rfl⟩
theorem kind_serFrameStart (ch : Nat) (dataLow : Bool) : ∃ f : Env → FieldDie → FieldDie, ∀ s, exec (.serFrameStart ch dataLow) s = s.onField f :=
  ⟨_, fun s => by show execSerFrameStart ch dataLow s = _; delta execSerFrameStart; with_reducible rfl⟩
theorem kind_serStartTimeout (ch : Nat) : ∃ f : Env → FieldDie → FieldDie, ∀ s, exec (.serStartTimeout ch) s = s.onField f :=
  ⟨_, fun s => by show execSerStartTimeout ch s = _; delta execSerStartTimeout; with_reducible rfl⟩
theorem kind_serEndTimeout (ch : Nat) : ∃ f : Env → FieldDie → FieldDie, ∀ s, exec (.serEndTimeout ch) s = s.onField f :=
  ⟨_, fun s => by show execSerEndTimeout ch s = _; delta execSerEndTimeout; with_reducible rfl⟩
theorem kind_serFrameDone (ch raw delay n : Nat) : ∃ f : Env → FieldDie → FieldDie, ∀ s, exec (.serFrameDone ch raw delay n) s = s.onField f :=
  ⟨_, fun s => by show execSerFrameDone ch raw delay n s = _; delta execSerFrameDone; with_reducible rfl⟩
theorem kind_observerUpdate (ch n : Nat) : ∃ f : Env → FieldDie → FieldDie, ∀ s, exec (.observerUpdate ch n) s = s.onField f :=
  ⟨_, fun s => by show execObserverUpdate ch n s = _; delta execObserverUpdate; with_reducible rfl⟩
theorem kind_encModeChange (ch : Nat) (v : Word) : ∃ f : Env → FieldDie → FieldDie, ∀ s, exec (.encModeChange ch v) s = s.onField f :=
  ⟨_, fun s => by show execEncModeChange ch v s = _; delta execEncModeChange; with_reducible rfl⟩
theorem kind_encLatch (ch : Nat) : ∃ f : Env → FieldDie → FieldDie, ∀ s, exec (.encLatch ch) s = s.onField f :=
  ⟨_, fun s => by show execEncLatch ch s = _; delta execEncLatch; with_reducible rfl⟩
theorem kind_encClrCnt (ch : Nat) : ∃ f : Env → FieldDie → FieldDie, ∀ s, exec (.encClrCnt ch) s = s.onField f :=
  ⟨_, fun s => by show execEncClrCnt ch s = _; delta execEncClrCnt; with_reducible rfl⟩
theorem kind_encCalClr (ch : Nat) : ∃ f : Env → FieldDie → FieldDie, ∀ s, exec (.encCalClr ch) s = s.onField f :=
  ⟨_, fun s => by show execEncCalClr ch s = _; delta execEncCalClr; with_reducible rfl⟩
theorem kind_encBwSet (ch : Nat) : ∃ f : Env → FieldDie → FieldDie, ∀ s, exec (.encBwSet ch) s = s.onField f :=
  ⟨_, fun s => by show execEncBwSet ch s = _; delta execEncBwSet; with_reducible rfl⟩
theorem kind_encKApply (ch : Nat) : ∃ f : Env → FieldDie → FieldDie, ∀ s, exec (.encKApply ch) s = s.onField f :=
  ⟨_, fun s => by show execEncKApply ch s = _; delta execEncKApply; with_reducible rfl⟩
theorem kind_repStep (i : Nat) : ∃ f : Env → FieldDie → FieldDie, ∀ s, exec (.repStep i) s = s.onField f :=
  ⟨_, fun s => by show execRepStep i s = _; delta execRepStep; with_reducible rfl⟩
theorem kind_heartbeat : ∃ f : Env → FieldDie → FieldDie, ∀ s, exec (.heartbeat) s = s.onField f :=
  ⟨_, fun s => by show execHeartbeat s = _; delta execHeartbeat; with_reducible rfl⟩
theorem kind_fieldHeartbeat : ∃ f : Env → HostSide → HostSide, ∀ s, exec (.fieldHeartbeat) s = s.onHost f :=
  ⟨_, fun s => by show execFieldHeartbeat s = _; delta execFieldHeartbeat; with_reducible rfl⟩
theorem kind_encSnapshot : ∃ f : Env → HostSide → HostSide, ∀ s, exec (.encSnapshot) s = s.onHost f :=
  ⟨_, fun s => by show execEncSnapshot s = _; delta execEncSnapshot; with_reducible rfl⟩
theorem kind_diChange : ∃ f : Env → HostSide → HostSide, ∀ s, exec (.diChange) s = s.onHost f :=
  ⟨_, fun s => by show execDiChange s = _; delta execDiChange; with_reducible rfl⟩
theorem kind_ejectReport : ∃ f : Env → HostSide → HostSide, ∀ s, exec (.ejectReport) s = s.onHost f :=
  ⟨_, fun s => by show execEjectReport s = _; delta execEjectReport; with_reducible rfl⟩
theorem kind_fault : ∃ f : Env → HostSide → HostSide, ∀ s, exec (.fault) s = s.onHost f :=
  ⟨_, fun s => by show execFault s = _; delta execFault; with_reducible rfl⟩
theorem kind_cfgReadResponse : ∃ f : Env → HostSide → HostSide, ∀ s, exec (.cfgReadResponse) s = s.onHost f :=
  ⟨_, fun s => by show execCfgReadResponse s = _; delta execCfgReadResponse; with_reducible rfl⟩
theorem kind_ejectArm : ∃ f : Env → FieldDie → FieldDie, ∀ s, exec (.ejectArm) s = s.onField f :=
  ⟨_, fun s => by show execEjectArm s = _; delta execEjectArm; with_reducible rfl⟩
theorem kind_doSet : ∃ f : Env → FieldDie → FieldDie, ∀ s, exec (.doSet) s = s.onField f :=
  ⟨_, fun s => by show execDoSet s = _; delta execDoSet; with_reducible rfl⟩
theorem kind_cfgWrite : ∃ f : Env → FieldDie → FieldDie, ∀ s, exec (.cfgWrite) s = s.onField f :=
  ⟨_, fun s => by show execCfgWrite s = _; delta execCfgWrite; with_reducible rfl⟩
theorem kind_cfgRead : ∃ f : Env → FieldDie → FieldDie, ∀ s, exec (.cfgRead) s = s.onField f :=
  ⟨_, fun s => by show execCfgRead s = _; delta execCfgRead; with_reducible rfl⟩
theorem kind_cfgResponseTimeout : ∃ f : Env → HostSide → HostSide, ∀ s, exec (.cfgResponseTimeout) s = s.onHost f :=
  ⟨_, fun s => by show execCfgResponseTimeout s = _; delta execCfgResponseTimeout; with_reducible rfl⟩
theorem kind_snapshotTimer (periodic : Bool) (i : Nat) : ∃ f : Env → FieldDie → FieldDie, ∀ s, exec (.snapshotTimer periodic i) s = s.onField f :=
  ⟨_, fun s => by show execSnapshotTimer periodic i s = _; delta execSnapshotTimer; with_reducible rfl⟩
theorem kind_strobePulseEnd (i : Nat) : ∃ f : Env → FieldDie → FieldDie, ∀ s, exec (.strobePulseEnd i) s = s.onField f :=
  ⟨_, fun s => by show execStrobePulseEnd i s = _; delta execStrobePulseEnd; with_reducible rfl⟩
theorem kind_weirFire (g now : Nat) : ∃ f : Env → FieldDie → FieldDie, ∀ s, exec (.weirFire g now) s = s.onField f :=
  ⟨_, fun s => by show execWeirFire g now s = _; delta execWeirFire; with_reducible rfl⟩
theorem kind_weirPulseEnd (g out now : Nat) : ∃ f : Env → FieldDie → FieldDie, ∀ s, exec (.weirPulseEnd g out now) s = s.onField f :=
  ⟨_, fun s => by show execWeirPulseEnd g out now s = _; delta execWeirPulseEnd; with_reducible rfl⟩
theorem kind_valveFrame (p : Nat) : ∃ f : Env → FieldDie → FieldDie, ∀ s, exec (.valveFrame p) s = s.onField f :=
  ⟨_, fun s => by show execValveFrame p s = _; delta execValveFrame; with_reducible rfl⟩
theorem kind_diFilterChange (inputs : Nat) : ∃ f : Env → FieldDie → FieldDie, ∀ s, exec (.diFilterChange inputs) s = s.onField f :=
  ⟨_, fun s => by show execDiFilterChange inputs s = _; delta execDiFilterChange; with_reducible rfl⟩
theorem kind_doFault (i : Nat) (hot : Bool) : ∃ f : Env → FieldDie → FieldDie, ∀ s, exec (.doFault i hot) s = s.onField f :=
  ⟨_, fun s => by show execDoFault i hot s = _; delta execDoFault; with_reducible rfl⟩
theorem kind_lpUndervoltage (ok : Bool) : ∃ f : Env → FieldDie → FieldDie, ∀ s, exec (.lpUndervoltage ok) s = s.onField f :=
  ⟨_, fun s => by show execLpUndervoltage ok s = _; delta execLpUndervoltage; with_reducible rfl⟩
theorem kind_safeStateEntry : ∃ f : Env → FieldDie → FieldDie, ∀ s, exec (.safeStateEntry) s = s.onField f :=
  ⟨_, fun s => by show execSafeStateEntry s = _; delta execSafeStateEntry; with_reducible rfl⟩
theorem kind_barRelease : ∃ f : Env → HostSide → HostSide, ∀ s, exec (.barRelease) s = s.onBar f :=
  ⟨_, fun s => by show execBarRelease s = _; delta execBarRelease; with_reducible rfl⟩
theorem kind_fieldLoss : ∃ f : Env → HostSide → HostSide, ∀ s, exec (.fieldLoss) s = s.onHost f :=
  ⟨_, fun s => by show execFieldLoss s = _; delta execFieldLoss; with_reducible rfl⟩
theorem kind_tbRateWrite (n : Nat) (v : Word) : ∃ f : Env → HostSide → HostSide, ∀ s, exec (.tbRateWrite n v) s = s.onBar f :=
  ⟨_, fun s => by show execTbRateWrite n v s = _; delta execTbRateWrite; with_reducible rfl⟩
theorem kind_tbSet (n : Nat) : ∃ f : Env → HostSide → HostSide, ∀ s, exec (.tbSet n) s = s.onBar f :=
  ⟨_, fun s => by show execTbSet n s = _; delta execTbSet; with_reducible rfl⟩
theorem kind_tbStep (n : Nat) : ∃ f : Env → HostSide → HostSide, ∀ s, exec (.tbStep n) s = s.onBar f :=
  ⟨_, fun s => by show execTbStep n s = _; delta execTbStep; with_reducible rfl⟩
theorem kind_timeSnap : ∃ f : Env → HostSide → HostSide, ∀ s, exec (.timeSnap) s = s.onBar f :=
  ⟨_, fun s => by show execTimeSnap s = _; delta execTimeSnap; with_reducible rfl⟩
theorem kind_timeCopy (v : Word) : ∃ f : Env → HostSide → HostSide, ∀ s, exec (.timeCopy v) s = s.onBar f :=
  ⟨_, fun s => by show execTimeCopy v s = _; delta execTimeCopy; with_reducible rfl⟩
theorem kind_cmpFire (i : Nat) : ∃ f : Env → HostSide → HostSide, ∀ s, exec (.cmpFire i) s = s.onHost f :=
  ⟨_, fun s => by show execCmpFire i s = _; delta execCmpFire; with_reducible rfl⟩
theorem kind_ppsPulseEnd : ∃ f : Env → HostSide → HostSide, ∀ s, exec (.ppsPulseEnd) s = s.onHost f :=
  ⟨_, fun s => by show execPpsPulseEnd s = _; delta execPpsPulseEnd; with_reducible rfl⟩
theorem kind_timeCapture (falling : Bool) : ∃ f : Env → HostSide → HostSide, ∀ s, exec (.timeCapture falling) s = s.onHost f :=
  ⟨_, fun s => by show execTimeCapture falling s = _; delta execTimeCapture; with_reducible rfl⟩
theorem kind_ethRxFrame (p : Nat) (good : Bool) (data : List Byte) : ∃ f : Env → HostSide → HostSide, ∀ s, exec (.ethRxFrame p good data) s = s.onHost f :=
  ⟨_, fun s => by show execEthRxFrame p good data s = _; delta execEthRxFrame; with_reducible rfl⟩
theorem kind_ethTxDone (p : Nat) : ∃ f : Env → HostSide → HostSide, ∀ s, exec (.ethTxDone p) s = s.onHost f :=
  ⟨_, fun s => by show execEthTxDone p s = _; delta execEthTxDone; with_reducible rfl⟩
theorem kind_ethTxtsPop (p : Nat) : ∃ f : Env → HostSide → HostSide, ∀ s, exec (.ethTxtsPop p) s = s.onBar f :=
  ⟨_, fun s => by show execEthTxtsPop p s = _; delta execEthTxtsPop; with_reducible rfl⟩
theorem kind_tb1SyncSend : ∃ f : Env → HostSide → HostSide, ∀ s, exec (.tb1SyncSend) s = s.onHost f :=
  ⟨_, fun s => by show execTb1SyncSend s = _; delta execTb1SyncSend; with_reducible rfl⟩
theorem kind_tb1SyncRx (p : Nat) : ∃ f : Env → HostSide → HostSide, ∀ s, exec (.tb1SyncRx p) s = s.onHost f :=
  ⟨_, fun s => by show execTb1SyncRx p s = _; delta execTb1SyncRx; with_reducible rfl⟩
theorem kind_tb1DelayReqRx (p : Nat) : ∃ f : Env → HostSide → HostSide, ∀ s, exec (.tb1DelayReqRx p) s = s.onHost f :=
  ⟨_, fun s => by show execTb1DelayReqRx p s = _; delta execTb1DelayReqRx; with_reducible rfl⟩
theorem kind_tb1DelayRespRx (p : Nat) : ∃ f : Env → HostSide → HostSide, ∀ s, exec (.tb1DelayRespRx p) s = s.onHost f :=
  ⟨_, fun s => by show execTb1DelayRespRx p s = _; delta execTb1DelayRespRx; with_reducible rfl⟩
theorem kind_tb1Holdover : ∃ f : Env → HostSide → HostSide, ∀ s, exec (.tb1Holdover) s = s.onHost f :=
  ⟨_, fun s => by show execTb1Holdover s = _; delta execTb1Holdover; with_reducible rfl⟩
theorem kind_hostAbiWrite (v : Word) : ∃ f : Env → HostSide → HostSide, ∀ s, exec (.hostAbiWrite v) s = s.onHost f :=
  ⟨_, fun s => by show execHostAbiWrite v s = _; delta execHostAbiWrite; with_reducible rfl⟩
theorem kind_sqDoorbell (q : Nat) (v : Word) : ∃ f : Env → HostSide → HostSide, ∀ s, exec (.sqDoorbell q v) s = s.onBar f :=
  ⟨_, fun s => by show execSqDoorbell q v s = _; delta execSqDoorbell; with_reducible rfl⟩
theorem kind_cqHeadDoorbell (q : Nat) (v : Word) : ∃ f : Env → HostSide → HostSide, ∀ s, exec (.cqHeadDoorbell q v) s = s.onBar f :=
  ⟨_, fun s => by show execCqHeadDoorbell q v s = _; delta execCqHeadDoorbell; with_reducible rfl⟩
theorem kind_rrHeadDoorbell (n : Nat) (v : Word) : ∃ f : Env → HostSide → HostSide, ∀ s, exec (.rrHeadDoorbell n v) s = s.onBar f :=
  ⟨_, fun s => by show execRrHeadDoorbell n v s = _; delta execRrHeadDoorbell; with_reducible rfl⟩
theorem kind_sqEnable (q : Nat) (v : Word) : ∃ f : Env → HostSide → HostSide, ∀ s, exec (.sqEnable q v) s = s.onBar f :=
  ⟨_, fun s => by show execSqEnable q v s = _; delta execSqEnable; with_reducible rfl⟩
theorem kind_sqRestart (q : Nat) : ∃ f : Env → HostSide → HostSide, ∀ s, exec (.sqRestart q) s = s.onBar f :=
  ⟨_, fun s => by show execSqRestart q s = _; delta execSqRestart; with_reducible rfl⟩
theorem kind_sqReset (q : Nat) (cfg : Option Word) : ∃ f : Env → HostSide → HostSide, ∀ s, exec (.sqReset q cfg) s = s.onBar f :=
  ⟨_, fun s => by show execSqReset q cfg s = _; delta execSqReset; with_reducible rfl⟩
theorem kind_sqResetDone (q : Nat) : ∃ f : Env → HostSide → HostSide, ∀ s, exec (.sqResetDone q) s = s.onHost f :=
  ⟨_, fun s => by show execSqResetDone q s = _; delta execSqResetDone; with_reducible rfl⟩
theorem kind_cqEnable (q : Nat) (v : Word) : ∃ f : Env → HostSide → HostSide, ∀ s, exec (.cqEnable q v) s = s.onBar f :=
  ⟨_, fun s => by show execCqEnable q v s = _; delta execCqEnable; with_reducible rfl⟩
theorem kind_rrEnable (n : Nat) (v : Word) : ∃ f : Env → HostSide → HostSide, ∀ s, exec (.rrEnable n v) s = s.onBar f :=
  ⟨_, fun s => by show execRrEnable n v s = _; delta execRrEnable; with_reducible rfl⟩
theorem kind_descriptorFetch (q : Nat) (pcieError : Bool) : ∃ f : Env → HostSide → HostSide, ∀ s, exec (.descriptorFetch q pcieError) s = s.onHost f :=
  ⟨_, fun s => by show execDescriptorFetch q pcieError s = _; delta execDescriptorFetch; with_reducible rfl⟩
theorem kind_completionWrite (q : Nat) : ∃ f : Env → HostSide → HostSide, ∀ s, exec (.completionWrite q) s = s.onHost f :=
  ⟨_, fun s => by show execCompletionWrite q s = _; delta execCompletionWrite; with_reducible rfl⟩
theorem kind_recipeLoad (q : Nat) : ∃ f : Env → HostSide → HostSide, ∀ s, exec (.recipeLoad q) s = s.onData f :=
  ⟨_, fun s => by show execRecipeLoad q s = _; delta execRecipeLoad; with_reducible rfl⟩
theorem kind_recipeCommit (q : Nat) : ∃ f : Env → HostSide → HostSide, ∀ s, exec (.recipeCommit q) s = s.onData f :=
  ⟨_, fun s => by show execRecipeCommit q s = _; delta execRecipeCommit; with_reducible rfl⟩
theorem kind_recipeDisarm (q : Nat) : ∃ f : Env → HostSide → HostSide, ∀ s, exec (.recipeDisarm q) s = s.onData f :=
  ⟨_, fun s => by show execRecipeDisarm q s = _; delta execRecipeDisarm; with_reducible rfl⟩
theorem kind_recipeDrop (q : Nat) : ∃ f : Env → HostSide → HostSide, ∀ s, exec (.recipeDrop q) s = s.onData f :=
  ⟨_, fun s => by show execRecipeDrop q s = _; delta execRecipeDrop; with_reducible rfl⟩
theorem kind_jobRun (q : Nat) (ecc : Ecc) : ∃ f : Env → HostSide → HostSide, ∀ s, exec (.jobRun q ecc) s = s.onData f :=
  ⟨_, fun s => by show execJobRun q ecc s = _; delta execJobRun; with_reducible rfl⟩
theorem kind_jobCancel (q : Nat) : ∃ f : Env → HostSide → HostSide, ∀ s, exec (.jobCancel q) s = s.onData f :=
  ⟨_, fun s => by show execJobCancel q s = _; delta execJobCancel; with_reducible rfl⟩
theorem kind_textSample (q : Nat) : ∃ f : Env → HostSide → HostSide, ∀ s, exec (.textSample q) s = s.onData f :=
  ⟨_, fun s => by show execTextSample q s = _; delta execTextSample; with_reducible rfl⟩
theorem kind_copy (q outcome : Nat) (got : List Byte) (ecc merge : Ecc) : ∃ f : Env → HostSide → HostSide, ∀ s, exec (.copy q outcome got ecc merge) s = s.onData f :=
  ⟨_, fun s => by show execCopy q outcome got ecc merge s = _; delta execCopy; with_reducible rfl⟩
theorem kind_fill (q : Nat) (ecc : Ecc) : ∃ f : Env → HostSide → HostSide, ∀ s, exec (.fill q ecc) s = s.onData f :=
  ⟨_, fun s => by show execFill q ecc s = _; delta execFill; with_reducible rfl⟩
theorem kind_ethTx (q : Nat) : ∃ f : Env → HostSide → HostSide, ∀ s, exec (.ethTx q) s = s.onData f :=
  ⟨_, fun s => by show execEthTx q s = _; delta execEthTx; with_reducible rfl⟩
theorem kind_ethRxPost (q : Nat) : ∃ f : Env → HostSide → HostSide, ∀ s, exec (.ethRxPost q) s = s.onData f :=
  ⟨_, fun s => by show execEthRxPost q s = _; delta execEthRxPost; with_reducible rfl⟩
theorem kind_imagePiece (q : Nat) (flashFail : Bool) : ∃ f : Env → HostSide → HostSide, ∀ s, exec (.imagePiece q flashFail) s = s.onHost f :=
  ⟨_, fun s => by show execImagePiece q flashFail s = _; delta execImagePiece; with_reducible rfl⟩
theorem kind_powerTol (q : Nat) : ∃ f : Env → HostSide → HostSide, ∀ s, exec (.powerTol q) s = s.onHost f :=
  ⟨_, fun s => by show execPowerTol q s = _; delta execPowerTol; with_reducible rfl⟩
theorem kind_partitionSet (q : Nat) : ∃ f : Env → HostSide → HostSide, ∀ s, exec (.partitionSet q) s = s.onHost f :=
  ⟨_, fun s => by show execPartitionSet q s = _; delta execPartitionSet; with_reducible rfl⟩
theorem kind_updateBegin (q : Nat) (flashFail : Bool) : ∃ f : Env → HostSide → HostSide, ∀ s, exec (.updateBegin q flashFail) s = s.onHost f :=
  ⟨_, fun s => by show execUpdateBegin q flashFail s = _; delta execUpdateBegin; with_reducible rfl⟩
theorem kind_updateAbort (q : Nat) (flashFail : Bool) : ∃ f : Env → HostSide → HostSide, ∀ s, exec (.updateAbort q flashFail) s = s.onHost f :=
  ⟨_, fun s => by show execUpdateAbort q flashFail s = _; delta execUpdateAbort; with_reducible rfl⟩
theorem kind_updateActivate (q : Nat) (flashFail : Bool) : ∃ f : Env → HostSide → HostSide, ∀ s, exec (.updateActivate q flashFail) s = s.onHost f :=
  ⟨_, fun s => by show execUpdateActivate q flashFail s = _; delta execUpdateActivate; with_reducible rfl⟩
theorem kind_updateConfirm (q : Nat) (flashFail : Bool) : ∃ f : Env → HostSide → HostSide, ∀ s, exec (.updateConfirm q flashFail) s = s.onHost f :=
  ⟨_, fun s => by show execUpdateConfirm q flashFail s = _; delta execUpdateConfirm; with_reducible rfl⟩
theorem kind_updateRevert (q : Nat) (flashFail : Bool) : ∃ f : Env → HostSide → HostSide, ∀ s, exec (.updateRevert q flashFail) s = s.onHost f :=
  ⟨_, fun s => by show execUpdateRevert q flashFail s = _; delta execUpdateRevert; with_reducible rfl⟩
theorem kind_recoveryWrite (q : Nat) (flashFail : Bool) : ∃ f : Env → HostSide → HostSide, ∀ s, exec (.recoveryWrite q flashFail) s = s.onHost f :=
  ⟨_, fun s => by show execRecoveryWrite q flashFail s = _; delta execRecoveryWrite; with_reducible rfl⟩
theorem kind_settingsSave (q : Nat) (flashFail : Bool) : ∀ s, ∃ f : Env → HostSide → HostSide, exec (.settingsSave q flashFail) s = s.onHost f :=
  fun s => ⟨_, by show execSettingsSave q flashFail s = _; delta execSettingsSave; with_reducible rfl⟩
theorem kind_settingsRead (q : Nat) (flashFail : Bool) : ∃ f : Env → HostSide → HostSide, ∀ s, exec (.settingsRead q flashFail) s = s.onHost f :=
  ⟨_, fun s => by show execSettingsRead q flashFail s = _; delta execSettingsRead; with_reducible rfl⟩
theorem kind_settingsWrite (q : Nat) (flashFail : Bool) : ∃ f : Env → HostSide → HostSide, ∀ s, exec (.settingsWrite q flashFail) s = s.onHost f :=
  ⟨_, fun s => by show execSettingsWrite q flashFail s = _; delta execSettingsWrite; with_reducible rfl⟩
theorem kind_settingsErase (q : Nat) (flashFail : Bool) : ∃ f : Env → HostSide → HostSide, ∀ s, exec (.settingsErase q flashFail) s = s.onHost f :=
  ⟨_, fun s => by show execSettingsErase q flashFail s = _; delta execSettingsErase; with_reducible rfl⟩
theorem kind_certGet (q : Nat) (flashFail : Bool) : ∃ f : Env → HostSide → HostSide, ∀ s, exec (.certGet q flashFail) s = s.onHost f :=
  ⟨_, fun s => by show execCertGet q flashFail s = _; delta execCertGet; with_reducible rfl⟩
theorem kind_pubkeyGet (q : Nat) : ∃ f : Env → HostSide → HostSide, ∀ s, exec (.pubkeyGet q) s = s.onHost f :=
  ⟨_, fun s => by show execPubkeyGet q s = _; delta execPubkeyGet; with_reducible rfl⟩
theorem kind_quote (q : Nat) : ∀ s, ∃ f : Env → HostSide → HostSide, exec (.quote q) s = s.onHost f :=
  fun s => ⟨_, by show execQuote q s = _; delta execQuote; with_reducible rfl⟩
theorem kind_quoteSigned : ∃ f : Env → HostSide → HostSide, ∀ s, exec (.quoteSigned) s = s.onHost f :=
  ⟨_, fun s => by show execQuoteSigned s = _; delta execQuoteSigned; with_reducible rfl⟩
theorem kind_resultRecordPublish (n : Nat) : ∃ f : Env → HostSide → HostSide, ∀ s, exec (.resultRecordPublish n) s = s.onHost f :=
  ⟨_, fun s => by show execResultRecordPublish n s = _; delta execResultRecordPublish; with_reducible rfl⟩
theorem kind_busMasterEnableChange (on : Bool) : ∃ f : Env → HostSide → HostSide, ∀ s, exec (.busMasterEnableChange on) s = s.onHost f :=
  ⟨_, fun s => by show execBusMasterEnableChange on s = _; delta execBusMasterEnableChange; with_reducible rfl⟩
theorem kind_statePageUpdate : ∃ f : Env → HostSide → HostSide, ∀ s, exec (.statePageUpdate) s = s.onHost f :=
  ⟨_, fun s => by show execStatePageUpdate s = _; delta execStatePageUpdate; with_reducible rfl⟩
theorem kind_msixVectorTimer (v : Nat) : ∃ f : Env → HostSide → HostSide, ∀ s, exec (.msixVectorTimer v) s = s.onHost f :=
  ⟨_, fun s => by show execMsixVectorTimer v s = _; delta execMsixVectorTimer; with_reducible rfl⟩
theorem kind_msixUnmask (v : Nat) : ∃ f : Env → HostSide → HostSide, ∀ s, exec (.msixUnmask v) s = s.onBar f :=
  ⟨_, fun s => by show execMsixUnmask v s = _; delta execMsixUnmask; with_reducible rfl⟩
theorem kind_sliceBoundary (p : Nat) : ∃ f : Env → HostSide → HostSide, ∀ s, exec (.sliceBoundary p) s = s.onData f :=
  ⟨_, fun s => by show execSliceBoundary p s = _; delta execSliceBoundary; with_reducible rfl⟩
theorem kind_preemptionComplete (job : Nat) : ∃ f : Env → HostSide → HostSide, ∀ s, exec (.preemptionComplete job) s = s.onData f :=
  ⟨_, fun s => by show execPreemptionComplete job s = _; delta execPreemptionComplete; with_reducible rfl⟩
theorem kind_preLimitExpired (job : Nat) : ∃ f : Env → HostSide → HostSide, ∀ s, exec (.preLimitExpired job) s = s.onData f :=
  ⟨_, fun s => by show execPreLimitExpired job s = _; delta execPreLimitExpired; with_reducible rfl⟩
theorem kind_contextSaveDone (job k : Nat) (bad : List (Nat × Nat)) (ecc : List (Nat × Ecc)) : ∃ f : Env → HostSide → HostSide, ∀ s, exec (.contextSaveDone job k bad ecc) s = s.onData f :=
  ⟨_, fun s => by show execContextSaveDone job k bad ecc s = _; delta execContextSaveDone; with_reducible rfl⟩
theorem kind_contextRestoreDone (job k : Nat) (bad : List (Nat × Nat)) (ecc : List (Nat × Ecc)) : ∃ f : Env → HostSide → HostSide, ∀ s, exec (.contextRestoreDone job k bad ecc) s = s.onData f :=
  ⟨_, fun s => by show execContextRestoreDone job k bad ecc s = _; delta execContextRestoreDone; with_reducible rfl⟩
theorem kind_oxbowGranuleLand (job c spa status : Nat) (data : List Byte) : ∃ f : Env → HostSide → HostSide, ∀ s, exec (.oxbowGranuleLand job c spa status data) s = s.onData f :=
  ⟨_, fun s => by show execOxbowGranuleLand job c spa status data s = _; delta execOxbowGranuleLand; with_reducible rfl⟩
theorem kind_oxbowDrainDone (job k : Nat) : ∃ f : Env → HostSide → HostSide, ∀ s, exec (.oxbowDrainDone job k) s = s.onData f :=
  ⟨_, fun s => by show execOxbowDrainDone job k s = _; delta execOxbowDrainDone; with_reducible rfl⟩
theorem kind_jobEnd (job : Nat) : ∃ f : Env → HostSide → HostSide, ∀ s, exec (.jobEnd job) s = s.onData f :=
  ⟨_, fun s => by show execJobEnd job s = _; delta execJobEnd; with_reducible rfl⟩
theorem kind_servingStepEnd (p : Nat) : ∃ f : Env → HostSide → HostSide, ∀ s, exec (.servingStepEnd p) s = s.onData f :=
  ⟨_, fun s => by show execServingStepEnd p s = _; delta execServingStepEnd; with_reducible rfl⟩
theorem kind_servingPoll (p : Nat) : ∃ f : Env → HostSide → HostSide, ∀ s, exec (.servingPoll p) s = s.onData f :=
  ⟨_, fun s => by show execServingPoll p s = _; delta execServingPoll; with_reducible rfl⟩
theorem kind_srvEnable (p : Nat) (v : Word) : ∃ f : Env → HostSide → HostSide, ∀ s, exec (.srvEnable p v) s = s.onBar f :=
  ⟨_, fun s => by show execSrvEnable p v s = _; delta execSrvEnable; with_reducible rfl⟩
theorem kind_hdwAdmit : ∃ f : Env → HostSide → HostSide, ∀ s, exec (.hdwAdmit) s = s.onData f :=
  ⟨_, fun s => by show execHdwAdmit s = _; delta execHdwAdmit; with_reducible rfl⟩
theorem kind_hdwLaneStart : ∃ f : Env → HostSide → HostSide, ∀ s, exec (.hdwLaneStart) s = s.onData f :=
  ⟨_, fun s => by show execHdwLaneStart s = _; delta execHdwLaneStart; with_reducible rfl⟩
theorem kind_hdwDecodeDone (i : Nat) (err : Bool) : ∃ f : Env → HostSide → HostSide, ∀ s, exec (.hdwDecodeDone i err) s = s.onData f :=
  ⟨_, fun s => by show execHdwDecodeDone i err s = _; delta execHdwDecodeDone; with_reducible rfl⟩
theorem kind_hdwEmerge : ∃ f : Env → HostSide → HostSide, ∀ s, exec (.hdwEmerge) s = s.onData f :=
  ⟨_, fun s => by show execHdwEmerge s = _; delta execHdwEmerge; with_reducible rfl⟩
theorem kind_hdwStopped : ∃ f : Env → HostSide → HostSide, ∀ s, exec (.hdwStopped) s = s.onData f :=
  ⟨_, fun s => by show execHdwStopped s = _; delta execHdwStopped; with_reducible rfl⟩
theorem kind_hdwDictCommit (v : Word) : ∃ f : Env → HostSide → HostSide, ∀ s, exec (.hdwDictCommit v) s = s.onBar f :=
  ⟨_, fun s => by show execHdwDictCommit v s = _; delta execHdwDictCommit; with_reducible rfl⟩
theorem kind_hdwDictBuildDone : ∃ f : Env → HostSide → HostSide, ∀ s, exec (.hdwDictBuildDone) s = s.onHost f :=
  ⟨_, fun s => by show execHdwDictBuildDone s = _; delta execHdwDictBuildDone; with_reducible rfl⟩
theorem kind_hdwBatchTimeout : ∃ f : Env → HostSide → HostSide, ∀ s, exec (.hdwBatchTimeout) s = s.onData f :=
  ⟨_, fun s => by show execHdwBatchTimeout s = _; delta execHdwBatchTimeout; with_reducible rfl⟩
theorem kind_hdwBatchWrite : ∃ f : Env → HostSide → HostSide, ∀ s, exec (.hdwBatchWrite) s = s.onData f :=
  ⟨_, fun s => by show execHdwBatchWrite s = _; delta execHdwBatchWrite; with_reducible rfl⟩
theorem kind_hdwBatchFree (c : Nat) : ∃ f : Env → HostSide → HostSide, ∀ s, exec (.hdwBatchFree c) s = s.onData f :=
  ⟨_, fun s => by show execHdwBatchFree c s = _; delta execHdwBatchFree; with_reducible rfl⟩
theorem kind_gaugeSnap : ∃ f : Env → HostSide → HostSide, ∀ s, exec (.gaugeSnap) s = s.onBar f :=
  ⟨_, fun s => by show execGaugeSnap s = _; delta execGaugeSnap; with_reducible rfl⟩
theorem kind_gaugeSnapTake : ∃ f : Env → HostSide → HostSide, ∀ s, exec (.gaugeSnapTake) s = s.onHost f :=
  ⟨_, fun s => by show execGaugeSnapTake s = _; delta execGaugeSnapTake; with_reducible rfl⟩
theorem kind_gaugeClearAll : ∃ f : Env → HostSide → HostSide, ∀ s, exec (.gaugeClearAll) s = s.onBar f :=
  ⟨_, fun s => by show execGaugeClearAll s = _; delta execGaugeClearAll; with_reducible rfl⟩
theorem kind_counterConfigWrite (a : Nat) (v : Word) : ∃ f : Env → HostSide → HostSide, ∀ s, exec (.counterConfigWrite a v) s = s.onBar f :=
  ⟨_, fun s => by show execCounterConfigWrite a v s = _; delta execCounterConfigWrite; with_reducible rfl⟩
theorem kind_traceRecord (b : Nat) : ∃ f : Env → HostSide → HostSide, ∀ s, exec (.traceRecord b) s = s.onHost f :=
  ⟨_, fun s => by show execTraceRecord b s = _; delta execTraceRecord; with_reducible rfl⟩
theorem kind_traceWrite (buf : Nat) : ∃ f : Env → HostSide → HostSide, ∀ s, exec (.traceWrite buf) s = s.onData f :=
  ⟨_, fun s => by show execTraceWrite buf s = _; delta execTraceWrite; with_reducible rfl⟩
theorem kind_traceBucketRefill : ∃ f : Env → HostSide → HostSide, ∀ s, exec (.traceBucketRefill) s = s.onHost f :=
  ⟨_, fun s => by show execTraceBucketRefill s = _; delta execTraceBucketRefill; with_reducible rfl⟩
theorem kind_traceSampleTimer : ∃ f : Env → HostSide → HostSide, ∀ s, exec (.traceSampleTimer) s = s.onHost f :=
  ⟨_, fun s => by show execTraceSampleTimer s = _; delta execTraceSampleTimer; with_reducible rfl⟩
theorem kind_trcMark (v : Word) : ∃ f : Env → HostSide → HostSide, ∀ s, exec (.trcMark v) s = s.onBar f :=
  ⟨_, fun s => by show execTrcMark v s = _; delta execTrcMark; with_reducible rfl⟩
theorem kind_iflEventSend (p : Nat) : ∃ f : Env → HostSide → HostSide, ∀ s, exec (.iflEventSend p) s = s.onHost f :=
  ⟨_, fun s => by show execIflEventSend p s = _; delta execIflEventSend; with_reducible rfl⟩
theorem kind_selfTestDone (failSites failLs : List Nat) : ∃ f : Env → HostSide → HostSide, ∀ s, exec (.selfTestDone failSites failLs) s = s.onHost f :=
  ⟨_, fun s => by show execSelfTestDone failSites failLs s = _; delta execSelfTestDone; with_reducible rfl⟩
theorem kind_bootCandidateSelect : ∃ f : Env → HostSide → HostSide, ∀ s, exec (.bootCandidateSelect) s = s.onHost f :=
  ⟨_, fun s => by show execBootCandidateSelect s = _; delta execBootCandidateSelect; with_reducible rfl⟩
theorem kind_deviceReady : ∃ f : Env → HostSide → HostSide, ∀ s, exec (.deviceReady) s = s.onHost f :=
  ⟨_, fun s => by show execDeviceReady s = _; delta execDeviceReady; with_reducible rfl⟩
theorem kind_fieldReset : ∃ f : Env → FieldDie → FieldDie, ∀ s, exec (.fieldReset) s = s.onField f :=
  ⟨_, fun s => by show execFieldReset s = _; delta execFieldReset; with_reducible rfl⟩
theorem kind_fieldRomBoot : ∃ f : Env → FieldDie → FieldDie, ∀ s, exec (.fieldRomBoot) s = s.onField f :=
  ⟨_, fun s => by show execFieldRomBoot s = _; delta execFieldRomBoot; with_reducible rfl⟩
theorem kind_fldLoadStart : ∃ f : Env → FieldDie → FieldDie, ∀ s, exec (.fldLoadStart) s = s.onField f :=
  ⟨_, fun s => by show execFldLoadStart s = _; delta execFldLoadStart; with_reducible rfl⟩
theorem kind_fldLoadData (v : Word) : ∃ f : Env → FieldDie → FieldDie, ∀ s, exec (.fldLoadData v) s = s.onField f :=
  ⟨_, fun s => by show execFldLoadData v s = _; delta execFldLoadData; with_reducible rfl⟩
theorem kind_fldLoadRun (expected : List Byte) : ∃ f : Env → FieldDie → FieldDie, ∀ s, exec (.fldLoadRun expected) s = s.onField f :=
  ⟨_, fun s => by show execFldLoadRun expected s = _; delta execFldLoadRun; with_reducible rfl⟩
theorem kind_clkMonGo (v : Word) : ∃ f : Env → HostSide → HostSide, ∀ s, exec (.clkMonGo v) s = s.onBar f :=
  ⟨_, fun s => by show execClkMonGo v s = _; delta execClkMonGo; with_reducible rfl⟩
theorem kind_clkMonDone (n : Nat) : ∃ f : Env → HostSide → HostSide, ∀ s, exec (.clkMonDone n) s = s.onHost f :=
  ⟨_, fun s => by show execClkMonDone n s = _; delta execClkMonDone; with_reducible rfl⟩
theorem kind_dbgCmd (op v : Nat) : ∃ f : Env → HostSide → HostSide, ∀ s, exec (.dbgCmd op v) s = s.onHost f :=
  ⟨_, fun s => by show execDbgCmd op v s = _; delta execDbgCmd; with_reducible rfl⟩
theorem kind_dbgAddr (v : Nat) : ∃ f : Env → HostSide → HostSide, ∀ s, exec (.dbgAddr v) s = s.onHost f :=
  ⟨_, fun s => by show execDbgAddr v s = _; delta execDbgAddr; with_reducible rfl⟩
theorem kind_dbgData (v : Nat) : ∃ f : Env → HostSide → HostSide, ∀ s, exec (.dbgData v) s = s.onHost f :=
  ⟨_, fun s => by show execDbgData v s = _; delta execDbgData; with_reducible rfl⟩
theorem kind_clusterSleepEntry (k state : Nat) : ∃ f : Env → HostSide → HostSide, ∀ s, exec (.clusterSleepEntry k state) s = s.onData f :=
  ⟨_, fun s => by show execClusterSleepEntry k state s = _; delta execClusterSleepEntry; with_reducible rfl⟩
theorem kind_clusterWake (k : Nat) : ∃ f : Env → HostSide → HostSide, ∀ s, exec (.clusterWake k) s = s.onData f :=
  ⟨_, fun s => by show execClusterWake k s = _; delta execClusterWake; with_reducible rfl⟩
theorem kind_powerCapWindow (est : Nat) : ∃ f : Env → HostSide → HostSide, ∀ s, exec (.powerCapWindow est) s = s.onHost f :=
  ⟨_, fun s => by show execPowerCapWindow est s = _; delta execPowerCapWindow; with_reducible rfl⟩
theorem kind_thermalSample (cd0 cd1 io0 io1 hbm0 hbm1 : Nat) : ∃ f : Env → HostSide → HostSide, ∀ s, exec (.thermalSample cd0 cd1 io0 io1 hbm0 hbm1) s = s.onHost f :=
  ⟨_, fun s => by show execThermalSample cd0 cd1 io0 io1 hbm0 hbm1 s = _; delta execThermalSample; with_reducible rfl⟩
theorem kind_thermalThrottleStep : ∃ f : Env → HostSide → HostSide, ∀ s, exec (.thermalThrottleStep) s = s.onHost f :=
  ⟨_, fun s => by show execThermalThrottleStep s = _; delta execThermalThrottleStep; with_reducible rfl⟩
theorem kind_computeDieTrip (volt : Bool) : ∃ f : Env → HostSide → HostSide, ∀ s, exec (.computeDieTrip volt) s = s.onHost f :=
  ⟨_, fun s => by show execComputeDieTrip volt s = _; delta execComputeDieTrip; with_reducible rfl⟩
theorem kind_pmResume : ∃ f : Env → HostSide → HostSide, ∀ s, exec (.pmResume) s = s.onBar f :=
  ⟨_, fun s => by show execPmResume s = _; delta execPmResume; with_reducible rfl⟩
theorem kind_voltClampWindow : ∃ f : Env → HostSide → HostSide, ∀ s, exec (.voltClampWindow) s = s.onHost f :=
  ⟨_, fun s => by show execVoltClampWindow s = _; delta execVoltClampWindow; with_reducible rfl⟩
theorem kind_avsVoltageWrite (n floor : Nat) (ok : Bool) : ∃ f : Env → HostSide → HostSide, ∀ s, exec (.avsVoltageWrite n floor ok) s = s.onHost f :=
  ⟨_, fun s => by show execAvsVoltageWrite n floor ok s = _; delta execAvsVoltageWrite; with_reducible rfl⟩
theorem kind_avsCurrentRead (n frame v : Nat) (ok : Bool) : ∃ f : Env → HostSide → HostSide, ∀ s, exec (.avsCurrentRead n frame v ok) s = s.onHost f :=
  ⟨_, fun s => by show execAvsCurrentRead n frame v ok s = _; delta execAvsCurrentRead; with_reducible rfl⟩
theorem kind_wedgeDetect (unit : Nat) : ∃ f : Env → HostSide → HostSide, ∀ s, exec (.wedgeDetect unit) s = s.onData f :=
  ⟨_, fun s => by show execWedgeDetect unit s = _; delta execWedgeDetect; with_reducible rfl⟩
theorem kind_undecWindow : ∃ f : Env → HostSide → HostSide, ∀ s, exec (.undecWindow) s = s.onHost f :=
  ⟨_, fun s => by show execUndecWindow s = _; delta execUndecWindow; with_reducible rfl⟩
theorem kind_fatalError (code unit detail : Nat) : ∃ f : Env → HostSide → HostSide, ∀ s, exec (.fatalError code unit detail) s = s.onHost f :=
  ⟨_, fun s => by show execFatalError code unit detail s = _; delta execFatalError; with_reducible rfl⟩
theorem kind_laneCdrLockChange (l : Nat) (sig lock : Bool) (bitsN errs peak : Nat) : ∃ f : Env → HostSide → HostSide, ∀ s, exec (.laneCdrLockChange l sig lock bitsN errs peak) s = s.onHost f :=
  ⟨_, fun s => by show execLaneCdrLockChange l sig lock bitsN errs peak s = _; delta execLaneCdrLockChange; with_reducible rfl⟩
theorem kind_ethLinkChange (p : Nat) (lock hiBer : Bool) : ∃ f : Env → HostSide → HostSide, ∀ s, exec (.ethLinkChange p lock hiBer) s = s.onHost f :=
  ⟨_, fun s => by show execEthLinkChange p lock hiBer s = _; delta execEthLinkChange; with_reducible rfl⟩
theorem kind_encOpenClear (ch pair : Nat) : ∃ f : Env → FieldDie → FieldDie, ∀ s, exec (.encOpenClear ch pair) s = s.onField f :=
  ⟨_, fun s => by show execEncOpenClear ch pair s = _; delta execEncOpenClear; with_reducible rfl⟩
theorem kind_bridgedCountStep (ch n : Nat) : ∃ f : Env → FieldDie → FieldDie, ∀ s, exec (.bridgedCountStep ch n) s = s.onField f :=
  ⟨_, fun s => by show execBridgedCountStep ch n s = _; delta execBridgedCountStep; with_reducible rfl⟩
theorem kind_strobePulseStart (i : Nat) : ∃ f : Env → FieldDie → FieldDie, ∀ s, exec (.strobePulseStart i) s = s.onField f :=
  ⟨_, fun s => by show execStrobePulseStart i s = _; delta execStrobePulseStart; with_reducible rfl⟩
theorem kind_outputFaultEnd (i : Nat) : ∃ f : Env → FieldDie → FieldDie, ∀ s, exec (.outputFaultEnd i) s = s.onField f :=
  ⟨_, fun s => by show execOutputFaultEnd i s = _; delta execOutputFaultEnd; with_reducible rfl⟩
theorem kind_stackTrainingFail (stack : Nat) : ∃ f : Env → HostSide → HostSide, ∀ s, exec (.stackTrainingFail stack) s = s.onHost f :=
  ⟨_, fun s => by show execStackTrainingFail stack s = _; delta execStackTrainingFail; with_reducible rfl⟩

end Sys2Proof.Machine
end

