-- ==== Sys2Proof/Laws/Settings.lean ====
section
/-! SUPPORT. The flash as bytes, and the settings area: what is written there is what is found there (R479, R480). -/

namespace Sys2Proof.Machine

theorem leNat_lt (l : List Byte) : leNat l < 256 ^ l.length := by
  induction l with
  | nil => simp [leNat]
  | cons b t ih =>
    have hb : b.toNat < 256 := b.isLt
    simp only [leNat, List.length_cons, pow_succ]
    omega

theorem leNat_toLE (n v : Nat) : leNat (toLE n v) = v % 256 ^ n := by
  induction n generalizing v with
  | zero => simp [toLE, leNat, Nat.mod_one]
  | succ n ih =>
    have h := Nat.mod_mul (a := 256) (b := 256 ^ n) (x := v)
    simp only [toLE, leNat, ih, BitVec.toNat_ofNat, show (2 : Nat) ^ 8 = 256 from rfl]
    rw [pow_succ, mul_comm (256 ^ n) 256, h]

@[simp] theorem fRead_length (f : Flash) (a n : Nat) : (fRead f a n).length = n := by simp [fRead]

theorem fByte_fErase (f : Flash) (a n x : Nat) :
    fByte (fErase f a n) x = if a ≤ x ∧ x < a + n then flashMade x else fByte f x := by
  unfold fByte fErase
  induction f with
  | nil => simp [SMap.get]
  | cons e t ih =>
    obtain ⟨k, v⟩ := e
    rw [List.filter_cons]
    by_cases hk : a ≤ k ∧ k < a + n
    · simp only [hk, decide_true, Bool.and_self, Bool.not_true, Bool.false_eq_true, if_false, ih, SMap.get]
      by_cases hx : a ≤ x ∧ x < a + n
      · simp [hx]
      · have : x ≠ k := by rintro rfl; exact hx hk
        simp [hx, this]
    · have hb : (!(decide (a ≤ k) && decide (k < a + n))) = true := by simp only [Bool.not_eq_true', Bool.and_eq_false_iff, decide_eq_false_iff_not]; omega
      simp only [hb, if_true, SMap.get, ih]
      by_cases hx : a ≤ x ∧ x < a + n
      · have : x ≠ k := by rintro rfl; exact hk hx
        simp [hx, this]
      · simp [hx]

theorem fByte_fWrite (f : Flash) (a : Nat) (bs : List Byte) (x : Nat) :
    fByte (fWrite f a bs) x = if a ≤ x ∧ x < a + bs.length then bs.getD (x - a) 0 else fByte f x := by
  have key : ∀ n, fByte ((List.range n).foldl (fun f i => SMap.set flashMade f (a + i) (bs.getD i 0)) f) x
      = if a ≤ x ∧ x < a + n then bs.getD (x - a) 0 else fByte f x := by
    intro n
    induction n with
    | zero => rw [if_neg (by omega)]; rfl
    | succ n ih =>
      rw [List.range_succ, List.foldl_append]
      simp only [List.foldl_cons, List.foldl_nil]
      rw [fByte, SMap.get_set, ← fByte, ih]
      by_cases h : x = a + n
      · subst h; simp
      · have e : (a ≤ x ∧ x < a + (n + 1)) ↔ (a ≤ x ∧ x < a + n) := by omega
        simp only [h, if_false, e]
  exact key bs.length

/-- Reading some of the bytes that stand from an address on. -/
theorem fRead_of_bytes (f : Flash) (a : Nat) (bs : List Byte) (h : ∀ i, i < bs.length → fByte f (a + i) = bs.getD i 0) (o n : Nat)
    (hn : o + n ≤ bs.length) : fRead f (a + o) n = (bs.drop o).take n := by
  apply List.ext_getElem
  · simp; omega
  · intro i h1 h2
    have hi : i < n := by simpa using h1
    have e := h (o + i) (by omega)
    simp only [fRead, List.getElem_map, List.getElem_range, List.getElem_take, List.getElem_drop, Nat.add_assoc, e]
    rw [List.getD_eq_getElem?_getD, List.getElem?_eq_getElem (by omega), Option.getD_some]

theorem take_drop_mid {α : Type} (l p q r : List α) (h : l = p ++ (q ++ r)) : (l.drop p.length).take q.length = q := by
  subst h; simp

theorem settingBytes_length (x : Setting) : x.bytes.length = 20 + x.data.length := by
  simp [Setting.bytes]; omega

/-- What a record's fields must be to stand in the settings area. -/
def Setting.fits (x : Setting) : Prop := x.id < 0xFFFF ∧ x.ctx < 2 ^ 32 ∧ x.data.length < 2 ^ 32

/-- A record that stands in the flash is found, and then what follows it. -/
theorem settingsAt_record (f : Flash) (a n : Nat) (x : Setting) (hx : x.fits) (he : a + 20 + x.data.length ≤ settingsEnd)
    (h : ∀ i, i < x.bytes.length → fByte f (a + i) = x.bytes.getD i 0) :
    settingsAt f (n + 1) a = x :: settingsAt f n (a + 20 + x.data.length) := by
  obtain ⟨h1, h2, h3⟩ := hx
  have hl := settingBytes_length x
  have rd (o n : Nat) (p q r : List Byte) (e : x.bytes = p ++ (q ++ r)) (ho : p.length = o) (hn : q.length = n) :
      fRead f (a + o) n = q := by
    subst ho hn
    have : p.length + q.length ≤ x.bytes.length := by rw [e]; simp
    rw [fRead_of_bytes f a x.bytes h _ _ this, take_drop_mid _ p q r e]
  generalize hb : toLE 2 x.id ++ toLE 2 x.fmt.toNat ++ toLE 4 x.data.length ++ toLE 4 x.ctx ++ toLE 4 (b2n x.trial) ++ x.data = b
  have hbl : b.length = 16 + x.data.length := by rw [← hb]; simp; omega
  have e : x.bytes = b ++ toLE 4 (crc32c b).toNat := by rw [← hb]; rfl
  have hid : fNum f a 2 = x.id := by
    have := rd 0 2 [] (toLE 2 x.id) _ (by simp only [Setting.bytes, List.append_assoc]; rfl) rfl (by simp)
    rw [fNum, show a = a + 0 from rfl, this, leNat_toLE]; omega
  have hfmt : fNum f (a + 2) 2 = x.fmt.toNat := by
    have := rd 2 2 (toLE 2 x.id) (toLE 2 x.fmt.toNat) _ (by simp only [Setting.bytes, List.append_assoc]; rfl) (by simp) (by simp)
    have := x.fmt.isLt
    rw [fNum, ‹fRead f (a + 2) 2 = _›, leNat_toLE]; omega
  have hlen : fNum f (a + 4) 4 = x.data.length := by
    have := rd 4 4 (toLE 2 x.id ++ toLE 2 x.fmt.toNat) (toLE 4 x.data.length) _
      (by simp only [Setting.bytes, List.append_assoc]; rfl) (by simp) (by simp)
    rw [fNum, this, leNat_toLE]; omega
  have hctx : fNum f (a + 8) 4 = x.ctx := by
    have := rd 8 4 (toLE 2 x.id ++ (toLE 2 x.fmt.toNat ++ toLE 4 x.data.length)) (toLE 4 x.ctx) _
      (by simp only [Setting.bytes, List.append_assoc]; rfl) (by simp) (by simp)
    rw [fNum, this, leNat_toLE]; omega
  have htr : fNum f (a + 12) 1 = b2n x.trial := by
    have := rd 12 1 (toLE 2 x.id ++ (toLE 2 x.fmt.toNat ++ (toLE 4 x.data.length ++ toLE 4 x.ctx))) (toLE 1 (b2n x.trial)) _
      (by simp only [Setting.bytes, List.append_assoc]
          rw [show toLE 4 (b2n x.trial) = toLE 1 (b2n x.trial) ++ toLE 3 (b2n x.trial / 256) from rfl]
          simp only [List.append_assoc]; rfl) (by simp) (by simp)
    rw [fNum, this, leNat_toLE]; cases x.trial <;> rfl
  have hdat : fRead f (a + 16) x.data.length = x.data :=
    rd 16 _ (toLE 2 x.id ++ (toLE 2 x.fmt.toNat ++ (toLE 4 x.data.length ++ (toLE 4 x.ctx ++ toLE 4 (b2n x.trial))))) x.data _
      (by simp only [Setting.bytes, List.append_assoc]; rfl) (by simp) rfl
  have hall : fRead f a (16 + x.data.length) = b := rd 0 _ [] b _ (by rw [e]; rfl) rfl hbl
  have hcrc : fNum f (a + 16 + x.data.length) 4 = (crc32c b).toNat := by
    have := rd (16 + x.data.length) 4 b (toLE 4 (crc32c b).toNat) [] (by rw [e, List.append_nil]) hbl (by simp)
    have := (crc32c b).isLt
    rw [Nat.add_assoc, fNum, ‹fRead f (a + (16 + x.data.length)) 4 = _›, leNat_toLE]; omega
  rw [settingsAt]
  simp only [hid, hlen, hfmt, hctx, htr, hdat, hall, hcrc]
  rw [if_neg (by simp; omega), if_pos trivial]
  obtain ⟨id, ctx, fmt, trial, data⟩ := x
  simp only [BitVec.ofNat_toNat, BitVec.setWidth_eq, List.cons.injEq, Setting.mk.injEq, and_true, true_and]
  cases trial <;> rfl

/-- The end of the records: an erased ID, or no room. -/
theorem settingsAt_end (f : Flash) (n a : Nat) (h : fNum f a 2 = 0xFFFF ∨ settingsEnd < a + 20) : settingsAt f n a = [] := by
  cases n with
  | zero => rfl
  | succ n =>
    rw [settingsAt]
    simp only
    rw [if_pos]
    rcases h with h | h
    · simp [h]
    · simp; omega

/-- Records that stand one behind the other from an address on are found there. -/
theorem settingsAt_records (f : Flash) (l : List Setting) (n a : Nat) (hn : l.length ≤ n) (hx : ∀ x ∈ l, x.fits)
    (h : ∀ i, i < (l.flatMap Setting.bytes).length → fByte f (a + i) = (l.flatMap Setting.bytes).getD i 0)
    (he : a + (l.flatMap Setting.bytes).length ≤ settingsEnd)
    (hz : ∀ x, a + (l.flatMap Setting.bytes).length ≤ x → x < settingsEnd → fByte f x = 0xFF#8) :
    settingsAt f n a = l := by
  induction l generalizing n a with
  | nil =>
    apply settingsAt_end
    simp only [List.flatMap_nil, List.length_nil, Nat.add_zero] at hz he
    by_cases h20 : settingsEnd < a + 20
    · exact .inr h20
    · left
      have h0 := hz a (by omega) (by omega)
      have h1 := hz (a + 1) (by omega) (by omega)
      simp [fNum, fRead, List.range_succ, h0, h1, leNat]
  | cons x t ih =>
    obtain ⟨m, rfl⟩ : ∃ m, n = m + 1 := ⟨n - 1, by simp at hn; omega⟩
    have hl := settingBytes_length x
    have e : ((x :: t).flatMap Setting.bytes) = x.bytes ++ t.flatMap Setting.bytes := rfl
    simp only [e, List.length_append, hl] at h he hz
    have g (i : Nat) (hi : i < x.bytes.length) : fByte f (a + i) = x.bytes.getD i 0 := by
      rw [h i (by omega), List.getD_append _ _ _ _ hi]
    rw [settingsAt_record f a m x (hx x (by simp)) (by omega) g]
    rw [ih m (a + 20 + x.data.length) (by simp at hn; omega) (fun y hy => hx y (by simp [hy]))]
    · intro i hi
      have := h (20 + x.data.length + i) (by omega)
      rw [List.getD_append_right _ _ _ _ (by omega), hl] at this
      rw [show a + 20 + x.data.length + i = a + (20 + x.data.length + i) by omega, this]
      congr 1; omega
    · omega
    · intro y h1 h2; exact hz y (by omega) h2

theorem settingsFull_false (l : List Setting) (h : settingsFull l = false) : (l.map fun x => 20 + x.data.length).sum ≤ 0x1000000 := by
  unfold settingsFull at h
  exact Nat.le_of_not_lt (of_decide_eq_false h)

theorem flatMap_bytes_length (l : List Setting) : (l.flatMap Setting.bytes).length = (l.map fun x => 20 + x.data.length).sum := by
  induction l with
  | nil => rfl
  | cons x t ih => simp [settingBytes_length, ih]

/-- A byte that is not as it was made is listed. -/
theorem mem_keys_of_fByte (f : Flash) (a : Nat) (h : fByte f a ≠ flashMade a) : a ∈ f.map (·.1) := by
  induction f with
  | nil => simp [fByte, SMap.get] at h
  | cons e t ih =>
    obtain ⟨k, v⟩ := e
    simp only [fByte, SMap.get] at h
    split at h
    · simp [*]
    · simp [ih h]

/-- Places of the first bytes of the records from an address on, or the next, whichever is not erased. -/
theorem records_le_listed (f : Flash) (l : List Setting) (a : Nat) (hb : settingsBase ≤ a) (hx : ∀ x ∈ l, x.fits)
    (h : ∀ i, i < (l.flatMap Setting.bytes).length → fByte f (a + i) = (l.flatMap Setting.bytes).getD i 0) :
    ∃ ks : List Nat, ks.length = l.length ∧ ks.Pairwise (· < ·) ∧ ∀ k ∈ ks, a ≤ k ∧ k ∈ f.map (·.1) := by
  induction l generalizing a with
  | nil => exact ⟨[], rfl, .nil, by simp⟩
  | cons x t ih =>
    have hl := settingBytes_length x
    have e : ((x :: t).flatMap Setting.bytes) = x.bytes ++ t.flatMap Setting.bytes := rfl
    simp only [e, List.length_append, hl] at h
    obtain ⟨ks, h1, h2, h3⟩ := ih (a + 20 + x.data.length) (by omega) (fun y hy => hx y (by simp [hy])) (by
      intro i hi
      have := h (20 + x.data.length + i) (by omega)
      rw [List.getD_append_right _ _ _ _ (by omega), hl] at this
      rw [show a + 20 + x.data.length + i = a + (20 + x.data.length + i) by omega, this]
      congr 1; omega)
    have hm (y : Nat) (hy : settingsBase ≤ y) : flashMade y = 0xFF#8 := by
      have : 0x50000 ≤ y := Nat.le_trans (by decide) hy
      simp [flashMade]; omega
    have g (i : Nat) (hi : i < 2) : fByte f (a + i) = (toLE 2 x.id).getD i 0 := by
      rw [h i (by omega), List.getD_append _ _ _ _ (by omega)]
      simp only [Setting.bytes, List.append_assoc]
      rw [List.getD_append _ _ _ _ (by simpa using hi)]
    have hk : ∃ k, a ≤ k ∧ k < a + 2 ∧ k ∈ f.map (·.1) := by
      by_contra hc
      have n0 : fByte f (a + 0) = 0xFF#8 := by
        by_contra hne; exact hc ⟨a, by omega, by omega, mem_keys_of_fByte f a (by rw [hm a hb]; simpa using hne)⟩
      have n1 : fByte f (a + 1) = 0xFF#8 := by
        by_contra hne; exact hc ⟨a + 1, by omega, by omega, mem_keys_of_fByte f _ (by rw [hm (a + 1) (by omega)]; exact hne)⟩
      rw [g 0 (by omega)] at n0
      rw [g 1 (by omega)] at n1
      have := (hx x (by simp)).1
      simp [toLE] at n0 n1
      have m0 := congrArg BitVec.toNat n0
      have m1 := congrArg BitVec.toNat n1
      simp at m0 m1
      omega
    obtain ⟨k, k1, k2, k3⟩ := hk
    refine ⟨k :: ks, by simp [h1], List.pairwise_cons.mpr ⟨fun y hy => by have := (h3 y hy).1; omega, h2⟩, ?_⟩
    rintro y hy
    rcases List.mem_cons.mp hy with rfl | hy
    · exact ⟨k1, k3⟩
    · exact ⟨by have := (h3 y hy).1; omega, (h3 y hy).2⟩

/-- What is written to the settings area is what is found there (R479). -/
theorem settingsOf_put (f : Flash) (l : List Setting) (hx : ∀ x ∈ l, x.fits) (hfull : settingsFull l = false) :
    settingsOf (settingsPut f l) = l := by
  have hlen := flatMap_bytes_length l
  have hs : (l.flatMap Setting.bytes).length ≤ 0x1000000 := by
    rw [hlen]; exact settingsFull_false l hfull
  have hb (x : Nat) : fByte (settingsPut f l) x = if settingsBase ≤ x ∧ x < settingsBase + (l.flatMap Setting.bytes).length
      then (l.flatMap Setting.bytes).getD (x - settingsBase) 0 else fByte (fErase f settingsBase 0x1000000) x := fByte_fWrite _ _ _ _
  have h1 (i : Nat) (hi : i < (l.flatMap Setting.bytes).length) :
      fByte (settingsPut f l) (settingsBase + i) = (l.flatMap Setting.bytes).getD i 0 := by
    rw [hb, if_pos (by omega), Nat.add_sub_cancel_left]
  have hE : settingsEnd = settingsBase + 0x1000000 := by norm_num [settingsEnd, settingsBase]
  apply settingsAt_records
  · obtain ⟨ks, k1, k2, k3⟩ := records_le_listed (settingsPut f l) l settingsBase (Nat.le_refl _) hx h1
    have : ks.Nodup := k2.imp fun h => Nat.ne_of_lt h
    have := (this.subperm fun k hk => (k3 k hk).2).length_le
    simpa [k1] using this
  · exact hx
  · exact h1
  · omega
  · intro x h2 h3
    rw [hb, if_neg (by omega), fByte_fErase, if_pos (by omega)]
    have : settingsBase = 0x6100000 := rfl
    simp [flashMade]; omega

/-- Nothing but the settings area is written by it. -/
theorem fByte_settingsPut_other (f : Flash) (l : List Setting) (hfull : settingsFull l = false) (a : Nat)
    (ha : a < 0x6100000 ∨ 0x7100000 ≤ a) : fByte (settingsPut f l) a = fByte f a := by
  have hs : (l.flatMap Setting.bytes).length ≤ 0x1000000 := by
    rw [flatMap_bytes_length]; exact settingsFull_false l hfull
  have hB : settingsBase = 0x6100000 := rfl
  rw [settingsPut, fByte_fWrite, if_neg (by omega), fByte_fErase, if_neg (by omega)]

end Sys2Proof.Machine
end

