-- ==== Sys2Proof/Laws/Store.lean ====
section
/-! SUPPORT. Memories with tile checksums: what a write leaves of a tile it does not touch, and the canonical form that every
operation keeps (R178 to R181, R184). -/

namespace Sys2Proof.Machine
open Sys2Proof

/-- Tiles that `n` bytes at `off` touch. -/
theorem mem_tilesOf (off n t : Nat) : t ∈ tilesOf off n ↔ 0 < n ∧ off / 2048 ≤ t ∧ t ≤ (off + n - 1) / 2048 := by
  unfold tilesOf
  split
  · simp_all
  · simp only [List.mem_map, List.mem_range]
    constructor
    · rintro ⟨i, hi, rfl⟩; omega
    · rintro ⟨-, h1, h2⟩; exact ⟨t - off / 2048, by omega, by omega⟩

/-- Bytes of a range that a write does not meet. -/
theorem Mem.bytes_setBytes_apart (m : Mem) (a b n : Nat) (bs : List Byte) (h : ∀ x, b ≤ x → x < b + n → ¬ (a ≤ x ∧ x < a + bs.length)) :
    (m.setBytes a bs).bytes b n = m.bytes b n := by
  induction n generalizing b with
  | zero => rfl
  | succ n ih =>
    simp only [Mem.bytes]
    rw [Mem.byte_setBytes, if_neg (h b (by omega) (by omega)), ih (b + 1) (fun x h1 h2 => h x (by omega) (by omega))]

/-- The checksum of the bytes of a tile that a write does not touch. -/
theorem Store.crc_setBytes (st : Store) (off : Nat) (bs : List Byte) (t : Nat) (h : t ∉ tilesOf off bs.length) :
    ({ st with mem := st.mem.setBytes off bs } : Store).crc t = st.crc t := by
  unfold Store.crc
  simp only
  rw [Mem.bytes_setBytes_apart]
  intro x h1 h2 h3
  exact h ((mem_tilesOf _ _ _).2 (by omega))

@[simp] theorem Store.poisonTile_mem (st : Store) (t : Nat) : (st.poisonTile t).mem = st.mem := by unfold Store.poisonTile; split <;> rfl
@[simp] theorem Store.poisonTile_sums (st : Store) (t : Nat) : (st.poisonTile t).sums = st.sums := by unfold Store.poisonTile; split <;> rfl

/-- A poisoned tile is listed, and those listed before. -/
theorem Store.mem_poisonTile (st : Store) (t u : Nat) : u ∈ (st.poisonTile t).poison ↔ u = t ∨ u ∈ st.poison := by
  unfold Store.poisonTile
  split
  · constructor
    · exact .inr
    · rintro (rfl | h) <;> assumption
  · simp only [List.mem_append, List.mem_cons, List.mem_filter, decide_eq_true_eq]
    constructor
    · tauto
    · rintro (rfl | h)
      · tauto
      · rcases lt_trichotomy u t with h1 | h1 | h1 <;> tauto

theorem Store.wf_iff (st : Store) :
    st.wf = true ↔ st.mem.wf = true ∧ SMap.wf st.crc st.sums = true ∧ st.poison.Pairwise (· < ·) := by
  simp only [Store.wf, Bool.and_eq_true, decide_eq_true_eq, and_assoc]

theorem Store.wf_poisonTile (st : Store) (t : Nat) (h : st.wf = true) : (st.poisonTile t).wf = true := by
  rw [Store.wf_iff] at h ⊢
  obtain ⟨h1, h2, h3⟩ := h
  refine ⟨by simpa using h1, ?_, ?_⟩
  · have : (st.poisonTile t).crc = st.crc := by funext u; simp [Store.crc]
    rw [this]; simpa using h2
  · unfold Store.poisonTile
    split
    · exact h3
    · refine List.pairwise_append.2 ⟨h3.filter _, List.pairwise_cons.2 ⟨?_, h3.filter _⟩, ?_⟩
      · intro a ha; simpa using (List.mem_filter.1 ha).2
      · intro a ha b hb
        have ha := (List.mem_filter.1 ha).2
        simp only [decide_eq_true_eq] at ha
        rcases List.mem_cons.1 hb with rfl | hb
        · exact ha
        · have hb := (List.mem_filter.1 hb).2
          simp only [decide_eq_true_eq] at hb
          omega

theorem Store.wf_poison_fold (l : List Nat) (st : Store) (h : st.wf = true) : (l.foldl Store.poisonTile st).wf = true := by
  induction l generalizing st with
  | nil => exact h
  | cons t l ih => exact ih _ (Store.wf_poisonTile st t h)

theorem Store.wf_poisonRange (st : Store) (off n : Nat) (h : st.wf = true) : (st.poisonRange off n).wf = true :=
  Store.wf_poison_fold _ _ h

theorem SMap.mem_erase_fold {α : Type} (l : List Nat) (m : SMap α) (e : Nat × α) : e ∈ l.foldl SMap.erase m ↔ e ∈ m ∧ e.1 ∉ l := by
  induction l generalizing m with
  | nil => simp
  | cons k l ih => simp only [List.foldl_cons, ih, SMap.erase_eq_filter, List.mem_filter, List.mem_cons, decide_eq_true_eq]; tauto

theorem SMap.pairwise_erase_fold {α : Type} (l : List Nat) (m : SMap α) (h : m.Pairwise fun a b => a.1 < b.1) :
    (l.foldl SMap.erase m).Pairwise fun a b => a.1 < b.1 := by
  induction l generalizing m with
  | nil => exact h
  | cons k l ih => exact ih _ (by rw [SMap.erase_eq_filter]; exact h.filter _)

/-- In a list with rising keys no other entry has the key of the one put in. -/
theorem SMap.mem_put_of_pairwise {α : Type} (m : SMap α) (k : Nat) (v : α) (e : Nat × α) (h : m.Pairwise fun a b => a.1 < b.1)
    (he : e ∈ m.put k v) : e = (k, v) ∨ (e ∈ m ∧ e.1 ≠ k) := by
  induction m with
  | nil => exact .inl (List.mem_singleton.1 he)
  | cons x t ih =>
    obtain ⟨hx, ht⟩ := List.pairwise_cons.1 h
    simp only [SMap.put] at he
    split at he
    · rename_i hk
      rcases List.mem_cons.1 he with rfl | hm
      · exact .inl rfl
      · refine .inr ⟨hm, ?_⟩
        rcases List.mem_cons.1 hm with rfl | hm
        · exact fun hh => absurd hk (by omega)
        · have := hx e hm; omega
    · split at he
      · rename_i hk
        rcases List.mem_cons.1 he with rfl | hm
        · exact .inl rfl
        · have h1 := hx e hm
          exact .inr ⟨List.mem_cons_of_mem _ hm, by omega⟩
      · rename_i hk
        rcases List.mem_cons.1 he with rfl | hm
        · exact .inr ⟨List.mem_cons_self, fun hh => hk hh.symm⟩
        · rcases ih ht hm with h1 | ⟨h1, h2⟩
          · exact .inl h1
          · exact .inr ⟨List.mem_cons_of_mem _ h1, h2⟩

theorem SMap.wf_iff {α : Type} [DecidableEq α] (d : Nat → α) (m : SMap α) :
    SMap.wf d m = true ↔ (m.Pairwise fun a b => a.1 < b.1) ∧ ∀ e ∈ m, e.2 ≠ d e.1 := by
  simp only [SMap.wf, Bool.and_eq_true, SMap.sorted_iff, List.all_eq_true, bne_iff_ne]

/-- A write keeps the canonical form. -/
theorem Store.wf_write (st : Store) (off : Nat) (bs : List Byte) (h : st.wf = true) : (st.write off bs).wf = true := by
  rw [Store.wf_iff] at h
  obtain ⟨h1, h2, h3⟩ := h
  unfold Store.write
  refine Store.wf_poison_fold _ _ ((Store.wf_iff _).2 ⟨?_, ?_, h3.filter _⟩)
  · exact Mem.wf_setBytes _ _ _ h1
  · rw [SMap.wf_iff] at h2 ⊢
    refine ⟨SMap.pairwise_erase_fold _ _ h2.1, fun e he => ?_⟩
    obtain ⟨he, hn⟩ := (SMap.mem_erase_fold _ _ _).1 he
    have hc := Store.crc_setBytes st off bs e.1 hn
    exact fun hx => h2.2 e he (hx.trans hc)

/-- A word that an error changes keeps the canonical form. -/
theorem Store.wf_alter (st : Store) (a w : Nat) (h : st.wf = true) : (st.alter a w).wf = true := by
  rw [Store.wf_iff] at h
  obtain ⟨h1, h2, h3⟩ := h
  rw [SMap.wf_iff] at h2
  have hc : ∀ t, t ≠ a / 2048 → ({ st with mem := st.mem.setBytes (a / 8 * 8) (toLE 8 w) } : Store).crc t = st.crc t := by
    intro t ht
    refine Store.crc_setBytes st _ _ t fun hm => ht ?_
    have := (mem_tilesOf _ _ _).1 hm
    rw [toLE_length] at this
    omega
  refine (Store.wf_iff _).2 ⟨Mem.wf_setBytes _ _ _ h1, ?_, h3⟩
  rw [SMap.wf_iff]
  show (SMap.set _ st.sums (a / 2048) (st.sum (a / 2048))).Pairwise _ ∧ ∀ e ∈ SMap.set _ st.sums (a / 2048) (st.sum (a / 2048)),
    e.2 ≠ ({ st with mem := st.mem.setBytes (a / 8 * 8) (toLE 8 w) } : Store).crc e.1
  unfold SMap.set
  split
  · rw [SMap.erase_eq_filter]
    refine ⟨h2.1.filter _, fun e he => ?_⟩
    obtain ⟨he, hk⟩ := List.mem_filter.1 he
    rw [hc e.1 (by simpa using hk)]
    exact h2.2 e he
  · rename_i hv
    refine ⟨SMap.pairwise_put _ _ _ h2.1, fun e he => ?_⟩
    rcases SMap.mem_put_of_pairwise _ _ _ _ h2.1 he with rfl | ⟨hm, hk⟩
    · exact hv
    · rw [hc e.1 hk]; exact h2.2 e hm

end Sys2Proof.Machine
end

