-- ==== Sys2Proof/WellFormed.lean ====
section
/-! DEFINITION. Well-formed commands: every instance number a command names exists on the largest product (R2), every register address
is a word of BAR0 or BAR2 (R4), and lists hold what their rule allows. -/

namespace Sys2Proof

/-- Is `a` the address of a register word (R4)? -/
def wordAddr (a : Nat) : Bool := a % 4 == 0 && decide (a < 0x1010000)

/-- A command whose operands lie in the ranges of their rules. DESIGN CHOICE (log entry 61). -/
def Instr.wf (i : Instr) : Bool :=
  match i with
  | .registerWrite a _ => wordAddr a
  | .registerReadClear a => wordAddr a
  | .loReadLatch a => wordAddr a
  | .commitPointApply => true
  | .laneInjTx l => decide (l < 48)
  | .laneInjRx l => decide (l < 48)
  | .lanePeriodicInject l => decide (l < 48)
  | .laneCntClr l => decide (l < 48)
  | .eqClamp l _ => decide (l < 48)
  | .prbsLock l _ wire => decide (l < 48) && decide (wire.length ≤ 4096)
  | .prbsUnlock l _ _ wire => decide (l < 48) && decide (wire.length ≤ 4096)
  | .cxpLinkEnable n _ => decide (n < 16)
  | .cxpLinkDisable n _ => decide (n < 16)
  | .cxpMasterLock n => decide (n < 16)
  | .cxpDiscTimeout n => decide (n < 16)
  | .cxpBootstrapReadDone n _ _ _ _ _ => decide (n < 16)
  | .cxpConfigAck n => decide (n < 16)
  | .cxpSwitchLocked n => decide (n < 16)
  | .cxpSwitchTimeout n => decide (n < 16)
  | .cxpLockLoss n => decide (n < 16)
  | .cxpPowerFault n => decide (n < 16)
  | .cxpRestart n => decide (n < 16)
  | .cxpCcGo n _ => decide (n < 16)
  | .cxpCcReply n _ _ => decide (n < 16)
  | .cxpCcTimeout n => decide (n < 16)
  | .cxpStreamPacket n _ _ _ _ _ => decide (n < 16)
  | .cxpHeartbeatRx n _ => decide (n < 16)
  | .cxpHbTimeout n => decide (n < 16)
  | .cxpEventPacket n _ => decide (n < 16)
  | .cxpEvtPop n => decide (n < 16)
  | .iflEnable p _ => decide (p < 8)
  | .iflDisable p _ => decide (p < 8)
  | .iflRetrain p => decide (p < 8)
  | .iflTxStart p => decide (p < 8)
  | .iflMarkerRx p i wire _ => decide (p < 8) && decide (i < 2) && decide (wire.length ≤ 256)
  | .iflMarkerMissing p i => decide (p < 8) && decide (i < 2)
  | .iflFlitRx p w0 w1 => decide (p < 8) && decide (w0.length ≤ 160) && decide (w1.length ≤ 160)
  | .iflAckTimeout p => decide (p < 8)
  | .iflCreditSend p => decide (p < 8)
  | .lineTick j => decide (j < 8)
  | .pixLineComplete n x => decide (n < 16) && decide (x < 128)
  | .pixTickTimeout x => decide (x < 128)
  | .pipeTurnStart p => decide (p < 8)
  | .pixLineProcessed p _ _ => decide (p < 8)
  | .pipeFreeNotice k h => decide (k < 8) && decide (h < 16)
  | .ctxCommit x => decide (x < 128)
  | .ctxAbort x => decide (x < 128)
  | .pipeCommit p => decide (p < 8)
  | .ctxEnable x _ => decide (x < 128)
  | .ctxDisable x _ => decide (x < 128)
  | .setGo x _ => decide (x < 128)
  | .settingsAck x _ => decide (x < 128)
  | .nop c => decide (c < 64)
  | .load c => decide (c < 64)
  | .store c _ => decide (c < 64)
  | .mma c _ => decide (c < 64)
  | .drain c _ => decide (c < 64)
  | .vop c _ => decide (c < 64)
  | .vlut c _ => decide (c < 64)
  | .vsort c _ => decide (c < 64)
  | .window c _ => decide (c < 64)
  | .wait c => decide (c < 64)
  | .waitSatisfied c => decide (c < 64)
  | .tset c => decide (c < 64)
  | .call c _ => decide (c < 64)
  | .endList c => decide (c < 64)
  | .yieldPoint c _ => decide (c < 64)
  | .verdict c _ => decide (c < 64)
  | .listTileFetch c _ => decide (c < 64)
  | .commandComplete c units _ => decide (c < 64) && units.all (· < 6)
  | .transferComplete c space _ _ _ _ _ => decide (c < 64) && decide (space < 5)
  | .coreClearErr site => decide (site < 72)
  | .stripePost k h => decide (k < 8) && decide (h < 16)
  | .stripeRelease k h j => decide (k < 8) && decide (h < 16) && decide (j < 8)
  | .rdyTokSignal k h => decide (k < 8) && decide (h < 16)
  | .freeTokSignal k h => decide (k < 8) && decide (h < 16)
  | .lscEnable k h _ => decide (k < 8) && decide (h < 16)
  | .lscDisable k h _ => decide (k < 8) && decide (h < 16)
  | .sluCommit n cycle => decide (n < 26) && decide (cycle < 2048)
  | .memSluCommit _ cycle => decide (cycle < 2048)
  | .sluAbort n => decide (n < 26)
  | .sluicePeriodBoundary temp0 temp1 => decide (temp0 < 256) && decide (temp1 < 256)
  | .sluiceSlot n i _ _ _ => decide (n < 26) && decide (i < 256)
  | .openSlotArbitrate n _ _ => decide (n < 26)
  | .emergencyRequest n _ => decide (n < 26)
  | .remoteAccessRx port _ _ _ _ _ _ _ => decide (port < 8)
  | .hbmInitDone => true
  | .coreFence site cause => decide (site < 72) && decide (cause < 7)
  | .detFenceGo site => decide (site < 72)
  | .corePollTimeout site => decide (site < 72)
  | .spareSelfTest k _ => decide (k < 8)
  | .recipeHalt => true
  | .spareRestart k => decide (k < 8)
  | .undecidedRelease _ => true
  | .lineDigestDone ctx => decide (ctx < 128)
  | .verdictRelease _ => true
  | .sealStart n => decide (n < 16)
  | .sealSigned n => decide (n < 16)
  | .gstopStop source => decide (source < 3)
  | .gstopTakeEffect => true
  | .gstopRelease source => decide (source < 3)
  | .gstopResume => true
  | .encInputChange ch _ _ => decide (ch < 4)
  | .encOpenDetect ch pair => decide (ch < 4) && decide (pair < 3)
  | .encZEdge ch _ => decide (ch < 4)
  | .hallCodeChange ch code => decide (ch < 4) && decide (code < 8)
  | .sincosSample ch sin cos => decide (ch < 4) && decide (sin < 65536) && decide (cos < 65536)
  | .serFrameStart ch _ => decide (ch < 4)
  | .serStartTimeout ch => decide (ch < 4)
  | .serEndTimeout ch => decide (ch < 4)
  | .serFrameDone ch _ _ _ => decide (ch < 4)
  | .observerUpdate ch _ => decide (ch < 4)
  | .encModeChange ch _ => decide (ch < 4)
  | .encLatch ch => decide (ch < 4)
  | .encClrCnt ch => decide (ch < 4)
  | .encCalClr ch => decide (ch < 4)
  | .encBwSet ch => decide (ch < 4)
  | .encKApply ch => decide (ch < 4)
  | .repStep i => decide (i < 2)
  | .barrierFrameLaunch _ _ waits => waits.all (· < 64)
  | .barrierFrameRx _ frame => decide (frame < 2 ^ 100)
  | .barrierSyncLoss _ => true
  | .heartbeat => true
  | .fieldHeartbeat => true
  | .encSnapshot => true
  | .diChange => true
  | .ejectReport => true
  | .fault => true
  | .cfgReadResponse => true
  | .ejectArm => true
  | .doSet => true
  | .cfgWrite => true
  | .cfgRead => true
  | .cfgResponseTimeout => true
  | .snapshotTimer _ i => decide (i < 8)
  | .strobePulseEnd i => decide (i < 4)
  | .weirFire g _ => decide (g < 8)
  | .weirPulseEnd g out _ => decide (g < 8) && decide (out < 256)
  | .valveFrame p => decide (p < 4)
  | .diFilterChange inputs => decide (inputs < 65536)
  | .doFault i _ => decide (i < 16)
  | .lpUndervoltage _ => true
  | .safeStateEntry => true
  | .barRelease => true
  | .fieldLoss => true
  | .tbRateWrite n _ => decide (n < 4)
  | .tbSet n => decide (n < 4)
  | .tbStep n => decide (n < 4)
  | .timeSnap => true
  | .timeCopy _ => true
  | .cmpFire i => decide (i < 8)
  | .ppsPulseEnd => true
  | .timeCapture _ => true
  | .ethRxFrame p _ _ => decide (p < 2)
  | .ethTxDone p => decide (p < 2)
  | .ethTxtsPop p => decide (p < 2)
  | .tb1SyncSend => true
  | .tb1SyncRx p => decide (p < 8)
  | .tb1DelayReqRx p => decide (p < 8)
  | .tb1DelayRespRx p => decide (p < 8)
  | .tb1Holdover => true
  | .hostAbiWrite _ => true
  | .sqDoorbell q _ => decide (q < 64)
  | .cqHeadDoorbell q _ => decide (q < 64)
  | .rrHeadDoorbell n _ => decide (n < 16)
  | .sqEnable q _ => decide (q < 64)
  | .sqRestart q => decide (q < 64)
  | .sqReset q _ => decide (q < 64)
  | .sqResetDone q => decide (q < 64)
  | .cqEnable q _ => decide (q < 64)
  | .rrEnable n _ => decide (n < 16)
  | .descriptorFetch q _ => decide (q < 64)
  | .completionWrite q => decide (q < 64)
  | .recipeLoad q => decide (q < 64)
  | .recipeCommit q => decide (q < 64)
  | .recipeDisarm q => decide (q < 64)
  | .recipeDrop q => decide (q < 64)
  | .jobRun q _ => decide (q < 64)
  | .jobCancel q => decide (q < 64)
  | .textSample q => decide (q < 64)
  | .copy q outcome _ _ _ => decide (q < 64) && decide (outcome < 4)
  | .fill q _ => decide (q < 64)
  | .ethTx q => decide (q < 64)
  | .ethRxPost q => decide (q < 64)
  | .imagePiece q _ => decide (q < 64)
  | .powerTol q => decide (q < 64)
  | .partitionSet q => decide (q < 64)
  | .updateBegin q _ => decide (q < 64)
  | .updateAbort q _ => decide (q < 64)
  | .updateActivate q _ => decide (q < 64)
  | .updateConfirm q _ => decide (q < 64)
  | .updateRevert q _ => decide (q < 64)
  | .recoveryWrite q _ => decide (q < 64)
  | .settingsSave q _ => decide (q < 64)
  | .settingsRead q _ => decide (q < 64)
  | .settingsWrite q _ => decide (q < 64)
  | .settingsErase q _ => decide (q < 64)
  | .certGet q _ => decide (q < 64)
  | .pubkeyGet q => decide (q < 64)
  | .quote q => decide (q < 64)
  | .quoteSigned => true
  | .resultRecordPublish n => decide (n < 16)
  | .busMasterEnableChange _ => true
  | .statePageUpdate => true
  | .msixVectorTimer v => decide (v < 64)
  | .msixUnmask v => decide (v < 64)
  | .sliceBoundary p => decide (p < 9)
  | .preemptionComplete _ => true
  | .preLimitExpired _ => true
  | .contextSaveDone _ k _ _ => decide (k < 8)
  | .contextRestoreDone _ k _ _ => decide (k < 8)
  | .oxbowGranuleLand _ c _ status data => decide (c < 64) && decide (status < 16) && data.length == 64
  | .oxbowDrainDone _ k => decide (k < 8)
  | .jobEnd _ => true
  | .servingStepEnd p => decide (p < 9)
  | .servingPoll p => decide (p < 9)
  | .srvEnable p _ => decide (p < 9)
  | .hdwAdmit => true
  | .hdwLaneStart => true
  | .hdwDecodeDone i _ => decide (i < 64)
  | .hdwEmerge => true
  | .hdwStopped => true
  | .hdwDictCommit _ => true
  | .hdwDictBuildDone => true
  | .hdwBatchTimeout => true
  | .hdwBatchWrite => true
  | .hdwBatchFree c => decide (c < 64)
  | .gaugeSnap => true
  | .gaugeSnapTake => true
  | .gaugeClearAll => true
  | .counterConfigWrite a _ => wordAddr a
  | .traceRecord b => decide (b < 10)
  | .traceWrite buf => decide (buf < 10)
  | .traceBucketRefill => true
  | .traceSampleTimer => true
  | .trcMark _ => true
  | .iflEventSend p => decide (p < 8)
  | .rootClockLost => true
  | .resetPower _ => true
  | .resetPin => true
  | .resetPerst => true
  | .flr => true
  | .wdogExpire => true
  | .clkRstCmd _ => true
  | .hostResetRelease => true
  | .selfTestDone failSites failLs => failSites.all (· < 72) && failLs.all (· < 8)
  | .bootCandidateSelect => true
  | .firmwareStarted => true
  | .deviceReady => true
  | .fieldReset => true
  | .fieldRomBoot => true
  | .fldLoadStart => true
  | .fldLoadData _ => true
  | .fldLoadRun expected => expected.length == 32
  | .clkMonGo _ => true
  | .clkMonDone _ => true
  | .tapReset => true
  | .dbgCmd op v => decide (op < 256) && decide (v < 2 ^ 32)
  | .dbgAddr v => decide (v < 2 ^ 64)
  | .dbgData v => decide (v < 2 ^ 512)
  | .dbgAccessDone => true
  | .clusterSleepEntry k state => decide (k < 8) && decide (state < 4)
  | .clusterWake k => decide (k < 8)
  | .clusterWakeDone k => decide (k < 8)
  | .powerCapWindow _ => true
  | .thermalSample cd0 cd1 io0 io1 hbm0 hbm1 => decide (cd0 < 256) && decide (cd1 < 256) && decide (io0 < 256) && decide (io1 < 256) && decide (hbm0 < 256) && decide (hbm1 < 256)
  | .thermalThrottleStep => true
  | .computeDieTrip _ => true
  | .pmResume => true
  | .voltClampWindow => true
  | .avsVoltageWrite n _ _ => decide (n < 2)
  | .avsCurrentRead n frame _ _ => decide (n < 2) && decide (frame < 3)
  | .wedgeDetect unit => decide (unit < 8)
  | .undecWindow => true
  | .fatalError _ _ _ => true
  | .laneCdrLockChange l _ _ _ _ _ => decide (l < 48)
  | .ethLinkChange p _ _ => decide (p < 2)
  | .encOpenClear ch pair => decide (ch < 4) && decide (pair < 3)
  | .bridgedCountStep ch _ => decide (ch < 4)
  | .strobePulseStart i => decide (i < 4)
  | .outputFaultEnd i => decide (i < 16)
  | .stackTrainingFail stack => decide (stack < 2)

end Sys2Proof
end

