-- ==== Sys2Proof/Tests/Slice0.lean ====
section
/-! SUPPORT. Own tests: ill-formed commands that the check refuses, values that the spec writes out, and for every statement with
hypotheses a concrete state and operands that meet each of its clauses. -/

namespace Sys2Proof.Tests
section
set_option Elab.async false
open Sys2Proof Sys2Proof.Machine

/-! ### Ill-formed commands: each has one operand outside the range that WellFormed states -/

theorem test_illFormed0 : ([.registerWrite 2 0, .registerReadClear 2, .loReadLatch 2, .laneInjTx 48, .laneInjRx 48, .lanePeriodicInject 48,
   .laneCntClr 48, .eqClamp 48 0, .prbsLock 48 0 [], .prbsLock 0 0 (List.replicate 4097 true), .prbsUnlock 48 0 0 [],
   .prbsUnlock 0 0 0 (List.replicate 4097 true), .cxpLinkEnable 16 0, .cxpLinkDisable 16 0, .cxpMasterLock 16,
   .cxpDiscTimeout 16, .cxpBootstrapReadDone 16 false false 0 0 false, .cxpConfigAck 16, .cxpSwitchLocked 16,
   .cxpSwitchTimeout 16, .cxpLockLoss 16, .cxpPowerFault 16, .cxpRestart 16, .cxpCcGo 16 0, .cxpCcReply 16 0 [],
   .cxpCcTimeout 16, .cxpStreamPacket 16 0 0 false false [], .cxpHeartbeatRx 16 0, .cxpHbTimeout 16, .cxpEventPacket 16 [],
   .cxpEvtPop 16, .iflEnable 8 0, .iflDisable 8 0, .iflRetrain 8, .iflTxStart 8, .iflMarkerRx 8 0 [] 0,
   .iflMarkerRx 0 2 [] 0, .iflMarkerRx 0 0 (List.replicate 257 true) 0, .iflMarkerMissing 8 0, .iflMarkerMissing 0 2,
   .iflFlitRx 8 [] [], .iflFlitRx 0 (List.replicate 161 true) [], .iflFlitRx 0 [] (List.replicate 161 true),
   .iflAckTimeout 8, .iflCreditSend 8, .lineTick 8, .pixLineComplete 16 0, .pixLineComplete 0 128, .pixTickTimeout 128,
   .pipeTurnStart 8, .pixLineProcessed 8 [] [], .pipeFreeNotice 8 0, .pipeFreeNotice 0 16, .ctxCommit 128, .ctxAbort 128,
   .pipeCommit 8, .ctxEnable 128 0, .ctxDisable 128 0, .setGo 128 0, .settingsAck 128 false] : List Instr).all (fun i => !i.wf) = true := by
  decide +kernel

theorem test_illFormed1 : ([.nop 64, .load 64, .store 64 {}, .mma 64 {}, .drain 64 {}, .vop 64 {}, .vlut 64 {}, .vsort 64 {}, .window 64 {},
   .wait 64, .waitSatisfied 64, .tset 64, .call 64 {}, .endList 64, .yieldPoint 64 0, .verdict 64 {}, .listTileFetch 64 {},
   .commandComplete 64 [] {}, .commandComplete 0 [6] {}, .transferComplete 64 0 [] false [] {} {},
   .transferComplete 0 5 [] false [] {} {}, .coreClearErr 72, .stripePost 8 0, .stripePost 0 16, .stripeRelease 8 0 0,
   .stripeRelease 0 16 0, .stripeRelease 0 0 8, .rdyTokSignal 8 0, .rdyTokSignal 0 16, .freeTokSignal 8 0,
   .freeTokSignal 0 16, .lscEnable 8 0 0, .lscEnable 0 16 0, .lscDisable 8 0 0, .lscDisable 0 16 0, .sluCommit 26 0,
   .sluCommit 0 2048, .memSluCommit 0 2048, .sluAbort 26, .sluicePeriodBoundary 256 0, .sluicePeriodBoundary 0 256,
   .sluiceSlot 26 0 0 0 [], .sluiceSlot 0 256 0 0 [], .openSlotArbitrate 26 0 false, .emergencyRequest 26 false,
   .remoteAccessRx 8 false 0 0 0 [] [] {}, .coreFence 72 0, .coreFence 0 7, .detFenceGo 72, .corePollTimeout 72,
   .spareSelfTest 8 false, .spareRestart 8, .lineDigestDone 128, .sealStart 16, .sealSigned 16, .gstopStop 3,
   .gstopRelease 3, .encInputChange 4 false false, .encOpenDetect 4 0, .encOpenDetect 0 3] : List Instr).all (fun i => !i.wf) = true := by
  decide +kernel

theorem test_illFormed2 : ([.encZEdge 4 false, .hallCodeChange 4 0, .hallCodeChange 0 8, .sincosSample 4 0 0, .sincosSample 0 65536 0,
   .sincosSample 0 0 65536, .serFrameStart 4 false, .serStartTimeout 4, .serEndTimeout 4, .serFrameDone 4 0 0 0,
   .observerUpdate 4 0, .encModeChange 4 0, .encLatch 4, .encClrCnt 4, .encCalClr 4, .encBwSet 4, .encKApply 4, .repStep 2,
   .barrierFrameLaunch false 0 [64], .barrierFrameRx false (2 ^ 100), .snapshotTimer false 8, .strobePulseEnd 4,
   .weirFire 8 0, .weirPulseEnd 8 0 0, .weirPulseEnd 0 256 0, .valveFrame 4, .diFilterChange 65536, .doFault 16 false,
   .tbRateWrite 4 0, .tbSet 4, .tbStep 4, .cmpFire 8, .ethRxFrame 2 false [], .ethTxDone 2, .ethTxtsPop 2, .tb1SyncRx 8,
   .tb1DelayReqRx 8, .tb1DelayRespRx 8, .sqDoorbell 64 0, .cqHeadDoorbell 64 0, .rrHeadDoorbell 16 0, .sqEnable 64 0,
   .sqRestart 64, .sqReset 64 none, .sqResetDone 64, .cqEnable 64 0, .rrEnable 16 0, .descriptorFetch 64 false,
   .completionWrite 64, .recipeLoad 64, .recipeCommit 64, .recipeDisarm 64, .recipeDrop 64, .jobRun 64 {}, .jobCancel 64,
   .textSample 64, .copy 64 0 [] {} {}, .copy 0 4 [] {} {}, .fill 64 {}, .ethTx 64] : List Instr).all (fun i => !i.wf) = true := by
  decide +kernel

theorem test_illFormed3 : ([.ethRxPost 64, .imagePiece 64 false, .powerTol 64, .partitionSet 64, .updateBegin 64 false, .updateAbort 64 false,
   .updateActivate 64 false, .updateConfirm 64 false, .updateRevert 64 false, .recoveryWrite 64 false,
   .settingsSave 64 false, .settingsRead 64 false, .settingsWrite 64 false, .settingsErase 64 false, .certGet 64 false,
   .pubkeyGet 64, .quote 64, .resultRecordPublish 16, .msixVectorTimer 64, .msixUnmask 64, .sliceBoundary 9,
   .contextSaveDone 0 8 [] [], .contextRestoreDone 0 8 [] [], .oxbowGranuleLand 0 64 0 0 (List.replicate 64 0),
   .oxbowGranuleLand 0 0 0 16 (List.replicate 64 0), .oxbowGranuleLand 0 0 0 0 [], .oxbowDrainDone 0 8, .servingStepEnd 9,
   .servingPoll 9, .srvEnable 9 0, .hdwDecodeDone 64 false, .hdwBatchFree 64, .counterConfigWrite 2 0, .traceRecord 10,
   .traceWrite 10, .iflEventSend 8, .selfTestDone [72] [], .selfTestDone [] [8], .fldLoadRun [], .dbgCmd 256 0,
   .dbgCmd 0 (2 ^ 32), .dbgAddr (2 ^ 64), .dbgData (2 ^ 512), .clusterSleepEntry 8 0, .clusterSleepEntry 0 4,
   .clusterWake 8, .clusterWakeDone 8, .thermalSample 256 0 0 0 0 0, .thermalSample 0 256 0 0 0 0,
   .thermalSample 0 0 256 0 0 0, .thermalSample 0 0 0 256 0 0, .thermalSample 0 0 0 0 256 0, .thermalSample 0 0 0 0 0 256,
   .avsVoltageWrite 2 0 false, .avsCurrentRead 2 0 0 false, .avsCurrentRead 0 3 0 false, .wedgeDetect 8,
   .laneCdrLockChange 48 false false 0 0 0, .ethLinkChange 2 false false, .encOpenClear 4 0] : List Instr).all (fun i => !i.wf) = true := by
  decide +kernel

theorem test_illFormed4 : ([.encOpenClear 0 3, .bridgedCountStep 4 0, .strobePulseStart 4, .outputFaultEnd 16, .stackTrainingFail 2] : List Instr).all (fun i => !i.wf) = true := by
  decide +kernel

theorem test_wellFormed : ([.registerWrite 0x40 0, .mma 63 {}, .resetPower [(0, [1])]] : List Instr).all (fun i => i.wf) = true := by decide +kernel

/-- The reset state with fields of host registers set. -/
def st (l : List (RF × Nat)) : State := { State.reset with host := l.foldl (fun h x => h.set x.1 x.2) State.reset.host }
def hx (f : HostSide → HostSide) (s : State) : State := { s with host := f s.host }
def fx (f : FieldDie → FieldDie) (s : State) : State := { s with field := f s.field }
def fst (l : List (RF × Nat)) (s : State) : State := { s with field := l.foldl (fun h x => h.set x.1 x.2) s.field }
/-- Bytes of the flash from an address on. -/
def cellsAt : Nat → List Byte → Flash
  | _, [] => []
  | a, b :: t => (a, b) :: cellsAt (a + 1) t
def ctlCells (c : SlotCtl) : Flash := cellsAt 0 c.bytes
def dsc (n : Nat) : Started := { desc := toLE 64 n }
def partCells : Flash :=
  [(40, 1#8), (41, 0#8), (64, 3#8), (68, 0#8), (69, 32#8), (70, 0#8), (71, 0#8), (72, 4#8), (73, 0#8), (74, 0#8), (75, 0#8)].map
    fun (x : Nat × Byte) => (0x2900000 + x.1, x.2)
theorem certChain_length (f : Flash) : (certChain f).length = 10522 + Config.certLen.val := fRead_length _ _ _

/-! ### Values that the spec writes out -/

/-- The first table of the worked example of "Vector operations": 300.0 in five formats. -/
theorem test_convert_300 : [6, 7, 8, 9, 2].map (fun f => (convert f (.f (num32 0x43960000))).1) = [0x79, 0x5D, 0x5CB0, 0x4396, 0x7F] := by
  decide +kernel
theorem test_convert_500 : [6, 7, 8, 9, 2].map (fun f => convert f (.f (num32 0x43FA0000)))
    = [(0x7E, { sat := true }), (0x60, {}), (0x5FD0, {}), (0x43FA, {}), (0x7F, { sat := true })] := by decide +kernel
theorem test_convert_third_and_minus :
    [6, 7, 8, 9, 2].map (fun f => (convert f (.f (num32 0x3EAAAAAB))).1) = [0x2B, 0x35, 0x3555, 0x3EAB, 0]
    ∧ [6, 7, 8, 9, 2].map (fun f => (convert f (.f (num32 0xC0200000))).1) = [0xC2, 0xC1, 0xC100, 0xC020, 0xFE] := by decide +kernel
theorem test_convert_inf_and_nan :
    [6, 7, 8, 9, 2].map (fun f => (convert f (.f (num32 0x7F800000))).1) = [0x7E, 0x7C, 0x7C00, 0x7F80, 0x7F]
    ∧ [6, 7, 8, 9, 2].map (fun f => (convert f (.f (num32 0x7FC00000))).1) = [0x7F, 0x7E, 0x7E00, 0x7FC0, 0] := by decide +kernel
/-- The BFP4 block of the same example: 5.0, -12.0, 0.75, 3.0 and zeros. -/
theorem test_bfp4_block :
    (encodeRun 11 (([0x40A00000, 0xC1400000, 0x3F400000, 0x40400000] ++ List.replicate 28 0).map fun w => .f (num32 w))).1
      = [0x83#8, 0xA2#8, 0x20#8] ++ List.replicate 14 0#8 := by decide +kernel
/-- The worked example of Riffle: one block in both modes. -/
theorem test_riffle_block :
    (rifBlock 1 ([12, -3, 40, 7, -25, 0, 63, -64] ++ List.replicate 24 0)) = (0x04#8, [1#8, 2#8, 0x0E#8, 0xC4#8] ++ List.replicate 12 0#8)
    ∧ (rifBlock 2 ([12, -3, 40, 7, -25, 0, 63, -64] ++ List.replicate 24 0)) = (0x06#8, [0x10#8, 0xD0#8] ++ List.replicate 6 0#8) := by
  decide +kernel
/-- The check values of R71 and R271. -/
theorem test_crc32c : crc32c (asciiOf "123456789") = 0xE3069283#32 := by decide +kernel
theorem test_crc8 : (asciiOf "123456789").foldl (fun c b => crc8Byte c b.toNat) 0 = 0xF4 := by decide +kernel
/-- The gains of the 1 kHz bandwidth, from the example of the belt encoder. -/
theorem test_gains : gainsOf 1000 = ((39530, 21), (63584, 29), (34092, 37)) := by decide +kernel
/-- The example of the slewed time base: 500,000,000 ticks at rate 4,295. -/
theorem test_slewed :
    tbNs ((({ State.reset.host with tbs := [(0, { a := 0, v := 0 })] }).set (Reg.TB_RATE 0) 4295).tbAt 0 500000000) = 1000001000 := by
  decide +kernel
/-- FIPS 202: SHA3-256 of the empty message begins A7 FF C6 F8. -/
theorem test_sha3 : (sha3 []).take 4 = [0xA7#8, 0xFF#8, 0xC6#8, 0xF8#8] := by decide +kernel
/-- The worked example of Headwater: the byte at offset 5 begins an invalid sequence; the text before it is valid. -/
theorem test_utf8 : utf8Bad 7 0 [0x62#8, 0x6C#8, 0x61#8, 0x63#8, 0x6B#8, 0xC3#8, 0x28#8] = some 5
    ∧ utf8Bad 4 0 [0x73#8, 0x20#8, 0xC3#8, 0xA9#8] = none := by decide +kernel

/-! ### One command each -/

/-- The state a command answers; the reset state where it answers none. -/
def nextOf : Host.Outcome State Fault Refusal → State
  | .next t => t
  | _ => State.reset

/-- The belt encoder of the worked example: P follows Q with one count of hysteresis (R247). -/
theorem test_belt :
    [[21001], [21001, 21000], [21001, 21000, 20999], [21001, 21000, 20999, 20998]].map
      (fun qs => (qs.foldl (fun d q => d.follow 0 q) (State.reset.field.setPos 0 21000)).pos 0) = [21001, 21001, 21000, 20999] := by
  decide +kernel
theorem test_scratch : (nextOf (exec (.registerWrite 0x40 0xCAFE#32) (st [(Reg.DEV_STATUS.READY, 1)]))).host.word 0x40 = 0xCAFE#32 := by
  decide +kernel
theorem test_write_before_ready : (nextOf (exec (.registerWrite 0x40 0xCAFE#32) (st []))).host.word 0x40 = 0#32 := by decide +kernel
theorem test_step_runs_the_front :
    (nextOf (step { st [(Reg.DEV_STATUS.READY, 1)] with pending := [.registerWrite 0x40 7#32, .nop 0] })).pending = [.nop 0] := by
  decide +kernel
theorem test_idle_step : (nextOf (step State.reset)).tick = 1#64 := by decide +kernel

/-! ### States that meet the hypotheses of the statements -/

/-- A dictionary memory whose entries at the given places have LEN 0. -/
def zeroDict (l : List Nat) : SMap Byte := l.map fun i => (4 * i, 0#8)
theorem zeroDict_get (d : Nat → Byte) (l : List Nat) (k : Nat) (h : k ∈ l) : SMap.get d (zeroDict l) (4 * k) = 0#8 := by
  induction l with
  | nil => cases h
  | cons a t ih =>
    simp only [zeroDict, List.map_cons, SMap.get]
    split
    · rfl
    · rename_i hne
      rcases List.mem_cons.mp h with rfl | hm
      · exact absurd rfl hne
      · exact ih hm
theorem dictBad_zeroDict (h : HostSide) (n : Nat) (hn : 65536 ≤ n) (hd : h.hdw.dict = zeroDict (List.range n)) (hp : h.hdw.pool = []) :
    h.dictBad 0 = none := by
  have hw : ∀ i, i < 65536 → entryLen (h.entryWord 0 i) = 0 := by
    intro i hi
    have hb : h.dictByte (4 * i) = 0#8 := by
      simp only [HostSide.dictByte, hd]
      exact zeroDict_get _ _ _ (List.mem_range.mpr (Nat.lt_of_lt_of_le hi hn))
    simp only [entryLen, HostSide.entryWord, HostSide.dictBytes, show List.range 4 = [0, 1, 2, 3] from rfl, List.map_cons, leNat,
      Nat.zero_mul, Nat.zero_add, Nat.add_zero, hb]
    have hz : (0#8 : Byte).toNat = 0 := rfl
    omega
  have hn : (((List.range 65280).map fun i => (i + 256, h.entryWord 0 (i + 256))).filter fun x => entryLen x.2 != 0) = [] := by
    rw [List.filter_eq_nil_iff]
    intro x hx
    obtain ⟨i, hi, rfl⟩ := List.mem_map.mp hx
    have hlt := List.mem_range.mp hi
    simp [hw (i + 256) (by omega)]
  unfold HostSide.dictBad
  extract_lets pool ws used
  have hu : used = [] := hn
  have hq : pool = 0 := by simp [pool, hp, SMap.get]
  clear_value used pool
  subst hu hq
  rfl

theorem wit_StepInvariants : ∃ s t : State, step s = .next t ∧ s.settled ∧ s.weirBounded ∧ s.jobsOk :=
  ⟨State.reset, _, rfl, by decide +kernel⟩

theorem wit_WhatEachCommandMayTouch :
    (∃ c : Instr, ∃ s : State, c.plane = .data ∧ s.settled ∧ s.host.stopped = true)
    ∧ (∃ c : Instr, ∃ s : State, c.plane = .bar ∧ s.settled ∧ s.host.ready = false)
    ∧ (∃ c : Instr, ∃ s : State, (c.plane = .data ∨ c.plane = .bar ∨ c.plane = .host) ∧ s.host.down = true)
    ∧ (∃ c : Instr, ∃ s t : State, c.plane = .host ∧ (∀ q ff, c ≠ .settingsSave q ff) ∧ (∀ q, c ≠ .quote q) ∧ exec c s = .next t)
    ∧ (∃ c : Instr, ∃ s t : State, ∃ h : HostSide, c.plane = .field ∧ h.bar.port.locked = s.host.bar.port.locked ∧ exec c s = .next t) :=
  ⟨⟨.commitPointApply, st [(Reg.GSTOP_STATUS.STATE, 2)], by decide +kernel⟩, ⟨.registerWrite 0x40 1#32, State.reset, by decide +kernel⟩,
    ⟨.cxpRestart 0, { State.reset with host := { State.reset.host with down := true } }, by decide +kernel⟩,
    ⟨.cxpMasterLock 0, State.reset, _, rfl, fun _ _ h => Instr.noConfusion h, fun _ h => Instr.noConfusion h, rfl⟩,
    ⟨.outputFaultEnd 0, State.reset, _, { State.reset.host with bme := true }, rfl, rfl, rfl⟩⟩

theorem wit_ResetLeavesGaugeAndPartitions_cause :
    ∃ c : Instr, c = .resetPin ∨ c = .resetPerst ∨ c = .rootClockLost ∨ ∃ prog, c = .resetPower prog :=
  ⟨.resetPower [(0, [1#8])], .inr (.inr (.inr ⟨_, rfl⟩))⟩

/-- The field that the only row of an address gives meets the hypotheses about it. -/
theorem wit_field_alone (a : Nat) (r : RegRow) (h : regRows a = [r]) (hw : r.lo + r.w ≤ 32) :
    r ∈ regRows a ∧ r.lo + r.w ≤ 32 ∧ ∀ r' ∈ regRows a, r' = r ∨ r'.lo + r'.w ≤ r.lo ∨ r.lo + r.w ≤ r'.lo := by
  rw [h]
  exact ⟨List.mem_singleton.mpr rfl, hw, fun r' hr => .inl (List.mem_singleton.mp hr)⟩

theorem wit_RegisterAccesses_fields :
    (∃ r, regRows 0x40 = [r] ∧ r.lo + r.w ≤ 32 ∧ r.acc = .rw) ∧ (∃ r, regRows 0x81C = [r] ∧ r.lo + r.w ≤ 32 ∧ r.acc = .rc)
    ∧ (∃ r, regRows 0x824 = [r] ∧ r.lo + r.w ≤ 32 ∧ r.acc = .w1c)
    ∧ ∃ r ∈ regRows 0x30040, r.lo + r.w ≤ 32 ∧ (∀ r' ∈ regRows 0x30040, r' = r ∨ r'.lo + r'.w ≤ r.lo ∨ r.lo + r.w ≤ r'.lo) ∧ r.acc = .w1s :=
  ⟨⟨⟨0x40, [], 0, 32, .rw, 0x0, false⟩, by decide +kernel⟩, ⟨⟨0x81C, [], 0, 32, .rc, 0x0, false⟩, by decide +kernel⟩,
    ⟨⟨0x824, [], 0, 5, .w1c, 0x0, false⟩, by decide +kernel⟩, ⟨⟨0x30040, [], 1, 1, .w1s, 0x0, false⟩, by decide +kernel⟩⟩

theorem wit_DictionaryAndBatches_built_of (n : Nat) (hn : 65536 ≤ n) :
    ∃ s : State, ∃ b : Nat, s.up ∧ s.host.hdw.building = some b ∧ s.host.dictBad b = none :=
  ⟨hx (fun h => { h with hdw := { h.hdw with building := some 0, dict := zeroDict (List.range n), pool := [] } }) (st []), 0, rfl, rfl,
    dictBad_zeroDict _ n hn rfl rfl⟩

theorem wit_DictionaryAndBatches_built : ∃ s : State, ∃ b : Nat, s.up ∧ s.host.hdw.building = some b ∧ s.host.dictBad b = none :=
  wit_DictionaryAndBatches_built_of 65536 (Nat.le_refl _)

theorem wit_SettingsAndIdentity_chain :
    (∃ s : State, ∃ q : Nat, ∃ d : Started, s.mbox q d 0x30 ∧ d.fld 24 4 < (certChain s.host.mgmt.flash).length)
    ∧ (∃ s : State, ∃ q : Nat, ∃ d : Started, s.mbox q d 0x30 ∧ (certChain s.host.mgmt.flash).length ≤ d.fld 24 4 ∧ s.host.bme = true)
    ∧ (∃ s : State, ∃ q : Nat, ∃ d : Started, s.mbox q d 0x32 ∧ 4096 ≤ d.fld 24 4 ∧ s.host.on Reg.MGMT_STATUS.IDENT_OK = true
      ∧ s.host.bme = true ∧ d.fld 12 4 = 32)
    ∧ (∃ s : State, ∃ q idx : Nat, ∃ m : List Byte, ∃ d : Started, s.up ∧ s.host.mgmt.quote = some (q, idx, m)
      ∧ (s.host.mgmt.quoteSigns = true ∨ (s.host.signing = false ∧ ∀ n, n < 16 → s.host.sealDue s.env n = false ∨ s.host.sealFull n = true))
      ∧ s.host.bme = true ∧ (s.host.started q).find? (fun d => d.idx == idx) = some d ∧ d.fin = none ∧ m.length = 512) :=
  ⟨⟨hx (fun h => h.setStarted 5 [dsc 0x20000000000000000000000000000000000000000000000000300000000000004001]) (st []), 5,
      dsc 0x20000000000000000000000000000000000000000000000000300000000000004001, by decide +kernel,
      by rw [certChain_length, show (dsc 0x20000000000000000000000000000000000000000000000000300000000000004001).fld 24 4 = 0 by decide +kernel]
         omega⟩,
    ⟨hx (fun h => { (h.setStarted 5 [dsc 0x20000000000000004000000000000000000000000000000000300000000000004001]) with bme := true }) (st []), 5,
      dsc 0x20000000000000004000000000000000000000000000000000300000000000004001, by decide +kernel,
      by have := Config.certLen.isLt
         rw [certChain_length, show (dsc 0x20000000000000004000000000000000000000000000000000300000000000004001).fld 24 4 = 16384 by decide +kernel]
         omega, rfl⟩,
    ⟨hx (fun h => { (h.setStarted 5 [dsc 0x20000000000000001000000000000000100000000020000000320000000000004001]) with bme := true })
      (st [(Reg.MGMT_STATUS.IDENT_OK, 1)]), 5, dsc 0x20000000000000001000000000000000100000000020000000320000000000004001, by decide +kernel⟩,
    ⟨hx (fun h => { (h.setStarted 5 [dsc 0x20000000000000001000000000000000100000000020000000320000000000004001]) with
      bme := true, mgmt := { h.mgmt with quote := some (5, 0, List.replicate 512 7#8) } }) (st []), 5, 0, List.replicate 512 7#8,
      dsc 0x20000000000000001000000000000000100000000020000000320000000000004001, by decide +kernel⟩⟩

/-- A flash whose device certificate names a key. -/
def keyFlash (bs : List Byte) : Flash := fWrite [] (0x10000 + Config.certAt.val + Config.certKeyAt.val) bs
theorem certKey_put (bs : List Byte) : certKey (keyFlash bs) bs.length = bs := by
  have h := fRead_of_bytes (keyFlash bs)
    (0x10000 + Config.certAt.val + Config.certKeyAt.val) bs (fun i hi => by rw [keyFlash, fByte_fWrite, if_pos (by omega), Nat.add_sub_cancel_left]) 0 bs.length (by omega)
  rw [Nat.add_zero, List.drop_zero, List.take_length] at h
  exact h

/-- A device that has reconstructed a secret, and its flash. -/
def idState (r : BitVec 256) (f : Flash) : State :=
  hx (fun h => { h with mgmt := { h.mgmt with root := some r, flash := f } }) (st [(Reg.CLK_BOOT_STAGE, 1)])
theorem idState_flash (r : BitVec 256) (f : Flash) : (idState r f).host.mgmt.flash = f := rfl

/-- A device whose certificate names the key that its secret gives. -/
theorem wit_SettingsAndIdentity_identified :
    ∃ s : State, ∃ r, s.up ∧ s.host.mgmt.running = none
      ∧ (s.host.get Reg.CLK_BOOT_STAGE = 1 ∨ s.host.get Reg.CLK_BOOT_STAGE = 2) ∧ s.host.mgmt.root = some r
      ∧ identityKey r = certKey s.host.mgmt.flash (identityKey r).length :=
  ⟨idState 5#256 (keyFlash (identityKey 5#256)), 5#256, by decide +kernel, rfl, by decide +kernel, rfl,
    by rw [idState_flash, certKey_put]⟩

/-- A mailbox command that waits, its input of 8 bytes in host memory, and a flash. -/
def boxState (f : Flash) (d v : Nat) : State :=
  hx (fun h => { (h.setStarted 5 [dsc d]) with bme := true, mem := Mem.setBytes [] 0x1000 (toLE 8 v), mgmt := { h.mgmt with flash := f } }) (st [])

theorem boxState_settings (f : Flash) (d v : Nat) : (boxState f d v).host.settings = settingsOf f := rfl

theorem ofFmt1_length_le (id : Nat) (fmt : BitVec 16) (bs : List Byte) (h : bs.length ≤ 0x1000000 - 20) :
    (ofFmt1 id fmt bs).length ≤ 0x1000000 - 20 := by
  unfold ofFmt1
  split
  · exact h
  · rw [List.length_take]; exact Nat.min_le_left _ _

theorem settingsFull_one (x : Setting) (h : x.data.length ≤ 0x1000000 - 20) : settingsFull (putSetting [] x) = false := by
  have e : putSetting [] x = [x] := rfl
  rw [e, settingsFull, List.map_singleton, List.sum_singleton]
  exact decide_eq_false (by omega)

theorem wit_SettingsAndIdentity_save :
    ∃ s : State, ∃ q id ctx : Nat, ∃ d : Started, ∃ x : Setting, ∃ flats : List Nat, s.mbox q d 0x20 ∧ s.host.bme = true
      ∧ settingKey (s.host.mboxIn d) = (id, ctx) ∧ 1 ≤ id ∧ id ≤ 3 ∧ (id = 3 → ctx < s.variant.ctxs)
      ∧ x = ⟨id, ctx, s.host.ownFmt id, s.host.inTrial, ofFmt1 id (s.host.ownFmt id) (settingData s.host s.field id ctx)⟩
      ∧ flats = ((s.host.settings.filter fun y => y.id == 3 && y.ctx != ctx).map (·.ctx)).dedup
      ∧ settingsFull (putSetting s.host.settings x) = false ∧ (id = 3 → flats.length < 16) :=
  ⟨boxState [] 0x20000000000000000000000000000000100000000008000000200000000000004001 2, 5, 2, 0,
    dsc 0x20000000000000000000000000000000100000000008000000200000000000004001, _, _, by decide +kernel, rfl, by decide +kernel,
    by decide, by decide, by decide, rfl, rfl, settingsFull_one _ (ofFmt1_length_le _ _ _ (by decide +kernel)), by decide⟩

/-- A host record, and as many of it as fill the settings area. -/
def fillRec : Setting := { id := 0x180, data := List.replicate 4076 0#8 }
theorem fillRec_length : fillRec.data.length = 4076 := List.length_replicate
theorem settingsOf_fill : settingsOf (settingsPut [] (List.replicate 4096 fillRec)) = List.replicate 4096 fillRec := by
  apply settingsOf_put
  · intro x hx
    rw [List.eq_of_mem_replicate hx]
    exact ⟨by decide, by decide, by rw [fillRec_length]; decide⟩
  · rw [settingsFull, List.map_replicate, List.sum_replicate, fillRec_length]; decide
theorem settingsFull_fill (x : Setting) (h : x.id ≠ 0x180) : settingsFull (putSetting (List.replicate 4096 fillRec) x) = true := by
  have e : putSetting (List.replicate 4096 fillRec) x = List.replicate 4096 fillRec ++ [x] := by
    unfold putSetting
    rw [List.filter_eq_self.mpr]
    intro y hy
    rw [List.eq_of_mem_replicate hy]
    have : (fillRec.id == x.id) = false := beq_eq_false_iff_ne.mpr fun h' => h h'.symm
    simp [this]
  rw [e, settingsFull, List.map_append, List.sum_append, List.map_replicate, List.sum_replicate, fillRec_length, List.map_singleton,
    List.sum_singleton]
  exact decide_eq_true (by simp only [smul_eq_mul]; omega)

theorem wit_SettingsAndIdentity_full :
    ∃ s : State, ∃ q id : Nat, ∃ d : Started, ∃ x : Setting, s.mbox q d 0x22 ∧ s.host.bme = true
      ∧ id = leNat ((s.host.mboxIn d).take 2) ∧ 0x100 ≤ id ∧ id ≤ 0x1FF
      ∧ x = { id := id, fmt := s.host.ownFmt id, data := (s.host.mboxIn d).drop 2 } ∧ settingsFull (putSetting s.host.settings x) = true :=
  ⟨boxState (settingsPut [] (List.replicate 4096 fillRec)) 0x20000000000000000000000000000000100000000008000000220000000000004001 0x101, 5,
    0x101, dsc 0x20000000000000000000000000000000100000000008000000220000000000004001, _, by decide +kernel, rfl, by decide +kernel,
    by decide, by decide, rfl, by
      rw [boxState_settings, settingsOf_fill]
      exact settingsFull_fill _ (by decide)⟩

theorem wit_TextSamples_longest (h : HostSide) (b : Nat) (x : Byte) (rest : List Byte) :
    ∃ tok n : Nat, h.longest (some b) (x :: rest) = (tok, n) :=
  ⟨_, _, (Prod.eta _).symm⟩

theorem wit_TextSamples_covers :
    ∃ h : HostSide, ∃ b tok n : Nat, ∃ x : Byte, ∃ rest : List Byte, ∃ i : Nat, h.longest (some b) (x :: rest) = (tok, n) ∧ 256 ≤ i ∧ i < 65536
      ∧ entryLen (h.entryWord b i) ≤ 48 ∧ entryLen (h.entryWord b i) ≤ rest.length + 1
      ∧ h.entryStr b (h.entryWord b i) = (x :: rest).take (entryLen (h.entryWord b i)) :=
  ⟨{ hdw := { dict := [(1024, 2#8), (1025, 0#8), (1026, 0#8), (1027, 0#8), (0x40000, 97#8), (0x40001, 98#8)] } }, 0, _, _, 97#8, [98#8, 99#8],
    256, (Prod.eta _).symm, by decide +kernel⟩

theorem wit_FirmwareDelivery_badPart :
    ∃ s : State, ∃ q : Nat, ∃ d : Started, ∃ c : SlotCtl, ∃ n : Nat, ∃ p, s.mbox q d 0x12 ∧ c = s.host.ctl ∧ n = c.idle ∧ 4 ≤ d.fld 24 4
      ∧ c.state n = 2 ∧ s.host.bme = true ∧ partFailing s.host.mgmt.flash n = some p :=
  ⟨hx (fun h => { (h.setStarted 5 [dsc 0x20000000000000000004000000000000000000000000000000120000000000004001]) with
    bme := true, mgmt := { h.mgmt with flash := ctlCells { stateB := 2 } ++ partCells } }) (st []), 5,
    dsc 0x20000000000000000004000000000000000000000000000000120000000000004001, _, 1,
    (3, 0x2000, 4, List.replicate 32 255#8), by decide +kernel, rfl,
    by decide +kernel,
    by decide +kernel,
    by decide +kernel, rfl,
    by decide +kernel⟩

theorem wit_StepTakesTheFront :
    ∃ s : State, ∃ i : Nat, s.pending = [] ∧ s.up ∧ s.host.stopped = true ∧ i < 256 ∧ s.host.regs.counting 0x601000 0x602000 0x60
    none = [i] ∧ s.host.get2 (Reg.GCNT_VALUE_LO i) (Reg.GCNT_VALUE_HI i) + 2 < 2 ^ 48 :=
  ⟨(st [(Reg.GSTOP_STATUS.STATE, 2), ((Reg.GCNT_CFG.EVENT 0), 0x60), (Reg.GSTOP_STATUS.STATE, 2)]), (0 : Nat), by decide +kernel⟩

theorem wit_ResetState :
    ∃ k, k < 8 :=
  ⟨(0 : Nat), by decide +kernel⟩

theorem wit_ResetLeavesGaugeAndPartitions :
    (∃ s : State, s.up ∧ s.host.on Reg.CLK_WDOG.EN = true)
    ∧ (∃ s : State, ∃ v : Word, s.open_ ∧ v.getLsbD 0 = true ∧ v.toNat / 2 ^ 16 = 0x4B37) :=
  ⟨⟨(st [(Reg.CLK_WDOG.EN, 1)]), by decide +kernel⟩,
    ⟨(st [(Reg.DEV_STATUS.READY, 1)]), (0x4B370001#32 : Word), by decide +kernel⟩⟩

theorem wit_RegisterAccesses :
    (∃ s : State, s.open_)
    ∧ (∃ s : State, ∃ a : Nat, s.up ∧ s.host.ready = false ∧ 0x20 ≤ a) :=
  ⟨⟨(st [(Reg.DEV_STATUS.READY, 1)]), by decide +kernel⟩,
    ⟨(st []), (0x20 : Nat), by decide +kernel⟩⟩

theorem wit_LaneInjectionAndChecker :
    (∃ s : State, ∃ l : Nat, s.open_ ∧ l < s.variant.lanes ∧ chainLane l = true ∧ s.host.get (Reg.LANE_INJ.RATE l) = 0)
    ∧ (∃ s : State, ∃ l : Nat, s.open_ ∧ s.settled ∧ s.host.get (Reg.LANE_INJ.RATE l) ≠ 0)
    ∧ (∃ s : State, ∃ l : Nat, s.up ∧ l < s.variant.lanes ∧ s.host.get (Reg.LANE_INJ.RATE l) ≠ 0 ∧ s.host.on (Reg.LANE_CTRL.EN l) = true)
    ∧ (∃ s : State, ∃ l : Nat, ∃ bits : Nat, ∃ wire : List Bool, s.up ∧ l < s.variant.lanes ∧ s.host.on (Reg.LANE_PRBS.CHK_EN l) = true
    ∧ s.host.on (Reg.LANE_CTRL.EN l) = true ∧ 64 ≤ wire.length ∧ prbsPiece (s.host.get (Reg.LANE_PRBS.PAT l))
    ((((s.host.laneCount l bits 0).heard l wire).drop (wire.length - 64)).map fun b => b != s.host.on (Reg.LANE_PRBS.INV l)) =
    true)
    ∧ (∃ pat : Nat, ∃ st : Nat, ∃ n : Nat, 0 < st ∧ st < 2 ^ (prbsTaps pat).1 ∧ 64 ≤ n)
    ∧ (∃ s : State, ∃ l : Nat, ∃ bits : Nat, ∃ errs : Nat, ∃ wire : List Bool, ∃ got : List Bool, ∃ st : Nat, got = ((s.host.laneCount l
    bits errs).heard l wire).map (fun b => b != s.host.on (Reg.LANE_PRBS.INV l)) ∧ st = prbsSkip (s.host.get (Reg.LANE_PRBS.PAT
    l)) bits (s.host.lane l).chk ∧ s.up ∧ l < s.variant.lanes ∧ s.host.get (Reg.LANE_STATUS.PRBS_LOCK l) = 1 ∧ 32 ≤ prbsErrors
    (s.host.get (Reg.LANE_PRBS.PAT l)) (prbsSkip (s.host.get (Reg.LANE_PRBS.PAT l)) (wire.length - 1024) st) (got.drop
    (wire.length - 1024)))
    ∧ (∃ s : State, ∃ l : Nat, ∃ peak : Nat, s.up ∧ l < s.variant.lanes ∧ s.host.on (Reg.LANE_EQ.EQ_OVR l) = true ∧ s.host.on
    (Reg.LANE_STATUS.CDR_LOCK l) = false ∧ (s.host.lane l).adapting = false ∧ peak < 16)
    ∧ (∃ s : State, ∃ l : Nat, ∃ peak : Nat, s.up ∧ l < s.variant.lanes ∧ s.host.on (Reg.LANE_CTRL.EN l) = true ∧ peak < 16)
    ∧ (∃ s : State, ∃ l : Nat, s.up ∧ l < s.variant.lanes ∧ s.host.on (Reg.LANE_CTRL.EN l) = false) :=
  ⟨⟨(st [(Reg.DEV_STATUS.READY, 1), ((Reg.LANE_INJ.RATE (16 : Nat)), 0)]), (16 : Nat), by decide +kernel⟩,
    ⟨(st [(Reg.DEV_STATUS.READY, 1), ((Reg.LANE_INJ.RATE (0 : Nat)), 1)]), (0 : Nat), by decide +kernel⟩,
    ⟨(st [((Reg.LANE_INJ.RATE (16 : Nat)), 1), ((Reg.LANE_CTRL.EN (16 : Nat)), 1)]), (16 : Nat), by decide +kernel⟩,
    ⟨(st [((Reg.LANE_PRBS.CHK_EN (0 : Nat)), 1), ((Reg.LANE_CTRL.EN (0 : Nat)), 1), (Reg.LANE_PRBS.PAT (0 : Nat), 1)]), (0 : Nat), (0 : Nat), ((prbsBits 1 200 5).1 : List Bool), by decide +kernel⟩,
    ⟨(1 : Nat), (7 : Nat), (70 : Nat), by decide +kernel⟩,
    ⟨(hx (fun h => h.setLane (0 : Nat) { h.lane (0 : Nat) with chk := 5 }) (st [((Reg.LANE_STATUS.PRBS_LOCK (0 : Nat)), 1), (Reg.LANE_PRBS.CHK_EN (0 : Nat), 1), (Reg.LANE_CTRL.EN (0 : Nat), 1)])), (0 : Nat), (1000 : Nat), (3 : Nat), ((List.replicate 128 true) : List Bool), _, _, rfl, rfl, by decide +kernel⟩,
    ⟨(hx (fun h => { h with lanes := h.lanes.put (0 : Nat) { h.lane (0 : Nat) with adapting := (false) } }) (st [((Reg.LANE_EQ.EQ_OVR (0 : Nat)), 1), ((Reg.LANE_STATUS.CDR_LOCK (0 : Nat)), 0)])), (0 : Nat), (0 : Nat), by decide +kernel⟩,
    ⟨(st [((Reg.LANE_CTRL.EN (0 : Nat)), 1)]), (0 : Nat), (3 : Nat), by decide +kernel⟩,
    ⟨(st [((Reg.LANE_CTRL.EN (0 : Nat)), 0)]), (0 : Nat), by decide +kernel⟩⟩

theorem wit_CameraLinkStates :
    (∃ s : State, ∃ n : Nat, ∃ v : Word, s.open_ ∧ n < s.variant.links ∧ v.getLsbD 0 = true ∧ s.host.linkState n = 0 ∧ s.host.on
    (Reg.CXP_STATE.LANES_TAKEN n) = false)
    ∧ (∃ s : State, ∃ n : Nat, ∃ v : Word, s.open_ ∧ n < s.variant.links ∧ v.getLsbD 0 = false ∧ s.host.linkState n ≠ 0)
    ∧ (∃ s : State, ∃ n : Nat, s.up ∧ n < s.variant.links ∧ s.host.linkState n = 1)
    ∧ (∃ s : State, ∃ n : Nat, s.up ∧ n < s.variant.links ∧ s.host.linkState n = 2 ∧ 2 ≤ (s.host.link n).fails)
    ∧ (∃ s : State, ∃ n : Nat, s.up ∧ n < s.variant.links ∧ s.host.linkState n = 2 ∧ (s.host.link n).fails < 2)
    ∧ (∃ s : State, ∃ n : Nat, s.up ∧ n < s.variant.links ∧ s.host.linkState n = 3)
    ∧ (∃ s : State, ∃ n : Nat, s.up ∧ n < s.variant.links ∧ s.host.linkState n = 4 ∧ (s.host.link n).speed ≤ 1)
    ∧ (∃ s : State, ∃ n : Nat, s.up ∧ n < s.variant.links ∧ s.host.linkState n = 4 ∧ 1 < (s.host.link n).speed)
    ∧ (∃ s : State, ∃ n : Nat, s.up ∧ n < s.variant.links ∧ s.host.linkState n = 5)
    ∧ (∃ s : State, ∃ n : Nat, s.up ∧ n < s.variant.links ∧ s.host.linkState n ≠ 0)
    ∧ (∃ s : State, ∃ n : Nat, s.open_ ∧ n < s.variant.links ∧ s.host.linkState n = 6)
    ∧ (∃ s : State, ∃ n : Nat, ∃ v : Word, s.open_ ∧ n + 1 < s.variant.links ∧ n % 2 = 0 ∧ s.host.linkState n ≠ 0 ∧ s.host.linkState (n
    + 1) = 0 ∧ s.host.on (Reg.CXP_CTRL.EN (n + 1)) = true ∧ s.host.get (Reg.CXP_STATE.LANES_TAKEN (n + 1)) = 1 ∧ v.getLsbD 0 =
    false)
    ∧ (∃ s : State, ∃ n : Nat, ∃ v : Word, s.open_ ∧ n + 1 < s.variant.links ∧ n % 2 = 0 ∧ s.host.linkState n ≠ 0 ∧ s.host.linkState (n
    + 1) = 0 ∧ s.host.on (Reg.CXP_CTRL.EN (n + 1)) = true ∧ s.host.get (Reg.CXP_STATE.LANES_TAKEN (n + 1)) = 1 ∧ v.getLsbD 0 =
    true ∧ v.toNat / 4 % 4 < 2) :=
  ⟨⟨(st [(Reg.DEV_STATUS.READY, 1), (Reg.CXP_STATE.STATE (0 : Nat), 0), ((Reg.CXP_STATE.LANES_TAKEN (0 : Nat)), 0)]), (0 : Nat), (1#32 : Word), by decide +kernel⟩,
    ⟨(st [(Reg.DEV_STATUS.READY, 1), (Reg.CXP_STATE.STATE (0 : Nat), 1)]), (0 : Nat), (0#32 : Word), by decide +kernel⟩,
    ⟨(st [(Reg.CXP_STATE.STATE (0 : Nat), 1)]), (0 : Nat), by decide +kernel⟩,
    ⟨(hx (fun h => { h with links := h.links.put (0 : Nat) { h.link (0 : Nat) with fails := (2) } }) (st [(Reg.CXP_STATE.STATE (0 : Nat), 2)])), (0 : Nat), by decide +kernel⟩,
    ⟨(st [(Reg.CXP_STATE.STATE (0 : Nat), 2)]), (0 : Nat), by decide +kernel⟩,
    ⟨(st [(Reg.CXP_STATE.STATE (0 : Nat), 3)]), (0 : Nat), by decide +kernel⟩,
    ⟨(st [(Reg.CXP_STATE.STATE (0 : Nat), 4)]), (0 : Nat), by decide +kernel⟩,
    ⟨(hx (fun h => { h with links := h.links.put (0 : Nat) { h.link (0 : Nat) with speed := ((1 + 1)) } }) (st [(Reg.CXP_STATE.STATE (0 : Nat), 4)])), (0 : Nat), by decide +kernel⟩,
    ⟨(st [(Reg.CXP_STATE.STATE (0 : Nat), 5)]), (0 : Nat), by decide +kernel⟩,
    ⟨(st [(Reg.CXP_STATE.STATE (0 : Nat), 1)]), (0 : Nat), by decide +kernel⟩,
    ⟨(st [(Reg.DEV_STATUS.READY, 1), (Reg.CXP_STATE.STATE (0 : Nat), 6)]), (0 : Nat), by decide +kernel⟩,
    ⟨(st [(Reg.DEV_STATUS.READY, 1), (Reg.CXP_STATE.STATE (0 : Nat), 1), (Reg.CXP_STATE.STATE ((0 : Nat) + 1), 0), ((Reg.CXP_CTRL.EN ((0 : Nat) + 1)), 1), ((Reg.CXP_STATE.LANES_TAKEN ((0 : Nat) + 1)), 1)]), (0 : Nat), (0#32 : Word), by decide +kernel⟩,
    ⟨(st [(Reg.DEV_STATUS.READY, 1), (Reg.CXP_STATE.STATE (0 : Nat), 1), (Reg.CXP_STATE.STATE ((0 : Nat) + 1), 0), ((Reg.CXP_CTRL.EN ((0 : Nat) + 1)), 1), ((Reg.CXP_STATE.LANES_TAKEN ((0 : Nat) + 1)), 1)]), (0 : Nat), (1#32 : Word), by decide +kernel⟩⟩

theorem wit_CameraControlChannel :
    (∃ s : State, ∃ n : Nat, ∃ v : Word, s.open_ ∧ n < s.variant.links ∧ v.getLsbD 0 = true ∧ s.host.on (Reg.CXP_CC_STATUS.BUSY n) =
    false ∧ (s.host.link n).setWr = [] ∧ s.host.linkState n = 5)
    ∧ (∃ s : State, ∃ n : Nat, ∃ v : Word, s.open_ ∧ n < s.variant.links ∧ v.getLsbD 0 = true ∧ s.host.on (Reg.CXP_CC_STATUS.BUSY n) =
    false ∧ (s.host.link n).setWr = [] ∧ s.host.linkState n ≠ 5)
    ∧ (∃ s : State, ∃ n : Nat, ∃ v : Word, s.open_ ∧ n < s.variant.links ∧ v.getLsbD 0 = true ∧ s.host.on (Reg.CXP_CC_STATUS.BUSY n) =
    true)
    ∧ (∃ s : State, ∃ n : Nat, ∃ result : Nat, s.up ∧ n < s.variant.links ∧ result < 8 ∧ s.host.on (Reg.CXP_CC_STATUS.BUSY n) = true) :=
  ⟨⟨(hx (fun h => { h with links := h.links.put (0 : Nat) { h.link (0 : Nat) with setWr := ([]) } }) (st [(Reg.DEV_STATUS.READY, 1), ((Reg.CXP_CC_STATUS.BUSY (0 : Nat)), 0), (Reg.CXP_STATE.STATE (0 : Nat), 5)])), (0 : Nat), (1#32 : Word), by decide +kernel⟩,
    ⟨(hx (fun h => { h with links := h.links.put (0 : Nat) { h.link (0 : Nat) with setWr := ([]) } }) (st [(Reg.DEV_STATUS.READY, 1), ((Reg.CXP_CC_STATUS.BUSY (0 : Nat)), 0)])), (0 : Nat), (1#32 : Word), by decide +kernel⟩,
    ⟨(st [(Reg.DEV_STATUS.READY, 1), ((Reg.CXP_CC_STATUS.BUSY (0 : Nat)), 1)]), (0 : Nat), (1#32 : Word), by decide +kernel⟩,
    ⟨(st [((Reg.CXP_CC_STATUS.BUSY (0 : Nat)), 1)]), (0 : Nat), (0 : Nat), by decide +kernel⟩⟩

theorem wit_CameraStreamsAndEvents :
    (∃ s : State, ∃ n : Nat, ∃ id : Nat, ∃ fmt : Nat, ∃ x : Nat, fmt = s.host.act x (Reg.UNPACK x) ∧ s.up ∧ n < s.variant.links ∧
    s.host.linkState n = 5 ∧ s.host.mapOf n id = some x)
    ∧ (∃ s : State, ∃ n : Nat, ∃ id : Nat, ∃ fmt : Nat, s.up ∧ n < s.variant.links ∧ s.host.linkState n = 5 ∧ (∀ x, s.host.mapOf n id =
    some x → fmt ≠ s.host.act x (Reg.UNPACK x)))
    ∧ (∃ s : State, ∃ n : Nat, ∃ cam : Nat, s.up ∧ n < s.variant.links ∧ s.host.linkState n = 5 ∧ cam < 2 ^ 64)
    ∧ (∃ s : State, ∃ n : Nat, s.up ∧ n < s.variant.links ∧ s.host.linkState n = 5 ∧ (s.host.link n).events.length < 8)
    ∧ (∃ s : State, ∃ n : Nat, s.up ∧ n < s.variant.links ∧ s.host.linkState n = 5 ∧ 8 ≤ (s.host.link n).events.length)
    ∧ (∃ s : State, ∃ n : Nat, s.open_ ∧ n < s.variant.links ∧ (s.host.link n).events.length ≤ 8) :=
  ⟨⟨(st [(Reg.CXP_STATE.STATE (0 : Nat), 5), (Reg.CXP_MAP.VALID (0 : Nat) 0, 1)]), (0 : Nat), (0 : Nat), _, (0 : Nat), rfl, by decide +kernel⟩,
    ⟨(st [(Reg.CXP_STATE.STATE (0 : Nat), 5)]), (0 : Nat), (0 : Nat), (0 : Nat), by decide +kernel⟩,
    ⟨(st [(Reg.CXP_STATE.STATE (0 : Nat), 5)]), (0 : Nat), (0 : Nat), by decide +kernel⟩,
    ⟨(st [(Reg.CXP_STATE.STATE (0 : Nat), 5)]), (0 : Nat), by decide +kernel⟩,
    ⟨(hx (fun h => h.setLink (0 : Nat) { h.link (0 : Nat) with events := List.replicate 8 ([1],false) }) (st [(Reg.CXP_STATE.STATE (0 : Nat), 5)])), (0 : Nat), by decide +kernel⟩,
    ⟨(st [(Reg.DEV_STATUS.READY, 1)]), (0 : Nat), by decide +kernel⟩⟩

theorem wit_IfepenPortStates :
    (∃ s : State, ∃ p : Nat, ∃ v : Word, s.open_ ∧ p < s.variant.ports ∧ v.getLsbD 0 = true ∧ s.host.portState p = 0 ∧ (s.host.port
    p).txOn = true)
    ∧ (∃ s : State, ∃ p : Nat, ∃ v : Word, s.open_ ∧ p < s.variant.ports ∧ v.getLsbD 0 = false)
    ∧ (∃ s : State, ∃ p : Nat, s.open_ ∧ p < s.variant.ports ∧ s.host.portState p ≠ 0)
    ∧ (∃ s : State, ∃ p : Nat, s.up ∧ p < s.variant.ports ∧ (s.host.port p).txOn = false ∧ s.host.on (Reg.IFL_CTRL.EN p) = true)
    ∧ (∃ s : State, ∃ p : Nat, ∃ skew : Nat, ∃ wire : List Bool, s.up ∧ p < s.variant.ports ∧ s.host.portState p = 1 ∧ s.host.on
    (Reg.LANE_STATUS.CDR_LOCK (portLane p 0)) = true ∧ s.host.on (Reg.LANE_STATUS.CDR_LOCK (portLane p 1)) = true ∧ 2 ≤
    (s.host.port p).mk0 ∧ 3 ≤ (s.host.port p).mk1 ∧ s.host.lanePowered p 0 = true ∧ (s.host.looped p 0 = true ∨ (sext 6
    skew).natAbs ≤ 16) ∧ markerValid (s.markerIn p 0 wire) = true)
    ∧ (∃ s : State, ∃ p : Nat, ∃ skew : Nat, ∃ wire : List Bool, s.up ∧ p < s.variant.ports ∧ s.host.portState p = 1 ∧ s.host.on
    (Reg.LANE_STATUS.CDR_LOCK (portLane p 0)) = true ∧ s.host.on (Reg.LANE_STATUS.CDR_LOCK (portLane p 1)) = true ∧ 3 ≤
    (s.host.port p).mk0 ∧ 2 ≤ (s.host.port p).mk1 ∧ s.host.lanePowered p 1 = true ∧ (s.host.looped p 1 = true ∨ (sext 6
    skew).natAbs ≤ 16) ∧ markerValid (s.markerIn p 1 wire) = true)
    ∧ (∃ s : State, ∃ p : Nat, ∃ i : Nat, ∃ wire : List Bool, s.up ∧ p < s.variant.ports ∧ i < 2 ∧ s.host.portState p = 2 ∧
    s.host.lanePowered p i = true ∧ markerValid (s.markerIn p i wire) = true ∧ bit (s.markerIn p i wire) 0 = true ∧ (if i = 0
    then (s.host.port p).seen1 else (s.host.port p).seen0) = true)
    ∧ (∃ s : State, ∃ p : Nat, ∃ i : Nat, ∃ wire : List Bool, s.up ∧ p < s.variant.ports ∧ i < 2 ∧ s.host.portState p = 3 ∧
    s.host.lanePowered p i = true ∧ markerValid (s.markerIn p i wire) = true ∧ bit (s.markerIn p i wire) 0 = false)
    ∧ (∃ s : State, ∃ p : Nat, ∃ i : Nat, i < 2 ∧ s.host.looped p i = true ∧ s.host.hearsGen (portLane p i) = false ∧ (s.host.lane
    (portLane p i)).rxFlip = false ∧ (s.host.lane (portLane p i)).txFlip = false ∧ s.host.on (Reg.LANE_CTRL.TX_INV (portLane p
    i)) = s.host.on (Reg.LANE_CTRL.RX_INV (portLane p i)) ∧ SMap.get (fun _ => {}) (s.host.port p).run i = SMap.get (fun _ => {})
    (s.host.port p).txRun i ∧ (SMap.get (fun _ => {}) (s.host.port p).txRun i).len < 40) :=
  ⟨⟨(hx (fun h => { h with ports := h.ports.put (0 : Nat) { h.port (0 : Nat) with txOn := (true) } }) (st [(Reg.DEV_STATUS.READY, 1), (Reg.IFL_STATE.STATE (0 : Nat), 0)])), (0 : Nat), (1#32 : Word), by decide +kernel⟩,
    ⟨(st [(Reg.DEV_STATUS.READY, 1)]), (0 : Nat), (0#32 : Word), by decide +kernel⟩,
    ⟨(st [(Reg.DEV_STATUS.READY, 1), (Reg.IFL_STATE.STATE (0 : Nat), 1)]), (0 : Nat), by decide +kernel⟩,
    ⟨(hx (fun h => { h with ports := h.ports.put (0 : Nat) { h.port (0 : Nat) with txOn := (false) } }) (st [((Reg.IFL_CTRL.EN (0 : Nat)), 1)])), (0 : Nat), by decide +kernel⟩,
    ⟨(hx (fun h => h.setPort (1 : Nat) { h.port (1 : Nat) with mk0 := 2, mk1 := 3 }) (hx (fun h => { h with ports := h.ports.put (1 : Nat) { h.port (1 : Nat) with mk0 := (2), mk1 := (3) } }) (st [(Reg.IFL_STATE.STATE (1 : Nat), 1), ((Reg.LANE_STATUS.CDR_LOCK (portLane (1 : Nat) 0)), 1), ((Reg.LANE_STATUS.CDR_LOCK (portLane (1 : Nat) 1)), 1), (Reg.LANE_STATUS.CDR_LOCK (portLane (1 : Nat) 0), 1), (Reg.LANE_STATUS.CDR_LOCK (portLane (1 : Nat) 1), 1), (Reg.LANE_CTRL.EN (portLane (1 : Nat) 0), 1), (Reg.LANE_CTRL.EN (portLane (1 : Nat) 1), 1)]))), (1 : Nat), (0 : Nat), ((stuff {} (wordBits 64 (markerOf 0 false 1))).1 : List Bool), by decide +kernel⟩,
    ⟨(hx (fun h => h.setPort (1 : Nat) { h.port (1 : Nat) with mk0 := 3, mk1 := 2 }) (hx (fun h => { h with ports := h.ports.put (1 : Nat) { h.port (1 : Nat) with mk0 := (3), mk1 := (2) } }) (st [(Reg.IFL_STATE.STATE (1 : Nat), 1), ((Reg.LANE_STATUS.CDR_LOCK (portLane (1 : Nat) 0)), 1), ((Reg.LANE_STATUS.CDR_LOCK (portLane (1 : Nat) 1)), 1), (Reg.LANE_STATUS.CDR_LOCK (portLane (1 : Nat) 0), 1), (Reg.LANE_STATUS.CDR_LOCK (portLane (1 : Nat) 1), 1), (Reg.LANE_CTRL.EN (portLane (1 : Nat) 0), 1), (Reg.LANE_CTRL.EN (portLane (1 : Nat) 1), 1)]))), (1 : Nat), (0 : Nat), ((stuff {} (wordBits 64 (markerOf 1 false 1))).1 : List Bool), by decide +kernel⟩,
    ⟨(hx (fun h => h.setPort (1 : Nat) { h.port (1 : Nat) with seen0 := true }) (st [(Reg.IFL_STATE.STATE (1 : Nat), 2), (Reg.LANE_STATUS.CDR_LOCK (portLane (1 : Nat) 0), 1), (Reg.LANE_STATUS.CDR_LOCK (portLane (1 : Nat) 1), 1), (Reg.LANE_CTRL.EN (portLane (1 : Nat) 0), 1), (Reg.LANE_CTRL.EN (portLane (1 : Nat) 1), 1)])), (1 : Nat), (1 : Nat), ((stuff {} (wordBits 64 (markerOf 1 true 1))).1 : List Bool), by decide +kernel⟩,
    ⟨(hx (fun h => h.setPort (1 : Nat) { h.port (1 : Nat) with seen0 := true, replay := [3] }) (st [(Reg.IFL_STATE.STATE (1 : Nat), 3), (Reg.LANE_STATUS.CDR_LOCK (portLane (1 : Nat) 0), 1), (Reg.LANE_STATUS.CDR_LOCK (portLane (1 : Nat) 1), 1), (Reg.LANE_CTRL.EN (portLane (1 : Nat) 0), 1), (Reg.LANE_CTRL.EN (portLane (1 : Nat) 1), 1)])), (1 : Nat), (0 : Nat), ((stuff {} (wordBits 64 (markerOf 0 false 1))).1 : List Bool), by decide +kernel⟩,
    ⟨(hx (fun h => { h with lanes := h.lanes.put (portLane (0 : Nat) (0 : Nat)) { h.lane (portLane (0 : Nat) (0 : Nat)) with rxFlip := (false), txFlip := (false) } }) (st [(Reg.IFL_CTRL.LOOP (0 : Nat), 1), (Reg.IFL_STATE.STATE (0 : Nat), 2)])), (0 : Nat), (0 : Nat), by decide +kernel⟩⟩

theorem wit_IfepenFlits :
    (∃ s : State, ∃ p : Nat, ∃ f : Nat, ∃ w0 : List Bool, ∃ w1 : List Bool, s.up ∧ p < s.variant.ports ∧ s.host.portState p = 3 ∧
    s.host.lanePowered p 0 = true ∧ s.host.lanePowered p 1 = true ∧ (s.host.recvFlit p w0 w1).2 = f ∧ flitGood f = false)
    ∧ (∃ s : State, ∃ p : Nat, ∃ f : Nat, ∃ w0 : List Bool, ∃ w1 : List Bool, s.up ∧ p < s.variant.ports ∧ s.host.portState p = 3 ∧
    s.host.lanePowered p 0 = true ∧ s.host.lanePowered p 1 = true ∧ (s.host.recvFlit p w0 w1).2 = f ∧ flitGood f = true ∧
    flitFormat f = 1 ∧ flitSeqd (flitType f) = true ∧ flitSeq f = (s.host.port p).rxSeq)
    ∧ (∃ s : State, ∃ p : Nat, ∃ f : Nat, ∃ w0 : List Bool, ∃ w1 : List Bool, s.up ∧ p < s.variant.ports ∧ s.host.portState p = 3 ∧
    s.host.lanePowered p 0 = true ∧ s.host.lanePowered p 1 = true ∧ (s.host.recvFlit p w0 w1).2 = f ∧ flitGood f = true ∧
    flitFormat f = 1 ∧ flitSeqd (flitType f) = true ∧ flitSeq f ≠ (s.host.port p).rxSeq)
    ∧ (∃ s : State, ∃ p : Nat, ∃ f : Nat, ∃ w0 : List Bool, ∃ w1 : List Bool, s.up ∧ p < s.variant.ports ∧ s.host.portState p = 3 ∧
    s.host.lanePowered p 0 = true ∧ s.host.lanePowered p 1 = true ∧ (s.host.recvFlit p w0 w1).2 = f ∧ flitGood f = true ∧
    flitFormat f ≠ 1)
    ∧ (∃ s : State, ∃ p : Nat, ∃ f : Nat, ∃ w0 : List Bool, ∃ w1 : List Bool, s.up ∧ p < s.variant.ports ∧ s.host.portState p = 3 ∧
    s.host.lanePowered p 0 = true ∧ s.host.lanePowered p 1 = true ∧ (s.host.recvFlit p w0 w1).2 = f ∧ flitGood f = true ∧
    flitFormat f = 1 ∧ flitType f = 3)
    ∧ (∃ s : State, ∃ p : Nat, s.up ∧ p < s.variant.ports ∧ s.host.portState p = 3 ∧ (s.host.port p).replay ≠ [] ∧ (s.host.port
    p).replayed ≠ some (s.tick.toNat, true) ∧ (s.host.port p).replays < s.host.get (Reg.IFL_CTRL.REPLAY_LIMIT p))
    ∧ (∃ s : State, ∃ p : Nat, s.up ∧ p < s.variant.ports ∧ s.host.portState p = 3 ∧ (s.host.port p).replay ≠ [] ∧ (s.host.port
    p).replayed ≠ some (s.tick.toNat, true) ∧ max 1 (s.host.get (Reg.IFL_CTRL.REPLAY_LIMIT p)) ≤ (s.host.port p).replays)
    ∧ (∃ s : State, ∃ p : Nat, s.up ∧ s.settled ∧ (s.host.port p).replayed = some (s.tick.toNat, true))
    ∧ (∃ s : State, ∃ p : Nat, s.up ∧ p < s.variant.ports ∧ s.host.portState p = 3 ∧ (s.host.port p).changed = true ∧ s.host.flitOut p 0
    = 0) :=
  ⟨⟨(hx (fun h => h.setPort (0 : Nat) { h.port (0 : Nat) with loop := [((flitOf 1 0 5 2 77 + 1) : Nat)] }) (st [(Reg.IFL_STATE.STATE (0 : Nat), 3), (Reg.IFL_CTRL.LOOP (0 : Nat), 1)])), (0 : Nat), ((flitOf 1 0 5 2 77 + 1) : Nat), ([] : List Bool), ([] : List Bool), by decide +kernel⟩,
    ⟨(hx (fun h => h.setPort (0 : Nat) { h.port (0 : Nat) with loop := [((flitOf 1 0 5 2 77) : Nat)] }) (st [(Reg.IFL_STATE.STATE (0 : Nat), 3), (Reg.IFL_CTRL.LOOP (0 : Nat), 1)])), (0 : Nat), ((flitOf 1 0 5 2 77) : Nat), ([] : List Bool), ([] : List Bool), by decide +kernel⟩,
    ⟨(hx (fun h => h.setPort (0 : Nat) { h.port (0 : Nat) with loop := [((flitOf 1 3 5 2 77) : Nat)] }) (st [(Reg.IFL_STATE.STATE (0 : Nat), 3), (Reg.IFL_CTRL.LOOP (0 : Nat), 1)])), (0 : Nat), ((flitOf 1 3 5 2 77) : Nat), ([] : List Bool), ([] : List Bool), by decide +kernel⟩,
    ⟨(hx (fun h => h.setPort (0 : Nat) { h.port (0 : Nat) with loop := [((2 + (crc32c (toLE 28 2)).toNat * 2 ^ 224) : Nat)] }) (st [(Reg.IFL_STATE.STATE (0 : Nat), 3), (Reg.IFL_CTRL.LOOP (0 : Nat), 1)])), (0 : Nat), ((2 + (crc32c (toLE 28 2)).toNat * 2 ^ 224) : Nat), ([] : List Bool), ([] : List Bool), by decide +kernel⟩,
    ⟨(hx (fun h => h.setPort (0 : Nat) { h.port (0 : Nat) with loop := [((flitOf 3 0 5 0 (160 + 48 * 65536)) : Nat)] }) (st [(Reg.IFL_STATE.STATE (0 : Nat), 3), (Reg.IFL_CTRL.LOOP (0 : Nat), 1)])), (0 : Nat), ((flitOf 3 0 5 0 (160 + 48 * 65536)) : Nat), ([] : List Bool), ([] : List Bool), by decide +kernel⟩,
    ⟨(hx (fun h => h.setPort (0 : Nat) { h.port (0 : Nat) with replay := [5] }) (st [(Reg.IFL_STATE.STATE (0 : Nat), 3), (Reg.IFL_CTRL.REPLAY_LIMIT (0 : Nat), 4)])), (0 : Nat), by decide +kernel⟩,
    ⟨(hx (fun h => h.setPort (0 : Nat) { h.port (0 : Nat) with replay := [5], replays := 4 }) (st [(Reg.IFL_STATE.STATE (0 : Nat), 3), (Reg.IFL_CTRL.REPLAY_LIMIT (0 : Nat), 4)])), (0 : Nat), by decide +kernel⟩,
    ⟨(hx (fun h => h.setPort (0 : Nat) { h.port (0 : Nat) with replayed := some (0, true) }) (st [])), (0 : Nat), by decide +kernel⟩,
    ⟨(hx (fun h => { h with ports := h.ports.put (0 : Nat) { h.port (0 : Nat) with changed := (true) } }) (st [(Reg.IFL_STATE.STATE (0 : Nat), 3)])), (0 : Nat), by decide +kernel⟩⟩

theorem wit_FlitRoundTrip :
    (∃ type : Nat, ∃ seq : Nat, ∃ ack : Nat, ∃ vc : Nat, ∃ payload : Nat, type < 16 ∧ seq < 1024 ∧ ack < 1024 ∧ vc < 4 ∧ payload < 2 ^
    192)
    ∧ (∃ r : Run, r.len < 40)
    ∧ (∃ f : Nat, ∃ r0 : Run, ∃ r1 : Run, f < 2 ^ 256 ∧ r0.len < 40 ∧ r1.len < 40)
    ∧ (∃ i : Nat, ∃ skips : Nat, i < 2 ∧ skips < 3) :=
  ⟨⟨(0 : Nat), (0 : Nat), (0 : Nat), (0 : Nat), (0 : Nat), by decide +kernel⟩,
    ⟨({} : Run), by decide +kernel⟩,
    ⟨(0 : Nat), ({} : Run), ({} : Run), by decide +kernel⟩,
    ⟨(0 : Nat), (0 : Nat), by decide +kernel⟩⟩

theorem wit_PixelIngressLines :
    (∃ s : State, ∃ n : Nat, ∃ x : Nat, ∃ c, ∃ rest, s.up ∧ n < s.variant.links ∧ x < s.variant.ctxs ∧ s.host.ctxOn x = true ∧
    s.host.linkOf x = some n ∧ s.host.on (Reg.CTX_CTRL.TICK_PAIR x) = true ∧ (s.host.ctx x).ticks = c :: rest)
    ∧ (∃ s : State, ∃ n : Nat, ∃ x : Nat, s.up ∧ n < s.variant.links ∧ x < s.variant.ctxs ∧ s.host.ctxOn x = true ∧ s.host.linkOf x =
    some n ∧ s.host.on (Reg.CTX_CTRL.TICK_PAIR x) = true ∧ (s.host.ctx x).ticks = [])
    ∧ (∃ s : State, ∃ p : Nat, ∃ x : Nat, s.running ∧ p < s.variant.pipes ∧ (s.host.pipe p).turn = none ∧ (s.host.pipe p).pos ≠ 0 ∧
    (s.host.pipe p).ord (Reg.PIPE_ORDER.VALID p (s.host.pipe p).pos) = 1 ∧ (s.host.pipe p).ord (Reg.PIPE_ORDER.CTX p (s.host.pipe
    p).pos) = x ∧ s.host.ctxOn x = true ∧ s.host.pipeOf x = p)
    ∧ (∃ s : State, ∃ p : Nat, ∃ x : Nat, ∃ l : PixLine, ∃ rest : List PixLine, s.running ∧ p < s.variant.pipes ∧ (s.host.pipe p).turn =
    some x ∧ (s.host.ctx x).buf = l :: rest ∧ s.host.mayPass x l = true ∧ (l.drop = true → l.counts.length = cfgGet
    (s.host.frameOf x l.frame).cfg (Reg.STRIPE_LINES x)))
    ∧ (∃ s : State, ∃ p : Nat, ∃ x : Nat, ∃ off : Nat, ∃ l : PixLine, ∃ rest : List PixLine, ∃ fr : PixFrame, ∃ cfg : SMap Word, ∃ u :
    List (List Nat), ∃ f : List (List Nat), ∃ final : List (List Nat), ∃ row : List Byte, final = binLines cfg x [lutLine cfg x
    (s.host.tblWord (s.host.pipeOf x)) f] ∧ off = destSlot cfg x 0 l.stripe + 64 + tableBytes cfg x + (s.host.ctx x).table.length
    * destPitch cfg x 0 ∧ row = mvRow (cfgGet cfg (Reg.MV_CFG.TFMT x)) (cfgGet cfg (Reg.SCALE x 0)) (cfgGet cfg (Reg.BIAS x 0))
    (cfgGet cfg (Reg.COL_START x 0)) (destCols cfg x 0) (final.headD []) ∧ s.running ∧ p < s.variant.pipes ∧ (s.host.pipe p).turn
    = some x ∧ (s.host.ctx x).buf = l :: rest ∧ s.host.mayPass x l = true ∧ l.drop = false ∧ l.endStripe = false ∧ l.endFrame =
    false ∧ s.host.frameOf x l.frame = fr ∧ fr.begun = true ∧ fr.cfg = cfg ∧ fr.disp = none ∧ fr.code = none ∧ cfgGet cfg
    (Reg.COLOUR x) = 0 ∧ cfgGet cfg (Reg.BY x) = 0 ∧ (s.host.ctx x).bayCur = none ∧ (s.host.ctx x).bin = [] ∧ (s.host.ctx
    x).binBad = (false, false) ∧ dests cfg x = [0] ∧ (u, f) = frontStages cfg x (s.host.tblWord (s.host.pipeOf x)) l.missing
    l.data)
    ∧ (∃ s : State, ∃ p : Nat, ∃ x : Nat, ∃ c : Nat, ∃ i : Nat, ∃ off : Nat, ∃ l : PixLine, ∃ rest : List PixLine, ∃ fr : PixFrame, ∃
    cfg : SMap Word, ∃ tbl : List (Nat × Bool × Bool), tbl = droppedTable cfg x l.counts ∧ off = destSlot cfg x 0 l.stripe ∧
    s.running ∧ p < s.variant.pipes ∧ (s.host.pipe p).turn = some x ∧ (s.host.ctx x).buf = l :: rest ∧ s.host.mayPass x l = true
    ∧ l.drop = true ∧ l.counts.length = cfgGet cfg (Reg.STRIPE_LINES x) ∧ s.host.frameOf x l.frame = fr ∧ fr.begun = true ∧
    fr.cfg = cfg ∧ (s.host.ctx x).bayCur = none ∧ dests cfg x = [0] ∧ s.host.boundChan x 0 = some (c, i))
    ∧ (∃ s : State, ∃ k : Nat, ∃ i : Nat, s.running ∧ k < 8 ∧ i < 16) :=
  ⟨⟨(hx (fun h => h.setCtx (0 : Nat) {h.ctx (0 : Nat) with ticks := [5,6]}) (hx (fun h => { h with ctxs := h.ctxs.put (0 : Nat) { h.ctx (0 : Nat) with ticks := ((5 : Nat) :: ([6])) } }) (st [((Reg.CTX_CTRL.EN (0 : Nat)), 1), ((Reg.CTX_CTRL.TICK_PAIR (0 : Nat)), 1), (Reg.CXP_MAP.VALID (0 : Nat) 0, 1)]))), (0 : Nat), (0 : Nat), (5 : Nat), ([6]), by decide +kernel⟩,
    ⟨(hx (fun h => { h with ctxs := h.ctxs.put (0 : Nat) { h.ctx (0 : Nat) with ticks := ([]) } }) (st [((Reg.CTX_CTRL.EN (0 : Nat)), 1), ((Reg.CTX_CTRL.TICK_PAIR (0 : Nat)), 1), (Reg.CXP_MAP.VALID (0 : Nat) 0, 1)])), (0 : Nat), (0 : Nat), by decide +kernel⟩,
    ⟨(hx (fun h => h.setPipe (0 : Nat) {h.pipe (0 : Nat) with pos := 1, order := [((Reg.PIPE_ORDER.VALID (0 : Nat) 1).addr, 0x80#32)]}) (hx (fun h => { h with pipes := h.pipes.put (0 : Nat) { h.pipe (0 : Nat) with turn := (none) } }) (st [((Reg.CTX_CTRL.EN (0 : Nat)), 1)]))), (0 : Nat), (0 : Nat), by decide +kernel⟩,
    ⟨(hx (fun h => (h.setPipe (0 : Nat) {h.pipe (0 : Nat) with turn := some (0 : Nat)}).setCtx (0 : Nat) {h.ctx (0 : Nat) with buf := [{}], open_ := [{}]}) (hx (fun h => { h with ctxs := h.ctxs.put (0 : Nat) { h.ctx (0 : Nat) with buf := (({} : PixLine) :: ([] : List PixLine)) } }) (hx (fun h => { h with pipes := h.pipes.put (0 : Nat) { h.pipe (0 : Nat) with turn := (some (0 : Nat)) } }) (st [])))), (0 : Nat), (0 : Nat), ({} : PixLine), ([] : List PixLine), by decide +kernel⟩,
    ⟨(hx (fun h => (h.setPipe (0 : Nat) {h.pipe (0 : Nat) with turn := some (0 : Nat)}).setCtx (0 : Nat) {h.ctx (0 : Nat) with buf := [{frame := 3, data := [9#8, 8#8]}], open_ := [{num := 3, begun := true, cfg := [((Reg.OUT_EN 0).addr, 1#32), ((Reg.WIDTH 0).addr, 2#32)]}]}) (hx (fun h => { h with ctxs := h.ctxs.put (0 : Nat) { h.ctx (0 : Nat) with buf := (({frame := 3, data := [9#8, 8#8]} : PixLine) :: ([] : List PixLine)), bayCur := (none), bin := ([]), binBad := ((false, false)) } }) (hx (fun h => { h with pipes := h.pipes.put (0 : Nat) { h.pipe (0 : Nat) with turn := (some (0 : Nat)) } }) (st [])))), (0 : Nat), (0 : Nat), _, ({frame := 3, data := [9#8, 8#8]} : PixLine), ([] : List PixLine), ({num := 3, begun := true, cfg := [((Reg.OUT_EN 0).addr, 1#32), ((Reg.WIDTH 0).addr, 2#32)]} : PixFrame), ([((Reg.OUT_EN 0).addr, 1#32), ((Reg.WIDTH 0).addr, 2#32)] : SMap Word), ((frontStages [((Reg.OUT_EN 0).addr, 1#32), ((Reg.WIDTH 0).addr, 2#32)] 0 (State.reset.host.tblWord 0) false [9#8, 8#8]).1 : List (List Nat)), ((frontStages [((Reg.OUT_EN 0).addr, 1#32), ((Reg.WIDTH 0).addr, 2#32)] 0 (State.reset.host.tblWord 0) false [9#8, 8#8]).2 : List (List Nat)), _, _, rfl, rfl, rfl, by decide +kernel⟩,
    ⟨(hx (fun h => (h.setPipe (0 : Nat) {h.pipe (0 : Nat) with turn := some (0 : Nat)}).setCtx (0 : Nat) {h.ctx (0 : Nat) with buf := [{frame := 3, drop := true, counts := [7]}], open_ := [{num := 3, begun := true, cfg := [((Reg.OUT_EN 0).addr, 1#32), ((Reg.STRIPE_LINES 0).addr, 1#32)]}]}) (hx (fun h => { h with ctxs := h.ctxs.put (0 : Nat) { h.ctx (0 : Nat) with buf := (({frame := 3, drop := true, counts := [7]} : PixLine) :: ([] : List PixLine)), bayCur := (none) } }) (hx (fun h => { h with pipes := h.pipes.put (0 : Nat) { h.pipe (0 : Nat) with turn := (some (0 : Nat)) } }) (st [(Reg.LSC_CFG.EN 0 0, 1), (Reg.LSC_CFG.SLOTS 0 0, 2)])))), (0 : Nat), (0 : Nat), (0 : Nat), (0 : Nat), _, ({frame := 3, drop := true, counts := [7]} : PixLine), ([] : List PixLine), ({num := 3, begun := true, cfg := [((Reg.OUT_EN 0).addr, 1#32), ((Reg.STRIPE_LINES 0).addr, 1#32)]} : PixFrame), ([((Reg.OUT_EN 0).addr, 1#32), ((Reg.STRIPE_LINES 0).addr, 1#32)] : SMap Word), _, rfl, rfl, by decide +kernel⟩,
    ⟨(st []), (0 : Nat), (0 : Nat), by decide +kernel⟩⟩

theorem wit_ContextCommits :
    (∃ s : State, ∃ x : Nat, s.open_ ∧ x < s.variant.ctxs ∧ s.host.on (Reg.CTX_STATUS.COMMIT_PENDING x) = false ∧ cfgValid
    (s.host.ctxShadow x) x = false)
    ∧ (∃ s : State, ∃ x : Nat, s.open_ ∧ x < s.variant.ctxs ∧ s.host.on (Reg.CTX_STATUS.COMMIT_PENDING x) = false ∧ cfgValid
    (s.host.ctxShadow x) x = true ∧ s.host.ctxOn x = true ∧ s.host.ctxHeld x = false)
    ∧ (∃ s : State, ∃ x : Nat, s.open_ ∧ x < s.variant.ctxs ∧ s.host.on (Reg.CTX_STATUS.COMMIT_PENDING x) = false ∧ cfgValid
    (s.host.ctxShadow x) x = true ∧ (s.host.ctxOn x = false ∨ s.host.ctxHeld x = true) ∧ s.host.stopped = true)
    ∧ (∃ s : State, ∃ x : Nat, s.open_ ∧ x < s.variant.ctxs ∧ s.host.on (Reg.CTX_STATUS.COMMIT_PENDING x) = false ∧ cfgValid
    (s.host.ctxShadow x) x = true ∧ s.host.ctxOn x = false ∧ s.host.stopped = false)
    ∧ (∃ s : State, ∃ p : Nat, s.open_ ∧ p < s.variant.pipes)
    ∧ (∃ s : State, ∃ x : Nat, ∃ v : Word, s.open_ ∧ x < s.variant.ctxs ∧ v.getLsbD 0 = true ∧ s.host.ctxOn x = false ∧ s.host.stopped =
    false ∧ cfgValid (s.host.ctxShadow x) x = true ∧ ((List.range 64).filter fun i => s.host.ctxOn (x / 64 * 64 + i) &&
    s.host.pipeOf (x / 64 * 64 + i) == x / 64 * 4 + (Reg.CTX_CTRL.PIPE x).ofWord v).length < 32)
    ∧ (∃ s : State, ∃ x : Nat, ∃ v : Word, s.open_ ∧ x < s.variant.ctxs ∧ v.getLsbD 0 = false ∧ s.host.ctxOn x = true ∧ s.host.stopped =
    false)
    ∧ (∃ s : State, ∃ x : Nat, ∃ v : Word, s.open_ ∧ x < s.variant.ctxs ∧ s.host.stopped = true ∧ v.getLsbD 0 = true ∧ (s.host.ctxOn x =
    false ∨ s.host.ctxHeld x = true))
    ∧ (∃ s : State, ∃ x : Nat, ∃ v : Word, s.open_ ∧ x < s.variant.ctxs ∧ s.host.stopped = true ∧ v.getLsbD 0 = false ∧ (s.host.ctxOn x
    = true ∨ s.host.ctxHeld x = true)) :=
  ⟨⟨(st [(Reg.DEV_STATUS.READY, 1), ((Reg.CTX_STATUS.COMMIT_PENDING (0 : Nat)), 0), (Reg.WIDTH (0 : Nat), 3)]), (0 : Nat), by decide +kernel⟩,
    ⟨(st [(Reg.DEV_STATUS.READY, 1), ((Reg.CTX_STATUS.COMMIT_PENDING (0 : Nat)), 0), ((Reg.CTX_CTRL.EN (0 : Nat)), 1)]), (0 : Nat), by decide +kernel⟩,
    ⟨(st [(Reg.DEV_STATUS.READY, 1), ((Reg.CTX_STATUS.COMMIT_PENDING (0 : Nat)), 0), ((Reg.CTX_CTRL.EN (0 : Nat)), 0), (Reg.GSTOP_STATUS.STATE, 2)]), (0 : Nat), by decide +kernel⟩,
    ⟨(st [(Reg.DEV_STATUS.READY, 1), ((Reg.CTX_STATUS.COMMIT_PENDING (0 : Nat)), 0), ((Reg.CTX_CTRL.EN (0 : Nat)), 0)]), (0 : Nat), by decide +kernel⟩,
    ⟨(st [(Reg.DEV_STATUS.READY, 1)]), (0 : Nat), by decide +kernel⟩,
    ⟨(st [(Reg.DEV_STATUS.READY, 1), ((Reg.CTX_CTRL.EN (0 : Nat)), 0)]), (0 : Nat), (1#32 : Word), by decide +kernel⟩,
    ⟨(st [(Reg.DEV_STATUS.READY, 1), ((Reg.CTX_CTRL.EN (0 : Nat)), 1)]), (0 : Nat), (0#32 : Word), by decide +kernel⟩,
    ⟨(st [(Reg.DEV_STATUS.READY, 1), (Reg.GSTOP_STATUS.STATE, 2), ((Reg.CTX_CTRL.EN (0 : Nat)), 0)]), (0 : Nat), (1#32 : Word), by decide +kernel⟩,
    ⟨(st [(Reg.DEV_STATUS.READY, 1), (Reg.GSTOP_STATUS.STATE, 2), ((Reg.CTX_CTRL.EN (0 : Nat)), 1)]), (0 : Nat), (0#32 : Word), by decide +kernel⟩⟩

theorem wit_CameraSettingsQueue :
    (∃ s : State, ∃ x : Nat, ∃ v : Word, s.open_ ∧ x < s.variant.ctxs ∧ v.getLsbD 0 = true ∧ (s.host.ctx x).sets.length < 4 ∧ (∀ r ∈
    (s.host.ctx x).sets, r.issued = true ∨ (s.host.ctx x).lastBegun < r.target) ∧ (s.host.ctx x).lastBegun < (s.host.ctx
    x).frames - 1 + max 1 ((Reg.SET_CMD.LEAD x).ofWord v))
    ∧ (∃ s : State, ∃ x : Nat, ∃ v : Word, s.open_ ∧ x < s.variant.ctxs ∧ v.getLsbD 0 = true ∧ 4 ≤ (s.host.ctx x).sets.length)
    ∧ (∃ s : State, ∃ x : Nat, ∃ n : Nat, ∃ r : SetReq, s.up ∧ findN 16 (fun n => (s.host.link n).setWr.head? == some x && !s.host.on
    (Reg.CXP_CC_STATUS.BUSY n)) = some n ∧ (s.host.ctx x).sets.find? (fun r => r.issued) = some r ∧ r.writes.length ≤ r.done + 1) :=
  ⟨⟨(st [(Reg.DEV_STATUS.READY, 1)]), (0 : Nat), (1#32 : Word), by decide +kernel⟩,
    ⟨(hx (fun h => h.setCtx (0 : Nat) {h.ctx (0 : Nat) with sets := List.replicate 4 {target := 9}}) (st [(Reg.DEV_STATUS.READY, 1)])), (0 : Nat), (1#32 : Word), by decide +kernel⟩,
    ⟨(hx (fun h => (h.setCtx (0 : Nat) {h.ctx (0 : Nat) with sets := [({gen := 3, target := 2, writes := [(1,2)], issued := true} : SetReq)]}).setLink 0 {h.link 0 with setWr := [(0 : Nat)]}) (st [])), (0 : Nat), (0 : Nat), ({gen := 3, target := 2, writes := [(1,2)], issued := true} : SetReq), by decide +kernel⟩⟩

theorem wit_SluiceCommits :
    (∃ s : State, ∃ n : Nat, s.open_ ∧ s.variant.hasTable n = true ∧ s.host.on (Reg.SLU_STATUS.PENDING n) = false ∧ s.host.on
    (Reg.SLU_STATUS.LOADER n) = false ∧ s.host.sluCheck s.variant n false ≠ 0)
    ∧ (∃ s : State, ∃ n : Nat, s.open_ ∧ s.variant.hasTable n = true ∧ s.host.on (Reg.SLU_STATUS.PENDING n) = false ∧ s.host.on
    (Reg.SLU_STATUS.LOADER n) = true)
    ∧ (∃ s : State, ∃ n : Nat, ∃ w : Word, s.open_ ∧ s.variant.hasTable n = true ∧ bit w.toNat n = true ∧ s.host.on
    (Reg.SLU_STATUS.PENDING n) = false ∧ s.host.on (Reg.SLU_STATUS.LOADER n) = false ∧ s.host.sluCheck s.variant n false = 0)
    ∧ (∃ s : State, s.up ∧ s.host.get Reg.PM_STATUS.DEVICE < 2 ∧ s.host.stopped = true) :=
  ⟨⟨(hx (fun h => h.setWord (shadowAddr (0 : Nat) 0) 3#32) (st [(Reg.DEV_STATUS.READY, 1), ((Reg.SLU_STATUS.PENDING (0 : Nat)), 0), ((Reg.SLU_STATUS.LOADER (0 : Nat)), 0)])), (0 : Nat), by decide +kernel⟩,
    ⟨(st [(Reg.DEV_STATUS.READY, 1), ((Reg.SLU_STATUS.PENDING (0 : Nat)), 0), ((Reg.SLU_STATUS.LOADER (0 : Nat)), 1)]), (0 : Nat), by decide +kernel⟩,
    ⟨(st [(Reg.DEV_STATUS.READY, 1), ((Reg.SLU_STATUS.PENDING (0 : Nat)), 0), ((Reg.SLU_STATUS.LOADER (0 : Nat)), 0)]), (0 : Nat), (1#32 : Word), by decide +kernel⟩,
    ⟨(st [(Reg.GSTOP_STATUS.STATE, 2)]), by decide +kernel⟩⟩

theorem wit_SluiceSlotsAndArbiters :
    (∃ s : State, ∃ n : Nat, ∃ i : Nat, s.up ∧ s.variant.hasTable n = true ∧ i < 256 ∧ s.host.get Reg.PM_STATUS.DEVICE < 2 ∧ n < 16 ∧
    slotKind (s.host.active n i) = 2)
    ∧ (∃ s : State, ∃ n : Nat, ∃ i : Nat, ∃ ready : Nat, ready = 0 ∧ s.up ∧ s.variant.hasTable n = true ∧ i < 256 ∧ s.host.get
    Reg.PM_STATUS.DEVICE < 2 ∧ 16 ≤ n ∧ slotKind (s.host.active n i) = 1 ∧ 128 ≤ slotStream (s.host.active n i) ∧ s.host.stopped
    = false)
    ∧ (∃ s : State, ∃ n : Nat, ∃ i : Nat, ∃ ready : Nat, s.up ∧ s.variant.hasTable n = true ∧ i < 256 ∧ s.host.get Reg.PM_STATUS.DEVICE
    < 2 ∧ 16 ≤ n ∧ slotKind (s.host.active n i) = 1 ∧ 128 ≤ slotStream (s.host.active n i) ∧ s.host.stopped = false ∧ ready ≠ 0)
    ∧ (∃ s : State, ∃ n : Nat, ∃ i : Nat, s.up ∧ s.variant.hasTable n = true ∧ i < 256 ∧ s.host.get Reg.PM_STATUS.DEVICE < 2 ∧ n < 16 ∧
    slotKind (s.host.active n i) = 0 ∧ 0 < s.host.get (Reg.SLU_REF_DEBT n))
    ∧ (∃ s : State, ∃ n : Nat, ∃ i : Nat, ∃ x, s.up ∧ s.variant.hasTable n = true ∧ i < 256 ∧ s.host.get Reg.PM_STATUS.DEVICE < 2 ∧
    slotKind (s.host.active n i) = 0 ∧ (16 ≤ n ∨ s.host.get (Reg.SLU_REF_DEBT n) = 0) ∧ s.host.stopped = false ∧ (s.host.arb
    n).holder = some x ∧ (s.host.arb n).moved ≤ s.host.get (Reg.SLU_CTRL.BURST_M1 n))
    ∧ (∃ s : State, ∃ n : Nat, ∃ req : Nat, ∃ j : Nat, s.running ∧ s.variant.hasTable n = true ∧ s.host.get Reg.PM_STATUS.DEVICE < 2 ∧
    (s.host.arb n).holder = none ∧ (s.host.arb n).emerg = false ∧ (s.host.arb n).revoked = none ∧ j < requesters s.variant n ∧
    bit req (((s.host.arb n).first + j) % requesters s.variant n) = true ∧ (((s.host.arb n).first + j) % requesters s.variant n =
    traceReq → 0 < s.host.gauge.bucket) ∧ (∀ i, i < j → bit req (((s.host.arb n).first + i) % requesters s.variant n) = false))
    ∧ (∃ s : State, ∃ n : Nat, ∃ x : Nat, s.up ∧ s.variant.hasTable n = true ∧ s.host.get Reg.PM_STATUS.DEVICE < 2 ∧ (s.host.arb
    n).holder = some x ∧ n < 16 ∧ 0 < s.host.get (Reg.SLU_REF_DEBT n))
    ∧ (∃ s : State, ∃ n : Nat, ∃ x : Nat, s.up ∧ s.variant.hasTable n = true ∧ s.host.get Reg.PM_STATUS.DEVICE < 2 ∧ (s.host.arb
    n).holder = some x ∧ 16 ≤ n)
    ∧ (∃ s : State, ∃ n : Nat, s.up ∧ s.variant.hasTable n = true ∧ s.host.get Reg.PM_STATUS.DEVICE < 2 ∧ (s.host.arb n).holder = none ∧
    (16 ≤ n ∨ 0 < s.host.get (Reg.SLU_REF_DEBT n))) :=
  ⟨⟨(hx (fun h => h.setWord (activeAddr (0 : Nat) (0 : Nat)) 2#32) (st [])), (0 : Nat), (0 : Nat), by decide +kernel⟩,
    ⟨(hx (fun h => h.setWord (activeAddr (16 : Nat) (0 : Nat)) 0x8001#32) (st [])), (16 : Nat), (0 : Nat), _, rfl, by decide +kernel⟩,
    ⟨(hx (fun h => h.setWord (activeAddr (16 : Nat) (0 : Nat)) 0x8001#32) (st [])), (16 : Nat), (0 : Nat), (2 : Nat), by decide +kernel⟩,
    ⟨(hx (fun h => h.setWord (activeAddr (0 : Nat) (0 : Nat)) 0#32) (st [((Reg.SLU_REF_DEBT (0 : Nat)), 1)])), (0 : Nat), (0 : Nat), by decide +kernel⟩,
    ⟨(hx (fun h => { h with slu := h.slu.put (16 : Nat) { h.arb (16 : Nat) with holder := (some (0 : Nat)) } }) (st [])), (16 : Nat), (0 : Nat), (0 : Nat), by decide +kernel⟩,
    ⟨(hx (fun h => { h with slu := h.slu.put (0 : Nat) { h.arb (0 : Nat) with holder := (none), emerg := (false), revoked := (none) } }) (st [])), (0 : Nat), (2 : Nat), (1 : Nat), by decide +kernel⟩,
    ⟨(hx (fun h => { h with slu := h.slu.put (0 : Nat) { h.arb (0 : Nat) with holder := (some (0 : Nat)) } }) (st [((Reg.SLU_REF_DEBT (0 : Nat)), 1)])), (0 : Nat), (0 : Nat), by decide +kernel⟩,
    ⟨(hx (fun h => { h with slu := h.slu.put (16 : Nat) { h.arb (16 : Nat) with holder := (some (0 : Nat)) } }) (st [])), (16 : Nat), (0 : Nat), by decide +kernel⟩,
    ⟨(hx (fun h => { h with slu := h.slu.put (16 : Nat) { h.arb (16 : Nat) with holder := (none) } }) (st [])), (16 : Nat), by decide +kernel⟩⟩

theorem wit_HbmStartUp :
    (∃ s : State, s.up ∧ s.host.on Reg.MEM_STATUS.FAIL0 = false ∧ s.host.on Reg.MEM_STATUS.FAIL1 = false ∧ s.host.on
    Reg.MEM_STATUS.INIT_DONE = false)
    ∧ (∃ s : State, ∃ k : Nat, s.up ∧ k < s.variant.stacks ∧ s.host.on Reg.MEM_STATUS.INIT_DONE = false) :=
  ⟨⟨(st [(Reg.MEM_STATUS.FAIL0, 0), (Reg.MEM_STATUS.FAIL1, 0), (Reg.MEM_STATUS.INIT_DONE, 0)]), by decide +kernel⟩,
    ⟨(st [(Reg.MEM_STATUS.INIT_DONE, 0)]), (0 : Nat), by decide +kernel⟩⟩

theorem wit_FencesOfCores :
    (∃ s : State, ∃ site : Nat, ∃ cause : Nat, s.up ∧ site < 72 ∧ site ∉ s.host.insp.fenced ∧ cause ∈ [1, 2, 3, 6])
    ∧ (∃ s : State, ∃ site : Nat, s.open_ ∧ site < 72 ∧ site ∉ s.host.insp.fenced ∧ s.host.stopped = false)
    ∧ (∃ s : State, ∃ site : Nat, s.open_ ∧ site < 72 ∧ s.host.stopped = true)
    ∧ (∃ s : State, ∃ k : Nat, ∃ site : Nat, s.up ∧ k < 8 ∧ s.host.on Reg.DET_CTRL.SPARE_TEST = true ∧ s.host.spareOf k = some site ∧
    s.settled) :=
  ⟨⟨(st []), (0 : Nat), (6 : Nat), by decide +kernel⟩,
    ⟨(st [(Reg.DEV_STATUS.READY, 1)]), (0 : Nat), by decide +kernel⟩,
    ⟨(st [(Reg.DEV_STATUS.READY, 1), (Reg.GSTOP_STATUS.STATE, 2)]), (0 : Nat), by decide +kernel⟩,
    ⟨(st [(Reg.DET_CTRL.SPARE_TEST, 1)]), (0 : Nat), (0 : Nat), by decide +kernel⟩⟩

theorem wit_HaltRestartAndRelease :
    (∃ s : State, ∃ cause : Nat, ∃ r : Recipe, s.running ∧ s.host.insp.haltReq = some cause ∧ s.host.insp.armed = some r)
    ∧ (∃ s : State, ∃ k : Nat, ∃ pos : Nat, ∃ r : Recipe, s.running ∧ s.host.insp.halted = true ∧ s.host.insp.armed = some r ∧
    s.host.insp.haltReq = none ∧ s.host.insp.respare.find? (fun x => x.1 == k) = some (k, pos))
    ∧ (∃ s : State, ∃ seq : Nat, ∃ it : Item, ∃ r : Recipe, s.running ∧ s.host.insp.items.find? (fun i => i.seq == seq && !i.released) =
    some it ∧ s.host.recipeOf it.recipe = some r ∧ (∀ i ∈ s.host.insp.items, i.recipe = it.recipe → i.seq < it.seq → i.released =
    true) ∧ it.forced ≠ 0 ∧ it.closeTick.isSome = true)
    ∧ (∃ s : State, ∃ seq : Nat, ∃ it : Item, ∃ r : Recipe, s.running ∧ s.host.insp.items.find? (fun i => i.seq == seq && !i.released) =
    some it ∧ s.host.recipeOf it.recipe = some r ∧ (∀ i ∈ s.host.insp.items, i.recipe = it.recipe → i.seq < it.seq → i.released =
    true) ∧ it.judged.isSome = true)
    ∧ (∃ s : State, ∃ seq : Nat, ∃ it : Item, ∃ i : Item, s.running ∧ s.settled ∧ s.host.insp.items.find? (fun i => i.seq == seq &&
    !i.released) = some it ∧ i ∈ s.host.insp.items ∧ i.recipe = it.recipe ∧ i.seq < it.seq ∧ i.released = false)
    ∧ (∃ s : State, ∃ x : Nat, ∃ pre : List LineDig, ∃ rest : List LineDig, ∃ d : LineDig, s.up ∧ s.host.lineDigs x = pre ++ d :: rest ∧
    (∀ e ∈ pre, e.dig.isSome = true) ∧ d.dig = none ∧ ((rest.getLast?).map (·.idx)).getD d.idx < d.idx + 4096) :=
  ⟨⟨(hx (fun h => { h with insp := { h.insp with haltReq := (some (0 : Nat)), armed := (some ({} : Recipe)) } }) (st [])), (0 : Nat), ({} : Recipe), by decide +kernel⟩,
    ⟨(hx (fun h => {h with insp := {h.insp with respare := [((0 : Nat), 3)], halted := true, armed := some {}}}) (hx (fun h => { h with insp := { h.insp with halted := (true), armed := (some ({} : Recipe)), haltReq := (none) } }) (st []))), (0 : Nat), (3 : Nat), ({} : Recipe), by decide +kernel⟩,
    ⟨(hx (fun h => {h with insp := {h.insp with armed := some {id := 1}, items := [{seq := 7, recipe := 1, forced := 5, closeTick := some 3, close := some 4}]}}) (st [])), (7 : Nat), ({seq := 7, recipe := 1, forced := 5, closeTick := some 3, close := some 4} : Item), ({id := 1} : Recipe), by decide +kernel⟩,
    ⟨(hx (fun h => {h with insp := {h.insp with armed := some {id := 1}, items := [{seq := 7, recipe := 1, judged := some (none, 1), closeTick := some 3, close := some 4}]}}) (st [])), (7 : Nat), ({seq := 7, recipe := 1, judged := some (none, 1), closeTick := some 3, close := some 4} : Item), ({id := 1} : Recipe), by decide +kernel⟩,
    ⟨(hx (fun h => {h with insp := {h.insp with items := [{seq := 5, recipe := 1}, {seq := 7, recipe := 1, forced := 5, closeTick := some 3, close := some 4}]}}) (st [])), (7 : Nat), ({seq := 7, recipe := 1, forced := 5, closeTick := some 3, close := some 4} : Item), ({seq := 5, recipe := 1} : Item), by decide +kernel⟩,
    ⟨(hx (fun h => {h with insp := {h.insp with lineDigs := [((0 : Nat), [{dig := some [1]},{idx := 4},{idx := 5}])]}}) (st [])), (0 : Nat), ([{dig := some [1]}] : List LineDig), ([{idx := 5}] : List LineDig), ({idx := 4} : LineDig), by decide +kernel⟩⟩

theorem wit_GlobalStopCommands :
    (∃ s : State, ∃ src : Nat, s.up ∧ src < 3 ∧ (src = 0 → s.host.ready = true) ∧ (src = 2 → s.host.on Reg.CLK_DBG_CTRL.EN = true) ∧
    s.host.get Reg.GSTOP_STATUS.STATE = 0)
    ∧ (∃ s : State, ∃ src : Nat, s.up ∧ src < 3 ∧ (src = 0 → s.host.ready = true) ∧ (src = 2 → s.host.on Reg.CLK_DBG_CTRL.EN = true) ∧
    s.host.get Reg.GSTOP_STATUS.STATE ≠ 0)
    ∧ (∃ s : State, s.up ∧ s.host.get Reg.GSTOP_STATUS.STATE = 1)
    ∧ (∃ s : State, s.open_ ∧ s.host.get Reg.GSTOP_STATUS.STATE = 2)
    ∧ (∃ s : State, s.open_ ∧ s.host.get Reg.GSTOP_STATUS.STATE = 1)
    ∧ (∃ s : State, s.open_ ∧ s.host.get Reg.GSTOP_STATUS.STATE = 0)
    ∧ (∃ s : State, s.up ∧ s.host.get Reg.GSTOP_STATUS.STATE = 3) :=
  ⟨⟨(st [(Reg.DEV_STATUS.READY, 1), (Reg.GSTOP_STATUS.STATE, 0)]), (0 : Nat), by decide +kernel⟩,
    ⟨(st [(Reg.GSTOP_STATUS.STATE, 1), (Reg.CLK_DBG_CTRL.EN, 1), (Reg.GSTOP_STATUS.STATE, 1)]), (2 : Nat), by decide +kernel⟩,
    ⟨(st [(Reg.GSTOP_STATUS.STATE, 1)]), by decide +kernel⟩,
    ⟨(st [(Reg.DEV_STATUS.READY, 1), (Reg.GSTOP_STATUS.STATE, 2)]), by decide +kernel⟩,
    ⟨(st [(Reg.DEV_STATUS.READY, 1), (Reg.GSTOP_STATUS.STATE, 1)]), by decide +kernel⟩,
    ⟨(st [(Reg.DEV_STATUS.READY, 1), (Reg.GSTOP_STATUS.STATE, 0)]), by decide +kernel⟩,
    ⟨(st [(Reg.GSTOP_STATUS.STATE, 3)]), by decide +kernel⟩⟩

theorem wit_SealsAndCommitPoints :
    (∃ s : State, ∃ n : Nat, s.up ∧ n < 16 ∧ s.host.signing = false ∧ s.host.mgmt.quoteSigns = false ∧ s.host.sealDue s.env n = true ∧
    s.host.sealFull n = false)
    ∧ (∃ s : State, ∃ n : Nat, s.up ∧ n < 16 ∧ s.host.signing = false ∧ s.host.mgmt.quoteSigns = false ∧ s.host.sealDue s.env n = true ∧
    s.host.sealFull n = true)
    ∧ (∃ s : State, ∃ n : Nat, ∃ m : List Byte, s.up ∧ n < 16 ∧ (s.host.ring n).sealBody = some m ∧ s.host.sealFull n = false ∧
    s.host.bme = true)
    ∧ (∃ s : State, ∃ n : Nat, ∃ m : List Byte, s.up ∧ n < 16 ∧ (s.host.ring n).sealBody = some m ∧ s.host.sealFull n = true)
    ∧ (∃ s : State, ∃ b : Option (Nat × Nat), ∃ r : Recipe, ∃ rest : List Commit, s.running ∧ s.host.insp.commits = .disarm b :: rest ∧
    s.host.insp.armed = some r)
    ∧ (∃ s : State, ∃ slot : Nat, ∃ r : Recipe, ∃ b : Option (Nat × Nat), ∃ rest : List Commit, s.running ∧ s.host.insp.commits =
    .recipe slot r b :: rest ∧ s.host.commitDue (.recipe slot r b) = true ∧ s.host.r210 r = true ∧ s.host.slotsBad s.variant r =
    false)
    ∧ (∃ s : State, ∃ part : Nat, ∃ clusters : Nat, ∃ us : Nat, ∃ b : Option (Nat × Nat), ∃ rest : List Commit, s.running ∧
    s.host.insp.commits = .partition part clusters us b :: rest ∧ s.host.commitDue (.partition part clusters us b) = true ∧
    s.host.partRefused part clusters = none ∧ (∀ k, k < 8 → bit clusters k = true → s.host.cluHalted k = false))
    ∧ (∃ s : State, ∃ k : Nat, ∃ pos : Nat, ∃ rest : List Commit, s.running ∧ s.host.insp.commits = .moveId k pos :: rest ∧ k < 8 ∧ pos
    < 9 ∧ s.host.asleep k = false)
    ∧ (∃ s : State, ∃ slot : Nat, ∃ r : Recipe, ∃ b : Option (Nat × Nat), ∃ rest : List Commit, s.running ∧ s.host.insp.commits =
    .recipe slot r b :: rest ∧ s.host.commitDue (.recipe slot r b) = true ∧ s.host.r210 r = false) :=
  ⟨⟨({ (hx (fun h => h.setRing (0 : Nat) {h.ring (0 : Nat) with leaves := [(1,[2])]}) (hx (fun h => { h with mgmt := { h.mgmt with quoteSigns := (false) } }) (st [(Reg.SEAL_CTRL.SEAL_EN (0 : Nat), 1), (Reg.SEAL_CTRL.DIG_EN (0 : Nat), 1), (Reg.SEAL_CTRL.ITEMS_M1 (0 : Nat), 0), (Reg.SEAL_SLOTS (0 : Nat), 4)]))) with tick := 500000 }), (0 : Nat), by decide +kernel⟩,
    ⟨({ (hx (fun h => h.setRing (0 : Nat) {h.ring (0 : Nat) with leaves := [(1,[2])]}) (hx (fun h => { h with mgmt := { h.mgmt with quoteSigns := (false) } }) (st [(Reg.SEAL_CTRL.SEAL_EN (0 : Nat), 1), (Reg.SEAL_CTRL.DIG_EN (0 : Nat), 1), (Reg.SEAL_CTRL.ITEMS_M1 (0 : Nat), 0), (Reg.SEAL_SLOTS (0 : Nat), 4), (Reg.SEAL_COUNT (0 : Nat), 4)]))) with tick := 500000 }), (0 : Nat), by decide +kernel⟩,
    ⟨(hx (fun h => { h with bme := (true) }) (hx (fun h => { h with rings := h.rings.put (0 : Nat) { h.ring (0 : Nat) with sealBody := (some (List.replicate 352 9#8 : List Byte)) } }) (st [(Reg.SEAL_SLOTS (0 : Nat), 4)]))), (0 : Nat), (List.replicate 352 9#8 : List Byte), by decide +kernel⟩,
    ⟨(hx (fun h => { h with rings := h.rings.put (0 : Nat) { h.ring (0 : Nat) with sealBody := (some ([1,2] : List Byte)) } }) (st [(Reg.SEAL_SLOTS (0 : Nat), 4), (Reg.SEAL_COUNT (0 : Nat), 4)])), (0 : Nat), ([1,2] : List Byte), by decide +kernel⟩,
    ⟨(hx (fun h => {h with insp := {h.insp with commits := [.disarm none], armed := some {}}}) (hx (fun h => { h with insp := { h.insp with armed := (some ({} : Recipe)) } }) (st []))), (none : Option (Nat × Nat)), ({} : Recipe), ([] : List Commit), by decide +kernel⟩,
    ⟨(hx (fun h => {h with insp := {h.insp with commits := [.recipe 2 {hdr := List.replicate 96 0#8 ++ [1#8]} none]}, comp := {h.comp with part := [(0,0)]}}) (st [(Reg.MEM_STATUS.INIT_DONE, 1)])), (2 : Nat), ({hdr := List.replicate 96 0#8 ++ [1#8]} : Recipe), (none : Option (Nat × Nat)), ([] : List Commit), by decide +kernel⟩,
    ⟨(hx (fun h => {h with insp := {h.insp with commits := [.partition 1 2 5 none]}}) (st [])), (1 : Nat), (2 : Nat), (5 : Nat), (none : Option (Nat × Nat)), ([] : List Commit), by decide +kernel⟩,
    ⟨(hx (fun h => {h with insp := {h.insp with commits := [.moveId 1 8]}}) (st [])), (1 : Nat), (8 : Nat), ([] : List Commit), by decide +kernel⟩,
    ⟨(hx (fun h => {h with insp := {h.insp with commits := [.recipe 0 {hdr := List.replicate 104 255#8} none]}}) (st [])), (0 : Nat), ({hdr := List.replicate 104 255#8} : Recipe), (none : Option (Nat × Nat)), ([] : List Commit), by decide +kernel⟩⟩

theorem wit_QuadratureAndHallSteps :
    (∃ s : State, ∃ ch : Nat, ch < 4 ∧ s.field.mode ch = 1 ∧ s.field.isOpen ch = false ∧ s.field.get (Reg.ENC_CFG.DECODE ch) < 3)
    ∧ (∃ s : State, ∃ ch : Nat, ∃ a : Nat, ∃ b : Nat, ∃ old : Nat, ∃ code : Nat, ch < 4 ∧ s.field.mode ch = 2 ∧ s.field.isOpen ch =
    false ∧ (s.field.chan ch).hall = some old ∧ hallPlace old = some a ∧ hallPlace code = some b)
    ∧ (∃ s : State, ∃ ch : Nat, ∃ code : Nat, ch < 4 ∧ s.field.mode ch = 2 ∧ s.field.isOpen ch = false ∧ (code = 0 ∨ code = 7) ∧
    s.field.get (Reg.ENC_PHASE ch) ≠ 1)
    ∧ (∃ s : State, ∃ ch : Nat, ∃ code : Nat, ch < 4 ∧ s.field.mode ch = 2 ∧ s.field.isOpen ch = false ∧ (code = 0 ∨ code = 7) ∧
    s.field.get (Reg.ENC_PHASE ch) = 1)
    ∧ (∃ s : State, ∃ ch : Nat, ∃ pair : Nat, ch < 4 ∧ pair < 3 ∧ bit (s.field.inUse ch) pair = true)
    ∧ (∃ s : State, ∃ ch : Nat, ∃ pair : Nat, ch < 4 ∧ pair < 3 ∧ bit (s.field.chan ch).openPairs pair = true)
    ∧ (∃ s : State, ∃ ch : Nat, s.field.isOpen ch = true) :=
  ⟨⟨(fst [((Reg.ENC_CFG.MODE (0 : Nat)), 1)] (st [])), (0 : Nat), by decide +kernel⟩,
    ⟨(fx (fun d => { d with enc := d.enc.put (0 : Nat) { d.chan (0 : Nat) with hall := (some (1 : Nat)) } }) (fst [((Reg.ENC_CFG.MODE (0 : Nat)), 2)] (st []))), (0 : Nat), (0 : Nat), (1 : Nat), (1 : Nat), (3 : Nat), by decide +kernel⟩,
    ⟨(fst [((Reg.ENC_CFG.MODE (0 : Nat)), 2)] (st [])), (0 : Nat), (0 : Nat), by decide +kernel⟩,
    ⟨(fst [((Reg.ENC_CFG.MODE (0 : Nat)), 2), ((Reg.ENC_PHASE (0 : Nat)), 1)] (st [])), (0 : Nat), (0 : Nat), by decide +kernel⟩,
    ⟨(fst [(Reg.ENC_CFG.MODE (0 : Nat), 1)] (st [])), (0 : Nat), (0 : Nat), by decide +kernel⟩,
    ⟨(fx (fun d => d.setChan (0 : Nat) {d.chan (0 : Nat) with openPairs := 1}) (st [])), (0 : Nat), (0 : Nat), by decide +kernel⟩,
    ⟨(fx (fun d => d.setChan (0 : Nat) {d.chan (0 : Nat) with openPairs := 1}) (fst [(Reg.ENC_CFG.MODE (0 : Nat), 2)] (st []))), (0 : Nat), by decide +kernel⟩⟩

theorem wit_IllegalTransitions :
    (∃ s : State, ∃ ch : Nat, ∃ a : Bool, ∃ b : Bool, ch < 4 ∧ s.field.isOpen ch = false ∧ s.field.mode ch = 1 ∧ a ≠ (s.field.chan
    ch).a ∧ b ≠ (s.field.chan ch).b)
    ∧ (∃ s : State, ∃ ch : Nat, ∃ old : Nat, ∃ code : Nat, ∃ i : Nat, ∃ j : Nat, ch < 4 ∧ s.field.isOpen ch = false ∧ s.field.mode ch =
    2 ∧ (s.field.chan ch).hall = some old ∧ hallPlace old = some i ∧ hallPlace code = some j ∧ j ≠ i ∧ j ≠ (i + 1) % 6 ∧ i ≠ (j +
    1) % 6)
    ∧ (∃ s : State, ∃ ch : Nat, ∃ p : Nat, ch < 4 ∧ s.field.isOpen ch = false ∧ ch < 2 ∧ s.field.mode ch = 3 ∧ (s.field.chan ch).thPrev
    = some p ∧ p < 65536 ∧ s.field.get (Reg.ENC_RAW ch) = wrap 32 ((s.field.chan ch).f / 2 ^ (16 - s.field.get
    (Reg.ENC_CFG.INTERP_LOG2 ch)))) :=
  ⟨⟨(fx (fun d => d.setChan (0 : Nat) {d.chan (0 : Nat) with a := false, b := false}) (fst [((Reg.ENC_CFG.MODE (0 : Nat)), 1)] (st []))), (0 : Nat), (true : Bool), (true : Bool), by decide +kernel⟩,
    ⟨(fx (fun d => { d with enc := d.enc.put (0 : Nat) { d.chan (0 : Nat) with hall := (some (1 : Nat)) } }) (fst [((Reg.ENC_CFG.MODE (0 : Nat)), 2)] (st []))), (0 : Nat), (1 : Nat), (6 : Nat), (0 : Nat), (3 : Nat), by decide +kernel⟩,
    ⟨(fx (fun d => { d with enc := d.enc.put (0 : Nat) { d.chan (0 : Nat) with thPrev := (some (0 : Nat)) } }) (fst [((Reg.ENC_CFG.MODE (0 : Nat)), 3)] (st []))), (0 : Nat), (0 : Nat), by decide +kernel⟩⟩

theorem wit_EncoderCommandsAndModes :
    (∃ ch : Nat, ch < 2)
    ∧ (∃ s : State, ∃ ch : Nat, ch < 4 ∧ 10 ≤ s.field.get (Reg.OBS_BW ch) ∧ s.field.get (Reg.OBS_BW ch) ≤ 20000)
    ∧ (∃ s : State, ∃ ch : Nat, ch < 4 ∧ (s.field.get (Reg.OBS_BW ch) < 10 ∨ 20000 < s.field.get (Reg.OBS_BW ch)))
    ∧ (∃ s : State, ∃ ch : Nat, ch < 4 ∧ s.field.mode ch = 1 ∧ s.field.isOpen ch = false ∧ (s.field.chan ch).z = false ∧ s.field.on
    (Reg.ENC_CFG.ZQ_EN ch) = false ∧ s.field.get (Reg.ENC_CFG.ZMODE ch) = 1)
    ∧ (∃ s : State, ∃ ch : Nat, ∃ v : Word, ch < 4 ∧ s.field.encRefused ch 0 v.toNat = false ∧ v.toNat % 8 ≠ s.field.mode ch)
    ∧ (∃ s : State, ∃ ch : Nat, ∃ v : Word, ch < 4 ∧ s.field.encRefused ch 0 v.toNat = true) :=
  ⟨⟨(0 : Nat), by decide +kernel⟩,
    ⟨(st []), (0 : Nat), by decide +kernel⟩,
    ⟨(fst [(Reg.OBS_BW (0 : Nat), 9)] (st [])), (0 : Nat), by decide +kernel⟩,
    ⟨(fx (fun d => { d with enc := d.enc.put (0 : Nat) { d.chan (0 : Nat) with z := (false) } }) (fst [((Reg.ENC_CFG.MODE (0 : Nat)), 1), ((Reg.ENC_CFG.ZQ_EN (0 : Nat)), 0), ((Reg.ENC_CFG.ZMODE (0 : Nat)), 1)] (st []))), (0 : Nat), by decide +kernel⟩,
    ⟨(st []), (0 : Nat), (1#32 : Word), by decide +kernel⟩,
    ⟨(st []), (0 : Nat), (6#32 : Word), by decide +kernel⟩⟩

theorem wit_SerialFramesAndBridging :
    (∃ s : State, ∃ ch : Nat, s.field.serial ch = true ∧ (s.field.chan ch).busy = false)
    ∧ (∃ s : State, ∃ ch : Nat, s.field.serial ch = true ∧ (s.field.chan ch).busy = true ∧ s.field.mode ch = 5)
    ∧ (∃ s : State, ∃ ch : Nat, s.field.serial ch = true ∧ (s.field.chan ch).busy = true ∧ s.field.isOpen ch = true)
    ∧ (∃ s : State, ∃ ch : Nat, ∃ raw, ∃ cause, ∃ w, ∃ warn, s.field.serial ch = true ∧ (s.field.chan ch).busy = true ∧ s.field.isOpen
    ch = false ∧ s.field.frameWord ch raw = (some cause, w, warn))
    ∧ (∃ s : State, ∃ ch : Nat, ∃ raw, ∃ w, ∃ warn, s.field.serial ch = true ∧ (s.field.chan ch).busy = true ∧ s.field.isOpen ch = false
    ∧ s.field.frameWord ch raw = (none, w, warn) ∧ (s.field.chan ch).wPrev = none)
    ∧ (∃ s : State, ∃ ch : Nat, s.field.serial ch = true ∧ s.field.on (Reg.SER_CFG.BRIDGE_EN ch) = true ∧ s.field.on
    (Reg.ENC_STATUS.LOST ch) = false ∧ s.field.on (Reg.ENC_CFG.HYST_EN ch) = false ∧ s.field.isOpen ch = false)
    ∧ (∃ s : State, ∃ ch : Nat, ch < 4 ∧ s.field.held ch = true)
    ∧ (∃ s : State, ∃ ch : Nat, ch < 4 ∧ s.field.held ch = true) :=
  ⟨⟨(fx (fun d => { d with enc := d.enc.put (0 : Nat) { d.chan (0 : Nat) with busy := (false) } }) (fst [(Reg.ENC_CFG.MODE 0, 4)] (st []))), (0 : Nat), by decide +kernel⟩,
    ⟨(fx (fun d => { d with enc := d.enc.put (0 : Nat) { d.chan (0 : Nat) with busy := (true) } }) (fst [((Reg.ENC_CFG.MODE (0 : Nat)), 5)] (st []))), (0 : Nat), by decide +kernel⟩,
    ⟨(fx (fun d => d.setChan 0 {d.chan 0 with openPairs := 1, busy := true}) (fx (fun d => { d with enc := d.enc.put (0 : Nat) { d.chan (0 : Nat) with busy := (true) } }) (fst [(Reg.ENC_CFG.MODE 0, 4), (Reg.ENC_POS 0, 77)] (st [])))), (0 : Nat), by decide +kernel⟩,
    ⟨(fx (fun d => { d with enc := d.enc.put (0 : Nat) { d.chan (0 : Nat) with busy := (true) } }) (fst [(Reg.ENC_CFG.MODE 0, 4), (Reg.SER_CFG.PARITY 0, 1), (Reg.SER_CFG.BITS_M1 0, 7)] (st []))), (0 : Nat), (4 : Nat), (4 : Nat), (2 : Nat), (false), by decide +kernel⟩,
    ⟨(fx (fun d => { d with enc := d.enc.put (0 : Nat) { d.chan (0 : Nat) with busy := (true), wPrev := (none) } }) (fst [(Reg.ENC_CFG.MODE 0, 4), (Reg.SER_CFG.BITS_M1 0, 7)] (st []))), (0 : Nat), (5 : Nat), (5 : Nat), (false), by decide +kernel⟩,
    ⟨(fst [((Reg.SER_CFG.BRIDGE_EN (0 : Nat)), 1), ((Reg.ENC_STATUS.LOST (0 : Nat)), 0), ((Reg.ENC_CFG.HYST_EN (0 : Nat)), 0), (Reg.ENC_CFG.MODE 0, 4)] (st [])), (0 : Nat), by decide +kernel⟩,
    ⟨(fx (fun d => d.setChan 0 {d.chan 0 with openPairs := 1}) (st [])), (0 : Nat), by decide +kernel⟩,
    ⟨(fst [(Reg.ENC_CFG.MODE 0, 4), (Reg.SER_CFG.BRIDGE_EN 0, 1), (Reg.ENC_STATUS.LOST 0, 1), (Reg.ENC_POS 0, 90)] (st [])), (0 : Nat), by decide +kernel⟩⟩

theorem wit_ObserverSinCosRepeater :
    (∃ s : State, ∃ ch : Nat, ∃ n : Nat, ∃ e : Int, e = (if s.field.mode ch ≤ 3 then sext 64 (wrap 64 ((s.field.pos ch : Int) * 2 ^ 32
    - (s.field.chan ch).x)) else if (s.field.chan ch).fresh then sext 64 (wrap 64 ((s.field.get (Reg.ENC_RAW ch) : Int) * 2 ^ 32
    + (s.field.chan ch).v * (n : Int) / 40960 - (s.field.chan ch).x)) else 0) ∧ ch < 4 ∧ 1 ≤ s.field.mode ch ∧ s.field.mode ch ≤
    5 ∧ (4 ≤ s.field.mode ch → s.field.on (Reg.ENC_STATUS.LOST ch) = false))
    ∧ (∃ s : State, ∃ ch : Nat, ∃ sn : Nat, ∃ cs : Nat, ∃ s1 : Int, ∃ c1 : Int, ∃ c2 : Int, s1 = clampS (-16384) 16383 (((sext 14 sn -
    sext 14 (s.field.get (Reg.SC_OFS.OFS_S ch))) * (s.field.get (Reg.SC_GAIN.GAIN_S ch) : Int) + 8192) / 2 ^ 14) ∧ c1 = clampS
    (-16384) 16383 (((sext 14 cs - sext 14 (s.field.get (Reg.SC_OFS.OFS_C ch))) * (s.field.get (Reg.SC_GAIN.GAIN_C ch) : Int) +
    8192) / 2 ^ 14) ∧ c2 = clampS (-16384) 16383 (c1 + (s1 * sext 16 (s.field.get (Reg.SC_PHASE ch)) + 16384) / 2 ^ 15) ∧ ch < 2
    ∧ s.field.mode ch = 3 ∧ s.field.isOpen ch = false)
    ∧ (∃ s : State, ∃ i : Nat, i < 2 ∧ s.field.get (Reg.REP_CTRL.MODE i) = 2 ∧ sdiff (s.field.pos i) (SMap.get (fun _ => {}) s.field.rep
    i : Repeater).r ≠ 0 ∧ (sdiff (s.field.pos i) (SMap.get (fun _ => {}) s.field.rep i : Repeater).r).natAbs ≤ 65535) :=
  ⟨⟨(fst [(Reg.ENC_CFG.MODE (0 : Nat), 1), (Reg.ENC_POS (0 : Nat), 300)] (st [])), (0 : Nat), (0 : Nat), _, rfl, by decide +kernel⟩,
    ⟨(fst [((Reg.ENC_CFG.MODE (0 : Nat)), 3)] (st [])), (0 : Nat), (0 : Nat), (0 : Nat), _, _, _, rfl, rfl, rfl, by decide +kernel⟩,
    ⟨(fst [((Reg.REP_CTRL.MODE (0 : Nat)), 2), (Reg.ENC_POS (0 : Nat), 300)] (st [])), (0 : Nat), by decide +kernel⟩⟩

theorem wit_BarrierFrameRoundTrip :
    ∃ type : Nat, ∃ payload : Nat, ∃ wait : Nat, type < 256 ∧ payload < 2 ^ 64 ∧ wait < 128 :=
  ⟨(0 : Nat), (0 : Nat), (0 : Nat), by decide +kernel⟩

theorem wit_BarrierFrames :
    (∃ s : State, ∃ m : Msg, s.up ∧ s.host.bar.port.hbWin < 63 ∧ pickMsg false s.host.bar.port.tx = some m)
    ∧ (∃ s : State, ∃ j : Nat, s.field.ctl ≠ 0 ∧ s.field.port.hbWin < 63 ∧ j < 8 ∧ (s.field.src j).tick.isSome = true)
    ∧ (∃ s : State, ∃ frame : Nat, s.up ∧ s.host.bar.port.locked = true ∧ (frameRead frame).sync = true ∧ (frameRead frame).good = true
    ∧ typeOk true (frameRead frame).type = true ∧ (frameRead frame).type ≠ 0x10)
    ∧ (∃ s : State, ∃ frame : Nat, s.up ∧ s.host.bar.port.locked = true ∧ (frameRead frame).sync = true ∧ (frameRead frame).good = true
    ∧ (frameRead frame).type = 0x10)
    ∧ (∃ s : State, ∃ frame : Nat, s.up ∧ s.host.bar.port.locked = true ∧ (frameRead frame).sync = true ∧ ((frameRead frame).good =
    false ∨ typeOk true (frameRead frame).type = false))
    ∧ (∃ s : State, ∃ frame : Nat, s.field.ctl ≠ 0 ∧ s.field.port.locked = true ∧ (frameRead frame).sync = true ∧ (frameRead frame).good
    = true ∧ typeOk false (frameRead frame).type = true)
    ∧ (∃ s : State, ∃ frame : Nat, s.field.ctl ≠ 0 ∧ s.field.port.locked = true ∧ (frameRead frame).sync = true ∧ ((frameRead
    frame).good = false ∨ typeOk false (frameRead frame).type = false)) :=
  ⟨⟨(hx (fun h => {h with bar := {h.bar with port := {h.bar.port with tx := [{type := 0x20, payload := 77}]}}}) (st [])), ({type := 0x20, payload := 77} : Msg), by decide +kernel⟩,
    ⟨(fx (fun d => { d with ctl := 1 }) (fx (fun d => d.setSrc (0 : Nat) {d.src (0 : Nat) with tick := some (1, false)}) (st []))), (0 : Nat), by decide +kernel⟩,
    ⟨(hx (fun h => {h with bar := {h.bar with port := {h.bar.port with locked := true}}}) (st [])), ((frameOf 0x12 5 3) : Nat), by decide +kernel⟩,
    ⟨(hx (fun h => {h with bar := {h.bar with port := {h.bar.port with locked := true}}}) (st [])), ((frameOf 0x10 (0x83 + 2 * 256 + 0x81 * 65536) 3) : Nat), by decide +kernel⟩,
    ⟨(hx (fun h => {h with bar := {h.bar with port := {h.bar.port with locked := true}}}) (st [])), ((frameOf 0x12 5 3 + 2^20) : Nat), by decide +kernel⟩,
    ⟨(fx (fun d => { d with ctl := 1, port := {d.port with locked := true} }) (fx (fun d => { d with port := { d.port with locked := (true) } }) (st []))), ((frameOf 0x20 5 3) : Nat), by decide +kernel⟩,
    ⟨(fx (fun d => { d with ctl := 1, port := {d.port with locked := true} }) (fx (fun d => { d with port := { d.port with locked := (true) } }) (st []))), ((frameOf 0x20 5 3 + 2^20) : Nat), by decide +kernel⟩⟩

theorem wit_HostEndMessages :
    (∃ p : BarEnd, ∃ q : BarEnd, ∃ ty : Nat, ∃ m : Msg, p.take ty = some (m, q))
    ∧ (∃ s : State, ∃ j : Nat, ∃ i : Nat, ∃ rest : List Nat, s.up ∧ (s.host.trig j).ticks = i :: rest)
    ∧ (∃ s : State, ∃ m : Msg, ∃ p : BarEnd, s.up ∧ s.host.bar.port.take 0x11 = some (m, p) ∧ m.payload / 4 % 4 = 1 ∧ (s.host.trig
    (m.payload / 16 % 8)).based = false)
    ∧ (∃ s : State, ∃ m : Msg, ∃ p : BarEnd, s.up ∧ s.host.bar.port.take 0x01 = some (m, p))
    ∧ (∃ s : State, ∃ m : Msg, ∃ p : BarEnd, s.up ∧ s.host.bar.port.take 0x12 = some (m, p))
    ∧ (∃ s : State, ∃ m : Msg, ∃ p : BarEnd, s.up ∧ s.host.bar.port.take 0x13 = some (m, p) ∧ (∃ o ∈ s.host.insp.out, o.group =
    m.payload % 8 ∧ o.tag = m.payload / 8 % 1024))
    ∧ (∃ s : State, ∃ m : Msg, ∃ p : BarEnd, s.up ∧ s.host.bar.port.take 0x13 = some (m, p) ∧ (∀ o ∈ s.host.insp.out, ¬ (o.group =
    m.payload % 8 ∧ o.tag = m.payload / 8 % 1024)))
    ∧ (∃ s : State, ∃ m : Msg, ∃ p : BarEnd, s.up ∧ s.host.bar.port.take 0x14 = some (m, p))
    ∧ (∃ s : State, ∃ m : Msg, ∃ p : BarEnd, s.up ∧ s.host.bar.port.take 0x23 = some (m, p))
    ∧ (∃ s : State, s.up ∧ s.host.bar.reqs ≠ [])
    ∧ (∃ s : State, s.open_) :=
  ⟨⟨({rx := [{type := 0x11}, {type := 0x12, payload := 5}]} : BarEnd), ({rx := [{type := 0x11}]} : BarEnd), (0x12 : Nat), ({type := 0x12, payload := 5} : Msg), by decide +kernel⟩,
    ⟨(hx (fun h => h.setTrig (0 : Nat) {h.trig (0 : Nat) with ticks := [7,8], based := true, idx := 7, n := 3, next := 5}) (st [])), (0 : Nat), (7 : Nat), ([8] : List Nat), by decide +kernel⟩,
    ⟨(hx (fun h => {h with bar := {h.bar with port := {h.bar.port with rx := [{type := 0x11, payload := (4 + 16 + 5 * 2^32)}]}}}) (st [])), ({type := 0x11, payload := (4 + 16 + 5 * 2^32)} : Msg), ({} : BarEnd), by decide +kernel⟩,
    ⟨(hx (fun h => {h with bar := {h.bar with port := {h.bar.port with rx := [{type := 0x01, payload := (7 + 65536)}]}}}) (st [])), ({type := 0x01, payload := (7 + 65536)} : Msg), ({} : BarEnd), by decide +kernel⟩,
    ⟨(hx (fun h => {h with bar := {h.bar with port := {h.bar.port with rx := [{type := 0x12, payload := 0x55}]}}}) (st [])), ({type := 0x12, payload := 0x55} : Msg), ({} : BarEnd), by decide +kernel⟩,
    ⟨(hx (fun h => {h with insp := {h.insp with out := [{seq := 3, group := 2, tag := 5}]}}) (hx (fun h => {h with bar := {h.bar with port := {h.bar.port with rx := [{type := 0x13, payload := (2 + 8*5)}]}}}) (st []))), ({type := 0x13, payload := (2 + 8*5)} : Msg), ({} : BarEnd), by decide +kernel⟩,
    ⟨(hx (fun h => {h with bar := {h.bar with port := {h.bar.port with rx := [{type := 0x13, payload := (2 + 8*5)}]}}}) (st [])), ({type := 0x13, payload := (2 + 8*5)} : Msg), ({} : BarEnd), by decide +kernel⟩,
    ⟨(hx (fun h => {h with bar := {h.bar with port := {h.bar.port with rx := [{type := 0x14, payload := 9}]}}}) (st [])), ({type := 0x14, payload := 9} : Msg), ({} : BarEnd), by decide +kernel⟩,
    ⟨(hx (fun h => {h with bar := {h.bar with port := {h.bar.port with rx := [{type := 0x23, payload := (0x200 + 3 * 65536 + 9 * 2^32)}]}, reqs := [{rtag := 3}]}}) (st [])), ({type := 0x23, payload := (0x200 + 3 * 65536 + 9 * 2^32)} : Msg), ({} : BarEnd), by decide +kernel⟩,
    ⟨(hx (fun h => {h with bar := {h.bar with reqs := [{rtag := 3}]}}) (st [])), by decide +kernel⟩,
    ⟨(st [(Reg.DEV_STATUS.READY, 1)]), by decide +kernel⟩⟩

theorem wit_ConfigurationAccesses :
    (∃ s : State, ∃ c : Instr, ∃ m : Msg, ∃ p : BarEnd, ∃ tag : Nat, (c = .cfgWrite ∧ s.field.port.take 0x22 = some (m, p) ∧ tag =
    m.payload / 2 ^ 16 % 256 ∨ c = .cfgRead ∧ s.field.port.take 0x23 = some (m, p) ∧ tag = m.payload / 2 ^ 16 % 256 ∨ c = .doSet
    ∧ s.field.port.take 0x21 = some (m, p) ∧ tag = m.payload / 2 ^ 32 % 256) ∧ s.field.lastTag = some tag)
    ∧ (∃ s : State, ∃ c : Instr, ∃ m : Msg, ∃ p : BarEnd, ∃ tag : Nat, (c = .cfgWrite ∧ s.field.port.take 0x22 = some (m, p) ∧ tag =
    m.payload / 2 ^ 16 % 256 ∨ c = .cfgRead ∧ s.field.port.take 0x23 = some (m, p) ∧ tag = m.payload / 2 ^ 16 % 256 ∨ c = .doSet
    ∧ s.field.port.take 0x21 = some (m, p) ∧ tag = m.payload / 2 ^ 32 % 256) ∧ s.field.lastTag = some tag)
    ∧ (∃ s : State, ∃ c : Instr, ∃ m : Msg, ∃ p : BarEnd, ∃ tag : Nat, (c = .cfgWrite ∧ s.field.port.take 0x22 = some (m, p) ∧ tag =
    m.payload / 2 ^ 16 % 256 ∨ c = .cfgRead ∧ s.field.port.take 0x23 = some (m, p) ∧ tag = m.payload / 2 ^ 16 % 256 ∨ c = .doSet
    ∧ s.field.port.take 0x21 = some (m, p) ∧ tag = m.payload / 2 ^ 32 % 256) ∧ s.field.lastTag = some tag)
    ∧ (∃ s : State, ∃ m : Msg, ∃ p : BarEnd, ∃ off : Nat, ∃ tag : Nat, ∃ v : Word, ∃ w : FieldDie × Bool, off = m.payload % 65536 ∧ tag
    = m.payload / 2 ^ 16 % 256 ∧ v = BitVec.ofNat 32 (m.payload / 2 ^ 32) ∧ w = ({ s.field with port := p } : FieldDie).cfgWrite
    off v ∧ s.field.port.take 0x22 = some (m, p) ∧ s.field.lastTag ≠ some tag)
    ∧ (∃ s : State, ∃ m : Msg, ∃ p : BarEnd, ∃ off : Nat, ∃ tag : Nat, ∃ v : Word, ∃ w : FieldDie × Bool, off = m.payload % 65536 ∧ tag
    = m.payload / 2 ^ 16 % 256 ∧ v = BitVec.ofNat 32 (m.payload / 2 ^ 32) ∧ w = ({ s.field with port := p } : FieldDie).cfgWrite
    off v ∧ s.field.port.take 0x22 = some (m, p) ∧ s.field.lastTag ≠ some tag)
    ∧ (∃ s : State, ∃ m : Msg, ∃ p : BarEnd, ∃ off : Nat, ∃ tag : Nat, off = m.payload % 65536 ∧ tag = m.payload / 2 ^ 16 % 256 ∧
    s.field.port.take 0x23 = some (m, p) ∧ s.field.lastTag ≠ some tag)
    ∧ (∃ s : State, ∃ m : Msg, ∃ p : BarEnd, ∃ tag : Nat, tag = m.payload / 2 ^ 32 % 256 ∧ s.field.port.take 0x21 = some (m, p) ∧
    s.field.lastTag ≠ some tag)
    ∧ (∃ s : State, ∃ m : Msg, ∃ p : BarEnd, ∃ tag : Nat, tag = m.payload / 2 ^ 32 % 256 ∧ s.field.port.take 0x21 = some (m, p) ∧
    s.field.lastTag ≠ some tag)
    ∧ (∃ s : State, ∃ m : Msg, ∃ p : BarEnd, s.up ∧ s.host.bar.port.take 0x23 = some (m, p))
    ∧ (∃ s : State, ∃ m : Msg, ∃ p : BarEnd, s.up ∧ s.host.bar.port.take 0x23 = some (m, p))
    ∧ (∃ s : State, ∃ m : Msg, ∃ p : BarEnd, s.up ∧ s.host.bar.port.take 0x23 = some (m, p))
    ∧ (∃ s : State, ∃ r : CfgReq, ∃ rest : List CfgReq, s.up ∧ s.host.bar.reqs = r :: rest ∧ r.tries < 3)
    ∧ (∃ s : State, ∃ r : CfgReq, ∃ rest : List CfgReq, s.up ∧ s.host.bar.reqs = r :: rest ∧ 3 ≤ r.tries) :=
  ⟨⟨(fx (fun d => {d with port := {d.port with rx := [{type := 0x22, payload := (0x200 + 3 * 65536 + 9 * 2^32)}]}, lastTag := some 3}) (fx (fun d => { d with lastTag := (some (3 : Nat)) }) (st []))), (.cfgWrite : Instr), ({type := 0x22, payload := (0x200 + 3 * 65536 + 9 * 2^32)} : Msg), ({} : BarEnd), (3 : Nat), by decide +kernel⟩,
    ⟨(fx (fun d => {d with port := {d.port with rx := [{type := 0x23, payload := (0x200 + 3 * 65536)}]}, lastTag := some 3}) (fx (fun d => { d with lastTag := (some (3 : Nat)) }) (st []))), (.cfgRead : Instr), ({type := 0x23, payload := (0x200 + 3 * 65536)} : Msg), ({} : BarEnd), (3 : Nat), by decide +kernel⟩,
    ⟨(fx (fun d => { d with ctl := 1 }) (fx (fun d => {d with port := {d.port with rx := [{type := 0x21, payload := (1 + 3 * 2^32 + 65536)}]}, lastTag := some 3}) (fx (fun d => { d with lastTag := (some (3 : Nat)) }) (st [])))), (.doSet : Instr), ({type := 0x21, payload := (1 + 3 * 2^32 + 65536)} : Msg), ({} : BarEnd), (3 : Nat), by decide +kernel⟩,
    ⟨(fx (fun d => { d with ctl := 1 }) (fx (fun d => {d with port := {d.port with rx := [{type := 0x22, payload := (0x200 + 3 * 65536 + 9 * 2^32)}]}}) (st []))), ({type := 0x22, payload := (0x200 + 3 * 65536 + 9 * 2^32)} : Msg), ({} : BarEnd), _, _, _, _, rfl, rfl, rfl, rfl, by decide +kernel⟩,
    ⟨(fx (fun d => {d with port := {d.port with rx := [{type := 0x22, payload := ((Reg.WG_LATE 3).addr - 0xE0000 + 4 * 65536 + 7 * 2^32)}]}}) (fst [(Reg.WG_LATE 3, 9)] (st []))), ({type := 0x22, payload := ((Reg.WG_LATE 3).addr - 0xE0000 + 4 * 65536 + 7 * 2^32)} : Msg), ({} : BarEnd), _, _, _, _, rfl, rfl, rfl, rfl, by decide +kernel⟩,
    ⟨(fx (fun d => { d with ctl := 1 }) (fx (fun d => {d with port := {d.port with rx := [{type := 0x23, payload := (0x200 + 3 * 65536)}]}}) (st []))), ({type := 0x23, payload := (0x200 + 3 * 65536)} : Msg), ({} : BarEnd), _, _, rfl, rfl, by decide +kernel⟩,
    ⟨(fx (fun d => { d with ctl := 1 }) (fx (fun d => {d with port := {d.port with rx := [{type := 0x21, payload := (3 + 5 * 2^32 + 3 * 65536)}]}}) (fst [(Reg.FLD_STATUS.SAFE, 0), (⟨Reg.DO_MODE.addr, 0, 2⟩, 1)] (st [])))), ({type := 0x21, payload := (3 + 5 * 2^32 + 3 * 65536)} : Msg), ({} : BarEnd), _, rfl, by decide +kernel⟩,
    ⟨(fx (fun d => {d with port := {d.port with rx := [{type := 0x21, payload := (1 + 3 * 2^32 + 65536 )}]}}) (st [])), ({type := 0x21, payload := (1 + 3 * 2^32 + 65536 )} : Msg), ({} : BarEnd), _, rfl, by decide +kernel⟩,
    ⟨(hx (fun h => {h with bar := {h.bar with port := {h.bar.port with rx := [{type := 0x23, payload := (0x200 + 3 * 65536 + 9 * 2^32)}]}, reqs := [{rtag := 3, read := true}, {rtag := 4}]}}) (st [])), ({type := 0x23, payload := (0x200 + 3 * 65536 + 9 * 2^32)} : Msg), ({} : BarEnd), by decide +kernel⟩,
    ⟨(hx (fun h => {h with bar := {h.bar with port := {h.bar.port with rx := [{type := 0x23, payload := (0x200 + 3 * 65536 + 9 * 2^32)}]}, reqs := [{rtag := 3}]}}) (st [])), ({type := 0x23, payload := (0x200 + 3 * 65536 + 9 * 2^32)} : Msg), ({} : BarEnd), by decide +kernel⟩,
    ⟨(hx (fun h => {h with bar := {h.bar with port := {h.bar.port with rx := [{type := 0x23, payload := (0x200 + 3 * 65536 + 9 * 2^32)}]}}}) (st [])), ({type := 0x23, payload := (0x200 + 3 * 65536 + 9 * 2^32)} : Msg), ({} : BarEnd), by decide +kernel⟩,
    ⟨(hx (fun h => {h with bar := {h.bar with reqs := [{rtag := 3}]}}) (hx (fun h => { h with bar := { h.bar with reqs := (({rtag := 3} : CfgReq) :: ([] : List CfgReq)) } }) (st []))), ({rtag := 3} : CfgReq), ([] : List CfgReq), by decide +kernel⟩,
    ⟨(hx (fun h => {h with bar := {h.bar with reqs := [{rtag := 3, tries := 3}]}}) (hx (fun h => { h with bar := { h.bar with reqs := (({rtag := 3, tries := 3} : CfgReq) :: ([] : List CfgReq)) } }) (st []))), ({rtag := 3, tries := 3} : CfgReq), ([] : List CfgReq), by decide +kernel⟩⟩

theorem wit_WeirEntriesAndFiring :
    (∃ s : State, ∃ m : Msg, ∃ p : BarEnd, ∃ g : Nat, ∃ c : Nat, ∃ tag : Nat, ∃ first : Nat, ∃ num : Nat, g = m.payload / 2 ^ 32 % 8 ∧
    c = m.payload % 2 ^ 32 ∧ tag = m.payload / 2 ^ 54 % 1024 ∧ first = m.payload / 2 ^ 35 % 256 ∧ num = m.payload / 2 ^ 43 % 256
    ∧ s.field.port.take 0x20 = some (m, p) ∧ s.field.safe = false ∧ ((s.field.grp g).expect = none ∨ (s.field.grp g).expect =
    some tag) ∧ s.field.on (Reg.WG_CFG.EN g) = true ∧ first + num ≤ (if g < 4 then 255 else 19) ∧ (∀ l, (s.field.grp g).lastC =
    some l → 0 ≤ sdiff c l) ∧ s.field.weirUsed < 4096 ∧ s.field.lateness g c ≤ (s.field.get (Reg.WG_LATE g) : Int))
    ∧ (∃ s : State, ∃ m : Msg, ∃ p : BarEnd, s.field.port.take 0x20 = some (m, p) ∧ s.field.safe = true)
    ∧ (∃ s : State, ∃ g : Nat, ∃ e : WeirEntry, ∃ rest : List WeirEntry, g < 8 ∧ (s.field.grp g).fifo = e :: rest ∧ 0 ≤ s.field.lateness
    g e.c)
    ∧ (∃ s : State, ∃ g : Nat, ∃ e : WeirEntry, ∃ rest : List WeirEntry, g < 8 ∧ (s.field.grp g).fifo = e :: rest ∧ s.field.lateness g
    e.c < 0)
    ∧ (∃ s : State, ∃ g : Nat, ∃ out : Nat, ∃ now : Nat, ∃ x : Pulse, s.field.pulses.find (if g < 4 then g * 256 + out else 1024 + out)
    = some x ∧ (∀ u, x.cyc = some u → u ≤ now) ∧ (∀ c, x.cnt = some c → 0 ≤ sdiff (s.field.pos (s.field.get (Reg.WG_CFG.CH g))) c)) :=
  ⟨⟨(fx (fun d => {d with port := {d.port with rx := [{type := 0x20, payload := (1000 + 2 * 2^32 + 3 * 2^35 + 4 * 2^43 + 2^51 + 1 * 2^54)}]}}) (fx (fun d => { d with weir := d.weir.put (({type := 0x20, payload := (1000 + 2 * 2^32 + 3 * 2^35 + 4 * 2^43 + 2^51 + 1 * 2^54)} : Msg).payload / 2 ^ 32 % 8) { d.grp (({type := 0x20, payload := (1000 + 2 * 2^32 + 3 * 2^35 + 4 * 2^43 + 2^51 + 1 * 2^54)} : Msg).payload / 2 ^ 32 % 8) with expect := (none) } }) (fst [(Reg.FLD_STATUS.SAFE, 0), ((Reg.WG_CFG.EN (({type := 0x20, payload := (1000 + 2 * 2^32 + 3 * 2^35 + 4 * 2^43 + 2^51 + 1 * 2^54)} : Msg).payload / 2 ^ 32 % 8)), 1), (Reg.FLD_STATUS.SAFE, 0), (Reg.WG_CFG.EN 2, 1)] (st [])))), ({type := 0x20, payload := (1000 + 2 * 2^32 + 3 * 2^35 + 4 * 2^43 + 2^51 + 1 * 2^54)} : Msg), ({} : BarEnd), _, _, _, _, _, rfl, rfl, rfl, rfl, rfl, by decide +kernel⟩,
    ⟨(fx (fun d => {d with port := {d.port with rx := [{type := 0x20, payload := (1000 + 2 * 2^32)}]}}) (fst [(Reg.FLD_STATUS.SAFE, 1)] (st []))), ({type := 0x20, payload := (1000 + 2 * 2^32)} : Msg), ({} : BarEnd), by decide +kernel⟩,
    ⟨(fx (fun d => {d with weir := d.weir.put (0 : Nat) {d.grp (0 : Nat) with fifo := [{tag := 1, c := 0, first := 2, numM1 := 1}]}}) (fx (fun d => { d with weir := d.weir.put (0 : Nat) { d.grp (0 : Nat) with fifo := (({tag := 1, c := 0, first := 2, numM1 := 1} : WeirEntry) :: ([] : List WeirEntry)) } }) (st []))), (0 : Nat), ({tag := 1, c := 0, first := 2, numM1 := 1} : WeirEntry), ([] : List WeirEntry), by decide +kernel⟩,
    ⟨(fx (fun d => {d with weir := d.weir.put (0 : Nat) {d.grp (0 : Nat) with fifo := [{tag := 1, c := 9}]}}) (fx (fun d => { d with weir := d.weir.put (0 : Nat) { d.grp (0 : Nat) with fifo := (({tag := 1, c := 9} : WeirEntry) :: ([] : List WeirEntry)) } }) (st []))), (0 : Nat), ({tag := 1, c := 9} : WeirEntry), ([] : List WeirEntry), by decide +kernel⟩,
    ⟨(fx (fun d => {d with pulses := [(0, {cyc := some 4})]}) (st [])), (0 : Nat), (0 : Nat), (9 : Nat), ({cyc := some 4} : Pulse), by decide +kernel⟩⟩

theorem wit_FieldOutputsAndInputs :
    (∃ s : State, ∃ i : Nat, i < 4 ∧ 0 < (s.field.strobe i).due ∧ s.field.get (Reg.STB_CFG.MODE i) = 1)
    ∧ (∃ s : State, ∃ p : Nat, p < 4 ∧ (s.field.valve p).drain = 0 ∧ s.field.on (Reg.VB_CFG.EN p) = true ∧ s.field.safe = false)
    ∧ (∃ s : State, ∃ i : Nat, i < 16 ∧ bit s.field.limited i = true)
    ∧ (∃ s : State, ∃ ok : Bool, s.field.get Reg.FLD_STATUS.LP_OK ≠ b2n ok)
    ∧ (∃ s : State, ∃ i : Nat, i < 4 ∧ s.field.mode i ≠ 0 ∧ s.field.get Reg.FLD_CTRL.SNAP_PERIOD ≠ 0 ∧ s.field.ctl ≠ 0)
    ∧ (∃ s : State, ∃ i : Nat, i < 8 ∧ s.field.on (Reg.TRIG_CFG.EN i) = true ∧ s.field.ctl ≠ 0)
    ∧ (∃ s : State, ∃ m : Msg, ∃ p : BarEnd, s.field.port.take 0x21 = some (m, p))
    ∧ (∃ s : State, ∃ m : Msg, ∃ p : BarEnd, s.field.port.take 0x22 = some (m, p))
    ∧ (∃ s : State, ∃ m : Msg, ∃ p : BarEnd, s.field.port.take 0x23 = some (m, p)) :=
  ⟨⟨(fx (fun d => d.setStrobe (0 : Nat) {d.strobe (0 : Nat) with due := 2}) (fx (fun d => { d with strobes := d.strobes.put (0 : Nat) { d.strobe (0 : Nat) with due := ((0 + 1)) } }) (fst [((Reg.STB_CFG.MODE (0 : Nat)), 1)] (st [])))), (0 : Nat), by decide +kernel⟩,
    ⟨(fx (fun d => { d with valves := d.valves.put (1 : Nat) { d.valve (1 : Nat) with drain := (0) } }) (fst [((Reg.VB_CFG.EN (1 : Nat)), 1), (Reg.FLD_STATUS.SAFE, 0), (Reg.VB_STATUS.ACTIVE (1 : Nat), 1)] (st []))), (1 : Nat), by decide +kernel⟩,
    ⟨(fx (fun d => { d with limited := 1 }) (st [])), (0 : Nat), by decide +kernel⟩,
    ⟨(st []), (true : Bool), by decide +kernel⟩,
    ⟨(fx (fun d => { d with ctl := 1 }) (fst [(Reg.ENC_CFG.MODE (0 : Nat), 1)] (st []))), (0 : Nat), by decide +kernel⟩,
    ⟨(fx (fun d => { d with ctl := 1 }) (fst [((Reg.TRIG_CFG.EN (0 : Nat)), 1), (Reg.TRIG_CFG.EN (0 : Nat), 1)] (st []))), (0 : Nat), by decide +kernel⟩,
    ⟨(fx (fun d => {d with port := {d.port with rx := [{type := 0x21, payload := (1 + 3 * 2^32 + 65536)}]}}) (st [])), ({type := 0x21, payload := (1 + 3 * 2^32 + 65536)} : Msg), ({} : BarEnd), by decide +kernel⟩,
    ⟨(fx (fun d => {d with port := {d.port with rx := [{type := 0x22, payload := (0x200 + 3 * 65536 + 9 * 2^32)}]}}) (st [])), ({type := 0x22, payload := (0x200 + 3 * 65536 + 9 * 2^32)} : Msg), ({} : BarEnd), by decide +kernel⟩,
    ⟨(fx (fun d => {d with port := {d.port with rx := [{type := 0x23, payload := (0x200 + 3 * 65536)}]}}) (st [])), ({type := 0x23, payload := (0x200 + 3 * 65536)} : Msg), ({} : BarEnd), by decide +kernel⟩⟩

theorem wit_SafeStateAndFieldBoot :
    (∃ s : State, s.field.safe = false)
    ∧ (∃ s : State, s.field.safe = false)
    ∧ (∃ s : State, ∃ m : Msg, ∃ p : BarEnd, s.field.port.take 1 = some (m, p) ∧ s.field.safe = true ∧ s.field.ctl = 2 ∧ bit m.payload
    16 = true ∧ p.hbSeen.map nextHbSeq = some (m.payload % 65536) ∧ 64 ≤ s.field.hbRun)
    ∧ (∃ s : State, ∃ m : Msg, ∃ p : BarEnd, s.field.port.take 1 = some (m, p) ∧ s.field.safe = true ∧ s.field.hbRun < 64)
    ∧ (∃ s : State, s.field.ctl = 0)
    ∧ (∃ s : State, s.field.ctl ≠ 0 ∧ s.field.loadFails < 3)
    ∧ (∃ s : State, s.field.ctl = 1 ∧ s.field.image.length + 4 ≤ 262144)
    ∧ (∃ s : State, ∃ want : List Byte, s.field.ctl = 1 ∧ s.field.loadFails < 3 ∧ sha3 s.field.image = want)
    ∧ (∃ s : State, ∃ want : List Byte, s.field.ctl = 1 ∧ s.field.loadFails < 3 ∧ sha3 s.field.image ≠ want) :=
  ⟨⟨(fx (fun d => { d with ctl := 2 }) (fst [(Reg.FLD_STATUS.SAFE, 0), (Reg.FLD_STATUS.SAFE, 0)] (st []))), by decide +kernel⟩,
    ⟨(fx (fun d => { d with ctl := 2 }) (hx (fun h => {h with bar := {h.bar with port := {h.bar.port with locked := true}}}) (fst [(Reg.FLD_STATUS.SAFE, 0), (Reg.FLD_STATUS.SAFE, 0)] (st [])))), by decide +kernel⟩,
    ⟨(fx (fun d => {d with port := {d.port with hbSeen := some 4, rx := [{type := 1, payload := (5 + 65536)}]}, ctl := 2, hbRun := 64}) (hx (fun h => h) (fx (fun d => { d with ctl := (2) }) (fst [(Reg.FLD_STATUS.SAFE, 1)] (st []))))), ({type := 1, payload := (5 + 65536)} : Msg), ({hbSeen := some 4} : BarEnd), by decide +kernel⟩,
    ⟨(fx (fun d => {d with port := {d.port with rx := [{type := 1, payload := (5 + 65536)}]}}) (fst [(Reg.FLD_STATUS.SAFE, 1)] (st []))), ({type := 1, payload := (5 + 65536)} : Msg), ({} : BarEnd), by decide +kernel⟩,
    ⟨(fx (fun d => { d with ctl := (0) }) (st [])), by decide +kernel⟩,
    ⟨(fx (fun d => { d with ctl := 1 }) (st [])), by decide +kernel⟩,
    ⟨(fx (fun d => { d with ctl := (1) }) (st [])), by decide +kernel⟩,
    ⟨(fx (fun d => { d with ctl := (1) }) (st [])), ((sha3 []) : List Byte), by decide +kernel⟩,
    ⟨(fx (fun d => { d with ctl := (1) }) (st [])), ([1] : List Byte), by decide +kernel⟩⟩

theorem wit_ComputeCommands :
    (∃ s : State, ∃ c : Nat, ∃ site : Nat, ∃ w : Nat, ∃ timed : Bool, s.running ∧ s.issues c site w timed ∧ hb w 0 7 0 = 0)
    ∧ (∃ s : State, ∃ c : Nat, ∃ site : Nat, ∃ w : Nat, ∃ timed : Bool, s.running ∧ s.issues c site w timed ∧ hb w 0 7 0 = 0)
    ∧ (∃ s : State, ∃ c : Nat, ∃ site : Nat, ∃ w : Nat, ∃ timed : Bool, s.running ∧ s.issues c site w timed ∧ 14 < hb w 0 7 0)
    ∧ (∃ s : State, ∃ c : Nat, ∃ site : Nat, ∃ w : Nat, ∃ timed : Bool, ∃ x : Ecc, ∃ sp : Store, ∃ o : UnitOut, ∃ b : Nat, sp = x.left
    (s.host.core site).spad ∧ b = hb w 1 4 4 ∧ o = mmaRun w sp.mem ((s.host.core site).bank b) ∧ s.running ∧ s.issues c site w
    timed ∧ hb w 0 7 0 = 3 ∧ x.ue = [] ∧ mmaInvalid w ((s.host.core site).bank b).ty = none)
    ∧ (∃ s : State, ∃ c : Nat, ∃ site : Nat, ∃ w : Nat, ∃ timed : Bool, ∃ x : Ecc, ∃ sp : Store, ∃ o : UnitOut, sp = x.left (s.host.core
    site).spad ∧ o = drainRun w sp.mem ((s.host.core site).bank (hb w 1 4 4)) ∧ s.running ∧ s.issues c site w timed ∧ hb w 0 7 0
    = 4 ∧ x.ue = [] ∧ drainInvalid w = none ∧ (∀ f ∈ (s.host.core site).flights, f.bank ≠ some (hb w 1 4 4)))
    ∧ (∃ s : State, ∃ c : Nat, ∃ site : Nat, ∃ w : Nat, ∃ timed : Bool, ∃ x : Ecc, ∃ sp : Store, ∃ o : UnitOut, sp = x.left (s.host.core
    site).spad ∧ o = vopRun w sp.mem ∧ s.running ∧ s.issues c site w timed ∧ hb w 0 7 0 = 5 ∧ vopInvalid w = none ∧ x.ue = [])
    ∧ (∃ s : State, ∃ c : Nat, ∃ site : Nat, ∃ w : Nat, ∃ timed : Bool, ∃ x : Ecc, ∃ sp : Store, ∃ o : UnitOut, sp = x.left (s.host.core
    site).spad ∧ o = vopRun w sp.mem ∧ s.running ∧ s.issues c site w timed ∧ hb w 0 7 0 = 5 ∧ vopInvalid w = none ∧ x.ue ≠ [])
    ∧ (∃ s : State, ∃ c : Nat, ∃ site : Nat, ∃ w : Nat, ∃ timed : Bool, ∃ x : Ecc, ∃ sp : Store, ∃ o : UnitOut, sp = x.left (s.host.core
    site).spad ∧ o = vopRun w sp.mem ∧ s.running ∧ s.issues c site w timed ∧ hb w 0 7 0 = 5 ∧ vopInvalid w = none ∧ x.ue ≠ [])
    ∧ (∃ s : State, ∃ c : Nat, ∃ site : Nat, ∃ w : Nat, ∃ timed : Bool, ∃ x : Ecc, ∃ sp : Store, ∃ o : UnitOut, sp = x.left (s.host.core
    site).spad ∧ o = vlutRun w sp.mem ∧ s.running ∧ s.issues c site w timed ∧ hb w 0 7 0 = 6 ∧ x.ue = [] ∧ vlutInvalid w = none)
    ∧ (∃ s : State, ∃ c : Nat, ∃ site : Nat, ∃ w : Nat, ∃ timed : Bool, ∃ x : Ecc, ∃ sp : Store, ∃ o : UnitOut, sp = x.left (s.host.core
    site).spad ∧ o = vsortRun w sp.mem ∧ s.running ∧ s.issues c site w timed ∧ hb w 0 7 0 = 7 ∧ x.ue = [] ∧ vsortInvalid w = none)
    ∧ (∃ s : State, ∃ c : Nat, ∃ site : Nat, ∃ w : Nat, ∃ timed : Bool, ∃ x : Ecc, ∃ sp : Store, ∃ d : WinDesc, ∃ o : UnitOut, sp =
    x.left (s.host.core site).spad ∧ d = ⟨sp.mem.le (hb w 1 14 0 * 64) 64⟩ ∧ o = convRun d sp.mem ((s.host.core site).bank (d.b 1
    0 0)) ∧ s.running ∧ s.issues c site w timed ∧ hb w 0 7 0 = 8 ∧ x.ue = [] ∧ sp.useFails (hb w 1 14 0 * 64) 64 = none ∧
    winInvalid d ((s.host.core site).bank (d.b 1 0 0)).ty = none ∧ d.mode = 0)
    ∧ (∃ s : State, ∃ c : Nat, ∃ site : Nat, ∃ w : Nat, ∃ timed : Bool, ∃ x : Ecc, ∃ sp : Store, ∃ d : WinDesc, ∃ o : UnitOut, sp =
    x.left (s.host.core site).spad ∧ d = ⟨sp.mem.le (hb w 1 14 0 * 64) 64⟩ ∧ o = winVecRun d sp.mem ∧ s.running ∧ s.issues c site
    w timed ∧ hb w 0 7 0 = 8 ∧ x.ue = [] ∧ sp.useFails (hb w 1 14 0 * 64) 64 = none ∧ winInvalid d ((s.host.core site).bank (d.b
    1 0 0)).ty = none ∧ d.mode ≠ 0) :=
  ⟨⟨(hx (fun h => { (h.setCore 0 { frames := [{ hdr := 0, pos := 0, count := 2, timed := false }], cur := some { data := (Mem.setLE [] 16 16 0x0) } }) with insp := { h.insp with siteOf := [(0,0)] } }) (st [(Reg.CORE_STATUS.STATE 0, 1)])), (0 : Nat), (0 : Nat), (0x0 : Nat), (false : Bool), by decide +kernel⟩,
    ⟨(hx (fun h => { (h.setCore 70 { frames := [{ hdr := 0, pos := 0, count := 2, timed := true }], cur := some { data := (Mem.setLE [] 16 16 0x200) } }) with insp := { h.insp with siteOf := [(60,70)] } }) (st [(Reg.CORE_STATUS.STATE 70, 2)])), (60 : Nat), (70 : Nat), (0x200 : Nat), (true : Bool), by decide +kernel⟩,
    ⟨(hx (fun h => { (h.setCore 0 { frames := [{ hdr := 0, pos := 0, count := 2, timed := false }], cur := some { data := (Mem.setLE [] 16 16 0x3F) } }) with insp := { h.insp with siteOf := [(0,0)] } }) (st [(Reg.CORE_STATUS.STATE 0, 1)])), (0 : Nat), (0 : Nat), (0x3F : Nat), (false : Bool), by decide +kernel⟩,
    ⟨(hx (fun h => { (h.setCore 0 { frames := [{ hdr := 0, pos := 0, count := 2, timed := false }], cur := some { data := (Mem.setLE [] 16 16 0x100000002000000010003) } }) with insp := { h.insp with siteOf := [(0,0)] } }) (st [(Reg.CORE_STATUS.STATE 0, 1)])), (0 : Nat), (0 : Nat), (0x100000002000000010003 : Nat), (false : Bool), ({} : Ecc), _, _, _, rfl, rfl, rfl, by decide +kernel⟩,
    ⟨(hx (fun h => { (h.setCore 0 { frames := [{ hdr := 0, pos := 0, count := 2, timed := false }], cur := some { data := (Mem.setLE [] 16 16 0x100000010000000020004) } }) with insp := { h.insp with siteOf := [(0,0)] } }) (st [(Reg.CORE_STATUS.STATE 0, 1)])), (0 : Nat), (0 : Nat), (0x100000010000000020004 : Nat), (false : Bool), ({} : Ecc), _, _, rfl, rfl, by decide +kernel⟩,
    ⟨(hx (fun h => { (h.setCore 0 { frames := [{ hdr := 0, pos := 0, count := 2, timed := false }], cur := some { data := (Mem.setLE [] 16 16 0x300200010000000110005) } }) with insp := { h.insp with siteOf := [(0,0)] } }) (st [(Reg.CORE_STATUS.STATE 0, 1)])), (0 : Nat), (0 : Nat), (0x300200010000000110005 : Nat), (false : Bool), ({} : Ecc), _, _, rfl, rfl, by decide +kernel⟩,
    ⟨(hx (fun h => { (h.setCore 0 { frames := [{ hdr := 0, pos := 0, count := 2, timed := false }], cur := some { data := (Mem.setLE [] 16 16 0x300200010000000110005) } }) with insp := { h.insp with siteOf := [(0,0)] } }) (st [(Reg.CORE_STATUS.STATE 0, 1)])), (0 : Nat), (0 : Nat), (0x300200010000000110005 : Nat), (false : Bool), ({ ue := [(64, 5)] } : Ecc), _, _, rfl, rfl, by decide +kernel⟩,
    ⟨(hx (fun h => { (h.setCore 0 { frames := [{ hdr := 0, pos := 0, count := 2, timed := true }], cur := some { data := (Mem.setLE [] 16 16 0x300200010000000110005) } }) with insp := { h.insp with siteOf := [(0,0)] } }) (st [(Reg.CORE_STATUS.STATE 0, 2)])), (0 : Nat), (0 : Nat), (0x300200010000000110005 : Nat), (true : Bool), ({ ue := [(64, 5)] } : Ecc), _, _, rfl, rfl, by decide +kernel⟩,
    ⟨(hx (fun h => { (h.setCore 0 { frames := [{ hdr := 0, pos := 0, count := 2, timed := false }], cur := some { data := (Mem.setLE [] 16 16 0x300200040000000110006) } }) with insp := { h.insp with siteOf := [(0,0)] } }) (st [(Reg.CORE_STATUS.STATE 0, 1)])), (0 : Nat), (0 : Nat), (0x300200040000000110006 : Nat), (false : Bool), ({} : Ecc), _, _, rfl, rfl, by decide +kernel⟩,
    ⟨(hx (fun h => { (h.setCore 0 { frames := [{ hdr := 0, pos := 0, count := 2, timed := false }], cur := some { data := (Mem.setLE [] 16 16 0x300200010000000010007) } }) with insp := { h.insp with siteOf := [(0,0)] } }) (st [(Reg.CORE_STATUS.STATE 0, 1)])), (0 : Nat), (0 : Nat), (0x300200010000000010007 : Nat), (false : Bool), ({} : Ecc), _, _, rfl, rfl, by decide +kernel⟩,
    ⟨(hx (fun h => { (h.setCore 0 { frames := [{ hdr := 0, pos := 0, count := 2, timed := false }], cur := some { data := (Mem.setLE [] 16 16 0x10008) }, spad := { mem := (Mem.setLE [] 64 64 0x100200001003000000003000000000000000000010001001000000003000000000000000300000000000000000101) } }) with insp := { h.insp with siteOf := [(0,0)] } }) (st [(Reg.CORE_STATUS.STATE 0, 1)])), (0 : Nat), (0 : Nat), (0x10008 : Nat), (false : Bool), ({} : Ecc), _, _, _, rfl, rfl, rfl, by decide +kernel⟩,
    ⟨(hx (fun h => { (h.setCore 0 { frames := [{ hdr := 0, pos := 0, count := 2, timed := false }], cur := some { data := (Mem.setLE [] 16 16 0x10008) }, spad := { mem := (Mem.setLE [] 64 64 0x100200000000000000003000000000000000000010001001000000003000000000000000300000000000000001121) } }) with insp := { h.insp with siteOf := [(0,0)] } }) (st [(Reg.CORE_STATUS.STATE 0, 1)])), (0 : Nat), (0 : Nat), (0x10008 : Nat), (false : Bool), ({} : Ecc), _, _, _, rfl, rfl, rfl, by decide +kernel⟩⟩

theorem wit_CoreControlFlow :
    (∃ s : State, ∃ c : Nat, ∃ site : Nat, ∃ w : Nat, ∃ timed : Bool, s.running ∧ s.issues c site w timed ∧ hb w 0 7 0 = 9 ∧ reached
    (s.host.token site (hb w 1 3 0)) (hw w 2) = true)
    ∧ (∃ s : State, ∃ c : Nat, ∃ site : Nat, ∃ w : Nat, ∃ timed : Bool, s.running ∧ s.issues c site w timed ∧ hb w 0 7 0 = 9 ∧ reached
    (s.host.token site (hb w 1 3 0)) (hw w 2) = false)
    ∧ (∃ s : State, ∃ c : Nat, ∃ site : Nat, ∃ w : Nat, ∃ timed : Bool, s.running ∧ s.issues c site w timed ∧ hb w 0 7 0 = 10)
    ∧ (∃ s : State, ∃ c : Nat, ∃ site : Nat, ∃ w : Nat, ∃ timed : Bool, ∃ addr : Nat, ∃ count : Nat, ∃ bs : List Byte, ∃ ecc : Ecc, addr
    = hw w 2 + hw w 3 * 2 ^ 16 + hw w 4 * 2 ^ 32 ∧ s.running ∧ s.issues c site w timed ∧ hb w 0 7 0 = 11 ∧ ecc.ue = [] ∧ ecc.alt
    = [] ∧ (s.host.core site).frames.length ≤ 4 ∧ callAddrOk s.variant (hb w 1 3 0) addr = true ∧ s.host.listMem site (c / 8) (hb
    w 1 3 0) addr 16 = some (bs, none) ∧ hb (leNat bs) 0 3 0 = 1 ∧ (hb (leNat bs) 0 4 4 = 1 ↔ timed = true) ∧ count = hw (leNat
    bs) 1 + hw (leNat bs) 2 * 65536 ∧ count ≠ 0 ∧ (s.host.fetchTile site (c / 8) (hb w 1 3 0) (addr + 16)).bad = false)
    ∧ (∃ s : State, ∃ c : Nat, ∃ site : Nat, ∃ w : Nat, ∃ timed : Bool, s.running ∧ s.issues c site w timed ∧ hb w 0 7 0 = 11 ∧ 5 ≤
    (s.host.core site).frames.length ∧ timed = false)
    ∧ (∃ s : State, ∃ c : Nat, ∃ site : Nat, ∃ w : Nat, ∃ timed : Bool, ∃ f, ∃ rest, s.running ∧ s.issues c site w timed ∧ hb w 0 7 0 =
    12 ∧ (s.host.core site).frames = f :: rest ∧ rest ≠ [])
    ∧ (∃ s : State, ∃ c : Nat, ∃ site : Nat, ∃ w : Nat, ∃ timed : Bool, ∃ f, ∃ rest, s.running ∧ s.issues c site w timed ∧ hb w 0 7 0 =
    12 ∧ (s.host.core site).frames = f :: rest ∧ rest = [] ∧ (s.host.core site).flights = [] ∧ (s.host.core site).xfers = [] ∧
    SMap.get (fun _ => 0) s.host.insp.iterPend c = 0)
    ∧ (∃ s : State, ∃ c : Nat, ∃ site : Nat, ∃ w : Nat, ∃ timed : Bool, s.running ∧ s.issues c site w timed ∧ hb w 0 7 0 = 13 ∧ timed =
    false ∧ (s.host.core site).preempt = true ∧ (s.host.core site).flights = [] ∧ (∀ x ∈ (s.host.core site).xfers, x.load = true
    ∧ x.space = 4))
    ∧ (∃ s : State, ∃ c : Nat, ∃ site : Nat, ∃ w : Nat, ∃ timed : Bool, s.running ∧ s.issues c site w timed ∧ hb w 0 7 0 = 13 ∧ (timed =
    true ∨ (s.host.core site).preempt = false))
    ∧ (∃ s : State, ∃ c : Nat, ∃ site : Nat, ∃ tok : Nat, ∃ v : Nat, ∃ sig : Option Nat, s.running ∧ site < 72 ∧ s.host.siteOf c = some
    site ∧ s.host.coreState site = 3 ∧ (s.host.core site).waiting = some (tok, v, sig) ∧ reached (s.host.token site tok) v = true
    ∧ (∀ x, (s.host.core site).pcTile = some x → x.bad = false))
    ∧ (∃ s : State, ∃ c : Nat, ∃ site : Nat, ∃ f : Frame, ∃ rest : List Frame, s.running ∧ site < 72 ∧ s.host.siteOf c = some site ∧
    (s.host.coreState site = 1 ∨ s.host.coreState site = 2) ∧ (s.host.core site).frames = f :: rest ∧ f.pos < f.count ∧
    (s.host.core site).pcTile = none ∧ (f.space ≠ 2 ∨ s.host.hbmUp = true) ∧ (∀ x, (s.host.core site).fetchNow = some x →
    x.moved_ c = true ∧ x.dropped = false) ∧ (s.host.fetchTile site (c / 8) f.space (f.pc / 2048 * 2048)).bad = false)
    ∧ (∃ s : State, ∃ c : Nat, ∃ site : Nat, ∃ f : Frame, ∃ rest : List Frame, s.running ∧ site < 72 ∧ s.host.siteOf c = some site ∧
    (s.host.coreState site = 1 ∨ s.host.coreState site = 2) ∧ (s.host.core site).frames = f :: rest ∧ f.pos < f.count ∧
    (s.host.core site).pcTile = none ∧ (f.space ≠ 2 ∨ s.host.hbmUp = true) ∧ (∀ x, (s.host.core site).fetchNow = some x →
    x.moved_ c = true ∧ x.dropped = false) ∧ (s.host.fetchTile site (c / 8) f.space (f.pc / 2048 * 2048)).bad = true)
    ∧ (∃ s : State, ∃ c : Nat, ∃ site : Nat, ∃ units : List Nat, ∃ r : List Flight × List Flight, ∃ ecc : Ecc, r = takeHeads units
    (s.host.core site).flights ∧ s.running ∧ site < 72 ∧ ecc.ue = [] ∧ ecc.alt = [] ∧ s.host.siteOf c = some site ∧
    s.host.coreState site ≠ 6)
    ∧ (∃ s : State, ∃ site : Nat, s.open_ ∧ site < 72 ∧ s.host.coreState site = 5 ∧ s.host.asleep (site / 9) = false) :=
  ⟨⟨(hx (fun h => { (h.setCore 0 { frames := [{ hdr := 0, pos := 0, count := 2, timed := false }], cur := some { data := (Mem.setLE [] 16 16 0x9) } }) with insp := { h.insp with siteOf := [(0,0)] } }) (st [(Reg.CORE_STATUS.STATE 0, 1)])), (0 : Nat), (0 : Nat), (0x9 : Nat), (false : Bool), by decide +kernel⟩,
    ⟨(hx (fun h => { (h.setCore 0 { frames := [{ hdr := 0, pos := 0, count := 2, timed := false }], cur := some { data := (Mem.setLE [] 16 16 0x500000009) } }) with insp := { h.insp with siteOf := [(0,0)] } }) (st [(Reg.CORE_STATUS.STATE 0, 1)])), (0 : Nat), (0 : Nat), (0x500000009 : Nat), (false : Bool), by decide +kernel⟩,
    ⟨(hx (fun h => { (h.setCore 0 { frames := [{ hdr := 0, pos := 0, count := 2, timed := false }], cur := some { data := (Mem.setLE [] 16 16 0x50010000A) } }) with insp := { h.insp with siteOf := [(0,0)] } }) (st [(Reg.CORE_STATUS.STATE 0, 1)])), (0 : Nat), (0 : Nat), (0x50010000A : Nat), (false : Bool), by decide +kernel⟩,
    ⟨(hx (fun h => { (h.setCore 0 { frames := [{ hdr := 0, pos := 0, count := 2, timed := false }], cur := some { data := (Mem.setLE [] 16 16 0x10000000000B) }, spad := { mem := (Mem.setLE [] 4096 16 0x30001) } }) with insp := { h.insp with siteOf := [(0,0)] } }) (st [(Reg.CORE_STATUS.STATE 0, 1)])), (0 : Nat), (0 : Nat), (0x10000000000B : Nat), (false : Bool), _, (3 : Nat), ((toLE 16 0x30001) : List Byte), (({} : Ecc) : Ecc), rfl, by decide +kernel⟩,
    ⟨(hx (fun h => { (h.setCore 0 { frames := [{ hdr := 0, pos := 0, count := 2, timed := false }, { hdr := 64, pos := 1, count := 4 }, { hdr := 64, pos := 1, count := 4 }, { hdr := 64, pos := 1, count := 4 }, { hdr := 64, pos := 1, count := 4 }], cur := some { data := (Mem.setLE [] 16 16 0x10000000000B) } }) with insp := { h.insp with siteOf := [(0,0)] } }) (st [(Reg.CORE_STATUS.STATE 0, 1)])), (0 : Nat), (0 : Nat), (0x10000000000B : Nat), (false : Bool), by decide +kernel⟩,
    ⟨(hx (fun h => { (h.setCore 0 { frames := [{ hdr := 0, pos := 0, count := 2, timed := false },{hdr := 64, pos := 1, count := 4}], cur := some { data := (Mem.setLE [] 16 16 12) } }) with insp := { h.insp with siteOf := [(0,0)] } }) (hx (fun h => { h with cores := h.cores.put (0 : Nat) { h.core (0 : Nat) with frames := (({ hdr := 0, pos := 0, count := 2, timed := false }) :: (([{hdr := 64, pos := 1, count := 4}] : List Machine.Frame))) } }) (st [(Reg.CORE_STATUS.STATE 0, 1)]))), (0 : Nat), (0 : Nat), (0xc : Nat), (false : Bool), ({ hdr := 0, pos := 0, count := 2, timed := false }), (([{hdr := 64, pos := 1, count := 4}] : List Machine.Frame)), by decide +kernel⟩,
    ⟨(hx (fun h => { (h.setCore 0 { frames := [{ hdr := 0, pos := 0, count := 2, timed := false }], cur := some { data := (Mem.setLE [] 16 16 0xC) } }) with insp := { h.insp with siteOf := [(0,0)] } }) (hx (fun h => { h with cores := h.cores.put (0 : Nat) { h.core (0 : Nat) with frames := ((({ hdr := 0, pos := 0, count := 2, timed := false } : Machine.Frame)) :: (([] : List Machine.Frame))), flights := ([]), xfers := ([]) } }) (st [(Reg.CORE_STATUS.STATE 0, 1)]))), (0 : Nat), (0 : Nat), (0xC : Nat), (false : Bool), (({ hdr := 0, pos := 0, count := 2, timed := false } : Machine.Frame)), (([] : List Machine.Frame)), by decide +kernel⟩,
    ⟨(hx (fun h => { (h.setCore 0 { frames := [{ hdr := 0, pos := 0, count := 2, timed := false }], cur := some { data := (Mem.setLE [] 16 16 0xD) }, preempt := true }) with insp := { h.insp with siteOf := [(0,0)] } }) (hx (fun h => { h with cores := h.cores.put (0 : Nat) { h.core (0 : Nat) with preempt := (true), flights := ([]) } }) (st [(Reg.CORE_STATUS.STATE 0, 1)]))), (0 : Nat), (0 : Nat), (0xD : Nat), (false : Bool), by decide +kernel⟩,
    ⟨(hx (fun h => { (h.setCore 0 { frames := [{ hdr := 0, pos := 0, count := 2, timed := true }], cur := some { data := (Mem.setLE [] 16 16 0xD) } }) with insp := { h.insp with siteOf := [(0,0)] } }) (st [(Reg.CORE_STATUS.STATE 0, 2)])), (0 : Nat), (0 : Nat), (0xD : Nat), (true : Bool), by decide +kernel⟩,
    ⟨(hx (fun h => { (h.setCore 0 { waiting := some (1,0,none) }) with insp := { h.insp with siteOf := [(0,0)] } }) (st [(Reg.CORE_STATUS.STATE (0 : Nat), 3)])), (0 : Nat), (0 : Nat), (1 : Nat), (0 : Nat), (none : Option Nat), by decide +kernel⟩,
    ⟨(hx (fun h => { (h.setCore 0 { frames := [{ hdr := 0, pos := 0, count := 2}] }) with insp := { h.insp with siteOf := [(0,0)] } }) (hx (fun h => { h with cores := h.cores.put (0 : Nat) { h.core (0 : Nat) with frames := (({ hdr := 0, pos := 0, count := 2} : Frame) :: ([] : List Frame)) } }) (st [(Reg.CORE_STATUS.STATE (0 : Nat), 1)]))), (0 : Nat), (0 : Nat), ({ hdr := 0, pos := 0, count := 2} : Frame), ([] : List Frame), by decide +kernel⟩,
    ⟨(hx (fun h => { (h.setCore 0 { frames := [{ hdr := 0, pos := 0, count := 2, timed := true}], spad := { poison := [0] } }) with insp := { h.insp with siteOf := [(0,0)] } }) (hx (fun h => { h with cores := h.cores.put (0 : Nat) { h.core (0 : Nat) with frames := (({ hdr := 0, pos := 0, count := 2, timed := true} : Frame) :: ([] : List Frame)) } }) (st [(Reg.CORE_STATUS.STATE (0 : Nat), 1), (Reg.CORE_STATUS.STATE 0, 2)]))), (0 : Nat), (0 : Nat), ({ hdr := 0, pos := 0, count := 2, timed := true} : Frame), ([] : List Frame), by decide +kernel⟩,
    ⟨(hx (fun h => { (h.setCore 0 { flights := [{ unit := 1, sig := some 3 }, { unit := 3, sig := some 15, writes := [(64, [7#8])] }] }) with insp := { h.insp with siteOf := [(0,0)] } }) (st [])), (0 : Nat), (0 : Nat), ([3, 1] : List Nat), _, (({} : Ecc) : Ecc), rfl, by decide +kernel⟩,
    ⟨(hx (fun h => h.setCore 71 { flights := [{ unit := 1, sig := some 3 }, { unit := 3, sig := some 15, writes := [(64, [7#8])] }], frames := [{}] }) (st [(Reg.DEV_STATUS.READY, 1), (Reg.CORE_STATUS.STATE (71 : Nat), 5)])), (71 : Nat), by decide +kernel⟩⟩

theorem wit_TransfersAndVerdict :
    (∃ s : State, ∃ c : Nat, ∃ site : Nat, ∃ w : Nat, ∃ timed : Bool, s.running ∧ s.issues c site w timed ∧ hb w 0 7 0 = 1 ∧
    xferInvalid s.variant (xferOf w true false) = none ∧ (hb w 1 3 0 = 4 → ((s.host.core site).xfers.filter fun t => t.space ==
    4).length < 4))
    ∧ (∃ s : State, ∃ c : Nat, ∃ site : Nat, ∃ w : Nat, ∃ timed : Bool, s.running ∧ s.issues c site w timed ∧ hb w 0 7 0 = 2 ∧
    xferInvalid s.variant (xferOf w false false) = none)
    ∧ (∃ s : State, ∃ c : Nat, ∃ site : Nat, ∃ w : Nat, ∃ timed : Bool, ∃ x : Ecc, ∃ sp : Store, ∃ r : Recipe, ∃ it : Item, sp = x.left
    (s.host.core site).spad ∧ s.running ∧ s.issues c site w timed ∧ hb w 0 7 0 = 14 ∧ x.ue = [] ∧ r ∈ s.host.keepers ∧ r.id =
    (s.host.core site).recipe ∧ s.host.insp.items.find? (fun i => i.recipe == r.id && i.kind < 2 && !i.gap && i.judged.isNone &&
    i.forced == 0 && !i.released) = some it ∧ sp.useFails (hb w 1 14 0 * 64) 64 = none)
    ∧ (∃ s : State, ∃ c : Nat, ∃ site : Nat, ∃ w : Nat, ∃ timed : Bool, ∃ x : Ecc, ∃ sp : Store, ∃ r : Recipe, ∃ it : Item, sp = x.left
    (s.host.core site).spad ∧ s.running ∧ s.issues c site w timed ∧ hb w 0 7 0 = 14 ∧ x.ue = [] ∧ r ∈ s.host.keepers ∧ r.id =
    (s.host.core site).recipe ∧ s.host.insp.items.find? (fun i => i.recipe == r.id && i.kind < 2 && !i.gap && i.judged.isNone &&
    i.forced == 0 && !i.released) = some it ∧ sp.useFails (hb w 1 14 0 * 64) 64 ≠ none)
    ∧ (∃ s : State, ∃ c : Nat, ∃ site : Nat, ∃ x : Xfer, ∃ rest : List Xfer, ∃ ecc : Ecc, ∃ merge : Ecc, s.running ∧ site < 72 ∧
    s.host.siteOf c = some site ∧ s.host.hbmUp = true ∧ (s.host.core site).xfers = x :: rest ∧ x.space = 2 ∧ x.rif = 0 ∧ x.parked
    = false ∧ x.dropped = false ∧ x.moved_ c = true ∧ ecc.ue = [] ∧ ecc.alt = [] ∧ merge.ue = [] ∧ merge.alt = [] ∧ (s.host.core
    site).spad.poison = [] ∧ (s.host.core site).spad.sums = [] ∧ (s.host.hbmOf (x.far / 2 ^ 32)).poison = [] ∧ (s.host.hbmOf
    (x.far / 2 ^ 32)).sums = [])
    ∧ (∃ s : State, ∃ c : Nat, ∃ site : Nat, ∃ x : Xfer, ∃ rest : List Xfer, s.running ∧ site < 72 ∧ s.host.siteOf c = some site ∧
    (s.host.core site).xfers = x :: rest ∧ x.space = 4 ∧ x.parked = false)
    ∧ (∃ s : State, ∃ port : Nat, ∃ far : Nat, ∃ len : Nat, ∃ write : Bool, ∃ data : List Byte, s.running ∧ port < s.variant.ports ∧
    s.host.rwinOk port far (if write then data.length else len) = false)
    ∧ (∃ s : State, ∃ port : Nat, ∃ far : Nat, ∃ len : Nat, ∃ ecc : Ecc, s.running ∧ port < s.variant.ports ∧ bit far 44 = true ∧
    s.host.rwinOk port far len = true ∧ far % 2 ^ 24 + len ≤ 0x800000 ∧ s.host.asleep (far / 2 ^ 41 % 8) = false ∧ ecc.ue = [])
    ∧ (∃ s : State, ∃ port : Nat, ∃ far : Nat, ∃ rif : Nat, ∃ data : List Byte, ∃ got : List Byte, rif = 0 ∧ s.running ∧ port <
    s.variant.ports ∧ bit far 44 = true ∧ s.host.rwinOk port far data.length = true ∧ far % 2 ^ 24 + data.length ≤ 0x800000 ∧
    s.host.asleep (far / 2 ^ 41 % 8) = false ∧ data.length ≤ 2048 ∧ got.length = data.length ∧ crc32c got ≠ crc32c data) :=
  ⟨⟨(hx (fun h => { (h.setCore 0 { frames := [{ hdr := 0, pos := 0, count := 2, timed := false }], cur := some { data := (Mem.setLE [] 16 16 0x1000000000020001) } }) with insp := { h.insp with siteOf := [(0,0)] } }) (st [(Reg.CORE_STATUS.STATE 0, 1)])), (0 : Nat), (0 : Nat), (0x1000000000020001 : Nat), (false : Bool), by decide +kernel⟩,
    ⟨(hx (fun h => { (h.setCore 0 { frames := [{ hdr := 0, pos := 0, count := 2, timed := false }], cur := some { data := (Mem.setLE [] 16 16 0x1000000000020002) } }) with insp := { h.insp with siteOf := [(0,0)] } }) (st [(Reg.CORE_STATUS.STATE 0, 1)])), (0 : Nat), (0 : Nat), (0x1000000000020002 : Nat), (false : Bool), by decide +kernel⟩,
    ⟨(hx (fun h => { (h.setCore 0 { frames := [{ hdr := 0, pos := 0, count := 2, timed := false }], cur := some { data := (Mem.setLE [] 16 16 0x1000E) }, recipe := 1 }) with insp := { h.insp with siteOf := [(0,0)], armed := some {id := 1, hdr := List.replicate 100 255#8}, items := [{seq := 5, kind := 1, recipe := 1, openCount := 3}] } }) (st [(Reg.CORE_STATUS.STATE 0, 1)])), (0 : Nat), (0 : Nat), (0x1000E : Nat), (false : Bool), ({} : Ecc), _, ({id := 1, hdr := List.replicate 100 255#8} : Recipe), ({seq := 5, kind := 1, recipe := 1, openCount := 3} : Item), rfl, by decide +kernel⟩,
    ⟨(hx (fun h => { (h.setCore 0 { frames := [{ hdr := 0, pos := 0, count := 2, timed := false }], cur := some { data := (Mem.setLE [] 16 16 0x1000E) }, recipe := 1, spad := { poison := [0] } }) with insp := { h.insp with siteOf := [(0,0)], armed := some {id := 1, hdr := List.replicate 100 255#8}, items := [{seq := 5, kind := 1, recipe := 1, openCount := 3}] } }) (st [(Reg.CORE_STATUS.STATE 0, 1)])), (0 : Nat), (0 : Nat), (0x1000E : Nat), (false : Bool), ({} : Ecc), _, ({id := 1, hdr := List.replicate 100 255#8} : Recipe), ({seq := 5, kind := 1, recipe := 1, openCount := 3} : Item), rfl, by decide +kernel⟩,
    ⟨(hx (fun h => { (h.setCore 0 { xfers := [{ load := true, space := 2, len := 32, far := 4096, moved := [(0, 100), (1, 100), (2, 100), (3, 100)] }] }) with insp := { h.insp with siteOf := [(0,0)] } }) (hx (fun h => { h with cores := h.cores.put (0 : Nat) { h.core (0 : Nat) with xfers := (({ load := true, space := 2, len := 32, far := 4096, moved := [(0, 100), (1, 100), (2, 100), (3, 100)] } : Xfer) :: ([] : List Xfer)) } }) (st [(Reg.MEM_STATUS.INIT_DONE, 1)]))), (0 : Nat), (0 : Nat), ({ load := true, space := 2, len := 32, far := 4096, moved := [(0, 100), (1, 100), (2, 100), (3, 100)] } : Xfer), ([] : List Xfer), (({} : Ecc) : Ecc), (({} : Ecc) : Ecc), by decide +kernel⟩,
    ⟨(hx (fun h => { (h.setCore 0 { xfers := [{ load := true, space := 4, len := 32, far := 4096, moved := [(0, 100), (1, 100), (2, 100), (3, 100)] }] }) with insp := { h.insp with siteOf := [(0,0)] } }) (hx (fun h => { h with cores := h.cores.put (0 : Nat) { h.core (0 : Nat) with xfers := (({ load := true, space := 4, len := 32, far := 4096, moved := [(0, 100), (1, 100), (2, 100), (3, 100)] } : Xfer) :: ([] : List Xfer)) } }) (st []))), (0 : Nat), (0 : Nat), ({ load := true, space := 4, len := 32, far := 4096, moved := [(0, 100), (1, 100), (2, 100), (3, 100)] } : Xfer), ([] : List Xfer), by decide +kernel⟩,
    ⟨(st []), (0 : Nat), ((2^44 + 0x1000) : Nat), (64 : Nat), (true : Bool), ([] : List Byte), by decide +kernel⟩,
    ⟨(st [(Reg.MEM_RWIN_CTRL.EN 0, 1), (Reg.MEM_RWIN_CTRL.PORTS 0, 1), (Reg.MEM_RWIN_CTRL.TARGET 0, 1), (Reg.MEM_RWIN_LIMIT 0, 16)]), (0 : Nat), ((2^44 + 0x1000) : Nat), (64 : Nat), (({} : Ecc) : Ecc), by decide +kernel⟩,
    ⟨(st [(Reg.MEM_RWIN_CTRL.EN 0, 1), (Reg.MEM_RWIN_CTRL.PORTS 0, 1), (Reg.MEM_RWIN_CTRL.TARGET 0, 1), (Reg.MEM_RWIN_LIMIT 0, 16)]), (0 : Nat), ((2^44 + 0x1000) : Nat), _, ([7,7,7,7] : List Byte), ([7,7,7,6] : List Byte), rfl, by decide +kernel⟩⟩

theorem wit_StripeChannels :
    (∃ s : State, ∃ k : Nat, ∃ h : Nat, ∃ first : Nat, ∃ rest : List Nat, s.running ∧ k < 8 ∧ h < 16 ∧ (s.host.chan k h).pipePosts =
    first :: rest ∧ s.host.on (Reg.LSC_CFG.EN k h) = true)
    ∧ (∃ s : State, ∃ k : Nat, ∃ h : Nat, ∃ j : Nat, ∃ site : Nat, s.running ∧ k < 8 ∧ h < 16 ∧ j < 8 ∧ s.host.ctlReady k j (.release h)
    = some site ∧ site < 72 ∧ s.host.on (Reg.LSC_CFG.EN k h) = true ∧ j ∈ s.host.consumers k h ∧ (s.host.chan k h).relOf j <
    (s.host.chan k h).posts)
    ∧ (∃ s : State, ∃ k : Nat, ∃ h : Nat, s.running ∧ k < 8 ∧ h < 16 ∧ (s.host.chan k h).rdyDue ≠ 0)
    ∧ (∃ s : State, ∃ k : Nat, ∃ h : Nat, ∃ site : Nat, s.running ∧ k < 8 ∧ h < 16 ∧ (s.host.chan k h).freeDue ≠ 0 ∧ s.host.siteOf (8 *
    k + s.host.get (Reg.LSC_CFG.PCORE k h)) = some site ∧ site < 72 ∧ s.host.coreState site ≠ 6)
    ∧ (∃ s : State, ∃ k : Nat, ∃ h : Nat, ∃ v : Word, s.open_ ∧ k < 8 ∧ h < 16 ∧ s.host.asleep k = false ∧ s.host.loaderOwns k = false ∧
    s.host.on (Reg.LSC_CFG.EN k h) = false ∧ s.host.chanRefused k h ((v ||| 1#32) &&& lscCfgMask) = false)
    ∧ (∃ s : State, ∃ k : Nat, ∃ h : Nat, ∃ v : Word, s.open_ ∧ k < 8 ∧ h < 16 ∧ s.host.asleep k = false ∧ s.host.loaderOwns k = false ∧
    s.host.on (Reg.LSC_CFG.EN k h) = false ∧ s.host.chanRefused k h ((v ||| 1#32) &&& lscCfgMask) = true)
    ∧ (∃ s : State, ∃ k : Nat, ∃ h : Nat, s.open_ ∧ k < 8 ∧ h < 16 ∧ s.host.asleep k = false ∧ s.host.loaderOwns k = false ∧ s.host.on
    (Reg.LSC_CFG.EN k h) = true) :=
  ⟨⟨((hx (fun g => g.setChan 0 3 { pipePosts := [9] }) (st [((Reg.LSC_CFG.EN (0 : Nat) (3 : Nat)), 1)]))), (0 : Nat), (3 : Nat), (9 : Nat), ([] : List Nat), by decide +kernel⟩,
    ⟨((hx (fun g => { ((g.setChan 0 3 { posts := 1 }).setCore 0 {xfers := [{load := false, space := 1, far := 0x1000000 + 3 * 64, len := 1}]}) with insp := { g.insp with siteOf := [(0,0)] } }) (st [((Reg.LSC_CFG.EN (0 : Nat) (3 : Nat)), 1), (Reg.LSC_CONS.MASK 0 3, 1)]))), (0 : Nat), (3 : Nat), (0 : Nat), (0 : Nat), by decide +kernel⟩,
    ⟨((hx (fun g => g.setChan 0 3 { rdyDue := 1 }) (st []))), (0 : Nat), (3 : Nat), by decide +kernel⟩,
    ⟨((hx (fun g => { (g.setChan 0 3 { freeDue := 1 }) with insp := { g.insp with siteOf := [(0,0)] } }) (st []))), (0 : Nat), (3 : Nat), (0 : Nat), by decide +kernel⟩,
    ⟨(st [(Reg.DEV_STATUS.READY, 1), ((Reg.LSC_CFG.EN (0 : Nat) (3 : Nat)), 0)]), (0 : Nat), (3 : Nat), (0x3#32 : Word), by decide +kernel⟩,
    ⟨(st [(Reg.DEV_STATUS.READY, 1), ((Reg.LSC_CFG.EN (0 : Nat) (0 : Nat)), 0)]), (0 : Nat), (0 : Nat), (0#32 : Word), by decide +kernel⟩,
    ⟨(st [(Reg.DEV_STATUS.READY, 1), ((Reg.LSC_CFG.EN (0 : Nat) (0 : Nat)), 1)]), (0 : Nat), (0 : Nat), by decide +kernel⟩⟩

theorem wit_TimeBases :
    (∃ s : State, ∃ n : Nat, ∃ v : Word, s.open_ ∧ n < 4 ∧ v.toInt.natAbs ≤ 0x400000 ∧ (n = 1 → s.host.servoOwned = false))
    ∧ (∃ s : State, ∃ v : Word, s.open_ ∧ (v.toNat / 16 % 4 = 1 → s.host.servoOwned = false))
    ∧ (∃ s : State, ∃ v : Word, s.open_ ∧ s.host.servoOwned = true ∧ v.toNat / 16 % 4 = 1)
    ∧ (∃ s : State, ∃ n : Nat, ∃ v : Word, s.open_ ∧ n < 4 ∧ 0x400000 < v.toInt.natAbs) :=
  ⟨⟨(st [(Reg.DEV_STATUS.READY, 1)]), (0 : Nat), (0#32 : Word), by decide +kernel⟩,
    ⟨(st [(Reg.DEV_STATUS.READY, 1)]), (0#32 : Word), by decide +kernel⟩,
    ⟨(st [(Reg.DEV_STATUS.READY, 1), (Reg.TB1_CTRL.ROLE, 2)]), (0x10#32 : Word), by decide +kernel⟩,
    ⟨(st [(Reg.DEV_STATUS.READY, 1)]), (0 : Nat), (0x400001#32 : Word), by decide +kernel⟩⟩

theorem wit_ComparesAndCaptures :
    (∃ s : State, ∃ i : Nat, s.up ∧ i < 8 ∧ s.host.on (Reg.CMP_CTRL.EN i) = true ∧ 0 ≤ s.host.cmpDist s.env i)
    ∧ (∃ s : State, ∃ i : Nat, s.up ∧ i < 8 ∧ s.host.on (Reg.CMP_CTRL.EN i) = true ∧ 0 ≤ s.host.cmpDist s.env i)
    ∧ (∃ s : State, ∃ i : Nat, s.up ∧ s.settled ∧ i < 8 ∧ s.host.cmpDist s.env i < 0)
    ∧ (∃ s : State, s.up ∧ s.host.on Reg.TIME_CAP_CTRL.EN = true ∧ s.host.get Reg.TIME_CAP_STATUS.VALID = 0)
    ∧ (∃ s : State, s.up ∧ s.host.on Reg.TIME_CAP_CTRL.EN = true ∧ s.host.get Reg.TIME_CAP_STATUS.VALID = 1) :=
  ⟨⟨(st [((Reg.CMP_CTRL.EN (0 : Nat)), 1), (Reg.CMP_CTRL.PERIODIC (0 : Nat), 1), (Reg.CMP_PERIOD_LO (0 : Nat), 1000)]), (0 : Nat), by decide +kernel⟩,
    ⟨(st [((Reg.CMP_CTRL.EN (0 : Nat)), 1)]), (0 : Nat), by decide +kernel⟩,
    ⟨(st [(Reg.CMP_TARGET_LO (0 : Nat), 100)]), (0 : Nat), by decide +kernel⟩,
    ⟨(st [(Reg.TIME_CAP_CTRL.EN, 1), (Reg.TIME_CAP_STATUS.VALID, 0)]), by decide +kernel⟩,
    ⟨(st [(Reg.TIME_CAP_CTRL.EN, 1), (Reg.TIME_CAP_STATUS.VALID, 1)]), by decide +kernel⟩⟩

theorem wit_ChainTime :
    (∃ s : State, ∃ p : Nat, s.up ∧ p < s.variant.ports ∧ s.host.chainPort p = true ∧ s.host.portState p = 3 ∧ (s.host.get
    Reg.TB1_CTRL.ROLE = 1 ∨ (s.host.get Reg.TB1_CTRL.ROLE = 2 ∧ s.host.chain.synced = true)) ∧ (s.host.port p).maySend 2 = true ∧
    (s.host.port p).txq = [] ∧ s.host.flitOut p 0 = 0)
    ∧ (∃ s : State, ∃ p : Nat, ∃ f : Nat, s.up ∧ p < 8 ∧ s.host.get Reg.TB1_CTRL.ROLE = 2 ∧ s.host.get Reg.TB1_CTRL.UPPORT = p ∧
    (s.host.port p).rx.find? (fun f => flitType f == 6 && (timeKind (flitPayload f) == 0 || timeKind (flitPayload f) == 3)) =
    some f ∧ timeKind (flitPayload f) = 0 ∧ timeHop f < 15)
    ∧ (∃ s : State, ∃ p : Nat, ∃ f : Nat, s.up ∧ p < 8 ∧ (s.host.get Reg.TB1_CTRL.ROLE = 1 ∨ (s.host.get Reg.TB1_CTRL.ROLE = 2 ∧
    s.host.chainPort p = true)) ∧ s.host.portState p = 3 ∧ (s.host.port p).rx.find? (fun f => flitType f == 6 && timeKind
    (flitPayload f) == 1) = some f ∧ (s.host.port p).maySend 2 = true ∧ (s.host.port p).txq = [] ∧ s.host.flitOut p 0 = 0)
    ∧ (∃ s : State, ∃ p : Nat, ∃ f : Nat, ∃ raw : Int, ∃ dly : Int, ∃ off : Int, ∃ integ : Int, raw = sext 64 (wrap 64 (timeDiff
    s.host.chain.t2 s.host.chain.t1 + timeDiff (timeT f) s.host.chain.t3)) / 2 ∧ dly = (if s.host.chain.fresh then raw else
    s.host.chain.dly + (raw - s.host.chain.dly) / 16) ∧ off = sext 64 (wrap 64 (timeDiff s.host.chain.t2 s.host.chain.t1 - dly -
    sext 32 (s.host.get (Reg.TB1_ASYM p)) * 2 ^ 8)) ∧ integ = s.host.chain.integ + off * (s.host.get Reg.TB1_KI : Int) / 2 ^ 24 ∧
    s.up ∧ p < 8 ∧ s.host.get Reg.TB1_CTRL.ROLE = 2 ∧ s.host.get Reg.TB1_CTRL.UPPORT = p ∧ (s.host.port p).rx.find? (fun f =>
    flitType f == 6 && timeKind (flitPayload f) == 2) = some f ∧ s.host.chain.req = some (timeTseq f))
    ∧ (∃ s : State, s.up ∧ s.host.get Reg.TB1_CTRL.ROLE = 2 ∧ s.host.get Reg.TB1_STATUS.HOLDOVER = 0) :=
  ⟨⟨(hx (fun h => h.setPort (0 : Nat) {h.port (0 : Nat) with credit := some [1,1,9,1]}) (hx (fun h => { h with ports := h.ports.put (0 : Nat) { h.port (0 : Nat) with txq := ([]) } }) (st [(Reg.IFL_STATE.STATE (0 : Nat), 3), (Reg.TB1_CTRL.ROLE, 1), (Reg.TB1_CTRL.PORTS, 1)]))), (0 : Nat), by decide +kernel⟩,
    ⟨(hx (fun h => h.setPort (0 : Nat) {h.port (0 : Nat) with rx := [flitOf 6 0 0 2 (0 + 2 * 16 + 7 * 256 + 99 * 2^32)], credit := some [1,1,9,1]}) (st [(Reg.TB1_CTRL.ROLE, 2)])), (0 : Nat), ((flitOf 6 0 0 2 (0 + 2 * 16 + 7 * 256 + 99 * 2^32)) : Nat), by decide +kernel⟩,
    ⟨(hx (fun h => h.setPort (0 : Nat) {h.port (0 : Nat) with rx := [flitOf 6 0 0 2 (1 + 7 * 256 + 99 * 2^32)], credit := some [1,1,9,1]}) (hx (fun h => { h with ports := h.ports.put (0 : Nat) { h.port (0 : Nat) with txq := ([]) } }) (st [(Reg.TB1_CTRL.ROLE, 1), (Reg.IFL_STATE.STATE (0 : Nat), 3), (Reg.TB1_CTRL.PORTS, 1)]))), (0 : Nat), ((flitOf 6 0 0 2 (1 + 7 * 256 + 99 * 2^32)) : Nat), by decide +kernel⟩,
    ⟨(hx (fun h => { (h.setPort (0 : Nat) {h.port (0 : Nat) with rx := [flitOf 6 0 0 2 (2 + 7 * 256 + 99 * 2^32)]}) with chain := {h.chain with req := some 7, t1 := 5, t2 := 9, t3 := 40} }) (st [(Reg.TB1_CTRL.ROLE, 2)])), (0 : Nat), ((flitOf 6 0 0 2 (2 + 7 * 256 + 99 * 2^32)) : Nat), _, _, _, _, rfl, rfl, rfl, rfl, by decide +kernel⟩,
    ⟨(st [(Reg.TB1_CTRL.ROLE, 2), (Reg.TB1_STATUS.HOLDOVER, 0)]), by decide +kernel⟩⟩

theorem wit_EthernetPorts :
    (∃ s : State, ∃ p : Nat, ∃ f : List Byte, s.up ∧ p < 2 ∧ s.host.on (Reg.ETH_CTRL.EN p) = true ∧ s.host.on (Reg.ETH_CTRL.LOOP p) =
    false ∧ (isPause f = true ∨ twoTags f = true ∨ s.host.get (Reg.ETH_MAXLEN p) < f.length + 4 ∨ s.host.bme = false ∨
    (s.host.ethPort p).posts = []))
    ∧ (∃ s : State, ∃ p : Nat, ∃ f : List Byte, ∃ q : Nat, ∃ i : Nat, ∃ rest : List (Nat × Nat), ∃ d : Started, ∃ st : Nat, st =
    s.host.ethStamp s.env (sext 16 (s.host.get (Reg.ETH_TS_RX_ADJ p))) ∧ s.up ∧ p < 2 ∧ s.host.on (Reg.ETH_CTRL.EN p) = true ∧
    s.host.on (Reg.ETH_CTRL.LOOP p) = false ∧ isPause f = false ∧ twoTags f = false ∧ f.length + 4 ≤ s.host.get (Reg.ETH_MAXLEN
    p) ∧ s.host.bme = true ∧ (s.host.ethPort p).posts = (q, i) :: rest ∧ (s.host.started q).find? (fun d => d.idx == i) = some d
    ∧ f.length ≤ d.fld 16 2 % 2 ^ 14)
    ∧ (∃ s : State, ∃ p : Nat, ∃ x : EthTx, ∃ rest : List EthTx, s.up ∧ p < 2 ∧ s.host.on (Reg.ETH_CTRL.EN p) = true ∧ (s.host.ethPort
    p).tx = x :: rest)
    ∧ (∃ s : State, ∃ p : Nat, ∃ x : Nat × Nat, x = (s.host.ethPort p).stamps.tail.headD (0, 0) ∧ s.open_ ∧ p < 2 ∧ (s.host.ethPort
    p).stamps.length ≤ 16)
    ∧ (∃ s : State, ∃ q : Nat, ∃ p : Nat, ∃ len : Nat, ∃ fl : Nat, ∃ d : Started, p = d.fld 18 1 % 2 ∧ len = d.fld 16 2 % 2 ^ 14 ∧ fl =
    d.fld 19 1 ∧ s.running ∧ s.host.current q 0x32 = some d ∧ (fl / 4 % 4 = 3 ∨ len < 60 ∨ s.host.get (Reg.ETH_MAXLEN p) < len +
    4))
    ∧ (∃ s : State, ∃ q : Nat, ∃ p : Nat, ∃ len : Nat, ∃ fl : Nat, ∃ d : Started, p = d.fld 18 1 % 2 ∧ len = d.fld 16 2 % 2 ^ 14 ∧ fl =
    d.fld 19 1 ∧ s.running ∧ s.host.current q 0x32 = some d ∧ fl / 4 % 4 ≠ 3 ∧ 60 ≤ len ∧ len + 4 ≤ s.host.get (Reg.ETH_MAXLEN p)
    ∧ s.host.bme = true ∧ s.host.on (Reg.ETH_CTRL.EN p) = true ∧ s.host.readErr (d.fld 8 8) len = true)
    ∧ (∃ s : State, ∃ q : Nat, ∃ p : Nat, ∃ len : Nat, ∃ fl : Nat, ∃ d : Started, p = d.fld 18 1 % 2 ∧ len = d.fld 16 2 % 2 ^ 14 ∧ fl =
    d.fld 19 1 ∧ s.running ∧ s.host.current q 0x32 = some d ∧ fl / 4 % 4 ≠ 3 ∧ 60 ≤ len ∧ len + 4 ≤ s.host.get (Reg.ETH_MAXLEN p)
    ∧ s.host.bme = true ∧ s.host.on (Reg.ETH_CTRL.EN p) = true ∧ s.host.readErr (d.fld 8 8) len = false ∧ twoTags
    (s.host.hostRead (d.fld 8 8) len) = true)
    ∧ (∃ s : State, ∃ q : Nat, ∃ p : Nat, ∃ len : Nat, ∃ fl : Nat, ∃ d : Started, p = d.fld 18 1 % 2 ∧ len = d.fld 16 2 % 2 ^ 14 ∧ fl =
    d.fld 19 1 ∧ s.running ∧ s.host.current q 0x32 = some d ∧ fl / 4 % 4 ≠ 3 ∧ 60 ≤ len ∧ len + 4 ≤ s.host.get (Reg.ETH_MAXLEN p)
    ∧ s.host.bme = true ∧ s.host.on (Reg.ETH_CTRL.EN p) = true ∧ s.host.readErr (d.fld 8 8) len = false ∧ twoTags
    (s.host.hostRead (d.fld 8 8) len) = false)
    ∧ (∃ s : State, ∃ q : Nat, ∃ p : Nat, ∃ d : Started, p = d.fld 18 1 % 2 ∧ s.running ∧ s.host.current q 0x33 = some d ∧ s.host.on
    (Reg.HIF_ETH_RXQ.EN p) = true ∧ s.host.get (Reg.HIF_ETH_RXQ.QUEUE p) = q)
    ∧ (∃ s : State, ∃ q : Nat, ∃ p : Nat, ∃ d : Started, p = d.fld 18 1 % 2 ∧ s.running ∧ s.host.current q 0x33 = some d ∧ (s.host.on
    (Reg.HIF_ETH_RXQ.EN p) = false ∨ s.host.get (Reg.HIF_ETH_RXQ.QUEUE p) ≠ q)) :=
  ⟨⟨(st [((Reg.ETH_CTRL.EN (0 : Nat)), 1), ((Reg.ETH_CTRL.LOOP (0 : Nat)), 0)]), (0 : Nat), ([] : List Byte), by decide +kernel⟩,
    ⟨(hx (fun h => (h.setStarted 3 [{ desc := (toLE 64 0x6400000000000000000000000000003301), idx := 5 }]).setEth (0 : Nat) {posts := [(3,5)]}) (hx (fun h => { h with bme := (true) }) (st [((Reg.ETH_CTRL.EN (0 : Nat)), 1), ((Reg.ETH_CTRL.LOOP (0 : Nat)), 0), (Reg.ETH_MAXLEN (0 : Nat), 1518)]))), (0 : Nat), ([1,2,3] : List Byte), (3 : Nat), (5 : Nat), ([] : List (Nat × Nat)), ({ desc := (toLE 64 0x6400000000000000000000000000003301), idx := 5 } : Started), _, rfl, by decide +kernel⟩,
    ⟨(hx (fun h => h.setEth (0 : Nat) {tx := [{frame := [1,2]}]}) (st [((Reg.ETH_CTRL.EN (0 : Nat)), 1)])), (0 : Nat), ({frame := [1,2]} : EthTx), ([] : List EthTx), by decide +kernel⟩,
    ⟨(st [(Reg.DEV_STATUS.READY, 1)]), (0 : Nat), _, rfl, by decide +kernel⟩,
    ⟨(hx (fun h => (h.setStarted 0 [{ desc := (toLE 64 0xA00000000000000000000000000003201) }])) (st [])), (0 : Nat), _, _, _, ({ desc := (toLE 64 0xA00000000000000000000000000003201) } : Started), rfl, rfl, rfl, by decide +kernel⟩,
    ⟨(hx (fun h => { ((h.setStarted 0 [{ desc := (toLE 64 0x1003C00000000000010000000000000003201) }])) with noRead := [(0x1000, 16)] }) (hx (fun h => { h with bme := (true) }) (st [((Reg.ETH_CTRL.EN (({ desc := (toLE 64 0x1003C00000000000010000000000000003201) } : Started).fld 18 1 % 2)), 1), (Reg.ETH_MAXLEN 1, 1518), (Reg.ETH_CTRL.EN 1, 1)]))), (0 : Nat), _, _, _, ({ desc := (toLE 64 0x1003C00000000000010000000000000003201) } : Started), rfl, rfl, rfl, by decide +kernel⟩,
    ⟨(hx (fun h => {(h.setStarted 0 [{ desc := (toLE 64 0x1003C00000000000010000000000000003201) }]) with bme := true, mem := [(0x100C, 0x81#8), (0x1010, 0x81#8)]}) (hx (fun h => { h with bme := (true) }) (st [((Reg.ETH_CTRL.EN (({ desc := (toLE 64 0x1003C00000000000010000000000000003201) } : Started).fld 18 1 % 2)), 1), (Reg.ETH_MAXLEN 1, 1518), (Reg.ETH_CTRL.EN 1, 1)]))), (0 : Nat), _, _, _, ({ desc := (toLE 64 0x1003C00000000000010000000000000003201) } : Started), rfl, rfl, rfl, by decide +kernel⟩,
    ⟨(hx (fun h => (h.setStarted 0 [{ desc := (toLE 64 0x1003C00000000000000000000000000003201) }])) (hx (fun h => { h with bme := (true) }) (st [((Reg.ETH_CTRL.EN (({ desc := (toLE 64 0x1003C00000000000000000000000000003201) } : Started).fld 18 1 % 2)), 1), (Reg.ETH_MAXLEN 1, 1518), (Reg.ETH_CTRL.EN 1, 1)]))), (0 : Nat), _, _, _, ({ desc := (toLE 64 0x1003C00000000000000000000000000003201) } : Started), rfl, rfl, rfl, by decide +kernel⟩,
    ⟨(hx (fun h => (h.setStarted 0 [{ desc := (toLE 64 0x1006400000000000000000000000000003301) }])) (st [((Reg.HIF_ETH_RXQ.EN (({ desc := (toLE 64 0x1006400000000000000000000000000003301) } : Started).fld 18 1 % 2)), 1), (Reg.HIF_ETH_RXQ.EN 1, 1), (Reg.HIF_ETH_RXQ.QUEUE 1, 0)])), (0 : Nat), _, ({ desc := (toLE 64 0x1006400000000000000000000000000003301) } : Started), rfl, by decide +kernel⟩,
    ⟨(hx (fun h => (h.setStarted 0 [{ desc := (toLE 64 0x1006400000000000000000000000000003301) }])) (st [((Reg.HIF_ETH_RXQ.EN (({ desc := (toLE 64 0x1006400000000000000000000000000003301) } : Started).fld 18 1 % 2)), 0), (Reg.HIF_ETH_RXQ.EN 1, 0)])), (0 : Nat), _, ({ desc := (toLE 64 0x1006400000000000000000000000000003301) } : Started), rfl, by decide +kernel⟩⟩

theorem wit_QueueSetUpAndDoorbells :
    (∃ s : State, s.up ∧ s.host.allOff = true)
    ∧ (∃ s : State, s.up ∧ s.settled ∧ s.host.allOff = false)
    ∧ (∃ s : State, ∃ q : Nat, ∃ eng : Nat, ∃ client : Nat, ∃ size : Nat, ∃ cq : Nat, ∃ v : Word, eng = (Reg.SQ_CFG.ENGINE q).ofWord v ∧
    client = (Reg.SQ_CFG.CLIENT q).ofWord v ∧ size = (Reg.SQ_CFG.SIZE_L q).ofWord v ∧ cq = (Reg.SQ_CFG.CQ q).ofWord v ∧ s.open_ ∧
    q < 64 ∧ s.host.on (Reg.SQ_CFG.EN q) = false ∧ s.host.get (Reg.SQ_STATUS.STATE q) = 0 ∧ (s.host.get Reg.DEV_ABI.ACTIVE = 0 ∨
    s.host.on (Reg.CQ_CFG.EN cq) = false ∨ 10 < size ∨ ((eng = 0 ∨ eng = 3) ∧ client ≠ 0)))
    ∧ (∃ s : State, ∃ q : Nat, ∃ eng : Nat, ∃ client : Nat, ∃ size : Nat, ∃ cq : Nat, ∃ v : Word, eng = (Reg.SQ_CFG.ENGINE q).ofWord v ∧
    client = (Reg.SQ_CFG.CLIENT q).ofWord v ∧ size = (Reg.SQ_CFG.SIZE_L q).ofWord v ∧ cq = (Reg.SQ_CFG.CQ q).ofWord v ∧ s.open_ ∧
    q < 64 ∧ s.host.on (Reg.SQ_CFG.EN q) = false ∧ s.host.get (Reg.SQ_STATUS.STATE q) = 0 ∧ s.host.get Reg.DEV_ABI.ACTIVE ≠ 0 ∧
    s.host.on (Reg.CQ_CFG.EN cq) = true ∧ size ≤ 10 ∧ (eng = 0 ∨ eng = 3 → client = 0))
    ∧ (∃ s : State, ∃ q : Nat, ∃ v : Word, s.open_ ∧ q < 64 ∧ v.getLsbD 0 = true ∧ (10 < (Reg.CQ_CFG.SIZE_L q).ofWord v ∨ s.host.get
    Reg.DEV_ABI.ACTIVE = 0))
    ∧ (∃ s : State, ∃ q : Nat, ∃ v : Word, s.open_ ∧ q < 64 ∧ v.getLsbD 0 = true ∧ (Reg.CQ_CFG.SIZE_L q).ofWord v ≤ 10 ∧ s.host.get
    Reg.DEV_ABI.ACTIVE ≠ 0 ∧ s.host.on (Reg.CQ_CFG.EN q) = false)
    ∧ (∃ s : State, ∃ q : Nat, ∃ v : Word, s.open_ ∧ q < 64 ∧ v.getLsbD 0 = false ∧ s.host.on (Reg.CQ_CFG.EN q) = true ∧ (∃ i, i < 64 ∧
    s.host.get (Reg.SQ_STATUS.STATE i) ≠ 0 ∧ s.host.get (Reg.SQ_CFG.CQ i) = q))
    ∧ (∃ s : State, ∃ q : Nat, ∃ v : Word, s.open_ ∧ q < 64 ∧ v.getLsbD 0 = false ∧ s.host.on (Reg.CQ_CFG.EN q) = true ∧ (∀ i, i < 64 →
    s.host.get (Reg.SQ_STATUS.STATE i) ≠ 0 → s.host.get (Reg.SQ_CFG.CQ i) ≠ q))
    ∧ (∃ s : State, ∃ n : Nat, ∃ v : Word, s.open_ ∧ n < 16 ∧ v.getLsbD 0 = true ∧ (Reg.RR_CFG.SIZE_L n).ofWord v ≤ 10 ∧ s.host.get
    Reg.DEV_ABI.ACTIVE ≠ 0 ∧ s.host.on (Reg.RR_CFG.EN n) = false)
    ∧ (∃ s : State, ∃ n : Nat, ∃ v : Word, s.open_ ∧ n < 16 ∧ v.getLsbD 0 = true ∧ (10 < (Reg.RR_CFG.SIZE_L n).ofWord v ∨ s.host.get
    Reg.DEV_ABI.ACTIVE = 0))
    ∧ (∃ s : State, ∃ n : Nat, ∃ v : Word, s.open_ ∧ n < 16 ∧ v.getLsbD 0 = false)
    ∧ (∃ s : State, ∃ q : Nat, s.open_ ∧ q < 64 ∧ s.host.get (Reg.SQ_STATUS.STATE q) = 2 ∧ s.host.get Reg.HDW_STATUS.STOPPED = 0)
    ∧ (∃ s : State, ∃ q : Nat, s.open_ ∧ s.jobsOk ∧ q < 64 ∧ (s.host.get (Reg.SQ_STATUS.STATE q) = 1 ∨ s.host.get (Reg.SQ_STATUS.STATE
    q) = 2))
    ∧ (∃ s : State, ∃ q : Nat, s.up ∧ q < 64 ∧ s.host.get (Reg.SQ_STATUS.STATE q) = 3 ∧ s.host.started q = [] ∧ s.host.get (Reg.SQ_HEAD
    q) = s.host.get (Reg.SQ_TAIL q))
    ∧ (∃ s : State, ∃ q : Nat, ∃ v : Word, s.open_ ∧ q < 64 ∧ s.host.get (Reg.SQ_STATUS.STATE q) ≠ 0 ∧ countDiff v.toNat (s.host.get
    (Reg.SQ_HEAD q)) ≤ s.host.sqSize q)
    ∧ (∃ s : State, ∃ q : Nat, ∃ v : Word, s.open_ ∧ q < 64 ∧ s.host.get (Reg.SQ_STATUS.STATE q) = 1 ∧ s.host.sqSize q < countDiff
    v.toNat (s.host.get (Reg.SQ_HEAD q)))
    ∧ (∃ s : State, ∃ q : Nat, s.open_ ∧ q < 64 ∧ q < 16 ∧ s.host.on (Reg.RR_CFG.EN q) = false)
    ∧ (∃ s : State, ∃ n : Nat, s.open_ ∧ n < 16 ∧ s.host.on (Reg.RR_CFG.EN n) = true) :=
  ⟨⟨(st []), by decide +kernel⟩,
    ⟨(st [(Reg.CQ_CFG.EN 3, 1)]), by decide +kernel⟩,
    ⟨(st [(Reg.DEV_STATUS.READY, 1), ((Reg.SQ_CFG.EN (0 : Nat)), 0), ((Reg.SQ_STATUS.STATE (0 : Nat)), 0), (Reg.DEV_ABI.ACTIVE, 0)]), (0 : Nat), _, _, _, _, (0#32 : Word), rfl, rfl, rfl, rfl, by decide +kernel⟩,
    ⟨(st [(Reg.DEV_STATUS.READY, 1), ((Reg.SQ_CFG.EN (0 : Nat)), 0), ((Reg.SQ_STATUS.STATE (0 : Nat)), 0), (Reg.DEV_ABI.ACTIVE, 1), ((Reg.CQ_CFG.EN ((Reg.SQ_CFG.CQ (0 : Nat)).ofWord (0#32 : Word))), 1), (Reg.CQ_CFG.EN 0, 1), (Reg.DEV_ABI.ACTIVE, 1)]), (0 : Nat), _, _, _, _, (0#32 : Word), rfl, rfl, rfl, rfl, by decide +kernel⟩,
    ⟨(st [(Reg.DEV_STATUS.READY, 1)]), (0 : Nat), (1#32 : Word), by decide +kernel⟩,
    ⟨(st [(Reg.DEV_STATUS.READY, 1), (Reg.DEV_ABI.ACTIVE, 1), ((Reg.CQ_CFG.EN (0 : Nat)), 0)]), (0 : Nat), (1#32 : Word), by decide +kernel⟩,
    ⟨(st [(Reg.DEV_STATUS.READY, 1), ((Reg.CQ_CFG.EN (2 : Nat)), 1), (Reg.SQ_STATUS.STATE 5, 1), (Reg.SQ_CFG.CQ 5, 2)]), (2 : Nat), (0#32 : Word), by decide +kernel⟩,
    ⟨(st [(Reg.DEV_STATUS.READY, 1), ((Reg.CQ_CFG.EN (0 : Nat)), 1)]), (0 : Nat), (0#32 : Word), by decide +kernel⟩,
    ⟨(st [(Reg.DEV_STATUS.READY, 1), (Reg.DEV_ABI.ACTIVE, 1), ((Reg.RR_CFG.EN (0 : Nat)), 0)]), (0 : Nat), (1#32 : Word), by decide +kernel⟩,
    ⟨(st [(Reg.DEV_STATUS.READY, 1)]), (0 : Nat), (1#32 : Word), by decide +kernel⟩,
    ⟨(st [(Reg.DEV_STATUS.READY, 1)]), (0 : Nat), (0#32 : Word), by decide +kernel⟩,
    ⟨(st [(Reg.DEV_STATUS.READY, 1), ((Reg.SQ_STATUS.STATE (0 : Nat)), 2), (Reg.HDW_STATUS.STOPPED, 0)]), (0 : Nat), by decide +kernel⟩,
    ⟨(st [(Reg.DEV_STATUS.READY, 1), ((Reg.SQ_STATUS.STATE (0 : Nat)), 1)]), (0 : Nat), by decide +kernel⟩,
    ⟨(st [((Reg.SQ_STATUS.STATE (0 : Nat)), 3)]), (0 : Nat), by decide +kernel⟩,
    ⟨(st [(Reg.DEV_STATUS.READY, 1), ((Reg.SQ_STATUS.STATE (0 : Nat)), 1)]), (0 : Nat), (0#32 : Word), by decide +kernel⟩,
    ⟨(st [(Reg.DEV_STATUS.READY, 1), ((Reg.SQ_STATUS.STATE (0 : Nat)), 1)]), (0 : Nat), (65#32 : Word), by decide +kernel⟩,
    ⟨(st [(Reg.DEV_STATUS.READY, 1), ((Reg.RR_CFG.EN (0 : Nat)), 0)]), (0 : Nat), by decide +kernel⟩,
    ⟨(st [(Reg.DEV_STATUS.READY, 1), ((Reg.RR_CFG.EN (0 : Nat)), 1)]), (0 : Nat), by decide +kernel⟩⟩

theorem wit_FetchesCompletionsAndRecords :
    (∃ s : State, ∃ q : Nat, ∃ eng : Nat, ∃ d : Started, eng = s.host.get (Reg.SQ_CFG.ENGINE q) ∧ d = { idx := s.host.get (Reg.SQ_HEAD q), desc := s.host.nextDesc q, ord := s.host.starts }
    ∧ s.up ∧ q < 64 ∧ s.host.bme = true ∧ (s.host.stopped = true → eng = 3) ∧ s.host.get (Reg.SQ_STATUS.STATE q) ≠ 3 ∧
    s.host.turnOf eng = some q ∧ s.host.descErr q = false)
    ∧ (∃ s : State, ∃ q : Nat, ∃ eng : Nat, ∃ d : Started, ∃ err : Bool, eng = s.host.get (Reg.SQ_CFG.ENGINE q) ∧ d = { idx := s.host.get (Reg.SQ_HEAD q), desc := s.host.nextDesc q, ord := s.host.starts }
    ∧ s.up ∧ q < 64 ∧ s.host.bme = true ∧ (s.host.stopped = true → eng = 3) ∧ s.host.get (Reg.SQ_STATUS.STATE q) ≠ 3 ∧
    s.host.turnOf eng = some q ∧ (err || s.host.descErr q) = true)
    ∧ (∃ s : State, ∃ q : Nat, ∃ eng : Nat, ∃ d : Started, eng = s.host.get (Reg.SQ_CFG.ENGINE q) ∧ d = { idx := s.host.get (Reg.SQ_HEAD q), desc := s.host.nextDesc q, ord := s.host.starts }
    ∧ s.up ∧ q < 64 ∧ s.host.bme = true ∧ (s.host.stopped = true → eng = 3) ∧ s.host.get (Reg.SQ_STATUS.STATE q) = 3 ∧ s.host.get
    (Reg.SQ_HEAD q) ≠ s.host.get (Reg.SQ_TAIL q) ∧ s.host.descErr q = false)
    ∧ (∃ s : State, ∃ q : Nat, ∃ d : Started, ∃ rest : List Started, ∃ f : Fin, s.up ∧ s.jobsOk ∧ q < 64 ∧ (s.host.stopped = true →
    s.host.get (Reg.SQ_CFG.ENGINE q) = 3) ∧ s.host.started q = d :: rest ∧ d.fin = some f ∧ f.status = 0 ∧ bit (d.fld 2 1) 2 =
    true)
    ∧ (∃ s : State, ∃ q : Nat, ∃ d : Started, ∃ rest : List Started, ∃ f : Fin, ∃ c : Nat, ∃ j : Nat, ∃ size : Nat, ∃ base : Nat, ∃ bs :
    List Byte, j = s.host.get (Reg.CQ_WRITTEN c) ∧ size = Machine.sizeOf (s.host.get (Reg.CQ_CFG.SIZE_L c)) ∧ base = s.host.get
    (Reg.CQ_BASE_LO c) * 64 + s.host.get (Reg.CQ_BASE_HI c) * 2 ^ 32 ∧ bs = d.entry q (b2n (decide (j / size % 2 = 0))) f ∧ s.up
    ∧ s.jobsOk ∧ q < 64 ∧ (s.host.stopped = true → s.host.get (Reg.SQ_CFG.ENGINE q) = 3) ∧ s.host.started q = d :: rest ∧ d.fin =
    some f ∧ (f.status ≠ 0 ∨ bit (d.fld 2 1) 2 = false) ∧ s.host.bme = true ∧ c = s.host.get (Reg.SQ_CFG.CQ q) ∧ s.host.on
    (Reg.CQ_STATUS.FULL c) = false)
    ∧ (∃ s : State, ∃ n : Nat, ∃ p : Nat, ∃ size : Nat, ∃ slot : Nat, ∃ x : HeldRec, ∃ rest : List HeldRec, p = s.host.get
    (Reg.RR_PUBLISHED n) ∧ size = Machine.sizeOf (s.host.get (Reg.RR_CFG.SIZE_L n)) ∧ slot = s.host.get (Reg.RR_BASE_LO n) * 128
    + s.host.get (Reg.RR_BASE_HI n) * 2 ^ 32 + p % size * 128 ∧ s.up ∧ n < 16 ∧ s.host.ringReady n = true ∧ (s.host.ring n).held
    = x :: rest ∧ x.bytes.length = 128 ∧ x.gap = none)
    ∧ (∃ s : State, ∃ n : Nat, ∃ p : Nat, ∃ size : Nat, ∃ slot : Nat, ∃ x : HeldRec, ∃ rest : List HeldRec, ∃ g, p = s.host.get
    (Reg.RR_PUBLISHED n) ∧ size = Machine.sizeOf (s.host.get (Reg.RR_CFG.SIZE_L n)) ∧ slot = s.host.get (Reg.RR_BASE_LO n) * 128
    + s.host.get (Reg.RR_BASE_HI n) * 2 ^ 32 + p % size * 128 ∧ s.up ∧ n < 16 ∧ s.host.ringReady n = true ∧ (s.host.ring n).held
    = x :: rest ∧ x.bytes.length = 128 ∧ x.gap = some g)
    ∧ (∃ s : State, ∃ v : Nat, s.up ∧ s.settled ∧ v < 64 ∧ s.host.on (Reg.VEC_CFG.TIMER v) = true ∧ (s.host.vec v).gathered ≠ 0 ∧
    s.host.on (Reg.MSIX_MASK v) = false ∧ s.host.bme = true)
    ∧ (∃ s : State, ∃ v : Nat, s.up ∧ s.settled ∧ v < 64 ∧ s.host.on (Reg.VEC_CFG.TIMER v) = true ∧ (s.host.vec v).gathered ≠ 0 ∧
    (s.host.on (Reg.MSIX_MASK v) = true ∨ s.host.bme = false))
    ∧ (∃ s : State, ∃ v : Nat, s.open_ ∧ s.settled ∧ v < 64)
    ∧ (∃ h : HostSide, ∃ v : Nat, v < 64 ∧ max 1 (h.get (Reg.VEC_CFG.COUNT v)) ≤ (h.vec v).gathered + 1 ∧ h.on (Reg.MSIX_MASK v) = true)
    ∧ (∃ h : HostSide, ∃ v : Nat, v < 64 ∧ max 1 (h.get (Reg.VEC_CFG.COUNT v)) ≤ (h.vec v).gathered + 1 ∧ h.on (Reg.MSIX_MASK v) = false
    ∧ h.bme = true)
    ∧ (∃ h : HostSide, ∃ v : Nat, v < 64 ∧ (h.vec v).gathered + 1 < h.get (Reg.VEC_CFG.COUNT v))
    ∧ (∃ s : State, ∃ base : Nat, ∃ gen : Nat, ∃ bs : List Byte, base = s.host.get Reg.SP_BASE_LO * 4096 + s.host.get Reg.SP_BASE_HI * 2
    ^ 32 ∧ gen = (s.host.spGen + 2) % 2 ^ 64 ∧ bs = { s.host with spGen := gen }.pageBytes s.env ∧ s.up ∧ s.host.on
    Reg.SP_CTRL.EN = true ∧ s.host.bme = true) :=
  ⟨⟨(hx (fun h => {h with bme := true}) (hx (fun h => { h with bme := (true) }) (st [(Reg.SQ_STATUS.STATE 63, 1), (Reg.SQ_TAIL 63, 1), (Reg.CQ_CFG.EN 0, 1)]))), (63 : Nat), _, _, rfl, rfl, by decide +kernel⟩,
    ⟨(hx (fun h => {h with bme := true}) (hx (fun h => { h with bme := (true) }) (st [(Reg.SQ_STATUS.STATE 0, 1), (Reg.SQ_TAIL 0, 1), (Reg.CQ_CFG.EN 0, 1)]))), (0 : Nat), _, _, (true : Bool), rfl, rfl, by decide +kernel⟩,
    ⟨(hx (fun h => {h with bme := true}) (hx (fun h => { h with bme := (true) }) (st [((Reg.SQ_STATUS.STATE (0 : Nat)), 3), (Reg.SQ_TAIL 0, 1)]))), (0 : Nat), _, _, rfl, rfl, by decide +kernel⟩,
    ⟨(hx (fun h => h.setStarted 0 [{ desc := (toLE 64 0x43001), fin := some {} }]) (st [])), (0 : Nat), ({ desc := (toLE 64 0x43001), fin := some {} } : Started), ([] : List Started), ({} : Fin), by decide +kernel⟩,
    ⟨(hx (fun h => {(h.setStarted 0 [{ desc := (toLE 64 0x3001), fin := some {} }]) with bme := true}) (hx (fun h => { h with bme := (true) }) (st [((Reg.CQ_STATUS.FULL (0 : Nat)), 0)]))), (0 : Nat), ({ desc := (toLE 64 0x3001), fin := some {} } : Started), ([] : List Started), ({} : Fin), (0 : Nat), _, _, _, _, rfl, rfl, rfl, rfl, by decide +kernel⟩,
    ⟨(hx (fun h => {(h.setRing (0 : Nat) {held := [{bytes := List.replicate 128 1#8}]}) with bme := true}) (hx (fun h => { h with rings := h.rings.put (0 : Nat) { h.ring (0 : Nat) with held := (({bytes := List.replicate 128 1#8} : HeldRec) :: ([] : List HeldRec)) } }) (st [(Reg.RR_CFG.EN (0 : Nat), 1)]))), (0 : Nat), _, _, _, ({bytes := List.replicate 128 1#8} : HeldRec), ([] : List HeldRec), rfl, rfl, rfl, by decide +kernel⟩,
    ⟨(hx (fun h => {(h.setRing (0 : Nat) {held := [{bytes := List.replicate 128 1#8, gap := some (1,2,3)}]}) with bme := true}) (hx (fun h => { h with rings := h.rings.put (0 : Nat) { h.ring (0 : Nat) with held := (({bytes := List.replicate 128 1#8, gap := some (1,2,3)} : HeldRec) :: ([] : List HeldRec)) } }) (st [(Reg.RR_CFG.EN (0 : Nat), 1)]))), (0 : Nat), _, _, _, ({bytes := List.replicate 128 1#8, gap := some (1,2,3)} : HeldRec), ([] : List HeldRec), ((1,2,3)), rfl, rfl, rfl, by decide +kernel⟩,
    ⟨(hx (fun h => h.setVec (0 : Nat) {gathered := 2}) (hx (fun h => { h with bme := (true) }) (st [((Reg.VEC_CFG.TIMER (0 : Nat)), 1), ((Reg.MSIX_MASK (0 : Nat)), 0)]))), (0 : Nat), by decide +kernel⟩,
    ⟨(hx (fun h => h.setVec (0 : Nat) {gathered := 2}) (st [((Reg.VEC_CFG.TIMER (0 : Nat)), 1), ((Reg.MSIX_MASK (0 : Nat)), 1)])), (0 : Nat), by decide +kernel⟩,
    ⟨(st [(Reg.DEV_STATUS.READY, 1)]), (0 : Nat), by decide +kernel⟩,
    ⟨((HostSide.set {} (Reg.MSIX_MASK 0) 1) : HostSide), (0 : Nat), by decide +kernel⟩,
    ⟨({ (HostSide.set {} (Reg.MSIX_MASK 0) 0) with bme := true } : HostSide), (0 : Nat), by decide +kernel⟩,
    ⟨((HostSide.set {} (Reg.VEC_CFG.COUNT 0) 4) : HostSide), (0 : Nat), by decide +kernel⟩,
    ⟨(hx (fun h => { h with bme := (true) }) (st [(Reg.SP_CTRL.EN, 1)])), _, _, _, rfl, rfl, rfl, by decide +kernel⟩⟩

theorem wit_MoveEngine :
    (∃ s : State, ∃ q : Nat, ∃ d : Started, s.running ∧ d.prog = 0 ∧ d.fld 32 4 = 0 ∧ s.host.current q 0x30 = some d)
    ∧ (∃ s : State, ∃ q : Nat, ∃ d : Started, s.running ∧ d.prog = 0 ∧ d.fld 32 4 = 0 ∧ s.host.current q 0x31 = some d)
    ∧ (∃ s : State, ∃ q : Nat, ∃ len : Nat, ∃ d : Started, ∃ forbids : MoveEnd → Bool, s.running ∧ d.prog = 0 ∧ len = d.fld 32 4 ∧ 0 <
    len ∧ s.host.client q ≠ 0 ∧ d.moveDst.exists_ s.variant = true ∧ (∀ x : MoveEnd, forbids x = true ↔ (2 ≤ x.space ∨ (x.space =
    1 ∧ ¬ (s.host.client q < 32 ∧ s.host.get (Reg.HIF_CLI_HBM.BASE (s.host.client q)) * 4096 ≤ x.addr ∧ x.addr + (len + 2047) /
    2048 * 2048 ≤ s.host.get (Reg.HIF_CLI_HBM.LIMIT (s.host.client q)) * 4096)))) ∧ s.host.current q 0x31 = some d ∧ forbids
    d.moveDst = true)
    ∧ (∃ s : State, ∃ q : Nat, ∃ len : Nat, ∃ d : Started, ∃ forbids : MoveEnd → Bool, s.running ∧ d.prog = 0 ∧ len = d.fld 32 4 ∧ 0 <
    len ∧ s.host.client q ≠ 0 ∧ d.moveDst.exists_ s.variant = true ∧ (∀ x : MoveEnd, forbids x = true ↔ (2 ≤ x.space ∨ (x.space =
    1 ∧ ¬ (s.host.client q < 32 ∧ s.host.get (Reg.HIF_CLI_HBM.BASE (s.host.client q)) * 4096 ≤ x.addr ∧ x.addr + (len + 2047) /
    2048 * 2048 ≤ s.host.get (Reg.HIF_CLI_HBM.LIMIT (s.host.client q)) * 4096)))) ∧ s.host.current q 0x30 = some d ∧
    d.moveSrc.exists_ s.variant = true ∧ (forbids d.moveDst = true ∨ forbids d.moveSrc = true))
    ∧ (∃ s : State, ∃ q : Nat, ∃ a : Nat, ∃ b : Nat, ∃ len : Nat, ∃ d : Started, ∃ g : List Byte, ∃ got : List Byte, len = d.fld 32 4 ∧
    got = (g ++ List.replicate len 0).take len ∧ s.running ∧ s.host.bme = true ∧ s.host.current q 0x30 = some d ∧ d.prog = 0 ∧
    d.abort = false ∧ d.handle = 0 ∧ 0 < len ∧ len ≤ 2048 ∧ len % 4 = 0 ∧ d.moveSrc = { space := 0, unit := 0, addr := a } ∧ a %
    4 = 0 ∧ a + len ≤ 2 ^ 64 ∧ d.moveDst = { space := 0, unit := 0, addr := b } ∧ b % 4 = 0 ∧ b + len ≤ 2 ^ 64 ∧ (a + len ≤ b ∨ b
    + len ≤ a) ∧ s.host.readErr a len = false ∧ crc32c got ≠ crc32c (s.host.hostRead a len))
    ∧ (∃ s : State, ∃ q : Nat, ∃ a : Nat, ∃ b : Nat, ∃ len : Nat, ∃ d : Started, ∃ o : Nat, len = d.fld 32 4 ∧ s.running ∧ s.host.bme =
    true ∧ s.host.current q 0x30 = some d ∧ d.prog = 0 ∧ d.abort = false ∧ d.handle = 0 ∧ 0 < len ∧ len ≤ 2048 ∧ len % 4 = 0 ∧
    d.moveSrc = { space := 0, unit := 0, addr := a } ∧ a % 4 = 0 ∧ a + len ≤ 2 ^ 64 ∧ d.moveDst = { space := 0, unit := 0, addr := b }
    ∧ b % 4 = 0 ∧ b + len ≤ 2 ^ 64 ∧ (a + len ≤ b ∨ b + len ≤ a) ∧ (o = 2 ∨ s.host.readErr a len = true))
    ∧ (∃ s : State, ∃ q : Nat, ∃ a : Nat, ∃ b : Nat, ∃ len : Nat, ∃ d : Started, ∃ o : Nat, len = d.fld 32 4 ∧ s.running ∧ s.host.bme =
    true ∧ s.host.current q 0x30 = some d ∧ d.prog = 0 ∧ d.abort = false ∧ d.handle = 0 ∧ 0 < len ∧ len ≤ 2048 ∧ len % 4 = 0 ∧
    d.moveSrc = { space := 0, unit := 0, addr := a } ∧ a % 4 = 0 ∧ a + len ≤ 2 ^ 64 ∧ d.moveDst = { space := 0, unit := 0, addr := b }
    ∧ b % 4 = 0 ∧ b + len ≤ 2 ^ 64 ∧ (a + len ≤ b ∨ b + len ≤ a) ∧ (o = 2 ∨ s.host.readErr a len = true))
    ∧ (∃ s : State, ∃ q : Nat, ∃ a : Nat, ∃ b : Nat, ∃ len : Nat, ∃ d : Started, len = d.fld 32 4 ∧ s.running ∧ s.host.bme = true ∧
    s.host.current q 0x30 = some d ∧ d.prog = 0 ∧ d.abort = false ∧ d.handle = 0 ∧ 0 < len ∧ len ≤ 2048 ∧ len % 4 = 0 ∧ d.moveSrc
    = { space := 0, unit := 0, addr := a } ∧ a % 4 = 0 ∧ a + len ≤ 2 ^ 64 ∧ d.moveDst = { space := 1, unit := 0, addr := b } ∧
    s.host.hbmUp = true ∧ s.host.client q = 0 ∧ b / 2 ^ 32 < s.variant.groups ∧ b % 2048 = 0 ∧ b % 2 ^ 32 + 2048 ≤ 0xC0000000 ∧
    s.host.readErr a len = false)
    ∧ (∃ s : State, ∃ q : Nat, ∃ b : Nat, ∃ len : Nat, ∃ d : Started, len = d.fld 32 4 ∧ s.running ∧ s.host.bme = true ∧ s.host.current
    q 0x31 = some d ∧ d.prog = 0 ∧ d.abort = false ∧ d.handle = 0 ∧ 0 < len ∧ len ≤ 2048 ∧ len % 4 = 0 ∧ 40 ≤ d.desc.length ∧
    d.moveDst = { space := 0, unit := 0, addr := b } ∧ b % 4 = 0 ∧ b + len ≤ 2 ^ 64) :=
  ⟨⟨(hx (fun h => (h.setStarted 0 [{ desc := (toLE 64 0x3001) }])) (st [])), (0 : Nat), ({ desc := (toLE 64 0x3001) } : Started), by decide +kernel⟩,
    ⟨(hx (fun h => (h.setStarted 0 [{ desc := (toLE 64 0x3101) }])) (st [])), (0 : Nat), ({ desc := (toLE 64 0x3101) } : Started), by decide +kernel⟩,
    ⟨(hx (fun h => (h.setStarted 0 [{ desc := (toLE 64 0x40000000200000000000000000000000000000000000000000000000000003101) }])) (st [(Reg.SQ_CFG.CLIENT 0, 3)])), (0 : Nat), (4 : Nat), ({ desc := (toLE 64 0x40000000200000000000000000000000000000000000000000000000000003101) } : Started), ((fun x : MoveEnd => decide (2 ≤ x.space ∨ (x.space = 1 ∧ ¬ (3 < 32 ∧ 0 * 4096 ≤ x.addr ∧ x.addr + (4 + 2047) / 2048 * 2048 ≤ 0 * 4096)))) : MoveEnd → Bool), by (repeat' refine And.intro ?_ ?_) <;> first | decide +kernel | exact fun x => decide_eq_true_iff⟩,
    ⟨(hx (fun h => (h.setStarted 0 [{ desc := (toLE 64 0x40000000200000000000000000000000000000000000000000000000000003001) }])) (st [(Reg.SQ_CFG.CLIENT 0, 3)])), (0 : Nat), (4 : Nat), ({ desc := (toLE 64 0x40000000200000000000000000000000000000000000000000000000000003001) } : Started), ((fun x : MoveEnd => decide (2 ≤ x.space ∨ (x.space = 1 ∧ ¬ (3 < 32 ∧ 0 * 4096 ≤ x.addr ∧ x.addr + (4 + 2047) / 2048 * 2048 ≤ 0 * 4096)))) : MoveEnd → Bool), by (repeat' refine And.intro ?_ ?_) <;> first | decide +kernel | exact fun x => decide_eq_true_iff⟩,
    ⟨(hx (fun h => {(h.setStarted 0 [{ desc := (toLE 64 0x80000000000000000000018000000000000000000000010000000000000003001) }]) with bme := true}) (hx (fun h => { h with bme := (true) }) (st []))), (0 : Nat), (0x1000 : Nat), (0x1800 : Nat), _, ({ desc := (toLE 64 0x80000000000000000000018000000000000000000000010000000000000003001) } : Started), ([1,2,3,4,5,6,7,8] : List Byte), _, rfl, rfl, by decide +kernel⟩,
    ⟨(hx (fun h => { ({(h.setStarted 0 [{ desc := (toLE 64 0x80000000000000000000018000000000000000000000010000000000000003001) }]) with bme := true}) with noRead := [(0x1000, 16)] }) (hx (fun h => { h with bme := (true) }) (st []))), (0 : Nat), (0x1000 : Nat), (0x1800 : Nat), _, ({ desc := (toLE 64 0x80000000000000000000018000000000000000000000010000000000000003001) } : Started), (0 : Nat), rfl, by decide +kernel⟩,
    ⟨(hx (fun h => {(h.setStarted 0 [{ desc := (toLE 64 0x80000000000000000000018000000000000000000000010000000000000003001) }]) with bme := true}) (hx (fun h => { h with bme := (true) }) (st []))), (0 : Nat), (0x1000 : Nat), (0x1800 : Nat), _, ({ desc := (toLE 64 0x80000000000000000000018000000000000000000000010000000000000003001) } : Started), (2 : Nat), rfl, by decide +kernel⟩,
    ⟨(hx (fun h => {(h.setStarted 0 [{ desc := (toLE 64 0x80000000100000000000018000000000000000000000010000000000000003001) }]) with bme := true, mem := Mem.setBytes [] 0x1000 [1,2,3,4]}) (hx (fun h => { h with bme := (true) }) (st [(Reg.MEM_STATUS.INIT_DONE, 1), (Reg.MEM_STATUS.INIT_DONE, 1)]))), (0 : Nat), (0x1000 : Nat), (0x1800 : Nat), _, ({ desc := (toLE 64 0x80000000100000000000018000000000000000000000010000000000000003001) } : Started), rfl, by decide +kernel⟩,
    ⟨(hx (fun h => {(h.setStarted 0 [{ desc := (toLE 64 0x55000000080000000000000000000018000000000000000000000000000000000000003101) }]) with bme := true}) (hx (fun h => { h with bme := (true) }) (st []))), (0 : Nat), (0x1800 : Nat), _, ({ desc := (toLE 64 0x55000000080000000000000000000018000000000000000000000000000000000000003101) } : Started), rfl, by decide +kernel⟩⟩

theorem wit_RecipeCommands :
    (∃ s : State, ∃ q : Nat, ∃ d : Started, s.running ∧ 4 ≤ d.fld 20 1 ∧ s.host.current q 0x10 = some d)
    ∧ (∃ s : State, ∃ q : Nat, ∃ d : Started, s.running ∧ 4 ≤ d.fld 20 1 ∧ s.host.current q 0x11 = some d)
    ∧ (∃ s : State, ∃ q : Nat, ∃ d : Started, s.running ∧ 4 ≤ d.fld 20 1 ∧ s.host.current q 0x13 = some d)
    ∧ (∃ s : State, ∃ q : Nat, ∃ d : Started, s.running ∧ d.fld 20 1 < 4 ∧ s.host.insp.armed.isSome = true ∧ s.host.insp.armedSlot =
    d.fld 20 1 ∧ s.host.current q 0x10 = some d)
    ∧ (∃ s : State, ∃ q : Nat, ∃ d : Started, s.running ∧ d.fld 20 1 < 4 ∧ s.host.insp.armed.isSome = true ∧ s.host.insp.armedSlot =
    d.fld 20 1 ∧ s.host.current q 0x13 = some d)
    ∧ (∃ s : State, ∃ q : Nat, ∃ slot : Nat, ∃ d : Started, s.running ∧ slot = d.fld 20 1 ∧ slot < 4 ∧ (s.host.insp.armed = none ∨
    s.host.insp.armedSlot ≠ slot) ∧ s.host.current q 0x13 = some d)
    ∧ (∃ s : State, ∃ q : Nat, ∃ slot : Nat, ∃ d : Started, ∃ len : Nat, ∃ img : List Byte, ∃ r : Recipe, len = d.fld 16 4 ∧ img =
    s.host.hostRead (d.fld 8 8) len ∧ r = { hdr := img.take 1024 } ∧ s.running ∧ slot = d.fld 20 1 ∧ slot < 4 ∧
    (s.host.insp.armed = none ∨ s.host.insp.armedSlot ≠ slot) ∧ s.host.current q 0x10 = some d ∧ d.fld 8 8 % 64 = 0 ∧ s.host.bme
    = true ∧ s.host.readErr (d.fld 8 8) len = true)
    ∧ (∃ s : State, ∃ q : Nat, ∃ slot : Nat, ∃ d : Started, ∃ len : Nat, ∃ img : List Byte, ∃ r : Recipe, len = d.fld 16 4 ∧ img =
    s.host.hostRead (d.fld 8 8) len ∧ r = { hdr := img.take 1024 } ∧ s.running ∧ slot = d.fld 20 1 ∧ slot < 4 ∧
    (s.host.insp.armed = none ∨ s.host.insp.armedSlot ≠ slot) ∧ s.host.current q 0x10 = some d ∧ d.fld 8 8 % 64 = 0 ∧ s.host.bme
    = true ∧ s.host.readErr (d.fld 8 8) len = false ∧ headerOk img len = false)
    ∧ (∃ s : State, ∃ q : Nat, ∃ slot : Nat, ∃ d : Started, ∃ len : Nat, ∃ img : List Byte, ∃ r : Recipe, ∃ prog : List Seg, ∃ wght :
    List Seg, len = d.fld 16 4 ∧ img = s.host.hostRead (d.fld 8 8) len ∧ r = { hdr := img.take 1024 } ∧ s.running ∧ slot = d.fld
    20 1 ∧ slot < 4 ∧ (s.host.insp.armed = none ∨ s.host.insp.armedSlot ≠ slot) ∧ s.host.current q 0x10 = some d ∧ d.fld 8 8 % 64
    = 0 ∧ s.host.bme = true ∧ s.host.readErr (d.fld 8 8) len = false ∧ headerOk img len = true ∧ sectionSegs img (r.u 80 4) (r.u
    84 4) = some prog ∧ sectionSegs img (r.u 88 4) (r.u 92 4) = some wght ∧ (∀ x ∈ wght, x.1 < 2) ∧ (∀ x ∈ prog, x.1 < 6) ∧ (∀ x
    ∈ prog ++ wght, segOk s.variant x = true ∧ x.1 ≠ 0 ∧ x.1 ≠ 5) ∧ sha3 (asciiOf "KM7PROG1" ++ (img.drop (r.u 80 4)).take (r.u
    84 4)) = (r.hdr.drop 16).take 32 ∧ sha3 (asciiOf "KM7WGHT1" ++ (img.drop (r.u 88 4)).take (r.u 92 4)) = (r.hdr.drop 48).take
    32)
    ∧ (∃ s : State, ∃ q : Nat, ∃ slot : Nat, ∃ d : Started, s.running ∧ slot = d.fld 20 1 ∧ slot < 4 ∧ s.host.current q 0x11 = some d ∧
    s.host.insp.slots.find slot = none)
    ∧ (∃ s : State, ∃ q : Nat, ∃ slot : Nat, ∃ d : Started, ∃ r, s.running ∧ slot = d.fld 20 1 ∧ slot < 4 ∧ s.host.current q 0x11 = some
    d ∧ s.host.insp.slots.find slot = some r ∧ s.host.r210 r = false)
    ∧ (∃ s : State, ∃ q : Nat, ∃ slot : Nat, ∃ d : Started, ∃ r, s.running ∧ slot = d.fld 20 1 ∧ slot < 4 ∧ s.host.current q 0x11 = some
    d ∧ s.host.insp.slots.find slot = some r ∧ s.host.r210 r = true ∧ s.host.slotsBad s.variant r = true)
    ∧ (∃ s : State, ∃ q : Nat, ∃ slot : Nat, ∃ d : Started, ∃ r, s.running ∧ slot = d.fld 20 1 ∧ slot < 4 ∧ s.host.current q 0x11 = some
    d ∧ s.host.insp.slots.find slot = some r ∧ s.host.r210 r = true ∧ s.host.slotsBad s.variant r = false ∧ (∃ i, i < 8 ∧
    s.host.orderOk s.variant r i = false))
    ∧ (∃ s : State, ∃ q : Nat, ∃ slot : Nat, ∃ d : Started, ∃ r, s.running ∧ slot = d.fld 20 1 ∧ slot < 4 ∧ s.host.current q 0x11 = some
    d ∧ s.host.insp.slots.find slot = some r ∧ s.host.r210 r = true ∧ s.host.slotsBad s.variant r = false ∧ (∀ i, i < 8 →
    s.host.orderOk s.variant r i = true))
    ∧ (∃ s : State, ∃ q : Nat, ∃ d : Started, s.running ∧ s.host.current q 0x12 = some d ∧ s.host.insp.armed = none ∧
    s.host.insp.commits = [])
    ∧ (∃ s : State, ∃ q : Nat, ∃ d : Started, s.running ∧ s.host.current q 0x12 = some d ∧ (s.host.insp.armed.isSome = true ∨
    s.host.insp.commits ≠ [])) :=
  ⟨⟨(hx (fun h => (h.setStarted 0 [{ desc := (toLE 64 0x40000000000000000000000000000000000001001) }])) (st [])), (0 : Nat), ({ desc := (toLE 64 0x40000000000000000000000000000000000001001) } : Started), by decide +kernel⟩,
    ⟨(hx (fun h => (h.setStarted 0 [{ desc := (toLE 64 0x40000000000000000000000000000000000001101) }])) (st [])), (0 : Nat), ({ desc := (toLE 64 0x40000000000000000000000000000000000001101) } : Started), by decide +kernel⟩,
    ⟨(hx (fun h => (h.setStarted 0 [{ desc := (toLE 64 0x40000000000000000000000000000000000001301) }])) (st [])), (0 : Nat), ({ desc := (toLE 64 0x40000000000000000000000000000000000001301) } : Started), by decide +kernel⟩,
    ⟨(hx (fun h => {(h.setStarted 0 [{ desc := (toLE 64 0x30000000000000000000000000000000000001001) }]) with insp := {h.insp with armed := some {}, armedSlot := 3}}) (st [])), (0 : Nat), ({ desc := (toLE 64 0x30000000000000000000000000000000000001001) } : Started), by decide +kernel⟩,
    ⟨(hx (fun h => {(h.setStarted 0 [{ desc := (toLE 64 0x30000000000000000000000000000000000001301) }]) with insp := {h.insp with armed := some {}, armedSlot := 3}}) (st [])), (0 : Nat), ({ desc := (toLE 64 0x30000000000000000000000000000000000001301) } : Started), by decide +kernel⟩,
    ⟨(hx (fun h => { (h.setStarted 0 [{ desc := (toLE 64 0x20000000000000000000000000000000000001301) }]) with insp := { h.insp with slots := [(2, {})] } }) (hx (fun h => { h with insp := { h.insp with armed := (none) } }) (st []))), (0 : Nat), (2 : Nat), ({ desc := (toLE 64 0x20000000000000000000000000000000000001301) } : Started), by decide +kernel⟩,
    ⟨(hx (fun h => { ({(h.setStarted 0 [{ desc := (toLE 64 0x20000040000000000000010000000000000001001) }]) with bme := true}) with noRead := [(0x1000, 16)] }) (hx (fun h => { h with bme := (true) }) (hx (fun h => { h with insp := { h.insp with armed := (none) } }) (st [])))), (0 : Nat), (2 : Nat), ({ desc := (toLE 64 0x20000040000000000000010000000000000001001) } : Started), _, _, _, rfl, rfl, rfl, by decide +kernel⟩,
    ⟨(hx (fun h => {(h.setStarted 0 [{ desc := (toLE 64 0x20000040000000000000010000000000000001001) }]) with bme := true}) (hx (fun h => { h with bme := (true) }) (hx (fun h => { h with insp := { h.insp with armed := (none) } }) (st [])))), (0 : Nat), (2 : Nat), ({ desc := (toLE 64 0x20000040000000000000010000000000000001001) } : Started), _, _, _, rfl, rfl, rfl, by decide +kernel⟩,
    ⟨(hx (fun h => {(h.setStarted 0 [{ desc := (toLE 64 0x20000041000000000000010000000000000001001) }]) with bme := true, mem := [(4096, 75), (4097, 77), (4098, 55), (4099, 82), (4100, 67), (4101, 80), (4102, 69), (4103, 49), (4104, 1), (4108, 16), (4109, 4), (4112, 194), (4113, 52), (4114, 75), (4115, 75), (4116, 34), (4117, 214), (4118, 208), (4119, 21), (4120, 250), (4121, 121), (4122, 60), (4123, 137), (4124, 27), (4125, 179), (4126, 200), (4127, 248), (4128, 94), (4129, 207), (4130, 86), (4131, 116), (4132, 13), (4133, 130), (4134, 10), (4135, 29), (4136, 243), (4137, 38), (4138, 221), (4139, 113), (4140, 18), (4141, 149), (4142, 53), (4143, 222), (4144, 209), (4145, 244), (4146, 121), (4147, 49), (4148, 189), (4149, 35), (4150, 72), (4151, 126), (4152, 109), (4153, 131), (4154, 25), (4155, 204), (4156, 184), (4157, 224), (4158, 87), (4159, 212), (4160, 202), (4161, 220), (4162, 5), (4163, 126), (4164, 158), (4165, 173), (4166, 115), (4167, 250), (4168, 251), (4169, 223), (4170, 22), (4171, 6), (4172, 206), (4173, 57), (4174, 249), (4175, 179), (4177, 4), (4180, 8), (4184, 8), (4185, 4), (4188, 8), (4193, 8)]}) (hx (fun h => { h with bme := (true) }) (hx (fun h => { h with insp := { h.insp with armed := (none) } }) (st [])))), (0 : Nat), (2 : Nat), ({ desc := (toLE 64 0x20000041000000000000010000000000000001001) } : Started), _, _, _, ([] : List Seg), ([] : List Seg), rfl, rfl, rfl, by (repeat' refine And.intro ?_ ?_) <;> decide +kernel⟩,
    ⟨(hx (fun h => (h.setStarted 0 [{ desc := (toLE 64 0x20000000000000000000000000000000000001101) }])) (st [])), (0 : Nat), (2 : Nat), ({ desc := (toLE 64 0x20000000000000000000000000000000000001101) } : Started), by decide +kernel⟩,
    ⟨(hx (fun h => { (h.setStarted 0 [{ desc := (toLE 64 0x20000000000000000000000000000000000001101) }]) with insp := { h.insp with slots := [(2, {id := 1, hdr := (List.replicate 96 0#8 ++ [0#8, 8#8] ++ List.replicate 926 255#8)})] } }) (st [])), (0 : Nat), (2 : Nat), ({ desc := (toLE 64 0x20000000000000000000000000000000000001101) } : Started), (({id := 1, hdr := (List.replicate 96 0#8 ++ [0#8, 8#8] ++ List.replicate 926 255#8)} : Recipe)), by decide +kernel⟩,
    ⟨(hx (fun h => { (h.setStarted 0 [{ desc := (toLE 64 0x20000000000000000000000000000000000001101) }]) with insp := { h.insp with slots := [(2, {id := 1, hdr := (List.replicate 96 0#8 ++ [0#8, 8#8] ++ List.replicate 926 255#8), segs := [(2, 0, 0, List.replicate 1024 255#8)]})] } }) (st [(Reg.MEM_STATUS.INIT_DONE, 1)])), (0 : Nat), (2 : Nat), ({ desc := (toLE 64 0x20000000000000000000000000000000000001101) } : Started), ({id := 1, hdr := (List.replicate 96 0#8 ++ [0#8, 8#8] ++ List.replicate 926 255#8), segs := [(2, 0, 0, List.replicate 1024 255#8)]}), by decide +kernel⟩,
    ⟨(hx (fun h => { (h.setStarted 0 [{ desc := (toLE 64 0x20000000000000000000000000000000000001101) }]) with insp := { h.insp with slots := [(2, {id := 1, hdr := (List.replicate 96 0#8 ++ [0#8, 8#8] ++ List.replicate 158 0#8 ++ [255#8, 127#8] ++ List.replicate 766 255#8)})] } }) (st [(Reg.MEM_STATUS.INIT_DONE, 1)])), (0 : Nat), (2 : Nat), ({ desc := (toLE 64 0x20000000000000000000000000000000000001101) } : Started), ({id := 1, hdr := (List.replicate 96 0#8 ++ [0#8, 8#8] ++ List.replicate 158 0#8 ++ [255#8, 127#8] ++ List.replicate 766 255#8)}), by decide +kernel⟩,
    ⟨(hx (fun h => { (h.setStarted 0 [{ desc := (toLE 64 0x20000000000000000000000000000000000001101) }]) with insp := { h.insp with slots := [(2, {id := 1, hdr := (List.replicate 96 0#8 ++ [0#8, 8#8] ++ List.replicate 926 255#8)})] } }) (st [(Reg.MEM_STATUS.INIT_DONE, 1)])), (0 : Nat), (2 : Nat), ({ desc := (toLE 64 0x20000000000000000000000000000000000001101) } : Started), (({id := 1, hdr := (List.replicate 96 0#8 ++ [0#8, 8#8] ++ List.replicate 926 255#8)} : Recipe)), by decide +kernel⟩,
    ⟨(hx (fun h => (h.setStarted 0 [{ desc := (toLE 64 0x1201) }])) (hx (fun h => { h with insp := { h.insp with armed := (none), commits := ([]) } }) (st []))), (0 : Nat), ({ desc := (toLE 64 0x1201) } : Started), by decide +kernel⟩,
    ⟨(hx (fun h => {(h.setStarted 0 [{ desc := (toLE 64 0x1201) }]) with insp := {h.insp with armed := some {}}}) (st [])), (0 : Nat), ({ desc := (toLE 64 0x1201) } : Started), by decide +kernel⟩⟩

theorem wit_JobsAcceptedAndEnded :
    (∃ s : State, ∃ q : Nat, ∃ p : Nat, ∃ client : Nat, ∃ cores : List Nat, ∃ clu : List Nat, ∃ d : Started, p = d.fld 8 1 ∧ cores =
    (List.range 64).filter (bit (d.fld 12 8)) ∧ client = s.host.client q ∧ clu = ((List.range 8).filter fun k => cores.any fun c
    => c / 8 == k) ∧ s.running ∧ s.host.current q 0x20 = some d ∧ (p = 0 ∨ 8 < p ∨ s.host.partClusters p = []))
    ∧ (∃ s : State, ∃ q : Nat, ∃ p : Nat, ∃ client : Nat, ∃ cores : List Nat, ∃ clu : List Nat, ∃ d : Started, p = d.fld 8 1 ∧ cores =
    (List.range 64).filter (bit (d.fld 12 8)) ∧ client = s.host.client q ∧ clu = ((List.range 8).filter fun k => cores.any fun c
    => c / 8 == k) ∧ s.running ∧ s.host.current q 0x20 = some d ∧ 1 ≤ p ∧ p ≤ 8 ∧ s.host.partClusters p ≠ [] ∧ (cores = [] ∨ ∃ c
    ∈ cores, s.host.partOf (c / 8) ≠ some p ∨ s.host.liveSite c = none))
    ∧ (∃ s : State, ∃ q : Nat, ∃ p : Nat, ∃ client : Nat, ∃ cores : List Nat, ∃ clu : List Nat, ∃ d : Started, p = d.fld 8 1 ∧ cores =
    (List.range 64).filter (bit (d.fld 12 8)) ∧ client = s.host.client q ∧ clu = ((List.range 8).filter fun k => cores.any fun c
    => c / 8 == k) ∧ s.running ∧ s.host.current q 0x20 = some d ∧ 1 ≤ p ∧ p ≤ 8 ∧ s.host.partClusters p ≠ [] ∧ cores ≠ [] ∧ (∀ c
    ∈ cores, s.host.partOf (c / 8) = some p ∧ (s.host.liveSite c).isSome = true) ∧ s.host.jobMax client ≠ 0 ∧ s.host.jobMax
    client ≤ s.host.clientJobs client)
    ∧ (∃ s : State, ∃ q : Nat, ∃ p : Nat, ∃ client : Nat, ∃ cores : List Nat, ∃ clu : List Nat, ∃ d : Started, p = d.fld 8 1 ∧ cores =
    (List.range 64).filter (bit (d.fld 12 8)) ∧ client = s.host.client q ∧ clu = ((List.range 8).filter fun k => cores.any fun c
    => c / 8 == k) ∧ s.running ∧ s.host.current q 0x20 = some d ∧ 1 ≤ p ∧ p ≤ 8 ∧ s.host.partClusters p ≠ [] ∧ cores ≠ [] ∧ (∀ c
    ∈ cores, s.host.partOf (c / 8) = some p ∧ (s.host.liveSite c).isSome = true) ∧ (s.host.jobMax client = 0 ∨ s.host.clientJobs
    client < s.host.jobMax client) ∧ (s.host.freeBlocks p).length < clu.length)
    ∧ (∃ s : State, ∃ q : Nat, ∃ p : Nat, ∃ client : Nat, ∃ cores : List Nat, ∃ clu : List Nat, ∃ d : Started, ∃ tab : Nat × Nat, ∃ mem
    : Nat × Nat × Nat, ∃ n : Nat, ∃ det, p = d.fld 8 1 ∧ cores = (List.range 64).filter (bit (d.fld 12 8)) ∧ client =
    s.host.client q ∧ clu = ((List.range 8).filter fun k => cores.any fun c => c / 8 == k) ∧ s.running ∧ s.host.current q 0x20 =
    some d ∧ 1 ≤ p ∧ p ≤ 8 ∧ s.host.partClusters p ≠ [] ∧ cores ≠ [] ∧ (∀ c ∈ cores, s.host.partOf (c / 8) = some p ∧
    (s.host.liveSite c).isSome = true) ∧ (s.host.jobMax client = 0 ∨ s.host.clientJobs client < s.host.jobMax client) ∧
    clu.length ≤ (s.host.freeBlocks p).length ∧ tab = listRef (d.fld 20 8) ∧ n = 8 * cores.length ∧ mem = s.host.jobRefMem tab
    (clu.headD 0) (8 * clu.headD 0) ∧ jobRefBad s.variant 4 tab n 8 = some det)
    ∧ (∃ s : State, ∃ q : Nat, ∃ p : Nat, ∃ client : Nat, ∃ cores : List Nat, ∃ clu : List Nat, ∃ d : Started, ∃ tab : Nat × Nat, ∃ mem
    : Nat × Nat × Nat, ∃ n : Nat, p = d.fld 8 1 ∧ cores = (List.range 64).filter (bit (d.fld 12 8)) ∧ client = s.host.client q ∧
    clu = ((List.range 8).filter fun k => cores.any fun c => c / 8 == k) ∧ s.running ∧ s.host.current q 0x20 = some d ∧ 1 ≤ p ∧ p
    ≤ 8 ∧ s.host.partClusters p ≠ [] ∧ cores ≠ [] ∧ (∀ c ∈ cores, s.host.partOf (c / 8) = some p ∧ (s.host.liveSite c).isSome =
    true) ∧ (s.host.jobMax client = 0 ∨ s.host.clientJobs client < s.host.jobMax client) ∧ clu.length ≤ (s.host.freeBlocks
    p).length ∧ tab = listRef (d.fld 20 8) ∧ n = 8 * cores.length ∧ mem = s.host.jobRefMem tab (clu.headD 0) (8 * clu.headD 0) ∧
    4 < tab.1)
    ∧ (∃ s : State, ∃ q : Nat, ∃ p : Nat, ∃ client : Nat, ∃ cores : List Nat, ∃ clu : List Nat, ∃ d : Started, ∃ tab : Nat × Nat, ∃ mem
    : Nat × Nat × Nat, ∃ n : Nat, p = d.fld 8 1 ∧ cores = (List.range 64).filter (bit (d.fld 12 8)) ∧ client = s.host.client q ∧
    clu = ((List.range 8).filter fun k => cores.any fun c => c / 8 == k) ∧ s.running ∧ s.host.current q 0x20 = some d ∧ 1 ≤ p ∧ p
    ≤ 8 ∧ s.host.partClusters p ≠ [] ∧ cores ≠ [] ∧ (∀ c ∈ cores, s.host.partOf (c / 8) = some p ∧ (s.host.liveSite c).isSome =
    true) ∧ (s.host.jobMax client = 0 ∨ s.host.clientJobs client < s.host.jobMax client) ∧ clu.length ≤ (s.host.freeBlocks
    p).length ∧ tab = listRef (d.fld 20 8) ∧ n = 8 * cores.length ∧ mem = s.host.jobRefMem tab (clu.headD 0) (8 * clu.headD 0) ∧
    tab.1 ≤ 4 ∧ tab.2 % 8 ≠ 0)
    ∧ (∃ s : State, ∃ q : Nat, ∃ p : Nat, ∃ client : Nat, ∃ cores : List Nat, ∃ clu : List Nat, ∃ d : Started, ∃ tab : Nat × Nat, ∃ mem
    : Nat × Nat × Nat, ∃ n : Nat, p = d.fld 8 1 ∧ cores = (List.range 64).filter (bit (d.fld 12 8)) ∧ client = s.host.client q ∧
    clu = ((List.range 8).filter fun k => cores.any fun c => c / 8 == k) ∧ s.running ∧ s.host.current q 0x20 = some d ∧ 1 ≤ p ∧ p
    ≤ 8 ∧ s.host.partClusters p ≠ [] ∧ cores ≠ [] ∧ (∀ c ∈ cores, s.host.partOf (c / 8) = some p ∧ (s.host.liveSite c).isSome =
    true) ∧ (s.host.jobMax client = 0 ∨ s.host.clientJobs client < s.host.jobMax client) ∧ clu.length ≤ (s.host.freeBlocks
    p).length ∧ tab = listRef (d.fld 20 8) ∧ n = 8 * cores.length ∧ mem = s.host.jobRefMem tab (clu.headD 0) (8 * clu.headD 0) ∧
    jobRefBad s.variant 4 tab n 8 = none ∧ tab.1 = 4 ∧ s.host.portState (tab.2 / 2 ^ 45) ≠ 3)
    ∧ (∃ s : State, ∃ q : Nat, ∃ p : Nat, ∃ client : Nat, ∃ cores : List Nat, ∃ clu : List Nat, ∃ d : Started, ∃ ecc : Ecc, ∃ tab : Nat
    × Nat, ∃ mem : Nat × Nat × Nat, ∃ n : Nat, p = d.fld 8 1 ∧ cores = (List.range 64).filter (bit (d.fld 12 8)) ∧ client =
    s.host.client q ∧ clu = ((List.range 8).filter fun k => cores.any fun c => c / 8 == k) ∧ ecc = {} ∧ s.running ∧
    s.host.current q 0x20 = some d ∧ 1 ≤ p ∧ p ≤ 8 ∧ s.host.partClusters p ≠ [] ∧ cores ≠ [] ∧ (∀ c ∈ cores, s.host.partOf (c /
    8) = some p ∧ (s.host.liveSite c).isSome = true) ∧ (s.host.jobMax client = 0 ∨ s.host.clientJobs client < s.host.jobMax
    client) ∧ clu.length ≤ (s.host.freeBlocks p).length ∧ tab = listRef (d.fld 20 8) ∧ n = 8 * cores.length ∧ mem =
    s.host.jobRefMem tab (clu.headD 0) (8 * clu.headD 0) ∧ jobRefBad s.variant 4 tab n 8 = none ∧ tab.1 ≤ 3 ∧ s.host.hbmUp = true
    ∧ s.host.comp.jobs.length < 128 ∧ (tab.1 < 2 → s.host.asleep (clu.headD 0) = false) ∧ (tab.1 = 3 → s.host.asleep 0 = false) ∧
    (s.host.storeOf mem.1 mem.2.1).useFails mem.2.2 n ≠ none)
    ∧ (∃ s : State, ∃ q : Nat, ∃ p : Nat, ∃ client : Nat, ∃ cores : List Nat, ∃ clu : List Nat, ∃ d : Started, ∃ ecc : Ecc, ∃ tab : Nat
    × Nat, ∃ mem : Nat × Nat × Nat, ∃ n : Nat, ∃ refs : List (Nat × Nat × Nat), p = d.fld 8 1 ∧ cores = (List.range 64).filter
    (bit (d.fld 12 8)) ∧ client = s.host.client q ∧ clu = ((List.range 8).filter fun k => cores.any fun c => c / 8 == k) ∧ ecc =
    {} ∧ s.running ∧ s.host.current q 0x20 = some d ∧ 1 ≤ p ∧ p ≤ 8 ∧ s.host.partClusters p ≠ [] ∧ cores ≠ [] ∧ (∀ c ∈ cores,
    s.host.partOf (c / 8) = some p ∧ (s.host.liveSite c).isSome = true) ∧ (s.host.jobMax client = 0 ∨ s.host.clientJobs client <
    s.host.jobMax client) ∧ clu.length ≤ (s.host.freeBlocks p).length ∧ tab = listRef (d.fld 20 8) ∧ n = 8 * cores.length ∧ mem =
    s.host.jobRefMem tab (clu.headD 0) (8 * clu.headD 0) ∧ jobRefBad s.variant 4 tab n 8 = none ∧ tab.1 ≤ 3 ∧ s.host.hbmUp = true
    ∧ s.host.comp.jobs.length < 128 ∧ (tab.1 < 2 → s.host.asleep (clu.headD 0) = false) ∧ (tab.1 = 3 → s.host.asleep 0 = false) ∧
    (s.host.storeOf mem.1 mem.2.1).useFails mem.2.2 n = none ∧ refs = cores.mapIdx (fun i c => (c, listRef (leNat
    ((((s.host.storeOf mem.1 mem.2.1).read mem.2.2 n).drop (8 * i)).take 8)))) ∧ (∀ x ∈ refs, jobRefBad s.variant 2 x.2 16 64 =
    none) ∧ (∀ x ∈ refs, x.2.1 ≠ 0 → bit (leNat ((s.host.storeOf (s.host.jobRefMem x.2 (x.1 / 8) x.1).1 (s.host.jobRefMem x.2
    (x.1 / 8) x.1).2.1).read (s.host.jobRefMem x.2 (x.1 / 8) x.1).2.2 1)) 4 = false))
    ∧ (∃ s : State, ∃ q : Nat, ∃ d : Started, s.running ∧ s.host.current q 0x21 = some d ∧ s.host.job (d.fld 8 4) = none)
    ∧ (∃ s : State, ∃ q : Nat, ∃ d : Started, ∃ j, s.running ∧ s.host.current q 0x21 = some d ∧ s.host.job (d.fld 8 4) = some j ∧
    (j.state = 1 ∨ j.state = 6))
    ∧ (∃ s : State, ∃ q : Nat, ∃ d : Started, ∃ j, s.running ∧ s.host.current q 0x21 = some d ∧ s.host.job (d.fld 8 4) = some j ∧ 2 ≤
    j.state ∧ j.state ≤ 5)
    ∧ (∃ s : State, ∃ j : Job, ∃ d : Started, ∃ st, ∃ det, s.running ∧ s.host.job j.id = some j ∧ d ∈ s.host.started j.q ∧ d.idx = j.idx
    ∧ d.fin = none ∧ j.ending = some (st, det))
    ∧ (∃ s : State, ∃ j : Job, ∃ d : Started, s.running ∧ s.host.job j.id = some j ∧ d ∈ s.host.started j.q ∧ d.idx = j.idx ∧ d.fin =
    none ∧ j.ending = none ∧ (j.state = 3 ∨ j.state = 4) ∧ (∀ c ∈ j.cores, c ∈ j.ended) ∧ (∀ c ∈ j.cores, ∀ site, s.host.siteOf c
    = some site → s.host.coreState site ≠ 5))
    ∧ (∃ s : State, ∃ j : Job, ∃ d : Started, ∃ c, ∃ site, s.running ∧ s.host.job j.id = some j ∧ d ∈ s.host.started j.q ∧ d.idx = j.idx
    ∧ d.fin = none ∧ j.ending = none ∧ 2 ≤ j.state ∧ j.state ≤ 5 ∧ j.cores = [c] ∧ s.host.siteOf c = some site ∧ (s.host.core
    site).job = some j.id ∧ s.host.coreState site = 5)
    ∧ (∃ s : State, ∃ j : Job, ∃ d : Started, s.running ∧ s.host.job j.id = some j ∧ d ∈ s.host.started j.q ∧ d.idx = j.idx ∧ d.fin =
    none ∧ j.state = 4)
    ∧ (∃ s : State, ∃ q : Nat, ∃ part : Nat, ∃ clusters : Nat, ∃ us : Nat, ∃ d : Started, part = d.fld 8 1 ∧ clusters = d.fld 9 1 ∧ us =
    d.fld 12 4 ∧ s.up ∧ s.host.current q 0x43 = some d ∧ (8 < part ∨ (part = 0 ∧ us ≠ 0) ∨ (part ≠ 0 ∧ (us < 100 ∨ 100000 < us))))
    ∧ (∃ s : State, ∃ q : Nat, ∃ part : Nat, ∃ clusters : Nat, ∃ us : Nat, ∃ d : Started, ∃ det, part = d.fld 8 1 ∧ clusters = d.fld 9 1
    ∧ us = d.fld 12 4 ∧ s.up ∧ s.host.current q 0x43 = some d ∧ part ≤ 8 ∧ (part = 0 → us = 0) ∧ (part ≠ 0 → 100 ≤ us ∧ us ≤
    100000) ∧ s.host.partRefused part clusters = some det)
    ∧ (∃ s : State, ∃ q : Nat, ∃ part : Nat, ∃ clusters : Nat, ∃ us : Nat, ∃ d : Started, part = d.fld 8 1 ∧ clusters = d.fld 9 1 ∧ us =
    d.fld 12 4 ∧ s.up ∧ s.host.current q 0x43 = some d ∧ part ≤ 8 ∧ (part = 0 → us = 0) ∧ (part ≠ 0 → 100 ≤ us ∧ us ≤ 100000) ∧
    s.host.partRefused part clusters = none) :=
  ⟨⟨(hx (fun h => (h.setStarted 0 [{ desc := (toLE 64 0x100000020000000000000100000000010000000000002001) }])) (st [])), (0 : Nat), _, _, _, _, ({ desc := (toLE 64 0x100000020000000000000100000000010000000000002001) } : Started), rfl, rfl, rfl, rfl, by decide +kernel⟩,
    ⟨(hx (fun h => { (h.setStarted 0 [{ desc := (toLE 64 0x1000000010000000000002001) }]) with comp := {h.comp with part := [(1,1)]}, insp := {h.insp with siteOf := [(8,9)]} }) (st [])), (0 : Nat), _, _, _, _, ({ desc := (toLE 64 0x1000000010000000000002001) } : Started), rfl, rfl, rfl, rfl, by decide +kernel⟩,
    ⟨(hx (fun h => { (h.setStarted 0 [{ desc := (toLE 64 0x100000020000000000000100000000010000000000002001) }]) with comp := {h.comp with part := [(1,1)], jobs := [{id := 3, part := 1}]}, insp := {h.insp with siteOf := [(8,9)]} }) (st [(⟨0x400, 0, 8⟩, 1)])), (0 : Nat), _, _, _, _, ({ desc := (toLE 64 0x100000020000000000000100000000010000000000002001) } : Started), rfl, rfl, rfl, rfl, by decide +kernel⟩,
    ⟨(hx (fun h => { (h.setStarted 0 [{ desc := (toLE 64 0x100000020000000000000100000000010000000000002001) }]) with comp := {h.comp with part := [(1,1)]}, insp := {h.insp with siteOf := [(8,9)]} }) (st [])), (0 : Nat), _, _, _, _, ({ desc := (toLE 64 0x100000020000000000000100000000010000000000002001) } : Started), rfl, rfl, rfl, rfl, by decide +kernel⟩,
    ⟨(hx (fun h => { (h.setStarted 0 [{ desc := (toLE 64 0x100000050000000000000100000000010000000000002001) }]) with comp := {h.comp with part := [(1,1)]}, insp := {h.insp with siteOf := [(8,9)]} }) (st [(Reg.PART_SAVE_CFG.GROUPS 0, 1), (Reg.PART_SAVE_CFG.BLOCKS_M1 0, 3), (Reg.MEM_STATUS.INIT_DONE, 1)])), (0 : Nat), _, _, _, _, ({ desc := (toLE 64 0x100000050000000000000100000000010000000000002001) } : Started), ((5,0x1000) : Nat × Nat), ((2,0,0x1000) : Nat × Nat × Nat), (8 : Nat), (3 : Nat), rfl, rfl, rfl, rfl, by decide +kernel⟩,
    ⟨(hx (fun h => { (h.setStarted 0 [{ desc := (toLE 64 0x100000050000000000000100000000010000000000002001) }]) with comp := {h.comp with part := [(1,1)]}, insp := {h.insp with siteOf := [(8,9)]} }) (st [(Reg.PART_SAVE_CFG.GROUPS 0, 1), (Reg.PART_SAVE_CFG.BLOCKS_M1 0, 3), (Reg.MEM_STATUS.INIT_DONE, 1)])), (0 : Nat), _, _, _, _, ({ desc := (toLE 64 0x100000050000000000000100000000010000000000002001) } : Started), ((5,0x1000) : Nat × Nat), ((2,0,0x1000) : Nat × Nat × Nat), (8 : Nat), rfl, rfl, rfl, rfl, by decide +kernel⟩,
    ⟨(hx (fun h => { (h.setStarted 0 [{ desc := (toLE 64 0x100100020000000000000100000000010000000000002001) }]) with comp := {h.comp with part := [(1,1)]}, insp := {h.insp with siteOf := [(8,9)]} }) (st [(Reg.PART_SAVE_CFG.GROUPS 0, 1), (Reg.PART_SAVE_CFG.BLOCKS_M1 0, 3), (Reg.MEM_STATUS.INIT_DONE, 1)])), (0 : Nat), _, _, _, _, ({ desc := (toLE 64 0x100100020000000000000100000000010000000000002001) } : Started), ((2,0x1001) : Nat × Nat), ((2,0,0x1001) : Nat × Nat × Nat), (8 : Nat), rfl, rfl, rfl, rfl, by decide +kernel⟩,
    ⟨(hx (fun h => { (h.setStarted 0 [{ desc := (toLE 64 0x100000040000000000000100000000010000000000002001) }]) with comp := {h.comp with part := [(1,1)]}, insp := {h.insp with siteOf := [(8,9)]} }) (st [(Reg.PART_SAVE_CFG.GROUPS 0, 1), (Reg.PART_SAVE_CFG.BLOCKS_M1 0, 3), (Reg.MEM_STATUS.INIT_DONE, 1)])), (0 : Nat), _, _, _, _, ({ desc := (toLE 64 0x100000040000000000000100000000010000000000002001) } : Started), ((4,0x1000) : Nat × Nat), ((2,0,0x1000) : Nat × Nat × Nat), (8 : Nat), rfl, rfl, rfl, rfl, by decide +kernel⟩,
    ⟨(hx (fun h => { (h.setStarted 0 [{ desc := (toLE 64 0x100000020000000000000100000000010000000000002001) }]) with comp := {h.comp with part := [(1,1)]}, insp := {h.insp with siteOf := [(8,9)]}, hbm := [(0, {poison := [2]})] }) (st [(Reg.MEM_STATUS.INIT_DONE, 1), (Reg.PART_SAVE_CFG.GROUPS 0, 1), (Reg.PART_SAVE_CFG.BLOCKS_M1 0, 3), (Reg.MEM_STATUS.INIT_DONE, 1)])), (0 : Nat), _, _, _, _, ({ desc := (toLE 64 0x100000020000000000000100000000010000000000002001) } : Started), _, ((2,0x1000) : Nat × Nat), ((2,0,0x1000) : Nat × Nat × Nat), (8 : Nat), rfl, rfl, rfl, rfl, rfl, by decide +kernel⟩,
    ⟨(hx (fun h => { (h.setStarted 0 [{ desc := (toLE 64 0x100000020000000000000100000000010000000000002001) }]) with comp := {h.comp with part := [(1,1)]}, insp := {h.insp with siteOf := [(8,9)]}, hbm := [(0, {mem := Mem.setBytes [] 0x1000 (toLE 8 (2 + 0x2000 * 2^16))})] }) (st [(Reg.MEM_STATUS.INIT_DONE, 1), (Reg.PART_SAVE_CFG.GROUPS 0, 1), (Reg.PART_SAVE_CFG.BLOCKS_M1 0, 3), (Reg.MEM_STATUS.INIT_DONE, 1)])), (0 : Nat), _, _, _, _, ({ desc := (toLE 64 0x100000020000000000000100000000010000000000002001) } : Started), _, ((2,0x1000) : Nat × Nat), ((2,0,0x1000) : Nat × Nat × Nat), (8 : Nat), (([(8,(2,0x2000))] : List (Nat × Nat × Nat)) : List (Nat × Nat × Nat)), rfl, rfl, rfl, rfl, rfl, by decide +kernel⟩,
    ⟨(hx (fun h => (h.setStarted 0 [{ desc := (toLE 64 0x70000000000002101) }])) (st [])), (0 : Nat), ({ desc := (toLE 64 0x70000000000002101) } : Started), by decide +kernel⟩,
    ⟨(hx (fun h => { (h.setStarted 0 [{ desc := (toLE 64 0x70000000000002101) }]) with comp := {h.comp with part := [(1,1)], jobs := [({id := 7, part := 1, cores := [8], state := 6} : Job)]}, insp := {h.insp with siteOf := [(8,9)]} }) (st [])), (0 : Nat), ({ desc := (toLE 64 0x70000000000002101) } : Started), (({id := 7, part := 1, cores := [8], state := 6} : Job)), by decide +kernel⟩,
    ⟨(hx (fun h => { (h.setStarted 0 [{ desc := (toLE 64 0x70000000000002101) }]) with comp := {h.comp with part := [(1,1)], jobs := [({id := 7, part := 1, cores := [8], state := 3} : Job)]}, insp := {h.insp with siteOf := [(8,9)]} }) (st [])), (0 : Nat), ({ desc := (toLE 64 0x70000000000002101) } : Started), (({id := 7, part := 1, cores := [8], state := 3} : Job)), by decide +kernel⟩,
    ⟨(hx (fun h => { (h.setStarted 0 [{ desc := (toLE 64 0x100000020000000000000100000000010000000000002001) }]) with comp := {h.comp with part := [(1,1)], jobs := [({id := 7, part := 1, cores := [8], state := 3, ending := some (6, 0xF1)} : Job)]}, insp := {h.insp with siteOf := [(8,9)]} }) (st [])), (({id := 7, part := 1, cores := [8], state := 3, ending := some (6, 0xF1)} : Job) : Job), (({ desc := (toLE 64 0x100000020000000000000100000000010000000000002001) } : Started) : Started), (6 : Nat), (0xF1 : Nat), by decide +kernel⟩,
    ⟨(hx (fun h => { (h.setStarted 0 [{ desc := (toLE 64 0x100000020000000000000100000000010000000000002001) }]) with comp := {h.comp with part := [(1,1)], jobs := [({id := 7, part := 1, cores := [8], state := 3, ended := [8]} : Job)]}, insp := {h.insp with siteOf := [(8,9)]} }) (st [])), (({id := 7, part := 1, cores := [8], state := 3, ended := [8]} : Job) : Job), (({ desc := (toLE 64 0x100000020000000000000100000000010000000000002001) } : Started) : Started), by decide +kernel⟩,
    ⟨(hx (fun h => { (h.setStarted 0 [{ desc := (toLE 64 0x100000020000000000000100000000010000000000002001) }]).setCore 9 {job := some 7} with comp := {h.comp with part := [(1,1)], jobs := [({id := 7, part := 1, cores := [8], state := 3} : Job)]}, insp := {h.insp with siteOf := [(8,9)]} }) (st [(Reg.CORE_STATUS.STATE (9 : Nat), 5), (Reg.CORE_STATUS.STATE 9, 5)])), (({id := 7, part := 1, cores := [8], state := 3} : Job) : Job), (({ desc := (toLE 64 0x100000020000000000000100000000010000000000002001) } : Started) : Started), (8 : Nat), (9 : Nat), by decide +kernel⟩,
    ⟨(hx (fun h => { (h.setStarted 0 [{ desc := (toLE 64 0x100000020000000000000100000000010000000000002001) }]) with comp := {h.comp with part := [(1,1)], jobs := [({id := 7, part := 1, cores := [8], state := 4} : Job)]}, insp := {h.insp with siteOf := [(8,9)]} }) (st [])), (({id := 7, part := 1, cores := [8], state := 4} : Job) : Job), (({ desc := (toLE 64 0x100000020000000000000100000000010000000000002001) } : Started) : Started), by decide +kernel⟩,
    ⟨(hx (fun h => (h.setStarted 0 [{ desc := (toLE 64 0x90000000000004301) }])) (st [])), (0 : Nat), _, _, _, ({ desc := (toLE 64 0x90000000000004301) } : Started), rfl, rfl, rfl, by decide +kernel⟩,
    ⟨(hx (fun h => {(h.setStarted 0 [{ desc := (toLE 64 0x64000000010000000000004301) }]) with insp := {h.insp with armed := some {hdr := List.replicate 128 255#8}}, comp := {h.comp with part := [(0,0)]}}) (st [(Reg.SRV_CTRL.EN 0, 1)])), (0 : Nat), _, _, _, ({ desc := (toLE 64 0x64000000010000000000004301) } : Started), (3 : Nat), rfl, rfl, rfl, by decide +kernel⟩,
    ⟨(hx (fun h => (h.setStarted 0 [{ desc := (toLE 64 0x64000001010000000000004301) }])) (st [])), (0 : Nat), _, _, _, ({ desc := (toLE 64 0x64000001010000000000004301) } : Started), rfl, rfl, rfl, by decide +kernel⟩⟩

theorem wit_JobScheduling :
    (∃ s : State, ∃ p : Nat, ∃ j : Job, ∃ w : Job, ∃ k : Nat, s.running ∧ 1 ≤ p ∧ p ≤ 8 ∧ j ∈ s.host.comp.jobs ∧ j.part = p ∧ j.state
    = 3 ∧ j.ending = none ∧ (∀ x ∈ s.host.comp.jobs, x.live = true → x.id = j.id → x = j) ∧ j.runTick + s.host.get
    (Reg.PART_SLICE_US (p - 1)) * 500 ≤ s.tick.toNat ∧ w ∈ s.host.comp.jobs ∧ w.part = p ∧ w.waits = true ∧ k ∈ w.clusters ∧ k ∈
    j.clusters)
    ∧ (∃ s : State, ∃ p : Nat, ∃ w : Job, s.running ∧ 1 ≤ p ∧ p ≤ 8 ∧ w ∈ s.host.comp.jobs ∧ w.part = p ∧ w.waits = true ∧ (∀ x ∈
    s.host.comp.jobs, x.live = true → x.id = w.id → x = w) ∧ (∀ x ∈ s.host.comp.jobs, x.part = p → x.waits = true → x = w) ∧ (∀ x
    ∈ s.host.comp.jobs, ∀ k ∈ w.clusters, x.holds k = false))
    ∧ (∃ s : State, ∃ j : Job, s.running ∧ s.jobsOk ∧ s.host.job j.id = some j ∧ j.state = 4 ∧ j.ending = none ∧ (∃ c ∈ j.cores, c ∉
    j.ended) ∧ (∀ c ∈ j.cores, c ∈ j.ended ∨ ∃ site, s.host.siteOf c = some site ∧ s.host.coreState site = 4))
    ∧ (∃ s : State, ∃ j : Job, ∃ k : Nat, s.running ∧ s.host.hbmUp = true ∧ s.host.job j.id = some j ∧ j.state = 5 ∧ j.ending = none ∧ k
    ∈ j.todo ∧ (∀ x ∈ s.host.comp.jobs, x.live = true → x.id = j.id → x = j))
    ∧ (∃ s : State, ∃ j : Job, ∃ k : Nat, s.running ∧ s.host.hbmUp = true ∧ s.host.job j.id = some j ∧ j.state = 2 ∧ j.ending = none ∧ k
    ∈ j.todo ∧ s.host.asleep k = false ∧ (∀ o ∈ s.host.comp.oxbow, o.job = j.id → o.lcore / 8 = k → o.sram = 0))
    ∧ (∃ s : State, ∃ j : Job, ∃ c : Nat, ∃ spa : Nat, ∃ n : Nat, ∃ o : Oxbow, ∃ data : List Byte, ∃ i, n = min (data.length / 64 * 64)
    (o.total - o.got.length) ∧ s.running ∧ s.host.job j.id = some j ∧ s.host.comp.oxbow.find? (fun o => o.job == j.id && o.lcore
    == c && o.x.spa == spa && o.got.length < o.total) = some o ∧ s.host.isSaved j.id (c / 8) = false ∧ s.host.sramUsed (c / 8) +
    n ≤ 0x40000 ∧ (o.touched o.got.length n).filter (fun i => !(i ∈ o.badPs)) = [i])
    ∧ (∃ s : State, ∃ job : Nat, ∃ k : Nat, s.running ∧ s.host.isSaved job k = true) :=
  ⟨⟨(hx (fun h => { (h.setStarted 0 [{ desc := (toLE 64 0x100000020000000000000100000000010000000000002001) }]) with comp := {h.comp with part := [(1,1)], jobs := [({id := 7, part := 1, cores := [8], state := 3} : Job), {id := 8, part := 1, cores := [9], state := 1}]}, insp := {h.insp with siteOf := [(8,9)]} }) (st [])), (1 : Nat), (({id := 7, part := 1, cores := [8], state := 3} : Job) : Job), ({id := 8, part := 1, cores := [9], state := 1} : Job), (1 : Nat), by decide +kernel⟩,
    ⟨(hx (fun h => { h with comp := {h.comp with part := [(1,1)], jobs := [{id := 8, part := 1, cores := [9], state := 1}]}, insp := {h.insp with siteOf := [(9,10)]} }) (st [])), (1 : Nat), ({id := 8, part := 1, cores := [9], state := 1} : Job), by decide +kernel⟩,
    ⟨(hx (fun h => { (h.setStarted 0 [{ desc := (toLE 64 0x100000020000000000000100000000010000000000002001) }]) with comp := {h.comp with part := [(1,1)], jobs := [({id := 7, part := 1, cores := [8], state := 4} : Job)]}, insp := {h.insp with siteOf := [(8,9)]} }) (st [(Reg.CORE_STATUS.STATE 9, 4)])), (({id := 7, part := 1, cores := [8], state := 4} : Job) : Job), by decide +kernel⟩,
    ⟨(hx (fun h => { (h.setStarted 0 [{ desc := (toLE 64 0x100000020000000000000100000000010000000000002001) }]) with comp := {h.comp with part := [(1,1)], jobs := [({id := 7, part := 1, cores := [8], state := 5, todo := [1]} : Job)]}, insp := {h.insp with siteOf := [(8,9)]} }) (st [(Reg.MEM_STATUS.INIT_DONE, 1)])), (({id := 7, part := 1, cores := [8], state := 5, todo := [1]} : Job) : Job), (1 : Nat), by decide +kernel⟩,
    ⟨(hx (fun h => { (h.setStarted 0 [{ desc := (toLE 64 0x100000020000000000000100000000010000000000002001) }]) with comp := {h.comp with part := [(1,1)], jobs := [({id := 7, part := 1, cores := [8], state := 2, todo := [1]} : Job)]}, insp := {h.insp with siteOf := [(8,9)]} }) (st [(Reg.MEM_STATUS.INIT_DONE, 1)])), (({id := 7, part := 1, cores := [8], state := 2, todo := [1]} : Job) : Job), (1 : Nat), by decide +kernel⟩,
    ⟨(hx (fun h => { (h.setStarted 0 [{ desc := (toLE 64 0x100000020000000000000100000000010000000000002001) }]) with comp := {h.comp with part := [(1,1)], jobs := [({id := 7, part := 1, cores := [8], state := 4} : Job)], oxbow := [{job := 7, lcore := 8, x := {len := 4, spa := 64}}]}, insp := {h.insp with siteOf := [(8,9)]} }) (st [])), (({id := 7, part := 1, cores := [8], state := 4} : Job) : Job), (8 : Nat), (64 : Nat), _, ({job := 7, lcore := 8, x := {len := 4, spa := 64}} : Oxbow), ((List.replicate 64 3#8) : List Byte), (0 : Nat), rfl, by decide +kernel⟩,
    ⟨((hx (fun h => {h with comp := {h.comp with saved := [{job := 7, cluster := 1, cores := [], lstore := {}, regs := [], lsc := []}], oxbow := [{job := 7, lcore := 8, sram := 64}]}}) (st []))), (7 : Nat), (1 : Nat), by decide +kernel⟩⟩

theorem wit_ServingSteps :
    (∃ s : State, ∃ p : Nat, ∃ v : Word, s.open_ ∧ 1 ≤ p ∧ p ≤ 8 ∧ s.host.on (Reg.SRV_CTRL.EN (p - 1)) = false ∧ v.getLsbD 0 = true)
    ∧ (∃ s : State, ∃ p : Nat, ∃ v : Word, s.open_ ∧ 1 ≤ p ∧ p ≤ 8 ∧ s.host.on (Reg.SRV_CTRL.EN (p - 1)) = true ∧ v.getLsbD 0 = false ∧
    (s.host.servingJob p).isSome = true)
    ∧ (∃ s : State, ∃ p : Nat, ∃ v : Word, s.open_ ∧ 1 ≤ p ∧ p ≤ 8 ∧ s.host.on (Reg.SRV_CTRL.EN (p - 1)) = true ∧ v.getLsbD 0 = false ∧
    s.host.servingJob p = none)
    ∧ (∃ s : State, ∃ p : Nat, ∃ j : Job, s.running ∧ s.host.servingJob p = some j ∧ s.host.bme = true ∧ (s.host.serving p).running =
    true ∧ (∀ c ∈ j.cores, c ∈ (s.host.serving p).stepEnd))
    ∧ (∃ s : State, ∃ p : Nat, ∃ j : Job, s.running ∧ s.host.servingJob p = some j ∧ s.host.bme = true ∧ s.settled ∧ (s.host.serving
    p).running = true ∧ (∃ c ∈ j.cores, c ∉ (s.host.serving p).stepEnd))
    ∧ (∃ s : State, ∃ p : Nat, ∃ base : Nat, ∃ head : Nat, ∃ tail : Nat, ∃ n : Nat, ∃ j : Job, base = s.host.get (Reg.SRV_RING_LO (p -
    1)) * 64 + s.host.get (Reg.SRV_RING_HI (p - 1)) * 2 ^ 32 ∧ head = (s.host.serving p).head ∧ tail = leNat (s.host.hostRead
    base 4) ∧ n = min ((tail + 2 ^ 32 - head % 2 ^ 32) % 2 ^ 32) (Machine.sizeOf (s.host.get (Reg.SRV_RING.SIZE_L (p - 1)))) ∧
    s.running ∧ 1 ≤ p ∧ p ≤ 8 ∧ s.host.servingJob p = some j ∧ s.host.bme = true ∧ (s.host.serving p).running = false ∧ j.begun =
    true ∧ (s.host.serving p).active = []) :=
  ⟨⟨(st [(Reg.DEV_STATUS.READY, 1), ((Reg.SRV_CTRL.EN ((8 : Nat) - 1)), 0)]), (8 : Nat), (1#32 : Word), by decide +kernel⟩,
    ⟨(hx (fun h => { h with comp := {h.comp with jobs := [{id := 7, part := 1, state := 3}]}}) (st [(Reg.DEV_STATUS.READY, 1), ((Reg.SRV_CTRL.EN ((1 : Nat) - 1)), 1)])), (1 : Nat), (0#32 : Word), by decide +kernel⟩,
    ⟨(st [(Reg.DEV_STATUS.READY, 1), ((Reg.SRV_CTRL.EN ((1 : Nat) - 1)), 1)]), (1 : Nat), (0#32 : Word), by decide +kernel⟩,
    ⟨(hx (fun h => { h with bme := true, comp := {h.comp with part := [(1,1)], jobs := [({id := 7, part := 1, cores := [8], state := 3} : Job)], serving := [(1,{running := true, stepEnd := [8], waiting := [{req := List.replicate 64 1#8, n := 3}]})]}, insp := {h.insp with siteOf := [(8,9)]} }) (hx (fun h => { h with bme := (true) }) (st [(Reg.SRV_CTRL.EN 0, 1), (Reg.SRV_PAGES 0, 40000)]))), (1 : Nat), (({id := 7, part := 1, cores := [8], state := 3} : Job) : Job), by decide +kernel⟩,
    ⟨(hx (fun h => { h with bme := true, comp := {h.comp with part := [(1,1)], jobs := [({id := 7, part := 1, cores := [8], state := 3} : Job)], serving := [(1,{running := true, stepEnd := []})]}, insp := {h.insp with siteOf := [(8,9)]} }) (hx (fun h => { h with bme := (true) }) (st [(Reg.SRV_CTRL.EN 0, 1), (Reg.SRV_PAGES 0, 40000)]))), (1 : Nat), (({id := 7, part := 1, cores := [8], state := 3} : Job) : Job), by decide +kernel⟩,
    ⟨(hx (fun h => { h with bme := true, comp := {h.comp with part := [(1,1)], jobs := [({id := 7, part := 1, cores := [8], state := 3} : Job)]}, insp := {h.insp with siteOf := [(8,9)]}, mem := Mem.setBytes [] 0 [2,0,0,0] }) (hx (fun h => { h with bme := (true) }) (st [(Reg.SRV_CTRL.EN 0, 1), (Reg.SRV_PAGES 0, 40000)]))), (1 : Nat), _, _, _, _, (({id := 7, part := 1, cores := [8], state := 3} : Job) : Job), rfl, rfl, rfl, rfl, by decide +kernel⟩⟩

theorem wit_TextSamples :
    (∃ s : State, ∃ q : Nat, ∃ dst : Nat, ∃ mx : Nat, ∃ d : Started, dst = d.fld 24 8 ∧ mx = d.fld 32 4 ∧ s.running ∧ s.host.current q
    0x22 = some d ∧ s.host.sampleFirst d = true ∧ (mx = 0 ∨ 4194304 < mx))
    ∧ (∃ s : State, ∃ q : Nat, ∃ dst : Nat, ∃ mx : Nat, ∃ d : Started, dst = d.fld 24 8 ∧ mx = d.fld 32 4 ∧ s.running ∧ s.host.current q
    0x22 = some d ∧ s.host.sampleFirst d = true ∧ 0 < mx ∧ mx ≤ 4194304 ∧ dst / 2 ^ 32 < s.variant.groups ∧ dst % 2048 = 0 ∧ dst
    % 2 ^ 32 < 0xC0000000 ∧ s.host.client q = 0 ∧ s.host.get Reg.HDW_CTRL.EN = 0)
    ∧ (∃ s : State, ∃ q : Nat, ∃ dst : Nat, ∃ mx : Nat, ∃ d : Started, dst = d.fld 24 8 ∧ mx = d.fld 32 4 ∧ s.running ∧ s.host.current q
    0x22 = some d ∧ s.host.sampleFirst d = true ∧ 0 < mx ∧ mx ≤ 4194304 ∧ dst / 2 ^ 32 < s.variant.groups ∧ dst % 2048 = 0 ∧ dst
    % 2 ^ 32 < 0xC0000000 ∧ s.host.client q = 0 ∧ s.host.get Reg.HDW_CTRL.EN = 1)
    ∧ (∃ s : State, ∃ q : Nat, ∃ d : Started, s.running ∧ s.settled ∧ s.host.current q 0x22 = some d ∧ s.host.sampleFirst d = false)
    ∧ (∃ s : State, ∃ q : Nat, ∃ i : Nat, ∃ len : Nat, ∃ rest : List (Nat × Nat), ∃ d : Started, len = d.fld 16 4 ∧ s.running ∧
    s.host.hdw.ready = (q, i) :: rest ∧ q < 64 ∧ s.host.hdw.win.length < 64 ∧ s.host.hdw.stop = none ∧ (s.host.started q).find?
    (fun d => d.idx == i) = some d ∧ len ≤ s.host.get Reg.HDW_MAX_BYTES)
    ∧ (∃ s : State, ∃ q : Nat, ∃ i : Nat, ∃ len : Nat, ∃ rest : List (Nat × Nat), ∃ d : Started, len = d.fld 16 4 ∧ s.running ∧
    s.host.hdw.ready = (q, i) :: rest ∧ q < 64 ∧ s.host.hdw.win.length < 64 ∧ s.host.hdw.stop = none ∧ (s.host.started q).find?
    (fun d => d.idx == i) = some d ∧ s.host.get Reg.HDW_MAX_BYTES < len ∧ s.host.get (Reg.SQ_STATUS.STATE q) = 1)
    ∧ (∃ s : State, ∃ pre : List Sample, ∃ post : List Sample, ∃ y : Sample, s.running ∧ s.host.bme = true ∧ s.host.hdw.win = pre ++ y
    :: post ∧ (∀ x ∈ pre, x.state ≠ 0) ∧ y.state = 0 ∧ (s.host.hdw.win.filter fun x => x.state == 1).length < 8)
    ∧ (∃ s : State, ∃ i : Nat, ∃ smp : Sample, ∃ toks : List (Nat × Nat), toks = s.host.tokenize smp (s.host.hostRead smp.src smp.len) ∧
    s.running ∧ s.host.hdw.win[i]? = some smp ∧ smp.state = 1 ∧ s.host.hbmUp = true ∧ s.host.readErr smp.src smp.len = false ∧
    smp.odd (s.host.hostRead smp.src smp.len) toks = none)
    ∧ (∃ s : State, ∃ i : Nat, ∃ smp : Sample, ∃ toks : List (Nat × Nat), ∃ cause, ∃ off, toks = s.host.tokenize smp (s.host.hostRead
    smp.src smp.len) ∧ s.running ∧ s.host.hdw.win[i]? = some smp ∧ smp.state = 1 ∧ s.host.hbmUp = true ∧ s.host.readErr smp.src
    smp.len = false ∧ smp.odd (s.host.hostRead smp.src smp.len) toks = some (cause, off) ∧ smp.q < 64 ∧ s.host.get
    (Reg.SQ_STATUS.STATE smp.q) = 1)
    ∧ (∃ s : State, ∃ i : Nat, ∃ smp : Sample, ∃ toks : List (Nat × Nat), ∃ err : Bool, toks = s.host.tokenize smp (s.host.hostRead
    smp.src smp.len) ∧ s.running ∧ s.host.hdw.win[i]? = some smp ∧ smp.state = 1 ∧ (err || s.host.readErr smp.src smp.len) = true)
    ∧ (∃ s : State, ∃ smp : Sample, ∃ rest : List Sample, ∃ d : Started, s.running ∧ s.host.hdw.win = smp :: rest ∧ smp.state = 2 ∧
    (s.host.hdw.closed = [] ∨ s.host.batchFull = false) ∧ d ∈ s.host.started smp.q ∧ d.idx = smp.idx ∧ d.fin = none ∧ smp.pcie =
    false ∧ smp.dropped = none ∧ s.host.hbmUp = true)
    ∧ (∃ s : State, ∃ smp : Sample, ∃ rest : List Sample, ∃ d : Started, ∃ cause, s.running ∧ s.host.hdw.win = smp :: rest ∧ smp.state =
    2 ∧ (s.host.hdw.closed = [] ∨ s.host.batchFull = false) ∧ d ∈ s.host.started smp.q ∧ d.idx = smp.idx ∧ d.fin = none ∧
    smp.pcie = false ∧ smp.dropped = some cause)
    ∧ (∃ s : State, ∃ smp : Sample, ∃ rest : List Sample, ∃ d : Started, s.running ∧ s.host.hdw.win = smp :: rest ∧ smp.state = 2 ∧
    (s.host.hdw.closed = [] ∨ s.host.batchFull = false) ∧ d ∈ s.host.started smp.q ∧ d.idx = smp.idx ∧ d.fin = none ∧ smp.pcie =
    true)
    ∧ (∃ s : State, ∃ smp : Sample, ∃ rest : List Sample, ∃ cause : Nat, ∃ off : Nat, s.running ∧ s.host.hdw.stop = some (cause, off) ∧
    s.host.hdw.win = smp :: rest ∧ smp.state = 3 ∧ s.host.get Reg.HDW_STATUS.STOPPED = 0 ∧ s.host.get (Reg.SQ_STATUS.STATE smp.q)
    ≠ 3)
    ∧ (∃ s : State, ∃ q : Nat, ∃ cause : Nat, ∃ off : Nat, ∃ smp : Sample, ∃ rest : List Sample, ∃ d : Started, s.open_ ∧ q < 64 ∧
    s.host.get Reg.HDW_STATUS.STOPPED = 1 ∧ s.host.get Reg.HDW_STOP.QUEUE = q ∧ s.host.hdw.stop = some (cause, off) ∧
    s.host.hdw.win = smp :: rest ∧ d ∈ s.host.started smp.q ∧ d.idx = smp.idx ∧ d.fin = none ∧ s.host.get Reg.HDW_STOP.ACTION = 1
    ∧ s.host.stopped = false ∧ (∀ y ∈ rest, y.big = false ∨ y.dropped.isSome = true ∨ y.len ≤ s.host.get Reg.HDW_MAX_BYTES))
    ∧ (∃ s : State, ∃ q : Nat, ∃ cause : Nat, ∃ off : Nat, ∃ smp : Sample, ∃ rest : List Sample, ∃ d : Started, s.open_ ∧ q < 64 ∧
    s.host.get Reg.HDW_STATUS.STOPPED = 1 ∧ s.host.get Reg.HDW_STOP.QUEUE = q ∧ s.host.hdw.stop = some (cause, off) ∧
    s.host.hdw.win = smp :: rest ∧ d ∈ s.host.started smp.q ∧ d.idx = smp.idx ∧ d.fin = none ∧ s.host.get Reg.HDW_STOP.ACTION = 0
    ∧ smp.big = true ∧ smp.dropped = none ∧ s.host.get Reg.HDW_MAX_BYTES < smp.len)
    ∧ (∃ s : State, ∃ q : Nat, ∃ cause : Nat, ∃ off : Nat, ∃ smp : Sample, ∃ rest : List Sample, ∃ d : Started, s.open_ ∧ q < 64 ∧
    s.host.get Reg.HDW_STATUS.STOPPED = 1 ∧ s.host.get Reg.HDW_STOP.QUEUE = q ∧ s.host.hdw.stop = some (cause, off) ∧
    s.host.hdw.win = smp :: rest ∧ d ∈ s.host.started smp.q ∧ d.idx = smp.idx ∧ d.fin = none ∧ s.host.get Reg.HDW_STOP.ACTION = 0
    ∧ (∀ y ∈ smp :: rest, y.big = false ∨ y.dropped.isSome = true ∨ y.len ≤ s.host.get Reg.HDW_MAX_BYTES)) :=
  ⟨⟨(hx (fun h => (h.setStarted 0 [{ desc := (toLE 64 0x800000000000000000200000000000000000000000000002201) }])) (st [])), (0 : Nat), _, _, ({ desc := (toLE 64 0x800000000000000000200000000000000000000000000002201) } : Started), rfl, rfl, by decide +kernel⟩,
    ⟨(hx (fun h => (h.setStarted 0 [{ desc := (toLE 64 0x40000000000000800000000000000000200000000000000000000000000002201) }])) (st [(Reg.HDW_CTRL.EN, 0), (Reg.HDW_CTRL.EN, 0)])), (0 : Nat), _, _, ({ desc := (toLE 64 0x40000000000000800000000000000000200000000000000000000000000002201) } : Started), rfl, rfl, by decide +kernel⟩,
    ⟨(hx (fun h => (h.setStarted 0 [{ desc := (toLE 64 0x4000000000000000000800000000000000000200000000000000000000000000002201) }])) (st [(Reg.HDW_CTRL.EN, 1)])), (0 : Nat), _, _, ({ desc := (toLE 64 0x4000000000000000000800000000000000000200000000000000000000000000002201) } : Started), rfl, rfl, by decide +kernel⟩,
    ⟨(hx (fun h => (h.setStarted 3 [{ desc := (toLE 64 0x40000000000000800000000000000000200000000000000000000000000002201), ord := 9 }]).setStarted 4 [{ desc := (toLE 64 0x40000000000000800000000000000000200000000000000000000000000002201), ord := 2 }]) (st [])), (3 : Nat), ({ desc := (toLE 64 0x40000000000000800000000000000000200000000000000000000000000002201), ord := 9 } : Started), by decide +kernel⟩,
    ⟨(hx (fun h => {(h.setStarted 3 [{ desc := (toLE 64 0x40000000000000800000000000000000200000000000000000000000000002201) }]) with hdw := {h.hdw with ready := [(3,0)]}}) (hx (fun h => { h with hdw := { h.hdw with stop := (none) } }) (st [(Reg.HDW_MAX_BYTES, 2)]))), (3 : Nat), (0 : Nat), _, ([] : List (Nat × Nat)), ({ desc := (toLE 64 0x40000000000000800000000000000000200000000000000000000000000002201) } : Started), rfl, by decide +kernel⟩,
    ⟨(hx (fun h => {(h.setStarted 3 [{ desc := (toLE 64 0x40000000000000800000000000000000200000000000000000000000000002201) }]) with hdw := {h.hdw with ready := [(3,0)]}}) (hx (fun h => { h with hdw := { h.hdw with stop := (none) } }) (st [((Reg.SQ_STATUS.STATE (3 : Nat)), 1), (Reg.HDW_MAX_BYTES, 1)]))), (3 : Nat), (0 : Nat), _, ([] : List (Nat × Nat)), ({ desc := (toLE 64 0x40000000000000800000000000000000200000000000000000000000000002201) } : Started), rfl, by decide +kernel⟩,
    ⟨(hx (fun h => {h with hdw := {h.hdw with win := [{state := 1},{},{}]}}) (hx (fun h => { h with bme := (true) }) (st []))), ([{state := 1}] : List Sample), ([{}] : List Sample), ({} : Sample), by decide +kernel⟩,
    ⟨(hx (fun h => {h with hdw := {h.hdw with win := [{src := 0x1000, len := 2, maxTok := 8, state := 1}]}}) (st [(Reg.MEM_STATUS.INIT_DONE, 1)])), (0 : Nat), ({src := 0x1000, len := 2, maxTok := 8, state := 1} : Sample), _, rfl, by decide +kernel⟩,
    ⟨(hx (fun h => {h with hdw := {h.hdw with win := [{src := 0x1000, len := 2, maxTok := 1, state := 1}]}}) (st [(Reg.MEM_STATUS.INIT_DONE, 1), ((Reg.SQ_STATUS.STATE ({src := 0x1000, len := 2, maxTok := 1, state := 1} : Sample).q), 1), (Reg.SQ_STATUS.STATE 0, 1)])), (0 : Nat), ({src := 0x1000, len := 2, maxTok := 1, state := 1} : Sample), _, (3 : Nat), (1 : Nat), rfl, by decide +kernel⟩,
    ⟨(hx (fun h => {h with hdw := {h.hdw with win := [{src := 0x1000, len := 2, maxTok := 8, state := 1}]}}) (st [])), (0 : Nat), ({src := 0x1000, len := 2, maxTok := 8, state := 1} : Sample), _, (true : Bool), rfl, by decide +kernel⟩,
    ⟨(hx (fun h => (h.setStarted 0 [{ desc := (toLE 64 0x40000000000000800000000000000000200000000000000000000000000002201) }]).modHdw fun w => {w with win := [{state := 2, len := 2, maxTok := 8, pcie := false, toks := [65]}]}) (hx (fun h => { h with hdw := { h.hdw with win := (({state := 2, len := 2, maxTok := 8, pcie := false, toks := [65]} : Sample) :: ([] : List Sample)), closed := ([]) } }) (st [(Reg.MEM_STATUS.INIT_DONE, 1)]))), ({state := 2, len := 2, maxTok := 8, pcie := false, toks := [65]} : Sample), ([] : List Sample), ({ desc := (toLE 64 0x40000000000000800000000000000000200000000000000000000000000002201) } : Started), by decide +kernel⟩,
    ⟨(hx (fun h => (h.setStarted 0 [{ desc := (toLE 64 0x40000000000000800000000000000000200000000000000000000000000002201) }]).modHdw fun w => {w with win := [{dropped := some 3, state := 2, len := 2, maxTok := 8, pcie := false, toks := [65]}]}) (hx (fun h => { h with hdw := { h.hdw with win := (({dropped := some 3, state := 2, len := 2, maxTok := 8, pcie := false, toks := [65]} : Sample) :: ([] : List Sample)), closed := ([]) } }) (st []))), ({dropped := some 3, state := 2, len := 2, maxTok := 8, pcie := false, toks := [65]} : Sample), ([] : List Sample), ({ desc := (toLE 64 0x40000000000000800000000000000000200000000000000000000000000002201) } : Started), (3 : Nat), by decide +kernel⟩,
    ⟨(hx (fun h => (h.setStarted 0 [{ desc := (toLE 64 0x40000000000000800000000000000000200000000000000000000000000002201) }]).modHdw fun w => {w with win := [{state := 2, len := 2, maxTok := 8, pcie := true, toks := [65]}]}) (hx (fun h => { h with hdw := { h.hdw with win := (({state := 2, len := 2, maxTok := 8, pcie := true, toks := [65]} : Sample) :: ([] : List Sample)), closed := ([]) } }) (st []))), ({state := 2, len := 2, maxTok := 8, pcie := true, toks := [65]} : Sample), ([] : List Sample), ({ desc := (toLE 64 0x40000000000000800000000000000000200000000000000000000000000002201) } : Started), by decide +kernel⟩,
    ⟨(hx (fun h => {h with hdw := {h.hdw with stop := some (3,1), win := [{state := 3}]}}) (hx (fun h => { h with hdw := { h.hdw with win := (({state := 3} : Sample) :: ([] : List Sample)) } }) (st [(Reg.HDW_STATUS.STOPPED, 0)]))), ({state := 3} : Sample), ([] : List Sample), (3 : Nat), (1 : Nat), by decide +kernel⟩,
    ⟨(hx (fun h => {(h.setStarted 0 [{ desc := (toLE 64 0x40000000000000800000000000000000200000000000000000000000000002201) }]) with hdw := {h.hdw with stop := some (3,1), win := [{state := 4, len := 2, maxTok := 8}]}}) (hx (fun h => { h with hdw := { h.hdw with win := (({state := 4, len := 2, maxTok := 8} : Sample) :: ([] : List Sample)) } }) (st [(Reg.DEV_STATUS.READY, 1), (Reg.HDW_STATUS.STOPPED, 1), (Reg.HDW_STOP.ACTION, 1), (Reg.SQ_STATUS.STATE 0, 2), (Reg.HDW_STATUS.STOPPED, 1), (Reg.HDW_STOP.QUEUE, 0), (Reg.HDW_STOP.ACTION, 1), (Reg.HDW_MAX_BYTES, 100)]))), (0 : Nat), (3 : Nat), (1 : Nat), ({state := 4, len := 2, maxTok := 8} : Sample), ([] : List Sample), ({ desc := (toLE 64 0x40000000000000800000000000000000200000000000000000000000000002201) } : Started), by decide +kernel⟩,
    ⟨(hx (fun h => {(h.setStarted 0 [{ desc := (toLE 64 0x40000000000000800000000000000000200000000000000000000000000002201) }]) with hdw := {h.hdw with stop := some (3,1), win := [{big := true, state := 4, len := 2, maxTok := 8}]}}) (hx (fun h => { h with hdw := { h.hdw with win := (({big := true, state := 4, len := 2, maxTok := 8} : Sample) :: ([] : List Sample)) } }) (st [(Reg.DEV_STATUS.READY, 1), (Reg.HDW_STATUS.STOPPED, 1), (Reg.HDW_STOP.ACTION, 0), (Reg.SQ_STATUS.STATE 0, 2), (Reg.HDW_STATUS.STOPPED, 1), (Reg.HDW_STOP.QUEUE, 0), (Reg.HDW_STOP.ACTION, 0), (Reg.HDW_MAX_BYTES, 1)]))), (0 : Nat), (3 : Nat), (1 : Nat), ({big := true, state := 4, len := 2, maxTok := 8} : Sample), ([] : List Sample), ({ desc := (toLE 64 0x40000000000000800000000000000000200000000000000000000000000002201) } : Started), by decide +kernel⟩,
    ⟨(hx (fun h => {(h.setStarted 0 [{ desc := (toLE 64 0x40000000000000800000000000000000200000000000000000000000000002201) }]) with hdw := {h.hdw with stop := some (3,1), win := [{state := 4, len := 2, maxTok := 8}]}}) (hx (fun h => { h with hdw := { h.hdw with win := (({state := 4, len := 2, maxTok := 8} : Sample) :: ([] : List Sample)) } }) (st [(Reg.DEV_STATUS.READY, 1), (Reg.HDW_STATUS.STOPPED, 1), (Reg.HDW_STOP.ACTION, 0), (Reg.SQ_STATUS.STATE 0, 2), (Reg.HDW_STATUS.STOPPED, 1), (Reg.HDW_STOP.QUEUE, 0), (Reg.HDW_STOP.ACTION, 0), (Reg.HDW_MAX_BYTES, 100)]))), (0 : Nat), (3 : Nat), (1 : Nat), ({state := 4, len := 2, maxTok := 8} : Sample), ([] : List Sample), ({ desc := (toLE 64 0x40000000000000800000000000000000200000000000000000000000000002201) } : Started), by decide +kernel⟩⟩

theorem wit_DictionaryAndBatches :
    (∃ s : State, ∃ b : Nat, ∃ v : Word, b = v.toNat / 2 % 2 ∧ s.open_ ∧ s.host.hdw.building = none ∧ s.host.bankHeld b = false)
    ∧ (∃ s : State, ∃ b : Nat, ∃ v : Word, b = v.toNat / 2 % 2 ∧ s.open_ ∧ (s.host.hdw.building.isSome = true ∨ s.host.bankHeld b = true))
    ∧ (∃ s : State, ∃ b : Nat, ∃ cause, ∃ i, s.up ∧ s.host.hdw.building = some b ∧ s.host.dictBad b = some (cause, some i))
    ∧ (∃ h : HostSide, ∃ b : Nat, ∃ i : Nat, 256 ≤ i ∧ i < 65536 ∧ entryLen (h.entryWord b i) = 1 ∧ (∀ k, 256 ≤ k → k < i → entryLen
    (h.entryWord b k) = 0))
    ∧ (∃ s : State, s.running ∧ s.host.on Reg.HDW_BATCH_CFG.EN = true ∧ s.host.on Reg.HDW_BATCH_CFG.TIMEOUT_US = true ∧ s.host.hdw.batch
    ≠ [])
    ∧ (∃ s : State, ∃ b : Batch, ∃ rest : List Batch, ∃ g : Nat, ∃ off : Nat, g = s.host.get Reg.HDW_BATCH_GROUP ∧ off = s.host.get
    Reg.HDW_BATCH_BASE * 2048 + s.host.hdw.batchNo % max 1 (s.host.get Reg.HDW_BATCH_SLOTS) * 2048 ∧ s.running ∧
    s.host.hdw.closed = b :: rest ∧ s.host.batchFull = false ∧ s.host.hbmUp = true)
    ∧ (∃ s : State, ∃ c : Nat, ∃ site : Nat, s.running ∧ c = s.host.get Reg.HDW_BATCH_CFG.CORE ∧ s.host.ctlReady (c / 8) (c % 8)
    .batchFree = some site ∧ s.host.get Reg.HDW_BATCH_FREED ≠ s.host.get Reg.HDW_BATCH_COUNT) :=
  ⟨⟨(hx (fun h => { h with hdw := { h.hdw with building := (none) } }) (st [(Reg.DEV_STATUS.READY, 1)])), _, (0#32 : Word), rfl, by decide +kernel⟩,
    ⟨(hx (fun h => {h with hdw := {h.hdw with active := some 1}}) (st [(Reg.DEV_STATUS.READY, 1)])), _, (0x3#32 : Word), rfl, by decide +kernel⟩,
    ⟨(hx (fun h => {h with hdw := {h.hdw with building := some 0, dict := [(1024,1#8),(1025,0#8),(1026,0#8),(1027,0#8)]}}) (hx (fun h => { h with hdw := { h.hdw with building := (some (0 : Nat)) } }) (st []))), (0 : Nat), (1 : Nat), (256 : Nat), by decide +kernel⟩,
    ⟨({ hdw := {dict := [(1024,1#8),(1025,0#8),(1026,0#8),(1027,0#8)]} } : HostSide), (0 : Nat), (256 : Nat), by decide +kernel⟩,
    ⟨(hx (fun h => {h with hdw := {h.hdw with batch := [(1,2,3,4)]}}) (st [(Reg.HDW_BATCH_CFG.EN, 1), (Reg.HDW_BATCH_CFG.TIMEOUT_US, 1)])), by decide +kernel⟩,
    ⟨(hx (fun h => { h with hdw := { h.hdw with closed := (({samples := [(1,2,3,0)]} : Batch) :: ([] : List Batch)) } }) (st [(Reg.MEM_STATUS.INIT_DONE, 1), (Reg.HDW_BATCH_SLOTS, 4)])), ({samples := [(1,2,3,0)]} : Batch), ([] : List Batch), _, _, rfl, rfl, by decide +kernel⟩,
    ⟨(hx (fun h => { (h.setCore 0 {xfers := [{load := false, space := 1, far := 0x1003000, len := 1}]}) with insp := { h.insp with siteOf := [(0,0)] } }) (st [(Reg.HDW_BATCH_CFG.CORE, 0), (Reg.HDW_BATCH_COUNT, 2)])), (0 : Nat), (0 : Nat), by decide +kernel⟩⟩

theorem wit_CountersAndTrace :
    (∃ s : State, ∃ i : Nat, ∃ a : Nat, a = 0x601000 + 16 * i ∧ s.open_ ∧ i < 256)
    ∧ (∃ s : State, ∃ c : Nat, ∃ j : Nat, ∃ a : Nat, ∃ v : Word, a = 0x608000 + 256 * c + 16 * j ∧ s.open_ ∧ c < 64 ∧ j < 16 ∧
    s.host.asleep (c / 8) = false ∧ v.toNat / 256 % 4 < 2)
    ∧ (∃ s : State, ∃ c : Nat, ∃ j : Nat, ∃ a : Nat, ∃ v : Word, a = 0x608000 + 256 * c + 16 * j ∧ s.open_ ∧ c < 64 ∧ j < 16 ∧
    s.host.asleep (c / 8) = false ∧ s.settled ∧ 2 ≤ v.toNat / 256 % 4)
    ∧ (∃ s : State, ∃ k : Nat, ∃ j : Nat, ∃ a : Nat, a = 0x604000 + 512 * k + 16 * j ∧ s.open_ ∧ k < 8 ∧ j < 32 ∧ s.host.asleep k = true)
    ∧ (∃ s : State, s.up ∧ s.host.gauge.snapReq = true)
    ∧ (∃ s : State, ∃ b : Nat, ∃ tick : Nat, ∃ r : List Byte, ∃ pre : List (Nat × Nat × List Byte), ∃ post : List (Nat × Nat × List
    Byte), s.up ∧ s.host.gauge.due = pre ++ (b, tick, r) :: post ∧ (∀ x ∈ pre, x.1 ≠ b) ∧ (s.host.traceBuf b).dropped = 0 ∧
    (s.host.traceBuf b).recs.length < 256)
    ∧ (∃ s : State, ∃ b : Nat, ∃ tick : Nat, ∃ r : List Byte, ∃ pre : List (Nat × Nat × List Byte), ∃ post : List (Nat × Nat × List
    Byte), s.up ∧ s.host.gauge.due = pre ++ (b, tick, r) :: post ∧ (∀ x ∈ pre, x.1 ≠ b) ∧ 256 ≤ (s.host.traceBuf b).recs.length)
    ∧ (∃ h : HostSide, ∃ c : Nat, ∃ kind : Nat, h.traceOn kind = true ∧ bit (h.get2 Reg.TRC_CORES_LO Reg.TRC_CORES_HI) c = true)
    ∧ (∃ h : HostSide, ∃ c : Nat, ∃ kind : Nat, h.traceOn kind = true ∧ bit (h.get2 Reg.TRC_CORES_LO Reg.TRC_CORES_HI) c = false)
    ∧ (∃ s : State, ∃ b : Nat, ∃ g : Nat, ∃ off : Nat, ∃ x : TraceBuf, ∃ r : List Byte, ∃ rest : List (List Byte), x = s.host.traceBuf b
    ∧ g = s.host.get Reg.TRC_GROUP ∧ off = s.host.get Reg.TRC_BASE * 2048 + s.host.get Reg.TRC_WR % s.host.traceSlots * 32 ∧
    s.running ∧ b < 10 ∧ s.host.on Reg.TRC_CTRL.EN = true ∧ x.recs = r :: rest ∧ s.host.gauge.bucket ≠ 0 ∧ s.host.hbmUp = true ∧
    s.host.traceFree = 0)
    ∧ (∃ s : State, ∃ b : Nat, ∃ g : Nat, ∃ off : Nat, ∃ x : TraceBuf, ∃ r : List Byte, ∃ rest : List (List Byte), g = s.host.get
    Reg.TRC_GROUP ∧ off = s.host.get Reg.TRC_BASE * 2048 + s.host.get Reg.TRC_WR % s.host.traceSlots * 32 ∧ s.running ∧ b < 10 ∧
    s.host.on Reg.TRC_CTRL.EN = true ∧ x = s.host.traceBuf b ∧ x.recs = r :: rest ∧ s.host.gauge.bucket ≠ 0 ∧ s.host.hbmUp = true
    ∧ s.settled ∧ s.host.traceFree ≠ 0 ∧ (∃ n ∈ traceTables b g, (s.host.arb n).traced = 0))
    ∧ (∃ s : State, ∃ b : Nat, ∃ g : Nat, ∃ off : Nat, ∃ x : TraceBuf, ∃ r : List Byte, ∃ rest : List (List Byte), x = s.host.traceBuf b
    ∧ g = s.host.get Reg.TRC_GROUP ∧ off = s.host.get Reg.TRC_BASE * 2048 + s.host.get Reg.TRC_WR % s.host.traceSlots * 32 ∧
    s.running ∧ b < 10 ∧ s.host.on Reg.TRC_CTRL.EN = true ∧ x.recs = r :: rest ∧ s.host.gauge.bucket ≠ 0 ∧ s.host.hbmUp = true ∧
    2 ≤ s.host.traceFree ∧ (∀ n ∈ traceTables b g, (s.host.arb n).traced ≠ 0))
    ∧ (∃ s : State, ∃ first : Nat, ∃ n : Nat, first = s.host.get Reg.TRC_SAMPLE.FIRST ∧ n = s.host.get Reg.TRC_SAMPLE.NUM_M1 + 1 ∧ s.up
    ∧ s.host.on Reg.TRC_SAMPLE.US = true ∧ s.host.traceOn 6 = true ∧ first + n ≤ 256 ∧ (s.host.traceBuf 8).dropped = 0 ∧
    (s.host.traceBuf 8).recs.length + n ≤ 256)
    ∧ (∃ s : State, s.open_ ∧ s.host.traceOn 9 = true ∧ (s.host.traceBuf 8).dropped = 0 ∧ (s.host.traceBuf 8).recs.length < 256)
    ∧ (∃ s : State, ∃ p : Nat, ∃ n : Nat, n = s.host.gauge.evSeq.get (fun _ => 0) p ∧ s.up ∧ p < s.variant.ports ∧ s.host.on
    Reg.TRC_IFL.PERIOD = true ∧ s.host.on Reg.TRC_CTRL.EN = true ∧ bit (s.host.get Reg.TRC_IFL.PORTS) p = true ∧ s.host.portState
    p = 3 ∧ (s.host.port p).maySend 2 = true ∧ (s.host.port p).txq = [] ∧ s.host.flitOut p 0 = 0 ∧ n < 2 ^ 32) :=
  ⟨⟨(st [(Reg.DEV_STATUS.READY, 1)]), (255 : Nat), _, rfl, by decide +kernel⟩,
    ⟨(st [(Reg.DEV_STATUS.READY, 1)]), (63 : Nat), (15 : Nat), _, (0xFFFFFDFF#32 : Word), rfl, by decide +kernel⟩,
    ⟨(st [(Reg.DEV_STATUS.READY, 1)]), (0 : Nat), (0 : Nat), _, (0x200#32 : Word), rfl, by decide +kernel⟩,
    ⟨(hx (fun h => {h with pm := {h.pm with dieOff := true}}) (st [(Reg.DEV_STATUS.READY, 1)])), (7 : Nat), (31 : Nat), _, rfl, by decide +kernel⟩,
    ⟨(hx (fun h => { h with gauge := { h.gauge with snapReq := (true) } }) (st [])), by decide +kernel⟩,
    ⟨(hx (fun h => {h with gauge := {h.gauge with due := [(1, 4, [2]), (0, 5, [1])]}}) (st [])), (0 : Nat), (5 : Nat), ([1] : List Byte), ([(1, 4, [2])] : List (Nat × Nat × List Byte)), ([] : List (Nat × Nat × List Byte)), by decide +kernel⟩,
    ⟨(hx (fun h => ({h with gauge := {h.gauge with due := [(1, 4, [2]), (0, 5, [1])]}}).setTraceBuf 0 {recs := List.replicate 256 [1]}) (st [])), (0 : Nat), (5 : Nat), ([1] : List Byte), ([(1, 4, [2])] : List (Nat × Nat × List Byte)), ([] : List (Nat × Nat × List Byte)), by decide +kernel⟩,
    ⟨((((({} : HostSide).set Reg.TRC_CTRL.EN 1).set Reg.TRC_KINDS 1).set Reg.TRC_CORES_LO 1) : HostSide), (0 : Nat), (0 : Nat), by decide +kernel⟩,
    ⟨(((({} : HostSide).set Reg.TRC_CTRL.EN 1).set Reg.TRC_KINDS 1) : HostSide), (0 : Nat), (0 : Nat), by decide +kernel⟩,
    ⟨(hx (fun h => h.setTraceBuf (0 : Nat) {recs := [[1,2]]}) (st [(Reg.TRC_CTRL.EN, 1), (Reg.MEM_STATUS.INIT_DONE, 1), (Reg.TRC_WR, 64), (Reg.TRC_SIZE_L, 0), (Reg.TRC_CTRL.WRAP, 0)])), (0 : Nat), _, _, _, ([1,2] : List Byte), ([] : List (List Byte)), rfl, rfl, rfl, by decide +kernel⟩,
    ⟨(hx (fun h => ({h with gauge := {h.gauge with bucket := 1}}).setTraceBuf (0 : Nat) {recs := [[1,2]]}) (st [(Reg.TRC_CTRL.EN, 1), (Reg.MEM_STATUS.INIT_DONE, 1)])), (0 : Nat), _, _, ({recs := [[1,2]]} : TraceBuf), ([1,2] : List Byte), ([] : List (List Byte)), rfl, rfl, by decide +kernel⟩,
    ⟨(hx (fun h => ({h with gauge := {h.gauge with bucket := 1}, slu := [(0, {traced := 1}), (16, {traced := 1}), (17, {traced := 1})]}).setTraceBuf (0 : Nat) {recs := [List.replicate 32 7#8, List.replicate 32 9#8]}) (st [(Reg.TRC_CTRL.EN, 1), (Reg.MEM_STATUS.INIT_DONE, 1)])), (0 : Nat), _, _, _, ((List.replicate 32 7#8) : List Byte), ([List.replicate 32 9#8] : List (List Byte)), rfl, rfl, rfl, by decide +kernel⟩,
    ⟨(st [(Reg.TRC_SAMPLE.US, 1), (Reg.TRC_CTRL.EN, 1), (Reg.TRC_KINDS, 64), (Reg.TRC_SAMPLE.NUM_M1, 3)]), _, _, rfl, rfl, by decide +kernel⟩,
    ⟨(st [(Reg.DEV_STATUS.READY, 1), (Reg.TRC_CTRL.EN, 1), (Reg.TRC_KINDS, 512)]), by decide +kernel⟩,
    ⟨(hx (fun h => h.setPort (0 : Nat) {h.port (0 : Nat) with credit := some [1,1,9,1]}) (hx (fun h => { h with ports := h.ports.put (0 : Nat) { h.port (0 : Nat) with txq := ([]) } }) (st [(Reg.TRC_IFL.PERIOD, 1), (Reg.TRC_CTRL.EN, 1), (Reg.IFL_STATE.STATE (0 : Nat), 3), (Reg.TRC_IFL.PORTS, 1)]))), (0 : Nat), _, rfl, by decide +kernel⟩⟩

theorem wit_HostResets :
    (∃ a : Nat, ∃ bs : List Byte, a + bs.length ≤ flashSize)
    ∧ (∃ s : State, ¬ s.open_ ∧ (s.host.down = false ∨ s.sameReset = false ∨ s.host.pm.resetReady = false))
    ∧ (∃ s : State, s.up ∧ s.host.on Reg.CLK_WDOG.EN = true)
    ∧ (∃ s : State, s.host.down = true ∧ s.sameReset = true ∧ s.host.pm.resetWdog = true)
    ∧ (∃ s : State, s.host.on Reg.CLK_WDOG.EN = false ∧ (s.host.down = false ∨ s.sameReset = false ∨ s.host.pm.resetWdog = false))
    ∧ (∃ s : State, ∃ v : Word, s.open_ ∧ v.getLsbD 0 = true ∧ v.toNat / 2 ^ 16 = 0x4B37)
    ∧ (∃ s : State, ∃ v : Word, s.host.down = true ∧ s.sameReset = true ∧ s.host.pm.resetReady = true ∧ v.getLsbD 0 = true ∧ v.toNat / 2
    ^ 16 = 0x4B37)
    ∧ (∃ v : Word, (v.getLsbD 0 = false ∨ v.toNat / 2 ^ 16 ≠ 0x4B37)) :=
  ⟨⟨(0x2000 : Nat), ([1,2] : List Byte), by decide +kernel⟩,
    ⟨(hx (fun h => { h with down := (false) }) (st [])), by decide +kernel⟩,
    ⟨(st [(Reg.CLK_WDOG.EN, 1)]), by decide +kernel⟩,
    ⟨(hx (fun h => {h with pm := {h.pm with resetAt := some 0, resetWdog := true}}) (hx (fun h => { h with pm := { h.pm with resetWdog := (true) } }) (hx (fun h => { h with down := (true) }) (st [])))), by decide +kernel⟩,
    ⟨(hx (fun h => { h with down := (false) }) (st [(Reg.CLK_WDOG.EN, 0)])), by decide +kernel⟩,
    ⟨(st [(Reg.DEV_STATUS.READY, 1)]), (0x4B370001#32 : Word), by decide +kernel⟩,
    ⟨(hx (fun h => {h with pm := {h.pm with resetAt := some 0, resetReady := true}}) (hx (fun h => { h with pm := { h.pm with resetReady := (true) } }) (hx (fun h => { h with down := (true) }) (st [])))), (0x4B370001#32 : Word), by decide +kernel⟩,
    ⟨(0#32 : Word), by decide +kernel⟩⟩

theorem wit_StartUpAndDebug :
    (∃ s : State, ∃ x, s.up ∧ s.host.pm.resuming = false ∧ s.host.tested = false ∧ s.host.insp = ({} : Inspect) ∧ s.host.get
    Reg.DET_CLU_STATE.HALTED = 0 ∧ x < 72)
    ∧ (∃ s : State, s.up ∧ s.host.pm.resuming = true)
    ∧ (∃ s : State, s.up ∧ s.host.mgmt.running = none ∧ (s.host.get Reg.CLK_BOOT_STAGE = 1 ∨ s.host.get Reg.CLK_BOOT_STAGE = 2))
    ∧ (∃ s : State, ∃ n : Nat, ∃ p, s.up ∧ s.host.mgmt.running = some n ∧ s.host.get Reg.CLK_BOOT_STAGE = 3 ∧ partFailing
    s.host.mgmt.flash n = some p ∧ n < 2)
    ∧ (∃ s : State, ∃ n : Nat, ∃ p, s.up ∧ s.host.mgmt.running = some n ∧ s.host.get Reg.CLK_BOOT_STAGE = 3 ∧ partFailing
    s.host.mgmt.flash n = some p ∧ 2 ≤ n)
    ∧ (∃ s : State, ∃ n : Nat, s.up ∧ s.host.mgmt.running = some n ∧ s.host.get Reg.CLK_BOOT_STAGE = 3 ∧ partFailing s.host.mgmt.flash n
    = none)
    ∧ (∃ s : State, ∃ n : Nat, ∃ p : Nat × Nat × Nat × List Byte, s.up ∧ s.host.mgmt.running = some n ∧ (s.host.get Reg.CLK_BOOT_STAGE =
    4 ∨ s.host.get Reg.CLK_BOOT_STAGE = 5) ∧ (manParts (imageHeader s.host.mgmt.flash n)).find? (fun p => p.1 == 3) = some p ∧
    s.field.ctl = 0)
    ∧ (∃ s : State, ∃ n : Nat, ∃ p : Nat × Nat × Nat × List Byte, s.up ∧ s.host.mgmt.running = some n ∧ (s.host.get Reg.CLK_BOOT_STAGE =
    4 ∨ s.host.get Reg.CLK_BOOT_STAGE = 5) ∧ (manParts (imageHeader s.host.mgmt.flash n)).find? (fun p => p.1 == 3) = some p ∧
    s.field.ctl ≠ 0 ∧ s.field.withFirmware (fRead s.host.mgmt.flash (slotBase n + p.2.1) p.2.2.1) p.2.2.2 = none)
    ∧ (∃ s : State, ∃ n : Nat, ∃ p : Nat × Nat × Nat × List Byte, ∃ d : FieldDie, s.up ∧ s.host.mgmt.running = some n ∧ (s.host.get
    Reg.CLK_BOOT_STAGE = 4 ∨ s.host.get Reg.CLK_BOOT_STAGE = 5) ∧ (manParts (imageHeader s.host.mgmt.flash n)).find? (fun p =>
    p.1 == 3) = some p ∧ s.field.ctl ≠ 0 ∧ s.field.withFirmware (fRead s.host.mgmt.flash (slotBase n + p.2.1) p.2.2.1) p.2.2.2 =
    some d)
    ∧ (∃ s : State, s.up ∧ s.host.get Reg.CLK_BOOT_STAGE = 6 ∧ s.host.tested = true ∧ s.host.on Reg.MEM_STATUS.INIT_DONE = true ∧ (∀ p,
    p < s.variant.ports → (s.host.port p).txOn = true) ∧ s.host.hdw.building = none)
    ∧ (∃ s : State, s.open_)
    ∧ (∃ s : State, ∃ n : Nat, s.up ∧ s.host.dbg.mon = true ∧ n < 2 ^ 32)
    ∧ (∃ s : State, ∃ op : Nat, ∃ v : Nat, ∃ ir : Nat, s.up ∧ op < 256 ∧ (op ∈ [0x00, 0x01, 0x20, 0x21, 0x22, 0x23] → ir = op) ∧ (op ∉
    [0x00, 0x01, 0x20, 0x21, 0x22, 0x23] → ir = 0xFF) ∧ (ir ≠ 0x20 ∨ s.host.on Reg.CLK_DBG_CTRL.EN = false ∨ v % 4 = 0 ∨ v % 4 =
    3))
    ∧ (∃ s : State, s.up ∧ s.host.on Reg.CLK_DBG_CTRL.EN = false)
    ∧ (∃ s : State, ∃ v : Nat, s.up ∧ s.host.on Reg.CLK_DBG_CTRL.EN = true ∧ v % 4 = 1 ∧ s.host.get Reg.GSTOP_STATUS.STATE = 0)
    ∧ (∃ s : State, ∃ v : Nat, s.up ∧ s.host.on Reg.CLK_DBG_CTRL.EN = true ∧ v % 4 = 2 ∧ s.host.get Reg.GSTOP_STATUS.STATE = 2 ∧
    s.host.get Reg.GSTOP_STATUS.SOURCE = 2)
    ∧ (∃ s : State, ∃ v : Nat, s.up ∧ s.host.on Reg.CLK_DBG_CTRL.EN = true ∧ (s.host.dbg.busy = true ∨ dbgBad s.env v = true))
    ∧ (∃ s : State, ∃ v : Nat, s.up ∧ s.host.on Reg.CLK_DBG_CTRL.EN = true ∧ s.host.dbg.busy = false ∧ dbgBad s.env v = false ∧
    dbgProxied v = false)
    ∧ (∃ s : State, ∃ v : Nat, ∃ a : Nat, a = dbgAddress v ∧ s.up ∧ s.host.dbg.busy = true ∧ v = s.host.dbg.addr ∧ dbgTarget v = 1 ∧
    s.host.hbmUp = true)
    ∧ (∃ s : State, ∃ v : Nat, ∃ a : Nat, a = dbgAddress v ∧ s.up ∧ s.host.dbg.busy = true ∧ v = s.host.dbg.addr ∧ dbgTarget v = 3 ∧
    s.host.asleep (dbgUnit v / 9) = false)
    ∧ (∃ s : State, ∃ v : Nat, ∃ a : Nat, a = dbgAddress v ∧ s.up ∧ s.host.dbg.busy = true ∧ v = s.host.dbg.addr ∧ dbgTarget v = 0 ∧
    dbgWrite v = true)
    ∧ (∃ s : State, ∃ v : Nat, ∃ a : Nat, a = dbgAddress v ∧ s.up ∧ s.host.dbg.busy = true ∧ v = s.host.dbg.addr ∧ dbgTarget v = 0 ∧
    dbgWrite v = false ∧ a % 4 = 0 ∧ 0x40 ≤ a ∧ a < 0x44 ∧ s.host.ready = true) :=
  ⟨⟨(hx (fun h => { h with insp := (({} : Inspect)) }) (hx (fun h => { h with pm := { h.pm with resuming := (false) } }) (st [(Reg.DET_CLU_STATE.HALTED, 0)]))), (4 : Nat), by decide +kernel⟩,
    ⟨(hx (fun h => { h with pm := { h.pm with resuming := (true) } }) (st [])), by decide +kernel⟩,
    ⟨(hx (fun h => { h with mgmt := { h.mgmt with running := (none) } }) (st [(Reg.CLK_BOOT_STAGE, 1)])), by decide +kernel⟩,
    ⟨(hx (fun h => {h with mgmt := {h.mgmt with running := some 1, flash := (([(40,1#8),(41,0#8),(64,3#8),(68,0#8),(69,32#8),(70,0#8),(71,0#8),(72,4#8),(73,0#8),(74,0#8),(75,0#8)] ++ ((List.replicate 32 0#8).mapIdx fun i x => (80+i,x))).map fun (x : Nat × Byte) => (0x2900000 + x.1, x.2))}}) (hx (fun h => { h with mgmt := { h.mgmt with running := (some (1 : Nat)) } }) (st [(Reg.CLK_BOOT_STAGE, 3)]))), (1 : Nat), ((3, 0x2000, 4, (List.replicate 32 0#8))), by decide +kernel⟩,
    ⟨(hx (fun h => {h with mgmt := {h.mgmt with running := some 2, flash := (([(40,1#8),(41,0#8),(64,3#8),(68,0#8),(69,32#8),(70,0#8),(71,0#8),(72,4#8),(73,0#8),(74,0#8),(75,0#8)] ++ ((List.replicate 32 0#8).mapIdx fun i x => (80+i,x))).map fun (x : Nat × Byte) => (0x5100000 + x.1, x.2))}}) (hx (fun h => { h with mgmt := { h.mgmt with running := (some (2 : Nat)) } }) (st [(Reg.CLK_BOOT_STAGE, 3)]))), (2 : Nat), ((3, 0x2000, 4, (List.replicate 32 0#8))), by decide +kernel⟩,
    ⟨(hx (fun h => {h with mgmt := {h.mgmt with running := some 0, flash := [(0x100028, 0#8), (0x100029, 0#8)]}}) (hx (fun h => { h with mgmt := { h.mgmt with running := (some (0 : Nat)) } }) (st [(Reg.CLK_BOOT_STAGE, 3)]))), (0 : Nat), by decide +kernel⟩,
    ⟨(fx (fun d => { d with ctl := 0 }) (hx (fun h => {h with mgmt := {h.mgmt with running := some 0, flash := (([(40,1#8),(41,0#8),(64,3#8),(68,0#8),(69,32#8),(70,0#8),(71,0#8),(72,4#8),(73,0#8),(74,0#8),(75,0#8)] ++ (((sha3 (List.replicate 4 255#8))).mapIdx fun i x => (80+i,x))).map fun (x : Nat × Byte) => (0x100000 + x.1, x.2))}}) (fx (fun d => { d with ctl := (0) }) (hx (fun h => { h with mgmt := { h.mgmt with running := (some (0 : Nat)) } }) (st [(Reg.CLK_BOOT_STAGE, 4)]))))), (0 : Nat), ((3, 0x2000, 4, (sha3 (List.replicate 4 255#8))) : Nat × Nat × Nat × List Byte), by decide +kernel⟩,
    ⟨(fx (fun d => { d with ctl := 1, loadFails := 3 }) (hx (fun h => {h with mgmt := {h.mgmt with running := some 0, flash := (([(40,1#8),(41,0#8),(64,3#8),(68,0#8),(69,32#8),(70,0#8),(71,0#8),(72,4#8),(73,0#8),(74,0#8),(75,0#8)] ++ (((List.replicate 32 0#8)).mapIdx fun i x => (80+i,x))).map fun (x : Nat × Byte) => (0x100000 + x.1, x.2))}}) (hx (fun h => { h with mgmt := { h.mgmt with running := (some (0 : Nat)) } }) (st [(Reg.CLK_BOOT_STAGE, 4)])))), (0 : Nat), ((3, 0x2000, 4, (List.replicate 32 0#8)) : Nat × Nat × Nat × List Byte), by decide +kernel⟩,
    ⟨(fx (fun d => { d with ctl := 1 }) (hx (fun h => {h with mgmt := {h.mgmt with running := some 0, flash := (([(40,1#8),(41,0#8),(64,3#8),(68,0#8),(69,32#8),(70,0#8),(71,0#8),(72,4#8),(73,0#8),(74,0#8),(75,0#8)] ++ ((sha3 (List.replicate 4 255#8)).mapIdx fun i x => (80+i,x))).map fun (x : Nat × Byte) => (0x100000 + x.1, x.2))}}) (hx (fun h => { h with mgmt := { h.mgmt with running := (some (0 : Nat)) } }) (st [(Reg.CLK_BOOT_STAGE, 4)])))), (0 : Nat), ((3, 0x2000, 4, (sha3 (List.replicate 4 255#8))) : Nat × Nat × Nat × List Byte), (((({ ctl := 1 } : FieldDie).withFirmware (List.replicate 4 255#8) (sha3 (List.replicate 4 255#8))).getD {}) : FieldDie), by decide +kernel⟩,
    ⟨(hx (fun h => ((((h.setPort 0 {h.port 0 with txOn := true}).setPort 1 {h.port 1 with txOn := true}).setPort 2 {h.port 2 with txOn := true}).setPort 3 {h.port 3 with txOn := true})) (hx (fun h => { h with hdw := { h.hdw with building := (none) } }) (st [(Reg.CLK_BOOT_STAGE, 6), ((Reg.DET_UNITMAP 0), 1), (Reg.MEM_STATUS.INIT_DONE, 1)]))), by decide +kernel⟩,
    ⟨(st [(Reg.DEV_STATUS.READY, 1)]), by decide +kernel⟩,
    ⟨(hx (fun h => { h with dbg := { h.dbg with mon := (true) } }) (st [])), (0 : Nat), by decide +kernel⟩,
    ⟨(st []), (0 : Nat), (0 : Nat), (0 : Nat), by decide +kernel⟩,
    ⟨(st [(Reg.CLK_DBG_CTRL.EN, 0)]), by decide +kernel⟩,
    ⟨(st [(Reg.CLK_DBG_CTRL.EN, 1), (Reg.GSTOP_STATUS.STATE, 0)]), (1 : Nat), by decide +kernel⟩,
    ⟨(st [(Reg.CLK_DBG_CTRL.EN, 1), (Reg.GSTOP_STATUS.STATE, 2), (Reg.GSTOP_STATUS.SOURCE, 2)]), (2 : Nat), by decide +kernel⟩,
    ⟨(hx (fun h => { h with dbg := { h.dbg with busy := (true) } }) (st [(Reg.CLK_DBG_CTRL.EN, 1)])), (4 : Nat), by decide +kernel⟩,
    ⟨(hx (fun h => { h with dbg := { h.dbg with busy := (false) } }) (st [(Reg.CLK_DBG_CTRL.EN, 1)])), ((0x40 * 65536) : Nat), by decide +kernel⟩,
    ⟨(hx (fun h => {h with dbg := {h.dbg with addr := 1 + 0x40 * 65536}}) (hx (fun h => { h with dbg := { h.dbg with busy := (true) } }) (st [(Reg.MEM_STATUS.INIT_DONE, 1)]))), ((1 + 0x40 * 65536) : Nat), _, rfl, by decide +kernel⟩,
    ⟨(hx (fun h => {h with dbg := {h.dbg with addr := 3 + 71 * 16 + 0x40 * 65536}}) (hx (fun h => { h with dbg := { h.dbg with busy := (true) } }) (st []))), ((3 + 71 * 16 + 0x40 * 65536) : Nat), _, rfl, by decide +kernel⟩,
    ⟨(hx (fun h => {h with dbg := {h.dbg with addr := 8 + 0x40 * 65536, stage := 5#32}}) (hx (fun h => { h with dbg := { h.dbg with busy := (true) } }) (st []))), ((8 + 0x40 * 65536) : Nat), _, rfl, by decide +kernel⟩,
    ⟨(hx (fun h => {h with dbg := {h.dbg with addr := 0x40 * 65536}}) (hx (fun h => { h with dbg := { h.dbg with busy := (true) } }) (st [(Reg.DEV_STATUS.READY, 1)]))), ((0x40 * 65536) : Nat), _, rfl, by decide +kernel⟩⟩

theorem wit_PowerStates :
    (∃ s : State, ∃ k : Nat, ∃ st : Nat, s.running ∧ k < 8 ∧ s.host.on Reg.PM_CTRL.AUTO = true ∧ s.host.pm.dieOff = false ∧
    s.host.cluPower k < st ∧ s.host.hasWork k = false ∧ k ∉ s.host.pm.waking ∧ (st = 1 ∨ st = 2) ∧ s.host.dozeOk k st = true)
    ∧ (∃ s : State, ∃ k : Nat, ∃ st : Nat, s.running ∧ k < 8 ∧ s.host.on Reg.PM_CTRL.AUTO = true ∧ s.host.pm.dieOff = false ∧
    s.host.cluPower k < st ∧ s.host.hasWork k = false ∧ k ∉ s.host.pm.waking ∧ st = 3 ∧ (∀ i, i < 8 → s.host.restOk i = true ∧
    s.host.hasWork i = false ∧ i ∉ s.host.pm.waking))
    ∧ (∃ s : State, ∃ k : Nat, s.up ∧ s.settled ∧ s.host.hasWork k = true)
    ∧ (∃ s : State, ∃ k : Nat, s.running ∧ k < 8 ∧ s.host.pm.dieOff = false ∧ s.host.cluPower k ≠ 0)
    ∧ (∃ s : State, ∃ k : Nat, s.running ∧ k < 8 ∧ s.host.pm.dieOff = false ∧ k ∈ s.host.pm.waking)
    ∧ (∃ s : State, ∃ v : Word, ∃ k : Nat, s.open_ ∧ s.host.pm.dieOff = false ∧ (Reg.PM_CTRL.AUTO).ofWord v = 0 ∧ k < 8 ∧
    s.host.cluPower k ≠ 0)
    ∧ (∃ s : State, ∃ q : Nat, ∃ d : Started, s.up ∧ s.host.current q 0x42 = some d) :=
  ⟨⟨(hx (fun h => { h with pm := { h.pm with dieOff := (false) } }) (st [(Reg.DEV_STATUS.READY, 1), (Reg.PM_CTRL.AUTO, 1), (Reg.PM_CTRL.UNUSED_STATE, 3), (Reg.PM_TOL_DATA, 4000)])), (7 : Nat), (2 : Nat), by decide +kernel⟩,
    ⟨(hx (fun h => { h with pm := { h.pm with dieOff := (false) } }) (st [(Reg.DEV_STATUS.READY, 1), (Reg.PM_CTRL.AUTO, 1), (Reg.PM_CTRL.UNUSED_STATE, 3), (Reg.PM_TOL_DATA, 4000)])), (7 : Nat), (3 : Nat), by decide +kernel⟩,
    ⟨(st []), (0 : Nat), by decide +kernel⟩,
    ⟨(hx (fun h => { h with pm := { h.pm with dieOff := (false) } }) (st [(Reg.PM_CLU_STATE, 0x8000)])), (7 : Nat), by decide +kernel⟩,
    ⟨(hx (fun h => {h with pm := {h.pm with waking := [7], writes := [(7,0x604000 + 512*7,5#32)]}}) (hx (fun h => { h with pm := { h.pm with dieOff := (false) } }) (st [(Reg.PM_CLU_STATE, 0x8000)]))), (7 : Nat), by decide +kernel⟩,
    ⟨(hx (fun h => { h with pm := { h.pm with dieOff := (false) } }) (st [(Reg.DEV_STATUS.READY, 1), (Reg.PM_CLU_STATE, 0x8000)])), (0#32 : Word), (7 : Nat), by decide +kernel⟩,
    ⟨(hx (fun h => (h.setStarted 0 [{ desc := (toLE 64 0x640000000000004201) }])) (st [])), (0 : Nat), ({ desc := (toLE 64 0x640000000000004201) } : Started), by decide +kernel⟩⟩

theorem wit_PowerFaults :
    (∃ s : State, ∃ est : Nat, ∃ mw : Nat, ∃ cap : Nat, ∃ f : Nat, cap = s.host.get Reg.PM_CAP_W * 1000 ∧ f = s.host.get
    Reg.PM_THROTTLE.F_CAP ∧ s.up ∧ mw = est + (s.host.pm.avsCur.get (fun _ => 0) 0 * s.host.pm.avsReq.get (fun _ => 800) 0 / 100
    + s.host.pm.avsCur.get (fun _ => 0) 1 * s.host.pm.avsReq.get (fun _ => 800) 1 / 100) ∧ mw < 2 ^ 32 ∧ cap ≠ 0 ∧ cap < mw)
    ∧ (∃ s : State, ∃ est : Nat, ∃ mw : Nat, ∃ cap : Nat, ∃ f : Nat, cap = s.host.get Reg.PM_CAP_W * 1000 ∧ f = s.host.get
    Reg.PM_THROTTLE.F_CAP ∧ s.up ∧ mw = est + (s.host.pm.avsCur.get (fun _ => 0) 0 * s.host.pm.avsReq.get (fun _ => 800) 0 / 100
    + s.host.pm.avsCur.get (fun _ => 0) 1 * s.host.pm.avsReq.get (fun _ => 800) 1 / 100) ∧ mw < 2 ^ 32 ∧ cap ≠ 0 ∧ mw + 2000 < cap)
    ∧ (∃ s : State, ∃ est : Nat, ∃ mw : Nat, ∃ cap : Nat, ∃ f : Nat, cap = s.host.get Reg.PM_CAP_W * 1000 ∧ f = s.host.get
    Reg.PM_THROTTLE.F_CAP ∧ s.up ∧ mw = est + (s.host.pm.avsCur.get (fun _ => 0) 0 * s.host.pm.avsReq.get (fun _ => 800) 0 / 100
    + s.host.pm.avsCur.get (fun _ => 0) 1 * s.host.pm.avsReq.get (fun _ => 800) 1 / 100) ∧ mw < 2 ^ 32 ∧ (cap = 0 ∨ (mw ≤ cap ∧
    cap ≤ mw + 2000)))
    ∧ (∃ s : State, ∃ est : Nat, ∃ mw : Nat, ∃ cap : Nat, ∃ f : Nat, cap = s.host.get Reg.PM_CAP_W * 1000 ∧ f = s.host.get
    Reg.PM_THROTTLE.F_CAP ∧ s.up ∧ mw = est + (s.host.pm.avsCur.get (fun _ => 0) 0 * s.host.pm.avsReq.get (fun _ => 800) 0 / 100
    + s.host.pm.avsCur.get (fun _ => 0) 1 * s.host.pm.avsReq.get (fun _ => 800) 1 / 100) ∧ mw < 2 ^ 32 ∧ (cap = 0 ∨ (mw ≤ cap ∧
    cap ≤ mw + 2000)))
    ∧ (∃ s : State, s.up ∧ 128 ≤ s.host.get Reg.PM_VOLT_MARGIN)
    ∧ (∃ s : State, s.up ∧ s.settled ∧ s.host.get Reg.PM_VOLT_MARGIN < 128)
    ∧ (∃ s : State, ∃ c0 : Nat, ∃ c1 : Nat, ∃ i0 : Nat, ∃ i1 : Nat, ∃ m0 : Nat, ∃ m1 : Nat, ∃ die : Nat, ∃ hbm : Nat, die = max (max c0
    c1) (max i0 i1) ∧ hbm = max m0 m1 ∧ s.up ∧ s.variant.ioDies = 2 ∧ s.variant.stacks = 2 ∧ c0 < 256 ∧ c1 < 256 ∧ i0 < 256 ∧ i1
    < 256 ∧ m0 < 256 ∧ m1 < 256)
    ∧ (∃ s : State, ∃ tj : Nat, ∃ f : Nat, tj = s.host.get Reg.PM_TJ_THROTTLE ∧ f = s.host.get Reg.PM_THROTTLE_T.F_THERM ∧ s.up ∧ (tj ≤
    s.host.pm.hotDie ∨ 85 ≤ s.host.pm.hotHbm))
    ∧ (∃ s : State, ∃ tj : Nat, ∃ f : Nat, tj = s.host.get Reg.PM_TJ_THROTTLE ∧ f = s.host.get Reg.PM_THROTTLE_T.F_THERM ∧ s.up ∧ (tj ≤
    s.host.pm.hotDie ∨ 85 ≤ s.host.pm.hotHbm))
    ∧ (∃ s : State, ∃ tj : Nat, ∃ f : Nat, tj = s.host.get Reg.PM_TJ_THROTTLE ∧ f = s.host.get Reg.PM_THROTTLE_T.F_THERM ∧ s.up ∧
    s.host.pm.hotDie + 3 ≤ tj ∧ s.host.pm.hotHbm + 3 ≤ 85)
    ∧ (∃ s : State, ∃ volt : Bool, s.up ∧ s.jobsOk ∧ (s.host.pm.dieOff = false ∨ s.host.pm.resuming = true) ∧ (volt = true ∨
    s.host.pm.tripNow = true))
    ∧ (∃ s : State, ∃ volt : Bool, s.up ∧ s.jobsOk ∧ (s.host.pm.dieOff = false ∨ s.host.pm.resuming = true) ∧ (volt = true ∨
    s.host.pm.tripNow = true))
    ∧ (∃ s : State, s.up ∧ s.settled ∧ s.host.pm.tripNow = false)
    ∧ (∃ s : State, s.open_ ∧ s.host.pm.dieOff = true ∧ s.host.pm.tripNow = false ∧ s.host.pm.underVolt = false)
    ∧ (∃ s : State, s.open_ ∧ s.host.pm.dieOff = true ∧ s.settled ∧ (s.host.pm.tripNow = true ∨ s.host.pm.underVolt = true))
    ∧ (∃ s : State, ∃ n : Nat, ∃ floor : Nat, ∃ cur : Nat, ∃ tgt : Nat, ∃ new : Nat, cur = s.host.pm.avsReq.get (fun _ => 800) n ∧ tgt =
    s.host.avsTarget floor ∧ new = (if cur < tgt then min tgt (cur + 10) else max tgt (cur - 10)) ∧ s.up ∧ n < 2 ∧ s.host.get
    (Reg.DET_UNITMAP 0) ≠ 0 ∧ floor < 4096 ∧ cur < 4000)
    ∧ (∃ s : State, ∃ n : Nat, s.up ∧ n < 2 ∧ s.settled)
    ∧ (∃ s : State, ∃ unit : Nat, s.running ∧ s.host.wedgeable unit = true)
    ∧ (∃ s : State, ∃ unit : Nat, s.running ∧ s.settled ∧ s.host.wedgeable unit = false)
    ∧ (∃ s : State, ∃ lim : Nat, lim = s.host.get Reg.PM_UNDEC_LIMIT ∧ s.up)
    ∧ (∃ s : State, ∃ code : Nat, s.up ∧ (code = 0x0502 ∨ code = 0x0503 ∨ code = 0x0505) ∧ s.host.get Reg.PM_STATUS.FATAL = 0)
    ∧ (∃ s : State, ∃ code : Nat, s.up ∧ (code = 0x0502 ∨ code = 0x0503 ∨ code = 0x0505) ∧ s.host.get Reg.PM_STATUS.FATAL = 0) :=
  ⟨⟨(st [(Reg.PM_CAP_W, 50), (Reg.PM_THROTTLE.F_CAP, 256)]), (50001 : Nat), (50001 : Nat), _, _, rfl, rfl, by decide +kernel⟩,
    ⟨(st [(Reg.PM_CAP_W, 50), (Reg.PM_THROTTLE.F_CAP, 100)]), (47999 : Nat), (47999 : Nat), _, _, rfl, rfl, by decide +kernel⟩,
    ⟨(st [(Reg.PM_CAP_W, 50)]), (48000 : Nat), (48000 : Nat), _, _, rfl, rfl, by decide +kernel⟩,
    ⟨(st [(Reg.PM_CAP_W, 50)]), (50000 : Nat), (50000 : Nat), _, _, rfl, rfl, by decide +kernel⟩,
    ⟨(st [(Reg.PM_VOLT_MARGIN, 128)]), by decide +kernel⟩,
    ⟨(st [(Reg.PM_VOLT_MARGIN, 127)]), by decide +kernel⟩,
    ⟨({ (st []) with variant := .km7_220 }), (90 : Nat), (80 : Nat), (70 : Nat), (60 : Nat), (50 : Nat), (40 : Nat), _, _, rfl, rfl, by decide +kernel⟩,
    ⟨(hx (fun h => {h with pm := {h.pm with hotDie := 95}}) (st [(Reg.PM_TJ_THROTTLE, 95)])), _, _, rfl, rfl, by decide +kernel⟩,
    ⟨(hx (fun h => {h with pm := {h.pm with hotHbm := 85}}) (st [(Reg.PM_TJ_THROTTLE, 95)])), _, _, rfl, rfl, by decide +kernel⟩,
    ⟨(hx (fun h => {h with pm := {h.pm with hotDie := 92, hotHbm := 82}}) (st [(Reg.PM_TJ_THROTTLE, 95), (Reg.PM_THROTTLE_T.F_THERM, 100)])), _, _, rfl, rfl, by decide +kernel⟩,
    ⟨(hx (fun h => { h with pm := { h.pm with dieOff := (false) } }) (st [])), (true : Bool), by decide +kernel⟩,
    ⟨(hx (fun h => {h with pm := {h.pm with tripNow := true}}) (hx (fun h => { h with pm := { h.pm with dieOff := (false) } }) (st []))), (false : Bool), by decide +kernel⟩,
    ⟨(hx (fun h => { h with pm := { h.pm with tripNow := (false) } }) (st [])), by decide +kernel⟩,
    ⟨(hx (fun h => { h with pm := { h.pm with dieOff := (true), tripNow := (false), underVolt := (false) } }) (st [(Reg.DEV_STATUS.READY, 1)])), by decide +kernel⟩,
    ⟨(hx (fun h => { h with pm := { h.pm with dieOff := (true), tripNow := (true) } }) (st [(Reg.DEV_STATUS.READY, 1)])), by decide +kernel⟩,
    ⟨(st [((Reg.DET_UNITMAP 0), 1), (Reg.DET_UNITMAP 0, 5)]), (1 : Nat), (900 : Nat), _, _, _, rfl, rfl, rfl, by decide +kernel⟩,
    ⟨(st []), (0 : Nat), by decide +kernel⟩,
    ⟨(hx (fun h => {h with insp := {h.insp with commits := [.rearm]}}) (st [])), (5 : Nat), by decide +kernel⟩,
    ⟨(st []), (5 : Nat), by decide +kernel⟩,
    ⟨(st []), _, rfl, by decide +kernel⟩,
    ⟨(st [(Reg.PM_STATUS.FATAL, 0)]), (0x0502 : Nat), by decide +kernel⟩,
    ⟨(st [(Reg.PM_STATUS.FATAL, 0)]), (0x0505 : Nat), by decide +kernel⟩⟩

theorem wit_FirmwareDelivery :
    (∃ c : SlotCtl, c.active < 2 ∧ c.stateA < 256 ∧ c.stateB < 256 ∧ c.boots < 256 ∧ c.digA.length = 32 ∧ c.digB.length = 32 ∧ c.pcsA
    < 2 ^ 32 ∧ c.pcsB < 2 ^ 32)
    ∧ (∃ s : State, ∃ q : Nat, ∃ d : Started, ∃ c : SlotCtl, c = s.host.ctl ∧ s.mbox q d 0x10 ∧ d.fld 24 4 < 128)
    ∧ (∃ s : State, ∃ q : Nat, ∃ d : Started, ∃ c : SlotCtl, c = s.host.ctl ∧ s.mbox q d 0x10 ∧ 128 ≤ d.fld 24 4 ∧ s.host.idleKept = true)
    ∧ (∃ s : State, ∃ q : Nat, ∃ d : Started, ∃ c : SlotCtl, c = s.host.ctl ∧ s.mbox q d 0x10 ∧ 128 ≤ d.fld 24 4 ∧ s.host.idleKept =
    false ∧ s.host.bme = true)
    ∧ (∃ s : State, ∃ q : Nat, ∃ d : Started, s.up ∧ s.host.oldestMbox = some (q, d) ∧ d.opcode = 0x41 ∧ 65536 < d.fld 16 4)
    ∧ (∃ s : State, ∃ q : Nat, ∃ d : Started, s.up ∧ s.host.oldestMbox = some (q, d) ∧ d.opcode = 0x41 ∧ d.fld 16 4 ≤ 65536 ∧
    s.host.mgmt.delivery = false)
    ∧ (∃ s : State, ∃ q : Nat, ∃ d : Started, s.up ∧ s.host.oldestMbox = some (q, d) ∧ d.opcode = 0x41 ∧ d.fld 16 4 ≤ 65536 ∧
    s.host.mgmt.delivery = true ∧ s.host.idleKept = true)
    ∧ (∃ s : State, ∃ q : Nat, ∃ d : Started, s.up ∧ s.host.oldestMbox = some (q, d) ∧ d.opcode = 0x41 ∧ d.fld 16 4 ≤ 65536 ∧
    s.host.mgmt.delivery = true ∧ s.host.idleKept = false ∧ s.host.bme = true ∧ s.host.readErr (d.fld 8 8) (d.fld 16 4) = true)
    ∧ (∃ s : State, ∃ q : Nat, ∃ d : Started, s.up ∧ s.host.oldestMbox = some (q, d) ∧ d.opcode = 0x41 ∧ d.fld 16 4 ≤ 65536 ∧
    s.host.mgmt.delivery = true ∧ s.host.idleKept = false ∧ s.host.bme = true ∧ s.host.readErr (d.fld 8 8) (d.fld 16 4) = false ∧
    d.fld 20 4 = 0 ∧ d.fld 16 4 < 8192)
    ∧ (∃ s : State, ∃ q : Nat, ∃ d : Started, ∃ c : SlotCtl, ∃ n : Nat, ∃ p : Nat, ∃ m : List Byte, c = s.host.ctl ∧ n = c.idle ∧ p =
    d.fld 20 4 ∧ m = imageHeader s.host.mgmt.flash n ∧ s.up ∧ s.host.oldestMbox = some (q, d) ∧ d.opcode = 0x41 ∧ d.fld 16 4 ≤
    65536 ∧ s.host.mgmt.delivery = true ∧ s.host.idleKept = false ∧ s.host.bme = true ∧ s.host.readErr (d.fld 8 8) (d.fld 16 4) =
    false ∧ p ≠ 0 ∧ p < 640 ∧ c.state n ≠ 1 ∧ c.state n ≠ 2)
    ∧ (∃ s : State, ∃ q : Nat, ∃ d : Started, ∃ c : SlotCtl, ∃ n : Nat, ∃ p : Nat, ∃ m : List Byte, c = s.host.ctl ∧ n = c.idle ∧ p =
    d.fld 20 4 ∧ m = imageHeader s.host.mgmt.flash n ∧ s.up ∧ s.host.oldestMbox = some (q, d) ∧ d.opcode = 0x41 ∧ d.fld 16 4 ≤
    65536 ∧ s.host.mgmt.delivery = true ∧ s.host.idleKept = false ∧ s.host.bme = true ∧ s.host.readErr (d.fld 8 8) (d.fld 16 4) =
    false ∧ p ≠ 0 ∧ p < 640 ∧ (c.state n = 1 ∨ c.state n = 2) ∧ m.take 8 = asciiOf "KM7MANF1" ∧ (c.pieces n ≤ p ∨ d.fld 16 4 ≠
    min 65536 (manLen m - p * 65536)))
    ∧ (∃ s : State, ∃ q : Nat, ∃ d : Started, ∃ c : SlotCtl, ∃ n : Nat, ∃ p : Nat, ∃ m : List Byte, c = s.host.ctl ∧ n = c.idle ∧ p =
    d.fld 20 4 ∧ m = imageHeader s.host.mgmt.flash n ∧ s.up ∧ s.host.oldestMbox = some (q, d) ∧ d.opcode = 0x41 ∧ d.fld 16 4 ≤
    65536 ∧ s.host.mgmt.delivery = true ∧ s.host.idleKept = false ∧ s.host.bme = true ∧ s.host.readErr (d.fld 8 8) (d.fld 16 4) =
    false ∧ p ≠ 0 ∧ p < 640 ∧ (c.state n = 1 ∨ c.state n = 2) ∧ m.take 8 = asciiOf "KM7MANF1" ∧ p < c.pieces n ∧ d.fld 16 4 = min
    65536 (manLen m - p * 65536) ∧ pieceHeld s.host.mgmt.flash n p = true)
    ∧ (∃ s : State, ∃ q : Nat, ∃ d : Started, ∃ c : SlotCtl, ∃ n : Nat, ∃ p : Nat, ∃ m : List Byte, c = s.host.ctl ∧ n = c.idle ∧ p =
    d.fld 20 4 ∧ m = imageHeader s.host.mgmt.flash n ∧ s.up ∧ s.host.oldestMbox = some (q, d) ∧ d.opcode = 0x41 ∧ d.fld 16 4 ≤
    65536 ∧ s.host.mgmt.delivery = true ∧ s.host.idleKept = false ∧ s.host.bme = true ∧ s.host.readErr (d.fld 8 8) (d.fld 16 4) =
    false ∧ p ≠ 0 ∧ p < 640 ∧ (c.state n = 1 ∨ c.state n = 2) ∧ m.take 8 = asciiOf "KM7MANF1" ∧ p < c.pieces n ∧ d.fld 16 4 = min
    65536 (manLen m - p * 65536) ∧ pieceHeld s.host.mgmt.flash n p = false)
    ∧ (∃ s : State, ∃ q : Nat, ∃ d : Started, ∃ c : SlotCtl, ∃ n : Nat, c = s.host.ctl ∧ n = c.idle ∧ s.mbox q d 0x11 ∧ (c.state n = 1 ∨
    c.state n = 2 ∨ c.state n = 6))
    ∧ (∃ s : State, ∃ q : Nat, ∃ d : Started, ∃ c : SlotCtl, ∃ n : Nat, c = s.host.ctl ∧ n = c.idle ∧ s.mbox q d 0x11 ∧ c.state n ≠ 1 ∧
    c.state n ≠ 2 ∧ c.state n ≠ 6)
    ∧ (∃ s : State, ∃ q : Nat, ∃ d : Started, ∃ c : SlotCtl, ∃ n : Nat, c = s.host.ctl ∧ n = c.idle ∧ s.mbox q d 0x12 ∧ 4 ≤ d.fld 24 4 ∧
    c.state n = 1)
    ∧ (∃ s : State, ∃ q : Nat, ∃ d : Started, ∃ c : SlotCtl, ∃ n : Nat, c = s.host.ctl ∧ n = c.idle ∧ s.mbox q d 0x12 ∧ 4 ≤ d.fld 24 4 ∧
    c.state n ≠ 1 ∧ c.state n ≠ 2)
    ∧ (∃ s : State, ∃ q : Nat, ∃ d : Started, ∃ c : SlotCtl, ∃ n : Nat, c = s.host.ctl ∧ n = c.idle ∧ s.mbox q d 0x12 ∧ 4 ≤ d.fld 24 4 ∧
    c.state n = 2 ∧ s.host.bme = true ∧ partFailing s.host.mgmt.flash n = none)
    ∧ (∃ s : State, ∃ q : Nat, ∃ d : Started, ∃ n : Nat, s.mbox q d 0x13 ∧ s.host.mgmt.running = some n ∧ s.host.inTrial = false)
    ∧ (∃ s : State, ∃ q : Nat, ∃ d : Started, ∃ n : Nat, ∃ rb : Nat, rb = max (s.host.get Reg.MGMT_FLOOR) (s.host.get (Reg.MGMT_VERSION
    3)) ∧ s.mbox q d 0x13 ∧ s.host.mgmt.running = some n ∧ s.host.inTrial = true)
    ∧ (∃ s : State, ∃ q : Nat, ∃ d : Started, ∃ c : SlotCtl, ∃ n : Nat, c = s.host.ctl ∧ n = c.active ∧ s.mbox q d 0x14 ∧ c.state n ≠ 3
    ∧ c.state n ≠ 4)
    ∧ (∃ s : State, ∃ q : Nat, ∃ d : Started, ∃ c : SlotCtl, ∃ n : Nat, c = s.host.ctl ∧ n = c.active ∧ s.mbox q d 0x14 ∧ (c.state n = 3
    ∨ c.state n = 4))
    ∧ (∃ s : State, ∃ q : Nat, ∃ d : Started, ∃ n : Nat, ∃ len : Nat, n = s.host.ctl.idle ∧ len = manLen (imageHeader s.host.mgmt.flash
    n) ∧ s.mbox q d 0x15 ∧ s.host.mgmt.copying ≠ some (q, d.idx) ∧ s.host.ctl.state n ≠ 5)
    ∧ (∃ s : State, ∃ q : Nat, ∃ d : Started, ∃ n : Nat, ∃ len : Nat, n = s.host.ctl.idle ∧ len = manLen (imageHeader s.host.mgmt.flash
    n) ∧ s.mbox q d 0x15 ∧ s.host.mgmt.copying ≠ some (q, d.idx) ∧ s.host.ctl.state n = 5 ∧ 16777216 < len)
    ∧ (∃ s : State, ∃ q : Nat, ∃ d : Started, ∃ n : Nat, ∃ len : Nat, n = s.host.ctl.idle ∧ len = manLen (imageHeader s.host.mgmt.flash
    n) ∧ s.mbox q d 0x15 ∧ s.host.mgmt.copying ≠ some (q, d.idx) ∧ s.host.ctl.state n = 5 ∧ len ≤ 16777216)
    ∧ (∃ s : State, ∃ q : Nat, ∃ d : Started, ∃ n : Nat, ∃ len : Nat, ∃ f : Flash, n = s.host.ctl.idle ∧ len = manLen (imageHeader
    s.host.mgmt.flash n) ∧ f = fWrite s.host.mgmt.flash (slotBase 2) (fRead s.host.mgmt.flash (slotBase n) len) ∧ s.mbox q d 0x15
    ∧ s.host.mgmt.copying = some (q, d.idx) ∧ len ≤ 16777216) :=
  ⟨⟨(({stateA := 5, stateB := 1} : SlotCtl) : SlotCtl), by decide +kernel⟩,
    ⟨(hx (fun h => {(h.setStarted 5 [{ desc := (toLE 64 0x2000000000000000007F000000000000000000000000000000100000000000004001) }]) with bme := true}) (st [])), (5 : Nat), (({ desc := (toLE 64 0x2000000000000000007F000000000000000000000000000000100000000000004001) } : Started) : Started), _, rfl, by decide +kernel⟩,
    ⟨(hx (fun h => {(h.setStarted 5 [{ desc := (toLE 64 0x20000000000000000080000000000000000000000000000000100000000000004001) }]) with bme := true, mgmt := {h.mgmt with running := some 1}}) (st [])), (5 : Nat), (({ desc := (toLE 64 0x20000000000000000080000000000000000000000000000000100000000000004001) } : Started) : Started), _, rfl, by decide +kernel⟩,
    ⟨(hx (fun h => {(h.setStarted 5 [{ desc := (toLE 64 0x20000000000000000080000000000000000000000000000000100000000000004001) }]) with bme := true, mgmt := {h.mgmt with flash := (ctlCells {stateB := 1, pcsB := 3})}}) (hx (fun h => { h with bme := (true) }) (st []))), (5 : Nat), (({ desc := (toLE 64 0x20000000000000000080000000000000000000000000000000100000000000004001) } : Started) : Started), _, rfl, by decide +kernel⟩,
    ⟨(hx (fun h => {(h.setStarted 5 [{ desc := (toLE 64 0x1000100000000000040000000000000004101) }]) with bme := true, mgmt := {h.mgmt with delivery := true}}) (st [])), (5 : Nat), (({ desc := (toLE 64 0x1000100000000000040000000000000004101) } : Started) : Started), by decide +kernel⟩,
    ⟨(hx (fun h => {(h.setStarted 5 [{ desc := (toLE 64 0x6400000000000040000000000000004101) }]) with bme := true, mgmt := {h.mgmt with delivery := false}}) (hx (fun h => { h with mgmt := { h.mgmt with delivery := (false) } }) (st []))), (5 : Nat), (({ desc := (toLE 64 0x6400000000000040000000000000004101) } : Started) : Started), by decide +kernel⟩,
    ⟨(hx (fun h => {(h.setStarted 5 [{ desc := (toLE 64 0x6400000000000000000000000000004101) }]) with bme := true, mgmt := {h.mgmt with delivery := true, running := some 1}}) (hx (fun h => { h with mgmt := { h.mgmt with delivery := (true) } }) (st []))), (5 : Nat), (({ desc := (toLE 64 0x6400000000000000000000000000004101) } : Started) : Started), by decide +kernel⟩,
    ⟨(hx (fun h => { ({(h.setStarted 5 [{ desc := (toLE 64 0x6400000000000010000000000000004101) }]) with bme := true, mgmt := {h.mgmt with delivery := true}}) with noRead := [(0x1000, 16)] }) (hx (fun h => { h with bme := (true) }) (hx (fun h => { h with mgmt := { h.mgmt with delivery := (true) } }) (st [])))), (5 : Nat), (({ desc := (toLE 64 0x6400000000000010000000000000004101) } : Started) : Started), by decide +kernel⟩,
    ⟨(hx (fun h => {(h.setStarted 5 [{ desc := (toLE 64 0x1FFF00000000000040000000000000004101) }]) with bme := true, mgmt := {h.mgmt with delivery := true}}) (hx (fun h => { h with bme := (true) }) (hx (fun h => { h with mgmt := { h.mgmt with delivery := (true) } }) (st [])))), (5 : Nat), (({ desc := (toLE 64 0x1FFF00000000000040000000000000004101) } : Started) : Started), by decide +kernel⟩,
    ⟨(hx (fun h => {(h.setStarted 5 [{ desc := (toLE 64 0x10000006400000000000040000000000000004101) }]) with bme := true, mgmt := {h.mgmt with delivery := true}}) (hx (fun h => { h with bme := (true) }) (hx (fun h => { h with mgmt := { h.mgmt with delivery := (true) } }) (st [])))), (5 : Nat), (({ desc := (toLE 64 0x10000006400000000000040000000000000004101) } : Started) : Started), _, _, _, _, rfl, rfl, rfl, rfl, by decide +kernel⟩,
    ⟨(hx (fun h => {(h.setStarted 5 [{ desc := (toLE 64 0x10000006400000000000040000000000000004101) }]) with bme := true, mgmt := {h.mgmt with flash := ((ctlCells {stateB := 1, pcsB := 1}) ++ ((cellsAt 0 (asciiOf "KM7MANF1") ++ [(16,112#8),(17,17#8),(18,1#8),(19,0#8),(40,0#8),(41,0#8)]).map fun (x : Nat × Byte) => (0x2900000 + x.1, x.2))), delivery := true}}) (hx (fun h => { h with bme := (true) }) (hx (fun h => { h with mgmt := { h.mgmt with delivery := (true) } }) (st [])))), (5 : Nat), (({ desc := (toLE 64 0x10000006400000000000040000000000000004101) } : Started) : Started), _, _, _, _, rfl, rfl, rfl, rfl, by decide +kernel⟩,
    ⟨(hx (fun h => {(h.setStarted 5 [{ desc := (toLE 64 0x10000117000000000000040000000000000004101) }]) with bme := true, mgmt := {h.mgmt with flash := (setPiece ((ctlCells {stateB := 1, pcsB := 2}) ++ ((cellsAt 0 (asciiOf "KM7MANF1") ++ [(16,112#8),(17,17#8),(18,1#8),(19,0#8),(40,0#8),(41,0#8)]).map fun (x : Nat × Byte) => (0x2900000 + x.1, x.2))) 1 1 true), delivery := true}}) (hx (fun h => { h with bme := (true) }) (hx (fun h => { h with mgmt := { h.mgmt with delivery := (true) } }) (st [])))), (5 : Nat), (({ desc := (toLE 64 0x10000117000000000000040000000000000004101) } : Started) : Started), _, _, _, _, rfl, rfl, rfl, rfl, by decide +kernel⟩,
    ⟨(hx (fun h => {(h.setStarted 5 [{ desc := (toLE 64 0x10000117000000000000040000000000000004101) }]) with bme := true, mgmt := {h.mgmt with flash := ((ctlCells {stateB := 1, pcsB := 2}) ++ ((cellsAt 0 (asciiOf "KM7MANF1") ++ [(16,112#8),(17,17#8),(18,1#8),(19,0#8),(40,0#8),(41,0#8)]).map fun (x : Nat × Byte) => (0x2900000 + x.1, x.2))), delivery := true}}) (hx (fun h => { h with bme := (true) }) (hx (fun h => { h with mgmt := { h.mgmt with delivery := (true) } }) (st [])))), (5 : Nat), (({ desc := (toLE 64 0x10000117000000000000040000000000000004101) } : Started) : Started), _, _, _, _, rfl, rfl, rfl, rfl, by decide +kernel⟩,
    ⟨(hx (fun h => {(h.setStarted 5 [{ desc := (toLE 64 0x20000000000000000000000000000000000000000000000000110000000000004001) }]) with bme := true, mgmt := {h.mgmt with flash := (ctlCells {stateB := 2})}}) (st [])), (5 : Nat), (({ desc := (toLE 64 0x20000000000000000000000000000000000000000000000000110000000000004001) } : Started) : Started), _, _, rfl, rfl, by decide +kernel⟩,
    ⟨(hx (fun h => {(h.setStarted 5 [{ desc := (toLE 64 0x20000000000000000000000000000000000000000000000000110000000000004001) }]) with bme := true, mgmt := {h.mgmt with flash := (ctlCells {stateB := 3})}}) (st [])), (5 : Nat), (({ desc := (toLE 64 0x20000000000000000000000000000000000000000000000000110000000000004001) } : Started) : Started), _, _, rfl, rfl, by decide +kernel⟩,
    ⟨(hx (fun h => {(h.setStarted 5 [{ desc := (toLE 64 0x20000000000000000004000000000000000000000000000000120000000000004001) }]) with bme := true, mgmt := {h.mgmt with flash := (ctlCells {stateB := 1})}}) (st [])), (5 : Nat), (({ desc := (toLE 64 0x20000000000000000004000000000000000000000000000000120000000000004001) } : Started) : Started), _, _, rfl, rfl, by decide +kernel⟩,
    ⟨(hx (fun h => {(h.setStarted 5 [{ desc := (toLE 64 0x20000000000000000004000000000000000000000000000000120000000000004001) }]) with bme := true, mgmt := {h.mgmt with flash := (ctlCells {stateB := 5})}}) (st [])), (5 : Nat), (({ desc := (toLE 64 0x20000000000000000004000000000000000000000000000000120000000000004001) } : Started) : Started), _, _, rfl, rfl, by decide +kernel⟩,
    ⟨(hx (fun h => {(h.setStarted 5 [{ desc := (toLE 64 0x20000000000000000004000000000000000000000000000000120000000000004001) }]) with bme := true, mgmt := {h.mgmt with flash := ((ctlCells {stateA := 5, stateB := 2}) ++ ((cellsAt 0 (asciiOf "KM7MANF1") ++ [(16,112#8),(17,17#8),(18,1#8),(19,0#8),(40,0#8),(41,0#8)]).map fun (x : Nat × Byte) => (0x2900000 + x.1, x.2)))}}) (hx (fun h => { h with bme := (true) }) (st []))), (5 : Nat), (({ desc := (toLE 64 0x20000000000000000004000000000000000000000000000000120000000000004001) } : Started) : Started), _, _, rfl, rfl, by decide +kernel⟩,
    ⟨(hx (fun h => {(h.setStarted 5 [{ desc := (toLE 64 0x20000000000000000000000000000000000000000000000000130000000000004001) }]) with bme := true, mgmt := {h.mgmt with flash := (ctlCells {stateA := 5}), running := some 0}}) (hx (fun h => { h with mgmt := { h.mgmt with running := (some (0 : Nat)) } }) (st []))), (5 : Nat), (({ desc := (toLE 64 0x20000000000000000000000000000000000000000000000000130000000000004001) } : Started) : Started), (0 : Nat), by decide +kernel⟩,
    ⟨(hx (fun h => {(h.setStarted 5 [{ desc := (toLE 64 0x20000000000000000000000000000000000000000000000000130000000000004001) }]) with bme := true, mgmt := {h.mgmt with flash := (ctlCells {stateA := 4, stateB := 5}), running := some 0}}) (hx (fun h => { h with mgmt := { h.mgmt with running := (some (0 : Nat)) } }) (st []))), (5 : Nat), (({ desc := (toLE 64 0x20000000000000000000000000000000000000000000000000130000000000004001) } : Started) : Started), (0 : Nat), _, rfl, by decide +kernel⟩,
    ⟨(hx (fun h => {(h.setStarted 5 [{ desc := (toLE 64 0x20000000000000000000000000000000000000000000000000140000000000004001) }]) with bme := true, mgmt := {h.mgmt with flash := (ctlCells {stateA := 5})}}) (st [])), (5 : Nat), (({ desc := (toLE 64 0x20000000000000000000000000000000000000000000000000140000000000004001) } : Started) : Started), _, _, rfl, rfl, by decide +kernel⟩,
    ⟨(hx (fun h => {(h.setStarted 5 [{ desc := (toLE 64 0x20000000000000000000000000000000000000000000000000140000000000004001) }]) with bme := true, mgmt := {h.mgmt with flash := (ctlCells {stateA := 4, stateB := 5})}}) (st [])), (5 : Nat), (({ desc := (toLE 64 0x20000000000000000000000000000000000000000000000000140000000000004001) } : Started) : Started), _, _, rfl, rfl, by decide +kernel⟩,
    ⟨(hx (fun h => {(h.setStarted 5 [{ desc := (toLE 64 0x20000000000000000000000000000000000000000000000000150000000000004001) }]) with bme := true, mgmt := {h.mgmt with flash := (ctlCells {stateB := 1})}}) (st [])), (5 : Nat), (({ desc := (toLE 64 0x20000000000000000000000000000000000000000000000000150000000000004001) } : Started) : Started), _, _, rfl, rfl, by decide +kernel⟩,
    ⟨(hx (fun h => {(h.setStarted 5 [{ desc := (toLE 64 0x20000000000000000000000000000000000000000000000000150000000000004001) }]) with bme := true, mgmt := {h.mgmt with flash := (ctlCells {stateB := 5})}}) (st [])), (5 : Nat), (({ desc := (toLE 64 0x20000000000000000000000000000000000000000000000000150000000000004001) } : Started) : Started), _, _, rfl, rfl, by decide +kernel⟩,
    ⟨(hx (fun h => {(h.setStarted 5 [{ desc := (toLE 64 0x20000000000000000000000000000000000000000000000000150000000000004001) }]) with bme := true, mgmt := {h.mgmt with flash := ((ctlCells {stateB := 5}) ++ ((cellsAt 0 (asciiOf "KM7MANF1") ++ [(16,64#8),(17,0#8),(18,0#8),(19,0#8),(40,0#8),(41,0#8)]).map fun (x : Nat × Byte) => (0x2900000 + x.1, x.2)))}}) (st [])), (5 : Nat), (({ desc := (toLE 64 0x20000000000000000000000000000000000000000000000000150000000000004001) } : Started) : Started), _, _, rfl, rfl, by decide +kernel⟩,
    ⟨(hx (fun h => {(h.setStarted 5 [{ desc := (toLE 64 0x20000000000000000000000000000000000000000000000000150000000000004001) }]) with bme := true, mgmt := {h.mgmt with copying := some (5, 0), flash := ((ctlCells {stateB := 5}) ++ ((cellsAt 0 (asciiOf "KM7MANF1") ++ [(16,64#8),(17,0#8),(18,0#8),(19,0#8),(40,0#8),(41,0#8)]).map fun (x : Nat × Byte) => (0x2900000 + x.1, x.2)))}}) (st [])), (5 : Nat), (({ desc := (toLE 64 0x20000000000000000000000000000000000000000000000000150000000000004001) } : Started) : Started), _, _, _, rfl, rfl, rfl, by decide +kernel⟩⟩

theorem wit_SettingsAndIdentity :
    (∃ s : State, ∃ q : Nat, ∃ id : Nat, ∃ ctx : Nat, ∃ d : Started, s.mbox q d 0x20 ∧ s.host.bme = true ∧ settingKey (s.host.mboxIn
    d) = (id, ctx) ∧ (id = 0 ∨ 3 < id ∨ (id = 3 ∧ s.variant.ctxs ≤ ctx)))
    ∧ (∃ s : State, ∃ q : Nat, ∃ id : Nat, ∃ ctx : Nat, ∃ d : Started, ∃ x : Setting, ∃ flats : List Nat, x = ⟨id, ctx, s.host.ownFmt
    id, s.host.inTrial, ofFmt1 id (s.host.ownFmt id) (settingData s.host s.field id ctx)⟩ ∧ flats = ((s.host.settings.filter fun
    y => y.id == 3 && y.ctx != ctx).map (·.ctx)).dedup ∧ s.mbox q d 0x20 ∧ s.host.bme = true ∧ settingKey (s.host.mboxIn d) =
    (id, ctx) ∧ 1 ≤ id ∧ id ≤ 3 ∧ (id = 3 → ctx < s.variant.ctxs) ∧ (settingsFull (putSetting s.host.settings x) = true ∨ (id = 3
    ∧ 16 ≤ flats.length)))
    ∧ (∃ s : State, ∃ q : Nat, ∃ id : Nat, ∃ ctx : Nat, ∃ d : Started, s.mbox q d 0x21 ∧ s.host.bme = true ∧ settingKey (s.host.mboxIn
    d) = (id, ctx) ∧ s.host.settingOf id ctx = none)
    ∧ (∃ s : State, ∃ q : Nat, ∃ id : Nat, ∃ ctx : Nat, ∃ d : Started, ∃ x, s.mbox q d 0x21 ∧ s.host.bme = true ∧ settingKey
    (s.host.mboxIn d) = (id, ctx) ∧ s.host.settingOf id ctx = some x ∧ d.fld 24 4 < 16 + x.data.length)
    ∧ (∃ s : State, ∃ q : Nat, ∃ id : Nat, ∃ ctx : Nat, ∃ d : Started, ∃ x, s.mbox q d 0x21 ∧ s.host.bme = true ∧ settingKey
    (s.host.mboxIn d) = (id, ctx) ∧ s.host.settingOf id ctx = some x ∧ 16 + x.data.length ≤ d.fld 24 4)
    ∧ (∃ s : State, ∃ q : Nat, ∃ id : Nat, ∃ d : Started, id = leNat ((s.host.mboxIn d).take 2) ∧ s.mbox q d 0x22 ∧ s.host.bme = true ∧
    (1 ≤ id ∧ id ≤ 3))
    ∧ (∃ s : State, ∃ q : Nat, ∃ id : Nat, ∃ d : Started, id = leNat ((s.host.mboxIn d).take 2) ∧ s.mbox q d 0x22 ∧ s.host.bme = true ∧
    (id = 0 ∨ (3 < id ∧ id < 0x100) ∨ 0x1FF < id))
    ∧ (∃ s : State, ∃ q : Nat, ∃ id : Nat, ∃ d : Started, id = leNat ((s.host.mboxIn d).take 2) ∧ s.mbox q d 0x22 ∧ s.host.bme = true ∧
    (id = 0 ∨ (3 < id ∧ id < 0x100) ∨ 0x1FF < id))
    ∧ (∃ s : State, ∃ q : Nat, ∃ id : Nat, ∃ d : Started, ∃ x : Setting, id = leNat ((s.host.mboxIn d).take 2) ∧ x = { id := id, fmt := s.host.ownFmt id, data := (s.host.mboxIn d).drop 2 }
    ∧ s.mbox q d 0x22 ∧ s.host.bme = true ∧ 0x100 ≤ id ∧ id ≤ 0x1FF ∧ settingsFull (putSetting s.host.settings x) = false)
    ∧ (∃ s : State, ∃ q : Nat, ∃ id : Nat, ∃ d : Started, ∃ x : Setting, id = leNat ((s.host.mboxIn d).take 2) ∧ x = { id := id, fmt := s.host.ownFmt id, data := (s.host.mboxIn d).drop 2 }
    ∧ s.mbox q d 0x22 ∧ s.host.bme = true ∧ 0x100 ≤ id ∧ id ≤ 0x1FF ∧ settingsFull (putSetting s.host.settings x) = false)
    ∧ (∃ s : State, ∃ q : Nat, ∃ id : Nat, ∃ ctx : Nat, ∃ d : Started, s.mbox q d 0x23 ∧ s.host.bme = true ∧ settingKey (s.host.mboxIn
    d) = (id, ctx) ∧ (1 ≤ id ∧ id ≤ 3))
    ∧ (∃ s : State, ∃ q : Nat, ∃ id : Nat, ∃ ctx : Nat, ∃ d : Started, s.mbox q d 0x23 ∧ s.host.bme = true ∧ settingKey (s.host.mboxIn
    d) = (id, ctx) ∧ (id = 0 ∨ 3 < id) ∧ (∀ y ∈ s.host.settings, y.id ≠ id))
    ∧ (∃ s : State, ∃ q : Nat, ∃ id : Nat, ∃ ctx : Nat, ∃ d : Started, s.mbox q d 0x23 ∧ s.host.bme = true ∧ settingKey (s.host.mboxIn
    d) = (id, ctx) ∧ (id = 0 ∨ 3 < id) ∧ (∃ y ∈ s.host.settings, y.id = id))
    ∧ (∃ s : State, ∃ q : Nat, ∃ d : Started, s.mbox q d 0x31 ∧ d.fld 24 4 < 1952)
    ∧ (∃ s : State, ∃ q : Nat, ∃ d : Started, s.mbox q d 0x31 ∧ 1952 ≤ d.fld 24 4 ∧ s.host.on Reg.MGMT_STATUS.IDENT_OK = false)
    ∧ (∃ s : State, ∃ q : Nat, ∃ d : Started, s.mbox q d 0x31 ∧ 1952 ≤ d.fld 24 4 ∧ s.host.on Reg.MGMT_STATUS.IDENT_OK = true ∧
    s.host.bme = true)
    ∧ (∃ s : State, ∃ q : Nat, ∃ d : Started, s.mbox q d 0x32 ∧ d.fld 24 4 < 4096)
    ∧ (∃ s : State, ∃ q : Nat, ∃ d : Started, s.mbox q d 0x32 ∧ 4096 ≤ d.fld 24 4 ∧ s.host.on Reg.MGMT_STATUS.IDENT_OK = false)
    ∧ (∃ s : State, ∃ q : Nat, ∃ idx : Nat, ∃ m : List Byte, s.up ∧ s.host.mgmt.quote = some (q, idx, m) ∧ s.settled ∧
    s.host.mgmt.quoteSigns = false ∧ (s.host.signing = true ∨ ∃ n, n < 16 ∧ s.host.sealDue s.env n = true ∧ s.host.sealFull n =
    false))
    ∧ (∃ s : State, ∃ area : List Byte, ∃ start : Nat → Option (BitVec 256), area = fRead s.host.mgmt.flash 0x10000 0x40000 ∧ start =
    (fun i => Config.pufDecode (Config.pufStart (s.host.fresh + i)) area) ∧ s.host.down = true)
    ∧ (∃ s : State, s.up ∧ s.host.mgmt.running = none ∧ (s.host.get Reg.CLK_BOOT_STAGE = 1 ∨ s.host.get Reg.CLK_BOOT_STAGE = 2) ∧ (∀ r,
    s.host.mgmt.root = some r → identityKey r ≠ certKey s.host.mgmt.flash (identityKey r).length))
    ∧ (∃ s : State, ∃ q : Nat, ∃ d : Started, s.up ∧ s.host.oldestMbox = some (q, d) ∧ d.opcode = 0x40 ∧ d.accepted = false ∧
    s.host.mboxErr d = true ∧ d.fld 8 2 = 0x20)
    ∧ (∃ s : State, ∃ q : Nat, ∃ d : Started, s.up ∧ s.host.oldestMbox = some (q, d) ∧ d.opcode = 0x40 ∧ d.accepted = false ∧
    s.host.mboxErr d = true ∧ d.fld 8 2 = 0x21)
    ∧ (∃ s : State, ∃ q : Nat, ∃ d : Started, s.up ∧ s.host.oldestMbox = some (q, d) ∧ d.opcode = 0x40 ∧ d.accepted = false ∧
    s.host.mboxErr d = true ∧ d.fld 8 2 = 0x22)
    ∧ (∃ s : State, ∃ q : Nat, ∃ d : Started, s.up ∧ s.host.oldestMbox = some (q, d) ∧ d.opcode = 0x40 ∧ d.accepted = false ∧
    s.host.mboxErr d = true ∧ d.fld 8 2 = 0x23)
    ∧ (∃ s : State, ∃ q : Nat, ∃ d : Started, s.up ∧ s.host.oldestMbox = some (q, d) ∧ d.opcode = 0x40 ∧ d.accepted = false ∧
    s.host.mboxErr d = true ∧ d.fld 8 2 = 0x32) :=
  ⟨⟨(hx (fun h => {(h.setStarted 5 [{ desc := (toLE 64 0x20000000000000000000000000000000100000000008000000200000000000004001) }]) with bme := true, mem := Mem.setBytes [] 0x1000 (toLE 8 4)}) (hx (fun h => { h with bme := (true) }) (st []))), (5 : Nat), (4 : Nat), (0 : Nat), (({ desc := (toLE 64 0x20000000000000000000000000000000100000000008000000200000000000004001) } : Started) : Started), by decide +kernel⟩,
    ⟨(hx (fun h => {(h.setStarted 5 [{ desc := (toLE 64 0x20000000000000000000000000000000100000000008000000200000000000004001) }]) with bme := true, mem := Mem.setBytes [] 0x1000 (toLE 8 3), mgmt := {h.mgmt with flash := cellsAt 0x6100000 (((List.range 16).map fun i => {id := 3, ctx := i + 1} : List Setting).flatMap Setting.bytes)}}) (hx (fun h => { h with bme := (true) }) (st []))), (5 : Nat), (3 : Nat), (0 : Nat), (({ desc := (toLE 64 0x20000000000000000000000000000000100000000008000000200000000000004001) } : Started) : Started), _, _, rfl, rfl, by (repeat' refine And.intro ?_ ?_) <;> first | exact .inr (by decide +kernel) | decide +kernel⟩,
    ⟨(hx (fun h => {(h.setStarted 5 [{ desc := (toLE 64 0x20000000000000000000000000000000100000000008000000210000000000004001) }]) with bme := true, mem := Mem.setBytes [] 0x1000 (toLE 8 3)}) (hx (fun h => { h with bme := (true) }) (st []))), (5 : Nat), (3 : Nat), (0 : Nat), (({ desc := (toLE 64 0x20000000000000000000000000000000100000000008000000210000000000004001) } : Started) : Started), by decide +kernel⟩,
    ⟨(hx (fun h => {(h.setStarted 5 [{ desc := (toLE 64 0x20000000000000000011000000000000100000000008000000210000000000004001) }]) with bme := true, mem := Mem.setBytes [] 0x1000 (toLE 8 256), mgmt := {h.mgmt with flash := cellsAt 0x6100000 (([{id := 0x100, data := [1,2]}] : List Setting).flatMap Setting.bytes)}}) (hx (fun h => { h with bme := (true) }) (st []))), (5 : Nat), (0x100 : Nat), (0 : Nat), (({ desc := (toLE 64 0x20000000000000000011000000000000100000000008000000210000000000004001) } : Started) : Started), (({id := 0x100, data := [1,2]} : Machine.Setting)), by decide +kernel⟩,
    ⟨(hx (fun h => {(h.setStarted 5 [{ desc := (toLE 64 0x20000000000000000012000000000000100000000008000000210000000000004001) }]) with bme := true, mem := Mem.setBytes [] 0x1000 (toLE 8 256), mgmt := {h.mgmt with flash := cellsAt 0x6100000 (([{id := 0x100, data := [1,2]}] : List Setting).flatMap Setting.bytes)}}) (hx (fun h => { h with bme := (true) }) (st []))), (5 : Nat), (0x100 : Nat), (0 : Nat), (({ desc := (toLE 64 0x20000000000000000012000000000000100000000008000000210000000000004001) } : Started) : Started), (({id := 0x100, data := [1,2]} : Machine.Setting)), by decide +kernel⟩,
    ⟨(hx (fun h => {(h.setStarted 5 [{ desc := (toLE 64 0x20000000000000000000000000000000100000000008000000220000000000004001) }]) with bme := true, mem := Mem.setBytes [] 0x1000 (toLE 8 3)}) (hx (fun h => { h with bme := (true) }) (st []))), (5 : Nat), _, (({ desc := (toLE 64 0x20000000000000000000000000000000100000000008000000220000000000004001) } : Started) : Started), rfl, by decide +kernel⟩,
    ⟨(hx (fun h => {(h.setStarted 5 [{ desc := (toLE 64 0x20000000000000000000000000000000100000000008000000220000000000004001) }]) with bme := true, mem := Mem.setBytes [] 0x1000 (toLE 8 512)}) (hx (fun h => { h with bme := (true) }) (st []))), (5 : Nat), _, (({ desc := (toLE 64 0x20000000000000000000000000000000100000000008000000220000000000004001) } : Started) : Started), rfl, by decide +kernel⟩,
    ⟨(hx (fun h => {(h.setStarted 5 [{ desc := (toLE 64 0x20000000000000000000000000000000100000000008000000220000000000004001) }]) with bme := true, mem := Mem.setBytes [] 0x1000 (toLE 8 255)}) (hx (fun h => { h with bme := (true) }) (st []))), (5 : Nat), _, (({ desc := (toLE 64 0x20000000000000000000000000000000100000000008000000220000000000004001) } : Started) : Started), rfl, by decide +kernel⟩,
    ⟨(hx (fun h => {(h.setStarted 5 [{ desc := (toLE 64 0x20000000000000000000000000000000100000000008000000220000000000004001) }]) with bme := true, mem := Mem.setBytes [] 0x1000 (toLE 8 256)}) (hx (fun h => { h with bme := (true) }) (st []))), (5 : Nat), _, (({ desc := (toLE 64 0x20000000000000000000000000000000100000000008000000220000000000004001) } : Started) : Started), _, rfl, rfl, by decide +kernel⟩,
    ⟨(hx (fun h => {(h.setStarted 5 [{ desc := (toLE 64 0x20000000000000000000000000000000100000000008000000220000000000004001) }]) with bme := true, mem := Mem.setBytes [] 0x1000 (toLE 8 511)}) (hx (fun h => { h with bme := (true) }) (st []))), (5 : Nat), _, (({ desc := (toLE 64 0x20000000000000000000000000000000100000000008000000220000000000004001) } : Started) : Started), _, rfl, rfl, by decide +kernel⟩,
    ⟨(hx (fun h => {(h.setStarted 5 [{ desc := (toLE 64 0x20000000000000000000000000000000100000000008000000230000000000004001) }]) with bme := true, mem := Mem.setBytes [] 0x1000 (toLE 8 1)}) (hx (fun h => { h with bme := (true) }) (st []))), (5 : Nat), (1 : Nat), (0 : Nat), (({ desc := (toLE 64 0x20000000000000000000000000000000100000000008000000230000000000004001) } : Started) : Started), by decide +kernel⟩,
    ⟨(hx (fun h => {(h.setStarted 5 [{ desc := (toLE 64 0x20000000000000000000000000000000100000000008000000230000000000004001) }]) with bme := true, mem := Mem.setBytes [] 0x1000 (toLE 8 256)}) (hx (fun h => { h with bme := (true) }) (st []))), (5 : Nat), (0x100 : Nat), (0 : Nat), (({ desc := (toLE 64 0x20000000000000000000000000000000100000000008000000230000000000004001) } : Started) : Started), by decide +kernel⟩,
    ⟨(hx (fun h => {(h.setStarted 5 [{ desc := (toLE 64 0x20000000000000000000000000000000100000000008000000230000000000004001) }]) with bme := true, mem := Mem.setBytes [] 0x1000 (toLE 8 256), mgmt := {h.mgmt with flash := cellsAt 0x6100000 (([{id := 0x100, data := [1,2]}] : List Setting).flatMap Setting.bytes)}}) (hx (fun h => { h with bme := (true) }) (st []))), (5 : Nat), (0x100 : Nat), (0 : Nat), (({ desc := (toLE 64 0x20000000000000000000000000000000100000000008000000230000000000004001) } : Started) : Started), by decide +kernel⟩,
    ⟨(hx (fun h => {(h.setStarted 5 [{ desc := (toLE 64 0x2000000000000000079F000000000000000000000000000000310000000000004001) }]) with bme := true}) (st [])), (5 : Nat), (({ desc := (toLE 64 0x2000000000000000079F000000000000000000000000000000310000000000004001) } : Started) : Started), by decide +kernel⟩,
    ⟨(hx (fun h => {(h.setStarted 5 [{ desc := (toLE 64 0x200000000000000007A0000000000000000000000000000000310000000000004001) }]) with bme := true}) (st [(Reg.MGMT_STATUS.IDENT_OK, 0)])), (5 : Nat), (({ desc := (toLE 64 0x200000000000000007A0000000000000000000000000000000310000000000004001) } : Started) : Started), by decide +kernel⟩,
    ⟨(hx (fun h => {(h.setStarted 5 [{ desc := (toLE 64 0x200000000000000007A0000000000000000000000000000000310000000000004001) }]) with bme := true}) (hx (fun h => { h with bme := (true) }) (st [(Reg.MGMT_STATUS.IDENT_OK, 1)]))), (5 : Nat), (({ desc := (toLE 64 0x200000000000000007A0000000000000000000000000000000310000000000004001) } : Started) : Started), by decide +kernel⟩,
    ⟨(hx (fun h => {(h.setStarted 5 [{ desc := (toLE 64 0x20000000000000000FFF000000000000000000000000000000320000000000004001) }]) with bme := true}) (st [])), (5 : Nat), (({ desc := (toLE 64 0x20000000000000000FFF000000000000000000000000000000320000000000004001) } : Started) : Started), by decide +kernel⟩,
    ⟨(hx (fun h => {(h.setStarted 5 [{ desc := (toLE 64 0x20000000000000001000000000000000000000000000000000320000000000004001) }]) with bme := true}) (st [(Reg.MGMT_STATUS.IDENT_OK, 0)])), (5 : Nat), (({ desc := (toLE 64 0x20000000000000001000000000000000000000000000000000320000000000004001) } : Started) : Started), by decide +kernel⟩,
    ⟨(hx (fun h => ({h with mgmt := {h.mgmt with quote := some (0,0,[1])}}).setRing 0 {h.ring 0 with sealBody := some [1]}) (hx (fun h => { h with mgmt := { h.mgmt with quoteSigns := (false) } }) (st []))), (0 : Nat), (0 : Nat), ([1] : List Byte), by decide +kernel⟩,
    ⟨(hx (fun h => { h with down := (true) }) (st [])), _, _, rfl, rfl, by decide +kernel⟩,
    ⟨(hx (fun h => { h with mgmt := { h.mgmt with running := (none) } }) (st [(Reg.CLK_BOOT_STAGE, 1)])), by (repeat' refine And.intro ?_ ?_) <;> first | exact fun r h => absurd (show (none : Option (BitVec 256)) = some r from h) (by simp) | decide +kernel⟩,
    ⟨(hx (fun h => { ({(h.setStarted 5 [{ desc := (toLE 64 0x20000000000000000000000000000000100000000008000000200000000000004001) }]) with bme := true, mem := Mem.setBytes [] 0x1000 [0, 0, 0, 0, 0, 0, 0, 0]}) with noRead := [(0x1000, 16)] }) (st [])), (5 : Nat), (({ desc := (toLE 64 0x20000000000000000000000000000000100000000008000000200000000000004001) } : Started) : Started), by decide +kernel⟩,
    ⟨(hx (fun h => { ({(h.setStarted 5 [{ desc := (toLE 64 0x20000000000000000000000000000000100000000008000000210000000000004001) }]) with bme := true, mem := Mem.setBytes [] 0x1000 [0, 0, 0, 0, 0, 0, 0, 0]}) with noRead := [(0x1000, 16)] }) (st [])), (5 : Nat), (({ desc := (toLE 64 0x20000000000000000000000000000000100000000008000000210000000000004001) } : Started) : Started), by decide +kernel⟩,
    ⟨(hx (fun h => { ({(h.setStarted 5 [{ desc := (toLE 64 0x20000000000000000000000000000000100000000008000000220000000000004001) }]) with bme := true, mem := Mem.setBytes [] 0x1000 [0, 0, 0, 0, 0, 0, 0, 0]}) with noRead := [(0x1000, 16)] }) (st [])), (5 : Nat), (({ desc := (toLE 64 0x20000000000000000000000000000000100000000008000000220000000000004001) } : Started) : Started), by decide +kernel⟩,
    ⟨(hx (fun h => { ({(h.setStarted 5 [{ desc := (toLE 64 0x20000000000000000000000000000000100000000008000000230000000000004001) }]) with bme := true, mem := Mem.setBytes [] 0x1000 [0, 0, 0, 0, 0, 0, 0, 0]}) with noRead := [(0x1000, 16)] }) (st [])), (5 : Nat), (({ desc := (toLE 64 0x20000000000000000000000000000000100000000008000000230000000000004001) } : Started) : Started), by decide +kernel⟩,
    ⟨(hx (fun h => { ({(h.setStarted 5 [{ desc := (toLE 64 0x20000000000000000000000000000000100000000008000000320000000000004001) }]) with bme := true, mem := Mem.setBytes [] 0x1000 [0, 0, 0, 0, 0, 0, 0, 0]}) with noRead := [(0x1000, 16)] }) (st [])), (5 : Nat), (({ desc := (toLE 64 0x20000000000000000000000000000000100000000008000000320000000000004001) } : Started) : Started), by decide +kernel⟩⟩

end
end Sys2Proof.Tests
end

/-! SUPPORT. Register accesses (R4, R5, R298, R349, R522): what the access codes make of each field of a word, and what the commands that
read and write registers leave. -/

namespace Sys2Proof

/-! ### Bits of a field -/

/-- Two words agree in a field exactly when they agree in its bits. -/
theorem RF.ofWord_eq_iff (f : RF) (x y : Word) :
    f.ofWord x = f.ofWord y ↔ ∀ i (_ : i < 32), f.lo ≤ i → i < f.lo + f.w → x[i] = y[i] := by
  constructor
  · intro e i _ hlo hhi
    have hb := congrArg (fun n => n.testBit (i - f.lo)) e
    simp only [RF.testBit_ofWord, show i - f.lo < f.w by omega, show f.lo + (i - f.lo) = i by omega, decide_true, Bool.true_and] at hb
    exact hb
  · intro e
    refine Nat.eq_of_testBit_eq fun i => ?_
    rw [RF.testBit_ofWord, RF.testBit_ofWord, BitVec.testBit_toNat, BitVec.testBit_toNat]
    by_cases hw : i < f.w
    · by_cases h32 : f.lo + i < 32
      · rw [BitVec.getLsbD_eq_getElem h32, BitVec.getLsbD_eq_getElem h32, e _ h32 (by omega) (by omega)]
      · rw [BitVec.getLsbD_of_ge _ _ (by omega), BitVec.getLsbD_of_ge _ _ (by omega)]
    · simp [hw]

theorem RF.getElem_mask (f : RF) (i : Nat) (hi : i < 32) : f.mask[i] = decide (f.lo ≤ i ∧ i < f.lo + f.w) := by
  rw [← BitVec.getLsbD_eq_getElem hi, RF.mask, BitVec.getLsbD_ofNat, Nat.testBit_mul_two_pow, Nat.testBit_two_pow_sub_one]
  by_cases h : f.lo ≤ i
  · simp [h, hi, show i - f.lo < f.w ↔ i < f.lo + f.w by omega]
  · simp [h]

@[simp] theorem RF.ofWord_zero (f : RF) : f.ofWord 0#32 = 0 := by simp [RF.ofWord]

/-! ### Rows of the register tables (R5) -/

/-- The field that a row of the register tables describes, in the word at `a`. -/
def RegRow.field (r : RegRow) (a : Nat) : RF := ⟨a, r.lo, r.w⟩

/-- The bits of a row. -/
def RegRow.mask (r : RegRow) : Word := (r.field 0).mask

/-- What a write of `v` makes of a word `w` for one row. -/
def RegRow.written (v w : Word) (r : RegRow) : Word :=
  match r.acc with
  | .rw => (w &&& ~~~ r.mask) ||| (v &&& r.mask)
  | .w1c => w &&& ~~~ (v &&& r.mask)
  | .w1s => w ||| (v &&& r.mask)
  | .ro | .wo | .rc => w

/-- What a read of a word `x` adds to the value `w` for one row. -/
def RegRow.readInto (x w : Word) (r : RegRow) : Word :=
  if r.acc = .wo then w else w ||| (x &&& r.mask)

/-- What a read leaves of a word `w` for one row. -/
def RegRow.afterRead (w : Word) (r : RegRow) : Word :=
  if r.acc = .rc then w &&& ~~~ r.mask else w

theorem RegFile.accWrite_all (rs : RegFile) (a : Nat) (v : Word) :
    rs.accWrite a v false = rs.setWord a ((regRows a).foldl (RegRow.written v) (rs.word a)) := by
  simp only [RegFile.accWrite]
  congr 2
  funext w r
  unfold RegRow.written
  cases r.acc <;> rfl

theorem RegFile.readVal_eq (rs : RegFile) (a : Nat) : rs.readVal a = (regRows a).foldl (RegRow.readInto (rs.word a)) 0#32 := by
  unfold RegFile.readVal
  congr 1
  funext w r
  unfold RegRow.readInto
  cases r.acc <;> rfl

theorem RegFile.clearRC_eq (rs : RegFile) (a : Nat) :
    rs.clearRC a = rs.setWord a ((regRows a).foldl RegRow.afterRead (rs.word a)) := by
  simp only [RegFile.clearRC]
  congr 2
  funext w r
  unfold RegRow.afterRead
  cases r.acc <;> rfl

/-- The bits of two rows of a word do not meet. -/
def RegRow.apart (r r' : RegRow) : Prop := r'.lo + r'.w ≤ r.lo ∨ r.lo + r.w ≤ r'.lo

/-- Words that differ in bits of the row `r'` only agree in the field of a row apart from it. -/
theorem RegRow.ofWord_of_apart {r r' : RegRow} (h : r.apart r') (a : Nat) (x y : Word)
    (hk : ∀ i (_ : i < 32), r'.mask[i] = false → x[i] = y[i]) : (r.field a).ofWord x = (r.field a).ofWord y := by
  refine (RF.ofWord_eq_iff _ _ _).mpr fun i hi hlo hhi => hk i hi ?_
  unfold RegRow.apart at h
  simp only [RegRow.field] at hlo hhi
  simp only [RegRow.mask, RF.getElem_mask, RegRow.field, decide_eq_false_iff_not]
  omega

/-- Words that agree in the bits of a row agree in its field. -/
theorem RegRow.ofWord_of_mask (r : RegRow) (a : Nat) (x y : Word) (hk : ∀ i (_ : i < 32), r.mask[i] = true → x[i] = y[i]) :
    (r.field a).ofWord x = (r.field a).ofWord y :=
  (RF.ofWord_eq_iff _ _ _).mpr fun i hi hlo hhi => hk i hi (by rw [RegRow.mask, RF.getElem_mask]; exact decide_eq_true ⟨hlo, hhi⟩)

/-- Words that agree in the field of a row agree in its bits. -/
theorem RegRow.getElem_of_ofWord {r : RegRow} {a : Nat} {x y : Word} (e : (r.field a).ofWord x = (r.field a).ofWord y)
    (i : Nat) (hi : i < 32) (hm : r.mask[i] = true) : x[i] = y[i] := by
  rw [RegRow.mask, RF.getElem_mask] at hm
  obtain ⟨hlo, hhi⟩ := of_decide_eq_true hm
  exact (RF.ofWord_eq_iff _ _ _).mp e i hi hlo hhi

theorem RegRow.written_apart {r r' : RegRow} (h : r.apart r') (a : Nat) (v w : Word) :
    (r.field a).ofWord (r'.written v w) = (r.field a).ofWord w := by
  refine RegRow.ofWord_of_apart h a _ _ fun i hi hm => ?_
  unfold RegRow.written
  cases r'.acc <;> simp [hm]

theorem RegRow.readInto_apart {r r' : RegRow} (h : r.apart r') (a : Nat) (x w : Word) :
    (r.field a).ofWord (r'.readInto x w) = (r.field a).ofWord w := by
  refine RegRow.ofWord_of_apart h a _ _ fun i hi hm => ?_
  unfold RegRow.readInto
  split <;> simp [hm]

theorem RegRow.afterRead_apart {r r' : RegRow} (h : r.apart r') (a : Nat) (w : Word) :
    (r.field a).ofWord (r'.afterRead w) = (r.field a).ofWord w := by
  refine RegRow.ofWord_of_apart h a _ _ fun i hi hm => ?_
  unfold RegRow.afterRead
  split <;> simp [hm]

/-- A pass over the rows of a word gives the field `f` the bits of `new` when row `r` does so, from the word it starts with and a second
time, and every other row leaves the field. -/
theorem RF.ofWord_foldl {f : RF} {step : Word → RegRow → Word} {l : List RegRow} {r : RegRow} (hr : r ∈ l) (old new : Word)
    (keep : ∀ r' ∈ l, r' = r ∨ ∀ w, f.ofWord (step w r') = f.ofWord w)
    (hit : ∀ w, f.ofWord w = f.ofWord old ∨ f.ofWord w = f.ofWord new → f.ofWord (step w r) = f.ofWord new) :
    f.ofWord (l.foldl step old) = f.ofWord new := by
  obtain ⟨before, after, rfl⟩ := List.append_of_mem hr
  rw [List.foldl_append, List.foldl_cons]
  have hbefore : f.ofWord (before.foldl step old) = f.ofWord old ∨ f.ofWord (before.foldl step old) = f.ofWord new := by
    refine List.foldlRecOn (motive := fun w => f.ofWord w = f.ofWord old ∨ f.ofWord w = f.ofWord new) before step (.inl rfl)
      fun w hw r' hr' => ?_
    rcases keep r' (by simp [hr']) with rfl | hk
    · exact .inr (hit w hw)
    · rwa [hk]
  refine List.foldlRecOn (motive := fun w => f.ofWord w = f.ofWord new) after step (hit _ hbefore) fun w hw r' hr' => ?_
  rcases keep r' (by simp [hr']) with rfl | hk
  · exact hit w (.inr hw)
  · rwa [hk]

/-! ### Accesses to a field of a word whose fields do not overlap (R5) -/

section
variable {a : Nat} {r : RegRow} (hr : r ∈ regRows a) (hap : ∀ r' ∈ regRows a, r' = r ∨ r.apart r') (rs : RegFile)
include hr hap

theorem RegFile.get_accWrite_of_written (v new : Word)
    (hit : ∀ w, (r.field a).ofWord w = (r.field a).ofWord (rs.word a) ∨ (r.field a).ofWord w = (r.field a).ofWord new →
      (r.field a).ofWord (r.written v w) = (r.field a).ofWord new) :
    (rs.accWrite a v false).get (r.field a) = (r.field a).ofWord new := by
  rw [RegFile.accWrite_all, RegFile.get, RegFile.word_setWord, if_pos (show (r.field a).addr = a from rfl)]
  exact RF.ofWord_foldl hr _ _ (fun r' h' => (hap r' h').imp_right fun h w => RegRow.written_apart h a v w) hit

theorem RegFile.get_accWrite_rw (v : Word) (hacc : r.acc = .rw) : (rs.accWrite a v false).get (r.field a) = (r.field a).ofWord v := by
  refine RegFile.get_accWrite_of_written hr hap rs v v fun w _ => r.ofWord_of_mask a _ _ fun i hi hm => ?_
  simp [RegRow.written, hacc, hm]

theorem RegFile.get_accWrite_w1c (v : Word) (hacc : r.acc = .w1c) :
    (rs.accWrite a v false).get (r.field a) = (r.field a).ofWord (rs.word a &&& ~~~ v) := by
  refine RegFile.get_accWrite_of_written hr hap rs v _ fun w hw => r.ofWord_of_mask a _ _ fun i hi hm => ?_
  rcases hw with e | e <;> simp [RegRow.written, hacc, hm, RegRow.getElem_of_ofWord e i hi hm]

theorem RegFile.get_accWrite_w1s (v : Word) (hacc : r.acc = .w1s) :
    (rs.accWrite a v false).get (r.field a) = (r.field a).ofWord (rs.word a ||| v) := by
  refine RegFile.get_accWrite_of_written hr hap rs v _ fun w hw => r.ofWord_of_mask a _ _ fun i hi hm => ?_
  rcases hw with e | e <;> simp [RegRow.written, hacc, hm, RegRow.getElem_of_ofWord e i hi hm]

theorem RegFile.get_accWrite_kept (v : Word) (hacc : r.acc = .ro ∨ r.acc = .wo ∨ r.acc = .rc) :
    (rs.accWrite a v false).get (r.field a) = rs.get (r.field a) := by
  refine RegFile.get_accWrite_of_written hr hap rs v (rs.word a) fun w hw => ?_
  rcases hacc with h | h | h <;> simpa [RegRow.written, h] using hw

theorem RegFile.ofWord_readVal_of_readInto (new : Word)
    (hit : ∀ w, (r.field a).ofWord w = (r.field a).ofWord 0#32 ∨ (r.field a).ofWord w = (r.field a).ofWord new →
      (r.field a).ofWord (r.readInto (rs.word a) w) = (r.field a).ofWord new) :
    (r.field a).ofWord (rs.readVal a) = (r.field a).ofWord new := by
  rw [RegFile.readVal_eq]
  exact RF.ofWord_foldl hr _ _ (fun r' h' => (hap r' h').imp_right fun h w => RegRow.readInto_apart h a _ w) hit

theorem RegFile.ofWord_readVal : (r.field a).ofWord (rs.readVal a) = if r.acc = .wo then 0 else rs.get (r.field a) := by
  by_cases hacc : r.acc = .wo
  · rw [if_pos hacc, ← RF.ofWord_zero (r.field a)]
    refine RegFile.ofWord_readVal_of_readInto hr hap rs 0#32 fun w hw => ?_
    simpa [RegRow.readInto, hacc] using hw
  · rw [if_neg hacc]
    refine RegFile.ofWord_readVal_of_readInto hr hap rs (rs.word a) fun w hw => r.ofWord_of_mask a _ _ fun i hi hm => ?_
    rcases hw with e | e <;> simp [RegRow.readInto, hacc, hm, RegRow.getElem_of_ofWord e i hi hm]

theorem RegFile.get_clearRC_of_afterRead (new : Word)
    (hit : ∀ w, (r.field a).ofWord w = (r.field a).ofWord (rs.word a) ∨ (r.field a).ofWord w = (r.field a).ofWord new →
      (r.field a).ofWord (r.afterRead w) = (r.field a).ofWord new) :
    (rs.clearRC a).get (r.field a) = (r.field a).ofWord new := by
  rw [RegFile.clearRC_eq, RegFile.get, RegFile.word_setWord, if_pos (show (r.field a).addr = a from rfl)]
  exact RF.ofWord_foldl hr _ _ (fun r' h' => (hap r' h').imp_right fun h w => RegRow.afterRead_apart h a w) hit

theorem RegFile.get_clearRC : (rs.clearRC a).get (r.field a) = if r.acc = .rc then 0 else rs.get (r.field a) := by
  by_cases hacc : r.acc = .rc
  · rw [if_pos hacc, ← RF.ofWord_zero (r.field a)]
    refine RegFile.get_clearRC_of_afterRead hr hap rs 0#32 fun w _ => r.ofWord_of_mask a _ _ fun i hi hm => ?_
    simp [RegRow.afterRead, hacc, hm]
  · rw [if_neg hacc]
    refine RegFile.get_clearRC_of_afterRead hr hap rs (rs.word a) fun w hw => ?_
    simpa [RegRow.afterRead, hacc] using hw

end

theorem RegFile.word_clearRC_ne (rs : RegFile) (a b : Nat) (h : b ≠ a) : (rs.clearRC a).word b = rs.word b := by
  rw [RegFile.clearRC_eq, RegFile.word_setWord, if_neg h]

theorem RegFile.word_clearRC_of_no_rc (rs : RegFile) (a b : Nat) (h : ∀ r ∈ regRows a, r.acc ≠ .rc) :
    (rs.clearRC a).word b = rs.word b := by
  by_cases hb : b = a
  · subst hb
    rw [RegFile.clearRC_eq, RegFile.word_setWord, if_pos rfl]
    exact List.foldlRecOn (motive := fun w => w = rs.word b) (regRows b) RegRow.afterRead rfl
      fun w hw r hr => by rw [RegRow.afterRead, if_neg (h r hr), hw]
  · exact RegFile.word_clearRC_ne rs a b hb

/-! ### The words that the accesses below name -/

/-- The bits of a row of 32 bits are all bits of the word. -/
theorem word_and_full (w : Word) : w &&& 4294967295#32 = w := BitVec.and_allOnes

theorem regRows_fenceCount : regRows 0x81C = [⟨0x81C, [], 0, 32, .rc, 0x0, false⟩] := by decide +kernel

theorem RegFile.readVal_fenceCount (rs : RegFile) : rs.readVal 0x81C = rs.word 0x81C := by
  unfold RegFile.readVal
  rw [regRows_fenceCount]
  simp [word_and_full]

theorem RegFile.get_clearRC_fenceCount (rs : RegFile) : (rs.clearRC 0x81C).get Reg.DET_FENCE_COUNT = 0 :=
  RegFile.get_clearRC (r := ⟨0x81C, [], 0, 32, .rc, 0x0, false⟩) (by rw [regRows_fenceCount]; exact List.mem_singleton.mpr rfl)
    (by rw [regRows_fenceCount]; exact fun _ h => .inl (List.mem_singleton.mp h)) rs

theorem tickRows_no_rc : (∀ r ∈ regRows 0xC0000, r.acc ≠ .rc) ∧ ∀ r ∈ regRows 0xC0004, r.acc ≠ .rc := by decide +kernel

end Sys2Proof

namespace Sys2Proof.Machine
open Sys2Proof

/-! ### What commands on the host side leave -/

/-- Settling touches registers and vectors only: with those put back it leaves nothing. -/
theorem HostSide.settle_back (h : HostSide) (rs : RegFile) (vs : SMap Vec) :
    { h.settle with regs := rs, vecs := vs } = { h with regs := rs, vecs := vs } := by
  rw [HostSide.settle_eq]

/-- A host command that left `g` behind, before the summaries settled. -/
theorem State.changes_of (s : State) (g : HostSide) (back : HostSide → HostSide) (ws : List Nat)
    (hg : back { g with regs := s.host.regs, vecs := s.host.vecs } = s.host) (hw : g.wordsBut s.host ws) :
    s.changes { s with host := g.settle } back ws := by
  refine ⟨⟨rfl, rfl, rfl, rfl⟩, ?_, fun a h1 h2 => ?_⟩
  · rw [HostSide.settle_back]; exact hg
  · exact (HostSide.settle_word g a h2).trans (hw a h1 h2)

/-! ### Writes of a word (R5) -/

/-- A word that one RW field fills keeps what is written to it. -/
theorem HostSide.word_accW_full (h : HostSide) (a : Nat) (v : Word)
    (hrow : ∃ base dims rv, regRows a = [⟨base, dims, 0, 32, .rw, rv, false⟩]) : (h.accW a v).word a = v := by
  obtain ⟨base, dims, rv, e⟩ := hrow
  unfold HostSide.accW HostSide.word RegFile.accWrite
  rw [RegFile.word_setWord, if_pos rfl, e]
  simp [word_and_full]

theorem HostSide.accW_wordsBut (h : HostSide) (a : Nat) (v : Word) : (h.accW a v).wordsBut h [a] := fun b hb _ => by
  unfold HostSide.accW HostSide.word RegFile.accWrite
  rw [RegFile.word_setWord, if_neg (by simpa using hb)]

/-- DEV_SCRATCH takes a write as its access code says. -/
theorem HostSide.regWrite_scratch (h : HostSide) (e : Env) (v : Word) : h.regWrite e 0x40 v = h.accW 0x40 v := rfl

theorem execRegisterWrite_open (s : State) (a : Nat) (v : Word) (ho : s.open_) (ha : a % 4 = 0) :
    exec (.registerWrite a v) s = .next { s with host := (s.host.regWrite s.env a v).settle } := by
  show execRegisterWrite a v s = _
  unfold execRegisterWrite
  rw [State.onBar_open s _ ho]
  simp [ha]

/-! ### Reads of a word (R5, R349, R522) -/

/-- A read of a word that answers and stands on the host side itself. -/
theorem HostSide.busRead_ready (h : HostSide) (e : Env) (a : Nat) (hr : h.ready = true) (ha : a % 4 = 0) (hx : a < 0xE0100) :
    h.busRead e a = { h with readData := if latched a then SMap.get resetWord h.latch a else h.showWord e a,
                             regs := h.regs.clearRC a,
                             latch := (latchOf a).foldl (fun m x => m.put x (h.showWord e x)) h.latch } := by
  unfold HostSide.busRead
  rw [if_neg (by simp [hr, ha]), if_neg (by simp; omega)]

/-- Before READY a register beyond the identity registers reads 0. -/
theorem HostSide.busRead_closed (h : HostSide) (e : Env) (a : Nat) (hr : h.ready = false) (ha : 0x20 ≤ a) :
    h.busRead e a = { h with readData := 0#32 } := by
  unfold HostSide.busRead
  rw [if_pos (by simp [hr, ha])]
  rfl

theorem execRegisterReadClear_up (s : State) (a : Nat) (hu : s.up) :
    exec (.registerReadClear a) s = .next { s with host := (s.host.busRead s.env a).settle } := by
  show execRegisterReadClear a s = _
  unfold execRegisterReadClear
  exact State.onHost_up s _ hu

theorem execLoReadLatch_up (s : State) (a : Nat) (hu : s.up) (ha : latchOf a ≠ []) :
    exec (.loReadLatch a) s = .next { s with host := (s.host.busRead s.env a).settle } := by
  show execLoReadLatch a s = _
  unfold execLoReadLatch
  rw [State.onHost_up s _ hu, if_neg ha]

/-- A read of DET_FENCE_COUNT, which no latch holds and which no unit computes. -/
theorem HostSide.busRead_fenceCount (h : HostSide) (e : Env) (hr : h.ready = true) :
    h.busRead e 0x81C = { h with readData := h.word 0x81C, regs := h.regs.clearRC 0x81C } := by
  rw [HostSide.busRead_ready h e 0x81C hr rfl (by decide)]
  have hshow : h.showWord e 0x81C = h.regs.readVal 0x81C := rfl
  rw [if_neg (by decide), hshow, RegFile.readVal_fenceCount]
  rfl

/-- A read of TICK_LO shows the tick and latches its high half. -/
theorem HostSide.busRead_tickLo (h : HostSide) (e : Env) (hr : h.ready = true) :
    h.busRead e 0xC0000 = { h with readData := BitVec.ofNat 32 e.tick, regs := h.regs.clearRC 0xC0000,
                                   latch := h.latch.put 0xC0004 (BitVec.ofNat 32 (e.tick / 2 ^ 32)) } := by
  rw [HostSide.busRead_ready h e 0xC0000 hr rfl (by decide), if_neg (by decide)]
  rfl

/-- A read of TICK_HI shows its latch. -/
theorem HostSide.busRead_tickHi (h : HostSide) (e : Env) (hr : h.ready = true) :
    h.busRead e 0xC0004 = { h with readData := h.latch.get resetWord 0xC0004, regs := h.regs.clearRC 0xC0004 } := by
  rw [HostSide.busRead_ready h e 0xC0004 hr rfl (by decide), if_pos (by decide)]
  rfl

/-! ### The statement -/

/-- Settles O7: the access codes bit by bit over the rows of a word, then each access through what its command makes of the host side. -/
theorem registerAccesses : Obligations.RegisterAccesses := by
  unfold Obligations.RegisterAccesses
  refine ⟨?fields, ?scratch, ?fenceCount, ?tickLo, ?tickHi, ?closed⟩
  case fields =>
    rintro rs a v r f hr rfl - hap
    exact ⟨RegFile.get_accWrite_rw hr hap rs v, RegFile.get_accWrite_w1c hr hap rs v, RegFile.get_accWrite_w1s hr hap rs v,
      RegFile.get_accWrite_kept hr hap rs v, RegFile.ofWord_readVal hr hap rs, RegFile.get_clearRC hr hap rs⟩
  case scratch =>
    intro s v ho
    refine ⟨_, execRegisterWrite_open s 0x40 v ho rfl, ?_, ?_⟩
    · rw [HostSide.regWrite_scratch, HostSide.settle_word _ _ (by decide)]
      exact HostSide.word_accW_full _ _ _ ⟨0x40, [], 0x0, by decide +kernel⟩
    · rw [HostSide.regWrite_scratch]
      exact State.regsOnly_of s _ _ rfl (HostSide.accW_wordsBut _ _ _)
  case fenceCount =>
    intro s ho
    refine ⟨_, execRegisterReadClear_up s 0x81C ho.1, ?_, ?_, ?_⟩ <;> rw [HostSide.busRead_fenceCount _ _ ho.2]
    · exact HostSide.settle_readData _
    · rw [HostSide.settle_get _ _ (by decide)]
      exact RegFile.get_clearRC_fenceCount s.host.regs
    · exact State.changes_of s _ _ _ rfl fun a ha _ => RegFile.word_clearRC_ne _ _ _ (by simpa using ha)
  case tickLo =>
    intro s ho
    refine ⟨_, execLoReadLatch_up s 0xC0000 ho.1 (by decide), ?_, ?_, ?_, ?_⟩ <;> rw [HostSide.busRead_tickLo _ _ ho.2]
    · rw [HostSide.settle_readData]
      exact BitVec.toNat_ofNat _ _
    · rw [HostSide.settle_latch, SMap.get_put, if_pos rfl, BitVec.toNat_ofNat]
      exact Nat.mod_eq_of_lt (Nat.div_lt_of_lt_mul s.tick.isLt)
    · intro a ha
      rw [HostSide.settle_latch, SMap.get_put, if_neg ha]
    · exact State.changes_of s _ _ _ rfl fun a _ _ => RegFile.word_clearRC_of_no_rc _ _ _ tickRows_no_rc.1
  case tickHi =>
    intro s ho
    refine ⟨_, execRegisterReadClear_up s 0xC0004 ho.1, ?_, ?_⟩ <;> rw [HostSide.busRead_tickHi _ _ ho.2]
    · exact HostSide.settle_readData _
    · exact State.changes_of s _ _ _ rfl fun a _ _ => RegFile.word_clearRC_of_no_rc _ _ _ tickRows_no_rc.2
  case closed =>
    intro s a hu hr ha
    refine ⟨_, execRegisterReadClear_up s a hu, ?_, ?_⟩ <;> rw [HostSide.busRead_closed _ _ _ hr ha]
    · exact HostSide.settle_readData _
    · exact State.changes_of s _ _ _ rfl fun a _ _ => rfl

end Sys2Proof.Machine

/-! SUPPORT. What a step does: the command in front, or one TIME cycle in which Gauge counts (R10, R13, R402, R407, R409). -/

namespace Sys2Proof

/-- A counter that counts has its words inside the window (R407). -/
theorem RegFile.add_lt_of_mem_counting {rs : RegFile} {lo hi ev : Nat} {unit : Option Nat} {j : Nat} (h : j ∈ rs.counting lo hi ev unit) :
    lo + j * 16 < hi := by
  unfold RegFile.counting at h
  obtain ⟨⟨a, w⟩, -, he⟩ := List.mem_filterMap.mp h
  simp only [Option.ite_none_right_eq_some, Option.some.injEq, Bool.and_eq_true, decide_eq_true_eq] at he
  omega

end Sys2Proof

namespace Sys2Proof.Machine
open Sys2Proof

/-! ### Counters of Gauge -/

/-- The words of Gauge: its own and those of the cores' and clusters' counters. -/
def inGauge (a : Nat) : Prop := 0x600000 ≤ a ∧ a < 0x610000

theorem HostSide.get2_set2 (h : HostSide) (lo hi : RF) (v : Nat) (hlo : lo.fits) (hhi : hi.fits) (hne : lo.addr ≠ hi.addr)
    (hv : v < 2 ^ (lo.w + hi.w)) : (h.set2 lo hi v).get2 lo hi = v := by
  unfold HostSide.get2 HostSide.set2
  rw [HostSide.get_set_apart _ _ _ _ hhi (.inl hne.symm), HostSide.get_set_self _ _ _ hlo, HostSide.get_set_self _ _ _ hhi,
    Nat.mod_eq_of_lt (Nat.div_lt_of_lt_mul (by rwa [← Nat.pow_add])), Nat.mul_comm]
  exact Nat.mod_add_div v _

/-- A counter that does not wrap gains what is counted (R400). -/
theorem HostSide.get2_addCounter (h : HostSide) (lo hi ovf : RF) (n : Nat) (hlo : lo.fits) (hhi : hi.fits) (hne : lo.addr ≠ hi.addr)
    (hw : lo.w + hi.w = 48) (hv : h.get2 lo hi + n < 2 ^ 48) : (h.addCounter lo hi ovf n).get2 lo hi = h.get2 lo hi + n := by
  unfold HostSide.addCounter
  simp only [if_pos hv, Nat.mod_eq_of_lt hv]
  exact HostSide.get2_set2 h lo hi _ hlo hhi hne (hw ▸ hv)

/-! ### What a TIME cycle without a command may change -/

/-- A core's units with what they have still to do, and how long its WAIT has waited, put back. -/
def CoreSt.withUnits (x y : CoreSt) : CoreSt := { x with busyM := y.busyM, busyD := y.busyD, busyV := y.busyV, waited := y.waited }

/-- `g` is `h` after cycles in which no command came: only words of Gauge, and what the units of cores have still to do, differ. -/
structure HostSide.CyclesPassed (h g : HostSide) : Prop where
  rest : { g with regs := h.regs, cores := h.cores } = h
  core : ∀ site, (g.core site).withUnits (h.core site) = h.core site
  words : ∀ a, ¬ inGauge a → g.word a = h.word a

namespace HostSide.CyclesPassed

theorem refl (h : HostSide) : h.CyclesPassed h := ⟨rfl, fun _ => rfl, fun _ _ => rfl⟩

theorem trans {h g k : HostSide} (h₁ : h.CyclesPassed g) (h₂ : g.CyclesPassed k) : h.CyclesPassed k where
  rest := (congrArg (fun x : HostSide => { x with regs := h.regs, cores := h.cores }) h₂.rest).trans h₁.rest
  core site := (congrArg (fun x : CoreSt => x.withUnits (h.core site)) (h₂.core site)).trans (h₁.core site)
  words a ha := (h₂.words a ha).trans (h₁.words a ha)

theorem set (h : HostSide) (f : RF) (v : Nat) (hf : inGauge f.addr) : h.CyclesPassed (h.set f v) where
  rest := rfl
  core _ := rfl
  words a ha := HostSide.word_set_ne h f v a fun e => ha (e ▸ hf)

theorem setCore (h : HostSide) (site : Nat) (x : CoreSt) (hx : x.withUnits (h.core site) = h.core site) :
    h.CyclesPassed (h.setCore site x) where
  rest := rfl
  core i := by
    by_cases hi : i = site
    · subst hi
      rwa [show (h.setCore i x).core i = x by simp [HostSide.core, HostSide.setCore_cores, SMap.get_put]]
    · rw [show (h.setCore site x).core i = h.core i by simp [HostSide.core, HostSide.setCore_cores, SMap.get_put, hi]]
      rfl
  words _ _ := rfl

theorem addCounter (h : HostSide) (lo hi ovf : RF) (n : Nat) (hlo : inGauge lo.addr) (hhi : inGauge hi.addr) (hovf : inGauge ovf.addr) :
    h.CyclesPassed (h.addCounter lo hi ovf n) := by
  have hset2 (v : Nat) : h.CyclesPassed (h.set2 lo hi v) := (set h lo v hlo).trans (set _ hi _ hhi)
  unfold HostSide.addCounter
  dsimp only
  split
  · exact hset2 _
  · exact ((hset2 _).trans (set _ ovf 1 hovf)).trans (set _ Reg.GAUGE_INT_STATUS _ ⟨by decide, by decide⟩)

/-- What every counter of a list keeps, counting on all of them keeps. -/
theorem foldl (h : HostSide) (l : List Nat) (f : HostSide → Nat → HostSide) (hf : ∀ g : HostSide, ∀ i ∈ l, g.CyclesPassed (f g i)) :
    h.CyclesPassed (l.foldl f h) :=
  List.foldlRecOn l f (refl h) fun g hg i hi => hg.trans (hf g i hi)

theorem countG (h : HostSide) (ev unit n : Nat) : h.CyclesPassed (h.countG ev unit n) := by
  refine foldl h _ _ fun g i hi => ?_
  have hlt := RegFile.add_lt_of_mem_counting hi
  refine addCounter g _ _ _ n ?_ ?_ ?_ <;> simp only [inGauge, Reg.GCNT_VALUE_LO, Reg.GCNT_VALUE_HI, Reg.GCNT_CFG.OVF] <;> omega

theorem countC (h : HostSide) (c ev n : Nat) (hc : c < 64) : h.CyclesPassed (h.countC c ev n) := by
  refine foldl h _ _ fun g j hj => ?_
  have hlt := RegFile.add_lt_of_mem_counting hj
  refine addCounter g _ _ _ n ?_ ?_ ?_ <;> simp only [inGauge, Reg.CNT_VALUE_LO, Reg.CNT_VALUE_HI, Reg.CNT_CFG.OVF] <;> omega

theorem spend (h : HostSide) (c site m d v : Nat) (hc : c < 64) : h.CyclesPassed (h.spend c site m d v) := by
  unfold HostSide.spend
  split
  · exact refl h
  · have hbusy := setCore h site { h.core site with
      busyM := (h.core site).busyM - m, busyD := (h.core site).busyD - d, busyV := (h.core site).busyV - v } rfl
    exact ((hbusy.trans (countC _ c 0x03 m hc)).trans (countC _ c 0x05 d hc)).trans (countC _ c 0x04 v hc)

theorem idleCore (h : HostSide) (c : Nat) (hc : c < 64) : h.CyclesPassed (h.idleCore c) := by
  unfold HostSide.idleCore
  split
  · exact refl h
  · next site _ =>
    split
    · exact refl h
    · have hwait : h.CyclesPassed (if (h.coreState site == 3) = true
          then h.setCore site { h.core site with waited := (h.core site).waited + 3 } else h) := by
        split
        · exact setCore h site { h.core site with waited := (h.core site).waited + 3 } rfl
        · exact refl h
      exact (((hwait.trans (spend _ c site _ _ _ hc)).trans (countC _ c 0x01 3 hc)).trans (countC _ c 0x07 _ hc)).trans
        (countC _ c 0x08 _ hc)

theorem idle (h : HostSide) : h.CyclesPassed h.idle := by
  unfold HostSide.idle
  dsimp only
  split
  · exact countG h _ _ _
  · exact (countG h _ _ _).trans (foldl _ _ _ fun g c hc => idleCore g c (List.mem_range.mp hc))

end HostSide.CyclesPassed

/-- In a global stop the one counter of FABRIC cycles gains the two of the TIME cycle (R407, R409). -/
theorem HostSide.idle_stopped (h : HostSide) (i : Nat) (hs : h.stopped = true) (hc : h.regs.counting 0x601000 0x602000 0x60 none = [i]) :
    h.idle = h.addCounter (Reg.GCNT_VALUE_LO i) (Reg.GCNT_VALUE_HI i) (Reg.GCNT_CFG.OVF i) 2 := by
  have hcount : h.countG 0x60 0 2 = h.addCounter (Reg.GCNT_VALUE_LO i) (Reg.GCNT_VALUE_HI i) (Reg.GCNT_CFG.OVF i) 2 := by
    unfold HostSide.countG
    rw [if_neg (by decide), hc, List.foldl_cons, List.foldl_nil]
  have hstop : (h.countG 0x60 0 2).stopped = true := by
    unfold HostSide.stopped at hs ⊢
    rwa [HostSide.get_of_word _ h _ ((HostSide.CyclesPassed.countG h 0x60 0 2).words _ (by simp [inGauge, Reg.GSTOP_STATUS.STATE]))]
  unfold HostSide.idle
  dsimp only
  rw [if_pos hstop, hcount]

/-! ### A step on an empty queue -/

theorem step_of_empty (s : State) (h : s.pending = []) : step s = .next s.idle := by
  unfold step
  rw [h]

theorem State.idle_down (s : State) (h : s.host.down = true) : s.idle = { s with tick := s.tick + 1 } := by
  unfold State.idle
  rw [if_pos h]

theorem State.idle_up (s : State) (h : s.up) : s.idle = { s with tick := s.tick + 1, host := s.host.idle.settle } := by
  unfold State.idle
  rw [if_neg (by simp [h])]

/-- A host side on which only cycles passed, its summaries settled. -/
theorem HostSide.CyclesPassed.settled {h g : HostSide} (hp : h.CyclesPassed g) :
    { g.settle with regs := h.regs, vecs := h.vecs, cores := h.cores } = h
      ∧ (∀ site, (g.settle.core site).withUnits (h.core site) = h.core site)
      ∧ ∀ a, (a < 0x600000 ∨ 0x610000 ≤ a) → a ≠ Reg.HIF_IRQ_PENDING.addr → g.settle.word a = h.word a := by
  refine ⟨?_, fun site => ?_, fun a ha hne => ?_⟩
  · rw [HostSide.settle_eq]
    exact congrArg (fun x : HostSide => { x with vecs := h.vecs }) hp.rest
  · unfold HostSide.core
    rw [HostSide.settle_cores]
    exact hp.core site
  · exact (HostSide.settle_word g a hne).trans (hp.words a (by unfold inGauge; omega))

/-- Settles O1: a front command by the definition of a step, an empty queue by what a cycle without a command may change. -/
theorem stepTakesTheFront : Obligations.StepTakesTheFront := by
  unfold Obligations.StepTakesTheFront
  refine ⟨fun _ _ _ => rfl, fun s hp hd => ?down, fun s hp => ⟨_, step_of_empty s hp, ?frame⟩, fun s i hp hu hs hi hc hv => ?stop⟩
  case down => rw [step_of_empty s hp, State.idle_down s hd]
  case frame =>
    by_cases hd : s.host.down = true
    · rw [State.idle_down s hd]
      exact ⟨rfl, hp, rfl, rfl, rfl, fun _ => rfl, fun _ _ _ => rfl⟩
    · rw [State.idle_up s (Bool.eq_false_iff.mpr hd)]
      exact ⟨rfl, hp, rfl, rfl, (HostSide.CyclesPassed.idle s.host).settled⟩
  case stop =>
    refine ⟨_, step_of_empty s hp, ?_⟩
    have hget (f : RF) (hf : f.addr ≠ Reg.HIF_IRQ_PENDING.addr) : s.idle.host.get f = s.host.idle.get f := by
      rw [State.idle_up s hu]
      exact HostSide.settle_get _ f hf
    have hget2 : s.idle.host.get2 (Reg.GCNT_VALUE_LO i) (Reg.GCNT_VALUE_HI i)
        = s.host.idle.get2 (Reg.GCNT_VALUE_LO i) (Reg.GCNT_VALUE_HI i) := by
      unfold HostSide.get2
      rw [hget _ (by simp only [Reg.GCNT_VALUE_LO, Reg.HIF_IRQ_PENDING]; omega),
        hget _ (by simp only [Reg.GCNT_VALUE_HI, Reg.HIF_IRQ_PENDING]; omega)]
    rw [hget2, HostSide.idle_stopped s.host i hs hc]
    exact HostSide.get2_addCounter _ _ _ _ 2 (by simp [RF.fits, Reg.GCNT_VALUE_LO]) (by simp [RF.fits, Reg.GCNT_VALUE_HI])
      (by simp only [Reg.GCNT_VALUE_LO, Reg.GCNT_VALUE_HI]; omega) rfl hv

end Sys2Proof.Machine

/-! SUPPORT. Which side of the machine a command acts on (R13, R232, R349, R423, R424): every command through the frame of its plane, and
the writes of BAR0 words as the commands that stand in them. -/

namespace Sys2Proof
open Sys2Proof.Machine

/-- A command that acts on the host side alone. -/
abbrev Instr.onHostSide (c : Instr) : Prop := c.plane = .data ∨ c.plane = .bar ∨ c.plane = .host

/-- Commands that stand in a word of BAR0. -/
def Instr.inWord (c : Instr) : Prop := c.plane = .bar ∨ c.plane = .host ∨ ∃ v, c = .clkRstCmd v

end Sys2Proof

namespace Sys2Proof.Machine
open Sys2Proof

/-! ### The frame of each plane -/

/-- A command of the data plane. -/
theorem exec_onData (c : Instr) (h : c.plane = .data) : ∃ f : Env → HostSide → HostSide, ∀ s, exec c s = s.onData f := by
  cases c with
  | commitPointApply => exact kind_commitPointApply | pipeTurnStart => exact kind_pipeTurnStart _
  | pixLineProcessed => exact kind_pixLineProcessed _ _ _ | pipeFreeNotice => exact kind_pipeFreeNotice _ _ | nop => exact kind_nop _
  | load => exact kind_load _ | store => exact kind_store _ _ | mma => exact kind_mma _ _ | drain => exact kind_drain _ _
  | vop => exact kind_vop _ _ | vlut => exact kind_vlut _ _ | vsort => exact kind_vsort _ _ | window => exact kind_window _ _
  | wait => exact kind_wait _ | waitSatisfied => exact kind_waitSatisfied _ | tset => exact kind_tset _ | call => exact kind_call _ _
  | endList => exact kind_endList _ | yieldPoint => exact kind_yieldPoint _ _ | verdict => exact kind_verdict _ _
  | listTileFetch => exact kind_listTileFetch _ _ | commandComplete => exact kind_commandComplete _ _ _
  | transferComplete => exact kind_transferComplete _ _ _ _ _ _ _ | stripePost => exact kind_stripePost _ _
  | stripeRelease => exact kind_stripeRelease _ _ _ | rdyTokSignal => exact kind_rdyTokSignal _ _
  | freeTokSignal => exact kind_freeTokSignal _ _ | openSlotArbitrate => exact kind_openSlotArbitrate _ _ _
  | remoteAccessRx => exact kind_remoteAccessRx _ _ _ _ _ _ _ _ | recipeHalt => exact kind_recipeHalt
  | spareRestart => exact kind_spareRestart _ | undecidedRelease => exact kind_undecidedRelease _
  | verdictRelease => exact kind_verdictRelease _ | recipeLoad => exact kind_recipeLoad _ | recipeCommit => exact kind_recipeCommit _
  | recipeDisarm => exact kind_recipeDisarm _ | recipeDrop => exact kind_recipeDrop _ | jobRun => exact kind_jobRun _ _
  | jobCancel => exact kind_jobCancel _ | textSample => exact kind_textSample _ | copy => exact kind_copy _ _ _ _ _
  | fill => exact kind_fill _ _ | ethTx => exact kind_ethTx _ | ethRxPost => exact kind_ethRxPost _
  | sliceBoundary => exact kind_sliceBoundary _ | preemptionComplete => exact kind_preemptionComplete _
  | preLimitExpired => exact kind_preLimitExpired _ | contextSaveDone => exact kind_contextSaveDone _ _ _ _
  | contextRestoreDone => exact kind_contextRestoreDone _ _ _ _ | oxbowGranuleLand => exact kind_oxbowGranuleLand _ _ _ _ _
  | oxbowDrainDone => exact kind_oxbowDrainDone _ _ | jobEnd => exact kind_jobEnd _ | servingStepEnd => exact kind_servingStepEnd _
  | servingPoll => exact kind_servingPoll _ | hdwAdmit => exact kind_hdwAdmit | hdwLaneStart => exact kind_hdwLaneStart
  | hdwDecodeDone => exact kind_hdwDecodeDone _ _ | hdwEmerge => exact kind_hdwEmerge | hdwStopped => exact kind_hdwStopped
  | hdwBatchTimeout => exact kind_hdwBatchTimeout | hdwBatchWrite => exact kind_hdwBatchWrite | hdwBatchFree => exact kind_hdwBatchFree _
  | traceWrite => exact kind_traceWrite _ | clusterSleepEntry => exact kind_clusterSleepEntry _ _
  | clusterWake => exact kind_clusterWake _ | wedgeDetect => exact kind_wedgeDetect _
  | barrierFrameLaunch toHost | barrierFrameRx toHost | barrierSyncLoss toHost => cases toHost <;> cases h
  | _ => cases h

/-- A BAR write. -/
theorem exec_onBar (c : Instr) (h : c.plane = .bar) : ∃ f : Env → HostSide → HostSide, ∀ s, exec c s = s.onBar f := by
  cases c with
  | registerWrite => exact kind_registerWrite _ _ | laneInjTx => exact kind_laneInjTx _ | laneInjRx => exact kind_laneInjRx _
  | laneCntClr => exact kind_laneCntClr _ | cxpLinkEnable => exact kind_cxpLinkEnable _ _
  | cxpLinkDisable => exact kind_cxpLinkDisable _ _ | cxpRestart => exact kind_cxpRestart _ | cxpCcGo => exact kind_cxpCcGo _ _
  | cxpEvtPop => exact kind_cxpEvtPop _ | iflEnable => exact kind_iflEnable _ _ | iflDisable => exact kind_iflDisable _ _
  | iflRetrain => exact kind_iflRetrain _ | ctxCommit => exact kind_ctxCommit _ | ctxAbort => exact kind_ctxAbort _
  | pipeCommit => exact kind_pipeCommit _ | ctxEnable => exact kind_ctxEnable _ _ | ctxDisable => exact kind_ctxDisable _ _
  | setGo => exact kind_setGo _ _ | coreClearErr => exact kind_coreClearErr _ | lscEnable => exact kind_lscEnable _ _ _
  | lscDisable => exact kind_lscDisable _ _ _ | sluCommit => exact kind_sluCommit _ _ | memSluCommit => exact kind_memSluCommit _ _
  | sluAbort => exact kind_sluAbort _ | detFenceGo => exact kind_detFenceGo _ | barRelease => exact kind_barRelease
  | tbRateWrite => exact kind_tbRateWrite _ _ | tbSet => exact kind_tbSet _ | tbStep => exact kind_tbStep _
  | timeSnap => exact kind_timeSnap | timeCopy => exact kind_timeCopy _ | ethTxtsPop => exact kind_ethTxtsPop _
  | sqDoorbell => exact kind_sqDoorbell _ _ | cqHeadDoorbell => exact kind_cqHeadDoorbell _ _
  | rrHeadDoorbell => exact kind_rrHeadDoorbell _ _ | sqEnable => exact kind_sqEnable _ _ | sqRestart => exact kind_sqRestart _
  | sqReset => exact kind_sqReset _ _ | cqEnable => exact kind_cqEnable _ _ | rrEnable => exact kind_rrEnable _ _
  | msixUnmask => exact kind_msixUnmask _ | srvEnable => exact kind_srvEnable _ _ | hdwDictCommit => exact kind_hdwDictCommit _
  | gaugeSnap => exact kind_gaugeSnap | gaugeClearAll => exact kind_gaugeClearAll
  | counterConfigWrite => exact kind_counterConfigWrite _ _ | trcMark => exact kind_trcMark _ | clkMonGo => exact kind_clkMonGo _
  | pmResume => exact kind_pmResume
  | barrierFrameLaunch toHost | barrierFrameRx toHost | barrierSyncLoss toHost => cases toHost <;> cases h
  | _ => cases h

/-- Any other command of the host side: what it does there is a function of the host side, but for the two that read the field die. -/
theorem exec_onHost (c : Instr) (h : c.plane = .host) (hss : ∀ q ff, c ≠ .settingsSave q ff) (hq : ∀ q, c ≠ .quote q) :
    ∃ f : Env → HostSide → HostSide, ∀ s, exec c s = s.onHost f := by
  cases c with
  | registerReadClear => exact kind_registerReadClear _ | loReadLatch => exact kind_loReadLatch _
  | lanePeriodicInject => exact kind_lanePeriodicInject _ | eqClamp => exact kind_eqClamp _ _ | prbsLock => exact kind_prbsLock _ _ _
  | prbsUnlock => exact kind_prbsUnlock _ _ _ _ | cxpMasterLock => exact kind_cxpMasterLock _
  | cxpDiscTimeout => exact kind_cxpDiscTimeout _ | cxpBootstrapReadDone => exact kind_cxpBootstrapReadDone _ _ _ _ _ _
  | cxpConfigAck => exact kind_cxpConfigAck _ | cxpSwitchLocked => exact kind_cxpSwitchLocked _
  | cxpSwitchTimeout => exact kind_cxpSwitchTimeout _ | cxpLockLoss => exact kind_cxpLockLoss _
  | cxpPowerFault => exact kind_cxpPowerFault _ | cxpCcReply => exact kind_cxpCcReply _ _ _ | cxpCcTimeout => exact kind_cxpCcTimeout _
  | cxpStreamPacket => exact kind_cxpStreamPacket _ _ _ _ _ _ | cxpHeartbeatRx => exact kind_cxpHeartbeatRx _ _
  | cxpHbTimeout => exact kind_cxpHbTimeout _ | cxpEventPacket => exact kind_cxpEventPacket _ _ | iflTxStart => exact kind_iflTxStart _
  | iflMarkerRx => exact kind_iflMarkerRx _ _ _ _ | iflMarkerMissing => exact kind_iflMarkerMissing _ _
  | iflFlitRx => exact kind_iflFlitRx _ _ _ | iflAckTimeout => exact kind_iflAckTimeout _ | iflCreditSend => exact kind_iflCreditSend _
  | lineTick => exact kind_lineTick _ | pixLineComplete => exact kind_pixLineComplete _ _ | pixTickTimeout => exact kind_pixTickTimeout _
  | settingsAck => exact kind_settingsAck _ _ | sluicePeriodBoundary => exact kind_sluicePeriodBoundary _ _
  | sluiceSlot => exact kind_sluiceSlot _ _ _ _ _ | emergencyRequest => exact kind_emergencyRequest _ _
  | hbmInitDone => exact kind_hbmInitDone | coreFence => exact kind_coreFence _ _ | corePollTimeout => exact kind_corePollTimeout _
  | spareSelfTest => exact kind_spareSelfTest _ _ | lineDigestDone => exact kind_lineDigestDone _ | sealStart => exact kind_sealStart _
  | sealSigned => exact kind_sealSigned _ | gstopStop => exact kind_gstopStop _ | gstopTakeEffect => exact kind_gstopTakeEffect
  | gstopRelease => exact kind_gstopRelease _ | gstopResume => exact kind_gstopResume | fieldHeartbeat => exact kind_fieldHeartbeat
  | encSnapshot => exact kind_encSnapshot | diChange => exact kind_diChange | ejectReport => exact kind_ejectReport
  | fault => exact kind_fault | cfgReadResponse => exact kind_cfgReadResponse | cfgResponseTimeout => exact kind_cfgResponseTimeout
  | fieldLoss => exact kind_fieldLoss | cmpFire => exact kind_cmpFire _ | ppsPulseEnd => exact kind_ppsPulseEnd
  | timeCapture => exact kind_timeCapture _ | ethRxFrame => exact kind_ethRxFrame _ _ _ | ethTxDone => exact kind_ethTxDone _
  | tb1SyncSend => exact kind_tb1SyncSend | tb1SyncRx => exact kind_tb1SyncRx _ | tb1DelayReqRx => exact kind_tb1DelayReqRx _
  | tb1DelayRespRx => exact kind_tb1DelayRespRx _ | tb1Holdover => exact kind_tb1Holdover | hostAbiWrite => exact kind_hostAbiWrite _
  | sqResetDone => exact kind_sqResetDone _ | descriptorFetch => exact kind_descriptorFetch _ _
  | completionWrite => exact kind_completionWrite _ | imagePiece => exact kind_imagePiece _ _ | powerTol => exact kind_powerTol _
  | partitionSet => exact kind_partitionSet _ | updateBegin => exact kind_updateBegin _ _ | updateAbort => exact kind_updateAbort _ _
  | updateActivate => exact kind_updateActivate _ _ | updateConfirm => exact kind_updateConfirm _ _
  | updateRevert => exact kind_updateRevert _ _ | recoveryWrite => exact kind_recoveryWrite _ _
  | settingsRead => exact kind_settingsRead _ _ | settingsWrite => exact kind_settingsWrite _ _
  | settingsErase => exact kind_settingsErase _ _ | certGet => exact kind_certGet _ _ | pubkeyGet => exact kind_pubkeyGet _
  | quoteSigned => exact kind_quoteSigned | resultRecordPublish => exact kind_resultRecordPublish _
  | busMasterEnableChange => exact kind_busMasterEnableChange _ | statePageUpdate => exact kind_statePageUpdate
  | msixVectorTimer => exact kind_msixVectorTimer _ | hdwDictBuildDone => exact kind_hdwDictBuildDone
  | gaugeSnapTake => exact kind_gaugeSnapTake | traceRecord => exact kind_traceRecord _
  | traceBucketRefill => exact kind_traceBucketRefill | traceSampleTimer => exact kind_traceSampleTimer
  | iflEventSend => exact kind_iflEventSend _ | selfTestDone => exact kind_selfTestDone _ _
  | bootCandidateSelect => exact kind_bootCandidateSelect | deviceReady => exact kind_deviceReady | clkMonDone => exact kind_clkMonDone _
  | dbgCmd => exact kind_dbgCmd _ _ | dbgAddr => exact kind_dbgAddr _ | dbgData => exact kind_dbgData _
  | powerCapWindow => exact kind_powerCapWindow _ | thermalSample => exact kind_thermalSample _ _ _ _ _ _
  | thermalThrottleStep => exact kind_thermalThrottleStep | computeDieTrip => exact kind_computeDieTrip _
  | voltClampWindow => exact kind_voltClampWindow | avsVoltageWrite => exact kind_avsVoltageWrite _ _ _
  | avsCurrentRead => exact kind_avsCurrentRead _ _ _ _ | undecWindow => exact kind_undecWindow
  | fatalError => exact kind_fatalError _ _ _ | laneCdrLockChange => exact kind_laneCdrLockChange _ _ _ _ _ _
  | ethLinkChange => exact kind_ethLinkChange _ _ _ | stackTrainingFail => exact kind_stackTrainingFail _
  | settingsSave q ff => exact absurd rfl (hss q ff)
  | quote q => exact absurd rfl (hq q)
  | barrierFrameLaunch toHost wait =>
    obtain rfl : toHost = false := by cases toHost <;> trivial
    exact ⟨fun _ h => h.launch wait, fun _ => rfl⟩
  | barrierFrameRx toHost frame =>
    obtain rfl : toHost = true := by cases toHost <;> trivial
    exact ⟨fun e h => h.barReceive e frame, fun _ => rfl⟩
  | barrierSyncLoss toHost =>
    obtain rfl : toHost = true := by cases toHost <;> trivial
    exact ⟨_, fun s => show execBarrierSyncLoss true s = _ from if_pos rfl⟩
  | _ => cases h

/-- A command of the field die. -/
theorem exec_onField (c : Instr) (h : c.plane = .field) : ∃ f : Env → FieldDie → FieldDie, ∀ s, exec c s = s.onField f := by
  cases c with
  | encInputChange => exact kind_encInputChange _ _ _ | encOpenDetect => exact kind_encOpenDetect _ _
  | encZEdge => exact kind_encZEdge _ _ | hallCodeChange => exact kind_hallCodeChange _ _ | sincosSample => exact kind_sincosSample _ _ _
  | serFrameStart => exact kind_serFrameStart _ _ | serStartTimeout => exact kind_serStartTimeout _
  | serEndTimeout => exact kind_serEndTimeout _ | serFrameDone => exact kind_serFrameDone _ _ _ _
  | observerUpdate => exact kind_observerUpdate _ _ | encModeChange => exact kind_encModeChange _ _ | encLatch => exact kind_encLatch _
  | encClrCnt => exact kind_encClrCnt _ | encCalClr => exact kind_encCalClr _ | encBwSet => exact kind_encBwSet _
  | encKApply => exact kind_encKApply _ | repStep => exact kind_repStep _ | heartbeat => exact kind_heartbeat
  | ejectArm => exact kind_ejectArm | doSet => exact kind_doSet | cfgWrite => exact kind_cfgWrite | cfgRead => exact kind_cfgRead
  | snapshotTimer => exact kind_snapshotTimer _ _ | strobePulseEnd => exact kind_strobePulseEnd _ | weirFire => exact kind_weirFire _ _
  | weirPulseEnd => exact kind_weirPulseEnd _ _ _ | valveFrame => exact kind_valveFrame _ | diFilterChange => exact kind_diFilterChange _
  | doFault => exact kind_doFault _ _ | lpUndervoltage => exact kind_lpUndervoltage _ | safeStateEntry => exact kind_safeStateEntry
  | fieldReset => exact kind_fieldReset | fieldRomBoot => exact kind_fieldRomBoot | fldLoadStart => exact kind_fldLoadStart
  | fldLoadData => exact kind_fldLoadData _ | fldLoadRun => exact kind_fldLoadRun _ | encOpenClear => exact kind_encOpenClear _ _
  | bridgedCountStep => exact kind_bridgedCountStep _ _ | strobePulseStart => exact kind_strobePulseStart _
  | outputFaultEnd => exact kind_outputFaultEnd _
  | barrierFrameLaunch toHost wait waits =>
    obtain rfl : toHost = true := by cases toHost <;> trivial
    exact ⟨fun e d => (d.notice e.linked).launch wait waits, fun _ => rfl⟩
  | barrierFrameRx toHost frame =>
    obtain rfl : toHost = false := by cases toHost <;> trivial
    exact ⟨fun _ d => d.receive frame, fun _ => rfl⟩
  | barrierSyncLoss toHost =>
    obtain rfl : toHost = false := by cases toHost <;> trivial
    exact ⟨_, fun s => show execBarrierSyncLoss false s = _ from if_neg Bool.false_ne_true⟩
  | _ => cases h

/-- What every command of the host side does: a function of that side, and the settling of the summaries. -/
theorem exec_hostSide (c : Instr) (h : c.onHostSide) (hss : ∀ q ff, c ≠ .settingsSave q ff) (hq : ∀ q, c ≠ .quote q) :
    ∃ f : Env → HostSide → HostSide, ∀ s, exec c s = s.onHost f := by
  obtain h | h | h := h
  · obtain ⟨f, hf⟩ := exec_onData c h
    exact ⟨_, hf⟩
  · obtain ⟨f, hf⟩ := exec_onBar c h
    exact ⟨_, hf⟩
  · exact exec_onHost c h hss hq

/-- In one state, SETTINGS_SAVE and QUOTE too act on the host side alone. -/
theorem exec_hostSide_at (c : Instr) (h : c.onHostSide) (s : State) : ∃ f : Env → HostSide → HostSide, exec c s = s.onHost f := by
  by_cases hss : ∃ q ff, c = .settingsSave q ff
  · obtain ⟨q, ff, rfl⟩ := hss
    exact kind_settingsSave q ff s
  by_cases hq : ∃ q, c = .quote q
  · obtain ⟨q, rfl⟩ := hq
    exact kind_quote q s
  obtain ⟨f, hf⟩ := exec_hostSide c h (fun q ff e => hss ⟨q, ff, e⟩) (fun q e => hq ⟨q, e⟩)
  exact ⟨f, hf s⟩

/-! ### What the frames leave -/

theorem State.onHost_hostOnly {s t : State} {f : Env → HostSide → HostSide} (h : s.onHost f = .next t) : s.hostOnly t := by
  by_cases hu : s.up
  · rw [State.onHost_up s f hu] at h
    cases h
    exact ⟨rfl, rfl, rfl, rfl⟩
  · rw [State.onHost_down s f hu] at h
    cases h
    exact ⟨rfl, rfl, rfl, rfl⟩

/-- A host frame sees nothing of the field die. -/
theorem State.onHost_field {s t : State} {f : Env → HostSide → HostSide} (h : s.onHost f = .next t) (d : FieldDie) :
    State.onHost { s with field := d } f = .next { t with field := d } := by
  by_cases hu : s.up
  · rw [State.onHost_up s f hu] at h
    cases h
    exact State.onHost_up { s with field := d } f hu
  · rw [State.onHost_down s f hu] at h
    cases h
    exact State.onHost_down { s with field := d } f hu

/-- A field frame sees of the host side whether its barrier receiver is locked. -/
theorem State.onField_host {s t : State} {f : Env → FieldDie → FieldDie} (h : s.onField f = .next t) (g : HostSide)
    (hl : g.bar.port.locked = s.host.bar.port.locked) : State.onField { s with host := g } f = .next { t with host := g } := by
  cases h
  unfold State.onField State.env
  rw [hl]

theorem exec_hostOnly {c : Instr} {s t : State} (hc : c.onHostSide) (h : exec c s = .next t) : s.hostOnly t := by
  obtain ⟨f, hf⟩ := exec_hostSide_at c hc s
  exact State.onHost_hostOnly (hf ▸ h)

theorem exec_fieldOnly {c : Instr} {s t : State} (hc : c.plane = .field) (h : exec c s = .next t) : s.fieldOnly t := by
  obtain ⟨f, hf⟩ := exec_onField c hc
  rw [hf] at h
  cases h
  exact ⟨rfl, rfl, rfl, rfl⟩

/-! ### The write of a BAR0 word (R4, R430, R440) -/

/-- `s.barCommands t`: from `s`, commands that stand in words of BAR0 lead to `t`. -/
inductive State.barCommands (s : State) : State → Prop where
  | start : s.barCommands s
  | next (c : Instr) (t : State) (hc : c.inWord) (h : s.barCommands t) : s.barCommands (t.after (exec c))

namespace State.barCommands

variable {s t : State} {f : State → Host.Outcome State Fault Refusal}

/-- A command, after others. -/
theorem andThen (h : s.barCommands t) (c : Instr) (hf : ∀ u, exec c u = f u := by intro _; rfl) (hc : c.inWord := by simp [Instr.inWord, planeOf]) :
    s.barCommands (t.after f) :=
  (funext hf : exec c = f) ▸ .next c t hc h

/-- A command under a condition, after others. -/
theorem thenIf (h : s.barCommands t) (b : Bool) (c : Instr) (hf : ∀ u, exec c u = f u := by intro _; rfl)
    (hc : c.inWord := by simp [Instr.inWord, planeOf]) : s.barCommands (t.afterIf b f) := by
  unfold State.afterIf
  split
  · exact andThen h c hf hc
  · exact h

theorem one (c : Instr) (hf : ∀ u, exec c u = f u := by intro _; rfl) (hc : c.inWord := by simp [Instr.inWord, planeOf]) : s.barCommands (s.after f) :=
  andThen .start c hf hc

theorem oneIf (b : Bool) (c : Instr) (hf : ∀ u, exec c u = f u := by intro _; rfl) (hc : c.inWord := by simp [Instr.inWord, planeOf]) :
    s.barCommands (s.afterIf b f) :=
  thenIf .start b c hf hc

theorem trans {u : State} (h₁ : s.barCommands t) (h₂ : t.barCommands u) : s.barCommands u := by
  induction h₂ with
  | start => exact h₁
  | next c t hc _ ih => exact .next c t hc ih

/-- What each command of a word keeps, the write of the word keeps. -/
theorem keeps {P : State → Prop} (hP : ∀ (c : Instr) (s t : State), c.inWord → P s → exec c s = .next t → P t) {s t : State}
    (h : s.barCommands t) (hs : P s) : P t := by
  induction h with
  | start => exact hs
  | next c t hc _ ih =>
    unfold State.after
    split
    · next u hu => exact hP c t u hc ih hu
    · exact ih

end State.barCommands

open State.barCommands in
theorem State.busDev_commands (s : State) (a : Nat) (v : Word) : s.barCommands (s.busDev a v) := by
  unfold State.busDev
  dsimp only
  repeat' split
  exacts [one (.hostAbiWrite v), one (.detFenceGo _), one (.registerWrite a v), thenIf (oneIf _ (.gstopStop 0)) _ (.gstopRelease 0),
    one (.srvEnable _ v), one (.registerWrite a v), one (.sqEnable _ v), one (.sqReset _ (some v)),
    thenIf (oneIf _ (.sqRestart _)) _ (.sqReset _ none), one (.cqEnable _ v), one (.rrEnable _ v), one (.registerWrite a v)]

open State.barCommands in
theorem State.busPm_commands (s : State) (a : Nat) (v : Word) : s.barCommands (s.busPm a v) := by
  unfold State.busPm
  dsimp only
  repeat' split
  exacts [oneIf _ .pmResume, one (.clkRstCmd v), one (.clkMonGo v), one (.registerWrite a v), one (.registerWrite a v)]

open State.barCommands in
theorem State.busLink_commands (s : State) (a : Nat) (v : Word) : s.barCommands (s.busLink a v) := by
  unfold State.busLink
  extract_lets
  generalize winOf 0x40000 0x100 a = l, winOf 0x50000 0x400 a = n, winOf 0x60000 0x2000 a = p
  repeat' split
  exacts [thenIf (thenIf (one (.registerWrite a v)) _ (.laneInjTx _)) _ (.laneInjRx _), oneIf _ (.laneCntClr _),
    one (.registerWrite a v), one (.cxpLinkEnable _ v), one (.cxpLinkDisable _ v), oneIf _ (.cxpRestart _), one (.cxpCcGo _ v),
    one (.registerWrite a v), thenIf (one (.registerWrite a v)) _ (.cxpEvtPop _), one (.registerWrite a v), one (.iflEnable _ v),
    one (.iflDisable _ v), oneIf _ (.iflRetrain _), one (.registerWrite a v)]

open State.barCommands in
theorem State.busPix_commands (s : State) (a : Nat) (v : Word) : s.barCommands (s.busPix a v) := by
  unfold State.busPix
  extract_lets
  generalize winOf 0x80000 0x1000 a = p, winOf 0x90000 0x400 a = x
  repeat' split
  exacts [oneIf _ (.pipeCommit _), one (.registerWrite a v), one (.ctxEnable _ v), one (.ctxDisable _ v), one (.registerWrite a v),
    thenIf (oneIf _ (.ctxCommit _)) _ (.ctxAbort _), one (.setGo _ v), one (.registerWrite a v), one (.registerWrite a v)]

open State.barCommands in
theorem State.busTime_commands (s : State) (a : Nat) (v : Word) : s.barCommands (s.busTime a v) := by
  unfold State.busTime
  dsimp only
  repeat' split
  exacts [thenIf (one (.timeCopy v)) _ .timeSnap, thenIf (one (.registerWrite a v)) _ .timeSnap, one (.tbRateWrite _ v),
    thenIf (oneIf _ (.tbSet _)) _ (.tbStep _), thenIf (one (.registerWrite a v)) _ (.ethTxtsPop _), oneIf _ .barRelease,
    one (.memSluCommit v _), thenIf (thenIf (one (.registerWrite a v)) _ (.sluCommit _ _)) _ (.sluAbort _), one (.registerWrite a v)]

open State.barCommands in
theorem State.busCore_commands (s : State) (a : Nat) (v : Word) : s.barCommands (s.busCore a v) := by
  unfold State.busCore
  dsimp only
  repeat' split
  exacts [one (.lscEnable _ _ v), one (.lscDisable _ _ v), one (.registerWrite a v), oneIf _ (.coreClearErr _),
    thenIf (oneIf _ .gaugeSnap) _ .gaugeClearAll, one (.trcMark v), one (.counterConfigWrite a v), one (.hdwDictCommit v),
    one (.registerWrite a v), one (.registerWrite a v)]

/-- The write of a BAR0 word is the commands that stand in it, one after the other. -/
theorem State.busWrite_commands (s : State) (a : Nat) (v : Word) : s.barCommands (s.busWrite a v) := by
  unfold State.busWrite
  repeat' split
  exacts [s.busDev_commands a v, s.busPm_commands a v, s.busLink_commands a v, s.busPix_commands a v, s.busTime_commands a v,
    s.busCore_commands a v]

/-- The writes that a sleeping cluster held back, in their order. -/
theorem State.busWrites_commands {α : Type} (l : List α) (a : α → Nat) (v : α → Word) (s : State) :
    s.barCommands (l.foldl (fun s x => s.busWrite (a x) (v x)) s) := by
  induction l generalizing s with
  | nil => exact .start
  | cons x l ih => exact (s.busWrite_commands _ _).trans (ih _)

/-! ### The queue and the product -/

/-- The queue and the product are those of `s`. -/
def State.sameQueue (s t : State) : Prop := t.pending = s.pending ∧ t.variant = s.variant

theorem State.hostOnly.sameQueue {s t : State} (h : s.hostOnly t) : s.sameQueue t := ⟨h.1, h.2.2.1⟩

theorem State.resetBy_hostOnly {s t : State} {n : Nat} (h : s.resetBy n = .next t) : s.hostOnly t := by
  cases h
  exact ⟨rfl, rfl, rfl, rfl⟩

theorem execClkRstCmd_hostOnly {v : Word} {s t : State} (h : exec (.clkRstCmd v) s = .next t) : s.hostOnly t := by
  change execClkRstCmd v s = _ at h
  unfold execClkRstCmd at h
  split at h
  · exact State.resetBy_hostOnly h
  · cases h
    exact ⟨rfl, rfl, rfl, rfl⟩

theorem State.barCommands.hostOnly {s t : State} (h : s.barCommands t) : s.hostOnly t := by
  refine h.keeps (P := s.hostOnly) (fun c u w hc hu hw => ?_) ⟨rfl, rfl, rfl, rfl⟩
  have key : u.hostOnly w := by
    obtain hp | hp | ⟨v, rfl⟩ := hc
    · exact exec_hostOnly (.inr (.inl hp)) hw
    · exact exec_hostOnly (.inr (.inr hp)) hw
    · exact execClkRstCmd_hostOnly hw
  exact ⟨key.1.trans hu.1, key.2.1.trans hu.2.1, key.2.2.1.trans hu.2.2.1, key.2.2.2.trans hu.2.2.2⟩

theorem State.loadField_sameQueue (s : State) (n : Nat) : s.sameQueue (s.loadField n) := by
  unfold State.loadField
  dsimp only
  repeat' split
  all_goals exact ⟨rfl, rfl⟩

/-- The commands with rules of their own: resets, start-up, and those that write BAR0 words. -/
theorem exec_boot_sameQueue {c : Instr} {s t : State} (hc : c.plane = .boot) (h : exec c s = .next t) : s.sameQueue t := by
  match c, hc with
  | .rootClockLost, _ | .resetPin, _ | .resetPerst, _ => exact (State.resetBy_hostOnly h).sameQueue
  | .resetPower _, _ => exact ⟨(State.resetBy_hostOnly h).1, (State.resetBy_hostOnly h).2.2.1⟩
  | .clkRstCmd _, _ => exact (execClkRstCmd_hostOnly h).sameQueue
  | .tapReset, _ =>
    cases h
    exact ⟨rfl, rfl⟩
  | .flr, _ =>
    change execFlr s = _ at h
    unfold execFlr at h
    split at h
    · exact (State.resetBy_hostOnly h).sameQueue
    · cases h
      exact ⟨rfl, rfl⟩
  | .wdogExpire, _ =>
    change execWdogExpire s = _ at h
    unfold execWdogExpire at h
    split at h
    · exact (State.resetBy_hostOnly h).sameQueue
    · cases h
      exact ⟨rfl, rfl⟩
  | .hostResetRelease, _ =>
    change execHostResetRelease s = _ at h
    unfold execHostResetRelease at h
    obtain rfl := Host.Outcome.next.inj h
    split <;> exact ⟨rfl, rfl⟩
  | .firmwareStarted, _ =>
    change execFirmwareStarted s = _ at h
    unfold execFirmwareStarted at h
    obtain rfl := Host.Outcome.next.inj h
    repeat' split
    exacts [⟨rfl, rfl⟩, ⟨rfl, rfl⟩, ⟨rfl, rfl⟩, s.loadField_sameQueue _, s.loadField_sameQueue _, ⟨rfl, rfl⟩]
  | .dbgAccessDone, _ =>
    change execDbgAccessDone s = _ at h
    unfold execDbgAccessDone at h
    obtain rfl := Host.Outcome.next.inj h
    have hbus := (s.busWrite_commands (dbgAddress s.host.dbg.addr) s.host.dbg.stage).hostOnly.sameQueue
    dsimp only
    repeat' split
    exacts [⟨rfl, rfl⟩, ⟨rfl, rfl⟩, ⟨rfl, rfl⟩, hbus, ⟨rfl, rfl⟩, ⟨rfl, rfl⟩, ⟨rfl, rfl⟩]
  | .clusterWakeDone k, _ =>
    change execClusterWakeDone k s = _ at h
    unfold execClusterWakeDone at h
    obtain rfl := Host.Outcome.next.inj h
    dsimp only
    split
    · exact ⟨rfl, rfl⟩
    · exact (State.busWrites_commands _ _ _ _).hostOnly.sameQueue

theorem exec_sameQueue {c : Instr} {s t : State} (h : exec c s = .next t) : s.sameQueue t := by
  rcases hp : c.plane
  case field => exact ⟨(exec_fieldOnly hp h).1, (exec_fieldOnly hp h).2.2.1⟩
  case boot => exact exec_boot_sameQueue hp h
  case data => exact (exec_hostOnly (.inl hp) h).sameQueue
  case bar => exact (exec_hostOnly (.inr (.inl hp)) h).sameQueue
  case host => exact (exec_hostOnly (.inr (.inr hp)) h).sameQueue

/-- Settles O6: each command through the frame of its plane, the commands of reset and debug one by one. -/
theorem whatEachCommandMayTouch : Obligations.WhatEachCommandMayTouch := by
  unfold Obligations.WhatEachCommandMayTouch
  refine ⟨fun _ _ _ => exec_sameQueue, ?stopped, ?notReady, ?down, fun _ _ _ => exec_hostOnly, ?blind, fun _ _ _ => exec_fieldOnly, ?apart⟩
  case stopped =>
    intro c s hp hs hst
    obtain ⟨f, hf⟩ := exec_onData c hp
    rw [hf, State.onData_stopped s f hst hs]
  case notReady =>
    intro c s hp hs hr
    obtain ⟨f, hf⟩ := exec_onBar c hp
    rw [hf, State.onBar_closed s f hr hs]
  case down =>
    intro c s hp hd
    obtain ⟨f, hf⟩ := exec_hostSide_at c hp s
    rw [hf, State.onHost_down s f (by simp [hd])]
  case blind =>
    intro c s t d hp hss hq h
    obtain ⟨f, hf⟩ := exec_hostSide c hp hss hq
    rw [hf] at h ⊢
    exact State.onHost_field h d
  case apart =>
    intro c s t g hp hl h
    obtain ⟨f, hf⟩ := exec_onField c hp
    rw [hf] at h ⊢
    exact State.onField_host h g hl

end Sys2Proof.Machine

/-! SUPPORT. Halts, releases and digests of INSPECT (R35, R213, R214, R220, R222): what the shared operations leave of the engine. -/

namespace Sys2Proof.Machine
open Sys2Proof

/-! ### Operations that leave the INSPECT engine alone -/

@[simp] theorem HostSide.countG_insp (h : HostSide) (ev unit n : Nat) : (h.countG ev unit n).insp = h.insp :=
  (congrArg HostSide.insp (HostSide.CyclesPassed.countG h ev unit n).rest :)

/-- A log entry changes registers and the power controller's log only. -/
theorem HostSide.log_eq (h : HostSide) (e : Env) (code unit detail addr seq : Nat) :
    h.log e code unit detail addr seq
      = { h with regs := (h.log e code unit detail addr seq).regs, pm := (h.log e code unit detail addr seq).pm } := by
  unfold HostSide.log
  extract_lets
  split
  · rfl
  · split <;> rfl

@[simp] theorem HostSide.log_insp (h : HostSide) (e : Env) (code unit detail addr seq : Nat) :
    (h.log e code unit detail addr seq).insp = h.insp := by
  rw [HostSide.log_eq]

@[simp] theorem HostSide.setRing_insp (h : HostSide) (n : Nat) (r : Ring) : (h.setRing n r).insp = h.insp := rfl

@[simp] theorem HostSide.addLeaf_insp (h : HostSide) (n pos : Nat) (rcd : List Byte) : (h.addLeaf n pos rcd).insp = h.insp := by
  unfold HostSide.addLeaf
  split <;> rfl

@[simp] theorem HostSide.produce_insp (h : HostSide) (n : Nat) (rcd : List Byte) : (h.produce n rcd).insp = h.insp := by
  unfold HostSide.produce
  dsimp only
  split
  · rw [HostSide.addLeaf_insp]
    rfl
  · rfl

@[simp] theorem HostSide.report_insp (h : HostSide) (e : Env) (o : OutEntry) (code result flags tag count : Nat) :
    (h.report e o code result flags tag count).insp = h.insp :=
  HostSide.produce_insp _ _ _

@[simp] theorem HostSide.barSend_insp (h : HostSide) (type payload : Nat) : (h.barSend type payload).insp = h.insp := rfl

@[simp] theorem HostSide.undecided_insp (h : HostSide) (cause : Nat) : (h.undecided cause).insp = h.insp := rfl

@[simp] theorem HostSide.traceDue_insp (h : HostSide) (e : Env) (b kind source : Nat) (payload : List Byte) :
    (h.traceDue e b kind source payload).insp = h.insp := by
  unfold HostSide.traceDue
  split <;> rfl

@[simp] theorem HostSide.loaderCommit_insp (h : HostSide) (n : Nat) (ent : Nat → Nat) : (h.loaderCommit n ent).insp = h.insp := by
  unfold HostSide.loaderCommit
  have hwords : (forN 256 (fun i g => g.setWord (shadowAddr n i) (BitVec.ofNat 32 (ent i))) h).insp = h.insp :=
    forN_keeps (fun g : HostSide => g.insp = h.insp) 256 _ h rfl fun _ _ hg => hg
  generalize forN 256 _ h = g at hwords ⊢
  exact hwords

@[simp] theorem HostSide.commitRecord_insp (h : HostSide) (kind ctx : Nat) (content : List Byte) :
    (h.commitRecord kind ctx content).insp = h.insp := by
  refine forN_keeps (fun g : HostSide => g.insp = h.insp) 16 _ h rfl fun n g hg => ?_
  split
  · rw [HostSide.produce_insp, hg]
  · exact hg

/-! ### The items through a release -/

/-- The items and the number of the last one released are those of `h`. -/
def HostSide.sameItems (h g : HostSide) : Prop := g.insp.items = h.insp.items ∧ g.insp.lastSeq = h.insp.lastSeq

theorem HostSide.sameItems.of_insp {h g : HostSide} (e : g.insp = h.insp) : h.sameItems g := by
  unfold HostSide.sameItems
  rw [e]
  exact ⟨rfl, rfl⟩

theorem HostSide.sameItems.trans {h g k : HostSide} (h₁ : h.sameItems g) (h₂ : g.sameItems k) : h.sameItems k :=
  ⟨h₂.1.trans h₁.1, h₂.2.trans h₁.2⟩

theorem HostSide.eject_sameItems (h : HostSide) (e : Env) (o : OutEntry) (first numM1 wsel : Nat) :
    h.sameItems (h.eject e o first numM1 wsel) := by
  unfold HostSide.eject
  dsimp only
  split
  · exact .of_insp (by simp)
  · split
    · exact .of_insp (by simp)
    · simp [HostSide.sameItems]

theorem HostSide.retireOlds_sameItems (h : HostSide) : h.sameItems h.retireOlds := by
  unfold HostSide.retireOlds
  dsimp only
  split
  · exact .of_insp rfl
  · refine HostSide.sameItems.of_insp (forN_keeps (fun g : HostSide => g.insp = h.insp) 26 _ h rfl fun n g hg => ?_) |>.trans ⟨rfl, rfl⟩
    split
    · rw [HostSide.loaderCommit_insp, hg]
    · exact hg

/-- Item `seq` is the last one released, and no item with its number is still to be. -/
def HostSide.hasReleased (g : HostSide) (seq : Nat) : Prop :=
  g.insp.lastSeq = seq ∧ ∀ i ∈ g.insp.items, i.seq = seq → i.released = true

theorem HostSide.sameItems.hasReleased {h g : HostSide} (e : h.sameItems g) {seq : Nat} (hr : h.hasReleased seq) : g.hasReleased seq :=
  ⟨e.2.trans hr.1, fun i hi => hr.2 i (e.1 ▸ hi)⟩

/-- Items in which every one numbered `seq` is marked released or taken out. -/
theorem Item.released_of_mem {items : List Item} {seq : Nat} (stays : Bool) {i : Item}
    (hi : i ∈ if stays then items.map (fun i => if i.seq == seq then { i with released := true } else i)
      else items.filter fun i => i.seq != seq) (hs : i.seq = seq) : i.released = true := by
  cases stays
  · simp [hs] at hi
  · obtain ⟨j, -, rfl⟩ := List.mem_map.mp hi
    split
    · rfl
    · next hne =>
      rw [if_neg hne] at hs
      simp [hs] at hne

/-- What is left to do once the items are updated does not touch them: record, trace, ejection, old recipes. -/
theorem HostSide.hasReleased.record {h : HostSide} {seq : Nat} (hr : h.hasReleased seq) (e : Env) (n : Nat) (x pay : List Byte)
    (arm : Bool) (o : OutEntry) (first numM1 wsel : Nat) :
    (let g := ((h.produce n x).countG 0x40 0 1).traceDue e 8 5 0 pay
     let g := if arm then g.eject e o first numM1 wsel else g
     g.retireOlds).hasReleased seq := by
  extract_lets g k
  have hg : g.hasReleased seq := HostSide.sameItems.hasReleased (.of_insp (by simp [g])) hr
  refine (HostSide.retireOlds_sameItems _).hasReleased ?_
  show (if arm then g.eject e o first numM1 wsel else g).hasReleased seq
  split
  · exact (HostSide.eject_sameItems _ _ _ _ _ _).hasReleased hg
  · exact hg

/-- A release sends the verdict of its item (R28, R35). -/
theorem HostSide.release_hasReleased (h : HostSide) (e : Env) (it : Item) (blk : Option (List Byte)) (cause : Nat) (r : Recipe)
    (hr : h.recipeOf it.recipe = some r) : (h.release e it blk cause).hasReleased it.seq := by
  unfold HostSide.release
  split
  · next hn => simp [hn] at hr
  · extract_lets
    split
    extract_lets
    exact HostSide.hasReleased.record ⟨rfl, fun _ hi => Item.released_of_mem _ hi⟩ _ _ _ _ _ _ _ _ _

/-! ### Gap windows (R214, R340) -/

/-- The schedule's halt is as in `h`. -/
def HostSide.sameHalt (h g : HostSide) : Prop := g.insp.halted = h.insp.halted ∧ g.insp.haltReq = h.insp.haltReq

theorem HostSide.openItem_sameHalt (h : HostSide) (it : Item) (hc : Nat) : h.sameHalt (h.openItem it hc) := ⟨rfl, rfl⟩

theorem HostSide.gapLine_sameHalt (h : HostSide) (x idx count tick hc : Nat) : h.sameHalt (h.gapLine x idx count tick hc) := by
  unfold HostSide.gapLine
  split
  · exact ⟨rfl, rfl⟩
  · split
    · exact ⟨rfl, rfl⟩
    · extract_lets
      split
      · exact ⟨rfl, rfl⟩
      · split <;> exact ⟨rfl, rfl⟩

/-- A halted schedule stays so while the lines not named yet go to gap windows (R214). -/
theorem HostSide.gapLines_halted (h : HostSide) (hh : h.insp.halted = true ∧ h.insp.haltReq = none) (l : List (Nat × Nat × Nat))
    (r : Recipe) (cause : Nat) :
    let g := match r.ctxs.head? with
      | some x => l.foldl (fun (h : HostSide) (u : Nat × Nat × Nat) => h.gapLine x u.1 u.2.1 u.2.2 cause) h
      | none => h
    g.insp.halted = true ∧ g.insp.haltReq = none := by
  dsimp only
  split
  · refine foldl_keeps (fun g : HostSide => g.insp.halted = true ∧ g.insp.haltReq = none) l _ h hh fun g u hg => ?_
    obtain ⟨e₁, e₂⟩ := g.gapLine_sameHalt _ u.1 u.2.1 u.2.2 cause
    exact ⟨e₁.trans hg.1, e₂.trans hg.2⟩
  · exact hh

/-! ### The commands -/

/-- The host side with its schedule halted (R213): cores stopped, items not judged forced, lines not named yet in gap windows. -/
def HostSide.haltedFor (h : HostSide) (r : Recipe) (cause : Nat) : HostSide :=
  let h := (r :: h.insp.olds.filter h.runs).foldl (fun h r => h.stopCores r false) h
  let h := { h with insp := { h.insp with
    halted := true, await := false, haltReq := none, kept := [], iterDue := false, iterPend := [], restart := none,
    items := h.insp.items.map fun i => i.force cause } }
  match r.ctxs.head? with
  | some x => h.insp.unnamed.foldl (fun h u => h.gapLine x u.1 u.2.1 u.2.2 cause) h
  | none => h

theorem HostSide.haltedFor_halted (h : HostSide) (r : Recipe) (cause : Nat) :
    (h.haltedFor r cause).insp.halted = true ∧ (h.haltedFor r cause).insp.haltReq = none :=
  HostSide.gapLines_halted _ ⟨rfl, rfl⟩ _ r cause

theorem execRecipeHalt_running (s : State) (cause : Nat) (r : Recipe) (hs : s.running) (hc : s.host.insp.haltReq = some cause)
    (hr : s.host.insp.armed = some r) : exec .recipeHalt s = .next { s with host := (s.host.haltedFor r cause).settle } := by
  show execRecipeHalt s = _
  unfold execRecipeHalt
  rw [State.onData_running s _ hs, hc, hr]
  rfl

theorem execUndecidedRelease_running (s : State) (seq : Nat) (hs : s.running) (it : Item)
    (hf : s.host.insp.items.find? (fun i => i.seq == seq && !i.released) = some it) :
    exec (.undecidedRelease seq) s = .next { s with host := (if it.forced = 0 || it.closeTick.isNone || s.host.waitsTurn it then s.host
      else s.host.release s.env it none it.forced).settle } := by
  show execUndecidedRelease seq s = _
  unfold execUndecidedRelease
  rw [State.onData_running s _ hs, hf]

theorem execVerdictRelease_running (s : State) (seq : Nat) (hs : s.running) (it : Item)
    (hf : s.host.insp.items.find? (fun i => i.seq == seq && !i.released) = some it) :
    exec (.verdictRelease seq) s = .next { s with host := (match it.judged with
      | none => s.host
      | some (blk, cause) => if s.host.waitsTurn it then s.host else s.host.release s.env it blk cause).settle } := by
  show execVerdictRelease seq s = _
  unfold execVerdictRelease
  rw [State.onData_running s _ hs, hf] <;> rfl

theorem HostSide.settle_hasReleased {h : HostSide} {seq : Nat} (hr : h.hasReleased seq) : h.settle.hasReleased seq :=
  HostSide.sameItems.hasReleased (.of_insp (HostSide.settle_insp h)) hr

/-- The lines of a digest store after its oldest open line completes, while that line is among the most recent 4,096 (R220, R222). -/
theorem LineDig.modFirst_open {pre rest : List LineDig} {d : LineDig} (f : LineDig → LineDig) (hpre : ∀ e ∈ pre, e.dig.isSome = true)
    (hd : d.dig = none) : modFirst (fun d : LineDig => d.dig.isNone) f (pre ++ d :: rest) = pre ++ f d :: rest := by
  induction pre with
  | nil => simp [modFirst, hd]
  | cons e pre ih =>
    have he : e.dig.isNone = false := by simpa using hpre e (by simp)
    simp only [List.cons_append, modFirst, he, Bool.false_eq_true, if_false, ih fun e h => hpre e (List.mem_cons_of_mem _ h)]

/-- The host side with the move of cluster `k`'s logical ID accepted, and the re-arm once no other spare is awaited (R213, R215). -/
def HostSide.respared (h : HostSide) (k pos : Nat) (r : Recipe) : HostSide :=
  let g := ({ h with insp := { h.insp with respare := h.insp.respare.filter fun x => x.1 != k } }).addCommit (.moveId k pos)
  if (h.insp.respare.filter fun x => x.1 != k).isEmpty && !((List.range 8).any fun k => bit r.cluMask k && g.cluHalted k)
  then g.addCommit .rearm else g

theorem HostSide.respared_eq (h : HostSide) (k pos : Nat) (r : Recipe) : ∃ more : List Commit, h.respared k pos r =
    { h with insp := { h.insp with respare := h.insp.respare.filter fun x => x.1 != k,
                                   commits := h.insp.commits ++ .moveId k pos :: more } } := by
  unfold HostSide.respared HostSide.addCommit
  dsimp only
  split
  · exact ⟨[.rearm], by simp⟩
  · exact ⟨[], rfl⟩

theorem execSpareRestart_running (s : State) (k pos : Nat) (r : Recipe) (hs : s.running) (hh : s.host.insp.halted = true)
    (hr : s.host.insp.armed = some r) (hq : s.host.insp.haltReq = none)
    (hf : s.host.insp.respare.find? (fun x => x.1 == k) = some (k, pos)) :
    exec (.spareRestart k) s = .next { s with host := (s.host.respared k pos r).settle } := by
  show execSpareRestart k s = _
  unfold execSpareRestart
  rw [State.onData_running s _ hs, hf, hr]
  dsimp only
  rw [if_neg (by simp [hh, hq])]
  rfl

/-- The lines that context `x`'s digest store keeps (R222). -/
def HostSide.keptLines (h : HostSide) (x : Nat) (l : List LineDig) : List LineDig :=
  l.filter fun d => (l.getLast?.map (·.idx)).getD 0 < d.idx + 4096 || h.needsLine x d

def HostSide.putLines (h : HostSide) (x : Nat) (l : List LineDig) : HostSide :=
  { h with insp := { h.insp with lineDigs := h.insp.lineDigs.put x l } }

theorem HostSide.lineDigs_settle_putLines (h : HostSide) (x : Nat) (l : List LineDig) : (h.putLines x l).settle.lineDigs x = l := by
  simp [HostSide.lineDigs, HostSide.putLines, SMap.get_put]

theorem execLineDigestDone_open (s : State) (x : Nat) (pre rest : List LineDig) (d : LineDig) (hu : s.up)
    (hl : s.host.lineDigs x = pre ++ d :: rest) (hpre : ∀ e ∈ pre, e.dig.isSome = true) (hd : d.dig = none) :
    exec (.lineDigestDone x) s = .next { s with host :=
      (s.host.putLines x (s.host.keptLines x (pre ++ { d with dig := some (lineDigest x d), raw := [] } :: rest))).settle } := by
  show execLineDigestDone x s = _
  unfold execLineDigestDone
  rw [State.onHost_up s _ hu, hl, LineDig.modFirst_open _ hpre hd, if_neg (by simp)]
  rfl

/-- Settles O22: each command through what it makes of the INSPECT engine. -/
theorem haltRestartAndRelease : Obligations.HaltRestartAndRelease := by
  unfold Obligations.HaltRestartAndRelease
  refine ⟨?halt, ?spare, ?release, ?turn, ?digest⟩
  case halt =>
    intro s cause r hs hc hr
    refine ⟨_, execRecipeHalt_running s cause r hs hc hr, ?_⟩
    simpa using s.host.haltedFor_halted r cause
  case spare =>
    intro s k pos r hs hh hr hq hf
    obtain ⟨more, hg⟩ := s.host.respared_eq k pos r
    refine ⟨_, execSpareRestart_running s k pos r hs hh hr hq hf, ?_, ?_, ?_⟩ <;> rw [hg]
    · simp
    · simp
    · exact State.changes_of s _ _ _ rfl fun _ _ _ => rfl
  case release =>
    intro s seq it r hs hf hr hturn
    have hfound := List.find?_some hf
    have hseq : it.seq = seq := by simp at hfound; exact hfound.1
    have hwait : s.host.waitsTurn it = false := by
      simp only [HostSide.waitsTurn, List.any_eq_false, Bool.and_eq_true, beq_iff_eq, decide_eq_true_eq, Bool.not_eq_true', not_and]
      rintro i hi ⟨hrec, hlt⟩ hrel
      simp [hturn i hi hrec hlt] at hrel
    refine ⟨fun hforced hclosed => ⟨_, execUndecidedRelease_running s seq hs it hf, HostSide.settle_hasReleased ?_⟩,
      fun hj => ⟨_, execVerdictRelease_running s seq hs it hf, HostSide.settle_hasReleased ?_⟩⟩
    · rw [if_neg (by simp [hforced, hwait, Option.isSome_iff_ne_none.mp hclosed])]
      exact hseq ▸ HostSide.release_hasReleased _ _ _ _ _ r hr
    · obtain ⟨⟨blk, cause⟩, hj⟩ := Option.isSome_iff_exists.mp hj
      simp only [hj, hwait]
      exact hseq ▸ HostSide.release_hasReleased _ _ _ _ _ r hr
  case turn =>
    intro s seq it i hs hset hf hi hrec hlt hrel
    have hwait : s.host.waitsTurn it = true := by
      simp only [HostSide.waitsTurn, List.any_eq_true]
      exact ⟨i, hi, by simp [hrec, hlt, hrel]⟩
    rw [execUndecidedRelease_running s seq hs it hf, execVerdictRelease_running s seq hs it hf, if_pos (by simp [hwait])]
    refine ⟨by rw [HostSide.settle_of_settled _ hset], ?_⟩
    split <;> simp [hwait, HostSide.settle_of_settled _ hset]
  case digest =>
    intro s x pre rest d hu hl hpre hd hrecent
    refine ⟨_, execLineDigestDone_open s x pre rest d hu hl hpre hd, ?_, State.changes_of s _ _ _ rfl fun _ _ _ => rfl⟩
    rw [HostSide.lineDigs_settle_putLines]
    refine List.mem_filter.mpr ⟨by simp, ?_⟩
    rw [List.getLast?_append, List.getLast?_cons]
    cases h : rest.getLast? <;> simp_all

end Sys2Proof.Machine

/-! SUPPORT. Commit points (R16, R20, R195, R210, R217, R225): what the work of a commit point leaves of the plan in force, which is the
armed recipe, the commit points that wait, the map of logical cores, the partitions, and the words that show them. -/

namespace Sys2Proof.Machine
open Sys2Proof

/-! ### The plan in force -/

/-- Words of the unit map (R217), DET_CSEQ (R225), and the active copies of the Sluice tables (R194). -/
def planWord (a : Nat) : Prop :=
  (0x800 ≤ a ∧ a < 0x810) ∨ a = 0x82C ∨ (0x108000 ≤ a ∧ a < 0x115000 ∧ 0x400 ≤ (a - 0x108000) % 0x800)

/-- The plan in force is that of `h`. -/
structure HostSide.KeepsPlan (h g : HostSide) : Prop where
  armed : g.insp.armed = h.insp.armed
  armedSlot : g.insp.armedSlot = h.insp.armedSlot
  halted : g.insp.halted = h.insp.halted
  commits : g.insp.commits = h.insp.commits
  siteOf : g.insp.siteOf = h.insp.siteOf
  fenced : g.insp.fenced = h.insp.fenced
  respare : g.insp.respare = h.insp.respare
  comp : g.comp = h.comp
  words : ∀ a, planWord a → g.word a = h.word a

namespace HostSide.KeepsPlan

variable {h g k : HostSide}

theorem refl (h : HostSide) : h.KeepsPlan h := ⟨rfl, rfl, rfl, rfl, rfl, rfl, rfl, rfl, fun _ _ => rfl⟩

theorem trans (h₁ : h.KeepsPlan g) (h₂ : g.KeepsPlan k) : h.KeepsPlan k :=
  ⟨h₂.armed.trans h₁.armed, h₂.armedSlot.trans h₁.armedSlot, h₂.halted.trans h₁.halted, h₂.commits.trans h₁.commits,
    h₂.siteOf.trans h₁.siteOf, h₂.fenced.trans h₁.fenced, h₂.respare.trans h₁.respare, h₂.comp.trans h₁.comp, fun a ha => (h₂.words a ha).trans (h₁.words a ha)⟩

/-- Whatever else changes, the plan stays where the engines and the words stay. -/
theorem of_insp (hi : g.insp = h.insp) (hc : g.comp = h.comp) (hw : ∀ a, planWord a → g.word a = h.word a) : h.KeepsPlan g := by
  refine ⟨?_, ?_, ?_, ?_, ?_, ?_, ?_, hc, hw⟩ <;> rw [hi]

theorem set (h : HostSide) (f : RF) (v : Nat) (hf : ¬ planWord f.addr) : h.KeepsPlan (h.set f v) :=
  of_insp rfl rfl fun a ha => h.word_set_ne f v a fun e => hf (e ▸ ha)

/-- Words from 0x200000 on, of channels, cores and Gauge, show nothing of the plan. -/
theorem setHigh (h : HostSide) (f : RF) (v : Nat) (hf : 0x200000 ≤ f.addr) : h.KeepsPlan (h.set f v) :=
  set h f v (by unfold planWord; omega)

theorem setWord (h : HostSide) (b : Nat) (v : Word) (hb : ¬ planWord b) : h.KeepsPlan (h.setWord b v) :=
  of_insp rfl rfl fun a ha => by
    rw [HostSide.word_setWord, if_neg]
    exact fun e => hb (e ▸ ha)

theorem foldl {α : Type} (h : HostSide) (l : List α) (f : HostSide → α → HostSide) (hf : ∀ g : HostSide, ∀ x ∈ l, g.KeepsPlan (f g x)) :
    h.KeepsPlan (l.foldl f h) :=
  List.foldlRecOn l f (refl h) fun g hg x hx => hg.trans (hf g x hx)

theorem forN (h : HostSide) (n : Nat) (f : Nat → HostSide → HostSide) (hf : ∀ g : HostSide, ∀ i < n, g.KeepsPlan (f i g)) :
    h.KeepsPlan (forN n f h) :=
  foldl h _ _ fun g i hi => hf g i (List.mem_range.mp hi)

theorem ite (h : HostSide) (c : Prop) [Decidable c] (ht : c → h.KeepsPlan g) (hf : ¬ c → h.KeepsPlan k) :
    h.KeepsPlan (if c then g else k) := by
  split
  · next hc => exact ht hc
  · next hc => exact hf hc

/-! ### Counters, log and stores -/

theorem addCounter (h : HostSide) (lo hi ovf : RF) (n : Nat) (hlo : 0x200000 ≤ lo.addr) (hhi : 0x200000 ≤ hi.addr)
    (hovf : 0x200000 ≤ ovf.addr) : h.KeepsPlan (h.addCounter lo hi ovf n) := by
  have hset2 (v : Nat) : h.KeepsPlan (h.set2 lo hi v) := (setHigh h lo v hlo).trans (setHigh _ hi _ hhi)
  unfold HostSide.addCounter
  exact ite h _ (fun _ => hset2 _) fun _ =>
    ((hset2 _).trans (setHigh _ ovf 1 hovf)).trans (setHigh _ Reg.GAUGE_INT_STATUS _ (by decide))

theorem countG (h : HostSide) (ev unit n : Nat) : h.KeepsPlan (h.countG ev unit n) :=
  foldl h _ _ fun g i _ => addCounter g _ _ _ n (by simp [Reg.GCNT_VALUE_LO]; omega) (by simp [Reg.GCNT_VALUE_HI]; omega)
    (by simp [Reg.GCNT_CFG.OVF]; omega)

theorem countK (h : HostSide) (k ev n : Nat) : h.KeepsPlan (h.countK k ev n) :=
  foldl h _ _ fun g j _ => addCounter g _ _ _ n (by simp [Reg.CLCNT_VALUE_LO]; omega) (by simp [Reg.CLCNT_VALUE_HI]; omega)
    (by simp [Reg.CLCNT_CFG.OVF]; omega)

theorem countMem (h : HostSide) (load : Bool) (kind unit n : Nat) : h.KeepsPlan (h.countMem load kind unit n) := by
  unfold HostSide.countMem
  split
  · exact countK _ _ _ _
  · exact countG _ _ _ _
  · exact refl h

theorem countAccess (h : HostSide) (load : Bool) (kind unit n : Nat) : h.KeepsPlan (h.countAccess load kind unit n) := by
  unfold HostSide.countAccess
  dsimp only
  split
  · exact (countMem _ _ _ _ _).trans (countK _ _ _ _)
  · exact (countMem _ _ _ _ _).trans (countK _ _ _ _)
  · exact countMem _ _ _ _ _

theorem log (h : HostSide) (e : Env) (code unit detail addr seq : Nat) : h.KeepsPlan (h.log e code unit detail addr seq) := by
  unfold HostSide.log
  extract_lets key ce recent n x ring src pm g last g₂
  split
  · exact refl h
  · have hg : h.KeepsPlan g₂ := (of_insp (h := h) (g := g) rfl rfl fun _ _ => rfl).trans
      ((set _ Reg.PM_LOG_COUNT _ (by simp [planWord, Reg.PM_LOG_COUNT])).trans
        (set _ Reg.PM_LOG_LAST _ (by simp [planWord, Reg.PM_LOG_LAST])))
    exact ite h _ (fun _ => hg.trans (set _ Reg.PM_INT_STATUS _ (by simp [planWord, Reg.PM_INT_STATUS]))) fun _ => hg

theorem csumFail (h : HostSide) (e : Env) (kind unit addr : Nat) : h.KeepsPlan (h.csumFail e kind unit addr) := by
  unfold HostSide.csumFail
  extract_lets clear h₁ h₂ h₃ h₄
  have e₁ : h.KeepsPlan h₁ := ite h _ (fun _ => (set _ Reg.MEM_CSUM_LOC.KIND _ (by simp [planWord, Reg.MEM_CSUM_LOC.KIND])).trans
    ((set _ Reg.MEM_CSUM_LOC.UNIT _ (by simp [planWord, Reg.MEM_CSUM_LOC.UNIT])).trans
      (set _ Reg.MEM_CSUM_ADDR _ (by simp [planWord, Reg.MEM_CSUM_ADDR])))) fun _ => refl h
  have e₂ : h₁.KeepsPlan h₂ := set _ Reg.MEM_CSUM_COUNT _ (by simp [planWord, Reg.MEM_CSUM_COUNT])
  have e₃ : h₂.KeepsPlan h₃ := set _ _ _ (by simp [planWord])
  have e₄ : h₃.KeepsPlan h₄ := ite _ _ (fun _ => countK _ _ _ _) fun _ => ite _ _ (fun _ => countK _ _ _ _) fun _ => refl _
  exact (e₁.trans e₂).trans ((e₃.trans e₄).trans (log _ _ _ _ _ _ _))

theorem setStore (h : HostSide) (kind unit off n : Nat) (st : Store) : h.KeepsPlan (h.setStore kind unit off n st) := by
  unfold HostSide.setStore
  split <;> exact of_insp rfl rfl fun _ _ => rfl

theorem landPiece (h : HostSide) (e : Env) (kind unit off : Nat) (bs : List Byte) (failed : Bool) :
    h.KeepsPlan (h.landPiece e kind unit off bs failed).1 :=
  (setStore h _ _ _ _ _).trans (foldl _ _ _ fun g _ _ => csumFail g _ _ _ _)

theorem landPieces (h : HostSide) (e : Env) (kind unit off per : Nat) (bs : List Byte) (bad : List (Nat × List Byte)) :
    h.KeepsPlan (h.landPieces e kind unit off per bs bad).1 := by
  unfold HostSide.landPieces
  refine foldl_keeps (fun acc : HostSide × Bool => h.KeepsPlan acc.1) _ _ (h, false) (refl h) fun acc x hacc => ?_
  refine hacc.trans (.trans ?_ (landPiece _ _ _ _ _ _ _))
  exact ite _ _ (fun _ => csumFail _ _ _ _ _) fun _ => refl _

theorem putHbm (h : HostSide) (e : Env) (far : Nat) (bs : List Byte) : h.KeepsPlan (h.putHbm e far bs) :=
  (landPieces h _ _ _ _ _ _ _).trans (countMem _ _ _ _ _)

/-! ### Cores and stripe channels -/

theorem showPc (h : HostSide) (site : Nat) : h.KeepsPlan (h.showPc site) := by
  unfold HostSide.showPc
  split
  · exact setHigh _ _ _ (by simp [Reg.CORE_STATUS.DEPTH]; omega)
  · exact (((setHigh _ _ _ (by simp [Reg.CORE_PC_LO]; omega)).trans (setHigh _ _ _ (by simp [Reg.CORE_PC_HI.HI]; omega))).trans
      (setHigh _ _ _ (by simp [Reg.CORE_PC_HI.SPACE]; omega))).trans (setHigh _ _ _ (by simp [Reg.CORE_STATUS.DEPTH]; omega))

theorem setCore (h : HostSide) (site : Nat) (x : CoreSt) : h.KeepsPlan (h.setCore site x) := of_insp rfl rfl fun _ _ => rfl

theorem clearSite (h : HostSide) (site : Nat) : h.KeepsPlan (h.clearSite site) := (setCore h site _).trans (showPc _ site)

theorem setCoreState (h : HostSide) (site v : Nat) : h.KeepsPlan (h.set (Reg.CORE_STATUS.STATE site) v) :=
  setHigh _ _ _ (by simp [Reg.CORE_STATUS.STATE]; omega)

theorem stopCores (h : HostSide) (r : Recipe) (disarm : Bool) : h.KeepsPlan (h.stopCores r disarm) := by
  refine foldl h _ _ fun g c _ => ?_
  split
  · exact refl g
  · exact ite _ _ (fun _ => clearSite _ _) fun _ => (clearSite _ _).trans (setCoreState _ _ _)

theorem leaveLists (h : HostSide) (r : Recipe) (k : Nat) : h.KeepsPlan (h.leaveLists r k) :=
  foldl h _ _ fun _ _ _ => ite _ _ (fun _ => refl _) fun _ => (clearSite _ _).trans (setCoreState _ _ _)

theorem accWrite (h : HostSide) (b : Nat) (v : Word) (c : Bool) (hb : ¬ planWord b) :
    h.KeepsPlan { h with regs := h.regs.accWrite b v c } :=
  of_insp rfl rfl fun a ha => by
    unfold HostSide.word RegFile.accWrite
    rw [RegFile.word_setWord, if_neg]
    exact fun e => hb (e ▸ ha)

theorem setChan (h : HostSide) (k i : Nat) (x : Lsc) : h.KeepsPlan (h.setChan k i x) := of_insp rfl rfl fun _ _ => rfl

theorem showChan (h : HostSide) (k i : Nat) : h.KeepsPlan (h.showChan k i) :=
  ((setHigh _ _ _ (by simp [Reg.LSC_POSTED]; omega)).trans (setHigh _ _ _ (by simp [Reg.LSC_FREED]; omega))).trans
    (setHigh _ _ _ (by simp [Reg.LSC_HELD]; omega))

theorem loadChannels (h : HostSide) (k : Nat) (bs : List Byte) : h.KeepsPlan (h.loadChannels k bs) := by
  have hcfg (k i d : Nat) : ¬ planWord ((Reg.LSC_CFG.EN k i).addr + d) := by
    simp only [planWord, Reg.LSC_CFG.EN]
    omega
  refine forN h 16 _ fun g i _ => ?_
  refine .trans ?_ (showChan _ k i)
  have hcleared := ((setWord g _ (segWord bs (32 * i) &&& lscCfgMask &&& ~~~ 1#32) (hcfg k i 0)).trans
    (accWrite _ _ (segWord bs (32 * i + 4)) false (hcfg k i 4))).trans (setChan _ k i {})
  refine hcleared.trans (ite _ _ (fun _ => refl _) fun _ => ite _ _ (fun _ => ?_) fun _ => setWord _ _ _ (hcfg k i 0))
  exact setHigh _ _ _ (by simp [Reg.LSC_ERR.CFG_REFUSED]; omega)

theorem applySegs (h : HostSide) (e : Env) (r : Recipe) (k : Nat) : h.KeepsPlan (h.applySegs e r k) := by
  refine foldl h _ _ fun g s _ => ?_
  obtain ⟨kind, unit, dest, bs⟩ := s
  dsimp only
  split
  · split
    · exact (landPieces _ _ _ _ _ _ _ _).trans (countAccess _ _ _ _ _)
    · exact refl g
  · exact ite _ _ (fun _ => loadChannels _ _ _) fun _ => refl g
  · refine ite _ _ (fun _ => forN _ 32 _ fun _ i _ => accWrite _ _ _ _ ?_) fun _ => refl g
    unfold planWord
    omega
  · exact refl g

theorem takeOver (h : HostSide) (e : Env) : h.KeepsPlan (h.takeOver e) := by
  refine forN h 8 _ fun g k _ => ?_
  split
  · exact refl g
  · exact ite _ _ (fun _ => refl g) fun _ => ((leaveLists _ _ _).trans (applySegs _ _ _ _)).trans
      ⟨rfl, rfl, rfl, rfl, rfl, rfl, rfl, rfl, fun _ _ => rfl⟩

theorem initSchedule (h : HostSide) (e : Env) (r : Recipe) : h.KeepsPlan (h.initSchedule e r) := by
  have hsegs : h.KeepsPlan ((r.segs.filter fun s => s.1 == 5).foldl (fun h s => h.putHbm e s.2.2.1 s.2.2.2) h) :=
    foldl h _ _ fun _ _ _ => putHbm _ _ _ _
  unfold HostSide.initSchedule
  generalize List.foldl _ h _ = g at hsegs ⊢
  refine hsegs.trans (.trans ?_ (takeOver _ e))
  exact ⟨rfl, rfl, rfl, rfl, rfl, rfl, rfl, rfl, fun _ _ => rfl⟩

/-! ### Records, descriptors and tables -/

theorem setRing (h : HostSide) (n : Nat) (r : Ring) (hn : n < 16) : h.KeepsPlan (h.setRing n r) :=
  (of_insp (h := h) (g := { h with rings := h.rings.put n r }) rfl rfl fun _ _ => rfl).trans
    (set _ (Reg.RR_HELD n) r.held.length (by simp only [planWord, Reg.RR_HELD]; omega))

theorem addLeaf (h : HostSide) (n pos : Nat) (rcd : List Byte) (hn : n < 16) : h.KeepsPlan (h.addLeaf n pos rcd) :=
  ite _ _ (fun _ => refl h) fun _ => setRing h n _ hn

theorem produce (h : HostSide) (n : Nat) (rcd : List Byte) (hn : n < 16) : h.KeepsPlan (h.produce n rcd) := by
  unfold HostSide.produce
  refine ite _ _ (fun _ => ?_) fun _ => setRing h n _ hn
  refine ((setRing h n _ hn).trans (set _ _ _ ?_)).trans (addLeaf _ n _ _ hn)
  simp only [planWord, Reg.RR_LOST]
  omega

theorem commitRecord (h : HostSide) (kind ctx : Nat) (content : List Byte) : h.KeepsPlan (h.commitRecord kind ctx content) :=
  forN h 16 _ fun _ _ hn => ite _ _ (fun _ => produce _ _ _ hn) fun _ => refl _

theorem finishBy (h : HostSide) (b : Option (Nat × Nat)) (status detail result : Nat) : h.KeepsPlan (h.finishBy b status detail result) := by
  unfold HostSide.finishBy
  split
  · exact of_insp rfl rfl fun _ _ => rfl
  · exact refl h

theorem setSluStatus (h : HostSide) (n lo w v : Nat) (hn : n < 26) : h.KeepsPlan (h.set ⟨0x101004 + n * 0x40, lo, w⟩ v) :=
  set _ _ _ (by simp only [planWord]; omega)

theorem setArb (h : HostSide) (n : Nat) (x : SluArb) : h.KeepsPlan (h.setArb n x) := of_insp rfl rfl fun _ _ => rfl

/-- The loader writes the shadow copy of a table (R195). -/
theorem loaderCommit (h : HostSide) (n : Nat) (ent : Nat → Nat) (hn : n < 26) : h.KeepsPlan (h.loaderCommit n ent) := by
  have hshadow : h.KeepsPlan (Sys2Proof.forN 256 (fun i g => g.setWord (shadowAddr n i) (BitVec.ofNat 32 (ent i))) h) :=
    forN h 256 _ fun g i hi => setWord g _ _ (by simp only [planWord, shadowAddr]; omega)
  exact ((hshadow.trans (setSluStatus _ n 0 1 1 hn)).trans (setSluStatus _ n 2 1 1 hn)).trans (setArb _ _ _)

theorem retireOlds (h : HostSide) : h.KeepsPlan h.retireOlds := by
  refine ite _ _ (fun _ => refl h) fun _ => ?_
  refine (forN h 26 _ fun g n hn => ?_).trans ⟨rfl, rfl, rfl, rfl, rfl, rfl, rfl, rfl, fun _ _ => rfl⟩
  exact ite _ _ (fun _ => loaderCommit _ _ _ hn) fun _ => refl g

theorem disown (h : HostSide) (r : Recipe) : h.KeepsPlan (h.disown r) := by
  refine foldl h _ _ fun g n hn => setSluStatus g n 2 1 0 ?_
  simp [Recipe.images] at hn
  exact hn.1

end HostSide.KeepsPlan

end Sys2Proof.Machine

/-! SUPPORT. Each commit point taking effect (R16, R20, R195, R210, R217, R225). -/

namespace Sys2Proof
/-! ### Sparse maps -/

/-- Writing entries with distinct keys one after the other. -/
theorem SMap.find_foldl_put {α : Type} (l : List (Nat × α)) (hl : (l.map (·.1)).Nodup) (m : SMap α) (c : Nat) :
    SMap.find (l.foldl (fun m x => m.put x.1 x.2) m) c = (SMap.find l c).or (SMap.find m c) := by
  induction l generalizing m with
  | nil => rfl
  | cons x l ih =>
    obtain ⟨k, v⟩ := x
    simp only [List.map_cons, List.nodup_cons] at hl
    rw [List.foldl_cons, ih hl.2, SMap.find_put]
    by_cases hc : c = k
    · subst hc
      have hnone : SMap.find l c = none := by
        have hkeys := hl.1
        clear hl ih
        induction l with
        | nil => rfl
        | cons y l ih =>
          simp only [List.map_cons, List.mem_cons, not_or] at hkeys
          rw [SMap.find, if_neg hkeys.1, ih hkeys.2]
      simp [SMap.find, hnone]
    · simp [SMap.find, hc]

theorem SMap.find_filter {α : Type} (m : SMap α) (p : Nat → Bool) (c : Nat) :
    SMap.find (m.filter fun x => p x.1) c = if p c then SMap.find m c else none := by
  induction m with
  | nil => simp [SMap.find]
  | cons x m ih =>
    obtain ⟨k, v⟩ := x
    by_cases hk : p k = true <;> by_cases hc : c = k <;> simp_all [SMap.find]

theorem SMap.find_foldl_erase {α : Type} (l : List Nat) (m : SMap α) (c : Nat) :
    SMap.find (l.foldl (fun m k => m.erase k) m) c = if c ∈ l then none else SMap.find m c := by
  induction l generalizing m with
  | nil => simp
  | cons k l ih =>
    rw [List.foldl_cons, ih, SMap.find_erase]
    by_cases hc : c = k <;> by_cases hl : c ∈ l <;> simp [hc, hl]

theorem SMap.find_foldl_putIf {α : Type} (l : List Nat) (p : Nat → Bool) (v : α) (m : SMap α) (c : Nat) :
    SMap.find (l.foldl (fun m k => if p k then m.put k v else m) m) c = if c ∈ l ∧ p c then some v else SMap.find m c := by
  induction l generalizing m with
  | nil => simp
  | cons k l ih =>
    rw [List.foldl_cons, ih]
    by_cases hl : c ∈ l ∧ p c = true
    · simp [hl]
    · rw [if_neg hl]
      by_cases hk : p k = true
      · rw [if_pos hk, SMap.find_put]
        by_cases hc : c = k <;> simp_all
      · rw [if_neg hk]
        by_cases hc : c = k <;> simp_all

end Sys2Proof

namespace Sys2Proof.Machine
open Sys2Proof

theorem HostSide.KeepsPlan.get {h g : HostSide} (hk : h.KeepsPlan g) (f : RF) (hf : planWord f.addr) : g.get f = h.get f :=
  HostSide.get_of_word _ _ _ (hk.words _ hf)

theorem planWord_cseq : planWord Reg.DET_CSEQ.addr := .inr (.inl rfl)

theorem HostSide.KeepsPlan.cseq {h g : HostSide} (hk : h.KeepsPlan g) : g.get Reg.DET_CSEQ = h.get Reg.DET_CSEQ :=
  hk.get _ planWord_cseq

theorem HostSide.nextCseq_cseq (h : HostSide) : h.nextCseq.get Reg.DET_CSEQ = (h.get Reg.DET_CSEQ + 1) % 2 ^ 32 :=
  HostSide.get_set_self h Reg.DET_CSEQ _ (by simp [RF.fits, Reg.DET_CSEQ])

theorem HostSide.nextCseq_word (h : HostSide) (a : Nat) (ha : a ≠ 0x82C) : h.nextCseq.word a = h.word a :=
  HostSide.word_set_ne h Reg.DET_CSEQ _ a ha

/-- The moves of logical IDs that were awaited are accepted as commit points (R213). -/
theorem HostSide.foldl_addMove (h : HostSide) (l : List (Nat × Nat)) :
    l.foldl (fun h x => h.addCommit (.moveId x.1 x.2)) h
      = { h with insp := { h.insp with commits := h.insp.commits ++ l.map fun x => .moveId x.1 x.2 } } := by
  induction l generalizing h with
  | nil => simp
  | cons x l ih =>
    rw [List.foldl_cons, ih]
    simp [HostSide.addCommit]

/-- The oldest commit point, which takes effect (R16). -/
def HostSide.without (h : HostSide) (rest : List Commit) : HostSide := { h with insp := { h.insp with commits := rest } }

theorem execCommitPointApply_due (s : State) (c : Commit) (rest : List Commit) (hs : s.running) (hc : s.host.insp.commits = c :: rest)
    (hdue : s.host.commitDue c = true) :
    exec .commitPointApply s = .next { s with host := ((s.host.without rest).applyCommit s.env c).settle } := by
  show execCommitPointApply s = _
  unfold execCommitPointApply
  rw [State.onData_running s _ hs, hc]
  dsimp only
  rw [if_pos hdue]
  rfl

/-! ### A disarm (R339) -/

theorem HostSide.disarm_spec (h : HostSide) (r : Recipe) (hr : h.insp.armed = some r) :
    h.disarm.insp.commits = h.insp.commits ++ (h.insp.respare.map fun x => .moveId x.1 x.2) ∧ h.disarm.insp.armed = none
      ∧ h.disarm.get Reg.DET_CSEQ = h.get Reg.DET_CSEQ := by
  have hstop : h.KeepsPlan ((r :: h.insp.olds.filter h.runs).foldl (fun h r => h.stopCores r true) h) :=
    .foldl h _ _ fun _ _ _ => .stopCores _ _ _
  unfold HostSide.disarm
  rw [hr]
  dsimp only
  generalize List.foldl (fun h r => h.stopCores r true) h _ = g at hstop ⊢
  rw [HostSide.foldl_addMove]
  have hold := HostSide.KeepsPlan.retireOlds { g with insp := { g.insp with
    olds := r :: g.insp.olds, armed := none, armedSlot := 255, winGo := false, kept := [], halted := false, await := false,
    haltReq := none, restart := none, iterDue := false, iterPend := [], respare := [], items := g.insp.items.map fun i => i.force 5,
    commits := g.insp.commits ++ g.insp.respare.map fun x => .moveId x.1 x.2 } }
  refine ⟨hold.commits.trans ?_, hold.armed, hold.cseq.trans hstop.cseq⟩
  rw [← hstop.commits, ← hstop.respare]

/-! ### A change of a partition (R20, R356) -/

theorem HostSide.renumber_of_running (h : HostSide) (k : Nat) (hk : h.cluHalted k = false) : h.renumber k = h := by
  unfold HostSide.renumber
  rw [if_pos (by simp [hk])]

theorem HostSide.foldl_renumber_of_running (h : HostSide) (l : List Nat) (hl : ∀ k ∈ l, h.cluHalted k = false) :
    l.foldl HostSide.renumber h = h := by
  induction l with
  | nil => rfl
  | cons k l ih =>
    rw [List.foldl_cons, HostSide.renumber_of_running h k (hl k (by simp)), ih fun k hk => hl k (List.mem_cons_of_mem _ hk)]

theorem HostSide.KeepsPlan.showPart (h : HostSide) (p : Nat) (hp : p < 8) : h.KeepsPlan (h.showPart (p + 1)) := by
  have hset (g : HostSide) (f : RF) (v d : Nat) (hd : d = 0 ∨ d = 0x1C) (hf : f.addr = 0xC00 + p * 0x20 + d) : g.KeepsPlan (g.set f v) :=
    .set g f v (by unfold planWord; omega)
  exact ((((hset _ _ _ 0 (.inl rfl) rfl).trans (hset _ _ _ 0 (.inl rfl) rfl)).trans (hset _ _ _ 0 (.inl rfl) rfl)).trans
    (hset _ _ _ 0 (.inl rfl) rfl)).trans (hset _ (Reg.PART_FREE_BLOCKS p) _ 0x1C (.inr rfl) (by simp only [Reg.PART_FREE_BLOCKS]; omega))

/-- The partition that each cluster belongs to when `clusters` are given to `part`. -/
theorem HostSide.assign_spec (h : HostSide) (part clusters us : Nat)
    (hrun : ∀ k, k < 8 → bit clusters k = true → h.cluHalted k = false) :
    (h.assign part clusters us).insp.commits = h.insp.commits
      ∧ (h.assign part clusters us).get Reg.DET_CSEQ = (h.get Reg.DET_CSEQ + 1) % 2 ^ 32
      ∧ ∀ k, k < 8 → (h.assign part clusters us).partOf k
          = if bit clusters k then some part else if h.partOf k = some part then none else h.partOf k := by
  unfold HostSide.assign
  extract_lets leave kept new part₀ g₁ g₂ g₃ g₄
  have hinsp : g₂.insp = h.insp := by
    simp only [g₂]
    split <;> rfl
  have hcomp : g₂.comp = g₁.comp := by
    simp only [g₂]
    split <;> rfl
  have hlow (a : Nat) (ha : a < 0xC00) : g₂.word a = h.word a := by
    simp only [g₂]
    split
    · rfl
    · exact HostSide.word_set_ne _ _ _ _ (by simp only [Reg.PART_SLICE_US]; omega)
  have hhalted : g₃.get Reg.DET_CLU_STATE.HALTED = h.get Reg.DET_CLU_STATE.HALTED :=
    HostSide.get_of_word _ _ _ ((HostSide.nextCseq_word g₂ 0x820 (by decide)).trans (hlow 0x820 (by decide)))
  have hsame : g₄ = g₃ := HostSide.foldl_renumber_of_running g₃ _ fun k hk => by
    obtain ⟨hk₁, hk₂⟩ := List.mem_filter.mp hk
    unfold HostSide.cluHalted
    rw [hhalted]
    exact hrun k (List.mem_range.mp hk₁) hk₂
  have hshow : g₃.KeepsPlan ((List.range 8).foldl (fun h p => h.showPart (p + 1)) g₄) := by
    rw [hsame]
    exact .foldl g₃ _ _ fun g p hp => .showPart g p (List.mem_range.mp hp)
  refine ⟨hshow.commits.trans (congrArg Inspect.commits hinsp), ?_, fun k hk => ?_⟩
  · rw [hshow.cseq, HostSide.nextCseq_cseq, HostSide.get_of_word g₂ h _ (hlow 0x82C (by decide))]
  · have hpart : ((List.range 8).foldl (fun h p => h.showPart (p + 1)) g₄).partOf k = SMap.find new k := by
      unfold HostSide.partOf
      rw [hshow.comp]
      exact congrArg (fun c : Compute => SMap.find c.part k) hcomp
    rw [hpart, SMap.find_foldl_putIf, SMap.find_foldl_erase]
    simp only [leave, List.mem_filter, List.mem_range, hk, true_and, Bool.and_eq_true, beq_iff_eq, Bool.not_eq_true',
      HostSide.partOf]
    by_cases hb : bit clusters k = true
    · simp [hb]
    · simp only [hb, if_false, Bool.false_eq_true, and_true]
      rfl

/-! ### A move of a logical ID (R217) -/

/-- Each logical core of a cluster is mapped once, and to a core of that cluster (R217). -/
theorem mapSites_keys (k fenced moved : Nat) :
    ((mapSites k fenced moved).map (·.1)).Nodup ∧ ∀ x ∈ mapSites k fenced moved, x.1 / 8 = k := by
  have hbase (p : List Nat) : (((p.take 8).mapIdx fun j i => (8 * k + j, 9 * k + i)).map (·.1)).Nodup
      ∧ ∀ x ∈ (p.take 8).mapIdx fun j i => (8 * k + j, 9 * k + i), x.1 / 8 = k := by
    refine ⟨?_, fun x hx => ?_⟩
    · have hkeys : ((p.take 8).mapIdx fun j i => (8 * k + j, 9 * k + i)).map (·.1) = (List.range (p.take 8).length).map (8 * k + ·) :=
        List.ext_getElem (by simp) fun j _ _ => by simp
      rw [hkeys]
      exact List.nodup_range.map fun i j hij => by omega
    · obtain ⟨j, hj, rfl⟩ := List.mem_mapIdx.mp hx
      simp at hj ⊢
      omega
  unfold mapSites
  extract_lets rf p base
  split
  · split
    · next spare _ =>
      have hkeys : (base.map fun x => if x.2 == 9 * k + moved then (x.1, 9 * k + spare) else x).map (·.1) = base.map (·.1) := by
        rw [List.map_map]
        refine List.map_congr_left fun x _ => ?_
        simp only [Function.comp]
        split <;> rfl
      refine ⟨hkeys ▸ (hbase p).1, fun x hx => ?_⟩
      have hx' : x.1 ∈ base.map (·.1) := hkeys ▸ List.mem_map_of_mem hx
      obtain ⟨y, hy, hxy⟩ := List.mem_map.mp hx'
      exact hxy ▸ (hbase p).2 y hy
    · exact hbase p
  · exact hbase p

theorem HostSide.KeepsPlan.showIds (h : HostSide) (k : Nat) : h.KeepsPlan (h.showIds k) := by
  refine .forN h 9 _ fun g i _ => ?_
  have hset (g : HostSide) (lo w v : Nat) : g.KeepsPlan (g.set ⟨0x400000 + (9 * k + i) * 0x2000, lo, w⟩ v) := .setHigh _ _ _ (by simp; omega)
  exact (((hset _ 8 6 _).trans (hset _ 14 1 _)).trans (hset _ 15 1 _)).trans (hset _ 16 1 _)

@[simp] theorem HostSide.showIds_insp (h : HostSide) (k : Nat) : (h.showIds k).insp = h.insp :=
  forN_keeps (fun g : HostSide => g.insp = h.insp) 9 _ h rfl fun _ _ hg => hg

theorem foldl_bits_le (l : List Nat) (p : Nat → Bool) (n : Nat) :
    (l.filter p).foldl (fun n i => n + 2 ^ i) n ≤ n + (l.map (2 ^ ·)).sum := by
  induction l generalizing n with
  | nil => simp
  | cons i l ih =>
    have hn := ih n
    have hi := ih (n + 2 ^ i)
    simp only [List.filter_cons, List.map_cons, List.sum_cons]
    split
    · rw [List.foldl_cons]
      exact hi.trans (Nat.add_assoc _ _ _).le
    · exact hn.trans (Nat.add_le_add_left (Nat.le_add_left _ _) _)

theorem HostSide.fencedBits_lt (h : HostSide) (k : Nat) : h.fencedBits k < 2 ^ 9 :=
  Nat.lt_of_le_of_lt (foldl_bits_le _ _ 0) (by decide)

/-- A new map changes the sites of logical cores only (R217). -/
theorem HostSide.remap_eq (h : HostSide) (k : Nat) :
    h.remap k = { h with insp := { h.insp with siteOf := (h.remap k).insp.siteOf } } := by
  unfold HostSide.remap
  split <;> rfl

/-- The cores of a cluster that is not HALTED stand where its map places them. -/
theorem HostSide.remap_siteOf (h : HostSide) (k c : Nat) (hc : c / 8 = k) : (h.remap k).siteOf c =
    if h.cluHalted k then h.siteOf c else SMap.find (mapSites k (h.fencedBits k) (h.movedFromOf k)) c := by
  unfold HostSide.remap
  split
  · rfl
  · unfold HostSide.siteOf
    rw [SMap.find_foldl_put _ (mapSites_keys _ _ _).1, SMap.find_filter h.insp.siteOf (fun x => x / 8 != k)]
    simp [hc]

/-- The map word of a cluster shows its fenced sites, its spare and whether it is HALTED. -/
theorem HostSide.showMap_get (h : HostSide) (k : Nat) (hk : k < 8) (hw : h.mapWord k < 2 ^ 16) :
    (h.showMap k).get ⟨0x800 + k / 2 * 4, k % 2 * 16, 16⟩ = h.mapWord k := by
  unfold HostSide.showMap
  rw [(HostSide.KeepsPlan.showIds _ k).get _ (.inl (by dsimp only; omega)), HostSide.get_set_self _ _ _ (by simp only [RF.fits]; omega)]
  exact Nat.mod_eq_of_lt hw

theorem HostSide.showMap_cseq (h : HostSide) (k : Nat) (hk : k < 8) : (h.showMap k).get Reg.DET_CSEQ = h.get Reg.DET_CSEQ := by
  unfold HostSide.showMap
  rw [(HostSide.KeepsPlan.showIds _ k).cseq]
  exact HostSide.get_of_word _ _ _ (HostSide.word_set_ne _ _ _ _ (by simp only [Reg.DET_CSEQ]; omega))

@[simp] theorem HostSide.showMap_insp (h : HostSide) (k : Nat) : (h.showMap k).insp = h.insp := HostSide.showIds_insp _ _

/-- The map word of a cluster whose spare stands in for position `pos`, once its map is formed. -/
theorem HostSide.mapWord_remap (h : HostSide) (k pos : Nat) (hpos : h.movedFromOf k = pos) :
    (h.remap k).mapWord k = h.fencedBits k + pos * 2 ^ 9 + (if h.cluHalted k then 2 ^ 13 else 0) := by
  have hbits : (h.remap k).fencedBits k = h.fencedBits k := by rw [HostSide.remap_eq]; rfl
  have hhalted : (h.remap k).cluHalted k = h.cluHalted k := by rw [HostSide.remap_eq]; rfl
  have hmoved : (h.remap k).movedFromOf k = pos := by rw [HostSide.remap_eq]; exact hpos
  unfold HostSide.mapWord
  rw [hbits, hhalted, hmoved]
  cases h.cluHalted k <;> rfl

/-- A new map, shown and counted (R217, R225). -/
theorem HostSide.remap_shown (h : HostSide) (k pos : Nat) (hk : k < 8) (hp : pos < 9) (hpos : h.movedFromOf k = pos) :
    ((h.remap k).showMap k).nextCseq.insp.commits = h.insp.commits
      ∧ ((h.remap k).showMap k).nextCseq.get Reg.DET_CSEQ = (h.get Reg.DET_CSEQ + 1) % 2 ^ 32
      ∧ ((h.remap k).showMap k).nextCseq.get ⟨0x800 + k / 2 * 4, k % 2 * 16, 16⟩
          = h.fencedBits k + pos * 2 ^ 9 + (if h.cluHalted k then 2 ^ 13 else 0)
      ∧ ∀ c, c / 8 = k → ((h.remap k).showMap k).nextCseq.siteOf c =
          (if h.cluHalted k then h.siteOf c else SMap.find (mapSites k (h.fencedBits k) pos) c) := by
  have hremap := h.remap_eq k
  have hlt := h.fencedBits_lt k
  have hword := h.mapWord_remap k pos hpos
  refine ⟨?_, ?_, ?_, fun c hc => ?_⟩
  · rw [HostSide.nextCseq_insp, HostSide.showMap_insp, hremap]
  · rw [HostSide.nextCseq_cseq, HostSide.showMap_cseq _ k hk, hremap]
    rfl
  · rw [HostSide.get_of_word _ ((h.remap k).showMap k) _ (HostSide.nextCseq_word _ _ (by dsimp only; omega)),
      HostSide.showMap_get _ k hk (by rw [hword]; split <;> omega), hword]
  · have hsite : ((h.remap k).showMap k).nextCseq.siteOf c = (h.remap k).siteOf c := by
      unfold HostSide.siteOf
      rw [HostSide.nextCseq_insp, HostSide.showMap_insp]
    rw [hsite, HostSide.remap_siteOf h k c hc, hpos]

/-- What a change of a cluster's map makes of it: the map word, and the sites unless the cluster is HALTED (R217). -/
theorem HostSide.applyMap_spec (h : HostSide) (k pos : Nat) (hk : k < 8) (hp : pos < 9) :
    (h.applyMap k pos).insp.commits = h.insp.commits
      ∧ (h.applyMap k pos).get Reg.DET_CSEQ = (h.get Reg.DET_CSEQ + 1) % 2 ^ 32
      ∧ (h.applyMap k pos).get ⟨0x800 + k / 2 * 4, k % 2 * 16, 16⟩
          = h.fencedBits k + pos * 2 ^ 9 + (if h.cluHalted k then 2 ^ 13 else 0)
      ∧ ∀ c, c / 8 = k → (h.applyMap k pos).siteOf c =
          (if h.cluHalted k then h.siteOf c else SMap.find (mapSites k (h.fencedBits k) pos) c) := by
  obtain ⟨hcommits, hcseq, hshown, hsites⟩ := HostSide.remap_shown
    { h with insp := { h.insp with movedFrom := h.insp.movedFrom.put k pos } } k pos hk hp
    (by simp [HostSide.movedFromOf, SMap.get_put])
  unfold HostSide.applyMap
  rw [if_pos hp]
  extract_lets insp₀ g₁ g₂ g₃
  have hrec : g₃.KeepsPlan (g₃.commitRecord 3 0 g₃.unitMap) := .commitRecord _ _ _ _
  refine ⟨hrec.commits.trans hcommits, hrec.cseq.trans hcseq, ?_, fun c hc => ?_⟩
  · exact (hrec.get _ (.inl (by dsimp only; omega))).trans hshown
  · exact (congrArg (fun m => SMap.find m c) hrec.siteOf).trans (hsites c hc)

/-! ### The tables of a recipe (R194, R195) -/

/-- Words written one after the other at addresses that differ. -/
theorem HostSide.word_forN_setWord (h : HostSide) (f : Nat → Nat) (v : Nat → Word) (hf : ∀ i j, f i = f j → i = j) (m : Nat) :
    (∀ i < m, (forN m (fun i g => g.setWord (f i) (v i)) h).word (f i) = v i)
      ∧ ∀ a, (∀ i < m, a ≠ f i) → (forN m (fun i g => g.setWord (f i) (v i)) h).word a = h.word a := by
  induction m with
  | zero => exact ⟨fun i hi => absurd hi (Nat.not_lt_zero i), fun a _ => rfl⟩
  | succ m ih =>
    rw [forN_succ]
    refine ⟨fun i hi => ?_, fun a ha => ?_⟩
    · rw [HostSide.word_setWord]
      split
      · next e => rw [hf i m e]
      · next e => exact ih.1 i (Nat.lt_of_le_of_ne (Nat.lt_succ_iff.mp hi) fun hm => e (congrArg f hm))
    · rw [HostSide.word_setWord, if_neg (ha m (Nat.lt_succ_self m))]
      exact ih.2 a fun i hi => ha i (Nat.lt_succ_of_lt hi)

/-- A round of a swap exchanges one entry of the two copies. -/
def HostSide.swapEntry (n i : Nat) (g : HostSide) : HostSide :=
  (g.setWord (activeAddr n i) (g.word (shadowAddr n i))).setWord (shadowAddr n i) (g.word (activeAddr n i))

theorem HostSide.word_swapEntries (h : HostSide) (n m : Nat) (hm : m ≤ 256) :
    (∀ i < 256, (forN m (HostSide.swapEntry n) h).word (activeAddr n i) = h.word (if i < m then shadowAddr n i else activeAddr n i))
      ∧ (∀ i < 256, (forN m (HostSide.swapEntry n) h).word (shadowAddr n i) = h.word (if i < m then activeAddr n i else shadowAddr n i))
      ∧ ∀ a, (a < shadowAddr n 0 ∨ shadowAddr n 0 + 0x800 ≤ a) → (forN m (HostSide.swapEntry n) h).word a = h.word a := by
  induction m with
  | zero => exact ⟨fun i _ => rfl, fun i _ => rfl, fun a _ => rfl⟩
  | succ m ih =>
    obtain ⟨hact, hsh, hother⟩ := ih (by omega)
    rw [forN_succ]
    unfold HostSide.swapEntry at *
    simp only [HostSide.word_setWord]
    refine ⟨fun i hi => ?_, fun i hi => ?_, fun a ha => ?_⟩
    · rw [if_neg (by unfold activeAddr shadowAddr; omega)]
      by_cases him : i = m
      · subst him
        rw [if_pos rfl, if_pos (Nat.lt_succ_self i), hsh i hi, if_neg (Nat.lt_irrefl i)]
      · rw [if_neg (by unfold activeAddr; omega), hact i hi]
        congr 1
        simp only [show i < m + 1 ↔ i < m by omega]
    · by_cases him : i = m
      · subst him
        rw [if_pos rfl, if_pos (Nat.lt_succ_self i), hact i hi, if_neg (Nat.lt_irrefl i)]
      · rw [if_neg (by unfold shadowAddr; omega), if_neg (by unfold activeAddr shadowAddr; omega), hsh i hi]
        congr 1
        simp only [show i < m + 1 ↔ i < m by omega]
    · rw [if_neg (by unfold shadowAddr at *; omega), if_neg (by unfold activeAddr; unfold shadowAddr at ha; omega)]
      exact hother a ha

end Sys2Proof.Machine

namespace Sys2Proof.Machine
open Sys2Proof


theorem HostSide.swapTable_eq (h : HostSide) (n : Nat) :
    h.swapTable n = ((forN 256 (HostSide.swapEntry n) h).set (Reg.SLU_STATUS.PENDING n) 0).set (Reg.SLU_STATUS.COPY n)
      ((forN 256 (HostSide.swapEntry n) h).get (Reg.SLU_STATUS.COPY n) + 1) := by
  have hentry : (fun (i : Nat) (g : HostSide) =>
      let a := g.word (activeAddr n i)
      (g.setWord (activeAddr n i) (g.word (shadowAddr n i))).setWord (shadowAddr n i) a) = HostSide.swapEntry n := rfl
  unfold HostSide.swapTable
  rw [hentry]

/-- A swap makes the shadow copy of a table the active one (R194). -/
theorem HostSide.swapTable_spec (h : HostSide) (n : Nat) :
    (h.swapTable n).insp = h.insp ∧ (h.swapTable n).comp = h.comp
      ∧ (∀ i < 256, (h.swapTable n).word (activeAddr n i) = h.word (shadowAddr n i))
      ∧ ∀ a, (a < shadowAddr n 0 ∨ shadowAddr n 0 + 0x800 ≤ a) → a ≠ 0x101004 + n * 0x40 → (h.swapTable n).word a = h.word a := by
  obtain ⟨hact, -, hother⟩ := h.word_swapEntries n 256 (Nat.le_refl _)
  have hsame : (forN 256 (HostSide.swapEntry n) h).insp = h.insp ∧ (forN 256 (HostSide.swapEntry n) h).comp = h.comp :=
    forN_keeps (fun k : HostSide => k.insp = h.insp ∧ k.comp = h.comp) 256 (HostSide.swapEntry n) h ⟨rfl, rfl⟩ fun _ _ hk => hk
  have hword (a : Nat) (ha : a ≠ 0x101004 + n * 0x40) : (h.swapTable n).word a = (forN 256 (HostSide.swapEntry n) h).word a := by
    rw [HostSide.swapTable_eq]
    exact (HostSide.word_set_ne _ _ _ a ha).trans (HostSide.word_set_ne _ _ _ a ha)
  refine ⟨?_, ?_, fun i hi => ?_, fun a ha hs => (hword a hs).trans (hother a ha)⟩
  · rw [HostSide.swapTable_eq, HostSide.set_insp, HostSide.set_insp]
    exact hsame.1
  · rw [HostSide.swapTable_eq, HostSide.set_comp, HostSide.set_comp]
    exact hsame.2
  · rw [hword _ (by unfold activeAddr; omega), hact i hi, if_pos hi]

/-- A table's entries are written to its shadow copy, which becomes the active one (R195). -/
def HostSide.installTable (h : HostSide) (n : Nat) (ents : List Nat) : HostSide :=
  let g := (h.loaderCommit n fun i => ents.getD i 0).swapTable n
  g.setArb n { g.arb n with byLoader := false }

@[simp] theorem HostSide.setArb_insp (h : HostSide) (n : Nat) (x : SluArb) : (h.setArb n x).insp = h.insp := rfl
@[simp] theorem HostSide.setArb_comp (h : HostSide) (n : Nat) (x : SluArb) : (h.setArb n x).comp = h.comp := rfl
@[simp] theorem HostSide.setArb_word (h : HostSide) (n : Nat) (x : SluArb) (a : Nat) : (h.setArb n x).word a = h.word a := rfl

theorem HostSide.loaderCommit_word (h : HostSide) (n : Nat) (ent : Nat → Nat) (hn : n < 26) :
    (∀ i < 256, (h.loaderCommit n ent).word (shadowAddr n i) = BitVec.ofNat 32 (ent i))
      ∧ ∀ a, (a < shadowAddr n 0 ∨ shadowAddr n 0 + 0x800 ≤ a) → a ≠ 0x101004 + n * 0x40 → (h.loaderCommit n ent).word a = h.word a := by
  have hset (g : HostSide) (lo w v a : Nat) (ha : a ≠ 0x101004 + n * 0x40) : (g.set ⟨0x101004 + n * 0x40, lo, w⟩ v).word a = g.word a :=
    HostSide.word_set_ne _ _ _ _ ha
  obtain ⟨hin, hout⟩ := h.word_forN_setWord (shadowAddr n) (fun i => BitVec.ofNat 32 (ent i))
    (fun i j e => by unfold shadowAddr at e; omega) 256
  have hword (a : Nat) (ha : a ≠ 0x101004 + n * 0x40) : (h.loaderCommit n ent).word a
      = (forN 256 (fun i g => g.setWord (shadowAddr n i) (BitVec.ofNat 32 (ent i))) h).word a := by
    unfold HostSide.loaderCommit
    generalize forN 256 _ h = g
    exact (hset _ 2 1 1 a ha).trans (hset _ 0 1 1 a ha)
  refine ⟨fun i hi => (hword _ (by unfold shadowAddr; omega)).trans (hin i hi), fun a ha hs => (hword a hs).trans (hout a fun i hi => ?_)⟩
  unfold shadowAddr at *
  omega

/-- What an installed table leaves: every word but those of the table and its status (R194). -/
theorem HostSide.installTable_spec (h : HostSide) (n : Nat) (ents : List Nat) (hn : n < 26) :
    (h.installTable n ents).insp = h.insp ∧ (h.installTable n ents).comp = h.comp
      ∧ (∀ i < 256, (h.installTable n ents).active n i = ents.getD i 0 % 2 ^ 32)
      ∧ ∀ a, (a < shadowAddr n 0 ∨ shadowAddr n 0 + 0x800 ≤ a) → a ≠ 0x101004 + n * 0x40 → (h.installTable n ents).word a = h.word a := by
  obtain ⟨hload, hother⟩ := h.loaderCommit_word n (fun i => ents.getD i 0) hn
  have hinsp := h.loaderCommit_insp n fun i => ents.getD i 0
  have hcomp := (HostSide.KeepsPlan.loaderCommit h n (fun i => ents.getD i 0) hn).comp
  obtain ⟨hinsp', hcomp', hact, hother'⟩ := (h.loaderCommit n fun i => ents.getD i 0).swapTable_spec n
  refine ⟨?_, ?_, fun i hi => ?_, fun a ha hs => ?_⟩
  · rw [HostSide.installTable, HostSide.setArb_insp, hinsp', hinsp]
  · rw [HostSide.installTable, HostSide.setArb_comp, hcomp', hcomp]
  · rw [HostSide.active, HostSide.installTable, HostSide.setArb_word, hact i hi, hload i hi, BitVec.toNat_ofNat]
  · rw [HostSide.installTable, HostSide.setArb_word, hother' a ha hs, hother a ha hs]

/-- The tables of a recipe installed one after the other: each holds its own entries. -/
theorem HostSide.foldl_installTable_spec (h : HostSide) (l : List Nat) (ents : Nat → List Nat) (hl : l.Nodup) (hlt : ∀ n ∈ l, n < 26) :
    (l.foldl (fun g n => g.installTable n (ents n)) h).insp = h.insp ∧ (l.foldl (fun g n => g.installTable n (ents n)) h).comp = h.comp
      ∧ (l.foldl (fun g n => g.installTable n (ents n)) h).get Reg.DET_CSEQ = h.get Reg.DET_CSEQ
      ∧ (∀ n ∈ l, ∀ i < 256, (l.foldl (fun g n => g.installTable n (ents n)) h).active n i = (ents n).getD i 0 % 2 ^ 32)
      ∧ ∀ n < 26, n ∉ l → ∀ i < 256, (l.foldl (fun g n => g.installTable n (ents n)) h).active n i = h.active n i := by
  induction l generalizing h with
  | nil => exact ⟨rfl, rfl, rfl, fun n hn => absurd hn (by simp), fun _ _ _ _ _ => rfl⟩
  | cons n l ih =>
    obtain ⟨hfresh, hl⟩ := List.nodup_cons.mp hl
    have hn := hlt n (by simp)
    obtain ⟨hinsp, hcomp, hact, hword⟩ := h.installTable_spec n (ents n) hn
    obtain ⟨hinsp', hcomp', hcseq', hact', hkeep'⟩ := ih (h.installTable n (ents n)) hl fun k hk => hlt k (List.mem_cons_of_mem _ hk)
    refine ⟨hinsp'.trans hinsp, hcomp'.trans hcomp, hcseq'.trans ?_, fun k hk i hi => ?_, fun k hk hkl i hi => ?_⟩
    · exact HostSide.get_of_word _ _ _ (hword _ (by simp only [Reg.DET_CSEQ, shadowAddr]; omega) (by simp only [Reg.DET_CSEQ]; omega))
    · obtain rfl | hk := List.mem_cons.mp hk
      · exact (hkeep' k hn hfresh i hi).trans (hact i hi)
      · exact hact' k hk i hi
    · have hkn : k ≠ n := fun e => hkl (e ▸ List.mem_cons_self)
      refine (hkeep' k hk (fun h => hkl (List.mem_cons_of_mem _ h)) i hi).trans (congrArg BitVec.toNat (hword _ ?_ ?_))
      · unfold shadowAddr activeAddr
        omega
      · unfold activeAddr
        omega

end Sys2Proof.Machine

/-! SUPPORT. A recipe taking effect (R24, R195, R210, R225, R339). -/

namespace Sys2Proof.Machine
open Sys2Proof

theorem HostSide.KeepsPlan.settle (h : HostSide) : h.KeepsPlan h.settle :=
  .of_insp h.settle_insp h.settle_comp fun a ha => h.settle_word a (by
    unfold planWord at ha
    simp only [Reg.HIF_IRQ_PENDING]
    omega)

theorem HostSide.active_of_word {h g : HostSide} {n i : Nat} (hw : g.word (activeAddr n i) = h.word (activeAddr n i)) :
    g.active n i = h.active n i := congrArg BitVec.toNat hw

theorem HostSide.KeepsPlan.active {h g : HostSide} (hk : h.KeepsPlan g) (n i : Nat) (hn : n < 26) (hi : i < 256) :
    g.active n i = h.active n i :=
  HostSide.active_of_word (hk.words _ (by unfold planWord activeAddr; omega))

/-- A table the recipe gives one slot of, it gives all slots of. -/
theorem Recipe.mem_images (r : Recipe) (n i x : Nat) (hn : n < 26) (hx : r.slot n i = some x) : n ∈ r.images := by
  simp only [Recipe.images, List.mem_filter, List.mem_range, hn, true_and, Recipe.slot, Option.isSome_map]
  rw [Recipe.slot, Option.map_eq_some_iff] at hx
  obtain ⟨seg, hseg, -⟩ := hx
  rw [hseg]
  rfl

theorem Recipe.images_lt (r : Recipe) {n : Nat} (hn : n ∈ r.images) : n < 26 :=
  List.mem_range.mp (List.mem_filter.mp hn).1

/-- A slot the recipe owns keeps the recipe's entry. -/
theorem HostSide.merged_owned (h : HostSide) (r : Recipe) (n i x : Nat) (hx : r.slot n i = some x) (hk : slotKind x = 1) :
    h.merged r n i = x := by
  unfold HostSide.merged
  rw [hx]
  exact if_pos hk

/-- The images of a recipe, installed in the active tables (R195). -/
theorem HostSide.installImages_spec (h : HostSide) (r : Recipe) (ents : Nat → Nat → Nat) :
    let g := r.images.foldl (fun g n => g.installTable n ((List.range 256).map (ents n))) h
    g.insp = h.insp ∧ g.get Reg.DET_CSEQ = h.get Reg.DET_CSEQ
      ∧ ∀ n ∈ r.images, ∀ i < 256, g.active n i = ents n i % 2 ^ 32 := by
  intro g
  obtain ⟨hinsp, -, hcseq, hact, -⟩ := h.foldl_installTable_spec r.images (fun n => (List.range 256).map (ents n))
    (List.nodup_range.filter _) fun n hn => r.images_lt hn
  refine ⟨hinsp, hcseq, fun n hn i hi => (hact n hn i hi).trans ?_⟩
  rw [List.getD_eq_getElem?_getD, List.getElem?_map, List.getElem?_range hi]
  rfl

/-- What arming a recipe makes of the plan in force. -/
theorem HostSide.arm_spec (h : HostSide) (e : Env) (slot : Nat) (r : Recipe) (b : Option (Nat × Nat)) :
    (h.arm e slot r b).insp.commits = h.insp.commits ++ (h.insp.respare.map fun x => .moveId x.1 x.2)
      ∧ (h.arm e slot r b).insp.armedSlot = slot ∧ (∃ id, (h.arm e slot r b).insp.armed = some { r with id := id })
      ∧ (h.arm e slot r b).insp.halted = false ∧ (h.arm e slot r b).get Reg.DET_CSEQ = (h.get Reg.DET_CSEQ + 1) % 2 ^ 32
      ∧ ∀ n i x, n < 26 → i < 256 → r.slot n i = some x → slotKind x = 1 → (h.arm e slot r b).active n i = x % 2 ^ 32 := by
  unfold HostSide.arm
  extract_lets h₁ ents h₂
  have hstop : h.KeepsPlan h₁ := by
    dsimp only [h₁]
    split
    · exact .ite _ _ (fun _ => .refl _) fun _ => .stopCores _ _ _
    · exact .refl _
  obtain ⟨hinsp, hcseq, hact⟩ : h₂.insp = h₁.insp ∧ h₂.get Reg.DET_CSEQ = h₁.get Reg.DET_CSEQ
      ∧ ∀ n ∈ r.images, ∀ i < 256, h₂.active n i = h₁.merged r n i % 2 ^ 32 := by
    dsimp only [h₂, ents]
    rw [List.foldl_map]
    exact h₁.installImages_spec r (h₁.merged r)
  clear_value h₁ h₂
  generalize hnamed : (if h₂.keepers.any (fun k => k.id == r.id && h₂.runs k) then _ else _ : HostSide × Recipe) = p
  have hp : h₂.KeepsPlan p.1 ∧ ∃ id, p.2 = { r with id := id } := by
    rw [← hnamed]
    split
    · exact ⟨⟨rfl, rfl, rfl, rfl, rfl, rfl, rfl, rfl, fun _ _ => rfl⟩, _, rfl⟩
    · exact ⟨.refl _, r.id, rfl⟩
  obtain ⟨g, r'⟩ := p
  obtain ⟨hg, id, hr'⟩ := hp
  dsimp -zeta only at hg hr' ⊢
  subst hr'
  extract_lets moves named src h₃ h₄ h₅ h₆
  have hmoves : h₄.insp = { h₃.insp with commits := g.insp.commits ++ g.insp.respare.map fun x => .moveId x.1 x.2 } := by
    dsimp only [h₄]
    rw [HostSide.foldl_addMove]
  have hinit : h₄.KeepsPlan (h₄.initSchedule e { r with id := id }) := .initSchedule _ _ _
  have hend : h₅.KeepsPlan (((h₆.finishBy b 0 0 (h₆.get Reg.DET_CSEQ)).retireOlds).disown { r with id := id }) :=
    (((HostSide.KeepsPlan.commitRecord _ _ _ _).trans (.finishBy _ _ _ _ _)).trans (.retireOlds _)).trans (.disown _ _)
  have hwords (a : Nat) : h₄.word a = g.word a := by
    dsimp only [h₄]
    rw [HostSide.foldl_addMove]
    rfl
  have hfields : h₅.insp = (h₄.initSchedule e { r with id := id }).insp := HostSide.nextCseq_insp _
  refine ⟨?_, ?_, ⟨id, ?_⟩, ?_, ?_, fun n i x hn hi hx hk => ?_⟩
  · rw [hend.commits, hfields, hinit.commits, hmoves, hg.commits, hg.respare, hinsp, hstop.commits, hstop.respare]
  · rw [hend.armedSlot, hfields, hinit.armedSlot, hmoves]
  · rw [hend.armed, hfields, hinit.armed, hmoves]
  · rw [hend.halted, hfields, hinit.halted, hmoves]
  · rw [hend.cseq, HostSide.nextCseq_cseq, hinit.cseq, HostSide.get_of_word _ _ _ (hwords _), hg.cseq, hcseq, hstop.cseq]
  · have hnext : h₅.active n i = (h₄.initSchedule e { r with id := id }).active n i :=
      HostSide.active_of_word (HostSide.nextCseq_word _ _ (by unfold activeAddr; omega))
    rw [hend.active n i hn hi, hnext, hinit.active n i hn hi, HostSide.active_of_word (hwords _), hg.active n i hn hi,
      hact n (r.mem_images n i x hn hx) i hi, h₁.merged_owned r n i x hx hk]

end Sys2Proof.Machine

namespace Sys2Proof.Machine
open Sys2Proof

/-! ### The oldest commit point takes effect -/

theorem commitPointApply_disarm (s : State) (b : Option (Nat × Nat)) (r : Recipe) (rest : List Commit) (hs : s.running)
    (hc : s.host.insp.commits = .disarm b :: rest) (hr : s.host.insp.armed = some r) :
    ∃ t, exec .commitPointApply s = .next t
      ∧ t.host.insp.commits = rest ++ (s.host.insp.respare.map fun x => .moveId x.1 x.2) ∧ t.host.insp.armed = none
      ∧ t.host.get Reg.DET_CSEQ = (s.host.get Reg.DET_CSEQ + 1) % 2 ^ 32 := by
  obtain ⟨hcommits, harmed, hcseq⟩ := (s.host.without rest).disarm_spec r hr
  refine ⟨_, execCommitPointApply_due s _ rest hs hc (by simp [HostSide.commitDue, Commit.clusters]), ?_⟩
  have happ : (s.host.without rest).applyCommit s.env (.disarm b)
      = (s.host.without rest).disarm.nextCseq.finishBy b 0 0 ((s.host.without rest).disarm.nextCseq.get Reg.DET_CSEQ) := by
    unfold HostSide.applyCommit
    exact if_neg (by simp [HostSide.without, hr])
  rw [happ]
  have hend : (s.host.without rest).disarm.nextCseq.KeepsPlan ((s.host.without rest).disarm.nextCseq.finishBy b 0 0
      ((s.host.without rest).disarm.nextCseq.get Reg.DET_CSEQ)).settle := .trans (.finishBy _ _ _ _ _) (.settle _)
  refine ⟨?_, ?_, ?_⟩
  · rw [hend.commits, HostSide.nextCseq_insp, hcommits]
    rfl
  · rw [hend.armed, HostSide.nextCseq_insp, harmed]
  · rw [hend.cseq, HostSide.nextCseq_cseq, hcseq]
    rfl

theorem HostSide.without_r210 (h : HostSide) (rest : List Commit) (r : Recipe) : (h.without rest).r210 r = h.r210 r := rfl

theorem HostSide.without_slotsBad (h : HostSide) (rest : List Commit) (v : Variant) (r : Recipe) :
    (h.without rest).slotsBad v r = h.slotsBad v r := rfl

theorem commitPointApply_recipe (s : State) (slot : Nat) (r : Recipe) (b : Option (Nat × Nat)) (rest : List Commit) (hs : s.running)
    (hc : s.host.insp.commits = .recipe slot r b :: rest) (hdue : s.host.commitDue (.recipe slot r b) = true)
    (hmeets : s.host.r210 r = true) (hfit : s.host.slotsBad s.variant r = false) :
    ∃ t, exec .commitPointApply s = .next t
      ∧ t.host.insp.commits = rest ++ (s.host.insp.respare.map fun x => .moveId x.1 x.2) ∧ t.host.insp.armedSlot = slot
      ∧ (∃ id, t.host.insp.armed = some { r with id := id }) ∧ t.host.insp.halted = false
      ∧ t.host.get Reg.DET_CSEQ = (s.host.get Reg.DET_CSEQ + 1) % 2 ^ 32
      ∧ ∀ n i x, n < 26 → i < 256 → r.slot n i = some x → slotKind x = 1 → t.host.active n i = x % 2 ^ 32 := by
  obtain ⟨hcommits, hslot, harmed, hhalted, hcseq, hact⟩ := (s.host.without rest).arm_spec s.env slot r b
  refine ⟨_, execCommitPointApply_due s _ rest hs hc hdue, ?_⟩
  have happ : (s.host.without rest).applyCommit s.env (.recipe slot r b) = (s.host.without rest).arm s.env slot r b := by
    simp [HostSide.applyCommit, HostSide.without_r210, HostSide.without_slotsBad, hmeets, hfit, State.env]
  rw [happ]
  generalize (s.host.without rest).arm s.env slot r b = g at hcommits hslot harmed hhalted hcseq hact ⊢
  have hend := HostSide.KeepsPlan.settle g
  exact ⟨hend.commits.trans hcommits, hend.armedSlot.trans hslot, harmed.imp fun _ h => hend.armed.trans h, hend.halted.trans hhalted,
    hend.cseq.trans hcseq, fun n i x hn hi hx hk => (hend.active n i hn hi).trans (hact n i x hn hi hx hk)⟩

/-- A recipe that no longer meets R210 gives its slots back, and is not armed. -/
theorem commitPointApply_refused (s : State) (slot : Nat) (r : Recipe) (b : Option (Nat × Nat)) (rest : List Commit) (hs : s.running)
    (hc : s.host.insp.commits = .recipe slot r b :: rest) (hdue : s.host.commitDue (.recipe slot r b) = true)
    (hfails : s.host.r210 r = false) :
    ∃ t, exec .commitPointApply s = .next t ∧ t.host.insp.commits = rest ∧ t.host.insp.armed = s.host.insp.armed
      ∧ t.host.get Reg.DET_CSEQ = s.host.get Reg.DET_CSEQ := by
  refine ⟨_, execCommitPointApply_due s _ rest hs hc hdue, ?_⟩
  have happ : (s.host.without rest).applyCommit s.env (.recipe slot r b) = ((s.host.without rest).disown r).finishBy b 2 7 0 := by
    simp [HostSide.applyCommit, HostSide.without_r210, hfails]
  rw [happ]
  have hend : (s.host.without rest).KeepsPlan (((s.host.without rest).disown r).finishBy b 2 7 0).settle :=
    .trans (.disown _ _) (.trans (.finishBy _ _ _ _ _) (.settle _))
  exact ⟨hend.commits, hend.armed, hend.cseq⟩

theorem commitPointApply_partition (s : State) (part clusters us : Nat) (b : Option (Nat × Nat)) (rest : List Commit) (hs : s.running)
    (hc : s.host.insp.commits = .partition part clusters us b :: rest)
    (hdue : s.host.commitDue (.partition part clusters us b) = true) (hok : s.host.partRefused part clusters = none)
    (hrun : ∀ k, k < 8 → bit clusters k = true → s.host.cluHalted k = false) :
    ∃ t, exec .commitPointApply s = .next t ∧ t.host.insp.commits = rest
      ∧ t.host.get Reg.DET_CSEQ = (s.host.get Reg.DET_CSEQ + 1) % 2 ^ 32
      ∧ ∀ k, k < 8 → t.host.partOf k
          = (if bit clusters k then some part else if s.host.partOf k = some part then none else s.host.partOf k) := by
  obtain ⟨hcommits, hcseq, hparts⟩ := (s.host.without rest).assign_spec part clusters us hrun
  refine ⟨_, execCommitPointApply_due s _ rest hs hc hdue, ?_⟩
  have happ : (s.host.without rest).applyCommit s.env (.partition part clusters us b)
      = ((s.host.without rest).assign part clusters us).finishBy b 0 0
          (((s.host.without rest).assign part clusters us).get Reg.DET_CSEQ) := by
    have hok' : (s.host.without rest).partRefused part clusters = none := hok
    simp only [HostSide.applyCommit, hok']
  rw [happ]
  have hend : ((s.host.without rest).assign part clusters us).KeepsPlan (((s.host.without rest).assign part clusters us).finishBy b 0 0
      (((s.host.without rest).assign part clusters us).get Reg.DET_CSEQ)).settle := .trans (.finishBy _ _ _ _ _) (.settle _)
  exact ⟨hend.commits.trans hcommits, hend.cseq.trans hcseq,
    fun k hk => (congrArg (fun c : Compute => c.part.find k) hend.comp).trans (hparts k hk)⟩

theorem commitPointApply_moveId (s : State) (k pos : Nat) (rest : List Commit) (hs : s.running)
    (hc : s.host.insp.commits = .moveId k pos :: rest) (hk : k < 8) (hpos : pos < 9) (hawake : s.host.asleep k = false) :
    ∃ t, exec .commitPointApply s = .next t ∧ t.host.insp.commits = rest
      ∧ t.host.get Reg.DET_CSEQ = (s.host.get Reg.DET_CSEQ + 1) % 2 ^ 32
      ∧ t.host.get ⟨0x800 + k / 2 * 4, k % 2 * 16, 16⟩
          = s.host.fencedBits k + pos * 2 ^ 9 + (if s.host.cluHalted k then 2 ^ 13 else 0)
      ∧ ∀ c, c / 8 = k → t.host.siteOf c =
          (if s.host.cluHalted k then s.host.siteOf c else SMap.find (mapSites k (s.host.fencedBits k) pos) c) := by
  obtain ⟨hcommits, hcseq, hshown, hsites⟩ := (s.host.without rest).applyMap_spec k pos hk hpos
  have hdue : s.host.commitDue (.moveId k pos) = true := by
    simp only [HostSide.commitDue, Commit.clusters, Bool.and_true, Bool.not_eq_true', List.any_eq_false, List.mem_filter,
      List.mem_range, beq_iff_eq]
    rintro x ⟨-, rfl⟩
    simp [hawake]
  refine ⟨_, execCommitPointApply_due s _ rest hs hc hdue, ?_⟩
  have happ : (s.host.without rest).applyCommit s.env (.moveId k pos) = (s.host.without rest).applyMap k pos := rfl
  rw [happ]
  generalize (s.host.without rest).applyMap k pos = g at hcommits hcseq hshown hsites ⊢
  have hend := HostSide.KeepsPlan.settle g
  exact ⟨hend.commits.trans hcommits, hend.cseq.trans hcseq, (hend.get _ (.inl (by dsimp only; omega))).trans hshown,
    fun c hc => (congrArg (fun m => SMap.find m c) hend.siteOf).trans (hsites c hc)⟩

end Sys2Proof.Machine

/-! SUPPORT. Seals: the message, the record and the seal's slot (R227 to R231). -/

namespace Sys2Proof.Machine
open Sys2Proof

/-! ### A ring's state -/

@[simp] theorem HostSide.ring_setRing (h : HostSide) (n : Nat) (r : Ring) : (h.setRing n r).ring n = r := by
  simp [HostSide.ring, HostSide.setRing, SMap.get_put]

@[simp] theorem HostSide.ring_set (h : HostSide) (f : RF) (v n : Nat) : (h.set f v).ring n = h.ring n := rfl

theorem HostSide.setRing_word (h : HostSide) (n : Nat) (r : Ring) (a : Nat) (ha : a ≠ (Reg.RR_HELD n).addr) :
    (h.setRing n r).word a = h.word a := HostSide.word_set_ne { h with rings := h.rings.put n r } _ _ a ha

@[simp] theorem HostSide.setRing_mem (h : HostSide) (n : Nat) (r : Ring) : (h.setRing n r).mem = h.mem := rfl

theorem recType_putLE (rcd : List Byte) (off n v : Nat) (hoff : 8 < off) (hlen : 8 < rcd.length) :
    recType (putLE rcd off n v) = recType rcd ∧ 8 < (putLE rcd off n v).length := by
  unfold putLE
  refine ⟨?_, by simp; omega⟩
  unfold recType
  rw [List.append_assoc, List.getD_append _ _ _ _ (by simp; omega)]
  simp [List.getD_eq_getElem?_getD, hoff]

theorem recType_putBytes (rcd : List Byte) (off : Nat) (bs : List Byte) (hoff : 8 < off) (hlen : 8 < rcd.length) :
    recType (putBytes rcd off bs) = recType rcd ∧ 8 < (putBytes rcd off bs).length := by
  unfold putBytes
  refine ⟨?_, by simp; omega⟩
  unfold recType
  rw [List.append_assoc, List.getD_append _ _ _ _ (by simp; omega)]
  simp [List.getD_eq_getElem?_getD, hoff]

/-- The record of a seal is of type 3 (R230). -/
theorem recType_sealRecord (num cnt slot : Nat) (link : List Byte) :
    recType (putLE (putLE (putBytes (putLE (recNew 3) 0 8 num) 16 link) 48 4 cnt) 52 4 slot) = 3 := by
  have hnew : recType (putLE (recNew 3) 0 8 num) = 3 ∧ 8 < (putLE (recNew 3) 0 8 num).length :=
    ⟨by simp [recType, putLE, toLE, recNew], by simp [putLE, recNew]⟩
  obtain ⟨hlink, hlen₁⟩ := recType_putBytes _ 16 link (by decide) hnew.2
  obtain ⟨hcnt, hlen₂⟩ := recType_putLE _ 48 4 cnt (by decide) hlen₁
  rw [(recType_putLE _ 52 4 slot (by decide) hlen₂).1, hcnt, hlink, hnew.1]

/-- A seal's record joins the ring without becoming a leaf, and touches neither host memory nor the ring's seals (R229, R230). -/
theorem HostSide.produce_seal (h : HostSide) (n : Nat) (rcd : List Byte) (hrcd : recType rcd = 3) :
    (h.produce n rcd).mem = h.mem ∧ ((h.produce n rcd).ring n).sealNum = (h.ring n).sealNum
      ∧ ((h.produce n rcd).ring n).prevSeal = (h.ring n).prevSeal ∧ ((h.produce n rcd).ring n).sealBody = (h.ring n).sealBody
      ∧ ∀ a, a ≠ (Reg.RR_HELD n).addr → a ≠ (Reg.RR_LOST n).addr → (h.produce n rcd).word a = h.word a := by
  have hleaf (g : HostSide) (pos : Nat) (x : List Byte) (hx : recType x = 3) : g.addLeaf n pos x = g := if_pos (by simp [hx])
  have hstamp (g : HostSide) : g.stampCseq rcd = rcd := if_neg (by simp [hrcd])
  unfold HostSide.produce
  extract_lets r first seq g src x
  split
  · rw [hstamp, hleaf _ _ _ hrcd]
    rw [HostSide.inc, HostSide.set_mem, HostSide.setRing_mem, HostSide.ring_set, HostSide.ring_setRing]
    exact ⟨rfl, rfl, rfl, rfl, fun a hh hl => (HostSide.word_set_ne _ _ _ a hl).trans (HostSide.setRing_word _ _ _ a hh)⟩
  · rw [HostSide.setRing_mem, HostSide.ring_setRing]
    exact ⟨rfl, rfl, rfl, rfl, fun a hh _ => HostSide.setRing_word _ _ _ a hh⟩

@[simp] theorem HostSide.ring_settle (h : HostSide) (n : Nat) : h.settle.ring n = h.ring n := by
  unfold HostSide.ring
  rw [HostSide.settle_rings]

/-! ### A seal begins or is held (R227, R229, R231) -/

/-- The parts of a seal's message that name it (R229). -/
theorem HostSide.sealMessage_head (h : HostSide) (e : Env) (n : Nat) : ∃ tail, h.sealMessage e n
    = asciiOf "KM7SEAL1" ++ (toLE 8 ((h.ring n).sealNum + 1) ++ (toLE 2 n ++ (toLE 2 0 ++ (toLE 4 (h.ring n).leaves.length ++ tail)))) := by
  unfold HostSide.sealMessage
  simp only [List.append_assoc]
  exact ⟨_, rfl⟩

/-- A field of a message stands after the fields before it. -/
theorem take_drop_field {l : List Byte} {k w : Nat} (pre x post : List Byte) (hl : l = pre ++ (x ++ post)) (hk : pre.length = k)
    (hw : x.length = w) : (l.drop k).take w = x := by
  subst hl hk hw
  rw [List.drop_left, List.take_left]

theorem asciiOf_seal_length : (asciiOf "KM7SEAL1").length = 8 := by decide

theorem HostSide.sealMessage_fields (h : HostSide) (e : Env) (n : Nat) (hn : n < 16) :
    (h.sealMessage e n).take 8 = asciiOf "KM7SEAL1"
      ∧ leNat (((h.sealMessage e n).drop 8).take 8) = ((h.ring n).sealNum + 1) % 2 ^ 64
      ∧ leNat (((h.sealMessage e n).drop 16).take 2) = n
      ∧ leNat (((h.sealMessage e n).drop 20).take 4) = (h.ring n).leaves.length % 2 ^ 32 := by
  obtain ⟨tail, hmsg⟩ := h.sealMessage_head e n
  have hlen := asciiOf_seal_length
  rw [hmsg]
  generalize asciiOf "KM7SEAL1" = magic at hlen ⊢
  refine ⟨by simp [hlen], ?_, ?_, ?_⟩
  · rw [take_drop_field magic (toLE 8 ((h.ring n).sealNum + 1)) _ rfl hlen (toLE_length _ _), leNat_toLE,
      show (256 : Nat) ^ 8 = 2 ^ 64 by norm_num]
  · rw [take_drop_field (magic ++ toLE 8 ((h.ring n).sealNum + 1)) (toLE 2 n)
      (toLE 2 0 ++ (toLE 4 (h.ring n).leaves.length ++ tail)) (by simp only [List.append_assoc])
      (by simp [hlen]) (toLE_length _ _), leNat_toLE]
    exact Nat.mod_eq_of_lt (by omega)
  · rw [take_drop_field (magic ++ (toLE 8 ((h.ring n).sealNum + 1) ++ (toLE 2 n ++ toLE 2 0))) (toLE 4 (h.ring n).leaves.length) tail
      (by simp only [List.append_assoc]) (by simp [hlen]) (toLE_length _ _), leNat_toLE,
      show (256 : Nat) ^ 4 = 2 ^ 32 by norm_num]

/-- Holding a seal changes the ring and registers only. -/
theorem HostSide.holdSeal_eq (h : HostSide) (n : Nat) : ∃ rings regs, h.holdSeal n = { h with rings := rings, regs := regs } := by
  unfold HostSide.holdSeal
  extract_lets src g
  split
  · exact ⟨_, _, rfl⟩
  · exact ⟨_, _, rfl⟩

/-- A seal that cannot be written is held (R231). -/
theorem HostSide.holdSeal_spec (h : HostSide) (n : Nat) (hn : n < 16) :
    (h.holdSeal n).get (Reg.SEAL_STATUS.HELD n) = 1 ∧ (h.holdSeal n).ring n = { h.ring n with sealBody := none }
      ∧ (h.holdSeal n).wordsBut h [(Reg.RR_HELD n).addr, (Reg.SEAL_STATUS.HELD n).addr, Reg.DET_INT_STATUS.addr] := by
  unfold HostSide.holdSeal
  extract_lets src g
  have hring : g.ring n = { h.ring n with sealBody := none } := HostSide.ring_setRing _ _ _
  have hword (a : Nat) (ha : a ≠ (Reg.RR_HELD n).addr) : g.word a = h.word a := HostSide.setRing_word _ _ _ a ha
  clear_value g
  split
  · next hon =>
    refine ⟨?_, hring, fun a ha _ => hword a fun e => ha (by simp [e])⟩
    have hlt : g.get (Reg.SEAL_STATUS.HELD n) < 2 ^ 1 := HostSide.get_lt _ _
    have hne : g.get (Reg.SEAL_STATUS.HELD n) ≠ 0 := by simpa [HostSide.on] using hon
    omega
  · refine ⟨?_, ?_, fun a ha _ => ?_⟩
    · rw [HostSide.setBits, HostSide.get_of_word _ _ _ (HostSide.word_set_ne _ _ _ _ (by
        simp only [Reg.SEAL_STATUS.HELD, Reg.DET_INT_STATUS]
        omega))]
      exact HostSide.get_set_self _ _ _ (by simp [RF.fits, Reg.SEAL_STATUS.HELD])
    · rw [HostSide.setBits, HostSide.ring_set, HostSide.ring_set, hring]
    · simp only [List.mem_cons, List.not_mem_nil, or_false, not_or] at ha
      obtain ⟨hheld, hstatus, hint⟩ := ha
      exact (HostSide.word_set_ne _ _ _ a hint).trans ((HostSide.word_set_ne _ _ _ a hstatus).trans (hword a hheld))

end Sys2Proof.Machine

/-! ### Seals begun, held and written -/

namespace Sys2Proof.Machine
open Sys2Proof

theorem execSealStart_begins (s : State) (n : Nat) (hs : s.up) (hn : n < 16) (hsign : s.host.signing = false)
    (hquote : s.host.mgmt.quoteSigns = false) (hdue : s.host.sealDue s.env n = true) (hroom : s.host.sealFull n = false) :
    exec (.sealStart n) s = .next { s with host := (s.host.setRing n { s.host.ring n with
      sealBody := some (s.host.sealMessage s.env n), sealTick := s.env.tick }).settle } := by
  show execSealStart n s = _
  unfold execSealStart
  rw [State.onHost_up s _ hs, if_neg (by simp [hsign, hquote, hdue]; omega), if_neg (by simp [hroom])]

theorem execSealStart_held (s : State) (n : Nat) (hs : s.up) (hn : n < 16) (hsign : s.host.signing = false)
    (hquote : s.host.mgmt.quoteSigns = false) (hdue : s.host.sealDue s.env n = true) (hfull : s.host.sealFull n = true) :
    exec (.sealStart n) s = .next { s with host := (s.host.holdSeal n).settle } := by
  show execSealStart n s = _
  unfold execSealStart
  rw [State.onHost_up s _ hs, if_neg (by simp [hsign, hquote, hdue]; omega), if_pos hfull]

theorem sealStart_begins (s : State) (n : Nat) (hs : s.up) (hn : n < 16) (hsign : s.host.signing = false)
    (hquote : s.host.mgmt.quoteSigns = false) (hdue : s.host.sealDue s.env n = true) (hroom : s.host.sealFull n = false) :
    ∃ t, exec (.sealStart n) s = .next t
      ∧ (t.host.ring n).sealBody = some (s.host.sealMessage s.env n)
      ∧ (s.host.sealMessage s.env n).take 8 = asciiOf "KM7SEAL1"
      ∧ leNat (((s.host.sealMessage s.env n).drop 8).take 8) = ((s.host.ring n).sealNum + 1) % 2 ^ 64
      ∧ leNat (((s.host.sealMessage s.env n).drop 16).take 2) = n
      ∧ leNat (((s.host.sealMessage s.env n).drop 20).take 4) = (s.host.ring n).leaves.length % 2 ^ 32
      ∧ (t.host.ring n).sealTick = s.tick.toNat
      ∧ s.changes t (fun g => { g with rings := s.host.rings }) [(Reg.RR_HELD n).addr] := by
  obtain ⟨hmagic, hnum, hring, hleaves⟩ := s.host.sealMessage_fields s.env n hn
  refine ⟨_, execSealStart_begins s n hs hn hsign hquote hdue hroom, ?_, hmagic, hnum, hring, hleaves, ?_, ?_⟩
  · rw [HostSide.ring_settle, HostSide.ring_setRing]
  · rw [HostSide.ring_settle, HostSide.ring_setRing]
    rfl
  · exact State.changes_of s _ _ _ rfl fun a ha _ => HostSide.setRing_word _ _ _ a (by simpa using ha)

theorem sealStart_held (s : State) (n : Nat) (hs : s.up) (hn : n < 16) (hsign : s.host.signing = false)
    (hquote : s.host.mgmt.quoteSigns = false) (hdue : s.host.sealDue s.env n = true) (hfull : s.host.sealFull n = true) :
    ∃ t, exec (.sealStart n) s = .next t ∧ t.host.get (Reg.SEAL_STATUS.HELD n) = 1 ∧ (t.host.ring n).sealBody = none
      ∧ s.changes t (fun g => { g with rings := s.host.rings })
          [(Reg.RR_HELD n).addr, (Reg.SEAL_STATUS.HELD n).addr, Reg.DET_INT_STATUS.addr] := by
  obtain ⟨hheld, hring, hwords⟩ := s.host.holdSeal_spec n hn
  obtain ⟨rings, regs, heq⟩ := s.host.holdSeal_eq n
  refine ⟨_, execSealStart_held s n hs hn hsign hquote hdue hfull, ?_, ?_, ?_⟩
  · rw [HostSide.settle_get _ _ (by simp only [Reg.SEAL_STATUS.HELD, Reg.HIF_IRQ_PENDING]; omega), hheld]
  · rw [HostSide.ring_settle, hring]
  · exact State.changes_of s _ _ _ (by rw [heq]) hwords

/-! ### Signing completes (R230, R231, R483) -/

/-- The signer's next work is no concern of registers, rings and host memory. -/
theorem HostSide.takeSigner_eq (h : HostSide) (e : Env) : ∃ mgmt, h.takeSigner e = { h with mgmt := mgmt } := by
  unfold HostSide.takeSigner
  extract_lets due
  split
  · exact ⟨_, rfl⟩
  · exact ⟨h.mgmt, rfl⟩

/-- Where a ring's next seal goes in host memory, with the slots of R230. -/
def HostSide.sealSlotAt (h : HostSide) (n : Nat) : Nat :=
  h.get (Reg.SEAL_BASE_LO n) * 4096 + h.get (Reg.SEAL_BASE_HI n) * 2 ^ 32
    + (h.ring n).sealNum % max 1 (h.get (Reg.SEAL_SLOTS n)) * 4096

/-- The 4,096 bytes of a seal: the message, its signature, and zeros (R230). -/
def HostSide.sealBytes (h : HostSide) (m : List Byte) : List Byte := (m ++ identitySign h.root m ++ List.replicate 4096 0).take 4096

theorem HostSide.sealBytes_length (h : HostSide) (m : List Byte) : (h.sealBytes m).length = 4096 := by
  rw [HostSide.sealBytes, List.length_take, List.length_append, List.length_replicate]
  omega

theorem HostSide.sealBytes_getD (h : HostSide) (m : List Byte) (i : Nat) (hi : i < 4096) :
    (h.sealBytes m).getD i 0 = (m ++ identitySign h.root m).getD i 0 := by
  unfold HostSide.sealBytes
  generalize m ++ identitySign h.root m = l
  rw [List.getD_eq_getElem?_getD, List.getElem?_take_of_lt hi, List.getD_eq_getElem?_getD]
  by_cases hl : i < l.length
  · rw [List.getElem?_append_left hl]
  · rw [List.getElem?_append_right (by omega), List.getElem?_replicate, List.getElem?_eq_none (by omega), if_pos (by omega)]
    rfl

/-- The host side once a seal is written: the slot, the count, the ring, the record (R230). -/
def HostSide.writeSeal (h : HostSide) (n : Nat) (m : List Byte) : HostSide :=
  let g := (((h.hostWrite (h.sealSlotAt n) (h.sealBytes m)).add (Reg.SEAL_COUNT n) 1).set (Reg.SEAL_STATUS.HELD n) 0).setRing n
    { h.ring n with sealBody := none, sealNum := (h.ring n).sealNum + 1, prevSeal := sha3 m,
                    leaves := (h.ring n).leaves.drop (leNat ((m.drop 20).take 4)) }
  g.produce n (putLE (putLE (putBytes (putLE (recNew 3) 0 8 ((h.ring n).sealNum + 1)) 16 ((m.drop 32).take 32)) 48 4
    (leNat ((m.drop 20).take 4))) 52 4 ((h.ring n).sealNum % max 1 (h.get (Reg.SEAL_SLOTS n))))

theorem execSealSigned_written (s : State) (n : Nat) (m : List Byte) (hs : s.up) (hm : (s.host.ring n).sealBody = some m)
    (hroom : s.host.sealFull n = false) (hbme : s.host.bme = true) :
    exec (.sealSigned n) s = .next { s with host := ((s.host.writeSeal n m).takeSigner s.env).settle } := by
  show execSealSigned n s = _
  unfold execSealSigned
  rw [State.onHost_up s _ hs]
  dsimp only
  rw [hm]
  dsimp only
  rw [if_neg (by simp [hroom]), if_neg (by simp [hbme])]
  rfl

theorem execSealSigned_held (s : State) (n : Nat) (m : List Byte) (hs : s.up) (hm : (s.host.ring n).sealBody = some m)
    (hfull : s.host.sealFull n = true) :
    exec (.sealSigned n) s = .next { s with host := ((s.host.holdSeal n).takeSigner s.env).settle } := by
  show execSealSigned n s = _
  unfold execSealSigned
  rw [State.onHost_up s _ hs]
  dsimp only
  rw [hm]
  dsimp only
  rw [if_pos hfull]

/-- A seal written: its slot, its count, and the ring's link to it (R229, R230). -/
theorem HostSide.writeSeal_spec (h : HostSide) (n : Nat) (m : List Byte) (hn : n < 16) :
    (h.writeSeal n m).mem = h.mem.setBytes (h.sealSlotAt n) (h.sealBytes m)
      ∧ (h.writeSeal n m).get (Reg.SEAL_COUNT n) = (h.get (Reg.SEAL_COUNT n) + 1) % 2 ^ 32
      ∧ (h.writeSeal n m).get (Reg.SEAL_STATUS.HELD n) = 0 ∧ ((h.writeSeal n m).ring n).sealNum = (h.ring n).sealNum + 1
      ∧ ((h.writeSeal n m).ring n).prevSeal = sha3 m ∧ ((h.writeSeal n m).ring n).sealBody = none := by
  unfold HostSide.writeSeal
  extract_lets src g
  obtain ⟨hmem, hnum, hprev, hbody, hword⟩ := g.produce_seal n _ (recType_sealRecord ((h.ring n).sealNum + 1)
    (leNat ((m.drop 20).take 4)) ((h.ring n).sealNum % max 1 (h.get (Reg.SEAL_SLOTS n))) ((m.drop 32).take 32))
  have hring : g.ring n = { h.ring n with
      sealBody := none, sealNum := (h.ring n).sealNum + 1, prevSeal := sha3 m,
      leaves := (h.ring n).leaves.drop (leNat ((m.drop 20).take 4)) } := HostSide.ring_setRing _ _ _
  have hcount : HostSide.CyclesPassed { h with mem := h.mem.setBytes (h.sealSlotAt n) (h.sealBytes m) }
      (h.hostWrite (h.sealSlotAt n) (h.sealBytes m)) := .countG _ _ _ _
  have hmem' : (h.hostWrite (h.sealSlotAt n) (h.sealBytes m)).mem = h.mem.setBytes (h.sealSlotAt n) (h.sealBytes m) :=
    congrArg HostSide.mem hcount.rest
  have hcnt : (h.hostWrite (h.sealSlotAt n) (h.sealBytes m)).get (Reg.SEAL_COUNT n) = h.get (Reg.SEAL_COUNT n) :=
    HostSide.get_of_word _ _ _ (hcount.words _ (by simp only [inGauge, Reg.SEAL_COUNT]; omega))
  have hfield (f : RF) (hf : f.addr < 0x13000) : (g.produce n (putLE (putLE (putBytes (putLE (recNew 3) 0 8 ((h.ring n).sealNum + 1)) 16
      ((m.drop 32).take 32)) 48 4 (leNat ((m.drop 20).take 4))) 52 4 ((h.ring n).sealNum % max 1 (h.get (Reg.SEAL_SLOTS n))))).get f
        = (((h.hostWrite (h.sealSlotAt n) (h.sealBytes m)).add (Reg.SEAL_COUNT n) 1).set (Reg.SEAL_STATUS.HELD n) 0).get f :=
    HostSide.get_of_word _ _ _ ((hword _ (by simp only [Reg.RR_HELD]; omega) (by simp only [Reg.RR_LOST]; omega)).trans
      (HostSide.setRing_word _ _ _ _ (by simp only [Reg.RR_HELD]; omega)))
  refine ⟨?_, ?_, ?_, ?_, ?_, ?_⟩
  · rw [hmem, HostSide.setRing_mem, HostSide.set_mem, HostSide.add, HostSide.set_mem, hmem']
  · rw [hfield _ (by simp only [Reg.SEAL_COUNT]; omega), HostSide.get_of_word _ _ _ (HostSide.word_set_ne _ _ _ _ (by
      simp only [Reg.SEAL_COUNT, Reg.SEAL_STATUS.HELD]
      omega)), HostSide.add, HostSide.get_set_self _ _ _ (by simp [RF.fits, Reg.SEAL_COUNT]), hcnt]
    rfl
  · rw [hfield _ (by simp only [Reg.SEAL_STATUS.HELD]; omega),
      HostSide.get_set_self _ _ _ (by simp [RF.fits, Reg.SEAL_STATUS.HELD])]
    exact Nat.zero_mod _
  · rw [hnum, hring]
  · rw [hprev, hring]
  · rw [hbody, hring]

theorem sealSigned_written (s : State) (n : Nat) (m : List Byte) (hs : s.up) (hn : n < 16) (hm : (s.host.ring n).sealBody = some m)
    (hroom : s.host.sealFull n = false) (hbme : s.host.bme = true) :
    ∃ t, exec (.sealSigned n) s = .next t
      ∧ (∀ a, t.host.mem.byte a =
          (let base := s.host.get (Reg.SEAL_BASE_LO n) * 4096 + s.host.get (Reg.SEAL_BASE_HI n) * 2 ^ 32
              + (s.host.ring n).sealNum % max 1 (s.host.get (Reg.SEAL_SLOTS n)) * 4096
            if base ≤ a ∧ a < base + 4096 then (m ++ identitySign s.host.root m).getD (a - base) 0 else s.host.mem.byte a))
      ∧ t.host.get (Reg.SEAL_COUNT n) = (s.host.get (Reg.SEAL_COUNT n) + 1) % 2 ^ 32 ∧ t.host.get (Reg.SEAL_STATUS.HELD n) = 0
      ∧ (t.host.ring n).sealNum = (s.host.ring n).sealNum + 1 ∧ (t.host.ring n).prevSeal = sha3 m
      ∧ (t.host.ring n).sealBody = none := by
  obtain ⟨hmem, hcount, hheld, hnum, hprev, hbody⟩ := s.host.writeSeal_spec n m hn
  obtain ⟨mgmt, hsigner⟩ := (s.host.writeSeal n m).takeSigner_eq s.env
  refine ⟨_, execSealSigned_written s n m hs hm hroom hbme, ?_⟩
  rw [hsigner]
  generalize s.host.writeSeal n m = g at hmem hcount hheld hnum hprev hbody ⊢
  refine ⟨fun a => ?_, ?_, ?_, ?_, ?_, ?_⟩
  · rw [HostSide.settle_mem]
    dsimp only
    rw [hmem, Mem.byte_setBytes, HostSide.sealBytes_length]
    unfold HostSide.sealSlotAt
    split
    · exact HostSide.sealBytes_getD _ _ _ (by omega)
    · rfl
  · exact (HostSide.settle_get _ _ (by simp only [Reg.SEAL_COUNT, Reg.HIF_IRQ_PENDING]; omega)).trans hcount
  · exact (HostSide.settle_get _ _ (by simp only [Reg.SEAL_STATUS.HELD, Reg.HIF_IRQ_PENDING]; omega)).trans hheld
  · exact (congrArg Ring.sealNum (HostSide.ring_settle _ n)).trans hnum
  · exact (congrArg Ring.prevSeal (HostSide.ring_settle _ n)).trans hprev
  · exact (congrArg Ring.sealBody (HostSide.ring_settle _ n)).trans hbody

theorem sealSigned_held (s : State) (n : Nat) (m : List Byte) (hs : s.up) (hn : n < 16) (hm : (s.host.ring n).sealBody = some m)
    (hfull : s.host.sealFull n = true) :
    ∃ t, exec (.sealSigned n) s = .next t ∧ t.host.get (Reg.SEAL_STATUS.HELD n) = 1
      ∧ (t.host.ring n).sealBody = none ∧ (t.host.ring n).leaves = (s.host.ring n).leaves := by
  obtain ⟨hheld, hring, -⟩ := s.host.holdSeal_spec n hn
  obtain ⟨mgmt, hsigner⟩ := (s.host.holdSeal n).takeSigner_eq s.env
  refine ⟨_, execSealSigned_held s n m hs hm hfull, ?_⟩
  rw [hsigner]
  generalize s.host.holdSeal n = g at hheld hring ⊢
  have hsettled : ({ g with mgmt := mgmt } : HostSide).settle.ring n = g.ring n := HostSide.ring_settle _ n
  refine ⟨?_, ?_, ?_⟩
  · exact (HostSide.settle_get _ _ (by simp only [Reg.SEAL_STATUS.HELD, Reg.HIF_IRQ_PENDING]; omega)).trans hheld
  · exact congrArg Ring.sealBody (hsettled.trans hring)
  · exact (congrArg Ring.leaves (hsettled.trans hring) :)

/-- Settles O24: seals over the message of R229, written to their slot or held; each commit point taking effect in its turn. -/
theorem sealsAndCommitPoints : Obligations.SealsAndCommitPoints := by
  unfold Obligations.SealsAndCommitPoints
  refine ⟨fun s n hs hn hsign hquote hdue => ⟨?_, ?_⟩, fun s n m hs hn hm => ⟨?_, ?_⟩, ?_, ?_, ?_, ?_, ?_⟩
  · exact sealStart_begins s n hs hn hsign hquote hdue
  · exact sealStart_held s n hs hn hsign hquote hdue
  · exact sealSigned_written s n m hs hn hm
  · exact sealSigned_held s n m hs hn hm
  · exact commitPointApply_disarm
  · exact commitPointApply_recipe
  · exact commitPointApply_partition
  · exact commitPointApply_moveId
  · exact commitPointApply_refused

end Sys2Proof.Machine

/-! SUPPORT. Start-up and the debug port (R427, R428, R430, R433, R466, R468). -/

namespace Sys2Proof.Machine
open Sys2Proof

/-! ### The clock monitor and READY (R427, R433) -/

theorem clkMonGo_open (s : State) (v : Word) (hs : s.open_) :
    ∃ t, exec (.clkMonGo v) s = .next t ∧ t.host.get Reg.CLK_MON_CTRL.SEL = v.toNat % 16
      ∧ t.host.get Reg.CLK_MON_STATUS.DONE = 0 ∧ t.host.dbg = { s.host.dbg with mon := true }
      ∧ s.changes t (fun g => { g with dbg := s.host.dbg }) [Reg.CLK_MON_CTRL.SEL.addr, Reg.CLK_MON_STATUS.DONE.addr] := by
  have hexec : exec (.clkMonGo v) s = .next { s with host := ({ (s.host.set Reg.CLK_MON_CTRL.SEL v.toNat).set Reg.CLK_MON_STATUS.DONE 0
      with dbg := { s.host.dbg with mon := true } } : HostSide).settle } := by
    show execClkMonGo v s = _
    unfold execClkMonGo
    exact State.onBar_open s _ hs
  refine ⟨_, hexec, ?_, ?_, HostSide.settle_dbg _, State.changes_of s _ _ _ rfl fun a ha _ => ?_⟩
  · refine (HostSide.settle_get _ _ (by decide)).trans ((HostSide.get_of_word _ _ _ ?_).trans
      (HostSide.get_set_self s.host Reg.CLK_MON_CTRL.SEL v.toNat (by unfold RF.fits; decide)))
    exact HostSide.word_set_ne (s.host.set Reg.CLK_MON_CTRL.SEL v.toNat) _ _ _ (by decide)
  · exact (HostSide.settle_get _ _ (by decide)).trans
      (HostSide.get_set_self (s.host.set Reg.CLK_MON_CTRL.SEL v.toNat) Reg.CLK_MON_STATUS.DONE 0 (by unfold RF.fits; decide))
  · simp only [List.mem_cons, List.not_mem_nil, or_false, not_or] at ha
    exact (HostSide.word_set_ne (s.host.set Reg.CLK_MON_CTRL.SEL v.toNat) _ _ a ha.2).trans (HostSide.word_set_ne s.host _ _ a ha.1)

theorem monCount_lt (v : Variant) (sel n : Nat) (hn : n < 2 ^ 32) : monCount v sel n < 2 ^ 32 := by
  unfold monCount
  split <;> (try split) <;> omega

theorem clkMonDone_counted (s : State) (n : Nat) (hs : s.up) (hmon : s.host.dbg.mon = true) (hn : n < 2 ^ 32) :
    ∃ t, exec (.clkMonDone n) s = .next t ∧ t.host.get Reg.CLK_MON_STATUS.DONE = 1
      ∧ t.host.get Reg.CLK_MON_COUNT = monCount s.variant (s.host.get Reg.CLK_MON_CTRL.SEL) n
      ∧ t.host.dbg = { s.host.dbg with mon := false }
      ∧ s.changes t (fun g => { g with dbg := s.host.dbg }) [Reg.CLK_MON_COUNT.addr, Reg.CLK_MON_STATUS.DONE.addr] := by
  have hexec : exec (.clkMonDone n) s = .next { s with host := ({ (s.host.set Reg.CLK_MON_COUNT
      (monCount s.variant (s.host.get Reg.CLK_MON_CTRL.SEL) n)).set Reg.CLK_MON_STATUS.DONE 1 with
      dbg := { s.host.dbg with mon := false } } : HostSide).settle } := by
    show execClkMonDone n s = _
    unfold execClkMonDone
    rw [State.onHost_up s _ hs, if_neg (by simp [hmon])]
    rfl
  have hlt := monCount_lt s.variant (s.host.get Reg.CLK_MON_CTRL.SEL) n hn
  generalize monCount s.variant (s.host.get Reg.CLK_MON_CTRL.SEL) n = v at hexec hlt ⊢
  refine ⟨_, hexec, ?_, ?_, HostSide.settle_dbg _, State.changes_of s _ _ _ rfl fun a ha _ => ?_⟩
  · exact (HostSide.settle_get _ _ (by decide)).trans
      (HostSide.get_set_self (s.host.set Reg.CLK_MON_COUNT v) Reg.CLK_MON_STATUS.DONE 1 (by unfold RF.fits; decide))
  · refine (HostSide.settle_get _ _ (by decide)).trans ((HostSide.get_of_word _ _ _ ?_).trans
      ((HostSide.get_set_self s.host Reg.CLK_MON_COUNT v (by unfold RF.fits; decide)).trans (Nat.mod_eq_of_lt hlt)))
    exact HostSide.word_set_ne (s.host.set Reg.CLK_MON_COUNT v) _ _ _ (by decide)
  · simp only [List.mem_cons, List.not_mem_nil, or_false, not_or] at ha
    exact (HostSide.word_set_ne (s.host.set Reg.CLK_MON_COUNT v) _ _ a ha.2).trans (HostSide.word_set_ne s.host _ _ a ha.1)

@[simp] theorem HostSide.settle_pcieLink (h : HostSide) : h.settle.pcieLink = h.pcieLink := by rw [HostSide.settle_eq]

/-- The host side as DEVICE_READY leaves it (R427 step 10). -/
def HostSide.madeReady (h : HostSide) (tick : Nat) : HostSide :=
  ((({ h with pcieLink := .up }).set Reg.DEV_STATUS.READY 1).set2 Reg.CLK_READY_TICK_LO Reg.CLK_READY_TICK_HI tick).set Reg.CLK_BOOT_STAGE 7

theorem HostSide.madeReady_word (h : HostSide) (tick a : Nat) (hr : a ≠ Reg.DEV_STATUS.READY.addr) (hlo : a ≠ Reg.CLK_READY_TICK_LO.addr)
    (hhi : a ≠ Reg.CLK_READY_TICK_HI.addr) (hst : a ≠ Reg.CLK_BOOT_STAGE.addr) : (h.madeReady tick).word a = h.word a :=
  (HostSide.word_set_ne _ _ _ a hst).trans ((HostSide.word_set_ne _ _ _ a hhi).trans
    ((HostSide.word_set_ne _ _ _ a hlo).trans (HostSide.word_set_ne { h with pcieLink := .up } _ _ a hr)))

theorem HostSide.madeReady_shown (h : HostSide) (tick : Nat) (ht : tick < 2 ^ 64) : (h.madeReady tick).ready = true
    ∧ (h.madeReady tick).get Reg.CLK_BOOT_STAGE = 7 ∧ (h.madeReady tick).get2 Reg.CLK_READY_TICK_LO Reg.CLK_READY_TICK_HI = tick := by
  unfold HostSide.madeReady
  generalize ({ h with pcieLink := .up } : HostSide) = g
  have hready : (g.set Reg.DEV_STATUS.READY 1).get Reg.DEV_STATUS.READY = 1 := HostSide.get_set_self _ _ _ (by unfold RF.fits; decide)
  generalize g.set Reg.DEV_STATUS.READY 1 = g at hready ⊢
  have hstage (k : HostSide) (f : RF) (hf : f.addr ≠ Reg.CLK_BOOT_STAGE.addr) : (k.set Reg.CLK_BOOT_STAGE 7).get f = k.get f :=
    HostSide.get_of_word _ _ _ (HostSide.word_set_ne _ _ _ _ hf)
  refine ⟨?_, HostSide.get_set_self _ _ _ (by unfold RF.fits; decide), ?_⟩
  · have hkept : (g.set2 Reg.CLK_READY_TICK_LO Reg.CLK_READY_TICK_HI tick).get Reg.DEV_STATUS.READY = 1 :=
      (HostSide.get_of_word _ _ _ ((HostSide.word_set_ne _ _ _ _ (by decide)).trans (HostSide.word_set_ne _ _ _ _ (by decide)))).trans hready
    simp [HostSide.ready, HostSide.on, hstage _ _ (by decide : Reg.DEV_STATUS.READY.addr ≠ Reg.CLK_BOOT_STAGE.addr), hkept]
  · rw [HostSide.get2, hstage _ _ (by decide), hstage _ _ (by decide)]
    exact HostSide.get2_set2 g _ _ tick (by unfold RF.fits; decide) (by unfold RF.fits; decide) (by decide) ht

theorem deviceReady_up (s : State) (hs : s.up) (hstage : s.host.get Reg.CLK_BOOT_STAGE = 6) (htest : s.host.tested = true)
    (hhbm : s.host.on Reg.MEM_STATUS.INIT_DONE = true) (hports : ∀ p, p < s.variant.ports → (s.host.port p).txOn = true)
    (hdict : s.host.hdw.building = none) :
    ∃ t, exec .deviceReady s = .next t ∧ t.host.ready = true ∧ t.host.get Reg.CLK_BOOT_STAGE = 7 ∧ t.host.pcieLink = .up
      ∧ t.host.get2 Reg.CLK_READY_TICK_LO Reg.CLK_READY_TICK_HI = s.tick.toNat
      ∧ s.changes t (fun g => { g with pcieLink := s.host.pcieLink })
          [Reg.DEV_STATUS.READY.addr, Reg.CLK_READY_TICK_LO.addr, Reg.CLK_READY_TICK_HI.addr, Reg.CLK_BOOT_STAGE.addr] := by
  have hall : ((List.range s.env.variant.ports).all fun p => (s.host.port p).txOn) = true := by
    simpa [List.all_eq_true, State.env] using hports
  have hexec : exec .deviceReady s = .next { s with host := (s.host.madeReady s.tick.toNat).settle } := by
    show execDeviceReady s = _
    unfold execDeviceReady
    rw [State.onHost_up s _ hs]
    dsimp only
    rw [if_neg (by simp [hstage, htest, hhbm, hall, hdict])]
    rfl
  obtain ⟨hready, hst, htick⟩ := s.host.madeReady_shown s.tick.toNat s.tick.isLt
  have hget (f : RF) (hf : f.addr ≠ Reg.HIF_IRQ_PENDING.addr) : (s.host.madeReady s.tick.toNat).settle.get f
      = (s.host.madeReady s.tick.toNat).get f := HostSide.settle_get _ _ hf
  refine ⟨_, hexec, ?_, ?_, HostSide.settle_pcieLink _, ?_, State.changes_of s _ _ _ rfl fun a ha _ => ?_⟩
  · unfold HostSide.ready HostSide.on at hready ⊢
    rw [hget _ (by decide), hready]
  · rw [hget _ (by decide), hst]
  · unfold HostSide.get2 at htick ⊢
    rw [hget _ (by decide), hget _ (by decide), htick]
  · simp only [List.mem_cons, List.not_mem_nil, or_false, not_or] at ha
    obtain ⟨hr, hlo, hhi, hst⟩ := ha
    exact s.host.madeReady_word _ a hr hlo hhi hst

end Sys2Proof.Machine

/-! SUPPORT. The debug port (R430). -/

namespace Sys2Proof.Machine
open Sys2Proof

@[simp] theorem HostSide.setDbg_dbg (h : HostSide) (d : Debug) : (h.setDbg d).dbg = d := rfl

theorem HostSide.onDebug_off (h : HostSide) (ir : Nat) (f : HostSide → HostSide) (hen : h.on Reg.CLK_DBG_CTRL.EN = false) :
    h.onDebug ir f = h.setDbg { h.dbg with ir := ir } := if_neg (by simpa [HostSide.setDbg, HostSide.on, HostSide.get] using hen)

theorem HostSide.onDebug_on (h : HostSide) (ir : Nat) (f : HostSide → HostSide) (hen : h.on Reg.CLK_DBG_CTRL.EN = true) :
    h.onDebug ir f = f (h.setDbg { h.dbg with ir := ir }) := if_pos (by simpa [HostSide.setDbg, HostSide.on, HostSide.get] using hen)

/-- Only the debug port's own state changes. -/
theorem State.changes_setDbg (s : State) (d : Debug) :
    s.changes { s with host := (s.host.setDbg d).settle } (fun g => { g with dbg := s.host.dbg }) [] :=
  State.changes_of s _ _ _ rfl fun _ _ _ => rfl

theorem tapReset_bypass (s : State) : ∃ t, exec .tapReset s = .next t ∧ t.host.dbg = { s.host.dbg with ir := 0xFF }
    ∧ { t with host := { t.host with dbg := s.host.dbg } } = s := ⟨_, rfl, rfl, rfl⟩

theorem tapSelect_eq (op ir : Nat) (hin : op ∈ [0x00, 0x01, 0x20, 0x21, 0x22, 0x23] → ir = op)
    (hout : op ∉ [0x00, 0x01, 0x20, 0x21, 0x22, 0x23] → ir = 0xFF) : tapSelect op = ir := by
  unfold tapSelect
  split
  · next h => exact (hin h).symm
  · next h => exact (hout h).symm

/-- EXTEST and SAMPLE/PRELOAD are the opcodes 0 and 1. -/
theorem tapSelect_lt_two (op : Nat) : tapSelect op < 2 ↔ op < 2 := by
  unfold tapSelect
  split
  · rfl
  · next h =>
    simp only [List.mem_cons, List.not_mem_nil, or_false, not_or] at h
    omega

/-- The host side once opcode `op` stands in the instruction register and its data register holds `v`. -/
def HostSide.loadIr (h : HostSide) (op v : Nat) : HostSide :=
  h.setDbg { h.dbg with ir := tapSelect op, scan := if tapSelect op < 2 then v else h.dbg.scan }

theorem execDbgCmd_up (s : State) (op v : Nat) (hs : s.up) (hop : op < 256) :
    exec (.dbgCmd op v) s = .next { s with host := (if (tapSelect op != 0x20 || !s.host.on Reg.CLK_DBG_CTRL.EN) then s.host.loadIr op v
      else if v % 4 = 1 then (s.host.loadIr op v).requestStop 2
      else if v % 4 = 2 then (s.host.loadIr op v).releaseStop 2 else s.host.loadIr op v).settle } := by
  show execDbgCmd op v s = _
  unfold execDbgCmd
  rw [State.onHost_up s _ hs, Nat.mod_eq_of_lt hop]
  rfl

theorem dbgCmd_loads (s : State) (op v ir : Nat) (hs : s.up) (hop : op < 256)
    (hin : op ∈ [0x00, 0x01, 0x20, 0x21, 0x22, 0x23] → ir = op) (hout : op ∉ [0x00, 0x01, 0x20, 0x21, 0x22, 0x23] → ir = 0xFF)
    (hidle : ir ≠ 0x20 ∨ s.host.on Reg.CLK_DBG_CTRL.EN = false ∨ v % 4 = 0 ∨ v % 4 = 3) :
    ∃ t, exec (.dbgCmd op v) s = .next t ∧ t.host.dbg = { s.host.dbg with ir := ir, scan := if op < 2 then v else s.host.dbg.scan }
      ∧ s.changes t (fun g => { g with dbg := s.host.dbg }) [] := by
  have hir := tapSelect_eq op ir hin hout
  have hexec : exec (.dbgCmd op v) s = .next { s with host := (s.host.loadIr op v).settle } := by
    rw [execDbgCmd_up s op v hs hop, hir]
    congr 3
    split
    · rfl
    · next hcmd =>
      obtain ⟨h1, h2⟩ : v % 4 ≠ 1 ∧ v % 4 ≠ 2 := by
        obtain h | h | h | h := hidle
        · simp [h] at hcmd
        · simp [h] at hcmd
        · omega
        · omega
      rw [if_neg h1, if_neg h2]
  refine ⟨_, hexec, ?_, State.changes_setDbg s _⟩
  rw [HostSide.settle_dbg, HostSide.loadIr, HostSide.setDbg_dbg, hir]
  simp only [← hir, tapSelect_lt_two]

theorem dbgCmd_requests (s : State) (v : Nat) (hs : s.up) (hen : s.host.on Reg.CLK_DBG_CTRL.EN = true) (hv : v % 4 = 1)
    (hrun : s.host.get Reg.GSTOP_STATUS.STATE = 0) :
    ∃ t, exec (.dbgCmd 0x20 v) s = .next t ∧ t.host.get Reg.GSTOP_STATUS.STATE = 1 ∧ t.host.get Reg.GSTOP_STATUS.SOURCE = 2 := by
  refine ⟨_, execDbgCmd_up s 0x20 v hs (by decide), ?_⟩
  rw [if_neg (by simp [tapSelect, hen]), if_pos hv]
  have hstate : (s.host.loadIr 0x20 v).get Reg.GSTOP_STATUS.STATE = 0 := hrun
  generalize s.host.loadIr 0x20 v = g at hstate
  unfold HostSide.requestStop
  rw [if_pos hstate]
  have hsource : ((g.set Reg.GSTOP_STATUS.STATE 1).set Reg.GSTOP_STATUS.SOURCE 2).get Reg.GSTOP_STATUS.STATE = 1 := by
    rw [HostSide.get_set_apart _ _ _ _ (by unfold RF.fits; decide) (by unfold RF.apart; decide)]
    exact HostSide.get_set_self _ _ _ (by unfold RF.fits; decide)
  exact ⟨(HostSide.settle_get _ _ (by decide)).trans hsource,
    (HostSide.settle_get _ _ (by decide)).trans (HostSide.get_set_self (g.set Reg.GSTOP_STATUS.STATE 1) _ _ (by unfold RF.fits; decide))⟩

theorem dbgCmd_releases (s : State) (v : Nat) (hs : s.up) (hen : s.host.on Reg.CLK_DBG_CTRL.EN = true) (hv : v % 4 = 2)
    (hstop : s.host.get Reg.GSTOP_STATUS.STATE = 2) (hsrc : s.host.get Reg.GSTOP_STATUS.SOURCE = 2) :
    ∃ t, exec (.dbgCmd 0x20 v) s = .next t ∧ t.host.get Reg.GSTOP_STATUS.STATE = 3 := by
  refine ⟨_, execDbgCmd_up s 0x20 v hs (by decide), ?_⟩
  rw [if_neg (by simp [tapSelect, hen]), if_neg (by omega), if_pos hv]
  have hstate : (s.host.loadIr 0x20 v).get Reg.GSTOP_STATUS.STATE = 2 := hstop
  have hsource : (s.host.loadIr 0x20 v).get Reg.GSTOP_STATUS.SOURCE = 2 := hsrc
  generalize s.host.loadIr 0x20 v = g at hstate hsource
  have hrel : g.releaseStop 2 = g.set Reg.GSTOP_STATUS.STATE 3 := by
    simp [HostSide.releaseStop, hstate, hsource]
  rw [hrel]
  exact (HostSide.settle_get _ _ (by decide)).trans (HostSide.get_set_self g _ _ (by unfold RF.fits; decide))

/-! ### Accesses (R276, R430) -/

theorem execDbgAddr_up (s : State) (v : Nat) (hs : s.up) :
    exec (.dbgAddr v) s = .next { s with host := (s.host.onDebug 0x22 fun h =>
      if h.dbg.busy || dbgBad s.env v then h.setDbg { h.dbg with err := true }
      else if dbgProxied v then (h.setDbg { h.dbg with err := false, busy := true, addr := v }).busRead s.env (dbgAddress v)
      else h.setDbg { h.dbg with err := false, busy := true, addr := v }).settle } := by
  show execDbgAddr v s = _
  unfold execDbgAddr
  exact State.onHost_up s _ hs

theorem dbgAddr_off (s : State) (v : Nat) (hs : s.up) (hen : s.host.on Reg.CLK_DBG_CTRL.EN = false) :
    ∃ t, exec (.dbgAddr v) s = .next t ∧ t.host.dbg = { s.host.dbg with ir := 0x22 }
      ∧ s.changes t (fun g => { g with dbg := s.host.dbg }) [] := by
  refine ⟨_, execDbgAddr_up s v hs, ?_⟩
  rw [HostSide.onDebug_off _ _ _ hen]
  exact ⟨HostSide.settle_dbg _, State.changes_setDbg s _⟩

theorem dbgAddr_refused (s : State) (v : Nat) (hs : s.up) (hen : s.host.on Reg.CLK_DBG_CTRL.EN = true)
    (hbad : s.host.dbg.busy = true ∨ dbgBad s.env v = true) :
    ∃ t, exec (.dbgAddr v) s = .next t ∧ t.host.dbg = { s.host.dbg with ir := 0x22, err := true }
      ∧ s.changes t (fun g => { g with dbg := s.host.dbg }) [] := by
  refine ⟨_, execDbgAddr_up s v hs, ?_⟩
  rw [HostSide.onDebug_on _ _ _ hen, if_pos (by simpa using hbad)]
  exact ⟨HostSide.settle_dbg _, State.changes_setDbg s _⟩

theorem dbgAddr_starts (s : State) (v : Nat) (hs : s.up) (hen : s.host.on Reg.CLK_DBG_CTRL.EN = true) (hbusy : s.host.dbg.busy = false)
    (hbad : dbgBad s.env v = false) (hprox : dbgProxied v = false) :
    ∃ t, exec (.dbgAddr v) s = .next t ∧ t.host.dbg = { s.host.dbg with ir := 0x22, err := false, busy := true, addr := v }
      ∧ s.changes t (fun g => { g with dbg := s.host.dbg }) [] := by
  refine ⟨_, execDbgAddr_up s v hs, ?_⟩
  rw [HostSide.onDebug_on _ _ _ hen, if_neg (by simp [hbusy, hbad]), if_neg (by simp [hprox])]
  exact ⟨HostSide.settle_dbg _, State.changes_setDbg s _⟩

theorem dbgData_stages (s : State) (v : Nat) (hs : s.up) (hen : s.host.on Reg.CLK_DBG_CTRL.EN = true) :
    ∃ t, exec (.dbgData v) s = .next t ∧ t.host.dbg = { s.host.dbg with ir := 0x23, stage := BitVec.ofNat 32 v }
      ∧ s.changes t (fun g => { g with dbg := s.host.dbg }) [] := by
  have hexec : exec (.dbgData v) s = .next { s with host := (s.host.setDbg { s.host.dbg with
      ir := 0x23, stage := BitVec.ofNat 32 v }).settle } := by
    show execDbgData v s = _
    unfold execDbgData
    rw [State.onHost_up s _ hs, HostSide.onDebug_on _ _ _ hen]
    rfl
  exact ⟨_, hexec, HostSide.settle_dbg _, State.changes_setDbg s _⟩

theorem execDbgAccessDone_granule (s : State) (hs : s.up) (hbusy : s.host.dbg.busy = true) (ht : dbgTarget s.host.dbg.addr ≠ 0)
    (hserved : s.host.dbgServed s.host.dbg.addr = true) :
    exec .dbgAccessDone s = .next { s with host := s.host.dbgDone (some (s.host.dbgGranule s.host.dbg.addr)) } := by
  have hup : s.host.down = false := hs
  show execDbgAccessDone s = _
  simp [execDbgAccessDone, hup, hbusy, ht, hserved]

theorem dbgAccessDone_hbm (s : State) (hs : s.up) (hbusy : s.host.dbg.busy = true) (ht : dbgTarget s.host.dbg.addr = 1)
    (hup : s.host.hbmUp = true) :
    ∃ t, exec .dbgAccessDone s = .next t
      ∧ t.host.dbg = { s.host.dbg with
          busy := false, data := (s.host.hbmOf (dbgAddress s.host.dbg.addr / 2 ^ 32)).read (dbgAddress s.host.dbg.addr % 2 ^ 32) 64 }
      ∧ { t with host := { t.host with dbg := s.host.dbg } } = s := by
  refine ⟨_, execDbgAccessDone_granule s hs hbusy (by omega) (by simp [HostSide.dbgServed, ht, hup]), ?_, rfl⟩
  simp [HostSide.dbgDone, HostSide.dbgGranule, ht]

theorem dbgAccessDone_spad (s : State) (hs : s.up) (hbusy : s.host.dbg.busy = true) (ht : dbgTarget s.host.dbg.addr = 3)
    (hawake : s.host.asleep (dbgUnit s.host.dbg.addr / 9) = false) :
    ∃ t, exec .dbgAccessDone s = .next t
      ∧ t.host.dbg = { s.host.dbg with
          busy := false, data := (s.host.core (dbgUnit s.host.dbg.addr)).spad.read (dbgAddress s.host.dbg.addr) 64 }
      ∧ { t with host := { t.host with dbg := s.host.dbg } } = s := by
  refine ⟨_, execDbgAccessDone_granule s hs hbusy (by omega) (by simp [HostSide.dbgServed, ht, hawake]), ?_, rfl⟩
  simp [HostSide.dbgDone, HostSide.dbgGranule, ht]

theorem dbgAccessDone_write (s : State) (hs : s.up) (hbusy : s.host.dbg.busy = true) (ht : dbgTarget s.host.dbg.addr = 0)
    (hwrite : dbgWrite s.host.dbg.addr = true) :
    ∃ t, exec .dbgAccessDone s = .next t ∧ t.host.dbg.busy = false
      ∧ ∀ u : State, u = s.busWrite (dbgAddress s.host.dbg.addr) s.host.dbg.stage →
          { t with host := { t.host with dbg := u.host.dbg } } = u := by
  have hup : s.host.down = false := hs
  have hexec : exec .dbgAccessDone s = .next { s.busWrite (dbgAddress s.host.dbg.addr) s.host.dbg.stage with
      host := (s.busWrite (dbgAddress s.host.dbg.addr) s.host.dbg.stage).host.dbgDone none } := by
    show execDbgAccessDone s = _
    unfold execDbgAccessDone
    dsimp only
    rw [if_neg (by simp [hup, hbusy]), if_neg (by simp [ht]), if_pos hwrite]
  refine ⟨_, hexec, rfl, fun u hu => ?_⟩
  rw [← hu]
  rfl

theorem regRows_scratch : regRows 0x40 = [⟨0x40, [], 0, 32, .rw, 0x0, false⟩] := by decide +kernel

theorem RegFile.readVal_scratch (rs : RegFile) : rs.readVal 0x40 = rs.word 0x40 := by
  unfold RegFile.readVal
  rw [regRows_scratch]
  simp [word_and_full]

theorem HostSide.readData_busRead_scratch (h : HostSide) (e : Env) (hr : h.ready = true) : (h.busRead e 0x40).readData = h.word 0x40 := by
  rw [HostSide.busRead_ready h e 0x40 hr rfl (by decide)]
  have hshow : h.showWord e 0x40 = h.regs.readVal 0x40 := rfl
  dsimp only
  rw [if_neg (by decide), hshow, RegFile.readVal_scratch]
  rfl

theorem dbgAccessDone_read (s : State) (hs : s.up) (hbusy : s.host.dbg.busy = true) (ht : dbgTarget s.host.dbg.addr = 0)
    (hread : dbgWrite s.host.dbg.addr = false) (ha : dbgAddress s.host.dbg.addr = 0x40) (hr : s.host.ready = true) :
    ∃ t, exec .dbgAccessDone s = .next t ∧ t.host.dbg.busy = false ∧ t.host.readData = s.host.word 0x40
      ∧ t.host.dbg.data.take 4 = toLE 4 (s.host.word 0x40).toNat := by
  have hup : s.host.down = false := hs
  have hexec : exec .dbgAccessDone s = .next { s with
      host := (s.host.busRead s.env 0x40).settle.dbgDone
        (some (toLE 4 (s.host.busRead s.env 0x40).settle.readData.toNat ++ List.replicate 60 0)) } := by
    show execDbgAccessDone s = _
    unfold execDbgAccessDone
    dsimp only
    rw [if_neg (by simp [hup, hbusy]), if_neg (by simp [ht]), if_neg (by simp [hread]), if_neg (by simp [dbgProxied, ha]), ha]
  have hdata : (s.host.busRead s.env 0x40).settle.readData = s.host.word 0x40 :=
    (HostSide.settle_readData _).trans (HostSide.readData_busRead_scratch _ _ hr)
  generalize (s.host.busRead s.env 0x40).settle = g at hexec hdata
  refine ⟨_, hexec, rfl, hdata, ?_⟩
  simp only [HostSide.dbgDone, HostSide.setDbg_dbg, Option.getD_some, hdata]
  rw [List.take_append_of_le_length (by simp), List.take_of_length_le (by simp)]

end Sys2Proof.Machine

/-! SUPPORT. The boot ROM and the management firmware (R427, R429, R461, R466 to R472). -/

namespace Sys2Proof.Machine
open Sys2Proof

/-! ### The boot ROM -/

/-- What the ROM keeps while it chooses an image: BOOT_ID, STAGE and the image that runs. -/
structure HostSide.KeepsBoot (h g : HostSide) : Prop where
  words : ∀ a, a ∈ [Reg.DET_BOOT_ID_LO.addr, Reg.DET_BOOT_ID_HI.addr, Reg.CLK_BOOT_STAGE.addr] → g.word a = h.word a
  running : g.mgmt.running = h.mgmt.running

namespace HostSide.KeepsBoot

variable {h g k : HostSide}

theorem refl (h : HostSide) : h.KeepsBoot h := ⟨fun _ _ => rfl, rfl⟩

theorem trans (h₁ : h.KeepsBoot g) (h₂ : g.KeepsBoot k) : h.KeepsBoot k :=
  ⟨fun a ha => (h₂.words a ha).trans (h₁.words a ha), h₂.running.trans h₁.running⟩

/-- Registers of management show nothing of the boot's identity and stage. -/
theorem set (h : HostSide) (f : RF) (v : Nat) (hf : 0x700000 ≤ f.addr) : h.KeepsBoot (h.set f v) := by
  refine ⟨fun a ha => HostSide.word_set_ne h f v a fun e => ?_, rfl⟩
  subst e
  simp only [Reg.DET_BOOT_ID_LO, Reg.DET_BOOT_ID_HI, Reg.CLK_BOOT_STAGE, List.mem_cons, List.not_mem_nil, or_false] at ha
  omega

theorem ite (h : HostSide) (c : Prop) [Decidable c] (ht : c → h.KeepsBoot g) (hf : ¬ c → h.KeepsBoot k) :
    h.KeepsBoot (if c then g else k) := by
  split
  · next hc => exact ht hc
  · next hc => exact hf hc

theorem showSlots (h : HostSide) : h.KeepsBoot h.showSlots := by
  unfold HostSide.showSlots
  extract_lets c g₁ g₂
  have e₁ : h.KeepsBoot g₁ := ((set _ _ _ (by decide)).trans (set _ _ _ (by decide))).trans (set _ _ _ (by decide))
  have e₂ : g₁.KeepsBoot g₂ := (set _ _ _ (by decide)).trans (set _ _ _ (by decide))
  exact (e₁.trans e₂).trans ((set _ _ _ (by decide)).trans (set _ _ _ (by decide)))

theorem putCtl (h : HostSide) (c : SlotCtl) : h.KeepsBoot (h.putCtl c) :=
  trans (g := h.setFlash (ctlPut h.mgmt.flash c)) ⟨fun _ _ => rfl, rfl⟩ (showSlots _)

theorem showFail (h : HostSide) (n code : Nat) : h.KeepsBoot (h.showFail n code) := by
  refine set _ _ _ ?_
  split
  · decide
  · split <;> decide

theorem showReverted (h : HostSide) : h.KeepsBoot h.showReverted := (set _ _ _ (by decide)).trans (set _ _ _ (by decide))

theorem identity (h : HostSide) : h.KeepsBoot h.identity := by
  unfold HostSide.identity
  split
  · refine (set h Reg.MGMT_STATUS.IDENT_OK 1 (by decide)).trans ?_
    exact forN_keeps (fun g : HostSide => HostSide.KeepsBoot (h.set Reg.MGMT_STATUS.IDENT_OK 1) g) 8 _ _ (refl _) fun i g hg =>
      hg.trans (set g (Reg.MGMT_DEVICE_ID i) _ (by simp only [Reg.MGMT_DEVICE_ID]; omega))
  · exact set _ _ _ (by decide)

theorem bootFloor (h : HostSide) (v : Variant) : h.KeepsBoot (h.bootFloor v) := by
  refine trans (g := if (floorFind h.mgmt.root h.mgmt.flash).isSome then h
    else (h.set Reg.MGMT_STATUS.FLOOR_LOST 1).setBits Reg.MGMT_INT_STATUS 4) ?_ (set _ _ _ (by decide))
  exact ite _ _ (fun _ => refl _) fun _ => (set _ _ _ (by decide)).trans (set _ _ _ (by decide))

theorem showPartFail (h : HostSide) : h.KeepsBoot h.showPartFail := by
  unfold HostSide.showPartFail
  split
  · exact refl h
  · next n trial _ =>
    have hshown : h.KeepsBoot { h.showFail n 8 with mgmt := { h.mgmt with partFail := none } } :=
      ⟨fun a ha => (showFail h n 8).words a ha, rfl⟩
    exact hshown.trans (ite _ _ (fun _ => showReverted _) fun _ => refl _)

theorem romTry (h : HostSide) (v : Variant) (n st : Nat) : h.KeepsBoot (h.romTry v n st).1 := by
  unfold HostSide.romTry
  extract_lets c trial code g
  split
  · exact ite _ _ (fun _ => putCtl _ _) fun _ => refl _
  · refine (showFail h n code).trans (ite _ _ (fun _ => (putCtl _ _).trans (showReverted _)) fun _ => ?_)
    exact ite _ _ (fun _ => putCtl _ _) fun _ => refl _

theorem romSelect (h : HostSide) (v : Variant) : h.KeepsBoot (h.romSelect v).1 := by
  unfold HostSide.romSelect
  extract_lets attempt
  have hattempt (x : HostSide × Option Nat) (n st : Nat) (hx : h.KeepsBoot x.1) : h.KeepsBoot (attempt x n st).1 := by
    obtain ⟨g, _ | r⟩ := x
    · exact hx.trans (romTry g v n st)
    · exact hx
  clear_value attempt
  split
  · exact hattempt (attempt (attempt (h.set Reg.MGMT_STATUS.NO_CTRL_BLOCK 1, none) 0 0) 1 0) 2 0
      (hattempt (attempt (h.set Reg.MGMT_STATUS.NO_CTRL_BLOCK 1, none) 0 0) 1 0
        (hattempt (h.set Reg.MGMT_STATUS.NO_CTRL_BLOCK 1, none) 0 0 (set _ _ _ (by decide))))
  · next c _ =>
    extract_lets a st x y
    have hx : h.KeepsBoot x.1 := by
      dsimp only [x]
      split
      · exact hattempt (h, none) a st (refl h)
      · exact refl h
    clear_value x
    have hy : h.KeepsBoot y.1 := by
      dsimp only [y]
      split
      · exact hattempt x c.idle 5 hx
      · exact hx
    exact hattempt y 2 0 hy

theorem get (hk : h.KeepsBoot g) (f : RF) (hf : f.addr ∈ [Reg.DET_BOOT_ID_LO.addr, Reg.DET_BOOT_ID_HI.addr, Reg.CLK_BOOT_STAGE.addr]) :
    g.get f = h.get f := HostSide.get_of_word _ _ _ (hk.words _ hf)

end HostSide.KeepsBoot

/-- BOOT_ID as drawn. -/
theorem HostSide.bootId_drawn (h : HostSide) (v : Nat) (hv : v < 2 ^ 64) :
    (h.set2 Reg.DET_BOOT_ID_LO Reg.DET_BOOT_ID_HI v).get2 Reg.DET_BOOT_ID_LO Reg.DET_BOOT_ID_HI = v :=
  HostSide.get2_set2 h _ _ v (by unfold RF.fits; decide) (by unfold RF.fits; decide) (by decide) hv

/-- Fields written one after the other leave other words and management alone. -/
theorem HostSide.forN_set_word (h : HostSide) (f : Nat → RF) (v : Nat → Nat) (n a : Nat) (ha : ∀ i, a ≠ (f i).addr) :
    (forN n (fun i g => g.set (f i) (v i)) h).word a = h.word a :=
  forN_keeps (fun g : HostSide => g.word a = h.word a) n _ h rfl fun i g hg => (HostSide.word_set_ne g _ _ a (ha i)).trans hg

theorem HostSide.forN_set_mgmt (h : HostSide) (f : Nat → RF) (v : Nat → Nat) (n : Nat) :
    (forN n (fun i g => g.set (f i) (v i)) h).mgmt = h.mgmt :=
  forN_keeps (fun g : HostSide => g.mgmt = h.mgmt) n _ h rfl fun _ _ hg => hg

/-- The image that runs, as shown (R487). -/
theorem HostSide.runImage_spec (h : HostSide) (n : Nat) : (h.runImage n).mgmt.running = some n
    ∧ (h.runImage n).get Reg.CLK_BOOT_STAGE = 3 ∧ (n < 3 → (h.runImage n).get Reg.MGMT_STATUS.BOOT_SRC = n)
    ∧ (h.runImage n).get2 Reg.DET_BOOT_ID_LO Reg.DET_BOOT_ID_HI = h.get2 Reg.DET_BOOT_ID_LO Reg.DET_BOOT_ID_HI := by
  have hfield (f : RF) (hf : f.addr < 0x700020) (hst : f.addr ≠ Reg.CLK_BOOT_STAGE.addr) :
      (h.runImage n).get f = (h.set Reg.MGMT_STATUS.BOOT_SRC n).get f := by
    refine HostSide.get_of_word _ _ _ ?_
    unfold HostSide.runImage
    rw [HostSide.word_set_ne _ _ _ _ hst,
      HostSide.forN_set_word _ Reg.MGMT_MANIFEST_DIGEST _ _ _ fun i => by simp only [Reg.MGMT_MANIFEST_DIGEST]; omega,
      HostSide.forN_set_word _ Reg.MGMT_VERSION _ _ _ fun i => by simp only [Reg.MGMT_VERSION]; omega]
    rfl
  have hkept (f : RF) (hf : f.addr < 0x700000) (hst : f.addr ≠ Reg.CLK_BOOT_STAGE.addr) : (h.runImage n).get f = h.get f :=
    (hfield f (by omega) hst).trans (HostSide.get_of_word _ _ _ (HostSide.word_set_ne _ _ _ _ (by
      simp only [Reg.MGMT_STATUS.BOOT_SRC]
      omega)))
  refine ⟨?_, HostSide.get_set_self _ _ _ (by unfold RF.fits; decide), fun hn => ?_, ?_⟩
  · unfold HostSide.runImage
    rw [HostSide.set_mgmt, HostSide.forN_set_mgmt _ Reg.MGMT_MANIFEST_DIGEST, HostSide.forN_set_mgmt _ Reg.MGMT_VERSION]
  · rw [hfield Reg.MGMT_STATUS.BOOT_SRC (by decide) (by decide), HostSide.get_set_self _ _ _ (by unfold RF.fits; decide)]
    exact Nat.mod_eq_of_lt (by simp only [Reg.MGMT_STATUS.BOOT_SRC]; omega)
  · unfold HostSide.get2
    rw [hkept Reg.DET_BOOT_ID_LO (by decide) (by decide), hkept Reg.DET_BOOT_ID_HI (by decide) (by decide)]

theorem HostSide.showSlots_bootSrc (h : HostSide) : h.showSlots.get Reg.MGMT_STATUS.BOOT_SRC = h.get Reg.MGMT_STATUS.BOOT_SRC := by
  have hne (g : HostSide) (f : RF) (v : Nat) (hf : f.addr = 0x700004 ∨ f.addr = 0x700008) :
      (g.set f v).get Reg.MGMT_STATUS.BOOT_SRC = g.get Reg.MGMT_STATUS.BOOT_SRC :=
    HostSide.get_of_word _ _ _ (HostSide.word_set_ne _ _ _ _ (by simp only [Reg.MGMT_STATUS.BOOT_SRC]; omega))
  unfold HostSide.showSlots
  extract_lets c g₁ g₂
  have e₁ : g₁.get Reg.MGMT_STATUS.BOOT_SRC = h.get Reg.MGMT_STATUS.BOOT_SRC :=
    (hne _ _ _ (.inl rfl)).trans ((hne _ _ _ (.inl rfl)).trans (hne _ _ _ (.inl rfl)))
  have e₂ : g₂.get Reg.MGMT_STATUS.BOOT_SRC = g₁.get Reg.MGMT_STATUS.BOOT_SRC := (hne _ _ _ (.inr rfl)).trans (hne _ _ _ (.inl rfl))
  rw [HostSide.get_set_apart _ _ _ _ (by unfold RF.fits; decide) (by unfold RF.apart; decide), hne _ _ _ (.inr rfl), e₂, e₁]

/-- The host side when the ROM looks for an image. -/
def HostSide.atRom (h : HostSide) (v : Variant) : HostSide :=
  let g := (((h.set2 Reg.DET_BOOT_ID_LO Reg.DET_BOOT_ID_HI (Config.bootId h.boots).toNat).identity.bootFloor v).showPartFail).showSlots
  if g.pcieLink = .detect then { g with pcieLink := .training } else g

/-- The host side once the ROM has chosen. -/
def HostSide.chosen (g : HostSide) (r : Option Nat) : HostSide :=
  match r with
  | some n => (g.runImage n).showSlots
  | none => g.showSlots.set Reg.CLK_BOOT_STAGE 15

theorem execBootCandidateSelect_rom (s : State) (hs : s.up) (hrun : s.host.mgmt.running = none)
    (hstage : s.host.get Reg.CLK_BOOT_STAGE = 1 ∨ s.host.get Reg.CLK_BOOT_STAGE = 2) :
    exec .bootCandidateSelect s = .next { s with host :=
      (((s.host.atRom s.env.variant).romSelect s.env.variant).1.chosen ((s.host.atRom s.env.variant).romSelect s.env.variant).2).settle } := by
  show execBootCandidateSelect s = _
  unfold execBootCandidateSelect
  rw [State.onHost_up s _ hs, if_neg (by simpa [hrun, or_iff_not_imp_left] using hstage)]
  unfold HostSide.atRom
  extract_lets g₁ g₂ g₃ g₄
  generalize g₃.romSelect s.env.variant = x
  obtain ⟨g, _ | n⟩ := x <;> rfl

theorem HostSide.chosen_spec (g : HostSide) (r : Option Nat) (hrun : g.mgmt.running = none) :
    (g.chosen r).get2 Reg.DET_BOOT_ID_LO Reg.DET_BOOT_ID_HI = g.get2 Reg.DET_BOOT_ID_LO Reg.DET_BOOT_ID_HI
      ∧ ((g.chosen r).mgmt.running = none → (g.chosen r).get Reg.CLK_BOOT_STAGE = 15)
      ∧ ∀ n, (g.chosen r).mgmt.running = some n →
          (g.chosen r).get Reg.CLK_BOOT_STAGE = 3 ∧ (n < 3 → (g.chosen r).get Reg.MGMT_STATUS.BOOT_SRC = n) := by
  cases r with
  | some m =>
    obtain ⟨hrunning, hstage, hsrc, hid⟩ := g.runImage_spec m
    have hslots := HostSide.KeepsBoot.showSlots (g.runImage m)
    refine ⟨?_, fun h => ?_, fun n h => ?_⟩
    · exact (congrArg₂ (fun x y => x + y * 2 ^ 32) (hslots.get _ (by decide)) (hslots.get _ (by decide)) : _).trans hid
    · rw [HostSide.chosen, hslots.running, hrunning] at h
      exact absurd h (by simp)
    · rw [HostSide.chosen, hslots.running, hrunning, Option.some.injEq] at h
      subst h
      exact ⟨(hslots.get _ (by decide)).trans hstage, fun hn => (HostSide.showSlots_bootSrc _).trans (hsrc hn)⟩
  | none =>
    have hslots := HostSide.KeepsBoot.showSlots g
    have hfield (f : RF) (hf : f.addr ∈ [Reg.DET_BOOT_ID_LO.addr, Reg.DET_BOOT_ID_HI.addr]) : (g.chosen none).get f = g.get f := by
      refine (HostSide.get_of_word _ _ _ (HostSide.word_set_ne g.showSlots _ _ _ fun e => ?_)).trans
        (hslots.get f (by simp only [List.mem_cons, List.not_mem_nil, or_false] at hf ⊢; tauto))
      rw [e] at hf
      exact absurd hf (by decide)
    refine ⟨?_, fun _ => HostSide.get_set_self _ _ _ (by unfold RF.fits; decide), fun n h => ?_⟩
    · unfold HostSide.get2
      rw [hfield _ (by decide), hfield _ (by decide)]
    · have hnone : (g.chosen none).mgmt.running = none := hslots.running.trans hrun
      rw [hnone] at h
      exact absurd h (by simp)

theorem bootCandidateSelect_boots (s : State) (hs : s.up) (hrun : s.host.mgmt.running = none)
    (hstage : s.host.get Reg.CLK_BOOT_STAGE = 1 ∨ s.host.get Reg.CLK_BOOT_STAGE = 2) :
    ∃ t, exec .bootCandidateSelect s = .next t
      ∧ t.host.get2 Reg.DET_BOOT_ID_LO Reg.DET_BOOT_ID_HI = (Config.bootId s.host.boots).toNat
      ∧ (t.host.mgmt.running = none → t.host.get Reg.CLK_BOOT_STAGE = 15)
      ∧ ∀ n, t.host.mgmt.running = some n → t.host.get Reg.CLK_BOOT_STAGE = 3 ∧ (n < 3 → t.host.get Reg.MGMT_STATUS.BOOT_SRC = n) := by
  have hrom : (s.host.set2 Reg.DET_BOOT_ID_LO Reg.DET_BOOT_ID_HI (Config.bootId s.host.boots).toNat).KeepsBoot (s.host.atRom s.env.variant) := by
    refine .trans (.trans (.identity _) (.trans (.bootFloor _ _) (.trans (.showPartFail _) (.showSlots _)))) (.ite _ _ (fun _ => ?_) fun _ => .refl _)
    exact ⟨fun _ _ => rfl, rfl⟩
  have hsel := hrom.trans (HostSide.KeepsBoot.romSelect (s.host.atRom s.env.variant) s.env.variant)
  have hid : ((s.host.atRom s.env.variant).romSelect s.env.variant).1.get2 Reg.DET_BOOT_ID_LO Reg.DET_BOOT_ID_HI
      = (Config.bootId s.host.boots).toNat := by
    unfold HostSide.get2
    rw [hsel.get _ (by decide), hsel.get _ (by decide)]
    exact s.host.bootId_drawn _ (Config.bootId s.host.boots).isLt
  obtain ⟨hchosen, hnone, hsome⟩ := HostSide.chosen_spec _ ((s.host.atRom s.env.variant).romSelect s.env.variant).2 (hsel.running.trans hrun)
  refine ⟨_, execBootCandidateSelect_rom s hs hrun hstage, ?_⟩
  generalize ((s.host.atRom s.env.variant).romSelect s.env.variant).1.chosen _ = g at hchosen hnone hsome ⊢
  have hget (f : RF) (hf : f.addr ≠ Reg.HIF_IRQ_PENDING.addr) : g.settle.get f = g.get f := HostSide.settle_get _ _ hf
  unfold HostSide.get2 at hchosen hid ⊢
  rw [HostSide.settle_mgmt, hget _ (by decide), hget _ (by decide), hget _ (by decide), hget _ (by decide), hchosen, hid]
  exact ⟨rfl, hnone, hsome⟩

end Sys2Proof.Machine

/-! ### The management firmware -/

namespace Sys2Proof.Machine
open Sys2Proof

theorem execFirmwareStarted_parts (s : State) (n : Nat) (hs : s.up) (hrun : s.host.mgmt.running = some n)
    (hstage : s.host.get Reg.CLK_BOOT_STAGE = 3) : exec .firmwareStarted s = .next { s with host := s.host.installParts n } := by
  have hup : s.host.down = false := hs
  show execFirmwareStarted s = _
  unfold execFirmwareStarted
  rw [hrun]
  dsimp only
  rw [if_neg (by simp [hup])]
  simp only [hstage]

theorem execFirmwareStarted_field (s : State) (n : Nat) (hs : s.up) (hrun : s.host.mgmt.running = some n)
    (hstage : s.host.get Reg.CLK_BOOT_STAGE = 4 ∨ s.host.get Reg.CLK_BOOT_STAGE = 5) :
    exec .firmwareStarted s = .next (s.loadField n) := by
  have hup : s.host.down = false := hs
  show execFirmwareStarted s = _
  unfold execFirmwareStarted
  rw [hrun]
  dsimp only
  rw [if_neg (by simp [hup])]
  obtain hstage | hstage := hstage <;> simp only [hstage]

/-- What a warm reset of cause 7 shows and keeps (R423, R424). -/
theorem HostSide.hostReset_seven (h : HostSide) : (h.hostReset 7).down = true ∧ (h.hostReset 7).get Reg.CLK_RST_CAUSE.LAST = 7
    ∧ (h.hostReset 7).get Reg.CLK_RST_CAUSE.HIST = (h.get Reg.CLK_RST_CAUSE.HIST ||| 2 ^ 6) % 128
    ∧ (∀ a, a ≠ Reg.CLK_RST_CAUSE.LAST.addr → a ≠ Reg.CLK_LOL_COUNT.addr → (h.hostReset 7).word a = resetWord a)
    ∧ (h.hostReset 7).mem = h.mem ∧ (h.hostReset 7).bme = false ∧ (h.hostReset 7).mgmt.partFail = h.mgmt.partFail := by
  unfold HostSide.hostReset
  extract_lets cold mem dbg g₁ lol hist g₂
  have hlol (f : RF) (hf : f.addr ≠ Reg.CLK_LOL_COUNT.addr) : ((g₂.set Reg.CLK_LOL_COUNT lol).inc Reg.CLK_LOL_COUNT 0).get f = g₂.get f :=
    HostSide.get_of_word _ _ _ ((HostSide.word_set_ne _ _ _ _ hf).trans (HostSide.word_set_ne _ _ _ _ hf))
  refine ⟨rfl, ?_, ?_, fun a ha hl => ?_, rfl, rfl, rfl⟩
  · refine (hlol _ (by decide)).trans ?_
    rw [HostSide.get_set_apart _ _ _ _ (by unfold RF.fits; decide) (by unfold RF.apart; decide)]
    exact HostSide.get_set_self _ _ _ (by unfold RF.fits; decide)
  · exact (hlol _ (by decide)).trans (HostSide.get_set_self _ _ _ (by unfold RF.fits; decide))
  · refine (HostSide.word_set_ne _ _ _ a hl).trans ((HostSide.word_set_ne _ _ _ a hl).trans ?_)
    exact (HostSide.word_set_ne _ Reg.CLK_RST_CAUSE.HIST _ a ha).trans (HostSide.word_set_ne g₁ Reg.CLK_RST_CAUSE.LAST _ a ha)

/-- The slots as shown stand in management's own words. -/
theorem HostSide.putCtl_word (h : HostSide) (c : SlotCtl) (a : Nat) (ha : a < 0x700000) : (h.putCtl c).word a = h.word a := by
  have hset (g : HostSide) (f : RF) (v : Nat) (hf : 0x700000 ≤ f.addr) : (g.set f v).word a = g.word a :=
    HostSide.word_set_ne _ _ _ _ (by omega)
  unfold HostSide.putCtl HostSide.showSlots
  extract_lets c g₁ g₂
  exact (hset _ _ _ (by decide)).trans ((hset _ _ _ (by decide)).trans ((hset _ _ _ (by decide)).trans ((hset _ _ _ (by decide)).trans
    ((hset _ _ _ (by decide)).trans ((hset _ _ _ (by decide)).trans (hset (h.setFlash (ctlPut h.mgmt.flash _)) _ _ (by decide)))))))

theorem HostSide.putCtl_mem (h : HostSide) (c : SlotCtl) : (h.putCtl c).mem = h.mem := rfl

/-- A failing part of a slot's image resets the host side (R466, R468). -/
theorem firmwareStarted_failsSlot (s : State) (n : Nat) (hs : s.up) (hrun : s.host.mgmt.running = some n)
    (hstage : s.host.get Reg.CLK_BOOT_STAGE = 3) (p : Nat × Nat × Nat × List Byte) (hp : partFailing s.host.mgmt.flash n = some p) (hn : n < 2) :
    ∃ t, exec .firmwareStarted s = .next t ∧ s.resetFor t 7 ∧ t.host.mgmt.partFail.isSome = true := by
  have hup : s.host.down = false := hs
  have hbad : s.host.installParts n = ({ s.host.putCtl (s.host.ctl.fail n) with
      mgmt := { (s.host.putCtl (s.host.ctl.fail n)).mgmt with partFail := some (n, s.host.ctl.state n == 4) } } : HostSide).hostReset 7 := by
    unfold HostSide.installParts
    rw [hp]
    exact if_pos hn
  have hword := s.host.putCtl_word (s.host.ctl.fail n)
  have hmem := s.host.putCtl_mem (s.host.ctl.fail n)
  refine ⟨_, execFirmwareStarted_parts s n hs hrun hstage, ?_⟩
  rw [hbad]
  generalize s.host.putCtl (s.host.ctl.fail n) = g at hword hmem ⊢
  obtain ⟨hdown, hlast, hhist, hwords, hkept, hbme, hfail⟩ :=
    HostSide.hostReset_seven { g with mgmt := { g.mgmt with partFail := some (n, s.host.ctl.state n == 4) } }
  have hsame : s.sameReset = false := by simp [State.sameReset, hup]
  refine ⟨⟨⟨rfl, rfl, rfl, rfl⟩, hdown, ?_, ?_, hwords, hkept.trans hmem, hbme⟩, ?_⟩
  · rw [hlast, hsame]
    rfl
  · have hold : ({ g with mgmt := { g.mgmt with partFail := some (n, s.host.ctl.state n == 4) } } : HostSide).get Reg.CLK_RST_CAUSE.HIST
        = s.host.get Reg.CLK_RST_CAUSE.HIST := HostSide.get_of_word _ _ _ (hword _ (by decide))
    rw [hhist, hsame, hold]
    simp
  · rw [hfail]
    rfl

/-- A failing part of the recovery image ends the boot (R466, R468). -/
theorem firmwareStarted_failsRecovery (s : State) (n : Nat) (hs : s.up) (hrun : s.host.mgmt.running = some n)
    (hstage : s.host.get Reg.CLK_BOOT_STAGE = 3) (p : Nat × Nat × Nat × List Byte) (hp : partFailing s.host.mgmt.flash n = some p) (hn : 2 ≤ n) :
    ∃ t, exec .firmwareStarted s = .next t ∧ t.host.get Reg.CLK_BOOT_STAGE = 15 ∧ t.host.get Reg.MGMT_BOOT_FAIL.REC = 8
      ∧ s.regsOnly t [Reg.CLK_BOOT_STAGE.addr, Reg.MGMT_BOOT_FAIL.REC.addr] := by
  have hbad : s.host.installParts n = (s.host.set Reg.MGMT_BOOT_FAIL.REC 8).set Reg.CLK_BOOT_STAGE 15 := by
    unfold HostSide.installParts
    rw [hp]
    exact if_neg (Nat.not_lt.mpr hn)
  refine ⟨_, execFirmwareStarted_parts s n hs hrun hstage, ?_⟩
  rw [hbad]
  refine ⟨HostSide.get_set_self _ _ _ (by unfold RF.fits; decide), ?_, ⟨rfl, rfl, rfl, rfl⟩, rfl, fun a ha _ => ?_⟩
  · exact (HostSide.get_of_word _ _ _ (HostSide.word_set_ne _ _ _ _ (by decide))).trans
      (HostSide.get_set_self s.host _ _ (by unfold RF.fits; decide))
  · simp only [List.mem_cons, List.not_mem_nil, or_false, not_or] at ha
    exact (HostSide.word_set_ne _ _ _ a ha.1).trans (HostSide.word_set_ne _ _ _ a ha.2)

/-- Only STAGE moves. -/
theorem State.stageOnly (s : State) (v : Nat) (hv : v < 16) :
    ({ s with host := s.host.set Reg.CLK_BOOT_STAGE v } : State).host.get Reg.CLK_BOOT_STAGE = v
      ∧ { s with host := { s.host.set Reg.CLK_BOOT_STAGE v with regs := s.host.regs } } = s
      ∧ ∀ a, a ≠ Reg.CLK_BOOT_STAGE.addr → (s.host.set Reg.CLK_BOOT_STAGE v).word a = s.host.word a :=
  ⟨(HostSide.get_set_self _ _ _ (by unfold RF.fits; decide)).trans (Nat.mod_eq_of_lt hv), rfl, fun a ha => HostSide.word_set_ne _ _ _ a ha⟩

theorem firmwareStarted_installs (s : State) (n : Nat) (hs : s.up) (hrun : s.host.mgmt.running = some n)
    (hstage : s.host.get Reg.CLK_BOOT_STAGE = 3) (hp : partFailing s.host.mgmt.flash n = none) :
    ∃ t, exec .firmwareStarted s = .next t ∧ t.host.get Reg.CLK_BOOT_STAGE = 4
      ∧ { t with host := { t.host with regs := s.host.regs } } = s
      ∧ ∀ a, a ≠ Reg.CLK_BOOT_STAGE.addr → t.host.word a = s.host.word a := by
  have hgood : s.host.installParts n = s.host.set Reg.CLK_BOOT_STAGE 4 := by
    unfold HostSide.installParts
    rw [hp]
  refine ⟨_, execFirmwareStarted_parts s n hs hrun hstage, ?_⟩
  rw [hgood]
  exact s.stageOnly 4 (by decide)

/-- A field die in reset is awaited (R427 step 8). -/
theorem firmwareStarted_awaits (s : State) (n : Nat) (hs : s.up) (hrun : s.host.mgmt.running = some n)
    (hstage : s.host.get Reg.CLK_BOOT_STAGE = 4 ∨ s.host.get Reg.CLK_BOOT_STAGE = 5) (p : Nat × Nat × Nat × List Byte)
    (hp : (manParts (imageHeader s.host.mgmt.flash n)).find? (fun p => p.1 == 3) = some p) (hctl : s.field.ctl = 0) :
    ∃ t, exec .firmwareStarted s = .next t ∧ t.host.get Reg.CLK_BOOT_STAGE = 5
      ∧ { t with host := { t.host with regs := s.host.regs } } = s
      ∧ ∀ a, a ≠ Reg.CLK_BOOT_STAGE.addr → t.host.word a = s.host.word a := by
  have hload : s.loadField n = { s with host := s.host.set Reg.CLK_BOOT_STAGE 5 } := by
    unfold State.loadField
    dsimp only
    rw [hp]
    dsimp only
    rw [if_pos hctl]
  refine ⟨_, execFirmwareStarted_field s n hs hrun hstage, ?_⟩
  rw [hload]
  exact s.stageOnly 5 (by decide)

/-- A field die that stays in its ROM ends the boot (R429). -/
theorem firmwareStarted_fieldLost (s : State) (n : Nat) (hs : s.up) (hrun : s.host.mgmt.running = some n)
    (hstage : s.host.get Reg.CLK_BOOT_STAGE = 4 ∨ s.host.get Reg.CLK_BOOT_STAGE = 5) (p : Nat × Nat × Nat × List Byte)
    (hp : (manParts (imageHeader s.host.mgmt.flash n)).find? (fun p => p.1 == 3) = some p) (hctl : s.field.ctl ≠ 0)
    (hnone : s.field.withFirmware (fRead s.host.mgmt.flash (slotBase n + p.2.1) p.2.2.1) p.2.2.2 = none) :
    ∃ t, exec .firmwareStarted s = .next t ∧ t.host.get Reg.CLK_BOOT_STAGE = 15
      ∧ { t with host := { t.host with regs := s.host.regs } } = s
      ∧ ∀ a, a ≠ Reg.CLK_BOOT_STAGE.addr → t.host.word a = s.host.word a := by
  have hload : s.loadField n = { s with host := s.host.set Reg.CLK_BOOT_STAGE 15 } := by
    unfold State.loadField
    dsimp only
    rw [hp]
    dsimp only
    rw [if_neg hctl, hnone]
  refine ⟨_, execFirmwareStarted_field s n hs hrun hstage, ?_⟩
  rw [hload]
  exact s.stageOnly 15 (by decide)

/-! ### The settings of the field side (R479, R481) -/

theorem HostSide.settle_settingOf (h : HostSide) (id ctx : Nat) : h.settle.settingOf id ctx = h.settingOf id ctx := by
  have hdigest : h.settle.manifestDigest = h.manifestDigest := by
    unfold HostSide.manifestDigest
    congr 1
    funext k
    rw [HostSide.settle_get _ _ (by simp only [Reg.MGMT_MANIFEST_DIGEST, Reg.HIF_IRQ_PENDING]; omega)]
  have hfmt : h.settle.ownFmt id = h.ownFmt id := by rw [HostSide.ownFmt, HostSide.ownFmt, hdigest]
  have htrial : h.settle.inTrial = h.inTrial := by
    unfold HostSide.inTrial HostSide.runningState HostSide.runningSlot HostSide.ctl
    rw [HostSide.settle_mgmt]
  have hset : h.settle.settings = h.settings := by rw [HostSide.settings, HostSide.settings, HostSide.settle_mgmt]
  unfold HostSide.settingOf
  rw [hfmt, htrial, hset]

theorem FieldDie.applySettings_settle (d : FieldDie) (h : HostSide) : d.applySettings h.settle = d.applySettings h := by
  unfold FieldDie.applySettings
  simp only [HostSide.settle_settingOf]

/-- The watchdog runs and STAGE is 6 once the firmware is up (R427 step 9, R433). -/
theorem HostSide.firmwareUp_shown (h : HostSide) (e : Env) (n : Nat) :
    (h.firmwareUp e n).get Reg.CLK_BOOT_STAGE = 6 ∧ (h.firmwareUp e n).get Reg.CLK_WDOG.EN = 1 := by
  unfold HostSide.firmwareUp
  extract_lets last g₁ g₂
  generalize g₂.free 0x433 = x
  obtain ⟨g, t⟩ := x
  refine ⟨HostSide.get_set_self _ _ _ (by unfold RF.fits; decide), ?_⟩
  exact (HostSide.get_of_word _ _ _ (HostSide.word_set_ne _ _ _ _ (by decide))).trans (HostSide.get_set_self _ _ _ (by unfold RF.fits; decide))

theorem firmwareStarted_up (s : State) (n : Nat) (hs : s.up) (hrun : s.host.mgmt.running = some n)
    (hstage : s.host.get Reg.CLK_BOOT_STAGE = 4 ∨ s.host.get Reg.CLK_BOOT_STAGE = 5) (p : Nat × Nat × Nat × List Byte)
    (hp : (manParts (imageHeader s.host.mgmt.flash n)).find? (fun p => p.1 == 3) = some p) (d : FieldDie) (hctl : s.field.ctl ≠ 0)
    (hd : s.field.withFirmware (fRead s.host.mgmt.flash (slotBase n + p.2.1) p.2.2.1) p.2.2.2 = some d) :
    ∃ t, exec .firmwareStarted s = .next t ∧ t.host.get Reg.CLK_BOOT_STAGE = 6 ∧ t.host.get Reg.CLK_WDOG.EN = 1
      ∧ t.field = d.applySettings t.host ∧ t.pending = s.pending ∧ t.tick = s.tick := by
  have hload : s.loadField n = { s with host := (s.host.firmwareUp s.env n).settle, field := d.applySettings (s.host.firmwareUp s.env n) } := by
    unfold State.loadField
    dsimp only
    rw [hp]
    dsimp only
    rw [if_neg hctl, hd]
  obtain ⟨hst, hwdog⟩ := s.host.firmwareUp_shown s.env n
  refine ⟨_, execFirmwareStarted_field s n hs hrun hstage, ?_⟩
  rw [hload]
  generalize s.host.firmwareUp s.env n = g at hst hwdog ⊢
  exact ⟨(HostSide.settle_get _ _ (by decide)).trans hst, (HostSide.settle_get _ _ (by decide)).trans hwdog,
    (FieldDie.applySettings_settle d g).symm, rfl, rfl⟩

end Sys2Proof.Machine

/-! SUPPORT. Self-test and the unit map after a reset (R19, R211, R427, R428). -/

namespace Sys2Proof.Machine
open Sys2Proof

/-- What holds before a loop and goes from each round to the next holds after it. -/
theorem forN_induct {β : Type} (P : Nat → β → Prop) (n : Nat) (f : Nat → β → β) (b : β) (h0 : P 0 b)
    (step : ∀ i < n, ∀ x, P i x → P (i + 1) (f i x)) : P n (forN n f b) := by
  induction n with
  | zero => exact h0
  | succ n ih =>
    rw [forN_succ]
    exact step n (Nat.lt_succ_self n) _ (ih fun i hi => step i (Nat.lt_succ_of_lt hi))

/-! ### Where a fresh map places the logical cores -/

/-- The sites that a cluster's map without a move gives are healthy ones of the cluster. -/
theorem mapSites_healthy (k fenced c site : Nat) (h : SMap.find (mapSites k fenced 15) c = some site) :
    ∃ i, i < 9 ∧ bit fenced i = false ∧ site = 9 * k + i := by
  have hmem : (c, site) ∈ mapSites k fenced 15 := by
    generalize mapSites k fenced 15 = l at h
    induction l with
    | nil => exact absurd h (by simp [SMap.find])
    | cons x l ih =>
      obtain ⟨key, v⟩ := x
      rw [SMap.find] at h
      split at h
      · next hc =>
        subst hc
        exact List.mem_cons.mpr (.inl (congrArg _ (Option.some.inj h).symm))
      · exact List.mem_cons_of_mem _ (ih h)
  simp only [mapSites, show ¬ (15 : Nat) < 9 by decide, if_false, List.mem_mapIdx, Prod.mk.injEq] at hmem
  obtain ⟨j, hj, -, hsite⟩ := hmem
  have hi := List.mem_of_mem_take (List.getElem_mem hj)
  rw [List.mem_filter, List.mem_range] at hi
  exact ⟨_, hi.1, by simpa using hi.2, hsite.symm⟩

/-- With no site fenced each logical core stands on the site of its own place (R19). -/
theorem mapSites_whole (k j : Nat) (hj : j < 8) : SMap.find (mapSites k 0 15) (8 * k + j) = some (9 * k + j) := by
  have hmap : mapSites k 0 15 = (List.range 8).map fun j => (8 * k + j, 9 * k + j) := by
    have hall : (List.range 9).filter (fun i => !bit 0 i) = List.range 9 := by decide
    simp only [mapSites, show ¬ (15 : Nat) < 9 by decide, if_false, hall]
    rfl
  rw [hmap]
  interval_cases j <;> simp [SMap.find, List.range_succ]

theorem HostSide.fencedBits_none (h : HostSide) (k : Nat) (hf : h.insp.fenced = []) : h.fencedBits k = 0 := by
  simp [HostSide.fencedBits, hf]

/-- The one fenced site shows in its cluster's map word. -/
theorem HostSide.fencedBits_one (h : HostSide) (q r : Nat) (hr : r < 9) (hf : h.insp.fenced = [9 * q + r]) :
    bit (h.fencedBits q) r = true := by
  have hfilter : (List.range 9).filter (fun i => decide (9 * q + i ∈ h.insp.fenced)) = (List.range 9).filter (fun i => decide (i = r)) := by
    refine List.filter_congr fun i _ => ?_
    simp only [hf, List.mem_singleton, Nat.add_left_cancel_iff]
  unfold HostSide.fencedBits
  rw [hfilter]
  interval_cases r <;> decide

/-! ### The unit map is formed -/

/-- One cluster's turn when the unit map is formed. -/
def HostSide.formCluster (k : Nat) (h : HostSide) : HostSide :=
  let h := (h.remap k).showMap k
  let h := if h.healthy k = 7 then h.set Reg.DET_CLU_STATE.DEGRADED (h.get Reg.DET_CLU_STATE.DEGRADED ||| 2 ^ k) else h
  if h.healthy k < 8 then h.setBits Reg.DET_INT_STATUS 2 else h

theorem HostSide.formMap_eq (h : HostSide) : h.formMap = forN 8 HostSide.formCluster h := rfl

theorem HostSide.showIds_word (h : HostSide) (k a : Nat) (ha : a < 0x400000 ∨ a % 0x2000 ≠ 0) : (h.showIds k).word a = h.word a := by
  have hset (g : HostSide) (site lo w v : Nat) : (g.set ⟨0x400000 + site * 0x2000, lo, w⟩ v).word a = g.word a :=
    HostSide.word_set_ne _ _ _ _ (by dsimp only; omega)
  exact forN_keeps (fun g : HostSide => g.word a = h.word a) 9 _ h rfl fun i g hg =>
    (hset _ _ _ _ _).trans ((hset _ _ _ _ _).trans ((hset _ _ _ _ _).trans ((hset _ _ _ _ _).trans hg)))

/-- Forming the map keeps what follows: the engines but the map, and the fields `f` of other words or bits. -/
theorem HostSide.formCluster_get (h : HostSide) (k : Nat) (f : RF)
    (hmap : (⟨0x800 + k / 2 * 4, k % 2 * 16, 16⟩ : RF).apart f) (hdeg : Reg.DET_CLU_STATE.DEGRADED.apart f)
    (hint : Reg.DET_INT_STATUS.addr ≠ f.addr) (hid : f.addr < 0x400000 ∨ f.addr % 0x2000 ≠ 0) :
    (h.formCluster k).get f = h.get f := by
  unfold HostSide.formCluster
  extract_lets g₁ g₂
  have e₁ : g₁.get f = h.get f := by
    refine (HostSide.get_of_word _ _ _ (HostSide.showIds_word _ k _ hid)).trans
      ((HostSide.get_set_apart _ _ _ _ (by simp only [RF.fits]; omega) hmap).trans ?_)
    rw [HostSide.remap_eq]
    rfl
  have e₂ : g₂.get f = g₁.get f := by
    dsimp only [g₂]
    split
    · exact HostSide.get_set_apart _ _ _ _ (by unfold RF.fits; decide) hdeg
    · rfl
  refine .trans ?_ (e₂.trans e₁)
  split
  · exact HostSide.get_of_word _ _ _ (HostSide.word_set_ne _ _ _ _ (Ne.symm hint))
  · rfl

theorem HostSide.formCluster_insp (h : HostSide) (k : Nat) : (h.formCluster k).insp = (h.remap k).insp := by
  unfold HostSide.formCluster
  extract_lets g₁ g₂
  have e₂ : g₂.insp = g₁.insp := by
    dsimp only [g₂]
    split
    · exact HostSide.set_insp _ _ _
    · rfl
  refine .trans ?_ (e₂.trans (HostSide.showMap_insp _ k))
  clear_value g₂
  split
  · exact HostSide.set_insp _ _ _
  · rfl

/-- The map word of a cluster whose logical cores have not moved. -/
theorem HostSide.formCluster_mapWord (h : HostSide) (k : Nat) (hk : k < 8) (hmoved : h.movedFromOf k = 15) (hrun : h.cluHalted k = false) :
    (h.formCluster k).get ⟨0x800 + k / 2 * 4, k % 2 * 16, 16⟩ ≠ 0 := by
  have hword := h.mapWord_remap k 15 hmoved
  have hlt := h.fencedBits_lt k
  simp only [hrun] at hword
  have hshown := (h.remap k).showMap_get k hk (by rw [hword]; simp; omega)
  unfold HostSide.formCluster
  extract_lets g₁ g₂
  have e₂ : g₂.get ⟨0x800 + k / 2 * 4, k % 2 * 16, 16⟩ = g₁.get ⟨0x800 + k / 2 * 4, k % 2 * 16, 16⟩ := by
    dsimp only [g₂]
    split
    · exact HostSide.get_of_word _ _ _ (HostSide.word_set_ne _ _ _ _ (by simp only [Reg.DET_CLU_STATE.DEGRADED]; omega))
    · rfl
  have e₁ : g₁.get ⟨0x800 + k / 2 * 4, k % 2 * 16, 16⟩ ≠ 0 := by
    rw [hshown, hword]
    omega
  split
  · rw [HostSide.setBits, HostSide.get_of_word _ _ _ (HostSide.word_set_ne _ _ _ _ (by simp only [Reg.DET_INT_STATUS]; omega)), e₂]
    exact e₁
  · rw [e₂]
    exact e₁

theorem HostSide.remap_siteOf_other (h : HostSide) (k c : Nat) (hc : c / 8 ≠ k) : (h.remap k).siteOf c = h.siteOf c := by
  unfold HostSide.remap
  split
  · rfl
  · unfold HostSide.siteOf
    rw [SMap.find_foldl_put _ (mapSites_keys _ _ _).1, SMap.find_filter h.insp.siteOf (fun x => x / 8 != k)]
    have hnone : SMap.find (mapSites k (h.fencedBits k) (h.movedFromOf k)) c = none := by
      have hkeys := (mapSites_keys k (h.fencedBits k) (h.movedFromOf k)).2
      generalize mapSites k (h.fencedBits k) (h.movedFromOf k) = l at hkeys
      induction l with
      | nil => rfl
      | cons x l ih =>
        have hx := hkeys x (by simp)
        have hne : c ≠ x.1 := fun e => hc (e ▸ hx)
        rw [SMap.find, if_neg hne, ih fun y hy => hkeys y (List.mem_cons_of_mem _ hy)]
    simp [hnone, hc]

/-- The fields that forming the unit map keeps. -/
def mapKeeps (f : RF) : Prop :=
  Reg.DET_CLU_STATE.DEGRADED.apart f ∧ Reg.DET_INT_STATUS.addr ≠ f.addr ∧ (f.addr < 0x800 ∨ 0x810 ≤ f.addr)
    ∧ (f.addr < 0x400000 ∨ f.addr % 0x2000 ≠ 0)

/-- The unit map after `m` clusters have had their turn. -/
structure HostSide.MapFormed (h : HostSide) (m : Nat) (g : HostSide) : Prop where
  fenced : g.insp.fenced = h.insp.fenced
  movedFrom : g.insp.movedFrom = h.insp.movedFrom
  sites : ∀ c, c / 8 < m → g.siteOf c = SMap.find (mapSites (c / 8) (h.fencedBits (c / 8)) 15) c
  fields : ∀ f, mapKeeps f → g.get f = h.get f
  shown : 1 ≤ m → g.get ⟨0x800, 0, 16⟩ ≠ 0

theorem HostSide.MapFormed.round {h g : HostSide} {m : Nat} (hm : m < 8) (hmoved : h.insp.movedFrom = [])
    (hrun : h.get Reg.DET_CLU_STATE.HALTED = 0) (hg : h.MapFormed m g) : h.MapFormed (m + 1) (g.formCluster m) := by
  have hhalted : g.cluHalted m = false := by
    have hkeep : mapKeeps Reg.DET_CLU_STATE.HALTED := ⟨by unfold RF.apart; decide, by decide, by decide, by decide⟩
    rw [HostSide.cluHalted, hg.fields _ hkeep, hrun]
    simp [bit]
  have hmoved' : g.movedFromOf m = 15 := by rw [HostSide.movedFromOf, hg.movedFrom, hmoved]; rfl
  have hbits : g.fencedBits m = h.fencedBits m := by rw [HostSide.fencedBits, HostSide.fencedBits, hg.fenced]
  have hinsp := g.formCluster_insp m
  have hremap := g.remap_eq m
  have hsite (c : Nat) : (g.formCluster m).siteOf c = (g.remap m).siteOf c := by rw [HostSide.siteOf, HostSide.siteOf, hinsp]
  refine ⟨?_, ?_, fun c hc => ?_, fun f hf => ?_, fun _ => ?_⟩
  · rw [hinsp, hremap]
    exact hg.fenced
  · rw [hinsp, hremap]
    exact hg.movedFrom
  · rw [hsite]
    by_cases hcm : c / 8 = m
    · rw [HostSide.remap_siteOf g m c hcm, hhalted, hmoved', hbits, hcm]
      rfl
    · rw [HostSide.remap_siteOf_other g m c hcm]
      exact hg.sites c (by omega)
  · obtain ⟨hdeg, hint, haddr, hid⟩ := hf
    exact (g.formCluster_get m f (.inl (by dsimp only; omega)) hdeg hint hid).trans (hg.fields f ⟨hdeg, hint, haddr, hid⟩)
  · by_cases h0 : m = 0
    · subst h0
      exact g.formCluster_mapWord 0 (by decide) hmoved' hhalted
    · rw [g.formCluster_get m ⟨0x800, 0, 16⟩ (by unfold RF.apart; dsimp only; omega) (.inl (by decide)) (by decide) (.inl (by decide))]
      exact hg.shown (by omega)

theorem HostSide.formMap_formed (h : HostSide) (hmoved : h.insp.movedFrom = []) (hrun : h.get Reg.DET_CLU_STATE.HALTED = 0) :
    h.MapFormed 8 h.formMap := by
  rw [HostSide.formMap_eq]
  refine forN_induct h.MapFormed 8 _ h ⟨rfl, rfl, fun c hc => absurd hc (Nat.not_lt_zero _), fun _ _ => rfl, fun h0 => absurd h0 (by decide)⟩ ?_
  exact fun i hi g hg => hg.round hi hmoved hrun

end Sys2Proof.Machine

/-! ### Self-test after a reset (R211, R427, R428) -/

namespace Sys2Proof.Machine
open Sys2Proof

/-- The log shows in its own words. -/
theorem HostSide.log_word (h : HostSide) (e : Env) (code unit detail addr seq a : Nat)
    (hc : a ≠ Reg.PM_LOG_COUNT.addr) (hl : a ≠ Reg.PM_LOG_LAST.addr) (hi : a ≠ Reg.PM_INT_STATUS.addr) :
    (h.log e code unit detail addr seq).word a = h.word a := by
  unfold HostSide.log
  extract_lets key ce recent n x ring src pm g last g₂
  split
  · rfl
  · have e₂ : g₂.word a = h.word a := (HostSide.word_set_ne (g.set Reg.PM_LOG_COUNT (n + 1)) _ _ a hl).trans (HostSide.word_set_ne g _ _ a hc)
    clear_value g₂
    split
    · exact (HostSide.word_set_ne g₂ _ _ a hi).trans e₂
    · exact e₂

/-- A site that fails self-test after a reset: the list of fenced sites, its state and DET_FENCE_LAST show it; the count of fences does
not move (R211). -/
theorem HostSide.bootFence_spec (h : HostSide) (e : Env) (site : Nat) (hsite : site < 72) (hf : h.insp.fenced = []) :
    (h.bootFence e site).insp = { h.insp with fenced := [site] } ∧ (h.bootFence e site).coreState site = 6
      ∧ (h.bootFence e site).get Reg.DET_FENCE_LAST.SITE = site ∧ (h.bootFence e site).get Reg.DET_FENCE_LAST.CAUSE = 1
      ∧ (h.bootFence e site).get Reg.DET_FENCE_COUNT = h.get Reg.DET_FENCE_COUNT
      ∧ (h.bootFence e site).get Reg.DET_CLU_STATE.HALTED = h.get Reg.DET_CLU_STATE.HALTED := by
  unfold HostSide.bootFence
  rw [if_neg (by simp [hf]; omega)]
  extract_lets src g₁ g₂ g₃
  have hinsp₁ : g₁.insp = { h.insp with fenced := [site] } := by simp [g₁, src, hf]
  have hget₁ (f : RF) : g₁.get f = h.get f := rfl
  have hinsp₂ : g₂.insp = g₁.insp := rfl
  have hstate₂ : g₂.coreState site = 6 := by
    refine (HostSide.get_of_word _ _ _ ((HostSide.word_set_ne _ _ _ _ ?_).trans (HostSide.word_set_ne _ _ _ _ ?_))).trans
      (HostSide.get_set_self g₁ (Reg.CORE_STATUS.STATE site) 6 (by simp [RF.fits, Reg.CORE_STATUS.STATE])) <;>
      simp only [Reg.CORE_STATUS.STATE, Reg.DET_FENCE_LAST.SITE, Reg.DET_FENCE_LAST.CAUSE] <;> omega
  have hlast₂ : g₂.get Reg.DET_FENCE_LAST.SITE = site := by
    refine (HostSide.get_set_apart _ _ _ _ (by unfold RF.fits; decide) (by unfold RF.apart; decide)).trans
      ((HostSide.get_set_self _ _ _ (by unfold RF.fits; decide)).trans (Nat.mod_eq_of_lt ?_))
    simp only [Reg.DET_FENCE_LAST.SITE]
    omega
  have hcause₂ : g₂.get Reg.DET_FENCE_LAST.CAUSE = 1 := HostSide.get_set_self _ _ _ (by unfold RF.fits; decide)
  have hkept₂ (f : RF) (hl : f.addr ≠ 0x818) (hs : f.addr < 0x400000) : g₂.get f = g₁.get f :=
    HostSide.get_of_word _ _ _ ((HostSide.word_set_ne _ _ _ _ hl).trans ((HostSide.word_set_ne _ _ _ _ hl).trans
      (HostSide.word_set_ne _ _ _ _ (by simp only [Reg.CORE_STATUS.STATE]; omega))))
  clear_value g₂
  have hget₃ (f : RF) (hi : f.addr ≠ Reg.DET_INT_STATUS.addr) (hc : f.addr ≠ Reg.PM_LOG_COUNT.addr) (hl : f.addr ≠ Reg.PM_LOG_LAST.addr)
      (hp : f.addr ≠ Reg.PM_INT_STATUS.addr) : g₃.get f = g₂.get f :=
    HostSide.get_of_word _ _ _ ((HostSide.log_word _ _ _ _ _ _ _ _ hc hl hp).trans (HostSide.word_set_ne _ _ _ _ hi))
  have hinsp₃ : g₃.insp = g₂.insp := HostSide.log_insp _ _ _ _ _ _ _
  clear_value g₃
  have hget (f : RF) (hn : Reg.DET_CLU_STATE.NOSPARE.apart f) :
      (g₃.set Reg.DET_CLU_STATE.NOSPARE (g₃.get Reg.DET_CLU_STATE.NOSPARE ||| 2 ^ (site / 9))).get f = g₃.get f :=
    HostSide.get_set_apart _ _ _ _ (by unfold RF.fits; decide) hn
  refine ⟨?_, ?_, ?_, ?_, ?_, ?_⟩
  · rw [HostSide.set_insp, hinsp₃, hinsp₂, hinsp₁]
  · refine (hget _ (.inl ?_)).trans ((hget₃ _ ?_ ?_ ?_ ?_).trans hstate₂) <;>
      simp only [Reg.CORE_STATUS.STATE, Reg.DET_CLU_STATE.NOSPARE, Reg.DET_INT_STATUS, Reg.PM_LOG_COUNT, Reg.PM_LOG_LAST, Reg.PM_INT_STATUS] <;>
      omega
  · rw [hget _ (.inl (by decide)), hget₃ _ (by decide) (by decide) (by decide) (by decide), hlast₂]
  · rw [hget _ (.inl (by decide)), hget₃ _ (by decide) (by decide) (by decide) (by decide), hcause₂]
  · rw [hget _ (.inl (by decide)), hget₃ _ (by decide) (by decide) (by decide) (by decide), hkept₂ _ (by decide) (by decide), hget₁]
  · rw [hget _ (by unfold RF.apart; decide), hget₃ _ (by decide) (by decide) (by decide) (by decide), hkept₂ _ (by decide) (by decide), hget₁]

theorem HostSide.lockPlls_insp (h : HostSide) (v : Variant) : (h.lockPlls v).insp = h.insp := rfl

theorem HostSide.lockPlls_get (h : HostSide) (v : Variant) (f : RF) (hf : f.addr ≠ Reg.CLK_STATUS.HBM0_LOCK.addr) :
    (h.lockPlls v).get f = h.get f :=
  HostSide.get_of_word _ _ _ ((HostSide.word_set_ne _ Reg.CLK_STATUS.ETH_LOCK _ _ hf).trans
    ((HostSide.word_set_ne _ Reg.CLK_STATUS.HBM1_LOCK _ _ hf).trans (HostSide.word_set_ne h Reg.CLK_STATUS.HBM0_LOCK _ _ hf)))

theorem badSites_none : badSites [] [] = [] := by simp [badSites]

theorem badSites_one (x : Nat) (hx : x < 72) : badSites [x] [] = [x] := by
  have hfilter : badSites [x] [] = (List.range 72).filter (fun s => decide (s = x)) := by simp [badSites]
  rw [hfilter, List.filter_eq, List.count_eq_one_of_mem List.nodup_range (List.mem_range.mpr hx)]
  rfl

/-- STAGE moves on once the map stands. -/
def HostSide.afterTest (h : HostSide) : HostSide := if h.get Reg.CLK_BOOT_STAGE = 1 then h.set Reg.CLK_BOOT_STAGE 2 else h

theorem HostSide.afterTest_insp (h : HostSide) : h.afterTest.insp = h.insp := by
  unfold HostSide.afterTest
  split
  · exact HostSide.set_insp _ _ _
  · rfl

theorem HostSide.afterTest_get (h : HostSide) (f : RF) (hf : f.addr ≠ Reg.CLK_BOOT_STAGE.addr) : h.afterTest.get f = h.get f := by
  unfold HostSide.afterTest
  split
  · exact HostSide.get_of_word _ _ _ (HostSide.word_set_ne _ _ _ _ hf)
  · rfl

theorem HostSide.afterTest_stage (h : HostSide) (hst : h.get Reg.CLK_BOOT_STAGE = 1) : h.afterTest.get Reg.CLK_BOOT_STAGE = 2 := by
  unfold HostSide.afterTest
  rw [if_pos hst]
  exact HostSide.get_set_self _ _ _ (by unfold RF.fits; decide)

theorem execSelfTestDone_fresh (s : State) (l : List Nat) (hs : s.up) (hres : s.host.pm.resuming = false) (htest : s.host.tested = false) :
    exec (.selfTestDone l []) s = .next { s with
      host := ((badSites l []).foldl (fun h x => h.bootFence s.env x) (s.host.lockPlls s.env.variant)).formMap.afterTest.settle } := by
  show execSelfTestDone l [] s = _
  unfold execSelfTestDone
  rw [State.onHost_up s _ hs, if_neg (by simp [hres]), if_neg (by simp [htest])]
  rfl

/-- The map, formed over the sites fenced so far, makes the device tested (R427 step 4). -/
theorem HostSide.MapFormed.tested {h g : HostSide} (hg : h.MapFormed 8 g) : g.afterTest.settle.tested = true := by
  have hne := hg.shown (by decide)
  have hword : g.get (Reg.DET_UNITMAP 0) ≠ 0 := by
    unfold HostSide.get RegFile.get RF.ofWord at hne ⊢
    simp only [Reg.DET_UNITMAP] at hne ⊢
    intro h0
    apply hne
    have hlt := (g.regs.word 0x800).isLt
    simp only [Nat.zero_mul, Nat.add_zero, pow_zero, Nat.div_one] at h0 ⊢
    omega
  unfold HostSide.tested
  rw [HostSide.settle_get _ _ (by decide), HostSide.afterTest_get _ _ (by decide)]
  simpa using hword

theorem HostSide.siteOf_afterTest (g : HostSide) (c : Nat) : g.afterTest.settle.siteOf c = g.siteOf c := by
  rw [HostSide.siteOf, HostSide.siteOf, HostSide.settle_insp, HostSide.afterTest_insp]

theorem selfTestDone_passes (s : State) (hs : s.up) (hres : s.host.pm.resuming = false) (htest : s.host.tested = false)
    (hinsp : s.host.insp = ({} : Inspect)) (hrun : s.host.get Reg.DET_CLU_STATE.HALTED = 0) :
    ∃ t, exec (.selfTestDone [] []) s = .next t ∧ t.host.tested = true ∧ t.host.insp.fenced = []
      ∧ (∀ c, c < 64 → t.host.siteOf c = some (9 * (c / 8) + c % 8))
      ∧ (s.host.get Reg.CLK_BOOT_STAGE = 1 → t.host.get Reg.CLK_BOOT_STAGE = 2) := by
  refine ⟨_, execSelfTestDone_fresh s [] hs hres htest, ?_⟩
  rw [badSites_none, List.foldl_nil]
  have hlock : (s.host.lockPlls s.env.variant).insp = ({} : Inspect) := (HostSide.lockPlls_insp _ _).trans hinsp
  have hformed := (s.host.lockPlls s.env.variant).formMap_formed (by rw [hlock]) ((HostSide.lockPlls_get _ _ _ (by decide)).trans hrun)
  have hbits (k : Nat) : (s.host.lockPlls s.env.variant).fencedBits k = 0 := HostSide.fencedBits_none _ k (by rw [hlock])
  have hstage := HostSide.lockPlls_get s.host s.env.variant Reg.CLK_BOOT_STAGE (by decide)
  generalize (s.host.lockPlls s.env.variant).formMap = g at hformed ⊢
  refine ⟨hformed.tested, ?_, fun c hc => ?_, fun hst => ?_⟩
  · rw [HostSide.settle_insp, HostSide.afterTest_insp, hformed.fenced, hlock]
  · rw [HostSide.siteOf_afterTest, hformed.sites c (by omega), hbits]
    have hplace := mapSites_whole (c / 8) (c % 8) (Nat.mod_lt _ (by decide))
    rwa [Nat.div_add_mod] at hplace
  · refine (HostSide.settle_get _ _ (by decide)).trans (HostSide.afterTest_stage g ?_)
    rw [hformed.fields _ ⟨by unfold RF.apart; decide, by decide, by decide, by decide⟩, hstage, hst]

theorem selfTestDone_fences (s : State) (x : Nat) (hs : s.up) (hres : s.host.pm.resuming = false) (htest : s.host.tested = false)
    (hinsp : s.host.insp = ({} : Inspect)) (hrun : s.host.get Reg.DET_CLU_STATE.HALTED = 0) (hx : x < 72) :
    ∃ t, exec (.selfTestDone [x] []) s = .next t ∧ t.host.tested = true ∧ t.fencedFor x 1
      ∧ t.host.get Reg.DET_FENCE_COUNT = s.host.get Reg.DET_FENCE_COUNT ∧ ∀ c, c < 64 → t.host.siteOf c ≠ some x := by
  refine ⟨_, execSelfTestDone_fresh s [x] hs hres htest, ?_⟩
  rw [badSites_one x hx, List.foldl_cons, List.foldl_nil]
  have hlock : (s.host.lockPlls s.env.variant).insp = ({} : Inspect) := (HostSide.lockPlls_insp _ _).trans hinsp
  obtain ⟨hfenced, hstate, hlast, hcause, hcount, hhalted⟩ := (s.host.lockPlls s.env.variant).bootFence_spec s.env x hx (by rw [hlock])
  rw [HostSide.lockPlls_get _ _ _ (by decide)] at hcount hhalted
  generalize (s.host.lockPlls s.env.variant).bootFence s.env x = h at hfenced hstate hlast hcause hcount hhalted ⊢
  rw [hlock] at hfenced
  have hformed := h.formMap_formed (by rw [hfenced]) (hhalted.trans hrun)
  generalize h.formMap = g at hformed ⊢
  have hfield (f : RF) (hf : mapKeeps f) (hst : f.addr ≠ Reg.CLK_BOOT_STAGE.addr) (hp : f.addr ≠ Reg.HIF_IRQ_PENDING.addr) :
      g.afterTest.settle.get f = h.get f :=
    (HostSide.settle_get _ _ hp).trans ((HostSide.afterTest_get _ _ hst).trans (hformed.fields f hf))
  have hlow : mapKeeps Reg.DET_FENCE_LAST.SITE ∧ mapKeeps Reg.DET_FENCE_LAST.CAUSE ∧ mapKeeps Reg.DET_FENCE_COUNT :=
    ⟨⟨.inl (by decide), by decide, by decide, by decide⟩, ⟨.inl (by decide), by decide, by decide, by decide⟩,
      ⟨.inl (by decide), by decide, by decide, by decide⟩⟩
  refine ⟨hformed.tested, ⟨?_, ?_, ?_, ?_⟩, ?_, fun c hc hcx => ?_⟩
  · refine (hfield _ ⟨.inl ?_, ?_, .inr ?_, .inr ?_⟩ ?_ ?_).trans hstate <;>
      simp only [Reg.CORE_STATUS.STATE, Reg.DET_CLU_STATE.DEGRADED, Reg.DET_INT_STATUS, Reg.CLK_BOOT_STAGE, Reg.HIF_IRQ_PENDING] <;> omega
  · rw [HostSide.settle_insp, HostSide.afterTest_insp, hformed.fenced, hfenced]
    exact List.mem_singleton.mpr rfl
  · exact (hfield _ hlow.1 (by decide) (by decide)).trans hlast
  · exact (hfield _ hlow.2.1 (by decide) (by decide)).trans hcause
  · exact (hfield _ hlow.2.2 (by decide) (by decide)).trans hcount
  · rw [HostSide.siteOf_afterTest, hformed.sites c (by omega)] at hcx
    obtain ⟨i, hi, hbit, hsite⟩ := mapSites_healthy _ _ _ _ hcx
    have hone := h.fencedBits_one (c / 8) i hi (by rw [hfenced, hsite])
    rw [hone] at hbit
    exact absurd hbit (by decide)

end Sys2Proof.Machine

/-! ### Self-test after RESUME (R140, R446) -/

namespace Sys2Proof.Machine
open Sys2Proof

theorem HostSide.core_setCore (h : HostSide) (site c : Nat) (x : CoreSt) :
    (h.setCore site x).core c = if c = site then x else h.core c := by
  rw [HostSide.core, HostSide.setCore_cores, SMap.get_put]
  rfl

@[simp] theorem HostSide.core_set (h : HostSide) (f : RF) (v c : Nat) : (h.set f v).core c = h.core c := rfl

/-- A cleared site is at depth 0. -/
theorem HostSide.clearSite_eq (h : HostSide) (site : Nat) : h.clearSite site = (h.setCore site { h.core site with
    frames := [], cur := none, ahead := none, xfers := [], flights := [], waiting := none, miss1 := false, miss3 := false,
    failTok := [], preempt := false }).set (Reg.CORE_STATUS.DEPTH site) 0 := by
  unfold HostSide.clearSite HostSide.showPc
  rw [HostSide.core_setCore, if_pos rfl]

theorem SMap.get_filter {α : Type} (d : Nat → α) (m : SMap α) (p : Nat → Bool) (a : Nat) :
    SMap.get d (m.filter fun x => p x.1) a = if p a then SMap.get d m a else d a := by
  induction m with
  | nil => simp [SMap.get]
  | cons x m ih =>
    obtain ⟨k, v⟩ := x
    by_cases hk : p k = true <;> by_cases hc : a = k <;> simp_all [SMap.get]

theorem RegFile.word_dropRange (rs : RegFile) (lo hi a : Nat) :
    (rs.dropRange lo hi).word a = if lo ≤ a ∧ a < hi then resetWord a else rs.word a := by
  have hget := SMap.get_filter resetWord rs (fun x => !(decide (lo ≤ x) && decide (x < hi))) a
  refine hget.trans ?_
  by_cases h : lo ≤ a ∧ a < hi
  · simp [h]
  · rw [if_neg h, if_pos (by simp; omega)]
    rfl

/-- Tokens read 0 after reset (R4, R140). -/
theorem resetWord_token : ∀ site < 72, ∀ j < 8, resetWord (0x400020 + site * 0x2000 + j * 4) = 0 := by decide +kernel

/-- What self-test leaves of a site that passes, beside its scratchpad (R140). -/
structure HostSide.TestedSite (g : HostSide) (site : Nat) : Prop where
  state : g.coreState site = 0
  frames : (g.core site).frames = []
  bank0 : (g.core site).bank0 = ({} : AccBank)
  bank1 : (g.core site).bank1 = ({} : AccBank)
  tokens : ∀ tok, tok < 16 → g.token site tok = 0

/-- What the turn of a site leaves to all others. -/
structure HostSide.SiteTurn (h : HostSide) (site : Nat) (g : HostSide) : Prop where
  pm : g.pm = h.pm
  spads : ∀ c, (g.core c).spad = (h.core c).spad
  cores : ∀ c, c ≠ site → g.core c = h.core c
  words : ∀ a, a < 0x400000 + site * 0x2000 ∨ 0x402000 + site * 0x2000 ≤ a → g.word a = h.word a

theorem tokenRF_eq (site tok : Nat) :
    tokenRF site tok = ⟨0x400020 + site * 0x2000 + tok / 2 * 4, if tok % 2 = 0 then 0 else 16, 16⟩ := by
  unfold tokenRF
  split
  · rfl
  · rfl

/-- A site that works is left as after a reset. -/
theorem HostSide.testedCore_spec (h : HostSide) (site : Nat) (hsite : site < 72) :
    h.SiteTurn site (h.testedCore site) ∧ (h.coreState site ≠ 6 → (h.testedCore site).TestedSite site) := by
  unfold HostSide.testedCore
  by_cases hdead : h.coreState site = 6
  · rw [if_pos hdead]
    exact ⟨⟨rfl, fun _ => rfl, fun _ _ => rfl, fun _ _ => rfl⟩, fun hne => absurd hdead hne⟩
  rw [if_neg hdead, HostSide.clearSite_eq]
  extract_lets src₁ g₁ src₂ g₂ tok g₃
  have hcore (c : Nat) : g₂.core c = if c = site then { h.core site with
      frames := [], cur := none, ahead := none, xfers := [], flights := [], waiting := none, miss1 := false, miss3 := false,
      failTok := [], preempt := false, bank0 := {}, bank1 := {} } else h.core c := by
    dsimp only [g₂, src₂, g₁, src₁]
    rw [HostSide.core_setCore, HostSide.core_set, HostSide.core_set, HostSide.core_setCore, HostSide.core_setCore, if_pos rfl]
    split <;> rfl
  have hword₂ (a : Nat) (ha : a ≠ 0x400004 + site * 0x2000) : g₂.word a = h.word a :=
    HostSide.word_set_ne _ (Reg.CORE_STATUS.DEPTH site) 0 a ha
  have hpm : g₂.pm = h.pm := rfl
  have hword₃ (a : Nat) : g₃.word a = if tok ≤ a ∧ a < tok + 0x20 then resetWord a
      else if siteFlags site ≤ a ∧ a < siteFlags site + 4 then resetWord a else g₂.word a := by
    refine (RegFile.word_dropRange _ _ _ a).trans ?_
    rw [RegFile.word_dropRange]
    rfl
  have hcore₃ : g₃.core = g₂.core := rfl
  have hpm₃ : g₃.pm = g₂.pm := rfl
  clear_value g₂ g₃
  have hword (a : Nat) (ha : a ≠ 0x400004 + site * 0x2000) : (g₃.set (Reg.CORE_STATUS.STATE site) 0).word a = g₃.word a :=
    HostSide.word_set_ne _ _ _ a ha
  have hsame (c : Nat) : (g₃.set (Reg.CORE_STATUS.STATE site) 0).core c = g₂.core c := by rw [HostSide.core_set, hcore₃]
  refine ⟨⟨?_, fun c => ?_, fun c hc => ?_, fun a ha => ?_⟩, fun _ => ⟨?_, ?_, ?_, ?_, fun t ht => ?_⟩⟩
  · rw [HostSide.set_pm, hpm₃, hpm]
  · rw [hsame, hcore]
    split
    · next hc => rw [hc]
    · rfl
  · rw [hsame, hcore, if_neg hc]
  · rw [hword a (by omega), hword₃, if_neg (by omega), if_neg (by unfold siteFlags; omega), hword₂ a (by omega)]
  · exact HostSide.get_set_self _ _ _ (by simp [RF.fits, Reg.CORE_STATUS.STATE])
  · rw [hsame, hcore, if_pos rfl]
  · rw [hsame, hcore, if_pos rfl]
  · rw [hsame, hcore, if_pos rfl]
  · have hzero : (g₃.set (Reg.CORE_STATUS.STATE site) 0).word (0x400020 + site * 0x2000 + t / 2 * 4) = 0 := by
      rw [hword _ (by omega), hword₃, if_pos (by omega)]
      exact resetWord_token site hsite (t / 2) (by omega)
    rw [HostSide.token, tokenRF_eq]
    show RF.ofWord _ ((g₃.set (Reg.CORE_STATUS.STATE site) 0).word _) = 0
    rw [hzero]
    simp [RF.ofWord]

theorem HostSide.TestedSite.of_same {h g : HostSide} {site : Nat} (ht : h.TestedSite site) (hcore : g.core site = h.core site)
    (hword : ∀ a, 0x400000 + site * 0x2000 ≤ a → a < 0x402000 + site * 0x2000 → g.word a = h.word a) : g.TestedSite site where
  state := (HostSide.get_of_word _ _ _ (hword _ (by simp only [Reg.CORE_STATUS.STATE]; omega)
    (by simp only [Reg.CORE_STATUS.STATE]; omega))).trans ht.state
  frames := hcore ▸ ht.frames
  bank0 := hcore ▸ ht.bank0
  bank1 := hcore ▸ ht.bank1
  tokens tok htok := (HostSide.get_of_word _ _ _ (by rw [tokenRF_eq]; exact hword _ (by dsimp only; omega) (by dsimp only; omega))).trans
    (ht.tokens tok htok)

/-- The sites whose turn in self-test has come. -/
structure HostSide.SitesTested (h : HostSide) (m : Nat) (g : HostSide) : Prop where
  pm : g.pm = h.pm
  spads : ∀ c, (g.core c).spad = (h.core c).spad
  done : ∀ c, c < m → h.coreState c ≠ 6 → g.TestedSite c
  rest : ∀ c, m ≤ c → g.coreState c = h.coreState c

theorem HostSide.testedSites (h : HostSide) : h.SitesTested 72 (forN 72 (fun x g => g.testedCore x) h) := by
  refine forN_induct h.SitesTested 72 _ h ⟨rfl, fun _ => rfl, fun c hc => absurd hc (Nat.not_lt_zero c), fun _ _ => rfl⟩ fun i hi g hg => ?_
  obtain ⟨hturn, hself⟩ := g.testedCore_spec i hi
  refine ⟨hturn.pm.trans hg.pm, fun c => (hturn.spads c).trans (hg.spads c), fun c hc hlive => ?_, fun c hc => ?_⟩
  · by_cases hci : c = i
    · subst hci
      exact hself (by rwa [hg.rest c (Nat.le_refl c)])
    · exact (hg.done c (by omega) hlive).of_same (hturn.cores c hci) fun a h1 h2 => hturn.words a (by omega)
  · exact (HostSide.get_of_word _ _ _ (hturn.words _ (by simp only [Reg.CORE_STATUS.STATE]; omega))).trans (hg.rest c (by omega))

/-- The SRAM of the dies reads zero (R446). -/
theorem HostSide.zeroSram_spec (h : HostSide) : h.zeroSram.pm = h.pm ∧ (∀ c, c < 72 → (h.zeroSram.core c).spad = ({} : Store))
    ∧ ∀ a, h.zeroSram.word a = h.word a := by
  unfold HostSide.zeroSram
  extract_lets g
  have hloop : g.pm = h.pm ∧ (∀ c, c < 72 → (g.core c).spad = ({} : Store)) ∧ ∀ a, g.word a = h.word a := by
    refine forN_induct (fun m (g : HostSide) => g.pm = h.pm ∧ (∀ c, c < m → (g.core c).spad = ({} : Store)) ∧ ∀ a, g.word a = h.word a)
      72 _ h ⟨rfl, fun c hc => absurd hc (Nat.not_lt_zero c), fun _ => rfl⟩ fun i _ g hg => ⟨hg.1, fun c hc => ?_, hg.2.2⟩
    rw [HostSide.core_setCore]
    split
    · rfl
    · exact hg.2.1 c (by omega)
  clear_value g
  exact hloop

/-- A cluster's power state stands in its own two bits (R434). -/
theorem HostSide.cluPower_eq_get (h : HostSide) (k : Nat) (hk : k < 8) : h.cluPower k = h.get ⟨0x20018, 2 * k, 2⟩ := by
  unfold HostSide.cluPower HostSide.get RegFile.get RF.ofWord Reg.PM_CLU_STATE
  dsimp only
  generalize (h.regs.word 0x20018).toNat = x
  rw [show (4 : Nat) ^ k = 2 ^ (2 * k) by rw [Nat.pow_mul], pow_zero, Nat.div_one, show (2 : Nat) ^ 2 = 4 by rfl]
  interval_cases k <;> omega

theorem HostSide.setCluPower_spec (h : HostSide) (k : Nat) (hk : k < 8) : (h.setCluPower k 0).pm = h.pm
    ∧ (h.setCluPower k 0).cores = h.cores ∧ (∀ a, 0x400000 ≤ a → (h.setCluPower k 0).word a = h.word a)
    ∧ (h.setCluPower k 0).cluPower k = 0 ∧ ∀ i, i < 8 → i ≠ k → (h.setCluPower k 0).cluPower i = h.cluPower i := by
  unfold HostSide.setCluPower
  extract_lets g
  have hget (i : Nat) (hi : i < 8) (v : Nat) : (g.set Reg.PM_STATUS.DEVICE v).cluPower i = g.get ⟨0x20018, 2 * i, 2⟩ := by
    rw [HostSide.cluPower_eq_get _ i hi]
    exact HostSide.get_of_word _ _ _ (HostSide.word_set_ne _ _ _ _ (by simp only [Reg.PM_STATUS.DEVICE]; decide))
  refine ⟨rfl, rfl, fun a ha => ?_, ?_, fun i hi hik => ?_⟩
  · exact (HostSide.word_set_ne g _ _ a (by simp only [Reg.PM_STATUS.DEVICE]; omega)).trans (HostSide.word_set_ne h _ _ a (by dsimp only; omega))
  · rw [hget k hk]
    exact (HostSide.get_set_self h _ 0 (by simp only [RF.fits]; omega)).trans (Nat.zero_mod _)
  · rw [hget i hi, HostSide.cluPower_eq_get h i hi]
    exact HostSide.get_set_apart h _ _ 0 (by simp only [RF.fits]; omega) (.inr (by dsimp only; omega))

/-- Every cluster is ACTIVE again (R446). -/
theorem HostSide.wakeAll (h : HostSide) : let g := forN 8 (fun k h => h.setCluPower k 0) h
    g.pm = h.pm ∧ g.cores = h.cores ∧ (∀ a, 0x400000 ≤ a → g.word a = h.word a) ∧ ∀ k, k < 8 → g.cluPower k = 0 := by
  refine forN_induct (fun m (g : HostSide) => g.pm = h.pm ∧ g.cores = h.cores ∧ (∀ a, 0x400000 ≤ a → g.word a = h.word a)
    ∧ ∀ k, k < m → g.cluPower k = 0) 8 _ h ⟨rfl, rfl, fun _ _ => rfl, fun k hk => absurd hk (Nat.not_lt_zero k)⟩ ?_
  rintro i hi g ⟨hpm, hcores, hwords, hpower⟩
  obtain ⟨hpm', hcores', hwords', hself, hother⟩ := g.setCluPower_spec i hi
  refine ⟨hpm'.trans hpm, hcores'.trans hcores, fun a ha => (hwords' a ha).trans (hwords a ha), fun k hk => ?_⟩
  by_cases hki : k = i
  · exact hki ▸ hself
  · rw [hother k (by omega) hki]
    exact hpower k (by omega)

/-- The host side when the dies are on again, before they are tested. -/
def HostSide.powered (h : HostSide) : HostSide :=
  { h with pm := { h.pm with dieOff := false, resuming := false,
                             waking := (List.range 8).filter fun k => h.pm.writes.any fun x => x.1 == k } }

/-- The host side once all sites have passed after RESUME. -/
def HostSide.resumed (h : HostSide) : HostSide :=
  forN 8 (fun k h => h.setCluPower k 0) (forN 72 (fun x h => h.testedCore x) h.powered.zeroSram)

theorem execSelfTestDone_resuming (s : State) (hs : s.up) (hres : s.host.pm.resuming = true) :
    exec (.selfTestDone [] []) s = .next { s with host := s.host.resumed.settle } := by
  show execSelfTestDone [] [] s = _
  unfold execSelfTestDone
  rw [State.onHost_up s _ hs, if_pos hres, badSites_none]
  rfl

theorem HostSide.resumed_spec (h : HostSide) : h.resumed.pm = h.powered.pm ∧ (∀ k, k < 8 → h.resumed.cluPower k = 0)
    ∧ ∀ site, site < 72 → h.coreState site ≠ 6 → h.resumed.TestedSite site ∧ (h.resumed.core site).spad = ({} : Store) := by
  obtain ⟨hpm₁, hspad₁, hword₁⟩ := h.powered.zeroSram_spec
  have htested := h.powered.zeroSram.testedSites
  obtain ⟨hpm₃, hcores₃, hword₃, hpower₃⟩ := HostSide.wakeAll (forN 72 (fun x h => h.testedCore x) h.powered.zeroSram)
  have hstate (c : Nat) : h.powered.zeroSram.coreState c = h.coreState c := HostSide.get_of_word _ _ _ (hword₁ _)
  unfold HostSide.resumed
  generalize forN 72 _ h.powered.zeroSram = g at htested hpm₃ hcores₃ hword₃ hpower₃ ⊢
  generalize forN 8 _ g = k at hpm₃ hcores₃ hword₃ hpower₃ ⊢
  have hcore (c : Nat) : k.core c = g.core c := by rw [HostSide.core, HostSide.core, hcores₃]
  refine ⟨hpm₃.trans (htested.pm.trans hpm₁), hpower₃, fun site hsite hlive => ⟨?_, ?_⟩⟩
  · exact (htested.done site hsite (by rwa [hstate])).of_same (hcore site) fun a ha _ => hword₃ a (by omega)
  · rw [hcore, htested.spads, hspad₁ site hsite]

theorem selfTestDone_resumes (s : State) (hs : s.up) (hres : s.host.pm.resuming = true) :
    ∃ t, exec (.selfTestDone [] []) s = .next t ∧ t.host.pm.resuming = false
      ∧ t.host.pm.dieOff = false ∧ (∀ k, k < 8 → t.host.asleep k = false)
      ∧ ∀ site, site < 72 → s.host.coreState site ≠ 6 → t.host.coreState site = 0 ∧ (t.host.core site).spad = ({} : Store)
        ∧ (t.host.core site).frames = [] ∧ (t.host.core site).bank0 = ({} : AccBank) ∧ (t.host.core site).bank1 = ({} : AccBank)
        ∧ ∀ tok, tok < 16 → t.host.token site tok = 0 := by
  obtain ⟨hpm, hpower, hsites⟩ := s.host.resumed_spec
  have hresuming : s.host.resumed.pm.resuming = false := by rw [hpm]; rfl
  have hdie : s.host.resumed.pm.dieOff = false := by rw [hpm]; rfl
  refine ⟨_, execSelfTestDone_resuming s hs hres, ?_⟩
  generalize s.host.resumed = g at hresuming hdie hpower hsites ⊢
  have hcore (c : Nat) : g.settle.core c = g.core c := by rw [HostSide.core, HostSide.core, HostSide.settle_cores]
  refine ⟨?_, ?_, fun k hk => ?_, fun site hsite hlive => ?_⟩
  · rw [HostSide.settle_pm, hresuming]
  · rw [HostSide.settle_pm, hdie]
  · have hk0 : g.settle.cluPower k = 0 := by
      rw [HostSide.cluPower, HostSide.settle_get _ _ (by decide)]
      exact hpower k hk
    simp [HostSide.asleep, hk0, hdie]
  · obtain ⟨htest, hspad⟩ := hsites site hsite hlive
    have htest' : g.settle.TestedSite site := htest.of_same (hcore site) fun a ha _ =>
      HostSide.settle_word g a (by simp only [Reg.HIF_IRQ_PENDING]; omega)
    exact ⟨htest'.state, (congrArg CoreSt.spad (hcore site)).trans hspad, htest'.frames, htest'.bank0, htest'.bank1, htest'.tokens⟩

end Sys2Proof.Machine

/-! ### Start-up and the debug port, settled -/

namespace Sys2Proof.Machine
open Sys2Proof

/-- Settles O56: self-test, the boot ROM, the firmware, READY, the clock monitor and the debug port, each from what its command makes of the
host side. -/
theorem startUpAndDebug : Obligations.StartUpAndDebug := by
  unfold Obligations.StartUpAndDebug
  refine ⟨fun s hs hres htest hinsp hrun => ⟨?_, fun x hx => ?_⟩, selfTestDone_resumes, bootCandidateSelect_boots,
    fun s n hs hrun => ⟨fun p hstage hp => ⟨?_, ?_⟩, ?_, fun p hstage hp => ⟨?_, ?_, fun d hctl hd => ?_⟩⟩, deviceReady_up, clkMonGo_open,
    clkMonDone_counted, tapReset_bypass, dbgCmd_loads, dbgAddr_off, fun s v hs hen => ⟨?_, ?_, ?_, ?_, ?_⟩, ?_⟩
  · exact selfTestDone_passes s hs hres htest hinsp hrun
  · exact selfTestDone_fences s x hs hres htest hinsp hrun hx
  · exact firmwareStarted_failsSlot s n hs hrun hstage p hp
  · exact firmwareStarted_failsRecovery s n hs hrun hstage p hp
  · exact firmwareStarted_installs s n hs hrun
  · exact firmwareStarted_awaits s n hs hrun hstage p hp
  · exact firmwareStarted_fieldLost s n hs hrun hstage p hp
  · exact firmwareStarted_up s n hs hrun hstage p hp d hctl hd
  · exact dbgCmd_requests s v hs hen
  · exact dbgCmd_releases s v hs hen
  · exact dbgAddr_refused s v hs hen
  · exact dbgAddr_starts s v hs hen
  · exact dbgData_stages s v hs hen
  · rintro s v a hs hbusy rfl rfl
    refine ⟨?_, ?_, ?_, fun ht hread _ h1 h2 => ?_⟩
    · exact dbgAccessDone_hbm s hs hbusy
    · exact dbgAccessDone_spad s hs hbusy
    · exact dbgAccessDone_write s hs hbusy
    · exact dbgAccessDone_read s hs hbusy ht hread (by omega)

end Sys2Proof.Machine

/-! SUPPORT. Functions of the host side that leave the compute state (partitions, jobs, saved contexts, serving) as it is (R20, R326,
R358): one rule per function, in the order of the model. -/

namespace Sys2Proof.Machine
open Sys2Proof

@[simp] theorem HostSide.comp_ite (c : Prop) [Decidable c] (g k : HostSide) :
    (if c then g else k).comp = if c then g.comp else k.comp :=
  apply_ite HostSide.comp c g k

theorem HostSide.comp_ite_of {c : Prop} [Decidable c] {g k h : HostSide} (hg : g.comp = h.comp) (hk : k.comp = h.comp) :
    (if c then g else k).comp = h.comp := by
  split
  · exact hg
  · exact hk

@[simp] theorem HostSide.comp_foldl {α : Type} (l : List α) (f : HostSide → α → HostSide) (h : HostSide)
    (hf : ∀ g x, (f g x).comp = g.comp) : (l.foldl f h).comp = h.comp :=
  foldl_keeps (fun g : HostSide => g.comp = h.comp) l f h rfl fun g x hg => (hf g x).trans hg

@[simp] theorem HostSide.comp_forN (n : Nat) (f : Nat → HostSide → HostSide) (h : HostSide) (hf : ∀ i g, (f i g).comp = g.comp) :
    (forN n f h).comp = h.comp :=
  forN_keeps (fun g : HostSide => g.comp = h.comp) n f h rfl fun i g hg => (hf i g).trans hg

/-! ### Interrupts (R347, R348) -/

@[simp] theorem HostSide.sendVec_comp (h : HostSide) (v : Nat) : (h.sendVec v).comp = h.comp := by
  unfold HostSide.sendVec
  simp

@[simp] theorem HostSide.signal_comp (h : HostSide) (v : Nat) : (h.signal v).comp = h.comp := by
  unfold HostSide.signal
  simp

/-! ### Sleeping clusters (R434, R437, R440) -/

@[simp] theorem HostSide.wake_comp (h : HostSide) (k : Nat) : (h.wake k).comp = h.comp := by
  unfold HostSide.wake
  simp

theorem HostSide.sleepWrite_comp (h g : HostSide) (a : Nat) (v : Word) (hg : h.sleepWrite a v = some g) : g.comp = h.comp := by
  unfold HostSide.sleepWrite at hg
  split at hg
  · split at hg
    · obtain rfl := Option.some.inj hg
      simp
    · exact absurd hg (by simp)
  · exact absurd hg (by simp)

/-! ### Gauge counters (R400 to R407) -/

@[simp] theorem HostSide.addCounter_comp (h : HostSide) (lo hi ovf : RF) (n : Nat) : (h.addCounter lo hi ovf n).comp = h.comp := by
  unfold HostSide.addCounter
  simp

theorem HostSide.addCounters_comp (h : HostSide) (lo hi ovf : Nat → RF) (l : List Nat) (n : Nat) :
    (l.foldl (fun g j => g.addCounter (lo j) (hi j) (ovf j) n) h).comp = h.comp :=
  HostSide.comp_foldl _ _ _ fun _ _ => HostSide.addCounter_comp ..

@[simp] theorem HostSide.countG_comp (h : HostSide) (ev unit n : Nat) : (h.countG ev unit n).comp = h.comp := by
  unfold HostSide.countG
  exact HostSide.addCounters_comp h Reg.GCNT_VALUE_LO Reg.GCNT_VALUE_HI Reg.GCNT_CFG.OVF _ n

@[simp] theorem HostSide.countK_comp (h : HostSide) (k ev n : Nat) : (h.countK k ev n).comp = h.comp := by
  unfold HostSide.countK
  exact HostSide.addCounters_comp h (Reg.CLCNT_VALUE_LO k) (Reg.CLCNT_VALUE_HI k) (Reg.CLCNT_CFG.OVF k) _ n

@[simp] theorem HostSide.countC_comp (h : HostSide) (c ev n : Nat) : (h.countC c ev n).comp = h.comp := by
  unfold HostSide.countC
  exact HostSide.addCounters_comp h (Reg.CNT_VALUE_LO c) (Reg.CNT_VALUE_HI c) (Reg.CNT_CFG.OVF c) _ n

@[simp] theorem HostSide.countPort_comp (h : HostSide) (k n : Nat) : (h.countPort k n).comp = h.comp := by
  unfold HostSide.countPort
  simp

@[simp] theorem HostSide.countRotation_comp (h : HostSide) (k n : Nat) : (h.countRotation k n).comp = h.comp := by
  unfold HostSide.countRotation
  simp

@[simp] theorem HostSide.countMem_comp (h : HostSide) (load : Bool) (kind unit n : Nat) :
    (h.countMem load kind unit n).comp = h.comp := by
  unfold HostSide.countMem
  split <;> simp

@[simp] theorem HostSide.countAccess_comp (h : HostSide) (load : Bool) (kind unit n : Nat) :
    (h.countAccess load kind unit n).comp = h.comp := by
  unfold HostSide.countAccess
  split <;> simp

@[simp] theorem HostSide.writeCfg_comp (h : HostSide) (a : Nat) (core : Bool) (w : Word) : (h.writeCfg a core w).comp = h.comp := by
  unfold HostSide.writeCfg
  simp

/-! ### Error log (R447 to R449) -/

@[simp] theorem HostSide.log_comp (h : HostSide) (e : Env) (code unit detail addr seq : Nat) :
    (h.log e code unit detail addr seq).comp = h.comp := by
  unfold HostSide.log
  simp

@[simp] theorem HostSide.requestStop_comp (h : HostSide) (source : Nat) : (h.requestStop source).comp = h.comp := by
  unfold HostSide.requestStop
  simp

@[simp] theorem HostSide.fatal_comp (h : HostSide) (e : Env) (code unit detail : Nat) : (h.fatal e code unit detail).comp = h.comp := by
  unfold HostSide.fatal
  simp

/-! ### Memories with tile checksums (R178 to R183) -/

@[simp] theorem HostSide.csumFail_comp (h : HostSide) (e : Env) (kind unit addr : Nat) : (h.csumFail e kind unit addr).comp = h.comp := by
  unfold HostSide.csumFail
  simp

/-! ### Core sites and logical cores (R18, R19) -/

@[simp] theorem HostSide.addToken_comp (h : HostSide) (c t n : Nat) : (h.addToken c t n).comp = h.comp := by
  unfold HostSide.addToken
  split <;> simp

/-! ### Memories by kind: 0 scratchpad of a site, 1 line store of a cluster, 2 HBM group -/

@[simp] theorem HostSide.putStore_comp (h : HostSide) (kind unit : Nat) (st : Store) : (h.putStore kind unit st).comp = h.comp := by
  unfold HostSide.putStore
  split <;> simp

@[simp] theorem HostSide.setStore_comp (h : HostSide) (kind unit off n : Nat) (st : Store) :
    (h.setStore kind unit off n st).comp = h.comp := by
  unfold HostSide.setStore
  split <;> simp

@[simp] theorem HostSide.eccReads_comp (h : HostSide) (e : Env) (kind unit : Nat) (x : Ecc) :
    (h.eccReads e kind unit x).comp = h.comp := by
  unfold HostSide.eccReads
  extract_lets g₁ g₂
  split
  · rfl
  · split
    · simp [g₁]
    · split <;> simp [g₁, g₂]

@[simp] theorem HostSide.eccUse_comp (h : HostSide) (e : Env) (kind unit : Nat) (x : Ecc) : (h.eccUse e kind unit x).comp = h.comp := by
  unfold HostSide.eccUse
  simp

@[simp] theorem HostSide.eccUses_comp (h : HostSide) (e : Env) (kind : Nat) (l : List (Nat × Ecc)) :
    (h.eccUses e kind l).comp = h.comp := by
  unfold HostSide.eccUses
  simp

/-! ### Free values -/

@[simp] theorem HostSide.free_comp (h : HostSide) (tag : Nat) : (h.free tag).1.comp = h.comp := by
  unfold HostSide.free
  simp

/-! ### Descriptors and completions (R326 to R331) -/

@[simp] theorem HostSide.withCurrent_comp (h : HostSide) (q op : Nat) (f : Started → HostSide) (hf : ∀ d, (f d).comp = h.comp) :
    (h.withCurrent q op f).comp = h.comp := by
  unfold HostSide.withCurrent
  split
  · exact hf _
  · rfl

/-! ### Host memory -/

@[simp] theorem HostSide.hostWrite_comp (h : HostSide) (a : Nat) (bs : List Byte) : (h.hostWrite a bs).comp = h.comp := by
  unfold HostSide.hostWrite
  simp

/-! ### LOAD and STORE (R123, R173, R174) -/

@[simp] theorem HostSide.setTraceBuf_comp (h : HostSide) (b : Nat) (x : TraceBuf) : (h.setTraceBuf b x).comp = h.comp := by
  unfold HostSide.setTraceBuf
  simp

@[simp] theorem HostSide.traceLoss_comp (h : HostSide) (e : Env) (b : Nat) : (h.traceLoss e b).comp = h.comp := by
  unfold HostSide.traceLoss
  simp

@[simp] theorem HostSide.traceIn_comp (h : HostSide) (e : Env) (b tick : Nat) (r : List Byte) : (h.traceIn e b tick r).comp = h.comp := by
  unfold HostSide.traceIn
  simp

@[simp] theorem HostSide.trace_comp (h : HostSide) (e : Env) (b tick kind source sport : Nat) (payload : List Byte) :
    (h.trace e b tick kind source sport payload).comp = h.comp := by
  unfold HostSide.trace
  simp

@[simp] theorem HostSide.traceDue_comp (h : HostSide) (e : Env) (b kind source : Nat) (payload : List Byte) :
    (h.traceDue e b kind source payload).comp = h.comp := by
  unfold HostSide.traceDue
  simp

@[simp] theorem HostSide.traceCore_comp (h : HostSide) (e : Env) (c kind : Nat) (payload : List Byte) :
    (h.traceCore e c kind payload).comp = h.comp := by
  unfold HostSide.traceCore
  simp

/-! ### List memories and fetching (R122, R523) -/

@[simp] theorem HostSide.showPc_comp (h : HostSide) (site : Nat) : (h.showPc site).comp = h.comp := by
  unfold HostSide.showPc
  split <;> simp

@[simp] theorem HostSide.coreError_comp (h : HostSide) (site cause op : Nat) : (h.coreError site cause op).comp = h.comp := by
  unfold HostSide.coreError
  simp

@[simp] theorem HostSide.listFail_comp (h : HostSide) (e : Env) (site k space addr : Nat) :
    (h.listFail e site k space addr).comp = h.comp := by
  unfold HostSide.listFail
  split <;> simp

@[simp] theorem HostSide.timedMiss_comp (h : HostSide) (e : Env) (site c : Nat) (failed : Bool) :
    (h.timedMiss e site c failed).comp = h.comp := by
  unfold HostSide.timedMiss
  simp

@[simp] theorem HostSide.scopeReset_comp (h : HostSide) (c op : Nat) : (h.scopeReset c op).comp = h.comp := by
  unfold HostSide.scopeReset
  simp

@[simp] theorem HostSide.spend_comp (h : HostSide) (c site m d v : Nat) : (h.spend c site m d v).comp = h.comp := by
  unfold HostSide.spend
  simp

@[simp] theorem HostSide.freeUnits_comp (h : HostSide) (c site w : Nat) : (h.freeUnits c site w).comp = h.comp := by
  unfold HostSide.freeUnits
  simp

@[simp] theorem HostSide.occupy_comp (h : HostSide) (c site w : Nat) : (h.occupy c site w).comp = h.comp := by
  unfold HostSide.occupy
  simp

@[simp] theorem HostSide.listEcc_comp (h : HostSide) (e : Env) (site k space : Nat) (ecc : Ecc) :
    (h.listEcc e site k space ecc).comp = h.comp := by
  unfold HostSide.listEcc
  split <;> simp

@[simp] theorem HostSide.countFetch_comp (h : HostSide) (k space addr n : Nat) : (h.countFetch k space addr n).comp = h.comp := by
  unfold HostSide.countFetch
  split <;> simp

@[simp] theorem HostSide.enterList_comp (h : HostSide) (site k space addr : Nat) (timed : Bool) :
    (h.enterList site k space addr timed).1.comp = h.comp := by
  unfold HostSide.enterList
  split
  · rfl
  · extract_lets hdr count g x f t g₂
    split
    · simp [g]
    · split <;> simp [g₂, g]

@[simp] theorem HostSide.fetchFailed_comp (h : HostSide) (e : Env) (site c addr : Nat) (timed : Bool) (op : Nat) :
    (h.fetchFailed e site c addr timed op).comp = h.comp := by
  unfold HostSide.fetchFailed
  simp

@[simp] theorem HostSide.reachTile_comp (h : HostSide) (e : Env) (site c : Nat) : (h.reachTile e site c).comp = h.comp := by
  unfold HostSide.reachTile
  extract_lets x
  split
  · split <;> simp
  · rfl

@[simp] theorem HostSide.reachFirst_comp (h : HostSide) (e : Env) (site c : Nat) : (h.reachFirst e site c).comp = h.comp := by
  unfold HostSide.reachFirst
  extract_lets x
  split
  · split <;> simp
  · rfl

@[simp] theorem HostSide.startList_comp (h : HostSide) (e : Env) (c space addr : Nat) (timed : Bool) (rid : Nat)
    (ecc : optParam Ecc { }) : (h.startList e c space addr timed rid ecc).comp = h.comp := by
  unfold HostSide.startList
  split
  · rfl
  · next site _ =>
    split
    · rfl
    · extract_lets src g
      have e := HostSide.enterList_comp (g.listEcc e site (c / 8) space ecc) site (c / 8) space addr timed
      split <;> simp_all [g]

/-- What the effect of a command leaves of the compute state, its issue leaves. -/
theorem HostSide.issue_keeps {α : Type} (P : Compute → α) (h : HostSide) (e : Env) (c : Nat) (sel : Nat → Bool)
    (invalid : HostSide → Nat → Nat → Option Nat) (ready : HostSide → Nat → Nat → Bool)
    (eff : HostSide → Nat → Nat → Bool → HostSide) (heff : ∀ g site w b, P (eff g site w b).comp = P g.comp) :
    P (h.issue e c sel invalid ready eff).comp = P h.comp := by
  unfold HostSide.issue
  split
  · rfl
  · extract_lets x st
    split
    · extract_lets op g₁ g₂ src g₃ bad
      have e₁ : g₁.comp = h.comp := ((HostSide.occupy_comp ..).trans (HostSide.scopeReset_comp ..)).trans (HostSide.freeUnits_comp ..)
      clear_value g₁
      have e₂ : g₂.comp = g₁.comp := HostSide.traceCore_comp ..
      clear_value g₂
      have e₃ : g₃.comp = g₂.comp := HostSide.setCore_comp ..
      clear_value g₃ bad
      split
      · rfl
      · rw [← e₁, ← e₂, ← e₃]
        cases bad with
        | none => simp [heff]
        | some k =>
          dsimp only
          split <;> simp
    · rfl

@[simp] theorem HostSide.issue_comp (h : HostSide) (e : Env) (c : Nat) (sel : Nat → Bool) (invalid : HostSide → Nat → Nat → Option Nat)
    (ready : HostSide → Nat → Nat → Bool) (eff : HostSide → Nat → Nat → Bool → HostSide)
    (heff : ∀ g site w b, (eff g site w b).comp = g.comp) :
    (h.issue e c sel invalid ready eff).comp = h.comp :=
  HostSide.issue_keeps id h e c sel invalid ready eff heff

@[simp] theorem HostSide.fly_comp (h : HostSide) (site : Nat) (f : Flight) : (h.fly site f).comp = h.comp := by
  unfold HostSide.fly
  simp

@[simp] theorem HostSide.spadWrite_comp (h : HostSide) (e : Env) (site off : Nat) (bs : List Byte) :
    (h.spadWrite e site off bs).comp = h.comp := by
  unfold HostSide.spadWrite
  simp

@[simp] theorem HostSide.land_comp (h : HostSide) (e : Env) (c site : Nat) (f : Flight) : (h.land e c site f).comp = h.comp := by
  unfold HostSide.land
  extract_lets g₁ g₂
  have e₂ : g₂.comp = h.comp := by simp [g₂, g₁]
  split <;> simp [e₂]

@[simp] theorem HostSide.unitUe_comp (h : HostSide) (e : Env) (site op : Nat) (timed : Bool) (sig : Option Nat) (ue : List (Nat × Nat)) :
    (h.unitUe e site op timed sig ue).comp = h.comp := by
  unfold HostSide.unitUe
  extract_lets g₁ g₂ x
  have e₂ : g₂.comp = h.comp := by simp [g₂, g₁]
  split
  · rfl
  · split
    · simp [e₂]
    · split <;> simp [e₂]

@[simp] theorem HostSide.startUnit_comp (h : HostSide) (e : Env) (site w unit bank : Nat) (timed : Bool) (o : UnitOut)
    (ue : List (Nat × Nat)) : (h.startUnit e site w unit bank timed o ue).comp = h.comp := by
  unfold HostSide.startUnit
  split <;> simp

@[simp] theorem HostSide.issueUnit_comp (h : HostSide) (e : Env) (c op unit : Nat) (x : Ecc)
    (invalid : HostSide → Nat → Nat → Option Nat) (ready : HostSide → Nat → Nat → Bool) (run : CoreSt → Nat → Nat × UnitOut) :
    (h.issueUnit e c op unit x invalid ready run).comp = h.comp := by
  unfold HostSide.issueUnit
  exact HostSide.issue_comp _ _ _ _ _ _ _ fun g site w timed => by simp

/-! ### Tokens, waits and calls (R120 to R122) -/

@[simp] theorem HostSide.clearErr_comp (h : HostSide) (site : Nat) : (h.clearErr site).comp = h.comp := by
  unfold HostSide.clearErr
  simp

/-! ### Transfers (R123, R164, R173, R405) -/

@[simp] theorem HostSide.issueXfer_comp (h : HostSide) (e : Env) (c : Nat) (load : Bool) (ecc : Ecc) :
    (h.issueXfer e c load ecc).comp = h.comp := by
  unfold HostSide.issueXfer
  refine HostSide.issue_comp _ _ _ _ _ _ _ fun g site w timed => ?_
  extract_lets +onlyGivenNames x
  generalize controlOf x.far = k
  clear_value x
  split
  next hk =>
  rw [HostSide.setCore_comp]
  refine (congrArg (fun r : HostSide × Xfer => r.1.comp) hk).symm.trans ?_
  clear hk
  split
  · rfl
  · rfl
  · simp
  · rfl

@[simp] theorem HostSide.setRing_comp (h : HostSide) (n : Nat) (r : Machine.Ring) : (h.setRing n r).comp = h.comp := by
  unfold HostSide.setRing
  simp

@[simp] theorem HostSide.addLeaf_comp (h : HostSide) (n pos : Nat) (rcd : List Byte) : (h.addLeaf n pos rcd).comp = h.comp := by
  unfold HostSide.addLeaf
  simp

@[simp] theorem HostSide.produce_comp (h : HostSide) (n : Nat) (rcd : List Byte) : (h.produce n rcd).comp = h.comp := by
  unfold HostSide.produce
  simp

@[simp] theorem HostSide.writeRec_comp (h : HostSide) (n pos : Nat) (rcd : List Byte) : (h.writeRec n pos rcd).comp = h.comp := by
  unfold HostSide.writeRec
  simp

/-! ### Unit map and commit records (R217, R225) -/

@[simp] theorem HostSide.commitRecord_comp (h : HostSide) (kind ctx : Nat) (content : List Byte) :
    (h.commitRecord kind ctx content).comp = h.comp := by
  unfold HostSide.commitRecord
  simp

@[simp] theorem HostSide.modItem_comp (h : HostSide) (seq : Nat) (f : Item → Item) : (h.modItem seq f).comp = h.comp := by
  unfold HostSide.modItem
  simp

@[simp] theorem HostSide.openItem_comp (h : HostSide) (it : Item) (hc : optParam Nat 5) : (h.openItem it hc).comp = h.comp := by
  unfold HostSide.openItem
  simp

@[simp] theorem HostSide.closeItem_comp (h : HostSide) (e : Env) (it : Item) (count : Nat) : (h.closeItem e it count).comp = h.comp := by
  unfold HostSide.closeItem
  simp

@[simp] theorem HostSide.lineSeen_comp (h : HostSide) (e : Env) (x count : Nat) : (h.lineSeen e x count).comp = h.comp := by
  unfold HostSide.lineSeen
  simp

@[simp] theorem HostSide.gapLine_comp (h : HostSide) (x idx count tick hc : Nat) : (h.gapLine x idx count tick hc).comp = h.comp := by
  unfold HostSide.gapLine
  split
  · rfl
  · extract_lets src g next full
    have hnext (k : HostSide) : (next k).comp = k.comp := rfl
    split
    · rfl
    · split
      · simp [hnext, g]
      · split
        · rfl
        · simp [hnext, g]

/-! ### Windows (R22, R340) -/

@[simp] theorem HostSide.inspectTick_comp (h : HostSide) (e : Env) (j count : Nat) : (h.inspectTick e j count).comp = h.comp := by
  unfold HostSide.inspectTick
  extract_lets mine lineOpen g
  have hg : g.comp = h.comp := HostSide.comp_foldl _ _ _ fun k i => by simp
  clear_value g
  split
  · exact hg
  · split
    · exact hg
    · dsimp only
      split
      · split
        · simp
          exact hg
        · simp
          exact hg
      · simp
        exact hg

@[simp] theorem HostSide.inspectInput_comp (h : HostSide) (e : Env) (state edge count : Nat) :
    (h.inspectInput e state edge count).comp = h.comp := by
  unfold HostSide.inspectInput
  extract_lets closes g
  have e : g.comp = h.comp := HostSide.comp_foldl _ _ _ fun k i => HostSide.closeItem_comp k _ i count
  split
  · exact e
  · simp [e]

@[simp] theorem HostSide.barSend_comp (h : HostSide) (type payload : Nat) : (h.barSend type payload).comp = h.comp := by
  unfold HostSide.barSend
  simp

@[simp] theorem HostSide.report_comp (h : HostSide) (e : Env) (o : OutEntry) (code result flags tag count : Nat) :
    (h.report e o code result flags tag count).comp = h.comp := by
  unfold HostSide.report
  simp

@[simp] theorem HostSide.eject_comp (h : HostSide) (e : Env) (o : OutEntry) (first numM1 wsel : Nat) :
    (h.eject e o first numM1 wsel).comp = h.comp := by
  unfold HostSide.eject
  simp

@[simp] theorem HostSide.cancelOut_comp (h : HostSide) (e : Env) : (h.cancelOut e).comp = h.comp := by
  unfold HostSide.cancelOut
  simp

/-! ### Uses and arrivals (R179 to R182) -/

@[simp] theorem HostSide.useStore_comp (h : HostSide) (e : Env) (kind unit off n : Nat) :
    (h.useStore e kind unit off n).1.comp = h.comp := by
  unfold HostSide.useStore
  simp

@[simp] theorem HostSide.landPiece_comp (h : HostSide) (e : Env) (kind unit off : Nat) (bs : List Byte) (failed : Bool) :
    (h.landPiece e kind unit off bs failed).1.comp = h.comp := by
  unfold HostSide.landPiece
  simp

@[simp] theorem HostSide.landPieces_comp (h : HostSide) (e : Env) (kind unit off per : Nat) (bs : List Byte)
    (bad : List (Nat × List Byte)) : (h.landPieces e kind unit off per bs bad).1.comp = h.comp := by
  exact foldl_keeps (fun acc : HostSide × Bool => acc.1.comp = h.comp) _ _ (h, false) rfl fun acc x hacc => by simp [hacc]

@[simp] theorem HostSide.moveData_comp (h : HostSide) (e : Env) (c site : Nat) (t : Xfer) (bad : List (Nat × List Byte))
    (data : List Byte) (ecc : Ecc) : (h.moveData e c site t bad data ecc).1.comp = h.comp := by
  unfold HostSide.moveData
  extract_lets +onlyGivenNames stored per u8 far src srcLen h₁ srcSt
  have e₁ : h₁.comp = h.comp := HostSide.eccUse_comp ..
  clear_value stored per u8 far src srcLen h₁ srcSt
  split
  next h₂ _ hk =>
  have e₂ : h₂.comp = h.comp := by
    refine (congrArg (fun r : HostSide × Bool => r.1.comp) hk).symm.trans ?_
    split
    · exact e₁
    · exact (HostSide.useStore_comp ..).trans e₁
  clear hk
  extract_lets +onlyGivenNames rowBytes srcBad dst ps pad one h₃
  have e₃ : h₃.comp = h.comp := by
    dsimp only [h₃]
    split <;> exact e₂
  have hone (acc : HostSide × Bool) (i : Nat) (p : Nat × Nat) : (one acc i p).1.comp = acc.1.comp := by
    clear_value rowBytes srcBad dst ps pad
    obtain ⟨h, b⟩ := acc
    dsimp -zeta only [one]
    generalize (if (t.rif != 0 && !t.load) = true then _ else _ : List Byte × Bool) = sent
    generalize arrived bad i sent.1 = got
    extract_lets +onlyGivenNames corrupt dOff bs h₄
    have e₄ : h₄.comp = h.comp := by
      dsimp only [h₄]
      split
      · exact (HostSide.countK_comp ..).trans (HostSide.csumFail_comp ..)
      · rfl
    clear_value corrupt dOff bs h₄
    split
    · exact e₄
    · exact (HostSide.landPiece_comp ..).trans e₄
  clear_value rowBytes srcBad dst ps pad h₃ one
  split
  next h₄ fails hk =>
  have e₄ : h₄.comp = h.comp := by
    refine (congrArg (fun r : HostSide × Bool => r.1.comp) hk).symm.trans ?_
    exact foldl_keeps (fun acc : HostSide × Bool => acc.1.comp = h.comp) _ _ _ e₃ fun acc x hacc => (hone acc _ _).trans hacc
  clear hk
  extract_lets +onlyGivenNames h₅ h₆ h₇
  have e₅ : h₅.comp = h.comp := by
    dsimp only [h₅]
    split
    · exact e₄
    · exact (HostSide.countK_comp ..).trans e₄
  clear_value h₅
  have e₆ : h₆.comp = h.comp := by
    refine (HostSide.countRotation_comp ..).trans (Eq.trans ?_ e₅)
    split
    · split <;> simp
    · simp
    · rfl
  clear_value h₆
  have e₇ : h₇.comp = h.comp := by
    dsimp only [h₇]
    split
    · exact (HostSide.countPort_comp ..).trans e₆
    · exact e₆
  clear_value h₇
  exact (HostSide.countC_comp ..).trans e₇

@[simp] theorem HostSide.failXfer_comp (h : HostSide) (c site : Nat) (t : Xfer) : (h.failXfer c site t).comp = h.comp := by
  unfold HostSide.failXfer
  extract_lets mark g
  have hmark (g : HostSide) (s : Nat) (tok : Option Nat) : (mark g s tok).comp = g.comp := by
    cases tok with
    | none => rfl
    | some k => simp [mark]
  have e : g.comp = h.comp := hmark _ _ _
  split
  · simp
  · split
    · rfl
    · split <;> simp [hmark, e]

@[simp] theorem HostSide.signalXfer_comp (h : HostSide) (c : Nat) (t : Xfer) : (h.signalXfer c t).comp = h.comp := by
  unfold HostSide.signalXfer
  extract_lets g
  have e : g.comp = h.comp := by
    dsimp only [g]
    split <;> simp
  split <;> simp [e]

/-! ### Stripe channels (R157 to R163) -/

@[simp] theorem HostSide.setChan_comp (h : HostSide) (k i : Nat) (x : Lsc) : (h.setChan k i x).comp = h.comp := by
  unfold HostSide.setChan
  simp

@[simp] theorem HostSide.showChan_comp (h : HostSide) (k i : Nat) : (h.showChan k i).comp = h.comp := by
  unfold HostSide.showChan
  simp

@[simp] theorem HostSide.freeSlots_comp (h : HostSide) (k i : Nat) : (h.freeSlots k i).comp = h.comp := by
  unfold HostSide.freeSlots
  simp

@[simp] theorem HostSide.postChan_comp (h : HostSide) (e : Env) (k i : Nat) : (h.postChan e k i).comp = h.comp := by
  unfold HostSide.postChan
  simp

@[simp] theorem HostSide.anchor_comp (h : HostSide) (k i first : Nat) : (h.anchor k i first).comp = h.comp := by
  unfold HostSide.anchor
  simp

@[simp] theorem HostSide.takeCtl_comp (h : HostSide) (site : Nat) : (h.takeCtl site).comp = h.comp := by
  unfold HostSide.takeCtl
  simp

@[simp] theorem HostSide.lscWrite_comp (g : HostSide) (k h : Nat) (v : Word) : (g.lscWrite k h v).comp = g.comp := by
  unfold HostSide.lscWrite
  simp

/-! ### Table copies -/

@[simp] theorem HostSide.commitTable_comp (h : HostSide) (v : Variant) (n : Nat) (late : Bool) :
    (h.commitTable v n late).comp = h.comp := by
  unfold HostSide.commitTable
  simp

@[simp] theorem HostSide.swapTable_comp (h : HostSide) (n : Nat) : (h.swapTable n).comp = h.comp := by
  exact (h.swapTable_spec n).2.1

@[simp] theorem HostSide.stackTemp_comp (h : HostSide) (st t : Nat) : (h.stackTemp st t).comp = h.comp := by
  unfold HostSide.stackTemp
  simp

@[simp] theorem HostSide.settleRefresh_comp (h : HostSide) (g : Nat) : (h.settleRefresh g).comp = h.comp := by
  unfold HostSide.settleRefresh
  simp

@[simp] theorem HostSide.iterate_comp (h : HostSide) (e : Env) : (h.iterate e).comp = h.comp := by
  refine (HostSide.comp_foldl _ _ _ fun g p => ?_).trans rfl
  split
  · rfl
  · split <;> simp

/-! ### Slots of replaced recipes (R195) -/

@[simp] theorem HostSide.loaderCommit_comp (h : HostSide) (n : Nat) (ent : Nat → Nat) : (h.loaderCommit n ent).comp = h.comp := by
  unfold HostSide.loaderCommit
  rw [HostSide.setArb_comp, HostSide.set_comp, HostSide.set_comp]
  exact HostSide.comp_forN _ _ _ fun _ _ => rfl

@[simp] theorem HostSide.keepBusy_comp (h : HostSide) (n : Nat) : (h.keepBusy n).comp = h.comp := by
  unfold HostSide.keepBusy
  simp

@[simp] theorem HostSide.retireOlds_comp (h : HostSide) : h.retireOlds.comp = h.comp := by
  unfold HostSide.retireOlds
  simp

/-! ### Slots (R190, R191) -/

@[simp] theorem HostSide.coreSlot_comp (h : HostSide) (e : Env) (n c dir : Nat) : (h.coreSlot e n c dir).1.comp = h.comp := by
  unfold HostSide.coreSlot
  split
  · rfl
  · extract_lets x sel
    split
    · rfl
    · simp

@[simp] theorem HostSide.fetchSlot_comp (h : HostSide) (e : Env) (n c dir : Nat) : (h.fetchSlot e n c dir).1.comp = h.comp := by
  unfold HostSide.fetchSlot
  split
  · rfl
  · extract_lets x
    split
    · rfl
    · split
      · rfl
      · simp

@[simp] theorem HostSide.overdueRefresh_comp (h : HostSide) (g : Nat) : (h.overdueRefresh g).comp = h.comp := by
  unfold HostSide.overdueRefresh
  extract_lets x k
  have e : k.comp = h.comp := by
    dsimp only [k]
    split <;> simp
  simp [e]

@[simp] theorem HostSide.hbmEcc_comp (h : HostSide) (e : Env) (g ce : Nat) (ue : List Nat) : (h.hbmEcc e g ce ue).comp = h.comp := by
  unfold HostSide.hbmEcc
  simp

/-! ### Release (R28 to R30, R222, R223, R340) -/

@[simp] theorem HostSide.undecided_comp (h : HostSide) (cause : Nat) : (h.undecided cause).comp = h.comp := by
  unfold HostSide.undecided
  simp

@[simp] theorem HostSide.release_comp (h : HostSide) (e : Env) (it : Item) (blk : Option (List Byte)) (cause : Nat) :
    (h.release e it blk cause).comp = h.comp := by
  unfold HostSide.release
  split
  · rfl
  · cases it.close <;> simp

/-! ### VERDICT (R121, R340) -/

@[simp] theorem HostSide.openRegion_comp (h : HostSide) (r : Recipe) (blk : Option (List Byte)) (cause : Nat) :
    (h.openRegion r blk cause).comp = h.comp := by
  unfold HostSide.openRegion
  extract_lets line first last
  clear_value first last
  cases first <;> cases last <;> simp

@[simp] theorem HostSide.judge_comp (h : HostSide) (rid : Nat) (blk : Option (List Byte)) (cause : Nat) :
    (h.judge rid blk cause).comp = h.comp := by
  unfold HostSide.judge
  split
  · simp
  · split
    · rfl
    · simp

/-! ### Unit map (R217) -/

@[simp] theorem HostSide.remap_comp (h : HostSide) (k : Nat) : (h.remap k).comp = h.comp := by
  unfold HostSide.remap
  simp

@[simp] theorem HostSide.showIds_comp (h : HostSide) (k : Nat) : (h.showIds k).comp = h.comp := rfl

@[simp] theorem HostSide.showMap_comp (h : HostSide) (k : Nat) : (h.showMap k).comp = h.comp := by
  unfold HostSide.showMap
  simp

@[simp] theorem HostSide.applyMap_comp (h : HostSide) (k pos : Nat) : (h.applyMap k pos).comp = h.comp := by
  unfold HostSide.applyMap
  extract_lets insp g₁ g₂ g₃
  have e₁ : g₁.comp = h.comp := by
    dsimp only [g₁]
    split <;> rfl
  rw [HostSide.commitRecord_comp, HostSide.nextCseq_comp, HostSide.showMap_comp, HostSide.remap_comp, e₁]

@[simp] theorem HostSide.addCommit_comp (h : HostSide) (c : Commit) : (h.addCommit c).comp = h.comp := by
  unfold HostSide.addCommit
  simp

@[simp] theorem HostSide.mapChange_comp (h : HostSide) (k pos : Nat) : (h.mapChange k pos).comp = h.comp := by
  unfold HostSide.mapChange
  simp

@[simp] theorem HostSide.dropRearm_comp (h : HostSide) : h.dropRearm.comp = h.comp := by
  unfold HostSide.dropRearm
  simp

@[simp] theorem HostSide.renumber_comp (h : HostSide) (k : Nat) : (h.renumber k).comp = h.comp := by
  unfold HostSide.renumber
  simp

/-! ### Stopping cores -/

@[simp] theorem HostSide.clearSite_comp (h : HostSide) (site : Nat) : (h.clearSite site).comp = h.comp := by
  unfold HostSide.clearSite
  simp

@[simp] theorem HostSide.stopCores_comp (h : HostSide) (r : Recipe) (disarm : Bool) : (h.stopCores r disarm).comp = h.comp := by
  refine HostSide.comp_foldl _ _ _ fun g c => ?_
  split <;> simp

/-! ### Fences (R211 to R216) -/

@[simp] theorem HostSide.haltCluster_comp (h : HostSide) (e : Env) (k : Nat) : (h.haltCluster e k).comp = h.comp := by
  unfold HostSide.haltCluster
  simp

@[simp] theorem HostSide.dropNaming_comp (h : HostSide) (k j : Nat) : (h.dropNaming k j).comp = h.comp := by
  exact HostSide.comp_foldl _ _ _ fun g x => HostSide.setCore_comp g _ _

@[simp] theorem HostSide.askHalt_comp (h : HostSide) (cause : Nat) : (h.askHalt cause).comp = h.comp := by
  unfold HostSide.askHalt
  simp

/-! ### Lanes (R36 to R47) -/

@[simp] theorem HostSide.setLane_comp (h : HostSide) (l : Nat) (x : Lane) : (h.setLane l x).comp = h.comp := by
  unfold HostSide.setLane
  simp

@[simp] theorem HostSide.addLane_comp (h : HostSide) (lo hi : RF) (n : Nat) : (h.addLane lo hi n).comp = h.comp := by
  unfold HostSide.addLane
  simp

@[simp] theorem HostSide.genOn_comp (h : HostSide) (l n : Nat) : (h.genOn l n).comp = h.comp := by
  unfold HostSide.genOn
  simp

@[simp] theorem HostSide.laneCount_comp (h : HostSide) (l bitsN errs : Nat) : (h.laneCount l bitsN errs).comp = h.comp := by
  unfold HostSide.laneCount
  simp

@[simp] theorem HostSide.flipRx_comp (h : HostSide) (l : Nat) : (h.flipRx l).comp = h.comp := by
  unfold HostSide.flipRx
  simp

@[simp] theorem HostSide.flipTx_comp (h : HostSide) (l : Nat) : (h.flipTx l).comp = h.comp := by
  unfold HostSide.flipTx
  simp

@[simp] theorem HostSide.laneEqWritten_comp (h : HostSide) (l : Nat) (was : Bool) : (h.laneEqWritten l was).comp = h.comp := by
  unfold HostSide.laneEqWritten
  simp

@[simp] theorem HostSide.lanePrbsWritten_comp (h : HostSide) (l : Nat) (old : Word) : (h.lanePrbsWritten l old).comp = h.comp := by
  unfold HostSide.lanePrbsWritten
  simp

@[simp] theorem HostSide.laneDark_comp (h : HostSide) (l : Nat) : (h.laneDark l).comp = h.comp := by
  unfold HostSide.laneDark
  simp

@[simp] theorem HostSide.lanePower_comp (h : HostSide) (l : Nat) (on : Bool) : (h.lanePower l on).comp = h.comp := by
  unfold HostSide.lanePower
  simp

/-! ### Camera links: lanes and states (R49 to R51) -/

@[simp] theorem HostSide.setLink_comp (h : HostSide) (n : Nat) (x : CxpLink) : (h.setLink n x).comp = h.comp := by
  unfold HostSide.setLink
  simp

@[simp] theorem HostSide.laneEn_comp (h : HostSide) (n : Nat) (on : Bool) : (h.laneEn n on).comp = h.comp := by
  unfold HostSide.laneEn
  simp

@[simp] theorem HostSide.unclaim_comp (h : HostSide) (n : Nat) : (h.unclaim n).comp = h.comp := by
  unfold HostSide.unclaim
  simp

@[simp] theorem HostSide.trigSettle_comp (h : HostSide) (n : Nat) : (h.trigSettle n).comp = h.comp := by
  unfold HostSide.trigSettle
  simp

@[simp] theorem HostSide.enterLink_comp (h : HostSide) (e : Env) (n st cause : Nat) : (h.enterLink e n st cause).comp = h.comp := by
  unfold HostSide.enterLink
  simp

@[simp] theorem HostSide.powerWait_comp (h : HostSide) (e : Env) (n : Nat) : (h.powerWait e n).comp = h.comp := by
  unfold HostSide.powerWait
  simp

@[simp] theorem HostSide.narrow_comp (h : HostSide) (a : Nat) : (h.narrow a).comp = h.comp := by
  unfold HostSide.narrow
  simp

@[simp] theorem HostSide.settlePair_comp (h : HostSide) (e : Env) (n : Nat) : (h.settlePair e n).comp = h.comp := by
  unfold HostSide.settlePair
  simp

@[simp] theorem HostSide.linkOff_comp (h : HostSide) (e : Env) (n : Nat) : (h.linkOff e n).comp = h.comp := by
  unfold HostSide.linkOff
  simp

@[simp] theorem HostSide.cxpCtrl_comp (h : HostSide) (e : Env) (n : Nat) (v : Word) (en : Bool) : (h.cxpCtrl e n v en).comp = h.comp := by
  unfold HostSide.cxpCtrl
  simp

@[simp] theorem HostSide.inLink_comp (h : HostSide) (e : Env) (n st : Nat) (f : HostSide → HostSide) (hf : (f h).comp = h.comp) :
    (h.inLink e n st f).comp = h.comp := by
  unfold HostSide.inLink
  simp [hf]

/-! ### Control channel (R53, R63, R64) -/

@[simp] theorem HostSide.ccDone_comp (h : HostSide) (n result : Nat) : (h.ccDone n result).comp = h.comp := by
  unfold HostSide.ccDone
  simp

/-! ### Streams, heartbeats, events (R55 to R57) -/

@[simp] theorem HostSide.uplinkTriggers_comp (h : HostSide) (e : Env) (j : Nat) : (h.uplinkTriggers e j).comp = h.comp := by
  unfold HostSide.uplinkTriggers
  simp

@[simp] theorem HostSide.cdrChange_comp (h : HostSide) (l : Nat) (sig lock : Bool) (bitsN errs peak : Nat) :
    (h.cdrChange l sig lock bitsN errs peak).comp = h.comp := by
  unfold HostSide.cdrChange
  simp

/-! ### What a neighbour sees (R81) -/

@[simp] theorem HostSide.setTb_comp (h : HostSide) (n : Nat) (x : TimeBase) : (h.setTb n x).comp = h.comp := by
  unfold HostSide.setTb
  simp

@[simp] theorem HostSide.rateTo_comp (h : HostSide) (e : Env) (n rate : Nat) : (h.rateTo e n rate).comp = h.comp := by
  unfold HostSide.rateTo
  simp

@[simp] theorem HostSide.tbTo_comp (h : HostSide) (e : Env) (n v : Nat) : (h.tbTo e n v).comp = h.comp := by
  unfold HostSide.tbTo
  simp

/-! ### Compare units (R302, R303) -/

@[simp] theorem HostSide.cmpPin_comp (h : HostSide) (i : Nat) : (h.cmpPin i).comp = h.comp := by
  unfold HostSide.cmpPin
  simp

@[simp] theorem HostSide.fireCmp_comp (h : HostSide) (e : Env) (i : Nat) : (h.fireCmp e i).comp = h.comp := by
  unfold HostSide.fireCmp
  simp

@[simp] theorem HostSide.cmpArm_comp (h : HostSide) (e : Env) (i : Nat) : (h.cmpArm e i).comp = h.comp := by
  unfold HostSide.cmpArm
  simp

@[simp] theorem HostSide.crossed_comp (h g : HostSide) (e : Env) (n : Nat) : (h.crossed g e n).comp = g.comp :=
  HostSide.comp_forN _ _ _ fun i k => by simp

/-! ### Changes of a time base (R300) -/

@[simp] theorem HostSide.setPort_comp (h : HostSide) (p : Nat) (x : IflPort) : (h.setPort p x).comp = h.comp := by
  unfold HostSide.setPort
  simp

/-! ### Flits (R70 to R72) -/

@[simp] theorem HostSide.noteLaunch_comp (h : HostSide) (e : Env) (type payload : Nat) : (h.noteLaunch e type payload).comp = h.comp := by
  unfold HostSide.noteLaunch
  simp

@[simp] theorem HostSide.txPassed_comp (h : HostSide) (p i : Nat) : (h.txPassed p i).comp = h.comp := by
  unfold HostSide.txPassed
  simp

@[simp] theorem HostSide.sendOut_comp (h : HostSide) (p f : Nat) : (h.sendOut p f).comp = h.comp := by
  unfold HostSide.sendOut
  simp

@[simp] theorem HostSide.sendFlit_comp (h : HostSide) (e : Env) (p type vc payload : Nat) :
    (h.sendFlit e p type vc payload).comp = h.comp := by
  unfold HostSide.sendFlit
  simp

@[simp] theorem HostSide.flush_comp (h : HostSide) (e : Env) (p : Nat) : (h.flush e p).comp = h.comp := by
  unfold HostSide.flush
  simp

@[simp] theorem HostSide.presentFlit_comp (h : HostSide) (e : Env) (p type vc payload : Nat) :
    (h.presentFlit e p type vc payload).comp = h.comp := by
  unfold HostSide.presentFlit
  simp

@[simp] theorem HostSide.sendCredit_comp (h : HostSide) (p : Nat) : (h.sendCredit p).comp = h.comp := by
  unfold HostSide.sendCredit
  simp

@[simp] theorem HostSide.freeBuffer_comp (h : HostSide) (p vc : Nat) : (h.freeBuffer p vc).comp = h.comp := by
  unfold HostSide.freeBuffer
  simp

@[simp] theorem HostSide.freeFlit_comp (h : HostSide) (p vc : Nat) : (h.freeFlit p vc).comp = h.comp := by
  unfold HostSide.freeFlit
  simp

@[simp] theorem HostSide.creditsBack_comp (h : HostSide) : h.creditsBack.comp = h.comp := by
  unfold HostSide.creditsBack
  simp

/-! ### States (R75, R76) -/

@[simp] theorem HostSide.portUp_comp (h : HostSide) (p : Nat) : (h.portUp p).comp = h.comp := by
  unfold HostSide.portUp
  simp

@[simp] theorem HostSide.showLocks_comp (h : HostSide) (p : Nat) : (h.showLocks p).comp = h.comp := by
  unfold HostSide.showLocks
  simp

@[simp] theorem HostSide.portTo_comp (h : HostSide) (p st : Nat) : (h.portTo p st).comp = h.comp := by
  unfold HostSide.portTo
  simp

@[simp] theorem HostSide.seekCheck_comp (h : HostSide) (p : Nat) : (h.seekCheck p).comp = h.comp := by
  unfold HostSide.seekCheck
  simp

/-! ### What a lane receives (R39, R66 to R70) -/

@[simp] theorem HostSide.ownWire_comp (h : HostSide) (p i : Nat) (bs : List Bool) : (h.ownWire p i bs).1.comp = h.comp := by
  unfold HostSide.ownWire
  simp

@[simp] theorem HostSide.ownFlit_comp (h : HostSide) (p i f : Nat) : (h.ownFlit p i f).1.comp = h.comp := by
  unfold HostSide.ownFlit
  simp

@[simp] theorem HostSide.ownMarker_comp (h : HostSide) (p i : Nat) : (h.ownMarker p i).1.comp = h.comp := by
  unfold HostSide.ownMarker
  simp

@[simp] theorem HostSide.recvLane_comp (h : HostSide) (p i : Nat) (wire : List Bool) : (h.recvLane p i wire).1.comp = h.comp := by
  unfold HostSide.recvLane
  simp

@[simp] theorem HostSide.recvData_comp (h : HostSide) (p i : Nat) (wire : List Bool) : (h.recvData p i wire).1.comp = h.comp := by
  unfold HostSide.recvData
  simp

@[simp] theorem HostSide.loopSlot_comp (h : HostSide) (p : Nat) : (h.loopSlot p).1.comp = h.comp := by
  unfold HostSide.loopSlot
  simp

@[simp] theorem HostSide.slotWire_comp (h : HostSide) (p i own : Nat) (wire : List Bool) : (h.slotWire p i own wire).1.comp = h.comp := by
  unfold HostSide.slotWire
  split <;> simp

@[simp] theorem HostSide.recvFlit_comp (h : HostSide) (p : Nat) (w0 w1 : List Bool) : (h.recvFlit p w0 w1).1.comp = h.comp := by
  have e : (if h.looped p 0 || h.looped p 1 then h.loopSlot p else (h, 0)).1.comp = h.comp := by
    split <;> simp
  unfold HostSide.recvFlit
  generalize (if h.looped p 0 || h.looped p 1 then h.loopSlot p else (h, 0)) = x at e ⊢
  simp [e]

/-! ### Markers (R66, R67, R75) -/

@[simp] theorem HostSide.codeError_comp (h : HostSide) (l : Nat) : (h.codeError l).comp = h.comp := by
  unfold HostSide.codeError
  simp

/-! ### Flits received (R72, R73, R233) -/

@[simp] theorem HostSide.eventSent_comp (h : HostSide) (e : Env) (p f : Nat) : (h.eventSent e p f).comp = h.comp := by
  unfold HostSide.eventSent
  simp

@[simp] theorem HostSide.eventGot_comp (h : HostSide) (e : Env) (p f tick : Nat) : (h.eventGot e p f tick).comp = h.comp := by
  unfold HostSide.eventGot
  simp

@[simp] theorem HostSide.takeAck_comp (h : HostSide) (e : Env) (p ack : Nat) : (h.takeAck e p ack).comp = h.comp := by
  unfold HostSide.takeAck
  extract_lets x
  split <;> simp

@[simp] theorem HostSide.discardFlit_comp (h : HostSide) (p : Nat) : (h.discardFlit p).comp = h.comp := by
  unfold HostSide.discardFlit
  simp

@[simp] theorem HostSide.deliver_comp (h : HostSide) (e : Env) (p f : Nat) : (h.deliver e p f).comp = h.comp := by
  unfold HostSide.deliver
  simp

@[simp] theorem HostSide.captureFlits_comp (h : HostSide) (e : Env) : (h.captureFlits e).comp = h.comp := by
  unfold HostSide.captureFlits
  simp

@[simp] theorem HostSide.handOver_comp (h : HostSide) (e : Env) (p : Nat) (l ats : List Nat) : (h.handOver e p l ats).comp = h.comp := by
  induction l generalizing h ats with
  | nil => rfl
  | cons f l ih =>
    unfold HostSide.handOver
    split <;> simp [ih]

@[simp] theorem HostSide.deliverHeld_comp (h : HostSide) (e : Env) : (h.deliverHeld e).comp = h.comp := by
  exact HostSide.comp_forN _ _ _ fun p g => by simp

theorem HostSide.takeFlit_comp (h g : HostSide) (p x : Nat) (q : Nat → Bool) (hg : h.takeFlit p q = some (x, g)) : g.comp = h.comp := by
  unfold HostSide.takeFlit at hg
  dsimp only at hg
  split at hg
  · obtain ⟨-, rfl⟩ := Prod.mk.inj (Option.some.inj hg)
    simp
  · exact absurd hg (by simp)

/-! ### Partitions and jobs as data -/

@[simp] theorem HostSide.writeBlock_comp (h : HostSide) (p b : Nat) : (h.writeBlock p b).comp = h.comp := by
  unfold HostSide.writeBlock
  simp

/-! ### What the registers show (R379) -/

@[simp] theorem HostSide.showEntry_comp (h : HostSide) : h.showEntry.comp = h.comp := by
  unfold HostSide.showEntry
  simp

@[simp] theorem HostSide.showPart_comp (h : HostSide) (p : Nat) : (h.showPart p).comp = h.comp := by
  unfold HostSide.showPart
  simp

@[simp] theorem HostSide.showClient_comp (h : HostSide) (c : Nat) : (h.showClient c).comp = h.comp := by
  unfold HostSide.showClient
  simp

@[simp] theorem HostSide.showJob_comp (h : HostSide) (j : Job) : (h.showJob j).comp = h.comp := by
  unfold HostSide.showJob
  simp

/-! ### Scheduling (R362 to R364) -/

@[simp] theorem HostSide.traceJob_comp (h : HostSide) (e : Env) (j : Job) (st : Nat) : (h.traceJob e j st).comp = h.comp := by
  unfold HostSide.traceJob
  simp

/-! ### Serving partitions (R372, R377): what a job's end does to them -/

@[simp] theorem HostSide.respond_comp (h : HostSide) (p n code toks : Nat) : (h.respond p n code toks).comp = h.comp := by
  unfold HostSide.respond
  simp

@[simp] theorem HostSide.showServing_comp (h : HostSide) (p : Nat) : (h.showServing p).comp = h.comp := by
  unfold HostSide.showServing
  simp

/-! ### The end of a job (R360, R361, R365) -/

@[simp] theorem HostSide.stopJob_comp (h : HostSide) (j : Job) : (h.stopJob j).comp = h.comp := by
  refine HostSide.comp_foldl _ _ _ fun g c => ?_
  split <;> simp

/-! ### JOB_RUN and JOB_CANCEL (R358, R359, R361) -/

@[simp] theorem HostSide.readTable_comp (h : HostSide) (e : Env) (tab : Nat × Nat) (k n : Nat) (ecc : Ecc) :
    (h.readTable e tab k n ecc).1.comp = h.comp := by
  unfold HostSide.readTable
  split <;> simp

/-! ### Save and restore (R364, R366, R367, R404) -/

@[simp] theorem HostSide.restoreCore_comp (h : HostSide) (job c s st : Nat) (v : SavedCore) :
    (h.restoreCore job c s st v).comp = h.comp := by
  unfold HostSide.restoreCore
  simp

@[simp] theorem HostSide.badTile_comp (h : HostSide) (e : Env) (k mem tile : Nat) : (h.badTile e k mem tile).comp = h.comp := by
  unfold HostSide.badTile
  split
  · split <;> simp
  · simp

@[simp] theorem HostSide.eccSave_comp (h : HostSide) (e : Env) (k : Nat) (ecc : List (Nat × Ecc)) :
    (h.eccSave e k ecc).comp = h.comp := by
  refine HostSide.comp_foldl _ _ _ fun g x => ?_
  split
  · simp
  · split <;> simp

@[simp] theorem HostSide.countContext_comp (h : HostSide) (k ck ge g n : Nat) : (h.countContext k ck ge g n).comp = h.comp := by
  unfold HostSide.countContext
  simp

/-! ### Parked remote waits (R368) -/

@[simp] theorem HostSide.unpark_comp (h : HostSide) (s : Nat) (o : Oxbow) : (h.unpark s o).comp = h.comp := by
  unfold HostSide.unpark
  simp

/-! ### Restore -/

@[simp] theorem HostSide.freshCore_comp (h : HostSide) (c s : Nat) : (h.freshCore c s).comp = h.comp := by
  unfold HostSide.freshCore
  simp

/-! ### Formatters -/

@[simp] theorem HostSide.setPipe_comp (h : HostSide) (p : Nat) (x : Pipe) : (h.setPipe p x).comp = h.comp := by
  unfold HostSide.setPipe
  simp

@[simp] theorem HostSide.modCtx_comp (h : HostSide) (x : Nat) (f : Ctx → Ctx) : (h.modCtx x f).comp = h.comp := by
  unfold HostSide.modCtx
  simp

@[simp] theorem HostSide.modFrame_comp (h : HostSide) (x num : Nat) (f : PixFrame → PixFrame) : (h.modFrame x num f).comp = h.comp := by
  unfold HostSide.modFrame
  simp

/-! ### Table memory (R92, R97) -/

@[simp] theorem HostSide.tblWrite_comp (h : HostSide) (p a : Nat) (v : Word) : (h.tblWrite p a v).1.comp = h.comp := by
  unfold HostSide.tblWrite
  split
  · simp
  · rw [HostSide.inc_comp]
    exact HostSide.comp_foldl _ _ _ fun g x => HostSide.set_comp g _ 1

@[simp] theorem HostSide.tblKeep_comp (h : HostSide) (p base : Nat) (ws : List Nat) : (h.tblKeep p base ws).comp = h.comp := by
  unfold HostSide.tblKeep
  simp

/-! ### Shadow and active copies (R96, R97, R225) -/

@[simp] theorem HostSide.applyCtx_comp (h : HostSide) (x : Nat) : (h.applyCtx x).comp = h.comp := by
  unfold HostSide.applyCtx
  simp

/-! ### Lines and ticks (R93, R95, R96) -/

@[simp] theorem HostSide.newFrame_comp (h : HostSide) (e : Env) (x count : Nat) : (h.newFrame e x count).comp = h.comp := by
  unfold HostSide.newFrame
  simp

@[simp] theorem HostSide.dropStripe_comp (h : HostSide) (e : Env) (x : Nat) (l : PixLine) : (h.dropStripe e x l).comp = h.comp := by
  unfold HostSide.dropStripe
  simp

@[simp] theorem HostSide.ingest_comp (h : HostSide) (e : Env) (x count : Nat) (missing : Bool) (data : List Byte) :
    (h.ingest e x count missing data).comp = h.comp := by
  unfold HostSide.ingest
  simp

@[simp] theorem HostSide.retireTick_comp (h : HostSide) (e : Env) (x : Nat) : (h.retireTick e x).comp = h.comp := by
  unfold HostSide.retireTick
  split <;> simp

@[simp] theorem HostSide.pixTick_comp (h : HostSide) (e : Env) (j count : Nat) (lost : Bool) :
    (h.pixTick e j count lost).comp = h.comp := by
  unfold HostSide.pixTick
  simp

/-! ### Commits (R96) -/

@[simp] theorem HostSide.enableCtx_comp (h : HostSide) (x : Nat) (v : Word) : (h.enableCtx x v).comp = h.comp := by
  unfold HostSide.enableCtx
  simp

@[simp] theorem HostSide.writeCtxOn_comp (h : HostSide) (x : Nat) (v : Word) : (h.writeCtxOn x v).comp = h.comp := by
  unfold HostSide.writeCtxOn
  simp

/-! ### Camera settings (R98, R99) -/

@[simp] theorem HostSide.showSets_comp (h : HostSide) (x : Nat) : (h.showSets x).comp = h.comp := by
  unfold HostSide.showSets
  simp

@[simp] theorem HostSide.setFails_comp (h : HostSide) (x gen : Nat) : (h.setFails x gen).comp = h.comp := by
  unfold HostSide.setFails
  simp

@[simp] theorem HostSide.issueSets_comp (h : HostSide) (x : Nat) : (h.issueSets x).comp = h.comp := by
  refine HostSide.comp_foldl _ _ _ fun g r => ?_
  split
  · rfl
  · split
    · simp
    · split <;> simp

/-! ### Rings of records and images (R102) -/

@[simp] theorem HostSide.beginFrame_comp (h : HostSide) (x num : Nat) : (h.beginFrame x num).comp = h.comp := by
  unfold HostSide.beginFrame
  simp

/-! ### Statistics (R100) -/

@[simp] theorem HostSide.stats_comp (h : HostSide) (x tap : Nat) (l : PixLine) (bad : Bool) (chans : List (List Nat)) :
    (h.stats x tap l bad chans).comp = h.comp := by
  unfold HostSide.stats
  simp

/-! ### Images in host memory (R103 to R105) -/

@[simp] theorem HostSide.rawOut_comp (h : HostSide) (x tap : Nat) (l : PixLine) (chans : List (List Nat)) :
    (h.rawOut x tap l chans).comp = h.comp := by
  unfold HostSide.rawOut
  simp
  split <;> simp

@[simp] theorem HostSide.dispOut_comp (h : HostSide) (x num y : Nat) (chans : List (List Nat)) :
    (h.dispOut x num y chans).comp = h.comp := by
  unfold HostSide.dispOut
  simp
  split <;> simp

@[simp] theorem HostSide.codeOut_comp (h : HostSide) (x num y : Nat) (chans : List (List Nat)) :
    (h.codeOut x num y chans).comp = h.comp := by
  unfold HostSide.codeOut
  simp
  (repeat' split) <;> simp

/-! ### Frame records (R101, R102) -/

@[simp] theorem HostSide.endFrame_comp (h : HostSide) (x num : Nat) (trunc : Bool) : (h.endFrame x num trunc).comp = h.comp := by
  unfold HostSide.endFrame
  simp
  split <;> simp

/-! ### Stripes (R106 to R108, R157 to R159) -/

@[simp] theorem HostSide.lsPut_comp (h : HostSide) (e : Env) (clu off w : Nat) (bs : List Byte) (bad : List (Nat × List Byte)) :
    (h.lsPut e clu off w bs bad).comp = h.comp := by
  unfold HostSide.lsPut
  simp

@[simp] theorem HostSide.mvOut_comp (h : HostSide) (e : Env) (x num stripe j : Nat) (chans : List (List Nat))
    (bad : List (Nat × List Byte)) : (h.mvOut e x num stripe j chans bad).comp = h.comp := by
  unfold HostSide.mvOut
  simp

@[simp] theorem HostSide.endStripe_comp (h : HostSide) (e : Env) (x : Nat) (f : PixFrame) (stripe : Nat) (drop trunc : Bool)
    (tbl : List (Nat × Bool × Bool)) (first : Nat) (bad : List (Nat × List Byte)) :
    (h.endStripe e x f stripe drop trunc tbl first bad).comp = h.comp := by
  unfold HostSide.endStripe
  extract_lets +onlyGivenNames g rows rows' h₁
  rw [HostSide.modCtx_comp]
  refine HostSide.comp_foldl _ _ _ fun k d => ?_
  extract_lets +onlyGivenNames off h₂ h₃
  have e₃ : h₃.comp = k.comp := (HostSide.lsPut_comp ..).trans (HostSide.lsPut_comp ..)
  clear_value h₃
  split <;> simp [e₃]

/-! ### The stages of a line (R83, R87 to R91) -/

@[simp] theorem HostSide.finalLine_comp (h : HostSide) (e : Env) (x : Nat) (l : PixLine) (chans : List (List Nat)) (count : Nat)
    (miss fill : Bool) (bad : List (Nat × List Byte)) : (h.finalLine e x l chans count miss fill bad).comp = h.comp := by
  unfold HostSide.finalLine
  simp

@[simp] theorem HostSide.colourLine_comp (h : HostSide) (e : Env) (x : Nat) (l : PixLine) (chans : List (List Nat)) (fill : Bool)
    (bad : List (Nat × List Byte)) : (h.colourLine e x l chans fill bad).comp = h.comp := by
  unfold HostSide.colourLine
  simp

@[simp] theorem HostSide.bayerOut_comp (h : HostSide) (e : Env) (x : Nat) (south : Option (List Nat)) (bad : List (Nat × List Byte)) :
    (h.bayerOut e x south bad).comp = h.comp := by
  unfold HostSide.bayerOut
  simp
  split <;> simp

@[simp] theorem HostSide.keepDelay_comp (h : HostSide) (x : Nat) (cfg : Sys2Proof.SMap Word) (n : Nat) (planes : List (List Nat)) :
    (h.keepDelay x cfg n planes).comp = h.comp := by
  unfold HostSide.keepDelay
  simp

@[simp] theorem HostSide.throughStages_comp (h : HostSide) (e : Env) (x : Nat) (l : PixLine) (bad : List (Nat × List Byte)) :
    (h.throughStages e x l bad).comp = h.comp := by
  unfold HostSide.throughStages
  simp
  split <;> simp

@[simp] theorem HostSide.droppedTurn_comp (h : HostSide) (e : Env) (x : Nat) (l : PixLine) (bad : List (Nat × List Byte)) :
    (h.droppedTurn e x l bad).comp = h.comp := by
  unfold HostSide.droppedTurn
  simp

/-! ### Turns (R94) -/

@[simp] theorem HostSide.wrapOrder_comp (h : HostSide) (p : Nat) : (h.wrapOrder p).comp = h.comp := by
  unfold HostSide.wrapOrder
  simp

@[simp] theorem HostSide.nextTurn_comp (h : HostSide) (p n : Nat) : (h.nextTurn p n).comp = h.comp := by
  induction n generalizing h with
  | zero => rfl
  | succ n ih =>
    unfold HostSide.nextTurn
    simp [ih]

@[simp] theorem HostSide.endTurn_comp (h : HostSide) (p : Nat) : (h.endTurn p).comp = h.comp := by
  unfold HostSide.endTurn
  simp

@[simp] theorem HostSide.lastBayer_comp (h : HostSide) (e : Env) (x : Nat) : (h.lastBayer e x).comp = h.comp := by
  unfold HostSide.lastBayer
  split <;> simp

@[simp] theorem HostSide.lastStripe_comp (h : HostSide) (e : Env) (x : Nat) : (h.lastStripe e x).comp = h.comp := by
  unfold HostSide.lastStripe
  simp
  (repeat' split) <;> simp

@[simp] theorem HostSide.disableCtx_comp (h : HostSide) (e : Env) (x : Nat) : (h.disableCtx e x).comp = h.comp := by
  unfold HostSide.disableCtx
  simp

@[simp] theorem HostSide.writeCtxOff_comp (h : HostSide) (e : Env) (x : Nat) (v : Word) : (h.writeCtxOff e x v).comp = h.comp := by
  unfold HostSide.writeCtxOff
  simp

@[simp] theorem HostSide.replayCtx_comp (h : HostSide) (e : Env) : (h.replayCtx e).comp = h.comp := by
  refine (HostSide.comp_foldl _ _ _ fun g w => ?_).trans rfl
  split
  · split <;> simp
  · split <;> simp

/-! ### RECIPE_LOAD (R338) -/

@[simp] theorem HostSide.putHbm_comp (h : HostSide) (e : Env) (far : Nat) (bs : List Byte) : (h.putHbm e far bs).comp = h.comp := by
  unfold HostSide.putHbm
  simp

/-! ### The commit points of recipes -/

@[simp] theorem HostSide.finishBy_comp (h : HostSide) (b : Option (Nat × Nat)) (status detail result : Nat) :
    (h.finishBy b status detail result).comp = h.comp := by
  unfold HostSide.finishBy
  split <;> simp

@[simp] theorem HostSide.loadChannels_comp (h : HostSide) (k : Nat) (bs : List Byte) : (h.loadChannels k bs).comp = h.comp := by
  refine HostSide.comp_forN _ _ _ fun i g => ?_
  extract_lets +onlyGivenNames w a g₁ g₂ g₃ g₄
  have e₃ : g₃.comp = g.comp := by
    rw [HostSide.setChan_comp]
    exact HostSide.setWord_comp ..
  clear_value g₃
  have e₄ : g₄.comp = g.comp := by
    dsimp only [g₄]
    split
    · exact e₃
    · split <;> simp [e₃]
  exact (HostSide.showChan_comp ..).trans e₄

@[simp] theorem HostSide.applySegs_comp (h : HostSide) (e : Env) (r : Recipe) (k : Nat) : (h.applySegs e r k).comp = h.comp := by
  refine HostSide.comp_foldl _ _ _ fun g x => ?_
  obtain ⟨kind, unit, dest, bs⟩ := x
  dsimp only
  split
  · split <;> simp
  · split
    · exact HostSide.loadChannels_comp ..
    · rfl
  · split
    · exact HostSide.comp_forN _ _ _ fun _ _ => rfl
    · rfl
  · rfl

@[simp] theorem HostSide.leaveLists_comp (h : HostSide) (r : Recipe) (k : Nat) : (h.leaveLists r k).comp = h.comp := by
  unfold HostSide.leaveLists
  simp

@[simp] theorem HostSide.takeOver_comp (h : HostSide) (e : Env) : (h.takeOver e).comp = h.comp := by
  refine HostSide.comp_forN _ _ _ fun k g => ?_
  split
  · rfl
  · split
    · rfl
    · simp

@[simp] theorem HostSide.initSchedule_comp (h : HostSide) (e : Env) (r : Recipe) : (h.initSchedule e r).comp = h.comp := by
  unfold HostSide.initSchedule
  simp

@[simp] theorem HostSide.disown_comp (h : HostSide) (r : Recipe) : (h.disown r).comp = h.comp := by
  exact HostSide.comp_foldl _ _ _ fun g n => HostSide.set_comp ..

@[simp] theorem HostSide.arm_comp (h : HostSide) (e : Env) (slot : Nat) (r : Recipe) (b : Option (Nat × Nat)) :
    (h.arm e slot r b).comp = h.comp := by
  unfold HostSide.arm
  extract_lets +onlyGivenNames g₁ ents g₂
  have e₁ : g₁.comp = h.comp := by
    dsimp only [g₁]
    split
    · split <;> simp
    · rfl
  clear_value g₁ ents
  have e₂ : g₂.comp = h.comp := by
    refine (HostSide.comp_foldl _ _ _ fun k x => ?_).trans e₁
    rw [HostSide.setArb_comp, HostSide.swapTable_comp, HostSide.loaderCommit_comp]
  clear_value g₂
  split
  next g₃ r₃ hk =>
  have e₃ : g₃.comp = h.comp := by
    refine (congrArg (fun x : HostSide × Recipe => x.1.comp) hk).symm.trans ?_
    split <;> exact e₂
  clear hk
  extract_lets +onlyGivenNames moves named src g₄ g₅ g₆ g₇
  have e₅ : g₅.comp = h.comp := (HostSide.comp_foldl _ _ _ fun _ _ => HostSide.addCommit_comp ..).trans e₃
  clear_value g₅
  simp [g₇, g₆, e₅]

@[simp] theorem HostSide.disarm_comp (h : HostSide) : h.disarm.comp = h.comp := by
  unfold HostSide.disarm
  split <;> simp

@[simp] theorem HostSide.rearm_comp (h : HostSide) (e : Env) : (h.rearm e).comp = h.comp := by
  unfold HostSide.rearm
  split <;> simp

/-! ### The global stop (R232 to R235) -/

@[simp] theorem HostSide.releaseStop_comp (h : HostSide) (source : Nat) : (h.releaseStop source).comp = h.comp := by
  unfold HostSide.releaseStop
  simp

/-! ### Seals (R227 to R231) -/

@[simp] theorem HostSide.holdSeal_comp (h : HostSide) (n : Nat) : (h.holdSeal n).comp = h.comp := by
  unfold HostSide.holdSeal
  simp

@[simp] theorem HostSide.takeSigner_comp (h : HostSide) (e : Env) : (h.takeSigner e).comp = h.comp := by
  unfold HostSide.takeSigner
  simp

/-! ### The dictionary (R383 to R385) -/

@[simp] theorem HostSide.showHdw_comp (h : HostSide) : h.showHdw.comp = h.comp := by
  unfold HostSide.showHdw
  simp

@[simp] theorem HostSide.modHdw_comp (h : HostSide) (f : Hdw → Hdw) : (h.modHdw f).comp = h.comp := by
  unfold HostSide.modHdw
  simp

@[simp] theorem HostSide.dictRefuse_comp (h : HostSide) (cause : Nat) (bad : Option Nat) : (h.dictRefuse cause bad).comp = h.comp := by
  unfold HostSide.dictRefuse
  split <;> simp

@[simp] theorem HostSide.dictCommit_comp (h : HostSide) (b : Nat) : (h.dictCommit b).comp = h.comp := by
  unfold HostSide.dictCommit
  simp

/-! ### Matching (R386, R387) -/

@[simp] theorem HostSide.writeTokens_comp (h : HostSide) (e : Env) (dst : Nat) (bs : List Byte) :
    (h.writeTokens e dst bs).comp = h.comp := by
  unfold HostSide.writeTokens
  simp

@[simp] theorem HostSide.blurTokens_comp (h : HostSide) (e : Env) (smp : Sample) (ntok : Nat) :
    (h.blurTokens e smp ntok).comp = h.comp := by
  unfold HostSide.blurTokens
  simp

/-! ### Samples (R381, R382) -/

@[simp] theorem HostSide.haltQueue_comp (h : HostSide) (q cause : Nat) : (h.haltQueue q cause).comp = h.comp := by
  unfold HostSide.haltQueue
  simp

@[simp] theorem HostSide.markOdd_comp (h : HostSide) (i cause off : Nat) : (h.markOdd i cause off).comp = h.comp := by
  unfold HostSide.markOdd
  split <;> simp

/-! ### Emergence and batches (R389 to R393) -/

@[simp] theorem HostSide.closeBatch_comp (h : HostSide) (timed stopped : Bool) : (h.closeBatch timed stopped).comp = h.comp := by
  unfold HostSide.closeBatch
  simp

@[simp] theorem HostSide.emerge_comp (h : HostSide) (smp : Sample) (ntok : Nat) : (h.emerge smp ntok).comp = h.comp := by
  unfold HostSide.emerge
  simp

@[simp] theorem HostSide.emergeFailed_comp (h : HostSide) (smp : Sample) (status detail : Nat) :
    (h.emergeFailed smp status detail).comp = h.comp := by
  unfold HostSide.emergeFailed
  simp

@[simp] theorem HostSide.writeBatchCfg_comp (h : HostSide) (v : Word) : (h.writeBatchCfg v).comp = h.comp := by
  unfold HostSide.writeBatchCfg
  simp

/-! ### The stop (R395 to R397) -/

@[simp] theorem HostSide.recheckBig_comp (h : HostSide) : h.recheckBig.comp = h.comp := by
  unfold HostSide.recheckBig
  split <;> simp

@[simp] theorem HostSide.hdwResume_comp (h : HostSide) (drop : Bool) : (h.hdwResume drop).comp = h.comp := by
  unfold HostSide.hdwResume
  split <;> simp

@[simp] theorem HostSide.hdwRestart_comp (h : HostSide) (q : Nat) : (h.hdwRestart q).comp = h.comp := by
  unfold HostSide.hdwRestart
  simp

@[simp] theorem HostSide.hdwReset_comp (h : HostSide) (q : Nat) : (h.hdwReset q).comp = h.comp := by
  unfold HostSide.hdwReset
  extract_lets +onlyGivenNames gone g₁ g₂
  have e₂ : g₂.comp = h.comp :=
    (HostSide.modHdw_comp ..).trans (HostSide.comp_foldl _ _ _ fun _ _ => HostSide.finish_comp ..)
  clear_value g₂
  split <;> simp [e₂]

/-! ### What the registers show (R487) -/

@[simp] theorem HostSide.setFlash_comp (h : HostSide) (f : Flash) : (h.setFlash f).comp = h.comp := by
  unfold HostSide.setFlash
  simp

@[simp] theorem HostSide.showSlots_comp (h : HostSide) : h.showSlots.comp = h.comp := by
  unfold HostSide.showSlots
  simp

@[simp] theorem HostSide.putCtl_comp (h : HostSide) (c : SlotCtl) : (h.putCtl c).comp = h.comp := by
  unfold HostSide.putCtl
  simp

/-! ### Commands in order (R473) -/

@[simp] theorem HostSide.withMbox_comp (h : HostSide) (q cmd : Nat) (f : Started → HostSide) (hf : ∀ d, (f d).comp = h.comp) :
    (h.withMbox q cmd f).comp = h.comp := by
  unfold HostSide.withMbox
  split
  · simp [hf]
  · rfl

@[simp] theorem HostSide.mboxNo_comp (h : HostSide) (q : Nat) (d : Started) (detail : Nat) : (h.mboxNo q d detail).comp = h.comp := by
  unfold HostSide.mboxNo
  simp

@[simp] theorem HostSide.mboxOk_comp (h : HostSide) (q : Nat) (d : Started) : (h.mboxOk q d).comp = h.comp := by
  unfold HostSide.mboxOk
  simp

@[simp] theorem HostSide.mboxOut_comp (h : HostSide) (q : Nat) (d : Started) (bs : List Byte) : (h.mboxOut q d bs).comp = h.comp := by
  unfold HostSide.mboxOut
  simp

/-! ### Delivery and activation (R474 to R478, R484) -/

@[simp] theorem HostSide.writePiece_comp (h : HostSide) (q : Nat) (d : Started) (piece : Nat) (bs : List Byte) (flashFail : Bool) :
    (h.writePiece q d piece bs flashFail).comp = h.comp := by
  unfold HostSide.writePiece
  simp

@[simp] theorem HostSide.pieceZero_comp (h : HostSide) (v : Variant) (q : Nat) (d : Started) (bs : List Byte) (flashFail : Bool) :
    (h.pieceZero v q d bs flashFail).comp = h.comp := by
  unfold HostSide.pieceZero
  simp

/-! ### The settings area (R459, R479 to R481) -/

@[simp] theorem HostSide.setSettings_comp (h : HostSide) (l : List Setting) : (h.setSettings l).comp = h.comp := by
  unfold HostSide.setSettings
  simp

/-! ### Identity (R469 to R472, R482, R483) -/

@[simp] theorem HostSide.readPuf_comp (h : HostSide) : h.readPuf.comp = h.comp := by
  unfold HostSide.readPuf
  simp

@[simp] theorem HostSide.setEth_comp (h : HostSide) (p : Nat) (x : EthPort) : (h.setEth p x).comp = h.comp := by
  unfold HostSide.setEth
  simp

@[simp] theorem HostSide.showStamp_comp (h : HostSide) (p : Nat) : (h.showStamp p).comp = h.comp := by
  unfold HostSide.showStamp
  simp

@[simp] theorem HostSide.ethRx_comp (h : HostSide) (e : Env) (p : Nat) (f : List Byte) (good : Bool) :
    (h.ethRx e p f good).comp = h.comp := by
  unfold HostSide.ethRx
  (repeat' split) <;> simp

@[simp] theorem HostSide.queueStamp_comp (h : HostSide) (p id stamp : Nat) : (h.queueStamp p id stamp).comp = h.comp := by
  unfold HostSide.queueStamp
  simp

@[simp] theorem HostSide.ethLink_comp (h : HostSide) (p : Nat) (lock hiBer : Bool) : (h.ethLink p lock hiBer).comp = h.comp := by
  unfold HostSide.ethLink
  simp

/-! ### Opening the device (R324) -/

@[simp] theorem HostSide.cfgInvalid_comp (h : HostSide) : h.cfgInvalid.comp = h.comp := by
  unfold HostSide.cfgInvalid
  simp

/-! ### Doorbells (R323, R327, R329, R343) -/

@[simp] theorem HostSide.showCq_comp (h : HostSide) (c : Nat) : (h.showCq c).comp = h.comp := by
  unfold HostSide.showCq
  simp

/-! ### Enabling, restarting and resetting queues (R328, R352 to R354) -/

@[simp] theorem HostSide.unhalt_comp (h : HostSide) (q : Nat) : (h.unhalt q).comp = h.comp := by
  unfold HostSide.unhalt
  simp

/-! ### The MOVE engine (R326, R334) -/

@[simp] theorem HostSide.moveRead_comp (h : HostSide) (e : Env) (x : MoveEnd) (off n : Nat) : (h.moveRead e x off n).1.comp = h.comp := by
  unfold HostSide.moveRead
  simp
  (repeat' split) <;> simp

@[simp] theorem HostSide.moveWrite_comp (h : HostSide) (e : Env) (x : MoveEnd) (off : Nat) (bs : List Byte) (bad : Bool) :
    (h.moveWrite e x off bs bad).1.comp = h.comp := by
  unfold HostSide.moveWrite
  split
  · simp
  · split
    · simp
    · exact foldl_keeps (fun acc : HostSide × MoveGot => acc.1.comp = h.comp) _ _ (h, MoveGot.ok) rfl fun acc i hacc =>
        (HostSide.tblWrite_comp ..).trans hacc
    · rfl

@[simp] theorem HostSide.moveNext_comp (h : HostSide) (q : Nat) (d : Started) (n len : Nat) (got : MoveGot) :
    (h.moveNext q d n len got).comp = h.comp := by
  unfold HostSide.moveNext
  split <;> simp

@[simp] theorem HostSide.moveEcc_comp (h : HostSide) (e : Env) (x : MoveEnd) (ecc : Ecc) : (h.moveEcc e x ecc).comp = h.comp := by
  unfold HostSide.moveEcc
  split <;> simp

/-! ### Bus Master Enable, interrupts, the state page (R344, R346, R348, R349) -/

@[simp] theorem HostSide.sendPending_comp (h : HostSide) (v : Nat) : (h.sendPending v).comp = h.comp := by
  unfold HostSide.sendPending
  simp

/-! ### Sleep and wake (R434 to R441) -/

@[simp] theorem HostSide.setCluPower_comp (h : HostSide) (k st : Nat) : (h.setCluPower k st).comp = h.comp := by
  unfold HostSide.setCluPower
  simp

@[simp] theorem HostSide.sleepTo_comp (h : HostSide) (k st : Nat) : (h.sleepTo k st).comp = h.comp := by
  unfold HostSide.sleepTo
  simp

@[simp] theorem HostSide.zeroSram_comp (h : HostSide) : h.zeroSram.comp = h.comp := by
  unfold HostSide.zeroSram
  extract_lets g
  have hg : g.comp = h.comp := HostSide.comp_forN _ _ _ fun _ _ => HostSide.setCore_comp ..
  clear_value g
  exact hg

@[simp] theorem HostSide.awake_comp (h : HostSide) (k : Nat) : (h.awake k).comp = h.comp := by
  unfold HostSide.awake
  simp

/-! ### Throttling (R442 to R445) -/

@[simp] theorem HostSide.showF_comp (h : HostSide) : h.showF.comp = h.comp := by
  unfold HostSide.showF
  simp

@[simp] theorem HostSide.clamp_comp (h : HostSide) (e : Env) : (h.clamp e).comp = h.comp := by
  unfold HostSide.clamp
  simp

@[simp] theorem HostSide.critical_comp (h : HostSide) (e : Env) (temp : Nat) : (h.critical e temp).comp = h.comp := by
  unfold HostSide.critical
  simp

/-! ### The compute-die trip (R446) -/

@[simp] theorem HostSide.cancelCommits_comp (h : HostSide) : h.cancelCommits.comp = h.comp := by
  refine (HostSide.comp_foldl _ _ _ fun g c => ?_).trans rfl
  split
  · rw [HostSide.finishBy_comp]
    exact HostSide.comp_foldl _ _ _ fun _ _ => HostSide.set_comp ..
  · split <;> simp
  · simp
  · rfl
  · simp

/-! ### Host-side resets (R422 to R425) -/

@[simp] theorem HostSide.hostReset_jobs (h : HostSide) (cause : Nat) : (h.hostReset cause).comp.jobs = [] := by
  unfold HostSide.hostReset
  simp

/-! ### Start-up (R427, R428) -/

@[simp] theorem HostSide.lockPlls_comp (h : HostSide) (v : Variant) : (h.lockPlls v).comp = h.comp := by
  unfold HostSide.lockPlls
  simp

@[simp] theorem HostSide.bootFence_comp (h : HostSide) (e : Env) (site : Nat) : (h.bootFence e site).comp = h.comp := by
  unfold HostSide.bootFence
  simp

@[simp] theorem HostSide.formMap_comp (h : HostSide) : h.formMap.comp = h.comp := by
  refine HostSide.comp_forN _ _ _ fun k g => ?_
  extract_lets +onlyGivenNames g₁ g₂
  have e₁ : g₁.comp = g.comp := by rw [HostSide.showMap_comp, HostSide.remap_comp]
  clear_value g₁
  have e₂ : g₂.comp = g.comp := HostSide.comp_ite_of ((HostSide.set_comp ..).trans e₁) e₁
  clear_value g₂
  exact HostSide.comp_ite_of ((HostSide.setBits_comp ..).trans e₂) e₂

@[simp] theorem HostSide.testedCore_comp (h : HostSide) (site : Nat) : (h.testedCore site).comp = h.comp := by
  unfold HostSide.testedCore
  simp

/-! ### The boot ROM (R466 to R472) -/

@[simp] theorem HostSide.showFail_comp (h : HostSide) (n code : Nat) : (h.showFail n code).comp = h.comp := by
  unfold HostSide.showFail
  simp

@[simp] theorem HostSide.showReverted_comp (h : HostSide) : h.showReverted.comp = h.comp := by
  unfold HostSide.showReverted
  simp

@[simp] theorem HostSide.romTry_comp (h : HostSide) (v : Variant) (n st : Nat) : (h.romTry v n st).1.comp = h.comp := by
  unfold HostSide.romTry
  simp
  (repeat' split) <;> simp

@[simp] theorem HostSide.romSelect_comp (h : HostSide) (v : Variant) : (h.romSelect v).1.comp = h.comp := by
  unfold HostSide.romSelect
  extract_lets next
  have hnext (x : HostSide × Option Nat) (n st : Nat) : (next x n st).1.comp = x.1.comp := by
    obtain ⟨g, r⟩ := x
    cases r with
    | some r => rfl
    | none => exact HostSide.romTry_comp ..
  clear_value next
  split
  · simp [hnext]
  · extract_lets a st x y
    have ex : x.1.comp = h.comp := by
      dsimp only [x]
      split <;> simp [hnext]
    have ey : y.1.comp = h.comp := by
      dsimp only [y]
      split <;> simp [hnext, ex]
    rw [hnext, ey]

@[simp] theorem HostSide.identity_comp (h : HostSide) : h.identity.comp = h.comp := by
  unfold HostSide.identity
  split
  · exact (HostSide.comp_forN _ _ _ fun k g => HostSide.set_comp ..).trans (HostSide.set_comp ..)
  · simp

@[simp] theorem HostSide.bootFloor_comp (h : HostSide) (v : Variant) : (h.bootFloor v).comp = h.comp := by
  unfold HostSide.bootFloor
  simp

@[simp] theorem HostSide.showPartFail_comp (h : HostSide) : h.showPartFail.comp = h.comp := by
  unfold HostSide.showPartFail
  split <;> simp

@[simp] theorem HostSide.runImage_comp (h : HostSide) (n : Nat) : (h.runImage n).comp = h.comp := rfl

/-! ### The management firmware (R427 steps 7 to 9) -/

@[simp] theorem HostSide.convert_comp (h : HostSide) (id ctx : Nat) : (h.convert id ctx).comp = h.comp := by
  unfold HostSide.convert
  split <;> simp

@[simp] theorem HostSide.bootSettings_comp (h : HostSide) : h.bootSettings.comp = h.comp := by
  unfold HostSide.bootSettings
  simp

@[simp] theorem HostSide.installTables_comp (h : HostSide) (bs : List Byte) : (h.installTables bs).comp = h.comp := by
  unfold HostSide.installTables
  simp

theorem HostSide.partBad_jobs (h : HostSide) (n : Nat) : (h.partBad n).comp.jobs = [] ∨ (h.partBad n).comp = h.comp := by
  unfold HostSide.partBad
  split
  · exact .inl (HostSide.hostReset_jobs ..)
  · exact .inr (by simp)

@[simp] theorem HostSide.firmwareUp_comp (h : HostSide) (e : Env) (n : Nat) : (h.firmwareUp e n).comp = h.comp := by
  unfold HostSide.firmwareUp
  simp
  split <;> simp

theorem HostSide.installParts_jobs (h : HostSide) (n : Nat) : (h.installParts n).comp.jobs = [] ∨ (h.installParts n).comp = h.comp := by
  unfold HostSide.installParts
  split
  · exact h.partBad_jobs n
  · exact .inr (by simp)

/-! ### TIME flits (R310): payload bits, flit bit n being payload bit n − 32 -/

@[simp] theorem HostSide.sendTime_comp (h : HostSide) (e : Env) (p kind : Nat) (tseq : Option Nat) (t : Nat) :
    (h.sendTime e p kind tseq t).comp = h.comp := by
  unfold HostSide.sendTime
  simp

@[simp] theorem HostSide.servo_comp (h : HostSide) (e : Env) (off : Int) : (h.servo e off).comp = h.comp := by
  unfold HostSide.servo
  simp

@[simp] theorem HostSide.tb1Ctrl_comp (h : HostSide) (v : Word) : (h.tb1Ctrl v).comp = h.comp := by
  unfold HostSide.tb1Ctrl
  simp

/-! ### Counters (R400, R408, R416, R440) -/

@[simp] theorem HostSide.cfgCounter_comp (h : HostSide) (a : Nat) (v : Word) : (h.cfgCounter a v).comp = h.comp := by
  unfold HostSide.cfgCounter
  split <;> simp

@[simp] theorem HostSide.askSnap_comp (h : HostSide) (e : Env) : (h.askSnap e).comp = h.comp := by
  unfold HostSide.askSnap
  simp

@[simp] theorem HostSide.clearGlobals_comp (h : HostSide) (e : Env) : (h.clearGlobals e).comp = h.comp := by
  unfold HostSide.clearGlobals
  extract_lets +onlyGivenNames same src k
  have hk : k.comp = h.comp := by
    dsimp only [k]
    split <;> rfl
  exact (HostSide.comp_forN _ _ _ fun _ _ => HostSide.set2_comp ..).trans hk

/-! ### Trace (R410 to R414) -/

@[simp] theorem HostSide.traceOut_comp (h : HostSide) (e : Env) (r : List Byte) : (h.traceOut e r).comp = h.comp := by
  unfold HostSide.traceOut
  simp

/-! ### Cycles that pass (R402, R404, R407, R409) -/

@[simp] theorem HostSide.idleCore_comp (h : HostSide) (c : Nat) : (h.idleCore c).comp = h.comp := by
  unfold HostSide.idleCore
  split <;> simp

@[simp] theorem HostSide.idle_comp (h : HostSide) : h.idle.comp = h.comp := by
  unfold HostSide.idle
  simp

/-! ### Frames (R270 to R274) -/

@[simp] theorem HostSide.launch_comp (h : HostSide) (wait : Nat) : (h.launch wait).comp = h.comp := by
  unfold HostSide.launch
  simp
  split <;> simp

@[simp] theorem HostSide.setTrig_comp (h : HostSide) (j : Nat) (x : TrigCopy) : (h.setTrig j x).comp = h.comp := by
  unfold HostSide.setTrig
  simp

@[simp] theorem HostSide.takeTicks_comp (h : HostSide) (payload : Nat) : (h.takeTicks payload).comp = h.comp := by
  unfold HostSide.takeTicks
  simp

@[simp] theorem HostSide.barReceive_comp (h : HostSide) (e : Env) (frame : Nat) : (h.barReceive e frame).comp = h.comp := by
  unfold HostSide.barReceive
  simp

@[simp] theorem HostSide.onMsg_comp (h : HostSide) (t : Nat) (f : HostSide → Nat → HostSide) (hf : ∀ g v, (f g v).comp = g.comp) :
    (h.onMsg t f).comp = h.comp := by
  unfold HostSide.onMsg
  split
  · exact hf _ _
  · rfl

/-! ### Ticks and snapshots (R279) -/

@[simp] theorem HostSide.lostTick_comp (h : HostSide) (e : Env) (j : Nat) : (h.lostTick e j).comp = h.comp := by
  unfold HostSide.lostTick
  simp

/-! ### Configuration accesses (R276, R279) -/

@[simp] theorem HostSide.noteTrig_comp (h : HostSide) (off : Nat) (v : Word) : (h.noteTrig off v).comp = h.comp := by
  unfold HostSide.noteTrig
  simp

@[simp] theorem HostSide.cfgSend_comp (h : HostSide) (type payload : Nat) (read : Bool) :
    (h.cfgSend type payload read).comp = h.comp := by
  unfold HostSide.cfgSend
  simp

@[simp] theorem HostSide.cfgWriteTo_comp (h : HostSide) (off : Nat) (v : Word) : (h.cfgWriteTo off v).comp = h.comp := by
  unfold HostSide.cfgWriteTo
  simp

@[simp] theorem HostSide.cfgReadFrom_comp (h : HostSide) (off : Nat) : (h.cfgReadFrom off).comp = h.comp := by
  unfold HostSide.cfgReadFrom
  simp

/-! ### Writes -/

@[simp] theorem HostSide.accW_comp (h : HostSide) (a : Nat) (v : Word) : (h.accW a v).comp = h.comp := by
  unfold HostSide.accW
  simp

@[simp] theorem HostSide.ctxW_comp (h : HostSide) (a : Nat) (v : Word) : (h.ctxW a v).comp = h.comp := by
  unfold HostSide.ctxW
  simp

@[simp] theorem HostSide.pipeW_comp (h : HostSide) (a : Nat) (v : Word) : (h.pipeW a v).comp = h.comp := by
  unfold HostSide.pipeW
  simp

@[simp] theorem HostSide.cxpW_comp (h : HostSide) (e : Env) (a : Nat) (v : Word) : (h.cxpW e a v).comp = h.comp := by
  unfold HostSide.cxpW
  simp

@[simp] theorem HostSide.slotW_comp (h : HostSide) (a : Nat) (v : Word) : (h.slotW a v).comp = h.comp := by
  unfold HostSide.slotW
  simp

@[simp] theorem HostSide.cluW_comp (h : HostSide) (a : Nat) (v : Word) : (h.cluW a v).comp = h.comp := by
  unfold HostSide.cluW
  simp

@[simp] theorem HostSide.devW_comp (h : HostSide) (e : Env) (a : Nat) (v : Word) : (h.devW e a v).comp = h.comp := by
  unfold HostSide.devW
  simp

@[simp] theorem HostSide.hifW_comp (h : HostSide) (a : Nat) (v : Word) : (h.hifW a v).comp = h.comp := by
  unfold HostSide.hifW
  simp

@[simp] theorem HostSide.pmW_comp (h : HostSide) (a : Nat) (v : Word) : (h.pmW a v).comp = h.comp := by
  unfold HostSide.pmW
  simp

@[simp] theorem HostSide.clkW_comp (h : HostSide) (a : Nat) (v : Word) : (h.clkW a v).comp = h.comp := by
  unfold HostSide.clkW
  simp

@[simp] theorem HostSide.timeW_comp (h : HostSide) (e : Env) (a : Nat) (v : Word) : (h.timeW e a v).comp = h.comp := by
  unfold HostSide.timeW
  (repeat' split) <;> simp

@[simp] theorem HostSide.ethW_comp (h : HostSide) (a : Nat) (v : Word) : (h.ethW a v).comp = h.comp := by
  unfold HostSide.ethW
  simp

@[simp] theorem HostSide.fldW_comp (h : HostSide) (a : Nat) (v : Word) : (h.fldW a v).comp = h.comp := by
  unfold HostSide.fldW
  simp

@[simp] theorem HostSide.coreW_comp (h : HostSide) (a : Nat) (v : Word) : (h.coreW a v).comp = h.comp := by
  unfold HostSide.coreW
  simp

@[simp] theorem HostSide.gaugeW_comp (h : HostSide) (a : Nat) (v : Word) : (h.gaugeW a v).comp = h.comp := by
  unfold HostSide.gaugeW
  simp

@[simp] theorem HostSide.hdwW_comp (h : HostSide) (a : Nat) (v : Word) : (h.hdwW a v).comp = h.comp := by
  unfold HostSide.hdwW
  simp

/-! ### Reads -/

@[simp] theorem HostSide.busRead_comp (h : HostSide) (e : Env) (a : Nat) : (h.busRead e a).comp = h.comp := by
  unfold HostSide.busRead
  simp

@[simp] theorem HostSide.setDbg_comp (h : HostSide) (d : Debug) : (h.setDbg d).comp = h.comp := by
  unfold HostSide.setDbg
  simp

@[simp] theorem HostSide.onDebug_comp (h : HostSide) (ir : Nat) (f : HostSide → HostSide) (hf : ∀ g, (f g).comp = g.comp) :
    (h.onDebug ir f).comp = h.comp := by
  unfold HostSide.onDebug
  simp [hf]

@[simp] theorem HostSide.dbgDone_comp (h : HostSide) (data : Option (List Byte)) : (h.dbgDone data).comp = h.comp := by
  unfold HostSide.dbgDone
  simp

end Sys2Proof.Machine

/-! SUPPORT. Partition, client and cores of every job (R20, R326, R358), through the functions that write the compute state. -/

namespace Sys2Proof.Machine
open Sys2Proof

/-- What a job's legality speaks of: its partition, its client and its cores. -/
def Job.owner (j : Job) : Nat × Nat × List Nat := (j.part, j.client, j.cores)

theorem owners_map (l : List Job) (f : Job → Job) (hf : ∀ j, (f j).owner = j.owner) : (l.map f).map Job.owner = l.map Job.owner := by
  rw [List.map_map]
  exact List.map_congr_left fun j _ => hf j

theorem owners_of_comp {g h : HostSide} (e : g.comp = h.comp) : g.comp.jobs.map Job.owner = h.comp.jobs.map Job.owner := by rw [e]

theorem owners_foldl {α : Type} (l : List α) (f : HostSide → α → HostSide) (h : HostSide)
    (hf : ∀ g x, (f g x).comp.jobs.map Job.owner = g.comp.jobs.map Job.owner) :
    (l.foldl f h).comp.jobs.map Job.owner = h.comp.jobs.map Job.owner :=
  foldl_keeps (fun g : HostSide => g.comp.jobs.map Job.owner = h.comp.jobs.map Job.owner) l f h rfl fun g x hg => (hf g x).trans hg

theorem owners_foldl_fst {α β : Type} (l : List α) (f : HostSide × β → α → HostSide × β) (a : HostSide × β)
    (hf : ∀ b x, (f b x).1.comp.jobs.map Job.owner = b.1.comp.jobs.map Job.owner) :
    (l.foldl f a).1.comp.jobs.map Job.owner = a.1.comp.jobs.map Job.owner :=
  foldl_keeps (fun b : HostSide × β => b.1.comp.jobs.map Job.owner = a.1.comp.jobs.map Job.owner) l f a rfl
    fun b x hb => (hf b x).trans hb

theorem owners_forN (n : Nat) (f : Nat → HostSide → HostSide) (h : HostSide)
    (hf : ∀ i g, (f i g).comp.jobs.map Job.owner = g.comp.jobs.map Job.owner) :
    (forN n f h).comp.jobs.map Job.owner = h.comp.jobs.map Job.owner :=
  forN_keeps (fun g : HostSide => g.comp.jobs.map Job.owner = h.comp.jobs.map Job.owner) n f h rfl fun i g hg => (hf i g).trans hg

/-- The same compute state: a predicate of the new state as a whole, under which a function's `let`s can be taken out. -/
def HostSide.SameComp (h g : HostSide) : Prop := g.comp = h.comp

theorem HostSide.SameComp.trans {h g k : HostSide} (e : h.SameComp g) (f : g.SameComp k) : h.SameComp k := Eq.trans f e

theorem HostSide.SameComp.of_ite {h g k : HostSide} {c : Prop} [Decidable c] (hg : h.SameComp g) (hk : h.SameComp k) :
    h.SameComp (if c then g else k) := HostSide.comp_ite_of hg hk

theorem HostSide.SameComp.forN {h : HostSide} {n : Nat} {f : Nat → HostSide → HostSide}
    (hf : ∀ i (g : HostSide), g.SameComp (f i g)) : h.SameComp (forN n f h) := HostSide.comp_forN n f h hf

theorem HostSide.SameComp.foldl {α : Type} {h : HostSide} {l : List α} {f : HostSide → α → HostSide}
    (hf : ∀ (g : HostSide) x, g.SameComp (f g x)) : h.SameComp (l.foldl f h) := HostSide.comp_foldl l f h hf

/-- As many jobs, of the same owners: a predicate of the new state as a whole, under which a function's `let`s can be taken out. -/
def HostSide.SameOwners (h g : HostSide) : Prop := g.comp.jobs.map Job.owner = h.comp.jobs.map Job.owner

namespace HostSide.SameOwners

variable {h g k : HostSide}

theorem of_comp (e : g.comp = h.comp) : h.SameOwners g := owners_of_comp e

theorem trans (e : h.SameOwners g) (f : g.SameOwners k) : h.SameOwners k := Eq.trans f e

theorem foldl {α : Type} {l : List α} {f : HostSide → α → HostSide} (hf : ∀ (g : HostSide) x, g.SameOwners (f g x)) :
    h.SameOwners (l.foldl f h) := owners_foldl l f h hf

theorem of_ite {c : Prop} [Decidable c] (hg : h.SameOwners g) (hk : h.SameOwners k) : h.SameOwners (if c then g else k) := by
  split
  · exact hg
  · exact hk

end HostSide.SameOwners

/-! ### Lists, fences and the inter-field links -/

@[simp] theorem HostSide.endList_owners (h : HostSide) (e : Env) (site c : Nat) :
    (h.endList e site c).comp.jobs.map Job.owner = h.comp.jobs.map Job.owner := by
  unfold HostSide.endList
  extract_lets +onlyGivenNames x rest g₁ g₂
  have e₁ : g₁.comp = h.comp := HostSide.setCore_comp ..
  clear_value g₁
  rw [HostSide.showPc_comp]
  dsimp -zeta only [g₂]
  clear g₂
  by_cases hr : rest.isEmpty = true
  · rw [if_pos hr]
    extract_lets +onlyGivenNames timed src g₃ n
    have e₃ : g₃.comp.jobs.map Job.owner = h.comp.jobs.map Job.owner := by
      rw [HostSide.set_comp, ← e₁]
      dsimp only
      split
      · exact owners_map _ _ fun j => by split <;> rfl
      · rfl
    clear_value g₃
    split <;> simp [e₃]
  · rw [if_neg hr, e₁]

@[simp] theorem HostSide.stepEndStore_jobs (h : HostSide) (c site : Nat) : (h.stepEndStore c site).comp.jobs = h.comp.jobs := by
  unfold HostSide.stepEndStore
  split
  · rfl
  · split
    · rfl
    · dsimp only
      split <;> rfl

@[simp] theorem HostSide.failJobOn_owners (h : HostSide) (site : Nat) :
    (h.failJobOn site).comp.jobs.map Job.owner = h.comp.jobs.map Job.owner := by
  unfold HostSide.failJobOn
  split
  · rfl
  · exact owners_map _ _ fun j => by split <;> rfl

@[simp] theorem HostSide.failOver_owners (h : HostSide) (p : Nat) : (h.failOver p).comp.jobs.map Job.owner = h.comp.jobs.map Job.owner := by
  unfold HostSide.failOver
  extract_lets +onlyGivenNames ox short lost js src g
  have e : g.comp.jobs.map Job.owner = h.comp.jobs.map Job.owner := owners_map _ _ fun j => by split <;> rfl
  clear_value g
  rw [← e]
  refine owners_of_comp (HostSide.comp_foldl _ _ _ fun k c => ?_)
  split
  · rfl
  · exact (HostSide.comp_foldl _ _ _ fun _ _ => HostSide.failXfer_comp ..).trans (HostSide.setCore_comp ..)

@[simp] theorem HostSide.portLeave_owners (h : HostSide) (p st : Nat) :
    (h.portLeave p st).comp.jobs.map Job.owner = h.comp.jobs.map Job.owner := by
  unfold HostSide.portLeave
  split <;> simp

@[simp] theorem HostSide.portDown_owners (h : HostSide) (e : Env) (p : Nat) :
    (h.portDown e p).comp.jobs.map Job.owner = h.comp.jobs.map Job.owner := by
  unfold HostSide.portDown
  simp

@[simp] theorem HostSide.laneLost_owners (h : HostSide) (e : Env) (p i : Nat) (down : Bool) :
    (h.laneLost e p i down).comp.jobs.map Job.owner = h.comp.jobs.map Job.owner := by
  unfold HostSide.laneLost
  extract_lets +onlyGivenNames x y g
  have hg : g.comp = h.comp := (HostSide.showLocks_comp ..).trans (HostSide.setPort_comp ..)
  clear_value g
  split
  · simp [hg]
  · split <;> simp [hg]
  · rw [hg]

@[simp] theorem HostSide.chainLost_owners (h : HostSide) (e : Env) (l : Nat) :
    (h.chainLost e l).comp.jobs.map Job.owner = h.comp.jobs.map Job.owner := by
  exact HostSide.laneLost_owners ..

@[simp] theorem HostSide.iflCtrl_owners (h : HostSide) (p : Nat) (v : Word) (en : Bool) :
    (h.iflCtrl p v en).comp.jobs.map Job.owner = h.comp.jobs.map Job.owner := by
  unfold HostSide.iflCtrl
  extract_lets +onlyGivenNames g₁ g₂
  have e₁ : g₁.comp = h.comp := rfl
  have e₂ : g₂.comp = h.comp := (HostSide.set_comp ..).trans e₁
  split
  · split
    · rw [e₂]
    · rw [HostSide.portLeave_owners, e₂]
  · split
    · rw [HostSide.set_comp, e₂]
    · rw [e₂]

@[simp] theorem HostSide.markerRx_owners (h : HostSide) (e : Env) (p i marker skew : Nat) :
    (h.markerRx e p i marker skew).comp.jobs.map Job.owner = h.comp.jobs.map Job.owner := by
  unfold HostSide.markerRx
  extract_lets +onlyGivenNames x
  split
  · dsimp only
    rw [HostSide.setPort_comp]
    split <;> simp
  · extract_lets +onlyGivenNames ps y seen z g₁ g₂
    have e₂ : g₂.comp = h.comp := by
      rw [HostSide.showLocks_comp, HostSide.setPort_comp, HostSide.set_comp, HostSide.set_comp, HostSide.set_comp]
    clear_value g₂
    split
    · simp [e₂]
    · split <;> simp [e₂]
    · split <;> simp [e₂]
    · rw [e₂]

@[simp] theorem HostSide.replayNow_owners (h : HostSide) (e : Env) (p : Nat) (nak : Bool) :
    (h.replayNow e p nak).comp.jobs.map Job.owner = h.comp.jobs.map Job.owner := by
  unfold HostSide.replayNow
  extract_lets +onlyGivenNames x
  split
  · rfl
  · split
    · simp
    · simp

@[simp] theorem HostSide.flitRx_owners (h : HostSide) (e : Env) (p f : Nat) :
    (h.flitRx e p f).comp.jobs.map Job.owner = h.comp.jobs.map Job.owner := by
  unfold HostSide.flitRx
  extract_lets +onlyGivenNames t
  split
  · simp
  · split
    · simp
    · extract_lets +onlyGivenNames g₁
      have e₁ : g₁.comp = h.comp := by rw [HostSide.takeAck_comp, HostSide.countG_comp]
      clear_value g₁
      split
      · split <;> simp [e₁]
      · extract_lets +onlyGivenNames src g₂
        have e₂ : g₂.comp = h.comp := (HostSide.setPort_comp ..).trans e₁
        clear_value g₂ t
        split
        · simp [e₂]
        · split <;> simp [e₂]
        · rw [e₂]

@[simp] theorem HostSide.fence_owners (h : HostSide) (e : Env) (site cause : Nat) :
    (h.fence e site cause).comp.jobs.map Job.owner = h.comp.jobs.map Job.owner := by
  unfold HostSide.fence
  split
  · rfl
  · extract_lets +onlyGivenNames k lc spare g₁ g₂ src₃ g₃ src₄ g₄ g₅ g₆ g₇ armed lost
    have e₁ : g₁.comp.jobs.map Job.owner = h.comp.jobs.map Job.owner := by
      rw [HostSide.clearSite_comp, HostSide.failJobOn_owners]
    clear_value g₁ lc
    have e₂ : g₂.comp = g₁.comp := by
      dsimp only [g₂]
      split <;> simp
    clear_value g₂
    have e₃ : g₃.comp = g₁.comp := by rw [HostSide.set_comp, HostSide.setCore_comp, e₂]
    clear_value g₃
    have e₄ : g₄.comp = g₁.comp := e₃
    clear_value g₄
    have e₇ : g₇.comp = g₁.comp := by
      rw [HostSide.set_comp, HostSide.log_comp, HostSide.setBits_comp, HostSide.inc_comp, HostSide.set_comp, HostSide.set_comp, e₄]
    clear_value g₇
    have hlost (g : HostSide) : (lost g).comp = g.comp := by
      dsimp only [lost]
      split <;> simp
    clear_value armed lost
    rw [← e₁, ← e₇]
    refine owners_of_comp ?_
    split
    · split
      · exact hlost _
      · exact HostSide.mapChange_comp ..
    · split
      · exact hlost _
      · split
        · simp
        · dsimp only
          split <;> simp

end Sys2Proof.Machine

/-! SUPPORT. The owners of the jobs, through the scheduler, the contexts, serving and the register writes (R362 to R377). -/

namespace Sys2Proof.Machine
open Sys2Proof

theorem HostSide.landControl_jobs (h : HostSide) (e : Env) (c site : Nat) (t : Xfer) (x : Control) (bad : List (Nat × List Byte))
    (r : HostSide × Bool) (hr : h.landControl e c site t x bad = some r) : r.1.comp.jobs = h.comp.jobs := by
  unfold HostSide.landControl at hr
  split at hr
  next got corrupt _ =>
  extract_lets +onlyGivenNames g₁ g₂ read fails at hr
  have e₁ : g₁.comp = h.comp := by
    dsimp only [g₁]
    split
    · split <;> simp
    · rfl
  clear_value g₁
  have e₂ : g₂.comp = h.comp := (HostSide.countC_comp ..).trans e₁
  clear_value g₂
  have eread : read.1.comp = h.comp := (HostSide.landPiece_comp ..).trans e₂
  clear_value read
  split at hr
  · split at hr
    · cases hr
      simp [e₂]
    · cases hr
  · split at hr
    · cases hr
      simp [e₂]
    · cases hr
  · split at hr
    · cases hr
      simp [e₂]
    · cases hr
  · cases hr
    simp [e₂]
  · split at hr
    · cases hr
      rw [eread]
    · split at hr
      · cases hr
        rw [e₂]
      · cases hr
        rw [HostSide.comp_forN _ _ _ fun _ _ => HostSide.writeCfg_comp .., e₂]
  · cases hr
    rw [eread]

/-! ### Jobs -/

/-- A change of one job that leaves its partition, its client and its cores. -/
theorem HostSide.modJob_owners (h : HostSide) (id : Nat) (f : Job → Job) (hf : ∀ j, (f j).owner = j.owner) :
    (h.modJob id f).comp.jobs.map Job.owner = h.comp.jobs.map Job.owner :=
  owners_map _ _ fun j => by
    split
    · exact hf j
    · rfl

@[simp] theorem HostSide.preemptJob_owners (h : HostSide) (e : Env) (j : Job) :
    (h.preemptJob e j).comp.jobs.map Job.owner = h.comp.jobs.map Job.owner := by
  unfold HostSide.preemptJob
  dsimp only
  rw [HostSide.modJob_owners, HostSide.traceJob_comp, HostSide.comp_foldl]
  · intro g c
    split <;> simp
  · exact fun _ => rfl

@[simp] theorem HostSide.grantJob_owners (h : HostSide) (e : Env) (j : Job) :
    (h.grantJob e j).comp.jobs.map Job.owner = h.comp.jobs.map Job.owner := by
  refine Eq.trans (HostSide.modJob_owners _ _ _ fun _ => rfl) (owners_of_comp ?_)
  refine (HostSide.traceJob_comp ..).trans (HostSide.comp_foldl _ _ _ fun g c => ?_)
  split <;> simp

@[simp] theorem HostSide.pass_owners (h : HostSide) (e : Env) (p : Nat) :
    (h.pass e p).comp.jobs.map Job.owner = h.comp.jobs.map Job.owner := by
  unfold HostSide.pass
  extract_lets +onlyGivenNames js waiting slice g ptr walk
  have eg : g.comp.jobs.map Job.owner = h.comp.jobs.map Job.owner := owners_foldl _ _ _ fun _ _ => HostSide.preemptJob_owners ..
  clear_value g
  rw [HostSide.showEntry_comp, HostSide.showPart_comp, owners_foldl_fst, eg]
  intro a j
  dsimp only
  split
  · exact HostSide.grantJob_owners ..
  · rfl

@[simp] theorem HostSide.setServing_jobs (h : HostSide) (p : Nat) (v : Serving) : (h.setServing p v).comp.jobs = h.comp.jobs := rfl

@[simp] theorem HostSide.endServing_jobs (h : HostSide) (p : Nat) : (h.endServing p).comp.jobs = h.comp.jobs := by
  unfold HostSide.endServing
  dsimp only
  rw [HostSide.showServing_comp, HostSide.setServing_jobs, HostSide.comp_foldl]
  exact fun _ _ => HostSide.respond_comp ..

@[simp] theorem HostSide.endJob_owners (h : HostSide) (e : Env) (j : Job) (status detail : Nat) :
    (h.endJob e j status detail).comp.jobs.map Job.owner = h.comp.jobs.map Job.owner := by
  unfold HostSide.endJob
  extract_lets +onlyGivenNames serve g₁ g₂ g₃ src g₄ g₅ g₆
  have e₂ : g₂.comp = h.comp := by
    refine (HostSide.comp_foldl _ _ _ fun g c => ?_).trans (HostSide.stopJob_comp ..)
    split
    · split <;> simp
    · rfl
  clear_value g₁ g₂
  have e₃ : g₃.comp.jobs.map Job.owner = h.comp.jobs.map Job.owner := by
    rw [HostSide.modJob_owners, HostSide.traceJob_comp, e₂]
    exact fun _ => rfl
  clear_value g₃
  have e₄ : g₄.comp.jobs.map Job.owner = h.comp.jobs.map Job.owner := e₃
  clear_value g₄
  have e₅ : g₅.comp.jobs.map Job.owner = h.comp.jobs.map Job.owner := by
    dsimp only [g₅]
    rw [HostSide.creditsBack_comp]
    split <;> simp [e₄]
  clear_value g₅
  have e₆ : g₆.comp.jobs.map Job.owner = h.comp.jobs.map Job.owner := by
    rw [HostSide.showJob_comp, HostSide.finish_comp, e₅]
  clear_value g₆
  split
  · exact e₆
  · rw [HostSide.pass_owners, e₆]

@[simp] theorem HostSide.replayPasses_owners (h : HostSide) (e : Env) :
    (h.replayPasses e).comp.jobs.map Job.owner = h.comp.jobs.map Job.owner := by
  unfold HostSide.replayPasses
  extract_lets +onlyGivenNames held later src g
  have eg : g.comp.jobs.map Job.owner = h.comp.jobs.map Job.owner := owners_map _ _ fun _ => rfl
  clear_value g
  exact (owners_foldl _ _ _ fun _ _ => HostSide.pass_owners ..).trans eg

@[simp] theorem HostSide.cancelJob_owners (h : HostSide) (e : Env) (j : Job) :
    (h.cancelJob e j).comp.jobs.map Job.owner = h.comp.jobs.map Job.owner := by
  unfold HostSide.cancelJob
  split
  · simp
  · extract_lets +onlyGivenNames g₁ src g₂
    have e₁ : g₁.comp = h.comp := HostSide.stopJob_comp ..
    clear_value g₁
    have e₂ : g₂.comp.jobs = h.comp.jobs := (congrArg Compute.jobs e₁ : g₁.comp.jobs = h.comp.jobs)
    clear_value g₂
    rw [HostSide.showEntry_comp, HostSide.creditsBack_comp, HostSide.modJob_owners, e₂]
    exact fun _ => rfl

@[simp] theorem HostSide.addSavedToken_jobs (h : HostSide) (job c t : Nat) : (h.addSavedToken job c t).comp.jobs = h.comp.jobs := rfl

theorem jobs_foldl {α : Type} (l : List α) (f : HostSide → α → HostSide) (h : HostSide)
    (hf : ∀ g x, (f g x).comp.jobs = g.comp.jobs) : (l.foldl f h).comp.jobs = h.comp.jobs :=
  foldl_keeps (fun g : HostSide => g.comp.jobs = h.comp.jobs) l f h rfl fun g x hg => (hf g x).trans hg

theorem jobs_forN (n : Nat) (f : Nat → HostSide → HostSide) (h : HostSide) (hf : ∀ i g, (f i g).comp.jobs = g.comp.jobs) :
    (forN n f h).comp.jobs = h.comp.jobs :=
  forN_keeps (fun g : HostSide => g.comp.jobs = h.comp.jobs) n f h rfl fun i g hg => (hf i g).trans hg

@[simp] theorem HostSide.jobToken_jobs (h : HostSide) (j : Job) (t : Nat) : (h.jobToken j t).comp.jobs = h.comp.jobs := by
  refine jobs_foldl _ _ _ fun g c => ?_
  split <;> simp

@[simp] theorem HostSide.drainOne_jobs (h : HostSide) (e : Env) (o : Oxbow) : (h.drainOne e o).1.comp.jobs = h.comp.jobs := by
  unfold HostSide.drainOne
  split
  · rfl
  · extract_lets +onlyGivenNames site
    split
    next st bad _ =>
    dsimp only
    rw [HostSide.comp_foldl]
    exact fun _ _ => HostSide.csumFail_comp ..

@[simp] theorem HostSide.drainAll_jobs (h : HostSide) (e : Env) (job k : Nat) : (h.drainAll e job k).comp.jobs = h.comp.jobs := by
  unfold HostSide.drainAll
  split
  · rfl
  · split
    next g os hk =>
    refine (congrArg (fun r : HostSide × List Oxbow => r.1.comp.jobs) hk).symm.trans ?_
    refine foldl_keeps (fun b : HostSide × List Oxbow => b.1.comp.jobs = h.comp.jobs) _ _ (h, []) rfl fun b x hb => ?_
    split
    · exact (HostSide.drainOne_jobs ..).trans hb
    · exact hb

@[simp] theorem HostSide.settleOxbow_jobs (h : HostSide) (job k : Nat) : (h.settleOxbow job k).comp.jobs = h.comp.jobs := by
  unfold HostSide.settleOxbow
  split
  · rfl
  · refine jobs_foldl _ _ _ fun g o => ?_
    split
    · split <;> simp
    · rfl

@[simp] theorem HostSide.restoreClu_jobs (h : HostSide) (j : Job) (k : Nat) : (h.restoreClu j k).comp.jobs = h.comp.jobs := by
  unfold HostSide.restoreClu
  split
  · extract_lets +onlyGivenNames g src
    have es : src.comp = h.comp := by
      rw [HostSide.setLs_comp, HostSide.comp_foldl]
      exact fun _ _ => HostSide.freshCore_comp ..
    clear_value src
    exact congrArg Compute.jobs es
  · extract_lets +onlyGivenNames g₁ chans src g₂ mine g₃
    have es : src.comp = h.comp := by
      rw [HostSide.setLs_comp, HostSide.comp_foldl]
      exact fun _ _ => HostSide.restoreCore_comp ..
    clear_value g₁ chans src
    have e₂ : g₂.comp = h.comp := es
    clear_value g₂ mine
    have e₃ : g₃.comp = h.comp := by
      refine (HostSide.comp_foldl _ _ _ fun g o => ?_).trans e₂
      split <;> simp
    show g₃.comp.jobs = h.comp.jobs
    rw [e₃]

@[simp] theorem HostSide.assign_jobs (h : HostSide) (part clusters us : Nat) : (h.assign part clusters us).comp.jobs = h.comp.jobs := by
  unfold HostSide.assign
  extract_lets +onlyGivenNames leave kept new src g₁ g₂ g₃ g₄
  have e₁ : g₁.comp.jobs = h.comp.jobs := rfl
  clear_value g₁
  have e₂ : g₂.comp = g₁.comp := HostSide.comp_ite_of rfl (HostSide.set_comp ..)
  clear_value g₂
  have e₄ : g₄.comp = g₁.comp := by
    rw [HostSide.comp_foldl _ _ _ fun _ _ => HostSide.renumber_comp .., HostSide.nextCseq_comp, e₂]
  clear_value g₄
  rw [HostSide.comp_foldl _ _ _ fun _ _ => HostSide.showPart_comp .., e₄, e₁]

@[simp] theorem HostSide.applyCommit_jobs (h : HostSide) (e : Env) (c : Commit) : (h.applyCommit e c).comp.jobs = h.comp.jobs := by
  unfold HostSide.applyCommit
  split
  · split
    · simp
    · split <;> simp
  · split <;> simp
  · split <;> simp
  · simp
  · dsimp only
    split <;> simp

@[simp] theorem HostSide.resetStarted_owners (h : HostSide) (e : Env) (q : Nat) (d : Started) :
    (h.resetStarted e q d).comp.jobs.map Job.owner = h.comp.jobs.map Job.owner := by
  unfold HostSide.resetStarted
  split
  · rfl
  · split
    · simp
    · split
      · split <;> simp
      · split
        · simp
        · split
          · rw [HostSide.finish_comp, HostSide.comp_forN]
            exact fun _ _ => HostSide.setEth_comp ..
          · rfl

/-- A completed job leaves the table. -/
theorem HostSide.retire_jobs (h : HostSide) (q : Nat) (d : Started) : (h.retire q d).comp.jobs.Sublist h.comp.jobs := by
  unfold HostSide.retire
  extract_lets +onlyGivenNames g
  have eg : g.comp = h.comp := HostSide.setStarted_comp ..
  clear_value g
  rw [← eg]
  split
  · rw [HostSide.showJob_comp]
    exact List.filter_sublist
  · exact List.Sublist.refl _

/-! ### Serving -/

@[simp] theorem HostSide.harvest_jobs (h : HostSide) (p : Nat) : (h.harvest p).comp.jobs = h.comp.jobs := by
  unfold HostSide.harvest
  extract_lets +onlyGivenNames v tab one
  refine jobs_foldl _ _ _ fun g x => ?_
  obtain ⟨j, slot⟩ := x
  dsimp -zeta only [one]
  extract_lets +onlyGivenNames a m tok fl v₁
  split
  · rfl
  · rw [HostSide.setServing_jobs]
    split <;> simp

@[simp] theorem HostSide.serveLeave_jobs (h : HostSide) (p : Nat) : (h.serveLeave p).comp.jobs = h.comp.jobs := by
  unfold HostSide.serveLeave
  dsimp only
  rw [HostSide.comp_foldl _ _ _ fun _ _ => HostSide.respond_comp .., HostSide.setServing_jobs]

@[simp] theorem HostSide.serveOne_jobs (h : HostSide) (p n : Nat) : (h.serveOne p n).comp.jobs = h.comp.jobs := by
  unfold HostSide.serveOne
  extract_lets +onlyGivenNames req q b0 v
  clear_value q b0 v
  split
  · rfl
  · split
    · extract_lets +onlyGivenNames r
      clear_value r
      split <;> simp
    · split <;> simp
    · rfl

@[simp] theorem HostSide.serveRead_jobs (h : HostSide) (p : Nat) : (h.serveRead p).comp.jobs = h.comp.jobs := by
  unfold HostSide.serveRead
  extract_lets +onlyGivenNames base head tail n g new
  clear_value base head tail n new
  have eg : g.comp.jobs = h.comp.jobs := jobs_forN _ _ _ fun i k => HostSide.serveOne_jobs k p _
  clear_value g
  rw [HostSide.hostWrite_comp, HostSide.setServing_jobs, eg]

@[simp] theorem HostSide.serveAdmit_jobs (h : HostSide) (p n : Nat) : (h.serveAdmit p n).comp.jobs = h.comp.jobs := by
  induction n generalizing h with
  | zero => rfl
  | succ n ih =>
    unfold HostSide.serveAdmit
    dsimp only
    split
    · rfl
    · split
      · split
        · rfl
        · simp [ih]
      · rfl

@[simp] theorem HostSide.serveStart_jobs (h : HostSide) (e : Env) (p : Nat) (j : Job) : (h.serveStart e p j).comp.jobs = h.comp.jobs := by
  unfold HostSide.serveStart
  extract_lets +onlyGivenNames es v tab total hdr put g₁ g₂ act g₃
  have hput (g : HostSide) (off : Nat) (bs : List Byte) : (put g off bs).comp = g.comp := by
    refine (HostSide.countMem_comp ..).trans (HostSide.comp_foldl _ _ _ fun _ _ => HostSide.landPiece_comp ..)
  clear_value put
  have e₁ : g₁.comp = h.comp := hput _ _ _
  clear_value g₁
  have e₂ : g₂.comp = h.comp := (HostSide.comp_foldl _ _ _ fun _ _ => hput _ _ _).trans e₁
  clear_value g₂
  simp [g₃, e₂]

@[simp] theorem HostSide.boundary_jobs (h : HostSide) (e : Env) (p : Nat) (j : Job) : (h.boundary e p j).comp.jobs = h.comp.jobs := by
  unfold HostSide.boundary
  extract_lets +onlyGivenNames v g₁ src g₂ g₃ g₄ v₄
  have e₁ : g₁.comp.jobs = h.comp.jobs := by
    dsimp only [g₁]
    split <;> simp
  clear_value g₁
  have e₄ : g₄.comp.jobs = h.comp.jobs := by simp [g₄, g₃, g₂, e₁]
  clear_value g₄
  split <;> simp [e₄]

/-! ### Register writes -/

@[simp] theorem HostSide.laneW_owners (h : HostSide) (e : Env) (a : Nat) (v : Word) :
    (h.laneW e a v).comp.jobs.map Job.owner = h.comp.jobs.map Job.owner := by
  change h.SameOwners (h.laneW e a v)
  unfold HostSide.laneW
  extract_lets +onlyGivenNames l
  clear_value l
  generalize (a - 0x40000) % 0x100 = o
  split
  · extract_lets was g
    have eg : h.SameOwners g := .of_comp ((HostSide.lanePower_comp ..).trans ((HostSide.set_comp ..).trans (HostSide.accW_comp ..)))
    clear_value g
    exact .of_ite (eg.trans (HostSide.chainLost_owners ..)) eg
  · exact .of_comp ((HostSide.laneEqWritten_comp ..).trans (HostSide.accW_comp ..))
  · exact .of_comp ((HostSide.lanePrbsWritten_comp ..).trans (HostSide.accW_comp ..))
  · exact .of_comp (HostSide.accW_comp ..)

@[simp] theorem HostSide.regWrite_owners (h : HostSide) (e : Env) (a : Nat) (v : Word) :
    (h.regWrite e a v).comp.jobs.map Job.owner = h.comp.jobs.map Job.owner := by
  change h.SameOwners (h.regWrite e a v)
  unfold HostSide.regWrite
  refine .of_ite rfl ?_
  cases hg : h.sleepWrite a v with
  | some g => exact .of_comp (HostSide.sleepWrite_comp h g a v hg)
  | none =>
    dsimp only
    refine .of_ite (.of_comp (HostSide.devW_comp ..)) ?_
    refine .of_ite (.of_comp (HostSide.hifW_comp ..)) ?_
    refine .of_ite (.of_comp (HostSide.pmW_comp ..)) ?_
    refine .of_ite (.of_comp (HostSide.clkW_comp ..)) ?_
    refine .of_ite (HostSide.laneW_owners ..) ?_
    refine .of_ite (.of_comp (HostSide.cxpW_comp ..)) ?_
    refine .of_ite (.of_ite (HostSide.iflCtrl_owners ..) (.of_comp (HostSide.accW_comp ..))) ?_
    refine .of_ite (.of_comp (HostSide.pipeW_comp ..)) ?_
    refine .of_ite (.of_comp (HostSide.ctxW_comp ..)) ?_
    refine .of_ite (.of_comp (HostSide.timeW_comp ..)) ?_
    refine .of_ite (.of_comp (HostSide.ethW_comp ..)) ?_
    refine .of_ite (.of_comp (HostSide.fldW_comp ..)) ?_
    refine .of_ite (.of_comp (HostSide.slotW_comp ..)) ?_
    refine .of_ite (.of_comp (HostSide.cluW_comp ..)) ?_
    refine .of_ite (.of_comp (HostSide.coreW_comp ..)) ?_
    refine .of_ite (.of_comp (HostSide.gaugeW_comp ..)) ?_
    refine .of_ite (.of_comp (HostSide.hdwW_comp ..)) ?_
    refine .of_ite (.of_ite (.of_comp (HostSide.set_comp ..)) rfl) ?_
    exact .of_comp (HostSide.accW_comp ..)

end Sys2Proof.Machine

/-! SUPPORT. Commands after which every job of the table is legal when every job was before. -/

namespace Sys2Proof.Machine
open Sys2Proof

/-- Partition, client and cores of every job are legal (R20, R326, R358). -/
def HostSide.jobsLegal (h : HostSide) : Prop :=
  ∀ o ∈ h.comp.jobs.map Job.owner, 1 ≤ o.1 ∧ o.1 ≤ 8 ∧ o.2.1 < 256 ∧ ∀ c ∈ o.2.2, c < 64

theorem State.jobsOk_iff (s : State) : s.jobsOk ↔ s.host.jobsLegal := by
  unfold HostSide.jobsLegal
  rw [List.forall_mem_map]
  exact Iff.rfl

namespace HostSide.jobsLegal

variable {h g : HostSide}

theorem same (hj : h.jobsLegal) (e : h.SameOwners g) : g.jobsLegal := by
  unfold HostSide.jobsLegal
  rw [e]
  exact hj

theorem sublist (hj : h.jobsLegal) (e : g.comp.jobs.Sublist h.comp.jobs) : g.jobsLegal :=
  fun o ho => hj o ((e.map Job.owner).subset ho)

theorem of_nil (e : g.comp.jobs = []) : g.jobsLegal := by
  unfold HostSide.jobsLegal
  rw [e]
  exact fun _ ho => absurd ho List.not_mem_nil

theorem settle (hj : h.jobsLegal) : h.settle.jobsLegal := hj.same (.of_comp (HostSide.settle_comp h))

end HostSide.jobsLegal

/-- A command after which every job is legal when every job was before. -/
def KeepsJobs (f : State → Host.Outcome State Fault Refusal) : Prop := ∀ s t, f s = .next t → s.host.jobsLegal → t.host.jobsLegal

namespace KeepsJobs

variable {f : Env → HostSide → HostSide}

theorem onHost (hf : ∀ e h, h.jobsLegal → (f e h).jobsLegal) : KeepsJobs fun s => s.onHost f := by
  intro s t ht hj
  obtain rfl := Host.Outcome.next.inj ht
  split
  · exact hj
  · exact (hf _ _ hj).settle

theorem onField (f : Env → FieldDie → FieldDie) : KeepsJobs fun s => s.onField f := by
  intro s t ht hj
  obtain rfl := Host.Outcome.next.inj ht
  exact hj

/-- A command of the host side that reads the rest of the machine too. -/
theorem onHostAt {f : State → Env → HostSide → HostSide} (hf : ∀ s e (h : HostSide), h.SameOwners (f s e h)) :
    KeepsJobs fun s => s.onHost (f s) :=
  fun s t ht hj => onHost (f := f s) (fun e h hh => hh.same (hf s e h)) s t ht hj

theorem onData (hf : ∀ e h, h.jobsLegal → (f e h).jobsLegal) : KeepsJobs fun s => s.onData f :=
  onHost fun e h hj => by
    split
    · exact hj
    · exact hf e h hj

theorem onBar (hf : ∀ e h, h.jobsLegal → (f e h).jobsLegal) : KeepsJobs fun s => s.onBar f :=
  onHost fun e h hj => by
    split
    · exact hf e h hj
    · exact hj

theorem onHostSame (hf : ∀ e (h : HostSide), h.SameOwners (f e h)) : KeepsJobs fun s => s.onHost f :=
  onHost fun e h hj => hj.same (hf e h)

theorem onDataSame (hf : ∀ e (h : HostSide), h.SameOwners (f e h)) : KeepsJobs fun s => s.onData f :=
  onData fun e h hj => hj.same (hf e h)

theorem onBarSame (hf : ∀ e (h : HostSide), h.SameOwners (f e h)) : KeepsJobs fun s => s.onBar f :=
  onBar fun e h hj => hj.same (hf e h)

theorem onHostComp (hf : ∀ e h, (f e h).comp = h.comp) : KeepsJobs fun s => s.onHost f := onHostSame fun e h => .of_comp (hf e h)
theorem onDataComp (hf : ∀ e h, (f e h).comp = h.comp) : KeepsJobs fun s => s.onData f := onDataSame fun e h => .of_comp (hf e h)
theorem onBarComp (hf : ∀ e h, (f e h).comp = h.comp) : KeepsJobs fun s => s.onBar f := onBarSame fun e h => .of_comp (hf e h)

end KeepsJobs
end Sys2Proof.Machine

/-! SUPPORT. The commands of the host side, one by one: what each leaves of the jobs. -/

namespace Sys2Proof.Machine
open Sys2Proof

/-! ### List memories and fetching (R122, R523) -/

theorem execNop_keepsJobs (c : Nat) : KeepsJobs (execNop c) :=
  .onDataComp fun e h => by simp

theorem execMma_keepsJobs (c : Nat) (ecc : Ecc) : KeepsJobs (execMma c ecc) :=
  .onDataComp fun e h => by simp

theorem execDrain_keepsJobs (c : Nat) (ecc : Ecc) : KeepsJobs (execDrain c ecc) :=
  .onDataComp fun e h => by simp

theorem execVop_keepsJobs (c : Nat) (ecc : Ecc) : KeepsJobs (execVop c ecc) :=
  .onDataComp fun e h => by simp

theorem execVlut_keepsJobs (c : Nat) (ecc : Ecc) : KeepsJobs (execVlut c ecc) :=
  .onDataComp fun e h => by simp

theorem execVsort_keepsJobs (c : Nat) (ecc : Ecc) : KeepsJobs (execVsort c ecc) :=
  .onDataComp fun e h => by simp

theorem execWindow_keepsJobs (c : Nat) (ecc : Ecc) : KeepsJobs (execWindow c ecc) :=
  .onDataComp fun e h => by
    split
    · rfl
    · extract_lets +onlyGivenNames at_ mine g
      have eg : g.comp = h.comp := HostSide.eccUse_comp ..
      clear_value g at_ mine
      rw [← eg]
      refine HostSide.issue_comp _ _ _ _ _ _ _ fun k site w timed => ?_
      change k.SameComp _
      split
      next t _ =>
        have e₁ : k.SameComp (k.csumFail e 0 site (t * 2048)) := HostSide.csumFail_comp ..
        exact .of_ite (e₁.trans (HostSide.timedMiss_comp ..)) (e₁.trans (HostSide.coreError_comp ..))
      · dsimp only
        exact .of_ite ((HostSide.countC_comp ..).trans (HostSide.startUnit_comp ..)) (HostSide.startUnit_comp ..)

/-! ### Tokens, waits and calls (R120 to R122) -/

theorem execWait_keepsJobs (c : Nat) : KeepsJobs (execWait c) :=
  .onDataComp fun e h => by simp

theorem execWaitSatisfied_keepsJobs (c : Nat) : KeepsJobs (execWaitSatisfied c) :=
  .onDataComp fun e h => by
    change h.SameComp _
    split
    · rfl
    · split
      · refine .of_ite ?_ rfl
        dsimp only
        refine .trans ?_ ((HostSide.reachTile_comp ..).trans ((HostSide.fly_comp ..).trans (HostSide.set_comp ..)))
        exact (HostSide.setCore_comp ..).trans (HostSide.traceCore_comp ..)
      · rfl

theorem execTset_keepsJobs (c : Nat) : KeepsJobs (execTset c) :=
  .onDataComp fun e h => by simp

theorem execCall_keepsJobs (c : Nat) (ecc : Ecc) : KeepsJobs (execCall c ecc) :=
  .onDataComp fun e h => by
    refine HostSide.issue_comp _ _ _ _ _ _ _ fun k site w timed => ?_
    dsimp only
    split
    next g hk =>
      have eg : g.comp = k.comp := (congrArg (fun r => r.1.comp) hk).symm.trans (by simp)
      simp [eg]
    next g hk =>
      have eg : g.comp = k.comp := (congrArg (fun r => r.1.comp) hk).symm.trans (by simp)
      simp [eg]
    next g cause _ hk =>
      have eg : g.comp = k.comp := (congrArg (fun r => r.1.comp) hk).symm.trans (by simp)
      split <;> simp [eg]

theorem execEndList_keepsJobs (c : Nat) : KeepsJobs (execEndList c) :=
  .onDataSame fun e h => by
    split
    · rfl
    next site _ =>
      extract_lets +onlyGivenNames x may
      clear_value may
      split
      · refine .of_ite (.of_ite (HostSide.endList_owners ..) rfl) ?_
        exact HostSide.issue_keeps (fun k => k.jobs.map Job.owner) _ _ _ _ _ _ _ fun g site w _ => by
          refine (HostSide.endList_owners ..).trans (owners_of_comp ?_)
          split <;> simp
      · rfl

theorem execYieldPoint_keepsJobs (c cycles : Nat) : KeepsJobs (execYieldPoint c cycles) :=
  .onDataComp fun e h => by
    refine HostSide.issue_comp _ _ _ _ _ _ _ fun k site w timed => ?_
    extract_lets +onlyGivenNames g₁
    have e₁ : g₁.comp = k.comp := HostSide.countC_comp ..
    clear_value g₁
    split
    · simp [e₁]
    · extract_lets +onlyGivenNames g₂ g₃ src g₄
      have e₂ : g₂.comp = k.comp := HostSide.comp_ite_of ((HostSide.set_comp ..).trans e₁) e₁
      clear_value g₂
      have e₃ : g₃.comp = k.comp := HostSide.comp_ite_of ((HostSide.set_comp ..).trans e₂) e₂
      clear_value g₃
      have e₄ : g₄.comp = k.comp := (HostSide.setCore_comp ..).trans e₃
      clear_value g₄
      split
      · rw [HostSide.set_comp]
        split <;> simp [e₄]
      · simp [e₄]

theorem execListTileFetch_keepsJobs (c : Nat) (ecc : Ecc) : KeepsJobs (execListTileFetch c ecc) :=
  .onDataComp fun e h => by
    simp
    (repeat' split) <;> simp

theorem execCommandComplete_keepsJobs (c : Nat) (units : List Nat) (ecc : Ecc) : KeepsJobs (execCommandComplete c units ecc) :=
  .onDataComp fun e h => by
    split <;> simp

theorem execCoreClearErr_keepsJobs (site : Nat) : KeepsJobs (execCoreClearErr site) :=
  .onBarComp fun e h => by
    split
    · rfl
    · split
      next g hg => exact HostSide.sleepWrite_comp _ _ _ _ hg
      · simp

/-! ### Transfers (R123, R164, R173, R405) -/

theorem execLoad_keepsJobs (c : Nat) : KeepsJobs (execLoad c) :=
  .onDataComp fun e h => by simp

theorem execStore_keepsJobs (c : Nat) (ecc : Ecc) : KeepsJobs (execStore c ecc) :=
  .onDataComp fun e h => by simp

theorem execResultRecordPublish_keepsJobs (n : Nat) : KeepsJobs (execResultRecordPublish n) :=
  .onHostComp fun e h => by
    simp
    (repeat' split) <;> simp

/-! ### Uses and arrivals (R179 to R182) -/

theorem execTransferComplete_keepsJobs (c space : Nat) (bad : List (Nat × List Byte)) (down : Bool) (data : List Byte)
    (ecc merge : Ecc) : KeepsJobs (execTransferComplete c space bad down data ecc merge) :=
  .onDataSame fun e h => by
    split
    · rfl
    · extract_lets +onlyGivenNames sel
      clear_value sel
      split
      · rfl
      next site _ _ t _ =>
        extract_lets +onlyGivenNames lost
        clear_value lost
        refine .of_ite rfl ?_
        extract_lets +onlyGivenNames out
        have hout (g : HostSide) : (out g).comp = g.comp := HostSide.setCore_comp ..
        clear_value out
        generalize controlOf t.far = k
        split
        · split
          next g fails hk =>
            have eg : h.SameOwners g := by
              have := HostSide.landControl_jobs _ _ _ _ _ _ _ _ hk
              unfold HostSide.SameOwners
              rw [this]
              split <;> simp
            refine eg.trans (.of_ite (.of_comp ?_) (.of_comp ?_))
            · simp [hout]
            · simp [hout]
          · rfl
        · refine .of_ite (.of_comp (hout h)) (.of_ite (.of_comp (by simp [hout])) ?_)
          extract_lets +onlyGivenNames sink
          clear_value sink
          split
          next g fails hk =>
            have eg : g.comp = h.comp := (congrArg (fun r => r.1.comp) hk).symm.trans (by simp)
            exact .of_ite (.of_comp (by simp [hout, eg])) (.of_comp (by simp [hout, eg]))

/-! ### Stripe channels (R157 to R163) -/

theorem execStripePost_keepsJobs (k h : Nat) : KeepsJobs (execStripePost k h) :=
  .onDataComp fun e h => by
    simp
    (repeat' split) <;> simp

theorem execStripeRelease_keepsJobs (k h j : Nat) : KeepsJobs (execStripeRelease k h j) :=
  .onDataComp fun e h => by
    (repeat' split) <;> simp

theorem execRdyTokSignal_keepsJobs (k h : Nat) : KeepsJobs (execRdyTokSignal k h) :=
  .onDataComp fun e h => by simp

theorem execFreeTokSignal_keepsJobs (k h : Nat) : KeepsJobs (execFreeTokSignal k h) :=
  .onDataComp fun e h => by simp

theorem execLscEnable_keepsJobs (k h : Nat) (v : Word) : KeepsJobs (execLscEnable k h v) :=
  .onBarComp fun e g => by
    split
    · rfl
    · split
      next g' hg => exact HostSide.sleepWrite_comp _ _ _ _ hg
      · simp

theorem execLscDisable_keepsJobs (k h : Nat) (v : Word) : KeepsJobs (execLscDisable k h v) :=
  .onBarComp fun e g => by
    split
    · rfl
    · split
      next g' hg => exact HostSide.sleepWrite_comp _ _ _ _ hg
      · simp

/-! ### Remote accesses (R176) -/

theorem execRemoteAccessRx_keepsJobs (port : Nat) (write : Bool) (far len rif : Nat) (data : List Byte) (bad : List (Nat × List Byte))
    (ecc : Ecc) : KeepsJobs (execRemoteAccessRx port write far len rif data bad ecc) :=
  .onDataComp fun e h => by simp

/-! ### Table copies -/

theorem execSluCommit_keepsJobs (n cycle : Nat) : KeepsJobs (execSluCommit n cycle) :=
  .onBarComp fun e h => by simp

theorem execMemSluCommit_keepsJobs (tables : Word) (cycle : Nat) : KeepsJobs (execMemSluCommit tables cycle) :=
  .onBarComp fun e h => by simp

theorem execSluAbort_keepsJobs (n : Nat) : KeepsJobs (execSluAbort n) :=
  .onBarComp fun e h => by simp

/-! ### Slots (R190, R191) -/

theorem execSluiceSlot_keepsJobs (n i ready ce : Nat) (ue : List Nat) : KeepsJobs (execSluiceSlot n i ready ce ue) :=
  .onHostComp fun e h => by
    simp
    (repeat' split) <;> simp

/-! ### Open-slot arbiters (R197 to R200) -/

theorem execOpenSlotArbitrate_keepsJobs (n requests : Nat) (withdrawn : Bool) : KeepsJobs (execOpenSlotArbitrate n requests withdrawn) :=
  .onDataComp fun e h => by
    simp
    (repeat' split) <;> simp

theorem execEmergencyRequest_keepsJobs (n : Nat) (stale : Bool) : KeepsJobs (execEmergencyRequest n stale) :=
  .onHostComp fun e h => by
    simp
    (repeat' split) <;> simp

/-! ### HBM start-up (R201) -/

theorem execHbmInitDone_keepsJobs : KeepsJobs execHbmInitDone :=
  .onHostComp fun e h => by simp

theorem execStackTrainingFail_keepsJobs (stack : Nat) : KeepsJobs (execStackTrainingFail stack) :=
  .onHostComp fun e h => by simp

/-! ### Digests (R220 to R222) -/

theorem execLineDigestDone_keepsJobs (ctx : Nat) : KeepsJobs (execLineDigestDone ctx) :=
  .onHostComp fun e h => by simp

/-! ### Release (R28 to R30, R222, R223, R340) -/

theorem execVerdictRelease_keepsJobs (seq : Nat) : KeepsJobs (execVerdictRelease seq) :=
  .onDataComp fun e h => by
    (repeat' split) <;> simp

theorem execUndecidedRelease_keepsJobs (seq : Nat) : KeepsJobs (execUndecidedRelease seq) :=
  .onDataComp fun e h => by
    split <;> simp

/-! ### VERDICT (R121, R340) -/

theorem execVerdict_keepsJobs (c : Nat) (ecc : Ecc) : KeepsJobs (execVerdict c ecc) :=
  .onDataComp fun e h => by
    refine HostSide.issue_comp _ _ _ _ _ _ _ fun k site w _ => ?_
    extract_lets +onlyGivenNames g₁ x off fail g₂ cause g₃
    have e₁ : g₁.comp = k.comp := (HostSide.fly_comp ..).trans (HostSide.eccUse_comp ..)
    clear_value g₁ fail
    have e₂ : g₂.comp = k.comp := by
      dsimp only [g₂]
      split <;> simp [e₁]
    clear_value g₂
    have e₃ : g₃.comp = k.comp := (HostSide.setCore_comp ..).trans e₂
    clear_value g₃
    split <;> simp [e₃]

/-! ### Fences (R211 to R216) -/

theorem execCoreFence_keepsJobs (site cause : Nat) : KeepsJobs (execCoreFence site cause) :=
  .onHostSame fun e h => by
    unfold HostSide.SameOwners
    split <;> simp

theorem execDetFenceGo_keepsJobs (site : Nat) : KeepsJobs (execDetFenceGo site) :=
  .onBarSame fun e h => by
    unfold HostSide.SameOwners
    dsimp only
    (repeat' split) <;> simp

theorem execCorePollTimeout_keepsJobs (site : Nat) : KeepsJobs (execCorePollTimeout site) :=
  .onHostSame fun e h => by
    unfold HostSide.SameOwners
    simp

theorem execSpareSelfTest_keepsJobs (k : Nat) (pass : Bool) : KeepsJobs (execSpareSelfTest k pass) :=
  .onHostSame fun e h => by
    unfold HostSide.SameOwners
    (repeat' split) <;> simp

/-! ### Halt and restart (R213 to R215, R450) -/

theorem execRecipeHalt_keepsJobs : KeepsJobs execRecipeHalt :=
  .onDataComp fun e h => by
    (repeat' split) <;> simp

theorem execSpareRestart_keepsJobs (k : Nat) : KeepsJobs (execSpareRestart k) :=
  .onDataComp fun e h => by
    split <;> simp

/-! ### Lanes (R36 to R47) -/

theorem execLaneInjTx_keepsJobs (l : Nat) : KeepsJobs (execLaneInjTx l) :=
  .onBarComp fun e h => by simp

theorem execLaneInjRx_keepsJobs (l : Nat) : KeepsJobs (execLaneInjRx l) :=
  .onBarComp fun e h => by simp

theorem execLanePeriodicInject_keepsJobs (l : Nat) : KeepsJobs (execLanePeriodicInject l) :=
  .onHostComp fun e h => by simp

theorem execLaneCntClr_keepsJobs (l : Nat) : KeepsJobs (execLaneCntClr l) :=
  .onBarComp fun e h => by simp

theorem execEqClamp_keepsJobs (l peak : Nat) : KeepsJobs (execEqClamp l peak) :=
  .onHostComp fun e h => by simp

theorem execPrbsLock_keepsJobs (l bitsN : Nat) (wire : List Bool) : KeepsJobs (execPrbsLock l bitsN wire) :=
  .onHostComp fun e h => by simp

theorem execPrbsUnlock_keepsJobs (l bitsN errs : Nat) (wire : List Bool) : KeepsJobs (execPrbsUnlock l bitsN errs wire) :=
  .onHostComp fun e h => by simp

/-! ### Camera links: lanes and states (R49 to R51) -/

theorem execCxpLinkEnable_keepsJobs (n : Nat) (v : Word) : KeepsJobs (execCxpLinkEnable n v) :=
  .onBarComp fun e h => by simp

theorem execCxpLinkDisable_keepsJobs (n : Nat) (v : Word) : KeepsJobs (execCxpLinkDisable n v) :=
  .onBarComp fun e h => by simp

theorem execCxpMasterLock_keepsJobs (n : Nat) : KeepsJobs (execCxpMasterLock n) :=
  .onHostComp fun e h => by simp

theorem execCxpDiscTimeout_keepsJobs (n : Nat) : KeepsJobs (execCxpDiscTimeout n) :=
  .onHostComp fun e h => by simp

theorem execCxpBootstrapReadDone_keepsJobs (n : Nat) (ok last : Bool) (conn speed : Nat) (hs : Bool) :
    KeepsJobs (execCxpBootstrapReadDone n ok last conn speed hs) :=
  .onHostComp fun e h => by simp

theorem execCxpConfigAck_keepsJobs (n : Nat) : KeepsJobs (execCxpConfigAck n) :=
  .onHostComp fun e h => by simp

theorem execCxpSwitchLocked_keepsJobs (n : Nat) : KeepsJobs (execCxpSwitchLocked n) :=
  .onHostComp fun e h => by simp

theorem execCxpSwitchTimeout_keepsJobs (n : Nat) : KeepsJobs (execCxpSwitchTimeout n) :=
  .onHostComp fun e h => by simp

theorem execCxpLockLoss_keepsJobs (n : Nat) : KeepsJobs (execCxpLockLoss n) :=
  .onHostComp fun e h => by simp

theorem execCxpPowerFault_keepsJobs (n : Nat) : KeepsJobs (execCxpPowerFault n) :=
  .onHostComp fun e h => by simp

theorem execCxpRestart_keepsJobs (n : Nat) : KeepsJobs (execCxpRestart n) :=
  .onBarComp fun e h => by simp

/-! ### Control channel (R53, R63, R64) -/

theorem execCxpCcGo_keepsJobs (n : Nat) (v : Word) : KeepsJobs (execCxpCcGo n v) :=
  .onBarComp fun e h => by simp

theorem execCxpCcReply_keepsJobs (n result : Nat) (data : List Byte) : KeepsJobs (execCxpCcReply n result data) :=
  .onHostComp fun e h => by
    split
    · rfl
    · dsimp only
      rw [HostSide.ccDone_comp]
      split
      · exact HostSide.comp_forN _ _ _ fun _ _ => HostSide.set_comp ..
      · rfl

theorem execCxpCcTimeout_keepsJobs (n : Nat) : KeepsJobs (execCxpCcTimeout n) :=
  .onHostComp fun e h => by simp

/-! ### Streams, heartbeats, events (R55 to R57) -/

theorem execCxpStreamPacket_keepsJobs (n id fmt : Nat) (crcBad gap : Bool) (data : List Byte) :
    KeepsJobs (execCxpStreamPacket n id fmt crcBad gap data) :=
  .onHostComp fun e h => by
    simp
    (repeat' split) <;> simp

theorem execCxpHeartbeatRx_keepsJobs (n camTime : Nat) : KeepsJobs (execCxpHeartbeatRx n camTime) :=
  .onHostComp fun e h => HostSide.inLink_comp _ _ _ _ _ (by simp)

theorem execCxpHbTimeout_keepsJobs (n : Nat) : KeepsJobs (execCxpHbTimeout n) :=
  .onHostComp fun e h => HostSide.inLink_comp _ _ _ _ _ (by simp)

theorem execCxpEventPacket_keepsJobs (n : Nat) (data : List Byte) : KeepsJobs (execCxpEventPacket n data) :=
  .onHostComp fun e h => by simp

theorem execCxpEvtPop_keepsJobs (n : Nat) : KeepsJobs (execCxpEvtPop n) :=
  .onBarComp fun e h => by simp

/-! ### Compare units (R302, R303) -/

theorem execCmpFire_keepsJobs (i : Nat) : KeepsJobs (execCmpFire i) :=
  .onHostComp fun e h => by simp

/-! ### Changes of a time base (R300) -/

theorem execTbRateWrite_keepsJobs (n : Nat) (v : Word) : KeepsJobs (execTbRateWrite n v) :=
  .onBarComp fun e h => by simp

theorem execTbSet_keepsJobs (n : Nat) : KeepsJobs (execTbSet n) :=
  .onBarComp fun e h => by simp

theorem execTbStep_keepsJobs (n : Nat) : KeepsJobs (execTbStep n) :=
  .onBarComp fun e h => by simp

theorem execTimeCopy_keepsJobs (v : Word) : KeepsJobs (execTimeCopy v) :=
  .onBarComp fun e h => by simp

theorem execTimeSnap_keepsJobs : KeepsJobs execTimeSnap :=
  .onBarComp fun e h => (HostSide.comp_forN _ _ _ fun n g => by simp).trans (HostSide.set2_comp ..)

theorem execPpsPulseEnd_keepsJobs : KeepsJobs execPpsPulseEnd :=
  .onHostComp fun e h => by simp

theorem execTimeCapture_keepsJobs (falling : Bool) : KeepsJobs (execTimeCapture falling) :=
  .onHostComp fun e h => by simp

/-! ### States (R75, R76) -/

theorem execIflEnable_keepsJobs (p : Nat) (v : Word) : KeepsJobs (execIflEnable p v) :=
  .onBarSame fun e h => by
    unfold HostSide.SameOwners
    split <;> simp

theorem execIflDisable_keepsJobs (p : Nat) (v : Word) : KeepsJobs (execIflDisable p v) :=
  .onBarSame fun e h => by
    unfold HostSide.SameOwners
    split <;> simp

theorem execIflRetrain_keepsJobs (p : Nat) : KeepsJobs (execIflRetrain p) :=
  .onBarSame fun e h => by
    unfold HostSide.SameOwners
    split <;> simp

theorem execIflTxStart_keepsJobs (p : Nat) : KeepsJobs (execIflTxStart p) :=
  .onHostComp fun e h => by simp

/-! ### Markers (R66, R67, R75) -/

theorem execIflMarkerRx_keepsJobs (p i : Nat) (wire : List Bool) (skew : Nat) : KeepsJobs (execIflMarkerRx p i wire skew) :=
  .onHostSame fun e h => by
    unfold HostSide.SameOwners
    dsimp only
    (repeat' split) <;> simp

theorem execIflMarkerMissing_keepsJobs (p i : Nat) : KeepsJobs (execIflMarkerMissing p i) :=
  .onHostSame fun e h => by
    unfold HostSide.SameOwners
    split <;> simp

theorem execLaneCdrLockChange_keepsJobs (l : Nat) (sig lock : Bool) (bitsN errs peak : Nat) :
    KeepsJobs (execLaneCdrLockChange l sig lock bitsN errs peak) :=
  .onHostSame fun e h => by
    unfold HostSide.SameOwners
    dsimp only
    (repeat' split) <;> simp

/-! ### Flits received (R72, R73, R233) -/

theorem execIflFlitRx_keepsJobs (p : Nat) (w0 w1 : List Bool) : KeepsJobs (execIflFlitRx p w0 w1) :=
  .onHostSame fun e h => by
    unfold HostSide.SameOwners
    dsimp only
    (repeat' split) <;> simp

theorem execIflAckTimeout_keepsJobs (p : Nat) : KeepsJobs (execIflAckTimeout p) :=
  .onHostSame fun e h => by
    unfold HostSide.SameOwners
    split <;> simp

theorem execIflCreditSend_keepsJobs (p : Nat) : KeepsJobs (execIflCreditSend p) :=
  .onHostComp fun e h => by simp

/-! ### Scheduling (R362 to R364) -/

theorem execSliceBoundary_keepsJobs (p : Nat) : KeepsJobs (execSliceBoundary p) :=
  .onDataSame fun e h => by
    unfold HostSide.SameOwners
    split <;> simp

/-! ### The end of a job (R360, R361, R365) -/

theorem execJobEnd_keepsJobs (job : Nat) : KeepsJobs (execJobEnd job) :=
  .onDataSame fun e h => by
    unfold HostSide.SameOwners
    (repeat' split) <;> simp

theorem execPreLimitExpired_keepsJobs (job : Nat) : KeepsJobs (execPreLimitExpired job) :=
  .onDataSame fun e h => by
    unfold HostSide.SameOwners
    (repeat' split) <;> simp

/-! ### JOB_RUN and JOB_CANCEL (R358, R359, R361) -/

theorem execJobRun_keepsJobs (q : Nat) (ecc : Ecc) : KeepsJobs (execJobRun q ecc) :=
  .onData fun e h hj => by
    unfold HostSide.withCurrent
    split
    next d _ =>
      have hfin (st det a : Nat) : (h.finish q d.idx st det a).jobsLegal := hj.same (.of_comp (HostSide.finish_comp ..))
      beta_reduce
      extract_lets +onlyGivenNames p cores tab id client
      have hcores : ∀ c ∈ cores, c < 64 := fun c hc => List.mem_range.mp (List.mem_of_mem_filter hc)
      have hclient : client < 256 := HostSide.get_lt h (Reg.SQ_CFG.CLIENT q)
      clear_value p cores tab id client
      split
      · exact hfin _ _ _
      next hp =>
      split
      · exact hfin _ _ _
      split
      · exact hfin _ _ _
      extract_lets +onlyGivenNames clu
      clear_value clu
      split
      · exact hfin _ _ _
      split
      · exact hfin _ _ _
      split
      · exact hfin _ _ _
      split
      · exact hj
      split
      next g words bad hk =>
      have eg : g.comp = h.comp := (congrArg (fun r => r.1.comp) hk).symm.trans (HostSide.readTable_comp ..)
      clear hk
      have hg : g.jobsLegal := hj.same (.of_comp eg)
      have hgfin (st det a : Nat) : (g.finish q d.idx st det a).jobsLegal := hg.same (.of_comp (HostSide.finish_comp ..))
      extract_lets +onlyGivenNames refs
      clear_value refs
      split
      · exact hgfin _ _ _
      split
      · exact hgfin _ _ _
      split
      · exact hgfin _ _ _
      extract_lets +onlyGivenNames blocks used j src g₂
      have hjob : 1 ≤ p ∧ p ≤ 8 := by
        simp only [Bool.or_eq_true, decide_eq_true_eq, not_or, Nat.not_lt] at hp
        omega
      have h₂ : g₂.jobsLegal := by
        intro o ho
        change o ∈ (g.comp.jobs ++ [j]).map Job.owner at ho
        rw [List.map_append, List.mem_append, List.map_singleton, List.mem_singleton] at ho
        obtain ho | rfl := ho
        · exact hg o ho
        · exact ⟨hjob.1, hjob.2, hclient, hcores⟩
      clear_value g₂
      exact h₂.same (.of_comp (by simp))
    · exact hj

theorem execJobCancel_keepsJobs (q : Nat) : KeepsJobs (execJobCancel q) :=
  .onDataSame fun e h => by
    unfold HostSide.withCurrent
    split
    · beta_reduce
      split
      · exact .of_comp (HostSide.finish_comp ..)
      · exact .trans (.of_comp (HostSide.finish_comp ..)) (HostSide.cancelJob_owners ..)
    · rfl

/-! ### Save and restore (R364, R366, R367, R404) -/

theorem execPreemptionComplete_keepsJobs (job : Nat) : KeepsJobs (execPreemptionComplete job) :=
  .onDataSame fun e h => by
    split
    · rfl
    next j _ =>
      extract_lets +onlyGivenNames stopped
      clear_value stopped
      refine .of_ite rfl ?_
      extract_lets +onlyGivenNames park g
      have hpark (g : HostSide) (c : Nat) : (park g c).comp.jobs.map Job.owner = g.comp.jobs.map Job.owner := by
        dsimp only [park]
        split
        · rfl
        · simp
      clear_value park
      have eg : h.SameOwners g := owners_foldl _ _ _ hpark
      clear_value g
      refine eg.trans (.trans ?_ (.of_comp ((HostSide.showJob_comp ..).trans (HostSide.inc_comp ..))))
      exact .trans (.of_comp (HostSide.traceJob_comp ..)) (HostSide.modJob_owners _ _ _ fun _ => rfl)

theorem execContextSaveDone_keepsJobs (job k : Nat) (bad : List (Nat × Nat)) (ecc : List (Nat × Ecc)) :
    KeepsJobs (execContextSaveDone job k bad ecc) :=
  .onDataSame fun e h => by
    split
    · rfl
    next j _ =>
      refine .of_ite rfl ?_
      extract_lets +onlyGivenNames g₁ g₂ cs dirty sv g₃ g₄ g₅ blk g₆ src g₇ rest g₈
      have e₂ : h.SameOwners g₂ :=
        .of_comp ((HostSide.comp_foldl _ _ _ fun _ _ => HostSide.badTile_comp ..).trans (HostSide.eccSave_comp ..))
      clear_value g₁ g₂ cs dirty sv
      have e₃ : g₂.SameOwners g₃ := .of_comp (HostSide.comp_foldl _ _ _ fun _ _ => HostSide.setCore_comp ..)
      clear_value g₃
      have e₄ : g₃.SameOwners g₄ := rfl
      clear_value g₄
      have e₅ : g₄.SameOwners g₅ := .of_comp (HostSide.inc_comp ..)
      clear_value g₅ blk
      have e₆ : g₅.SameOwners g₆ := .of_comp ((HostSide.countContext_comp ..).trans (HostSide.writeBlock_comp ..))
      clear_value g₆
      have e₇ : g₆.SameOwners g₇ := rfl
      clear_value g₇
      have e₈ : g₇.SameOwners g₈ := HostSide.modJob_owners _ _ _ fun _ => rfl
      clear_value g₈ rest
      refine e₂.trans (e₃.trans (e₄.trans (e₅.trans (e₆.trans (e₇.trans (e₈.trans (.of_ite rfl ?_)))))))
      extract_lets +onlyGivenNames g₉
      have e₉ : g₈.SameOwners g₉ := .of_comp <| HostSide.comp_foldl _ _ _ fun k c => by
        split
        · dsimp only
          simp
        · rfl
      clear_value g₉
      refine e₉.trans (.trans ?_ (HostSide.pass_owners ..))
      refine .trans ?_ (.of_comp (HostSide.showJob_comp ..))
      exact .trans (.of_comp (HostSide.traceJob_comp ..)) (HostSide.modJob_owners _ _ _ fun _ => rfl)

/-! ### Parked remote waits (R368) -/

theorem execOxbowGranuleLand_keepsJobs (job c spa status : Nat) (data : List Byte) :
    KeepsJobs (execOxbowGranuleLand job c spa status data) :=
  .onDataSame fun e h => by
    extract_lets +onlyGivenNames sel
    clear_value sel
    split
    next o j _ _ =>
      refine .of_ite (HostSide.modJob_owners _ _ _ fun _ => rfl) ?_
      extract_lets +onlyGivenNames k n sram
      clear_value k n sram
      refine .of_ite rfl ?_
      extract_lets +onlyGivenNames bad o' g₁ g₂
      have e₁ : g₁.comp = h.comp := HostSide.comp_foldl _ _ _ fun _ _ => by simp
      clear_value g₁ bad
      have e₂ : g₂.comp = h.comp := HostSide.comp_ite_of ((HostSide.countK_comp ..).trans e₁) e₁
      clear_value g₂ o'
      unfold HostSide.SameOwners
      simp [e₂]
    · rfl

theorem execOxbowDrainDone_keepsJobs (job k : Nat) : KeepsJobs (execOxbowDrainDone job k) :=
  .onDataSame fun e h => by
    unfold HostSide.SameOwners
    split <;> simp

/-! ### Restore -/

theorem execContextRestoreDone_keepsJobs (job k : Nat) (bad : List (Nat × Nat)) (ecc : List (Nat × Ecc)) :
    KeepsJobs (execContextRestoreDone job k bad ecc) :=
  .onDataSame fun e h => by
    split
    · rfl
    next j _ =>
      extract_lets +onlyGivenNames awake drained
      clear_value awake drained
      refine .of_ite rfl ?_
      extract_lets +onlyGivenNames blk g₁ g₂ g₃ rest g₄
      have e₁ : h.SameOwners g₁ := congrArg (List.map Job.owner) (HostSide.restoreClu_jobs ..)
      clear_value g₁ blk
      have e₂ : g₁.SameOwners g₂ := .of_ite (.of_comp (HostSide.countContext_comp ..)) rfl
      clear_value g₂
      have e₃ : g₂.SameOwners g₃ := .of_comp (HostSide.comp_foldl _ _ _ fun _ _ => HostSide.badTile_comp ..)
      clear_value g₃ rest
      have e₄ : g₃.SameOwners g₄ := HostSide.modJob_owners _ _ _ fun _ => rfl
      clear_value g₄
      refine e₁.trans (e₂.trans (e₃.trans (e₄.trans (.of_ite (.of_comp (HostSide.showEntry_comp ..)) ?_))))
      extract_lets +onlyGivenNames g₅ g₆
      have e₅ : g₄.SameOwners g₅ := .trans (.of_comp (HostSide.traceJob_comp ..)) (HostSide.modJob_owners _ _ _ fun _ => rfl)
      clear_value g₅
      have e₆ : g₅.SameOwners g₆ := by
        refine .of_ite (.foldl fun k c => ?_) (.foldl fun k x => ?_)
        · split
          · exact .of_ite (.of_comp (HostSide.set_comp ..)) rfl
          · rfl
        · exact .of_comp (HostSide.startList_comp k e x.1 x.2.1 x.2.2 false 0 _)
      clear_value g₆
      exact e₅.trans (e₆.trans (.of_comp (HostSide.showJob_comp ..)))

/-! ### PARTITION_SET (R356, R357) -/

theorem execPartitionSet_keepsJobs (q : Nat) : KeepsJobs (execPartitionSet q) :=
  .onHostComp fun e h => by
    refine HostSide.withCurrent_comp _ _ _ _ fun d => ?_
    dsimp only
    refine HostSide.comp_ite_of (HostSide.finish_comp ..) ?_
    split <;> simp

/-! ### Lines and ticks (R93, R95, R96) -/

theorem execPixLineComplete_keepsJobs (n x : Nat) : KeepsJobs (execPixLineComplete n x) :=
  .onHostComp fun e h => by
    simp
    split <;> simp

theorem execPixTickTimeout_keepsJobs (x : Nat) : KeepsJobs (execPixTickTimeout x) :=
  .onHostComp fun e h => by simp

/-! ### Commits (R96) -/

theorem execCtxCommit_keepsJobs (x : Nat) : KeepsJobs (execCtxCommit x) :=
  .onBarComp fun e h => by simp

theorem execCtxAbort_keepsJobs (x : Nat) : KeepsJobs (execCtxAbort x) :=
  .onBarComp fun e h => by simp

theorem execPipeCommit_keepsJobs (p : Nat) : KeepsJobs (execPipeCommit p) :=
  .onBarComp fun e h => by simp

theorem execCtxEnable_keepsJobs (x : Nat) (v : Word) : KeepsJobs (execCtxEnable x v) :=
  .onBarComp fun e h => by simp

/-! ### Camera settings (R98, R99) -/

theorem execSetGo_keepsJobs (x : Nat) (v : Word) : KeepsJobs (execSetGo x v) :=
  .onBarComp fun e h => by simp

theorem execSettingsAck_keepsJobs (x : Nat) (ok : Bool) : KeepsJobs (execSettingsAck x ok) :=
  .onHostComp fun e h => by
    split <;> simp

/-! ### Turns (R94) -/

theorem execPipeTurnStart_keepsJobs (p : Nat) : KeepsJobs (execPipeTurnStart p) :=
  .onDataComp fun e h => by simp

theorem execPixLineProcessed_keepsJobs (p : Nat) (bad : List (Nat × List Byte)) (ecc : List (Nat × Ecc)) :
    KeepsJobs (execPixLineProcessed p bad ecc) :=
  .onDataComp fun e h => by
    (repeat' split) <;> simp

theorem execPipeFreeNotice_keepsJobs (k h : Nat) : KeepsJobs (execPipeFreeNotice k h) :=
  .onDataComp fun e h => by simp

theorem execCtxDisable_keepsJobs (x : Nat) (v : Word) : KeepsJobs (execCtxDisable x v) :=
  .onBarComp fun e h => by simp

/-! ### RECIPE_LOAD (R338) -/

theorem execRecipeLoad_keepsJobs (q : Nat) : KeepsJobs (execRecipeLoad q) :=
  .onDataComp fun e h => by
    refine HostSide.withCurrent_comp _ _ _ _ fun d => ?_
    change h.SameComp _
    extract_lets +onlyGivenNames slot len src
    clear_value slot len src
    refine .of_ite (HostSide.finish_comp ..) (.of_ite (HostSide.finish_comp ..) (.of_ite (HostSide.finish_comp ..) (.of_ite rfl ?_)))
    extract_lets +onlyGivenNames img r src clear
    have ec : h.SameComp clear := rfl
    clear_value img r clear
    refine .of_ite (ec.trans (HostSide.finish_comp ..)) ?_
    extract_lets +onlyGivenNames refuse
    have href (g : HostSide) (det : Nat) : g.SameComp (refuse g det) := HostSide.finish_comp ..
    clear_value refuse
    split
    · extract_lets +onlyGivenNames segs armedHbm
      clear_value segs armedHbm
      refine .of_ite (ec.trans (href _ _)) (.of_ite (ec.trans (href _ _)) (.of_ite (ec.trans (href _ _)) (.of_ite rfl ?_)))
      extract_lets +onlyGivenNames put clear'
      have hput (k : Nat) (g : HostSide) : g.SameComp (put k g) := .foldl fun _ _ => HostSide.putHbm_comp ..
      clear_value put
      have ec' : h.SameComp clear' := ec.trans (.trans (HostSide.countG_comp ..) (hput _ _))
      clear_value clear'
      refine .of_ite (ec'.trans (href _ _)) (.of_ite (ec'.trans (href _ _)) ?_)
      dsimp only
      exact .trans ec' (HostSide.finish_comp ..)
    · exact ec.trans (href _ _)

theorem execRecipeDrop_keepsJobs (q : Nat) : KeepsJobs (execRecipeDrop q) :=
  .onDataComp fun e h => by simp

/-! ### RECIPE_COMMIT (R195, R210, R339) -/

theorem execRecipeCommit_keepsJobs (q : Nat) : KeepsJobs (execRecipeCommit q) :=
  .onDataComp fun e h => by
    refine HostSide.withCurrent_comp _ _ _ _ fun d => ?_
    dsimp only
    split
    · simp
    · split
      · simp
      · split
        · simp
        · split
          · simp
          · split
            · simp
            · rw [HostSide.addCommit_comp, HostSide.modStarted_comp]
              exact HostSide.comp_foldl _ _ _ fun _ _ => HostSide.set_comp ..

theorem execRecipeDisarm_keepsJobs (q : Nat) : KeepsJobs (execRecipeDisarm q) :=
  .onDataComp fun e h => by simp

/-! ### Period boundaries (R187, R192, R195, R207) -/

theorem execSluicePeriodBoundary_keepsJobs (temp0 temp1 : Nat) : KeepsJobs (execSluicePeriodBoundary temp0 temp1) :=
  .onHostSame fun e h => .of_comp <| by
    change h.SameComp _
    refine .of_ite rfl ?_
    extract_lets +onlyGivenNames g₁ g₂ g₃ g₄
    have e₁ : h.SameComp g₁ := HostSide.set2_comp ..
    clear_value g₁
    have e₂ : g₁.SameComp g₂ := .forN fun _ _ => HostSide.settleRefresh_comp ..
    clear_value g₂
    have e₃ : g₂.SameComp g₃ := HostSide.stackTemp_comp ..
    clear_value g₃
    have e₄ : g₃.SameComp g₄ := .of_ite (HostSide.stackTemp_comp ..) rfl
    clear_value g₄
    refine e₁.trans (e₂.trans (e₃.trans (e₄.trans (.of_ite (.forN fun _ _ => HostSide.setArb_comp ..) ?_))))
    extract_lets +onlyGivenNames g₅ g₆ g₇
    have e₅ : g₄.SameComp g₅ := HostSide.takeOver_comp ..
    clear_value g₅
    have e₆ : g₅.SameComp g₆ := .forN fun n k => by
      split
      · extract_lets +onlyGivenNames x
        refine .of_ite (HostSide.setArb_comp ..) ?_
        · extract_lets +onlyGivenNames k₁ k₂
          have d₁ : k.SameComp k₁ := .of_ite (HostSide.keepBusy_comp ..) rfl
          clear_value k₁
          have d₂ : k₁.SameComp k₂ := (HostSide.setArb_comp ..).trans ((HostSide.nextCseq_comp ..).trans (HostSide.swapTable_comp ..))
          clear_value k₂
          exact d₁.trans (d₂.trans (.of_ite (HostSide.set_comp ..) rfl))
      · rfl
    clear_value g₆
    have e₇ : g₆.SameComp g₇ := HostSide.retireOlds_comp ..
    clear_value g₇
    exact e₅.trans (e₆.trans (e₇.trans (.of_ite (HostSide.iterate_comp ..) rfl)))

/-! ### Commit points (R16, R225, R441) -/

theorem execCommitPointApply_keepsJobs : KeepsJobs execCommitPointApply :=
  .onDataSame fun e h => by
    unfold HostSide.SameOwners
    (repeat' split) <;> simp

/-! ### The global stop (R232 to R235) -/

theorem execGstopStop_keepsJobs (source : Nat) : KeepsJobs (execGstopStop source) :=
  .onHostComp fun e h => by simp

theorem execGstopTakeEffect_keepsJobs : KeepsJobs execGstopTakeEffect :=
  .onHostComp fun e h => by simp

theorem execGstopRelease_keepsJobs (source : Nat) : KeepsJobs (execGstopRelease source) :=
  .onHostComp fun e h => by simp

theorem execGstopResume_keepsJobs : KeepsJobs execGstopResume :=
  .onHostSame fun e h => by
    split
    · rfl
    · extract_lets +onlyGivenNames g sites
      have eg : h.SameOwners g := .of_comp (by simp [g])
      clear_value g sites
      refine eg.trans (.trans ?_ (HostSide.replayPasses_owners ..))
      exact owners_foldl _ _ _ fun _ _ => HostSide.fence_owners ..

/-! ### Seals (R227 to R231) -/

theorem execSealStart_keepsJobs (n : Nat) : KeepsJobs (execSealStart n) :=
  .onHostComp fun e h => by simp

theorem execSealSigned_keepsJobs (n : Nat) : KeepsJobs (execSealSigned n) :=
  .onHostComp fun e h => by
    extract_lets +onlyGivenNames r
    split
    · rfl
    · split
      · simp
      · split
        · rfl
        · extract_lets +onlyGivenNames cnt slot body base g₁ g₂ g₃
          have e₁ : g₁.comp = h.comp := HostSide.hostWrite_comp ..
          clear_value g₁
          have e₃ : g₃.comp = h.comp :=
            (HostSide.setRing_comp ..).trans ((HostSide.set_comp ..).trans ((HostSide.add_comp ..).trans e₁))
          clear_value g₃
          exact (HostSide.takeSigner_comp ..).trans ((HostSide.produce_comp ..).trans e₃)

/-! ### The dictionary (R383 to R385) -/

theorem execHdwDictCommit_keepsJobs (v : Word) : KeepsJobs (execHdwDictCommit v) :=
  .onBarComp fun e h => by simp

theorem execHdwDictBuildDone_keepsJobs : KeepsJobs execHdwDictBuildDone :=
  .onHostComp fun e h => by
    split
    · rfl
    · split
      · simp
      · simp
      · dsimp only
        rw [HostSide.modHdw_comp, HostSide.setBits_comp, HostSide.add_comp]
        exact HostSide.comp_forN _ _ _ fun _ _ => HostSide.set_comp ..

/-! ### Samples (R381, R382) -/

theorem execTextSample_keepsJobs (q : Nat) : KeepsJobs (execTextSample q) :=
  .onDataComp fun e h => by simp

theorem execHdwAdmit_keepsJobs : KeepsJobs execHdwAdmit :=
  .onDataComp fun e h => by
    (repeat' split) <;> simp

theorem execHdwLaneStart_keepsJobs : KeepsJobs execHdwLaneStart :=
  .onDataComp fun e h => by simp

theorem execHdwDecodeDone_keepsJobs (i : Nat) (err : Bool) : KeepsJobs (execHdwDecodeDone i err) :=
  .onDataComp fun e h => by
    simp
    (repeat' split) <;> simp

/-! ### Emergence and batches (R389 to R393) -/

theorem execHdwEmerge_keepsJobs : KeepsJobs execHdwEmerge :=
  .onDataComp fun e h => by
    (repeat' split) <;> simp

theorem execHdwBatchTimeout_keepsJobs : KeepsJobs execHdwBatchTimeout :=
  .onDataComp fun e h => by simp

theorem execHdwBatchWrite_keepsJobs : KeepsJobs execHdwBatchWrite :=
  .onDataComp fun e h => by
    simp
    (repeat' split) <;> simp

theorem execHdwBatchFree_keepsJobs (c : Nat) : KeepsJobs (execHdwBatchFree c) :=
  .onDataComp fun e h => by
    (repeat' split) <;> simp

/-! ### The stop (R395 to R397) -/

theorem execHdwStopped_keepsJobs : KeepsJobs execHdwStopped :=
  .onDataComp fun e h => by
    split <;> simp

/-! ### Delivery and activation (R474 to R478, R484) -/

theorem execUpdateBegin_keepsJobs (q : Nat) (flashFail : Bool) : KeepsJobs (execUpdateBegin q flashFail) :=
  .onHostComp fun e h => by simp

theorem execImagePiece_keepsJobs (q : Nat) (flashFail : Bool) : KeepsJobs (execImagePiece q flashFail) :=
  .onHostComp fun e h => by
    split <;> simp

theorem execUpdateAbort_keepsJobs (q : Nat) (flashFail : Bool) : KeepsJobs (execUpdateAbort q flashFail) :=
  .onHostComp fun e h => by simp

theorem execUpdateActivate_keepsJobs (q : Nat) (flashFail : Bool) : KeepsJobs (execUpdateActivate q flashFail) :=
  .onHostComp fun e h => by
    simp
    (repeat' split) <;> simp

/-! ### The settings area (R459, R479 to R481) -/

theorem execUpdateConfirm_keepsJobs (q : Nat) (flashFail : Bool) : KeepsJobs (execUpdateConfirm q flashFail) :=
  .onHostComp fun e h => by
    split <;> simp

theorem execUpdateRevert_keepsJobs (q : Nat) (flashFail : Bool) : KeepsJobs (execUpdateRevert q flashFail) :=
  .onHostComp fun e h => by simp

theorem execRecoveryWrite_keepsJobs (q : Nat) (flashFail : Bool) : KeepsJobs (execRecoveryWrite q flashFail) :=
  .onHostComp fun e h => by simp

/-! ### Settings (R479 to R481, R484) -/

theorem execSettingsSave_keepsJobs (q : Nat) (flashFail : Bool) : KeepsJobs (execSettingsSave q flashFail) :=
  .onHostAt fun s e h => .of_comp <| by
    refine HostSide.withMbox_comp _ _ _ _ fun d => ?_
    split
    · rfl
    · split
      dsimp only
      split
      · simp
      · split
        · simp
        · split
          · simp
          · split <;> simp

theorem execSettingsRead_keepsJobs (q : Nat) (flashFail : Bool) : KeepsJobs (execSettingsRead q flashFail) :=
  .onHostComp fun e h => by
    refine HostSide.withMbox_comp _ _ _ _ fun d => ?_
    split
    · rfl
    · split
      split
      · simp
      · split <;> simp

theorem execSettingsWrite_keepsJobs (q : Nat) (flashFail : Bool) : KeepsJobs (execSettingsWrite q flashFail) :=
  .onHostComp fun e h => by simp

theorem execSettingsErase_keepsJobs (q : Nat) (flashFail : Bool) : KeepsJobs (execSettingsErase q flashFail) :=
  .onHostComp fun e h => by simp

/-! ### Identity (R469 to R472, R482, R483) -/

theorem execCertGet_keepsJobs (q : Nat) (flashFail : Bool) : KeepsJobs (execCertGet q flashFail) :=
  .onHostComp fun e h => by simp

theorem execPubkeyGet_keepsJobs (q : Nat) : KeepsJobs (execPubkeyGet q) :=
  .onHostComp fun e h => by simp

theorem execQuote_keepsJobs (q : Nat) : KeepsJobs (execQuote q) :=
  .onHostAt fun s e h => .of_comp <| by
    refine HostSide.withMbox_comp _ _ _ _ fun d => ?_
    split
    · simp
    · split
      · simp
      · split
        · rfl
        · dsimp only
          rw [HostSide.takeSigner_comp]
          exact HostSide.modStarted_comp h q d.idx fun d => { d with accepted := true }

theorem execQuoteSigned_keepsJobs : KeepsJobs execQuoteSigned :=
  .onHostComp fun e h => by
    split
    · rfl
    · extract_lets +onlyGivenNames g
      have eg : g.comp = h.comp := HostSide.takeSigner_comp ..
      clear_value g
      split
      · exact eg
      · split
        · exact eg
        · dsimp only
          rw [HostSide.mboxOut_comp]
          exact eg

theorem execEthTx_keepsJobs (q : Nat) : KeepsJobs (execEthTx q) :=
  .onDataComp fun e h => by simp

theorem execEthRxPost_keepsJobs (q : Nat) : KeepsJobs (execEthRxPost q) :=
  .onDataComp fun e h => by simp

theorem execEthRxFrame_keepsJobs (p : Nat) (good : Bool) (data : List Byte) : KeepsJobs (execEthRxFrame p good data) :=
  .onHostComp fun e h => by simp

theorem execEthTxDone_keepsJobs (p : Nat) : KeepsJobs (execEthTxDone p) :=
  .onHostComp fun e h => by
    (repeat' split) <;> simp

theorem execEthTxtsPop_keepsJobs (p : Nat) : KeepsJobs (execEthTxtsPop p) :=
  .onBarComp fun e h => by simp

theorem execEthLinkChange_keepsJobs (p : Nat) (lock hiBer : Bool) : KeepsJobs (execEthLinkChange p lock hiBer) :=
  .onHostComp fun e h => by simp

/-! ### Opening the device (R324) -/

theorem execHostAbiWrite_keepsJobs (v : Word) : KeepsJobs (execHostAbiWrite v) :=
  .onHostComp fun e h => by simp

/-! ### Doorbells (R323, R327, R329, R343) -/

theorem execSqDoorbell_keepsJobs (q : Nat) (v : Word) : KeepsJobs (execSqDoorbell q v) :=
  .onBarComp fun e h => by simp

theorem execCqHeadDoorbell_keepsJobs (q : Nat) (v : Word) : KeepsJobs (execCqHeadDoorbell q v) :=
  .onBarComp fun e h => by simp

theorem execRrHeadDoorbell_keepsJobs (n : Nat) (v : Word) : KeepsJobs (execRrHeadDoorbell n v) :=
  .onBarComp fun e h => by simp

/-! ### Enabling, restarting and resetting queues (R328, R352 to R354) -/

theorem execSqEnable_keepsJobs (q : Nat) (v : Word) : KeepsJobs (execSqEnable q v) :=
  .onBarComp fun e h => by simp

theorem execSqRestart_keepsJobs (q : Nat) : KeepsJobs (execSqRestart q) :=
  .onBarComp fun e h => by simp

theorem execSqReset_keepsJobs (q : Nat) (cfg : Option Word) : KeepsJobs (execSqReset q cfg) :=
  .onBarSame fun e h => by
    split
    · rfl
    · extract_lets +onlyGivenNames on_ g₁
      have e₁ : g₁.comp = h.comp := by
        dsimp only [g₁]
        split
        · exact HostSide.setWord_comp ..
        · split <;> simp
      clear_value g₁
      split
      · exact .of_comp e₁
      · refine .trans (.of_comp e₁) ?_
        extract_lets +onlyGivenNames g₂
        have e₂ : g₂.comp = g₁.comp := by simp [g₂]
        clear_value g₂
        refine .trans (.of_comp e₂) (.trans ?_ (.of_comp (HostSide.hdwReset_comp ..)))
        exact owners_foldl _ _ _ fun _ _ => HostSide.resetStarted_owners ..

theorem execSqResetDone_keepsJobs (q : Nat) : KeepsJobs (execSqResetDone q) :=
  .onHostComp fun e h => by simp

theorem execCqEnable_keepsJobs (q : Nat) (v : Word) : KeepsJobs (execCqEnable q v) :=
  .onBarComp fun e h => by simp

theorem execRrEnable_keepsJobs (n : Nat) (v : Word) : KeepsJobs (execRrEnable n v) :=
  .onBarComp fun e h => by simp

/-! ### Fetching descriptors (R325, R327, R332) -/

theorem execDescriptorFetch_keepsJobs (q : Nat) (pcieError : Bool) : KeepsJobs (execDescriptorFetch q pcieError) :=
  .onHostComp fun e h => by simp

/-! ### Completions (R329, R330) -/

theorem execCompletionWrite_keepsJobs (q : Nat) : KeepsJobs (execCompletionWrite q) :=
  .onHost fun e h hj => by
    split
    · exact hj
    · split
      · exact hj
      · split
        · exact hj
        · split
          · exact hj.sublist (HostSide.retire_jobs ..)
          · extract_lets +onlyGivenNames c
            split
            · exact hj
            · extract_lets +onlyGivenNames size j base g₁ g₂
              have e₁ : g₁.comp = h.comp := HostSide.hostWrite_comp ..
              clear_value g₁
              have j₂ : g₂.jobsLegal := by
                refine HostSide.jobsLegal.sublist ?_ (HostSide.retire_jobs ..)
                exact hj.same (.of_comp (by simp [e₁]))
              clear_value g₂
              split
              · exact j₂.same (.of_comp (HostSide.signal_comp ..))
              · exact j₂

/-! ### The MOVE engine (R326, R334) -/

theorem execCopy_keepsJobs (q outcome : Nat) (got : List Byte) (ecc merge : Ecc) : KeepsJobs (execCopy q outcome got ecc merge) :=
  .onDataComp fun e h => by
    refine HostSide.withCurrent_comp _ _ _ _ fun d => ?_
    change h.SameComp _
    extract_lets +onlyGivenNames src dst len
    clear_value src dst len
    split
    · exact HostSide.finish_comp ..
    · refine .of_ite rfl ?_
      extract_lets +onlyGivenNames n
      clear_value n
      refine .of_ite (HostSide.finish_comp ..) (.of_ite (HostSide.finish_comp ..) ?_)
      split
      split
      next g₁ bs bad hk₁ =>
      have e₁ : g₁.comp = h.comp := (congrArg (fun r => r.1.comp) hk₁).symm.trans (by simp)
      split
      extract_lets +onlyGivenNames g₂
      have e₂ : g₂.comp = h.comp := HostSide.comp_ite_of ((HostSide.csumFail_comp ..).trans e₁) e₁
      clear_value g₂
      split
      next g₃ r hk₃ =>
      have e₃ : g₃.comp = h.comp := (congrArg (fun r => r.1.comp) hk₃).symm.trans (by simp [e₂])
      exact (HostSide.moveNext_comp ..).trans e₃

theorem execFill_keepsJobs (q : Nat) (ecc : Ecc) : KeepsJobs (execFill q ecc) :=
  .onDataComp fun e h => by
    refine HostSide.withCurrent_comp _ _ _ _ fun d => ?_
    change h.SameComp _
    extract_lets +onlyGivenNames dst len
    clear_value dst len
    split
    · exact HostSide.finish_comp ..
    · refine .of_ite rfl ?_
      extract_lets +onlyGivenNames n
      clear_value n
      refine .of_ite (HostSide.finish_comp ..) ?_
      split
      next g r hk =>
      have eg : g.comp = h.comp := (congrArg (fun r => r.1.comp) hk).symm.trans (by simp)
      exact (HostSide.moveNext_comp ..).trans eg

/-! ### Bus Master Enable, interrupts, the state page (R344, R346, R348, R349) -/

theorem execBusMasterEnableChange_keepsJobs (on : Bool) : KeepsJobs (execBusMasterEnableChange on) :=
  .onHostComp fun e h => by
    extract_lets +onlyGivenNames was g
    have eg : g.comp = h.comp := rfl
    clear_value g
    split
    · exact (HostSide.comp_forN _ _ _ fun _ _ => HostSide.sendPending_comp ..).trans eg
    · split
      · refine (HostSide.comp_forN _ _ _ fun q k => ?_).trans eg
        exact HostSide.comp_foldl _ _ _ fun _ _ => HostSide.finish_comp ..
      · exact eg

theorem execMsixVectorTimer_keepsJobs (v : Nat) : KeepsJobs (execMsixVectorTimer v) :=
  .onHostComp fun e h => by simp

theorem execMsixUnmask_keepsJobs (v : Nat) : KeepsJobs (execMsixUnmask v) :=
  .onBarComp fun e h => by simp

theorem execStatePageUpdate_keepsJobs : KeepsJobs execStatePageUpdate :=
  .onHostComp fun e h => by simp

/-! ### Sleep and wake (R434 to R441) -/

theorem execClusterSleepEntry_keepsJobs (k state : Nat) : KeepsJobs (execClusterSleepEntry k state) :=
  .onDataComp fun e h => by simp

theorem execClusterWake_keepsJobs (k : Nat) : KeepsJobs (execClusterWake k) :=
  .onDataComp fun e h => by simp

theorem execPowerTol_keepsJobs (q : Nat) : KeepsJobs (execPowerTol q) :=
  .onHostComp fun e h => by simp

/-! ### Throttling (R442 to R445) -/

theorem execPowerCapWindow_keepsJobs (est : Nat) : KeepsJobs (execPowerCapWindow est) :=
  .onHostComp fun e h => by simp

theorem execVoltClampWindow_keepsJobs : KeepsJobs execVoltClampWindow :=
  .onHostComp fun e h => by simp

theorem execThermalSample_keepsJobs (cd0 cd1 io0 io1 hbm0 hbm1 : Nat) : KeepsJobs (execThermalSample cd0 cd1 io0 io1 hbm0 hbm1) :=
  .onHostComp fun e h => by simp

theorem execThermalThrottleStep_keepsJobs : KeepsJobs execThermalThrottleStep :=
  .onHostComp fun e h => by simp

/-! ### The compute-die trip (R446) -/

theorem execComputeDieTrip_keepsJobs (volt : Bool) : KeepsJobs (execComputeDieTrip volt) :=
  .onHostSame fun e h => by
    split
    · rfl
    · extract_lets +onlyGivenNames src g₁ g₂ g₃ g₄ g₅ src₆ g₆
      have e₁ : g₁.comp = h.comp := rfl
      clear_value g₁
      have e₂ : g₂.comp = h.comp := by simp [g₂, e₁]
      clear_value g₂
      have e₃ : g₃.comp = h.comp := by simp [g₃, e₂]
      clear_value g₃
      have e₄ : g₄.comp = h.comp := by
        dsimp only [g₄]
        split <;> simp [e₃]
      clear_value g₄
      have e₅ : g₅.comp = h.comp := (HostSide.comp_foldl _ _ _ fun _ _ => HostSide.stopCores_comp ..).trans e₄
      clear_value g₅
      have e₆ : h.SameOwners g₆ := .of_comp e₅
      clear_value g₆
      refine e₆.trans (owners_foldl _ _ _ fun k j => ?_)
      split
      · simp
      · rfl

theorem execPmResume_keepsJobs : KeepsJobs execPmResume :=
  .onBarComp fun e h => by simp

/-! ### Wedged functions, alarms, fatal errors (R452 to R455) -/

theorem execWedgeDetect_keepsJobs (unit : Nat) : KeepsJobs (execWedgeDetect unit) :=
  .onDataComp fun e h => by simp

theorem execUndecWindow_keepsJobs : KeepsJobs execUndecWindow :=
  .onHostComp fun e h => by simp

theorem execFatalError_keepsJobs (code unit detail : Nat) : KeepsJobs (execFatalError code unit detail) :=
  .onHostComp fun e h => by simp

/-! ### Voltage interface (R443, R501, R502) -/

theorem execAvsVoltageWrite_keepsJobs (n floor : Nat) (ok : Bool) : KeepsJobs (execAvsVoltageWrite n floor ok) :=
  .onHostComp fun e h => by simp

theorem execAvsCurrentRead_keepsJobs (n frame v : Nat) (ok : Bool) : KeepsJobs (execAvsCurrentRead n frame v ok) :=
  .onHostComp fun e h => by
    (repeat' split) <;> simp

/-! ### Start-up (R427, R428) -/

theorem execSelfTestDone_keepsJobs (failSites failLs : List Nat) : KeepsJobs (execSelfTestDone failSites failLs) :=
  .onHostSame fun e h => by
    split
    · extract_lets +onlyGivenNames due src g₁ g₂
      have e₁ : g₁.comp = h.comp := rfl
      clear_value g₁
      have e₂ : h.SameOwners g₂ := .of_comp <| (HostSide.comp_forN _ _ _ fun _ _ => HostSide.setCluPower_comp ..).trans
        ((HostSide.comp_forN _ _ _ fun _ _ => HostSide.testedCore_comp ..).trans ((HostSide.zeroSram_comp ..).trans e₁))
      clear_value g₂
      exact e₂.trans (owners_foldl _ _ _ fun _ _ => HostSide.fence_owners ..)
    · split
      · rfl
      · extract_lets +onlyGivenNames g
        have eg : g.comp = h.comp := (HostSide.formMap_comp ..).trans
          ((HostSide.comp_foldl _ _ _ fun _ _ => HostSide.bootFence_comp ..).trans (HostSide.lockPlls_comp ..))
        clear_value g
        exact .of_ite (.of_comp ((HostSide.set_comp ..).trans eg)) (.of_comp eg)

/-! ### The boot ROM (R466 to R472) -/

theorem execBootCandidateSelect_keepsJobs : KeepsJobs execBootCandidateSelect :=
  .onHostComp fun e h => by
    split
    · rfl
    · extract_lets +onlyGivenNames g₁ g₂ g₃
      have e₂ : g₂.comp = h.comp := by simp [g₂, g₁]
      clear_value g₁ g₂
      have e₃ : g₃.comp = h.comp := HostSide.comp_ite_of e₂ e₂
      clear_value g₃
      have er := (HostSide.romSelect_comp g₃ e.variant).trans e₃
      split
      next g n hk =>
        have eg : g.comp = h.comp := (congrArg (fun r => r.1.comp) hk).symm.trans er
        simp [eg]
      next g hk =>
        have eg : g.comp = h.comp := (congrArg (fun r => r.1.comp) hk).symm.trans er
        simp [eg]

/-! ### The management firmware (R427 steps 7 to 9) -/

theorem execDeviceReady_keepsJobs : KeepsJobs execDeviceReady :=
  .onHostComp fun e h => by simp

/-! ### The clock monitor (R420, R433) -/

theorem execClkMonGo_keepsJobs (v : Word) : KeepsJobs (execClkMonGo v) :=
  .onBarComp fun e h => by simp

theorem execClkMonDone_keepsJobs (n : Nat) : KeepsJobs (execClkMonDone n) :=
  .onHostComp fun e h => by simp

/-! ### TIME flits (R310): payload bits, flit bit n being payload bit n − 32 -/

theorem execTb1SyncSend_keepsJobs : KeepsJobs execTb1SyncSend :=
  .onHostComp fun e h => by simp

theorem execTb1SyncRx_keepsJobs (p : Nat) : KeepsJobs (execTb1SyncRx p) :=
  .onHostComp fun e h => by
    split
    · rfl
    next f g hg =>
      have eg := HostSide.takeFlit_comp _ _ _ _ _ hg
      split
      · exact eg
      · simp [eg]

theorem execTb1DelayReqRx_keepsJobs (p : Nat) : KeepsJobs (execTb1DelayReqRx p) :=
  .onHostComp fun e h => by
    split
    · rfl
    next f g hg =>
      have eg := HostSide.takeFlit_comp _ _ _ _ _ hg
      dsimp only
      split <;> simp [eg]

theorem execTb1DelayRespRx_keepsJobs (p : Nat) : KeepsJobs (execTb1DelayRespRx p) :=
  .onHostComp fun e h => by
    split
    · rfl
    next f g hg =>
      have eg := HostSide.takeFlit_comp _ _ _ _ _ hg
      dsimp only
      split
      · exact eg
      · simp [eg]

theorem execTb1Holdover_keepsJobs : KeepsJobs execTb1Holdover :=
  .onHostComp fun e h => by simp

/-! ### Counters (R400, R408, R416, R440) -/

theorem execCounterConfigWrite_keepsJobs (a : Nat) (v : Word) : KeepsJobs (execCounterConfigWrite a v) :=
  .onBarComp fun e h => by
    split
    next g hg =>
      split
      · exact HostSide.sleepWrite_comp _ _ _ _ hg
      · rfl
    · simp

theorem execGaugeSnap_keepsJobs : KeepsJobs execGaugeSnap :=
  .onBarComp fun e h => by simp

theorem execGaugeSnapTake_keepsJobs : KeepsJobs execGaugeSnapTake :=
  .onHostComp fun e h => by
    split
    · rfl
    · extract_lets +onlyGivenNames vs g₁ g₂
      have e₁ : g₁.comp = h.comp := HostSide.comp_forN _ _ _ fun _ _ => HostSide.set2_comp ..
      clear_value g₁
      have e₂ : g₂.comp = h.comp := (HostSide.set2_comp ..).trans ((HostSide.set_comp ..).trans e₁)
      exact e₂

theorem execGaugeClearAll_keepsJobs : KeepsJobs execGaugeClearAll :=
  .onBarComp fun e h => by simp

/-! ### Trace (R410 to R414) -/

theorem execTraceRecord_keepsJobs (b : Nat) : KeepsJobs (execTraceRecord b) :=
  .onHostComp fun e h => by
    split <;> simp

theorem execTraceWrite_keepsJobs (buf : Nat) : KeepsJobs (execTraceWrite buf) :=
  .onDataComp fun e h => by
    extract_lets +onlyGivenNames x
    split
    · rfl
    · split
      · simp
      · split
        · rfl
        · extract_lets +onlyGivenNames g₁ k g₂ g₃ src g₄ g₅
          have e₁ : g₁.comp = h.comp := (HostSide.comp_foldl _ _ _ fun _ _ => HostSide.setArb_comp ..).trans (HostSide.countG_comp ..)
          clear_value g₁ k
          have e₂ : g₂.comp = h.comp := (HostSide.comp_foldl _ _ _ fun _ _ => HostSide.traceOut_comp ..).trans e₁
          clear_value g₂
          have e₃ : g₃.comp = h.comp := (HostSide.setTraceBuf_comp ..).trans e₂
          clear_value g₃
          have e₄ : g₄.comp = h.comp := e₃
          clear_value g₄
          have e₅ : g₅.comp = h.comp := (HostSide.traceLoss_comp ..).trans e₄
          clear_value g₅
          split <;> simp [e₅]

theorem execTraceBucketRefill_keepsJobs : KeepsJobs execTraceBucketRefill :=
  .onHostComp fun e h => by simp

theorem execTraceSampleTimer_keepsJobs : KeepsJobs execTraceSampleTimer :=
  .onHostComp fun e h => by simp

theorem execTrcMark_keepsJobs (v : Word) : KeepsJobs (execTrcMark v) :=
  .onBarComp fun e h => by simp

theorem execIflEventSend_keepsJobs (p : Nat) : KeepsJobs (execIflEventSend p) :=
  .onHostComp fun e h => by simp

/-! ### Frames (R270 to R274) -/

theorem execBarrierFrameLaunch_keepsJobs (toHost : Bool) (wait : Nat) (waits : List Nat) :
    KeepsJobs (execBarrierFrameLaunch toHost wait waits) :=
  fun s t ht => by
    unfold execBarrierFrameLaunch at ht
    cases toHost with
    | true =>
      rw [if_pos rfl] at ht
      exact KeepsJobs.onField _ s t ht
    | false =>
      rw [if_neg Bool.false_ne_true] at ht
      exact KeepsJobs.onHostComp (fun _ _ => HostSide.launch_comp ..) s t ht

theorem execBarrierFrameRx_keepsJobs (toHost : Bool) (frame : Nat) : KeepsJobs (execBarrierFrameRx toHost frame) :=
  fun s t ht => by
    unfold execBarrierFrameRx at ht
    cases toHost with
    | true =>
      rw [if_pos rfl] at ht
      exact KeepsJobs.onHostComp (fun _ _ => HostSide.barReceive_comp ..) s t ht
    | false =>
      rw [if_neg Bool.false_ne_true] at ht
      exact KeepsJobs.onField _ s t ht

theorem execBarrierSyncLoss_keepsJobs (toHost : Bool) : KeepsJobs (execBarrierSyncLoss toHost) :=
  fun s t ht => by
    unfold execBarrierSyncLoss at ht
    cases toHost with
    | true =>
      rw [if_pos rfl] at ht
      exact KeepsJobs.onHostComp (fun _ _ => by rw [HostSide.set_comp]) s t ht
    | false =>
      rw [if_neg Bool.false_ne_true] at ht
      exact KeepsJobs.onField _ s t ht

/-! ### Ticks and snapshots (R279) -/

theorem execLineTick_keepsJobs (j : Nat) : KeepsJobs (execLineTick j) :=
  .onHostComp fun e h => by
    split <;> simp

theorem execEncSnapshot_keepsJobs : KeepsJobs execEncSnapshot :=
  .onHostComp fun e h => by
    refine HostSide.onMsg_comp _ _ _ fun g p => ?_
    change g.SameComp _
    extract_lets +onlyGivenNames kind j pos x d n
    clear_value kind j pos x d n
    refine .of_ite rfl (.of_ite (HostSide.setTrig_comp ..) (.of_ite rfl (.of_ite ?_ ?_)))
    · exact (HostSide.set_comp ..).trans ((HostSide.inc_comp ..).trans (HostSide.setTrig_comp ..))
    · dsimp only
      generalize (d.toNat + n - 1) / n = m
      have e₁ : g.SameComp (forN m (fun _ h => h.lostTick e j) g) := HostSide.comp_forN _ _ _ fun _ _ => HostSide.lostTick_comp ..
      exact e₁.trans ((HostSide.set_comp ..).trans (HostSide.setTrig_comp ..))

/-! ### Heartbeat, inputs, faults (R275, R289, R293, R294, R426) -/

theorem execFieldHeartbeat_keepsJobs : KeepsJobs execFieldHeartbeat :=
  .onHostComp fun e h => by simp

theorem execDiChange_keepsJobs : KeepsJobs execDiChange :=
  .onHostComp fun e h => by simp

theorem execFault_keepsJobs : KeepsJobs execFault :=
  .onHostComp fun e h => by simp

theorem execFieldLoss_keepsJobs : KeepsJobs execFieldLoss :=
  .onHostComp fun e h => by simp

theorem execBarRelease_keepsJobs : KeepsJobs execBarRelease :=
  .onBarComp fun e h => by simp

theorem execEjectReport_keepsJobs : KeepsJobs execEjectReport :=
  .onHostComp fun e h => by
    refine HostSide.onMsg_comp _ _ _ fun g p => ?_
    extract_lets +onlyGivenNames k tag result g₁
    have e₁ : g₁.comp = g.comp := HostSide.countG_comp ..
    clear_value g₁
    split
    · simp [e₁]
    · dsimp only
      split <;> simp [e₁]

/-! ### Configuration accesses (R276, R279) -/

theorem execCfgReadResponse_keepsJobs : KeepsJobs execCfgReadResponse :=
  .onHostComp fun e h => by
    refine HostSide.onMsg_comp _ _ _ fun g p => ?_
    dsimp only
    split
    · rfl
    · split
      · rfl
      · split <;> simp

theorem execCfgResponseTimeout_keepsJobs : KeepsJobs execCfgResponseTimeout :=
  .onHostComp fun e h => by
    split <;> simp

/-! ### A step boundary (R374) -/

theorem execServingStepEnd_keepsJobs (p : Nat) : KeepsJobs (execServingStepEnd p) :=
  .onDataSame fun e h => by
    unfold HostSide.SameOwners
    dsimp only
    (repeat' split) <;> simp

theorem execServingPoll_keepsJobs (p : Nat) : KeepsJobs (execServingPoll p) :=
  .onDataSame fun e h => by
    unfold HostSide.SameOwners
    (repeat' split) <;> simp

theorem execSrvEnable_keepsJobs (p : Nat) (v : Word) : KeepsJobs (execSrvEnable p v) :=
  .onBarSame fun e h => by
    unfold HostSide.SameOwners
    (repeat' split) <;> simp

/-! ### Writes -/

theorem execRegisterWrite_keepsJobs (a : Nat) (v : Word) : KeepsJobs (execRegisterWrite a v) :=
  .onBarSame fun e h => by
    unfold HostSide.SameOwners
    split <;> simp

/-! ### Reads -/

theorem execRegisterReadClear_keepsJobs (a : Nat) : KeepsJobs (execRegisterReadClear a) :=
  .onHostComp fun e h => by simp

theorem execLoReadLatch_keepsJobs (a : Nat) : KeepsJobs (execLoReadLatch a) :=
  .onHostComp fun e h => by simp

theorem execDbgCmd_keepsJobs (op v : Nat) : KeepsJobs (execDbgCmd op v) :=
  .onHostComp fun e h => by simp

theorem execDbgAddr_keepsJobs (v : Nat) : KeepsJobs (execDbgAddr v) :=
  .onHostComp fun e h => by simp

theorem execDbgData_keepsJobs (v : Nat) : KeepsJobs (execDbgData v) :=
  .onHostComp fun e h => by simp

end Sys2Proof.Machine

/-! O5: every step keeps every job of the table legal (R20, R326, R358). -/

namespace Sys2Proof.Machine
open Sys2Proof

/-- A command of the data plane. -/
theorem exec_data_keepsJobs (c : Instr) (h : c.plane = .data) : KeepsJobs (exec c) := by
  cases c with
    | commitPointApply => exact execCommitPointApply_keepsJobs | pipeTurnStart => exact execPipeTurnStart_keepsJobs _
    | pixLineProcessed => exact execPixLineProcessed_keepsJobs _ _ _ | pipeFreeNotice => exact execPipeFreeNotice_keepsJobs _ _
    | nop => exact execNop_keepsJobs _ | load => exact execLoad_keepsJobs _ | store => exact execStore_keepsJobs _ _
    | mma => exact execMma_keepsJobs _ _ | drain => exact execDrain_keepsJobs _ _ | vop => exact execVop_keepsJobs _ _
    | vlut => exact execVlut_keepsJobs _ _ | vsort => exact execVsort_keepsJobs _ _ | window => exact execWindow_keepsJobs _ _
    | wait => exact execWait_keepsJobs _ | waitSatisfied => exact execWaitSatisfied_keepsJobs _ | tset => exact execTset_keepsJobs _
    | call => exact execCall_keepsJobs _ _ | endList => exact execEndList_keepsJobs _ | yieldPoint => exact execYieldPoint_keepsJobs _ _
    | verdict => exact execVerdict_keepsJobs _ _ | listTileFetch => exact execListTileFetch_keepsJobs _ _
    | commandComplete => exact execCommandComplete_keepsJobs _ _ _
    | transferComplete => exact execTransferComplete_keepsJobs _ _ _ _ _ _ _ | stripePost => exact execStripePost_keepsJobs _ _
    | stripeRelease => exact execStripeRelease_keepsJobs _ _ _ | rdyTokSignal => exact execRdyTokSignal_keepsJobs _ _
    | freeTokSignal => exact execFreeTokSignal_keepsJobs _ _ | openSlotArbitrate => exact execOpenSlotArbitrate_keepsJobs _ _ _
    | remoteAccessRx => exact execRemoteAccessRx_keepsJobs _ _ _ _ _ _ _ _ | recipeHalt => exact execRecipeHalt_keepsJobs
    | spareRestart => exact execSpareRestart_keepsJobs _ | undecidedRelease => exact execUndecidedRelease_keepsJobs _
    | verdictRelease => exact execVerdictRelease_keepsJobs _ | recipeLoad => exact execRecipeLoad_keepsJobs _
    | recipeCommit => exact execRecipeCommit_keepsJobs _ | recipeDisarm => exact execRecipeDisarm_keepsJobs _
    | recipeDrop => exact execRecipeDrop_keepsJobs _ | jobRun => exact execJobRun_keepsJobs _ _
    | jobCancel => exact execJobCancel_keepsJobs _ | textSample => exact execTextSample_keepsJobs _
    | copy => exact execCopy_keepsJobs _ _ _ _ _ | fill => exact execFill_keepsJobs _ _ | ethTx => exact execEthTx_keepsJobs _
    | ethRxPost => exact execEthRxPost_keepsJobs _ | sliceBoundary => exact execSliceBoundary_keepsJobs _
    | preemptionComplete => exact execPreemptionComplete_keepsJobs _ | preLimitExpired => exact execPreLimitExpired_keepsJobs _
    | contextSaveDone => exact execContextSaveDone_keepsJobs _ _ _ _
    | contextRestoreDone => exact execContextRestoreDone_keepsJobs _ _ _ _
    | oxbowGranuleLand => exact execOxbowGranuleLand_keepsJobs _ _ _ _ _ | oxbowDrainDone => exact execOxbowDrainDone_keepsJobs _ _
    | jobEnd => exact execJobEnd_keepsJobs _ | servingStepEnd => exact execServingStepEnd_keepsJobs _
    | servingPoll => exact execServingPoll_keepsJobs _ | hdwAdmit => exact execHdwAdmit_keepsJobs
    | hdwLaneStart => exact execHdwLaneStart_keepsJobs | hdwDecodeDone => exact execHdwDecodeDone_keepsJobs _ _
    | hdwEmerge => exact execHdwEmerge_keepsJobs | hdwStopped => exact execHdwStopped_keepsJobs
    | hdwBatchTimeout => exact execHdwBatchTimeout_keepsJobs | hdwBatchWrite => exact execHdwBatchWrite_keepsJobs
    | hdwBatchFree => exact execHdwBatchFree_keepsJobs _ | traceWrite => exact execTraceWrite_keepsJobs _
    | clusterSleepEntry => exact execClusterSleepEntry_keepsJobs _ _ | clusterWake => exact execClusterWake_keepsJobs _
    | wedgeDetect => exact execWedgeDetect_keepsJobs _
    | barrierFrameLaunch toHost | barrierFrameRx toHost | barrierSyncLoss toHost => cases toHost <;> cases h | _ => cases h

/-- A BAR write. -/
theorem exec_bar_keepsJobs (c : Instr) (h : c.plane = .bar) : KeepsJobs (exec c) := by
  cases c with
    | registerWrite => exact execRegisterWrite_keepsJobs _ _ | laneInjTx => exact execLaneInjTx_keepsJobs _
    | laneInjRx => exact execLaneInjRx_keepsJobs _ | laneCntClr => exact execLaneCntClr_keepsJobs _
    | cxpLinkEnable => exact execCxpLinkEnable_keepsJobs _ _ | cxpLinkDisable => exact execCxpLinkDisable_keepsJobs _ _
    | cxpRestart => exact execCxpRestart_keepsJobs _ | cxpCcGo => exact execCxpCcGo_keepsJobs _ _
    | cxpEvtPop => exact execCxpEvtPop_keepsJobs _ | iflEnable => exact execIflEnable_keepsJobs _ _
    | iflDisable => exact execIflDisable_keepsJobs _ _ | iflRetrain => exact execIflRetrain_keepsJobs _
    | ctxCommit => exact execCtxCommit_keepsJobs _ | ctxAbort => exact execCtxAbort_keepsJobs _
    | pipeCommit => exact execPipeCommit_keepsJobs _ | ctxEnable => exact execCtxEnable_keepsJobs _ _
    | ctxDisable => exact execCtxDisable_keepsJobs _ _ | setGo => exact execSetGo_keepsJobs _ _
    | coreClearErr => exact execCoreClearErr_keepsJobs _ | lscEnable => exact execLscEnable_keepsJobs _ _ _
    | lscDisable => exact execLscDisable_keepsJobs _ _ _ | sluCommit => exact execSluCommit_keepsJobs _ _
    | memSluCommit => exact execMemSluCommit_keepsJobs _ _ | sluAbort => exact execSluAbort_keepsJobs _
    | detFenceGo => exact execDetFenceGo_keepsJobs _ | barRelease => exact execBarRelease_keepsJobs
    | tbRateWrite => exact execTbRateWrite_keepsJobs _ _ | tbSet => exact execTbSet_keepsJobs _ | tbStep => exact execTbStep_keepsJobs _
    | timeSnap => exact execTimeSnap_keepsJobs | timeCopy => exact execTimeCopy_keepsJobs _
    | ethTxtsPop => exact execEthTxtsPop_keepsJobs _ | sqDoorbell => exact execSqDoorbell_keepsJobs _ _
    | cqHeadDoorbell => exact execCqHeadDoorbell_keepsJobs _ _ | rrHeadDoorbell => exact execRrHeadDoorbell_keepsJobs _ _
    | sqEnable => exact execSqEnable_keepsJobs _ _ | sqRestart => exact execSqRestart_keepsJobs _
    | sqReset => exact execSqReset_keepsJobs _ _ | cqEnable => exact execCqEnable_keepsJobs _ _
    | rrEnable => exact execRrEnable_keepsJobs _ _ | msixUnmask => exact execMsixUnmask_keepsJobs _
    | srvEnable => exact execSrvEnable_keepsJobs _ _ | hdwDictCommit => exact execHdwDictCommit_keepsJobs _
    | gaugeSnap => exact execGaugeSnap_keepsJobs | gaugeClearAll => exact execGaugeClearAll_keepsJobs
    | counterConfigWrite => exact execCounterConfigWrite_keepsJobs _ _ | trcMark => exact execTrcMark_keepsJobs _
    | clkMonGo => exact execClkMonGo_keepsJobs _ | pmResume => exact execPmResume_keepsJobs
    | barrierFrameLaunch toHost | barrierFrameRx toHost | barrierSyncLoss toHost => cases toHost <;> cases h | _ => cases h

/-- Any other command of the host side. -/
theorem exec_host_keepsJobs (c : Instr) (h : c.plane = .host) : KeepsJobs (exec c) := by
  cases c with
    | registerReadClear => exact execRegisterReadClear_keepsJobs _ | loReadLatch => exact execLoReadLatch_keepsJobs _
    | lanePeriodicInject => exact execLanePeriodicInject_keepsJobs _ | eqClamp => exact execEqClamp_keepsJobs _ _
    | prbsLock => exact execPrbsLock_keepsJobs _ _ _ | prbsUnlock => exact execPrbsUnlock_keepsJobs _ _ _ _
    | cxpMasterLock => exact execCxpMasterLock_keepsJobs _ | cxpDiscTimeout => exact execCxpDiscTimeout_keepsJobs _
    | cxpBootstrapReadDone => exact execCxpBootstrapReadDone_keepsJobs _ _ _ _ _ _ | cxpConfigAck => exact execCxpConfigAck_keepsJobs _
    | cxpSwitchLocked => exact execCxpSwitchLocked_keepsJobs _ | cxpSwitchTimeout => exact execCxpSwitchTimeout_keepsJobs _
    | cxpLockLoss => exact execCxpLockLoss_keepsJobs _ | cxpPowerFault => exact execCxpPowerFault_keepsJobs _
    | cxpCcReply => exact execCxpCcReply_keepsJobs _ _ _ | cxpCcTimeout => exact execCxpCcTimeout_keepsJobs _
    | cxpStreamPacket => exact execCxpStreamPacket_keepsJobs _ _ _ _ _ _ | cxpHeartbeatRx => exact execCxpHeartbeatRx_keepsJobs _ _
    | cxpHbTimeout => exact execCxpHbTimeout_keepsJobs _ | cxpEventPacket => exact execCxpEventPacket_keepsJobs _ _
    | iflTxStart => exact execIflTxStart_keepsJobs _ | iflMarkerRx => exact execIflMarkerRx_keepsJobs _ _ _ _
    | iflMarkerMissing => exact execIflMarkerMissing_keepsJobs _ _ | iflFlitRx => exact execIflFlitRx_keepsJobs _ _ _
    | iflAckTimeout => exact execIflAckTimeout_keepsJobs _ | iflCreditSend => exact execIflCreditSend_keepsJobs _
    | lineTick => exact execLineTick_keepsJobs _ | pixLineComplete => exact execPixLineComplete_keepsJobs _ _
    | pixTickTimeout => exact execPixTickTimeout_keepsJobs _ | settingsAck => exact execSettingsAck_keepsJobs _ _
    | sluicePeriodBoundary => exact execSluicePeriodBoundary_keepsJobs _ _ | sluiceSlot => exact execSluiceSlot_keepsJobs _ _ _ _ _
    | emergencyRequest => exact execEmergencyRequest_keepsJobs _ _ | hbmInitDone => exact execHbmInitDone_keepsJobs
    | coreFence => exact execCoreFence_keepsJobs _ _ | corePollTimeout => exact execCorePollTimeout_keepsJobs _
    | spareSelfTest => exact execSpareSelfTest_keepsJobs _ _ | lineDigestDone => exact execLineDigestDone_keepsJobs _
    | sealStart => exact execSealStart_keepsJobs _ | sealSigned => exact execSealSigned_keepsJobs _
    | gstopStop => exact execGstopStop_keepsJobs _ | gstopTakeEffect => exact execGstopTakeEffect_keepsJobs
    | gstopRelease => exact execGstopRelease_keepsJobs _ | gstopResume => exact execGstopResume_keepsJobs
    | fieldHeartbeat => exact execFieldHeartbeat_keepsJobs | encSnapshot => exact execEncSnapshot_keepsJobs
    | diChange => exact execDiChange_keepsJobs | ejectReport => exact execEjectReport_keepsJobs | fault => exact execFault_keepsJobs
    | cfgReadResponse => exact execCfgReadResponse_keepsJobs | cfgResponseTimeout => exact execCfgResponseTimeout_keepsJobs
    | fieldLoss => exact execFieldLoss_keepsJobs | cmpFire => exact execCmpFire_keepsJobs _
    | ppsPulseEnd => exact execPpsPulseEnd_keepsJobs | timeCapture => exact execTimeCapture_keepsJobs _
    | ethRxFrame => exact execEthRxFrame_keepsJobs _ _ _ | ethTxDone => exact execEthTxDone_keepsJobs _
    | tb1SyncSend => exact execTb1SyncSend_keepsJobs | tb1SyncRx => exact execTb1SyncRx_keepsJobs _
    | tb1DelayReqRx => exact execTb1DelayReqRx_keepsJobs _ | tb1DelayRespRx => exact execTb1DelayRespRx_keepsJobs _
    | tb1Holdover => exact execTb1Holdover_keepsJobs | hostAbiWrite => exact execHostAbiWrite_keepsJobs _
    | sqResetDone => exact execSqResetDone_keepsJobs _ | descriptorFetch => exact execDescriptorFetch_keepsJobs _ _
    | completionWrite => exact execCompletionWrite_keepsJobs _ | imagePiece => exact execImagePiece_keepsJobs _ _
    | powerTol => exact execPowerTol_keepsJobs _ | partitionSet => exact execPartitionSet_keepsJobs _
    | updateBegin => exact execUpdateBegin_keepsJobs _ _ | updateAbort => exact execUpdateAbort_keepsJobs _ _
    | updateActivate => exact execUpdateActivate_keepsJobs _ _ | updateConfirm => exact execUpdateConfirm_keepsJobs _ _
    | updateRevert => exact execUpdateRevert_keepsJobs _ _ | recoveryWrite => exact execRecoveryWrite_keepsJobs _ _
    | settingsRead => exact execSettingsRead_keepsJobs _ _ | settingsWrite => exact execSettingsWrite_keepsJobs _ _
    | settingsErase => exact execSettingsErase_keepsJobs _ _ | certGet => exact execCertGet_keepsJobs _ _
    | pubkeyGet => exact execPubkeyGet_keepsJobs _ | quoteSigned => exact execQuoteSigned_keepsJobs
    | resultRecordPublish => exact execResultRecordPublish_keepsJobs _
    | busMasterEnableChange => exact execBusMasterEnableChange_keepsJobs _ | statePageUpdate => exact execStatePageUpdate_keepsJobs
    | msixVectorTimer => exact execMsixVectorTimer_keepsJobs _ | hdwDictBuildDone => exact execHdwDictBuildDone_keepsJobs
    | gaugeSnapTake => exact execGaugeSnapTake_keepsJobs | traceRecord => exact execTraceRecord_keepsJobs _
    | traceBucketRefill => exact execTraceBucketRefill_keepsJobs | traceSampleTimer => exact execTraceSampleTimer_keepsJobs
    | iflEventSend => exact execIflEventSend_keepsJobs _ | selfTestDone => exact execSelfTestDone_keepsJobs _ _
    | bootCandidateSelect => exact execBootCandidateSelect_keepsJobs | deviceReady => exact execDeviceReady_keepsJobs
    | clkMonDone => exact execClkMonDone_keepsJobs _ | dbgCmd => exact execDbgCmd_keepsJobs _ _ | dbgAddr => exact execDbgAddr_keepsJobs _
    | dbgData => exact execDbgData_keepsJobs _ | powerCapWindow => exact execPowerCapWindow_keepsJobs _
    | thermalSample => exact execThermalSample_keepsJobs _ _ _ _ _ _ | thermalThrottleStep => exact execThermalThrottleStep_keepsJobs
    | computeDieTrip => exact execComputeDieTrip_keepsJobs _ | voltClampWindow => exact execVoltClampWindow_keepsJobs
    | avsVoltageWrite => exact execAvsVoltageWrite_keepsJobs _ _ _ | avsCurrentRead => exact execAvsCurrentRead_keepsJobs _ _ _ _
    | undecWindow => exact execUndecWindow_keepsJobs | fatalError => exact execFatalError_keepsJobs _ _ _
    | laneCdrLockChange => exact execLaneCdrLockChange_keepsJobs _ _ _ _ _ _ | ethLinkChange => exact execEthLinkChange_keepsJobs _ _ _
    | stackTrainingFail => exact execStackTrainingFail_keepsJobs _ | settingsSave => exact execSettingsSave_keepsJobs _ _
    | quote => exact execQuote_keepsJobs _ | barrierFrameLaunch => exact execBarrierFrameLaunch_keepsJobs _ _ _
    | barrierFrameRx => exact execBarrierFrameRx_keepsJobs _ _ | barrierSyncLoss => exact execBarrierSyncLoss_keepsJobs _ | _ => cases h

theorem State.resetBy_keepsJobs (cause : Nat) : KeepsJobs fun s => s.resetBy cause := by
  intro s t ht _
  obtain rfl := Host.Outcome.next.inj ht
  refine .of_nil ?_
  dsimp only
  split
  · rw [HostSide.set_comp, HostSide.set_comp, HostSide.hostReset_jobs]
  · exact HostSide.hostReset_jobs ..

theorem execClkRstCmd_keepsJobs (v : Word) : KeepsJobs (execClkRstCmd v) := by
  intro s t ht hj
  unfold execClkRstCmd at ht
  split at ht
  · exact State.resetBy_keepsJobs 7 s t ht hj
  · cases ht
    exact hj

/-- The writes of BAR0 words keep every job legal: the commands that stand in them do. -/
theorem State.barCommands.keepsJobs {s t : State} (h : s.barCommands t) (hs : s.host.jobsLegal) : t.host.jobsLegal := by
  refine h.keeps (P := fun u => u.host.jobsLegal) (fun c u w hc hu hw => ?_) hs
  obtain hp | hp | ⟨v, rfl⟩ := hc
  · exact exec_bar_keepsJobs c hp u w hw hu
  · exact exec_host_keepsJobs c hp u w hw hu
  · exact execClkRstCmd_keepsJobs v u w hw hu

theorem State.loadField_comp (s : State) (n : Nat) : (s.loadField n).host.comp = s.host.comp := by
  unfold State.loadField
  dsimp only
  split
  · rfl
  · split
    · exact HostSide.set_comp ..
    · split
      · exact HostSide.set_comp ..
      · exact (HostSide.settle_comp _).trans (HostSide.firmwareUp_comp ..)

theorem execHostResetRelease_keepsJobs : KeepsJobs execHostResetRelease := by
  intro s t ht hj
  obtain rfl := Host.Outcome.next.inj ht
  split
  · exact hj
  · refine hj.same (.of_comp ?_)
    change ((s.host.lockPlls s.variant).readPuf).comp = s.host.comp
    rw [HostSide.readPuf_comp, HostSide.lockPlls_comp]

theorem HostSide.jobsLegal.installParts {h : HostSide} (hj : h.jobsLegal) (n : Nat) : (h.installParts n).jobsLegal :=
  (h.installParts_jobs n).elim (fun e => .of_nil e) fun e => hj.same (.of_comp e)

theorem execFirmwareStarted_keepsJobs : KeepsJobs execFirmwareStarted := by
  intro s t ht hj
  obtain rfl := Host.Outcome.next.inj ht
  split
  · exact hj
  next n _ =>
    have hparts := hj.installParts n
    split
    · exact hj
    · split
      · dsimp only
        exact hparts
      · exact hj.same (.of_comp (s.loadField_comp n))
      · exact hj.same (.of_comp (s.loadField_comp n))
      · exact hj

theorem execClusterWakeDone_keepsJobs (k : Nat) : KeepsJobs (execClusterWakeDone k) := by
  intro s t ht hj
  obtain rfl := Host.Outcome.next.inj ht
  split
  · exact hj
  · have ha : (s.host.awake k).jobsLegal := hj.same (.of_comp (HostSide.awake_comp ..))
    extract_lets g mine pm g₂
    have h₂ : g₂.jobsLegal := ha
    exact (State.busWrites_commands _ _ _ _).keepsJobs h₂.settle

theorem execDbgAccessDone_keepsJobs : KeepsJobs execDbgAccessDone := by
  intro s t ht hj
  obtain rfl := Host.Outcome.next.inj ht
  have hbus := (s.busWrite_commands (dbgAddress s.host.dbg.addr) s.host.dbg.stage).keepsJobs hj
  dsimp only
  split
  · exact hj
  · split
    · split
      · exact hj.same (.of_comp (HostSide.dbgDone_comp ..))
      · exact hj
    · split
      · exact hbus.same (.of_comp (HostSide.dbgDone_comp ..))
      · split
        · split
          · exact hj
          · exact hj.same (.of_comp (HostSide.dbgDone_comp ..))
        · exact (hj.same (.of_comp (HostSide.busRead_comp ..))).settle.same (.of_comp (HostSide.dbgDone_comp ..))

/-- The commands with rules of their own: resets, start-up, and those that write BAR0 words. -/
theorem exec_boot_keepsJobs (c : Instr) (h : c.plane = .boot) : KeepsJobs (exec c) := by
  cases c with
  | resetPower prog =>
    intro s t ht hj
    exact State.resetBy_keepsJobs 1 _ t ht (hj.same (.of_comp (HostSide.setFlash_comp ..)))
  | resetPin => exact State.resetBy_keepsJobs 2
  | resetPerst => exact State.resetBy_keepsJobs 3
  | rootClockLost => exact State.resetBy_keepsJobs 5
  | clkRstCmd v => exact execClkRstCmd_keepsJobs v
  | flr =>
    intro s t ht hj
    change execFlr s = _ at ht
    unfold execFlr at ht
    split at ht
    · exact State.resetBy_keepsJobs 4 s t ht hj
    · cases ht
      exact hj
  | wdogExpire =>
    intro s t ht hj
    change execWdogExpire s = _ at ht
    unfold execWdogExpire at ht
    split at ht
    · exact State.resetBy_keepsJobs 6 s t ht hj
    · cases ht
      exact hj
  | hostResetRelease => exact execHostResetRelease_keepsJobs
  | firmwareStarted => exact execFirmwareStarted_keepsJobs
  | clusterWakeDone k => exact execClusterWakeDone_keepsJobs k
  | dbgAccessDone => exact execDbgAccessDone_keepsJobs
  | tapReset =>
    intro s t ht hj
    obtain rfl := Host.Outcome.next.inj ht
    exact hj
  | barrierFrameLaunch toHost | barrierFrameRx toHost | barrierSyncLoss toHost => cases toHost <;> cases h
  | _ => cases h

theorem exec_keepsJobs (c : Instr) : KeepsJobs (exec c) := by
  rcases hp : c.plane
  case data => exact exec_data_keepsJobs c hp
  case bar => exact exec_bar_keepsJobs c hp
  case host => exact exec_host_keepsJobs c hp
  case boot => exact exec_boot_keepsJobs c hp
  case field =>
    obtain ⟨f, hf⟩ := exec_onField c hp
    rw [show exec c = fun s => s.onField f from funext hf]
    exact .onField f

/-- A step without a command passes cycles alone (R45). -/
theorem State.idle_jobsLegal {s : State} (hj : s.host.jobsLegal) : s.idle.host.jobsLegal := by
  unfold State.idle
  dsimp only
  split
  · exact hj
  · exact (hj.same (.of_comp (HostSide.idle_comp _))).settle

/-- Settles O5: each command through the frame of its plane; jobs come with the checks of JOB_RUN and keep partition, client and cores. -/
theorem stepKeepsJobsLegal : Obligations.StepKeepsJobsLegal := by
  unfold Obligations.StepKeepsJobsLegal
  intro s t hst hj
  rw [State.jobsOk_iff] at hj ⊢
  cases hp : s.pending with
  | nil =>
    unfold step at hst
    rw [hp] at hst
    cases hst
    exact State.idle_jobsLegal hj
  | cons c rest =>
    unfold step at hst
    rw [hp] at hst
    exact exec_keepsJobs c { s with pending := rest } t hst hj

end Sys2Proof.Machine

/-! SUPPORT. The coding of an Ifepen lane and of a flit (R67 to R71): stuffing and its removal, scrambling, words and bits, and the fields
and the CRC of a flit. -/

namespace Sys2Proof

/-! ### Words and bits (R66) -/

@[simp] theorem bitsNat_wordBits (n w : Nat) : bitsNat (wordBits n w) = w % 2 ^ n := by
  induction n generalizing w with
  | zero => simp [wordBits, bitsNat, Nat.mod_one]
  | succ n ih =>
    have hb : b2n (w % 2 == 1) = w % 2 := by rcases Nat.mod_two_eq_zero_or_one w with h | h <;> simp [h, b2n]
    rw [wordBits, bitsNat, ih, hb, pow_succ', Nat.mod_mul]

@[simp] theorem wordBits_length (n w : Nat) : (wordBits n w).length = n := by
  induction n generalizing w with
  | zero => rfl
  | succ n ih => simp [wordBits, ih]

/-! ### Stuffing (R69) -/

@[simp] theorem Run.push_last (r : Run) (b : Bool) : (r.push b).last = b := by
  unfold Run.push
  split
  · next h => simpa using (Bool.and_eq_true_iff.mp h).2
  · rfl

theorem Run.push_len_le (r : Run) (b : Bool) : (r.push b).len ≤ r.len + 1 := by
  unfold Run.push
  split <;> simp

/-- A receiver takes out exactly what was stuffed, meets no violation and ends with the sender's run (R69). -/
theorem unstuff_stuff (r : Run) (l : List Bool) (hr : r.len < 40) :
    unstuff r (stuff r l).1 = (l, 0, (stuff r l).2) ∧ (stuff r l).2.len < 40 := by
  induction l generalizing r with
  | nil => exact ⟨rfl, hr⟩
  | cons b t ih =>
    have hle := r.push_len_le b
    by_cases h : (r.push b).len = 40
    · obtain ⟨ih₁, ih₂⟩ := ih { last := !b, len := 1 } (by simp)
      simp only [stuff, if_pos h, unstuff, if_neg (Nat.ne_of_lt hr), ih₁, Run.push_last]
      exact ⟨by cases b <;> rfl, ih₂⟩
    · obtain ⟨ih₁, ih₂⟩ := ih (r.push b) (by omega)
      simp only [stuff, if_neg h, unstuff, if_neg (Nat.ne_of_lt hr), ih₁]
      exact ⟨trivial, ih₂⟩

/-! ### Scrambling (R68) -/

/-- Descrambling with the sender's sequence undoes scrambling (R68). -/
theorem scrambleBits_scrambleBits (st : Nat) (l : List Bool) :
    scrambleBits st (scrambleBits st l).1 = (l, (scrambleBits st l).2) := by
  induction l generalizing st with
  | nil => rfl
  | cons d t ih => simp [scrambleBits, ih]

end Sys2Proof

namespace Sys2Proof.Machine
open Sys2Proof

/-! ### A flit on two lanes (R70) -/

theorem flitLane_lt (f i : Nat) : flitLane f i < 2 ^ 128 := by
  unfold flitLane
  omega

theorem flitOfLanes_flitLane (f : Nat) (hf : f < 2 ^ 256) : flitOfLanes (flitLane f 0) (flitLane f 1) = f := by
  unfold flitOfLanes flitLane
  norm_num
  omega

/-- The words of a flit on one lane arrive as they were sent (R68 to R70). -/
theorem lane_roundTrip (sc : Nat) (r : Run) (hr : r.len < 40) (n w : Nat) :
    bitsNat (scrambleBits sc (unstuff r (stuff r (scrambleBits sc (wordBits n w)).1).1).1).1 = w % 2 ^ n := by
  rw [(unstuff_stuff r _ hr).1, scrambleBits_scrambleBits, bitsNat_wordBits]

/-! ### The fields of a flit (R70, R71) -/

/-- Bits 223 to 0 of a flit: what its CRC covers (R71). -/
def flitBody (type seq ack vc payload : Nat) : Nat :=
  1 + type % 16 * 2 ^ 4 + seq % 1024 * 2 ^ 8 + ack % 1024 * 2 ^ 18 + vc % 4 * 2 ^ 28 + payload % 2 ^ 192 * 2 ^ 32

theorem flitBody_lt (type seq ack vc payload : Nat) : flitBody type seq ack vc payload < 2 ^ 224 := by
  unfold flitBody
  omega

theorem flitOf_eq (type seq ack vc payload : Nat) :
    flitOf type seq ack vc payload
      = flitBody type seq ack vc payload + (crc32c (toLE 28 (flitBody type seq ack vc payload))).toNat * 2 ^ 224 := rfl

theorem flitGood_flitOf (type seq ack vc payload : Nat) : flitGood (flitOf type seq ack vc payload) = true := by
  rw [flitOf_eq]
  have hb := flitBody_lt type seq ack vc payload
  generalize flitBody type seq ack vc payload = b at hb
  have hc := (crc32c (toLE 28 b)).isLt
  have hlow : (b + (crc32c (toLE 28 b)).toNat * 2 ^ 224) % 2 ^ 224 = b := by omega
  unfold flitGood
  rw [hlow, beq_iff_eq]
  omega

theorem flitOf_lt (type seq ack vc payload : Nat) : flitOf type seq ack vc payload < 2 ^ 256 := by
  rw [flitOf_eq]
  have hb := flitBody_lt type seq ack vc payload
  generalize flitBody type seq ack vc payload = b at hb
  have hc := (crc32c (toLE 28 b)).isLt
  omega

/-- The fields of a flit that fit their bits read back as they were given (R70). -/
theorem flitOf_fields (type seq ack vc payload : Nat) (ht : type < 16) (hs : seq < 1024) (ha : ack < 1024) (hv : vc < 4)
    (hp : payload < 2 ^ 192) :
    flitType (flitOf type seq ack vc payload) = type ∧ flitSeq (flitOf type seq ack vc payload) = seq
      ∧ flitAck (flitOf type seq ack vc payload) = ack ∧ flitVc (flitOf type seq ack vc payload) = vc
      ∧ flitPayload (flitOf type seq ack vc payload) = payload ∧ flitFormat (flitOf type seq ack vc payload) = 1 := by
  rw [flitOf_eq]
  generalize (crc32c _).toNat = c
  unfold flitBody flitType flitSeq flitAck flitVc flitPayload flitFormat
  refine ⟨?_, ?_, ?_, ?_, ?_, ?_⟩ <;> omega

/-! ### Markers (R67) -/

/-- A marker that is sent is valid and names its lane, PARTNER_SEEN and SKIP_COUNT (R67). -/
theorem markerOf_fields (i skips : Nat) (seen : Bool) (hi : i < 2) (hs : skips < 3) :
    markerValid (markerOf i seen skips) = true ∧ bit (markerOf i seen skips) 0 = seen ∧ markerOf i seen skips / 2 % 2 = i
      ∧ markerOf i seen skips / 4 % 4 = skips := by
  revert seen
  interval_cases i <;> interval_cases skips <;> decide

theorem markerOf_lt (i skips : Nat) (seen : Bool) : markerOf i seen skips < 2 ^ 64 := by
  unfold markerOf
  have := b2n_le seen
  dsimp only
  omega

/-- Settles O14: the CRC and the fields of a flit by arithmetic, the coding of the lanes by induction over the stream. -/
theorem flitRoundTrip : Obligations.FlitRoundTrip := by
  unfold Obligations.FlitRoundTrip
  refine ⟨?flit, ?stuffing, scrambleBits_scrambleBits, ?lanes, fun i skips seen hi hs => markerOf_fields i skips seen hi hs⟩
  case flit =>
    intro type seq ack vc payload ht hs ha hv hp
    obtain ⟨htype, hseq, hack, hvc, hpayload, hformat⟩ := flitOf_fields type seq ack vc payload ht hs ha hv hp
    exact ⟨flitGood_flitOf .., htype, hseq, hack, hvc, hpayload, hformat, flitOf_lt ..⟩
  case stuffing => exact fun r l hr => unstuff_stuff r l hr
  case lanes =>
    intro f sc0 sc1 r0 r1 hf h0 h1
    rw [lane_roundTrip sc0 r0 h0, lane_roundTrip sc1 r1 h1, Nat.mod_eq_of_lt (flitLane_lt f 0), Nat.mod_eq_of_lt (flitLane_lt f 1)]
    exact flitOfLanes_flitLane f hf

end Sys2Proof.Machine

/-! SUPPORT. Fields that repeat with a stride, and what writes of registers leave (R4 to R6): the rules that the lanes, the camera links and
the Ifepen ports share. -/

namespace Sys2Proof

/-- A write of `f` fits its word and leaves `g`. -/
def RF.leaves (f g : RF) : Prop := f.fits ∧ f.apart g

/-- The same field of every block of registers: whether two of them share bits does not depend on the block. -/
theorem RF.leaves_at {f g : Nat → RF} (s : Nat) (hf : ∀ i, f i = ⟨(f 0).addr + i * s, (f 0).lo, (f 0).w⟩)
    (hg : ∀ i, g i = ⟨(g 0).addr + i * s, (g 0).lo, (g 0).w⟩)
    (h : (f 0).lo + (f 0).w ≤ 32
      ∧ ((f 0).addr ≠ (g 0).addr ∨ (f 0).lo + (f 0).w ≤ (g 0).lo ∨ (g 0).lo + (g 0).w ≤ (f 0).lo)) (i : Nat) :
    (f i).leaves (g i) := by
  rw [hf i, hg i]
  unfold RF.leaves RF.apart RF.fits
  dsimp only
  omega

theorem RF.leaves_of_addr {f g : RF} (hf : f.fits) (ha : f.addr ≠ g.addr) : f.leaves g := ⟨hf, .inl ha⟩

/-- A write under access codes leaves every other word (R5). -/
theorem RegFile.word_accWrite_ne (rs : RegFile) {a b : Nat} (v : Word) (own : Bool) (hb : b ≠ a) :
    (rs.accWrite a v own).word b = rs.word b := by
  unfold RegFile.accWrite
  rw [RegFile.word_setWord, if_neg hb]

theorem bit_eq_testBit (v i : Nat) : bit v i = v.testBit i := by
  rw [Nat.testBit_eq_decide_div_mod_eq]
  rfl

@[simp] theorem bit_or (v m i : Nat) : bit (v ||| m) i = (bit v i || bit m i) := by
  simp only [bit_eq_testBit, Nat.testBit_or]

theorem bit_mod_two_pow (v w i : Nat) (hi : i < w) : bit (v % 2 ^ w) i = bit v i := by
  simp only [bit_eq_testBit, Nat.testBit_mod_two_pow, hi, decide_true, Bool.true_and]

end Sys2Proof

namespace Sys2Proof.Machine
open Sys2Proof

/-! ### Reading a field after writes -/

theorem HostSide.get_set_leaves (h : HostSide) (f g : RF) (v : Nat) (hd : f.leaves g) : (h.set f v).get g = h.get g :=
  HostSide.get_set_apart h f g v hd.1 hd.2

theorem HostSide.get_setBits_leaves (h : HostSide) (f g : RF) (m : Nat) (hd : f.leaves g) : (h.setBits f m).get g = h.get g :=
  HostSide.get_set_leaves h f g _ hd

theorem HostSide.get_inc_leaves (h : HostSide) (f g : RF) (n : Nat) (hd : f.leaves g) : (h.inc f n).get g = h.get g :=
  HostSide.get_set_leaves h f g _ hd

theorem HostSide.get_set2_leaves (h : HostSide) (lo hi g : RF) (v : Nat) (hlo : lo.leaves g) (hhi : hi.leaves g) :
    (h.set2 lo hi v).get g = h.get g :=
  (HostSide.get_set_leaves _ hi g _ hhi).trans (HostSide.get_set_leaves h lo g _ hlo)

/-- A value that fits its field reads back. -/
theorem HostSide.get_set_val (h : HostSide) (f : RF) (v : Nat) (hf : f.fits) (hv : v < 2 ^ f.w) : (h.set f v).get f = v :=
  (HostSide.get_set_self h f v hf).trans (Nat.mod_eq_of_lt hv)

/-- Sticky bits that an event sets show, and those set before stay (R6). -/
theorem HostSide.bit_get_setBits (h : HostSide) (f : RF) (m i : Nat) (hf : f.fits) (hi : i < f.w) :
    bit ((h.setBits f m).get f) i = (bit (h.get f) i || bit m i) := by
  rw [HostSide.setBits, HostSide.get_set_self _ _ _ hf, bit_mod_two_pow _ _ _ hi, bit_or]

/-- A saturating counter counts `n` (R6). -/
theorem HostSide.get_inc_self (h : HostSide) (f : RF) (n : Nat) (hf : f.fits) :
    (h.inc f n).get f = min (h.get f + n) (2 ^ f.w - 1) :=
  HostSide.get_set_val h f _ hf (by have := Nat.two_pow_pos f.w; omega)

/-- Settling leaves the fields of every word above HIF_IRQ_PENDING. -/
theorem HostSide.settle_get_high (h : HostSide) (f : RF) (hf : 0x14040 < f.addr) : h.settle.get f = h.get f :=
  HostSide.settle_get h f (Nat.ne_of_gt hf)

theorem HostSide.on_eq_true_iff (h : HostSide) (f : RF) : h.on f = true ↔ h.get f ≠ 0 := by simp [HostSide.on]
theorem HostSide.on_eq_false_iff (h : HostSide) (f : RF) : h.on f = false ↔ h.get f = 0 := by simp [HostSide.on]

theorem HostSide.on_congr {g h : HostSide} {f : RF} (e : g.get f = h.get f) : g.on f = h.on f := by simp only [HostSide.on, e]

/-! ### Words that writes leave -/

/-- A word written under the access codes of its fields (R5). -/
def HostSide.accWrite (h : HostSide) (a : Nat) (v : Word) (own : Bool) : HostSide := { h with regs := h.regs.accWrite a v own }

namespace HostSide.wordsBut

variable {g h : HostSide} {ws : List Nat}

theorem refl (h : HostSide) (ws : List Nat) : h.wordsBut h ws := fun _ _ _ => rfl

theorem trans {k : HostSide} (h₁ : g.wordsBut h ws) (h₂ : k.wordsBut g ws) : k.wordsBut h ws :=
  fun a ha hp => (h₂ a ha hp).trans (h₁ a ha hp)

theorem set (hg : g.wordsBut h ws) (f : RF) (v : Nat) (hf : f.addr ∈ ws) : (g.set f v).wordsBut h ws :=
  fun a ha hp => (HostSide.word_set_ne g f v a fun e => ha (e ▸ hf)).trans (hg a ha hp)

theorem setBits (hg : g.wordsBut h ws) (f : RF) (m : Nat) (hf : f.addr ∈ ws) : (g.setBits f m).wordsBut h ws := hg.set f _ hf

theorem set2 (hg : g.wordsBut h ws) (lo hi : RF) (v : Nat) (hlo : lo.addr ∈ ws) (hhi : hi.addr ∈ ws) : (g.set2 lo hi v).wordsBut h ws :=
  (hg.set lo _ hlo).set hi _ hhi

/-- A word written under the access codes of its fields. -/
theorem accWrite (hg : g.wordsBut h ws) (a : Nat) (v : Word) (own : Bool) (ha : a ∈ ws) :
    (g.accWrite a v own).wordsBut h ws :=
  fun b hb hp => (RegFile.word_accWrite_ne g.regs v own fun e : b = a => hb (e ▸ ha)).trans (hg b hb hp)

end HostSide.wordsBut

/-- A write under access codes leaves the fields of every other word. -/
theorem HostSide.get_accWrite_ne (h : HostSide) (a : Nat) (v : Word) (own : Bool) (f : RF) (ha : f.addr ≠ a) :
    (h.accWrite a v own).get f = h.get f :=
  HostSide.get_of_word _ _ _ (RegFile.word_accWrite_ne h.regs v own ha)

/-! ### The control channel of a camera link (R53, R63, R64) -/

section
variable (h : HostSide) (n : Nat)

theorem HostSide.ccDone_busy (result : Nat) : (h.ccDone n result).get (Reg.CXP_CC_STATUS.BUSY n) = 0 := by
  unfold HostSide.ccDone
  simp (disch := (refine RF.leaves_at 0x400 (fun _ => rfl) (fun _ => rfl) ?_ _; decide)) only
    [HostSide.get_set_leaves, HostSide.get_setBits_leaves]
  exact HostSide.get_set_val h _ 0 (Nat.le_of_ble_eq_true rfl) (Nat.le_of_ble_eq_true rfl)

theorem HostSide.ccDone_result (result : Nat) (hr : result < 8) : (h.ccDone n result).get (Reg.CXP_CC_STATUS.RESULT n) = result := by
  unfold HostSide.ccDone
  simp (disch := (refine RF.leaves_at 0x400 (fun _ => rfl) (fun _ => rfl) ?_ _; decide)) only [HostSide.get_setBits_leaves]
  exact HostSide.get_set_val _ _ result (Nat.le_of_ble_eq_true rfl) hr

theorem HostSide.ccDone_int (result : Nat) : bit ((h.ccDone n result).get (Reg.CXP_INT_STATUS n)) 1 = true := by
  unfold HostSide.ccDone
  rw [HostSide.bit_get_setBits _ _ _ 1 (Nat.le_of_ble_eq_true rfl) (Nat.le_of_ble_eq_true rfl)]
  exact Bool.or_true _

/-- A control command completes in its status word and its interrupt. -/
theorem HostSide.ccDone_wordsBut (result : Nat) (ws : List Nat) (hs : (Reg.CXP_CC_STATUS.BUSY n).addr ∈ ws)
    (hi : (Reg.CXP_INT_STATUS n).addr ∈ ws) : (h.ccDone n result).wordsBut h ws :=
  (((HostSide.wordsBut.refl h ws).set _ _ hs).set (Reg.CXP_CC_STATUS.RESULT n) _ hs).setBits _ _ hi

/-- The words of a read enter the buffer (R64). -/
def HostSide.fillBuf (h : HostSide) (n words : Nat) (data : List Byte) : HostSide :=
  forN words (fun i h => h.set (Reg.CXP_CC_BUF n i) (leNat ((data.drop (4 * i)).take 4))) h

variable {h n}

theorem HostSide.fillBuf_get {words : Nat} {data : List Byte} {i : Nat} (hi : i < words) :
    (h.fillBuf n words data).get (Reg.CXP_CC_BUF n i) = leNat ((data.drop (4 * i)).take 4) % 2 ^ 32 := by
  induction words with
  | zero => exact absurd hi (Nat.not_lt_zero i)
  | succ k ih =>
    rw [HostSide.fillBuf, forN_succ]
    by_cases hik : i = k
    · subst hik
      exact HostSide.get_set_self _ _ _ (Nat.le_of_ble_eq_true rfl)
    · rw [HostSide.get_set_leaves _ _ _ _ (RF.leaves_of_addr (Nat.le_of_ble_eq_true rfl) ?_)]
      · exact ih (by omega)
      · simp only [Reg.CXP_CC_BUF]
        omega

theorem HostSide.fillBuf_keeps (P : HostSide → Prop) (words : Nat) (data : List Byte) (h0 : P h)
    (hset : ∀ g i v, i < words → P g → P (g.set (Reg.CXP_CC_BUF n i) v)) : P (h.fillBuf n words data) :=
  forN_induct (fun _ g => P g) words _ h h0 fun i hi g hg => hset g i _ hi hg

/-- What a reply leaves behind: a good read's words in the buffer, and the command complete (R53, R64). -/
def HostSide.ccReply (h : HostSide) (n result : Nat) (data : List Byte) : HostSide :=
  (if result = 0 && !h.on (Reg.CXP_CC_CMD.WRITE n) then h.fillBuf n (min (h.get (Reg.CXP_CC_CMD.LEN n) + 1) 64) data else h).ccDone n result

theorem HostSide.ccReply_buf {data : List Byte} {i : Nat} (hw : h.on (Reg.CXP_CC_CMD.WRITE n) = false)
    (hi : i < 64) (hlen : i ≤ h.get (Reg.CXP_CC_CMD.LEN n)) :
    (h.ccReply n 0 data).get (Reg.CXP_CC_BUF n i) = leNat ((data.drop (4 * i)).take 4) % 2 ^ 32 := by
  have hbuf (g : HostSide) : (g.ccDone n 0).get (Reg.CXP_CC_BUF n i) = g.get (Reg.CXP_CC_BUF n i) := by
    refine HostSide.get_of_word _ _ _ (HostSide.ccDone_wordsBut g n 0 [(Reg.CXP_CC_STATUS.BUSY n).addr, (Reg.CXP_INT_STATUS n).addr]
      (by simp) (by simp) _ ?_ ?_)
    · simp only [Reg.CXP_CC_BUF, Reg.CXP_CC_STATUS.BUSY, Reg.CXP_INT_STATUS, List.mem_cons, List.not_mem_nil, or_false]
      omega
    · simp only [Reg.CXP_CC_BUF, Reg.HIF_IRQ_PENDING]
      omega
  rw [HostSide.ccReply, hbuf, if_pos (by simp [hw])]
  exact HostSide.fillBuf_get (lt_min (Nat.lt_succ_of_le hlen) hi)

/-- A reply touches registers alone: the status, the interrupt and the buffer. -/
theorem HostSide.ccReply_frame (h : HostSide) (n result : Nat) (data : List Byte) (rs : RegFile) (vs : SMap Vec) :
    { h.ccReply n result data with regs := rs, vecs := vs } = { h with regs := rs, vecs := vs }
      ∧ (h.ccReply n result data).wordsBut h ([(Reg.CXP_CC_STATUS.BUSY n).addr, (Reg.CXP_INT_STATUS n).addr]
          ++ (List.range 64).map fun i => (Reg.CXP_CC_BUF n i).addr) := by
  unfold HostSide.ccReply
  refine ⟨?_, HostSide.wordsBut.trans (g := ite _ _ _) ?_ (HostSide.ccDone_wordsBut _ n result _ (by simp) (by simp))⟩
  · split
    · refine HostSide.fillBuf_keeps (h := h) (n := n)
        (fun g => { g.ccDone n result with regs := rs, vecs := vs } = { h with regs := rs, vecs := vs }) _ data rfl ?_
      exact fun _ _ _ _ hg => hg
    · rfl
  · split
    · refine HostSide.fillBuf_keeps (fun g => g.wordsBut h _) _ data (HostSide.wordsBut.refl h _) fun g i v hi hg => hg.set _ v ?_
      exact List.mem_append_right _ (List.mem_map.mpr ⟨i, List.mem_range.mpr (by omega), rfl⟩)
    · exact HostSide.wordsBut.refl h _

end

section
variable {s : State} {n : Nat}

/-- GO with nothing outstanding (R53): WRITE and LEN are taken; the command starts in UP and completes with RESULT 5 elsewhere. -/
theorem execCxpCcGo_taken {v : Word} (ho : s.open_) (hn : n < s.variant.links) (hv : v.getLsbD 0 = true)
    (hb : s.host.on (Reg.CXP_CC_STATUS.BUSY n) = false) (hw : (s.host.link n).setWr = []) :
    exec (.cxpCcGo n v) s = .next { s with host := (if s.host.linkState n = 5
      then (s.host.accWrite (Reg.CXP_CC_CMD.GO n).addr v false).set (Reg.CXP_CC_STATUS.BUSY n) 1
      else (s.host.accWrite (Reg.CXP_CC_CMD.GO n).addr v false).ccDone n 5).settle } := by
  have hst : (s.host.accWrite (Reg.CXP_CC_CMD.GO n).addr v false).linkState n = s.host.linkState n :=
    HostSide.get_accWrite_ne _ _ _ _ _ (by simp only [Reg.CXP_STATE.STATE, Reg.CXP_CC_CMD.GO]; omega)
  rw [← hst]
  show execCxpCcGo n v s = _
  unfold execCxpCcGo
  rw [State.onBar_open s _ ho]
  dsimp only
  rw [if_neg (by simp [State.env, Nat.not_le.mpr hn, hv]), if_neg (by simp [hb, hw])]
  rfl

theorem execCxpCcGo_busy {v : Word} (ho : s.open_) (hn : n < s.variant.links) (hv : v.getLsbD 0 = true)
    (hb : s.host.on (Reg.CXP_CC_STATUS.BUSY n) = true) :
    exec (.cxpCcGo n v) s = .next { s with host := (s.host.set (Reg.CXP_CC_STATUS.LOST n) 1).settle } := by
  show execCxpCcGo n v s = _
  unfold execCxpCcGo
  rw [State.onBar_open s _ ho]
  dsimp only
  rw [if_neg (by simp [State.env, Nat.not_le.mpr hn, hv]), if_pos (by simp [hb])]

theorem execCxpCcReply_busy {result : Nat} {data : List Byte} (hu : s.up) (hn : n < s.variant.links)
    (hb : s.host.on (Reg.CXP_CC_STATUS.BUSY n) = true) :
    exec (.cxpCcReply n result data) s = .next { s with host := (s.host.ccReply n result data).settle } := by
  show execCxpCcReply n result data s = _
  unfold execCxpCcReply
  rw [State.onHost_up s _ hu]
  dsimp only
  rw [if_neg (by simp [State.env, Nat.not_le.mpr hn, hb])]
  rfl

theorem execCxpCcTimeout_busy (hu : s.up) (hn : n < s.variant.links) (hb : s.host.on (Reg.CXP_CC_STATUS.BUSY n) = true) :
    exec (.cxpCcTimeout n) s = .next { s with host := (s.host.ccDone n 1).settle } := by
  show execCxpCcTimeout n s = _
  unfold execCxpCcTimeout
  rw [State.onHost_up s _ hu, if_neg (by simp [State.env, Nat.not_le.mpr hn, hb])]

end

/-- Settles O10: each command's result through the fields that complete it, and the words it may write. -/
theorem cameraControlChannel : Obligations.CameraControlChannel := by
  unfold Obligations.CameraControlChannel
  refine ⟨?go, ?lost, ?reply, ?timeout⟩
  case go =>
    intro s n v ho hn hv hb hw
    have hacc (ws : List Nat) (hws : (Reg.CXP_CC_CMD.GO n).addr ∈ ws) := (HostSide.wordsBut.refl s.host ws).accWrite _ v false hws
    refine ⟨fun hst => ⟨_, execCxpCcGo_taken ho hn hv hb hw, ?_⟩, fun hst => ⟨_, execCxpCcGo_taken ho hn hv hb hw, ?_⟩⟩
    · rw [if_pos hst]
      refine ⟨?_, State.regsOnly_of s _ _ rfl ((hacc _ (by simp)).set _ 1 (by simp))⟩
      rw [HostSide.settle_get_high _ _ (Nat.lt_add_right _ (by decide))]
      exact HostSide.get_set_val _ _ 1 (Nat.le_of_ble_eq_true rfl) (Nat.le_of_ble_eq_true rfl)
    · rw [if_neg hst]
      refine ⟨?_, ?_, ?_, State.regsOnly_of s _ _ rfl ((hacc _ (by simp)).trans (HostSide.ccDone_wordsBut _ n 5 _ (by simp) (by simp)))⟩ <;>
        rw [HostSide.settle_get_high _ _ (Nat.lt_add_right _ (by decide))]
      · exact HostSide.ccDone_busy _ n 5
      · exact HostSide.ccDone_result _ n 5 (by decide)
      · exact HostSide.ccDone_int _ n 5
  case lost =>
    intro s n v ho hn hv hb
    refine ⟨_, execCxpCcGo_busy ho hn hv hb, ?_, ?_, State.regsOnly_of s _ _ rfl ((HostSide.wordsBut.refl s.host _).set _ 1 (by simp))⟩ <;>
      rw [HostSide.settle_get_high _ _ (Nat.lt_add_right _ (by decide))]
    · exact HostSide.get_set_val _ _ 1 (Nat.le_of_ble_eq_true rfl) (Nat.le_of_ble_eq_true rfl)
    · exact HostSide.get_set_leaves _ _ _ 1 (RF.leaves_at 0x400 (fun _ => rfl) (fun _ => rfl) (by decide) n)
  case reply =>
    intro s n result data hu hn hr hb
    have hframe := HostSide.ccReply_frame s.host n result data s.host.regs s.host.vecs
    refine ⟨_, execCxpCcReply_busy hu hn hb, ?_, ?_, ?_, State.regsOnly_of s _ _ hframe.1 hframe.2, ?_⟩
    · rw [HostSide.settle_get_high _ _ (Nat.lt_add_right _ (by decide))]
      exact HostSide.ccDone_busy _ n result
    · rw [HostSide.settle_get_high _ _ (Nat.lt_add_right _ (by decide))]
      exact HostSide.ccDone_result _ n result hr
    · rw [HostSide.settle_get_high _ _ (Nat.lt_add_right _ (by decide))]
      exact HostSide.ccDone_int _ n result
    · rintro rfl hw i hi hlen
      rw [HostSide.settle_get_high _ _ (Nat.lt_add_right _ (Nat.lt_add_right _ (by decide)))]
      exact HostSide.ccReply_buf hw hi hlen
  case timeout =>
    intro s n hu hn hb
    refine ⟨_, execCxpCcTimeout_busy hu hn hb, ?_, ?_,
      State.regsOnly_of s _ _ rfl (HostSide.ccDone_wordsBut _ n 1 _ (by simp) (by simp))⟩ <;>
      rw [HostSide.settle_get_high _ _ (Nat.lt_add_right _ (by decide))]
    · exact HostSide.ccDone_busy _ n 1
    · exact HostSide.ccDone_result _ n 1 (by decide)
end Sys2Proof.Machine

/-! SUPPORT. The state machine of a camera link (R42, R49, R51, R60): what powering lanes, entering a state and settling a pair of links
change and what they leave. -/

namespace Sys2Proof.Machine
open Sys2Proof

/-! ### Powering lanes (R42) -/

/-- The words of the lanes. -/
def laneWord (a : Nat) : Prop := 0x40000 ≤ a ∧ a < 0x43000

/-- Only words of the lanes differ. -/
structure HostSide.LaneWordsOnly (h g : HostSide) : Prop where
  rest : { g with regs := h.regs } = h
  words : ∀ a, ¬ laneWord a → g.word a = h.word a

namespace HostSide.LaneWordsOnly

variable {h g k : HostSide}

theorem refl (h : HostSide) : h.LaneWordsOnly h := ⟨rfl, fun _ _ => rfl⟩

theorem trans (h₁ : h.LaneWordsOnly g) (h₂ : g.LaneWordsOnly k) : h.LaneWordsOnly k where
  rest := (congrArg (fun x : HostSide => { x with regs := h.regs }) h₂.rest).trans h₁.rest
  words a ha := (h₂.words a ha).trans (h₁.words a ha)

theorem set (h : HostSide) (f : RF) (v : Nat) (hf : laneWord f.addr) : h.LaneWordsOnly (h.set f v) where
  rest := rfl
  words a ha := HostSide.word_set_ne h f v a fun e => ha (e ▸ hf)

theorem links (hg : h.LaneWordsOnly g) : g.links = h.links := (congrArg HostSide.links hg.rest :)

theorem lanePower (h : HostSide) {l : Nat} (hl : l < 48) (on : Bool) : h.LaneWordsOnly (h.lanePower l on) := by
  have hctrl : laneWord (Reg.LANE_CTRL.EN l).addr := by simp only [laneWord, Reg.LANE_CTRL.EN]; omega
  have hstatus : laneWord (Reg.LANE_STATUS.SIG_DET l).addr := by simp only [laneWord, Reg.LANE_STATUS.SIG_DET]; omega
  have hen := set h (Reg.LANE_CTRL.EN l) (b2n on) hctrl
  unfold HostSide.lanePower
  dsimp only
  split
  · exact ((hen.trans (set _ _ 0 hstatus)).trans (set _ (Reg.LANE_STATUS.CDR_LOCK l) 0 hstatus)).trans
      (set _ (Reg.LANE_STATUS.PRBS_LOCK l) 0 hstatus)
  · split
    · exact hen
    · exact hen.trans (set _ (Reg.LANE_STATUS.PEAK_NOW l) _ hstatus)

theorem foldl (h : HostSide) (l : List Nat) (hl : ∀ x ∈ l, x < 48) (on : Nat → Bool) :
    h.LaneWordsOnly (l.foldl (fun g x => g.lanePower x (on x)) h) :=
  List.foldlRecOn l _ (refl h) fun g hg x hx => hg.trans (lanePower g (hl x hx) (on x))

theorem laneEn (h : HostSide) {n : Nat} (hn : n < 16) (on : Bool) : h.LaneWordsOnly (h.laneEn n on) := by
  refine foldl h _ (fun x hx => ?_) fun l => on && l ∈ h.linkLanes n
  simp only [List.mem_append, List.mem_cons, List.not_mem_nil, or_false] at hx
  split at hx
  · simp only [List.mem_cons, List.not_mem_nil, or_false] at hx
    omega
  · simp only [List.not_mem_nil, or_false] at hx
    omega

theorem unclaim (h : HostSide) {n : Nat} (hn : n < 16) : h.LaneWordsOnly (h.unclaim n) :=
  (lanePower h (by omega) false).trans (lanePower _ (by omega) false)

end HostSide.LaneWordsOnly

/-! ### Links -/

theorem HostSide.link_setLink (h : HostSide) (n m : Nat) (x : CxpLink) : (h.setLink n x).link m = if m = n then x else h.link m :=
  SMap.get_put _ _ _ _ _

@[simp] theorem HostSide.link_setLink_self (h : HostSide) (n : Nat) (x : CxpLink) : (h.setLink n x).link n = x := by
  rw [HostSide.link_setLink, if_pos rfl]

theorem HostSide.link_congr {g h : HostSide} (e : g.links = h.links) (n : Nat) : g.link n = h.link n := by
  unfold HostSide.link
  rw [e]

/-- The words of camera link `n`. -/
def linkWord (n a : Nat) : Prop := 0x50000 + n * 0x400 ≤ a ∧ a < 0x50000 + (n + 1) * 0x400

/-- Link `n` is in state `st` for `cause`, and STATE_CHG is set (R51, R60). -/
def HostSide.linkIn (h : HostSide) (n st cause : Nat) : Prop :=
  h.linkState n = st ∧ h.get (Reg.CXP_STATE.CAUSE n) = cause ∧ bit (h.get (Reg.CXP_INT_STATUS n)) 0 = true

theorem HostSide.linkState_settle (h : HostSide) (n : Nat) : h.settle.linkState n = h.linkState n :=
  HostSide.settle_get_high h _ (Nat.lt_add_right _ (by decide))

theorem HostSide.linkIn_settle {h : HostSide} {n st cause : Nat} (hin : h.linkIn n st cause) (s : State) :
    { s with host := h.settle }.linkIn n st cause := by
  obtain ⟨hst, hc, hb⟩ := hin
  refine ⟨(h.linkState_settle n).trans hst, (HostSide.settle_get_high h _ (Nat.lt_add_right _ (by decide))).trans hc, ?_⟩
  rw [← hb]
  exact congrArg (bit · 0) (HostSide.settle_get_high h _ (Nat.lt_add_right _ (by decide)))

theorem HostSide.link_settle (h : HostSide) (n : Nat) : h.settle.link n = h.link n := HostSide.link_congr h.settle_links n

/-! ### Entering a state (R51, R60) -/

/-- `g` is `h` after link `n` has entered a state. -/
structure HostSide.Entered (n st cause : Nat) (h g : HostSide) : Prop where
  links : g.links = h.links
  state : g.linkState n = st
  cause : g.get (Reg.CXP_STATE.CAUSE n) = cause
  int : g.get (Reg.CXP_INT_STATUS n)
    = if h.linkState n = st then h.get (Reg.CXP_INT_STATUS n) else h.get (Reg.CXP_INT_STATUS n) ||| 1
  taken : g.get (Reg.CXP_STATE.LANES_TAKEN n) = h.get (Reg.CXP_STATE.LANES_TAKEN n)
  words : ∀ a, 0x50000 ≤ a → a ≠ (Reg.CXP_STATE.STATE n).addr → a ≠ (Reg.CXP_INT_STATUS n).addr → g.word a = h.word a

namespace HostSide.Entered

variable {n st cause : Nat} {h g k : HostSide}

/-- STATE and CAUSE are written, and STATE_CHG when the state changes. -/
theorem of_state (h : HostSide) (n : Nat) {st cause : Nat} (hst : st < 8) (hc : cause < 8) :
    h.Entered n st cause (if h.linkState n = st then (h.set (Reg.CXP_STATE.STATE n) st).set (Reg.CXP_STATE.CAUSE n) cause
      else ((h.set (Reg.CXP_STATE.STATE n) st).set (Reg.CXP_STATE.CAUSE n) cause).setBits (Reg.CXP_INT_STATUS n) 1) := by
  have hleaves {f g : Nat → RF} := @RF.leaves_at f g 0x400
  have hint := (HostSide.get_set_leaves (h.set (Reg.CXP_STATE.STATE n) st) (Reg.CXP_STATE.CAUSE n) (Reg.CXP_INT_STATUS n) cause
    (hleaves (fun _ => rfl) (fun _ => rfl) (by decide) n)).trans
      (HostSide.get_set_leaves h _ _ st (hleaves (fun _ => rfl) (fun _ => rfl) (by decide) n))
  have hs := (HostSide.get_set_leaves (h.set (Reg.CXP_STATE.STATE n) st) (Reg.CXP_STATE.CAUSE n) (Reg.CXP_STATE.STATE n) cause
    (hleaves (fun _ => rfl) (fun _ => rfl) (by decide) n)).trans (HostSide.get_set_val h _ st (Nat.le_of_ble_eq_true rfl) hst)
  have hcause := HostSide.get_set_val (h.set (Reg.CXP_STATE.STATE n) st) (Reg.CXP_STATE.CAUSE n) cause (Nat.le_of_ble_eq_true rfl) hc
  have htaken := (HostSide.get_set_leaves (h.set (Reg.CXP_STATE.STATE n) st) (Reg.CXP_STATE.CAUSE n) (Reg.CXP_STATE.LANES_TAKEN n) cause
    (hleaves (fun _ => rfl) (fun _ => rfl) (by decide) n)).trans
      (HostSide.get_set_leaves h _ _ st (hleaves (fun _ => rfl) (fun _ => rfl) (by decide) n))
  have hwords (a : Nat) (ha : a ≠ (Reg.CXP_STATE.STATE n).addr) :=
    (HostSide.word_set_ne (h.set (Reg.CXP_STATE.STATE n) st) (Reg.CXP_STATE.CAUSE n) cause a ha).trans (HostSide.word_set_ne h _ st a ha)
  have hlinks : ((h.set (Reg.CXP_STATE.STATE n) st).set (Reg.CXP_STATE.CAUSE n) cause).links = h.links := rfl
  generalize (h.set (Reg.CXP_STATE.STATE n) st).set (Reg.CXP_STATE.CAUSE n) cause = g at *
  split
  · exact ⟨hlinks, hs, hcause, by rw [if_pos ‹_›, hint], htaken, fun a _ ha _ => hwords a ha⟩
  · have hleft {f : Nat → RF} (hf : (Reg.CXP_INT_STATUS n).leaves (f n)) :
        (g.setBits (Reg.CXP_INT_STATUS n) 1).get (f n) = g.get (f n) := HostSide.get_setBits_leaves g _ _ 1 hf
    refine ⟨hlinks, ?_, ?_, ?_, ?_, fun a _ ha hi => (HostSide.word_set_ne g _ _ a hi).trans (hwords a ha)⟩
    · exact (hleft (f := Reg.CXP_STATE.STATE) (hleaves (fun _ => rfl) (fun _ => rfl) (by decide) n)).trans hs
    · exact (hleft (f := Reg.CXP_STATE.CAUSE) (hleaves (fun _ => rfl) (fun _ => rfl) (by decide) n)).trans hcause
    · rw [if_neg ‹_›, HostSide.setBits, hint]
      exact HostSide.get_set_val g _ _ (Nat.le_of_ble_eq_true rfl)
        (Nat.or_lt_two_pow (HostSide.get_lt h (Reg.CXP_INT_STATUS n)) (show 1 < 2 ^ 6 by decide))
    · exact (hleft (f := Reg.CXP_STATE.LANES_TAKEN) (hleaves (fun _ => rfl) (fun _ => rfl) (by decide) n)).trans htaken

/-- Writes below the links' words change nothing of a link. -/
theorem of_low (hg : h.Entered n st cause g) (hl : k.links = g.links) (hw : ∀ a, 0x50000 ≤ a → k.word a = g.word a) :
    h.Entered n st cause k where
  links := hl.trans hg.links
  state := (HostSide.get_of_word _ _ _ (hw _ (Nat.le_add_right_of_le (by decide)))).trans hg.state
  cause := (HostSide.get_of_word _ _ _ (hw _ (Nat.le_add_right_of_le (by decide)))).trans hg.cause
  int := (HostSide.get_of_word _ _ _ (hw _ (Nat.le_add_right_of_le (by decide)))).trans hg.int
  taken := (HostSide.get_of_word _ _ _ (hw _ (Nat.le_add_right_of_le (by decide)))).trans hg.taken
  words a ha hs hi := (hw a ha).trans (hg.words a ha hs hi)

/-- Another field of the state's word is written. -/
theorem set (hg : h.Entered n st cause g) (f : RF) (v : Nat) (ha : f.addr = (Reg.CXP_STATE.STATE n).addr)
    (hs : f.leaves (Reg.CXP_STATE.STATE n)) (hc : f.leaves (Reg.CXP_STATE.CAUSE n)) (ht : f.leaves (Reg.CXP_STATE.LANES_TAKEN n)) :
    h.Entered n st cause (g.set f v) where
  links := hg.links
  state := (HostSide.get_set_leaves g f _ v hs).trans hg.state
  cause := (HostSide.get_set_leaves g f _ v hc).trans hg.cause
  int := (HostSide.get_set_leaves g f _ v (RF.leaves_of_addr hs.1
    (by rw [ha]; simp only [Reg.CXP_STATE.STATE, Reg.CXP_INT_STATUS]; omega))).trans hg.int
  taken := (HostSide.get_set_leaves g f _ v ht).trans hg.taken
  words a hh hn hi := (HostSide.word_set_ne g f v a (ha ▸ hn)).trans (hg.words a hh hn hi)

/-- The width, the speed and the uplink stand between LANES_TAKEN and CAUSE (R60). -/
theorem set_at (hg : h.Entered n st cause g) {f : Nat → RF} (v : Nat)
    (hf : ∀ i, f i = ⟨(f 0).addr + i * 0x400, (f 0).lo, (f 0).w⟩)
    (hw : (f 0).addr = 0x50008 ∧ 4 ≤ (f 0).lo ∧ (f 0).lo + (f 0).w ≤ 16) : h.Entered n st cause (g.set (f n) v) := by
  obtain ⟨ha, h4, h16⟩ := hw
  refine hg.set (f n) v ?_ ?_ ?_ ?_
  · rw [hf n]
    exact congrArg (· + n * 0x400) ha
  all_goals
    refine RF.leaves_at 0x400 hf (fun _ => rfl) ⟨Nat.le_trans h16 (by decide), .inr ?_⟩ n
  · exact .inr (Nat.le_trans (by decide) h4)
  · exact .inl h16
  · exact .inr (Nat.le_trans (by decide) h4)

end HostSide.Entered

/-- A link enters a state (R51, R60). -/
theorem HostSide.enterLink_entered (h : HostSide) (e : Env) {n st cause : Nat} (hn : n < 16) (hst : st < 8) (hc : cause < 8) :
    h.Entered n st cause (h.enterLink e n st cause) := by
  unfold HostSide.enterLink
  extract_lets x was h₁ h₂
  have h2 : h.Entered n st cause h₂ := .of_state h n hst hc
  have hshown (w sp : Nat) := ((h2.set_at (f := Reg.CXP_STATE.WIDTH_NOW) w (fun _ => rfl) (by decide)).set_at
    (f := Reg.CXP_STATE.SPEED_NOW) sp (fun _ => rfl) (by decide)).set_at (f := Reg.CXP_STATE.HS_UPLINK) (b2n (st == 5 && x.hsCap))
    (fun _ => rfl) (by decide)
  have hlanes {g : HostSide} (hg : h.Entered n st cause g) : h.Entered n st cause ((g.laneEn n (st != 0 && st != 6)).trigSettle n) := by
    have hl := HostSide.LaneWordsOnly.laneEn g hn (st != 0 && st != 6)
    exact (hg.of_low hl.links fun a ha => hl.words a fun hw => by unfold laneWord at hw; omega).set_at
      (f := Reg.CXP_STATE.TRIG_REFUSED) _ (fun _ => rfl) (by decide)
  dsimp only
  split
  · refine (hlanes (hshown _ _)).of_low (by rw [HostSide.log_eq]) fun a ha => HostSide.log_word _ _ _ _ _ _ _ a ?_ ?_ ?_ <;>
      simp only [Reg.PM_LOG_COUNT, Reg.PM_LOG_LAST, Reg.PM_INT_STATUS] <;> omega
  · exact hlanes (hshown _ _)

theorem HostSide.Entered.linkIn {n st cause : Nat} {h g : HostSide} (hg : h.Entered n st cause g) (hne : h.linkState n ≠ st) :
    g.linkIn n st cause := by
  refine ⟨hg.state, hg.cause, ?_⟩
  rw [hg.int, if_neg hne, bit_or]
  exact Bool.or_true _

/-! ### What leaves a link alone -/

/-- Link `n` stays as it is, but for LANES_TAKEN and WIDTH_NOW, and its width. -/
structure HostSide.KeepsLink (n : Nat) (h g : HostSide) : Prop where
  state : g.linkState n = h.linkState n
  cause : g.get (Reg.CXP_STATE.CAUSE n) = h.get (Reg.CXP_STATE.CAUSE n)
  words : ∀ a, linkWord n a → a ≠ (Reg.CXP_STATE.STATE n).addr → g.word a = h.word a
  link : g.link n = { h.link n with width := (g.link n).width }

namespace HostSide.KeepsLink

variable {n : Nat} {h g k : HostSide}

theorem refl (n : Nat) (h : HostSide) : h.KeepsLink n h := ⟨rfl, rfl, fun _ _ _ => rfl, rfl⟩

theorem trans (h₁ : h.KeepsLink n g) (h₂ : g.KeepsLink n k) : h.KeepsLink n k where
  state := h₂.state.trans h₁.state
  cause := h₂.cause.trans h₁.cause
  words a ha hs := (h₂.words a ha hs).trans (h₁.words a ha hs)
  link := by rw [h₂.link, h₁.link]

/-- Nothing of link `n` is written at all. -/
theorem of_words (hw : ∀ a, linkWord n a → g.word a = h.word a) (hl : g.link n = h.link n) : h.KeepsLink n g where
  state := HostSide.get_of_word _ _ _ (hw _ (by simp only [linkWord, Reg.CXP_STATE.STATE]; omega))
  cause := HostSide.get_of_word _ _ _ (hw _ (by simp only [linkWord, Reg.CXP_STATE.CAUSE]; omega))
  words a ha _ := hw a ha
  link := by rw [hl]

theorem lanes (hg : h.LaneWordsOnly g) : h.KeepsLink n g :=
  of_words (fun a ha => hg.words a fun hl => by unfold linkWord at ha; unfold laneWord at hl; omega) (HostSide.link_congr hg.links n)

/-- LANES_TAKEN and WIDTH_NOW of any link. -/
theorem set_at (h : HostSide) (m v : Nat) {f : Nat → RF} (hf : ∀ i, f i = ⟨(f 0).addr + i * 0x400, (f 0).lo, (f 0).w⟩)
    (hw : (f 0).addr = 0x50008 ∧ 3 ≤ (f 0).lo ∧ (f 0).lo + (f 0).w ≤ 16) : h.KeepsLink n (h.set (f m) v) := by
  obtain ⟨ha, h3, h16⟩ := hw
  have haddr : (f m).addr = (Reg.CXP_STATE.STATE m).addr := by
    rw [hf m]
    exact congrArg (· + m * 0x400) ha
  by_cases hm : m = n
  · subst hm
    refine ⟨HostSide.get_set_leaves _ _ _ _ (RF.leaves_at (g := Reg.CXP_STATE.STATE) 0x400 hf (fun _ => rfl)
        ⟨Nat.le_trans h16 (by decide), .inr (.inr h3)⟩ m),
      HostSide.get_set_leaves _ _ _ _ (RF.leaves_at (g := Reg.CXP_STATE.CAUSE) 0x400 hf (fun _ => rfl)
        ⟨Nat.le_trans h16 (by decide), .inr (.inl h16)⟩ m), ?_, rfl⟩
    exact fun a _ hs => HostSide.word_set_ne h _ v a (haddr ▸ hs)
  · refine of_words (fun a ha => HostSide.word_set_ne h _ v a ?_) rfl
    rw [haddr]
    simp only [linkWord, Reg.CXP_STATE.STATE] at ha ⊢
    omega

theorem setLink_ne (h : HostSide) {m : Nat} (x : CxpLink) (hm : n ≠ m) : h.KeepsLink n (h.setLink m x) :=
  of_words (fun _ _ => rfl) (by rw [HostSide.link_setLink, if_neg hm])

/-- Another link enters a state. -/
theorem entered {m st cause : Nat} (hg : h.Entered m st cause g) (hm : n ≠ m) : h.KeepsLink n g := by
  refine of_words (fun a ha => hg.words a ?_ ?_ ?_) (HostSide.link_congr hg.links n) <;>
    simp only [linkWord, Reg.CXP_STATE.STATE, Reg.CXP_INT_STATUS] at ha ⊢ <;> omega

/-- A field of the words of link `n` other than the state's. -/
theorem get (hg : h.KeepsLink n g) {f : RF} (hf : linkWord n f.addr) (hs : f.addr ≠ (Reg.CXP_STATE.STATE n).addr) : g.get f = h.get f :=
  HostSide.get_of_word _ _ _ (hg.words _ hf hs)

theorem int (hg : h.KeepsLink n g) : g.get (Reg.CXP_INT_STATUS n) = h.get (Reg.CXP_INT_STATUS n) :=
  hg.get (by simp only [linkWord, Reg.CXP_INT_STATUS]; omega) (by simp only [Reg.CXP_INT_STATUS, Reg.CXP_STATE.STATE]; omega)

theorem linkIn (hg : h.KeepsLink n g) {st cause : Nat} (hin : h.linkIn n st cause) : g.linkIn n st cause := by
  obtain ⟨hs, hc, hb⟩ := hin
  exact ⟨hg.state.trans hs, hg.cause.trans hc, by rw [hg.int, hb]⟩

theorem en (hg : h.KeepsLink n g) : g.get (Reg.CXP_CTRL.EN n) = h.get (Reg.CXP_CTRL.EN n) :=
  hg.get (by simp only [linkWord, Reg.CXP_CTRL.EN]; omega) (by simp only [Reg.CXP_CTRL.EN, Reg.CXP_STATE.STATE]; omega)

end HostSide.KeepsLink

/-! ### Pairs of links (R49) -/

/-- The link leaves OFF or FAULT for POWER_WAIT: only its own registers, lanes and link data follow. -/
theorem HostSide.powerWait_entered (h : HostSide) (e : Env) {n : Nat} (hn : n < 16) :
    ∃ x : CxpLink, (h.setLink n x).Entered n 1 0 (h.powerWait e n) :=
  ⟨_, HostSide.enterLink_entered _ e hn (by decide) (by decide)⟩

theorem HostSide.powerWait_linkIn (h : HostSide) (e : Env) {n : Nat} (hn : n < 16) (hst : h.linkState n ≠ 1) :
    (h.powerWait e n).linkIn n 1 0 := by
  obtain ⟨x, hx⟩ := h.powerWait_entered e hn
  exact hx.linkIn hst

theorem HostSide.powerWait_keeps (h : HostSide) (e : Env) {n m : Nat} (hm : m < 16) (hne : n ≠ m) : h.KeepsLink n (h.powerWait e m) := by
  obtain ⟨x, hx⟩ := h.powerWait_entered e hm
  exact (HostSide.KeepsLink.setLink_ne h x hne).trans (.entered hx hne)

theorem HostSide.narrow_keeps (h : HostSide) (n : Nat) {a : Nat} (ha : a < 16) : h.KeepsLink n (h.narrow a) := by
  unfold HostSide.narrow
  split
  · exact .refl n h
  · have hset : h.KeepsLink n (h.setLink a { h.link a with width := min (h.link a).width 1 }) := by
      by_cases hn : n = a
      · subst hn
        exact ⟨rfl, rfl, fun _ _ _ => rfl, by rw [HostSide.link_setLink_self]⟩
      · exact .setLink_ne h _ hn
    exact (hset.trans (.set_at (f := Reg.CXP_STATE.WIDTH_NOW) _ a _ (fun _ => rfl) (by decide))).trans
      (.lanes (HostSide.LaneWordsOnly.laneEn _ ha _))

/-- LANES_TAKEN of a pair takes its value, and the even link is narrowed where its claim ends (R49). -/
def HostSide.endClaim (h : HostSide) (a : Nat) : HostSide :=
  let g := h.set (Reg.CXP_STATE.LANES_TAKEN (a + 1)) (b2n (h.claims a))
  if h.on (Reg.CXP_STATE.LANES_TAKEN (a + 1)) && !h.claims a then (g.unclaim a).narrow a else g

/-- A pair settles: a claim ends, and then the odd link may leave OFF. -/
theorem HostSide.settlePair_eq (h : HostSide) (e : Env) (n : Nat) :
    h.settlePair e n = if h.on (Reg.CXP_STATE.LANES_TAKEN (n / 2 * 2 + 1)) && !h.claims (n / 2 * 2)
        && (h.endClaim (n / 2 * 2)).on (Reg.CXP_CTRL.EN (n / 2 * 2 + 1)) && (h.endClaim (n / 2 * 2)).linkState (n / 2 * 2 + 1) = 0
      then (h.endClaim (n / 2 * 2)).powerWait e (n / 2 * 2 + 1) else h.endClaim (n / 2 * 2) := rfl

theorem HostSide.endClaim_keeps (h : HostSide) (n : Nat) {a : Nat} (ha : a < 16) : h.KeepsLink n (h.endClaim a) := by
  have hset : h.KeepsLink n (h.set (Reg.CXP_STATE.LANES_TAKEN (a + 1)) (b2n (h.claims a))) :=
    .set_at (f := Reg.CXP_STATE.LANES_TAKEN) _ _ _ (fun _ => rfl) (by decide)
  unfold HostSide.endClaim
  dsimp only
  split
  · exact hset.trans ((KeepsLink.lanes (.unclaim _ ha)).trans (HostSide.narrow_keeps _ n ha))
  · exact hset

/-- A pair settles without a word of a link that does not leave OFF by it (R49, R51). -/
theorem HostSide.settlePair_keeps (h : HostSide) (e : Env) {n : Nat} (hn : n < 16)
    (hq : h.linkState n ≠ 0 ∨ h.on (Reg.CXP_CTRL.EN n) = false ∨ h.on (Reg.CXP_STATE.LANES_TAKEN n) = false) :
    h.KeepsLink n (h.settlePair e n) := by
  have hk := h.endClaim_keeps n (show n / 2 * 2 < 16 by omega)
  rw [HostSide.settlePair_eq]
  split
  · next hgo =>
    refine hk.trans (HostSide.powerWait_keeps _ e (by omega) fun hodd => ?_)
    simp only [← hodd, Bool.and_eq_true, decide_eq_true_eq, hk.state, HostSide.on_congr hk.en] at hgo
    obtain ⟨⟨⟨hwas, -⟩, hen⟩, hoff⟩ := hgo
    simp [hoff, hen, hwas] at hq
  · exact hk

/-- An even link that is on runs at most x2 from then on. -/
theorem HostSide.narrow_width (h : HostSide) {n : Nat} (hn : n < 16) (hst : h.linkState n ≠ 0) :
    ((h.narrow n).link n).width ≤ 1 ∧ (h.narrow n).get (Reg.CXP_STATE.WIDTH_NOW n) ≤ 1 := by
  unfold HostSide.narrow
  rw [if_neg hst]
  dsimp only
  have hl (g : HostSide) (b : Bool) := HostSide.LaneWordsOnly.laneEn g hn b
  refine ⟨?_, ?_⟩
  · rw [HostSide.link_congr (hl _ _).links n]
    exact (congrArg CxpLink.width (HostSide.link_setLink_self h n _)).trans_le (Nat.min_le_right _ _)
  · rw [HostSide.get_of_word _ _ _ ((hl _ _).words _ fun ha => by simp only [laneWord, Reg.CXP_STATE.WIDTH_NOW] at ha; omega)]
    rw [HostSide.get_set_self _ _ _ (Nat.le_of_ble_eq_true rfl)]
    exact (Nat.mod_le _ _).trans (Nat.min_le_right _ _)

theorem HostSide.narrow_word (h : HostSide) {n a : Nat} (hn : n < 16) (ha : 0x50000 ≤ a) (hs : a ≠ (Reg.CXP_STATE.STATE n).addr) :
    (h.narrow n).word a = h.word a := by
  unfold HostSide.narrow
  split
  · rfl
  · exact ((HostSide.LaneWordsOnly.laneEn _ hn _).words a fun hl => by unfold laneWord at hl; omega).trans
      (HostSide.word_set_ne (h.setLink n _) _ _ a hs)

/-- The claim of an even link has ended: the odd one, with EN 1, leaves OFF, and the even one runs at most x2 (R49, R51). -/
theorem HostSide.settlePair_ends (h : HostSide) (e : Env) {n : Nat} (hn : n + 1 < 16) (heven : n % 2 = 0)
    (htaken : h.on (Reg.CXP_STATE.LANES_TAKEN (n + 1)) = true) (hclaim : h.claims n = false)
    (hen : h.on (Reg.CXP_CTRL.EN (n + 1)) = true) (hoff : h.linkState (n + 1) = 0) :
    (h.settlePair e n).linkIn (n + 1) 1 0 ∧ (h.settlePair e n).get (Reg.CXP_STATE.LANES_TAKEN (n + 1)) = 0
      ∧ (h.linkState n ≠ 0 → ((h.settlePair e n).link n).width ≤ 1 ∧ (h.settlePair e n).get (Reg.CXP_STATE.WIDTH_NOW n) ≤ 1) := by
  have hn' : n < 16 := by omega
  have hset (m : Nat) : h.KeepsLink m (h.set (Reg.CXP_STATE.LANES_TAKEN (n + 1)) (b2n false)) :=
    .set_at (f := Reg.CXP_STATE.LANES_TAKEN) h (n + 1) _ (fun _ => rfl) (by decide)
  have htk : (h.set (Reg.CXP_STATE.LANES_TAKEN (n + 1)) (b2n false)).get (Reg.CXP_STATE.LANES_TAKEN (n + 1)) = 0 :=
    HostSide.get_set_val h _ 0 (Nat.le_of_ble_eq_true rfl) (Nat.le_of_ble_eq_true rfl)
  have hend : h.endClaim n = ((h.set (Reg.CXP_STATE.LANES_TAKEN (n + 1)) (b2n false)).unclaim n).narrow n := by
    simp [HostSide.endClaim, htaken, hclaim]
  have hkeeps (m : Nat) : h.KeepsLink m (h.endClaim n) := h.endClaim_keeps m hn'
  rw [HostSide.settlePair_eq, show n / 2 * 2 = n by omega]
  rw [if_pos (by simp [htaken, hclaim, (hkeeps (n + 1)).state.trans hoff, HostSide.on_congr (hkeeps (n + 1)).en, hen])]
  generalize h.set (Reg.CXP_STATE.LANES_TAKEN (n + 1)) (b2n false) = g at *
  have hun := HostSide.LaneWordsOnly.unclaim g hn'
  have htk' : (h.endClaim n).get (Reg.CXP_STATE.LANES_TAKEN (n + 1)) = 0 := by
    rw [hend, ← htk]
    refine HostSide.get_of_word _ _ _ ((HostSide.narrow_word _ hn' ?_ ?_).trans (hun.words _ ?_)) <;>
      simp only [laneWord, Reg.CXP_STATE.LANES_TAKEN, Reg.CXP_STATE.STATE] <;> omega
  obtain ⟨x, hx⟩ := (h.endClaim n).powerWait_entered e hn
  refine ⟨HostSide.powerWait_linkIn _ e hn (by rw [(hkeeps _).state, hoff]; decide), hx.taken.trans htk', fun hst => ?_⟩
  obtain ⟨hw, hnow⟩ := hend ▸ HostSide.narrow_width (g.unclaim n) hn' (by rwa [(KeepsLink.lanes hun).state, (hset n).state])
  refine ⟨?_, ?_⟩
  · rw [HostSide.link_congr hx.links n, HostSide.link_setLink, if_neg (by omega)]
    exact hw
  · rw [HostSide.get_of_word _ ((h.endClaim n).setLink (n + 1) x) _ (hx.words _ ?_ ?_ ?_)]
    · exact hnow
    all_goals simp only [Reg.CXP_STATE.WIDTH_NOW, Reg.CXP_STATE.STATE, Reg.CXP_INT_STATUS]; omega

/-- With no claim that ends, a pair settles in LANES_TAKEN alone. -/
theorem HostSide.settlePair_idle (h : HostSide) (e : Env) {n : Nat}
    (hoff : h.on (Reg.CXP_STATE.LANES_TAKEN (n / 2 * 2 + 1)) = false ∨ h.claims (n / 2 * 2) = true) :
    h.settlePair e n = h.set (Reg.CXP_STATE.LANES_TAKEN (n / 2 * 2 + 1)) (b2n (h.claims (n / 2 * 2))) := by
  rcases hoff with hoff | hcl
  · simp [HostSide.settlePair_eq, HostSide.endClaim, hoff]
  · simp [HostSide.settlePair_eq, HostSide.endClaim, hcl]

theorem HostSide.narrow_link (h : HostSide) {a n : Nat} (ha : a < 16) (hw : n = a → (h.link n).width ≤ 1) :
    (h.narrow a).link n = h.link n := by
  unfold HostSide.narrow
  split
  · rfl
  · rw [HostSide.link_congr (HostSide.LaneWordsOnly.laneEn _ ha _).links n]
    refine (HostSide.link_setLink _ a n _).trans ?_
    split
    · next hna =>
      subst hna
      rw [Nat.min_eq_left (hw rfl)]
    · rfl

/-- A link whose width no ending claim narrows keeps its link data when its pair settles. -/
theorem HostSide.settlePair_link (h : HostSide) (e : Env) {n : Nat} (hn : n < 16) (hst : h.linkState n ≠ 0)
    (hw : n % 2 = 0 → h.claims n = false → (h.link n).width ≤ 1) : (h.settlePair e n).link n = h.link n := by
  have ha : n / 2 * 2 < 16 := by omega
  have hend : (h.endClaim (n / 2 * 2)).link n = h.link n := by
    unfold HostSide.endClaim
    dsimp only
    split
    · next hends =>
      rw [HostSide.narrow_link _ ha, HostSide.link_congr (HostSide.LaneWordsOnly.unclaim _ ha).links n]
      · rfl
      · intro hna
        rw [HostSide.link_congr (HostSide.LaneWordsOnly.unclaim _ ha).links n]
        refine hw (by omega) ?_
        rw [← hna] at hends
        simpa using And.right (by simpa using hends)
    · rfl
  rw [HostSide.settlePair_eq]
  split
  · next hgo =>
    obtain ⟨x, hx⟩ := (h.endClaim (n / 2 * 2)).powerWait_entered e (show n / 2 * 2 + 1 < 16 by omega)
    rw [HostSide.link_congr hx.links n, HostSide.link_setLink, if_neg, hend]
    intro hodd
    simp only [← hodd, Bool.and_eq_true, decide_eq_true_eq, (h.endClaim_keeps n ha).state] at hgo
    exact hst hgo.2
  · exact hend

/-- A claim and a width rest on the registers and the link's data (R49). -/
theorem HostSide.claims_congr {h g : HostSide} {n : Nat} (hs : g.linkState n = 0 ↔ h.linkState n = 0)
    (hw : g.get (Reg.CXP_CTRL.WIDTH n) = h.get (Reg.CXP_CTRL.WIDTH n)) (ho : (g.link n).oddOff = (h.link n).oddOff)
    (hs' : g.linkState (n + 1) = h.linkState (n + 1)) : g.claims n = h.claims n := by
  unfold HostSide.claims
  rw [hw, ho, hs']
  congr 4
  simp [bne, hs]

theorem HostSide.cfgWidth_le (h : HostSide) (n conn : Nat) (hc : h.claims n = false) : h.cfgWidth n conn ≤ 1 := by
  simp only [HostSide.cfgWidth, hc]
  exact (Nat.min_le_left _ _).trans (Nat.min_le_right _ _)

/-- A link on its way enters a state with its width taken anew: its pair leaves its data (R49, R51). -/
theorem HostSide.settlePair_entered_link {h g : HostSide} {e : Env} {n st cause conn : Nat} {x : CxpLink} (hn : n < 16)
    (hin : h.linkState n ≠ 0) (hst : st ≠ 0) (hx : (h.setLink n x).Entered n st cause g) (hw : x.width = h.cfgWidth n conn)
    (ho : x.oddOff = (h.link n).oddOff) : (g.settlePair e n).link n = x := by
  have hlink : g.link n = x := (HostSide.link_congr hx.links n).trans (HostSide.link_setLink_self h n x)
  refine (HostSide.settlePair_link g e hn (by rw [hx.state]; exact hst) fun _ hc => ?_).trans hlink
  rw [hlink, hw]
  refine HostSide.cfgWidth_le h n conn (Eq.trans (Eq.symm ?_) hc)
  refine HostSide.claims_congr ?_ ?_ (by rw [hlink, ho]) ?_
  · simp [hx.state, hin, hst]
  · refine HostSide.get_of_word _ (h.setLink n x) _ (hx.words _ ?_ ?_ ?_) <;>
      simp only [Reg.CXP_CTRL.WIDTH, Reg.CXP_STATE.STATE, Reg.CXP_INT_STATUS] <;> omega
  · refine HostSide.get_of_word _ (h.setLink n x) _ (hx.words _ ?_ ?_ ?_) <;>
      simp only [Reg.CXP_STATE.STATE, Reg.CXP_INT_STATUS] <;> omega

end Sys2Proof.Machine

/-! SUPPORT. What each command does to the state of a camera link (R51), and the statement about the table of its states. -/

namespace Sys2Proof.Machine
open Sys2Proof

@[simp] theorem HostSide.linkState_setLink (h : HostSide) (n m : Nat) (x : CxpLink) : (h.setLink n x).linkState m = h.linkState m := rfl

theorem Variant.links_le (v : Variant) : v.links ≤ 16 := by cases v <;> decide

/-! ### Events that act in one state -/

/-- A link that entered another state than OFF is in it when its pair has settled. -/
theorem HostSide.Entered.settlePair {h g : HostSide} {n st cause : Nat} (hg : h.Entered n st cause g) (hn : n < 16)
    (hne : h.linkState n ≠ st) (hst : st ≠ 0) (e : Env) : (g.settlePair e n).linkIn n st cause :=
  (g.settlePair_keeps e hn (.inl (by rw [hg.state]; exact hst))).linkIn (hg.linkIn hne)

section
variable {s : State} {n : Nat}

theorem State.onHost_inLink {st : Nat} (hu : s.up) (hn : n < s.variant.links) (hst : s.host.linkState n = st)
    (f : Env → HostSide → HostSide) :
    (s.onHost fun e h => h.inLink e n st (f e)) = .next { s with host := ((f s.env s.host).settlePair s.env n).settle } := by
  rw [State.onHost_up s _ hu]
  unfold HostSide.inLink
  rw [if_neg (by simp [State.env, Nat.not_le.mpr hn, hst])]

theorem State.onBar_inLink {st : Nat} (ho : s.open_) (hn : n < s.variant.links) (hst : s.host.linkState n = st)
    (f : Env → HostSide → HostSide) :
    (s.onBar fun e h => h.inLink e n st (f e)) = .next { s with host := ((f s.env s.host).settlePair s.env n).settle } := by
  rw [State.onBar_open s _ ho]
  unfold HostSide.inLink
  rw [if_neg (by simp [State.env, Nat.not_le.mpr hn, hst])]

/-- An event leads to a state for a cause: what it makes of the link's data, and what holds of the data once the pair has settled. -/
theorem State.entered_of_inLink {st cause : Nat} {o : Host.Outcome State Fault Refusal} {h g : HostSide} (hn : n < s.variant.links)
    (hex : o = .next { s with host := (g.settlePair s.env n).settle }) (hx : h.Entered n st cause g)
    (hne : h.linkState n ≠ st) (hst : st ≠ 0) : ∃ t, o = .next t ∧ t.linkIn n st cause :=
  ⟨_, hex, HostSide.linkIn_settle (hx.settlePair (hn.trans_le s.variant.links_le) hne hst s.env) s⟩

/-! ### The commands that enter a state -/

theorem execCxpMasterLock_entered (hu : s.up) (hn : n < s.variant.links) (hst : s.host.linkState n = 1) :
    ∃ t, exec (.cxpMasterLock n) s = .next t ∧ t.linkIn n 2 0 :=
  State.entered_of_inLink hn
    (show execCxpMasterLock n s = _ from State.onHost_inLink hu hn hst fun e h => (h.setLink n { h.link n with fails := 0 }).enterLink e n 2 0)
    (HostSide.enterLink_entered _ _ (hn.trans_le s.variant.links_le) (by decide) (by decide)) (by simp [hst]) (by decide)

theorem execCxpDiscTimeout_entered (hu : s.up) (hn : n < s.variant.links) (hst : s.host.linkState n = 1) :
    ∃ t, exec (.cxpDiscTimeout n) s = .next t ∧ t.linkIn n 6 1 :=
  State.entered_of_inLink hn (show execCxpDiscTimeout n s = _ from State.onHost_inLink hu hn hst fun e h => h.enterLink e n 6 1)
    (HostSide.enterLink_entered _ _ (hn.trans_le s.variant.links_le) (by decide) (by decide)) (by simp [hst]) (by decide)

theorem execCxpConfigAck_entered (hu : s.up) (hn : n < s.variant.links) (hst : s.host.linkState n = 3) :
    ∃ t, exec (.cxpConfigAck n) s = .next t ∧ t.linkIn n 4 0 :=
  State.entered_of_inLink hn (show execCxpConfigAck n s = _ from State.onHost_inLink hu hn hst fun e h => h.enterLink e n 4 0)
    (HostSide.enterLink_entered _ _ (hn.trans_le s.variant.links_le) (by decide) (by decide)) (by simp [hst]) (by decide)

theorem execCxpSwitchLocked_entered (hu : s.up) (hn : n < s.variant.links) (hst : s.host.linkState n = 4) :
    ∃ t, exec (.cxpSwitchLocked n) s = .next t ∧ t.linkIn n 5 0 :=
  State.entered_of_inLink hn (show execCxpSwitchLocked n s = _ from State.onHost_inLink hu hn hst fun e h => h.enterLink e n 5 0)
    (HostSide.enterLink_entered _ _ (hn.trans_le s.variant.links_le) (by decide) (by decide)) (by simp [hst]) (by decide)

theorem execCxpRestart_entered (ho : s.open_) (hn : n < s.variant.links) (hst : s.host.linkState n = 6) :
    ∃ t, exec (.cxpRestart n) s = .next t ∧ t.linkIn n 1 0 := by
  obtain ⟨x, hx⟩ := s.host.powerWait_entered s.env (hn.trans_le s.variant.links_le)
  exact State.entered_of_inLink hn (show execCxpRestart n s = _ from State.onBar_inLink ho hn hst fun e h => h.powerWait e n) hx
    (by simp [hst]) (by decide)

theorem execCxpLockLoss_entered (hu : s.up) (hn : n < s.variant.links) (hst : s.host.linkState n = 5) :
    ∃ t, exec (.cxpLockLoss n) s = .next t ∧ t.linkIn n 1 0 ∧ (t.host.link n).pwr = (s.host.link n).pwr := by
  have hx := HostSide.enterLink_entered (s.host.setLink n { s.host.link n with parts := [] }) s.env (st := 1) (cause := 0)
    (hn.trans_le s.variant.links_le) (by decide) (by decide)
  have hk := HostSide.settlePair_keeps _ s.env (hn.trans_le s.variant.links_le) (.inl (by rw [hx.state]; decide))
  refine ⟨_, show execCxpLockLoss n s = _ from
      State.onHost_inLink hu hn hst fun e h => (h.setLink n { h.link n with parts := [] }).enterLink e n 1 0,
    HostSide.linkIn_settle (hx.settlePair (hn.trans_le s.variant.links_le) (by simp [hst]) (by decide) s.env) s, ?_⟩
  rw [HostSide.link_settle, hk.link, HostSide.link_congr hx.links n, HostSide.link_setLink_self]

/-- A failed read of discovery is tried again, three times in all (R51). -/
theorem execCxpBootstrapReadDone_again (conn speed : Nat) (hs last : Bool) (hu : s.up) (hn : n < s.variant.links)
    (hst : s.host.linkState n = 2) (hf : (s.host.link n).fails < 2) :
    ∃ t, exec (.cxpBootstrapReadDone n false last conn speed hs) s = .next t ∧ t.host.linkState n = 2
      ∧ (t.host.link n).fails = (s.host.link n).fails + 1 := by
  have hk := HostSide.settlePair_keeps (s.host.setLink n { s.host.link n with fails := (s.host.link n).fails + 1 }) s.env
    (hn.trans_le s.variant.links_le) (.inl (by simp [hst]))
  have hex : exec (.cxpBootstrapReadDone n false last conn speed hs) s = .next { s with host :=
      ((s.host.setLink n { s.host.link n with fails := (s.host.link n).fails + 1 }).settlePair s.env n).settle } := by
    refine (show execCxpBootstrapReadDone n false last conn speed hs s = _ from State.onHost_inLink hu hn hst _).trans ?_
    dsimp only
    rw [if_pos (show (!false) = true from rfl), if_neg (Nat.not_le.mpr hf)]
  refine ⟨_, hex, (HostSide.linkState_settle _ n).trans (hk.state.trans hst), ?_⟩
  rw [HostSide.link_settle, hk.link, HostSide.link_setLink_self]

theorem execCxpBootstrapReadDone_failed (conn speed : Nat) (hs last : Bool) (hu : s.up) (hn : n < s.variant.links)
    (hst : s.host.linkState n = 2) (hf : 2 ≤ (s.host.link n).fails) :
    ∃ t, exec (.cxpBootstrapReadDone n false last conn speed hs) s = .next t ∧ t.linkIn n 6 2 := by
  refine State.entered_of_inLink hn (h := s.host) (g := s.host.enterLink s.env n 6 2) ?_
    (HostSide.enterLink_entered _ _ (hn.trans_le s.variant.links_le) (by decide) (by decide)) (by simp [hst]) (by decide)
  refine (show execCxpBootstrapReadDone n false last conn speed hs s = _ from State.onHost_inLink hu hn hst _).trans ?_
  dsimp only
  rw [if_pos (show (!false) = true from rfl), if_pos hf]

/-- A link enters CONFIG with a width taken anew (R49, R51). -/
theorem State.config_of_inLink {o : Host.Outcome State Fault Refusal} {x : CxpLink} {conn : Nat} (hn : n < s.variant.links)
    (hex : o = .next { s with host := (((s.host.setLink n x).enterLink s.env n 3 0).settlePair s.env n).settle })
    (hst : s.host.linkState n ≠ 0) (hne : s.host.linkState n ≠ 3) (hw : x.width = s.host.cfgWidth n conn)
    (ho : x.oddOff = (s.host.link n).oddOff) : ∃ t, o = .next t ∧ t.linkIn n 3 0 ∧ t.host.link n = x := by
  have hn16 := hn.trans_le s.variant.links_le
  have hx := HostSide.enterLink_entered (s.host.setLink n x) s.env (st := 3) (cause := 0) hn16 (by decide) (by decide)
  refine ⟨_, hex, HostSide.linkIn_settle (hx.settlePair hn16 hne (by decide) s.env) s, ?_⟩
  rw [HostSide.link_settle]
  exact HostSide.settlePair_entered_link hn16 hst (by decide) hx hw ho

theorem execCxpBootstrapReadDone_config (conn speed : Nat) (hs : Bool) (hu : s.up) (hn : n < s.variant.links)
    (hst : s.host.linkState n = 2) :
    ∃ t, exec (.cxpBootstrapReadDone n true true conn speed hs) s = .next t ∧ t.linkIn n 3 0
      ∧ t.host.link n = { s.host.link n with fails := 0, hsCap := hs, conn, width := s.host.cfgWidth n conn,
                                             speed := min speed (s.host.get (Reg.CXP_CTRL.SPEED n)) } :=
  State.config_of_inLink hn (show execCxpBootstrapReadDone n true true conn speed hs s = _ from State.onHost_inLink hu hn hst _)
    (by simp [hst]) (by simp [hst]) rfl rfl

theorem execCxpSwitchTimeout_config (hu : s.up) (hn : n < s.variant.links) (hst : s.host.linkState n = 4)
    (hsp : 1 < (s.host.link n).speed) :
    ∃ t, exec (.cxpSwitchTimeout n) s = .next t ∧ t.linkIn n 3 0
      ∧ t.host.link n = { s.host.link n with
          width := s.host.cfgWidth n (s.host.link n).conn,
          speed := min ((s.host.link n).speed - 1) (s.host.get (Reg.CXP_CTRL.SPEED n)) } := by
  refine State.config_of_inLink hn ?_ (by simp [hst]) (by simp [hst]) rfl rfl
  refine (show execCxpSwitchTimeout n s = _ from State.onHost_inLink hu hn hst _).trans ?_
  dsimp only
  rw [if_neg (Nat.not_le.mpr hsp)]

theorem execCxpSwitchTimeout_failed (hu : s.up) (hn : n < s.variant.links) (hst : s.host.linkState n = 4)
    (hsp : (s.host.link n).speed ≤ 1) : ∃ t, exec (.cxpSwitchTimeout n) s = .next t ∧ t.linkIn n 6 3 := by
  refine State.entered_of_inLink hn (h := s.host) (g := s.host.enterLink s.env n 6 3) ?_
    (HostSide.enterLink_entered _ _ (hn.trans_le s.variant.links_le) (by decide) (by decide)) (by simp [hst]) (by decide)
  refine (show execCxpSwitchTimeout n s = _ from State.onHost_inLink hu hn hst _).trans ?_
  dsimp only
  rw [if_pos hsp]

/-- A power fault takes any link that is on to FAULT, powered off (R51). -/
theorem execCxpPowerFault_on (hu : s.up) (hn : n < s.variant.links) (hst : s.host.linkState n ≠ 0) :
    ∃ t, exec (.cxpPowerFault n) s = .next t ∧ t.host.linkState n = 6 ∧ t.host.get (Reg.CXP_STATE.CAUSE n) = 4
      ∧ (t.host.link n).pwr = false ∧ bit (t.host.get (Reg.CXP_INT_STATUS n)) 4 = true
      ∧ bit (t.host.get (Reg.CXP_INT_STATUS n)) 0 = (bit (s.host.get (Reg.CXP_INT_STATUS n)) 0 || s.host.linkState n != 6) := by
  have hn16 := hn.trans_le s.variant.links_le
  have hbit (i : Nat) (hi : i < 6) := HostSide.bit_get_setBits (s.host.setLink n { s.host.link n with pwr := false, parts := [] })
    (Reg.CXP_INT_STATUS n) 16 i (Nat.le_of_ble_eq_true rfl) hi
  have h4 := (hbit 4 (by decide)).trans (Bool.or_true _)
  have h0 := (hbit 0 (by decide)).trans (Bool.or_false (bit (s.host.get (Reg.CXP_INT_STATUS n)) 0))
  clear hbit
  have hstate : ((s.host.setLink n { s.host.link n with pwr := false, parts := [] }).setBits (Reg.CXP_INT_STATUS n) 16).linkState n
      = s.host.linkState n := HostSide.get_setBits_leaves _ _ _ _
    (RF.leaves_at (g := Reg.CXP_STATE.STATE) 0x400 (fun _ => rfl) (fun _ => rfl) (by decide) n)
  have hlink : ((s.host.setLink n { s.host.link n with pwr := false, parts := [] }).setBits (Reg.CXP_INT_STATUS n) 16).link n
      = { s.host.link n with pwr := false, parts := [] } := HostSide.link_setLink_self _ n _
  have hex : exec (.cxpPowerFault n) s = .next { s with host := ((((s.host.setLink n { s.host.link n with pwr := false, parts := [] }).setBits
      (Reg.CXP_INT_STATUS n) 16).enterLink s.env n 6 4).settlePair s.env n).settle } := by
    show execCxpPowerFault n s = _
    unfold execCxpPowerFault
    rw [State.onHost_up s _ hu, if_neg (by simp [State.env, Nat.not_le.mpr hn, hst])]
  generalize (s.host.setLink n { s.host.link n with pwr := false, parts := [] }).setBits (Reg.CXP_INT_STATUS n) 16 = g at *
  have hx := g.enterLink_entered s.env (st := 6) (cause := 4) hn16 (by decide) (by decide)
  have hk := HostSide.settlePair_keeps _ s.env hn16 (.inl (by rw [hx.state]; decide))
  have hint : (((g.enterLink s.env n 6 4).settlePair s.env n).settle).get (Reg.CXP_INT_STATUS n)
      = if s.host.linkState n = 6 then g.get (Reg.CXP_INT_STATUS n) else g.get (Reg.CXP_INT_STATUS n) ||| 1 := by
    rw [HostSide.settle_get_high _ _ (Nat.lt_add_right _ (by decide)), hk.int, hx.int, hstate]
  refine ⟨_, hex, (HostSide.linkState_settle _ n).trans (hk.state.trans hx.state),
    (HostSide.settle_get_high _ _ (Nat.lt_add_right _ (by decide))).trans (hk.cause.trans hx.cause), ?_, ?_, ?_⟩
  · rw [HostSide.link_settle, hk.link, HostSide.link_congr hx.links n, hlink]
  · dsimp only
    rw [hint]
    split <;> simp [h4]
  · dsimp only
    rw [hint]
    split
    · simp [h0, ‹s.host.linkState n = 6›]
    · rw [bit_or, h0, bne_iff_ne.mpr ‹s.host.linkState n ≠ 6›]
      rfl

end

/-! ### Writes of CXP_CTRL (R49, R51) -/

/-- CXP_CTRL takes its write: the fields, EN as given, and PWR in POWER_WAIT. -/
def HostSide.ctrlWritten (h : HostSide) (n : Nat) (v : Word) (en : Bool) : HostSide :=
  let keep := h.get (Reg.CXP_CTRL.WIDTH n)
  let h := h.accWrite (Reg.CXP_CTRL.EN n).addr v true
  let h := if v.toNat / 4 % 4 = 3 then h.set (Reg.CXP_CTRL.WIDTH n) keep else h
  let h := h.set (Reg.CXP_CTRL.EN n) (b2n en)
  if h.linkState n = 1 then h.setLink n { h.link n with pwr := h.on (Reg.CXP_CTRL.PWR n) } else h

theorem HostSide.cxpCtrl_eq (h : HostSide) (e : Env) (n : Nat) (v : Word) (en : Bool) :
    h.cxpCtrl e n v en = HostSide.settlePair (if !en then (h.ctrlWritten n v en).linkOff e n
      else if (h.ctrlWritten n v en).linkState n = 0 && !(h.ctrlWritten n v en).on (Reg.CXP_STATE.LANES_TAKEN n)
      then (h.ctrlWritten n v en).powerWait e n else h.ctrlWritten n v en) e n := rfl

section
variable (h : HostSide) (n : Nat) (v : Word) (en : Bool)

theorem HostSide.ctrlWritten_wordsBut : (h.ctrlWritten n v en).wordsBut h [(Reg.CXP_CTRL.EN n).addr] := by
  have hacc := (HostSide.wordsBut.refl h [(Reg.CXP_CTRL.EN n).addr]).accWrite (Reg.CXP_CTRL.EN n).addr v true (by simp)
  unfold HostSide.ctrlWritten
  extract_lets keep h₁ h₂ h₃
  have h2 : h₂.wordsBut h [(Reg.CXP_CTRL.EN n).addr] := by
    unfold h₂
    split
    · exact hacc.set (Reg.CXP_CTRL.WIDTH n) _ (List.mem_singleton.mpr rfl)
    · exact hacc
  have h3 : h₃.wordsBut h [(Reg.CXP_CTRL.EN n).addr] := h2.set _ _ (by simp)
  split
  · exact h3
  · exact h3

/-- The fields of another word, above HIF_IRQ_PENDING, stay. -/
theorem HostSide.get_ctrlWritten {f : RF} (hf : f.addr ≠ (Reg.CXP_CTRL.EN n).addr) (hp : 0x14040 < f.addr) :
    (h.ctrlWritten n v en).get f = h.get f :=
  HostSide.get_of_word _ _ _ (h.ctrlWritten_wordsBut n v en _ (by simpa using hf) (by simp only [Reg.HIF_IRQ_PENDING]; omega))

theorem HostSide.linkState_ctrlWritten (m : Nat) : (h.ctrlWritten n v en).linkState m = h.linkState m :=
  h.get_ctrlWritten n v en (by simp only [Reg.CXP_STATE.STATE, Reg.CXP_CTRL.EN]; omega) (Nat.lt_add_right _ (by decide))

theorem HostSide.ctrlWritten_en : (h.ctrlWritten n v en).get (Reg.CXP_CTRL.EN n) = b2n en := by
  unfold HostSide.ctrlWritten
  extract_lets keep h₁ h₂ h₃
  have h3 : h₃.get (Reg.CXP_CTRL.EN n) = b2n en :=
    HostSide.get_set_val _ _ _ (Nat.le_of_ble_eq_true rfl) (by cases en <;> exact Nat.le_of_ble_eq_true rfl)
  split
  · exact h3
  · exact h3

end

/-- The fields of CXP_CTRL (R58). -/
theorem regRows_cxpCtrl : ∀ n < 16, regRows (Reg.CXP_CTRL.EN n).addr =
    [⟨0x50000, [(16, 0x400)], 0, 1, .rw, 0x0, true⟩, ⟨0x50000, [(16, 0x400)], 1, 1, .rw, 0x0, false⟩,
      ⟨0x50000, [(16, 0x400)], 2, 2, .rw, 0x2, false⟩, ⟨0x50000, [(16, 0x400)], 4, 4, .rw, 0x7, false⟩,
      ⟨0x50000, [(16, 0x400)], 8, 8, .rw, 0xa, false⟩] := by decide

/-- A write that keeps the OWN fields gives an RW field of a word whose fields do not overlap (R5). -/
theorem RegFile.get_accWrite_rw_own {a : Nat} {r : RegRow} (hr : r ∈ regRows a) (hap : ∀ r' ∈ regRows a, r' = r ∨ r.apart r')
    (rs : RegFile) (v : Word) (hacc : r.acc = .rw) (hown : r.own = false) :
    (rs.accWrite a v true).get (r.field a) = (r.field a).ofWord v := by
  have hstep : rs.accWrite a v true = rs.setWord a ((regRows a).foldl (fun w r => if r.own then w else r.written v w) (rs.word a)) := by
    simp only [RegFile.accWrite, Bool.true_and]
    congr 2
    funext w r
    unfold RegRow.written
    cases r.acc <;> rfl
  rw [hstep, RegFile.get, RegFile.word_setWord, if_pos (show (r.field a).addr = a from rfl)]
  refine RF.ofWord_foldl hr _ _ (fun r' h' => (hap r' h').imp_right fun h w => ?_) fun w _ => ?_
  · split
    · rfl
    · exact RegRow.written_apart h a v w
  · rw [hown, if_neg (by decide)]
    exact r.ofWord_of_mask a _ _ fun i hi hm => by simp [RegRow.written, hacc, hm]

theorem HostSide.ctrlWritten_width (h : HostSide) {n : Nat} (hn : n < 16) (v : Word) (en : Bool) (hv : v.toNat / 4 % 4 ≠ 3) :
    (h.ctrlWritten n v en).get (Reg.CXP_CTRL.WIDTH n) = v.toNat / 4 % 4 := by
  have hacc : (h.accWrite (Reg.CXP_CTRL.EN n).addr v true).get (Reg.CXP_CTRL.WIDTH n) = v.toNat / 4 % 4 := by
    refine (RegFile.get_accWrite_rw_own (r := ⟨0x50000, [(16, 0x400)], 2, 2, .rw, 0x2, false⟩) ?_ ?_ h.regs v rfl rfl).trans rfl
    · simp [regRows_cxpCtrl n hn]
    · simp [regRows_cxpCtrl n hn, RegRow.apart]
  unfold HostSide.ctrlWritten
  simp only [if_neg hv]
  have hset := (HostSide.get_set_leaves (h.accWrite (Reg.CXP_CTRL.EN n).addr v true) (Reg.CXP_CTRL.EN n) (Reg.CXP_CTRL.WIDTH n) (b2n en)
    (RF.leaves_at 0x400 (fun _ => rfl) (fun _ => rfl) (by decide) n)).trans hacc
  split
  · exact hset
  · exact hset

/-- A link that is on goes off, powered off, and stays off with EN 0 when its pair settles (R51). -/
theorem HostSide.linkOff_eq (h : HostSide) (e : Env) {n : Nat} (hst : h.linkState n ≠ 0) :
    h.linkOff e n = ((h.setLink n { h.link n with pwr := false, parts := [] }).enterLink e n 0 0).settlePair e n := by
  unfold HostSide.linkOff
  rw [if_neg hst]

section
variable {s : State} {n : Nat} {v : Word}

theorem execCxpLinkEnable_taken (ho : s.open_) (hn : n < s.variant.links) (hv : v.getLsbD 0 = true) :
    exec (.cxpLinkEnable n v) s = .next { s with host := (s.host.cxpCtrl s.env n v true).settle } := by
  show execCxpLinkEnable n v s = _
  unfold execCxpLinkEnable
  rw [State.onBar_open s _ ho, if_neg (by simp [State.env, Nat.not_le.mpr hn, hv])]

theorem execCxpLinkDisable_taken (ho : s.open_) (hn : n < s.variant.links) (hv : v.getLsbD 0 = false) :
    exec (.cxpLinkDisable n v) s = .next { s with host := (s.host.cxpCtrl s.env n v false).settle } := by
  show execCxpLinkDisable n v s = _
  unfold execCxpLinkDisable
  rw [State.onBar_open s _ ho, if_neg (by rw [hv]; simp [State.env, Nat.not_le.mpr hn])]

end

section
variable (h : HostSide) (e : Env) {n : Nat} (v : Word)

/-- EN 1 takes a link whose lanes are its own from OFF to POWER_WAIT (R51). -/
theorem HostSide.cxpCtrl_on_wait (hn : n < 16) (hst : h.linkState n = 0) (ht : h.on (Reg.CXP_STATE.LANES_TAKEN n) = false) :
    (h.cxpCtrl e n v true).linkIn n 1 0 ∧ (h.cxpCtrl e n v true).get (Reg.CXP_CTRL.EN n) = 1 := by
  have hst' := (h.linkState_ctrlWritten n v true n).trans hst
  have ht' : (h.ctrlWritten n v true).on (Reg.CXP_STATE.LANES_TAKEN n) = false := by
    rw [← ht]
    exact HostSide.on_congr (h.get_ctrlWritten n v true (by simp only [Reg.CXP_STATE.LANES_TAKEN, Reg.CXP_CTRL.EN]; omega)
      (Nat.lt_add_right _ (by decide)))
  rw [HostSide.cxpCtrl_eq, if_neg (by simp), if_pos (by simp [hst', ht'])]
  obtain ⟨x, hx⟩ := (h.ctrlWritten n v true).powerWait_entered e hn
  have hen : ((h.ctrlWritten n v true).powerWait e n).get (Reg.CXP_CTRL.EN n) = 1 :=
    (HostSide.get_of_word _ ((h.ctrlWritten n v true).setLink n x) _ (hx.words _ (Nat.le_add_right _ _)
      (by simp only [Reg.CXP_CTRL.EN, Reg.CXP_STATE.STATE]; omega) (by simp only [Reg.CXP_CTRL.EN, Reg.CXP_INT_STATUS]; omega))).trans
        (h.ctrlWritten_en n v true)
  refine ⟨hx.settlePair hn (by simp [hst']) (by decide) e, ?_⟩
  exact (HostSide.settlePair_keeps _ e hn (.inl (by rw [hx.state]; decide))).en.trans hen

/-- What EN 0 makes of a link that is on, before its pair settles. -/
theorem HostSide.ctrlWritten_off (hn : n < 16) (hst : h.linkState n ≠ 0) : ∃ k : HostSide,
    (h.ctrlWritten n v false).linkOff e n = k.settlePair e n ∧ k.linkIn n 0 0 ∧ (k.link n).pwr = false
      ∧ ∀ f : RF, 0x50000 ≤ f.addr → f.addr ≠ (Reg.CXP_STATE.STATE n).addr → f.addr ≠ (Reg.CXP_INT_STATUS n).addr →
        k.get f = (h.ctrlWritten n v false).get f := by
  have hst' := (h.linkState_ctrlWritten n v false n).symm ▸ hst
  have hx := HostSide.enterLink_entered ((h.ctrlWritten n v false).setLink n { (h.ctrlWritten n v false).link n with pwr := false, parts := [] })
    e (st := 0) (cause := 0) hn (by decide) (by decide)
  refine ⟨_, HostSide.linkOff_eq _ e hst', hx.linkIn hst', ?_, fun f h1 h2 h3 => HostSide.get_of_word _ _ _ (hx.words _ h1 h2 h3)⟩
  rw [HostSide.link_congr hx.links n, HostSide.link_setLink_self]

theorem HostSide.cxpCtrl_off (hn : n < 16) (hst : h.linkState n ≠ 0) :
    (h.cxpCtrl e n v false).linkIn n 0 0 ∧ (h.cxpCtrl e n v false).get (Reg.CXP_CTRL.EN n) = 0
      ∧ ((h.cxpCtrl e n v false).link n).pwr = false := by
  obtain ⟨k, hk, hin, hpwr, hget⟩ := h.ctrlWritten_off e v hn hst
  have hen : k.get (Reg.CXP_CTRL.EN n) = 0 := (hget _ (Nat.le_add_right _ _)
      (by simp only [Reg.CXP_CTRL.EN, Reg.CXP_STATE.STATE]; omega) (by simp only [Reg.CXP_CTRL.EN, Reg.CXP_INT_STATUS]; omega)).trans
        (h.ctrlWritten_en n v false)
  have h1 := k.settlePair_keeps e hn (.inr (.inl ((HostSide.on_eq_false_iff _ _).mpr hen)))
  have h2 := h1.trans (HostSide.settlePair_keeps _ e hn (.inr (.inl ((HostSide.on_eq_false_iff _ _).mpr (h1.en.trans hen)))))
  rw [HostSide.cxpCtrl_eq, if_pos (by rfl), hk]
  exact ⟨h2.linkIn hin, h2.en.trans hen, by rw [h2.link, hpwr]⟩

/-! ### The end of a claim (R49, R51) -/

theorem HostSide.claims_of_off {h : HostSide} (hst : h.linkState n = 0) : h.claims n = false := by simp [HostSide.claims, hst]

theorem HostSide.claims_of_width {h : HostSide} (hw : h.get (Reg.CXP_CTRL.WIDTH n) ≠ 2) : h.claims n = false := by
  simp [HostSide.claims, hw]

variable (hn : n + 1 < 16) (heven : n % 2 = 0) (hst : h.linkState n ≠ 0) (hoff : h.linkState (n + 1) = 0)
  (hen : h.on (Reg.CXP_CTRL.EN (n + 1)) = true) (ht : h.get (Reg.CXP_STATE.LANES_TAKEN (n + 1)) = 1)
include hn heven hst hoff hen ht

/-- The claim of an even link ends when it goes off, and its odd link leaves OFF. -/
theorem HostSide.cxpCtrl_off_ends : (h.cxpCtrl e n v false).linkIn (n + 1) 1 0
    ∧ (h.cxpCtrl e n v false).get (Reg.CXP_STATE.LANES_TAKEN (n + 1)) = 0 := by
  have hn' : n < 16 := by omega
  obtain ⟨k, hk, hin, -, hget⟩ := h.ctrlWritten_off e v hn' hst
  have hkeeps {f : RF} (ha : linkWord (n + 1) f.addr) : k.get f = h.get f := by
    unfold linkWord at ha
    refine (hget f (by omega) ?_ ?_).trans (h.get_ctrlWritten n v false ?_ (by omega)) <;>
      simp only [Reg.CXP_CTRL.EN, Reg.CXP_STATE.STATE, Reg.CXP_INT_STATUS] <;> omega
  have henk : k.get (Reg.CXP_CTRL.EN n) = 0 := (hget _ (Nat.le_add_right _ _)
      (by simp only [Reg.CXP_CTRL.EN, Reg.CXP_STATE.STATE]; omega) (by simp only [Reg.CXP_CTRL.EN, Reg.CXP_INT_STATUS]; omega)).trans
        (h.ctrlWritten_en n v false)
  have htk := (hkeeps (f := Reg.CXP_STATE.LANES_TAKEN (n + 1)) (by simp only [linkWord, Reg.CXP_STATE.LANES_TAKEN]; omega)).trans ht
  have henk' := HostSide.on_congr (hkeeps (f := Reg.CXP_CTRL.EN (n + 1)) (by simp only [linkWord, Reg.CXP_CTRL.EN]; omega))
  have hoffk := (hkeeps (f := Reg.CXP_STATE.STATE (n + 1)) (by simp only [linkWord, Reg.CXP_STATE.STATE]; omega)).trans hoff
  obtain ⟨hin1, ht1, -⟩ := k.settlePair_ends e hn heven (by simp [HostSide.on, htk]) (HostSide.claims_of_off hin.1) (henk'.trans hen) hoffk
  have hst1 := (k.settlePair_keeps e hn' (.inr (.inl ((HostSide.on_eq_false_iff _ _).mpr henk)))).state.trans hin.1
  have hidle := (k.settlePair e n).settlePair_idle e (n := n)
    (.inl (by rw [show n / 2 * 2 = n by omega]; exact (HostSide.on_eq_false_iff _ _).mpr ht1))
  rw [show n / 2 * 2 = n by omega, HostSide.claims_of_off hst1] at hidle
  rw [HostSide.cxpCtrl_eq, if_pos (by rfl), hk, hidle]
  refine ⟨(HostSide.KeepsLink.set_at (f := Reg.CXP_STATE.LANES_TAKEN) _ (n + 1) _ (fun _ => rfl) (by decide)).linkIn hin1, ?_⟩
  exact HostSide.get_set_val _ _ 0 (Nat.le_of_ble_eq_true rfl) (Nat.le_of_ble_eq_true rfl)

/-- A lower WIDTH ends the claim too: the even link stays in its state, at most x2 wide, and its odd link leaves OFF. -/
theorem HostSide.cxpCtrl_on_ends (hv : v.toNat / 4 % 4 < 2) : (h.cxpCtrl e n v true).linkIn (n + 1) 1 0
    ∧ (h.cxpCtrl e n v true).get (Reg.CXP_STATE.LANES_TAKEN (n + 1)) = 0 ∧ (h.cxpCtrl e n v true).linkState n = h.linkState n
    ∧ ((h.cxpCtrl e n v true).link n).width ≤ 1 ∧ (h.cxpCtrl e n v true).get (Reg.CXP_STATE.WIDTH_NOW n) ≤ 1 := by
  have hn' : n < 16 := by omega
  have hkeeps {f : RF} (ha : linkWord (n + 1) f.addr) : (h.ctrlWritten n v true).get f = h.get f := by
    unfold linkWord at ha
    exact h.get_ctrlWritten n v true (by simp only [Reg.CXP_CTRL.EN]; omega) (by omega)
  have htk := (hkeeps (f := Reg.CXP_STATE.LANES_TAKEN (n + 1)) (by simp only [linkWord, Reg.CXP_STATE.LANES_TAKEN]; omega)).trans ht
  have henk := HostSide.on_congr (hkeeps (f := Reg.CXP_CTRL.EN (n + 1)) (by simp only [linkWord, Reg.CXP_CTRL.EN]; omega))
  have hclaim := HostSide.claims_of_width (h := h.ctrlWritten n v true) (n := n)
    (by rw [h.ctrlWritten_width hn' v true (by omega)]; omega)
  have hstk := h.linkState_ctrlWritten n v true
  rw [HostSide.cxpCtrl_eq, if_neg (by simp), if_neg (by simp [hstk, hst])]
  obtain ⟨hin, htaken, hnarrow⟩ := HostSide.settlePair_ends _ e hn heven (by simp [HostSide.on, htk]) hclaim (henk.trans hen)
    ((hstk _).trans hoff)
  refine ⟨hin, htaken, ?_, hnarrow ((hstk n).symm ▸ hst)⟩
  exact (HostSide.settlePair_keeps _ e hn' (.inl ((hstk n).symm ▸ hst))).state.trans (hstk n)

end

/-- Settles O9: each transition through what entering a state leaves and what the settling of the pair keeps. -/
theorem cameraLinkStates : Obligations.CameraLinkStates := by
  unfold Obligations.CameraLinkStates
  have hsettle {h : HostSide} {f : RF} (hf : 0x14040 < f.addr) := h.settle_get_high f hf
  refine ⟨?enable, ?disable, ?wait, ?discover, fun s n => execCxpConfigAck_entered, ?switch, fun s n => execCxpLockLoss_entered,
    fun s n => execCxpPowerFault_on, fun s n => execCxpRestart_entered, ?ends⟩
  case enable =>
    intro s n v ho hn hv hst ht
    obtain ⟨hin, hen⟩ := s.host.cxpCtrl_on_wait s.env v (hn.trans_le s.variant.links_le) hst ht
    exact ⟨_, execCxpLinkEnable_taken ho hn hv, HostSide.linkIn_settle hin s, (hsettle (Nat.lt_add_right _ (by decide))).trans hen⟩
  case disable =>
    intro s n v ho hn hv hst
    obtain ⟨hin, hen, hpwr⟩ := s.host.cxpCtrl_off s.env v (hn.trans_le s.variant.links_le) hst
    exact ⟨_, execCxpLinkDisable_taken ho hn hv, HostSide.linkIn_settle hin s, (hsettle (Nat.lt_add_right _ (by decide))).trans hen,
      (congrArg CxpLink.pwr (HostSide.link_settle _ n)).trans hpwr⟩
  case wait => exact fun s n hu hn hst => ⟨execCxpMasterLock_entered hu hn hst, execCxpDiscTimeout_entered hu hn hst⟩
  case discover =>
    intro s n conn speed hs hu hn hst
    refine ⟨?_, fun last => execCxpBootstrapReadDone_failed conn speed hs last hu hn hst,
      fun last => execCxpBootstrapReadDone_again conn speed hs last hu hn hst⟩
    obtain ⟨t, hex, hin, hlink⟩ := execCxpBootstrapReadDone_config conn speed hs hu hn hst
    exact ⟨t, hex, hin, by rw [hlink], by rw [hlink], by rw [hlink]⟩
  case switch =>
    intro s n hu hn hst
    refine ⟨execCxpSwitchLocked_entered hu hn hst, execCxpSwitchTimeout_failed hu hn hst, fun hsp => ?_⟩
    obtain ⟨t, hex, hin, hlink⟩ := execCxpSwitchTimeout_config hu hn hst hsp
    exact ⟨t, hex, hin, by rw [hlink], by rw [hlink]⟩
  case ends =>
    intro s n v ho hn heven hst hoff hen ht
    have hn16 := hn.trans_le s.variant.links_le
    have hn' : n < s.variant.links := by omega
    refine ⟨fun hv => ?_, fun hv hw => ?_⟩
    · obtain ⟨hin, htk⟩ := s.host.cxpCtrl_off_ends s.env v hn16 heven hst hoff hen ht
      exact ⟨_, execCxpLinkDisable_taken ho hn' hv, HostSide.linkIn_settle (s.host.cxpCtrl_off s.env v (by omega) hst).1 s,
        HostSide.linkIn_settle hin s, (hsettle (Nat.lt_add_right _ (by decide))).trans htk⟩
    · obtain ⟨hin, htk, hstn, hwidth, hnow⟩ := s.host.cxpCtrl_on_ends s.env v hn16 heven hst hoff hen ht hw
      exact ⟨_, execCxpLinkEnable_taken ho hn' hv, HostSide.linkIn_settle hin s, (hsettle (Nat.lt_add_right _ (by decide))).trans htk,
        (HostSide.linkState_settle _ n).trans hstn, (congrArg CxpLink.width (HostSide.link_settle _ n)).trans_le hwidth,
        (hsettle (Nat.lt_add_right _ (by decide))).trans_le hnow⟩

end Sys2Proof.Machine

/-! SUPPORT. What arrives on a camera link (R56, R57), and the statement about it. -/

namespace Sys2Proof.Machine
open Sys2Proof

/-! ### Stream packets (R56) -/

/-- What the map of link `n` names rests on the words of the links. -/
theorem HostSide.mapOf_congr {g h : HostSide} {n : Nat} (hn : n < 16) (id : Nat)
    (hw : ∀ a, ¬ inGauge a → g.word a = h.word a) : g.mapOf n id = h.mapOf n id := by
  have hget (f : RF) (hf : f.addr < 0x600000) : g.get f = h.get f := HostSide.get_of_word _ _ _ (hw _ fun hg => by unfold inGauge at hg; omega)
  unfold HostSide.mapOf HostSide.mapped
  have hctx (i : Nat) (hi : i < 4) := hget (Reg.CXP_MAP.CTX n i) (by simp only [Reg.CXP_MAP.CTX]; omega)
  rw [List.find?_congr (p₂ := fun i => (h.on (Reg.CXP_MAP.VALID n i) && h.get (Reg.CXP_MAP.CTX n i) / 64 == n / 8)
    && h.get (Reg.CXP_MAP.STREAM_ID n i) == id) fun i hi => ?_]
  · refine Option.map_congr fun i hi => hctx i ?_
    exact List.mem_range.mp (List.mem_of_find?_eq_some hi)
  · have hi4 := List.mem_range.mp hi
    rw [HostSide.on_congr (hget (Reg.CXP_MAP.VALID n i) (by simp only [Reg.CXP_MAP.VALID]; omega)), hctx i hi4,
      hget (Reg.CXP_MAP.STREAM_ID n i) (by simp only [Reg.CXP_MAP.STREAM_ID]; omega)]

/-- Bytes join the line of context `x` in arrival on link `n` (R56, R93). -/
def HostSide.joinLine (h : HostSide) (n x : Nat) (bs : List Byte) (bad : Bool) : HostSide :=
  let p := SMap.get (fun _ => (([] : List Byte), false)) (h.link n).parts x
  h.setLink n { h.link n with parts := (h.link n).parts.put x (p.1 ++ bs, p.2 || bad) }

theorem HostSide.joinLine_parts (h : HostSide) (n x : Nat) (bs : List Byte) (bad : Bool) :
    SMap.get (fun _ => ([], false)) ((h.joinLine n x bs bad).link n).parts x
      = ((SMap.get (fun _ => ([], false)) (h.link n).parts x).1 ++ bs,
         (SMap.get (fun _ => ([], false)) (h.link n).parts x).2 || bad) := by
  rw [HostSide.joinLine, HostSide.link_setLink_self]
  exact (SMap.get_put _ _ _ _ _).trans (if_pos rfl)

/-- Counting a packet leaves the link, its registers, its map and the contexts. -/
theorem HostSide.countG_packet (h : HostSide) (n k : Nat) (hn : n < 16) :
    (h.countG 0x20 n k).link n = h.link n ∧ (∀ x f, (h.countG 0x20 n k).act x f = h.act x f)
      ∧ (∀ id, (h.countG 0x20 n k).mapOf n id = h.mapOf n id) ∧ ∀ f : RF, f.addr < 0x600000 → (h.countG 0x20 n k).get f = h.get f := by
  have hc := HostSide.CyclesPassed.countG h 0x20 n k
  have hctxs : (h.countG 0x20 n k).ctxs = h.ctxs := (congrArg HostSide.ctxs hc.rest :)
  refine ⟨HostSide.link_congr (congrArg HostSide.links hc.rest :) n, fun x f => ?_, fun id => HostSide.mapOf_congr hn id hc.words,
    fun f hf => HostSide.get_of_word _ _ _ (hc.words _ fun hg => by unfold inGauge at hg; omega)⟩
  unfold HostSide.act HostSide.ctx
  rw [hctxs]

section
variable {s : State} {n : Nat}

/-- What a packet of an UP link does, once it is counted. -/
theorem execCxpStreamPacket_up (id fmt : Nat) (gap : Bool) (data : List Byte) (hu : s.up) (hn : n < s.variant.links)
    (hst : s.host.linkState n = 5) :
    exec (.cxpStreamPacket n id fmt false gap data) s = .next { s with host := (match s.host.mapOf n id with
      | none => (s.host.countG 0x20 n data.length).inc (Reg.CXP_DROP n) 1
      | some x => if fmt != s.host.act x (Reg.UNPACK x) then (s.host.countG 0x20 n data.length).inc (Reg.CXP_DROP n) 1
        else (s.host.countG 0x20 n data.length).joinLine n x data gap).settle } := by
  obtain ⟨-, hact, hmap, -⟩ := s.host.countG_packet n data.length (hn.trans_le s.variant.links_le)
  show execCxpStreamPacket n id fmt false gap data s = _
  unfold execCxpStreamPacket
  rw [State.onHost_up s _ hu]
  dsimp only
  rw [if_neg (by simp [State.env, Nat.not_le.mpr hn, hst]), if_neg (by decide), hmap]
  cases s.host.mapOf n id with
  | none => rfl
  | some x =>
    dsimp only
    rw [hact]
    rfl

/-- A packet whose CRC fails counts in CXP_CRC_ERR and spoils the line it belongs to. -/
theorem execCxpStreamPacket_crcBad (id fmt : Nat) (gap : Bool) (data : List Byte) (hu : s.up) (hn : n < s.variant.links)
    (hst : s.host.linkState n = 5) :
    exec (.cxpStreamPacket n id fmt true gap data) s = .next { s with host :=
      (let g := ((s.host.countG 0x20 n data.length).inc (Reg.CXP_CRC_ERR n) 1).setBits (Reg.CXP_INT_STATUS n) 32
       match g.mapOf n id with
       | some x => g.joinLine n x [] true
       | none => g).settle } := by
  show execCxpStreamPacket n id fmt true gap data s = _
  unfold execCxpStreamPacket
  rw [State.onHost_up s _ hu]
  dsimp only
  rw [if_neg (by simp [State.env, Nat.not_le.mpr hn, hst]), if_pos rfl]
  rfl

end

/-! ### Heartbeats and events (R57) -/

/-- A link that is UP keeps its state when its pair settles, and all its words but the state's. -/
theorem HostSide.settlePair_up (h : HostSide) (e : Env) {n : Nat} (hn : n < 16) (hst : h.linkState n = 5) :
    h.KeepsLink n (h.settlePair e n) := h.settlePair_keeps e hn (.inl (by omega))

/-- A word of the link other than the state's, once the pair and the summaries have settled. -/
theorem HostSide.get_settlePair_up (h : HostSide) (e : Env) {n : Nat} (hn : n < 16) (hst : h.linkState n = 5) {f : RF}
    (hf : linkWord n f.addr) (hs : f.addr ≠ (Reg.CXP_STATE.STATE n).addr) : (h.settlePair e n).settle.get f = h.get f :=
  (HostSide.settle_get_high _ f (by unfold linkWord at hf; omega)).trans ((h.settlePair_up e hn hst).get hf hs)

theorem HostSide.get2_congr {g h : HostSide} {lo hi : RF} (hlo : g.get lo = h.get lo) (hhi : g.get hi = h.get hi) :
    g.get2 lo hi = h.get2 lo hi := by
  unfold HostSide.get2
  rw [hlo, hhi]

section
variable {s : State} {n : Nat}

theorem execCxpHeartbeatRx_up {cam : Nat} (hu : s.up) (hn : n < s.variant.links) (hst : s.host.linkState n = 5) (hcam : cam < 2 ^ 64) :
    ∃ t, exec (.cxpHeartbeatRx n cam) s = .next t ∧ t.host.get2 (Reg.CXP_HB_CAM_LO n) (Reg.CXP_HB_CAM_HI n) = cam
      ∧ t.host.get2 (Reg.CXP_HB_RX_LO n) (Reg.CXP_HB_RX_HI n) = s.tick.toNat := by
  have hn16 := hn.trans_le s.variant.links_le
  refine ⟨_, show execCxpHeartbeatRx n cam s = _ from State.onHost_inLink hu hn hst _, ?_⟩
  dsimp only
  have hcam2 : (s.host.set2 (Reg.CXP_HB_CAM_LO n) (Reg.CXP_HB_CAM_HI n) cam).get2 (Reg.CXP_HB_CAM_LO n) (Reg.CXP_HB_CAM_HI n) = cam :=
    HostSide.get2_set2 s.host (Reg.CXP_HB_CAM_LO n) (Reg.CXP_HB_CAM_HI n) cam (Nat.le_of_ble_eq_true rfl) (Nat.le_of_ble_eq_true rfl)
      (by simp only [Reg.CXP_HB_CAM_LO, Reg.CXP_HB_CAM_HI]; omega) hcam
  have hstate : (s.host.set2 (Reg.CXP_HB_CAM_LO n) (Reg.CXP_HB_CAM_HI n) cam).linkState n = 5 :=
    (HostSide.get_set2_leaves s.host _ _ (Reg.CXP_STATE.STATE n) cam (RF.leaves_at 0x400 (fun _ => rfl) (fun _ => rfl) (by decide) n)
      (RF.leaves_at 0x400 (fun _ => rfl) (fun _ => rfl) (by decide) n)).trans hst
  generalize s.host.set2 (Reg.CXP_HB_CAM_LO n) (Reg.CXP_HB_CAM_HI n) cam = g at *
  have hrx : (g.set2 (Reg.CXP_HB_RX_LO n) (Reg.CXP_HB_RX_HI n) s.env.tick).get2 (Reg.CXP_HB_RX_LO n) (Reg.CXP_HB_RX_HI n) = s.tick.toNat :=
    HostSide.get2_set2 g (Reg.CXP_HB_RX_LO n) (Reg.CXP_HB_RX_HI n) s.env.tick (Nat.le_of_ble_eq_true rfl) (Nat.le_of_ble_eq_true rfl)
      (by simp only [Reg.CXP_HB_RX_LO, Reg.CXP_HB_RX_HI]; omega) s.tick.isLt
  have hleft {f : Nat → RF} (hf : ∀ i, f i = ⟨(f 0).addr + i * 0x400, (f 0).lo, (f 0).w⟩) (ha : (f 0).addr < 0x50038) :
      (g.set2 (Reg.CXP_HB_RX_LO n) (Reg.CXP_HB_RX_HI n) s.env.tick).get (f n) = g.get (f n) :=
    HostSide.get_set2_leaves g _ _ (f n) _
      (RF.leaves_at (f := Reg.CXP_HB_RX_LO) 0x400 (fun _ => rfl) hf ⟨by decide, .inl (by simp only [Reg.CXP_HB_RX_LO]; omega)⟩ n)
      (RF.leaves_at (f := Reg.CXP_HB_RX_HI) 0x400 (fun _ => rfl) hf ⟨by decide, .inl (by simp only [Reg.CXP_HB_RX_HI]; omega)⟩ n)
  have hcam3 : (g.set2 (Reg.CXP_HB_RX_LO n) (Reg.CXP_HB_RX_HI n) s.env.tick).get2 (Reg.CXP_HB_CAM_LO n) (Reg.CXP_HB_CAM_HI n) = cam :=
    (HostSide.get2_congr (hleft (f := Reg.CXP_HB_CAM_LO) (fun _ => rfl) (by decide))
      (hleft (f := Reg.CXP_HB_CAM_HI) (fun _ => rfl) (by decide))).trans hcam2
  have hstate2 := (hleft (f := Reg.CXP_STATE.STATE) (fun _ => rfl) (by decide)).trans hstate
  generalize g.set2 (Reg.CXP_HB_RX_LO n) (Reg.CXP_HB_RX_HI n) s.env.tick = k at *
  have hkeep {f : RF} := k.get_settlePair_up s.env hn16 hstate2 (f := f)
  refine ⟨(HostSide.get2_congr (hkeep ?_ ?_) (hkeep ?_ ?_)).trans hcam3, (HostSide.get2_congr (hkeep ?_ ?_) (hkeep ?_ ?_)).trans hrx⟩
  all_goals
    simp only [linkWord, Reg.CXP_HB_CAM_LO, Reg.CXP_HB_CAM_HI, Reg.CXP_HB_RX_LO, Reg.CXP_HB_RX_HI, Reg.CXP_STATE.STATE]
    omega

theorem execCxpHbTimeout_up (hu : s.up) (hn : n < s.variant.links) (hst : s.host.linkState n = 5) :
    ∃ t, exec (.cxpHbTimeout n) s = .next t ∧ bit (t.host.get (Reg.CXP_INT_STATUS n)) 3 = true ∧ t.host.linkState n = 5 := by
  have hn16 := hn.trans_le s.variant.links_le
  have hstate : (s.host.setBits (Reg.CXP_INT_STATUS n) 8).linkState n = 5 :=
    (HostSide.get_setBits_leaves s.host _ (Reg.CXP_STATE.STATE n) 8 (RF.leaves_at 0x400 (fun _ => rfl) (fun _ => rfl) (by decide) n)).trans hst
  refine ⟨_, show execCxpHbTimeout n s = _ from State.onHost_inLink hu hn hst _, ?_,
    (HostSide.linkState_settle _ n).trans ((HostSide.settlePair_up _ s.env hn16 hstate).state.trans hstate)⟩
  dsimp only
  rw [HostSide.get_settlePair_up _ s.env hn16 hstate (by simp only [linkWord, Reg.CXP_INT_STATUS]; omega)
    (by simp only [Reg.CXP_INT_STATUS, Reg.CXP_STATE.STATE]; omega),
    HostSide.bit_get_setBits _ _ _ 3 (Nat.le_of_ble_eq_true rfl) (Nat.le_of_ble_eq_true rfl)]
  exact Bool.or_true _

/-- An event enters the FIFO, cut to 252 bytes (R57). -/
theorem execCxpEventPacket_queued {data : List Byte} (hu : s.up) (hn : n < s.variant.links) (hst : s.host.linkState n = 5)
    (hroom : (s.host.link n).events.length < 8) :
    ∃ t, exec (.cxpEventPacket n data) s = .next t
      ∧ (t.host.link n).events = (s.host.link n).events ++ [(data.take 252, decide (252 < data.length))]
      ∧ t.host.get (Reg.CXP_EVT_STATUS.COUNT n) = (s.host.link n).events.length + 1
      ∧ bit (t.host.get (Reg.CXP_INT_STATUS n)) 2 = true := by
  have hn16 := hn.trans_le s.variant.links_le
  have hex : exec (.cxpEventPacket n data) s = .next { s with host := ((((s.host.setLink n { s.host.link n with
      events := (s.host.link n).events ++ [(data.take 252, decide (252 < data.length))] }).set (Reg.CXP_EVT_STATUS.COUNT n)
        ((s.host.link n).events.length + 1)).setBits (Reg.CXP_INT_STATUS n) 4).settlePair s.env n).settle } := by
    refine (show execCxpEventPacket n data s = _ from State.onHost_inLink hu hn hst _).trans ?_
    dsimp only
    rw [if_neg (Nat.not_le.mpr hroom)]
  refine ⟨_, hex, ?_⟩
  have hleaves {f g : Nat → RF} := @RF.leaves_at f g 0x400
  have hstate : (((s.host.setLink n { s.host.link n with
      events := (s.host.link n).events ++ [(data.take 252, decide (252 < data.length))] }).set (Reg.CXP_EVT_STATUS.COUNT n)
        ((s.host.link n).events.length + 1)).setBits (Reg.CXP_INT_STATUS n) 4).linkState n = 5 :=
    (HostSide.get_setBits_leaves _ _ (Reg.CXP_STATE.STATE n) _ (hleaves (fun _ => rfl) (fun _ => rfl) (by decide) n)).trans
      ((HostSide.get_set_leaves _ _ (Reg.CXP_STATE.STATE n) _ (hleaves (fun _ => rfl) (fun _ => rfl) (by decide) n)).trans hst)
  refine ⟨?_, ?_, ?_⟩
  · rw [HostSide.link_settle, (HostSide.settlePair_up _ s.env hn16 hstate).link]
    exact congrArg CxpLink.events (HostSide.link_setLink_self s.host n _)
  · refine (HostSide.get_settlePair_up _ s.env hn16 hstate (by simp only [linkWord, Reg.CXP_EVT_STATUS.COUNT]; omega)
      (by simp only [Reg.CXP_EVT_STATUS.COUNT, Reg.CXP_STATE.STATE]; omega)).trans ?_
    rw [HostSide.get_setBits_leaves _ _ _ _ (hleaves (fun _ => rfl) (fun _ => rfl) (by decide) n)]
    exact HostSide.get_set_val _ _ _ (Nat.le_of_ble_eq_true rfl) (show (s.host.link n).events.length + 1 < 2 ^ 4 by omega)
  · dsimp only
    rw [HostSide.get_settlePair_up _ s.env hn16 hstate (by simp only [linkWord, Reg.CXP_INT_STATUS]; omega)
      (by simp only [Reg.CXP_INT_STATUS, Reg.CXP_STATE.STATE]; omega),
      HostSide.bit_get_setBits _ _ _ 2 (Nat.le_of_ble_eq_true rfl) (Nat.le_of_ble_eq_true rfl)]
    exact Bool.or_true _

/-- An event that finds the FIFO full is dropped with OVF (R57). -/
theorem execCxpEventPacket_full {data : List Byte} (hu : s.up) (hn : n < s.variant.links) (hst : s.host.linkState n = 5)
    (hfull : 8 ≤ (s.host.link n).events.length) :
    ∃ t, exec (.cxpEventPacket n data) s = .next t ∧ (t.host.link n).events = (s.host.link n).events
      ∧ t.host.get (Reg.CXP_EVT_STATUS.OVF n) = 1 := by
  have hn16 := hn.trans_le s.variant.links_le
  have hstate : (s.host.set (Reg.CXP_EVT_STATUS.OVF n) 1).linkState n = 5 :=
    (HostSide.get_set_leaves _ _ (Reg.CXP_STATE.STATE n) _ (RF.leaves_at 0x400 (fun _ => rfl) (fun _ => rfl) (by decide) n)).trans hst
  have hex : exec (.cxpEventPacket n data) s
      = .next { s with host := ((s.host.set (Reg.CXP_EVT_STATUS.OVF n) 1).settlePair s.env n).settle } := by
    refine (show execCxpEventPacket n data s = _ from State.onHost_inLink hu hn hst _).trans ?_
    dsimp only
    rw [if_pos hfull]
  refine ⟨_, hex, ?_, ?_⟩
  · rw [HostSide.link_settle, (HostSide.settlePair_up _ s.env hn16 hstate).link]
    rfl
  · refine (HostSide.get_settlePair_up _ s.env hn16 hstate (by simp only [linkWord, Reg.CXP_EVT_STATUS.OVF]; omega)
      (by simp only [Reg.CXP_EVT_STATUS.OVF, Reg.CXP_STATE.STATE]; omega)).trans ?_
    exact HostSide.get_set_val _ _ 1 (Nat.le_of_ble_eq_true rfl) (Nat.le_of_ble_eq_true rfl)

theorem execCxpEvtPop_open (ho : s.open_) (hn : n < s.variant.links) :
    exec (.cxpEvtPop n) s = .next { s with host := ((s.host.setLink n { s.host.link n with events := (s.host.link n).events.drop 1 }).set
      (Reg.CXP_EVT_STATUS.COUNT n) ((s.host.link n).events.length - 1)).settle } := by
  show execCxpEvtPop n s = _
  unfold execCxpEvtPop
  rw [State.onBar_open s _ ho, if_neg (by simp [State.env, Nat.not_le.mpr hn])]

end

/-- Settles O11: a packet through what counting it leaves, the rest through the settling of the pair of a link that is UP. -/
theorem cameraStreamsAndEvents : Obligations.CameraStreamsAndEvents := by
  unfold Obligations.CameraStreamsAndEvents
  refine ⟨?mapped, ?dropped, ?crc, fun s n cam => execCxpHeartbeatRx_up, fun s n => execCxpHbTimeout_up,
    fun s n data hu hn hst => ⟨execCxpEventPacket_queued hu hn hst, execCxpEventPacket_full hu hn hst⟩, ?pop⟩
  case mapped =>
    intro s n id fmt x gap data hu hn hst hmap hfmt
    obtain ⟨hlink, -⟩ := s.host.countG_packet n data.length (hn.trans_le s.variant.links_le)
    refine ⟨_, execCxpStreamPacket_up id fmt gap data hu hn hst, ?_⟩
    rw [hmap]
    dsimp only
    rw [if_neg (by simp [hfmt]), HostSide.link_settle, HostSide.joinLine_parts, hlink]
  case dropped =>
    intro s n id fmt gap data hu hn hst hmap
    obtain ⟨hlink, -, -, hget⟩ := s.host.countG_packet n data.length (hn.trans_le s.variant.links_le)
    refine ⟨{ s with host := ((s.host.countG 0x20 n data.length).inc (Reg.CXP_DROP n) 1).settle }, ?_, ?_, ?_, ?_⟩
    · rw [execCxpStreamPacket_up id fmt gap data hu hn hst]
      cases hm : s.host.mapOf n id with
      | none => rfl
      | some x =>
        dsimp only
        rw [if_pos (by simpa using hmap x hm)]
    · rw [HostSide.link_settle]
      exact hlink
    · dsimp only
      rw [HostSide.settle_get_high _ _ (Nat.lt_add_right _ (by decide)), HostSide.get_inc_self _ _ _ (Nat.le_of_ble_eq_true rfl),
        hget _ (by have := hn.trans_le s.variant.links_le; simp only [Reg.CXP_DROP]; omega)]
      rfl
    · dsimp only
      rw [HostSide.settle_get_high _ _ (Nat.lt_add_right _ (by decide)), HostSide.get_inc_leaves _ _ _ _
        (RF.leaves_at 0x400 (fun _ => rfl) (fun _ => rfl) (by decide) n),
        hget _ (by have := hn.trans_le s.variant.links_le; simp only [Reg.CXP_CRC_ERR]; omega)]
  case crc =>
    intro s n id fmt gap data hu hn hst
    obtain ⟨-, -, -, hget⟩ := s.host.countG_packet n data.length (hn.trans_le s.variant.links_le)
    have hspoil (g : HostSide) (f : RF) : (match g.mapOf n id with
        | some x => g.joinLine n x [] true
        | none => g).get f = g.get f := by
      cases g.mapOf n id with
      | none => rfl
      | some x => rfl
    refine ⟨_, execCxpStreamPacket_crcBad id fmt gap data hu hn hst, ?_, ?_⟩
    · dsimp only
      rw [HostSide.settle_get_high _ _ (Nat.lt_add_right _ (by decide)), hspoil, HostSide.get_setBits_leaves _ _ _ _
        (RF.leaves_at 0x400 (fun _ => rfl) (fun _ => rfl) (by decide) n), HostSide.get_inc_self _ _ _ (Nat.le_of_ble_eq_true rfl),
        hget _ (by have := hn.trans_le s.variant.links_le; simp only [Reg.CXP_CRC_ERR]; omega)]
      rfl
    · dsimp only
      rw [HostSide.settle_get_high _ _ (Nat.lt_add_right _ (by decide)), hspoil, HostSide.get_setBits_leaves _ _ _ _
        (RF.leaves_at 0x400 (fun _ => rfl) (fun _ => rfl) (by decide) n), HostSide.get_inc_leaves _ _ _ _
        (RF.leaves_at 0x400 (fun _ => rfl) (fun _ => rfl) (by decide) n),
        hget _ (by have := hn.trans_le s.variant.links_le; simp only [Reg.CXP_DROP]; omega)]
  case pop =>
    intro s n ho hn hlen
    refine ⟨_, execCxpEvtPop_open ho hn, ?_, ?_, State.changes_of s _ _ _ rfl ?_⟩
    · rw [HostSide.link_settle]
      exact HostSide.link_setLink_self s.host n _
    · dsimp only
      rw [HostSide.settle_get_high _ _ (Nat.lt_add_right _ (by decide))]
      exact HostSide.get_set_val _ _ _ (Nat.le_of_ble_eq_true rfl) (show (s.host.link n).events.length - 1 < 2 ^ 4 by omega)
    · exact (HostSide.wordsBut.refl (s.host.setLink n _) _).set _ _ (by simp)

end Sys2Proof.Machine

/-! SUPPORT. The PRBS patterns (R38, R39): what a generator sends is a piece of its pattern, and errors add up. -/

namespace Sys2Proof

/-! ### Lists of bits of a pattern -/

section
variable (pat : Nat)

theorem prbsBits_length (n st : Nat) : (prbsBits pat n st).1.length = n := by
  induction n generalizing st with
  | zero => rfl
  | succ n ih => simp [prbsBits, ih]

theorem prbsBits_take (k n st : Nat) (hk : k ≤ n) : (prbsBits pat n st).1.take k = (prbsBits pat k st).1 := by
  induction k generalizing n st with
  | zero => rfl
  | succ k ih =>
    obtain ⟨m, rfl⟩ : ∃ m, n = m + 1 := ⟨n - 1, by omega⟩
    simp only [prbsBits, List.take_succ_cons]
    rw [ih m _ (by omega)]

theorem prbsBits_drop (k n st : Nat) : (prbsBits pat n st).1.drop k = (prbsBits pat (n - k) (prbsSkip pat k st)).1 := by
  induction k generalizing n st with
  | zero => rfl
  | succ k ih =>
    cases n with
    | zero => simp [prbsBits]
    | succ n => simpa only [prbsBits, List.drop_succ_cons, prbsSkip, Nat.add_sub_add_right] using ih n (prbsNext pat st)

/-- The register after `n` bits holds the last of them. -/
theorem foldl_prbsPush_prbsBits (n st : Nat) : (prbsBits pat n st).1.foldl (prbsPush pat) st = prbsSkip pat n st := by
  induction n generalizing st with
  | zero => rfl
  | succ n ih => exact ih (prbsNext pat st)

/-- What a stream leaves of the bits before it is shifted up by its length. -/
theorem foldl_prbsPush_modEq (l : List Bool) (x : Nat) :
    l.foldl (prbsPush pat) x ≡ x * 2 ^ l.length + l.foldl (prbsPush pat) 0 [MOD 2 ^ (prbsTaps pat).1] := by
  have hpush (y : Nat) (b : Bool) : prbsPush pat y b ≡ 2 * y + b2n b [MOD 2 ^ (prbsTaps pat).1] := Nat.mod_modEq _ _
  induction l generalizing x with
  | nil => simp [Nat.ModEq.refl]
  | cons b l ih =>
    simp only [List.foldl_cons, List.length_cons]
    have h0 := ih (prbsPush pat 0 b)
    have hx := ((ih (prbsPush pat x b)).trans (((hpush x b).mul_right _).add_right _))
    have h0' := h0.trans (((hpush 0 b).mul_right _).add_right _)
    refine hx.trans ?_
    have := (h0'.add_left (x * 2 ^ (l.length + 1))).symm
    refine Nat.ModEq.trans ?_ this
    rw [show (2 * x + b2n b) * 2 ^ l.length + l.foldl (prbsPush pat) 0
      = x * 2 ^ (l.length + 1) + ((2 * 0 + b2n b) * 2 ^ l.length + l.foldl (prbsPush pat) 0) by ring]

theorem foldl_prbsPush_lt (l : List Bool) (x : Nat) (hl : l ≠ []) : l.foldl (prbsPush pat) x < 2 ^ (prbsTaps pat).1 := by
  obtain ⟨l', b, rfl⟩ := List.eq_nil_or_concat l |>.resolve_left hl
  rw [List.concat_eq_append, List.foldl_append]
  exact Nat.mod_lt _ (Nat.two_pow_pos _)

/-- A stream as long as the register leaves nothing of what stood in it. -/
theorem foldl_prbsPush_of_length (l : List Bool) (x : Nat) (hl : (prbsTaps pat).1 ≤ l.length) (hne : l ≠ []) :
    l.foldl (prbsPush pat) x = prbsLast pat l := by
  have h := foldl_prbsPush_modEq pat l x
  have h0 : x * 2 ^ l.length + l.foldl (prbsPush pat) 0 ≡ l.foldl (prbsPush pat) 0 [MOD 2 ^ (prbsTaps pat).1] := by
    refine Nat.ModEq.trans (Nat.ModEq.add_right _ ?_) (by rw [Nat.zero_add])
    exact (Nat.modEq_zero_iff_dvd.mpr ((pow_dvd_pow 2 hl).mul_left x))
  exact Nat.ModEq.eq_of_lt_of_lt (h.trans h0) (foldl_prbsPush_lt pat l x hne) (foldl_prbsPush_lt pat l 0 hne)

theorem prbsTaps_spec : 0 < (prbsTaps pat).2 ∧ (prbsTaps pat).2 < (prbsTaps pat).1 ∧ (prbsTaps pat).1 < 64 := by
  unfold prbsTaps
  split <;> decide

/-- A generator that is not all zero stays so (R38). -/
theorem prbsNext_pos {st : Nat} (h0 : 0 < st) (hlt : st < 2 ^ (prbsTaps pat).1) :
    0 < prbsNext pat st ∧ prbsNext pat st < 2 ^ (prbsTaps pat).1 := by
  obtain ⟨hk, hkw, -⟩ := prbsTaps_spec pat
  refine ⟨Nat.pos_of_ne_zero fun hz => ?_, Nat.mod_lt _ (Nat.two_pow_pos _)⟩
  unfold prbsNext prbsPush at hz
  obtain ⟨w, hw⟩ : ∃ w, (prbsTaps pat).1 = w + 1 := ⟨(prbsTaps pat).1 - 1, by omega⟩
  have hdvd : 2 ^ (w + 1) ∣ 2 * st + b2n (prbsBit pat st) := hw ▸ Nat.dvd_of_mod_eq_zero hz
  have hb : prbsBit pat st = false := by
    by_contra hb
    rw [Bool.not_eq_false] at hb
    rw [hb, pow_succ] at hdvd
    have := (Dvd.intro_left _ rfl : 2 ∣ 2 ^ w * 2).trans hdvd
    simp only [b2n, if_true] at this
    omega
  have hst : st = 2 ^ w := by
    rw [hb] at hdvd
    simp only [b2n, Bool.false_eq_true, if_false, Nat.add_zero] at hdvd
    rw [pow_succ, Nat.mul_comm 2 st] at hdvd
    obtain ⟨c, hc⟩ := Nat.dvd_of_mul_dvd_mul_right (by decide) hdvd
    rw [hw, pow_succ] at hlt
    have : c = 1 := by nlinarith [Nat.two_pow_pos w]
    rw [hc, this, Nat.mul_one]
  unfold prbsBit at hb
  rw [hst, hw, bit_eq_testBit, bit_eq_testBit, Nat.add_sub_cancel, Nat.testBit_two_pow_self,
    Nat.testBit_two_pow_of_ne (by omega)] at hb
  exact absurd hb (by decide)

theorem prbsSkip_pos {st : Nat} (n : Nat) (h0 : 0 < st) (hlt : st < 2 ^ (prbsTaps pat).1) :
    0 < prbsSkip pat n st ∧ prbsSkip pat n st < 2 ^ (prbsTaps pat).1 := by
  induction n generalizing st with
  | zero => exact ⟨h0, hlt⟩
  | succ n ih =>
    obtain ⟨h1, h2⟩ := prbsNext_pos pat h0 hlt
    exact ih h1 h2

/-- Any 64 bits of a running generator are a piece of its pattern (R38, R39). -/
theorem prbsPiece_prbsBits {n st : Nat} (h0 : 0 < st) (hlt : st < 2 ^ (prbsTaps pat).1) (hn : 64 ≤ n) :
    prbsPiece pat ((prbsBits pat n st).1.drop (n - 64)) = true := by
  obtain ⟨-, hkw, hw⟩ := prbsTaps_spec pat
  obtain ⟨hp, hplt⟩ := prbsSkip_pos pat (n - 64) h0 hlt
  rw [prbsBits_drop, show n - (n - 64) = 64 by omega]
  generalize prbsSkip pat (n - 64) st = x at *
  have hlast : prbsLast pat ((prbsBits pat 64 x).1.take (prbsTaps pat).1) = prbsSkip pat (prbsTaps pat).1 x := by
    rw [prbsBits_take pat _ _ _ hw.le, ← foldl_prbsPush_prbsBits]
    refine (foldl_prbsPush_of_length pat _ x (prbsBits_length pat _ x).ge fun hnil => ?_).symm
    have := congrArg List.length hnil
    rw [prbsBits_length, List.length_nil] at this
    omega
  unfold prbsPiece
  simp only [hlast, prbsBits_length, prbsBits_drop, beq_self_eq_true, Bool.and_true, bne_iff_ne]
  exact (prbsSkip_pos pat _ hp hplt).1.ne'

/-- The errors of a stream are those of its two parts (R39). -/
theorem prbsErrors_append (st : Nat) (a b : List Bool) :
    prbsErrors pat st (a ++ b) = prbsErrors pat st a + prbsErrors pat (prbsSkip pat a.length st) b := by
  induction a generalizing st with
  | nil => simp [prbsErrors, prbsSkip]
  | cons x a ih => simp only [List.cons_append, prbsErrors, List.length_cons, prbsSkip, ih, Nat.add_assoc]

end

end Sys2Proof

/-! SUPPORT. What counting a lane's bits and its events change (R37 to R42, R47), and the statement about lanes. -/

namespace Sys2Proof.Machine
open Sys2Proof

theorem Variant.lanes_le (v : Variant) : v.lanes ≤ 48 := by cases v <;> decide

theorem HostSide.lane_setLane (h : HostSide) (l m : Nat) (x : Lane) : (h.setLane l x).lane m = if m = l then x else h.lane m :=
  SMap.get_put _ _ _ _ _

@[simp] theorem HostSide.lane_setLane_self (h : HostSide) (l : Nat) (x : Lane) : (h.setLane l x).lane l = x := by
  rw [HostSide.lane_setLane, if_pos rfl]

theorem HostSide.lane_setLane_ne (h : HostSide) {l m : Nat} (x : Lane) (hm : m ≠ l) : (h.setLane l x).lane m = h.lane m := by
  rw [HostSide.lane_setLane, if_neg hm]

theorem HostSide.lane_congr {g h : HostSide} (e : g.lanes = h.lanes) (m : Nat) : g.lane m = h.lane m := by
  unfold HostSide.lane
  rw [e]

theorem HostSide.lane_settle (h : HostSide) (m : Nat) : h.settle.lane m = h.lane m := HostSide.lane_congr h.settle_lanes m

/-! ### Counting bits (R39, R40) -/

/-- The words of LANE_ERR and LANE_BIT of lane `l`. -/
def laneCounters (l : Nat) : List Nat :=
  [(Reg.LANE_ERR_LO l).addr, (Reg.LANE_ERR_HI l).addr, (Reg.LANE_BIT_LO l).addr, (Reg.LANE_BIT_HI l).addr]

/-- Bits of lane `l` have passed: its counters, its own data and those of the generator it hears. -/
structure HostSide.BitsPassed (l : Nat) (h g : HostSide) : Prop where
  rest : { g with regs := h.regs, lanes := h.lanes } = h
  words : ∀ a, a ∉ laneCounters l → g.word a = h.word a
  lanes : ∀ m, m ≠ l → m ≠ loopLane l → g.lane m = h.lane m
  held : ∀ m, (g.lane m).adapting = (h.lane m).adapting

namespace HostSide.BitsPassed

variable {l : Nat} {h g k : HostSide}

theorem refl (l : Nat) (h : HostSide) : h.BitsPassed l h := ⟨rfl, fun _ _ => rfl, fun _ _ _ => rfl, fun _ => rfl⟩

theorem trans (h₁ : h.BitsPassed l g) (h₂ : g.BitsPassed l k) : h.BitsPassed l k where
  rest := (congrArg (fun x : HostSide => { x with regs := h.regs, lanes := h.lanes }) h₂.rest).trans h₁.rest
  words a ha := (h₂.words a ha).trans (h₁.words a ha)
  lanes m h1 h2 := (h₂.lanes m h1 h2).trans (h₁.lanes m h1 h2)
  held m := (h₂.held m).trans (h₁.held m)

theorem setLane (h : HostSide) (l m : Nat) (x : Lane) (hm : m = l ∨ m = loopLane l) (hx : x.adapting = (h.lane m).adapting) :
    h.BitsPassed l (h.setLane m x) where
  rest := rfl
  words _ _ := rfl
  lanes i h1 h2 := HostSide.lane_setLane_ne h x (by rintro rfl; exact hm.elim h1 h2)
  held i := by
    rw [HostSide.lane_setLane]
    split
    · next hi =>
      subst hi
      exact hx
    · rfl

theorem set2 (h : HostSide) (lo hi : RF) (v : Nat) (hlo : lo.addr ∈ laneCounters l) (hhi : hi.addr ∈ laneCounters l) :
    h.BitsPassed l (h.set2 lo hi v) where
  rest := rfl
  words a ha := (HostSide.word_set_ne _ hi _ a fun e => ha (e ▸ hhi)).trans (HostSide.word_set_ne h lo v a fun e => ha (e ▸ hlo))
  lanes _ _ _ := rfl
  held _ := rfl

theorem addErr (h : HostSide) (l n : Nat) : h.BitsPassed l (h.addLane (Reg.LANE_ERR_LO l) (Reg.LANE_ERR_HI l) n) :=
  set2 h _ _ _ (by simp [laneCounters]) (by simp [laneCounters])

theorem addBit (h : HostSide) (l n : Nat) : h.BitsPassed l (h.addLane (Reg.LANE_BIT_LO l) (Reg.LANE_BIT_HI l) n) :=
  set2 h _ _ _ (by simp [laneCounters]) (by simp [laneCounters])

theorem genOn (h : HostSide) (l n : Nat) : h.BitsPassed l (h.genOn l n) := by
  unfold HostSide.genOn
  split
  · exact setLane h l _ _ (.inr rfl) rfl
  · exact refl l h

/-- A field that is no counter of the lane. -/
theorem get (hg : h.BitsPassed l g) {f : RF} (hf : f.addr ∉ laneCounters l) : g.get f = h.get f :=
  HostSide.get_of_word _ _ _ (hg.words _ hf)

/-- A field of any lane's words below its counters. -/
theorem get_at (hg : h.BitsPassed l g) {f : Nat → RF} (hf : ∀ i, f i = ⟨(f 0).addr + i * 0x100, (f 0).lo, (f 0).w⟩)
    (ha : 0x40000 ≤ (f 0).addr ∧ (f 0).addr < 0x40018) (m : Nat) : g.get (f m) = h.get (f m) := by
  refine hg.get ?_
  rw [hf m]
  simp only [laneCounters, Reg.LANE_ERR_LO, Reg.LANE_ERR_HI, Reg.LANE_BIT_LO, Reg.LANE_BIT_HI, List.mem_cons, List.not_mem_nil, or_false]
  omega

theorem wordsBut (hg : h.BitsPassed l g) {ws : List Nat} (hws : ∀ a ∈ laneCounters l, a ∈ ws) : g.wordsBut h ws :=
  fun a ha _ => hg.words a fun hc => ha (hws a hc)

end HostSide.BitsPassed

/-- The lane's own data after bits have passed: what the generator it hears, the inversion and the checker make of them. -/
def HostSide.laneMoved (h : HostSide) (l n : Nat) : HostSide :=
  let h := h.genOn l n
  let h := if n != 0 && (h.lane l).rxFlip then h.setLane l { h.lane l with rxFlip := false } else h
  if h.on (Reg.LANE_STATUS.PRBS_LOCK l) then
    h.setLane l { h.lane l with chk := prbsSkip (h.get (Reg.LANE_PRBS.PAT l)) n (h.lane l).chk } else h

theorem HostSide.laneMoved_passed (h : HostSide) (l n : Nat) : h.BitsPassed l (h.laneMoved l n) := by
  have hflip (g : HostSide) : g.BitsPassed l (if n != 0 && (g.lane l).rxFlip then g.setLane l { g.lane l with rxFlip := false } else g) := by
    split
    · exact .setLane g l l _ (.inl rfl) rfl
    · exact .refl l g
  have hchk (g : HostSide) : g.BitsPassed l (if g.on (Reg.LANE_STATUS.PRBS_LOCK l) then
      g.setLane l { g.lane l with chk := prbsSkip (g.get (Reg.LANE_PRBS.PAT l)) n (g.lane l).chk } else g) := by
    split
    · exact .setLane g l l _ (.inl rfl) rfl
    · exact .refl l g
  exact ((BitsPassed.genOn h l n).trans (hflip _)).trans (hchk _)

theorem HostSide.laneMoved_regs (h : HostSide) (l n : Nat) : (h.laneMoved l n).regs = h.regs := by
  unfold HostSide.laneMoved
  extract_lets h₁ x h₂ y
  have h1 : h₁.regs = h.regs := by
    unfold h₁ HostSide.genOn
    split <;> rfl
  have h2 : h₂.regs = h₁.regs := by
    unfold h₂
    split <;> rfl
  split <;> exact h2.trans h1

theorem HostSide.laneMoved_chk (h : HostSide) (l n : Nat) (hlock : h.on (Reg.LANE_STATUS.PRBS_LOCK l) = true) :
    ((h.laneMoved l n).lane l).chk = prbsSkip (h.get (Reg.LANE_PRBS.PAT l)) n (h.lane l).chk := by
  unfold HostSide.laneMoved
  extract_lets h₁ x h₂ y
  have h1 : h.BitsPassed l h₁ := .genOn h l n
  have hchk1 : (h₁.lane l).chk = (h.lane l).chk := by
    unfold h₁ HostSide.genOn
    split
    · dsimp only
      rw [HostSide.lane_setLane]
      split
      · next hl => rw [← hl]
      · rfl
    · rfl
  have h2 : h₁.BitsPassed l h₂ ∧ (h₂.lane l).chk = (h₁.lane l).chk := by
    unfold h₂
    split
    · exact ⟨.setLane h₁ l l _ (.inl rfl) rfl, by rw [HostSide.lane_setLane_self]⟩
    · exact ⟨.refl l h₁, rfl⟩
  have h12 := h1.trans h2.1
  have hon := HostSide.on_congr (h12.get_at (f := Reg.LANE_STATUS.PRBS_LOCK) (fun _ => rfl) (by decide) l)
  rw [if_pos (hon.trans hlock), HostSide.lane_setLane_self]
  dsimp only
  rw [h12.get_at (f := Reg.LANE_PRBS.PAT) (fun _ => rfl) (by decide) l, h2.2, hchk1]

/-- Counting takes the lane's data on, and then LANE_BIT and LANE_ERR. -/
theorem HostSide.laneCount_eq (h : HostSide) (l n errs : Nat) :
    h.laneCount l n errs = (let g := h.laneMoved l n
      let g := if g.on (Reg.LANE_CTRL.EN l) && g.on (Reg.LANE_STATUS.CDR_LOCK l) then
        g.addLane (Reg.LANE_BIT_LO l) (Reg.LANE_BIT_HI l) n else g
      if !g.on (Reg.LANE_PRBS.CHK_EN l) || g.on (Reg.LANE_STATUS.PRBS_LOCK l) then
        g.addLane (Reg.LANE_ERR_LO l) (Reg.LANE_ERR_HI l) errs else g) := rfl

theorem HostSide.laneCount_passed (h : HostSide) (l n errs : Nat) : h.BitsPassed l (h.laneCount l n errs) := by
  rw [HostSide.laneCount_eq]
  extract_lets g₁ g₂
  have h2 : h.BitsPassed l g₂ := by
    refine (h.laneMoved_passed l n).trans ?_
    unfold g₂
    split
    · exact .addBit g₁ l n
    · exact .refl l g₁
  split
  · exact h2.trans (.addErr g₂ l errs)
  · exact h2

theorem HostSide.laneCount_chk (h : HostSide) (l n errs : Nat) (hlock : h.on (Reg.LANE_STATUS.PRBS_LOCK l) = true) :
    ((h.laneCount l n errs).lane l).chk = prbsSkip (h.get (Reg.LANE_PRBS.PAT l)) n (h.lane l).chk := by
  rw [← h.laneMoved_chk l n hlock, HostSide.laneCount_eq]
  dsimp only
  split <;> split <;> rfl

/-- LANE_ERR and LANE_BIT hold 48 bits (R40). -/
theorem HostSide.get2_addLane (h : HostSide) (lo hi : RF) (n : Nat) (hlo : lo.fits) (hhi : hi.fits) (hne : lo.addr ≠ hi.addr)
    (hw : lo.w + hi.w = 48) : (h.addLane lo hi n).get2 lo hi = min (h.get2 lo hi + n) (2 ^ 48 - 1) :=
  HostSide.get2_set2 h lo hi _ hlo hhi hne (by rw [hw]; omega)

/-- The errors of a checker in lock are counted, up to the saturation (R39, R40). -/
theorem HostSide.laneCount_err (h : HostSide) (l n errs : Nat) (hlock : h.on (Reg.LANE_STATUS.PRBS_LOCK l) = true) :
    (h.laneCount l n errs).get2 (Reg.LANE_ERR_LO l) (Reg.LANE_ERR_HI l)
      = min (h.get2 (Reg.LANE_ERR_LO l) (Reg.LANE_ERR_HI l) + errs) (2 ^ 48 - 1) := by
  rw [HostSide.laneCount_eq]
  extract_lets g₁ g₂
  have hregs : g₁.regs = h.regs := h.laneMoved_regs l n
  have hbits : g₂.get2 (Reg.LANE_ERR_LO l) (Reg.LANE_ERR_HI l) = g₁.get2 (Reg.LANE_ERR_LO l) (Reg.LANE_ERR_HI l) := by
    have hleaves {f g : Nat → RF} := @RF.leaves_at f g 0x100
    unfold g₂
    split
    · exact HostSide.get2_congr
        (HostSide.get_set2_leaves g₁ _ _ _ _ (hleaves (fun _ => rfl) (fun _ => rfl) (by decide) l) (hleaves (fun _ => rfl) (fun _ => rfl) (by decide) l))
        (HostSide.get_set2_leaves g₁ _ _ _ _ (hleaves (fun _ => rfl) (fun _ => rfl) (by decide) l) (hleaves (fun _ => rfl) (fun _ => rfl) (by decide) l))
    · rfl
  have h2 : g₁.BitsPassed l g₂ := by
    unfold g₂
    split
    · exact .addBit g₁ l n
    · exact .refl l g₁
  have hon : g₂.on (Reg.LANE_STATUS.PRBS_LOCK l) = true := by
    rw [HostSide.on_congr (h2.get_at (f := Reg.LANE_STATUS.PRBS_LOCK) (fun _ => rfl) (by decide) l), ← hlock]
    simp only [HostSide.on, HostSide.get, hregs]
  rw [if_pos (by rw [hon]; simp), HostSide.get2_addLane _ _ _ _ (Nat.le_of_ble_eq_true rfl) (Nat.le_of_ble_eq_true rfl)
    (by simp only [Reg.LANE_ERR_LO, Reg.LANE_ERR_HI]; omega) rfl, hbits]
  simp only [HostSide.get2, HostSide.get, hregs]

/-! ### What a lane hears (R38, R41) -/

theorem length_flipFirst (l : List Bool) : (flipFirst l).length = l.length := by cases l <;> rfl

theorem HostSide.length_laneOut (h : HostSide) (l : Nat) (bs : List Bool) : (h.laneOut l bs).length = bs.length := by
  unfold HostSide.laneOut
  split <;> simp [length_flipFirst]

theorem HostSide.length_heard (h : HostSide) (l : Nat) (wire : List Bool) : (h.heard l wire).length = wire.length := by
  have hgen (g : Nat) : (h.genBits g wire.length).length = wire.length := by
    rw [HostSide.genBits, HostSide.length_laneOut, List.length_map, prbsBits_length]
  unfold HostSide.heard
  split <;> split <;> simp [length_flipFirst, hgen]

end Sys2Proof.Machine

/-! SUPPORT. What the state machine of an Ifepen port changes (R75, R76, R79): its state's word and the port's own data. -/

namespace Sys2Proof.Machine
open Sys2Proof

theorem Variant.ports_le (v : Variant) : v.ports ≤ 8 := by cases v <;> decide

theorem HostSide.port_setPort (h : HostSide) (p q : Nat) (x : IflPort) : (h.setPort p x).port q = if q = p then x else h.port q :=
  SMap.get_put _ _ _ _ _

@[simp] theorem HostSide.port_setPort_self (h : HostSide) (p : Nat) (x : IflPort) : (h.setPort p x).port p = x := by
  rw [HostSide.port_setPort, if_pos rfl]

theorem HostSide.port_congr {g h : HostSide} (e : g.ports = h.ports) (p : Nat) : g.port p = h.port p := by
  unfold HostSide.port
  rw [e]

theorem HostSide.port_settle (h : HostSide) (p : Nat) : h.settle.port p = h.port p := HostSide.port_congr h.settle_ports p

theorem HostSide.portState_settle (h : HostSide) (p : Nat) : h.settle.portState p = h.portState p :=
  HostSide.settle_get_high h _ (Nat.lt_add_right _ (by decide))

/-- Only IFL_STATE and the data of port `p` differ. -/
structure HostSide.PortStateOnly (p : Nat) (h g : HostSide) : Prop where
  rest : { g with regs := h.regs, ports := h.ports } = h
  words : ∀ a, a ≠ (Reg.IFL_STATE.STATE p).addr → g.word a = h.word a
  ports : ∀ q, q ≠ p → g.port q = h.port q

namespace HostSide.PortStateOnly

variable {p : Nat} {h g k : HostSide}

theorem refl (p : Nat) (h : HostSide) : h.PortStateOnly p h := ⟨rfl, fun _ _ => rfl, fun _ _ => rfl⟩

theorem trans (h₁ : h.PortStateOnly p g) (h₂ : g.PortStateOnly p k) : h.PortStateOnly p k where
  rest := (congrArg (fun x : HostSide => { x with regs := h.regs, ports := h.ports }) h₂.rest).trans h₁.rest
  words a ha := (h₂.words a ha).trans (h₁.words a ha)
  ports q hq := (h₂.ports q hq).trans (h₁.ports q hq)

theorem set (h : HostSide) (p : Nat) (f : RF) (v : Nat) (hf : f.addr = (Reg.IFL_STATE.STATE p).addr) : h.PortStateOnly p (h.set f v) where
  rest := rfl
  words a ha := HostSide.word_set_ne h f v a (hf ▸ ha)
  ports _ _ := rfl

theorem setPort (h : HostSide) (p : Nat) (x : IflPort) : h.PortStateOnly p (h.setPort p x) where
  rest := rfl
  words _ _ := rfl
  ports q hq := by rw [HostSide.port_setPort, if_neg hq]

theorem get (hg : h.PortStateOnly p g) {f : RF} (hf : f.addr ≠ (Reg.IFL_STATE.STATE p).addr) : g.get f = h.get f :=
  HostSide.get_of_word _ _ _ (hg.words _ hf)

theorem lane (hg : h.PortStateOnly p g) (l : Nat) : g.lane l = h.lane l := HostSide.lane_congr (congrArg HostSide.lanes hg.rest :) l

theorem showLocks (h : HostSide) (p : Nat) : h.PortStateOnly p (h.showLocks p) := by
  have h3 := ((set h p (Reg.IFL_STATE.L0_LOCK p) (b2n (3 ≤ (h.port p).mk0)) rfl).trans
    (set _ p (Reg.IFL_STATE.L1_LOCK p) (b2n (3 ≤ (h.port p).mk1)) rfl)).trans
    (set _ p (Reg.IFL_STATE.PS_RX p) (b2n ((h.port p).ps0 && (h.port p).ps1)) rfl)
  unfold HostSide.showLocks
  dsimp only
  split
  · exact h3.trans (set _ p (Reg.IFL_STATE.DESKEWED p) 0 rfl)
  · exact h3

theorem portTo (h : HostSide) (p st : Nat) : h.PortStateOnly p (h.portTo p st) :=
  ((setPort h p _).trans (set _ p (Reg.IFL_STATE.STATE p) st rfl)).trans (showLocks _ p)

theorem seekCheck (h : HostSide) (p : Nat) : h.PortStateOnly p (h.seekCheck p) := by
  unfold HostSide.seekCheck
  split
  · exact (setPort h p _).trans (set _ p (Reg.IFL_STATE.STATE p) 2 rfl)
  · exact refl p h

/-- A lane that has lost its lock without a down event. -/
theorem laneLost (h : HostSide) (e : Env) (p i : Nat) : h.PortStateOnly p (h.laneLost e p i false) := by
  have hl (x : IflPort) := (setPort h p x).trans (showLocks _ p)
  unfold HostSide.laneLost
  dsimp only
  split
  · exact (hl _).trans (portTo _ p 1)
  · exact hl _
  · exact hl _

end HostSide.PortStateOnly

/-! ### The state of a port -/

/-- The locks of a port stand in other bits of IFL_STATE than its state. -/
theorem HostSide.portState_showLocks (h : HostSide) (p : Nat) : (h.showLocks p).portState p = h.portState p := by
  unfold HostSide.portState HostSide.showLocks
  dsimp only
  split <;> simp (disch := (refine RF.leaves_at 0x2000 (fun _ => rfl) (fun _ => rfl) ?_ _; decide)) only [HostSide.get_set_leaves]

theorem HostSide.ports_showLocks (h : HostSide) (p : Nat) : (h.showLocks p).ports = h.ports := by
  unfold HostSide.showLocks
  dsimp only
  split <;> rfl

theorem HostSide.portState_portTo (h : HostSide) (p : Nat) {st : Nat} (hst : st < 4) : (h.portTo p st).portState p = st :=
  (HostSide.portState_showLocks _ p).trans (HostSide.get_set_val _ _ st (Nat.le_of_ble_eq_true rfl) hst)

theorem HostSide.port_portTo (h : HostSide) (p st : Nat) : (h.portTo p st).port p = { h.port p with
    replay := [], rx := [], evAt := [], txq := [], credit := none, mk0 := 0, mk1 := 0, seen0 := false, seen1 := false, loop := [] } :=
  (HostSide.port_congr (HostSide.ports_showLocks _ p) p).trans (HostSide.port_setPort_self h p _)

end Sys2Proof.Machine

/-! SUPPORT. The commands on a lane (R37 to R42, R47), and the statement about them. -/

namespace Sys2Proof.Machine
open Sys2Proof

/-! ### Injection and counters (R40, R41) -/

section
variable {s : State} {l : Nat}

/-- Only the data of lane `l` differ. -/
theorem State.changes_setLane (s : State) (l : Nat) (x : Lane) :
    s.changes { s with host := (s.host.setLane l x).settle } (fun g => { g with lanes := s.host.lanes }) []
      ∧ { s with host := (s.host.setLane l x).settle }.host.lane l = x
      ∧ ∀ m, m ≠ l → { s with host := (s.host.setLane l x).settle }.host.lane m = s.host.lane m := by
  refine ⟨State.changes_of s _ _ _ rfl (HostSide.wordsBut.refl s.host _), ?_, fun m hm => ?_⟩
  · exact (HostSide.lane_settle _ l).trans (HostSide.lane_setLane_self s.host l x)
  · exact (HostSide.lane_settle _ m).trans (HostSide.lane_setLane_ne s.host x hm)

theorem execLaneInjTx_flip (ho : s.open_) (hl : l < s.variant.lanes) (hc : chainLane l = true) (hr : s.host.get (Reg.LANE_INJ.RATE l) = 0) :
    exec (.laneInjTx l) s = .next { s with host := (s.host.flipTx l).settle } := by
  show execLaneInjTx l s = _
  unfold execLaneInjTx
  rw [State.onBar_open s _ ho, if_neg (by simp [State.env, Nat.not_le.mpr hl, hc, hr])]

theorem execLaneInjRx_flip (ho : s.open_) (hl : l < s.variant.lanes) (hr : s.host.get (Reg.LANE_INJ.RATE l) = 0) :
    exec (.laneInjRx l) s = .next { s with host := (s.host.flipRx l).settle } := by
  show execLaneInjRx l s = _
  unfold execLaneInjRx
  rw [State.onBar_open s _ ho, if_neg (by simp [State.env, Nat.not_le.mpr hl, hr])]

/-- With periodic injection on, LANE_INJ.TX and RX do nothing. -/
theorem execLaneInj_periodic (ho : s.open_) (hs : s.settled) (hr : s.host.get (Reg.LANE_INJ.RATE l) ≠ 0) :
    exec (.laneInjTx l) s = .next s ∧ exec (.laneInjRx l) s = .next s := by
  refine ⟨?_, ?_⟩
  · show execLaneInjTx l s = _
    unfold execLaneInjTx
    rw [State.onBar_open s _ ho, if_pos (by simp [hr]), HostSide.settle_of_settled _ hs]
  · show execLaneInjRx l s = _
    unfold execLaneInjRx
    rw [State.onBar_open s _ ho, if_pos (by simp [hr]), HostSide.settle_of_settled _ hs]

theorem execLanePeriodicInject_flip (hu : s.up) (hl : l < s.variant.lanes) (hr : s.host.get (Reg.LANE_INJ.RATE l) ≠ 0)
    (hen : s.host.on (Reg.LANE_CTRL.EN l) = true) :
    exec (.lanePeriodicInject l) s = .next { s with host := (if chainLane l then s.host.flipTx l else s.host.flipRx l).settle } := by
  show execLanePeriodicInject l s = _
  unfold execLanePeriodicInject
  rw [State.onHost_up s _ hu, if_neg (by simp [State.env, Nat.not_le.mpr hl, hr, hen])]

/-- LANE_CNT.CLR zeroes both counters and writes nothing else (R40). -/
theorem execLaneCntClr_open (ho : s.open_) (hl : l < s.variant.lanes) :
    ∃ t, exec (.laneCntClr l) s = .next t ∧ s.regsOnly t (laneCounters l)
      ∧ t.host.get2 (Reg.LANE_ERR_LO l) (Reg.LANE_ERR_HI l) = 0 ∧ t.host.get2 (Reg.LANE_BIT_LO l) (Reg.LANE_BIT_HI l) = 0 := by
  have hex : exec (.laneCntClr l) s = .next { s with host :=
      ((s.host.set2 (Reg.LANE_ERR_LO l) (Reg.LANE_ERR_HI l) 0).set2 (Reg.LANE_BIT_LO l) (Reg.LANE_BIT_HI l) 0).settle } := by
    show execLaneCntClr l s = _
    unfold execLaneCntClr
    rw [State.onBar_open s _ ho, if_neg (by simp [State.env, Nat.not_le.mpr hl])]
  have hsettle {h : HostSide} {f : RF} (hf : 0x14040 < f.addr) := h.settle_get_high f hf
  have hleaves {f g : Nat → RF} := @RF.leaves_at f g 0x100
  refine ⟨_, hex, State.regsOnly_of s _ _ rfl ?_, ?_, ?_⟩
  · exact ((HostSide.wordsBut.refl s.host _).set2 (Reg.LANE_ERR_LO l) _ 0 (by simp [laneCounters]) (by simp [laneCounters])).set2
      (Reg.LANE_BIT_LO l) _ 0 (by simp [laneCounters]) (by simp [laneCounters])
  · refine (HostSide.get2_congr (hsettle (Nat.lt_add_right _ (by decide))) (hsettle (Nat.lt_add_right _ (by decide)))).trans ?_
    refine (HostSide.get2_congr (h := s.host.set2 (Reg.LANE_ERR_LO l) (Reg.LANE_ERR_HI l) 0)
      (HostSide.get_set2_leaves _ _ _ _ _ (hleaves (fun _ => rfl) (fun _ => rfl) (by decide) l) (hleaves (fun _ => rfl) (fun _ => rfl) (by decide) l))
      (HostSide.get_set2_leaves _ _ _ _ _ (hleaves (fun _ => rfl) (fun _ => rfl) (by decide) l)
        (hleaves (fun _ => rfl) (fun _ => rfl) (by decide) l))).trans ?_
    exact HostSide.get2_set2 s.host (Reg.LANE_ERR_LO l) _ 0 (Nat.le_of_ble_eq_true rfl) (Nat.le_of_ble_eq_true rfl)
      (by simp only [Reg.LANE_ERR_LO, Reg.LANE_ERR_HI]; omega) (Nat.two_pow_pos _)
  · refine (HostSide.get2_congr (hsettle (Nat.lt_add_right _ (by decide))) (hsettle (Nat.lt_add_right _ (by decide)))).trans ?_
    exact HostSide.get2_set2 _ (Reg.LANE_BIT_LO l) _ 0 (Nat.le_of_ble_eq_true rfl) (Nat.le_of_ble_eq_true rfl)
      (by simp only [Reg.LANE_BIT_LO, Reg.LANE_BIT_HI]; omega) (Nat.two_pow_pos _)

/-! ### The checker (R38, R39) -/

/-- Two saturating additions are one. -/
theorem min_min_add (a b top : Nat) : min (min a top + b) top = min top (a + b) := by omega

/-- The words a checker's command may write. -/
def checkerWords (l : Nat) : List Nat :=
  [(Reg.LANE_STATUS.PRBS_LOCK l).addr, (Reg.LANE_ERR_LO l).addr, (Reg.LANE_ERR_HI l).addr, (Reg.LANE_BIT_LO l).addr, (Reg.LANE_BIT_HI l).addr]

/-- PRBS_LOCK follows bits that have passed. -/
theorem HostSide.BitsPassed.changes_set {g : HostSide} (hg : s.host.BitsPassed l g) (v : Nat) :
    s.changes { s with host := (g.set (Reg.LANE_STATUS.PRBS_LOCK l) v).settle } (fun x => { x with lanes := s.host.lanes }) (checkerWords l) := by
  refine State.changes_of s _ _ _ (congrArg (fun x : HostSide => { x with vecs := s.host.vecs }) hg.rest) ?_
  exact (hg.wordsBut fun a ha => by
    simp only [laneCounters, List.mem_cons, List.not_mem_nil, or_false] at ha
    simp only [checkerWords, List.mem_cons, List.not_mem_nil, or_false]
    exact .inr ha).set _ v (by simp [checkerWords])

theorem HostSide.BitsPassed.changes {g : HostSide} (hg : s.host.BitsPassed l g) :
    s.changes { s with host := g.settle } (fun x => { x with lanes := s.host.lanes }) (checkerWords l) := by
  refine State.changes_of s _ _ _ (congrArg (fun x : HostSide => { x with vecs := s.host.vecs }) hg.rest) ?_
  exact hg.wordsBut fun a ha => by
    simp only [laneCounters, List.mem_cons, List.not_mem_nil, or_false] at ha
    simp only [checkerWords, List.mem_cons, List.not_mem_nil, or_false]
    exact .inr ha

theorem execPrbsLock_locks {bits : Nat} {wire : List Bool} (hu : s.up) (hl : l < s.variant.lanes)
    (hchk : s.host.on (Reg.LANE_PRBS.CHK_EN l) = true) (hen : s.host.on (Reg.LANE_CTRL.EN l) = true) (hw : 64 ≤ wire.length)
    (hp : prbsPiece (s.host.get (Reg.LANE_PRBS.PAT l))
      ((((s.host.laneCount l bits 0).heard l wire).drop (wire.length - 64)).map fun b => b != s.host.on (Reg.LANE_PRBS.INV l)) = true) :
    ∃ t, exec (.prbsLock l bits wire) s = .next t ∧ t.host.get (Reg.LANE_STATUS.PRBS_LOCK l) = 1
      ∧ s.changes t (fun g => { g with lanes := s.host.lanes }) (checkerWords l)
      ∧ ∀ m, m ≠ l → m ≠ loopLane l → t.host.lane m = s.host.lane m := by
  have h1 := s.host.laneCount_passed l bits 0
  have hinv : (s.host.laneCount l bits 0).on (Reg.LANE_PRBS.INV l) = s.host.on (Reg.LANE_PRBS.INV l) :=
    HostSide.on_congr (h1.get_at (f := Reg.LANE_PRBS.INV) (fun _ => rfl) (by decide) l)
  have h2 := h1.trans ((s.host.laneCount l bits 0).laneCount_passed l wire.length 0)
  generalize hgot : (((s.host.laneCount l bits 0).heard l wire).map fun b => b != (s.host.laneCount l bits 0).on (Reg.LANE_PRBS.INV l)).drop
    (wire.length - 64) = got
  have hpiece : prbsPiece (s.host.get (Reg.LANE_PRBS.PAT l)) got = true := by
    rw [← hgot, hinv, ← List.map_drop]
    exact hp
  have hlen : got.length = 64 := by
    rw [← hgot, List.length_drop, List.length_map, HostSide.length_heard]
    omega
  have hex : exec (.prbsLock l bits wire) s = .next { s with host :=
      (let g := (s.host.laneCount l bits 0).laneCount l wire.length 0
       if g.on (Reg.LANE_STATUS.PRBS_LOCK l) then g
       else (g.setLane l { g.lane l with chk := prbsLast (s.host.get (Reg.LANE_PRBS.PAT l)) got }).set (Reg.LANE_STATUS.PRBS_LOCK l) 1).settle } := by
    show execPrbsLock l bits wire s = _
    unfold execPrbsLock
    rw [State.onHost_up s _ hu]
    dsimp only
    rw [if_neg (by simp [State.env, Nat.not_le.mpr hl, hchk, hen]), hgot, hlen, hpiece]
    simp
  generalize (s.host.laneCount l bits 0).laneCount l wire.length 0 = g at *
  have hsettle {h : HostSide} := h.settle_get_high (Reg.LANE_STATUS.PRBS_LOCK l) (Nat.lt_add_right _ (by decide))
  cases hon : g.on (Reg.LANE_STATUS.PRBS_LOCK l) with
  | true =>
    dsimp only at hex
    rw [if_pos hon] at hex
    refine ⟨_, hex, hsettle.trans ?_, h2.changes, fun m hm hm' => (HostSide.lane_settle g m).trans (h2.lanes m hm hm')⟩
    have hlt := HostSide.get_lt g (Reg.LANE_STATUS.PRBS_LOCK l)
    have hne := (HostSide.on_eq_true_iff _ _).mp hon
    simp only [Reg.LANE_STATUS.PRBS_LOCK] at hlt hne ⊢
    omega
  | false =>
    dsimp only at hex
    rw [if_neg (by simp [hon])] at hex
    have h3 := h2.trans (HostSide.BitsPassed.setLane g l l { g.lane l with chk := prbsLast (s.host.get (Reg.LANE_PRBS.PAT l)) got }
      (.inl rfl) rfl)
    refine ⟨_, hex, hsettle.trans ?_, h3.changes_set 1, fun m hm hm' => (HostSide.lane_settle _ m).trans (h3.lanes m hm hm')⟩
    exact HostSide.get_set_val _ _ 1 (Nat.le_of_ble_eq_true rfl) (Nat.le_of_ble_eq_true rfl)

theorem execPrbsUnlock_unlocks {bits errs : Nat} {wire got : List Bool} {st : Nat} (hu : s.up) (hl : l < s.variant.lanes)
    (hlock : s.host.get (Reg.LANE_STATUS.PRBS_LOCK l) = 1)
    (hgot : got = ((s.host.laneCount l bits errs).heard l wire).map (fun b => b != s.host.on (Reg.LANE_PRBS.INV l)))
    (hst : st = prbsSkip (s.host.get (Reg.LANE_PRBS.PAT l)) bits (s.host.lane l).chk)
    (hbad : 32 ≤ prbsErrors (s.host.get (Reg.LANE_PRBS.PAT l)) (prbsSkip (s.host.get (Reg.LANE_PRBS.PAT l)) (wire.length - 1024) st)
      (got.drop (wire.length - 1024))) :
    ∃ t, exec (.prbsUnlock l bits errs wire) s = .next t ∧ t.host.get (Reg.LANE_STATUS.PRBS_LOCK l) = 0
      ∧ t.host.get2 (Reg.LANE_ERR_LO l) (Reg.LANE_ERR_HI l) = min (2 ^ 48 - 1) (s.host.get2 (Reg.LANE_ERR_LO l) (Reg.LANE_ERR_HI l)
          + errs + prbsErrors (s.host.get (Reg.LANE_PRBS.PAT l)) st got)
      ∧ s.changes t (fun g => { g with lanes := s.host.lanes }) (checkerWords l)
      ∧ ∀ m, m ≠ l → m ≠ loopLane l → t.host.lane m = s.host.lane m := by
  have hon : s.host.on (Reg.LANE_STATUS.PRBS_LOCK l) = true := by simp [HostSide.on, hlock]
  have hinv : (s.host.laneCount l bits errs).on (Reg.LANE_PRBS.INV l) = s.host.on (Reg.LANE_PRBS.INV l) :=
    HostSide.on_congr ((s.host.laneCount_passed l bits errs).get_at (f := Reg.LANE_PRBS.INV) (fun _ => rfl) (by decide) l)
  have hchk := s.host.laneCount_chk l bits errs hon
  rw [← hst] at hchk
  rw [← hinv] at hgot
  have hlen : got.length = wire.length := by rw [hgot, List.length_map, HostSide.length_heard]
  generalize hearly : prbsErrors (s.host.get (Reg.LANE_PRBS.PAT l)) st (got.take (got.length - 1024)) = early
  generalize hlate : prbsErrors (s.host.get (Reg.LANE_PRBS.PAT l)) (prbsSkip (s.host.get (Reg.LANE_PRBS.PAT l)) (got.length - 1024) st)
    (got.drop (got.length - 1024)) = late
  have htotal : prbsErrors (s.host.get (Reg.LANE_PRBS.PAT l)) st got = early + late := by
    conv_lhs => rw [← List.take_append_drop (got.length - 1024) got]
    rw [prbsErrors_append, hearly, List.length_take, Nat.min_eq_left (by omega), hlate]
  have h32 : 32 ≤ late := by
    rw [← hlate, hlen]
    exact hbad
  have hex : exec (.prbsUnlock l bits errs wire) s = .next { s with host :=
      (((s.host.laneCount l bits errs).laneCount l wire.length (early + late)).set (Reg.LANE_STATUS.PRBS_LOCK l) 0).settle } := by
    show execPrbsUnlock l bits errs wire s = _
    unfold execPrbsUnlock
    rw [State.onHost_up s _ hu]
    dsimp only
    rw [if_neg (by simp [State.env, Nat.not_le.mpr hl, hon]), hchk, ← hgot, hearly, hlate, if_pos h32]
  have h1 := s.host.laneCount_passed l bits errs
  have hon1 : (s.host.laneCount l bits errs).on (Reg.LANE_STATUS.PRBS_LOCK l) = true := by
    rw [HostSide.on_congr (h1.get_at (f := Reg.LANE_STATUS.PRBS_LOCK) (fun _ => rfl) (by decide) l), hon]
  have herr := ((s.host.laneCount l bits errs).laneCount_err l wire.length (early + late) hon1)
  rw [s.host.laneCount_err l bits errs hon] at herr
  have h2 := h1.trans ((s.host.laneCount l bits errs).laneCount_passed l wire.length (early + late))
  generalize (s.host.laneCount l bits errs).laneCount l wire.length (early + late) = g at *
  have hsettle {h : HostSide} {f : RF} (hf : 0x14040 < f.addr) := h.settle_get_high f hf
  refine ⟨_, hex, (hsettle (Nat.lt_add_right _ (by decide))).trans ?_, ?_, h2.changes_set 0,
    fun m hm hm' => (HostSide.lane_settle _ m).trans (h2.lanes m hm hm')⟩
  · exact HostSide.get_set_val _ _ 0 (Nat.le_of_ble_eq_true rfl) (Nat.le_of_ble_eq_true rfl)
  · refine (HostSide.get2_congr (hsettle (Nat.lt_add_right _ (by decide))) (hsettle (Nat.lt_add_right _ (by decide)))).trans ?_
    refine (HostSide.get2_congr (HostSide.get_set_leaves g _ _ 0 (RF.leaves_at 0x100 (fun _ => rfl) (fun _ => rfl) (by decide) l))
      (HostSide.get_set_leaves g _ _ 0 (RF.leaves_at 0x100 (fun _ => rfl) (fun _ => rfl) (by decide) l))).trans ?_
    rw [herr, htotal, min_min_add, Nat.add_assoc]

/-! ### The equalizer and CDR lock (R37, R47) -/

theorem execEqClamp_adapts {peak : Nat} (hu : s.up) (hl : l < s.variant.lanes) (hovr : s.host.on (Reg.LANE_EQ.EQ_OVR l) = true)
    (hlock : s.host.on (Reg.LANE_STATUS.CDR_LOCK l) = false) (had : (s.host.lane l).adapting = false) :
    exec (.eqClamp l peak) s = .next { s with host := ((s.host.setLane l { s.host.lane l with adapting := true, clamped := false }).set
      (Reg.LANE_STATUS.PEAK_NOW l) peak).settle } := by
  show execEqClamp l peak s = _
  unfold execEqClamp
  rw [State.onHost_up s _ hu, if_neg (by simp [State.env, Nat.not_le.mpr hl, hovr, hlock, had])]

/-- What a change of CDR lock makes of the port of a chain lane stays in IFL_STATE and the port's data. -/
def HostSide.cdrTail (h : HostSide) (e : Env) (l : Nat) : HostSide :=
  if !chainLane l then h
  else if h.on (Reg.LANE_STATUS.CDR_LOCK l) then h.seekCheck (lanePort l)
  else h.chainLost e l

theorem HostSide.cdrTail_get (h : HostSide) (e : Env) (l : Nat) {f : RF} (hf : f.addr < 0x60000) : (h.cdrTail e l).get f = h.get f := by
  have hp {g : HostSide} {p : Nat} (hg : h.PortStateOnly p g) : g.get f = h.get f :=
    hg.get (by simp only [Reg.IFL_STATE.STATE]; omega)
  unfold HostSide.cdrTail
  split
  · rfl
  · split
    · exact hp (.seekCheck h _)
    · exact hp (.laneLost h e _ _)

theorem execLaneCdrLockChange_up {sig lock : Bool} {bits errs peak : Nat} (hu : s.up) (hl : l < s.variant.lanes) :
    exec (.laneCdrLockChange l sig lock bits errs peak) s
      = .next { s with host := ((s.host.cdrChange l sig lock bits errs peak).cdrTail s.env l).settle } := by
  show execLaneCdrLockChange l sig lock bits errs peak s = _
  unfold execLaneCdrLockChange
  rw [State.onHost_up s _ hu, if_neg (by simp [State.env, Nat.not_le.mpr hl])]
  rfl

/-- A field of the lane after CDR lock has changed. -/
theorem HostSide.get_cdrTail_settle (h : HostSide) (e : Env) (l : Nat) {f : RF} (hlo : 0x14040 < f.addr) (hf : f.addr < 0x60000) :
    (h.cdrTail e l).settle.get f = h.get f := (HostSide.settle_get_high _ f hlo).trans (h.cdrTail_get e l hf)

end

theorem b2n_lt_two (b : Bool) : b2n b < 2 := by cases b <;> decide

/-- A lane with power takes its signal and lock levels; a lock that is lost takes PRBS_LOCK with it (R39, R47). -/
def HostSide.showLevels (h : HostSide) (l : Nat) (sig lock : Bool) : HostSide :=
  let h := (h.set (Reg.LANE_STATUS.SIG_DET l) (b2n sig)).set (Reg.LANE_STATUS.CDR_LOCK l) (b2n lock)
  if lock then h else h.set (Reg.LANE_STATUS.PRBS_LOCK l) 0

/-- PEAK_NOW follows the adaptation unless an override holds it (R37). -/
def HostSide.showPeak (h : HostSide) (l peak : Nat) : HostSide :=
  if !h.on (Reg.LANE_EQ.EQ_OVR l) || (h.lane l).adapting then h.set (Reg.LANE_STATUS.PEAK_NOW l) peak else h

/-- A lane that adapted under override holds what it reached and counts the clamp when lock returns (R37). -/
def HostSide.clampAtLock (h : HostSide) (l : Nat) (lock : Bool) : HostSide :=
  if (h.lane l).adapting && lock then
    ((h.setLane l { h.lane l with adapting := false, clamped := true }).set (Reg.LANE_STATUS.EQ_CLAMP l) 1).inc (Reg.LANE_EQ_CLAMPS l) 1
  else h

theorem HostSide.cdrChange_eq (h : HostSide) (l : Nat) (sig lock : Bool) (bits errs peak : Nat) :
    h.cdrChange l sig lock bits errs peak = if !(h.laneCount l bits errs).on (Reg.LANE_CTRL.EN l) then (h.laneCount l bits errs).laneDark l
      else (((h.laneCount l bits errs).showLevels l sig lock).showPeak l peak).clampAtLock l lock := rfl

section
variable (h : HostSide) (l : Nat) (sig lock : Bool) (peak : Nat)

theorem HostSide.showLevels_lane (m : Nat) : (h.showLevels l sig lock).lane m = h.lane m := by
  unfold HostSide.showLevels
  cases lock <;> rfl

theorem HostSide.showLevels_cdr : (h.showLevels l sig lock).get (Reg.LANE_STATUS.CDR_LOCK l) = b2n lock := by
  have hset (g : HostSide) : (g.set (Reg.LANE_STATUS.CDR_LOCK l) (b2n lock)).get (Reg.LANE_STATUS.CDR_LOCK l) = b2n lock :=
    HostSide.get_set_val g _ _ (Nat.le_of_ble_eq_true rfl) (b2n_lt_two lock)
  unfold HostSide.showLevels
  dsimp only
  split
  · exact hset _
  · exact (HostSide.get_set_leaves _ _ _ 0 (RF.leaves_at 0x100 (fun _ => rfl) (fun _ => rfl) (by decide) l)).trans (hset _)

theorem HostSide.showLevels_sig : (h.showLevels l sig lock).get (Reg.LANE_STATUS.SIG_DET l) = b2n sig := by
  have hset := (HostSide.get_set_leaves (h.set (Reg.LANE_STATUS.SIG_DET l) (b2n sig)) (Reg.LANE_STATUS.CDR_LOCK l)
    (Reg.LANE_STATUS.SIG_DET l) (b2n lock) (RF.leaves_at 0x100 (fun _ => rfl) (fun _ => rfl) (by decide) l)).trans
      (HostSide.get_set_val h _ _ (Nat.le_of_ble_eq_true rfl) (b2n_lt_two sig))
  unfold HostSide.showLevels
  dsimp only
  split
  · exact hset
  · exact (HostSide.get_set_leaves _ _ _ 0 (RF.leaves_at 0x100 (fun _ => rfl) (fun _ => rfl) (by decide) l)).trans hset

theorem HostSide.showLevels_prbs : (h.showLevels l sig false).get (Reg.LANE_STATUS.PRBS_LOCK l) = 0 :=
  HostSide.get_set_val _ _ 0 (Nat.le_of_ble_eq_true rfl) (Nat.le_of_ble_eq_true rfl)

/-- The other fields of a lane stay. -/
theorem HostSide.get_showLevels {f : Nat → RF} (hf : ∀ i, f i = ⟨(f 0).addr + i * 0x100, (f 0).lo, (f 0).w⟩)
    (h3 : (f 0).addr ≠ 0x40004 ∨ 3 ≤ (f 0).lo) : (h.showLevels l sig lock).get (f l) = h.get (f l) := by
  have hleaves {g : Nat → RF} (hg : ∀ i, g i = ⟨(g 0).addr + i * 0x100, (g 0).lo, (g 0).w⟩)
      (hw : (g 0).addr = 0x40004 ∧ (g 0).lo + (g 0).w ≤ 3) : (g l).leaves (f l) :=
    RF.leaves_at 0x100 hg hf ⟨by omega, h3.elim (fun h => .inl (by omega)) fun h => .inr (.inl (by omega))⟩ l
  have hset := (HostSide.get_set_leaves (h.set (Reg.LANE_STATUS.SIG_DET l) (b2n sig)) (Reg.LANE_STATUS.CDR_LOCK l) (f l) (b2n lock)
    (hleaves (g := Reg.LANE_STATUS.CDR_LOCK) (fun _ => rfl) (by decide))).trans
      (HostSide.get_set_leaves h _ _ _ (hleaves (g := Reg.LANE_STATUS.SIG_DET) (fun _ => rfl) (by decide)))
  unfold HostSide.showLevels
  dsimp only
  split
  · exact hset
  · exact (HostSide.get_set_leaves _ _ _ 0 (hleaves (g := Reg.LANE_STATUS.PRBS_LOCK) (fun _ => rfl) (by decide))).trans hset

theorem HostSide.showPeak_lane (m : Nat) : (h.showPeak l peak).lane m = h.lane m := by
  unfold HostSide.showPeak
  split <;> rfl

theorem HostSide.showPeak_peak (hp : peak < 16) : (h.showPeak l peak).get (Reg.LANE_STATUS.PEAK_NOW l)
    = if !h.on (Reg.LANE_EQ.EQ_OVR l) || (h.lane l).adapting then peak else h.get (Reg.LANE_STATUS.PEAK_NOW l) := by
  unfold HostSide.showPeak
  split
  · exact HostSide.get_set_val h _ peak (Nat.le_of_ble_eq_true rfl) hp
  · rfl

/-- The other fields of a lane stay. -/
theorem HostSide.get_showPeak {f : Nat → RF} (hf : ∀ i, f i = ⟨(f 0).addr + i * 0x100, (f 0).lo, (f 0).w⟩)
    (h8 : (f 0).addr ≠ 0x40004 ∨ (f 0).lo + (f 0).w ≤ 8) : (h.showPeak l peak).get (f l) = h.get (f l) := by
  unfold HostSide.showPeak
  split
  · refine HostSide.get_set_leaves h _ _ peak (RF.leaves_at (f := Reg.LANE_STATUS.PEAK_NOW) 0x100 (fun _ => rfl) hf ⟨by decide, ?_⟩ l)
    exact h8.elim (fun h => .inl (by simp only [Reg.LANE_STATUS.PEAK_NOW]; omega)) fun h => .inr (.inr h)
  · rfl

theorem HostSide.clampAtLock_held (hc : (h.lane l).adapting = false ∨ lock = false) : h.clampAtLock l lock = h := by
  unfold HostSide.clampAtLock
  rw [if_neg (by rcases hc with hc | hc <;> simp [hc])]

theorem HostSide.clampAtLock_clamps (had : (h.lane l).adapting = true) :
    (h.clampAtLock l true).get (Reg.LANE_STATUS.EQ_CLAMP l) = 1
      ∧ (h.clampAtLock l true).get (Reg.LANE_EQ_CLAMPS l) = min (h.get (Reg.LANE_EQ_CLAMPS l) + 1) 0xFFFFFFFF := by
  unfold HostSide.clampAtLock
  rw [if_pos (by simp [had])]
  refine ⟨?_, ?_⟩
  · rw [HostSide.get_inc_leaves _ _ _ _ (RF.leaves_at 0x100 (fun _ => rfl) (fun _ => rfl) (by decide) l)]
    exact HostSide.get_set_val _ _ 1 (Nat.le_of_ble_eq_true rfl) (Nat.le_of_ble_eq_true rfl)
  · rw [HostSide.get_inc_self _ _ _ (Nat.le_of_ble_eq_true rfl),
      HostSide.get_set_leaves _ _ _ _ (RF.leaves_at 0x100 (fun _ => rfl) (fun _ => rfl) (by decide) l)]
    rfl

/-- The fields of the lane's status but EQ_CLAMP stay. -/
theorem HostSide.get_clampAtLock {f : Nat → RF} (hf : ∀ i, f i = ⟨(f 0).addr + i * 0x100, (f 0).lo, (f 0).w⟩)
    (ha : (f 0).addr = 0x40004 ∧ ((f 0).lo + (f 0).w ≤ 3 ∨ 4 ≤ (f 0).lo)) : (h.clampAtLock l lock).get (f l) = h.get (f l) := by
  obtain ⟨ha, hb⟩ := ha
  unfold HostSide.clampAtLock
  split
  · rw [HostSide.get_inc_leaves _ _ _ _ (RF.leaves_at (f := Reg.LANE_EQ_CLAMPS) 0x100 (fun _ => rfl) hf
      ⟨by decide, .inl (by simp only [Reg.LANE_EQ_CLAMPS]; omega)⟩ l)]
    exact HostSide.get_set_leaves _ _ _ _ (RF.leaves_at (f := Reg.LANE_STATUS.EQ_CLAMP) 0x100 (fun _ => rfl) hf
      ⟨by decide, .inr (by simp only [Reg.LANE_STATUS.EQ_CLAMP]; omega)⟩ l)
  · rfl

theorem HostSide.laneDark_status : (h.laneDark l).get (Reg.LANE_STATUS.CDR_LOCK l) = 0
    ∧ (h.laneDark l).get (Reg.LANE_STATUS.SIG_DET l) = 0 ∧ (h.laneDark l).get (Reg.LANE_STATUS.PRBS_LOCK l) = 0 := by
  have hzero (g : HostSide) {f : RF} (hf : f.fits) : (g.set f 0).get f = 0 := HostSide.get_set_val g f 0 hf (Nat.two_pow_pos _)
  unfold HostSide.laneDark
  refine ⟨?_, ?_, hzero _ (Nat.le_of_ble_eq_true rfl)⟩
  · rw [HostSide.get_set_leaves _ _ _ _ (RF.leaves_at 0x100 (fun _ => rfl) (fun _ => rfl) (by decide) l)]
    exact hzero _ (Nat.le_of_ble_eq_true rfl)
  · rw [HostSide.get_set_leaves _ _ _ _ (RF.leaves_at 0x100 (fun _ => rfl) (fun _ => rfl) (by decide) l),
      HostSide.get_set_leaves _ _ _ _ (RF.leaves_at 0x100 (fun _ => rfl) (fun _ => rfl) (by decide) l)]
    exact hzero _ (Nat.le_of_ble_eq_true rfl)

/-- What a change of CDR lock shows on a lane with power (R37, R39, R47). -/
theorem HostSide.cdrChange_powered (bits errs : Nat) (hen : h.on (Reg.LANE_CTRL.EN l) = true) (hp : peak < 16) :
    let t := h.cdrChange l sig lock bits errs peak
    t.get (Reg.LANE_STATUS.CDR_LOCK l) = b2n lock ∧ t.get (Reg.LANE_STATUS.SIG_DET l) = b2n sig
      ∧ (lock = false → t.get (Reg.LANE_STATUS.PRBS_LOCK l) = 0)
      ∧ (h.on (Reg.LANE_EQ.EQ_OVR l) = false → t.get (Reg.LANE_STATUS.PEAK_NOW l) = peak)
      ∧ (h.on (Reg.LANE_EQ.EQ_OVR l) = true → (h.lane l).adapting = false →
        t.get (Reg.LANE_STATUS.PEAK_NOW l) = h.get (Reg.LANE_STATUS.PEAK_NOW l) ∧ t.get (Reg.LANE_EQ_CLAMPS l) = h.get (Reg.LANE_EQ_CLAMPS l))
      ∧ ((h.lane l).adapting = true → lock = true → t.get (Reg.LANE_STATUS.PEAK_NOW l) = peak ∧ t.get (Reg.LANE_STATUS.EQ_CLAMP l) = 1
        ∧ t.get (Reg.LANE_EQ_CLAMPS l) = min (h.get (Reg.LANE_EQ_CLAMPS l) + 1) 0xFFFFFFFF) := by
  intro t
  have hc := h.laneCount_passed l bits errs
  have hclamps0 := hc.get (f := Reg.LANE_EQ_CLAMPS l)
    (by simp only [laneCounters, Reg.LANE_EQ_CLAMPS, Reg.LANE_ERR_LO, Reg.LANE_ERR_HI, Reg.LANE_BIT_LO, Reg.LANE_BIT_HI, List.mem_cons,
          List.not_mem_nil, or_false]; omega)
  have ht : t = (((h.laneCount l bits errs).showLevels l sig lock).showPeak l peak).clampAtLock l lock := by
    unfold t
    rw [HostSide.cdrChange_eq, if_neg (by rw [HostSide.on_congr (hc.get_at (f := Reg.LANE_CTRL.EN) (fun _ => rfl) (by decide) l), hen]; decide)]
  have hovr : ((h.laneCount l bits errs).showLevels l sig lock).on (Reg.LANE_EQ.EQ_OVR l) = h.on (Reg.LANE_EQ.EQ_OVR l) :=
    HostSide.on_congr ((HostSide.get_showLevels _ l sig lock (f := Reg.LANE_EQ.EQ_OVR) (fun _ => rfl) (by decide)).trans
      (hc.get_at (f := Reg.LANE_EQ.EQ_OVR) (fun _ => rfl) (by decide) l))
  have had : (((h.laneCount l bits errs).showLevels l sig lock).lane l).adapting = (h.lane l).adapting := by
    rw [HostSide.showLevels_lane, hc.held]
  have hpeak := HostSide.showPeak_peak ((h.laneCount l bits errs).showLevels l sig lock) l peak hp
  rw [hovr, had, HostSide.get_showLevels _ l sig lock (f := Reg.LANE_STATUS.PEAK_NOW) (fun _ => rfl) (by decide),
    hc.get_at (f := Reg.LANE_STATUS.PEAK_NOW) (fun _ => rfl) (by decide) l] at hpeak
  have hclamps : (((h.laneCount l bits errs).showLevels l sig lock).showPeak l peak).get (Reg.LANE_EQ_CLAMPS l) = h.get (Reg.LANE_EQ_CLAMPS l) :=
    (HostSide.get_showPeak _ l peak (f := Reg.LANE_EQ_CLAMPS) (fun _ => rfl) (by decide)).trans
      ((HostSide.get_showLevels _ l sig lock (f := Reg.LANE_EQ_CLAMPS) (fun _ => rfl) (by decide)).trans hclamps0)
  have hkeep {f : Nat → RF} (hf : ∀ i, f i = ⟨(f 0).addr + i * 0x100, (f 0).lo, (f 0).w⟩) (ha : (f 0).addr = 0x40004 ∧ (f 0).lo + (f 0).w ≤ 3) :
      t.get (f l) = ((h.laneCount l bits errs).showLevels l sig lock).get (f l) := by
    rw [ht, HostSide.get_clampAtLock _ l lock hf ⟨ha.1, .inl ha.2⟩, HostSide.get_showPeak _ l peak hf (.inr (by omega))]
  have hpk : t.get (Reg.LANE_STATUS.PEAK_NOW l) = _ :=
    (ht ▸ HostSide.get_clampAtLock _ l lock (f := Reg.LANE_STATUS.PEAK_NOW) (fun _ => rfl) (by decide)).trans hpeak
  have hadp : ((((h.laneCount l bits errs).showLevels l sig lock).showPeak l peak).lane l).adapting = (h.lane l).adapting := by
    rw [HostSide.showPeak_lane, had]
  refine ⟨?_, ?_, ?_, ?_, ?_, ?_⟩
  · rw [hkeep (f := Reg.LANE_STATUS.CDR_LOCK) (fun _ => rfl) (by decide), HostSide.showLevels_cdr]
  · rw [hkeep (f := Reg.LANE_STATUS.SIG_DET) (fun _ => rfl) (by decide), HostSide.showLevels_sig]
  · rintro rfl
    rw [hkeep (f := Reg.LANE_STATUS.PRBS_LOCK) (fun _ => rfl) (by decide), HostSide.showLevels_prbs]
  · intro ho
    rw [hpk, if_pos (by simp [ho])]
  · intro ho ha
    refine ⟨by rw [hpk, if_neg (by simp [ho, ha])], ?_⟩
    rw [ht, HostSide.clampAtLock_held _ _ _ (.inl (hadp.trans ha)), hclamps]
  · rintro ha rfl
    obtain ⟨h1, h2⟩ := HostSide.clampAtLock_clamps _ l (hadp.trans ha)
    exact ⟨by rw [hpk, if_pos (by simp [ha])], by rw [ht, h1], by rw [ht, h2, hclamps]⟩

end

/-- Settles O8: injection and the checker through what passing bits leave, and CDR lock through the levels and the peaking. -/
theorem laneInjectionAndChecker : Obligations.LaneInjectionAndChecker := by
  unfold Obligations.LaneInjectionAndChecker
  refine ⟨?tx, ?rx, fun s l => execLaneInj_periodic, ?periodic, fun s l => execLaneCntClr_open, fun s l bits wire => execPrbsLock_locks,
    fun pat st n => prbsPiece_prbsBits pat, fun s l bits errs wire got st => execPrbsUnlock_unlocks, ?clamp, ?powered, ?dark⟩
  case tx =>
    intro s l ho hl hc hr
    exact ⟨_, execLaneInjTx_flip ho hl hc hr, s.changes_setLane l _⟩
  case rx =>
    intro s l ho hl hr
    exact ⟨_, execLaneInjRx_flip ho hl hr, s.changes_setLane l _⟩
  case periodic =>
    intro s l hu hl hr hen
    refine ⟨_, execLanePeriodicInject_flip hu hl hr hen, ?_⟩
    split
    · exact s.changes_setLane l _
    · exact s.changes_setLane l _
  case clamp =>
    intro s l peak hu hl hovr hlock had hp
    have hsettle {h : HostSide} {f : RF} (hf : 0x14040 < f.addr) := h.settle_get_high f hf
    refine ⟨_, execEqClamp_adapts hu hl hovr hlock had, State.changes_of s _ _ _ rfl ?_,
      (HostSide.lane_settle _ l).trans (HostSide.lane_setLane_self s.host l _), ?_, ?_⟩
    · exact (HostSide.wordsBut.refl (s.host.setLane l _) _).set _ peak (by simp)
    · exact (hsettle (Nat.lt_add_right _ (by decide))).trans (HostSide.get_set_val _ _ peak (Nat.le_of_ble_eq_true rfl) hp)
    · exact (hsettle (Nat.lt_add_right _ (by decide))).trans
        (HostSide.get_set_leaves _ _ _ peak (RF.leaves_at 0x100 (fun _ => rfl) (fun _ => rfl) (by decide) l))
  case powered =>
    intro s l sig lock bits errs peak hu hl hen hp
    have hl48 := hl.trans_le s.variant.lanes_le
    have hkeep {h : HostSide} {f : Nat → RF} (hf : f l = ⟨(f 0).addr + l * 0x100, (f 0).lo, (f 0).w⟩)
        (ha : 0x40000 ≤ (f 0).addr ∧ (f 0).addr < 0x40100) : (h.cdrTail s.env l).settle.get (f l) = h.get (f l) :=
      h.get_cdrTail_settle s.env l (by rw [hf]; dsimp only; omega) (by rw [hf]; dsimp only; omega)
    have hc := s.host.cdrChange_powered l sig lock peak bits errs hen hp
    refine ⟨_, execLaneCdrLockChange_up hu hl, ?_⟩
    dsimp only
    rw [hkeep (f := Reg.LANE_STATUS.CDR_LOCK) rfl (by decide), hkeep (f := Reg.LANE_STATUS.SIG_DET) rfl (by decide),
      hkeep (f := Reg.LANE_STATUS.PRBS_LOCK) rfl (by decide), hkeep (f := Reg.LANE_STATUS.PEAK_NOW) rfl (by decide),
      hkeep (f := Reg.LANE_EQ_CLAMPS) rfl (by decide), hkeep (f := Reg.LANE_STATUS.EQ_CLAMP) rfl (by decide)]
    exact hc
  case dark =>
    intro s l sig lock bits errs peak hu hl hen
    have hl48 := hl.trans_le s.variant.lanes_le
    have hkeep {h : HostSide} {f : Nat → RF} (hf : f l = ⟨(f 0).addr + l * 0x100, (f 0).lo, (f 0).w⟩)
        (ha : 0x40000 ≤ (f 0).addr ∧ (f 0).addr < 0x40100) : (h.cdrTail s.env l).settle.get (f l) = h.get (f l) :=
      h.get_cdrTail_settle s.env l (by rw [hf]; dsimp only; omega) (by rw [hf]; dsimp only; omega)
    have hdark : s.host.cdrChange l sig lock bits errs peak = (s.host.laneCount l bits errs).laneDark l := by
      rw [HostSide.cdrChange_eq, if_pos]
      rw [HostSide.on_congr ((s.host.laneCount_passed l bits errs).get_at (f := Reg.LANE_CTRL.EN) (fun _ => rfl) (by decide) l), hen]
      rfl
    refine ⟨_, execLaneCdrLockChange_up hu hl, ?_⟩
    dsimp only
    rw [hkeep (f := Reg.LANE_STATUS.CDR_LOCK) rfl (by decide), hkeep (f := Reg.LANE_STATUS.SIG_DET) rfl (by decide),
      hkeep (f := Reg.LANE_STATUS.PRBS_LOCK) rfl (by decide), hdark]
    exact HostSide.laneDark_status _ l

end Sys2Proof.Machine

/-! SUPPORT. What a port that goes down does to the transfers over it (R76), and the down event itself (R75). -/

namespace Sys2Proof.Machine
open Sys2Proof

/-! ### Transfers over a port (R76) -/

/-- Logical core `c` loses its transfers over port `p` that no Oxbow entry keeps. -/
def HostSide.failCore (p : Nat) (h : HostSide) (c : Nat) : HostSide :=
  match h.siteOf c with
  | none => h
  | some site =>
    let gone := (h.core site).xfers.filter fun t => t.over p && !t.parked
    let y := h.core site
    let h := h.setCore site { y with xfers := (y.xfers.filter fun t => !t.over p || t.parked).map fun t =>
                                                if t.over p then { t with down := true } else t }
    gone.foldl (fun h t => h.failXfer c site { t with down := true }) h

/-- The host side with the jobs and the Oxbow entries told of the port that went down. -/
def HostSide.toldOver (h : HostSide) (p : Nat) : HostSide :=
  let ox := h.comp.oxbow.map fun o => if o.x.over p then { o with x := { o.x with down := true } } else o
  let short (o : Oxbow) : Bool := o.x.over p && o.got.length < storedBytes o.x.rif o.x.len
  let lost (j : Job) : Bool := j.state != 0 && h.comp.oxbow.any fun o => o.job == j.id && short o
  let js := h.comp.jobs.map fun j => if lost j then { j with ending := some (j.ending.getD (5, p)) } else j
  { h with comp := { h.comp with oxbow := ox, jobs := js } }

theorem HostSide.failOver_eq (h : HostSide) (p : Nat) : h.failOver p = (List.range 64).foldl (HostSide.failCore p) (h.toldOver p) := rfl

/-- Only the cores, the jobs, and words of the cores differ. -/
structure HostSide.CoresFailed (h g : HostSide) : Prop where
  rest : { g with regs := h.regs, cores := h.cores, comp := h.comp } = h
  words : ∀ a, a < 0x400000 → g.word a = h.word a

namespace HostSide.CoresFailed

variable {h g k : HostSide}

theorem refl (h : HostSide) : h.CoresFailed h := ⟨rfl, fun _ _ => rfl⟩

theorem trans (h₁ : h.CoresFailed g) (h₂ : g.CoresFailed k) : h.CoresFailed k where
  rest := (congrArg (fun x : HostSide => { x with regs := h.regs, cores := h.cores, comp := h.comp }) h₂.rest).trans h₁.rest
  words a ha := (h₂.words a ha).trans (h₁.words a ha)

theorem get (hg : h.CoresFailed g) {f : RF} (hf : f.addr < 0x400000) : g.get f = h.get f := HostSide.get_of_word _ _ _ (hg.words _ hf)

theorem siteOf (hg : h.CoresFailed g) (c : Nat) : g.siteOf c = h.siteOf c := by
  unfold HostSide.siteOf
  rw [show g.insp = h.insp from (congrArg HostSide.insp hg.rest :)]

theorem port (hg : h.CoresFailed g) (p : Nat) : g.port p = h.port p := HostSide.port_congr (congrArg HostSide.ports hg.rest :) p

theorem coreError (h : HostSide) (site cause op : Nat) : h.CoresFailed (h.coreError site cause op) := by
  unfold HostSide.coreError
  split
  · exact refl h
  · refine ⟨rfl, fun a ha => ?_⟩
    rw [HostSide.word_set_ne _ _ _ a, HostSide.word_set_ne _ _ _ a, HostSide.word_set_ne _ _ _ a]
    all_goals
      simp only [Reg.CORE_STATUS.STATE, Reg.CORE_ERR.CAUSE, Reg.CORE_ERR.OP]
      omega

/-- A transfer that fails because its port is down leaves no token behind: at most its core errs (R76, R122). -/
theorem failXfer (h : HostSide) (c site : Nat) (t : Xfer) :
    h.CoresFailed (h.failXfer c site { t with down := true }) ∧ (h.failXfer c site { t with down := true }).cores = h.cores := by
  unfold HostSide.failXfer
  dsimp only
  split
  · refine ⟨coreError h site 7 _, ?_⟩
    unfold HostSide.coreError
    split <;> rfl
  · rw [if_pos rfl]
    exact ⟨refl h, rfl⟩

theorem foldl_failXfer (h : HostSide) (c site : Nat) (l : List Xfer) :
    h.CoresFailed (l.foldl (fun h t => h.failXfer c site { t with down := true }) h)
      ∧ (l.foldl (fun h t => h.failXfer c site { t with down := true }) h).cores = h.cores := by
  refine List.foldlRecOn (motive := fun g => h.CoresFailed g ∧ g.cores = h.cores) l _ ⟨refl h, rfl⟩ fun g hg t _ => ?_
  obtain ⟨h1, h2⟩ := failXfer g c site t
  exact ⟨hg.1.trans h1, h2.trans hg.2⟩

theorem failCore (h : HostSide) (p c : Nat) : h.CoresFailed (h.failCore p c) := by
  unfold HostSide.failCore
  split
  · exact refl h
  · dsimp only
    exact trans (g := h.setCore _ _) ⟨rfl, fun _ _ => rfl⟩ (foldl_failXfer _ c _ _).1

theorem failOver (h : HostSide) (p : Nat) : h.CoresFailed (h.failOver p) := by
  rw [HostSide.failOver_eq]
  exact List.foldlRecOn (motive := fun g => h.CoresFailed g) _ _ ⟨rfl, fun _ _ => rfl⟩ fun g hg c _ => hg.trans (failCore g p c)

end HostSide.CoresFailed

/-- No core has a transfer over port `p` left on `site` but one that is parked. -/
def HostSide.noXfer (h : HostSide) (p site : Nat) : Prop := ∀ x ∈ (h.core site).xfers, x.over p = true → x.parked = true

theorem HostSide.noXfer_congr {g h : HostSide} (e : g.cores = h.cores) (p site : Nat) : g.noXfer p site ↔ h.noXfer p site := by
  unfold HostSide.noXfer HostSide.core
  rw [e]

/-- A core that loses its transfers has none left but parked ones, and the sites that had none get none. -/
theorem HostSide.failCore_noXfer (h : HostSide) (p c i : Nat) (hi : h.siteOf c = some i ∨ h.noXfer p i) : (h.failCore p c).noXfer p i := by
  unfold HostSide.failCore
  split
  · next hnone => exact hi.resolve_left (by simp [hnone])
  · next site hsite =>
    rw [HostSide.noXfer_congr (CoresFailed.foldl_failXfer _ c site _).2]
    unfold HostSide.noXfer
    rw [HostSide.core_setCore]
    split
    · intro x hx hover
      obtain ⟨y, hy, rfl⟩ := List.mem_map.mp hx
      have hkept := (List.mem_filter.mp hy).2
      split at hover <;> split <;> simp_all [Xfer.over]
    · next hne => exact hi.resolve_left fun hs => hne (by rw [hsite] at hs; exact (Option.some.inj hs).symm)

/-- After a port has gone down no core has a transfer over it left but parked ones (R76). -/
theorem HostSide.failOver_noXfer (h : HostSide) (p : Nat) {c site : Nat} (hc : c < 64) (hs : h.siteOf c = some site) :
    (h.failOver p).noXfer p site := by
  rw [HostSide.failOver_eq]
  suffices hall : ∀ (l : List Nat) (g : HostSide), h.CoresFailed g → (c ∈ l ∨ g.noXfer p site) →
      (l.foldl (HostSide.failCore p) g).noXfer p site from
    hall _ _ ⟨rfl, fun _ _ => rfl⟩ (.inl (List.mem_range.mpr hc))
  intro l
  induction l with
  | nil => exact fun g _ hg => hg.resolve_left List.not_mem_nil
  | cons d l ih =>
    intro g hg hmem
    refine ih _ (hg.trans (.failCore g p d)) ?_
    rcases hmem with hmem | hno
    · rcases List.mem_cons.mp hmem with rfl | hmem
      · exact .inr (HostSide.failCore_noXfer g p c site (.inl ((hg.siteOf c).trans hs)))
      · exact .inl hmem
    · exact .inr (HostSide.failCore_noXfer g p d site (.inr hno))

/-! ### The down event (R75, R76) -/

/-- A log entry leaves the fields of the words above those of the management processor. -/
theorem HostSide.log_get (h : HostSide) (e : Env) (code unit detail addr seq : Nat) {f : RF} (hf : 0x200E0 < f.addr) :
    (h.log e code unit detail addr seq).get f = h.get f :=
  HostSide.get_of_word _ _ _ (HostSide.log_word _ _ _ _ _ _ _ _ (Nat.ne_of_gt (Nat.lt_trans (by decide) hf))
    (Nat.ne_of_gt (Nat.lt_trans (by decide) hf)) (Nat.ne_of_gt hf))

theorem HostSide.log_cores (h : HostSide) (e : Env) (code unit detail addr seq : Nat) :
    (h.log e code unit detail addr seq).cores = h.cores := by
  rw [HostSide.log_eq]

theorem HostSide.log_port (h : HostSide) (e : Env) (code unit detail addr seq p : Nat) :
    (h.log e code unit detail addr seq).port p = h.port p := by
  rw [HostSide.log_eq]
  rfl

/-- A down event is counted and shown, and the transfers over the port fail. -/
def HostSide.downShown (h : HostSide) (p : Nat) : HostSide := ((h.failOver p).inc (Reg.IFL_DOWN p) 1).setBits (Reg.IFL_INT_STATUS p) 2

theorem HostSide.portDown_eq (h : HostSide) (e : Env) (p : Nat) : h.portDown e p = ((h.portTo p 1).downShown p).log e 0x0305 p 0 0 0 := rfl

section
variable (h : HostSide) {p : Nat} (hp : p < 8)
include hp

theorem HostSide.downShown_regs : (h.downShown p).portState p = h.portState p
    ∧ (h.downShown p).get (Reg.IFL_DOWN p) = min (h.get (Reg.IFL_DOWN p) + 1) 0xFFFF
    ∧ bit ((h.downShown p).get (Reg.IFL_INT_STATUS p)) 1 = true := by
  have hfail := CoresFailed.failOver h p
  unfold HostSide.downShown
  refine ⟨?_, ?_, ?_⟩
  · unfold HostSide.portState
    rw [HostSide.get_setBits_leaves _ _ _ _ (RF.leaves_at 0x2000 (fun _ => rfl) (fun _ => rfl) (by decide) p),
      HostSide.get_inc_leaves _ _ _ _ (RF.leaves_at 0x2000 (fun _ => rfl) (fun _ => rfl) (by decide) p),
      hfail.get (by simp only [Reg.IFL_STATE.STATE]; omega)]
  · rw [HostSide.get_setBits_leaves _ _ _ _ (RF.leaves_at 0x2000 (fun _ => rfl) (fun _ => rfl) (by decide) p),
      HostSide.get_inc_self _ _ _ (Nat.le_of_ble_eq_true rfl), hfail.get (by simp only [Reg.IFL_DOWN]; omega)]
    rfl
  · rw [HostSide.bit_get_setBits _ _ _ 1 (Nat.le_of_ble_eq_true rfl) (Nat.le_of_ble_eq_true rfl)]
    exact Bool.or_true _

end

theorem HostSide.downShown_cores (h : HostSide) (p : Nat) : (h.downShown p).cores = (h.failOver p).cores := by
  rw [HostSide.downShown, HostSide.setBits_cores, HostSide.inc_cores]

theorem HostSide.downShown_port (h : HostSide) (p : Nat) : (h.downShown p).port p = h.port p := by
  refine (HostSide.port_congr ?_ p).trans ((CoresFailed.failOver h p).port p)
  rw [HostSide.downShown, HostSide.setBits_ports, HostSide.inc_ports]

/-- A down event: SEEK, counted and shown, the buffers discarded, the transfers over the port ended (R75, R76). -/
theorem HostSide.portDown_fell (h : HostSide) (e : Env) {p : Nat} (hp : p < 8) :
    (h.portDown e p).portState p = 1 ∧ (h.portDown e p).get (Reg.IFL_DOWN p) = min (h.get (Reg.IFL_DOWN p) + 1) 0xFFFF
      ∧ ((h.portDown e p).port p).replay = [] ∧ ((h.portDown e p).port p).rx = []
      ∧ bit ((h.portDown e p).get (Reg.IFL_INT_STATUS p)) 1 = true
      ∧ ∀ c site, c < 64 → h.siteOf c = some site → (h.portDown e p).noXfer p site := by
  have hto := PortStateOnly.portTo h p 1
  obtain ⟨hstate, hdown, hint⟩ := (h.portTo p 1).downShown_regs hp
  rw [h.portState_portTo p (show 1 < 4 by decide)] at hstate
  rw [hto.get (f := Reg.IFL_DOWN p) (by simp only [Reg.IFL_DOWN, Reg.IFL_STATE.STATE]; omega)] at hdown
  have hport := ((h.portTo p 1).downShown_port p).trans (h.port_portTo p 1)
  have hno (c site : Nat) (hc : c < 64) (hs : h.siteOf c = some site) : ((h.portTo p 1).downShown p).noXfer p site := by
    refine (HostSide.noXfer_congr (HostSide.downShown_cores _ p) p site).mpr (HostSide.failOver_noXfer _ p hc ?_)
    rw [← hs]
    unfold HostSide.siteOf
    rw [show (h.portTo p 1).insp = h.insp from (congrArg HostSide.insp hto.rest :)]
  rw [HostSide.portDown_eq]
  generalize (h.portTo p 1).downShown p = k at *
  have hget {f : RF} := k.log_get e 0x0305 p 0 0 0 (f := f)
  refine ⟨(hget (Nat.lt_add_right _ (by decide))).trans hstate, (hget (Nat.lt_add_right _ (by decide))).trans hdown, ?_, ?_, ?_,
    fun c site hc hs => (HostSide.noXfer_congr (k.log_cores e 0x0305 p 0 0 0) p site).mpr (hno c site hc hs)⟩
  · rw [HostSide.log_port, hport]
  · rw [HostSide.log_port, hport]
  · rwa [hget (Nat.lt_add_right _ (by decide))]

end Sys2Proof.Machine

/-! SUPPORT. What a port lane receives (R38, R41, R66 to R70): it changes the lane's counters and data and the coding state of the port. -/

namespace Sys2Proof.Machine
open Sys2Proof

/-- A chain lane in loopback hears its own generator (R36, R38). -/
theorem loopLane_portLane (p : Nat) {i : Nat} (hi : i < 2) : loopLane (portLane p i) = portLane p i := by
  unfold loopLane portLane
  omega

/-- Bits of the lanes of port `p` have been received: only counters and data of lanes and the port's coding state differ. -/
structure HostSide.LaneHeard (p : Nat) (h g : HostSide) : Prop where
  rest : { g with regs := h.regs, lanes := h.lanes, ports := h.ports } = h
  words : ∀ a, a ∉ laneCounters (portLane p 0) → a ∉ laneCounters (portLane p 1) → g.word a = h.word a
  port : g.port p = { h.port p with run := (g.port p).run, scr := (g.port p).scr, txRun := (g.port p).txRun, txScr := (g.port p).txScr,
                                    loop := (g.port p).loop }

namespace HostSide.LaneHeard

variable {p : Nat} {h g k : HostSide}

theorem refl (p : Nat) (h : HostSide) : h.LaneHeard p h := ⟨rfl, fun _ _ _ => rfl, rfl⟩

theorem trans (h₁ : h.LaneHeard p g) (h₂ : g.LaneHeard p k) : h.LaneHeard p k where
  rest := (congrArg (fun x : HostSide => { x with regs := h.regs, lanes := h.lanes, ports := h.ports }) h₂.rest).trans h₁.rest
  words a h1 h2 := (h₂.words a h1 h2).trans (h₁.words a h1 h2)
  port := by rw [h₂.port, h₁.port]

theorem of_bits {i : Nat} (hi : i < 2) (hg : h.BitsPassed (portLane p i) g) : h.LaneHeard p g where
  rest := (congrArg (fun x : HostSide => { x with ports := h.ports }) hg.rest :)
  words a h0 h1 := hg.words a (by
    match i, hi with
    | 0, _ => exact h0
    | 1, _ => exact h1)
  port := by
    have e : g.port p = h.port p := HostSide.port_congr (congrArg HostSide.ports hg.rest :) p
    rw [e]

theorem setLane (p : Nat) (h : HostSide) (l : Nat) (x : Lane) : h.LaneHeard p (h.setLane l x) := ⟨rfl, fun _ _ _ => rfl, rfl⟩

theorem setPort (h : HostSide) (p : Nat) (x : IflPort)
    (hx : x = { h.port p with run := x.run, scr := x.scr, txRun := x.txRun, txScr := x.txScr, loop := x.loop }) :
    h.LaneHeard p (h.setPort p x) where
  rest := rfl
  words _ _ _ := rfl
  port := by
    rw [HostSide.port_setPort_self]
    exact hx

/-- A field of a lane below its counters. -/
theorem get_at (hg : h.LaneHeard p g) {f : Nat → RF} (hf : ∀ i, f i = ⟨(f 0).addr + i * 0x100, (f 0).lo, (f 0).w⟩)
    (ha : 0x40000 ≤ (f 0).addr ∧ (f 0).addr < 0x40018) (m : Nat) : g.get (f m) = h.get (f m) := by
  refine HostSide.get_of_word _ _ _ (hg.words _ ?_ ?_) <;>
  · rw [hf m]
    simp only [laneCounters, Reg.LANE_ERR_LO, Reg.LANE_ERR_HI, Reg.LANE_BIT_LO, Reg.LANE_BIT_HI, List.mem_cons, List.not_mem_nil, or_false]
    omega

/-- A word above those of the lanes. -/
theorem word_high (hg : h.LaneHeard p g) (hp : p < 8) {a : Nat} (ha : 0x50000 ≤ a) : g.word a = h.word a := by
  refine hg.words a ?_ ?_ <;>
    simp only [laneCounters, portLane, Reg.LANE_ERR_LO, Reg.LANE_ERR_HI, Reg.LANE_BIT_LO, Reg.LANE_BIT_HI, List.mem_cons, List.not_mem_nil,
      or_false] <;>
    omega

theorem get_high (hg : h.LaneHeard p g) (hp : p < 8) {f : RF} (ha : 0x50000 ≤ f.addr) : g.get f = h.get f :=
  HostSide.get_of_word _ _ _ (hg.word_high hp ha)

theorem portState (hg : h.LaneHeard p g) (hp : p < 8) (q : Nat) : g.portState q = h.portState q :=
  hg.get_high hp (Nat.le_add_right_of_le (by decide))

/-- What the port puts on its own wire. -/
theorem ownWire (h : HostSide) (p i : Nat) (bs : List Bool) : h.LaneHeard p (h.ownWire p i bs).1 :=
  (setLane p h _ _).trans (setPort (h.setLane _ _) p _ rfl)

theorem ownMarker (h : HostSide) (p i : Nat) : h.LaneHeard p (h.ownMarker p i).1 := (setPort h p _ rfl).trans (ownWire _ p i _)

theorem ownFlit (h : HostSide) (p i f : Nat) : h.LaneHeard p (h.ownFlit p i f).1 := (setPort h p _ rfl).trans (ownWire _ p i _)

theorem loopSlot (h : HostSide) (p : Nat) : h.LaneHeard p (h.loopSlot p).1 := setPort h p _ rfl

theorem slotWire (h : HostSide) (p i own : Nat) (wire : List Bool) : h.LaneHeard p (h.slotWire p i own wire).1 := by
  unfold HostSide.slotWire
  split
  · exact ownFlit h p i own
  · exact refl p h

theorem recvLane (h : HostSide) (p : Nat) {i : Nat} (hi : i < 2) (wire : List Bool) : h.LaneHeard p (h.recvLane p i wire).1 :=
  (setPort h p _ rfl).trans (of_bits hi (HostSide.laneCount_passed _ _ _ _))

theorem recvData (h : HostSide) (p : Nat) {i : Nat} (hi : i < 2) (wire : List Bool) : h.LaneHeard p (h.recvData p i wire).1 :=
  (recvLane h p hi wire).trans (setPort _ p _ rfl)

/-- A flit slot of the port's two lanes. -/
theorem recvFlit (h : HostSide) (p : Nat) (w0 w1 : List Bool) : h.LaneHeard p (h.recvFlit p w0 w1).1 := by
  have hslots {g : HostSide} (hg : h.LaneHeard p g) (own : Nat) : h.LaneHeard p
      ((((g.slotWire p 0 own w0).1.slotWire p 1 own w1).1.recvData p 0 (g.slotWire p 0 own w0).2).1.recvData p 1
        ((g.slotWire p 0 own w0).1.slotWire p 1 own w1).2).1 :=
    (((hg.trans (slotWire g p 0 own w0)).trans (slotWire _ p 1 own w1)).trans (recvData _ p (by decide) _)).trans (recvData _ p (by decide) _)
  unfold HostSide.recvFlit
  dsimp only
  split
  · exact hslots (loopSlot h p) _
  · exact hslots (refl p h) 0

end HostSide.LaneHeard

/-! ### The marker a lane has received (R67, R77) -/

/-- What a lane hears rests on the registers, its inversion, and the generator it hears. -/
theorem HostSide.heard_congr {g h : HostSide} {l : Nat} (hr : g.regs = h.regs) (hrx : (g.lane l).rxFlip = (h.lane l).rxFlip)
    (hgen : h.hearsGen l = true → g.lane (loopLane l) = h.lane (loopLane l)) (wire : List Bool) : g.heard l wire = h.heard l wire := by
  have hon (f : RF) : g.on f = h.on f := by simp only [HostSide.on, HostSide.get, hr]
  have hget (f : RF) : g.get f = h.get f := by simp only [HostSide.get, hr]
  have hears : g.hearsGen l = h.hearsGen l := by simp only [HostSide.hearsGen, HostSide.selfHeard, hon]
  unfold HostSide.heard
  rw [hears, hrx, hon]
  cases hh : h.hearsGen l with
  | false => rfl
  | true => simp only [HostSide.genBits, HostSide.laneOut, hgen hh, hon, hget]

theorem HostSide.ownMarker_regs (h : HostSide) (p i : Nat) : (h.ownMarker p i).1.regs = h.regs := rfl

theorem HostSide.ownMarker_lane (h : HostSide) (p i : Nat) : (h.ownMarker p i).1.lane (portLane p i)
    = { h.lane (portLane p i) with txFlip := (h.lane (portLane p i)).txFlip && h.hearsGen (portLane p i) } :=
  HostSide.lane_setLane_self _ _ _

theorem HostSide.ownMarker_run (h : HostSide) (p i : Nat) : ((h.ownMarker p i).1.port p).run = (h.port p).run := by
  have hwire (g : HostSide) (bs : List Bool) : ((g.ownWire p i bs).1.port p).run = (g.port p).run := by
    unfold HostSide.ownWire
    dsimp only
    rw [HostSide.port_setPort_self]
  unfold HostSide.ownMarker
  rw [hwire, HostSide.port_setPort_self]

/-- A lane hears the same before and after the port has put its own marker on the wire. -/
theorem HostSide.ownMarker_heard (h : HostSide) (p : Nat) {i : Nat} (hi : i < 2) (wire : List Bool) :
    (h.ownMarker p i).1.heard (portLane p i) wire = h.heard (portLane p i) wire := by
  refine HostSide.heard_congr (h.ownMarker_regs p i) (by rw [h.ownMarker_lane]) (fun hh => ?_) wire
  rw [loopLane_portLane p hi, h.ownMarker_lane, hh, Bool.and_true]

/-- A marker word arrives: the lane has been heard, and the word `markerIn` acts (R66, R67, R75). -/
theorem execIflMarkerRx_up {s : State} {p i skew : Nat} {wire : List Bool} (hu : s.up) (hp : p < s.variant.ports) (hi : i < 2)
    (hst : s.host.portState p ≠ 0) (hpow : s.host.lanePowered p i = true) : ∃ g, s.host.LaneHeard p g ∧
    exec (.iflMarkerRx p i wire skew) s = .next { s with host :=
      (g.markerRx s.env p i (s.markerIn p i wire) (if s.host.looped p i then 0 else skew)).settle } := by
  have hex : exec (.iflMarkerRx p i wire skew) s = .next { s with host :=
      (let own := s.host.looped p i
       let r := if own then s.host.ownMarker p i else (s.host, wire)
       let x := r.1.recvLane p i r.2
       x.1.markerRx s.env p i (bitsNat (x.2.take 64)) (if own then 0 else skew)).settle } := by
    show execIflMarkerRx p i wire skew s = _
    unfold execIflMarkerRx
    rw [State.onHost_up s _ hu, if_neg (by simp [State.env, Nat.not_le.mpr hp, Nat.not_le.mpr hi, hst, hpow])]
  dsimp only at hex
  unfold State.markerIn
  cases hl : s.host.looped p i with
  | false =>
    rw [hl] at hex
    exact ⟨_, HostSide.LaneHeard.recvLane s.host p hi wire, hex⟩
  | true =>
    rw [hl] at hex
    refine ⟨_, (HostSide.LaneHeard.ownMarker s.host p i).trans (HostSide.LaneHeard.recvLane _ p hi (s.host.ownMarker p i).2), hex.trans ?_⟩
    simp only [HostSide.recvLane, if_true, HostSide.ownMarker_run, HostSide.ownMarker_heard _ _ hi]

end Sys2Proof.Machine

/-! SUPPORT. Markers, locks and the states of an Ifepen port (R67, R75, R76), and the statement about them. -/

namespace Sys2Proof.Machine
open Sys2Proof

/-! ### What goes out (R41, R70, R72) -/

section
variable (h : HostSide) (p : Nat)

theorem HostSide.txPassed_regs (i : Nat) : (h.txPassed p i).regs = h.regs := by
  unfold HostSide.txPassed
  dsimp only
  split <;> rfl

theorem HostSide.txPassed_ports (i : Nat) : (h.txPassed p i).ports = h.ports := by
  unfold HostSide.txPassed
  dsimp only
  split <;> rfl

theorem HostSide.sendOut_regs (f : Nat) : (h.sendOut p f).regs = h.regs :=
  (HostSide.txPassed_regs _ p 1).trans (HostSide.txPassed_regs _ p 0)

theorem HostSide.sendOut_port (f : Nat) : (h.sendOut p f).port p = { h.port p with
    lastTx := h.flitOut p f, loop := if h.looped p 0 || h.looped p 1 then (h.port p).loop ++ [f] else (h.port p).loop } :=
  (HostSide.port_congr ((HostSide.txPassed_ports _ p 1).trans (HostSide.txPassed_ports _ p 0)) p).trans (HostSide.port_setPort_self h p _)

theorem HostSide.countG_port (ev unit n : Nat) : (h.countG ev unit n).port p = h.port p :=
  HostSide.port_congr (congrArg HostSide.ports (HostSide.CyclesPassed.countG h ev unit n).rest :) p

theorem HostSide.countG_get (ev unit n : Nat) {f : RF} (hf : f.addr < 0x600000) : (h.countG ev unit n).get f = h.get f :=
  HostSide.get_of_word _ _ _ ((HostSide.CyclesPassed.countG h ev unit n).words _ fun hg => by unfold inGauge at hg; omega)

/-- A CREDIT flit goes out with this side's counters (R70, R72). -/
theorem HostSide.sendCredit_port : (h.sendCredit p).port p = { h.port p with
    changed := false
    lastTx := h.flitOut p (flitOf 3 0 (h.port p).ack 0 ((List.range 4).map fun vc => (h.port p).ownCredit vc % 65536 * 2 ^ (16 * vc)).sum)
    loop := ((h.sendCredit p).port p).loop } := by
  have hport : (h.sendCredit p).port p = _ := (HostSide.countG_port _ p 0x10 p 1).trans (HostSide.sendOut_port _ p _)
  rw [hport, HostSide.port_setPort_self]
  rfl

theorem HostSide.sendCredit_get {f : RF} (hf : f.addr < 0x600000) : (h.sendCredit p).get f = h.get f := by
  refine (HostSide.countG_get _ 0x10 p 1 hf).trans ?_
  exact congrArg (fun rs : RegFile => rs.get f) (HostSide.sendOut_regs (h.setPort p _) p _)

/-- A port that comes up starts its sequence again, with nothing to replay (R72, R75). -/
theorem HostSide.portUp_up {p : Nat} (hp : p < 8) : (h.portUp p).portState p = 3 ∧ ((h.portUp p).port p).seq = 0
    ∧ ((h.portUp p).port p).replay = [] ∧ bit ((h.portUp p).get (Reg.IFL_INT_STATUS p)) 0 = true := by
  unfold HostSide.portUp
  dsimp only
  refine ⟨?_, ?_, ?_, ?_⟩
  · refine (HostSide.sendCredit_get _ p (by simp only [Reg.IFL_STATE.STATE]; omega)).trans ?_
    rw [HostSide.get_setBits_leaves _ _ _ _ (RF.leaves_at 0x2000 (fun _ => rfl) (fun _ => rfl) (by decide) p)]
    exact HostSide.get_set_val _ _ 3 (Nat.le_of_ble_eq_true rfl) (Nat.le_of_ble_eq_true rfl)
  · rw [HostSide.sendCredit_port]
    exact congrArg IflPort.seq (HostSide.port_setPort_self h p _)
  · rw [HostSide.sendCredit_port]
    exact congrArg IflPort.replay (HostSide.port_setPort_self h p _)
  · rw [HostSide.sendCredit_get _ p (by simp only [Reg.IFL_INT_STATUS]; omega),
      HostSide.bit_get_setBits _ _ _ 0 (Nat.le_of_ble_eq_true rfl) (Nat.le_of_ble_eq_true rfl)]
    exact Bool.or_true _

end

/-! ### Locks (R75, R79) -/

section
variable (h : HostSide) (p : Nat)

theorem HostSide.showLocks_l0 : (h.showLocks p).get (Reg.IFL_STATE.L0_LOCK p) = b2n (3 ≤ (h.port p).mk0) := by
  unfold HostSide.showLocks
  dsimp only
  split <;>
  · simp (disch := (refine RF.leaves_at 0x2000 (fun _ => rfl) (fun _ => rfl) ?_ _; decide)) only [HostSide.get_set_leaves]
    exact HostSide.get_set_val h _ _ (Nat.le_of_ble_eq_true rfl) (b2n_lt_two _)

theorem HostSide.showLocks_l1 : (h.showLocks p).get (Reg.IFL_STATE.L1_LOCK p) = b2n (3 ≤ (h.port p).mk1) := by
  unfold HostSide.showLocks
  dsimp only
  split <;>
  · simp (disch := (refine RF.leaves_at 0x2000 (fun _ => rfl) (fun _ => rfl) ?_ _; decide)) only [HostSide.get_set_leaves]
    exact HostSide.get_set_val _ _ _ (Nat.le_of_ble_eq_true rfl) (b2n_lt_two _)

theorem HostSide.showLocks_deskewed (h0 : (h.port p).mk0 ≠ 0) (h1 : (h.port p).mk1 ≠ 0) :
    (h.showLocks p).get (Reg.IFL_STATE.DESKEWED p) = h.get (Reg.IFL_STATE.DESKEWED p) := by
  unfold HostSide.showLocks
  dsimp only
  rw [if_neg (by simp [h0, h1])]
  simp (disch := (refine RF.leaves_at 0x2000 (fun _ => rfl) (fun _ => rfl) ?_ _; decide)) only [HostSide.get_set_leaves]

/-- A port in SEEK with both locks on both lanes is LOCKED (R75). -/
theorem HostSide.seekCheck_locked (hst : h.portState p = 1) (h0 : h.on (Reg.IFL_STATE.L0_LOCK p) = true)
    (h1 : h.on (Reg.IFL_STATE.L1_LOCK p) = true) (hd : h.on (Reg.IFL_STATE.DESKEWED p) = true)
    (hc0 : h.on (Reg.LANE_STATUS.CDR_LOCK (portLane p 0)) = true) (hc1 : h.on (Reg.LANE_STATUS.CDR_LOCK (portLane p 1)) = true) :
    (h.seekCheck p).portState p = 2 := by
  unfold HostSide.seekCheck
  rw [if_pos (by simp [hst, h0, h1, hd, hc0, hc1])]
  exact HostSide.get_set_val _ _ 2 (Nat.le_of_ble_eq_true rfl) (Nat.le_of_ble_eq_true rfl)

end

/-! ### A valid marker (R67, R75) -/

/-- The port's data after a valid marker on port lane `i`. -/
def HostSide.markerPort (h : HostSide) (p i marker : Nat) : IflPort :=
  let x := { h.port p with scr := (h.port p).scr.put i (scrSeed (marker / 2 % 2)) }
  let seen := bit marker 0 && h.portState p == 2
  if i = 0 then { x with mk0 := min 3 (x.mk0 + 1), ps0 := bit marker 0, seen0 := seen }
  else { x with mk1 := min 3 (x.mk1 + 1), ps1 := bit marker 0, seen1 := seen }

/-- The marker is shown in IFL_STATE, before the state machine takes it. -/
def HostSide.markerShown (h : HostSide) (p i marker skew : Nat) : HostSide :=
  let x := h.markerPort p i marker
  let h := (h.set (Reg.IFL_STATE.SKEW p) skew).set (Reg.IFL_STATE.DESKEWED p) (b2n (decide ((sext 6 skew).natAbs ≤ 16)))
  ((h.set (Reg.IFL_STATE.SWAPPED p) (b2n (bit marker 1 != (i == 1)))).setPort p x).showLocks p

section
variable (h : HostSide) (e : Env) (p i marker skew : Nat)

theorem HostSide.markerShown_only : h.PortStateOnly p (h.markerShown p i marker skew) :=
  ((((PortStateOnly.set h p (Reg.IFL_STATE.SKEW p) _ rfl).trans (.set _ p (Reg.IFL_STATE.DESKEWED p) _ rfl)).trans
    (.set _ p (Reg.IFL_STATE.SWAPPED p) _ rfl)).trans (.setPort _ p _)).trans (.showLocks _ p)

theorem HostSide.markerShown_state : (h.markerShown p i marker skew).portState p = h.portState p := by
  refine (HostSide.portState_showLocks _ p).trans ?_
  refine (HostSide.get_set_leaves _ _ _ _ (RF.leaves_at 0x2000 (fun _ => rfl) (fun _ => rfl) (by decide) p)).trans
    ((HostSide.get_set_leaves _ _ _ _ (RF.leaves_at 0x2000 (fun _ => rfl) (fun _ => rfl) (by decide) p)).trans
      (HostSide.get_set_leaves _ _ _ _ (RF.leaves_at 0x2000 (fun _ => rfl) (fun _ => rfl) (by decide) p)))

theorem HostSide.markerShown_deskewed (h0 : (h.markerPort p i marker).mk0 ≠ 0) (h1 : (h.markerPort p i marker).mk1 ≠ 0)
    (hs : (sext 6 skew).natAbs ≤ 16) : (h.markerShown p i marker skew).get (Reg.IFL_STATE.DESKEWED p) = 1 := by
  have hport (g : HostSide) := HostSide.port_setPort_self g p (h.markerPort p i marker)
  refine (HostSide.showLocks_deskewed _ p (by rwa [hport]) (by rwa [hport])).trans ?_
  refine (HostSide.get_set_leaves _ _ _ _ (RF.leaves_at 0x2000 (fun _ => rfl) (fun _ => rfl) (by decide) p)).trans ?_
  rw [decide_eq_true hs]
  exact HostSide.get_set_val _ _ 1 (Nat.le_of_ble_eq_true rfl) (Nat.le_of_ble_eq_true rfl)

variable (hv : markerValid marker = true)
include hv

theorem HostSide.markerRx_seek (hst : h.portState p = 1) : h.markerRx e p i marker skew = (h.markerShown p i marker skew).seekCheck p := by
  have hs := (h.markerShown_state p i marker skew).trans hst
  unfold HostSide.markerRx
  rw [if_neg (by simp [hv])]
  unfold HostSide.markerShown HostSide.markerPort at hs ⊢
  dsimp only at hs ⊢
  rw [hs]
  rfl

theorem HostSide.markerRx_locked (hst : h.portState p = 2) (h0 : (h.markerPort p i marker).seen0 = true)
    (h1 : (h.markerPort p i marker).seen1 = true) : h.markerRx e p i marker skew = (h.markerShown p i marker skew).portUp p := by
  have hs := (h.markerShown_state p i marker skew).trans hst
  unfold HostSide.markerRx
  rw [if_neg (by simp [hv])]
  unfold HostSide.markerShown at hs ⊢
  unfold HostSide.markerPort at hs h0 h1 ⊢
  dsimp only at hs h0 h1 ⊢
  rw [hs]
  exact if_pos (by rw [h0, h1]; rfl)

theorem HostSide.markerRx_lost (hst : h.portState p = 3) (hps : bit marker 0 = false) :
    h.markerRx e p i marker skew = (h.markerShown p i marker skew).portDown e p := by
  have hs := (h.markerShown_state p i marker skew).trans hst
  unfold HostSide.markerRx
  rw [if_neg (by simp [hv])]
  unfold HostSide.markerShown HostSide.markerPort at hs ⊢
  dsimp only at hs ⊢
  rw [hs]
  exact if_neg (by simp [hps])

end

end Sys2Proof.Machine

/-! SUPPORT. The commands that move an Ifepen port through its states (R75, R76), and the statement about them. -/

namespace Sys2Proof.Machine
open Sys2Proof

/-! ### IFL_CTRL (R75, R77) -/

section
variable (h : HostSide) (p : Nat)

/-- A port that leaves for OFF or SEEK is there, whether it was UP or not, and its control word stays. -/
theorem HostSide.portLeave_to {p : Nat} (hp : p < 8) {st : Nat} (hst : st < 4) : (h.portLeave p st).portState p = st
    ∧ ((h.portLeave p st).port p).replay = [] ∧ ((h.portLeave p st).port p).rx = []
    ∧ (h.portLeave p st).get (Reg.IFL_CTRL.EN p) = h.get (Reg.IFL_CTRL.EN p) := by
  have hto := PortStateOnly.portTo h p st
  have hen : (h.portTo p st).get (Reg.IFL_CTRL.EN p) = h.get (Reg.IFL_CTRL.EN p) :=
    hto.get (by simp only [Reg.IFL_CTRL.EN, Reg.IFL_STATE.STATE]; omega)
  have hf := CoresFailed.failOver (h.portTo p st) p
  have hgone : ((h.portTo p st).port p).replay = [] ∧ ((h.portTo p st).port p).rx = [] := by
    rw [HostSide.port_portTo]
    exact ⟨rfl, rfl⟩
  unfold HostSide.portLeave
  split
  · rw [hf.port]
    exact ⟨(hf.get (by simp only [Reg.IFL_STATE.STATE]; omega)).trans (h.portState_portTo p hst), hgone.1, hgone.2,
      (hf.get (by simp only [Reg.IFL_CTRL.EN]; omega)).trans hen⟩
  · exact ⟨h.portState_portTo p hst, hgone.1, hgone.2, hen⟩

/-- IFL_CTRL as a write leaves it, EN as given. -/
def HostSide.iflCtrlWritten (h : HostSide) (p : Nat) (v : Word) (en : Bool) : HostSide :=
  (h.accWrite (Reg.IFL_CTRL.EN p).addr v true).set (Reg.IFL_CTRL.EN p) (b2n en)

theorem HostSide.iflCtrl_eq (v : Word) (en : Bool) : h.iflCtrl p v en =
    if !en then (if (h.iflCtrlWritten p v en).portState p = 0 then h.iflCtrlWritten p v en else (h.iflCtrlWritten p v en).portLeave p 0)
    else if (h.iflCtrlWritten p v en).portState p = 0 && ((h.iflCtrlWritten p v en).port p).txOn
      then (h.iflCtrlWritten p v en).set (Reg.IFL_STATE.STATE p) 1 else h.iflCtrlWritten p v en := rfl

theorem HostSide.iflCtrlWritten_en (v : Word) (en : Bool) : (h.iflCtrlWritten p v en).get (Reg.IFL_CTRL.EN p) = b2n en :=
  HostSide.get_set_val _ _ _ (Nat.le_of_ble_eq_true rfl) (b2n_lt_two en)

theorem HostSide.iflCtrlWritten_state (v : Word) (en : Bool) : (h.iflCtrlWritten p v en).portState p = h.portState p :=
  (HostSide.get_set_leaves _ _ _ _ (RF.leaves_at 0x2000 (fun _ => rfl) (fun _ => rfl) (by decide) p)).trans
    (HostSide.get_accWrite_ne h _ v true _ (by simp only [Reg.IFL_STATE.STATE, Reg.IFL_CTRL.EN]; omega))

end

section
variable {s : State} {p : Nat}

theorem execIflEnable_off {v : Word} (ho : s.open_) (hp : p < s.variant.ports) (hv : v.getLsbD 0 = true) (hst : s.host.portState p = 0)
    (htx : (s.host.port p).txOn = true) :
    ∃ t, exec (.iflEnable p v) s = .next t ∧ t.host.portState p = 1 ∧ t.host.get (Reg.IFL_CTRL.EN p) = 1 := by
  have hex : exec (.iflEnable p v) s = .next { s with host := ((s.host.iflCtrlWritten p v true).set (Reg.IFL_STATE.STATE p) 1).settle } := by
    show execIflEnable p v s = _
    unfold execIflEnable
    rw [State.onBar_open s _ ho, if_neg (by rw [hv]; simp [State.env, Nat.not_le.mpr hp]), HostSide.iflCtrl_eq, if_neg (by decide),
      if_pos]
    rw [HostSide.iflCtrlWritten_state, hst, show (s.host.iflCtrlWritten p v true).port p = s.host.port p from rfl, htx]
    rfl
  refine ⟨_, hex, (HostSide.portState_settle _ p).trans ?_, (HostSide.settle_get_high _ _ (Nat.lt_add_right _ (by decide))).trans ?_⟩
  · exact HostSide.get_set_val _ _ 1 (Nat.le_of_ble_eq_true rfl) (Nat.le_of_ble_eq_true rfl)
  · exact (HostSide.get_set_leaves _ _ _ _ (RF.leaves_at 0x2000 (fun _ => rfl) (fun _ => rfl) (by decide) p)).trans
      (s.host.iflCtrlWritten_en p v true)

theorem execIflDisable_off {v : Word} (ho : s.open_) (hp : p < s.variant.ports) (hv : v.getLsbD 0 = false) :
    ∃ t, exec (.iflDisable p v) s = .next t ∧ t.host.portState p = 0 ∧ t.host.get (Reg.IFL_CTRL.EN p) = 0 := by
  have hex : exec (.iflDisable p v) s = .next { s with host := (s.host.iflCtrl p v false).settle } := by
    show execIflDisable p v s = _
    unfold execIflDisable
    rw [State.onBar_open s _ ho, if_neg (by rw [hv]; simp [State.env, Nat.not_le.mpr hp])]
  refine ⟨_, hex, (HostSide.portState_settle _ p).trans ?_, (HostSide.settle_get_high _ _ (Nat.lt_add_right _ (by decide))).trans ?_⟩ <;>
    rw [HostSide.iflCtrl_eq, if_pos (by rfl)]
  · split
    · assumption
    · exact (HostSide.portLeave_to _ (hp.trans_le s.variant.ports_le) (by decide)).1
  · split
    · exact s.host.iflCtrlWritten_en p v false
    · obtain ⟨-, -, -, hen⟩ := (s.host.iflCtrlWritten p v false).portLeave_to (hp.trans_le s.variant.ports_le) (st := 0) (by decide)
      exact hen.trans (s.host.iflCtrlWritten_en p v false)

/-- Only IFL_STATE and the ports differ. -/
theorem HostSide.PortStateOnly.changes {g : HostSide} (hg : s.host.PortStateOnly p g) :
    s.changes { s with host := g.settle } (fun x => { x with ports := s.host.ports }) [(Reg.IFL_STATE.STATE p).addr] :=
  State.changes_of s _ _ _ (congrArg (fun x : HostSide => { x with vecs := s.host.vecs }) hg.rest)
    fun a ha _ => hg.words a (by simpa using ha)

theorem execIflRetrain_on (ho : s.open_) (hp : p < s.variant.ports) (hst : s.host.portState p ≠ 0) :
    ∃ t, exec (.iflRetrain p) s = .next t ∧ t.host.portState p = 1 ∧ (t.host.port p).replay = [] ∧ (t.host.port p).rx = []
      ∧ (s.host.portState p ≠ 3 → s.changes t (fun g => { g with ports := s.host.ports }) [(Reg.IFL_STATE.STATE p).addr]) := by
  have hex : exec (.iflRetrain p) s = .next { s with host := (s.host.portLeave p 1).settle } := by
    show execIflRetrain p s = _
    unfold execIflRetrain
    rw [State.onBar_open s _ ho, if_neg (by simp [State.env, Nat.not_le.mpr hp, hst])]
  obtain ⟨hstate, hreplay, hrx, -⟩ := s.host.portLeave_to (hp.trans_le s.variant.ports_le) (st := 1) (by decide)
  refine ⟨_, hex, (HostSide.portState_settle _ p).trans hstate, ?_, ?_, fun h3 => HostSide.PortStateOnly.changes ?_⟩
  · exact (congrArg IflPort.replay (HostSide.port_settle _ p)).trans hreplay
  · exact (congrArg IflPort.rx (HostSide.port_settle _ p)).trans hrx
  · unfold HostSide.portLeave
    rw [if_neg h3]
    exact .portTo s.host p 1

theorem execIflTxStart_enabled (hu : s.up) (hp : p < s.variant.ports) (htx : (s.host.port p).txOn = false)
    (hen : s.host.on (Reg.IFL_CTRL.EN p) = true) :
    ∃ t, exec (.iflTxStart p) s = .next t ∧ t.host.portState p = 1 ∧ (t.host.port p).txOn = true
      ∧ s.changes t (fun g => { g with ports := s.host.ports }) [(Reg.IFL_STATE.STATE p).addr] := by
  have hex : exec (.iflTxStart p) s = .next { s with host :=
      ((s.host.setPort p { s.host.port p with txOn := true }).set (Reg.IFL_STATE.STATE p) 1).settle } := by
    show execIflTxStart p s = _
    unfold execIflTxStart
    rw [State.onHost_up s _ hu, if_neg (by simp [State.env, Nat.not_le.mpr hp, htx])]
    dsimp only
    rw [if_pos (show (s.host.setPort p _).on (Reg.IFL_CTRL.EN p) = true from hen)]
  refine ⟨_, hex, (HostSide.portState_settle _ p).trans ?_, ?_, ((HostSide.PortStateOnly.setPort s.host p _).trans (.set _ p _ 1 rfl)).changes⟩
  · exact HostSide.get_set_val _ _ 1 (Nat.le_of_ble_eq_true rfl) (Nat.le_of_ble_eq_true rfl)
  · rw [HostSide.port_settle]
    show ((s.host.setPort p _).port p).txOn = true
    rw [HostSide.port_setPort_self]

/-! ### Markers -/

/-- A port that has had a down event. -/
theorem State.portFell_of {g : HostSide} (hp : p < 8) (hdown : g.get (Reg.IFL_DOWN p) = s.host.get (Reg.IFL_DOWN p))
    (hsite : ∀ c, g.siteOf c = s.host.siteOf c) : s.portFell { s with host := (g.portDown s.env p).settle } p := by
  obtain ⟨hstate, hcount, hreplay, hrx, hint, hno⟩ := g.portDown_fell s.env hp
  have hcores (site : Nat) : (g.portDown s.env p).settle.core site = (g.portDown s.env p).core site := by
    unfold HostSide.core
    rw [HostSide.settle_cores]
  refine ⟨(HostSide.portState_settle _ p).trans hstate, ?_, ?_, ?_, ?_, fun c site hc hs x hx => ?_⟩
  · rw [← hdown, ← hcount]
    exact HostSide.settle_get_high _ _ (Nat.lt_add_right _ (by decide))
  · exact (congrArg IflPort.replay (HostSide.port_settle _ p)).trans hreplay
  · exact (congrArg IflPort.rx (HostSide.port_settle _ p)).trans hrx
  · rw [← hint]
    exact congrArg (bit · 1) (HostSide.settle_get_high _ _ (Nat.lt_add_right _ (by decide)))
  · exact hno c site hc ((hsite c).trans hs) x (by rw [← hcores]; exact hx)

/-- What of the host side a port that has heard its lanes still shows. -/
theorem HostSide.LaneHeard.siteOf {h g : HostSide} (hg : h.LaneHeard p g) (c : Nat) : g.siteOf c = h.siteOf c := by
  unfold HostSide.siteOf
  rw [show g.insp = h.insp from (congrArg HostSide.insp hg.rest :)]

/-- In SEEK the marker that completes both lanes' locks leads to LOCKED (R75). -/
theorem execIflMarkerRx_seek {i skew : Nat} {wire : List Bool} (hu : s.up) (hp : p < s.variant.ports) (hi : i < 2)
    (hst : s.host.portState p = 1) (hc0 : s.host.on (Reg.LANE_STATUS.CDR_LOCK (portLane p 0)) = true)
    (hc1 : s.host.on (Reg.LANE_STATUS.CDR_LOCK (portLane p 1)) = true) (hpow : s.host.lanePowered p i = true)
    (hs : s.host.looped p i = true ∨ (sext 6 skew).natAbs ≤ 16) (hv : markerValid (s.markerIn p i wire) = true)
    (hm0 : (if i = 0 then 2 else 3) ≤ (s.host.port p).mk0) (hm1 : (if i = 0 then 3 else 2) ≤ (s.host.port p).mk1) :
    ∃ t, exec (.iflMarkerRx p i wire skew) s = .next t ∧ t.host.portState p = 2 := by
  have hp8 := hp.trans_le s.variant.ports_le
  obtain ⟨g, hg, hex⟩ := execIflMarkerRx_up (wire := wire) (skew := skew) hu hp hi (by omega) hpow
  refine ⟨_, hex, (HostSide.portState_settle _ p).trans ?_⟩
  generalize hmk : s.markerIn p i wire = marker at hv hex ⊢
  have hskew : (sext 6 (if s.host.looped p i then 0 else skew)).natAbs ≤ 16 := by
    split
    · decide
    · next hl => exact hs.resolve_left hl
  generalize (if s.host.looped p i then 0 else skew) = skew' at hskew hex ⊢
  have hgst := (hg.portState hp8 p).trans hst
  rw [HostSide.markerRx_seek g _ p i marker skew' hv hgst]
  have hpm0 : (g.port p).mk0 = (s.host.port p).mk0 := by rw [hg.port]
  have hpm1 : (g.port p).mk1 = (s.host.port p).mk1 := by rw [hg.port]
  have hlocks : 3 ≤ (g.markerPort p i marker).mk0 ∧ 3 ≤ (g.markerPort p i marker).mk1 := by
    unfold HostSide.markerPort
    by_cases hi0 : i = 0
    · simp only [hi0, if_true] at hm0 hm1 ⊢
      omega
    · simp only [hi0, if_false] at hm0 hm1 ⊢
      omega
  have hshow (f : Nat → RF) (hf : ∀ i, f i = ⟨(f 0).addr + i * 0x100, (f 0).lo, (f 0).w⟩)
      (ha : 0x40000 ≤ (f 0).addr ∧ (f 0).addr < 0x40018) (l : Nat) (hl : l < 48) :
      (g.markerShown p i marker skew').on (f l) = s.host.on (f l) := by
    refine HostSide.on_congr (((HostSide.markerShown_only g p i marker skew').get ?_).trans (hg.get_at hf ha l))
    rw [hf l]
    simp only [Reg.IFL_STATE.STATE]
    omega
  refine HostSide.seekCheck_locked _ p ((HostSide.markerShown_state g p i marker skew').trans hgst) ?_ ?_ ?_ ?_ ?_
  · rw [HostSide.on_eq_true_iff, HostSide.markerShown, HostSide.showLocks_l0, HostSide.port_setPort_self]
    simp [hlocks.1, b2n]
  · rw [HostSide.on_eq_true_iff, HostSide.markerShown, HostSide.showLocks_l1, HostSide.port_setPort_self]
    simp [hlocks.2, b2n]
  · rw [HostSide.on_eq_true_iff, HostSide.markerShown_deskewed g p i marker skew' (by omega) (by omega) hskew]
    decide
  · rw [hshow Reg.LANE_STATUS.CDR_LOCK (fun _ => rfl) (by decide) _ (by unfold portLane; omega), hc0]
  · rw [hshow Reg.LANE_STATUS.CDR_LOCK (fun _ => rfl) (by decide) _ (by unfold portLane; omega), hc1]

/-- In LOCKED a valid marker with PARTNER_SEEN on the second lane leads to UP (R75). -/
theorem execIflMarkerRx_locked {i skew : Nat} {wire : List Bool} (hu : s.up) (hp : p < s.variant.ports) (hi : i < 2)
    (hst : s.host.portState p = 2) (hpow : s.host.lanePowered p i = true) (hv : markerValid (s.markerIn p i wire) = true)
    (hps : bit (s.markerIn p i wire) 0 = true) (hseen : (if i = 0 then (s.host.port p).seen1 else (s.host.port p).seen0) = true) :
    ∃ t, exec (.iflMarkerRx p i wire skew) s = .next t ∧ t.host.portState p = 3 ∧ (t.host.port p).seq = 0
      ∧ (t.host.port p).replay = [] ∧ bit (t.host.get (Reg.IFL_INT_STATUS p)) 0 = true := by
  have hp8 := hp.trans_le s.variant.ports_le
  obtain ⟨g, hg, hex⟩ := execIflMarkerRx_up (wire := wire) (skew := skew) hu hp hi (by omega) hpow
  have hgst := (hg.portState hp8 p).trans hst
  have hs0 : (g.port p).seen0 = (s.host.port p).seen0 := by rw [hg.port]
  have hs1 : (g.port p).seen1 = (s.host.port p).seen1 := by rw [hg.port]
  have hboth : (g.markerPort p i (s.markerIn p i wire)).seen0 = true ∧ (g.markerPort p i (s.markerIn p i wire)).seen1 = true := by
    unfold HostSide.markerPort
    by_cases hi0 : i = 0
    · subst hi0
      simpa [hps, hgst, hs1] using hseen
    · rw [if_neg hi0] at hseen
      simp [hi0, hps, hgst, hs0, hseen]
  rw [HostSide.markerRx_locked g _ p i _ _ hv hgst hboth.1 hboth.2] at hex
  obtain ⟨hstate, hseq, hreplay, hint⟩ := HostSide.portUp_up (g.markerShown p i (s.markerIn p i wire)
    (if s.host.looped p i then 0 else skew)) hp8
  refine ⟨_, hex, (HostSide.portState_settle _ p).trans hstate, ?_, ?_, ?_⟩
  · exact (congrArg IflPort.seq (HostSide.port_settle _ p)).trans hseq
  · exact (congrArg IflPort.replay (HostSide.port_settle _ p)).trans hreplay
  · exact (congrArg (bit · 0) (HostSide.settle_get_high _ _ (Nat.lt_add_right _ (by decide)))).trans hint

/-- In UP a marker without PARTNER_SEEN is a down event (R75). -/
theorem execIflMarkerRx_lost {i skew : Nat} {wire : List Bool} (hu : s.up) (hp : p < s.variant.ports) (hi : i < 2)
    (hst : s.host.portState p = 3) (hpow : s.host.lanePowered p i = true) (hv : markerValid (s.markerIn p i wire) = true)
    (hps : bit (s.markerIn p i wire) 0 = false) : ∃ t, exec (.iflMarkerRx p i wire skew) s = .next t ∧ s.portFell t p := by
  have hp8 := hp.trans_le s.variant.ports_le
  obtain ⟨g, hg, hex⟩ := execIflMarkerRx_up (wire := wire) (skew := skew) hu hp hi (by omega) hpow
  rw [HostSide.markerRx_lost g _ p i _ _ hv ((hg.portState hp8 p).trans hst) hps] at hex
  have hshown := HostSide.markerShown_only g p i (s.markerIn p i wire) (if s.host.looped p i then 0 else skew)
  refine ⟨_, hex, State.portFell_of hp8 ?_ fun c => ?_⟩
  · exact (hshown.get (by simp only [Reg.IFL_DOWN, Reg.IFL_STATE.STATE]; omega)).trans (hg.get_high hp8 (Nat.le_add_right_of_le (by decide)))
  · refine Eq.trans ?_ (hg.siteOf c)
    unfold HostSide.siteOf
    rw [show (g.markerShown p i (s.markerIn p i wire) (if s.host.looped p i then 0 else skew)).insp = g.insp from
      (congrArg HostSide.insp hshown.rest :)]

/-- A lane of an UP port that loses its markers takes the port down (R75). -/
theorem HostSide.laneLost_down (h : HostSide) (e : Env) (i : Nat) (hst : h.portState p = 3) :
    ∃ g, h.PortStateOnly p g ∧ h.laneLost e p i true = g.portDown e p := by
  unfold HostSide.laneLost
  extract_lets x y g
  have hs : g.portState p = 3 := (HostSide.portState_showLocks _ p).trans hst
  refine ⟨g, (HostSide.PortStateOnly.setPort h p _).trans (.showLocks _ p), ?_⟩
  rw [hs]
  exact if_pos rfl

/-- Three missing markers on an UP port are a down event (R75). -/
theorem execIflMarkerMissing_up {i : Nat} (hu : s.up) (hp : p < s.variant.ports) (hi : i < 2) (hst : s.host.portState p = 3) :
    ∃ t, exec (.iflMarkerMissing p i) s = .next t ∧ s.portFell t p := by
  obtain ⟨g, hg, hlost⟩ := s.host.laneLost_down s.env i hst
  have hex : exec (.iflMarkerMissing p i) s = .next { s with host := (g.portDown s.env p).settle } := by
    show execIflMarkerMissing p i s = _
    unfold execIflMarkerMissing
    rw [State.onHost_up s _ hu, if_neg (by simp [State.env, Nat.not_le.mpr hp, Nat.not_le.mpr hi, hst]), hlost]
  refine ⟨_, hex, State.portFell_of (hp.trans_le s.variant.ports_le)
    (hg.get (by simp only [Reg.IFL_DOWN, Reg.IFL_STATE.STATE]; omega)) fun c => ?_⟩
  unfold HostSide.siteOf
  rw [show g.insp = s.host.insp from (congrArg HostSide.insp hg.rest :)]

/-- In loopback, with no generator, injection or lone inversion between, the marker is the port's own (R67, R69, R77). -/
theorem State.markerIn_looped {i : Nat} {wire : List Bool} (hl : s.host.looped p i = true)
    (hgen : s.host.hearsGen (portLane p i) = false) (hrx : (s.host.lane (portLane p i)).rxFlip = false)
    (htx : (s.host.lane (portLane p i)).txFlip = false)
    (hinv : s.host.on (Reg.LANE_CTRL.TX_INV (portLane p i)) = s.host.on (Reg.LANE_CTRL.RX_INV (portLane p i)))
    (hrun : SMap.get (fun _ => {}) (s.host.port p).run i = SMap.get (fun _ => {}) (s.host.port p).txRun i)
    (hlen : (SMap.get (fun _ => {}) (s.host.port p).txRun i).len < 40) :
    s.markerIn p i wire = markerOf i (decide (2 ≤ s.host.portState p)) 1 := by
  have hout : (s.host.ownMarker p i).2 = (stuff (SMap.get (fun _ => {}) (s.host.port p).txRun i)
      (wordBits 64 (markerOf i (decide (2 ≤ s.host.portState p)) 1) ++ wordBits 64 skipWord)).1.map
        fun b => b != s.host.on (Reg.LANE_CTRL.TX_INV (portLane p i)) := by
    unfold HostSide.ownMarker HostSide.ownWire
    dsimp only
    rw [HostSide.port_setPort_self]
    unfold HostSide.laneOut
    rw [show (s.host.setPort p _).lane (portLane p i) = s.host.lane (portLane p i) from rfl, htx]
    rfl
  have hback (l : List Bool) (a : Bool) : (l.map fun b => b != a).map (fun b => b != a) = l := by
    rw [List.map_map]
    exact (List.map_congr_left fun b _ => by cases a <;> cases b <;> rfl).trans (List.map_id l)
  unfold State.markerIn
  rw [if_pos hl, hout]
  unfold HostSide.heard
  dsimp only
  rw [if_neg (by simp [hrx]), if_neg (by simp [hgen]), ← hinv, hback, hrun, (unstuff_stuff _ _ hlen).1, List.take_left' (wordBits_length 64 _),
    bitsNat_wordBits, Nat.mod_eq_of_lt (markerOf_lt _ _ _)]

end

/-- Settles O12: the writes through what leaving a state discards, the markers through what hearing a lane leaves, and the down events
through the transfers that fail. -/
theorem ifepenPortStates : Obligations.IfepenPortStates := by
  unfold Obligations.IfepenPortStates
  refine ⟨fun s p v => execIflEnable_off, fun s p v => execIflDisable_off, fun s p => execIflRetrain_on, fun s p => execIflTxStart_enabled,
    ?seek, fun s p i skew wire => execIflMarkerRx_locked, fun s p i skew wire => execIflMarkerRx_lost,
    fun s p i wire _ => State.markerIn_looped, fun s p i => execIflMarkerMissing_up⟩
  intro s p skew wire hu hp hst hc0 hc1
  exact ⟨fun hm0 hm1 hpow hs hv => execIflMarkerRx_seek hu hp (by decide) hst hc0 hc1 hpow hs hv hm0 hm1,
    fun hm0 hm1 hpow hs hv => execIflMarkerRx_seek hu hp (by decide) hst hc0 hc1 hpow hs hv hm0 hm1⟩

end Sys2Proof.Machine

/-! SUPPORT. What sending, acknowledging and delivering flits leave of a port's receiver (R70 to R73), and the statement about flits. -/

namespace Sys2Proof.Machine
open Sys2Proof

/-! ### Trace records leave the ports (R410, R411) -/

theorem HostSide.trace_ports (h : HostSide) (e : Env) (b tick kind source sport : Nat) (payload : List Byte) :
    (h.trace e b tick kind source sport payload).ports = h.ports := by
  have hcount (g : HostSide) : (g.countG 0x51 0 1).ports = g.ports := (congrArg HostSide.ports (HostSide.CyclesPassed.countG g 0x51 0 1).rest :)
  have hloss (g : HostSide) : (g.traceLoss e b).ports = g.ports := by
    unfold HostSide.traceLoss
    dsimp only
    split
    · rfl
    · rw [HostSide.setBits_ports]
      rfl
  unfold HostSide.trace HostSide.traceIn
  split
  · rfl
  · dsimp only
    split
    · rw [hcount, HostSide.inc_ports]
      exact hloss h
    · exact hloss h

theorem HostSide.noteLaunch_ports (h : HostSide) (e : Env) (type payload : Nat) : (h.noteLaunch e type payload).ports = h.ports := by
  unfold HostSide.noteLaunch
  split <;> rfl

/-! ### The receiver of a port -/

/-- What a port has received: the SEQ it expects, its ACK, whether it has sent a NAK, and the partner's credits. -/
def IflPort.received (x : IflPort) : Nat × Nat × Bool × Option (List Nat) := (x.rxSeq, x.ack, x.nak, x.credit)

section
variable (h : HostSide) (e : Env) (p : Nat)

theorem HostSide.setPort_received {x : IflPort} (hx : x.received = (h.port p).received) :
    ((h.setPort p x).port p).received = (h.port p).received := by rw [HostSide.port_setPort_self, hx]

theorem HostSide.sendOut_received (f : Nat) : ((h.sendOut p f).port p).received = (h.port p).received := by
  rw [HostSide.sendOut_port]
  rfl

theorem HostSide.sendFlit_received (type vc payload : Nat) : ((h.sendFlit e p type vc payload).port p).received = (h.port p).received := by
  unfold HostSide.sendFlit
  dsimp only
  rw [HostSide.port_congr (HostSide.noteLaunch_ports _ e type payload), HostSide.countG_port, HostSide.sendOut_received,
    HostSide.port_setPort_self]
  rfl

theorem HostSide.flush_received : ((h.flush e p).port p).received = (h.port p).received := by
  unfold HostSide.flush
  refine List.foldlRecOn (motive := fun g : HostSide => (g.port p).received = (h.port p).received) _ _ rfl fun g hg t _ => ?_
  dsimp only
  split
  · rw [HostSide.sendFlit_received, HostSide.port_setPort_self]
    exact hg
  · exact hg

/-- Taking an ACK frees replay entries and sends what waits; the receiver stays (R73). -/
theorem HostSide.takeAck_received (ack : Nat) : ((h.takeAck e p ack).port p).received = (h.port p).received := by
  unfold HostSide.takeAck
  dsimp only
  split
  · rw [HostSide.flush_received, HostSide.port_setPort_self]
    rfl
  · rfl

/-- A flit in order: the next SEQ is expected and this one acknowledged, whatever becomes of it (R72, R73). -/
theorem HostSide.deliver_seq (f : Nat) : ((h.deliver e p f).port p).rxSeq = ((h.port p).rxSeq + 1) % 1024
    ∧ ((h.deliver e p f).port p).ack = flitSeq f := by
  have hfree (g : HostSide) (vc : Nat) : ((g.freeBuffer p vc).port p).received = (g.port p).received := by
    unfold HostSide.freeBuffer
    rw [HostSide.port_setPort_self]
    rfl
  have hflit (g : HostSide) (vc : Nat) : ((g.freeFlit p vc).port p).received = (g.port p).received := by
    unfold HostSide.freeFlit
    split
    · rw [HostSide.port_setPort_self]
      rfl
    · exact hfree g vc
  have hgot (g : HostSide) (tick : Nat) : ((g.eventGot e p f tick).port p).received = (g.port p).received :=
    congrArg IflPort.received (HostSide.port_congr (HostSide.trace_ports _ _ _ _ _ _ _ _) p)
  unfold HostSide.deliver
  extract_lets x g₁ z cap g₂ y
  have h1 : (g₁.port p).rxSeq = ((h.port p).rxSeq + 1) % 1024 ∧ (g₁.port p).ack = flitSeq f := by
    unfold g₁
    rw [HostSide.port_setPort_self]
    exact ⟨rfl, rfl⟩
  have h2 : (g₂.port p).received = (g₁.port p).received := by
    unfold g₂
    split
    · exact g₁.setPort_received p rfl
    · rfl
  have hdone {k : HostSide} (hk : (k.port p).received = (g₂.port p).received) :
      (k.port p).rxSeq = ((h.port p).rxSeq + 1) % 1024 ∧ (k.port p).ack = flitSeq f := by
    obtain ⟨hs, ha⟩ := h1
    exact ⟨(congrArg (·.1) (hk.trans h2)).trans hs, (congrArg (·.2.1) (hk.trans h2)).trans ha⟩
  refine hdone ?_
  split
  · exact g₂.setPort_received p rfl
  · split
    · exact g₂.setPort_received p rfl
    · split
      · rw [hfree, hgot]
      · exact hflit g₂ _

/-- A discarded flit has its NAK sent, or one stands already; nothing else of the receiver or of what is to be replayed changes (R73). -/
theorem HostSide.discardFlit_port : ((h.discardFlit p).port p).nak = true ∧ ((h.discardFlit p).port p).rxSeq = (h.port p).rxSeq
    ∧ ((h.discardFlit p).port p).ack = (h.port p).ack ∧ ((h.discardFlit p).port p).replay = (h.port p).replay := by
  unfold HostSide.discardFlit
  dsimp only
  split
  · next hn => exact ⟨hn, rfl, rfl, rfl⟩
  · rw [HostSide.countG_port, HostSide.sendOut_port, HostSide.port_setPort_self]
    exact ⟨rfl, rfl, rfl, rfl⟩

theorem HostSide.discardFlit_get {f : RF} (hf : f.addr < 0x600000) : (h.discardFlit p).get f = h.get f := by
  unfold HostSide.discardFlit
  dsimp only
  split
  · rfl
  · exact (HostSide.countG_get _ 0x10 p 1 hf).trans (congrArg (fun rs : RegFile => rs.get f) (HostSide.sendOut_regs (h.setPort p _) p _))

/-! ### A flit that has arrived (R70 to R73) -/

theorem HostSide.flitRx_bad {f : Nat} (hg : flitGood f = false) : h.flitRx e p f = (h.inc (Reg.IFL_CRC_ERR p) 1).discardFlit p := by
  unfold HostSide.flitRx
  dsimp only
  rw [if_pos (by simp [hg])]

theorem HostSide.flitRx_format {f : Nat} (hg : flitGood f = true) (hf : flitFormat f ≠ 1) : h.flitRx e p f = h.discardFlit p := by
  unfold HostSide.flitRx
  dsimp only
  rw [if_neg (by simp [hg]), if_pos (by simp [hf])]

/-- A good sequenced flit, once its ACK is taken, is delivered in order and discarded otherwise. -/
theorem HostSide.flitRx_seqd {f : Nat} (hg : flitGood f = true) (hf : flitFormat f = 1) (hs : flitSeqd (flitType f) = true) :
    ∃ g : HostSide, (g.port p).received = (h.port p).received
      ∧ h.flitRx e p f = if flitSeq f = (h.port p).rxSeq then g.deliver e p f else g.discardFlit p := by
  have hrec : (((h.countG 0x11 p 1).takeAck e p (flitAck f)).port p).received = (h.port p).received := by
    rw [HostSide.takeAck_received, HostSide.countG_port]
  refine ⟨_, hrec, ?_⟩
  unfold HostSide.flitRx
  dsimp only
  rw [if_neg (by simp [hg]), if_neg (by simp [hf]), if_pos hs,
    show (((h.countG 0x11 p 1).takeAck e p (flitAck f)).port p).rxSeq = (h.port p).rxSeq from congrArg (·.1) hrec]

/-- A CREDIT flit's counters are held (R72). -/
theorem HostSide.flitRx_credit {f : Nat} (hg : flitGood f = true) (hf : flitFormat f = 1) (ht : flitType f = 3) :
    ((h.flitRx e p f).port p).credit = some ((List.range 4).map fun vc => flitPayload f / 2 ^ (16 * vc) % 65536) := by
  have hflush (g : HostSide) : ((g.flush e p).port p).credit = (g.port p).credit := congrArg (·.2.2.2) (g.flush_received e p)
  unfold HostSide.flitRx
  dsimp only
  rw [if_neg (by simp [hg]), if_neg (by simp [hf]), ht, if_neg (by decide)]
  refine (hflush _).trans ?_
  rw [HostSide.port_setPort_self]

end

end Sys2Proof.Machine

/-! SUPPORT. Flit slots, replays and credits of an UP port (R70 to R73), and the statement about them. -/

namespace Sys2Proof.Machine
open Sys2Proof

/-! ### A flit slot -/

section
variable {s : State} {p f : Nat} {w0 w1 : List Bool}

/-- The flit that a slot spells arrives at an UP port whose lanes have power: what hearing it left of the port and its registers. -/
theorem execIflFlitRx_up (hu : s.up) (hp : p < s.variant.ports) (hst : s.host.portState p = 3) (hp0 : s.host.lanePowered p 0 = true)
    (hp1 : s.host.lanePowered p 1 = true) (hf : (s.host.recvFlit p w0 w1).2 = f) :
    ∃ g : HostSide, exec (.iflFlitRx p w0 w1) s = .next { s with host := (g.flitRx s.env p f).settle }
      ∧ s.host.LaneHeard p g := by
  have hg := HostSide.LaneHeard.recvFlit s.host p w0 w1
  refine ⟨_, ?_, hg⟩
  show execIflFlitRx p w0 w1 s = _
  unfold execIflFlitRx
  rw [State.onHost_up s _ hu, if_neg (by simp [State.env, Nat.not_le.mpr hp, hst, hp0, hp1])]
  dsimp only
  rw [if_pos ((hg.portState (hp.trans_le s.variant.ports_le) p).trans hst), hf]

/-- What a discarded flit leaves, seen from before the slot. -/
theorem HostSide.LaneHeard.discarded {h g k : HostSide} (hg : h.LaneHeard p g) (hk : k.port p = g.port p) :
    ((k.discardFlit p).settle.port p).rxSeq = (h.port p).rxSeq ∧ ((k.discardFlit p).settle.port p).ack = (h.port p).ack
      ∧ ((k.discardFlit p).settle.port p).replay = (h.port p).replay ∧ ((k.discardFlit p).settle.port p).nak = true := by
  obtain ⟨hnak, hseq, hack, hreplay⟩ := k.discardFlit_port p
  rw [HostSide.port_settle, hseq, hack, hreplay, hk, hg.port]
  exact ⟨rfl, rfl, rfl, hnak⟩

end

/-! ### Replays (R73) -/

section
variable (h : HostSide) (e : Env) (p : Nat)

/-- A replay sends the buffer's flits again, with the present ACK (R73). -/
def HostSide.replayFlits (h : HostSide) (e : Env) (p : Nat) : List Nat :=
  (h.port p).replay.map fun f => flitOf (flitType f) (flitSeq f) (h.port p).ack (flitVc f) (h.timeStamp e (flitType f) (flitPayload f))

/-- Before the flits of a replay go out. -/
def HostSide.replayStarted (h : HostSide) (e : Env) (p : Nat) (nak : Bool) : HostSide :=
  ((h.port p).replay.foldl (fun h f => h.noteLaunch e (flitType f) (flitPayload f)) h).setPort p { h.port p with
    replays := (h.port p).replays + 1, replayed := some (e.tick, nak), replay := h.replayFlits e p }

theorem HostSide.replayNow_again (nak : Bool) (hr : (h.port p).replayed ≠ some (e.tick, !nak))
    (hl : (h.port p).replays < max 1 (h.get (Reg.IFL_CTRL.REPLAY_LIMIT p))) : h.replayNow e p nak =
      (((((h.replayFlits e p).foldl (fun h f => h.sendOut p f) (h.replayStarted e p nak)).countG 0x10 p (h.replayFlits e p).length).inc
        (Reg.IFL_REPLAY p) 1).countG 0x12 p 1).log e 0x0103 p 0 0 0 := by
  unfold HostSide.replayNow
  dsimp only
  rw [if_neg (by simpa using hr), if_neg (Nat.not_le.mpr hl)]
  rfl

theorem HostSide.replayNow_limit (nak : Bool) (hr : (h.port p).replayed ≠ some (e.tick, !nak))
    (hl : max 1 (h.get (Reg.IFL_CTRL.REPLAY_LIMIT p)) ≤ (h.port p).replays) :
    h.replayNow e p nak = (h.setBits (Reg.IFL_INT_STATUS p) 4).portDown e p := by
  unfold HostSide.replayNow
  dsimp only
  rw [if_neg (by simpa using hr), if_pos hl]

/-- A NAK and a timeout of the same cycle cause one replay (R73). -/
theorem HostSide.replayNow_same (nak : Bool) (hr : (h.port p).replayed = some (e.tick, !nak)) : h.replayNow e p nak = h := by
  unfold HostSide.replayNow
  dsimp only
  rw [if_pos (by simp [hr])]

/-- Flits that go out leave the replay buffer, the count of replays and the registers. -/
theorem HostSide.foldl_sendOut (l : List Nat) (g : HostSide) :
    (l.foldl (fun h f => h.sendOut p f) g).regs = g.regs
      ∧ ((l.foldl (fun h f => h.sendOut p f) g).port p).replay = (g.port p).replay
      ∧ ((l.foldl (fun h f => h.sendOut p f) g).port p).replays = (g.port p).replays := by
  refine List.foldlRecOn (motive := fun k : HostSide => k.regs = g.regs ∧ (k.port p).replay = (g.port p).replay
    ∧ (k.port p).replays = (g.port p).replays) l _ ⟨rfl, rfl, rfl⟩ fun k hk f _ => ?_
  obtain ⟨h1, h2, h3⟩ := hk
  rw [HostSide.sendOut_port]
  exact ⟨(k.sendOut_regs p f).trans h1, h2, h3⟩

theorem HostSide.replayStarted_regs (nak : Bool) : (h.replayStarted e p nak).regs = h.regs := by
  have hnote (g : HostSide) (t x : Nat) : (g.noteLaunch e t x).regs = g.regs := by
    unfold HostSide.noteLaunch
    split <;> rfl
  exact List.foldlRecOn (motive := fun k : HostSide => k.regs = h.regs) (h.port p).replay _ rfl fun k hk f _ => (hnote k _ _).trans hk

/-- A replay is counted, every flit of the buffer stays in it, and the port stays UP (R73). -/
theorem HostSide.replayNow_port (hp : p < 8) (nak : Bool) (hr : (h.port p).replayed ≠ some (e.tick, !nak))
    (hl : (h.port p).replays < max 1 (h.get (Reg.IFL_CTRL.REPLAY_LIMIT p))) :
    ((h.replayNow e p nak).port p).replays = (h.port p).replays + 1
      ∧ ((h.replayNow e p nak).port p).replay.length = (h.port p).replay.length ∧ (h.replayNow e p nak).portState p = h.portState p := by
  obtain ⟨hregs, hreplay, hreplays⟩ := HostSide.foldl_sendOut p (h.replayFlits e p) (h.replayStarted e p nak)
  have hstart : (h.replayStarted e p nak).port p = { h.port p with
      replays := (h.port p).replays + 1, replayed := some (e.tick, nak), replay := h.replayFlits e p } := HostSide.port_setPort_self _ p _
  rw [hstart] at hreplay hreplays
  have hstate : ((h.replayFlits e p).foldl (fun h f => h.sendOut p f) (h.replayStarted e p nak)).portState p = h.portState p := by
    unfold HostSide.portState HostSide.get
    rw [hregs, h.replayStarted_regs]
  rw [HostSide.replayNow_again h e p nak hr hl]
  generalize (h.replayFlits e p).foldl (fun h f => h.sendOut p f) (h.replayStarted e p nak) = g at *
  have hport : (((((g.countG 0x10 p (h.replayFlits e p).length).inc (Reg.IFL_REPLAY p) 1).countG 0x12 p 1).log e 0x0103 p 0 0 0).port p)
      = g.port p := by
    rw [HostSide.log_port, HostSide.countG_port, HostSide.port_congr (HostSide.inc_ports _ _ _), HostSide.countG_port]
  refine ⟨?_, ?_, ?_⟩
  · rw [hport, hreplays]
  · rw [hport, hreplay, HostSide.replayFlits, List.length_map]
  · rw [← hstate]
    have haddr : (Reg.IFL_STATE.STATE p).addr < 0x600000 := by simp only [Reg.IFL_STATE.STATE]; omega
    exact (HostSide.log_get _ _ _ _ _ _ _ (Nat.lt_add_right _ (by decide))).trans ((HostSide.countG_get _ _ _ _ haddr).trans
      ((HostSide.get_inc_leaves _ _ _ _ (RF.leaves_at 0x2000 (fun _ => rfl) (fun _ => rfl) (by decide) p)).trans
        (HostSide.countG_get _ _ _ _ haddr)))

end

/-! ### The commands -/

section
variable {s : State} {p : Nat}

theorem execIflAckTimeout_up (hu : s.up) (hp : p < s.variant.ports) (hst : s.host.portState p = 3) (hr : (s.host.port p).replay ≠ []) :
    exec (.iflAckTimeout p) s = .next { s with host := (s.host.replayNow s.env p false).settle } := by
  show execIflAckTimeout p s = _
  unfold execIflAckTimeout
  rw [State.onHost_up s _ hu, if_neg (by simp [State.env, Nat.not_le.mpr hp, hst, hr])]

/-- A timeout in the cycle of a replay that a NAK caused does nothing (R73). -/
theorem execIflAckTimeout_same (hu : s.up) (hs : s.settled) (hr : (s.host.port p).replayed = some (s.tick.toNat, true)) :
    exec (.iflAckTimeout p) s = .next s := by
  show execIflAckTimeout p s = _
  unfold execIflAckTimeout
  rw [State.onHost_up s _ hu]
  have hsame : s.host.replayNow s.env p false = s.host := HostSide.replayNow_same s.host s.env p false hr
  rw [hsame, ite_self, HostSide.settle_of_settled _ hs]

theorem execIflCreditSend_up (hu : s.up) (hp : p < s.variant.ports) (hst : s.host.portState p = 3) (hc : (s.host.port p).changed = true) :
    exec (.iflCreditSend p) s = .next { s with host := (s.host.sendCredit p).settle } := by
  show execIflCreditSend p s = _
  unfold execIflCreditSend
  rw [State.onHost_up s _ hu, if_neg (by simp [State.env, Nat.not_le.mpr hp, hst, hc])]

/-- With no inversion waiting a flit goes out as it is (R41). -/
theorem HostSide.flitOut_of_zero (h : HostSide) {p : Nat} (h0 : h.flitOut p 0 = 0) (f : Nat) : h.flitOut p f = f := by
  unfold HostSide.flitOut at h0 ⊢
  rw [Nat.zero_xor] at h0
  rw [h0, Nat.xor_zero]

end

/-- Settles O13: received flits through what a slot leaves of the port, replays and credits through what goes out. -/
theorem ifepenFlits : Obligations.IfepenFlits := by
  unfold Obligations.IfepenFlits
  refine ⟨?bad, ?seqd, ?format, ?credit, ?timeout, fun s p => execIflAckTimeout_same, ?send⟩
  case bad =>
    intro s p f w0 w1 hu hp hst hp0 hp1 hf hbad
    obtain ⟨g, hex, hg⟩ := execIflFlitRx_up hu hp hst hp0 hp1 hf
    have hp8 := hp.trans_le s.variant.ports_le
    rw [HostSide.flitRx_bad g s.env p hbad] at hex
    refine ⟨_, hex, ?_, hg.discarded (HostSide.port_congr (HostSide.inc_ports _ _ _) p)⟩
    dsimp only
    rw [HostSide.settle_get_high _ _ (Nat.lt_add_right _ (by decide)), HostSide.discardFlit_get _ p (by simp only [Reg.IFL_CRC_ERR]; omega),
      HostSide.get_inc_self _ _ _ (Nat.le_of_ble_eq_true rfl), hg.get_high hp8 (Nat.le_add_right_of_le (by decide))]
    rfl
  case seqd =>
    intro s p f w0 w1 hu hp hst hp0 hp1 hf hgood hform hseqd
    obtain ⟨g, hex, hg⟩ := execIflFlitRx_up hu hp hst hp0 hp1 hf
    obtain ⟨k, hk, hrx⟩ := HostSide.flitRx_seqd g s.env p hgood hform hseqd
    have hgseq : (g.port p).rxSeq = (s.host.port p).rxSeq := by rw [hg.port]
    have hgack : (g.port p).ack = (s.host.port p).ack := by rw [hg.port]
    have hkseq : (k.port p).rxSeq = (s.host.port p).rxSeq := (congrArg (·.1) hk : (k.port p).rxSeq = _).trans hgseq
    have hkack : (k.port p).ack = (s.host.port p).ack := (congrArg (·.2.1) hk : (k.port p).ack = _).trans hgack
    rw [hrx, hgseq] at hex
    refine ⟨fun hs => ?_, fun hs => ?_⟩
    · rw [if_pos hs] at hex
      obtain ⟨h1, h2⟩ := k.deliver_seq s.env p f
      refine ⟨_, hex, ?_⟩
      rw [HostSide.port_settle, h1, h2, hkseq]
      exact ⟨rfl, rfl⟩
    · rw [if_neg hs] at hex
      obtain ⟨hnak, h1, h2, -⟩ := k.discardFlit_port p
      refine ⟨_, hex, ?_⟩
      rw [HostSide.port_settle, h1, h2, hkseq, hkack]
      exact ⟨rfl, rfl, hnak⟩
  case format =>
    intro s p f w0 w1 hu hp hst hp0 hp1 hf hgood hform
    obtain ⟨g, hex, hg⟩ := execIflFlitRx_up hu hp hst hp0 hp1 hf
    rw [HostSide.flitRx_format g s.env p hgood hform] at hex
    exact ⟨_, hex, hg.discarded rfl⟩
  case credit =>
    intro s p f w0 w1 hu hp hst hp0 hp1 hf hgood hform htype
    obtain ⟨g, hex, -⟩ := execIflFlitRx_up hu hp hst hp0 hp1 hf
    refine ⟨_, hex, ?_⟩
    rw [HostSide.port_settle]
    exact HostSide.flitRx_credit g s.env p hgood hform htype
  case timeout =>
    intro s p hu hp hst hr hnot
    have hp8 := hp.trans_le s.variant.ports_le
    have hex := execIflAckTimeout_up hu hp hst hr
    refine ⟨fun hl => ⟨_, hex, ?_⟩, fun hl => ⟨_, hex, ?_⟩⟩
    · obtain ⟨h1, h2, h3⟩ := HostSide.replayNow_port s.host s.env p hp8 false hnot (lt_max_of_lt_right hl)
      rw [HostSide.port_settle, HostSide.portState_settle]
      exact ⟨h1, h2, h3.trans hst⟩
    · obtain ⟨h1, -, h2, -⟩ := (s.host.setBits (Reg.IFL_INT_STATUS p) 4).portDown_fell s.env hp8
      rw [HostSide.port_settle, HostSide.portState_settle, HostSide.replayNow_limit s.host s.env p false hnot hl]
      exact ⟨h1, h2⟩
  case send =>
    intro s p hu hp hst hc h0
    refine ⟨_, execIflCreditSend_up hu hp hst hc, ?_⟩
    rw [HostSide.port_settle, HostSide.sendCredit_port]
    exact ⟨rfl, s.host.flitOut_of_zero h0 _⟩

end Sys2Proof.Machine

/-! SUPPORT. Messages of the barrier at the host side, and what the INSPECT engine and the record rings do with them
(R272, R285, R289, R294). -/

namespace Sys2Proof.Machine
open Sys2Proof

/-! ### Received messages (R272) -/

theorem dropMsg_append (m : Msg) (a b : List Msg) (ha : m ∉ a) : dropMsg m (a ++ m :: b) = a ++ b := by
  induction a with
  | nil => exact if_pos rfl
  | cons x a ih =>
    obtain ⟨hx, ha⟩ := not_or.mp (mt List.mem_cons.mpr ha)
    exact (if_neg (Ne.symm hx)).trans (congrArg (x :: ·) (ih ha))

theorem BarEnd.take_spec {p q : BarEnd} {ty : Nat} {m : Msg} (h : p.take ty = some (m, q)) :
    m.type = ty ∧ ∃ a b, p.rx = a ++ m :: b ∧ (∀ x ∈ a, x.type ≠ ty) ∧ q = { p with rx := a ++ b } := by
  obtain ⟨m', hm, hmq⟩ := Option.map_eq_some_iff.mp h
  obtain ⟨rfl, rfl⟩ := Prod.mk.inj hmq
  obtain ⟨hty, a, b, hrx, ha⟩ := List.find?_eq_some_iff_append.mp hm
  have hother : ∀ x ∈ a, x.type ≠ ty := fun x hx => by simpa using ha x hx
  have hty' : m'.type = ty := by simpa using hty
  refine ⟨hty', a, b, hrx, hother, ?_⟩
  rw [hrx, dropMsg_append m' a b fun hmem => hother m' hmem hty']

theorem HostSide.onMsg_take {h : HostSide} {ty : Nat} {m : Msg} {p : BarEnd} (hm : h.bar.port.take ty = some (m, p))
    (f : HostSide → Nat → HostSide) : h.onMsg ty f = f { h with bar := { h.bar with port := p } } m.payload := by
  unfold HostSide.onMsg
  rw [hm]

/-! ### Operations that touch the INSPECT engine alone -/

/-- Only the state of the INSPECT engine differs. -/
def HostSide.InspOnly (h g : HostSide) : Prop := { g with insp := h.insp } = h

namespace HostSide.InspOnly

variable {h g k : HostSide}

theorem refl (h : HostSide) : h.InspOnly h := rfl

theorem trans (h₁ : h.InspOnly g) (h₂ : g.InspOnly k) : h.InspOnly k :=
  (congrArg (fun x : HostSide => { x with insp := h.insp }) h₂ :).trans h₁

theorem modItem (h : HostSide) (seq : Nat) (f : Item → Item) : h.InspOnly (h.modItem seq f) := rfl

theorem openItem (h : HostSide) (it : Item) (hc : Nat) : h.InspOnly (h.openItem it hc) := rfl

theorem closeItem (h : HostSide) (e : Env) (it : Item) (count : Nat) : h.InspOnly (h.closeItem e it count) := by
  unfold HostSide.closeItem
  split <;> rfl

theorem lineSeen (h : HostSide) (e : Env) (x count : Nat) : h.InspOnly (h.lineSeen e x count) := rfl

theorem gapLine (h : HostSide) (x idx count tick hc : Nat) : h.InspOnly (h.gapLine x idx count tick hc) := by
  unfold HostSide.gapLine
  split
  · exact refl h
  · extract_lets src g next full
    have hnext (k : HostSide) : k.InspOnly (next k) := rfl
    have hg : h.InspOnly g := rfl
    split
    · exact refl h
    · split
      · exact (hg.trans (modItem g _ _)).trans (hnext _)
      · split
        · exact hg
        · exact (hg.trans (openItem g _ _)).trans (hnext _)

theorem inspectTick (h : HostSide) (e : Env) (j count : Nat) : h.InspOnly (h.inspectTick e j count) := by
  unfold HostSide.inspectTick
  extract_lets mine lineOpen g
  have hg : h.InspOnly g := foldl_keeps h.InspOnly _ _ h (refl h) fun k i hk =>
    hk.trans (by
      split
      · exact closeItem k e i count
      · exact modItem k _ _)
  clear_value g
  split
  · exact hg
  · split
    · exact hg
    · have hopened (it : Item) : h.InspOnly (({ g with insp := { g.insp with winGo := true } } : HostSide).openItem it 5) :=
        hg.trans (k := HostSide.openItem _ it 5) rfl
      dsimp only
      split
      · split
        · exact (hopened _).trans (closeItem _ _ _ _)
        · exact hopened _
      · exact hopened _

theorem inspectInput (h : HostSide) (e : Env) (state edge count : Nat) : h.InspOnly (h.inspectInput e state edge count) := by
  unfold HostSide.inspectInput
  extract_lets closes g
  have hg : h.InspOnly g := foldl_keeps h.InspOnly _ _ h (refl h) fun k i hk => hk.trans (closeItem k e i count)
  clear_value g
  split
  · exact hg
  · split
    · exact hg
    · split
      · exact hg.trans (openItem g _ 5)
      · exact hg

theorem regs (hg : h.InspOnly g) : g.regs = h.regs := (congrArg HostSide.regs hg :)
theorem get (hg : h.InspOnly g) (f : RF) : g.get f = h.get f := congrArg (fun rs : RegFile => rs.get f) hg.regs
theorem bar (hg : h.InspOnly g) : g.bar = h.bar := (congrArg HostSide.bar hg :)
theorem links (hg : h.InspOnly g) : g.links = h.links := (congrArg HostSide.links hg :)
theorem ctxs (hg : h.InspOnly g) : g.ctxs = h.ctxs := (congrArg HostSide.ctxs hg :)

end HostSide.InspOnly

/-! ### Records for the rings (R344, R345) -/

/-- Only the rings, and of the words those that show how many records the rings in `N` hold and have lost, differ. -/
structure HostSide.Recorded (N : Nat → Prop) (h g : HostSide) : Prop where
  rest : { g with regs := h.regs, rings := h.rings } = h
  words : ∀ a, (∀ n, N n → a ≠ (Reg.RR_HELD n).addr ∧ a ≠ (Reg.RR_LOST n).addr) → g.word a = h.word a

namespace HostSide.Recorded

variable {N : Nat → Prop} {h g k : HostSide}

theorem refl (h : HostSide) : Recorded N h h := ⟨rfl, fun _ _ => rfl⟩

theorem trans (h₁ : Recorded N h g) (h₂ : Recorded N g k) : Recorded N h k where
  rest := (congrArg (fun x : HostSide => { x with regs := h.regs, rings := h.rings }) h₂.rest).trans h₁.rest
  words a ha := (h₂.words a ha).trans (h₁.words a ha)

theorem setRing (h : HostSide) {n : Nat} (hn : N n) (r : Ring) : Recorded N h (h.setRing n r) where
  rest := rfl
  words a ha := HostSide.word_set_ne _ (Reg.RR_HELD n) _ a (ha n hn).1

theorem incLost (h : HostSide) {n : Nat} (hn : N n) : Recorded N h (h.inc (Reg.RR_LOST n) 1) where
  rest := rfl
  words a ha := HostSide.word_set_ne _ (Reg.RR_LOST n) _ a (ha n hn).2

theorem addLeaf (h : HostSide) {n : Nat} (hn : N n) (pos : Nat) (rcd : List Byte) : Recorded N h (h.addLeaf n pos rcd) := by
  unfold HostSide.addLeaf
  split
  · exact refl h
  · exact setRing h hn _

theorem produce (h : HostSide) {n : Nat} (hn : N n) (rcd : List Byte) : Recorded N h (h.produce n rcd) := by
  unfold HostSide.produce
  dsimp only
  split
  · exact ((setRing h hn _).trans (incLost _ hn)).trans (addLeaf _ hn _ _)
  · exact setRing h hn _

theorem report (h : HostSide) (e : Env) (o : OutEntry) (code result flags tag count : Nat) :
    Recorded (fun _ => True) h (h.report e o code result flags tag count) := produce h (n := o.ring) trivial _

theorem commitRecord (h : HostSide) (kind ctx : Nat) (content : List Byte) : Recorded (· < 16) h (h.commitRecord kind ctx content) :=
  forN_induct (fun _ g => Recorded (· < 16) h g) 16 _ h (refl h) fun n hn g hg => by
    split
    · exact hg.trans (produce (N := (· < 16)) g hn _)
    · exact hg

/-- The words of two rings are 0x20 apart (R354); a word that stands elsewhere among the 0x20 reads as before. -/
theorem get (hg : Recorded N h g) {f : RF} (hf : f.addr % 0x20 ≠ 0x14 ∧ f.addr % 0x20 ≠ 0x18) : g.get f = h.get f :=
  HostSide.get_of_word _ _ _ (hg.words _ fun n _ => by simp only [Reg.RR_HELD, Reg.RR_LOST]; omega)

theorem bar (hg : Recorded N h g) : g.bar = h.bar := (congrArg HostSide.bar hg.rest :)
theorem links (hg : Recorded N h g) : g.links = h.links := (congrArg HostSide.links hg.rest :)
theorem ctxs (hg : Recorded N h g) : g.ctxs = h.ctxs := (congrArg HostSide.ctxs hg.rest :)
theorem insp (hg : Recorded N h g) : g.insp = h.insp := (congrArg HostSide.insp hg.rest :)

end HostSide.Recorded

/-- Every entry sent is reported; none is left open, and the rest of the host side is as the records leave it (R294). -/
theorem HostSide.cancelOut_recorded (h : HostSide) (e : Env) :
    HostSide.Recorded (fun _ => True) { h with insp := { h.insp with out := [] } } (h.cancelOut e) :=
  foldl_keeps (HostSide.Recorded (fun _ => True) { h with insp := { h.insp with out := [] } }) _ _ _ (.refl _)
    fun k o hk => hk.trans (.report k e o 4 7 2 o.tag 0)

theorem HostSide.cancelOut_out (h : HostSide) (e : Env) : (h.cancelOut e).insp.out = [] :=
  congrArg Inspect.out (h.cancelOut_recorded e).insp

theorem HostSide.cancelOut_bar (h : HostSide) (e : Env) : (h.cancelOut e).bar = h.bar := (h.cancelOut_recorded e).bar

theorem HostSide.cancelOut_get (h : HostSide) (e : Env) {f : RF} (hf : f.addr % 0x20 ≠ 0x14 ∧ f.addr % 0x20 ≠ 0x18) : (h.cancelOut e).get f = h.get f :=
  (h.cancelOut_recorded e).get hf

end Sys2Proof.Machine

/-! SUPPORT. What the arrival of a line at a context, or of a tick at the contexts and links, changes (R55, R93, R95, R96). -/

namespace Sys2Proof.Machine
open Sys2Proof

theorem Variant.ctxs_le (v : Variant) : v.ctxs ≤ 128 := by cases v <;> decide

theorem HostSide.ctx_setCtx (h : HostSide) (x y : Nat) (c : Ctx) : (h.setCtx x c).ctx y = if y = x then c else h.ctx y :=
  SMap.get_put _ _ _ _ _

theorem HostSide.ctx_congr {g h : HostSide} (e : g.ctxs = h.ctxs) (x : Nat) : g.ctx x = h.ctx x := by
  unfold HostSide.ctx
  rw [e]

/-! ### A line arrives (R93, R95, R96) -/

/-- Is `a` one of the words that no line's arrival writes: those of the camera links, of the barrier and the control words of the
contexts among them? -/
def quietWord (a : Nat) : Prop := 0x50000 ≤ a ∧ a < 0x600000 ∧ (a < 0x90000 ∨ 0xB0000 ≤ a ∨ a % 0x400 = 0)

/-- The links, the barrier, the contexts other than `x` and the quiet words are as before. -/
structure HostSide.LineIn (x : Nat) (h g : HostSide) : Prop where
  bar : g.bar = h.bar
  links : g.links = h.links
  others : ∀ y, y ≠ x → g.ctx y = h.ctx y
  words : ∀ a, quietWord a → g.word a = h.word a

namespace HostSide.LineIn

variable {x : Nat} {h g k : HostSide}

theorem refl (x : Nat) (h : HostSide) : h.LineIn x h := ⟨rfl, rfl, fun _ _ => rfl, fun _ _ => rfl⟩

theorem trans (h₁ : h.LineIn x g) (h₂ : g.LineIn x k) : h.LineIn x k where
  bar := h₂.bar.trans h₁.bar
  links := h₂.links.trans h₁.links
  others y hy := (h₂.others y hy).trans (h₁.others y hy)
  words a ha := (h₂.words a ha).trans (h₁.words a ha)

theorem ite {p : Prop} [Decidable p] (hg : p → h.LineIn x g) (hk : ¬ p → h.LineIn x k) : h.LineIn x (if p then g else k) := by
  split
  · exact hg ‹_›
  · exact hk ‹_›

theorem get (hg : h.LineIn x g) {f : RF} (hf : quietWord f.addr) : g.get f = h.get f := HostSide.get_of_word _ _ _ (hg.words _ hf)

theorem set (h : HostSide) (f : RF) (v : Nat) (hf : ¬ quietWord f.addr) : h.LineIn x (h.set f v) where
  bar := rfl
  links := rfl
  others _ _ := rfl
  words a ha := HostSide.word_set_ne _ f _ a fun e => hf (e ▸ ha)

/-- A word of context `x` other than its control word. -/
theorem setOwn (hx : x < 128) (h : HostSide) (f : RF) (v : Nat) (d : Nat) (ha : f.addr = 0x90000 + x * 0x400 + d)
    (hd : 0 < d ∧ d < 0x400) : h.LineIn x (h.set f v) := set h f v (by unfold quietWord; omega)

theorem setCtx (h : HostSide) (c : Ctx) : h.LineIn x (h.setCtx x c) where
  bar := rfl
  links := rfl
  others y hy := (h.ctx_setCtx x y c).trans (if_neg hy)
  words _ _ := rfl

theorem modCtx (h : HostSide) (f : Ctx → Ctx) : h.LineIn x (h.modCtx x f) := setCtx h _

theorem modFrame (h : HostSide) (num : Nat) (f : PixFrame → PixFrame) : h.LineIn x (h.modFrame x num f) := modCtx h _

theorem of_insp (hg : h.InspOnly g) : h.LineIn x g where
  bar := hg.bar
  links := hg.links
  others y _ := HostSide.ctx_congr hg.ctxs y
  words a _ := congrArg (fun rs : RegFile => rs.word a) hg.regs

theorem countG (h : HostSide) (ev unit n : Nat) : h.LineIn x (h.countG ev unit n) := by
  have hcount := HostSide.CyclesPassed.countG h ev unit n
  exact ⟨(congrArg HostSide.bar hcount.rest :), (congrArg HostSide.links hcount.rest :),
    fun y _ => HostSide.ctx_congr (congrArg HostSide.ctxs hcount.rest :) y,
    fun a ha => hcount.words a (by unfold quietWord at ha; unfold inGauge; omega)⟩

theorem log (h : HostSide) (e : Env) (code unit detail addr seq : Nat) : h.LineIn x (h.log e code unit detail addr seq) := by
  refine ⟨?_, ?_, fun y _ => HostSide.ctx_congr ?_ y, fun a ha => HostSide.log_word h e code unit detail addr seq a ?_ ?_ ?_⟩
  · rw [HostSide.log_eq]
  · rw [HostSide.log_eq]
  · rw [HostSide.log_eq]
  all_goals
    simp only [quietWord, Reg.PM_LOG_COUNT, Reg.PM_LOG_LAST, Reg.PM_INT_STATUS] at *
    omega

theorem commitRecord (h : HostSide) (kind ctx : Nat) (content : List Byte) : h.LineIn x (h.commitRecord kind ctx content) := by
  have hrec := HostSide.Recorded.commitRecord h kind ctx content
  refine ⟨hrec.bar, hrec.links, fun y _ => HostSide.ctx_congr hrec.ctxs y, fun a ha => hrec.words a fun n hn => ?_⟩
  simp only [quietWord, Reg.RR_HELD, Reg.RR_LOST] at *
  omega

theorem applyCtx (hx : x < 128) (h : HostSide) : h.LineIn x (h.applyCtx x) := by
  have hcseq (k : HostSide) : k.LineIn x k.nextCseq := set k Reg.DET_CSEQ _ (by simp [quietWord, Reg.DET_CSEQ])
  exact (((modCtx h _).trans (setOwn hx _ (Reg.CTX_STATUS.COMMIT_PENDING x) 0 8 (by simp only [Reg.CTX_STATUS.COMMIT_PENDING]; omega) (by decide))).trans
    (hcseq _)).trans (commitRecord _ 2 x _)

theorem newFrame (hx : x < 128) (h : HostSide) (e : Env) (count : Nat) : h.LineIn x (h.newFrame e x count) := by
  unfold HostSide.newFrame
  extract_lets g c f
  have hg : h.LineIn x g := ite (fun _ => applyCtx hx h) fun _ => refl x h
  refine ((((hg.trans (setCtx g _)).trans
    (setOwn hx _ (Reg.CTX_FRAME_LO x) _ 0x10 ?_ (by decide))).trans (setOwn hx _ (Reg.CTX_FRAME_HI x) _ 0x14 ?_ (by decide))).trans
    (setOwn hx _ (Reg.CTX_GEN_NOW x) _ 0x18 ?_ (by decide)))
  all_goals
    simp only [Reg.CTX_FRAME_LO, Reg.CTX_FRAME_HI, Reg.CTX_GEN_NOW]
    omega

theorem dropStripe (hx : x < 128) (h : HostSide) (e : Env) (l : PixLine) : h.LineIn x (h.dropStripe e x l) := by
  unfold HostSide.dropStripe
  extract_lets c keep g first digs src k m r
  have hk : h.LineIn x k := (setCtx h _).trans (of_insp rfl)
  have hm : k.LineIn x m := (setOwn hx k (Reg.CTX_DROP x) _ 0x1C (by simp only [Reg.CTX_DROP]; omega) (by decide)).trans
    (setOwn hx _ (Reg.CTX_STATUS.STRIPE_DROP x) 1 8 (by simp only [Reg.CTX_STATUS.STRIPE_DROP]; omega) (by decide))
  exact (((hk.trans hm).trans (modFrame m _ _)).trans (countG r _ _ _)).trans (log _ _ _ _ _ _ _)

theorem ingest (hx : x < 128) (h : HostSide) (e : Env) (count : Nat) (missing : Bool) (data : List Byte) :
    h.LineIn x (h.ingest e x count missing data) := by
  unfold HostSide.ingest
  extract_lets framed c cfg endStripe endFrame l fill dig digs src digested counted full kept lined marked moved
  have hframed : h.LineIn x framed := ite (fun _ => newFrame hx h e count) fun _ => refl x h
  have hcounted : framed.LineIn x counted := (of_insp (h := framed) (g := digested) rfl).trans (setCtx digested _)
  have hkept : counted.LineIn x kept := ite (fun _ => modCtx counted _) fun _ =>
    ite (fun _ => dropStripe hx counted e l) fun _ => modCtx counted _
  have hmarked : lined.LineIn x marked := ite (fun _ =>
    ((setOwn hx lined (Reg.CTX_MISS x) _ 0x20 (by simp only [Reg.CTX_MISS]; omega) (by decide)).trans
      (setOwn hx _ (Reg.CTX_STATUS.LINE_MISS x) 1 8 (by simp only [Reg.CTX_STATUS.LINE_MISS]; omega) (by decide))).trans
      (log _ _ _ _ _ _ _)) fun _ => refl x lined
  have hmoved : h.LineIn x moved := ((((hframed.trans hcounted).trans hkept).trans (modFrame kept _ _)).trans hmarked).trans (modCtx marked _)
  exact (hmoved.trans (of_insp (.lineSeen moved e x count))).trans (of_insp (.gapLine _ x l.idx count e.tick 5))

theorem retireTick (hx : x < 128) (h : HostSide) (e : Env) : h.LineIn x (h.retireTick e x) := by
  unfold HostSide.retireTick
  split
  · exact refl x h
  · exact (modCtx h _).trans (ingest hx _ e _ true [])

end HostSide.LineIn

end Sys2Proof.Machine

/-! SUPPORT. A line tick goes to the camera links, the contexts and the INSPECT engine (R55, R93, R279). -/

namespace Sys2Proof.Machine
open Sys2Proof

theorem HostSide.trig_setTrig_self (h : HostSide) (j : Nat) (x : TrigCopy) : (h.setTrig j x).trig j = x :=
  (SMap.get_put _ _ _ _ _).trans (if_pos rfl)

theorem HostSide.trig_congr {g h : HostSide} (e : g.bar = h.bar) (j : Nat) : g.trig j = h.trig j := by
  unfold HostSide.trig
  rw [e]

/-! ### To the camera links (R55) -/

/-- Does a tick of source `j` go to link `n`? -/
def HostSide.triggersLink (h : HostSide) (j n : Nat) : Bool :=
  h.linkState n = 5 && h.on (Reg.CXP_TRIG.EN n) && h.get (Reg.CXP_TRIG.SRC n) = j && h.on (Reg.CXP_STATE.HS_UPLINK n)

theorem HostSide.triggersLink_iff (h : HostSide) (j n : Nat) : h.triggersLink j n = true ↔ h.linkState n = 5
    ∧ h.on (Reg.CXP_TRIG.EN n) = true ∧ h.get (Reg.CXP_TRIG.SRC n) = j ∧ h.on (Reg.CXP_STATE.HS_UPLINK n) = true := by
  simp [HostSide.triggersLink, and_assoc]

theorem HostSide.triggersLink_congr {g h : HostSide} {n : Nat} (hn : n < 16)
    (hw : ∀ a, quietWord a → a < 0x90000 → g.word a = h.word a) (j : Nat) :
    g.triggersLink j n = h.triggersLink j n := by
  have hget (f : RF) (ha : f.addr = 0x50008 + n * 0x400 ∨ f.addr = 0x5000C + n * 0x400) : g.get f = h.get f :=
    HostSide.get_of_word _ _ _ (hw _ (by unfold quietWord; omega) (by omega))
  unfold HostSide.triggersLink HostSide.linkState HostSide.on
  rw [hget _ (.inl rfl), hget _ (.inr rfl), hget (Reg.CXP_TRIG.SRC n) (.inr rfl), hget (Reg.CXP_STATE.HS_UPLINK n) (.inl rfl)]

/-- Only the links differ, and each of those below `m` that a tick of source `j` goes to has one more tick to pass on. -/
structure HostSide.Uplinked (j m : Nat) (h g : HostSide) : Prop where
  rest : { g with links := h.links } = h
  below : ∀ n < m, (g.link n).trigs = (h.link n).trigs + if h.triggersLink j n = true then 1 else 0
  above : ∀ n, m ≤ n → g.link n = h.link n

namespace HostSide.Uplinked

variable {j m : Nat} {h g : HostSide}

theorem regs (hg : h.Uplinked j m g) : g.regs = h.regs := (congrArg HostSide.regs hg.rest :)
theorem bar (hg : h.Uplinked j m g) : g.bar = h.bar := (congrArg HostSide.bar hg.rest :)
theorem ctxs (hg : h.Uplinked j m g) : g.ctxs = h.ctxs := (congrArg HostSide.ctxs hg.rest :)
theorem insp (hg : h.Uplinked j m g) : g.insp = h.insp := (congrArg HostSide.insp hg.rest :)

end HostSide.Uplinked

theorem HostSide.uplinkTriggers_uplinked (h : HostSide) (e : Env) (j : Nat) : h.Uplinked j e.variant.links (h.uplinkTriggers e j) := by
  refine forN_induct (h.Uplinked j) e.variant.links _ h ⟨rfl, fun n hn => absurd hn (Nat.not_lt_zero n), fun _ _ => rfl⟩ ?_
  intro i _ g hg
  have hregs := hg.regs
  have hsame : (g.linkState i = 5 && g.on (Reg.CXP_TRIG.EN i) && g.get (Reg.CXP_TRIG.SRC i) = j && g.on (Reg.CXP_STATE.HS_UPLINK i) : Bool)
      = h.triggersLink j i := by
    unfold HostSide.triggersLink HostSide.linkState HostSide.on HostSide.get
    rw [hregs]
  rw [hsame]
  by_cases ht : h.triggersLink j i = true
  · rw [if_pos ht]
    refine ⟨hg.rest, fun n hn => ?_, fun n hn => ?_⟩
    · rw [HostSide.link_setLink]
      split
      · next e =>
        rw [e, if_pos ht, hg.above i (Nat.le_refl i)]
      · exact hg.below n (by omega)
    · rw [HostSide.link_setLink, if_neg (by omega), hg.above n (by omega)]
  · rw [if_neg ht]
    refine ⟨hg.rest, fun n hn => ?_, fun n hn => hg.above n (by omega)⟩
    rcases Nat.lt_succ_iff_lt_or_eq.mp hn with hlt | rfl
    · exact hg.below n hlt
    · rw [if_neg ht, hg.above n (Nat.le_refl n)]
      rfl

/-! ### To the contexts (R93) -/

/-- Does context `x` pair with source `j`? -/
def HostSide.pairsTick (h : HostSide) (j x : Nat) : Bool :=
  h.ctxOn x && h.on (Reg.CTX_CTRL.TICK_PAIR x) && h.get (Reg.CTX_CTRL.TRIG_SRC x) = j

theorem HostSide.pairsTick_iff (h : HostSide) (j x : Nat) : h.pairsTick j x = true
    ↔ h.ctxOn x = true ∧ h.on (Reg.CTX_CTRL.TICK_PAIR x) = true ∧ h.get (Reg.CTX_CTRL.TRIG_SRC x) = j := by
  simp [HostSide.pairsTick, and_assoc]

theorem HostSide.pairsTick_congr {g h : HostSide} {x : Nat} (hx : x < 128) (hw : ∀ a, quietWord a → g.word a = h.word a) (j : Nat) :
    g.pairsTick j x = h.pairsTick j x := by
  have hget (f : RF) (ha : f.addr = 0x90000 + x * 0x400) : g.get f = h.get f :=
    HostSide.get_of_word _ _ _ (hw _ (by unfold quietWord; omega))
  unfold HostSide.pairsTick HostSide.ctxOn HostSide.on
  rw [hget _ rfl, hget _ rfl, hget (Reg.CTX_CTRL.TRIG_SRC x) rfl]

/-- A tick reaches a context that pairs with its source (R93). -/
def HostSide.tickTo (h : HostSide) (e : Env) (count : Nat) (lost : Bool) (x : Nat) : HostSide :=
  if lost then h.ingest e x count true []
  else (if 64 ≤ (h.ctx x).ticks.length then h.retireTick e x else h).modCtx x fun c => { c with ticks := c.ticks ++ [count] }

theorem HostSide.pixTick_eq (h : HostSide) (e : Env) (j count : Nat) (lost : Bool) :
    h.pixTick e j count lost = forN e.variant.ctxs (fun x g => if g.pairsTick j x = true then g.tickTo e count lost x else g) h := by
  unfold HostSide.pixTick
  congr 1
  funext x g
  by_cases hp : g.pairsTick j x = true
  · obtain ⟨hon, hpair, hsrc⟩ := (g.pairsTick_iff j x).mp hp
    rw [if_pos hp, if_neg (by simp [hon, hpair, hsrc])]
    rfl
  · rw [if_neg hp, if_pos]
    unfold HostSide.pairsTick at hp
    cases h₁ : g.ctxOn x <;> cases h₂ : g.on (Reg.CTX_CTRL.TICK_PAIR x) <;> simp_all

theorem HostSide.tickTo_lineIn {x : Nat} (hx : x < 128) (h : HostSide) (e : Env) (count : Nat) (lost : Bool) :
    h.LineIn x (h.tickTo e count lost x) := by
  unfold HostSide.tickTo
  split
  · exact .ingest hx h e count true []
  · exact (HostSide.LineIn.ite (fun _ => .retireTick hx h e) fun _ => .refl x h).trans (.modCtx _ _)

theorem HostSide.tickTo_ticks (h : HostSide) (e : Env) (count x : Nat) (hroom : (h.ctx x).ticks.length < 64) :
    ((h.tickTo e count false x).ctx x).ticks = (h.ctx x).ticks ++ [count] := by
  unfold HostSide.tickTo
  rw [if_neg Bool.false_ne_true, if_neg (Nat.not_le.mpr hroom)]
  exact congrArg Ctx.ticks ((h.ctx_setCtx x x _).trans (if_pos rfl))

/-- The links, the barrier and the quiet words are as before, and a tick of source `j` with its count has joined those of the contexts below
`m` that pair with it and have room. -/
structure HostSide.Ticked (j count : Nat) (lost : Bool) (m : Nat) (h g : HostSide) : Prop where
  bar : g.bar = h.bar
  links : g.links = h.links
  words : ∀ a, quietWord a → g.word a = h.word a
  below : lost = false → ∀ x < m, (h.ctx x).ticks.length < 64 →
    (g.ctx x).ticks = (h.ctx x).ticks ++ if h.pairsTick j x = true then [count] else []
  above : ∀ x, m ≤ x → g.ctx x = h.ctx x

theorem HostSide.pixTick_ticked (h : HostSide) (e : Env) (j count : Nat) (lost : Bool) :
    h.Ticked j count lost e.variant.ctxs (h.pixTick e j count lost) := by
  rw [HostSide.pixTick_eq]
  refine forN_induct (h.Ticked j count lost) e.variant.ctxs _ h
    ⟨rfl, rfl, fun _ _ => rfl, fun _ x hx => absurd hx (Nat.not_lt_zero x), fun _ _ => rfl⟩ ?_
  intro i hi g hg
  have hi128 := hi.trans_le e.variant.ctxs_le
  rw [HostSide.pairsTick_congr hi128 hg.words j]
  by_cases hp : h.pairsTick j i = true
  · rw [if_pos hp]
    have hline := HostSide.tickTo_lineIn hi128 g e count lost
    refine ⟨hline.bar.trans hg.bar, hline.links.trans hg.links, fun a ha => (hline.words a ha).trans (hg.words a ha), ?_,
      fun x hx => (hline.others x (by omega)).trans (hg.above x (by omega))⟩
    rintro rfl x hx hroom
    rcases Nat.lt_succ_iff_lt_or_eq.mp hx with hlt | rfl
    · rw [hline.others x (Nat.ne_of_lt hlt)]
      exact hg.below rfl x hlt hroom
    · have hsame := hg.above x (Nat.le_refl x)
      rw [HostSide.tickTo_ticks g e count x (hsame ▸ hroom), if_pos hp, hsame]
  · rw [if_neg hp]
    refine ⟨hg.bar, hg.links, hg.words, fun hl x hx hroom => ?_, fun x hx => hg.above x (by omega)⟩
    rcases Nat.lt_succ_iff_lt_or_eq.mp hx with hlt | rfl
    · exact hg.below hl x hlt hroom
    · rw [if_neg hp, hg.above x (Nat.le_refl x), List.append_nil]

/-! ### The tick of a source with a base (R279) -/

/-- The next tick of source `j` goes to the links, the contexts and the INSPECT engine (R279). -/
def HostSide.passTick (h : HostSide) (e : Env) (j : Nat) : HostSide :=
  (((h.setTrig j (h.trig j).advance).uplinkTriggers e j).pixTick e j (h.trig j).next false).inspectTick e j (h.trig j).next

section
variable (h : HostSide) (e : Env) (j : Nat)

theorem HostSide.passTick_trig : (h.passTick e j).trig j = (h.trig j).advance := by
  have hlinks := (h.setTrig j (h.trig j).advance).uplinkTriggers_uplinked e j
  unfold HostSide.passTick
  rw [HostSide.trig_congr (HostSide.InspOnly.inspectTick _ e j (h.trig j).next).bar, HostSide.trig_congr (HostSide.pixTick_ticked _ e j _ false).bar,
    HostSide.trig_congr hlinks.bar, HostSide.trig_setTrig_self]

theorem HostSide.passTick_words {a : Nat} (ha : quietWord a) : (h.passTick e j).word a = h.word a := by
  have hlinks := (h.setTrig j (h.trig j).advance).uplinkTriggers_uplinked e j
  have hregs (g k : HostSide) (hr : g.regs = k.regs) : g.word a = k.word a := congrArg (fun rs : RegFile => rs.word a) hr
  exact (hregs _ _ (HostSide.InspOnly.inspectTick _ e j (h.trig j).next).regs).trans
    (((HostSide.pixTick_ticked _ e j _ false).words a ha).trans (hregs _ _ hlinks.regs))

theorem HostSide.passTick_link {n : Nat} (hn : n < e.variant.links) :
    ((h.passTick e j).link n).trigs = (h.link n).trigs + if h.triggersLink j n = true then 1 else 0 := by
  have hlinks := (h.setTrig j (h.trig j).advance).uplinkTriggers_uplinked e j
  unfold HostSide.passTick
  rw [HostSide.link_congr (HostSide.InspOnly.inspectTick _ e j (h.trig j).next).links, HostSide.link_congr (HostSide.pixTick_ticked _ e j _ false).links]
  exact hlinks.below n hn

theorem HostSide.passTick_ctx {x : Nat} (hx : x < e.variant.ctxs) (hroom : (h.ctx x).ticks.length < 64) :
    ((h.passTick e j).ctx x).ticks = (h.ctx x).ticks ++ if h.pairsTick j x = true then [(h.trig j).next] else [] := by
  have hlinks := (h.setTrig j (h.trig j).advance).uplinkTriggers_uplinked e j
  have hctx := HostSide.ctx_congr hlinks.ctxs x
  have hregs : ((h.setTrig j (h.trig j).advance).uplinkTriggers e j).regs = h.regs := hlinks.regs
  have hpair := HostSide.pairsTick_congr (hx.trans_le e.variant.ctxs_le)
    (fun a _ => congrArg (fun rs : RegFile => rs.word a) hregs) j
  have hticked := (HostSide.pixTick_ticked ((h.setTrig j (h.trig j).advance).uplinkTriggers e j) e j (h.trig j).next false).below rfl x hx
  rw [hctx, hpair] at hticked
  unfold HostSide.passTick
  rw [HostSide.ctx_congr (HostSide.InspOnly.inspectTick _ e j (h.trig j).next).ctxs]
  exact hticked hroom

theorem HostSide.lostTick_trig : (h.lostTick e j).trig j = (h.trig j).advance := by
  unfold HostSide.lostTick
  dsimp only
  rw [HostSide.trig_congr (HostSide.InspOnly.inspectTick _ e j (h.trig j).next).bar, HostSide.trig_congr (HostSide.pixTick_ticked _ e j _ true).bar]
  exact HostSide.trig_setTrig_self h j _

theorem HostSide.lostTick_links : (h.lostTick e j).links = h.links :=
  (HostSide.InspOnly.inspectTick _ e j (h.trig j).next).links.trans (HostSide.pixTick_ticked _ e j _ true).links

/-- A quiet word once the lost tick is counted and passed on. -/
theorem HostSide.lostTick_words {a : Nat} (ha : quietWord a) :
    (h.lostTick e j).word a = (h.inc Reg.BAR_TICK_LOST 1).word a :=
  (congrArg (fun rs : RegFile => rs.word a) (HostSide.InspOnly.inspectTick _ e j (h.trig j).next).regs).trans
    ((HostSide.pixTick_ticked _ e j _ true).words a ha)

end

end Sys2Proof.Machine

/-! What the host side does with the messages of the field side (R275, R276, R279, R285, R289, R293, R294). -/

namespace Sys2Proof.Machine
open Sys2Proof

/-! ### Line ticks (R55, R93, R279) -/

/-- The host side once the oldest tick of source `j` is taken from those that wait. -/
def HostSide.tickTaken (h : HostSide) (j : Nat) (rest : List Nat) : HostSide := h.setTrig j { h.trig j with ticks := rest }

section
variable {s : State} {j i : Nat} {rest : List Nat}

theorem HostSide.tickTaken_trig (h : HostSide) (j : Nat) (rest : List Nat) : (h.tickTaken j rest).trig j = { h.trig j with ticks := rest } :=
  HostSide.trig_setTrig_self h j _

theorem execLineTick_unbased (hu : s.up) (ht : (s.host.trig j).ticks = i :: rest) (hb : (s.host.trig j).based = false) :
    exec (.lineTick j) s = .next { s with host := ((s.host.tickTaken j rest).uplinkTriggers s.env j).settle } := by
  show execLineTick j s = _
  unfold execLineTick
  rw [State.onHost_up s _ hu, ht]
  dsimp only
  rw [if_pos (by rw [HostSide.trig_setTrig_self, hb]; rfl)]
  rfl

theorem execLineTick_next (hu : s.up) (ht : (s.host.trig j).ticks = i :: rest) (hb : (s.host.trig j).based = true)
    (hi : (s.host.trig j).idx = i) :
    exec (.lineTick j) s = .next { s with host := ((s.host.tickTaken j rest).passTick s.env j).settle } := by
  show execLineTick j s = _
  unfold execLineTick
  rw [State.onHost_up s _ hu, ht]
  dsimp only
  rw [if_neg (by rw [HostSide.trig_setTrig_self, hb]; exact Bool.false_ne_true), if_pos (by rw [HostSide.trig_setTrig_self]; exact hi)]
  rfl

theorem execLineTick_skipped (hu : s.up) (ht : (s.host.trig j).ticks = i :: rest) (hb : (s.host.trig j).based = true)
    (hi : (s.host.trig j).idx ≠ i) :
    exec (.lineTick j) s = .next { s with host := (((s.host.tickTaken j rest).lostTick s.env j).passTick s.env j).settle } := by
  show execLineTick j s = _
  unfold execLineTick
  rw [State.onHost_up s _ hu, ht]
  dsimp only
  rw [if_neg (by rw [HostSide.trig_setTrig_self, hb]; exact Bool.false_ne_true), if_neg (by rw [HostSide.trig_setTrig_self]; exact hi)]
  rfl

end

theorem HostSide.trig_settle (h : HostSide) (j : Nat) : h.settle.trig j = h.trig j := HostSide.trig_congr h.settle_bar j

theorem HostSide.ctx_settle (h : HostSide) (x : Nat) : h.settle.ctx x = h.ctx x := HostSide.ctx_congr h.settle_ctxs x

section
variable (h : HostSide) (e : Env) (j : Nat) (rest : List Nat)

/-- A lost tick and the next one move the source's copy twice. -/
theorem HostSide.skipped_trig : (((h.tickTaken j rest).lostTick e j).passTick e j).trig j = ({ h.trig j with ticks := rest } : TrigCopy).advance.advance := by
  rw [HostSide.passTick_trig, HostSide.lostTick_trig, HostSide.tickTaken_trig]

theorem TrigCopy.advance_twice (x : TrigCopy) : x.advance.advance.next = (x.next + 2 * x.n) % 2 ^ 32 := by
  show ((x.next + x.n) % 2 ^ 32 + x.n) % 2 ^ 32 = _
  rw [Nat.mod_add_mod, Nat.add_assoc, Nat.two_mul]

theorem HostSide.skipped_counted : (((h.tickTaken j rest).lostTick e j).passTick e j).counted h Reg.BAR_TICK_LOST := by
  have hquiet : quietWord Reg.BAR_TICK_LOST.addr := by unfold quietWord; decide
  refine ((HostSide.get_of_word _ _ _ (HostSide.passTick_words _ e j hquiet)).trans
    (HostSide.get_of_word _ _ _ (HostSide.lostTick_words _ e j hquiet))).trans ?_
  exact HostSide.get_inc_self _ _ 1 (Nat.le_of_ble_eq_true rfl)

theorem HostSide.skipped_link {n : Nat} (hn : n < e.variant.links) :
    ((((h.tickTaken j rest).lostTick e j).passTick e j).link n).trigs
      = (h.link n).trigs + if h.triggersLink j n = true then 1 else 0 := by
  have hwords (a : Nat) (hq : quietWord a) (ha : a < 0x90000) : ((h.tickTaken j rest).lostTick e j).word a = h.word a :=
    (HostSide.lostTick_words _ e j hq).trans (HostSide.word_set_ne _ Reg.BAR_TICK_LOST _ a (by simp only [Reg.BAR_TICK_LOST]; omega))
  rw [HostSide.passTick_link _ e j hn, HostSide.link_congr (HostSide.lostTick_links _ e j),
    HostSide.triggersLink_congr (hn.trans_le e.variant.links_le) hwords j]
  rfl

end

/-! ### Ejection reports (R285, R294) -/

section
variable {s : State} {m : Msg} {p : BarEnd}

/-- The host side with a message of the field side taken. -/
def HostSide.msgTaken (h : HostSide) (p : BarEnd) : HostSide := { h with bar := { h.bar with port := p } }

theorem State.onHost_msg (hu : s.up) {ty : Nat} (hm : s.host.bar.port.take ty = some (m, p)) (f : Env → HostSide → Nat → HostSide) :
    (s.onHost fun e h => h.onMsg ty (f e)) = .next { s with host := (f s.env (s.host.msgTaken p) m.payload).settle } := by
  rw [State.onHost_up s _ hu, HostSide.onMsg_take hm]
  rfl

theorem execEjectReport_found (hu : s.up) (hm : s.host.bar.port.take 0x13 = some (m, p))
    (ho : ∃ o ∈ s.host.insp.out, o.group = m.payload % 8 ∧ o.tag = m.payload / 8 % 1024) :
    ∃ t, exec .ejectReport s = .next t ∧ t.host.bar.port = p
      ∧ t.host.insp.out = s.host.insp.out.filter fun x => !(x.group == m.payload % 8 && x.tag == m.payload / 8 % 1024) := by
  have hcount : ((s.host.msgTaken p).countG 0x42 0 1).bar = (s.host.msgTaken p).bar :=
    (congrArg HostSide.bar (HostSide.CyclesPassed.countG (s.host.msgTaken p) 0x42 0 1).rest :)
  obtain ⟨o, hfind⟩ : ∃ o, ((s.host.msgTaken p).countG 0x42 0 1).insp.out.find?
      (fun o => o.group == m.payload % 8 && o.tag == m.payload / 8 % 1024) = some o := by
    rw [HostSide.countG_insp, ← Option.isSome_iff_exists, List.find?_isSome]
    obtain ⟨o, ho, hg, ht⟩ := ho
    exact ⟨o, ho, by simp [hg, ht]⟩
  refine ⟨_, show execEjectReport s = _ from State.onHost_msg hu hm _, ?_⟩
  dsimp only
  rw [hfind, HostSide.settle_bar, HostSide.settle_insp]
  dsimp only
  split
  · rw [(HostSide.Recorded.report _ _ _ _ _ _ _ _).bar, (HostSide.Recorded.report _ _ _ _ _ _ _ _).insp]
    exact ⟨congrArg Barrier.port hcount, by rw [HostSide.countG_insp]; rfl⟩
  · rw [HostSide.log_insp, HostSide.log_eq, (HostSide.Recorded.report _ _ _ _ _ _ _ _).insp]
    refine ⟨?_, by rw [HostSide.countG_insp]; rfl⟩
    exact (congrArg Barrier.port (HostSide.Recorded.report _ _ _ _ _ _ _ _).bar).trans (congrArg Barrier.port hcount)

theorem execEjectReport_duplicate (hu : s.up) (hm : s.host.bar.port.take 0x13 = some (m, p))
    (ho : ∀ o ∈ s.host.insp.out, ¬ (o.group = m.payload % 8 ∧ o.tag = m.payload / 8 % 1024)) :
    ∃ t, exec .ejectReport s = .next t ∧ t.host.bar.port = p ∧ t.host.insp.out = s.host.insp.out
      ∧ t.host.counted s.host Reg.BAR_DUP_RPT := by
  have hcount := HostSide.CyclesPassed.countG (s.host.msgTaken p) 0x42 0 1
  have hfind : ((s.host.msgTaken p).countG 0x42 0 1).insp.out.find?
      (fun o => o.group == m.payload % 8 && o.tag == m.payload / 8 % 1024) = none := by
    rw [HostSide.countG_insp, List.find?_eq_none]
    exact fun o hmem => by simpa using ho o hmem
  refine ⟨{ s with host := (((s.host.msgTaken p).countG 0x42 0 1).inc Reg.BAR_DUP_RPT 1).settle }, ?_, ?_, ?_, ?_⟩
  · refine (show execEjectReport s = _ from State.onHost_msg hu hm _).trans ?_
    dsimp only
    rw [hfind]
  · dsimp only
    rw [HostSide.settle_bar]
    exact (congrArg (fun g : HostSide => g.bar.port) hcount.rest :)
  · dsimp only
    rw [HostSide.settle_insp]
    exact congrArg Inspect.out (HostSide.countG_insp _ 0x42 0 1)
  · refine (HostSide.settle_get_high _ _ (by decide)).trans ((HostSide.get_inc_self _ _ 1 (Nat.le_of_ble_eq_true rfl)).trans ?_)
    rw [HostSide.countG_get _ _ _ _ (by decide)]
    rfl


/-! ### Snapshots, inputs, heartbeats, faults (R275, R279, R289, R293, R294) -/

theorem execEncSnapshot_first (hu : s.up) (hm : s.host.bar.port.take 0x11 = some (m, p)) (hkind : m.payload / 4 % 4 = 1)
    (hb : (s.host.trig (m.payload / 16 % 8)).based = false) :
    exec .encSnapshot s = .next { s with host := ((s.host.msgTaken p).setTrig (m.payload / 16 % 8)
      ((s.host.trig (m.payload / 16 % 8)).rebase (m.payload / 2 ^ 8 % 2 ^ 32))).settle } := by
  refine (show execEncSnapshot s = _ from State.onHost_msg hu hm _).trans ?_
  dsimp only
  rw [if_neg (by rw [hkind]; decide), if_pos]
  · rfl
  · exact Bool.or_eq_true_iff.mpr (.inl (congrArg (! ·) hb))

/-- The host side with what a HEARTBEAT says of the field side shown (R275). -/
def HostSide.heartbeatShown (h : HostSide) (payload : Nat) : HostSide :=
  (((((h.set Reg.BAR_STATUS.SAFE (payload / 2 ^ 16 % 2)).set Reg.BAR_STATUS.FIELD_FAULT (payload / 2 ^ 17)).set Reg.BAR_STATUS.LP_OK
    (payload / 2 ^ 18)).set Reg.BAR_STATUS.ALIVE (payload / 2 ^ 19)).set Reg.BAR_STATUS.WEIR_USED (payload / 2 ^ 20)).set Reg.BAR_DI_NOW
    (payload / 2 ^ 33)

theorem HostSide.heartbeatShown_safe (h : HostSide) (payload : Nat) :
    (h.heartbeatShown payload).get Reg.BAR_STATUS.SAFE = payload / 2 ^ 16 % 2 := by
  have hleaves {f : RF} (hfits : f.fits) (h0 : 2 ≤ f.lo) : f.leaves Reg.BAR_STATUS.SAFE := ⟨hfits, .inr (.inr h0)⟩
  unfold HostSide.heartbeatShown
  rw [HostSide.get_set_leaves _ _ _ _ (RF.leaves_of_addr (Nat.le_of_ble_eq_true rfl) (by decide)),
    HostSide.get_set_leaves _ _ _ _ (hleaves (Nat.le_of_ble_eq_true rfl) (by decide)),
    HostSide.get_set_leaves _ _ _ _ (hleaves (Nat.le_of_ble_eq_true rfl) (by decide)),
    HostSide.get_set_leaves _ _ _ _ (hleaves (Nat.le_of_ble_eq_true rfl) (by decide)),
    HostSide.get_set_leaves _ _ _ _ (hleaves (Nat.le_of_ble_eq_true rfl) (by decide))]
  exact HostSide.get_set_val _ _ _ (Nat.le_of_ble_eq_true rfl) (Nat.mod_lt _ Nat.two_pos)

theorem HostSide.heartbeatShown_inputs (h : HostSide) (payload : Nat) :
    (h.heartbeatShown payload).get Reg.BAR_DI_NOW = payload / 2 ^ 33 % 2 ^ 16 :=
  HostSide.get_set_self _ _ _ (Nat.le_of_ble_eq_true rfl)

theorem execFieldHeartbeat_shown (hu : s.up) (hm : s.host.bar.port.take 0x01 = some (m, p)) :
    ∃ t, exec .fieldHeartbeat s = .next t ∧ t.host.get Reg.BAR_STATUS.SAFE = m.payload / 2 ^ 16 % 2
      ∧ t.host.get Reg.BAR_DI_NOW = m.payload / 2 ^ 33 % 2 ^ 16 ∧ t.host.bar.port.hbSeen = some (m.payload % 65536)
      ∧ (m.payload / 2 ^ 16 % 2 = 1 → t.host.insp.out = []) := by
  refine ⟨_, show execFieldHeartbeat s = _ from State.onHost_msg hu hm _, ?_⟩
  extract_lets b seq again src seen restarted safe was named shown logged
  have hseen : restarted.bar.port.hbSeen = some seq := by
    unfold restarted
    split <;> rfl
  have hshown : shown = restarted.heartbeatShown m.payload := rfl
  have hlogged {f : RF} (hf : 0x200E0 < f.addr) : logged.get f = shown.get f := by
    unfold logged
    split
    · exact HostSide.log_get _ _ _ _ _ _ _ hf
    · rfl
  have hbar : logged.bar = restarted.bar := by
    unfold logged
    split
    · rw [HostSide.log_eq]
      rfl
    · rfl
  have hsafe := (hlogged (f := Reg.BAR_STATUS.SAFE) (by decide)).trans (hshown ▸ HostSide.heartbeatShown_safe _ _)
  have hdi := (hlogged (f := Reg.BAR_DI_NOW) (by decide)).trans (hshown ▸ HostSide.heartbeatShown_inputs _ _)
  clear_value logged
  dsimp only
  rw [HostSide.settle_get_high _ _ (by decide), HostSide.settle_get_high _ _ (by decide), HostSide.settle_bar, HostSide.settle_insp]
  split
  · rw [HostSide.cancelOut_get _ _ (by decide), HostSide.cancelOut_get _ _ (by decide), HostSide.cancelOut_bar, hbar]
    exact ⟨hsafe, hdi, hseen, fun _ => HostSide.cancelOut_out _ _⟩
  · next hne => exact ⟨hsafe, hdi, hbar ▸ hseen, fun he => absurd he hne⟩

theorem execDiChange_shown (hu : s.up) (hm : s.host.bar.port.take 0x12 = some (m, p)) :
    ∃ t, exec .diChange s = .next t ∧ t.host.get Reg.BAR_DI_NOW = m.payload % 65536 ∧ t.host.bar.port = p := by
  refine ⟨_, show execDiChange s = _ from State.onHost_msg hu hm _, ?_⟩
  have hinsp := HostSide.InspOnly.inspectInput ((s.host.msgTaken p).set Reg.BAR_DI_NOW m.payload) s.env (m.payload % 65536)
    (m.payload / 65536 % 65536) (m.payload / 2 ^ 32 % 2 ^ 32)
  refine ⟨(HostSide.settle_get_high _ _ (by decide)).trans ((hinsp.get _).trans (HostSide.get_set_self _ _ _ (Nat.le_of_ble_eq_true rfl))), ?_⟩
  dsimp only
  rw [HostSide.settle_bar, hinsp.bar]
  rfl

theorem execFieldLoss_shown (hu : s.up) :
    ∃ t, exec .fieldLoss s = .next t ∧ t.host.get Reg.BAR_STATUS.FIELD_LOST = 1 ∧ t.host.bar.lost = true ∧ t.host.insp.out = [] := by
  refine ⟨_, show execFieldLoss s = _ from State.onHost_up s _ hu, ?_, ?_, ?_⟩
  · dsimp only
    rw [HostSide.settle_get_high _ _ (by decide), HostSide.cancelOut_get _ _ (by decide), HostSide.log_get _ _ _ _ _ _ _ (by decide)]
    exact HostSide.get_set_val _ _ 1 (Nat.le_of_ble_eq_true rfl) (by decide)
  · dsimp only
    rw [HostSide.settle_bar, HostSide.cancelOut_bar, HostSide.log_eq]
    rfl
  · dsimp only
    rw [HostSide.settle_insp, HostSide.cancelOut_out]

/-! ### Configuration accesses (R276) -/

theorem execCfgReadResponse_ends (hu : s.up) (hm : s.host.bar.port.take 0x23 = some (m, p)) :
    ∃ t, exec .cfgReadResponse s = .next t ∧ t.host.bar
      = { s.host.bar with port := p, reqs := s.host.bar.reqs.filter fun x => x.rtag != m.payload / 2 ^ 16 % 256 } := by
  refine ⟨_, show execCfgReadResponse s = _ from State.onHost_msg hu hm _, ?_⟩
  dsimp only
  rw [HostSide.settle_bar]
  split
  · next hnone =>
    have hall : (s.host.bar.reqs.filter fun x => x.rtag != m.payload / 2 ^ 16 % 256) = s.host.bar.reqs :=
      List.filter_eq_self.mpr fun x hx => by simpa using List.find?_eq_none.mp hnone x hx
    rw [hall]
    rfl
  · split
    · rfl
    · split <;> rfl

theorem execCfgResponseTimeout_again (hu : s.up) (hr : s.host.bar.reqs ≠ []) :
    ∃ t, exec .cfgResponseTimeout s = .next t ∧ (t.host.bar.reqs.length = s.host.bar.reqs.length
      ∨ t.host.bar.reqs = s.host.bar.reqs.tail ∧ t.host.get Reg.BAR_STATUS.CFG_FAIL = 1) := by
  refine ⟨_, show execCfgResponseTimeout s = _ from State.onHost_up s _ hu, ?_⟩
  obtain ⟨r, rest, hreqs⟩ := List.exists_cons_of_ne_nil hr
  dsimp only
  rw [hreqs, HostSide.settle_bar, HostSide.settle_get_high _ _ (by decide)]
  dsimp only
  split
  · exact .inl rfl
  · refine .inr ?_
    have hfail := HostSide.get_set_val ({ s.host with bar := { s.host.bar with reqs := rest } } : HostSide) Reg.BAR_STATUS.CFG_FAIL 1
      (Nat.le_of_ble_eq_true rfl) (by decide)
    split
    · exact ⟨rfl, hfail⟩
    · exact ⟨rfl, hfail⟩

end

/-- Settles O32: a line tick by what passing it on changes, the other messages by what their command writes. -/
theorem hostEndMessages : Obligations.HostEndMessages := by
  unfold Obligations.HostEndMessages
  refine ⟨fun p q ty m => BarEnd.take_spec, ?tick, ?snapshot, fun s m p => execFieldHeartbeat_shown, fun s m p => execDiChange_shown,
    fun s m p hu hm => ⟨execEjectReport_found hu hm, execEjectReport_duplicate hu hm⟩, ?fault, fun s => execFieldLoss_shown,
    fun s m p => execCfgReadResponse_ends, fun s => execCfgResponseTimeout_again, ?release⟩
  case tick =>
    intro s j i rest hu ht
    have hquiet : quietWord Reg.BAR_TICK_LOST.addr := by unfold quietWord; decide
    have hlink (n : Nat) := if_congr (s.host.triggersLink_iff j n) (rfl : (1 : Nat) = 1) (rfl : (0 : Nat) = 0)
    cases hb : (s.host.trig j).based with
    | false =>
      have hup := (s.host.tickTaken j rest).uplinkTriggers_uplinked s.env j
      refine ⟨_, execLineTick_unbased hu ht hb, ?_, fun n hn => ?_, fun _ => ⟨?_, ?_, ?_⟩, nofun, nofun⟩
      · rw [HostSide.trig_settle, HostSide.trig_congr hup.bar, HostSide.tickTaken_trig]
      · rw [HostSide.link_settle]
        exact (hup.below n hn).trans (congrArg _ (hlink n))
      · rw [HostSide.trig_settle, HostSide.trig_congr hup.bar, HostSide.tickTaken_trig]
      · exact (HostSide.settle_ctxs _).trans hup.ctxs
      · exact (HostSide.settle_insp _).trans hup.insp
    | true =>
      by_cases hi : (s.host.trig j).idx = i
      · have htrig : ((s.host.tickTaken j rest).passTick s.env j).trig j = ({ s.host.trig j with ticks := rest } : TrigCopy).advance := by
          rw [HostSide.passTick_trig, HostSide.tickTaken_trig]
        refine ⟨_, execLineTick_next hu ht hb hi, ?_, fun n hn => ?_, nofun, fun _ _ => ⟨?_, ?_, fun x hx hroom => ?_⟩,
          fun _ hne => absurd hi hne⟩
        · rw [HostSide.trig_settle, htrig]
          rfl
        · rw [HostSide.link_settle]
          exact (HostSide.passTick_link (s.host.tickTaken j rest) s.env j hn).trans (congrArg _ (hlink n))
        · rw [HostSide.trig_settle, htrig]
          rfl
        · exact (HostSide.settle_get_high _ _ (by decide)).trans (HostSide.get_of_word _ _ _ (HostSide.passTick_words _ s.env j hquiet))
        · rw [HostSide.ctx_settle]
          refine (HostSide.passTick_ctx (s.host.tickTaken j rest) s.env j hx hroom).trans ?_
          rw [HostSide.tickTaken_trig]
          exact congrArg _ (if_congr (s.host.pairsTick_iff j x) rfl rfl)
      · refine ⟨_, execLineTick_skipped hu ht hb hi, ?_, fun n hn => ?_, nofun, fun _ he => absurd he hi, fun _ _ => ⟨?_, ?_⟩⟩
        · rw [HostSide.trig_settle, HostSide.skipped_trig]
          rfl
        · rw [HostSide.link_settle, HostSide.skipped_link _ s.env j rest hn]
          exact congrArg _ (hlink n)
        · rw [HostSide.trig_settle, HostSide.skipped_trig]
          exact TrigCopy.advance_twice _
        · exact (HostSide.settle_get_high _ _ (by decide)).trans (s.host.skipped_counted s.env j rest)
  case snapshot =>
    intro s m p hu hm hkind hb
    refine ⟨_, execEncSnapshot_first hu hm hkind hb, ?_, ?_, State.changes_of s _ _ [] rfl (.refl _ [])⟩
    · rw [HostSide.trig_settle, HostSide.trig_setTrig_self]
      rfl
    · rw [HostSide.trig_settle, HostSide.trig_setTrig_self]
      rfl
  case fault =>
    intro s m p hu hm
    exact ⟨_, show execFault s = _ from State.onHost_msg hu hm fun _ h _ => h, HostSide.settle_bar _,
      State.changes_of s _ _ [] rfl (.refl _ [])⟩
  case release =>
    intro s ho
    exact ⟨_, show execBarRelease s = _ from State.onBar_open s _ ho, HostSide.settle_bar _, State.changes_of s _ _ [] rfl (.refl _ [])⟩

end Sys2Proof.Machine

/-! SUPPORT. The fields of a stream context, and its queue of settings requests (R98, R99). -/

namespace Sys2Proof.Machine
open Sys2Proof

theorem HostSide.ctx_setCtx_self (h : HostSide) (x : Nat) (c : Ctx) : (h.setCtx x c).ctx x = c :=
  (h.ctx_setCtx x x c).trans (if_pos rfl)

theorem HostSide.ctx_modCtx_self (h : HostSide) (x : Nat) (f : Ctx → Ctx) : (h.modCtx x f).ctx x = f (h.ctx x) :=
  h.ctx_setCtx_self x _

@[simp] theorem HostSide.ctx_set (h : HostSide) (f : RF) (v x : Nat) : (h.set f v).ctx x = h.ctx x := rfl

@[simp] theorem HostSide.ctx_showSets (h : HostSide) (x y : Nat) : (h.showSets x).ctx y = h.ctx y := rfl

/-- Fields of the registers of a context, which repeat every 0x400 bytes (R111): a write of one leaves another. -/
theorem RF.leaves_ctx (f g : Nat → RF) (x : Nat) (hf : ∀ i, f i = ⟨(f 0).addr + i * 0x400, (f 0).lo, (f 0).w⟩ := by intro; rfl)
    (hg : ∀ i, g i = ⟨(g 0).addr + i * 0x400, (g 0).lo, (g 0).w⟩ := by intro; rfl)
    (h : (f 0).lo + (f 0).w ≤ 32
      ∧ ((f 0).addr ≠ (g 0).addr ∨ (f 0).lo + (f 0).w ≤ (g 0).lo ∨ (g 0).lo + (g 0).w ≤ (f 0).lo) := by decide) :
    (f x).leaves (g x) := RF.leaves_at 0x400 hf hg h x

/-- Settling leaves the fields of the contexts. -/
theorem HostSide.settle_get_ctx (h : HostSide) (f : Nat → RF) (x : Nat)
    (hf : ∀ i, f i = ⟨(f 0).addr + i * 0x400, (f 0).lo, (f 0).w⟩ := by intro; rfl) (ha : 0x14040 < (f 0).addr := by decide) :
    h.settle.get (f x) = h.get (f x) :=
  HostSide.settle_get_high _ _ (by rw [hf x]; exact Nat.lt_add_right _ ha)

/-- A field of one bit reads as the bit written. -/
theorem HostSide.get_set_bit (h : HostSide) (a lo v : Nat) (hlo : lo < 32 := by decide) (hv : v < 2 := by decide) :
    (h.set ⟨a, lo, 1⟩ v).get ⟨a, lo, 1⟩ = v := HostSide.get_set_val h _ v hlo hv

/-! ### Requests waiting (R98) -/

/-- The fields of SET_CMD (R111). -/
theorem regRows_setCmd : ∀ x < 128, regRows (Reg.SET_CMD.GO x).addr =
    [⟨0x90220, [(128, 0x400)], 0, 1, .wo, 0x0, false⟩, ⟨0x90220, [(128, 0x400)], 1, 2, .rw, 0x0, false⟩,
      ⟨0x90220, [(128, 0x400)], 4, 4, .rw, 0x2, false⟩] := by decide +kernel

/-- SET_CMD is written (R98). -/
def HostSide.setCmd (h : HostSide) (x : Nat) (v : Word) : HostSide := h.accWrite (Reg.SET_CMD.GO x).addr v false

theorem HostSide.setCmd_wordsBut (h : HostSide) (x : Nat) (v : Word) (ws : List Nat) (hws : (Reg.SET_CMD.GO x).addr ∈ ws) :
    (h.setCmd x v).wordsBut h ws := (HostSide.wordsBut.refl h ws).accWrite _ v false hws

theorem HostSide.setCmd_lead (h : HostSide) {x : Nat} (hx : x < 128) (v : Word) :
    (h.setCmd x v).get (Reg.SET_CMD.LEAD x) = (Reg.SET_CMD.LEAD x).ofWord v := by
  refine RegFile.get_accWrite_rw (r := ⟨0x90220, [(128, 0x400)], 4, 4, .rw, 0x2, false⟩) ?_ ?_ h.regs v rfl
  · simp [regRows_setCmd x hx]
  · simp [regRows_setCmd x hx, RegRow.apart]

/-- The request that SET_CMD, SET_ADDR and SET_VAL describe, with the next generation (R98). -/
def HostSide.nextReq (h : HostSide) (x : Nat) : SetReq :=
  { gen := h.get (Reg.SET_GEN_LAST x) + 1, target := (h.ctx x).frames - 1 + max 1 (h.get (Reg.SET_CMD.LEAD x)),
    writes := (List.range (h.get (Reg.SET_CMD.NWR_M1 x) + 1)).map fun i => (h.get (Reg.SET_ADDR x i), h.get (Reg.SET_VAL x i)) }

theorem HostSide.nextReq_gen (h : HostSide) (x : Nat) (v : Word) :
    ((h.setCmd x v).nextReq x).gen = h.get (Reg.SET_GEN_LAST x) + 1 :=
  congrArg (· + 1) (HostSide.get_accWrite_ne _ _ _ _ _ (by simp only [Reg.SET_GEN_LAST, Reg.SET_CMD.GO]; omega))

theorem HostSide.nextReq_target (h : HostSide) {x : Nat} (hx : x < 128) (v : Word) :
    ((h.setCmd x v).nextReq x).target = (h.ctx x).frames - 1 + max 1 ((Reg.SET_CMD.LEAD x).ofWord v) :=
  congrArg (fun lead => (h.ctx x).frames - 1 + max 1 lead) (h.setCmd_lead hx v)

/-- A request joins the queue and the registers show it (R98). -/
def HostSide.queueReq (h : HostSide) (x : Nat) (r : SetReq) : HostSide :=
  ((h.setCtx x { h.ctx x with sets := (h.ctx x).sets ++ [r] }).set (Reg.SET_GEN_LAST x) r.gen).showSets x

theorem HostSide.queueReq_ctx (h : HostSide) (x : Nat) (r : SetReq) :
    (h.queueReq x r).ctx x = { h.ctx x with sets := (h.ctx x).sets ++ [r] } := h.ctx_setCtx_self x _

theorem HostSide.queueReq_queued (h : HostSide) (x : Nat) (r : SetReq) (hroom : (h.ctx x).sets.length < 4) :
    (h.queueReq x r).get (Reg.SET_STATUS.QUEUED x) = (h.ctx x).sets.length + 1 := by
  unfold HostSide.queueReq HostSide.showSets
  rw [HostSide.ctx_set, HostSide.ctx_setCtx_self, List.length_append, List.length_singleton]
  exact HostSide.get_set_val _ _ _ (Nat.le_of_ble_eq_true rfl) (by simp only [Reg.SET_STATUS.QUEUED]; omega)

/-- Requests that were issued, or whose frame is still to come, wait on. -/
theorem HostSide.issueSets_of_waiting (h : HostSide) (x : Nat)
    (hw : ∀ r ∈ (h.ctx x).sets, r.issued = true ∨ (h.ctx x).lastBegun < r.target) : h.issueSets x = h := by
  unfold HostSide.issueSets
  refine List.foldlRecOn (motive := fun g => g = h) _ _ rfl ?_
  rintro _ rfl r hr
  exact if_pos (by simpa using hw r hr)

section
variable {s : State} {x : Nat} {v : Word}

theorem execSetGo_queues (ho : s.open_) (hx : x < s.variant.ctxs) (hv : v.getLsbD 0 = true) (hroom : (s.host.ctx x).sets.length < 4) :
    exec (.setGo x v) s = .next { s with host :=
      (((s.host.setCmd x v).queueReq x ((s.host.setCmd x v).nextReq x)).issueSets x).settle } := by
  show execSetGo x v s = _
  unfold execSetGo
  rw [State.onBar_open s _ ho]
  refine congrArg (fun g : HostSide => Host.Outcome.next { s with host := g.settle })
    ((if_neg ?_).trans (if_neg (Nat.not_le.mpr hroom)))
  simp [State.env, Nat.not_le.mpr hx, hv]

theorem execSetGo_full (ho : s.open_) (hx : x < s.variant.ctxs) (hv : v.getLsbD 0 = true) (hfull : 4 ≤ (s.host.ctx x).sets.length) :
    exec (.setGo x v) s = .next { s with host :=
      ((s.host.setCmd x v).set (Reg.CTX_STATUS.SET_FULL x) 1).settle } := by
  show execSetGo x v s = _
  unfold execSetGo
  rw [State.onBar_open s _ ho]
  refine congrArg (fun g : HostSide => Host.Outcome.next { s with host := g.settle }) ((if_neg ?_).trans (if_pos hfull))
  simp [State.env, Nat.not_le.mpr hx, hv]

/-! ### The camera's answer (R99) -/

/-- What the last acknowledge of request `r` makes of its context. -/
def Ctx.acked (c : Ctx) (r : SetReq) (tick : Nat) : Ctx :=
  { c with sets := c.sets.filter (fun q => q.gen != r.gen), gen := max c.gen r.gen, tAck := if c.gen < r.gen then tick else c.tAck,
           fails := c.fails.filter fun t => decide (r.gen ≤ t.1) }

/-- A frame in progress at a line-scan stream has its tail changed (R99). -/
def HostSide.markTail (h : HostSide) (x : Nat) : HostSide :=
  if h.on (Reg.CTX_CTRL.TICK_PAIR x) && (h.ctx x).inFrame != 0 then h.modFrame x ((h.ctx x).frames - 1) fun f => { f with tail := true } else h

theorem HostSide.markTail_ctx (h : HostSide) (x : Nat) : ∃ fs, (h.markTail x).ctx x = { h.ctx x with open_ := fs } := by
  unfold HostSide.markTail
  split
  · exact ⟨_, h.ctx_modCtx_self x _⟩
  · exact ⟨_, rfl⟩

/-- The write at the head of link `n` is done. -/
def HostSide.wroteSet (h : HostSide) (n : Nat) : HostSide := h.setLink n { h.link n with setWr := (h.link n).setWr.drop 1 }

variable {n : Nat} {r : SetReq} (hu : s.up)
  (hn : findN 16 (fun n => (s.host.link n).setWr.head? == some x && !s.host.on (Reg.CXP_CC_STATUS.BUSY n)) = some n)
  (hr : (s.host.ctx x).sets.find? (fun r => r.issued) = some r)
include hu hn hr

theorem execSettingsAck_last (hlast : r.writes.length ≤ r.done + 1) :
    exec (.settingsAck x true) s = .next { s with host :=
      ((((s.host.wroteSet n).modCtx x fun c => c.acked r s.tick.toNat).showSets x).markTail x).settle } := by
  show execSettingsAck x true s = _
  unfold execSettingsAck
  rw [State.onHost_up s _ hu]
  simp only [hn, hr, Bool.not_true, Bool.false_eq_true, if_false, if_neg (Nat.not_lt.mpr hlast)]
  rfl

theorem execSettingsAck_fails :
    exec (.settingsAck x false) s = .next { s with host := ((s.host.wroteSet n).setFails x r.gen).settle } := by
  show execSettingsAck x false s = _
  unfold execSettingsAck
  rw [State.onHost_up s _ hu]
  simp only [hn, hr, Bool.not_false, if_true]
  rfl

end

/-- The target frame under which a failed request is remembered is that of the first waiting request of its generation (R99). -/
def Ctx.failTarget (c : Ctx) (gen : Nat) : Nat := ((c.sets.find? fun r => r.gen == gen).map (·.target)).getD 0

theorem HostSide.setFails_ctx (h : HostSide) (x gen : Nat) : (h.setFails x gen).ctx x =
    { h.ctx x with sets := (h.ctx x).sets.filter (fun r => r.gen != gen), fails := (h.ctx x).fails ++ [(gen, (h.ctx x).failTarget gen)] } :=
  h.ctx_setCtx_self x _

theorem HostSide.setFails_shown (h : HostSide) (x gen : Nat) : (h.setFails x gen).get (Reg.CTX_STATUS.SET_FAIL x) = 1 :=
  (HostSide.get_set_leaves _ _ _ _ (RF.leaves_ctx Reg.SET_STATUS.QUEUED Reg.CTX_STATUS.SET_FAIL x)).trans
    (HostSide.get_set_bit _ _ _ 1)

/-- Where the waiting requests of one generation have one target, that is the target remembered. -/
theorem Ctx.failTarget_eq {c : Ctx} {r : SetReq} (hr : r ∈ c.sets) (hsame : ∀ q ∈ c.sets, q.gen = r.gen → q.target = r.target) :
    c.failTarget r.gen = r.target := by
  unfold Ctx.failTarget
  cases hq : c.sets.find? fun q => q.gen == r.gen with
  | none => exact absurd (List.find?_eq_none.mp hq r hr) (by simp)
  | some q => exact hsame q (List.mem_of_find?_eq_some hq) (by simpa using List.find?_some hq)

/-- Settles O17: a request queued, one that finds the queue full, one acknowledged and one that failed, each through what its command
leaves of the context and of the registers. -/
theorem cameraSettingsQueue : Obligations.CameraSettingsQueue := by
  unfold Obligations.CameraSettingsQueue
  refine ⟨fun s x v ho hx hv => ⟨fun hroom hwait hahead => ?queued, fun hfull => ?full⟩,
    fun s x n r hu hn hr => ⟨fun hlast => ?acked, ?failed⟩⟩
  case queued =>
    have hx128 := hx.trans_le s.variant.ctxs_le
    have htarget := s.host.nextReq_target hx128 v
    have hctx := (s.host.setCmd x v).queueReq_ctx x ((s.host.setCmd x v).nextReq x)
    have hstay : ((s.host.setCmd x v).queueReq x ((s.host.setCmd x v).nextReq x)).issueSets x
        = (s.host.setCmd x v).queueReq x ((s.host.setCmd x v).nextReq x) := by
      refine HostSide.issueSets_of_waiting _ x fun q hq => ?_
      rw [hctx] at hq ⊢
      rcases List.mem_append.mp hq with hq | hq
      · exact hwait q hq
      · rw [List.mem_singleton.mp hq, htarget]
        exact .inr hahead
    refine ⟨_, (s.host.setCmd x v).nextReq x, execSetGo_queues ho hx hv hroom, ?_⟩
    rw [hstay]
    refine ⟨?_, s.host.nextReq_gen x v, htarget, rfl, ?_, State.changes_of s _ _ _ rfl ?_⟩
    · rw [HostSide.ctx_settle, hctx]
      rfl
    · rw [HostSide.settle_get_ctx _ Reg.SET_STATUS.QUEUED x]
      exact HostSide.queueReq_queued _ x _ hroom
    · exact ((s.host.setCmd_wordsBut x v _ (by simp)).set (Reg.SET_GEN_LAST x) _ (by simp)).set (Reg.SET_STATUS.QUEUED x) _ (by simp)
  case full =>
    refine ⟨_, execSetGo_full ho hx hv hfull, ?_, State.regsOnly_of s _ _ rfl
      ((s.host.setCmd_wordsBut x v _ (by simp)).set _ 1 (by simp))⟩
    rw [HostSide.settle_get_ctx _ Reg.CTX_STATUS.SET_FULL x]
    exact HostSide.get_set_bit _ _ _ 1
  case acked =>
    refine ⟨_, execSettingsAck_last hu hn hr hlast, ?_⟩
    rw [HostSide.ctx_settle]
    obtain ⟨fs, hfs⟩ := HostSide.markTail_ctx (((s.host.wroteSet n).modCtx x fun c => c.acked r s.tick.toNat).showSets x) x
    have hctx : (((s.host.wroteSet n).modCtx x fun c => c.acked r s.tick.toNat).showSets x).ctx x = (s.host.ctx x).acked r s.tick.toNat := by
      rw [HostSide.ctx_showSets, HostSide.ctx_modCtx_self]
      rfl
    rw [hfs, hctx]
    exact ⟨rfl, rfl, rfl⟩
  case failed =>
    refine ⟨_, execSettingsAck_fails hu hn hr, ?_⟩
    rw [HostSide.ctx_settle, HostSide.settle_get_ctx _ Reg.CTX_STATUS.SET_FAIL x, HostSide.setFails_ctx]
    exact ⟨HostSide.setFails_shown _ x _, rfl, _, rfl, Ctx.failTarget_eq (List.mem_of_find?_eq_some hr)⟩

end Sys2Proof.Machine

/-! SUPPORT. The shadow and active copies of a stream context, and the commands that commit, abort, enable and disable it (R96, R97,
R109, R225, R235). -/

namespace Sys2Proof

/-! ### Keys that a filter keeps out -/

theorem SMap.filter_erase {α : Type} (m : SMap α) (k : Nat) (p : Nat → Bool) (hk : p k = false) :
    (m.erase k).filter (fun e => p e.1) = m.filter (fun e => p e.1) := by
  induction m with
  | nil => rfl
  | cons e m ih =>
    obtain ⟨j, v⟩ := e
    by_cases hj : k = j
    · subst hj
      simp [SMap.erase, ih, hk]
    · simp [SMap.erase, hj, List.filter_cons, ih]

theorem SMap.filter_put {α : Type} (m : SMap α) (k : Nat) (v : α) (p : Nat → Bool) (hk : p k = false) :
    (m.put k v).filter (fun e => p e.1) = m.filter (fun e => p e.1) := by
  induction m with
  | nil => simp [SMap.put, hk]
  | cons e m ih =>
    obtain ⟨j, w⟩ := e
    unfold SMap.put
    split
    · simp [hk]
    · split
      · subst_vars
        simp [hk]
      · simp [List.filter_cons, ih]

/-- A write of a word that the filter keeps out. -/
theorem RegFile.filter_setWord (rs : RegFile) (a : Nat) (v : Word) (p : Nat → Bool) (ha : p a = false) :
    (rs.setWord a v).filter (fun e => p e.1) = rs.filter (fun e => p e.1) := by
  unfold RegFile.setWord SMap.set
  split
  · exact SMap.filter_erase rs a p ha
  · exact SMap.filter_put rs a v p ha

end Sys2Proof

namespace Sys2Proof.Machine
open Sys2Proof

/-! ### The shadow (R96) -/

/-- Is `a` outside the shadow registers of context `x`, offsets 0x040 to 0x1FF? -/
def offShadow (x a : Nat) : Prop := a < 0x90040 + x * 0x400 ∨ 0x90200 + x * 0x400 ≤ a

theorem HostSide.ctxShadow_setWord (h : HostSide) (x a : Nat) (v : Word) (ha : offShadow x a) :
    { h with regs := h.regs.setWord a v }.ctxShadow x = h.ctxShadow x :=
  RegFile.filter_setWord h.regs a v (fun b => decide (0x90040 + x * 0x400 ≤ b) && decide (b < 0x90200 + x * 0x400))
    (by unfold offShadow at ha; simp; omega)

theorem HostSide.ctxShadow_set (h : HostSide) (x : Nat) (f : RF) (v : Nat) (hf : offShadow x f.addr) :
    (h.set f v).ctxShadow x = h.ctxShadow x := h.ctxShadow_setWord x f.addr _ hf

theorem HostSide.ctxShadow_accWrite (h : HostSide) (x a : Nat) (v : Word) (own : Bool) (ha : offShadow x a) :
    (h.accWrite a v own).ctxShadow x = h.ctxShadow x := h.ctxShadow_setWord x a _ ha

theorem HostSide.word_ctxShadow (h : HostSide) {x a : Nat} (hlo : 0x90040 + x * 0x400 ≤ a) (hhi : a < 0x90200 + x * 0x400) :
    RegFile.word (h.ctxShadow x) a = h.word a := by
  refine (SMap.get_filter resetWord h.regs (fun b => decide (0x90040 + x * 0x400 ≤ b) && decide (b < 0x90200 + x * 0x400)) a).trans ?_
  rw [if_pos (by simp [hlo, hhi])]
  rfl

/-! ### The shadow becomes the active copy (R96, R225) -/

theorem HostSide.applyCtx_ctx (h : HostSide) (x : Nat) : (h.applyCtx x).ctx x = { h.ctx x with active := h.ctxShadow x } := by
  unfold HostSide.applyCtx
  rw [HostSide.ctx_congr (HostSide.Recorded.commitRecord _ 2 x _).ctxs x, HostSide.ctx_congr (HostSide.nextCseq_ctxs _) x,
    HostSide.ctx_set, HostSide.ctx_modCtx_self]

/-- A commit record leaves the words that neither COMMIT_PENDING, DET_CSEQ nor a ring's counts share. -/
theorem HostSide.applyCtx_get (h : HostSide) {x : Nat} {f : RF} (hf : (Reg.CTX_STATUS.COMMIT_PENDING x).leaves f) (hc : f.addr ≠ 0x82C)
    (hr : f.addr % 0x20 ≠ 0x14 ∧ f.addr % 0x20 ≠ 0x18) : (h.applyCtx x).get f = h.get f := by
  unfold HostSide.applyCtx
  rw [(HostSide.Recorded.commitRecord _ 2 x _).get hr, HostSide.get_of_word _ _ f (HostSide.nextCseq_word _ f.addr hc),
    HostSide.get_set_leaves _ _ _ _ hf]
  rfl

theorem HostSide.applyCtx_pending (h : HostSide) (x : Nat) : (h.applyCtx x).get (Reg.CTX_STATUS.COMMIT_PENDING x) = 0 := by
  unfold HostSide.applyCtx
  rw [(HostSide.Recorded.commitRecord _ 2 x _).get (by simp only [Reg.CTX_STATUS.COMMIT_PENDING]; omega),
    HostSide.get_of_word _ _ (Reg.CTX_STATUS.COMMIT_PENDING x) (HostSide.nextCseq_word _ _ (by simp only [Reg.CTX_STATUS.COMMIT_PENDING]; omega))]
  exact HostSide.get_set_bit _ _ _ 0

theorem HostSide.applyCtx_cseq (h : HostSide) (x : Nat) :
    (h.applyCtx x).get Reg.DET_CSEQ = (h.get Reg.DET_CSEQ + 1) % 2 ^ 32 := by
  unfold HostSide.applyCtx
  rw [(HostSide.Recorded.commitRecord _ 2 x _).get (by decide), HostSide.nextCseq_cseq,
    HostSide.get_set_leaves _ _ _ _ (RF.leaves_of_addr (Nat.le_of_ble_eq_true rfl)
      (by simp only [Reg.CTX_STATUS.COMMIT_PENDING, Reg.DET_CSEQ]; omega))]
  rfl

/-! ### CTX_CTRL (R111) -/

/-- The fields of CTX_CTRL (R111). -/
theorem regRows_ctxCtrl : ∀ x < 128, regRows (Reg.CTX_CTRL.EN x).addr =
    [⟨0x90000, [(128, 0x400)], 0, 1, .rw, 0x0, true⟩, ⟨0x90000, [(128, 0x400)], 1, 2, .rw, 0x0, false⟩,
      ⟨0x90000, [(128, 0x400)], 3, 1, .rw, 0x1, false⟩, ⟨0x90000, [(128, 0x400)], 4, 3, .rw, 0x0, false⟩] := by decide +kernel

/-- CTX_CTRL is written, EN kept (R111). -/
def HostSide.ctxCtrl (h : HostSide) (x : Nat) (v : Word) : HostSide := h.accWrite (Reg.CTX_CTRL.EN x).addr v true

theorem HostSide.ctxCtrl_pipe (h : HostSide) {x : Nat} (hx : x < 128) (v : Word) :
    (h.ctxCtrl x v).get (Reg.CTX_CTRL.PIPE x) = (Reg.CTX_CTRL.PIPE x).ofWord v := by
  refine RegFile.get_accWrite_rw_own (r := ⟨0x90000, [(128, 0x400)], 1, 2, .rw, 0x0, false⟩) ?_ ?_ h.regs v rfl rfl
  · simp [regRows_ctxCtrl x hx]
  · simp [regRows_ctxCtrl x hx, RegRow.apart]

theorem RegFile.accWrite_keepOwn (rs : RegFile) (a : Nat) (v : Word) :
    rs.accWrite a v true = rs.setWord a ((regRows a).foldl (fun w r => if r.own then w else r.written v w) (rs.word a)) := by
  simp only [RegFile.accWrite, Bool.true_and]
  congr 2
  funext w r
  unfold RegRow.written
  cases r.acc <;> rfl

/-- A write that keeps the OWN fields leaves such a field (R5). -/
theorem RegFile.get_accWrite_own {a : Nat} {r : RegRow} (hap : ∀ r' ∈ regRows a, r' = r ∨ r.apart r')
    (rs : RegFile) (v : Word) (hown : r.own = true) : (rs.accWrite a v true).get (r.field a) = rs.get (r.field a) := by
  rw [RegFile.accWrite_keepOwn, RegFile.get, RegFile.word_setWord, if_pos (show (r.field a).addr = a from rfl)]
  refine List.foldlRecOn (motive := fun w => (r.field a).ofWord w = rs.get (r.field a)) _ _ rfl fun w hw r' hr' => ?_
  rcases hap r' hr' with rfl | h
  · rwa [if_pos hown]
  · split
    · exact hw
    · exact (RegRow.written_apart h a v w).trans hw

theorem HostSide.ctxCtrl_on (h : HostSide) {x : Nat} (hx : x < 128) (v : Word) : (h.ctxCtrl x v).ctxOn x = h.ctxOn x := by
  refine HostSide.on_congr (RegFile.get_accWrite_own (r := ⟨0x90000, [(128, 0x400)], 0, 1, .rw, 0x0, true⟩) ?_ h.regs v rfl)
  simp [regRows_ctxCtrl x hx, RegRow.apart]

theorem HostSide.ctxCtrl_get (h : HostSide) (x : Nat) (v : Word) {f : RF} (hf : f.addr ≠ 0x90000 + x * 0x400) :
    (h.ctxCtrl x v).get f = h.get f := HostSide.get_accWrite_ne _ _ _ _ _ hf

theorem HostSide.ctxCtrl_shadow (h : HostSide) (x : Nat) (v : Word) : (h.ctxCtrl x v).ctxShadow x = h.ctxShadow x :=
  h.ctxShadow_accWrite x _ v true (.inl (by simp only [Reg.CTX_CTRL.EN]; omega))

@[simp] theorem HostSide.ctxCtrl_ctx (h : HostSide) (x : Nat) (v : Word) (y : Nat) : (h.ctxCtrl x v).ctx y = h.ctx y := rfl

/-- The pipe of a context that is off is the one that its CTX_CTRL write names; every other context keeps its own, so the contexts of
the pipe are as many as before the write (R97). -/
theorem HostSide.ctxCtrl_mates (h : HostSide) {x : Nat} (hx : x < 128) (v : Word) (hoff : h.ctxOn x = false) :
    ((List.range 64).filter fun i => (h.ctxCtrl x v).ctxOn (x / 64 * 64 + i)
      && (h.ctxCtrl x v).pipeOf (x / 64 * 64 + i) == (h.ctxCtrl x v).pipeOf x)
    = (List.range 64).filter fun i => h.ctxOn (x / 64 * 64 + i)
      && h.pipeOf (x / 64 * 64 + i) == x / 64 * 4 + (Reg.CTX_CTRL.PIPE x).ofWord v := by
  refine List.filter_congr fun i _ => ?_
  by_cases hi : x / 64 * 64 + i = x
  · rw [hi, h.ctxCtrl_on hx, hoff, Bool.false_and, Bool.false_and]
  · have hon : (h.ctxCtrl x v).ctxOn (x / 64 * 64 + i) = h.ctxOn (x / 64 * 64 + i) :=
      HostSide.on_congr (h.ctxCtrl_get x v (by simp only [Reg.CTX_CTRL.EN]; omega))
    have hpipe : (h.ctxCtrl x v).pipeOf (x / 64 * 64 + i) = h.pipeOf (x / 64 * 64 + i) :=
      congrArg ((x / 64 * 64 + i) / 64 * 4 + ·) (h.ctxCtrl_get x v (by simp only [Reg.CTX_CTRL.PIPE]; omega))
    have hown : (h.ctxCtrl x v).pipeOf x = x / 64 * 4 + (Reg.CTX_CTRL.PIPE x).ofWord v :=
      congrArg (x / 64 * 4 + ·) (h.ctxCtrl_pipe hx v)
    rw [hon, hpipe, hown]

/-! ### Enabling (R97, R109) -/

/-- A context that starts anew: its settings requests stay, and leave every frame uncertain (R99, R109). -/
def Ctx.restarted (c : Ctx) : Ctx :=
  { sets := c.sets.map fun r => { r with target := 0 }, gen := c.gen, tAck := c.tAck, fails := c.fails.map fun t => (t.1, 0) }

/-- The numbers of context `x` restart, and the digests kept of its lines go. -/
def HostSide.restartNumbers (h : HostSide) (x : Nat) : HostSide :=
  let h := h.setCtx x (h.ctx x).restarted
  let h := if h.firstCtxOf x then { h with insp := { h.insp with named := 0, unnamed := [] } } else h
  { h with insp := { h.insp with lineDigs := h.insp.lineDigs.erase x } }

theorem HostSide.restartNumbers_rest (h : HostSide) (x : Nat) :
    (h.restartNumbers x).ctxs = (h.setCtx x (h.ctx x).restarted).ctxs ∧ (h.restartNumbers x).regs = h.regs := by
  unfold HostSide.restartNumbers
  dsimp only
  split
  · exact ⟨rfl, rfl⟩
  · exact ⟨rfl, rfl⟩

/-- Context `x` is on, and runs from frame 0 (R109). -/
def HostSide.turnOn (h : HostSide) (x : Nat) : HostSide :=
  ((h.set (Reg.CTX_CTRL.EN x) 1).set (Reg.CTX_STATUS.RUNNING x) 1).set2 (Reg.CTX_FRAME_LO x) (Reg.CTX_FRAME_HI x) 0

theorem HostSide.turnOn_ctx (h : HostSide) (x y : Nat) : (h.turnOn x).ctx y = h.ctx y := rfl

theorem HostSide.turnOn_on (h : HostSide) (x : Nat) : (h.turnOn x).get (Reg.CTX_CTRL.EN x) = 1 := by
  unfold HostSide.turnOn
  rw [HostSide.get_set2_leaves _ _ _ _ _ (RF.leaves_ctx Reg.CTX_FRAME_LO Reg.CTX_CTRL.EN x) (RF.leaves_ctx Reg.CTX_FRAME_HI Reg.CTX_CTRL.EN x),
    HostSide.get_set_leaves _ _ _ _ (RF.leaves_ctx Reg.CTX_STATUS.RUNNING Reg.CTX_CTRL.EN x)]
  exact HostSide.get_set_bit _ _ _ 1

theorem HostSide.turnOn_running (h : HostSide) (x : Nat) : (h.turnOn x).get (Reg.CTX_STATUS.RUNNING x) = 1 := by
  unfold HostSide.turnOn
  rw [HostSide.get_set2_leaves _ _ _ _ _ (RF.leaves_ctx Reg.CTX_FRAME_LO Reg.CTX_STATUS.RUNNING x)
    (RF.leaves_ctx Reg.CTX_FRAME_HI Reg.CTX_STATUS.RUNNING x)]
  exact HostSide.get_set_bit _ _ _ 1

theorem HostSide.turnOn_shadow (h : HostSide) (x : Nat) : (h.turnOn x).ctxShadow x = h.ctxShadow x := by
  unfold HostSide.turnOn HostSide.set2
  rw [HostSide.ctxShadow_set _ x (Reg.CTX_FRAME_HI x), HostSide.ctxShadow_set _ x (Reg.CTX_FRAME_LO x),
    HostSide.ctxShadow_set _ x (Reg.CTX_STATUS.RUNNING x), HostSide.ctxShadow_set _ x (Reg.CTX_CTRL.EN x)]
  all_goals
    simp only [offShadow, Reg.CTX_FRAME_HI, Reg.CTX_FRAME_LO, Reg.CTX_STATUS.RUNNING, Reg.CTX_CTRL.EN]
    omega

theorem HostSide.turnOn_cseq (h : HostSide) (x : Nat) : (h.turnOn x).get Reg.DET_CSEQ = h.get Reg.DET_CSEQ := by
  have hleaves (f : RF) (hf : f.fits) (ha : 0x90000 ≤ f.addr) : f.leaves Reg.DET_CSEQ :=
    RF.leaves_of_addr hf (by simp only [Reg.DET_CSEQ]; omega)
  unfold HostSide.turnOn
  rw [HostSide.get_set2_leaves _ _ _ _ _ (hleaves _ (Nat.le_of_ble_eq_true rfl) (Nat.le_add_right_of_le (by decide)))
      (hleaves _ (Nat.le_of_ble_eq_true rfl) (Nat.le_add_right_of_le (by decide))),
    HostSide.get_set_leaves _ _ _ _ (hleaves _ (Nat.le_of_ble_eq_true rfl) (Nat.le_add_right_of_le (by decide))),
    HostSide.get_set_leaves _ _ _ _ (hleaves _ (Nat.le_of_ble_eq_true rfl) (Nat.le_add_right_of_le (by decide)))]

theorem HostSide.enableCtx_accepted (h : HostSide) {x : Nat} (hx : x < 128) (v : Word) (hoff : h.ctxOn x = false)
    (hvalid : cfgValid (h.ctxShadow x) x = true)
    (hroom : ((List.range 64).filter fun i => h.ctxOn (x / 64 * 64 + i)
      && h.pipeOf (x / 64 * 64 + i) == x / 64 * 4 + (Reg.CTX_CTRL.PIPE x).ofWord v).length < 32) :
    h.enableCtx x v = (((h.ctxCtrl x v).restartNumbers x).turnOn x).applyCtx x := by
  have hvalid' : cfgValid ((h.ctxCtrl x v).ctxShadow x) x = true := by rwa [h.ctxCtrl_shadow x v]
  have hroom' := hroom
  rw [← h.ctxCtrl_mates hx v hoff] at hroom'
  unfold HostSide.enableCtx
  refine (if_neg fun hbad => ?_).trans rfl
  rcases Bool.or_eq_true_iff.mp hbad with hinvalid | hfull
  · exact absurd (hvalid'.symm.trans ((Bool.not_eq_true' _).mp hinvalid)) (by decide)
  · exact absurd hroom' (Nat.not_lt.mpr (of_decide_eq_true hfull))

/-! ### Disabling (R109) -/

/-- What a disable leaves of its context. -/
def Ctx.ended (c : Ctx) : Ctx :=
  { c with buf := [], ticks := [], open_ := [], table := [], bin := [], bayCur := none, bayPrev := none, delay := [], dispRows := [],
           codeRow := none, sets := c.sets.filter fun r => r.issued }

/-- Context `x` is off, with no commit pending (R109). -/
def HostSide.turnOff (h : HostSide) (x : Nat) : HostSide :=
  ((h.set (Reg.CTX_CTRL.EN x) 0).set (Reg.CTX_STATUS.RUNNING x) 0).set (Reg.CTX_STATUS.COMMIT_PENDING x) 0

/-- Whatever the pipe completes and writes first, a disable ends the context and turns it off. -/
theorem HostSide.disableCtx_ends (h : HostSide) (e : Env) (x : Nat) :
    ∃ g : HostSide, h.disableCtx e x = ((g.modCtx x Ctx.ended).turnOff x).showSets x := ⟨_, rfl⟩

theorem HostSide.disableCtx_ctx (h : HostSide) (e : Env) (x : Nat) : ∃ c : Ctx, (h.disableCtx e x).ctx x = c.ended := by
  obtain ⟨g, hg⟩ := h.disableCtx_ends e x
  refine ⟨g.ctx x, ?_⟩
  rw [hg, HostSide.ctx_showSets]
  unfold HostSide.turnOff
  rw [HostSide.ctx_set, HostSide.ctx_set, HostSide.ctx_set, HostSide.ctx_modCtx_self]

theorem HostSide.disableCtx_off (h : HostSide) (e : Env) (x : Nat) : (h.disableCtx e x).ctxOn x = false := by
  obtain ⟨g, hg⟩ := h.disableCtx_ends e x
  rw [hg]
  unfold HostSide.showSets HostSide.turnOff
  refine (HostSide.on_eq_false_iff _ _).mpr ?_
  rw [HostSide.get_set_leaves _ _ _ _ (RF.leaves_ctx Reg.SET_STATUS.QUEUED Reg.CTX_CTRL.EN x),
    HostSide.get_set_leaves _ _ _ _ (RF.leaves_ctx Reg.CTX_STATUS.COMMIT_PENDING Reg.CTX_CTRL.EN x),
    HostSide.get_set_leaves _ _ _ _ (RF.leaves_ctx Reg.CTX_STATUS.RUNNING Reg.CTX_CTRL.EN x)]
  exact HostSide.get_set_bit _ _ _ 0

theorem HostSide.disableCtx_running (h : HostSide) (e : Env) (x : Nat) : (h.disableCtx e x).get (Reg.CTX_STATUS.RUNNING x) = 0 := by
  obtain ⟨g, hg⟩ := h.disableCtx_ends e x
  rw [hg]
  unfold HostSide.showSets HostSide.turnOff
  rw [HostSide.get_set_leaves _ _ _ _ (RF.leaves_ctx Reg.SET_STATUS.QUEUED Reg.CTX_STATUS.RUNNING x),
    HostSide.get_set_leaves _ _ _ _ (RF.leaves_ctx Reg.CTX_STATUS.COMMIT_PENDING Reg.CTX_STATUS.RUNNING x)]
  exact HostSide.get_set_bit _ _ _ 0

/-- A CTX_CTRL write with EN = 0 at a context that is on: it ends, and the write leaves PIPE as it was (R109, R111). -/
theorem HostSide.writeCtxOff_on (h : HostSide) (e : Env) (x : Nat) (v : Word) (hon : h.ctxOn x = true) :
    h.writeCtxOff e x v = ((h.disableCtx e x).ctxCtrl x v).set (Reg.CTX_CTRL.PIPE x) (h.get (Reg.CTX_CTRL.PIPE x)) := by
  unfold HostSide.writeCtxOff
  rw [hon]
  rfl

/-! ### What the commands do -/

section
variable {s : State} {x : Nat} {v : Word}

section
variable (ho : s.open_) (hx : x < s.variant.ctxs) (hpend : s.host.on (Reg.CTX_STATUS.COMMIT_PENDING x) = false)
include ho hx hpend

/-- A commit that no earlier one precedes: what it makes of the host side is one of the four outcomes of R96 and R235. -/
theorem execCtxCommit_taken {g : HostSide}
    (hg : (if !cfgValid (s.host.ctxShadow x) x then s.host.set (Reg.CTX_STATUS.CFG_INVALID x) 1
      else if s.host.ctxOn x && !s.host.ctxHeld x then s.host.set (Reg.CTX_STATUS.COMMIT_PENDING x) 1
      else if s.host.stopped then
        { s.host.set (Reg.CTX_STATUS.COMMIT_PENDING x) 1 with heldCtx := s.host.heldCtx ++ [(x, none)] }
      else s.host.applyCtx x) = g) :
    exec (.ctxCommit x) s = .next { s with host := g.settle } := by
  show execCtxCommit x s = _
  unfold execCtxCommit
  rw [State.onBar_open s _ ho]
  refine congrArg (fun g : HostSide => Host.Outcome.next { s with host := g.settle }) ((if_neg ?_).trans hg)
  simp [State.env, Nat.not_le.mpr hx, hpend]

end

theorem execCtxAbort_taken (ho : s.open_) (hx : x < s.variant.ctxs) : exec (.ctxAbort x) s = .next { s with host :=
    ({ s.host with heldCtx := s.host.heldCtx.filter fun w => w != (x, none) }.set (Reg.CTX_STATUS.COMMIT_PENDING x) 0).settle } := by
  show execCtxAbort x s = _
  unfold execCtxAbort
  rw [State.onBar_open s _ ho]
  exact congrArg (fun g : HostSide => Host.Outcome.next { s with host := g.settle }) (if_neg (Nat.not_le.mpr hx))

theorem execPipeCommit_taken {p : Nat} (ho : s.open_) (hp : p < s.variant.pipes) : exec (.pipeCommit p) s = .next { s with host :=
    (s.host.set (Reg.PIPE_STATUS.COMMIT_PENDING p) 1).settle } := by
  show execPipeCommit p s = _
  unfold execPipeCommit
  rw [State.onBar_open s _ ho]
  exact congrArg (fun g : HostSide => Host.Outcome.next { s with host := g.settle }) (if_neg (Nat.not_le.mpr hp))

/-- A CTX_CTRL write that a global stop holds (R235). -/
def HostSide.holdCtx (h : HostSide) (x : Nat) (v : Word) : HostSide := { h with heldCtx := h.heldCtx ++ [(x, some v)] }

section
variable (ho : s.open_) (hx : x < s.variant.ctxs)
include ho hx

theorem execCtxEnable_running (hv : v.getLsbD 0 = true) (hoff : s.host.ctxOn x = false) (hrun : s.host.stopped = false) :
    exec (.ctxEnable x v) s = .next { s with host := (s.host.enableCtx x v).settle } := by
  show execCtxEnable x v s = _
  unfold execCtxEnable HostSide.writeCtxOn
  rw [State.onBar_open s _ ho]
  refine congrArg (fun g : HostSide => Host.Outcome.next { s with host := g.settle }) ((if_neg ?_).trans ((if_neg ?_).trans (if_neg ?_)))
  · simp [State.env, Nat.not_le.mpr hx, hv]
  · simp [hrun]
  · simp [hoff]

theorem execCtxDisable_running (hv : v.getLsbD 0 = false) (hrun : s.host.stopped = false) :
    exec (.ctxDisable x v) s = .next { s with host := (s.host.writeCtxOff s.env x v).settle } := by
  show execCtxDisable x v s = _
  unfold execCtxDisable
  rw [State.onBar_open s _ ho]
  refine congrArg (fun g : HostSide => Host.Outcome.next { s with host := g.settle }) ((if_neg ?_).trans (if_neg ?_))
  · rw [hv]
    simp [State.env, Nat.not_le.mpr hx]
  · simp [hrun]

theorem execCtxEnable_held (hv : v.getLsbD 0 = true) (hstop : s.host.stopped = true)
    (hwait : s.host.ctxOn x = false ∨ s.host.ctxHeld x = true) :
    exec (.ctxEnable x v) s = .next { s with host := (s.host.holdCtx x v).settle } := by
  show execCtxEnable x v s = _
  unfold execCtxEnable
  rw [State.onBar_open s _ ho]
  refine congrArg (fun g : HostSide => Host.Outcome.next { s with host := g.settle }) ((if_neg ?_).trans (if_pos ?_))
  · simp [State.env, Nat.not_le.mpr hx, hv]
  · simpa [hstop] using hwait

theorem execCtxDisable_held (hv : v.getLsbD 0 = false) (hstop : s.host.stopped = true)
    (hwait : s.host.ctxOn x = true ∨ s.host.ctxHeld x = true) :
    exec (.ctxDisable x v) s = .next { s with host := (s.host.holdCtx x v).settle } := by
  show execCtxDisable x v s = _
  unfold execCtxDisable
  rw [State.onBar_open s _ ho]
  refine congrArg (fun g : HostSide => Host.Outcome.next { s with host := g.settle }) ((if_neg ?_).trans (if_pos ?_))
  · rw [hv]
    simp [State.env, Nat.not_le.mpr hx]
  · simpa [hstop] using hwait

end
end

/-- An enable that the check accepts: the context is on and runs from its first line, with the shadow as its copy (R97, R109). -/
theorem ctxEnable_enables {s : State} {x : Nat} {v : Word} (ho : s.open_) (hx : x < s.variant.ctxs) (hv : v.getLsbD 0 = true)
    (hoff : s.host.ctxOn x = false) (hrun : s.host.stopped = false) (hgood : cfgValid (s.host.ctxShadow x) x = true)
    (hroom : ((List.range 64).filter fun i => s.host.ctxOn (x / 64 * 64 + i)
      && s.host.pipeOf (x / 64 * 64 + i) == x / 64 * 4 + (Reg.CTX_CTRL.PIPE x).ofWord v).length < 32) :
    ∃ t, exec (.ctxEnable x v) s = .next t ∧ t.host.ctxOn x = true ∧ t.host.get (Reg.CTX_STATUS.RUNNING x) = 1
      ∧ (t.host.ctx x).idx = 0 ∧ (t.host.ctx x).frames = 0 ∧ (t.host.ctx x).buf = []
      ∧ (∀ a, 0x90040 + x * 0x400 ≤ a → a < 0x90200 + x * 0x400 → RegFile.word (t.host.ctx x).active a = s.host.word a)
      ∧ t.host.get Reg.DET_CSEQ = (s.host.get Reg.DET_CSEQ + 1) % 2 ^ 32 := by
  have hx128 := hx.trans_le s.variant.ctxs_le
  obtain ⟨hctxs, hregs⟩ := (s.host.ctxCtrl x v).restartNumbers_rest x
  have hctx : (((s.host.ctxCtrl x v).restartNumbers x).turnOn x).ctx x = (s.host.ctx x).restarted := by
    rw [HostSide.turnOn_ctx, HostSide.ctx_congr hctxs, HostSide.ctx_setCtx_self, HostSide.ctxCtrl_ctx]
  have hshadow : (((s.host.ctxCtrl x v).restartNumbers x).turnOn x).ctxShadow x = s.host.ctxShadow x := by
    rw [HostSide.turnOn_shadow, ← s.host.ctxCtrl_shadow x v]
    exact congrArg (List.filter _) hregs
  have hcseq : (((s.host.ctxCtrl x v).restartNumbers x).turnOn x).get Reg.DET_CSEQ = s.host.get Reg.DET_CSEQ :=
    (HostSide.turnOn_cseq _ x).trans ((congrArg (fun rs : RegFile => rs.get Reg.DET_CSEQ) hregs).trans
      (s.host.ctxCtrl_get x v (by simp only [Reg.DET_CSEQ]; omega)))
  refine ⟨_, execCtxEnable_running ho hx hv hoff hrun, ?_⟩
  rw [s.host.enableCtx_accepted hx128 v hoff hgood hroom]
  refine ⟨(HostSide.on_eq_true_iff _ _).mpr ?_, ?_, ?_, ?_, ?_, fun a hlo hhi => ?_, ?_⟩
  · rw [HostSide.settle_get_ctx _ Reg.CTX_CTRL.EN x, HostSide.applyCtx_get _ (RF.leaves_ctx Reg.CTX_STATUS.COMMIT_PENDING Reg.CTX_CTRL.EN x)
      (by simp only [Reg.CTX_CTRL.EN]; omega) (by simp only [Reg.CTX_CTRL.EN]; omega), HostSide.turnOn_on]
    decide
  · rw [HostSide.settle_get_ctx _ Reg.CTX_STATUS.RUNNING x, HostSide.applyCtx_get _ (RF.leaves_ctx Reg.CTX_STATUS.COMMIT_PENDING Reg.CTX_STATUS.RUNNING x)
      (by simp only [Reg.CTX_STATUS.RUNNING]; omega) (by simp only [Reg.CTX_STATUS.RUNNING]; omega)]
    exact HostSide.turnOn_running _ x
  · rw [HostSide.ctx_settle, HostSide.applyCtx_ctx, hctx]
    rfl
  · rw [HostSide.ctx_settle, HostSide.applyCtx_ctx, hctx]
    rfl
  · rw [HostSide.ctx_settle, HostSide.applyCtx_ctx, hctx]
    rfl
  · rw [HostSide.ctx_settle, HostSide.applyCtx_ctx, hshadow]
    exact s.host.word_ctxShadow hlo hhi
  · rw [HostSide.settle_get _ _ (by decide), HostSide.applyCtx_cseq, hcseq]

/-- A disable: whatever is written first, the context is off and keeps neither line, tick nor frame (R109). -/
theorem ctxDisable_ends {s : State} {x : Nat} {v : Word} (ho : s.open_) (hx : x < s.variant.ctxs) (hv : v.getLsbD 0 = false)
    (hon : s.host.ctxOn x = true) (hrun : s.host.stopped = false) :
    ∃ t, exec (.ctxDisable x v) s = .next t ∧ t.host.ctxOn x = false ∧ t.host.get (Reg.CTX_STATUS.RUNNING x) = 0
      ∧ (t.host.ctx x).buf = [] ∧ (t.host.ctx x).ticks = [] ∧ (t.host.ctx x).open_ = [] := by
  have hx128 := hx.trans_le s.variant.ctxs_le
  refine ⟨_, execCtxDisable_running ho hx hv hrun, ?_⟩
  rw [s.host.writeCtxOff_on s.env x v hon]
  obtain ⟨c, hc⟩ := s.host.disableCtx_ctx s.env x
  refine ⟨(HostSide.on_eq_false_iff _ _).mpr ?_, ?_, ?_, ?_, ?_⟩
  · rw [HostSide.settle_get_ctx _ Reg.CTX_CTRL.EN x, HostSide.get_set_leaves _ _ _ _ (RF.leaves_ctx Reg.CTX_CTRL.PIPE Reg.CTX_CTRL.EN x)]
    exact (HostSide.on_eq_false_iff _ _).mp (((s.host.disableCtx s.env x).ctxCtrl_on hx128 v).trans (s.host.disableCtx_off s.env x))
  · rw [HostSide.settle_get_ctx _ Reg.CTX_STATUS.RUNNING x,
      HostSide.get_set_leaves _ _ _ _ (RF.leaves_ctx Reg.CTX_CTRL.PIPE Reg.CTX_STATUS.RUNNING x),
      HostSide.ctxCtrl_get _ x v (by simp only [Reg.CTX_STATUS.RUNNING]; omega), HostSide.disableCtx_running]
  all_goals
    rw [HostSide.ctx_settle, HostSide.ctx_set, HostSide.ctxCtrl_ctx, hc]
    rfl

/-- Settles O16: each command by the outcome that its case selects, and by what a commit, an enable and a disable leave of the context
and its registers. -/
theorem contextCommits : Obligations.ContextCommits := by
  unfold Obligations.ContextCommits
  refine ⟨fun s x ho hx hpend => ⟨fun hbad => ?invalid, fun hgood hon hfree => ?pending, fun hgood hwait hstop => ?held,
      fun hgood hoff hrun => ?atOnce⟩, fun s x ho hx => ?abort, fun s p ho hp => ?pipe, fun s x v ho hx hv hoff hrun hgood hroom =>
      ctxEnable_enables ho hx hv hoff hrun hgood hroom,
    fun s x v ho hx hv hon hrun => ctxDisable_ends ho hx hv hon hrun,
    fun s x v ho hx hstop => ⟨fun hv hwait => ?enableHeld, fun hv hwait => ?disableHeld⟩⟩
  case invalid =>
    refine ⟨_, execCtxCommit_taken ho hx hpend (if_pos (by simpa using hbad)), ?_,
      State.regsOnly_of s _ _ rfl ((HostSide.wordsBut.refl s.host _).set _ 1 (by simp))⟩
    rw [HostSide.settle_get_ctx _ Reg.CTX_STATUS.CFG_INVALID x]
    exact HostSide.get_set_bit _ _ _ 1
  case pending =>
    refine ⟨_, execCtxCommit_taken ho hx hpend ((if_neg (by simpa using hgood)).trans (if_pos (by simp [hon, hfree]))), ?_,
      State.regsOnly_of s _ _ rfl ((HostSide.wordsBut.refl s.host _).set _ 1 (by simp))⟩
    rw [HostSide.settle_get_ctx _ Reg.CTX_STATUS.COMMIT_PENDING x]
    exact HostSide.get_set_bit _ _ _ 1
  case held =>
    refine ⟨_, execCtxCommit_taken ho hx hpend ((if_neg (by simpa using hgood)).trans
      ((if_neg (by rcases hwait with h | h <;> simp [h])).trans (if_pos hstop))), ?_, (by rw [HostSide.settle_eq]), State.changes_of s _ _ _ rfl
        ((HostSide.wordsBut.refl s.host _).set (Reg.CTX_STATUS.COMMIT_PENDING x) 1 (by simp))⟩
    rw [HostSide.settle_get_ctx _ Reg.CTX_STATUS.COMMIT_PENDING x]
    exact HostSide.get_set_bit s.host _ _ 1
  case atOnce =>
    refine ⟨_, execCtxCommit_taken ho hx hpend ((if_neg (by simpa using hgood)).trans ((if_neg (by simp [hoff])).trans (if_neg (by simp [hrun])))),
      ?_, ?_, ?_⟩
    · rw [HostSide.ctx_settle, HostSide.applyCtx_ctx]
    · rw [HostSide.settle_get_ctx _ Reg.CTX_STATUS.COMMIT_PENDING x, HostSide.applyCtx_pending]
    · rw [HostSide.settle_get _ _ (by decide), HostSide.applyCtx_cseq]
  case abort =>
    refine ⟨_, execCtxAbort_taken ho hx, ?_, (by rw [HostSide.settle_eq]; rfl),
      State.changes_of s _ _ _ rfl ((HostSide.wordsBut.refl _ _).set _ 0 (by simp))⟩
    rw [HostSide.settle_get_ctx _ Reg.CTX_STATUS.COMMIT_PENDING x]
    exact HostSide.get_set_bit _ _ _ 0
  case pipe =>
    refine ⟨_, execPipeCommit_taken ho hp, ?_, State.regsOnly_of s _ _ rfl ((HostSide.wordsBut.refl s.host _).set _ 1 (by simp))⟩
    rw [HostSide.settle_get_high _ _ (Nat.lt_add_right _ (by decide))]
    exact HostSide.get_set_bit _ _ _ 1
  case enableHeld =>
    exact ⟨_, execCtxEnable_held ho hx hv hstop hwait, (by rw [HostSide.settle_eq]; rfl),
      State.changes_of s _ _ _ rfl (HostSide.wordsBut.refl s.host _)⟩
  case disableHeld =>
    exact ⟨_, execCtxDisable_held ho hx hv hstop hwait, (by rw [HostSide.settle_eq]; rfl),
      State.changes_of s _ _ _ rfl (HostSide.wordsBut.refl s.host _)⟩

end Sys2Proof.Machine

/-! SUPPORT. What the bytes that land in a line store leave of it, and what they leave of the rest of the host side (R179 to R184). -/

namespace Sys2Proof.Machine
open Sys2Proof

/-! ### Counts and log entries -/

/-- Words of the clusters, their stripe channels and their cores: no counter, log entry or checksum failure shows in them. -/
def innerWord (a : Nat) : Prop := 0x200000 ≤ a ∧ a < 0x600000

/-- Only registers and the error log differ, and no inner word. -/
structure HostSide.Logged (h g : HostSide) : Prop where
  rest : { g with regs := h.regs, pm := h.pm } = h
  words : ∀ a, innerWord a → g.word a = h.word a

namespace HostSide.Logged

variable {h g k : HostSide}

theorem refl (h : HostSide) : h.Logged h := ⟨rfl, fun _ _ => rfl⟩

theorem trans (h₁ : h.Logged g) (h₂ : g.Logged k) : h.Logged k where
  rest := (congrArg (fun x : HostSide => { x with regs := h.regs, pm := h.pm }) h₂.rest).trans h₁.rest
  words a ha := (h₂.words a ha).trans (h₁.words a ha)

theorem ite {p : Prop} [Decidable p] (hg : h.Logged g) (hk : h.Logged k) : h.Logged (if p then g else k) := by
  split
  · exact hg
  · exact hk

theorem foldl {α : Type} (h : HostSide) (l : List α) (f : HostSide → α → HostSide) (hf : ∀ g : HostSide, ∀ i, g.Logged (f g i)) :
    h.Logged (l.foldl f h) := foldl_keeps (h.Logged ·) l f h (refl h) fun g i hg => hg.trans (hf g i)

theorem set (h : HostSide) (f : RF) (v : Nat) (hf : ¬ innerWord f.addr) : h.Logged (h.set f v) where
  rest := rfl
  words a ha := HostSide.word_set_ne h f v a fun e => hf (e ▸ ha)

theorem addCounter (h : HostSide) (lo hi ovf : RF) (n : Nat) (hlo : ¬ innerWord lo.addr) (hhi : ¬ innerWord hi.addr)
    (hovf : ¬ innerWord ovf.addr) : h.Logged (h.addCounter lo hi ovf n) := by
  have hset2 (v : Nat) : h.Logged (h.set2 lo hi v) := (set h lo v hlo).trans (set _ hi _ hhi)
  unfold HostSide.addCounter
  exact ite (hset2 _) (((hset2 _).trans (set _ ovf 1 hovf)).trans (set _ Reg.GAUGE_INT_STATUS _ (by simp [innerWord, Reg.GAUGE_INT_STATUS])))

theorem countG (h : HostSide) (ev unit n : Nat) : h.Logged (h.countG ev unit n) :=
  foldl h _ _ fun g i => addCounter g _ _ _ n (by simp only [innerWord, Reg.GCNT_VALUE_LO]; omega)
    (by simp only [innerWord, Reg.GCNT_VALUE_HI]; omega) (by simp only [innerWord, Reg.GCNT_CFG.OVF]; omega)

theorem countK (h : HostSide) (k ev n : Nat) : h.Logged (h.countK k ev n) :=
  foldl h _ _ fun g j => addCounter g _ _ _ n (by simp only [innerWord, Reg.CLCNT_VALUE_LO]; omega)
    (by simp only [innerWord, Reg.CLCNT_VALUE_HI]; omega) (by simp only [innerWord, Reg.CLCNT_CFG.OVF]; omega)

theorem countC (h : HostSide) (c ev n : Nat) : h.Logged (h.countC c ev n) :=
  foldl h _ _ fun g j => addCounter g _ _ _ n (by simp only [innerWord, Reg.CNT_VALUE_LO]; omega)
    (by simp only [innerWord, Reg.CNT_VALUE_HI]; omega) (by simp only [innerWord, Reg.CNT_CFG.OVF]; omega)

theorem countAccess (h : HostSide) (load : Bool) (kind unit n : Nat) : h.Logged (h.countAccess load kind unit n) := by
  have hmem : h.Logged (h.countMem load kind unit n) := by
    unfold HostSide.countMem
    split
    · exact countK _ _ _ _
    · exact countG _ _ _ _
    · exact refl h
  unfold HostSide.countAccess
  dsimp only
  split
  · exact hmem.trans (countK _ _ _ _)
  · exact hmem.trans (countK _ _ _ _)
  · exact hmem

theorem log (h : HostSide) (e : Env) (code unit detail addr seq : Nat) : h.Logged (h.log e code unit detail addr seq) where
  rest := by rw [HostSide.log_eq]
  words a ha := HostSide.log_word h e code unit detail addr seq a (fun e => by subst e; exact absurd ha (by simp [innerWord, Reg.PM_LOG_COUNT]))
    (fun e => by subst e; exact absurd ha (by simp [innerWord, Reg.PM_LOG_LAST]))
    (fun e => by subst e; exact absurd ha (by simp [innerWord, Reg.PM_INT_STATUS]))

theorem csumFail (h : HostSide) (e : Env) (kind unit addr : Nat) : h.Logged (h.csumFail e kind unit addr) := by
  unfold HostSide.csumFail
  extract_lets clear h₁ h₂ h₃ h₄
  have hloc : h.Logged h₁ := ite ((set _ Reg.MEM_CSUM_LOC.KIND _ (by simp [innerWord, Reg.MEM_CSUM_LOC.KIND])).trans
    ((set _ Reg.MEM_CSUM_LOC.UNIT _ (by simp [innerWord, Reg.MEM_CSUM_LOC.UNIT])).trans
      (set _ Reg.MEM_CSUM_ADDR _ (by simp [innerWord, Reg.MEM_CSUM_ADDR])))) (refl h)
  have hstat : h₁.Logged h₃ := (set _ Reg.MEM_CSUM_COUNT _ (by simp [innerWord, Reg.MEM_CSUM_COUNT])).trans (set _ _ _ (by simp [innerWord]))
  have hcount : h₃.Logged h₄ := ite (countK _ _ _ _) (ite (countK _ _ _ _) (refl _))
  exact ((hloc.trans hstat).trans hcount).trans (log _ _ _ _ _ _ _)

theorem ls (hg : h.Logged g) (u : Nat) : g.ls u = h.ls u := by
  have hstores : g.lstore = h.lstore := (congrArg HostSide.lstore hg.rest :)
  unfold HostSide.ls
  rw [hstores]

end HostSide.Logged

/-! ### Bytes that land (R179 to R182) -/

/-- Only registers, the error log and the memories of the device differ, and no inner word. -/
structure HostSide.Landed (h g : HostSide) : Prop where
  rest : { g with regs := h.regs, pm := h.pm, lstore := h.lstore, lsDirty := h.lsDirty, cores := h.cores, hbm := h.hbm } = h
  words : ∀ a, innerWord a → g.word a = h.word a

namespace HostSide.Landed

variable {h g k : HostSide}

theorem refl (h : HostSide) : h.Landed h := ⟨rfl, fun _ _ => rfl⟩

theorem trans (h₁ : h.Landed g) (h₂ : g.Landed k) : h.Landed k where
  rest := (congrArg (fun x : HostSide => { x with
    regs := h.regs, pm := h.pm, lstore := h.lstore, lsDirty := h.lsDirty, cores := h.cores, hbm := h.hbm }) h₂.rest).trans h₁.rest
  words a ha := (h₂.words a ha).trans (h₁.words a ha)

theorem of_logged (hg : h.Logged g) : h.Landed g where
  rest := (congrArg (fun x : HostSide => { x with lstore := h.lstore, lsDirty := h.lsDirty, cores := h.cores, hbm := h.hbm }) hg.rest).trans rfl
  words := hg.words

theorem ite {p : Prop} [Decidable p] (hg : h.Landed g) (hk : h.Landed k) : h.Landed (if p then g else k) := by
  split
  · exact hg
  · exact hk

theorem foldl {α : Type} (h : HostSide) (l : List α) (f : HostSide → α → HostSide) (hf : ∀ g : HostSide, ∀ i, g.Landed (f g i)) :
    h.Landed (l.foldl f h) := foldl_keeps (h.Landed ·) l f h (refl h) fun g i hg => hg.trans (hf g i)

theorem setStore (h : HostSide) (kind unit off n : Nat) (st : Store) : h.Landed (h.setStore kind unit off n st) := by
  unfold HostSide.setStore
  split
  · exact ⟨rfl, fun _ _ => rfl⟩
  · exact ⟨rfl, fun _ _ => rfl⟩
  · exact ⟨rfl, fun _ _ => rfl⟩

theorem putStore (h : HostSide) (kind unit : Nat) (st : Store) : h.Landed (h.putStore kind unit st) := by
  unfold HostSide.putStore
  split
  · exact ⟨rfl, fun _ _ => rfl⟩
  · exact ⟨rfl, fun _ _ => rfl⟩
  · exact ⟨rfl, fun _ _ => rfl⟩

theorem landPiece (h : HostSide) (e : Env) (kind unit off : Nat) (bs : List Byte) (failed : Bool) :
    h.Landed (h.landPiece e kind unit off bs failed).1 :=
  (setStore h _ _ _ _ _).trans (foldl _ _ _ fun g _ => of_logged (.csumFail g _ _ _ _))

theorem landPieces (h : HostSide) (e : Env) (kind unit off per : Nat) (bs : List Byte) (bad : List (Nat × List Byte)) :
    h.Landed (h.landPieces e kind unit off per bs bad).1 := by
  unfold HostSide.landPieces
  refine foldl_keeps (fun acc : HostSide × Bool => h.Landed acc.1) _ _ (h, false) (refl h) fun acc x hacc => ?_
  exact hacc.trans ((ite (of_logged (.csumFail _ _ _ _ _)) (refl _)).trans (landPiece _ _ _ _ _ _ _))

theorem lsPut (h : HostSide) (e : Env) (clu off w : Nat) (bs : List Byte) (bad : List (Nat × List Byte)) :
    h.Landed (h.lsPut e clu off w bs bad) := (landPieces h _ _ _ _ _ _ _).trans (of_logged (.countAccess _ _ _ _ _))

theorem eccUses (h : HostSide) (e : Env) (kind : Nat) (l : List (Nat × Ecc)) : h.Landed (h.eccUses e kind l) := by
  refine foldl h _ _ fun g x => ?_
  have hreads : g.Landed (g.eccReads e kind x.1 x.2) := by
    unfold HostSide.eccReads
    refine ite (refl g) ((putStore g _ _ _).trans (ite (refl _) ?_))
    have hlog (k : HostSide) : k.Landed ((k.inc Reg.MEM_SRAM_CE x.2.ce).log e 0x0101 x.1 0 0 0) :=
      of_logged ((Logged.set k Reg.MEM_SRAM_CE _ (by simp [innerWord, Reg.MEM_SRAM_CE])).trans (.log _ _ _ _ _ _ _))
    dsimp only
    split
    · exact (hlog _).trans (of_logged (.countC _ _ _ _))
    · exact hlog _
  unfold HostSide.eccUse
  exact ite (refl g) (hreads.trans (putStore _ _ _ _))

theorem ctxs (hg : h.Landed g) : g.ctxs = h.ctxs := (congrArg HostSide.ctxs hg.rest :)
theorem mem (hg : h.Landed g) : g.mem = h.mem := (congrArg HostSide.mem hg.rest :)
theorem lsc (hg : h.Landed g) : g.lsc = h.lsc := (congrArg HostSide.lsc hg.rest :)
theorem pipes (hg : h.Landed g) : g.pipes = h.pipes := (congrArg HostSide.pipes hg.rest :)

end HostSide.Landed

/-! ### What the line store then holds -/

theorem Store.write_mem (st : Store) (off : Nat) (bs : List Byte) : (st.write off bs).mem = st.mem.setBytes off bs :=
  foldl_keeps (fun s : Store => s.mem = st.mem.setBytes off bs) _ Store.poisonTile _ rfl fun s t hs => (s.poisonTile_mem t).trans hs

theorem Store.poisonRange_mem (st : Store) (off n : Nat) : (st.poisonRange off n).mem = st.mem :=
  foldl_keeps (fun s : Store => s.mem = st.mem) _ Store.poisonTile _ rfl fun s t hs => (s.poisonTile_mem t).trans hs

theorem HostSide.landPiece_mem (h : HostSide) (e : Env) (u off : Nat) (bs : List Byte) (failed : Bool) :
    ((h.landPiece e 1 u off bs failed).1.ls u).mem = (h.ls u).mem.setBytes off bs := by
  have hfails (g : HostSide) (l : List Nat) : (l.foldl (fun g t => g.csumFail e 1 u (t * 2048)) g).ls u = g.ls u :=
    (HostSide.Logged.foldl g l _ fun k t => .csumFail k _ _ _ _).ls u
  unfold HostSide.landPiece
  dsimp only
  rw [hfails]
  have hset (st : Store) : (h.setStore 1 u off bs.length st).ls u = st := (SMap.get_put _ _ _ _ _).trans (if_pos rfl)
  rw [hset]
  split
  · rw [Store.poisonRange_mem]
    exact Store.write_mem _ _ _
  · exact Store.write_mem _ _ _

/-- A write of the first `n` bytes, and then of the next ones, is a write of them all. -/
theorem Mem.byte_setBytes_append (m : Mem) (off : Nat) (bs cs : List Byte) (a : Nat) :
    ((m.setBytes off bs).setBytes (off + bs.length) cs).byte a = (m.setBytes off (bs ++ cs)).byte a := by
  simp only [Mem.byte_setBytes, List.length_append]
  by_cases hc : off + bs.length ≤ a ∧ a < off + bs.length + cs.length
  · rw [if_pos hc, if_pos (by omega), List.getD_append_right _ _ _ _ (by omega)]
    congr 1
    omega
  · rw [if_neg hc]
    by_cases hb : off ≤ a ∧ a < off + bs.length
    · rw [if_pos hb, if_pos (by omega), List.getD_append _ _ _ _ (by omega)]
    · rw [if_neg hb, if_neg (by omega)]

theorem zip_piecesOf (n per : Nat) :
    (List.range (piecesOf n per).length).zip (piecesOf n per)
      = (List.range ((n + per - 1) / per)).map fun i => (i, i * per, min per (n - i * per)) := by
  refine List.ext_getElem (by simp [piecesOf]) fun i h₁ h₂ => ?_
  simp [piecesOf]

/-- Bytes none of which was changed in transit land as they were sent (R181). -/
theorem HostSide.landPieces_byte (h : HostSide) (e : Env) (u off per : Nat) (bs : List Byte) (hper : 0 < per) (a : Nat) :
    ((h.landPieces e 1 u off per bs []).1.ls u).mem.byte a = ((h.ls u).mem.setBytes off bs).byte a := by
  have hcover : bs.length ≤ (bs.length + per - 1) / per * per := by
    have := Nat.lt_div_mul_add hper (a := bs.length + per - 1)
    omega
  have key : ∀ a, ((h.landPieces e 1 u off per bs []).1.ls u).mem.byte a
      = ((h.ls u).mem.setBytes off (bs.take ((bs.length + per - 1) / per * per))).byte a := by
    unfold HostSide.landPieces
    dsimp only
    rw [zip_piecesOf, List.foldl_map]
    refine forN_induct (fun i (acc : HostSide × Bool) => ∀ a, (acc.1.ls u).mem.byte a = ((h.ls u).mem.setBytes off (bs.take (i * per))).byte a)
      _ _ (h, false) (fun a => by simp [Mem.setBytes]) fun i hi acc hacc a => ?_
    have hlt : i * per < bs.length := by
      have := Nat.mul_le_mul_right per (Nat.le_of_lt_succ (Nat.lt_succ_of_lt hi))
      have := Nat.div_mul_le_self (bs.length + per - 1) per
      have := Nat.mul_le_mul_right per hi
      rw [Nat.succ_mul] at this
      omega
    have hlen : (bs.take (i * per)).length = i * per := by simp; omega
    have hpiece : (bs.drop (i * per)).take (min per (bs.length - i * per)) = (bs.drop (i * per)).take per := by
      rw [← List.length_drop, ← List.take_eq_take_min]
    have hnext : bs.take ((i + 1) * per) = bs.take (i * per) ++ (bs.drop (i * per)).take per := by
      rw [Nat.succ_mul, List.take_add]
    have hpad (l : List Byte) : (if i + 1 = (piecesOf bs.length per).length then l ++ List.replicate (padOf 1 bs.length) 0 else l) = l := by
      simp [padOf]
    simp only [arrived, List.find?_nil, Bool.false_eq_true, if_false, hpad, hpiece, HostSide.landPiece_mem]
    rw [hnext, ← Mem.byte_setBytes_append, hlen, Mem.byte_setBytes, Mem.byte_setBytes _ (off + i * per), hacc]
  rw [key, List.take_of_length_le hcover]

/-- The bytes put into a line store, unchanged in transit, are there, and every other byte is as before (R106, R107). -/
theorem HostSide.lsPut_byte (h : HostSide) (e : Env) (u off w : Nat) (bs : List Byte) (a : Nat) :
    ((h.lsPut e u off w bs []).ls u).mem.byte a = ((h.ls u).mem.setBytes off bs).byte a := by
  unfold HostSide.lsPut
  rw [(HostSide.Logged.countAccess _ _ _ _ _).ls u]
  exact h.landPieces_byte e u off 2048 bs (by decide) a

theorem Mem.bytes_congr {m n : Mem} {a k : Nat} (h : ∀ b, a ≤ b → b < a + k → m.byte b = n.byte b) : m.bytes a k = n.bytes a k := by
  induction k generalizing a with
  | zero => rfl
  | succ k ih =>
    simp only [Mem.bytes]
    rw [h a (Nat.le_refl a) (by omega), ih fun b hlo hhi => h b (by omega) (by omega)]

theorem HostSide.lsPut_read (h : HostSide) (e : Env) (u off w : Nat) (bs : List Byte) :
    ((h.lsPut e u off w bs []).ls u).read off bs.length = bs :=
  (Mem.bytes_congr fun a _ _ => h.lsPut_byte e u off w bs a).trans (Mem.bytes_setBytes_self _ off bs)

theorem HostSide.lsPut_apart (h : HostSide) (e : Env) (u off w : Nat) (bs : List Byte) {a : Nat} (ha : a < off ∨ off + bs.length ≤ a) :
    ((h.lsPut e u off w bs []).ls u).mem.byte a = (h.ls u).mem.byte a := by
  rw [HostSide.lsPut_byte, Mem.byte_setBytes, if_neg (by omega)]

end Sys2Proof.Machine

/-! SUPPORT. The ingress assigns lines and ticks to a stream context, and a pipe takes its turns (R84, R93 to R95, R159). -/

namespace Sys2Proof.Machine
open Sys2Proof

/-! ### What part of a context an operation leaves alone -/

/-- The part `part` of context `x` is as before. -/
def HostSide.Leaves {α : Type} (part : Ctx → α) (x : Nat) (h g : HostSide) : Prop := part (g.ctx x) = part (h.ctx x)

namespace HostSide.Leaves

variable {α : Type} {part : Ctx → α} {x : Nat} {h g k : HostSide}

theorem refl (h : HostSide) : h.Leaves part x h := rfl

theorem trans (h₁ : h.Leaves part x g) (h₂ : g.Leaves part x k) : h.Leaves part x k := Eq.trans h₂ h₁

theorem ite {p : Prop} [Decidable p] (hg : h.Leaves part x g) (hk : h.Leaves part x k) : h.Leaves part x (if p then g else k) := by
  split
  · exact hg
  · exact hk

theorem foldl {ι : Type} (h : HostSide) (l : List ι) (f : HostSide → ι → HostSide) (hf : ∀ g : HostSide, ∀ i, g.Leaves part x (f g i)) :
    h.Leaves part x (l.foldl f h) := foldl_keeps (h.Leaves part x ·) l f h (refl h) fun g i hg => hg.trans (hf g i)

theorem of_ctxs (e : g.ctxs = h.ctxs) : h.Leaves part x g := congrArg part (HostSide.ctx_congr e x)

theorem setCtx (h : HostSide) {c : Ctx} (hc : part c = part (h.ctx x)) : h.Leaves part x (h.setCtx x c) :=
  (congrArg part (h.ctx_setCtx_self x c)).trans hc

theorem modCtx (h : HostSide) {f : Ctx → Ctx} (hf : ∀ c, part (f c) = part c) : h.Leaves part x (h.modCtx x f) := setCtx h (hf _)

/-- A change of the context that leaves the part. -/
theorem then_modCtx (hg : h.Leaves part x g) {f : Ctx → Ctx} (hf : ∀ c, part (f c) = part c := by intro; rfl) :
    h.Leaves part x (g.modCtx x f) := hg.trans (modCtx g hf)

theorem set (hg : h.Leaves part x g) (f : RF) (v : Nat) : h.Leaves part x (g.set f v) := hg

theorem of_insp (hg : h.InspOnly g) : h.Leaves part x g := of_ctxs hg.ctxs
theorem of_logged (hg : h.Logged g) : h.Leaves part x g := of_ctxs (congrArg HostSide.ctxs hg.rest :)
theorem of_landed (hg : h.Landed g) : h.Leaves part x g := of_ctxs hg.ctxs

end HostSide.Leaves

/-! ### A line is assigned (R93, R95) -/

/-- The ticks that wait at a context, and the number of the next line. -/
def Ctx.place (c : Ctx) : List Nat × Nat := (c.ticks, c.idx)

theorem HostSide.newFrame_place (h : HostSide) (e : Env) (x count : Nat) : h.Leaves Ctx.place x (h.newFrame e x count) := by
  unfold HostSide.newFrame
  extract_lets g c f
  have hg : h.Leaves Ctx.place x g := .ite ((congrArg Ctx.place (h.applyCtx_ctx x)).trans rfl) (.refl h)
  refine (((hg.trans (.setCtx g ?_)).set (Reg.CTX_FRAME_LO x) _).set (Reg.CTX_FRAME_HI x) _).set (Reg.CTX_GEN_NOW x) _
  rfl

theorem HostSide.dropStripe_place (h : HostSide) (e : Env) (x : Nat) (l : PixLine) : h.Leaves Ctx.place x (h.dropStripe e x l) := by
  unfold HostSide.dropStripe
  extract_lets c keep g first digs src k m r
  have hk : h.Leaves Ctx.place x k := .trans (g := g) (.setCtx h rfl) (.of_insp rfl)
  have hr : k.Leaves Ctx.place x r := .trans (g := m) (.of_ctxs rfl) (.modCtx m fun _ => rfl)
  exact (hk.trans hr).trans ((HostSide.Leaves.of_logged (.countG r _ _ _)).trans (.of_logged (.log _ _ _ _ _ _ _)))

theorem HostSide.ingest_ctx (h : HostSide) (e : Env) (x count : Nat) (missing : Bool) (data : List Byte) :
    ((h.ingest e x count missing data).ctx x).ticks = (h.ctx x).ticks
      ∧ ((h.ingest e x count missing data).ctx x).idx = (h.ctx x).idx + 1 := by
  unfold HostSide.ingest
  extract_lets framed c cfg endStripe endFrame l fill dig digs src digested counted full kept lined marked moved
  have hframed : h.Leaves Ctx.place x framed := .ite (h.newFrame_place e x count) (.refl h)
  have hcounted : framed.Leaves Ctx.place x counted := .trans (g := digested) (.of_insp rfl) (.setCtx digested rfl)
  have hkept : counted.Leaves Ctx.place x kept := .ite (.modCtx counted fun _ => rfl)
    (.ite (counted.dropStripe_place e x l) (.modCtx counted fun _ => rfl))
  have hmarked : kept.Leaves Ctx.place x marked := .trans (g := lined) (.modCtx kept fun _ => rfl)
    (.ite ((((HostSide.Leaves.refl lined).set (Reg.CTX_MISS x) _).set (Reg.CTX_STATUS.LINE_MISS x) 1).trans (.of_logged (.log _ _ _ _ _ _ _)))
      (.refl lined))
  have hbefore : (marked.ctx x).place = (h.ctx x).place := ((hframed.trans hcounted).trans hkept).trans hmarked
  have hafter : ((moved.lineSeen e x count).gapLine x l.idx count e.tick 5).ctx x = moved.ctx x :=
    HostSide.ctx_congr ((HostSide.InspOnly.lineSeen moved e x count).trans (.gapLine _ x l.idx count e.tick 5)).ctxs x
  rw [hafter, show moved.ctx x = _ from marked.ctx_modCtx_self x _]
  exact ⟨congrArg Prod.fst hbefore, congrArg (fun p => p.2 + 1) hbefore⟩

/-! ### A line is missing (R93) -/

theorem HostSide.modCtx_get (h : HostSide) (x : Nat) (c : Ctx → Ctx) (f : RF) : (h.modCtx x c).get f = h.get f := rfl

theorem HostSide.newFrame_miss (h : HostSide) (e : Env) (x count : Nat) :
    (h.newFrame e x count).get (Reg.CTX_MISS x) = h.get (Reg.CTX_MISS x) := by
  unfold HostSide.newFrame
  extract_lets g c f
  have hg : g.get (Reg.CTX_MISS x) = h.get (Reg.CTX_MISS x) := by
    show (if _ then _ else _ : HostSide).get _ = _
    split
    · exact h.applyCtx_get (RF.leaves_ctx Reg.CTX_STATUS.COMMIT_PENDING Reg.CTX_MISS x) (by simp only [Reg.CTX_MISS]; omega)
        (by simp only [Reg.CTX_MISS]; omega)
    · rfl
  rw [HostSide.get_set_leaves _ _ _ _ (RF.leaves_ctx Reg.CTX_GEN_NOW Reg.CTX_MISS x),
    HostSide.get_set2_leaves _ _ _ _ _ (RF.leaves_ctx Reg.CTX_FRAME_LO Reg.CTX_MISS x) (RF.leaves_ctx Reg.CTX_FRAME_HI Reg.CTX_MISS x)]
  exact hg

/-- A missing line shows in the registers of its context (R93). -/
def HostSide.countMiss (h : HostSide) (x : Nat) : HostSide := (h.inc (Reg.CTX_MISS x) 1).set (Reg.CTX_STATUS.LINE_MISS x) 1

theorem HostSide.countMiss_counted (h : HostSide) (x : Nat) : (h.countMiss x).counted h (Reg.CTX_MISS x) :=
  (HostSide.get_set_leaves _ _ _ _ (RF.leaves_ctx Reg.CTX_STATUS.LINE_MISS Reg.CTX_MISS x)).trans
    (h.get_inc_self _ 1 (Nat.le_of_ble_eq_true rfl))

theorem HostSide.countMiss_shown (h : HostSide) (x : Nat) : (h.countMiss x).get (Reg.CTX_STATUS.LINE_MISS x) = 1 :=
  HostSide.get_set_bit _ _ _ 1

/-- A missing line is counted and shown (R93). -/
theorem HostSide.ingest_missing (h : HostSide) (e : Env) (x count : Nat) :
    ∃ g : HostSide, g.get (Reg.CTX_MISS x) = h.get (Reg.CTX_MISS x)
      ∧ ∀ f : RF, 0x200E0 < f.addr → (h.ingest e x count true []).get f = (g.countMiss x).get f := by
  unfold HostSide.ingest
  extract_lets framed c cfg endStripe endFrame l fill dig digs src digested counted full kept lined marked moved
  have hframed : framed.get (Reg.CTX_MISS x) = h.get (Reg.CTX_MISS x) :=
    (apply_ite (fun k : HostSide => k.get (Reg.CTX_MISS x)) _ _ _).trans (ite_eq_right_iff.mpr fun _ => h.newFrame_miss e x count)
  have hfull : full = false := by
    dsimp only [full, Bool.not_true, Bool.false_and]
    split <;> rfl
  have hkept : kept.regs = framed.regs := by
    dsimp only [kept]
    rw [if_neg (show ¬ full = true by rw [hfull]; decide)]
    split <;> rfl
  refine ⟨lined, ?_, fun f hf => ?_⟩
  · exact (congrArg (fun rs : RegFile => rs.get (Reg.CTX_MISS x)) hkept).trans hframed
  · have hafter := ((HostSide.InspOnly.lineSeen moved e x count).trans (.gapLine _ x l.idx count e.tick 5)).get f
    have hmoved : moved.get f = marked.get f := marked.modCtx_get x _ f
    have hmarked : marked = (lined.countMiss x).log e 0x0204 x 1 0 0 := if_pos rfl
    rw [hafter, hmoved, hmarked, HostSide.log_get _ _ _ _ _ _ _ hf]

/-! ### The commands of the ingress (R93) -/

/-- The line in arrival from link `n` for context `x` leaves its link. -/
def HostSide.takeParts (h : HostSide) (n x : Nat) : HostSide := h.setLink n { h.link n with parts := (h.link n).parts.erase x }

/-- The bytes of the line in arrival from link `n` for context `x`, and whether they cannot make a line: a packet was lost, or their
number is not that of a line of the copy which the line's frame has (R84, R93). -/
def HostSide.arrivedLine (h : HostSide) (n x : Nat) : List Byte × Bool :=
  let parts := SMap.get (fun _ => ([], false)) (h.link n).parts x
  let cfg := if (h.ctx x).inFrame = 0 && h.on (Reg.CTX_STATUS.COMMIT_PENDING x) && !h.stopped then h.ctxShadow x else (h.ctx x).active
  (parts.1, parts.2 || parts.1.length != lineBytes cfg x)

/-- The ticks `rest` remain pending at a context. -/
def HostSide.leaveTicks (h : HostSide) (x : Nat) (rest : List Nat) : HostSide := h.modCtx x fun c => { c with ticks := rest }

theorem HostSide.leaveTicks_ingest (h : HostSide) (e : Env) (x count : Nat) (rest : List Nat) (missing : Bool) (data : List Byte) :
    (((h.leaveTicks x rest).ingest e x count missing data).ctx x).ticks = rest
      ∧ (((h.leaveTicks x rest).ingest e x count missing data).ctx x).idx = (h.ctx x).idx + 1 := by
  obtain ⟨hticks, hidx⟩ := (h.leaveTicks x rest).ingest_ctx e x count missing data
  have hctx : (h.leaveTicks x rest).ctx x = { h.ctx x with ticks := rest } := h.ctx_modCtx_self x _
  rw [hticks, hidx, hctx]
  exact ⟨rfl, rfl⟩

section
variable {s : State} {n x : Nat}

section
variable (hu : s.up) (hn : n < s.variant.links) (hx : x < s.variant.ctxs) (hon : s.host.ctxOn x = true) (hlink : s.host.linkOf x = some n)
  (hpair : s.host.on (Reg.CTX_CTRL.TICK_PAIR x) = true)
include hu hn hx hon hlink hpair

theorem execPixLineComplete_extra (hticks : (s.host.ctx x).ticks = []) : exec (.pixLineComplete n x) s = .next { s with host :=
    ((s.host.takeParts n x).inc (Reg.CTX_EXTRA x) 1).settle } := by
  have hbound : ¬ (decide (s.variant.links ≤ n) || decide (s.variant.ctxs ≤ x)) = true := by simp [hn, hx]
  show execPixLineComplete n x s = _
  unfold execPixLineComplete
  rw [State.onHost_up s _ hu]
  refine congrArg (fun g : HostSide => Host.Outcome.next { s with host := g.settle }) ((if_neg hbound).trans ?_)
  refine (if_neg (show ¬ (!s.host.ctxOn x) = true by simp [hon])).trans ?_
  refine (if_neg (show ¬ (s.host.linkOf x != some n) = true by simp [hlink])).trans ?_
  refine (if_neg (show ¬ (!s.host.on (Reg.CTX_CTRL.TICK_PAIR x)) = true by simp [hpair])).trans ?_
  show (match (s.host.ctx x).ticks with | [] => _ | t :: rest => _ : HostSide) = _
  rw [hticks]
  rfl

theorem execPixLineComplete_paired {c : Nat} {rest : List Nat} (hticks : (s.host.ctx x).ticks = c :: rest) :
    exec (.pixLineComplete n x) s = .next { s with host :=
      (((s.host.takeParts n x).leaveTicks x rest).ingest s.env x c (s.host.arrivedLine n x).2
        (if (s.host.arrivedLine n x).2 then [] else (s.host.arrivedLine n x).1)).settle } := by
  have hbound : ¬ (decide (s.variant.links ≤ n) || decide (s.variant.ctxs ≤ x)) = true := by simp [hn, hx]
  show execPixLineComplete n x s = _
  unfold execPixLineComplete
  rw [State.onHost_up s _ hu]
  refine congrArg (fun g : HostSide => Host.Outcome.next { s with host := g.settle }) ((if_neg hbound).trans ?_)
  refine (if_neg (show ¬ (!s.host.ctxOn x) = true by simp [hon])).trans ?_
  refine (if_neg (show ¬ (s.host.linkOf x != some n) = true by simp [hlink])).trans ?_
  refine (if_neg (show ¬ (!s.host.on (Reg.CTX_CTRL.TICK_PAIR x)) = true by simp [hpair])).trans ?_
  show (match (s.host.ctx x).ticks with | [] => _ | t :: rest => _ : HostSide) = _
  rw [hticks]
  rfl

end

theorem execPixTickTimeout_taken {c : Nat} {rest : List Nat} (hu : s.up) (hx : x < s.variant.ctxs) (hon : s.host.ctxOn x = true)
    (hticks : (s.host.ctx x).ticks = c :: rest) :
    exec (.pixTickTimeout x) s = .next { s with host := ((s.host.leaveTicks x rest).ingest s.env x c true []).settle } := by
  show execPixTickTimeout x s = _
  unfold execPixTickTimeout
  rw [State.onHost_up s _ hu]
  refine congrArg (fun g : HostSide => Host.Outcome.next { s with host := g.settle }) ((if_neg ?_).trans ?_)
  · simp [State.env, Nat.not_le.mpr hx, hon]
  · unfold HostSide.retireTick
    rw [hticks]
    rfl

end

/-! ### A turn begins (R94) -/

theorem HostSide.pipe_setPipe_self (h : HostSide) (p : Nat) (y : Pipe) : (h.setPipe p y).pipe p = y :=
  (SMap.get_put _ _ _ _ _).trans (if_pos rfl)

/-- The order moves on to `next`; a change of context is counted. -/
def HostSide.advance (h : HostSide) (p x next : Nat) : HostSide :=
  let g := h.setPipe p { h.pipe p with pos := next }
  if (h.pipe p).last != some x && (h.pipe p).last.isSome then g.inc (Reg.PIPE_SWITCHES p) 1 else g

/-- Context `x` has its turn at pipe `p`. -/
def HostSide.startTurn (h : HostSide) (p x : Nat) : HostSide :=
  ((h.setPipe p { h.pipe p with turn := some x, whole := h.on (Reg.PIPE_CTRL.MUX p), last := some x }).set (Reg.PIPE_STATUS.CUR_CTX p) x).set
    (Reg.PIPE_STATUS.IDLE p) 0

theorem HostSide.advance_changes (h : HostSide) (p x next : Nat) (ws : List Nat) (hws : (Reg.PIPE_SWITCHES p).addr ∈ ws) :
    { h.advance p x next with regs := h.regs, pipes := h.pipes } = h ∧ (h.advance p x next).wordsBut h ws := by
  unfold HostSide.advance
  dsimp only
  split
  · exact ⟨rfl, (HostSide.wordsBut.refl h ws).set _ _ hws⟩
  · exact ⟨rfl, HostSide.wordsBut.refl h ws⟩

theorem HostSide.nextTurn_takes (h : HostSide) (p x n : Nat) (hpos : (h.pipe p).pos ≠ 0)
    (hvalid : (h.pipe p).ord (Reg.PIPE_ORDER.VALID p (h.pipe p).pos) = 1) (hx : (h.pipe p).ord (Reg.PIPE_ORDER.CTX p (h.pipe p).pos) = x)
    (hon : h.ctxOn x = true) (hpipe : h.pipeOf x = p) :
    h.nextTurn p (n + 1) = (h.advance p x
      (if (h.pipe p).ord (Reg.PIPE_CTRL.ORDER_LEN_M1 p) ≤ (h.pipe p).pos then 0 else (h.pipe p).pos + 1)).startTurn p x := by
  subst hx
  unfold HostSide.nextTurn
  rw [if_neg hpos]
  refine (if_neg (show ¬ (h.pipe p).ord (Reg.PIPE_ORDER.VALID p (h.pipe p).pos) = 0 by omega)).trans ?_
  refine (if_neg (show ¬ (!h.ctxOn _ || h.pipeOf _ != p) = true by simp [hon, hpipe])).trans ?_
  rfl

section
variable {s : State}

theorem execPipeTurnStart_taken {p : Nat} (hr : s.running) (hp : p < s.variant.pipes) (hidle : (s.host.pipe p).turn = none) :
    exec (.pipeTurnStart p) s = .next { s with host := (s.host.nextTurn p 33).settle } := by
  show execPipeTurnStart p s = _
  unfold execPipeTurnStart
  rw [State.onData_running s _ hr]
  exact congrArg (fun g : HostSide => Host.Outcome.next { s with host := g.settle }) 
    (if_neg (show ¬ (decide (s.variant.pipes ≤ p) || (s.host.pipe p).turn.isSome) = true by simp [hp, hidle]))

/-! ### Slots freed reach the pipe (R159) -/

theorem execPipeFreeNotice_taken {k i : Nat} (hr : s.running) (hk : k < 8) (hi : i < 16) :
    exec (.pipeFreeNotice k i) s = .next { s with host := (s.host.setChan k i { s.host.chan k i with
      pipeKnown := (s.host.chan k i).pipeKnown + (s.host.chan k i).pipeDue, pipeDue := 0 }).settle } := by
  show execPipeFreeNotice k i s = _
  unfold execPipeFreeNotice
  rw [State.onData_running s _ hr]
  exact congrArg (fun g : HostSide => Host.Outcome.next { s with host := g.settle }) 
    (if_neg (show ¬ (decide (8 ≤ k) || decide (16 ≤ i)) = true by simp [hk, hi]))

end

/-! ### What the commands of the ingress and of the turns do -/

theorem HostSide.chan_setChan (h : HostSide) (k i k' i' : Nat) (y : Lsc) :
    (h.setChan k i y).chan k' i' = if k' * 16 + i' = k * 16 + i then y else h.chan k' i' := SMap.get_put _ _ _ _ _

theorem HostSide.chan_congr {g h : HostSide} (e : g.lsc = h.lsc) (k i : Nat) : g.chan k i = h.chan k i := by
  unfold HostSide.chan
  rw [e]

theorem HostSide.pipe_settle (h : HostSide) (p : Nat) : h.settle.pipe p = h.pipe p := by rw [HostSide.settle_eq]; rfl

/-- A line that finds a tick takes the next place; one without is extra, and only counted (R93). -/
theorem pixLineComplete_pairs {s : State} {n x : Nat} (hu : s.up) (hn : n < s.variant.links) (hx : x < s.variant.ctxs)
    (hon : s.host.ctxOn x = true) (hlink : s.host.linkOf x = some n) (hpair : s.host.on (Reg.CTX_CTRL.TICK_PAIR x) = true) :
    (∀ c rest, (s.host.ctx x).ticks = c :: rest → ∃ t, exec (.pixLineComplete n x) s = .next t ∧ (t.host.ctx x).ticks = rest
      ∧ (t.host.ctx x).idx = (s.host.ctx x).idx + 1)
    ∧ ((s.host.ctx x).ticks = [] → ∃ t, exec (.pixLineComplete n x) s = .next t ∧ t.host.ctx x = s.host.ctx x
      ∧ t.host.counted s.host (Reg.CTX_EXTRA x)) := by
  refine ⟨fun c rest hticks => ⟨_, execPixLineComplete_paired hu hn hx hon hlink hpair hticks, ?_⟩,
    fun hticks => ⟨_, execPixLineComplete_extra hu hn hx hon hlink hpair hticks, ?_, ?_⟩⟩
  · rw [HostSide.ctx_settle]
    exact (s.host.takeParts n x).leaveTicks_ingest s.env x c rest _ _
  · rw [HostSide.ctx_settle]
    rfl
  · unfold HostSide.counted
    rw [HostSide.settle_get_ctx _ Reg.CTX_EXTRA x]
    exact HostSide.get_inc_self _ _ 1 (Nat.le_of_ble_eq_true rfl)

theorem pixTickTimeout_retires {s : State} {x c : Nat} {rest : List Nat} (hu : s.up) (hx : x < s.variant.ctxs) (hon : s.host.ctxOn x = true)
    (hticks : (s.host.ctx x).ticks = c :: rest) :
    ∃ t, exec (.pixTickTimeout x) s = .next t ∧ (t.host.ctx x).ticks = rest ∧ (t.host.ctx x).idx = (s.host.ctx x).idx + 1
      ∧ t.host.counted s.host (Reg.CTX_MISS x) ∧ t.host.get (Reg.CTX_STATUS.LINE_MISS x) = 1 := by
  refine ⟨_, execPixTickTimeout_taken hu hx hon hticks, ?_⟩
  obtain ⟨hleft, hidx⟩ := s.host.leaveTicks_ingest s.env x c rest true []
  obtain ⟨g, hg, hshown⟩ := (s.host.leaveTicks x rest).ingest_missing s.env x c
  rw [HostSide.ctx_settle]
  refine ⟨hleft, hidx, ?_, ?_⟩
  · have hcounted := g.countMiss_counted x
    unfold HostSide.counted at hcounted ⊢
    rw [HostSide.settle_get_ctx _ Reg.CTX_MISS x, hshown _ (Nat.lt_add_right _ (by decide)), hcounted, hg]
    rfl
  · rw [HostSide.settle_get_ctx _ Reg.CTX_STATUS.LINE_MISS x, hshown _ (Nat.lt_add_right _ (by decide)), HostSide.countMiss_shown]

theorem pipeTurnStart_turns {s : State} {p x : Nat} (hr : s.running) (hp : p < s.variant.pipes) (hidle : (s.host.pipe p).turn = none)
    (hpos : (s.host.pipe p).pos ≠ 0) (hvalid : (s.host.pipe p).ord (Reg.PIPE_ORDER.VALID p (s.host.pipe p).pos) = 1)
    (hx : (s.host.pipe p).ord (Reg.PIPE_ORDER.CTX p (s.host.pipe p).pos) = x) (hon : s.host.ctxOn x = true) (hpipe : s.host.pipeOf x = p) :
    ∃ t, exec (.pipeTurnStart p) s = .next t ∧ (t.host.pipe p).turn = some x ∧ t.host.get (Reg.PIPE_STATUS.CUR_CTX p) = x
      ∧ t.host.get (Reg.PIPE_STATUS.IDLE p) = 0
      ∧ s.changes t (fun g => { g with pipes := s.host.pipes }) [(Reg.PIPE_SWITCHES p).addr, (Reg.PIPE_STATUS.CUR_CTX p).addr] := by
  have hx128 : x < 2 ^ 7 := hx ▸ RF.ofWord_lt _ _
  refine ⟨_, execPipeTurnStart_taken hr hp hidle, ?_⟩
  rw [s.host.nextTurn_takes p x 32 hpos hvalid hx hon hpipe]
  obtain ⟨hback, hwords⟩ := s.host.advance_changes p x
    (if (s.host.pipe p).ord (Reg.PIPE_CTRL.ORDER_LEN_M1 p) ≤ (s.host.pipe p).pos then 0 else (s.host.pipe p).pos + 1)
    [(Reg.PIPE_SWITCHES p).addr, (Reg.PIPE_STATUS.CUR_CTX p).addr] (by simp)
  generalize s.host.advance p x _ = g at hback hwords ⊢
  refine ⟨?_, ?_, ?_, State.changes_of s _ _ _ ?_ ?_⟩
  · rw [HostSide.pipe_settle]
    exact congrArg Pipe.turn (g.pipe_setPipe_self p _)
  · rw [HostSide.settle_get_high _ _ (Nat.lt_add_right _ (by decide))]
    exact (HostSide.get_set_leaves _ _ _ _ (RF.leaves_at 0x1000 (fun _ => rfl) (fun _ => rfl) (by decide) p)).trans
      (HostSide.get_set_val _ _ _ (Nat.le_of_ble_eq_true rfl) hx128)
  · rw [HostSide.settle_get_high _ _ (Nat.lt_add_right _ (by decide))]
    exact HostSide.get_set_bit _ _ _ 0
  · exact (congrArg (fun k : HostSide => { k with vecs := s.host.vecs }) hback).trans rfl
  · exact ((show (g.setPipe p _).wordsBut s.host _ from hwords).set (Reg.PIPE_STATUS.CUR_CTX p) _ (by simp)).set
      (Reg.PIPE_STATUS.IDLE p) _ (by simp [Reg.PIPE_STATUS.IDLE, Reg.PIPE_STATUS.CUR_CTX])

theorem pipeFreeNotice_adds {s : State} {k i : Nat} (hr : s.running) (hk : k < 8) (hi : i < 16) :
    ∃ t, exec (.pipeFreeNotice k i) s = .next t ∧ s.changes t (fun g => { g with lsc := s.host.lsc }) []
      ∧ t.host.chan k i = { s.host.chan k i with pipeKnown := (s.host.chan k i).pipeKnown + (s.host.chan k i).pipeDue, pipeDue := 0 }
      ∧ ∀ k' i', k' * 16 + i' ≠ k * 16 + i → t.host.chan k' i' = s.host.chan k' i' := by
  refine ⟨_, execPipeFreeNotice_taken hr hk hi, State.changes_of s _ _ _ rfl (HostSide.wordsBut.refl s.host _), ?_, fun k' i' hne => ?_⟩
  · rw [HostSide.chan_congr (HostSide.settle_lsc _), HostSide.chan_setChan, if_pos rfl]
  · rw [HostSide.chan_congr (HostSide.settle_lsc _), HostSide.chan_setChan, if_neg hne]

end Sys2Proof.Machine

/-! SUPPORT. The passage of a line leaves the lines that wait behind it in the ingress buffer (R83, R95). -/

namespace Sys2Proof.Machine
open Sys2Proof

/-! ### Operations that leave the buffer of a context -/

/-- The lines that wait at context `x` are as before. -/
def HostSide.SameBuf (x : Nat) (h g : HostSide) : Prop := h.Leaves Ctx.buf x g

namespace HostSide.SameBuf

variable {x : Nat} {h g k : HostSide}

theorem refl (h : HostSide) : h.SameBuf x h := rfl

theorem buf (hg : h.SameBuf x g) : (g.ctx x).buf = (h.ctx x).buf := hg

theorem then_leaves (hg : h.SameBuf x g) (hk : g.Leaves Ctx.buf x k) : h.SameBuf x k := HostSide.Leaves.trans hg hk

theorem ite {p : Prop} [Decidable p] (hg : h.SameBuf x g) (hk : h.SameBuf x k) : h.SameBuf x (if p then g else k) := HostSide.Leaves.ite hg hk

theorem set (hg : h.SameBuf x g) (f : RF) (v : Nat) : h.SameBuf x (g.set f v) := hg

theorem modCtx (hg : h.SameBuf x g) {f : Ctx → Ctx} (hf : ∀ c, (f c).buf = c.buf := by intro; rfl) : h.SameBuf x (g.modCtx x f) :=
  hg.then_leaves (.modCtx g hf)

theorem modFrame (hg : h.SameBuf x g) (num : Nat) (f : PixFrame → PixFrame) : h.SameBuf x (g.modFrame x num f) := hg.modCtx

theorem setLink (hg : h.SameBuf x g) (n : Nat) (l : CxpLink) : h.SameBuf x (g.setLink n l) := hg

theorem tblKeep (hg : h.SameBuf x g) (p base : Nat) (ws : List Nat) : h.SameBuf x (g.tblKeep p base ws) := hg

theorem setChan (hg : h.SameBuf x g) (k i : Nat) (y : Lsc) : h.SameBuf x (g.setChan k i y) := hg

theorem endTurn (hg : h.SameBuf x g) (p : Nat) : h.SameBuf x (g.endTurn p) := hg

theorem countG (hg : h.SameBuf x g) (ev unit n : Nat) : h.SameBuf x (g.countG ev unit n) := hg.then_leaves (.of_logged (.countG g ev unit n))

theorem log (hg : h.SameBuf x g) (e : Env) (code unit detail addr seq : Nat) : h.SameBuf x (g.log e code unit detail addr seq) :=
  hg.then_leaves (.of_logged (.log g e code unit detail addr seq))

theorem hostWrite (hg : h.SameBuf x g) (a : Nat) (bs : List Byte) : h.SameBuf x (g.hostWrite a bs) :=
  countG (g := { g with mem := g.mem.setBytes a bs }) hg _ _ _

theorem lsPut (hg : h.SameBuf x g) (e : Env) (u off w : Nat) (bs : List Byte) (bad : List (Nat × List Byte)) :
    h.SameBuf x (g.lsPut e u off w bs bad) := hg.then_leaves (.of_landed (.lsPut g e u off w bs bad))

theorem setFails (hg : h.SameBuf x g) (gen : Nat) : h.SameBuf x (g.setFails x gen) :=
  hg.then_leaves ((congrArg Ctx.buf (g.setFails_ctx x gen)).trans rfl)

theorem foldl {ι : Type} (hg : h.SameBuf x g) (l : List ι) {f : HostSide → ι → HostSide}
    (hf : ∀ k : HostSide, h.SameBuf x k → ∀ i, h.SameBuf x (f k i)) :
    h.SameBuf x (l.foldl f g) := foldl_keeps (h.SameBuf x ·) l f g hg fun k i hk => hf k hk i

theorem issueSets (hg : h.SameBuf x g) : h.SameBuf x (g.issueSets x) := by
  unfold HostSide.issueSets
  refine hg.foldl _ fun k hk r => .ite hk ?_
  split
  · exact hk.setFails r.gen
  · exact .ite (hk.setFails r.gen) (.setLink (.modCtx hk) _ _)

theorem beginFrame (hg : h.SameBuf x g) (num : Nat) : h.SameBuf x (g.beginFrame x num) := by
  unfold HostSide.beginFrame
  dsimp only
  refine .ite hg (.ite (.modFrame hg _ _) (.ite (.set (.set (.modFrame hg _ _) (Reg.CTX_REC_DROP x) _) _ _)
    (.modFrame (.then_leaves hg (.setCtx g ?_)) _ _)))
  rfl

theorem stats (hg : h.SameBuf x g) (tap : Nat) (l : PixLine) (bad : Bool) (chans : List (List Nat)) :
    h.SameBuf x (g.stats x tap l bad chans) := by
  unfold HostSide.stats
  exact .ite hg (.modFrame hg _ _)

theorem rawOut (hg : h.SameBuf x g) (tap : Nat) (l : PixLine) (chans : List (List Nat)) : h.SameBuf x (g.rawOut x tap l chans) := by
  unfold HostSide.rawOut
  dsimp only
  split
  · exact hg
  · exact .ite hg (hg.foldl _ fun k hk c => hk.hostWrite _ _)

theorem dispOut (hg : h.SameBuf x g) (num y : Nat) (chans : List (List Nat)) : h.SameBuf x (g.dispOut x num y chans) := by
  unfold HostSide.dispOut
  dsimp only
  split
  · exact hg
  · exact .ite (.modCtx hg) (.ite (.modCtx hg) (.hostWrite (.modCtx hg) _ _))

theorem codeOut (hg : h.SameBuf x g) (num y : Nat) (chans : List (List Nat)) : h.SameBuf x (g.codeOut x num y chans) := by
  unfold HostSide.codeOut
  dsimp only
  split
  · exact hg
  · refine .ite (.modCtx (.hostWrite hg _ _)) ?_
    split
    · exact .ite (.modCtx (.hostWrite hg _ _)) (.hostWrite (.hostWrite (.modCtx (.hostWrite hg _ _)) _ _) _ _)
    · exact .hostWrite hg _ _

theorem mvOut (hg : h.SameBuf x g) (e : Env) (num stripe j : Nat) (chans : List (List Nat)) (bad : List (Nat × List Byte)) :
    h.SameBuf x (g.mvOut e x num stripe j chans bad) := by
  unfold HostSide.mvOut
  exact hg.foldl _ fun k hk d => hk.foldl _ fun k hk c => hk.lsPut _ _ _ _ _ _

theorem endFrame (hg : h.SameBuf x g) (num : Nat) (trunc : Bool) : h.SameBuf x (g.endFrame x num trunc) := by
  unfold HostSide.endFrame
  refine .modCtx ?_
  split
  · exact hg
  · exact (hg.hostWrite _ _).set _ _

theorem endStripe (hg : h.SameBuf x g) (e : Env) (f : PixFrame) (stripe : Nat) (drop trunc : Bool) (tbl : List (Nat × Bool × Bool)) (first : Nat)
    (bad : List (Nat × List Byte)) : h.SameBuf x (g.endStripe e x f stripe drop trunc tbl first bad) := by
  unfold HostSide.endStripe
  refine .modCtx (hg.foldl _ fun k hk d => ?_)
  dsimp only
  split
  · exact .setChan ((hk.lsPut _ _ _ _ _ _).lsPut _ _ _ _ _ _) _ _ _
  · exact (hk.lsPut _ _ _ _ _ _).lsPut _ _ _ _ _ _

theorem finalLine (hg : h.SameBuf x g) (e : Env) (l : PixLine) (chans : List (List Nat)) (count : Nat) (miss fill : Bool)
    (bad : List (Nat × List Byte)) : h.SameBuf x (g.finalLine e x l chans count miss fill bad) := by
  unfold HostSide.finalLine
  exact .modCtx (((hg.mvOut e _ _ _ chans bad).dispOut _ _ chans).codeOut _ _ chans)

theorem colourLine (hg : h.SameBuf x g) (e : Env) (l : PixLine) (chans : List (List Nat)) (fill : Bool) (bad : List (Nat × List Byte)) :
    h.SameBuf x (g.colourLine e x l chans fill bad) := by
  unfold HostSide.colourLine
  extract_lets cfg tbl m raw t stat filled binned c cleared out table ended
  have hbinned : h.SameBuf x binned :=
    .modCtx (.ite (.log (.modFrame (.set ((hg.rawOut 2 l m).stats 1 l _ t) (Reg.CTX_FILL x) _) _ _) _ _ _ _ _ _) ((hg.rawOut 2 l m).stats 1 l _ t))
  have hout : h.SameBuf x out := .ite hbinned (.finalLine (.modCtx hbinned) _ _ _ _ _ _ _)
  have hended : h.SameBuf x ended := .ite (.endStripe hout _ _ _ _ _ _ _ _) hout
  exact .ite (hended.endFrame _ _) hended

theorem bayerOut (hg : h.SameBuf x g) (e : Env) (south : Option (List Nat)) (bad : List (Nat × List Byte)) :
    h.SameBuf x (g.bayerOut e x south bad) := by
  unfold HostSide.bayerOut
  dsimp only
  split
  · exact hg
  · refine .colourLine (.tblKeep (.then_leaves hg (.setCtx g ?_)) _ _ _) _ _ _ _ _
    rfl

theorem throughStages (hg : h.SameBuf x g) (e : Env) (l : PixLine) (bad : List (Nat × List Byte)) : h.SameBuf x (g.throughStages e x l bad) := by
  unfold HostSide.throughStages
  extract_lets cfg d colour fill
  generalize frontStages cfg x (g.tblWord (g.pipeOf x)) l.missing l.data = front
  obtain ⟨u, f⟩ := front
  dsimp only
  have hbayer := (((hg.rawOut 0 l u).rawOut 1 l f).stats 0 l (l.missing || fill) f).bayerOut e (some (f.headD [])) bad
  clear_value fill colour
  split
  · exact .modCtx hbayer
  · exact .colourLine (.tblKeep (.tblKeep (.tblKeep (.modCtx hbayer) _ _ _) _ _ _) _ _ _) _ _ _ _ _
  · exact .colourLine hbayer _ _ _ _ _

theorem droppedTurn (hg : h.SameBuf x g) (e : Env) (l : PixLine) (bad : List (Nat × List Byte)) : h.SameBuf x (g.droppedTurn e x l bad) := by
  unfold HostSide.droppedTurn
  dsimp only
  exact .ite (.endFrame (.endStripe (.modCtx (hg.bayerOut e none bad)) _ _ _ _ _ _ _ _) _ _)
    (.endStripe (.modCtx (hg.bayerOut e none bad)) _ _ _ _ _ _ _ _)

end HostSide.SameBuf

/-! ### The passage of a line (R83, R95, R108) -/

/-- Does line `l` belong to the last stripe of a frame with the copy `cfg`? -/
def inLastStripe (cfg : SMap Word) (x : Nat) (l : PixLine) : Bool :=
  l.inFrame / cfgGet cfg (Reg.STRIPE_LINES x) + 1 == cfgGet cfg (Reg.FRAME_LINES x) / cfgGet cfg (Reg.STRIPE_LINES x)

/-- Line `l` leaves the buffer, in which `rest` remain, for the pipe: its frame begins, and with the first line of a frame's last stripe
the moment of settings requests comes (R83, R98). -/
def HostSide.enterPipe (h : HostSide) (e : Env) (x : Nat) (l : PixLine) (rest : List PixLine) (ecc : List (Nat × Ecc)) : HostSide :=
  let g := ((h.eccUses e 1 ecc).modCtx x fun c => { c with buf := rest }).beginFrame x l.frame
  if inLastStripe (h.frameOf x l.frame).cfg x l && (l.row = 0 || l.drop) then
    (g.modCtx x fun c => { c with lastBegun := max c.lastBegun (l.frame + 1) }).issueSets x else g

/-- Line `l` passes through pipe `p`, in which it keeps the unpack and the later stages busy. -/
def HostSide.runLine (h : HostSide) (e : Env) (p x : Nat) (cfg : SMap Word) (l : PixLine) (bad : List (Nat × List Byte)) : HostSide :=
  if l.drop then h.droppedTurn e x l bad
  else ((h.countG 0x21 p 1).countG 0x22 p
    (max ((planesIn cfg x * cfgGet cfg (Reg.WIDTH x) + 3) / 4) ((finalWidth cfg x + 3) / 4))).throughStages e x l bad

/-- The turn of pipe `p` ends behind line `l` where the order goes by lines of a stripe, or of a frame (R94). -/
def HostSide.leavePipe (h : HostSide) (p : Nat) (l : PixLine) : HostSide :=
  if (h.pipe p).whole then (if l.endFrame then h.endTurn p else h) else if l.endStripe || l.drop then h.endTurn p else h

theorem HostSide.enterPipe_buf (h : HostSide) (e : Env) (x : Nat) (l : PixLine) (rest : List PixLine) (ecc : List (Nat × Ecc)) :
    ((h.enterPipe e x l rest ecc).ctx x).buf = rest := by
  unfold HostSide.enterPipe
  extract_lets g
  have htaken : (((h.eccUses e 1 ecc).modCtx x fun c => { c with buf := rest }).ctx x).buf = rest := congrArg Ctx.buf (HostSide.ctx_modCtx_self _ x _)
  have hg := HostSide.SameBuf.beginFrame (.refl ((h.eccUses e 1 ecc).modCtx x fun c => { c with buf := rest })) (x := x) l.frame
  exact (HostSide.SameBuf.ite (hg.modCtx.issueSets) hg).buf.trans htaken

theorem HostSide.SameBuf.runLine {x : Nat} {h g : HostSide} (hg : h.SameBuf x g) (e : Env) (p : Nat) (cfg : SMap Word) (l : PixLine)
    (bad : List (Nat × List Byte)) : h.SameBuf x (g.runLine e p x cfg l bad) :=
  .ite (hg.droppedTurn e l bad) (.throughStages (.countG (hg.countG _ _ _) _ _ _) e l bad)

theorem HostSide.SameBuf.leavePipe {x : Nat} {h g : HostSide} (hg : h.SameBuf x g) (p : Nat) (l : PixLine) : h.SameBuf x (g.leavePipe p l) :=
  .ite (.ite (hg.endTurn p) hg) (.ite (hg.endTurn p) hg)

section
variable {s : State} {p x : Nat} {l : PixLine} {rest : List PixLine} (hr : s.running) (hp : p < s.variant.pipes)
  (hturn : (s.host.pipe p).turn = some x) (hbuf : (s.host.ctx x).buf = l :: rest) (hpass : s.host.mayPass x l = true)
  (hwhole : l.drop = true → l.counts.length = cfgGet (s.host.frameOf x l.frame).cfg (Reg.STRIPE_LINES x))
include hr hp hturn hbuf hpass hwhole

theorem execPixLineProcessed_passes (bad : List (Nat × List Byte)) (ecc : List (Nat × Ecc)) :
    exec (.pixLineProcessed p bad ecc) s = .next { s with host :=
      (((s.host.enterPipe s.env x l rest ecc).runLine s.env p x (s.host.frameOf x l.frame).cfg l bad).leavePipe p l).settle } := by
  show execPixLineProcessed p bad ecc s = _
  unfold execPixLineProcessed
  rw [State.onData_running s _ hr]
  dsimp only
  rw [hturn]
  dsimp only
  rw [hbuf]
  refine congrArg (fun g : HostSide => Host.Outcome.next { s with host := g.settle }) ((if_neg ?_).trans rfl)
  cases hd : l.drop with
  | false => simp [State.env, Nat.not_le.mpr hp, hpass]
  | true => simp [State.env, Nat.not_le.mpr hp, hpass, hwhole hd]

theorem pixLineProcessed_buf (bad : List (Nat × List Byte)) (ecc : List (Nat × Ecc)) :
    ∃ t, exec (.pixLineProcessed p bad ecc) s = .next t ∧ (t.host.ctx x).buf = rest := by
  refine ⟨_, execPixLineProcessed_passes hr hp hturn hbuf hpass hwhole bad ecc, ?_⟩
  rw [HostSide.ctx_settle]
  exact ((HostSide.SameBuf.refl _).runLine s.env p _ l bad |>.leavePipe p l).buf.trans (s.host.enterPipe_buf s.env x l rest ecc)

end

end Sys2Proof.Machine

/-! SUPPORT. What a line on its way to the formatters of its pipe changes: the settings requests it lets out, the raw image, and the
statistics of its stripe (R98, R100, R105). -/

namespace Sys2Proof.Machine
open Sys2Proof

/-! ### The frame of a line -/

theorem HostSide.frameOf_congr {g h : HostSide} {x : Nat} (e : h.Leaves Ctx.open_ x g) (num : Nat) : g.frameOf x num = h.frameOf x num := by
  unfold HostSide.frameOf
  rw [show (g.ctx x).open_ = (h.ctx x).open_ from e]

/-- A frame that was begun is one of the frames of its context, so a change of it shows. -/
theorem HostSide.frameOf_modFrame (h : HostSide) (x num : Nat) (f : PixFrame → PixFrame) (hnum : ∀ g, (f g).num = g.num)
    (hbegun : (h.frameOf x num).begun = true) : (h.modFrame x num f).frameOf x num = f (h.frameOf x num) := by
  unfold HostSide.frameOf at hbegun ⊢
  unfold HostSide.modFrame
  rw [HostSide.ctx_modCtx_self]
  dsimp only
  have hsame : (fun g : PixFrame => g.num == num) ∘ (fun g : PixFrame => if g.num == num then f g else g) = fun g => g.num == num := by
    funext g
    dsimp only [Function.comp]
    split
    · rw [hnum]
    · rfl
  rw [List.find?_map, hsame]
  cases hfind : (h.ctx x).open_.find? fun g => g.num == num with
  | none => rw [hfind] at hbegun; exact absurd hbegun (by decide)
  | some g => simp only [Option.map_some, Option.getD_some, if_pos (List.find?_some hfind)]

/-! ### On the way -/

/-- A context but for its settings requests and its frames. -/
def Ctx.inPipe (c : Ctx) : Ctx := { c with sets := [], fails := [], lastBegun := 0, open_ := [] }

/-- What a line changes before its machine-vision values are written: registers, the error log, host memory, links, and of its context the settings
requests and the frames. -/
structure HostSide.Underway (x : Nat) (h g : HostSide) : Prop where
  rest : { g with regs := h.regs, pm := h.pm, mem := h.mem, links := h.links, ctxs := h.ctxs } = h
  ctx : h.Leaves Ctx.inPipe x g
  pipe : g.pipeOf x = h.pipeOf x
  words : ∀ a, innerWord a → a ≠ 0x90008 + x * 0x400 → a ≠ 0x90224 + x * 0x400 → g.word a = h.word a

namespace HostSide.Underway

variable {x : Nat} {h g k : HostSide}

theorem refl (x : Nat) (h : HostSide) : h.Underway x h := ⟨rfl, rfl, rfl, fun _ _ _ _ => rfl⟩

theorem trans (h₁ : h.Underway x g) (h₂ : g.Underway x k) : h.Underway x k where
  rest := (congrArg (fun y : HostSide => { y with
    regs := h.regs, pm := h.pm, mem := h.mem, links := h.links, ctxs := h.ctxs }) h₂.rest).trans h₁.rest
  ctx := h₁.ctx.trans h₂.ctx
  pipe := h₂.pipe.trans h₁.pipe
  words a ha hs hq := (h₂.words a ha hs hq).trans (h₁.words a ha hs hq)

theorem ite {p : Prop} [Decidable p] (hg : h.Underway x g) (hk : h.Underway x k) : h.Underway x (if p then g else k) := by
  split
  · exact hg
  · exact hk

theorem foldl {ι : Type} (h : HostSide) (l : List ι) (f : HostSide → ι → HostSide) (hf : ∀ g : HostSide, ∀ i, g.Underway x (f g i)) :
    h.Underway x (l.foldl f h) := foldl_keeps (h.Underway x ·) l f h (refl x h) fun g i hg => hg.trans (hf g i)

theorem setCtx (h : HostSide) {c : Ctx} (hc : c.inPipe = (h.ctx x).inPipe) : h.Underway x (h.setCtx x c) :=
  ⟨rfl, .setCtx h hc, rfl, fun _ _ _ _ => rfl⟩

theorem modCtx (h : HostSide) {f : Ctx → Ctx} (hf : ∀ c, (f c).inPipe = c.inPipe) : h.Underway x (h.modCtx x f) :=
  setCtx h (hf _)

theorem then_modCtx (hg : h.Underway x g) {f : Ctx → Ctx} (hf : ∀ c, (f c).inPipe = c.inPipe := by intro; rfl) :
    h.Underway x (g.modCtx x f) := hg.trans (modCtx g hf)

theorem set (h : HostSide) (f : RF) (v : Nat) (hf : f.addr = 0x90008 + x * 0x400 ∨ f.addr = 0x90224 + x * 0x400) : h.Underway x (h.set f v) where
  rest := rfl
  ctx := rfl
  pipe := congrArg (x / 64 * 4 + ·) (HostSide.get_of_word _ _ _ (HostSide.word_set_ne h f v _ (by simp only [Reg.CTX_CTRL.PIPE]; omega)))
  words a _ hs hq := HostSide.word_set_ne h f v a (by omega)

theorem part {α : Type} {part : Ctx → α} (hg : h.Underway x g) (hp : ∀ c, part c.inPipe = part c := by intro; rfl) :
    part (g.ctx x) = part (h.ctx x) :=
  (hp _).symm.trans ((congrArg part (show (g.ctx x).inPipe = (h.ctx x).inPipe from hg.ctx)).trans (hp _))

theorem ls (hg : h.Underway x g) (u : Nat) : g.ls u = h.ls u := by
  have hstores : g.lstore = h.lstore := (congrArg HostSide.lstore hg.rest :)
  unfold HostSide.ls
  rw [hstores]

theorem tblWord (hg : h.Underway x g) : g.tblWord (g.pipeOf x) = h.tblWord (h.pipeOf x) := by
  have hpipes : g.pipes = h.pipes := (congrArg HostSide.pipes hg.rest :)
  have hpower : g.powerOns = h.powerOns := (congrArg HostSide.powerOns hg.rest :)
  funext a
  unfold HostSide.tblWord HostSide.pipe
  rw [hg.pipe, hpipes, hpower]

/-- A counter's words lie apart from CTX_CTRL of every context: its values stand elsewhere among 16 bytes, its OVF in another bit. -/
theorem countG (h : HostSide) (ev unit n : Nat) : h.Underway x (h.countG ev unit n) where
  rest := (congrArg (fun y : HostSide => { y with mem := h.mem, links := h.links, ctxs := h.ctxs }) (Logged.countG h ev unit n).rest).trans rfl
  ctx := .of_logged (.countG h ev unit n)
  pipe := by
    refine congrArg (x / 64 * 4 + ·) (foldl_keeps (fun g : HostSide => g.get (Reg.CTX_CTRL.PIPE x) = h.get (Reg.CTX_CTRL.PIPE x)) _ _ h rfl ?_)
    intro g i hg
    have hleaves (f : RF) (hf : f.fits) (ha : f.addr % 16 ≠ 0 ∨ 3 ≤ f.lo) : f.leaves (Reg.CTX_CTRL.PIPE x) :=
      ⟨hf, ha.imp (fun ha => by simp only [Reg.CTX_CTRL.PIPE]; omega) fun ha => .inr ha⟩
    have hset2 (v : Nat) : (g.set2 (Reg.GCNT_VALUE_LO i) (Reg.GCNT_VALUE_HI i) v).get (Reg.CTX_CTRL.PIPE x) = g.get (Reg.CTX_CTRL.PIPE x) :=
      HostSide.get_set2_leaves _ _ _ _ _ (hleaves _ (Nat.le_of_ble_eq_true rfl) (.inl (by simp only [Reg.GCNT_VALUE_LO]; omega)))
        (hleaves _ (Nat.le_of_ble_eq_true rfl) (.inl (by simp only [Reg.GCNT_VALUE_HI]; omega)))
    unfold HostSide.addCounter
    dsimp only
    split
    · exact (hset2 _).trans hg
    · rw [HostSide.setBits, HostSide.get_set_leaves _ _ _ _ (hleaves Reg.GAUGE_INT_STATUS (Nat.le_of_ble_eq_true rfl) (.inl (by decide))),
        HostSide.get_set_leaves _ _ _ _ (hleaves (Reg.GCNT_CFG.OVF i) (Nat.le_of_ble_eq_true rfl) (.inr (Nat.le_of_ble_eq_true rfl)))]
      exact (hset2 _).trans hg
  words a ha _ _ := (Logged.countG h ev unit n).words a ha

theorem hostWrite (h : HostSide) (a : Nat) (bs : List Byte) : h.Underway x (h.hostWrite a bs) :=
  .trans (g := { h with mem := h.mem.setBytes a bs }) ⟨rfl, rfl, rfl, fun _ _ _ _ => rfl⟩ (countG _ _ _ _)

theorem setFails (h : HostSide) (gen : Nat) : h.Underway x (h.setFails x gen) := by
  unfold HostSide.setFails HostSide.showSets
  refine ((setCtx h ?_).trans (set _ (Reg.CTX_STATUS.SET_FAIL x) 1 (.inl rfl))).trans (set _ (Reg.SET_STATUS.QUEUED x) _ (.inr rfl))
  rfl

theorem issueSets (h : HostSide) : h.Underway x (h.issueSets x) := by
  unfold HostSide.issueSets
  refine foldl h _ _ fun k r => .ite (refl x k) ?_
  have hlink (k : HostSide) (n : Nat) (y : CxpLink) : k.Underway x (k.setLink n y) := ⟨rfl, rfl, rfl, fun _ _ _ _ => rfl⟩
  split
  · exact setFails k r.gen
  · refine .ite (setFails k r.gen) ((modCtx k ?_).trans (hlink _ _ _))
    exact fun _ => rfl

theorem rawOut (h : HostSide) (tap : Nat) (l : PixLine) (chans : List (List Nat)) : h.Underway x (h.rawOut x tap l chans) := by
  unfold HostSide.rawOut
  dsimp only
  split
  · exact refl x h
  · exact .ite (refl x h) (.foldl h _ _ fun k c => hostWrite k _ _)

theorem stats (h : HostSide) (tap : Nat) (l : PixLine) (bad : Bool) (chans : List (List Nat)) : h.Underway x (h.stats x tap l bad chans) := by
  unfold HostSide.stats
  exact .ite (refl x h) (modCtx h fun _ => rfl)

end HostSide.Underway

/-! ### Frames on the way -/

theorem HostSide.issueSets_frames (h : HostSide) (x : Nat) : h.Leaves Ctx.open_ x (h.issueSets x) := by
  have hfails (k : HostSide) (gen : Nat) : k.Leaves Ctx.open_ x (k.setFails x gen) := (congrArg Ctx.open_ (k.setFails_ctx x gen)).trans rfl
  unfold HostSide.issueSets
  refine .foldl h _ _ fun k r => .ite (.refl k) ?_
  have hlink {k g : HostSide} (hg : k.Leaves Ctx.open_ x g) (n : Nat) (y : CxpLink) : k.Leaves Ctx.open_ x (g.setLink n y) := hg
  split
  · exact hfails k r.gen
  · refine .ite (hfails k r.gen) (hlink (.modCtx k ?_) _ _)
    exact fun _ => rfl

theorem HostSide.hostWrite_ctxs (h : HostSide) (a : Nat) (bs : List Byte) : (h.hostWrite a bs).ctxs = h.ctxs :=
  (congrArg HostSide.ctxs (HostSide.CyclesPassed.countG { h with mem := h.mem.setBytes a bs } 0x31 0 bs.length).rest :)

theorem HostSide.hostWrite_mem (h : HostSide) (a : Nat) (bs : List Byte) : (h.hostWrite a bs).mem = h.mem.setBytes a bs :=
  (congrArg HostSide.mem (HostSide.CyclesPassed.countG { h with mem := h.mem.setBytes a bs } 0x31 0 bs.length).rest :)

/-! ### The raw formatter (R105) -/

section
variable (h : HostSide) (x tap : Nat) (l : PixLine) (chans : List (List Nat))

theorem HostSide.rawOut_ctxs : (h.rawOut x tap l chans).ctxs = h.ctxs := by
  unfold HostSide.rawOut
  dsimp only
  split
  · rfl
  · split
    · rfl
    · exact foldl_keeps (fun k : HostSide => k.ctxs = h.ctxs) _ _ h rfl fun k c hk => (k.hostWrite_ctxs _ _).trans hk

theorem HostSide.rawOut_frame (num : Nat) : (h.rawOut x tap l chans).frameOf x num = h.frameOf x num :=
  HostSide.frameOf_congr (.of_ctxs (h.rawOut_ctxs x tap l chans)) num

theorem HostSide.rawOut_of_none (hraw : (h.frameOf x l.frame).raw = none) : h.rawOut x tap l chans = h := by
  unfold HostSide.rawOut
  dsimp only
  rw [hraw]

theorem HostSide.rawOut_other_tap (htap : cfgGet (h.frameOf x l.frame).cfg (Reg.RAW_CFG.TAP x) = 0) (ht : tap ≠ 0) :
    h.rawOut x tap l chans = h := by
  unfold HostSide.rawOut
  dsimp only
  split
  · rfl
  · exact if_pos (by simp [htap, Ne.symm ht])

/-- Bytes and address of a raw line of one plane. -/
theorem HostSide.rawOut_plane {n : Nat} (c : List Nat) (hraw : (h.frameOf x l.frame).raw = some n)
    (htap : cfgGet (h.frameOf x l.frame).cfg (Reg.RAW_CFG.TAP x) = 0) :
    h.rawOut x 0 l [c] = h.hostWrite
      (slotAt (baseOf (h.frameOf x l.frame).cfg (Reg.RAW_BASE_LO x) (Reg.RAW_BASE_HI x)) (cfgGet (h.frameOf x l.frame).cfg (Reg.RAW_SLOTS x))
          (cfgGet (h.frameOf x l.frame).cfg (Reg.RAW_PITCH x) * cfgGet (h.frameOf x l.frame).cfg (Reg.FRAME_LINES x) * 1) n
        + l.inFrame * cfgGet (h.frameOf x l.frame).cfg (Reg.RAW_PITCH x))
      (rawBytes (cfgGet (h.frameOf x l.frame).cfg (Reg.RAW_CFG.RAW8 x) == 1) c) := by
  unfold HostSide.rawOut
  dsimp only
  rw [hraw]
  refine (if_neg (by simp [htap])).trans ?_
  simp [beq_eq_decide]

/-! ### Statistics (R100) -/

variable (bad : Bool)

/-- Of the frame of a line, its statistics at most change. -/
theorem HostSide.stats_frame (hbegun : (h.frameOf x l.frame).begun = true) :
    ∃ st, (h.stats x tap l bad chans).frameOf x l.frame = { h.frameOf x l.frame with stats := st } := by
  unfold HostSide.stats
  dsimp only
  split
  · exact ⟨_, rfl⟩
  · exact ⟨_, h.frameOf_modFrame x l.frame _ (fun _ => rfl) hbegun⟩

theorem HostSide.stats_other_tap (htap : cfgGet (h.frameOf x l.frame).cfg (Reg.STATS_CFG.TAP x) = 0) (ht : tap ≠ 0) :
    h.stats x tap l bad chans = h := by
  unfold HostSide.stats
  exact if_pos (by simp [htap, Ne.symm ht])

theorem HostSide.stats_mem : (h.stats x tap l bad chans).mem = h.mem := by
  unfold HostSide.stats
  dsimp only
  split
  · rfl
  · rfl

/-- A line of one plane adds to the statistics of its stripe. -/
theorem HostSide.stats_plane (c : List Nat) (hbegun : (h.frameOf x l.frame).begun = true)
    (hen : cfgGet (h.frameOf x l.frame).cfg (Reg.STATS_CFG.EN x) = 1) (htap : cfgGet (h.frameOf x l.frame).cfg (Reg.STATS_CFG.TAP x) = 0) :
    ((h.stats x 0 l false [c]).frameOf x l.frame).stats = (h.frameOf x l.frame).stats.put l.stripe
      (addStats (h.frameOf x l.frame).cfg (SMap.get (fun _ => {}) (h.frameOf x l.frame).stats l.stripe) x 0 l.inFrame c) := by
  unfold HostSide.stats
  dsimp only
  rw [if_neg (by simp [hen, htap])]
  refine (congrArg PixFrame.stats (h.frameOf_modFrame x l.frame _ ?_ hbegun)).trans rfl
  exact fun _ => rfl

end

end Sys2Proof.Machine

/-! SUPPORT. A line of a mono frame passes through the stages of its pipe (R83 to R91, R100, R105 to R107). -/

namespace Sys2Proof.Machine
open Sys2Proof

/-! ### One plane stays one plane -/

theorem frontStages_mono (cfg : SMap Word) (x : Nat) (tbl : Nat → Nat) (missing : Bool) (data : List Byte)
    (hmono : cfgGet cfg (Reg.COLOUR x) = 0) :
    (frontStages cfg x tbl missing data).1.length = 1 ∧ (frontStages cfg x tbl missing data).2.length = 1 := by
  have hone : planesIn cfg x = 1 := by simp [planesIn, hmono]
  unfold frontStages
  extract_lets w n raw u es d base f
  have hu : u.length = 1 := by simp [u, n, toPlanes, hone]
  have hd : d.length = 1 := by
    dsimp only [d]
    split
    · rw [fixDefects, List.length_mapIdx, hu]
    · exact hu
  refine ⟨hu, ?_⟩
  dsimp only [f]
  split
  · rw [List.length_mapIdx, hd]
  · exact hd

theorem lutLine_length (cfg : SMap Word) (x : Nat) (tbl : Nat → Nat) (l : List (List Nat)) : (lutLine cfg x tbl l).length = l.length := by
  unfold lutLine
  split
  · rfl
  · exact List.length_mapIdx

theorem binLines_length (cfg : SMap Word) (x : Nat) (t : List (List Nat)) : (binLines cfg x [t]).length = t.length := by
  simp [binLines]

/-- A list of one element is made of its head. -/
theorem eq_singleton_head {α : Type} {l : List α} (h : l.length = 1) (d : α) : l = [l.headD d] := by
  obtain ⟨a, rfl⟩ := List.length_eq_one_iff.mp h
  rfl

/-! ### Up to the formatters -/

section
variable (k : HostSide) (x : Nat) (l : PixLine) (u f : List Nat) (t : List (List Nat))

/-- What the raw formatter and the statistics make of a line of one plane: `u` after unpack, `f` after flat field and colour, `t` behind
the LUT. -/
def HostSide.monoTaps : HostSide :=
  ((((k.rawOut x 0 l [u]).rawOut x 1 l [f]).stats x 0 l l.missing [f]).rawOut x 2 l [f]).stats x 1 l l.missing t

theorem HostSide.monoTaps_underway : k.Underway x (k.monoTaps x l u f t) :=
  ((((HostSide.Underway.rawOut k 0 l [u]).trans (.rawOut _ 1 l [f])).trans (.stats _ 0 l l.missing [f])).trans (.rawOut _ 2 l [f])).trans
    (.stats _ 1 l l.missing t)

variable (hbegun : (k.frameOf x l.frame).begun = true)
include hbegun

theorem HostSide.stats_frame_raw (tap : Nat) : ∃ st,
    (((k.rawOut x 0 l [u]).rawOut x 1 l [f]).stats x tap l l.missing [f]).frameOf x l.frame = { k.frameOf x l.frame with stats := st } := by
  have hframe : ((k.rawOut x 0 l [u]).rawOut x 1 l [f]).frameOf x l.frame = k.frameOf x l.frame := by
    rw [HostSide.rawOut_frame, HostSide.rawOut_frame]
  have hst := HostSide.stats_frame ((k.rawOut x 0 l [u]).rawOut x 1 l [f]) x tap l [f] l.missing (by rw [hframe]; exact hbegun)
  rwa [hframe] at hst

/-- Of the frame of a line, nothing but statistics has changed. -/
theorem HostSide.monoTaps_frame : ∃ st, (k.monoTaps x l u f t).frameOf x l.frame = { k.frameOf x l.frame with stats := st } := by
  obtain ⟨st, hst⟩ := k.stats_frame_raw x l u f hbegun 0
  unfold HostSide.monoTaps
  obtain ⟨st', hst'⟩ := HostSide.stats_frame ((((k.rawOut x 0 l [u]).rawOut x 1 l [f]).stats x 0 l l.missing [f]).rawOut x 2 l [f]) x 1 l t
    l.missing (by rw [HostSide.rawOut_frame, hst]; exact hbegun)
  refine ⟨st', ?_⟩
  rw [hst', HostSide.rawOut_frame, hst]

theorem HostSide.monoTaps_mem_of_none (hraw : (k.frameOf x l.frame).raw = none) : (k.monoTaps x l u f t).mem = k.mem := by
  obtain ⟨st, hst⟩ := k.stats_frame_raw x l u f hbegun 0
  unfold HostSide.monoTaps
  rw [HostSide.stats_mem, HostSide.rawOut_of_none _ x 2 l _ (by rw [hst]; exact hraw), HostSide.stats_mem,
    HostSide.rawOut_of_none _ x 1 l _ (by rw [HostSide.rawOut_frame]; exact hraw), HostSide.rawOut_of_none _ x 0 l _ hraw]

/-- The raw image gets its row, where it is taken behind unpack. -/
theorem HostSide.monoTaps_mem_of_raw {n : Nat} (hraw : (k.frameOf x l.frame).raw = some n)
    (htap : cfgGet (k.frameOf x l.frame).cfg (Reg.RAW_CFG.TAP x) = 0) :
    (k.monoTaps x l u f t).mem = k.mem.setBytes
      (slotAt (baseOf (k.frameOf x l.frame).cfg (Reg.RAW_BASE_LO x) (Reg.RAW_BASE_HI x)) (cfgGet (k.frameOf x l.frame).cfg (Reg.RAW_SLOTS x))
          (cfgGet (k.frameOf x l.frame).cfg (Reg.RAW_PITCH x) * cfgGet (k.frameOf x l.frame).cfg (Reg.FRAME_LINES x) * 1) n
        + l.inFrame * cfgGet (k.frameOf x l.frame).cfg (Reg.RAW_PITCH x))
      (rawBytes (cfgGet (k.frameOf x l.frame).cfg (Reg.RAW_CFG.RAW8 x) == 1) u) := by
  obtain ⟨st, hst⟩ := k.stats_frame_raw x l u f hbegun 0
  unfold HostSide.monoTaps
  rw [HostSide.stats_mem, HostSide.rawOut_other_tap _ x 2 l _ (by rw [hst]; exact htap) (by decide), HostSide.stats_mem,
    HostSide.rawOut_other_tap _ x 1 l _ (by rw [HostSide.rawOut_frame]; exact htap) (by decide), HostSide.rawOut_plane _ x l u hraw htap,
    HostSide.hostWrite_mem]

/-- The stripe's statistics count the line, where they are taken before colour. -/
theorem HostSide.monoTaps_stats (hen : cfgGet (k.frameOf x l.frame).cfg (Reg.STATS_CFG.EN x) = 1)
    (htap : cfgGet (k.frameOf x l.frame).cfg (Reg.STATS_CFG.TAP x) = 0) (hmiss : l.missing = false) :
    ((k.monoTaps x l u f t).frameOf x l.frame).stats = (k.frameOf x l.frame).stats.put l.stripe
      (addStats (k.frameOf x l.frame).cfg (SMap.get (fun _ => {}) (k.frameOf x l.frame).stats l.stripe) x 0 l.inFrame f) := by
  have hframe : ((k.rawOut x 0 l [u]).rawOut x 1 l [f]).frameOf x l.frame = k.frameOf x l.frame := by
    rw [HostSide.rawOut_frame, HostSide.rawOut_frame]
  obtain ⟨st, hst⟩ := k.stats_frame_raw x l u f hbegun 0
  unfold HostSide.monoTaps
  rw [HostSide.stats_other_tap _ x 1 l _ _ (by rw [HostSide.rawOut_frame, hst]; exact htap) (by decide), HostSide.rawOut_frame, hmiss,
    HostSide.stats_plane _ x l f (by rw [hframe]; exact hbegun) (by rw [hframe]; exact hen) (by rw [hframe]; exact htap), hframe]

end

/-! ### The formatters -/

theorem HostSide.mvOut_mono (h : HostSide) (e : Env) (x num stripe j : Nat) (v : List Nat) (bad : List (Nat × List Byte)) {cfg : SMap Word}
    (hcfg : (h.frameOf x num).cfg = cfg) (hdest : dests cfg x = [0]) :
    h.mvOut e x num stripe j [v] bad = h.lsPut e (cfgGet cfg (Reg.DEST_CLU x 0))
      (destSlot cfg x 0 stripe + 64 + tableBytes cfg x + j * destPitch cfg x 0) 0
      (mvRow (cfgGet cfg (Reg.MV_CFG.TFMT x)) (cfgGet cfg (Reg.SCALE x 0)) (cfgGet cfg (Reg.BIAS x 0)) (cfgGet cfg (Reg.COL_START x 0))
        (destCols cfg x 0) v) bad := by
  unfold HostSide.mvOut
  dsimp only
  rw [hcfg, hdest]
  simp

theorem HostSide.dispOut_of_none (h : HostSide) (x num y : Nat) (chans : List (List Nat)) (hd : (h.frameOf x num).disp = none) :
    h.dispOut x num y chans = h := by
  unfold HostSide.dispOut
  dsimp only
  rw [hd]

theorem HostSide.codeOut_of_none (h : HostSide) (x num y : Nat) (chans : List (List Nat)) (hc : (h.frameOf x num).code = none) :
    h.codeOut x num y chans = h := by
  unfold HostSide.codeOut
  dsimp only
  rw [hc]

/-- A row of the line table. -/
def Ctx.tabled (c : Ctx) (count : Nat) (miss fill : Bool) : Ctx := { c with table := c.table ++ [(count, miss, fill)] }

theorem HostSide.finalLine_mono (h : HostSide) (e : Env) (x : Nat) (l : PixLine) (v : List Nat) (count : Nat) (miss fill : Bool)
    (bad : List (Nat × List Byte)) {cfg : SMap Word} (hcfg : (h.frameOf x l.frame).cfg = cfg) (hdest : dests cfg x = [0])
    (hd : (h.frameOf x l.frame).disp = none) (hc : (h.frameOf x l.frame).code = none) :
    h.finalLine e x l [v] count miss fill bad = (h.lsPut e (cfgGet cfg (Reg.DEST_CLU x 0))
      (destSlot cfg x 0 l.stripe + 64 + tableBytes cfg x + (h.ctx x).table.length * destPitch cfg x 0) 0
      (mvRow (cfgGet cfg (Reg.MV_CFG.TFMT x)) (cfgGet cfg (Reg.SCALE x 0)) (cfgGet cfg (Reg.BIAS x 0)) (cfgGet cfg (Reg.COL_START x 0))
        (destCols cfg x 0) v) bad).modCtx x fun c => c.tabled count miss fill := by
  unfold HostSide.finalLine
  dsimp only
  rw [h.mvOut_mono e x l.frame l.stripe _ v bad hcfg hdest]
  have hframe (u off w : Nat) (bs : List Byte) : (h.lsPut e u off w bs bad).frameOf x l.frame = h.frameOf x l.frame :=
    HostSide.frameOf_congr (.of_landed (.lsPut _ _ _ _ _ _ _)) _
  rw [HostSide.dispOut_of_none _ _ _ _ _ (by rw [hframe]; exact hd), HostSide.codeOut_of_none _ _ _ _ _ (by rw [hframe]; exact hc)]
  rfl

/-! ### The whole passage -/

/-- A context whose bin takes one more line, and one whose bin is emptied (R91). -/
def Ctx.binned (c : Ctx) (t : List (List Nat)) (l : PixLine) : Ctx :=
  { c with bin := c.bin ++ [t], binBad := (c.binBad.1 || l.missing, c.binBad.2 || false), binCount := if c.bin.isEmpty then l.count else c.binCount }
def Ctx.unbinned (c : Ctx) : Ctx := { c with bin := [], binBad := (false, false) }

/-- The bin takes the line and, of one line alone, empties at once. -/
def HostSide.binOne (h : HostSide) (x : Nat) (l : PixLine) (t : List (List Nat)) : HostSide :=
  (h.modCtx x fun c => c.binned t l).modCtx x Ctx.unbinned

theorem HostSide.colourLine_mono (g : HostSide) (e : Env) (x : Nat) (l : PixLine) (f : List Nat) (bad : List (Nat × List Byte)) {cfg : SMap Word}
    {t : List (List Nat)} (hcfg : (g.frameOf x l.frame).cfg = cfg) (ht : lutLine cfg x (g.tblWord (g.pipeOf x)) [f] = t)
    (hby : cfgGet cfg (Reg.BY x) = 0) (hbin : (g.ctx x).bin = []) (hbad : (g.ctx x).binBad = (false, false))
    (hes : l.endStripe = false) (hef : l.endFrame = false) :
    g.colourLine e x l [f] false bad = (((g.rawOut x 2 l [f]).stats x 1 l l.missing t).binOne x l t).finalLine e x l (binLines cfg x [t])
      l.count l.missing false bad := by
  subst hcfg
  have hstat : g.Underway x ((g.rawOut x 2 l [f]).stats x 1 l l.missing t) := (HostSide.Underway.rawOut g 2 l [f]).trans (.stats _ 1 l l.missing t)
  have hbin' : (((g.rawOut x 2 l [f]).stats x 1 l l.missing t).ctx x).bin = [] := (hstat.part (part := Ctx.bin)).trans hbin
  have hbad' : (((g.rawOut x 2 l [f]).stats x 1 l l.missing t).ctx x).binBad = (false, false) := (hstat.part (part := Ctx.binBad)).trans hbad
  have hcur : (((g.rawOut x 2 l [f]).stats x 1 l l.missing t).modCtx x fun c => c.binned t l).ctx x
      = { ((g.rawOut x 2 l [f]).stats x 1 l l.missing t).ctx x with bin := [t], binBad := (l.missing, false), binCount := l.count } := by
    rw [HostSide.ctx_modCtx_self]
    unfold Ctx.binned
    rw [hbin', hbad']
    simp
  unfold HostSide.colourLine
  extract_lets cfg tbl m raw t' stat filled binned c cleared out table ended
  have ht' : t' = t := ht
  have hstat' : stat = (g.rawOut x 2 l [f]).stats x 1 l l.missing t := by
    show (g.rawOut x 2 l [f]).stats x 1 l (l.missing || false) t' = _
    rw [Bool.or_false, ht']
  have hbinned : binned = ((g.rawOut x 2 l [f]).stats x 1 l l.missing t).modCtx x fun c => c.binned t l := by
    rw [← hstat', ← ht']
    exact congrArg (fun k : HostSide => k.modCtx x fun c => c.binned t' l) (if_neg (by decide))
  have hc : c = _ := (congrArg (fun k : HostSide => k.ctx x) hbinned).trans hcur
  refine (if_neg (by simp [hef])).trans ((if_neg (by simp [hes])).trans ((if_neg ?_).trans ?_))
  · rw [hc, hby]
    exact Nat.lt_irrefl 1
  · rw [hc]
    show (binned.modCtx x Ctx.unbinned).finalLine e x l _ _ _ _ bad = _
    rw [hbinned]
    rfl

theorem HostSide.bayerOut_of_none (h : HostSide) (e : Env) (x : Nat) (south : Option (List Nat)) (bad : List (Nat × List Byte))
    (hbay : (h.ctx x).bayCur = none) : h.bayerOut e x south bad = h := by
  unfold HostSide.bayerOut
  dsimp only
  rw [hbay]

/-- The stages of a line of one plane, where no Bayer line waits (R83, R88). -/
theorem HostSide.throughStages_mono (k : HostSide) (e : Env) (x : Nat) (l : PixLine) (u f : List Nat) (bad : List (Nat × List Byte))
    {cfg : SMap Word} (hcfg : (k.frameOf x l.frame).cfg = cfg) (hmono : cfgGet cfg (Reg.COLOUR x) = 0) (hbay : (k.ctx x).bayCur = none)
    (hfront : frontStages cfg x (k.tblWord (k.pipeOf x)) l.missing l.data = ([u], [f])) :
    k.throughStages e x l bad
      = (((k.rawOut x 0 l [u]).rawOut x 1 l [f]).stats x 0 l l.missing [f]).colourLine e x l [f] false bad := by
  subst hcfg
  have hbay' : ((((k.rawOut x 0 l [u]).rawOut x 1 l [f]).stats x 0 l l.missing [f]).ctx x).bayCur = none :=
    ((((HostSide.Underway.rawOut k 0 l [u]).trans (.rawOut _ 1 l [f])).trans (.stats _ 0 l l.missing [f])).part (part := Ctx.bayCur)).trans hbay
  unfold HostSide.throughStages
  extract_lets cfg d colour fill
  have hcolour : colour = 0 := hmono
  have hfill : fill = false := by
    dsimp only [fill]
    rw [hcolour]
    rfl
  rw [show frontStages cfg x (k.tblWord (k.pipeOf x)) l.missing l.data = _ from hfront]
  dsimp only
  rw [hcolour, hfill, Bool.or_false, HostSide.bayerOut_of_none _ _ _ _ _ hbay']
  rfl

/-! ### What the passage of a mono line leaves (R83, R106) -/

section
variable (k : HostSide) (e : Env) (x : Nat) (l : PixLine) (cfg : SMap Word) (u f t v : List (List Nat)) (bad : List (Nat × List Byte))

/-- The state behind the taps, with the bin emptied: the final line `v` is next. -/
def HostSide.beforeFinal : HostSide := (k.monoTaps x l (u.headD []) (f.headD []) t).binOne x l t

variable (hcfg : (k.frameOf x l.frame).cfg = cfg) (hbegun : (k.frameOf x l.frame).begun = true)
  (hdisp : (k.frameOf x l.frame).disp = none) (hcode : (k.frameOf x l.frame).code = none)
  (hmono : cfgGet cfg (Reg.COLOUR x) = 0) (hby : cfgGet cfg (Reg.BY x) = 0) (hbay : (k.ctx x).bayCur = none) (hbin : (k.ctx x).bin = [])
  (hbad : (k.ctx x).binBad = (false, false)) (hdest : dests cfg x = [0]) (hes : l.endStripe = false) (hef : l.endFrame = false)
  (hfront : (u, f) = frontStages cfg x (k.tblWord (k.pipeOf x)) l.missing l.data)
  (ht : t = lutLine cfg x (k.tblWord (k.pipeOf x)) f) (hv : v = binLines cfg x [t])

theorem HostSide.beforeFinal_frame : (k.beforeFinal x l u f t).frameOf x l.frame
    = (k.monoTaps x l (u.headD []) (f.headD []) t).frameOf x l.frame :=
  HostSide.frameOf_congr (((HostSide.Leaves.refl (part := Ctx.open_) _).then_modCtx).then_modCtx) _

theorem HostSide.beforeFinal_table : ((k.beforeFinal x l u f t).ctx x).table = (k.ctx x).table :=
  have htaps : k.Leaves Ctx.table x (k.monoTaps x l (u.headD []) (f.headD []) t) := (k.monoTaps_underway x l (u.headD []) (f.headD []) t).part
  (htaps.then_modCtx).then_modCtx

include hcfg hbegun hdisp hcode hmono hby hbay hbin hbad hdest hes hef hfront ht hv in
/-- One row of machine-vision values goes to the line store, and one row to the line table. -/
theorem HostSide.throughStages_writes : k.throughStages e x l bad
    = ((k.beforeFinal x l u f t).lsPut e (cfgGet cfg (Reg.DEST_CLU x 0))
      (destSlot cfg x 0 l.stripe + 64 + tableBytes cfg x + (k.ctx x).table.length * destPitch cfg x 0) 0
      (mvRow (cfgGet cfg (Reg.MV_CFG.TFMT x)) (cfgGet cfg (Reg.SCALE x 0)) (cfgGet cfg (Reg.BIAS x 0)) (cfgGet cfg (Reg.COL_START x 0))
        (destCols cfg x 0) (v.headD [])) bad).modCtx x fun c => c.tabled l.count l.missing false := by
  obtain ⟨hu1, hf1⟩ := frontStages_mono cfg x (k.tblWord (k.pipeOf x)) l.missing l.data hmono
  rw [← hfront] at hu1 hf1
  have hu := eq_singleton_head hu1 []
  have hf := eq_singleton_head hf1 []
  have hv1 := eq_singleton_head (show v.length = 1 by rw [hv, binLines_length, ht, lutLine_length, hf1]) []
  have htaps := (((HostSide.Underway.rawOut k 0 l [u.headD []]).trans (.rawOut _ 1 l [f.headD []])).trans
    (.stats _ 0 l l.missing [f.headD []]) : k.Underway x _)
  obtain ⟨st, hst⟩ := k.stats_frame_raw x l (u.headD []) (f.headD []) hbegun 0
  obtain ⟨st', hst'⟩ := k.monoTaps_frame x l (u.headD []) (f.headD []) t hbegun
  rw [k.throughStages_mono e x l (u.headD []) (f.headD []) bad hcfg hmono hbay (by rw [← hfront, ← hu, ← hf]),
    HostSide.colourLine_mono _ e x l (f.headD []) bad (cfg := cfg) (t := t) (by rw [hst]; exact hcfg)
      (by rw [htaps.tblWord, ← hf, ht]) hby ((htaps.part (part := Ctx.bin)).trans hbin) ((htaps.part (part := Ctx.binBad)).trans hbad) hes hef,
    ← hv, hv1]
  have hframe := (k.beforeFinal_frame x l u f t).trans hst'
  rw [← k.beforeFinal_table x l u f t]
  exact (k.beforeFinal x l u f t).finalLine_mono e x l (v.headD []) l.count l.missing false bad (by rw [hframe]; exact hcfg) hdest
    (by rw [hframe]; exact hdisp) (by rw [hframe]; exact hcode)

end

/-! ### A line enters the pipe, its frame begun (R98) -/

theorem HostSide.issueSets_mem (h : HostSide) (x : Nat) : (h.issueSets x).mem = h.mem := by
  unfold HostSide.issueSets
  refine foldl_keeps (fun k : HostSide => k.mem = h.mem) _ _ h rfl fun k r hk => ?_
  dsimp only
  split
  · exact hk
  · split
    · exact hk
    · split
      · exact hk
      · exact hk

/-- The lines `rest` remain in the buffer of a context. -/
def HostSide.leaveBuf (h : HostSide) (x : Nat) (rest : List PixLine) : HostSide := h.modCtx x fun c => { c with buf := rest }

section
variable (h : HostSide) (e : Env) (x : Nat) (l : PixLine) (rest : List PixLine) (hbegun : (h.frameOf x l.frame).begun = true)
include hbegun

theorem HostSide.enterPipe_begun : h.enterPipe e x l rest [] =
    if inLastStripe (h.frameOf x l.frame).cfg x l && (l.row = 0 || l.drop) then
      ((h.leaveBuf x rest).modCtx x fun c => { c with lastBegun := max c.lastBegun (l.frame + 1) }).issueSets x else h.leaveBuf x rest := by
  have hframe : (h.leaveBuf x rest).frameOf x l.frame = h.frameOf x l.frame := HostSide.frameOf_congr (HostSide.Leaves.refl h).then_modCtx _
  have hbegin : (h.leaveBuf x rest).beginFrame x l.frame = h.leaveBuf x rest := if_pos (by rw [hframe]; exact hbegun)
  unfold HostSide.enterPipe
  rw [show (h.eccUses e 1 []).modCtx x (fun c => { c with buf := rest }) = h.leaveBuf x rest from rfl, hbegin]

theorem HostSide.enterPipe_underway : (h.leaveBuf x rest).Underway x (h.enterPipe e x l rest []) := by
  rw [h.enterPipe_begun e x l rest hbegun]
  exact .ite ((HostSide.Underway.refl x _).then_modCtx.trans (.issueSets _)) (.refl x _)

theorem HostSide.enterPipe_frame : (h.enterPipe e x l rest []).frameOf x l.frame = h.frameOf x l.frame := by
  rw [h.enterPipe_begun e x l rest hbegun]
  have hleft : h.Leaves Ctx.open_ x (h.leaveBuf x rest) := (HostSide.Leaves.refl h).then_modCtx
  refine HostSide.frameOf_congr (hleft.trans ?_) _
  exact .ite ((HostSide.Leaves.refl _).then_modCtx.trans (HostSide.issueSets_frames _ x)) (.refl _)

theorem HostSide.enterPipe_mem : (h.enterPipe e x l rest []).mem = h.mem := by
  rw [h.enterPipe_begun e x l rest hbegun]
  split
  · exact HostSide.issueSets_mem _ x
  · rfl

end

end Sys2Proof.Machine

/-! SUPPORT. What a mono line and a dropped stripe leave when they have passed (R95, R100 to R102, R105 to R108). -/

namespace Sys2Proof.Machine
open Sys2Proof

theorem HostSide.ls_settle (h : HostSide) (u : Nat) : h.settle.ls u = h.ls u := by rw [HostSide.settle_eq]; rfl

theorem HostSide.mem_settle (h : HostSide) : h.settle.mem = h.mem := by rw [HostSide.settle_eq]

theorem HostSide.frameOf_settle (h : HostSide) (x num : Nat) : h.settle.frameOf x num = h.frameOf x num := by rw [HostSide.settle_eq]; rfl

theorem HostSide.ls_modCtx (h : HostSide) (x : Nat) (f : Ctx → Ctx) (u : Nat) : (h.modCtx x f).ls u = h.ls u := rfl

theorem HostSide.mem_modCtx (h : HostSide) (x : Nat) (f : Ctx → Ctx) : (h.modCtx x f).mem = h.mem := rfl

/-! ### The row of a mono line (R100, R105, R106) -/

/-- What a row leaves that goes to the line store, with its row of the line table. -/
def HostSide.putRow (h : HostSide) (e : Env) (x clu off : Nat) (row : List Byte) (count : Nat) (miss : Bool) : HostSide :=
  (h.lsPut e clu off 0 row []).modCtx x fun c => c.tabled count miss false

section
variable (h : HostSide) (e : Env) (x clu off : Nat) (row : List Byte) (count : Nat) (miss : Bool)

theorem HostSide.putRow_read : ((h.putRow e x clu off row count miss).ls clu).read off row.length = row := by
  unfold HostSide.putRow
  rw [HostSide.ls_modCtx, HostSide.lsPut_read]

theorem HostSide.putRow_apart {a : Nat} (ha : a < off ∨ off + row.length ≤ a) :
    ((h.putRow e x clu off row count miss).ls clu).mem.byte a = (h.ls clu).mem.byte a := by
  unfold HostSide.putRow
  rw [HostSide.ls_modCtx, HostSide.lsPut_apart _ _ _ _ _ _ ha]

theorem HostSide.putRow_table : ((h.putRow e x clu off row count miss).ctx x).table = (h.ctx x).table ++ [(count, miss, false)] := by
  unfold HostSide.putRow
  rw [HostSide.ctx_modCtx_self, HostSide.ctx_congr (HostSide.Landed.lsPut _ _ _ _ _ _ _).ctxs]
  rfl

theorem HostSide.putRow_mem : (h.putRow e x clu off row count miss).mem = h.mem := by
  unfold HostSide.putRow
  rw [HostSide.mem_modCtx, (HostSide.Landed.lsPut _ _ _ _ _ _ _).mem]

theorem HostSide.putRow_frame (num : Nat) : (h.putRow e x clu off row count miss).frameOf x num = h.frameOf x num :=
  HostSide.frameOf_congr ((HostSide.Leaves.of_landed (.lsPut _ _ _ _ _ _ _)).then_modCtx) num

end

/-! ### A line within its stripe (R83, R94) -/

/-- A line that ends neither its stripe nor its frame leaves the turn as it is. -/
theorem HostSide.leavePipe_of_within (h : HostSide) (p : Nat) {l : PixLine} (hd : l.drop = false) (hes : l.endStripe = false)
    (hef : l.endFrame = false) : h.leavePipe p l = h := by
  unfold HostSide.leavePipe
  rw [hd, hes, hef]
  split
  · rfl
  · rfl

/-- A line has entered the pipe and is on its way, its cycles counted. -/
def HostSide.inStages (h : HostSide) (e : Env) (p x : Nat) (cfg : SMap Word) (l : PixLine) (rest : List PixLine) : HostSide :=
  ((h.enterPipe e x l rest []).countG 0x21 p 1).countG 0x22 p
    (max ((planesIn cfg x * cfgGet cfg (Reg.WIDTH x) + 3) / 4) ((finalWidth cfg x + 3) / 4))

section
variable (h : HostSide) (e : Env) (p x : Nat) (cfg : SMap Word) (l : PixLine) (rest : List PixLine) (hbegun : (h.frameOf x l.frame).begun = true)
include hbegun

theorem HostSide.inStages_underway : (h.leaveBuf x rest).Underway x (h.inStages e p x cfg l rest) :=
  ((h.enterPipe_underway e x l rest hbegun).trans (.countG _ _ _ _)).trans (.countG _ _ _ _)

theorem HostSide.inStages_frame : (h.inStages e p x cfg l rest).frameOf x l.frame = h.frameOf x l.frame :=
  (HostSide.frameOf_congr ((HostSide.Leaves.of_logged (.countG _ _ _ _)).trans (.of_logged (.countG _ _ _ _))) _).trans
    (h.enterPipe_frame e x l rest hbegun)

/-- Of its context nothing but the buffer, the settings requests and the frames has changed. -/
theorem HostSide.inStages_part {α : Type} {part : Ctx → α} (hp : ∀ c, part c.inPipe = part c := by intro; rfl)
    (hb : ∀ c b, part { c with buf := b } = part c := by intros; rfl) : part ((h.inStages e p x cfg l rest).ctx x) = part (h.ctx x) :=
  ((h.inStages_underway e p x cfg l rest hbegun).part hp).trans ((congrArg part (h.ctx_modCtx_self x _)).trans (hb _ rest))

theorem HostSide.inStages_mem : (h.inStages e p x cfg l rest).mem = h.mem :=
  have hcount (k : HostSide) (ev n : Nat) : (k.countG ev p n).mem = k.mem := (congrArg HostSide.mem (HostSide.Logged.countG k ev p n).rest :)
  ((hcount _ _ _).trans (hcount _ _ _)).trans (h.enterPipe_mem e x l rest hbegun)

end

section
variable {s : State} {p x off : Nat} {l : PixLine} {rest : List PixLine} {fr : PixFrame} {cfg : SMap Word} {u f final : List (List Nat)}
  {row : List Byte} (hr : s.running) (hp : p < s.variant.pipes) (hturn : (s.host.pipe p).turn = some x)
  (hbuf : (s.host.ctx x).buf = l :: rest) (hpass : s.host.mayPass x l = true) (hfr : s.host.frameOf x l.frame = fr)
  (hbegun : fr.begun = true) (hcfg : fr.cfg = cfg)

include hr hp hturn hbuf hpass hfr hbegun hcfg in
theorem pixLineProcessed_mono (hd : l.drop = false) (hes : l.endStripe = false) (hef : l.endFrame = false) (hdisp : fr.disp = none)
    (hcode : fr.code = none) (hmono : cfgGet cfg (Reg.COLOUR x) = 0) (hby : cfgGet cfg (Reg.BY x) = 0) (hbay : (s.host.ctx x).bayCur = none)
    (hbin : (s.host.ctx x).bin = []) (hbad : (s.host.ctx x).binBad = (false, false)) (hdest : dests cfg x = [0])
    (hfront : (u, f) = frontStages cfg x (s.host.tblWord (s.host.pipeOf x)) l.missing l.data)
    (hfinal : final = binLines cfg x [lutLine cfg x (s.host.tblWord (s.host.pipeOf x)) f])
    (hoff : off = destSlot cfg x 0 l.stripe + 64 + tableBytes cfg x + (s.host.ctx x).table.length * destPitch cfg x 0)
    (hrow : row = mvRow (cfgGet cfg (Reg.MV_CFG.TFMT x)) (cfgGet cfg (Reg.SCALE x 0)) (cfgGet cfg (Reg.BIAS x 0))
      (cfgGet cfg (Reg.COL_START x 0)) (destCols cfg x 0) (final.headD [])) :
    ∃ t, exec (.pixLineProcessed p [] []) s = .next t
      ∧ (t.host.ls (cfgGet cfg (Reg.DEST_CLU x 0))).read off row.length = row
      ∧ (∀ a, (a < off ∨ off + row.length ≤ a) → (t.host.ls (cfgGet cfg (Reg.DEST_CLU x 0))).mem.byte a
          = (s.host.ls (cfgGet cfg (Reg.DEST_CLU x 0))).mem.byte a)
      ∧ (t.host.ctx x).table = (s.host.ctx x).table ++ [(l.count, l.missing, false)]
      ∧ (fr.raw = none → t.host.mem = s.host.mem)
      ∧ (∀ n, fr.raw = some n → cfgGet cfg (Reg.RAW_CFG.TAP x) = 0 → ∀ a bs,
          a = slotAt (baseOf cfg (Reg.RAW_BASE_LO x) (Reg.RAW_BASE_HI x)) (cfgGet cfg (Reg.RAW_SLOTS x))
              (cfgGet cfg (Reg.RAW_PITCH x) * cfgGet cfg (Reg.FRAME_LINES x) * 1) n + l.inFrame * cfgGet cfg (Reg.RAW_PITCH x) →
          bs = rawBytes (cfgGet cfg (Reg.RAW_CFG.RAW8 x) == 1) (u.headD []) → t.host.hostRead a bs.length = bs)
      ∧ (cfgGet cfg (Reg.STATS_CFG.EN x) = 1 → cfgGet cfg (Reg.STATS_CFG.TAP x) = 0 → l.missing = false →
          (t.host.frameOf x l.frame).stats = fr.stats.put l.stripe
            (addStats cfg (SMap.get (fun _ => {}) fr.stats l.stripe) x 0 l.inFrame (f.headD []))) := by
  subst hcfg hfr
  have hway := s.host.inStages_underway s.env p x (s.host.frameOf x l.frame).cfg l rest hbegun
  have hframe := s.host.inStages_frame s.env p x (s.host.frameOf x l.frame).cfg l rest hbegun
  have hmem := s.host.inStages_mem s.env p x (s.host.frameOf x l.frame).cfg l rest hbegun
  generalize hk : s.host.inStages s.env p x (s.host.frameOf x l.frame).cfg l rest = k at hway hframe hmem
  have hpart {α : Type} {part : Ctx → α} (hp : ∀ c, part c.inPipe = part c := by intro; rfl)
      (hb : ∀ c b, part { c with buf := b } = part c := by intros; rfl) : part (k.ctx x) = part (s.host.ctx x) :=
    hk ▸ s.host.inStages_part s.env p x (s.host.frameOf x l.frame).cfg l rest hbegun hp hb
  have htbl : k.tblWord (k.pipeOf x) = s.host.tblWord (s.host.pipeOf x) := hway.tblWord
  have hlsK (n : Nat) : k.ls n = s.host.ls n := hway.ls n
  rw [← hframe] at hfront hfinal hoff hrow hdisp hcode hmono hby hdest hbegun ⊢
  rw [← htbl] at hfront hfinal
  generalize ht : lutLine (k.frameOf x l.frame).cfg x (k.tblWord (k.pipeOf x)) f = t at hfinal
  have hwrites : k.throughStages s.env x l [] = (k.beforeFinal x l u f t).putRow s.env x
      (cfgGet (k.frameOf x l.frame).cfg (Reg.DEST_CLU x 0)) off row l.count l.missing := by
    rw [hoff, hrow, ← hpart (part := Ctx.table)]
    exact k.throughStages_writes s.env x l _ u f t final [] rfl hbegun hdisp hcode hmono hby
      ((hpart (part := Ctx.bayCur)).trans hbay) ((hpart (part := Ctx.bin)).trans hbin) ((hpart (part := Ctx.binBad)).trans hbad)
      hdest hes hef hfront ht.symm hfinal
  have hpassed : ((s.host.enterPipe s.env x l rest []).runLine s.env p x (s.host.frameOf x l.frame).cfg l []).leavePipe p l = _ :=
    (HostSide.leavePipe_of_within _ p hd hes hef).trans
      ((if_neg (by simp [hd])).trans ((congrArg (fun g : HostSide => g.throughStages s.env x l []) hk).trans hwrites))
  refine ⟨_, (execPixLineProcessed_passes hr hp hturn hbuf hpass (by simp [hd]) [] []).trans
    (congrArg (fun g : HostSide => Host.Outcome.next { s with host := g.settle }) hpassed), ?_⟩
  have hlsG (n : Nat) : (k.beforeFinal x l u f t).ls n = s.host.ls n := ((k.monoTaps_underway x l (u.headD []) (f.headD []) t).ls n).trans (hlsK n)
  have hmemG : (k.beforeFinal x l u f t).mem = (k.monoTaps x l (u.headD []) (f.headD []) t).mem := rfl
  refine ⟨?_, fun a ha => ?_, ?_, fun hn => ?_, fun n hn htap a bs ha hbs => ?_, fun hen htap hmiss => ?_⟩
  · rw [HostSide.ls_settle, HostSide.putRow_read]
  · rw [HostSide.ls_settle, HostSide.putRow_apart _ _ _ _ _ _ _ _ ha, hlsG]
  · rw [HostSide.ctx_settle, HostSide.putRow_table, HostSide.beforeFinal_table, hpart (part := Ctx.table)]
  · rw [HostSide.mem_settle, HostSide.putRow_mem, hmemG, k.monoTaps_mem_of_none x l _ _ t hbegun hn, hmem]
  · subst ha hbs
    unfold HostSide.hostRead
    rw [HostSide.mem_settle, HostSide.putRow_mem, hmemG, k.monoTaps_mem_of_raw x l _ _ t hbegun hn htap, Mem.bytes_setBytes_self]
  · rw [HostSide.frameOf_settle, HostSide.putRow_frame, HostSide.beforeFinal_frame, k.monoTaps_stats x l _ _ t hbegun hen htap hmiss]

end

end Sys2Proof.Machine

/-! SUPPORT. What a dropped stripe leaves when it has passed (R95, R101, R102, R107, R108). -/

namespace Sys2Proof.Machine
open Sys2Proof

theorem Variant.pipes_le (v : Variant) : v.pipes ≤ 8 := by cases v <;> decide

theorem HostSide.settle_chan (h : HostSide) (k i : Nat) : h.settle.chan k i = h.chan k i := HostSide.chan_congr (HostSide.settle_lsc h) k i

/-! ### Lengths -/

theorem length_flatMap_toLE {α : Type} (l : List α) (n : Nat) (v : α → Nat) : (l.flatMap fun a => toLE n (v a)).length = n * l.length := by
  induction l with
  | nil => rfl
  | cons a l ih => simp only [List.flatMap_cons, List.length_append, toLE_length, ih, List.length_cons]; rw [Nat.mul_add_one, Nat.add_comm]

theorem stripeHeader_length (x : Nat) (f : PixFrame) (stripe : Nat) (drop trunc : Bool) (tbl : List (Nat × Bool × Bool)) (first c0 cols : Nat) :
    (stripeHeader x f stripe drop trunc tbl first c0 cols).length = 64 := by simp [stripeHeader]

theorem frameRecord_length (x r : Nat) (f : PixFrame) (trunc : Bool) : (frameRecord x r f trunc).length = 8320 := by
  unfold frameRecord
  extract_lets g slots st out phase skip flags colour geo head hist zone zones
  have hhead : head.length = 128 := by simp [head]
  have hhist : hist.length = 4096 := by
    dsimp only [hist]
    split
    · rw [length_flatMap_toLE, List.length_range]
    · rw [List.length_replicate]
  have hzones : zones.length = 4096 := by
    dsimp only [zones]
    split
    · rw [length_flatMap_toLE, List.length_range]
    · rw [List.length_replicate]
  rw [List.length_append, List.length_append, hhead, hhist, hzones]

/-- The line table as it is written: eight bytes a line, and zeros up to a multiple of 64 (R107). -/
def tableRows (tbl : List (Nat × Bool × Bool)) : List Byte :=
  tbl.flatMap fun r => toLE 8 (r.1 % 2 ^ 32 + b2n r.2.1 * 2 ^ 32 + b2n r.2.2 * 2 ^ 33)
def tablePadded (cfg : SMap Word) (x : Nat) (tbl : List (Nat × Bool × Bool)) : List Byte :=
  tableRows tbl ++ List.replicate (tableBytes cfg x - (tableRows tbl).length) 0

theorem tableRows_length (tbl : List (Nat × Bool × Bool)) : (tableRows tbl).length = 8 * tbl.length := length_flatMap_toLE _ _ _

/-- The table of a dropped stripe has a row for each output line, which its place in the slot holds (R95, R107). -/
theorem tablePadded_dropped_length (cfg : SMap Word) (x : Nat) (counts : List Nat) (hwhole : counts.length = cfgGet cfg (Reg.STRIPE_LINES x)) :
    (tablePadded cfg x (droppedTable cfg x counts)).length = tableBytes cfg x := by
  have hlines : (droppedTable cfg x counts).length = outLines cfg x := by simp [droppedTable, outLines, hwhole]
  have hrows := tableRows_length (droppedTable cfg x counts)
  unfold tablePadded
  rw [List.length_append, List.length_replicate, hrows, hlines]
  unfold tableBytes
  omega

theorem Mem.bytes_take (m : Mem) (a n k : Nat) : (m.bytes a (n + k)).take n = m.bytes a n := by
  induction n generalizing a with
  | zero => simp [Mem.bytes]
  | succ n ih =>
    rw [Nat.succ_add_eq_add_succ, show n + k.succ = (n + k) + 1 from rfl]
    simp only [Mem.bytes, List.take_succ_cons, ih]

/-- The first bytes of those written. -/
theorem Mem.bytes_setBytes_front (m : Mem) (a : Nat) (bs cs : List Byte) : (m.setBytes a (bs ++ cs)).bytes a bs.length = bs := by
  rw [← Mem.bytes_take _ _ _ cs.length, ← List.length_append, Mem.bytes_setBytes_self, List.take_left]

/-! ### The channel bound to a destination (R157) -/

theorem HostSide.boundChan_congr {g h : HostSide} (hw : ∀ a, innerWord a → g.word a = h.word a) (x k : Nat) :
    g.boundChan x k = h.boundChan x k := by
  unfold HostSide.boundChan findN HostSide.on
  congr 1
  refine List.find?_congr fun n hn => ?_
  have hn := List.mem_range.mp hn
  have hget (f : RF) (hf : f.addr = 0x210000 + n / 16 * 0x20000 + n % 16 * 0x20) : g.get f = h.get f :=
    HostSide.get_of_word _ _ _ (hw _ (by unfold innerWord; omega))
  rw [hget (Reg.LSC_CFG.EN _ _) rfl, hget (Reg.LSC_CFG.PROD _ _) rfl, hget (Reg.LSC_CFG.PCTX _ _) rfl, hget (Reg.LSC_CFG.PDEST _ _) rfl]

/-- A channel names a context by seven bits. -/
theorem HostSide.lt_of_boundChan {h : HostSide} {x k : Nat} {ch : Nat × Nat} (hch : h.boundChan x k = some ch) : x < 128 := by
  obtain ⟨n, hn, -⟩ := Option.map_eq_some_iff.mp hch
  have hfound := List.find?_some hn
  simp only [Bool.and_eq_true, beq_iff_eq] at hfound
  obtain ⟨⟨-, hctx⟩, -⟩ := hfound
  exact hctx ▸ RegFile.get_lt _ _

/-! ### A stripe is written and posted (R107, R108) -/

/-- Table and header of a stripe go to the line store, and the stripe is posted to channel `i` of cluster `c`. -/
def HostSide.putStripe (h : HostSide) (e : Env) (clu off : Nat) (rows header : List Byte) (c i first : Nat) : HostSide :=
  let g := (h.lsPut e clu (off + 64) 32 rows []).lsPut e clu off 40 header []
  g.setChan c i { g.chan c i with pipePosts := (g.chan c i).pipePosts ++ [first] }

theorem HostSide.chan_modCtx (h : HostSide) (x : Nat) (f : Ctx → Ctx) (k i : Nat) : (h.modCtx x f).chan k i = h.chan k i := rfl

theorem HostSide.ls_setChan (h : HostSide) (k i : Nat) (y : Lsc) (u : Nat) : (h.setChan k i y).ls u = h.ls u := rfl

section
variable (h : HostSide) (e : Env) (clu off : Nat) (rows header : List Byte) (c i first : Nat)

theorem HostSide.putStripe_header (hlen : header.length = 64) : ((h.putStripe e clu off rows header c i first).ls clu).read off 64 = header := by
  unfold HostSide.putStripe
  rw [HostSide.ls_setChan, ← hlen, HostSide.lsPut_read]

theorem HostSide.putStripe_apart (hlen : header.length = 64) {a : Nat} (ha : a < off ∨ off + 64 + rows.length ≤ a) :
    ((h.putStripe e clu off rows header c i first).ls clu).mem.byte a = (h.ls clu).mem.byte a := by
  unfold HostSide.putStripe
  rw [HostSide.ls_setChan, HostSide.lsPut_apart _ _ _ _ _ _ (by omega), HostSide.lsPut_apart _ _ _ _ _ _ (by omega)]

theorem HostSide.putStripe_rows (hlen : header.length = 64) (pad : List Byte) :
    ((h.putStripe e clu off (rows ++ pad) header c i first).ls clu).read (off + 64) rows.length = rows := by
  unfold HostSide.putStripe
  rw [HostSide.ls_setChan]
  refine (Mem.bytes_congr (n := (h.ls clu).mem.setBytes (off + 64) (rows ++ pad)) fun a hlo _ => ?_).trans (Mem.bytes_setBytes_front _ _ rows pad)
  rw [HostSide.lsPut_apart _ _ _ _ _ _ (by omega), HostSide.lsPut_byte]

theorem HostSide.putStripe_landed : h.Landed ((h.lsPut e clu (off + 64) 32 rows []).lsPut e clu off 40 header []) :=
  (HostSide.Landed.lsPut _ _ _ _ _ _ _).trans (.lsPut _ _ _ _ _ _ _)

theorem HostSide.putStripe_posts : ((h.putStripe e clu off rows header c i first).chan c i).pipePosts = (h.chan c i).pipePosts ++ [first] := by
  unfold HostSide.putStripe
  dsimp only
  rw [HostSide.chan_setChan, if_pos rfl, HostSide.chan_congr (h.putStripe_landed e clu off rows header).lsc]

theorem HostSide.putStripe_ctxs : (h.putStripe e clu off rows header c i first).ctxs = h.ctxs :=
  (h.putStripe_landed e clu off rows header).ctxs

end

/-- A context between two stripes (R107). -/
def Ctx.stripeDone (c : Ctx) : Ctx := { c with table := [], bin := [], binBad := (false, false) }

/-- A stripe with one destination that a channel binds. -/
theorem HostSide.endStripe_bound (h : HostSide) (e : Env) (x : Nat) (f : PixFrame) (stripe : Nat) (drop trunc : Bool)
    (tbl : List (Nat × Bool × Bool)) (first : Nat) {c i : Nat} (hdest : dests f.cfg x = [0]) (hch : h.boundChan x 0 = some (c, i)) :
    h.endStripe e x f stripe drop trunc tbl first [] = (h.putStripe e (cfgGet f.cfg (Reg.DEST_CLU x 0)) (destSlot f.cfg x 0 stripe)
      (tablePadded f.cfg x tbl) (stripeHeader x f stripe drop trunc tbl first (cfgGet f.cfg (Reg.COL_START x 0))
        (cfgGet f.cfg (Reg.COL_COUNT x 0))) c i first).modCtx x Ctx.stripeDone := by
  unfold HostSide.endStripe
  dsimp only
  rw [hdest]
  simp only [List.foldl_cons, List.foldl_nil]
  rw [HostSide.boundChan_congr (HostSide.putStripe_landed h _ _ _ _ _).words, hch]
  rfl

/-! ### A frame ends (R101, R102) -/

section
variable (h : HostSide) (x num : Nat) (trunc : Bool)

theorem HostSide.endFrame_stores : (h.endFrame x num trunc).lstore = h.lstore ∧ (h.endFrame x num trunc).lsc = h.lsc := by
  have hcount (a : Nat) (bs : List Byte) : h.Logged { h.hostWrite a bs with mem := h.mem } :=
    ⟨(congrArg (fun k : HostSide => { k with mem := h.mem })
      (HostSide.Logged.countG { h with mem := h.mem.setBytes a bs } 0x31 0 bs.length).rest).trans rfl,
      (HostSide.Logged.countG { h with mem := h.mem.setBytes a bs } 0x31 0 bs.length).words⟩
  unfold HostSide.endFrame
  dsimp only
  split
  · exact ⟨rfl, rfl⟩
  · exact ⟨(congrArg HostSide.lstore (hcount _ _).rest :), (congrArg HostSide.lsc (hcount _ _).rest :)⟩

theorem HostSide.get_modCtx_set (f : RF) (v : Nat) (c : Ctx → Ctx) : ((h.set f v).modCtx x c).get f = (h.set f v).get f := rfl

/-- The record of a frame that has a number for it. -/
theorem HostSide.endFrame_record {r : Nat} (hr : (h.frameOf x num).rseq = some r) :
    (h.endFrame x num trunc).mem = h.mem.setBytes
        (slotAt (baseOf (h.frameOf x num).cfg (Reg.STATS_BASE_LO x) (Reg.STATS_BASE_HI x)) (cfgGet (h.frameOf x num).cfg (Reg.STATS_SLOTS x)) 8320 r)
        (frameRecord x r (h.frameOf x num) trunc)
      ∧ (h.endFrame x num trunc).get (Reg.CTX_STATUS.FRAME_DONE x) = 1 := by
  unfold HostSide.endFrame
  dsimp only
  rw [hr]
  exact ⟨h.hostWrite_mem _ _, (HostSide.get_modCtx_set _ x _ 1 _).trans (HostSide.get_set_bit _ _ _ 1)⟩

end

/-! ### The turn ends behind the line (R94) -/

theorem HostSide.leavePipe_cases (h : HostSide) (p : Nat) (l : PixLine) : h.leavePipe p l = h ∨ h.leavePipe p l = h.endTurn p := by
  unfold HostSide.leavePipe
  split
  · split
    · exact .inr rfl
    · exact .inl rfl
  · split
    · exact .inr rfl
    · exact .inl rfl

section
variable (h : HostSide) (p : Nat) (l : PixLine)

theorem HostSide.leavePipe_ls (u : Nat) : (h.leavePipe p l).ls u = h.ls u := by
  rcases h.leavePipe_cases p l with e | e
  · rw [e]
  · rw [e]; rfl

theorem HostSide.leavePipe_chan (k i : Nat) : (h.leavePipe p l).chan k i = h.chan k i := by
  rcases h.leavePipe_cases p l with e | e
  · rw [e]
  · rw [e]; rfl

theorem HostSide.leavePipe_mem : (h.leavePipe p l).mem = h.mem := by
  rcases h.leavePipe_cases p l with e | e
  · rw [e]
  · rw [e]; rfl

theorem HostSide.get_endTurn (f : RF) (hf : f.addr ≠ 0x80008 + p * 0x1000) : (h.endTurn p).get f = h.get f :=
  HostSide.get_set_leaves _ _ _ _ (RF.leaves_of_addr (Nat.le_of_ble_eq_true rfl) (Ne.symm hf))

theorem HostSide.leavePipe_get (f : RF) (hf : f.addr ≠ 0x80008 + p * 0x1000) : (h.leavePipe p l).get f = h.get f := by
  rcases h.leavePipe_cases p l with e | e
  · rw [e]
  · rw [e, h.get_endTurn p f hf]

end

/-! ### A dropped stripe passes (R95) -/

/-- What the stages keep of the lines before a dropped stripe. -/
def Ctx.skipped (c : Ctx) (n : Nat) : Ctx := { c with bayPrev := none, delay := (List.replicate n [] ++ c.delay).take 256 }

/-- What a dropped stripe leaves in its slot, its channel and its context. -/
def HostSide.putDropped (h : HostSide) (e : Env) (x : Nat) (l : PixLine) (fr : PixFrame) (c i : Nat) : HostSide :=
  ((h.modCtx x fun y => y.skipped l.counts.length).putStripe e (cfgGet fr.cfg (Reg.DEST_CLU x 0)) (destSlot fr.cfg x 0 l.stripe)
    (tablePadded fr.cfg x (droppedTable fr.cfg x l.counts))
    (stripeHeader x fr l.stripe true false (droppedTable fr.cfg x l.counts) (firstCount (droppedTable fr.cfg x l.counts))
      (cfgGet fr.cfg (Reg.COL_START x 0)) (cfgGet fr.cfg (Reg.COL_COUNT x 0))) c i (firstCount (droppedTable fr.cfg x l.counts))).modCtx x
    Ctx.stripeDone

section
variable (h : HostSide) (e : Env) (x : Nat) (l : PixLine) {fr : PixFrame} {c i : Nat}

theorem HostSide.putDropped_frame (num : Nat) : (h.putDropped e x l fr c i).frameOf x num = h.frameOf x num :=
  HostSide.frameOf_congr (((HostSide.Leaves.refl h).then_modCtx.trans (.of_ctxs (HostSide.putStripe_ctxs _ _ _ _ _ _ _ _ _))).then_modCtx) num

theorem HostSide.droppedTurn_bound (hfr : h.frameOf x l.frame = fr) (hbay : (h.ctx x).bayCur = none) (hdest : dests fr.cfg x = [0])
    (hch : h.boundChan x 0 = some (c, i)) : h.droppedTurn e x l [] =
      if l.endFrame then (h.putDropped e x l fr c i).endFrame x l.frame false else h.putDropped e x l fr c i := by
  have hskip : (h.modCtx x fun y => y.skipped l.counts.length).frameOf x l.frame = fr :=
    (HostSide.frameOf_congr (HostSide.Leaves.refl h).then_modCtx _).trans hfr
  have hput : (h.modCtx x fun y => y.skipped l.counts.length).endStripe e x ((h.modCtx x fun y => y.skipped l.counts.length).frameOf x l.frame)
      l.stripe true false (droppedTable fr.cfg x l.counts) (firstCount (droppedTable fr.cfg x l.counts)) [] = h.putDropped e x l fr c i := by
    rw [hskip]
    exact HostSide.endStripe_bound _ e x fr l.stripe true false _ _ hdest hch
  unfold HostSide.droppedTurn
  dsimp only
  rw [h.bayerOut_of_none e x none [] hbay, hfr]
  exact congrArg (fun g : HostSide => if l.endFrame then g.endFrame x l.frame false else g) hput

theorem HostSide.putDropped_ls (u : Nat) : (h.putDropped e x l fr c i).ls u
    = ((h.modCtx x fun y => y.skipped l.counts.length).putStripe e (cfgGet fr.cfg (Reg.DEST_CLU x 0)) (destSlot fr.cfg x 0 l.stripe)
      (tablePadded fr.cfg x (droppedTable fr.cfg x l.counts))
      (stripeHeader x fr l.stripe true false (droppedTable fr.cfg x l.counts) (firstCount (droppedTable fr.cfg x l.counts))
        (cfgGet fr.cfg (Reg.COL_START x 0)) (cfgGet fr.cfg (Reg.COL_COUNT x 0))) c i (firstCount (droppedTable fr.cfg x l.counts))).ls u := by
  unfold HostSide.putDropped
  rw [HostSide.ls_modCtx]

theorem HostSide.putDropped_posts : ((h.putDropped e x l fr c i).chan c i).pipePosts
    = (h.chan c i).pipePosts ++ [firstCount (droppedTable fr.cfg x l.counts)] := by
  unfold HostSide.putDropped
  rw [HostSide.chan_modCtx, HostSide.putStripe_posts, HostSide.chan_modCtx]

/-- The stripe's slot and its channel stay as the stripe left them, whether or not its frame ends with it. -/
theorem HostSide.ended_keeps (g : HostSide) (p : Nat) :
    (∀ u, ((if l.endFrame then g.endFrame x l.frame false else g).leavePipe p l).ls u = g.ls u)
      ∧ ∀ k j, ((if l.endFrame then g.endFrame x l.frame false else g).leavePipe p l).chan k j = g.chan k j := by
  obtain ⟨hstore, hlsc⟩ := g.endFrame_stores x l.frame false
  refine ⟨fun u => ?_, fun k j => ?_⟩
  · rw [HostSide.leavePipe_ls]
    split
    · exact congrArg (fun m => SMap.get (fun _ => ({} : Store)) m u) hstore
    · rfl
  · rw [HostSide.leavePipe_chan]
    split
    · exact HostSide.chan_congr hlsc k j
    · rfl

end

section
variable {s : State} {p x c i off : Nat} {l : PixLine} {rest : List PixLine} {fr : PixFrame} {cfg : SMap Word}
  {tbl : List (Nat × Bool × Bool)} (hr : s.running) (hp : p < s.variant.pipes) (hturn : (s.host.pipe p).turn = some x)
  (hbuf : (s.host.ctx x).buf = l :: rest) (hpass : s.host.mayPass x l = true) (hfr : s.host.frameOf x l.frame = fr)
  (hbegun : fr.begun = true) (hcfg : fr.cfg = cfg)

include hr hp hturn hbuf hpass hfr hbegun hcfg in
theorem pixLineProcessed_dropped (hd : l.drop = true) (hwhole : l.counts.length = cfgGet cfg (Reg.STRIPE_LINES x))
    (hbay : (s.host.ctx x).bayCur = none) (hdest : dests cfg x = [0]) (hch : s.host.boundChan x 0 = some (c, i))
    (htbl : tbl = droppedTable cfg x l.counts) (hoff : off = destSlot cfg x 0 l.stripe) :
    ∃ t, exec (.pixLineProcessed p [] []) s = .next t
      ∧ (t.host.ls (cfgGet cfg (Reg.DEST_CLU x 0))).read off 64 = stripeHeader x fr l.stripe true false tbl (firstCount tbl)
          (cfgGet cfg (Reg.COL_START x 0)) (cfgGet cfg (Reg.COL_COUNT x 0))
      ∧ (t.host.ls (cfgGet cfg (Reg.DEST_CLU x 0))).read (off + 64) (8 * tbl.length)
          = tbl.flatMap (fun r => toLE 8 (r.1 % 2 ^ 32 + b2n r.2.1 * 2 ^ 32 + b2n r.2.2 * 2 ^ 33))
      ∧ (∀ a, (a < off ∨ off + 64 + tableBytes cfg x ≤ a) → (t.host.ls (cfgGet cfg (Reg.DEST_CLU x 0))).mem.byte a
          = (s.host.ls (cfgGet cfg (Reg.DEST_CLU x 0))).mem.byte a)
      ∧ (t.host.chan c i).pipePosts = (s.host.chan c i).pipePosts ++ [firstCount tbl]
      ∧ (l.endFrame = true → ∀ r, fr.rseq = some r →
          t.host.hostRead (slotAt (baseOf cfg (Reg.STATS_BASE_LO x) (Reg.STATS_BASE_HI x)) (cfgGet cfg (Reg.STATS_SLOTS x)) 8320 r) 8320
            = frameRecord x r fr false ∧ t.host.get (Reg.CTX_STATUS.FRAME_DONE x) = 1) := by
  subst hcfg hoff htbl
  have hx := HostSide.lt_of_boundChan hch
  have hp8 := hp.trans_le s.variant.pipes_le
  have hway := s.host.enterPipe_underway s.env x l rest (by rw [hfr]; exact hbegun)
  have hframe := (s.host.enterPipe_frame s.env x l rest (by rw [hfr]; exact hbegun)).trans hfr
  have hfree (a : Nat) (ha : innerWord a) : a ≠ 0x90008 + x * 0x400 ∧ a ≠ 0x90224 + x * 0x400 := by
    unfold innerWord at ha
    omega
  have hpassed : ((s.host.enterPipe s.env x l rest []).runLine s.env p x (s.host.frameOf x l.frame).cfg l []).leavePipe p l = _ :=
    congrArg (fun g : HostSide => g.leavePipe p l) ((if_pos hd).trans
      ((s.host.enterPipe s.env x l rest []).droppedTurn_bound s.env x l hframe
        ((hway.part (part := Ctx.bayCur)).trans ((congrArg Ctx.bayCur (s.host.ctx_modCtx_self x _)).trans hbay)) hdest
        ((HostSide.boundChan_congr (fun a ha => hway.words a ha (hfree a ha).1 (hfree a ha).2) x 0).trans hch)))
  refine ⟨_, (execPixLineProcessed_passes hr hp hturn hbuf hpass (fun _ => by rw [hfr]; exact hwhole) [] []).trans
    (congrArg (fun g : HostSide => Host.Outcome.next { s with host := g.settle }) hpassed), ?_⟩
  clear hpassed
  generalize s.host.enterPipe s.env x l rest [] = k at hway hframe ⊢
  have hls0 (u : Nat) : (k.modCtx x fun y => y.skipped l.counts.length).ls u = s.host.ls u := (HostSide.ls_modCtx _ _ _ _).trans (hway.ls u)
  have hlsc : k.lsc = s.host.lsc := (congrArg HostSide.lsc hway.rest :)
  have hframeD : (k.putDropped s.env x l fr c i).frameOf x l.frame = fr := (HostSide.putDropped_frame _ _ _ _ _).trans hframe
  obtain ⟨hls, hchan⟩ := HostSide.ended_keeps x l (k.putDropped s.env x l fr c i) p
  refine ⟨?_, ?_, fun a ha => ?_, ?_, fun hef r hseq => ⟨?_, ?_⟩⟩
  · rw [HostSide.ls_settle, hls, HostSide.putDropped_ls, HostSide.putStripe_header _ _ _ _ _ _ _ _ _ (stripeHeader_length ..)]
  · rw [HostSide.ls_settle, hls, HostSide.putDropped_ls, ← tableRows_length]
    exact HostSide.putStripe_rows _ _ _ _ (tableRows _) _ c i _ (stripeHeader_length ..) _
  · rw [HostSide.ls_settle, hls, HostSide.putDropped_ls, HostSide.putStripe_apart _ _ _ _ _ _ _ _ _ (stripeHeader_length ..)
      (by rwa [tablePadded_dropped_length _ _ _ hwhole]), hls0]
  · rw [HostSide.settle_chan, hchan, HostSide.putDropped_posts, HostSide.chan_congr hlsc]
  · unfold HostSide.hostRead
    rw [HostSide.mem_settle, HostSide.leavePipe_mem, if_pos hef,
      (HostSide.endFrame_record _ x l.frame false (by rw [hframeD]; exact hseq)).1, hframeD]
    exact (congrArg (Mem.bytes _ _) (frameRecord_length x r fr false).symm).trans (Mem.bytes_setBytes_self _ _ _)
  · rw [HostSide.settle_get_ctx _ Reg.CTX_STATUS.FRAME_DONE x, HostSide.leavePipe_get _ _ _ _ (by simp only [Reg.CTX_STATUS.FRAME_DONE]; omega),
      if_pos hef, (HostSide.endFrame_record _ x l.frame false (by rw [hframeD]; exact hseq)).2]

end

/-- Settles O15: the ingress and the turns, each command through the state it leaves; a mono line and a dropped stripe, through the
state that the stages hand to the formatters and what these put into the line store. -/
theorem pixelIngressLines : Obligations.PixelIngressLines := by
  unfold Obligations.PixelIngressLines
  refine ⟨fun s n x hu hn hx hon hlink hpair => pixLineComplete_pairs hu hn hx hon hlink hpair,
    fun s x c rest hu hx hon hticks => pixTickTimeout_retires hu hx hon hticks,
    fun s p x hr hp hidle hpos hvalid hx hon hpipe => pipeTurnStart_turns hr hp hidle hpos hvalid hx hon hpipe,
    fun s p x l rest hr hp hturn hbuf hpass hwhole bad ecc => pixLineProcessed_buf hr hp hturn hbuf hpass hwhole bad ecc,
    fun s p x off l rest fr cfg u f final row hr hp hturn hbuf hpass hd hes hef hfr hbegun hcfg hdisp hcode hmono hby hbay hbin hbad hdest
      hfront hfinal hoff hrow => pixLineProcessed_mono hr hp hturn hbuf hpass hfr hbegun hcfg hd hes hef hdisp hcode hmono hby hbay hbin hbad
        hdest hfront hfinal hoff hrow,
    fun s p x c i off l rest fr cfg tbl hr hp hturn hbuf hpass hd hwhole hfr hbegun hcfg hbay hdest hch htbl hoff =>
      pixLineProcessed_dropped hr hp hturn hbuf hpass hfr hbegun hcfg hd hwhole hbay hdest hch htbl hoff,
    fun s k i hr hk hi => pipeFreeNotice_adds hr hk hi⟩

end Sys2Proof.Machine
